-- ==== Sys2Proof/Word.lean ====
section
/-! DEFINITION. The word types of the FM7240 and the sparse table that holds a file of like registers or records. -/

namespace Sys2Proof

/-- One byte of an address space. -/
abbrev Byte := BitVec 8

/-- One 32-bit register of BAR0 (R6). -/
abbrev Word := BitVec 32

/-- A file of like things by number, listed with rising numbers; a number that is not listed holds the
file's reset value, which the reader of the file names. -/
abbrev Tbl (α : Type) := List (Nat × α)

/-- The largest value a 32-bit counter reaches (R535: counters stop there). -/
def Word.top : Word := 0xFFFFFFFF#32

end Sys2Proof
end

