-- ==== Sys2Proof/Syntax/Common.lean ====
section
/-! DEFINITION. Operand types that every family of commands shares: the transport and header of a Kervon packet,
and what an image in Pasture holds. -/

namespace Sys2Proof

/-- The transport that carried a Kervon packet (R515): host ring 0 to 3 or service-port session 0 to 7. -/
inductive Transport where
  | ring (r : Nat)
  | session (k : Nat)
deriving DecidableEq, Repr

/-- The header of a Kervon packet (R508), with the transport it came by: `extra` holds what the packet's LENGTH covers beyond the bytes that the
opcode's parameters take. -/
structure CmdHdr where
  tr : Transport
  seq : BitVec 16
  length : Nat
  flags : BitVec 8
  owner : BitVec 8
  expEpoch : Word
  check : Word
  extra : List Byte
deriving DecidableEq, Repr

/-- FLAGS of a header (R508): RESPONSE_WANTED, EPOCH_CHECK and PRESENCE_EXPECTED, and whether a reserved bit is set. -/
def CmdHdr.respWanted (h : CmdHdr) : Bool := h.flags.getLsbD 0
def CmdHdr.epochCheck (h : CmdHdr) : Bool := h.flags.getLsbD 1
def CmdHdr.presenceExpected (h : CmdHdr) : Bool := h.flags.getLsbD 2
def CmdHdr.reservedFlag (h : CmdHdr) : Bool := h.flags >>> 3 != 0#8

/-- Whether LENGTH is above 4,080 (R508). -/
def CmdHdr.lengthOver (h : CmdHdr) : Bool := decide (4080 < h.length)

/-- A task of an engine program as its image declares it (R216, R223): its class 0 AUDIO, 1 VIDEO or 2 BACKGROUND, its trigger 0 the bell, 1 an
event line or 2 mailbox arrival (the codes in the order R216 lists them; log 168), its cycles per tick, and the deadline in ticks of a VIDEO task. -/
structure TaskRec where
  entry : Nat
  cls : Nat
  trigger : Nat
  line : Nat
  cycles : Nat
  deadline : Nat
deriving DecidableEq, Repr

/-- A Sayth image as it stands in Pasture, the boot store or host memory (R223, R472): its KIND, program,
version, rollback value, signer slot and size, what its checks find, and of an engine image the task table, code and initial data. -/
structure ImageDesc where
  kind : Nat
  programId : Nat
  version : Nat
  rollback : Nat
  signerSlot : Nat
  size : Nat
  formOk : Bool
  hashOk : Bool
  sigOk : Bool
  cycles : Nat
  credits : Nat
  digest : Nat
  streams : Nat := 0
  events : Nat := 0
  table : List TaskRec := []
  code : List Byte := []
  data : List Byte := []
deriving DecidableEq, Repr

/-- What a Pasture or memory read finds of its check bits (R444). -/
inductive EccFind where
  | clean
  | correctable
  | uncorrectable
deriving DecidableEq, Repr

end Sys2Proof
end

