-- ==== Sys2Proof/Syntax/TAcc.lean ====
section
/-! DEFINITION. Operand types of the access link (chapters 07 and 08). Instants within an upstream frame are in units of
0.1 ns from the frame's first bit. -/

namespace Sys2Proof

/-- The header of a downstream PLOAM message (R237): the ONU-ID it addresses, 1,023 for broadcast, its sequence number,
whether its integrity check holds, and the instant in ns. -/
structure PloamHdr where
  onu : Nat
  seq : Nat
  micOk : Bool
  now : Nat
deriving DecidableEq, Repr

/-- The fields ACC_CONFIG sets (R258). -/
structure AccCfg where
  native : Bool
  rate : Nat
  regId : Nat
  to1 : Nat
  to2 : Nat
  tkey : Nat
  flapWindow : Nat
  qbase : Nat
deriving DecidableEq, Repr

/-- What a slice sees of one downstream frame (R236, R243, R262, R263, R266, R267, R279): of a standard frame whether the pattern stands at its place with a good count, and
its count; of a native one the PAM4 levels of the frame, errors corrected (R262), from which these are read; its skew against the reference in ns, codewords corrected and
uncorrectable, the frame's time-stamp, and the instant in ns. -/
structure DsFrame where
  found : Bool
  countOk : Bool
  frameCount : Nat
  chan : Nat
  skew : Int
  fecCorr : Nat
  fecUncorr : Nat
  stamp : Nat
  now : Nat
  levels : List Nat
deriving DecidableEq, Repr

/-- A grant of a bandwidth map: its Alloc-ID, profile, first and last instant, payload capacity in bytes, whether it is
an upstream PLOAM opportunity, whether it asks for occupancy, and what it is for (0 traffic, 1 serial number, 2 ranging). -/
structure Grant where
  alloc : Nat
  profile : Nat
  start : Nat
  stop : Nat
  cap : Nat
  ploam : Bool
  report : Bool
  kind : Nat
deriving DecidableEq, Repr

/-- A downstream GEM frame (R243, R246, R269): its port, the key index it names if it is encrypted, whether its payload
begins and ends an SDU, its payload, the frame it arrived in, and the instant in ns. -/
structure GemIn where
  port : Nat
  keyIdx : Option Nat
  multicast : Bool
  first : Bool
  last : Bool
  data : List Byte
  frame : Nat
  now : Nat
deriving DecidableEq, Repr

/-- A bonded fragment (R269): whether VER and HCRC are right, its header fields and its data. -/
structure FragIn where
  verOk : Bool
  hcrcOk : Bool
  sof : Bool
  eof : Bool
  seq : Nat
  port : Nat
  data : List Byte
deriving DecidableEq, Repr

/-- The header of a bond message (R273): the integrity check's result, whether every reserved byte is zero, the frame
that carried it, and the instant in ns. -/
structure BondHdr where
  micOk : Bool
  reservedOk : Bool
  onu : Nat
  msgSeq : Nat
  bondId : Nat
  epoch : Nat
  channel : Nat
  frame : Nat
  now : Nat
deriving DecidableEq, Repr

/-- What an OMCI message asks (R250, R528). An effect on the slice that G.988 gives the operation stands beside it. -/
inductive OmciOp where
  | create (attrs : List (Nat × Nat))
  | delete
  | set (attrs : List (Nat × Nat))
  | get (mask : Nat)
  | other
deriving DecidableEq, Repr

/-- What a managed-entity operation does to the slice (R243 to R245, R249, R300). -/
inductive OmciEffect where
  | none
  | gemPort (port : Nat) (present : Bool)
  | authenticated
  | groupKey (index : Nat) (unwrapped : Nat)
  | dataSync
deriving DecidableEq, Repr

end Sys2Proof
end

