-- ==== Sys2Proof/Syntax/TBell.lean ====
section
/-! DEFINITION. Operand types of the bell and time commands. -/

namespace Sys2Proof

/-- The fields TIME_CONFIG writes (R530). -/
structure TimeCfg where
  todSrc : Bool
  autoRate : Bool
  src : Nat
  phaseOfs : Nat
  holdDrift : Nat
  todStepMax : Nat
  todErr : Nat
  ppsWidth : Nat
  rclkSquelch : Bool
  rclkSel : Nat
  sleepDrift : Nat
  cascAsym0 : Word
  cascAsym1 : Word
  succRank : Nat
deriving DecidableEq, Repr

/-- A bell marker (R69): `state` is the bellwether's lock state as BELL.STATUS.STATE codes it. -/
structure Marker where
  tick : BitVec 64
  device : Nat
  state : Nat
  timeErr : Word
  epoch : Nat
deriving DecidableEq, Repr

/-- What an engine did in the tick that a bell ends, and its AUDIO tasks of the next (R45, R217): tasks that completed, cycles used, whether
work was late, and the legs whose work that was. -/
structure EngTick where
  eng : Nat
  finished : List Nat
  tasks : List Nat
  cycles : Nat
  overran : Bool
  legs : List Nat
deriving DecidableEq, Repr

/-- What a bell finds: cycles of the references since the last one, work that was late (inputs, mixes and routes, R21), the engines, the headsets'
ADC blocks, the block that each leg's jitter buffer and decoder give with whether it is concealed, the RTP packets that encoders have
filled (leg, payload bytes), words that scrubbers did not reach and the errors they found (R447), and what the units stored in
memories whose layout the spec does not give (class, address, bytes; R452). -/
structure TickIn where
  refCycles : Nat
  crystalCycles : Nat
  lostIn : List Nat
  lostMix : List Nat
  lostRoutes : List Nat
  engines : List EngTick
  mics : List (Nat × List Int)
  decoded : List (Nat × List Int × Bool)
  packets : List (Nat × Nat)
  scrubShort : List (Nat × Nat)
  scrubFound : List (Nat × Nat × EccFind)
  stores : List (Nat × Nat × Nat)
deriving DecidableEq, Repr

end Sys2Proof
end

