-- ==== Sys2Proof/Syntax/TCasc.lean ====
section
/-! DEFINITION. Operand types of the Commons (chapter 18). -/

namespace Sys2Proof

/-- The header of a cascade frame that arrives on cascade port `port` (R538): its fields, CORR in units of 2⁻¹⁶ ns, and its TAG (empty where
its TYPE has none) and CRC as received. -/
structure CascHdr where
  port : Nat
  hops : Nat
  src : Nat
  dst : Nat
  corr : Int
  tag : List Byte
  crc : Nat
deriving DecidableEq, Repr

/-- One input of a contribution frame (R543): its number over the domain, level in 1/16 dB and samples. -/
structure ContribIn where
  input : Nat
  level : Option Int
  alarm : Bool
  priority : Bool
  blk : List Int
deriving DecidableEq, Repr

/-- A MEDIA payload (R542 to R544, R547): a contribution to the home, or a set of output blocks, for a conference by its tag, each with the
low 32 bits of its capture tick; a packet for a shadow leg, with the tick in which PARSE delivered it; and the CRC-32C of a leg's output
of a tick, `own` being that of the shadow's own output. -/
inductive MediaPay where
  | contribution (tag tick : Nat) (ins : List ContribIn)
  | outputs (tag tick : Nat) (blocks : List (Nat × List Int))
  | shadowPacket (leg tick cls flags stamp : Nat) (bytes : List Byte)
  | shadowCrc (leg tick : Nat) (crc own : Word)
deriving DecidableEq, Repr

end Sys2Proof
end

