-- ==== Sys2Proof/Syntax/TDrove.lean ====
section
/-! DEFINITION. Operand types of the Drove (chapter 14). -/

namespace Sys2Proof

/-- A descriptor as the Drove reads it (R428): its fields, and whether its reserved bits are zero. -/
structure DescIn where
  src : Nat
  dst : Nat
  length : Nat
  srcSpace : Nat
  dstSpace : Nat
  burst : Nat
  req : Nat
  reqEn : Bool
  event : Bool
  last : Bool
  fixSrc : Bool
  fixDst : Bool
  link : Bool
  cls : Nat
  reservedOk : Bool
deriving DecidableEq, Repr

/-- What an access meets: an error of the PCI Express or of INTEG, or a packet handle gone stale, with the failing address (R438). -/
structure DroveFail where
  kind : Nat
  addr : BitVec 64
deriving DecidableEq, Repr

/-- What a burst boundary finds (R432 to R438): the request lines asserted; for a channel that fetches, the 32 bytes that host or control memory
gives and a fault of the fetch; the bytes that host memory, control memory, a packet or a peripheral gives; faults of the read and
of the write; and who listens on event lines. -/
structure BurstIn where
  reqs : List Nat
  fetchBytes : Tbl (List Byte)
  fetchFail : Tbl DroveFail
  data : List Byte
  readFail : Option DroveFail
  writeFail : Option DroveFail
  listeners : List (Nat × Nat)
deriving DecidableEq, Repr

end Sys2Proof
end

