-- ==== Sys2Proof/Syntax/TFlock.lean ====
section
/-! DEFINITION. Operand forms of the Flock engine's operations (chapter 06). -/

namespace Sys2Proof

/-- An operation's place: the logical engine, the cycles since the engine's last operation of the model (0 in the same
bundle), the slot (0 MAC0, 1 MAC1, 2 LS, 3 ALU), and the predicate register and value it waits on, if any (R197). -/
structure Issue where
  eng : Nat
  gap : Nat
  slot : Nat
  pred : Option (Nat × Bool)
deriving DecidableEq, Repr

/-- Operand b of a MAC operation: a vector register, or a scalar broadcast to every lane (R203). -/
inductive MacB where
  | v (n : Nat)
  | s (n : Nat)
deriving DecidableEq, Repr

/-- The signedness of a and b (R203). -/
inductive Sign where
  | ss | su | uu
deriving DecidableEq, Repr

/-- The three address forms of R202. -/
inductive Addr where
  | plain (k : Nat)
  | postInc (k : Nat) (inc : Int)
  | offset (k : Nat) (dist : Int)
deriving DecidableEq, Repr

/-- What a load writes or a store reads: a scalar word, a vector of 16 lanes, or a wide pair of 8 lanes (R198, R207). -/
inductive LsReg where
  | s (n : Nat)
  | v (n : Nat)
  | w (n : Nat)
deriving DecidableEq, Repr

/-- A scalar source. -/
inductive ScSrc where
  | s (n : Nat)
  | p (n : Nat)
  | imm (v : Word)
deriving DecidableEq, Repr

/-- A scalar destination. -/
inductive ScDst where
  | s (n : Nat)
  | p (n : Nat)
  | q (n : Nat)
deriving DecidableEq, Repr

/-- The scalar operations of R197 and R198. -/
inductive ScOp where
  | add | sub | and_ | or_ | xor_ | shl | shrLogical | shrArith | mulLow | mov | cmpEq | cmpLtSigned | cmpLtUnsigned | setPred
deriving DecidableEq, Repr

/-- A control register write: cb, cl, or esr.SAT cleared (R196, R198). -/
inductive CtlWrite where
  | cb (k : Nat) (src : Nat)
  | cl (k : Nat) (src : Nat)
  | clearSat
deriving DecidableEq, Repr

/-- The MAC operations (R203). -/
inductive MacOp where
  | mul | mac | msu | sum | clr
deriving DecidableEq, Repr

/-- The kinds of interrupt an engine takes (R210). -/
inductive EngInt where
  | bell | slotTimer | event | mailbox
deriving DecidableEq, Repr

end Sys2Proof
end

