-- ==== Sys2Proof/Syntax/TFold.lean ====
section
/-! DEFINITION. Operand types of the trust commands (chapter 16). -/

namespace Sys2Proof

/-- The context label of a derivation (R481). -/
structure CtxLabel where
  purpose : Nat
  version : Nat
  outLen : Nat
  generation : Nat
  object : Nat
  caller : Nat
deriving DecidableEq, Repr

/-- The record of a security association (R483), key and salt apart: `zeroOk` says that every reserved byte is zero. -/
structure SaRecord where
  path : Nat
  cipher : Nat
  dir : Nat
  keyLen : Nat
  pktLimit : Nat
  byteLimit : Nat
  ssci : Nat
  zeroOk : Bool
deriving DecidableEq, Repr

/-- Where SA_CREATE takes the key from (R486, R503). For IMPORT: the session, the wrapped record and what it unwraps to (log 175). For DERIVE: the
base handle, the context label and the clear fields of the record. -/
inductive SaSource where
  | imported (session : Nat) (wrapped plain : List Byte)
  | derived (base : Nat) (label : CtxLabel) (rcd : SaRecord)
deriving DecidableEq, Repr

/-- The fields of a generation (R493, bytes 3 to 223). -/
structure OtpFields where
  rootEpoch : Nat
  jumper : Bool
  debug : Bool
  mgmt : Bool
  keylistHash : Nat
  mgmtKeyHash : Nat
  ownerId : Nat
deriving DecidableEq, Repr

/-- A key list as TRUST_KEYLIST_LOAD carries it (R475): its slots with their moduli. -/
structure KeyList where
  keys : List (Nat × Nat)
deriving DecidableEq, Repr

end Sys2Proof
end

