-- ==== Sys2Proof/Syntax/TMedia.lean ====
section
/-! DEFINITION. Operand types of conferences and legs (chapter 03), audio (chapter 04), video (chapter 05) and trunks
(chapter 09). `reservedOk` says that every reserved bit and byte of the record is zero. -/

namespace Sys2Proof

/-- The conference record (R76). -/
structure ConfRec where
  id : Nat
  mixEngine : Nat
  topK : Nat
  langCount : Nat
  spans : Bool
  leaveFade : Bool
  video : Bool
  encSettings : Nat
  inputReserve : Nat
  tag : Nat
  reservedOk : Bool
deriving DecidableEq, Repr

/-- The leg record (R77); addresses as 128-bit numbers in network order. -/
structure LegRec where
  id : Nat
  conf : Nat
  audioIn : Bool
  audioOut : Bool
  ipv6 : Bool
  srtp : Bool
  nackReq : Bool
  ecn : Bool
  fixed : Bool
  audioFec : Bool
  videoOut : Nat
  contrib : Bool
  hashProfile : Nat
  ctrlDest : Nat
  localAddr : Nat
  remoteAddr : Nat
  localPort : Nat
  remotePort : Nat
  egress : Nat
  dscp : Nat
  tci : Nat
  aSsrcIn : Nat
  aSsrcOut : Nat
  vSsrcIn : Nat
  vSsrcOut : Nat
  aCodec : Nat
  aPt : Nat
  vCodecIn : Nat
  vPtIn : Nat
  vCodecOut : Nat
  vPtOut : Nat
  extDd : Nat
  lang : Nat
  saIn : Nat
  saOut : Nat
  jbMin : Nat
  jbMax : Nat
  bwMin : Nat
  bwMax : Nat
  bwStart : Nat
  arMin : Nat
  arMax : Nat
  maxW : Nat
  maxH : Nat
  maxFps : Nat
  layout : Nat
  fbInterval : Nat
  allocId : Nat
  contribMax : Nat
  reservedOk : Bool
deriving DecidableEq, Repr

/-- The route record (R137), and the rate its source declares (R116). -/
structure RouteRec where
  id : Nat
  output : Bool
  crossfade : Bool
  gateOk : Bool
  conf : Nat
  role : Nat
  channel : Nat
  endType : Nat
  endUnit : Nat
  endIndex : Nat
  minus : Nat
  gain : Nat
  monitor : Nat
  engine : Nat
  rateHz : Nat
  reservedOk : Bool
deriving DecidableEq, Repr

/-- The TDM record (R149): MODE [3:0] and ENABLE apart. -/
structure TdmRec where
  port : Nat
  slots : Nat
  width : Nat
  mode : Nat
  enable : Bool
  fsHz : Nat
  reservedOk : Bool
deriving DecidableEq, Repr

/-- The contribution record (R161). -/
structure ContribRec where
  leg : Nat
  mode : Nat
  relayer : Bool
  width : Nat
  height : Nat
  fps : Nat
  reservedOk : Bool
deriving DecidableEq, Repr

/-- The coding profiles that the decode clusters accept (R158). -/
inductive VProfile where
  | avcConstrainedBaseline | avcMain | avcHigh | hevcMain | hevcMain10 | vvcMain10 | vvcMultilayerMain10 | av1Main | other
deriving DecidableEq, Repr

/-- What the packets, parameter sets and slice headers of a VVC picture say of the rows of R171: aggregation packets and DONL, the highest
nuh_layer_id and TemporalId, the conformance window by its left, right, top and bottom in luma samples, sps_bitdepth_minus8, sps_log2_ctu_size_minus5,
the uniform tile in CTUs, rectangular slices, their number, the loop filter across tiles, the subpictures signalled, the NAL unit type, leading pictures,
B slices, for each active reference how many pictures it lies back in decoding order, the picture order count, the six flags of row 11 and the tools of row 12 as
bits, APS NAL units, and the values of every other element. -/
structure VvcIn where
  aggregated : Bool
  donl : Bool
  layerId : Nat
  temporalId : Nat
  window : Option (Nat × Nat × Nat × Nat)
  depth8 : Nat
  ctu5 : Nat
  tile : Nat × Nat
  rectSlices : Bool
  slices : Nat
  acrossTiles : Bool
  subpics : Nat
  nal : Nat
  leading : Bool
  bSlices : Bool
  refs : List Nat
  poc : Nat
  inPh : Nat
  tools : Nat
  aps : Bool
  others : List Nat
deriving DecidableEq, Repr

/-- A contribution picture as it is reassembled (R22, R158, R163, R185): the decoded size of each of its layers from the lowest, profile, ten times the
level, bit depth, whether it is progressive and 4:2:0, whether it is an intra point, whether a part is lost after repair, and what R171 looks at in VVC. -/
structure PicIn where
  layers : List (Nat × Nat)
  profile : VProfile
  level : Nat
  depth : Nat
  progressive : Bool
  c420 : Bool
  intra : Bool
  lost : Bool
  vvc : VvcIn
deriving DecidableEq, Repr

/-- A cell of a variant (R174). -/
structure CellRec where
  x : Nat
  y : Nat
  w : Nat
  h : Nat
  kind : Nat
  tier : Nat
  source : Nat
deriving DecidableEq, Repr

/-- A variant block (R174). -/
structure VariantRec where
  w : Nat
  h : Nat
  fps : Nat
  cells : List CellRec
deriving DecidableEq, Repr

/-- The layout record (R173): the variants present in the order S, M, L. -/
structure LayoutRec where
  id : Nat
  conf : Nat
  excludeSelf : Bool
  hasS : Bool
  hasM : Bool
  hasL : Bool
  border : Nat
  videoHold : Nat
  refresh : Nat
  variants : List VariantRec
  reservedOk : Bool
deriving DecidableEq, Repr

/-- The trunk record (R313). -/
structure TrunkRec where
  trunk : Nat
  inbound : Bool
  outbound : Bool
  channels : Nat
  degInsert : Bool
  bonded : Bool
  engine : Nat
  slice : Nat
  target : Nat
  portIn : Nat
  portOut : Nat
  allocId : Nat
  degThr : Nat
  degSet : Nat
  degClr : Nat
  reservedOk : Bool
deriving DecidableEq, Repr

/-- What LEG_PACKET_RX is given beside the leg: the packet as the SRTP unit leaves it (R85 to R88), with its RTP timestamp, its marker, the
instant of its ingress in ns, the ECN field of its IP header, and the header extension and payload that pass unchanged where it is forwarded (R165). -/
structure RtpIn where
  b0 : Nat
  b1 : Nat
  ssrc : Nat
  index : Nat
  bytes : Nat
  authNew : Bool
  authOld : Bool
  ts : Nat
  marker : Bool
  stamp : Nat
  ecn : Nat
  body : List Byte
deriving DecidableEq, Repr

/-- An operating point that a source describes (R101): spatial and temporal layer, picture size and rate. -/
structure OpDim where
  spatial : Nat
  temporal : Nat
  width : Nat
  height : Nat
  fps : Nat
deriving DecidableEq, Repr

/-- What a forwarded video packet says of its layer (R165, R166): spatial and temporal layer, whether it opens a picture, whether
its picture is a point at which a higher spatial layer may be joined, and at which a higher temporal layer may; and, where the packet carries its stream's
structure, the operating points that it names. -/
structure LayerIn where
  spatial : Nat
  temporal : Nat
  opens : Bool
  spatialSwitch : Bool
  temporalSwitch : Bool
  dims : List OpDim
deriving DecidableEq, Repr

/-- What an RFC 8888 report says of one SSRC (R97): the first sequence number it covers, and for each from there on, where the packet came,
its ECN field and its arrival before the report's time-stamp in 1/1,024 s. -/
structure CcBlock where
  ssrc : Nat
  first : Nat
  metrics : List (Option (Nat × Nat))
deriving DecidableEq, Repr

/-- What the RTCP of a leg says (R97, R104 to R106): an RFC 8888 report with its time-stamp in 1/65,536 s, a receiver report's LSR and DLSR in the same
unit, and requests. -/
inductive RtcpKind where
  | report (rts : Nat) (blocks : List CcBlock)
  | receiver (lsr dlsr : Nat)
  | nack (ssrc : Nat) (lost : List Nat)
  | pli (ssrc : Nat)
  | fir (ssrc : Nat) (seq : Nat)
  | other
deriving DecidableEq, Repr

end Sys2Proof
end

