-- ==== Sys2Proof/Syntax/TNet.lean ====
section
/-! DEFINITION. Operand types of the packet side: parsing (chapter 12), queues (chapter 13), client ports (chapter 11). -/

namespace Sys2Proof

/-- A PARSE action (R384); `reservedOk` says that every reserved field is zero. -/
structure ActionRec where
  dest : Nat
  cls : Nat
  colour : Nat
  target : Nat
  policer : Nat
  pushTci : Nat
  pushTpid : Bool
  reservedOk : Bool
deriving DecidableEq, Repr

/-- A rule (R383): a 64-byte value and mask, byte 0 most significant, and an action. -/
structure RuleRec where
  value : BitVec 512
  mask : BitVec 512
  action : ActionRec
deriving DecidableEq, Repr

/-- The fields of TM_QUEUE_ALLOC and TM_QUEUE_SET (R421). -/
structure QueueFields where
  group : Nat
  slot : Nat
  quantum : Nat
  limitG : Nat
  yPct : Nat
  rPct : Nat
  deep : Bool
deriving DecidableEq, Repr

/-- The fields of TM_METER_SET (R421). -/
structure MeterFields where
  mode : Nat
  yellowAct : Nat
  redAct : Nat
  cir : Nat
  cbs : Nat
  pir : Nat
  pbs : Nat
deriving DecidableEq, Repr

/-- The fields of CLI_PORT_CONFIG: PORT_CTRL, MAX_FRAME, FILTER_CTRL, TAG_CTRL and LPI_CTRL (R369, R370). -/
structure PortFields where
  enable : Bool
  pauseRx : Bool
  svcAuto : Bool
  svcSpeed : Nat
  svcDuplex : Bool
  maxFrame : Nat
  promisc : Bool
  passAllMcast : Bool
  pvid : Nat
  pcpDefault : Nat
  ingPush : Bool
  ingTpid : Bool
  egrStrip : Bool
  lpiEn : Bool
  lpiIdle : Nat
  lpiRxTw : Nat
  lpiTwMax : Nat
deriving DecidableEq, Repr

/-- What a MACsec receiver finds of a frame (R361 to R363): none, or the SecTAG's SCI, AN and packet number and whether
the ICV is right. -/
inductive MacsecTag where
  | untagged
  | secured (sci : Nat) (an : Nat) (pn : Nat) (icvOk : Bool)
deriving DecidableEq, Repr

/-- An attempt to send: the instant in ns, the egress time-stamp in units of 2⁻¹⁶ ns (R53), and for half duplex whether it was
deferred for carrier, lost its carrier or met a collision (R356). -/
structure TxOp where
  now : Nat
  stamp : Nat
  deferred : Bool
  carrierLost : Bool
  collided : Bool
deriving DecidableEq, Repr

/-- A frame as a port receives it: the bytes from the destination address to before the FCS, less SecTAG and ICV, what
the port finds of its FCS, PCS and last byte, its MACsec tag, the ingress time-stamp in units of 2⁻¹⁶ ns (R53) and, for the
cut-through path, the egress one, the instant in ns, and whether the egress port is sending. -/
structure FrameIn where
  bytes : List Byte
  fcsOk : Bool
  pcsErr : Bool
  partialByte : Bool
  macsec : MacsecTag
  stamp : Nat
  outStamp : Nat
  now : Nat
  egressBusy : Bool
deriving DecidableEq, Repr

end Sys2Proof
end

