-- ==== Sys2Proof/Syntax/Kervon.lean ====
section
/-! DEFINITION. The Kervon commands (R529) as the control cores read them: opcode and parameters. -/

namespace Sys2Proof

/-- A Kervon command: one constructor per defined opcode of R529, and an opcode that no group defines. -/
inductive KCmd where
  /-- SYS_QUERY, opcode 0x0100. -/
  | sysQuery
  /-- PASTURE_ALLOT_SET, opcode 0x0101. -/
  | pastureAllotSet (allots : List Nat)
  /-- PASTURE_QUERY, opcode 0x0102. -/
  | pastureQuery
  /-- TIME_CONFIG, opcode 0x0110. -/
  | timeConfig (cfg : TimeCfg)
  /-- TIME_SET, opcode 0x0111. -/
  | timeSet (offset : BitVec 128) (bound : Word)
  /-- TIME_RATE, opcode 0x0112. -/
  | timeRate (rate : BitVec 32)
  /-- TIME_OFFSET_CONFIRM, opcode 0x0113. -/
  | timeOffsetConfirm (action : Nat)
  /-- MGMT_CONFIG, opcode 0x0120. -/
  | mgmtConfig (addr port idle : Nat)
  /-- MGMT_SESSION_QUERY, opcode 0x0121. -/
  | mgmtSessionQuery
  /-- MGMT_SESSION_CLOSE, opcode 0x0122. -/
  | mgmtSessionClose (session : Nat)
  /-- FW_STORE_WRITE, opcode 0x0130. -/
  | fwStoreWrite (kind slot offset : Nat) (img : ImageDesc)
  /-- FW_RECOVER, opcode 0x0131. -/
  | fwRecover (kind hostAddr length : Nat) (img : ImageDesc)
  /-- HOST_PKT_TX, opcode 0x0190. -/
  | hostPktTx (twoStep : Bool) (tag : Nat) (frame : List Byte) (stamp now : Nat)
  /-- HOST_PKT_CONFIG, opcode 0x0191. -/
  | hostPktConfig (ring : Nat) (enable : Bool)
  /-- DIAG_OMCI_READ, opcode 0x0800. -/
  | diagOmciRead (slice cls inst mask : Nat)
  /-- DIAG_OMCI_LIST, opcode 0x0801. -/
  | diagOmciList (slice cls : Nat)
  /-- CONF_CREATE, opcode 0x0300. -/
  | confCreate (rcd : ConfRec)
  /-- CONF_MODIFY, opcode 0x0301. -/
  | confModify (rcd : ConfRec) (mask : Nat)
  /-- CONF_DESTROY, opcode 0x0302. -/
  | confDestroy (conf : Nat) (withLegs : Bool)
  /-- CONF_QUERY, opcode 0x0303. -/
  | confQuery (conf : Nat)
  /-- LEG_CREATE, opcode 0x0310. -/
  | legCreate (rcd : LegRec)
  /-- LEG_MODIFY, opcode 0x0311. -/
  | legModify (rcd : LegRec) (mask : Nat)
  /-- LEG_DESTROY, opcode 0x0312. -/
  | legDestroy (leg : Nat)
  /-- LEG_REKEY, opcode 0x0313. -/
  | legRekey (leg saIn saOut : Nat)
  /-- LEG_MIGRATE, opcode 0x0314. -/
  | legMigrate (leg target : Nat)
  /-- LEG_QUERY, opcode 0x0315. -/
  | legQuery (leg : Nat)
  /-- PLACE_SET, opcode 0x0320. -/
  | placeSet (profile first : Nat) (engines : List Nat)
  /-- PLACE_QUERY, opcode 0x0321. -/
  | placeQuery (profile first count : Nat)
  /-- STATUS_TABLE_SET, opcode 0x0330. -/
  | statusTableSet (offset : Nat) (enable : Bool)
  /-- ROUTE_SET, opcode 0x0400. -/
  | routeSet (rcd : RouteRec)
  /-- ROUTE_CLEAR, opcode 0x0401. -/
  | routeClear (route : Nat)
  /-- ROUTE_QUERY, opcode 0x0402. -/
  | routeQuery (route : Nat)
  /-- CONSOLE_SET, opcode 0x0410. -/
  | consoleSet (route live listen : Nat)
  /-- AUD_PARAM_WRITE, opcode 0x0420. -/
  | audParamWrite (set block : Nat) (data : List (Nat × Int))
  /-- AUD_PARAM_READ, opcode 0x0421. -/
  | audParamRead (set bank block first count : Nat)
  /-- AUD_COMMIT, opcode 0x0422. -/
  | audCommit (sets : List Nat)
  /-- PORT_TDM_CONFIG, opcode 0x0430. -/
  | portTdmConfig (rcd : TdmRec)
  /-- PORT_QUERY, opcode 0x0431. -/
  | portQuery (kind number : Nat)
  /-- CONF_AUDIO_QUERY, opcode 0x0432. -/
  | confAudioQuery (conf : Nat)
  /-- CONTRIB_SET, opcode 0x0510. -/
  | contribSet (rcd : ContribRec)
  /-- SUBSCRIBE_SET, opcode 0x0511. -/
  | subscribeSet (leg : Nat) (entries : List (Nat × Nat))
  /-- LAYOUT_SET, opcode 0x0500. -/
  | layoutSet (rcd : LayoutRec)
  /-- LAYOUT_CLEAR, opcode 0x0501. -/
  | layoutClear (layout : Nat)
  /-- LAYOUT_QUERY, opcode 0x0502. -/
  | layoutQuery (layout : Nat)
  /-- VID_CONFIG, opcode 0x0520. -/
  | vidConfig (small mid large : Nat)
  /-- INTRA_REQUEST, opcode 0x0521. -/
  | intraRequest (kind a b : Nat)
  /-- VID_QUERY, opcode 0x0530. -/
  | vidQuery (item : Nat)
  /-- ENGINE_LOAD, opcode 0x0150. -/
  | engineLoad (offset : Nat) (engines : List Nat) (img : ImageDesc)
  /-- ENGINE_UNLOAD, opcode 0x0151. -/
  | engineUnload (engines : List Nat)
  /-- GROUP_UPDATE, opcode 0x0152. -/
  | groupUpdate (group offset : Nat) (img : ImageDesc)
  /-- FLOCK_QUERY, opcode 0x0153. -/
  | flockQuery (engine : Nat)
  /-- ACC_CONFIG, opcode 0x0200. -/
  | accConfig (cfg : AccCfg)
  /-- ACC_ENABLE, opcode 0x0201. -/
  | accEnable (mask : Nat) (stopHeld : Bool)
  /-- ACC_DISABLE, opcode 0x0202. -/
  | accDisable (mask : Nat) (gasp : Bool)
  /-- ACC_QUERY, opcode 0x0203. -/
  | accQuery (slice : Nat)
  /-- ACC_KILL_RELEASE, opcode 0x0210. -/
  | accKillRelease (slice : Nat)
  /-- ACC_BOND_CONFIG, opcode 0x0204. -/
  | accBondConfig (mask : Nat) (request : Bool)
  /-- ACC_CHANNEL_LEAVE, opcode 0x0205. -/
  | accChannelLeave (slice : Nat)
  /-- ACC_BOND_QUERY, opcode 0x0206. -/
  | accBondQuery
  /-- IMC_TRUNK_SET, opcode 0x0440. -/
  | imcTrunkSet (rcd : TrunkRec)
  /-- IMC_TRUNK_CLEAR, opcode 0x0441. -/
  | imcTrunkClear (trunk : Nat)
  /-- IMC_TRUNK_QUERY, opcode 0x0442. -/
  | imcTrunkQuery (trunk : Nat)
  /-- LANE_QUERY, opcode 0x0820. -/
  | laneQuery (lane : Nat)
  /-- LANE_GROUP_CONFIG, opcode 0x0821. -/
  | laneGroupConfig (group mode flags : Nat)
  /-- LANE_RECAL, opcode 0x0822. -/
  | laneRecal (lane : Nat)
  /-- LANE_SPARE, opcode 0x0823. -/
  | laneSpare (group lane action : Nat)
  /-- CLI_CONFIG, opcode 0x0160. -/
  | cliConfig (mode : Nat)
  /-- CLI_PATH, opcode 0x0161. -/
  | cliPath (port att : Nat)
  /-- CLI_PORT_CONFIG, opcode 0x0162. -/
  | cliPortConfig (port : Nat) (f : PortFields)
  /-- CLI_ADDR_SET, opcode 0x0163. -/
  | cliAddrSet (port entry addr : Nat) (valid : Bool)
  /-- CLI_MACSEC_SET, opcode 0x0164. -/
  | cliMacsecSet (port validate replay : Nat) (enable : Bool)
  /-- CLI_MACSEC_SA, opcode 0x0165. -/
  | cliMacsecSa (port dir sci an handle : Nat)
  /-- CLI_PORT_QUERY, opcode 0x0166. -/
  | cliPortQuery (port : Nat)
  /-- PARSE_RULE_SET, opcode 0x0170. -/
  | parseRuleSet (pipe index : Nat) (rule : RuleRec)
  /-- PARSE_RULE_CLEAR, opcode 0x0171. -/
  | parseRuleClear (pipe first count : Nat)
  /-- PARSE_RULE_QUERY, opcode 0x0172. -/
  | parseRuleQuery (pipe index : Nat) (clear : Bool)
  /-- PARSE_PORT_SET, opcode 0x0173. -/
  | parsePortSet (port : Nat) (action : ActionRec) (ooo : Nat)
  /-- PARSE_HASH_PROFILE_SET, opcode 0x0174. -/
  | parseHashProfileSet (profile fields : Nat) (seed : Word)
  /-- PARSE_HASH_TABLE_SET, opcode 0x0175. -/
  | parseHashTableSet (profile first : Nat) (entries : List Nat)
  /-- PARSE_FRAG_CONFIG, opcode 0x0176. -/
  | parseFragConfig (age : Nat)
  /-- PARSE_QUERY, opcode 0x0177. -/
  | parseQuery (item leg : Nat)
  /-- TM_QUEUE_ALLOC, opcode 0x0180. -/
  | tmQueueAlloc (f : QueueFields)
  /-- TM_QUEUE_SET, opcode 0x0181. -/
  | tmQueueSet (queue : Nat) (f : QueueFields) (sojAlarm : Nat)
  /-- TM_QUEUE_FREE, opcode 0x0182. -/
  | tmQueueFree (queue : Nat)
  /-- TM_GROUP_SET, opcode 0x0183. -/
  | tmGroupSet (group root band quantum : Nat) (create : Bool)
  /-- TM_SHAPER_SET, opcode 0x0184. -/
  | tmShaperSet (level number : Nat) (enable : Bool) (rate burst : Nat)
  /-- TM_ROOT_SET, opcode 0x0185. -/
  | tmRootSet (root : Nat) (adj : Int)
  /-- TM_POLICER_SET, opcode 0x0186. -/
  | tmPolicerSet (policer : Nat) (enable : Bool) (rate burst : Nat)
  /-- TM_METER_SET, opcode 0x0187. -/
  | tmMeterSet (meter : Nat) (f : MeterFields)
  /-- TM_METER_MAP_SET, opcode 0x0188. -/
  | tmMeterMapSet (port cls meter : Nat)
  /-- TM_BUF_CONFIG, opcode 0x0189. -/
  | tmBufConfig (high deepMib : Nat) (short : Bool)
  /-- TM_QUERY, opcode 0x018A. -/
  | tmQuery (item number : Nat)
  /-- INTEG_QUERY, opcode 0x0830. -/
  | integQuery (item : Nat)
  /-- INTEG_SCRUB_SET, opcode 0x0831. -/
  | integScrubSet (cls rate : Nat)
  /-- INTEG_FLIP, opcode 0x0832. -/
  | integFlip (cls : Nat) (data : BitVec 64) (check matchAddr : Nat) (addr : BitVec 64)
  /-- INTEG_DIGEST_CONFIG, opcode 0x0833. -/
  | integDigestConfig (mask : Nat)
  /-- INTEG_DIGEST_DUMP, opcode 0x0834. -/
  | integDigestDump (block offset : Nat)
  /-- INTEG_REMAP, opcode 0x0835. -/
  | integRemap (stack offset thr : Nat)
  /-- TRUST_QUERY, opcode 0x0600. -/
  | trustQuery (clear : Bool)
  /-- TRUST_IDENTITY, opcode 0x0601. -/
  | trustIdentity
  /-- TRUST_ATTEST, opcode 0x0602. -/
  | trustAttest (nonce : Nat)
  /-- TRUST_IMPORT_KEY, opcode 0x0603. -/
  | trustImportKey
  /-- TRUST_BOOT_SEAL, opcode 0x0604. -/
  | trustBootSeal
  /-- TRUST_KEYLIST_LOAD, opcode 0x0605. -/
  | trustKeylistLoad (list : KeyList)
  /-- TRUST_FW_VERIFY, opcode 0x0606. -/
  | trustFwVerify (offset : Nat) (img : ImageDesc)
  /-- TRUST_SESSION_OPEN, opcode 0x0610. -/
  | trustSessionOpen (cipher : List Byte) (transportKey : Option Nat)
  /-- TRUST_SESSION_CLOSE, opcode 0x0611. -/
  | trustSessionClose (session : Nat)
  /-- TRUST_BASE_IMPORT, opcode 0x0612. -/
  | trustBaseImport (session : Nat) (wrapped secret : List Byte)
  /-- TRUST_BASE_DESTROY, opcode 0x0613. -/
  | trustBaseDestroy (base : Nat)
  /-- SA_CREATE, opcode 0x0620. -/
  | saCreate (src : SaSource)
  /-- SA_DESTROY, opcode 0x0621. -/
  | saDestroy (handle : Nat)
  /-- SA_QUERY, opcode 0x0622. -/
  | saQuery (handle : Nat)
  /-- TRUST_ROLLBACK_COMMIT, opcode 0x0630. -/
  | trustRollbackCommit (program : Nat)
  /-- TRUST_OTP_COMMIT, opcode 0x0640. -/
  | trustOtpCommit (fields : OtpFields) (zeroOk : Bool)
  /-- TRUST_ROOT_ROTATE, opcode 0x0641. -/
  | trustRootRotate
  /-- TRUST_DEBUG_UNLOCK, opcode 0x0642. -/
  | trustDebugUnlock
  /-- TRUST_FACTORY_RESET, opcode 0x0643. -/
  | trustFactoryReset
  /-- TRUST_PRESENCE_CLOSE, opcode 0x0644. -/
  | trustPresenceClose
  /-- CASC_CONFIG, opcode 0x0900. -/
  | cascConfig (domain device ports base gen : Nat)
  /-- CASC_QUERY, opcode 0x0901. -/
  | cascQuery
  /-- CASC_CONF_BIND, opcode 0x0910. -/
  | cascConfBind (tag home : Nat)
  /-- CASC_TWIN_SET, opcode 0x0920. -/
  | cascTwinSet (twin : Nat)
  /-- CASC_TAKEOVER, opcode 0x0921. -/
  | cascTakeover
  /-- CASC_SA_PAIR, opcode 0x0922. -/
  | cascSaPair (handle other : Nat)
  /-- CTRL_FW_SWAP, opcode 0x0140. -/
  | ctrlFwSwap (slot : Nat) (shared : Bool)
  /-- PWR_SEASON, opcode 0x0700. -/
  | pwrSeason (season : Nat)
  /-- PWR_WINTER, opcode 0x0701. -/
  | pwrWinter (banks keep thaw linkWait : Nat)
  /-- PWR_DOMAIN_SET, opcode 0x0702. -/
  | pwrDomainSet (domain on : Nat)
  /-- PWR_ALARM_SET, opcode 0x0703. -/
  | pwrAlarmSet (value enable : Nat)
  /-- PWR_AUTUMN_CONFIG, opcode 0x0704. -/
  | pwrAutumnConfig (minGroups high low flags : Nat)
  /-- PWR_QUERY, opcode 0x0705. -/
  | pwrQuery
  /-- An opcode that is not defined in its group (R529). -/
  | undefinedOpcode (op : Nat)
deriving DecidableEq, Repr

/-- A Kervon packet (R508). -/
structure KPacket where
  hdr : CmdHdr
  cmd : KCmd
deriving DecidableEq, Repr

end Sys2Proof
end

