-- ==== Sys2Proof/Syntax.lean ====
section
/-! DEFINITION. The commands and events of the FM7240: one constructor per row of the opcode table, with the
operands that its rule names. A Kervon command carries its header; what a unit is given from outside (a line, a
sensor, a codec, the Fold's cipher engines) stands as operands. -/

namespace Sys2Proof

/-- The commands and events of the FM7240. -/
inductive Instr where
  /-- BELL_TICK (R45). A bell occurs: the tick number advances, the ended tick is closed and per-tick work starts. -/
  | bellTick (x : TickIn)
  /-- STAGING_CUTOFF (R15). At 117 µs after a bell staged changes are copied into the units for the next bell. -/
  | stagingCutoff
  /-- POOL_HANDOVER (R26). At 62.5 µs after the bell every class's unspent own credits pass to the pool. -/
  | poolHandover
  /-- PASTURE_REQUEST (R26). A requester class asks for a 64-byte Pasture transfer, served from own credits, the pool, or left waiting. -/
  | pastureRequest (cls addr : Nat) (write : Bool) (find : EccFind)
  /-- STAGED_CHANGES_TAKE_EFFECT (R14). Changes staged before the cut-off take effect together at a bell and their DONE replies follow. -/
  | stagedChangesTakeEffect
  /-- REFERENCE_EVENT (R43). A bell reference event (frame sync, 1PPS_IN edge or marker) arrives and the lock state machine is updated. -/
  | referenceEvent (err freq : Int)
  /-- REFERENCE_MISSING (R43). A reference event has not arrived 2 µs after its expected time and is counted missing. -/
  | referenceMissing
  /-- BELL_SNAP (R52). A write of GO to BELL.SNAP latches C and the corrected time together. -/
  | bellSnap (cycles : Nat)
  /-- TICK_LO_READ (R74). A read of BELL.TICK_LO latches TICK_HI for a consistent tick number. -/
  | tickLoRead
  /-- SLEEP_CNT_LO_READ (R75). A read of SLEEP_CNT_LO latches the high word of the sleep counter. -/
  | sleepCntLoRead (crystal : Nat)
  /-- TSQ_W3_READ (R59). A read of TSQ_W3_g returns the fraction and removes the time-stamp entry. -/
  | tsqW3Read (group : Nat)
  /-- TOD_MESSAGE (R60). The head end's time-of-day message sets OFFSET from the captured frame time-stamp. -/
  | todMessage (slice send ri stamp : Nat)
  /-- PPS_OUT_EDGE (R63). 1PPS_OUT rises as T crosses a whole second. -/
  | ppsOutEdge
  /-- SLEEP_CAL_MEASURE (R66). Every 262,144 crystal cycles the crystal period is measured into SLEEP_CAL. -/
  | sleepCalMeasure (cycles : Nat)
  /-- BELL_MARKER_RX (R69). A bell marker arrives on a cascade port and is followed or forwarded with residence time added. -/
  | bellMarkerRx (h : CascHdr) (m : Marker) (residence : Nat)
  /-- SUCCESSION_CLAIM (R71). A successor that missed the bellwether's marker declares itself bellwether at its next bell. -/
  | successionClaim
  /-- CASC_DELAY_MEASURE (R70). Every 1,024 ticks each cascade link measures its delay by round trip. -/
  | cascDelayMeasure (port : Nat) (t1 t2 t3 t4 : Int)
  /-- SYS_QUERY (R530). Returns identity, boot stage, epochs, ring states and sessions. -/
  | sysQuery (h : CmdHdr)
  /-- PASTURE_ALLOT_SET (R27). Sets the 24 Pasture class allotments, effective at a bell. -/
  | pastureAllotSet (h : CmdHdr) (allots : List Nat)
  /-- PASTURE_QUERY (R530). Returns Pasture allotments and usage. -/
  | pastureQuery (h : CmdHdr)
  /-- TIME_CONFIG (R530). Sets bell control, time and cascade time parameters. -/
  | timeConfig (h : CmdHdr) (cfg : TimeCfg)
  /-- TIME_SET (R65). Sets OFFSET and the time error bound. -/
  | timeSet (h : CmdHdr) (offset : BitVec 128) (bound : Word)
  /-- TIME_RATE (R51). Sets RATE, refused with BUSY under AUTO_RATE lock. -/
  | timeRate (h : CmdHdr) (rate : BitVec 32)
  /-- TIME_OFFSET_CONFIRM (R61). Applies or discards a pending head-end time step. -/
  | timeOffsetConfirm (h : CmdHdr) (action : Nat)
  /-- MGMT_CONFIG (R524). Sets the management session address, UDP port and idle time. -/
  | mgmtConfig (h : CmdHdr) (addr port idle : Nat)
  /-- MGMT_SESSION_QUERY (R530). Returns the state of each service-port session. -/
  | mgmtSessionQuery (h : CmdHdr)
  /-- MGMT_SESSION_CLOSE (R527). Closes a service-port session. -/
  | mgmtSessionClose (h : CmdHdr) (session : Nat)
  /-- FW_STORE_WRITE (R530). Checks an image in Pasture and writes it to a boot-store slot, answered ACCEPTED. -/
  | fwStoreWrite (h : CmdHdr) (kind slot offset : Nat) (sigOk : Bool)
  /-- FW_STORE_WRITE_DONE (R512). The boot-store write completes and its follow-up is sent. -/
  | fwStoreWriteDone
  /-- FW_RECOVER (R531). In RECOVERY the Fold fetches, checks and stores an image, then resets the device. -/
  | fwRecover (h : CmdHdr) (kind hostAddr length : Nat) (img : ImageDesc)
  /-- HOST_PKT_TX (R530). Injects an Ethernet frame into PARSE port 5. -/
  | hostPktTx (h : CmdHdr) (twoStep : Bool) (tag : Nat) (frame : List Byte) (stamp now : Nat)
  /-- HOST_PKT_CONFIG (R531). Enables or disables the host packet path on a ring. -/
  | hostPktConfig (h : CmdHdr) (ring : Nat) (enable : Bool)
  /-- DIAG_OMCI_READ (R528). Reads attributes of a managed entity. -/
  | diagOmciRead (h : CmdHdr) (slice cls inst mask : Nat)
  /-- DIAG_OMCI_LIST (R528). Lists instances of a managed entity class. -/
  | diagOmciList (h : CmdHdr) (slice cls : Nat)
  /-- CONF_CREATE (R82). Creates a conference from its record and places its mix. -/
  | confCreate (h : CmdHdr) (rcd : ConfRec)
  /-- CONF_MODIFY (R81). Changes selected fields of a conference, possibly moving its mix. -/
  | confModify (h : CmdHdr) (rcd : ConfRec) (mask : Nat)
  /-- CONF_DESTROY (R82). Destroys a conference, with its legs when WITH_LEGS is set. -/
  | confDestroy (h : CmdHdr) (conf : Nat) (withLegs : Bool)
  /-- CONF_QUERY (R80). Returns a conference record, mix engine, inputs and MIX_LOST. -/
  | confQuery (h : CmdHdr) (conf : Nat)
  /-- LEG_CREATE (R79). Creates a leg from its record and places it on an engine. -/
  | legCreate (h : CmdHdr) (rcd : LegRec)
  /-- LEG_MODIFY (R81). Changes selected fields of a leg. -/
  | legModify (h : CmdHdr) (rcd : LegRec) (mask : Nat)
  /-- LEG_DESTROY (R83). Moves a leg to DRAINING at its bell. -/
  | legDestroy (h : CmdHdr) (leg : Nat)
  /-- LEG_REKEY (R88). Installs new security associations for a leg at a bell. -/
  | legRekey (h : CmdHdr) (leg saIn saOut : Nat)
  /-- LEG_MIGRATE (R107). Starts migration of a leg to a target engine. -/
  | legMigrate (h : CmdHdr) (leg target : Nat)
  /-- LEG_QUERY (R113). Returns a consistent copy of a leg's status record. -/
  | legQuery (h : CmdHdr) (leg : Nat)
  /-- PLACE_SET (R92). Rewrites entries of a placement indirection table. -/
  | placeSet (h : CmdHdr) (profile first : Nat) (engines : List Nat)
  /-- PLACE_QUERY (R92). Returns indirection entries and engine charges. -/
  | placeQuery (h : CmdHdr) (profile first count : Nat)
  /-- STATUS_TABLE_SET (R113). Enables the Pasture status table at an aligned offset. -/
  | statusTableSet (h : CmdHdr) (offset : Nat) (enable : Bool)
  /-- LEG_DRAIN_END (R83). Eight ticks after entering DRAINING a leg reaches FREE and releases its resources. -/
  | legDrainEnd (leg : Nat)
  /-- MIGRATION_HANDOVER (R107). At B2 consumers take the target's output, CRCs are compared and the migration completes. -/
  | migrationHandover (kind number : Nat) (crcEqual : Bool)
  /-- ENGINE_FAILED (R109). An engine is found failed at a bell and its legs and mixes are restored elsewhere. -/
  | engineFailed (engine : Nat)
  /-- LEG_PACKET_RX (R85). The home engine sorts a delivered packet as STUN, DTLS, RTCP or RTP and acts on it. -/
  | legPacketRx (leg : Nat) (pkt : RtpIn) (rtcp : RtcpKind) (layer : LayerIn)
  /-- REKEY_GRACE_END (R88). 800 ticks after a rekey the previous inbound handle is unbound. -/
  | rekeyGraceEnd (leg : Nat)
  /-- ADAPTATION_RUN (R98). A leg's adaptation loop sets its estimate, audio setting, video budget and layers. -/
  | adaptationRun (leg : Nat)
  /-- FEEDBACK_STARVED (R98). No RFC 8888 report for 16,000 ticks puts the leg in STARVED. -/
  | feedbackStarved (leg : Nat)
  /-- FEEDBACK_REPORT_SEND (R103). Every FB_INTERVAL ticks a leg sends an RFC 8888 report. -/
  | feedbackReportSend (leg : Nat)
  /-- NACK_SEND (R105). A NACK is sent for a missing inbound video packet, repeated up to 3 times, then PLI. -/
  | nackSend (leg seq : Nat) (inTime : Bool)
  /-- ROUTE_SET (R138). Creates or replaces an audio route. -/
  | routeSet (h : CmdHdr) (rcd : RouteRec)
  /-- ROUTE_CLEAR (R153). Clears an audio route at its bell. -/
  | routeClear (h : CmdHdr) (route : Nat)
  /-- ROUTE_QUERY (R153). Returns a route record and crossfade state. -/
  | routeQuery (h : CmdHdr) (route : Nat)
  /-- CONSOLE_SET (R133). Makes a console live or idle and sets what it hears. -/
  | consoleSet (h : CmdHdr) (route live listen : Nat)
  /-- AUD_PARAM_WRITE (R140). Writes the inactive bank of a parameter set. -/
  | audParamWrite (h : CmdHdr) (set block : Nat) (data : List (Nat × Int))
  /-- AUD_PARAM_READ (R153). Reads a parameter bank. -/
  | audParamRead (h : CmdHdr) (set bank block first count : Nat)
  /-- AUD_COMMIT (R140). Swaps the banks of one parameter set. -/
  | audCommit (h : CmdHdr) (sets : List Nat)
  /-- PORT_TDM_CONFIG (R149). Configures a TDM port. -/
  | portTdmConfig (h : CmdHdr) (rcd : TdmRec)
  /-- PORT_QUERY (R153). Returns status and counters of a headset or TDM port. -/
  | portQuery (h : CmdHdr) (kind number : Nat)
  /-- CONF_AUDIO_QUERY (R153). Returns talkers, levels, dynamics gains and CLIP count. -/
  | confAudioQuery (h : CmdHdr) (conf : Nat)
  /-- HEADSET_BANK_SWAP (R140). A headset set's banks swap at the first sample boundary after the commit. -/
  | headsetBankSwap (headset : Nat)
  /-- HS_DET_INSERT_EDGE (R143). An insertion edge on HSn_DET starts or restarts the debounce. -/
  | hsDetInsertEdge (headset : Nat)
  /-- HS_INSERT_DEBOUNCED (R143). After INSERT debounce PRESENT is set and bias ramps on. -/
  | hsInsertDebounced (headset : Nat)
  /-- HS_CLASSIFY (R145). The impedance measurement completes and the accessory is classified. -/
  | hsClassify (headset ring2 sleeve : Nat)
  /-- HS_BUTTON_ARM (R143). 50 ms after classification button detection is armed. -/
  | hsButtonArm (headset : Nat)
  /-- HS_DET_REMOVE_EDGE (R144). A removal edge mutes the DAC and the microphone delivers all-ones. -/
  | hsDetRemoveEdge (headset : Nat)
  /-- HS_REMOVE_EXPIRY (R144). The contact stays open for REMOVE and removal is declared. -/
  | hsRemoveExpiry (headset : Nat)
  /-- HS_BUTTON_SAMPLE (R146). Every 1 ms the bias current is banded and presses or releases reported. -/
  | hsButtonSample (headset biasUa : Nat)
  /-- TDM_FRAME_RX (R150). A TDM frame passes through the port, with slips at the phase buffer. -/
  | tdmFrameRx (port : Nat) (words : List Int) (wellFormed : Bool)
  /-- TDM_ALARM_TIMEOUT (R151). No frame sync for 4 frame periods puts the port in alarm. -/
  | tdmAlarmTimeout (port : Nat)
  /-- CONTRIB_SET (R161). Sets a leg's contribution mode and declared size. -/
  | contribSet (h : CmdHdr) (rcd : ContribRec)
  /-- SUBSCRIBE_SET (R164). Sets a receiving leg's subscription set. -/
  | subscribeSet (h : CmdHdr) (leg : Nat) (entries : List (Nat × Nat))
  /-- LAYOUT_SET (R175). Creates or replaces a layout. -/
  | layoutSet (h : CmdHdr) (rcd : LayoutRec)
  /-- LAYOUT_CLEAR (R191). Removes a layout no leg receives. -/
  | layoutClear (h : CmdHdr) (layout : Nat)
  /-- LAYOUT_QUERY (R191). Returns a layout, its streams and cell occupants. -/
  | layoutQuery (h : CmdHdr) (layout : Nat)
  /-- VID_CONFIG (R169). Sets the tier target rates. -/
  | vidConfig (h : CmdHdr) (small mid large : Nat)
  /-- INTRA_REQUEST (R183). Requests an intra point for a stream or source. -/
  | intraRequest (h : CmdHdr) (kind a b : Nat)
  /-- VID_QUERY (R191). Returns codec loads or canonical tier parameter sets. -/
  | vidQuery (h : CmdHdr) (item : Nat)
  /-- CONTRIB_PICTURE_RX (R22). A contribution picture is reassembled and passed through, decoded or dropped. -/
  | contribPictureRx (leg : Nat) (pic : PicIn)
  /-- DECODE_DONE (R22). A decode completes and tier encodes start. -/
  | decodeDone (leg : Nat) (ok : Bool)
  /-- TIER_ENCODE_DONE (R168). A tier subpicture encode completes in Pasture. -/
  | tierEncodeDone (leg tier size : Nat) (relay : List (LayerIn × Nat))
  /-- SPLICE_PICTURE (R179). At a picture's due time the splicer builds the composed picture. -/
  | splicePicture (layout variant : Nat) (self : Option Nat) (sizes : List Nat) (avc : Tbl (List Nat))
  /-- TALKER_CELL_HOLD (R176). A leg holds rank r for VIDEO_HOLD ticks and the cell's occupant change starts. -/
  | talkerCellHold (layout variant : Nat) (self : Option Nat) (cell : Nat)
  /-- LAYOUT_REFRESH (R183). The REFRESH interval expires and an intra point is requested. -/
  | layoutRefresh (layout variant : Nat) (self : Option Nat)
  /-- MUL (R203). Multiplies operands lane by lane into an accumulator. -/
  | mul (i : Issue) (acc a : Nat) (b : MacB) (sg : Sign) (wide : Bool)
  /-- MAC (R203). Multiplies and adds into an accumulator. -/
  | mac (i : Issue) (acc a : Nat) (b : MacB) (sg : Sign) (wide : Bool)
  /-- MSU (R203). Multiplies and subtracts from an accumulator. -/
  | msu (i : Issue) (acc a : Nat) (b : MacB) (sg : Sign) (wide : Bool)
  /-- MAC_SUM (R203). Adds the sum of 16 products to lane 0. -/
  | macSum (i : Issue) (acc a : Nat) (b : MacB) (sg : Sign) (wide : Bool)
  /-- CLR (R203). Clears an accumulator. -/
  | clr (i : Issue) (acc : Nat)
  /-- MV_V (R206). Moves 16 lanes from an accumulator with scale and 16-bit clamp. -/
  | mvV (i : Issue) (dst acc : Nat)
  /-- MV_W (R206). Moves 8 wide lanes with scale and SATW clamp. -/
  | mvW (i : Issue) (dst acc : Nat)
  /-- MV_S (R206). Moves one accumulator lane to a scalar. -/
  | mvS (i : Issue) (dst acc lane : Nat)
  /-- LOAD (R202). Loads from local memory by pointer form. -/
  | load (i : Issue) (reg : LsReg) (addr : Addr) (find : EccFind)
  /-- STORE (R201). Stores to local memory at issue + 2. -/
  | store (i : Issue) (reg : LsReg) (addr : Addr)
  /-- BRANCH (R200). Branches after three delay slots. -/
  | branch (i : Issue) (target : Word)
  /-- CALL (R200). Calls after three delay slots. -/
  | call (i : Issue) (target : Word)
  /-- RETI (R210). Returns from interrupt to ira and reactivates the main set. -/
  | reti (i : Issue)
  /-- SIG (R215). Pulses an event line. -/
  | sig (i : Issue) (line : Nat) (listeners : List (Nat × Nat))
  /-- WMCR (R205). Writes the move control register. -/
  | wmcr (i : Issue) (src : Nat)
  /-- ENGINE_INTERRUPT (R210). An engine takes an interrupt and switches to the shadow set. -/
  | engineInterrupt (eng : Nat) (kind : EngInt)
  /-- SLOT_TIMER (R217). The slot timer interrupts at a slot boundary and the kernel reschedules. -/
  | slotTimer (eng : Nat) (finished : List Nat) (ready : List (Nat × Nat × Nat)) (background : Option Nat)
  /-- EVENT_PULSE (R215). A pulse on an event line sets its bit in listening engines' pending words. -/
  | eventPulse (line : Nat) (listeners : List (Nat × Nat))
  /-- ENGINE_LOAD (R226). Loads a verified customer program onto named engines. -/
  | engineLoad (h : CmdHdr) (offset : Nat) (engines : List Nat) (sigOk : Bool)
  /-- ENGINE_UNLOAD (R226). Stops a customer program and returns engines to placement. -/
  | engineUnload (h : CmdHdr) (engines : List Nat)
  /-- GROUP_UPDATE (R227). Starts replacing one group's Omselys firmware by draining it. -/
  | groupUpdate (h : CmdHdr) (group offset : Nat) (sigOk : Bool)
  /-- FLOCK_QUERY (R225). Returns an engine's state, charge, fault latch and program. -/
  | flockQuery (h : CmdHdr) (engine : Nat)
  /-- GROUP_UPDATE_LOAD (R227). The bell after the last migration loads the new image into the group. -/
  | groupUpdateLoad (group : Nat)
  /-- GROUP_UPDATE_DONE (R227). The updated engines start and the group returns to placement. -/
  | groupUpdateDone (group : Nat)
  /-- DOWNSTREAM_FRAME (R236). A downstream frame's sync is found or missed, acquiring sync or declaring LODS. -/
  | downstreamFrame (slice : Nat) (f : DsFrame)
  /-- OPTICS_SD_LOSS (R236). ACCn_SD reports loss of signal for 2 µs. -/
  | opticsSdLoss (slice : Nat) (lost : Bool) (now : Nat)
  /-- PLOAM_BURST_PROFILE (R251). A Burst_Profile message is learned or discarded. -/
  | ploamBurstProfile (slice : Nat) (h : PloamHdr) (index guard : Nat) (fieldsOk rateOk : Bool)
  /-- PLOAM_ASSIGN_ONU_ID (R238). An Assign_ONU-ID message moves the slice to O4 or is ignored. -/
  | ploamAssignOnuId (slice : Nat) (h : PloamHdr) (mine : Bool) (onu : Nat)
  /-- PLOAM_RANGING_TIME (R242). A Ranging_Time message sets or adjusts the equalisation delay. -/
  | ploamRangingTime (slice : Nat) (h : PloamHdr) (relative : Bool) (value : Int)
  /-- PLOAM_DEACTIVATE_ONU_ID (R238). A Deactivate_ONU-ID message returns the slice to O2-3. -/
  | ploamDeactivateOnuId (slice : Nat) (h : PloamHdr)
  /-- PLOAM_DISABLE_SERIAL_NUMBER (R238). A Disable_Serial_Number message enters or leaves O7. -/
  | ploamDisableSerialNumber (slice : Nat) (h : PloamHdr) (named enable : Bool)
  /-- PLOAM_REQUEST_REGISTRATION (R231). A Request_Registration message is answered with Registration. -/
  | ploamRequestRegistration (slice : Nat) (h : PloamHdr)
  /-- PLOAM_ASSIGN_ALLOC_ID (R283). An Assign_Alloc-ID message sets an unbonded allocation map entry. -/
  | ploamAssignAllocId (slice : Nat) (h : PloamHdr) (alloc : Nat) (assign : Bool)
  /-- PLOAM_KEY_CONTROL (R245). A Key_Control message makes the Fold generate a key and queues a Key_Report. -/
  | ploamKeyControl (slice : Nat) (h : PloamHdr) (generate : Bool) (index : Nat)
  /-- PLOAM_SLEEP_ALLOW (R249). A Sleep_Allow message records or withdraws sleep permission. -/
  | ploamSleepAllow (slice : Nat) (h : PloamHdr) (allow : Bool)
  /-- PLOAM_UNKNOWN_TYPE (R251). A PLOAM of unknown type is answered with the unknown-type code. -/
  | ploamUnknownType (slice : Nat) (h : PloamHdr)
  /-- BWMAP_RX (R252). A bandwidth map's grants are checked and scheduled. -/
  | bwmapRx (slice : Nat) (lost : Bool) (grants : List Grant)
  /-- BURST_COMMIT (R286). 4.0 µs before a window the burst's content is fixed from TM. -/
  | burstCommit (slice now : Nat)
  /-- BURST_WINDOW (R285). ACCn_BEN asserts LEAD before the window and the burst is sent. -/
  | burstWindow (slice stamp : Nat)
  /-- WATCHDOG_TRIP (R254). The burst watchdog detects BEN active outside a grant or too long. -/
  | watchdogTrip (slice cause now : Nat)
  /-- TO1_EXPIRY (R240). TO1 expires in O4 and the slice returns to O2-3. -/
  | to1Expiry (slice : Nat)
  /-- TO2_EXPIRY (R240). TO2 expires in O6 and the slice goes to O1.1, counting a flap. -/
  | to2Expiry (slice : Nat)
  /-- TKEY_EXPIRY (R248). TKEY expires with no use of the new key: the report is resent or STALL set. -/
  | tkeyExpiry (slice : Nat)
  /-- FLAP_WINDOW_EXPIRY (R240). A flap older than FLAP_WINDOW leaves the count. -/
  | flapWindowExpiry (slice : Nat)
  /-- QUARANTINE_EXPIRY (R253). The quarantine time elapses and the slice enters O1.1. -/
  | quarantineExpiry (slice : Nat)
  /-- GEM_FRAME_RX (R243). A downstream GEM frame is filtered, decrypted and reassembled. -/
  | gemFrameRx (slice : Nat) (g : GemIn)
  /-- GEM_REASSEMBLY_TIMEOUT (R243). A reassembly whose last fragment has not come within two frames is discarded. -/
  | gemReassemblyTimeout (slice port : Nat)
  /-- OMCI_MESSAGE (R250). An OMCI message is checked and applied to managed entities. -/
  | omciMessage (slice cls inst : Nat) (micOk : Bool) (op : OmciOp) (eff : OmciEffect)
  /-- DYING_GASP_DISABLE (R258). After the Dying_Gasp opportunity or 2 ms the slice is disabled. -/
  | dyingGaspDisable (slice : Nat)
  /-- SLEEP_AWARE_PERIOD (R249). In Winter the slice wakes for an aware period of its sleep cycle. -/
  | sleepAwarePeriod (slice : Nat)
  /-- ACC_CONFIG (R233). Sets access mode, rate, registration ID and timers. -/
  | accConfig (h : CmdHdr) (cfg : AccCfg)
  /-- ACC_ENABLE (R235). Starts slices in O1.1 or O7. -/
  | accEnable (h : CmdHdr) (mask : Nat) (stopHeld : Bool)
  /-- ACC_DISABLE (R258). Disables slices, optionally with a Dying_Gasp. -/
  | accDisable (h : CmdHdr) (mask : Nat) (gasp : Bool)
  /-- ACC_QUERY (R258). Returns a slice's state and counters. -/
  | accQuery (h : CmdHdr) (slice : Nat)
  /-- ACC_KILL_RELEASE (R256). Releases a latched laser kill under presence. -/
  | accKillRelease (h : CmdHdr) (slice : Nat)
  /-- ACC_BOND_CONFIG (R293). Sets the eligible slice mask and bond REQUEST flag. -/
  | accBondConfig (h : CmdHdr) (mask : Nat) (request : Bool)
  /-- ACC_CHANNEL_LEAVE (R293). Takes a channel out of the bond. -/
  | accChannelLeave (h : CmdHdr) (slice : Nat)
  /-- ACC_BOND_QUERY (R293). Returns bond state and counters. -/
  | accBondQuery (h : CmdHdr)
  /-- BOND_FRAGMENT_RX (R270). A bonded fragment is placed in the reorder window. -/
  | bondFragmentRx (slice : Nat) (f : FragIn) (now : Nat)
  /-- REORDER_DEADLINE (R271). The oldest held fragment's deadline passes and gaps are declared lost. -/
  | reorderDeadline (now : Nat)
  /-- BOND_OFFER (R276). A BOND_OFFER forms the bond on the carrying channel. -/
  | bondOffer (slice : Nat) (h : BondHdr) (dsPort usPort start : Nat)
  /-- CHANNEL_ADD (R277). A CHANNEL_ADD schedules a channel to join at JOIN_FRAME. -/
  | channelAdd (slice : Nat) (h : BondHdr) (joinFrame : Nat)
  /-- CHANNEL_REMOVE (R279). A CHANNEL_REMOVE takes a channel out at LEAVE_FRAME. -/
  | channelRemove (slice : Nat) (h : BondHdr) (leaveFrame : Nat)
  /-- BOND_ALLOC (R283). A BOND_ALLOC assigns or deassigns a bonded Alloc-ID. -/
  | bondAlloc (slice : Nat) (h : BondHdr) (alloc : Nat) (assign : Bool)
  /-- BOND_RELEASE (R276). A BOND_RELEASE ends the bond. -/
  | bondRelease (slice : Nat) (h : BondHdr)
  /-- BOND_MSG_UNKNOWN (R282). A bond message of unknown TYPE is rejected. -/
  | bondMsgUnknown (slice : Nat) (h : BondHdr) (type : Nat)
  /-- CHANNEL_JOIN_FRAME (R276). At JOIN_FRAME the channel becomes ACTIVE. -/
  | channelJoinFrame (slice : Nat)
  /-- CHANNEL_DEPARTURE (R280). A detected leave cause takes a channel OUT of the bond. -/
  | channelDeparture (slice cause now : Nat)
  /-- BOND_MSG_RETRY (R278). An unanswered upstream bond message is repeated every 20 ms. -/
  | bondMsgRetry (type chan : Nat)
  /-- IMC_STREAM_RX (R301). Inbound trunk bytes are aligned into frames and handled. -/
  | imcStreamRx (trunk : Nat) (bytes : List Byte)
  /-- IMC_DEG_INTERVAL (R309). An 800-frame interval ends and DEG is evaluated. -/
  | imcDegInterval (trunk : Nat)
  /-- IMC_TRUNK_SET (R314). Creates or replaces a trunk. -/
  | imcTrunkSet (h : CmdHdr) (rcd : TrunkRec)
  /-- IMC_TRUNK_CLEAR (R315). Removes a trunk. -/
  | imcTrunkClear (h : CmdHdr) (trunk : Nat)
  /-- IMC_TRUNK_QUERY (R315). Returns a trunk record and registers. -/
  | imcTrunkQuery (h : CmdHdr) (trunk : Nat)
  /-- LANE_ADAPTED (R324). A lane finishes initial adaptation. -/
  | laneAdapted (lane peak gain : Nat) (dfe : List Nat) (flt : List (Nat × Nat))
  /-- LANE_CDR_LOSS (R331). A lane's clock recovery loses lock for 1 µs. -/
  | laneCdrLoss (lane : Nat)
  /-- EYE_SCAN (R330). A 10 ms eye scan completes and EYE_LOW is evaluated. -/
  | eyeScan (lane height width : Nat)
  /-- LANE_MARKER_RX (R328). A cascade lane marker arrives, updating lock, alignment and spare switch. -/
  | laneMarkerRx (lane : Nat) (marker : List Byte) (skew : Nat) (compareOk : Bool)
  /-- LANE_RECAL_PERIODIC (R325). Every 2²² ticks each lane in service is recalibrated. -/
  | laneRecalPeriodic
  /-- LANE_FAILURE (R332). A lane fails and is replaced or its port or channel leaves service. -/
  | laneFailure (lane : Nat)
  /-- LANE_SLIP (R329). A write of SLIP shifts a lane's word boundary. -/
  | laneSlip (lane : Nat)
  /-- LANE_QUERY (R337). Returns a lane's registers. -/
  | laneQuery (h : CmdHdr) (lane : Nat)
  /-- LANE_GROUP_CONFIG (R337). Sets a group's alignment mode, AUTO_SPARE and TEST. -/
  | laneGroupConfig (h : CmdHdr) (group mode flags : Nat)
  /-- LANE_RECAL (R325). Recalibrates a lane. -/
  | laneRecal (h : CmdHdr) (lane : Nat)
  /-- LANE_SPARE (R334). Replaces or restores a lane with its group's spare. -/
  | laneSpare (h : CmdHdr) (group lane action : Nat)
  /-- CLIENT_FRAME_RX (R347). A client or service port receives a frame and checks length, address and MACsec. -/
  | clientFrameRx (port : Nat) (f : FrameIn)
  /-- TM_DEQUEUE (R404). A root that may send chooses the next packet and sends it. -/
  | tmDequeue (root : Nat) (op : TxOp) (cell : Nat) (find : EccFind)
  /-- LINK_CHANGE (R345). A port's link goes up or down. -/
  | linkChange (port : Nat) (up : Bool)
  /-- LLDP_SEND (R352). Every 30 s LLDP is sent on each port. -/
  | lldpSend (port : Nat) (frame : List Byte) (now : Nat)
  /-- LPI_ENTER (R358). A port idle for LPI_IDLE enters low-power idle. -/
  | lpiEnter (port : Nat) (received : Bool)
  /-- LPI_WAKE (R360). A frame waiting after LPI is sent once Tw has elapsed. -/
  | lpiWake (port us : Nat) (op : TxOp)
  /-- SERVICE_COLLISION (R356). A half-duplex collision is jammed and backed off. -/
  | serviceCollision (late : Bool)
  /-- BACKOFF_EXPIRY (R356). The back-off expires and the frame is retried. -/
  | backoffExpiry (op : TxOp)
  /-- RGMII_INBAND_STATUS (R355). In-band status updates speed, duplex and link. -/
  | rgmiiInbandStatus (up : Bool) (speed : Nat) (duplex : Bool)
  /-- STAT_SNAP (R365). A write of GO copies all port counters to snapshots. -/
  | statSnap (port : Nat)
  /-- CNT_LO_READ (R365). A read of CNT_LO latches CNT_HI. -/
  | cntLoRead (port i : Nat)
  /-- MKA_FRAME (R490). An MKA frame is exchanged and the Fold runs key agreement. -/
  | mkaFrame (port : Nat) (newSak : Bool) (dir ssci : Nat)
  /-- CLI_CONFIG (R344). Sets the client port mode. -/
  | cliConfig (h : CmdHdr) (mode : Nat)
  /-- CLI_PATH (R342). Moves a port to its other attachment. -/
  | cliPath (h : CmdHdr) (port att : Nat)
  /-- CLI_PORT_CONFIG (R369). Sets a port's control, frame, filter, tag and LPI fields. -/
  | cliPortConfig (h : CmdHdr) (port : Nat) (f : PortFields)
  /-- CLI_ADDR_SET (R351). Sets a port address entry. -/
  | cliAddrSet (h : CmdHdr) (port entry addr : Nat) (valid : Bool)
  /-- CLI_MACSEC_SET (R363). Sets MACsec validation and replay window. -/
  | cliMacsecSet (h : CmdHdr) (port validate replay : Nat) (enable : Bool)
  /-- CLI_MACSEC_SA (R362). Installs or removes a MACsec association. -/
  | cliMacsecSa (h : CmdHdr) (port dir sci an handle : Nat)
  /-- CLI_PORT_QUERY (R369). Returns a port's status and counters. -/
  | cliPortQuery (h : CmdHdr) (port : Nat)
  /-- FRAG_AGE_EXPIRY (R393). A fragment entry unmatched for AGE ticks is removed. -/
  | fragAgeExpiry
  /-- PARSE_RULE_SET (R383). Writes a rule. -/
  | parseRuleSet (h : CmdHdr) (pipe index : Nat) (rule : RuleRec)
  /-- PARSE_RULE_CLEAR (R396). Clears rules. -/
  | parseRuleClear (h : CmdHdr) (pipe first count : Nat)
  /-- PARSE_RULE_QUERY (R396). Returns a rule and its hit count. -/
  | parseRuleQuery (h : CmdHdr) (pipe index : Nat) (clear : Bool)
  /-- PARSE_PORT_SET (R396). Sets a port's default and out-of-order actions. -/
  | parsePortSet (h : CmdHdr) (port : Nat) (action : ActionRec) (ooo : Nat)
  /-- PARSE_HASH_PROFILE_SET (R386). Sets a hash profile's fields and seed. -/
  | parseHashProfileSet (h : CmdHdr) (profile fields : Nat) (seed : Word)
  /-- PARSE_HASH_TABLE_SET (R388). Writes indirection entries of tables 8 to 63. -/
  | parseHashTableSet (h : CmdHdr) (profile first : Nat) (entries : List Nat)
  /-- PARSE_FRAG_CONFIG (R393). Sets fragment entry AGE. -/
  | parseFragConfig (h : CmdHdr) (age : Nat)
  /-- PARSE_QUERY (R396). Returns parse counters, GEM bindings or an exact-match entry. -/
  | parseQuery (h : CmdHdr) (item leg : Nat)
  /-- QUEUE_FREE_DRAIN_END (R420). 8 ticks after a queue is freed its remainder is dropped. -/
  | queueFreeDrainEnd (q : Nat)
  /-- HWM_RESET (R418). A write to HWM_RESET resets a queue's or every queue's high-water marks. -/
  | hwmReset (queue : Nat) (go all : Bool)
  /-- TM_QUEUE_ALLOC (R403). Allocates a host queue. -/
  | tmQueueAlloc (h : CmdHdr) (f : QueueFields)
  /-- TM_QUEUE_SET (R421). Changes a queue's settings. -/
  | tmQueueSet (h : CmdHdr) (queue : Nat) (f : QueueFields) (sojAlarm : Nat)
  /-- TM_QUEUE_FREE (R420). Frees a host queue. -/
  | tmQueueFree (h : CmdHdr) (queue : Nat)
  /-- TM_GROUP_SET (R421). Creates or changes a group node. -/
  | tmGroupSet (h : CmdHdr) (group root band quantum : Nat) (create : Bool)
  /-- TM_SHAPER_SET (R408). Sets a shaper. -/
  | tmShaperSet (h : CmdHdr) (level number : Nat) (enable : Bool) (rate burst : Nat)
  /-- TM_ROOT_SET (R406). Sets a root's ADJ. -/
  | tmRootSet (h : CmdHdr) (root : Nat) (adj : Int)
  /-- TM_POLICER_SET (R411). Sets a per-flow policer. -/
  | tmPolicerSet (h : CmdHdr) (policer : Nat) (enable : Bool) (rate burst : Nat)
  /-- TM_METER_SET (R412). Sets a class-aggregate meter. -/
  | tmMeterSet (h : CmdHdr) (meter : Nat) (f : MeterFields)
  /-- TM_METER_MAP_SET (R412). Sets a meter map entry. -/
  | tmMeterMapSet (h : CmdHdr) (port cls meter : Nat)
  /-- TM_BUF_CONFIG (R422). Sets BUF_HIGH and the deep area size. -/
  | tmBufConfig (h : CmdHdr) (high deepMib : Nat) (short : Bool)
  /-- TM_QUERY (R421). Returns a TM item's registers. -/
  | tmQuery (h : CmdHdr) (item number : Nat)
  /-- DROVE_START (R430). A write of START starts an IDLE channel. -/
  | droveStart (chan : Nat)
  /-- DROVE_RESUME (R439). RESUME retries a halted channel's failed burst or fetch. -/
  | droveResume (chan : Nat)
  /-- DROVE_SKIP (R439). SKIP continues a halted chain at the next descriptor. -/
  | droveSkip (chan : Nat)
  /-- DROVE_ABORT (R439). ABORT sends a channel IDLE. -/
  | droveAbort (chan : Nat)
  /-- DROVE_TRIGGER (R431). A pulse on an ARMED channel's trigger line starts it or is held pending. -/
  | droveTrigger (line : Nat)
  /-- DROVE_BURST (R435). At a burst boundary the Drove serves the ready channel of highest priority. -/
  | droveBurst (b : BurstIn)
  /-- ROW_REMAP_START (R450). The bell after a row becomes a candidate its copy to a spare starts. -/
  | rowRemapStart
  /-- ROW_REMAP_COMPLETE (R450). The row copy completes and accesses go to the spare. -/
  | rowRemapComplete
  /-- CV_INIT (R454). A write of INIT loads the check-value initial value. -/
  | cvInit (cv : Nat)
  /-- CV_DATA8 (R454). Feeds one byte to a check-value unit. -/
  | cvData8 (cv data : Nat)
  /-- CV_DATA16 (R454). Feeds two bytes to a check-value unit. -/
  | cvData16 (cv data : Nat)
  /-- CV_DATA32 (R454). Feeds four bytes to a check-value unit. -/
  | cvData32 (cv data : Nat)
  /-- CV_VALUE_WRITE (R455). Restores a unit's running value. -/
  | cvValueWrite (cv : Nat) (high : Bool) (value : Nat)
  /-- CV_ALIVE_WRITE (R456). Checks a received alive counter against the last accepted value. -/
  | cvAliveWrite (cv value : Nat)
  /-- DIGEST_PUBLISH (R460). Recomputed block and device digests are published after a change. -/
  | digestPublish
  /-- DIGEST_DRIFT_CHECK (R461). Every 65,536 ticks digests are recomputed and drift repaired. -/
  | digestDriftCheck (drifted : Tbl (BitVec 64))
  /-- INTEG_QUERY (R464). Returns class counts, remap table or block digests. -/
  | integQuery (h : CmdHdr) (item : Nat)
  /-- INTEG_SCRUB_SET (R448). Sets a class's scrub rate. -/
  | integScrubSet (h : CmdHdr) (cls rate : Nat)
  /-- INTEG_FLIP (R452). Arms a flip mask to corrupt a write. -/
  | integFlip (h : CmdHdr) (cls : Nat) (data : BitVec 64) (check matchAddr : Nat) (addr : BitVec 64)
  /-- INTEG_DIGEST_CONFIG (R459). Sets DIGEST_MASK. -/
  | integDigestConfig (h : CmdHdr) (mask : Nat)
  /-- INTEG_DIGEST_DUMP (R462). Writes a block's canonical image into Pasture. -/
  | integDigestDump (h : CmdHdr) (block offset : Nat)
  /-- INTEG_REMAP (R464). Remaps a Pasture row on request. -/
  | integRemap (h : CmdHdr) (stack offset thr : Nat)
  /-- BOOT (R471). Release of reset runs the boot sequence to READY or RECOVERY. -/
  | boot (strapped selfTestOk : Bool) (rows : List (Nat × Nat)) (engines : List Nat) (image : ImageDesc)
  /-- AUTOSEAL (R478). 60 s after READY without a seal the Fold seals itself. -/
  | autoseal
  /-- PRESENCE_PRESS (R498). PRESENCE_N held 20 ms opens or restarts a button window. -/
  | presencePress
  /-- PRESENCE_WINDOW_EXPIRY (R498). A button window closes after 30 s. -/
  | presenceWindowExpiry
  /-- PRESENCE_STUCK (R498). A press held more than 10 s closes the window. -/
  | presenceStuck
  /-- SEAL_BROKEN (R499). Eight consecutive seal mismatches declare the seal broken. -/
  | sealBroken
  /-- SEAL_RESTORED (R499). 32,768 consecutive matches declare the seal intact. -/
  | sealRestored
  /-- OTP_PROGRAM_DONE (R495). OTP programming and read-back complete or fail. -/
  | otpProgramDone (readBackOk : Bool)
  /-- RNG_HEALTH_FAIL (R491). An RNG health test fails and requests wait. -/
  | rngHealthFail
  /-- TRUST_QUERY (R503). Returns FOLD status and OWNER_ID, optionally clearing SEAL_HISTORY. -/
  | trustQuery (h : CmdHdr) (clear : Bool)
  /-- TRUST_IDENTITY (R492). Returns identity modulus, serial number and grade. -/
  | trustIdentity (h : CmdHdr)
  /-- TRUST_ATTEST (R492). Returns a signed attestation report. -/
  | trustAttest (h : CmdHdr) (nonce : Nat)
  /-- TRUST_IMPORT_KEY (R482). Returns the import modulus. -/
  | trustImportKey (h : CmdHdr)
  /-- TRUST_BOOT_SEAL (R478). Sets the boot seal. -/
  | trustBootSeal (h : CmdHdr)
  /-- TRUST_KEYLIST_LOAD (R475). Loads the customer key list. -/
  | trustKeylistLoad (h : CmdHdr) (list : KeyList)
  /-- TRUST_FW_VERIFY (R503). Verifies an image in Pasture. -/
  | trustFwVerify (h : CmdHdr) (offset : Nat) (sigOk : Bool)
  /-- TRUST_SESSION_OPEN (R482). Opens an import session from an OAEP ciphertext. -/
  | trustSessionOpen (h : CmdHdr) (cipher : List Byte) (transportKey : Option Nat)
  /-- TRUST_SESSION_CLOSE (R482). Closes an import session. -/
  | trustSessionClose (h : CmdHdr) (session : Nat)
  /-- TRUST_BASE_IMPORT (R483). Unwraps a base secret into a base handle. -/
  | trustBaseImport (h : CmdHdr) (session : Nat) (wrapped secret : List Byte)
  /-- TRUST_BASE_DESTROY (R503). Destroys a base handle. -/
  | trustBaseDestroy (h : CmdHdr) (base : Nat)
  /-- SA_CREATE (R486). Creates a security association by import or derivation. -/
  | saCreate (h : CmdHdr) (src : SaSource)
  /-- SA_DESTROY (R486). Destroys an unbound association. -/
  | saDestroy (h : CmdHdr) (handle : Nat)
  /-- SA_QUERY (R503). Returns an association's state, limits and counts. -/
  | saQuery (h : CmdHdr) (handle : Nat)
  /-- TRUST_ROLLBACK_COMMIT (R477). Raises a program's rollback counter. -/
  | trustRollbackCommit (h : CmdHdr) (program : Nat)
  /-- TRUST_OTP_COMMIT (R495). Commits a new OTP generation under presence. -/
  | trustOtpCommit (h : CmdHdr) (fields : OtpFields) (zeroOk : Bool)
  /-- TRUST_ROOT_ROTATE (R497). Commits a generation with ROOT_EPOCH raised under presence. -/
  | trustRootRotate (h : CmdHdr)
  /-- TRUST_DEBUG_UNLOCK (R501). Retires keys and opens debug access under presence. -/
  | trustDebugUnlock (h : CmdHdr)
  /-- TRUST_FACTORY_RESET (R501). Zeroises keys and retention and resets the device. -/
  | trustFactoryReset (h : CmdHdr)
  /-- TRUST_PRESENCE_CLOSE (R498). Closes a presence window. -/
  | trustPresenceClose (h : CmdHdr)
  /-- COMMAND_DEQUEUE (R518). The control cores dequeue a command, check it, and act or refuse. -/
  | commandDequeue
  /-- SQ_TAIL_DOORBELL (R522). A write of SQ_TAIL offers commands, or stops the ring if above 255. -/
  | sqTailDoorbell (ring value : Nat) (packets : List KPacket) (pcieFails : Bool)
  /-- CQ_HEAD_DOORBELL (R522). A write of CQ_HEAD frees completion slots. -/
  | cqHeadDoorbell (ring value : Nat)
  /-- RING_ENABLE (R523). A write of EN starts or stops a ring pair and zeroes its indices. -/
  | ringEnable (ring : Nat) (en : Bool)
  /-- BAR2_ACCESS (R507). A host access through BAR2 reaches Pasture in the selected window. -/
  | bar2Access (offset : Nat) (write : Bool) (data : List Byte) (bytes : Nat) (find : EccFind)
  /-- LEAF_WRITE (R532). A W1C write clears interrupt leaf bits and updates INT_N. -/
  | leafWrite (word : Nat) (value : Word)
  /-- MSIX_ENABLE (R534). MSI-X becomes able to send and the message goes out if the condition holds. -/
  | msixEnable (cfgEn masked : Bool)
  /-- REGISTER_WRITE (R7). A host write to a BAR0 register without its own behaviour, dropped if command-managed or dark. -/
  | registerWrite (addr : Nat) (value : Word)
  /-- SESSION_HELLO (R526). A HELLO assigns a session and is answered with CHALLENGE. -/
  | sessionHello (addr port : Nat)
  /-- SESSION_PROOF (R526). A PROOF is verified and the session opens with WELCOME. -/
  | sessionProof (session role keyHash : Nat) (sigOk decryptOk : Bool)
  /-- SESSION_COMMAND (R527). An authenticated COMMAND datagram is queued or its reply resent. -/
  | sessionCommand (session ctr : Nat) (tagOk : Bool) (packet : KPacket)
  /-- SESSION_CLOSE (R527). A CLOSE datagram closes the session. -/
  | sessionClose (session ctr : Nat) (tagOk : Bool)
  /-- SESSION_IDLE_TIMEOUT (R527). A session idle past its time closes. -/
  | sessionIdleTimeout (session : Nat)
  /-- SESSION_PROOF_TIMEOUT (R526). A CHALLENGE without PROOF for 5 s frees its session. -/
  | sessionProofTimeout (session : Nat)
  /-- CASC_KEEPALIVE_SEND (R537). Every 10 µs a KEEPALIVE is sent on each port. -/
  | cascKeepaliveSend
  /-- CASC_HELLO_SEND (R537). Every 1,024 ticks a HELLO is sent on an aligning port. -/
  | cascHelloSend
  /-- CASC_TOPO_SEND (R539). Every 64 ticks TOPO is sent. -/
  | cascTopoSend
  /-- TWIN_BEAT_SEND (R539). Every 10 µs a TWIN_BEAT is sent toward the twin. -/
  | twinBeatSend
  /-- CASC_HELLO_RX (R537). A received HELLO advances the port toward UP or takes it DOWN. -/
  | cascHelloRx (h : CascHdr) (domain dev rank : Nat)
  /-- CASC_TOPO_RX (R540). A TOPO frame updates routes. -/
  | cascTopoRx (h : CascHdr) (hops : List Nat)
  /-- CASC_KEEPALIVE_RX (R537). A KEEPALIVE keeps the port alive. -/
  | cascKeepaliveRx (h : CascHdr)
  /-- CASC_LANE_COPY_RX (R333). A LANE_COPY request makes the far end copy a lane onto the spare. -/
  | cascLaneCopyRx (h : CascHdr) (port lane : Nat)
  /-- CASC_DIGEST_RX (R462). A peer's digest is stored and compared. -/
  | cascDigestRx (h : CascHdr) (peerBusy : Bool) (mask : Nat) (digest : BitVec 64) (epoch : Word)
  /-- CASC_TAKEOVER_RX (R550). A TAKEOVER rehomes spanning conferences or resolves crossing claims. -/
  | cascTakeoverRx (h : CascHdr) (taken home : Nat)
  /-- CASC_TWIN_BEAT_RX (R548). A TWIN_BEAT shows the partner is alive. -/
  | cascTwinBeatRx (h : CascHdr) (state : Nat)
  /-- CASC_DATA_RX (R540). A DATA frame is forwarded or enters PARSE. -/
  | cascDataRx (h : CascHdr) (bytes : List Byte) (stamp now : Nat)
  /-- CASC_MEDIA_RX (R543). A MEDIA frame carries contributions, outputs or twin packets. -/
  | cascMediaRx (h : CascHdr) (pay : MediaPay)
  /-- CASC_PORT_TIMEOUT (R537). No frame for 40 µs or alignment loss takes a port DOWN. -/
  | cascPortTimeout (port : Nat)
  /-- CASC_PORT_RETRY (R537). 1,024 ticks after a REASON 3 or 4 fall the port tries to align again. -/
  | cascPortRetry (port : Nat)
  /-- TWIN_PARTNER_LOST (R548). No frame from the partner on either path for 40 µs declares it lost. -/
  | twinPartnerLost
  /-- TWIN_TAKEOVER (R548). At the next bell shadows become live and TAKEOVER is sent. -/
  | twinTakeover
  /-- CASC_CONFIG (R551). Sets domain, device number, ports and link key. -/
  | cascConfig (h : CmdHdr) (domain device ports base gen : Nat)
  /-- CASC_QUERY (R551). Returns cascade registers. -/
  | cascQuery (h : CmdHdr)
  /-- CASC_CONF_BIND (R541). Binds a spanning conference to its home device. -/
  | cascConfBind (h : CmdHdr) (tag home : Nat)
  /-- CASC_TWIN_SET (R546). Pairs or unpairs twin devices. -/
  | cascTwinSet (h : CmdHdr) (twin : Nat)
  /-- CASC_TAKEOVER (R549). Orders a takeover by a single-path twin. -/
  | cascTakeover (h : CmdHdr)
  /-- CASC_SA_PAIR (R546). Pairs a local and twin association handle. -/
  | cascSaPair (h : CmdHdr) (handle other : Nat)
  /-- CTRL_FW_SWAP (R574). Starts replacing the control-core firmware. -/
  | ctrlFwSwap (h : CmdHdr) (slot : Nat) (shared : Bool)
  /-- PWR_SEASON (R560). Moves the device between Summer and Autumn. -/
  | pwrSeason (h : CmdHdr) (season : Nat)
  /-- PWR_WINTER (R564). Starts Winter entry. -/
  | pwrWinter (h : CmdHdr) (banks keep thaw linkWait : Nat)
  /-- PWR_DOMAIN_SET (R557). Switches a power domain on or off. -/
  | pwrDomainSet (h : CmdHdr) (domain on : Nat)
  /-- PWR_ALARM_SET (R578). Sets the sleep-counter wake alarm. -/
  | pwrAlarmSet (h : CmdHdr) (value enable : Nat)
  /-- PWR_AUTUMN_CONFIG (R562). Sets Autumn gating parameters. -/
  | pwrAutumnConfig (h : CmdHdr) (minGroups high low flags : Nat)
  /-- PWR_QUERY (R578). Returns power registers and banks needed for Winter. -/
  | pwrQuery (h : CmdHdr)
  /-- DOMAIN_UP_DONE (R556). A domain's up time elapses and it reaches ON. -/
  | domainUpDone (domain : Nat)
  /-- DOMAIN_DOWN_DONE (R556). A domain finishes shutting down and reaches OFF. -/
  | domainDownDone (domain : Nat)
  /-- AUTUMN_EVALUATE (R562). Every 8,000 ticks in Autumn a group may be chosen for gating. -/
  | autumnEvaluate
  /-- AUTUMN_GATE_GROUP (R562). The bell after the last migration the chosen group is gated. -/
  | autumnGateGroup
  /-- SEASON_SUMMER_READY (R561). Every ungated domain reaches ON and the season reads Summer. -/
  | seasonSummerReady
  /-- WINTER_READY (R566). Domains are off and the entry follow-up reports ready to commit. -/
  | winterReady
  /-- PME_TURN_OFF (R566). The host's PME_Turn_Off is acknowledged and PCIE switches off. -/
  | pmeTurnOff
  /-- LINK_WAIT_EXPIRY (R570). LINK_WAIT expires and Winter entry is abandoned. -/
  | linkWaitExpiry
  /-- WINTER_COMMIT (R566). Four AON cycles after the rails are lowered the device commits to Winter. -/
  | winterCommit (count : BitVec 48)
  /-- WAKE_PIN (R569). An enabled WAKE pin event aborts entry or starts a thaw. -/
  | wakePin (pin : Nat) (a b c : Bool)
  /-- WAKE_HEAD_END (R569). A forced wake-up indication from the head end starts a thaw. -/
  | wakeHeadEnd
  /-- WAKE_ALARM (R569). The sleep counter reaches ALARM and starts a thaw. -/
  | wakeAlarm (count : BitVec 48)
  /-- CORE_HEARTBEAT_LOSS (R567). Control core 0 stops its heartbeat for 4 ms in Winter and a thaw starts. -/
  | coreHeartbeatLoss
  /-- THAW (R571). A recognised wake raises rails, restores clocks, time, keys and configuration. -/
  | thaw (count : BitVec 48)
  /-- THAW_DONE (R571). PCIE returns and the thaw season takes effect. -/
  | thawDone
  /-- AVS_STATUS_POLL (R573). Every 100 µs the AVS status is read until VDone or failure. -/
  | avsStatusPoll (ack : Nat) (vdone expired : Bool)
  /-- CONTROL_CORE_FENCE (R575). A control core silent for 2 ticks is fenced and its work passes on. -/
  | controlCoreFence (core : Nat)
  /-- FW_SWAP_RESUME (R574). The new control firmware reads the hand-over record and resumes. -/
  | fwSwapResume
  /-- FW_SWAP_TIMEOUT (R574). No heartbeat within 2 ms reloads the old firmware. -/
  | fwSwapTimeout
  /-- POWER_ON_RESET (R587). VDD_AON rises from below 600 mV and everything resets. -/
  | powerOnReset
  /-- POR_N_ASSERT (R587). POR_N held low 10 µs causes a device reset. -/
  | porNAssert
  /-- SUPPLY_DIP (R585). A monitored supply below 90 % for 1 µs resets the device. -/
  | supplyDip
  /-- PERST_N (R587). PERST_N resets the PCI Express function only. -/
  | perstN
  /-- THERMTRIP (R598). Junction at 125 °C drives THERMTRIP_N and resets the device. -/
  | thermtrip
  /-- THERMTRIP_CLEAR (R598). The junction cools to 110 °C and THERMTRIP_N is released. -/
  | thermtripClear
  /-- REGISTER_READ (R7). A host read of a BAR0 register with behaviour of its own: an RC field clears after the read, and a read of a dark block returns 0xFFFF_FFFF, latches DARK_ADDR and raises DARK_ACCESS. -/
  | registerRead (addr : Nat)
  /-- SCALAR_OPERATION (R197). An engine issues a scalar add, logic, shift, compare, predicate set, mov or scalar multiply in the ALU slot. -/
  | scalarOperation (i : Issue) (op : ScOp) (dst : ScDst) (a b : ScSrc)
  /-- CONTROL_REGISTER_WRITE (R198). An engine writes a circular base or length register cb or cl, or clears esr.SAT, effective at issue + 1. -/
  | controlRegisterWrite (i : Issue) (w : CtlWrite)
  /-- PRESENCE_RELEASE (R498). PRESENCE_N is released for 20 ms, ending the lockout after a stuck press so that a later press can open a window. -/
  | presenceRelease
  /-- COMMAND_WAIT_EXPIRY (R491). A command waiting on an unhealthy random number generator for more than 1 s is refused with BUSY. -/
  | commandWaitExpiry (h : CmdHdr) (op : Nat)
  /-- PPS_OUT_FALL (R63). 1PPS_OUT falls after staying high for BELL.PPS_CTRL.WIDTH milliseconds. -/
  | ppsOutFall
  /-- PAUSE_QUANTA_EXPIRY (R352). The quanta of a received PAUSE frame run out and the port's transmission resumes. -/
  | pauseQuantaExpiry (port : Nat)
  /-- PCIE_LINK_L0 (R571). The PCI Express link reaches L0 after a thaw and PCIE_WAKE_N is released. -/
  | pcieLinkL0
deriving DecidableEq, Repr

end Sys2Proof
end

