-- ==== Sys2Proof/Machine/Crc.lean ====
section
/-! DEFINITION. The cyclic redundancy checks of the device, bit by bit. -/

namespace Sys2Proof.Machine

/-- One bit of a reflected CRC-32C register, polynomial 0x1EDC_6F41 (R387). -/
def crc32cBit (c : Word) : Word := if c.getLsbD 0 then (c >>> 1) ^^^ 0x82F63B78#32 else c >>> 1

/-- `n` bits of the register. -/
def crc32cBits (c : Word) (n : Nat) : Word :=
  match n with
  | 0 => c
  | n + 1 => crc32cBits (crc32cBit c) n

/-- The register after a byte. -/
def crc32cByte (c : Word) (b : Byte) : Word := crc32cBits (c ^^^ b.setWidth 32) 8

/-- CRC-32C over bytes (R387). -/
def crc32c (bs : List Byte) : Word := (bs.foldl crc32cByte 0xFFFFFFFF#32) ^^^ 0xFFFFFFFF#32

/-- One bit of a reflected CRC-32 register, the polynomial of IEEE 802.3 (R350). -/
def crc32Bit (c : Word) : Word := if c.getLsbD 0 then (c >>> 1) ^^^ 0xEDB88320#32 else c >>> 1

/-- `n` bits of the register. -/
def crc32Bits (c : Word) (n : Nat) : Word :=
  match n with
  | 0 => c
  | n + 1 => crc32Bits (crc32Bit c) n

/-- The FCS of a frame, least significant byte first (R350). -/
def fcsOf (bs : List Byte) : List Byte :=
  let c := (bs.foldl (fun (c : Word) (b : Byte) => crc32Bits (c ^^^ b.setWidth 32) 8) 0xFFFFFFFF#32) ^^^ 0xFFFFFFFF#32
  (List.range 4).map (fun i => (c >>> (8 * i)).setWidth 8)

/-- `n` bits of a CRC-16/CCITT register, polynomial x¹⁶ + x¹² + x⁵ + 1, not reflected (R263). -/
def crc16Bits (c : BitVec 16) (n : Nat) : BitVec 16 :=
  match n with
  | 0 => c
  | n + 1 => crc16Bits (if c.getLsbD 15 then (c <<< 1) ^^^ 0x1021#16 else c <<< 1) n

/-- CRC-8 of polynomial x⁸ + x² + x + 1 over bytes, from zero (R327). -/
def crc8Bits (c : Byte) (n : Nat) : Byte :=
  match n with
  | 0 => c
  | n + 1 => crc8Bits (if c.getLsbD 7 then (c <<< 1) ^^^ 0x07#8 else c <<< 1) n
def crc8 (bs : List Byte) : Byte := bs.foldl (fun c b => crc8Bits (c ^^^ b) 8) 0

/-- CRC-16/CCITT over bytes (R263). -/
def crc16 (bs : List Byte) : BitVec 16 := bs.foldl (fun (c : BitVec 16) (b : Byte) => crc16Bits (c ^^^ (b.setWidth 16 <<< 8)) 8) 0xFFFF#16

end Sys2Proof.Machine
end

