-- ==== Sys2Proof/Config.lean ====
section
/-! DEFINITION. What an implementation fixes and what the spec leaves open: constants with no body, so that
nothing can be proved of their values. -/

namespace Sys2Proof

/-- A FREE VALUE: draw `n` of a value the spec leaves open. The state's `freeCtr` counts the draws (log 6). -/
opaque Config.free : Nat → Nat

/-- Which of the ten placements the two longer cycles have among every five (R47 fixes three cycles of 419,430 and two of 419,431
in every five, and not their order; log 9). -/
opaque Config.cPattern : Nat

/-- The delay from the head end's sending time to the arrival time, from the equalisation delay, the response
time and the refractive-index correction (R60 names ITU-T G.9804.3 for it and gives no formula; log 10). -/
opaque Config.todDelay : Nat → Nat → Nat → Int

/-- Whether one-step transparent clock operation is enabled on time-stamping port `p` of R54: the spec names no register for it (R55; log 152). -/
opaque Config.oneStep : Nat → Bool

/-- The vendor-specific value of the serial number (R234, derived by the Fold from the device identity; log 11). -/
opaque Config.serialNumber : Nat

/-- The logical GEM port of the SDUs of an upstream node, which OMCI configures (R269; log 171). -/
opaque Config.gemPortOf : Nat → Nat

/-- The integrity check over the first 40 bytes of a bond message on a slice, which G.9804.2 defines (R273; log 171). -/
opaque Config.bondMic : Nat → List Byte → Nat

/-- The identity and import moduli (R492, R482: generated from a device secret; log 11). -/
opaque Config.identityModulus : Nat
opaque Config.importModulus : Nat

/-- The grade, false for FM7240-C and true for FM7240-E (R3; log 11). -/
opaque Config.gradeE : Bool

/-- The fuse value of the AVS rail `r` in millivolts (R572; log 11). -/
opaque Config.avsFuse : Nat → Nat

/-- Which way a quotient or a logarithm is rounded where the spec gives its resolution and not its rounding
(R120, R128, R132; log 16): true rounds up. -/
opaque Config.roundUp : Int → Int → Bool

/-- What the canonical parameter sets of all tiers have in common (R168): the spec names them and does not list them (log 18). -/
opaque Config.canonicalSets : List Nat

/-- The default wake time of a port's PHY type from low-power idle, in µs, by port and speed, which R359 takes from IEEE 802.3 (log 34). -/
opaque Config.defaultTw : Nat → Nat → Nat

/-- The retention banks beyond 0 to 3 that a configuration of so many records needs in Winter (R564 states no size; log 47). -/
opaque Config.banksFor : Nat → Nat

/-- The address of the engine kernel's interrupt vector, inside the kernel's region (R209, R210; log 20). -/
opaque Config.kernelVector : Nat

/-- HMAC-SHA-256 and SHA-256, which the spec names and does not define (R480, R494; log 15). -/
opaque Config.hmacSha256 : List Byte → List Byte → List Byte
opaque Config.sha256 : List Byte → Nat

/-- AES key wrap with padding (RFC 5649) under a transport key, which the spec names and does not define: its bytes as a number, the first most significant
(R483; log 175). -/
opaque Config.keyWrap : Nat → List Byte → Nat

/-- An RSA signature under the identity key (R474, R492; log 15). -/
opaque Config.identitySign : List Byte → Nat

end Sys2Proof
end

