-- ==== Sys2Proof/Machine/KervonTable.lean ====
section
/-! DEFINITION. The opcode of each Kervon command and which commands are reads (R519, R529). -/

namespace Sys2Proof.Machine

/-- The opcode of a command (R529 and the chapters' tables). -/
def kOpcode (c : KCmd) : Nat :=
  match c with
  | .sysQuery => 0x0100
  | .pastureAllotSet _ => 0x0101
  | .pastureQuery => 0x0102
  | .timeConfig _ => 0x0110
  | .timeSet _ _ => 0x0111
  | .timeRate _ => 0x0112
  | .timeOffsetConfirm _ => 0x0113
  | .mgmtConfig _ _ _ => 0x0120
  | .mgmtSessionQuery => 0x0121
  | .mgmtSessionClose _ => 0x0122
  | .fwStoreWrite _ _ _ _ => 0x0130
  | .fwRecover _ _ _ _ => 0x0131
  | .hostPktTx _ _ _ _ _ => 0x0190
  | .hostPktConfig _ _ => 0x0191
  | .diagOmciRead _ _ _ _ => 0x0800
  | .diagOmciList _ _ => 0x0801
  | .confCreate _ => 0x0300
  | .confModify _ _ => 0x0301
  | .confDestroy _ _ => 0x0302
  | .confQuery _ => 0x0303
  | .legCreate _ => 0x0310
  | .legModify _ _ => 0x0311
  | .legDestroy _ => 0x0312
  | .legRekey _ _ _ => 0x0313
  | .legMigrate _ _ => 0x0314
  | .legQuery _ => 0x0315
  | .placeSet _ _ _ => 0x0320
  | .placeQuery _ _ _ => 0x0321
  | .statusTableSet _ _ => 0x0330
  | .routeSet _ => 0x0400
  | .routeClear _ => 0x0401
  | .routeQuery _ => 0x0402
  | .consoleSet _ _ _ => 0x0410
  | .audParamWrite _ _ _ => 0x0420
  | .audParamRead _ _ _ _ _ => 0x0421
  | .audCommit _ => 0x0422
  | .portTdmConfig _ => 0x0430
  | .portQuery _ _ => 0x0431
  | .confAudioQuery _ => 0x0432
  | .contribSet _ => 0x0510
  | .subscribeSet _ _ => 0x0511
  | .layoutSet _ => 0x0500
  | .layoutClear _ => 0x0501
  | .layoutQuery _ => 0x0502
  | .vidConfig _ _ _ => 0x0520
  | .intraRequest _ _ _ => 0x0521
  | .vidQuery _ => 0x0530
  | .engineLoad _ _ _ => 0x0150
  | .engineUnload _ => 0x0151
  | .groupUpdate _ _ _ => 0x0152
  | .flockQuery _ => 0x0153
  | .accConfig _ => 0x0200
  | .accEnable _ _ => 0x0201
  | .accDisable _ _ => 0x0202
  | .accQuery _ => 0x0203
  | .accKillRelease _ => 0x0210
  | .accBondConfig _ _ => 0x0204
  | .accChannelLeave _ => 0x0205
  | .accBondQuery => 0x0206
  | .imcTrunkSet _ => 0x0440
  | .imcTrunkClear _ => 0x0441
  | .imcTrunkQuery _ => 0x0442
  | .laneQuery _ => 0x0820
  | .laneGroupConfig _ _ _ => 0x0821
  | .laneRecal _ => 0x0822
  | .laneSpare _ _ _ => 0x0823
  | .cliConfig _ => 0x0160
  | .cliPath _ _ => 0x0161
  | .cliPortConfig _ _ => 0x0162
  | .cliAddrSet _ _ _ _ => 0x0163
  | .cliMacsecSet _ _ _ _ => 0x0164
  | .cliMacsecSa _ _ _ _ _ => 0x0165
  | .cliPortQuery _ => 0x0166
  | .parseRuleSet _ _ _ => 0x0170
  | .parseRuleClear _ _ _ => 0x0171
  | .parseRuleQuery _ _ _ => 0x0172
  | .parsePortSet _ _ _ => 0x0173
  | .parseHashProfileSet _ _ _ => 0x0174
  | .parseHashTableSet _ _ _ => 0x0175
  | .parseFragConfig _ => 0x0176
  | .parseQuery _ _ => 0x0177
  | .tmQueueAlloc _ => 0x0180
  | .tmQueueSet _ _ _ => 0x0181
  | .tmQueueFree _ => 0x0182
  | .tmGroupSet _ _ _ _ _ => 0x0183
  | .tmShaperSet _ _ _ _ _ => 0x0184
  | .tmRootSet _ _ => 0x0185
  | .tmPolicerSet _ _ _ _ => 0x0186
  | .tmMeterSet _ _ => 0x0187
  | .tmMeterMapSet _ _ _ => 0x0188
  | .tmBufConfig _ _ _ => 0x0189
  | .tmQuery _ _ => 0x018A
  | .integQuery _ => 0x0830
  | .integScrubSet _ _ => 0x0831
  | .integFlip _ _ _ _ _ => 0x0832
  | .integDigestConfig _ => 0x0833
  | .integDigestDump _ _ => 0x0834
  | .integRemap _ _ _ => 0x0835
  | .trustQuery _ => 0x0600
  | .trustIdentity => 0x0601
  | .trustAttest _ => 0x0602
  | .trustImportKey => 0x0603
  | .trustBootSeal => 0x0604
  | .trustKeylistLoad _ => 0x0605
  | .trustFwVerify _ _ => 0x0606
  | .trustSessionOpen _ _ => 0x0610
  | .trustSessionClose _ => 0x0611
  | .trustBaseImport _ _ _ => 0x0612
  | .trustBaseDestroy _ => 0x0613
  | .saCreate _ => 0x0620
  | .saDestroy _ => 0x0621
  | .saQuery _ => 0x0622
  | .trustRollbackCommit _ => 0x0630
  | .trustOtpCommit _ _ => 0x0640
  | .trustRootRotate => 0x0641
  | .trustDebugUnlock => 0x0642
  | .trustFactoryReset => 0x0643
  | .trustPresenceClose => 0x0644
  | .cascConfig _ _ _ _ _ => 0x0900
  | .cascQuery => 0x0901
  | .cascConfBind _ _ => 0x0910
  | .cascTwinSet _ => 0x0920
  | .cascTakeover => 0x0921
  | .cascSaPair _ _ => 0x0922
  | .ctrlFwSwap _ _ => 0x0140
  | .pwrSeason _ => 0x0700
  | .pwrWinter _ _ _ _ => 0x0701
  | .pwrDomainSet _ _ => 0x0702
  | .pwrAlarmSet _ _ => 0x0703
  | .pwrAutumnConfig _ _ _ _ => 0x0704
  | .pwrQuery => 0x0705
  | .undefinedOpcode op => op

/-- Whether the command is a read under R519: every QUERY and the six reads named there. -/
def kIsRead (c : KCmd) : Bool :=
  match c with
  | .sysQuery => true
  | .pastureAllotSet _ => false
  | .pastureQuery => true
  | .timeConfig _ => false
  | .timeSet _ _ => false
  | .timeRate _ => false
  | .timeOffsetConfirm _ => false
  | .mgmtConfig _ _ _ => false
  | .mgmtSessionQuery => true
  | .mgmtSessionClose _ => false
  | .fwStoreWrite _ _ _ _ => false
  | .fwRecover _ _ _ _ => false
  | .hostPktTx _ _ _ _ _ => false
  | .hostPktConfig _ _ => false
  | .diagOmciRead _ _ _ _ => true
  | .diagOmciList _ _ => true
  | .confCreate _ => false
  | .confModify _ _ => false
  | .confDestroy _ _ => false
  | .confQuery _ => true
  | .legCreate _ => false
  | .legModify _ _ => false
  | .legDestroy _ => false
  | .legRekey _ _ _ => false
  | .legMigrate _ _ => false
  | .legQuery _ => true
  | .placeSet _ _ _ => false
  | .placeQuery _ _ _ => true
  | .statusTableSet _ _ => false
  | .routeSet _ => false
  | .routeClear _ => false
  | .routeQuery _ => true
  | .consoleSet _ _ _ => false
  | .audParamWrite _ _ _ => false
  | .audParamRead _ _ _ _ _ => false
  | .audCommit _ => false
  | .portTdmConfig _ => false
  | .portQuery _ _ => true
  | .confAudioQuery _ => true
  | .contribSet _ => false
  | .subscribeSet _ _ => false
  | .layoutSet _ => false
  | .layoutClear _ => false
  | .layoutQuery _ => true
  | .vidConfig _ _ _ => false
  | .intraRequest _ _ _ => false
  | .vidQuery _ => true
  | .engineLoad _ _ _ => false
  | .engineUnload _ => false
  | .groupUpdate _ _ _ => false
  | .flockQuery _ => true
  | .accConfig _ => false
  | .accEnable _ _ => false
  | .accDisable _ _ => false
  | .accQuery _ => true
  | .accKillRelease _ => false
  | .accBondConfig _ _ => false
  | .accChannelLeave _ => false
  | .accBondQuery => true
  | .imcTrunkSet _ => false
  | .imcTrunkClear _ => false
  | .imcTrunkQuery _ => true
  | .laneQuery _ => true
  | .laneGroupConfig _ _ _ => false
  | .laneRecal _ => false
  | .laneSpare _ _ _ => false
  | .cliConfig _ => false
  | .cliPath _ _ => false
  | .cliPortConfig _ _ => false
  | .cliAddrSet _ _ _ _ => false
  | .cliMacsecSet _ _ _ _ => false
  | .cliMacsecSa _ _ _ _ _ => false
  | .cliPortQuery _ => true
  | .parseRuleSet _ _ _ => false
  | .parseRuleClear _ _ _ => false
  | .parseRuleQuery _ _ _ => true
  | .parsePortSet _ _ _ => false
  | .parseHashProfileSet _ _ _ => false
  | .parseHashTableSet _ _ _ => false
  | .parseFragConfig _ => false
  | .parseQuery _ _ => true
  | .tmQueueAlloc _ => false
  | .tmQueueSet _ _ _ => false
  | .tmQueueFree _ => false
  | .tmGroupSet _ _ _ _ _ => false
  | .tmShaperSet _ _ _ _ _ => false
  | .tmRootSet _ _ => false
  | .tmPolicerSet _ _ _ _ => false
  | .tmMeterSet _ _ => false
  | .tmMeterMapSet _ _ _ => false
  | .tmBufConfig _ _ _ => false
  | .tmQuery _ _ => true
  | .integQuery _ => true
  | .integScrubSet _ _ => false
  | .integFlip _ _ _ _ _ => false
  | .integDigestConfig _ => false
  | .integDigestDump _ _ => false
  | .integRemap _ _ _ => false
  | .trustQuery _ => true
  | .trustIdentity => true
  | .trustAttest _ => true
  | .trustImportKey => true
  | .trustBootSeal => false
  | .trustKeylistLoad _ => false
  | .trustFwVerify _ _ => true
  | .trustSessionOpen _ _ => false
  | .trustSessionClose _ => false
  | .trustBaseImport _ _ _ => false
  | .trustBaseDestroy _ => false
  | .saCreate _ => false
  | .saDestroy _ => false
  | .saQuery _ => true
  | .trustRollbackCommit _ => false
  | .trustOtpCommit _ _ => false
  | .trustRootRotate => false
  | .trustDebugUnlock => false
  | .trustFactoryReset => false
  | .trustPresenceClose => false
  | .cascConfig _ _ _ _ _ => false
  | .cascQuery => true
  | .cascConfBind _ _ => false
  | .cascTwinSet _ => false
  | .cascTakeover => false
  | .cascSaPair _ _ => false
  | .ctrlFwSwap _ _ => false
  | .pwrSeason _ => false
  | .pwrWinter _ _ _ _ => false
  | .pwrDomainSet _ _ => false
  | .pwrAlarmSet _ _ => false
  | .pwrAutumnConfig _ _ _ _ => false
  | .pwrQuery => true
  | .undefinedOpcode _ => false

end Sys2Proof.Machine
end

