-- ==== Sys2Proof/Machine/Table.lean ====
section
/-! DEFINITION. Reading and writing a sparse table, and the plainest arithmetic of counters and bit fields. -/

namespace Sys2Proof.Machine

/-- The entry of number `k`, if one is listed. -/
def tget {α : Type} (t : Tbl α) (k : Nat) : Option α :=
  match t with
  | [] => none
  | (j, a) :: r => if j = k then some a else tget r k

/-- The entry of number `k`, or the file's reset value. -/
def tgetD {α : Type} (t : Tbl α) (k : Nat) (d : α) : α := (tget t k).getD d

/-- The table with entry `k` written. -/
def tset {α : Type} (t : Tbl α) (k : Nat) (a : α) : Tbl α :=
  match t with
  | [] => [(k, a)]
  | (j, b) :: r => if k < j then (k, a) :: (j, b) :: r else if k = j then (k, a) :: r else (j, b) :: tset r k a

/-- The table with entry `k` removed. -/
def tdel {α : Type} (t : Tbl α) (k : Nat) : Tbl α := t.filter (fun e => e.1 != k)

/-- The table with entry `k` changed by `f`, from the reset value where none is listed. -/
def tupd {α : Type} (t : Tbl α) (k : Nat) (d : α) (f : α → α) : Tbl α := tset t k (f (tgetD t k d))

/-- The table with entry `k` changed by `f` if it is listed. -/
def tmod {α : Type} (t : Tbl α) (k : Nat) (f : α → α) : Tbl α :=
  t.map (fun e => if e.1 = k then (e.1, f e.2) else e)

/-- Every listed entry changed by `f`. -/
def tmap {α : Type} (t : Tbl α) (f : Nat → α → α) : Tbl α := t.map (fun e => (e.1, f e.1 e.2))

/-- Whether entry `k` is listed. -/
def thas {α : Type} (t : Tbl α) (k : Nat) : Bool := (tget t k).isSome

/-- The least number below `n` that is not listed. -/
def tfree {α : Type} (t : Tbl α) (lo n : Nat) : Option Nat := ((List.range n).map (· + lo)).find? (fun k => !thas t k)

/-- A counter that stops at 0xFFFF_FFFF. -/
def satInc (w : Word) : Word := if w = Word.top then w else w + 1#32

/-- A counter that stops at 0xFFFF_FFFF, advanced by `n`. -/
def satAdd (w : Word) (n : Nat) : Word := if w.toNat + n ≥ 0xFFFFFFFF then Word.top else BitVec.ofNat 32 (w.toNat + n)

/-- Bit `i` of a word as a Bool. -/
def bitOf (w : Word) (i : Nat) : Bool := w.getLsbD i

/-- A field value placed at bit `lo`. -/
def fieldAt (v lo : Nat) : Nat := v * 2 ^ lo

/-- A Bool as a bit. -/
def b2n (b : Bool) : Nat := if b then 1 else 0

/-- The field of `len` bits at bit `lo` of a number. -/
def getField (v lo len : Nat) : Nat := v / 2 ^ lo % 2 ^ len

/-- A signed number in `w` bits of two's complement, as a number. -/
def twos (w : Nat) (v : Int) : Nat := (v % (2 ^ w : Int)).toNat

/-- A value clamped into a range. -/
def clampI (lo hi v : Int) : Int := if v < lo then lo else if v > hi then hi else v

/-- Ceiling of a quotient. -/
def ceilDiv (a b : Nat) : Nat := if b = 0 then 0 else (a + b - 1) / b

/-- The sum of a list. -/
def sumN (l : List Nat) : Nat := l.foldl (· + ·) 0

/-- The largest entry of a list of numbers. -/
def maxN (l : List Nat) : Nat := l.foldl max 0

end Sys2Proof.Machine
end

