-- ==== Sys2Proof/Machine/Memory.lean ====
section
/-! DEFINITION. Pasture's bytes as a sorted list of (offset, byte) pairs (chapters 01 and 17), and the operations on them. -/

namespace Sys2Proof.Machine

/-- The bytes of Pasture that differ from what an unlisted offset reads as, by rising offset. -/
abbrev Memory := List Host.Cell

/-- Pasture's size, 32 GiB (R4). -/
def pastureSize : Nat := 0x800000000

/-- What a byte that nothing has written reads as (DESIGN CHOICE, log 7: the spec gives none). -/
def memBlank : Byte := 0#8

/-- The byte at an offset. -/
def memByte (m : Memory) (a : Nat) : Byte :=
  match m with
  | [] => memBlank
  | (b, v) :: r => if b = a then v else memByte r a

/-- The memory with the byte at an offset removed from the list. -/
def memErase (m : Memory) (a : Nat) : Memory :=
  match m with
  | [] => []
  | (b, v) :: r => if b = a then r else (b, v) :: memErase r a

/-- The memory with a byte placed at an offset, in order. -/
def memPut (m : Memory) (a : Nat) (v : Byte) : Memory :=
  match m with
  | [] => [(a, v)]
  | (b, w) :: r => if a < b then (a, v) :: (b, w) :: r else if a = b then (a, v) :: r else (b, w) :: memPut r a v

/-- A byte written: listed only where it differs from what an unlisted offset reads as. -/
def memSet (m : Memory) (a : Nat) (v : Byte) : Memory := if v = memBlank then memErase m a else memPut m a v

/-- Bytes written from an offset upward; an offset past Pasture's end takes none. -/
def memWrite (m : Memory) (a : Nat) (bs : List Byte) : Memory :=
  match bs with
  | [] => m
  | v :: r => memWrite (if a < pastureSize then memSet m a v else m) (a + 1) r

/-- Several writes in order. -/
def memWrites (m : Memory) (ws : List (Nat × List Byte)) : Memory :=
  match ws with
  | [] => m
  | (a, bs) :: r => memWrites (memWrite m a bs) r

/-- `n` bytes from an offset upward. -/
def memRead (m : Memory) (a n : Nat) : List Byte := (List.range n).map (fun i => memByte m (a + i))

/-- The canonical form: offsets strictly rising, inside Pasture, and no entry equal to an unlisted byte. -/
abbrev Memory.wf (m : Memory) : Prop :=
  m.Pairwise (fun x y => x.1 < y.1) ∧ ∀ e ∈ m, e.1 < pastureSize ∧ e.2 ≠ memBlank

/-- The low `n` bytes of a number, least significant first (R11). -/
def leBytes (v n : Nat) : List Byte := (List.range n).map (fun i => BitVec.ofNat 8 (v / 256 ^ i))

/-- The low `n` bytes of a number, most significant first (R12). -/
def beBytes (v n : Nat) : List Byte := (leBytes v n).reverse

/-- The number whose bytes stand least significant first. -/
def leNat (bs : List Byte) : Nat := bs.foldr (fun b acc => b.toNat + 256 * acc) 0

/-- Bytes as what leaves. -/
def wireVals (bs : List Byte) : List Int := bs.map (fun b => (b.toNat : Int))

end Sys2Proof.Machine
end

