-- ==== Sys2Proof/Machine/Packet.lean ====
section
/-! DEFINITION. Records and Kervon packets as bytes (R11, R508). A field whose width no table gives takes the fewest whole bytes that hold its range,
and a register 4 bytes (log 143). -/

namespace Sys2Proof.Machine

/-! ### Layouts -/

/-- Fields laid out one after another, little-endian: the bytes of each and its value (R11). -/
def layBytes (l : List (Nat × Nat)) : List Byte := l.flatMap (fun e => leBytes e.2 e.1)

/-- A sample, or another number with a sign, as `n` bytes, most significant first. -/
def beInt (v : Int) (n : Nat) : List Byte := beBytes (v % (256 ^ n : Nat)).toNat n

/-- A number with a sign as `n` bytes, least significant first. -/
def leInt (v : Int) (n : Nat) : List Byte := leBytes (v % (256 ^ n : Nat)).toNat n

/-- Fields of `n` bytes each. -/
def eachBytes (n : Nat) (l : List Nat) : List Byte := l.flatMap (fun v => leBytes v n)

/-! ### Records in their command layout -/

/-- The conference record (R76). -/
def confBytes (r : ConfRec) : List Byte :=
  layBytes [(2, r.id), (2, r.mixEngine), (1, r.topK), (1, r.langCount), (1, b2n r.spans + 2 * b2n r.leaveFade + 4 * b2n r.video), (1, r.encSettings),
    (2, r.inputReserve), (2, 0), (4, r.tag), (16, 0)]

/-- The leg record (R77): addresses in network order. -/
def legBytes (r : LegRec) : List Byte :=
  layBytes [(2, r.id), (2, r.conf),
    (1, b2n r.audioIn + 2 * b2n r.audioOut + 4 * b2n r.ipv6 + 8 * b2n r.srtp + 16 * b2n r.nackReq + 32 * b2n r.ecn + 64 * b2n r.fixed + 128 * b2n r.audioFec),
    (1, r.videoOut + 4 * b2n r.contrib), (1, r.hashProfile), (1, r.ctrlDest)]
  ++ beBytes r.localAddr 16 ++ beBytes r.remoteAddr 16
  ++ layBytes [(2, r.localPort), (2, r.remotePort), (1, r.egress), (1, r.dscp), (2, r.tci), (4, r.aSsrcIn), (4, r.aSsrcOut), (4, r.vSsrcIn),
    (4, r.vSsrcOut), (1, r.aCodec), (1, r.aPt), (1, r.vCodecIn), (1, r.vPtIn), (1, r.vCodecOut), (1, r.vPtOut), (1, r.extDd), (1, r.lang),
    (2, r.saIn), (2, r.saOut), (2, r.jbMin), (2, r.jbMax), (4, r.bwMin), (4, r.bwMax), (4, r.bwStart), (2, r.arMin), (2, r.arMax), (2, r.maxW),
    (2, r.maxH), (1, r.maxFps), (1, 0), (2, r.layout), (2, r.fbInterval), (2, r.allocId), (4, r.contribMax), (16, 0)]

/-- The route record (R137). -/
def routeBytes (r : RouteRec) : List Byte :=
  layBytes [(2, r.id), (1, b2n r.output), (1, b2n r.crossfade + 2 * b2n r.gateOk), (2, r.conf), (1, r.role), (1, r.channel), (1, r.endType),
    (1, r.endUnit), (2, r.endIndex), (2, r.minus), (2, r.gain), (2, r.monitor), (2, r.engine), (12, 0)]

/-- The TDM record (R149). -/
def tdmBytes (r : TdmRec) : List Byte :=
  layBytes [(1, r.port), (1, r.slots), (1, r.width), (1, r.mode + 16 * b2n r.enable), (4, r.fsHz), (8, 0)]

/-- The contribution record (R161). -/
def contribBytes (r : ContribRec) : List Byte :=
  layBytes [(2, r.leg), (1, r.mode), (1, b2n r.relayer), (2, r.width), (2, r.height), (1, r.fps), (7, 0)]

/-- A variant block (R174). -/
def variantBytes (v : VariantRec) : List Byte :=
  layBytes [(1, v.w), (1, v.h), (1, v.fps), (1, v.cells.length)]
  ++ v.cells.flatMap (fun c => layBytes [(1, c.x), (1, c.y), (1, c.w), (1, c.h), (1, c.kind), (1, c.tier), (2, c.source)])

/-- The layout record (R173). -/
def layoutBytes (r : LayoutRec) : List Byte :=
  layBytes [(2, r.id), (2, r.conf), (1, b2n r.excludeSelf), (1, b2n r.hasS + 2 * b2n r.hasM + 4 * b2n r.hasL), (3, r.border), (1, 0),
    (2, r.videoHold), (2, r.refresh), (2, 0)]
  ++ r.variants.flatMap variantBytes

/-- SUBSCRIBE_SET's parameters (R191). -/
def subBytes (leg : Nat) (subs : List (Nat × Nat)) : List Byte :=
  layBytes [(2, leg), (1, subs.length)] ++ subs.flatMap (fun e => layBytes [(2, e.1), (1, e.2)])

/-- The trunk record (R313). -/
def trunkBytes (r : TrunkRec) : List Byte :=
  layBytes [(1, r.trunk), (1, b2n r.inbound + 2 * b2n r.outbound), (1, r.channels), (1, b2n r.degInsert + 2 * b2n r.bonded), (2, r.engine), (1, r.slice),
    (1, r.target), (2, r.portIn), (2, r.portOut), (2, r.allocId), (2, r.degThr), (1, r.degSet), (1, r.degClr), (14, 0)]

/-- An action (R384). -/
def actionBytes (a : ActionRec) : List Byte :=
  layBytes [(1, a.dest), (1, a.cls + 16 * a.colour), (2, a.target), (2, a.policer), (2, a.pushTci), (1, b2n a.pushTpid), (7, 0)]

/-- A rule (R383). -/
def ruleBytes (r : RuleRec) : List Byte := beBytes r.value.toNat 64 ++ beBytes r.mask.toNat 64 ++ actionBytes r.action

/-- ACC_CONFIG's parameters (R258). -/
def accCfgBytes (c : AccCfg) : List Byte :=
  layBytes [(1, b2n c.native), (1, c.rate)] ++ beBytes c.regId 36
  ++ layBytes [(4, c.to1), (4, c.to2), (4, c.tkey), (2, c.flapWindow), (2, c.qbase)]

/-! ### Other parameters -/

/-- TIME_CONFIG's fields, each in its register (R75, R530). -/
def timeBytes (c : TimeCfg) : List Byte :=
  eachBytes 4 [c.src + 16 * b2n c.autoRate + 32 * b2n c.todSrc, c.phaseOfs, c.holdDrift, c.todStepMax, c.todErr, 128 * c.ppsWidth + 64 * b2n c.rclkSquelch + 16 * c.rclkSel,
    c.sleepDrift, c.cascAsym0.toNat, c.cascAsym1.toNat, c.succRank * 2 ^ 24]

/-- CLI_PORT_CONFIG's fields, each in its register (R369, R370). -/
def portBytes (f : PortFields) : List Byte :=
  eachBytes 4 [b2n f.enable + 2 * b2n f.pauseRx + 8 * b2n f.svcAuto + 16 * f.svcSpeed + 64 * b2n f.svcDuplex, f.maxFrame,
    b2n f.promisc + 2 * b2n f.passAllMcast, f.pvid + 4096 * f.pcpDefault + 0x10000 * b2n f.ingPush + 0x20000 * b2n f.ingTpid + 0x40000 * b2n f.egrStrip,
    b2n f.lpiEn + 2 * f.lpiIdle + 2 ^ 11 * f.lpiRxTw + 2 ^ 21 * f.lpiTwMax]

/-- The fields of a host queue (R421). -/
def queueFieldBytes (f : QueueFields) : List Byte :=
  layBytes [(2, f.group), (1, f.slot), (4, f.quantum), (4, f.limitG), (1, f.yPct), (1, f.rPct), (1, b2n f.deep)]

/-- The context label as 48 bytes, big-endian (R481). -/
def labelBytes (l : CtxLabel) : List Byte :=
  beBytes l.purpose 2 ++ beBytes l.version 1 ++ beBytes l.outLen 1 ++ beBytes l.generation 4 ++ beBytes l.object 8
    ++ beBytes l.caller 32

/-- The bytes of a key list (R475). -/
def keylistBytes (l : KeyList) : List Byte := leBytes l.keys.length 4 ++ l.keys.flatMap (fun k => leBytes k.1 1 ++ beBytes k.2 384)

/-- The clear fields of an association's record, offsets 0 to 3 and 48 to 67 (R483, R486). -/
def saClearBytes (r : SaRecord) : List Byte :=
  layBytes [(1, r.path), (1, r.cipher), (1, r.dir), (1, r.keyLen), (8, r.pktLimit), (8, r.byteLimit), (4, r.ssci)]

/-- Bytes 3 to 223 of a generation (R493); with `zeroOk` false some bit that must be zero is not. -/
def otpFieldBytes (f : OtpFields) (zeroOk : Bool) : List Byte :=
  layBytes [(1, f.rootEpoch), (4, b2n f.jumper + 2 * b2n f.debug + 4 * b2n f.mgmt)] ++ beBytes f.keylistHash 32 ++ beBytes f.mgmtKeyHash 32
    ++ beBytes f.ownerId 16 ++ leBytes (b2n (!zeroOk)) 136

/-- `n` bytes: those given, and zeros. -/
def padTo (n : Nat) (bs : List Byte) : List Byte := (bs ++ List.replicate n 0#8).take n

/-! ### Command packets (R508) -/

/-- The parameters of a command as bytes, in the layout that its chapter's table gives. -/
def cmdBytes (c : KCmd) : List Byte :=
  match c with
  | .sysQuery => []
  | .pastureAllotSet allots => eachBytes 4 ((List.range 24).map (fun i => allots.getD i 0))
  | .pastureQuery => []
  | .timeConfig cfg => timeBytes cfg
  | .timeSet offset bound => layBytes [(16, offset.toNat), (4, bound.toNat)]
  | .timeRate rate => leBytes rate.toNat 4
  | .timeOffsetConfirm action => leBytes action 1
  | .mgmtConfig addr port idle => beBytes addr 16 ++ layBytes [(2, port), (2, idle)]
  | .mgmtSessionQuery => []
  | .mgmtSessionClose session => leBytes session 1
  | .fwStoreWrite kind slot offset _ => layBytes [(1, kind), (1, slot), (8, offset)]
  | .fwRecover kind hostAddr length _ => layBytes [(1, kind), (8, hostAddr), (4, length)]
  | .hostPktTx twoStep tag frame _ _ => layBytes [(1, b2n twoStep), (2, tag)] ++ frame
  | .hostPktConfig ring enable => layBytes [(1, ring), (1, b2n enable)]
  | .diagOmciRead slice cls inst mask => layBytes [(1, slice), (2, cls), (2, inst), (2, mask)]
  | .diagOmciList slice cls => layBytes [(1, slice), (2, cls)]
  | .confCreate rcd => confBytes rcd
  | .confModify rcd mask => confBytes rcd ++ leBytes mask 4
  | .confDestroy conf withLegs => layBytes [(2, conf), (1, b2n withLegs)]
  | .confQuery conf => leBytes conf 2
  | .legCreate rcd => legBytes rcd
  | .legModify rcd mask => legBytes rcd ++ leBytes mask 16
  | .legDestroy leg => leBytes leg 2
  | .legRekey leg saIn saOut => layBytes [(2, leg), (2, saIn), (2, saOut)]
  | .legMigrate leg target => layBytes [(2, leg), (2, target)]
  | .legQuery leg => leBytes leg 2
  | .placeSet profile first engines => layBytes [(1, profile), (2, first), (2, engines.length)] ++ eachBytes 1 engines
  | .placeQuery profile first count => layBytes [(1, profile), (2, first), (2, count)]
  | .statusTableSet offset enable => layBytes [(8, offset), (1, b2n enable)]
  | .routeSet rcd => routeBytes rcd
  | .routeClear route => leBytes route 2
  | .routeQuery route => leBytes route 2
  | .consoleSet route live listen => layBytes [(2, route), (1, live), (1, listen)]
  | .audParamWrite set block data => layBytes [(1, set), (2, block), (2, ((data.head?).map (·.1)).getD 0), (2, data.length)] ++ data.flatMap (fun e => leInt e.2 2)
  | .audParamRead set bank block first count => layBytes [(1, set), (1, bank), (2, block), (2, first), (2, count)]
  | .audCommit sets => eachBytes 1 sets
  | .portTdmConfig rcd => tdmBytes rcd
  | .portQuery kind number => layBytes [(1, kind), (1, number)]
  | .confAudioQuery conf => leBytes conf 2
  | .contribSet rcd => contribBytes rcd
  | .subscribeSet leg entries => subBytes leg entries
  | .layoutSet rcd => layoutBytes rcd
  | .layoutClear layout => leBytes layout 2
  | .layoutQuery layout => leBytes layout 2
  | .vidConfig small mid large => eachBytes 2 [small, mid, large]
  | .intraRequest kind a b => if kind = 0 then layBytes [(1, kind), (2, a), (1, b)] else layBytes [(1, kind), (2, a)]
  | .vidQuery item => leBytes item 1
  | .engineLoad offset engines _ => layBytes [(8, offset), (1, engines.length)] ++ eachBytes 1 engines
  | .engineUnload engines => leBytes engines.length 1 ++ eachBytes 1 engines
  | .groupUpdate group offset _ => layBytes [(1, group), (8, offset)]
  | .flockQuery engine => leBytes engine 1
  | .accConfig cfg => accCfgBytes cfg
  | .accEnable mask stopHeld => layBytes [(1, mask), (1, b2n stopHeld)]
  | .accDisable mask gasp => layBytes [(1, mask), (1, b2n gasp)]
  | .accQuery slice => leBytes slice 1
  | .accKillRelease slice => leBytes slice 1
  | .accBondConfig mask request => layBytes [(1, mask), (1, b2n request)]
  | .accChannelLeave slice => leBytes slice 1
  | .accBondQuery => []
  | .imcTrunkSet rcd => trunkBytes rcd
  | .imcTrunkClear trunk => leBytes trunk 1
  | .imcTrunkQuery trunk => leBytes trunk 1
  | .laneQuery lane => leBytes lane 1
  | .laneGroupConfig group mode flags => eachBytes 1 [group, mode, flags]
  | .laneRecal lane => leBytes lane 1
  | .laneSpare group lane action => eachBytes 1 [group, lane, action]
  | .cliConfig mode => leBytes mode 1
  | .cliPath port att => eachBytes 1 [port, att]
  | .cliPortConfig port f => leBytes port 1 ++ portBytes f
  | .cliAddrSet port entry addr valid => eachBytes 1 [port, entry] ++ beBytes addr 6 ++ leBytes (b2n valid) 1
  | .cliMacsecSet port validate replay enable => layBytes [(1, port), (1, validate), (4, replay), (1, b2n enable)]
  | .cliMacsecSa port dir sci an handle => layBytes [(1, port), (1, dir), (8, sci), (1, an), (2, handle)]
  | .cliPortQuery port => leBytes port 1
  | .parseRuleSet pipe index rule => layBytes [(1, pipe), (2, index)] ++ ruleBytes rule
  | .parseRuleClear pipe first count => layBytes [(1, pipe), (2, first), (2, count)]
  | .parseRuleQuery pipe index clear => layBytes [(1, pipe), (2, index), (1, b2n clear)]
  | .parsePortSet port action ooo => leBytes port 1 ++ actionBytes action ++ leBytes ooo 1
  | .parseHashProfileSet profile fields seed => layBytes [(1, profile), (2, fields), (4, seed.toNat)]
  | .parseHashTableSet profile first entries => layBytes [(1, profile), (2, first), (2, entries.length)] ++ eachBytes 2 entries
  | .parseFragConfig age => leBytes age 2
  | .parseQuery item leg => leBytes item 1 ++ (if item = 2 then leBytes leg 2 else [])
  | .tmQueueAlloc f => queueFieldBytes f
  | .tmQueueSet queue f sojAlarm => leBytes queue 2 ++ queueFieldBytes f ++ leBytes sojAlarm 4
  | .tmQueueFree queue => leBytes queue 2
  | .tmGroupSet group root band quantum create => layBytes [(2, group), (2, root), (1, band), (4, quantum), (1, b2n create)]
  | .tmShaperSet level number enable rate burst => layBytes [(1, level), (2, number), (1, b2n enable), (4, rate), (4, burst)]
  | .tmRootSet root adj => leBytes root 2 ++ leInt adj 1
  | .tmPolicerSet policer enable rate burst => layBytes [(2, policer), (1, b2n enable), (4, rate), (4, burst)]
  | .tmMeterSet meter f => layBytes [(2, meter), (1, f.mode), (1, f.yellowAct), (1, f.redAct), (4, f.cir), (4, f.cbs), (4, f.pir), (4, f.pbs)]
  | .tmMeterMapSet port cls meter => layBytes [(1, port), (1, cls), (2, meter)]
  | .tmBufConfig high deepMib _ => eachBytes 4 [high, deepMib]
  | .tmQuery item number => layBytes [(1, item), (2, number)]
  | .integQuery item => leBytes item 1
  | .integScrubSet cls rate => layBytes [(1, cls), (2, rate)]
  | .integFlip cls data check matchAddr addr => layBytes [(1, cls), (8, data.toNat), (1, check), (1, matchAddr), (8, addr.toNat)]
  | .integDigestConfig mask => leBytes mask 4
  | .integDigestDump block offset => layBytes [(1, block), (8, offset)]
  | .integRemap stack offset thr => layBytes [(1, stack), (8, offset), (1, thr)]
  | .trustQuery clear => leBytes (b2n clear) 1
  | .trustIdentity => []
  | .trustAttest nonce => leBytes nonce 32
  | .trustImportKey => []
  | .trustBootSeal => []
  | .trustKeylistLoad list => keylistBytes list
  | .trustFwVerify offset _ => leBytes offset 8
  | .trustSessionOpen cipher _ => padTo 384 cipher
  | .trustSessionClose session => leBytes session 1
  | .trustBaseImport session wrapped _ => leBytes session 1 ++ wrapped
  | .trustBaseDestroy base => leBytes base 1
  | .saCreate src => (match src with
    | .imported session wrapped _ => [0#8] ++ leBytes session 1 ++ padTo 88 wrapped
    | .derived base label rcd => [1#8] ++ leBytes base 1 ++ labelBytes label ++ saClearBytes rcd)
  | .saDestroy handle => leBytes handle 2
  | .saQuery handle => leBytes handle 2
  | .trustRollbackCommit program => leBytes program 4
  | .trustOtpCommit fields zeroOk => otpFieldBytes fields zeroOk
  | .trustRootRotate => []
  | .trustDebugUnlock => []
  | .trustFactoryReset => []
  | .trustPresenceClose => []
  | .cascConfig domain device ports base gen => layBytes [(2, domain), (1, device), (1, ports), (1, base), (4, gen)]
  | .cascQuery => []
  | .cascConfBind tag home => layBytes [(4, tag), (1, home)]
  | .cascTwinSet twin => leBytes twin 1
  | .cascTakeover => []
  | .cascSaPair handle other => eachBytes 2 [handle, other]
  | .ctrlFwSwap slot _ => leBytes slot 1
  | .pwrSeason season => leBytes season 1
  | .pwrWinter banks keep thaw linkWait => layBytes [(4, banks), (1, keep), (1, thaw), (2, linkWait)]
  | .pwrDomainSet domain on => eachBytes 1 [domain, on]
  | .pwrAlarmSet value enable => layBytes [(6, value), (1, enable)]
  | .pwrAutumnConfig minGroups high low flags => eachBytes 1 [minGroups, high, low, flags]
  | .pwrQuery => []
  | .undefinedOpcode _ => []

/-- The parameter bytes of a packet: as many as LENGTH says. -/
def packetParams (h : CmdHdr) (c : KCmd) : List Byte := (cmdBytes c ++ h.extra).take h.length

/-- Bytes 0 to 11 of a packet (R508). -/
def packetHead (h : CmdHdr) (c : KCmd) : List Byte :=
  layBytes [(2, kOpcode c), (2, h.seq.toNat), (2, h.length), (1, h.flags.toNat), (1, h.owner.toNat), (4, h.expEpoch.toNat)]

/-- The CRC-32C over a header's first 12 bytes, four zero bytes and what follows the header (R508, R509). -/
def checkOf (head body : List Byte) : Word := crc32c (head ++ List.replicate 4 0#8 ++ body)

/-- Whether CHECK is right (R508). -/
def checkHolds (h : CmdHdr) (c : KCmd) : Bool := h.check == checkOf (packetHead h c) (packetParams h c)

/-- Whether LENGTH is what the opcode's parameters take (R514). -/
def lengthFits (h : CmdHdr) (c : KCmd) : Bool := h.length == (cmdBytes c).length

/-- A whole packet as bytes (R508). -/
def packetBytes (p : KPacket) : List Byte := packetHead p.hdr p.cmd ++ leBytes p.hdr.check.toNat 4 ++ packetParams p.hdr p.cmd

/-! ### Reply data (R509) -/

/-- The widths of the values of a reply to an opcode, each with the zero bytes that follow it: those of the first values, and those of all the rest. -/
def replyShape (op : Nat) : List (Nat × Nat) × (Nat × Nat) :=
  let w (l : List Nat) : List (Nat × Nat) := l.map (fun n => (n, 0))
  match op with
  | 0x0100 => (w [4, 1, 4, 4], (1, 0))
  | 0x0153 => (w [4, 2, 3], (4, 0))
  | 0x0166 => (w [4, 4, 4], (8, 0))
  | 0x0180 => ([], (2, 0))
  | 0x0183 => ([], (2, 0))
  | 0x0203 => (w [1, 2], (4, 0))
  | 0x0206 => (w [1, 1, 3, 3], (4, 0))
  | 0x0303 => ([(2, 0), (2, 0), (1, 0), (1, 0), (1, 0), (1, 0), (2, 2), (4, 16), (2, 0), (2, 0), (1, 0)], (1, 0))
  | 0x0310 => ([], (1, 0))
  | 0x0314 => ([], (1, 0))
  | 0x0315 => (w ([4, 2, 1, 1, 8, 2, 2, 4, 4, 4, 2, 2, 2, 2, 2, 1, 1, 2, 2] ++ List.replicate 8 1), (8, 0))
  | 0x0400 => ([], (1, 0))
  | 0x0402 => (w [2, 1, 1, 2, 1, 1, 1, 1, 2, 2, 2, 2] ++ [(2, 12)], (1, 0))
  | 0x0421 => ([], (2, 0))
  | 0x0422 => ([], (1, 0))
  | 0x0432 => ([], (1, 0))
  | 0x0440 => ([], (1, 0))
  | 0x0442 => (w [1, 1, 1, 1, 2, 1, 1, 2, 2, 2, 2, 1] ++ [(1, 14)], (4, 0))
  | 0x0502 => ([], (1, 0))
  | 0x0510 => ([], (1, 0))
  | 0x0600 => (w (List.replicate 71 4), (16, 0))
  | 0x0601 => (w [384, 8], (1, 0))
  | 0x0602 => ([], (1, 0))
  | 0x0603 => ([], (384, 0))
  | 0x0606 => ([], (1, 0))
  | 0x0610 => ([], (1, 0))
  | 0x0612 => ([], (1, 0))
  | 0x0620 => ([], (2, 0))
  | 0x0622 => (w [1], (8, 0))
  | 0x0630 => ([], (1, 0))
  | 0x0705 => (w (List.replicate 25 4), (1, 0))
  | 0x0801 => ([], (2, 0))
  | 0x0172 => ([], (1, 0))
  | 0x0177 => ([], (1, 0))
  | 0x0121 => ([], (1, 0))
  | 0x0321 => ([], (1, 0))
  | 0x0830 => ([], (1, 0))
  | 0x0190 => (w [1, 2], (1, 0))
  | _ => ([], (4, 0))

/-- Values laid out by their widths. -/
def shaped (shape : List (Nat × Nat)) (rest : Nat × Nat) (l : List Nat) : List Byte :=
  match l, shape with
  | [], _ => []
  | v :: l, [] => leBytes v rest.1 ++ List.replicate rest.2 0#8 ++ shaped [] rest l
  | v :: l, p :: shape => leBytes v p.1 ++ List.replicate p.2 0#8 ++ shaped shape rest l

/-- Bytes as the values of a reply whose values are single bytes. -/
def byteData (bs : List Byte) : List Nat := bs.map (fun b => b.toNat)

end Sys2Proof.Machine
end

