-- ==== Sys2Proof/Machine/StateSys.lean ====
section
/-! DEFINITION. The state of the command system: replies, rings, sessions, epochs, staged changes and the interrupt
tree (chapters 01 and 17). -/

namespace Sys2Proof.Machine

/-- The status of a reply (R513). -/
inductive Status where
  | done | deferred | accepted | badOpcode | badLength | badParam | badCheck | notOwner | needsPresence | sealed
  | staleEpoch | busy | noResource | dark | internal
deriving DecidableEq, Repr

/-- A reply as the device writes it (R509): opcode with bit 15 apart, SEQUENCE, STATUS, EPOCH and the reply data,
one number for each value the chapter names, in its order. -/
structure Reply where
  opcode : Nat
  bit15 : Bool
  seq : BitVec 16
  status : Status
  epoch : Word
  data : List Nat
deriving DecidableEq, Repr

/-- Where the reply to a command goes: its transport (none once the session has closed, R527), opcode, SEQUENCE,
whether RESPONSE_WANTED was set, and the epoch its change carries. -/
structure ReplyCtx where
  tr : Option Transport
  op : Nat
  seq : BitVec 16
  wanted : Bool
  epoch : Word
deriving DecidableEq, Repr

/-- A ring pair (R521 to R523, R535): registers, the packets in its submission slots and the replies in its completion
slots by slot number, the follow-ups that wait for a free slot, and the write-back word. -/
structure Ring where
  en : Bool
  stopped : Bool
  err : Nat
  sqBase : BitVec 64
  cqBase : BitVec 64
  wb : BitVec 64
  sqTail : Nat
  sqHead : Nat
  cqTail : Nat
  cqHead : Nat
  slots : Tbl KPacket
  cq : Tbl (List Byte)
  waiting : List Reply
  wbHead : Nat
  wbTail : Nat
  hostPkt : Bool
deriving DecidableEq, Repr

/-- The state of a service-port session (R526). -/
inductive SessState where
  | free | challenged | opened
deriving DecidableEq, Repr

/-- A service-port session (R524 to R527). -/
structure Sess where
  st : SessState
  role : Nat
  addr : Nat
  port : Nat
  rxCtr : BitVec 64
  txCtr : BitVec 64
  nonce : Nat
  lastCmd : Option KPacket
  lastReply : Option Reply
  queue : List KPacket
deriving DecidableEq, Repr

/-- A change to a unit that the control cores have staged for a bell (R14): a Kervon command or a change of their own. -/
inductive Change where
  /-- An accepted command, with the engine or number the control cores chose for it. -/
  | kervon (c : KCmd) (pick : Nat)
  /-- OFFSET set from the head end's time of day (R60). -/
  | headEndOffset (v : BitVec 128)
deriving DecidableEq, Repr

/-- A staged change: `accepted` once ACCEPTED has been answered and the follow-up is a job's; armed once the cut-off has copied it into the units (R15); `waitDomain` names a power domain that
must be ON first (R563). -/
structure Staged where
  change : Change
  ctx : ReplyCtx
  data : List Nat
  accepted : Bool
  armed : Bool
  waitDomain : Option Nat
deriving DecidableEq, Repr

/-- What leaves the device on a line, a bus or a pin while one command acts; the state keeps those of the last command. -/
inductive OutKind where
  | bellMarker | keepalive | hello | topo | twinBeat | takeover | laneCopy | digestFrame | cascData | cascMedia
  | rtpOut | rtcpOut | stunOut | dtlsOut | srtpOut | mailbox | ploamUp | burst | bondMsg | omciReply | imcFrame
  | ethernet | lldp | pause | mka | jam | droveWrite | msix | datagram | tdmOut | headsetOut | engineEvent | delayExchange
  | hostPacket | avs | pme | bufferReport | hostRead | wakePin | noStamp | correction | tierPicture | picture | fallback | fragment
deriving DecidableEq, Repr

/-- One thing sent: its kind, the port, slice or line, and its values. -/
structure Out where
  kind : OutKind
  chan : Nat
  vals : List Int
deriving DecidableEq, Repr

/-- The interrupt tree (R532 to R535). -/
structure IntState where
  leaf : Tbl Word
  leafMask : Tbl Word
  groupMask : Tbl (BitVec 8)
  topMask : Word
  msixEn : Bool
  msixCfgEn : Bool
  msixMasked : Bool
  msixPending : Bool
  pin : Bool
deriving DecidableEq, Repr

/-- The SYS block, the rings, the sessions and the control cores' list of staged changes; `atBell` holds DONE replies
that are due after the next bell. -/
structure SysState where
  epochStaged : Word
  outstanding : List Word
  bar2Win : Nat
  writeDropAddr : Nat
  darkAddr : Nat
  darkWrite : Bool
  sessionDrop : Word
  hostPktDrop : Word
  rings : Tbl Ring
  sess : Tbl Sess
  mgmtAddr : Nat
  mgmtPort : Nat
  mgmtIdle : Nat
  turn : Nat
  staged : List Staged
  atBell : List (ReplyCtx × List Nat)
  int : IntState
deriving DecidableEq, Repr

/-- A ring pair at reset (R535). -/
def Ring.reset : Ring :=
  { en := false, stopped := false, err := 0, sqBase := 0, cqBase := 0, wb := 0, sqTail := 0, sqHead := 0, cqTail := 0,
    cqHead := 0, slots := [], cq := [], waiting := [], wbHead := 0, wbTail := 0, hostPkt := false }

/-- A session that nothing has opened. -/
def Sess.reset : Sess :=
  { st := .free, role := 0, addr := 0, port := 0, rxCtr := 0, txCtr := 0, nonce := 0, lastCmd := none, lastReply := none,
    queue := [] }

/-- The interrupt tree at reset: every mask all ones, no leaf set (R535). -/
def IntState.reset : IntState :=
  { leaf := [], leafMask := [], groupMask := [], topMask := Word.top, msixEn := false, msixCfgEn := false,
    msixMasked := false, msixPending := false, pin := false }

/-- The SYS block at reset (R524, R527, R535). -/
def SysState.reset : SysState :=
  { epochStaged := 0, outstanding := [], bar2Win := 0, writeDropAddr := 0, darkAddr := 0, darkWrite := false,
    sessionDrop := 0, hostPktDrop := 0, rings := [], sess := [], mgmtAddr := 0, mgmtPort := 7240, mgmtIdle := 60,
    turn := 0, staged := [], atBell := [], int := IntState.reset }

end Sys2Proof.Machine
end

