-- ==== Sys2Proof/Machine/StateNet.lean ====
section
/-! DEFINITION. The state of the packet side: PARSE (chapter 12), TM (chapter 13) and CLI (chapter 11). -/

namespace Sys2Proof.Machine

/-- A token bucket: on or off, rate in kb/s, burst in bytes, tokens in units of 1/8,000,000 byte (a kb/s in a ns), and the instant in ns up
to which they have accrued (R407). -/
structure Bucket where
  en : Bool
  rate : Nat
  burst : Nat
  tokens : Int
  at_ : Nat
deriving DecidableEq, Repr

/-- What created a queue (R403). -/
inductive QOwner where
  | device | legAudio (leg : Nat) | legVideo (leg : Nat) | trunk (t : Nat) | cut (p : Nat) | host
deriving DecidableEq, Repr

/-- Where a waiting packet's bytes lie (R415). -/
inductive PktPlace where
  | onDie | staging | deep
deriving DecidableEq, Repr

/-- A packet that waits in a queue: its length under R346, the tag to push (TCI and whether the TPID is 0x88A8), the two-step
tag asked for it and its ingress time-stamp, the instant it was admitted, its place, the bytes
before its FCS where the model has them, and whether MACsec is bypassed (R361). -/
structure TmPkt where
  len : Nat
  push : Nat
  tpid : Bool
  twoStep : Option Nat
  stamp : Nat
  admitted : Nat
  place : PktPlace
  bytes : List Byte
  clear : Bool
deriving DecidableEq, Repr

/-- A queue (R402, R424). `freeAt` is the tick at which a queue being freed drops its remainder (R420). -/
structure TmQueue where
  group : Nat
  slot : Nat
  quantum : Nat
  limitG : Nat
  yPct : Nat
  rPct : Nat
  deep : Bool
  owner : QOwner
  shaper : Bucket
  sojAlarm : Nat
  pkts : List TmPkt
  hwmDepth : Nat
  hwmSoj : Nat
  deficit : Nat
  txPkts : Word
  drop : Word
  freeAt : Option (BitVec 64)
deriving DecidableEq, Repr

/-- What a group node is for (R403). -/
inductive GKind where
  | device | media | site | host
deriving DecidableEq, Repr

/-- A group node (R402, R425): `cur` is the member its round-robin stands at, by queue number. -/
structure TmGroup where
  root : Nat
  band : Nat
  quantum : Nat
  kind : GKind
  shaper : Bucket
  deficit : Nat
  cur : Option Nat
deriving DecidableEq, Repr

/-- A root node (R401, R425): `cur` is, for a band, the group its round-robin stands at. -/
structure TmRoot where
  adj : Int
  shaper : Bucket
  cur : Tbl Nat
deriving DecidableEq, Repr

/-- A per-flow policer (R411, R426). -/
structure Policer where
  bucket : Bucket
  drop : Word
deriving DecidableEq, Repr

/-- A class-aggregate meter (R412, R413, R426). -/
structure Meter where
  mode : Nat
  yellowAct : Nat
  redAct : Nat
  c : Bucket
  p : Bucket
  green : Word
  yellow : Word
  red : Word
  drop : Word
deriving DecidableEq, Repr

/-- The traffic manager. -/
structure TmState where
  queues : Tbl TmQueue
  groups : Tbl TmGroup
  roots : Tbl TmRoot
  policers : Tbl Policer
  meters : Tbl Meter
  meterMap : Tbl Nat
  bufHigh : Nat
  deepArea : Nat
  bufFullDrop : Word
  deepStallDrop : Word
  dropMap : List Nat
  sojMap : List Nat
deriving DecidableEq, Repr

/-- An exact-match entry (R382): the leg's remote and local address and port, and its pinned engine or hash profile. -/
structure ExactEnt where
  pipe : Nat
  rIp : Nat
  rPort : Nat
  lIp : Nat
  lPort : Nat
  pinned : Option Nat
  profile : Nat
deriving DecidableEq, Repr

/-- A rule with its 40-bit hit count (R383). -/
structure RuleEnt where
  rule : RuleRec
  hits : BitVec 40
deriving DecidableEq, Repr

/-- Where a classified packet goes, resolved (R384, R390). -/
inductive DestRes where
  | queue (q : Nat)
  | engine (e : Nat)
  | control
  | drop
  | cut (p : Nat)
deriving DecidableEq, Repr

/-- A classification in full (R390). -/
structure Decision where
  dest : DestRes
  cls : Nat
  colour : Nat
  policer : Nat
  push : Nat
  tpid : Bool
  leg : Option Nat
deriving DecidableEq, Repr

/-- The key of a fragment entry (R390). -/
structure FragKey where
  v6 : Bool
  src : Nat
  dst : Nat
  ident : Nat
  proto : Nat
deriving DecidableEq, Repr

/-- A fragment entry (R390, R393). -/
structure FragEnt where
  pipe : Nat
  key : FragKey
  dec : Decision
  last : BitVec 64
deriving DecidableEq, Repr

/-- A GEM binding (R374). -/
inductive GemBind where
  | omcc
  | trunk (t : Nat)
deriving DecidableEq, Repr

/-- The counters and controls of a pipeline (R397, R399). -/
structure PipeRegs where
  vxlanPort : Nat
  legClass : Nat
  pkts : Word
  bound : Word
  exactHit : Word
  ruleHit : Word
  dflt : Word
  fragFull : Word
  fragAged : Word
  fragHwm : Nat
deriving DecidableEq, Repr

/-- The registers of a PARSE port (R398). -/
structure ParsePort where
  action : ActionRec
  ooo : Nat
  noMatch : Word
  parseFail : Word
  tooDeep : Word
  lenContra : Word
  fragOoo : Word
  failOff : Nat
  failCase : Nat
  failHdr : Nat
deriving DecidableEq, Repr

/-- PARSE: exact-match entries by LEG_ID, rules by 4,096 × pipeline + index, indirection entries by
512 × table + index. -/
structure ParseState where
  pipes : Tbl PipeRegs
  ports : Tbl ParsePort
  exact : Tbl ExactEnt
  rules : Tbl RuleEnt
  frags : List FragEnt
  age : Nat
  hashFields : Tbl Nat
  hashSeed : Tbl Word
  indir : Tbl Nat
  gem : Tbl GemBind
deriving DecidableEq, Repr

/-- A MACsec association installed on a port (R361 to R363). -/
structure MacSa where
  outbound : Bool
  sci : Nat
  an : Nat
  handle : Nat
  nextPn : Nat
deriving DecidableEq, Repr

/-- The half-duplex transmit state of the service port (R356): collisions of the frame in hand and slots of back-off. -/
structure CsmaState where
  frame : Option TmPkt
  collisions : Nat
  backoff : Nat
  waiting : Bool
  deferred : Bool
deriving DecidableEq, Repr

/-- A client port or the service port (R370): fields of its registers, counters by number, what counted past half
range, the high word a read of CNT_LO latched, the PAUSE in force, the LLDP partner's Tw, and link. -/
structure CliPort where
  f : PortFields
  path : Nat
  link : Bool
  speed : Nat
  duplex : Bool
  lpiTx : Bool
  twTx : Nat
  lpiRefused : Bool
  partnerTw : Option Nat
  macEn : Bool
  validate : Nat
  replay : Nat
  macWarn : Bool
  macRetired : Bool
  txAn : Nat
  macSas : List MacSa
  addrs : Tbl Nat
  cnt : Tbl (BitVec 40)
  snap : Tbl (BitVec 40)
  half : List Nat
  hiLatch : Nat
  paused : Bool
  csma : CsmaState
deriving DecidableEq, Repr

/-- The CLI block: MODE and the ports. -/
structure CliState where
  mode : Nat
  ports : Tbl CliPort
deriving DecidableEq, Repr

/-- A bucket that is off. -/
def Bucket.off : Bucket := { en := false, rate := 0, burst := 0, tokens := 0, at_ := 0 }

/-- TM at reset (R415, R423). -/
def TmState.reset : TmState :=
  { queues := [], groups := [], roots := [], policers := [], meters := [], meterMap := [], bufHigh := 229376, deepArea := 4096,
    bufFullDrop := 0, deepStallDrop := 0, dropMap := [], sojMap := [] }

/-- A pipeline's registers at reset (R397, R399). -/
def PipeRegs.reset : PipeRegs :=
  { vxlanPort := 4789, legClass := 12, pkts := 0, bound := 0, exactHit := 0, ruleHit := 0, dflt := 0, fragFull := 0,
    fragAged := 0, fragHwm := 0 }

/-- A port's default action at reset: DROP (R398). -/
def ActionRec.drop : ActionRec :=
  { dest := 4, cls := 0, colour := 0, target := 0, policer := 0xFFFF, pushTci := 0, pushTpid := false, reservedOk := true }

/-- A PARSE port at reset (R398). -/
def ParsePort.reset : ParsePort :=
  { action := ActionRec.drop, ooo := 0, noMatch := 0, parseFail := 0, tooDeep := 0, lenContra := 0, fragOoo := 0,
    failOff := 0, failCase := 0, failHdr := 0 }

/-- PARSE at reset (R397 to R399). -/
def ParseState.reset : ParseState :=
  { pipes := [], ports := [], exact := [], rules := [], frags := [], age := 240, hashFields := [], hashSeed := [],
    indir := [], gem := [] }

/-- The command-managed fields of a port at reset (R370). -/
def PortFields.reset : PortFields :=
  { enable := false, pauseRx := false, svcAuto := true, svcSpeed := 2, svcDuplex := true, maxFrame := 1522,
    promisc := false, passAllMcast := false, pvid := 1, pcpDefault := 0, ingPush := false, ingTpid := false,
    egrStrip := false, lpiEn := false, lpiIdle := 10, lpiRxTw := 0, lpiTwMax := 1000 }

/-- No half-duplex attempt in hand. -/
def CsmaState.idle : CsmaState := { frame := none, collisions := 0, backoff := 0, waiting := false, deferred := false }

/-- A port at reset (R370). -/
def CliPort.reset : CliPort :=
  { f := PortFields.reset, path := 0, link := false, speed := 0, duplex := false, lpiTx := false, twTx := 0,
    lpiRefused := false, partnerTw := none, macEn := false, validate := 2, replay := 0, macWarn := false,
    macRetired := false, txAn := 0, macSas := [], addrs := [], cnt := [], snap := [], half := [], hiLatch := 0,
    paused := false, csma := CsmaState.idle }

/-- CLI at reset: MODE 0 (R371). -/
def CliState.reset : CliState := { mode := 0, ports := [] }

end Sys2Proof.Machine
end

