-- ==== Sys2Proof/Machine/StateAcc.lean ====
section
/-! DEFINITION. The state of the access link: slices, the bond and upstream bursts (chapters 07 and 08). -/

namespace Sys2Proof.Machine

/-- The activation state of a slice (R238). -/
inductive AccSt where
  | disabled | o11 | o12 | o23 | o4 | o5 | o6 | o7 | killed | quarantine
deriving DecidableEq, Repr

/-- An upstream PLOAM message (R231), with the sequence number it answers. -/
inductive PloamUp where
  | serialNumber (delay : Nat)
  | registration (seq : Nat)
  | keyReport (index : Nat)
  | ackOk (seq : Nat)
  | ackParam (seq : Nat)
  | ackUnknown (seq : Nat)
  | sleepRequest
  | dyingGasp
deriving DecidableEq, Repr

/-- A data key (R245 to R247): its use counted in frames and bytes. -/
structure GemKey where
  key : Nat
  frames : Nat
  bytes : Nat
  retired : Bool
deriving DecidableEq, Repr

/-- The keys of a slice (R244 to R248): by direction × 2 + index (0, 1 down; 2, 3 up) and 4, 5 for the group keys; the
indices in use; a pending key with its index, reports sent and the tick of the last. -/
structure KeyState where
  keys : Tbl GemKey
  dsIndex : Nat
  usIndex : Nat
  pend : Option (Nat × Nat)
  waitRng : Option Nat
  tries : Nat
  sentAt : BitVec 64
  stall : Bool
  auth : Bool
deriving DecidableEq, Repr

/-- A reassembly in progress on a GEM port (R243): the bytes so far and the frame of its first fragment. -/
structure Reasm where
  data : List Byte
  frame : Nat
deriving DecidableEq, Repr

/-- An entry of the allocation map (R283, R294). -/
structure AllocEnt where
  id : Nat
  bonded : Bool
  node : Nat
deriving DecidableEq, Repr

/-- A control message of the slice that waits for its default allocation (R250, R273): its kind, length in bytes and values. -/
structure CtlMsg where
  kind : OutKind
  len : Nat
  vals : List Nat
deriving DecidableEq, Repr

/-- What a committed burst carries for one grant (R286): the lengths of its GEM payloads, idle bytes apart, the sequence numbers and
bonding headers of bonded fragments, the PLOAM message, control messages, and the occupancy reported. -/
structure BurstPart where
  alloc : Nat
  sizes : List Nat
  seqs : List Nat
  heads : List (List Byte)
  ploam : Option PloamUp
  ctl : List CtlMsg
  occ : Option Nat
  timed : List TmPkt
deriving DecidableEq, Repr

/-- A burst (R285): contiguous grants, with the equalisation delay in force when they arrived and the time-stamp of the frame that carried them (R242); committed with its parts once its
commit point has passed. -/
structure Burst where
  eqd : Nat
  frameAt : Nat
  grants : List Grant
  parts : Option (List BurstPart)
deriving DecidableEq, Repr

/-- The channel's part in the bond (R294). -/
inductive ChSt where
  | out | joining | active
deriving DecidableEq, Repr

/-- A PLOAM message as it waits in a slice's receive queue, by its row (R251, R574). -/
inductive PloamMsg where
  | burstProfile (index guard : Nat) (fieldsOk rateOk : Bool)
  | assignOnuId (mine : Bool) (onu : Nat)
  | rangingTime (relative : Bool) (value : Int)
  | deactivate
  | disableSerial (named enable : Bool)
  | requestRegistration
  | assignAllocId (alloc : Nat) (assign : Bool)
  | keyControl (generate : Bool) (index : Nat)
  | sleepAllow (allow : Bool)
  | unknownType
deriving DecidableEq, Repr

/-- A slice of the access link. `rxq` holds the PLOAM messages that wait while the control-core firmware is replaced (R574). Counters go by their order in R259 from offset 0x0040, and in R294 from 0x0090 (16 to 19). `eqdWas` is the
equalisation delay before a Ranging_Time of the frame in hand, `profWas` the profiles at that frame's start (R251) and `frameAt` its time-stamp (R236); `chanOk` says that CHAN names this channel (R266); `asleep` that the slice
sleeps in Winter (R249). -/
structure Slice where
  st : AccSt
  stopHeld : Bool
  sync : Bool
  foundRun : Nat
  badRun : Nat
  los : Bool
  sleepAllowed : Bool
  onu : Nat
  eqd : Nat
  eqdWas : Option Nat
  profiles : Tbl Nat
  profWas : Tbl Nat
  to1At : BitVec 64
  to2At : BitVec 64
  flaps : List (BitVec 64)
  quars : List (BitVec 64)
  quarFor : Nat
  keys : KeyState
  lastSeq : Option Nat
  lastResp : Option PloamUp
  upq : List PloamUp
  rxq : List (PloamHdr × PloamMsg)
  ben : Bool
  txkill : Bool
  wdKilled : Bool
  wdCause : Nat
  wdTick : Word
  burstMax : Nat
  dropAlloc : Nat
  dropReason : Nat
  cnt : Tbl Word
  gem : List Nat
  reasm : Tbl Reasm
  mib : Tbl (Tbl Nat)
  mibSync : Nat
  allocs : Tbl AllocEnt
  occ : Tbl Nat
  bursts : List Burst
  gasp : Option (BitVec 64)
  ch : ChSt
  usSuspend : Bool
  leaveCause : Nat
  skew : Int
  frame : Nat
  frameAt : Nat
  joinFrame : Nat
  joinLatch : Nat
  leaveFrame : Option Nat
  chanOk : Bool
  ctl : List CtlMsg
  asleep : Bool
  lead : Nat
  trail : Nat
  fs : List Byte
deriving DecidableEq, Repr

/-- The bond (R268 to R278, R295). -/
inductive BondSt where
  | unbonded | forming | bonded
deriving DecidableEq, Repr

/-- A fragment in the reorder window (R270, R271): when it came and its deadline, in ns. -/
structure HeldFrag where
  seq : Nat
  came : Nat
  deadline : Nat
  frag : FragIn
deriving DecidableEq, Repr

/-- An upstream bond message that still wants an answer (R278): 0x81 or 0x83, its channel, content, sends so far and the tick of the next. -/
structure BondOut where
  type : Nat
  chan : Nat
  slice : Nat
  status : Nat
  cause : Nat
  seq : Nat
  sends : Nat
  nextAt : BitVec 64
deriving DecidableEq, Repr

/-- The bond's state. `sduSkip` says that fragments without SOF are dropped (R272). `acks` holds, for a channel, the MSG_SEQ last acted on and the values of its BOND_ACK. -/
structure BondState where
  st : BondSt
  id : Nat
  epoch : Nat
  dsPort : Nat
  usPort : Nat
  e : Nat
  held : List HeldFrag
  sdu : Option (Nat × List Byte)
  sduSkip : Bool
  usNext : Nat
  mask : Nat
  request : Bool
  ids : Tbl Nat
  acks : Tbl (Nat × List Nat)
  outs : List BondOut
  mySeq : Tbl Nat
  cnt : Tbl Word
  lastType : Nat
  lastCode : Nat
  lastChan : Nat
deriving DecidableEq, Repr

/-- An ACC_DISABLE that waits for its slices to reach DISABLED (R258). -/
structure DisableJob where
  mask : Nat
  ctx : ReplyCtx
deriving DecidableEq, Repr

/-- ACC: what ACC_CONFIG sets, the slices, the bond, ACC_DISABLEs in progress, and by bonded node the bytes of an SDU that the shim has
taken and not yet sent (R286). -/
structure AccState where
  cfg : AccCfg
  slices : Tbl Slice
  bond : BondState
  jobs : List DisableJob
  carry : Tbl Nat
deriving DecidableEq, Repr

/-- No keys. -/
def KeyState.none : KeyState :=
  { keys := [], dsIndex := 0, usIndex := 0, pend := Option.none, waitRng := Option.none, tries := 0, sentAt := 0, stall := false,
    auth := false }

/-- A slice at reset (R235, R259, R294; log 1 for what has no reset value). -/
def Slice.reset : Slice :=
  { st := .disabled, stopHeld := false, sync := false, foundRun := 0, badRun := 0, los := false, sleepAllowed := false,
    onu := 0x3FF, eqd := 0, eqdWas := none, profiles := [], profWas := [], to1At := 0, to2At := 0, flaps := [], quars := [], quarFor := 0,
    keys := KeyState.none, lastSeq := none, lastResp := none, upq := [], rxq := [], ben := false, txkill := true, wdKilled := false,
    wdCause := 0, wdTick := 0, burstMax := 125000, dropAlloc := 0, dropReason := 0, cnt := [], gem := [], reasm := [], mib := [],
    mibSync := 0, allocs := [], occ := [], bursts := [], gasp := none, ch := .out, usSuspend := false, leaveCause := 0,
    skew := 0, frame := 0, frameAt := 0, joinFrame := 0, joinLatch := 0, leaveFrame := none, chanOk := true, ctl := [], asleep := false, lead := 64, trail := 32, fs := [] }

/-- The bond at reset (R295). -/
def BondState.reset : BondState :=
  { st := .unbonded, id := 0, epoch := 0, dsPort := 0, usPort := 0, e := 0, held := [], sdu := none, sduSkip := false, usNext := 0, mask := 0,
    request := false, ids := [], acks := [], outs := [], mySeq := [], cnt := [], lastType := 0, lastCode := 0, lastChan := 0 }

/-- ACC_CONFIG's fields at reset (R234, R240, R259). -/
def AccCfg.reset : AccCfg :=
  { native := false, rate := 2, regId := 0, to1 := 10000, to2 := 100, tkey := 5000, flapWindow := 60, qbase := 10 }

/-- ACC at reset. -/
def AccState.reset : AccState := { cfg := AccCfg.reset, slices := [], bond := BondState.reset, jobs := [], carry := [] }

end Sys2Proof.Machine
end

