-- ==== Sys2Proof/Machine/StateBell.lean ====
section
/-! DEFINITION. The state of the bell, device time and Pasture arbitration (chapters 01 and 02). -/

namespace Sys2Proof.Machine

/-- The bell's lock state (R43). -/
inductive LockSt where
  | free | acquire | locked | holdover
deriving DecidableEq, Repr

/-- The bell's lock machine (R40 to R43, R72, R73). Phase error and slew are in units of 2⁻¹⁶ ns, frequency
estimates in units of 2⁻⁴⁴: the one in force, those of the last 1,024 ticks of LOCKED, and their average. -/
structure LockState where
  src : Nat
  autoRate : Bool
  todSrc : Bool
  st : LockSt
  validRun : Nat
  missRun : Nat
  inRun : Nat
  wasLocked : Bool
  srcChanged : Bool
  refSlice : Nat
  thawed : Bool
  phaseErr : Int
  slew : Int
  freqNow : Int
  freqHist : List Int
  freqAvg : Option Int
  phaseOfs : Nat
deriving DecidableEq, Repr

/-- The counter and its correction (R47 to R51) and the last snapshot (R52). -/
structure TimeState where
  c : BitVec 96
  cycPhase : Nat
  acc : BitVec 128
  anchor : BitVec 96
  offset : BitVec 128
  rate : BitVec 32
  rawSnap : BitVec 96
  secSnap : BitVec 64
  nsSnap : Nat
  fracSnap : Nat
  timeValid : Bool
deriving DecidableEq, Repr

/-- What last set the time, for the bound of R65. -/
inductive TimeSrc where
  | none | command | headEnd
deriving DecidableEq, Repr

/-- RCLK_OUT: held low, or running at a frequency of so many Hz from the recovered reference or from the holdover estimate (R64). -/
inductive RclkOut where
  | low
  | recovered (hz : Nat)
  | estimate (hz : Nat)
deriving DecidableEq, Repr

/-- The time error bound, the head end's time of day (its last message: slice, sending time,
refractive-index correction, captured time-stamp less OFFSET) and the 1PPS and recovered clock controls (R60 to R65, R75). -/
structure ErrState where
  timeErr : Word
  setBy : TimeSrc
  setBound : Word
  holdErr : Nat
  holdTicks : Nat
  holdDrift : Nat
  todStepMax : Nat
  todErr : Nat
  todPend : Option (BitVec 128)
  todLast : Option (Nat × Nat × Nat × Nat)
  ppsWidth : Nat
  rclkSquelch : Bool
  rclkSel : Nat
  ppsOut : Bool
  rclkOut : RclkOut
deriving DecidableEq, Repr

/-- The overrun record (R45). -/
structure OvrState where
  any : Bool
  sticky : Bool
  tick : BitVec 64
  map : List Nat
deriving DecidableEq, Repr

/-- An entry of a time-stamp capture queue (R57, R59). -/
structure TsEntry where
  port : Nat
  tag : Nat
  sec : BitVec 64
  ns : Nat
  frac : Nat
deriving DecidableEq, Repr

/-- The sleep counter and its calibration (R66, R75), T − OFFSET at the start of the interval that is being measured, and the time records that Winter keeps in AON retention (R67). -/
structure SleepState where
  cnt : BitVec 48
  cntHiLatch : Nat
  cal : Nat
  calValid : Bool
  drift : Nat
  calStart : Option (BitVec 128)
  sEntry : BitVec 48
  keptC : BitVec 96
  keptAcc : BitVec 128
  keptAnchor : BitVec 96
  keptOffset : BitVec 128
  keptRate : BitVec 32
  keptErr : Nat
  keptTick : BitVec 64
  keptCalValid : Bool
deriving DecidableEq, Repr

/-- Bellwether and succession (R69 to R71). `heard` says that LEADER has been followed since reset, and `inPort` is the cascade port on which
the marker followed last came. -/
structure SuccState where
  bellwether : Bool
  epoch : Nat
  leader : Nat
  heard : Bool
  inPort : Nat
  rank : Nat
  delay : Tbl Word
  asym : Tbl Word
  missed : Nat
deriving DecidableEq, Repr

/-- The BELL block. `tickHiLatch` is the word a read of TICK_LO latches (R74). -/
structure BellState where
  tick : BitVec 64
  tickHiLatch : Word
  lock : LockState
  time : TimeState
  err : ErrState
  ovr : OvrState
  tsq : Tbl (List TsEntry)
  tsqDrop : Tbl Word
  portAdj : Tbl Word
  sleep : SleepState
  succ : SuccState
deriving DecidableEq, Repr

/-- Pasture arbitration for one requester class (R25 to R30): the allotment in force, own credits in hand, transfers
that wait, and the running and last tick's counts and flags. -/
structure PastClass where
  allot : Nat
  own : Nat
  waiting : Nat
  used : Nat
  pool : Bool
  stall : Bool
  usedLast : Nat
  poolLast : Bool
  stallLast : Bool
deriving DecidableEq, Repr

/-- The Pasture controller's arbitration (R24 to R30). -/
structure PastState where
  classes : Tbl PastClass
  pool : Nat
  handed : Bool
  rr : Nat
deriving DecidableEq, Repr

/-- The reset allotment of a class (R25). -/
def pastAllotReset (k : Nat) : Nat :=
  if k < 16 then 100000
  else if k = 16 ∨ k = 17 then 250000
  else if k = 18 then 300000
  else if k = 20 then 200000
  else if k = 19 ∨ k = 21 then 100000
  else 50000

/-- A class at reset: its allotment in hand (log 2). -/
def PastClass.reset (k : Nat) : PastClass :=
  { allot := pastAllotReset k, own := pastAllotReset k, waiting := 0, used := 0, pool := false, stall := false, usedLast := 0,
    poolLast := false, stallLast := false }

/-- Arbitration at reset: the pool holds the unallotted remainder (R26; log 2). -/
def PastState.reset : PastState := { classes := [], pool := 100000, handed := false, rr := 0 }

/-- The lock machine at reset (R72, R73; log 1 for its counters). -/
def LockState.reset : LockState :=
  { src := 0, autoRate := true, todSrc := false, st := .free, validRun := 0, missRun := 0, inRun := 0, wasLocked := false,
    srcChanged := false, refSlice := 0, thawed := false, phaseErr := 0, slew := 0, freqNow := 0, freqHist := [], freqAvg := none,
    phaseOfs := 0 }

/-- Device time at reset (R47, R75). -/
def TimeState.reset : TimeState :=
  { c := 0, cycPhase := 0, acc := 0, anchor := 0, offset := 0, rate := 0, rawSnap := 0, secSnap := 0, nsSnap := 0,
    fracSnap := 0, timeValid := false }

/-- The error bound and its parameters at reset (R75). -/
def ErrState.reset : ErrState :=
  { timeErr := Word.top, setBy := .none, setBound := 0, holdErr := 0, holdTicks := 0, holdDrift := 1000,
    todStepMax := 1000, todErr := 100, todPend := none, todLast := none, ppsWidth := 100, rclkSquelch := false,
    rclkSel := 0, ppsOut := false, rclkOut := .low }

/-- The sleep counter at reset (R66, R75; log 1 for what the spec gives no value). -/
def SleepState.reset : SleepState :=
  { cnt := 0, cntHiLatch := 0, cal := 2000000000, calValid := false, drift := 5000, calStart := none, sEntry := 0, keptC := 0, keptAcc := 0,
    keptAnchor := 0, keptOffset := 0, keptRate := 0, keptErr := 0, keptTick := 0, keptCalValid := false }

/-- Succession at reset (R75). -/
def SuccState.reset : SuccState :=
  { bellwether := false, epoch := 0, leader := 0, heard := false, inPort := 0, rank := 15, delay := [], asym := [], missed := 0 }

/-- The BELL block at reset. -/
def BellState.reset : BellState :=
  { tick := 0, tickHiLatch := 0, lock := LockState.reset, time := TimeState.reset, err := ErrState.reset,
    ovr := { any := false, sticky := false, tick := 0, map := [] }, tsq := [], tsqDrop := [], portAdj := [],
    sleep := SleepState.reset, succ := SuccState.reset }

end Sys2Proof.Machine
end

