-- ==== Sys2Proof/Machine/StateCasc.lean ====
section
/-! DEFINITION. The state of the Commons (chapter 18). -/

namespace Sys2Proof.Machine

/-- The state of a cascade port (R537). -/
inductive PortSt where
  | down | aligning | hello | up
deriving DecidableEq, Repr

/-- A cascade port (R537, R552): `dist` holds the neighbour's latest TOPO, `hellos` and `badTags` the runs that R537 counts. -/
structure CascPort where
  st : PortSt
  peer : Nat
  reason : Nat
  downAt : BitVec 64
  hellos : Nat
  badTags : Nat
  dist : Tbl Nat
  tx : Word
  rx : Word
  crcErr : Word
  authFail : Word
  hopsDrop : Word
deriving DecidableEq, Repr

/-- TWIN_STATE.STATE (R553). -/
inductive TwinSt where
  | none | shadowing | tookOver | singlePath | returned
deriving DecidableEq, Repr

/-- CASC: configuration, ports, routes as (port, hops) by device, the twin and the pairing table, through how many ports the routes reach the twin, whether the partner is heard, a takeover
due at the next bell or to be yielded there (R548, R550), what the home has received of contributions and a member of outputs since the
last bell, by COMMONS_TAG, the contributions that came in the tick before, which this tick's mix takes (R542, R543), and the tick at which the announcements of R548 leave. -/
structure CascState where
  device : Nat
  portEn : Nat
  domain : Nat
  base : Nat
  gen : Nat
  ports : Tbl CascPort
  routes : Tbl (Nat × Nat)
  topoDue : Bool
  twin : Option Nat
  twinSt : TwinSt
  reach : Nat
  partnerHeard : Bool
  lost : Bool
  yielding : Bool
  saPairs : Tbl Nat
  inContrib : Tbl (List ContribIn)
  heldContrib : Tbl (List ContribIn)
  inOuts : Tbl (List (Nat × List Int))
  diverged : Word
  contribLate : Word
  takeoverTick : Word
  announce : Option (BitVec 64)
deriving DecidableEq, Repr

/-- A port at reset (R552). -/
def CascPort.reset : CascPort :=
  { st := .down, peer := 0, reason := 0, downAt := 0, hellos := 0, badTags := 0, dist := [], tx := 0, rx := 0, crcErr := 0,
    authFail := 0, hopsDrop := 0 }

/-- CASC at reset (R553). -/
def CascState.reset : CascState :=
  { device := 0, portEn := 0, domain := 0, base := 0, gen := 0, ports := [], routes := [], topoDue := false, twin := Option.none,
    twinSt := .none, reach := 0, partnerHeard := false, lost := false, yielding := false, saPairs := [], inContrib := [], heldContrib := [], inOuts := [], diverged := 0, contribLate := 0, takeoverTick := 0, announce := Option.none }

end Sys2Proof.Machine
end

