-- ==== Sys2Proof/Machine/StateDrove.lean ====
section
/-! DEFINITION. The state of the Drove (chapter 14). -/

namespace Sys2Proof.Machine

/-- The state of a channel (R430). -/
inductive ChanSt where
  | idle | active | waiting | halted
deriving DecidableEq, Repr

/-- A channel (R430 to R442). `cur` is the address of the descriptor in progress, or of the next to fetch while none is in hand; `desc` is the
descriptor in progress and `left` the bytes of it still to move; `buf` is the burst buffer, full when a write failed; `pending` holds a trigger that came
while the channel ran (R431); `fetching` says that a halt was met while a descriptor was read; `dir` and `descending` are the STATUS bits of R442. -/
structure Chan where
  prio : Nat
  armed : Bool
  trigger : Nat
  descAddr : BitVec 64
  descSpace : Nat
  st : ChanSt
  dir : Bool
  errKind : Nat
  errAddr : BitVec 64
  fetching : Bool
  pending : Bool
  descending : Bool
  cur : BitVec 64
  desc : Option DescIn
  left : Nat
  buf : Option (List Byte)
  count : Word
  bytes : Word
deriving DecidableEq, Repr

/-- DROVE: the channels, and for each priority the channel last served (R435). -/
structure DroveState where
  chans : Tbl Chan
  last : Tbl Nat
deriving DecidableEq, Repr

/-- A channel at reset (R442). -/
def Chan.reset : Chan :=
  { prio := 0, armed := false, trigger := 0, descAddr := 0, descSpace := 0, st := .idle, dir := false, errKind := 0, errAddr := 0,
    fetching := false, pending := false, descending := false, cur := 0, desc := none, left := 0, buf := none, count := 0, bytes := 0 }

/-- DROVE at reset. -/
def DroveState.reset : DroveState := { chans := [], last := [] }

end Sys2Proof.Machine
end

