-- ==== Sys2Proof/Machine/StateFlock.lean ====
section
/-! DEFINITION. The state of the Flock (chapter 06): engine cores, kernels, logical engines and groups. -/

namespace Sys2Proof.Machine

/-- One register set (R196). `acc` is what a further MAC operation reads, `accMv` what a move reads (R198). A wide
value of a pair is held beside its vector registers: the spec does not say how the lanes lie in the pair (log 14). -/
structure RegSet where
  s : Tbl Word
  v : Tbl (BitVec 256)
  w : Tbl (BitVec 256)
  acc : Tbl (List (BitVec 80))
  accMv : Tbl (List (BitVec 80))
  p : Tbl Word
  cb : Tbl Word
  cl : Tbl Word
  q : Tbl Bool
  mcr : Word
  sat : Bool
deriving DecidableEq, Repr

/-- A destination of a result that is on its way (R198). -/
inductive EDst where
  | s (n : Nat) | v (n : Nat) | w (n : Nat) | p (n : Nat) | cb (n : Nat) | cl (n : Nat) | q (n : Nat) | mcr | satClear
  | accMv (n : Nat)
deriving DecidableEq, Repr

/-- A result on its way: the cycle it was issued in, the cycle it lands in, the set it lands in (R211), its register
and its value (lanes for an accumulator). -/
structure PendW where
  issued : Nat
  due : Nat
  shadow : Bool
  dst : EDst
  val : Nat
  lanes : List (BitVec 80)
deriving DecidableEq, Repr

/-- A store on its way to local memory (R201). -/
structure PendSt where
  due : Nat
  bytes : List (Nat × Byte)
deriving DecidableEq, Repr

/-- A change of flow whose delay slots are running (R200, R210); one whose predicate did not let it act has no target. -/
structure PendBr where
  target : Option Word
  left : Nat
  isReti : Bool
deriving DecidableEq, Repr

/-- An engine's core. -/
structure EngCore where
  main : RegSet
  shadow : RegSet
  shadowOn : Bool
  pc : Word
  ira : Word
  cycle : Nat
  pend : List PendW
  stores : List PendSt
  br : Option PendBr
  bundle : List (Nat × Option Nat)
  mem : Memory
  events : Word
  lines : Tbl Nat
  held : List EngInt
  halted : Bool
deriving DecidableEq, Repr

/-- The context of a preempted task (R217): the main set and the address at which it goes on. -/
structure Ctx where
  regs : RegSet
  pc : Word
deriving DecidableEq, Repr

/-- A VIDEO work unit (R216, R217): its task, the tick of its deadline, its cycles (at most 25,000), whether it runs on past its deadline, and its
context while it is preempted. -/
structure VUnit where
  task : Nat
  deadline : BitVec 64
  cycles : Nat
  late : Bool
  ctx : Option Ctx
deriving DecidableEq, Repr

/-- What an engine runs (R217). -/
inductive Running where
  | idle | audio (task : Nat) | video (task : Nat) | background (task : Nat)
deriving DecidableEq, Repr

/-- An engine's kernel: the slot, the AUDIO tasks still to run this tick, the VIDEO units, the BACKGROUND tasks that are ready with the contexts of those
preempted, what runs, consecutive ticks in which a task has faulted, the tick of its last fault, tasks suspended, and whether a task has faulted in this
tick (R217 to R219). -/
structure EngKern where
  slot : Nat
  audioLeft : List Nat
  units : List VUnit
  background : List (Nat × Option Ctx)
  running : Running
  faultRun : Tbl Nat
  faultTick : Tbl (BitVec 64)
  suspended : List Nat
  faulted : Bool
deriving DecidableEq, Repr

/-- ENG_STATE (R228). -/
inductive EngSt where
  | media | customer | loading | out | gated
deriving DecidableEq, Repr

/-- A customer program on an engine (R223, R226): its image and where that stands in Pasture. `restarted` is the RESTARTED bit of the start word that the
kernel passes to each task (R221). -/
structure Prog where
  img : ImageDesc
  offset : Nat
  running : Bool
  restarted : Bool
deriving DecidableEq, Repr

/-- A logical engine (R194, R228). `hurt` says that an uncorrectable error has been found in its memory (R220). -/
structure Eng where
  st : EngSt
  phys : Nat
  ovr : Word
  faultKind : Nat
  faultTask : Nat
  faultCount : Nat
  faultPc : Word
  mboxDrop : Word
  heartbeat : Word
  hurt : Bool
  cycles : Nat
  prog : Option Prog
  kern : EngKern
  core : EngCore
deriving DecidableEq, Repr

/-- GROUP_STATE (R228). -/
inductive GroupSt where
  | ready | draining | loading | gated
deriving DecidableEq, Repr

/-- A group (R194, R221, R227). -/
structure FGroup where
  st : GroupSt
  spareUsed : Bool
  spareFailed : Bool
  fenced : Nat
  image : Option ImageDesc
  update : Option (ImageDesc × ReplyCtx)
deriving DecidableEq, Repr

/-- An ENGINE_LOAD in progress (R226): the bell at which the engines left placement, and the reply. -/
structure LoadJob where
  engines : List Nat
  since : BitVec 64
  ctx : ReplyCtx
deriving DecidableEq, Repr

/-- The Flock: engines, groups, loads in progress, and failures found while the control firmware is swapped (R577). -/
structure FlockState where
  engs : Tbl Eng
  groups : Tbl FGroup
  loads : List LoadJob
  failHeld : List Nat
deriving DecidableEq, Repr

/-- A register set at reset: mcr as R205 gives it, the rest zero (log 3). -/
def RegSet.reset : RegSet :=
  { s := [], v := [], w := [], acc := [], accMv := [], p := [], cb := [], cl := [], q := [], mcr := 0x05000000#32, sat := false }

/-- A core at reset (log 3). -/
def EngCore.reset : EngCore :=
  { main := RegSet.reset, shadow := RegSet.reset, shadowOn := false, pc := 0, ira := 0, cycle := 0, pend := [], stores := [],
    br := none, bundle := [], mem := [], events := 0, lines := [], held := [], halted := false }

/-- A kernel with nothing to run. -/
def EngKern.reset : EngKern :=
  { slot := 0, audioLeft := [], units := [], background := [], running := .idle, faultRun := [], faultTick := [], suspended := [], faulted := false }

/-- Logical engine `n` at reset (R194, R228). -/
def Eng.reset (n : Nat) : Eng :=
  { st := .media, phys := n % 16, ovr := 0, faultKind := 0, faultTask := 0, faultCount := 0, faultPc := 0, mboxDrop := 0,
    heartbeat := 0, hurt := false, cycles := 0, prog := none, kern := EngKern.reset, core := EngCore.reset }

/-- A group at reset (R228). -/
def FGroup.reset : FGroup :=
  { st := .ready, spareUsed := false, spareFailed := false, fenced := 0, image := none, update := none }

/-- The Flock at reset. -/
def FlockState.reset : FlockState := { engs := [], groups := [], loads := [], failHeld := [] }

end Sys2Proof.Machine
end

