-- ==== Sys2Proof/Machine/StateFold.lean ====
section
/-! DEFINITION. The state of the Fold (chapter 16). -/

namespace Sys2Proof.Machine

/-- BOOT_STAGE (R471, R504). -/
inductive BootStage where
  | rom | foldFw | ctrl | ready | recovery
deriving DecidableEq, Repr

/-- The state of a security association (R486): RETIRED is told apart by whether it is still bound. -/
inductive SaSt where
  | ready | bound | warn | retired (bound : Bool)
deriving DecidableEq, Repr

/-- A security association: its record, key and salt, its counts of use (R483, R486, R487), and one more than the highest index it has protected by outbound SSRC (R89). -/
structure Sa where
  st : SaSt
  rcd : SaRecord
  key : Nat
  salt : Nat
  pkts : Nat
  ctrlPkts : Nat
  bytes : Nat
  prot : Tbl Nat
deriving DecidableEq, Repr

/-- A generation slot of OTP that is not all zeros (R493, R494): whether it is valid, and its fields. -/
structure OtpSlot where
  valid : Bool
  fields : OtpFields
deriving DecidableEq, Repr

/-- The presence window that is open, if any (R498). -/
inductive Window where
  | shut | button | jumper
deriving DecidableEq, Repr

/-- A commit of OTP in progress: the slot, its fields, and where the follow-up goes (R495). -/
structure OtpJob where
  slot : Nat
  fields : OtpFields
  ctx : ReplyCtx
deriving DecidableEq, Repr

/-- A write of the boot store in progress (R530): KIND, slot and image. -/
structure StoreJob where
  kind : Nat
  slot : Nat
  img : ImageDesc
  ctx : ReplyCtx
deriving DecidableEq, Repr

/-- Presence, seal and random number generator (R491, R498 to R500); `endTick` is the tick at which a button window ends. -/
structure GuardState where
  window : Window
  endTick : Nat
  pressed : Bool
  lockout : Bool
  jumperStrapped : Bool
  sealIntact : Bool
  sealHist : Bool
  rngOk : Bool
  denied : Word
deriving DecidableEq, Repr

/-- OTP and fuses: no reset touches them but for a commit in progress (R493 to R497, R476, R587). -/
structure OtpState where
  slots : Tbl OtpSlot
  job : Option OtpJob
  failed : Bool
  rollback : Tbl (Nat × Nat)
deriving DecidableEq, Repr

/-- Boot and firmware (R471 to R478, R596). -/
structure BootState where
  stage : BootStage
  sealed : Bool
  selftest : Bool
  foldSlot : Nat
  ctrlSlot : Nat
  store : Tbl ImageDesc
  storeJob : Option StoreJob
  runFold : Option ImageDesc
  runCtrl : Option ImageDesc
  otpInForce : Option OtpFields
  otpGen : Nat
  badKind : Nat
deriving DecidableEq, Repr

/-- The Fold: the key cache, sessions and base handles by number, associations by handle. `pairsHeld` says that the
cache holds the identity and import key pairs, `pairsEpoch` under which ROOT_EPOCH they were wrapped; `resetReq` says that an accepted factory reset resets the device
once its reply is out. -/
structure FoldState where
  boot : BootState
  otp : OtpState
  guard : GuardState
  debugUnlocked : Bool
  keylist : Option KeyList
  sessions : Tbl Nat
  bases : Tbl (List Byte)
  sas : Tbl Sa
  importFails : Word
  pairsHeld : Bool
  pairsEpoch : Nat
  resetReq : Bool
deriving DecidableEq, Repr

/-- What governs with no valid generation (R494). -/
def OtpFields.none : OtpFields :=
  { rootEpoch := 0, jumper := true, debug := true, mgmt := false, keylistHash := 0, mgmtKeyHash := 0, ownerId := 0 }

/-- Presence and seal at reset (R499, R504). -/
def GuardState.reset : GuardState :=
  { window := .shut, endTick := 0, pressed := false, lockout := false, jumperStrapped := false, sealIntact := false,
    sealHist := false, rngOk := false, denied := 0 }

/-- OTP and fuses as shipped: blank, counters 0 and 1 bound (R476; log 4). -/
def OtpState.blank : OtpState :=
  { slots := [], job := Option.none, failed := false, rollback := [(0, (0x0F01, 0)), (1, (0x0C01, 0))] }

/-- Boot state at reset: ROM (R504; log 4 for the boot store, empty as the model starts). -/
def BootState.reset : BootState :=
  { stage := .rom, sealed := false, selftest := false, foldSlot := 0, ctrlSlot := 0, store := [], storeJob := Option.none,
    runFold := Option.none, runCtrl := Option.none, otpInForce := Option.none, otpGen := 0, badKind := 0 }

/-- The Fold at power-on reset. -/
def FoldState.reset : FoldState :=
  { boot := BootState.reset, otp := OtpState.blank, guard := GuardState.reset, debugUnlocked := false,
    keylist := Option.none, sessions := [], bases := [], sas := [], importFails := 0, pairsHeld := false, pairsEpoch := 0, resetReq := false }

end Sys2Proof.Machine
end

