-- ==== Sys2Proof/Machine/StateInteg.lean ====
section
/-! DEFINITION. The state of INTEG (chapter 15). -/

namespace Sys2Proof.Machine

/-- A memory class (R446, R447, R452, R466): its counts and latched addresses, the scrubber's rate (none is the reset rate), position, backlog and
passes, and the flip mask. -/
structure IntClass where
  ce : Word
  ue : Word
  ceAddr : BitVec 64
  ueAddr : BitVec 64
  rate : Option Nat
  pos : Nat
  backlog : Nat
  behind : Bool
  passes : Nat
  flipData : BitVec 64
  flipCheck : Nat
  arm : Bool
  match_ : Bool
  flipDone : Bool
  flipAddr : BitVec 64
deriving DecidableEq, Repr

/-- A row of Pasture whose errors are counted (R449): its number in the stack, correctable errors, and whether the present pass found one. -/
structure RowCount where
  row : Nat
  ces : Nat
  found : Bool
deriving DecidableEq, Repr

/-- The rows of a stack (R449 to R451): counts, the latest first; candidates with the tick at which each became one; rows being copied; the remap table
as (row, spare), and the free spares. -/
structure StackRows where
  counts : List RowCount
  cands : List (Nat × BitVec 64)
  copying : List Nat
  remap : List (Nat × Nat)
  free : Nat
deriving DecidableEq, Repr

/-- A check-value unit (R453 to R456, R467). -/
structure CvUnit where
  alg : Nat
  aliveMax : Nat
  aliveInit : Bool
  value : BitVec 64
  alive : Nat
  result : Nat
  run : Nat
  lastStale : Nat
  repeated : Nat
  stale : Nat
deriving DecidableEq, Repr

/-- A peer's digest (R462). -/
structure PeerDig where
  digest : BitVec 64
  epoch : Word
  mask : Nat
deriving DecidableEq, Repr

/-- INTEG: classes, words stored with errors as (class, word, bits in error), poisoned words, rows, check-value units and digests (R459 to R462):
the published ones, the epoch being recomputed, a drift check that waits, and blocks whose drift the next bell cures. -/
structure IntegState where
  classes : Tbl IntClass
  errs : List (Nat × Nat × Nat)
  poison : List (Nat × Nat)
  rowMap : Tbl StackRows
  rowThr : Nat
  remapLast : Nat
  cv : Tbl CvUnit
  mask : Nat
  blocks : Tbl (BitVec 64)
  dev : BitVec 64
  epoch : Word
  valid : Bool
  busy : Bool
  nextEpoch : Word
  drift : Nat
  driftHeld : Option (Tbl (BitVec 64))
  cure : Bool
  peers : Tbl PeerDig
  mismatch : Nat
  maskDiff : Nat
deriving DecidableEq, Repr

/-- A class at reset (R466). -/
def IntClass.reset : IntClass :=
  { ce := 0, ue := 0, ceAddr := 0, ueAddr := 0, rate := none, pos := 0, backlog := 0, behind := false, passes := 0, flipData := 0,
    flipCheck := 0, arm := false, match_ := false, flipDone := false, flipAddr := 0 }

/-- A stack's rows at power-on (R449, R465). -/
def StackRows.reset : StackRows := { counts := [], cands := [], copying := [], remap := [], free := 256 }

/-- A check-value unit at reset (R467; log 1 for the accepted value). -/
def CvUnit.reset : CvUnit :=
  { alg := 0, aliveMax := 1, aliveInit := true, value := 0, alive := 0, result := 0, run := 0, lastStale := 0, repeated := 0, stale := 0 }

/-- INTEG at reset (R465). -/
def IntegState.reset : IntegState :=
  { classes := [], errs := [], poison := [], rowMap := [], rowThr := 3, remapLast := 0, cv := [], mask := 0x1FFFF, blocks := [],
    dev := 0, epoch := 0, valid := false, busy := false, nextEpoch := 0, drift := 0, driftHeld := none, cure := false, peers := [],
    mismatch := 0, maskDiff := 0 }

end Sys2Proof.Machine
end

