-- ==== Sys2Proof/Machine/StateLane.lean ====
section
/-! DEFINITION. The state of the serial lanes (chapter 10). -/

namespace Sys2Proof.Machine

/-- A lane (R323 to R335, R338). `ctrl` holds TX_EN, RX_EN, LOOPBACK and ADAPT_FREEZE; the sticky polarities stand apart. `eyeTh` is none
while LN_EYE_TH holds the reset value of the line code. `marks`, `missed` and `count` follow the markers found in a row, expected positions without
one, and the latest COUNT; `recal` is the tick at which a recalibration began. -/
structure Lane where
  ctrl : Word
  txPol : Bool
  rxPol : Bool
  signal : Bool
  cdr : Bool
  adapted : Bool
  markLock : Bool
  eyeLow : Bool
  carries : Option Nat
  replaced : Bool
  peak : Nat
  gain : Nat
  height : Nat
  width : Nat
  eyeTh : Option Word
  slips : Nat
  gen : Nat
  chk : Nat
  chkLock : Bool
  prbsErr : Word
  cdrLoss : Word
  wordLo : Word
  wordHi : Word
  dfe : List Nat
  flt : List (Nat × Nat)
  badHeight : Nat
  badWidth : Nat
  goodRun : Nat
  marks : Nat
  missed : Nat
  count : Nat
  recal : Option (BitVec 64)
deriving DecidableEq, Repr

/-- A replacement in progress (R333, R334): the lane of the group, whether it returns, whether the far end has been asked, the
copies seen, and the tick by which an access replacement has ended. -/
structure Sparing where
  lane : Nat
  back : Bool
  asked : Bool
  copies : Nat
  endTick : BitVec 64
deriving DecidableEq, Repr

/-- A lane group (R319, R326, R339): what LANE_GROUP_CONFIG sets, alignment, the lane that the spare carries, a replacement in progress, and
the lane whose data this side copies onto its spare for the far end (R333). -/
structure LaneGroup where
  mode : Nat
  autoSpare : Bool
  test : Bool
  aligned : Bool
  skewMax : Nat
  alignLoss : Word
  spareFor : Option Nat
  sparing : Option Sparing
  copyOut : Option Nat
deriving DecidableEq, Repr

/-- LANE: lanes, groups and the global registers (R338, R339). -/
structure LaneState where
  lanes : Tbl Lane
  groups : Tbl LaneGroup
  spareSel : Nat
  spareEn : Bool
  spareSkip : Word
deriving DecidableEq, Repr

/-- A lane at reset (R338). -/
def Lane.reset : Lane :=
  { ctrl := 0, txPol := false, rxPol := false, signal := false, cdr := false, adapted := false, markLock := false, eyeLow := false,
    carries := none, replaced := false, peak := 0, gain := 0, height := 0, width := 0, eyeTh := none, slips := 0, gen := 0, chk := 0,
    chkLock := false, prbsErr := 0, cdrLoss := 0, wordLo := 0, wordHi := 0, dfe := [], flt := [], badHeight := 0, badWidth := 0,
    goodRun := 0, marks := 0, missed := 0, count := 0, recal := none }

/-- Group `g` at reset (R326, R339). -/
def LaneGroup.reset (g : Nat) : LaneGroup :=
  { mode := if g = 0 then 0 else if g = 4 then 1 else 2, autoSpare := true, test := false, aligned := false, skewMax := 0,
    alignLoss := 0, spareFor := none, sparing := none, copyOut := none }

/-- LANE at reset. -/
def LaneState.reset : LaneState := { lanes := [], groups := [], spareSel := 0, spareEn := false, spareSkip := 0 }

end Sys2Proof.Machine
end

