-- ==== Sys2Proof/Machine/StateMedia.lean ====
section
/-! DEFINITION. The state of conferences, legs and routes (chapters 03 and 04), the local ports (chapter 04), video
(chapter 05) and the isochronous trunks (chapter 09). -/

namespace Sys2Proof.Machine

/-- A move in its two ticks (R107, R108): the target engine, the tick of B0, whether the copy of step 2 is complete, the failure that has ended it
(R111: true for the source's, and the tick it was found in), and where the reply goes; a move of the control cores' own has none. -/
structure Move where
  target : Nat
  b0 : BitVec 64
  copyDone : Bool
  failed : Option (Bool × BitVec 64)
  ctx : Option (ReplyCtx × List Nat)
deriving DecidableEq, Repr

/-- The state of a leg (R83). A leg never used is not listed; one that was used and is FREE keeps its record. -/
inductive LegSt where
  | free | staged | active | migrating | draining | lost
deriving DecidableEq, Repr

/-- A replay window (R87): the highest index authenticated and the 512 bits below and at it, bit 0 the highest. -/
structure Replay where
  high : Nat
  seen : BitVec 512
deriving DecidableEq, Repr

/-- What an outbound packet says beside its SSRC and sequence number: payload type, marker, timestamp and payload bytes; a forwarded one carries the
header extension and payload it came with (R165). -/
structure RtpHdr where
  pt : Nat
  marker : Bool
  ts : Nat
  size : Nat
  body : List Byte
deriving DecidableEq, Repr

/-- A protected packet kept for resending (R104). -/
structure Sent where
  ssrc : Nat
  seq : Nat
  tick : BitVec 64
  hdr : RtpHdr
  resends : Nat
  lastResend : BitVec 64
deriving DecidableEq, Repr

/-- A missing inbound video packet (R105): when the next NACK is due and how many have gone. -/
structure Missing where
  seq : Nat
  due : BitVec 64
  sent : Nat
deriving DecidableEq, Repr

/-- What a report has said of a packet sent (R97): nothing yet, lost, or received, with its CE mark and its arrival in 1/65,536 s. -/
inductive Fate where
  | untold | lost | got (ce : Bool) (at_ : Int)
deriving DecidableEq, Repr

/-- A packet sent in the last 500 ms (R97): when in ns, its bytes with the headers of R100, and what has been reported of it; a resent one counts in the rate
alone. -/
structure TxRec where
  ssrc : Nat
  seq : Nat
  ns : Nat
  bytes : Nat
  again : Bool
  fate : Fate
deriving DecidableEq, Repr

/-- A packet received since the last report sent (R103): its SSRC and index, its ingress in ns and its ECN field. -/
structure RxRec where
  ssrc : Nat
  index : Nat
  ns : Nat
  ecn : Nat
deriving DecidableEq, Repr

/-- A packet forwarded of a contribution, as it counts in the rates of its layers in that codec (R101). -/
structure LayerUse where
  tick : BitVec 64
  codec : Nat
  spatial : Nat
  temporal : Nat
  bytes : Nat
deriving DecidableEq, Repr

/-- Interarrival jitter (R600, as RFC 3550 keeps it): 16 times the estimate in samples, and the arrival and timestamp of the last packet, in samples. -/
structure Jitter where
  avg16 : Nat
  last : Option (Nat × Nat)
deriving DecidableEq, Repr

/-- What a run of the adaptation loop measures (R97): of the packets `told` that reports have told of, those lost and those marked CE; the delay trend as a
quotient in units of 0.01 ms per 100 ms; S in b/s; the round-trip time in ms; the jitter in samples; and whether a report has come since the previous run. -/
structure Measures where
  told : Nat
  lost : Nat
  ce : Nat
  trendN : Int
  trendD : Nat
  sendRate : Nat
  rtt : Nat
  jitter : Nat
  fresh : Bool
deriving DecidableEq, Repr

/-- An operating point of a forwarded source (R101): spatial and temporal layer, rate in b/s, picture size and rate. -/
structure OpPoint where
  spatial : Nat
  temporal : Nat
  rate : Nat
  width : Nat
  height : Nat
  fps : Nat
deriving DecidableEq, Repr

/-- The state of the adaptation loop (R97 to R102, R603): the estimate in b/s, verdict, measures last used, hold-off,
the audio setting, the video budget, the tier and operating points chosen and those that wait. -/
structure Adapt where
  est : Nat
  verdict : Nat
  m : Measures
  holdUntil : BitVec 64
  lastReport : BitVec 64
  starved : Bool
  audioRate : Nat
  audioFrame : Nat
  fec : Bool
  budget : Nat
  tier : Nat
  wantTier : Nat
  tierSince : Option (Nat × BitVec 64)
  points : Tbl (Nat × Nat)
  wantPoints : Tbl (Nat × Nat)
  wantAt : Tbl (BitVec 64)
  pointSince : Tbl (Nat × BitVec 64)
deriving DecidableEq, Repr

/-- The flags of a status record (R112), less those other fields hold. -/
structure LegFlags where
  concealed : Bool
  keyWarnIn : Bool
  keyWarnOut : Bool
  keyRetired : Bool
  pinned : Bool
  diverged : Bool
  recovered : Bool
deriving DecidableEq, Repr

/-- A leg (R77, R83, R112). `cnt` holds the 64-bit counters of R112 by their order from offset 64. `snap` is the status
record as the home engine last wrote it. `outIdx` holds the next index of each outbound SSRC, `ckIdx` the indices of the last checkpoint (R110). `jbWant` is the
depth that the jitter buffer waits to take, `jbDue` a timestamp with the sample instant at which it is due (R600); `audioTs` and `enc` are the next audio
timestamp and the encoder's rate and frame in force (R99); `txLog`, `reported`, `rxLog`, `rxNext` and `layers` are what the loop and reports count (R97, R101, R103),
`dims` the operating points that the contribution describes, by codec; `picEnd` the tick at which the last packet of a contributed picture
came, with its timestamp (R22). `slot` says that the leg holds an AVC fallback slot (R186). `live` is false for
a twin's shadow (R546); `restore` is the tick at which a leg whose engine failed resumes (R109). -/
structure Leg where
  st : LegSt
  rcd : LegRec
  home : Nat
  move : Option Move
  prevSa : Option (Nat × BitVec 64)
  drainAt : BitVec 64
  aLatch : Option Nat
  vLatch : Option Nat
  windows : Tbl Replay
  outIdx : Tbl Nat
  ckIdx : Tbl Nat
  sent : List Sent
  retx : List (BitVec 64 × Nat)
  missing : List Missing
  highSeq : Option Nat
  pliAt : Option (BitVec 64)
  firSeen : Tbl Nat
  fbAt : BitVec 64
  jbDepth : Nat
  jbWant : Nat
  jbDue : Option (Nat × Int)
  jit : Jitter
  audioTs : Option Nat
  enc : Nat × Nat
  txLog : List TxRec
  reported : Bool
  rxLog : List RxRec
  rxNext : Tbl Nat
  layers : List LayerUse
  dims : Tbl (List OpDim)
  picEnd : Option (BitVec 64 × Nat)
  adapt : Adapt
  flags : LegFlags
  cnt : Tbl (BitVec 64)
  statusSeq : Nat
  snap : List Nat
  slot : Bool
  live : Bool
  langFade : Option (Nat × Nat)
  restore : Option (BitVec 64)
deriving DecidableEq, Repr

/-- One input of a mix (R120, R121): smoothed power, counts of ticks below OFF and over the challenge margin, whether it
is in alarm, and the block conditioned in the last tick. -/
structure MixIn where
  p : Int
  level : Option Int
  below : Nat
  chal : Nat
  alarm : Bool
  blk : List Int
deriving DecidableEq, Repr

/-- A compressor and limiter (R128): envelope, limiter gain, and the gain of the latest sample. -/
structure Dyn where
  env : Int
  gl : Int
  g : Nat
deriving DecidableEq, Repr

/-- A language channel's change between floor and consoles (R132): whether its output was the consoles' mix, and the
samples of a crossfade already run, if one runs. -/
structure LangSt where
  live : Bool
  fade : Option Nat
deriving DecidableEq, Repr

/-- A conference (R76, R604). `reserve` is the reservation in inputs (R96). `outs` holds the outputs of the mix stage by
R124's kind: 0 the floor, c a channel, 1,000 + input the mix-minus of an
input, and with 2^20 × c the same within a channel. `heldIns` and `heldOuts` delay a spanning conference's blocks by a tick (R542). `restore` is the tick at
which a mix whose engine failed resumes (R109). -/
structure Conf where
  rcd : ConfRec
  mix : Option Nat
  reserve : Nat
  move : Option Move
  talkers : List Nat
  fading : List (Nat × Nat)
  ins : Tbl MixIn
  dyns : Tbl Dyn
  langs : Tbl LangSt
  outs : Tbl (List Int)
  clip : BitVec 64
  lastTalk : Tbl (BitVec 64)
  live : Bool
  heldIns : Tbl MixIn
  heldOuts : Tbl (List Int)
  restore : Option (BitVec 64)
deriving DecidableEq, Repr

/-- A crossfade on a route (R135, R136): samples already run, the record faded from, and the blend frozen under it. -/
structure Fade where
  n : Nat
  old : RouteRec
  frozen : Option (RouteRec × Nat)
deriving DecidableEq, Repr

/-- A route (R137): its record, engine, crossfade, a console's state (R133), the time it fades out to be cleared, the
block captured for an input, the block last played for an output, and the tick at which a route whose engine failed resumes (R109). -/
structure Route where
  rcd : RouteRec
  engine : Nat
  move : Option Move
  fade : Option Fade
  consoleLive : Bool
  listen : Nat
  clearing : Option Nat
  blk : List Int
  absent : Bool
  twin : Bool
  restore : Option (BitVec 64)
deriving DecidableEq, Repr

/-- A headset interface (R142 to R147, R154): the host's controls, what has been detected, and timers as the number of
events that are due. `micNext` says that microphone samples flow from the next bell, `dac` is the DAC's ramp in sixths. `play` is the engine block that plays in
this tick, `sideActive` whether the side-tone is mixed into it, `sideWas` whether it was into the one before, `side` the microphone samples still on the side-tone path. -/
structure Headset where
  detPol : Bool
  sidetone : Nat
  forceType : Nat
  debounce : Word
  impTh : Word
  btnTh0 : Word
  btnTh1 : Word
  plugged : Bool
  present : Bool
  accType : Nat
  buttons : Nat
  btnBand : Nat
  btnCount : Nat
  sideActive : Bool
  biasUa : Nat
  ring2 : Nat
  sleeve : Nat
  armed : Bool
  muted : Bool
  micNext : Bool
  micFlow : Bool
  dac : Nat
  bank : Nat
  side : List Int
  sideWas : Bool
  play : List Int
deriving DecidableEq, Repr

/-- A TDM port (R149 to R151, R155): its configuration, the samples its slots hold for the next block, the fill at the last bell, and its alarms. -/
structure TdmPort where
  cfg : TdmRec
  lock : Bool
  alarm : Bool
  good : Nat
  phase : Nat
  fill : Nat
  inBuf : Tbl (List Int)
  outBuf : Tbl (List Int)
  slips : Word
  alarms : Word
deriving DecidableEq, Repr

/-- AUD: parameter banks of sets 0 to 2 by block × 4,096 + parameter, A and B, the global registers (R139, R156), commits of
sets 1 and 2 that wait for a sample boundary and the writes behind them (R140, R141), the PCM
handed to each leg's encoder, and the blocks captured in the last tick by endpoint. -/
structure AudState where
  routes : Tbl Route
  hs : Tbl Headset
  tdm : Tbl TdmPort
  bankA : Tbl Int
  bankB : Tbl Int
  active0 : Nat
  hsCommit : List (Nat × ReplyCtx × List (Nat × Int))
  rateRefused : Word
  clipLast : Nat
  pcm : Tbl (List Int)
  capt : Tbl (List Int)
  streamAlarm : List Nat
deriving DecidableEq, Repr

/-- A contribution (R161 to R163, R172): its record, decode cluster, whether it meets R171 and at which tier, the picture order count of its last
picture, the arrivals of the last 8,000 ticks, the starts of the decodes that run with their timestamps (R22), whether its decoder waits for an intra point, whether
it has a decoded picture, and whether its own packets carry layers (R159). -/
structure Contrib where
  rcd : ContribRec
  cluster : Nat
  conform : Bool
  tier : Nat
  poc : Option Nat
  seen : List (BitVec 64)
  decoding : List (BitVec 64 × Nat)
  stalled : Bool
  shown : Bool
  layered : Bool
deriving DecidableEq, Repr

/-- An encode that runs (R22): its start, whether it is an intra point (R170), and the timestamp of its picture. -/
structure EncRun where
  start : BitVec 64
  intra : Bool
  ts : Nat
deriving DecidableEq, Repr

/-- The newest complete subpicture of a source and tier (R179, R23): its number, whether it is intra, the number and the tick of the newest intra one, when an
intra point was last requested and whether the next encode is to be one (R170), the encodes that run, whether the cells repeat until the next intra subpicture
(R172, R185), and the bytes of the last 8,000 ticks (R169). -/
structure TierPic where
  num : Nat
  intra : Bool
  intraNum : Nat
  intraAt : Option (BitVec 64)
  asked : Option (BitVec 64)
  want : Bool
  runs : List EncRun
  frozen : Bool
  log : List (BitVec 64 × Nat)
deriving DecidableEq, Repr

/-- A cell of a composed stream: its occupant (none is filler), the number of the subpicture it last showed, whether its filler has been coded (R181), the
occupant that waits for an intra subpicture and since when (R182), since when an intra subpicture serves an intra point (R183), and a candidate with the ticks it
has held its rank (R176). -/
structure CellSt where
  occ : Option Nat
  shown : Nat
  filled : Bool
  next : Option (Option Nat)
  nextFrom : BitVec 64
  pointFrom : BitVec 64
  cand : Option Nat
  held : Nat
deriving DecidableEq, Repr

/-- What the parameter sets of a composed picture say (R180): picture size, general_level_idc, the position and size of each subpicture in CTUs with its identifier,
the flags and identifier length that R180 names, the columns and rows of its tiles with the tile in CTUs, one rectangular slice for each subpicture, mixed NAL
unit types, no conformance window, and the canonical values of the rest. -/
structure ParamSets where
  width : Nat
  height : Nat
  level : Nat
  subpics : List (Nat × Nat × Nat × Nat × Nat)
  treatedAsPic : Bool
  filterAcross : Bool
  idLenMinus1 : Nat
  tileCols : Nat
  tileRows : Nat
  tile : Nat × Nat
  rectSlices : Bool
  slicePerSubpic : Bool
  mixedNal : Bool
  window : Option (Nat × Nat × Nat × Nat)
  others : List Nat
deriving DecidableEq, Repr

/-- A composed stream (R178): a variant of a layout, or one leg's own under R177; its geometry and cells, those of a replaced layout with the tick they are due at
(R183), the ticks at which intra points are due, when one was last asked for and refreshed, the parameter sets last written (R179), and its picture order count. -/
structure Stream where
  layout : Nat
  variant : Nat
  self : Option Nat
  start : BitVec 64
  k : Nat
  cells : List CellSt
  geometry : VariantRec
  coming : Option (BitVec 64 × VariantRec × List CellSt)
  intraDue : List (BitVec 64)
  intraAsked : Option (BitVec 64)
  refreshAt : Option (BitVec 64)
  sets : Option ParamSets
  poc : Nat
deriving DecidableEq, Repr

/-- A leg's place among streams (R184): the stream it receives, the one it waits to join, and whether its fallback picture is next coded as IDR (R187). -/
structure Recv where
  cur : Option Nat
  next : Option Nat
  idr : Bool
deriving DecidableEq, Repr

/-- VID (R161 to R192). -/
structure VidState where
  contribs : Tbl Contrib
  subs : Tbl (List (Nat × Nat))
  layouts : Tbl LayoutRec
  streams : Tbl Stream
  recv : Tbl Recv
  pics : Tbl TierPic
  rateS : Nat
  rateM : Nat
  rateL : Nat
  confLeg : Nat
  confRow : Nat
  errLeg : Nat
  errOversize : Bool
  lateLeg : Nat
  lateTier : Nat
  decErrors : Word
  encLates : Word
  conformFails : Word
  intraPoints : Word
deriving DecidableEq, Repr

/-- The alignment of an inbound trunk (R301). -/
inductive ImcAlign where
  | hunt | presync | sync
deriving DecidableEq, Repr

/-- An IMC trunk (R297 to R316): record and engine; the byte stream not yet consumed; alignment, expected FN and misses;
pointer in force, run, arrivals since an acceptance, arrivals without one; the pointer buffer by channel with its refill and slips; parity; degraded-signal
runs; the conditions of R310; the outbound side; the counters of R316 by their order from 0x10; whether a frame has been seen since the last bell; and the tick at
which a trunk whose engine failed resumes (R109). -/
structure Trunk where
  rcd : TrunkRec
  engine : Nat
  move : Option Move
  buf : List Byte
  align : ImcAlign
  good : Nat
  fn : Nat
  miss : Nat
  lof : Bool
  p : Option Nat
  run : Option (Nat × Nat)
  sinceAcc : Nat
  noAcc : Nat
  lop : Bool
  fifo : Tbl (List Int)
  refill : Bool
  unity : Bool
  fill : Nat
  bipPrev : Option (BitVec 16)
  bipErrs : Nat
  ivBroken : Bool
  badRun : Nat
  goodRun : Nat
  deg : Bool
  ais : Bool
  rdi : Bool
  inserting : Bool
  portUp : Bool
  outBip : BitVec 16
  cnt : Tbl Word
  seen : Bool
  restore : Option (BitVec 64)
deriving DecidableEq, Repr

/-- IMC: the trunks and EVENT_MAP (R317). -/
structure ImcState where
  trunks : Tbl Trunk
  eventMap : BitVec 64
deriving DecidableEq, Repr

/-- MEDIA: legs, conferences, the status table (R114), and the homes that CASC_CONF_BIND gives by COMMONS_TAG (R541). -/
structure MediaState where
  legs : Tbl Leg
  confs : Tbl Conf
  statusBase : Nat
  statusEn : Bool
  eventLeg : Nat
  eventKind : Nat
  binds : Tbl Nat
deriving DecidableEq, Repr

/-- Measures before any report. -/
def Measures.none : Measures :=
  { told := 0, lost := 0, ce := 0, trendN := 0, trendD := 1, sendRate := 0, rtt := 0, jitter := 0, fresh := false }

/-- A leg's flags as it starts. -/
def LegFlags.clear : LegFlags :=
  { concealed := false, keyWarnIn := false, keyWarnOut := false, keyRetired := false, pinned := false, diverged := false,
    recovered := false }

/-- An input before its first block. -/
def MixIn.silent : MixIn := { p := 0, level := none, below := 0, chal := 0, alarm := false, blk := [] }

/-- A compressor at rest: unity gain. -/
def Dyn.rest : Dyn := { env := 0, gl := 0, g := 16384 }

/-- A headset interface at reset (R154). -/
def Headset.reset : Headset :=
  { detPol := false, sidetone := 2, forceType := 0, debounce := BitVec.ofNat 32 (100 + 20 * 256 + 30 * 65536 + 30 * 2 ^ 24),
    impTh := BitVec.ofNat 32 (20 + 60 * 256 + 300 * 2 ^ 20), btnTh0 := BitVec.ofNat 32 (1190 + 1130 * 65536),
    btnTh1 := BitVec.ofNat 32 (1060 + 930 * 65536), plugged := false, present := false, accType := 0, buttons := 0,
    btnBand := 0, btnCount := 0, sideActive := false, biasUa := 0, ring2 := 0, sleeve := 0, armed := false, muted := false,
    micNext := false, micFlow := false, dac := 0, bank := 0, side := [], sideWas := false, play := [] }

/-- A TDM record before any configuration. -/
def TdmRec.blank : TdmRec := { port := 0, slots := 1, width := 16, mode := 0, enable := false, fsHz := 48000, reservedOk := true }

/-- A TDM port at reset (R155). -/
def TdmPort.reset : TdmPort :=
  { cfg := TdmRec.blank, lock := false, alarm := false, good := 0, phase := 0, fill := 0, inBuf := [], outBuf := [], slips := 0, alarms := 0 }

/-- AUD at reset (R156). -/
def AudState.reset : AudState :=
  { routes := [], hs := [], tdm := [], bankA := [], bankB := [], active0 := 0, hsCommit := [], rateRefused := 0, clipLast := 0,
    pcm := [], capt := [], streamAlarm := [] }

/-- VID at reset (R192). -/
def VidState.reset : VidState :=
  { contribs := [], subs := [], layouts := [], streams := [], recv := [], pics := [], rateS := 250, rateM := 500, rateL := 1500,
    confLeg := 0, confRow := 0, errLeg := 0, errOversize := false, lateLeg := 0, lateTier := 0, decErrors := 0, encLates := 0,
    conformFails := 0, intraPoints := 0 }

/-- IMC at reset (R316, R317): no trunk configured. -/
def ImcState.reset : ImcState := { trunks := [], eventMap := 0 }

/-- MEDIA at reset (R114). -/
def MediaState.reset : MediaState :=
  { legs := [], confs := [], statusBase := 0, statusEn := false, eventLeg := 0, eventKind := 0, binds := [] }

end Sys2Proof.Machine
end

