-- ==== Sys2Proof/Machine/StatePwr.lean ====
section
/-! DEFINITION. The state of the power controller and the board's pins (chapters 19 and 20). -/

namespace Sys2Proof.Machine

/-- The season (R579). -/
inductive Season where
  | summer | autumn | winter
deriving DecidableEq, Repr

/-- SEASON.PHASE (R579). -/
inductive Phase where
  | steady | entering | thawing | aborting
deriving DecidableEq, Repr

/-- The state of a power domain (R556). -/
inductive DomSt where
  | off | poweringUp | on | shuttingDown
deriving DecidableEq, Repr

/-- PWR.LAST (R579). -/
structure LastWake where
  pins : Nat
  headEnd : Bool
  alarm : Bool
  core : Bool
  abort : Nat
deriving DecidableEq, Repr

/-- A Winter entry or thaw in progress (R566, R571): the step reached, the season to return to, where the follow-up
goes while it is still owed, the domains that were ON before, and wakes held in the race window. -/
structure WinterJob where
  step : Nat
  fromSeason : Season
  ctx : Option ReplyCtx
  onBefore : List Nat
  pcieOff : Bool
  held : Option LastWake
deriving DecidableEq, Repr

/-- A firmware swap in progress (R574): the slot and image, B as a tick number, and the follow-up. -/
structure SwapJob where
  slot : Nat
  img : ImageDesc
  startTick : BitVec 64
  ctx : ReplyCtx
deriving DecidableEq, Repr

/-- One waiter on a power domain (R557): its reply is due when the domain reaches the state. `deferred` says that
the command was answered DEFERRED and is owed a follow-up. -/
structure DomWait where
  dom : Nat
  wantOn : Bool
  deferred : Bool
  ctx : ReplyCtx
deriving DecidableEq, Repr

/-- The power controller (R555 to R579). `gating` is the Flock group Autumn is draining; `noGate` holds, for a group, the
tick until which it is not gated again. -/
structure PwrState where
  season : Season
  phase : Phase
  thawSeason : Nat
  last : LastWake
  wakeCtrl : Word
  wakePins : Nat
  alarm : BitVec 48
  alarmEn : Bool
  retBanks : Word
  stackKeep : Nat
  linkWait : Nat
  minGroups : Nat
  high : Nat
  low : Nat
  gateCodecs : Bool
  doms : Tbl DomSt
  domPend : List Nat
  domLast : Nat
  domLastUp : Bool
  waits : List DomWait
  winter : Option WinterJob
  swap : Option SwapJob
  seasonCtx : Option ReplyCtx
deriving DecidableEq, Repr

/-- The counters and lists beside PwrState: AVSBus, Autumn's gating, firmware swap and control cores. -/
structure PwrAux where
  avsRail : Nat
  avsAck : Nat
  avsMv : Tbl Nat
  avsTries : Nat
  avsTarget : List (Nat × Nat)
  winters : Word
  thaws : Word
  aborts : Word
  avsFaults : Word
  swapState : Nat
  gating : Option Nat
  gated : List Nat
  noGate : Tbl (BitVec 64)
  autumnStart : BitVec 64
  codecGated : List Nat
  keptLpi : Tbl Bool
  fenced : List Nat
deriving DecidableEq, Repr

/-- The pins the board sees (R589 to R591, R598): `driven` is false while every output is high impedance; `resetLevel` is 1 in power-on reset, 2 in device reset, 0 once reset is released. -/
structure PinState where
  driven : Bool
  thermTrip : Bool
  pcieWake : Bool
  sysclkEn : Bool
  resetLevel : Nat
deriving DecidableEq, Repr

/-- PWR at reset (R560, R579). -/
def PwrState.reset : PwrState :=
  { season := .summer, phase := .steady, thawSeason := 0,
    last := { pins := 0, headEnd := false, alarm := false, core := false, abort := 0 }, wakeCtrl := 0x10000#32,
    wakePins := 0, alarm := 0, alarmEn := false, retBanks := 0xF#32, stackKeep := 0, linkWait := 1000, minGroups := 2,
    high := 80, low := 50, gateCodecs := true, doms := [], domPend := [], domLast := 0, domLastUp := false, waits := [],
    winter := none, swap := none, seasonCtx := none }

/-- PWR's counters and lists at reset (R579). -/
def PwrAux.reset : PwrAux :=
  { avsRail := 0, avsAck := 0, avsMv := [], avsTries := 0, avsTarget := [], winters := 0, thaws := 0, aborts := 0,
    avsFaults := 0, swapState := 0, gating := none, gated := [], noGate := [], autumnStart := 0, codecGated := [],
    keptLpi := [], fenced := [] }

/-- The pins while the device is in reset (R589). -/
def PinState.reset : PinState :=
  { driven := false, thermTrip := false, pcieWake := false, sysclkEn := false, resetLevel := 1 }

end Sys2Proof.Machine
end

