-- ==== Sys2Proof/Machine/State.lean ====
section
/-! DEFINITION. The state of the FM7240: the queue of commands that wait, Pasture's bytes and the device. -/

namespace Sys2Proof.Machine

/-- The device but for Pasture's bytes: one field per unit. `freeCtr` counts the free values drawn (log 6), `out` holds
what left the device while the last command acted, and `memOut` the writes to Pasture that a command in progress has
posted (empty between commands). -/
structure Dev where
  freeCtr : Nat
  out : List Out
  memOut : List (Nat × List Byte)
  sys : SysState
  bell : BellState
  past : PastState
  fold : FoldState
  pwr : PwrState
  aux : PwrAux
  pins : PinState
  parse : ParseState
  tm : TmState
  cli : CliState
  flock : FlockState
  acc : AccState
  media : MediaState
  aud : AudState
  vid : VidState
  imc : ImcState
  casc : CascState
  lane : LaneState
  drove : DroveState
  integ : IntegState
deriving DecidableEq, Repr

/-- The state of the machine. -/
structure State where
  pending : List Instr
  mem : Memory
  dev : Dev
deriving DecidableEq, Repr

/-- The reasons for which the machine stops with a fault. No command of the spec stops this machine: the type has no
constructor that a meaning raises but the one that keeps it inhabited. -/
inductive Fault where
  /-- Raised by no command: the spec gives every command an effect. Safe. -/
  | none
deriving DecidableEq, Repr

/-- The reasons for which a command has no meaning. -/
inductive Refusal where
  /-- Raised by exec's arm of a command whose meaning is not written yet. Safe. -/
  | notModelled (mnemonic : String)
deriving DecidableEq, Repr

/-- The device right after power-on reset (R587): every register at its reset value. -/
def Dev.reset : Dev :=
  { freeCtr := 0, out := [], memOut := [], sys := SysState.reset, bell := BellState.reset, past := PastState.reset,
    fold := FoldState.reset, pwr := PwrState.reset, aux := PwrAux.reset, pins := PinState.reset,
    parse := ParseState.reset, tm := TmState.reset, cli := CliState.reset,
    flock := FlockState.reset, acc := AccState.reset, media := MediaState.reset, aud := AudState.reset,
    vid := VidState.reset, imc := ImcState.reset, casc := CascState.reset, lane := LaneState.reset, drove := DroveState.reset,
    integ := IntegState.reset }

/-- The machine right after power-on reset, no command waiting and no byte of Pasture listed. -/
def State.reset : State := { pending := [], mem := [], dev := Dev.reset }

end Sys2Proof.Machine
end

