-- ==== Sys2Proof/Machine/Ops.lean ====
section
/-! DEFINITION. The operations every family shares: the lift of a change of the device to a next state, free values, leaf
causes and INT_N, replies, epochs and the checks of a Kervon packet. -/

namespace Sys2Proof.Machine

/-- The next state in which the device is changed by `f`, which may read Pasture: what the last command sent is cleared
first, and the writes to Pasture that `f` posts are made. -/
def nextWith (s : State) (f : Memory → Dev → Dev) : Host.Outcome State Fault Refusal :=
  let d := f s.mem { s.dev with out := [], memOut := [] }
  .next { s with mem := memWrites s.mem d.memOut, dev := { d with memOut := [] } }

/-- The next state in which the device is changed by `f`. -/
def nextDev (s : State) (f : Dev → Dev) : Host.Outcome State Fault Refusal := nextWith s (fun _ => f)

/-- The device with its count of free values drawn changed. -/
def onFree (d : Dev) (f : Nat → Nat) : Dev := { d with freeCtr := f d.freeCtr }

/-- Draw a free value: one that the spec leaves open (log 6). -/
def drawFree (d : Dev) : Nat × Dev := (Config.free d.freeCtr, onFree d (fun n => n + 1))

/-- The device with one thing more sent. -/
def emit (d : Dev) (k : OutKind) (chan : Nat) (vals : List Int) : Dev :=
  { d with out := d.out ++ [{ kind := k, chan := chan, vals := vals }] }

/-- The device with a write to Pasture posted. -/
def postMem (d : Dev) (a : Nat) (bs : List Byte) : Dev := { d with memOut := d.memOut ++ [(a, bs)] }

/-- The device with its SYS block changed. -/
def onSys (d : Dev) (f : SysState → SysState) : Dev := { d with sys := f d.sys }

/-- The device with its interrupt tree changed. -/
def onInt (d : Dev) (f : IntState → IntState) : Dev := { d with sys := { d.sys with int := f d.sys.int } }

/-- The device with its BELL block changed. -/
def onBell (d : Dev) (f : BellState → BellState) : Dev := { d with bell := f d.bell }

/-- The device with its Fold changed. -/
def onFold (d : Dev) (f : FoldState → FoldState) : Dev := { d with fold := f d.fold }

/-- The device with its Fold's guards changed. -/
def onGuard (d : Dev) (f : GuardState → GuardState) : Dev := { d with fold := { d.fold with guard := f d.fold.guard } }

/-- The device with its power controller changed. -/
def onPwr (d : Dev) (f : PwrState → PwrState) : Dev := { d with pwr := f d.pwr }

/-- The device with the power controller's counters and lists changed. -/
def onAux (d : Dev) (f : PwrAux → PwrAux) : Dev := { d with aux := f d.aux }

/-- The device with its pins changed. -/
def onPins (d : Dev) (f : PinState → PinState) : Dev := { d with pins := f d.pins }

/-- The device with its CLI block changed. -/
def onCli (d : Dev) (f : CliState → CliState) : Dev := { d with cli := f d.cli }

/-- The device with its lanes changed. -/
def onLanes (d : Dev) (f : LaneState → LaneState) : Dev := { d with lane := f d.lane }

/-- The device with Drove changed. -/
def onDrove (d : Dev) (f : DroveState → DroveState) : Dev := { d with drove := f d.drove }

/-! ### The interrupt tree -/

/-- The groups of the interrupt tree: first and last leaf word of group `g` (R533). -/
def groupWords (g : Nat) : Nat × Nat :=
  match g with
  | 0 => (0, 1) | 1 => (2, 2) | 2 => (3, 6) | 3 => (7, 7) | 4 => (8, 11) | 5 => (12, 12) | 6 => (13, 13) | 7 => (14, 14)
  | 8 => (15, 16) | 9 => (17, 17) | 10 => (18, 18) | 11 => (19, 19) | 12 => (20, 20) | 13 => (21, 21) | 14 => (22, 22)
  | 15 => (23, 24) | 16 => (25, 26) | _ => (64, 63)

/-- LEAF_k. -/
def leafWord (i : IntState) (k : Nat) : Word := tgetD i.leaf k 0

/-- LEAF_MASK_k. -/
def leafMaskWord (i : IntState) (k : Nat) : Word := tgetD i.leafMask k Word.top

/-- GROUP_MASK_g. -/
def groupMaskOf (i : IntState) (g : Nat) : BitVec 8 := tgetD i.groupMask g 0xFF#8

/-- GROUP_CAUSE_g: bit i is the OR of the unmasked bits of the group's i-th leaf word (R532). -/
def groupCause (i : IntState) (g : Nat) : BitVec 8 :=
  (List.range 8).foldl (fun acc n =>
    let w := (groupWords g).1 + n
    if w ≤ (groupWords g).2 ∧ leafWord i w &&& ~~~ leafMaskWord i w ≠ 0 then acc ||| (1#8 <<< n) else acc) 0

/-- INT_TOP: bit g is the OR of the bits of GROUP_CAUSE_g that GROUP_MASK_g leaves unmasked (R532). -/
def intTop (i : IntState) : Word :=
  (List.range 17).foldl (fun acc g => if groupCause i g &&& ~~~ groupMaskOf i g ≠ 0 then acc ||| (1#32 <<< g) else acc) 0

/-- The condition that drives INT_N low (R532). -/
def intCond (i : IntState) : Bool := decide (intTop i &&& ~~~ i.topMask ≠ 0)

/-- Send the message of MSI-X table entry 0, or defer it while the entry is masked (R534). -/
def msixSend (d : Dev) : Dev :=
  if d.sys.int.msixEn ∧ d.sys.int.msixCfgEn then
    if d.sys.int.msixMasked then onInt d (fun i => { i with msixPending := true })
    else emit (onInt d (fun i => { i with msixPending := false })) .msix 0 []
  else d

/-- INT_N and MSI-X brought up to date with the tree: a message goes out as the condition begins (R532, R534). -/
def intUpdate (d : Dev) : Dev :=
  let c := intCond d.sys.int
  if c ∧ ¬ d.sys.int.pin then msixSend (onInt d (fun i => { i with pin := true }))
  else if c then d
  else onInt d (fun i => { i with pin := false, msixPending := false })

/-- Set leaf `bit` of word `w` (R532) and bring INT_N up to date. -/
def raiseLeaf (d : Dev) (w bit : Nat) : Dev :=
  intUpdate (onInt d (fun i => { i with leaf := tset i.leaf w (leafWord i w ||| (1#32 <<< bit)) }))

/-- Set a leaf when a condition holds. -/
def raiseIf (c : Bool) (d : Dev) (w bit : Nat) : Dev := if c then raiseLeaf d w bit else d

/-- Clear bits of a leaf word by a W1C write (R7, R532). -/
def clearLeaf (d : Dev) (w : Nat) (v : Word) : Dev :=
  intUpdate (onInt d (fun i => { i with leaf := tset i.leaf w (leafWord i w &&& ~~~ v) }))

/-! ### Power domains -/

/-- The state of a power domain; every domain is ON at reset (R560). -/
def domState (d : Dev) (k : Nat) : DomSt := tgetD d.pwr.doms k .on

/-- Whether a power domain is ON. -/
def domOn (d : Dev) (k : Nat) : Bool := decide (domState d k = .on)

/-! ### The host's requests in BAR0 -/

/-- Whether the endpoint answers a BAR0 request: PCIE is on, and BOOT_STAGE has read CTRL (R38, R587). -/
def bar0Answers (d : Dev) : Bool :=
  domOn d 38 && (d.fold.boot.stage == .ctrl || d.fold.boot.stage == .ready || d.fold.boot.stage == .recovery)

/-- A host access to a register whose domain is not ON: its offset and kind are latched and DARK_ACCESS raised (R558). -/
def darkAccess (addr : Nat) (write : Bool) (d : Dev) : Dev :=
  raiseLeaf (onSys d (fun y => { y with darkAddr := addr, darkWrite := write })) 0 9

/-- What a host's read of a register returns. -/
def emitRead (d : Dev) (addr val : Nat) : Dev := emit d .hostRead addr [(val : Int)]

/-- A host's read of the register at `addr`, which lies in domain `dom`: all ones where it is dark (R558). -/
def hostReads (dom addr : Nat) (f : Dev → Dev) (d : Dev) : Dev :=
  if ¬ bar0Answers d then d
  else if ¬ domOn d dom then emitRead (darkAccess addr false d) addr 0xFFFFFFFF
  else f d

/-- A host's write of the register at `addr`, which lies in domain `dom`: dropped where it is dark (R558). -/
def hostWrites (dom addr : Nat) (f : Dev → Dev) (d : Dev) : Dev :=
  if ¬ bar0Answers d then d
  else if ¬ domOn d dom then darkAccess addr true d
  else f d

/-! ### Replies and epochs -/

/-- The code of a status (R513). -/
def statusCode (st : Status) : Nat :=
  match st with
  | .done => 0x0000 | .deferred => 0x0001 | .accepted => 0x0002 | .badOpcode => 0x0100 | .badLength => 0x0101
  | .badParam => 0x0102 | .badCheck => 0x0103 | .notOwner => 0x0200 | .needsPresence => 0x0201 | .sealed => 0x0202
  | .staleEpoch => 0x0300 | .busy => 0x0301 | .noResource => 0x0302 | .dark => 0x0400 | .internal => 0x0500

/-- Ring pair `r`. -/
def ringOf (d : Dev) (r : Nat) : Ring := tgetD d.sys.rings r Ring.reset

/-- Session `k`. -/
def sessOf (d : Dev) (k : Nat) : Sess := tgetD d.sys.sess k Sess.reset

/-- The device with ring pair `r` changed. -/
def onRing (d : Dev) (r : Nat) (f : Ring → Ring) : Dev := onSys d (fun y => { y with rings := tupd y.rings r Ring.reset f })

/-- The device with session `k` changed. -/
def onSess (d : Dev) (k : Nat) (f : Sess → Sess) : Dev := onSys d (fun y => { y with sess := tupd y.sess k Sess.reset f })

/-- Whether the completion ring has a free slot (R522). -/
def cqFree (g : Ring) : Bool := decide ((g.cqTail + 1) % 256 ≠ g.cqHead)

/-- Whether the completion ring takes replies: enabled, and not stopped by a PCIe error (R523, R536). -/
def cqWorks (g : Ring) : Bool := g.en && !(g.stopped && g.err == 2)

/-- The data of a reply as bytes: the four of a refusal (R510), or the values laid out as the command's table gives them. -/
def replyData (p : Reply) : List Byte :=
  if p.status = .done ∨ p.status = .deferred ∨ p.status = .accepted then shaped (replyShape p.opcode).1 (replyShape p.opcode).2 p.data
  else shaped [(1, 0), (1, 0), (2, 0)] (1, 0) p.data

/-- A reply as bytes (R509). -/
def replyBytes (p : Reply) : List Byte :=
  let head := layBytes [(2, p.opcode + 0x8000 * b2n p.bit15), (2, p.seq.toNat), (2, (replyData p).length), (2, statusCode p.status), (4, p.epoch.toNat)]
  head ++ leBytes (checkOf head (replyData p)).toNat 4 ++ replyData p

/-- A reply written to completion slot CQ_TAIL: CQ_TAIL advances, the write-back word follows, RING_DONE is raised
(R522). -/
def cqWrite (d : Dev) (r : Nat) (p : Reply) : Dev :=
  raiseLeaf (onRing d r (fun g =>
    { g with cq := tset g.cq g.cqTail (replyBytes p), cqTail := (g.cqTail + 1) % 256, wbHead := g.sqHead, wbTail := (g.cqTail + 1) % 256 }))
    0 r

/-- A reply sent to ring `r`: written if a slot is free, else it waits (R522). -/
def cqPost (d : Dev) (r : Nat) (p : Reply) : Dev :=
  if ¬ cqWorks (ringOf d r) then d
  else if cqFree (ringOf d r) ∧ (ringOf d r).waiting = [] then cqWrite d r p
  else onRing d r (fun g => { g with waiting := g.waiting ++ [p] })

/-- The replies that waited, written while slots are free: `n` at most. -/
def cqDrain (d : Dev) (r : Nat) (n : Nat) : Dev :=
  match n with
  | 0 => d
  | n + 1 =>
    match (ringOf d r).waiting with
    | [] => d
    | p :: rest =>
      if cqFree (ringOf d r) then cqDrain (cqWrite (onRing d r (fun g => { g with waiting := rest })) r p) r n else d

/-- A datagram of session `k`: its TYPE, its COUNTER, and its body (R525 to R527). -/
def datagram (d : Dev) (k type : Nat) (body : List Int) : Dev := emit d .datagram k ((type : Int) :: (sessOf d k).txCtr.toNat :: body)

/-- A reply sent on its transport: a session's goes out as a REPLY datagram with the next COUNTER and is kept (R527). -/
def sendReply (d : Dev) (tr : Option Transport) (p : Reply) : Dev :=
  match tr with
  | none => d
  | some (.ring r) => cqPost d r p
  | some (.session k) =>
    if (sessOf d k).st = .opened then
      datagram (onSess d k (fun x => { x with txCtr := x.txCtr + 1, lastReply := some p })) k 6 (wireVals (replyBytes p))
    else d

/-- The largest epoch all of whose changes, and all before it, are in force (R519). -/
def epochInForce (y : SysState) : Word :=
  match y.outstanding with
  | [] => y.epochStaged
  | e :: _ => e - 1

/-- A change has taken effect: its epoch is outstanding no more (R519). -/
def epochDone (d : Dev) (e : Word) : Dev := onSys d (fun y => { y with outstanding := y.outstanding.erase e })

/-- The first reply to a command, with its status and data; a success is answered only when RESPONSE_WANTED was set
(R511). -/
def answer (d : Dev) (c : ReplyCtx) (st : Status) (data : List Nat) : Dev :=
  if c.wanted ∨ ¬ (st = .done ∨ st = .deferred ∨ st = .accepted) then
    sendReply d c.tr { opcode := c.op, bit15 := false, seq := c.seq, status := st, epoch := c.epoch, data := data }
  else d

/-- The follow-up of a DEFERRED or ACCEPTED command, and CMD_COMPLETE (R512). -/
def followUp (d : Dev) (c : ReplyCtx) (st : Status) (data : List Nat) : Dev :=
  raiseLeaf
    (sendReply (epochDone d c.epoch) c.tr
      { opcode := c.op, bit15 := true, seq := c.seq, status := st, epoch := c.epoch, data := data }) 0 10

/-- The data of a refusal: the reason byte, zero, and the offset of the field at fault (R510). -/
def refusalData (reason field : Nat) : List Nat := [reason, 0, field]

/-- No field at fault (R510). -/
def noField : Nat := 0xFFFF

/-- The offset of the first field at fault, among fields in the order of their offsets, each with whether it is in order (R510; log 143). -/
def firstBad (fields : List (Bool × Nat)) : Nat :=
  match fields with
  | [] => noField
  | (ok, offset) :: rest => if ok then firstBad rest else offset

/-- The field that a refusal names: BAD_PARAM alone finds a field at fault (R510, R513; log 143). -/
def faultOf (st : Status) (offset : Nat) : Nat := if st = .badParam then offset else noField

/-! ### The checks of a packet -/

/-- What a command's own conditions and effect come to. Each form that changes state gives the changed device; those
that end later take the reply's context. -/
inductive ActResult where
  /-- Refused, with status, reason byte and field at fault. -/
  | refuse (st : Status) (reason field : Nat)
  /-- Refused as before, with what the refusal itself counts and raises. -/
  | refuseWith (st : Status) (reason field : Nat) (d : Dev)
  /-- A read: DONE at dequeue, the epoch unchanged. -/
  | read (data : List Nat) (d : Dev)
  /-- A command that acts at dequeue. -/
  | now (data : List Nat) (d : Dev)
  /-- A change staged for a bell: whether it is answered ACCEPTED, the number chosen, the data of its DONE reply, and the domain it waits for. -/
  | stage (accepted : Bool) (pick : Nat) (data : List Nat) (wait : Option Nat) (d : Dev)
  /-- Answered ACCEPTED; a job of the device sends the follow-up. Its epoch is in force from a bell on, or at once (R519). -/
  | accepted (atBell : Bool) (f : ReplyCtx → Dev)
  /-- Answered DEFERRED; the command acts by itself later. -/
  | deferred (f : ReplyCtx → Dev)
  /-- Neither refused nor answered yet: DONE comes when a unit is ready. -/
  | later (f : ReplyCtx → Dev)

/-- Whether the OWNER byte names the transport (R516). -/
def ownerOk (h : CmdHdr) : Bool :=
  match h.tr with
  | .ring _ => h.owner == 0x01#8
  | .session k => h.owner == BitVec.ofNat 8 (0x10 + k)

/-- Whether the transport may change anything: a session opened with ROLE 0 may not (R517). -/
def mayChange (d : Dev) (h : CmdHdr) : Bool :=
  match h.tr with
  | .ring _ => true
  | .session k => decide ((sessOf d k).role = 1)

/-- Whether the opcode is defined (R529). -/
def isDefined (c : KCmd) : Bool :=
  match c with
  | .undefinedOpcode _ => false
  | _ => true

/-- The checks of R514 steps 1 to 8, the first that fails; `gated` and `doms` are the command's presence gate and the
domains it reads or changes. -/
def kChecks (d : Dev) (h : CmdHdr) (c : KCmd) (gated : Bool) (doms : List Nat) : Option Status :=
  if ¬ checkHolds h c then some .badCheck
  else if h.lengthOver then some .badLength
  else if ¬ isDefined c ∨ h.reservedFlag then some .badOpcode
  else if ¬ lengthFits h c then some .badLength
  else if ¬ ownerOk h ∨ (¬ kIsRead c ∧ ¬ mayChange d h) then some .notOwner
  else if gated ∧ ¬ d.fold.guard.sealIntact then some .sealed
  else if gated ∧ (d.fold.guard.window = .shut ∨ ¬ h.presenceExpected) then some .needsPresence
  else if h.epochCheck ∧ h.expEpoch ≠ d.sys.epochStaged then some .staleEpoch
  else if doms.any (fun k => !domOn d k) then some .dark
  else none

/-- The reply context of a packet at its dequeue. -/
def hdrCtx (d : Dev) (h : CmdHdr) (c : KCmd) : ReplyCtx :=
  { tr := some h.tr, op := kOpcode c, seq := h.seq, wanted := h.respWanted, epoch := d.sys.epochStaged }

/-- A refusal: the reply is written whatever RESPONSE_WANTED says, and nothing else changes but the count of presence
refusals (R500) and the INTERNAL leaf (R513). -/
def kRefuse (d : Dev) (h : CmdHdr) (c : KCmd) (st : Status) (reason field : Nat) : Dev :=
  let d := answer d (hdrCtx d h c) st (refusalData reason field)
  let d := if st = .sealed ∨ st = .needsPresence then onGuard d (fun g => { g with denied := satInc g.denied }) else d
  raiseIf (decide (st = .internal)) d 0 11

/-- An accepted changing command advances EPOCH_STAGED; its change is outstanding until it takes effect (R519). -/
def kAdvance (d : Dev) (h : CmdHdr) (c : KCmd) (keep : Bool) : Dev × ReplyCtx :=
  let e := d.sys.epochStaged + 1
  (onSys d (fun y => { y with epochStaged := e, outstanding := if keep then y.outstanding ++ [e] else y.outstanding }),
    { hdrCtx d h c with epoch := e })

/-- An accepted presence-gated command closes a button window (R500). -/
def closeButton (gated : Bool) (d : Dev) : Dev :=
  if gated ∧ d.fold.guard.window = .button then onGuard d (fun g => { g with window := .shut, endTick := 0 }) else d

/-- What follows from a command's own conditions and effect (R511 to R514, R519). -/
def kFinish (h : CmdHdr) (c : KCmd) (gated : Bool) (d : Dev) (r : ActResult) : Dev :=
  match r with
  | .refuse st reason field => kRefuse d h c st reason field
  | .refuseWith st reason field e => kRefuse e h c st reason field
  | .read data e => answer e (hdrCtx d h c) .done data
  | .now data e =>
    let (e, x) := kAdvance (closeButton gated e) h c false
    answer e x .done data
  | .stage acc pick data wait e =>
    let (e, x) := kAdvance (closeButton gated e) h c true
    let e := onSys e (fun y => { y with staged := y.staged ++ [{ change := .kervon c pick, ctx := x, data := data, accepted := acc, armed := false, waitDomain := wait }] })
    if acc then answer e x .accepted [] else e
  | .accepted atBell f =>
    let x : ReplyCtx := { hdrCtx d h c with epoch := d.sys.epochStaged + 1 }
    answer (kAdvance (closeButton gated (f x)) h c atBell).1 x .accepted []
  | .deferred f =>
    let x : ReplyCtx := { hdrCtx d h c with epoch := d.sys.epochStaged + 1 }
    answer (kAdvance (closeButton gated (f x)) h c true).1 x .deferred []
  | .later f =>
    let x : ReplyCtx := { hdrCtx d h c with epoch := d.sys.epochStaged + 1 }
    (kAdvance (closeButton gated (f x)) h c true).1

/-- Whether the control cores dequeue commands (R518, R567, R574): from CTRL on, not in Winter, and not while the
control-core firmware is being swapped. -/
def kServing (d : Dev) : Bool :=
  (d.fold.boot.stage == .ctrl || d.fold.boot.stage == .ready || d.fold.boot.stage == .recovery)
    && !(d.pwr.season == .winter) && d.aux.swapState != 1

/-- Whether admission is closed: a Winter entry is under way (R566). -/
def admissionClosed (d : Dev) : Bool := d.pwr.phase == .entering

/-- The packet checked and acted on: `v` is the device as every change staged so far will leave it, which the command's
own conditions see (R17). A packet that nothing dequeues changes nothing. -/
def kRun (v : Dev) (h : CmdHdr) (c : KCmd) (gated : Bool) (doms : List Nat) (act : Dev → Dev → ActResult) (d : Dev) : Dev :=
  if ¬ kServing d then d
  else if d.fold.boot.stage = .recovery ∧ h.tr ≠ .ring 0 then d
  else
    match kChecks d h c gated doms with
    | some st => kRefuse d h c st (if st = .needsPresence ∧ (kOpcode c = 0x0150 ∨ kOpcode c = 0x0152) then 4 else 0) noField
    | none =>
      if d.fold.boot.stage = .recovery ∧ kOpcode c ≠ 0x0131 then kRefuse d h c .busy 0 noField
      else if admissionClosed d ∧ ¬ kIsRead c then kRefuse d h c .busy 0 noField
      else kFinish h c gated d (act v d)

end Sys2Proof.Machine
end

