-- ==== Sys2Proof/Machine/Parse.lean ====
section
/-! DEFINITION. Parsing and classification (chapter 12): header stacks, the key, lookup, hashing and fragments. -/

namespace Sys2Proof.Machine

/-! ### Reading a frame -/

/-- Byte `i` of a frame. -/
def byteAt (bs : List Byte) (i : Nat) : Nat := (bs.getD i 0).toNat

/-- `n` bytes of a frame from offset `i`, most significant first. -/
def beAt (bs : List Byte) (i n : Nat) : Nat := (List.range n).foldl (fun a k => a * 256 + byteAt bs (i + k)) 0

/-- The fields of a packet's key (R380). -/
structure PKey where
  inport : Nat
  v4 : Bool
  v6 : Bool
  firstFrag : Bool
  laterFrag : Bool
  vxlan : Bool
  mplsSeen : Bool
  gem : Bool
  l4 : Bool
  kind : Nat
  tags : Nat
  mplsN : Nat
  tciOuter : Nat
  tciInner : Nat
  etype : Nat
  gemPort : Nat
  mpls : Nat
  src : Nat
  dst : Nat
  proto : Nat
  tc : Nat
  sport : Nat
  dport : Nat
  tcpFlags : Nat
  vni : Nat
deriving DecidableEq, Repr

/-- The key of a packet none of whose headers has been read. -/
def pKeyBlank (inport : Nat) (gem : Option Nat) : PKey :=
  { inport := inport, v4 := false, v6 := false, firstFrag := false, laterFrag := false, vxlan := false, mplsSeen := false,
    gem := gem.isSome, l4 := false, kind := 0, tags := 0, mplsN := 0, tciOuter := 0, tciInner := 0, etype := 0,
    gemPort := gem.getD 0, mpls := 0, src := 0, dst := 0, proto := 0, tc := 0, sport := 0, dport := 0, tcpFlags := 0,
    vni := 0 }

/-- The key as 64 bytes, byte 0 most significant (R380). -/
def pKeyBits (k : PKey) : BitVec 512 :=
  let flags := b2n k.v4 + 2 * b2n k.v6 + 4 * b2n k.firstFrag + 8 * b2n k.laterFrag + 16 * b2n k.vxlan
    + 32 * b2n k.mplsSeen + 64 * b2n k.gem + 128 * b2n k.l4
  let fields : List (Nat × Nat) :=
    [(k.inport, 1), (flags, 1), (k.kind, 1), (k.tags + 16 * k.mplsN, 1), (k.tciOuter, 2), (k.tciInner, 2), (k.etype, 2),
     (k.gemPort, 2), (k.mpls, 4), (k.src, 16), (k.dst, 16), (k.proto, 1), (k.tc, 1), (k.sport, 2), (k.dport, 2),
     (k.tcpFlags, 1), (k.vni, 3), (0, 6)]
  BitVec.ofNat 512 (fields.foldl (fun a f => a * 256 ^ f.2 + f.1 % 256 ^ f.2) 0)

/-- What parsing stands before (R375). -/
inductive NextHdr where
  | eth
  | ether (etype : Nat)
  | mpls
  | ip4
  | ip6
  | ext (nh : Nat) (first : Bool)
  | finished
deriving DecidableEq, Repr

/-- The parser's position: offset, headers read, tags after this Ethernet header, whether it is the outermost, MPLS entries
of this stack, the end of the IP packet, and whether the packet is fragmented. -/
structure PPos where
  off : Nat
  hdrs : Nat
  tagsHere : Nat
  outer : Bool
  stack : Nat
  ipEnd : Nat
  fragmented : Bool
  key : PKey
  frag : Option FragKey
deriving DecidableEq, Repr

/-- A failure of R376 to R378: case (1 PARSE_FAIL, 2 TOO_DEEP, 3 LEN_CONTRA), byte offset and header index (R379). -/
structure PFail where
  kase : Nat
  off : Nat
  hdr : Nat
deriving DecidableEq, Repr

/-- A failure at the header that stands at the parser's position. -/
def pFail (p : PPos) (kase : Nat) : Except PFail (PPos × NextHdr) := .error { kase := kase, off := min p.off 512, hdr := p.hdrs + 1 }

/-- A header of `n` bytes read: it may be neither the 25th nor end beyond byte 512 (R376), and the frame may not end in
it (R378). -/
def pTake (bs : List Byte) (p : PPos) (n : Nat) (k : PPos → Except PFail (PPos × NextHdr)) : Except PFail (PPos × NextHdr) :=
  if p.hdrs + 1 ≥ 25 ∨ p.off + n > 512 then pFail p 2
  else if p.off + n > bs.length then pFail p 3
  else k { p with off := p.off + n, hdrs := p.hdrs + 1 }

/-- The one's-complement sum of an IPv4 header. -/
def ip4Sum (bs : List Byte) (off words : Nat) : Nat :=
  let s := sumN ((List.range words).map (fun i => beAt bs (off + 2 * i) 2))
  let s := s / 65536 + s % 65536
  s / 65536 + s % 65536

/-- The payload kind of a UDP packet (R380), by its first two bytes. -/
def udpKind (bs : List Byte) (off ipEnd : Nat) : Nat :=
  if off ≥ 512 then 6
  else if off ≥ ipEnd ∨ off ≥ bs.length then 0
  else
    let a := byteAt bs off
    let b := byteAt bs (off + 1)
    if a ≤ 3 then 1 else if 20 ≤ a ∧ a ≤ 63 then 2
    else if 128 ≤ a ∧ a ≤ 191 then (if 192 ≤ b ∧ b ≤ 223 then 4 else 3) else 5

/-- An Ethernet header (R375). -/
def pEth (bs : List Byte) (p : PPos) : Except PFail (PPos × NextHdr) :=
  pTake bs p 14 fun q =>
    let et := beAt bs (p.off + 12) 2
    .ok ({ q with tagsHere := 0, stack := 0, outer := p.hdrs == 0, key := { q.key with etype := et } }, .ether et)

/-- A tag, an MPLS stack, an IP header or the end of parsing, by EtherType (R375, R376). -/
def pEther (bs : List Byte) (p : PPos) (et : Nat) : Except PFail (PPos × NextHdr) :=
  if et = 0x8100 ∨ et = 0x88A8 then
    if p.tagsHere ≥ 3 then pFail p 2
    else pTake bs p 4 fun q =>
      let tci := beAt bs p.off 2
      let et' := beAt bs (p.off + 2) 2
      let key := { q.key with etype := et' }
      let key := if p.outer then
          { key with tags := p.tagsHere + 1, tciInner := tci, tciOuter := if p.tagsHere = 0 then tci else key.tciOuter }
        else key
      .ok ({ q with tagsHere := p.tagsHere + 1, key := key }, .ether et')
  else if et = 0x8847 ∨ et = 0x8848 then .ok (p, .mpls)
  else if et = 0x0800 then .ok (p, .ip4)
  else if et = 0x86DD then .ok (p, .ip6)
  else .ok (p, .finished)

/-- An MPLS entry (R375, R376). -/
def pMpls (bs : List Byte) (p : PPos) : Except PFail (PPos × NextHdr) :=
  if p.stack ≥ 6 then pFail p 2
  else pTake bs p 4 fun q =>
    let e := beAt bs p.off 4
    let key := { q.key with mplsSeen := true, mplsN := if p.outer then p.stack + 1 else q.key.mplsN,
                            mpls := if q.key.mplsSeen then q.key.mpls else e }
    let q := { q with stack := p.stack + 1, key := key }
    if e / 256 % 2 = 0 then .ok (q, .mpls)
    else if q.off ≥ bs.length then .ok (q, .finished)
    else if byteAt bs q.off / 16 = 4 then .ok (q, .ip4)
    else if byteAt bs q.off / 16 = 6 then .ok (q, .ip6)
    else .ok (q, .finished)

/-- The key with the fields of an inner IP header's predecessors cleared: IP and L4 fields are the innermost's (R380). -/
def pInnerIp (k : PKey) (v6 : Bool) : PKey :=
  { k with v4 := !v6, v6 := v6, firstFrag := false, laterFrag := false, l4 := false, kind := 0, sport := 0, dport := 0, tcpFlags := 0 }

/-- An IPv4 header (R375, R377, R378, R389). -/
def pIp4 (bs : List Byte) (p : PPos) : Except PFail (PPos × NextHdr) :=
  let b0 := byteAt bs p.off
  let ihl := b0 % 16
  let tl := beAt bs (p.off + 2) 2
  let fo := beAt bs (p.off + 6) 2
  if p.off + 20 > bs.length then (if p.hdrs + 1 ≥ 25 ∨ p.off + 20 > 512 then pFail p 2 else pFail p 3)
  else if b0 / 16 ≠ 4 ∨ ihl < 5 then pFail p 1
  else if tl < ihl * 4 ∨ p.off + tl > bs.length then pFail p 3
  else pTake bs p (ihl * 4) fun q =>
    if ip4Sum bs p.off (ihl * 2) ≠ 0xFFFF then pFail p 1
    else
      let proto := byteAt bs (p.off + 9)
      let src := 0xFFFF * 2 ^ 32 + beAt bs (p.off + 12) 4
      let dst := 0xFFFF * 2 ^ 32 + beAt bs (p.off + 16) 4
      let offset := fo % 8192
      let mf := fo / 8192 % 2 = 1
      let first := offset = 0 ∧ mf
      let later := offset ≠ 0
      let fk : FragKey := { v6 := false, src := src, dst := dst, ident := beAt bs (p.off + 4) 2, proto := proto }
      let key := { pInnerIp q.key false with src := src, dst := dst, proto := proto, tc := byteAt bs (p.off + 1),
                                             firstFrag := first, laterFrag := later }
      let q := { q with ipEnd := p.off + tl, key := key, fragmented := first ∨ later,
                        frag := if first ∨ later then some fk else none }
      if later then .ok (q, .finished) else .ok (q, .ext proto false)

/-- An IPv6 header (R375, R377, R378). -/
def pIp6 (bs : List Byte) (p : PPos) : Except PFail (PPos × NextHdr) :=
  pTake bs p 40 fun q =>
    let pl := beAt bs (p.off + 4) 2
    if byteAt bs p.off / 16 ≠ 6 ∨ pl = 0 then pFail p 1
    else if p.off + 40 + pl > bs.length then pFail p 3
    else
      let nh := byteAt bs (p.off + 6)
      let key := { pInnerIp q.key true with src := beAt bs (p.off + 8) 16, dst := beAt bs (p.off + 24) 16, proto := nh,
                                            tc := beAt bs p.off 2 / 16 % 256 }
      .ok ({ q with ipEnd := p.off + 40 + pl, key := key, fragmented := false, frag := none }, .ext nh true)

/-- A VXLAN header and the inner Ethernet header it leads to (R375, R377, R378). -/
def pVxlan (bs : List Byte) (p : PPos) : Except PFail (PPos × NextHdr) :=
  pTake bs p 8 fun q =>
    if byteAt bs p.off / 8 % 2 = 0 then pFail p 1
    else .ok ({ q with key := { q.key with vxlan := true, vni := if q.key.vxlan then q.key.vni else beAt bs (p.off + 4) 3 } }, .eth)

/-- A UDP header (R375, R378). -/
def pUdp (vx : Nat) (bs : List Byte) (p : PPos) : Except PFail (PPos × NextHdr) :=
  pTake bs p 8 fun q =>
    let ul := beAt bs (p.off + 4) 2
    let left := p.ipEnd - p.off
    if ul < 8 ∨ left < 8 ∨ (¬ p.fragmented ∧ ul ≠ left) ∨ (p.fragmented ∧ ul < left) then pFail p 3
    else
      let dp := beAt bs (p.off + 2) 2
      let q := { q with key := { q.key with l4 := true, sport := beAt bs p.off 2, dport := dp, kind := udpKind bs q.off p.ipEnd } }
      if dp = vx then pVxlan bs q else .ok (q, .finished)

/-- A TCP header (R375, R377, R378). -/
def pTcp (bs : List Byte) (p : PPos) : Except PFail (PPos × NextHdr) :=
  let doff := byteAt bs (p.off + 12) / 16
  if p.off + 20 > p.ipEnd then pFail p 3
  else if doff < 5 ∧ p.off + 20 ≤ bs.length then pFail p 1
  else if p.off + doff * 4 > p.ipEnd then pFail p 3
  else pTake bs p (doff * 4) fun q =>
    .ok ({ q with key := { q.key with l4 := true, sport := beAt bs p.off 2, dport := beAt bs (p.off + 2) 2,
                                      tcpFlags := byteAt bs (p.off + 13) } }, .finished)

/-- What follows an IP header: an extension header of IPv6, UDP, TCP or the end (R375, R377, R389). -/
def pExt (vx : Nat) (bs : List Byte) (p : PPos) (nh : Nat) (first : Bool) : Except PFail (PPos × NextHdr) :=
  if nh = 17 then pUdp vx bs p
  else if nh = 6 then pTcp bs p
  else if ¬ p.key.v6 then .ok (p, .finished)
  else if nh = 0 ∧ ¬ first then pFail p 1
  else if nh = 0 ∨ nh = 43 ∨ nh = 60 then
    let n := (byteAt bs (p.off + 1) + 1) * 8
    if p.off + n > p.ipEnd then pFail p 3
    else pTake bs p n fun q =>
      let nn := byteAt bs p.off
      .ok ({ q with key := { q.key with proto := nn } }, .ext nn false)
  else if nh = 44 then
    if p.off + 8 > p.ipEnd then pFail p 3
    else pTake bs p 8 fun q =>
      let nn := byteAt bs p.off
      let fo := beAt bs (p.off + 2) 2
      let offset := fo / 8
      let m := fo % 2 = 1
      let isFirst := offset = 0 ∧ m
      let later := offset ≠ 0
      let fk : FragKey := { v6 := true, src := q.key.src, dst := q.key.dst, ident := beAt bs (p.off + 4) 4, proto := nn }
      let key := { q.key with proto := nn, firstFrag := isFirst, laterFrag := later }
      let q := { q with key := key, fragmented := isFirst ∨ later, frag := if isFirst ∨ later then some fk else none }
      if later then .ok (q, .finished) else .ok (q, .ext nn false)
  else .ok (p, .finished)

/-- One step of the parser. -/
def pStep (vx : Nat) (bs : List Byte) (p : PPos) (n : NextHdr) : Except PFail (PPos × NextHdr) :=
  match n with
  | .eth => pEth bs p
  | .ether et => pEther bs p et
  | .mpls => pMpls bs p
  | .ip4 => pIp4 bs p
  | .ip6 => pIp6 bs p
  | .ext nh first => pExt vx bs p nh first
  | .finished => .ok (p, .finished)

/-- The parser run to its end: every step but a change of EtherType reads one of at most 24 headers. -/
def pRun (vx : Nat) (bs : List Byte) (p : PPos) (n : NextHdr) (fuel : Nat) : PPos × Option PFail :=
  match fuel with
  | 0 => (p, none)
  | fuel + 1 =>
    match n with
    | .finished => (p, none)
    | _ =>
      match pStep vx bs p n with
      | .error e => (p, some e)
      | .ok (q, m) => pRun vx bs q m fuel

/-- A frame parsed from its Ethernet header: its key, its fragment key and its failure, if any. -/
def parseFrame (vx inport : Nat) (gem : Option Nat) (bs : List Byte) : PPos × Option PFail :=
  pRun vx bs { off := 0, hdrs := 0, tagsHere := 0, outer := true, stack := 0, ipEnd := 0, fragmented := false,
               key := pKeyBlank inport gem, frag := none } .eth 64

/-! ### Tables -/

/-- The device with PARSE changed. -/
def onParse (d : Dev) (f : ParseState → ParseState) : Dev := { d with parse := f d.parse }

/-- The pipeline of an ingress port (R373). -/
def pipeOf (port : Nat) : Nat := if port ≤ 5 then 1 else 0

/-- Whether a port of R373 exists. -/
def parsePortExists (q : Nat) : Bool := q ≤ 5 || (8 ≤ q && q ≤ 14)

/-- Pipeline `j`'s registers. -/
def pipeRegs (d : Dev) (j : Nat) : PipeRegs := tgetD d.parse.pipes j PipeRegs.reset

/-- Port `q`'s registers. -/
def parsePort (d : Dev) (q : Nat) : ParsePort := tgetD d.parse.ports q ParsePort.reset

/-- The device with pipeline `j`'s registers changed. -/
def onPipe (d : Dev) (j : Nat) (f : PipeRegs → PipeRegs) : Dev :=
  onParse d (fun s => { s with pipes := tupd s.pipes j PipeRegs.reset f })

/-- The device with PARSE port `q`'s registers changed. -/
def onParsePort (d : Dev) (q : Nat) (f : ParsePort → ParsePort) : Dev :=
  onParse d (fun s => { s with ports := tupd s.ports q ParsePort.reset f })

/-- HASH_PROF_p.FIELDS (R399). -/
def hashFieldsOf (d : Dev) (p : Nat) : Nat := tgetD d.parse.hashFields p 0x01F

/-- HASH_SEED_p (R399). -/
def hashSeedOf (d : Dev) (p : Nat) : Word := tgetD d.parse.hashSeed p 0

/-- Entry `i` of indirection table `t` (R388). Before BOOT_STAGE reads READY the control cores fill the placement tables, so there an entry that nothing has
written since names engine `i` mod 256 and is valid (R91). -/
def indirOf (d : Dev) (t i : Nat) : Nat :=
  tgetD d.parse.indir (512 * t + i) (if t < 8 ∧ d.fold.boot.stage = .ready then i % 256 + 2 ^ 15 else 0)

/-- The hash input of a symmetric profile (R387): the endpoints in order. -/
def symInput (seed : Word) (src sport dst dport proto : Nat) : List Byte :=
  let a := src * 65536 + sport
  let b := dst * 65536 + dport
  let (lo, hi) := if a > b then (b, a) else (a, b)
  beBytes seed.toNat 4 ++ beBytes lo 18 ++ beBytes hi 18 ++ beBytes proto 1

/-- The hash input of a profile that is not symmetric (R387). -/
def asymInput (seed : Word) (fields : Nat) (k : PKey) : List Byte :=
  let parts : List (Nat × Nat) :=
    [(k.src, 16), (k.dst, 16), (k.sport, 2), (k.dport, 2), (k.proto, 1), (k.vni, 3), (k.tciOuter % 4096, 2), (k.gemPort, 2),
     (k.mpls / 4096, 3)]
  beBytes seed.toNat 4
    ++ (parts.zipIdx.map (fun e => if fields / 2 ^ e.2 % 2 = 1 then beBytes e.1.1 e.1.2 else [])).flatten

/-- The index into an indirection table: bits [8:0] of the CRC-32C (R387). -/
def hashIndex (bs : List Byte) : Nat := (crc32c bs).toNat % 512

/-- The index a packet takes in profile `p` (R386, R387). -/
def packetIndex (d : Dev) (p : Nat) (k : PKey) : Nat :=
  if p ≤ 7 then hashIndex (symInput (hashSeedOf d p) k.src k.sport k.dst k.dport k.proto)
  else hashIndex (asymInput (hashSeedOf d p) (hashFieldsOf d p) k)

/-- Where an indirection entry leads, if it is valid (R388). -/
def indirDest (t e : Nat) : Option DestRes :=
  if t ≤ 7 then (if e / 2 ^ 15 % 2 = 1 then some (.engine (e % 256)) else none)
  else
    match e / 2 ^ 14 % 4 with
    | 1 => some (.queue (e % 8192))
    | 2 => some (.engine (e % 256))
    | _ => none

/-- The decision of an action, its hash resolved; none where an indirection entry is invalid (R384, R388). -/
def resolveAction (d : Dev) (k : PKey) (a : ActionRec) : Option Decision :=
  let mk (x : DestRes) : Decision :=
    { dest := x, cls := a.cls, colour := a.colour, policer := a.policer, push := a.pushTci, tpid := a.pushTpid, leg := none }
  match a.dest with
  | 0 => some (mk (.queue a.target))
  | 1 => some (mk (.engine a.target))
  | 2 => (indirDest a.target (indirOf d a.target (packetIndex d a.target k))).map mk
  | 3 => some (mk .control)
  | 5 => some (mk (.cut a.target))
  | _ => some (mk .drop)

/-- The decision that drops a packet. -/
def dropDecision : Decision :=
  { dest := .drop, cls := 0, colour := 0, policer := 0xFFFF, push := 0, tpid := false, leg := none }

/-- A port's default action taken, for any cause: DEFAULT_j advances (R397). A default action whose own indirection
entry is invalid drops the packet (log 12). -/
def takeDefault (d : Dev) (q : Nat) (k : PKey) : Decision × Dev :=
  ((resolveAction d k (parsePort d q).action).getD dropDecision, onPipe d (pipeOf q) (fun r => { r with dflt := satInc r.dflt }))

/-- No match: NO_MATCH_q advances and the default action is taken (R381, R388). -/
def noMatch (d : Dev) (q : Nat) (k : PKey) : Decision × Dev :=
  takeDefault (onParsePort d q (fun r => { r with noMatch := satInc r.noMatch })) q k

/-- The failure of a packet counted, latched and raised, and the default action taken (R376 to R379, R400). -/
def parseFailure (d : Dev) (q : Nat) (k : PKey) (f : PFail) : Decision × Dev :=
  let d := onParsePort d q (fun r =>
    { r with failOff := f.off, failCase := f.kase, failHdr := f.hdr,
             parseFail := if f.kase = 1 then satInc r.parseFail else r.parseFail,
             tooDeep := if f.kase = 2 then satInc r.tooDeep else r.tooDeep,
             lenContra := if f.kase = 3 then satInc r.lenContra else r.lenContra })
  takeDefault (raiseLeaf d 13 (16 * pipeOf q + (f.kase - 1))) q k

/-- The exact-match entry that a key hits, by LEG_ID (R382). -/
def exactFind (d : Dev) (j : Nat) (k : PKey) : Option (Nat × ExactEnt) :=
  if k.proto = 17 ∧ k.l4 then
    d.parse.exact.find? (fun e =>
      e.2.pipe == j && e.2.rIp == k.src && e.2.rPort == k.sport && e.2.lIp == k.dst && e.2.lPort == k.dport)
  else none

/-- The lowest rule of a pipeline that matches a key: (key AND mask) = (value AND mask) (R383). -/
def ruleFind (d : Dev) (j : Nat) (k : PKey) : Option (Nat × RuleEnt) :=
  let b := pKeyBits k
  d.parse.rules.find? (fun e => e.1 / 4096 == j && b &&& e.2.rule.mask == e.2.rule.value &&& e.2.rule.mask)

/-- Steps 5 and 6 of R381: the rule table, then the default action. -/
def byRules (d : Dev) (q : Nat) (k : PKey) : Decision × Dev :=
  let j := pipeOf q
  match ruleFind d j k with
  | none => noMatch d q k
  | some (i, e) =>
    let d := onParse d (fun s => { s with rules := tmod s.rules i (fun r => { r with hits := r.hits + 1 }) })
    let d := onPipe d j (fun r => { r with ruleHit := satInc r.ruleHit })
    match resolveAction d k e.rule.action with
    | some x => (x, d)
    | none => noMatch d q k

/-- Whether a management session has a station at address `a` and port `p`: the control cores install an exact-match entry for each on
pipeline 1, from its HELLO to its end (R382, R524, R526; log 12). -/
def sessionAt (d : Dev) (a p : Nat) : Bool := d.sys.sess.any (fun e => e.2.st != .free && e.2.addr == a && e.2.port == p)

/-- Whether a key hits the exact-match entry of a management session (R382, R524). -/
def sessionHit (d : Dev) (j : Nat) (k : PKey) : Bool :=
  j == 1 && k.proto == 17 && k.l4 && k.dst == d.sys.mgmtAddr && k.dport == d.sys.mgmtPort && sessionAt d k.src k.sport

/-- Steps 4 to 6 of R381: the exact-match table first. A hit delivers to the pinned engine, or to the one that the leg's
profile gives (R382). -/
def byTables (d : Dev) (q : Nat) (k : PKey) : Decision × Dev :=
  let j := pipeOf q
  match exactFind d j k with
  | none =>
    if sessionHit d j k then
      ({ dropDecision with dest := .control, cls := (pipeRegs d j).legClass }, onPipe d j (fun r => { r with exactHit := satInc r.exactHit }))
    else byRules d q k
  | some (leg, e) =>
    let d := onPipe d j (fun r => { r with exactHit := satInc r.exactHit })
    let mk (x : DestRes) : Decision :=
      { dest := x, cls := (pipeRegs d j).legClass, colour := 0, policer := 0xFFFF, push := 0, tpid := false, leg := some leg }
    match e.pinned with
    | some n => (mk (.engine n), d)
    | none =>
      match indirDest e.profile (indirOf d e.profile (packetIndex d e.profile k)) with
      | some x => (mk x, d)
      | none => noMatch d q k

/-- The fragment entry of a key (R390). -/
def fragFind (d : Dev) (j : Nat) (fk : FragKey) : Option FragEnt :=
  d.parse.frags.find? (fun e => e.pipe == j && e.key == fk)

/-- Entries in use in a pipeline's fragment table. -/
def fragInUse (d : Dev) (j : Nat) : Nat := (d.parse.frags.filter (fun e => e.pipe == j)).length

/-- A first fragment's entry installed, replacing one with its key; a full table installs none (R390, R393). -/
def fragInstall (d : Dev) (j : Nat) (fk : FragKey) (x : Decision) : Dev :=
  let e : FragEnt := { pipe := j, key := fk, dec := x, last := d.bell.tick }
  if (fragFind d j fk).isSome then
    onParse d (fun s => { s with frags := s.frags.map (fun f => if f.pipe = j ∧ f.key = fk then e else f) })
  else if fragInUse d j ≥ 4096 then
    raiseLeaf (onPipe d j (fun r => { r with fragFull := satInc r.fragFull })) 13 (16 * j + 4)
  else
    let d := onParse d (fun s => { s with frags := s.frags ++ [e] })
    onPipe d j (fun r => { r with fragHwm := max r.fragHwm (fragInUse d j) })

/-- A non-first fragment: the entry's decision, or the port's out-of-order action (R392). -/
def laterFragment (d : Dev) (q : Nat) (k : PKey) (fk : FragKey) : Decision × Dev :=
  let j := pipeOf q
  match fragFind d j fk with
  | some e =>
    (e.dec, onParse d (fun s => { s with frags := s.frags.map (fun f => if f.pipe = j ∧ f.key = fk then { f with last := d.bell.tick } else f) }))
  | none =>
    let d := raiseLeaf (onParsePort d q (fun r => { r with fragOoo := satInc r.fragOoo })) 13 (16 * j + 3)
    match (parsePort d q).ooo with
    | 1 => takeDefault d q k
    | 2 => ({ dropDecision with dest := .control }, d)
    | 3 =>
      match ruleFind d j k with
      | none => takeDefault d q k
      | some _ => byRules d q k
    | _ => (dropDecision, d)

/-- A packet classified: the first step of R381 that applies, after bindings. -/
def classify (d : Dev) (q : Nat) (gem : Option Nat) (bs : List Byte) : Decision × PKey × Dev :=
  let j := pipeOf q
  let (p, f) := parseFrame (pipeRegs d j).vxlanPort q gem bs
  let d := onPipe d j (fun r => { r with pkts := satInc r.pkts })
  match f, p.frag, p.key.laterFrag with
  | none, some fk, true => let (x, d) := laterFragment d q p.key fk; (x, p.key, d)
  | some e, _, _ => let (x, d) := parseFailure d q p.key e; (x, p.key, d)
  | none, some fk, false =>
    let (x, d) := byTables d q p.key
    if x.dest = .drop then (x, p.key, d) else (x, p.key, fragInstall d j fk x)
  | none, none, _ => let (x, d) := byTables d q p.key; (x, p.key, d)

/-! ### Commands -/

/-- Whether an action holds only defined values (R384, R396). -/
def actionOk (a : ActionRec) : Bool :=
  a.reservedOk && decide (a.colour < 3) && decide (a.cls < 16) && decide (a.dest ≤ 5)
    && (decide (a.policer = 0xFFFF) || decide (a.policer < 16384))
    && match a.dest with
      | 0 => decide (64 ≤ a.target ∧ a.target ≤ 8191)
      | 1 => decide (a.target ≤ 255)
      | 2 => decide (a.target ≤ 63)
      | 5 => decide (a.target ≤ 3)
      | _ => decide (a.target = 0)

/-- The field of an action at fault, the action at offset `base` (R384, R510). -/
def actionFault (base : Nat) (a : ActionRec) : Nat :=
  let target : Bool := match a.dest with
    | 0 => decide (64 ≤ a.target ∧ a.target ≤ 8191)
    | 1 => decide (a.target ≤ 255)
    | 2 => decide (a.target ≤ 63)
    | 5 => decide (a.target ≤ 3)
    | _ => decide (a.target = 0)
  firstBad [(decide (a.dest ≤ 5), base), (decide (a.colour < 3 ∧ a.cls < 16), base + 1), (target, base + 2),
    (decide (a.policer = 0xFFFF ∨ a.policer < 16384), base + 4), (a.reservedOk, base + 9)]

/-- PARSE_RULE_SET (R383, R396). -/
def actParseRuleSet (pipe index : Nat) (rule : RuleRec) (_v d : Dev) : ActResult :=
  if pipe > 1 ∨ index > 4095 ∨ ¬ actionOk rule.action then .refuse .badParam 0 (if pipe > 1 then 0 else if index > 4095 then 1 else actionFault 131 rule.action) else .stage false 0 [] none d

/-- The rule written at its bell, with no hits yet. -/
def applyParseRuleSet (pipe index : Nat) (rule : RuleRec) (d : Dev) : Dev :=
  onParse d (fun s => { s with rules := tset s.rules (4096 * pipe + index) { rule := rule, hits := 0 } })

/-- PARSE_RULE_CLEAR (R396). -/
def actParseRuleClear (pipe first count : Nat) (_v d : Dev) : ActResult :=
  if pipe > 1 ∨ first + count > 4096 ∨ count = 0 then .refuse .badParam 0 (firstBad [(decide (pipe ≤ 1), 0), (decide (first < 4096), 1), (false, 3)]) else .stage false 0 [] none d

/-- The rules removed at their bell. -/
def applyParseRuleClear (pipe first count : Nat) (d : Dev) : Dev :=
  onParse d (fun s => { s with rules := s.rules.filter (fun e => e.1 < 4096 * pipe + first || e.1 ≥ 4096 * pipe + first + count) })

/-- PARSE_RULE_QUERY: the rule in force and its hit count, cleared when asked (R396). -/
def actParseRuleQuery (pipe index : Nat) (clear : Bool) (_v d : Dev) : ActResult :=
  if pipe > 1 ∨ index > 4095 then .refuse .badParam 0 (if pipe > 1 then 0 else 1)
  else
    match tget d.parse.rules (4096 * pipe + index) with
    | none => .read [] d
    | some e =>
      .read (byteData (ruleBytes e.rule ++ leBytes e.hits.toNat 5))
        (if clear then onParse d (fun s => { s with rules := tmod s.rules (4096 * pipe + index) (fun r => { r with hits := 0 }) }) else d)

/-- PARSE_PORT_SET (R396). -/
def actParsePortSet (port : Nat) (action : ActionRec) (ooo : Nat) (_v d : Dev) : ActResult :=
  if ¬ parsePortExists port ∨ ¬ actionOk action ∨ ooo > 3 then .refuse .badParam 0 (if ¬ parsePortExists port then 0 else if ¬ actionOk action then actionFault 1 action else 17) else .stage false 0 [] none d

/-- The default and out-of-order actions written at their bell. -/
def applyParsePortSet (port : Nat) (action : ActionRec) (ooo : Nat) (d : Dev) : Dev :=
  onParsePort d port (fun r => { r with action := action, ooo := ooo })

/-- PARSE_HASH_TABLE_SET (R388, R396). -/
def actParseHashTableSet (profile first : Nat) (entries : List Nat) (_v d : Dev) : ActResult :=
  if profile < 8 ∨ profile > 63 ∨ first + entries.length > 512 ∨ entries = []
      ∨ entries.any (fun e => e / 2 ^ 14 % 4 == 3 || e ≥ 65536) then
    .refuse .badParam 0 (firstBad [(decide (8 ≤ profile ∧ profile ≤ 63), 0), (decide (first < 512), 1), (decide (1 ≤ entries.length ∧ first + entries.length ≤ 512), 3), (false, 5 + 2 * entries.findIdx (fun e => e / 2 ^ 14 % 4 == 3 || e ≥ 65536))])
  else .stage false 0 [] none d

/-- Entries written into an indirection table. -/
def applyParseHashTableSet (profile first : Nat) (entries : List Nat) (d : Dev) : Dev :=
  onParse d (fun s => { s with indir := entries.zipIdx.foldl (fun t e => tset t (512 * profile + first + e.2) e.1) s.indir })

/-- PARSE_FRAG_CONFIG (R393, R396). -/
def actParseFragConfig (age : Nat) (_v d : Dev) : ActResult :=
  if age < 8 ∨ age > 8000 then .refuse .badParam 0 0 else .stage false 0 [] none d

/-- AGE written for both pipelines (R399). -/
def applyParseFragConfig (age : Nat) (d : Dev) : Dev := onParse d (fun s => { s with age := age })

/-- The profile's seed, and its fields where it is not symmetric (R386). -/
def applyParseHashProfileSet (profile fields : Nat) (seed : Word) (d : Dev) : Dev :=
  onParse d (fun s =>
    { s with hashSeed := tset s.hashSeed profile seed,
             hashFields := if profile ≤ 7 then s.hashFields else tset s.hashFields profile (fields % 512) })

/-- PARSE_QUERY: counters, GEM bindings, or the exact-match entry of a leg (R396). -/
def actParseQuery (item leg : Nat) (_v d : Dev) : ActResult :=
  match item with
  | 0 =>
    let p (j : Nat) := let r := pipeRegs d j; [r.pkts.toNat, r.bound.toNat, r.exactHit.toNat, r.ruleHit.toNat, r.dflt.toNat]
    let q (n : Nat) := let r := parsePort d n; [r.noMatch.toNat, r.parseFail.toNat, r.tooDeep.toNat, r.lenContra.toNat, r.fragOoo.toNat]
    .read (byteData (eachBytes 8 (p 0 ++ p 1) ++ eachBytes 4 ([0, 1, 2, 3, 4, 5, 8, 9, 10, 11, 12, 13, 14].map q).flatten)) d
  | 1 =>
    let omcc (n : Nat) : List Nat := let onu := (tgetD d.acc.slices n Slice.reset).onu
      if onu = 0x3FF then [] else [n * 65536 + onu, 0xFFFF]
    .read (byteData (eachBytes 4 (((List.range 4).map omcc).flatten ++ (d.parse.gem.map (fun e => [e.1, match e.2 with | .omcc => 0xFFFF | .trunk t => t])).flatten))) d
  | 2 =>
    match tget d.parse.exact leg with
    | none => .read [] d
    | some e => .read (byteData (leBytes e.pipe 1 ++ beBytes e.rIp 16 ++ leBytes e.rPort 2 ++ beBytes e.lIp 16 ++ layBytes [(2, e.lPort), (2, (e.pinned.map (· + 1)).getD 0),
        (1, e.profile)])) d
  | _ => .refuse .badParam 0 0

/-- FRAG_AGE_EXPIRY: at a bell the entries whose last match lies AGE whole ticks back are removed, each counted in FRAG_AGED. A match falls
within a tick, so AGE ticks have passed at the bell that begins the tick AGE + 1 after it (R393, its worked example). -/
def fragAge (d : Dev) : Dev :=
  let old (e : FragEnt) : Bool := decide ((d.bell.tick - e.last).toNat > d.parse.age)
  let gone (j : Nat) : Nat := (d.parse.frags.filter (fun e => e.pipe == j && old e)).length
  let g0 := gone 0
  let g1 := gone 1
  let d := onParse d (fun s => { s with frags := s.frags.filter (fun e => !old e) })
  let d := if g0 = 0 then d else onPipe d 0 (fun r => { r with fragAged := satAdd r.fragAged g0 })
  if g1 = 0 then d else onPipe d 1 (fun r => { r with fragAged := satAdd r.fragAged g1 })

/-- FRAG_AGE_EXPIRY (R393). -/
def execFragAgeExpiry (s : State) : Host.Outcome State Fault Refusal := nextDev s fragAge

end Sys2Proof.Machine
end

