-- ==== Sys2Proof/Machine/Pasture.lean ====
section
/-! DEFINITION. The credits of the Pasture controller (R24 to R30): its classes, what they draw and what waits. -/

namespace Sys2Proof.Machine

/-! ### Pasture credits (R24 to R30) -/

/-- The device with the Pasture controller changed. -/
def onPast (d : Dev) (f : PastState → PastState) : Dev := { d with past := f d.past }

/-- Class `k`. -/
def pastClass (d : Dev) (k : Nat) : PastClass := tgetD d.past.classes k (PastClass.reset k)

/-- The device with class `k` changed. -/
def onClass (d : Dev) (k : Nat) (f : PastClass → PastClass) : Dev :=
  onPast d (fun p => { p with classes := tupd p.classes k (PastClass.reset k) f })

/-- The allotment in force of a class (R25). -/
def allotOf (d : Dev) (k : Nat) : Nat := (tgetD d.past.classes k (PastClass.reset k)).allot

/-- A transfer served from the class's own credits (R26). -/
def serveOwn (d : Dev) (k : Nat) : Dev := onClass d k (fun c => { c with own := c.own - 1, used := c.used + 1 })

/-- A transfer served from the pool (R26). -/
def servePool (d : Dev) (k : Nat) : Dev :=
  onPast (onClass d k (fun c => { c with used := c.used + 1, pool := true })) (fun p => { p with pool := p.pool - 1 })

/-- A class that finds no credit waits, and stalls the tick (R26, R30). -/
def stallClass (d : Dev) (k : Nat) (more : Nat) : Dev := raiseLeaf (onClass d k (fun c => { c with waiting := c.waiting + more, stall := true })) 15 k

/-- PASTURE_REQUEST: a transfer of class `k` (R26). It goes behind the class's own transfers that wait. -/
def pastureRequest (k : Nat) (d : Dev) : Dev :=
  if k ≥ 24 then d
  else
    let c := pastClass d k
    if c.waiting > 0 then stallClass d k 1
    else if c.own > 0 then serveOwn d k
    else if d.past.pool > 0 then servePool d k
    else stallClass d k 1

/-- `n` transfers of a class (R26). -/
def chargeClass (d : Dev) (k n : Nat) : Dev := (List.range n).foldl (fun d _ => pastureRequest k d) d

/-- The transfers of 64 bytes that `n` bytes at an offset of Pasture take (R24). -/
def lineCount (a n : Nat) : Nat := (a + n + 63) / 64 - a / 64

/-- The next class in turn that has a transfer waiting (R26). -/
def nextWaiting (d : Dev) : Option Nat :=
  ((List.range 24).map (fun i => (d.past.rr + i) % 24)).find? (fun k => decide ((pastClass d k).waiting > 0))

/-- Waiting transfers served from the pool, one at a time in turn, `n` at most. -/
def drainPool (d : Dev) (n : Nat) : Dev :=
  match n with
  | 0 => d
  | n + 1 =>
    if d.past.pool = 0 then d
    else match nextWaiting d with
      | none => d
      | some k =>
        drainPool (onPast (onClass (servePool d k) k (fun c => { c with waiting := c.waiting - 1 })) (fun p => { p with rr := (k + 1) % 24 })) n

/-- Waiting transfers served from their classes' own credits. -/
def serveWaitingOwn (d : Dev) (k : Nat) : Dev :=
  onClass d k (fun c => { c with own := c.own - min c.own c.waiting, used := c.used + min c.own c.waiting, waiting := c.waiting - min c.own c.waiting })

/-- Transfers that wait, over all classes. -/
def allWaiting (d : Dev) : Nat := sumN ((List.range 24).map (fun k => (pastClass d k).waiting))

/-- The allotments of all classes summed. -/
def allotSum (d : Dev) : Nat := sumN ((List.range 24).map (allotOf d))

/-- What waits is served from the credits in hand, each class's own first, then the pool in turn (R26). -/
def serveWaiting (d : Dev) : Dev :=
  let d := (List.range 24).foldl serveWaitingOwn d
  drainPool d (min d.past.pool (allWaiting d))

/-- Every class receives its allotment, the remainder is the pool, and what waits is served (R26). -/
def grantCredits (d : Dev) : Dev :=
  serveWaiting (onPast d (fun p => { p with pool := 3000000 - allotSum d, classes := tmap p.classes (fun _ c => { c with own := c.allot }) }))

end Sys2Proof.Machine
end

