-- ==== Sys2Proof/Machine/Tm.lean ====
section
/-! DEFINITION. The traffic manager (chapter 13): admission, scheduling, shapers, policers, meters and its commands. -/

namespace Sys2Proof.Machine

/-- The device with TM changed. -/
def onTm (d : Dev) (f : TmState → TmState) : Dev := { d with tm := f d.tm }

/-- The device with queue `q` changed, where it is allocated. -/
def onQueue (d : Dev) (q : Nat) (f : TmQueue → TmQueue) : Dev := onTm d (fun t => { t with queues := tmod t.queues q f })

/-- The device with group `g` changed, where it exists. -/
def onGroup (d : Dev) (g : Nat) (f : TmGroup → TmGroup) : Dev := onTm d (fun t => { t with groups := tmod t.groups g f })

/-- A root at reset: ADJ 20 on Ethernet roots and 8 on Alloc-ID roots, its shaper off (R406, R416). -/
def rootReset (n : Nat) : TmRoot :=
  { adj := if n < 768 then 20 else 8, shaper := Bucket.off, cur := [] }

/-- Root `n`. -/
def rootOf (d : Dev) (n : Nat) : TmRoot := tgetD d.tm.roots n (rootReset n)

/-- The device with root `n` changed. -/
def onRoot (d : Dev) (n : Nat) (f : TmRoot → TmRoot) : Dev := onTm d (fun t => { t with roots := tupd t.roots n (rootReset n) f })

/-- Whether root `n` exists (R401): the Ethernet and cascade roots always, an Alloc-ID root once assigned. -/
def rootExists (d : Dev) (n : Nat) : Bool :=
  (512 ≤ n && n ≤ 516) || n == 524 || n == 525 || (768 ≤ n && n ≤ 1023 && thas d.tm.roots n)

/-- A policer at reset (R426). -/
def policerReset : Policer := { bucket := { Bucket.off with burst := 64 }, drop := 0 }

/-! ### Buckets -/

/-- The units of tokens in a byte. One kb/s accrues one unit each ns, so that nothing of what accrues is lost to rounding, however often a
bucket is looked at: finer than the 1/1,024 byte that R407 asks for. -/
def tokUnit : Nat := 8000000

/-- A bucket's tokens brought up to an instant in ns: they accrue at the rate and never exceed the burst (R407). -/
def accrue (b : Bucket) (now : Nat) : Bucket :=
  if ¬ b.en then b
  else
    let t := b.tokens + ((b.rate * (now - b.at_) : Nat) : Int)
    { b with tokens := min t (b.burst * tokUnit : Nat), at_ := max b.at_ now }

/-- Whether a shaper lets its node send (R404, R407). -/
def shaperOk (b : Bucket) (now : Nat) : Bool := !b.en || decide (0 ≤ (accrue b now).tokens)

/-- A shaper charged a counted length (R407). -/
def chargeShaper (b : Bucket) (now : Nat) (n : Int) : Bucket :=
  if b.en then let b := accrue b now; { b with tokens := b.tokens - n * tokUnit } else b

/-- A shaper set: turned off it loses its tokens; turned on it starts with its burst; changed it keeps its tokens,
clipped to the new burst (R407, R408). -/
def setShaper (b : Bucket) (en : Bool) (rate burst now : Nat) : Bucket :=
  if ¬ en then { en := false, rate := rate, burst := burst, tokens := 0, at_ := now }
  else if b.en then
    { en := true, rate := rate, burst := burst, tokens := min (accrue b now).tokens (burst * tokUnit : Nat), at_ := now }
  else { en := true, rate := rate, burst := burst, tokens := (burst * tokUnit : Nat), at_ := now }

/-- Tokens as a whole number of bytes, signed (R424). -/
def wholeTokens (b : Bucket) : Int := b.tokens / tokUnit

/-! ### Depths and the buffer -/

/-- The bytes that wait in a queue (R418). -/
def qDepth (q : TmQueue) : Nat := sumN (q.pkts.map (·.len))

/-- The cells a queue's packets take on die, 256 bytes each (R415). -/
def qCells (q : TmQueue) : Nat := sumN (q.pkts.map (fun p => if p.place = .onDie then ceilDiv p.len 256 else 0))

/-- Cells in use by the queues that satisfy a test. -/
def cellsUsed (d : Dev) (which : Nat → Bool) : Nat := sumN (d.tm.queues.map (fun e => if which e.1 then qCells e.2 else 0))

/-- Bytes held in a place over all queues. -/
def placeBytes (d : Dev) (w : PktPlace) : Nat :=
  sumN (d.tm.queues.map (fun e => sumN (e.2.pkts.map (fun p => if p.place = w then p.len else 0))))

/-- Whether Pasture class 20 waits for credit (R26, R415). -/
def deepStalled (d : Dev) : Bool := decide ((tgetD d.past.classes 20 (PastClass.reset 20)).waiting > 0)

/-! ### Admission -/

/-- The limit of a queue for a colour: 0 green, 1 yellow, 2 red (R414). -/
def qLimit (q : TmQueue) (colour : Nat) : Nat :=
  let g := q.limitG * 64
  if colour = 0 then g else if colour = 1 then g * q.yPct / 100 else g * q.rPct / 100

/-- A drop at the queue limit (R414, R420). -/
def qDrop (d : Dev) (q n : Nat) : Dev :=
  if n = 0 then d
  else
    let d := onQueue d q (fun x => { x with drop := satAdd x.drop n })
    raiseLeaf (onTm d (fun t => { t with dropMap := if q ∈ t.dropMap then t.dropMap else t.dropMap ++ [q] })) 14 0

/-- The transfers of class 20 that a packet's way into the deep area, or out of it, takes (R415; log 173). -/
def deepCharge (d : Dev) (len : Nat) : Dev := chargeClass d 20 (ceilDiv len 64)

/-- Steps 3 and 4 of R410: the queue limit for the colour, then packet buffer and deep-buffer space (R414, R415). A queue
that is being freed takes nothing (R420). The result says whether the packet was admitted. -/
def tmAdmit (d : Dev) (q : Nat) (p : TmPkt) (colour : Nat) : Bool × Dev :=
  match tget d.tm.queues q with
  | none => (false, d)
  | some x =>
    if x.freeAt.isSome ∨ qDepth x + p.len > qLimit x colour then (false, qDrop d q 1)
    else if x.deep ∧ qDepth x + p.len > 65536 then
      let e := deepCharge d p.len
      let stall := deepStalled e
      let full := placeBytes d .deep + placeBytes d .staging + p.len > d.tm.deepArea * 1048576
      if full ∨ (stall ∧ placeBytes d .staging + p.len > 2097152) then
        (false, raiseLeaf (onTm d (fun t => { t with deepStallDrop := satInc t.deepStallDrop })) 14 4)
      else
        let p := { p with place := if stall then .staging else .deep }
        let depth := qDepth x + p.len
        (true, onQueue e q (fun y => { y with pkts := y.pkts ++ [p], hwmDepth := max y.hwmDepth depth }))
    else
      let need := ceilDiv p.len 256
      let all := cellsUsed d (fun _ => true)
      let room := if q < 64 then all + need ≤ 262144 else cellsUsed d (fun n => decide (n ≥ 64)) + need ≤ 258048
      if ¬ room then (false, raiseLeaf (onTm d (fun t => { t with bufFullDrop := satInc t.bufFullDrop })) 14 3)
      else
        let depth := qDepth x + p.len
        let d' := onQueue d q (fun y => { y with pkts := y.pkts ++ [{ p with place := .onDie }], hwmDepth := max y.hwmDepth depth })
        (true, raiseIf (decide (all ≤ d.tm.bufHigh ∧ all + need > d.tm.bufHigh)) d' 14 2)

/-- The root of a queue. -/
def queueRoot (d : Dev) (q : Nat) : Option Nat := (tget d.tm.queues q).bind (fun x => (tget d.tm.groups x.group).map (·.root))

/-- A packet's counted length at a root (R406). -/
def counted (d : Dev) (root len : Nat) : Int := (len : Int) + (rootOf d root).adj

/-- Step 1 of R410: the per-flow policer (R411). A policer that is off passes every packet. -/
def police (d : Dev) (f : Nat) (n : Int) (now : Nat) : Bool × Dev :=
  let p := tgetD d.tm.policers f policerReset
  if f = 0xFFFF ∨ ¬ p.bucket.en then (true, d)
  else
    let b := accrue p.bucket now
    if b.tokens ≥ n * tokUnit then
      (true, onTm d (fun t => { t with policers := tset t.policers f { p with bucket := { b with tokens := b.tokens - n * tokUnit } } }))
    else (false, onTm d (fun t => { t with policers := tset t.policers f { bucket := b, drop := satInc p.drop } }))

/-- The result of a meter and its buckets after the packet: RFC 2698 in modes 0 and 1, RFC 4115 in modes 2 and 3 (R412). -/
def meterColour (mode colour : Nat) (c p : Bucket) (n : Int) : Nat × Bucket × Bucket :=
  let k := n * tokUnit
  let pre := if mode = 1 ∨ mode = 3 then colour else 0
  let takeC : Bucket := { c with tokens := c.tokens - k }
  let takeP : Bucket := { p with tokens := p.tokens - k }
  if mode ≤ 1 then
    if pre = 2 ∨ p.tokens < k then (2, c, p)
    else if pre = 1 ∨ c.tokens < k then (1, c, takeP)
    else (0, takeC, takeP)
  else
    if pre = 2 then (2, c, p)
    else if pre = 0 ∧ c.tokens ≥ k then (0, takeC, p)
    else if p.tokens ≥ k then (1, c, takeP)
    else (2, c, p)

/-- Step 2 of R410: the class-aggregate meter that the meter map names (R412, R413): the new colour, and whether the
packet passes. -/
def meterPacket (d : Dev) (port cls colour : Nat) (n : Int) (now : Nat) : Bool × Nat × Dev :=
  match tget d.tm.meterMap (16 * port + cls) with
  | none => (true, colour, d)
  | some m =>
    match tget d.tm.meters m with
    | none => (true, colour, d)
    | some x =>
      let (col, c, p) := meterColour x.mode colour (accrue x.c now) (accrue x.p now) n
      let drop := (col = 1 ∧ x.yellowAct = 1) ∨ (col = 2 ∧ x.redAct = 1)
      let x := { x with c := c, p := p, green := if col = 0 then satInc x.green else x.green,
                        yellow := if col = 1 then satInc x.yellow else x.yellow,
                        red := if col = 2 then satInc x.red else x.red, drop := if drop then satInc x.drop else x.drop }
      (!(decide drop), col, onTm d (fun t => { t with meters := tset t.meters m x }))

/-- A PARSE packet bound for a queue: policer, meter, queue limit, buffer, in order (R410). -/
def tmOffer (d : Dev) (q port cls colour policer : Nat) (p : TmPkt) : Bool × Dev :=
  let n := counted d ((queueRoot d q).getD 512) p.len
  let (ok, d) := police d policer n p.admitted
  if ¬ ok then (false, d)
  else
    let (ok, col, d) := meterPacket d port cls colour n p.admitted
    if ¬ ok then (false, d) else tmAdmit d q p col

/-! ### Scheduling -/

/-- Deficit round-robin (R405) over the eligible members, each given as number, quantum and head length, from the member
the round stands at: the member chosen and the deficits of those visited. -/
def drrVisit (ms : List (Nat × Nat × Nat)) (order : List Nat) (def_ : Tbl Nat) (fuel : Nat) : Option (Nat × Tbl Nat) :=
  match fuel with
  | 0 => none
  | fuel + 1 =>
    match order with
    | [] => none
    | m :: rest =>
      match ms.find? (fun e => e.1 == m) with
      | none => drrVisit ms rest def_ fuel
      | some (_, quantum, len) =>
        let df := tgetD def_ m 0 + quantum
        if len ≤ df then some (m, tset def_ m (df - len))
        else drrVisit ms (rest ++ [m]) (tset def_ m df) fuel

/-- The member DRR chooses: the one it stands at while its head fits its deficit, else the next ones in ascending number,
cyclically. -/
def drrPick (ms : List (Nat × Nat × Nat)) (cur : Option Nat) (def_ : Tbl Nat) : Option (Nat × Tbl Nat) :=
  let here := cur.bind (fun c => ms.find? (fun e => e.1 == c && e.2.2 ≤ tgetD def_ c 0))
  match here with
  | some (m, _, len) => some (m, tset def_ m (tgetD def_ m 0 - len))
  | none =>
    let ids := ms.map (·.1)
    let order := match cur with
      | none => ids
      | some c => ids.filter (fun i => i > c) ++ ids.filter (fun i => i ≤ c)
    drrVisit ms order def_ (160 * (ms.length + 1) * 2)

/-- The queues of a group by slot. -/
def groupQueues (d : Dev) (g : Nat) : List (Nat × TmQueue) := d.tm.queues.filter (fun e => e.2.group == g)

/-- The counted length of a queue's head packet. -/
def headLen (d : Dev) (root : Nat) (q : TmQueue) : Nat :=
  match q.pkts with
  | [] => 0
  | p :: _ => (counted d root p.len).toNat

/-- Whether a queue may send (R404). -/
def queueEligible (q : TmQueue) (now : Nat) : Bool := !q.pkts.isEmpty && shaperOk q.shaper now

/-- A group's choice of queue (R404): the lowest eligible strict slot, else DRR over the weighted slots. The result
names the queue and, for a weighted one, the deficits by slot. -/
def groupChoice (d : Dev) (g : Nat) (x : TmGroup) (now : Nat) : Option (Nat × Option (Tbl Nat)) :=
  let qs := (groupQueues d g).filter (fun e => queueEligible e.2 now)
  let strict := (List.range 3).findSome? (fun s => (qs.find? (fun e => e.2.slot == s)).map (·.1))
  match strict with
  | some q => some (q, none)
  | none =>
    let ws := ((List.range 16).filterMap (fun s => if s < 3 then none else qs.find? (fun e => e.2.slot == s)))
    let ms := ws.map (fun e => (e.2.slot, e.2.quantum, headLen d x.root e.2))
    let dfs : Tbl Nat := ws.map (fun e => (e.2.slot, e.2.deficit))
    (drrPick ms x.cur dfs).bind (fun r => (ws.find? (fun e => e.2.slot == r.1)).map (fun e => (e.1, some r.2)))

/-- The packet a root sends next (R404): band by band, the group by DRR, then the queue. The result names the group, the
queue, the groups' deficits and the slots' deficits. -/
def rootChoice (d : Dev) (root now : Nat) : Option (Nat × Nat × Nat × Tbl Nat × Option (Tbl Nat)) :=
  if ¬ shaperOk (rootOf d root).shaper now then none
  else
    (List.range 4).findSome? (fun band =>
      let gs := d.tm.groups.filter (fun e => e.2.root == root && e.2.band == band && shaperOk e.2.shaper now
        && (groupQueues d e.1).any (fun q => queueEligible q.2 now))
      let ms := gs.filterMap (fun e => (groupChoice d e.1 e.2 now).bind (fun c =>
        (tget d.tm.queues c.1).map (fun q => (e.1, e.2.quantum, headLen d root q))))
      let dfs : Tbl Nat := gs.map (fun e => (e.1, e.2.deficit))
      (drrPick ms (tget (rootOf d root).cur band) dfs).bind (fun r =>
        (gs.find? (fun e => e.1 == r.1)).bind (fun e =>
          (groupChoice d e.1 e.2 now).map (fun c => (band, r.1, c.1, r.2, c.2)))))

/-- Every shaper on a packet's path charged its counted length (R407). -/
def chargePath (d : Dev) (root g q : Nat) (n : Int) (now : Nat) : Dev :=
  let d := onQueue d q (fun x => { x with shaper := chargeShaper x.shaper now n })
  let d := onGroup d g (fun x => { x with shaper := chargeShaper x.shaper now n })
  onRoot d root (fun x => { x with shaper := chargeShaper x.shaper now n })

/-- A packet's sojourn measured in units of 10 ns: the high-water mark and the alarm (R418, R419). -/
def sojourn (d : Dev) (q : Nat) (p : TmPkt) (now : Nat) : Dev :=
  let t := (now - p.admitted) / 10
  let d := onQueue d q (fun x => { x with hwmSoj := max x.hwmSoj (min t 0xFFFFFFFF) })
  match tget d.tm.queues q with
  | none => d
  | some x =>
    if x.sojAlarm ≠ 0 ∧ t > x.sojAlarm ∧ q ∉ d.tm.sojMap then
      raiseLeaf (onTm d (fun y => { y with sojMap := y.sojMap ++ [q] })) 14 1
    else d

/-- The deficits and round-robin positions after a choice (R405): a member left with no packet loses its deficit. -/
def commitDrr (d : Dev) (root band g q : Nat) (gd : Tbl Nat) (sd : Option (Tbl Nat)) : Dev :=
  let d := onTm d (fun t => { t with groups := tmap t.groups (fun n x => if thas gd n then { x with deficit := tgetD gd n 0 } else x) })
  let d := onRoot d root (fun x => { x with cur := tset x.cur band g })
  let d := match sd with
    | none => d
    | some s =>
      let d := onTm d (fun t => { t with queues := tmap t.queues (fun _ x => if x.group = g ∧ thas s x.slot then { x with deficit := tgetD s x.slot 0 } else x) })
      onGroup d g (fun x => { x with cur := (tget d.tm.queues q).map (·.slot) })
  let d := onTm d (fun t => { t with queues := tmap t.queues (fun n x => if n = q ∧ x.pkts = [] then { x with deficit := 0 } else x) })
  if (groupQueues d g).all (fun e => e.2.pkts.isEmpty) then onGroup d g (fun x => { x with deficit := 0 }) else d

/-- The head packet of the queue that the root chooses, taken out, charged and measured (R404 to R407, R418). -/
def tmTake (d : Dev) (root now : Nat) : Option (Nat × TmPkt × Dev) :=
  match rootChoice d root now with
  | none => none
  | some (band, g, q, gd, sd) =>
    match tget d.tm.queues q with
    | none => none
    | some x =>
      match x.pkts with
      | [] => none
      | p :: rest =>
        let n := counted d root p.len
        let d := onQueue d q (fun y => { y with pkts := rest, txPkts := satInc y.txPkts })
        let d := commitDrr d root band g q gd sd
        let d := chargePath d root g q n now
        let d := if p.place = .deep then deepCharge d p.len else d
        some (q, p, sojourn d q p now)

/-- Staged deep bytes move to Pasture once class 20 has its credit (R415). -/
def tmUnstage (d : Dev) : Dev :=
  if deepStalled d then d
  else onTm d (fun t => { t with queues := tmap t.queues (fun _ x => { x with pkts := x.pkts.map (fun p => if p.place = .staging then { p with place := .deep } else p) }) })

/-- The occupancy of a root (R417): the depths of its queues; the bytes committed to bursts have left them. -/
def rootOccupancy (d : Dev) (root : Nat) : Nat :=
  sumN (d.tm.queues.map (fun e => if queueRoot d e.1 = some root then qDepth e.2 else 0))

/-! ### Queues and groups that the control cores create -/

/-- A queue's fields at creation (R403, R414, R424). -/
def newQueue (group slot : Nat) (owner : QOwner) (sh : Bucket) : TmQueue :=
  { group := group, slot := slot, quantum := 1600, limitG := 4096, yPct := 50, rPct := 25, deep := false, owner := owner,
    shaper := sh, sojAlarm := 0, pkts := [], hwmDepth := 0, hwmSoj := 0, deficit := 0, txPkts := 0, drop := 0, freeAt := none }

/-- A group's fields at creation (R425). -/
def newGroup (root band quantum : Nat) (k : GKind) : TmGroup :=
  { root := root, band := band, quantum := quantum, kind := k, shaper := Bucket.off, deficit := 0, cur := none }

/-- The lowest free queue number of R35. -/
def freeQueue (d : Dev) : Option Nat := tfree d.tm.queues 64 8128

/-- The lowest free group number of R402. -/
def freeGroup (d : Dev) : Option Nat := tfree d.tm.groups 0 512

/-- The lowest slot of a set that no queue of the group takes. -/
def freeSlot (d : Dev) (g : Nat) (slots : List Nat) : Option Nat :=
  slots.find? (fun s => !(groupQueues d g).any (fun e => e.2.slot == s))

/-- A group of a kind at a root and band with a free slot of a set (R403). -/
def groupWithSlot (d : Dev) (root band : Nat) (k : GKind) (slots : List Nat) : Option (Nat × Nat) :=
  d.tm.groups.findSome? (fun e =>
    if e.2.root = root ∧ e.2.band = band ∧ e.2.kind = k then (freeSlot d e.1 slots).map (fun s => (e.1, s)) else none)

/-- A queue that the control cores create at a root (R403): in a group of the kind with a free slot, or in a new one.
None when no queue or group is free (R35). -/
def ccQueue (d : Dev) (root band : Nat) (k : GKind) (slots : List Nat) (owner : QOwner) (sh : Bucket) (lo n : Nat) : Option (Nat × Dev) :=
  match tfree d.tm.queues lo n with
  | none => none
  | some q =>
    match groupWithSlot d root band k slots with
    | some (g, s) => some (q, onTm d (fun t => { t with queues := tset t.queues q (newQueue g s owner sh) }))
    | none =>
      match freeGroup d, slots with
      | some g, s :: _ =>
        some (q, onTm d (fun t => { t with groups := tset t.groups g (newGroup root band 1600 k),
                                           queues := tset t.queues q (newQueue g s owner sh) }))
      | _, _ => none

/-- A leg's audio queue: a strict slot, 1 or 2, of a media group in band 1 (R403). -/
def legAudioQueue (d : Dev) (root leg : Nat) : Option (Nat × Dev) :=
  ccQueue d root 1 .media [1, 2] (.legAudio leg) Bucket.off 64 8128

/-- A leg's video queue: a weighted slot of a media group in band 2 (R403). -/
def legVideoQueue (d : Dev) (root leg : Nat) : Option (Nat × Dev) :=
  ccQueue d root 2 .media [3, 4, 5, 6, 7, 8, 9, 10, 11, 12, 13, 14, 15] (.legVideo leg) Bucket.off 64 8128

/-- A trunk's outbound queue: slot 1 of a media group in band 1 (R403). -/
def trunkQueue (d : Dev) (root t : Nat) : Option (Nat × Dev) := ccQueue d root 1 .media [1] (.trunk t) Bucket.off 64 8128

/-- A client port's cut-through queue: slot 3 of a site group in band 3 (R403). -/
def cutQueue (d : Dev) (port : Nat) : Option (Nat × Dev) := ccQueue d (512 + port) 3 .site [3] (.cut port) Bucket.off 64 8128

/-- A device queue of a root: slot 0 of a device group in band 0, shaped to 20 Mb/s with a burst of 16,384 bytes (R403). -/
def deviceQueue (d : Dev) (root now : Nat) : Option (Nat × Dev) :=
  match d.tm.queues.find? (fun e => e.2.owner == .device && queueRoot d e.1 == some root) with
  | some e => some (e.1, d)
  | none => ccQueue d root 0 .device [0] .device { en := true, rate := 20000, burst := 16384, tokens := (16384 * tokUnit : Nat), at_ := now } 0 64

/-- The queues of an owner start to be freed: new arrivals are dropped, and the remainder goes 8 ticks later (R420). -/
def freeOwned (d : Dev) (own : QOwner → Bool) : Dev :=
  onTm d (fun t => { t with queues := tmap t.queues (fun _ x =>
    if own x.owner ∧ x.freeAt = none then { x with freeAt := some (d.bell.tick + 8) } else x) })

/-- QUEUE_FREE_DRAIN_END: the remainder of a queue freed 8 ticks ago is dropped to Q_DROP (R420). -/
def queueDrainEnd (q : Nat) (d : Dev) : Dev :=
  match tget d.tm.queues q with
  | none => d
  | some x =>
    match x.freeAt with
    | none => d
    | some t =>
      if d.bell.tick.toNat < t.toNat then d
      else onQueue (qDrop d q x.pkts.length) q (fun y => { y with pkts := [] })

/-- The queues whose drain has ended are free at the bell that follows, and groups that the control cores made for
them with them (R420). -/
def tmSweep (d : Dev) : Dev :=
  let gone (x : TmQueue) : Bool := match x.freeAt with
    | none => false
    | some t => x.pkts.isEmpty && decide (d.bell.tick.toNat > t.toNat)
  let d := onTm d (fun t => { t with queues := t.queues.filter (fun e => !gone e.2) })
  onTm d (fun t => { t with groups := t.groups.filter (fun e =>
    e.2.kind == .host || t.queues.any (fun q => q.2.group == e.1)) })

/-- QUEUE_FREE_DRAIN_END (R420). -/
def execQueueFreeDrainEnd (q : Nat) (s : State) : Host.Outcome State Fault Refusal := nextDev s (queueDrainEnd q)

/-- A queue's marks reset to its present depth and no sojourn (R418). -/
def hwmZero (x : TmQueue) : TmQueue := { x with hwmDepth := qDepth x, hwmSoj := 0 }

/-- HWM_RESET: GO resets the marks of the queue named, ALL those of every queue (R418, R423). -/
def hwmReset (queue : Nat) (go all : Bool) (d : Dev) : Dev :=
  if all then onTm d (fun t => { t with queues := tmap t.queues (fun _ x => hwmZero x) })
  else if go then onQueue d queue hwmZero
  else d

/-- HWM_RESET (R418). -/
def execHwmReset (queue : Nat) (go all : Bool) (s : State) : Host.Outcome State Fault Refusal :=
  nextDev s (hostWrites 15 0x700020 (hwmReset queue go all))

/-! ### Commands -/

/-- Whether queue fields lie in their ranges (R405, R421, R422). -/
def queueFieldsOk (f : QueueFields) : Bool :=
  decide (f.group < 512 ∧ f.slot < 16 ∧ 64 ≤ f.quantum ∧ f.quantum ≤ 262143 ∧ f.limitG < 2 ^ 24 ∧ f.rPct ≤ f.yPct ∧ f.yPct ≤ 100)

/-- Whether a slot may take a host queue: free, and not a strict slot of a media group (R422). -/
def slotOk (v : Dev) (g slot : Nat) (self : Option Nat) : Bool :=
  match tget v.tm.groups g with
  | none => false
  | some x => !(x.kind == .media && slot < 3) && !(groupQueues v g).any (fun e => e.2.slot == slot && some e.1 != self)

/-- The field of a queue's settings at fault, the settings at offset `base` (R421, R510). -/
def queueFault (v : Dev) (base : Nat) (f : QueueFields) (self : Option Nat) : Nat :=
  firstBad [(decide (f.group < 512) && thas v.tm.groups f.group, base), (decide (f.slot < 16) && slotOk v f.group f.slot self, base + 2),
    (decide (64 ≤ f.quantum ∧ f.quantum ≤ 262143), base + 3), (decide (f.limitG < 2 ^ 24), base + 7), (decide (f.yPct ≤ 100), base + 11),
    (decide (f.rPct ≤ f.yPct), base + 12)]

/-- TM_QUEUE_ALLOC (R421, R422). The number chosen is the lowest free (log 13). -/
def actTmQueueAlloc (f : QueueFields) (v d : Dev) : ActResult :=
  if ¬ queueFieldsOk f ∨ ¬ slotOk v f.group f.slot none then .refuse .badParam 0 (queueFault v 0 f none)
  else
    match freeQueue v with
    | none => .refuse .noResource 0 noField
    | some q => .stage false q [q] none d

/-- The queue created at its bell. -/
def applyTmQueueAlloc (f : QueueFields) (pick : Nat) (d : Dev) : Dev :=
  let q := { newQueue f.group f.slot .host Bucket.off with quantum := f.quantum, limitG := f.limitG, yPct := f.yPct, rPct := f.rPct, deep := f.deep }
  onTm d (fun t => { t with queues := tset t.queues pick q })

/-- Whether a queue's fields stay as they are. -/
def sameQueue (x : TmQueue) (f : QueueFields) : Bool :=
  x.group == f.group && x.slot == f.slot && x.quantum == f.quantum && x.limitG == f.limitG && x.yPct == f.yPct
    && x.rPct == f.rPct && x.deep == f.deep

/-- TM_QUEUE_SET (R421, R422): of a queue the control cores created, the host may change SOJ_ALARM alone. -/
def actTmQueueSet (queue : Nat) (f : QueueFields) (sojAlarm : Nat) (v d : Dev) : ActResult :=
  if queue < 64 ∨ sojAlarm ≥ 2 ^ 32 then .refuse .badParam 0 (if queue < 64 then 0 else 16)
  else
    match tget v.tm.queues queue with
    | none => .refuse .badParam 0 0
    | some x =>
      if sameQueue x f then .stage false 0 [] none d
      else if x.owner ≠ .host then .refuse .notOwner 0 noField
      else if ¬ queueFieldsOk f ∨ ¬ slotOk v f.group f.slot (some queue) then .refuse .badParam 0 (queueFault v 2 f (some queue))
      else .stage false 0 [] none d

/-- The queue's settings changed at their bell; it keeps its packets, its deficit and its shaper (R420). -/
def applyTmQueueSet (queue : Nat) (f : QueueFields) (sojAlarm : Nat) (d : Dev) : Dev :=
  onQueue d queue (fun x => { x with group := f.group, slot := f.slot, quantum := f.quantum, limitG := f.limitG, yPct := f.yPct,
                                     rPct := f.rPct, deep := f.deep, sojAlarm := sojAlarm })

/-- TM_QUEUE_FREE (R420 to R422). -/
def actTmQueueFree (queue : Nat) (v d : Dev) : ActResult :=
  if queue < 64 then .refuse .badParam 0 0
  else
    match tget v.tm.queues queue with
    | none => .refuse .badParam 0 0
    | some x => if x.owner ≠ .host then .refuse .notOwner 0 noField else .stage false 0 [] none d

/-- The queue takes nothing more from its bell (R420). -/
def applyTmQueueFree (queue : Nat) (d : Dev) : Dev :=
  onQueue d queue (fun x => if x.freeAt = none then { x with freeAt := some (d.bell.tick + 8) } else x)

/-- TM_GROUP_SET (R402, R421, R422). A group created takes the lowest free number (log 13). -/
def actTmGroupSet (group root band quantum : Nat) (create : Bool) (v d : Dev) : ActResult :=
  if ¬ rootExists v root ∨ band > 3 ∨ quantum < 64 ∨ quantum > 262143 then .refuse .badParam 0 (firstBad [(rootExists v root, 2), (decide (band ≤ 3), 4), (false, 5)])
  else if create then
    match freeGroup v with
    | none => .refuse .noResource 0 noField
    | some g => .stage false g [g] none d
  else
    match tget v.tm.groups group with
    | none => .refuse .badParam 0 0
    | some x => if x.kind ≠ .host then .refuse .notOwner 0 noField else .stage false group [group] none d

/-- The group created or changed at its bell. -/
def applyTmGroupSet (root band quantum : Nat) (create : Bool) (pick : Nat) (d : Dev) : Dev :=
  if create then onTm d (fun t => { t with groups := tset t.groups pick (newGroup root band quantum .host) })
  else onGroup d pick (fun x => { x with root := root, band := band, quantum := quantum })

/-- Whether a rate and burst lie in the ranges of R407. -/
def rateOk (rate burst : Nat) : Bool := decide (1 ≤ rate ∧ rate ≤ 400000000 ∧ 64 ≤ burst ∧ burst ≤ 16777215)

/-- TM_SHAPER_SET (R407, R421, R422). -/
def actTmShaperSet (level number : Nat) (enable : Bool) (rate burst : Nat) (v d : Dev) : ActResult :=
  let there : Bool := match level with
    | 0 => decide (64 ≤ number) && thas v.tm.queues number
    | 1 => thas v.tm.groups number
    | 2 => rootExists v number
    | _ => false
  if ¬ there ∨ (enable ∧ ¬ rateOk rate burst) then .refuse .badParam 0 (firstBad [(decide (level ≤ 2), 0), (there, 1), (decide (1 ≤ rate ∧ rate ≤ 400000000), 4), (false, 8)]) else .stage false 0 [] none d

/-- The instant of a bell in ns, by the tick number. -/
def bellNs (d : Dev) : Nat := d.bell.tick.toNat * 125000

/-- The shaper set at its bell (R408). -/
def applyTmShaperSet (level number : Nat) (enable : Bool) (rate burst : Nat) (d : Dev) : Dev :=
  let now := bellNs d
  match level with
  | 0 => onQueue d number (fun x => { x with shaper := setShaper x.shaper enable rate burst now })
  | 1 => onGroup d number (fun x => { x with shaper := setShaper x.shaper enable rate burst now })
  | _ => onRoot d number (fun x => { x with shaper := setShaper x.shaper enable rate burst now })

/-- TM_ROOT_SET (R406, R421). -/
def actTmRootSet (root : Nat) (adj : Int) (v d : Dev) : ActResult :=
  if ¬ rootExists v root ∨ adj < -32 ∨ adj > 63 then .refuse .badParam 0 (if ¬ rootExists v root then 0 else 2) else .stage false 0 [] none d

/-- ADJ written at its bell. -/
def applyTmRootSet (root : Nat) (adj : Int) (d : Dev) : Dev := onRoot d root (fun x => { x with adj := adj })

/-- TM_POLICER_SET (R411, R421). -/
def actTmPolicerSet (policer : Nat) (enable : Bool) (rate burst : Nat) (_v d : Dev) : ActResult :=
  if policer ≥ 16384 ∨ (enable ∧ ¬ rateOk rate burst) then .refuse .badParam 0 (firstBad [(decide (policer < 16384), 0), (decide (1 ≤ rate ∧ rate ≤ 400000000), 3), (false, 7)]) else .stage false 0 [] none d

/-- The policer set at its bell (R408, R411). -/
def applyTmPolicerSet (policer : Nat) (enable : Bool) (rate burst : Nat) (d : Dev) : Dev :=
  onTm d (fun t => { t with policers := tupd t.policers policer policerReset (fun p => { p with bucket := setShaper p.bucket enable rate burst (bellNs d) }) })

/-- TM_METER_SET (R412, R413, R421). -/
def actTmMeterSet (meter : Nat) (f : MeterFields) (_v d : Dev) : ActResult :=
  if meter ≥ 1024 ∨ f.mode > 3 ∨ f.yellowAct > 1 ∨ f.redAct > 1 ∨ ¬ rateOk f.cir f.cbs ∨ ¬ rateOk f.pir f.pbs then
    .refuse .badParam 0 (firstBad [(decide (meter < 1024), 0), (decide (f.mode ≤ 3), 2), (decide (f.yellowAct ≤ 1), 3), (decide (f.redAct ≤ 1), 4), (decide (1 ≤ f.cir ∧ f.cir ≤ 400000000), 5), (decide (64 ≤ f.cbs ∧ f.cbs ≤ 16777215), 9), (decide (1 ≤ f.pir ∧ f.pir ≤ 400000000), 13), (decide (64 ≤ f.pbs ∧ f.pbs ≤ 16777215), 17)])
  else .stage false 0 [] none d

/-- The meter set at its bell: each bucket clipped to its new size, or full where the meter is new (R408, R412). -/
def applyTmMeterSet (meter : Nat) (f : MeterFields) (d : Dev) : Dev :=
  let now := bellNs d
  let new : Meter := match tget d.tm.meters meter with
    | some m => { m with mode := f.mode, yellowAct := f.yellowAct, redAct := f.redAct, c := setShaper m.c true f.cir f.cbs now, p := setShaper m.p true f.pir f.pbs now }
    | none => { mode := f.mode, yellowAct := f.yellowAct, redAct := f.redAct, c := setShaper Bucket.off true f.cir f.cbs now, p := setShaper Bucket.off true f.pir f.pbs now,
                green := 0, yellow := 0, red := 0, drop := 0 }
  onTm d (fun t => { t with meters := tset t.meters meter new })

/-- TM_METER_MAP_SET (R412, R421). -/
def actTmMeterMapSet (port cls meter : Nat) (_v d : Dev) : ActResult :=
  if port > 15 ∨ port = 6 ∨ port = 7 ∨ port = 15 ∨ cls > 15 ∨ (meter ≥ 1024 ∧ meter ≠ 0xFFFF) then .refuse .badParam 0 (firstBad [(decide (port ≤ 14 ∧ port ≠ 6 ∧ port ≠ 7), 0), (decide (cls ≤ 15), 1), (false, 2)])
  else .stage false 0 [] none d

/-- The meter map entry written at its bell. -/
def applyTmMeterMapSet (port cls meter : Nat) (d : Dev) : Dev :=
  onTm d (fun t => { t with meterMap := if meter = 0xFFFF then tdel t.meterMap (16 * port + cls) else tset t.meterMap (16 * port + cls) meter })

/-- TM_BUF_CONFIG (R415, R421, R422): `short` says that the deep area would leave Pasture short of what admitted work
holds. -/
def actTmBufConfig (high deepMib : Nat) (short : Bool) (v d : Dev) : ActResult :=
  if high > 262143 ∨ deepMib > 8192 then .refuse .badParam 0 (if high > 262143 then 0 else 4)
  else if short then .refuse .noResource 0 noField
  else if deepMib * 1048576 < placeBytes v .deep then .refuse .busy 0 noField
  else .stage false 0 [] none d

/-- The buffer's parameters written at their bell. -/
def applyTmBufConfig (high deepMib : Nat) (d : Dev) : Dev := onTm d (fun t => { t with bufHigh := high, deepArea := deepMib })

/-- The registers of a queue (R424). -/
def queueRegs (x : TmQueue) : List Nat :=
  [x.group + x.slot * 2 ^ 12 + 2 ^ 16 + b2n x.deep * 2 ^ 17 + (if x.owner = .host then 2 ^ 18 else 0), x.quantum, x.limitG,
   x.yPct + 256 * x.rPct, x.shaper.rate, x.shaper.burst + b2n x.shaper.en * 2 ^ 31, x.sojAlarm, qDepth x, x.hwmDepth, x.hwmSoj,
   twos 32 (wholeTokens x.shaper), x.deficit, x.txPkts.toNat, x.drop.toNat]

/-- The registers of a group node (R425). -/
def groupRegs (x : TmGroup) : List Nat :=
  [x.root + x.band * 2 ^ 12 + 2 ^ 16, x.quantum, x.shaper.rate, x.shaper.burst + b2n x.shaper.en * 2 ^ 31, twos 32 (wholeTokens x.shaper)]

/-- The registers of a root node (R425). -/
def rootRegs (x : TmRoot) : List Nat :=
  [2 ^ 16 + twos 8 x.adj * 2 ^ 24, 1600, x.shaper.rate, x.shaper.burst + b2n x.shaper.en * 2 ^ 31, twos 32 (wholeTokens x.shaper)]

/-- The registers of a policer (R426). -/
def policerRegs (p : Policer) : List Nat :=
  [p.bucket.rate + b2n p.bucket.en * 2 ^ 31, p.bucket.burst, twos 24 (wholeTokens p.bucket), p.drop.toNat]

/-- The registers of a meter (R426). -/
def meterRegs (m : Meter) : List Nat :=
  [m.mode + 4 * m.yellowAct + 8 * m.redAct + 16, m.c.rate, m.p.rate, m.c.burst, m.p.burst, m.green.toNat, m.yellow.toNat,
   m.red.toNat, m.drop.toNat]

/-- TM_QUERY (R421). -/
def actTmQuery (item number : Nat) (_v d : Dev) : ActResult :=
  match item with
  | 0 => if number ≥ 8192 then .refuse .badParam 0 1 else .read (((tget d.tm.queues number).map queueRegs).getD []) d
  | 1 => if number ≥ 512 then .refuse .badParam 0 1 else .read (((tget d.tm.groups number).map groupRegs).getD []) d
  | 2 => if ¬ rootExists d number then .refuse .badParam 0 1 else .read (rootRegs (rootOf d number)) d
  | 3 => if number ≥ 16384 then .refuse .badParam 0 1 else .read (policerRegs (tgetD d.tm.policers number policerReset)) d
  | 4 => if number ≥ 1024 then .refuse .badParam 0 1 else .read (((tget d.tm.meters number).map meterRegs).getD []) d
  | _ => .refuse .badParam 0 0

end Sys2Proof.Machine
end

