-- ==== Sys2Proof/Machine/Charge.lean ====
section
/-! DEFINITION. Admission: the charges of R94, room under R32, placement under R91, and the Flock groups that Autumn
has gated (R563). -/

namespace Sys2Proof.Machine

/-- The device with MEDIA changed. -/
def onMedia (d : Dev) (f : MediaState → MediaState) : Dev := { d with media := f d.media }

/-- The device with AUD changed. -/
def onAud (d : Dev) (f : AudState → AudState) : Dev := { d with aud := f d.aud }

/-- The device with VID changed. -/
def onVid (d : Dev) (f : VidState → VidState) : Dev := { d with vid := f d.vid }

/-- The device with IMC changed. -/
def onImc (d : Dev) (f : ImcState → ImcState) : Dev := { d with imc := f d.imc }

/-- The device with the Flock changed. -/
def onFlock (d : Dev) (f : FlockState → FlockState) : Dev := { d with flock := f d.flock }

/-- Logical engine `n`. -/
def engOf (d : Dev) (n : Nat) : Eng := tgetD d.flock.engs n (Eng.reset n)

/-- Group `g`. -/
def groupOf (d : Dev) (g : Nat) : FGroup := tgetD d.flock.groups g FGroup.reset

/-- The device with logical engine `n` changed. -/
def onEng (d : Dev) (n : Nat) (f : Eng → Eng) : Dev := onFlock d (fun x => { x with engs := tupd x.engs n (Eng.reset n) f })

/-- The device with group `g` changed. -/
def onFGroup (d : Dev) (g : Nat) (f : FGroup → FGroup) : Dev :=
  onFlock d (fun x => { x with groups := tupd x.groups g FGroup.reset f })

/-- The leg of a LEG_ID, unless it is FREE. -/
def legOf (d : Dev) (n : Nat) : Option Leg := (tget d.media.legs n).filter (fun l => l.st != .free)

/-- The device with leg `n` changed. -/
def onLeg (d : Dev) (n : Nat) (f : Leg → Leg) : Dev := onMedia d (fun m => { m with legs := tmod m.legs n f })

/-- The conference of a CONF_ID. -/
def confOf (d : Dev) (n : Nat) : Option Conf := tget d.media.confs n

/-- The device with conference `n` changed. -/
def onConf (d : Dev) (n : Nat) (f : Conf → Conf) : Dev := onMedia d (fun m => { m with confs := tmod m.confs n f })

/-- The route of a ROUTE_ID. -/
def routeOf (d : Dev) (n : Nat) : Option Route := tget d.aud.routes n

/-- The device with route `n` changed. -/
def onRoute (d : Dev) (n : Nat) (f : Route → Route) : Dev := onAud d (fun a => { a with routes := tmod a.routes n f })

/-- The device with trunk `n` changed. -/
def onTrunk (d : Dev) (n : Nat) (f : Trunk → Trunk) : Dev := onImc d (fun i => { i with trunks := tmod i.trunks n f })

/-! ### Charges (R94): engine cycles and Pasture credits per tick -/

/-- A rate in kb/s as whole Mb/s, rounded up. -/
def mbps (k : Nat) : Nat := ceilDiv k 1000

/-- Whether a leg is an audio leg, and whether it is a video leg (R93). -/
def isAudioLeg (r : LegRec) : Bool := r.audioIn || r.audioOut
def isVideoLeg (r : LegRec) : Bool := r.contrib || r.videoOut != 0

/-- Sum of two charges. -/
def addCharge (a b : Nat × Nat) : Nat × Nat := (a.1 + b.1, a.2 + b.2)

/-- The charge of an audio direction by codec: G.711, G.722, Opus and LC3 (R78, R94). -/
def audioInCycles (codec : Nat) : Nat := if codec ≤ 2 then 300 else if codec = 3 then 700 else if codec = 4 then 1500 else 1300
def audioOutCycles (codec : Nat) : Nat := if codec ≤ 2 then 200 else if codec = 3 then 800 else if codec = 4 then 2300 else 1700

/-- A leg's charge (R94). -/
def legCharge (r : LegRec) : Nat × Nat :=
  let c : Nat × Nat := (400, 6)
  let c := if r.audioIn then addCharge c (audioInCycles r.aCodec, 12) else c
  let c := if r.audioOut then addCharge c (audioOutCycles r.aCodec, 4) else c
  let c := if r.contrib then addCharge c (600 + 25 * mbps r.contribMax, 8 + 6 * mbps r.contribMax) else c
  if r.videoOut ≠ 0 then addCharge c (600 + 25 * mbps r.bwMax, 8 + 6 * mbps r.bwMax) else c

/-- ENC_SETTINGS, INPUT_RESERVE and TOP_K with their defaults (R76). -/
def confEnc (r : ConfRec) : Nat := if r.encSettings = 0 then 1 else r.encSettings
def confReserve (r : ConfRec) : Nat := if r.inputReserve = 0 then 16 else r.inputReserve
def confTopK (r : ConfRec) : Nat := if r.topK = 0 then 8 else r.topK

/-- A conference's charge with a reservation of `n` inputs (R94). -/
def confCharge (r : ConfRec) (n : Nat) : Nat × Nat :=
  (300 + 120 * n + 2300 * confEnc r + r.langCount * (100 + 2300 * confEnc r),
    8 + 2 * n + 4 * confEnc r + r.langCount * (2 + 4 * confEnc r))

/-- A route's charge (R138). -/
def routeCharge : Nat × Nat := (200, 2)

/-- A trunk's charge (R314). -/
def trunkCharge (r : TrunkRec) : Nat × Nat :=
  let n := r.channels * (b2n r.inbound + b2n r.outbound)
  (300 + 60 * n, 4 + n)

/-- Whether an object with a home and a move is charged on an engine: on both while it moves (R108). -/
def chargedOn (home : Nat) (mv : Option Move) (e : Nat) : Bool := home == e || (match mv with
  | some m => m.target == e
  | none => false)

/-- Whether a leg holds its engine charges (R83, R93): not in LOST. -/
def legCharged (l : Leg) : Bool := l.st == .staged || l.st == .active || l.st == .migrating || l.st == .draining

/-- The charges on an engine: legs, mixes, routes, trunks and a customer program's tasks (R32, R94, R138, R216, R314). -/
def engineCharges (d : Dev) (e : Nat) : List (Nat × Nat) :=
  (d.media.legs.filter (fun x => legCharged x.2 && chargedOn x.2.home x.2.move e)).map (fun x => legCharge x.2.rcd)
    ++ (d.media.confs.filter (fun x => (x.2.mix == some e) || chargedOn 0x10000 x.2.move e)).map (fun x => confCharge x.2.rcd x.2.reserve)
    ++ (d.aud.routes.filter (fun x => chargedOn x.2.engine x.2.move e)).map (fun _ => routeCharge)
    ++ (d.imc.trunks.filter (fun x => chargedOn x.2.engine x.2.move e)).map (fun x => trunkCharge x.2.rcd)
    ++ ((engOf d e).prog.map (fun p => (p.img.cycles, p.img.credits))).toList

/-- ENGINE_CHARGE_n: the cycles admitted on an engine (R114). -/
def engineCycles (d : Dev) (e : Nat) : Nat := sumN ((engineCharges d e).map (·.1))

/-- The Pasture credits admitted against a group's class: over its engines (R32). What an engine that is OUT still carries is about to be placed elsewhere, and
counts no more (R109). -/
def groupCredits (d : Dev) (g : Nat) : Nat :=
  sumN ((List.range 16).map (fun k => if (engOf d (16 * g + k)).st = .out then 0 else sumN ((engineCharges d (16 * g + k)).map (·.2))))

/-- Whether an engine takes media work at all: not OUT, not withdrawn for a program, its group in placement (R91, R226,
R227). -/
def engPlaced (d : Dev) (e : Nat) : Bool := (engOf d e).st == .media && (groupOf d (e / 16)).st == .ready

/-- Whether an engine, be it gated by Autumn, could take a charge within both limits (R32). -/
def fits (d : Dev) (e cyc cred : Nat) : Bool :=
  decide (e < 256 ∧ engineCycles d e + cyc ≤ 180000 ∧ groupCredits d (e / 16) + cred ≤ allotOf d (e / 16))

/-- Whether an engine has room for a charge (R32). A group whose domain is off has none (R558). -/
def hasRoom (d : Dev) (e cyc cred : Nat) : Bool := engPlaced d e && domOn d (17 + e / 16) && fits d e cyc cred

/-- The engine of lowest charge among some, the lower number first on ties. -/
def lowest (d : Dev) (es : List Nat) : Option Nat :=
  es.foldl (fun a e => match a with
    | none => some e
    | some b => if engineCycles d e < engineCycles d b then some e else a) none

/-- Placement over the engines that pass a test (R91): the first tried, then the same group, then any. -/
def placeAmong (d : Dev) (start : Option Nat) (ok : Nat → Bool) : Option Nat :=
  let all := List.range 256
  match start with
  | some e =>
    if ok e then some e
    else
      match lowest d (all.filter (fun n => n / 16 == e / 16 && ok n)) with
      | some n => some n
      | none => lowest d (all.filter ok)
  | none => lowest d (all.filter ok)

/-- The lowest-numbered group that Autumn has gated (R563). -/
def lowestGated (d : Dev) : Option Nat := (List.range 16).find? (fun g => d.aux.gated.contains g)

/-- Whether admitting `cyc` more cycles takes A above HIGH percent of the ungated capacity (R562, R563). -/
def aboveHigh (d : Dev) (cyc : Nat) : Bool :=
  let es := (List.range 256).filter (fun e => !d.aux.gated.contains (e / 16))
  let cap := 180000 * (es.filter (fun e => (engOf d e).st != .out)).length
  decide (d.pwr.season = .autumn ∧ 100 * (sumN (es.map (engineCycles d)) + cyc) > d.pwr.high * cap)

/-- The group that a command wakes by admitting `cyc` cycles on engine `e` (R563). -/
def wakeFor (d : Dev) (e cyc : Nat) : Option Nat :=
  if d.aux.gated.contains (e / 16) then lowestGated d
  else if aboveHigh d cyc then lowestGated d
  else none

/-- Whether Autumn drains the group of an engine (R562). -/
def drains (d : Dev) (e : Nat) : Bool := d.aux.gating == some (e / 16)

/-- Placement of a charge (R91, R563, R577): the engine, and the group that the command needs back: the one that Autumn drains, where only that one
has room, or a gated one. -/
def place (d : Dev) (start : Option Nat) (cyc cred : Nat) (excl : List Nat) : Option (Nat × Option Nat) :=
  let ok (e : Nat) : Bool := !excl.contains e && hasRoom d e cyc cred
  match placeAmong d start (fun e => ok e && !drains d e), placeAmong d start ok with
  | some e, _ => some (e, wakeFor d e cyc)
  | none, some e => some (e, d.aux.gating)
  | none, none =>
    match lowestGated d with
    | none => none
    | some g =>
      (placeAmong d none (fun e => e / 16 == g && !excl.contains e && (engOf d e).st != .out && fits d e cyc cred)).map
        (fun e => (e, some g))

/-- Admission on an engine that the command names (R32): the group it switches on, if it fits. -/
def admitOn (d : Dev) (e cyc cred : Nat) : Option (Option Nat) :=
  if hasRoom d e cyc cred then some (if drains d e then d.aux.gating else wakeFor d e cyc)
  else if d.aux.gated.contains (e / 16) ∧ (engOf d e).st = .gated ∧ fits d e cyc cred then some (some (e / 16))
  else none

/-- A domain switched on (R556). -/
def domainOn (d : Dev) (k : Nat) : Dev :=
  match domState d k with
  | .off => onPwr d (fun p => { p with doms := tset p.doms k .poweringUp })
  | .shuttingDown => onPwr d (fun p => { p with domPend := if k ∈ p.domPend then p.domPend else p.domPend ++ [k] })
  | _ => d

/-- A gated group switched on for a command (R563). -/
def wakeGroup (d : Dev) (g : Nat) : Dev :=
  let d := onAux d (fun a => { a with gated := a.gated.filter (· != g), noGate := tset a.noGate g (d.bell.tick + 8000) })
  let d := onFGroup d g (fun x => if x.st = .gated then { x with st := .ready } else x)
  let d := (List.range 16).foldl (fun d k => onEng d (16 * g + k) (fun e => if e.st = .gated then { e with st := .media } else e)) d
  raiseLeaf (domainOn d (17 + g)) 25 7

/-- The group that a command needs: switched on where it is gated, and its drain stopped where Autumn drains it (R563, R577). -/
def wakeOpt (d : Dev) (g : Option Nat) : Dev := match g with
  | some g => if d.aux.gating = some g then onAux d (fun a => { a with gating := none }) else wakeGroup d g
  | none => d

/-- The domain a staged command waits for (R563). -/
def waitOf (g : Option Nat) : Option Nat := g.map (· + 17)

/-! ### Inputs and ceilings -/

/-- The inputs of a conference (R601): legs with AUDIO_IN and input routes. -/
def inputsInUse (d : Dev) (c : Nat) : Nat :=
  (d.media.legs.filter (fun x => (x.2.st == .staged || x.2.st == .active || x.2.st == .migrating) && x.2.rcd.conf == c && x.2.rcd.audioIn)).length
    + (d.aud.routes.filter (fun x => x.2.rcd.conf == c && !x.2.rcd.output && x.2.clearing.isNone)).length

/-- Whether a leg counts against the ceilings of R93. -/
def audioLegs (d : Dev) : Nat := (d.media.legs.filter (fun x => legCharged x.2 && isAudioLeg x.2.rcd)).length
def videoLegs (d : Dev) : Nat := (d.media.legs.filter (fun x => legCharged x.2 && isVideoLeg x.2.rcd)).length

/-- The engine that a leg's hash names (R90): none where the entry is invalid. -/
def hashedEngine (d : Dev) (r : LegRec) : Option Nat :=
  let i := hashIndex (symInput (hashSeedOf d r.hashProfile) r.remoteAddr r.remotePort r.localAddr r.localPort 17)
  let e := indirOf d r.hashProfile i
  if e / 2 ^ 15 % 2 = 1 then some (e % 256) else none

/-- Entry `i` of profile 0's table, where a mix is placed from (R91). -/
def entryEngine (d : Dev) (t i : Nat) : Option Nat :=
  let e := indirOf d t i
  if e / 2 ^ 15 % 2 = 1 then some (e % 256) else none

/-! ### Moves -/

/-- The charges that moves begun at a bell put on a target, and how many moves began (R108). -/
def movesBegun (d : Dev) (b : BitVec 64) : List (Nat × Nat) :=
  let pick (m : Option Move) (c : Nat) : List (Nat × Nat) := match m with
    | some m => if m.b0 = b then [(m.target, c)] else []
    | none => []
  (d.media.legs.map (fun x => pick x.2.move (legCharge x.2.rcd).1)).flatten
    ++ (d.media.confs.map (fun x => pick x.2.move (confCharge x.2.rcd x.2.reserve).1)).flatten
    ++ (d.aud.routes.map (fun x => pick x.2.move 200)).flatten
    ++ (d.imc.trunks.map (fun x => pick x.2.move (trunkCharge x.2.rcd).1)).flatten

/-- Whether a move of a charge to a target may start at this bell (R108): at most 64 moves, and at most 20,000 cycles
on the target. -/
def moveMayStart (d : Dev) (target cyc : Nat) : Bool :=
  let ms := movesBegun d d.bell.tick
  decide (ms.length < 64 ∧ sumN ((ms.filter (fun e => e.1 == target)).map (·.2)) + cyc ≤ 20000)

/-- A move begun at this bell. -/
def newMove (d : Dev) (target : Nat) (ctx : Option (ReplyCtx × List Nat)) : Move :=
  { target := target, b0 := d.bell.tick, copyDone := false, failed := none, ctx := ctx }

/-- The engines on which an object's charge grows: its own, and the target of its move (R108). -/
def enginesOf (home : Nat) (mv : Option Move) : List Nat := home :: (mv.map (·.target)).toList

/-- The copy of a move that began in this tick is in the target's memory by the cut-off (R107), unless its source has halted or met an uncorrectable error (R111). -/
def copyMove (d : Dev) (home : Nat) (m : Option Move) : Option Move :=
  m.map (fun m => if m.b0 = d.bell.tick ∧ ¬ (engOf d home).core.halted ∧ ¬ (engOf d home).hurt then { m with copyDone := true } else m)
def copiesDone (d : Dev) : Dev :=
  onImc (onAud (onMedia d (fun x => { x with
    legs := tmap x.legs (fun _ l => { l with move := copyMove d l.home l.move }),
    confs := tmap x.confs (fun _ c => { c with move := copyMove d (c.mix.getD 256) c.move }) }))
    (fun a => { a with routes := tmap a.routes (fun _ r => { r with move := copyMove d r.engine r.move }) }))
    (fun i => { i with trunks := tmap i.trunks (fun _ t => { t with move := copyMove d t.engine t.move }) })

/-- The latest leg event latched and its leaf raised (R114, R115): KIND 1 to 7 is leaf word 16, bit KIND − 1. -/
def legEvent (d : Dev) (kind n : Nat) : Dev :=
  raiseLeaf (onMedia d (fun m => { m with eventLeg := n, eventKind := kind })) 16 (kind - 1)

end Sys2Proof.Machine
end

