-- ==== Sys2Proof/Machine/Mix.lean ====
section
/-! DEFINITION. The audio signal path (chapter 04): conditioning, talker selection, mix-minus, dynamics, language channels and
the blocks of output routes and legs, one tick at a time. -/

namespace Sys2Proof.Machine

/-! ### Samples -/

/-- A block of zeros, and the all-ones block (R21, R118). -/
def sixZero : List Int := List.replicate 6 0
def sixOnes : List Int := List.replicate 6 (-1)

/-- Sample `i` of a block; an absent block reads as zero (R21). -/
def smp (b : List Int) (i : Nat) : Int := b.getD i 0

/-- A sample under a Q2.14 gain (R119, R125, R129). -/
def q14 (x g : Int) : Int := (x * g + 8192) / 16384

/-- Saturation to `w` bits. -/
def satI (w : Nat) (v : Int) : Int := clampI (-(2 ^ (w - 1) : Int)) (2 ^ (w - 1) - 1) v

/-- The weight of sample `n` of a crossfade (R135). -/
def fadeW (n : Nat) : Int := ((n * 32768 + 24) / 48 : Nat)

/-- Two values under weights that sum to 32,768 (R135). -/
def mixW (old new w : Int) : Int := (old * (32768 - w) + new * w + 16384) / 32768

/-- A quotient by a positive number whose rounding the spec leaves open (log 16). -/
def rdiv (a b : Int) : Int :=
  if a % b = 0 then a / b else if Config.roundUp a b then a / b + 1 else a / b

/-! ### Levels in units of 1/16 dB (R120, R128; log 16) -/

/-- The largest number below 2^`bits` above `acc` that passes a downward closed test. -/
def searchTop (ok : Nat → Bool) (bits acc : Nat) : Nat :=
  match bits with
  | 0 => acc
  | b + 1 => if ok (acc + 2 ^ b) then searchTop ok b (acc + 2 ^ b) else searchTop ok b acc

/-- Whether `p / full` is at least 10^(`l` / `k`). -/
def atLevel (p full k : Nat) (l : Int) : Bool :=
  if 0 ≤ l then decide (10 ^ l.toNat * full ^ k ≤ p ^ k) else decide (full ^ k ≤ p ^ k * 10 ^ (-l).toNat)

/-- The level of `p` against `full` in 1/16 dB: `k` is 160 for a power and 320 for an amplitude. -/
def levelOf (p full k : Nat) : Int :=
  let l : Int := (searchTop (fun n => atLevel p full k (n - 3072)) 12 0 : Nat) - 3072
  if full ^ k = p ^ k * 10 ^ (-l).toNat ∧ l ≤ 0 then l
  else if Config.roundUp p full then l + 1 else l

/-- A gain in 1/16 dB as unsigned Q2.14 (R128, R132). -/
def gainOf (t : Int) : Int :=
  let ok (g : Nat) : Bool :=
    if 0 ≤ t then decide (g ^ 320 ≤ 16384 ^ 320 * 10 ^ t.toNat) else decide (g ^ 320 * 10 ^ (-t).toNat ≤ 16384 ^ 320)
  let g := searchTop ok 16 0
  if t = 0 then g
  else if Config.roundUp t g ∧ g < 65535 then g + 1 else g

/-! ### Parameters (R122, R125, R130, R139) -/

/-- The default gain table (R125). -/
def gainTableReset : List Int :=
  [16384, 16384, 11599, 9477, 8211, 7347, 6709, 6213, 5813, 5482, 5202, 4960, 4750, 4564, 4399, 4250, 4115, 3993, 3881, 3778,
   3682, 3594, 3512, 3435, 3363, 3295, 3231, 3171, 3114, 3060, 3009, 2960, 2914]

/-- The default of parameter `code` of a conference's block: 0 ON, 1 OFF, 2 HANG, 3 HYST, 4 CHALLENGE, 5 SMOOTH_SHIFT, 6
LANG_XFADE, 7 the gain table; from 16 + 16 × channel: THRESH, RATIO, KNEE, ATTACK, RELEASE, MAKEUP, CEIL, LIMIT_RELEASE,
FLOOR_UNDER, LANG_XFADE (R122, R130, R132). -/
def confParamReset (code : Nat) : Int :=
  if code < 16 then
    match code with
    | 0 => -800 | 1 => -896 | 2 => 1600 | 3 => 96 | 4 => 40 | 5 => 4 | _ => 0
  else
    match code % 16 with
    | 0 => -288 | 1 => 64 | 2 => 96 | 3 => 48 | 4 => 4800 | 5 => 0 | 6 => -16 | 7 => 480 | 8 => -32768 | _ => 0

/-- The default of a parameter of any block: gain tables from 0x400; at 0x800 and 0x801 a headset's side-tone gain, code 0, and its codec and bias parameters, codes
1 and 2 (R139; log 164). -/
def paramReset (block code : Nat) : Int :=
  if block < 0x400 then confParamReset code
  else if block < 0x408 then gainTableReset.getD code 0
  else if code = 0 then 16384 else 0

/-- The bank of a set that is active, by its block (R139). -/
def bankOf (d : Dev) (block : Nat) (active : Bool) : Tbl Int :=
  let a := if block < 0x800 then d.aud.active0 else (tgetD d.aud.hs (block - 0x800) Headset.reset).bank
  if (a = 0) = (active = true) then d.aud.bankA else d.aud.bankB

/-- A parameter in a bank. -/
def paramIn (d : Dev) (block code : Nat) (active : Bool) : Int :=
  tgetD (bankOf d block active) (block * 4096 + code) (paramReset block code)

/-- A conference's parameter in force, and a channel's. -/
def cParam (d : Dev) (c code : Nat) : Int := paramIn d c code true
def chParam (d : Dev) (c ch code : Nat) : Int := paramIn d c (16 + 16 * ch + code) true

/-- Entry `n` of the conference's gain table (R125). Which of the eight tables a conference uses no record or parameter of the spec says: parameter 7 of its block, 0 by
default (DESIGN CHOICE, log 164). -/
def gainAt (d : Dev) (c n : Nat) : Int := paramIn d (0x400 + (cParam d c 7).toNat % 8) (min n 32) true

/-! ### Inputs -/

/-- The key of an endpoint's captured block, and of a leg's decoded block. -/
def epKey (t u i : Nat) : Nat := t * 2 ^ 24 + u * 2 ^ 16 + i
def legEp (n : Nat) : Nat := 2 ^ 30 + n

/-- Whether the conference spans the Commons, and whether its mix runs here (R541). -/
def confHere (d : Dev) (c : Conf) : Bool := !c.rcd.spans || tget d.media.binds c.rcd.tag == some d.casc.device

/-- The number a spanning conference gives a local input (R543). -/
def inputKey (d : Dev) (c : Conf) (n : Nat) : Nat := if c.rcd.spans then d.casc.device * 16384 + n else n

/-- Whether a leg's audio takes part (R83). -/
def legTalks (l : Leg) (c : Nat) : Bool := (l.st == .active || l.st == .migrating) && l.live && l.rcd.conf == c && l.rcd.audioIn

/-- Whether Autumn has gated an engine's group (R148). -/
def engGated (d : Dev) (e : Nat) : Bool := d.aux.gated.contains (e / 16)

/-- The floor candidates of a conference on this device: legs and routes of role FLOOR and FLOOR_PRIORITY (R121, R131). -/
def floorLegs (d : Dev) (c : Nat) : List Nat := (d.media.legs.filter (fun x => legTalks x.2 c)).map (·.1)
def inRoutes (d : Dev) (c : Nat) (ok : Route → Bool) : List Nat :=
  (d.aud.routes.filter (fun x => x.2.rcd.conf == c && !x.2.rcd.output && x.2.clearing.isNone && !x.2.twin && ok x.2)).map (fun x => 8192 + x.1)
def floorInputs (d : Dev) (c : Nat) : List Nat := floorLegs d c ++ inRoutes d c (fun r => decide (r.rcd.role < 2))
def priorityInputs (d : Dev) (c : Nat) : List Nat := inRoutes d c (fun r => r.rcd.role == 1)
def liveConsoles (d : Dev) (c ch : Nat) : List Nat := inRoutes d c (fun r => r.rcd.role == 2 && r.rcd.channel == ch && r.consoleLive)

/-- Every input whose block is conditioned: those of the conference, and those that still fade out of it. -/
def allInputs (d : Dev) (n : Nat) (c : Conf) : List Nat :=
  let here := floorLegs d n ++ inRoutes d n (fun _ => true)
  here ++ ((c.fading.map (fun f => if c.rcd.spans then f.1 % 16384 else f.1)).filter (fun k => !here.contains k))

/-- Whether an endpoint is in alarm (R120, R151, R214): a TDM port, an IMC trunk that inserts all-ones (R310), or a stream whose block says so. -/
def endAlarm (d : Dev) (r : RouteRec) : Bool :=
  if r.endType = 1 then (tgetD d.aud.tdm r.endUnit TdmPort.reset).alarm
  else if r.endType = 2 then ((tget d.imc.trunks r.endUnit).map (·.inserting)).getD false
  else r.endType == 3 && d.aud.streamAlarm.contains (epKey 3 r.endUnit r.endIndex)

/-- A value of a route under its crossfade at sample `i` of the tick (R135, R136): a cleared output's blend stands. -/
def fadeVal (rt : Route) (i : Nat) (f : RouteRec → Int) : Int :=
  match rt.fade with
  | none => f rt.rcd
  | some x =>
    let old := match x.frozen with
      | none => f x.old
      | some (r, w) => mixW (f r) (f x.old) w
    if rt.clearing.isSome ∧ rt.rcd.output then old
    else if 48 ≤ x.n + i then f rt.rcd
    else mixW old (f rt.rcd) (fadeW (x.n + i))

/-- Whether two records have one source, so that a change between them ramps the gain (R135). -/
def sameSource (a b : RouteRec) : Bool :=
  a.conf == b.conf && a.role == b.role && a.channel == b.channel && a.endType == b.endType && a.endUnit == b.endUnit
    && a.endIndex == b.endIndex && a.minus == b.minus && a.monitor == b.monitor

/-- Whether a route plays one source, so that its crossfade ramps the gain alone (R135). -/
def oneSource (rt : Route) : Bool := match rt.fade with
  | none => true
  | some x => sameSource x.old rt.rcd && (match x.frozen with
    | none => true
    | some (r, _) => sameSource r rt.rcd)

/-- A route's sample: its source under its gain, ramped where the gain alone changes and blended otherwise. -/
def routeSample (rt : Route) (i : Nat) (src : RouteRec → Int) : Int :=
  if oneSource rt then satI 24 (q14 (src rt.rcd) (fadeVal rt i (fun r => (r.gain : Int))))
  else fadeVal rt i (fun r => satI 24 (q14 (src r) (r.gain : Int)))

/-- The samples an input's source gives in the condition stage, whether it is all-ones, its conditioned block, and whether it is
in alarm (R118 to R120). A network leg has unity gain; a gated route gives nothing (R148), nor does one whose engine failed (R21, R109). -/
def conditionBlock (d : Dev) (k : Nat) : Bool × List Int × Bool :=
  if k < 8192 then
    let x := tgetD d.aud.capt (legEp k) sixZero
    (x == sixOnes, x, false)
  else
    match routeOf d (k - 8192) with
    | none => (false, sixZero, false)
    | some rt =>
      if engGated d rt.engine ∨ rt.restore.isSome then (false, sixZero, false)
      else
        let cap (r : RouteRec) (i : Nat) : Int := smp (tgetD d.aud.capt (epKey r.endType r.endUnit r.endIndex) sixZero) i
        let x := (List.range 6).map (fun i => fadeVal rt i (fun r => cap r i))
        let y := (List.range 6).map (fun i => routeSample rt i (fun r => cap r i))
        (x == sixOnes, y, endAlarm d rt.rcd)

/-- The condition stage for one input (R119, R120): `lost` where its work was not complete (R21). -/
def conditionInput (d : Dev) (c k : Nat) (lost : Bool) (m : MixIn) : MixIn :=
  if lost then { m with blk := [], alarm := false }
  else
    let (ones, y, alarm) := conditionBlock d k
    let e : Int := if alarm ∨ ones then 0 else y.foldl (fun a v => a + v * v) 0
    let p := if alarm then 0 else m.p
    let p := p + (e - p) / 2 ^ (cParam d c 5).toNat
    { m with p := p, level := if p ≤ 0 then none else some (levelOf p.toNat (6 * 2 ^ 46) 160), alarm := alarm, blk := y }

/-- The blocks held a tick for the Commons go to the mix, with the talker counts they had; the entries of other devices' inputs keep theirs (R542). -/
def releaseHeld (d : Dev) (c : Conf) : Tbl MixIn :=
  (tmap c.heldIns (fun k m => { m with below := ((tget c.ins k).map (·.below)).getD 0, chal := ((tget c.ins k).map (·.chal)).getD 0 }))
    ++ c.ins.filter (fun e => decide (e.1 / 16384 ≠ d.casc.device))

/-- The condition stage of a conference (R20): the blocks go to the mix, or are held a tick for the Commons (R542). -/
def conditionConf (d : Dev) (n : Nat) (c : Conf) (lost : List Nat) : Conf :=
  let old := if c.rcd.spans then c.heldIns else c.ins
  let new : Tbl MixIn := (allInputs d n c).foldl (fun t k =>
    tset t (inputKey d c k) (conditionInput d n k (lost.contains k) (tgetD old (inputKey d c k) MixIn.silent))) []
  if c.rcd.spans then { c with ins := releaseHeld d c, heldIns := new } else { c with ins := new }

/-! ### Talker selection (R121) -/

/-- The level of an input; none is below every threshold. -/
def levelIn (ins : Tbl MixIn) (k : Nat) : Int := ((tget ins k).bind (·.level)).getD (-100000)

/-- Whether input `a` ranks above `b`. -/
def outranks (ins : Tbl MixIn) (a b : Nat) : Bool :=
  decide (levelIn ins b < levelIn ins a ∨ (levelIn ins a = levelIn ins b ∧ a < b))

/-- An input put in its place in a ranked list. -/
def rankInto (ins : Tbl MixIn) (k : Nat) (l : List Nat) : List Nat :=
  match l with
  | [] => [k]
  | j :: r => if outranks ins k j then k :: j :: r else j :: rankInto ins k r

/-- Inputs in rank order, the highest first. -/
def ranked (ins : Tbl MixIn) (l : List Nat) : List Nat := l.foldr (rankInto ins) []

/-- The set and those that have left it, in one update. -/
structure Talk where
  set : List Nat
  left : List Nat
deriving DecidableEq, Repr

/-- An input leaves, and one joins. -/
def Talk.leave (t : Talk) (k : Nat) : Talk := { set := t.set.filter (· != k), left := t.left ++ [k] }
def Talk.join (t : Talk) (k : Nat) : Talk := { set := t.set ++ [k], left := t.left.filter (· != k) }

/-- Those above `k` talkers leave, the lowest-ranked first. -/
def talkTrim (ins : Tbl MixIn) (k : Nat) (t : Talk) : Talk :=
  ((ranked ins t.set).drop k).foldl Talk.leave t

/-- Step 2 for one priority input (R121). -/
def talkPriority (ins : Tbl MixIn) (k : Nat) (on : Int) (prio : List Nat) (t : Talk) (i : Nat) : Talk :=
  if t.set.contains i ∨ levelIn ins i < on then t
  else if t.set.length < k then t.join i
  else
    match (ranked ins (t.set.filter (fun j => !prio.contains j))).getLast? with
    | none => t
    | some low => (t.leave low).join i

/-- Step 3 for one input in rank order (R121). -/
def talkJoin (ins : Tbl MixIn) (k : Nat) (on : Int) (t : Talk) (i : Nat) : Talk :=
  if t.set.contains i ∨ t.set.length ≥ k ∨ levelIn ins i < on then t else t.join i

/-- The update of the talker set (R121): candidates, priority inputs, K and the parameters of R122. -/
def talkerUpdate (cands prio : List Nat) (k : Nat) (on off hang hyst need : Int) (ins : Tbl MixIn) (set : List Nat) :
    Talk × Tbl MixIn :=
  let ins := tmap ins (fun i m => { m with below := if set.contains i ∧ levelIn ins i < off then m.below + 1 else 0 })
  let t : Talk := (set.filter (fun i => !cands.contains i)).foldl Talk.leave { set := set, left := [] }
  let t := talkTrim ins k t
  let goes (i : Nat) : Bool := match tget ins i with
    | none => true
    | some m => m.alarm || decide (max 1 hang ≤ (m.below : Int))
  let t := (t.set.filter goes).foldl Talk.leave t
  let order := ranked ins cands
  let t := (order.filter (fun i => prio.contains i)).foldl (talkPriority ins k on prio) t
  let t := order.foldl (talkJoin ins k on) t
  match (ranked ins (t.set.filter (fun j => !prio.contains j))).getLast? with
  | none => (t, tmap ins (fun _ m => { m with chal := 0 }))
  | some low =>
    if t.set.length < k then (t, tmap ins (fun _ m => { m with chal := 0 }))
    else
      let ins := tmap ins (fun i m =>
        { m with chal := if cands.contains i ∧ ¬ t.set.contains i ∧ levelIn ins low + hyst ≤ levelIn ins i then m.chal + 1 else 0 })
      match order.find? (fun i => !t.set.contains i && decide (need ≤ (((tget ins i).map (·.chal)).getD 0 : Int)) &&
          decide (0 < ((tget ins i).map (·.chal)).getD 0)) with
      | none => (t, ins)
      | some w => ((t.leave low).join w, tmod ins w (fun m => { m with chal := 0 }))

/-! ### Dynamics (R127, R128) -/

/-- One sample of a compressor and limiter: channel `ch` of conference `c`, 0 for the floor (R128). -/
def dynStep (d : Dev) (c ch : Nat) (z : Int) (y : Dyn) : Dyn :=
  let a : Int := z.natAbs
  let env := y.env + rdiv (a - y.env) (if a > y.env then max 1 (chParam d c ch 3) else max 1 (chParam d c ch 4))
  let x := if env ≤ 0 then -100000 else levelOf env.toNat (2 ^ 23) 320
  let t := chParam d c ch 0
  let r := max 16 (chParam d c ch 1)
  let w := chParam d c ch 2
  let gc :=
    if 2 * x < 2 * t - w then 0
    else if w ≠ 0 ∧ 2 * x ≤ 2 * t + w then rdiv ((16 - r) * (2 * (x - t) + w) * (2 * (x - t) + w)) (8 * w * r)
    else rdiv ((16 - r) * (x - t)) r
  let v := x + gc + chParam d c ch 5
  let gl := if v > chParam d c ch 6 then (chParam d c ch 6 - v) * 65536 else y.gl - rdiv y.gl (max 1 (chParam d c ch 7))
  { env := env, gl := gl, g := (gainOf (gc + chParam d c ch 5 + rdiv gl 65536)).toNat }

/-! ### The mix (R124 to R132) -/

/-- The number of an output of the mix stage: channel (0 the floor) and the input it leaves out. -/
def outKey (ch : Nat) (ex : Option Nat) : Nat := match ex with
  | none => ch
  | some i => ch * 2 ^ 20 + 1000 + i

/-- The number under which an input's own conditioned block goes with the outputs, for the monitor term (R129). -/
def selfKey (i : Nat) : Nat := 2 ^ 40 + i

/-- The floor sum's terms at sample `i`: a talker's sample, a fading input's weighted sample (R124). -/
def floorTerm (c : Conf) (k i : Nat) : Int :=
  let y := smp ((tget c.ins k).map (·.blk) |>.getD []) i
  if c.talkers.contains k then y
  else
    match c.fading.find? (fun f => f.1 == k) with
    | none => 0
    | some f => (y * (32768 - fadeW (f.2 + i)) + 16384) / 32768

/-- The floor sum S (R124). -/
def floorSum (c : Conf) (i : Nat) : Int :=
  (c.talkers ++ c.fading.map (·.1)).foldl (fun a k => a + floorTerm c k i) 0

/-- The floor mix Z less an input (R124, R125). -/
def floorZ (d : Dev) (n : Nat) (c : Conf) (i : Nat) (ex : Option Nat) : Int :=
  match ex with
  | none => satI 32 (q14 (floorSum c i) (gainAt d n c.talkers.length))
  | some k =>
    satI 32 (q14 (floorSum c i - floorTerm c k i) (gainAt d n (if c.talkers.contains k then c.talkers.length - 1 else c.talkers.length)))

/-- A channel's consoles under the gain table, and with the floor under them (R132). -/
def channelPre (d : Dev) (n : Nat) (c : Conf) (ch i : Nat) : Int :=
  let ks := (liveConsoles d n ch).map (inputKey d c)
  satI 32 (q14 (ks.foldl (fun a k => a + smp ((tget c.ins k).map (·.blk) |>.getD []) i) 0) (gainAt d n ks.length))
def channelZ (d : Dev) (n : Nat) (c : Conf) (ch i : Nat) (ex : Option Nat) : Int :=
  let fu := chParam d n ch 8
  channelPre d n c ch i + (if fu = -32768 then 0 else satI 32 (q14 (floorZ d n c i ex) (gainOf fu)))

/-- A saturation to 24 bits, with the clamp counted (R129). -/
def clip24 (v : Int) : Int × Nat := (satI 24 v, if satI 24 v = v then 0 else 1)

/-- One sample of an output: channel, input left out, the gains of the sample (floor first), and the channel's state (R129,
R132). -/
def outSample (d : Dev) (n : Nat) (c : Conf) (gains : Tbl Nat) (ch i : Nat) (ex : Option Nat) : Int × Nat :=
  let floor := clip24 (q14 (floorZ d n c i ex) (tgetD gains 0 16384 : Nat))
  if ch = 0 then floor
  else
    let chan := clip24 (q14 (channelZ d n c ch i ex) (tgetD gains ch 16384 : Nat))
    let s := tgetD c.langs ch { live := false, fade := none }
    match s.fade with
    | none => if s.live then chan else floor
    | some m =>
      if 48 ≤ m + i then (if s.live then chan else floor)
      else
        (if s.live then mixW floor.1 chan.1 (fadeW (m + i)) else mixW chan.1 floor.1 (fadeW (m + i)), floor.2 + chan.2)

/-- The language channels brought up to date with their consoles (R132). -/
def langUpdate (d : Dev) (n : Nat) (c : Conf) : Conf :=
  { c with langs := ((List.range c.rcd.langCount).map (· + 1)).foldl (fun t ch =>
      let live := !(liveConsoles d n ch).isEmpty
      let s := tgetD c.langs ch { live := false, fade := none }
      tset t ch (if live = s.live then s else { live := live, fade := if chParam d n ch 9 = 0 then none else some 0 })) [] }

/-- The gains of each of the six samples and the compressors after them: the detector runs on the floor mix, and on each
channel's own mix (R127, R132). -/
def mixGains (d : Dev) (n : Nat) (c : Conf) : List (Tbl Nat) × Tbl Dyn :=
  let chs := List.range (c.rcd.langCount + 1)
  (List.range 6).foldl (fun a i =>
    let dy := chs.foldl (fun (t : Tbl Dyn) ch =>
      tset t ch (dynStep d n ch (if ch = 0 then floorZ d n c i none else channelZ d n c ch i none) (tgetD t ch Dyn.rest))) a.2
    (a.1 ++ [dy.map (fun e => (e.1, e.2.g))], dy)) ([], c.dyns)

/-- The records that a route plays: the one in force, and those that its crossfade and the blend frozen under it come from (R135, R136). -/
def routeRecs (rt : Route) : List RouteRec :=
  match rt.fade with
  | none => [rt.rcd]
  | some f => [rt.rcd, f.old] ++ (f.frozen.map (·.1)).toList

/-- The outputs that the mix forms: the floor, each channel, and the mix-minus of each leg that is a talker or fades out, in the
floor and its channel, of each input that a MIX_MINUS route leaves out, and of each talker of another device (R124, R126,
R544). -/
def mixNeeds (d : Dev) (n : Nat) (c : Conf) : List (Nat × Option Nat) :=
  let own (k : Nat) : List Nat :=
    if c.rcd.spans ∧ k / 16384 ≠ d.casc.device then List.range (c.rcd.langCount + 1)
    else if k % 16384 < 8192 then
      match legOf d (k % 16384) with
      | none => []
      | some l => if l.rcd.audioOut then [if l.rcd.lang ≤ c.rcd.langCount then l.rcd.lang else 0] ++ (l.langFade.map (·.1)).toList else []
    else if d.aud.routes.any (fun r => (routeRecs r.2).any (fun x => x.conf == n && x.output && x.role == 1 && 8192 + x.minus == k % 16384))
    then [0] else []
  ((List.range (c.rcd.langCount + 1)).map (fun ch => (ch, none)))
    ++ ((c.talkers ++ c.fading.map (·.1)).map (fun k => (own k).map (fun ch => (ch, some k)))).flatten

/-- The mix stage of a conference where its mix runs (R20, R121 to R132): contributions of other devices stand in `ins` beside
the local blocks. -/
def mixConf (d : Dev) (n : Nat) (far : List ContribIn) (c : Conf) : Conf × Tbl (List Int) × Nat :=
  let c := if c.rcd.spans then
      let near := c.ins.filter (fun e => decide (e.1 / 16384 = d.casc.device))
      { c with ins := far.foldl (fun t f => tset t f.input
          { p := 0, level := f.level, alarm := f.alarm, blk := f.blk, below := ((tget c.ins f.input).map (·.below)).getD 0, chal := ((tget c.ins f.input).map (·.chal)).getD 0 }) near }
    else c
  let near := (floorInputs d n).map (inputKey d c)
  let cands := near ++ (far.map (·.input))
  let prio := (priorityInputs d n).map (inputKey d c) ++ (far.filter (·.priority)).map (·.input)
  let (t, ins) := talkerUpdate cands prio (confTopK c.rcd) (cParam d n 0) (cParam d n 1) (cParam d n 2) (cParam d n 3) (cParam d n 4) c.ins c.talkers
  let fading := c.fading.filter (fun f => !t.set.contains f.1) ++ (if c.rcd.leaveFade then t.left.map (fun k => (k, 0)) else [])
  let c := langUpdate d n { c with talkers := ranked ins t.set, ins := ins, fading := fading,
                                   lastTalk := (t.set.filter (fun k => !c.talkers.contains k)).foldl (fun l k => tset l k d.bell.tick) c.lastTalk }
  let (gains, dyns) := mixGains d n c
  let (outs, clips) := (mixNeeds d n c).foldl (fun (a : Tbl (List Int) × Nat) k =>
    let s := (List.range 6).map (fun i => outSample d n c (gains.getD i []) k.1 i k.2)
    (tset a.1 (outKey k.1 k.2) (s.map (·.1)), a.2 + sumN (s.map (·.2)))) ([], 0)
  let outs := c.ins.foldl (fun t e => tset t (selfKey e.1) e.2.blk) outs
  ({ c with dyns := dyns, clip := c.clip + BitVec.ofNat 64 clips,
            fading := (c.fading.map (fun f => (f.1, f.2 + 6))).filter (fun f => decide (f.2 < 48)),
            langs := tmap c.langs (fun _ s => { s with fade := (s.fade.map (· + 6)).filter (fun m => decide (m < 48)) }) }, outs, clips)

/-! ### Outputs (R126, R129, R133 to R135) -/

/-- An output of the mix; a mix-minus that was not formed is the floor or the channel itself (R124). -/
def outBlock (outs : Tbl (List Int)) (ch : Nat) (ex : Option Nat) : List Int :=
  match tget outs (outKey ch ex) with
  | some b => b
  | none => tgetD outs (outKey ch none) sixZero

/-- The outputs of the conferences in a tick, each with its count of clamps before the tick: none where the work of the mix was lost or no
mix runs (R21, R604). -/
abbrev MixOuts := Tbl (BitVec 64 × Option (Tbl (List Int)))

/-- The outputs of a conference; none reads as zero. -/
def outsOf (all : MixOuts) (n : Nat) : Tbl (List Int) := ((tget all n).bind (·.2)).getD []

/-- What an output route's record plays of its conference's outputs, before gain (R129, R133): the clamps of the monitor term counted. -/
def routeSrc (d : Dev) (all : MixOuts) (moving : Bool) (r : RouteRec) (i : Nat) : Int × Nat :=
  match confOf d r.conf with
  | none => (0, 0)
  | some c =>
    let outs := outsOf all r.conf
    let o := smp (match r.role with
      | 0 => outBlock outs 0 none
      | 1 => outBlock outs 0 (some (inputKey d c (8192 + r.minus)))
      | 2 => outBlock outs r.channel none
      | _ => outBlock outs (((routeOf d r.minus).map (·.listen)).getD 0) none) i
    if r.monitor = 0 ∨ moving then (o, 0)
    else clip24 (o + q14 (smp (tgetD outs (selfKey (inputKey d c (8192 + r.minus))) []) i) (r.monitor : Int))

/-- The block of an output route for the tick, and the clamps, those of every source that a crossfade blends (R129, R135). A cleared route fades to zero. -/
def routeOut (d : Dev) (all : MixOuts) (rt : Route) : List Int × Nat :=
  let s := (List.range 6).map (fun i =>
    let src (r : RouteRec) : Int × Nat := routeSrc d all rt.move.isSome r i
    let hits (r : RouteRec) (gain : Int) : Nat := (src r).2 + (clip24 (q14 (src r).1 gain)).2
    let v := routeSample rt i (fun r => (src r).1)
    let v := match rt.clearing with
      | none => v
      | some k => mixW v 0 (fadeW (min 48 (k + i)))
    (v, if oneSource rt then hits rt.rcd (fadeVal rt i (fun r => (r.gain : Int))) else sumN ((routeRecs rt).map (fun r => hits r (r.gain : Int)))))
  (s.map (·.1), sumN (s.map (·.2)))

/-- The PCM that a leg's encoder takes (R126, R134): its mix-minus where it talks, else the floor or its channel. -/
def legOut (d : Dev) (c : Conf) (outs : Tbl (List Int)) (n : Nat) (l : Leg) : List Int :=
  let ch (x : Nat) : Nat := if x ≤ c.rcd.langCount then x else 0
  let b (x : Nat) : List Int := outBlock outs (ch x) (some (inputKey d c n))
  match l.langFade with
  | none => b l.rcd.lang
  | some (old, k) => (List.range 6).map (fun i =>
      if 48 ≤ k + i then smp (b l.rcd.lang) i else mixW (smp (b old) i) (smp (b l.rcd.lang) i) (fadeW (k + i)))

/-- A conference's outputs handed to its output routes and legs: where the work of the mix was lost or no mix runs, every output is
zero (R21, R604); so is the block of a route that is gated, lost or being restored (R109, R147, R148). -/
def deliverConf (all : MixOuts) (n : Nat) (lostRoutes : List Nat) (d : Dev) : Dev :=
  match confOf d n with
  | none => d
  | some c =>
    let outs := (tget all n).bind (·.2)
    let r := d.aud.routes.map (fun e =>
      if e.2.rcd.conf = n ∧ e.2.rcd.output then
        match outs with
        | none => (e.1, { e.2 with blk := sixZero, absent := true }, 0)
        | some _ =>
          if engGated d e.2.engine ∨ lostRoutes.contains e.1 ∨ e.2.twin ∨ e.2.restore.isSome then (e.1, { e.2 with blk := sixZero, absent := true }, 0)
          else let (b, k) := routeOut d all e.2; (e.1, { e.2 with blk := b, absent := e.2.move.isSome }, k)
      else (e.1, e.2, 0))
    let pcm := d.media.legs.foldl (fun t e =>
      if e.2.rcd.conf = n ∧ e.2.rcd.audioOut ∧ (e.2.st = .active ∨ e.2.st = .migrating) then
        tset t e.1 (match outs with
          | none => sixZero
          | some o => legOut d c o e.1 e.2)
      else t) d.aud.pcm
    let clips := sumN (r.map (·.2.2))
    let d := onAud d (fun a => { a with routes := r.map (fun e => (e.1, e.2.1)), pcm := pcm })
    let d := onMedia d (fun m => { m with legs := tmap m.legs (fun _ l =>
      if l.rcd.conf = n then { l with langFade := (l.langFade.map (fun f => (f.1, f.2 + 6))).filter (fun f => decide (f.2 < 48)) } else l) })
    onConf d n (fun c => { c with clip := c.clip + BitVec.ofNat 64 clips })

/-- A conference clamped in the tick: CLIP and the latch (R129). -/
def clipNote (d : Dev) (n : Nat) (before : BitVec 64) : Dev :=
  match confOf d n with
  | none => d
  | some c => if c.clip = before then d else raiseLeaf (onAud d (fun a => { a with clipLast := n })) 17 24

/-- The mix of one conference: the device after it, and its outputs. A conference that spans waits one tick more for its blocks and
outputs (R542). -/
def mixOne (lostMix : List Nat) (n : Nat) (c : Conf) (d : Dev) : Dev × Option (Tbl (List Int)) :=
  if ¬ confHere d c then (d, tget d.casc.inOuts c.rcd.tag)
  else if c.mix = none ∨ c.restore.isSome ∨ lostMix.contains n then (if c.rcd.spans then onConf d n (fun x => { x with heldOuts := [] }) else d, none)
  else
    let (c1, outs, _) := mixConf d n (if c.rcd.spans then tgetD d.casc.heldContrib c.rcd.tag [] else []) c
    (onConf d n (fun _ => { c1 with heldOuts := if c.rcd.spans then outs else [] }), some (if c.rcd.spans then c.heldOuts else outs))

/-- The mixes of the conferences, one after another. -/
def mixAll (lostMix ns : List Nat) (a : Dev × MixOuts) : Dev × MixOuts :=
  match ns with
  | [] => a
  | n :: rest =>
    match confOf a.1 n with
    | none => mixAll lostMix rest a
    | some c =>
      if ¬ c.live then mixAll lostMix rest a
      else
        let r := mixOne lostMix n c a.1
        mixAll lostMix rest (r.1, tset a.2 n (c.clip, r.2))

/-- The hand-over of one conference's outputs. -/
def handOver (all : MixOuts) (lostRoutes : List Nat) (d : Dev) (n : Nat) : Dev :=
  match tget all n with
  | none => d
  | some x => clipNote (deliverConf all n lostRoutes d) n x.1

/-- The crossfades of routes run on by six samples; a route that has faded out is gone once its last block has been played (R135, R153). -/
def routesAdvance (d : Dev) : Dev :=
  onAud d (fun a => { a with routes := (tmap a.routes (fun _ r =>
    { r with fade := if r.clearing.isSome ∧ r.rcd.output then r.fade else (r.fade.map (fun f => { f with n := f.n + 6 })).filter (fun f => decide (f.n < 48)),
             clearing := r.clearing.map (· + 6) })).filter (fun e => match e.2.clearing with
      | none => true
      | some k => decide (k < 54)) })

/-- The audio stages of the tick that ends (R20), with the settings in force in it: mix and hand-over of the blocks conditioned in the tick
before it, and conditioning of the blocks captured in the tick before it. -/
def audioTick (lostIn lostMix lostRoutes : List Nat) (d : Dev) : Dev :=
  let ns := d.media.confs.map (·.1)
  let m := mixAll lostMix ns (d, [])
  let d := ns.foldl (handOver m.2 lostRoutes) m.1
  let d := onMedia d (fun m => { m with confs := tmap m.confs (fun n c => if c.live then conditionConf d n c lostIn else c) })
  routesAdvance d

end Sys2Proof.Machine
end

