-- ==== Sys2Proof/Machine/Wire.lean ====
section
/-! DEFINITION. Derivation of keys (R480), and cascade frames as bytes: how one is built, sent, checked and handed on (R538 to R540). -/

namespace Sys2Proof.Machine

/-! ### Derivation (R480, R481) -/

/-- The derivation of R480: counter mode over HMAC-SHA-256, the first `n` bytes of k(1), k(2), … -/
def kdf (ki context : List Byte) (n : Nat) : List Byte :=
  ((List.range (ceilDiv n 32)).map (fun i =>
    (Config.hmacSha256 ki (beBytes (i + 1) 4 ++ [0x46#8, 0x4D#8, 0x37#8, 0x32#8, 0x34#8, 0x30#8, 0x00#8] ++ context
      ++ beBytes (8 * n) 4)).take 32)).flatten.take n

/-- Bytes as a number, the first most significant. -/
def beNat (bs : List Byte) : Nat := bs.foldl (fun a b => a * 256 + b.toNat) 0

/-! ### Cascade ports -/

/-- The device with CASC changed. -/
def onCasc (d : Dev) (f : CascState → CascState) : Dev := { d with casc := f d.casc }

/-- Cascade port `p`. -/
def cascPort (d : Dev) (p : Nat) : CascPort := tgetD d.casc.ports p CascPort.reset

/-- The device with cascade port `p` changed. -/
def onCascPort (d : Dev) (p : Nat) (f : CascPort → CascPort) : Dev :=
  onCasc d (fun c => { c with ports := tupd c.ports p CascPort.reset f })

/-- Whether a port is UP (R537). -/
def cascUp (d : Dev) (p : Nat) : Bool := (cascPort d p).st == .up

/-- The hops of a frame to every device, sent on port `p`: those of the farthest device that the routes reach through it, less 1 (R540). -/
def farHops (d : Dev) (p : Nat) : Nat := maxN (d.casc.routes.map (fun r => if r.2.1 = p then r.2.2 else 0)) - 1

/-! ### Frames as bytes (R538) -/

/-- The TYPE of a frame. -/
inductive CascType where
  | data | control | bell | media
deriving DecidableEq, Repr

/-- TYPE's code (R538). -/
def CascType.code (t : CascType) : Nat := match t with
  | .data => 0 | .control => 1 | .bell => 2 | .media => 3

/-- Whether a frame of a TYPE carries a TAG (R538). -/
def tagged (t : CascType) : Bool := t == .control || t == .media

/-- The bytes of a frame before its TAG (R538). -/
def cascHead (t : CascType) (hops src dst : Nat) (corr : Int) (pay : List Byte) : List Byte :=
  [0xD5#8, 0xA7#8] ++ beBytes t.code 1 ++ beBytes hops 1 ++ beBytes src 1 ++ beBytes dst 1 ++ beBytes pay.length 2 ++ beInt corr 8 ++ pay

/-- The Commons link key (R480, R538); its length and the label's CALLER bytes are the model's (log 176). -/
def linkKey (d : Dev) : List Byte :=
  kdf (tgetD d.fold.bases d.casc.base [])
    (labelBytes { purpose := 0x20, version := 1, outLen := 32, generation := d.casc.gen, object := d.casc.domain, caller := 0 }) 32

/-- The TAG over a frame's bytes before it, except bytes 3 and 8 to 15 (R538). -/
def cascTag (d : Dev) (bs : List Byte) : List Byte := (Config.hmacSha256 (linkKey d) (bs.take 3 ++ (bs.drop 4).take 4 ++ bs.drop 16)).take 16

/-- A frame with the TAG `tag`, up to its CRC. -/
def cascBody (t : CascType) (hops src dst : Nat) (corr : Int) (pay tag : List Byte) : List Byte :=
  cascHead t hops src dst corr pay ++ (if tagged t then tag else [])

/-- A whole frame of this device's making (R538). -/
def cascFrame (d : Dev) (t : CascType) (hops src dst : Nat) (corr : Int) (pay : List Byte) : List Byte :=
  let b := cascBody t hops src dst corr pay (cascTag d (cascHead t hops src dst corr pay))
  b ++ beBytes (crc32c b).toNat 4

/-- Whether a received frame's CRC holds (R538). -/
def crcHolds (h : CascHdr) (t : CascType) (pay : List Byte) : Bool :=
  (crc32c (cascBody t h.hops h.src h.dst h.corr pay h.tag)).toNat == h.crc

/-- Whether a received frame's TAG holds, where it has one (R538). -/
def tagHolds (d : Dev) (h : CascHdr) (t : CascType) (pay : List Byte) : Bool :=
  !tagged t || h.tag == cascTag d (cascHead t h.hops h.src h.dst h.corr pay)

/-- The KIND of a CONTROL payload, with its content (R539). -/
inductive CascCtl where
  | hello (domain dev rank : Nat)
  | topo (hops : List Nat)
  | keepalive
  | laneCopy (port lane : Nat)
  | digest (mask : Nat) (digest : BitVec 64) (epoch : Word)
  | takeover (taken home : Nat)
  | twinBeat (dev state : Nat)
deriving DecidableEq, Repr

/-- A CONTROL payload as bytes (R539): its fields in the rule's order, each in the fewest whole bytes that hold it (log 176). -/
def ctlBytes (c : CascCtl) : List Byte := match c with
  | .hello domain dev rank => [1#8] ++ beBytes domain 2 ++ beBytes dev 1 ++ beBytes rank 1
  | .topo hops => [2#8] ++ (List.range 16).flatMap (fun n => beBytes (hops.getD n 15) 1)
  | .keepalive => [3#8]
  | .laneCopy port lane => [4#8] ++ beBytes port 1 ++ beBytes lane 1
  | .digest mask digest epoch => [5#8] ++ beBytes mask 4 ++ beBytes digest.toNat 8 ++ beBytes epoch.toNat 4
  | .takeover taken home => [6#8] ++ beBytes taken 1 ++ beBytes home 1
  | .twinBeat dev state => [7#8] ++ beBytes dev 1 ++ beBytes state 1

/-- A marker's payload as bytes (R69, R538; log 176): tick number, device number, lock state, TIME_ERR, epoch. -/
def bellBytes (m : Marker) : List Byte :=
  beBytes m.tick.toNat 8 ++ beBytes m.device 1 ++ beBytes m.state 1 ++ beBytes m.timeErr.toNat 4 ++ beBytes m.epoch 2

/-- A MEDIA payload as bytes (R543, R544, R547; log 176): which it is, and its fields. -/
def mediaBytes (p : MediaPay) : List Byte := match p with
  | .contribution tag tick ins => [1#8] ++ beBytes tag 4 ++ beBytes tick 4 ++ ins.flatMap (fun i =>
      beBytes i.input 4 ++ beBytes (b2n i.level.isSome + 2 * b2n i.alarm + 4 * b2n i.priority) 1 ++ beInt (i.level.getD 0) 2
        ++ i.blk.flatMap (fun v => beInt v 3))
  | .outputs tag tick blocks => [2#8] ++ beBytes tag 4 ++ beBytes tick 4 ++ blocks.flatMap (fun b => beBytes b.1 6 ++ b.2.flatMap (fun v => beInt v 3))
  | .shadowPacket leg tick cls flags stamp bytes =>
      [3#8] ++ beBytes leg 2 ++ beBytes tick 4 ++ beBytes cls 1 ++ beBytes flags 1 ++ beBytes stamp 8 ++ bytes
  | .shadowCrc leg tick crc _ => [4#8] ++ beBytes leg 2 ++ beBytes tick 4 ++ beBytes crc.toNat 4

/-! ### Sending (R539, R540) -/

/-- A frame sent on a port. -/
def cascTx (d : Dev) (k : OutKind) (p : Nat) (t : CascType) (hops src dst : Nat) (corr : Int) (pay : List Byte) : Dev :=
  emit (onCascPort d p (fun x => { x with tx := satInc x.tx })) k p (wireVals (cascFrame d t hops src dst corr pay))

/-- A CONTROL frame to the neighbour on a port, which goes no further. -/
def cascNear (d : Dev) (k : OutKind) (p : Nat) (c : CascCtl) : Dev := cascTx d k p .control 0 d.casc.device (cascPort d p).peer 0 (ctlBytes c)

/-- A frame to every device, sent on each UP port (R540). -/
def broadcast (d : Dev) (k : OutKind) (t : CascType) (pay : List Byte) : Dev :=
  [0, 1].foldl (fun d p => if cascUp d p then cascTx d k p t (farHops d p) d.casc.device 0xFF 0 pay else d) d

/-- A frame to one device, by its route (R540). -/
def cascRouted (d : Dev) (k : OutKind) (t : CascType) (dst : Nat) (pay : List Byte) : Dev :=
  match tget d.casc.routes dst with
  | none => d
  | some r => cascTx d k r.1 t (r.2 - 1) d.casc.device dst 0 pay

/-! ### Receiving (R537, R538, R540) -/

/-- A port taken DOWN: its routes move at the next bell (R537, R540). -/
def cascDown (d : Dev) (p reason : Nat) : Dev :=
  let raise := cascUp d p && (reason == 3 || reason == 4)
  raiseIf raise (onCasc (onCascPort d p (fun x => { x with
    st := .down, reason := reason, downAt := d.bell.tick, hellos := 0, badTags := 0, dist := [] })) (fun c => { c with topoDue := true })) 23 (2 + p)

/-- A frame handed on by the other port, with the correction `corr` (R540). -/
def cascForward (h : CascHdr) (k : OutKind) (t : CascType) (corr : Int) (pay : List Byte) (d : Dev) : Dev :=
  if h.dst = d.casc.device ∨ h.src = d.casc.device then d
  else if h.hops = 0 then
    (if h.dst = 0xFF then d else onCascPort d h.port (fun x => { x with hopsDrop := satInc x.hopsDrop }))
  else if cascUp d (1 - h.port) then cascTx d k (1 - h.port) t (h.hops - 1) h.src h.dst corr pay
  else d

/-- A CONTROL or MEDIA frame whose TAG fails (R537, R538). -/
def badTag (h : CascHdr) (control : Bool) (d : Dev) : Dev :=
  let d := raiseLeaf (onCascPort d h.port (fun x => { x with authFail := satInc x.authFail })) 23 5
  if ¬ control then d
  else
    let d := onCascPort d h.port (fun x => { x with badTags := x.badTags + 1 })
    if (cascPort d h.port).badTags ≥ 16 ∧ ((cascPort d h.port).st = .hello ∨ (cascPort d h.port).st = .up) then cascDown d h.port 3 else d

/-- A frame received: its count and checks, its forwarding unless it is for the neighbour alone (`near`), and `f` where it is addressed to this
device (R538, R540). -/
def cascRx (h : CascHdr) (t : CascType) (pay : List Byte) (near : Bool) (k : OutKind) (corr : Int) (f : Dev → Dev) (d : Dev) : Dev :=
  if h.port > 1 ∨ ¬ domOn d 39 ∨ (cascPort d h.port).st = .down then d
  else
    let d := onCascPort d h.port (fun x => { x with rx := satInc x.rx })
    if ¬ crcHolds h t pay then onCascPort d h.port (fun x => { x with crcErr := satInc x.crcErr })
    else if ¬ tagHolds d h t pay then badTag h (t == .control) d
    else
      let d := if t = .control then onCascPort d h.port (fun x => { x with badTags := 0 }) else d
      let d := if some h.src = d.casc.twin then onCasc d (fun c => { c with partnerHeard := true, lost := false }) else d
      let d := if near then d else cascForward h k t corr pay d
      if near ∨ h.dst = d.casc.device ∨ h.dst = 0xFF then f d else d

/-- A CONTROL frame received. -/
def cascCtlRx (h : CascHdr) (c : CascCtl) (near : Bool) (k : OutKind) (f : Dev → Dev) (d : Dev) : Dev :=
  cascRx h .control (ctlBytes c) near k h.corr f d

end Sys2Proof.Machine
end

