-- ==== Sys2Proof/Machine/Bell.lean ====
section
/-! DEFINITION. The bell's lock, device time, Pasture arbitration and the time commands (chapters 01 and 02). -/

namespace Sys2Proof.Machine

/-- The device with a part of BELL changed. -/
def onLock (d : Dev) (f : LockState → LockState) : Dev := onBell d (fun b => { b with lock := f b.lock })
def onTime (d : Dev) (f : TimeState → TimeState) : Dev := onBell d (fun b => { b with time := f b.time })
def onErr (d : Dev) (f : ErrState → ErrState) : Dev := onBell d (fun b => { b with err := f b.err })
def onSleep (d : Dev) (f : SleepState → SleepState) : Dev := onBell d (fun b => { b with sleep := f b.sleep })
def onSucc (d : Dev) (f : SuccState → SuccState) : Dev := onBell d (fun b => { b with succ := f b.succ })

/-! ### The counter and corrected time (R47 to R52) -/

/-- The places of the two longer cycles among five. -/
def cPlaces : List (Nat × Nat) := [(0, 1), (0, 2), (0, 3), (0, 4), (1, 2), (1, 3), (1, 4), (2, 3), (2, 4), (3, 4)]

/-- What the first `r` cycles of five add beyond 419,430 each (R47; log 9). -/
def cExtra (r : Nat) : Nat :=
  let p := cPlaces.getD (Config.cPattern % 10) (0, 1)
  b2n (decide (p.1 < r)) + b2n (decide (p.2 < r))

/-- What `n` reference cycles after a multiple of five add (R47). -/
def cAdds (n : Nat) : Nat := n / 5 * 2097152 + n % 5 * 419430 + cExtra (n % 5)

/-- C advanced by reference cycles (R47); it stands still while the BELL domain is off. -/
def advanceC (d : Dev) (cycles : Nat) : Dev :=
  if ¬ domOn d 3 then d
  else onTime d (fun t =>
    { t with c := t.c + BitVec.ofNat 96 (cAdds (t.cycPhase + cycles) - cAdds t.cycPhase), cycPhase := (t.cycPhase + cycles) % 5 })

/-- The rate's share of corrected time, truncated toward zero (R48). -/
def ratePart (t : TimeState) : BitVec 128 :=
  BitVec.ofInt 128 ((t.rate.toInt * ((t.c.toNat : Int) - t.anchor.toNat)).tdiv (2 ^ 44))

/-- Corrected time T (R48). -/
def timeT (t : TimeState) : BitVec 128 := t.c.setWidth 128 + t.acc + t.offset + ratePart t

/-- A change of RATE, with T kept continuous (R49). -/
def setRate (r : BitVec 32) (t : TimeState) : TimeState := { t with acc := t.acc + ratePart t, anchor := t.c, rate := r }

/-- Units of 2⁻¹⁶ ns in a second. -/
def unitsPerSec : Nat := 65536000000000

/-- T as seconds, nanoseconds and fraction (R50): T's 128 bits are split as an unsigned number (DESIGN CHOICE, log 150). -/
def timeParts (t : Nat) : Nat × Nat × Nat := (t / unitsPerSec % 2 ^ 64, t % unitsPerSec / 65536, t % 65536)

/-- A snapshot: C and T are latched (R52). -/
def bellSnap (d : Dev) : Dev :=
  onTime d (fun t =>
    let p := timeParts (timeT t).toNat
    { t with rawSnap := t.c, secSnap := BitVec.ofNat 64 p.1, nsSnap := p.2.1, fracSnap := p.2.2 })

/-- BELL_SNAP: a write of GO, `cycles` reference cycles after C last advanced in the model (R52). -/
def execBellSnap (cycles : Nat) (s : State) : Host.Outcome State Fault Refusal :=
  nextDev s (fun d => hostWrites 3 0x100010 bellSnap (advanceC d cycles))

/-- A read of TICK_LO latches TICK_HI (R74). -/
def tickLoRead (d : Dev) : Dev :=
  emitRead (onBell d (fun b => { b with tickHiLatch := BitVec.ofNat 32 (b.tick.toNat / 2 ^ 32) })) 0x100008 (d.bell.tick.toNat % 2 ^ 32)

/-- TICK_LO_READ (R74). -/
def execTickLoRead (s : State) : Host.Outcome State Fault Refusal := nextDev s (hostReads 3 0x100008 tickLoRead)

/-- The sleep counter advanced by crystal cycles (R66). -/
def advanceCrystal (d : Dev) (k : Nat) : Dev := onSleep d (fun s => { s with cnt := s.cnt + BitVec.ofNat 48 k })

/-- A read of SLEEP_CNT_LO latches the high word (R75). -/
def sleepCntLoRead (d : Dev) : Dev :=
  emitRead (onSleep d (fun s => { s with cntHiLatch := s.cnt.toNat / 2 ^ 32 })) 0x100300 (d.bell.sleep.cnt.toNat % 2 ^ 32)

/-- SLEEP_CNT_LO_READ, `crystal` cycles of the sleep crystal after the counter last advanced in the model (R75): it lies in AON. -/
def execSleepCntLoRead (crystal : Nat) (s : State) : Host.Outcome State Fault Refusal :=
  nextDev s (fun d => hostReads 0 0x100300 sleepCntLoRead (advanceCrystal d crystal))

/-- The latency correction of time-stamping port `p` (R54). -/
def portAdjOf (d : Dev) (p : Nat) : Int := if p < 12 then (tgetD d.bell.portAdj p 0).toInt else 0

/-- A raw time-stamp with the port's latency correction added (R54). -/
def adjusted (d : Dev) (p stamp : Nat) : Nat := ((stamp : Int) + portAdjOf d p).toNat

/-- A time-stamp placed in a port group's capture queue, or refused where 1,024 wait: the frame's completion status then shows NO_STAMP
(R57, R58). `port` is the port within the group. -/
def captureStamp (d : Dev) (group port tag stamp : Nat) : Dev :=
  let q := tgetD d.bell.tsq group []
  if q.length ≥ 1024 then
    raiseLeaf (onBell (emit d .noStamp group [(port : Int), (tag : Int)]) (fun b => { b with tsqDrop := tupd b.tsqDrop group 0 satInc })) 2 (1 + group)
  else
    let p := timeParts stamp
    onBell d (fun b => { b with tsq := tset b.tsq group (q ++ [{ port := port, tag := tag, sec := BitVec.ofNat 64 p.1, ns := p.2.1, frac := p.2.2 }]) })

/-- A read of TSQ_W3_g returns the fraction and removes the entry (R59). -/
def tsqW3Read (group : Nat) (d : Dev) : Dev :=
  let q := tgetD d.bell.tsq group []
  emitRead (onBell d (fun b => { b with tsq := tset b.tsq group (q.drop 1) })) (0x10010C + 0x20 * group) ((q.head?.map (·.frac)).getD 0)

/-- TSQ_W3_READ (R59). -/
def execTsqW3Read (group : Nat) (s : State) : Host.Outcome State Fault Refusal :=
  nextDev s (fun d => if group < 4 then hostReads 3 (0x10010C + 0x20 * group) (tsqW3Read group) d else d)

/-! ### The bound on the error of T (R65) -/

/-- HOLD_DRIFT over the ticks since the bound was last exact, in ns (R65; rounding under log 16). -/
def holdDrift (d : Dev) : Nat :=
  (rdiv ((d.bell.err.holdDrift * d.bell.err.holdTicks * 125000 : Nat) : Int) 1000000000).toNat

/-- The bound (R65). In FREE, ACQUIRE and HOLDOVER it grows from the last exact one (log 28). -/
def errNow (d : Dev) : Nat :=
  if ¬ d.bell.time.timeValid then 0xFFFFFFFF
  else if d.bell.lock.st = .locked then
    (match d.bell.err.setBy with
      | .headEnd => d.bell.err.todErr + 2
      | _ => d.bell.err.setBound.toNat + 2)
  else d.bell.err.holdErr + holdDrift d

/-- The frequency that RCLK_SEL chooses, in Hz; none is off (R64). -/
def rclkHz (sel : Nat) : Option Nat :=
  match sel with
  | 1 => some 10000000
  | 2 => some 25000000
  | 3 => some 156250000
  | _ => none

/-- RCLK_OUT as it is to be (R64): outside LOCKED it runs from the holdover estimate, or is held low by RCLK_SQUELCH (log 144 for the time
before the first LOCKED). -/
def rclkNow (d : Dev) : RclkOut :=
  match rclkHz d.bell.err.rclkSel with
  | none => .low
  | some hz => if d.bell.lock.st = .locked then .recovered hz else if d.bell.err.rclkSquelch then .low else .estimate hz

/-- TIME_ERR brought up to date, saturating, and RCLK_OUT with it (R64, R65). -/
def updateErr (d : Dev) : Dev := onErr d (fun e => { e with timeErr := BitVec.ofNat 32 (min (errNow d) 0xFFFFFFFF), rclkOut := rclkNow d })

/-! ### The lock state machine (R40 to R43) -/

/-- The average of the frequency estimates of the ticks of LOCKED; the older one where there is none (R43; rounding under log 16). -/
def freqAverage (l : LockState) : Option Int :=
  if l.freqHist = [] then l.freqAvg else some (rdiv (l.freqHist.foldl (· + ·) 0) l.freqHist.length)

/-- A change of lock state, with STATE_CHANGE (R43, R533). On leaving LOCKED the bound starts to grow, and a measurement of the crystal under
way is given up; on reaching it THAWED ends (R65, R66, R68). HOLDOVER runs on the last averaged frequency estimate (log 145). -/
def setLock (st : LockSt) (changed : Bool) (d : Dev) : Dev :=
  if d.bell.lock.st = st then d
  else
    let bound := errNow d
    let d := if d.bell.lock.st = .locked then onSleep (onErr d (fun e => { e with holdErr := bound, holdTicks := 0 })) (fun x => { x with calStart := none }) else d
    let d := onLock d (fun l => { l with
      st := st, inRun := 0, validRun := if st = .holdover then 0 else l.validRun, srcChanged := st == .holdover && changed,
      wasLocked := l.wasLocked || st == .locked, thawed := l.thawed && st != .locked,
      freqAvg := freqAverage l, freqHist := [], freqNow := if st = .holdover then (freqAverage l).getD l.freqNow else l.freqNow })
    raiseLeaf (updateErr d) 2 7

/-- The largest slew in a tick, 8 ns (R42). -/
def slewMax : Int := 524288

/-- 50 ns and 500 ns in units of 2⁻¹⁶ ns. -/
def inLock : Int := 50 * 65536
def outLock : Int := 500 * 65536

/-- A phase error taken into −62.5 µs to +62.5 µs (R43). -/
def phaseMod (e : Int) : Int := (e + 4096000000) % 8192000000 - 4096000000

/-- The time-stamping port at which the bell's reference arrives (R40, R54). -/
def refPort (d : Dev) : Nat :=
  match d.bell.lock.src with
  | 1 => d.bell.lock.refSlice
  | 2 => 9 + d.bell.succ.inPort
  | _ => 11

/-- A valid reference event (R43): its phase error in units of 2⁻¹⁶ ns, before the correction of R54, and the loop's frequency estimate. The
slew of the LOCKED loop is not stated but for its bound: it is free within it (log 27). -/
def referenceEvent (err freq : Int) (d : Dev) : Dev :=
  if d.bell.lock.src = 0 then d
  else
    let e := phaseMod (err - portAdjOf d (refPort d))
    let q := drawFree d
    let d := if d.bell.lock.st = .locked then q.2 else d
    let slew : Int := match d.bell.lock.st with
      | .acquire => clampI (-slewMax) slewMax (-e)
      | .locked => (q.1 : Int) % (2 * slewMax + 1) - slewMax
      | _ => 0
    let d := onLock d (fun l => { l with
      validRun := l.validRun + 1, missRun := 0, phaseErr := e, slew := slew,
      freqNow := if l.st = .holdover then l.freqNow else freq,
      freqHist := if l.st = .locked then (freq :: l.freqHist).take 1024 else l.freqHist,
      inRun := if l.st = .acquire ∧ (e.natAbs : Int) ≤ inLock then l.inRun + 1 else 0 })
    let d := onSucc d (fun s => { s with missed := 0 })
    let l := d.bell.lock
    match l.st with
    | .free => if l.validRun ≥ 8 then setLock .acquire false d else d
    | .acquire => if l.inRun ≥ 64 then setLock .locked false d else d
    | .locked => if (e.natAbs : Int) > outLock then setLock .holdover false d else d
    | .holdover => if l.validRun ≥ (if l.srcChanged then 8 else 64) then setLock .acquire false d else d

/-- REFERENCE_EVENT (R43). -/
def execReferenceEvent (err freq : Int) (s : State) : Host.Outcome State Fault Refusal := nextDev s (referenceEvent err freq)

/-- A missing reference event (R43, R71): four in a row end LOCKED and ACQUIRE; on a device that follows markers MARKER_LOSS is raised. -/
def referenceMissing (d : Dev) : Dev :=
  if d.bell.lock.src = 0 then d
  else
    let d := onLock d (fun l => { l with validRun := 0, inRun := 0, missRun := l.missRun + 1 })
    let d := if d.bell.lock.src = 2 ∧ ¬ d.bell.succ.bellwether then raiseLeaf (onSucc d (fun s => { s with missed := min 255 (s.missed + 1) })) 2 6 else d
    let l := d.bell.lock
    if l.missRun ≥ 4 ∧ (l.st = .locked ∨ (l.st = .acquire ∧ l.wasLocked)) then setLock .holdover false d
    else if l.missRun ≥ 4 ∧ l.st = .acquire then setLock .free false d
    else d

/-- REFERENCE_MISSING (R43). -/
def execReferenceMissing (s : State) : Host.Outcome State Fault Refusal := nextDev s referenceMissing

/-- SRC written (R43): the value in force changes nothing. -/
def setSrc (src : Nat) (d : Dev) : Dev :=
  if src = d.bell.lock.src then d
  else
    let d := onLock d (fun l => { l with src := src, validRun := 0, missRun := 0, inRun := 0 })
    if src = 0 then setLock .free false d
    else if d.bell.lock.st = .free then d
    else if d.bell.lock.st = .holdover then onLock d (fun l => { l with srcChanged := true })
    else setLock .holdover true d

/-- Whether a channel's frame sync lies within ±50 ns of the bell's expected position: `skew` ns after the old reference's, whose phase error is
the bell's own (R41, R267; log 146). -/
def syncWithin (d : Dev) (skew : Int) : Bool := decide (((phaseMod (d.bell.lock.phaseErr - skew * 65536)).natAbs : Int) ≤ inLock)

/-- The reference slice passes to another channel, whose frame sync lies `skew` ns from the old one's (R41): HOLDOVER unless it is within
±50 ns of the bell's expected position. -/
def setRefSlice (slice : Nat) (skew : Int) (d : Dev) : Dev :=
  let within := syncWithin d skew
  let d := onLock d (fun l => { l with refSlice := slice })
  if d.bell.lock.src = 1 ∧ ¬ within ∧ (d.bell.lock.st = .locked ∨ d.bell.lock.st = .acquire) then setLock .holdover false d else d

/-! ### Offset, rate and the head end's time of day (R49, R51, R60 to R62) -/

/-- OFFSET in force: T steps by the difference (R49), and time is valid. -/
def applyOffset (v : BitVec 128) (by_ : TimeSrc) (bound : Word) (d : Dev) : Dev :=
  let d := onTime d (fun t => { t with offset := v, timeValid := true })
  let d := onErr d (fun e => { e with
    setBy := by_, setBound := if by_ = .command then bound else e.setBound,
    holdErr := if by_ = .command then bound.toNat else e.todErr, holdTicks := 0 })
  updateErr d

/-- A change of the control cores' own staged for a bell. -/
def stageOwn (d : Dev) (c : Change) : Dev :=
  onSys d (fun y => { y with staged := y.staged ++ [{ change := c, ctx := { tr := none, op := 0, seq := 0, wanted := false, epoch := 0 }, data := [], accepted := true, armed := false, waitDomain := none }] })

/-- The magnitude of a step of OFFSET in units of 2⁻¹⁶ ns. -/
def stepUnits (new old : BitVec 128) : Nat := (new - old).toInt.natAbs

/-- The magnitude in whole ns of a step of OFFSET, as TOD_PENDING shows it. -/
def stepNs (new old : BitVec 128) : Nat := stepUnits new old / 65536

/-- OFFSET from the head end's time of day (R60, R61): `send` in units of 2⁻¹⁶ ns, `ri` the refractive-index correction, `raw` the
captured time-stamp less OFFSET. A step above TOD_STEP_MAX waits for the host. A later message whose step is within the limit is applied and
leaves an older pending value as it is, which a confirmation still applies (DESIGN CHOICE, log 147). -/
def headEndTime (send ri raw eqd resp : Nat) (d : Dev) : Dev :=
  let arrival : BitVec 128 := BitVec.ofInt 128 ((send : Int) + 65536 * Config.todDelay eqd resp ri)
  let new := arrival - BitVec.ofNat 128 raw
  if stepUnits new d.bell.time.offset > d.bell.err.todStepMax * 65536 then raiseLeaf (onErr d (fun e => { e with todPend := some new })) 2 5
  else stageOwn d (.headEndOffset new)

/-- The response time in ns: 34.0 µs in native mode (R265); the standard one is G.9804.2's, 35 µs (PRESUMED, log 29). -/
def respTime (d : Dev) : Nat := if d.acc.cfg.native then 34000 else 35000

/-- TOD_MESSAGE (R60): the named frame's time-stamp `stamp`, before the slice's latency correction (R54), was captured on a slice. -/
def todMessage (slice send ri stamp : Nat) (d : Dev) : Dev :=
  if d.bell.lock.src ≠ 1 ∨ ¬ d.bell.lock.todSrc then d
  else
    let raw := (BitVec.ofNat 128 (adjusted d slice stamp) - d.bell.time.offset).toNat
    let d := onErr d (fun e => { e with todLast := some (slice, send, ri, raw) })
    headEndTime send ri raw (tgetD d.acc.slices slice Slice.reset).eqd (respTime d) d

/-- TOD_MESSAGE (R60). -/
def execTodMessage (slice send ri stamp : Nat) (s : State) : Host.Outcome State Fault Refusal := nextDev s (todMessage slice send ri stamp)

/-- OFFSET recomputed after a ranging result, from the last message and the equalisation delay of the slice that it came on (R62, R292). -/
def todRecompute (d : Dev) : Dev :=
  match d.bell.err.todLast with
  | none => d
  | some (slice, send, ri, raw) =>
    if d.bell.lock.src = 1 ∧ d.bell.lock.todSrc then headEndTime send ri raw (tgetD d.acc.slices slice Slice.reset).eqd (respTime d) d else d

/-! ### 1PPS and the crystal (R63, R66) -/

/-- PPS_OUT_EDGE: 1PPS_OUT rises as T crosses a whole second; it stays low while time is not valid (R63). -/
def execPpsOutEdge (s : State) : Host.Outcome State Fault Refusal :=
  nextDev s (fun d => if d.bell.time.timeValid then onErr d (fun e => { e with ppsOut := true }) else d)

/-- PPS_OUT_FALL: 1PPS_OUT falls WIDTH milliseconds after it rose (R63). -/
def execPpsOutFall (s : State) : Host.Outcome State Fault Refusal := nextDev s (fun d => onErr d (fun e => { e with ppsOut := false }))

/-- T − OFFSET, the rate-corrected time (R66). -/
def rateTime (t : TimeState) : BitVec 128 := t.c.setWidth 128 + t.acc + ratePart t

/-- A measuring interval of 262,144 crystal cycles ends, and the next one begins (R66; rounding under log 16). The first event of a stay in LOCKED
only begins one (log 148). -/
def sleepCal (d : Dev) : Dev :=
  if d.bell.lock.st = .locked ∧ d.pwr.season ≠ .winter then
    let now := rateTime d.bell.time
    match d.bell.sleep.calStart with
    | none => onSleep d (fun x => { x with calStart := some now })
    | some t0 => onSleep d (fun x => { x with cal := (rdiv ((now - t0).toNat : Int) 262144).toNat % 2 ^ 32, calValid := true, calStart := some now })
  else onSleep d (fun x => { x with calStart := none })

/-- SLEEP_CAL_MEASURE: 262,144 crystal cycles have passed since the last one; `cycles` reference cycles after C last advanced in the model (R66). -/
def execSleepCalMeasure (cycles : Nat) (s : State) : Host.Outcome State Fault Refusal := nextDev s (fun d => sleepCal (advanceC d cycles))

/-! ### The bellwether and succession (R69 to R71) -/

/-- The lock state as STATE codes it (R73). -/
def lockCode (s : LockSt) : Nat := match s with | .free => 0 | .acquire => 1 | .locked => 2 | .holdover => 3

/-- The bellwether's marker at a bell (R69, R540). -/
def bellwetherMarker (d : Dev) : Dev :=
  if d.bell.succ.bellwether then
    broadcast d .bellMarker .bell (bellBytes (Marker.mk d.bell.tick d.casc.device (lockCode d.bell.lock.st) d.bell.err.timeErr d.bell.succ.epoch))
  else d

/-- A marker that arrives over the route to its sender (R69, R71, R540): the first since reset and a higher epoch are followed; of two with one epoch
the lower device number is. Epochs are compared as plain 16-bit numbers: the claim after 65,535 is not higher (DESIGN CHOICE, log 149). -/
def followMarker (port : Nat) (m : Marker) (d : Dev) : Dev :=
  let s := d.bell.succ
  let off := match tget d.casc.routes m.device with
    | none => false
    | some r => r.1 != port
  let follow := decide (m.epoch > s.epoch) || (m.epoch == s.epoch && (!(s.heard || s.bellwether) || decide (m.device ≤ s.leader)))
  if off || !follow then d
  else onSucc d (fun s => { s with
    epoch := m.epoch, leader := m.device, heard := true, inPort := port % 2, bellwether := s.bellwether && m.device == d.casc.device, missed := 0 })

/-- A BELL frame received: followed, and handed on with the residence time added to CORR, from its time-stamps at the two ports before the
corrections of R54 (R55, R69, R538). -/
def markerRx (h : CascHdr) (m : Marker) (residence : Nat) (d : Dev) : Dev :=
  if ¬ cascUp d h.port then d
  else cascRx h .bell (bellBytes m) false .bellMarker (h.corr + residence + portAdjOf d (9 + (h.port + 1) % 2) - portAdjOf d (9 + h.port % 2))
    (followMarker h.port m) d

/-- BELL_MARKER_RX (R69). -/
def execBellMarkerRx (h : CascHdr) (m : Marker) (residence : Nat) (s : State) : Host.Outcome State Fault Refusal := nextDev s (markerRx h m residence)

/-- SUCCESSION_CLAIM (R71): the successor of rank r that has missed r markers declares itself bellwether at its next bell. -/
def successionClaim (d : Dev) : Dev :=
  let s := d.bell.succ
  if s.bellwether ∨ s.rank = 0 ∨ s.rank > 14 ∨ s.missed < s.rank then d
  else
    bellwetherMarker (onSucc d (fun s => { s with bellwether := true, epoch := (s.epoch + 1) % 65536, leader := d.casc.device, heard := true, missed := 0 }))

/-- SUCCESSION_CLAIM (R71). -/
def execSuccessionClaim (s : State) : Host.Outcome State Fault Refusal := nextDev s successionClaim

/-- CASC_DELAY_MEASURE: the link delay of a port from the four time-stamps of a round trip, its own two before the correction of R54 (R70; rounding
under log 16). -/
def execCascDelayMeasure (port : Nat) (t1 t2 t3 t4 : Int) (s : State) : Host.Outcome State Fault Refusal :=
  nextDev s (fun d =>
    if port > 1 then d
    else
      let a := portAdjOf d (9 + port)
      let v := rdiv (t4 + a - (t1 + a) - (t3 - t2)) 2 + (tgetD d.bell.succ.asym port 0).toInt
      emit (onSucc d (fun s => { s with delay := tset s.delay port (BitVec.ofInt 32 v) })) .delayExchange port [v])

/-! ### Pasture at the bell (R24 to R30) -/

/-- The allotments that an armed change brings into force at this bell (R15, R27): the last one staged. -/
def allotsDue (d : Dev) : Option (List Nat) :=
  if ¬ domOn d 2 ∨ d.aux.swapState = 1 then none
  else d.sys.staged.foldl (fun o t => match t.change with
    | .kervon (.pastureAllotSet l) _ => if t.armed then some l else o
    | _ => o) none

/-- Allotments put in force. -/
def setAllots (allots : List Nat) (d : Dev) : Dev := (allots.zipIdx).foldl (fun d a => onClass d a.2 (fun c => { c with allot := a.1 })) d

/-- The credits of a new tick (R26, R29, R39): the ended tick's counts are kept, the allotments that this bell brings are put in force, every class
receives its allotment, and what waits is served; a class that still waits stalls the new tick. -/
def pastureBell (d : Dev) : Dev :=
  let d := onPast d (fun p => { p with
    handed := false,
    classes := tmap p.classes (fun _ c => { c with usedLast := c.used, poolLast := c.pool, stallLast := c.stall, used := 0, pool := false, stall := false }) })
  let d := grantCredits (match allotsDue d with
    | some l => setAllots l d
    | none => d)
  (List.range 24).foldl (fun d k => if (pastClass d k).waiting > 0 then stallClass d k 0 else d) d

/-- POOL_HANDOVER: 62.5 µs after the bell unspent own credits pass to the pool (R26). A class that has waited since the pool was empty draws on it
here, by the third item of R26, and not only from the next bell on as the fourth says (DESIGN CHOICE, log 151). -/
def poolHandover (d : Dev) : Dev :=
  let rest := sumN ((List.range 24).map (fun k => (pastClass d k).own))
  let d := (List.range 24).foldl (fun d k => onClass d k (fun c => { c with own := 0 })) d
  let d := onPast d (fun p => { p with pool := p.pool + rest, handed := true })
  drainPool d (min d.past.pool (allWaiting d))

/-- POOL_HANDOVER (R26). -/
def execPoolHandover (s : State) : Host.Outcome State Fault Refusal := nextDev s (fun d => if d.past.handed then d else poolHandover d)

/-! ### Commands -/

/-- PASTURE_ALLOT_SET (R27). -/
def actPastureAllotSet (allots : List Nat) (_v d : Dev) : ActResult :=
  if allots.length ≠ 24 then .refuse .badLength 0 noField
  else if allots.any (fun a => decide (a > 3000000)) then .refuse .badParam 0 (4 * allots.findIdx (fun a => decide (a > 3000000)))
  else if sumN allots > 3000000 then .refuse .noResource 0 noField
  else .stage false 0 [] none d

/-- The allotments in force from their bell (R27, R39). The bell that they take effect at has granted them already, and nothing is left to do; where it
has not, what the new tick has served so far is served anew under them. -/
def applyPastureAllotSet (allots : List Nat) (d : Dev) : Dev :=
  if (List.range 24).all (fun k => allotOf d k == allots.getD k 0) then d
  else
    let d := onPast (setAllots allots d) (fun p => { p with
      classes := tmap p.classes (fun _ c => { c with waiting := c.waiting + c.used, used := 0, pool := false }) })
    let d := grantCredits d
    onPast d (fun p => { p with classes := tmap p.classes (fun _ c => { c with stall := decide (c.waiting > 0) }) })

/-- PASTURE_USED_n (R29). -/
def pastureUsedReg (d : Dev) (k : Nat) : Nat :=
  let c := pastClass d k
  c.usedLast + 2 ^ 30 * b2n c.poolLast + 2 ^ 31 * b2n c.stallLast

/-- PASTURE_QUERY (R530). -/
def actPastureQuery (_v d : Dev) : ActResult :=
  .read ((List.range 24).map (allotOf d) ++ (List.range 24).map (pastureUsedReg d)) d

/-- Whether TIME_CONFIG's fields lie in their ranges (R75, R530). -/
def timeCfgOk (c : TimeCfg) : Bool :=
  decide (c.src < 4 ∧ c.phaseOfs < 125000 ∧ c.holdDrift < 2 ^ 24 ∧ c.todStepMax < 2 ^ 32 ∧ c.todErr < 2 ^ 32 ∧ 1 ≤ c.ppsWidth ∧ c.ppsWidth ≤ 500
    ∧ c.rclkSel < 4 ∧ c.sleepDrift < 2 ^ 24 ∧ c.succRank < 16)

/-- TIME_CONFIG (R530). -/
def actTimeConfig (cfg : TimeCfg) (_v d : Dev) : ActResult :=
  if timeCfgOk cfg then .stage false 0 [] none d else .refuse .badParam 0 (firstBad [(decide (cfg.src < 4), 0), (decide (cfg.phaseOfs < 125000), 4), (decide (cfg.holdDrift < 2 ^ 24), 8), (decide (cfg.todStepMax < 2 ^ 32), 12), (decide (cfg.todErr < 2 ^ 32), 16), (decide (1 ≤ cfg.ppsWidth ∧ cfg.ppsWidth ≤ 500 ∧ cfg.rclkSel < 4), 20), (decide (cfg.sleepDrift < 2 ^ 24), 24), (decide (cfg.succRank < 16), 36)])

/-- The fields in force from their bell. RANK 0 makes the device bellwether; leaving it makes it a follower (R71; log 30). -/
def applyTimeConfig (cfg : TimeCfg) (d : Dev) : Dev :=
  let d := onLock d (fun l => { l with autoRate := cfg.autoRate, todSrc := cfg.todSrc, phaseOfs := cfg.phaseOfs })
  let d := onErr d (fun e => { e with
    holdDrift := cfg.holdDrift, todStepMax := cfg.todStepMax, todErr := cfg.todErr, ppsWidth := cfg.ppsWidth, rclkSquelch := cfg.rclkSquelch, rclkSel := cfg.rclkSel })
  let d := onSleep d (fun s => { s with drift := cfg.sleepDrift })
  let dev := d.casc.device
  let d := onSucc d (fun s =>
    let lead := if cfg.succRank = s.rank then s.bellwether else if cfg.succRank = 0 then true else if s.rank = 0 then false else s.bellwether
    { s with asym := [(0, cfg.cascAsym0), (1, cfg.cascAsym1)], rank := cfg.succRank, bellwether := lead,
             leader := if lead && !s.bellwether then dev else s.leader, heard := s.heard || lead })
  updateErr (setSrc cfg.src d)

/-- TIME_SET (R65). -/
def actTimeSet (_offset : BitVec 128) (_bound : Word) (_v d : Dev) : ActResult := .stage false 0 [] none d

/-- OFFSET and the bound in force. -/
def applyTimeSet (offset : BitVec 128) (bound : Word) (d : Dev) : Dev := applyOffset offset .command bound d

/-- TIME_RATE (R51): refused while AUTO_RATE drives RATE. -/
def actTimeRate (_rate : BitVec 32) (_v d : Dev) : ActResult :=
  if d.bell.lock.autoRate ∧ d.bell.lock.st = .locked then .refuse .busy 0 noField else .stage false 0 [] none d

/-- RATE in force (R49). -/
def applyTimeRate (rate : BitVec 32) (d : Dev) : Dev := onTime d (setRate rate)

/-- TIME_OFFSET_CONFIRM (R61, R530): DONE at once, and no change, when nothing is pending. -/
def actTimeOffsetConfirm (action : Nat) (v d : Dev) : ActResult :=
  if action > 1 then .refuse .badParam 0 0 else if v.bell.err.todPend.isNone then .now [] d else .stage false 0 [] none d

/-- The pending step applied or discarded (R61). -/
def applyTimeOffsetConfirm (action : Nat) (d : Dev) : Dev :=
  match d.bell.err.todPend with
  | none => d
  | some v =>
    let d := onErr d (fun e => { e with todPend := none })
    if action = 0 then applyOffset v .headEnd 0 d else d

end Sys2Proof.Machine
end

