-- ==== Sys2Proof/Machine/Ecc.lean ====
section
/-! DEFINITION. What INTEG makes of reads and writes (R444 to R446, R449, R452): errors counted and latched, poisoned words, flip masks. -/

namespace Sys2Proof.Machine

/-- The device with INTEG changed. -/
def onInteg (d : Dev) (f : IntegState → IntegState) : Dev := { d with integ := f d.integ }

/-- Class `k` of memory. -/
def intClass (d : Dev) (k : Nat) : IntClass := tgetD d.integ.classes k IntClass.reset

/-- The device with class `k` of memory changed. -/
def onIntClass (d : Dev) (k : Nat) (f : IntClass → IntClass) : Dev :=
  onInteg d (fun i => { i with classes := tupd i.classes k IntClass.reset f })

/-- The rows of a stack. -/
def stackOf (d : Dev) (s : Nat) : StackRows := tgetD d.integ.rowMap s StackRows.reset

/-- The device with a stack's rows changed. -/
def onStack (d : Dev) (s : Nat) (f : StackRows → StackRows) : Dev :=
  onInteg d (fun i => { i with rowMap := tupd i.rowMap s StackRows.reset f })

/-- The class, and within it the stack, of a Pasture offset: stack 0 is the lower half (R443). -/
def pastMemClass (a : Nat) : Nat := if a < 0x400000000 then 6 else 7

/-- The row of a stack that holds a Pasture offset (R449). -/
def rowOf (a : Nat) : Nat := a % 0x400000000 / 1024

/-! ### Errors found by a read (R444 to R446, R449) -/

/-- A row of Pasture made a candidate for remapping, once (R449). -/
def rowCandidate (d : Dev) (s row : Nat) : Dev :=
  if (stackOf d s).cands.any (fun c => c.1 == row) ∨ (stackOf d s).copying.contains row then d
  else onStack d s (fun x => { x with cands := x.cands ++ [(row, d.bell.tick)] })

/-- A correctable error counted on its row; 64 rows are kept (R449). -/
def rowCe (d : Dev) (s row : Nat) : Dev :=
  let old := ((stackOf d s).counts.find? (fun r => r.row == row)).getD { row := row, ces := 0, found := false }
  let new : RowCount := { row := row, ces := old.ces + 1, found := true }
  let d := onStack d s (fun x => { x with counts := (new :: x.counts.filter (fun r => r.row != row)).take 64 })
  if new.ces ≥ d.integ.rowThr then rowCandidate d s row else d

/-- What a read of the 8-byte word at `addr` of class `k` finds: what stands there, or what this read meets (R444, R452). -/
def eccFinds (d : Dev) (k addr : Nat) (find : EccFind) : EccFind :=
  let bits := ((d.integ.errs.find? (fun e => e.1 == k && e.2.1 == addr / 8)).map (·.2.2)).getD 0
  if d.integ.poison.contains (k, addr / 8) ∨ bits ≥ 2 ∨ find = .uncorrectable then .uncorrectable
  else if bits = 1 ∨ find = .correctable then .correctable
  else .clean

/-- A correctable error: counted, latched and written back corrected (R444, R446). -/
def eccCe (d : Dev) (k addr : Nat) : Dev :=
  let d := raiseLeaf (onIntClass d k (fun c => { c with ce := satInc c.ce, ceAddr := BitVec.ofNat 64 addr })) 21 k
  let d := onInteg d (fun i => { i with errs := i.errs.filter (fun e => !(e.1 == k && e.2.1 == addr / 8)) })
  if k = 6 ∨ k = 7 then rowCe d (k - 6) (rowOf addr) else d

/-- An uncorrectable error: counted, latched, and the word poisoned until it is written whole (R444, R446). -/
def eccUe (d : Dev) (k addr : Nat) : Dev :=
  let d := raiseLeaf (onIntClass d k (fun c => { c with ue := satInc c.ue, ueAddr := BitVec.ofNat 64 addr })) 21 (8 + k)
  let d := onInteg d (fun i => { i with poison := if i.poison.contains (k, addr / 8) then i.poison else i.poison ++ [(k, addr / 8)] })
  if k = 6 ∨ k = 7 then rowCandidate d (k - 6) (rowOf addr) else d

/-- A read of a word as INTEG sees it: what the reader is told, and what is counted. -/
def eccRead (d : Dev) (k addr : Nat) (find : EccFind) : EccFind × Dev :=
  match eccFinds d k addr find with
  | .clean => (.clean, d)
  | .correctable => (.correctable, eccCe d k addr)
  | .uncorrectable => (.uncorrectable, eccUe d k addr)

/-- The bits set in a flip mask (R452). -/
def flipBits (c : IntClass) : Nat :=
  sumN ((List.range 64).map (fun i => b2n (c.flipData.getLsbD i))) + sumN ((List.range 8).map (fun i => getField c.flipCheck i 1))

/-- `n` bytes written from address `a` of class `k`: words written whole are in error and poisoned no more, and an armed mask corrupts the write
of the word it matches, or of the first word (R444, R452). -/
def eccStored (d : Dev) (k a n : Nat) : Dev :=
  if n = 0 then d
  else
    let whole (w : Nat) : Bool := decide (a ≤ 8 * w ∧ 8 * w + 8 ≤ a + n)
    let d := onInteg d (fun i => { i with errs := i.errs.filter (fun e => !(e.1 == k && whole e.2.1)), poison := i.poison.filter (fun e => !(e.1 == k && whole e.2)) })
    let c := intClass d k
    let w := (if c.match_ then c.flipAddr.toNat else a) / 8
    if c.arm ∧ a / 8 ≤ w ∧ w ≤ (a + n - 1) / 8 then
      let d := onIntClass d k (fun c => { c with arm := false, flipDone := true, flipAddr := BitVec.ofNat 64 (8 * w) })
      let d := if flipBits c = 0 then d
        else onInteg d (fun i => { i with errs := i.errs.filter (fun e => !(e.1 == k && e.2.1 == w)) ++ [(k, w, flipBits c)] })
      raiseLeaf d 21 19
    else d

/-- A word written whole. -/
def eccWrite (d : Dev) (k addr : Nat) : Dev := eccStored d k (addr / 8 * 8) 8

/-- Bytes written to Pasture as INTEG sees it; stack 1 is the upper half (R443). -/
def pastWritten (d : Dev) (a n : Nat) : Dev :=
  let low := min n (0x400000000 - a)
  eccStored (eccStored d 6 a low) 7 (a + low) (n - low)

/-- The words that `n` bytes at an address touch. -/
def touchedWords (a n : Nat) : List Nat := (List.range ((a + n + 7) / 8 - a / 8)).map (fun i => a / 8 * 8 + 8 * i)

/-- Bytes of Pasture read: the first word found uncorrectable, if one is. -/
def pastRead (d : Dev) (a n : Nat) : Option Nat × Dev :=
  (touchedWords a n).foldl (fun r w => match r.1 with
    | some _ => r
    | none => match eccRead r.2 (pastMemClass w) w .clean with
      | (.uncorrectable, e) => (some w, e)
      | (_, e) => (none, e)) (none, d)

end Sys2Proof.Machine
end

