-- ==== Sys2Proof/Machine/Mailbox.lean ====
section
/-! DEFINITION. The packet mailbox ring of an engine (R212, R213). -/

namespace Sys2Proof.Machine

/-- The mailbox ring's base, and its head and tail words (R209, R212). -/
def mboxBase : Nat := 0x60000
def mboxHead : Nat := 0x67FF8
def mboxTail : Nat := 0x67FFC

/-- A word of an engine's local memory, and the memory with a word written. -/
def memWord (m : Memory) (a : Nat) : Nat := leNat (memRead m a 4)
def memSetWord (m : Memory) (a v : Nat) : Memory := memWrite m a (leBytes v 4)

/-- Entries that wait: head and tail count entries modulo 254, twice the ring, so that a full ring tells itself from an empty one; a word's
entry is the word modulo 127 (log 21). -/
def mboxCount (m : Memory) : Nat := (memWord m mboxHead + 254 - memWord m mboxTail % 254) % 254

/-- The bytes of an entry (R212): TAG, the ingress stamp in ns, class, flags (`flags` beside MORE) and the packet's bytes; the handle
of the whole packet is the device's own (log 21). -/
def mboxEntry (tag handle stamp cls flags : Nat) (data : List Byte) : List Byte :=
  leBytes data.length 2 ++ leBytes tag 2 ++ leBytes handle 4 ++ leBytes stamp 8 ++ leBytes cls 1
    ++ leBytes (flags + b2n (decide (data.length > 224))) 1
    ++ List.replicate 14 0#8 ++ (data ++ List.replicate 224 0#8).take 224

/-- `n` bytes written at an offset of an engine's local memory as INTEG sees it: class 0, by physical engine (R443, R444, R452). -/
def localStored (d : Dev) (e a n : Nat) : Dev := eccStored d 0 ((engOf d e).phys * 2 ^ 32 + a) n

/-- A packet delivered to an engine's mailbox; with 127 entries held it is dropped, and nothing is overwritten (R212, R213). What the Drove
delivers it writes into the ring itself, as bytes of local memory. -/
def mailboxPut (d : Dev) (e tag handle stamp cls flags : Nat) (data : List Byte) : Dev :=
  let m := (engOf d e).core.mem
  if mboxCount m ≥ 127 then
    raiseLeaf (onEng d e (fun x => { x with mboxDrop := satInc x.mboxDrop })) 19 2
  else
    let h := memWord m mboxHead
    let d := localStored (localStored d e (mboxBase + 256 * (h % 127)) 256) e mboxHead 4
    emit (onEng d e (fun x => { x with core := { x.core with
      mem := memSetWord (memWrite m (mboxBase + 256 * (h % 127)) (mboxEntry tag handle stamp cls flags data)) mboxHead ((h + 1) % 254) } })) .mailbox e [(tag : Int)]

/-- The kernel advances the tail past one entry. -/
def mailboxPop (d : Dev) (e : Nat) : Dev :=
  let m := (engOf d e).core.mem
  if mboxCount m = 0 then d
  else onEng (localStored d e mboxTail 4) e (fun x => { x with core := { x.core with mem := memSetWord m mboxTail ((memWord m mboxTail + 1) % 254) } })

end Sys2Proof.Machine
end

