-- ==== Sys2Proof/Machine/Fold.lean ====
section
/-! DEFINITION. The Fold (chapter 16): OTP, presence, seal, keys, associations and the trust commands. -/

namespace Sys2Proof.Machine

/-- The device with its OTP changed. -/
def onOtp (d : Dev) (f : OtpState → OtpState) : Dev := onFold d (fun x => { x with otp := f x.otp })

/-- The device with its boot state changed. -/
def onBoot (d : Dev) (f : BootState → BootState) : Dev := onFold d (fun x => { x with boot := f x.boot })

/-- The generation's fields that govern (R494). -/
def otpRules (d : Dev) : OtpFields := d.fold.boot.otpInForce.getD OtpFields.none

/-! ### Presence, seal, random numbers -/

/-- PRESENCE_N held 20 ms: a button window opens for 30 s, or its 30 s start afresh; none opens in the lockout after a
stuck press (R498). -/
def presencePress (d : Dev) : Dev :=
  if d.fold.guard.lockout then d
  else
    let fresh := d.fold.guard.window ≠ .button
    let d := onGuard d (fun g =>
      { g with pressed := true, window := if g.window = .jumper then .jumper else .button,
               endTick := d.bell.tick.toNat + 240000 })
    raiseIf fresh d 22 3

/-- The button window closed; a jumper window stays (R498). -/
def closeButtonWindow (g : GuardState) : GuardState :=
  if g.window = .button then { g with window := .shut, endTick := 0 } else g

/-- PRESENCE_PRESS (R498). -/
def execPresencePress (s : State) : Host.Outcome State Fault Refusal := nextDev s presencePress

/-- PRESENCE_WINDOW_EXPIRY: a button window closes after its 30 s, which the ticks count while BELL runs (R498). -/
def execPresenceWindowExpiry (s : State) : Host.Outcome State Fault Refusal :=
  nextDev s (fun d => if domOn d 3 ∧ d.bell.tick.toNat < d.fold.guard.endTick then d else onGuard d closeButtonWindow)

/-- PRESENCE_STUCK: a press held more than 10 s closes the window and locks out the next (R498). -/
def execPresenceStuck (s : State) : Host.Outcome State Fault Refusal :=
  nextDev s (fun d => raiseLeaf (onGuard d (fun g => { closeButtonWindow g with lockout := true })) 22 4)

/-- PRESENCE_RELEASE: 20 ms of release end the press and the lockout (R498). -/
def execPresenceRelease (s : State) : Host.Outcome State Fault Refusal :=
  nextDev s (fun d => onGuard d (fun g => { g with pressed := false, lockout := false }))

/-- SEAL_BROKEN: eight mismatches, from intact or unproven: every window closes (R499). -/
def execSealBroken (s : State) : Host.Outcome State Fault Refusal :=
  nextDev s (fun d => raiseLeaf (onGuard d (fun g =>
    { g with sealIntact := false, sealHist := true, window := .shut, endTick := 0 })) 22 5)

/-- SEAL_RESTORED: 32,768 matches declare the seal intact (R499). -/
def execSealRestored (s : State) : Host.Outcome State Fault Refusal :=
  nextDev s (fun d => raiseLeaf (onGuard d (fun g => { g with sealIntact := true })) 22 6)

/-- RNG_HEALTH_FAIL: RNG_OK clears and requests wait (R491). -/
def execRngHealthFail (s : State) : Host.Outcome State Fault Refusal :=
  nextDev s (fun d => raiseLeaf (onGuard d (fun g => { g with rngOk := false })) 22 2)

/-- COMMAND_WAIT_EXPIRY: a command that has waited 1 s on the random number generator is refused with BUSY; one whose
generator is healthy does not wait (R491). -/
def execCommandWaitExpiry (h : CmdHdr) (op : Nat) (s : State) : Host.Outcome State Fault Refusal :=
  nextDev s (fun d =>
    if d.fold.guard.rngOk then d
    else answer d { tr := some h.tr, op := op, seq := h.seq, wanted := h.respWanted, epoch := d.sys.epochStaged } .busy
      (refusalData 0 noField))

/-- AUTOSEAL: 60 s after READY without a seal the Fold seals itself (R478). -/
def execAutoseal (s : State) : Host.Outcome State Fault Refusal :=
  nextDev s (fun d =>
    if d.fold.boot.stage = .ready ∧ ¬ d.fold.boot.sealed then raiseLeaf (onBoot d (fun b => { b with sealed := true })) 22 1
    else d)

/-! ### OTP -/

/-- The lowest slot still all zeros (R495). -/
def otpFreeSlot (d : Dev) : Option Nat := (List.range 6).find? (fun k => !thas d.fold.otp.slots k)

/-- The valid generation in the highest slot (R494). -/
def otpRuling (o : OtpState) : Option (Nat × OtpFields) :=
  (List.range 6).foldl (fun a k => match tget o.slots k with
    | some x => if x.valid then some (k + 1, x.fields) else a
    | none => a) none

/-- A commit begun in a slot: the slot is consumed, and valid only once programming has ended well (R495). -/
def otpBegin (d : Dev) (slot : Nat) (f : OtpFields) (x : ReplyCtx) : Dev :=
  onOtp d (fun o => { o with slots := tset o.slots slot { valid := false, fields := f },
                             job := some { slot := slot, fields := f, ctx := x } })

/-- OTP_PROGRAM_DONE: programming and read-back have ended, well or not (R495). -/
def execOtpProgramDone (readBackOk : Bool) (s : State) : Host.Outcome State Fault Refusal :=
  nextDev s (fun d =>
    match d.fold.otp.job with
    | none => d
    | some j =>
      let d := onOtp d (fun o => { o with job := none, failed := !readBackOk,
                                          slots := tset o.slots j.slot { valid := readBackOk, fields := j.fields } })
      if readBackOk then followUp (raiseLeaf d 22 7) j.ctx .done []
      else raiseLeaf (followUp (raiseLeaf d 22 8) j.ctx .internal (refusalData 0 noField)) 0 11)

/-- TRUST_OTP_COMMIT (R495); `zeroOk` says that FLAGS [31:3] and bytes 88 to 223 are zero. -/
def actTrustOtpCommit (fields : OtpFields) (zeroOk : Bool) (_v d : Dev) : ActResult :=
  let g := otpRules d
  if fields.rootEpoch ≠ g.rootEpoch ∨ (fields.jumper ∧ ¬ g.jumper) ∨ (fields.debug ∧ ¬ g.debug) ∨ ¬ zeroOk then
    .refuse .badParam 0 (if fields.rootEpoch ≠ g.rootEpoch then 0 else 1)
  else if d.fold.otp.job.isSome then .refuse .busy 0 noField
  else
    match otpFreeSlot d with
    | none => .refuse .noResource 0 noField
    | some k => .accepted false (otpBegin d k fields)

/-- TRUST_ROOT_ROTATE (R497). -/
def actTrustRootRotate (_v d : Dev) : ActResult :=
  let g := otpRules d
  if d.fold.otp.job.isSome then .refuse .busy 0 noField
  else if g.rootEpoch ≥ 15 then .refuse .noResource 0 noField
  else
    match otpFreeSlot d with
    | none => .refuse .noResource 0 noField
    | some k => .accepted false (otpBegin d k { g with rootEpoch := g.rootEpoch + 1 })

/-! ### Keys -/

/-- An import that fails: BAD_PARAM, IMPORT_FAILS and IMPORT_FAIL (R482). The refusal carries the changed device. -/
def importFail (d : Dev) : Dev := raiseLeaf (onFold d (fun f => { f with importFails := satInc f.importFails })) 22 9

/-- TRUST_SESSION_OPEN: the transport key as RSAES-OAEP gives it, if the ciphertext decrypts to 32 bytes (R482, R501). -/
def actTrustSessionOpen (transportKey : Option Nat) (_v d : Dev) : ActResult :=
  if d.fold.debugUnlocked then .refuse .busy 0 noField
  else
    match transportKey with
    | none => .refuseWith .badParam 0 0 (importFail d)
    | some k =>
      match tfree d.fold.sessions 0 16 with
      | none => .refuse .noResource 0 noField
      | some n => .now [n] (onFold d (fun f => { f with sessions := tset f.sessions n k }))

/-- TRUST_SESSION_CLOSE (R482). -/
def actTrustSessionClose (session : Nat) (_v d : Dev) : ActResult :=
  if ¬ thas d.fold.sessions session then .refuse .badParam 0 0
  else .now [] (onFold d (fun f => { f with sessions := tdel f.sessions session }))

/-- A key wrapped under a transport key: a whole number of semiblocks of 8 bytes and one more, as 80 bytes wrap to 88 (R483, R484). -/
def wrapBytes (key : Nat) (plain : List Byte) : List Byte := beBytes (Config.keyWrap key plain) (8 * ((plain.length + 7) / 8 + 1))

/-- Whether wrapped bytes unwrap, under a session's transport key, to the bytes named: exactly when these wrap to them (R483; log 175). -/
def unwraps (d : Dev) (session : Nat) (wrapped plain : List Byte) : Bool :=
  wrapBytes (tgetD d.fold.sessions session 0) plain == wrapped

/-- TRUST_BASE_IMPORT: a base secret unwrapped, if it keeps its integrity (R483, R502, R503). -/
def actTrustBaseImport (session : Nat) (wrapped secret : List Byte) (_v d : Dev) : ActResult :=
  if ¬ thas d.fold.sessions session then .refuse (if d.fold.debugUnlocked then .busy else .badParam) 0 (if d.fold.debugUnlocked then noField else 0)
  else if d.fold.debugUnlocked then .refuse .busy 0 noField
  else
    if ¬ unwraps d session wrapped secret ∨ secret.length < 32 ∨ secret.length > 64 then .refuseWith .badParam 0 1 (importFail d)
    else
      match tfree d.fold.bases 0 256 with
      | none => .refuse .noResource 0 noField
      | some n => .now [n] (onFold d (fun f => { f with bases := tset f.bases n secret }))

/-- TRUST_BASE_DESTROY (R503). -/
def actTrustBaseDestroy (base : Nat) (_v d : Dev) : ActResult :=
  if ¬ thas d.fold.bases base then .refuse .badParam 0 0
  else .now [] (onFold d (fun f => { f with bases := tdel f.bases base }))

/-- The SHA-256 of a key list (R475). -/
def keylistHash (l : KeyList) : Nat := Config.sha256 (keylistBytes l)

/-- Whether the count and the slots of a key list lie in their ranges (R475). -/
def keylistOk (l : KeyList) : Bool := decide (1 ≤ l.keys.length ∧ l.keys.length ≤ 7) && l.keys.all (fun k => decide (1 ≤ k.1 ∧ k.1 ≤ 7))

/-- TRUST_KEYLIST_LOAD (R475, R501). -/
def actTrustKeylistLoad (list : KeyList) (_v d : Dev) : ActResult :=
  if d.fold.debugUnlocked then .refuse .busy 0 noField
  else if d.fold.keylist.isSome then .refuse .busy 0 noField
  else if d.fold.boot.otpInForce.isNone ∨ keylistHash list ≠ (otpRules d).keylistHash ∨ ¬ keylistOk list then
    .refuseWith .badParam 0 0 (raiseLeaf d 22 9)
  else .now [] (onFold d (fun f => { f with keylist := some list }))

/-! ### Associations -/

/-- Whether the clear fields of a record lie in their ranges (R483). SRTP takes the ciphers of R87, MACsec that of R488. -/
def saRecordOk (r : SaRecord) : Bool :=
  r.zeroOk && decide (r.dir ≤ 1)
    && ((r.path == 1 && r.ssci == 0 && ((r.cipher == 1 && r.keyLen == 16) || (r.cipher == 2 && r.keyLen == 32)))
      || (r.path == 2 && r.cipher == 3 && r.keyLen == 32))

/-- The record of an import from its 80 bytes, with its key and salt (R483): numbers are little-endian; key bytes beyond KEY_LEN and the reserved
bytes are zero. -/
def parseSa (bs : List Byte) : SaRecord × Nat × Nat :=
  let f (o n : Nat) : Nat := leNat ((bs.drop o).take n)
  ({ path := f 0 1, cipher := f 1 1, dir := f 2 1, keyLen := f 3 1, pktLimit := f 48 8, byteLimit := f 56 8, ssci := f 64 4,
     zeroOk := decide (bs.length = 80 ∧ f 68 12 = 0 ∧ f (4 + f 3 1) (32 - f 3 1) = 0) },
   beNat ((bs.drop 4).take (f 3 1)), beNat ((bs.drop 36).take 12))

/-- A limit in force: the lower of the record's and the cap; 0 means the cap (R483, R487). -/
def limitOf (own cap : Nat) : Nat := if own = 0 then cap else min own cap

/-- The limits of an association: packets, SRTCP packets and bytes (R487). -/
def saLimits (r : SaRecord) : Nat × Nat × Nat :=
  if r.path = 1 then (limitOf r.pktLimit (2 ^ 40), 2 ^ 31 - 1, limitOf r.byteLimit (2 ^ 50))
  else (limitOf r.pktLimit (2 ^ 63), 2 ^ 63, limitOf r.byteLimit (2 ^ 63))

/-- Whether an association stands at 7/8 of a limit, or at a limit (R487). -/
def saWarned (a : Sa) : Bool :=
  let (p, c, b) := saLimits a.rcd
  decide (8 * a.pkts ≥ 7 * p ∨ 8 * a.ctrlPkts ≥ 7 * c ∨ 8 * a.bytes ≥ 7 * b)
def saSpent (a : Sa) : Bool :=
  let (p, c, b) := saLimits a.rcd
  decide (a.pkts ≥ p ∨ a.ctrlPkts ≥ c ∨ a.bytes ≥ b)

/-- Association `h`. -/
def saOf (d : Dev) (h : Nat) : Option Sa := tget d.fold.sas h

/-- Whether an association is RETIRED. -/
def saRetired (a : Sa) : Bool := match a.st with
  | .retired _ => true
  | _ => false

/-- Whether an association is bound to a path (R486). -/
def saBound (a : Sa) : Bool := match a.st with
  | .bound => true
  | .warn => true
  | .retired b => b
  | .ready => false

/-- The device with association `h` changed. -/
def onSa (d : Dev) (h : Nat) (f : Sa → Sa) : Dev := onFold d (fun x => { x with sas := tmod x.sas h f })

/-- An association bound to a path (R486). -/
def saBind (d : Dev) (h : Nat) : Dev :=
  onSa d h (fun a => { a with st := if saRetired a then .retired true else if saWarned a then .warn else .bound })

/-- An association unbound (R486). -/
def saUnbind (d : Dev) (h : Nat) : Dev :=
  onSa d h (fun a => { a with st := if saRetired a then .retired false else .ready })

/-- The use of an association counted for one packet: `ctrl` for SRTCP. The answer says whether the path may use it at
all, whether its warning comes with this packet, and whether this packet, still protected, retires it (R486, R487). -/
def saUse (d : Dev) (h : Nat) (ctrl : Bool) (bytes : Nat) : Bool × Bool × Bool × Dev :=
  match saOf d h with
  | none => (false, false, false, d)
  | some a =>
    if saRetired a ∨ ¬ saBound a then (false, false, false, d)
    else
      let b := { a with pkts := if ctrl then a.pkts else a.pkts + 1, ctrlPkts := if ctrl then a.ctrlPkts + 1 else a.ctrlPkts,
                        bytes := a.bytes + bytes }
      let st : SaSt := if saSpent b then .retired true else if saWarned b then .warn else .bound
      (true, saWarned b && a.st == .bound, saSpent b, onSa d h (fun _ => { b with st := st }))

/-- SA_CREATE (R481, R483, R486, R501, R503). -/
def actSaCreate (src : SaSource) (_v d : Dev) : ActResult :=
  let store (rcd : SaRecord) (key salt : Nat) : ActResult :=
    match tfree d.fold.sas 0 24576 with
    | none => .refuse .noResource 0 noField
    | some n => .now [n] (onFold d (fun f =>
        { f with sas := tset f.sas n { st := .ready, rcd := rcd, key := key, salt := salt, pkts := 0, ctrlPkts := 0, bytes := 0, prot := [] } }))
  if d.fold.debugUnlocked then .refuse .busy 0 noField
  else
    match src with
    | .imported session wrapped plain =>
      let x := parseSa plain
      if ¬ thas d.fold.sessions session then .refuse .badParam 0 1
      else if ¬ unwraps d session wrapped plain ∨ ¬ saRecordOk x.1 then .refuseWith .badParam 0 2 (importFail d)
      else store x.1 x.2.1 x.2.2
    | .derived base label rcd =>
      match tget d.fold.bases base with
      | none => .refuse .badParam 0 1
      | some secret =>
        if label.purpose < 0x10 ∨ label.version ≠ 1 then .refuse .badParam 1 (if label.purpose < 0x10 then 2 else 4)
        else if label.outLen < 16 ∨ label.outLen > 64 ∨ ¬ saRecordOk rcd then .refuse .badParam 0 (if label.outLen < 16 ∨ label.outLen > 64 then 5 else 50)
        else
          let k := kdf secret (labelBytes label) label.outLen
          store rcd (beNat (k.take rcd.keyLen)) (beNat ((k.drop rcd.keyLen).take 12))

/-- SA_DESTROY (R486). -/
def actSaDestroy (handle : Nat) (_v d : Dev) : ActResult :=
  match saOf d handle with
  | none => .refuse .badParam 0 0
  | some a =>
    if saBound a then .refuse .busy 0 noField
    else .now [] (onFold d (fun f => { f with sas := tdel f.sas handle }))

/-- The state of an association as a number, in the order of R486. -/
def saStateCode (a : Sa) : Nat :=
  match a.st with
  | .ready => 0
  | .bound => 1
  | .warn => 2
  | .retired true => 3
  | .retired false => 4

/-- SA_QUERY: state, limits and counts (R503). -/
def actSaQuery (handle : Nat) (_v d : Dev) : ActResult :=
  match saOf d handle with
  | none => .refuse .badParam 0 0
  | some a =>
    let (p, c, b) := saLimits a.rcd
    .read [saStateCode a, p, c, b, a.pkts, a.ctrlPkts, a.bytes] d

/-! ### Images and rollback -/

/-- The counter bound to a program, and its value (R476). -/
def rollbackFind (d : Dev) (program : Nat) : Option (Nat × Nat) :=
  (d.fold.otp.rollback.find? (fun e => e.2.1 == program)).map (fun e => (e.1, e.2.2))

/-- The value an image's ROLLBACK is checked against; a program with no counter has 0 (R476). -/
def rollbackOf (d : Dev) (program : Nat) : Nat := ((rollbackFind d program).map (·.2)).getD 0

/-- Whether an image lies below its program's counter (R476, R500). -/
def belowCounter (d : Dev) (i : ImageDesc) : Bool := decide (i.rollback < rollbackOf d i.programId)

/-- Whether a signature verifies: in a customer's slot only under a held key list that names the slot (R474, R475). -/
def signedOk (d : Dev) (i : ImageDesc) : Bool :=
  i.sigOk && (i.signerSlot == 0 || (match d.fold.keylist with
    | some l => l.keys.any (fun k => k.1 == i.signerSlot)
    | none => false))

/-- The verification of an image: the first failure of R224, with its status and reason byte. `lifted` says that
presence lifts the rollback check. -/
def verifyImage (d : Dev) (i : ImageDesc) (lifted : Bool) : Option (Status × Nat) :=
  if ¬ i.formOk then some (.badParam, 1)
  else if ¬ i.hashOk then some (.badParam, 2)
  else if ¬ signedOk d i then some (.badParam, 3)
  else if belowCounter d i ∧ ¬ lifted then some (.needsPresence, 4)
  else if (i.kind = 1 ∧ i.signerSlot = 0) ∨ (i.kind ≠ 1 ∧ i.signerSlot ≠ 0) then some (.badParam, 5)
  else none

/-- TRUST_FW_VERIFY: the reason byte of R224, 0 for an image that passes. -/
def actTrustFwVerify (img : ImageDesc) (_v d : Dev) : ActResult :=
  .read [((verifyImage d img (d.fold.guard.window != .shut)).map (·.2)).getD 0] d

/-- The images that run: Fold and control-core firmware, the groups' media firmware and the customer programs (R477). -/
def runningImages (d : Dev) : List ImageDesc :=
  d.fold.boot.runFold.toList ++ d.fold.boot.runCtrl.toList
    ++ d.flock.groups.filterMap (fun e => e.2.image) ++ d.flock.engs.filterMap (fun e => e.2.prog.map (·.img))

/-- TRUST_ROLLBACK_COMMIT (R476, R477). -/
def actTrustRollbackCommit (program : Nat) (_v d : Dev) : ActResult :=
  match (runningImages d).find? (fun i => i.programId == program) with
  | none => .refuse .badParam 0 0
  | some img =>
    let v := min img.rollback 255
    let set (k : Nat) : Dev := raiseLeaf (onOtp d (fun o => { o with rollback := tset o.rollback k (program, v) })) 22 10
    match rollbackFind d program with
    | some (k, old) => if v ≤ old then .now [old] d else .now [v] (set k)
    | none =>
      match tfree d.fold.otp.rollback 2 30 with
      | none => .refuse .noResource 0 noField
      | some k => .now [v] (set k)

/-! ### Seal, debug, reset, identity -/

/-- The device's serial number (R234): the vendor identifier "OMSY" and the Fold's 4-byte value. -/
def deviceSerial : Nat := 0x4F4D5359 * 2 ^ 32 + Config.serialNumber % 2 ^ 32


/-- TRUST_BOOT_SEAL (R478). -/
def actTrustBootSeal (_v d : Dev) : ActResult := .now [] (onBoot d (fun b => { b with sealed := true }))

/-- TRUST_PRESENCE_CLOSE: every window closes (R498). -/
def actTrustPresenceClose (_v d : Dev) : ActResult :=
  .now [] (onGuard d (fun g => { g with window := .shut, endTick := 0 }))

/-- Every key of the access slices retired and its store zeroised (R247, R501). -/
def retireGem (d : Dev) : Dev :=
  { d with acc := { d.acc with slices := tmap d.acc.slices (fun _ s => { s with keys := { s.keys with keys := tmap s.keys.keys (fun _ k => { k with key := 0, retired := true }) } }) } }

/-- TRUST_DEBUG_UNLOCK: every association and access key retires, sessions and base handles are zeroised, and debug access opens (R501). -/
def actTrustDebugUnlock (_v d : Dev) : ActResult :=
  if ¬ (otpRules d).debug then .refuse .badParam 0 noField
  else
    .now [] (onFold (retireGem d) (fun f =>
      { f with sas := tmap f.sas (fun _ a => { a with st := .retired (saBound a), key := 0, salt := 0 }), sessions := [],
               bases := [], debugUnlocked := true }))

/-- TRUST_FACTORY_RESET: the key cache, sessions, associations and key list are zeroised; the device resets once the
reply is out (R501). -/
def actTrustFactoryReset (_v d : Dev) : ActResult :=
  .now [] (onFold d (fun f =>
    { f with sas := [], sessions := [], bases := [], keylist := none, pairsHeld := false, resetReq := true }))

/-- TRUST_IDENTITY: modulus, serial number and grade (R492). -/
def actTrustIdentity (_v d : Dev) : ActResult := .read [Config.identityModulus, deviceSerial, b2n Config.gradeE] d

/-- TRUST_IMPORT_KEY: the import modulus (R482). -/
def actTrustImportKey (_v d : Dev) : ActResult := .read [Config.importModulus] d

/-- BOOT_STAGE as a number (R504). -/
def stageCode (b : BootStage) : Nat :=
  match b with
  | .rom => 0 | .foldFw => 1 | .ctrl => 2 | .ready => 3 | .recovery => 4

/-- FOLD_STATUS (R504); `lit` is whether the FOLD domain is on: while it is off only the AON fields read (R558). -/
def foldStatus (d : Dev) (lit : Bool) : Nat :=
  let f := d.fold
  let g := f.guard
  let aon := b2n g.sealIntact * 16 + b2n g.sealHist * 32 + b2n (g.window != .shut) * 64 + b2n (g.window == .jumper) * 128
    + b2n g.jumperStrapped * 256
  if lit then
    aon + stageCode f.boot.stage + b2n f.boot.sealed * 8 + b2n f.debugUnlocked * 512 + b2n f.keylist.isSome * 1024
      + b2n g.rngOk * 2048 + f.boot.foldSlot * 4096 + f.boot.ctrlSlot * 8192 + b2n f.boot.selftest * 16384
      + f.boot.otpGen * 65536 + (otpRules d).rootEpoch * 2 ^ 20
  else aon

/-- PRESENCE_REMAIN in units of 10 ms, 0xFFFF for a jumper window (R504). -/
def presenceRemain (d : Dev) : Nat :=
  match d.fold.guard.window with
  | .shut => 0
  | .jumper => 0xFFFF
  | .button => ceilDiv (d.fold.guard.endTick - d.bell.tick.toNat) 80

/-- OTP_STATUS (R504). -/
def otpStatus (o : OtpState) : Nat :=
  sumN (o.slots.map (fun e => 2 ^ e.1 * b2n e.2.valid + 2 ^ (8 + e.1))) + b2n o.job.isSome * 2 ^ 16 + b2n o.failed * 2 ^ 17

/-- A FOLD register by its offset: unlisted offsets read as zero (R469, R504). -/
def foldReg (d : Dev) (off : Nat) : Nat :=
  let f := d.fold
  if off = 0 then foldStatus d true
  else if off = 4 then presenceRemain d
  else if off = 8 then otpStatus f.otp
  else if off = 0xC then f.sas.length + 2 ^ 16 * (f.sas.filter (fun e => saRetired e.2)).length
  else if off = 0x10 then f.sessions.length + 2 ^ 16 * f.bases.length
  else if off = 0x14 then f.importFails.toNat
  else if off = 0x18 then f.guard.denied.toNat
  else if 0x100 ≤ off ∧ off < 0x200 then
    match tget f.otp.rollback ((off - 0x100) / 8) with
    | none => 0
    | some e => if off / 4 % 2 = 0 then e.1 else e.2
  else 0

/-- TRUST_QUERY: the FOLD registers and OWNER_ID; bit 0 of the flag clears SEAL_HISTORY (R499, R503). -/
def actTrustQuery (clear : Bool) (_v d : Dev) : ActResult :=
  .read ([0, 4, 8, 0xC, 0x10, 0x14, 0x18].map (foldReg d) ++ (List.range 64).map (fun k => foldReg d (0x100 + 4 * k))
      ++ [(otpRules d).ownerId])
    (if clear then onGuard d (fun g => { g with sealHist := false }) else d)

/-- A reset's effect on the Fold's own store: a commit cut short leaves its slot invalid; sessions, base handles,
associations and the key list go; the pairs go too when the supply did, or the ladder has changed (R485, R495, R497). -/
def foldAtReset (f : FoldState) (powerOn : Bool) : FoldState :=
  { FoldState.reset with
    otp := { f.otp with job := none }
    pairsHeld := !powerOn && f.pairsHeld
    pairsEpoch := f.pairsEpoch
    boot := { BootState.reset with store := f.boot.store }
    guard := if powerOn then GuardState.reset
      else { f.guard with window := if f.guard.window = .jumper then .shut else f.guard.window, rngOk := false } }

end Sys2Proof.Machine
end

