-- ==== Sys2Proof/Machine/Rtp.lean ====
section
/-! DEFINITION. What every leg does with packets and its status record: counters, the record of R112, protection and sending,
requests for intra points, and the host packet path. -/

namespace Sys2Proof.Machine

/-! ### Counters and the status record (R112, R113) -/

/-- A leg's counter by its order from offset 64 of the record. -/
def legCnt (l : Leg) (i : Nat) : Nat := (tgetD l.cnt i 0).toNat

/-- A leg's counter advanced by `n`. -/
def legCount (d : Dev) (leg i n : Nat) : Dev :=
  onLeg d leg (fun l => { l with cnt := tset l.cnt i (BitVec.ofNat 64 (legCnt l i + n)) })

/-- The code of a leg's state (R112). -/
def legStCode (s : LegSt) : Nat :=
  match s with
  | .free => 0 | .staged => 1 | .active => 2 | .migrating => 3 | .draining => 4 | .lost => 5

/-- The FLAGS of a status record (R112). -/
def legFlagWord (l : Leg) : Nat :=
  let f := l.flags
  b2n f.concealed + 2 * b2n l.adapt.starved + 4 * b2n l.slot + 8 * b2n (l.st == .migrating) + 16 * b2n f.keyWarnIn
    + 32 * b2n f.keyWarnOut + 64 * b2n f.keyRetired + 128 * b2n f.pinned + 256 * b2n f.diverged + 512 * b2n f.recovered
    + 1024 * b2n l.adapt.fec

/-- The values of a status record in its order, each with its width in bytes (R112); reserved bytes are zero. -/
def statusVals (d : Dev) (n : Nat) (l : Leg) (seq : Nat) : List (Nat × Nat) :=
  let a := l.adapt
  let fwd := (List.range 8).map (fun i =>
    match (tgetD d.vid.subs n [])[i]? with
    | none => (0xFF, 1)
    | some e => match tget a.points e.1 with
      | none => (0xFF, 1)
      | some p => (16 * p.1 + p.2, 1))
  let part (k : Nat) : Nat := if a.m.told = 0 then 0 else (rdiv ((10000 * k : Nat) : Int) (a.m.told : Int)).toNat
  [(seq, 4), (n, 2), (legStCode l.st, 1), (a.verdict, 1), (d.bell.tick.toNat, 8), (l.home, 2), (legFlagWord l, 2), (a.est / 1000, 4),
   (a.m.sendRate / 1000, 4), (a.budget / 1000, 4), (part a.m.lost, 2), (part a.m.ce, 2), (twos 16 (rdiv a.m.trendN (a.m.trendD : Int)), 2), (a.m.rtt, 2), (a.audioRate, 2),
   (a.audioFrame, 1), (a.tier, 1), (l.jbDepth, 2), (0, 2)] ++ fwd ++ [(0, 8)] ++ (List.range 21).map (fun i => (legCnt l i, 8)) ++ [(0, 8), (0, 8), (0, 8)]

/-- The bytes of a status record. -/
def statusBytes (v : List (Nat × Nat)) : List Byte := (v.map (fun e => leBytes e.1 e.2)).flatten

/-- Bytes of a status record stored in the Pasture table by the home engine, at the credits of its group's class (R24, R25, R113). -/
def statusStore (d : Dev) (home a : Nat) (bs : List Byte) : Dev := postMem (chargeClass d (home / 16) (lineCount a bs.length)) a bs

/-- The status record written by the home engine, and to the Pasture table where that is enabled: SEQ made odd, then even and two
greater (R113). CONCEALED covers what has been repeated since the last update. -/
def writeStatus (d : Dev) (n : Nat) : Dev :=
  match tget d.media.legs n with
  | none => d
  | some l =>
    let v := statusVals d n l (l.statusSeq + 2)
    let d := onLeg d n (fun l => { l with statusSeq := (l.statusSeq + 2) % 2 ^ 32, snap := v.map (·.1), flags := { l.flags with concealed := false } })
    if d.media.statusEn then
      let a := d.media.statusBase + 256 * n
      statusStore (statusStore d l.home a (leBytes (l.statusSeq + 1) 4)) l.home a (statusBytes v)
    else d

/-- A leg's state changed and its record rewritten (R113). -/
def setLegSt (d : Dev) (n : Nat) (s : LegSt) : Dev := writeStatus (onLeg d n (fun l => { l with st := s })) n

/-! ### Associations in use (R87, R88) -/

/-- One use of a leg's association in a direction, with its warnings: whether it may be used. -/
def legUse (d : Dev) (n h : Nat) (inbound ctrl : Bool) (bytes : Nat) : Bool × Dev :=
  let (ok, warn, dead, d) := saUse d h ctrl bytes
  let d := if warn then
      legEvent (onLeg d n (fun l => { l with flags := if inbound then { l.flags with keyWarnIn := true } else { l.flags with keyWarnOut := true } })) 1 n
    else d
  let d := if dead then legEvent (onLeg d n (fun l => { l with flags := { l.flags with keyRetired := true } })) 2 n else d
  (ok, d)

/-- KEY_RETIRED clears once no handle the leg uses is retired (R88). -/
def legKeySweep (d : Dev) (n : Nat) : Dev :=
  onLeg d n (fun l =>
    let dead (h : Nat) : Bool := ((saOf d h).map saRetired).getD false
    let prevDead : Bool := match l.prevSa with
      | some p => dead p.1
      | none => false
    if l.flags.keyRetired ∧ ¬ dead l.rcd.saIn ∧ ¬ dead l.rcd.saOut ∧ ¬ prevDead then { l with flags := { l.flags with keyRetired := false } } else l)

/-! ### Queues and sending -/

/-- The number of a combination of conference, EGRESS and ALLOC_ID (R93). -/
def comboKey (r : LegRec) : Nat :=
  ((if 8 ≤ r.egress ∧ r.egress ≤ 11 then r.allocId else 0) * 16 + r.egress) * 1024 + r.conf

/-- The bytes of headers and tag beside an RTP payload (R100), and of an Ethernet header and FCS (R346). -/
def rtpOverhead (r : LegRec) : Nat := (if r.ipv6 then 76 else 56) - (if r.srtp then 0 else 16)

/-- The instant of the bell in ns. -/
def nowNs (d : Dev) : Nat := d.bell.tick.toNat * 125000

/-- A packet of the device's own offered to a queue: green, past policers and meters. -/
def devicePkt (d : Dev) (len tci : Nat) (bytes : List Byte) : TmPkt :=
  { len := len, push := tci, tpid := false, twoStep := none, stamp := 0, admitted := nowNs d, place := .onDie,
    bytes := bytes, clear := false }

/-- A leg's packet put in its combination's queue for the medium (R93). -/
def legEnqueue (d : Dev) (n : Nat) (l : Leg) (video : Bool) (len : Nat) : Dev :=
  let _ := n
  let want : QOwner := if video then .legVideo (comboKey l.rcd) else .legAudio (comboKey l.rcd)
  match d.tm.queues.find? (fun q => q.2.owner == want && q.2.freeAt.isNone) with
  | none => d
  | some q => (tmAdmit d q.1 (devicePkt d (len + 18) l.rcd.tci []) 0).2

/-- What a leg sends: it leaves, and enters the leg's queue; a twin's shadow discards it (R547). -/
def legSend (d : Dev) (k : OutKind) (vals : List Int) (n : Nat) (l : Leg) (video : Bool) (len : Nat) : Dev :=
  if l.live then legEnqueue (emit d k n vals) n l video len else d

/-- The next index of an outbound SSRC: the first is a free value, for the spec states no first sequence number (log 17). -/
def nextIdx (d : Dev) (l : Leg) (ssrc : Nat) : Nat × Dev :=
  match tget l.outIdx ssrc with
  | some i => (i, d)
  | none => let (v, d) := drawFree d; (v % 65536, d)

/-- Whether a leg's source engine failed in its move and the target has not yet taken over (R111). -/
def srcGone (l : Leg) : Bool := match l.move.bind (·.failed) with
  | some f => f.1
  | none => false

/-- Whether a leg's work runs (R83); a shadow's does too (R547). -/
def legRuns (l : Leg) : Bool := (l.st == .active || l.st == .migrating) && l.restore.isNone && !srcGone l

/-- A packet noted in what the rate S and the loss ratio count (R97): the log spans 500 ms. -/
def txNote (d : Dev) (n ssrc i bytes : Nat) (again : Bool) : Dev :=
  onLeg d n (fun l => { l with txLog := (l.txLog.filter (fun p => decide (nowNs d < p.ns + 500000000))) ++
    [{ ssrc := ssrc, seq := i, ns := nowNs d, bytes := bytes, again := again, fate := .untold }] })

/-- What an outbound packet's values are as it leaves: those of its header, its payload bytes counted, and what a forwarded one carries. -/
def rtpVals (ssrc i : Nat) (h : RtpHdr) : List Int :=
  [(h.pt : Int), (b2n h.marker : Nat), (i % 65536 : Nat), (h.ts : Int), (ssrc : Int), (h.size : Int)] ++ h.body.map (fun b => (b.toNat : Int))

/-- An RTP packet built, protected and sent (R87, R89, R104): dropped where its index does not exceed the highest that its association has
protected on its SSRC, or where the association may not be used. -/
def sendRtp (d : Dev) (n : Nat) (video : Bool) (ssrc : Nat) (h : RtpHdr) : Dev :=
  match tget d.media.legs n with
  | none => d
  | some l =>
    if ¬ legRuns l then d
    else
      let (i, d) := nextIdx d l ssrc
      let d := onLeg d n (fun l => { l with outIdx := tset l.outIdx ssrc (i + 1) })
      if l.rcd.srtp ∧ i < tgetD (((saOf d l.rcd.saOut).map (·.prot)).getD []) ssrc 0 then d
      else
        let (ok, d) := if l.rcd.srtp then legUse d n l.rcd.saOut false false h.size else (true, d)
        if ¬ ok then d
        else
          let d := if l.rcd.srtp then onSa d l.rcd.saOut (fun a => { a with prot := tset a.prot ssrc (i + 1) }) else d
          let d := if video then onLeg d n (fun l => { l with
              sent := (l.sent.filter (fun p => p.ssrc != ssrc || decide (i < p.seq + 512))) ++
                [{ ssrc := ssrc, seq := i, tick := d.bell.tick, hdr := h, resends := 0, lastResend := 0 }] }) else d
          let d := legCount (legCount d n 1 1) n 3 h.size
          legSend (txNote d n ssrc i (h.size + rtpOverhead l.rcd) false) .rtpOut (rtpVals ssrc i h) n l video (h.size + rtpOverhead l.rcd)

/-- The units of an audio RTP timestamp in a millisecond: 8 for G.711 and G.722, 48 for Opus and LC3 (PRESUMED from the codecs' payload formats, log 154). -/
def audioClock (codec : Nat) : Nat := if codec ≤ 3 then 8 else 48

/-- An audio packet of a leg's encoder sent, at the end of its frame: `size` counts only for Opus, the other codecs' rate being constant. A change of rate or frame
takes effect with the next frame (R99). The first timestamp is a free value (log 17). -/
def sendAudio (d : Dev) (n size : Nat) : Dev :=
  match tget d.media.legs n with
  | none => d
  | some l =>
    if ¬ l.rcd.audioOut ∨ ¬ legRuns l then d
    else
      let (ts, d) := match l.audioTs with
        | some t => (t, d)
        | none => let (v, d) := drawFree d; (v % 2 ^ 32, d)
      let z := if l.rcd.aCodec = 4 then size else l.enc.1 * l.enc.2 / 8
      let d := sendRtp d n false l.rcd.aSsrcOut { pt := l.rcd.aPt, marker := false, ts := ts, size := z, body := [] }
      onLeg d n (fun l => { l with audioTs := some ((ts + audioClock l.rcd.aCodec * l.enc.2) % 2 ^ 32), enc := (l.adapt.audioRate, l.adapt.audioFrame) })

/-- An RTCP packet of a leg, protected under SA_OUT with SRTP and sent beside its media (R87). -/
def sendRtcp (d : Dev) (n : Nat) (vals : List Int) (size : Nat) : Dev :=
  match tget d.media.legs n with
  | none => d
  | some l =>
    if ¬ legRuns l then d
    else
      let (ok, d) := if l.rcd.srtp then legUse d n l.rcd.saOut false true size else (true, d)
      if ¬ ok then d
      else legSend d .rtcpOut vals n l (!isAudioLeg l.rcd) (size + rtpOverhead l.rcd)

/-- A request for an intra point sent to a contributing leg, at most one in 1,600 ticks (R106): a PLI is 12 bytes. A request within the window is dropped, not kept for
its end (DESIGN CHOICE, log 155). -/
def requestPli (d : Dev) (n : Nat) : Dev :=
  match legOf d n with
  | none => d
  | some l =>
    let recent : Bool := match l.pliAt with
      | none => false
      | some t => decide (d.bell.tick.toNat < t.toNat + 1600)
    if recent ∨ ¬ legRuns l then d
    else legCount (sendRtcp (onLeg d n (fun l => { l with pliAt := some d.bell.tick })) n [206, 1, ((l.vLatch.getD l.rcd.vSsrcIn : Nat) : Int)] 12) n 11 1

/-! ### The host packet path (R531) -/

/-- A packet for the host packet path: to the completion ring HOST_PKT_CONFIG names, or dropped and counted. -/
def hostDeliver (d : Dev) (port leg : Nat) (vals : List Nat) : Dev :=
  match d.sys.rings.find? (fun e => e.2.hostPkt && e.2.en) with
  | none => onSys d (fun y => { y with hostPktDrop := satInc y.hostPktDrop })
  | some e =>
    cqPost d e.1 { opcode := 0x0190, bit15 := true, seq := 0, status := .done, epoch := d.sys.epochStaged, data := [port, leg] ++ vals }

end Sys2Proof.Machine
end

