-- ==== Sys2Proof/Machine/Engine.lean ====
section
/-! DEFINITION. The Flock engine's core (chapter 06): register sets, the exposed pipeline, MAC operations, moves, loads and stores,
flow, interrupts, event lines, and program faults. -/

namespace Sys2Proof.Machine

/-! ### Register sets -/

/-- The active register set (R196, R210). -/
def actSet (c : EngCore) : RegSet := if c.shadowOn then c.shadow else c.main

/-- The core with one of its sets changed. -/
def onSet (c : EngCore) (sh : Bool) (f : RegSet → RegSet) : EngCore :=
  if sh then { c with shadow := f c.shadow } else { c with main := f c.main }

/-- The core of an engine changed. -/
def onCore (d : Dev) (e : Nat) (f : EngCore → EngCore) : Dev := onEng d e (fun x => { x with core := f x.core })

/-- Reads of a set's registers, zero where nothing is listed (log 3). -/
def rdS (r : RegSet) (n : Nat) : Word := tgetD r.s (n % 32) 0
def rdV (r : RegSet) (n : Nat) : BitVec 256 := tgetD r.v (n % 16) 0
def rdW (r : RegSet) (n : Nat) : BitVec 256 := tgetD r.w (n % 16 / 2 * 2) 0
def rdP (r : RegSet) (n : Nat) : Word := tgetD r.p (n % 8) 0
def rdCb (r : RegSet) (n : Nat) : Word := tgetD r.cb (n % 8) 0
def rdCl (r : RegSet) (n : Nat) : Word := tgetD r.cl (n % 8) 0
def rdQ (r : RegSet) (n : Nat) : Bool := tgetD r.q (n % 4) false

/-- An accumulator of zeros. -/
def accZero : List (BitVec 80) := List.replicate 16 0

/-- An accumulator as a further MAC operation reads it, and as a move reads it (R198). -/
def rdAcc (r : RegSet) (n : Nat) : List (BitVec 80) := tgetD r.acc (n % 4) accZero
def rdAccMv (r : RegSet) (n : Nat) : List (BitVec 80) := tgetD r.accMv (n % 4) accZero

/-- Lane `i` of a 16-lane register, of a wide pair, and of an accumulator. -/
def lane16 (v : BitVec 256) (i : Nat) : BitVec 16 := v.extractLsb' (16 * i) 16
def lane32 (v : BitVec 256) (i : Nat) : BitVec 32 := v.extractLsb' (32 * i) 32
def laneAcc (a : List (BitVec 80)) (i : Nat) : BitVec 80 := a.getD i 0

/-- Lanes packed into a number, lane 0 lowest. -/
def packLanes (w : Nat) (l : List Nat) : Nat := l.foldr (fun x acc => x % 2 ^ w + 2 ^ w * acc) 0

/-! ### Results that land -/

/-- A result landed in its register; a wide value and the vector registers of its pair make each other's value free, since the
spec does not say how the lanes lie in the pair (R196, R203; log 14). `n` counts free draws. -/
def landIn (r : RegSet) (n : Nat) (x : PendW) (val : Nat) : RegSet × Nat :=
  match x.dst with
  | .s k => ({ r with s := tset r.s (k % 32) (BitVec.ofNat 32 val) }, n)
  | .p k => ({ r with p := tset r.p (k % 8) (BitVec.ofNat 32 val) }, n)
  | .cb k => ({ r with cb := tset r.cb (k % 8) (BitVec.ofNat 32 val) }, n)
  | .cl k => ({ r with cl := tset r.cl (k % 8) (BitVec.ofNat 32 val) }, n)
  | .q k => ({ r with q := tset r.q (k % 4) (val % 2 == 1) }, n)
  | .mcr => ({ r with mcr := BitVec.ofNat 32 (val % 2 ^ 27) }, n)
  | .satClear => ({ r with sat := false }, n)
  | .accMv k => ({ r with accMv := tset r.accMv (k % 4) x.lanes }, n)
  | .v k =>
    ({ r with v := tset r.v (k % 16) (BitVec.ofNat 256 val), w := tset r.w (k % 16 / 2 * 2) (BitVec.ofNat 256 (Config.free n)) }, n + 1)
  | .w k =>
    let k := k % 16 / 2 * 2
    ({ r with w := tset r.w k (BitVec.ofNat 256 val),
              v := tset (tset r.v k (BitVec.ofNat 256 (Config.free n))) (k + 1) (BitVec.ofNat 256 (Config.free (n + 1))) }, n + 2)

/-- The registers that a result is written to: a wide result fills a pair of vector registers (R196). -/
def dstRegs (x : EDst) : List EDst :=
  match x with
  | .s k => [.s (k % 32)]
  | .v k => [.v (k % 16)]
  | .w k => [.v (k % 16 / 2 * 2), .v (k % 16 / 2 * 2 + 1)]
  | .p k => [.p (k % 8)]
  | .cb k => [.cb (k % 8)]
  | .cl k => [.cl (k % 8)]
  | .q k => [.q (k % 4)]
  | .mcr => [.mcr]
  | .satClear => [.satClear]
  | .accMv k => [.accMv (k % 4)]

/-- Whether two results go to one register of one set. -/
def sameDst (x y : PendW) : Bool := (dstRegs x.dst).any (fun r => (dstRegs y.dst).contains r) && x.shadow == y.shadow

/-- A result landed in the set that was active when it issued (R211). Where two land in one register in one cycle the spec states
no value: it is free (log 6). -/
def landOne (due : List PendW) (cn : EngCore × Nat) (x : PendW) : EngCore × Nat :=
  let clash := decide ((due.filter (sameDst x)).length > 1)
  let v : Nat := if clash then Config.free cn.2 else x.val
  let n : Nat := if clash then cn.2 + 1 else cn.2
  let q := landIn (if x.shadow then cn.1.shadow else cn.1.main) n x v
  (onSet cn.1 x.shadow (fun _ => q.1), q.2)

/-- Bytes of local memory written at their addresses. -/
def localWrite (m : Memory) (bs : List (Nat × Byte)) : Memory := bs.foldl (fun m b => memSet m b.1 b.2) m

/-- Whether an interrupt asks for the engine: one is held, or its mailbox is not empty (R210). -/
def wantsInterrupt (c : EngCore) : Bool := c.held != [] || mboxCount c.mem != 0

/-- Taking an interrupt at a bundle boundary outside delay slots and outside the shadow set (R210), those held first. The kernel takes over the pending word
with an event (DESIGN CHOICE, log 169). -/
def takeInterrupt (c : EngCore) : EngCore :=
  if ¬ wantsInterrupt c ∨ c.shadowOn ∨ c.br.isSome ∨ c.halted then c
  else { c with held := c.held.tail, shadowOn := true, ira := c.pc, pc := BitVec.ofNat 32 Config.kernelVector,
                events := if c.held.head? = some .event then 0 else c.events }

/-- The next bundle's address: the target once three delay slots have run, else the bundle that follows (R200); reti makes the main
set active again (R210). -/
def nextBundle (c : EngCore) : EngCore :=
  match c.br with
  | none => { c with pc := c.pc + 16 }
  | some b =>
    if b.left = 0 then { c with pc := b.target.getD (c.pc + 16), br := none, shadowOn := c.shadowOn && !b.isReti }
    else { c with pc := c.pc + 16, br := some { b with left := b.left - 1 } }

/-- The stores that land in the cycle to come (R201). -/
def dueStores (c : EngCore) : List PendSt := c.stores.filter (fun x => decide (x.due ≤ c.cycle + 1))

/-- One cycle of a core: results and stores due land, the next bundle begins, an interrupt may be taken. -/
def coreCycle (c : EngCore) (n : Nat) : EngCore × Nat :=
  let cyc := c.cycle + 1
  let due := c.pend.filter (fun x => decide (x.due ≤ cyc))
  let q := due.foldl (landOne due) (c, n)
  let st := dueStores c
  let c := { q.1 with cycle := cyc, pend := c.pend.filter (fun x => decide (x.due > cyc)),
                      stores := c.stores.filter (fun x => decide (x.due > cyc)), bundle := [],
                      mem := st.foldl (fun m x => localWrite m x.bytes) q.1.mem }
  (takeInterrupt (nextBundle c), q.2)

/-- Whether results issued in different cycles land in one register in the cycle to come (R199). -/
def collides (c : EngCore) : Bool :=
  let due := c.pend.filter (fun x => decide (x.due ≤ c.cycle + 1))
  due.any (fun x => due.any (fun y => sameDst x y && x.issued != y.issued))

/-! ### Program faults -/

/-- The task that a kernel runs. -/
def taskOf (r : Running) : Nat := match r with
  | .audio t => t
  | .video t => t
  | .background t => t
  | .idle => 0

/-- The legs homed on an engine set to LOST (R219: the task's legs; the model takes all that the engine serves, log 22). -/
def loseLegsOf (d : Dev) (e : Nat) : Dev :=
  (d.media.legs.filter (fun x => x.2.home == e && (x.2.st == .active || x.2.st == .migrating))).foldl
    (fun d x => legEvent (setLegSt d x.1 .lost) 5 x.1) d

/-- A task that has faulted in 8 consecutive ticks is suspended (R219). -/
def suspendTask (d : Dev) (e t : Nat) : Dev :=
  let d := raiseLeaf (onEng d e (fun x => { x with kern := { x.kern with suspended := x.kern.suspended ++ [t] } })) 19 1
  if (engOf d e).prog.isNone then loseLegsOf d e else d

/-! ### The kernel's schedule (R216 to R219) -/

/-- The task table of the program that an engine runs: a customer program's, or that of its group's firmware (R216, R223). -/
def tableOf (d : Dev) (e : Nat) : List TaskRec :=
  match (engOf d e).prog with
  | some p => p.img.table
  | none => ((groupOf d (e / 16)).image.map (·.table)).getD []

/-- The context of what runs in the main set, and a context resumed: while the kernel runs in the shadow set, ira is where the main set goes on (R210, R217). -/
def saveCtx (c : EngCore) : Ctx := { regs := c.main, pc := if c.shadowOn then c.ira else c.pc }
def goesTo (c : EngCore) (a : Word) : EngCore := if c.shadowOn then { c with ira := a } else { c with pc := a }
def resumeCtx (c : EngCore) (x : Ctx) : EngCore := goesTo { c with main := x.regs } x.pc

/-- A task begun or resumed: with its context, or at its entry address. -/
def enterTask (tbl : List TaskRec) (c : EngCore) (t : Nat) (x : Option Ctx) : EngCore :=
  match x, tbl[t]? with
  | some x, _ => resumeCtx c x
  | none, some r => goesTo c (BitVec.ofNat 32 r.entry)
  | none, none => c

/-- What a kernel runs next (R217): AUDIO tasks in the table's order, VIDEO units earliest deadline first, else BACKGROUND. -/
def dispatch (tbl : List TaskRec) (x : Eng) : Eng :=
  match x.kern.audioLeft, x.kern.units, x.kern.background with
  | t :: _, _, _ => { x with kern := { x.kern with running := .audio t }, core := enterTask tbl x.core t none }
  | [], u :: _, _ => { x with kern := { x.kern with running := .video u.task }, core := enterTask tbl x.core u.task u.ctx }
  | [], [], b :: _ => { x with kern := { x.kern with running := .background b.1 }, core := enterTask tbl x.core b.1 b.2 }
  | [], [], [] => { x with kern := { x.kern with running := .idle } }

/-- A VIDEO unit or a BACKGROUND task preempted: its context is kept (R217). -/
def preempt (x : Eng) : Eng :=
  let keep : Option Ctx := some (saveCtx x.core)
  match x.kern.running with
  | .video t => { x with kern := { x.kern with units := x.kern.units.map (fun u => if u.task = t then { u with ctx := keep } else u) } }
  | .background t => { x with kern := { x.kern with background := x.kern.background.map (fun b => if b.1 = t then (t, keep) else b) } }
  | _ => x

/-- Whether what runs goes on: an AUDIO task and, with no AUDIO task ready, a VIDEO unit run to their end; a BACKGROUND task gives way (R217). -/
def keepsRunning (k : EngKern) : Bool :=
  match k.running with
  | .audio t => k.audioLeft.contains t
  | .video t => k.audioLeft.isEmpty && k.units.any (fun u => u.task == t)
  | .background t => k.audioLeft.isEmpty && k.units.isEmpty && k.background.any (fun b => b.1 == t)
  | .idle => false

/-- The schedule after what is ready has changed (R217). -/
def schedule (tbl : List TaskRec) (x : Eng) : Eng := if keepsRunning x.kern then x else dispatch tbl (preempt x)

/-- Tasks that have ended leave a kernel. -/
def dropTasks (k : EngKern) (ended : List Nat) : EngKern :=
  { k with audioLeft := k.audioLeft.filter (fun t => !ended.contains t), units := k.units.filter (fun u => !ended.contains u.task),
           background := k.background.filter (fun b => !ended.contains b.1) }

/-- The running task is ended by a fault, its output of the tick is absent, and the kernel goes on with what is ready (R217, R219). -/
def endTask (tbl : List TaskRec) (x : Eng) : Eng :=
  match x.kern.running with
  | .idle => x
  | r => schedule tbl { x with kern := { dropTasks x.kern [taskOf r] with running := .idle, faulted := true } }

/-- The consecutive ticks in which a task has faulted, this tick's fault included (R219). -/
def faultRuns (k : EngKern) (t : Nat) (tick : BitVec 64) : Nat :=
  let last := tget k.faultTick t
  let run := tgetD k.faultRun t 0
  if last = some tick then run else if last = some (tick - 1) then run + 1 else 1

/-- A fault charged to the task that runs (R219): after 8 consecutive ticks the task is suspended. With no task running there is none to end. -/
def chargeFault (d : Dev) (e : Nat) : Dev :=
  let k := (engOf d e).kern
  match k.running with
  | .idle => d
  | r =>
    let t := taskOf r
    let run := faultRuns k t d.bell.tick
    let d := onEng d e (fun x => endTask (tableOf d e)
      { x with kern := { x.kern with faultRun := tset x.kern.faultRun t run, faultTick := tset x.kern.faultTick t d.bell.tick } })
    if run ≥ 8 ∧ ¬ k.suspended.contains t then suspendTask d e t else d

/-- The TASK that a fault latches: with no task running the spec states none, and it is free (log 6). -/
def faultTask (d : Dev) (r : Running) : Nat × Dev :=
  if r = .idle then ((drawFree d).1 % 256, (drawFree d).2) else (taskOf r, d)

/-- A program fault of kind 1 ILLEGAL_BUNDLE, 2 WRITE_COLLISION or 3 MEM_BOUNDS (R199, R208, R219): in the main set the kernel ends the
task in the shadow set, and kind and address are latched; in the shadow set the engine halts (R211). -/
def programFault (d : Dev) (e kind : Nat) : Dev :=
  let x := engOf d e
  if x.core.shadowOn then onCore d e (fun c => { c with halted := true })
  else
    let (t, d) := faultTask d x.kern.running
    let d := onEng d e (fun x => { x with
      faultKind := kind, faultTask := t, faultCount := min (x.faultCount + 1) 0xFFFF, faultPc := x.core.pc,
      core := { x.core with shadowOn := true, ira := x.core.pc + 16, pc := BitVec.ofNat 32 Config.kernelVector, br := none, bundle := [] } })
    chargeFault (raiseLeaf d 19 0) e

/-- The words that a store of an engine writes as INTEG sees them, by how many bytes of each it writes (R444, R452). -/
def storeSeen (d : Dev) (e : Nat) (bs : List (Nat × Byte)) : Dev :=
  ((bs.map (fun b => b.1 / 8)).eraseDups).foldl (fun d w => localStored d e (8 * w) (min 8 (bs.filter (fun b => b.1 / 8 == w)).length)) d

/-- An engine's core advanced by a cycle. -/
def engCycle (d : Dev) (e : Nat) : Dev :=
  let c := (engOf d e).core
  if c.halted then d
  else
    let q := coreCycle c d.freeCtr
    let d := (dueStores c).foldl (fun d x => storeSeen d e x.bytes) (onFree (onCore d e (fun _ => q.1)) (fun _ => q.2))
    if collides c then programFault d e 2 else d

/-- An engine's core advanced by `n` cycles; bundles that no command gives are empty. -/
def advanceEng (d : Dev) (e n : Nat) : Dev :=
  match n with
  | 0 => d
  | n + 1 => advanceEng (engCycle d e) e n

/-! ### Issue -/

/-- Whether a logical engine executes bundles: not OUT, not switched off, not halted. -/
def engRuns (d : Dev) (e : Nat) : Bool :=
  decide (e < 256) && (engOf d e).st != .out && (engOf d e).st != .gated && !(engOf d e).core.halted

/-- The slots of each kind of operation (R197). -/
def macSlot (k : Nat) : Bool := k == 0 || k == 1
def lsSlot (k : Nat) : Bool := k == 2
def aluSlot (k : Nat) : Bool := k == 3

/-- Whether an operation's predicate lets it act (R196, R197). -/
def predOk (c : EngCore) (p : Option (Nat × Bool)) : Bool := match p with
  | none => true
  | some (n, b) => rdQ (actSet c) n == b

/-- A change of flow begun: three delay slots follow (R200). -/
def startFlow (d : Dev) (e : Nat) (target : Word) (reti : Bool) : Dev :=
  onCore d e (fun c => { c with br := some { target := some target, left := 3, isReti := reti } })

/-- A change of flow whose predicate does not let it act: the three bundles that follow it are delay slots all the same (R200). -/
def skipFlow (d : Dev) (e : Nat) : Dev :=
  onCore d e (fun c => { c with br := some { target := none, left := 3, isReti := false } })

/-- An operation issued: the core advances to its cycle; a slot that already holds an operation puts it into the next bundle (log 23).
A wrong slot, an accumulator named twice and flow inside delay slots are ILLEGAL_BUNDLE (R199, R200). -/
def issueOp (d : Dev) (i : Issue) (acc : Option Nat) (slotOk : Bool) (flow : Bool) (f : Dev → Dev) : Dev :=
  if ¬ engRuns d i.eng then d
  else
    let used := (engOf d i.eng).core.bundle.any (fun b => b.1 == i.slot)
    let d := advanceEng d i.eng (if i.gap = 0 ∧ used then 1 else i.gap)
    let c := (engOf d i.eng).core
    if c.halted then d
    else
      let bad := !slotOk || (acc.isSome && c.bundle.any (fun b => b.2 == acc)) || (flow && c.br.isSome)
      let d := onCore d i.eng (fun c => { c with bundle := c.bundle ++ [(i.slot, acc)] })
      if bad then programFault d i.eng 1
      else if predOk c i.pred then f d
      else if flow then skipFlow d i.eng
      else d

/-- A result put on its way, readable `lat` cycles after issue (R198). -/
def postResult (d : Dev) (e lat : Nat) (dst : EDst) (val : Nat) (lanes : List (BitVec 80)) : Dev :=
  onCore d e (fun c => { c with pend := c.pend ++ [{ issued := c.cycle, due := c.cycle + lat, shadow := c.shadowOn, dst := dst, val := val, lanes := lanes }] })

/-! ### MAC operations (R203, R204) -/

/-- A lane value read as signed or unsigned. -/
def lv {w : Nat} (x : BitVec w) (signed : Bool) : Int := if signed then x.toInt else (x.toNat : Int)

/-- Whether a, and b, is signed. -/
def signA (s : Sign) : Bool := s != .uu
def signB (s : Sign) : Bool := s == .ss

/-- Operand b's lane: an s register is broadcast by its low 16 bits. -/
def macB (r : RegSet) (b : MacB) (i : Nat) : BitVec 16 := match b with
  | .v n => lane16 (rdV r n) i
  | .s n => (rdS r n).setWidth 16

/-- The product of a lane. -/
def laneProd (r : RegSet) (a : Nat) (b : MacB) (sg : Sign) (wide : Bool) (i : Nat) : Int :=
  let x : Int := if wide then lv (lane32 (rdW r a) i) (signA sg) else lv (lane16 (rdV r a) i) (signA sg)
  x * lv (macB r b i) (signB sg)

/-- The accumulator after an operation: 16 lanes, or in the wide form lanes 0 to 7 (R203), modulo 2⁸⁰ (R204). -/
def macLanes (op : MacOp) (old : List (BitVec 80)) (lanes : Nat) (prod : Nat → Int) : List (BitVec 80) :=
  (List.range 16).map (fun i =>
    let o := laneAcc old i
    let p := BitVec.ofInt 80 (prod i)
    match op with
    | .clr => 0
    | .sum => if i = 0 then o + BitVec.ofInt 80 ((List.range lanes).foldl (fun (acc : Int) j => acc + prod j) 0) else o
    | .mul => if i < lanes then p else o
    | .mac => if i < lanes then o + p else o
    | .msu => if i < lanes then o - p else o)

/-- A MAC operation: a further MAC reads the result a cycle later, a move three cycles later (R198). -/
def macOp (i : Issue) (op : MacOp) (acc a : Nat) (b : MacB) (sg : Sign) (wide : Bool) (d : Dev) : Dev :=
  issueOp d i (some (acc % 4)) (macSlot i.slot) false (fun d =>
    let c := (engOf d i.eng).core
    let r := actSet c
    let new := macLanes op (rdAcc r acc) (if wide then 8 else 16) (laneProd r a b sg wide)
    postResult (onCore d i.eng (fun c => onSet c c.shadowOn (fun r => { r with acc := tset r.acc (acc % 4) new }))) i.eng 3 (.accMv acc) 0 new)

/-- MUL (R203). -/
def execMul (i : Issue) (acc a : Nat) (b : MacB) (sg : Sign) (wide : Bool) (s : State) : Host.Outcome State Fault Refusal :=
  nextDev s (macOp i .mul acc a b sg wide)

/-- MAC (R203). -/
def execMac (i : Issue) (acc a : Nat) (b : MacB) (sg : Sign) (wide : Bool) (s : State) : Host.Outcome State Fault Refusal :=
  nextDev s (macOp i .mac acc a b sg wide)

/-- MSU (R203). -/
def execMsu (i : Issue) (acc a : Nat) (b : MacB) (sg : Sign) (wide : Bool) (s : State) : Host.Outcome State Fault Refusal :=
  nextDev s (macOp i .msu acc a b sg wide)

/-- MAC_SUM (R203); its wide form sums the 8 products (log 24). -/
def execMacSum (i : Issue) (acc a : Nat) (b : MacB) (sg : Sign) (wide : Bool) (s : State) : Host.Outcome State Fault Refusal :=
  nextDev s (macOp i .sum acc a b sg wide)

/-- CLR (R203). -/
def execClr (i : Issue) (acc : Nat) (s : State) : Host.Outcome State Fault Refusal :=
  nextDev s (macOp i .clr acc 0 (.v 0) .ss false)

/-! ### Moves from the accumulators (R205, R206) -/

/-- SCALEn, RND and the SATW width of mcr (R205). -/
def mcrScale (m : Word) (n : Nat) : Nat := getField m.toNat (6 * n) 6
def mcrRnd (m : Word) : Bool := bitOf m 24
def mcrSatw (m : Word) : Nat := match getField m.toNat 25 2 with
  | 0 => 16
  | 1 => 24
  | _ => 32

/-- A lane scaled and rounded (R206): the sum and the shift are in 80 bits. -/
def scaleLane (m : Word) (n : Nat) (x : BitVec 80) : Int :=
  let sh := mcrScale m n
  let t : BitVec 80 := if mcrRnd m ∧ sh > 0 then x + BitVec.ofNat 80 (2 ^ (sh - 1)) else x
  (t.sshiftRight sh).toInt

/-- A value clamped to `w` signed bits. -/
def clampW (w : Nat) (x : Int) : Int := clampI (-(2 ^ (w - 1) : Int)) ((2 ^ (w - 1) : Int) - 1) x

/-- A move of some lanes to a width, with the value of its destination; SAT is set if a lane clamped (R206). -/
def moveLanes (d : Dev) (e acc w ew : Nat) (lanes : List Nat) (dst : EDst) : Dev :=
  let r := actSet (engOf d e).core
  let ts := lanes.map (fun i => scaleLane r.mcr (acc % 4) (laneAcc (rdAccMv r acc) i))
  let d := if ts.any (fun t => clampW w t != t) then onCore d e (fun c => onSet c c.shadowOn (fun r => { r with sat := true })) else d
  postResult d e 2 dst (packLanes ew (ts.map (fun t => twos ew (clampW w t)))) []

/-- MV_V: 16 lanes clamped to 16 bits (R206). -/
def execMvV (i : Issue) (dst acc : Nat) (s : State) : Host.Outcome State Fault Refusal :=
  nextDev s (fun d => issueOp d i none (aluSlot i.slot) false (fun d => moveLanes d i.eng acc 16 16 (List.range 16) (.v dst)))

/-- MV_W: lanes 0 to 7 clamped to the SATW width (R206). -/
def execMvW (i : Issue) (dst acc : Nat) (s : State) : Host.Outcome State Fault Refusal :=
  nextDev s (fun d => issueOp d i none (aluSlot i.slot) false (fun d =>
    moveLanes d i.eng acc (mcrSatw (actSet (engOf d i.eng).core).mcr) 32 (List.range 8) (.w dst)))

/-- MV_S: one lane clamped to the SATW width (R206). -/
def execMvS (i : Issue) (dst acc lane : Nat) (s : State) : Host.Outcome State Fault Refusal :=
  nextDev s (fun d => issueOp d i none (aluSlot i.slot) false (fun d =>
    moveLanes d i.eng acc (mcrSatw (actSet (engOf d i.eng).core).mcr) 32 [lane % 16] (.s dst)))

/-! ### Loads and stores (R201, R202, R207 to R209) -/

/-- The elements of an access: their number and size in bytes. -/
def elems (r : LsReg) : Nat × Nat := match r with
  | .s _ => (1, 4)
  | .v _ => (16, 2)
  | .w _ => (8, 4)

/-- The pointer of an address form, its distance and its increment. -/
def addrParts (a : Addr) : Nat × Int × Option Int := match a with
  | .plain k => (k % 8, 0, none)
  | .postInc k inc => (k % 8, 0, some inc)
  | .offset k dist => (k % 8, dist, none)

/-- The address of element `j` (R202, R207). -/
def elemAddr (r : RegSet) (a : Addr) (size j : Nat) : Nat :=
  let p := addrParts a
  let pk := (rdP r p.1).toNat
  let cb := (rdCb r p.1).toNat
  let cl := (rdCl r p.1).toNat
  if cl = 0 then twos 32 ((pk : Int) + p.2.1 + ((j * size : Nat) : Int))
  else twos 32 ((cb : Int) + ((pk : Int) - cb + p.2.1 + ((j * size : Nat) : Int)) % (cl : Int))

/-- A pointer after its post-modify (R207). -/
def postMod (r : RegSet) (k : Nat) (inc : Int) : Word :=
  let cb := ((rdCb r k).toNat : Int)
  let cl := ((rdCl r k).toNat : Int)
  let p := ((rdP r k).toNat : Int) + inc
  if cl = 0 then BitVec.ofInt 32 p
  else
    let p := if p ≥ cb + cl then p - cl else p
    BitVec.ofInt 32 (if p < cb then p + cl else p)

/-- Whether a byte may be loaded, and stored, by what runs (R209; the stream area counts among the regions, log 25): the handover area by the kernel only. -/
def mayLoad (shadow : Bool) (a : Nat) : Bool := decide (0x20000 ≤ a ∧ a < 0x70000) || (shadow && decide (0x70000 ≤ a ∧ a < 0x80000))
def mayStore (shadow : Bool) (a : Nat) : Bool :=
  decide (0x20000 ≤ a ∧ a < 0x60000) || decide (0x68000 ≤ a ∧ a < 0x70000) || decide (mboxTail ≤ a ∧ a < mboxTail + 4)
    || (shadow && decide (0x70000 ≤ a ∧ a < 0x80000))

/-- Whether an access raises MEM_BOUNDS (R208). -/
def boundsFault (r : RegSet) (a : Addr) (n size : Nat) (may : Nat → Bool) : Bool :=
  let p := addrParts a
  let pk := (rdP r p.1).toNat
  let cb := (rdCb r p.1).toNat
  let cl := (rdCl r p.1).toNat
  let as := (List.range n).map (elemAddr r a size)
  as.any (fun x => x % size != 0 || !((List.range size).all (fun b => may (x + b))))
    || (cl != 0 && (decide (pk < cb ∨ pk ≥ cb + cl) || (match p.2.2 with
      | some inc => decide (inc.natAbs ≥ cl)
      | none => false)))

/-- The pointer's post-modify put on its way (R198, R202). -/
def postPointer (d : Dev) (e : Nat) (a : Addr) : Dev :=
  let r := actSet (engOf d e).core
  match a with
  | .postInc k inc => postResult d e 1 (.p k) (postMod r (k % 8) inc).toNat []
  | _ => d

/-- The destination of a load. -/
def loadDst (r : LsReg) : EDst := match r with
  | .s n => .s n
  | .v n => .v n
  | .w n => .w n

/-- The lanes that a store writes. -/
def storeLanes (r : RegSet) (g : LsReg) : List Nat := match g with
  | .s n => [(rdS r n).toNat]
  | .v n => (List.range 16).map (fun i => (lane16 (rdV r n) i).toNat)
  | .w n => (List.range 8).map (fun i => (lane32 (rdW r n) i).toNat)

/-- Words of local memory read, `find` being what the first meets: an uncorrectable one is held against the engine until the bell (R220, R445). -/
def localRead (e : Nat) (find : EccFind) (d : Dev) (words : List Nat) : Bool × Dev :=
  match words with
  | [] => (false, d)
  | w :: rest =>
    match eccRead d 0 ((engOf d e).phys * 2 ^ 32 + 8 * w) find with
    | (.uncorrectable, d) => (true, onEng d e (fun x => { x with hurt := true }))
    | (_, d) => localRead e .clean d rest

/-- A load: it reads the bytes held at its cycle, and its result is readable four cycles later (R198, R201). Where its word is
uncorrectable the spec states no value, and it is free (R445; log 6). -/
def loadOp (i : Issue) (g : LsReg) (a : Addr) (find : EccFind) (d : Dev) : Dev :=
  let c := (engOf d i.eng).core
  let r := actSet c
  let n := (elems g).1
  let size := (elems g).2
  if boundsFault r a n size (mayLoad c.shadowOn) then programFault d i.eng 3
  else
    let v := packLanes (8 * size) ((List.range n).map (fun j => leNat (memRead c.mem (elemAddr r a size j) size)))
    let (bad, d) := localRead i.eng find d (((List.range n).map (fun j => elemAddr r a size j / 8)).eraseDups)
    let (v, d) := if bad then drawFree d else (v, d)
    postPointer (postResult d i.eng 4 (loadDst g) v []) i.eng a

/-- A store: it writes local memory two cycles later (R201). -/
def storeOp (i : Issue) (g : LsReg) (a : Addr) (d : Dev) : Dev :=
  let c := (engOf d i.eng).core
  let r := actSet c
  let n := (elems g).1
  let size := (elems g).2
  if boundsFault r a n size (mayStore c.shadowOn) then programFault d i.eng 3
  else
    let bs := ((List.range n).zip (storeLanes r g)).map (fun x =>
      ((List.range size).zip (leBytes x.2 size)).map (fun y => (elemAddr r a size x.1 + y.1, y.2)))
    postPointer (onCore d i.eng (fun c => { c with stores := c.stores ++ [{ due := c.cycle + 2, bytes := bs.flatten }] })) i.eng a

/-- LOAD (R202). -/
def execLoad (i : Issue) (reg : LsReg) (addr : Addr) (find : EccFind) (s : State) : Host.Outcome State Fault Refusal :=
  nextDev s (fun d => issueOp d i none (lsSlot i.slot) false (loadOp i reg addr find))

/-- STORE (R201). -/
def execStore (i : Issue) (reg : LsReg) (addr : Addr) (s : State) : Host.Outcome State Fault Refusal :=
  nextDev s (fun d => issueOp d i none (lsSlot i.slot) false (storeOp i reg addr))

/-! ### Scalar operations and control registers -/

/-- A scalar source's value. -/
def srcVal (r : RegSet) (x : ScSrc) : Word := match x with
  | .s n => rdS r n
  | .p n => rdP r n
  | .imm v => v

/-- The destination of a scalar result. -/
def scDst (x : ScDst) : EDst := match x with
  | .s n => .s n
  | .p n => .p n
  | .q n => .q n

/-- A scalar operation's result: none where the spec states none, a shift by 32 or more (log 6). A comparison gives 1 or 0; a
predicate is set from whether its source is non-zero (log 24). -/
def scalarVal (op : ScOp) (a b : Word) : Option Word :=
  match op with
  | .add => some (a + b)
  | .sub => some (a - b)
  | .and_ => some (a &&& b)
  | .or_ => some (a ||| b)
  | .xor_ => some (a ^^^ b)
  | .shl => if b.toNat < 32 then some (a <<< b.toNat) else none
  | .shrLogical => if b.toNat < 32 then some (a >>> b.toNat) else none
  | .shrArith => if b.toNat < 32 then some (a.sshiftRight b.toNat) else none
  | .mulLow => some (a * b)
  | .mov => some a
  | .cmpEq => some (if a = b then 1 else 0)
  | .cmpLtSigned => some (if a.toInt < b.toInt then 1 else 0)
  | .cmpLtUnsigned => some (if a.toNat < b.toNat then 1 else 0)
  | .setPred => some (if a = 0 then 0 else 1)

/-- SCALAR_OPERATION (R197, R198): a multiply is readable two cycles later, the rest one. -/
def execScalarOperation (i : Issue) (op : ScOp) (dst : ScDst) (a b : ScSrc) (s : State) : Host.Outcome State Fault Refusal :=
  nextDev s (fun d => issueOp d i none (aluSlot i.slot) false (fun d =>
    let r := actSet (engOf d i.eng).core
    let lat : Nat := if op = .mulLow then 2 else 1
    match scalarVal op (srcVal r a) (srcVal r b) with
    | some v => postResult d i.eng lat (scDst dst) v.toNat []
    | none =>
      let q := drawFree d
      postResult q.2 i.eng lat (scDst dst) q.1 []))

/-- CONTROL_REGISTER_WRITE: cb, cl, or esr.SAT cleared, readable a cycle later (R196, R198). -/
def execControlRegisterWrite (i : Issue) (w : CtlWrite) (s : State) : Host.Outcome State Fault Refusal :=
  nextDev s (fun d => issueOp d i none (aluSlot i.slot) false (fun d =>
    let r := actSet (engOf d i.eng).core
    match w with
    | .cb k src => postResult d i.eng 1 (.cb k) (rdS r src).toNat []
    | .cl k src => postResult d i.eng 1 (.cl k) (rdS r src).toNat []
    | .clearSat => postResult d i.eng 1 .satClear 0 []))

/-- WMCR: mcr is written from a scalar, readable a cycle later (R198, R205). -/
def execWmcr (i : Issue) (src : Nat) (s : State) : Host.Outcome State Fault Refusal :=
  nextDev s (fun d => issueOp d i none (aluSlot i.slot) false (fun d =>
    postResult d i.eng 1 .mcr (rdS (actSet (engOf d i.eng).core) src).toNat []))

/-! ### Flow, interrupts and events -/

/-- BRANCH (R200). -/
def execBranch (i : Issue) (target : Word) (s : State) : Host.Outcome State Fault Refusal :=
  nextDev s (fun d => issueOp d i none (aluSlot i.slot) true (fun d => startFlow d i.eng target false))

/-- CALL (R200): the spec names no register that keeps the return address, and none is written (log 26). -/
def execCall (i : Issue) (target : Word) (s : State) : Host.Outcome State Fault Refusal :=
  nextDev s (fun d => issueOp d i none (aluSlot i.slot) true (fun d => startFlow d i.eng target false))

/-- RETI: back to ira after three delay slots, and the main set active again (R210). -/
def execReti (i : Issue) (s : State) : Host.Outcome State Fault Refusal :=
  nextDev s (fun d => issueOp d i none (aluSlot i.slot) true (fun d => startFlow d i.eng (engOf d i.eng).core.ira true))

/-- A pulse seen by an engine that listens on a bit: it sets the bit and asks for the engine, and one that finds the bit set is not counted again (R210, R215). -/
def pulseCore (line bit : Nat) (c : EngCore) : EngCore :=
  let c := { c with lines := tset c.lines bit line }
  if bitOf c.events bit then c
  else { c with events := c.events ||| (1#32 <<< bit), held := if c.held.contains .event then c.held else c.held ++ [.event] }

/-- A pulse on an event line sets the line's bit in the pending word of each engine that listens (R215); which engines listen, and on
which bit, is their kernels' choice, and a line that an engine listens to is enabled there (log 169). -/
def pulseLine (line : Nat) (listeners : List (Nat × Nat)) (d : Dev) : Dev :=
  listeners.foldl (fun d x =>
    if x.1 < 256 ∧ x.2 < 32 ∧ line < 4096 then emit (onCore d x.1 (pulseCore line x.2)) .engineEvent line [(x.1 : Int)] else d) d

/-- EVENT_PULSE (R215). -/
def execEventPulse (line : Nat) (listeners : List (Nat × Nat)) (s : State) : Host.Outcome State Fault Refusal :=
  nextDev s (pulseLine line listeners)

/-- SIG: an engine pulses an event line (R215). -/
def execSig (i : Issue) (line : Nat) (listeners : List (Nat × Nat)) (s : State) : Host.Outcome State Fault Refusal :=
  nextDev s (fun d => issueOp d i none (aluSlot i.slot) false (pulseLine line listeners))

/-- An interrupt that asks for an engine (R210): the bell and the slot timer of themselves; an event asks while it is pending, as its pulse had it held, and a mailbox
while it is not empty. -/
def holdInterrupt (kind : EngInt) (c : EngCore) : EngCore :=
  match kind with
  | .bell => { c with held := c.held ++ [.bell] }
  | .slotTimer => { c with held := c.held ++ [.slotTimer] }
  | .event => c
  | .mailbox => c

/-- ENGINE_INTERRUPT: taken at the next bundle boundary, or held while delay slots run or the shadow set is active (R210). -/
def execEngineInterrupt (eng : Nat) (kind : EngInt) (s : State) : Host.Outcome State Fault Refusal :=
  nextDev s (fun d =>
    if ¬ engRuns d eng then d
    else
      let d := onCore d eng (holdInterrupt kind)
      let c := (engOf d eng).core
      if c.shadowOn ∨ c.br.isSome ∨ ¬ wantsInterrupt c then d else engCycle d eng)

/-! ### The kernel at slot boundaries and bells (R217, R218) -/

/-- A work unit placed earliest deadline first, behind those of its own deadline. -/
def insertUnit (l : List VUnit) (u : VUnit) : List VUnit :=
  match l with
  | [] => [u]
  | x :: r => if u.deadline.toNat < x.deadline.toNat then u :: x :: r else x :: insertUnit r u

/-- A VIDEO unit that becomes ready, with its task's declared deadline, or the one it is given where no table declares the task (R216, R223). -/
def newUnit (tbl : List TaskRec) (tick : BitVec 64) (r : Nat × Nat × Nat) : VUnit :=
  { task := r.1, deadline := tick + BitVec.ofNat 64 (((tbl[r.1]?).map (·.deadline)).getD r.2.1), cycles := r.2.2, late := false, ctx := none }

/-- A kernel at a slot boundary (R217): tasks that have completed leave, VIDEO units and a BACKGROUND task become ready, and the kernel goes on. -/
def slotBoundary (tbl : List TaskRec) (tick : BitVec 64) (finished : List Nat) (ready : List (Nat × Nat × Nat)) (background : Option Nat) (x : Eng) : Eng :=
  let ok (t : Nat) : Bool := !x.kern.suspended.contains t
  let k := dropTasks x.kern finished
  let units := (ready.filter (fun r => ok r.1)).foldl (fun l r => insertUnit l (newUnit tbl tick r)) k.units
  let fresh := ((background.filter ok).filter (fun t => !k.background.any (fun b => b.1 == t))).toList.map (fun t => (t, (none : Option Ctx)))
  schedule tbl { x with kern := { k with slot := (k.slot + 1) % 8, units := units, background := k.background ++ fresh } }

/-- SLOT_TIMER (R217): `finished` are the tasks that have completed since, `ready` the VIDEO units that became ready (task, deadline in ticks from now,
cycles), `background` a BACKGROUND task that is ready. -/
def execSlotTimer (eng : Nat) (finished : List Nat) (ready : List (Nat × Nat × Nat)) (background : Option Nat) (s : State) : Host.Outcome State Fault Refusal :=
  nextDev s (fun d =>
    if ¬ engRuns d eng then d
    else
      let d := onEng d eng (fun x => slotBoundary (tableOf d eng) d.bell.tick finished ready background
        { x with core := { x.core with held := x.core.held ++ [.slotTimer] } })
      let c := (engOf d eng).core
      if c.shadowOn ∨ c.br.isSome then d else engCycle d eng)

/-- The tasks of a class that the bell triggers, in the order of the table (R216, R217). -/
def bellTasks (tbl : List TaskRec) (cls : Nat) : List Nat :=
  (List.range tbl.length).filter (fun t => match tbl[t]? with
    | some r => r.cls == cls && r.trigger == 0
    | none => false)

/-- Tasks in the order of the table, those that no table declares after them as they come. -/
def inTableOrder (tbl : List TaskRec) (ts : List Nat) : List Nat :=
  (List.range tbl.length).filter (fun t => ts.contains t) ++ ts.filter (fun t => decide (t ≥ tbl.length))

/-- An engine's kernel at a bell (R217 to R219): `finished` completed in the ended tick, `tasks` are the AUDIO tasks of the new one beside those that the bell triggers. What
ran is preempted; an AUDIO task that has not completed is abandoned, its context discarded. The flag says that one was, or that a VIDEO unit passed its deadline. -/
def kernelBell (tbl : List TaskRec) (tick : BitVec 64) (finished tasks : List Nat) (x : Eng) : Eng × Bool :=
  let x := preempt x
  let k := dropTasks x.kern finished
  let ok (t : Nat) : Bool := !k.suspended.contains t
  let passed (u : VUnit) : Bool := decide (u.deadline.toNat ≤ tick.toNat)
  let late := k.audioLeft != [] || k.units.any (fun u => !u.late && passed u)
  let back := ((bellTasks tbl 2).filter (fun t => ok t && !k.background.any (fun b => b.1 == t))).map (fun t => (t, (none : Option Ctx)))
  let k := { k with slot := 0, audioLeft := (inTableOrder tbl (bellTasks tbl 0 ++ tasks)).filter ok, faulted := false, running := .idle,
                    units := k.units.map (fun u => { u with late := u.late || passed u }), background := k.background ++ back }
  (dispatch tbl { x with kern := k }, late)

end Sys2Proof.Machine
end

