-- ==== Sys2Proof/Machine/Codec.lean ====
section
/-! DEFINITION. The coded pictures of chapter 05: tiers and their canonical parameter sets, what the decode clusters accept, the conditions of
pass-through, and the parameter sets of a composed picture. -/

namespace Sys2Proof.Machine

/-! ### Tiers (R167, R168) -/

/-- The side of a tier in tile units: 1 S, 2 M, 3 L (R167). -/
def tierUnits (t : Nat) : Nat := match t with
  | 1 => 2 | 2 => 3 | 3 => 6 | _ => 0

/-- A tier's coded size (R167). -/
def tierCoded (t : Nat) : Nat × Nat := (320 * tierUnits t, 192 * tierUnits t)

/-- A tier's nominal 16:9 size (R167). -/
def tierNominal (t : Nat) : Nat × Nat := (320 * tierUnits t, 180 * tierUnits t)

/-- The rows of a tier's band (R167). -/
def bandRows (t : Nat) : Nat := (tierCoded t).2 - (tierNominal t).2

/-- The tier whose coded size a picture has, 0 for none (R167). -/
def tierOfSize (w h : Nat) : Nat := ([1, 2, 3].find? (fun t => tierCoded t == (w, h))).getD 0

/-- The tier whose coded size a contribution declares (R162, R175). -/
def ownTier (r : ContribRec) : Nat := tierOfSize r.width r.height

/-- A border colour's Y, Cb and Cr at 10 bits (R173). -/
def borderTen (b : Nat) : List Int := [((b % 256 * 4 : Nat) : Int), ((b / 256 % 256 * 4 : Nat) : Int), ((b / 65536 % 256 * 4 : Nat) : Int)]

/-- Where a decoded picture stands in the nominal picture of its tier (R168): its left and top edge, width and height; bars fill the rest. Sizes are cut to
whole samples (log 161). -/
def scaledIn (w h t : Nat) : Nat × Nat × Nat × Nat :=
  let (nw, nh) := tierNominal t
  if 9 * w ≤ 16 * h then let sw := nh * w / max 1 h; ((nw - sw) / 2, 0, sw, nh)
  else let sh := nw * h / max 1 w; (0, (nh - sh) / 2, nw, sh)

/-- The canonical parameter sets of a tier (R168): picture size, tile columns and rows, and the values common to all tiers. -/
def canonicalTier (t : Nat) : List Nat := [(tierCoded t).1, (tierCoded t).2, tierUnits t, tierUnits t] ++ Config.canonicalSets

/-- The NAL unit types of H.266 that R168, R171 and R182 name: TRAIL 0, IDR_W_RADL 7, IDR_N_LP 8, CRA 9 (PRESUMED from ITU-T H.266, log 162). -/
def nalTrail : Nat := 0
def nalIdrRadl : Nat := 7
def nalIdr : Nat := 8
def nalCra : Nat := 9

/-! ### Contributions (R158, R163, R171) -/

/-- The codec of a profile: 1 AVC, 2 HEVC, 3 VVC, 4 AV1 (R158). -/
def profileCodec (p : VProfile) : Nat := match p with
  | .avcConstrainedBaseline | .avcMain | .avcHigh => 1
  | .hevcMain | .hevcMain10 => 2
  | .vvcMain10 | .vvcMultilayerMain10 => 3
  | .av1Main => 4
  | .other => 0

/-- Whether a decode cluster accepts a picture of a codec (R158). -/
def decodable (codec : Nat) (p : PicIn) : Bool :=
  profileCodec p.profile == codec && decide (p.level ≤ 51) && (p.depth == 8 || (p.depth == 10 && codec != 1)) && p.progressive && p.c420

/-- The highest layer of a contribution within the declared size (R158, R163); none where even the lowest is larger. -/
def decodedLayer (r : ContribRec) (p : PicIn) : Option (Nat × Nat) :=
  (p.layers.filter (fun s => decide (s.1 ≤ r.width ∧ s.2 ≤ r.height))).getLast?

/-- The conformance window crops nothing or only the band of the tier (row 4 of R171). -/
def windowOk (t : Nat) (w : Option (Nat × Nat × Nat × Nat)) : Bool := match w with
  | none => true
  | some (l, r, u, b) => l == 0 && r == 0 && u == 0 && decide (b ≤ bandRows t)

/-- The first row of R171 that a VVC picture fails, 0 for none. `t` is the tier of its size, `poc` the picture order count before it, `count` the pictures
of the last 8,000 ticks. Of several rows the lowest is named (log 161). -/
def conformRow (p : PicIn) (t : Nat) (poc : Option Nat) (count : Nat) : Nat :=
  let v := p.vvc
  let rows : List Bool :=
    [!v.aggregated && !v.donl,
     p.profile == .vvcMain10 && decide (p.level ≤ 41),
     p.layers.length == 1 && v.layerId == 0 && v.temporalId == 0,
     t != 0 && windowOk t v.window,
     p.c420 && v.depth8 == 2,
     v.ctu5 == 1,
     v.tile == (5, 3) && v.rectSlices && v.slices == 1 && v.acrossTiles,
     decide (v.subpics ≤ 1),
     v.nal == nalTrail || v.nal == nalIdrRadl || v.nal == nalIdr || (v.nal == nalCra && !v.leading),
     p.intra || (!v.bSlices && v.refs == [1] && poc.all (fun q => v.poc == q + 1)),
     v.inPh == 0,
     v.tools == 0 && !v.aps,
     v.others == Config.canonicalSets,
     decide (count ≤ 30)]
  (rows.findIdx? (fun ok => !ok)).elim 0 (· + 1)

/-! ### The composed picture (R174, R179, R180) -/

/-- The size of a composed picture in luma samples (R174). -/
def composedSize (v : VariantRec) : Nat × Nat := (320 * v.w, 192 * v.h)

/-- The lowest of levels 4.1, 5.1 and 6.1 that admits a picture size at a rate, as general_level_idc (R180): the greatest luma picture size, the greatest side
and the greatest luma sample rate of each level (PRESUMED from ITU-T H.266, log 162). -/
def levelFor (w h fps : Nat) : Nat :=
  let within (ps sr : Nat) : Bool := decide (w * h ≤ ps ∧ w * w ≤ 8 * ps ∧ h * h ≤ 8 * ps ∧ w * h * fps ≤ sr)
  if within 2228224 133693440 then 67 else if within 8912896 534773760 then 83 else 99

/-- The parameter sets of a composed picture (R180): a subpicture for each cell at its position and size, each with its cell's index for its identifier. -/
def composedSets (v : VariantRec) : ParamSets :=
  let (w, h) := composedSize v
  { width := w, height := h, level := levelFor w h v.fps,
    subpics := v.cells.zipIdx.map (fun c => (5 * c.1.x, 3 * c.1.y, 5 * c.1.w, 3 * c.1.h, c.2)),
    treatedAsPic := true, filterAcross := false, idLenMinus1 := 5, tileCols := v.w, tileRows := v.h, tile := (5, 3),
    rectSlices := true, slicePerSubpic := true, mixedNal := true, window := none, others := Config.canonicalSets }

/-- The values of parameter sets as they are written (R179, R180). -/
def setsVals (p : ParamSets) : List Int :=
  ([p.width, p.height, p.level, p.subpics.length, b2n p.treatedAsPic, b2n p.filterAcross, p.idLenMinus1, p.tileCols, p.tileRows, p.tile.1, p.tile.2,
    b2n p.rectSlices, b2n p.slicePerSubpic, b2n p.mixedNal]
    ++ (p.subpics.map (fun s => [s.1, s.2.1, s.2.2.1, s.2.2.2.1, s.2.2.2.2])).flatten ++ p.others).map (fun n => (n : Int))

/-- A cell put in its place by the raster order of top-left tiles (R179). -/
def rasterPut {α : Type} (y x : Nat) (a : α) (l : List (Nat × Nat × α)) : List (Nat × Nat × α) :=
  match l with
  | [] => [(y, x, a)]
  | b :: r => if y < b.1 ∨ (y = b.1 ∧ x ≤ b.2.1) then (y, x, a) :: b :: r else b :: rasterPut y x a r

/-- The subpictures of a picture in the order they are placed (R179). -/
def rasterOrder {α : Type} (l : List (Nat × Nat × α)) : List α := (l.foldr (fun c a => rasterPut c.1 c.2.1 c.2.2 a) []).map (·.2.2)

/-- The size of a leg's fallback picture (R186): the largest of 16:9 within its limits and 1,280 × 720, each dimension cut to a multiple of 16. -/
def fallbackSize (r : LegRec) : Nat × Nat :=
  let w := min r.maxW 1280
  let h := min r.maxH 720
  let (w, h) := if 9 * w ≤ 16 * h then (w, 9 * w / 16) else (16 * h / 9, h)
  (w / 16 * 16, h / 16 * 16)

/-- The rate of a leg's fallback picture (R186). -/
def fallbackFps (r : LegRec) (v : VariantRec) : Nat := min r.maxFps v.fps

end Sys2Proof.Machine
end

