-- ==== Sys2Proof/Machine/Routes.lean ====
section
/-! DEFINITION. The audio commands of R153 but for the local ports: routes, consoles, parameters and the conference's audio query. -/

namespace Sys2Proof.Machine

/-- Admission on an engine that a command names (R32, R558): DARK where the host switched its group off. -/
def admitNamed (v : Dev) (e cyc cred : Nat) : Except Status (Option Nat) :=
  if ¬ domOn v (17 + e / 16) ∧ ¬ v.aux.gated.contains (e / 16) then .error .dark
  else
    match admitOn v e cyc cred with
    | none => .error .noResource
    | some w => .ok w

/-- Whether a conference takes a participant or an output: it exists, and one that spans has a binding (R541). -/
def confTakes (v : Dev) (c : Nat) : Option Conf :=
  (confOf v c).filter (fun x => !x.rcd.spans || thas v.media.binds x.rcd.tag)

/-- The charge one more input puts on a conference's mix: none within INPUT_RESERVE (R96). -/
def inputGrowth (c : Conf) (used : Nat) : Nat × Nat := if used + 1 ≤ c.reserve then (0, 0) else (120, 2)

/-- The reservation grown to the inputs in use (R96). -/
def growReserve (d : Dev) (c : Nat) : Dev := onConf d c (fun x => { x with reserve := max x.reserve (inputsInUse d c) })

/-- Whether the endpoint and the fields of a route record lie in their ranges (R137). -/
def routeFieldsOk (r : RouteRec) : Bool :=
  r.reservedOk && decide (r.id < 1024 ∧ (if r.output then r.role < 4 else r.role < 3) ∧ r.endType < 4 ∧ r.gain < 65536 ∧ r.monitor < 65536)
    && decide (r.engine = 0xFFFF ∨ r.engine < 256)
    && (match r.endType with
      | 0 => decide (r.endUnit < 2 ∧ r.endIndex = 0)
      | 1 => decide (r.endUnit < 8 ∧ r.endIndex < 16)
      | 2 => decide (r.endUnit < 64 ∧ r.endIndex < 32)
      | _ => decide (r.endUnit < 256 ∧ r.endIndex < 512))
    && (if (!r.output && r.role == 2) || (r.output && r.role == 2) then decide (1 ≤ r.channel ∧ r.channel ≤ 16) else r.channel == 0)
    && (if r.output then r.monitor == 0 || r.minus != 0xFFFF else r.monitor == 0)

/-- Whether MINUS_ROUTE is as its role asks: an input of the same conference, a console's for CONSOLE_LISTEN, else 0xFFFF (R137,
R138). -/
def minusOk (v : Dev) (r : RouteRec) : Bool :=
  if r.output ∧ (r.role = 1 ∨ r.role = 3) then
    match routeOf v r.minus with
    | none => false
    | some m => !m.rcd.output && m.rcd.conf == r.conf && (r.role == 1 || m.rcd.role == 2)
  else r.minus == 0xFFFF

/-- Whether an endpoint and direction are used by another route (R138). -/
def endpointBusy (v : Dev) (r : RouteRec) : Bool :=
  v.aud.routes.any (fun e => e.1 != r.id && e.2.rcd.output == r.output && e.2.rcd.endType == r.endType && e.2.rcd.endUnit == r.endUnit && e.2.rcd.endIndex == r.endIndex)

/-- Whether a channel is absent, or would have a fifth console (R131). -/
def channelBad (v : Dev) (c : Conf) (r : RouteRec) : Bool :=
  r.role == 2 && (decide (r.channel > c.rcd.langCount) ||
    (!r.output && decide ((v.aud.routes.filter (fun e => e.1 != r.id && !e.2.rcd.output && e.2.rcd.conf == r.conf && e.2.rcd.role == 2 && e.2.rcd.channel == r.channel && e.2.clearing.isNone)).length ≥ 4)))

/-- Whether a console would hear the channel it feeds (R133, R138). -/
def relaySelf (v : Dev) (r : RouteRec) : Bool :=
  !r.output && r.role == 2 && (match routeOf v r.id with
    | some x => !x.rcd.output && x.rcd.role == 2 && x.listen == r.channel
    | none => false)

/-- Admission of a route (R96, R138): the charge of an input beyond the reservation on the mix engine, and 200 cycles and 2
credits on the route's engine where that is new to it. -/
def routeAdmit (v : Dev) (c : Conf) (r : RouteRec) (e : Nat) : Except Status (Option Nat) :=
  let old := routeOf v r.id
  let isIn : Bool := match old with
    | some x => !x.rcd.output && x.rcd.conf == r.conf && x.clearing.isNone
    | none => false
  let grow := if r.output ∨ isIn then (0, 0) else inputGrowth c (inputsInUse v r.conf)
  let own := match old with
    | some x => if x.engine = e then (0, 0) else routeCharge
    | none => routeCharge
  let here := if c.mix = some e then addCharge grow own else own
  let mixOk : Bool := grow == (0, 0) || (match c.mix with
    | none => false
    | some m => (enginesOf m c.move).all (fun x => (x == e && m == e) || hasRoom v x grow.1 (grow.2 + (if x / 16 = e / 16 then own.2 else 0))))
  if ¬ mixOk then .error .noResource
  else if here = (0, 0) then .ok none
  else admitNamed v e here.1 here.2

/-- The field of a route record at fault (R137, R138, R510). -/
def routeFault (r : RouteRec) : Nat :=
  let unit : Nat := match r.endType with | 0 => 2 | 1 => 8 | 2 => 64 | _ => 256
  let index : Bool := match r.endType with
    | 0 => r.endIndex == 0
    | 1 => decide (r.endIndex < 16)
    | 2 => decide (r.endIndex < 32)
    | _ => decide (r.endIndex < 512)
  firstBad [(decide (r.id < 1024), 0), (if r.output then decide (r.role < 4) else decide (r.role < 3), 6),
    (if r.role = 2 then decide (1 ≤ r.channel ∧ r.channel ≤ 16) else r.channel == 0, 7), (decide (r.endType < 4), 8), (decide (r.endUnit < unit), 9), (index, 10),
    (decide (r.gain < 65536), 14), (decide (r.monitor < 65536) && (r.monitor == 0 || (r.output && r.minus != 0xFFFF)), 16),
    (decide (r.engine = 0xFFFF ∨ r.engine < 256), 18), (r.reservedOk, 20)]

/-- ROUTE_SET (R116, R131, R137, R138, R541). -/
def actRouteSet (rcd : RouteRec) (v d : Dev) : ActResult :=
  if ¬ rcd.output ∧ rcd.rateHz ≠ 48000 then
    .refuseWith .badParam 1 noField (onAud d (fun a => { a with rateRefused := satInc a.rateRefused }))
  else if ¬ routeFieldsOk rcd then .refuse .badParam 5 (routeFault rcd)
  else if endpointBusy v rcd then .refuse .busy 2 noField
  else
    match confTakes v rcd.conf with
    | none => .refuse .badParam 5 4
    | some c =>
      if channelBad v c rcd then .refuse .badParam 3 7
      else if relaySelf v rcd then .refuse .badParam 4 7
      else if ¬ minusOk v rcd then .refuse .badParam 5 12
      else
        match (if rcd.engine = 0xFFFF then c.mix else some rcd.engine) with
        | none => .refuse .noResource 6 noField
        | some e =>
          match routeAdmit v c rcd e with
          | .error st => .refuse st (if st = .noResource then 6 else 0) noField
          | .ok w => .stage false e [e] (waitOf w) (wakeOpt d w)

/-- A crossfade begun from `old`, and from the running blend frozen as it stands where one runs (R135, R136). -/
def fadeFrom (rt : Route) (old : RouteRec) : Fade :=
  match rt.fade with
  | none => { n := 0, old := old, frozen := none }
  | some f => { n := 0, old := old, frozen := some (f.old, (fadeW f.n).toNat) }

/-- The crossfade that a change of record starts (R135, R136): none where SWITCH is 0 or nothing changes that is heard. -/
def newFade (rt : Route) (rcd : RouteRec) : Option Fade :=
  if ¬ rcd.crossfade ∨ (sameSource rt.rcd rcd ∧ rt.rcd.gain = rcd.gain) then none else some (fadeFrom rt rt.rcd)

/-- Whether a change of record is made in place (R138). -/
def inPlace (a b : RouteRec) : Bool :=
  { a with gain := b.gain, monitor := b.monitor, crossfade := b.crossfade, gateOk := b.gateOk, channel := b.channel, engine := b.engine,
           rateHz := b.rateHz, reservedOk := b.reservedOk } == b

/-- A route created. -/
def newRoute (rcd : RouteRec) (e : Nat) : Route :=
  { rcd := rcd, engine := e, move := none, fade := none, consoleLive := false, listen := 0, clearing := none, blk := sixZero,
    absent := true, twin := false, restore := none }

/-- An input of a conference begins again from no power (R138, R151). -/
def forgetInput (d : Dev) (c n : Nat) : Dev :=
  onConf d c (fun x =>
    let k := inputKey d x (8192 + n)
    { x with ins := tdel x.ins k, heldIns := tdel x.heldIns k, talkers := x.talkers.filter (· != k) })

/-- The route set at its bell (R135 to R138): in place, or cleared and created with old and new source joined; a change of engine
begins a move, and DONE waits for it. The Bool says that the reply is due now. -/
def applyRouteSet (rcd : RouteRec) (pick : Nat) (ctx : ReplyCtx × List Nat) (d : Dev) : Dev × Bool :=
  match routeOf d rcd.id with
  | none => (growReserve (onAud d (fun a => { a with routes := tset a.routes rcd.id (newRoute rcd pick) })) rcd.conf, true)
  | some rt =>
    let moves := decide (rt.engine ≠ pick ∧ rt.clearing = none)
    let keep := inPlace rt.rcd rcd && rt.clearing.isNone
    let rt' := { rt with rcd := rcd, fade := if rt.clearing = none then newFade rt rcd else none, clearing := none,
                         engine := if moves then rt.engine else pick,
                         move := if moves then some (newMove d pick (some ctx)) else rt.move,
                         consoleLive := keep && rt.consoleLive, listen := if keep then rt.listen else 0 }
    let d := if keep then d else forgetInput d rt.rcd.conf rcd.id
    (growReserve (onAud d (fun a => { a with routes := tset a.routes rcd.id rt' })) rcd.conf, !moves)

/-- ROUTE_CLEAR (R153). -/
def actRouteClear (route : Nat) (v d : Dev) : ActResult :=
  match routeOf v route with
  | none => .refuse .badParam 0 0
  | some x => if x.clearing.isSome then .refuse .badParam 0 0 else .stage false 0 [] none d

/-- The route cleared at its bell (R153): a talker's input fades out under LEAVE_CROSSFADE, an output to zero under SWITCH,
from the blend of a running crossfade as it stands (R136). -/
def applyRouteClear (route : Nat) (d : Dev) : Dev :=
  match routeOf d route with
  | none => d
  | some rt =>
    let fades : Bool := if rt.rcd.output then rt.rcd.crossfade
      else match confOf d rt.rcd.conf with
        | none => false
        | some c => c.rcd.leaveFade && c.talkers.contains (inputKey d c (8192 + route))
    if fades then onRoute d route (fun x => { x with clearing := some 0, fade := if rt.rcd.output then rt.fade.map (fun _ => fadeFrom rt rt.rcd) else rt.fade })
    else onAud d (fun a => { a with routes := tdel a.routes route })

/-- The fields of a route record, in the order of R137. -/
def routeVals (r : RouteRec) : List Nat :=
  [r.id, b2n r.output, b2n r.crossfade + 2 * b2n r.gateOk, r.conf, r.role, r.channel, r.endType, r.endUnit, r.endIndex, r.minus, r.gain, r.monitor, r.engine]

/-- ROUTE_QUERY (R153). -/
def actRouteQuery (route : Nat) (_v d : Dev) : ActResult :=
  match routeOf d route with
  | none => .refuse .badParam 0 0
  | some x => .read (routeVals x.rcd ++ [x.engine, b2n x.fade.isSome]) d

/-- CONSOLE_SET (R133). -/
def actConsoleSet (route live listen : Nat) (v d : Dev) : ActResult :=
  match routeOf v route with
  | none => .refuse .badParam 0 0
  | some x =>
    if x.rcd.output ∨ x.rcd.role ≠ 2 ∨ x.clearing.isSome ∨ live > 1 ∨ listen > ((confOf v x.rcd.conf).map (·.rcd.langCount)).getD 0 then .refuse .badParam 0 (firstBad [(!x.rcd.output && x.rcd.role == 2 && x.clearing.isNone, 0), (decide (live ≤ 1), 2), (false, 3)])
    else if listen = x.rcd.channel then .refuse .badParam 4 3
    else .stage false 0 [] none d

/-- A record of CONSOLE_LISTEN as the record of what its console hears (R133); any other is as it is. -/
def heardAs (route listen : Nat) (r : RouteRec) : RouteRec :=
  if r.output ∧ r.role = 3 ∧ r.minus = route then { r with role := if listen = 0 then 0 else 2, channel := listen } else r

/-- A route as a console's choice changes from `old` (R133, R135): a blend goes on from what was heard, and a route that plays the console under SWITCH 1
crossfades. -/
def listenChange (route old : Nat) (rt : Route) : Route :=
  let was := heardAs route old rt.rcd
  let rt : Route := { rt with fade := rt.fade.map (fun f => { f with old := heardAs route old f.old, frozen := f.frozen.map (fun z => (heardAs route old z.1, z.2)) }) }
  if was ≠ rt.rcd ∧ rt.rcd.crossfade ∧ rt.clearing.isNone then { rt with fade := some (fadeFrom rt was) } else rt

/-- The console made live or idle, and what it hears, at its bell (R133, R135). -/
def applyConsoleSet (route live listen : Nat) (d : Dev) : Dev :=
  let old := ((routeOf d route).map (·.listen)).getD 0
  let d := if listen = old then d else onAud d (fun a => { a with routes := tmap a.routes (fun _ r => listenChange route old r) })
  onRoute d route (fun x => { x with consoleLive := live == 1, listen := listen })

/-! ### Parameter sets (R139 to R141) -/

/-- The set a block belongs to (R139). -/
def setOfBlock (block : Nat) : Option Nat :=
  if block < 0x408 then some 0 else if block = 0x800 then some 1 else if block = 0x801 then some 2 else none

/-- Whether a parameter exists and its value is in its range (R122, R125, R130, R139); `on` is ON as the write leaves it. Headset blocks hold the side-tone gain, a
codec and a bias parameter, whose codes and ranges the spec does not give (log 164). -/
def paramOk (block code : Nat) (x on : Int) : Bool :=
  let within (lo hi : Int) : Bool := decide (lo ≤ x ∧ x ≤ hi)
  if block < 0x400 then
    if code < 16 then
      match code with
      | 0 => within (-1536) 0 | 1 => within (-1536) on | 2 => within 0 16000 | 3 => within 0 384 | 4 => within 1 800
      | 5 => within 0 8 | 6 => within 0 1 | 7 => within 0 7 | _ => false
    else if code < 288 then
      match code % 16 with
      | 0 => within (-960) 0 | 1 => within 16 320 | 2 => within 0 384 | 3 => within 1 4800 | 4 => within 1 48000
      | 5 => within (-192) 192 | 6 => within (-384) 0 | 7 => within 1 48000
      | 8 => decide (32 ≤ code) && (x == -32768 || within (-960) 0) | 9 => decide (32 ≤ code) && within 0 1 | _ => false
    else false
  else if block < 0x408 then decide (code < 33) && within 0 65535
  else decide (code ≤ 2) && within 0 65535

/-- A write into the inactive bank of the set (R140). -/
def bankWrite (d : Dev) (block : Nat) (data : List (Nat × Int)) : Dev :=
  let a := if block < 0x800 then d.aud.active0 else (tgetD d.aud.hs (block - 0x800) Headset.reset).bank
  let put (t : Tbl Int) : Tbl Int := data.foldl (fun t e => tset t (block * 4096 + e.1) e.2) t
  onAud d (fun x => if a = 0 then { x with bankB := put x.bankB } else { x with bankA := put x.bankA })

/-- AUD_PARAM_WRITE (R139 to R141). Set 0 is written at a bell; a headset's set at once, or behind a commit that waits for its
sample. -/
def actAudParamWrite (set block : Nat) (data : List (Nat × Int)) (v d : Dev) : ActResult :=
  let on := ((data.find? (fun e => e.1 == 0)).map (·.2)).getD (paramIn v block 0 false)
  if setOfBlock block ≠ some set ∨ data.any (fun e => !paramOk block e.1 e.2 on) then .refuse .badParam 0 (if set > 2 then 0 else if setOfBlock block ≠ some set then 1 else 7)
  else if set = 0 then .stage false 0 [] none d
  else
    match (d.aud.hsCommit.filter (fun e => e.1 == set - 1)).getLast? with
    | none => .now [] (bankWrite d block data)
    | some last => .now [] (onAud d (fun a => { a with hsCommit := a.hsCommit.map (fun e =>
        if e.2.1.epoch = last.2.1.epoch then (e.1, e.2.1, e.2.2 ++ data) else e) }))

/-- The write of set 0 at its bell. -/
def applyAudParamWrite (block : Nat) (data : List (Nat × Int)) (d : Dev) : Dev := bankWrite d block data

/-- AUD_PARAM_READ (R153). -/
def actAudParamRead (set bank block first count : Nat) (_v d : Dev) : ActResult :=
  if setOfBlock block ≠ some set ∨ bank > 1 ∨ first + count > 4096 then .refuse .badParam 0 (firstBad [(decide (set ≤ 2), 0), (decide (bank ≤ 1), 1), (decide (setOfBlock block = some set), 2), (false, 6)])
  else .read ((List.range count).map (fun i => twos 32 (paramIn d block (first + i) (bank == 0)))) d

/-- A commit of set 0 or of a headset's set: the banks swap and the new active bank is copied (R140). -/
def bankSwap (d : Dev) (set : Nat) : Dev :=
  let mine (k : Nat) : Bool := if set = 0 then decide (k / 4096 < 0x800) else decide (k / 4096 = 0x7FF + set)
  let copy (src dst : Tbl Int) : Tbl Int := (src.filter (fun e => mine e.1)).foldl (fun t e => tset t e.1 e.2) (dst.filter (fun e => !mine e.1))
  let a := if set = 0 then d.aud.active0 else (tgetD d.aud.hs (set - 1) Headset.reset).bank
  onAud d (fun x =>
    let x := if a = 0 then { x with bankA := copy x.bankB x.bankA } else { x with bankB := copy x.bankA x.bankB }
    if set = 0 then { x with active0 := 1 - a } else { x with hs := tupd x.hs (set - 1) Headset.reset (fun h => { h with bank := 1 - a }) })

/-- AUD_COMMIT (R140): one set; a headset's swap comes at the next sample boundary and DONE follows it. -/
def actAudCommit (sets : List Nat) (v d : Dev) : ActResult :=
  match sets with
  | [0] => .stage false 0 [1 - v.aud.active0] none d
  | [s] => if s > 2 then .refuse .badParam 0 0
           else .later (fun x => onAud d (fun a => { a with hsCommit := a.hsCommit ++ [(s - 1, x, [])] }))
  | _ => .refuse .badParam 0 0

/-- The commit of set 0 at its bell. -/
def applyAudCommit (d : Dev) : Dev := bankSwap d 0

/-- HEADSET_BANK_SWAP (R140, R141): the first commit that waits for this headset swaps its banks at a sample boundary, and the
writes behind it land in the bank that is inactive after the copy. -/
def headsetBankSwap (n : Nat) (d : Dev) : Dev :=
  match d.aud.hsCommit.find? (fun e => e.1 == n) with
  | none => d
  | some e =>
    let d := bankSwap (onAud d (fun a => { a with hsCommit := a.hsCommit.erase e })) (n + 1)
    let d := bankWrite d (0x800 + n) e.2.2
    answer (epochDone d e.2.1.epoch) e.2.1 .done [(tgetD d.aud.hs n Headset.reset).bank]

/-- HEADSET_BANK_SWAP (R140). -/
def execHeadsetBankSwap (headset : Nat) (s : State) : Host.Outcome State Fault Refusal := nextDev s (headsetBankSwap headset)

/-- CONF_AUDIO_QUERY (R153): the talkers in rank order, N, each input with its level in 1/16 dB, the gains and CLIP. -/
def actConfAudioQuery (conf : Nat) (_v d : Dev) : ActResult :=
  match confOf d conf with
  | none => .refuse .badParam 0 0
  | some c =>
    .read (byteData (eachBytes 4 (ranked c.ins c.talkers) ++ leBytes c.talkers.length 1
      ++ c.ins.flatMap (fun e => leBytes e.1 4 ++ leInt ((e.2.level).getD (-32768)) 2)
      ++ eachBytes 2 ((List.range (c.rcd.langCount + 1)).map (fun ch => (tgetD c.dyns ch Dyn.rest).g)) ++ leBytes c.clip.toNat 8)) d

end Sys2Proof.Machine
end

