-- ==== Sys2Proof/Machine/Video.lean ====
section
/-! DEFINITION. Video (chapter 05): contributions, tier streams, composed streams and the splicer, charges and commands. -/

namespace Sys2Proof.Machine

/-! ### Tiers and charges (R167, R169, R188) -/

/-- The luma samples a tier encode charges per tick (R188). -/
def tierSamples (t : Nat) : Nat := match t with
  | 1 => 922 | 2 => 2074 | 3 => 8295 | _ => 0

/-- The target rate of a tier in kb/s (R169). -/
def tierRate (d : Dev) (t : Nat) : Nat := match t with
  | 1 => d.vid.rateS | 2 => d.vid.rateM | 3 => d.vid.rateL | _ => 0

/-- The declared rate of a variant in b/s (R178). -/
def declaredRate (d : Dev) (v : VariantRec) : Nat := sumN (v.cells.map (fun c => tierRate d c.tier)) * 1000 * v.fps / 30

/-- The contribution of a leg, if CONTRIB_SET has named one. -/
def contribOf (d : Dev) (n : Nat) : Option Contrib := tget d.vid.contribs n

/-- The mode of a leg's contribution (R161). -/
def contribMode (d : Dev) (n : Nat) : Nat := ((contribOf d n).map (·.rcd.mode)).getD 0

/-- The decode charge of a contribution (R188). -/
def decodeSamples (r : ContribRec) : Nat := if r.mode = 2 then ceilDiv (r.width * r.height * r.fps) 8000 else 0

/-- DEC_LOAD of a cluster (R160, R192). -/
def decLoad (d : Dev) (k : Nat) : Nat :=
  sumN (d.vid.contribs.map (fun e => if e.2.cluster = k then decodeSamples e.2.rcd else 0))

/-- A list without repeats. -/
def dedup {α : Type} [BEq α] (l : List α) : List α := l.foldl (fun a x => if a.contains x then a else a ++ [x]) []

/-- The cells of every variant of every layout, each with its conference. -/
def layoutCells (d : Dev) : List (Nat × CellRec) :=
  (d.vid.layouts.map (fun l => (l.2.variants.map (fun v => v.cells.map (fun c => (l.2.conf, c)))).flatten)).flatten

/-- The tier encodes counted for the layouts (R188): distinct sources or ranks and tiers of a conference, and one more for each
tier with a talker cell. -/
def tierEncodes (d : Dev) : List Nat :=
  let cs := (layoutCells d).filter (fun c => c.2.kind != 0)
  (dedup (cs.map (fun c => (c.1, c.2.kind, c.2.source, c.2.tier)))).map (fun c => c.2.2.2)
    ++ (dedup ((cs.filter (fun c => c.2.kind == 2)).map (fun c => (c.1, c.2.tier)))).map (·.2)

/-- The AVC fallback slots held (R186). -/
def slotsHeld (d : Dev) : Nat := (d.media.legs.filter (fun l => l.2.slot)).length

/-- ENC_LOAD (R188, R192). -/
def encLoad (d : Dev) : Nat :=
  sumN ((tierEncodes d).map tierSamples)
    + sumN (d.vid.contribs.map (fun e => if e.2.rcd.relayer then ceilDiv (5 * e.2.rcd.width * e.2.rcd.height * e.2.rcd.fps) 32000 else 0))
    + 3456 * slotsHeld d

/-- The composed streams charged: every variant of every layout, and each leg's own (R177, R188). -/
def chargedStreams (d : Dev) : List VariantRec :=
  (d.vid.layouts.map (·.2.variants)).flatten ++ ((d.vid.streams.filter (fun s => s.2.self.isSome)).map (·.2.geometry))

/-- SPLICE_LOAD in placements per second (R188, R192). -/
def spliceLoad (d : Dev) : Nat := sumN ((chargedStreams d).map (fun v => v.cells.length * v.fps))

/-- The loads of R188, each with its ceiling (R160, R188, R189). -/
def videoLoads (d : Dev) : List (Nat × Nat) :=
  let cred (k : Nat) : Nat := sumN (d.vid.contribs.map (fun e => if e.2.cluster = k then ceilDiv (decodeSamples e.2.rcd * 12) 64 else 0))
  [(decLoad d 0, 375000), (decLoad d 1, 375000), (encLoad d, 375000), ((chargedStreams d).length, 4096), (spliceLoad d, 6021120),
   (cred 0, allotOf d 16), (cred 1, allotOf d 17), (ceilDiv (encLoad d * 24) 64, allotOf d 18),
   (sumN ((chargedStreams d).map (fun v => ceilDiv (2 * declaredRate d v) 4096000 + 1)), allotOf d 19)]

/-- Whether a change is admitted: no load passes its ceiling that the change raises (R189). -/
def videoAdmits (before after : Dev) : Bool :=
  ((videoLoads before).zip (videoLoads after)).all (fun p => decide (p.2.1 ≤ p.2.2 ∨ p.2.1 ≤ p.1.1))

/-- The load of a codec domain: a decode cluster's, the encoder's, or the splicer's layouts (R555). -/
def codecLoad (d : Dev) (k : Nat) : Nat :=
  match k with
  | 33 => decLoad d 0
  | 34 => decLoad d 1
  | 35 => encLoad d
  | _ => d.vid.layouts.length + spliceLoad d

/-- The codec domains that are not ON and whose load a change raises (R558, R563). -/
def codecsNeeded (before after : Dev) : List Nat :=
  [33, 34, 35, 36].filter (fun k => !domOn before k && decide (codecLoad before k < codecLoad after k))

/-- Whether a change needs a codec domain that is off and that Autumn has not gated (R513, R558, R563). -/
def codecsDark (before after : Dev) : Bool := (codecsNeeded before after).any (fun k => !before.aux.codecGated.contains k)

/-- A change taken only where it is admitted (R188, R189): no command stands behind a change of variant or of stream, and one that does not fit is put off
(DESIGN CHOICE, log 161). -/
def ifFits (change : Dev → Dev) (d : Dev) : Dev := if videoAdmits d (change d) then change d else d

/-! ### Ranks, sources and intra points (R170, R176, R177) -/

/-- A leg put in its place in the rank list: the later the bell at which it last became a talker, the higher, then by LEG_ID. -/
def rankPut (last : Nat → Nat) (n : Nat) (l : List Nat) : List Nat :=
  match l with
  | [] => [n]
  | m :: r => if last n > last m ∨ (last n = last m ∧ n < m) then n :: m :: r else m :: rankPut last n r

/-- The video rank list of a conference (R176): of all its legs, whether or not they can be shown now. -/
def videoRanks (d : Dev) (conf : Nat) : List Nat :=
  let legs := (d.media.legs.filter (fun l => l.2.rcd.conf == conf && l.2.st != .free && l.2.st != .staged && (contribMode d l.1 == 2 || contribMode d l.1 == 3))).map (·.1)
  let last (n : Nat) : Nat := match confOf d conf with
    | none => 0
    | some c => ((tget c.lastTalk (inputKey d c n)).map (fun t => t.toNat + 1)).getD 0
  legs.foldr (rankPut last) []

/-- The variant of a layout by number: 1 S, 2 M, 3 L (R173). -/
def variantOf (r : LayoutRec) (v : Nat) : Option VariantRec :=
  let present := (if r.hasS then [1] else []) ++ (if r.hasM then [2] else []) ++ (if r.hasL then [3] else [])
  ((present.zip r.variants).find? (fun p => p.1 == v)).map (·.2)

/-- Whether a leg is there to be shown: LOST and draining ones are not (R181, R190). -/
def legShown (l : Leg) : Bool := l.st == .active || l.st == .migrating

/-- Whether a source can show in a cell of a tier: it is there, and its contribution is AUTO, or PASS at that tier while it meets R171 (R162, R172). -/
def sourceShows (d : Dev) (n t : Nat) : Bool :=
  ((legOf d n).map legShown).getD false
    && (contribMode d n == 2 || (contribMode d n == 3 && ((contribOf d n).map (fun c => c.conform && c.tier == t)).getD false))

/-- The occupant a cell ought to have in a stream (R176, R177). -/
def cellWants (d : Dev) (conf : Nat) (self : Option Nat) (c : CellRec) : Option Nat :=
  match c.kind with
  | 1 => if some c.source = self ∨ ¬ ((legOf d c.source).map (fun l => legShown l && l.rcd.conf == conf)).getD false then none else some c.source
  | 2 => ((videoRanks d conf).filter (fun n => some n != self))[c.source - 1]?
  | _ => none

/-- A source and tier with no subpicture yet. -/
def noPic : TierPic :=
  { num := 0, intra := false, intraNum := 0, intraAt := none, asked := none, want := false, runs := [], frozen := false, log := [] }

/-- The subpictures of a source at a tier; tier 0 is the relayered stream. -/
def picOf (d : Dev) (n t : Nat) : TierPic := tgetD d.vid.pics (4 * n + t) noPic

/-- The device with the subpictures of a source and tier changed. -/
def onPic (d : Dev) (n t : Nat) (f : TierPic → TierPic) : Dev := onVid d (fun v => { v with pics := tset v.pics (4 * n + t) (f (picOf d n t)) })

/-- The device with a contribution changed. -/
def onContrib (d : Dev) (n : Nat) (f : Contrib → Contrib) : Dev := onVid d (fun v => { v with contribs := tmod v.contribs n f })

/-- Whether a source at a tier is passed through and not encoded (R162). -/
def passedAt (d : Dev) (n t : Nat) : Bool :=
  match contribOf d n with
  | none => false
  | some c => (c.rcd.mode == 2 || c.rcd.mode == 3) && c.conform && c.tier == t

/-- Whether a source's relayered stream is what its AV1 receivers are sent (R159): where it arrives in another codec or without layers. -/
def relays (d : Dev) (n : Nat) : Bool :=
  match contribOf d n, legOf d n with
  | some c, some l => c.rcd.relayer && (l.rcd.vCodecIn != 4 || !c.layered)
  | _, _ => false

/-- The cells of a stream, those of a replaced layout where they wait (R183). -/
def Stream.cellsAhead (s : Stream) : List (CellSt × CellRec) :=
  s.cells.zip s.geometry.cells ++ (match s.coming with
    | none => []
    | some (_, g, cs) => cs.zip g.cells)

/-- The tiers at which a source is in use: a cell shows it or waits for it (R162, R168). -/
def tiersUsed (d : Dev) (n : Nat) : List Nat :=
  dedup ((d.vid.streams.map (fun s => ((s.2.cellsAhead.filter (fun p => p.1.occ == some n || p.1.next == some (some n))).map (·.2.tier)))).flatten)

/-- Whether a composition for a fallback leg shows a source (R162). -/
def fallbackShows (d : Dev) (n : Nat) : Bool :=
  d.vid.recv.any (fun r => ((legOf d r.1).map (·.slot)).getD false
    && ((r.2.cur.bind (tget d.vid.streams)).map (fun s => s.cells.any (fun c => c.occ == some n))).getD false)

/-- Whether an AUTO contribution is decoded (R162): not while it is passed through and nothing but its own tier is asked of it. -/
def decodes (d : Dev) (n : Nat) : Bool :=
  contribMode d n == 2 && (!((contribOf d n).map (·.conform)).getD false || relays d n || (tiersUsed d n).any (fun t => !passedAt d n t) || fallbackShows d n)

/-- An encode of a source at a tier starts (R22): an intra point where one is asked for or the stream has none yet (R170). -/
def startEncode (n ts : Nat) (d : Dev) (t : Nat) : Dev :=
  onPic d n t (fun p => { p with want := false, runs := p.runs ++ [{ start := d.bell.tick, intra := p.want || (p.num == 0 && p.runs.isEmpty), ts := ts }] })

/-- An intra point of a source at a tier requested, coalesced over 1,600 ticks (R170): the next picture of a source declared faster than 25 pictures/s, else an
additional encode of the last decoded picture; a PLI to the contributor of a passed-through source. -/
def requestIntra (d : Dev) (n t : Nat) : Dev :=
  if passedAt d n t then requestPli d n
  else
    let recent : Bool := match (picOf d n t).asked with
      | none => false
      | some a => decide (d.bell.tick.toNat < a.toNat + 1600)
    if recent then d
    else
      let d := onPic d n t (fun p => { p with asked := some d.bell.tick, want := true })
      match contribOf d n with
      | none => d
      | some c => if c.rcd.fps ≤ 25 ∧ c.shown then startEncode n 0 d t else d

/-- Since when an intra subpicture serves a request just made: since the request it is coalesced with (R106, R170; log 161). -/
def askedAt (d : Dev) (n t : Nat) : BitVec 64 :=
  if passedAt d n t then ((legOf d n).bind (·.pliAt)).getD d.bell.tick else (picOf d n t).asked.getD d.bell.tick

/-- Whether an intra subpicture has come since `from_`. -/
def servedSince (p : TierPic) (from_ : BitVec 64) : Bool := match p.intraAt with
  | none => false
  | some t => decide (from_.toNat ≤ t.toNat)

/-- A new subpicture complete in Pasture: an intra one ends a freeze (R172, R185). -/
def picDone (d : Dev) (n t : Nat) (intra : Bool) : Dev :=
  onPic d n t (fun p => { p with
    num := p.num + 1, intra := intra, intraNum := if intra then p.num + 1 else p.intraNum, intraAt := if intra then some d.bell.tick else p.intraAt,
    frozen := p.frozen && !intra })

/-! ### Composed streams (R178, R182 to R184) -/

/-- The number of a composed stream. -/
def streamKey (layout variant : Nat) (self : Option Nat) : Nat :=
  layout * 4 + variant + 2 ^ 14 * (match self with
    | none => 0
    | some n => n + 1)

/-- The device with a stream changed. -/
def onStream (d : Dev) (k : Nat) (f : Stream → Stream) : Dev := onVid d (fun v => { v with streams := tmod v.streams k f })

/-- A cell as its stream starts: its occupant, waiting for an intra subpicture (R183). -/
def newCell (d : Dev) (conf : Nat) (self : Option Nat) (c : CellRec) : CellSt :=
  { occ := (cellWants d conf self c).filter (fun n => sourceShows d n c.tier), shown := 0, filled := false, next := none, nextFrom := d.bell.tick,
    pointFrom := d.bell.tick, cand := none, held := 0 }

/-- Intra subpictures asked of every cell's occupant (R183). -/
def askCells (d : Dev) (cells : List (CellSt × CellRec)) : Dev :=
  cells.foldl (fun d p => match p.1.occ with
    | none => d
    | some n => requestIntra d n p.2.tier) d

/-- The cells with the time since which an intra subpicture serves the request just made. -/
def askedCells (d : Dev) (cells : List (CellSt × CellRec)) : List CellSt :=
  cells.map (fun p => match p.1.occ with
    | none => p.1
    | some n => { p.1 with pointFrom := askedAt d n p.2.tier })

/-- An intra point of a composed stream requested (R183): due at the first picture at least 24 ticks on, with intra subpictures
asked of every cell, of a replaced layout's cells where they wait. -/
def requestPoint (d : Dev) (k : Nat) (coalesce : Bool) : Dev :=
  match tget d.vid.streams k with
  | none => d
  | some s =>
    let recent : Bool := match s.intraAsked with
      | none => false
      | some t => decide (d.bell.tick.toNat < t.toNat + 1600)
    if coalesce ∧ recent then d
    else
      let d := onStream d k (fun s => { s with intraDue := s.intraDue ++ [d.bell.tick + 24], intraAsked := some d.bell.tick })
      match s.coming with
      | none =>
        let cs := s.cells.zip s.geometry.cells
        let d := askCells d cs
        onStream d k (fun s => { s with cells := askedCells d cs })
      | some (due, g, old) =>
        let cs := old.zip g.cells
        let d := askCells d cs
        onStream d k (fun s => { s with coming := some (due, g, askedCells d cs) })

/-- Whether a leg occupies a cell of a variant (R177): of the stream that the others share; where none runs, of what its cells ought to show. -/
def occupies (d : Dev) (r : LayoutRec) (vn : Nat) (v : VariantRec) (n : Nat) : Bool :=
  match tget d.vid.streams (streamKey r.id vn none) with
  | some s => s.cells.any (fun c => c.occ == some n)
  | none => v.cells.any (fun c => cellWants d r.conf none c == some n)

/-- The stream that a leg receives for a variant (R177). -/
def streamFor (d : Dev) (r : LayoutRec) (v : Nat) (n : Nat) : Option (Nat × Option Nat × VariantRec) :=
  (variantOf r v).map (fun x =>
    let self := if r.excludeSelf ∧ occupies d r v x n then some n else none
    (streamKey r.id v self, self, x))

/-- Streams that no leg receives or waits for end. -/
def streamsSweep (d : Dev) : Dev :=
  onVid d (fun v => { v with streams := v.streams.filter (fun s => v.recv.any (fun r => r.2.cur == some s.1 || r.2.next == some s.1)) })

/-- A stream as it starts (R178, R183). -/
def newStream (d : Dev) (r : LayoutRec) (variant : Nat) (self : Option Nat) (g : VariantRec) : Stream :=
  { layout := r.id, variant := variant, self := self, start := d.bell.tick, k := 0, cells := g.cells.map (newCell d r.conf self), geometry := g, coming := none,
    intraDue := [], intraAsked := none, refreshAt := none, sets := none, poc := 0 }

/-- A leg asks to join the stream of a variant: it starts if none runs, and an intra point is requested unless one is due within
1,600 ticks (R184). A fallback leg joins at a picture that its own encoder codes as IDR (R187). -/
def joinStream (d : Dev) (n layout variant : Nat) : Dev :=
  match tget d.vid.layouts layout with
  | none => d
  | some r =>
    match streamFor d r variant n with
    | none => d
    | some (k, self, g) =>
      let old := tgetD d.vid.recv n { cur := none, next := none, idr := false }
      if old.cur = some k then onVid d (fun v => { v with recv := tset v.recv n { old with next := none } })
      else
        let new := (tget d.vid.streams k).isNone
        let d := if new then onVid d (fun v => { v with streams := tset v.streams k (newStream d r variant self g) }) else d
        let d := onVid d (fun v => { v with recv := tset v.recv n { old with next := some k } })
        let soon : Bool := ((legOf d n).map (·.slot)).getD false || ((tget d.vid.streams k).map (fun s => s.intraDue.any (fun t => decide (t.toNat ≤ d.bell.tick.toNat + 1600)))).getD false
        streamsSweep (if soon ∧ ¬ new then d else requestPoint d k false)

/-- A leg receives no composed stream any more. -/
def leaveStreams (d : Dev) (n : Nat) : Dev := streamsSweep (onVid d (fun v => { v with recv := tdel v.recv n }))

/-- A source taken out of a cell. -/
def CellSt.without (n : Nat) (c : CellSt) : CellSt :=
  { c with occ := if c.occ = some n then none else c.occ, next := if c.next = some (some n) then none else c.next }

/-- A source is gone (R164, R190): its contribution, its entries in subscription sets, and its cells from the next picture. -/
def dropSource (d : Dev) (n : Nat) : Dev :=
  onVid d (fun v => { v with
    contribs := tdel v.contribs n,
    subs := tmap v.subs (fun _ l => l.filter (fun e => e.1 != n)),
    pics := v.pics.filter (fun p => p.1 / 4 != n),
    streams := tmap v.streams (fun _ s => { s with cells := s.cells.map (CellSt.without n), coming := s.coming.map (fun c => (c.1, c.2.1, c.2.2.map (CellSt.without n))) }) })

/-- The cells of a source repeat at a tier until its next intra subpicture (R172, R185). -/
def freeze (d : Dev) (n t : Nat) : Dev := onPic d n t (fun p => { p with frozen := true })

/-- A source's engine has failed (R190): its cells repeat until the restored decoder's first picture, and its decodes and encodes are gone. -/
def freezeSource (d : Dev) (n : Nat) : Dev :=
  let d := (tiersUsed d n).foldl (fun d t => freeze d n t) d
  onVid (onContrib d n (fun c => { c with decoding := [], shown := false })) (fun v => { v with pics := tmap v.pics (fun k p => if k / 4 = n then { p with runs := [] } else p) })

/-- An intra point at every tier in use, asked for anew as a source is restored (R190). -/
def thawSource (d : Dev) (n : Nat) : Dev :=
  (tiersUsed d n).foldl (fun d t => requestIntra (onPic d n t (fun p => { p with asked := none })) n t) d

/-! ### Contributions (R163, R170 to R172, R185) -/

/-- DEC_ERROR or DEC_OVERSIZE of a leg (R163). -/
def decError (d : Dev) (n : Nat) (oversize : Bool) : Dev :=
  raiseLeaf (onVid d (fun v => { v with errLeg := n, errOversize := oversize, decErrors := satInc v.decErrors })) 18 (b2n oversize)

/-- A picture the decoder cannot parse (R163): concealed, and the decoder waits for the next intra point. -/
def decodeFails (d : Dev) (n : Nat) : Dev := requestPli (decError (onContrib d n (fun c => { c with stalled := true })) n false) n

/-- A contribution stops meeting R171 (R172): an AUTO source's cells repeat until the first tier intra point of its decoded stream. -/
def conformFail (d : Dev) (n row : Nat) : Dev :=
  let t := ((contribOf d n).map (·.tier)).getD 0
  let d := onContrib d n (fun c => { c with conform := false })
  let d := raiseLeaf (onVid d (fun v => { v with confLeg := n, confRow := row, conformFails := satInc v.conformFails })) 18 2
  if contribMode d n = 2 then requestIntra (freeze d n t) n t else d

/-- A passed-through picture lost in whole or in part (R185): its cells repeat; a PASS source is asked for an intra point, an AUTO source moves to decode. -/
def passLost (d : Dev) (n t : Nat) : Dev :=
  let d := freeze d n t
  if contribMode d n = 3 then requestPli d n else requestIntra (onContrib d n (fun c => { c with conform := false })) n t

/-- The cells that wait for a source take it at its next intra subpicture (R172, R182). -/
def regainCells (d : Dev) (n : Nat) : Dev :=
  onVid d (fun v => { v with streams := tmap v.streams (fun _ s =>
    let conf := ((tget v.layouts s.layout).map (·.conf)).getD 0x10000
    { s with cells := (s.cells.zip s.geometry.cells).map (fun p =>
        if p.1.occ = none ∧ p.1.next = none ∧ cellWants d conf s.self p.2 = some n then { p.1 with next := some (some n), nextFrom := d.bell.tick } else p.1) }) })

/-- A picture held against R171 (R172): a stream conforms from an intra point that passes, at the tier of its size. -/
def conformCheck (d : Dev) (n : Nat) (c : Contrib) (p : PicIn) (count : Nat) : Dev :=
  let t := (p.layers.head?.map (fun s => tierOfSize s.1 s.2)).getD 0
  let row := conformRow p t c.poc count
  if row ≠ 0 then (if c.conform then conformFail d n row else d)
  else if p.intra ∧ ¬ c.conform then regainCells (onContrib d n (fun c => { c with conform := true, tier := t })) n
  else if c.conform ∧ t ≠ c.tier then conformFail d n 4
  else d

/-- A picture given to its decode cluster (R158, R162, R163): the decode starts, or the picture is concealed. -/
def giveDecoder (d : Dev) (n codec ts : Nat) (p : PicIn) : Dev :=
  if ¬ decodable codec p ∨ p.lost then decodeFails d n
  else if ((contribOf d n).map (·.stalled)).getD false ∧ ¬ p.intra then onVid d (fun v => { v with decErrors := satInc v.decErrors })
  else onContrib d n (fun c => { c with stalled := false, decoding := c.decoding ++ [(d.bell.tick, ts)] })

/-- CONTRIB_PICTURE_RX (R22, R158, R162, R163, R171, R172, R185): one picture reassembled. One too large or too soon is dropped; one passed through is a
subpicture of its tier as it stands; one that a tier, the relayered stream or a fallback leg needs is decoded. -/
def contribPicture (n : Nat) (p : PicIn) (d : Dev) : Dev :=
  match contribOf d n, legOf d n with
  | some c, some l =>
    if ¬ legRuns l ∨ c.rcd.mode < 2 then d
    else
      let seen := c.seen.filter (fun t => decide (d.bell.tick.toNat < t.toNat + 8000)) ++ [d.bell.tick]
      let ts := (l.picEnd.map (·.2)).getD 0
      let d := onContrib (onLeg d n (fun l => { l with picEnd := none })) n (fun c => { c with seen := seen, poc := some p.vvc.poc })
      let d := if l.rcd.vCodecIn = 3 then conformCheck d n c p seen.length else d
      let t := ((contribOf d n).map (·.tier)).getD 0
      let pass := passedAt d n t
      let big : Bool := (decodedLayer c.rcd p).isNone || decide (seen.length > c.rcd.fps)
      if big then (let d := decError d n true; if pass then passLost d n t else d)
      else
        let d := if pass then (if p.lost then passLost d n t else picDone d n t p.intra) else d
        if decodes d n then giveDecoder d n l.rcd.vCodecIn ts p else d
  | _, _ => d

/-- CONTRIB_PICTURE_RX (R163). -/
def execContribPictureRx (leg : Nat) (pic : PicIn) (s : State) : Host.Outcome State Fault Refusal := nextDev s (contribPicture leg pic)

/-- DECODE_DONE (R22, R163, R168): a decode of an AUTO contribution completes and its tier encodes start, the relayered stream's among them; or the picture
cannot be parsed. -/
def decodeDone (n : Nat) (ok : Bool) (d : Dev) : Dev :=
  match contribOf d n with
  | none => d
  | some c =>
    match c.decoding with
    | [] => d
    | (_, ts) :: rest =>
      let d := onContrib d n (fun c => { c with decoding := rest })
      if ¬ ok then decodeFails d n
      else
        let d := onContrib d n (fun c => { c with shown := true })
        ((if relays d n then [0] else []) ++ (tiersUsed d n).filter (fun t => !passedAt d n t)).foldl (startEncode n ts) d

/-- DECODE_DONE (R163). -/
def execDecodeDone (leg : Nat) (ok : Bool) (s : State) : Host.Outcome State Fault Refusal := nextDev s (decodeDone leg ok)

/-! ### Forwarded layers (R165, R166) -/

/-- The operating point in force after a packet that opens a picture (R166): none leaves at once, and from none a point is joined where a higher spatial layer is. -/
def pointAfter (cur want : Option (Nat × Nat)) (y : LayerIn) : Option (Nat × Nat) :=
  if ¬ y.opens then cur
  else
    match cur, want with
    | _, none => none
    | none, some w => if y.spatialSwitch then some w else none
    | some c, some w =>
      let s := if w.1 < c.1 then w.1 else if w.1 > c.1 ∧ y.spatialSwitch then w.1 else c.1
      let t := if w.2 < c.2 then w.2 else if w.2 > c.2 ∧ (y.spatialSwitch ∨ y.temporalSwitch) then w.2 else c.2
      some (s, t)

/-- One packet of a source given to a receiving leg (R165): sent on its entry's SSRC with VIDEO_PT_OUT if its layer is within the point; timestamp, marker and
payload pass unchanged. -/
def forwardTo (src : Nat) (h : RtpHdr) (y : LayerIn) (d : Dev) (r : Nat) : Dev :=
  match legOf d r with
  | none => d
  | some l =>
    match (tgetD d.vid.subs r []).findIdx? (fun e => e.1 == src) with
    | none => d
    | some i =>
      match pointAfter (tget l.adapt.points src) (tget l.adapt.wantPoints src) y with
      | none => onLeg d r (fun l => { l with adapt := { l.adapt with points := tdel l.adapt.points src } })
      | some p =>
        let d := onLeg d r (fun l => { l with adapt := { l.adapt with points := tset l.adapt.points src p } })
        if l.rcd.videoOut ≠ 1 ∨ l.adapt.budget = 0 ∨ y.spatial > p.1 ∨ y.temporal > p.2 then d
        else sendRtp d r true ((l.rcd.vSsrcOut + i) % 2 ^ 32) { h with pt := l.rcd.vPtOut }

/-- A packet of a source counted in its layers, with the structure it may carry (R101). -/
def layerNote (d : Dev) (src codec size : Nat) (y : LayerIn) : Dev :=
  onLeg d src (fun l => { l with
    layers := (l.layers.filter (fun u => decide (d.bell.tick.toNat < u.tick.toNat + 8000))) ++
      [{ tick := d.bell.tick, codec := codec, spatial := y.spatial, temporal := y.temporal, bytes := size }],
    dims := if y.dims.isEmpty then l.dims else tset l.dims codec y.dims })

/-- A packet of a source forwarded to the receivers whose codec is `codec` (R162, R164, R165). -/
def forwardPacket (d : Dev) (src codec : Nat) (h : RtpHdr) (y : LayerIn) : Dev :=
  let d := layerNote d src codec h.size y
  ((d.media.legs.filter (fun l => legRuns l.2 && l.2.rcd.videoOut == 1 && l.2.rcd.vCodecOut == codec && (tgetD d.vid.subs l.1 []).any (fun e => e.1 == src))).map (·.1)).foldl
    (forwardTo src h y) d

/-- The deadline of a decode or of an encode in ticks from its start (R22). -/
def codingTicks : Nat := 24

/-- The border colour of the first layout that shows a source at a tier (R168; which layout's, where several do, is log 161). -/
def borderOf (d : Dev) (n t : Nat) : Nat :=
  ((d.vid.streams.find? (fun s => s.2.cellsAhead.any (fun p => p.1.occ == some n && p.2.tier == t))).bind
    (fun s => (tget d.vid.layouts s.2.layout).map (·.border))).getD 0

/-- A tier stream's picture as VENC writes it (R168): tier, coded size, band, where the source stands, NAL unit type, active references, bytes, border. -/
def tierVals (d : Dev) (n t : Nat) (intra : Bool) (bytes : Nat) : List Int :=
  let (x, y, w, h) := ((contribOf d n).map (fun c => scaledIn c.rcd.width c.rcd.height t)).getD (0, 0, 0, 0)
  ([t, (tierCoded t).1, (tierCoded t).2, bandRows t, x, y, w, h, if intra then nalIdr else nalTrail, b2n (!intra), bytes].map (fun k => (k : Int))) ++ borderTen (borderOf d n t)

/-- The bytes that a tier stream may still take in its window (R169), the target being for 30 pictures/s. -/
def rateRoom (d : Dev) (n t : Nat) (log : List (BitVec 64 × Nat)) : Nat :=
  let fps := ((contribOf d n).map (·.rcd.fps)).getD 30
  tierRate d t * 125 * min 30 fps / 30 - sumN (log.map (·.2))

/-- The operating points of a relayered stream (R159): two spatial layers, the declared size and half of it, and three temporal layers, each of twice the rate of the
one below (log 161). -/
def relayDims (r : ContribRec) : List OpDim :=
  ([(r.width / 2, r.height / 2), (r.width, r.height)].zipIdx.map (fun s =>
    [4, 2, 1].zipIdx.map (fun t => { spatial := s.2, temporal := t.2, width := s.1.1, height := s.1.2, fps := r.fps / t.1 : OpDim }))).flatten

/-- A picture of the relayered stream given to the AV1 receivers (R159, R165), the marker on its last packet. -/
def relayPicture (d : Dev) (n ts : Nat) (c : Contrib) (relay : List (LayerIn × Nat)) : Dev :=
  let ps := relay.filter (fun p => decide (p.1.spatial ≤ 1 ∧ p.1.temporal ≤ 2))
  ps.zipIdx.foldl (fun d p => forwardPacket d n 4 { pt := 0, marker := p.2 + 1 == ps.length, ts := ts, size := p.1.2, body := [] } { p.1.1 with dims := relayDims c.rcd }) d

/-- TIER_ENCODE_DONE (R22, R167 to R170, R190): the oldest encode of a source and tier is complete in Pasture; tier 0 is a picture of the relayered stream. One that
took more than 24 ticks is late. What the encoder of a tier that is passed through by now makes is discarded. -/
def tierEncodeDone (n tier size : Nat) (relay : List (LayerIn × Nat)) (d : Dev) : Dev :=
  match contribOf d n with
  | none => d
  | some c =>
    match (if tier ≤ 3 then (picOf d n tier).runs else []) with
    | [] => d
    | r :: rest =>
      let late : Bool := decide (d.bell.tick.toNat > r.start.toNat + codingTicks)
      let d := onPic d n tier (fun p => { p with runs := rest })
      let d := if late then
          raiseLeaf (onVid d (fun v => { v with lateLeg := n, lateTier := tier, encLates := satInc v.encLates })) 18 3
        else d
      if tier = 0 then (if relays d n then relayPicture d n r.ts c relay else d)
      else if passedAt d n tier then d
      else
        let log := (picOf d n tier).log.filter (fun e => decide (d.bell.tick.toNat < e.1.toNat + 8000))
        let z := if r.intra then size else min size (rateRoom d n tier log)
        let d := onPic d n tier (fun p => { p with log := if r.intra then log else log ++ [(d.bell.tick, z)] })
        picDone (emit d .tierPicture n (tierVals d n tier r.intra z)) n tier r.intra

/-- TIER_ENCODE_DONE (R168). -/
def execTierEncodeDone (leg tier size : Nat) (relay : List (LayerIn × Nat)) (s : State) : Host.Outcome State Fault Refusal :=
  nextDev s (tierEncodeDone leg tier size relay)

/-! ### The splicer (R179 to R184) -/

/-- Whether a subpicture of a source and tier is past its deadline and not in Pasture (R22, R23): its encode, or the reassembly of a passed-through picture. -/
def overdue (d : Dev) (n t : Nat) : Bool :=
  if passedAt d n t then (((legOf d n).bind (·.picEnd)).map (fun e => decide (e.1.toNat + 2 < d.bell.tick.toNat))).getD false
  else (picOf d n t).runs.any (fun r => decide (r.start.toNat + codingTicks ≤ d.bell.tick.toNat))

/-- What a cell shows in one picture: 0 a filler's intra slice, 1 a skip, 2 a new subpicture, 3 an intra subpicture, 4 a repeated one (R23, R181). A filler is
coded once as an intra slice in the border colour, and then skipped, but at every intra point anew. -/
def fillCell (point : Bool) (c : CellSt) : CellSt × Nat := ({ c with filled := true }, if c.filled ∧ ¬ point then 1 else 0)

/-- A cell that shows its occupant between intra points. -/
def showCell (d : Dev) (n t : Nat) (c : CellSt) : CellSt × Nat :=
  let p := picOf d n t
  if ¬ sourceShows d n t then fillCell false { c with occ := none }
  else if c.shown = 0 ∧ p.num = 0 then fillCell false c
  else if p.frozen ∨ ¬ ((legOf d n).map legRuns).getD false then (c, 4)
  else if p.num > c.shown then ({ c with shown := p.num, filled := false }, if p.intra then 3 else 2)
  else (c, if overdue d n t then 4 else 1)

/-- A cell at an intra point (R183, R190): the old occupant where a change waits; a PASS source without an intra subpicture gives way to a filler. -/
def pointCell (d : Dev) (c : CellSt) (t : Nat) : CellSt × Nat :=
  match c.occ with
  | none => fillCell true c
  | some n =>
    let p := picOf d n t
    if ¬ sourceShows d n t then fillCell true { c with occ := none }
    else if servedSince p c.pointFrom then ({ c with shown := p.intraNum, filled := false }, 3)
    else if contribMode d n = 3 then fillCell true { c with occ := none, next := c.next.or (some (some n)), nextFrom := if c.next.isSome then c.nextFrom else c.pointFrom }
    else (c, 4)

/-- A cell in a picture that is no intra point: a change that waits is made at its intra subpicture (R182). -/
def spliceCell (d : Dev) (c : CellSt) (t : Nat) : CellSt × Nat :=
  let stay : CellSt × Nat := match c.occ with
    | none => fillCell false c
    | some n => showCell d n t c
  match c.next with
  | none => stay
  | some none => fillCell false { c with occ := none, next := none }
  | some (some m) =>
    let p := picOf d m t
    if servedSince p c.nextFrom ∧ sourceShows d m t then ({ c with occ := some m, next := none, shown := p.intraNum, filled := false, cand := none, held := 0 }, 3)
    else stay

/-- The values of one subpicture (R179, R181, R182): sh_subpic_id, position in tile units, what it shows, NAL unit type, its source and number, none for a filler. -/
def subpicVals (point : Bool) (e : ((CellSt × Nat) × CellRec) × Nat) : List Int :=
  let c := e.1.1.1
  let code := e.1.1.2
  [(e.2 : Int), (e.1.2.x : Int), (e.1.2.y : Int), (code : Int), ((if point ∨ code = 3 then nalIdr else nalTrail : Nat) : Int), ((c.occ.getD 0xFFFF : Nat) : Int), (c.shown : Int)]

/-- The composed picture as it is written to Pasture (R179 to R181): its number and timestamp, the parameter sets where they change or at an intra point, the picture
header, the border colour of its fillers, and its subpictures in raster order. -/
def pictureVals (s : Stream) (point : Bool) (ts border : Nat) (cells : List ((CellSt × Nat) × CellRec)) : List Int :=
  let sets := composedSets s.geometry
  [(s.k : Int), (ts : Int), ((b2n point : Nat) : Int)] ++ (if point ∨ s.sets ≠ some sets then setsVals sets else []) ++ [(s.poc : Int)] ++ borderTen border
    ++ (rasterOrder (cells.zipIdx.map (fun e => (e.1.2.y, e.1.2.x, subpicVals point e)))).flatten

/-- The composition of a fallback leg (R187): its size, target in b/s and whether it is IDR; of each cell its source, 0xFFFF in the border colour where it is a filler
or a PASS source, and the number of the reconstructed picture. -/
def fallbackVals (d : Dev) (l : Leg) (idr : Bool) (border : Nat) (cells : List CellSt) : List Int :=
  let (w, h) := fallbackSize l.rcd
  [(w : Int), (h : Int), (l.adapt.budget : Int), ((b2n idr : Nat) : Int)] ++ borderTen border
    ++ (cells.map (fun c => match c.occ with
      | none => [0xFFFF, 0]
      | some n => if contribMode d n = 3 then [0xFFFF, 0] else [(n : Int), (c.shown : Int)])).flatten

/-- The packets of a picture sent to a leg, the marker on the last (R178, R187). -/
def sendPicture (d : Dev) (n ts : Nat) (l : Leg) (sizes : List Nat) : Dev :=
  sizes.zipIdx.foldl (fun d z => sendRtp d n true l.rcd.vSsrcOut { pt := l.rcd.vPtOut, marker := z.2 + 1 == sizes.length, ts := ts, size := z.1, body := [] }) d

/-- Whether a fallback leg's own picture rate has a picture at number `k` of its stream (R186): so many of every second's, evenly spread (log 161). -/
def fallbackDue (r : LegRec) (v : VariantRec) (k : Nat) : Bool := decide (k * fallbackFps r v % v.fps < fallbackFps r v)

/-- A picture given to one leg that receives its stream (R22, R23, R112, R187). -/
def giveLeg (s : Stream) (ts border repeats : Nat) (cells : List CellSt) (sizes : List Nat) (avc : Tbl (List Nat)) (d : Dev) (n : Nat) : Dev :=
  match legOf d n with
  | none => d
  | some l =>
    let d := if repeats = 0 then d else legCount (onLeg d n (fun l => { l with flags := { l.flags with concealed := true } })) n 16 repeats
    if l.adapt.budget = 0 ∨ ¬ legRuns l then d
    else if ¬ l.slot then sendPicture d n ts l sizes
    else
      let idr := ((tget d.vid.recv n).map (·.idr)).getD false
      if ¬ idr ∧ ¬ fallbackDue l.rcd s.geometry s.k then d
      else
        let d := onVid d (fun v => { v with recv := tmod v.recv n (fun r => { r with idr := false }) })
        sendPicture (emit d .fallback n (fallbackVals d l idr border cells)) n ts l (tgetD avc n [])

/-- The legs that wait for a stream receive it from an intra point on, fallback legs from any picture, which their encoder codes as IDR (R184, R187). -/
def joinWaiting (k variant : Nat) (point : Bool) (d : Dev) : Dev :=
  ((d.vid.recv.filter (fun e => e.2.next == some k && (point || ((legOf d e.1).map (·.slot)).getD false))).map (·.1)).foldl (fun d n =>
    onLeg (onVid d (fun v => { v with recv := tset v.recv n { cur := some k, next := none, idr := true } })) n (fun l => { l with adapt := { l.adapt with tier := variant } })) d

/-- SPLICE_PICTURE (R178 to R184, R187): the picture due now is built and sent to the legs that receive the stream; `sizes` are the packets of the VVC
picture, `avc` those of each fallback leg. -/
def splicePicture (k : Nat) (sizes : List Nat) (avc : Tbl (List Nat)) (d : Dev) : Dev :=
  match tget d.vid.streams k with
  | none => d
  | some s =>
    let now := d.bell.tick.toNat
    if now < s.start.toNat + ceilDiv (s.k * 8000) (max 1 s.geometry.fps) then d
    else
      let point := s.intraDue.any (fun t => decide (t.toNat ≤ now))
      let s : Stream := match s.coming with
        | some (due, g, cs) => if point ∧ due.toNat ≤ now then { s with geometry := g, cells := cs, coming := none } else s
        | none => s
      let s := { s with poc := if point then 0 else s.poc + 1 }
      let res := (s.cells.zip s.geometry.cells).map (fun e => (if point then pointCell d e.1 e.2.tier else spliceCell d e.1 e.2.tier, e.2))
      let repeats := (res.filter (fun e => e.1.2 == 4)).length
      let ts := now * 45 / 4 % 2 ^ 32
      let border := ((tget d.vid.layouts s.layout).map (·.border)).getD 0
      let d := emit d .picture k (pictureVals s point ts border res)
      let cells := res.map (·.1.1)
      let s' := { s with cells := cells, k := s.k + 1, intraDue := s.intraDue.filter (fun t => decide (now < t.toNat)), sets := some (composedSets s.geometry) }
      let d := onVid d (fun v => { v with streams := tset v.streams k s', intraPoints := if point then satInc v.intraPoints else v.intraPoints })
      let d := joinWaiting k s.variant point d
      let legs := (d.vid.recv.filter (fun e => e.2.cur == some k)).map (·.1)
      streamsSweep (legs.foldl (giveLeg s ts border repeats cells sizes avc) d)

/-- SPLICE_PICTURE (R179): `self` names the leg whose own stream it is (R177). -/
def execSplicePicture (layout variant : Nat) (self : Option Nat) (sizes : List Nat) (avc : Tbl (List Nat)) (s : State) : Host.Outcome State Fault Refusal :=
  nextDev s (splicePicture (streamKey layout variant self) sizes avc)

/-- The hold of a layout in ticks (R173). -/
def holdTicks (r : LayoutRec) : Nat := if r.videoHold = 0 then 4000 else r.videoHold

/-- TALKER_CELL_HOLD (R176, R182): a leg has held a talker cell's rank for VIDEO_HOLD ticks; its intra point is requested and the old
occupant stays until it is complete. -/
def talkerCell (k cell : Nat) (d : Dev) : Dev :=
  match tget d.vid.streams k with
  | none => d
  | some s =>
    match s.cells[cell]?, s.geometry.cells[cell]?, tget d.vid.layouts s.layout with
    | some c, some r, some lay =>
      match c.cand with
      | none => d
      | some n =>
        if r.kind ≠ 2 ∨ c.held < holdTicks lay ∨ c.occ = some n ∨ c.next = some (some n) then d
        else
          let d := requestIntra d n r.tier
          onStream d k (fun s => { s with cells := s.cells.set cell { c with next := some (some n), nextFrom := askedAt d n r.tier } })
    | _, _, _ => d

/-- TALKER_CELL_HOLD (R176). -/
def execTalkerCellHold (layout variant : Nat) (self : Option Nat) (cell : Nat) (s : State) : Host.Outcome State Fault Refusal :=
  nextDev s (talkerCell (streamKey layout variant self) cell)

/-- LAYOUT_REFRESH (R183): the interval of a layout has run out on a stream. -/
def layoutRefresh (k : Nat) (d : Dev) : Dev :=
  match tget d.vid.streams k with
  | none => d
  | some s =>
    match tget d.vid.layouts s.layout with
    | none => d
    | some r =>
      let due := (s.refreshAt.getD s.start).toNat + 8000 * r.refresh
      if r.refresh = 0 ∨ d.bell.tick.toNat < due then d
      else requestPoint (onStream d k (fun s => { s with refreshAt := some (BitVec.ofNat 64 due) })) k false

/-- LAYOUT_REFRESH (R183). -/
def execLayoutRefresh (layout variant : Nat) (self : Option Nat) (s : State) : Host.Outcome State Fault Refusal :=
  nextDev s (layoutRefresh (streamKey layout variant self))

/-- Fixed cells whose source has come (back) wait for its intra point (R181, R182). -/
def fixedCells (d : Dev) (k : Nat) : Dev :=
  match tget d.vid.streams k with
  | none => d
  | some s =>
    let conf := ((tget d.vid.layouts s.layout).map (·.conf)).getD 0x10000
    let waits (p : CellSt × CellRec) : Option Nat :=
      if p.2.kind = 1 ∧ p.1.occ = none ∧ p.1.next = none then (cellWants d conf s.self p.2).filter (fun n => sourceShows d n p.2.tier) else none
    let ps := s.cells.zip s.geometry.cells
    if ps.all (fun p => (waits p).isNone) then d
    else
      let e := ps.foldl (fun d p => match waits p with
        | none => d
        | some n => requestIntra d n p.2.tier) d
      onStream e k (fun s => { s with cells := ps.map (fun p => match waits p with
        | none => p.1
        | some n => { p.1 with next := some (some n), nextFrom := askedAt e n p.2.tier }) })

/-- One cell's talker rank watched over a tick (R176): a rank beyond the list shows filler at once. -/
def watchCell (d : Dev) (conf : Nat) (self : Option Nat) (c : CellSt) (r : CellRec) : CellSt :=
  if r.kind ≠ 2 then c
  else
    match cellWants d conf self r with
    | none => { c with occ := none, next := none, cand := none, held := 0 }
    | some n =>
      if c.occ = some n then { c with cand := none, held := 0 }
      else if c.cand = some n then { c with held := c.held + 1 }
      else { c with cand := some n, held := 1 }

/-- Video's part of a tick: talker ranks watched, and legs of EXCLUDE_SELF layouts led to the stream they ought to receive
(R176, R177). -/
def videoTick (d : Dev) : Dev :=
  let d := onVid d (fun v => { v with streams := tmap v.streams (fun _ s =>
    match tget v.layouts s.layout with
    | none => s
    | some r => { s with cells := (s.cells.zip s.geometry.cells).map (fun p => watchCell d r.conf s.self p.1 p.2) }) })
  let d := (d.vid.streams.map (·.1)).foldl fixedCells d
  (d.vid.recv.map (·.1)).foldl (fun d n =>
    match (tget d.vid.recv n).bind (fun r => (r.next.or r.cur).bind (fun k => (tget d.vid.streams k).map (fun s => (k, s)))) with
    | none => d
    | some (k, s) =>
      match tget d.vid.layouts s.layout with
      | none => d
      | some r =>
        if ¬ r.excludeSelf then d
        else match streamFor d r s.variant n with
          | none => d
          | some (k', _, _) =>
            if k' = k then d
            else ifFits (fun d => joinStream d n s.layout s.variant) d) d

/-! ### Commands (R191) -/

/-- Whether a contribution record stands (R161, R162). -/
def contribOk (l : Leg) (r : ContribRec) : Bool :=
  r.reservedOk && l.rcd.contrib
    && decide (r.mode ≤ 3 ∧ 16 ≤ r.width ∧ r.width ≤ 4096 ∧ r.width % 16 = 0 ∧ 16 ≤ r.height ∧ r.height ≤ 2176 ∧ r.height % 16 = 0 ∧ 1 ≤ r.fps ∧ r.fps ≤ 60)
    && (!r.relayer || r.mode == 2)
    && (match r.mode with
      | 1 => l.rcd.vCodecIn == 3 || l.rcd.vCodecIn == 4
      | 3 => l.rcd.vCodecIn == 3
      | _ => true)

/-- The contribution as it would stand, on its cluster (R160). -/
def withContrib (d : Dev) (r : ContribRec) (cluster : Nat) : Dev :=
  onVid d (fun v => { v with contribs := tset v.contribs r.leg (
      { rcd := r, cluster := cluster, conform := false, tier := 0, poc := none, seen := [], decoding := [], stalled := false, shown := false, layered := false } : Contrib) })

/-- The field of a contribution record at fault (R161, R162, R510). -/
def contribFault (l : Leg) (r : ContribRec) : Nat :=
  let codec : Bool := match r.mode with
    | 1 => l.rcd.vCodecIn == 3 || l.rcd.vCodecIn == 4
    | 3 => l.rcd.vCodecIn == 3
    | _ => true
  firstBad [(l.rcd.contrib, 0), (decide (r.mode ≤ 3) && codec, 2), (!r.relayer || r.mode == 2, 3), (decide (16 ≤ r.width ∧ r.width ≤ 4096 ∧ r.width % 16 = 0), 4),
    (decide (16 ≤ r.height ∧ r.height ≤ 2176 ∧ r.height % 16 = 0), 6), (decide (1 ≤ r.fps ∧ r.fps ≤ 60), 8), (r.reservedOk, 9)]

/-- CONTRIB_SET (R160 to R162, R189). A domain that its decoding needs is ON or gated by Autumn (R558, R563). -/
def actContribSet (rcd : ContribRec) (v d : Dev) : ActResult :=
  match legOf v rcd.leg with
  | none => .refuse .badParam 0 0
  | some l =>
    if l.st = .draining ∨ l.st = .lost then .refuse .busy 0 noField
    else if ¬ contribOk l rcd then .refuse .badParam 0 (contribFault l rcd)
    else
      let old := contribOf v rcd.leg
      let k := match old with
        | some c => if c.rcd.mode = 2 then c.cluster else (if decLoad v 1 < decLoad v 0 then 1 else 0)
        | none => if decLoad v 1 < decLoad v 0 then 1 else 0
      if codecsDark v (withContrib v rcd k) then .refuse .dark 0 noField
      else if videoAdmits v (withContrib v rcd k) then .stage false k [k] none d else .refuse .noResource 0 noField

/-- The contribution set at its bell. -/
def applyContribSet (rcd : ContribRec) (pick : Nat) (d : Dev) : Dev := withContrib d rcd pick

/-- Whether a source may stand in a receiver's subscription set (R164). -/
def subscribeOk (v : Dev) (rx : Nat) (l : Leg) (src : Nat) : Bool :=
  match legOf v src with
  | none => false
  | some x =>
    let relayed := ((contribOf v src).map (·.rcd.relayer)).getD false
    src != rx && x.rcd.conf == l.rcd.conf && contribMode v src != 0
      && (x.rcd.vCodecIn == l.rcd.vCodecOut || (l.rcd.vCodecOut == 4 && relayed))
      && (l.rcd.vCodecOut != 4 || (l.rcd.extDd != 0 && x.rcd.extDd != 0))

/-- The field of SUBSCRIBE_SET at fault (R164, R191, R510): an entry is a LEG_ID and a weight. -/
def subscribeFault (v : Dev) (leg : Nat) (l : Leg) (entries : List (Nat × Nat)) : Nat :=
  firstBad ([(l.rcd.videoOut == 1, 0), (decide (entries.length ≤ 32), 2)] ++ (entries.zipIdx.map (fun e =>
    [(subscribeOk v leg l e.1.1 && !((entries.take e.2).map (·.1)).contains e.1.1, 3 + 3 * e.2), (decide (1 ≤ e.1.2 ∧ e.1.2 ≤ 255), 5 + 3 * e.2)])).flatten)

/-- SUBSCRIBE_SET (R164). -/
def actSubscribeSet (leg : Nat) (entries : List (Nat × Nat)) (v d : Dev) : ActResult :=
  match legOf v leg with
  | none => .refuse .badParam 0 0
  | some l =>
    if l.rcd.videoOut ≠ 1 ∨ entries.length > 32 ∨ (dedup (entries.map (·.1))).length ≠ entries.length
        ∨ entries.any (fun e => e.2 == 0 || decide (e.2 > 255) || !subscribeOk v leg l e.1) then .refuse .badParam 0 (subscribeFault v leg l entries)
    else .stage false 0 [] none d

/-- The subscription set in force from its bell. -/
def applySubscribeSet (leg : Nat) (entries : List (Nat × Nat)) (d : Dev) : Dev := onVid d (fun v => { v with subs := tset v.subs leg entries })

/-- Whether two cells overlap. -/
def cellsMeet (a b : CellRec) : Bool := decide (a.x < b.x + b.w ∧ b.x < a.x + a.w ∧ a.y < b.y + b.h ∧ b.y < a.y + a.h)

/-- Whether the cells of a variant tile its picture (R175). -/
def tilesOk (v : VariantRec) : Bool :=
  v.cells.all (fun c => decide (1 ≤ c.w ∧ 1 ≤ c.h ∧ c.x + c.w ≤ v.w ∧ c.y + c.h ≤ v.h))
    && decide (sumN (v.cells.map (fun c => c.w * c.h)) = v.w * v.h)
    && decide (v.cells.Pairwise (fun a b => cellsMeet a b = false))

/-- Whether a cell's fields stand (R174, R175). -/
def cellOk (v : Dev) (conf : Nat) (c : CellRec) : Bool :=
  match c.kind with
  | 0 => c.tier == 0 && c.source == 0
  | 1 => decide (1 ≤ c.tier ∧ c.tier ≤ 3) && c.w == tierUnits c.tier && c.h == tierUnits c.tier
      && (match legOf v c.source with
        | none => false
        | some l => l.rcd.conf == conf && (contribMode v c.source == 2
            || (contribMode v c.source == 3 && ((contribOf v c.source).map (fun x => ownTier x.rcd)).getD 0 == c.tier)))
  | 2 => decide (1 ≤ c.tier ∧ c.tier ≤ 3 ∧ 1 ≤ c.source ∧ c.source ≤ 32) && c.w == tierUnits c.tier && c.h == tierUnits c.tier
  | _ => false

/-- Whether a layout record stands (R173 to R175). -/
def layoutOk (v : Dev) (r : LayoutRec) : Bool :=
  r.reservedOk && r.hasS && decide (r.id < 4096 ∧ r.videoHold ≤ 64000 ∧ r.refresh < 65536 ∧ r.variants.length = 1 + b2n r.hasM + b2n r.hasL)
    && (confTakes v r.conf).isSome
    && r.variants.all (fun x => decide (1 ≤ x.w ∧ x.w ≤ 24 ∧ 1 ≤ x.h ∧ x.h ≤ 22 ∧ 1 ≤ x.fps ∧ x.fps ≤ 30 ∧ 1 ≤ x.cells.length ∧ x.cells.length ≤ 49)
        && tilesOk x && x.cells.all (cellOk v r.conf))

/-- The layout as it would stand. -/
def withLayout (d : Dev) (r : LayoutRec) : Dev := onVid d (fun v => { v with layouts := tset v.layouts r.id r })

/-- The fields of a cell at offset `base` (R174, R175). -/
def cellFields (v : Dev) (conf : Nat) (pic : VariantRec) (base : Nat) (c : CellRec) : List (Bool × Nat) :=
  let shown : Bool := match c.kind with
    | 0 => true
    | _ => c.w == tierUnits c.tier
  let tall : Bool := match c.kind with
    | 0 => true
    | _ => c.h == tierUnits c.tier
  [(decide (c.x + c.w ≤ pic.w), base), (decide (c.y + c.h ≤ pic.h), base + 1), (decide (1 ≤ c.w) && shown, base + 2), (decide (1 ≤ c.h) && tall, base + 3),
   (decide (c.kind ≤ 2), base + 4), (if c.kind = 0 then c.tier == 0 else decide (1 ≤ c.tier ∧ c.tier ≤ 3), base + 5), (cellOk v conf c, base + 6)]

/-- The fields of the variants of a layout, the first at offset `base` (R174); cells that do not tile the picture are laid to CELLS. -/
def variantFields (v : Dev) (conf base : Nat) (l : List VariantRec) : List (Bool × Nat) :=
  match l with
  | [] => []
  | x :: rest =>
    [(decide (1 ≤ x.w ∧ x.w ≤ 24), base), (decide (1 ≤ x.h ∧ x.h ≤ 22), base + 1), (decide (1 ≤ x.fps ∧ x.fps ≤ 30), base + 2),
     (decide (1 ≤ x.cells.length ∧ x.cells.length ≤ 49), base + 3)]
      ++ (x.cells.zipIdx.map (fun c => cellFields v conf x (base + 4 + 8 * c.2) c.1)).flatten ++ [(tilesOk x, base + 3)]
      ++ variantFields v conf (base + 4 + 8 * x.cells.length) rest

/-- The field of a layout record at fault (R173, R174, R510). -/
def layoutFault (v : Dev) (r : LayoutRec) : Nat :=
  firstBad ([(decide (r.id < 4096), 0), ((confTakes v r.conf).isSome, 2), (r.hasS && decide (r.variants.length = 1 + b2n r.hasM + b2n r.hasL), 5), (r.reservedOk, 9),
    (decide (r.videoHold ≤ 64000), 10), (decide (r.refresh < 65536), 12)] ++ variantFields v r.conf 16 r.variants)

/-- LAYOUT_SET (R175, R189, R558, R563): the declared rate of each variant in b/s. -/
def actLayoutSet (rcd : LayoutRec) (v d : Dev) : ActResult :=
  if ¬ layoutOk v rcd then .refuse .badParam 0 (layoutFault v rcd)
  else if codecsDark v (withLayout v rcd) then .refuse .dark 0 noField
  else if ¬ videoAdmits v (withLayout v rcd) then .refuse .noResource 0 noField
  else .stage false 0 (rcd.variants.map (declaredRate v)) none d

/-- The layout in force from its bell: its streams are asked for an intra point, at which their new geometry begins, and legs of a
variant that is gone move to S (R175, R183). -/
def applyLayoutSet (rcd : LayoutRec) (d : Dev) : Dev :=
  let d := withLayout d rcd
  let mine := (d.vid.streams.filter (fun s => s.2.layout == rcd.id)).map (fun s => (s.1, s.2.variant))
  mine.foldl (fun d m =>
    match variantOf rcd m.2 with
    | some g => requestPoint (onStream d m.1 (fun s => { s with coming := some (d.bell.tick + 24, g, g.cells.map (newCell d rcd.conf s.self)) })) m.1 false
    | none => ((d.vid.recv.filter (fun e => e.2.cur == some m.1 || e.2.next == some m.1)).map (·.1)).foldl (fun d n => joinStream d n rcd.id 1) d) d

/-- LAYOUT_CLEAR (R191): BUSY while a leg names the layout or still receives it. -/
def actLayoutClear (layout : Nat) (v d : Dev) : ActResult :=
  if ¬ thas v.vid.layouts layout then .refuse .badParam 0 0
  else if v.media.legs.any (fun l => l.2.st != .free && l.2.rcd.videoOut == 2 && l.2.rcd.layout == layout)
      ∨ v.vid.recv.any (fun r => [r.2.cur, r.2.next].any (fun k => ((k.bind (tget v.vid.streams)).map (fun s => s.layout == layout)).getD false)) then .refuse .busy 0 noField
  else .stage false 0 [] none d

/-- The layout gone from its bell. -/
def applyLayoutClear (layout : Nat) (d : Dev) : Dev := streamsSweep (onVid d (fun v => { v with layouts := tdel v.layouts layout }))

/-- LAYOUT_QUERY (R191): 0xFFFF stands for filler. -/
def actLayoutQuery (layout : Nat) (_v d : Dev) : ActResult :=
  match tget d.vid.layouts layout with
  | none => .refuse .badParam 0 0
  | some r =>
    let ss := d.vid.streams.filter (fun s => s.2.layout == layout)
    .read (byteData (layoutBytes r ++ leBytes ss.length 2 ++ ss.flatMap (fun s => leBytes s.1 2 ++ eachBytes 2 (s.2.cells.map (fun c => c.occ.getD 0xFFFF))))) d

/-- The target rates in force from their bell. -/
def applyVidConfig (small mid large : Nat) (d : Dev) : Dev := onVid d (fun v => { v with rateS := small, rateM := mid, rateL := large })

/-- VID_CONFIG (R169, R189, R191): higher rates may take the splicer's class past its allotment. -/
def actVidConfig (small mid large : Nat) (v d : Dev) : ActResult :=
  let ok (x : Nat) : Bool := decide (50 ≤ x ∧ x ≤ 20000)
  if ¬ (ok small && ok mid && ok large) then .refuse .badParam 0 (firstBad [(ok small, 0), (ok mid, 2), (false, 4)])
  else if ¬ videoAdmits v (applyVidConfig small mid large v) then .refuse .noResource 0 noField
  else .stage false 0 [] none d

/-- INTRA_REQUEST (R191): a stream by layout and variant, or a source by its leg. -/
def actIntraRequest (kind a b : Nat) (v d : Dev) : ActResult :=
  let ok : Bool := if kind = 0 then ((tget v.vid.layouts a).bind (fun r => variantOf r b)).isSome
    else kind == 1 && contribMode v a != 0
  if ok then .stage false 0 [] none d else .refuse .badParam 0 (if kind > 1 then 0 else if kind = 0 ∧ (tget v.vid.layouts a).isSome then 3 else 1)

/-- The request made at its bell: to every stream of the variant, or to the source at each tier a cell shows it at. -/
def applyIntraRequest (kind a b : Nat) (d : Dev) : Dev :=
  if kind = 0 then
    ((d.vid.streams.filter (fun s => s.2.layout == a && s.2.variant == b)).map (·.1)).foldl (fun d k => requestPoint d k false) d
  else if contribMode d a = 1 ∨ contribMode d a = 3 then requestPli d a
  else (tiersUsed d a).foldl (fun d t => requestIntra d a t) d

/-- The VID registers by offset (R192). -/
def vidReg (d : Dev) (off : Nat) : Nat :=
  match off with
  | 0x00 => 49 + 256 * 64 + 65536 * 4096
  | 0x10 => decLoad d 0
  | 0x14 => decLoad d 1
  | 0x18 => encLoad d
  | 0x1C => spliceLoad d
  | 0x20 => d.vid.streams.length + 65536 * slotsHeld d
  | 0x30 => d.vid.rateS
  | 0x34 => d.vid.rateM
  | 0x38 => d.vid.rateL
  | 0x40 => d.vid.confLeg + 65536 * d.vid.confRow
  | 0x44 => d.vid.errLeg + 65536 * b2n d.vid.errOversize
  | 0x48 => d.vid.lateLeg + 65536 * d.vid.lateTier
  | 0x50 => d.vid.decErrors.toNat
  | 0x54 => d.vid.encLates.toNat
  | 0x58 => d.vid.conformFails.toNat
  | 0x5C => d.vid.intraPoints.toNat
  | _ => 0

/-- VID_QUERY (R191). -/
def actVidQuery (item : Nat) (_v d : Dev) : ActResult :=
  match item with
  | 0 => .read ([0x10, 0x14, 0x18, 0x1C, 0x20].map (vidReg d)) d
  | 1 => .read ([1, 2, 3].map canonicalTier).flatten d
  | _ => .refuse .badParam 0 0

end Sys2Proof.Machine
end

