-- ==== Sys2Proof/Machine/LegMedia.lean ====
section
/-! DEFINITION. Media on the wire (R85 to R89, R104 to R106) and the adaptation loop (R97 to R103, R603). -/

namespace Sys2Proof.Machine

/-! ### Replay windows (R87) -/

/-- Whether an index may be new: above the window, or in it and not yet seen. -/
def replayOk (w : Option Replay) (i : Nat) : Bool :=
  match w with
  | none => true
  | some r => if i > r.high then true else if r.high ≥ i + 512 then false else !r.seen.getLsbD (r.high - i)

/-- The window with an authenticated index. -/
def replayAdd (w : Option Replay) (i : Nat) : Replay :=
  match w with
  | none => { high := i, seen := 1 }
  | some r => if i > r.high then { high := i, seen := (r.seen <<< (i - r.high)) ||| 1 } else { r with seen := r.seen ||| ((1 : BitVec 512) <<< (r.high - i)) }

/-! ### Packets received (R85 to R88) -/

/-- Whether the previous inbound association is still tried (R88). -/
def graceOpen (d : Dev) (l : Leg) : Option Nat := (l.prevSa.filter (fun p => decide (d.bell.tick.toNat < p.2.toNat))).map (·.1)

/-- A packet authenticated and checked against the replay window `key` of its SSRC: none where it is dropped (R87, R88). -/
def authPacket (d : Dev) (n : Nat) (l : Leg) (p : RtpIn) (key : Nat) (ctrl : Bool) : Bool × Dev :=
  if ¬ l.rcd.srtp then (true, d)
  else if ¬ replayOk (tget l.windows key) p.index then (false, legCount d n 5 1)
  else
    let pick := if p.authNew then some l.rcd.saIn else if p.authOld then graceOpen d l else none
    match pick with
    | none => (false, legCount d n 4 1)
    | some h =>
      let (ok, d) := legUse d n h true ctrl p.bytes
      if ok then (true, onLeg d n (fun l => { l with windows := tset l.windows key (replayAdd (tget l.windows key) p.index) })) else (false, d)

/-- A request of a receiver for an intra point (R106): of the source of its entry, of its composed stream, or of its own fallback encoder (R187). -/
def receiverWantsIntra (d : Dev) (n : Nat) (l : Leg) (ssrc : Nat) : Dev :=
  if l.rcd.videoOut = 1 then
    match (tgetD d.vid.subs n [])[(ssrc + 2 ^ 32 - l.rcd.vSsrcOut) % 2 ^ 32]? with
    | none => d
    | some e => requestPli d e.1
  else if l.rcd.videoOut = 2 then
    if l.slot then onVid d (fun v => { v with recv := tmod v.recv n (fun r => { r with idr := true }) })
    else match (tget d.vid.recv n).bind (·.cur) with
      | none => d
      | some k => requestPoint d k true
  else d

/-- Whether retransmissions over the last 100 ms exceed 10 % of B (R104). -/
def retxOver (d : Dev) (l : Leg) : Bool :=
  let recent := l.retx.filter (fun e => decide (d.bell.tick.toNat < e.1.toNat + 800))
  decide (sumN (recent.map (·.2)) * 800 > l.adapt.est)

/-- One packet of a NACK answered or ignored (R104). NACK_IGNORED counts each packet named that is ignored, and a resend withheld by the limits of two or of one
round-trip time is not counted (DESIGN CHOICE, log 156). -/
def nackOne (n ssrc : Nat) (d : Dev) (seq : Nat) : Dev :=
  match tget d.media.legs n with
  | none => d
  | some l =>
    let now := d.bell.tick.toNat
    match l.sent.find? (fun p => p.ssrc == ssrc && p.seq % 65536 == seq && decide (now ≤ p.tick.toNat + 2000)) with
    | none => legCount d n 9 1
    | some p =>
      if retxOver d l then legCount d n 9 1
      else if p.resends ≥ 2 ∨ (p.resends > 0 ∧ now < p.lastResend.toNat + 8 * l.adapt.m.rtt) then d
      else
        let p' := { p with resends := p.resends + 1, lastResend := d.bell.tick }
        let d := onLeg d n (fun l => { l with
          sent := l.sent.map (fun q => if q = p then p' else q),
          retx := (l.retx.filter (fun e => decide (now < e.1.toNat + 800))) ++ [(d.bell.tick, p.hdr.size)] })
        let d := legCount (legCount (legCount d n 8 1) n 1 1) n 3 p.hdr.size
        legSend (txNote d n ssrc p.seq (p.hdr.size + rtpOverhead l.rcd) true) .rtpOut (rtpVals ssrc p.seq p.hdr) n l true (p.hdr.size + rtpOverhead l.rcd)

/-- The signed difference of two 32-bit counts. -/
def diff32 (a b : Int) : Int := (BitVec.ofInt 32 (a - b)).toInt

/-- What a report says of a packet sent (R97). -/
def ccMark (rts : Nat) (b : CcBlock) (p : TxRec) : TxRec :=
  if p.ssrc ≠ b.ssrc ∨ p.again then p
  else
    match b.metrics[(p.seq % 65536 + 65536 - b.first % 65536) % 65536]? with
    | none => p
    | some none => if p.fate = .untold then { p with fate := .lost } else p
    | some (some (ecn, ato)) => { p with fate := .got (ecn == 3) ((rts : Int) - 64 * (ato : Int)) }

/-- The round-trip time in ms that a receiver report shows, as RFC 3550 computes it on the device's own clock; none where it names no sender report. -/
def rttOf (d : Dev) (lsr dlsr : Nat) : Option Nat :=
  if lsr = 0 then none
  else some (rdiv (1000 * ((diff32 ((nowNs d * 65536 / 1000000000 : Nat) : Int) ((lsr + dlsr : Nat) : Int)).toNat : Int)) 65536).toNat

/-- An RTCP packet consumed by the home engine (R97, R104 to R106). -/
def rtcpRx (d : Dev) (n : Nat) (k : RtcpKind) : Dev :=
  match tget d.media.legs n with
  | none => d
  | some l =>
    match k with
    | .report rts blocks => onLeg d n (fun l => { l with
        txLog := blocks.foldl (fun t b => t.map (ccMark rts b)) l.txLog, reported := true,
        adapt := { l.adapt with lastReport := d.bell.tick, starved := false } })
    | .receiver lsr dlsr => onLeg d n (fun l => { l with adapt := { l.adapt with m := { l.adapt.m with rtt := (rttOf d lsr dlsr).getD l.adapt.m.rtt } } })
    | .nack ssrc lost => lost.foldl (nackOne n ssrc) (legCount d n 6 1)
    | .pli ssrc => receiverWantsIntra (legCount d n 10 1) n l ssrc
    | .fir ssrc seq =>
      let d := legCount d n 12 1
      if tget l.firSeen ssrc = some seq then d
      else receiverWantsIntra (onLeg d n (fun l => { l with firSeen := tset l.firSeen ssrc seq })) n l ssrc
    | .other => d

/-- The gaps that a video packet opens or closes (R105). -/
def gapsAfter (d : Dev) (l : Leg) (i : Nat) : Leg :=
  let open_ := match l.highSeq with
    | none => []
    | some h => if l.rcd.nackReq then (List.range (min 512 (i - h - 1))).map (fun k => { seq := h + 1 + k, due := d.bell.tick + 16, sent := 0 : Missing }) else []
  { l with missing := (l.missing.filter (fun m => m.seq != i)) ++ open_, highSeq := some (max i (l.highSeq.getD i)) }

/-- The jitter after a packet that arrives at sample `arr` with timestamp `ts`, `k` samples to its unit (R600, by the algorithm of RFC 3550; log 154). -/
def jitterAfter (j : Jitter) (arr ts k : Nat) : Jitter :=
  match j.last with
  | none => { j with last := some (arr, ts) }
  | some (a, t) =>
    { avg16 := j.avg16 + (((arr : Int) - a) - diff32 ts t * k).natAbs - (j.avg16 + 8) / 16, last := some (arr, ts) }

/-- An audio packet put in the jitter buffer (R600): the first sets when the others are due, and one that arrives after its samples were due is late. -/
def jitterPut (d : Dev) (n : Nat) (l : Leg) (p : RtpIn) : Dev :=
  let arr := p.stamp * 48 / 1000000
  let k := 48 / audioClock l.rcd.aCodec
  let due := l.jbDue.getD (p.ts, ((arr + l.jbDepth : Nat) : Int))
  let d := onLeg d n (fun l => { l with jit := jitterAfter l.jit arr p.ts k, jbDue := some due })
  if due.2 + diff32 p.ts due.1 * k < (arr : Int) then legCount d n 14 1 else d

/-- An accepted RTP packet (R86, R103 to R105, R162, R600). -/
def rtpAccept (d : Dev) (n : Nat) (l : Leg) (p : RtpIn) (video : Bool) (y : LayerIn) : Dev :=
  let d := legCount (legCount d n 0 1) n 2 p.bytes
  let d := onLeg d n (fun l => { l with rxLog := l.rxLog ++ [{ ssrc := p.ssrc, index := p.index, ns := p.stamp, ecn := p.ecn }] })
  if ¬ video then
    jitterPut (onLeg d n (fun l => { l with aLatch := if l.rcd.aSsrcIn = 0 then some (l.aLatch.getD p.ssrc) else l.aLatch })) n l p
  else
    let d := onLeg d n (fun l => gapsAfter d { l with
      vLatch := if l.rcd.vSsrcIn = 0 then some (l.vLatch.getD p.ssrc) else l.vLatch, picEnd := if p.marker then some (d.bell.tick, p.ts) else l.picEnd } p.index)
    let d := if y.spatial = 0 ∧ y.temporal = 0 then d else onContrib d n (fun c => { c with layered := true })
    if contribMode d n = 0 ∨ (l.rcd.vCodecIn = 4 ∧ relays d n) then d
    else forwardPacket d n l.rcd.vCodecIn { pt := 0, marker := p.marker, ts := p.ts, size := p.bytes, body := p.body } y

/-- The SSRC a medium is accepted on: the configured one, or the latched one where that is 0 (R86). -/
def ssrcOk (set : Nat) (latch : Option Nat) (ssrc : Nat) : Bool := if set ≠ 0 then ssrc == set else (latch.map (· == ssrc)).getD true

/-- A packet taken out of the mailbox of each engine that holds it: the home, and a move's target (R107). -/
def popOf (d : Dev) (l : Leg) : Dev :=
  match l.move with
  | none => mailboxPop d l.home
  | some m => mailboxPop (mailboxPop d l.home) m.target

/-- LEG_PACKET_RX (R85 to R88): the home engine sorts a delivered packet by its first bytes; its kernel advances the mailbox's tail
past the entry (R212). While a leg migrates the target consumes its copy too (R107), and where the source has failed after the copy the target's work is the leg's (R111). -/
def legPacket (n : Nat) (p : RtpIn) (rtcp : RtcpKind) (y : LayerIn) (d : Dev) : Dev :=
  match legOf d n with
  | none => d
  | some l =>
    let works := legRuns l || srcGone l
    let d := if works then popOf d l else d
    if ¬ works then d
    else if p.b0 ≤ 3 ∨ (20 ≤ p.b0 ∧ p.b0 ≤ 63) then
      let d := legCount d n 17 1
      match l.rcd.ctrlDest with
      | 1 => hostDeliver d l.rcd.egress n [p.b0, p.b1, p.bytes]
      | 2 => emit d (if p.b0 ≤ 3 then .stunOut else .dtlsOut) n [p.b0, p.b1, p.bytes]
      | _ => d
    else if 128 ≤ p.b0 ∧ p.b0 ≤ 191 then
      if 192 ≤ p.b1 ∧ p.b1 ≤ 223 then
        let (ok, d) := authPacket d n l p (2 * p.ssrc + 1) true
        if ok then rtcpRx d n rtcp else d
      else
        let pt := p.b1 % 128
        let audio := l.rcd.audioIn && pt == l.rcd.aPt && ssrcOk l.rcd.aSsrcIn l.aLatch p.ssrc
        let video := l.rcd.contrib && pt == l.rcd.vPtIn && ssrcOk l.rcd.vSsrcIn l.vLatch p.ssrc
        if ¬ audio ∧ ¬ video then legCount d n 18 1
        else
          let (ok, d) := authPacket d n l p (2 * p.ssrc) false
          if ok then rtpAccept d n l p (!audio) y else d
    else legCount d n 18 1

/-- LEG_PACKET_RX (R85). -/
def execLegPacketRx (leg : Nat) (pkt : RtpIn) (rtcp : RtcpKind) (layer : LayerIn) (s : State) : Host.Outcome State Fault Refusal :=
  nextDev s (legPacket leg pkt rtcp layer)

/-- REKEY_GRACE_END (R88): 800 ticks after a rekey the previous inbound handle is unbound. -/
def rekeyGraceEnd (n : Nat) (d : Dev) : Dev :=
  match tget d.media.legs n with
  | none => d
  | some l =>
    match l.prevSa with
    | none => d
    | some p => if d.bell.tick.toNat < p.2.toNat then d else legKeySweep (onLeg (saUnbind d p.1) n (fun l => { l with prevSa := none })) n

/-- REKEY_GRACE_END (R88). -/
def execRekeyGraceEnd (leg : Nat) (s : State) : Host.Outcome State Fault Refusal := nextDev s (rekeyGraceEnd leg)

/-! ### The adaptation loop (R97 to R102, R603) -/

/-- Entry to STARVED (R98); within the hold-off of an earlier decrease a row that would decrease B gives HOLD. -/
def starve (d : Dev) (n : Nat) (l : Leg) : Dev :=
  if max (1000 * l.rcd.bwMin) (l.adapt.est / 2) < l.adapt.est ∧ d.bell.tick.toNat < l.adapt.holdUntil.toNat then
    onLeg d n (fun x => { x with adapt := { x.adapt with verdict := 1 } })
  else legEvent (onLeg d n (fun x => { x with adapt := { x.adapt with starved := true, verdict := 4, est := max (1000 * l.rcd.bwMin) (l.adapt.est / 2) } })) 3 n

/-- Whether a leg sends on an SSRC, and so expects reports (R603). -/
def sendsMedia (l : Leg) : Bool := l.rcd.audioOut || l.rcd.videoOut != 0

/-- Whether the STARVED row matches (R98, R603). -/
def starvedRow (d : Dev) (l : Leg) : Bool :=
  sendsMedia l && decide (d.bell.tick.toNat ≥ l.adapt.lastReport.toNat + 16000)

/-- The packets sent in the last 100 ms that reports have told of (R97). -/
def toldOf (d : Dev) (l : Leg) : List TxRec :=
  l.txLog.filter (fun p => decide (nowNs d < p.ns + 100000000) && !p.again && p.fate != .untold)

/-- The least-squares slope of arrival offset less send time over send time (R97), in units of 0.01 ms per 100 ms, of packets with their sending in ns and their arrival
in 1/65,536 s; none where no two were sent at different times. -/
def trendOf (ps : List (Int × Int)) : Option (Int × Nat) :=
  match ps with
  | [] => none
  | p0 :: _ =>
    let xy := ps.map (fun p => let x := p.1 - p0.1; (x, 1000000000 * diff32 p.2 p0.2 - 65536 * x))
    let sum (f : Int × Int → Int) : Int := (xy.map f).foldl (· + ·) 0
    let n : Int := xy.length
    let den := n * sum (fun p => p.1 * p.1) - sum (·.1) * sum (·.1)
    if den ≤ 0 then none
    else some (10000 * (n * sum (fun p => p.1 * p.2) - sum (·.1) * sum (·.2)), (65536 * den).toNat)

/-- The rate a leg has sent over the last 500 ms in b/s, with headers and retransmissions (R97). -/
def sendRateOf (d : Dev) (l : Leg) : Nat := 16 * sumN ((l.txLog.filter (fun p => decide (nowNs d < p.ns + 500000000))).map (·.bytes))

/-- A packet that a report says has arrived: whether with a congestion mark, when it was sent and when it came. -/
def arrivedOf (p : TxRec) : Option (Bool × Int × Int) :=
  match p.fate with
  | .got ce a => some (ce, (p.ns : Int), a)
  | _ => none

/-- The packets told of in the window, those lost and those marked (R97): free where none is told of (log 157). -/
def toldCounts (d : Dev) (t : List TxRec) : (Nat × Nat × Nat) × Dev :=
  match t with
  | [] => ((10000, (drawFree d).1 % 10001, (drawFree (drawFree d).2).1 % 10001), (drawFree (drawFree d).2).2)
  | _ => ((t.length, (t.filter (fun p => p.fate == .lost)).length, ((t.filterMap arrivedOf).filter (·.1)).length), d)

/-- The delay trend of the packets arrived (R97): free where they are too few (log 157). -/
def trendRun (d : Dev) (l : List (Int × Int)) : (Int × Nat) × Dev :=
  match trendOf l with
  | some x => (x, d)
  | none => (((((drawFree d).1 % 65536 : Nat) : Int) - 32768, 1), (drawFree d).2)

/-- What a run measures (R97): where a report has come but tells of no packet of the last 100 ms, L and E, and with too few packets G, are free values
(log 157). -/
def measureRun (d : Dev) (l : Leg) : Measures × Dev :=
  let m := { l.adapt.m with sendRate := sendRateOf d l, jitter := l.jit.avg16 / 16, fresh := l.reported }
  if ¬ l.reported then (m, d)
  else
    let t := toldOf d l
    let (c, d) := toldCounts d t
    let (tr, d) := trendRun d ((t.filterMap arrivedOf).map (·.2))
    ({ m with told := c.1, lost := c.2.1, ce := if l.rcd.ecn then c.2.2 else 0, trendN := tr.1, trendD := tr.2 }, d)

/-- The estimate and verdict of the rows below STARVED (R98): 0 INCREASE, 1 HOLD, 2 OVERUSE, 3 LOSS. -/
def estimateRow (l : Leg) (m : Measures) : Nat × Nat :=
  let lo := 1000 * l.rcd.bwMin
  let hi := 1000 * l.rcd.bwMax
  let b := l.adapt.est
  let e := if l.rcd.ecn then m.ce else 0
  if 10 * m.lost > m.told then (3, max lo (rdiv ((m.sendRate * (2 * m.told - m.lost) : Nat) : Int) ((2 * m.told : Nat) : Int)).toNat)
  else if 50 * e > m.told ∨ m.trendN > 500 * (m.trendD : Int) then (2, max lo (rdiv ((85 * m.sendRate : Nat) : Int) 100).toNat)
  else if (0 < m.told ∧ 50 * m.lost ≥ m.told) ∨ m.trendN > 100 * (m.trendD : Int) then (1, b)
  else (0, max lo (min hi (min ((rdiv ((3 * m.sendRate : Nat) : Int) 2).toNat + 100000) (b + b * 39 / 1000000))))

/-- The estimate after a run (R98, R603): decreases wait out the hold-off. A leg that sends no media keeps BW_START. -/
def estimateRun (d : Dev) (l : Leg) (m : Measures) : Adapt :=
  let a := { l.adapt with m := { m with fresh := false } }
  if l.rcd.fixed then { a with verdict := 5, est := 1000 * l.rcd.bwMax }
  else if ¬ sendsMedia l then { a with est := 1000 * l.rcd.bwStart }
  else if ¬ m.fresh then a
  else
    let (v, b) := estimateRow l m
    if b < a.est ∧ d.bell.tick.toNat < a.holdUntil.toNat then { a with verdict := 1 }
    else
      let b := min b (1000 * l.rcd.bwMax)
      { a with verdict := v, est := b,
               holdUntil := if b < a.est ∧ (v = 2 ∨ v = 3) then d.bell.tick + BitVec.ofNat 64 (max 400 (8 * m.rtt)) else a.holdUntil }

/-- The rate bounds of a codec in kb/s (R99; PRESUMED from the codecs' standards, log 19). -/
def codecRange (c : Nat) : Nat × Nat := if c = 4 then (6, 510) else if c = 5 then (16, 320) else (64, 64)

/-- The audio setting that the table of R99 gives: bit rate in kb/s and frame in ms. -/
def audioSetting (r : LegRec) (b : Nat) : Nat × Nat :=
  let row := if b ≥ 500000 then (64, 20) else if b ≥ 150000 then (32, 20) else if b ≥ 60000 then (24, 20) else if b ≥ 30000 then (16, 40) else (10, 60)
  if r.aCodec ≤ 3 then (64, 20)
  else
    let (lo, hi) := codecRange r.aCodec
    let x := if r.arMax = 0 then row.1 else min row.1 r.arMax
    let x := if r.arMin = 0 then x else max x r.arMin
    (max lo (min hi x), if r.aCodec = 4 then row.2 else 10)

/-- Whether a leg is a talker of its conference. -/
def isTalker (d : Dev) (n : Nat) (l : Leg) : Bool :=
  match confOf d l.rcd.conf with
  | none => false
  | some c => c.talkers.contains (inputKey d c n)

/-- The settings in use among the other listeners who share a leg's encodes (R99, R126): codec, rate, frame and FEC. -/
def encodesInUse (d : Dev) (n : Nat) (l : Leg) : List (Nat × Nat × Nat × Bool) :=
  dedup ((d.media.legs.filter (fun e => e.1 != n && legRuns e.2 && e.2.rcd.conf == l.rcd.conf && e.2.rcd.audioOut && e.2.rcd.lang == l.rcd.lang && !isTalker d e.1 e.2)).map
    (fun e => (e.2.rcd.aCodec, e.2.adapt.audioRate, e.2.adapt.audioFrame, e.2.adapt.fec)))

/-- The setting a listener takes among the shared encodes (R99): its own while there is room for it, else the best of its codec not
above it, else the lowest in use, of its own codec if it has one. -/
def sharedSetting (d : Dev) (n : Nat) (l : Leg) (own : Nat × Nat × Bool) : Nat × Nat × Bool :=
  let used := encodesInUse d n l
  let limit := ((confOf d l.rcd.conf).map (fun c => confEnc c.rcd)).getD 1
  if isTalker d n l ∨ used.contains (l.rcd.aCodec, own) ∨ used.length < limit then own
  else
    let mine := used.filter (fun e => e.1 == l.rcd.aCodec)
    let best := (mine.filter (fun e => decide (e.2.1 ≤ own.1))).foldl (fun (a : Option (Nat × Nat × Bool)) e =>
      match a with
      | none => some e.2
      | some x => if x.1 < e.2.1 then some e.2 else a) none
    match best with
    | some x => x
    | none => ((if mine.isEmpty then used else mine).foldl (fun (a : Option (Nat × Nat × Bool)) e =>
        match a with
        | none => some e.2
        | some x => if e.2.1 < x.1 then some e.2 else a) none).getD own

/-- In-band FEC with its hysteresis (R99). -/
def fecNext (l : Leg) (a : Adapt) : Bool :=
  l.rcd.audioFec && l.rcd.aCodec == 4 && decide (0 < a.m.told) && (decide (50 * a.m.lost ≥ a.m.told) || (a.fec && decide (100 * a.m.lost ≥ a.m.told)))

/-- The video budget V in b/s (R100). -/
def videoBudget (l : Leg) (a : Adapt) : Nat :=
  if l.rcd.audioOut then
    let f := max 1 a.audioFrame
    (rdiv ((95 * a.est * f : Nat) - (100 * (a.audioRate * 1000 * f + rtpOverhead l.rcd * 8000) : Nat) : Int) ((100 * f : Nat) : Int)).toNat
  else (rdiv ((95 * a.est : Nat) : Int) 100).toNat

/-- Whether point `a` is above `b`: the spatial layer first (R101). -/
def pointAbove (a b : Nat × Nat) : Bool := decide (a.1 > b.1 ∨ (a.1 = b.1 ∧ a.2 > b.2))

/-- The operating points of a source as the leg receives it, each with the rate of its layers and those below over the last 1,000 ms (R101). -/
def pointsOf (d : Dev) (l : Leg) (src : Nat) : List OpPoint :=
  match legOf d src with
  | none => []
  | some x =>
    let use := x.layers.filter (fun u => u.codec == l.rcd.vCodecOut && decide (d.bell.tick.toNat < u.tick.toNat + 8000))
    (tgetD x.dims l.rcd.vCodecOut []).map (fun o =>
      { spatial := o.spatial, temporal := o.temporal, width := o.width, height := o.height, fps := o.fps,
        rate := 8 * sumN ((use.filter (fun u => decide (u.spatial ≤ o.spatial ∧ u.temporal ≤ o.temporal))).map (·.bytes)) })

/-- The operating point chosen for one source (R101): a lower one at once, a higher one after 8,000 ticks within 0.9 of the
share; none where no point meets the conditions. The highest point that meets them is the only one looked at for a rise, though a lower one might pass the test of 0.9
(DESIGN CHOICE, log 158). From none, the lowest point that meets them is taken at once (log 158). -/
def choosePoint (d : Dev) (l : Leg) (share : Nat) (src : Nat) (ps : List OpPoint) (a : Adapt) : Adapt :=
  let ok (p : OpPoint) : Bool := decide (p.rate ≤ share ∧ p.width ≤ l.rcd.maxW ∧ p.height ≤ l.rcd.maxH ∧ p.fps ≤ l.rcd.maxFps)
  let best := (ps.filter ok).foldl (fun (b : Option OpPoint) p => match b with
    | none => some p
    | some q => if pointAbove (p.spatial, p.temporal) (q.spatial, q.temporal) then some p else b) none
  let low := (ps.filter ok).foldl (fun (b : Option OpPoint) p => match b with
    | none => some p
    | some q => if pointAbove (q.spatial, q.temporal) (p.spatial, p.temporal) then some p else b) none
  match best with
  | none => { a with wantPoints := tdel a.wantPoints src, pointSince := tdel a.pointSince src }
  | some p =>
    let cur := (tget a.wantPoints src).getD ((low.map (fun q => (q.spatial, q.temporal))).getD (0, 0))
    let a := { a with wantPoints := tset a.wantPoints src cur }
    let new := (p.spatial, p.temporal)
    if ¬ pointAbove new cur then { a with wantPoints := tset a.wantPoints src new, pointSince := tdel a.pointSince src }
    else if 10 * p.rate > 9 * share then { a with pointSince := tdel a.pointSince src }
    else
      match tget a.pointSince src with
      | some (k, t) =>
        if k = 256 * p.spatial + p.temporal then
          if d.bell.tick.toNat ≥ t.toNat + 8000 then
            { a with wantPoints := tset a.wantPoints src new, pointSince := tdel a.pointSince src, wantAt := tset a.wantAt src d.bell.tick }
          else a
        else { a with pointSince := tset a.pointSince src (256 * p.spatial + p.temporal, d.bell.tick) }
      | none => { a with pointSince := tset a.pointSince src (256 * p.spatial + p.temporal, d.bell.tick) }

/-- The variants of a layout with their declared rates (R102, R178). -/
def variantRates (d : Dev) (layout : Nat) : List (Nat × Nat) :=
  match tget d.vid.layouts layout with
  | none => []
  | some r => [1, 2, 3].filterMap (fun v => (variantOf r v).map (fun x => (v, declaredRate d x)))

/-- The variant chosen for a budget (R102): the highest rate within V, else S; a higher one only after 8,000 ticks at 1.1 of its
rate. The highest within V is the only one looked at for a rise, though a lower one might pass the test of 1.1 (DESIGN CHOICE, log 158). -/
def chooseVariant (d : Dev) (layout : Nat) (a : Adapt) : Adapt :=
  let vs := variantRates d layout
  let rate (v : Nat) : Nat := ((vs.find? (fun e => e.1 == v)).map (·.2)).getD 0
  let best := (vs.filter (fun e => decide (e.2 ≤ a.budget))).foldl (fun (b : Nat × Nat) e => if b.1 = 0 ∨ e.2 > b.2 then e else b) (0, 0)
  let best := if best.1 = 0 then 1 else best.1
  if vs.isEmpty then { a with wantTier := 0, tierSince := none }
  else if a.wantTier = 0 ∨ rate best ≤ rate a.wantTier then { a with wantTier := best, tierSince := none }
  else if 10 * a.budget < 11 * rate best then { a with tierSince := none }
  else
    match a.tierSince with
    | some (v, t) =>
      if v = best then (if d.bell.tick.toNat ≥ t.toNat + 8000 then { a with wantTier := best, tierSince := none } else a)
      else { a with tierSince := some (best, d.bell.tick) }
    | none => { a with tierSince := some (best, d.bell.tick) }

/-- The settings of R99 to R102 chosen afresh from B. -/
def adaptSettings (d : Dev) (n : Nat) (l : Leg) (a : Adapt) : Adapt :=
  let a := if l.rcd.audioOut then
      let (rate, frame) := audioSetting l.rcd a.est
      let (r, f, c) := sharedSetting d n l (rate, frame, fecNext l a)
      { a with audioRate := r, audioFrame := f, fec := c }
    else a
  let a := { a with budget := if l.rcd.videoOut = 0 then 0 else videoBudget l a }
  if l.rcd.videoOut = 1 then
    let subs := tgetD d.vid.subs n []
    let total := max 1 (sumN (subs.map (·.2)))
    subs.foldl (fun a e => choosePoint d l (a.budget * e.2 / total) e.1 (pointsOf d l e.1) a) a
  else if l.rcd.videoOut = 2 then chooseVariant d l.rcd.layout a
  else a

/-- Sources that have offered no switching point for 8,000 ticks are asked for one (R101). -/
def switchPlis (d : Dev) (a : Adapt) : Dev :=
  (a.wantAt.filter (fun e => tget a.wantPoints e.1 != tget a.points e.1 && decide (d.bell.tick.toNat ≥ e.2.toNat + 8000))).foldl (fun d e => requestPli d e.1) d

/-- A leg follows the variant its loop has chosen (R102, R184). -/
def followVariant (d : Dev) (n : Nat) (l : Leg) : Dev :=
  if l.rcd.videoOut ≠ 2 ∨ l.adapt.wantTier = 0 then d
  else
    let at_ := (tget d.vid.recv n).bind (fun r => (r.next.or r.cur).bind (fun k => tget d.vid.streams k))
    match at_ with
    | some s => if s.layout = l.rcd.layout ∧ s.variant = l.adapt.wantTier then d else joinStream d n l.rcd.layout l.adapt.wantTier
    | none => joinStream d n l.rcd.layout l.adapt.wantTier

/-- A run of the loop on its measures (R97 to R102, R603): a checkpoint and the status record follow (R109, R113), and the jitter buffer is given the depth to take
at the next silence (R600). -/
def adaptWith (n : Nat) (m : Measures) (d : Dev) : Dev :=
  match legOf d n with
  | none => d
  | some l =>
    let d := if ¬ l.rcd.fixed ∧ starvedRow d l then
        (let d := onLeg d n (fun l => { l with adapt := { l.adapt with m := { m with fresh := false } } }); if l.adapt.starved then d else starve d n l)
      else onLeg d n (fun l => { l with adapt := estimateRun d l m })
    let l := (legOf d n).getD l
    let depth := max l.rcd.jbMin (min l.rcd.jbMax (6 * ceilDiv (2 * m.jitter) 6))
    let d := onLeg d n (fun l => { l with adapt := adaptSettings d n l l.adapt, jbWant := if l.rcd.audioIn then depth else 0, ckIdx := l.outIdx, reported := false })
    let l := (legOf d n).getD l
    let d := switchPlis d l.adapt
    writeStatus (ifFits (fun d => followVariant d n l) d) n

/-- ADAPTATION_RUN (R97 to R102, R603): in every tick whose number modulo 4 is the LEG_ID's. -/
def adaptationRun (n : Nat) (d : Dev) : Dev :=
  match legOf d n with
  | none => d
  | some l =>
    if l.st ≠ .active ∨ ¬ legRuns l ∨ d.bell.tick.toNat % 4 ≠ n % 4 then d
    else let (m, d) := measureRun d l; adaptWith n m d

/-- ADAPTATION_RUN (R98). -/
def execAdaptationRun (leg : Nat) (s : State) : Host.Outcome State Fault Refusal := nextDev s (adaptationRun leg)

/-- FEEDBACK_STARVED (R98, R603). -/
def feedbackStarved (n : Nat) (d : Dev) : Dev :=
  match legOf d n with
  | none => d
  | some l => if l.st ≠ .active ∨ l.rcd.fixed ∨ l.adapt.starved ∨ ¬ starvedRow d l then d else writeStatus (starve d n l) n

/-- FEEDBACK_STARVED (R98). -/
def execFeedbackStarved (leg : Nat) (s : State) : Host.Outcome State Fault Refusal := nextDev s (feedbackStarved leg)

/-- The SSRCs a leg receives on (R86). -/
def inboundSsrcs (l : Leg) : List Nat :=
  let one (on : Bool) (set : Nat) (latch : Option Nat) : List Nat := if ¬ on then [] else if set ≠ 0 then [set] else latch.toList
  one l.rcd.audioIn l.rcd.aSsrcIn l.aLatch ++ one l.rcd.contrib l.rcd.vSsrcIn l.vLatch

/-- The arrival offset of a packet at the report's instant, in 1/1,024 s (RFC 8888): 0x1FFE beyond 8,189. -/
def arrivalOffset (now ns : Nat) : Nat :=
  let o := (now - ns) * 1024 / 1000000000
  if ns > now then 0x1FFF else if o > 8189 then 0x1FFE else o

/-- What a report says of one SSRC (R103, RFC 8888): the SSRC, the first sequence number, how many, and a word for each: received, its ECN field, its arrival offset. -/
def ccWords (d : Dev) (l : Leg) (ssrc : Nat) : List Int :=
  let mine := l.rxLog.filter (fun r => r.ssrc == ssrc)
  let top := mine.foldl (fun a r => max a (r.index + 1)) 0
  let low := max (top - 16384) ((tget l.rxNext ssrc).getD (mine.foldl (fun a r => min a r.index) top))
  let word (i : Nat) : Int := match mine.find? (fun r => r.index == i) with
    | none => 0
    | some r => ((32768 + 8192 * (r.ecn % 4) + arrivalOffset (nowNs d) r.ns : Nat) : Int)
  [(ssrc : Int), ((low % 65536 : Nat) : Int), ((top - low : Nat) : Int)] ++ (List.range (top - low)).map (fun i => word (low + i))

/-- The bytes of a report of so many words for each SSRC (RFC 8888). -/
def ccSize (blocks : List (List Int)) : Nat := 12 + sumN (blocks.map (fun b => 8 + 4 * ceilDiv (b.length - 3) 2))

/-- FEEDBACK_REPORT_SEND (R103): every FB_INTERVAL ticks, 0 meaning 400 (R77). -/
def feedbackReport (n : Nat) (d : Dev) : Dev :=
  match legOf d n with
  | none => d
  | some l =>
    if ¬ legRuns l ∨ d.bell.tick.toNat < l.fbAt.toNat ∨ ¬ (l.rcd.audioIn ∨ l.rcd.contrib) then d
    else
      let step := if l.rcd.fbInterval = 0 then 400 else l.rcd.fbInterval
      let blocks := (inboundSsrcs l).map (ccWords d l)
      let next := l.rxLog.foldl (fun t r => tset t r.ssrc (max (tgetD t r.ssrc 0) (r.index + 1))) l.rxNext
      sendRtcp (onLeg d n (fun l => { l with fbAt := d.bell.tick + BitVec.ofNat 64 step, rxLog := [], rxNext := next })) n
        ([205, 11] ++ blocks.flatten ++ [((nowNs d * 65536 / 1000000000 % 2 ^ 32 : Nat) : Int)]) (ccSize blocks)

/-- FEEDBACK_REPORT_SEND (R103). -/
def execFeedbackReportSend (leg : Nat) (s : State) : Host.Outcome State Fault Refusal := nextDev s (feedbackReport leg)

/-- NACK_SEND (R105): a NACK for a missing packet, at most 3, repeated every max(round-trip time, 20 ms); a PLI once the picture can
no longer be completed in time. -/
def nackSend (n seq : Nat) (inTime : Bool) (d : Dev) : Dev :=
  match legOf d n with
  | none => d
  | some l =>
    match l.missing.find? (fun m => m.seq == seq) with
    | none => d
    | some m =>
      if ¬ legRuns l ∨ d.bell.tick.toNat < m.due.toNat then d
      else if ¬ inTime ∨ m.sent ≥ 3 then
        requestPli (onLeg d n (fun l => { l with missing := l.missing.erase m })) n
      else
        let m' := { m with sent := m.sent + 1, due := d.bell.tick + BitVec.ofNat 64 (8 * max l.adapt.m.rtt 20) }
        let d := onLeg d n (fun l => { l with missing := l.missing.map (fun x => if x = m then m' else x) })
        legCount (sendRtcp d n [205, 1, (seq : Int)] 16) n 7 1

/-- NACK_SEND (R105). -/
def execNackSend (leg seq : Nat) (inTime : Bool) (s : State) : Host.Outcome State Fault Refusal := nextDev s (nackSend leg seq inTime)

end Sys2Proof.Machine
end

