-- ==== Sys2Proof/Machine/Legs.lean ====
section
/-! DEFINITION. Conferences, legs and placement: their commands (R80 to R84, R88, R92), states and moves (R83, R107, R108). -/

namespace Sys2Proof.Machine

/-! ### Queues, steering and associations of a leg -/

/-- The root that a leg's queues join (R93, R284, R401): an Alloc-ID that is not assigned has a root of its own number. -/
def allocRoot (d : Dev) (slice alloc : Nat) : Nat :=
  match (tget d.acc.slices slice).bind (fun s => (s.allocs.find? (fun e => e.2.id == alloc)).map (·.2.node)) with
  | some n => n
  | none => 0x10000 + slice * 16384 + alloc
def egressRoot (d : Dev) (r : LegRec) : Nat :=
  if r.egress ≤ 4 then 512 + r.egress
  else if r.egress = 12 then 524
  else if r.egress = 13 then 525
  else allocRoot d (r.egress - 8) r.allocId

/-- Whether a queue of an owner is held and not being freed. -/
def hasQueue (d : Dev) (o : QOwner) : Bool := d.tm.queues.any (fun q => q.2.owner == o && q.2.freeAt.isNone)

/-- The queues of a leg's combination, created where it is the first of its medium (R93); none where no queue is free (R35). -/
def legQueues (d : Dev) (r : LegRec) : Option Dev :=
  let k := comboKey r
  let root := egressRoot d r
  let d1 := if isAudioLeg r ∧ ¬ hasQueue d (.legAudio k) then (legAudioQueue d root k).map (·.2) else some d
  d1.bind (fun d => if isVideoLeg r ∧ ¬ hasQueue d (.legVideo k) then (legVideoQueue d root k).map (·.2) else some d)

/-- The queues that no leg's combination needs any more start to be freed (R93, R420). -/
def freeLegQueues (d : Dev) : Dev :=
  let held := (d.media.legs.filter (fun l => l.2.st != .free)).map (·.2.rcd)
  freeOwned d (fun o => match o with
    | .legAudio k => !held.any (fun r => comboKey r == k && isAudioLeg r)
    | .legVideo k => !held.any (fun r => comboKey r == k && isVideoLeg r)
    | _ => false)

/-- The exact-match entry of a leg (R90, R382): pinned where its home is not the engine its hash names. -/
def steerLeg (d : Dev) (n : Nat) : Dev :=
  match tget d.media.legs n with
  | none => d
  | some l =>
    let pinned := hashedEngine d l.rcd != some l.home
    let e : ExactEnt := { pipe := if l.rcd.egress ≤ 4 then 1 else 0, rIp := l.rcd.remoteAddr, rPort := l.rcd.remotePort, lIp := l.rcd.localAddr,
                          lPort := l.rcd.localPort, pinned := if pinned then some l.home else none, profile := l.rcd.hashProfile }
    onLeg (onParse d (fun p => { p with exact := tset p.exact n e })) n (fun l => { l with flags := { l.flags with pinned := pinned } })

/-- No association. -/
def noSa : Nat := 0xFFFF

/-- Bind and unbind, where a handle is named. -/
def bindIf (d : Dev) (h : Nat) : Dev := if h = noSa then d else saBind d h
def unbindIf (d : Dev) (h : Nat) : Dev := if h = noSa then d else saUnbind d h

/-- The handles a leg holds in a direction. -/
def legHandles (l : Leg) (inbound : Bool) : List Nat :=
  if inbound then [l.rcd.saIn] ++ (l.prevSa.map (·.1)).toList else [l.rcd.saOut]

/-- Whether a leg may name a handle in a direction (R79): an SRTP association of the direction, bound to nothing but this leg's
own direction, and not RETIRED; on a twinned device it has a pair (R546). -/
def handleOk (v : Dev) (self : Option Leg) (h : Nat) (inbound : Bool) : Bool :=
  if h = noSa then true
  else
    match saOf v h with
    | none => false
    | some a =>
      let own := (self.map (fun l => (legHandles l inbound).contains h)).getD false
      a.rcd.path == 1 && a.rcd.dir == (if inbound then 0 else 1) && (own || !saBound a) && !saRetired a
        && (v.casc.twin.isNone || thas v.casc.saPairs h)

/-! ### The leg record (R77 to R79, R602) -/

/-- Whether the fields in use lie in their ranges (R77, R78, R602). -/
def legFieldsOk (r : LegRec) : Bool :=
  r.reservedOk
    && decide (r.id < 8192 ∧ r.videoOut ≤ 2 ∧ r.hashProfile ≤ 7 ∧ r.ctrlDest ≤ 2 ∧ r.dscp < 64 ∧ r.tci < 65536
        ∧ (r.egress ≤ 4 ∨ (8 ≤ r.egress ∧ r.egress ≤ 13)))
    && decide (16 ≤ r.bwMin ∧ r.bwMin ≤ r.bwMax ∧ r.bwMax ≤ 200000 ∧ r.bwMin ≤ r.bwStart ∧ r.bwStart ≤ r.bwMax)
    && (r.fbInterval == 0 || decide (40 ≤ r.fbInterval ∧ r.fbInterval ≤ 8000))
    && (r.audioIn || r.audioOut || r.contrib || r.videoOut != 0)
    && (!isAudioLeg r || decide (1 ≤ r.aCodec ∧ r.aCodec ≤ 5 ∧ r.aPt < 128))
    && (!r.audioIn || decide (12 ≤ r.jbMin ∧ r.jbMin ≤ 4800 ∧ r.jbMin % 6 = 0 ∧ r.jbMin ≤ r.jbMax ∧ r.jbMax ≤ 9600 ∧ r.jbMax % 6 = 0))
    && (!r.audioOut || (let ok (x : Nat) : Bool := x == 0 || decide (6 ≤ x ∧ x ≤ 510)
        ok r.arMin && ok r.arMax && (r.arMin == 0 || r.arMax == 0 || decide (r.arMin ≤ r.arMax)) && decide (r.lang ≤ 16)))
    && (!r.contrib || decide (1 ≤ r.vCodecIn ∧ r.vCodecIn ≤ 4 ∧ r.vPtIn < 128 ∧ r.contribMax ≤ 200000))
    && (r.videoOut == 0 || (decide (r.vPtOut < 128 ∧ 1 ≤ r.maxFps ∧ r.maxFps ≤ 30)
        && (r.vCodecOut == 3 || (r.vCodecOut == 1 && r.videoOut == 2) || (r.vCodecOut == 4 && r.videoOut == 1))))
    && (!isVideoLeg r || decide (r.extDd ≤ 14))
    && (r.videoOut != 2 || decide (r.layout < 4096))
    && (!r.srtp || (r.saIn != noSa && r.saOut != noSa))

/-- Whether a leg record stands against the rest of the device (R79, R541). -/
def legOk (v : Dev) (r : LegRec) (self : Option Leg) : Bool :=
  legFieldsOk r && (confTakes v r.conf).isSome
    && !v.media.legs.any (fun l => l.1 != r.id && l.2.st != .free && l.2.rcd.localAddr == r.localAddr && l.2.rcd.localPort == r.localPort
        && l.2.rcd.remoteAddr == r.remoteAddr && l.2.rcd.remotePort == r.remotePort)
    && handleOk v self r.saIn true && handleOk v self r.saOut false

/-- Whether a record needs an AVC fallback slot (R186). -/
def wantsSlot (r : LegRec) : Bool := r.videoOut == 2 && r.vCodecOut == 1

/-- Whether the charge that an input adds to the mix fits (R96), beside what the leg itself puts on engines `es`: its cycles on the same engine, its credits
in the same group (R32). -/
def mixTakes (v : Dev) (c : Conf) (conf : Nat) (joins : Bool) (es : List Nat) (own : Nat × Nat) : Bool :=
  if ¬ joins then true
  else
    let g := inputGrowth c (inputsInUse v conf)
    if g = (0, 0) then true
    else match c.mix with
      | none => false
      | some m => (enginesOf m c.move).all (fun m =>
          hasRoom v m (g.1 + (if es.contains m then own.1 else 0)) (g.2 + own.2 * (es.filter (fun e => e / 16 == m / 16)).length))

/-! ### Legs -/

/-- The field of a leg record at fault (R77 to R79, R510). -/
def legFault (v : Dev) (r : LegRec) (self : Option Leg) : Nat :=
  let rate (x : Nat) : Bool := x == 0 || decide (6 ≤ x ∧ x ≤ 510)
  firstBad [(decide (r.id < 8192), 0), ((confTakes v r.conf).isSome, 2), (r.audioIn || r.audioOut || r.contrib || r.videoOut != 0, 4),
    (decide (r.videoOut ≤ 2), 5), (decide (r.hashProfile ≤ 7), 6), (decide (r.ctrlDest ≤ 2), 7),
    (!v.media.legs.any (fun l => l.1 != r.id && l.2.st != .free && l.2.rcd.localAddr == r.localAddr && l.2.rcd.localPort == r.localPort
        && l.2.rcd.remoteAddr == r.remoteAddr && l.2.rcd.remotePort == r.remotePort), 8),
    (decide (r.egress ≤ 4 ∨ (8 ≤ r.egress ∧ r.egress ≤ 13)), 44), (decide (r.dscp < 64), 45), (decide (r.tci < 65536), 46),
    (!isAudioLeg r || decide (1 ≤ r.aCodec ∧ r.aCodec ≤ 5), 64), (!isAudioLeg r || decide (r.aPt < 128), 65),
    (!r.contrib || decide (1 ≤ r.vCodecIn ∧ r.vCodecIn ≤ 4), 66), (!r.contrib || decide (r.vPtIn < 128), 67),
    (r.videoOut == 0 || r.vCodecOut == 3 || (r.vCodecOut == 1 && r.videoOut == 2) || (r.vCodecOut == 4 && r.videoOut == 1), 68),
    (r.videoOut == 0 || decide (r.vPtOut < 128), 69), (!isVideoLeg r || decide (r.extDd ≤ 14), 70), (!r.audioOut || decide (r.lang ≤ 16), 71),
    (handleOk v self r.saIn true && (!r.srtp || r.saIn != noSa), 72), (handleOk v self r.saOut false && (!r.srtp || r.saOut != noSa), 74),
    (!r.audioIn || decide (12 ≤ r.jbMin ∧ r.jbMin ≤ 4800 ∧ r.jbMin % 6 = 0), 76),
    (!r.audioIn || decide (r.jbMin ≤ r.jbMax ∧ r.jbMax ≤ 9600 ∧ r.jbMax % 6 = 0), 78),
    (decide (16 ≤ r.bwMin ∧ r.bwMin ≤ r.bwMax), 80), (decide (r.bwMax ≤ 200000), 84), (decide (r.bwMin ≤ r.bwStart ∧ r.bwStart ≤ r.bwMax), 88),
    (!r.audioOut || rate r.arMin, 92), (!r.audioOut || (rate r.arMax && (r.arMin == 0 || r.arMax == 0 || decide (r.arMin ≤ r.arMax))), 94),
    (r.videoOut == 0 || decide (1 ≤ r.maxFps ∧ r.maxFps ≤ 30), 100), (r.reservedOk, 101), (r.videoOut != 2 || decide (r.layout < 4096), 102),
    (r.fbInterval == 0 || decide (40 ≤ r.fbInterval ∧ r.fbInterval ≤ 8000), 104), (!r.contrib || decide (r.contribMax ≤ 200000), 108)]

/-- A leg as LEG_CREATE stages it. -/
def newLeg (r : LegRec) (home : Nat) : Leg :=
  { st := .staged, rcd := r, home := home, move := none, prevSa := none, drainAt := 0, aLatch := none, vLatch := none, windows := [], outIdx := [],
    ckIdx := [], sent := [], retx := [], missing := [], highSeq := none, pliAt := none, firSeen := [], fbAt := 0,
    jbDepth := if r.audioIn then r.jbMin else 0, jbWant := if r.audioIn then r.jbMin else 0, jbDue := none, jit := { avg16 := 0, last := none }, audioTs := none, enc := (0, 0),
    txLog := [], reported := false, rxLog := [], rxNext := [], layers := [], dims := [], picEnd := none,
    adapt := { est := 1000 * r.bwStart, verdict := 0, m := Measures.none, holdUntil := 0, lastReport := 0, starved := false, audioRate := 0, audioFrame := 0,
               fec := false, budget := 0, tier := 0, wantTier := 0, tierSince := none, points := [], wantPoints := [], wantAt := [], pointSince := [] },
    flags := LegFlags.clear, cnt := [], statusSeq := 0, snap := [], slot := false, live := true, langFade := none, restore := none }

/-- The SEQ of a LEG_ID's latest status record, 0 where there has been none: it goes on over a new use of the LEG_ID (R113). -/
def seqOf (d : Dev) (n : Nat) : Nat := ((tget d.media.legs n).map (·.statusSeq)).getD 0

/-- A leg enters STAGED as its command is accepted (R83), which rewrites its status record (R113). -/
def stagedLeg (rcd : LegRec) (e : Nat) (d : Dev) : Dev :=
  writeStatus (onMedia d (fun m => { m with legs := tset m.legs rcd.id { newLeg rcd e with statusSeq := seqOf d rcd.id } })) rcd.id

/-- The leg becomes ACTIVE at its bell (R83): steering, associations, queues, inputs and the first settings. -/
def applyLegCreate (rcd : LegRec) (pick : Nat) (d : Dev) : Dev :=
  let n := rcd.id
  let l := { newLeg rcd pick with st := .active, slot := wantsSlot rcd, statusSeq := seqOf d n }
  let d := onMedia d (fun m => { m with legs := tset m.legs n l })
  let d := bindIf (bindIf d rcd.saIn) rcd.saOut
  let d := (legQueues d rcd).getD d
  let d := onConf (growReserve (steerLeg d n) rcd.conf) rcd.conf (fun c => { c with lastTalk := tdel c.lastTalk (inputKey d c n) })
  let d := onLeg d n (fun l => let a := adaptSettings d n l { l.adapt with lastReport := d.bell.tick }
    { l with fbAt := d.bell.tick, adapt := a, enc := (a.audioRate, a.audioFrame) })
  writeStatus (followVariant d n ((legOf d n).getD l)) n

/-- LEG_CREATE (R79, R84, R90, R91, R93, R96, R186): the streams that the leg will join are charged with it (R177, R188, R189). -/
def actLegCreate (rcd : LegRec) (v d : Dev) : ActResult :=
  if (legOf v rcd.id).isSome then .refuse .busy 0 noField
  else if ¬ legOk v rcd none then .refuse .badParam 0 (legFault v rcd none)
  else
    let (cyc, cred) := legCharge rcd
    if audioLegs v + b2n (isAudioLeg rcd) > 8192 ∨ videoLegs v + b2n (isVideoLeg rcd) > 4096 ∨ (wantsSlot rcd ∧ slotsHeld v ≥ 64) then .refuse .noResource 0 noField
    else
      match place v (hashedEngine v rcd) cyc cred [], confOf v rcd.conf with
      | some (e, w), some c =>
        if codecsDark v (applyLegCreate rcd e v) then .refuse .dark 0 noField
        else if ¬ mixTakes v c rcd.conf rcd.audioIn [e] (cyc, cred) ∨ (legQueues v rcd).isNone ∨ ¬ videoAdmits v (applyLegCreate rcd e v) then .refuse .noResource 0 noField
        else .stage false e [e] (waitOf w) (stagedLeg rcd e (wakeOpt d w))
      | _, _ => .refuse .noResource 0 noField
/-- What a leg takes with it as it leaves the data path (R83, R190): steering, inputs, sources and streams. -/
def detachLeg (d : Dev) (n : Nat) : Dev :=
  let d := onParse d (fun p => { p with exact := tdel p.exact n })
  let d := leaveStreams (dropSource d n) n
  onAud (onVid d (fun v => { v with subs := tdel v.subs n })) (fun a => { a with pcm := tdel a.pcm n, capt := tdel a.capt (legEp n) })

/-- A leg reaches FREE (R83): its associations are unbound, its slot and queues released; its record stays. -/
def freeLeg (d : Dev) (n : Nat) : Dev :=
  match tget d.media.legs n with
  | none => d
  | some l =>
    let d := (legHandles l true ++ legHandles l false).foldl unbindIf d
    let d := onLeg d n (fun l => { l with slot := false, prevSa := none, move := none, st := .free })
    freeLegQueues (writeStatus d n)

/-- A leg starts to drain (R83), or, if it is LOST, becomes FREE. -/
def drainLeg (d : Dev) (n : Nat) : Dev :=
  match legOf d n with
  | none => d
  | some l =>
    if l.st = .lost then freeLeg (detachLeg d n) n
    else if l.st = .draining then d
    else
      setLegSt (onLeg (detachLeg d n) n (fun l => { l with drainAt := d.bell.tick + 8, move := none })) n .draining

/-- LEG_DRAIN_END (R83): 8 ticks after it began to drain a leg is FREE. -/
def legDrainEnd (n : Nat) (d : Dev) : Dev :=
  match legOf d n with
  | none => d
  | some l => if l.st ≠ .draining ∨ d.bell.tick.toNat < l.drainAt.toNat then d else freeLeg d n

/-- LEG_DRAIN_END (R83). -/
def execLegDrainEnd (leg : Nat) (s : State) : Host.Outcome State Fault Refusal := nextDev s (legDrainEnd leg)

/-- A leg that a command may change: FREE is BAD_PARAM, DRAINING is BUSY, LOST is BUSY but for LEG_DESTROY (R84). -/
def legForCommand (v : Dev) (n : Nat) (destroy : Bool) : Except Status Leg :=
  match legOf v n with
  | none => .error .badParam
  | some l => if l.st = .draining ∨ (l.st = .lost ∧ ¬ destroy) then .error .busy else .ok l

/-- The bits of LEG_MODIFY's mask that select a field (R77, R81). -/
def legMaskBits : List Nat :=
  [2, 4, 5, 7, 44, 45, 46, 48, 52, 56, 60, 64, 65, 66, 67, 68, 69, 70, 71, 72, 74, 76, 78, 80, 84, 88, 92, 94, 96, 98, 100, 102, 104, 106, 108]

/-- Whether a mask selects nothing but the given bits. -/
def maskOk (mask : Nat) (bits : List Nat) : Bool := mask == sumN ((bits.filter (fun b => mask.testBit b)).map (fun b => 2 ^ b))

/-- A record with the fields a mask selects (R81). -/
def legMerge (o r : LegRec) (mask : Nat) : LegRec :=
  let m (b : Nat) : Bool := mask.testBit b
  { o with
    conf := if m 2 then r.conf else o.conf,
    audioIn := if m 4 then r.audioIn else o.audioIn, audioOut := if m 4 then r.audioOut else o.audioOut, srtp := if m 4 then r.srtp else o.srtp,
    nackReq := if m 4 then r.nackReq else o.nackReq, ecn := if m 4 then r.ecn else o.ecn, fixed := if m 4 then r.fixed else o.fixed,
    audioFec := if m 4 then r.audioFec else o.audioFec,
    videoOut := if m 5 then r.videoOut else o.videoOut, contrib := if m 5 then r.contrib else o.contrib,
    ctrlDest := if m 7 then r.ctrlDest else o.ctrlDest, egress := if m 44 then r.egress else o.egress, dscp := if m 45 then r.dscp else o.dscp,
    tci := if m 46 then r.tci else o.tci, aSsrcIn := if m 48 then r.aSsrcIn else o.aSsrcIn, aSsrcOut := if m 52 then r.aSsrcOut else o.aSsrcOut,
    vSsrcIn := if m 56 then r.vSsrcIn else o.vSsrcIn, vSsrcOut := if m 60 then r.vSsrcOut else o.vSsrcOut, aCodec := if m 64 then r.aCodec else o.aCodec,
    aPt := if m 65 then r.aPt else o.aPt, vCodecIn := if m 66 then r.vCodecIn else o.vCodecIn, vPtIn := if m 67 then r.vPtIn else o.vPtIn,
    vCodecOut := if m 68 then r.vCodecOut else o.vCodecOut, vPtOut := if m 69 then r.vPtOut else o.vPtOut, extDd := if m 70 then r.extDd else o.extDd,
    lang := if m 71 then r.lang else o.lang, saIn := if m 72 then r.saIn else o.saIn, saOut := if m 74 then r.saOut else o.saOut,
    jbMin := if m 76 then r.jbMin else o.jbMin, jbMax := if m 78 then r.jbMax else o.jbMax, bwMin := if m 80 then r.bwMin else o.bwMin,
    bwMax := if m 84 then r.bwMax else o.bwMax, bwStart := if m 88 then r.bwStart else o.bwStart, arMin := if m 92 then r.arMin else o.arMin,
    arMax := if m 94 then r.arMax else o.arMax, maxW := if m 96 then r.maxW else o.maxW, maxH := if m 98 then r.maxH else o.maxH,
    maxFps := if m 100 then r.maxFps else o.maxFps, layout := if m 102 then r.layout else o.layout, fbInterval := if m 104 then r.fbInterval else o.fbInterval,
    allocId := if m 106 then r.allocId else o.allocId, contribMax := if m 108 then r.contribMax else o.contribMax, reservedOk := r.reservedOk }

/-- The growth of a charge. -/
def chargeGrowth (old new : Nat × Nat) : Nat × Nat := (new.1 - old.1, new.2 - old.2)

/-- Whether work already on an engine may grow (R32). -/
def mayGrow (v : Dev) (e : Nat) (g : Nat × Nat) : Bool := g == (0, 0) || hasRoom v e g.1 g.2

/-- The leg changed at its bell (R81, R86, R134, R184, R186). -/
def applyLegModify (rcd : LegRec) (mask : Nat) (d : Dev) : Dev :=
  match legOf d rcd.id with
  | none => d
  | some l =>
    let n := rcd.id
    let r := legMerge l.rcd rcd mask
    let d := if r.saIn = l.rcd.saIn then d else bindIf ((legHandles l true).foldl unbindIf d) r.saIn
    let d := if r.saOut = l.rcd.saOut then d else bindIf (unbindIf d l.rcd.saOut) r.saOut
    let fade : Option (Nat × Nat) := if r.lang ≠ l.rcd.lang ∧ cParam d r.conf 6 ≠ 0 then some (l.rcd.lang, 0) else none
    let l' := { l with
      rcd := r, aLatch := none, vLatch := none, slot := wantsSlot r, langFade := if r.lang = l.rcd.lang then l.langFade else fade,
      prevSa := if r.saIn = l.rcd.saIn then l.prevSa else none,
      adapt := { l.adapt with est := max (1000 * r.bwMin) (min (1000 * r.bwMax) l.adapt.est), tier := if r.videoOut = 2 then l.adapt.tier else 0,
                              wantTier := if r.videoOut = 2 ∧ r.layout = l.rcd.layout then l.adapt.wantTier else 0 } }
    let d := onMedia d (fun m => { m with legs := tset m.legs n l' })
    let d := freeLegQueues ((legQueues d r).getD d)
    let d := if r.contrib then d else dropSource d n
    let d := if r.videoOut = 1 then d else onVid d (fun v => { v with subs := tdel v.subs n })
    let d := if r.videoOut = 2 then d else leaveStreams d n
    let d := legKeySweep (growReserve (steerLeg d n) r.conf) n
    let d := onLeg d n (fun l => { l with adapt := adaptSettings d n l l.adapt })
    followVariant d n ((legOf d n).getD l')

/-- LEG_MODIFY (R79, R81, R84, R186): the streams that the leg will join are charged with it (R177, R188, R189), and its growth on the target of a move too (R108). -/
def actLegModify (rcd : LegRec) (mask : Nat) (v d : Dev) : ActResult :=
  match legForCommand v rcd.id false with
  | .error st => .refuse st 0 (faultOf st 0)
  | .ok l =>
    let r := legMerge l.rcd rcd mask
    if ¬ maskOk mask legMaskBits ∨ (mask.testBit 4 ∧ rcd.ipv6 ≠ l.rcd.ipv6) ∨ ¬ legOk v r (some l) then .refuse .badParam 0 (if ¬ maskOk mask legMaskBits then 128 else if mask.testBit 4 ∧ rcd.ipv6 ≠ l.rcd.ipv6 then 4 else legFault v r (some l))
    else
      match confOf v r.conf with
      | none => .refuse .badParam 0 2
      | some c =>
        let g := chargeGrowth (legCharge l.rcd) (legCharge r)
        let joins := r.audioIn && (!l.rcd.audioIn || r.conf != l.rcd.conf)
        let after := applyLegModify rcd mask v
        let es := enginesOf l.home l.move
        if codecsDark v after then .refuse .dark 0 noField
        else if ¬ es.all (fun e => mayGrow v e g) ∨ ¬ mixTakes v c r.conf joins es g ∨ (wantsSlot r ∧ ¬ l.slot ∧ slotsHeld v ≥ 64)
            ∨ audioLegs after > 8192 ∨ videoLegs after > 4096 ∨ (legQueues v r).isNone ∨ ¬ videoAdmits v after then .refuse .noResource 0 noField
        else .stage false 0 [] none d

/-- LEG_DESTROY (R84). -/
def actLegDestroy (leg : Nat) (v d : Dev) : ActResult :=
  match legForCommand v leg true with
  | .error st => .refuse st 0 (faultOf st 0)
  | .ok _ => .stage false 0 [] none d

/-- The leg drains from its bell, or is FREE if it was LOST. -/
def applyLegDestroy (leg : Nat) (d : Dev) : Dev := drainLeg d leg

/-- LEG_REKEY (R84, R88). -/
def actLegRekey (leg saIn saOut : Nat) (v d : Dev) : ActResult :=
  match legForCommand v leg false with
  | .error st => .refuse st 0 (faultOf st 0)
  | .ok l => if handleOk v (some l) saIn true ∧ handleOk v (some l) saOut false then .stage false 0 [] none d else .refuse .badParam 0 (if ¬ handleOk v (some l) saIn true then 2 else 4)

/-- The new handles in force from their bell; the inbound handle replaced is tried for 800 ticks more (R88). A handle already in force in its direction changes nothing
there. -/
def applyLegRekey (leg saIn saOut : Nat) (d : Dev) : Dev :=
  match legOf d leg with
  | none => d
  | some l =>
    let d := if saIn = noSa ∨ saIn = l.rcd.saIn then d else
      let d := match l.prevSa with
        | none => d
        | some p => saUnbind d p.1
      onLeg (saBind d saIn) leg (fun x => { x with
        rcd := { x.rcd with saIn := saIn }, prevSa := if l.rcd.saIn = noSa then none else some (l.rcd.saIn, d.bell.tick + 800),
        flags := { x.flags with keyWarnIn := false } })
    let d := if saOut = noSa ∨ saOut = l.rcd.saOut then d else
      onLeg (saBind (unbindIf d l.rcd.saOut) saOut) leg (fun x => { x with rcd := { x.rcd with saOut := saOut }, flags := { x.flags with keyWarnOut := false } })
    legKeySweep d leg

/-- LEG_MIGRATE (R84, R108): a target of 0xFFFF is chosen under R91 from the leg's home, which it excludes. -/
def actLegMigrate (leg target : Nat) (v d : Dev) : ActResult :=
  match legForCommand v leg false with
  | .error st => .refuse st 0 (faultOf st 0)
  | .ok l =>
    let (cyc, cred) := legCharge l.rcd
    if target = 0xFFFF then
      match place v (some l.home) cyc cred [l.home] with
      | none => .refuse .noResource 0 noField
      | some (e, w) => .stage false e [e] (waitOf w) (wakeOpt d w)
    else if target > 255 then .refuse .badParam 0 2
    else if target = l.home then .stage false target [target] none d
    else
      match admitNamed v target cyc cred with
      | .error st => .refuse st 0 (faultOf st 2)
      | .ok w => .stage false target [target] (waitOf w) (wakeOpt d w)

/-- The migration begins at its bell (R107): DONE follows B2, or this bell where the target is the home. -/
def applyLegMigrate (leg pick : Nat) (ctx : ReplyCtx × List Nat) (d : Dev) : Dev × Bool :=
  match legOf d leg with
  | none => (d, true)
  | some l =>
    if pick = l.home then (d, true)
    else (setLegSt (onLeg d leg (fun l => { l with move := some (newMove d pick (some ctx)) })) leg .migrating, false)

/-- LEG_QUERY (R113): a leg never used reads as a record of zeros but its LEG_ID. -/
def actLegQuery (leg : Nat) (_v d : Dev) : ActResult :=
  if leg > 8191 then .refuse .badParam 0 0
  else
    match tget d.media.legs leg with
    | none => .read (0 :: leg :: List.replicate 50 0) d
    | some l => if l.snap = [] then .read ((statusVals d leg l 0).map (·.1)) d else .read l.snap d

/-! ### Conferences (R76, R80 to R82, R96, R604) -/

/-- Whether a conference record's fields lie in their ranges (R76). -/
def confRecOk (r : ConfRec) : Bool :=
  r.reservedOk && decide (r.id < 1024 ∧ (r.mixEngine < 256 ∨ r.mixEngine = 0xFFFF) ∧ r.topK ≤ 32 ∧ r.langCount ≤ 16 ∧ r.encSettings ≤ 8 ∧ r.inputReserve ≤ 8192)
    && (r.spans || r.tag == 0)

/-- The engine for a mix (R91): the one named, or placed from entry CONF_ID mod 512 of profile 0. -/
def placeMix (v : Dev) (r : ConfRec) (cyc cred : Nat) : Except Status (Nat × Option Nat) :=
  if r.mixEngine = 0xFFFF then
    match place v (entryEngine v 0 (r.id % 512)) cyc cred [] with
    | none => .error .noResource
    | some x => .ok x
  else
    match admitNamed v r.mixEngine cyc cred with
    | .error st => .error st
    | .ok w => .ok (r.mixEngine, w)

/-- The field of a conference record at fault (R76, R510). -/
def confFault (r : ConfRec) : Nat :=
  firstBad [(decide (r.id < 1024), 0), (decide (r.mixEngine < 256 ∨ r.mixEngine = 0xFFFF), 2), (decide (r.topK ≤ 32), 4), (decide (r.langCount ≤ 16), 5),
    (decide (r.encSettings ≤ 8), 7), (decide (r.inputReserve ≤ 8192), 8), (r.reservedOk, 10), (r.spans || r.tag == 0, 12)]

/-- CONF_CREATE (R76, R82, R93). -/
def actConfCreate (rcd : ConfRec) (v d : Dev) : ActResult :=
  if ¬ confRecOk rcd then .refuse .badParam 0 (confFault rcd)
  else if (confOf v rcd.id).isSome then .refuse .busy 0 noField
  else
    let c := confCharge rcd (confReserve rcd)
    match placeMix v rcd c.1 c.2 with
    | .error st => .refuse st 0 (faultOf st 2)
    | .ok (e, w) => .stage false e [] (waitOf w) (wakeOpt d w)

/-- A conference with no media yet. -/
def newConf (r : ConfRec) (mix : Nat) : Conf :=
  { rcd := r, mix := some mix, reserve := confReserve r, move := none, talkers := [], fading := [], ins := [], dyns := [], langs := [], outs := [], clip := 0,
    lastTalk := [], live := true, heldIns := [], heldOuts := [], restore := none }

/-- The conference created at its bell. -/
def applyConfCreate (rcd : ConfRec) (pick : Nat) (d : Dev) : Dev := onMedia d (fun m => { m with confs := tset m.confs rcd.id (newConf rcd pick) })

/-- A conference record with the fields a mask selects (R81). -/
def confMerge (o r : ConfRec) (mask : Nat) : ConfRec :=
  let m (b : Nat) : Bool := mask.testBit b
  { o with mixEngine := if m 2 then r.mixEngine else o.mixEngine, topK := if m 4 then r.topK else o.topK, langCount := if m 5 then r.langCount else o.langCount,
           spans := if m 6 then r.spans else o.spans, leaveFade := if m 6 then r.leaveFade else o.leaveFade, video := if m 6 then r.video else o.video,
           encSettings := if m 7 then r.encSettings else o.encSettings, inputReserve := if m 8 then r.inputReserve else o.inputReserve,
           tag := if m 12 then r.tag else o.tag, reservedOk := r.reservedOk }

/-- The reservation after CONF_MODIFY (R96). -/
def reserveAfter (c : Conf) (r : ConfRec) (mask : Nat) : Nat := if mask.testBit 8 then confReserve r else c.reserve

/-- CONF_MODIFY (R81, R82, R95, R96, R108, R604). -/
def actConfModify (rcd : ConfRec) (mask : Nat) (v d : Dev) : ActResult :=
  match confOf v rcd.id with
  | none => .refuse .badParam 0 0
  | some c =>
    let r := confMerge c.rcd rcd mask
    let n := reserveAfter c r mask
    let full := confCharge r n
    let es (m : Nat) : List Nat := enginesOf m c.move
    let grows (m : Nat) : Bool := (es m).all (fun e => mayGrow v e (chargeGrowth (confCharge c.rcd c.reserve) full))
    if ¬ maskOk mask [2, 4, 5, 6, 7, 8, 12] ∨ ¬ confRecOk r ∨ n < inputsInUse v rcd.id then .refuse .badParam 0 (if ¬ maskOk mask [2, 4, 5, 6, 7, 8, 12] then 32 else if ¬ confRecOk r then confFault r else 8)
    else if full.1 > 180000 then .refuse .noResource 0 noField
    else
      match c.mix with
      | none =>
        if ¬ mask.testBit 2 then .stage false 0x10000 [] none d
        else match placeMix v r full.1 full.2 with
          | .error st => .refuse st 0 (faultOf st 2)
          | .ok (e, w) => .stage false e [] (waitOf w) (wakeOpt d w)
      | some m =>
        if mask.testBit 2 ∧ r.mixEngine ≠ 0xFFFF ∧ r.mixEngine ≠ m then
          match admitNamed v r.mixEngine full.1 full.2 with
          | .error st => .refuse st 0 (faultOf st 2)
          | .ok w => if grows m then .stage false r.mixEngine [] (waitOf w) (wakeOpt d w) else .refuse .noResource 0 noField
        else if grows m then .stage false m [] none d
        else .refuse .noResource 0 noField

/-- Whether CONF_MODIFY moves a mix: MIX_ENGINE names another engine than it runs on (R108). -/
def confMoves (c : Conf) (rcd : ConfRec) (mask pick : Nat) : Bool :=
  decide (mask.testBit 2 = true ∧ rcd.mixEngine ≠ 0xFFFF ∧ c.mix.isSome ∧ pick < 256 ∧ c.mix ≠ some pick)

/-- The conference changed at its bell; a change of mix engine moves the mix (R108), and a conference without a mix gets one with
an empty talker set (R604). -/
def applyConfModify (rcd : ConfRec) (mask pick : Nat) (ctx : ReplyCtx × List Nat) (d : Dev) : Dev × Bool :=
  match confOf d rcd.id with
  | none => (d, true)
  | some c =>
    let r := confMerge c.rcd rcd mask
    let moves := confMoves c rcd mask pick
    let d := onConf d rcd.id (fun c => { c with
      rcd := r, reserve := reserveAfter c r mask,
      mix := if c.mix.isNone ∧ mask.testBit 2 ∧ pick < 256 then some pick else c.mix, talkers := if c.mix.isNone then [] else c.talkers,
      move := if moves then some (newMove d pick (some ctx)) else c.move })
    (d, !moves)

/-- Legs of a conference in a state other than FREE. -/
def confLegs (d : Dev) (c : Nat) : List Nat := (d.media.legs.filter (fun l => l.2.st != .free && l.2.rcd.conf == c)).map (·.1)

/-- CONF_DESTROY (R82). -/
def actConfDestroy (conf : Nat) (withLegs : Bool) (v d : Dev) : ActResult :=
  if (confOf v conf).isNone then .refuse .badParam 0 0
  else if ¬ withLegs ∧ confLegs v conf ≠ [] then .refuse .busy 0 noField
  else .stage false 0 [] none d

/-- The conference gone at its bell: its legs drain and its routes are cleared with it (R82, R153). -/
def applyConfDestroy (conf : Nat) (d : Dev) : Dev :=
  let d := (confLegs d conf).foldl drainLeg d
  let d := onAud d (fun a => { a with routes := a.routes.filter (fun r => r.2.rcd.conf != conf) })
  onMedia d (fun m => { m with confs := tdel m.confs conf })

/-- CONF_QUERY (R80, R604): the record's fields, the mix engine (0xFFFF without one), inputs in use and MIX_LOST. INPUT_RESERVE is the record's as it was given, not as R96
has grown it (DESIGN CHOICE, log 159). -/
def actConfQuery (conf : Nat) (_v d : Dev) : ActResult :=
  match confOf d conf with
  | none => .refuse .badParam 0 0
  | some c =>
    let r := c.rcd
    .read [r.id, r.mixEngine, r.topK, r.langCount, b2n r.spans + 2 * b2n r.leaveFade + 4 * b2n r.video, r.encSettings, r.inputReserve, r.tag,
      c.mix.getD 0xFFFF, inputsInUse d conf, b2n c.mix.isNone] d

/-! ### Placement tables and the status table (R92, R113) -/

/-- Whether a range of an indirection table is named rightly (R92). -/
def placeRangeOk (profile first count : Nat) : Bool := decide (profile ≤ 7 ∧ 1 ≤ count ∧ first + count ≤ 512)

/-- The field of PLACE_SET or PLACE_QUERY at fault (R92, R510). -/
def placeFault (profile first count : Nat) (engines : List Nat) : Nat :=
  firstBad [(decide (profile ≤ 7), 0), (decide (first < 512), 1), (decide (1 ≤ count ∧ first + count ≤ 512), 3),
    (false, 5 + engines.findIdx (fun e => decide (e ≥ 256)))]

/-- PLACE_SET (R92). -/
def actPlaceSet (profile first : Nat) (engines : List Nat) (_v d : Dev) : ActResult :=
  if placeRangeOk profile first engines.length ∧ engines.all (· < 256) then .stage false 0 [] none d else .refuse .badParam 0 (placeFault profile first engines.length engines)

/-- The entries in force from their bell; each leg whose hash names another engine now keeps its home by an exact-match rule. -/
def applyPlaceSet (profile first : Nat) (engines : List Nat) (d : Dev) : Dev :=
  let d := onParse d (fun p => { p with indir := (engines.zipIdx).foldl (fun t e => tset t (512 * profile + first + e.2) (e.1 + 2 ^ 15)) p.indir })
  ((d.media.legs.filter (fun l => (l.2.st == .active || l.2.st == .migrating) && l.2.rcd.hashProfile == profile)).map (·.1)).foldl steerLeg d

/-- PLACE_QUERY (R80, R92): each entry's engine with its admitted charge. An invalid entry shows the engine of its low 8 bits all the same (DESIGN CHOICE, log 159). -/
def actPlaceQuery (profile first count : Nat) (v d : Dev) : ActResult :=
  if placeRangeOk profile first count then
    .read (byteData ((List.range count).flatMap (fun i => let e := indirOf d profile (first + i) % 256; layBytes [(1, e), (3, engineCycles v e)]))) d
  else .refuse .badParam 0 (placeFault profile first count [])

/-- STATUS_TABLE_SET (R113). -/
def actStatusTableSet (offset : Nat) (enable : Bool) (_v d : Dev) : ActResult :=
  if offset % 0x200000 = 0 ∧ offset + 0x200000 ≤ pastureSize then .stage false (b2n enable) [] none d else .refuse .badParam 0 0

/-- The table set at its bell: once enabled it holds every leg's record, those of LOST and FREE legs as they stand (R113). -/
def applyStatusTableSet (offset : Nat) (enable : Bool) (d : Dev) : Dev :=
  let d := onMedia d (fun m => { m with statusBase := offset, statusEn := enable })
  if ¬ enable then d
  else d.media.legs.foldl (fun d e => if e.2.snap = [] then d
    else statusStore d e.2.home (offset + 256 * e.1) (statusBytes (e.2.snap.zip ((statusVals d e.1 e.2 0).map (·.2))))) d

/-! ### The end of a move (R107, R108) -/

/-- A move of kind 0 leg, 1 mix, 2 route, 3 trunk. -/
def moveOf (d : Dev) (kind n : Nat) : Option Move :=
  match kind with
  | 0 => (legOf d n).bind (·.move)
  | 1 => (confOf d n).bind (·.move)
  | 2 => (routeOf d n).bind (·.move)
  | 3 => (tget d.imc.trunks n).bind (·.move)
  | _ => none

/-- The engine that an object runs on. -/
def homeOf (d : Dev) (kind n : Nat) : Option Nat :=
  match kind with
  | 0 => (legOf d n).map (·.home)
  | 1 => (confOf d n).bind (·.mix)
  | 2 => (routeOf d n).map (·.engine)
  | _ => (tget d.imc.trunks n).map (·.engine)

/-- A move changed on its object. -/
def onMove (d : Dev) (kind n : Nat) (f : Option Move → Option Move) : Dev :=
  match kind with
  | 0 => onLeg d n (fun l => { l with move := f l.move })
  | 1 => onConf d n (fun c => { c with move := f c.move })
  | 2 => onRoute d n (fun r => { r with move := f r.move })
  | _ => onTrunk d n (fun t => { t with move := f t.move })

/-- The object of a move taken off it, on its new engine where `dest` names one. -/
def endMove (d : Dev) (kind n : Nat) (dest : Option Nat) : Dev :=
  match kind with
  | 0 => setLegSt (steerLeg (onLeg d n (fun l => { l with move := none, home := dest.getD l.home })) n) n .active
  | 1 => onConf d n (fun c => { c with move := none, mix := if dest.isSome then dest else c.mix })
  | 2 => onRoute d n (fun r => { r with move := none, engine := dest.getD r.engine })
  | _ => onTrunk d n (fun t => { t with move := none, engine := dest.getD t.engine })

/-- The reply a move owes: a move of the control cores' own owes none. -/
def moveReply (d : Dev) (m : Move) (st : Status) : Dev :=
  match m.ctx with
  | none => d
  | some (x, data) => answer (epochDone d x.epoch) x st (if st = .done then data else refusalData 0 noField)

/-- A move that a failure has ended comes to its end at the next bell (R111): on the target if the source failed after the copy, on the source if the target
failed. -/
def endFailed (kind : Nat) (d : Dev) (n : Nat) : Dev :=
  match moveOf d kind n with
  | none => d
  | some m =>
    match m.failed with
    | none => d
    | some (source, t) =>
      if d.bell.tick.toNat ≤ t.toNat then d
      else if source then
        let d := endMove d kind n (some m.target)
        let d := if kind = 0 then legEvent (writeStatus (onLeg d n (fun l => { l with flags := { l.flags with recovered := true } })) n) 6 n else d
        moveReply d m .done
      else moveReply (endMove d kind n none) m .busy

/-- MIGRATION_HANDOVER (R107): at B2 the target's output is taken, the CRCs are compared, and DONE follows; a move that a failure has ended is left to R111. `crcEqual` is
the comparison's outcome: the two engines do the same work on the same state (R107), so that only a fault that the state does not show can make them differ. -/
def migrationHandover (kind n : Nat) (crcEqual : Bool) (d : Dev) : Dev :=
  match moveOf d kind n with
  | none => d
  | some m =>
    if d.bell.tick.toNat < m.b0.toNat + 2 ∨ m.failed.isSome then d
    else
      let d := if kind = 0 ∧ ¬ crcEqual then
          legEvent (legCount (onLeg d n (fun l => { l with flags := { l.flags with diverged := true } })) n 20 1) 4 n
        else d
      moveReply (endMove d kind n (some m.target)) m .done

/-- MIGRATION_HANDOVER (R107). -/
def execMigrationHandover (kind number : Nat) (crcEqual : Bool) (s : State) : Host.Outcome State Fault Refusal := nextDev s (migrationHandover kind number crcEqual)

/-- MEDIA registers by offset (R114); the leg status window is the Pasture table. -/
def mediaReg (d : Dev) (off : Nat) : Nat :=
  match off with
  | 0xE400 => audioLegs d + 65536 * videoLegs d
  | 0xE404 => d.media.confs.length
  | 0xE410 => d.media.statusBase % 2 ^ 32
  | 0xE414 => d.media.statusBase / 2 ^ 32
  | 0xE418 => b2n d.media.statusEn
  | 0xE420 => d.media.eventLeg + 65536 * d.media.eventKind
  | _ => 0

end Sys2Proof.Machine
end

