-- ==== Sys2Proof/Machine/Flock.lean ====
section
/-! DEFINITION. The Flock's upkeep (chapter 06): overruns, failure and recovery (R109 to R111, R220 to R222), programs and firmware. -/

namespace Sys2Proof.Machine

/-! ### Overruns (R45, R46, R218) -/

/-- An engine's overrun of the closed tick: the map, its counter and the legs concerned. -/
def noteOverrun (d : Dev) (e : Nat) (legs : List Nat) : Dev :=
  let d := onBell d (fun b => { b with ovr :=
    { any := true, sticky := true, tick := b.tick - 1, map := if b.ovr.map.contains e then b.ovr.map else b.ovr.map ++ [e] } })
  let d := onEng d e (fun x => { x with ovr := satInc x.ovr })
  raiseLeaf (legs.foldl (fun d n => legCount d n 19 1) d) 2 0

/-- The legs homed on an engine. -/
def homedLegs (d : Dev) (e : Nat) : List Nat := (d.media.legs.filter (fun x => x.2.home == e && legCharged x.2)).map (·.1)

/-! ### Recovery (R109 to R111) -/

/-- Placement of what a failed engine carried: on engines other than those that failed, none switched on for it (R91, R109, R111). -/
def replace (d : Dev) (start : Option Nat) (c : Nat × Nat) (failed : List Nat) : Option Nat :=
  placeAmong d start (fun x => !failed.contains x && hasRoom d x c.1 c.2)

/-- A leg set to LOST (R109). -/
def loseLeg (d : Dev) (n : Nat) : Dev := legEvent (setLegSt d n .lost) 5 n

/-- A leg to be resumed from its checkpoint on an engine at the bell after next (R109); its block of the tick is zero (R21). -/
def resumeOn (d : Dev) (n e : Nat) : Dev :=
  let d := onAud d (fun a => { a with capt := tset a.capt (legEp n) sixZero })
  let d := freezeSource (onLeg d n (fun l => { l with home := e, restore := some (d.bell.tick + 1) })) n
  if ((legOf d n).map (fun l => l.st == .migrating)).getD false then setLegSt d n .active else d

/-- A leg of a failed engine restored (R109): on the spare that took the number, or elsewhere, or LOST. -/
def restoreLeg (d : Dev) (n : Nat) (failed : List Nat) (spare : Option Nat) : Dev :=
  match tget d.media.legs n, spare with
  | none, _ => d
  | some _, some e => resumeOn d n e
  | some l, none =>
    match replace d (hashedEngine d l.rcd) (legCharge l.rcd) failed with
    | some x => resumeOn d n x
    | none => loseLeg d n

/-- A failure of engine `e` as it touches a leg (R109, R111). A copy that is complete lets the target go on, and it takes over at the next bell; otherwise the leg is
restored, on the target where that has room. Where both engines have failed it is restored on neither. -/
def failLeg (e : Nat) (spare : Bool) (d : Dev) (n : Nat) : Dev :=
  let here : Option Nat := if spare then some e else none
  match legOf d n with
  | none => d
  | some l =>
    if ¬ (l.st = .active ∨ l.st = .migrating) then d
    else
      match l.move with
      | none => if l.home = e then restoreLeg d n [e] here else d
      | some m =>
        let off := onLeg d n (fun l => { l with move := none })
        if l.home = e ∧ m.target ≠ e then
          if m.failed.isSome then restoreLeg (moveReply off m .busy) n [e, m.target] none
          else if m.copyDone ∧ l.restore.isNone then onMove d 0 n (fun x => x.map (fun m => { m with failed := some (true, d.bell.tick) }))
          else if hasRoom off m.target (legCharge l.rcd).1 (legCharge l.rcd).2 then resumeOn (onLeg off n (fun l => { l with move := some m })) n m.target
          else restoreLeg (moveReply off m .busy) n [e] here
        else if m.target = e ∧ l.home ≠ e then
          if l.restore.isSome then restoreLeg (moveReply off m .busy) n [e] here
          else if srcGone l then restoreLeg (moveReply off m .busy) n [e, l.home] none
          else onMove d 0 n (fun x => x.map (fun m => { m with failed := some (false, d.bell.tick) }))
        else if l.home = e then restoreLeg (moveReply off m .busy) n [e] here
        else d

/-- The tick at which an object whose engine failed resumes (R109). -/
def setRestore (d : Dev) (kind n : Nat) (t : Option (BitVec 64)) : Dev :=
  match kind with
  | 1 => onConf d n (fun c => { c with restore := t })
  | 2 => onRoute d n (fun r => { r with restore := t })
  | 3 => onTrunk d n (fun x => { x with restore := t })
  | _ => d

/-- A mix, a route or a trunk of a failed engine (R109, R111, R604): the failure ends its move as it ends a leg's; otherwise it stays
on the spare or is placed elsewhere, and resumes with the legs. `home` is its engine, `c` its charge, `start` where placement starts. -/
def failOther (e : Nat) (spare : Bool) (kind n : Nat) (home : Option Nat) (c : Nat × Nat) (start : Option Nat) (d : Dev) : Dev :=
  let later (d : Dev) : Dev := setRestore d kind n (some (d.bell.tick + 1))
  let settle (failed : List Nat) (spare : Bool) (d : Dev) : Dev :=
    if spare then later d
    else match replace d start c failed with
      | some x => later (endMove d kind n (some x))
      | none => if kind = 1 then legEvent (onConf d n (fun x => { x with mix := none, talkers := [], fading := [] })) 7 n else later d
  match moveOf d kind n with
  | none => if home = some e then settle [e] spare d else d
  | some m =>
    if home = some e ∧ m.target ≠ e then
      if m.failed.isSome then settle [e, m.target] false (moveReply (endMove d kind n none) m .busy)
      else if m.copyDone then onMove d kind n (fun x => x.map (fun m => { m with failed := some (true, d.bell.tick) }))
      else
        let off := endMove d kind n none
        if hasRoom off m.target c.1 c.2 then moveReply (later (endMove d kind n (some m.target))) m .done
        else settle [e] spare (moveReply off m .busy)
    else if m.target = e ∧ home ≠ some e then
      match m.failed with
      | some (true, _) => settle (e :: home.toList) false (moveReply (endMove d kind n none) m .busy)
      | _ => onMove d kind n (fun x => x.map (fun m => { m with failed := some (false, d.bell.tick) }))
    else if home = some e then settle [e] spare (moveReply (endMove d kind n none) m .busy)
    else d

/-- One object of a kind under a failure of engine `e`. -/
def failMix (e : Nat) (spare : Bool) (d : Dev) (n : Nat) : Dev :=
  match confOf d n with
  | none => d
  | some c => failOther e spare 1 n c.mix (confCharge c.rcd c.reserve) (entryEngine d 0 (n % 512)) d
def failRoute (e : Nat) (spare : Bool) (d : Dev) (n : Nat) : Dev :=
  match routeOf d n with
  | none => d
  | some r => failOther e spare 2 n (some r.engine) routeCharge none d
def failTrunk (e : Nat) (spare : Bool) (d : Dev) (n : Nat) : Dev :=
  match tget d.imc.trunks n with
  | none => d
  | some t => failOther e spare 3 n (some t.engine) (trunkCharge t.rcd) none d

/-- Everything that a failed engine carried, legs in ascending LEG_ID order (R109). -/
def recoverAll (e : Nat) (spare : Bool) (d : Dev) : Dev :=
  let d := (d.media.legs.map (·.1)).foldl (failLeg e spare) d
  let d := (d.media.confs.map (·.1)).foldl (failMix e spare) d
  let d := (d.aud.routes.map (·.1)).foldl (failRoute e spare) d
  (d.imc.trunks.map (·.1)).foldl (failTrunk e spare) d

/-- An engine's core and kernel with nothing loaded. -/
def freshEngine (x : Eng) : Eng := { x with core := EngCore.reset, kern := EngKern.reset, hurt := false }

/-- Where an image's code and initial data are placed (R223). -/
def codeBase : Nat := 0x2000
def dataBase : Nat := 0x24000

/-- An engine with an image loaded by the Drove (R221, R223, R226, R227). -/
def loadEngine (img : ImageDesc) (x : Eng) : Eng :=
  let x := freshEngine x
  { x with core := { x.core with mem := memWrite (memWrite x.core.mem codeBase img.code) dataBase img.data } }

/-- An image's load into an engine's local memory as INTEG sees it (R444, R452). -/
def imageStored (img : ImageDesc) (d : Dev) (e : Nat) : Dev := localStored (localStored d e codeBase img.code.length) e dataBase img.data.length

/-- What a spare is loaded with: the failed engine's program, else its group's firmware (R221). -/
def reloadEngine (firmware : Option ImageDesc) (x : Eng) : Eng :=
  match x.prog, firmware with
  | some p, _ => loadEngine p.img x
  | none, some i => loadEngine i x
  | none, none => freshEngine x

/-- A group's engines loaded from Pasture, as its domain comes on (R555, R571). -/
def reloadGroup (d : Dev) (g : Nat) : Dev :=
  (List.range 16).foldl (fun d j => onEng d (16 * g + j) (fun x => if x.st = .out then x else reloadEngine (groupOf d g).image x)) d

/-- A customer program's tasks started at a bell, at their entry addresses (R217, R221, R226). -/
def startProgram (tick : BitVec 64) (x : Eng) : Eng :=
  match x.prog with
  | some p => if p.running then (kernelBell p.img.table tick [] [] x).1 else x
  | none => x

/-- A failed engine fenced, and the spare put in its place or the logical engine marked OUT (R220 to R222). -/
def engineFail (e : Nat) (d : Dev) : Dev :=
  let g := e / 16
  let d := raiseLeaf (onFGroup d g (fun x => { x with fenced := min (x.fenced + 1) 15 })) 19 3
  if (groupOf d g).spareUsed ∨ (groupOf d g).spareFailed then
    let d := onEng d e (fun x => { freshEngine x with st := .out, cycles := 0, prog := none })
    recoverAll e false (raiseLeaf d 19 5)
  else
    let d := onFGroup d g (fun x => { x with spareUsed := true })
    let d := onEng d e (fun x => startProgram d.bell.tick
      { reloadEngine (groupOf d g).image x with phys := 16, heartbeat := 0, prog := x.prog.map (fun p => { p with restarted := true }) })
    recoverAll e true (raiseLeaf d 19 4)

/-- ENGINE_FAILED (R109, R220): its work is recorded as an overrun of the tick it failed in (R46); while the control-core firmware is swapped
recovery waits (R577). -/
def engineFailed (e : Nat) (d : Dev) : Dev :=
  if e ≥ 256 ∨ (engOf d e).st = .out ∨ (engOf d e).st = .gated then d
  else if d.flock.failHeld.contains e then d
  else
    let d := noteOverrun d e (homedLegs d e)
    if d.aux.swapState = 1 then onFlock d (fun f => { f with failHeld := f.failHeld ++ [e] }) else engineFail e d

/-- The engines found failed at a bell by what they hold (R220): halted in the shadow set, or with an uncorrectable error in their local memory. A heartbeat
that did not advance is the event ENGINE_FAILED. -/
def failedNow (d : Dev) : List Nat :=
  (d.flock.engs.filter (fun e => (e.2.core.halted || e.2.hurt) && e.2.st != .out && e.2.st != .gated)).map (·.1)

/-- ENGINE_FAILED (R109). -/
def execEngineFailed (engine : Nat) (s : State) : Host.Outcome State Fault Refusal := nextDev s (engineFailed engine)

/-- Failures that waited for a firmware swap to end (R577). -/
def releaseFailures (d : Dev) : Dev :=
  let l := d.flock.failHeld
  l.foldl (fun d e => if (engOf d e).st = .out then d else engineFail e d) (onFlock d (fun f => { f with failHeld := [] }))

/-- The indices from which a restored leg goes on (R110): 4,096 beyond the checkpoint; an SSRC first used since the checkpoint goes 4,096 beyond what it has used (DESIGN
CHOICE, log 160). -/
def resumedIdx (l : Leg) : Tbl Nat := tmap l.outIdx (fun ssrc i => (tget l.ckIdx ssrc).getD i + 4096)

/-- A leg resumed at its bell (R109, R110): its exact-match rule names its engine, RECOVERED is set, and a contribution
is asked for an intra point. A migration abandoned onto its target is answered DONE (R111). -/
def resumeLeg (d : Dev) (n : Nat) : Dev :=
  match tget d.media.legs n with
  | none => d
  | some l =>
    match l.restore with
    | none => d
    | some t =>
      if d.bell.tick.toNat < t.toNat then d
      else
        let d := onLeg d n (fun l => { l with
          restore := none, move := none, outIdx := resumedIdx l, missing := [], highSeq := none, flags := { l.flags with recovered := true } })
        let d := legEvent (writeStatus (steerLeg d n) n) 6 n
        let d := if l.rcd.contrib then thawSource (requestPli d n) n else d
        match l.move with
        | none => d
        | some m => moveReply d m .done

/-- Mixes, routes and trunks whose engine failed resume (R109). -/
def resumeOthers (d : Dev) : Dev :=
  let over_ (t : Option (BitVec 64)) : Option (BitVec 64) := t.filter (fun t => decide (d.bell.tick.toNat < t.toNat))
  onImc (onAud (onMedia d (fun m => { m with confs := tmap m.confs (fun _ c => { c with restore := over_ c.restore }) }))
    (fun a => { a with routes := tmap a.routes (fun _ r => { r with restore := over_ r.restore }) }))
    (fun i => { i with trunks := tmap i.trunks (fun _ t => { t with restore := over_ t.restore }) })

/-- Every move that a failure has ended comes to its end (R111). -/
def endFailedMoves (d : Dev) : Dev :=
  let d := (d.media.legs.map (·.1)).foldl (endFailed 0) d
  let d := (d.media.confs.map (·.1)).foldl (endFailed 1) d
  let d := (d.aud.routes.map (·.1)).foldl (endFailed 2) d
  (d.imc.trunks.map (·.1)).foldl (endFailed 3) d

/-! ### Self-test (R195) -/

/-- The outcome of the built-in self-test for one group: `failed` lists physical engines that failed, which count as fenced (R195, R220). -/
def selfTestGroup (failed : List Nat) (d : Dev) (g : Nat) : Dev :=
  let bad := (List.range 16).filter (fun k => failed.contains (17 * g + k))
  let d := onFGroup d g (fun x => { x with fenced := min (x.fenced + bad.length + b2n (failed.contains (17 * g + 16))) 15 })
  if failed.contains (17 * g + 16) then
    bad.foldl (fun d k => onEng d (16 * g + k) (fun x => { x with st := .out })) (onFGroup d g (fun x => { x with spareFailed := true }))
  else
    match bad with
    | [] => d
    | k :: rest =>
      let d := onEng (onFGroup d g (fun x => { x with spareUsed := true })) (16 * g + k) (fun x => { x with phys := 16 })
      rest.foldl (fun d k => onEng d (16 * g + k) (fun x => { x with st := .out })) d

/-- The Flock after its self-test. -/
def flockSelfTest (failed : List Nat) (d : Dev) : Dev := (List.range 16).foldl (selfTestGroup failed) d

/-! ### Customer programs (R223 to R226) -/

/-- Whether an engine holds legs, mixes, routes, trunks or a program. -/
def engHolds (d : Dev) (e : Nat) : Bool := engineCharges d e != []

/-- Whether the engines that remain for media without some carry what is admitted on them (R32, R226). -/
def mediaFits (d : Dev) (without : List Nat) : Bool :=
  ((List.range 256).filter (fun e => !without.contains e && engPlaced d e)).all (fun e => fits d e 0 0)

/-- ENGINE_LOAD (R224, R226). -/
def actEngineLoad (offset : Nat) (engines : List Nat) (img : ImageDesc) (v d : Dev) : ActResult :=
  let _ := offset
  if engines = [] ∨ engines.any (fun e => decide (e ≥ 256)) ∨ ¬ engines.Nodup then .refuse .badParam 0 8
  else
    match verifyImage v img true with
    | some (st, r) => .refuse st r (faultOf st 0)
    | none =>
      if img.kind ≠ 1 then .refuse .badParam 5 0
      else if engines.any (fun e => !domOn v (17 + e / 16)) then .refuse .dark 0 noField
      else if engines.any (engHolds v) then .refuse .busy 0 noField
      else if engines.any (fun e => !engPlaced v e) ∨ ¬ mediaFits v engines then .refuse .noResource 0 noField
      else if engines.any (fun e =>
          decide (img.credits * (engines.filter (fun x => x / 16 == e / 16)).length + groupCredits v (e / 16) > allotOf v (e / 16))) then .refuse .noResource 0 noField
      else .stage false 0 [] none d

/-- The engines leave placement at the command's bell, and the Drove loads the image into each, charged to its group's class (R209, R226). -/
def applyEngineLoad (offset : Nat) (engines : List Nat) (img : ImageDesc) (ctx : ReplyCtx) (d : Dev) : Dev × Bool :=
  let d := engines.foldl (fun d e => onEng (imageStored img (chargeClass d (e / 16) (lineCount offset img.size)) e) e (fun x =>
    { loadEngine img x with st := .loading, prog := some { img := img, offset := offset, running := false, restarted := false } })) d
  (onFlock d (fun f => { f with loads := f.loads ++ [{ engines := engines, since := d.bell.tick, ctx := ctx }] }), false)

/-- Loads begun at an earlier bell: their tasks start, and DONE follows (R226). -/
def finishLoads (d : Dev) : Dev :=
  d.flock.loads.foldl (fun d j =>
    if d.bell.tick.toNat ≤ j.since.toNat then d
    else
      let d := j.engines.foldl (fun d e => onEng d e (fun x => if x.st ≠ .loading then x else
        startProgram d.bell.tick { x with st := .customer, prog := x.prog.map (fun p => { p with running := true }) })) d
      answer (epochDone (onFlock d (fun f => { f with loads := f.loads.filter (fun k => k != j) })) j.ctx.epoch) j.ctx .done []) d

/-- ENGINE_UNLOAD (R226). -/
def actEngineUnload (engines : List Nat) (_v d : Dev) : ActResult :=
  if engines.any (fun e => decide (e ≥ 256)) then .refuse .badParam 0 1 else .stage false 0 [] none d

/-- The program stops and its engines return to placement at the same bell, those of a load that is still under way among them; their groups' firmware runs on them again. -/
def applyEngineUnload (engines : List Nat) (d : Dev) : Dev :=
  let d := onFlock d (fun f => { f with loads := f.loads.map (fun j => { j with engines := j.engines.filter (fun e => !engines.contains e) }) })
  engines.foldl (fun d e => onEng d e (fun x => if x.prog.isNone then x else reloadEngine (groupOf d (e / 16)).image { x with st := .media, prog := none })) d

/-! ### Omselys firmware (R227) -/

/-- The charges of the legs, mixes and routes that a group's engines carry. -/
def drainCharges (d : Dev) (g : Nat) : List (Nat × Nat) :=
  (d.media.legs.filter (fun x => legCharged x.2 && x.2.home / 16 == g)).map (fun x => legCharge x.2.rcd)
    ++ (d.media.confs.filter (fun x => (x.2.mix.map (· / 16)) == some g)).map (fun x => confCharge x.2.rcd x.2.reserve)
    ++ (d.aud.routes.filter (fun x => x.2.engine / 16 == g)).map (fun _ => routeCharge)

/-- Whether a list of charges fits on the engines outside a group, each on the least charged engine with room (R32, R227). -/
def fitAll (d : Dev) (g : Nat) (put : List (Nat × Nat × Nat)) (cs : List (Nat × Nat)) : Bool :=
  match cs with
  | [] => true
  | c :: rest =>
    let more (e : Nat) : Nat := sumN ((put.filter (fun p => p.1 == e)).map (·.2.1))
    let moreC (k : Nat) : Nat := sumN ((put.filter (fun p => p.1 / 16 == k)).map (·.2.2))
    match (List.range 256).find? (fun e => e / 16 != g && hasRoom d e (c.1 + more e) (c.2 + moreC (e / 16))) with
    | none => false
    | some e => fitAll d g ((e, c.1, c.2) :: put) rest

/-- GROUP_UPDATE (R224, R227). -/
def actGroupUpdate (group offset : Nat) (img : ImageDesc) (v d : Dev) : ActResult :=
  let _ := offset
  if group > 15 then .refuse .badParam 0 0
  else
    match verifyImage v img true with
    | some (st, r) => .refuse st r (faultOf st 1)
    | none =>
      if img.kind ≠ 0 then .refuse .badParam 5 1
      else if ¬ domOn v (17 + group) then .refuse .dark 0 noField
      else if (groupOf v group).st ≠ .ready ∨ (groupOf v group).update.isSome ∨ (List.range 16).any (fun k => (engOf v (16 * group + k)).prog.isSome) then .refuse .busy 0 noField
      else if ¬ fitAll v group [] (drainCharges v group) then .refuse .noResource 0 noField
      else .accepted true (fun x => onFGroup d group (fun f => { f with update := some (img, x) }))

/-- Whether a group has nothing left to migrate. -/
def groupEmpty (d : Dev) (g : Nat) : Bool :=
  !(d.media.legs.any (fun x => legCharged x.2 && x.2.home / 16 == g)) && !(d.media.confs.any (fun x => (x.2.mix.map (· / 16)) == some g))
    && !(d.aud.routes.any (fun x => x.2.engine / 16 == g))

/-- Step 1 of R227 at the bell that follows acceptance. -/
def beginDrains (d : Dev) : Dev :=
  (List.range 16).foldl (fun d g =>
    match (groupOf d g).update with
    | some (_, x) => if (groupOf d g).st = .ready then epochDone (onFGroup d g (fun f => { f with st := .draining })) x.epoch else d
    | none => d) d

/-- GROUP_UPDATE_LOAD: the bell after the last migration the engines are loaded (R227). An unused spare is loaded with the image that it would take over
with, and carries no state until then (R194). -/
def execGroupUpdateLoad (group : Nat) (s : State) : Host.Outcome State Fault Refusal :=
  nextDev s (fun d =>
    match (groupOf d group).update with
    | none => d
    | some (img, _) =>
      if (groupOf d group).st ≠ .draining ∨ ¬ groupEmpty d group then d
      else (List.range 16).foldl (fun d k => onEng d (16 * group + k) (fun x => if x.st = .out then x else loadEngine img x)) (onFGroup d group (fun f => { f with st := .loading })))

/-- GROUP_UPDATE_DONE: the engines start and the group returns to placement (R227). -/
def execGroupUpdateDone (group : Nat) (s : State) : Host.Outcome State Fault Refusal :=
  nextDev s (fun d =>
    match (groupOf d group).update with
    | none => d
    | some (img, x) =>
      if (groupOf d group).st ≠ .loading then d
      else followUp (raiseLeaf (onFGroup d group (fun f => { f with st := .ready, image := some img, update := none })) 19 6) x .done [])

/-! ### Queries and registers (R225, R228, R605) -/

/-- ENG_STATE_n. -/
def engStateReg (x : Eng) : Nat :=
  (match x.st with | .media => 0 | .customer => 1 | .loading => 2 | .out => 3 | .gated => 4) + 256 * b2n (x.kern.suspended != []) + 65536 * x.phys

/-- ENG_FAULT_n. -/
def engFaultReg (x : Eng) : Nat := x.faultKind + 256 * (x.faultTask % 256) + 65536 * x.faultCount

/-- GROUP_STATE_g. -/
def groupStateReg (g : FGroup) : Nat :=
  (match g.st with | .ready => 0 | .draining => 1 | .loading => 2 | .gated => 3) + 4 * b2n g.spareUsed + 16 * g.fenced

/-- The image that runs on an engine: a customer program, or its group's firmware; none for an OUT engine. -/
def runningImage (d : Dev) (e : Nat) : Option ImageDesc :=
  if (engOf d e).st = .out then none
  else match (engOf d e).prog with
    | some p => some p.img
    | none => (groupOf d (e / 16)).image

/-- FLOCK_QUERY (R225). -/
def actFlockQuery (engine : Nat) (v d : Dev) : ActResult :=
  if engine > 255 then .refuse .badParam 0 0
  else
    let x := engOf d engine
    let i := runningImage d engine
    .read [engStateReg x, x.phys, engineCycles v engine, engFaultReg x, x.faultPc.toNat, (i.map (·.programId)).getD 0, (i.map (·.version)).getD 0] d

/-- Groups whose spare is unused. -/
def sparesFree (d : Dev) : Nat := ((List.range 16).filter (fun g => !(groupOf d g).spareUsed && !(groupOf d g).spareFailed)).length

/-- FLOCK registers by offset (R228). -/
def flockReg (d : Dev) (off : Nat) : Nat :=
  if off = 0 then 272 + 65536 * 256
  else if off = 4 then sparesFree d
  else if 0x100 ≤ off ∧ off < 0x140 then groupStateReg (groupOf d ((off - 0x100) / 4))
  else if 0x1000 ≤ off ∧ off < 0x3000 then
    let x := engOf d ((off - 0x1000) / 0x20)
    match (off - 0x1000) % 0x20 with
    | 0x00 => engStateReg x
    | 0x04 => x.ovr.toNat
    | 0x08 => engFaultReg x
    | 0x0C => x.faultPc.toNat
    | 0x10 => x.mboxDrop.toNat
    | 0x14 => x.heartbeat.toNat
    | 0x18 => if x.st = .out then 0 else x.cycles
    | _ => 0
  else 0

end Sys2Proof.Machine
end

