-- ==== Sys2Proof/Machine/Imc.lean ====
section
/-! DEFINITION. The isochronous media container (chapter 09): frames, alignment, pointer, buffer, parity, alarms and the trunk commands. -/

namespace Sys2Proof.Machine

/-! ### The frame (R297, R298, R308) -/

/-- A trunk's frame length (R297). -/
def imcLen (channels : Nat) : Nat := 16 + 21 * channels

/-- Eight bits of the scrambler on a byte, first bit on bit 7: the register shifts toward bit 22, and its output, bit 22 XOR bit 17,
comes in at bit 0 (R298; the tap convention under log 31). -/
def scrByte (s : BitVec 23) (b acc : Byte) (n : Nat) : Byte × BitVec 23 :=
  match n with
  | 0 => (acc, s)
  | n + 1 =>
    let o := s.getLsbD 22 ^^ s.getLsbD 17
    scrByte ((s <<< 1) ||| (if o then 1 else 0)) b ((acc <<< 1) ||| (if o ^^ b.getLsbD n then 1 else 0)) n

/-- Bytes through the scrambler. -/
def scrBytes (s : BitVec 23) (bs : List Byte) : List Byte :=
  match bs with
  | [] => []
  | b :: r => let q := scrByte s b 0 8; q.1 :: scrBytes q.2 r

/-- A payload scrambled, or descrambled, for a frame number (R298). -/
def imcScramble (fn : Nat) (bs : List Byte) : List Byte := scrBytes (BitVec.ofNat 23 (0x5B * 65536 + fn % 65536)) bs

/-- The XOR of 16-bit words, first byte high, an odd last byte paired with zero (R308). -/
def bipWords (bs : List Byte) (acc : BitVec 16) : BitVec 16 :=
  match bs with
  | [] => acc
  | [a] => acc ^^^ (a.setWidth 16 <<< 8)
  | a :: b :: r => bipWords r (acc ^^^ (a.setWidth 16 <<< 8) ^^^ b.setWidth 16)

/-- BIP-16 of a frame as sent: bytes 4 onward (R308). -/
def bip16 (frame : List Byte) : BitVec 16 := bipWords (frame.drop 4) 0

/-- The payload of blocks by channel: slot by slot, 24 bits each, unused slots zero (R297). -/
def imcPayload (chans : List (List Int)) : List Byte :=
  ((List.range 7).map (fun s => (chans.map (fun c => beBytes (twos 24 (c.getD s 0)) 3)).flatten)).flatten

/-- A frame (R297). -/
def imcFrame (fn pointer flags : Nat) (bip : BitVec 16) (chans : List (List Int)) : List Byte :=
  let head := beBytes fn 2 ++ beBytes pointer 2 ++ [BitVec.ofNat 8 chans.length, BitVec.ofNat 8 flags] ++ beBytes bip.toNat 2
  [0x3C#8, 0x5A#8, 0x96#8, 0xE1#8] ++ head ++ beBytes (crc16 head).toNat 2 ++ [0, 0] ++ imcScramble fn (imcPayload chans)

/-- A number at bytes `i` onward, most significant first. -/
def beField (bs : List Byte) (i n : Nat) : Nat := beAt bs i n

/-- Whether the alignment word stands at the front, and whether a correct HCRC follows it (R301). -/
def fawAt (bs : List Byte) : Bool := bs.take 4 == [0x3C#8, 0x5A#8, 0x96#8, 0xE1#8]
def imcMatch (bs : List Byte) : Bool := fawAt bs && (crc16 ((bs.drop 4).take 8)).toNat == beField bs 12 2

/-! ### Counters and leaf causes (R316 to R318) -/

/-- Counter `i` of a trunk advanced, by its order from 0x10: 0 FRAMES_RX, 1 HCRC_ERR, 2 FN_ERR, 3 BIP_ERR, 4 PTR_INC, 5 PTR_DEC, 6 PTR_JUMP,
7 PTR_VIOL, 8 SLIPS, 9 LOF_COUNT. -/
def trkCount (i n : Nat) (t : Trunk) : Trunk := { t with cnt := tupd t.cnt i 0 (satAdd · n) }

/-- A leaf cause of a trunk: word 7, and its bit of EVENT_MAP. -/
def trkLeaf (d : Dev) (t bit : Nat) : Dev := raiseLeaf (onImc d (fun i => { i with eventMap := i.eventMap ||| (1#64 <<< t) })) 7 bit

/-- A trunk that raises a cause with its change. -/
abbrev TrkStep := Trunk × List Nat

/-! ### Pointer (R303 to R305) -/

/-- An arrival that is neither P nor an acceptance: eight in a row declare LOP (R305). -/
def noMatchPtr (t : Trunk) : TrkStep :=
  let t := { t with noAcc := t.noAcc + 1 }
  if t.noAcc ≥ 8 ∧ ¬ t.lop ∧ t.p.isSome then ({ t with lop := true }, [1]) else (t, [])

/-- An accepted pointer value (R304, R305): a justification by one, or a jump, which empties the buffer. The number is the samples the
frame carries. -/
def acceptPtr (t : Trunk) (v : Nat) : TrkStep × Nat :=
  let t' := { t with p := some v, run := none, sinceAcc := 0, noAcc := 0, lop := false }
  match t.p with
  | some p =>
    if ¬ t.lop ∧ v = (p + 1) % 65536 then ((trkCount 4 1 t', []), 7)
    else if ¬ t.lop ∧ (v + 1) % 65536 = p then ((trkCount 5 1 t', []), 5)
    else ((trkCount 6 1 { t' with fifo := [], refill := true, unity := true }, [6]), 6)
  | none => ((trkCount 6 1 { t' with fifo := [], refill := true, unity := true }, [6]), 6)

/-- An arrival of a pointer value (R304). -/
def arrivePtr (t : Trunk) (v : Nat) : TrkStep × Nat :=
  let t := { t with sinceAcc := t.sinceAcc + 1 }
  if t.p = some v then (({ t with run := none, noAcc := 0 }, []), 6)
  else if t.p.isSome ∧ t.sinceAcc ≤ 3 then (noMatchPtr (trkCount 7 1 t), 6)
  else
    let k : Nat := match t.run with
      | some (r, k) => if r = v then k + 1 else 1
      | none => 1
    if k ≥ 3 then acceptPtr t v else (noMatchPtr { t with run := some (v, k) }, 6)

/-! ### Alignment (R301) -/

/-- The stream from its first match on, or the bytes that may still begin one. -/
def huntFrom (bs : List Byte) : List Byte :=
  match bs with
  | [] => []
  | b :: r => if (b :: r).length < 14 ∨ imcMatch (b :: r) then b :: r else huntFrom r

/-- The pointer's run and value discarded (R312). -/
def dropPtr (t : Trunk) : Trunk := { t with p := none, run := none, sinceAcc := 3, noAcc := 0, lop := false, refill := false, bipPrev := none }

/-- Back to HUNT: the interval in progress counts neither way (R309). -/
def toHunt (t : Trunk) : Trunk := { dropPtr t with align := .hunt, good := 0, miss := 0, ivBroken := true }

/-- Samples of a frame put in the pointer buffer, 96 per channel at most (R306). -/
def fillFifo (t : Trunk) (fn n : Nat) (payload : List Byte) : Trunk :=
  let c := t.rcd.channels
  let bs := imcScramble fn payload
  let smp (s k : Nat) : Int := (BitVec.ofNat 24 (beField bs (3 * (c * s + k)) 3)).toInt
  { t with fifo := (List.range c).map (fun k => (k, (tgetD t.fifo k [] ++ (List.range n).map (fun s => smp s k)).take 96)) }

/-- A condition entered raises its leaf cause (R310, R311). -/
def enterIf (was now : Bool) (bit : Nat) : List Nat := if now && !was then [bit] else []

/-- A frame at its expected position in SYNC (R301, R304, R308). A frame without its alignment word gives no payload, and its place
counts in the FN sequence (log 32). -/
def syncFrame (t : Trunk) (fr rest : List Byte) : TrkStep :=
  let exp := (t.fn + 1) % 65536
  let t := { t with seen := true }
  if ¬ fawAt fr then
    let t := { t with miss := t.miss + 1, fn := exp, bipPrev := none, buf := rest }
    if t.miss ≥ 4 then (trkCount 9 1 { toHunt t with lof := true, buf := fr.drop 1 ++ rest }, [0]) else (t, [])
  else
    let t := trkCount 0 1 { t with miss := 0, buf := rest }
    if ¬ imcMatch fr then (fillFifo (trkCount 1 1 { t with fn := exp, bipPrev := none }) exp 6 (fr.drop 16), [])
    else
      let fn := beField fr 4 2
      let t := if fn = exp then t else trkCount 2 1 t
      let fl := byteAt fr 9
      let ls := enterIf t.ais (fl / 2 % 2 == 1) 2 ++ enterIf t.rdi (fl % 2 == 1) 4
      let t := { t with fn := fn, ais := fl / 2 % 2 == 1, rdi := fl % 2 == 1 }
      let t := match t.bipPrev with
        | none => t
        | some b =>
          let e := ((List.range 16).filter (fun i => (b ^^^ BitVec.ofNat 16 (beField fr 10 2)).getLsbD i)).length
          trkCount 3 e { t with bipErrs := t.bipErrs + e }
      let q := arrivePtr t (beField fr 6 2)
      (fillFifo { q.1.1 with bipPrev := some (bip16 fr) } fn q.2 (fr.drop 16), ls ++ q.1.2)

/-- One step of the alignment machine: none when more bytes are needed. -/
def imcStep (t : Trunk) : Option TrkStep :=
  let l := imcLen t.rcd.channels
  match t.align with
  | .hunt =>
    let bs := huntFrom t.buf
    if bs.length < 14 then if bs.length = t.buf.length then none else some ({ t with buf := bs }, [])
    else
      let q := arrivePtr { t with buf := bs, align := .presync, good := 0, fn := beField bs 4 2 } (beField bs 6 2)
      some q.1
  | .presync =>
    let fr := (t.buf.drop (l * (t.good + 1))).take l
    if fr.length < l then none
    else if ¬ imcMatch fr ∨ beField fr 4 2 ≠ (t.fn + 1) % 65536 then some ({ toHunt t with buf := t.buf.drop 1 }, [])
    else if t.good = 0 then
      let q := arrivePtr { t with good := 1, fn := beField fr 4 2 } (beField fr 6 2)
      some q.1
    else
      let q := syncFrame { t with align := .sync, lop := true, miss := 0, fifo := [], refill := true } fr (t.buf.drop (3 * l))
      some (q.1, q.2 ++ (if q.1.lop then [1] else []))
  | .sync =>
    if t.buf.length < l then none else some (syncFrame t (t.buf.take l) (t.buf.drop l))

/-- The alignment machine run over what has come. -/
def imcRun (t : Trunk) (ls : List Nat) (fuel : Nat) : TrkStep :=
  match fuel with
  | 0 => (t, ls)
  | n + 1 =>
    match imcStep t with
    | none => (t, ls)
    | some q => imcRun q.1 (ls ++ q.2) n

/-- A trunk changed, with the causes its change raises. -/
def putTrunk (d : Dev) (n : Nat) (q : TrkStep) : Dev := q.2.foldl (fun d b => trkLeaf d n b) (onTrunk d n (fun _ => q.1))

/-- IMC_STREAM_RX: bytes of an inbound trunk (R300, R301). -/
def imcStream (n : Nat) (bytes : List Byte) (d : Dev) : Dev :=
  match tget d.imc.trunks n with
  | none => d
  | some t =>
    if ¬ t.rcd.inbound then d
    else
      let t := { t with buf := t.buf ++ bytes }
      putTrunk d n (imcRun t [] (t.buf.length + 4))

/-- IMC_STREAM_RX (R301). -/
def execImcStreamRx (trunk : Nat) (bytes : List Byte) (s : State) : Host.Outcome State Fault Refusal := nextDev s (imcStream trunk bytes)

/-! ### Degraded signal (R309) -/

/-- An interval of 800 frames ended. -/
def degInterval (t : Trunk) : TrkStep :=
  let fresh (t : Trunk) : Trunk := { t with bipErrs := 0, ivBroken := t.align != .sync }
  if t.ivBroken ∨ t.align ≠ .sync then (fresh { t with badRun := 0, goodRun := 0 }, [])
  else if t.bipErrs > t.rcd.degThr then
    let t := { t with badRun := t.badRun + 1, goodRun := 0 }
    if ¬ t.deg ∧ t.badRun ≥ t.rcd.degSet then (fresh { t with deg := true }, [3]) else (fresh t, [])
  else
    let t := { t with goodRun := t.goodRun + 1, badRun := 0 }
    (fresh { t with deg := t.deg && decide (t.goodRun < t.rcd.degClr) }, [])

/-- IMC_DEG_INTERVAL (R309). -/
def execImcDegInterval (trunk : Nat) (s : State) : Host.Outcome State Fault Refusal :=
  nextDev s (fun d => match tget d.imc.trunks trunk with
    | none => d
    | some t => putTrunk d trunk (degInterval t))

/-! ### The bell: buffer, insertion, outbound frames (R299, R306, R310, R311) -/

/-- The slice of an unbonded trunk: ACC0 in standard mode (R300). -/
def trunkSlice (d : Dev) (r : TrunkRec) : Nat := if d.acc.cfg.native then r.slice else 0

/-- Whether the trunk's port carries frames: its slice in O5, or a channel ACTIVE in the bond (R310). -/
def trunkPortUp (d : Dev) (r : TrunkRec) : Bool :=
  if r.bonded then (List.range 4).any (fun n => (tgetD d.acc.slices n Slice.reset).ch == .active)
  else (tgetD d.acc.slices (trunkSlice d r) Slice.reset).st == .o5

/-- Whether all-ones is delivered (R310). -/
def insertCond (t : Trunk) : Bool :=
  t.align != .sync || t.p.isNone || t.lop || t.refill || t.ais || (t.deg && t.rcd.degInsert) || !t.portUp

/-- Samples held in the pointer buffer. -/
def fifoFill (t : Trunk) : Nat := (tgetD t.fifo 0 []).length

/-- Six free samples of 24 bits, from draw `n` on. -/
def freeBlock (n : Nat) : List Int := (List.range 6).map (fun i => (BitVec.ofNat 24 (Config.free (n + i))).toInt)

/-- The six samples per channel taken at a bell (R306). While the fill has stood at TARGET the adapter is at unity and passes samples
on; otherwise the ratio's law and its interpolation are not stated, and what it gives, what it consumes and the average fill are free
within R306's bounds (log 33). The flag says that it slipped. -/
def readFifo (t : Trunk) (n : Nat) : Trunk × List (List Int) × Nat × Bool :=
  let f := fifoFill t
  let c := t.rcd.channels
  if t.unity ∧ f = t.rcd.target then
    ({ t with fifo := tmap t.fifo (fun _ b => b.drop 6), fill := f }, (List.range c).map (fun k => (tgetD t.fifo k []).take 6), n, false)
  else
    let slip := decide (f < 3 ∨ f > t.rcd.target + 36)
    let used : Nat := 5 + Config.free n % 3
    let used : Nat := if f < 3 then used - 1 else if f > t.rcd.target + 36 then used + 1 else used
    let t := { t with unity := false, fill := Config.free (n + 1) % 97, fifo := tmap t.fifo (fun _ b => b.drop used) }
    (if slip then trkCount 8 1 t else t, (List.range c).map (fun k => freeBlock (n + 2 + 6 * k)), n + 2 + 6 * c, slip)

/-- A refill ends once the buffer holds TARGET samples; what lies beyond them is discarded (R306; log 33). -/
def endRefill (t : Trunk) : Trunk :=
  if t.refill ∧ t.p.isSome ∧ t.align = .sync ∧ fifoFill t ≥ t.rcd.target then
    { t with refill := false, unity := true, fill := t.rcd.target, fifo := tmap t.fifo (fun _ b => b.drop (b.length - t.rcd.target)) }
  else t

/-- An inbound trunk at a bell: an expected frame that has not come is a miss, LOF ends, and the blocks of the tick are captured,
all-ones while a condition of R310 holds. -/
def trunkIn (d : Dev) (n : Nat) (t : Trunk) : Dev :=
  let miss := t.align == .sync && !t.seen
  let q : TrkStep :=
    if miss ∧ t.miss + 1 ≥ 4 then (trkCount 9 1 { toHunt t with lof := true }, [0])
    else if miss then ({ t with miss := t.miss + 1 }, [])
    else (t, [])
  let t := endRefill { q.1 with seen := false, portUp := trunkPortUp d t.rcd, lof := q.1.lof && !(q.1.align == .sync && q.1.p.isSome) }
  let ins := insertCond t
  let ready := t.align = .sync ∧ t.p.isSome ∧ ¬ t.refill
  let r := if ready then readFifo t d.freeCtr else (t, [], d.freeCtr, false)
  let t := { r.1 with inserting := ins }
  let absent := !engPlaced d t.engine && (engOf d t.engine).st == .out
  let capt := (List.range t.rcd.channels).foldl (fun m k =>
    if absent then tdel m (epKey 2 n k) else tset m (epKey 2 n k) (if ins then sixOnes else r.2.1.getD k sixOnes)) d.aud.capt
  putTrunk (onFree (onAud d (fun a => { a with capt := capt })) (fun _ => r.2.2.1)) n (t, q.2 ++ (if r.2.2.2 then [5] else []))

/-- The block of an outbound channel: all-ones without a route whose block is present (R299, R312). -/
def trunkChan (d : Dev) (n k : Nat) (engineOut : Bool) : List Int :=
  match d.aud.routes.find? (fun e => e.2.rcd.output && e.2.rcd.endType == 2 && e.2.rcd.endUnit == n && e.2.rcd.endIndex == k) with
  | none => sixOnes
  | some e => if e.2.absent ∨ engineOut then sixOnes else e.2.blk

/-- An outbound trunk at a bell: a frame is built and handed to its queue (R299, R300, R311). -/
def trunkOut (d : Dev) (n : Nat) (t : Trunk) : Dev :=
  let out := (engOf d t.engine).st == .out
  let chans := (List.range t.rcd.channels).map (fun k => trunkChan d n k out)
  let ais := chans.all (fun c => c == sixOnes)
  let rdi := t.rcd.inbound && (t.lof || t.lop)
  let fr := imcFrame (d.bell.tick.toNat % 65536) 0 (b2n rdi + 2 * b2n ais) t.outBip chans
  let d := onTrunk d n (fun t => { t with outBip := bip16 fr })
  let d := emit d .imcFrame n (fr.map (fun b => (b.toNat : Int)))
  match d.tm.queues.find? (fun q => q.2.owner == .trunk n && q.2.freeAt.isNone) with
  | none => d
  | some q => (tmAdmit d q.1 (devicePkt d fr.length 0 fr) 0).2

/-- The trunks' part of a bell. -/
def imcBell (d : Dev) : Dev :=
  if ¬ domOn d 8 then d
  else
    (d.imc.trunks.map (·.1)).foldl (fun d n =>
      let d := match tget d.imc.trunks n with
        | some t => if t.rcd.outbound then trunkOut d n t else d
        | none => d
      match tget d.imc.trunks n with
      | some t => if t.rcd.inbound then trunkIn d n t else d
      | none => d) d

/-! ### Commands (R313 to R315) -/

/-- Whether a trunk record's fields lie in their ranges (R313). -/
def trunkFieldsOk (r : TrunkRec) : Bool :=
  r.reservedOk && (r.inbound || r.outbound)
    && decide (r.trunk < 64 ∧ 1 ≤ r.channels ∧ r.channels ≤ 32 ∧ (r.engine < 256 ∨ r.engine = 0xFFFF) ∧ (r.bonded ∨ r.slice < 4) ∧ 6 ≤ r.target ∧ r.target ≤ 48
      ∧ 1 ≤ r.degThr ∧ r.degThr < 65536 ∧ 1 ≤ r.degSet ∧ r.degSet ≤ 100 ∧ 1 ≤ r.degClr ∧ r.degClr ≤ 100 ∧ r.portIn < 65536 ∧ r.portOut < 65536 ∧ r.allocId < 16384)

/-- The ports that a trunk uses. -/
def trunkPorts (r : TrunkRec) : List Nat := (if r.inbound then [r.portIn] else []) ++ (if r.outbound then [r.portOut] else [])

/-- Whether a route uses a trunk. -/
def trunkRouted (v : Dev) (n : Nat) : Bool := v.aud.routes.any (fun e => e.2.rcd.endType == 2 && e.2.rcd.endUnit == n)

/-- The root of a trunk's outbound queue (R284, R300). -/
def trunkRoot (d : Dev) (r : TrunkRec) : Nat :=
  if r.bonded then
    match (List.range 4).findSome? (fun n => ((tgetD d.acc.slices n Slice.reset).allocs.find? (fun e => e.2.bonded && e.2.id == r.allocId)).map (·.2.node)) with
    | some x => x
    | none => 0x10000 + 4 * 16384 + r.allocId
  else allocRoot d (trunkSlice d r) r.allocId

/-- The engine of a trunk (R32, R91): named, or where it stands, or placed from entry TRUNK of profile 0. -/
def placeTrunk (v : Dev) (r : TrunkRec) (old : Option Trunk) : Except Status (Nat × Option Nat) :=
  let c := trunkCharge r
  match old with
  | some o =>
    if r.engine = 0xFFFF ∨ r.engine = o.engine then
      if mayGrow v o.engine (chargeGrowth (trunkCharge o.rcd) c) then .ok (o.engine, none) else .error .noResource
    else match admitNamed v r.engine c.1 c.2 with
      | .error st => .error st
      | .ok w => .ok (r.engine, w)
  | none =>
    if r.engine = 0xFFFF then
      match place v (entryEngine v 0 r.trunk) c.1 c.2 [] with
      | none => .error .noResource
      | some x => .ok x
    else match admitNamed v r.engine c.1 c.2 with
      | .error st => .error st
      | .ok w => .ok (r.engine, w)

/-- The field of a trunk record at fault (R313, R314, R510); a port may not be in use by another trunk. -/
def trunkFault (v : Dev) (r : TrunkRec) : Nat :=
  let used (p : Nat) : Bool := v.imc.trunks.any (fun e => e.1 != r.trunk && (trunkPorts e.2.rcd).contains p)
  firstBad [(decide (r.trunk < 64), 0), (r.inbound || r.outbound, 1), (decide (1 ≤ r.channels ∧ r.channels ≤ 32), 2), (!r.bonded || v.acc.cfg.native, 3),
    (decide (r.engine < 256 ∨ r.engine = 0xFFFF), 4), (r.bonded || decide (r.slice < 4), 6), (decide (6 ≤ r.target ∧ r.target ≤ 48), 7),
    (decide (r.portIn < 65536) && !(r.inbound && used r.portIn), 8), (decide (r.portOut < 65536) && !(r.outbound && used r.portOut), 10),
    (decide (r.allocId < 16384), 12), (decide (1 ≤ r.degThr ∧ r.degThr < 65536), 14), (decide (1 ≤ r.degSet ∧ r.degSet ≤ 100), 16),
    (decide (1 ≤ r.degClr ∧ r.degClr ≤ 100), 17), (r.reservedOk, 18)]

/-- IMC_TRUNK_SET (R314). -/
def actImcTrunkSet (rcd : TrunkRec) (v d : Dev) : ActResult :=
  let old := tget v.imc.trunks rcd.trunk
  if ¬ trunkFieldsOk rcd ∨ (rcd.bonded ∧ ¬ v.acc.cfg.native)
      ∨ v.imc.trunks.any (fun e => e.1 != rcd.trunk && (trunkPorts e.2.rcd).any (fun p => (trunkPorts rcd).contains p)) then .refuse .badParam 0 (trunkFault v rcd)
  else
    let changes : Bool := match old with
      | none => false
      | some o => o.rcd.channels != rcd.channels || o.rcd.inbound != rcd.inbound || o.rcd.outbound != rcd.outbound || o.rcd.portIn != rcd.portIn || o.rcd.portOut != rcd.portOut
    if changes ∧ trunkRouted v rcd.trunk then .refuse .busy 0 noField
    else
      match placeTrunk v rcd old with
      | .error st => .refuse st 0 (faultOf st 4)
      | .ok (e, w) =>
        if rcd.outbound ∧ ((old.map (·.rcd.outbound)).getD false = false) ∧ (trunkQueue v (trunkRoot v rcd) rcd.trunk).isNone then .refuse .noResource 0 noField
        else .stage false e [e] (waitOf w) (wakeOpt d w)

/-- A trunk as its record comes into force: in HUNT (R301). -/
def newTrunk (r : TrunkRec) (e : Nat) (old : Option Trunk) : Trunk :=
  { rcd := r, engine := e, move := none, restore := none, buf := [], align := .hunt, good := 0, fn := 0, miss := 0, lof := false, p := none, run := none, sinceAcc := 3,
    noAcc := 0, lop := false, fifo := [], refill := false, unity := true, fill := 0, bipPrev := none, bipErrs := 0, ivBroken := true,
    badRun := 0, goodRun := 0, deg := false, ais := false, rdi := false, inserting := r.inbound, portUp := false,
    outBip := (old.map (·.outBip)).getD 0, cnt := (old.map (·.cnt)).getD [], seen := false }

/-- The binding of an inbound port (R374): slice × 65,536 + port, slice 4 for the bond. -/
def gemKey (d : Dev) (r : TrunkRec) : Nat := (if r.bonded then 4 else trunkSlice d r) * 65536 + r.portIn

/-- The bindings of a trunk taken off. -/
def unbindTrunk (d : Dev) (n : Nat) : Dev := onParse d (fun p => { p with gem := p.gem.filter (fun e => e.2 != .trunk n) })

/-- The record in force at its bell (R301, R314): queue, binding and charge follow it. -/
def applyImcTrunkSet (rcd : TrunkRec) (pick : Nat) (d : Dev) : Dev :=
  let n := rcd.trunk
  let old := tget d.imc.trunks n
  let same : Bool := match old with
    | some o => o.rcd.outbound && rcd.outbound && trunkRoot d o.rcd == trunkRoot d rcd
    | none => false
  let d := if same then d else freeOwned d (fun o => o == .trunk n)
  let d := if rcd.outbound ∧ ¬ same then ((trunkQueue d (trunkRoot d rcd) n).map (·.2)).getD d else d
  let d := unbindTrunk d n
  let d := if rcd.inbound then onParse d (fun p => { p with gem := tset p.gem (gemKey d rcd) (.trunk n) }) else d
  onImc d (fun i => { i with trunks := tset i.trunks n (newTrunk rcd pick old) })

/-- IMC_TRUNK_CLEAR (R315). -/
def actImcTrunkClear (trunk : Nat) (v d : Dev) : ActResult :=
  if (tget v.imc.trunks trunk).isNone then .refuse .badParam 0 0
  else if trunkRouted v trunk then .refuse .busy 0 noField
  else .stage false 0 [] none d

/-- The trunk removed at its bell. -/
def applyImcTrunkClear (trunk : Nat) (d : Dev) : Dev :=
  let d := unbindTrunk (freeOwned d (fun o => o == .trunk trunk)) trunk
  let d := onAud d (fun a => { a with capt := a.capt.filter (fun e => e.1 / 2 ^ 16 != epKey 2 trunk 0 / 2 ^ 16) })
  onImc d (fun i => { i with trunks := tdel i.trunks trunk })

/-- The registers of a trunk by offset within its 0x40 (R316). -/
def trunkReg (d : Dev) (n off : Nat) : Nat :=
  match tget d.imc.trunks n with
  | none => if off = 0 then 12 * 256 else 0
  | some t =>
    match off with
    | 0x00 => b2n t.rcd.inbound + 2 * b2n t.rcd.outbound + 4 * t.rcd.channels + 256 * t.rcd.target + 65536 * t.engine
    | 0x04 => (match t.align with | .hunt => 0 | .presync => 1 | .sync => 2) + 4 * b2n t.lof + 8 * b2n t.lop + 16 * b2n t.ais + 32 * b2n t.deg + 64 * b2n t.rdi + 128 * b2n t.inserting
    | 0x08 => t.p.getD 0 + 65536 * ((t.run.map (·.1)).getD 0)
    | 0x0C => (if t.refill then fifoFill t else t.fill) + 256 * ((t.run.map (·.2)).getD 0)
    | _ => if 0x10 ≤ off ∧ off ≤ 0x34 then (tgetD t.cnt ((off - 0x10) / 4) 0).toNat else 0

/-- IMC_TRUNK_QUERY (R315): record and registers; a trunk not configured is BAD_PARAM. -/
def actImcTrunkQuery (trunk : Nat) (_v d : Dev) : ActResult :=
  match tget d.imc.trunks trunk with
  | none => .refuse .badParam 0 0
  | some t =>
    let r := t.rcd
    .read ([r.trunk, b2n r.inbound + 2 * b2n r.outbound, r.channels, b2n r.degInsert + 2 * b2n r.bonded, r.engine, r.slice, r.target, r.portIn, r.portOut, r.allocId,
        r.degThr, r.degSet, r.degClr] ++ (List.range 14).map (fun i => trunkReg d trunk (4 * i))) d

/-- ALARM_MAP: the trunks that insert (R317). -/
def alarmMap (d : Dev) : Nat := sumN (d.imc.trunks.map (fun e => if e.2.inserting then 2 ^ e.1 else 0))

/-- IMC registers by offset (R316, R317). -/
def imcReg (d : Dev) (off : Nat) : Nat :=
  if 0x1000 ≤ off ∧ off < 0x2000 then trunkReg d ((off - 0x1000) / 0x40) ((off - 0x1000) % 0x40)
  else match off with
    | 0x00 => 64 + 256 * 32
    | 0x10 => alarmMap d % 2 ^ 32
    | 0x14 => alarmMap d / 2 ^ 32
    | 0x18 => d.imc.eventMap.toNat % 2 ^ 32
    | 0x1C => d.imc.eventMap.toNat / 2 ^ 32
    | _ => 0

end Sys2Proof.Machine
end

