-- ==== Sys2Proof/Machine/Drove.lean ====
section
/-! DEFINITION. The Drove (chapter 14): channels, descriptors, the choice of the next burst, bursts, faults and recovery. -/

namespace Sys2Proof.Machine

/-- Channel `c`. -/
def chanOf (d : Dev) (c : Nat) : Chan := tgetD d.drove.chans c Chan.reset

/-- The device with channel `c` changed. -/
def onChan (d : Dev) (c : Nat) (f : Chan → Chan) : Dev :=
  onDrove d (fun x => { x with chans := tupd x.chans c Chan.reset f })

/-- The priority that a channel acts at (R36, R435). -/
def chanPrio (d : Dev) (c : Nat) : Nat := if c ≥ 64 then min 11 (chanOf d c).prio else (chanOf d c).prio

/-- The class that a channel's burst charges (R429). -/
def chanClass (c : Nat) (x : DescIn) : Nat := if c ≥ 112 then 21 else x.cls

/-- A descriptor read from its 32 bytes (R428). -/
def parseDesc (bs : List Byte) : DescIn :=
  let f (o n : Nat) : Nat := leNat ((bs.drop o).take n)
  let sp := f 20 1
  let req := f 22 2
  let fl := f 24 1
  { src := f 0 8, dst := f 8 8, length := f 16 4, srcSpace := getField sp 0 3, dstSpace := getField sp 3 3, burst := getField (f 21 1) 0 3,
    req := getField req 0 8, reqEn := getField req 15 1 == 1, event := getField fl 0 1 == 1, last := getField fl 1 1 == 1,
    fixSrc := getField fl 2 1 == 1, fixDst := getField fl 3 1 == 1, link := getField fl 4 1 == 1, cls := f 26 1,
    reservedOk := decide (getField sp 6 2 = 0 ∧ getField (f 21 1) 3 5 = 0 ∧ getField req 8 7 = 0 ∧ getField fl 5 3 = 0 ∧ f 25 1 = 0 ∧ f 27 5 = 0) }

/-- The bytes of a burst (R428). -/
def burstBytes (x : DescIn) : Nat := 64 * 2 ^ x.burst

/-- Whether a peripheral request line is assigned (R433). -/
def lineExists (r : Nat) : Bool := decide (r < 20 ∨ (24 ≤ r ∧ r < 112))

/-- Whether a descriptor is in form (R428, R434, R438): a descriptor that uses a peripheral names an assigned line. -/
def descOk (c : Nat) (x : DescIn) : Bool :=
  x.reservedOk && decide (x.srcSpace ≤ 5 ∧ x.dstSpace ≤ 5 ∧ x.burst ≤ 6) && (decide (c ≥ 112) || decide (x.cls < 24))
    && (lineExists x.req || !(x.reqEn || x.srcSpace == 5 || x.dstSpace == 5))
    && (if x.link then x.length == 0 && x.src % 32 == 0
        else decide (1 ≤ x.length ∧ x.length ≤ 67108864)
          && (!x.reqEn || (x.length % burstBytes x == 0 && (x.srcSpace != 5 || x.fixSrc) && (x.dstSpace != 5 || x.fixDst))))

/-- Whether a channel may name a space (R429). -/
def mayName (c sp : Nat) : Bool := decide (sp ≤ 1) || (decide (2 ≤ sp ∧ sp ≤ 4) && decide (c ≤ 111)) || (sp == 5 && decide (c ≤ 63))

/-- Whether a descriptor runs descending (R437). -/
def runsDown (x : DescIn) : Bool :=
  x.srcSpace == x.dstSpace && !x.fixSrc && !x.fixDst && x.srcSpace != 5
    && (match x.srcSpace with
      | 2 => x.src / 2 ^ 32 % 256 == x.dst / 2 ^ 32 % 256
      | 4 => x.src / 2 ^ 32 == x.dst / 2 ^ 32
      | _ => true)
    && decide (x.src < x.dst ∧ x.dst < x.src + x.length)

/-- The least offset above `o` at which an address that starts at `a` crosses 4 KiB (R432). -/
def nextCut (a o : Nat) : Nat := o + (4096 - (a + o) % 4096)

/-- The latest offset at or below `o` at which the burst pattern starts again: a 4 KiB boundary of either side, or the start (R432). -/
def lastCut (x : DescIn) (o : Nat) : Nat :=
  let back (fixed : Bool) (a : Nat) : Nat := if fixed ∨ (a + o) % 4096 > o then 0 else o - (a + o) % 4096
  max (back x.fixSrc x.src) (back x.fixDst x.dst)

/-- The burst that holds offset `o`: its start and end (R432). -/
def burstAt (x : DescIn) (o : Nat) : Nat × Nat :=
  let r := lastCut x o
  let s := r + (o - r) / burstBytes x * burstBytes x
  let e := min (s + burstBytes x) x.length
  let e := if x.fixSrc then e else min e (nextCut x.src s)
  (s, if x.fixDst then e else min e (nextCut x.dst s))

/-- A channel halted by a fault (R438): its leaf is raised by owner (R441). -/
def haltChan (d : Dev) (c kind : Nat) (addr : BitVec 64) (dir fetching : Bool) : Dev :=
  raiseLeaf (onChan d c (fun x => { x with st := .halted, errKind := kind, errAddr := addr, dir := dir, fetching := fetching })) 20
    (if c < 64 then 0 else if c < 112 then 1 else 2)

/-- A channel started: the chain is fetched from CH_DESC (R430). -/
def startChan (d : Dev) (c : Nat) : Dev :=
  onChan d c (fun x => { x with st := .active, cur := x.descAddr, desc := none, left := 0, buf := none, descending := false, fetching := false })

/-- A chain at its end: a held start runs at once, else IDLE or WAITING (R430, R431). -/
def endChain (d : Dev) (c : Nat) : Dev :=
  let x := chanOf d c
  let d := onChan d c (fun x => { x with desc := none, left := 0, buf := none, descending := false })
  if x.pending then startChan (onChan d c (fun x => { x with pending := false })) c
  else onChan d c (fun x => { x with st := if x.armed then .waiting else .idle })

/-- The chain goes on behind the descriptor in progress. -/
def nextDesc (d : Dev) (c : Nat) : Dev :=
  onChan d c (fun x => { x with st := .active, cur := x.cur + 32, desc := none, left := 0, buf := none, descending := false, fetching := false })

/-- A descriptor in hand: a link is followed, a fault of form or permission halts, else the descriptor runs (R428, R437, R438). -/
def takeDesc (d : Dev) (c : Nat) (x : DescIn) : Dev :=
  let at_ := (chanOf d c).cur
  if ¬ descOk c x then haltChan d c 5 at_ false true
  else if x.link then onChan d c (fun h => { h with cur := BitVec.ofNat 64 x.src })
  else if ¬ mayName c x.srcSpace ∨ ¬ mayName c x.dstSpace then haltChan d c 4 at_ false true
  else onChan d c (fun h => { h with desc := some x, left := x.length, descending := runsDown x, buf := none })

/-- A channel fetches its next descriptor (R430, R438, R442), from Pasture on the Drove's own credits (R24, R25). -/
def fetchDesc (m : Memory) (b : BurstIn) (d : Dev) (c : Nat) : Dev :=
  let h := chanOf d c
  if h.descSpace ≠ 0 ∧ h.descSpace ≠ 1 ∧ h.descSpace ≠ 3 then haltChan d c 5 h.cur false true
  else if ¬ mayName c h.descSpace then haltChan d c 4 h.cur false true
  else if h.descSpace = 0 ∧ ¬ domOn d 16 ∨ h.descSpace = 1 ∧ ¬ domOn d 38 then haltChan d c 3 h.cur false true
  else if h.descSpace = 0 ∧ h.cur.toNat + 32 > pastureSize ∨ h.descSpace = 3 ∧ h.cur.toNat + 32 > 8388608 then haltChan d c 6 h.cur false true
  else
    let d := if h.descSpace = 0 then chargeClass d 21 (lineCount h.cur.toNat 32) else d
    match tget b.fetchFail c with
    | some f => haltChan d c f.kind f.addr false true
    | none =>
      match (if h.descSpace = 0 then pastRead d h.cur.toNat 32 else (none, d)) with
      | (some w, e) => haltChan e c 2 (BitVec.ofNat 64 w) false true
      | (none, e) => takeDesc e c (parseDesc (if h.descSpace = 0 then memRead m h.cur.toNat 32 else tgetD b.fetchBytes c []))

/-- The domain that an access of a space needs (R438): by engine group, and by the peripheral of a line (R433). -/
def spaceDomain (sp addr req : Nat) : Option Nat :=
  match sp with
  | 0 => some 16 | 1 => some 38 | 2 => some (17 + addr / 2 ^ 32 % 256 / 16) | 3 => some 2 | 4 => some 15
  | _ => if req < 20 then some 37 else if 24 ≤ req ∧ req < 40 then some (33 + (req - 24) / 4) else if 40 ≤ req ∧ req < 104 then some 8
         else if 104 ≤ req ∧ req < 112 then some 13 else none

/-- Whether `n` bytes at an address lie inside their space (R429). -/
def inSpace (sp addr n : Nat) : Bool :=
  match sp with
  | 0 => decide (addr + n ≤ pastureSize)
  | 1 => decide (addr + n ≤ 2 ^ 64)
  | 2 => decide (addr / 2 ^ 32 < 256 ∧ addr % 2 ^ 32 + n ≤ 524288)
  | 3 => decide (addr + n ≤ 8388608)
  | 4 => decide (addr % 2 ^ 32 + n ≤ 16384)
  | _ => true

/-- The credits that an access of Pasture takes: the 64-byte units it touches (R25, R437). -/
def pastCredits (sp addr n : Nat) : Nat := if sp = 0 then lineCount addr n else 0

/-- The bytes that a read gives: Pasture's and a local memory's own, else what the unit gives. -/
def readSpace (m : Memory) (d : Dev) (b : BurstIn) (sp addr n : Nat) : List Byte :=
  match sp with
  | 0 => memRead m addr n
  | 2 => memRead (engOf d (addr / 2 ^ 32 % 256)).core.mem (addr % 2 ^ 32) n
  | _ => (List.range n).map (fun i => b.data.getD i 0)

/-- Bytes written at their destination. -/
def writeSpace (d : Dev) (sp addr : Nat) (bs : List Byte) : Dev :=
  match sp with
  | 0 => pastWritten (postMem d addr bs) addr bs.length
  | 2 => onCore (localStored d (addr / 2 ^ 32 % 256) (addr % 2 ^ 32) bs.length) (addr / 2 ^ 32 % 256) (fun c => { c with mem := memWrite c.mem (addr % 2 ^ 32) bs })
  | _ => emit d .droveWrite sp ((addr : Int) :: bs.map (fun x => (x.toNat : Int)))

/-- A descriptor completed (R436): CH_COUNT, the pulse on line c, and the chain's next step. -/
def completeDesc (b : BurstIn) (d : Dev) (c : Nat) (x : DescIn) : Dev :=
  let d := onChan d c (fun h => { h with count := h.count + 1, buf := none })
  let d := if x.event then pulseLine c b.listeners d else d
  if x.last then endChain d c else nextDesc d c

/-- The write of a burst from the buffer (R432, R436, R438). -/
def writeBurst (b : BurstIn) (d : Dev) (c : Nat) (x : DescIn) (dst n : Nat) (bs : List Byte) : Dev :=
  let a := BitVec.ofNat 64 dst
  let d := onChan d c (fun h => { h with buf := some bs })
  if (spaceDomain x.dstSpace x.dst x.req).any (fun k => !domOn d k) then haltChan d c 3 a true false
  else if ¬ inSpace x.dstSpace dst n then haltChan d c 6 a true false
  else
    let d := chargeClass d (chanClass c x) (pastCredits x.dstSpace dst n)
    match b.writeFail with
    | some f => haltChan d c f.kind f.addr true false
    | none =>
      let d := writeSpace d x.dstSpace dst bs
      let d := onChan d c (fun h => { h with left := h.left - n, bytes := satAdd h.bytes n, buf := none })
      if (chanOf d c).left = 0 then completeDesc b d c x else d

/-- One burst of a channel (R432, R437, R438): read whole into the buffer, unless it holds the burst already, and written whole. -/
def moveBurst (m : Memory) (b : BurstIn) (d : Dev) (c : Nat) (x : DescIn) : Dev :=
  let h := chanOf d c
  let (s, e) := burstAt x (if h.descending then h.left - 1 else x.length - h.left)
  let n := e - s
  let src := if x.fixSrc then x.src else x.src + s
  let dst := if x.fixDst then x.dst else x.dst + s
  match h.buf with
  | some bs => writeBurst b d c x dst n bs
  | none =>
    let a := BitVec.ofNat 64 src
    if (spaceDomain x.srcSpace x.src x.req).any (fun k => !domOn d k) then haltChan d c 3 a false false
    else if ¬ inSpace x.srcSpace src n then haltChan d c 6 a false false
    else
      let d := chargeClass d (chanClass c x) (pastCredits x.srcSpace src n)
      match b.readFail with
      | some f => haltChan d c f.kind f.addr false false
      | none =>
        match (if x.srcSpace = 0 then pastRead d src n else (none, d)) with
        | (some w, e) => haltChan e c 2 (BitVec.ofNat 64 w) false false
        | (none, e) => writeBurst b e c x dst n (readSpace m e b x.srcSpace src n)

/-- Whether a class holds credit (R26). -/
def holdsCredit (d : Dev) (k : Nat) : Bool := (pastClass d k).waiting == 0 && decide ((pastClass d k).own + d.past.pool > 0)

/-- Whether a channel's next burst needs Pasture. -/
def usesPasture (x : DescIn) : Bool := x.srcSpace == 0 || x.dstSpace == 0

/-- Whether a channel is ACTIVE with a descriptor in hand and its request asserted (R434, R435). -/
def wantsBurst (d : Dev) (b : BurstIn) (c : Nat) : Bool :=
  (chanOf d c).st == .active && (match (chanOf d c).desc with
    | none => false
    | some x => !x.reqEn || b.reqs.contains x.req)

/-- Whether the class of a channel's burst holds credit, where one side is Pasture (R435). -/
def hasCredit (d : Dev) (c : Nat) : Bool :=
  match (chanOf d c).desc with
  | none => false
  | some x => !usesPasture x || holdsCredit d (chanClass c x)

/-- The channel served next (R435): the highest priority among those ready, and within it the first in turn after the channel served last. -/
def nextChan (d : Dev) (ready : List Nat) : Option Nat :=
  let p := maxN (ready.map (chanPrio d))
  let l := ready.filter (fun c => chanPrio d c == p)
  let last := tgetD d.drove.last p 127
  match l.find? (fun c => decide (c > last)) with
  | some c => some c
  | none => l.head?

/-- DROVE_BURST: a burst boundary (R435). Channels between descriptors fetch; a channel that lacks credit is passed over and stalls its class. -/
def droveBurst (m : Memory) (b : BurstIn) (d : Dev) : Dev :=
  let cs := d.drove.chans.map (·.1)
  let d := (cs.filter (fun c => (chanOf d c).st == .active && (chanOf d c).desc.isNone)).foldl (fetchDesc m b) d
  let want := cs.filter (wantsBurst d b)
  let d := (want.filter (fun c => !hasCredit d c)).foldl (fun d c => match (chanOf d c).desc with
    | none => d
    | some x => stallClass d (chanClass c x) 0) d
  match nextChan d (want.filter (hasCredit d)) with
  | none => d
  | some c =>
    let d := onDrove d (fun x => { x with last := tset x.last (chanPrio d c) c })
    match (chanOf d c).desc with
    | none => d
    | some x => moveBurst m b d c x

/-- DROVE_BURST (R435). -/
def execDroveBurst (b : BurstIn) (s : State) : Host.Outcome State Fault Refusal :=
  nextWith s (fun m d => if domOn d 2 then droveBurst m b d else d)

/-- A write of START starts an IDLE channel and is ignored otherwise (R430, R431). -/
def droveStart (c : Nat) (d : Dev) : Dev := if (chanOf d c).st = .idle then startChan d c else d

/-- RESUME (R439): the burst or the fetch that failed is tried again. -/
def droveResume (c : Nat) (d : Dev) : Dev :=
  if (chanOf d c).st = .halted then onChan d c (fun x => { x with st := .active, fetching := false }) else d

/-- SKIP (R439): the chain goes on at the next descriptor; behind the last one it ends. -/
def droveSkip (c : Nat) (d : Dev) : Dev :=
  if (chanOf d c).st ≠ .halted then d
  else match (chanOf d c).desc with
    | some x => if x.last then endChain d c else nextDesc d c
    | none => nextDesc d c

/-- ABORT (R439, R440): the channel goes IDLE; a start held while it was HALTED then acts. -/
def droveAbort (c : Nat) (d : Dev) : Dev :=
  let x := chanOf d c
  if x.st = .idle then d
  else
    let d := onChan d c (fun h => { h with st := .idle, desc := none, left := 0, buf := none, descending := false, pending := false, fetching := false })
    if x.st = .halted ∧ x.pending then startChan d c else d

/-- DROVE_START (R430). -/
def execDroveStart (chan : Nat) (s : State) : Host.Outcome State Fault Refusal :=
  nextDev s (fun d => if chan < 128 ∧ domOn d 2 then droveStart chan d else d)

/-- DROVE_RESUME (R439). -/
def execDroveResume (chan : Nat) (s : State) : Host.Outcome State Fault Refusal :=
  nextDev s (fun d => if chan < 128 ∧ domOn d 2 then droveResume chan d else d)

/-- DROVE_SKIP (R439). -/
def execDroveSkip (chan : Nat) (s : State) : Host.Outcome State Fault Refusal :=
  nextDev s (fun d => if chan < 128 ∧ domOn d 2 then droveSkip chan d else d)

/-- DROVE_ABORT (R439). -/
def execDroveAbort (chan : Nat) (s : State) : Host.Outcome State Fault Refusal :=
  nextDev s (fun d => if chan < 128 ∧ domOn d 2 then droveAbort chan d else d)

/-- A pulse on a trigger line as an armed channel takes it (R430, R431, R440). -/
def triggerChan (line : Nat) (d : Dev) (c : Nat) : Dev :=
  let x := chanOf d c
  if ¬ x.armed ∨ x.trigger ≠ line then d
  else if x.st = .idle ∨ x.st = .waiting then startChan d c
  else onChan d c (fun h => { h with pending := true })

/-- DROVE_TRIGGER: a pulse on an event line (R431). -/
def execDroveTrigger (line : Nat) (s : State) : Host.Outcome State Fault Refusal :=
  nextDev s (fun d => if domOn d 2 then (d.drove.chans.map (·.1)).foldl (triggerChan line) d else d)

/-! ### Registers (R441, R442) -/

/-- A bit map of channels `32 × k + j` by state. -/
def chanMap (d : Dev) (k : Nat) (p : ChanSt → Bool) : Nat :=
  sumN ((List.range 32).map (fun j => if p (chanOf d (32 * k + j)).st then 2 ^ j else 0))

/-- The code of a channel's state. -/
def chanCode (s : ChanSt) : Nat := match s with
  | .idle => 0 | .active => 1 | .waiting => 2 | .halted => 3

/-- A DROVE register. -/
def droveReg (d : Dev) (off : Nat) : Nat :=
  if off = 0 then 128 + 16 * 256
  else if 0x10 ≤ off ∧ off < 0x20 then chanMap d ((off - 0x10) / 4) (fun s => s == .active || s == .waiting)
  else if 0x20 ≤ off ∧ off < 0x30 then chanMap d ((off - 0x20) / 4) (· == .halted)
  else if off < 0x1000 ∨ off ≥ 0x3000 then 0
  else
    let x := chanOf d ((off - 0x1000) / 0x40)
    match (off - 0x1000) % 0x40 with
    | 0x00 => x.prio + fieldAt (b2n x.armed) 4 + fieldAt x.trigger 16
    | 0x04 => x.descAddr.toNat % 2 ^ 32
    | 0x08 => x.descAddr.toNat / 2 ^ 32
    | 0x0C => x.descSpace
    | 0x10 => chanCode x.st + fieldAt (b2n x.dir) 2 + fieldAt x.errKind 4 + fieldAt (b2n x.pending) 8 + fieldAt (b2n x.descending) 9
    | 0x14 => x.errAddr.toNat % 2 ^ 32
    | 0x18 => x.errAddr.toNat / 2 ^ 32
    | 0x1C => x.cur.toNat % 2 ^ 32
    | 0x20 => x.cur.toNat / 2 ^ 32
    | 0x24 => x.left
    | 0x28 => x.count.toNat
    | 0x2C => x.bytes.toNat
    | _ => 0

/-- What a read clears (R7): CH_BYTES. -/
def droveReadClear (d : Dev) (off : Nat) : Dev :=
  if 0x1000 ≤ off ∧ off < 0x3000 ∧ (off - 0x1000) % 0x40 = 0x2C then onChan d ((off - 0x1000) / 0x40) (fun x => { x with bytes := 0 }) else d

/-- A host write of a channel's register (R431, R439, R442); none where the host's write is dropped. -/
def droveWrite (d : Dev) (off v : Nat) : Option Dev :=
  let c := (off - 0x1000) / 0x40
  let r := (off - 0x1000) % 0x40
  if off < 0x1000 ∨ off ≥ 0x3000 ∨ r > 0x0C then some d
  else if c < 112 then none
  else
    match r with
    | 0x00 =>
      let d := onChan d c (fun x => { x with prio := getField v 0 4, armed := getField v 4 1 == 1, trigger := getField v 16 12 })
      let d := if getField v 8 1 = 1 then droveStart c d else d
      let d := if getField v 9 1 = 1 then droveResume c d else d
      let d := if getField v 10 1 = 1 then droveSkip c d else d
      some (if getField v 11 1 = 1 then droveAbort c d else d)
    | 0x04 => some (if (chanOf d c).st = .idle then
        onChan d c (fun x => { x with descAddr := BitVec.ofNat 64 (x.descAddr.toNat / 2 ^ 32 * 2 ^ 32 + v % 2 ^ 32 / 32 * 32) }) else d)
    | 0x08 => some (if (chanOf d c).st = .idle then
        onChan d c (fun x => { x with descAddr := BitVec.ofNat 64 (x.descAddr.toNat % 2 ^ 32 + v % 2 ^ 32 * 2 ^ 32) }) else d)
    | _ => some (if (chanOf d c).st = .idle then onChan d c (fun x => { x with descSpace := getField v 0 3 }) else d)

end Sys2Proof.Machine
end

