-- ==== Sys2Proof/Machine/Integ.lean ====
section
/-! DEFINITION. INTEG (chapter 15) but for the digests: errors found by reads, scrubbers, Pasture rows, flip masks and check-value units. -/

namespace Sys2Proof.Machine

/-- PASTURE_REQUEST: a transfer of a class that reads or writes the word at an offset (R26, R444). -/
def execPastureRequest (cls addr : Nat) (write : Bool) (find : EccFind) (s : State) : Host.Outcome State Fault Refusal :=
  nextDev s (fun d =>
    if ¬ domOn d 16 then d
    else
      let d := pastureRequest cls d
      if addr ≥ pastureSize then d else if write then eccWrite d (pastMemClass addr) addr else (eccRead d (pastMemClass addr) addr find).2)

/-- BAR2_ACCESS: a host access of `bytes` bytes at an offset of the window that BAR2_WIN selects (R507); a write posts its bytes and a
read returns them, or completes poisoned (R445). Each 64 bytes it touches takes a credit of class 22 (R24, R25). -/
def execBar2Access (offset : Nat) (write : Bool) (data : List Byte) (bytes : Nat) (find : EccFind) (s : State) : Host.Outcome State Fault Refusal :=
  nextWith s (fun m d =>
    if ¬ domOn d 38 ∨ ¬ domOn d 16 ∨ offset ≥ 2 ^ 32 then d
    else
      let a := d.sys.bar2Win * 2 ^ 32 + offset
      let d := chargeClass d 22 (lineCount a (if write then data.length else bytes))
      if write then pastWritten (postMem d a data) a data.length
      else
        match eccRead d (pastMemClass a) a find with
        | (.uncorrectable, e) => emit e .hostRead 3 [(a : Int)]
        | (_, e) => emit e .hostRead 2 ((memRead m a bytes).map (fun b => (b.toNat : Int))))

/-! ### Scrubbing (R447, R448) -/

/-- The words of an SRAM class, and the credits of a stack (R443, R447, R448). -/
def classSize (k : Nat) : Nat :=
  match k with
  | 0 => 17825792 | 1 => 8388608 | 2 => 1048576 | 3 => 3145728 | 4 => 1572864 | 5 => 262144 | _ => 268435456

/-- SCRUB_RATE_k. -/
def scrubRate (d : Dev) (k : Nat) : Nat := (intClass d k).rate.getD (if k < 6 then 256 else 16)

/-- Whether some memory of a class can be read (R463): the domains of its units. -/
def classOn (d : Dev) (k : Nat) : Bool :=
  match k with
  | 0 => (List.range 16).any (fun g => domOn d (17 + g))
  | 1 => domOn d 15
  | 2 => domOn d 2
  | 4 => (List.range 4).any (fun u => domOn d (33 + u))
  | 5 => domOn d 37 || domOn d 8
  | 6 => domOn d 16
  | 7 => domOn d 16
  | _ => true

/-- A pass of a stack's scrubber ended: rows in which it found no error lose their counts (R449). -/
def passEnded (d : Dev) (k n : Nat) : Dev :=
  let d := onIntClass d k (fun c => { c with passes := (c.passes + n) % 65536 })
  if n > 0 ∧ k ≥ 6 then
    onStack d (k - 6) (fun x => { x with counts := (x.counts.filter (·.found)).map (fun r => { r with found := false }) })
  else d

/-- A scrubber's reads of one tick: `short` words of those due were not read (R447). -/
def scrubClass (short : Tbl Nat) (d : Dev) (k : Nat) : Dev :=
  let c := intClass d k
  let rate := scrubRate d k
  if ¬ classOn d k then onIntClass d k (fun c => { c with backlog := 0, behind := false })
  else
    let due := rate + (if k < 6 then c.backlog else 0)
    let did := if k < 6 then due - min due (tgetD short k 0) else min due ((pastClass d 23).own + d.past.pool)
    let d := if k < 6 then d else chargeClass d 23 did
    let left := if k < 6 then due - did else 0
    let late := decide (left > 16 * rate)
    let d := onIntClass d k (fun c => { c with
      pos := (c.pos + did) % classSize k, backlog := min left (16 * rate), behind := late || (c.behind && left != 0) })
    raiseIf (late && !c.behind) (passEnded d k ((c.pos + did) / classSize k)) 21 16

/-- An error that a scrubber finds: a correction is written back, for a stack at one credit more (R446 to R448). -/
def scrubFound (d : Dev) (x : Nat × Nat × EccFind) : Dev :=
  let (k, a, f) := x
  if k ≥ 8 ∨ ¬ classOn d k then d
  else
    match eccRead d k a f with
    | (.correctable, e) => if k ≥ 6 then pastureRequest 23 (if (intClass e k).arm then eccWrite e k a else e) else if (intClass e k).arm then eccWrite e k a else e
    | (_, e) => e

/-- What the units stored in the memories of classes 1 to 5 in the tick that ends: class, address and bytes. The spec does not say where in them a unit's
objects lie (R443, R452; log 174). -/
def unitStores (stores : List (Nat × Nat × Nat)) (d : Dev) : Dev :=
  stores.foldl (fun d x => if 1 ≤ x.1 ∧ x.1 ≤ 5 ∧ classOn d x.1 then eccStored d x.1 x.2.1 x.2.2 else d) d

/-- The scrubbers at a bell. -/
def scrubBell (short : Tbl Nat) (found : List (Nat × Nat × EccFind)) (d : Dev) : Dev :=
  found.foldl scrubFound ((List.range 8).foldl (scrubClass short) d)

/-! ### Rows (R450) -/

/-- A candidate's copy to a free spare begun: 32 credits of class 23; without credit it waits, without a spare the row stays in use (R450). -/
def beginRow (d : Dev) (s : Nat) (c : Nat × BitVec 64) : Dev :=
  let drop (d : Dev) : Dev := onStack d s (fun x => { x with cands := x.cands.filter (fun y => y.1 != c.1) })
  if c.2 = d.bell.tick then d
  else if (stackOf d s).free ≤ (stackOf d s).copying.length then raiseLeaf (drop d) 21 18
  else if ¬ holdsCredit d 23 then stallClass d 23 0
  else onStack (chargeClass (drop d) 23 32) s (fun x => { x with copying := x.copying ++ [c.1] })

/-- ROW_REMAP_START: the bell after rows become candidates (R450). -/
def execRowRemapStart (s : State) : Host.Outcome State Fault Refusal :=
  nextDev s (fun d => if domOn d 16 then [0, 1].foldl (fun d k => (stackOf d k).cands.foldl (fun d c => beginRow d k c) d) d else d)

/-- A copy complete: accesses go to the spare; words that a copy corrects are in error no more (R450). -/
def endRow (d : Dev) (s row : Nat) : Dev :=
  let base := s * 0x400000000 / 8 + row * 128
  let d := onStack d s (fun x => { x with
    copying := x.copying.erase row, free := x.free - 1, remap := x.remap.filter (fun r => r.1 != row) ++ [(row, 256 - x.free)],
    counts := x.counts.filter (fun r => r.row != row) })
  let d := onInteg d (fun i => { i with
    remapLast := s * 0x400000000 + row * 1024,
    errs := i.errs.filter (fun e => !(decide (e.1 = 6 + s ∧ base ≤ e.2.1 ∧ e.2.1 < base + 128 ∧ e.2.2 = 1))) })
  raiseLeaf d 21 17

/-- ROW_REMAP_COMPLETE (R450). -/
def execRowRemapComplete (s : State) : Host.Outcome State Fault Refusal :=
  nextDev s (fun d => [0, 1].foldl (fun d k => (stackOf d k).copying.foldl (fun d r => endRow d k r) d) d)

/-! ### Check-value units (R453 to R456) -/

/-- The width, polynomial, initial value, reflection and final XOR of an algorithm (R453). -/
def cvAlg (alg : Nat) : Nat × BitVec 64 × BitVec 64 × Bool × BitVec 64 :=
  match alg with
  | 0 => (8, 0x1D#64, 0xFF#64, false, 0xFF#64)
  | 1 => (16, 0x1021#64, 0xFFFF#64, false, 0#64)
  | 2 => (32, 0x82F63B78#64, 0xFFFFFFFF#64, true, 0xFFFFFFFF#64)
  | _ => (64, 0x42F0E1EBA9EA3693#64, 0#64, false, 0#64)

/-- The bits of a value below a width. -/
def maskBits (w : Nat) (v : BitVec 64) : BitVec 64 := v &&& (BitVec.allOnes 64 >>> (64 - w))

/-- `n` bits of a check register that is not reflected. -/
def cvBits (w : Nat) (poly v : BitVec 64) (n : Nat) : BitVec 64 :=
  match n with
  | 0 => v
  | n + 1 => cvBits w poly (maskBits w (if v.getLsbD (w - 1) then (v <<< 1) ^^^ poly else v <<< 1)) n

/-- `n` bits of a reflected check register. -/
def cvBitsR (poly v : BitVec 64) (n : Nat) : BitVec 64 :=
  match n with
  | 0 => v
  | n + 1 => cvBitsR poly (if v.getLsbD 0 then (v >>> 1) ^^^ poly else v >>> 1) n

/-- The running value after a byte. -/
def cvByte (alg : Nat) (v : BitVec 64) (b : Byte) : BitVec 64 :=
  let a := cvAlg alg
  if a.2.2.2.1 then cvBitsR a.2.1 (maskBits a.1 v ^^^ b.setWidth 64) 8
  else cvBits a.1 a.2.1 (maskBits a.1 v ^^^ (b.setWidth 64 <<< (a.1 - 8))) 8

/-- The running value after bytes (R454). -/
def cvFeed (alg : Nat) (v : BitVec 64) (bs : List Byte) : BitVec 64 := bs.foldl (cvByte alg) v

/-- CRC-64 over bytes (R453, R457). -/
def crc64 (bs : List Byte) : BitVec 64 := cvFeed 3 0#64 bs

/-- The value after the final XOR (R454). -/
def cvResult (u : CvUnit) : BitVec 64 := maskBits (cvAlg u.alg).1 u.value ^^^ (cvAlg u.alg).2.2.2.2

/-- Unit `u`. -/
def cvOf (d : Dev) (u : Nat) : CvUnit := tgetD d.integ.cv u CvUnit.reset

/-- The device with unit `u` changed. -/
def onCv (d : Dev) (u : Nat) (f : CvUnit → CvUnit) : Dev := onInteg d (fun i => { i with cv := tupd i.cv u CvUnit.reset f })

/-- The initial value loaded (R454). -/
def cvInit (u : Nat) (d : Dev) : Dev := onCv d u (fun x => { x with value := (cvAlg x.alg).2.2.1 })

/-- `n` bytes fed, least significant first (R454). -/
def cvData (u n v : Nat) (d : Dev) : Dev := onCv d u (fun x => { x with value := cvFeed x.alg x.value (leBytes v n) })

/-- The running value written, one half at a time (R455). -/
def cvValue (u : Nat) (high : Bool) (v : Nat) (d : Dev) : Dev :=
  onCv d u (fun x => { x with value := BitVec.ofNat 64 (if high then x.value.toNat % 2 ^ 32 + v % 2 ^ 32 * 2 ^ 32 else x.value.toNat / 2 ^ 32 * 2 ^ 32 + v % 2 ^ 32) })

/-- A received alive counter checked: the first row of R456 that matches. -/
def aliveStep (x : CvUnit) (v : Nat) : CvUnit :=
  let k := (v + 256 - x.alive) % 256
  let top := max 1 x.aliveMax
  if x.aliveInit then { x with result := 2, alive := v, aliveInit := false, run := 0 }
  else if k > top ∧ x.run ≥ 2 ∧ v > x.lastStale then { x with result := 2, alive := v, run := 0 }
  else if k = 0 then { x with result := 3, repeated := min 65535 (x.repeated + 1), run := 0 }
  else if k = 1 then { x with result := 1, alive := v, run := 0 }
  else if k ≤ top then { x with result := 4, alive := v, run := 0 }
  else { x with result := 5, stale := min 65535 (x.stale + 1), lastStale := v, run := if x.run > 0 ∧ v > x.lastStale then x.run + 1 else 1 }

/-- A write of CV_ALIVE.VALUE (R456). -/
def cvAlive (u v : Nat) (d : Dev) : Dev := onCv d u (fun x => aliveStep x (v % 256))

/-- A check-value command on a unit, while CTRL is on. -/
def cvAct (u : Nat) (f : Dev → Dev) (s : State) : Host.Outcome State Fault Refusal :=
  nextDev s (fun d => if u < 64 ∧ domOn d 2 then f d else d)

/-- CV_INIT (R454). -/
def execCvInit (cv : Nat) (s : State) : Host.Outcome State Fault Refusal := cvAct cv (cvInit cv) s

/-- CV_DATA8 (R454). -/
def execCvData8 (cv data : Nat) (s : State) : Host.Outcome State Fault Refusal := cvAct cv (cvData cv 1 data) s

/-- CV_DATA16 (R454). -/
def execCvData16 (cv data : Nat) (s : State) : Host.Outcome State Fault Refusal := cvAct cv (cvData cv 2 data) s

/-- CV_DATA32 (R454). -/
def execCvData32 (cv data : Nat) (s : State) : Host.Outcome State Fault Refusal := cvAct cv (cvData cv 4 data) s

/-- CV_VALUE_WRITE (R455). -/
def execCvValueWrite (cv : Nat) (high : Bool) (value : Nat) (s : State) : Host.Outcome State Fault Refusal := cvAct cv (cvValue cv high value) s

/-- CV_ALIVE_WRITE (R456). -/
def execCvAliveWrite (cv value : Nat) (s : State) : Host.Outcome State Fault Refusal := cvAct cv (cvAlive cv value) s

end Sys2Proof.Machine
end

