-- ==== Sys2Proof/Machine/Ptp.lean ====
section
/-! DEFINITION. IEEE 1588 event messages in frames: where they stand, their correction, and the egress time-stamp (R53 to R58). -/

namespace Sys2Proof.Machine

/-- The tags a frame carries behind its addresses, 3 at most. -/
def tagAt (bs : List Byte) (off : Nat) : Bool := beAt bs off 2 == 0x8100 || beAt bs off 2 == 0x88A8
def tagCount (bs : List Byte) : Nat :=
  if ¬ tagAt bs 12 then 0 else if ¬ tagAt bs 16 then 1 else if ¬ tagAt bs 20 then 2 else 3

/-- Where a PTP message stands in a frame, and where its UDP header does if it has one: EtherType 0x88F7, or UDP to port 319 over IPv4 or IPv6. -/
def ptpAt (bs : List Byte) : Option (Nat × Option Nat) :=
  let o := 14 + 4 * tagCount bs
  let et := beAt bs (o - 2) 2
  let udp (u : Nat) : Option (Nat × Option Nat) := if beAt bs (u + 2) 2 = 319 then some (u + 8, some u) else none
  if et = 0x88F7 then some (o, none)
  else if et = 0x0800 ∧ byteAt bs (o + 9) = 17 then udp (o + 4 * (byteAt bs o % 16))
  else if et = 0x86DD ∧ byteAt bs (o + 6) = 17 then udp (o + 40)
  else none

/-- The same of an event message, whose messageType is 0 to 3. -/
def ptpEvent (bs : List Byte) : Option (Nat × Option Nat) := (ptpAt bs).filter (fun m => decide (byteAt bs m.1 % 16 < 4))

/-- Bytes written over a frame's from an offset. -/
def overwrite (bs new : List Byte) (off : Nat) : List Byte := bs.take off ++ new ++ bs.drop (off + new.length)

/-- The 16-bit words of eight bytes from an offset. -/
def words4 (bs : List Byte) (off : Nat) : List Nat := (List.range 4).map (fun i => beAt bs (off + 2 * i) 2)

/-- A UDP checksum updated for words that change, in one's complement arithmetic (R55); over IPv4 zero stands for no checksum. -/
def checksumUpdate (hc : Nat) (old new : List Nat) : Nat :=
  if hc = 0 then 0
  else
    let s := (0xFFFF - hc) + sumN (old.map (0xFFFF - ·)) + sumN new
    let f := s % 65536 + s / 65536
    let f := f % 65536 + f / 65536
    if f = 0xFFFF then 0xFFFF else 0xFFFF - f

/-- An event message with a residence time added to its correctionField, its UDP checksum updated incrementally (R55). -/
def correctFrame (bs : List Byte) (residence : Int) : List Byte :=
  match ptpEvent bs with
  | none => bs
  | some (m, udp) =>
    let field := BitVec.ofNat 64 (beAt bs (m + 8) 8) + BitVec.ofInt 64 residence
    let new := overwrite bs (beBytes field.toNat 8) (m + 8)
    match udp with
    | none => new
    | some u => overwrite new (beBytes (checksumUpdate (beAt bs (u + 6) 2) (words4 bs (m + 8)) (words4 new (m + 8))) 2) (u + 6)

/-- The time-stamp work of a frame sent, at an egress time-stamp before its port's correction (R54 to R57, R357): on a port with one-step operation
an event message is corrected in place unless `whole` says otherwise (MACsec, half duplex), and then it is handled in two steps; a two-step
request is captured. `tp` is the port of R54, `group` and `port` its place in the capture queues. The frame's bytes as sent are answered. -/
def stampFrame (d : Dev) (tp group port : Nat) (bs : List Byte) (twoStep : Option Nat) (ingress stamp : Nat) (whole : Bool) : List Byte × Dev :=
  let t := adjusted d tp stamp
  match twoStep, ptpEvent bs with
  | some tag, _ => (bs, captureStamp d group port tag t)
  | none, none => (bs, d)
  | none, some _ =>
    if ¬ Config.oneStep tp then (bs, d)
    else if whole then (correctFrame bs ((t : Int) - ingress), d)
    else let (v, d) := drawFree d; (bs, captureStamp d group port (v % 65536) t)

end Sys2Proof.Machine
end

