-- ==== Sys2Proof/Machine/Forward.lean ====
section
/-! DEFINITION. Where a classified packet goes (R384), and how a packet leaves by a client or service port (R346 to R363). -/

namespace Sys2Proof.Machine

/-! ### Ports -/

/-- Port `p`. -/
def portOf (d : Dev) (p : Nat) : CliPort := tgetD d.cli.ports p CliPort.reset

/-- The device with port `p` changed. -/
def onPort (d : Dev) (p : Nat) (f : CliPort → CliPort) : Dev := { d with cli := { d.cli with ports := tupd d.cli.ports p CliPort.reset f } }

/-- Counter `i` of port `p` advanced by `n`, modulo 2⁴⁰; a rise of bit 39 sets its half-range bit and raises HALF_RANGE (R365, R366). -/
def bump (d : Dev) (p i n : Nat) : Dev :=
  let old := tgetD (portOf d p).cnt i 0
  let new := old + BitVec.ofNat 40 n
  let d := onPort d p (fun x => { x with cnt := tset x.cnt i new })
  if new.getLsbD 39 ∧ ¬ old.getLsbD 39 then
    raiseLeaf (onPort d p (fun x => { x with half := if i ∈ x.half then x.half else x.half ++ [i] })) 12 (8 + p)
  else d

/-- Whether the mode provides port `p` (R341); the service port is always there. -/
def portProvided (d : Dev) (p : Nat) : Bool := p == 4 || decide (p < 2 ^ d.cli.mode)

/-- Whether the domains that port `p` relies on are on (R557): its MAC, and for a client port its lanes. -/
def portLit (d : Dev) (p : Nat) : Bool := domOn d 13 && (p == 4 || domOn d 10)

/-- Whether port `p` carries frames. -/
def portUp (d : Dev) (p : Nat) : Bool :=
  decide (p ≤ 4) && portProvided d p && portLit d p && (portOf d p).f.enable && (portOf d p).link

/-- Whether the service port runs half duplex (R355). -/
def halfDuplex (d : Dev) (p : Nat) : Bool := p == 4 && !(portOf d p).duplex

/-- Whether port `p` may start a frame: link up, no PAUSE in force, not in low-power idle, and no frame of its own waiting for a
back-off (R345, R352, R356, R358). -/
def portMaySend (d : Dev) (p : Nat) : Bool :=
  portUp d p && !(portOf d p).paused && !(portOf d p).lpiTx && (portOf d p).csma.frame.isNone

/-- The time-stamp port of R54 and the capture group of R57 of a client or service port. -/
def tsPort (p : Nat) : Nat := 4 + p
def tsGroup (p : Nat) : Nat := if p = 4 then 2 else 1

/-! ### Frames -/

/-- A frame with a tag pushed behind its addresses. -/
def pushTag (bs : List Byte) (svc : Bool) (tci : Nat) : List Byte :=
  bs.take 12 ++ beBytes (if svc then 0x88A8 else 0x8100) 2 ++ beBytes tci 2 ++ bs.drop 12

/-- The size bin of a length, 0 to 6 (R367). -/
def sizeBin (n : Nat) : Nat :=
  if n ≤ 64 then 0 else if n ≤ 127 then 1 else if n ≤ 255 then 2 else if n ≤ 511 then 3 else if n ≤ 1023 then 4
  else if n ≤ 1518 then 5 else 6

/-- The kind of a destination address: 0 unicast, 1 multicast, 2 broadcast. -/
def castOf (bs : List Byte) : Nat :=
  if beAt bs 0 6 = 0xFFFFFFFFFFFF then 2 else if byteAt bs 0 % 2 = 1 then 1 else 0

/-- A good frame counted: from counter `base` 0 for reception, 32 for sending, with the bins from `bins` (R367). -/
def countGood (d : Dev) (p base bins len : Nat) (bs : List Byte) : Dev :=
  let d := bump d p base len
  let d := bump d p (base + 1) 1
  let d := bump d p (base + 2 + castOf bs) 1
  let d := if tagAt bs 12 then bump d p (base + 5) 1 else d
  bump d p (bins + sizeBin len) 1

/-- The tag operations of R354 in order, and the padding of R350: none where a fourth tag would be pushed. -/
def egressTags (f : PortFields) (k : TmPkt) : Option TmPkt :=
  let strip := f.egrStrip && tagAt k.bytes 12 && beAt k.bytes 14 2 % 4096 == f.pvid
  let k := if strip then { k with bytes := k.bytes.take 12 ++ k.bytes.drop 16, len := k.len - 4 } else k
  if k.push ≠ 0 ∧ tagCount k.bytes ≥ 3 then none
  else
    let k := if k.push ≠ 0 then { k with bytes := if k.bytes = [] then [] else pushTag k.bytes k.tpid k.push, len := k.len + 4 } else k
    some (if k.len < 64 then { k with bytes := if k.bytes = [] then [] else k.bytes ++ List.replicate (64 - k.len) 0#8, len := 64 } else k)

/-- The leaves of a MACsec association's use: at 7/8 of a limit and at the limit (R362). -/
def macsecMarks (d : Dev) (p : Nat) (warn spent : Bool) : Dev :=
  let d := if warn then raiseLeaf (onPort d p (fun x => { x with macWarn := true })) 12 (16 + p) else d
  if spent then raiseLeaf (onPort d p (fun x => { x with macRetired := true })) 12 (24 + p) else d

/-- MACsec on a frame that leaves: protected under the transmit association in use, 32 bytes longer; none where that is retired or no
association is installed (R361, R362). -/
def macsecOut (d : Dev) (p : Nat) (k : TmPkt) : Option (TmPkt × Dev) :=
  if ¬ (portOf d p).macEn ∨ k.clear then some (k, d)
  else
    match (portOf d p).macSas.find? (fun a => a.outbound && a.an == (portOf d p).txAn) with
    | none => none
    | some a =>
      match saUse d a.handle false k.len with
      | (false, _, _, _) => none
      | (true, warn, spent, e) =>
        let e := onPort e p (fun x => { x with macSas := x.macSas.map (fun b => if b = a then { b with nextPn := b.nextPn + 1 } else b) })
        some ({ k with len := k.len + 32 }, macsecMarks e p warn spent)

/-- The time-stamp work of a frame sent by a client or service port (R55 to R57, R357). -/
def stampOut (d : Dev) (p : Nat) (k : TmPkt) (stamp : Nat) (secured : Bool) : List Byte × Dev :=
  stampFrame d (tsPort p) (tsGroup p) (p % 4) k.bytes k.twoStep k.stamp stamp (!secured && !halfDuplex d p)

/-- A frame put on the wire of port `p`. `cut` is set on the cut-through path and `bad` there says that the frame ends with a stomped
FCS, and after how many bytes (R347 to R350, R354, R361). What goes out is its length, whether its FCS is stomped, and, unless MACsec has encrypted
them, its bytes with the FCS recomputed (R55).  -/
def egress (d : Dev) (p : Nat) (k : TmPkt) (stamp : Nat) (cut : Bool) (bad : Option Nat) : Dev :=
  match egressTags (portOf d p).f k with
  | none => bump d p 47 1
  | some k1 =>
    match macsecOut d p k1 with
    | none => bump d p 48 1
    | some (k2, d2) =>
      let top := (portOf d p).f.maxFrame
      if ¬ cut ∧ k2.len > top then bump d p 46 1
      else if cut ∧ (bad.isSome ∨ k2.len > top) then
        let n := match bad with
          | some b => min (b + (k2.len - k.len)) top
          | none => top
        emit (bump d2 p 45 1) .ethernet p [(n : Int), 1]
      else
        let secured := decide (k2.len ≠ k1.len)
        let (bs, d3) := stampOut d2 p k2 stamp secured
        let wire := if secured ∨ bs = [] then [] else bs ++ fcsOf bs
        emit (countGood d3 p 32 38 k2.len k2.bytes) .ethernet p ([(k2.len : Int), 0] ++ wire.map (fun b => (b.toNat : Int)))

/-! ### Delivery -/

/-- The offset of a packet's UDP payload (R212). -/
def payloadOff (d : Dev) (q : Nat) (bs : List Byte) : Nat := (parseFrame (pipeRegs d (pipeOf q)).vxlanPort q none bs).1.off

/-- The bytes an engine's mailbox gets: from the UDP payload for leg traffic, the whole frame otherwise (R212). -/
def mailboxBytes (d : Dev) (q : Nat) (leg : Option Nat) (bs : List Byte) : List Byte :=
  if leg.isSome then bs.drop (payloadOff d q bs) else bs

/-- A packet delivered to an engine; a leg that migrates has it delivered to its target as well, both copies marked (R107, R212). A
live leg's packet on a twinned device goes to the twin too, by its route, with its tick (R547). -/
def toEngine (d : Dev) (e q cls flags stamp : Nat) (leg : Option Nat) (bs : List Byte) : Dev :=
  let data := mailboxBytes d q leg bs
  let (h, d) := drawFree d
  let handle := h % 2 ^ 32
  match leg with
  | none => mailboxPut d e 0xFFFF handle (stamp / 65536) cls flags data
  | some n =>
    let l := legOf d n
    let d := match l.bind (·.move) with
      | none => mailboxPut d e n handle (stamp / 65536) cls flags data
      | some m => mailboxPut (mailboxPut d e n handle (stamp / 65536) cls (flags + 4) data) m.target n handle (stamp / 65536) cls (flags + 4) data
    match d.casc.twin, (l.map (·.live)).getD false with
    | some t, true => cascRouted d .cascMedia .media t (mediaBytes (.shadowPacket n (d.bell.tick.toNat % 2 ^ 32) cls flags (stamp / 65536) data))
    | _, _ => d

/-- The queue of an owner. -/
def ownedQueue (d : Dev) (o : QOwner) : Option Nat := (d.tm.queues.find? (fun e => e.2.owner == o && e.2.freeAt.isNone)).map (·.1)

/-- A packet taken to where its decision says (R384, R410). `auth` says that its MACsec ICV failed: toward an engine it is marked, and
anywhere else it goes no further (R489). -/
def forward (d : Dev) (q : Nat) (x : Decision) (k : TmPkt) (auth : Bool) : Dev :=
  let k := { k with push := x.push, tpid := x.tpid }
  match x.dest with
  | .engine e => toEngine d e q x.cls (if auth then 2 else 0) k.stamp x.leg k.bytes
  | .queue n => if auth then d else (tmOffer d n q x.cls x.colour x.policer k).2
  | .cut p =>
    if auth then d
    else match ownedQueue d (.cut p) with
      | none => d
      | some n => (tmOffer d n q x.cls x.colour x.policer k).2
  | .control => d
  | .drop => d

/-- A packet from a port of pipeline 0 or from the host classified and forwarded (R34, R381). -/
def ingest (d : Dev) (q : Nat) (gem : Option Nat) (bs : List Byte) (stamp now : Nat) (twoStep : Option Nat) : Dev :=
  let (x, _, d) := classify d q gem bs
  forward d q x { len := max 64 (bs.length + 4), push := 0, tpid := false, twoStep := twoStep, stamp := stamp,
                  admitted := now, place := .onDie, bytes := bs, clear := false } false

end Sys2Proof.Machine
end

