-- ==== Sys2Proof/Machine/Cli.lean ====
section
/-! DEFINITION. The client ports and the service port (chapter 11). -/

namespace Sys2Proof.Machine

/-! ### Reception -/

/-- Whether a port accepts a frame's destination (R351). -/
def addrAccepted (x : CliPort) (bs : List Byte) : Bool :=
  x.f.promisc || castOf bs == 2 || (castOf bs == 1 && x.f.passAllMcast)
    || x.addrs.any (fun e => e.2 == beAt bs 0 6 + 2 ^ 48)

/-- The partner's requested receive Tw from an LLDP frame's EEE TLV (R359): type 127, OUI 00-12-0F, subtype 5; from `off`, over at most `n`
TLVs (log 34). -/
def eeeTw (bs : List Byte) (off n : Nat) : Option Nat :=
  match n with
  | 0 => none
  | n + 1 =>
    let h := beAt bs off 2
    if off + 2 > bs.length ∨ h = 0 then none
    else if h / 512 = 127 ∧ beAt bs (off + 2) 4 = 0x00120F05 then some (beAt bs (off + 8) 2)
    else eeeTw bs (off + 2 + h % 512) n

/-- A MAC control frame (R352). -/
def macControl (d : Dev) (p : Nat) (bs : List Byte) : Dev :=
  if beAt bs 14 2 = 1 then
    if (portOf d p).f.pauseRx then onPort d p (fun x => { x with paused := beAt bs 16 2 != 0 }) else bump d p 6 1
  else bump d p 7 1

/-- An LLDP frame taken to the control cores, with the EEE TLV it may carry (R352, R359). -/
def lldpIn (d : Dev) (p : Nat) (bs : List Byte) : Dev :=
  match eeeTw bs 14 64 with
  | none => d
  | some t => onPort d p (fun x => { x with partnerTw := some t })

/-- The MACsec receiver (R361 to R363): the frame goes no further, or goes on, its ICV having failed or not. A protected frame with no
association is taken as encrypted, and is dropped in CHECK too; DISABLED passes it unchecked (log 35). -/
def macsecIn (d : Dev) (p : Nat) (f : FrameIn) : Except Dev (Bool × Dev) :=
  let x := portOf d p
  if p ≥ 4 ∨ ¬ x.macEn ∨ beAt f.bytes 12 2 = 0x888E then .ok (false, d)
  else
    match f.macsec with
    | .untagged => if x.validate ≥ 2 then .error (bump d p 25 1) else .ok (false, d)
    | .secured sci an pn icvOk =>
      if x.validate = 0 then .ok (false, d)
      else
        match x.macSas.find? (fun a => !a.outbound && a.sci == sci && a.an == an) with
        | none => .error (bump d p 24 1)
        | some a =>
          if ((saOf d a.handle).map saRetired).getD true then .error (bump d p 24 1)
          else if pn + x.replay < a.nextPn then .error (bump d p 23 1)
          else if ¬ icvOk then .ok (true, bump d p 22 1)
          else
            match saUse d a.handle false (f.bytes.length + 4) with
            | (false, _, _, _) => .error (bump d p 24 1)
            | (true, warn, spent, e) =>
              let e := onPort e p (fun y => { y with macSas := y.macSas.map (fun b => if b = a then { b with nextPn := max b.nextPn (pn + 1) } else b) })
              .ok (false, macsecMarks e p warn spent)

/-- The tag a port pushes at ingress onto an untagged or priority-tagged frame, which keeps its own PCP (R353). -/
def ingressTag (f : PortFields) (bs : List Byte) : List Byte :=
  let prio := tagAt bs 12 && beAt bs 14 2 % 4096 == 0
  if f.ingPush ∧ (¬ tagAt bs 12 ∨ prio) then
    pushTag bs f.ingTpid ((if prio then beAt bs 14 2 / 8192 else f.pcpDefault) * 8192 + f.pvid)
  else bs

/-- The egress port of a frame that takes the cut-through path: every condition of R348. -/
def cutPath (d : Dev) (p : Nat) (x : Decision) (busy : Bool) : Option Nat :=
  match x.dest with
  | .cut e =>
    let empty : Bool := match ownedQueue d (.cut e) with
      | none => false
      | some q => ((tget d.tm.queues q).map (·.pkts.isEmpty)).getD false
    if p < 4 ∧ e < 4 ∧ empty ∧ ¬ busy ∧ portMaySend d e then some e else none
  | _ => none

/-- The packet that a received frame becomes, after the ingress tag. -/
def rxPacket (d : Dev) (p : Nat) (f : FrameIn) (bs : List Byte) : TmPkt :=
  { len := max 64 (bs.length + 4), push := 0, tpid := false, twoStep := none, stamp := adjusted d (tsPort p) f.stamp,
    admitted := f.now, place := .onDie, bytes := bs, clear := beAt f.bytes 12 2 == 0x888E }

/-- A frame classified and sent on: by cut-through, where it is `bad` or its ICV fails with a stomped FCS after `wire` bytes as received,
else through PARSE's decision. A bad frame that is not cut through never reaches PARSE (R347 to R349, R489; log 36). -/
def rxForward (d : Dev) (p : Nat) (f : FrameIn) (len wire : Nat) (bad auth : Bool) : Dev :=
  let bs := ingressTag (portOf d p).f f.bytes
  let k := rxPacket d p f bs
  let (x, _, e) := classify d p none bs
  match cutPath e p x f.egressBusy with
  | some o => egress e o { k with push := x.push, tpid := x.tpid } f.outStamp true (if bad ∨ auth then some (wire + k.len - len) else none)
  | none => if bad then d else forward e p x k auth

/-- CLIENT_FRAME_RX: length and FCS, MAC control, LLDP, address, MACsec, PARSE (R343, R347 to R354, R361 to R363). -/
def clientFrame (d : Dev) (p : Nat) (f : FrameIn) : Dev :=
  if ¬ portUp d p ∨ ¬ domOn d 14 then d
  else
    let len := f.bytes.length + 4 + (match f.macsec with | .untagged => 0 | _ => 32)
    let top := (portOf d p).f.maxFrame
    let bad := !f.fcsOk || f.pcsErr || decide (len > top)
    let d := if f.pcsErr then bump d p 20 1 else d
    let d :=
      if len ≤ 63 then bump d p (if f.fcsOk then 15 else 16) 1
      else if len > top then bump d p (if f.fcsOk then 17 else 18) 1
      else if ¬ f.fcsOk then bump d p (if p = 4 ∧ (portOf d p).speed < 2 ∧ f.partialByte then 27 else 19) 1
      else if f.pcsErr then d
      else countGood d p 0 8 len f.bytes
    if len ≤ 63 then d
    else if beAt f.bytes 12 2 = 0x8808 then (if bad then d else macControl d p f.bytes)
    else if beAt f.bytes 0 6 = 0x0180C200000E then (if bad then d else lldpIn d p f.bytes)
    else if ¬ addrAccepted (portOf d p) f.bytes then (if bad then d else bump d p 21 1)
    else
      match macsecIn d p f with
      | .error e => e
      | .ok (auth, e) => rxForward e p f len (min len top) bad auth

/-- CLIENT_FRAME_RX (R347). -/
def execClientFrameRx (port : Nat) (f : FrameIn) (s : State) : Host.Outcome State Fault Refusal := nextDev s (fun d => clientFrame d port f)

/-! ### Sending -/

/-- An attempt of the service port in half duplex, or a frame sent at once elsewhere (R356). -/
def attempt (d : Dev) (p : Nat) (k : TmPkt) (op : TxOp) : Dev :=
  if ¬ halfDuplex d p then egress d p k op.stamp false none
  else
    let c := (portOf d p).csma
    let d := if op.deferred ∧ ¬ c.deferred then bump d p 53 1 else d
    let d := if op.carrierLost then bump d p 56 1 else d
    if op.collided then
      onPort d p (fun x => { x with csma := { x.csma with frame := some k, waiting := false, deferred := c.deferred || op.deferred } })
    else
      let d := if c.collisions = 1 then bump d p 51 1 else if c.collisions > 1 then bump d p 52 1 else d
      egress (onPort d p (fun x => { x with csma := CsmaState.idle })) p k op.stamp false none

/-- The next frame of a port's root sent, if the port may send (R345, R404). -/
def portDequeue (d : Dev) (p : Nat) (op : TxOp) : Dev :=
  if ¬ portMaySend d p ∨ ¬ domOn d 15 then d
  else
    match tmTake d (512 + p) op.now with
    | none => d
    | some (_, k, d) => attempt d p k op

/-- SERVICE_COLLISION: the jam, then back-off, the 16th collision's drop, or the abort of a late collision; a frame that is not sent
leaves no time-stamp (R356, R357). -/
def serviceCollision (d : Dev) (late : Bool) : Dev :=
  let c := (portOf d 4).csma
  match c.frame with
  | none => d
  | some _ =>
    if c.waiting ∨ ¬ halfDuplex d 4 then d
    else
      let d := emit d .jam 4 []
      if late then bump (onPort d 4 (fun x => { x with csma := CsmaState.idle })) 4 54 1
      else if c.collisions + 1 ≥ 16 then bump (onPort d 4 (fun x => { x with csma := CsmaState.idle })) 4 55 1
      else
        let (r, d) := drawFree d
        let n := c.collisions + 1
        onPort d 4 (fun x => { x with csma := { x.csma with collisions := n, backoff := r % 2 ^ min n 10, waiting := true } })

/-- SERVICE_COLLISION (R356). -/
def execServiceCollision (late : Bool) (s : State) : Host.Outcome State Fault Refusal := nextDev s (fun d => serviceCollision d late)

/-- BACKOFF_EXPIRY: the frame is tried again (R356). -/
def execBackoffExpiry (op : TxOp) (s : State) : Host.Outcome State Fault Refusal :=
  nextDev s (fun d =>
    let c := (portOf d 4).csma
    match c.frame with
    | none => d
    | some k =>
      if ¬ c.waiting then d
      else attempt (onPort d 4 (fun x => { x with csma := { x.csma with waiting := false } })) 4 k op)

/-- LLDP_SEND: the control cores' frame, on a queue of the device's own (R352). -/
def execLldpSend (port : Nat) (frame : List Byte) (now : Nat) (s : State) : Host.Outcome State Fault Refusal :=
  nextDev s (fun d =>
    if ¬ portUp d port then d
    else
      let d := emit d .lldp port [((portOf d port).f.lpiRxTw : Int)]
      match deviceQueue d (512 + port) now with
      | none => d
      | some (q, d) =>
        (tmAdmit d q { len := max 64 (frame.length + 4), push := 0, tpid := false, twoStep := none, stamp := 0, admitted := now,
                       place := .onDie, bytes := frame, clear := false } 0).2)

/-! ### Link and low-power idle -/

/-- A port's link going up or down (R345). -/
def linkTo (d : Dev) (p : Nat) (up : Bool) : Dev :=
  if (portOf d p).link = up then d
  else raiseLeaf (onPort d p (fun x => { x with link := up, lpiTx := x.lpiTx && up, paused := x.paused && up })) 12 p

/-- LINK_CHANGE (R345): a link comes up only on a port that is provided, enabled and powered. -/
def execLinkChange (port : Nat) (up : Bool) (s : State) : Host.Outcome State Fault Refusal :=
  nextDev s (fun d =>
    if port > 4 ∨ (up ∧ ¬ (portProvided d port ∧ portLit d port ∧ (portOf d port).f.enable)) then d else linkTo d port up)

/-- RGMII_INBAND_STATUS: with SVC_AUTO, speed, duplex and link are those of the in-band status (R355). -/
def execRgmiiInbandStatus (up : Bool) (speed : Nat) (duplex : Bool) (s : State) : Host.Outcome State Fault Refusal :=
  nextDev s (fun d =>
    if ¬ (portOf d 4).f.svcAuto ∨ ¬ (portLit d 4 ∧ (portOf d 4).f.enable) then d
    else linkTo (onPort d 4 (fun x => { x with speed := min speed 2, duplex := duplex })) 4 up)

/-- Whether port `p` supports low-power idle as it runs (R358). -/
def lpiSupported (d : Dev) (p : Nat) : Bool :=
  if p = 4 then (portOf d 4).duplex && decide ((portOf d 4).speed ≥ 1) else d.cli.mode == 2 && decide (p < 4)

/-- The transmit Tw resolved (R359). -/
def resolvedTw (d : Dev) (p : Nat) : Nat :=
  max (Config.defaultTw p (portOf d p).speed) ((portOf d p).partnerTw.getD 0)

/-- LPI_ENTER: a period received is counted; a port of ours that has been idle for LPI_IDLE enters, if its Tw allows (R358 to R360). -/
def lpiEnter (d : Dev) (p : Nat) (received : Bool) : Dev :=
  if ¬ portUp d p then d
  else if received then bump d p 26 1
  else if ¬ (portOf d p).f.lpiEn ∨ ¬ lpiSupported d p ∨ (portOf d p).lpiTx ∨ rootOccupancy d (512 + p) ≠ 0 ∨ (portOf d p).csma.frame.isSome then d
  else
    let t := resolvedTw d p
    let d := onPort d p (fun x => { x with twTx := t % 1024, lpiRefused := decide (t > x.f.lpiTwMax) })
    if (portOf d p).lpiRefused then d else bump (onPort d p (fun x => { x with lpiTx := true })) p 49 1

/-- LPI_ENTER (R358). -/
def execLpiEnter (port : Nat) (received : Bool) (s : State) : Host.Outcome State Fault Refusal := nextDev s (fun d => lpiEnter d port received)

/-- LPI_WAKE: Tw after a frame became ready the port leaves LPI and sends it; the time spent is counted (R360). -/
def execLpiWake (port us : Nat) (op : TxOp) (s : State) : Host.Outcome State Fault Refusal :=
  nextDev s (fun d =>
    if ¬ (portOf d port).lpiTx then d
    else portDequeue (bump (onPort d port (fun x => { x with lpiTx := false })) port 50 us) port op)

/-- PAUSE_QUANTA_EXPIRY: the port sends again (R352). -/
def execPauseQuantaExpiry (port : Nat) (s : State) : Host.Outcome State Fault Refusal :=
  nextDev s (fun d => onPort d port (fun x => { x with paused := false }))

/-! ### Counters -/

/-- Every counter of a port copied to its snapshot in one cycle (R365). -/
def statSnap (d : Dev) (p : Nat) : Dev := if portLit d p ∧ p ≤ 4 then onPort d p (fun x => { x with snap := x.cnt }) else d

/-- STAT_SNAP (R365). -/
def execStatSnap (port : Nat) (s : State) : Host.Outcome State Fault Refusal := 
  nextDev s (fun d => if port ≤ 4 then hostWrites (if port < 4 then 10 else 13) (0x500300 + 0x10000 * port) (fun d => statSnap d port) d else d)

/-- CNT_LO_READ: the low word is returned and the high word latched (R365). -/
def cntLoRead (d : Dev) (p i : Nat) : Dev :=
  let v := (tgetD (portOf d p).cnt i 0).toNat
  emitRead (onPort d p (fun x => { x with hiLatch := v / 2 ^ 32 })) (0x500400 + 0x10000 * p + 8 * i) (v % 2 ^ 32)

/-- CNT_LO_READ (R365). -/
def execCntLoRead (port i : Nat) (s : State) : Host.Outcome State Fault Refusal :=
  nextDev s (fun d =>
    if port ≤ 4 ∧ i < 64 then hostReads (if port < 4 then 10 else 13) (0x500400 + 0x10000 * port + 8 * i) (fun d => cntLoRead d port i) d else d)

/-! ### MKA -/

/-- MKA_FRAME: an exchange of key agreement; where it agrees a key, the Fold generates the SAK and creates the association by itself, in
READY (R490). While its generator is unhealthy the request waits (R491). -/
def mkaFrame (d : Dev) (p : Nat) (newSak : Bool) (dir ssci : Nat) : Dev :=
  let d := emit d .mka p []
  if ¬ newSak ∨ ¬ d.fold.guard.rngOk ∨ ¬ domOn d 1 then d
  else
    match tfree d.fold.sas 0 24576 with
    | none => d
    | some h =>
      let (key, d) := drawFree d
      let (salt, d) := drawFree d
      let rcd : SaRecord := { path := 2, cipher := 3, dir := min dir 1, keyLen := 32, pktLimit := 0, byteLimit := 0, ssci := ssci, zeroOk := true }
      let a : Sa := { st := .ready, rcd := rcd, key := key % 2 ^ 256, salt := salt % 2 ^ 96, pkts := 0, ctrlPkts := 0, bytes := 0, prot := [] }
      onFold d (fun f => { f with sas := tset f.sas h a })

/-- MKA_FRAME (R490). -/
def execMkaFrame (port : Nat) (newSak : Bool) (dir ssci : Nat) (s : State) : Host.Outcome State Fault Refusal :=
  nextDev s (fun d => if port < 4 then mkaFrame d port newSak dir ssci else d)

/-! ### Commands -/

/-- Whether any leg or host queue names a client port (R344); trunks leave by the access link and routes by no client port. A port's own
cut-through queue and the device's queues are not counted (log 37). -/
def clientNamed (v : Dev) : Bool :=
  v.media.legs.any (fun e => decide (e.2.rcd.egress ≤ 3) && e.2.st != .free)
    || v.tm.queues.any (fun e => e.2.owner == .host && (match queueRoot v e.1 with | some r => decide (512 ≤ r ∧ r ≤ 515) | none => false))

/-- CLI_CONFIG (R341, R344, R371). -/
def actCliConfig (mode : Nat) (v d : Dev) : ActResult :=
  if mode ≥ 3 then .refuse .badParam 0 0
  else if mode ≠ v.cli.mode ∧ clientNamed v then .refuse .busy 0 noField
  else .stage false 0 [] none d

/-- The port mode written at its bell. -/
def applyCliConfig (mode : Nat) (d : Dev) : Dev := onCli d (fun c => { c with mode := mode })

/-- CLI_PATH (R342). -/
def actCliPath (port att : Nat) (v d : Dev) : ActResult :=
  if port > 3 ∨ ¬ portProvided v port ∨ att > 1 then .refuse .badParam 0 (if port > 3 ∨ ¬ portProvided v port then 0 else 1) else .stage false 0 [] none d

/-- The port drops its link and goes over to the other attachment (R342, R368). -/
def applyCliPath (port att : Nat) (d : Dev) : Dev :=
  if (portOf d port).path = att then d else linkTo (onPort d port (fun x => { x with path := att })) port false

/-- Whether a port accepts LPI_EN (R358). -/
def lpiAccepts (d : Dev) (port : Nat) (f : PortFields) : Bool :=
  if port = 4 then f.svcAuto || (f.svcDuplex && decide (f.svcSpeed ≥ 1)) else d.cli.mode == 2

/-- Whether the fields of CLI_PORT_CONFIG lie in their ranges (R346, R355, R358, R370). -/
def portFieldsOk (v : Dev) (p : Nat) (f : PortFields) : Bool :=
  decide (1518 ≤ f.maxFrame ∧ f.maxFrame ≤ 9728 ∧ f.svcSpeed ≤ 2 ∧ f.pvid ≤ 4095 ∧ f.pcpDefault ≤ 7 ∧ 1 ≤ f.lpiIdle ∧ f.lpiIdle ≤ 1000
      ∧ f.lpiRxTw ≤ 1023 ∧ f.lpiTwMax ≤ 1023)
    && !(p == 4 && !f.svcAuto && f.svcSpeed == 2 && !f.svcDuplex)
    && (!f.lpiEn || lpiAccepts v p f)

/-- The field of CLI_PORT_CONFIG at fault: its port, then the registers of R370 in turn (R510). -/
def portFieldsFault (v : Dev) (p : Nat) (f : PortFields) : Nat :=
  firstBad [(decide (f.svcSpeed ≤ 2) && !(p == 4 && !f.svcAuto && f.svcSpeed == 2 && !f.svcDuplex), 1), (decide (1518 ≤ f.maxFrame ∧ f.maxFrame ≤ 9728), 5),
    (decide (f.pvid ≤ 4095 ∧ f.pcpDefault ≤ 7), 13),
    (decide (1 ≤ f.lpiIdle ∧ f.lpiIdle ≤ 1000 ∧ f.lpiRxTw ≤ 1023 ∧ f.lpiTwMax ≤ 1023) && (!f.lpiEn || lpiAccepts v p f), 17)]

/-- CLI_PORT_CONFIG (R355, R358, R369, R557). Enabling a client port needs a queue for its cut-through path (R35). -/
def actCliPortConfig (port : Nat) (f : PortFields) (v d : Dev) : ActResult :=
  if port > 4 ∨ (f.enable ∧ ¬ portProvided v port) then .refuse .badParam 0 0
  else if ¬ portFieldsOk v port f then .refuse .badParam 0 (portFieldsFault v port f)
  else if f.enable ∧ port < 4 ∧ ¬ domOn v 10 then .refuse .dark 0 noField
  else if f.enable ∧ port < 4 ∧ (ownedQueue v (.cut port)).isNone ∧ (cutQueue v port).isNone then .refuse .noResource 0 noField
  else .stage false 0 [] none d

/-- The port's fields written at their bell; a forced service port takes its speed and duplex from them (R355), and a client port has its
cut-through queue while it is enabled. -/
def applyCliPortConfig (port : Nat) (f : PortFields) (d : Dev) : Dev :=
  let autumn := decide (d.pwr.season = .autumn)
  let d := onAux d (fun a => if autumn then { a with keptLpi := tset a.keptLpi port f.lpiEn } else a)
  let d := onPort d port (fun x => { x with f := { f with lpiEn := if autumn then lpiAccepts d port f else f.lpiEn } })
  let d := if port = 4 ∧ ¬ f.svcAuto then onPort d 4 (fun x => { x with speed := f.svcSpeed, duplex := f.svcDuplex }) else d
  if f.enable then
    if port < 4 ∧ (ownedQueue d (.cut port)).isNone then ((cutQueue d port).map (·.2)).getD d else d
  else linkTo (freeOwned d (fun o => o == .cut port)) port false

/-- CLI_ADDR_SET (R351, R369). -/
def actCliAddrSet (port entry addr : Nat) (valid : Bool) (_v d : Dev) : ActResult :=
  if port > 4 ∨ entry > 15 ∨ addr ≥ 2 ^ 48 then .refuse .badParam 0 (firstBad [(decide (port ≤ 4), 0), (decide (entry ≤ 15), 1), (false, 2)])
  else let _ := valid; .stage false 0 [] none d

/-- The address entry written at its bell: the address, with bit 48 set while the entry is in use. -/
def applyCliAddrSet (port entry addr : Nat) (valid : Bool) (d : Dev) : Dev :=
  onPort d port (fun x => { x with addrs := tset x.addrs entry (addr + 2 ^ 48 * b2n valid) })

/-- CLI_MACSEC_SET (R363, R369). -/
def actCliMacsecSet (port validate replay : Nat) (enable : Bool) (_v d : Dev) : ActResult :=
  if port > 3 ∨ validate > 3 ∨ replay > 2 ^ 30 then .refuse .badParam 0 (firstBad [(decide (port ≤ 3), 0), (decide (validate ≤ 3), 1), (false, 2)])
  else let _ := enable; .stage false 0 [] none d

/-- MACsec's settings written at their bell. -/
def applyCliMacsecSet (port validate replay : Nat) (enable : Bool) (d : Dev) : Dev :=
  onPort d port (fun x => { x with validate := validate, replay := replay, macEn := enable })

/-- Whether an association fits in a port's channels: one transmit and 32 receive channels, two association numbers of each (R361). -/
def macRoom (x : CliPort) (out : Bool) (sci an : Nat) : Bool :=
  let same := x.macSas.filter (fun a => a.outbound == out && a.sci == sci && a.an != an)
  let others := ((x.macSas.filter (fun a => a.outbound == out && a.sci != sci)).map (·.sci)).dedup
  decide (same.length < 2) && decide (others.length < if out then 1 else 32)

/-- CLI_MACSEC_SA (R361, R362, R369, R486); direction as DIR of R483: 0 inbound, 1 outbound. -/
def actCliMacsecSa (port dir sci an handle : Nat) (v d : Dev) : ActResult :=
  if port > 3 ∨ dir > 1 ∨ an > 3 then .refuse .badParam 0 (firstBad [(decide (port ≤ 3), 0), (decide (dir ≤ 1), 1), (false, 10)])
  else if handle = 0xFFFF then
    if (portOf v port).macSas.any (fun a => a.outbound == decide (dir = 1) && a.sci == sci && a.an == an) then .stage false 0 [] none d
    else .refuse .badParam 0 10
  else
    match saOf v handle with
    | none => .refuse .badParam 0 11
    | some a =>
      if a.rcd.path ≠ 2 ∨ a.rcd.dir ≠ dir ∨ saBound a ∨ saRetired a then .refuse .badParam 0 11
      else if ¬ macRoom (portOf v port) (decide (dir = 1)) sci an then .refuse .noResource 0 noField
      else .stage false 0 [] none d

/-- An association installed or removed at its bell: it is bound or unbound, one that held its place goes, and a new outbound one becomes
the one in use. The port's status then shows what stays installed. -/
def applyCliMacsecSa (port dir sci an handle : Nat) (d : Dev) : Dev :=
  let here (a : MacSa) : Bool := a.outbound == decide (dir = 1) && a.sci == sci && a.an == an
  let d := ((portOf d port).macSas.filter here).foldl (fun d a => saUnbind d a.handle) d
  let d := onPort d port (fun x => { x with macSas := x.macSas.filter (fun a => !here a) })
  let d :=
    if handle = 0xFFFF then d
    else
      let new : MacSa := { outbound := decide (dir = 1), sci := sci, an := an, handle := handle, nextPn := 1 }
      let d := onPort d port (fun x => { x with macSas := x.macSas ++ [new], txAn := if dir = 1 then an else x.txAn })
      saBind d handle
  let st (p : Sa → Bool) : Bool := (portOf d port).macSas.any (fun a => ((saOf d a.handle).map p).getD false)
  let warn := st saWarned
  let spent := st saRetired
  onPort d port (fun x => { x with macWarn := warn, macRetired := spent })

/-! ### Registers -/

/-- The words of a half-range map. -/
def halfWord (x : CliPort) (j : Nat) : Nat := sumN (x.half.map (fun i => if i / 32 = j then 2 ^ (i % 32) else 0))

/-- A register of port `p` by its offset (R370): unlisted offsets read as zero. -/
def portReg (d : Dev) (p off : Nat) : Nat :=
  let x := portOf d p
  let f := x.f
  let cnt (t : Tbl (BitVec 40)) (base : Nat) : Nat :=
    let v := (tgetD t ((off - base) / 8) 0).toNat
    if off % 8 = 0 then v % 2 ^ 32 else v / 2 ^ 32
  if off = 0 then
    b2n f.enable + 2 * b2n f.pauseRx + 4 * x.path + (if p = 4 then 8 * b2n f.svcAuto + 16 * f.svcSpeed + 64 * b2n f.svcDuplex else 0)
  else if off = 4 then b2n x.link + (if p = 4 then 2 * x.speed + 8 * b2n x.duplex else 0) + 16 * b2n x.lpiTx
  else if off = 8 then f.maxFrame
  else if off = 0xC then b2n f.promisc + 2 * b2n f.passAllMcast
  else if off = 0x10 then f.pvid + 4096 * f.pcpDefault + 0x10000 * b2n f.ingPush + 0x20000 * b2n f.ingTpid + 0x40000 * b2n f.egrStrip
  else if off = 0x14 then b2n f.lpiEn + 2 * f.lpiIdle + 2 ^ 11 * f.lpiRxTw + 2 ^ 21 * f.lpiTwMax
  else if off = 0x18 then x.twTx + 1024 * b2n x.lpiRefused
  else if off = 0x20 then b2n x.macEn + 2 * x.validate
  else if off = 0x24 then b2n x.macWarn + 2 * b2n x.macRetired + 4 * x.txAn
  else if off = 0x28 then x.replay
  else if 0x100 ≤ off ∧ off < 0x180 then
    let a := tgetD x.addrs ((off - 0x100) / 8) 0
    if off % 8 = 0 then a % 2 ^ 32 else a % 2 ^ 48 / 2 ^ 32 + 2 ^ 31 * (a / 2 ^ 48)
  else if off = 0x304 then halfWord x 0
  else if off = 0x308 then halfWord x 1
  else if 0x400 ≤ off ∧ off < 0x600 then (if off % 8 = 0 then cnt x.cnt 0x400 else x.hiLatch)
  else if 0x600 ≤ off ∧ off < 0x800 then cnt x.snap 0x600
  else 0

/-- CLI_PORT_QUERY: the status registers and every counter (R369). -/
def actCliPortQuery (port : Nat) (_v d : Dev) : ActResult :=
  if port > 4 then .refuse .badParam 0 0
  else .read ([portReg d port 4, portReg d port 0x18, portReg d port 0x24] ++ (List.range 64).map (fun i => (tgetD (portOf d port).cnt i 0).toNat)) d

/-- A CLI register by its offset in the block (R370, R371). -/
def cliReg (d : Dev) (off : Nat) : Nat :=
  if off < 0x50000 then portReg d (off / 0x10000) (off % 0x10000)
  else if off = 0x80000 then d.cli.mode + 16 * 2 ^ d.cli.mode
  else 0

/-- A write of a CLI register (R365, R366, R370): STAT_SNAP and the half-range maps; every other write is dropped, which the answer says. -/
def cliWrite (d : Dev) (off : Nat) (v : Word) : Option Dev :=
  let p := off / 0x10000
  let o := off % 0x10000
  if off ≥ 0x50000 then none
  else if o = 0x300 then some (if bitOf v 0 then statSnap d p else d)
  else if o = 0x304 then some (onPort d p (fun x => { x with half := x.half.filter (fun i => !(decide (i < 32) && bitOf v i)) }))
  else if o = 0x308 then some (onPort d p (fun x => { x with half := x.half.filter (fun i => !(decide (i ≥ 32) && bitOf v (i - 32))) }))
  else none

end Sys2Proof.Machine
end

