-- ==== Sys2Proof/Machine/Casc.lean ====
section
/-! DEFINITION. The Commons (chapter 18): cascade ports, topology, frames, spanning conferences and twins, and the dequeue of the Ethernet and
cascade roots (R404). -/

namespace Sys2Proof.Machine

/-! ### Topology (R539, R540) -/

/-- The code of a twin's state. -/
def twinStCode (s : TwinSt) : Nat := match s with
  | .none => 0 | .shadowing => 1 | .tookOver => 2 | .singlePath => 3 | .returned => 4

/-- The hops to device `n` through port `p`, 15 where it is not reached. -/
def hopsVia (d : Dev) (p n : Nat) : Nat :=
  if ¬ cascUp d p then 15 else if (cascPort d p).peer = n then 1 else min 15 (tgetD (cascPort d p).dist n 15 + 1)

/-- The routes that the ports' latest TOPO frames give: the fewest hops, port 0 where they are equal (R540). -/
def routesNow (d : Dev) : Tbl (Nat × Nat) :=
  (List.range 16).filterMap (fun n =>
    let a := hopsVia d 0 n
    let b := hopsVia d 1 n
    if n = d.casc.device ∨ min a b ≥ 15 then none else some (n, if a ≤ b then (0, a) else (1, b)))

/-- TOPO sent on a port: the hops at which each device is reached through the other (R539). -/
def sendTopo (d : Dev) (p : Nat) : Dev :=
  if cascUp d p then cascNear d .topo p (.topo ((List.range 16).map (hopsVia d (1 - p)))) else d

/-- Whether the twin is reached through each port. -/
def twinPaths (d : Dev) : List Nat :=
  match d.casc.twin with
  | none => []
  | some t => [0, 1].filter (fun p => decide (hopsVia d p t < 15))

/-- The ports through which the routes reach the partner counted, and SINGLE_PATH entered and left with them (R549). A port that goes DOWN counts
until its routes move (R540). -/
def twinPathCheck (d : Dev) : Dev :=
  let d := onCasc d (fun c => { c with reach := (twinPaths d).length })
  if d.casc.reach = 1 ∧ d.casc.twinSt = .shadowing then raiseLeaf (onCasc d (fun c => { c with twinSt := .singlePath })) 24 3
  else if d.casc.reach = 2 ∧ d.casc.twinSt = .singlePath then onCasc d (fun c => { c with twinSt := .shadowing })
  else d

/-- Routes brought up to date: TOPO_CHANGE and new TOPO frames where they changed (R539, R540). -/
def topoUpdate (d : Dev) : Dev :=
  let r := routesNow d
  let d := onCasc d (fun c => { c with topoDue := false })
  if r = d.casc.routes then twinPathCheck d
  else twinPathCheck (sendTopo (sendTopo (raiseLeaf (onCasc d (fun c => { c with routes := r })) 23 4) 0) 1)

/-! ### Ports (R537) -/

/-- A port whose lanes have aligned (R537). -/
def cascAligned (d : Dev) (p : Nat) : Dev :=
  if (cascPort d p).st = .aligning then onCascPort d p (fun x => { x with st := .hello, hellos := 0, badTags := 0 }) else d

/-- A HELLO on a port (R537). -/
def helloRx (p domain dev : Nat) (d : Dev) : Dev :=
  let x := cascPort d p
  if x.st ≠ .hello ∧ x.st ≠ .up then d
  else if domain ≠ d.casc.domain then cascDown d p 1
  else if dev = d.casc.device then raiseLeaf (cascDown d p 2) 23 6
  else
    let d := onCascPort d p (fun x => { x with peer := dev, hellos := x.hellos + 1 })
    if x.st = .hello ∧ x.hellos + 1 ≥ 3 then topoUpdate (raiseLeaf (onCascPort d p (fun x => { x with st := .up })) 23 p) else d

/-- CASC_HELLO_RX (R537): HELLO comes from the neighbour and is not forwarded. -/
def execCascHelloRx (h : CascHdr) (domain dev rank : Nat) (s : State) : Host.Outcome State Fault Refusal :=
  nextDev s (fun d => cascCtlRx h (.hello domain dev rank) true .hello (helloRx h.port domain dev) d)

/-- CASC_TOPO_RX (R540). -/
def execCascTopoRx (h : CascHdr) (hops : List Nat) (s : State) : Host.Outcome State Fault Refusal :=
  nextDev s (cascCtlRx h (.topo hops) true .topo (fun d => topoUpdate (onCascPort d h.port (fun x => { x with dist := (List.range 16).map (fun n => (n, hops.getD n 15)) }))))

/-- CASC_KEEPALIVE_RX (R537). -/
def execCascKeepaliveRx (h : CascHdr) (s : State) : Host.Outcome State Fault Refusal :=
  nextDev s (cascCtlRx h .keepalive false .keepalive id)

/-- CASC_LANE_COPY_RX: this side copies a lane onto its spare from its next marker on, and stops when the lane itself is asked for (R333). -/
def execCascLaneCopyRx (h : CascHdr) (port lane : Nat) (s : State) : Host.Outcome State Fault Refusal :=
  nextDev s (cascCtlRx h (.laneCopy port lane) false .laneCopy (fun d =>
    if lane > 7 then d
    else onLanes d (fun l => { l with groups := tupd l.groups (2 + h.port) (LaneGroup.reset (2 + h.port)) (fun g =>
      { g with copyOut := if g.copyOut = some lane then none else some lane }) })))

/-- CASC_KEEPALIVE_SEND (R537, R539): on each port that has a neighbour. -/
def execCascKeepaliveSend (s : State) : Host.Outcome State Fault Refusal :=
  nextDev s (fun d =>
    if ¬ domOn d 39 then d
    else [0, 1].foldl (fun d p =>
      if (cascPort d p).st = .hello ∨ (cascPort d p).st = .up then cascNear d .keepalive p .keepalive else d) d)

/-- CASC_HELLO_SEND (R537): to whoever the neighbour is, and no further. -/
def execCascHelloSend (s : State) : Host.Outcome State Fault Refusal :=
  nextDev s (fun d =>
    if ¬ domOn d 39 then d
    else [0, 1].foldl (fun d p =>
      if (cascPort d p).st = .aligning ∨ (cascPort d p).st = .hello then
        cascTx d .hello p .control 0 d.casc.device 0xFF 0 (ctlBytes (.hello d.casc.domain d.casc.device d.bell.succ.rank)) else d) d)

/-- CASC_TOPO_SEND (R539). -/
def execCascTopoSend (s : State) : Host.Outcome State Fault Refusal :=
  nextDev s (fun d => if domOn d 39 then sendTopo (sendTopo d 0) 1 else d)

/-- CASC_PORT_TIMEOUT: loss of alignment, or no frame for 40 µs (R537). -/
def execCascPortTimeout (port : Nat) (s : State) : Host.Outcome State Fault Refusal :=
  nextDev s (fun d => if port ≤ 1 ∧ cascUp d port then cascDown d port 4 else d)

/-- CASC_PORT_RETRY: 1,024 ticks after a fall with REASON 3 or 4 (R537). -/
def execCascPortRetry (port : Nat) (s : State) : Host.Outcome State Fault Refusal :=
  nextDev s (fun d =>
    let x := cascPort d port
    if port ≤ 1 ∧ x.st = .down ∧ (x.reason = 3 ∨ x.reason = 4) ∧ getField d.casc.portEn port 1 = 1 ∧ x.downAt + 1024 ≤ d.bell.tick then
      onCascPort d port (fun x => { x with st := .aligning })
    else d)

/-! ### DATA and MEDIA (R538, R542 to R547) -/

/-- CASC_DATA_RX: a DATA frame is forwarded or enters PARSE as port 12 or 13 (R373, R538). -/
def execCascDataRx (h : CascHdr) (bytes : List Byte) (stamp now : Nat) (s : State) : Host.Outcome State Fault Refusal :=
  nextDev s (fun d =>
    if ¬ cascUp d h.port then d
    else cascRx h .data bytes false .cascData h.corr
      (fun d => if domOn d 14 then ingest d (12 + h.port) none bytes (adjusted d (9 + h.port % 2) stamp) now none else d) d)

/-- A packet put in a shadow leg's mailbox as PARSE delivered it on the live device (R547). -/
def shadowDeliver (n cls flags stamp : Nat) (bytes : List Byte) (d : Dev) : Dev :=
  match legOf d n with
  | none => d
  | some l => if l.live then d else let (x, d) := drawFree d; mailboxPut d l.home n (x % 2 ^ 32) stamp cls flags bytes

/-- A shadow whose output differs from the live leg's (R547). -/
def shadowDiverged (n : Nat) (d : Dev) : Dev :=
  match legOf d n with
  | none => d
  | some l =>
    if l.live then d
    else
      let d := legCount (onLeg d n (fun l => { l with flags := { l.flags with diverged := true } })) n 20 1
      raiseLeaf (onCasc d (fun c => { c with diverged := satInc c.diverged })) 24 2

/-- The low 32 bits of the capture tick `k` of the blocks that a MEDIA frame carries in tick `k + n` (R542). -/
def captureTick (d : Dev) (n : Nat) : Nat := (d.bell.tick - BitVec.ofNat 64 n).toNat % 2 ^ 32

/-- A MEDIA payload taken (R542 to R547): a contribution or outputs that come in another tick than their own are late, and not used. -/
def mediaRx (pay : MediaPay) (d : Dev) : Dev :=
  match pay with
  | .contribution tag tick ins =>
    if tick ≠ captureTick d 2 then raiseLeaf (onCasc d (fun c => { c with contribLate := satInc c.contribLate })) 23 7
    else if tget d.media.binds tag = some d.casc.device then
      onCasc d (fun c => { c with inContrib := tset c.inContrib tag (tgetD c.inContrib tag [] ++ ins.take 96) })
    else d
  | .outputs tag tick blocks =>
    if tget d.media.binds tag = some d.casc.device ∨ tick ≠ captureTick d 4 then d else onCasc d (fun c => { c with inOuts := tset c.inOuts tag blocks })
  | .shadowPacket n _ cls flags stamp bytes => shadowDeliver n cls flags stamp bytes d
  | .shadowCrc n _ crc own => if crc = own then d else shadowDiverged n d

/-- CASC_MEDIA_RX (R543). -/
def execCascMediaRx (h : CascHdr) (pay : MediaPay) (s : State) : Host.Outcome State Fault Refusal :=
  nextDev s (fun d => if cascUp d h.port then cascRx h .media (mediaBytes pay) false .cascMedia h.corr (mediaRx pay) d else d)

/-- The contribution of a device that is not the home: each talker it last heard of, the 32 highest-ranked of the rest, and each
FLOOR_PRIORITY input at or above ON, 96 at most (R543). -/
def contribInputs (d : Dev) (n : Nat) (c : Conf) : List Nat :=
  let all := ranked c.heldIns ((floorInputs d n).map (inputKey d c))
  let heard := (tgetD d.casc.inOuts c.rcd.tag []).map (·.1)
  let talk := all.filter (fun k => heard.any (fun o => o == outKey 0 (some k)))
  let rest := (all.filter (fun k => !talk.contains k)).take 32
  let prio := ((priorityInputs d n).map (inputKey d c)).filter (fun k => decide (levelIn c.heldIns k ≥ cParam d n 0) && !talk.contains k && !rest.contains k)
  (talk ++ rest ++ prio).take 96

/-- One input as a contribution carries it (R543; its marks by log 176). -/
def contribIn (d : Dev) (n : Nat) (c : Conf) (k : Nat) : ContribIn :=
  let m := tget c.heldIns k
  { input := k, level := m.bind (·.level), alarm := (m.map (·.alarm)).getD false,
    priority := (priorityInputs d n).any (fun x => inputKey d c x == k), blk := (m.map (·.blk)).getD [] }

/-- The frames of one spanning conference at a bell: its contribution to the home, or the home's outputs to each device that is reached
(R542 to R544). -/
def spanSend (d : Dev) (n : Nat) (c : Conf) : Dev :=
  if ¬ c.rcd.spans ∨ ¬ c.live then d
  else
    match tget d.media.binds c.rcd.tag with
    | none => d
    | some home =>
      if home ≠ d.casc.device then
        cascRouted d .cascMedia .media home (mediaBytes (.contribution c.rcd.tag (captureTick d 2) ((contribInputs d n c).map (contribIn d n c))))
      else
        d.casc.routes.foldl (fun d r =>
          let mine (o : Nat) : Bool := decide (o ≤ c.rcd.langCount)
            || c.talkers.any (fun k => k / 16384 == r.1 && (List.range (c.rcd.langCount + 1)).any (fun ch => o == outKey ch (some k)))
            || c.talkers.any (fun k => k / 16384 == r.1 && o == selfKey k)
          cascRouted d .cascMedia .media r.1 (mediaBytes (.outputs c.rcd.tag (captureTick d 4) (c.heldOuts.filter (fun o => mine o.1))))) d

/-! ### Twins (R546 to R550) -/

/-- TWIN_BEAT_SEND: on each UP port through which the twin is reached (R539). -/
def execTwinBeatSend (s : State) : Host.Outcome State Fault Refusal :=
  nextDev s (fun d =>
    if ¬ domOn d 39 then d
    else (twinPaths d).foldl (fun d p => match d.casc.twin with
      | none => d
      | some t => cascTx d .twinBeat p .control (hopsVia d p t - 1) d.casc.device t 0
          (ctlBytes (.twinBeat d.casc.device (twinStCode d.casc.twinSt)))) d)

/-- Every object of this device made a shadow (R549, R550). -/
def toShadows (d : Dev) : Dev :=
  let d := onMedia d (fun m => { m with legs := tmap m.legs (fun _ l => { l with live := false }), confs := tmap m.confs (fun _ c => { c with live := false }) })
  onAud d (fun a => { a with routes := tmap a.routes (fun _ r => { r with twin := true }) })

/-- A partner that has been taken over returns: its objects are shadows, and TWIN_RETURNED is raised (R549). -/
def twinReturn (d : Dev) : Dev :=
  if d.casc.twinSt = .tookOver ∨ d.casc.twinSt = .returned then d
  else raiseLeaf (onCasc (toShadows d) (fun c => { c with twinSt := .returned })) 24 4

/-- CASC_TWIN_BEAT_RX: the partner is alive; one that has taken this device over says so (R548, R549). -/
def execCascTwinBeatRx (h : CascHdr) (state : Nat) (s : State) : Host.Outcome State Fault Refusal :=
  nextDev s (cascCtlRx h (.twinBeat h.src state) false .twinBeat (fun d =>
    if some h.src = d.casc.twin ∧ state = 2 then twinReturn d else d))

/-- CASC_TAKEOVER_RX: spanning conferences are rehomed; of two that claim each other the lower number keeps the objects, and the other
yields at the next bell (R548, R550). -/
def takeoverRx (taken home : Nat) (d : Dev) : Dev :=
  if taken = d.casc.device ∧ d.casc.twinSt = .tookOver then
    (if home < d.casc.device then onCasc d (fun c => { c with yielding := true }) else d)
  else
    let d := onMedia d (fun m => { m with binds := m.binds.map (fun b => if b.2 = taken then (b.1, home) else b) })
    if taken = d.casc.device then twinReturn d else d

/-- CASC_TAKEOVER_RX (R550). -/
def execCascTakeoverRx (h : CascHdr) (taken home : Nat) (s : State) : Host.Outcome State Fault Refusal :=
  nextDev s (cascCtlRx h (.takeover taken home) false .takeover (takeoverRx taken home))

/-- TWIN_PARTNER_LOST: no frame from the partner for 40 µs; where both paths reach it, takeover follows at the next bell (R548, R549). -/
def execTwinPartnerLost (s : State) : Host.Outcome State Fault Refusal :=
  nextDev s (fun d =>
    if d.casc.twin.isNone ∨ d.casc.twinSt = .tookOver then d
    else onCasc d (fun c => { c with partnerHeard := false, lost := decide (d.casc.reach = 2) }))

/-- The takeover of R548: shadows become live and are steered here, TAKEOVER goes out, conferences homed on the partner are rehomed. -/
def takeOver (d : Dev) : Dev :=
  match d.casc.twin with
  | none => d
  | some t =>
    let ns := (d.media.legs.filter (fun l => !l.2.live && l.2.st != .free)).map (·.1)
    let d := onMedia d (fun m => { m with legs := tmap m.legs (fun _ l => { l with live := true }), confs := tmap m.confs (fun _ c => { c with live := true }) })
    let d := onAud d (fun a => { a with routes := tmap a.routes (fun _ r => { r with twin := false }) })
    let d := ns.foldl steerLeg d
    let d := broadcast d .takeover .control (ctlBytes (.takeover t d.casc.device))
    let d := onMedia d (fun m => { m with binds := m.binds.map (fun b => if b.2 = t then (b.1, d.casc.device) else b) })
    let d := onCasc d (fun c => { c with
      twinSt := .tookOver, lost := false, takeoverTick := d.bell.tick.truncate 32, announce := some (d.bell.tick + 1) })
    raiseLeaf (raiseLeaf d 24 0) 24 1

/-- TWIN_TAKEOVER: at the first bell after the declaration (R548). -/
def execTwinTakeover (s : State) : Host.Outcome State Fault Refusal :=
  nextDev s (fun d => if d.casc.lost ∧ d.casc.twinSt ≠ .tookOver then takeOver d else d)

/-- One announcement for each distinct local address of a leg on each egress, a gratuitous ARP or an unsolicited neighbour advertisement (R548): its
EtherType and the address. -/
def announceLegs (d : Dev) : Dev :=
  let l := (d.media.legs.filter (fun x => x.2.live && legCharged x.2)).map (fun x => (x.2.rcd.egress, x.2.rcd.ipv6, x.2.rcd.localAddr))
  l.eraseDups.foldl (fun d x => emit d .ethernet x.1 [if x.2.1 then 0x86DD else 0x0806, (x.2.2 : Int)]) d

/-- The CRC-32C of each live leg's output of the tick that ended, sent to the twin (R547); its value is free, for the output's bytes are not all
in the model (log 176). -/
def twinCrcs (d : Dev) : Dev :=
  match d.casc.twin with
  | none => d
  | some t => (d.media.legs.filter (fun l => l.2.live && legRuns l.2)).foldl (fun d l =>
      let (v, d) := drawFree d
      cascRouted d .cascMedia .media t (mediaBytes (.shadowCrc l.1 (captureTick d 1) (BitVec.ofNat 32 v) 0))) d

/-- What the Commons does at a bell, after the ended tick's stages: routes moved, a claim yielded, announcements, and the spanning frames (R540, R542, R547, R548, R550). -/
def cascBell (d : Dev) : Dev :=
  let d := if d.casc.topoDue then topoUpdate d else d
  let d := if d.casc.yielding then onCasc (toShadows d) (fun c => { c with yielding := false, twinSt := .shadowing }) else d
  let d := if d.casc.announce = some d.bell.tick then onCasc (announceLegs d) (fun c => { c with announce := none }) else d
  twinCrcs (d.media.confs.foldl (fun d e => spanSend d e.1 e.2) d)

/-- Outputs used, and contributions held for the mix of the tick that begins (R542, R543). -/
def cascUsed (d : Dev) : Dev := onCasc d (fun c => { c with heldContrib := c.inContrib, inContrib := [], inOuts := [] })

/-! ### Commands (R541, R546, R551) -/

/-- CASC_CONFIG (R551): the base handle stands for a secret of R483, and a port whose lane domain is off is not enabled (R557). -/
def actCascConfig (domain device ports base gen : Nat) (v d : Dev) : ActResult :=
  let _ := gen
  if device > 15 ∨ ports > 3 ∨ ¬ thas v.fold.bases base then .refuse .badParam 0 (firstBad [(decide (device ≤ 15), 2), (decide (ports ≤ 3), 3), (thas v.fold.bases base, 4)])
  else if (domain ≠ v.casc.domain ∨ device ≠ v.casc.device) ∧ (cascUp v 0 ∨ cascUp v 1) then .refuse .busy 0 noField
  else if [0, 1].any (fun p => getField ports p 1 == 1 && !domOn v (11 + p)) then .refuse .dark 0 noField
  else .stage false 0 [] none d

/-- CASC_CONFIG at its bell (R537). -/
def applyCascConfig (domain device ports base gen : Nat) (d : Dev) : Dev :=
  let d := onCasc d (fun c => { c with domain := domain, device := device, portEn := ports, base := base, gen := gen, topoDue := true })
  [0, 1].foldl (fun d p =>
    if getField ports p 1 = 1 then
      (if (cascPort d p).st = .down then onCascPort d p (fun x => { x with st := .aligning, reason := 0 }) else d)
    else onCascPort d p (fun x => { x with st := .down, reason := 0, hellos := 0, badTags := 0, dist := [] })) d

/-- CASC_CONF_BIND (R541). -/
def actCascConfBind (tag home : Nat) (_v d : Dev) : ActResult :=
  let _ := tag
  if home > 15 then .refuse .badParam 0 4 else .stage false 0 [] none d

/-- CASC_CONF_BIND at its bell (R541). -/
def applyCascConfBind (tag home : Nat) (d : Dev) : Dev := onMedia d (fun m => { m with binds := tset m.binds tag home })

/-- CASC_TWIN_SET (R546). -/
def actCascTwinSet (twin : Nat) (v d : Dev) : ActResult :=
  if (twin > 15 ∧ twin ≠ 0xFF) ∨ twin = v.casc.device then .refuse .badParam 0 0 else .stage false 0 [] none d

/-- CASC_TWIN_SET at its bell (R546, R549). -/
def applyCascTwinSet (twin : Nat) (d : Dev) : Dev :=
  if twin = 0xFF then onCasc d (fun c => { c with twin := none, twinSt := .none, partnerHeard := false, lost := false })
  else twinPathCheck (onCasc d (fun c => { c with twin := some twin, twinSt := .shadowing, partnerHeard := false, lost := false }))

/-- CASC_TAKEOVER (R549). -/
def actCascTakeover (v d : Dev) : ActResult :=
  if v.casc.twin.isNone then .refuse .badParam 0 noField
  else if d.casc.partnerHeard then .refuse .busy 0 noField
  else .stage false 0 [] none d

/-- CASC_TAKEOVER at its bell (R549). -/
def applyCascTakeover (d : Dev) : Dev := if d.casc.twinSt = .tookOver then d else takeOver d

/-- CASC_SA_PAIR (R546). -/
def actCascSaPair (handle other : Nat) (v d : Dev) : ActResult :=
  if ¬ thas v.fold.sas handle ∨ other ≥ 24576 then .refuse .badParam 0 (if ¬ thas v.fold.sas handle then 0 else 2) else .stage false 0 [] none d

/-- CASC_SA_PAIR at its bell (R546). -/
def applyCascSaPair (handle other : Nat) (d : Dev) : Dev := onCasc d (fun c => { c with saPairs := tset c.saPairs handle other })

/-! ### Registers (R552, R553) -/

/-- The code of a port's state. -/
def portStCode (s : PortSt) : Nat := match s with
  | .down => 0 | .aligning => 1 | .hello => 2 | .up => 3

/-- A CASC register. -/
def cascReg (d : Dev) (off : Nat) : Nat :=
  if off < 0x200 then
    let x := cascPort d (off / 0x100)
    match off % 0x100 with
    | 0x00 => portStCode x.st + fieldAt x.peer 4 + fieldAt x.reason 8
    | 0x04 => x.tx.toNat
    | 0x08 => x.rx.toNat
    | 0x0C => x.crcErr.toNat
    | 0x10 => x.authFail.toNat
    | 0x14 => x.hopsDrop.toNat
    | _ => 0
  else if 0x1100 ≤ off ∧ off < 0x1140 then
    match tget d.casc.routes ((off - 0x1100) / 4) with
    | none => 0
    | some r => 1 + fieldAt r.1 1 + fieldAt r.2 4
  else
    match off with
    | 0x1000 => d.casc.device + fieldAt d.casc.portEn 4 + fieldAt d.casc.domain 16
    | 0x1004 => d.casc.twin.getD 0xF + fieldAt (twinStCode d.casc.twinSt) 4
    | 0x1008 => (d.media.legs.filter (fun l => !l.2.live && l.2.st != .free)).length
    | 0x100C => d.casc.diverged.toNat
    | 0x1010 => d.casc.contribLate.toNat
    | 0x1014 => d.casc.takeoverTick.toNat
    | _ => 0

/-- What a read clears (R7). -/
def cascReadClear (d : Dev) (off : Nat) : Dev :=
  if off < 0x200 then
    onCascPort d (off / 0x100) (fun x => match off % 0x100 with
      | 0x04 => { x with tx := 0 }
      | 0x08 => { x with rx := 0 }
      | 0x0C => { x with crcErr := 0 }
      | 0x10 => { x with authFail := 0 }
      | 0x14 => { x with hopsDrop := 0 }
      | _ => x)
  else
    match off with
    | 0x100C => onCasc d (fun c => { c with diverged := 0 })
    | 0x1010 => onCasc d (fun c => { c with contribLate := 0 })
    | _ => d

/-- CASC_QUERY: the registers of R552 and R553 (R551). -/
def actCascQuery (_v d : Dev) : ActResult :=
  .read (([0, 0x100].flatMap (fun b => [0, 4, 8, 0xC, 0x10, 0x14].map (b + ·)) ++ [0x1000, 0x1004, 0x1008, 0x100C, 0x1010, 0x1014]
    ++ (List.range 16).map (fun n => 0x1100 + 4 * n)).map (cascReg d)) d

/-! ### TM_DEQUEUE (R404) -/

/-- A DATA frame sent for a cascade root: to the far device by its route, or the neighbour, with its time-stamp work (R55, R57, R538, R540). -/
def cascDequeue (d : Dev) (p now stamp : Nat) : Dev :=
  if ¬ cascUp d p ∨ ¬ domOn d 39 ∨ ¬ domOn d 15 then d
  else
    match tmTake d (524 + p) now with
    | none => d
    | some (_, k, d) =>
      let (bs, d) := stampFrame d (9 + p) 3 p k.bytes k.twoStep k.stamp stamp true
      cascTx d .cascData p .data 0 d.casc.device (cascPort d p).peer 0 bs

/-- The class of the memory that holds the packet a root gives next: the packet buffer, or for one in the deep area Pasture, at the offset
`addr` (R415, R443). -/
def headClass (d : Dev) (root now addr : Nat) : Nat :=
  match tmTake d root now with
  | none => 1
  | some (_, p, _) => if p.place = .deep then pastMemClass addr else 1

/-- A packet whose words cannot be read is dropped whole (R445): it leaves its queue and goes nowhere; one from the deep area counts in Q_DROP. -/
def dropUnread (d : Dev) (root now : Nat) : Dev :=
  match tmTake d root now with
  | none => d
  | some (q, p, d) => if p.place = .deep then qDrop d q 1 else d

/-- TM_DEQUEUE: an Ethernet or cascade root that may send chooses the next packet and sends it (R404); `find` is what the read of the packet
finds at the address `cell` of the packet buffer, or of Pasture for a deep one. An Alloc-ID root sends by its grants alone (R285). -/
def execTmDequeue (root : Nat) (op : TxOp) (cell : Nat) (find : EccFind) (s : State) : Host.Outcome State Fault Refusal :=
  nextDev s (fun d =>
    if 512 ≤ root ∧ root ≤ 516 ∨ root = 524 ∨ root = 525 then
      let may := if root ≤ 516 then portMaySend d (root - 512) && domOn d 15 else cascUp d (root - 524) && domOn d 39 && domOn d 15
      if ¬ may then d
      else
        match eccRead d (headClass d root op.now cell) cell find with
        | (.uncorrectable, e) => dropUnread e root op.now
        | (_, e) => if root ≤ 516 then portDequeue e (root - 512) op else cascDequeue e (root - 524) op.now op.stamp
    else d)

end Sys2Proof.Machine
end

