-- ==== Sys2Proof/Machine/Lane.lean ====
section
/-! DEFINITION. Serial lanes (chapter 10): adaptation, markers and alignment, eye scans, failure, spare lanes and test facilities. -/

namespace Sys2Proof.Machine

/-- Lane `n`. -/
def laneOf (d : Dev) (n : Nat) : Lane := tgetD d.lane.lanes n Lane.reset

/-- The device with lane `n` changed. -/
def onLane (d : Dev) (n : Nat) (f : Lane → Lane) : Dev := onLanes d (fun x => { x with lanes := tupd x.lanes n Lane.reset f })

/-- Group `g`. -/
def laneGroup (d : Dev) (g : Nat) : LaneGroup := tgetD d.lane.groups g (LaneGroup.reset g)

/-- The device with group `g` changed. -/
def onGroupL (d : Dev) (g : Nat) (f : LaneGroup → LaneGroup) : Dev :=
  onLanes d (fun x => { x with groups := tupd x.groups g (LaneGroup.reset g) f })

/-- The group of a lane, the first lane of a group, its lanes that carry data, and its spare (R319). -/
def groupOfLane (n : Nat) : Nat := if n ≤ 4 then 0 else if n ≤ 12 then 1 else if n ≤ 21 then 2 else if n ≤ 30 then 3 else 4
def firstLane (g : Nat) : Nat := match g with
  | 0 => 0 | 1 => 5 | 2 => 13 | 3 => 22 | _ => 31
def dataLanes (g : Nat) : Nat := match g with
  | 0 => 4 | 1 => 8 | 2 => 8 | 3 => 8 | _ => 1
def hasSpare (g : Nat) : Bool := g == 0 || g == 2 || g == 3
def spareLane (g : Nat) : Nat := firstLane g + dataLanes g

/-- The power domain of a group's lanes (R319). -/
def laneDomain (g : Nat) : Nat := match g with
  | 0 => 9 | 2 => 11 | 3 => 12 | _ => 10

/-- Whether a lane's line code is PAM4 (R319); the test lane's is what its rate selects, which no register states (log 43). -/
def lanePam4 (d : Dev) (n : Nat) : Bool := if n ≤ 4 then d.acc.cfg.native else true

/-- LN_EYE_TH_n: the reset value follows the line code (R338). -/
def eyeThOf (d : Dev) (n : Nat) : Word :=
  (laneOf d n).eyeTh.getD (if lanePam4 d n then BitVec.ofNat 32 (15 + 200 * 65536) else BitVec.ofNat 32 (40 + 350 * 65536))

/-- Whether a lane's receiver is enabled and powered (R338). -/
def laneOn (d : Dev) (n : Nat) : Bool := domOn d (laneDomain (groupOfLane n)) && (laneOf d n).ctrl.getLsbD 1

/-- Whether a lane is one that host software may test: lane 31, or its group's TEST is 1 (R329, R335, R338). -/
def inTest (d : Dev) (n : Nat) : Bool := n == 31 || (laneGroup d (groupOfLane n)).test

/-- Whether a group's lane carries the port's data: the lanes 0 to 7, a replaced one by the spare (R328, R333). -/
def carrying (d : Dev) (g : Nat) : List Nat :=
  (List.range (dataLanes g)).map (fun k => if (laneGroup d g).spareFor = some k then spareLane g else firstLane g + k)

/-! ### Failure and spare lanes (R331 to R334) -/

/-- The port or channel of a lane leaves service (R332, R342): a client port on the attachment in use loses its link, a cascade port goes DOWN. -/
def laneOutOfService (d : Dev) (n : Nat) : Dev :=
  match groupOfLane n with
  | 1 =>
    (List.range 4).foldl (fun d p =>
      let o := if n ≥ 9 then n - 9 else n - 5
      let onPath := decide ((portOf d p).path = if n ≥ 9 then 1 else 0)
      let mine : Bool := match d.cli.mode with
        | 0 => p == 0
        | 1 => p == o / 2
        | _ => p == o
      if onPath ∧ mine ∧ (portOf d p).link then linkTo d p false else d) d
  | 2 => if cascUp d 0 then cascDown d 0 4 else d
  | 3 => if cascUp d 1 then cascDown d 1 4 else d
  | _ => d

/-- A lane that has failed (R331 to R333, R336): a recalibration stops; a cascade lane is replaced at the next bell where AUTO_SPARE is 1
and the spare is free; with the spare in use NO_SPARE is raised, and the port leaves service. -/
def laneFailed (d : Dev) (n : Nat) : Dev :=
  let g := groupOfLane n
  let x := laneGroup d g
  let k := n - firstLane g
  let d := onLane d n (fun l => { l with recal := none })
  if ¬ hasSpare g then laneOutOfService d n
  else if k = dataLanes g then (if x.spareFor.isSome then laneOutOfService d n else d)
  else if x.spareFor = some k ∨ (x.sparing.map (·.lane)) = some k then d
  else if x.spareFor.isSome ∨ x.sparing.isSome then laneOutOfService (raiseLeaf d 10 (16 + g)) n
  else if g ≠ 0 ∧ x.autoSpare then
    onGroupL d g (fun x => { x with sparing := some { lane := k, back := false, asked := false, copies := 0, endTick := 0 } })
  else d

/-- Whether a lane meets R331. -/
def laneBad (d : Dev) (n : Nat) : Bool :=
  let l := laneOf d n
  let g := groupOfLane n
  l.eyeLow || (l.signal && !l.cdr)
    || ((g == 2 || g == 3) && (laneGroup d g).mode == 2 && !l.markLock && (carrying d g).any (fun j => j != n && (laneOf d j).markLock))

/-- LANE_FAILURE (R332). -/
def execLaneFailure (lane : Nat) (s : State) : Host.Outcome State Fault Refusal :=
  nextDev s (fun d => if lane < 32 ∧ laneOn d lane ∧ laneBad d lane then laneFailed d lane else d)

/-- The spare takes over a lane, or gives it back (R333, R334, R338, R339). -/
def spareSwitch (d : Dev) (g k : Nat) (back : Bool) : Dev :=
  let d := onGroupL d g (fun x => { x with sparing := none, spareFor := if back then none else some k })
  let d := onLane d (spareLane g) (fun l => { l with carries := if back then none else some k })
  let d := onLane d (firstLane g + k) (fun l => { l with replaced := !back })
  if back then d else raiseLeaf d 10 (8 + g)

/-- A checker fed by its own lane's generator over a near-end loopback, in a lane under test (R335): it locks where both take one pattern, and finds no
error. What a far end sends to a checker no command gives (log 172). -/
def checkerStep (d : Dev) (n : Nat) : Dev :=
  let l := laneOf d n
  let near := getField l.ctrl.toNat 4 3 = 1 ∨ getField l.ctrl.toNat 4 3 = 2
  let lock := decide (inTest d n ∧ l.chk ≠ 0 ∧ l.chk ≤ 7 ∧ near ∧ l.gen = l.chk ∧ l.ctrl.getLsbD 0 ∧ l.ctrl.getLsbD 1)
  if l.chkLock = lock then d else onLane d n (fun l => { l with chkLock := lock })

/-- What the lanes do at a bell: checkers, the far end is asked to copy (R333); an access replacement in its 150 µs ends (R334). -/
def laneBell (d : Dev) : Dev :=
  let d := (d.lane.lanes.map (·.1)).foldl checkerStep d
  let d := [2, 3].foldl (fun d g =>
    match (laneGroup d g).sparing with
    | none => d
    | some p =>
      if p.asked then d
      else onGroupL (if cascUp d (g - 2) then cascNear d .laneCopy (g - 2) (.laneCopy (g - 2) p.lane) else d) g
        (fun x => { x with sparing := some { p with asked := true } })) d
  match (laneGroup d 0).sparing with
  | none => d
  | some p => if p.endTick ≤ d.bell.tick then spareSwitch d 0 p.lane p.back else d

/-! ### Adaptation and the eye (R324, R325, R330) -/

/-- A tap's value, a signed byte, as it follows a wanted one in service: by one LSB (R324). -/
def tapStep (was want : Nat) : Nat :=
  let a := (BitVec.ofNat 8 was).toInt
  let b := (BitVec.ofNat 8 want).toInt
  twos 8 (if a < b then a + 1 else if b < a then a - 1 else a)

/-- A floating tap in service: it moves to a new position only from a magnitude below 2 LSB, and enters it at zero (R324). -/
def fltStep (was want : Nat × Nat) : Nat × Nat :=
  let pos := max 17 (min 80 want.2)
  if was.2 = pos then (tapStep was.1 want.1, pos)
  else if (BitVec.ofNat 8 was.1).toInt.natAbs < 2 then (0, pos)
  else (tapStep was.1 want.1, was.2)

/-- The taps of a lane as it adapts: from reset values to those wanted, and in service by steps (R324). -/
def adaptTaps (l : Lane) (dfe : List Nat) (flt : List (Nat × Nat)) : Lane :=
  if ¬ l.adapted then { l with dfe := dfe.map (· % 256), flt := flt.map (fun f => (f.1 % 256, max 17 (min 80 f.2))) }
  else { l with
    dfe := (List.range 16).map (fun k => tapStep (l.dfe.getD k 0) (dfe.getD k (l.dfe.getD k 0))),
    flt := (List.range 3).map (fun j => fltStep (l.flt.getD j (0, 17)) (flt.getD j (l.flt.getD j (0, 17)))) }

/-- LANE_ADAPTED: a lane has acquired its clock and adapted, or adapts on in service (R324); with ADAPT_FREEZE its values hold. The spare access lane so ends
step 4 of R334. -/
def execLaneAdapted (lane peak gain : Nat) (dfe : List Nat) (flt : List (Nat × Nat)) (s : State) : Host.Outcome State Fault Refusal :=
  nextDev s (fun d =>
    if lane > 31 ∨ ¬ laneOn d lane then d
    else
      let d := onLane d lane (fun l =>
        let l := if l.ctrl.getLsbD 8 then l else { adaptTaps l dfe flt with peak := min 15 peak, gain := min 63 gain }
        { l with signal := true, cdr := true, adapted := true })
      match (laneGroup d 0).sparing with
      | some p => if lane = (if p.back then p.lane else 4) then spareSwitch d 0 p.lane p.back else d
      | none => d)

/-- LANE_CDR_LOSS: clock recovery loses lock for 1 µs while signal is present (R331). -/
def execLaneCdrLoss (lane : Nat) (s : State) : Host.Outcome State Fault Refusal :=
  nextDev s (fun d =>
    if lane > 31 ∨ ¬ laneOn d lane ∨ ¬ (laneOf d lane).signal then d
    else
      let d := onLane d lane (fun l => { l with cdr := false, adapted := false, cdrLoss := satInc l.cdrLoss })
      laneFailed (raiseLeaf d 8 lane) lane)

/-- EYE_SCAN: one scan's eye, and EYE_LOW after 16 scans in a row (R330). -/
def execEyeScan (lane height width : Nat) (s : State) : Host.Outcome State Fault Refusal :=
  nextDev s (fun d =>
    if lane > 31 ∨ ¬ laneOn d lane then d
    else
      let th := (eyeThOf d lane).toNat
      let hBad := decide (height % 1024 < getField th 0 10)
      let wBad := decide (width % 1024 < getField th 16 10)
      let l := laneOf d lane
      let bh := if hBad then l.badHeight + 1 else 0
      let bw := if wBad then l.badWidth + 1 else 0
      let good := if hBad ∨ wBad then 0 else l.goodRun + 1
      let now := decide (bh ≥ 16 ∨ bw ≥ 16) || (l.eyeLow && decide (good < 16))
      let d := onLane d lane (fun l => { l with
        height := height % 1024, width := width % 1024, badHeight := min 16 bh, badWidth := min 16 bw, goodRun := min 16 good, eyeLow := now })
      if now ∧ ¬ l.eyeLow then laneFailed (raiseLeaf d 9 lane) lane else d)

/-- A recalibration begun (R325). -/
def recalLane (d : Dev) (n : Nat) : Dev := onLane d n (fun l => { l with recal := some d.bell.tick })

/-- LANE_RECAL_PERIODIC: every lane in service recalibrates (R325). -/
def execLaneRecalPeriodic (s : State) : Host.Outcome State Fault Refusal :=
  nextDev s (fun d => (List.range 32).foldl (fun d n => if laneOn d n then recalLane d n else d) d)

/-- Recalibrations older than 50 ms are complete (R325). -/
def recalSweep (d : Dev) : Dev :=
  onLanes d (fun x => { x with lanes := tmap x.lanes (fun _ l => match l.recal with
    | some t => if t.toNat + 400 ≤ d.bell.tick.toNat then { l with recal := none } else l
    | none => l) })

/-! ### Markers (R327, R328, R333) -/

/-- A cascade lane's marker (R327): the port's lane whose data it carries, 15 for idle, whether it is a copy, the sender's port and the count. -/
def markerBytes (lane : Nat) (copy : Bool) (port count : Nat) : List Byte :=
  let m := beBytes 0xE8174DB2 4 ++ beBytes (lane % 16 + 16 * b2n copy) 1 ++ beBytes port 1 ++ beBytes count 1
  m ++ [crc8 m]

/-- Whether bytes are a correct marker, and the LANE, COPY and COUNT of one (R327). -/
def markerOk (m : List Byte) : Bool := decide (m.length = 8) && beAt m 0 4 == 0xE8174DB2 && byteAt m 7 == (crc8 (m.take 7)).toNat
def markerLane (m : List Byte) : Nat := byteAt m 4 % 16
def markerCopy (m : List Byte) : Bool := byteAt m 4 / 16 % 2 == 1
def markerCount (m : List Byte) : Nat := byteAt m 6

/-- A lane's marker lock with one expected position (R328): the second in a row gains it, four missed lose it. -/
def markStep (l : Lane) (ok : Bool) (count : Nat) : Lane :=
  if ok then { l with marks := min 2 (l.marks + 1), missed := 0, count := count % 256, markLock := l.markLock || decide (l.marks ≥ 1) }
  else if l.markLock then { l with marks := 0, missed := if l.missed ≥ 3 then 0 else l.missed + 1, markLock := decide (l.missed < 3) }
  else { l with marks := 0, missed := 0 }

/-- The replacement of a cascade lane as its copies arrive (R333): three markers compared and the switch at the fourth, or at the next one where the
comparison fails. -/
def sparingStep (d : Dev) (g lane lf : Nat) (copy compareOk : Bool) : Dev :=
  match (laneGroup d g).sparing with
  | none => d
  | some p =>
    let from_ := if p.back then firstLane g + p.lane else spareLane g
    if lane ≠ from_ ∨ ¬ p.asked ∨ (¬ p.back ∧ (lf ≠ p.lane ∨ ¬ copy)) then d
    else if p.copies ≥ 3 ∨ (p.copies ≥ 1 ∧ ¬ compareOk) then spareSwitch d g p.lane p.back
    else onGroupL d g (fun x => { x with sparing := some { p with copies := p.copies + 1 } })

/-- The alignment of a cascade port's group (R328): gained with every carrying lane in lock with equal COUNT and no more than 200 ns of
skew, lost with the lock of a carrying lane. -/
def alignStep (d : Dev) (g skew : Nat) : Dev :=
  let ls := (carrying d g).map (laneOf d)
  let locked := ls.all (·.markLock)
  let equal := ls.all (fun l => l.count == ((ls.map (·.count)).head?.getD 0))
  let x := laneGroup d g
  let d := onGroupL d g (fun x => { x with skewMax := max x.skewMax (skew % 65536) })
  if x.aligned ∧ ¬ locked then
    let d := raiseLeaf (onGroupL d g (fun x => { x with aligned := false, alignLoss := satInc x.alignLoss })) 10 g
    if cascUp d (g - 2) then cascDown d (g - 2) 4 else d
  else if x.aligned then cascAligned d (g - 2)
  else if locked ∧ equal ∧ skew ≤ 200 then cascAligned (onGroupL d g (fun x => { x with aligned := true })) (g - 2)
  else d

/-- LANE_MARKER_RX: an expected marker position on a cascade lane in MARKER mode: the bytes that stand there, the skew seen, and whether the copy
compares (R327, R328, R331, R333). -/
def execLaneMarkerRx (lane : Nat) (marker : List Byte) (skew : Nat) (compareOk : Bool) (s : State) : Host.Outcome State Fault Refusal :=
  nextDev s (fun d =>
    let g := groupOfLane lane
    if lane > 31 ∨ (g ≠ 2 ∧ g ≠ 3) ∨ ¬ laneOn d lane ∨ (laneGroup d g).mode ≠ 2 then d
    else
      let was := (laneOf d lane).markLock
      let d := onLane d lane (fun l => markStep l (markerOk marker) (markerCount marker))
      let d := if markerOk marker then sparingStep d g lane (markerLane marker) (markerCopy marker) compareOk else d
      let d := alignStep d g skew
      if was ∧ ¬ (laneOf d lane).markLock ∧ laneBad d lane then laneFailed d lane else d)

/-- A slip of the word boundary, in BITSLIP mode (R329). -/
def laneSlip (n : Nat) (d : Dev) : Dev :=
  if (laneGroup d (groupOfLane n)).mode = 1 then onLane d n (fun l => { l with slips := (l.slips + 1) % 256 }) else d

/-- LANE_SLIP (R329). -/
def execLaneSlip (lane : Nat) (s : State) : Host.Outcome State Fault Refusal :=
  nextDev s (fun d => if lane < 32 then hostWrites (laneDomain (groupOfLane lane)) (0x400014 + 0x1000 * lane) (laneSlip lane) d else d)

/-! ### Enables -/

/-- Whether the unit of a lane has it enabled: a slice out of DISABLED and its spare, a client port, a cascade port (R338; log 44). -/
def unitEnables (d : Dev) (n : Nat) : Bool :=
  if n < 4 then decide ((tgetD d.acc.slices n Slice.reset).st ≠ .disabled)
  else if n = 4 then (List.range 4).any (fun k => decide ((tgetD d.acc.slices k Slice.reset).st ≠ .disabled))
  else if n ≤ 12 then (List.range 4).any (fun p => (portOf d p).f.enable && (match d.cli.mode with
    | 0 => p == 0
    | 1 => p == (n - 5) % 4 / 2 && p < 2
    | _ => p == (n - 5) % 4))
  else if n ≤ 30 then getField d.casc.portEn (if n ≤ 21 then 0 else 1) 1 == 1
  else (laneOf d 31).ctrl.getLsbD 0

/-- A lane's enables set: a receiver that is enabled starts from reset values, and one that is disabled loses what it held (R324, R338). -/
def laneEnable (l : Lane) (tx rx : Bool) : Lane :=
  let was := l.ctrl.getLsbD 1
  let l := { l with ctrl := (l.ctrl &&& ~~~3#32) ||| (if tx then 1#32 else 0#32) ||| (if rx then 2#32 else 0#32) }
  if was = rx then l
  else { l with signal := false, cdr := false, adapted := false, markLock := false, marks := 0, missed := 0, eyeLow := false, badHeight := 0,
                badWidth := 0, goodRun := 0, peak := 0, gain := 0, dfe := [], flt := [], slips := 0, recal := none }

/-- TX_EN and RX_EN of the lanes that are not under test brought in line with their units (R338; log 44). -/
def syncLanes (d : Dev) : Dev :=
  (List.range 31).foldl (fun d n =>
    let e := unitEnables d n
    if inTest d n ∨ ((laneOf d n).ctrl.getLsbD 0 = e ∧ (laneOf d n).ctrl.getLsbD 1 = e) then d
    else onLane d n (fun l => laneEnable l e e)) d

/-! ### Commands (R326, R334, R337) -/

/-- Whether a group carries a unit in service (R337): a client port, a cascade port in its Commons, or an access slice. -/
def groupBusy (d : Dev) (g : Nat) : Bool :=
  match g with
  | 0 => (List.range 4).any (fun k => decide ((tgetD d.acc.slices k Slice.reset).st ≠ .disabled))
  | 1 => (List.range 4).any (fun p => (portOf d p).f.enable)
  | 2 => cascUp d 0
  | 3 => cascUp d 1
  | _ => false

/-- LANE_GROUP_CONFIG (R326, R336, R337). -/
def actLaneGroupConfig (group mode flags : Nat) (v d : Dev) : ActResult :=
  if group > 4 ∨ mode > 2 ∨ flags > 3 ∨ (mode = 0 ∧ group ≠ 0) ∨ (mode = 2 ∧ group = 0) then .refuse .badParam 0 (firstBad [(decide (group ≤ 4), 0), (decide (mode ≤ 2 ∧ ¬ (mode = 0 ∧ group ≠ 0) ∧ ¬ (mode = 2 ∧ group = 0)), 1), (false, 2)])
  else if getField flags 1 1 = 1 ∧ (groupBusy v group ∨ (laneGroup v group).sparing.isSome) then .refuse .busy 0 noField
  else .stage false 0 [] none d

/-- LANE_GROUP_CONFIG at its bell (R337). -/
def applyLaneGroupConfig (group mode flags : Nat) (d : Dev) : Dev :=
  onGroupL d group (fun x => { x with mode := mode, autoSpare := getField flags 0 1 == 1, test := getField flags 1 1 == 1 })

/-- LANE_RECAL (R325). -/
def actLaneRecal (lane : Nat) (_v d : Dev) : ActResult := if lane > 31 then .refuse .badParam 0 0 else .stage false 0 [] none d

/-- LANE_RECAL at its bell (R325). -/
def applyLaneRecal (lane : Nat) (d : Dev) : Dev := if laneOn d lane then recalLane d lane else d

/-- LANE_SPARE (R334, R337): the lane is the lane of the group (log 45). -/
def actLaneSpare (group lane action : Nat) (v d : Dev) : ActResult :=
  let x := laneGroup v group
  if group > 4 ∨ ¬ hasSpare group ∨ lane ≥ dataLanes group ∨ action > 1 then .refuse .badParam 0 (firstBad [(decide (group ≤ 4) && hasSpare group, 0), (decide (lane < dataLanes group), 1), (false, 2)])
  else if action = 0 ∧ (x.spareFor.isSome ∨ x.sparing.isSome) then .refuse .badParam 0 2
  else if action = 1 ∧ x.spareFor ≠ some lane then .refuse .badParam 0 1
  else if group = 0 ∧ (tgetD v.acc.slices lane Slice.reset).ch = .active then .refuse .busy 0 noField
  else .stage false 0 [] none d

/-- LANE_SPARE at its bell: a cascade lane by the steps of R333; an access lane by those of R334, the switch lines set and the lane's values
loaded, and the replacement at an end by the second bell. -/
def applyLaneSpare (group lane action : Nat) (d : Dev) : Dev :=
  let back := action == 1
  let p : Sparing := { lane := lane, back := back, asked := false, copies := 0, endTick := d.bell.tick + 2 }
  let d := onGroupL d group (fun x => { x with sparing := some p })
  if group ≠ 0 then d
  else
    let d := onLanes d (fun x => { x with spareSel := lane, spareEn := !back })
    let l := laneOf d lane
    if back then d
    else onLane d 4 (fun s => { s with peak := l.peak, gain := l.gain, dfe := l.dfe, flt := l.flt })

/-! ### Registers (R338, R339) -/

/-- LN_STATUS_n. -/
def laneStatus (l : Lane) : Nat :=
  b2n l.signal + fieldAt (b2n l.cdr) 1 + fieldAt (b2n l.adapted) 2 + fieldAt (b2n l.markLock) 3 + fieldAt (b2n l.eyeLow) 4
    + fieldAt (b2n l.carries.isSome) 5 + fieldAt (b2n l.replaced) 6 + fieldAt (l.carries.getD 0xF) 8

/-- A register of lane `n`. -/
def laneRegOf (d : Dev) (n off : Nat) : Nat :=
  let l := laneOf d n
  if 0x100 ≤ off ∧ off < 0x140 then l.dfe.getD ((off - 0x100) / 4) 0
  else if 0x140 ≤ off ∧ off < 0x14C then
    let f := l.flt.getD ((off - 0x140) / 4) (0, 17)
    f.1 + fieldAt f.2 16
  else
    match off with
    | 0x000 => l.ctrl.toNat + fieldAt (b2n l.txPol) 2 + fieldAt (b2n l.rxPol) 3
    | 0x004 => laneStatus l
    | 0x008 => l.peak + fieldAt l.gain 4
    | 0x00C => l.height + fieldAt l.width 16
    | 0x010 => (eyeThOf d n).toNat
    | 0x014 => fieldAt l.slips 8
    | 0x018 => l.gen + fieldAt l.chk 4 + fieldAt (b2n l.chkLock) 8
    | 0x01C => l.prbsErr.toNat
    | 0x020 => l.cdrLoss.toNat
    | 0x024 => l.wordLo.toNat
    | 0x028 => l.wordHi.toNat
    | _ => 0

/-- A register of group `g`. -/
def groupRegOf (d : Dev) (g off : Nat) : Nat :=
  let x := laneGroup d g
  match off with
  | 0x00 => x.mode + fieldAt (b2n x.autoSpare) 4 + fieldAt (b2n x.test) 8
  | 0x04 => b2n x.aligned + fieldAt (b2n x.spareFor.isSome) 1 + fieldAt (x.spareFor.getD 0xF) 4 + fieldAt x.skewMax 16
  | 0x08 => x.alignLoss.toNat
  | _ => 0

/-- A LANE register, by its offset in the block. -/
def laneReg (d : Dev) (off : Nat) : Nat :=
  if off < 0x20000 then laneRegOf d (off / 0x1000) (off % 0x1000)
  else if off < 0x20500 then groupRegOf d ((off - 0x20000) / 0x100) (off % 0x100)
  else
    match off with
    | 0x30000 => d.lane.spareSel + fieldAt (b2n d.lane.spareEn) 2
    | 0x30004 => d.lane.spareSkip.toNat
    | _ => 0

/-- The domain whose power a LANE register follows (R339). -/
def laneRegDomain (off : Nat) : Nat :=
  if off < 0x20000 then laneDomain (groupOfLane (off / 0x1000)) else if off < 0x20500 then laneDomain ((off - 0x20000) / 0x100) else 2

/-- What a read clears (R7). -/
def laneReadClear (d : Dev) (off : Nat) : Dev :=
  if off < 0x20000 then
    match off % 0x1000 with
    | 0x01C => onLane d (off / 0x1000) (fun l => { l with prbsErr := 0 })
    | 0x020 => onLane d (off / 0x1000) (fun l => { l with cdrLoss := 0 })
    | _ => d
  else if off < 0x20500 ∧ off % 0x100 = 8 then onGroupL d ((off - 0x20000) / 0x100) (fun g => { g with alignLoss := 0 })
  else if off = 0x30004 then onLanes d (fun x => { x with spareSkip := 0 })
  else d

/-- A host write of a lane's register (R335, R338); none where it is command-managed. The polarity fields are the host's throughout. -/
def laneWrite (d : Dev) (off v : Nat) : Option Dev :=
  if off ≥ 0x20000 then (if off < 0x20500 ∧ off % 0x100 = 0 then none else some d)
  else
    let n := off / 0x1000
    match off % 0x1000 with
    | 0x000 =>
      let d := if d.fold.boot.sealed then d else onLane d n (fun l => { l with txPol := getField v 2 1 == 1, rxPol := getField v 3 1 == 1 })
      some (if inTest d n then
        onLane d n (fun l => { laneEnable l (getField v 0 1 == 1) (getField v 1 1 == 1) with
          ctrl := BitVec.ofNat 32 (getField v 0 2 + fieldAt (if getField v 4 3 > 3 then 0 else getField v 4 3) 4 + fieldAt (getField v 8 1) 8) })
      else d)
    | 0x010 => some (onLane d n (fun l => { l with eyeTh := some (BitVec.ofNat 32 (getField v 0 10 + fieldAt (getField v 16 10) 16)) }))
    | 0x014 => some (if getField v 0 1 = 1 then laneSlip n d else d)
    | 0x018 => some (onLane d n (fun l => { l with gen := getField v 0 4, chk := getField v 4 4 }))
    | 0x024 => some (onLane d n (fun l => { l with wordLo := BitVec.ofNat 32 v }))
    | 0x028 => some (onLane d n (fun l => { l with wordHi := BitVec.ofNat 32 v }))
    | _ => some d

/-- LANE_QUERY: the registers of R338 (R337). -/
def actLaneQuery (lane : Nat) (_v d : Dev) : ActResult :=
  if lane > 31 then .refuse .badParam 0 0
  else .read (([0x000, 0x004, 0x008, 0x00C, 0x010, 0x014, 0x018, 0x01C, 0x020, 0x024, 0x028] ++ (List.range 16).map (fun k => 0x100 + 4 * k)
    ++ (List.range 3).map (fun k => 0x140 + 4 * k)).map (laneRegOf d lane)) d

end Sys2Proof.Machine
end

