-- ==== Sys2Proof/Machine/AccBase.lean ====
section
/-! DEFINITION. What every part of the access link shares: slices, counters, the allocation map, messages of the bond, departures and the
changes of state (chapters 07 and 08). -/

namespace Sys2Proof.Machine

/-- The device with ACC changed. -/
def onAcc (d : Dev) (f : AccState → AccState) : Dev := { d with acc := f d.acc }

/-- Slice `n`. -/
def sliceOf (d : Dev) (n : Nat) : Slice := tgetD d.acc.slices n Slice.reset

/-- The device with slice `n` changed. -/
def onSlice (d : Dev) (n : Nat) (f : Slice → Slice) : Dev := onAcc d (fun a => { a with slices := tupd a.slices n Slice.reset f })

/-- The device with the bond changed. -/
def onBond (d : Dev) (f : BondState → BondState) : Dev := onAcc d (fun a => { a with bond := f a.bond })

/-- Counter `i` of slice `n` advanced (R259, R294). -/
def accCount (d : Dev) (n i k : Nat) : Dev := onSlice d n (fun s => { s with cnt := tset s.cnt i (satAdd (tgetD s.cnt i 0) k) })

/-- Bond counter `i` advanced (R295). -/
def bondCount (d : Dev) (i k : Nat) : Dev := onBond d (fun b => { b with cnt := tset b.cnt i (satAdd (tgetD b.cnt i 0) k) })

/-- Leaf `bit` of slice `n` (R533). -/
def accLeaf (d : Dev) (n bit : Nat) : Dev := raiseLeaf d (3 + n) bit

/-! ### The allocation map (R283, R284) -/

/-- The root at which the queues of an Alloc-ID that is not assigned wait; a bonded one's has slice 4. -/
def unassignedRoot (slice alloc : Nat) : Nat := 0x10000 + slice * 16384 + alloc

/-- Every group of one root moved to another. -/
def rerootGroups (d : Dev) (old new : Nat) : Dev :=
  onTm d (fun t => { t with groups := tmap t.groups (fun _ g => if g.root = old then { g with root := new } else g) })

/-- The lowest free TM node for an Alloc-ID (R401). -/
def freeNode (d : Dev) : Option Nat := tfree d.tm.roots 768 256

/-- A node given to an Alloc-ID: the queues that waited for it join it (R284). -/
def takeNode (d : Dev) (slice alloc node : Nat) : Dev :=
  rerootGroups (onTm d (fun t => { t with roots := tset t.roots node (rootReset node) })) (unassignedRoot slice alloc) node

/-- A node given back: its queues stay, and wait. -/
def giveNode (d : Dev) (slice alloc node : Nat) : Dev :=
  onAcc (rerootGroups (onTm d (fun t => { t with roots := tdel t.roots node })) node (unassignedRoot slice alloc))
    (fun a => { a with carry := tdel a.carry node })

/-- The entry of an Alloc-ID in a slice's map. -/
def allocEntry (s : Slice) (alloc : Nat) : Option (Nat × AllocEnt) := s.allocs.find? (fun e => e.2.id == alloc)

/-- The unbonded Alloc-IDs of a slice removed, their nodes given back. -/
def dropAllocs (d : Dev) (n : Nat) : Dev :=
  let es := (sliceOf d n).allocs.filter (fun e => !e.2.bonded)
  let d := es.foldl (fun d e => giveNode d n e.2.id e.2.node) d
  onSlice d n (fun s => { s with allocs := s.allocs.filter (fun e => e.2.bonded), occ := [] })

/-! ### Upstream PLOAM and control messages -/

/-- A PLOAM message queued; with 8 waiting it is not, and is counted (R237). -/
def ploamQueue (d : Dev) (n : Nat) (m : PloamUp) : Dev :=
  if (sliceOf d n).upq.length ≥ 8 then accCount d n 3 1 else onSlice d n (fun s => { s with upq := s.upq ++ [m] })

/-- A Dying_Gasp queued at the head (R237). -/
def gaspQueue (d : Dev) (n : Nat) : Dev :=
  if (sliceOf d n).upq.length ≥ 8 then accCount d n 3 1 else onSlice d n (fun s => { s with upq := .dyingGasp :: s.upq })

/-- A control message queued for the default allocation of slice `n`. -/
def ctlQueue (d : Dev) (n : Nat) (m : CtlMsg) : Dev := onSlice d n (fun s => { s with ctl := s.ctl ++ [m] })

/-! ### The bond's messages -/

/-- Whether channel `n` is ACTIVE. -/
def chActive (d : Dev) (n : Nat) : Bool := (sliceOf d n).ch == .active

/-- The member mask. -/
def memberMask (d : Dev) : Nat := sumN ((List.range 4).map (fun n => if chActive d n then 2 ^ n else 0))

/-- The lowest ACTIVE channel. -/
def lowestMember (d : Dev) : Option Nat := (List.range 4).find? (fun n => chActive d n)

/-- A bond message's bytes (R273, R274): its fields, its content from byte 8, and its integrity check. -/
def bondBytes (slice onu type seq bond epoch chan : Nat) (content : List Nat) : List Byte :=
  let m := beBytes (onu % 1024) 2 ++ beBytes type 1 ++ beBytes seq 1 ++ beBytes bond 2 ++ beBytes epoch 1 ++ beBytes chan 1
    ++ (content ++ List.replicate (32 - content.length) 0).flatMap (fun v => beBytes v 1)
  m ++ beBytes (Config.bondMic slice m) 8

/-- The bytes of a message as values sent. -/
def byteVals (bs : List Byte) : List Nat := bs.map (·.toNat)

/-- A bond message queued on slice `n` with the next MSG_SEQ of that slice (R273). -/
def bondSend (d : Dev) (n type chan : Nat) (content : List Nat) : Dev :=
  let seq := tgetD d.acc.bond.mySeq n 0
  let d := onBond d (fun b => { b with mySeq := tset b.mySeq n ((seq + 1) % 256) })
  ctlQueue d n { kind := .bondMsg, len := 48, vals := byteVals (bondBytes n (sliceOf d n).onu type seq d.acc.bond.id d.acc.bond.epoch chan content) }

/-- A message that wants an answer sent for the first time (R278): repeated every 20 ms. -/
def bondAsk (d : Dev) (o : BondOut) (content : List Nat) : Dev :=
  let d := onBond d (fun b => { b with outs := b.outs.filter (fun x => !(x.type == o.type && x.chan == o.chan)) ++
    [{ o with seq := tgetD b.mySeq o.slice 0, sends := 1, nextAt := d.bell.tick + 160 }] })
  bondSend d o.slice o.type o.chan content

/-- CHANNEL_STATUS of a channel queued on a slice (R274). -/
def chanStatus (d : Dev) (slice chan status cause : Nat) : Dev :=
  bondAsk d { type := 0x83, chan := chan, slice := slice, status := status, cause := cause, seq := 0, sends := 0, nextAt := 0 } [status, cause]

/-- The content of BOND_REQUEST (R274). -/
def requestContent (d : Dev) : List Nat := [d.acc.bond.mask, 255, 40]

/-- Forming begun on a slice: BOND_REQUEST (R276 step 1). -/
def bondForm (d : Dev) (n : Nat) : Dev :=
  bondAsk (onBond d (fun b => { b with st := .forming })) { type := 0x81, chan := 0xFF, slice := n, status := 0, cause := 0, seq := 0, sends := 0, nextAt := 0 } (requestContent d)

/-- Whether slice `n` is eligible (R293). -/
def eligible (d : Dev) (n : Nat) : Bool := d.acc.bond.mask.testBit n

/-- The bursts that a departing channel has in hand are suppressed: the bonded fragments of committed ones are abandoned, their PLOAM
messages go back to the head of the queue, and none not yet committed is built (R280, R281; log 38). -/
def suppressBursts (d : Dev) (n : Nat) : Dev :=
  let parts := ((sliceOf d n).bursts.map (fun b => b.parts.getD [])).flatten
  let d := bondCount d 6 (sumN (parts.map (fun p => p.seqs.length)))
  onSlice d n (fun s => { s with upq := parts.filterMap (·.ploam) ++ s.upq, bursts := [] })

/-- Hold deadlines shortened to 2 µs after `now`, where that is earlier (R271). -/
def shortenHolds (d : Dev) (now : Nat) : Dev :=
  onBond d (fun b => { b with held := b.held.map (fun h => { h with deadline := min h.deadline (now + 2000) }) })

/-- A channel leaves the bond (R279 to R281), its cause detected at `now`: OUT 1 µs later, its cause latched, its bursts suppressed, deadlines shortened, the reference passed on
(R41), BOND_LEAVE, and CHANNEL_STATUS on the lowest surviving channel unless the head end took it out. -/
def departure (d : Dev) (n cause now : Nat) : Dev :=
  if (sliceOf d n).ch = .out then d
  else
    let wasRef := d.bell.lock.refSlice == n
    let d := onSlice d n (fun s => { s with ch := .out, leaveCause := cause, leaveFrame := none, usSuspend := false })
    let d := accCount d n 18 1
    let d := shortenHolds (suppressBursts d n) (now + 1000)
    let d := match wasRef, lowestMember d with
      | true, some m => setRefSlice m (sliceOf d m).skew d
      | _, _ => d
    let d := accLeaf d n 11
    match lowestMember d with
    | some m => if cause = 4 then d else chanStatus d m n 0 cause
    | none => d

/-- The bonded Alloc-IDs removed from every map, their nodes given back (R276, R283). -/
def dropBonded (d : Dev) : Dev :=
  let d := d.acc.bond.ids.foldl (fun d e => giveNode d 4 e.1 e.2) d
  let d := (List.range 4).foldl (fun d n => onSlice d n (fun s => { s with allocs := s.allocs.filter (fun e => !e.2.bonded) })) d
  onBond d (fun b => { b with ids := [] })

/-- The bond ended (R276): every channel OUT, held fragments due within 2 µs, bonded Alloc-IDs removed, UNBONDED. -/
def bondEnd (d : Dev) (now : Nat) : Dev :=
  let d := (List.range 4).foldl (fun d n => if (sliceOf d n).ch = .out then d else suppressBursts (onSlice d n (fun s => { s with ch := .out, leaveFrame := none, usSuspend := false })) n) d
  onBond (dropBonded (shortenHolds d now)) (fun b => { b with st := .unbonded, outs := [] })

/-! ### Keys (R244 to R248) -/

/-- Whether a key's use stands at 7/8 of a limit (R247). -/
def gemKeyWarn (k : GemKey) : Bool := decide (8 * k.frames ≥ 7 * 2 ^ 32 ∨ 8 * k.bytes ≥ 7 * 2 ^ 46)

/-- The keys in use: one down, one up, and the group keys. -/
def keysInUse (k : KeyState) : List GemKey := ([k.dsIndex, 2 + k.usIndex, 4, 5]).filterMap (fun i => tget k.keys i)

/-- The use of key `slot` counted for one GEM frame: whether it may be used, and the causes of R247 and R291. -/
def useKey (d : Dev) (n slot bytes now : Nat) : Bool × Dev :=
  match tget (sliceOf d n).keys.keys slot with
  | none => (false, d)
  | some k =>
    if k.retired then (false, d)
    else
      let k' := { k with frames := k.frames + 1, bytes := k.bytes + bytes }
      let k' := { k' with retired := decide (k'.frames ≥ 2 ^ 32 ∨ k'.bytes ≥ 2 ^ 46) }
      let d := onSlice d n (fun s => { s with keys := { s.keys with keys := tset s.keys.keys slot k' } })
      let d := raiseIf (gemKeyWarn k' && !gemKeyWarn k) d (3 + n) 5
      if ¬ k'.retired then (true, d)
      else
        let d := accLeaf d n 6
        if ¬ chActive d n then (true, d)
        else if slot = 2 ∨ slot = 3 then
          (true, chanStatus (onSlice d n (fun s => { s with usSuspend := true })) (((List.range 4).find? (fun m => m != n && chActive d m)).getD n) n 0 5)
        else (true, departure d n 5 now)

/-- What changes when a slice has no ONU-ID any more: keys, GEM ports, Alloc-IDs (R238). -/
def dropTraffic (d : Dev) (n : Nat) : Dev :=
  onSlice (dropAllocs d n) n (fun s => { s with gem := [], reasm := [], keys := KeyState.none, bursts := [], ctl := [] })

/-! ### Changes of state (R238 to R240, R253) -/

/-- Ticks in a second. -/
def ticksPerS : Nat := 8000

/-- One flap counted (R239, R253): the state it leads to, with the quarantine's length in seconds where it is the fourth. -/
def countFlap (d : Dev) (n : Nat) : AccSt × Dev :=
  let d := accCount d n 12 1
  let t := d.bell.tick
  let win := d.acc.cfg.flapWindow * ticksPerS
  let recent := (sliceOf d n).flaps.filter (fun f => decide (t.toNat - f.toNat < win)) ++ [t]
  if recent.length < 4 then (.o11, onSlice d n (fun s => { s with flaps := recent }))
  else
    let qs := (sliceOf d n).quars.filter (fun q => decide (t.toNat - q.toNat < 1800 * ticksPerS))
    let len := min (d.acc.cfg.qbase * 2 ^ qs.length) (16 * d.acc.cfg.qbase)
    (.quarantine, accLeaf (onSlice d n (fun s => { s with flaps := [], quars := qs ++ [t], quarFor := len })) n 8)

/-- Whether a slice carries an ONU-ID and an equalisation delay in a state, and learned profiles, and traffic (R238). -/
def keepsId (st : AccSt) : Bool := match st with | .o4 | .o5 | .o6 => true | _ => false
def keepsProfiles (st : AccSt) : Bool := match st with | .o12 | .o23 | .o4 | .o5 | .o6 => true | _ => false
def keepsTraffic (st : AccSt) : Bool := match st with | .o5 | .o6 => true | _ => false

/-- Whether ACCn_TXKILL is asserted (R238). -/
def killsTx (st : AccSt) : Bool := match st with | .disabled | .o7 | .killed => true | _ => false

/-- What entry to O5 does in native mode: the bond's request, or READY for a further slice (R276). -/
def enterO5 (d : Dev) (n : Nat) : Dev :=
  if ¬ d.acc.cfg.native ∨ ¬ eligible d n then d
  else if d.acc.bond.st = .unbonded then (if d.acc.bond.request then bondForm d n else d)
  else if (sliceOf d n).ch = .out then chanStatus d n n 1 0 else d

/-- A slice goes to a state: what the state does not keep is discarded, timers start, pins follow, STATE_CHANGE is raised, and a member
that leaves O5 leaves the bond (R238 to R240, R253, R279 cause 7). A KILLED slice stays until its release. -/
def setAccSt (d : Dev) (n : Nat) (want : AccSt) (now : Nat) : Dev :=
  let old := (sliceOf d n).st
  if old = want then d
  else
    let (st, d) := if want = .o11 ∧ (old = .o5 ∨ old = .o6) then countFlap d n else (want, d)
    let d := if old = .o5 then departure d n 7 now else d
    let d := if keepsTraffic st then d else dropTraffic d n
    let t := d.bell.tick
    let d := onSlice d n (fun s => { s with
      st := st,
      onu := if keepsId st then s.onu else 0x3FF,
      eqd := if keepsId st then s.eqd else 0,
      eqdWas := if keepsId st then s.eqdWas else none,
      profiles := if keepsProfiles st then s.profiles else [],
      profWas := if keepsProfiles st then s.profWas else [],
      stopHeld := if st = .o7 then true else if old = .o7 ∧ st = .o11 then false else s.stopHeld,
      sync := if st = .o11 ∨ st = .disabled then false else s.sync,
      foundRun := if st = .o11 ∨ st = .disabled then 0 else s.foundRun,
      badRun := 0,
      to1At := if st = .o4 then t else s.to1At,
      to2At := if st = .o6 then t else s.to2At,
      upq := if st = .disabled then [] else s.upq,
      gasp := if st = .disabled then none else s.gasp,
      bursts := if keepsTraffic st ∨ st = .o4 ∨ st = .o23 then s.bursts else [],
      ben := false, txkill := killsTx st })
    let d := accLeaf d n 0
    if st = .o5 then enterO5 d n else d

/-- The last member of every slice's activation gone: ACC_DISABLE of every slice ends the bond (R276). -/
def endIfAllDisabled (d : Dev) : Dev :=
  if (List.range 4).all (fun n => (sliceOf d n).st == .disabled) ∧ d.acc.bond.st ≠ .unbonded then bondEnd d (bellNs d) else d

end Sys2Proof.Machine
end

