-- ==== Sys2Proof/Machine/Native.lean ====
section
/-! DEFINITION. The native downstream line (R262 to R264): PAM4 levels, the frame's codewords, the synchronisation block and the scrambler. -/

namespace Sys2Proof.Machine

/-! ### PAM4 (R262) -/

/-- The pair of bits that a level carries, the first bit first: Gray-mapped, levels in ascending optical power. -/
def pamBits (level : Nat) : List Bool :=
  match level with
  | 0 => [false, false]
  | 1 => [false, true]
  | 2 => [true, true]
  | _ => [true, false]

/-- The level of a pair of bits. -/
def pamLevel (a b : Bool) : Nat :=
  match a, b with
  | false, false => 0
  | false, true => 1
  | true, true => 2
  | true, false => 3

/-- The level of each pair of bits, in order. -/
def pamLevels (bits : List Bool) : List Nat :=
  match bits with
  | a :: b :: r => pamLevel a b :: pamLevels r
  | _ => []

/-- The bits of a byte as sent, the most significant first (log 170), and bits put into bytes. -/
def byteBits (b : Byte) : List Bool := (List.range 8).map (fun i => b.getLsbD (7 - i))
def bitsNat (bits : List Bool) : Nat := bits.foldl (fun a b => 2 * a + b2n b) 0
def bitsBytes (bits : List Bool) : List Byte :=
  match bits with
  | a :: b :: c :: d :: e :: f :: g :: h :: r => BitVec.ofNat 8 (bitsNat [a, b, c, d, e, f, g, h]) :: bitsBytes r
  | _ => []

/-! ### The frame (R262) -/

/-- The bits of the synchronisation block, of codeword `k` and of its information, and of the frame: the code (17280, 14592), the first codeword shortened by 288. -/
def psbBits : Nat := 288
def codewordBits (k : Nat) : Nat := if k = 0 then 16992 else 17280
def infoBits (k : Nat) : Nat := if k = 0 then 14304 else 14592
def codewords : Nat := 720
def frameBits : Nat := psbBits + sumN ((List.range codewords).map codewordBits)

/-- Where codeword `k` begins in its frame. -/
def codewordAt (k : Nat) : Nat := psbBits + (if k = 0 then 0 else 16992 + 17280 * (k - 1))

/-! ### The scrambler (R264) -/

/-- Its register at the first bit after the synchronisation block: FRAME_COUNT in bits [57:10], ones below. -/
def scramblerSeed (frameCount : Nat) : BitVec 58 := BitVec.ofNat 58 (frameCount % 2 ^ 48 * 1024 + 0x3FF)

/-- Bits through the scrambler of polynomial x⁵⁸ + x³⁹ + 1: each is XORed with the register's output, which is shifted in again (log 170). -/
def scrambleBits (s : BitVec 58) (bits : List Bool) : List Bool :=
  match bits with
  | [] => []
  | b :: r =>
    let o := s.getLsbD 57 ^^ s.getLsbD 38
    (o ^^ b) :: scrambleBits ((s <<< 1) ||| (if o then 1 else 0)) r

/-- What follows the synchronisation block scrambled, or descrambled, for a frame. -/
def nativeScramble (frameCount : Nat) (bits : List Bool) : List Bool := scrambleBits (scramblerSeed frameCount) bits

/-- The information bytes of the codewords in descrambled bits that follow the synchronisation block, as far as these reach; the information bits of a codeword come first
in it (log 170). They form the FS frame. -/
def fsBytes (bits : List Bool) : List Byte :=
  bitsBytes ((List.range codewords).flatMap (fun k => (bits.drop (codewordAt k - psbBits)).take (infoBits k)))

/-! ### The synchronisation block (R263) -/

/-- NSYNC. -/
def nsync : List Byte := beBytes 0x5A3CE1B70D96F248 8

/-- The synchronisation block that the head end sends. -/
def psbBytes (frameCount bondId epoch chan members heId : Nat) : List Byte :=
  let count := beBytes frameCount 6
  let bond := beBytes bondId 2 ++ beBytes epoch 1 ++ beBytes (chan % 4 + 4 * (members % 16)) 1 ++ [0, 0]
  nsync ++ count ++ beBytes (crc16 count).toNat 2 ++ bond ++ beBytes (crc16 bond).toNat 2 ++ beBytes heId 8 ++ [0, 0, 0, 0]

/-- A field of a block, byte 0 sent first. -/
def psbField (p : List Byte) (off n : Nat) : Nat := leNat ((p.drop off).take n).reverse

/-- Whether NSYNC stands at its place, and whether FC_CRC is right. -/
def psbFound (p : List Byte) : Bool := p.take 8 == nsync
def psbCrcOk (p : List Byte) : Bool := psbField p 14 2 == (crc16 ((p.drop 8).take 6)).toNat && decide (p.length = 36)

/-- FRAME_COUNT, and CHAN's channel index. -/
def psbCount (p : List Byte) : Nat := psbField p 8 6
def psbChan (p : List Byte) : Nat := psbField p 19 1 % 4

/-- A native frame as its slice takes it from the levels received (R262, R263, R266): NSYNC, FC_CRC, whether FRAME_COUNT advances by 1 on the last
frame's, and the channel that CHAN names. -/
def nativeView (s : Slice) (f : DsFrame) : DsFrame :=
  let p := bitsBytes ((f.levels.flatMap pamBits).take psbBits)
  let first := s.foundRun = 0 ∧ ¬ s.sync
  { f with found := psbFound p, countOk := psbCrcOk p && decide (first ∨ psbCount p = (s.frame + 1) % 2 ^ 48), frameCount := psbCount p, chan := psbChan p }

/-- The FS frame that the levels of a native frame carry, descrambled (R262, R264). -/
def nativeFs (f : DsFrame) : List Byte := fsBytes (nativeScramble f.frameCount ((f.levels.flatMap pamBits).drop psbBits))

end Sys2Proof.Machine
end

