-- ==== Sys2Proof/Machine/Ploam.lean ====
section
/-! DEFINITION. Downstream synchronisation, PLOAM messages, timers and keys of a slice (chapter 07). -/

namespace Sys2Proof.Machine

/-! ### Downstream synchronisation (R236, R263, R266, R267, R279) -/

/-- LODS declared (R236, R238). -/
def lods (d : Dev) (n now : Nat) : Dev :=
  let d := accLeaf (accCount (onSlice d n (fun s => { s with sync := false, foundRun := 0, badRun := 0 })) n 11 1) n 1
  match (sliceOf d n).st with
  | .o12 => setAccSt d n .o11 now
  | .o23 => setAccSt d n .o11 now
  | .o4 => setAccSt d n .o11 now
  | .o5 => setAccSt d n .o6 now
  | _ => d

/-- Sync acquired (R236, R238): O1.2 from O1.1, and O5 again from O6. -/
def syncUp (d : Dev) (n now : Nat) : Dev :=
  let d := onSlice d n (fun s => { s with sync := true, badRun := 0 })
  match (sliceOf d n).st with
  | .o11 => setAccSt d n .o12 now
  | .o6 => setAccSt d n .o5 now
  | _ => d

/-- DOWNSTREAM_FRAME: a frame's synchronisation found or missed (R236, R266, R267). One missed or errored frame takes a member out of the
bond (R279 cause 2), as LEAVE_FRAME does (cause 4); on the reference slice it is a missing reference event (R43). -/
def downstreamFrame (d : Dev) (n : Nat) (f : DsFrame) : Dev :=
  if (sliceOf d n).st = .disabled ∨ ¬ domOn d (4 + n) then d
  else
    let native := d.acc.cfg.native
    let f := if native then nativeView (sliceOf d n) f else f
    let d := onSlice d n (fun s => { s with fs := if native ∧ f.found then nativeFs f else [] })
    let good := f.found && f.countOk
    let bad := native && decide (f.chan ≠ n)
    let d := onSlice d n (fun s => { s with
      eqdWas := none, profWas := s.profiles, frameAt := f.stamp, frame := if good then f.frameCount else s.frame + 1, skew := if good then f.skew else s.skew,
      chanOk := if good then !bad else s.chanOk })
    let d := accCount (accCount d n 13 f.fecCorr) n 14 f.fecUncorr
    let d := if good ∧ bad then accCount d n 19 1 else d
    let d := if good then d else departure d n 2 f.now
    let d := if ¬ good ∧ d.bell.lock.src = 1 ∧ d.bell.lock.refSlice = n then referenceMissing d else d
    let d := match (sliceOf d n).leaveFrame with
      | some k => if good ∧ f.frameCount ≥ k then departure d n 4 f.now else d
      | none => d
    if good then
      if (sliceOf d n).sync then onSlice d n (fun s => { s with badRun := 0 })
      else
        let d := onSlice d n (fun s => { s with foundRun := s.foundRun + 1 })
        if (sliceOf d n).foundRun ≥ 2 then syncUp d n f.now else d
    else
      let d := onSlice d n (fun s => { s with foundRun := 0, badRun := s.badRun + 1 })
      if (sliceOf d n).sync ∧ (sliceOf d n).badRun ≥ 4 then lods d n f.now else d

/-- DOWNSTREAM_FRAME (R236). -/
def execDownstreamFrame (slice : Nat) (f : DsFrame) (s : State) : Host.Outcome State Fault Refusal :=
  nextDev s (fun d => if slice < 4 then downstreamFrame d slice f else d)

/-- OPTICS_SD_LOSS: ACCn_SD has reported loss of signal for 2 µs, or reports signal again (R236, R279 cause 1). -/
def execOpticsSdLoss (slice : Nat) (lost : Bool) (now : Nat) (s : State) : Host.Outcome State Fault Refusal :=
  nextDev s (fun d =>
    if slice ≥ 4 ∨ (sliceOf d slice).st = .disabled ∨ ¬ domOn d (4 + slice) then d
    else
      let d := onSlice d slice (fun x => { x with los := lost })
      if ¬ lost then d
      else
        let d := departure d slice 1 now
        if (sliceOf d slice).sync then lods d slice now else d)

/-! ### PLOAM (R237, R251) -/

/-- The answer to a message that the message itself gives, none where it gives none. -/
abbrev PloamAct := Dev → Dev × Option PloamUp

/-- The response queued, where the slice holds an ONU-ID to answer with, and kept for a repeat of the message (R237, R251). -/
def ploamAnswer (d : Dev) (n : Nat) (m : Option PloamUp) : Dev :=
  match m with
  | none => d
  | some r => if (sliceOf d n).onu = 0x3FF then d else ploamQueue d n r

/-- A message processed: a unicast one that fails its check is discarded, a unicast repeat answered as before, and one for another ONU
ignored; the answer goes up (R237). In KILLED nothing but Disable_Serial_Number acts (R239). -/
def ploam (d : Dev) (n : Nat) (h : PloamHdr) (act : PloamAct) : Dev :=
  let s := sliceOf d n
  if n ≥ 4 ∨ ¬ domOn d (4 + n) ∨ s.st = .disabled ∨ ¬ s.sync then d
  else if h.onu ≠ 0x3FF ∧ h.onu ≠ s.onu then d
  else if h.onu ≠ 0x3FF ∧ ¬ h.micOk then accLeaf (accCount d n 1 1) n 4
  else if h.onu ≠ 0x3FF ∧ s.lastSeq = some h.seq then ploamAnswer (accCount d n 0 1) n s.lastResp
  else
    let (d, r) := act (accCount d n 0 1)
    let d := ploamAnswer d n r
    if h.onu ≠ 0x3FF then onSlice d n (fun x => { x with lastSeq := some h.seq, lastResp := r }) else d

/-- A message received: it is processed at once, or waits in the slice's queue of 16 while the control-core firmware is replaced (R574). -/
def ploamRx (n : Nat) (h : PloamHdr) (m : PloamMsg) (act : Dev → Dev) (d : Dev) : Dev :=
  if d.aux.swapState ≠ 1 then act d
  else if n ≥ 4 ∨ ¬ domOn d (4 + n) ∨ (sliceOf d n).st = .disabled ∨ ¬ (sliceOf d n).sync then d
  else onSlice d n (fun s => { s with rxq := (s.rxq ++ [(h, m)]).take 16 })

/-- An act that a slice in KILLED does not do. -/
def unlessKilled (n : Nat) (act : PloamAct) : PloamAct := fun d => if (sliceOf d n).st = .killed then (d, none) else act d

/-- The acknowledgement of a unicast message that has no other answer (log 39). -/
def ackIf (h : PloamHdr) (m : PloamUp) : Option PloamUp := if h.onu = 0x3FF then none else some m

/-- PLOAM_BURST_PROFILE (R238, R251): `guard` is the profile's guard time in 0.1 ns, `fieldsOk` that every field lies within G.9804.3,
`rateOk` that it is for the configured rate. -/
def ploamBurstProfile (slice : Nat) (h : PloamHdr) (index guard : Nat) (fieldsOk rateOk : Bool) (d : Dev) : Dev :=
  ploam d slice h (unlessKilled slice (fun d =>
    let st := (sliceOf d slice).st
    if ¬ keepsProfiles st then (d, none)
    else if index > 3 ∨ ¬ fieldsOk then (accCount d slice 4 1, some (.ackParam h.seq))
    else
      let d := onSlice d slice (fun x => { x with profiles := tset x.profiles index guard })
      let d := if st = .o12 ∧ rateOk ∧ (sliceOf d slice).chanOk then setAccSt d slice .o23 h.now else d
      (d, ackIf h (.ackOk h.seq))))

/-- PLOAM_BURST_PROFILE (R238, R251). -/
def execPloamBurstProfile (slice : Nat) (h : PloamHdr) (index guard : Nat) (fieldsOk rateOk : Bool) (s : State) : Host.Outcome State Fault Refusal :=
  nextDev s (ploamRx slice h (.burstProfile index guard fieldsOk rateOk) (ploamBurstProfile slice h index guard fieldsOk rateOk))

/-- PLOAM_ASSIGN_ONU_ID: `mine` says that it names the device's serial number (R238, R240, R251). ONU-IDs above 1,020 are reserved (log 39). -/
def ploamAssignOnuId (slice : Nat) (h : PloamHdr) (mine : Bool) (onu : Nat) (d : Dev) : Dev :=
  ploam d slice h (unlessKilled slice (fun d =>
    if ¬ mine then (d, none)
    else
      match (sliceOf d slice).st with
      | .o23 =>
        if onu > 1020 then (accCount d slice 4 1, none)
        else (setAccSt (onSlice d slice (fun x => { x with onu := onu })) slice .o4 h.now, ackIf h (.ackOk h.seq))
      | .o4 =>
        if onu > 1020 then (accCount d slice 4 1, none)
        else
          let d := if onu ≠ (sliceOf d slice).onu then accCount d slice 4 1 else d
          (onSlice d slice (fun x => { x with onu := onu, to1At := d.bell.tick }), ackIf h (.ackOk h.seq))
      | .o5 => (accCount d slice 4 1, none)
      | .o6 => (accCount d slice 4 1, none)
      | _ => (d, none)))

/-- PLOAM_ASSIGN_ONU_ID (R238, R240, R251). -/
def execPloamAssignOnuId (slice : Nat) (h : PloamHdr) (mine : Bool) (onu : Nat) (s : State) : Host.Outcome State Fault Refusal :=
  nextDev s (ploamRx slice h (.assignOnuId mine onu) (ploamAssignOnuId slice h mine onu))

/-- The unit of the equalisation delay: one bit at 49.7664 Gb/s; a value in tenths of a nanosecond rounded to nearest (R242). -/
def eqdUnits (tenthNs : Int) : Int := (tenthNs * 497664 * 2 + 100000) / 200000

/-- PLOAM_RANGING_TIME (R242, R251): an absolute delay or an adjustment, in tenths of a nanosecond. -/
def ploamRangingTime (slice : Nat) (h : PloamHdr) (relative : Bool) (value : Int) (d : Dev) : Dev :=
  ploam d slice h (unlessKilled slice (fun d =>
    let x := sliceOf d slice
    match x.st with
    | .o23 => (accCount d slice 4 1, none)
    | .o4 | .o5 =>
      let v := (if relative then (x.eqd : Int) else 0) + eqdUnits value
      if v < 0 ∨ v > 24883200 then (accLeaf (accCount d slice 5 1) slice 2, some (.ackParam h.seq))
      else
        let d := onSlice d slice (fun x => { x with eqd := v.toNat, eqdWas := some (x.eqdWas.getD x.eqd) })
        let d := if x.st = .o4 then setAccSt d slice .o5 h.now else d
        (todRecompute d, ackIf h (.ackOk h.seq))
    | _ => (d, none)))

/-- PLOAM_RANGING_TIME (R242, R251). -/
def execPloamRangingTime (slice : Nat) (h : PloamHdr) (relative : Bool) (value : Int) (s : State) : Host.Outcome State Fault Refusal :=
  nextDev s (ploamRx slice h (.rangingTime relative value) (ploamRangingTime slice h relative value))

/-- PLOAM_DEACTIVATE_ONU_ID (R238, R251). -/
def ploamDeactivateOnuId (slice : Nat) (h : PloamHdr) (d : Dev) : Dev :=
  ploam d slice h (unlessKilled slice (fun d =>
    match (sliceOf d slice).st with
    | .o4 => (setAccSt d slice .o23 h.now, none)
    | .o5 => (setAccSt d slice .o23 h.now, none)
    | _ => (d, none)))

/-- PLOAM_DEACTIVATE_ONU_ID (R238, R251). -/
def execPloamDeactivateOnuId (slice : Nat) (h : PloamHdr) (s : State) : Host.Outcome State Fault Refusal :=
  nextDev s (ploamRx slice h .deactivate (ploamDeactivateOnuId slice h))

/-- PLOAM_DISABLE_SERIAL_NUMBER: `named` says that it names the device's serial number or is broadcast (R238, R239). -/
def ploamDisableSerialNumber (slice : Nat) (h : PloamHdr) (named enable : Bool) (d : Dev) : Dev :=
  ploam d slice h (fun d =>
    if ¬ named then (d, none)
    else
      match (sliceOf d slice).st with
      | .killed => (onSlice d slice (fun x => { x with stopHeld := !enable }), none)
      | .o7 => (if enable then setAccSt d slice .o11 h.now else d, none)
      | .o23 => (if enable then d else setAccSt d slice .o7 h.now, none)
      | .o4 => (if enable then d else setAccSt d slice .o7 h.now, none)
      | .o5 => (if enable then d else setAccSt d slice .o7 h.now, none)
      | _ => (d, none))

/-- PLOAM_DISABLE_SERIAL_NUMBER (R238, R239). -/
def execPloamDisableSerialNumber (slice : Nat) (h : PloamHdr) (named enable : Bool) (s : State) : Host.Outcome State Fault Refusal :=
  nextDev s (ploamRx slice h (.disableSerial named enable) (ploamDisableSerialNumber slice h named enable))

/-- PLOAM_REQUEST_REGISTRATION: answered with Registration (R231, R238). -/
def ploamRequestRegistration (slice : Nat) (h : PloamHdr) (d : Dev) : Dev :=
  ploam d slice h (unlessKilled slice (fun d =>
    if keepsId (sliceOf d slice).st then (d, some (.registration h.seq)) else (d, none)))

/-- PLOAM_REQUEST_REGISTRATION (R231, R238). -/
def execPloamRequestRegistration (slice : Nat) (h : PloamHdr) (s : State) : Host.Outcome State Fault Refusal :=
  nextDev s (ploamRx slice h .requestRegistration (ploamRequestRegistration slice h))

/-- An unbonded Alloc-ID given an entry of the map and a node (R283, R284); none where it cannot. -/
def allocAssign (d : Dev) (n alloc : Nat) : Option Dev :=
  match allocEntry (sliceOf d n) alloc with
  | some (_, e) => if e.bonded then none else some d
  | none =>
    match tfree (sliceOf d n).allocs 0 64, freeNode d with
    | some a, some node =>
      some (onSlice (takeNode d n alloc node) n (fun s => { s with allocs := tset s.allocs a { id := alloc, bonded := false, node := node } }))
    | _, _ => none

/-- An unbonded Alloc-ID deassigned: its queues stay, its node goes (R284). -/
def allocDeassign (d : Dev) (n alloc : Nat) : Dev :=
  match allocEntry (sliceOf d n) alloc with
  | some (a, e) =>
    if e.bonded then d else onSlice (giveNode d n alloc e.node) n (fun s => { s with allocs := tdel s.allocs a, occ := tdel s.occ a })
  | none => d

/-- PLOAM_ASSIGN_ALLOC_ID (R283, R284). -/
def ploamAssignAllocId (slice : Nat) (h : PloamHdr) (alloc : Nat) (assign : Bool) (d : Dev) : Dev :=
  ploam d slice h (unlessKilled slice (fun d =>
    if (sliceOf d slice).st ≠ .o5 then (d, none)
    else if alloc ≥ 16384 then (d, some (.ackParam h.seq))
    else if assign then
      match allocAssign d slice alloc with
      | none => (d, some (.ackParam h.seq))
      | some d => (d, ackIf h (.ackOk h.seq))
    else (allocDeassign d slice alloc, ackIf h (.ackOk h.seq))))

/-- PLOAM_ASSIGN_ALLOC_ID (R283, R284). -/
def execPloamAssignAllocId (slice : Nat) (h : PloamHdr) (alloc : Nat) (assign : Bool) (s : State) : Host.Outcome State Fault Refusal :=
  nextDev s (ploamRx slice h (.assignAllocId alloc assign) (ploamAssignAllocId slice h alloc assign))

/-! ### Key exchange (R245, R246, R248) -/

/-- A key generated for an index and its report queued; a pending exchange starts afresh. While the generator is unhealthy it waits (R245,
R491). -/
def keyGenerate (d : Dev) (n i : Nat) : Dev :=
  let clear (d : Dev) : Dev := onSlice d n (fun s => { s with
    upq := s.upq.filter (fun m => match m with | .keyReport _ => false | _ => true),
    keys := { s.keys with tries := 0, stall := false, pend := none, waitRng := none } })
  if ¬ d.fold.guard.rngOk then onSlice (clear d) n (fun s => { s with keys := { s.keys with waitRng := some i } })
  else
    let (r, d) := drawFree (clear d)
    ploamQueue (onSlice d n (fun s => { s with keys := { s.keys with pend := some (i, r % 2 ^ 128) } })) n (.keyReport i)

/-- Whether an index is the one in use (R245). -/
def indexInUse (k : KeyState) (i : Nat) : Bool := thas k.keys i && (k.dsIndex == i || (thas k.keys (2 + i) && k.usIndex == i))

/-- The pending key taking effect in both directions, as the head end starts to use its index (R246, R248 step 5). -/
def keyTakeEffect (d : Dev) (n : Nat) : Dev :=
  match (sliceOf d n).keys.pend with
  | none => d
  | some (i, key) =>
    let k : GemKey := { key := key, frames := 0, bytes := 0, retired := false }
    onSlice d n (fun s => { s with
      usSuspend := false,
      upq := s.upq.filter (fun m => match m with | .keyReport _ => false | _ => true),
      keys := { s.keys with keys := tset (tset s.keys.keys i k) (2 + i) k, dsIndex := i, usIndex := i, pend := none, tries := 0, stall := false } })

/-- PLOAM_KEY_CONTROL: a request for a new key for an index, or the head end's confirmation of one, which the upstream then uses (R245,
R246). -/
def ploamKeyControl (slice : Nat) (h : PloamHdr) (generate : Bool) (index : Nat) (d : Dev) : Dev :=
  ploam d slice h (unlessKilled slice (fun d =>
    let i := index % 2
    let k := (sliceOf d slice).keys
    if (sliceOf d slice).st ≠ .o5 then (d, none)
    else if generate then
      if indexInUse k i then (accCount d slice 4 1, some (.ackParam h.seq)) else (keyGenerate d slice i, none)
    else if k.pend.map (·.1) = some i then (keyTakeEffect d slice, ackIf h (.ackOk h.seq))
    else if thas k.keys (2 + i) then (onSlice d slice (fun x => { x with keys := { x.keys with usIndex := i } }), ackIf h (.ackOk h.seq))
    else (d, some (.ackParam h.seq))))

/-- PLOAM_KEY_CONTROL (R245,
R246). -/
def execPloamKeyControl (slice : Nat) (h : PloamHdr) (generate : Bool) (index : Nat) (s : State) : Host.Outcome State Fault Refusal :=
  nextDev s (ploamRx slice h (.keyControl generate index) (ploamKeyControl slice h generate index))

/-- Whether a timer of `ms` milliseconds that started at a tick has run out. -/
def msPassed (d : Dev) (since : BitVec 64) (ms : Nat) : Bool := decide (d.bell.tick.toNat ≥ since.toNat + ms * 8)

/-- TKEY_EXPIRY: no use of the new index: the report again, up to three, then STALL (R248, R291). -/
def tkeyExpiry (d : Dev) (n : Nat) : Dev :=
  match (sliceOf d n).keys.pend with
  | none => d
  | some (i, _) =>
    if (sliceOf d n).keys.tries = 0 ∨ (sliceOf d n).keys.stall ∨ ¬ msPassed d (sliceOf d n).keys.sentAt d.acc.cfg.tkey then d
    else if (sliceOf d n).keys.tries < 3 then
      ploamQueue (onSlice d n (fun s => { s with keys := { s.keys with tries := s.keys.tries + 1, sentAt := d.bell.tick } })) n (.keyReport i)
    else
      let d := accLeaf (onSlice d n (fun s => { s with keys := { s.keys with stall := true } })) n 7
      if chActive d n then
        chanStatus (onSlice d n (fun s => { s with usSuspend := true })) (((List.range 4).find? (fun m => m != n && chActive d m)).getD n) n 0 5
      else d

/-- TKEY_EXPIRY (R248). -/
def execTkeyExpiry (slice : Nat) (s : State) : Host.Outcome State Fault Refusal := nextDev s (fun d => tkeyExpiry d slice)

/-- PLOAM_SLEEP_ALLOW: permission recorded or withdrawn (R249). -/
def ploamSleepAllow (slice : Nat) (h : PloamHdr) (allow : Bool) (d : Dev) : Dev :=
  ploam d slice h (unlessKilled slice (fun d =>
    if (sliceOf d slice).st ≠ .o5 then (d, none)
    else (onSlice d slice (fun x => { x with sleepAllowed := allow }), ackIf h (.ackOk h.seq))))

/-- PLOAM_SLEEP_ALLOW (R249). -/
def execPloamSleepAllow (slice : Nat) (h : PloamHdr) (allow : Bool) (s : State) : Host.Outcome State Fault Refusal :=
  nextDev s (ploamRx slice h (.sleepAllow allow) (ploamSleepAllow slice h allow))

/-- PLOAM_UNKNOWN_TYPE (R232, R251). -/
def ploamUnknownType (slice : Nat) (h : PloamHdr) (d : Dev) : Dev :=
  ploam d slice h (fun d => (accCount d slice 2 1, some (.ackUnknown h.seq)))

/-- PLOAM_UNKNOWN_TYPE (R232, R251). -/
def execPloamUnknownType (slice : Nat) (h : PloamHdr) (s : State) : Host.Outcome State Fault Refusal :=
  nextDev s (ploamRx slice h .unknownType (ploamUnknownType slice h))

/-- A message that waited, processed. -/
def ploamRun (slice : Nat) (d : Dev) (x : PloamHdr × PloamMsg) : Dev :=
  let h := x.1
  match x.2 with
  | .burstProfile index guard fieldsOk rateOk => ploamBurstProfile slice h index guard fieldsOk rateOk d
  | .assignOnuId mine onu => ploamAssignOnuId slice h mine onu d
  | .rangingTime relative value => ploamRangingTime slice h relative value d
  | .deactivate => ploamDeactivateOnuId slice h d
  | .disableSerial named enable => ploamDisableSerialNumber slice h named enable d
  | .requestRegistration => ploamRequestRegistration slice h d
  | .assignAllocId alloc assign => ploamAssignAllocId slice h alloc assign d
  | .keyControl generate index => ploamKeyControl slice h generate index d
  | .sleepAllow allow => ploamSleepAllow slice h allow d
  | .unknownType => ploamUnknownType slice h d

/-- The messages that waited while the firmware was replaced, processed in their order (R574, R577). -/
def releasePloam (d : Dev) : Dev :=
  (List.range 4).foldl (fun d n => (sliceOf d n).rxq.foldl (ploamRun n) (onSlice d n (fun s => { s with rxq := [] }))) d

/-- SLEEP_AWARE_PERIOD: an aware period of the sleep cycle; where permission has been withdrawn the slice stays at full activity (R249). -/
def execSleepAwarePeriod (slice : Nat) (s : State) : Host.Outcome State Fault Refusal :=
  nextDev s (fun d => if (sliceOf d slice).sleepAllowed then d else onSlice d slice (fun x => { x with asleep := false }))

/-! ### Timers (R240, R253) -/

/-- TO1_EXPIRY (R238). -/
def execTo1Expiry (slice : Nat) (s : State) : Host.Outcome State Fault Refusal :=
  nextDev s (fun d =>
    if (sliceOf d slice).st = .o4 ∧ msPassed d (sliceOf d slice).to1At d.acc.cfg.to1 then setAccSt d slice .o23 (bellNs d) else d)

/-- TO2_EXPIRY (R238, R253). -/
def execTo2Expiry (slice : Nat) (s : State) : Host.Outcome State Fault Refusal :=
  nextDev s (fun d =>
    if (sliceOf d slice).st = .o6 ∧ msPassed d (sliceOf d slice).to2At d.acc.cfg.to2 then setAccSt d slice .o11 (bellNs d) else d)

/-- FLAP_WINDOW_EXPIRY: flaps older than FLAP_WINDOW leave the count (R240). -/
def execFlapWindowExpiry (slice : Nat) (s : State) : Host.Outcome State Fault Refusal :=
  nextDev s (fun d => onSlice d slice (fun x =>
    { x with flaps := x.flaps.filter (fun f => decide (d.bell.tick.toNat - f.toNat < d.acc.cfg.flapWindow * ticksPerS)) }))

/-- QUARANTINE_EXPIRY: O1.1 (R253). -/
def execQuarantineExpiry (slice : Nat) (s : State) : Host.Outcome State Fault Refusal :=
  nextDev s (fun d =>
    let x := sliceOf d slice
    if x.st = .quarantine ∧ msPassed d (x.quars.getLast?.getD 0) (x.quarFor * 1000) then setAccSt d slice .o11 (bellNs d) else d)

/-! ### The watchdog (R254, R255) -/

/-- WATCHDOG_TRIP: TXKILL asserted, BEN inactive, KILLED latched with cause and tick (R255). -/
def watchdogTrip (d : Dev) (n cause now : Nat) : Dev :=
  let d := onSlice d n (fun s => { s with
    wdKilled := true, wdCause := cause % 4, wdTick := BitVec.ofNat 32 d.bell.tick.toNat, txkill := true, ben := false })
  accLeaf (setAccSt d n .killed now) n 9

/-- WATCHDOG_TRIP (R254). -/
def execWatchdogTrip (slice cause now : Nat) (s : State) : Host.Outcome State Fault Refusal :=
  nextDev s (fun d => if slice < 4 then watchdogTrip d slice cause now else d)

end Sys2Proof.Machine
end

