-- ==== Sys2Proof/Machine/Burst.lean ====
section
/-! DEFINITION. Bandwidth maps and upstream bursts (chapters 07 and 08). -/

namespace Sys2Proof.Machine

/-! ### The bandwidth map (R252, R285, R289) -/

/-- A grant dropped: counted, recorded and raised (R252). -/
def grantDrop (d : Dev) (n : Nat) (g : Grant) (reason : Nat) : Dev :=
  accLeaf (onSlice (accCount d n 6 1) n (fun s => { s with dropAlloc := g.alloc % 16384, dropReason := reason })) n 3

/-- Whether a grant is the slice's own: one of the three kinds of opportunity that its state serves. -/
def grantOwn (s : Slice) (g : Grant) : Bool :=
  match g.kind, s.st with
  | 1, .o23 => true
  | 2, .o4 => g.alloc == s.onu
  | 0, .o5 => g.alloc == s.onu || s.allocs.any (fun e => e.2.id == g.alloc)
  | _, _ => false

/-- Grants by their start, those that start together in the map's order. -/
def grantInsert (g : Grant) (l : List Grant) : List Grant :=
  match l with
  | [] => [g]
  | x :: r => if g.start < x.start then g :: x :: r else x :: grantInsert g r

/-- BURST_MAX in ns: values out of range act as 125,000 (R259). -/
def burstMaxOf (s : Slice) : Nat := if 1000 ≤ s.burstMax ∧ s.burstMax ≤ 125000 then s.burstMax else 125000

/-- LEAD and TRAIL in 0.1 ns, the latter at most 64 (R294). -/
def trailOf (s : Slice) : Nat := min s.trail 64

/-- A grant's reason to be dropped, in the order 1, 6, 2, 3, 4 (R252, R289; log 40), given the grants that start earlier and the burst it
would join. -/
def grantCheck (s : Slice) (earlier : List Grant) (joined : Option Burst) (g : Grant) : Option Nat :=
  match tget s.profWas g.profile with
  | none => some 1
  | some guard =>
    let bonded := s.allocs.any (fun e => e.2.id == g.alloc && e.2.bonded)
    let start := match joined.bind (·.grants.head?) with
      | some h => h.start
      | none => g.start
    if g.kind = 0 ∧ bonded ∧ s.ch ≠ .active then some 6
    else if earlier.any (fun e => decide (g.start < e.stop ∨ (g.start ≠ e.stop ∧ g.start < e.stop + guard))) then some 2
    else if g.stop > 1250000 ∨ g.stop < g.start then some 3
    else if s.lead + (g.stop - start) + trailOf s > 10 * burstMaxOf s then some 4
    else none

/-- The grants of a map in order of start: each dropped, or added to the burst it continues or to a new one (R252, R285). -/
def scheduleGrants (d : Dev) (n eqd : Nat) (earlier : List Grant) (bursts : List Burst) (gs : List Grant) : List Burst × Dev :=
  match gs with
  | [] => (bursts, d)
  | g :: rest =>
    let joined := match bursts.getLast? with
      | some b => if (b.grants.getLast?.map (·.stop)) = some g.start then some b else none
      | none => none
    match grantCheck (sliceOf d n) earlier joined g with
    | some r => scheduleGrants (grantDrop d n g r) n eqd (earlier ++ [g]) bursts rest
    | none =>
      let bursts := match joined with
        | some b => bursts.dropLast ++ [{ b with grants := b.grants ++ [g] }]
        | none => bursts ++ [{ eqd := eqd, frameAt := (sliceOf d n).frameAt, grants := [g], parts := none }]
      scheduleGrants d n eqd (earlier ++ [g]) bursts rest

/-- BWMAP_RX: each grant checked and scheduled; a map whose codeword is uncorrectable serves none (R252). -/
def bwmapRx (d : Dev) (n : Nat) (lost : Bool) (grants : List Grant) : Dev :=
  let s := sliceOf d n
  if ¬ s.sync ∨ s.asleep ∨ ¬ domOn d (4 + n) ∨ s.st = .disabled then d
  else
    let own := grants.filter (grantOwn s)
    if lost then own.foldl (fun d g => grantDrop d n g 5) (accCount d n 7 1)
    else
      let (bs, d) := scheduleGrants d n (s.eqdWas.getD s.eqd) [] [] (own.foldl (fun l g => grantInsert g l) [])
      onSlice d n (fun s => { s with bursts := s.bursts ++ bs })

/-- BWMAP_RX (R252). -/
def execBwmapRx (slice : Nat) (lost : Bool) (grants : List Grant) (s : State) : Host.Outcome State Fault Refusal :=
  nextDev s (fun d => if slice < 4 then bwmapRx d slice lost grants else d)

/-! ### The commit point (R286 to R288, R416) -/

/-- The packet a root gives next, whole where it fits into `room` bytes; else its first bytes, charged like a packet, and its remainder
stays at the head of its queue (R416). The answer is the packet, as it stood, and the bytes taken. -/
def tmTakePart (d : Dev) (root now room : Nat) : Option (TmPkt × Nat × Dev) :=
  match rootChoice d root now with
  | none => none
  | some (band, g, q, gd, sd) =>
    match (tget d.tm.queues q).bind (·.pkts.head?) with
    | none => none
    | some p =>
      if p.len ≤ room then (tmTake d root now).map (fun r => (r.2.1, p.len, r.2.2))
      else
        let back := p.len - room
        let slot := ((tget d.tm.queues q).map (·.slot)).getD 0
        let d := onQueue d q (fun y => { y with pkts := { p with len := back, twoStep := none, bytes := [] } :: y.pkts.drop 1 })
        let d := commitDrr d root band g q (tset gd g (tgetD gd g 0 + back)) (sd.map (fun t => tset t slot (tgetD t slot 0 + back)))
        some (p, room, chargePath d root g q (counted d root room) now)

/-- Whether upstream traffic may leave under the key in use: before any exchange it goes in clear (R246, R247). -/
def upKeyOk (d : Dev) (n : Nat) : Bool :=
  match tget (sliceOf d n).keys.keys (2 + (sliceOf d n).keys.usIndex) with
  | none => true
  | some k => !k.retired

/-- One upstream GEM frame counted under its key. -/
def upKeyUse (d : Dev) (n bytes now : Nat) : Dev :=
  if thas (sliceOf d n).keys.keys (2 + (sliceOf d n).keys.usIndex) then (useKey d n (2 + (sliceOf d n).keys.usIndex) bytes now).2 else d

/-- A packet that the time-stamp of the burst it goes out in concerns (R55, R57). -/
def timedOf (p : TmPkt) : List TmPkt := if p.twoStep.isSome ∨ (ptpEvent p.bytes).isSome then [p] else []

/-- GEM frames of an unbonded node into `room` bytes: the payload sizes and the packets to be time-stamped (R57, R286). -/
def fillUnbonded (d : Dev) (n node now room : Nat) (fuel : Nat) : List Nat × List TmPkt × Dev :=
  match fuel with
  | 0 => ([], [], d)
  | fuel + 1 =>
    if room < 17 ∨ ¬ upKeyOk d n then ([], [], d)
    else
      match tmTakePart d node now (min (room - 8) 16383) with
      | none => ([], [], d)
      | some (p, k, d) =>
        let (l, ps, d) := fillUnbonded (upKeyUse d n k now) n node now (room - 8 - k) fuel
        (k :: l, timedOf p ++ ps, d)

/-- A bonding header (R269). -/
def fragHead (sof eof : Bool) (seq port : Nat) : List Byte :=
  let h := beBytes (64 + 32 * b2n sof + 16 * b2n eof) 1 ++ beBytes seq 3 ++ beBytes port 2
  h ++ beBytes (crc16 h).toNat 2

/-- Fragments of a bonded node's SDUs into `room` bytes: payload sizes with the bonding header, and that header, sequence numbers, and the packets to be
time-stamped (R57, R286, R287). -/
def fillBonded (d : Dev) (n node now room : Nat) (fuel : Nat) : List (Nat × List Byte) × List Nat × List TmPkt × Dev :=
  match fuel with
  | 0 => ([], [], [], d)
  | fuel + 1 =>
    if room < 17 ∨ ¬ upKeyOk d n ∨ (sliceOf d n).usSuspend then ([], [], [], d)
    else
      let held := tgetD d.acc.carry node 0
      let next := if held > 0 then some (held, [], d) else (tmTake d node now).map (fun r => (r.2.1.len, timedOf r.2.1, r.2.2))
      match next with
      | none => ([], [], [], d)
      | some (len, ps, d) =>
        let k := min (min (room - 16) 16375) len
        let seq := d.acc.bond.usNext
        let d := onBond d (fun b => { b with usNext := (seq + 1) % 2 ^ 24 })
        let d := onAcc d (fun a => { a with carry := if len - k = 0 then tdel a.carry node else tset a.carry node (len - k) })
        let (l, q, qs, d) := fillBonded (upKeyUse d n (k + 8) now) n node now (room - 16 - k) fuel
        ((k + 8, fragHead (decide (held = 0)) (decide (len = k)) seq (Config.gemPortOf node)) :: l, seq :: q, ps ++ qs, d)

/-- The control messages that fit into `room` bytes of the default allocation, each in a GEM frame. -/
def fillCtl (l : List CtlMsg) (room : Nat) : List CtlMsg × List CtlMsg × Nat :=
  match l with
  | [] => ([], [], room)
  | m :: r =>
    if m.len + 8 > room then ([], m :: r, room)
    else
      let (a, b, c) := fillCtl r (room - m.len - 8)
      (m :: a, b, c)

/-- The bytes that wait at a node and that no burst has yet taken (R288). -/
def nodeOccupancy (d : Dev) (node : Nat) : Nat := rootOccupancy d node + tgetD d.acc.carry node 0

/-- The PLOAM message of an opportunity: Serial_Number_ONU after its random delay, Registration, or the head of the queue (R237, R238,
R241). -/
def grantPloam (d : Dev) (n : Nat) (g : Grant) : Option PloamUp × Dev :=
  if g.kind = 1 then
    if d.fold.guard.rngOk then let (r, d) := drawFree d; (some (.serialNumber r), d) else (none, d)
  else if g.kind = 2 then (some (.registration 0), d)
  else if g.ploam then ((sliceOf d n).upq.head?, onSlice d n (fun s => { s with upq := s.upq.drop 1 }))
  else (none, d)

/-- The content of one allocation of a burst (R286). -/
def fillGrant (d : Dev) (n : Nat) (g : Grant) (now : Nat) : BurstPart × Dev :=
  let (msg, d) := grantPloam d n g
  let (ctl, rest, room) := if g.kind = 0 ∧ g.alloc = (sliceOf d n).onu ∧ upKeyOk d n then fillCtl (sliceOf d n).ctl g.cap else ([], (sliceOf d n).ctl, g.cap)
  let d := ctl.foldl (fun d m => upKeyUse d n m.len now) (onSlice d n (fun s => { s with ctl := rest }))
  let part : BurstPart := { alloc := g.alloc, sizes := [], seqs := [], heads := [], ploam := msg, ctl := ctl, occ := none, timed := [] }
  match allocEntry (sliceOf d n) g.alloc with
  | none => (part, d)
  | some (_, e) =>
    if g.kind ≠ 0 then (part, d)
    else if e.bonded then
      let (l, q, ps, d) := fillBonded d n e.node now room (room + 1)
      ({ part with sizes := l.map (·.1), seqs := q, heads := l.map (·.2), timed := ps }, d)
    else
      let (l, ps, d) := fillUnbonded d n e.node now room (room + 1)
      ({ part with sizes := l, timed := ps }, d)

/-- The allocations of a burst in order. -/
def fillGrants (d : Dev) (n : Nat) (gs : List Grant) (now : Nat) : List BurstPart × Dev :=
  match gs with
  | [] => ([], d)
  | g :: rest =>
    let (p, d) := fillGrant d n g now
    let (ps, d) := fillGrants d n rest now
    (p :: ps, d)

/-- The occupancies that a burst's grants ask for, once its content is fixed (R288): zero for an Alloc-ID with no queue. -/
def reportOcc (d : Dev) (n : Nat) (gs : List Grant) (ps : List BurstPart) : List BurstPart × Dev :=
  match gs, ps with
  | g :: gr, p :: pr =>
    let (a, d) :=
      if ¬ g.report then (p, d)
      else
        match allocEntry (sliceOf d n) g.alloc with
        | none => ({ p with occ := some 0 }, d)
        | some (i, e) =>
          let v := nodeOccupancy d e.node
          ({ p with occ := some v }, onSlice d n (fun s => { s with occ := tset s.occ i (min v (2 ^ 24 - 1)) }))
    let (r, d) := reportOcc d n gr pr
    (a :: r, d)
  | _, _ => ([], d)

/-- Whether the slice's state still serves a burst's grants (R238). -/
def burstServed (s : Slice) (b : Burst) : Bool :=
  b.grants.all (fun g => match g.kind, s.st with
    | 1, .o23 => true
    | 2, .o4 => true
    | 0, .o5 => true
    | _, _ => false)

/-- The first burst of a list that is not committed yet. -/
def commitFirst (d : Dev) (n now : Nat) (l : List Burst) : List Burst × Dev :=
  match l with
  | [] => ([], d)
  | b :: r =>
    match b.parts with
    | some _ => let (x, d) := commitFirst d n now r; (b :: x, d)
    | none =>
      if ¬ burstServed (sliceOf d n) b then (r, d)
      else
        let (ps, d) := fillGrants d n b.grants now
        let (ps, d) := reportOcc d n b.grants ps
        ({ b with parts := some ps } :: r, d)

/-- BURST_COMMIT: 4.0 µs before its window the content of the slice's next burst is fixed (R286 to R288). A departure that the fill itself
brings about leaves no burst in hand (R280, R291). -/
def burstCommit (d : Dev) (n now : Nat) : Dev :=
  let (l, e) := commitFirst d n now (sliceOf d n).bursts
  if (sliceOf d n).ch = .active ∧ (sliceOf e n).ch ≠ .active then
    suppressBursts (onSlice e n (fun s => { s with bursts := l })) n
  else onSlice e n (fun s => { s with bursts := l })

/-- BURST_COMMIT (R286). -/
def execBurstCommit (slice now : Nat) (s : State) : Host.Outcome State Fault Refusal :=
  nextDev s (fun d => if slice < 4 ∧ domOn d (4 + slice) then burstCommit d slice now else d)

/-! ### The window (R285) -/

/-- A PLOAM message as values: its number in the order of R231 and its fields, the serial number and the registration ID among them (R234). -/
def ploamVals (cfg : AccCfg) (m : PloamUp) : List Int :=
  match m with
  | .serialNumber x => [0, x, deviceSerial]
  | .registration x => [1, x, deviceSerial, cfg.regId]
  | .keyReport i => [2, i]
  | .ackOk x => [3, x, 0]
  | .ackParam x => [3, x, 1]
  | .ackUnknown x => [3, x, 2]
  | .sleepRequest => [4]
  | .dyingGasp => [5]

/-- A PLOAM message sent: the first Key_Report of an exchange starts TKEY (R248). -/
def ploamSent (d : Dev) (n : Nat) (m : PloamUp) : Dev :=
  let d := emit d .ploamUp n (ploamVals d.acc.cfg m)
  match m with
  | .keyReport _ =>
    if (sliceOf d n).keys.tries = 0 ∧ (sliceOf d n).keys.pend.isSome then
      onSlice d n (fun s => { s with keys := { s.keys with tries := 1, sentAt := d.bell.tick } })
    else d
  | _ => d

/-- The time-stamp work of a packet in a burst whose preamble left at `stamp` (R53 to R57): the correction that it carries goes out by itself. -/
def timedSent (d : Dev) (n stamp : Nat) (k : TmPkt) : Dev :=
  let (bs, d) := stampFrame d n 0 n k.bytes k.twoStep k.stamp stamp true
  if bs = k.bytes then d else emit d .correction n (bs.map (fun b => (b.toNat : Int)))

/-- One allocation of a burst sent, its preamble at `stamp`. -/
def partSent (d : Dev) (n stamp : Nat) (p : BurstPart) : Dev :=
  let d := p.timed.foldl (fun d k => timedSent d n stamp k) d
  let d := match p.ploam with
    | some m => ploamSent d n m
    | none => d
  let d := p.ctl.foldl (fun d m => emit d m.kind n (m.vals.map (fun v => (v : Int)))) d
  let d := match p.occ with
    | some v => emit d .bufferReport n [(p.alloc : Int), (v : Int)]
    | none => d
  let d := p.heads.foldl (fun d h => emit d .fragment n (h.map (fun b => (b.toNat : Int)))) d
  accCount d n 17 p.seqs.length

/-- Whether the slice's lane is being replaced, so that it serves no grant (R334). -/
def spareRuns (d : Dev) (n : Nat) : Bool := ((tgetD d.lane.groups 0 (LaneGroup.reset 0)).sparing.map (·.lane)) == some n

/-- The random delay of a burst that answers a serial-number grant, in units of 2⁻¹⁶ ns (R241). -/
def burstDelay (ps : List BurstPart) : Nat :=
  sumN (ps.map (fun p => match p.ploam with
    | some (.serialNumber x) => x
    | _ => 0))

/-- Where an instant of the upstream frame, in 0.1 ns, falls for a burst (R242), in units of 2⁻¹⁶ ns: the time-stamp of the frame that carried its grant, the frame period,
the response time, the equalisation delay in bits at 49.7664 Gb/s, the instant, and a random delay. -/
def burstInstant (d : Dev) (b : Burst) (ps : List BurstPart) (at_ : Int) : Int :=
  (b.frameAt : Int) + 65536 * (125000 + respTime d) + 65536 * b.eqd * 100000 / 4976640 + 65536 * at_ / 10 + burstDelay ps

/-- The first and the last bit of a burst, and where ACCn_BEN goes active LEAD before and inactive TRAIL after (R242, R285). -/
def burstTimes (d : Dev) (s : Slice) (b : Burst) (ps : List BurstPart) : List Int :=
  let first : Int := ((b.grants.head?.map (·.start)).getD 0 : Nat)
  let last : Int := ((b.grants.getLast?.map (·.stop)).getD 0 : Nat)
  [first, last, first - s.lead, last + trailOf s].map (burstInstant d b ps)

/-- The slice disabled once its Dying_Gasp has gone out (R258). -/
def gaspOver (d : Dev) (n : Nat) : Dev :=
  endIfAllDisabled (setAccSt (onSlice d n (fun x => { x with gasp := none })) n .disabled (bellNs d))

/-- Whether a burst sent was the first upstream PLOAM opportunity after an ACC_DISABLE with GASP (R258). -/
def gaspSent (s : Slice) (b : Burst) : Bool := s.gasp.isSome && !s.upq.contains .dyingGasp && b.grants.any (·.ploam)

/-- DYING_GASP_DISABLE: the slice is disabled 2 ms after an ACC_DISABLE with GASP, if no opportunity has come (R258). -/
def execDyingGaspDisable (slice : Nat) (s : State) : Host.Outcome State Fault Refusal :=
  nextDev s (fun d =>
    match (sliceOf d slice).gasp with
    | none => d
    | some t => if (sliceOf d slice).st ≠ .killed ∧ d.bell.tick.toNat ≥ t.toNat + 16 then gaspOver d slice else d)

/-- BURST_WINDOW: the slice's next burst is sent if it is committed and its state serves it, ACCn_BEN around it (R238, R285). -/
def burstWindow (d : Dev) (n stamp : Nat) : Dev :=
  match (sliceOf d n).bursts with
  | [] => d
  | b :: rest =>
    let s := sliceOf d n
    let d := onSlice d n (fun s => { s with bursts := rest })
    match b.parts with
    | none => d
    | some ps =>
      if ¬ burstServed s b then d
      else if spareRuns d n then
        onLanes d (fun l => { l with spareSkip := satAdd l.spareSkip b.grants.length })
      else
        let d := emit d .burst n (burstTimes d s b ps ++ (ps.map (fun p => p.sizes.map (fun x => (x : Int)))).flatten)
        let d := ps.foldl (fun d p => partSent d n stamp p) d
        if gaspSent (sliceOf d n) b then gaspOver d n else d

/-- BURST_WINDOW (R285). -/
def execBurstWindow (slice stamp : Nat) (s : State) : Host.Outcome State Fault Refusal :=
  nextDev s (fun d => if slice < 4 ∧ domOn d (4 + slice) then burstWindow d slice stamp else d)

end Sys2Proof.Machine
end

