-- ==== Sys2Proof/Machine/Bond.lean ====
section
/-! DEFINITION. The bond: messages, fragments, downstream GEM frames and OMCI (chapters 07 and 08). -/

namespace Sys2Proof.Machine

/-! ### Bond messages (R273 to R278, R282) -/

/-- BOND_ACK sent on the channel that carried the message; a code other than 0 is latched and raised (R274, R282). -/
def bondAck (d : Dev) (n type : Nat) (h : BondHdr) (code : Nat) : Dev :=
  let v := [type, h.msgSeq, code, memberMask d]
  let d := bondSend d n 0x82 h.channel v
  if code = 0 then d
  else raiseLeaf (onBond d (fun b => { b with lastType := type, lastCode := code, lastChan := n })) 6 25

/-- The answer of a message acted on: kept for its repeat (R275). -/
def bondAckKeep (d : Dev) (n type : Nat) (h : BondHdr) (code : Nat) : Dev :=
  let d := bondAck d n type h code
  onBond d (fun b => { b with acks := tset b.acks n (h.msgSeq, [type, h.msgSeq, code, memberMask d]) })

/-- A head-end message handled (R273, R275): `offer` for BOND_OFFER; `act` gives the code and the changed device. A message in sequence
takes its epoch whatever its code. -/
def bondMsg (d : Dev) (n type : Nat) (h : BondHdr) (offer : Bool) (act : Dev → Nat × Dev) : Dev :=
  let b := d.acc.bond
  let s := sliceOf d n
  let take (d : Dev) : Dev :=
    let (code, d) := act d
    bondAckKeep (onBond d (fun b => { b with epoch := h.epoch % 256 })) n type h code
  if n ≥ 4 ∨ ¬ d.acc.cfg.native ∨ s.st ≠ .o5 ∨ ¬ domOn d (4 + n) then d
  else if h.onu ≠ s.onu then d
  else if ¬ h.micOk then bondCount d 7 1
  else if offer ∧ b.st ≠ .bonded then take d
  else if h.bondId ≠ b.id then
    if offer then bondAck (bondCount d 8 1) n type h 1 else bondAck d n type h 1
  else if h.epoch = (b.epoch + 1) % 256 then take d
  else if h.epoch = b.epoch ∧ (tget b.acks n).map (·.1) = some h.msgSeq then
    bondSend d n 0x82 h.channel (((tget b.acks n).map (·.2)).getD [])
  else bondAck (bondCount d 8 1) n type h 2

/-- The message that wants an answer about a channel ended (R278). -/
def answered (d : Dev) (type chan : Nat) : Dev :=
  onBond d (fun b => { b with outs := b.outs.filter (fun o => !(o.type == type && o.chan == chan)) })

/-- A channel becomes ACTIVE: the reference is the lowest of the members (R41, R276). -/
def chActivate (d : Dev) (n : Nat) : Dev :=
  let d := onSlice d n (fun s => { s with ch := .active, usSuspend := false })
  match lowestMember d with
  | none => d
  | some m => if m = d.bell.lock.refSlice then d else setRefSlice m (sliceOf d m).skew d

/-- BOND_OFFER acted on (R276 step 2); on a slice that is not eligible it is answered STATE (log 41). -/
def bondOffer (n : Nat) (h : BondHdr) (dsPort usPort start : Nat) (d : Dev) : Nat × Dev :=
  if ¬ eligible d n then (2, d)
  else
    let d := onBond d (fun b => { b with
      st := .bonded, id := h.bondId, dsPort := dsPort, usPort := usPort, e := start % 2 ^ 24, usNext := 0, held := [], sdu := none, sduSkip := false })
    (0, raiseLeaf (chActivate (answered d 0x81 0xFF) n) 6 24)

/-- BOND_OFFER (R276). -/
def execBondOffer (slice : Nat) (h : BondHdr) (dsPort usPort start : Nat) (s : State) : Host.Outcome State Fault Refusal :=
  nextDev s (fun d => bondMsg d slice 0x01 h true (bondOffer slice h dsPort usPort start))

/-- The bonded Alloc-IDs that a slice's map lacks. -/
def lackedIds (d : Dev) (n : Nat) : List (Nat × Nat) := d.acc.bond.ids.filter (fun e => (allocEntry (sliceOf d n) e.1).isNone)

/-- An entry of a bonded Alloc-ID in a slice's map (R283). -/
def bondedEntry (d : Dev) (n : Nat) (e : Nat × Nat) : Dev :=
  match tfree (sliceOf d n).allocs 0 64 with
  | none => d
  | some a => onSlice d n (fun s => { s with allocs := tset s.allocs a { id := e.1, bonded := true, node := e.2 } })

/-- Whether a channel meets R267 against the reference. -/
def skewOk (d : Dev) (n : Nat) : Bool :=
  match lowestMember d with
  | none => true
  | some m => (sliceOf d n).frame == (sliceOf d m).frame && decide ((sliceOf d n).skew.natAbs ≤ 1000)

/-- CHANNEL_ADD: the first code that applies (R277). -/
def channelAdd (n : Nat) (h : BondHdr) (joinFrame : Nat) (d : Dev) : Nat × Dev :=
  let s := sliceOf d n
  if ¬ h.reservedOk ∨ h.channel ≥ 4 then (6, d)
  else if h.channel ≠ n ∨ s.st ≠ .o5 ∨ ¬ eligible d n ∨ s.leaveFrame.isSome then (2, d)
  else if s.ch = .active then (0, d)
  else if ¬ skewOk d n then (3, d)
  else if joinFrame < h.frame + 8 ∨ joinFrame > h.frame + 8000 then (4, d)
  else if s.allocs.length + (lackedIds d n).length > 64 then (5, d)
  else
    let d := (lackedIds d n).foldl (fun d e => bondedEntry d n e) d
    (0, onSlice d n (fun s => { s with ch := .joining, joinFrame := joinFrame, joinLatch := joinFrame }))

/-- CHANNEL_ADD acted on: what its channel has asked is answered (R278). -/
def channelAddMsg (n : Nat) (h : BondHdr) (joinFrame : Nat) (d : Dev) : Nat × Dev :=
  let (c, d) := channelAdd n h joinFrame d
  (c, answered d 0x83 h.channel)

/-- CHANNEL_ADD (R277). -/
def execChannelAdd (slice : Nat) (h : BondHdr) (joinFrame : Nat) (s : State) : Host.Outcome State Fault Refusal :=
  nextDev s (fun d => bondMsg d slice 0x02 h false (channelAddMsg slice h joinFrame))

/-- CHANNEL_REMOVE: at once, or at LEAVE_FRAME (R279 cause 4, R282). -/
def channelRemove (h : BondHdr) (leaveFrame : Nat) (d : Dev) : Nat × Dev :=
  if h.channel ≥ 4 then (6, d)
  else
    let d := answered d 0x83 h.channel
    if (sliceOf d h.channel).ch = .out then (0, d)
    else if leaveFrame = 0 ∨ leaveFrame ≤ (sliceOf d h.channel).frame then (0, departure d h.channel 4 h.now)
    else (0, onSlice d h.channel (fun s => { s with leaveFrame := some leaveFrame }))

/-- CHANNEL_REMOVE (R279). -/
def execChannelRemove (slice : Nat) (h : BondHdr) (leaveFrame : Nat) (s : State) : Host.Outcome State Fault Refusal :=
  nextDev s (fun d => bondMsg d slice 0x03 h false (channelRemove h leaveFrame))

/-- The members of the bond, joining channels among them. -/
def bondMembers (d : Dev) : List Nat := (List.range 4).filter (fun n => (sliceOf d n).ch != .out)

/-- BOND_ALLOC (R282 to R284). -/
def bondAlloc (alloc : Nat) (assign : Bool) (d : Dev) : Nat × Dev :=
  let ms := bondMembers d
  if ¬ assign then
    match tget d.acc.bond.ids alloc with
    | none => (0, d)
    | some node =>
      let d := giveNode d 4 alloc node
      let d := (List.range 4).foldl (fun d n => onSlice d n (fun s => { s with allocs := s.allocs.filter (fun e => !(e.2.bonded && e.2.id == alloc)) })) d
      (0, onBond d (fun b => { b with ids := tdel b.ids alloc }))
  else if thas d.acc.bond.ids alloc then (0, d)
  else if ms.any (fun n => (allocEntry (sliceOf d n) alloc).isSome) then (2, bondCount d 9 1)
  else if ms.any (fun n => decide ((sliceOf d n).allocs.length ≥ 64)) then (5, bondCount d 9 1)
  else
    match freeNode d with
    | none => (5, bondCount d 9 1)
    | some node =>
      let d := onBond (takeNode d 4 alloc node) (fun b => { b with ids := tset b.ids alloc node })
      (0, ms.foldl (fun d n => bondedEntry d n (alloc, node)) d)

/-- BOND_ALLOC (R283). -/
def execBondAlloc (slice : Nat) (h : BondHdr) (alloc : Nat) (assign : Bool) (s : State) : Host.Outcome State Fault Refusal :=
  nextDev s (fun d => bondMsg d slice 0x04 h false (bondAlloc (alloc % 16384) assign))

/-- BOND_RELEASE acted on (R276). -/
def bondReleaseMsg (now : Nat) (d : Dev) : Nat × Dev := (0, bondEnd d now)

/-- BOND_RELEASE (R276). -/
def execBondRelease (slice : Nat) (h : BondHdr) (s : State) : Host.Outcome State Fault Refusal :=
  nextDev s (fun d => bondMsg d slice 0x05 h false (bondReleaseMsg h.now))

/-- A message of unknown type answered (R282): it takes no epoch, since none advances with it. -/
def bondUnknown (d : Dev) (slice : Nat) (h : BondHdr) (type : Nat) : Dev :=
  let x := sliceOf d slice
  if slice ≥ 4 ∨ ¬ d.acc.cfg.native ∨ x.st ≠ .o5 ∨ ¬ domOn d (4 + slice) ∨ h.onu ≠ x.onu then d
  else if ¬ h.micOk then bondCount d 7 1
  else bondAck (bondCount d 9 1) slice (type % 256) h 6

/-- BOND_MSG_UNKNOWN (R282). -/
def execBondMsgUnknown (slice : Nat) (h : BondHdr) (type : Nat) (s : State) : Host.Outcome State Fault Refusal :=
  nextDev s (fun d => bondUnknown d slice h type)

/-- CHANNEL_JOIN_FRAME: the frame that JOIN_FRAME names has come: the channel is ACTIVE (R276 step 4). -/
def execChannelJoinFrame (slice : Nat) (s : State) : Host.Outcome State Fault Refusal :=
  nextDev s (fun d =>
    let x := sliceOf d slice
    if slice < 4 ∧ x.ch = .joining ∧ x.frame ≥ x.joinFrame then accLeaf (chActivate d slice) slice 10 else d)

/-- CHANNEL_DEPARTURE: a cause of R279 is detected on a member (R280). -/
def execChannelDeparture (slice cause now : Nat) (s : State) : Host.Outcome State Fault Refusal :=
  nextDev s (fun d => if slice < 4 ∧ 1 ≤ cause ∧ cause ≤ 7 then departure d slice cause now else d)

/-- BOND_MSG_RETRY: an unanswered message again, five sends in all (R278). -/
def bondRetry (d : Dev) (type chan : Nat) : Dev :=
  match d.acc.bond.outs.find? (fun o => o.type == type && o.chan == chan) with
  | none => d
  | some o =>
    if d.bell.tick.toNat < o.nextAt.toNat then d
    else if o.sends < 5 then
      let content := if type = 0x81 then requestContent d else [o.status, o.cause]
      let d := onBond d (fun b => { b with outs := b.outs.map (fun x => if x = o then { o with sends := o.sends + 1, nextAt := d.bell.tick + 160 } else x) })
      ctlQueue d o.slice { kind := .bondMsg, len := 48, vals := byteVals (bondBytes o.slice (sliceOf d o.slice).onu type o.seq d.acc.bond.id d.acc.bond.epoch chan content) }
    else if type ≠ 0x81 then answered d type chan
    else if d.acc.bond.st = .forming then
      onBond d (fun b => { b with st := .unbonded, outs := b.outs.map (fun x => if x = o then { o with nextAt := d.bell.tick + BitVec.ofNat 64 (10 * ticksPerS) } else x) })
    else
      match (List.range 4).find? (fun n => eligible d n && (sliceOf d n).st == .o5) with
      | some n => if d.acc.bond.request ∧ d.acc.bond.st = .unbonded then bondForm d n else answered d type chan
      | none => answered d type chan

/-- BOND_MSG_RETRY (R278). -/
def execBondMsgRetry (type chan : Nat) (s : State) : Host.Outcome State Fault Refusal := nextDev s (fun d => bondRetry d type chan)

/-! ### Delivery of SDUs -/

/-- An SDU taken to its binding, or to PARSE as a GEM-delivered frame (R272, R373, R374). -/
def gemDeliver (d : Dev) (space q port : Nat) (bytes : List Byte) (now : Nat) : Dev :=
  match tget d.parse.gem (space * 65536 + port) with
  | some b =>
    let d := onPipe d 0 (fun r => { r with bound := satInc r.bound })
    match b with
    | .omcc => d
    | .trunk t => imcStream t bytes d
  | none => ingest d q (some port) bytes (if q < 4 then adjusted d q (now * 65536) else now * 65536) now none

/-! ### The reorder window (R269 to R272) -/

/-- The SDU in progress lost (R272). -/
def sduLost (d : Dev) : Dev :=
  if d.acc.bond.sdu.isSome then bondCount (onBond d (fun b => { b with sdu := none, sduSkip := true })) 4 1 else d

/-- A fragment delivered in order (R272). -/
def fragDeliver (d : Dev) (f : FragIn) (now : Nat) : Dev :=
  let d := if f.sof then onBond (sduLost d) (fun b => { b with sdu := some (f.port, []), sduSkip := false }) else d
  match d.acc.bond.sdu with
  | none => if d.acc.bond.sduSkip then d else bondCount (onBond d (fun b => { b with sduSkip := true })) 4 1
  | some (port, data) =>
    let all := data ++ f.data
    if port ≠ f.port ∨ all.length > 16383 then sduLost d
    else if f.eof then gemDeliver (onBond d (fun b => { b with sdu := none })) 4 14 port all now
    else onBond d (fun b => { b with sdu := some (port, all) })

/-- Sequence numbers declared lost (R270, R271). -/
def fragsLost (d : Dev) (k : Nat) : Dev := if k = 0 then d else raiseLeaf (sduLost (bondCount d 0 k)) 6 26

/-- The distance of a sequence number ahead of E. -/
def seqAhead (d : Dev) (seq : Nat) : Nat := (seq + 2 ^ 24 - d.acc.bond.e) % 2 ^ 24

/-- The held fragment nearest ahead of E. -/
def nextHeld (d : Dev) : Option (Nat × HeldFrag) :=
  d.acc.bond.held.foldl (fun best h =>
    let k := seqAhead d h.seq
    match best with
    | none => some (k, h)
    | some (j, g) => if k < j then some (k, h) else some (j, g)) none

/-- E advanced by `span`: what it passes over is delivered if held, and declared lost if not, in order (R270). -/
def windowAdvance (d : Dev) (span now : Nat) (fuel : Nat) : Dev :=
  match fuel with
  | 0 => d
  | fuel + 1 =>
    match nextHeld d with
    | some (k, h) =>
      if k < span then
        let d := fragsLost d k
        let d := onBond d (fun b => { b with e := (h.seq + 1) % 2 ^ 24, held := b.held.filter (fun x => x != h) })
        windowAdvance (fragDeliver d h.frag now) (span - k - 1) now fuel
      else fragsLost (onBond d (fun b => { b with e := (b.e + span) % 2 ^ 24 })) span
    | none => fragsLost (onBond d (fun b => { b with e := (b.e + span) % 2 ^ 24 })) span

/-- Held fragments delivered while the next one due is held. -/
def windowDrain (d : Dev) (now : Nat) (fuel : Nat) : Dev :=
  match fuel with
  | 0 => d
  | fuel + 1 =>
    match nextHeld d with
    | some (0, h) =>
      let d := onBond d (fun b => { b with e := (h.seq + 1) % 2 ^ 24, held := b.held.filter (fun x => x != h) })
      windowDrain (fragDeliver d h.frag now) now fuel
    | _ => d

/-- A fragment held, with its deadline (R271). -/
def windowHold (d : Dev) (f : FragIn) (now : Nat) : Dev :=
  onBond d (fun b => { b with held := b.held ++ [{ seq := f.seq, came := now, deadline := now + 40000, frag := f }] })

/-- A bonded fragment on a channel (R269, R270). -/
def fragmentRx (d : Dev) (n : Nat) (f : FragIn) (now : Nat) : Dev :=
  if ¬ chActive d n ∨ ¬ f.verOk ∨ ¬ f.hcrcOk then bondCount d 5 1
  else
    let d := accCount d n 16 1
    let f := { f with seq := f.seq % 2 ^ 24 }
    let k := seqAhead d f.seq
    if k = 0 then
      let d := onBond d (fun b => { b with e := (f.seq + 1) % 2 ^ 24 })
      windowDrain (fragDeliver d f now) now 256
    else if k ≤ 255 then
      if d.acc.bond.held.any (fun h => h.seq == f.seq) then bondCount d 3 1 else windowHold d f now
    else if k < 2 ^ 23 then
      let d := windowAdvance (bondCount d 1 1) (k - 255) now 257
      windowDrain (windowHold d f now) now 256
    else bondCount d 2 1

/-- BOND_FRAGMENT_RX (R270). -/
def execBondFragmentRx (slice : Nat) (f : FragIn) (now : Nat) (s : State) : Host.Outcome State Fault Refusal :=
  nextDev s (fun d => if slice < 4 ∧ domOn d (4 + slice) ∧ d.acc.bond.st = .bonded then fragmentRx d slice f now else d)

/-- Whether a held fragment's deadline has passed. -/
def deadlineDue (d : Dev) (now : Nat) : Bool := d.acc.bond.held.any (fun h => decide (h.deadline ≤ now))

/-- The gaps before the held fragments declared lost while the oldest is past its deadline (R271). -/
def reorderDeadline (d : Dev) (now : Nat) (fuel : Nat) : Dev :=
  match fuel with
  | 0 => d
  | fuel + 1 =>
    if ¬ deadlineDue d now then d
    else
      match nextHeld d with
      | none => d
      | some (k, _) => reorderDeadline (windowDrain (windowAdvance d k now 1) now 256) now fuel

/-- REORDER_DEADLINE (R271). -/
def execReorderDeadline (now : Nat) (s : State) : Host.Outcome State Fault Refusal := nextDev s (fun d => reorderDeadline d now 256)

/-- The header of a bond message read from its bytes (R273), of which the first `used` hold what its type gives (R274). -/
def bondHdr (n : Nat) (bs : List Byte) (used frame now : Nat) : BondHdr :=
  { micOk := beAt bs 40 8 == Config.bondMic n (bs.take 40) % 2 ^ 64, reservedOk := decide (byteAt bs 0 < 4) && ((bs.drop used).take (40 - used)).all (· == 0),
    onu := beAt bs 0 2 % 1024, msgSeq := byteAt bs 3, bondId := beAt bs 4 2, epoch := byteAt bs 6, channel := byteAt bs 7, frame := frame, now := now }

/-- A bond message of a GEM frame of port 0xFFFD read and handled (R273, R274, R282). -/
def bondRead (d : Dev) (n : Nat) (bs : List Byte) (now : Nat) : Dev :=
  let frame := (sliceOf d n).frame
  if bs.length ≠ 48 then d
  else
    match byteAt bs 2 with
    | 1 => bondMsg d n 1 (bondHdr n bs 15 frame now) true (bondOffer n (bondHdr n bs 15 frame now) (beAt bs 8 2) (beAt bs 10 2) (beAt bs 12 3))
    | 2 => bondMsg d n 2 (bondHdr n bs 14 frame now) false (channelAddMsg n (bondHdr n bs 14 frame now) (beAt bs 8 6))
    | 3 => bondMsg d n 3 (bondHdr n bs 15 frame now) false (channelRemove (bondHdr n bs 15 frame now) (beAt bs 8 6))
    | 4 => bondMsg d n 4 (bondHdr n bs 11 frame now) false (bondAlloc (beAt bs 8 2 % 16384) (decide (byteAt bs 10 = 1)))
    | 5 => bondMsg d n 5 (bondHdr n bs 8 frame now) false (bondReleaseMsg now)
    | t => bondUnknown d n (bondHdr n bs 8 frame now) t

/-! ### Downstream GEM frames (R243, R246) -/

/-- A bonding header read from a GEM payload (R269). -/
def fragOf (data : List Byte) : FragIn :=
  { verOk := decide (byteAt data 0 / 64 = 1 ∧ data.length ≥ 9), hcrcOk := decide ((crc16 (data.take 6)).toNat = beAt data 6 2),
    sof := decide (byteAt data 0 / 32 % 2 = 1), eof := decide (byteAt data 0 / 16 % 2 = 1), seq := beAt data 1 3, port := beAt data 4 2,
    data := data.drop 8 }

/-- The frame deciphered: the key it names, counted; a pending key takes effect with its first use; none held or a retired one discards it
(R246, R248). A frame that names no key goes in clear. -/
def gemDecrypt (d : Dev) (n : Nat) (g : GemIn) : Bool × Dev :=
  match g.keyIdx with
  | none => (true, d)
  | some i =>
    let i := i % 2
    let slot := if g.multicast then 4 + i else i
    let d := if ¬ g.multicast ∧ (sliceOf d n).keys.pend.map (·.1) = some i then keyTakeEffect d n else d
    let (ok, d) := useKey d n slot g.data.length g.now
    if ¬ ok then (false, accCount d n 8 1)
    else (true, if g.multicast then d else onSlice d n (fun s => { s with keys := { s.keys with dsIndex := i } }))

/-- A fragment of an SDU on a GEM port taken in (R243). -/
def reassemble (d : Dev) (n : Nat) (g : GemIn) : Dev :=
  let drop (d : Dev) : Dev := accCount (onSlice d n (fun s => { s with reasm := tdel s.reasm g.port })) n 10 1
  let busy := thas (sliceOf d n).reasm g.port
  let late := !g.first && busy && decide (g.frame > (tgetD (sliceOf d n).reasm g.port { data := [], frame := 0 }).frame + 2)
  let d := if (g.first ∧ busy) ∨ late then drop d else d
  if ¬ g.first ∧ (¬ busy ∨ late) then d
  else
    let old : Reasm := if g.first then { data := [], frame := g.frame } else tgetD (sliceOf d n).reasm g.port { data := [], frame := g.frame }
    let all := old.data ++ g.data
    if all.length > 16383 then drop d
    else if g.last then
      gemDeliver (onSlice d n (fun s => { s with reasm := tdel s.reasm g.port })) n (8 + n) g.port all g.now
    else onSlice d n (fun s => { s with reasm := tset s.reasm g.port { old with data := all } })

/-- GEM_FRAME_RX: a frame on a port of the slice is deciphered and reassembled, or goes to the bonding shim; frames on other ports belong to
other ONUs. A bond message is read from its bytes, an OMCI message by its own row (R243, R246, R250, R268, R273). In Winter only the OMCC is heard (R567). -/
def gemFrame (d : Dev) (n : Nat) (g : GemIn) : Dev :=
  let s := sliceOf d n
  let bondPort := d.acc.cfg.native && d.acc.bond.st == .bonded && g.port == d.acc.bond.dsPort
  let msgPort := d.acc.cfg.native && g.port == 0xFFFD
  let omcc := g.port == s.onu
  if s.st ≠ .o5 ∨ ¬ domOn d (4 + n) ∨ s.asleep ∨ (d.pwr.season = .winter ∧ ¬ omcc) then d
  else if ¬ bondPort ∧ ¬ msgPort ∧ ¬ omcc ∧ g.port ∉ s.gem then d
  else
    let (ok, d) := gemDecrypt d n g
    if ¬ ok then d
    else if msgPort then bondRead d n g.data g.now
    else if omcc then (if g.last then onPipe d 0 (fun r => { r with bound := satInc r.bound }) else d)
    else if bondPort then fragmentRx d n (fragOf g.data) g.now
    else reassemble d n g

/-- GEM_FRAME_RX (R243). -/
def execGemFrameRx (slice : Nat) (g : GemIn) (s : State) : Host.Outcome State Fault Refusal :=
  nextDev s (fun d => if slice < 4 then gemFrame d slice g else d)

/-- GEM_REASSEMBLY_TIMEOUT: the last fragment has not come within two frames of the first (R243). -/
def execGemReassemblyTimeout (slice port : Nat) (s : State) : Host.Outcome State Fault Refusal :=
  nextDev s (fun d =>
    match tget (sliceOf d slice).reasm port with
    | none => d
    | some r =>
      if (sliceOf d slice).frame < r.frame + 2 then d
      else accCount (onSlice d slice (fun x => { x with reasm := tdel x.reasm port })) slice 10 1)

/-! ### OMCI (R250, R528) -/

/-- The managed entities of R528: class and the most instances a slice holds; none for an unknown class. -/
def meInstances (cls : Nat) : Option Nat :=
  match cls with
  | 2 => some 1 | 5 => some 1 | 6 => some 1 | 7 => some 2 | 11 => some 4 | 45 => some 64 | 47 => some 512 | 131 => some 1 | 133 => some 1
  | 171 => some 64 | 256 => some 1 | 257 => some 1 | 262 => some 64 | 263 => some 1 | 266 => some 4096 | 268 => some 4096 | 273 => some 64
  | 274 => some 64 | 277 => some 512 | 278 => some 64 | 281 => some 64 | 332 => some 1 | 336 => some 1
  | _ => none

/-- Classes that the head end only reads: software images and power shedding (R528). -/
def meReadOnly (cls : Nat) : Bool := cls == 7 || cls == 133

/-- The key of a managed entity in a slice's store. -/
def meKey (cls inst : Nat) : Nat := cls * 65536 + inst

/-- Instances of a class that the store holds. -/
def meHeld (s : Slice) (cls : Nat) : Nat := (s.mib.filter (fun e => e.1 / 65536 == cls)).length

/-- Attributes written. -/
def meWrite (t : Tbl Nat) (attrs : List (Nat × Nat)) : Tbl Nat := attrs.foldl (fun t a => tset t a.1 a.2) t

/-- The trunks in SYNC whose inbound port OMCI removes hunt again (R301). -/
def trunksHunt (d : Dev) (n port : Nat) : Dev :=
  onImc d (fun i => { i with trunks := tmap i.trunks (fun _ t =>
    if t.rcd.inbound ∧ t.rcd.portIn = port ∧ (t.rcd.bonded ∨ trunkSlice d t.rcd = n) ∧ t.align = .sync then toHunt t else t) })

/-- What a managed-entity operation does to the slice (R243, R244, R245, R528). -/
def omciEffect (d : Dev) (n : Nat) (e : OmciEffect) : Dev :=
  match e with
  | .none => d
  | .gemPort port present =>
    onSlice (if present then d else trunksHunt d n port) n (fun s => { s with
      gem := if present then (if port ∈ s.gem ∨ s.gem.length ≥ 4096 then s.gem else s.gem ++ [port]) else s.gem.filter (fun p => p != port),
      reasm := if present then s.reasm else tdel s.reasm port })
  | .authenticated => onSlice d n (fun s => { s with keys := { s.keys with auth := true } })
  | .groupKey index key =>
    let k : GemKey := { key := key, frames := 0, bytes := 0, retired := false }
    onSlice d n (fun s => { s with keys := { s.keys with keys := tset s.keys.keys (4 + index % 2) k } })
  | .dataSync => onSlice d n (fun s => { s with mibSync := (s.mibSync + 1) % 256 })

/-- OMCI_MESSAGE: checked, applied to the managed entity and answered; the reply's result codes are those of G.988 (log 42). -/
def omciMessage (d : Dev) (n cls inst : Nat) (micOk : Bool) (op : OmciOp) (eff : OmciEffect) : Dev :=
  let s := sliceOf d n
  let reply (d : Dev) (code : Nat) (vals : List Nat) : Dev := ctlQueue d n { kind := .omciReply, len := 48, vals := [cls, inst, code] ++ vals }
  if s.st ≠ .o5 ∨ ¬ domOn d (4 + n) ∨ s.asleep then d
  else if ¬ micOk then accCount d n 9 1
  else
    match meInstances cls with
    | none => reply d 4 []
    | some top =>
      let key := meKey cls inst
      let held := tgetD s.mib key []
      match op with
      | .create attrs =>
        if meReadOnly cls then reply d 2 []
        else if thas s.mib key then reply d 7 []
        else if meHeld s cls ≥ top then reply d 1 []
        else reply (omciEffect (onSlice d n (fun s => { s with mib := tset s.mib key (meWrite [] attrs) })) n eff) 0 []
      | .delete =>
        if meReadOnly cls then reply d 2 []
        else if ¬ thas s.mib key then reply d 5 []
        else reply (omciEffect (onSlice d n (fun s => { s with mib := tdel s.mib key })) n eff) 0 []
      | .set attrs =>
        if meReadOnly cls then reply d 2 []
        else if ¬ thas s.mib key ∧ meHeld s cls ≥ top then reply d 5 []
        else reply (omciEffect (onSlice d n (fun s => { s with mib := tset s.mib key (meWrite held attrs) })) n eff) 0 []
      | .get mask => reply d 0 ((held.filter (fun a => mask.testBit (16 - a.1))).map (·.2))
      | .other => reply (omciEffect d n eff) 0 []

/-- OMCI_MESSAGE (R250). -/
def execOmciMessage (slice cls inst : Nat) (micOk : Bool) (op : OmciOp) (eff : OmciEffect) (s : State) : Host.Outcome State Fault Refusal :=
  nextDev s (fun d => if slice < 4 then omciMessage d slice cls inst micOk op eff else d)

end Sys2Proof.Machine
end

