-- ==== Sys2Proof/Machine/Acc.lean ====
section
/-! DEFINITION. The commands and registers of the access link (R258, R259, R293 to R295). -/

namespace Sys2Proof.Machine

/-! ### Commands -/

/-- Whether ACC_CONFIG's fields lie in their ranges (R240, R259, R261). -/
def accCfgOk (c : AccCfg) : Bool :=
  decide (c.rate ≤ 2 ∧ c.regId < 2 ^ 288 ∧ 1000 ≤ c.to1 ∧ c.to1 ≤ 60000 ∧ 10 ≤ c.to2 ∧ c.to2 ≤ 1000 ∧ 1000 ≤ c.tkey ∧ c.tkey ≤ 30000
    ∧ 10 ≤ c.flapWindow ∧ c.flapWindow ≤ 600 ∧ 1 ≤ c.qbase ∧ c.qbase ≤ 60) && (!c.native || c.rate == 2)

/-- ACC_CONFIG (R233, R261). -/
def actAccConfig (cfg : AccCfg) (v d : Dev) : ActResult :=
  if ¬ accCfgOk cfg then .refuse .badParam 0 (firstBad [(decide (cfg.rate ≤ 2) && (!cfg.native || cfg.rate == 2), 1), (decide (cfg.regId < 2 ^ 288), 2), (decide (1000 ≤ cfg.to1 ∧ cfg.to1 ≤ 60000), 38), (decide (10 ≤ cfg.to2 ∧ cfg.to2 ≤ 1000), 42), (decide (1000 ≤ cfg.tkey ∧ cfg.tkey ≤ 30000), 46), (decide (10 ≤ cfg.flapWindow ∧ cfg.flapWindow ≤ 600), 50), (decide (1 ≤ cfg.qbase ∧ cfg.qbase ≤ 60), 52)])
  else if (List.range 4).any (fun n => (sliceOf v n).st != .disabled) then .refuse .busy 0 noField
  else .stage false 0 [] none d

/-- The access link's configuration written at its bell. -/
def applyAccConfig (cfg : AccCfg) (d : Dev) : Dev :=
  let d := onAcc d (fun a => { a with cfg := cfg })
  if cfg.native then d else onBell d (fun b => { b with lock := { b.lock with refSlice := 0 } })

/-- The slices that a mask names. -/
def maskSlices (mask : Nat) : List Nat := (List.range 4).filter (fun n => mask.testBit n)

/-- ACC_ENABLE (R235, R258, R261). -/
def actAccEnable (mask : Nat) (stopHeld : Bool) (v d : Dev) : ActResult :=
  if mask ≥ 16 ∨ (¬ v.acc.cfg.native ∧ mask > 1) then .refuse .badParam 0 0
  else if (maskSlices mask).any (fun n => (sliceOf v n).st == .killed) then .refuse .busy 0 noField
  else let _ := stopHeld; .stage false 0 [] none d

/-- The slices named start: in O7 where the emergency stop is held, by the flag or in AON, else in O1.1 (R235). A slice already in service
is left as it is. -/
def applyAccEnable (mask : Nat) (stopHeld : Bool) (d : Dev) : Dev :=
  (maskSlices mask).foldl (fun d n =>
    if (sliceOf d n).st ≠ .disabled then d
    else setAccSt d n (if stopHeld ∨ (sliceOf d n).stopHeld then .o7 else .o11) (bellNs d)) d

/-- ACC_DISABLE acts as it is dequeued; DONE follows the bell after its slices have reached DISABLED, or stay KILLED (R239, R258). -/
def actAccDisable (mask : Nat) (gasp : Bool) (_v d : Dev) : ActResult :=
  if mask ≥ 16 then .refuse .badParam 0 0
  else .later (fun ctx =>
    let d := (maskSlices mask).foldl (fun d n =>
      if (sliceOf d n).st = .killed then d
      else if gasp ∧ (sliceOf d n).st = .o5 then onSlice (gaspQueue d n) n (fun s => { s with gasp := some d.bell.tick })
      else setAccSt d n .disabled (bellNs d)) d
    onAcc (endIfAllDisabled d) (fun a => { a with jobs := a.jobs ++ [{ mask := mask, ctx := ctx }] }))

/-- The ACC_DISABLEs whose slices have reached DISABLED answered at a bell (R258). -/
def accBell (d : Dev) : Dev :=
  let over_ (j : DisableJob) : Bool := (maskSlices j.mask).all (fun n => (sliceOf d n).st == .disabled || (sliceOf d n).st == .killed)
  let ready := d.acc.jobs.filter over_
  let d := onAcc d (fun a => { a with jobs := a.jobs.filter (fun j => !over_ j) })
  ready.foldl (fun d j => answer (epochDone d j.ctx.epoch) j.ctx .done []) d

/-- ACC_KILL_RELEASE (R256): under presence, by the gate of R500. -/
def actAccKillRelease (slice : Nat) (_v d : Dev) : ActResult :=
  if slice ≥ 4 then .refuse .badParam 0 0 else .stage false 0 [] none d

/-- The kill cleared at its bell: the slice leaves KILLED for O7 or O1.1 (R238, R256). -/
def applyAccKillRelease (slice : Nat) (d : Dev) : Dev :=
  if (sliceOf d slice).st ≠ .killed then d
  else
    let d := onSlice d slice (fun s => { s with wdKilled := false, wdCause := 0 })
    setAccSt d slice (if (sliceOf d slice).stopHeld then .o7 else .o11) (bellNs d)

/-- ACC_BOND_CONFIG (R293). -/
def actAccBondConfig (mask : Nat) (request : Bool) (v d : Dev) : ActResult :=
  if ¬ v.acc.cfg.native ∨ mask ≥ 16 then .refuse .badParam 0 0 else let _ := request; .stage false 0 [] none d

/-- The eligible mask and REQUEST written at their bell: a slice removed leaves the bond with cause 6, and a request that finds an eligible
slice in O5 begins forming (R276, R293). -/
def applyAccBondConfig (mask : Nat) (request : Bool) (d : Dev) : Dev :=
  let d := onBond d (fun b => { b with mask := mask, request := request })
  let d := (List.range 4).foldl (fun d n => if mask.testBit n then d else departure d n 6 (bellNs d)) d
  match (List.range 4).find? (fun n => eligible d n && (sliceOf d n).st == .o5) with
  | some n => if request ∧ d.acc.bond.st = .unbonded ∧ d.acc.bond.outs.all (fun o => o.type != 0x81) then bondForm d n else d
  | none => d

/-- ACC_CHANNEL_LEAVE (R279 cause 6, R293): a channel that is no member changes nothing. -/
def actAccChannelLeave (slice : Nat) (_v d : Dev) : ActResult :=
  if slice ≥ 4 then .refuse .badParam 0 0 else .stage false 0 [] none d

/-- The channel out of the bond at its bell. -/
def applyAccChannelLeave (slice : Nat) (d : Dev) : Dev := departure d slice 6 (bellNs d)

/-! ### Registers -/

/-- The code of a state (R259). -/
def accStCode (st : AccSt) : Nat :=
  match st with
  | .disabled => 0 | .o11 => 1 | .o12 => 2 | .o23 => 3 | .o4 => 4 | .o5 => 5 | .o6 => 6 | .o7 => 7 | .killed => 8 | .quarantine => 9

/-- KEY_STATE_n (R259). -/
def keyStateReg (k : KeyState) : Nat :=
  k.dsIndex + 2 * k.usIndex + 4 * b2n (decide (k.tries > 0)) + 8 * b2n ((keysInUse k).any gemKeyWarn) + 16 * b2n ((keysInUse k).any (·.retired))
    + 32 * b2n k.stall + 64 * b2n k.auth + 256 * k.tries

/-- Whether slice `n` is the reference slice (R41): ACC0 in service in standard mode, in native mode the member that the lock machine follows. -/
def isRef (d : Dev) (n : Nat) : Bool :=
  d.bell.lock.refSlice == n && (if d.acc.cfg.native then chActive d n else (sliceOf d n).st != .disabled)

/-- BOND_CH_n (R294). -/
def bondChReg (d : Dev) (n : Nat) : Nat :=
  let s := sliceOf d n
  (match s.ch with | .out => 0 | .joining => 1 | .active => 2) + 8 * b2n (isRef d n) + 16 * b2n s.usSuspend
    + 256 * s.leaveCause + 65536 * twos 16 s.skew

/-- A register of slice `n` by its offset (R259, R294): unlisted offsets read as zero. While the slice's domain is off only what lies in AON
reads (R558). -/
def sliceReg (d : Dev) (n off : Nat) : Nat :=
  let s := sliceOf d n
  let c := d.acc.cfg
  if off = 0 then
    if ¬ domOn d (4 + n) then 16 * b2n s.stopHeld
    else accStCode s.st + 16 * b2n s.stopHeld + 32 * b2n s.sync + 64 * b2n s.los + 128 * b2n s.sleepAllowed + 65536 * s.onu
  else if off = 4 then s.eqd
  else if off = 8 then respTime d
  else if off = 0xC then c.rate + 4 * b2n c.native
  else if off = 0x10 then c.to1
  else if off = 0x14 then c.to2
  else if off = 0x18 then c.tkey
  else if off = 0x1C then
    c.flapWindow + 65536 * c.qbase
      + 2 ^ 24 * (s.flaps.filter (fun f => decide (d.bell.tick.toNat - f.toNat < c.flapWindow * ticksPerS))).length
  else if off = 0x20 then keyStateReg s.keys
  else if off = 0x30 then s.burstMax
  else if off = 0x34 then b2n s.wdKilled + 2 * s.wdCause
  else if off = 0x38 then s.wdTick.toNat
  else if off = 0x3C then s.dropAlloc + 65536 * s.dropReason
  else if 0x40 ≤ off ∧ off < 0x7C ∧ off % 4 = 0 then (tgetD s.cnt ((off - 0x40) / 4) 0).toNat
  else if off = 0x80 then bondChReg d n
  else if off = 0x84 then s.lead + 65536 * s.trail
  else if off = 0x88 then s.joinLatch % 2 ^ 32
  else if off = 0x8C then s.joinLatch / 2 ^ 32
  else if 0x90 ≤ off ∧ off < 0xA0 ∧ off % 4 = 0 then (tgetD s.cnt (16 + (off - 0x90) / 4) 0).toNat
  else if 0x400 ≤ off ∧ off < 0x500 ∧ off % 4 = 0 then
    match tget s.allocs ((off - 0x400) / 4) with
    | some e => e.id + 16384 + 32768 * b2n e.bonded + 65536 * e.node
    | none => 0
  else if 0x500 ≤ off ∧ off < 0x600 ∧ off % 4 = 0 then tgetD s.occ ((off - 0x500) / 4) 0
  else 0

/-- A bond-wide register by its offset from 0x020_2000 (R295). The age of the oldest held fragment is taken at the latest bell. -/
def bondReg (d : Dev) (off : Nat) : Nat :=
  let b := d.acc.bond
  if off = 0 then
    (match b.st with | .unbonded => 0 | .forming => 1 | .bonded => 2) + 16 * memberMask d + 256 * b.epoch + 65536 * b.id
  else if off = 4 then b.dsPort + 65536 * b.usPort
  else if off = 8 then b.e
  else if off = 0xC then
    b.held.length + 65536 * min 400 (maxN (b.held.map (fun h => (bellNs d - h.came) / 100)))
  else if off = 0x10 then b.usNext
  else if 0x20 ≤ off ∧ off < 0x48 ∧ off % 4 = 0 then (tgetD b.cnt ((off - 0x20) / 4) 0).toNat
  else if off = 0x48 then b.lastType + 256 * b.lastCode + 65536 * b.lastChan
  else 0

/-- An ACC register by its offset in the block. -/
def accReg (d : Dev) (off : Nat) : Nat :=
  if 0x2000 ≤ off ∧ off < 0x3000 then bondReg d (off - 0x2000) else sliceReg d (off / 0x40000) (off % 0x40000)

/-- What a read of an ACC register clears: its counter (R259, R294, R295). -/
def accReadClear (d : Dev) (off : Nat) : Dev :=
  if 0x2020 ≤ off ∧ off < 0x2048 then onBond d (fun b => { b with cnt := tdel b.cnt ((off - 0x2020) / 4) })
  else
    let n := off / 0x40000
    let o := off % 0x40000
    if 0x40 ≤ o ∧ o < 0x7C then onSlice d n (fun s => { s with cnt := tdel s.cnt ((o - 0x40) / 4) })
    else if 0x90 ≤ o ∧ o < 0xA0 then onSlice d n (fun s => { s with cnt := tdel s.cnt (16 + (o - 0x90) / 4) })
    else d

/-- A write of an ACC register: WD_CTRL_n and US_BEN_CTRL_n until the seal (R257, R285); none where the register takes no write. -/
def accWrite (d : Dev) (off : Nat) (v : Word) : Option Dev :=
  let n := off / 0x40000
  let o := off % 0x40000
  if d.fold.boot.sealed then none
  else if o = 0x30 then some (onSlice d n (fun s => { s with burstMax := v.toNat % 2 ^ 17 }))
  else if o = 0x84 then some (onSlice d n (fun s => { s with lead := v.toNat % 512, trail := v.toNat / 65536 % 128 }))
  else none

/-- ACC_QUERY (R258). -/
def actAccQuery (slice : Nat) (_v d : Dev) : ActResult :=
  if slice ≥ 4 then .refuse .badParam 0 0
  else
    let s := sliceOf d slice
    .read ([accStCode s.st, s.onu, s.eqd, keyStateReg s.keys, b2n s.wdKilled + 2 * s.wdCause] ++ (List.range 15).map (fun i => (tgetD s.cnt i 0).toNat)) d

/-- ACC_BOND_QUERY (R293). -/
def actAccBondQuery (_v d : Dev) : ActResult :=
  .read ([bondReg d 0 % 4, memberMask d, d.acc.bond.e, d.acc.bond.usNext] ++ (List.range 10).map (fun i => (tgetD d.acc.bond.cnt i 0).toNat)) d

/-! ### Diagnostics of managed entities (R528, R530) -/

/-- DIAG_OMCI_READ: the attributes of a managed entity that a mask names (R530). -/
def actDiagOmciRead (slice cls inst mask : Nat) (_v d : Dev) : ActResult :=
  if slice ≥ 4 ∨ (meInstances cls).isNone then .refuse .badParam 0 (if slice ≥ 4 then 0 else 1)
  else
    match tget (sliceOf d slice).mib (meKey cls inst) with
    | none => .refuse .badParam 0 3
    | some t => .read ((t.filter (fun a => mask.testBit (16 - a.1))).map (·.2)) d

/-- DIAG_OMCI_LIST: the instances of a class (R530). -/
def actDiagOmciList (slice cls : Nat) (_v d : Dev) : ActResult :=
  if slice ≥ 4 ∨ (meInstances cls).isNone then .refuse .badParam 0 (if slice ≥ 4 then 0 else 1)
  else .read (((sliceOf d slice).mib.filter (fun e => e.1 / 65536 == cls)).map (fun e => e.1 % 65536)) d

end Sys2Proof.Machine
end

