-- ==== Sys2Proof/Machine/Sys.lean ====
section
/-! DEFINITION. The system group's own commands, the host rings, the service-port sessions and BAR2 (chapter 17). -/

namespace Sys2Proof.Machine

/-! ### Rings (R521 to R523) -/

/-- A ring stopped for a cause (R523). -/
def ringStop (d : Dev) (r cause : Nat) : Dev := raiseLeaf (onRing d r (fun g => { g with stopped := true, err := cause })) 0 (4 + r)

/-- Whether ring `r` runs. -/
def ringRuns (g : Ring) : Bool := g.en && !g.stopped

/-- SQ_TAIL_DOORBELL: a value above 255 stops the ring; else the packets stand in the slots from the old tail on (R521 to R523). -/
def sqTail (d : Dev) (r value : Nat) (packets : List KPacket) : Dev :=
  if value > 255 then ringStop d r 1
  else
    let t := (ringOf d r).sqTail
    let put := (List.range packets.length).zip packets
    onRing d r (fun g => { g with sqTail := value, slots := put.foldl (fun s e => tset s ((t + e.1) % 256) e.2) g.slots })

/-- SQ_TAIL_DOORBELL (R522): `pcieFails` says that the ring's memory could not be read. -/
def execSqTailDoorbell (ring value : Nat) (packets : List KPacket) (pcieFails : Bool) (s : State) : Host.Outcome State Fault Refusal :=
  nextDev s (fun d =>
    if ring > 3 ∨ ¬ domOn d 38 then d
    else
      let d := sqTail d ring value packets
      if pcieFails ∧ ringRuns (ringOf d ring) then ringStop d ring 2 else d)

/-- A write of CQ_HEAD: slots come free, and replies that waited are written (R522, R523). -/
def cqHead (d : Dev) (r value : Nat) : Dev :=
  if value > 255 then ringStop d r 1
  else cqDrain (onRing d r (fun g => { g with cqHead := value })) r 256

/-- CQ_HEAD_DOORBELL (R522). -/
def execCqHeadDoorbell (ring value : Nat) (s : State) : Host.Outcome State Fault Refusal :=
  nextDev s (fun d => if ring > 3 ∨ ¬ domOn d 38 then d else cqHead d ring value)

/-- A write of EN: setting it zeroes the indices and STOPPED, and keeps the cause; clearing it stops the pair (R523). -/
def ringEn (d : Dev) (r : Nat) (en : Bool) : Dev :=
  if en ∧ ¬ (ringOf d r).en then
    onRing d r (fun g => { g with en := true, stopped := false, sqTail := 0, sqHead := 0, cqTail := 0, cqHead := 0, slots := [], cq := [], waiting := [] })
  else if en then d
  else onRing d r (fun g => { g with en := false })

/-- RING_ENABLE (R523). -/
def execRingEnable (ring : Nat) (en : Bool) (s : State) : Host.Outcome State Fault Refusal :=
  nextDev s (fun d => if ring > 3 ∨ ¬ domOn d 38 then d else ringEn d ring en)

/-- MSIX_ENABLE: MSI-X in configuration space and the mask of its entry; where it becomes able to send while the condition holds, the
message goes out at once, as does one that the mask had deferred (R534). -/
def msixConfig (d : Dev) (cfgEn masked : Bool) : Dev :=
  let could := d.sys.int.msixEn && d.sys.int.msixCfgEn
  let d := onInt d (fun i => { i with msixCfgEn := cfgEn, msixMasked := masked })
  let can := d.sys.int.msixEn && cfgEn
  if can ∧ d.sys.int.pin ∧ (¬ could ∨ (d.sys.int.msixPending ∧ ¬ masked)) then msixSend d else d

/-- MSIX_ENABLE (R534). -/
def execMsixEnable (cfgEn masked : Bool) (s : State) : Host.Outcome State Fault Refusal := nextDev s (fun d => msixConfig d cfgEn masked)

/-- A write of INT_CTRL (R534). -/
def intCtrl (d : Dev) (en : Bool) : Dev :=
  let could := d.sys.int.msixEn && d.sys.int.msixCfgEn
  let d := onInt d (fun i => { i with msixEn := en })
  if en ∧ d.sys.int.msixCfgEn ∧ ¬ could ∧ d.sys.int.pin then msixSend d else d

/-- LEAF_WRITE: bits written as 1 clear (R7, R532). -/
def execLeafWrite (word : Nat) (value : Word) (s : State) : Host.Outcome State Fault Refusal :=
  nextDev s (fun d => if word < 64 ∧ domOn d 38 then clearLeaf d word value else d)

/-! ### Sessions (R524 to R527) -/

/-- Whether management sessions are permitted, and where they arrive (R493, R524). -/
def sessionsOn (d : Dev) : Bool := (otpRules d).mgmt && (portLit d 4) && (d.fold.boot.stage == .ctrl || d.fold.boot.stage == .ready)

/-- A datagram dropped (R524, R527). -/
def sessionDrop (d : Dev) : Dev := onSys d (fun y => { y with sessionDrop := satInc y.sessionDrop })

/-- SESSION_HELLO: a free session is assigned and answered with CHALLENGE; with all eight in use the answer is nothing (R526). -/
def sessionHello (d : Dev) (addr port : Nat) : Dev :=
  if ¬ sessionsOn d then sessionDrop d
  else
    match (List.range 8).find? (fun k => (sessOf d k).st == .free) with
    | none => d
    | some k =>
      let (n, d) := drawFree d
      datagram (onSess d k (fun _ => { Sess.reset with st := .challenged, addr := addr, port := port, nonce := n % 2 ^ 256 })) k 2 [((n % 2 ^ 256 : Nat) : Int)]

/-- SESSION_HELLO (R526). -/
def execSessionHello (addr port : Nat) (s : State) : Host.Outcome State Fault Refusal := nextDev s (fun d => sessionHello d addr port)

/-- SESSION_PROOF: the modulus's SHA-256, the signature and the ciphertext hold, and the session opens; else it does not, and the station's
attempt is over (R526). -/
def sessionProof (d : Dev) (k role keyHash : Nat) (sigOk decryptOk : Bool) : Dev :=
  if ¬ sessionsOn d ∨ (sessOf d k).st ≠ .challenged then sessionDrop d
  else if keyHash = (otpRules d).mgmtKeyHash ∧ sigOk ∧ decryptOk ∧ role ≤ 1 then
    raiseLeaf (datagram (onSess d k (fun x => { x with st := .opened, role := role, txCtr := 1 })) k 4 []) 0 12
  else raiseLeaf (onSess d k (fun _ => Sess.reset)) 0 13

/-- SESSION_PROOF (R526). -/
def execSessionProof (session role keyHash : Nat) (sigOk decryptOk : Bool) (s : State) : Host.Outcome State Fault Refusal :=
  nextDev s (fun d => if session < 8 then sessionProof d session role keyHash sigOk decryptOk else sessionDrop d)

/-- A session closed: replies still owed to it go nowhere (R527). -/
def sessionClose (d : Dev) (k : Nat) : Dev :=
  if (sessOf d k).st ≠ .opened then onSess d k (fun _ => Sess.reset)
  else
    let gone (c : ReplyCtx) : ReplyCtx := if c.tr = some (.session k) then { c with tr := none } else c
    let d := onSys (onSess d k (fun _ => Sess.reset)) (fun y => { y with
      staged := y.staged.map (fun t => { t with ctx := gone t.ctx }), atBell := y.atBell.map (fun a => (gone a.1, a.2)) })
    raiseLeaf d 0 14

/-- SESSION_COMMAND: an authenticated COMMAND with a higher COUNTER is queued; one that repeats the highest with the same bytes has its reply
sent again (R527). -/
def sessionCommand (d : Dev) (k ctr : Nat) (tagOk : Bool) (p : KPacket) : Dev :=
  let x := sessOf d k
  if ¬ sessionsOn d ∨ x.st ≠ .opened ∨ ¬ tagOk then sessionDrop d
  else if ctr > x.rxCtr.toNat then
    onSess d k (fun x => { x with rxCtr := BitVec.ofNat 64 ctr, lastCmd := some p, lastReply := none, queue := x.queue ++ [p] })
  else if ctr = x.rxCtr.toNat ∧ x.lastCmd = some p then
    match x.lastReply with
    | none => d
    | some r => datagram d k 6 (wireVals (replyBytes r))
  else sessionDrop d

/-- SESSION_COMMAND (R527). -/
def execSessionCommand (session ctr : Nat) (tagOk : Bool) (packet : KPacket) (s : State) : Host.Outcome State Fault Refusal :=
  nextDev s (fun d => if session < 8 then sessionCommand d session ctr tagOk packet else sessionDrop d)

/-- SESSION_CLOSE: an authenticated CLOSE (R527). -/
def execSessionClose (session ctr : Nat) (tagOk : Bool) (s : State) : Host.Outcome State Fault Refusal :=
  nextDev s (fun d =>
    if session ≥ 8 ∨ ¬ sessionsOn d ∨ (sessOf d session).st ≠ .opened ∨ ¬ tagOk ∨ ctr ≤ (sessOf d session).rxCtr.toNat then sessionDrop d
    else sessionClose d session)

/-- SESSION_IDLE_TIMEOUT: the idle time has passed with no valid datagram (R527). -/
def execSessionIdleTimeout (session : Nat) (s : State) : Host.Outcome State Fault Refusal :=
  nextDev s (fun d => if (sessOf d session).st = .opened then sessionClose d session else d)

/-- SESSION_PROOF_TIMEOUT: a CHALLENGE that 5 s have not answered frees its session (R526). -/
def execSessionProofTimeout (session : Nat) (s : State) : Host.Outcome State Fault Refusal :=
  nextDev s (fun d => if (sessOf d session).st = .challenged then onSess d session (fun _ => Sess.reset) else d)

/-! ### Commands (R530, R531) -/

/-- The value of SYS.IDENT (R2). -/
def sysIdent : Nat := 0x72400001

/-- SYS_QUERY (R530). -/
def actSysQuery (_v d : Dev) : ActResult :=
  .read ([sysIdent, stageCode d.fold.boot.stage, d.sys.epochStaged.toNat, (epochInForce d.sys).toNat]
    ++ (List.range 4).map (fun r => b2n (ringOf d r).en + 2 * b2n (ringOf d r).stopped)
    ++ [((List.range 8).filter (fun k => (sessOf d k).st == .opened)).length]) d

/-- MGMT_CONFIG (R524, R527, R530). -/
def actMgmtConfig (addr port idle : Nat) (_v d : Dev) : ActResult :=
  if addr ≥ 2 ^ 128 ∨ port ≥ 65536 ∨ idle < 10 ∨ idle > 3600 then .refuse .badParam 0 (firstBad [(decide (addr < 2 ^ 128), 0), (decide (port < 65536), 16), (false, 18)]) else .stage false 0 [] none d

/-- The sessions' address, port and idle time written at their bell. -/
def applyMgmtConfig (addr port idle : Nat) (d : Dev) : Dev := onSys d (fun y => { y with mgmtAddr := addr, mgmtPort := port, mgmtIdle := idle })

/-- The state of a session as a number. -/
def sessCode (x : SessState) : Nat := match x with | .free => 0 | .challenged => 1 | .opened => 2

/-- MGMT_SESSION_QUERY (R530). -/
def actMgmtSessionQuery (_v d : Dev) : ActResult :=
  .read (byteData ((List.range 8).flatMap (fun k =>
    let x := sessOf d k
    layBytes [(1, sessCode x.st), (1, x.role)] ++ beBytes x.addr 16 ++ layBytes [(2, x.port), (8, x.rxCtr.toNat), (8, x.txCtr.toNat)]))) d

/-- MGMT_SESSION_CLOSE (R527): it acts at dequeue; a session that is not open changes nothing. -/
def actMgmtSessionClose (session : Nat) (_v d : Dev) : ActResult :=
  if session ≥ 8 then .refuse .badParam 0 0
  else .now [] (if (sessOf d session).st = .opened then sessionClose (datagram (onSess d session (fun x => { x with txCtr := x.txCtr + 1 })) session 7 []) session else d)

/-- The slot from which the running firmware of a KIND came. -/
def runningSlot (d : Dev) (kind : Nat) : Nat := if kind = 2 then d.fold.boot.foldSlot else d.fold.boot.ctrlSlot

/-- FW_STORE_WRITE (R530): the image is checked once it has been read, before the store is written. -/
def actFwStoreWrite (kind slot offset : Nat) (img : ImageDesc) (_v d : Dev) : ActResult :=
  if (kind ≠ 2 ∧ kind ≠ 3) ∨ slot > 1 ∨ offset ≥ 2 ^ 35 then .refuse .badParam 0 (firstBad [(decide (kind = 2 ∨ kind = 3), 0), (decide (slot ≤ 1), 1), (false, 2)])
  else if runningSlot d kind = slot ∨ d.fold.boot.storeJob.isSome then .refuse .busy 0 noField
  else .accepted false (fun x => onBoot d (fun b => { b with storeJob := some { kind := kind, slot := slot, img := img, ctx := x } }))

/-- Whether a firmware image passes R472, R474 and R476 for a KIND. -/
def firmwareOk (d : Dev) (kind : Nat) (i : ImageDesc) (lifted : Bool) : Option (Status × Nat) :=
  if i.kind ≠ kind then some (.badParam, 1) else verifyImage d i lifted

/-- FW_STORE_WRITE_DONE: the image has been checked, and where it passes the slot holds it; the follow-up says which (R512, R530). -/
def fwStoreDone (d : Dev) : Dev :=
  match d.fold.boot.storeJob with
  | none => d
  | some j =>
    let d := onBoot d (fun b => { b with storeJob := none })
    match firmwareOk d j.kind j.img false with
    | some (st, r) => followUp d j.ctx st (refusalData r noField)
    | none => followUp (onBoot d (fun b => { b with store := tset b.store (2 * j.kind + j.slot) j.img })) j.ctx .done []

/-- FW_STORE_WRITE_DONE (R512). -/
def execFwStoreWriteDone (s : State) : Host.Outcome State Fault Refusal := nextDev s fwStoreDone

/-- FW_RECOVER (R531): in RECOVERY the image is checked, written to the slot that failed, the higher VERSION's, and the device resets; outside
it the device is not in a state for it. -/
def actFwRecover (kind hostAddr length : Nat) (img : ImageDesc) (_v d : Dev) : ActResult :=
  let _ := hostAddr
  let _ := length
  if d.fold.boot.stage ≠ .recovery then .refuse .busy 0 noField
  else if kind ≠ 2 ∧ kind ≠ 3 then .refuse .badParam 0 0
  else
    match firmwareOk d kind img (d.fold.guard.window == .jumper) with
    | some (st, r) => .refuse st r (faultOf st 1)
    | none =>
      let slot := runningSlot d kind
      .now [] (onFold (onBoot d (fun b => { b with store := tset b.store (2 * kind + slot) img })) (fun f => { f with resetReq := true }))

/-- HOST_PKT_TX: the frame enters PARSE port 5 (R373, R530). `stamp` and `now` are its instant at the port. -/
def actHostPktTx (twoStep : Bool) (tag : Nat) (frame : List Byte) (stamp now : Nat) (_v d : Dev) : ActResult :=
  if tag ≥ 65536 then .refuse .badParam 0 1
  else .now [] (ingest d 5 none frame stamp now (if twoStep then some tag else none))

/-- HOST_PKT_CONFIG (R530, R531). -/
def actHostPktConfig (ring : Nat) (enable : Bool) (_v d : Dev) : ActResult :=
  let _ := enable
  if ring > 3 then .refuse .badParam 0 0 else .stage false 0 [] none d

/-- The host packet path set to a ring at its bell, and to that ring alone. -/
def applyHostPktConfig (ring : Nat) (enable : Bool) (d : Dev) : Dev :=
  let d := onSys d (fun y => { y with rings := tmap y.rings (fun k g => if k = ring then g else if enable then { g with hostPkt := false } else g) })
  onRing d ring (fun g => { g with hostPkt := enable })

/-- PARSE_HASH_PROFILE_SET (R386, R396): a symmetric profile's seed changes only while no leg names it, and its fields never. -/
def actParseHashProfileSet (profile fields : Nat) (seed : Word) (v d : Dev) : ActResult :=
  let _ := seed
  if profile > 63 ∨ fields ≥ 2 ^ 12 then .refuse .badParam 0 (if profile > 63 then 0 else 1)
  else if profile ≤ 7 ∧ v.media.legs.any (fun e => e.2.st != .free && e.2.rcd.hashProfile == profile) then .refuse .busy 0 noField
  else .stage false 0 [] none d

/-! ### SYS registers (R535) -/

/-- A SYS register by its offset: unlisted offsets read as zero. -/
def sysReg (d : Dev) (off : Nat) : Nat :=
  let y := d.sys
  let i := y.int
  if off = 0 then sysIdent
  else if off = 0x10 then y.bar2Win
  else if off = 0x20 then y.epochStaged.toNat
  else if off = 0x24 then (epochInForce y).toNat
  else if off = 0x30 then y.writeDropAddr
  else if off = 0x34 then y.darkAddr + 2 ^ 31 * b2n y.darkWrite
  else if off = 0x38 then y.sessionDrop.toNat
  else if off = 0x3C then y.hostPktDrop.toNat
  else if off = 0x100 then (intTop i).toNat
  else if off = 0x104 then i.topMask.toNat
  else if off = 0x108 then b2n i.msixEn + 2 * b2n i.pin
  else if 0x200 ≤ off ∧ off < 0x288 ∧ off % 4 = 0 then
    if off % 8 = 0 then (groupCause i ((off - 0x200) / 8)).toNat else (groupMaskOf i ((off - 0x204) / 8)).toNat
  else if 0x400 ≤ off ∧ off < 0x500 ∧ off % 4 = 0 then (leafWord i ((off - 0x400) / 4)).toNat
  else if 0x600 ≤ off ∧ off < 0x700 ∧ off % 4 = 0 then (leafMaskWord i ((off - 0x600) / 4)).toNat
  else if 0x1000 ≤ off ∧ off < 0x1100 then
    let g := ringOf d ((off - 0x1000) / 0x40)
    match (off - 0x1000) % 0x40 with
    | 0x00 => b2n g.en + 2 * b2n g.stopped
    | 0x04 => g.err
    | 0x08 => g.sqBase.toNat % 2 ^ 32
    | 0x0C => g.sqBase.toNat / 2 ^ 32
    | 0x10 => g.cqBase.toNat % 2 ^ 32
    | 0x14 => g.cqBase.toNat / 2 ^ 32
    | 0x18 => g.wb.toNat % 2 ^ 32
    | 0x1C => g.wb.toNat / 2 ^ 32
    | 0x20 => g.sqTail
    | 0x24 => g.sqHead
    | 0x28 => g.cqTail
    | 0x2C => g.cqHead
    | _ => 0
  else 0

/-- What a read of a SYS register clears: its counter. -/
def sysReadClear (d : Dev) (off : Nat) : Dev :=
  if off = 0x38 then onSys d (fun y => { y with sessionDrop := 0 })
  else if off = 0x3C then onSys d (fun y => { y with hostPktDrop := 0 })
  else d

/-- Half a 64-bit address written, its low bits reading as zero. -/
def setHalf (a : BitVec 64) (hi : Bool) (v : Word) (zeros : Nat) : BitVec 64 :=
  if hi then BitVec.ofNat 64 (a.toNat % 2 ^ 32 + 2 ^ 32 * v.toNat)
  else BitVec.ofNat 64 (a.toNat / 2 ^ 32 * 2 ^ 32 + v.toNat / 2 ^ zeros * 2 ^ zeros)

/-- A write of a ring's register (R523, R535): the addresses only while EN is 0. -/
def ringWrite (d : Dev) (r off : Nat) (v : Word) : Dev :=
  let addr (f : Ring → Ring) : Dev := if (ringOf d r).en then d else onRing d r f
  match off with
  | 0x00 => ringEn d r (bitOf v 0)
  | 0x08 => addr (fun g => { g with sqBase := setHalf g.sqBase false v 12 })
  | 0x0C => addr (fun g => { g with sqBase := setHalf g.sqBase true v 0 })
  | 0x10 => addr (fun g => { g with cqBase := setHalf g.cqBase false v 12 })
  | 0x14 => addr (fun g => { g with cqBase := setHalf g.cqBase true v 0 })
  | 0x18 => addr (fun g => { g with wb := setHalf g.wb false v 3 })
  | 0x1C => addr (fun g => { g with wb := setHalf g.wb true v 0 })
  | 0x20 => sqTail d r v.toNat []
  | 0x2C => cqHead d r v.toNat
  | _ => d

/-- A write of a SYS register; none where it takes no write. -/
def sysWrite (d : Dev) (off : Nat) (v : Word) : Option Dev :=
  if off = 0x10 then some (onSys d (fun y => { y with bar2Win := v.toNat % 8 }))
  else if off = 0x104 then some (intUpdate (onInt d (fun i => { i with topMask := v })))
  else if off = 0x108 then some (intCtrl d (bitOf v 0))
  else if 0x200 ≤ off ∧ off < 0x288 ∧ off % 8 = 4 then
    some (intUpdate (onInt d (fun i => { i with groupMask := tset i.groupMask ((off - 0x204) / 8) (v.setWidth 8) })))
  else if 0x400 ≤ off ∧ off < 0x500 ∧ off % 4 = 0 then some (clearLeaf d ((off - 0x400) / 4) v)
  else if 0x600 ≤ off ∧ off < 0x700 ∧ off % 4 = 0 then some (intUpdate (onInt d (fun i => { i with leafMask := tset i.leafMask ((off - 0x600) / 4) v })))
  else if 0x1000 ≤ off ∧ off < 0x1100 then some (ringWrite d ((off - 0x1000) / 0x40) ((off - 0x1000) % 0x40) v)
  else none

end Sys2Proof.Machine
end

