-- ==== Sys2Proof/Machine/Reset.lean ====
section
/-! DEFINITION. Boot and reset (R38, R471, R473, R585, R587 to R589, R598). -/

namespace Sys2Proof.Machine

/-- A slice after a device reset: STOP_HELD and a latched kill survive, and a killed slice starts in KILLED (R235, R255). -/
def sliceAtReset (s : Slice) : Slice :=
  { Slice.reset with
    stopHeld := s.stopHeld, wdKilled := s.wdKilled, wdCause := s.wdCause, wdTick := s.wdTick, st := if s.wdKilled then .killed else .disabled }

/-- What AON retention keeps of the sleep counter and the records of R67. -/
def sleepAtReset (x : SleepState) : SleepState :=
  { SleepState.reset with
    cnt := x.cnt, sEntry := x.sEntry, keptC := x.keptC, keptAcc := x.keptAcc, keptAnchor := x.keptAnchor, keptOffset := x.keptOffset,
    keptRate := x.keptRate, keptErr := x.keptErr, keptTick := x.keptTick, keptCalValid := x.keptCalValid }

/-- The device after a device reset (R587): everything but AON retention, the Fold's own store and OTP is at its reset value, and every output is
high impedance (R589). -/
def deviceReset (d : Dev) : Dev :=
  let bell := { BellState.reset with sleep := sleepAtReset d.bell.sleep }
  let acc := { AccState.reset with slices := tmap d.acc.slices (fun _ s => sliceAtReset s) }
  let integ := { IntegState.reset with rowMap := tmap d.integ.rowMap (fun _ r => { StackRows.reset with remap := r.remap, free := r.free }) }
  let pins := { PinState.reset with thermTrip := d.pins.thermTrip, resetLevel := 2 }
  { Dev.reset with freeCtr := d.freeCtr, out := d.out, memOut := d.memOut, fold := foldAtReset d.fold false, bell := bell, acc := acc, integ := integ, pins := pins }

/-- The device after power-on reset (R587): OTP, fuses and the boot store are not state that it clears. -/
def powerOnReset (d : Dev) : Dev :=
  { Dev.reset with freeCtr := d.freeCtr, fold := foldAtReset d.fold true, pins := { PinState.reset with resetLevel := 1 } }

/-- POWER_ON_RESET: VDD_AON has risen from below 600 mV; Pasture holds nothing that was written (R587; log 7). -/
def execPowerOnReset (s : State) : Host.Outcome State Fault Refusal := .next { s with mem := [], dev := powerOnReset s.dev }

/-- POR_N_ASSERT (R587). -/
def execPorNAssert (s : State) : Host.Outcome State Fault Refusal := nextDev s deviceReset

/-- SUPPLY_DIP: a monitored supply stays below 90 % for 1 µs and above 600 mV (R585). -/
def execSupplyDip (s : State) : Host.Outcome State Fault Refusal := nextDev s deviceReset

/-- THERMTRIP: the junction is at 125 °C (R598). A Winter entry is lost (R599). -/
def execThermtrip (s : State) : Host.Outcome State Fault Refusal :=
  nextDev s (fun d => deviceReset (onPins d (fun p => { p with thermTrip := true })))

/-- THERMTRIP_CLEAR: the junction has cooled to 110 °C (R598). -/
def execThermtripClear (s : State) : Host.Outcome State Fault Refusal :=
  nextDev s (fun d => onPins d (fun p => { p with thermTrip := false }))

/-- What PCI Express configuration concerns of the SYS block, at its reset value: the rings, BAR2_WIN and MSI-X (R587; log 46). -/
def pcieReset (d : Dev) : Dev :=
  intUpdate (onInt (onSys d (fun y => { y with rings := [], bar2Win := 0 }))
    (fun i => { i with msixEn := false, msixCfgEn := false, msixMasked := false, msixPending := false }))

/-- PERST_N: the PCI Express function is reset, and nothing else (R587, R599). -/
def execPerstN (s : State) : Host.Outcome State Fault Refusal := nextDev s pcieReset

/-- PCIE_LINK_L0: PCIE_WAKE_N is released (R571). -/
def execPcieLinkL0 (s : State) : Host.Outcome State Fault Refusal :=
  nextDev s (fun d => onPins d (fun p => { p with pcieWake := false }))

/-! ### Boot (R471, R473) -/

/-- The slots of a KIND in the order tried: the higher VERSION first, A where they are equal (R473). -/
def bootOrder (d : Dev) (kind : Nat) : List (Nat × ImageDesc) :=
  let get (k : Nat) : List (Nat × ImageDesc) := ((tget d.fold.boot.store (2 * kind + k)).map (fun i => (k, i))).toList
  match get 0, get 1 with
  | [a], [b] => if b.2.version > a.2.version then [b, a] else [a, b]
  | x, y => x ++ y

/-- The firmware of a KIND: the slot taken, its image, and whether it is the second tried (R473, R476). -/
def bootPick (d : Dev) (kind : Nat) : Option (Nat × ImageDesc × Bool) :=
  let l := bootOrder d kind
  match l.find? (fun x => (firmwareOk d kind x.2 (d.fold.guard.window == .jumper)).isNone) with
  | none => none
  | some x => some (x.1, x.2, (l.head?.map (·.1)) != some x.1)

/-- Steps 1 and 2: the strap sampled, the generation in force chosen (R471, R494, R498); the jumper window opens with the firmware. -/
def bootRules (strapped : Bool) (d : Dev) : Dev :=
  let r := otpRuling d.fold.otp
  let d := onBoot d (fun b => { b with otpInForce := r.map (·.2), otpGen := (r.map (·.1)).getD 0 })
  let d := onGuard d (fun g => { g with jumperStrapped := strapped, rngOk := true })
  if strapped ∧ (otpRules d).jumper then raiseLeaf (onGuard d (fun g => { g with window := .jumper, endTick := 0 })) 22 3 else d

/-- Step 5: the control-core firmware, or RECOVERY (R471, R473). -/
def bootCtrl (d : Dev) : Dev × Bool :=
  match bootPick d 3 with
  | none => (onBoot d (fun b => { b with stage := .recovery, badKind := 3 }), false)
  | some (k, i, fell) =>
    (raiseIf fell (onBoot d (fun b => { b with stage := .ctrl, ctrlSlot := k, runCtrl := some i })) 22 0, true)

/-- Step 6: the engine image of every group, verified and loaded by the Drove (R471). -/
def bootEngines (image : ImageDesc) (d : Dev) : Dev :=
  let d := if (verifyImage d image false).isNone then
      let d := (List.range 16).foldl (fun d g => onFGroup d g (fun x => { x with image := some image })) d
      (List.range 256).foldl (fun d e => onEng d e (fun x => if x.st = .out then x else loadEngine image x)) d
    else d
  onBoot d (fun b => { b with stage := .ready })

/-- BOOT: from the release of reset to READY, RECOVERY, or a halt in ROM (R471). `strapped` is the DEV_UNLOCK strap, `selfTestOk` the Fold's self-test,
`rows` the Pasture rows (by stack) that fail theirs, `engines` the physical engines that fail theirs before any firmware starts (R195), and `image` the Omselys engine image. -/
def boot (strapped selfTestOk : Bool) (rows : List (Nat × Nat)) (engines : List Nat) (image : ImageDesc) (d : Dev) : Dev :=
  if d.fold.boot.stage ≠ .rom ∨ d.fold.boot.selftest ∨ d.pins.thermTrip then d
  else
    let lit := d.pins.resetLevel = 1
    let d := onPins d (fun p => { p with driven := true, sysclkEn := true, resetLevel := 0 })
    let d := if lit then onInteg d (fun x => { x with rowMap := [0, 1].map (fun k =>
        let bad := ((rows.filter (fun r => r.1 == k)).map (·.2)).eraseDups.take 256
        (k, { StackRows.reset with remap := (List.range bad.length).map (fun i => (bad.getD i 0, i)), free := 256 - bad.length })) }) else d
    let d := flockSelfTest engines d
    if ¬ selfTestOk then onBoot d (fun b => { b with selftest := true })
    else
      let d := bootRules strapped d
      match bootPick d 2 with
      | none => onBoot d (fun b => { b with stage := .recovery, badKind := 2 })
      | some (k, i, fell) =>
        let d := raiseIf fell (onBoot d (fun b => { b with stage := .foldFw, foldSlot := k, runFold := some i })) 22 0
        let d := onFold d (fun f => { f with pairsHeld := true, pairsEpoch := (otpRules d).rootEpoch })
        match bootCtrl d with
        | (d, false) => d
        | (d, true) => bootEngines image d

/-- BOOT (R471). -/
def execBoot (strapped selfTestOk : Bool) (rows : List (Nat × Nat)) (engines : List Nat) (image : ImageDesc) (s : State) :
    Host.Outcome State Fault Refusal :=
  nextDev s (boot strapped selfTestOk rows engines image)

end Sys2Proof.Machine
end

