-- ==== Sys2Proof/Machine/Pwr.lean ====
section
/-! DEFINITION. Seasons, power domains and service life (chapter 19). -/

namespace Sys2Proof.Machine

/-! ### Domains (R555 to R557) -/

/-- Whether the host may switch a domain (R555). -/
def hostDomain (k : Nat) : Bool :=
  decide (4 ≤ k ∧ k ≤ 13) || decide (17 ≤ k ∧ k ≤ 37) || k == 39

/-- Slice `n` out of DISABLED. -/
def sliceUp (d : Dev) (n : Nat) : Bool := decide ((sliceOf d n).st ≠ .disabled)

/-- A route names a headset or TDM endpoint (R137). -/
def namesLocal (r : RouteRec) : Bool := decide (r.endType ≤ 1)

/-- Whether a decode cluster, the encoder or the splicer has admitted load (R555). -/
def codecBusy (d : Dev) (k : Nat) : Bool := codecLoad d k != 0

/-- Whether a switch-off by command is refused with BUSY (R555). -/
def domBusy (d : Dev) (k : Nat) : Bool :=
  if 4 ≤ k ∧ k ≤ 7 then sliceUp d (k - 4)
  else if k = 8 then d.imc.trunks != []
  else if k = 9 then (List.range 4).any (sliceUp d)
  else if k = 10 then (List.range 4).any (fun p => (portOf d p).f.enable)
  else if k = 11 then getField d.casc.portEn 0 1 == 1
  else if k = 12 then getField d.casc.portEn 1 1 == 1
  else if k = 13 then (List.range 5).any (fun p => (portOf d p).f.enable)
  else if 17 ≤ k ∧ k ≤ 32 then (List.range 16).any (fun j => engHolds d (16 * (k - 17) + j) || (engOf d (16 * (k - 17) + j)).prog.isSome)
  else if 33 ≤ k ∧ k ≤ 36 then codecBusy d k
  else if k = 37 then d.aud.routes.any (fun r => namesLocal r.2.rcd) || d.aud.tdm.any (fun t => t.2.cfg.enable)
  else if k = 39 then d.casc.portEn != 0
  else false

/-- The state of a domain written. -/
def setDom (d : Dev) (k : Nat) (s : DomSt) : Dev := onPwr d (fun p => { p with doms := tset p.doms k s })

/-- A switch-off at its bell (R556): what drains is drained with it. -/
def domainOff (d : Dev) (k : Nat) : Dev := if domState d k = .on then setDom d k .shuttingDown else d

/-- Whether a waiter's domain is in the state that it waits for. -/
def waitMet (d : Dev) (w : DomWait) : Bool := domState d w.dom == (if w.wantOn then DomSt.on else .off)

/-- The waiters served: DONE after the next bell, or at once where the command was DEFERRED (R557). -/
def serveWaits (d : Dev) : Dev :=
  let ready := d.pwr.waits.filter (waitMet d)
  let d := onPwr d (fun p => { p with waits := p.waits.filter (fun w => !waitMet d w) })
  ready.foldl (fun d w =>
    if w.deferred then followUp d w.ctx .done []
    else onSys d (fun y => { y with atBell := y.atBell ++ [(w.ctx, [])] })) d

/-- A domain ON, and DOMAIN_UP raised where it was not (R556). -/
def domUp (d : Dev) (k : Nat) : Dev :=
  if domState d k = .on then d else raiseLeaf (onPwr (setDom d k .on) (fun p => { p with domLast := k, domLastUp := true })) 25 3

/-- A domain OFF, and DOMAIN_DOWN raised where it was not (R556). -/
def domDown (d : Dev) (k : Nat) : Dev :=
  if domState d k = .off then d else raiseLeaf (onPwr (setDom d k .off) (fun p => { p with domLast := k, domLastUp := false })) 25 4

/-- A domain reaches ON (R556): a group's engines are loaded again from Pasture, for their memory was not kept (R555). -/
def domainUpDone (k : Nat) (d : Dev) : Dev :=
  if domState d k ≠ .poweringUp then d
  else
    let d := onAux (domUp d k) (fun a => { a with codecGated := a.codecGated.filter (· != k) })
    serveWaits (if 17 ≤ k ∧ k ≤ 32 then reloadGroup d (k - 17) else d)

/-- DOMAIN_UP_DONE (R556). -/
def execDomainUpDone (domain : Nat) (s : State) : Host.Outcome State Fault Refusal := nextDev s (domainUpDone domain)

/-- A domain reaches OFF, and powers up where a switch-on is pending (R556, R557). -/
def domainDownDone (k : Nat) (d : Dev) : Dev :=
  if domState d k ≠ .shuttingDown then d
  else
    let d := serveWaits (domDown d k)
    if d.pwr.domPend.contains k then setDom (onPwr d (fun p => { p with domPend := p.domPend.filter (· != k) })) k .poweringUp else d

/-- DOMAIN_DOWN_DONE (R556). -/
def execDomainDownDone (domain : Nat) (s : State) : Host.Outcome State Fault Refusal := nextDev s (domainDownDone domain)

/-- The domain that a domain depends on (R557). -/
def dependsOn (k : Nat) : Option Nat := if 4 ≤ k ∧ k ≤ 7 then some 9 else none

/-- Whether a season change is under way: an entry, an abort or a swap (R578). -/
def pwrBusy (d : Dev) : Bool := d.pwr.phase == .entering || d.pwr.phase == .aborting || d.aux.swapState == 1

/-- A wait recorded. -/
def addWait (d : Dev) (w : DomWait) : Dev := onPwr d (fun p => { p with waits := p.waits ++ [w] })

/-- PWR_DOMAIN_SET (R557). -/
def actPwrDomainSet (domain on : Nat) (v d : Dev) : ActResult :=
  if domain > 39 ∨ on > 1 ∨ ¬ hostDomain domain then .refuse .badParam 0 (if domain > 39 ∨ ¬ hostDomain domain then 0 else 1)
  else if pwrBusy v then .refuse .busy 0 noField
  else if on = 0 then
    match domState v domain with
    | .off => .stage false 0 [] none d
    | .poweringUp => .refuse .busy 0 noField
    | .shuttingDown => .stage false 0 [] none d
    | .on =>
      if domBusy v domain ∨ (domain = 9 ∧ [4, 5, 6, 7].any (domOn v)) then .refuse .busy 0 noField else .stage false 0 [] none d
  else
    match domState d domain with
    | .shuttingDown => .deferred (fun x => addWait (domainOn d domain) { dom := domain, wantOn := true, deferred := true, ctx := x })
    | _ => .stage false 0 [] none d

/-- PWR_DOMAIN_SET at its bell: whether DONE follows this bell; else it follows the domain's change (R557). -/
def applyPwrDomainSet (domain on : Nat) (ctx : ReplyCtx) (d : Dev) : Dev × Bool :=
  if on = 0 then
    let d := domainOff d domain
    if domState d domain = .off then (d, true) else (addWait d { dom := domain, wantOn := false, deferred := false, ctx := ctx }, false)
  else
    let d := match dependsOn domain with
      | some k => domainOn d k
      | none => d
    let d := domainOn d domain
    if domState d domain = .on then (d, true) else (addWait d { dom := domain, wantOn := true, deferred := false, ctx := ctx }, false)

/-! ### AVSBus (R573) -/

/-- The voltage of a rail in Summer, in millivolts (R573). -/
def railFull (r : Nat) : Nat := if r = 2 then 800 else Config.avsFuse r

/-- The first step of the next rail's change: the Voltage command (R573). -/
def avsRequest (d : Dev) : Dev :=
  match d.aux.avsTarget with
  | [] => d
  | (r, mv) :: _ => emit (onAux d (fun a => { a with avsMv := tset a.avsMv r mv })) .avs r [(mv : Int)]

/-- Rails to be changed, in order. -/
def avsStart (l : List (Nat × Nat)) (d : Dev) : Dev := avsRequest (onAux d (fun a => { a with avsTarget := l, avsTries := 0 }))

/-- The rails raised again (R571, R573). -/
def railsUp (d : Dev) : Dev := avsStart [(2, railFull 2), (0, railFull 0), (1, railFull 1)] d

/-! ### Winter (R564 to R572) -/

/-- The domains that a Winter entry switches off, in its order (R566). -/
def winterOrder : List Nat := (List.range 16).map (· + 17) ++ [33, 34, 35, 36, 37, 8, 13, 10, 11, 12, 39, 14, 15, 16]

/-- The retention banks that the configuration needs now (R564; log 47). -/
def banksNeeded (d : Dev) : Nat :=
  4 + Config.banksFor (d.media.confs.length + d.parse.rules.length + d.tm.queues.length + d.fold.sas.length) % 29

/-- Whether a wake source can act (R564). -/
def canWake (d : Dev) : Bool :=
  (List.range 4).any (fun p => d.pwr.wakeCtrl.getLsbD (4 * p)) || d.pwr.alarmEn || ((sliceOf d 0).st == .o5 && d.pwr.wakeCtrl.getLsbD 16)

/-- The conditions of R564 that give BUSY. -/
def winterBusy (d : Dev) : Bool :=
  d.media.legs.any (fun l => l.2.st != .free) || d.aud.routes != [] || d.imc.trunks != [] || d.vid.layouts != []
    || d.flock.engs.any (fun e => e.2.prog.isSome) || d.casc.portEn != 0 || d.flock.groups.any (fun g => g.2.update.isSome)
    || d.aux.swapState == 1 || (d.acc.cfg.native && (List.range 4).any (sliceUp d)) || [1, 2, 3].any (sliceUp d)
    || d.pwr.phase != .steady || d.pwr.seasonCtx.isSome

/-- The bits set in a mask of 32. -/
def bitCount (v : Nat) : Nat := sumN ((List.range 32).map (fun i => getField v i 1))

/-- PWR_WINTER (R564), its conditions in the table's order. -/
def actPwrWinter (banks keep thaw linkWait : Nat) (v d : Dev) : ActResult :=
  if winterBusy v then .refuse .busy 0 noField
  else if getField banks 0 4 ≠ 15 ∨ banks ≥ 2 ^ 32 ∨ keep > 3 ∨ thaw > 1 ∨ linkWait < 100 ∨ linkWait > 10000 ∨ ¬ canWake v then .refuse .badParam 0 (firstBad [(getField banks 0 4 == 15 && decide (banks < 2 ^ 32), 0), (decide (keep ≤ 3), 4), (decide (thaw ≤ 1), 5), (decide (100 ≤ linkWait ∧ linkWait ≤ 10000), 6)])
  else if bitCount banks < banksNeeded v then .refuse .noResource 0 noField
  else .stage true 0 [] none d

/-- Step 1 of a Winter entry (R566): admission closes and the domains start to switch off. The follow-up is sent when the device is
ready. -/
def applyPwrWinter (banks keep thaw linkWait : Nat) (ctx : ReplyCtx) (d : Dev) : Dev × Bool :=
  let on := (List.range 40).filter (domOn d)
  let d := onPwr d (fun p => { p with
    phase := .entering, thawSeason := thaw, retBanks := BitVec.ofNat 32 banks, stackKeep := keep, linkWait := linkWait,
    winter := some { step := 2, fromSeason := p.season, ctx := some ctx, onBefore := on, pcieOff := false, held := none } })
  (winterOrder.foldl domainOff d, false)

/-- The packets that wait are lost, as TM's buffer goes dark (R565, R566). -/
def flushQueues (d : Dev) : Dev := onTm d (fun t => { t with queues := tmap t.queues (fun _ q => { q with pkts := [] }) })

/-- WINTER_READY: the domains are off; ACC0, if in O5, queues Sleep_Request, and the follow-up says that the device is ready (R566). -/
def winterReady (d : Dev) : Dev :=
  match d.pwr.winter with
  | none => d
  | some w =>
    if w.step ≠ 2 ∨ d.pwr.phase ≠ .entering then d
    else
      let d := flushQueues (winterOrder.foldl domDown d)
      let d := if (sliceOf d 0).st = .o5 then onSlice d 0 (fun s => { s with upq := s.upq ++ [.sleepRequest] }) else d
      let d := match w.ctx with
        | some x => followUp d x .done []
        | none => d
      onPwr d (fun p => { p with winter := some { w with step := 3, ctx := none } })

/-- WINTER_READY (R566). -/
def execWinterReady (s : State) : Host.Outcome State Fault Refusal := nextDev s winterReady

/-- PME_TURN_OFF: acknowledged; PCIE switches off and the rails are lowered (R566). -/
def pmeTurnOff (d : Dev) : Dev :=
  match d.pwr.winter with
  | none => d
  | some w =>
    if w.step ≠ 3 ∨ d.pwr.phase ≠ .entering then d
    else
      let d := emit (domDown (onPwr d (fun p => { p with winter := some { w with step := 4, pcieOff := true } })) 38) .pme 0 []
      avsStart [(1, 600), (0, 650), (2, 600)] d

/-- PME_TURN_OFF (R566). -/
def execPmeTurnOff (s : State) : Host.Outcome State Fault Refusal := nextDev s pmeTurnOff

/-- An entry abandoned (R570): the cause is recorded, a follow-up not yet sent carries BUSY, and the device returns by the steps of a thaw. -/
def abortEntry (cause : Nat) (who : LastWake) (d : Dev) : Dev :=
  match d.pwr.winter with
  | none => d
  | some w =>
    let d := match w.ctx with
      | some x => followUp d x .busy (refusalData cause noField)
      | none => d
    let d := onPwr d (fun p => { p with phase := .aborting, last := { who with abort := cause }, winter := some { w with ctx := none, step := 7 } })
    let d := raiseLeaf (onAux d (fun a => { a with aborts := satInc a.aborts })) 25 1
    if w.step ≥ 4 then railsUp d else onAux d (fun a => { a with avsTarget := [] })

/-- No wake source. -/
def noWake : LastWake := { pins := 0, headEnd := false, alarm := false, core := false, abort := 0 }

/-- LINK_WAIT_EXPIRY (R570). -/
def execLinkWaitExpiry (s : State) : Host.Outcome State Fault Refusal :=
  nextDev s (fun d => match d.pwr.winter with
    | some w => if w.step = 3 ∧ d.pwr.phase = .entering then abortEntry 2 noWake d else d
    | none => d)

/-- A thaw begun: the wake source is latched and the rails are raised (R569, R571). -/
def beginThaw (who : LastWake) (d : Dev) : Dev :=
  railsUp (onPwr d (fun p => { p with phase := .thawing, last := who, winter := p.winter.map (fun w => { w with step := 6, held := none }) }))

/-- A wake source that acts (R569, R570): it abandons an entry, is held or lost in the race window, and ends Winter. -/
def wakeActs (who : LastWake) (edge : Bool) (d : Dev) : Dev :=
  if d.pwr.season = .winter then (if d.pwr.phase = .steady then beginThaw who d else d)
  else if d.pwr.phase ≠ .entering then d
  else
    match d.pwr.winter with
    | none => d
    | some w =>
      if w.step < 5 then abortEntry 1 who d
      else if edge then d
      else onPwr d (fun p => { p with winter := some { w with held := some who } })

/-- WAKE_PIN: the latest three samples of a pin, the oldest first, as they stand on the ball (R569). -/
def wakePin (pin : Nat) (a b c : Bool) (d : Dev) : Dev :=
  let pol := d.pwr.wakeCtrl.getLsbD (4 * pin + 1)
  let level := d.pwr.wakeCtrl.getLsbD (4 * pin + 2)
  let act (x : Bool) : Bool := x == pol
  let d := onPwr d (fun p => { p with wakePins := (p.wakePins - p.wakePins / 2 ^ pin % 2 * 2 ^ pin) + b2n (act c) * 2 ^ pin })
  let event := act b && act c && (level || !act a)
  if ¬ d.pwr.wakeCtrl.getLsbD (4 * pin) ∨ ¬ event then d
  else
    let d := if d.pwr.season = .winter then d else emit (raiseLeaf d 26 pin) .wakePin pin []
    wakeActs { noWake with pins := 2 ^ pin } (!level) d

/-- WAKE_PIN (R569). -/
def execWakePin (pin : Nat) (a b c : Bool) (s : State) : Host.Outcome State Fault Refusal :=
  nextDev s (fun d => if pin < 4 then wakePin pin a b c d else d)

/-- WAKE_HEAD_END (R249, R569). -/
def execWakeHeadEnd (s : State) : Host.Outcome State Fault Refusal :=
  nextDev s (fun d => if d.pwr.wakeCtrl.getLsbD 16 then wakeActs { noWake with headEnd := true } false d else d)

/-- WAKE_ALARM: the sleep counter reaches or passes ALARM (R569). -/
def execWakeAlarm (count : BitVec 48) (s : State) : Host.Outcome State Fault Refusal :=
  nextDev s (fun d =>
    let d := onBell d (fun b => { b with sleep := { b.sleep with cnt := count } })
    if d.pwr.alarmEn ∧ (count - d.pwr.alarm).toNat < 2 ^ 47 then wakeActs { noWake with alarm := true } false d else d)

/-- CORE_HEARTBEAT_LOSS: control core 0 silent for 4 ms in Winter (R567). -/
def execCoreHeartbeatLoss (s : State) : Host.Outcome State Fault Refusal :=
  nextDev s (fun d => if d.pwr.season = .winter ∧ d.pwr.phase = .steady then beginThaw { noWake with core := true } d else d)

/-- A client port after Winter: its configuration and its associations are kept (R565). -/
def portAfterWinter (p : CliPort) : CliPort :=
  { CliPort.reset with
    f := p.f, path := p.path, macEn := p.macEn, validate := p.validate, replay := p.replay, txAn := p.txAn, macSas := p.macSas, addrs := p.addrs }

/-- A lane after Winter: the host's own fields are kept (R565). -/
def laneAfterWinter (l : Lane) : Lane := { Lane.reset with ctrl := l.ctrl, txPol := l.txPol, rxPol := l.rxPol, eyeTh := l.eyeTh }

/-- A headset interface after Winter: the host's own fields are kept (R565). -/
def headsetAfterWinter (h : Headset) : Headset :=
  { Headset.reset with
    detPol := h.detPol, sidetone := h.sidetone, forceType := h.forceType, debounce := h.debounce, impTh := h.impTh, btnTh0 := h.btnTh0,
    btnTh1 := h.btnTh1, bank := h.bank }

/-- What the packet side loses in Winter: waiting packets, reassembly, counts and marks; configuration stays (R565; log 119). -/
def packetLoss (d : Dev) : Dev :=
  let d := onTm (flushQueues d) (fun t => { t with
    queues := tmap t.queues (fun _ q => { q with hwmDepth := 0, hwmSoj := 0, deficit := 0, txPkts := 0, drop := 0 })
    policers := tmap t.policers (fun _ p => { p with drop := 0 })
    meters := tmap t.meters (fun _ m => { m with green := 0, yellow := 0, red := 0, drop := 0 })
    bufFullDrop := 0, deepStallDrop := 0, dropMap := [], sojMap := [] })
  let d := onParse d (fun p => { p with
    pipes := tmap p.pipes (fun _ r => { PipeRegs.reset with vxlanPort := r.vxlanPort, legClass := r.legClass })
    ports := tmap p.ports (fun _ r => { ParsePort.reset with action := r.action })
    rules := tmap p.rules (fun _ r => { r with hits := 0 })
    frags := [] })
  onCli d (fun c => { c with ports := tmap c.ports (fun _ p => portAfterWinter p) })

/-- What media, audio, video, cascade and lanes lose in Winter (R565; log 119). -/
def mediaLoss (d : Dev) : Dev :=
  let d := onMedia d (fun m => { m with confs := tmap m.confs (fun _ c => { c with
    talkers := [], fading := [], ins := [], dyns := [], langs := [], outs := [], clip := 0, lastTalk := [], heldIns := [], heldOuts := [] }) })
  let d := onAud d (fun a => { a with
    hs := tmap a.hs (fun _ h => headsetAfterWinter h), tdm := tmap a.tdm (fun _ t => { TdmPort.reset with cfg := t.cfg }), rateRefused := 0, clipLast := 0,
    pcm := [], capt := [], streamAlarm := [] })
  let d := onVid d (fun v => { VidState.reset with rateS := v.rateS, rateM := v.rateM, rateL := v.rateL })
  let d := onCasc d (fun c => { CascState.reset with
    device := c.device, portEn := c.portEn, domain := c.domain, base := c.base, gen := c.gen, saPairs := c.saPairs, twin := c.twin })
  onLanes d (fun x => { x with lanes := tmap x.lanes (fun n l => if n = 0 ∨ n = 4 then l else laneAfterWinter l), spareSkip := 0 })

/-- What Winter does not retain (R565; log 119): what waits, runs or has been counted in the units that are off, the sessions, the Drove and the
check-value units. -/
def winterLoss (d : Dev) : Dev :=
  let d := mediaLoss (packetLoss d)
  let d := onInteg d (fun i => { i with
    classes := tmap i.classes (fun _ c => { IntClass.reset with rate := c.rate }), rowMap := tmap i.rowMap (fun _ r => { r with counts := [], cands := [], copying := [] }),
    cv := [], errs := [], poison := [], busy := false })
  let d := onDrove d (fun _ => DroveState.reset)
  let d := onFlock d (fun f => { f with engs := tmap f.engs (fun _ e => freshEngine e), failHeld := [] })
  let d := onBell d (fun b => { b with tsq := [], tsqDrop := [], ovr := BellState.reset.ovr, lock := { b.lock with slew := 0, freqHist := [] } })
  let d := onSys d (fun y => { y with
    sess := [], staged := [], atBell := [], outstanding := [], writeDropAddr := 0, darkAddr := 0, darkWrite := false, sessionDrop := 0, hostPktDrop := 0,
    int := { y.int with leaf := [] } })
  onPast d (fun p => { PastState.reset with classes := tmap p.classes (fun k c => { PastClass.reset k with allot := c.allot, own := c.allot }) })

/-- WINTER_COMMIT: the commit point, four AON cycles after the last rail (R566, R67). A wake that was held starts the thaw (R570). -/
def winterCommit (count : BitVec 48) (d : Dev) : Dev :=
  match d.pwr.winter with
  | none => d
  | some w =>
    if w.step ≠ 5 ∨ d.pwr.phase ≠ .entering then d
    else
      let t := d.bell.time
      let d := onBell d (fun b => { b with sleep := { b.sleep with
        cnt := count, sEntry := count, keptC := t.c, keptAcc := t.acc, keptAnchor := t.anchor, keptOffset := t.offset, keptRate := t.rate,
        keptErr := errNow d, keptTick := b.tick, keptCalValid := b.sleep.calValid } })
      let d := [3, 1, 2, 5, 6, 7].foldl domDown (winterLoss d)
      let d := if (sliceOf d 0).st = .disabled then
          onPins (domDown (domDown d 4) 9) (fun p => { p with sysclkEn := false })
        else onSlice d 0 (fun s => { s with asleep := s.sleepAllowed })
      let d := onAux d (fun a => { a with winters := satInc a.winters })
      let d := raiseLeaf (onPwr d (fun p => { p with season := .winter, phase := .steady })) 25 0
      match w.held with
      | some who => beginThaw who d
      | none => d

/-- WINTER_COMMIT (R566). -/
def execWinterCommit (count : BitVec 48) (s : State) : Host.Outcome State Fault Refusal := nextDev s (winterCommit count)

/-- AVS_STATUS_POLL: one poll of a rail's change: the acknowledge code, VDone, and whether 2 ms have passed (R573). A third failure abandons an
entry or resets the device. -/
def avsPoll (ack : Nat) (vdone expired : Bool) (d : Dev) : Dev :=
  match d.aux.avsTarget with
  | [] => d
  | (r, _) :: rest =>
    if ack = 0 ∧ vdone then
      let d := avsRequest (onAux d (fun a => { a with avsTarget := rest, avsTries := 0 }))
      if rest = [] ∧ d.pwr.phase = .entering then onPwr d (fun p => { p with winter := p.winter.map (fun w => { w with step := 5 }) }) else d
    else if ack = 0 ∧ ¬ expired then d
    else if d.aux.avsTries < 2 then avsRequest (onAux d (fun a => { a with avsTries := a.avsTries + 1 }))
    else
      let d := raiseLeaf (onAux d (fun a => { a with avsRail := r, avsAck := ack % 4, avsFaults := satInc a.avsFaults, avsTarget := [], avsTries := 0 })) 25 5
      match d.pwr.phase with
      | .entering => abortEntry 3 noWake d
      | .thawing => onPwr (deviceReset d) (fun p => { p with last := { noWake with abort := 3 } })
      | _ => d

/-- AVS_STATUS_POLL (R573). -/
def execAvsStatusPoll (ack : Nat) (vdone expired : Bool) (s : State) : Host.Outcome State Fault Refusal := nextDev s (avsPoll ack vdone expired)

/-- The time recovered as BELL switches on (R67, R68): `count` is S_thaw. The lock machine stands in HOLDOVER whatever its state at entry, with SRC 0
too, from which then only a change of SRC leads out (DESIGN CHOICE, log 153). -/
def thawTime (count : BitVec 48) (d : Dev) : Dev :=
  let x := d.bell.sleep
  let ds := (count - x.sEntry).toNat
  let elapsed := ds * x.cal
  let ppb := if x.keptCalValid then x.drift else 50000
  let err := x.keptErr + ceilDiv (2 * x.cal) 65536 + ppb * elapsed / 65536 / 1000000000
  onBell d (fun b => { b with
    tick := x.keptTick + BitVec.ofNat 64 (elapsed / (125000 * 65536))
    time := { b.time with c := x.keptC, acc := x.keptAcc + BitVec.ofNat 128 elapsed, anchor := x.keptAnchor, offset := x.keptOffset, rate := x.keptRate }
    sleep := { b.sleep with cnt := count }
    lock := { b.lock with st := .holdover, thawed := true, inRun := 0, validRun := 0 }
    err := { b.err with holdErr := err, holdTicks := 0, timeErr := BitVec.ofNat 32 (min err 0xFFFFFFFF), rclkOut := rclkNow (onLock d (fun l => { l with st := .holdover })) } })

/-- The control-core firmware after Winter: from its copy in a kept stack, else from the boot store, or RECOVERY (R473, R571 step 5). -/
def thawCtrl (d : Dev) : Dev :=
  if d.pwr.stackKeep ≠ 0 then d
  else
    match bootCtrl d with
    | (d, true) => onBoot d (fun b => { b with stage := .ready })
    | (d, false) => d

/-- THAW: steps 3 to 6 once the rails are up (R571): the clock, FOLD, CTRL and BELL, the time, and the domains that were ON. The digests are published
again (R460). -/
def thaw (count : BitVec 48) (d : Dev) : Dev :=
  match d.pwr.winter with
  | none => d
  | some w =>
    if d.pwr.season ≠ .winter ∨ d.pwr.phase ≠ .thawing ∨ w.step ≠ 6 ∨ d.aux.avsTarget ≠ [] then d
    else
      let d := onPins d (fun p => { p with sysclkEn := true })
      let d := thawCtrl (thawTime count ([1, 2, 3].foldl domUp d))
      let d := (w.onBefore.filter (· != 38)).foldl domUp d
      let d := ((List.range 16).filter (fun g => domOn d (17 + g))).foldl reloadGroup d
      let d := onSlice d 0 (fun s => { s with asleep := false })
      let d := [1, 2, 3].foldl (fun d n => onSlice d n sliceAtReset) d
      onInteg (onPwr d (fun p => { p with winter := some { w with step := 8 } })) (fun i => { i with busy := true, nextEpoch := epochInForce d.sys })

/-- THAW (R571). -/
def execThaw (count : BitVec 48) (s : State) : Host.Outcome State Fault Refusal := nextDev s (thaw count)

/-- LPI_EN set on every port that accepts it, the host's own values kept (R561). -/
def autumnLpi (d : Dev) : Dev :=
  (List.range 5).foldl (fun d p =>
    let f := (portOf d p).f
    onPort (onAux d (fun a => { a with keptLpi := tset a.keptLpi p f.lpiEn })) p (fun x => { x with f := { x.f with lpiEn := lpiAccepts d p f } })) d

/-- Autumn begun at a bell (R561). -/
def enterAutumn (d : Dev) : Dev :=
  raiseLeaf (onAux (onPwr (autumnLpi d) (fun p => { p with season := .autumn })) (fun a => { a with autumnStart := d.bell.tick })) 25 0

/-- The PCI Express function back from D3cold (R572): rings disabled, every interrupt mask at reset, MSI-X off. -/
def pcieReturn (d : Dev) : Dev :=
  let d := domUp (onSys d (fun y => { y with rings := [], bar2Win := 0 })) 38
  let d := intUpdate (onInt d (fun i => { IntState.reset with leaf := i.leaf }))
  onPins d (fun p => { p with pcieWake := true })

/-- THAW_DONE: the last step of a thaw, or of the way back from an abandoned entry (R570, R571): PCIE returns, the season takes effect and lanes
recalibrate. -/
def thawDone (d : Dev) : Dev :=
  match d.pwr.winter with
  | none => d
  | some w =>
    if d.pwr.phase = .thawing ∧ w.step = 8 then
      let d := pcieReturn (onPwr d (fun p => { p with winter := none, phase := .steady, season := .summer }))
      let d := onAux d (fun a => { a with thaws := satInc a.thaws })
      let d := (List.range 32).foldl (fun d n => if laneOn d n then recalLane d n else d) d
      let d := raiseLeaf (raiseLeaf d 25 0) 25 2
      if d.pwr.thawSeason = 1 then enterAutumn d else d
    else if d.pwr.phase = .aborting ∧ d.aux.avsTarget = [] then
      let lost := (List.range 16).filter (fun g => !domOn d (17 + g))
      let d := (w.onBefore.filter (· != 38)).foldl domUp d
      let d := (lost.filter (fun g => domOn d (17 + g))).foldl reloadGroup d
      let d := onPwr d (fun p => { p with winter := none, phase := .steady })
      serveWaits (if w.pcieOff then pcieReturn d else d)
    else d

/-- THAW_DONE (R571). -/
def execThawDone (s : State) : Host.Outcome State Fault Refusal := nextDev s thawDone

/-! ### Summer and Autumn (R560 to R563) -/

/-- PWR_SEASON (R560, R578). -/
def actPwrSeason (season : Nat) (v d : Dev) : ActResult :=
  if season > 1 then .refuse .badParam 0 0
  else if pwrBusy v ∨ v.pwr.seasonCtx.isSome then .refuse .busy 0 noField
  else .stage false 0 [] none d

/-- What Autumn has gated, switched on (R561). -/
def ungateAll (d : Dev) : Dev :=
  let d := d.aux.gated.foldl wakeGroup (onAux d (fun a => { a with gating := none }))
  d.aux.codecGated.foldl domainOn d

/-- PWR_SEASON at its bell (R561): whether DONE follows this bell. -/
def applyPwrSeason (season : Nat) (ctx : ReplyCtx) (d : Dev) : Dev × Bool :=
  if season = 1 then (if d.pwr.season = .autumn then d else enterAutumn d, true)
  else if d.pwr.season = .summer then (d, true)
  else
    let d := ungateAll d
    let d := (List.range 5).foldl (fun d p => match tget d.aux.keptLpi p with
      | some b => onPort d p (fun x => { x with f := { x.f with lpiEn := b } })
      | none => d) d
    (onPwr (onAux d (fun a => { a with keptLpi := [] })) (fun p => { p with seasonCtx := some ctx }), false)

/-- SEASON_SUMMER_READY: the first bell after every domain that Autumn gated is ON (R561). -/
def summerReady (d : Dev) : Dev :=
  match d.pwr.seasonCtx with
  | none => d
  | some x =>
    if ((List.range 16).map (· + 17) ++ d.aux.codecGated).any (fun k => domState d k == DomSt.poweringUp) then d
    else
      let d := raiseLeaf (onPwr (onAux d (fun a => { a with codecGated := [] })) (fun p => { p with season := .summer, seasonCtx := none })) 25 0
      onSys d (fun y => { y with atBell := y.atBell ++ [(x, [])] })

/-- SEASON_SUMMER_READY (R561). -/
def execSeasonSummerReady (s : State) : Host.Outcome State Fault Refusal := nextDev s summerReady

/-- The moves by which a group is emptied, begun at a bell: legs, mixes and, for a firmware update, routes (R107, R108, R227, R562). -/
def drainMoves (d : Dev) (g : Nat) (routes : Bool) : Dev :=
  let to_ (d : Dev) (cyc cred : Nat) : Option Nat :=
    (placeAmong d none (fun e => e / 16 != g && hasRoom d e cyc cred)).filter (fun e => moveMayStart d e cyc)
  let d := (d.media.legs.map (·.1)).foldl (fun d n => match legOf d n with
    | none => d
    | some l =>
      if l.home / 16 ≠ g ∨ l.st ≠ .active ∨ l.move.isSome then d
      else match to_ d (legCharge l.rcd).1 (legCharge l.rcd).2 with
        | none => d
        | some e => setLegSt (onLeg d n (fun l => { l with move := some (newMove d e none) })) n .migrating) d
  let d := (d.media.confs.map (·.1)).foldl (fun d n => match confOf d n with
    | none => d
    | some c =>
      if (c.mix.map (· / 16)) ≠ some g ∨ c.move.isSome then d
      else match to_ d (confCharge c.rcd c.reserve).1 (confCharge c.rcd c.reserve).2 with
        | none => d
        | some e => onConf d n (fun c => { c with move := some (newMove d e none) })) d
  if ¬ routes then d
  else (d.aud.routes.map (·.1)).foldl (fun d n => match routeOf d n with
    | none => d
    | some r =>
      if r.engine / 16 ≠ g ∨ r.move.isSome ∨ r.clearing.isSome then d
      else match to_ d 200 2 with
        | none => d
        | some e => onRoute d n (fun r => { r with move := some (newMove d e none) })) d

/-- The groups that draw moves at a bell: those that drain for an update, and the one that Autumn gates (R227, R562). -/
def drainBell (d : Dev) : Dev :=
  let d := (List.range 16).foldl (fun d g => if (groupOf d g).st = .draining then drainMoves d g true else d) d
  match d.aux.gating with
  | some g => drainMoves d g false
  | none => d

/-- The admitted charge of a group (R562). -/
def groupCharge (d : Dev) (g : Nat) : Nat := sumN ((List.range 16).map (fun k => engineCycles d (16 * g + k)))

/-- The groups that are not gated. -/
def ungated (d : Dev) : List Nat := (List.range 16).filter (fun g => !d.aux.gated.contains g && domOn d (17 + g))

/-- Whether Autumn may gate a group (R562, R563, R577). -/
def mayGate (d : Dev) (g : Nat) : Bool :=
  let rest := (ungated d).filter (· != g)
  let cap := 180000 * sumN (rest.map (fun h => ((List.range 16).filter (fun k => (engOf d (16 * h + k)).st != .out)).length))
  decide (100 * sumN ((ungated d).map (groupCharge d)) ≤ d.pwr.low * cap)
    && (groupOf d g).st == .ready && (groupOf d g).update.isNone && !(d.imc.trunks.any (fun t => t.2.engine / 16 == g))
    && (List.range 16).all (fun k => (engOf d (16 * g + k)).prog.isNone) && d.aud.routes.all (fun r => r.2.engine / 16 != g || r.2.rcd.gateOk)
    && decide ((tgetD d.aux.noGate g 0) ≤ d.bell.tick)

/-- The group of lowest charge among some, the lower number on ties. -/
def lowestGroup (d : Dev) (l : List Nat) : Option Nat :=
  l.foldl (fun a g => match a with
    | none => some g
    | some b => if groupCharge d g < groupCharge d b then some g else a) none

/-- AUTUMN_EVALUATE: every 8,000 ticks at most one group starts to be gated, and idle codec domains are (R562). -/
def autumnEvaluate (d : Dev) : Dev :=
  if d.pwr.season ≠ .autumn ∨ d.pwr.phase ≠ .steady ∨ d.pwr.seasonCtx.isSome then d
  else
    let d := if d.pwr.gateCodecs ∧ d.vid.layouts = [] then
        [33, 34, 35, 36].foldl (fun d k =>
          if codecBusy d k ∨ ¬ domOn d k then d else onAux (domainOff d k) (fun a => { a with codecGated := a.codecGated ++ [k] })) d
      else d
    if (ungated d).length ≤ d.pwr.minGroups ∨ d.aux.gating.isSome then d
    else
      match lowestGroup d ((ungated d).filter (mayGate d)) with
      | none => d
      | some g => onAux d (fun a => { a with gating := some g })

/-- AUTUMN_EVALUATE (R562). -/
def execAutumnEvaluate (s : State) : Host.Outcome State Fault Refusal := nextDev s autumnEvaluate

/-- Whether a group holds no leg and no mix (R562). -/
def groupClear (d : Dev) (g : Nat) : Bool :=
  !(d.media.legs.any (fun x => legCharged x.2 && x.2.home / 16 == g)) && !(d.media.confs.any (fun x => (x.2.mix.map (· / 16)) == some g))

/-- AUTUMN_GATE_GROUP: the bell after the last migration the group's domain is switched off (R562). A group that a fresh admission uses, or that
may no longer be gated, stays (R577). -/
def autumnGate (d : Dev) : Dev :=
  match d.aux.gating with
  | none => d
  | some g =>
    if ¬ groupClear d g then d
    else if (groupOf d g).st ≠ .ready ∨ d.pwr.season ≠ .autumn ∨ d.aud.routes.any (fun r => r.2.engine / 16 == g && !r.2.rcd.gateOk) then onAux d (fun a => { a with gating := none })
    else
      let d := onAux (domainOff d (17 + g)) (fun a => { a with gating := none, gated := a.gated ++ [g] })
      let d := onFGroup d g (fun x => { x with st := .gated })
      let d := (List.range 16).foldl (fun d k => onEng d (16 * g + k) (fun e => if e.st = .media then { e with st := .gated } else e)) d
      raiseLeaf d 25 6

/-- AUTUMN_GATE_GROUP (R562). -/
def execAutumnGateGroup (s : State) : Host.Outcome State Fault Refusal := nextDev s autumnGate

/-- PWR_ALARM_SET (R578). -/
def actPwrAlarmSet (value enable : Nat) (_v d : Dev) : ActResult :=
  if value ≥ 2 ^ 48 ∨ enable > 1 then .refuse .badParam 0 (if value ≥ 2 ^ 48 then 0 else 6) else .stage false 0 [] none d

/-- PWR_ALARM_SET at its bell. -/
def applyPwrAlarmSet (value enable : Nat) (d : Dev) : Dev := onPwr d (fun p => { p with alarm := BitVec.ofNat 48 value, alarmEn := enable == 1 })

/-- PWR_AUTUMN_CONFIG (R578). -/
def actPwrAutumnConfig (minGroups high low flags : Nat) (_v d : Dev) : ActResult :=
  if minGroups < 1 ∨ minGroups > 16 ∨ low ≥ high ∨ high > 100 ∨ flags > 1 then .refuse .badParam 0 (firstBad [(decide (1 ≤ minGroups ∧ minGroups ≤ 16), 0), (decide (high ≤ 100), 1), (decide (low < high), 2), (false, 3)]) else .stage false 0 [] none d

/-- PWR_AUTUMN_CONFIG at its bell. -/
def applyPwrAutumnConfig (minGroups high low flags : Nat) (d : Dev) : Dev :=
  onPwr d (fun p => { p with minGroups := minGroups, high := high, low := low, gateCodecs := flags == 1 })

/-! ### Service life (R574, R575) -/

/-- CTRL_FW_SWAP (R574): `shared` says that the two firmwares share a hand-over format. -/
def actCtrlFwSwap (slot : Nat) (shared : Bool) (v d : Dev) : ActResult :=
  match (if slot > 1 ∨ slot = v.fold.boot.ctrlSlot then none else tget v.fold.boot.store (6 + slot)) with
  | none => .refuse .badParam 0 0
  | some i =>
    if (firmwareOk v 3 i false).isSome ∨ ¬ shared then .refuse .badParam 0 0
    else if v.flock.groups.any (fun g => g.2.update.isSome) ∨ v.pwr.phase ≠ .steady ∨ v.pwr.seasonCtx.isSome ∨ v.aux.swapState = 1 then .refuse .busy 0 noField
    else .stage true 0 [] none d

/-- Step 2 of a swap: from B on no change takes effect and no command is dequeued (R574). -/
def applyCtrlFwSwap (slot : Nat) (ctx : ReplyCtx) (d : Dev) : Dev × Bool :=
  match tget d.fold.boot.store (6 + slot) with
  | none => (d, true)
  | some i =>
    (onPwr (onAux d (fun a => { a with swapState := 1 })) (fun p => { p with swap := some { slot := slot, img := i, startTick := d.bell.tick, ctx := ctx } }), false)

/-- FW_SWAP_RESUME: the new firmware resumes, eight ticks after B (R574); engine failures and PLOAM messages that waited are acted on (R577). -/
def fwSwapResume (d : Dev) : Dev :=
  match d.pwr.swap with
  | none => d
  | some j =>
    if d.aux.swapState ≠ 1 then d
    else
      let d := onPwr (onAux d (fun a => { a with swapState := 0 })) (fun p => { p with swap := none })
      let d := onBoot d (fun b => { b with ctrlSlot := j.slot, runCtrl := some j.img })
      releasePloam (releaseFailures (followUp (raiseLeaf d 25 8) j.ctx .done []))

/-- FW_SWAP_RESUME (R574). -/
def execFwSwapResume (s : State) : Host.Outcome State Fault Refusal := nextDev s fwSwapResume

/-- FW_SWAP_TIMEOUT: the old image is reloaded and replays the record (R574). -/
def fwSwapTimeout (d : Dev) : Dev :=
  match d.pwr.swap with
  | none => d
  | some j =>
    if d.aux.swapState ≠ 1 then d
    else
      let d := onPwr (onAux d (fun a => { a with swapState := 2 })) (fun p => { p with swap := none })
      releasePloam (releaseFailures (raiseLeaf (followUp (raiseLeaf d 25 9) j.ctx .internal (refusalData 0 noField)) 0 11))

/-- FW_SWAP_TIMEOUT (R574). -/
def execFwSwapTimeout (s : State) : Host.Outcome State Fault Refusal := nextDev s fwSwapTimeout

/-- CONTROL_CORE_FENCE: a silent core is fenced until the next reset; what was staged for the coming bell takes effect one bell later (R575). -/
def execControlCoreFence (core : Nat) (s : State) : Host.Outcome State Fault Refusal :=
  nextDev s (fun d =>
    if core > 7 ∨ d.aux.fenced.contains core then d
    else onSys (onAux d (fun a => { a with fenced := a.fenced ++ [core] })) (fun y => { y with staged := y.staged.map (fun x => { x with armed := false }) }))

/-! ### Registers (R579) -/

/-- The code of a domain's state (R556). -/
def domCode (s : DomSt) : Nat := match s with
  | .off => 0 | .poweringUp => 1 | .on => 2 | .shuttingDown => 3

/-- SEASON. -/
def seasonReg (d : Dev) : Nat :=
  (match d.pwr.season with | .summer => 0 | .autumn => 1 | .winter => 2)
    + fieldAt (match d.pwr.phase with | .steady => 0 | .entering => 1 | .thawing => 2 | .aborting => 3) 2 + fieldAt d.pwr.thawSeason 4

/-- A PWR register. -/
def pwrReg (d : Dev) (off : Nat) : Nat :=
  let p := d.pwr
  let a := d.aux
  match off with
  | 0x00 => seasonReg d
  | 0x04 => p.last.pins + fieldAt (b2n p.last.headEnd) 4 + fieldAt (b2n p.last.alarm) 5 + fieldAt (b2n p.last.core) 6 + fieldAt p.last.abort 8
  | 0x08 => p.wakeCtrl.toNat
  | 0x0C => p.wakePins
  | 0x10 => p.alarm.toNat % 2 ^ 32
  | 0x14 => p.alarm.toNat / 2 ^ 32 + fieldAt (b2n p.alarmEn) 31
  | 0x18 => p.retBanks.toNat
  | 0x1C => p.stackKeep
  | 0x20 => p.linkWait
  | 0x30 => p.minGroups + fieldAt p.high 8 + fieldAt p.low 16 + fieldAt (b2n p.gateCodecs) 24
  | 0x50 => sumN (p.domPend.map (fun k => if k < 32 then 2 ^ k else 0))
  | 0x54 => sumN (p.domPend.map (fun k => if k < 32 then 0 else 2 ^ (k - 32)))
  | 0x58 => p.domLast + fieldAt (b2n p.domLastUp) 8
  | 0x60 => a.avsRail + fieldAt a.avsAck 4
  | 0x70 => a.winters.toNat
  | 0x74 => a.thaws.toNat
  | 0x78 => a.aborts.toNat
  | 0x7C => a.avsFaults.toNat
  | 0x80 => a.swapState + fieldAt d.fold.boot.ctrlSlot 8
  | _ =>
    if 0x40 ≤ off ∧ off < 0x4C then
      sumN ((List.range 16).map (fun i => if 16 * ((off - 0x40) / 4) + i < 40 then fieldAt (domCode (domState d (16 * ((off - 0x40) / 4) + i))) (2 * i) else 0))
    else if 0x64 ≤ off ∧ off < 0x70 then tgetD a.avsMv ((off - 0x64) / 4) (railFull ((off - 0x64) / 4))
    else 0

/-- What a read clears (R7). -/
def pwrReadClear (d : Dev) (off : Nat) : Dev :=
  match off with
  | 0x70 => onAux d (fun a => { a with winters := 0 })
  | 0x74 => onAux d (fun a => { a with thaws := 0 })
  | 0x78 => onAux d (fun a => { a with aborts := 0 })
  | 0x7C => onAux d (fun a => { a with avsFaults := 0 })
  | _ => d

/-- A host write of a PWR register; none where it is command-managed (R579). -/
def pwrWrite (d : Dev) (off : Nat) (v : Word) : Option Dev :=
  match off with
  | 0x08 => some (onPwr d (fun p => { p with wakeCtrl := v &&& 0x17777#32 }))
  | 0x10 => none
  | 0x14 => none
  | 0x18 => none
  | 0x1C => none
  | 0x20 => none
  | 0x30 => none
  | _ => some d

/-- PWR_QUERY: the registers of R579 and the banks that Winter needs now (R578). -/
def actPwrQuery (_v d : Dev) : ActResult :=
  .read (([0x00, 0x04, 0x08, 0x0C, 0x10, 0x14, 0x18, 0x1C, 0x20, 0x30, 0x40, 0x44, 0x48, 0x50, 0x54, 0x58, 0x60, 0x64, 0x68, 0x6C, 0x70, 0x74, 0x78, 0x7C,
    0x80].map (pwrReg d)) ++ [banksNeeded d]) d

end Sys2Proof.Machine
end

