-- ==== Sys2Proof/Machine/Ports.lean ====
section
/-! DEFINITION. The local audio ports (chapter 04): headset detection, buttons and side-tone, TDM ports, and their part of a tick. -/

namespace Sys2Proof.Machine

/-- Headset `n`, and the device with it changed. -/
def hsOf (d : Dev) (n : Nat) : Headset := tgetD d.aud.hs n Headset.reset
def onHs (d : Dev) (n : Nat) (f : Headset → Headset) : Dev := onAud d (fun a => { a with hs := tupd a.hs n Headset.reset f })

/-- TDM port `p`, and the device with it changed. -/
def tdmOf (d : Dev) (p : Nat) : TdmPort := tgetD d.aud.tdm p TdmPort.reset
def onTdm (d : Dev) (p : Nat) (f : TdmPort → TdmPort) : Dev := onAud d (fun a => { a with tdm := tupd a.tdm p TdmPort.reset f })

/-- A field of a headset threshold register. -/
def wField (w : Word) (lo len : Nat) : Nat := getField w.toNat lo len

/-- A debounce time in ms; 0 acts as 1 (R154). -/
def msField (w : Word) (lo : Nat) : Nat := max 1 (wField w lo 8)

/-! ### Insertion, removal and buttons (R143 to R146) -/

/-- HS_DET_INSERT_EDGE (R143, R144): the contact closes; within the removal window the output ramps back up. -/
def execHsDetInsertEdge (headset : Nat) (s : State) : Host.Outcome State Fault Refusal :=
  nextDev s (fun d => onHs d headset (fun h => { h with plugged := true, muted := false }))

/-- HS_INSERT_DEBOUNCED (R143 step 2). -/
def hsInserted (n : Nat) (d : Dev) : Dev :=
  if (hsOf d n).plugged ∧ ¬ (hsOf d n).present then
    raiseLeaf (onHs d n (fun h => { h with present := true, muted := false })) 17 (4 * n)
  else d

/-- HS_INSERT_DEBOUNCED (R143). -/
def execHsInsertDebounced (headset : Nat) (s : State) : Host.Outcome State Fault Refusal := nextDev s (hsInserted headset)

/-- The accessory's type (R145): FORCE_TYPE, or by the impedances of ring 2 and sleeve in ohms. -/
def accessoryType (h : Headset) (ring2 sleeve : Nat) : Nat :=
  if 1 ≤ h.forceType ∧ h.forceType ≤ 3 then h.forceType
  else
    let gnd (x : Nat) : Bool := decide (x ≤ wField h.impTh 0 8)
    let mic (x : Nat) : Bool := decide (10 * wField h.impTh 8 12 ≤ x ∧ x ≤ 100 * wField h.impTh 20 12)
    if gnd ring2 && gnd sleeve then 1
    else if gnd ring2 && mic sleeve then 2
    else if mic ring2 && gnd sleeve then 3
    else 4

/-- HS_CLASSIFY (R143 step 4, R145): a 4-pole accessory's microphone flows from the next bell. -/
def hsClassify (n ring2 sleeve : Nat) (d : Dev) : Dev :=
  let h := hsOf d n
  if h.present ∧ h.plugged then
    let t := accessoryType h ring2 sleeve
    raiseLeaf (onHs d n (fun h => { h with accType := t, ring2 := min ring2 65535, sleeve := min sleeve 65535, micNext := t == 2 || t == 3 })) 17 (4 * n + 2)
  else d

/-- HS_CLASSIFY (R145). -/
def execHsClassify (headset ring2 sleeve : Nat) (s : State) : Host.Outcome State Fault Refusal := nextDev s (hsClassify headset ring2 sleeve)

/-- HS_BUTTON_ARM (R143 step 5). -/
def execHsButtonArm (headset : Nat) (s : State) : Host.Outcome State Fault Refusal :=
  nextDev s (fun d => onHs d headset (fun h => { h with armed := h.present && (h.accType == 2 || h.accType == 3), btnBand := 0, btnCount := 0 }))

/-- HS_DET_REMOVE_EDGE (R144): muted at once, and a press still being debounced is discarded. -/
def execHsDetRemoveEdge (headset : Nat) (s : State) : Host.Outcome State Fault Refusal :=
  nextDev s (fun d => onHs d headset (fun h => { h with plugged := false, muted := h.present, btnBand := 0, btnCount := 0 }))

/-- HS_REMOVE_EXPIRY (R144). -/
def hsRemoved (n : Nat) (d : Dev) : Dev :=
  let h := hsOf d n
  if h.present ∧ ¬ h.plugged then
    let d := onHs d n (fun h => { h with present := false, accType := 0, buttons := 0, armed := false, micNext := false, micFlow := false,
                                         muted := false, biasUa := 0 })
    raiseLeaf (raiseIf (h.buttons != 0) d 17 (4 * n + 3)) 17 (4 * n + 1)
  else d

/-- HS_REMOVE_EXPIRY (R144). -/
def execHsRemoveExpiry (headset : Nat) (s : State) : Host.Outcome State Fault Refusal := nextDev s (hsRemoved headset)

/-- The band of a bias current: 0 none, and the bit of BUTTONS otherwise (R146, R154): A 1, B 2, C 4, D 8. -/
def btnBandOf (h : Headset) (ua : Nat) : Nat :=
  if wField h.btnTh0 0 11 ≤ ua then 1
  else if wField h.btnTh0 16 11 ≤ ua then 8
  else if wField h.btnTh1 0 11 ≤ ua then 2
  else if wField h.btnTh1 16 11 ≤ ua then 4
  else 0

/-- HS_BUTTON_SAMPLE (R146): one sample of the bias current, each 1 ms. Press and release are debounced apart, and a move between
bands is a release and then a press. -/
def hsButton (n ua : Nat) (d : Dev) : Dev :=
  let h := hsOf d n
  let d := onHs d n (fun h => { h with biasUa := min ua 2047 })
  if ¬ h.armed ∨ h.muted ∨ ¬ h.present then d
  else
    let b := btnBandOf h ua
    let count := if b = h.btnBand then h.btnCount + 1 else 1
    let d := onHs d n (fun h => { h with btnBand := b, btnCount := count })
    let release := h.buttons ≠ 0 ∧ b ≠ h.buttons ∧ count ≥ msField h.debounce 24
    let d := if release then raiseLeaf (onHs d n (fun h => { h with buttons := 0 })) 17 (4 * n + 3) else d
    if b ≠ 0 ∧ (hsOf d n).buttons = 0 ∧ count ≥ msField h.debounce 16 then raiseLeaf (onHs d n (fun h => { h with buttons := b })) 17 (4 * n + 3)
    else d

/-- HS_BUTTON_SAMPLE (R146). -/
def execHsButtonSample (headset biasUa : Nat) (s : State) : Host.Outcome State Fault Refusal := nextDev s (hsButton headset biasUa)

/-- The microphone's block for the tick from what its ADC gives (R142, R144). -/
def micBlock (h : Headset) (raw : List Int) : List Int :=
  if h.present && h.micFlow && !h.muted then (List.range 6).map (fun i => satI 24 (smp raw i)) else sixOnes

/-- The output route of an endpoint, if one is set. -/
def outRoute (d : Dev) (t u i : Nat) : Option Route :=
  (d.aud.routes.find? (fun e => e.2.rcd.output && e.2.rcd.endType == t && e.2.rcd.endUnit == u && e.2.rcd.endIndex == i)).map (·.2)

/-- What a headset plays in a tick (R144, R147): the engine's block, with the side-tone 3 samples behind the ADC, and ramps over 6 samples. -/
def headsetPlay (d : Dev) (n : Nat) (h : Headset) (mic : List Int) : List Int :=
  let path := (List.range 3).map (fun i => smp h.side i) ++ mic
  let g := paramIn d (0x800 + n) 0 true
  (List.range 6).map (fun (i : Nat) =>
    let w : Int := if h.sideActive && h.sideWas then 6 else if h.sideActive then (i : Int) + 1 else if h.sideWas then 5 - (i : Int) else 0
    let x := satI 24 (smp h.play i + (if w = 0 then 0 else q14 (smp path i) (g * w / 6)))
    let ramp : Int := if h.muted ∨ ¬ h.present then (if h.dac = 0 then 0 else 5 - (i : Int)) else (if h.dac = 0 then (i : Int) + 1 else 6)
    if ramp = 6 then x else x * ramp / 6)

/-- One tick of a headset (R142, R144, R147): the block of the tick that ends has been played, the microphone's is captured, and the new tick is given its engine block
and whether the side-tone is mixed into it. -/
def headsetTick (raw : List Int) (d : Dev) (n : Nat) : Dev :=
  let h := hsOf d n
  let mic := micBlock h raw
  let rt := outRoute d 0 n 0
  let absent := match rt with
    | none => true
    | some r => r.absent
  let on := h.present && (h.sidetone == 1 || (h.sidetone == 2 && absent))
  let d := if h.present ∨ h.dac ≠ 0 then emit d .headsetOut n (headsetPlay d n h mic) else d
  let d := onHs d n (fun h => { h with
    sideWas := h.sideActive, sideActive := on, play := (rt.map (·.blk)).getD sixZero, side := mic.drop 3, micFlow := h.micNext, dac := if h.muted ∨ ¬ h.present then 0 else 6 })
  onAud d (fun a => { a with capt := tset a.capt (epKey 0 n 0) mic })

/-! ### TDM ports (R149 to R151) -/

/-- A slot's word as a 24-bit sample, the 8 bits below it dropped where the slot has 32, and a sample as a slot's word (R149). -/
def tdmIn (w : Nat) (x : Int) : Int := if w = 16 then satI 24 (satI 16 x * 256) else if w = 32 then satI 24 (x / 256) else satI 24 x
def tdmOut (w : Nat) (x : Int) : Int := if w = 16 then satI 16 ((x + 128) / 256) else if w = 32 then x * 256 else x

/-- The samples that a slave port holds (R150): those of its phase buffer and of the block being formed. -/
def tdmHeld (t : TdmPort) : Nat := ((tget t.inBuf 0).map (·.length)).getD 0

/-- The samples in the phase buffer behind the block of a tick when it is centred: a sample then waits 3, and the fill counts it too (R150, R152). -/
def tdmCentre : Nat := 3

/-- One sample of each slot pushed into a buffer, and one dropped or repeated. -/
def bufPush (b : Tbl (List Int)) (slots : Nat) (x : Nat → Int) : Tbl (List Int) :=
  (List.range slots).foldl (fun t k => tupd t k [] (· ++ [x k])) b
def bufDrop (b : Tbl (List Int)) : Tbl (List Int) := tmap b (fun _ l => l.drop 1)
def bufRepeat (b : Tbl (List Int)) : Tbl (List Int) := tmap b (fun _ l => match l with
  | [] => []
  | x :: r => x :: x :: r)

/-- A slip (R150). -/
def tdmSlip (d : Dev) (p : Nat) : Dev := raiseLeaf (onTdm d p (fun t => { t with slips := satInc t.slips })) 17 (16 + p)

/-- TDM_FRAME_RX (R149 to R151): one frame of slot words. A slave port buffers its samples; a full buffer drops an input sample
and repeats an output sample. Its output words leave with the console's clock. -/
def tdmFrame (p : Nat) (words : List Int) (wellFormed : Bool) (d : Dev) : Dev :=
  let t := tdmOf d p
  if ¬ t.cfg.enable then d
  else
    let d := onTdm d p (fun t => { t with good := if wellFormed then t.good + 1 else 0, lock := wellFormed && !t.alarm })
    if ¬ wellFormed ∨ t.alarm then d
    else
      let d := onTdm d p (fun t => { t with inBuf := bufPush t.inBuf t.cfg.slots (fun k => tdmIn t.cfg.width (words.getD k 0)) })
      if t.cfg.mode % 2 = 1 then d
      else
        let d := if tdmHeld (tdmOf d p) > 12 then tdmSlip (onTdm d p (fun t => { t with inBuf := bufDrop t.inBuf, outBuf := bufRepeat t.outBuf })) p else d
        let t := tdmOf d p
        let sent := (List.range t.cfg.slots).map (fun k => tdmOut t.cfg.width (((tgetD t.outBuf k []).head?).getD 0))
        onTdm (emit d .tdmOut p sent) p (fun t => { t with outBuf := bufDrop t.outBuf })

/-- TDM_FRAME_RX (R150). -/
def execTdmFrameRx (port : Nat) (words : List Int) (wellFormed : Bool) (s : State) : Host.Outcome State Fault Refusal :=
  nextDev s (tdmFrame port words wellFormed)

/-- TDM_ALARM_TIMEOUT (R151): no frame sync for 4 frame periods on a port whose console drives it. -/
def tdmAlarm (p : Nat) (d : Dev) : Dev :=
  let t := tdmOf d p
  if ¬ t.cfg.enable ∨ t.cfg.mode % 2 = 1 ∨ t.alarm then d
  else raiseLeaf (onTdm d p (fun t => { t with alarm := true, lock := false, good := 0, alarms := satInc t.alarms, inBuf := [], outBuf := [], phase := 0, fill := 0 })) 17 (8 + p)

/-- TDM_ALARM_TIMEOUT (R151). -/
def execTdmAlarmTimeout (port : Nat) (s : State) : Host.Outcome State Fault Refusal := nextDev s (tdmAlarm port)

/-- The six samples a slot gives a tick: a slave's buffer that is short repeats its last sample. -/
def tdmTake (l : List Int) : List Int := (List.range 6).map (fun i => l.getD i (l.getLast?.getD 0))

/-- `n` samples repeated at a shortage, each a slip that drops an output sample too (R150). -/
def tdmShort (p n : Nat) (d : Dev) : Dev :=
  match n with
  | 0 => d
  | n + 1 => tdmShort p n (tdmSlip (onTdm d p (fun t => { t with outBuf := bufDrop t.outBuf })) p)

/-- The block of a tick taken from a slave port's phase buffer (R150): centred as it starts, and each missing sample repeated. -/
def tdmSlave (p : Nat) (d : Dev) : Dev :=
  let t := tdmOf d p
  if t.phase = 0 ∧ tdmHeld t < 6 + tdmCentre then d
  else
    let t := if t.phase = 0 then { t with inBuf := tmap t.inBuf (fun _ l => l.drop (l.length - (6 + tdmCentre))) } else t
    let d := onAud d (fun a => { a with capt := (List.range t.cfg.slots).foldl (fun m k => tset m (epKey 1 p k) (tdmTake (tgetD t.inBuf k []))) a.capt })
    let d := onTdm d p (fun _ => { t with phase := 1, fill := min 8 (tdmHeld t - 6 + 1), inBuf := tmap t.inBuf (fun _ l => l.drop 6) })
    tdmShort p (6 - tdmHeld t) d

/-- One tick of a TDM port (R149 to R151): its slots' blocks captured, its outputs played, slips where a slave's buffer empties,
and the end of an alarm after 16 good frames, from which the buffer fills to its centre again. -/
def tdmTick (d : Dev) (p : Nat) : Dev :=
  let t := tdmOf d p
  if ¬ t.cfg.enable then d
  else
    let slots := List.range t.cfg.slots
    let d :=
      if t.alarm then
        let d := onAud d (fun a => { a with capt := slots.foldl (fun m k => tset m (epKey 1 p k) sixOnes) a.capt })
        if t.good ≥ 16 then onTdm d p (fun t => { t with alarm := false, lock := true, inBuf := [], outBuf := [], phase := 0 }) else d
      else if t.cfg.mode % 2 = 0 then tdmSlave p d
      else
        let d := onAud d (fun a => { a with capt := slots.foldl (fun m k => tset m (epKey 1 p k) (tdmTake (tgetD t.inBuf k []))) a.capt })
        onTdm d p (fun t => { t with inBuf := tmap t.inBuf (fun _ l => l.drop 6) })
    let blk (k : Nat) : List Int := ((outRoute d 1 p k).map (·.blk)).getD sixZero
    if t.alarm then d
    else if t.cfg.mode % 2 = 1 then
      emit d .tdmOut p ((List.range 6).map (fun i => slots.map (fun k => tdmOut t.cfg.width (smp (blk k) i)))).flatten
    else onTdm d p (fun t => { t with outBuf := slots.foldl (fun b k => tupd b k (List.replicate tdmCentre 0) (· ++ blk k)) t.outBuf })

/-- The local ports' part of a bell, after the stages of the tick that ends: the blocks it mixed are played, and the
blocks that came in it are captured (R20). `mics` are the headsets' ADC blocks. -/
def portsTick (mics : Tbl (List Int)) (d : Dev) : Dev :=
  let d := [0, 1].foldl (fun d n => headsetTick (tgetD mics n sixZero) d n) d
  (d.aud.tdm.map (·.1)).foldl tdmTick d

/-! ### Commands and registers -/

/-- Whether a TDM record's fields lie in their ranges (R116, R149). -/
def tdmRecOk (r : TdmRec) : Bool :=
  r.reservedOk && decide (r.port < 8 ∧ 1 ≤ r.slots ∧ r.slots ≤ 16 ∧ (r.width = 16 ∨ r.width = 24 ∨ r.width = 32) ∧ r.mode < 16 ∧ r.fsHz = 48000)

/-- The field of a TDM record at fault (R149, R510). -/
def tdmFault (r : TdmRec) : Nat :=
  firstBad [(decide (r.port < 8), 0), (decide (1 ≤ r.slots ∧ r.slots ≤ 16), 1), (decide (r.width = 16 ∨ r.width = 24 ∨ r.width = 32), 2),
    (decide (r.mode < 16), 3), (decide (r.fsHz = 48000), 4), (r.reservedOk, 8)]

/-- PORT_TDM_CONFIG (R116, R149). -/
def actPortTdmConfig (rcd : TdmRec) (v d : Dev) : ActResult :=
  if ¬ tdmRecOk rcd then .refuse .badParam 0 (tdmFault rcd)
  else if v.aud.routes.any (fun e => e.2.rcd.endType == 1 && e.2.rcd.endUnit == rcd.port) then .refuse .busy 0 noField
  else .stage false 0 [] none d

/-- The port configured at its bell; its counters stay. -/
def applyPortTdmConfig (rcd : TdmRec) (d : Dev) : Dev :=
  onTdm d rcd.port (fun t => { TdmPort.reset with cfg := rcd, slips := t.slips, alarms := t.alarms })

/-- The registers of a headset in the order of their offsets (R154). -/
def hsRegs (d : Dev) (n : Nat) : List Nat :=
  let h := hsOf d n
  [b2n h.detPol + 4 * h.sidetone + 16 * h.forceType, h.debounce.toNat, h.impTh.toNat, h.btnTh0.toNat, h.btnTh1.toNat,
   b2n h.present + 2 * h.accType + 16 * h.buttons + 256 * b2n h.sideActive + 65536 * h.biasUa, h.ring2 + 65536 * h.sleeve, h.bank]

/-- The registers of a TDM port in the order of their offsets (R155): PHASE is the fill less one (R150). -/
def tdmRegs (d : Dev) (p : Nat) : List Nat :=
  let t := tdmOf d p
  let fill := if t.cfg.enable ∧ t.cfg.mode % 2 = 0 then t.fill else 0
  [b2n t.cfg.enable + 2 * t.cfg.mode + 32 * (if t.cfg.width = 16 then 0 else if t.cfg.width = 24 then 1 else 2) + 256 * (t.cfg.slots - 1),
   b2n t.lock + 2 * b2n t.alarm + 16 * (min 5 (fill - 1)) + 256 * fill, t.slips.toNat, t.alarms.toNat]

/-- PORT_QUERY (R153). -/
def actPortQuery (kind number : Nat) (_v d : Dev) : ActResult :=
  if kind = 0 ∧ number < 2 then .read (hsRegs d number) d
  else if kind = 1 ∧ number < 8 then .read (tdmRegs d number) d
  else .refuse .badParam 0 (if kind > 1 then 0 else 1)

end Sys2Proof.Machine
end

