-- ==== Sys2Proof/Machine/Streams.lean ====
section
/-! DEFINITION. The stream slots of an engine's local memory (R214), and the routes whose endpoint is an engine stream (R137). -/

namespace Sys2Proof.Machine

/-- Where stream slot `k` and its block for a tick lie (R209, R214): 512 slots of 64 bytes, a block for even ticks and one for odd ticks. -/
def streamBase : Nat := 0x68000
def blockAt (k : Nat) (tick : BitVec 64) : Nat := streamBase + 64 * (k % 512) + 32 * (tick.toNat % 2)

/-- The bytes of a block (R214): six 32-bit samples, the tick number's low 32 bits, PRESENT and ALARM, and three reserved bytes. -/
def blockBytes (samples : List Int) (tick : BitVec 64) (present alarm : Bool) : List Byte :=
  (List.range 6).flatMap (fun i => leBytes (twos 32 (samples.getD i 0)) 4) ++ leBytes tick.toNat 4 ++ leBytes (b2n present + 2 * b2n alarm) 1 ++ leBytes 0 3

/-- A sample of a block as a signed number. -/
def blockSample (m : Memory) (a i : Nat) : Int := (BitVec.ofNat 32 (leNat (memRead m (a + 4 * i) 4))).toInt

/-- The block of a slot that carries a tick: its samples as 24-bit values, and ALARM; none where PRESENT is 0 or the tick is another (R214). -/
def readBlock (m : Memory) (k : Nat) (tick : BitVec 64) : Option (List Int × Bool) :=
  let a := blockAt k tick
  let flags := leNat (memRead m (a + 28) 1)
  if flags % 2 = 1 ∧ leNat (memRead m (a + 24) 4) = tick.toNat % 2 ^ 32 then some ((List.range 6).map (fun i => satI 24 (blockSample m a i)), flags / 2 % 2 == 1)
  else none

/-- A block written into a slot. -/
def writeBlock (d : Dev) (e k : Nat) (tick : BitVec 64) (samples : List Int) (present : Bool) : Dev :=
  onCore (localStored d e (blockAt k tick) 32) e (fun c => { c with mem := memWrite c.mem (blockAt k tick) (blockBytes samples tick present false) })

/-- What an input route takes from its engine's stream in the tick that ends, which is the tick its block carries (DESIGN CHOICE, log 167). A program whose task did not
complete has its blocks of the tick absent (R21, R218, R219). -/
def streamIn (silent : List Nat) (d : Dev) (r : RouteRec) : Dev :=
  let key := epKey 3 r.endUnit r.endIndex
  let x := if silent.contains r.endUnit then none else readBlock (engOf d r.endUnit).core.mem r.endIndex (d.bell.tick - 1)
  onAud d (fun a => { a with
    capt := tset a.capt key ((x.map (·.1)).getD sixZero),
    streamAlarm := a.streamAlarm.filter (· != key) ++ (if (x.map (·.2)).getD false then [key] else []) })

/-- What an output route gives its engine's stream: the block mixed in the tick that ends, absent where the route has none. -/
def streamOut (d : Dev) (rt : Route) : Dev := writeBlock d rt.rcd.endUnit rt.rcd.endIndex (d.bell.tick - 1) rt.blk (!rt.absent)

/-- The engine streams' part of a bell (R20, R214). `silent` are engines with a task that did not complete in the tick that ends. -/
def streamsTick (silent : List Nat) (d : Dev) : Dev :=
  (d.aud.routes.filter (fun e => e.2.rcd.endType == 3)).foldl (fun d e => if e.2.rcd.output then streamOut d e.2 else streamIn silent d e.2.rcd) d

end Sys2Proof.Machine
end

