-- ==== Sys2Proof/Machine/BellTick.lean ====
section
/-! DEFINITION. BELL_TICK: the bell (R44 to R46) and the work of every unit that it starts. -/

namespace Sys2Proof.Machine

/-- The tick number advanced, and the closed tick's overrun record begun (R44, R45). -/
def bellCount (x : TickIn) (d : Dev) : Dev :=
  let d := advanceCrystal (advanceC d x.refCycles) x.crystalCycles
  let d := onBell d (fun b => { b with tick := b.tick + 1, ovr := { b.ovr with any := false, map := [] } })
  let d := onErr d (fun e => { e with holdTicks := if d.bell.lock.st = .locked then e.holdTicks else e.holdTicks + 1 })
  let d := if d.bell.lock.st = .locked ∧ d.bell.lock.autoRate then
      onBell d (fun b => { b with time := setRate (BitVec.ofInt 32 (clampI (-2147483648) 2147483647 b.lock.freqNow)) b.time })
    else d
  updateErr d

/-- An engine's overrun noted once for the closed tick (R21, R45). -/
def noteOnce (d : Dev) (e : Nat) : Dev := if d.bell.ovr.map.contains e then d else noteOverrun d e []

/-- The engines whose work of a stage was not complete (R21): those of the inputs, mixes and routes whose results were lost. -/
def lateEngines (x : TickIn) (d : Dev) : List Nat :=
  x.lostIn.filterMap (fun k => if k < 8192 then (legOf d k).map (·.home) else (routeOf d (k - 8192)).map (·.engine))
    ++ x.lostMix.filterMap (fun n => (confOf d n).bind (·.mix)) ++ x.lostRoutes.filterMap (fun n => (routeOf d n).map (·.engine))

/-- One engine at a bell: its kernel, the cycles it used, and its overrun (R45, R217, R218). -/
def engineTick (d : Dev) (x : EngTick) : Dev :=
  if x.eng ≥ 256 ∨ (engOf d x.eng).st = .out ∨ engGated d x.eng then d
  else
    let e := kernelBell (tableOf d x.eng) d.bell.tick x.finished x.tasks (engOf d x.eng)
    let d := onEng d x.eng (fun _ => { e.1 with cycles := min 200000 x.cycles })
    if e.2 ∨ x.overran then noteOverrun d x.eng x.legs else d

/-- Every running engine's kernel advances its heartbeat (R220). -/
def heartbeats (d : Dev) : Dev :=
  (List.range 256).foldl (fun d n =>
    if (engOf d n).st = .out ∨ engGated d n ∨ (engOf d n).core.halted then d else onEng d n (fun e => { e with heartbeat := e.heartbeat + 1 })) d

/-- A depth that the jitter buffer waits to take is taken in received silence (R600): while the leg's level in its conference stands below OFF (DESIGN CHOICE, log 165).
What is due is due later or earlier by the difference. -/
def takeDepth (d : Dev) (n : Nat) (l : Leg) : Dev :=
  let silent : Bool := match confOf d l.rcd.conf with
    | none => true
    | some c => decide (levelIn c.ins (inputKey d c n) < cParam d l.rcd.conf 1)
  if l.jbWant = l.jbDepth ∨ ¬ silent then d
  else onLeg d n (fun l => { l with jbDepth := l.jbWant, jbDue := l.jbDue.map (fun e => (e.1, e.2 + (l.jbWant : Int) - (l.jbDepth : Int))) })

/-- The legs whose work an engine did not complete in the closed tick, overrun or ended by a fault (R21, R219): `faulted` are the engines with a task that faulted. -/
def lateLegs (x : TickIn) (faulted : List Nat) (d : Dev) : List Nat :=
  ((x.engines.filter (fun e => d.bell.ovr.map.contains e.eng || faulted.contains e.eng)).map (·.legs)).flatten

/-- The engines with a task that faulted in the tick that ends (R219). -/
def faultedNow (d : Dev) : List Nat := (d.flock.engs.filter (fun e => e.2.kern.faulted)).map (·.1)

/-- What a bell finds, with the work of some engines lost (R46, R220): the inputs, mixes and routes of those found failed. -/
def withLost (es : List Nat) (d : Dev) (x : TickIn) : TickIn :=
  if es.isEmpty then x
  else
    let legs := (d.media.legs.filter (fun l => es.contains l.2.home)).map (·.1)
    let routes := (d.aud.routes.filter (fun r => es.contains r.2.engine)).map (·.1)
    { x with lostIn := x.lostIn ++ legs ++ routes.map (8192 + ·), lostRoutes := x.lostRoutes ++ routes,
             lostMix := x.lostMix ++ (d.media.confs.filter (fun c => (c.2.mix.map es.contains).getD false)).map (·.1) }

/-- The block of one leg for the ended tick: what its decoder gives, a concealed one counted in JB_UNDERRUN (R600), and zero where its work was not complete, its
engine has failed or nothing was decoded (R21). -/
def legBlock (x : TickIn) (late : List Nat) (d : Dev) (n : Nat) : Dev :=
  match legOf d n with
  | none => d
  | some l =>
    if ¬ l.rcd.audioIn ∨ ¬ legShown l then d
    else
      let give (b : List Int) (d : Dev) : Dev := onAud d (fun a => { a with capt := tset a.capt (legEp n) b })
      match x.decoded.find? (fun e => e.1 == n) with
      | none => give sixZero d
      | some e =>
        if late.contains n ∨ ¬ legRuns l then give sixZero d
        else takeDepth (if e.2.2 then legCount (give e.2.1 d) n 15 1 else give e.2.1 d) n l

/-- The blocks that the legs' decoders give for the ended tick (R20, R21, R600). -/
def legBlocks (x : TickIn) (late : List Nat) (d : Dev) : Dev :=
  (d.media.legs.map (·.1)).foldl (legBlock x late) d

/-- The media of a bell (R20): local ports, trunks, engine streams and legs give and take their blocks, and encoders send. `silent` are engines of which a program's blocks
are absent, `late` legs whose work was not complete. -/
def mediaBell (x : TickIn) (silent late : List Nat) (d : Dev) : Dev :=
  let d := legBlocks x late (streamsTick silent (imcBell (portsTick x.mics d)))
  let d := videoTick d
  x.packets.foldl (fun d p => sendAudio d p.1 p.2) d

/-- What an engine's failure interrupted resumes, moves that it ended end, and warnings end (R88, R109, R111). -/
def legsBell (d : Dev) : Dev :=
  let d := endFailedMoves (resumeOthers d)
  (d.media.legs.map (·.1)).foldl (fun d n => resumeLeg (legKeySweep d n) n) d

/-- The work of a bell, unit by unit, in a tick that has been counted: the stages of the tick that ends, so that a change in force from a bell
bears on the whole tick it begins (R14, R20), and what the new tick starts. -/
def bellWork (x : TickIn) (d : Dev) : Dev :=
  let d := bellwetherMarker (pastureBell d)
  let faulted := faultedNow d
  let failed := failedNow d
  let d := x.engines.foldl engineTick d
  let d := heartbeats ((lateEngines x d).foldl noteOnce d)
  let x := withLost failed d x
  let d := cascUsed (cascBell (audioTick x.lostIn x.lostMix x.lostRoutes d))
  let d := laneBell (recalSweep d)
  let d := mediaBell x (faulted ++ d.bell.ovr.map ++ failed) (lateLegs x faulted d) (legsBell d)
  let d := scrubBell x.scrubShort x.scrubFound (unitStores x.stores (tmUnstage (tmSweep d)))
  failed.foldl (fun d e => engineFailed e d) d

/-- The bell. It does not run while the BELL domain is off (R44, R566). -/
def bellTick (x : TickIn) (d : Dev) : Dev := if ¬ domOn d 3 then d else bellWork x (bellCount x d)

/-- BELL_TICK (R45). -/
def execBellTick (x : TickIn) (s : State) : Host.Outcome State Fault Refusal := nextDev s (bellTick x)

end Sys2Proof.Machine
end

