-- ==== Sys2Proof/Machine/Regs.lean ====
section
/-! DEFINITION. The register maps of BELL, PARSE, TM, MEDIA, AUD and INTEG, and every block's registers by address: which exist, what they read, what a
read clears and what a write does (R6 to R8, R506, R559). -/

namespace Sys2Proof.Machine

/-- Bit `i` of a number's 32-bit map, over members of a list. -/
def mapWord (l : List Nat) (k : Nat) : Nat := sumN ((List.range 32).map (fun j => if l.contains (32 * k + j) then 2 ^ j else 0))

/-- A list less the members that a W1C write of word `k` names. -/
def mapClear (l : List Nat) (k v : Nat) : List Nat := l.filter (fun q => !(decide (q / 32 = k) && getField v (q % 32) 1 == 1))

/-- Word `k` of a wide number. -/
def wordAt (v k : Nat) : Nat := v / 2 ^ (32 * k) % 2 ^ 32

/-! ### BELL (R72 to R75) -/

/-- A register of capture queue `g` (R75). -/
def tsqReg (d : Dev) (g off : Nat) : Nat :=
  let q := tgetD d.bell.tsq g []
  match off, q with
  | 0x10, _ => q.length
  | 0x14, _ => (tgetD d.bell.tsqDrop g 0).toNat
  | 0x00, e :: _ => e.tag + fieldAt e.port 16 + 2 ^ 31
  | 0x04, e :: _ => e.sec.toNat % 2 ^ 32
  | 0x08, e :: _ => e.ns
  | 0x0C, e :: _ => e.frac
  | _, _ => 0

/-- A BELL register. -/
def bellReg (d : Dev) (off : Nat) : Nat :=
  let b := d.bell
  let t := b.time
  let l := b.lock
  if 0x14 ≤ off ∧ off < 0x20 then wordAt t.rawSnap.toNat ((off - 0x14) / 4)
  else if 0x30 ≤ off ∧ off < 0x40 then wordAt t.offset.toNat ((off - 0x30) / 4)
  else if 0x60 ≤ off ∧ off < 0x80 then mapWord b.ovr.map ((off - 0x60) / 4)
  else if 0x100 ≤ off ∧ off < 0x180 then tsqReg d ((off - 0x100) / 0x20) ((off - 0x100) % 0x20)
  else if 0x200 ≤ off ∧ off < 0x240 then (tgetD b.portAdj ((off - 0x200) / 4) 0).toNat
  else if 0x400 ≤ off ∧ off < 0x408 then (tgetD b.succ.delay ((off - 0x400) / 4) 0).toNat
  else if 0x408 ≤ off ∧ off < 0x410 then (tgetD b.succ.asym ((off - 0x408) / 4) 0).toNat
  else
    match off with
    | 0x00 => l.src + fieldAt (b2n l.autoRate) 4 + fieldAt (b2n l.todSrc) 5
    | 0x04 => lockCode l.st + fieldAt l.refSlice 2 + fieldAt (b2n b.succ.bellwether) 4 + fieldAt (b2n (l.st == .holdover || l.thawed)) 5
        + fieldAt (b2n t.timeValid) 6 + fieldAt (b2n l.thawed) 7
    | 0x08 => b.tick.toNat % 2 ^ 32
    | 0x0C => b.tickHiLatch.toNat
    | 0x20 => t.secSnap.toNat % 2 ^ 32
    | 0x24 => t.secSnap.toNat / 2 ^ 32
    | 0x28 => t.nsSnap
    | 0x2C => t.fracSnap
    | 0x40 => t.rate.toNat
    | 0x44 => b.err.timeErr.toNat
    | 0x48 => b.err.holdDrift
    | 0x4C => l.phaseOfs
    | 0x50 => b2n b.ovr.any + 2 * b2n b.ovr.sticky
    | 0x54 => b.ovr.tick.toNat % 2 ^ 32
    | 0x58 => b.ovr.tick.toNat / 2 ^ 32
    | 0x80 => b.err.todStepMax
    | 0x84 => match b.err.todPend with
      | some v => 2 ^ 31 + min (stepNs v t.offset) (2 ^ 31 - 1)
      | none => 0
    | 0x88 => b.err.todErr
    | 0x90 => fieldAt b.err.rclkSel 4 + fieldAt (b2n b.err.rclkSquelch) 6 + fieldAt b.err.ppsWidth 7
    | 0x300 => b.sleep.cnt.toNat % 2 ^ 32
    | 0x304 => b.sleep.cntHiLatch
    | 0x308 => b.sleep.cal
    | 0x30C => b.sleep.drift + fieldAt (b2n b.sleep.calValid) 31
    | 0x410 => b.succ.epoch + fieldAt b.succ.leader 20 + fieldAt b.succ.rank 24
    | _ => 0

/-- The BELL registers that exist (R72 to R75). -/
def bellHas (off : Nat) : Bool :=
  off ≤ 0x0C || (0x10 ≤ off && off ≤ 0x58) || (0x60 ≤ off && off ≤ 0x88) || off == 0x90
    || (0x100 ≤ off && off < 0x180 && decide (off % 0x20 ≤ 0x14)) || (0x200 ≤ off && off < 0x240) || (0x300 ≤ off && off ≤ 0x30C)
    || (0x400 ≤ off && off ≤ 0x410)

/-- A host's write of a BELL register: OVR_STATUS.STICKY and PORT_ADJ_p, of which 12 to 15 ignore it, and SNAP (R52, R54, R75). -/
def bellWrite (d : Dev) (off v : Nat) : Dev :=
  if off = 0x10 then (if getField v 0 1 = 1 then bellSnap d else d)
  else if off = 0x50 then (if getField v 1 1 = 1 then onBell d (fun b => { b with ovr := { b.ovr with sticky := false } }) else d)
  else if 0x200 ≤ off ∧ off < 0x240 then if off < 0x230 then onBell d (fun b => { b with portAdj := tset b.portAdj ((off - 0x200) / 4) (BitVec.ofNat 32 v) }) else d
  else d

/-! ### PARSE (R397 to R399) -/

/-- PORT_DEF0_q and what follows it (R398). -/
def parsePortReg (d : Dev) (q off : Nat) : Nat :=
  let p := parsePort d q
  match off with
  | 0x00 => p.action.dest + fieldAt (p.action.cls + 16 * p.action.colour) 8 + fieldAt p.action.target 16
  | 0x04 => p.action.policer + fieldAt p.ooo 16
  | 0x08 => p.noMatch.toNat
  | 0x0C => p.parseFail.toNat
  | 0x10 => p.tooDeep.toNat
  | 0x14 => p.lenContra.toNat
  | 0x18 => p.fragOoo.toNat
  | 0x1C => p.failOff + fieldAt p.failCase 12 + fieldAt p.failHdr 16
  | _ => 0

/-- A PARSE register. -/
def parseReg (d : Dev) (off : Nat) : Nat :=
  if off < 0x200 then
    let j := off / 0x100
    let r := pipeRegs d j
    match off % 0x100 with
    | 0x00 => r.vxlanPort + fieldAt r.legClass 16
    | 0x04 => (d.parse.rules.filter (fun e => e.1 / 4096 == j)).length + fieldAt ((d.parse.exact.filter (fun e => e.2.pipe == j)).length
      + if j = 1 then (d.sys.sess.filter (fun e => e.2.st != .free)).length else 0) 16
    | 0x08 => r.pkts.toNat
    | 0x0C => r.bound.toNat
    | 0x10 => r.exactHit.toNat
    | 0x14 => r.ruleHit.toNat
    | 0x18 => r.dflt.toNat
    | _ => 0
  else if 0x1000 ≤ off ∧ off < 0x13C0 then
    (if parsePortExists ((off - 0x1000) / 0x40) then parsePortReg d ((off - 0x1000) / 0x40) ((off - 0x1000) % 0x40) else 0)
  else if 0x3000 ≤ off ∧ off < 0x3040 then
    let j := (off - 0x3000) / 0x20
    match (off - 0x3000) % 0x20 with
    | 0x00 => d.parse.age
    | 0x04 => fragInUse d j + fieldAt (pipeRegs d j).fragHwm 16
    | 0x08 => (pipeRegs d j).fragFull.toNat
    | 0x0C => (pipeRegs d j).fragAged.toNat
    | _ => 0
  else if 0x3100 ≤ off ∧ off < 0x3200 then hashFieldsOf d ((off - 0x3100) / 4) + fieldAt (b2n (decide ((off - 0x3100) / 4 ≤ 7))) 16
  else if 0x3200 ≤ off ∧ off < 0x3300 then (hashSeedOf d ((off - 0x3200) / 4)).toNat
  else if 0x20000 ≤ off ∧ off < 0x40000 then indirOf d ((off - 0x20000) / 0x800) ((off - 0x20000) % 0x800 / 4)
  else 0

/-- The PARSE registers that exist. -/
def parseHas (off : Nat) : Bool :=
  (off < 0x200 && decide (off % 0x100 ≤ 0x18)) || (0x1000 ≤ off && off < 0x13C0 && parsePortExists ((off - 0x1000) / 0x40) && decide (off % 0x40 ≤ 0x1C))
    || (0x3000 ≤ off && off < 0x3040 && decide (off % 0x20 ≤ 0xC)) || (0x3100 ≤ off && off < 0x3300) || (0x20000 ≤ off && off < 0x40000)

/-- What a read of a PARSE register clears. -/
def parseReadClear (d : Dev) (off : Nat) : Dev :=
  if off < 0x200 then
    onPipe d (off / 0x100) (fun r => match off % 0x100 with
      | 0x08 => { r with pkts := 0 }
      | 0x0C => { r with bound := 0 }
      | 0x10 => { r with exactHit := 0 }
      | 0x14 => { r with ruleHit := 0 }
      | 0x18 => { r with dflt := 0 }
      | _ => r)
  else if 0x1000 ≤ off ∧ off < 0x13C0 then
    onParsePort d ((off - 0x1000) / 0x40) (fun p => match (off - 0x1000) % 0x40 with
      | 0x08 => { p with noMatch := 0 }
      | 0x0C => { p with parseFail := 0 }
      | 0x10 => { p with tooDeep := 0 }
      | 0x14 => { p with lenContra := 0 }
      | 0x18 => { p with fragOoo := 0 }
      | _ => p)
  else if 0x3000 ≤ off ∧ off < 0x3040 then
    onPipe d ((off - 0x3000) / 0x20) (fun r => match (off - 0x3000) % 0x20 with
      | 0x08 => { r with fragFull := 0 }
      | 0x0C => { r with fragAged := 0 }
      | _ => r)
  else d

/-- Whether the map marks a PARSE register as command-managed. -/
def parseManaged (off : Nat) : Bool :=
  (off < 0x200 && off % 0x100 == 0) || (0x1000 ≤ off && off < 0x13C0 && decide (off % 0x40 < 8))
    || (0x3000 ≤ off && off < 0x3040 && decide (off % 0x20 < 8)) || decide (0x3100 ≤ off)

/-! ### TM (R423 to R426) -/

/-- A queue that is not allocated, as its registers read (R424). -/
def queueRegsFree : List Nat := [0, 1600, 4096, 50 + 256 * 25, 0, 0, 0, 0, 0, 0, 0, 0, 0, 0]

/-- The registers of node `n` (R425). -/
def nodeRegs (d : Dev) (n : Nat) : List Nat :=
  if n < 512 then ((tget d.tm.groups n).map groupRegs).getD [0, 1600, 0, 0, 0]
  else if rootExists d n then rootRegs (rootOf d n)
  else [fieldAt (twos 8 (rootReset n).adj) 24, 1600, 0, 0, 0]

/-- The registers of meter `m` that is not configured (R426). -/
def meterRegsFree : List Nat := [8, 0, 0, 64, 64, 0, 0, 0, 0]

/-- The registers of meter `m` (R426), M_DROP last. -/
def meterRegsOf (d : Dev) (m : Nat) : List Nat := ((tget d.tm.meters m).map meterRegs).getD meterRegsFree

/-- A TM register. -/
def tmReg (d : Dev) (off : Nat) : Nat :=
  if 0x800 ≤ off ∧ off < 0xC00 then mapWord d.tm.dropMap ((off - 0x800) / 4)
  else if 0xC00 ≤ off ∧ off < 0x1000 then mapWord d.tm.sojMap ((off - 0xC00) / 4)
  else if 0x10000 ≤ off ∧ off < 0x90000 then
    (((tget d.tm.queues ((off - 0x10000) / 0x40)).map queueRegs).getD queueRegsFree).getD ((off - 0x10000) % 0x40 / 4) 0
  else if 0x90000 ≤ off ∧ off < 0x98000 then (nodeRegs d ((off - 0x90000) / 0x20)).getD ((off - 0x90000) % 0x20 / 4) 0
  else if 0xA0000 ≤ off ∧ off < 0xE0000 then
    (policerRegs (tgetD d.tm.policers ((off - 0xA0000) / 0x10) policerReset)).getD ((off - 0xA0000) % 0x10 / 4) 0
  else if 0xE0000 ≤ off ∧ off < 0xE8000 then (meterRegsOf d ((off - 0xE0000) / 0x20)).getD ((off - 0xE0000) % 0x20 / 4) 0
  else if 0xF0000 ≤ off ∧ off < 0xF0400 then
    match tget d.tm.meterMap ((off - 0xF0000) / 4) with
    | some m => m + 2 ^ 15
    | none => 0
  else if 0xF8000 ≤ off ∧ off < 0xF9000 then (meterRegsOf d ((off - 0xF8000) / 4)).getD 8 0
  else
    match off with
    | 0x00 => d.tm.bufHigh
    | 0x04 => min 262144 (cellsUsed d (fun _ => true))
    | 0x08 => ceilDiv (placeBytes d .deep) 1024
    | 0x0C => d.tm.bufFullDrop.toNat
    | 0x10 => d.tm.deepStallDrop.toNat
    | _ => 0

/-- The TM registers that exist. -/
def tmHas (off : Nat) : Bool :=
  off ≤ 0x10 || off == 0x20 || (0x800 ≤ off && off < 0x1000) || (0x10000 ≤ off && off < 0x90000 && decide (off % 0x40 ≤ 0x34))
    || (0x90000 ≤ off && off < 0x98000 && decide (off % 0x20 ≤ 0x10)) || (0xA0000 ≤ off && off < 0xE8000) || (0xF0000 ≤ off && off < 0xF0400)
    || (0xF8000 ≤ off && off < 0xF9000)

/-- A meter's counts changed where it is configured. -/
def onMeter (d : Dev) (m : Nat) (f : Meter → Meter) : Dev := onTm d (fun t => { t with meters := tmod t.meters m f })

/-- What a read of a TM register clears. -/
def tmReadClear (d : Dev) (off : Nat) : Dev :=
  if off = 0x0C then onTm d (fun t => { t with bufFullDrop := 0 })
  else if off = 0x10 then onTm d (fun t => { t with deepStallDrop := 0 })
  else if 0x10000 ≤ off ∧ off < 0x90000 then
    onTm d (fun t => { t with queues := tmod t.queues ((off - 0x10000) / 0x40) (fun q => match (off - 0x10000) % 0x40 with
      | 0x30 => { q with txPkts := 0 }
      | 0x34 => { q with drop := 0 }
      | _ => q) })
  else if 0xA0000 ≤ off ∧ off < 0xE0000 ∧ off % 0x10 = 0xC then
    onTm d (fun t => { t with policers := tmod t.policers ((off - 0xA0000) / 0x10) (fun p => { p with drop := 0 }) })
  else if 0xE0000 ≤ off ∧ off < 0xE8000 then
    onMeter d ((off - 0xE0000) / 0x20) (fun m => match (off - 0xE0000) % 0x20 with
      | 0x14 => { m with green := 0 }
      | 0x18 => { m with yellow := 0 }
      | 0x1C => { m with red := 0 }
      | _ => m)
  else if 0xF8000 ≤ off ∧ off < 0xF9000 then onMeter d ((off - 0xF8000) / 4) (fun m => { m with drop := 0 })
  else d

/-- Whether the map marks a TM register as command-managed. -/
def tmManaged (off : Nat) : Bool :=
  off == 0 || (0x10000 ≤ off && off < 0x90000 && decide (off % 0x40 ≤ 0x18)) || (0x90000 ≤ off && off < 0x98000 && decide (off % 0x20 < 0x10))
    || (0xA0000 ≤ off && off < 0xE0000 && decide (off % 0x10 < 8)) || (0xE0000 ≤ off && off < 0xE8000 && decide (off % 0x20 ≤ 0x10))
    || (0xF0000 ≤ off && off < 0xF0400)

/-- A host's write of a TM register: HWM_RESET and the maps (R418, R423). -/
def tmWrite (d : Dev) (off v : Nat) : Dev :=
  if off = 0x20 then hwmReset (getField v 0 13) (getField v 31 1 == 1) (getField v 30 1 == 1) d
  else if 0x800 ≤ off ∧ off < 0xC00 then onTm d (fun t => { t with dropMap := mapClear t.dropMap ((off - 0x800) / 4) v })
  else if 0xC00 ≤ off ∧ off < 0x1000 then onTm d (fun t => { t with sojMap := mapClear t.sojMap ((off - 0xC00) / 4) v })
  else d

/-! ### IMC, MEDIA and VID -/

/-- The IMC registers that exist. -/
def imcHas (off : Nat) : Bool :=
  off == 0 || (0x10 ≤ off && off ≤ 0x1C) || (0x1000 ≤ off && off < 0x2000 && decide (off % 0x40 ≤ 0x34))

/-- What a read of an IMC register clears: a trunk's counter (R316). -/
def imcReadClear (d : Dev) (off : Nat) : Dev :=
  if 0x1000 ≤ off ∧ off < 0x2000 ∧ 0x10 ≤ off % 0x40 then
    onImc d (fun i => { i with trunks := tmod i.trunks ((off - 0x1000) / 0x40) (fun t => { t with cnt := tdel t.cnt ((off % 0x40 - 0x10) / 4) }) })
  else d

/-- A host's write of EVENT_MAP (R317). -/
def imcWrite (d : Dev) (off v : Nat) : Dev :=
  if off = 0x18 then onImc d (fun i => { i with eventMap := i.eventMap &&& ~~~(BitVec.ofNat 64 (v % 2 ^ 32)) })
  else if off = 0x1C then onImc d (fun i => { i with eventMap := i.eventMap &&& ~~~(BitVec.ofNat 64 (v % 2 ^ 32 * 2 ^ 32)) })
  else d

/-- A MEDIA register with those of Pasture arbitration (R28, R29, R114). -/
def mediaBlockReg (d : Dev) (off : Nat) : Nat :=
  if 0xF000 ≤ off ∧ off < 0xF060 then allotOf d ((off - 0xF000) / 4)
  else if 0xF080 ≤ off ∧ off < 0xF0E0 then pastureUsedReg d ((off - 0xF080) / 4)
  else mediaReg d off

/-- What a read of a VID register clears (R192). -/
def vidReadClear (d : Dev) (off : Nat) : Dev :=
  onVid d (fun x => match off with
    | 0x50 => { x with decErrors := 0 }
    | 0x54 => { x with encLates := 0 }
    | 0x58 => { x with conformFails := 0 }
    | 0x5C => { x with intraPoints := 0 }
    | _ => x)

/-! ### AUD (R154 to R156) -/

/-- An AUD register. -/
def audReg (d : Dev) (off : Nat) : Nat :=
  if off < 0x200 then (hsRegs d (off / 0x100)).getD (off % 0x100 / 4) 0
  else if 0x1000 ≤ off ∧ off < 0x1200 then (tdmRegs d ((off - 0x1000) / 0x40)).getD ((off - 0x1000) % 0x40 / 4) 0
  else
    match off with
    | 0x2000 => d.aud.active0
    | 0x2004 => d.aud.routes.length
    | 0x2008 => d.aud.rateRefused.toNat
    | 0x200C => d.aud.clipLast
    | _ => 0

/-- The AUD registers that exist. -/
def audHas (off : Nat) : Bool :=
  (off < 0x200 && decide (off % 0x100 ≤ 0x1C)) || (0x1000 ≤ off && off < 0x1200 && decide (off % 0x40 ≤ 0xC)) || (0x2000 ≤ off && off ≤ 0x200C)

/-- What a read of an AUD register clears. -/
def audReadClear (d : Dev) (off : Nat) : Dev :=
  if 0x1000 ≤ off ∧ off < 0x1200 then
    onTdm d ((off - 0x1000) / 0x40) (fun t => match (off - 0x1000) % 0x40 with
      | 0x08 => { t with slips := 0 }
      | 0x0C => { t with alarms := 0 }
      | _ => t)
  else if off = 0x2008 then onAud d (fun a => { a with rateRefused := 0 })
  else d

/-- A host's write of a headset's controls (R154). -/
def audWrite (d : Dev) (off v : Nat) : Dev :=
  if off < 0x200 then
    onHs d (off / 0x100) (fun h => match off % 0x100 with
      | 0x00 => { h with detPol := getField v 0 1 == 1, sidetone := getField v 2 2, forceType := getField v 4 3 }
      | 0x04 => { h with debounce := BitVec.ofNat 32 v }
      | 0x08 => { h with impTh := BitVec.ofNat 32 v }
      | 0x0C => { h with btnTh0 := BitVec.ofNat 32 v &&& 0x07FF07FF#32 }
      | 0x10 => { h with btnTh1 := BitVec.ofNat 32 v &&& 0x07FF07FF#32 }
      | _ => h)
  else d

/-! ### INTEG (R465 to R467) -/

/-- A register of memory class `k` (R466). -/
def classReg (d : Dev) (k off : Nat) : Nat :=
  let c := intClass d k
  match off with
  | 0x00 => c.ce.toNat
  | 0x04 => c.ue.toNat
  | 0x08 => wordAt c.ceAddr.toNat 0
  | 0x0C => wordAt c.ceAddr.toNat 1
  | 0x10 => wordAt c.ueAddr.toNat 0
  | 0x14 => wordAt c.ueAddr.toNat 1
  | 0x18 => scrubRate d k
  | 0x1C => b2n c.behind + fieldAt c.passes 16
  | 0x20 => wordAt c.flipData.toNat 0
  | 0x24 => wordAt c.flipData.toNat 1
  | 0x28 => c.flipCheck + fieldAt (b2n c.arm) 8 + fieldAt (b2n c.match_) 9 + fieldAt (b2n c.flipDone) 10
  | 0x2C => wordAt c.flipAddr.toNat 0
  | 0x30 => wordAt c.flipAddr.toNat 1
  | _ => 0

/-- A register of check-value unit `u` (R467). -/
def cvReg (d : Dev) (u off : Nat) : Nat :=
  let x := cvOf d u
  match off with
  | 0x00 => x.alg + fieldAt x.aliveMax 8 + fieldAt (b2n x.aliveInit) 16
  | 0x10 => wordAt x.value.toNat 0
  | 0x14 => wordAt x.value.toNat 1
  | 0x18 => wordAt (cvResult x).toNat 0
  | 0x1C => wordAt (cvResult x).toNat 1
  | 0x20 => x.alive + fieldAt x.result 16 + fieldAt (min 3 x.run) 24
  | 0x24 => x.repeated + fieldAt x.stale 16
  | _ => 0

/-- An INTEG register. -/
def integReg (d : Dev) (off : Nat) : Nat :=
  let i := d.integ
  if 0x1000 ≤ off ∧ off < 0x1200 then classReg d ((off - 0x1000) / 0x40) ((off - 0x1000) % 0x40)
  else if 0x2000 ≤ off ∧ off < 0x2088 then wordAt (tgetD i.blocks ((off - 0x2000) / 8) 0).toNat ((off - 0x2000) % 8 / 4)
  else if 0x3000 ≤ off ∧ off < 0x3100 then
    match tget i.peers ((off - 0x3000) / 0x10), (off - 0x3000) % 0x10 with
    | some p, 0x0 => wordAt p.digest.toNat 0
    | some p, 0x4 => wordAt p.digest.toNat 1
    | some p, 0x8 => p.epoch.toNat
    | some p, 0xC => p.mask
    | _, _ => 0
  else if 0x4000 ≤ off ∧ off < 0x5000 then cvReg d ((off - 0x4000) / 0x40) ((off - 0x4000) % 0x40)
  else
    match off with
    | 0x00 => 64 + fieldAt 8 8
    | 0x04 => i.mask
    | 0x08 => wordAt i.dev.toNat 0
    | 0x0C => wordAt i.dev.toNat 1
    | 0x10 => i.epoch.toNat
    | 0x14 => b2n i.valid + 2 * b2n i.busy
    | 0x18 => i.drift
    | 0x1C => i.mismatch + fieldAt i.maskDiff 16
    | 0x20 => (stackOf d 0).free
    | 0x24 => (stackOf d 1).free
    | 0x28 => i.remapLast % 2 ^ 32 / 1024 * 1024
    | 0x2C => i.remapLast / 2 ^ 32
    | 0x30 => i.rowThr
    | _ => 0

/-- What a read of an INTEG register clears. -/
def integReadClear (d : Dev) (off : Nat) : Dev :=
  if 0x1000 ≤ off ∧ off < 0x1200 then
    onIntClass d ((off - 0x1000) / 0x40) (fun c => match (off - 0x1000) % 0x40 with
      | 0x00 => { c with ce := 0 }
      | 0x04 => { c with ue := 0 }
      | _ => c)
  else if 0x4000 ≤ off ∧ off < 0x5000 ∧ off % 0x40 = 0x24 then onCv d ((off - 0x4000) / 0x40) (fun x => { x with repeated := 0, stale := 0 })
  else d

/-- Whether the map marks an INTEG register as command-managed. -/
def integManaged (off : Nat) : Bool :=
  off == 4 || (0x1000 ≤ off && off < 0x1200 && decide (off % 0x40 = 0x18 ∨ (0x20 ≤ off % 0x40 ∧ off % 0x40 ≤ 0x30)))
    || (0x4000 ≤ off && off < 0x4C00 && decide (off % 0x40 ≤ 0x14 ∨ off % 0x40 = 0x20))

/-- A host's write of an INTEG register: DRIFT_MAP, and the units 48 to 63 (R454 to R456, R465, R467). -/
def integWrite (d : Dev) (off v : Nat) : Dev :=
  if off = 0x18 then onInteg d (fun i => { i with drift := i.drift &&& (0x1FFFF - v % 0x20000) })
  else if 0x4000 ≤ off ∧ off < 0x5000 then
    let u := (off - 0x4000) / 0x40
    match (off - 0x4000) % 0x40 with
    | 0x00 =>
      let d := onCv d u (fun x => { x with alg := getField v 0 2, aliveMax := getField v 8 4, aliveInit := getField v 16 1 == 1 })
      if getField v 4 1 = 1 then cvInit u d else d
    | 0x04 => cvData u 1 v d
    | 0x08 => cvData u 2 v d
    | 0x0C => cvData u 4 v d
    | 0x10 => cvValue u false v d
    | 0x14 => cvValue u true v d
    | 0x20 => cvAlive u v d
    | _ => d
  else d

/-! ### Every block (R506, R559) -/

/-- The FLOCK counters that a read clears (R228). -/
def flockReadClear (d : Dev) (off : Nat) : Dev :=
  if 0x1000 ≤ off ∧ off < 0x3000 then
    onEng d ((off - 0x1000) / 0x20) (fun x => match (off - 0x1000) % 0x20 with
      | 0x04 => { x with ovr := 0 }
      | 0x10 => { x with mboxDrop := 0 }
      | _ => x)
  else d

/-- The registers of `blk` that exist, for blocks whose domain may be off: elsewhere an offset that no register holds reads zero anyway. -/
def regHas (blk off : Nat) : Bool :=
  match blk with
  | 1 => bellHas off
  | 2 =>
    let o := off % 0x40000
    (0x2000 ≤ off && off ≤ 0x2048) || (o ≤ 0x3C && !(0x24 ≤ o && o < 0x30)) || (0x40 ≤ o && o ≤ 0x78) || (0x80 ≤ o && o ≤ 0x9C) || (0x400 ≤ o && o < 0x600)
  | 3 => imcHas off
  | 4 =>
    (off < 0x20000 && (decide (off % 0x1000 ≤ 0x28) || (0x100 ≤ off % 0x1000 && off % 0x1000 ≤ 0x148)))
      || (0x20000 ≤ off && off < 0x20500 && decide (off % 0x100 ≤ 8)) || off == 0x30000 || off == 0x30004
  | 5 =>
    let o := off % 0x10000
    off == 0x80000 || (off < 0x50000 && (o ≤ 0x18 || (0x20 ≤ o && o ≤ 0x28) || (0x100 ≤ o && o < 0x180) || (0x300 ≤ o && o ≤ 0x308) || (0x400 ≤ o && o < 0x800)))
  | 6 => parseHas off
  | 7 => tmHas off
  | 9 => audHas off
  | 14 => off ≤ 0x18 || (0x100 ≤ off && off < 0x200)
  | 15 => (off < 0x200 && decide (off % 0x100 ≤ 0x14)) || (0x1000 ≤ off && off ≤ 0x1014) || (0x1100 ≤ off && off < 0x1140)
  | _ => true

/-- The domain that a register follows (R559); a register with fields in AON or CTRL beside others is never dark as a whole (R558). -/
def regDomain (blk off : Nat) : Nat :=
  match blk with
  | 1 => if 0x300 ≤ off ∧ off ≤ 0x30C then 0 else 3
  | 2 => if 0x2000 ≤ off ∧ off < 0x3000 ∨ off % 0x40000 = 0 then 2 else 4 + off / 0x40000
  | 3 => 8
  | 4 => laneRegDomain off
  | 5 => if off < 0x40000 then 10 else 13
  | 6 => 14
  | 7 => 15
  | 9 => 37
  | 14 => if off = 0 then 0 else 1
  | 15 => 39
  | 16 => 0
  | _ => 2

/-- A register's value. -/
def regValue (d : Dev) (blk off : Nat) : Nat :=
  match blk with
  | 0 => sysReg d off
  | 1 => bellReg d off
  | 2 => accReg d off
  | 3 => imcReg d off
  | 4 => laneReg d off
  | 5 => cliReg d off
  | 6 => parseReg d off
  | 7 => tmReg d off
  | 8 => mediaBlockReg d off
  | 9 => audReg d off
  | 10 => vidReg d off
  | 11 => flockReg d off
  | 12 => droveReg d off
  | 13 => integReg d off
  | 14 => if off = 0 then foldStatus d (domOn d 1) else foldReg d off
  | 15 => cascReg d off
  | 16 => pwrReg d off
  | _ => 0

/-- What a read of a register clears (R7). -/
def regReadClear (d : Dev) (blk off : Nat) : Dev :=
  match blk with
  | 0 => sysReadClear d off
  | 1 => if 0x100 ≤ off ∧ off < 0x180 ∧ off % 0x20 = 0x14 then onBell d (fun b => { b with tsqDrop := tdel b.tsqDrop ((off - 0x100) / 0x20) }) else d
  | 2 => accReadClear d off
  | 3 => imcReadClear d off
  | 4 => laneReadClear d off
  | 6 => parseReadClear d off
  | 7 => tmReadClear d off
  | 9 => audReadClear d off
  | 10 => vidReadClear d off
  | 11 => flockReadClear d off
  | 12 => droveReadClear d off
  | 13 => integReadClear d off
  | 15 => cascReadClear d off
  | 16 => pwrReadClear d off
  | _ => d

/-- Whether the map marks a register as command-managed (R38). LN_CTRL_n is taken as managed from the seal on, for its polarity fields are the host's before it (R338; log 166). -/
def regManaged (d : Dev) (blk off : Nat) : Bool :=
  match blk with
  | 1 => bellHas off && !(off == 0x10 || off == 0x50 || (0x100 ≤ off && off < 0x180 && (off % 0x20 == 0xC || off % 0x20 == 0x14)) || (0x200 ≤ off && off < 0x240))
  | 2 =>
    let o := off % 0x40000
    !(0x2000 ≤ off && off < 0x3000) && ((0xC ≤ o && o ≤ 0x1C) || o == 0x80 || (0x400 ≤ o && o < 0x500))
  | 3 => 0x1000 ≤ off && off < 0x2000 && off % 0x40 == 0
  | 4 =>
    (off < 0x20000 && off % 0x1000 == 0 && !(inTest d (off / 0x1000)) && d.fold.boot.sealed) || (0x20000 ≤ off && off < 0x20500 && off % 0x100 == 0)
  | 5 =>
    let o := off % 0x10000
    off == 0x80000 || (regHas 5 off && !(o == 4 || o == 0x18 || o == 0x24 || (0x300 ≤ o && o ≤ 0x308)))
  | 6 => parseManaged off
  | 7 => tmManaged off
  | 8 => (0xE000 ≤ off && off < 0xE408) || (0xE410 ≤ off && off ≤ 0xE420)
  | 9 => 0x1000 ≤ off && off < 0x1200 && off % 0x40 == 0
  | 10 => (0x10 ≤ off && off ≤ 0x1C) || (0x30 ≤ off && off ≤ 0x38)
  | 11 => decide (off ≤ 4)
  | 12 => 0x1000 ≤ off && off < 0x2C00 && decide (off % 0x40 ≤ 0xC)
  | 13 => integManaged off
  | 15 => (0x1000 ≤ off && off ≤ 0x1008) || off == 0x1014 || (0x1100 ≤ off && off < 0x1140)
  | 16 => (0x10 ≤ off && off ≤ 0x20) || off == 0x30
  | _ => false

/-- A host's write of a register that is not command-managed. -/
def regWrite (d : Dev) (blk off : Nat) (v : Word) : Dev :=
  match blk with
  | 0 => (sysWrite d off v).getD d
  | 1 => bellWrite d off v.toNat
  | 2 => (accWrite d off v).getD d
  | 3 => imcWrite d off v.toNat
  | 4 => (laneWrite d off v.toNat).getD d
  | 5 => (cliWrite d off v).getD d
  | 7 => tmWrite d off v.toNat
  | 9 => audWrite d off v.toNat
  | 12 => (droveWrite d off v.toNat).getD d
  | 13 => integWrite d off v.toNat
  | 16 => (pwrWrite d off v).getD d
  | _ => d

end Sys2Proof.Machine
end

