-- ==== Sys2Proof/Machine/Image.lean ====
section
/-! DEFINITION. The canonical image of each block and its digest (R457 to R459). -/

namespace Sys2Proof.Machine

/-! ### Layouts -/

/-- Zero bytes. -/
def zeroBytes (n : Nat) : List Byte := List.replicate n 0#8

/-- A record in an image: its 4-byte index, then its bytes (R457). -/
def imageRec (index : Nat) (bs : List Byte) : List Byte := leBytes index 4 ++ bs

/-- Registers in an image: 4 bytes of each, under a mask of what is not left out (R457, R458). -/
def imageRegs (d : Dev) (blk : Nat) (regs : List (Nat × Nat)) : List Byte :=
  regs.flatMap (fun e => leBytes (regValue d blk e.1 &&& e.2) 4)

/-- A register array: `n` registers from `base` at a stride, each whole. -/
def regArray (base stride n : Nat) : List (Nat × Nat) := (List.range n).map (fun i => (base + stride * i, 0xFFFFFFFF))

/-! ### Records in their command layout -/

/-- TM_SHAPER_SET's parameters (R421). -/
def shaperBytes (level number : Nat) (b : Bucket) : List Byte := layBytes [(1, level), (2, number), (1, b2n b.en), (4, b.rate), (4, b.burst)]

/-! ### Images -/

/-- The registers of a slice that count (R259): rate, timers and flap control, the flaps counted apart. -/
def accImageRegs : List (Nat × Nat) :=
  (List.range 4).flatMap (fun n => [(0xC, 0xFFFFFFFF), (0x10, 0xFFFFFFFF), (0x14, 0xFFFFFFFF), (0x18, 0xFFFFFFFF), (0x1C, 0xFFFFFF)].map
    (fun e => (0x40000 * n + e.1, e.2)))

/-- ACC. -/
def accImage (d : Dev) : List Byte :=
  imageRegs d 2 accImageRegs ++ imageRec 0 (accCfgBytes d.acc.cfg) ++ imageRec 0 (layBytes [(1, d.acc.bond.mask), (1, b2n d.acc.bond.request)])

/-- BELL: what hardware writes, OFFSET from the head end and RATE under AUTO_RATE, is left out, as is what describes the board (R458). -/
def bellImage (d : Dev) : List Byte :=
  imageRegs d 1 ([(0x00, 0xFFFFFFFF)] ++ (if d.bell.lock.todSrc then [] else regArray 0x30 4 4)
    ++ (if d.bell.lock.autoRate then [] else [(0x40, 0xFFFFFFFF)])
    ++ [(0x4C, 0xFFFFFFFF), (0x80, 0xFFFFFFFF), (0x88, 0xFFFFFFFF), (0x90, 0xFFFFFFFF), (0x410, 0x0F000000)])

/-- LANE: LN_CTRL_n without its polarity where it is command-managed, and GRP_CTRL_g. -/
def laneImage (d : Dev) : List Byte :=
  imageRegs d 4 (((List.range 31).filter (fun n => !inTest d n)).map (fun n => (0x1000 * n, 0xFFFFFFF3)) ++ regArray 0x20000 0x100 5)

/-- CLI: every register but status, snapshots, maps and counters. -/
def cliImage (d : Dev) : List Byte :=
  imageRegs d 5 ((List.range 5).flatMap (fun p => (([0, 8, 0xC, 0x10, 0x14, 0x20, 0x28] ++ (List.range 32).map (fun i => 0x100 + 4 * i)).map
    (fun o => (0x10000 * p + o, 0xFFFFFFFF)))) ++ [(0x80000, 0xFFFFFFFF)])

/-- PARSE: tables 0 to 7 are placement, and left out (R458). -/
def parseImage (d : Dev) : List Byte :=
  imageRegs d 6 ([(0, 0xFFFFFFFF), (0x100, 0xFFFFFFFF)]
    ++ ((List.range 15).filter parsePortExists).flatMap (fun q => [(0x1000 + 0x40 * q, 0xFFFFFFFF), (0x1004 + 0x40 * q, 0xFFFFFFFF)])
    ++ [(0x3000, 0xFFFFFFFF), (0x3020, 0xFFFFFFFF)] ++ regArray 0x3100 4 64 ++ regArray 0x3200 4 64
    ++ (List.range 56).flatMap (fun t => regArray (0x20000 + 0x800 * (t + 8)) 4 512))
  ++ d.parse.rules.flatMap (fun e => imageRec e.1 (ruleBytes e.2.rule))
  ++ d.parse.ports.flatMap (fun e => imageRec e.1 (actionBytes e.2.action ++ layBytes [(1, e.2.ooo)]))
  ++ (List.range 64).flatMap (fun p => imageRec p (layBytes [(2, hashFieldsOf d p), (4, (hashSeedOf d p).toNat)]))
  ++ (List.range 56).flatMap (fun t => imageRec (t + 8) ((List.range 512).flatMap (fun i => leBytes (indirOf d (t + 8) i) 2)))

/-- A host queue's fields as TM_QUEUE_SET carries them (R421). -/
def queueBytes (q : TmQueue) : List Byte :=
  layBytes [(2, q.group), (1, q.slot), (4, q.quantum), (4, q.limitG), (1, q.yPct), (1, q.rPct), (1, b2n q.deep), (4, q.sojAlarm)]

/-- TM: the queues and groups of the host; those of legs, trunks and the device are derived (R458). -/
def tmImage (d : Dev) : List Byte :=
  let qs := d.tm.queues.filter (fun e => e.2.owner == .host)
  let gs := d.tm.groups.filter (fun e => e.2.kind == .host)
  imageRegs d 7 ([(0, 0xFFFFFFFF)] ++ qs.flatMap (fun e => regArray (0x10000 + 0x40 * e.1) 4 7)
    ++ gs.flatMap (fun e => regArray (0x90000 + 0x20 * e.1) 4 4)
    ++ ((List.range 512).filter (fun n => rootExists d (512 + n))).flatMap (fun n => regArray (0x90000 + 0x20 * (512 + n)) 4 4)
    ++ (List.range 16384).flatMap (fun f => regArray (0xA0000 + 0x10 * f) 4 2) ++ (List.range 1024).flatMap (fun m => regArray (0xE0000 + 0x20 * m) 4 5)
    ++ regArray 0xF0000 4 256)
  ++ qs.flatMap (fun e => imageRec e.1 (queueBytes e.2))
  ++ gs.flatMap (fun e => imageRec e.1 (layBytes [(2, e.2.root), (1, e.2.band), (4, e.2.quantum)]))
  ++ (d.tm.queues.filter (fun e => e.2.shaper.en)).flatMap (fun e => imageRec e.1 (shaperBytes 0 e.1 e.2.shaper))
  ++ (d.tm.groups.filter (fun e => e.2.shaper.en)).flatMap (fun e => imageRec e.1 (shaperBytes 1 e.1 e.2.shaper))
  ++ (d.tm.roots.filter (fun e => e.2.shaper.en)).flatMap (fun e => imageRec e.1 (shaperBytes 2 e.1 e.2.shaper))
  ++ (d.tm.policers.filter (fun e => e.2.bucket.en)).flatMap (fun e => imageRec e.1 (layBytes [(2, e.1), (1, 1), (4, e.2.bucket.rate), (4, e.2.bucket.burst)]))
  ++ d.tm.meters.flatMap (fun e => imageRec e.1 (layBytes [(2, e.1), (1, e.2.mode), (1, e.2.yellowAct), (1, e.2.redAct), (4, e.2.c.rate), (4, e.2.c.burst),
      (4, e.2.p.rate), (4, e.2.p.burst)]))
  ++ d.tm.meterMap.flatMap (fun e => imageRec e.1 (layBytes [(1, e.1 / 16), (1, e.1 % 16), (2, e.2)]))

/-- MEDIA: the conferences, and the legs as commanded. -/
def mediaImage (d : Dev) : List Byte :=
  imageRegs d 8 [(0xE410, 0xFFFFFFFF), (0xE414, 0xFFFFFFFF), (0xE418, 0xFFFFFFFF)]
  ++ d.media.confs.flatMap (fun e => imageRec e.1 (confBytes e.2.rcd))
  ++ (d.media.legs.filter (fun e => e.2.st != .free)).flatMap (fun e => imageRec e.1 (legBytes e.2.rcd))

/-- The parameters of a block of a set, two bytes each (R139). -/
def paramBytes (d : Dev) (block : Nat) (codes : List Nat) : List Byte := codes.flatMap (fun k => leBytes (twos 16 (paramIn d block k true)) 2)

/-- The parameters of a conference's block (R122, R125, R130). -/
def confCodes : List Nat := List.range 8 ++ (List.range 17).flatMap (fun ch => (List.range 10).map (fun k => 16 + 16 * ch + k))

/-- AUD: the headset registers describe the board, and are left out (R458). -/
def audImage (d : Dev) : List Byte :=
  imageRegs d 9 (regArray 0x1000 0x40 8)
  ++ d.aud.routes.flatMap (fun e => imageRec e.1 (routeBytes e.2.rcd))
  ++ d.aud.tdm.flatMap (fun e => imageRec e.1 (tdmBytes e.2.cfg))
  ++ imageRec 0 ((List.range 0x400).flatMap (fun c => paramBytes d c confCodes) ++ (List.range 8).flatMap (fun t => paramBytes d (0x400 + t) (List.range 33)))
  ++ imageRec 1 (paramBytes d 0x800 [0, 1, 2]) ++ imageRec 2 (paramBytes d 0x801 [0, 1, 2])
  ++ (d.aud.routes.filter (fun e => !e.2.rcd.output && e.2.rcd.role == 2)).flatMap
      (fun e => imageRec e.1 (layBytes [(2, e.1), (1, b2n e.2.consoleLive), (1, e.2.listen)]))

/-- VID: the load registers are derived, and left out. -/
def vidImage (d : Dev) : List Byte :=
  imageRegs d 10 [(0x30, 0xFFFFFFFF), (0x34, 0xFFFFFFFF), (0x38, 0xFFFFFFFF)]
  ++ d.vid.layouts.flatMap (fun e => imageRec e.1 (layoutBytes e.2))
  ++ d.vid.contribs.flatMap (fun e => imageRec e.1 (contribBytes e.2.rcd))
  ++ d.vid.subs.flatMap (fun e => imageRec e.1 (subBytes e.1 e.2))

/-- FLOCK: PROGRAM_ID, VERSION and DIGEST of each logical engine's image, or zeros. SPARES_FREE is what hardware counts. -/
def flockImage (d : Dev) : List Byte :=
  imageRegs d 11 [(0, 0xFFFFFFFF)]
  ++ (List.range 256).flatMap (fun n => imageRec n (match runningImage d n with
    | some i => layBytes [(4, i.programId), (4, i.version)] ++ beBytes i.digest 32
    | none => zeroBytes 40))

/-- INTEG: the firmware's check-value units count with their configuration, not with what they compute. -/
def integImage (d : Dev) : List Byte :=
  imageRegs d 13 ([(4, 0xFFFFFFFF)]
    ++ (List.range 8).flatMap (fun k => [(0x18, 0xFFFFFFFF), (0x20, 0xFFFFFFFF), (0x24, 0xFFFFFFFF), (0x28, 0x2FF)].map (fun e => (0x1000 + 0x40 * k + e.1, e.2)))
    ++ (List.range 48).map (fun u => (0x4000 + 0x40 * u, 0x0F03)))

/-- FOLD: the SHA-256 of each key slot's modulus, and the rollback counters. -/
def foldImage (d : Dev) : List Byte :=
  ((d.fold.keylist.map (·.keys)).getD []).flatMap (fun e => imageRec e.1 (beBytes (Config.sha256 (beBytes e.2 384)) 32))
  ++ d.fold.otp.rollback.flatMap (fun e => imageRec e.1 (layBytes [(4, e.2.1), (4, e.2.2)]))

/-- The canonical image of a block, by its place in base order (R457; log 48 for what counts as hardware-written or derived). -/
def blockImage (i : Nat) (d : Dev) : List Byte :=
  match i with
  | 1 => bellImage d
  | 2 => accImage d
  | 3 => imageRegs d 3 ((List.range 64).map (fun t => (0x1000 + 0x40 * t, 0xFFFF))) ++ d.imc.trunks.flatMap (fun e => imageRec e.1 (trunkBytes e.2.rcd))
  | 4 => laneImage d
  | 5 => cliImage d
  | 6 => parseImage d
  | 7 => tmImage d
  | 8 => mediaImage d
  | 9 => audImage d
  | 10 => vidImage d
  | 11 => flockImage d
  | 12 => imageRegs d 12 ((List.range 112).flatMap (fun c => regArray (0x1000 + 0x40 * c) 4 4))
  | 13 => integImage d
  | 14 => foldImage d
  | 15 => imageRegs d 15 [(0x1000, 0xFFFFFFFF), (0x1004, 0xF)]
  | 16 => imageRegs d 16 [(0x10, 0xFFFFFFFF), (0x14, 0xFFFFFFFF), (0x18, 0xFFFFFFFF), (0x1C, 0xFFFFFFFF), (0x20, 0xFFFFFFFF), (0x30, 0xFFFFFFFF)]
  | _ => []

/-- Every block's digest from the state in force (R457). -/
def digestsNow (d : Dev) : Tbl (BitVec 64) := (List.range 17).map (fun i => (i, crc64 (blockImage i d)))

/-- The device digest: the mask, then 17 digests, zero where the mask leaves a block out (R459). -/
def deviceDigest (mask : Nat) (blocks : Tbl (BitVec 64)) : BitVec 64 :=
  crc64 (leBytes mask 4 ++ (List.range 17).flatMap (fun i => if mask.testBit i then leBytes (tgetD blocks i 0).toNat 8 else zeroBytes 8))

end Sys2Proof.Machine
end

