-- ==== Sys2Proof/Machine/Digest.lean ====
section
/-! DEFINITION. Publication, drift and comparison of digests, the INTEG commands, and the attestation report (R460 to R464, R492). -/

namespace Sys2Proof.Machine

/-! ### Publication (R460 to R462) -/

/-- The DIGEST frame (R539). -/
def sendDigest (d : Dev) : Dev := broadcast d .digestFrame .control (ctlBytes (.digest d.integ.mask d.integ.dev d.integ.epoch))

/-- A drift check: a block whose digest differs from the one published has drifted; the new digest is published and the block is rewritten at
the next bell (R461). -/
def driftCheck (drifted : Tbl (BitVec 64)) (d : Dev) : Dev :=
  let bad := drifted.filter (fun e => decide (e.1 < 17 ∧ tgetD d.integ.blocks e.1 0 ≠ e.2))
  if bad = [] then sendDigest d
  else
    let blocks := bad.foldl (fun t e => tset t e.1 e.2) d.integ.blocks
    let d := onInteg d (fun i => { i with
      blocks := blocks, dev := deviceDigest i.mask blocks, valid := true, cure := true,
      drift := bad.foldl (fun m e => m ||| 2 ^ e.1) i.drift })
    sendDigest (raiseLeaf d 21 20)

/-- The digests published, tagged with the epoch of the bell they describe; a drift check that waited runs (R460, R463). -/
def publishDigests (d : Dev) : Dev :=
  let blocks := digestsNow d
  let held := d.integ.driftHeld
  let d := onInteg d (fun i => { i with
    blocks := blocks, dev := deviceDigest i.mask blocks, epoch := i.nextEpoch, valid := true, busy := false, driftHeld := none })
  match held with
  | none => sendDigest d
  | some t => driftCheck t (sendDigest d)

/-- DIGEST_PUBLISH: within 16 ticks of the latest change (R460). -/
def execDigestPublish (s : State) : Host.Outcome State Fault Refusal :=
  nextDev s (fun d => if d.integ.busy ∧ domOn d 2 then publishDigests d else d)

/-- DIGEST_DRIFT_CHECK: `drifted` holds the digests found of blocks whose state has drifted; while a recomputation is in progress the check
waits (R461, R463). -/
def execDigestDriftCheck (drifted : Tbl (BitVec 64)) (s : State) : Host.Outcome State Fault Refusal :=
  nextDev s (fun d =>
    if ¬ domOn d 2 then d
    else if d.integ.busy then onInteg d (fun i => { i with driftHeld := some drifted })
    else driftCheck drifted d)

/-- A recomputation begun at a bell whose configuration changed, or that rewrites a block that has drifted (R460, R461). -/
def beginDigests (changed : Bool) (d : Dev) : Dev :=
  if changed ∨ d.integ.cure then
    onInteg d (fun i => { i with busy := true, cure := false, nextEpoch := epochInForce d.sys })
  else d

/-- Bit `n` of a map set or cleared. -/
def mapBit (m n : Nat) (on : Bool) : Nat := if on then m ||| 2 ^ n else if m.testBit n then m - 2 ^ n else m

/-- A peer's digest taken and compared (R462). -/
def peerDigest (peer : Nat) (peerBusy : Bool) (mask : Nat) (digest : BitVec 64) (epoch : Word) (d : Dev) : Dev :=
  let d := onInteg d (fun i => { i with
    peers := tset i.peers peer { digest := digest, epoch := epoch, mask := mask }, maskDiff := mapBit i.maskDiff peer (mask != i.mask) })
  if mask ≠ d.integ.mask ∨ d.integ.busy ∨ peerBusy then d
  else
    let diff := digest != d.integ.dev
    raiseIf diff (onInteg d (fun i => { i with mismatch := mapBit i.mismatch peer diff })) 21 21

/-- CASC_DIGEST_RX (R462, R539). -/
def execCascDigestRx (h : CascHdr) (peerBusy : Bool) (mask : Nat) (digest : BitVec 64) (epoch : Word) (s : State) : Host.Outcome State Fault Refusal :=
  nextDev s (cascCtlRx h (.digest mask digest epoch) false .digestFrame
    (fun d => if h.src < 16 then peerDigest h.src peerBusy mask digest epoch d else d))

/-! ### Commands (R464) -/

/-- INTEG_QUERY. -/
def actIntegQuery (item : Nat) (_v d : Dev) : ActResult :=
  match item with
  | 0 => .read (byteData (eachBytes 4 ((List.range 8).flatMap (fun k => [(intClass d k).ce.toNat, (intClass d k).ue.toNat])))) d
  | 1 => .read (byteData ([0, 1].flatMap (fun k => (stackOf d k).remap.flatMap (fun r => layBytes [(1, k), (4, r.1), (4, r.2)])))) d
  | 2 => .read (byteData (eachBytes 8 ((List.range 17).map (fun i => (tgetD d.integ.blocks i 0).toNat)))) d
  | _ => .refuse .badParam 0 0

/-- INTEG_SCRUB_SET (R447, R448). -/
def actIntegScrubSet (cls rate : Nat) (v d : Dev) : ActResult :=
  if cls > 7 then .refuse .badParam 0 0
  else if rate > (if cls < 6 then 4095 else 50000) then .refuse .badParam 0 1
  else if cls ≥ 6 ∧ rate + scrubRate v (13 - cls) + 1024 > allotOf v 23 then .refuse .noResource 0 noField
  else .stage false 0 [] none d

/-- A scrub rate written at its bell. -/
def applyIntegScrubSet (cls rate : Nat) (d : Dev) : Dev := onIntClass d cls (fun c => { c with rate := some rate })

/-- INTEG_FLIP (R452). -/
def actIntegFlip (cls : Nat) (data : BitVec 64) (check matchAddr : Nat) (addr : BitVec 64) (_v d : Dev) : ActResult :=
  let _ := (data, addr)
  if cls > 7 then .refuse .badParam 0 0
  else if check > 255 then .refuse .badParam 0 9
  else if matchAddr > 1 then .refuse .badParam 0 10
  else .stage false 0 [] none d

/-- A flip mask armed at its bell. -/
def applyIntegFlip (cls : Nat) (data : BitVec 64) (check matchAddr : Nat) (addr : BitVec 64) (d : Dev) : Dev :=
  onIntClass d cls (fun c => { c with
    flipData := data, flipCheck := check, arm := true, match_ := matchAddr == 1, flipDone := false, flipAddr := addr })

/-- INTEG_DIGEST_CONFIG (R459). -/
def actIntegDigestConfig (mask : Nat) (_v d : Dev) : ActResult := if mask ≥ 2 ^ 17 then .refuse .badParam 0 0 else .stage false 0 [] none d

/-- DIGEST_MASK written at its bell. -/
def applyIntegDigestConfig (mask : Nat) (d : Dev) : Dev := onInteg d (fun i => { i with mask := mask })

/-- INTEG_DIGEST_DUMP (R462, R464): the image's length is the reply's data. -/
def actIntegDigestDump (block offset : Nat) (v d : Dev) : ActResult :=
  let n := (blockImage block v).length
  if block > 16 then .refuse .badParam 0 0
  else if offset + n > pastureSize then .refuse .badParam 0 1
  else .stage false 0 [n] none d

/-- A block's image written into Pasture at its bell, on the Drove's own credits (R24, R25). -/
def applyIntegDigestDump (block offset : Nat) (d : Dev) : Dev :=
  let bs := blockImage block d
  pastWritten (postMem (chargeClass d 21 (lineCount offset bs.length)) offset bs) offset bs.length

/-- The row of a stack in which a Pasture offset lies (R449). -/
def rowAt (offset : Nat) : Nat := offset % 0x400000000 / 1024

/-- Whether a row has been remapped. -/
def rowMapped (d : Dev) (stack row : Nat) : Bool := (stackOf d stack).remap.any (fun r => r.1 == row)

/-- INTEG_REMAP (R450, R464). -/
def actIntegRemap (stack offset thr : Nat) (v d : Dev) : ActResult :=
  if stack > 1 then .refuse .badParam 0 0
  else if offset / 0x400000000 ≠ stack then .refuse .badParam 0 1
  else if thr > 15 then .refuse .badParam 0 9
  else if ¬ rowMapped v stack (rowAt offset) ∧ (stackOf v stack).free ≤ (stackOf v stack).copying.length then .refuse .noResource 0 noField
  else .stage false 0 [] none d

/-- A row made a candidate at its bell, and the threshold written; a row already remapped changes nothing. -/
def applyIntegRemap (stack offset thr : Nat) (d : Dev) : Dev :=
  let row := rowAt offset
  if rowMapped d stack row then d
  else
    let d := if thr = 0 then d else onInteg d (fun i => { i with rowThr := thr })
    if (stackOf d stack).cands.any (fun c => c.1 == row) ∨ (stackOf d stack).copying.contains row then d
    else onStack d stack (fun x => { x with cands := x.cands ++ [(row, d.bell.tick)] })

/-! ### Attestation (R492) -/

/-- The bytes of the generation in force that CHECK covers (R493). -/
def otpBytes (gen : Nat) (f : OtpFields) : List Byte :=
  layBytes [(2, 0xF07C), (1, gen)] ++ otpFieldBytes f true

/-- FLAGS of the report. -/
def attestFlags (d : Dev) : Nat :=
  let g := d.fold.guard
  b2n g.sealIntact + 2 * b2n g.sealHist + 4 * b2n d.fold.debugUnlocked + 8 * b2n (g.window == .jumper) + 16 * b2n d.fold.keylist.isSome
    + 32 * b2n d.fold.boot.sealed

/-- The DIGEST of the KIND 0 image that a group last loaded, zero while LOADING. -/
def groupDigest (d : Dev) (g : Nat) : Nat :=
  let x := groupOf d g
  if x.st = .loading then 0 else (x.image.map (·.digest)).getD 0

/-- The report, each field with its bytes, its value and whether it is a byte string. -/
def attestFields (nonce : Nat) (d : Dev) : List (Nat × Nat × Bool) :=
  [(4, 0x41545331, false), (2, 1, false), (1, b2n Config.gradeE, false), (1, attestFlags d, false), (4, sysIdent, false), (8, deviceSerial, true),
    (1, d.fold.boot.otpGen, false), (1, (otpRules d).rootEpoch, false), (1, d.fold.boot.foldSlot + 2 * d.fold.boot.ctrlSlot, false), (1, 0, false),
    (32, (match d.fold.boot.otpInForce with
      | some f => Config.sha256 (otpBytes d.fold.boot.otpGen f)
      | none => 0), true),
    (32, nonce, true), (8, d.bell.tick.toNat, false), (8, d.integ.dev.toNat, false), (4, d.integ.epoch.toNat, false), (4, d.integ.mask, false),
    (32, (d.fold.boot.runFold.map (·.digest)).getD 0, true), (32, (d.fold.boot.runCtrl.map (·.digest)).getD 0, true)]
  ++ (List.range 16).map (fun g => (32, groupDigest d g, true))
  ++ [(32, (d.fold.keylist.map keylistHash).getD 0, true)]
  ++ (List.range 32).flatMap (fun k => match tget d.fold.otp.rollback k with
    | some e => [(4, e.1, false), (4, e.2, false)]
    | none => [(4, 0, false), (4, 0, false)])
  ++ [(32, Config.sha256 (beBytes Config.importModulus 384), true), (16, 0, false)]

/-- The report's bytes 0 to 1,023. -/
def attestBytes (fields : List (Nat × Nat × Bool)) : List Byte :=
  fields.flatMap (fun f => if f.2.2 then beBytes f.2.1 f.1 else leBytes f.2.1 f.1)

/-- TRUST_ATTEST: the fields of the report, then its signature (R492). -/
def actTrustAttest (nonce : Nat) (_v d : Dev) : ActResult :=
  let f := attestFields (nonce % 2 ^ 256) d
  .read (byteData (attestBytes f ++ beBytes (Config.identitySign (attestBytes f)) 384)) d

end Sys2Proof.Machine
end

