-- ==== Sys2Proof/Machine/Acts.lean ====
section
/-! DEFINITION. For each Kervon command: its own conditions and effect at dequeue, the change it makes at its bell, whether presence gates it,
and the domains it reads or changes. -/

namespace Sys2Proof.Machine

/-- The domain of a slice. -/
def sliceDom (n : Nat) : List Nat := if n < 4 then [4 + n] else []

/-- The domains of the slices of a mask. -/
def maskDoms (mask : Nat) : List Nat := (maskSlices mask).flatMap sliceDom

/-- The domain of a client port's registers (R559). -/
def portDom (p : Nat) : List Nat := if p < 4 then [10] else [13]

/-- The domain of a memory class that has one of its own. -/
def classDom (k : Nat) : List Nat := if k = 1 then [15] else if k = 6 ∨ k = 7 then [16] else []

/-- A command's own conditions and effect at its dequeue. -/
def actOf (c : KCmd) : Dev → Dev → ActResult :=
  match c with
  | .sysQuery => actSysQuery
  | .pastureAllotSet allots => actPastureAllotSet allots
  | .pastureQuery => actPastureQuery
  | .timeConfig cfg => actTimeConfig cfg
  | .timeSet offset bound => actTimeSet offset bound
  | .timeRate rate => actTimeRate rate
  | .timeOffsetConfirm action => actTimeOffsetConfirm action
  | .mgmtConfig addr port idle => actMgmtConfig addr port idle
  | .mgmtSessionQuery => actMgmtSessionQuery
  | .mgmtSessionClose session => actMgmtSessionClose session
  | .fwStoreWrite kind slot offset img => actFwStoreWrite kind slot offset img
  | .fwRecover kind hostAddr length img => actFwRecover kind hostAddr length img
  | .hostPktTx twoStep tag frame stamp now => actHostPktTx twoStep tag frame stamp now
  | .hostPktConfig ring enable => actHostPktConfig ring enable
  | .diagOmciRead slice cls inst mask => actDiagOmciRead slice cls inst mask
  | .diagOmciList slice cls => actDiagOmciList slice cls
  | .confCreate rcd => actConfCreate rcd
  | .confModify rcd mask => actConfModify rcd mask
  | .confDestroy conf withLegs => actConfDestroy conf withLegs
  | .confQuery conf => actConfQuery conf
  | .legCreate rcd => actLegCreate rcd
  | .legModify rcd mask => actLegModify rcd mask
  | .legDestroy leg => actLegDestroy leg
  | .legRekey leg saIn saOut => actLegRekey leg saIn saOut
  | .legMigrate leg target => actLegMigrate leg target
  | .legQuery leg => actLegQuery leg
  | .placeSet profile first engines => actPlaceSet profile first engines
  | .placeQuery profile first count => actPlaceQuery profile first count
  | .statusTableSet offset enable => actStatusTableSet offset enable
  | .routeSet rcd => actRouteSet rcd
  | .routeClear route => actRouteClear route
  | .routeQuery route => actRouteQuery route
  | .consoleSet route live listen => actConsoleSet route live listen
  | .audParamWrite set block data => actAudParamWrite set block data
  | .audParamRead set bank block first count => actAudParamRead set bank block first count
  | .audCommit sets => actAudCommit sets
  | .portTdmConfig rcd => actPortTdmConfig rcd
  | .portQuery kind number => actPortQuery kind number
  | .confAudioQuery conf => actConfAudioQuery conf
  | .contribSet rcd => actContribSet rcd
  | .subscribeSet leg entries => actSubscribeSet leg entries
  | .layoutSet rcd => actLayoutSet rcd
  | .layoutClear layout => actLayoutClear layout
  | .layoutQuery layout => actLayoutQuery layout
  | .vidConfig small mid large => actVidConfig small mid large
  | .intraRequest kind a b => actIntraRequest kind a b
  | .vidQuery item => actVidQuery item
  | .engineLoad offset engines img => actEngineLoad offset engines img
  | .engineUnload engines => actEngineUnload engines
  | .groupUpdate group offset img => actGroupUpdate group offset img
  | .flockQuery engine => actFlockQuery engine
  | .accConfig cfg => actAccConfig cfg
  | .accEnable mask stopHeld => actAccEnable mask stopHeld
  | .accDisable mask gasp => actAccDisable mask gasp
  | .accQuery slice => actAccQuery slice
  | .accKillRelease slice => actAccKillRelease slice
  | .accBondConfig mask request => actAccBondConfig mask request
  | .accChannelLeave slice => actAccChannelLeave slice
  | .accBondQuery => actAccBondQuery
  | .imcTrunkSet rcd => actImcTrunkSet rcd
  | .imcTrunkClear trunk => actImcTrunkClear trunk
  | .imcTrunkQuery trunk => actImcTrunkQuery trunk
  | .laneQuery lane => actLaneQuery lane
  | .laneGroupConfig group mode flags => actLaneGroupConfig group mode flags
  | .laneRecal lane => actLaneRecal lane
  | .laneSpare group lane action => actLaneSpare group lane action
  | .cliConfig mode => actCliConfig mode
  | .cliPath port att => actCliPath port att
  | .cliPortConfig port f => actCliPortConfig port f
  | .cliAddrSet port entry addr valid => actCliAddrSet port entry addr valid
  | .cliMacsecSet port validate replay enable => actCliMacsecSet port validate replay enable
  | .cliMacsecSa port dir sci an handle => actCliMacsecSa port dir sci an handle
  | .cliPortQuery port => actCliPortQuery port
  | .parseRuleSet pipe index rule => actParseRuleSet pipe index rule
  | .parseRuleClear pipe first count => actParseRuleClear pipe first count
  | .parseRuleQuery pipe index clear => actParseRuleQuery pipe index clear
  | .parsePortSet port action ooo => actParsePortSet port action ooo
  | .parseHashProfileSet profile fields seed => actParseHashProfileSet profile fields seed
  | .parseHashTableSet profile first entries => actParseHashTableSet profile first entries
  | .parseFragConfig age => actParseFragConfig age
  | .parseQuery item leg => actParseQuery item leg
  | .tmQueueAlloc f => actTmQueueAlloc f
  | .tmQueueSet queue f sojAlarm => actTmQueueSet queue f sojAlarm
  | .tmQueueFree queue => actTmQueueFree queue
  | .tmGroupSet group root band quantum create => actTmGroupSet group root band quantum create
  | .tmShaperSet level number enable rate burst => actTmShaperSet level number enable rate burst
  | .tmRootSet root adj => actTmRootSet root adj
  | .tmPolicerSet policer enable rate burst => actTmPolicerSet policer enable rate burst
  | .tmMeterSet meter f => actTmMeterSet meter f
  | .tmMeterMapSet port cls meter => actTmMeterMapSet port cls meter
  | .tmBufConfig high deepMib short => actTmBufConfig high deepMib short
  | .tmQuery item number => actTmQuery item number
  | .integQuery item => actIntegQuery item
  | .integScrubSet cls rate => actIntegScrubSet cls rate
  | .integFlip cls data check matchAddr addr => actIntegFlip cls data check matchAddr addr
  | .integDigestConfig mask => actIntegDigestConfig mask
  | .integDigestDump block offset => actIntegDigestDump block offset
  | .integRemap stack offset thr => actIntegRemap stack offset thr
  | .trustQuery clear => actTrustQuery clear
  | .trustIdentity => actTrustIdentity
  | .trustAttest nonce => actTrustAttest nonce
  | .trustImportKey => actTrustImportKey
  | .trustBootSeal => actTrustBootSeal
  | .trustKeylistLoad list => actTrustKeylistLoad list
  | .trustFwVerify _ img => actTrustFwVerify img
  | .trustSessionOpen _ transportKey => actTrustSessionOpen transportKey
  | .trustSessionClose session => actTrustSessionClose session
  | .trustBaseImport session wrapped secret => actTrustBaseImport session wrapped secret
  | .trustBaseDestroy base => actTrustBaseDestroy base
  | .saCreate src => actSaCreate src
  | .saDestroy handle => actSaDestroy handle
  | .saQuery handle => actSaQuery handle
  | .trustRollbackCommit program => actTrustRollbackCommit program
  | .trustOtpCommit fields zeroOk => actTrustOtpCommit fields zeroOk
  | .trustRootRotate => actTrustRootRotate
  | .trustDebugUnlock => actTrustDebugUnlock
  | .trustFactoryReset => actTrustFactoryReset
  | .trustPresenceClose => actTrustPresenceClose
  | .cascConfig domain device ports base gen => actCascConfig domain device ports base gen
  | .cascQuery => actCascQuery
  | .cascConfBind tag home => actCascConfBind tag home
  | .cascTwinSet twin => actCascTwinSet twin
  | .cascTakeover => actCascTakeover
  | .cascSaPair handle other => actCascSaPair handle other
  | .ctrlFwSwap slot shared => actCtrlFwSwap slot shared
  | .pwrSeason season => actPwrSeason season
  | .pwrWinter banks keep thaw linkWait => actPwrWinter banks keep thaw linkWait
  | .pwrDomainSet domain on => actPwrDomainSet domain on
  | .pwrAlarmSet value enable => actPwrAlarmSet value enable
  | .pwrAutumnConfig minGroups high low flags => actPwrAutumnConfig minGroups high low flags
  | .pwrQuery => actPwrQuery
  | .undefinedOpcode _ => fun _ _ => .refuse .badOpcode 0 noField

/-- The change that a staged command makes at its bell, with the engine or number chosen for it; the answer says whether its DONE is due now. -/
def applyOf (c : KCmd) (pick : Nat) (ctx : ReplyCtx) (data : List Nat) (d : Dev) : Dev × Bool :=
  match c with
  | .sysQuery => (d, true)
  | .pastureAllotSet allots => (applyPastureAllotSet allots d, true)
  | .pastureQuery => (d, true)
  | .timeConfig cfg => (applyTimeConfig cfg d, true)
  | .timeSet offset bound => (applyTimeSet offset bound d, true)
  | .timeRate rate => (applyTimeRate rate d, true)
  | .timeOffsetConfirm action => (applyTimeOffsetConfirm action d, true)
  | .mgmtConfig addr port idle => (applyMgmtConfig addr port idle d, true)
  | .mgmtSessionQuery => (d, true)
  | .mgmtSessionClose _ => (d, true)
  | .fwStoreWrite _ _ _ _ => (d, true)
  | .fwRecover _ _ _ _ => (d, true)
  | .hostPktTx _ _ _ _ _ => (d, true)
  | .hostPktConfig ring enable => (applyHostPktConfig ring enable d, true)
  | .diagOmciRead _ _ _ _ => (d, true)
  | .diagOmciList _ _ => (d, true)
  | .confCreate rcd => (applyConfCreate rcd pick d, true)
  | .confModify rcd mask => applyConfModify rcd mask pick (ctx, data) d
  | .confDestroy conf _ => (applyConfDestroy conf d, true)
  | .confQuery _ => (d, true)
  | .legCreate rcd => (applyLegCreate rcd pick d, true)
  | .legModify rcd mask => (applyLegModify rcd mask d, true)
  | .legDestroy leg => (applyLegDestroy leg d, true)
  | .legRekey leg saIn saOut => (applyLegRekey leg saIn saOut d, true)
  | .legMigrate leg _ => applyLegMigrate leg pick (ctx, data) d
  | .legQuery _ => (d, true)
  | .placeSet profile first engines => (applyPlaceSet profile first engines d, true)
  | .placeQuery _ _ _ => (d, true)
  | .statusTableSet offset enable => (applyStatusTableSet offset enable d, true)
  | .routeSet rcd => applyRouteSet rcd pick (ctx, data) d
  | .routeClear route => (applyRouteClear route d, true)
  | .routeQuery _ => (d, true)
  | .consoleSet route live listen => (applyConsoleSet route live listen d, true)
  | .audParamWrite _ block data => (applyAudParamWrite block data d, true)
  | .audParamRead _ _ _ _ _ => (d, true)
  | .audCommit _ => (applyAudCommit d, true)
  | .portTdmConfig rcd => (applyPortTdmConfig rcd d, true)
  | .portQuery _ _ => (d, true)
  | .confAudioQuery _ => (d, true)
  | .contribSet rcd => (applyContribSet rcd pick d, true)
  | .subscribeSet leg entries => (applySubscribeSet leg entries d, true)
  | .layoutSet rcd => (applyLayoutSet rcd d, true)
  | .layoutClear layout => (applyLayoutClear layout d, true)
  | .layoutQuery _ => (d, true)
  | .vidConfig small mid large => (applyVidConfig small mid large d, true)
  | .intraRequest kind a b => (applyIntraRequest kind a b d, true)
  | .vidQuery _ => (d, true)
  | .engineLoad offset engines img => applyEngineLoad offset engines img ctx d
  | .engineUnload engines => (applyEngineUnload engines d, true)
  | .groupUpdate _ _ _ => (d, true)
  | .flockQuery _ => (d, true)
  | .accConfig cfg => (applyAccConfig cfg d, true)
  | .accEnable mask stopHeld => (applyAccEnable mask stopHeld d, true)
  | .accDisable _ _ => (d, true)
  | .accQuery _ => (d, true)
  | .accKillRelease slice => (applyAccKillRelease slice d, true)
  | .accBondConfig mask request => (applyAccBondConfig mask request d, true)
  | .accChannelLeave slice => (applyAccChannelLeave slice d, true)
  | .accBondQuery => (d, true)
  | .imcTrunkSet rcd => (applyImcTrunkSet rcd pick d, true)
  | .imcTrunkClear trunk => (applyImcTrunkClear trunk d, true)
  | .imcTrunkQuery _ => (d, true)
  | .laneQuery _ => (d, true)
  | .laneGroupConfig group mode flags => (applyLaneGroupConfig group mode flags d, true)
  | .laneRecal lane => (applyLaneRecal lane d, true)
  | .laneSpare group lane action => (applyLaneSpare group lane action d, true)
  | .cliConfig mode => (applyCliConfig mode d, true)
  | .cliPath port att => (applyCliPath port att d, true)
  | .cliPortConfig port f => (applyCliPortConfig port f d, true)
  | .cliAddrSet port entry addr valid => (applyCliAddrSet port entry addr valid d, true)
  | .cliMacsecSet port validate replay enable => (applyCliMacsecSet port validate replay enable d, true)
  | .cliMacsecSa port dir sci an handle => (applyCliMacsecSa port dir sci an handle d, true)
  | .cliPortQuery _ => (d, true)
  | .parseRuleSet pipe index rule => (applyParseRuleSet pipe index rule d, true)
  | .parseRuleClear pipe first count => (applyParseRuleClear pipe first count d, true)
  | .parseRuleQuery _ _ _ => (d, true)
  | .parsePortSet port action ooo => (applyParsePortSet port action ooo d, true)
  | .parseHashProfileSet profile fields seed => (applyParseHashProfileSet profile fields seed d, true)
  | .parseHashTableSet profile first entries => (applyParseHashTableSet profile first entries d, true)
  | .parseFragConfig age => (applyParseFragConfig age d, true)
  | .parseQuery _ _ => (d, true)
  | .tmQueueAlloc f => (applyTmQueueAlloc f pick d, true)
  | .tmQueueSet queue f sojAlarm => (applyTmQueueSet queue f sojAlarm d, true)
  | .tmQueueFree queue => (applyTmQueueFree queue d, true)
  | .tmGroupSet _ root band quantum create => (applyTmGroupSet root band quantum create pick d, true)
  | .tmShaperSet level number enable rate burst => (applyTmShaperSet level number enable rate burst d, true)
  | .tmRootSet root adj => (applyTmRootSet root adj d, true)
  | .tmPolicerSet policer enable rate burst => (applyTmPolicerSet policer enable rate burst d, true)
  | .tmMeterSet meter f => (applyTmMeterSet meter f d, true)
  | .tmMeterMapSet port cls meter => (applyTmMeterMapSet port cls meter d, true)
  | .tmBufConfig high deepMib _ => (applyTmBufConfig high deepMib d, true)
  | .tmQuery _ _ => (d, true)
  | .integQuery _ => (d, true)
  | .integScrubSet cls rate => (applyIntegScrubSet cls rate d, true)
  | .integFlip cls data check matchAddr addr => (applyIntegFlip cls data check matchAddr addr d, true)
  | .integDigestConfig mask => (applyIntegDigestConfig mask d, true)
  | .integDigestDump block offset => (applyIntegDigestDump block offset d, true)
  | .integRemap stack offset thr => (applyIntegRemap stack offset thr d, true)
  | .trustQuery _ => (d, true)
  | .trustIdentity => (d, true)
  | .trustAttest _ => (d, true)
  | .trustImportKey => (d, true)
  | .trustBootSeal => (d, true)
  | .trustKeylistLoad _ => (d, true)
  | .trustFwVerify _ _ => (d, true)
  | .trustSessionOpen _ _ => (d, true)
  | .trustSessionClose _ => (d, true)
  | .trustBaseImport _ _ _ => (d, true)
  | .trustBaseDestroy _ => (d, true)
  | .saCreate _ => (d, true)
  | .saDestroy _ => (d, true)
  | .saQuery _ => (d, true)
  | .trustRollbackCommit _ => (d, true)
  | .trustOtpCommit _ _ => (d, true)
  | .trustRootRotate => (d, true)
  | .trustDebugUnlock => (d, true)
  | .trustFactoryReset => (d, true)
  | .trustPresenceClose => (d, true)
  | .cascConfig domain device ports base gen => (applyCascConfig domain device ports base gen d, true)
  | .cascQuery => (d, true)
  | .cascConfBind tag home => (applyCascConfBind tag home d, true)
  | .cascTwinSet twin => (applyCascTwinSet twin d, true)
  | .cascTakeover => (applyCascTakeover d, true)
  | .cascSaPair handle other => (applyCascSaPair handle other d, true)
  | .ctrlFwSwap slot _ => applyCtrlFwSwap slot ctx d
  | .pwrSeason season => applyPwrSeason season ctx d
  | .pwrWinter banks keep thaw linkWait => applyPwrWinter banks keep thaw linkWait ctx d
  | .pwrDomainSet domain on => applyPwrDomainSet domain on ctx d
  | .pwrAlarmSet value enable => (applyPwrAlarmSet value enable d, true)
  | .pwrAutumnConfig minGroups high low flags => (applyPwrAutumnConfig minGroups high low flags d, true)
  | .pwrQuery => (d, true)
  | .undefinedOpcode _ => (d, true)

/-- Whether presence gates a command (R500). -/
def kGated (d : Dev) (c : KCmd) : Bool :=
  match c with
  | .sysQuery => false
  | .pastureAllotSet _ => false
  | .pastureQuery => false
  | .timeConfig _ => false
  | .timeSet _ _ => false
  | .timeRate _ => false
  | .timeOffsetConfirm _ => false
  | .mgmtConfig _ _ _ => false
  | .mgmtSessionQuery => false
  | .mgmtSessionClose _ => false
  | .fwStoreWrite _ _ _ _ => false
  | .fwRecover _ _ _ _ => false
  | .hostPktTx _ _ _ _ _ => false
  | .hostPktConfig _ _ => false
  | .diagOmciRead _ _ _ _ => false
  | .diagOmciList _ _ => false
  | .confCreate _ => false
  | .confModify _ _ => false
  | .confDestroy _ _ => false
  | .confQuery _ => false
  | .legCreate _ => false
  | .legModify _ _ => false
  | .legDestroy _ => false
  | .legRekey _ _ _ => false
  | .legMigrate _ _ => false
  | .legQuery _ => false
  | .placeSet _ _ _ => false
  | .placeQuery _ _ _ => false
  | .statusTableSet _ _ => false
  | .routeSet _ => false
  | .routeClear _ => false
  | .routeQuery _ => false
  | .consoleSet _ _ _ => false
  | .audParamWrite _ _ _ => false
  | .audParamRead _ _ _ _ _ => false
  | .audCommit _ => false
  | .portTdmConfig _ => false
  | .portQuery _ _ => false
  | .confAudioQuery _ => false
  | .contribSet _ => false
  | .subscribeSet _ _ => false
  | .layoutSet _ => false
  | .layoutClear _ => false
  | .layoutQuery _ => false
  | .vidConfig _ _ _ => false
  | .intraRequest _ _ _ => false
  | .vidQuery _ => false
  | .engineLoad _ _ img => belowCounter d img
  | .engineUnload _ => false
  | .groupUpdate _ _ img => belowCounter d img
  | .flockQuery _ => false
  | .accConfig _ => false
  | .accEnable _ _ => false
  | .accDisable _ _ => false
  | .accQuery _ => false
  | .accKillRelease _ => true
  | .accBondConfig _ _ => false
  | .accChannelLeave _ => false
  | .accBondQuery => false
  | .imcTrunkSet _ => false
  | .imcTrunkClear _ => false
  | .imcTrunkQuery _ => false
  | .laneQuery _ => false
  | .laneGroupConfig _ _ _ => false
  | .laneRecal _ => false
  | .laneSpare _ _ _ => false
  | .cliConfig _ => false
  | .cliPath _ _ => false
  | .cliPortConfig _ _ => false
  | .cliAddrSet _ _ _ _ => false
  | .cliMacsecSet _ _ _ _ => false
  | .cliMacsecSa _ _ _ _ _ => false
  | .cliPortQuery _ => false
  | .parseRuleSet _ _ _ => false
  | .parseRuleClear _ _ _ => false
  | .parseRuleQuery _ _ _ => false
  | .parsePortSet _ _ _ => false
  | .parseHashProfileSet _ _ _ => false
  | .parseHashTableSet _ _ _ => false
  | .parseFragConfig _ => false
  | .parseQuery _ _ => false
  | .tmQueueAlloc _ => false
  | .tmQueueSet _ _ _ => false
  | .tmQueueFree _ => false
  | .tmGroupSet _ _ _ _ _ => false
  | .tmShaperSet _ _ _ _ _ => false
  | .tmRootSet _ _ => false
  | .tmPolicerSet _ _ _ _ => false
  | .tmMeterSet _ _ => false
  | .tmMeterMapSet _ _ _ => false
  | .tmBufConfig _ _ _ => false
  | .tmQuery _ _ => false
  | .integQuery _ => false
  | .integScrubSet _ _ => false
  | .integFlip _ _ _ _ _ => false
  | .integDigestConfig _ => false
  | .integDigestDump _ _ => false
  | .integRemap _ _ _ => false
  | .trustQuery _ => false
  | .trustIdentity => false
  | .trustAttest _ => false
  | .trustImportKey => false
  | .trustBootSeal => false
  | .trustKeylistLoad _ => false
  | .trustFwVerify _ _ => false
  | .trustSessionOpen _ _ => false
  | .trustSessionClose _ => false
  | .trustBaseImport _ _ _ => false
  | .trustBaseDestroy _ => false
  | .saCreate _ => false
  | .saDestroy _ => false
  | .saQuery _ => false
  | .trustRollbackCommit _ => false
  | .trustOtpCommit _ _ => true
  | .trustRootRotate => true
  | .trustDebugUnlock => true
  | .trustFactoryReset => true
  | .trustPresenceClose => false
  | .cascConfig _ _ _ _ _ => false
  | .cascQuery => false
  | .cascConfBind _ _ => false
  | .cascTwinSet _ => false
  | .cascTakeover => false
  | .cascSaPair _ _ => false
  | .ctrlFwSwap _ _ => false
  | .pwrSeason _ => false
  | .pwrWinter _ _ _ _ => false
  | .pwrDomainSet _ _ => false
  | .pwrAlarmSet _ _ => false
  | .pwrAutumnConfig _ _ _ _ => false
  | .pwrQuery => false
  | .undefinedOpcode _ => false

/-- The domains that a command reads or changes, and that are dark to it when they are not ON (R513, R558). -/
def kDomains (c : KCmd) : List Nat :=
  match c with
  | .sysQuery => []
  | .pastureAllotSet _ => [16]
  | .pastureQuery => []
  | .timeConfig _ => [3]
  | .timeSet _ _ => [3]
  | .timeRate _ => [3]
  | .timeOffsetConfirm _ => [3]
  | .mgmtConfig _ _ _ => []
  | .mgmtSessionQuery => []
  | .mgmtSessionClose _ => []
  | .fwStoreWrite _ _ _ _ => [16]
  | .fwRecover _ _ _ _ => []
  | .hostPktTx _ _ _ _ _ => [14]
  | .hostPktConfig _ _ => []
  | .diagOmciRead slice _ _ _ => sliceDom slice
  | .diagOmciList slice _ => sliceDom slice
  | .confCreate _ => []
  | .confModify _ _ => []
  | .confDestroy _ _ => []
  | .confQuery _ => []
  | .legCreate _ => [14, 15]
  | .legModify _ _ => []
  | .legDestroy _ => []
  | .legRekey _ _ _ => []
  | .legMigrate _ _ => []
  | .legQuery _ => []
  | .placeSet _ _ _ => []
  | .placeQuery _ _ _ => []
  | .statusTableSet _ _ => [16]
  | .routeSet _ => []
  | .routeClear _ => []
  | .routeQuery _ => []
  | .consoleSet _ _ _ => []
  | .audParamWrite _ _ _ => [37]
  | .audParamRead _ _ _ _ _ => [37]
  | .audCommit _ => [37]
  | .portTdmConfig _ => [37]
  | .portQuery _ _ => [37]
  | .confAudioQuery _ => []
  | .contribSet _ => []
  | .subscribeSet _ _ => []
  | .layoutSet _ => []
  | .layoutClear _ => []
  | .layoutQuery _ => []
  | .vidConfig _ _ _ => []
  | .intraRequest _ _ _ => []
  | .vidQuery _ => []
  | .engineLoad _ engines _ => 16 :: engines.map (fun e => 17 + e / 16 % 16)
  | .engineUnload engines => engines.map (fun e => 17 + e / 16 % 16)
  | .groupUpdate _ _ _ => [16]
  | .flockQuery _ => []
  | .accConfig _ => []
  | .accEnable mask _ => maskDoms mask
  | .accDisable mask _ => maskDoms mask
  | .accQuery slice => sliceDom slice
  | .accKillRelease slice => sliceDom slice
  | .accBondConfig _ _ => []
  | .accChannelLeave slice => sliceDom slice
  | .accBondQuery => []
  | .imcTrunkSet _ => [8]
  | .imcTrunkClear _ => [8]
  | .imcTrunkQuery _ => [8]
  | .laneQuery lane => [laneDomain (groupOfLane lane)]
  | .laneGroupConfig group _ _ => [laneDomain group]
  | .laneRecal lane => [laneDomain (groupOfLane lane)]
  | .laneSpare group _ _ => [laneDomain group]
  | .cliConfig _ => [13]
  | .cliPath port _ => portDom port
  | .cliPortConfig port _ => portDom port
  | .cliAddrSet port _ _ _ => portDom port
  | .cliMacsecSet port _ _ _ => portDom port
  | .cliMacsecSa port _ _ _ _ => portDom port
  | .cliPortQuery port => portDom port
  | .parseRuleSet _ _ _ => [14]
  | .parseRuleClear _ _ _ => [14]
  | .parseRuleQuery _ _ _ => [14]
  | .parsePortSet _ _ _ => [14]
  | .parseHashProfileSet _ _ _ => [14]
  | .parseHashTableSet _ _ _ => [14]
  | .parseFragConfig _ => [14]
  | .parseQuery _ _ => [14]
  | .tmQueueAlloc _ => [15]
  | .tmQueueSet _ _ _ => [15]
  | .tmQueueFree _ => [15]
  | .tmGroupSet _ _ _ _ _ => [15]
  | .tmShaperSet _ _ _ _ _ => [15]
  | .tmRootSet _ _ => [15]
  | .tmPolicerSet _ _ _ _ => [15]
  | .tmMeterSet _ _ => [15]
  | .tmMeterMapSet _ _ _ => [15]
  | .tmBufConfig _ _ _ => [15]
  | .tmQuery _ _ => [15]
  | .integQuery _ => []
  | .integScrubSet cls _ => classDom cls
  | .integFlip cls _ _ _ _ => classDom cls
  | .integDigestConfig _ => []
  | .integDigestDump _ _ => [16]
  | .integRemap _ _ _ => [16]
  | .trustQuery _ => [1]
  | .trustIdentity => [1]
  | .trustAttest _ => [1]
  | .trustImportKey => [1]
  | .trustBootSeal => [1]
  | .trustKeylistLoad _ => [1]
  | .trustFwVerify _ _ => [1, 16]
  | .trustSessionOpen _ _ => [1]
  | .trustSessionClose _ => [1]
  | .trustBaseImport _ _ _ => [1]
  | .trustBaseDestroy _ => [1]
  | .saCreate _ => [1]
  | .saDestroy _ => [1]
  | .saQuery _ => [1]
  | .trustRollbackCommit _ => [1]
  | .trustOtpCommit _ _ => [1]
  | .trustRootRotate => [1]
  | .trustDebugUnlock => [1]
  | .trustFactoryReset => [1]
  | .trustPresenceClose => [1]
  | .cascConfig _ _ _ _ _ => [39]
  | .cascQuery => [39]
  | .cascConfBind _ _ => [39]
  | .cascTwinSet _ => [39]
  | .cascTakeover => [39]
  | .cascSaPair _ _ => []
  | .ctrlFwSwap _ _ => []
  | .pwrSeason _ => []
  | .pwrWinter _ _ _ _ => []
  | .pwrDomainSet _ _ => []
  | .pwrAlarmSet _ _ => []
  | .pwrAutumnConfig _ _ _ _ => []
  | .pwrQuery => []
  | .undefinedOpcode _ => []

end Sys2Proof.Machine
end

