-- ==== Sys2Proof/Machine/Sayth.lean ====
section
/-! DEFINITION. Sayth images as bytes: engine images (R223) and firmware images (R472), and what their format and digest checks find (R224). -/

namespace Sys2Proof.Machine

/-- The bytes of an image: `n` of them from an offset within it. -/
abbrev ImageRd := Nat → Nat → List Byte

/-- A field of an image, little-endian (R11). -/
def imgField (rd : ImageRd) (off n : Nat) : Nat := leNat (rd off n)

/-- Whether reserved bytes are zero. -/
def imgZero (rd : ImageRd) (off n : Nat) : Bool := (rd off n).all (· == 0)

/-- The digest that stands in an image: 32 bytes, the first most significant. -/
def imgDigest (rd : ImageRd) (off : Nat) : Nat := leNat (rd off 32).reverse

/-- Entry `k` of the task table (R223). -/
def imgTask (rd : ImageRd) (k : Nat) : TaskRec :=
  let a := 128 + 16 * k
  { entry := imgField rd a 4, cls := imgField rd (a + 4) 1, trigger := imgField rd (a + 5) 1, line := imgField rd (a + 6) 2,
    cycles := imgField rd (a + 8) 4, deadline := imgField rd (a + 12) 2 }

/-- Whether a task entry is in range (R216, R224; log 168): a bundle of the code, a class, a trigger, an event line. -/
def taskOk (code : Nat) (t : TaskRec) : Bool :=
  decide (0x2000 ≤ t.entry ∧ t.entry < 0x2000 + code ∧ t.entry % 16 = 0 ∧ t.cls < 3 ∧ t.trigger < 3 ∧ t.line < 4096)

/-- An engine image (R223). What a size beyond its range would place is left empty: such an image is refused. -/
def engineImage (rd : ImageRd) (sigOk : Bool) : ImageDesc :=
  let code := imgField rd 20 4
  let data := imgField rd 24 4
  let cycles := imgField rd 28 4
  let tasks := imgField rd 36 1
  let streams := imgField rd 37 1
  let events := imgField rd 38 2
  let table := (List.range tasks).map (imgTask rd)
  let sizes : Bool := decide (code ≤ 120 * 1024 ∧ code % 16 = 0 ∧ data ≤ 240 * 1024 ∧ cycles ≤ 180000 ∧ 1 ≤ tasks ∧ tasks ≤ 32 ∧ streams ≤ 512 ∧ events ≤ 32)
  let fields : Bool := decide (imgField rd 0 4 = 0x4B4C4631 ∧ imgField rd 4 2 = 1 ∧ imgField rd 6 1 ≤ 7 ∧ imgField rd 7 1 ≤ 1) && imgZero rd 72 56
    && (List.range tasks).all (fun k => imgZero rd (142 + 16 * k) 2)
  let body := 16 * tasks + (if sizes then code + data else 0)
  let at_ := 128 + 16 * tasks
  { kind := imgField rd 7 1, programId := imgField rd 8 4, version := imgField rd 12 4, rollback := imgField rd 16 4, signerSlot := imgField rd 6 1,
    size := 128 + body + 384, formOk := sizes && fields && table.all (taskOk code) && decide (sumN (table.map (·.cycles)) = cycles),
    hashOk := decide (Config.sha256 (rd 128 body) % 2 ^ 256 = imgDigest rd 40), sigOk := sigOk, cycles := cycles, credits := imgField rd 32 4,
    digest := imgDigest rd 40, streams := streams, events := events, table := table,
    code := if sizes then rd at_ code else [], data := if sizes then rd (at_ + code) data else [] }

/-- A firmware image (R472). -/
def firmwareImage (rd : ImageRd) (sigOk : Bool) : ImageDesc :=
  let kind := imgField rd 7 1
  let body := imgField rd 20 4
  let size : Bool := decide (body % 16 = 0 ∧ (if kind = 2 then body ≤ 512 * 1024 else body ≤ 6290944))
  let form : Bool := decide (imgField rd 0 4 = 0x4B465731 ∧ imgField rd 4 2 = 1 ∧ (kind = 2 ∨ kind = 3) ∧ imgField rd 24 4 < max 1 body
      ∧ imgField rd 8 4 = if kind = 2 then 0x0F01 else 0x0C01) && imgZero rd 28 4 && imgZero rd 64 64
  { kind := kind, programId := imgField rd 8 4, version := imgField rd 12 4, rollback := imgField rd 16 4, signerSlot := imgField rd 6 1,
    size := 128 + (if size then body else 0) + 384, formOk := size && form,
    hashOk := decide (Config.sha256 (rd 128 (if size then body else 0)) % 2 ^ 256 = imgDigest rd 32), sigOk := sigOk, cycles := 0, credits := 0,
    digest := imgDigest rd 32 }

/-- The image at an offset of Pasture: a firmware image where MAGIC says so, else an engine image. `sigOk` is what the Fold finds of its signature
(R474; log 15). -/
def imageAt (m : Memory) (offset : Nat) (sigOk : Bool) : ImageDesc :=
  let rd : ImageRd := fun off n => memRead m (offset + off) n
  if imgField rd 0 4 = 0x4B465731 then firmwareImage rd sigOk else engineImage rd sigOk

/-- An image of which only the outcome of its signature check is known: what a packet that names it carries until it is dequeued. -/
def unreadImage (sigOk : Bool) : ImageDesc :=
  { kind := 0, programId := 0, version := 0, rollback := 0, signerSlot := 0, size := 0, formOk := false, hashOk := false, sigOk := sigOk, cycles := 0,
    credits := 0, digest := 0 }

/-- A command with the image that it names as it stands in Pasture when the command is dequeued. -/
def withImage (m : Memory) (c : KCmd) : KCmd :=
  match c with
  | .fwStoreWrite kind slot offset i => .fwStoreWrite kind slot offset (imageAt m offset i.sigOk)
  | .engineLoad offset engines i => .engineLoad offset engines (imageAt m offset i.sigOk)
  | .groupUpdate group offset i => .groupUpdate group offset (imageAt m offset i.sigOk)
  | .trustFwVerify offset i => .trustFwVerify offset (imageAt m offset i.sigOk)
  | _ => c

end Sys2Proof.Machine
end

