-- ==== Sys2Proof/Machine/Control.lean ====
section
/-! DEFINITION. The control cores at work: a command dequeued, the cut-off, and staged changes at their bell (R14 to R17, R39, R108, R136, R512 to
R519). -/

namespace Sys2Proof.Machine

/-! ### Staged changes -/

/-- The change of a staged entry made; the answer says whether its DONE is due now. -/
def applyChange (t : Staged) (d : Dev) : Dev × Bool :=
  match t.change with
  | .kervon c pick => applyOf c pick t.ctx t.data d
  | .headEndOffset v => (applyOffset v .headEnd 0 d, true)

/-- The device as every change staged so far will leave it, which a command's own conditions see (R17). -/
def projected (d : Dev) : Dev := d.sys.staged.foldl (fun v t => (applyChange t v).1) d

/-- The charge held on engine `e`, staged commands' included from their acceptance (R32, R108): what one of them gives up, it
gives up only as it takes effect. -/
def heldCycles (d : Dev) (e : Nat) : Nat :=
  (d.sys.staged.foldl (fun a t => let v := (applyChange t a.1).1; (v, Nat.max a.2 (engineCycles v e))) (d, engineCycles d e)).2

/-- What kind of object a change acts on, and which: 0 a leg, 1 a conference, 2 a route, 3 a trunk. -/
abbrev ObjKey := Nat × Nat

/-- The object that a command changes, where changes of it take turns (R17, R39). -/
def objOf (c : KCmd) : Option ObjKey :=
  match c with
  | .legCreate r => some (0, r.id)
  | .legModify r _ => some (0, r.id)
  | .legDestroy n => some (0, n)
  | .legRekey n _ _ => some (0, n)
  | .legMigrate n _ => some (0, n)
  | .confCreate r => some (1, r.id)
  | .confModify r _ => some (1, r.id)
  | .confDestroy n _ => some (1, n)
  | .routeSet r => some (2, r.id)
  | .routeClear n => some (2, n)
  | .consoleSet n _ _ => some (2, n)
  | .imcTrunkSet r => some (3, r.trunk)
  | .imcTrunkClear n => some (3, n)
  | _ => none

/-- The conference that a creation, or a leg that joins another one, needs. -/
def needsOf (c : KCmd) : List ObjKey :=
  match c with
  | .legCreate r => [(1, r.conf)]
  | .legModify r mask => if mask.testBit 2 then [(1, r.conf)] else []
  | .routeSet r => [(1, r.conf)]
  | _ => []

/-- The target and charge of the move that a change would begin (R107, R108). -/
def moveOfChange (d : Dev) (c : KCmd) (pick : Nat) : Option (Nat × Nat) :=
  match c with
  | .legMigrate n _ => (legOf d n).bind (fun l => if pick = l.home then none else some (pick, (legCharge l.rcd).1))
  | .confModify r mask =>
    (confOf d r.id).bind (fun x => if confMoves x r mask pick then some (pick, (confCharge (confMerge x.rcd r mask) (reserveAfter x r mask)).1) else none)
  | .routeSet r => (routeOf d r.id).bind (fun x => if x.engine ≠ pick ∧ x.clearing.isNone then some (pick, 200) else none)
  | _ => none

/-- Whether an object is in its two-tick move. -/
def inMove (d : Dev) (k : ObjKey) : Bool :=
  match k.1 with
  | 0 => ((legOf d k.2).map (·.move.isSome)).getD false
  | 1 => ((confOf d k.2).map (·.move.isSome)).getD false
  | 2 => ((routeOf d k.2).map (·.move.isSome)).getD false
  | _ => false

/-- Whether a command destroys its object: it does not wait behind a move that waits (R108). -/
def destroys (c : KCmd) : Bool :=
  match c with
  | .legDestroy _ => true
  | .confDestroy _ _ => true
  | .routeClear _ => true
  | _ => false

/-- Whether both crossfades of a route run (R136). -/
def fadesFull (d : Dev) (n : Nat) : Bool := ((routeOf d n).map (fun r => ((r.fade.map (·.frozen.isSome)).getD false))).getD false

/-- Whether a command is held for a move in progress, for a third crossfade, or for the limits on moves (R39, R108, R136). -/
def heldChange (d : Dev) (c : KCmd) (pick : Nat) : Bool :=
  let moving := ((objOf c).map (inMove d)).getD false
  let conf := match c with
    | .confDestroy n _ =>
      d.media.legs.any (fun l => l.2.rcd.conf == n && l.2.st != .free && l.2.move.isSome) || d.aud.routes.any (fun r => r.2.rcd.conf == n && r.2.move.isSome)
    | _ => false
  let fades := match c with
    | .routeSet r => fadesFull d r.id
    | .routeClear n => fadesFull d n
    | .consoleSet n _ _ => d.aud.routes.any (fun r => r.2.rcd.output && r.2.rcd.role == 3 && r.2.rcd.minus == n && r.2.rcd.crossfade && fadesFull d r.1)
    | _ => false
  let limits := match moveOfChange d c pick with
    | some m => !moveMayStart d m.1 m.2
    | none => false
  moving || conf || fades || limits

/-- The state of a bell's work: the device, the objects whose changes wait, whether anything took effect, and what still waits. -/
structure BellWork where
  dev : Dev
  busy : List ObjKey
  changed : Bool
  kept : List Staged
deriving DecidableEq, Repr

/-- Whether a staged entry is a move that waits on an object, or on an object of a conference, that a destroy names (R108). -/
def endsWait (d : Dev) (gone : KCmd) (t : Staged) : Bool :=
  match t.change with
  | .headEndOffset _ => false
  | .kervon c pick =>
    (moveOfChange d c pick).isSome
      && (objOf c == objOf gone
        || (match gone, c with
          | .confDestroy n _, .legMigrate l _ => ((legOf d l).map (·.rcd.conf)) == some n
          | .confDestroy n _, .routeSet r => ((routeOf d r.id).map (·.rcd.conf)) == some n
          | _, _ => false))

/-- The waits that a destroy ends: their commands are answered BUSY (R108). -/
def endWaits (before : Dev) (c : KCmd) (w : BellWork) : BellWork :=
  if ¬ destroys c then w
  else
    let over_ := w.kept.filter (endsWait before c)
    { w with
      dev := over_.foldl (fun d t => answer (epochDone d t.ctx.epoch) t.ctx .busy (refusalData 0 noField)) w.dev
      kept := w.kept.filter (fun t => !endsWait before c t) }

/-- What took effect on an engine that has failed meanwhile, or begins a move to it, is treated as a failed engine's (R109, R111). -/
def settleNew (c : KCmd) (pick : Nat) (d : Dev) : Dev :=
  if pick ≥ 256 ∨ (engOf d pick).st ≠ .out then d
  else
    match c with
    | .legCreate r => failLeg pick false d r.id
    | .legMigrate n _ => failLeg pick false d n
    | .confCreate r => failMix pick false d r.id
    | .confModify r _ => failMix pick false d r.id
    | .routeSet r => failRoute pick false d r.id
    | .imcTrunkSet r => failTrunk pick false d r.trunk
    | _ => d

/-- DONE posted for a change that has taken effect; the follow-up of an ACCEPTED command is its job's (R16, R512, R519). -/
def postDone (t : Staged) (due : Bool) (d : Dev) : Dev :=
  match t.change with
  | .headEndOffset _ => d
  | .kervon _ _ =>
    if t.accepted then epochDone d t.ctx.epoch
    else if due then answer (epochDone d t.ctx.epoch) t.ctx .done t.data
    else d

/-- A staged entry that waits on. -/
def keepWaiting (t : Staged) (k : Option ObjKey) (w : BellWork) : BellWork :=
  { w with busy := w.busy ++ k.toList, kept := w.kept ++ [t] }

/-- Whether a conference's end waits behind a change that joins it and has not taken effect (R17, R82). -/
def endsAfter (w : BellWork) (c : KCmd) : Bool :=
  match c with
  | .confDestroy n _ => w.kept.any (fun t => match t.change with
    | .kervon k _ => (needsOf k).contains (1, n)
    | .headEndOffset _ => false)
  | _ => false

/-- The codec domains, gated by Autumn, that a staged change needs and that are not ON yet (R563). -/
def codecsAwaited (d : Dev) (t : Staged) : List Nat := codecsNeeded d (applyChange t d).1

/-- Whether a staged entry waits at this bell: it was staged after the cut-off, its domain is not on, an earlier change of its object waits, or it is
held (R15, R17, R39, R108, R136, R563). -/
def waits (w : BellWork) (t : Staged) : Bool :=
  match t.change with
  | .headEndOffset _ => !t.armed
  | .kervon c pick =>
    !t.armed || ((t.waitDomain.map (fun k => !domOn w.dev k)).getD false) || codecsAwaited w.dev t != [] || heldChange w.dev c pick || endsAfter w c
      || ((needsOf c ++ (objOf c).toList).any (fun k => w.busy.contains k)
        && !(destroys c && (w.kept.any (endsWait w.dev c))))

/-- One staged entry at a bell. One that waits for codec domains switches them on (R563). -/
def takeOne (w : BellWork) (t : Staged) : BellWork :=
  if waits w t then
    keepWaiting t (match t.change with | .kervon c _ => objOf c | .headEndOffset _ => none)
      (if t.armed then { w with dev := (codecsAwaited w.dev t).foldl domainOn w.dev } else w)
  else
    let r := applyChange t w.dev
    let w' : BellWork := { w with dev := postDone t r.2 r.1, changed := true }
    match t.change with
    | .headEndOffset _ => w'
    | .kervon c pick => endWaits w.dev c { w' with dev := settleNew c pick w'.dev }

/-- DONE of the changes that a unit completed since the last bell. -/
def postAtBell (d : Dev) : Dev :=
  let l := d.sys.atBell
  l.foldl (fun d x => answer (epochDone d x.1.epoch) x.1 .done x.2) (onSys d (fun y => { y with atBell := [] }))

/-- The control cores at a bell: changes armed at the cut-off take effect in the order in which they were dequeued, and their DONE replies follow; moves
that drains ask for begin, and the digests of what changed are recomputed (R14 to R17, R107, R460). In the tick of a firmware swap nothing takes effect (R574). -/
def takeEffect (d : Dev) : Dev :=
  if ¬ domOn d 2 ∨ d.aux.swapState = 1 then d
  else
    let list := d.sys.staged
    let w := list.foldl takeOne { dev := onSys d (fun y => { y with staged := [] }), busy := [], changed := false, kept := [] }
    let d := onSys w.dev (fun y => { y with staged := w.kept ++ y.staged })
    let d := drainBell (beginDrains (finishLoads (postAtBell d)))
    beginDigests w.changed (syncLanes (accBell d))

/-- STAGED_CHANGES_TAKE_EFFECT (R14). -/
def execStagedChangesTakeEffect (s : State) : Host.Outcome State Fault Refusal := nextDev s takeEffect

/-- STAGING_CUTOFF: what has been staged is copied into the units for the next bell (R15), and the copies of moves that began in this tick are complete (R107). -/
def execStagingCutoff (s : State) : Host.Outcome State Fault Refusal :=
  nextDev s (fun d =>
    let d := copiesDone d
    if ¬ domOn d 2 ∨ d.aux.swapState = 1 then d
    else onSys d (fun y => { y with staged := y.staged.map (fun t => { t with armed := true }) }))

/-! ### Commands dequeued (R17, R514, R518) -/

/-- A factory reset, or a recovery, resets the device once its reply is out (R501, R531). -/
def resetAfter (d : Dev) : Dev := if d.fold.resetReq then deviceReset d else d

/-- A packet dequeued: checked, and acted on by `act` or refused (R514). -/
def runPacket (h : CmdHdr) (c : KCmd) (act : Dev → Dev → ActResult) (d : Dev) : Dev :=
  resetAfter (kRun (projected d) h c (kGated d c) (kDomains c) act d)

/-- The next state after a packet has been dequeued. -/
def kervonNext (h : CmdHdr) (c : KCmd) (act : Dev → Dev → ActResult) (s : State) : Host.Outcome State Fault Refusal :=
  nextDev s (runPacket h c act)

/-- One packet of a queue; an image that it names is read in Pasture (R223, R472). -/
def runQueued (m : Memory) (p : KPacket) (d : Dev) : Dev :=
  let c := withImage m p.cmd
  runPacket p.hdr c (actOf c) d

/-- Whether a ring has a packet to give: it runs, its indices differ, its completion ring has a free slot, and no reply waits (R522). -/
def ringReady (g : Ring) : Bool := ringRuns g && g.sqHead != g.sqTail && cqFree g && g.waiting.isEmpty

/-- The next packet of ring `r` (R521, R522): the slot is consumed first, so that the reply's write-back shows it. -/
def ringTurn (m : Memory) (d : Dev) (r : Nat) : Dev :=
  let g := ringOf d r
  if ¬ kServing d ∨ ¬ domOn d 38 ∨ ¬ ringReady g then d
  else
    let d := onRing d r (fun x => { x with sqHead := (x.sqHead + 1) % 256 })
    match tget g.slots g.sqHead with
    | none => d
    | some p => runQueued m p d

/-- The next packet of session `k` (R518, R527). -/
def sessionTurn (m : Memory) (d : Dev) (k : Nat) : Dev :=
  if ¬ kServing d ∨ (sessOf d k).st ≠ .opened then d
  else
    match (sessOf d k).queue with
    | [] => d
    | p :: rest => runQueued m p (onSess d k (fun x => { x with queue := rest }))

/-- COMMAND_DEQUEUE: one turn, a packet of each ring and then of each open session (R17, R518). -/
def execCommandDequeue (s : State) : Host.Outcome State Fault Refusal :=
  nextWith s (fun m d => (List.range 8).foldl (sessionTurn m) ((List.range 4).foldl (ringTurn m) d))

end Sys2Proof.Machine
end

