-- ==== Sys2Proof/Machine/Bar0.lean ====
section
/-! DEFINITION. A host's read or write of any register of BAR0 (R6 to R8, R38, R506, R558). -/

namespace Sys2Proof.Machine

/-- What a host reads of a register. ENGINE_CHARGE_n counts what the control cores have admitted, staged commands included: a move's charge is held from its
acceptance (R32, R108, R114). -/
def hostValue (d : Dev) (blk off : Nat) : Nat :=
  if blk = 8 ∧ 0xE000 ≤ off ∧ off < 0xE400 then heldCycles d ((off - 0xE000) / 4) else regValue d blk off

/-- A host's read in BAR0 (R6, R7, R506, R558): registers with a latch or a queue behind them answer as their own rows do. -/
def bar0Read (addr : Nat) (d : Dev) : Dev :=
  let blk := addr / 0x100000
  let off := addr % 0x100000
  if ¬ bar0Answers d ∨ addr ≥ 0x10000000 then d
  else if addr % 4 ≠ 0 ∨ blk > 16 ∨ ¬ regHas blk off then emitRead d addr 0
  else
    hostReads (regDomain blk off) addr (fun d =>
      if addr = 0x100008 then tickLoRead d
      else if addr = 0x100300 then sleepCntLoRead d
      else if blk = 1 ∧ 0x100 ≤ off ∧ off < 0x180 ∧ off % 0x20 = 0xC then tsqW3Read ((off - 0x100) / 0x20) d
      else if blk = 5 ∧ off < 0x50000 ∧ 0x400 ≤ off % 0x10000 ∧ off % 0x10000 < 0x600 ∧ off % 8 = 0 then
        cntLoRead d (off / 0x10000) ((off % 0x10000 - 0x400) / 8)
      else emitRead (regReadClear d blk off) addr (hostValue d blk off)) d

/-- REGISTER_READ (R7): the BAR0 address is the block base plus the offset. -/
def execRegisterRead (addr : Nat) (s : State) : Host.Outcome State Fault Refusal := nextDev s (bar0Read addr)

/-- A host's write dropped because the register is command-managed (R38). -/
def writeDropped (addr : Nat) (d : Dev) : Dev := raiseLeaf (onSys d (fun y => { y with writeDropAddr := addr })) 0 8

/-- Whether a register is dark in part: a write to it is dropped (R558). -/
def darkPart (d : Dev) (blk off : Nat) : Bool :=
  (blk == 14 && off == 0 && !domOn d 1) || (blk == 2 && off % 0x40000 == 0 && !domOn d (4 + off / 0x40000))

/-- A host's write in BAR0 (R6 to R8, R38, R506, R558). -/
def bar0Write (addr : Nat) (v : Word) (d : Dev) : Dev :=
  let blk := addr / 0x100000
  let off := addr % 0x100000
  if ¬ bar0Answers d ∨ addr % 4 ≠ 0 ∨ blk > 16 ∨ ¬ regHas blk off ∨ darkPart d blk off then d
  else hostWrites (regDomain blk off) addr (fun d => if regManaged d blk off then writeDropped addr d else regWrite d blk off v) d

/-- REGISTER_WRITE (R7, R38). -/
def execRegisterWrite (addr : Nat) (value : Word) (s : State) : Host.Outcome State Fault Refusal := nextDev s (bar0Write addr value)

end Sys2Proof.Machine
end

