-- ==== Sys2Proof/Machine/Commands.lean ====
section
/-! DEFINITION. The meaning of each Kervon command row: the checks of R514 and the command's own effect, by the shared
operation that dequeues a packet. -/

namespace Sys2Proof.Machine

/-- SYS_QUERY (R530): the packet is checked under R514 and acted on or refused. -/
def execSysQuery (h : CmdHdr) (s : State) : Host.Outcome State Fault Refusal :=
  kervonNext h (.sysQuery) (actSysQuery) s

/-- PASTURE_ALLOT_SET (R27): the packet is checked under R514 and acted on or refused. -/
def execPastureAllotSet (h : CmdHdr) (allots : List Nat) (s : State) : Host.Outcome State Fault Refusal :=
  kervonNext h (.pastureAllotSet allots) (actPastureAllotSet allots) s

/-- PASTURE_QUERY (R530): the packet is checked under R514 and acted on or refused. -/
def execPastureQuery (h : CmdHdr) (s : State) : Host.Outcome State Fault Refusal :=
  kervonNext h (.pastureQuery) (actPastureQuery) s

/-- TIME_CONFIG (R530): the packet is checked under R514 and acted on or refused. -/
def execTimeConfig (h : CmdHdr) (cfg : TimeCfg) (s : State) : Host.Outcome State Fault Refusal :=
  kervonNext h (.timeConfig cfg) (actTimeConfig cfg) s

/-- TIME_SET (R65): the packet is checked under R514 and acted on or refused. -/
def execTimeSet (h : CmdHdr) (offset : BitVec 128) (bound : Word) (s : State) : Host.Outcome State Fault Refusal :=
  kervonNext h (.timeSet offset bound) (actTimeSet offset bound) s

/-- TIME_RATE (R51): the packet is checked under R514 and acted on or refused. -/
def execTimeRate (h : CmdHdr) (rate : BitVec 32) (s : State) : Host.Outcome State Fault Refusal :=
  kervonNext h (.timeRate rate) (actTimeRate rate) s

/-- TIME_OFFSET_CONFIRM (R61): the packet is checked under R514 and acted on or refused. -/
def execTimeOffsetConfirm (h : CmdHdr) (action : Nat) (s : State) : Host.Outcome State Fault Refusal :=
  kervonNext h (.timeOffsetConfirm action) (actTimeOffsetConfirm action) s

/-- MGMT_CONFIG (R524): the packet is checked under R514 and acted on or refused. -/
def execMgmtConfig (h : CmdHdr) (addr port idle : Nat) (s : State) : Host.Outcome State Fault Refusal :=
  kervonNext h (.mgmtConfig addr port idle) (actMgmtConfig addr port idle) s

/-- MGMT_SESSION_QUERY (R530): the packet is checked under R514 and acted on or refused. -/
def execMgmtSessionQuery (h : CmdHdr) (s : State) : Host.Outcome State Fault Refusal :=
  kervonNext h (.mgmtSessionQuery) (actMgmtSessionQuery) s

/-- MGMT_SESSION_CLOSE (R527): the packet is checked under R514 and acted on or refused. -/
def execMgmtSessionClose (h : CmdHdr) (session : Nat) (s : State) : Host.Outcome State Fault Refusal :=
  kervonNext h (.mgmtSessionClose session) (actMgmtSessionClose session) s

/-- FW_STORE_WRITE (R530): the packet is checked under R514 and acted on or refused. -/
def execFwStoreWrite (h : CmdHdr) (kind slot offset : Nat) (sigOk : Bool) (s : State) : Host.Outcome State Fault Refusal :=
  let img := imageAt s.mem offset sigOk
  kervonNext h (.fwStoreWrite kind slot offset img) (actFwStoreWrite kind slot offset img) s

/-- FW_RECOVER (R531): the packet is checked under R514 and acted on or refused. -/
def execFwRecover (h : CmdHdr) (kind hostAddr length : Nat) (img : ImageDesc) (s : State) : Host.Outcome State Fault Refusal :=
  kervonNext h (.fwRecover kind hostAddr length img) (actFwRecover kind hostAddr length img) s

/-- HOST_PKT_TX (R530): the packet is checked under R514 and acted on or refused. -/
def execHostPktTx (h : CmdHdr) (twoStep : Bool) (tag : Nat) (frame : List Byte) (stamp now : Nat) (s : State) : Host.Outcome State Fault Refusal :=
  kervonNext h (.hostPktTx twoStep tag frame stamp now) (actHostPktTx twoStep tag frame stamp now) s

/-- HOST_PKT_CONFIG (R531): the packet is checked under R514 and acted on or refused. -/
def execHostPktConfig (h : CmdHdr) (ring : Nat) (enable : Bool) (s : State) : Host.Outcome State Fault Refusal :=
  kervonNext h (.hostPktConfig ring enable) (actHostPktConfig ring enable) s

/-- DIAG_OMCI_READ (R528): the packet is checked under R514 and acted on or refused. -/
def execDiagOmciRead (h : CmdHdr) (slice cls inst mask : Nat) (s : State) : Host.Outcome State Fault Refusal :=
  kervonNext h (.diagOmciRead slice cls inst mask) (actDiagOmciRead slice cls inst mask) s

/-- DIAG_OMCI_LIST (R528): the packet is checked under R514 and acted on or refused. -/
def execDiagOmciList (h : CmdHdr) (slice cls : Nat) (s : State) : Host.Outcome State Fault Refusal :=
  kervonNext h (.diagOmciList slice cls) (actDiagOmciList slice cls) s

/-- CONF_CREATE (R82): the packet is checked under R514 and acted on or refused. -/
def execConfCreate (h : CmdHdr) (rcd : ConfRec) (s : State) : Host.Outcome State Fault Refusal :=
  kervonNext h (.confCreate rcd) (actConfCreate rcd) s

/-- CONF_MODIFY (R81): the packet is checked under R514 and acted on or refused. -/
def execConfModify (h : CmdHdr) (rcd : ConfRec) (mask : Nat) (s : State) : Host.Outcome State Fault Refusal :=
  kervonNext h (.confModify rcd mask) (actConfModify rcd mask) s

/-- CONF_DESTROY (R82): the packet is checked under R514 and acted on or refused. -/
def execConfDestroy (h : CmdHdr) (conf : Nat) (withLegs : Bool) (s : State) : Host.Outcome State Fault Refusal :=
  kervonNext h (.confDestroy conf withLegs) (actConfDestroy conf withLegs) s

/-- CONF_QUERY (R80): the packet is checked under R514 and acted on or refused. -/
def execConfQuery (h : CmdHdr) (conf : Nat) (s : State) : Host.Outcome State Fault Refusal :=
  kervonNext h (.confQuery conf) (actConfQuery conf) s

/-- LEG_CREATE (R79): the packet is checked under R514 and acted on or refused. -/
def execLegCreate (h : CmdHdr) (rcd : LegRec) (s : State) : Host.Outcome State Fault Refusal :=
  kervonNext h (.legCreate rcd) (actLegCreate rcd) s

/-- LEG_MODIFY (R81): the packet is checked under R514 and acted on or refused. -/
def execLegModify (h : CmdHdr) (rcd : LegRec) (mask : Nat) (s : State) : Host.Outcome State Fault Refusal :=
  kervonNext h (.legModify rcd mask) (actLegModify rcd mask) s

/-- LEG_DESTROY (R83): the packet is checked under R514 and acted on or refused. -/
def execLegDestroy (h : CmdHdr) (leg : Nat) (s : State) : Host.Outcome State Fault Refusal :=
  kervonNext h (.legDestroy leg) (actLegDestroy leg) s

/-- LEG_REKEY (R88): the packet is checked under R514 and acted on or refused. -/
def execLegRekey (h : CmdHdr) (leg saIn saOut : Nat) (s : State) : Host.Outcome State Fault Refusal :=
  kervonNext h (.legRekey leg saIn saOut) (actLegRekey leg saIn saOut) s

/-- LEG_MIGRATE (R107): the packet is checked under R514 and acted on or refused. -/
def execLegMigrate (h : CmdHdr) (leg target : Nat) (s : State) : Host.Outcome State Fault Refusal :=
  kervonNext h (.legMigrate leg target) (actLegMigrate leg target) s

/-- LEG_QUERY (R113): the packet is checked under R514 and acted on or refused. -/
def execLegQuery (h : CmdHdr) (leg : Nat) (s : State) : Host.Outcome State Fault Refusal :=
  kervonNext h (.legQuery leg) (actLegQuery leg) s

/-- PLACE_SET (R92): the packet is checked under R514 and acted on or refused. -/
def execPlaceSet (h : CmdHdr) (profile first : Nat) (engines : List Nat) (s : State) : Host.Outcome State Fault Refusal :=
  kervonNext h (.placeSet profile first engines) (actPlaceSet profile first engines) s

/-- PLACE_QUERY (R92): the packet is checked under R514 and acted on or refused. -/
def execPlaceQuery (h : CmdHdr) (profile first count : Nat) (s : State) : Host.Outcome State Fault Refusal :=
  kervonNext h (.placeQuery profile first count) (actPlaceQuery profile first count) s

/-- STATUS_TABLE_SET (R113): the packet is checked under R514 and acted on or refused. -/
def execStatusTableSet (h : CmdHdr) (offset : Nat) (enable : Bool) (s : State) : Host.Outcome State Fault Refusal :=
  kervonNext h (.statusTableSet offset enable) (actStatusTableSet offset enable) s

/-- ROUTE_SET (R138): the packet is checked under R514 and acted on or refused. -/
def execRouteSet (h : CmdHdr) (rcd : RouteRec) (s : State) : Host.Outcome State Fault Refusal :=
  kervonNext h (.routeSet rcd) (actRouteSet rcd) s

/-- ROUTE_CLEAR (R153): the packet is checked under R514 and acted on or refused. -/
def execRouteClear (h : CmdHdr) (route : Nat) (s : State) : Host.Outcome State Fault Refusal :=
  kervonNext h (.routeClear route) (actRouteClear route) s

/-- ROUTE_QUERY (R153): the packet is checked under R514 and acted on or refused. -/
def execRouteQuery (h : CmdHdr) (route : Nat) (s : State) : Host.Outcome State Fault Refusal :=
  kervonNext h (.routeQuery route) (actRouteQuery route) s

/-- CONSOLE_SET (R133): the packet is checked under R514 and acted on or refused. -/
def execConsoleSet (h : CmdHdr) (route live listen : Nat) (s : State) : Host.Outcome State Fault Refusal :=
  kervonNext h (.consoleSet route live listen) (actConsoleSet route live listen) s

/-- AUD_PARAM_WRITE (R140): the packet is checked under R514 and acted on or refused. -/
def execAudParamWrite (h : CmdHdr) (set block : Nat) (data : List (Nat × Int)) (s : State) : Host.Outcome State Fault Refusal :=
  kervonNext h (.audParamWrite set block data) (actAudParamWrite set block data) s

/-- AUD_PARAM_READ (R153): the packet is checked under R514 and acted on or refused. -/
def execAudParamRead (h : CmdHdr) (set bank block first count : Nat) (s : State) : Host.Outcome State Fault Refusal :=
  kervonNext h (.audParamRead set bank block first count) (actAudParamRead set bank block first count) s

/-- AUD_COMMIT (R140): the packet is checked under R514 and acted on or refused. -/
def execAudCommit (h : CmdHdr) (sets : List Nat) (s : State) : Host.Outcome State Fault Refusal :=
  kervonNext h (.audCommit sets) (actAudCommit sets) s

/-- PORT_TDM_CONFIG (R149): the packet is checked under R514 and acted on or refused. -/
def execPortTdmConfig (h : CmdHdr) (rcd : TdmRec) (s : State) : Host.Outcome State Fault Refusal :=
  kervonNext h (.portTdmConfig rcd) (actPortTdmConfig rcd) s

/-- PORT_QUERY (R153): the packet is checked under R514 and acted on or refused. -/
def execPortQuery (h : CmdHdr) (kind number : Nat) (s : State) : Host.Outcome State Fault Refusal :=
  kervonNext h (.portQuery kind number) (actPortQuery kind number) s

/-- CONF_AUDIO_QUERY (R153): the packet is checked under R514 and acted on or refused. -/
def execConfAudioQuery (h : CmdHdr) (conf : Nat) (s : State) : Host.Outcome State Fault Refusal :=
  kervonNext h (.confAudioQuery conf) (actConfAudioQuery conf) s

/-- CONTRIB_SET (R161): the packet is checked under R514 and acted on or refused. -/
def execContribSet (h : CmdHdr) (rcd : ContribRec) (s : State) : Host.Outcome State Fault Refusal :=
  kervonNext h (.contribSet rcd) (actContribSet rcd) s

/-- SUBSCRIBE_SET (R164): the packet is checked under R514 and acted on or refused. -/
def execSubscribeSet (h : CmdHdr) (leg : Nat) (entries : List (Nat × Nat)) (s : State) : Host.Outcome State Fault Refusal :=
  kervonNext h (.subscribeSet leg entries) (actSubscribeSet leg entries) s

/-- LAYOUT_SET (R175): the packet is checked under R514 and acted on or refused. -/
def execLayoutSet (h : CmdHdr) (rcd : LayoutRec) (s : State) : Host.Outcome State Fault Refusal :=
  kervonNext h (.layoutSet rcd) (actLayoutSet rcd) s

/-- LAYOUT_CLEAR (R191): the packet is checked under R514 and acted on or refused. -/
def execLayoutClear (h : CmdHdr) (layout : Nat) (s : State) : Host.Outcome State Fault Refusal :=
  kervonNext h (.layoutClear layout) (actLayoutClear layout) s

/-- LAYOUT_QUERY (R191): the packet is checked under R514 and acted on or refused. -/
def execLayoutQuery (h : CmdHdr) (layout : Nat) (s : State) : Host.Outcome State Fault Refusal :=
  kervonNext h (.layoutQuery layout) (actLayoutQuery layout) s

/-- VID_CONFIG (R169): the packet is checked under R514 and acted on or refused. -/
def execVidConfig (h : CmdHdr) (small mid large : Nat) (s : State) : Host.Outcome State Fault Refusal :=
  kervonNext h (.vidConfig small mid large) (actVidConfig small mid large) s

/-- INTRA_REQUEST (R183): the packet is checked under R514 and acted on or refused. -/
def execIntraRequest (h : CmdHdr) (kind a b : Nat) (s : State) : Host.Outcome State Fault Refusal :=
  kervonNext h (.intraRequest kind a b) (actIntraRequest kind a b) s

/-- VID_QUERY (R191): the packet is checked under R514 and acted on or refused. -/
def execVidQuery (h : CmdHdr) (item : Nat) (s : State) : Host.Outcome State Fault Refusal :=
  kervonNext h (.vidQuery item) (actVidQuery item) s

/-- ENGINE_LOAD (R226): the packet is checked under R514 and acted on or refused. -/
def execEngineLoad (h : CmdHdr) (offset : Nat) (engines : List Nat) (sigOk : Bool) (s : State) : Host.Outcome State Fault Refusal :=
  let img := imageAt s.mem offset sigOk
  kervonNext h (.engineLoad offset engines img) (actEngineLoad offset engines img) s

/-- ENGINE_UNLOAD (R226): the packet is checked under R514 and acted on or refused. -/
def execEngineUnload (h : CmdHdr) (engines : List Nat) (s : State) : Host.Outcome State Fault Refusal :=
  kervonNext h (.engineUnload engines) (actEngineUnload engines) s

/-- GROUP_UPDATE (R227): the packet is checked under R514 and acted on or refused. -/
def execGroupUpdate (h : CmdHdr) (group offset : Nat) (sigOk : Bool) (s : State) : Host.Outcome State Fault Refusal :=
  let img := imageAt s.mem offset sigOk
  kervonNext h (.groupUpdate group offset img) (actGroupUpdate group offset img) s

/-- FLOCK_QUERY (R225): the packet is checked under R514 and acted on or refused. -/
def execFlockQuery (h : CmdHdr) (engine : Nat) (s : State) : Host.Outcome State Fault Refusal :=
  kervonNext h (.flockQuery engine) (actFlockQuery engine) s

/-- ACC_CONFIG (R233): the packet is checked under R514 and acted on or refused. -/
def execAccConfig (h : CmdHdr) (cfg : AccCfg) (s : State) : Host.Outcome State Fault Refusal :=
  kervonNext h (.accConfig cfg) (actAccConfig cfg) s

/-- ACC_ENABLE (R235): the packet is checked under R514 and acted on or refused. -/
def execAccEnable (h : CmdHdr) (mask : Nat) (stopHeld : Bool) (s : State) : Host.Outcome State Fault Refusal :=
  kervonNext h (.accEnable mask stopHeld) (actAccEnable mask stopHeld) s

/-- ACC_DISABLE (R258): the packet is checked under R514 and acted on or refused. -/
def execAccDisable (h : CmdHdr) (mask : Nat) (gasp : Bool) (s : State) : Host.Outcome State Fault Refusal :=
  kervonNext h (.accDisable mask gasp) (actAccDisable mask gasp) s

/-- ACC_QUERY (R258): the packet is checked under R514 and acted on or refused. -/
def execAccQuery (h : CmdHdr) (slice : Nat) (s : State) : Host.Outcome State Fault Refusal :=
  kervonNext h (.accQuery slice) (actAccQuery slice) s

/-- ACC_KILL_RELEASE (R256): the packet is checked under R514 and acted on or refused. -/
def execAccKillRelease (h : CmdHdr) (slice : Nat) (s : State) : Host.Outcome State Fault Refusal :=
  kervonNext h (.accKillRelease slice) (actAccKillRelease slice) s

/-- ACC_BOND_CONFIG (R293): the packet is checked under R514 and acted on or refused. -/
def execAccBondConfig (h : CmdHdr) (mask : Nat) (request : Bool) (s : State) : Host.Outcome State Fault Refusal :=
  kervonNext h (.accBondConfig mask request) (actAccBondConfig mask request) s

/-- ACC_CHANNEL_LEAVE (R293): the packet is checked under R514 and acted on or refused. -/
def execAccChannelLeave (h : CmdHdr) (slice : Nat) (s : State) : Host.Outcome State Fault Refusal :=
  kervonNext h (.accChannelLeave slice) (actAccChannelLeave slice) s

/-- ACC_BOND_QUERY (R293): the packet is checked under R514 and acted on or refused. -/
def execAccBondQuery (h : CmdHdr) (s : State) : Host.Outcome State Fault Refusal :=
  kervonNext h (.accBondQuery) (actAccBondQuery) s

/-- IMC_TRUNK_SET (R314): the packet is checked under R514 and acted on or refused. -/
def execImcTrunkSet (h : CmdHdr) (rcd : TrunkRec) (s : State) : Host.Outcome State Fault Refusal :=
  kervonNext h (.imcTrunkSet rcd) (actImcTrunkSet rcd) s

/-- IMC_TRUNK_CLEAR (R315): the packet is checked under R514 and acted on or refused. -/
def execImcTrunkClear (h : CmdHdr) (trunk : Nat) (s : State) : Host.Outcome State Fault Refusal :=
  kervonNext h (.imcTrunkClear trunk) (actImcTrunkClear trunk) s

/-- IMC_TRUNK_QUERY (R315): the packet is checked under R514 and acted on or refused. -/
def execImcTrunkQuery (h : CmdHdr) (trunk : Nat) (s : State) : Host.Outcome State Fault Refusal :=
  kervonNext h (.imcTrunkQuery trunk) (actImcTrunkQuery trunk) s

/-- LANE_QUERY (R337): the packet is checked under R514 and acted on or refused. -/
def execLaneQuery (h : CmdHdr) (lane : Nat) (s : State) : Host.Outcome State Fault Refusal :=
  kervonNext h (.laneQuery lane) (actLaneQuery lane) s

/-- LANE_GROUP_CONFIG (R337): the packet is checked under R514 and acted on or refused. -/
def execLaneGroupConfig (h : CmdHdr) (group mode flags : Nat) (s : State) : Host.Outcome State Fault Refusal :=
  kervonNext h (.laneGroupConfig group mode flags) (actLaneGroupConfig group mode flags) s

/-- LANE_RECAL (R325): the packet is checked under R514 and acted on or refused. -/
def execLaneRecal (h : CmdHdr) (lane : Nat) (s : State) : Host.Outcome State Fault Refusal :=
  kervonNext h (.laneRecal lane) (actLaneRecal lane) s

/-- LANE_SPARE (R334): the packet is checked under R514 and acted on or refused. -/
def execLaneSpare (h : CmdHdr) (group lane action : Nat) (s : State) : Host.Outcome State Fault Refusal :=
  kervonNext h (.laneSpare group lane action) (actLaneSpare group lane action) s

/-- CLI_CONFIG (R344): the packet is checked under R514 and acted on or refused. -/
def execCliConfig (h : CmdHdr) (mode : Nat) (s : State) : Host.Outcome State Fault Refusal :=
  kervonNext h (.cliConfig mode) (actCliConfig mode) s

/-- CLI_PATH (R342): the packet is checked under R514 and acted on or refused. -/
def execCliPath (h : CmdHdr) (port att : Nat) (s : State) : Host.Outcome State Fault Refusal :=
  kervonNext h (.cliPath port att) (actCliPath port att) s

/-- CLI_PORT_CONFIG (R369): the packet is checked under R514 and acted on or refused. -/
def execCliPortConfig (h : CmdHdr) (port : Nat) (f : PortFields) (s : State) : Host.Outcome State Fault Refusal :=
  kervonNext h (.cliPortConfig port f) (actCliPortConfig port f) s

/-- CLI_ADDR_SET (R351): the packet is checked under R514 and acted on or refused. -/
def execCliAddrSet (h : CmdHdr) (port entry addr : Nat) (valid : Bool) (s : State) : Host.Outcome State Fault Refusal :=
  kervonNext h (.cliAddrSet port entry addr valid) (actCliAddrSet port entry addr valid) s

/-- CLI_MACSEC_SET (R363): the packet is checked under R514 and acted on or refused. -/
def execCliMacsecSet (h : CmdHdr) (port validate replay : Nat) (enable : Bool) (s : State) : Host.Outcome State Fault Refusal :=
  kervonNext h (.cliMacsecSet port validate replay enable) (actCliMacsecSet port validate replay enable) s

/-- CLI_MACSEC_SA (R362): the packet is checked under R514 and acted on or refused. -/
def execCliMacsecSa (h : CmdHdr) (port dir sci an handle : Nat) (s : State) : Host.Outcome State Fault Refusal :=
  kervonNext h (.cliMacsecSa port dir sci an handle) (actCliMacsecSa port dir sci an handle) s

/-- CLI_PORT_QUERY (R369): the packet is checked under R514 and acted on or refused. -/
def execCliPortQuery (h : CmdHdr) (port : Nat) (s : State) : Host.Outcome State Fault Refusal :=
  kervonNext h (.cliPortQuery port) (actCliPortQuery port) s

/-- PARSE_RULE_SET (R383): the packet is checked under R514 and acted on or refused. -/
def execParseRuleSet (h : CmdHdr) (pipe index : Nat) (rule : RuleRec) (s : State) : Host.Outcome State Fault Refusal :=
  kervonNext h (.parseRuleSet pipe index rule) (actParseRuleSet pipe index rule) s

/-- PARSE_RULE_CLEAR (R396): the packet is checked under R514 and acted on or refused. -/
def execParseRuleClear (h : CmdHdr) (pipe first count : Nat) (s : State) : Host.Outcome State Fault Refusal :=
  kervonNext h (.parseRuleClear pipe first count) (actParseRuleClear pipe first count) s

/-- PARSE_RULE_QUERY (R396): the packet is checked under R514 and acted on or refused. -/
def execParseRuleQuery (h : CmdHdr) (pipe index : Nat) (clear : Bool) (s : State) : Host.Outcome State Fault Refusal :=
  kervonNext h (.parseRuleQuery pipe index clear) (actParseRuleQuery pipe index clear) s

/-- PARSE_PORT_SET (R396): the packet is checked under R514 and acted on or refused. -/
def execParsePortSet (h : CmdHdr) (port : Nat) (action : ActionRec) (ooo : Nat) (s : State) : Host.Outcome State Fault Refusal :=
  kervonNext h (.parsePortSet port action ooo) (actParsePortSet port action ooo) s

/-- PARSE_HASH_PROFILE_SET (R386): the packet is checked under R514 and acted on or refused. -/
def execParseHashProfileSet (h : CmdHdr) (profile fields : Nat) (seed : Word) (s : State) : Host.Outcome State Fault Refusal :=
  kervonNext h (.parseHashProfileSet profile fields seed) (actParseHashProfileSet profile fields seed) s

/-- PARSE_HASH_TABLE_SET (R388): the packet is checked under R514 and acted on or refused. -/
def execParseHashTableSet (h : CmdHdr) (profile first : Nat) (entries : List Nat) (s : State) : Host.Outcome State Fault Refusal :=
  kervonNext h (.parseHashTableSet profile first entries) (actParseHashTableSet profile first entries) s

/-- PARSE_FRAG_CONFIG (R393): the packet is checked under R514 and acted on or refused. -/
def execParseFragConfig (h : CmdHdr) (age : Nat) (s : State) : Host.Outcome State Fault Refusal :=
  kervonNext h (.parseFragConfig age) (actParseFragConfig age) s

/-- PARSE_QUERY (R396): the packet is checked under R514 and acted on or refused. -/
def execParseQuery (h : CmdHdr) (item leg : Nat) (s : State) : Host.Outcome State Fault Refusal :=
  kervonNext h (.parseQuery item leg) (actParseQuery item leg) s

/-- TM_QUEUE_ALLOC (R403): the packet is checked under R514 and acted on or refused. -/
def execTmQueueAlloc (h : CmdHdr) (f : QueueFields) (s : State) : Host.Outcome State Fault Refusal :=
  kervonNext h (.tmQueueAlloc f) (actTmQueueAlloc f) s

/-- TM_QUEUE_SET (R421): the packet is checked under R514 and acted on or refused. -/
def execTmQueueSet (h : CmdHdr) (queue : Nat) (f : QueueFields) (sojAlarm : Nat) (s : State) : Host.Outcome State Fault Refusal :=
  kervonNext h (.tmQueueSet queue f sojAlarm) (actTmQueueSet queue f sojAlarm) s

/-- TM_QUEUE_FREE (R420): the packet is checked under R514 and acted on or refused. -/
def execTmQueueFree (h : CmdHdr) (queue : Nat) (s : State) : Host.Outcome State Fault Refusal :=
  kervonNext h (.tmQueueFree queue) (actTmQueueFree queue) s

/-- TM_GROUP_SET (R421): the packet is checked under R514 and acted on or refused. -/
def execTmGroupSet (h : CmdHdr) (group root band quantum : Nat) (create : Bool) (s : State) : Host.Outcome State Fault Refusal :=
  kervonNext h (.tmGroupSet group root band quantum create) (actTmGroupSet group root band quantum create) s

/-- TM_SHAPER_SET (R408): the packet is checked under R514 and acted on or refused. -/
def execTmShaperSet (h : CmdHdr) (level number : Nat) (enable : Bool) (rate burst : Nat) (s : State) : Host.Outcome State Fault Refusal :=
  kervonNext h (.tmShaperSet level number enable rate burst) (actTmShaperSet level number enable rate burst) s

/-- TM_ROOT_SET (R406): the packet is checked under R514 and acted on or refused. -/
def execTmRootSet (h : CmdHdr) (root : Nat) (adj : Int) (s : State) : Host.Outcome State Fault Refusal :=
  kervonNext h (.tmRootSet root adj) (actTmRootSet root adj) s

/-- TM_POLICER_SET (R411): the packet is checked under R514 and acted on or refused. -/
def execTmPolicerSet (h : CmdHdr) (policer : Nat) (enable : Bool) (rate burst : Nat) (s : State) : Host.Outcome State Fault Refusal :=
  kervonNext h (.tmPolicerSet policer enable rate burst) (actTmPolicerSet policer enable rate burst) s

/-- TM_METER_SET (R412): the packet is checked under R514 and acted on or refused. -/
def execTmMeterSet (h : CmdHdr) (meter : Nat) (f : MeterFields) (s : State) : Host.Outcome State Fault Refusal :=
  kervonNext h (.tmMeterSet meter f) (actTmMeterSet meter f) s

/-- TM_METER_MAP_SET (R412): the packet is checked under R514 and acted on or refused. -/
def execTmMeterMapSet (h : CmdHdr) (port cls meter : Nat) (s : State) : Host.Outcome State Fault Refusal :=
  kervonNext h (.tmMeterMapSet port cls meter) (actTmMeterMapSet port cls meter) s

/-- TM_BUF_CONFIG (R422): the packet is checked under R514 and acted on or refused. -/
def execTmBufConfig (h : CmdHdr) (high deepMib : Nat) (short : Bool) (s : State) : Host.Outcome State Fault Refusal :=
  kervonNext h (.tmBufConfig high deepMib short) (actTmBufConfig high deepMib short) s

/-- TM_QUERY (R421): the packet is checked under R514 and acted on or refused. -/
def execTmQuery (h : CmdHdr) (item number : Nat) (s : State) : Host.Outcome State Fault Refusal :=
  kervonNext h (.tmQuery item number) (actTmQuery item number) s

/-- INTEG_QUERY (R464): the packet is checked under R514 and acted on or refused. -/
def execIntegQuery (h : CmdHdr) (item : Nat) (s : State) : Host.Outcome State Fault Refusal :=
  kervonNext h (.integQuery item) (actIntegQuery item) s

/-- INTEG_SCRUB_SET (R448): the packet is checked under R514 and acted on or refused. -/
def execIntegScrubSet (h : CmdHdr) (cls rate : Nat) (s : State) : Host.Outcome State Fault Refusal :=
  kervonNext h (.integScrubSet cls rate) (actIntegScrubSet cls rate) s

/-- INTEG_FLIP (R452): the packet is checked under R514 and acted on or refused. -/
def execIntegFlip (h : CmdHdr) (cls : Nat) (data : BitVec 64) (check matchAddr : Nat) (addr : BitVec 64) (s : State) : Host.Outcome State Fault Refusal :=
  kervonNext h (.integFlip cls data check matchAddr addr) (actIntegFlip cls data check matchAddr addr) s

/-- INTEG_DIGEST_CONFIG (R459): the packet is checked under R514 and acted on or refused. -/
def execIntegDigestConfig (h : CmdHdr) (mask : Nat) (s : State) : Host.Outcome State Fault Refusal :=
  kervonNext h (.integDigestConfig mask) (actIntegDigestConfig mask) s

/-- INTEG_DIGEST_DUMP (R462): the packet is checked under R514 and acted on or refused. -/
def execIntegDigestDump (h : CmdHdr) (block offset : Nat) (s : State) : Host.Outcome State Fault Refusal :=
  kervonNext h (.integDigestDump block offset) (actIntegDigestDump block offset) s

/-- INTEG_REMAP (R464): the packet is checked under R514 and acted on or refused. -/
def execIntegRemap (h : CmdHdr) (stack offset thr : Nat) (s : State) : Host.Outcome State Fault Refusal :=
  kervonNext h (.integRemap stack offset thr) (actIntegRemap stack offset thr) s

/-- TRUST_QUERY (R503): the packet is checked under R514 and acted on or refused. -/
def execTrustQuery (h : CmdHdr) (clear : Bool) (s : State) : Host.Outcome State Fault Refusal :=
  kervonNext h (.trustQuery clear) (actTrustQuery clear) s

/-- TRUST_IDENTITY (R492): the packet is checked under R514 and acted on or refused. -/
def execTrustIdentity (h : CmdHdr) (s : State) : Host.Outcome State Fault Refusal :=
  kervonNext h (.trustIdentity) (actTrustIdentity) s

/-- TRUST_ATTEST (R492): the packet is checked under R514 and acted on or refused. -/
def execTrustAttest (h : CmdHdr) (nonce : Nat) (s : State) : Host.Outcome State Fault Refusal :=
  kervonNext h (.trustAttest nonce) (actTrustAttest nonce) s

/-- TRUST_IMPORT_KEY (R482): the packet is checked under R514 and acted on or refused. -/
def execTrustImportKey (h : CmdHdr) (s : State) : Host.Outcome State Fault Refusal :=
  kervonNext h (.trustImportKey) (actTrustImportKey) s

/-- TRUST_BOOT_SEAL (R478): the packet is checked under R514 and acted on or refused. -/
def execTrustBootSeal (h : CmdHdr) (s : State) : Host.Outcome State Fault Refusal :=
  kervonNext h (.trustBootSeal) (actTrustBootSeal) s

/-- TRUST_KEYLIST_LOAD (R475): the packet is checked under R514 and acted on or refused. -/
def execTrustKeylistLoad (h : CmdHdr) (list : KeyList) (s : State) : Host.Outcome State Fault Refusal :=
  kervonNext h (.trustKeylistLoad list) (actTrustKeylistLoad list) s

/-- TRUST_FW_VERIFY (R503): the packet is checked under R514 and acted on or refused. -/
def execTrustFwVerify (h : CmdHdr) (offset : Nat) (sigOk : Bool) (s : State) : Host.Outcome State Fault Refusal :=
  let img := imageAt s.mem offset sigOk
  kervonNext h (.trustFwVerify offset img) (actTrustFwVerify img) s

/-- TRUST_SESSION_OPEN (R482): the packet is checked under R514 and acted on or refused. -/
def execTrustSessionOpen (h : CmdHdr) (cipher : List Byte) (transportKey : Option Nat) (s : State) : Host.Outcome State Fault Refusal :=
  kervonNext h (.trustSessionOpen cipher transportKey) (actTrustSessionOpen transportKey) s

/-- TRUST_SESSION_CLOSE (R482): the packet is checked under R514 and acted on or refused. -/
def execTrustSessionClose (h : CmdHdr) (session : Nat) (s : State) : Host.Outcome State Fault Refusal :=
  kervonNext h (.trustSessionClose session) (actTrustSessionClose session) s

/-- TRUST_BASE_IMPORT (R483): the packet is checked under R514 and acted on or refused. -/
def execTrustBaseImport (h : CmdHdr) (session : Nat) (wrapped secret : List Byte) (s : State) : Host.Outcome State Fault Refusal :=
  kervonNext h (.trustBaseImport session wrapped secret) (actTrustBaseImport session wrapped secret) s

/-- TRUST_BASE_DESTROY (R503): the packet is checked under R514 and acted on or refused. -/
def execTrustBaseDestroy (h : CmdHdr) (base : Nat) (s : State) : Host.Outcome State Fault Refusal :=
  kervonNext h (.trustBaseDestroy base) (actTrustBaseDestroy base) s

/-- SA_CREATE (R486): the packet is checked under R514 and acted on or refused. -/
def execSaCreate (h : CmdHdr) (src : SaSource) (s : State) : Host.Outcome State Fault Refusal :=
  kervonNext h (.saCreate src) (actSaCreate src) s

/-- SA_DESTROY (R486): the packet is checked under R514 and acted on or refused. -/
def execSaDestroy (h : CmdHdr) (handle : Nat) (s : State) : Host.Outcome State Fault Refusal :=
  kervonNext h (.saDestroy handle) (actSaDestroy handle) s

/-- SA_QUERY (R503): the packet is checked under R514 and acted on or refused. -/
def execSaQuery (h : CmdHdr) (handle : Nat) (s : State) : Host.Outcome State Fault Refusal :=
  kervonNext h (.saQuery handle) (actSaQuery handle) s

/-- TRUST_ROLLBACK_COMMIT (R477): the packet is checked under R514 and acted on or refused. -/
def execTrustRollbackCommit (h : CmdHdr) (program : Nat) (s : State) : Host.Outcome State Fault Refusal :=
  kervonNext h (.trustRollbackCommit program) (actTrustRollbackCommit program) s

/-- TRUST_OTP_COMMIT (R495): the packet is checked under R514 and acted on or refused. -/
def execTrustOtpCommit (h : CmdHdr) (fields : OtpFields) (zeroOk : Bool) (s : State) : Host.Outcome State Fault Refusal :=
  kervonNext h (.trustOtpCommit fields zeroOk) (actTrustOtpCommit fields zeroOk) s

/-- TRUST_ROOT_ROTATE (R497): the packet is checked under R514 and acted on or refused. -/
def execTrustRootRotate (h : CmdHdr) (s : State) : Host.Outcome State Fault Refusal :=
  kervonNext h (.trustRootRotate) (actTrustRootRotate) s

/-- TRUST_DEBUG_UNLOCK (R501): the packet is checked under R514 and acted on or refused. -/
def execTrustDebugUnlock (h : CmdHdr) (s : State) : Host.Outcome State Fault Refusal :=
  kervonNext h (.trustDebugUnlock) (actTrustDebugUnlock) s

/-- TRUST_FACTORY_RESET (R501): the packet is checked under R514 and acted on or refused. -/
def execTrustFactoryReset (h : CmdHdr) (s : State) : Host.Outcome State Fault Refusal :=
  kervonNext h (.trustFactoryReset) (actTrustFactoryReset) s

/-- TRUST_PRESENCE_CLOSE (R498): the packet is checked under R514 and acted on or refused. -/
def execTrustPresenceClose (h : CmdHdr) (s : State) : Host.Outcome State Fault Refusal :=
  kervonNext h (.trustPresenceClose) (actTrustPresenceClose) s

/-- CASC_CONFIG (R551): the packet is checked under R514 and acted on or refused. -/
def execCascConfig (h : CmdHdr) (domain device ports base gen : Nat) (s : State) : Host.Outcome State Fault Refusal :=
  kervonNext h (.cascConfig domain device ports base gen) (actCascConfig domain device ports base gen) s

/-- CASC_QUERY (R551): the packet is checked under R514 and acted on or refused. -/
def execCascQuery (h : CmdHdr) (s : State) : Host.Outcome State Fault Refusal :=
  kervonNext h (.cascQuery) (actCascQuery) s

/-- CASC_CONF_BIND (R541): the packet is checked under R514 and acted on or refused. -/
def execCascConfBind (h : CmdHdr) (tag home : Nat) (s : State) : Host.Outcome State Fault Refusal :=
  kervonNext h (.cascConfBind tag home) (actCascConfBind tag home) s

/-- CASC_TWIN_SET (R546): the packet is checked under R514 and acted on or refused. -/
def execCascTwinSet (h : CmdHdr) (twin : Nat) (s : State) : Host.Outcome State Fault Refusal :=
  kervonNext h (.cascTwinSet twin) (actCascTwinSet twin) s

/-- CASC_TAKEOVER (R549): the packet is checked under R514 and acted on or refused. -/
def execCascTakeover (h : CmdHdr) (s : State) : Host.Outcome State Fault Refusal :=
  kervonNext h (.cascTakeover) (actCascTakeover) s

/-- CASC_SA_PAIR (R546): the packet is checked under R514 and acted on or refused. -/
def execCascSaPair (h : CmdHdr) (handle other : Nat) (s : State) : Host.Outcome State Fault Refusal :=
  kervonNext h (.cascSaPair handle other) (actCascSaPair handle other) s

/-- CTRL_FW_SWAP (R574): the packet is checked under R514 and acted on or refused. -/
def execCtrlFwSwap (h : CmdHdr) (slot : Nat) (shared : Bool) (s : State) : Host.Outcome State Fault Refusal :=
  kervonNext h (.ctrlFwSwap slot shared) (actCtrlFwSwap slot shared) s

/-- PWR_SEASON (R560): the packet is checked under R514 and acted on or refused. -/
def execPwrSeason (h : CmdHdr) (season : Nat) (s : State) : Host.Outcome State Fault Refusal :=
  kervonNext h (.pwrSeason season) (actPwrSeason season) s

/-- PWR_WINTER (R564): the packet is checked under R514 and acted on or refused. -/
def execPwrWinter (h : CmdHdr) (banks keep thaw linkWait : Nat) (s : State) : Host.Outcome State Fault Refusal :=
  kervonNext h (.pwrWinter banks keep thaw linkWait) (actPwrWinter banks keep thaw linkWait) s

/-- PWR_DOMAIN_SET (R557): the packet is checked under R514 and acted on or refused. -/
def execPwrDomainSet (h : CmdHdr) (domain on : Nat) (s : State) : Host.Outcome State Fault Refusal :=
  kervonNext h (.pwrDomainSet domain on) (actPwrDomainSet domain on) s

/-- PWR_ALARM_SET (R578): the packet is checked under R514 and acted on or refused. -/
def execPwrAlarmSet (h : CmdHdr) (value enable : Nat) (s : State) : Host.Outcome State Fault Refusal :=
  kervonNext h (.pwrAlarmSet value enable) (actPwrAlarmSet value enable) s

/-- PWR_AUTUMN_CONFIG (R562): the packet is checked under R514 and acted on or refused. -/
def execPwrAutumnConfig (h : CmdHdr) (minGroups high low flags : Nat) (s : State) : Host.Outcome State Fault Refusal :=
  kervonNext h (.pwrAutumnConfig minGroups high low flags) (actPwrAutumnConfig minGroups high low flags) s

/-- PWR_QUERY (R578): the packet is checked under R514 and acted on or refused. -/
def execPwrQuery (h : CmdHdr) (s : State) : Host.Outcome State Fault Refusal :=
  kervonNext h (.pwrQuery) (actPwrQuery) s

end Sys2Proof.Machine
end

