-- ==== Sys2Proof/Machine/Dispatch.lean ====
section
/-! DEFINITION. The effect of each command: one direct call of its meaning. -/

namespace Sys2Proof.Machine

/-- The command's effect on everything but the queue. -/
def exec (i : Instr) (s : State) : Host.Outcome State Fault Refusal :=
  match i with
  | .bellTick x => Sys2Proof.Machine.execBellTick x s
  | .stagingCutoff => Sys2Proof.Machine.execStagingCutoff s
  | .poolHandover => Sys2Proof.Machine.execPoolHandover s
  | .pastureRequest cls addr write find => Sys2Proof.Machine.execPastureRequest cls addr write find s
  | .stagedChangesTakeEffect => Sys2Proof.Machine.execStagedChangesTakeEffect s
  | .referenceEvent err freq => Sys2Proof.Machine.execReferenceEvent err freq s
  | .referenceMissing => Sys2Proof.Machine.execReferenceMissing s
  | .bellSnap cycles => Sys2Proof.Machine.execBellSnap cycles s
  | .tickLoRead => Sys2Proof.Machine.execTickLoRead s
  | .sleepCntLoRead crystal => Sys2Proof.Machine.execSleepCntLoRead crystal s
  | .tsqW3Read group => Sys2Proof.Machine.execTsqW3Read group s
  | .todMessage slice send ri stamp => Sys2Proof.Machine.execTodMessage slice send ri stamp s
  | .ppsOutEdge => Sys2Proof.Machine.execPpsOutEdge s
  | .sleepCalMeasure cycles => Sys2Proof.Machine.execSleepCalMeasure cycles s
  | .bellMarkerRx h m residence => Sys2Proof.Machine.execBellMarkerRx h m residence s
  | .successionClaim => Sys2Proof.Machine.execSuccessionClaim s
  | .cascDelayMeasure port t1 t2 t3 t4 => Sys2Proof.Machine.execCascDelayMeasure port t1 t2 t3 t4 s
  | .sysQuery h => Sys2Proof.Machine.execSysQuery h s
  | .pastureAllotSet h allots => Sys2Proof.Machine.execPastureAllotSet h allots s
  | .pastureQuery h => Sys2Proof.Machine.execPastureQuery h s
  | .timeConfig h cfg => Sys2Proof.Machine.execTimeConfig h cfg s
  | .timeSet h offset bound => Sys2Proof.Machine.execTimeSet h offset bound s
  | .timeRate h rate => Sys2Proof.Machine.execTimeRate h rate s
  | .timeOffsetConfirm h action => Sys2Proof.Machine.execTimeOffsetConfirm h action s
  | .mgmtConfig h addr port idle => Sys2Proof.Machine.execMgmtConfig h addr port idle s
  | .mgmtSessionQuery h => Sys2Proof.Machine.execMgmtSessionQuery h s
  | .mgmtSessionClose h session => Sys2Proof.Machine.execMgmtSessionClose h session s
  | .fwStoreWrite h kind slot offset sigOk => Sys2Proof.Machine.execFwStoreWrite h kind slot offset sigOk s
  | .fwStoreWriteDone => Sys2Proof.Machine.execFwStoreWriteDone s
  | .fwRecover h kind hostAddr length img => Sys2Proof.Machine.execFwRecover h kind hostAddr length img s
  | .hostPktTx h twoStep tag frame stamp now => Sys2Proof.Machine.execHostPktTx h twoStep tag frame stamp now s
  | .hostPktConfig h ring enable => Sys2Proof.Machine.execHostPktConfig h ring enable s
  | .diagOmciRead h slice cls inst mask => Sys2Proof.Machine.execDiagOmciRead h slice cls inst mask s
  | .diagOmciList h slice cls => Sys2Proof.Machine.execDiagOmciList h slice cls s
  | .confCreate h rcd => Sys2Proof.Machine.execConfCreate h rcd s
  | .confModify h rcd mask => Sys2Proof.Machine.execConfModify h rcd mask s
  | .confDestroy h conf withLegs => Sys2Proof.Machine.execConfDestroy h conf withLegs s
  | .confQuery h conf => Sys2Proof.Machine.execConfQuery h conf s
  | .legCreate h rcd => Sys2Proof.Machine.execLegCreate h rcd s
  | .legModify h rcd mask => Sys2Proof.Machine.execLegModify h rcd mask s
  | .legDestroy h leg => Sys2Proof.Machine.execLegDestroy h leg s
  | .legRekey h leg saIn saOut => Sys2Proof.Machine.execLegRekey h leg saIn saOut s
  | .legMigrate h leg target => Sys2Proof.Machine.execLegMigrate h leg target s
  | .legQuery h leg => Sys2Proof.Machine.execLegQuery h leg s
  | .placeSet h profile first engines => Sys2Proof.Machine.execPlaceSet h profile first engines s
  | .placeQuery h profile first count => Sys2Proof.Machine.execPlaceQuery h profile first count s
  | .statusTableSet h offset enable => Sys2Proof.Machine.execStatusTableSet h offset enable s
  | .legDrainEnd leg => Sys2Proof.Machine.execLegDrainEnd leg s
  | .migrationHandover kind number crcEqual => Sys2Proof.Machine.execMigrationHandover kind number crcEqual s
  | .engineFailed engine => Sys2Proof.Machine.execEngineFailed engine s
  | .legPacketRx leg pkt rtcp layer => Sys2Proof.Machine.execLegPacketRx leg pkt rtcp layer s
  | .rekeyGraceEnd leg => Sys2Proof.Machine.execRekeyGraceEnd leg s
  | .adaptationRun leg => Sys2Proof.Machine.execAdaptationRun leg s
  | .feedbackStarved leg => Sys2Proof.Machine.execFeedbackStarved leg s
  | .feedbackReportSend leg => Sys2Proof.Machine.execFeedbackReportSend leg s
  | .nackSend leg seq inTime => Sys2Proof.Machine.execNackSend leg seq inTime s
  | .routeSet h rcd => Sys2Proof.Machine.execRouteSet h rcd s
  | .routeClear h route => Sys2Proof.Machine.execRouteClear h route s
  | .routeQuery h route => Sys2Proof.Machine.execRouteQuery h route s
  | .consoleSet h route live listen => Sys2Proof.Machine.execConsoleSet h route live listen s
  | .audParamWrite h set block data => Sys2Proof.Machine.execAudParamWrite h set block data s
  | .audParamRead h set bank block first count => Sys2Proof.Machine.execAudParamRead h set bank block first count s
  | .audCommit h sets => Sys2Proof.Machine.execAudCommit h sets s
  | .portTdmConfig h rcd => Sys2Proof.Machine.execPortTdmConfig h rcd s
  | .portQuery h kind number => Sys2Proof.Machine.execPortQuery h kind number s
  | .confAudioQuery h conf => Sys2Proof.Machine.execConfAudioQuery h conf s
  | .headsetBankSwap headset => Sys2Proof.Machine.execHeadsetBankSwap headset s
  | .hsDetInsertEdge headset => Sys2Proof.Machine.execHsDetInsertEdge headset s
  | .hsInsertDebounced headset => Sys2Proof.Machine.execHsInsertDebounced headset s
  | .hsClassify headset ring2 sleeve => Sys2Proof.Machine.execHsClassify headset ring2 sleeve s
  | .hsButtonArm headset => Sys2Proof.Machine.execHsButtonArm headset s
  | .hsDetRemoveEdge headset => Sys2Proof.Machine.execHsDetRemoveEdge headset s
  | .hsRemoveExpiry headset => Sys2Proof.Machine.execHsRemoveExpiry headset s
  | .hsButtonSample headset biasUa => Sys2Proof.Machine.execHsButtonSample headset biasUa s
  | .tdmFrameRx port words wellFormed => Sys2Proof.Machine.execTdmFrameRx port words wellFormed s
  | .tdmAlarmTimeout port => Sys2Proof.Machine.execTdmAlarmTimeout port s
  | .contribSet h rcd => Sys2Proof.Machine.execContribSet h rcd s
  | .subscribeSet h leg entries => Sys2Proof.Machine.execSubscribeSet h leg entries s
  | .layoutSet h rcd => Sys2Proof.Machine.execLayoutSet h rcd s
  | .layoutClear h layout => Sys2Proof.Machine.execLayoutClear h layout s
  | .layoutQuery h layout => Sys2Proof.Machine.execLayoutQuery h layout s
  | .vidConfig h small mid large => Sys2Proof.Machine.execVidConfig h small mid large s
  | .intraRequest h kind a b => Sys2Proof.Machine.execIntraRequest h kind a b s
  | .vidQuery h item => Sys2Proof.Machine.execVidQuery h item s
  | .contribPictureRx leg pic => Sys2Proof.Machine.execContribPictureRx leg pic s
  | .decodeDone leg ok => Sys2Proof.Machine.execDecodeDone leg ok s
  | .tierEncodeDone leg tier size relay => Sys2Proof.Machine.execTierEncodeDone leg tier size relay s
  | .splicePicture layout variant self sizes avc => Sys2Proof.Machine.execSplicePicture layout variant self sizes avc s
  | .talkerCellHold layout variant self cell => Sys2Proof.Machine.execTalkerCellHold layout variant self cell s
  | .layoutRefresh layout variant self => Sys2Proof.Machine.execLayoutRefresh layout variant self s
  | .mul ix acc a b sg wide => Sys2Proof.Machine.execMul ix acc a b sg wide s
  | .mac ix acc a b sg wide => Sys2Proof.Machine.execMac ix acc a b sg wide s
  | .msu ix acc a b sg wide => Sys2Proof.Machine.execMsu ix acc a b sg wide s
  | .macSum ix acc a b sg wide => Sys2Proof.Machine.execMacSum ix acc a b sg wide s
  | .clr ix acc => Sys2Proof.Machine.execClr ix acc s
  | .mvV ix dst acc => Sys2Proof.Machine.execMvV ix dst acc s
  | .mvW ix dst acc => Sys2Proof.Machine.execMvW ix dst acc s
  | .mvS ix dst acc lane => Sys2Proof.Machine.execMvS ix dst acc lane s
  | .load ix reg addr find => Sys2Proof.Machine.execLoad ix reg addr find s
  | .store ix reg addr => Sys2Proof.Machine.execStore ix reg addr s
  | .branch ix target => Sys2Proof.Machine.execBranch ix target s
  | .call ix target => Sys2Proof.Machine.execCall ix target s
  | .reti ix => Sys2Proof.Machine.execReti ix s
  | .sig ix line listeners => Sys2Proof.Machine.execSig ix line listeners s
  | .wmcr ix src => Sys2Proof.Machine.execWmcr ix src s
  | .engineInterrupt eng kind => Sys2Proof.Machine.execEngineInterrupt eng kind s
  | .slotTimer eng finished ready background => Sys2Proof.Machine.execSlotTimer eng finished ready background s
  | .eventPulse line listeners => Sys2Proof.Machine.execEventPulse line listeners s
  | .engineLoad h offset engines sigOk => Sys2Proof.Machine.execEngineLoad h offset engines sigOk s
  | .engineUnload h engines => Sys2Proof.Machine.execEngineUnload h engines s
  | .groupUpdate h group offset sigOk => Sys2Proof.Machine.execGroupUpdate h group offset sigOk s
  | .flockQuery h engine => Sys2Proof.Machine.execFlockQuery h engine s
  | .groupUpdateLoad group => Sys2Proof.Machine.execGroupUpdateLoad group s
  | .groupUpdateDone group => Sys2Proof.Machine.execGroupUpdateDone group s
  | .downstreamFrame slice f => Sys2Proof.Machine.execDownstreamFrame slice f s
  | .opticsSdLoss slice lost now => Sys2Proof.Machine.execOpticsSdLoss slice lost now s
  | .ploamBurstProfile slice h index guard fieldsOk rateOk => Sys2Proof.Machine.execPloamBurstProfile slice h index guard fieldsOk rateOk s
  | .ploamAssignOnuId slice h mine onu => Sys2Proof.Machine.execPloamAssignOnuId slice h mine onu s
  | .ploamRangingTime slice h relative value => Sys2Proof.Machine.execPloamRangingTime slice h relative value s
  | .ploamDeactivateOnuId slice h => Sys2Proof.Machine.execPloamDeactivateOnuId slice h s
  | .ploamDisableSerialNumber slice h named enable => Sys2Proof.Machine.execPloamDisableSerialNumber slice h named enable s
  | .ploamRequestRegistration slice h => Sys2Proof.Machine.execPloamRequestRegistration slice h s
  | .ploamAssignAllocId slice h alloc assign => Sys2Proof.Machine.execPloamAssignAllocId slice h alloc assign s
  | .ploamKeyControl slice h generate index => Sys2Proof.Machine.execPloamKeyControl slice h generate index s
  | .ploamSleepAllow slice h allow => Sys2Proof.Machine.execPloamSleepAllow slice h allow s
  | .ploamUnknownType slice h => Sys2Proof.Machine.execPloamUnknownType slice h s
  | .bwmapRx slice lost grants => Sys2Proof.Machine.execBwmapRx slice lost grants s
  | .burstCommit slice now => Sys2Proof.Machine.execBurstCommit slice now s
  | .burstWindow slice stamp => Sys2Proof.Machine.execBurstWindow slice stamp s
  | .watchdogTrip slice cause now => Sys2Proof.Machine.execWatchdogTrip slice cause now s
  | .to1Expiry slice => Sys2Proof.Machine.execTo1Expiry slice s
  | .to2Expiry slice => Sys2Proof.Machine.execTo2Expiry slice s
  | .tkeyExpiry slice => Sys2Proof.Machine.execTkeyExpiry slice s
  | .flapWindowExpiry slice => Sys2Proof.Machine.execFlapWindowExpiry slice s
  | .quarantineExpiry slice => Sys2Proof.Machine.execQuarantineExpiry slice s
  | .gemFrameRx slice g => Sys2Proof.Machine.execGemFrameRx slice g s
  | .gemReassemblyTimeout slice port => Sys2Proof.Machine.execGemReassemblyTimeout slice port s
  | .omciMessage slice cls inst micOk op eff => Sys2Proof.Machine.execOmciMessage slice cls inst micOk op eff s
  | .dyingGaspDisable slice => Sys2Proof.Machine.execDyingGaspDisable slice s
  | .sleepAwarePeriod slice => Sys2Proof.Machine.execSleepAwarePeriod slice s
  | .accConfig h cfg => Sys2Proof.Machine.execAccConfig h cfg s
  | .accEnable h mask stopHeld => Sys2Proof.Machine.execAccEnable h mask stopHeld s
  | .accDisable h mask gasp => Sys2Proof.Machine.execAccDisable h mask gasp s
  | .accQuery h slice => Sys2Proof.Machine.execAccQuery h slice s
  | .accKillRelease h slice => Sys2Proof.Machine.execAccKillRelease h slice s
  | .accBondConfig h mask request => Sys2Proof.Machine.execAccBondConfig h mask request s
  | .accChannelLeave h slice => Sys2Proof.Machine.execAccChannelLeave h slice s
  | .accBondQuery h => Sys2Proof.Machine.execAccBondQuery h s
  | .bondFragmentRx slice f now => Sys2Proof.Machine.execBondFragmentRx slice f now s
  | .reorderDeadline now => Sys2Proof.Machine.execReorderDeadline now s
  | .bondOffer slice h dsPort usPort start => Sys2Proof.Machine.execBondOffer slice h dsPort usPort start s
  | .channelAdd slice h joinFrame => Sys2Proof.Machine.execChannelAdd slice h joinFrame s
  | .channelRemove slice h leaveFrame => Sys2Proof.Machine.execChannelRemove slice h leaveFrame s
  | .bondAlloc slice h alloc assign => Sys2Proof.Machine.execBondAlloc slice h alloc assign s
  | .bondRelease slice h => Sys2Proof.Machine.execBondRelease slice h s
  | .bondMsgUnknown slice h type => Sys2Proof.Machine.execBondMsgUnknown slice h type s
  | .channelJoinFrame slice => Sys2Proof.Machine.execChannelJoinFrame slice s
  | .channelDeparture slice cause now => Sys2Proof.Machine.execChannelDeparture slice cause now s
  | .bondMsgRetry type chan => Sys2Proof.Machine.execBondMsgRetry type chan s
  | .imcStreamRx trunk bytes => Sys2Proof.Machine.execImcStreamRx trunk bytes s
  | .imcDegInterval trunk => Sys2Proof.Machine.execImcDegInterval trunk s
  | .imcTrunkSet h rcd => Sys2Proof.Machine.execImcTrunkSet h rcd s
  | .imcTrunkClear h trunk => Sys2Proof.Machine.execImcTrunkClear h trunk s
  | .imcTrunkQuery h trunk => Sys2Proof.Machine.execImcTrunkQuery h trunk s
  | .laneAdapted lane peak gain dfe flt => Sys2Proof.Machine.execLaneAdapted lane peak gain dfe flt s
  | .laneCdrLoss lane => Sys2Proof.Machine.execLaneCdrLoss lane s
  | .eyeScan lane height width => Sys2Proof.Machine.execEyeScan lane height width s
  | .laneMarkerRx lane marker skew compareOk => Sys2Proof.Machine.execLaneMarkerRx lane marker skew compareOk s
  | .laneRecalPeriodic => Sys2Proof.Machine.execLaneRecalPeriodic s
  | .laneFailure lane => Sys2Proof.Machine.execLaneFailure lane s
  | .laneSlip lane => Sys2Proof.Machine.execLaneSlip lane s
  | .laneQuery h lane => Sys2Proof.Machine.execLaneQuery h lane s
  | .laneGroupConfig h group mode flags => Sys2Proof.Machine.execLaneGroupConfig h group mode flags s
  | .laneRecal h lane => Sys2Proof.Machine.execLaneRecal h lane s
  | .laneSpare h group lane action => Sys2Proof.Machine.execLaneSpare h group lane action s
  | .clientFrameRx port f => Sys2Proof.Machine.execClientFrameRx port f s
  | .tmDequeue root op cell find => Sys2Proof.Machine.execTmDequeue root op cell find s
  | .linkChange port up => Sys2Proof.Machine.execLinkChange port up s
  | .lldpSend port frame now => Sys2Proof.Machine.execLldpSend port frame now s
  | .lpiEnter port received => Sys2Proof.Machine.execLpiEnter port received s
  | .lpiWake port us op => Sys2Proof.Machine.execLpiWake port us op s
  | .serviceCollision late => Sys2Proof.Machine.execServiceCollision late s
  | .backoffExpiry op => Sys2Proof.Machine.execBackoffExpiry op s
  | .rgmiiInbandStatus up speed duplex => Sys2Proof.Machine.execRgmiiInbandStatus up speed duplex s
  | .statSnap port => Sys2Proof.Machine.execStatSnap port s
  | .cntLoRead port ix => Sys2Proof.Machine.execCntLoRead port ix s
  | .mkaFrame port newSak dir ssci => Sys2Proof.Machine.execMkaFrame port newSak dir ssci s
  | .cliConfig h mode => Sys2Proof.Machine.execCliConfig h mode s
  | .cliPath h port att => Sys2Proof.Machine.execCliPath h port att s
  | .cliPortConfig h port f => Sys2Proof.Machine.execCliPortConfig h port f s
  | .cliAddrSet h port entry addr valid => Sys2Proof.Machine.execCliAddrSet h port entry addr valid s
  | .cliMacsecSet h port validate replay enable => Sys2Proof.Machine.execCliMacsecSet h port validate replay enable s
  | .cliMacsecSa h port dir sci an handle => Sys2Proof.Machine.execCliMacsecSa h port dir sci an handle s
  | .cliPortQuery h port => Sys2Proof.Machine.execCliPortQuery h port s
  | .fragAgeExpiry => Sys2Proof.Machine.execFragAgeExpiry s
  | .parseRuleSet h pipe index rule => Sys2Proof.Machine.execParseRuleSet h pipe index rule s
  | .parseRuleClear h pipe first count => Sys2Proof.Machine.execParseRuleClear h pipe first count s
  | .parseRuleQuery h pipe index clear => Sys2Proof.Machine.execParseRuleQuery h pipe index clear s
  | .parsePortSet h port action ooo => Sys2Proof.Machine.execParsePortSet h port action ooo s
  | .parseHashProfileSet h profile fields seed => Sys2Proof.Machine.execParseHashProfileSet h profile fields seed s
  | .parseHashTableSet h profile first entries => Sys2Proof.Machine.execParseHashTableSet h profile first entries s
  | .parseFragConfig h age => Sys2Proof.Machine.execParseFragConfig h age s
  | .parseQuery h item leg => Sys2Proof.Machine.execParseQuery h item leg s
  | .queueFreeDrainEnd q => Sys2Proof.Machine.execQueueFreeDrainEnd q s
  | .hwmReset queue go all => Sys2Proof.Machine.execHwmReset queue go all s
  | .tmQueueAlloc h f => Sys2Proof.Machine.execTmQueueAlloc h f s
  | .tmQueueSet h queue f sojAlarm => Sys2Proof.Machine.execTmQueueSet h queue f sojAlarm s
  | .tmQueueFree h queue => Sys2Proof.Machine.execTmQueueFree h queue s
  | .tmGroupSet h group root band quantum create => Sys2Proof.Machine.execTmGroupSet h group root band quantum create s
  | .tmShaperSet h level number enable rate burst => Sys2Proof.Machine.execTmShaperSet h level number enable rate burst s
  | .tmRootSet h root adj => Sys2Proof.Machine.execTmRootSet h root adj s
  | .tmPolicerSet h policer enable rate burst => Sys2Proof.Machine.execTmPolicerSet h policer enable rate burst s
  | .tmMeterSet h meter f => Sys2Proof.Machine.execTmMeterSet h meter f s
  | .tmMeterMapSet h port cls meter => Sys2Proof.Machine.execTmMeterMapSet h port cls meter s
  | .tmBufConfig h high deepMib short => Sys2Proof.Machine.execTmBufConfig h high deepMib short s
  | .tmQuery h item number => Sys2Proof.Machine.execTmQuery h item number s
  | .droveStart chan => Sys2Proof.Machine.execDroveStart chan s
  | .droveResume chan => Sys2Proof.Machine.execDroveResume chan s
  | .droveSkip chan => Sys2Proof.Machine.execDroveSkip chan s
  | .droveAbort chan => Sys2Proof.Machine.execDroveAbort chan s
  | .droveTrigger line => Sys2Proof.Machine.execDroveTrigger line s
  | .droveBurst b => Sys2Proof.Machine.execDroveBurst b s
  | .rowRemapStart => Sys2Proof.Machine.execRowRemapStart s
  | .rowRemapComplete => Sys2Proof.Machine.execRowRemapComplete s
  | .cvInit cv => Sys2Proof.Machine.execCvInit cv s
  | .cvData8 cv data => Sys2Proof.Machine.execCvData8 cv data s
  | .cvData16 cv data => Sys2Proof.Machine.execCvData16 cv data s
  | .cvData32 cv data => Sys2Proof.Machine.execCvData32 cv data s
  | .cvValueWrite cv high value => Sys2Proof.Machine.execCvValueWrite cv high value s
  | .cvAliveWrite cv value => Sys2Proof.Machine.execCvAliveWrite cv value s
  | .digestPublish => Sys2Proof.Machine.execDigestPublish s
  | .digestDriftCheck drifted => Sys2Proof.Machine.execDigestDriftCheck drifted s
  | .integQuery h item => Sys2Proof.Machine.execIntegQuery h item s
  | .integScrubSet h cls rate => Sys2Proof.Machine.execIntegScrubSet h cls rate s
  | .integFlip h cls data check matchAddr addr => Sys2Proof.Machine.execIntegFlip h cls data check matchAddr addr s
  | .integDigestConfig h mask => Sys2Proof.Machine.execIntegDigestConfig h mask s
  | .integDigestDump h block offset => Sys2Proof.Machine.execIntegDigestDump h block offset s
  | .integRemap h stack offset thr => Sys2Proof.Machine.execIntegRemap h stack offset thr s
  | .boot strapped selfTestOk rows engines image => Sys2Proof.Machine.execBoot strapped selfTestOk rows engines image s
  | .autoseal => Sys2Proof.Machine.execAutoseal s
  | .presencePress => Sys2Proof.Machine.execPresencePress s
  | .presenceWindowExpiry => Sys2Proof.Machine.execPresenceWindowExpiry s
  | .presenceStuck => Sys2Proof.Machine.execPresenceStuck s
  | .sealBroken => Sys2Proof.Machine.execSealBroken s
  | .sealRestored => Sys2Proof.Machine.execSealRestored s
  | .otpProgramDone readBackOk => Sys2Proof.Machine.execOtpProgramDone readBackOk s
  | .rngHealthFail => Sys2Proof.Machine.execRngHealthFail s
  | .trustQuery h clear => Sys2Proof.Machine.execTrustQuery h clear s
  | .trustIdentity h => Sys2Proof.Machine.execTrustIdentity h s
  | .trustAttest h nonce => Sys2Proof.Machine.execTrustAttest h nonce s
  | .trustImportKey h => Sys2Proof.Machine.execTrustImportKey h s
  | .trustBootSeal h => Sys2Proof.Machine.execTrustBootSeal h s
  | .trustKeylistLoad h list => Sys2Proof.Machine.execTrustKeylistLoad h list s
  | .trustFwVerify h offset sigOk => Sys2Proof.Machine.execTrustFwVerify h offset sigOk s
  | .trustSessionOpen h cipher transportKey => Sys2Proof.Machine.execTrustSessionOpen h cipher transportKey s
  | .trustSessionClose h session => Sys2Proof.Machine.execTrustSessionClose h session s
  | .trustBaseImport h session wrapped secret => Sys2Proof.Machine.execTrustBaseImport h session wrapped secret s
  | .trustBaseDestroy h base => Sys2Proof.Machine.execTrustBaseDestroy h base s
  | .saCreate h src => Sys2Proof.Machine.execSaCreate h src s
  | .saDestroy h handle => Sys2Proof.Machine.execSaDestroy h handle s
  | .saQuery h handle => Sys2Proof.Machine.execSaQuery h handle s
  | .trustRollbackCommit h program => Sys2Proof.Machine.execTrustRollbackCommit h program s
  | .trustOtpCommit h fields zeroOk => Sys2Proof.Machine.execTrustOtpCommit h fields zeroOk s
  | .trustRootRotate h => Sys2Proof.Machine.execTrustRootRotate h s
  | .trustDebugUnlock h => Sys2Proof.Machine.execTrustDebugUnlock h s
  | .trustFactoryReset h => Sys2Proof.Machine.execTrustFactoryReset h s
  | .trustPresenceClose h => Sys2Proof.Machine.execTrustPresenceClose h s
  | .commandDequeue => Sys2Proof.Machine.execCommandDequeue s
  | .sqTailDoorbell ring value packets pcieFails => Sys2Proof.Machine.execSqTailDoorbell ring value packets pcieFails s
  | .cqHeadDoorbell ring value => Sys2Proof.Machine.execCqHeadDoorbell ring value s
  | .ringEnable ring en => Sys2Proof.Machine.execRingEnable ring en s
  | .bar2Access offset write data bytes find => Sys2Proof.Machine.execBar2Access offset write data bytes find s
  | .leafWrite word value => Sys2Proof.Machine.execLeafWrite word value s
  | .msixEnable cfgEn masked => Sys2Proof.Machine.execMsixEnable cfgEn masked s
  | .registerWrite addr value => Sys2Proof.Machine.execRegisterWrite addr value s
  | .sessionHello addr port => Sys2Proof.Machine.execSessionHello addr port s
  | .sessionProof session role keyHash sigOk decryptOk => Sys2Proof.Machine.execSessionProof session role keyHash sigOk decryptOk s
  | .sessionCommand session ctr tagOk packet => Sys2Proof.Machine.execSessionCommand session ctr tagOk packet s
  | .sessionClose session ctr tagOk => Sys2Proof.Machine.execSessionClose session ctr tagOk s
  | .sessionIdleTimeout session => Sys2Proof.Machine.execSessionIdleTimeout session s
  | .sessionProofTimeout session => Sys2Proof.Machine.execSessionProofTimeout session s
  | .cascKeepaliveSend => Sys2Proof.Machine.execCascKeepaliveSend s
  | .cascHelloSend => Sys2Proof.Machine.execCascHelloSend s
  | .cascTopoSend => Sys2Proof.Machine.execCascTopoSend s
  | .twinBeatSend => Sys2Proof.Machine.execTwinBeatSend s
  | .cascHelloRx h domain dev rank => Sys2Proof.Machine.execCascHelloRx h domain dev rank s
  | .cascTopoRx h hops => Sys2Proof.Machine.execCascTopoRx h hops s
  | .cascKeepaliveRx h => Sys2Proof.Machine.execCascKeepaliveRx h s
  | .cascLaneCopyRx h port lane => Sys2Proof.Machine.execCascLaneCopyRx h port lane s
  | .cascDigestRx h peerBusy mask digest epoch => Sys2Proof.Machine.execCascDigestRx h peerBusy mask digest epoch s
  | .cascTakeoverRx h taken home => Sys2Proof.Machine.execCascTakeoverRx h taken home s
  | .cascTwinBeatRx h state => Sys2Proof.Machine.execCascTwinBeatRx h state s
  | .cascDataRx h bytes stamp now => Sys2Proof.Machine.execCascDataRx h bytes stamp now s
  | .cascMediaRx h pay => Sys2Proof.Machine.execCascMediaRx h pay s
  | .cascPortTimeout port => Sys2Proof.Machine.execCascPortTimeout port s
  | .cascPortRetry port => Sys2Proof.Machine.execCascPortRetry port s
  | .twinPartnerLost => Sys2Proof.Machine.execTwinPartnerLost s
  | .twinTakeover => Sys2Proof.Machine.execTwinTakeover s
  | .cascConfig h domain device ports base gen => Sys2Proof.Machine.execCascConfig h domain device ports base gen s
  | .cascQuery h => Sys2Proof.Machine.execCascQuery h s
  | .cascConfBind h tag home => Sys2Proof.Machine.execCascConfBind h tag home s
  | .cascTwinSet h twin => Sys2Proof.Machine.execCascTwinSet h twin s
  | .cascTakeover h => Sys2Proof.Machine.execCascTakeover h s
  | .cascSaPair h handle other => Sys2Proof.Machine.execCascSaPair h handle other s
  | .ctrlFwSwap h slot shared => Sys2Proof.Machine.execCtrlFwSwap h slot shared s
  | .pwrSeason h season => Sys2Proof.Machine.execPwrSeason h season s
  | .pwrWinter h banks keep thaw linkWait => Sys2Proof.Machine.execPwrWinter h banks keep thaw linkWait s
  | .pwrDomainSet h domain on => Sys2Proof.Machine.execPwrDomainSet h domain on s
  | .pwrAlarmSet h value enable => Sys2Proof.Machine.execPwrAlarmSet h value enable s
  | .pwrAutumnConfig h minGroups high low flags => Sys2Proof.Machine.execPwrAutumnConfig h minGroups high low flags s
  | .pwrQuery h => Sys2Proof.Machine.execPwrQuery h s
  | .domainUpDone domain => Sys2Proof.Machine.execDomainUpDone domain s
  | .domainDownDone domain => Sys2Proof.Machine.execDomainDownDone domain s
  | .autumnEvaluate => Sys2Proof.Machine.execAutumnEvaluate s
  | .autumnGateGroup => Sys2Proof.Machine.execAutumnGateGroup s
  | .seasonSummerReady => Sys2Proof.Machine.execSeasonSummerReady s
  | .winterReady => Sys2Proof.Machine.execWinterReady s
  | .pmeTurnOff => Sys2Proof.Machine.execPmeTurnOff s
  | .linkWaitExpiry => Sys2Proof.Machine.execLinkWaitExpiry s
  | .winterCommit count => Sys2Proof.Machine.execWinterCommit count s
  | .wakePin pin a b c => Sys2Proof.Machine.execWakePin pin a b c s
  | .wakeHeadEnd => Sys2Proof.Machine.execWakeHeadEnd s
  | .wakeAlarm count => Sys2Proof.Machine.execWakeAlarm count s
  | .coreHeartbeatLoss => Sys2Proof.Machine.execCoreHeartbeatLoss s
  | .thaw count => Sys2Proof.Machine.execThaw count s
  | .thawDone => Sys2Proof.Machine.execThawDone s
  | .avsStatusPoll ack vdone expired => Sys2Proof.Machine.execAvsStatusPoll ack vdone expired s
  | .controlCoreFence core => Sys2Proof.Machine.execControlCoreFence core s
  | .fwSwapResume => Sys2Proof.Machine.execFwSwapResume s
  | .fwSwapTimeout => Sys2Proof.Machine.execFwSwapTimeout s
  | .powerOnReset => Sys2Proof.Machine.execPowerOnReset s
  | .porNAssert => Sys2Proof.Machine.execPorNAssert s
  | .supplyDip => Sys2Proof.Machine.execSupplyDip s
  | .perstN => Sys2Proof.Machine.execPerstN s
  | .thermtrip => Sys2Proof.Machine.execThermtrip s
  | .thermtripClear => Sys2Proof.Machine.execThermtripClear s
  | .registerRead addr => Sys2Proof.Machine.execRegisterRead addr s
  | .scalarOperation ix op dst a b => Sys2Proof.Machine.execScalarOperation ix op dst a b s
  | .controlRegisterWrite ix w => Sys2Proof.Machine.execControlRegisterWrite ix w s
  | .presenceRelease => Sys2Proof.Machine.execPresenceRelease s
  | .commandWaitExpiry h op => Sys2Proof.Machine.execCommandWaitExpiry h op s
  | .ppsOutFall => Sys2Proof.Machine.execPpsOutFall s
  | .pauseQuantaExpiry port => Sys2Proof.Machine.execPauseQuantaExpiry port s
  | .pcieLinkL0 => Sys2Proof.Machine.execPcieLinkL0 s

end Sys2Proof.Machine
end

