-- ==== Sys2Proof/Machine/KervonOf.lean ====
section
/-! DEFINITION. The Kervon packet that a command is, if it is one: its header and its decoded body (R508, R529). -/

namespace Sys2Proof.Machine

/-- The header and body of a command that is a Kervon packet; none of an event or an access. -/
def kOf (i : Instr) : Option (CmdHdr × KCmd) :=
  match i with
  | .sysQuery h => some (h, .sysQuery)
  | .pastureAllotSet h allots => some (h, .pastureAllotSet allots)
  | .pastureQuery h => some (h, .pastureQuery)
  | .timeConfig h cfg => some (h, .timeConfig cfg)
  | .timeSet h offset bound => some (h, .timeSet offset bound)
  | .timeRate h rate => some (h, .timeRate rate)
  | .timeOffsetConfirm h action => some (h, .timeOffsetConfirm action)
  | .mgmtConfig h addr port idle => some (h, .mgmtConfig addr port idle)
  | .mgmtSessionQuery h => some (h, .mgmtSessionQuery)
  | .mgmtSessionClose h session => some (h, .mgmtSessionClose session)
  | .fwStoreWrite h kind slot offset sigOk => some (h, .fwStoreWrite kind slot offset (unreadImage sigOk))
  | .fwRecover h kind hostAddr length img => some (h, .fwRecover kind hostAddr length img)
  | .hostPktTx h twoStep tag frame stamp now => some (h, .hostPktTx twoStep tag frame stamp now)
  | .hostPktConfig h ring enable => some (h, .hostPktConfig ring enable)
  | .diagOmciRead h slice cls inst mask => some (h, .diagOmciRead slice cls inst mask)
  | .diagOmciList h slice cls => some (h, .diagOmciList slice cls)
  | .confCreate h rcd => some (h, .confCreate rcd)
  | .confModify h rcd mask => some (h, .confModify rcd mask)
  | .confDestroy h conf withLegs => some (h, .confDestroy conf withLegs)
  | .confQuery h conf => some (h, .confQuery conf)
  | .legCreate h rcd => some (h, .legCreate rcd)
  | .legModify h rcd mask => some (h, .legModify rcd mask)
  | .legDestroy h leg => some (h, .legDestroy leg)
  | .legRekey h leg saIn saOut => some (h, .legRekey leg saIn saOut)
  | .legMigrate h leg target => some (h, .legMigrate leg target)
  | .legQuery h leg => some (h, .legQuery leg)
  | .placeSet h profile first engines => some (h, .placeSet profile first engines)
  | .placeQuery h profile first count => some (h, .placeQuery profile first count)
  | .statusTableSet h offset enable => some (h, .statusTableSet offset enable)
  | .routeSet h rcd => some (h, .routeSet rcd)
  | .routeClear h route => some (h, .routeClear route)
  | .routeQuery h route => some (h, .routeQuery route)
  | .consoleSet h route live listen => some (h, .consoleSet route live listen)
  | .audParamWrite h set block data => some (h, .audParamWrite set block data)
  | .audParamRead h set bank block first count => some (h, .audParamRead set bank block first count)
  | .audCommit h sets => some (h, .audCommit sets)
  | .portTdmConfig h rcd => some (h, .portTdmConfig rcd)
  | .portQuery h kind number => some (h, .portQuery kind number)
  | .confAudioQuery h conf => some (h, .confAudioQuery conf)
  | .contribSet h rcd => some (h, .contribSet rcd)
  | .subscribeSet h leg entries => some (h, .subscribeSet leg entries)
  | .layoutSet h rcd => some (h, .layoutSet rcd)
  | .layoutClear h layout => some (h, .layoutClear layout)
  | .layoutQuery h layout => some (h, .layoutQuery layout)
  | .vidConfig h small mid large => some (h, .vidConfig small mid large)
  | .intraRequest h kind a b => some (h, .intraRequest kind a b)
  | .vidQuery h item => some (h, .vidQuery item)
  | .engineLoad h offset engines sigOk => some (h, .engineLoad offset engines (unreadImage sigOk))
  | .engineUnload h engines => some (h, .engineUnload engines)
  | .groupUpdate h group offset sigOk => some (h, .groupUpdate group offset (unreadImage sigOk))
  | .flockQuery h engine => some (h, .flockQuery engine)
  | .accConfig h cfg => some (h, .accConfig cfg)
  | .accEnable h mask stopHeld => some (h, .accEnable mask stopHeld)
  | .accDisable h mask gasp => some (h, .accDisable mask gasp)
  | .accQuery h slice => some (h, .accQuery slice)
  | .accKillRelease h slice => some (h, .accKillRelease slice)
  | .accBondConfig h mask request => some (h, .accBondConfig mask request)
  | .accChannelLeave h slice => some (h, .accChannelLeave slice)
  | .accBondQuery h => some (h, .accBondQuery)
  | .imcTrunkSet h rcd => some (h, .imcTrunkSet rcd)
  | .imcTrunkClear h trunk => some (h, .imcTrunkClear trunk)
  | .imcTrunkQuery h trunk => some (h, .imcTrunkQuery trunk)
  | .laneQuery h lane => some (h, .laneQuery lane)
  | .laneGroupConfig h group mode flags => some (h, .laneGroupConfig group mode flags)
  | .laneRecal h lane => some (h, .laneRecal lane)
  | .laneSpare h group lane action => some (h, .laneSpare group lane action)
  | .cliConfig h mode => some (h, .cliConfig mode)
  | .cliPath h port att => some (h, .cliPath port att)
  | .cliPortConfig h port f => some (h, .cliPortConfig port f)
  | .cliAddrSet h port entry addr valid => some (h, .cliAddrSet port entry addr valid)
  | .cliMacsecSet h port validate replay enable => some (h, .cliMacsecSet port validate replay enable)
  | .cliMacsecSa h port dir sci an handle => some (h, .cliMacsecSa port dir sci an handle)
  | .cliPortQuery h port => some (h, .cliPortQuery port)
  | .parseRuleSet h pipe index rule => some (h, .parseRuleSet pipe index rule)
  | .parseRuleClear h pipe first count => some (h, .parseRuleClear pipe first count)
  | .parseRuleQuery h pipe index clear => some (h, .parseRuleQuery pipe index clear)
  | .parsePortSet h port action ooo => some (h, .parsePortSet port action ooo)
  | .parseHashProfileSet h profile fields seed => some (h, .parseHashProfileSet profile fields seed)
  | .parseHashTableSet h profile first entries => some (h, .parseHashTableSet profile first entries)
  | .parseFragConfig h age => some (h, .parseFragConfig age)
  | .parseQuery h item leg => some (h, .parseQuery item leg)
  | .tmQueueAlloc h f => some (h, .tmQueueAlloc f)
  | .tmQueueSet h queue f sojAlarm => some (h, .tmQueueSet queue f sojAlarm)
  | .tmQueueFree h queue => some (h, .tmQueueFree queue)
  | .tmGroupSet h group root band quantum create => some (h, .tmGroupSet group root band quantum create)
  | .tmShaperSet h level number enable rate burst => some (h, .tmShaperSet level number enable rate burst)
  | .tmRootSet h root adj => some (h, .tmRootSet root adj)
  | .tmPolicerSet h policer enable rate burst => some (h, .tmPolicerSet policer enable rate burst)
  | .tmMeterSet h meter f => some (h, .tmMeterSet meter f)
  | .tmMeterMapSet h port cls meter => some (h, .tmMeterMapSet port cls meter)
  | .tmBufConfig h high deepMib short => some (h, .tmBufConfig high deepMib short)
  | .tmQuery h item number => some (h, .tmQuery item number)
  | .integQuery h item => some (h, .integQuery item)
  | .integScrubSet h cls rate => some (h, .integScrubSet cls rate)
  | .integFlip h cls data check matchAddr addr => some (h, .integFlip cls data check matchAddr addr)
  | .integDigestConfig h mask => some (h, .integDigestConfig mask)
  | .integDigestDump h block offset => some (h, .integDigestDump block offset)
  | .integRemap h stack offset thr => some (h, .integRemap stack offset thr)
  | .trustQuery h clear => some (h, .trustQuery clear)
  | .trustIdentity h => some (h, .trustIdentity)
  | .trustAttest h nonce => some (h, .trustAttest nonce)
  | .trustImportKey h => some (h, .trustImportKey)
  | .trustBootSeal h => some (h, .trustBootSeal)
  | .trustKeylistLoad h list => some (h, .trustKeylistLoad list)
  | .trustFwVerify h offset sigOk => some (h, .trustFwVerify offset (unreadImage sigOk))
  | .trustSessionOpen h cipher transportKey => some (h, .trustSessionOpen cipher transportKey)
  | .trustSessionClose h session => some (h, .trustSessionClose session)
  | .trustBaseImport h session wrapped secret => some (h, .trustBaseImport session wrapped secret)
  | .trustBaseDestroy h base => some (h, .trustBaseDestroy base)
  | .saCreate h src => some (h, .saCreate src)
  | .saDestroy h handle => some (h, .saDestroy handle)
  | .saQuery h handle => some (h, .saQuery handle)
  | .trustRollbackCommit h program => some (h, .trustRollbackCommit program)
  | .trustOtpCommit h fields zeroOk => some (h, .trustOtpCommit fields zeroOk)
  | .trustRootRotate h => some (h, .trustRootRotate)
  | .trustDebugUnlock h => some (h, .trustDebugUnlock)
  | .trustFactoryReset h => some (h, .trustFactoryReset)
  | .trustPresenceClose h => some (h, .trustPresenceClose)
  | .cascConfig h domain device ports base gen => some (h, .cascConfig domain device ports base gen)
  | .cascQuery h => some (h, .cascQuery)
  | .cascConfBind h tag home => some (h, .cascConfBind tag home)
  | .cascTwinSet h twin => some (h, .cascTwinSet twin)
  | .cascTakeover h => some (h, .cascTakeover)
  | .cascSaPair h handle other => some (h, .cascSaPair handle other)
  | .ctrlFwSwap h slot shared => some (h, .ctrlFwSwap slot shared)
  | .pwrSeason h season => some (h, .pwrSeason season)
  | .pwrWinter h banks keep thaw linkWait => some (h, .pwrWinter banks keep thaw linkWait)
  | .pwrDomainSet h domain on => some (h, .pwrDomainSet domain on)
  | .pwrAlarmSet h value enable => some (h, .pwrAlarmSet value enable)
  | .pwrAutumnConfig h minGroups high low flags => some (h, .pwrAutumnConfig minGroups high low flags)
  | .pwrQuery h => some (h, .pwrQuery)
  | _ => none

end Sys2Proof.Machine
end

