-- ==== Sys2Proof/WellFormed.lean ====
section
/-! DEFINITION. Which commands the device can be given: a Kervon packet comes over a transport that exists, an access names an address of its
space, and an event names a unit that the device has. Kervon parameters are not checked here: a packet whose parameters are out of range is
given to the device, which refuses it. -/

namespace Sys2Proof

/-- The transport of a packet is one of four rings or eight sessions (R515). -/
def CmdHdr.wf (h : CmdHdr) : Bool :=
  match h.tr with
  | .ring r => decide (r < 4)
  | .session k => decide (k < 8)

/-- A packet over a transport that exists. -/
def KPacket.wf (p : KPacket) : Bool := p.hdr.wf

/-- An address of BAR0, 256 MiB, at a register's alignment (R6, R506). -/
def bar0Address (addr : Nat) : Bool := decide (addr < 0x10000000 ∧ addr % 4 = 0)

/-- An access inside BAR2, 4 GiB (R507). -/
def bar2Inside (offset bytes : Nat) : Bool := decide (0 < bytes ∧ offset + bytes ≤ 2 ^ 32)

/-- The immediates of an address form are in their ranges (R202). -/
def Addr.wf (a : Addr) : Bool :=
  match a with
  | .plain _ => true
  | .postInc _ inc => decide (-32768 ≤ inc ∧ inc ≤ 32767)
  | .offset _ dist => decide (-2048 ≤ dist ∧ dist ≤ 2047)

/-- Whether the device can be given a command. -/
def Instr.wf (i : Instr) : Bool :=
  match i with
  | .bellTick _ => true
  | .stagingCutoff => true
  | .poolHandover => true
  | .pastureRequest _ _ _ _ => true
  | .stagedChangesTakeEffect => true
  | .referenceEvent _ _ => true
  | .referenceMissing => true
  | .bellSnap _ => true
  | .tickLoRead => true
  | .sleepCntLoRead _ => true
  | .tsqW3Read _ => true
  | .todMessage slice _ _ _ => decide (slice < 4)
  | .ppsOutEdge => true
  | .sleepCalMeasure _ => true
  | .bellMarkerRx _ _ _ => true
  | .successionClaim => true
  | .cascDelayMeasure _ _ _ _ _ => true
  | .sysQuery h => h.wf
  | .pastureAllotSet h _ => h.wf
  | .pastureQuery h => h.wf
  | .timeConfig h _ => h.wf
  | .timeSet h _ _ => h.wf
  | .timeRate h _ => h.wf
  | .timeOffsetConfirm h _ => h.wf
  | .mgmtConfig h _ _ _ => h.wf
  | .mgmtSessionQuery h => h.wf
  | .mgmtSessionClose h _ => h.wf
  | .fwStoreWrite h _ _ _ _ => h.wf
  | .fwStoreWriteDone => true
  | .fwRecover h _ _ _ _ => h.wf
  | .hostPktTx h _ _ _ _ _ => h.wf
  | .hostPktConfig h _ _ => h.wf
  | .diagOmciRead h _ _ _ _ => h.wf
  | .diagOmciList h _ _ => h.wf
  | .confCreate h _ => h.wf
  | .confModify h _ _ => h.wf
  | .confDestroy h _ _ => h.wf
  | .confQuery h _ => h.wf
  | .legCreate h _ => h.wf
  | .legModify h _ _ => h.wf
  | .legDestroy h _ => h.wf
  | .legRekey h _ _ _ => h.wf
  | .legMigrate h _ _ => h.wf
  | .legQuery h _ => h.wf
  | .placeSet h _ _ _ => h.wf
  | .placeQuery h _ _ _ => h.wf
  | .statusTableSet h _ _ => h.wf
  | .legDrainEnd leg => decide (leg < 8192)
  | .migrationHandover _ _ _ => true
  | .engineFailed engine => decide (engine < 256)
  | .legPacketRx leg _ _ _ => decide (leg < 8192)
  | .rekeyGraceEnd leg => decide (leg < 8192)
  | .adaptationRun leg => decide (leg < 8192)
  | .feedbackStarved leg => decide (leg < 8192)
  | .feedbackReportSend leg => decide (leg < 8192)
  | .nackSend leg _ _ => decide (leg < 8192)
  | .routeSet h _ => h.wf
  | .routeClear h _ => h.wf
  | .routeQuery h _ => h.wf
  | .consoleSet h _ _ _ => h.wf
  | .audParamWrite h _ _ _ => h.wf
  | .audParamRead h _ _ _ _ _ => h.wf
  | .audCommit h _ => h.wf
  | .portTdmConfig h _ => h.wf
  | .portQuery h _ _ => h.wf
  | .confAudioQuery h _ => h.wf
  | .headsetBankSwap headset => decide (headset < 2)
  | .hsDetInsertEdge headset => decide (headset < 2)
  | .hsInsertDebounced headset => decide (headset < 2)
  | .hsClassify headset _ _ => decide (headset < 2)
  | .hsButtonArm headset => decide (headset < 2)
  | .hsDetRemoveEdge headset => decide (headset < 2)
  | .hsRemoveExpiry headset => decide (headset < 2)
  | .hsButtonSample headset _ => decide (headset < 2)
  | .tdmFrameRx _ _ _ => true
  | .tdmAlarmTimeout _ => true
  | .contribSet h _ => h.wf
  | .subscribeSet h _ _ => h.wf
  | .layoutSet h _ => h.wf
  | .layoutClear h _ => h.wf
  | .layoutQuery h _ => h.wf
  | .vidConfig h _ _ _ => h.wf
  | .intraRequest h _ _ _ => h.wf
  | .vidQuery h _ => h.wf
  | .contribPictureRx leg _ => decide (leg < 8192)
  | .decodeDone leg _ => decide (leg < 8192)
  | .tierEncodeDone leg tier _ _ => decide (leg < 8192 ∧ tier ≤ 3)
  | .splicePicture _ _ _ _ _ => true
  | .talkerCellHold _ _ _ _ => true
  | .layoutRefresh _ _ _ => true
  | .mul _ _ _ _ _ _ => true
  | .mac _ _ _ _ _ _ => true
  | .msu _ _ _ _ _ _ => true
  | .macSum _ _ _ _ _ _ => true
  | .clr _ _ => true
  | .mvV _ _ _ => true
  | .mvW _ _ _ => true
  | .mvS _ _ _ lane => decide (lane < 32)
  | .load _ _ addr _ => addr.wf
  | .store _ _ addr => addr.wf
  | .branch _ _ => true
  | .call _ _ => true
  | .reti _ => true
  | .sig _ _ _ => true
  | .wmcr _ _ => true
  | .engineInterrupt _ _ => true
  | .slotTimer _ _ ready _ => ready.all (fun r => decide (r.2.2 ≤ 25000))
  | .eventPulse _ _ => true
  | .engineLoad h _ _ _ => h.wf
  | .engineUnload h _ => h.wf
  | .groupUpdate h _ _ _ => h.wf
  | .flockQuery h _ => h.wf
  | .groupUpdateLoad _ => true
  | .groupUpdateDone _ => true
  | .downstreamFrame slice _ => decide (slice < 4)
  | .opticsSdLoss slice _ _ => decide (slice < 4)
  | .ploamBurstProfile slice _ _ _ _ _ => decide (slice < 4)
  | .ploamAssignOnuId slice _ _ _ => decide (slice < 4)
  | .ploamRangingTime slice _ _ _ => decide (slice < 4)
  | .ploamDeactivateOnuId slice _ => decide (slice < 4)
  | .ploamDisableSerialNumber slice _ _ _ => decide (slice < 4)
  | .ploamRequestRegistration slice _ => decide (slice < 4)
  | .ploamAssignAllocId slice _ _ _ => decide (slice < 4)
  | .ploamKeyControl slice _ _ _ => decide (slice < 4)
  | .ploamSleepAllow slice _ _ => decide (slice < 4)
  | .ploamUnknownType slice _ => decide (slice < 4)
  | .bwmapRx slice _ _ => decide (slice < 4)
  | .burstCommit slice _ => decide (slice < 4)
  | .burstWindow slice _ => decide (slice < 4)
  | .watchdogTrip slice _ _ => decide (slice < 4)
  | .to1Expiry slice => decide (slice < 4)
  | .to2Expiry slice => decide (slice < 4)
  | .tkeyExpiry slice => decide (slice < 4)
  | .flapWindowExpiry slice => decide (slice < 4)
  | .quarantineExpiry slice => decide (slice < 4)
  | .gemFrameRx slice _ => decide (slice < 4)
  | .gemReassemblyTimeout slice _ => decide (slice < 4)
  | .omciMessage slice _ _ _ _ _ => decide (slice < 4)
  | .dyingGaspDisable slice => decide (slice < 4)
  | .sleepAwarePeriod slice => decide (slice < 4)
  | .accConfig h _ => h.wf
  | .accEnable h _ _ => h.wf
  | .accDisable h _ _ => h.wf
  | .accQuery h _ => h.wf
  | .accKillRelease h _ => h.wf
  | .accBondConfig h _ _ => h.wf
  | .accChannelLeave h _ => h.wf
  | .accBondQuery h => h.wf
  | .bondFragmentRx slice _ _ => decide (slice < 4)
  | .reorderDeadline _ => true
  | .bondOffer slice _ _ _ _ => decide (slice < 4)
  | .channelAdd slice _ _ => decide (slice < 4)
  | .channelRemove slice _ _ => decide (slice < 4)
  | .bondAlloc slice _ _ _ => decide (slice < 4)
  | .bondRelease slice _ => decide (slice < 4)
  | .bondMsgUnknown slice _ _ => decide (slice < 4)
  | .channelJoinFrame slice => decide (slice < 4)
  | .channelDeparture slice _ _ => decide (slice < 4)
  | .bondMsgRetry _ chan => decide (chan < 128)
  | .imcStreamRx trunk _ => decide (trunk < 64)
  | .imcDegInterval trunk => decide (trunk < 64)
  | .imcTrunkSet h _ => h.wf
  | .imcTrunkClear h _ => h.wf
  | .imcTrunkQuery h _ => h.wf
  | .laneAdapted lane _ _ _ _ => decide (lane < 32)
  | .laneCdrLoss lane => decide (lane < 32)
  | .eyeScan lane _ _ => decide (lane < 32)
  | .laneMarkerRx lane _ _ _ => decide (lane < 32)
  | .laneRecalPeriodic => true
  | .laneFailure lane => decide (lane < 32)
  | .laneSlip lane => decide (lane < 32)
  | .laneQuery h _ => h.wf
  | .laneGroupConfig h _ _ _ => h.wf
  | .laneRecal h _ => h.wf
  | .laneSpare h _ _ _ => h.wf
  | .clientFrameRx _ _ => true
  | .tmDequeue _ _ _ _ => true
  | .linkChange _ _ => true
  | .lldpSend _ _ _ => true
  | .lpiEnter _ _ => true
  | .lpiWake _ _ _ => true
  | .serviceCollision _ => true
  | .backoffExpiry _ => true
  | .rgmiiInbandStatus _ _ _ => true
  | .statSnap _ => true
  | .cntLoRead _ _ => true
  | .mkaFrame _ _ _ _ => true
  | .cliConfig h _ => h.wf
  | .cliPath h _ _ => h.wf
  | .cliPortConfig h _ _ => h.wf
  | .cliAddrSet h _ _ _ _ => h.wf
  | .cliMacsecSet h _ _ _ _ => h.wf
  | .cliMacsecSa h _ _ _ _ _ => h.wf
  | .cliPortQuery h _ => h.wf
  | .fragAgeExpiry => true
  | .parseRuleSet h _ _ _ => h.wf
  | .parseRuleClear h _ _ _ => h.wf
  | .parseRuleQuery h _ _ _ => h.wf
  | .parsePortSet h _ _ _ => h.wf
  | .parseHashProfileSet h _ _ _ => h.wf
  | .parseHashTableSet h _ _ _ => h.wf
  | .parseFragConfig h _ => h.wf
  | .parseQuery h _ _ => h.wf
  | .queueFreeDrainEnd _ => true
  | .hwmReset _ _ _ => true
  | .tmQueueAlloc h _ => h.wf
  | .tmQueueSet h _ _ _ => h.wf
  | .tmQueueFree h _ => h.wf
  | .tmGroupSet h _ _ _ _ _ => h.wf
  | .tmShaperSet h _ _ _ _ _ => h.wf
  | .tmRootSet h _ _ => h.wf
  | .tmPolicerSet h _ _ _ _ => h.wf
  | .tmMeterSet h _ _ => h.wf
  | .tmMeterMapSet h _ _ _ => h.wf
  | .tmBufConfig h _ _ _ => h.wf
  | .tmQuery h _ _ => h.wf
  | .droveStart chan => decide (chan < 128)
  | .droveResume chan => decide (chan < 128)
  | .droveSkip chan => decide (chan < 128)
  | .droveAbort chan => decide (chan < 128)
  | .droveTrigger _ => true
  | .droveBurst _ => true
  | .rowRemapStart => true
  | .rowRemapComplete => true
  | .cvInit cv => decide (cv < 64)
  | .cvData8 cv _ => decide (cv < 64)
  | .cvData16 cv _ => decide (cv < 64)
  | .cvData32 cv _ => decide (cv < 64)
  | .cvValueWrite cv _ _ => decide (cv < 64)
  | .cvAliveWrite cv _ => decide (cv < 64)
  | .digestPublish => true
  | .digestDriftCheck _ => true
  | .integQuery h _ => h.wf
  | .integScrubSet h _ _ => h.wf
  | .integFlip h _ _ _ _ _ => h.wf
  | .integDigestConfig h _ => h.wf
  | .integDigestDump h _ _ => h.wf
  | .integRemap h _ _ _ => h.wf
  | .boot _ _ _ _ _ => true
  | .autoseal => true
  | .presencePress => true
  | .presenceWindowExpiry => true
  | .presenceStuck => true
  | .sealBroken => true
  | .sealRestored => true
  | .otpProgramDone _ => true
  | .rngHealthFail => true
  | .trustQuery h _ => h.wf
  | .trustIdentity h => h.wf
  | .trustAttest h _ => h.wf
  | .trustImportKey h => h.wf
  | .trustBootSeal h => h.wf
  | .trustKeylistLoad h _ => h.wf
  | .trustFwVerify h _ _ => h.wf
  | .trustSessionOpen h _ _ => h.wf
  | .trustSessionClose h _ => h.wf
  | .trustBaseImport h _ _ _ => h.wf
  | .trustBaseDestroy h _ => h.wf
  | .saCreate h _ => h.wf
  | .saDestroy h _ => h.wf
  | .saQuery h _ => h.wf
  | .trustRollbackCommit h _ => h.wf
  | .trustOtpCommit h _ _ => h.wf
  | .trustRootRotate h => h.wf
  | .trustDebugUnlock h => h.wf
  | .trustFactoryReset h => h.wf
  | .trustPresenceClose h => h.wf
  | .commandDequeue => true
  | .sqTailDoorbell ring _ packets _ => decide (ring < 4) && packets.all KPacket.wf
  | .cqHeadDoorbell ring _ => decide (ring < 4)
  | .ringEnable ring _ => decide (ring < 4)
  | .bar2Access offset _ _ bytes _ => bar2Inside offset bytes
  | .leafWrite _ _ => true
  | .msixEnable _ _ => true
  | .registerWrite addr _ => bar0Address addr
  | .sessionHello _ _ => true
  | .sessionProof session _ _ _ _ => decide (session < 8)
  | .sessionCommand session _ _ packet => decide (session < 8) && packet.wf
  | .sessionClose session _ _ => decide (session < 8)
  | .sessionIdleTimeout session => decide (session < 8)
  | .sessionProofTimeout session => decide (session < 8)
  | .cascKeepaliveSend => true
  | .cascHelloSend => true
  | .cascTopoSend => true
  | .twinBeatSend => true
  | .cascHelloRx _ _ _ _ => true
  | .cascTopoRx _ _ => true
  | .cascKeepaliveRx _ => true
  | .cascLaneCopyRx _ _ lane => decide (lane < 32)
  | .cascDigestRx _ _ _ _ _ => true
  | .cascTakeoverRx _ _ _ => true
  | .cascTwinBeatRx _ _ => true
  | .cascDataRx _ _ _ _ => true
  | .cascMediaRx _ _ => true
  | .cascPortTimeout _ => true
  | .cascPortRetry _ => true
  | .twinPartnerLost => true
  | .twinTakeover => true
  | .cascConfig h _ _ _ _ _ => h.wf
  | .cascQuery h => h.wf
  | .cascConfBind h _ _ => h.wf
  | .cascTwinSet h _ => h.wf
  | .cascTakeover h => h.wf
  | .cascSaPair h _ _ => h.wf
  | .ctrlFwSwap h _ _ => h.wf
  | .pwrSeason h _ => h.wf
  | .pwrWinter h _ _ _ _ => h.wf
  | .pwrDomainSet h _ _ => h.wf
  | .pwrAlarmSet h _ _ => h.wf
  | .pwrAutumnConfig h _ _ _ _ => h.wf
  | .pwrQuery h => h.wf
  | .domainUpDone _ => true
  | .domainDownDone _ => true
  | .autumnEvaluate => true
  | .autumnGateGroup => true
  | .seasonSummerReady => true
  | .winterReady => true
  | .pmeTurnOff => true
  | .linkWaitExpiry => true
  | .winterCommit _ => true
  | .wakePin _ _ _ _ => true
  | .wakeHeadEnd => true
  | .wakeAlarm _ => true
  | .coreHeartbeatLoss => true
  | .thaw _ => true
  | .thawDone => true
  | .avsStatusPoll _ _ _ => true
  | .controlCoreFence core => decide (core < 16)
  | .fwSwapResume => true
  | .fwSwapTimeout => true
  | .powerOnReset => true
  | .porNAssert => true
  | .supplyDip => true
  | .perstN => true
  | .thermtrip => true
  | .thermtripClear => true
  | .registerRead addr => bar0Address addr
  | .scalarOperation _ _ _ _ _ => true
  | .controlRegisterWrite _ _ => true
  | .presenceRelease => true
  | .commandWaitExpiry _ _ => true
  | .ppsOutFall => true
  | .pauseQuantaExpiry _ => true
  | .pcieLinkL0 => true

end Sys2Proof
end

