-- ==== Sys2Proof/Safety.lean ====
section
/-! DEFINITION. What holds of every state that a run reaches, what counts as a safe step, and the words the statements use: what a step ends in,
which units it leaves alone, and what an accepted packet comes to. -/

namespace Sys2Proof.Machine

/-- Pasture's list is in its canonical form, and no command has left a write to Pasture unmade. -/
def State.Tidy (s : State) : Prop := Memory.wf s.mem ∧ s.dev.memOut = []

/-- Whether an outcome is a next state. -/
def goesOn (o : Host.Outcome State Fault Refusal) : Prop := ∃ t, o = .next t

/-- A safe step: it gives a next state, which is tidy. -/
def safeStep (s : State) : Prop := ∃ t, step s = .next t ∧ t.Tidy

/-- An outcome is a next state of which `P` holds. -/
def Ends (o : Host.Outcome State Fault Refusal) (P : State → Prop) : Prop := ∃ t, o = .next t ∧ P t

/-- The parts of the device that statements speak of: its units, and of the SYS block, BELL and the Fold some registers of their own. `memOut` holds
writes to Pasture on their way within one command. -/
inductive Part where
  | freeCtr | out | memOut | sys | epoch | staged | rings | sess | bell | tick | past | fold | otp | resetReq | pwr | aux | pins | parse | tm | cli | flock
  | acc | media | aud | vid | imc | casc | lane | drove | integ
deriving DecidableEq, Repr

/-- A part is the same in two devices. -/
def Part.same (p : Part) (d e : Dev) : Prop :=
  match p with
  | .freeCtr => e.freeCtr = d.freeCtr
  | .out => e.out = d.out
  | .memOut => e.memOut = d.memOut
  | .sys => e.sys = d.sys
  | .epoch => e.sys.epochStaged = d.sys.epochStaged
  | .staged => e.sys.staged = d.sys.staged
  | .rings => e.sys.rings = d.sys.rings
  | .sess => e.sys.sess = d.sys.sess
  | .bell => e.bell = d.bell
  | .tick => e.bell.tick = d.bell.tick
  | .past => e.past = d.past
  | .fold => e.fold = d.fold
  | .otp => e.fold.otp = d.fold.otp
  | .resetReq => e.fold.resetReq = d.fold.resetReq
  | .pwr => e.pwr = d.pwr
  | .aux => e.aux = d.aux
  | .pins => e.pins = d.pins
  | .parse => e.parse = d.parse
  | .tm => e.tm = d.tm
  | .cli => e.cli = d.cli
  | .flock => e.flock = d.flock
  | .acc => e.acc = d.acc
  | .media => e.media = d.media
  | .aud => e.aud = d.aud
  | .vid => e.vid = d.vid
  | .imc => e.imc = d.imc
  | .casc => e.casc = d.casc
  | .lane => e.lane = d.lane
  | .drove => e.drove = d.drove
  | .integ => e.integ = d.integ

/-- Every part but those listed is the same in two devices. -/
structure Touches (ps : List Part) (d e : Dev) : Prop where
  same : ∀ p, ps.contains p = false → p.same d e

/-- The device as a command finds it: what the last command sent has left. -/
def State.start (s : State) : Dev := { s.dev with out := [], memOut := [] }

/-- The queue and Pasture are as they were, and so is every part but those listed. -/
def Keeps (ps : List Part) (s t : State) : Prop := t.pending = s.pending ∧ t.mem = s.mem ∧ Touches ps s.start t.dev

/-- The next state in which the device is `d` and nothing else is changed. -/
def State.become (s : State) (d : Dev) : Host.Outcome State Fault Refusal := .next { s with dev := d }

/-- The next state in which the device is `d`, with the writes to Pasture that it has on their way made in their order. -/
def State.commit (s : State) (d : Dev) : Host.Outcome State Fault Refusal :=
  .next { s with mem := memWrites s.mem d.memOut, dev := { d with memOut := [] } }

/-- The device as every change staged so far will leave it: what a packet's own conditions are checked against (R17). -/
def State.view (s : State) : Dev := projected s.start

/-- The Kervon packet that a command is, if it is one, as the control cores find it in state `s`: an image that it names is read in Pasture (R223, R472). -/
def packetOf (s : State) (i : Instr) : Option (CmdHdr × KCmd) := (kOf i).map (fun p => (p.1, withImage s.mem p.2))

/-- The control cores serve commands: boot is past LOADER and not in RECOVERY, and no Winter and no firmware swap is under way (R518, R566, R574). -/
def Serving (d : Dev) : Prop :=
  (d.fold.boot.stage = .ctrl ∨ d.fold.boot.stage = .ready) ∧ d.pwr.season ≠ .winter ∧ d.pwr.phase ≠ .entering ∧ d.aux.swapState ≠ 1
    ∧ d.fold.resetReq = false

/-- The packet is whole, and its header fits its transport (R509, R514 to R516). -/
def HeaderOk (h : CmdHdr) (c : KCmd) : Prop :=
  checkHolds h c = true ∧ h.lengthOver = false ∧ lengthFits h c = true ∧ h.reservedFlag = false
    ∧ (match h.tr with
      | .ring _ => h.owner = 0x01#8
      | .session k => h.owner = BitVec.ofNat 8 (0x10 + k))

/-- The sender may give the command: a reading one, or over a ring, or in a session of role 1 (R517); and the presence gate is open to it (R500). -/
def Allowed (d : Dev) (h : CmdHdr) (c : KCmd) : Prop :=
  (kIsRead c = false → ∀ k, h.tr = .session k → (sessOf d k).role = 1)
    ∧ (kGated d c = true → d.fold.guard.sealIntact = true ∧ d.fold.guard.window ≠ .shut ∧ h.presenceExpected = true)

/-- The packet passes every check of R514 that comes before the command's own: the control cores serve it, its header is right, its sender may give it,
its expected epoch is the staged one, and every domain it reads or changes is on. -/
def Taken (s : State) (h : CmdHdr) (c : KCmd) : Prop :=
  Serving s.start ∧ HeaderOk h c ∧ Allowed s.start h c ∧ (h.epochCheck = true → h.expEpoch = s.dev.sys.epochStaged)
    ∧ ∀ k ∈ kDomains c, domOn s.start k = true

/-- The epoch that the next accepted changing command takes (R519). -/
def State.nextEpoch (s : State) : Word := s.dev.sys.epochStaged + 1

/-- Where the reply to a packet goes, with the epoch it carries. -/
def replyTo (h : CmdHdr) (c : KCmd) (e : Word) : ReplyCtx :=
  { tr := some h.tr, op := kOpcode c, seq := h.seq, wanted := h.respWanted, epoch := e }

/-- An accepted changing command: EPOCH_STAGED advanced, the epoch outstanding if its change is, and a button window that it used closed (R500, R519). -/
def accept (s : State) (c : KCmd) (keep : Bool) (d : Dev) : Dev :=
  onSys (closeButton (kGated s.start c) d) (fun y =>
    { y with epochStaged := s.nextEpoch, outstanding := if keep then y.outstanding ++ [s.nextEpoch] else y.outstanding })

/-- What a reading command comes to: `data` in a DONE reply with the epoch as it stands, the device left as `d`. -/
def readDone (s : State) (h : CmdHdr) (c : KCmd) (data : List Nat) (d : Dev) : Host.Outcome State Fault Refusal :=
  s.become (answer d (replyTo h c s.dev.sys.epochStaged) .done data)

/-- What a command that acts at its dequeue comes to: the device made `d`, the epoch advanced and `data` in a DONE reply. -/
def actDone (s : State) (h : CmdHdr) (c : KCmd) (data : List Nat) (d : Dev) : Host.Outcome State Fault Refusal :=
  s.become (answer (accept s c false d) (replyTo h c s.nextEpoch) .done data)

/-- The entry that a command staged for a bell waits in. -/
def stagedEntry (s : State) (h : CmdHdr) (c : KCmd) (acc : Bool) (pick : Nat) (data : List Nat) (wait : Option Nat) : Staged :=
  { change := .kervon c pick, ctx := replyTo h c s.nextEpoch, data := data, accepted := acc, armed := false, waitDomain := wait }

/-- What a command whose change waits for its bell comes to: its entry last in the list of staged changes, and ACCEPTED answered where it is a job's. -/
def stages (s : State) (h : CmdHdr) (c : KCmd) (acc : Bool) (pick : Nat) (data : List Nat) (wait : Option Nat) (d : Dev) : Host.Outcome State Fault Refusal :=
  let e := onSys (accept s c true d) (fun y => { y with staged := y.staged ++ [stagedEntry s h c acc pick data wait] })
  s.become (if acc then answer e (replyTo h c s.nextEpoch) .accepted [] else e)

/-- The same, of a command whose acceptance writes to Pasture: the writes that `d` has on their way are made. -/
def stagesWriting (s : State) (h : CmdHdr) (c : KCmd) (acc : Bool) (pick : Nat) (data : List Nat) (wait : Option Nat) (d : Dev) :
    Host.Outcome State Fault Refusal :=
  let e := onSys (accept s c true d) (fun y => { y with staged := y.staged ++ [stagedEntry s h c acc pick data wait] })
  s.commit (if acc then answer e (replyTo h c s.nextEpoch) .accepted [] else e)

/-- What a command that a job of the device carries out comes to: the job begun in `d`, and ACCEPTED or DEFERRED answered. -/
def begins (s : State) (h : CmdHdr) (c : KCmd) (keep : Bool) (st : Status) (d : Dev) : Host.Outcome State Fault Refusal :=
  s.become (answer (accept s c keep d) (replyTo h c s.nextEpoch) st [])

/-- What a command whose DONE comes when a unit is ready comes to: the work begun in `d`, and nothing answered yet. -/
def awaits (s : State) (_h : CmdHdr) (c : KCmd) (d : Dev) : Host.Outcome State Fault Refusal := s.become (accept s c true d)

/-- What a command whose reply, once out, may reset the device comes to: the device `d`, reset where the command asked for it (R501, R531). -/
def settles (s : State) (d : Dev) : Host.Outcome State Fault Refusal := s.commit (resetAfter d)

/-- A slice hears a PLOAM message and acts on it at once: no firmware swap is under way (R574), the slice is in service and synchronised, and the message
is broadcast, or it is the slice's own, passes its check and is no repeat (R237, R239). -/
def Hears (d : Dev) (n : Nat) (h : PloamHdr) : Prop :=
  d.aux.swapState ≠ 1 ∧ n < 4 ∧ domOn d (4 + n) = true ∧ (sliceOf d n).st ≠ .disabled ∧ (sliceOf d n).st ≠ .killed ∧ (sliceOf d n).sync = true
    ∧ (h.onu = 0x3FF ∨ (h.onu = (sliceOf d n).onu ∧ h.micOk = true ∧ (sliceOf d n).lastSeq ≠ some h.seq))

/-- What a PLOAM message that was heard leaves: its answer queued, and the answer of a unicast one kept for its repeat (R237, R251). -/
def heard (n : Nat) (h : PloamHdr) (r : Option PloamUp) (d : Dev) : Dev :=
  if h.onu = 0x3FF then ploamAnswer d n r
  else onSlice (ploamAnswer d n r) n (fun x => { x with lastSeq := some h.seq, lastResp := r })

/-- A bond message that is the next of its epoch, to a slice in O5 of a device in native mode (R273, R275). -/
def BondTold (d : Dev) (n : Nat) (h : BondHdr) : Prop :=
  n < 4 ∧ d.acc.cfg.native = true ∧ (sliceOf d n).st = .o5 ∧ domOn d (4 + n) = true ∧ h.onu = (sliceOf d n).onu ∧ h.micOk = true
    ∧ h.bondId = d.acc.bond.id ∧ h.epoch = (d.acc.bond.epoch + 1) % 256

/-- What a bond message that was acted on leaves: its epoch taken, and its code answered in a BOND_ACK that is kept for its repeat (R274, R275). -/
def bondTold (n type : Nat) (h : BondHdr) (code : Nat) (d : Dev) : Dev :=
  bondAckKeep (onBond d (fun b => { b with epoch := h.epoch % 256 })) n type h code

/-- A cascade port takes a frame: CASC is on, the port is not DOWN, and the frame's CRC, and its TAG where it
carries one, hold (R537, R538). -/
def CascHears (d : Dev) (h : CascHdr) (t : CascType) (pay : List Byte) : Prop :=
  h.port ≤ 1 ∧ domOn d 39 = true ∧ (cascPort d h.port).st ≠ .down ∧ crcHolds h t pay = true ∧ tagHolds d h t pay = true

/-- What a frame that was taken leaves before it is acted on: the frame counted, a good CONTROL tag ending a run of bad ones, and a twin's frame heard
(R537, R538, R548). -/
def cascGot (h : CascHdr) (control : Bool) (d : Dev) : Dev :=
  let e := onCascPort d h.port (fun x => { x with rx := satInc x.rx })
  let e := if control then onCascPort e h.port (fun x => { x with badTags := 0 }) else e
  if some h.src = d.casc.twin then onCasc e (fun c => { c with partnerHeard := true, lost := false }) else e

/-- An operation issues in the engine's present cycle: the engine runs, its slot is free and of the right kind, no operation of the bundle names its
accumulator, no delay slot holds a change of flow, and its predicate holds (R196 to R200). -/
def CanIssue (d : Dev) (i : Issue) (acc : Option Nat) (slotOk flow : Bool) : Prop :=
  engRuns d i.eng = true ∧ i.gap = 0 ∧ slotOk = true
    ∧ (∀ b ∈ (engOf d i.eng).core.bundle, b.1 ≠ i.slot ∧ (acc ≠ none → b.2 ≠ acc))
    ∧ (flow = true → (engOf d i.eng).core.br = none) ∧ predOk (engOf d i.eng).core i.pred = true

/-- The engine with an operation in the bundle of its present cycle. -/
def issued (d : Dev) (i : Issue) (acc : Option Nat) : Dev := onCore d i.eng (fun c => { c with bundle := c.bundle ++ [(i.slot, acc)] })

/-- The register set in use on an operation's engine (R210). -/
def regsOf (d : Dev) (i : Issue) : RegSet := actSet (engOf d i.eng).core

/-- A MAC operation that issues leaves `new` in its accumulator, where a further MAC reads it a cycle later and a move three cycles later (R198). -/
def macDone (d : Dev) (i : Issue) (acc : Nat) (new : List (BitVec 80)) : Dev :=
  postResult (onCore (issued d i (some (acc % 4))) i.eng (fun c => onSet c c.shadowOn (fun r => { r with acc := tset r.acc (acc % 4) new })))
    i.eng 3 (.accMv acc) 0 new

/-- The commands that may write to Pasture: a host's or Drove's write, a digest dump or a status record at a bell, the status records of legs that a
leg's creation, a failed engine, a suspended task, an adaptation, a drain, a handover or a supply step changes, and the power-on reset, which clears all.
An engine's operation is among them because a fault of it may suspend the task that serves a leg (R219). Every other command leaves every byte of
Pasture as it is. -/
def writesPasture (i : Instr) : Bool :=
  match i with
  | .bar2Access .. | .droveBurst .. | .bellTick .. | .stagedChangesTakeEffect | .legCreate .. | .commandDequeue | .engineFailed .. | .adaptationRun ..
  | .feedbackStarved .. | .legDrainEnd .. | .migrationHandover .. | .avsStatusPoll .. | .fwSwapResume | .fwSwapTimeout | .powerOnReset
  | .load .. | .mul .. | .mac .. | .msu .. | .macSum .. | .clr .. | .mvV .. | .mvW .. | .mvS .. | .store .. | .branch .. | .call .. | .reti .. | .sig ..
  | .wmcr .. | .scalarOperation .. | .controlRegisterWrite .. | .engineInterrupt .. | .slotTimer .. => true
  | _ => false

end Sys2Proof.Machine
end

