-- ==== Sys2Proof/Certificates/Slice0/Obligations.lean ====
section
/-! DEFINITION. The statements about this machine: its step and its memory, the rules that speak of every packet, what every command comes to where
its conditions hold, what staged changes do at their bell, and what events leave unchanged. -/

open Sys2Proof Sys2Proof.Machine

/-- A step runs the command at the front of the queue. The block takes its commands from one queue, first in, first out (log 5): the model's own arrangement. -/
def Obligations.StepRunsFront : Prop :=
    ∀ (c : Instr) (rest : List Instr) (s : State), step { s with pending := c :: rest } = exec c { s with pending := rest }

/-- With no command waiting, a step leaves the state as it is. DESIGN CHOICE (log 8): time passes only by commands. -/
def Obligations.StepIdles : Prop :=
    ∀ s : State, s.pending = [] → step s = .next s

/-- The machine after reset is tidy. The invariant of StepKeepsTidy holds at reset. -/
def Obligations.ResetTidy : Prop :=
    State.reset.Tidy ∧ State.reset.pending = []

/-- Every step completes, and keeps Pasture's canonical form and no write unmade. The tidy state is an invariant of every step, over every command. -/
def Obligations.StepKeepsTidy : Prop :=
    ∀ s : State, s.Tidy → safeStep s

/-- Every command of the table completes, from every state, and leaves the queue as it is. A command that the spec refuses completes too: its refusal is a reply. -/
def Obligations.EveryCommandCompletes : Prop :=
    ∀ (i : Instr) (s : State), Ends (exec i s) (fun t => t.pending = s.pending)

/-- Every command but those that store to Pasture leaves every byte of it. The frame on memory, over all commands; writesPasture (Safety) names those that may store. -/
def Obligations.PastureKept : Prop :=
    ∀ (i : Instr) (s t : State), writesPasture i = false → exec i s = .next t → t.mem = s.mem ∧ ∀ a, memByte t.mem a = memByte s.mem a

/-- What a host's write, a leg's status record and a power-on reset change in Pasture. The stores of the commands that write to Pasture, with the address computed as the meaning computes it. -/
def Obligations.PastureStores : Prop :=
    (∀ (s : State) offset data bytes find, s.Tidy → domOn s.dev 38 = true → domOn s.dev 16 = true → offset < 2 ^ 32 →
      Ends (exec (.bar2Access offset true data bytes find) s) (fun t =>
        (∀ i, i < data.length → s.dev.sys.bar2Win * 2 ^ 32 + offset + i < pastureSize →
          memByte t.mem (s.dev.sys.bar2Win * 2 ^ 32 + offset + i) = data.getD i 0)
        ∧ ∀ a, a < s.dev.sys.bar2Win * 2 ^ 32 + offset ∨ s.dev.sys.bar2Win * 2 ^ 32 + offset + data.length ≤ a → memByte t.mem a = memByte s.mem a))
    ∧ (∀ (s : State) offset data bytes find, s.Tidy →
      Ends (exec (.bar2Access offset false data bytes find) s) (fun t => ∀ a, memByte t.mem a = memByte s.mem a))
    ∧ (∀ (s : State) leg, s.Tidy →
      Ends (exec (.adaptationRun leg) s) (fun t =>
        ∀ a, a < s.dev.media.statusBase + 256 * leg ∨ s.dev.media.statusBase + 256 * leg + 256 ≤ a → memByte t.mem a = memByte s.mem a))
    ∧ (∀ (s : State) leg, s.Tidy →
      Ends (exec (.feedbackStarved leg) s) (fun t =>
        ∀ a, a < s.dev.media.statusBase + 256 * leg ∨ s.dev.media.statusBase + 256 * leg + 256 ≤ a → memByte t.mem a = memByte s.mem a))
    ∧ (∀ (s : State) leg, s.Tidy →
      Ends (exec (.legDrainEnd leg) s) (fun t =>
        ∀ a, a < s.dev.media.statusBase + 256 * leg ∨ s.dev.media.statusBase + 256 * leg + 256 ≤ a → memByte t.mem a = memByte s.mem a))
    ∧ ∀ s : State, Ends (exec .powerOnReset s) (fun t => t.mem = [])

/-- A clean read through BAR2 returns the bytes a write through it stored. Two commands: a write and then a read of the same window. -/
def Obligations.PastureReadsBack : Prop :=
    ∀ (s : State) offset data bytes find, s.Tidy → domOn s.dev 38 = true → domOn s.dev 16 = true → offset < 2 ^ 32 →
      s.dev.sys.bar2Win * 2 ^ 32 + offset + data.length ≤ pastureSize →
      Ends (exec (.bar2Access offset true data bytes find) s) (fun t =>
        ∀ f, (eccRead (chargeClass t.start 22 (lineCount (s.dev.sys.bar2Win * 2 ^ 32 + offset) data.length)) (pastMemClass (s.dev.sys.bar2Win * 2 ^ 32 + offset))
            (s.dev.sys.bar2Win * 2 ^ 32 + offset) f).1 ≠ .uncorrectable →
          Ends (exec (.bar2Access offset false [] data.length f) t) (fun u =>
            ({ kind := .hostRead, chan := 2, vals := data.map (fun b => (b.toNat : Int)) } : Out) ∈ u.dev.out))

/-- The values that the spec gives at reset. The registers whose reset values the spec states, block by block; values that only the log gives are not here. -/
def Obligations.ResetValues : Prop :=
    Dev.reset.bell.tick = 0 ∧ Dev.reset.bell.time.c = 0
    ∧ Dev.reset.bell.time.offset = 0 ∧ Dev.reset.bell.time.rate = 0 ∧ Dev.reset.sys.epochStaged = 0
    ∧ regValue Dev.reset 1 0x44 = 0xFFFFFFFF ∧ regValue Dev.reset 1 0x48 = 1000 ∧ regValue Dev.reset 1 0x80 = 1000 ∧ regValue Dev.reset 1 0x88 = 100
    ∧ regValue Dev.reset 1 0x90 = 100 * 2 ^ 7 ∧ regValue Dev.reset 1 0x308 = 2000000000 ∧ Dev.reset.bell.succ.rank = 15
    ∧ Dev.reset.bell.lock.st = .free ∧ regValue Dev.reset 1 0x00 = 0x10 ∧ regValue Dev.reset 1 0x04 = 0
    ∧ (∀ k, leafWord Dev.reset.sys.int k = 0 ∧ leafMaskWord Dev.reset.sys.int k = 0xFFFFFFFF ∧ groupMaskOf Dev.reset.sys.int k = 0xFF)
    ∧ Dev.reset.sys.int.topMask = 0xFFFFFFFF ∧ (∀ k, domState Dev.reset k = .on)
    ∧ Dev.reset.sys.mgmtPort = 7240 ∧ Dev.reset.sys.mgmtIdle = 60 ∧ Dev.reset.fold.boot.stage = .rom
    ∧ (∀ k, (sessOf Dev.reset k).st = .free) ∧ ∀ r, (ringOf Dev.reset r).en = false

/-- A packet with EPOCH_CHECK set and another expected epoch is refused with STALE_EPOCH (R520). R520, with the checks of R514 that come before it as hypotheses. (R520) -/
def Obligations.StaleEpochRefused : Prop :=
    (∀ (i : Instr) h c (s : State), packetOf s i = some (h, c) → Serving s.start → HeaderOk h c → Allowed s.start h c →
      h.epochCheck = true → h.expEpoch ≠ s.dev.sys.epochStaged →
      exec i s = s.become (answer s.start (replyTo h c s.dev.sys.epochStaged) .staleEpoch (refusalData 0 noField)))
    ∧ ∀ (i : Instr) h c (s : State), packetOf s i = some (h, c) → (h.epochCheck = false ∨ h.expEpoch = s.dev.sys.epochStaged) →
      kChecks s.start h c (kGated s.start c) (kDomains c) ≠ some .staleEpoch

/-- A packet whose OWNER byte does not name its transport is refused with NOT_OWNER (R516). R516, with the checks of R514 that come before it (CHECK, LENGTH, opcode) as hypotheses. (R516) -/
def Obligations.WrongOwnerRefused : Prop :=
    (∀ (i : Instr) h c (s : State) r, packetOf s i = some (h, c) → Serving s.start → checkHolds h c = true → h.lengthOver = false → h.reservedFlag = false →
      lengthFits h c = true → h.tr = .ring r → h.owner ≠ 0x01#8 →
      exec i s = s.become (answer s.start (replyTo h c s.dev.sys.epochStaged) .notOwner (refusalData 0 noField)))
    ∧ ∀ (i : Instr) h c (s : State) k, packetOf s i = some (h, c) → Serving s.start → checkHolds h c = true → h.lengthOver = false → h.reservedFlag = false →
      lengthFits h c = true → h.tr = .session k → h.owner ≠ BitVec.ofNat 8 (0x10 + k) →
      exec i s = s.become (answer s.start (replyTo h c s.dev.sys.epochStaged) .notOwner (refusalData 0 noField))

/-- A received alive counter is checked by the first row of R456 that matches. R456, row by row; the last clause runs three writes. (R456) -/
def Obligations.AliveCounterRows : Prop :=
    (∀ (s : State) (u v : Nat), u < 64 → domOn s.start 2 = true → v < 256 → (cvOf s.start u).alive < 256 →
      Ends (exec (.cvAliveWrite u v) s) (fun t => t.pending = s.pending ∧ t.mem = s.mem ∧ Touches [.integ] s.start t.dev
        ∧ (∀ w, w ≠ u → cvOf t.dev w = cvOf s.start w)
        ∧ ((cvOf s.start u).aliveInit = true → (cvOf t.dev u).result = 2 ∧ (cvOf t.dev u).aliveInit = false ∧ (cvOf t.dev u).alive = v
          ∧ (cvOf t.dev u).repeated = (cvOf s.start u).repeated ∧ (cvOf t.dev u).stale = (cvOf s.start u).stale)
        ∧ ((cvOf s.start u).aliveInit = false → ((v : Int) - (cvOf s.start u).alive) % 256 = 0 →
          (cvOf t.dev u).result = 3 ∧ (cvOf t.dev u).alive = (cvOf s.start u).alive
          ∧ (cvOf t.dev u).repeated = min 65535 ((cvOf s.start u).repeated + 1) ∧ (cvOf t.dev u).stale = (cvOf s.start u).stale)
        ∧ ((cvOf s.start u).aliveInit = false → ((v : Int) - (cvOf s.start u).alive) % 256 = 1 →
          (cvOf t.dev u).result = 1 ∧ (cvOf t.dev u).alive = v
          ∧ (cvOf t.dev u).repeated = (cvOf s.start u).repeated ∧ (cvOf t.dev u).stale = (cvOf s.start u).stale)
        ∧ ((cvOf s.start u).aliveInit = false → 2 ≤ ((v : Int) - (cvOf s.start u).alive) % 256 →
          ((v : Int) - (cvOf s.start u).alive) % 256 ≤ max 1 (cvOf s.start u).aliveMax →
          (cvOf t.dev u).result = 4 ∧ (cvOf t.dev u).alive = v
          ∧ (cvOf t.dev u).repeated = (cvOf s.start u).repeated ∧ (cvOf t.dev u).stale = (cvOf s.start u).stale)
        ∧ ((cvOf s.start u).aliveInit = false → (max 1 (cvOf s.start u).aliveMax : Int) < ((v : Int) - (cvOf s.start u).alive) % 256 →
          ((cvOf s.start u).run < 2 ∨ v ≤ (cvOf s.start u).lastStale) →
          (cvOf t.dev u).result = 5 ∧ (cvOf t.dev u).alive = (cvOf s.start u).alive
          ∧ (cvOf t.dev u).stale = min 65535 ((cvOf s.start u).stale + 1) ∧ (cvOf t.dev u).repeated = (cvOf s.start u).repeated)))
    ∧ ∀ (s : State) (u v1 v2 v3 : Nat), u < 64 → domOn s.start 2 = true → (cvOf s.start u).alive < 256 → (cvOf s.start u).aliveInit = false →
      (cvOf s.start u).run = 0 → v1 < v2 → v2 < v3 → v3 < 256 →
      (∀ v ∈ [v1, v2, v3], (max 1 (cvOf s.start u).aliveMax : Int) < ((v : Int) - (cvOf s.start u).alive) % 256) →
      Ends (exec (.cvAliveWrite u v1) s) (fun t1 => (cvOf t1.dev u).result = 5
        ∧ Ends (exec (.cvAliveWrite u v2) t1) (fun t2 => (cvOf t2.dev u).result = 5
          ∧ Ends (exec (.cvAliveWrite u v3) t2) (fun t3 => (cvOf t3.dev u).result = 2 ∧ (cvOf t3.dev u).alive = v3)))

/-- The words of a time-stamp capture queue, and what reading the last of them removes (R59). R59; the words' layout is that of the BELL register map. (R59) -/
def Obligations.CaptureQueueReads : Prop :=
    (∀ (s : State) g, g < 4 → bar0Answers s.start = true → domOn s.start 3 = true →
      Ends (exec (.registerRead (0x100110 + 0x20 * g)) s) (fun t => t.dev.bell = s.start.bell
        ∧ t.dev.out = [{ kind := .hostRead, chan := 0x100110 + 0x20 * g, vals := [((tgetD s.start.bell.tsq g []).length : Int)] }]))
    ∧ (∀ (s : State) g e rest, g < 4 → bar0Answers s.start = true → domOn s.start 3 = true → tgetD s.start.bell.tsq g [] = e :: rest →
      Ends (exec (.registerRead (0x100100 + 0x20 * g)) s) (fun t => t.dev.bell = s.start.bell
        ∧ t.dev.out = [{ kind := .hostRead, chan := 0x100100 + 0x20 * g, vals := [((2 ^ 31 + 2 ^ 16 * e.port + e.tag : Nat) : Int)] }])
      ∧ Ends (exec (.registerRead (0x100104 + 0x20 * g)) s) (fun t => t.dev.bell = s.start.bell
        ∧ t.dev.out = [{ kind := .hostRead, chan := 0x100104 + 0x20 * g, vals := [((e.sec.toNat % 2 ^ 32 : Nat) : Int)] }])
      ∧ Ends (exec (.registerRead (0x100108 + 0x20 * g)) s) (fun t => t.dev.bell = s.start.bell
        ∧ t.dev.out = [{ kind := .hostRead, chan := 0x100108 + 0x20 * g, vals := [(e.ns : Int)] }])
      ∧ (∀ i : Instr, i = .tsqW3Read g ∨ i = .registerRead (0x10010C + 0x20 * g) →
        Ends (exec i s) (fun t => tgetD t.dev.bell.tsq g [] = rest ∧ (∀ k, k ≠ g → tgetD t.dev.bell.tsq k [] = tgetD s.start.bell.tsq k [])
          ∧ t.dev.out = [{ kind := .hostRead, chan := 0x10010C + 0x20 * g, vals := [(e.frac : Int)] }])))
    ∧ ∀ (s : State) g a, g < 4 → bar0Answers s.start = true → domOn s.start 3 = true → tgetD s.start.bell.tsq g [] = [] → a ∈ [0, 4, 8, 0xC] →
      Ends (exec (.registerRead (0x100100 + 0x20 * g + a)) s) (fun t => (∀ k, tgetD t.dev.bell.tsq k [] = tgetD s.start.bell.tsq k [])
        ∧ t.dev.out = [{ kind := .hostRead, chan := 0x100100 + 0x20 * g + a, vals := [0] }])

/-- TICK_LO and then TICK_HI read one consistent tick number, and neither can be written. From R74; what TICK_HI reads before any read of TICK_LO is the model's choice (log 95), so the rule is not cited as stated. -/
def Obligations.TickReads : Prop :=
    (∀ s : State, bar0Answers s.start = true → domOn s.start 3 = true → ∀ i : Instr, i = .tickLoRead ∨ i = .registerRead 0x100008 →
      Ends (exec i s) (fun t => t.dev.bell.tick = s.start.bell.tick
        ∧ t.dev.out = [{ kind := .hostRead, chan := 0x100008, vals := [((s.start.bell.tick.toNat % 2 ^ 32 : Nat) : Int)] }]
        ∧ Ends (exec (.registerRead 0x10000C) t) (fun u => u.dev.bell = t.dev.bell
          ∧ u.dev.out = [{ kind := .hostRead, chan := 0x10000C, vals := [((s.start.bell.tick.toNat / 2 ^ 32 : Nat) : Int)] }])))
    ∧ (∀ (s : State) v, Ends (exec (.registerWrite 0x100008 v) s) (fun t => t.dev.bell = s.start.bell)
      ∧ Ends (exec (.registerWrite 0x10000C v) s) (fun t => t.dev.bell = s.start.bell))
    ∧ regValue Dev.reset 1 0x8 = 0 ∧ regValue Dev.reset 1 0xC = 0

/-- The reset allotments of the 24 classes of Pasture (R25). R25's table. (R25) -/
def Obligations.ResetAllotments : Prop :=
    (∀ k < 16, (pastClass Dev.reset k).allot = 100000)
    ∧ (List.range 8).map (fun k => (pastClass Dev.reset (16 + k)).allot) = [250000, 250000, 300000, 100000, 200000, 100000, 50000, 50000]
    ∧ sumN ((List.range 24).map (fun k => (pastClass Dev.reset k).allot)) = 2900000
    ∧ 3000000 - sumN ((List.range 24).map (fun k => (pastClass Dev.reset k).allot)) = 100000

/-- A snapshot latches C and the T of that same C, for reads in any order (R52). R52; C is the counter at the write, and timeT is R48. (R52) -/
def Obligations.SnapshotLatches : Prop :=
    (∀ (s : State) cycles, bar0Answers s.start = true → domOn s.start 3 = true →
      Ends (exec (.bellSnap cycles) s) (fun t => t.dev.bell.time.c = (advanceC s.start cycles).bell.time.c
        ∧ regValue t.dev 1 0x14 + 2 ^ 32 * regValue t.dev 1 0x18 + 2 ^ 64 * regValue t.dev 1 0x1C = t.dev.bell.time.c.toNat
        ∧ regValue t.dev 1 0x20 + 2 ^ 32 * regValue t.dev 1 0x24 = (timeT t.dev.bell.time).toNat / 65536000000000 % 2 ^ 64
        ∧ regValue t.dev 1 0x28 = (timeT t.dev.bell.time).toNat % 65536000000000 / 65536
        ∧ regValue t.dev 1 0x2C = (timeT t.dev.bell.time).toNat % 65536))
    ∧ ∀ (s : State) off, off ∈ [0x14, 0x18, 0x1C, 0x20, 0x24, 0x28, 0x2C] → bar0Answers s.start = true → domOn s.start 3 = true →
      Ends (exec (.registerRead (0x100000 + off)) s) (fun t => t.dev.bell = s.start.bell
        ∧ t.dev.out = [{ kind := .hostRead, chan := 0x100000 + off, vals := [(regValue s.start 1 off : Int)] }])

/-- A change of RATE keeps T, and a change of OFFSET steps T by their difference (R49). R49, for the change of RATE and of OFFSET at their bell. (R49) -/
def Obligations.RateKeepsTime : Prop :=
    (∀ (d : Dev) (z : Staged) pick rate, z.change = .kervon (.timeRate rate) pick →
      ((applyChange z d).1.bell.time.acc = d.bell.time.acc
          + BitVec.ofInt 128 ((d.bell.time.rate.toInt * ((d.bell.time.c.toNat : Int) - d.bell.time.anchor.toNat)).tdiv (2 ^ 44)))
      ∧ (applyChange z d).1.bell.time.anchor = d.bell.time.c ∧ (applyChange z d).1.bell.time.rate = rate
      ∧ (applyChange z d).1.bell.time.c = d.bell.time.c ∧ timeT (applyChange z d).1.bell.time = timeT d.bell.time)
    ∧ ∀ (d : Dev) (z : Staged) pick offset bound, z.change = .kervon (.timeSet offset bound) pick →
      timeT (applyChange z d).1.bell.time = timeT d.bell.time + (offset - d.bell.time.offset)
      ∧ (applyChange z d).1.bell.time.offset = offset ∧ (applyChange z d).1.bell.time.c = d.bell.time.c
      ∧ (applyChange z d).1.bell.time.acc = d.bell.time.acc ∧ (applyChange z d).1.bell.time.anchor = d.bell.time.anchor

/-- EPOCH_STAGED advances by one for an accepted change and for nothing else. From R519, over all 131 Kervon commands. -/
def Obligations.EpochAdvancesByOne : Prop :=
    ∀ (i : Instr) h c (s : State), packetOf s i = some (h, c) → s.dev.fold.resetReq = false →
      Ends (exec i s) (fun t =>
        (t.dev.sys.epochStaged = s.dev.sys.epochStaged ∧ t.dev.sys.staged = s.dev.sys.staged)
        ∨ (kIsRead c = false ∧ t.dev.sys.epochStaged = s.dev.sys.epochStaged + 1)
        ∨ ((kOpcode c = 0x131 ∨ kOpcode c = 0x643) ∧ t.dev.sys.epochStaged = 0))

/-- A packet that the control cores do not dequeue changes nothing. When commands are not served. -/
def Obligations.NotServed : Prop :=
    ∀ (i : Instr) h c (s : State), packetOf s i = some (h, c) → s.dev.fold.resetReq = false →
      (s.dev.fold.boot.stage = .rom ∨ s.dev.fold.boot.stage = .foldFw ∨ s.dev.pwr.season = .winter ∨ s.dev.aux.swapState = 1
        ∨ (s.dev.fold.boot.stage = .recovery ∧ h.tr ≠ .ring 0)) →
      exec i s = s.become s.start

/-- The checks of a packet, in their order, each with the refusal it gives. The order of R514, step by step; R520 and R516 have statements of their own. -/
def Obligations.ChecksInOrder : Prop :=
    (∀ (i : Instr) h c (s : State), packetOf s i = some (h, c) → Serving s.start → checkHolds h c = false →
      exec i s = s.become (answer s.start (replyTo h c s.dev.sys.epochStaged) .badCheck (refusalData 0 noField)))
    ∧ (∀ (i : Instr) h c (s : State), packetOf s i = some (h, c) → Serving s.start → checkHolds h c = true → h.lengthOver = true →
      exec i s = s.become (answer s.start (replyTo h c s.dev.sys.epochStaged) .badLength (refusalData 0 noField)))
    ∧ (∀ (i : Instr) h c (s : State), packetOf s i = some (h, c) → Serving s.start → checkHolds h c = true → h.lengthOver = false → h.reservedFlag = true →
      exec i s = s.become (answer s.start (replyTo h c s.dev.sys.epochStaged) .badOpcode (refusalData 0 noField)))
    ∧ (∀ (i : Instr) h c (s : State), packetOf s i = some (h, c) → Serving s.start → checkHolds h c = true → h.lengthOver = false → h.reservedFlag = false →
      lengthFits h c = false →
      exec i s = s.become (answer s.start (replyTo h c s.dev.sys.epochStaged) .badLength (refusalData 0 noField)))
    ∧ (∀ (i : Instr) h c (s : State) k, packetOf s i = some (h, c) → Serving s.start → HeaderOk h c → kIsRead c = false → h.tr = .session k →
      (sessOf s.start k).role ≠ 1 →
      exec i s = s.become (answer s.start (replyTo h c s.dev.sys.epochStaged) .notOwner (refusalData 0 noField)))
    ∧ (∀ (i : Instr) h c (s : State), packetOf s i = some (h, c) → Serving s.start → HeaderOk h c → (∀ k, h.tr = .session k → (sessOf s.start k).role = 1) →
      kGated s.start c = true → s.dev.fold.guard.sealIntact = false →
      exec i s = s.become (onGuard (answer s.start (replyTo h c s.dev.sys.epochStaged) .sealed (refusalData 0 noField))
        (fun g => { g with denied := satInc g.denied })))
    ∧ (∀ (i : Instr) h c (s : State), packetOf s i = some (h, c) → Serving s.start → HeaderOk h c → (∀ k, h.tr = .session k → (sessOf s.start k).role = 1) →
      kGated s.start c = true → s.dev.fold.guard.sealIntact = true → (s.dev.fold.guard.window = .shut ∨ h.presenceExpected = false) →
      exec i s = s.become (onGuard (answer s.start (replyTo h c s.dev.sys.epochStaged) .needsPresence
        (refusalData (if kOpcode c = 0x150 ∨ kOpcode c = 0x152 then 4 else 0) noField)) (fun g => { g with denied := satInc g.denied })))
    ∧ (∀ (i : Instr) h c (s : State), packetOf s i = some (h, c) → Serving s.start → HeaderOk h c → Allowed s.start h c →
      (h.epochCheck = true → h.expEpoch = s.dev.sys.epochStaged) → (∃ k ∈ kDomains c, domOn s.start k = false) →
      exec i s = s.become (answer s.start (replyTo h c s.dev.sys.epochStaged) .dark (refusalData 0 noField)))
    ∧ ∀ (i : Instr) h c (s : State), packetOf s i = some (h, c) → (s.dev.fold.boot.stage = .ctrl ∨ s.dev.fold.boot.stage = .ready) →
      s.dev.pwr.season ≠ .winter → s.dev.pwr.phase = .entering → s.dev.aux.swapState ≠ 1 → s.dev.fold.resetReq = false →
      HeaderOk h c → Allowed s.start h c → (h.epochCheck = true → h.expEpoch = s.dev.sys.epochStaged) →
      (∀ k ∈ kDomains c, domOn s.start k = true) → kIsRead c = false →
      exec i s = s.become (answer s.start (replyTo h c s.dev.sys.epochStaged) .busy (refusalData 0 noField))

/-- What each of 14 Kervon commands comes to where its conditions hold: system time and pasture. Each clause gives the whole next state of an accepted command; Taken holds the checks that every packet passes. -/
def Obligations.SystemTimeAndPastureCommandsComplete : Prop :=
    -- SYS_QUERY (R530)
    (∀ (s : State) h, Taken s h (.sysQuery) → exec (.sysQuery h) s = readDone s h (.sysQuery) ([sysIdent, stageCode s.start.fold.boot.stage,
      s.start.sys.epochStaged.toNat, (epochInForce s.start.sys).toNat] ++ (List.range 4).map (fun r => b2n (ringOf s.start r).en + 2 * b2n (ringOf
      s.start r).stopped) ++ [((List.range 8).filter (fun k => (sessOf s.start k).st == .opened)).length]) s.start)
    -- MGMT_CONFIG (R524)
    ∧ (∀ (s : State) h addr port idle, Taken s h (.mgmtConfig addr port idle) → (addr < 2 ^ 128 ∧ port < 65536 ∧ 10 ≤ idle ∧ idle ≤ 3600) → exec
      (.mgmtConfig h addr port idle) s = stages s h (.mgmtConfig addr port idle) false 0 [] none s.start)
    -- MGMT_SESSION_QUERY (R530)
    ∧ (∀ (s : State) h, Taken s h (.mgmtSessionQuery) → exec (.mgmtSessionQuery h) s = readDone s h (.mgmtSessionQuery) (byteData ((List.range 8).flatMap
      (fun k => layBytes [(1, sessCode (sessOf s.start k).st), (1, (sessOf s.start k).role)] ++ beBytes (sessOf s.start k).addr 16 ++ layBytes [(2,
      (sessOf s.start k).port), (8, (sessOf s.start k).rxCtr.toNat), (8, (sessOf s.start k).txCtr.toNat)]))) s.start)
    -- MGMT_SESSION_CLOSE (R527)
    ∧ (∀ (s : State) h session, Taken s h (.mgmtSessionClose session) → (session < 8 ∧ (sessOf s.start session).st = .opened) → exec (.mgmtSessionClose h
      session) s = actDone s h (.mgmtSessionClose session) [] (sessionClose (datagram (onSess s.start session (fun x =>
      { x with txCtr := x.txCtr + 1 })) session 7 []) session))
    -- MGMT_SESSION_CLOSE (R527)
    ∧ (∀ (s : State) h session, Taken s h (.mgmtSessionClose session) → (session < 8 ∧ (sessOf s.start session).st ≠ .opened) → exec (.mgmtSessionClose h
      session) s = actDone s h (.mgmtSessionClose session) [] s.start)
    -- FW_STORE_WRITE (R530)
    ∧ (∀ (s : State) h kind slot offset sigOk, Taken s h (.fwStoreWrite kind slot offset (imageAt s.mem offset sigOk)) → ((kind = 2 ∨ kind = 3) ∧ slot ≤
      1 ∧ offset < 2 ^ 35 ∧ runningSlot s.start kind ≠ slot ∧ s.start.fold.boot.storeJob = none) → exec (.fwStoreWrite h kind slot offset sigOk) s =
      begins s h (.fwStoreWrite kind slot offset (imageAt s.mem offset sigOk)) false .accepted
      { s.start with fold := { s.start.fold with boot := { s.start.fold.boot with storeJob := some { kind := kind, slot := slot, img := (imageAt s.mem offset sigOk), ctx := (replyTo h (.fwStoreWrite kind slot offset (imageAt s.mem offset sigOk)) s.nextEpoch) } } } })
    -- HOST_PKT_TX (R530)
    ∧ (∀ (s : State) h twoStep tag frame stamp now, Taken s h (.hostPktTx twoStep tag frame stamp now) → tag < 65536 → exec (.hostPktTx h twoStep tag
      frame stamp now) s = actDone s h (.hostPktTx twoStep tag frame stamp now) [] (ingest s.start 5 none frame stamp now (if twoStep then some tag else
      none)))
    -- HOST_PKT_CONFIG (R531)
    ∧ (∀ (s : State) h ring enable, Taken s h (.hostPktConfig ring enable) → ring ≤ 3 → exec (.hostPktConfig h ring enable) s = stages s h
      (.hostPktConfig ring enable) false 0 [] none s.start)
    -- PASTURE_ALLOT_SET (R27)
    ∧ (∀ (s : State) h allots, Taken s h (.pastureAllotSet allots) → (allots.length = 24 ∧ (∀ a ∈ allots, a ≤ 3000000) ∧ sumN allots ≤ 3000000) → exec
      (.pastureAllotSet h allots) s = stages s h (.pastureAllotSet allots) false 0 [] none s.start)
    -- PASTURE_QUERY (R530)
    ∧ (∀ (s : State) h, Taken s h (.pastureQuery) → exec (.pastureQuery h) s = readDone s h (.pastureQuery) ((List.range 24).map (allotOf s.start) ++
      (List.range 24).map (pastureUsedReg s.start)) s.start)
    -- TIME_CONFIG (R530)
    ∧ (∀ (s : State) h cfg, Taken s h (.timeConfig cfg) → timeCfgOk cfg = true → exec (.timeConfig h cfg) s = stages s h (.timeConfig cfg) false 0 []
      none s.start)
    -- TIME_SET (R65)
    ∧ (∀ (s : State) h offset bound, Taken s h (.timeSet offset bound) → exec (.timeSet h offset bound) s = stages s h (.timeSet offset bound) false 0 []
      none s.start)
    -- TIME_RATE (R51)
    ∧ (∀ (s : State) h rate, Taken s h (.timeRate rate) → (¬ (s.start.bell.lock.autoRate = true ∧ s.start.bell.lock.st = .locked)) → exec (.timeRate h
      rate) s = stages s h (.timeRate rate) false 0 [] none s.start)
    -- TIME_OFFSET_CONFIRM (R61)
    ∧ (∀ (s : State) h action, Taken s h (.timeOffsetConfirm action) → (action ≤ 1 ∧ s.view.bell.err.todPend.isSome = true) → exec (.timeOffsetConfirm h
      action) s = stages s h (.timeOffsetConfirm action) false 0 [] none s.start)
    -- TIME_OFFSET_CONFIRM (R61)
    ∧ (∀ (s : State) h action, Taken s h (.timeOffsetConfirm action) → (action ≤ 1 ∧ s.view.bell.err.todPend = none) → exec (.timeOffsetConfirm h action)
      s = actDone s h (.timeOffsetConfirm action) [] s.start)
    -- FW_RECOVER (R531)
    ∧ (∀ (s : State) h kind hostAddr length img, s.dev.fold.boot.stage = .recovery → h.tr = .ring 0 → s.dev.pwr.season ≠ .winter → s.dev.pwr.phase ≠
      .entering → s.dev.aux.swapState ≠ 1 → s.dev.fold.resetReq = false → HeaderOk h (.fwRecover kind hostAddr length img) → Allowed s.start h
      (.fwRecover kind hostAddr length img) → (h.epochCheck = true → h.expEpoch = s.dev.sys.epochStaged) → (∀ k ∈ kDomains (.fwRecover kind hostAddr
      length img), domOn s.start k = true) → (kind = 2 ∨ kind = 3) → firmwareOk s.start kind img (s.start.fold.guard.window == .jumper) = none → exec
      (.fwRecover h kind hostAddr length img) s = s.commit (deviceReset (answer (accept s (.fwRecover kind hostAddr length img) false (onFold (onBoot
      s.start (fun b => { b with store := tset b.store (2 * kind + runningSlot s.start kind) img })) (fun f => { f with resetReq := true }))) (replyTo h
      (.fwRecover kind hostAddr length img) s.nextEpoch) .done [])))

/-- What each of 11 Kervon commands comes to where its conditions hold: conference and flock. Each clause gives the whole next state of an accepted command; Taken holds the checks that every packet passes. -/
def Obligations.ConferenceAndFlockCommandsComplete : Prop :=
    -- CONF_CREATE (R82)
    (∀ (s : State) h rcd e w, Taken s h (.confCreate rcd) → (confRecOk rcd = true ∧ confOf s.view rcd.id = none ∧ placeMix s.view rcd (confCharge rcd
      (confReserve rcd)).1 (confCharge rcd (confReserve rcd)).2 = .ok (e, w)) → exec (.confCreate h rcd) s = stages s h (.confCreate rcd) false e []
      (waitOf w) (wakeOpt s.start w))
    -- CONF_MODIFY (R81)
    ∧ (∀ (s : State) h rcd mask x, Taken s h (.confModify rcd mask) → (confOf s.view rcd.id = some x ∧ maskOk mask [2, 4, 5, 6, 7, 8, 12] = true ∧
      confRecOk (confMerge x.rcd rcd mask) = true ∧ inputsInUse s.view rcd.id ≤ (reserveAfter x (confMerge x.rcd rcd mask) mask) ∧ (confCharge
      (confMerge x.rcd rcd mask) (reserveAfter x (confMerge x.rcd rcd mask) mask)).1 ≤ 180000 ∧ x.mix = none ∧ mask.testBit 2 = false) → exec
      (.confModify h rcd mask) s = stages s h (.confModify rcd mask) false 0x10000 [] none s.start)
    -- CONF_MODIFY (R81)
    ∧ (∀ (s : State) h rcd mask x e w, Taken s h (.confModify rcd mask) → (confOf s.view rcd.id = some x ∧ maskOk mask [2, 4, 5, 6, 7, 8, 12] = true ∧
      confRecOk (confMerge x.rcd rcd mask) = true ∧ inputsInUse s.view rcd.id ≤ (reserveAfter x (confMerge x.rcd rcd mask) mask) ∧ (confCharge
      (confMerge x.rcd rcd mask) (reserveAfter x (confMerge x.rcd rcd mask) mask)).1 ≤ 180000 ∧ x.mix = none ∧ mask.testBit 2 = true ∧ placeMix s.view
      (confMerge x.rcd rcd mask) (confCharge (confMerge x.rcd rcd mask) (reserveAfter x (confMerge x.rcd rcd mask) mask)).1 (confCharge (confMerge x.rcd
      rcd mask) (reserveAfter x (confMerge x.rcd rcd mask) mask)).2 = .ok (e, w)) → exec (.confModify h rcd mask) s = stages s h (.confModify rcd mask)
      false e [] (waitOf w) (wakeOpt s.start w))
    -- CONF_MODIFY (R81)
    ∧ (∀ (s : State) h rcd mask x m, Taken s h (.confModify rcd mask) → (confOf s.view rcd.id = some x ∧ maskOk mask [2, 4, 5, 6, 7, 8, 12] = true ∧
      confRecOk (confMerge x.rcd rcd mask) = true ∧ inputsInUse s.view rcd.id ≤ (reserveAfter x (confMerge x.rcd rcd mask) mask) ∧ (confCharge
      (confMerge x.rcd rcd mask) (reserveAfter x (confMerge x.rcd rcd mask) mask)).1 ≤ 180000 ∧ x.mix = some m ∧ (mask.testBit 2 = true → (confMerge
      x.rcd rcd mask).mixEngine = 0xFFFF ∨ (confMerge x.rcd rcd mask).mixEngine = m) ∧ (∀ k ∈ enginesOf m x.move, mayGrow s.view k (chargeGrowth
      (confCharge x.rcd x.reserve) (confCharge (confMerge x.rcd rcd mask) (reserveAfter x (confMerge x.rcd rcd mask) mask))) = true)) → exec
      (.confModify h rcd mask) s = stages s h (.confModify rcd mask) false m [] none s.start)
    -- CONF_MODIFY (R81)
    ∧ (∀ (s : State) h rcd mask x m w, Taken s h (.confModify rcd mask) → (confOf s.view rcd.id = some x ∧ maskOk mask [2, 4, 5, 6, 7, 8, 12] = true ∧
      confRecOk (confMerge x.rcd rcd mask) = true ∧ inputsInUse s.view rcd.id ≤ (reserveAfter x (confMerge x.rcd rcd mask) mask) ∧ (confCharge
      (confMerge x.rcd rcd mask) (reserveAfter x (confMerge x.rcd rcd mask) mask)).1 ≤ 180000 ∧ x.mix = some m ∧ mask.testBit 2 = true ∧ (confMerge
      x.rcd rcd mask).mixEngine ≠ 0xFFFF ∧ (confMerge x.rcd rcd mask).mixEngine ≠ m ∧ (∀ k ∈ enginesOf m x.move, mayGrow s.view k (chargeGrowth
      (confCharge x.rcd x.reserve) (confCharge (confMerge x.rcd rcd mask) (reserveAfter x (confMerge x.rcd rcd mask) mask))) = true) ∧ admitNamed s.view
      (confMerge x.rcd rcd mask).mixEngine (confCharge (confMerge x.rcd rcd mask) (reserveAfter x (confMerge x.rcd rcd mask) mask)).1 (confCharge
      (confMerge x.rcd rcd mask) (reserveAfter x (confMerge x.rcd rcd mask) mask)).2 = .ok w) → exec (.confModify h rcd mask) s = stages s h
      (.confModify rcd mask) false (confMerge x.rcd rcd mask).mixEngine [] (waitOf w) (wakeOpt s.start w))
    -- CONF_DESTROY (R82)
    ∧ (∀ (s : State) h conf withLegs, Taken s h (.confDestroy conf withLegs) → ((confOf s.view conf).isSome = true ∧ (withLegs = true ∨ confLegs s.view
      conf = [])) → exec (.confDestroy h conf withLegs) s = stages s h (.confDestroy conf withLegs) false 0 [] none s.start)
    -- CONF_QUERY (R80)
    ∧ (∀ (s : State) h conf x, Taken s h (.confQuery conf) → confOf s.start conf = some x → exec (.confQuery h conf) s = readDone s h (.confQuery conf)
      [x.rcd.id, x.rcd.mixEngine, x.rcd.topK, x.rcd.langCount, b2n x.rcd.spans + 2 * b2n x.rcd.leaveFade + 4 * b2n x.rcd.video, x.rcd.encSettings,
      x.rcd.inputReserve, x.rcd.tag, x.mix.getD 0xFFFF, inputsInUse s.start conf, b2n x.mix.isNone] s.start)
    -- PLACE_SET (R92)
    ∧ (∀ (s : State) h profile first engines, Taken s h (.placeSet profile first engines) → (placeRangeOk profile first engines.length = true ∧ (∀ e ∈
      engines, e < 256)) → exec (.placeSet h profile first engines) s = stages s h (.placeSet profile first engines) false 0 [] none s.start)
    -- PLACE_QUERY (R92)
    ∧ (∀ (s : State) h profile first count, Taken s h (.placeQuery profile first count) → placeRangeOk profile first count = true → exec (.placeQuery h
      profile first count) s = readDone s h (.placeQuery profile first count) (byteData ((List.range count).flatMap (fun i => layBytes [(1, indirOf
      s.start profile (first + i) % 256), (3, engineCycles s.view (indirOf s.start profile (first + i) % 256))]))) s.start)
    -- STATUS_TABLE_SET (R113)
    ∧ (∀ (s : State) h offset enable, Taken s h (.statusTableSet offset enable) → (offset % 0x200000 = 0 ∧ offset + 0x200000 ≤ pastureSize) → exec
      (.statusTableSet h offset enable) s = stages s h (.statusTableSet offset enable) false (b2n enable) [] none s.start)
    -- ENGINE_LOAD (R226)
    ∧ (∀ (s : State) h offset engines sigOk, Taken s h (.engineLoad offset engines (imageAt s.mem offset sigOk)) → (engines ≠ [] ∧ (∀ e ∈ engines, e <
      256) ∧ engines.Nodup ∧ verifyImage s.view (imageAt s.mem offset sigOk) true = none ∧ (imageAt s.mem offset sigOk).kind = 1 ∧ (∀ e ∈ engines, domOn
      s.view (17 + e / 16) = true) ∧ (∀ e ∈ engines, engHolds s.view e = false) ∧ (∀ e ∈ engines, engPlaced s.view e = true) ∧ mediaFits s.view engines
      = true ∧ (∀ e ∈ engines, (imageAt s.mem offset sigOk).credits * (engines.filter (fun x => x / 16 == e / 16)).length + groupCredits s.view (e / 16)
      ≤ allotOf s.view (e / 16))) → exec (.engineLoad h offset engines sigOk) s = stages s h (.engineLoad offset engines (imageAt s.mem offset sigOk))
      false 0 [] none s.start)
    -- ENGINE_UNLOAD (R226)
    ∧ (∀ (s : State) h engines, Taken s h (.engineUnload engines) → (∀ e ∈ engines, e < 256) → exec (.engineUnload h engines) s = stages s h
      (.engineUnload engines) false 0 [] none s.start)
    -- GROUP_UPDATE (R227)
    ∧ (∀ (s : State) h group offset sigOk, Taken s h (.groupUpdate group offset (imageAt s.mem offset sigOk)) → (group ≤ 15 ∧ verifyImage s.view (imageAt
      s.mem offset sigOk) true = none ∧ (imageAt s.mem offset sigOk).kind = 0 ∧ domOn s.view (17 + group) = true ∧ (groupOf s.view group).st = .ready ∧
      (groupOf s.view group).update = none ∧ (∀ k ∈ List.range 16, (engOf s.view (16 * group + k)).prog = none) ∧ fitAll s.view group [] (drainCharges
      s.view group) = true) → exec (.groupUpdate h group offset sigOk) s = begins s h (.groupUpdate group offset (imageAt s.mem offset sigOk)) true
      .accepted (onFGroup s.start group (fun f =>
      { f with update := some ((imageAt s.mem offset sigOk), (replyTo h (.groupUpdate group offset (imageAt s.mem offset sigOk)) s.nextEpoch)) })))
    -- FLOCK_QUERY (R225)
    ∧ (∀ (s : State) h engine, Taken s h (.flockQuery engine) → engine ≤ 255 → exec (.flockQuery h engine) s = readDone s h (.flockQuery engine)
      [engStateReg (engOf s.start engine), (engOf s.start engine).phys, engineCycles s.view engine, engFaultReg (engOf s.start engine), (engOf s.start
      engine).faultPc.toNat, ((runningImage s.start engine).map (·.programId)).getD 0, ((runningImage s.start engine).map (·.version)).getD 0] s.start)

/-- What each of 6 Kervon commands comes to where its conditions hold: leg. Each clause gives the whole next state of an accepted command; Taken holds the checks that every packet passes. -/
def Obligations.LegCommandsComplete : Prop :=
    -- LEG_CREATE (R79)
    (∀ (s : State) h rcd x e w, Taken s h (.legCreate rcd) → (legOf s.view rcd.id = none ∧ legOk s.view rcd none = true ∧ audioLegs s.view + b2n
      (isAudioLeg rcd) ≤ 8192 ∧ videoLegs s.view + b2n (isVideoLeg rcd) ≤ 4096 ∧ (wantsSlot rcd = true → slotsHeld s.view < 64) ∧ place s.view
      (hashedEngine s.view rcd) (legCharge rcd).1 (legCharge rcd).2 [] = some (e, w) ∧ confOf s.view rcd.conf = some x ∧ codecsDark s.view
      (applyLegCreate rcd e s.view) = false ∧ mixTakes s.view x rcd.conf rcd.audioIn [e] (legCharge rcd) = true ∧ (legQueues s.view rcd).isSome = true ∧
      videoAdmits s.view (applyLegCreate rcd e s.view) = true) → exec (.legCreate h rcd) s = stagesWriting s h (.legCreate rcd) false e [e] (waitOf w)
      (stagedLeg rcd e (wakeOpt s.start w)))
    -- LEG_MODIFY (R81)
    ∧ (∀ (s : State) h rcd mask x l, Taken s h (.legModify rcd mask) → (legForCommand s.view rcd.id false = .ok l ∧ maskOk mask legMaskBits = true ∧
      (mask.testBit 4 = true → rcd.ipv6 = l.rcd.ipv6) ∧ legOk s.view (legMerge l.rcd rcd mask) (some l) = true ∧ confOf s.view (legMerge l.rcd rcd
      mask).conf = some x ∧ codecsDark s.view (applyLegModify rcd mask s.view) = false ∧ (∀ k ∈ enginesOf l.home l.move, mayGrow s.view k (chargeGrowth
      (legCharge l.rcd) (legCharge (legMerge l.rcd rcd mask))) = true) ∧ mixTakes s.view x (legMerge l.rcd rcd mask).conf ((legMerge l.rcd rcd
      mask).audioIn && (!l.rcd.audioIn || (legMerge l.rcd rcd mask).conf != l.rcd.conf)) (enginesOf l.home l.move) (chargeGrowth (legCharge l.rcd)
      (legCharge (legMerge l.rcd rcd mask))) = true ∧ ¬ (wantsSlot (legMerge l.rcd rcd mask) = true ∧ l.slot = false ∧ 64 ≤ slotsHeld s.view) ∧
      audioLegs (applyLegModify rcd mask s.view) ≤ 8192 ∧ videoLegs (applyLegModify rcd mask s.view) ≤ 4096 ∧ (legQueues s.view (legMerge l.rcd rcd
      mask)).isSome = true ∧ videoAdmits s.view (applyLegModify rcd mask s.view) = true) → exec (.legModify h rcd mask) s = stages s h (.legModify rcd
      mask) false 0 [] none s.start)
    -- LEG_DESTROY (R83)
    ∧ (∀ (s : State) h leg l, Taken s h (.legDestroy leg) → legForCommand s.view leg true = .ok l → exec (.legDestroy h leg) s = stages s h (.legDestroy
      leg) false 0 [] none s.start)
    -- LEG_REKEY (R88)
    ∧ (∀ (s : State) h leg saIn saOut l, Taken s h (.legRekey leg saIn saOut) → (legForCommand s.view leg false = .ok l ∧ handleOk s.view (some l) saIn
      true = true ∧ handleOk s.view (some l) saOut false = true) → exec (.legRekey h leg saIn saOut) s = stages s h (.legRekey leg saIn saOut) false 0
      [] none s.start)
    -- LEG_MIGRATE (R107)
    ∧ (∀ (s : State) h leg target e w l, Taken s h (.legMigrate leg target) → (legForCommand s.view leg false = .ok l ∧ target = 0xFFFF ∧ place s.view
      (some l.home) (legCharge l.rcd).1 (legCharge l.rcd).2 [l.home] = some (e, w)) → exec (.legMigrate h leg target) s = stages s h (.legMigrate leg
      target) false e [e] (waitOf w) (wakeOpt s.start w))
    -- LEG_MIGRATE (R107)
    ∧ (∀ (s : State) h leg target l, Taken s h (.legMigrate leg target) → (legForCommand s.view leg false = .ok l ∧ target = l.home ∧ target ≤ 255) →
      exec (.legMigrate h leg target) s = stages s h (.legMigrate leg target) false target [target] none s.start)
    -- LEG_MIGRATE (R107)
    ∧ (∀ (s : State) h leg target l w, Taken s h (.legMigrate leg target) → (legForCommand s.view leg false = .ok l ∧ target ≤ 255 ∧ target ≠ l.home ∧
      admitNamed s.view target (legCharge l.rcd).1 (legCharge l.rcd).2 = .ok w) → exec (.legMigrate h leg target) s = stages s h (.legMigrate leg
      target) false target [target] (waitOf w) (wakeOpt s.start w))
    -- LEG_QUERY (R113)
    ∧ (∀ (s : State) h leg, Taken s h (.legQuery leg) → (leg ≤ 8191 ∧ tget s.start.media.legs leg = none) → exec (.legQuery h leg) s = readDone s h
      (.legQuery leg) (0 :: leg :: List.replicate 50 0) s.start)
    -- LEG_QUERY (R113)
    ∧ (∀ (s : State) h leg l, Taken s h (.legQuery leg) → (leg ≤ 8191 ∧ tget s.start.media.legs leg = some l ∧ l.snap ≠ []) → exec (.legQuery h leg) s =
      readDone s h (.legQuery leg) l.snap s.start)
    -- LEG_QUERY (R113)
    ∧ (∀ (s : State) h leg l, Taken s h (.legQuery leg) → (leg ≤ 8191 ∧ tget s.start.media.legs leg = some l ∧ l.snap = []) → exec (.legQuery h leg) s =
      readDone s h (.legQuery leg) ((statusVals s.start leg l 0).map (·.1)) s.start)

/-- What each of 10 Kervon commands comes to where its conditions hold: audio. Each clause gives the whole next state of an accepted command; Taken holds the checks that every packet passes. -/
def Obligations.AudioCommandsComplete : Prop :=
    -- ROUTE_SET (R138)
    (∀ (s : State) h rcd x e w, Taken s h (.routeSet rcd) → (routeFieldsOk rcd = true ∧ (rcd.output = true ∨ rcd.rateHz = 48000) ∧ endpointBusy s.view
      rcd = false ∧ confTakes s.view rcd.conf = some x ∧ channelBad s.view x rcd = false ∧ relaySelf s.view rcd = false ∧ minusOk s.view rcd = true ∧
      (if rcd.engine = 0xFFFF then x.mix else some rcd.engine) = some e ∧ routeAdmit s.view x rcd e = .ok w) → exec (.routeSet h rcd) s = stages s h
      (.routeSet rcd) false e [e] (waitOf w) (wakeOpt s.start w))
    -- ROUTE_CLEAR (R153)
    ∧ (∀ (s : State) h route x, Taken s h (.routeClear route) → (routeOf s.view route = some x ∧ x.clearing = none) → exec (.routeClear h route) s =
      stages s h (.routeClear route) false 0 [] none s.start)
    -- ROUTE_QUERY (R153)
    ∧ (∀ (s : State) h route x, Taken s h (.routeQuery route) → routeOf s.start route = some x → exec (.routeQuery h route) s = readDone s h (.routeQuery
      route) (routeVals x.rcd ++ [x.engine, b2n x.fade.isSome]) s.start)
    -- CONSOLE_SET (R133)
    ∧ (∀ (s : State) h route live listen x, Taken s h (.consoleSet route live listen) → (routeOf s.view route = some x ∧ x.rcd.output = false ∧
      x.rcd.role = 2 ∧ x.clearing = none ∧ live ≤ 1 ∧ listen ≤ ((confOf s.view x.rcd.conf).map (·.rcd.langCount)).getD 0 ∧ listen ≠ x.rcd.channel) →
      exec (.consoleSet h route live listen) s = stages s h (.consoleSet route live listen) false 0 [] none s.start)
    -- AUD_PARAM_WRITE (R140)
    ∧ (∀ (s : State) h set block data, Taken s h (.audParamWrite set block data) → (setOfBlock block = some 0 ∧ set = 0 ∧ (∀ e ∈ data, paramOk block e.1
      e.2 (((data.find? (fun e => e.1 == 0)).map (·.2)).getD (paramIn s.view block 0 false)) = true)) → exec (.audParamWrite h set block data) s =
      stages s h (.audParamWrite set block data) false 0 [] none s.start)
    -- AUD_PARAM_WRITE (R140)
    ∧ (∀ (s : State) h set block data, Taken s h (.audParamWrite set block data) → (setOfBlock block = some set ∧ set ≠ 0 ∧ (∀ e ∈ data, paramOk block
      e.1 e.2 (((data.find? (fun e => e.1 == 0)).map (·.2)).getD (paramIn s.view block 0 false)) = true) ∧ s.start.aud.hsCommit.filter (fun e => e.1 ==
      set - 1) = []) → exec (.audParamWrite h set block data) s = actDone s h (.audParamWrite set block data) [] (bankWrite s.start block data))
    -- AUD_PARAM_WRITE (R140)
    ∧ (∀ (s : State) h set block data q, Taken s h (.audParamWrite set block data) → (setOfBlock block = some set ∧ set ≠ 0 ∧ (∀ e ∈ data, paramOk block
      e.1 e.2 (((data.find? (fun e => e.1 == 0)).map (·.2)).getD (paramIn s.view block 0 false)) = true) ∧ (s.start.aud.hsCommit.filter (fun e => e.1 ==
      set - 1)).getLast? = some q) → exec (.audParamWrite h set block data) s = actDone s h (.audParamWrite set block data) [] (onAud s.start (fun a =>
      { a with hsCommit := a.hsCommit.map (fun e => if e.2.1.epoch = q.2.1.epoch then (e.1, e.2.1, e.2.2 ++ data) else e) })))
    -- AUD_PARAM_READ (R153)
    ∧ (∀ (s : State) h set bank block first count, Taken s h (.audParamRead set bank block first count) → (setOfBlock block = some set ∧ bank ≤ 1 ∧ first
      + count ≤ 4096) → exec (.audParamRead h set bank block first count) s = readDone s h (.audParamRead set bank block first count) ((List.range
      count).map (fun i => twos 32 (paramIn s.start block (first + i) (bank == 0)))) s.start)
    -- AUD_COMMIT (R140)
    ∧ (∀ (s : State) h sets, Taken s h (.audCommit sets) → sets = [0] → exec (.audCommit h sets) s = stages s h (.audCommit sets) false 0 [1 -
      s.view.aud.active0] none s.start)
    -- AUD_COMMIT (R140)
    ∧ (∀ (s : State) h sets n, Taken s h (.audCommit sets) → (sets = [n] ∧ 1 ≤ n ∧ n ≤ 2) → exec (.audCommit h sets) s = awaits s h (.audCommit sets)
      (onAud s.start (fun a => { a with hsCommit := a.hsCommit ++ [(n - 1, (replyTo h (.audCommit sets) s.nextEpoch), [])] })))
    -- PORT_TDM_CONFIG (R149)
    ∧ (∀ (s : State) h rcd, Taken s h (.portTdmConfig rcd) → (tdmRecOk rcd = true ∧ (∀ e ∈ s.view.aud.routes, ¬ (e.2.rcd.endType = 1 ∧ e.2.rcd.endUnit =
      rcd.port))) → exec (.portTdmConfig h rcd) s = stages s h (.portTdmConfig rcd) false 0 [] none s.start)
    -- PORT_QUERY (R153)
    ∧ (∀ (s : State) h kind number, Taken s h (.portQuery kind number) → (kind = 0 ∧ number < 2) → exec (.portQuery h kind number) s = readDone s h
      (.portQuery kind number) (hsRegs s.start number) s.start)
    -- PORT_QUERY (R153)
    ∧ (∀ (s : State) h kind number, Taken s h (.portQuery kind number) → (kind = 1 ∧ number < 8) → exec (.portQuery h kind number) s = readDone s h
      (.portQuery kind number) (tdmRegs s.start number) s.start)
    -- CONF_AUDIO_QUERY (R153)
    ∧ (∀ (s : State) h conf x, Taken s h (.confAudioQuery conf) → confOf s.start conf = some x → exec (.confAudioQuery h conf) s = readDone s h
      (.confAudioQuery conf) (byteData (eachBytes 4 (ranked x.ins x.talkers) ++ leBytes x.talkers.length 1 ++ x.ins.flatMap (fun e => leBytes e.1 4 ++
      leInt ((e.2.level).getD (-32768)) 2) ++ eachBytes 2 ((List.range (x.rcd.langCount + 1)).map (fun ch => (tgetD x.dyns ch Dyn.rest).g)) ++ leBytes
      x.clip.toNat 8)) s.start)

/-- What each of 8 Kervon commands comes to where its conditions hold: video. Each clause gives the whole next state of an accepted command; Taken holds the checks that every packet passes. -/
def Obligations.VideoCommandsComplete : Prop :=
    -- CONTRIB_SET (R161)
    (∀ (s : State) h rcd l, Taken s h (.contribSet rcd) → (legOf s.view rcd.leg = some l ∧ l.st ≠ .draining ∧ l.st ≠ .lost ∧ contribOk l rcd = true ∧
      contribOf s.view rcd.leg = none ∧ codecsDark s.view (withContrib s.view rcd (if decLoad s.view 1 < decLoad s.view 0 then 1 else 0)) = false ∧
      videoAdmits s.view (withContrib s.view rcd (if decLoad s.view 1 < decLoad s.view 0 then 1 else 0)) = true) → exec (.contribSet h rcd) s = stages s
      h (.contribSet rcd) false (if decLoad s.view 1 < decLoad s.view 0 then 1 else 0) [if decLoad s.view 1 < decLoad s.view 0 then 1 else 0] none
      s.start)
    -- CONTRIB_SET (R161)
    ∧ (∀ (s : State) h rcd l x, Taken s h (.contribSet rcd) → (legOf s.view rcd.leg = some l ∧ l.st ≠ .draining ∧ l.st ≠ .lost ∧ contribOk l rcd = true ∧
      contribOf s.view rcd.leg = some x ∧ x.rcd.mode = 2 ∧ codecsDark s.view (withContrib s.view rcd x.cluster) = false ∧ videoAdmits s.view
      (withContrib s.view rcd x.cluster) = true) → exec (.contribSet h rcd) s = stages s h (.contribSet rcd) false x.cluster [x.cluster] none s.start)
    -- CONTRIB_SET (R161)
    ∧ (∀ (s : State) h rcd l x, Taken s h (.contribSet rcd) → (legOf s.view rcd.leg = some l ∧ l.st ≠ .draining ∧ l.st ≠ .lost ∧ contribOk l rcd = true ∧
      contribOf s.view rcd.leg = some x ∧ x.rcd.mode ≠ 2 ∧ codecsDark s.view (withContrib s.view rcd (if decLoad s.view 1 < decLoad s.view 0 then 1 else
      0)) = false ∧ videoAdmits s.view (withContrib s.view rcd (if decLoad s.view 1 < decLoad s.view 0 then 1 else 0)) = true) → exec (.contribSet h
      rcd) s = stages s h (.contribSet rcd) false (if decLoad s.view 1 < decLoad s.view 0 then 1 else 0) [if decLoad s.view 1 < decLoad s.view 0 then 1
      else 0] none s.start)
    -- SUBSCRIBE_SET (R164)
    ∧ (∀ (s : State) h leg entries l, Taken s h (.subscribeSet leg entries) → (legOf s.view leg = some l ∧ l.rcd.videoOut = 1 ∧ entries.length ≤ 32 ∧
      (dedup (entries.map (·.1))).length = entries.length ∧ (∀ e ∈ entries, 1 ≤ e.2 ∧ e.2 ≤ 255 ∧ subscribeOk s.view leg l e.1 = true)) → exec
      (.subscribeSet h leg entries) s = stages s h (.subscribeSet leg entries) false 0 [] none s.start)
    -- LAYOUT_SET (R175)
    ∧ (∀ (s : State) h rcd, Taken s h (.layoutSet rcd) → (layoutOk s.view rcd = true ∧ codecsDark s.view (withLayout s.view rcd) = false ∧ videoAdmits
      s.view (withLayout s.view rcd) = true) → exec (.layoutSet h rcd) s = stages s h (.layoutSet rcd) false 0 (rcd.variants.map (declaredRate s.view))
      none s.start)
    -- LAYOUT_CLEAR (R191)
    ∧ (∀ (s : State) h layout, Taken s h (.layoutClear layout) → (thas s.view.vid.layouts layout = true ∧ (∀ l ∈ s.view.media.legs, ¬ (l.2.st ≠ .free ∧
      l.2.rcd.videoOut = 2 ∧ l.2.rcd.layout = layout)) ∧ (∀ r ∈ s.view.vid.recv, ∀ key, some key = r.2.cur ∨ some key = r.2.next → ∀ strm, some strm =
      tget s.view.vid.streams key → strm.layout ≠ layout)) → exec (.layoutClear h layout) s = stages s h (.layoutClear layout) false 0 [] none s.start)
    -- LAYOUT_QUERY (R191)
    ∧ (∀ (s : State) h layout r, Taken s h (.layoutQuery layout) → tget s.start.vid.layouts layout = some r → exec (.layoutQuery h layout) s = readDone s
      h (.layoutQuery layout) (byteData (layoutBytes r ++ leBytes (s.start.vid.streams.filter (fun s => s.2.layout == layout)).length 2 ++
      (s.start.vid.streams.filter (fun s => s.2.layout == layout)).flatMap (fun s => leBytes s.1 2 ++ eachBytes 2 (s.2.cells.map (fun c => c.occ.getD
      0xFFFF))))) s.start)
    -- VID_CONFIG (R169)
    ∧ (∀ (s : State) h small mid large, Taken s h (.vidConfig small mid large) → (50 ≤ small ∧ small ≤ 20000 ∧ 50 ≤ mid ∧ mid ≤ 20000 ∧ 50 ≤ large ∧
      large ≤ 20000 ∧ videoAdmits s.view (applyVidConfig small mid large s.view) = true) → exec (.vidConfig h small mid large) s = stages s h
      (.vidConfig small mid large) false 0 [] none s.start)
    -- INTRA_REQUEST (R183)
    ∧ (∀ (s : State) h kind a b r, Taken s h (.intraRequest kind a b) → (kind = 0 ∧ tget s.view.vid.layouts a = some r ∧ (variantOf r b).isSome = true) →
      exec (.intraRequest h kind a b) s = stages s h (.intraRequest kind a b) false 0 [] none s.start)
    -- INTRA_REQUEST (R183)
    ∧ (∀ (s : State) h kind a b, Taken s h (.intraRequest kind a b) → (kind = 1 ∧ contribMode s.view a ≠ 0) → exec (.intraRequest h kind a b) s = stages
      s h (.intraRequest kind a b) false 0 [] none s.start)
    -- VID_QUERY (R191)
    ∧ (∀ (s : State) h item, Taken s h (.vidQuery item) → item = 0 → exec (.vidQuery h item) s = readDone s h (.vidQuery item) ([0x10, 0x14, 0x18, 0x1C,
      0x20].map (vidReg s.start)) s.start)
    -- VID_QUERY (R191)
    ∧ (∀ (s : State) h item, Taken s h (.vidQuery item) → item = 1 → exec (.vidQuery h item) s = readDone s h (.vidQuery item) ([1, 2, 3].map
      canonicalTier).flatten s.start)

/-- What each of 10 Kervon commands comes to where its conditions hold: access. Each clause gives the whole next state of an accepted command; Taken holds the checks that every packet passes. -/
def Obligations.AccessCommandsComplete : Prop :=
    -- ACC_CONFIG (R233)
    (∀ (s : State) h cfg, Taken s h (.accConfig cfg) → (accCfgOk cfg = true ∧ (∀ n ∈ List.range 4, (sliceOf s.view n).st = .disabled)) → exec
      (.accConfig h cfg) s = stages s h (.accConfig cfg) false 0 [] none s.start)
    -- ACC_ENABLE (R235)
    ∧ (∀ (s : State) h mask stopHeld, Taken s h (.accEnable mask stopHeld) → (mask < 16 ∧ (s.view.acc.cfg.native = true ∨ mask ≤ 1) ∧ (∀ n ∈ maskSlices
      mask, (sliceOf s.view n).st ≠ .killed)) → exec (.accEnable h mask stopHeld) s = stages s h (.accEnable mask stopHeld) false 0 [] none s.start)
    -- ACC_DISABLE (R258)
    ∧ (∀ (s : State) h mask gasp n, Taken s h (.accDisable mask gasp) → (mask = 2 ^ n ∧ n < 4 ∧ (sliceOf s.start n).st = .o5 ∧ gasp = true) → exec
      (.accDisable h mask gasp) s = awaits s h (.accDisable mask gasp) (onAcc (onSlice (gaspQueue s.start n) n (fun x =>
      { x with gasp := some s.start.bell.tick })) (fun a =>
      { a with jobs := a.jobs ++ [{ mask := mask, ctx := (replyTo h (.accDisable mask gasp) s.nextEpoch) }] })))
    -- ACC_DISABLE (R258)
    ∧ (∀ (s : State) h mask gasp n, Taken s h (.accDisable mask gasp) → (mask = 2 ^ n ∧ n < 4 ∧ gasp = false ∧ (sliceOf s.start n).st ≠ .killed) → exec
      (.accDisable h mask gasp) s = awaits s h (.accDisable mask gasp) (onAcc (endIfAllDisabled (setAccSt s.start n .disabled (bellNs s.start))) (fun a
      => { a with jobs := a.jobs ++ [{ mask := mask, ctx := (replyTo h (.accDisable mask gasp) s.nextEpoch) }] })))
    -- ACC_QUERY (R258)
    ∧ (∀ (s : State) h slice, Taken s h (.accQuery slice) → slice < 4 → exec (.accQuery h slice) s = readDone s h (.accQuery slice) ([accStCode (sliceOf
      s.start slice).st, (sliceOf s.start slice).onu, (sliceOf s.start slice).eqd, keyStateReg (sliceOf s.start slice).keys, b2n (sliceOf s.start
      slice).wdKilled + 2 * (sliceOf s.start slice).wdCause] ++ (List.range 15).map (fun i => (tgetD (sliceOf s.start slice).cnt i 0).toNat)) s.start)
    -- ACC_KILL_RELEASE (R256)
    ∧ (∀ (s : State) h slice, Taken s h (.accKillRelease slice) → slice < 4 → exec (.accKillRelease h slice) s = stages s h (.accKillRelease slice) false
      0 [] none s.start)
    -- ACC_BOND_CONFIG (R293)
    ∧ (∀ (s : State) h mask request, Taken s h (.accBondConfig mask request) → (s.view.acc.cfg.native = true ∧ mask < 16) → exec (.accBondConfig h mask
      request) s = stages s h (.accBondConfig mask request) false 0 [] none s.start)
    -- ACC_CHANNEL_LEAVE (R293)
    ∧ (∀ (s : State) h slice, Taken s h (.accChannelLeave slice) → slice < 4 → exec (.accChannelLeave h slice) s = stages s h (.accChannelLeave slice)
      false 0 [] none s.start)
    -- ACC_BOND_QUERY (R293)
    ∧ (∀ (s : State) h, Taken s h (.accBondQuery) → exec (.accBondQuery h) s = readDone s h (.accBondQuery) ([bondReg s.start 0 % 4, memberMask s.start,
      s.start.acc.bond.e, s.start.acc.bond.usNext] ++ (List.range 10).map (fun i => (tgetD s.start.acc.bond.cnt i 0).toNat)) s.start)
    -- DIAG_OMCI_READ (R528)
    ∧ (∀ (s : State) h slice cls inst mask m, Taken s h (.diagOmciRead slice cls inst mask) → (slice < 4 ∧ (meInstances cls).isSome = true ∧ tget
      (sliceOf s.start slice).mib (meKey cls inst) = some m) → exec (.diagOmciRead h slice cls inst mask) s = readDone s h (.diagOmciRead slice cls inst
      mask) ((m.filter (fun a => mask.testBit (16 - a.1))).map (·.2)) s.start)
    -- DIAG_OMCI_LIST (R528)
    ∧ (∀ (s : State) h slice cls, Taken s h (.diagOmciList slice cls) → (slice < 4 ∧ (meInstances cls).isSome = true) → exec (.diagOmciList h slice cls)
      s = readDone s h (.diagOmciList slice cls) (((sliceOf s.start slice).mib.filter (fun e => e.1 / 65536 == cls)).map (fun e => e.1 % 65536)) s.start)

/-- What each of 7 Kervon commands comes to where its conditions hold: trunk and lane. Each clause gives the whole next state of an accepted command; Taken holds the checks that every packet passes. -/
def Obligations.TrunkAndLaneCommandsComplete : Prop :=
    -- IMC_TRUNK_SET (R314)
    (∀ (s : State) h rcd e w, Taken s h (.imcTrunkSet rcd) → (trunkFieldsOk rcd = true ∧ (rcd.bonded = true → s.view.acc.cfg.native = true) ∧ (∀ e ∈
      s.view.imc.trunks, e.1 ≠ rcd.trunk → ∀ p ∈ trunkPorts e.2.rcd, p ∉ trunkPorts rcd) ∧ tget s.view.imc.trunks rcd.trunk = none ∧ placeTrunk s.view
      rcd none = .ok (e, w) ∧ (rcd.outbound = true → (trunkQueue s.view (trunkRoot s.view rcd) rcd.trunk).isSome = true)) → exec (.imcTrunkSet h rcd) s
      = stages s h (.imcTrunkSet rcd) false e [e] (waitOf w) (wakeOpt s.start w))
    -- IMC_TRUNK_CLEAR (R315)
    ∧ (∀ (s : State) h trunk, Taken s h (.imcTrunkClear trunk) → ((tget s.view.imc.trunks trunk).isSome = true ∧ trunkRouted s.view trunk = false) → exec
      (.imcTrunkClear h trunk) s = stages s h (.imcTrunkClear trunk) false 0 [] none s.start)
    -- IMC_TRUNK_QUERY (R315)
    ∧ (∀ (s : State) h trunk t, Taken s h (.imcTrunkQuery trunk) → tget s.start.imc.trunks trunk = some t → exec (.imcTrunkQuery h trunk) s = readDone s
      h (.imcTrunkQuery trunk) ([t.rcd.trunk, b2n t.rcd.inbound + 2 * b2n t.rcd.outbound, t.rcd.channels, b2n t.rcd.degInsert + 2 * b2n t.rcd.bonded,
      t.rcd.engine, t.rcd.slice, t.rcd.target, t.rcd.portIn, t.rcd.portOut, t.rcd.allocId, t.rcd.degThr, t.rcd.degSet, t.rcd.degClr] ++ (List.range
      14).map (fun i => trunkReg s.start trunk (4 * i))) s.start)
    -- LANE_GROUP_CONFIG (R337)
    ∧ (∀ (s : State) h group mode flags, Taken s h (.laneGroupConfig group mode flags) → (group ≤ 4 ∧ mode ≤ 2 ∧ flags ≤ 3 ∧ (mode = 0 → group = 0) ∧
      (mode = 2 → group ≠ 0) ∧ (getField flags 1 1 = 1 → groupBusy s.view group = false ∧ (laneGroup s.view group).sparing = none)) → exec
      (.laneGroupConfig h group mode flags) s = stages s h (.laneGroupConfig group mode flags) false 0 [] none s.start)
    -- LANE_RECAL (R325)
    ∧ (∀ (s : State) h lane, Taken s h (.laneRecal lane) → lane ≤ 31 → exec (.laneRecal h lane) s = stages s h (.laneRecal lane) false 0 [] none s.start)
    -- LANE_SPARE (R334)
    ∧ (∀ (s : State) h group lane action, Taken s h (.laneSpare group lane action) → (group ≤ 4 ∧ hasSpare group = true ∧ lane < dataLanes group ∧ action
      = 0 ∧ (laneGroup s.view group).spareFor = none ∧ (laneGroup s.view group).sparing = none ∧ (group = 0 → (tgetD s.view.acc.slices lane
      Slice.reset).ch ≠ .active)) → exec (.laneSpare h group lane action) s = stages s h (.laneSpare group lane action) false 0 [] none s.start)
    -- LANE_SPARE (R334)
    ∧ (∀ (s : State) h group lane action, Taken s h (.laneSpare group lane action) → (group ≤ 4 ∧ hasSpare group = true ∧ lane < dataLanes group ∧ action
      = 1 ∧ (laneGroup s.view group).spareFor = some lane ∧ (group = 0 → (tgetD s.view.acc.slices lane Slice.reset).ch ≠ .active)) → exec (.laneSpare h
      group lane action) s = stages s h (.laneSpare group lane action) false 0 [] none s.start)
    -- LANE_QUERY (R337)
    ∧ (∀ (s : State) h lane, Taken s h (.laneQuery lane) → lane ≤ 31 → exec (.laneQuery h lane) s = readDone s h (.laneQuery lane) (([0x000, 0x004,
      0x008, 0x00C, 0x010, 0x014, 0x018, 0x01C, 0x020, 0x024, 0x028] ++ (List.range 16).map (fun k => 0x100 + 4 * k) ++ (List.range 3).map (fun k =>
      0x140 + 4 * k)).map (laneRegOf s.start lane)) s.start)

/-- What each of 7 Kervon commands comes to where its conditions hold: client port. Each clause gives the whole next state of an accepted command; Taken holds the checks that every packet passes. -/
def Obligations.ClientPortCommandsComplete : Prop :=
    -- CLI_CONFIG (R344)
    (∀ (s : State) h mode, Taken s h (.cliConfig mode) → (mode < 3 ∧ (mode = s.view.cli.mode ∨ clientNamed s.view = false)) → exec (.cliConfig h mode)
      s = stages s h (.cliConfig mode) false 0 [] none s.start)
    -- CLI_PATH (R342)
    ∧ (∀ (s : State) h port att, Taken s h (.cliPath port att) → (port ≤ 3 ∧ portProvided s.view port = true ∧ att ≤ 1) → exec (.cliPath h port att) s =
      stages s h (.cliPath port att) false 0 [] none s.start)
    -- CLI_PORT_CONFIG (R369)
    ∧ (∀ (s : State) h port f, Taken s h (.cliPortConfig port f) → (port ≤ 4 ∧ portFieldsOk s.view port f = true ∧ (f.enable = true → portProvided s.view
      port = true ∧ (port < 4 → domOn s.view 10 = true ∧ ((ownedQueue s.view (.cut port)).isSome = true ∨ (cutQueue s.view port).isSome = true)))) →
      exec (.cliPortConfig h port f) s = stages s h (.cliPortConfig port f) false 0 [] none s.start)
    -- CLI_ADDR_SET (R351)
    ∧ (∀ (s : State) h port entry addr valid, Taken s h (.cliAddrSet port entry addr valid) → (port ≤ 4 ∧ entry ≤ 15 ∧ addr < 2 ^ 48) → exec (.cliAddrSet
      h port entry addr valid) s = stages s h (.cliAddrSet port entry addr valid) false 0 [] none s.start)
    -- CLI_MACSEC_SET (R363)
    ∧ (∀ (s : State) h port validate replay enable, Taken s h (.cliMacsecSet port validate replay enable) → (port ≤ 3 ∧ validate ≤ 3 ∧ replay ≤ 2 ^ 30) →
      exec (.cliMacsecSet h port validate replay enable) s = stages s h (.cliMacsecSet port validate replay enable) false 0 [] none s.start)
    -- CLI_MACSEC_SA (R362)
    ∧ (∀ (s : State) h port dir sci an handle, Taken s h (.cliMacsecSa port dir sci an handle) → (port ≤ 3 ∧ dir ≤ 1 ∧ an ≤ 3 ∧ handle = 0xFFFF ∧ (portOf
      s.view port).macSas.any (fun a => a.outbound == decide (dir = 1) && a.sci == sci && a.an == an) = true) → exec (.cliMacsecSa h port dir sci an
      handle) s = stages s h (.cliMacsecSa port dir sci an handle) false 0 [] none s.start)
    -- CLI_MACSEC_SA (R362)
    ∧ (∀ (s : State) h port dir sci an handle a, Taken s h (.cliMacsecSa port dir sci an handle) → (port ≤ 3 ∧ dir ≤ 1 ∧ an ≤ 3 ∧ handle ≠ 0xFFFF ∧ saOf
      s.view handle = some a ∧ a.rcd.path = 2 ∧ a.rcd.dir = dir ∧ saBound a = false ∧ saRetired a = false ∧ macRoom (portOf s.view port) (decide (dir =
      1)) sci an = true) → exec (.cliMacsecSa h port dir sci an handle) s = stages s h (.cliMacsecSa port dir sci an handle) false 0 [] none s.start)
    -- CLI_PORT_QUERY (R369)
    ∧ (∀ (s : State) h port, Taken s h (.cliPortQuery port) → port ≤ 4 → exec (.cliPortQuery h port) s = readDone s h (.cliPortQuery port) ([portReg
      s.start port 4, portReg s.start port 0x18, portReg s.start port 0x24] ++ (List.range 64).map (fun i => (tgetD (portOf s.start port).cnt i
      0).toNat)) s.start)

/-- What each of 8 Kervon commands comes to where its conditions hold: parse. Each clause gives the whole next state of an accepted command; Taken holds the checks that every packet passes. -/
def Obligations.ParseCommandsComplete : Prop :=
    -- PARSE_RULE_SET (R383)
    (∀ (s : State) h pipe index rule, Taken s h (.parseRuleSet pipe index rule) → (pipe ≤ 1 ∧ index ≤ 4095 ∧ actionOk rule.action = true) → exec
      (.parseRuleSet h pipe index rule) s = stages s h (.parseRuleSet pipe index rule) false 0 [] none s.start)
    -- PARSE_RULE_CLEAR (R396)
    ∧ (∀ (s : State) h pipe first count, Taken s h (.parseRuleClear pipe first count) → (pipe ≤ 1 ∧ first + count ≤ 4096 ∧ 1 ≤ count) → exec
      (.parseRuleClear h pipe first count) s = stages s h (.parseRuleClear pipe first count) false 0 [] none s.start)
    -- PARSE_RULE_QUERY (R396)
    ∧ (∀ (s : State) h pipe index clear, Taken s h (.parseRuleQuery pipe index clear) → (pipe ≤ 1 ∧ index ≤ 4095 ∧ tget s.start.parse.rules (4096 * pipe
      + index) = none) → exec (.parseRuleQuery h pipe index clear) s = readDone s h (.parseRuleQuery pipe index clear) [] s.start)
    -- PARSE_RULE_QUERY (R396)
    ∧ (∀ (s : State) h pipe index clear e, Taken s h (.parseRuleQuery pipe index clear) → (pipe ≤ 1 ∧ index ≤ 4095 ∧ tget s.start.parse.rules (4096 *
      pipe + index) = some e) → exec (.parseRuleQuery h pipe index clear) s = readDone s h (.parseRuleQuery pipe index clear) (byteData (ruleBytes
      e.rule ++ leBytes e.hits.toNat 5)) (if clear then onParse s.start (fun p =>
      { p with rules := tmod p.rules (4096 * pipe + index) (fun r => { r with hits := 0 }) }) else s.start))
    -- PARSE_PORT_SET (R396)
    ∧ (∀ (s : State) h port action ooo, Taken s h (.parsePortSet port action ooo) → (parsePortExists port = true ∧ actionOk action = true ∧ ooo ≤ 3) →
      exec (.parsePortSet h port action ooo) s = stages s h (.parsePortSet port action ooo) false 0 [] none s.start)
    -- PARSE_HASH_PROFILE_SET (R386)
    ∧ (∀ (s : State) h profile fields seed, Taken s h (.parseHashProfileSet profile fields seed) → (profile ≤ 63 ∧ fields < 2 ^ 12 ∧ (profile ≤ 7 → ∀ e ∈
      s.view.media.legs, e.2.st = .free ∨ e.2.rcd.hashProfile ≠ profile)) → exec (.parseHashProfileSet h profile fields seed) s = stages s h
      (.parseHashProfileSet profile fields seed) false 0 [] none s.start)
    -- PARSE_HASH_TABLE_SET (R388)
    ∧ (∀ (s : State) h profile first entries, Taken s h (.parseHashTableSet profile first entries) → (8 ≤ profile ∧ profile ≤ 63 ∧ first + entries.length
      ≤ 512 ∧ entries ≠ [] ∧ (∀ e ∈ entries, e / 2 ^ 14 % 4 ≠ 3 ∧ e < 65536)) → exec (.parseHashTableSet h profile first entries) s = stages s h
      (.parseHashTableSet profile first entries) false 0 [] none s.start)
    -- PARSE_FRAG_CONFIG (R393)
    ∧ (∀ (s : State) h age, Taken s h (.parseFragConfig age) → (8 ≤ age ∧ age ≤ 8000) → exec (.parseFragConfig h age) s = stages s h (.parseFragConfig
      age) false 0 [] none s.start)
    -- PARSE_QUERY (R396)
    ∧ (∀ (s : State) h item leg, Taken s h (.parseQuery item leg) → item = 0 → exec (.parseQuery h item leg) s = readDone s h (.parseQuery item leg)
      (byteData (eachBytes 8 ([0, 1].flatMap (fun j => [(pipeRegs s.start j).pkts.toNat, (pipeRegs s.start j).bound.toNat, (pipeRegs s.start
      j).exactHit.toNat, (pipeRegs s.start j).ruleHit.toNat, (pipeRegs s.start j).dflt.toNat])) ++ eachBytes 4 ([0, 1, 2, 3, 4, 5, 8, 9, 10, 11, 12, 13,
      14].flatMap (fun n => [(parsePort s.start n).noMatch.toNat, (parsePort s.start n).parseFail.toNat, (parsePort s.start n).tooDeep.toNat, (parsePort
      s.start n).lenContra.toNat, (parsePort s.start n).fragOoo.toNat])))) s.start)
    -- PARSE_QUERY (R396)
    ∧ (∀ (s : State) h item leg, Taken s h (.parseQuery item leg) → item = 1 → exec (.parseQuery h item leg) s = readDone s h (.parseQuery item leg)
      (byteData (eachBytes 4 ((List.range 4).flatMap (fun n => if (tgetD s.start.acc.slices n Slice.reset).onu = 0x3FF then [] else [n * 65536 + (tgetD
      s.start.acc.slices n Slice.reset).onu, 0xFFFF]) ++ (s.start.parse.gem.map (fun e => [e.1, match e.2 with | .omcc => 0xFFFF | .trunk t => t])).flatten)))
      s.start)
    -- PARSE_QUERY (R396)
    ∧ (∀ (s : State) h item leg e, Taken s h (.parseQuery item leg) → (item = 2 ∧ tget s.start.parse.exact leg = some e) → exec (.parseQuery h item leg)
      s = readDone s h (.parseQuery item leg) (byteData (leBytes e.pipe 1 ++ beBytes e.rIp 16 ++ leBytes e.rPort 2 ++ beBytes e.lIp 16 ++ layBytes [(2,
      e.lPort), (2, (e.pinned.map (· + 1)).getD 0), (1, e.profile)])) s.start)
    -- PARSE_QUERY (R396)
    ∧ (∀ (s : State) h item leg, Taken s h (.parseQuery item leg) → (item = 2 ∧ tget s.start.parse.exact leg = none) → exec (.parseQuery h item leg) s =
      readDone s h (.parseQuery item leg) [] s.start)

/-- What each of 11 Kervon commands comes to where its conditions hold: queue. Each clause gives the whole next state of an accepted command; Taken holds the checks that every packet passes. -/
def Obligations.QueueCommandsComplete : Prop :=
    -- TM_QUEUE_ALLOC (R403)
    (∀ (s : State) h f q, Taken s h (.tmQueueAlloc f) → (queueFieldsOk f = true ∧ slotOk s.view f.group f.slot none = true ∧ freeQueue s.view = some q)
      → exec (.tmQueueAlloc h f) s = stages s h (.tmQueueAlloc f) false q [q] none s.start)
    -- TM_QUEUE_SET (R421)
    ∧ (∀ (s : State) h queue f sojAlarm x, Taken s h (.tmQueueSet queue f sojAlarm) → (64 ≤ queue ∧ sojAlarm < 2 ^ 32 ∧ tget s.view.tm.queues queue =
      some x ∧ sameQueue x f = true) → exec (.tmQueueSet h queue f sojAlarm) s = stages s h (.tmQueueSet queue f sojAlarm) false 0 [] none s.start)
    -- TM_QUEUE_SET (R421)
    ∧ (∀ (s : State) h queue f sojAlarm x, Taken s h (.tmQueueSet queue f sojAlarm) → (64 ≤ queue ∧ sojAlarm < 2 ^ 32 ∧ tget s.view.tm.queues queue =
      some x ∧ x.owner = .host ∧ queueFieldsOk f = true ∧ slotOk s.view f.group f.slot (some queue) = true) → exec (.tmQueueSet h queue f sojAlarm) s =
      stages s h (.tmQueueSet queue f sojAlarm) false 0 [] none s.start)
    -- TM_QUEUE_FREE (R420)
    ∧ (∀ (s : State) h queue x, Taken s h (.tmQueueFree queue) → (64 ≤ queue ∧ tget s.view.tm.queues queue = some x ∧ x.owner = .host) → exec
      (.tmQueueFree h queue) s = stages s h (.tmQueueFree queue) false 0 [] none s.start)
    -- TM_GROUP_SET (R421)
    ∧ (∀ (s : State) h group root band quantum create n, Taken s h (.tmGroupSet group root band quantum create) → (rootExists s.view root = true ∧ band ≤
      3 ∧ 64 ≤ quantum ∧ quantum ≤ 262143 ∧ create = true ∧ freeGroup s.view = some n) → exec (.tmGroupSet h group root band quantum create) s = stages
      s h (.tmGroupSet group root band quantum create) false n [n] none s.start)
    -- TM_GROUP_SET (R421)
    ∧ (∀ (s : State) h group root band quantum create x, Taken s h (.tmGroupSet group root band quantum create) → (rootExists s.view root = true ∧ band ≤
      3 ∧ 64 ≤ quantum ∧ quantum ≤ 262143 ∧ create = false ∧ tget s.view.tm.groups group = some x ∧ x.kind = .host) → exec (.tmGroupSet h group root
      band quantum create) s = stages s h (.tmGroupSet group root band quantum create) false group [group] none s.start)
    -- TM_SHAPER_SET (R408)
    ∧ (∀ (s : State) h level number enable rate burst, Taken s h (.tmShaperSet level number enable rate burst) → (level = 0 ∧ 64 ≤ number ∧ thas
      s.view.tm.queues number = true ∧ (enable = true → rateOk rate burst = true)) → exec (.tmShaperSet h level number enable rate burst) s = stages s h
      (.tmShaperSet level number enable rate burst) false 0 [] none s.start)
    -- TM_SHAPER_SET (R408)
    ∧ (∀ (s : State) h level number enable rate burst, Taken s h (.tmShaperSet level number enable rate burst) → (level = 1 ∧ thas s.view.tm.groups
      number = true ∧ (enable = true → rateOk rate burst = true)) → exec (.tmShaperSet h level number enable rate burst) s = stages s h (.tmShaperSet
      level number enable rate burst) false 0 [] none s.start)
    -- TM_SHAPER_SET (R408)
    ∧ (∀ (s : State) h level number enable rate burst, Taken s h (.tmShaperSet level number enable rate burst) → (level = 2 ∧ rootExists s.view number =
      true ∧ (enable = true → rateOk rate burst = true)) → exec (.tmShaperSet h level number enable rate burst) s = stages s h (.tmShaperSet level
      number enable rate burst) false 0 [] none s.start)
    -- TM_ROOT_SET (R406)
    ∧ (∀ (s : State) h root adj, Taken s h (.tmRootSet root adj) → (rootExists s.view root = true ∧ -32 ≤ adj ∧ adj ≤ 63) → exec (.tmRootSet h root adj)
      s = stages s h (.tmRootSet root adj) false 0 [] none s.start)
    -- TM_POLICER_SET (R411)
    ∧ (∀ (s : State) h policer enable rate burst, Taken s h (.tmPolicerSet policer enable rate burst) → (policer < 16384 ∧ (enable = true → rateOk rate
      burst = true)) → exec (.tmPolicerSet h policer enable rate burst) s = stages s h (.tmPolicerSet policer enable rate burst) false 0 [] none s.start)
    -- TM_METER_SET (R412)
    ∧ (∀ (s : State) h meter f, Taken s h (.tmMeterSet meter f) → (meter < 1024 ∧ f.mode ≤ 3 ∧ f.yellowAct ≤ 1 ∧ f.redAct ≤ 1 ∧ rateOk f.cir f.cbs = true
      ∧ rateOk f.pir f.pbs = true) → exec (.tmMeterSet h meter f) s = stages s h (.tmMeterSet meter f) false 0 [] none s.start)
    -- TM_METER_MAP_SET (R412)
    ∧ (∀ (s : State) h port cls meter, Taken s h (.tmMeterMapSet port cls meter) → (port ≤ 14 ∧ port ≠ 6 ∧ port ≠ 7 ∧ cls ≤ 15 ∧ (meter < 1024 ∨ meter =
      0xFFFF)) → exec (.tmMeterMapSet h port cls meter) s = stages s h (.tmMeterMapSet port cls meter) false 0 [] none s.start)
    -- TM_BUF_CONFIG (R422)
    ∧ (∀ (s : State) h high deepMib short, Taken s h (.tmBufConfig high deepMib short) → (high ≤ 262143 ∧ deepMib ≤ 8192 ∧ short = false ∧ placeBytes
      s.view .deep ≤ deepMib * 1048576) → exec (.tmBufConfig h high deepMib short) s = stages s h (.tmBufConfig high deepMib short) false 0 [] none
      s.start)
    -- TM_QUERY (R421)
    ∧ (∀ (s : State) h item number, Taken s h (.tmQuery item number) → (item = 0 ∧ number < 8192) → exec (.tmQuery h item number) s = readDone s h
      (.tmQuery item number) (((tget s.start.tm.queues number).map queueRegs).getD []) s.start)
    -- TM_QUERY (R421)
    ∧ (∀ (s : State) h item number, Taken s h (.tmQuery item number) → (item = 1 ∧ number < 512) → exec (.tmQuery h item number) s = readDone s h
      (.tmQuery item number) (((tget s.start.tm.groups number).map groupRegs).getD []) s.start)
    -- TM_QUERY (R421)
    ∧ (∀ (s : State) h item number, Taken s h (.tmQuery item number) → (item = 2 ∧ rootExists s.start number = true) → exec (.tmQuery h item number) s =
      readDone s h (.tmQuery item number) (rootRegs (rootOf s.start number)) s.start)
    -- TM_QUERY (R421)
    ∧ (∀ (s : State) h item number, Taken s h (.tmQuery item number) → (item = 3 ∧ number < 16384) → exec (.tmQuery h item number) s = readDone s h
      (.tmQuery item number) (policerRegs (tgetD s.start.tm.policers number policerReset)) s.start)
    -- TM_QUERY (R421)
    ∧ (∀ (s : State) h item number, Taken s h (.tmQuery item number) → (item = 4 ∧ number < 1024) → exec (.tmQuery h item number) s = readDone s h
      (.tmQuery item number) (((tget s.start.tm.meters number).map meterRegs).getD []) s.start)

/-- What each of 6 Kervon commands comes to where its conditions hold: integrity. Each clause gives the whole next state of an accepted command; Taken holds the checks that every packet passes. -/
def Obligations.IntegrityCommandsComplete : Prop :=
    -- INTEG_QUERY (R464)
    (∀ (s : State) h item, Taken s h (.integQuery item) → item = 0 → exec (.integQuery h item) s = readDone s h (.integQuery item) (byteData (eachBytes
      4 ((List.range 8).flatMap (fun k => [(intClass s.start k).ce.toNat, (intClass s.start k).ue.toNat])))) s.start)
    -- INTEG_QUERY (R464)
    ∧ (∀ (s : State) h item, Taken s h (.integQuery item) → item = 1 → exec (.integQuery h item) s = readDone s h (.integQuery item) (byteData ([0,
      1].flatMap (fun k => (stackOf s.start k).remap.flatMap (fun r => layBytes [(1, k), (4, r.1), (4, r.2)])))) s.start)
    -- INTEG_QUERY (R464)
    ∧ (∀ (s : State) h item, Taken s h (.integQuery item) → item = 2 → exec (.integQuery h item) s = readDone s h (.integQuery item) (byteData (eachBytes
      8 ((List.range 17).map (fun i => (tgetD s.start.integ.blocks i 0).toNat)))) s.start)
    -- INTEG_SCRUB_SET (R448)
    ∧ (∀ (s : State) h cls rate, Taken s h (.integScrubSet cls rate) → (cls < 6 ∧ rate ≤ 4095) → exec (.integScrubSet h cls rate) s = stages s h
      (.integScrubSet cls rate) false 0 [] none s.start)
    -- INTEG_SCRUB_SET (R448)
    ∧ (∀ (s : State) h cls rate, Taken s h (.integScrubSet cls rate) → (6 ≤ cls ∧ cls ≤ 7 ∧ rate ≤ 50000 ∧ rate + scrubRate s.view (13 - cls) + 1024 ≤
      allotOf s.view 23) → exec (.integScrubSet h cls rate) s = stages s h (.integScrubSet cls rate) false 0 [] none s.start)
    -- INTEG_FLIP (R452)
    ∧ (∀ (s : State) h cls data check matchAddr addr, Taken s h (.integFlip cls data check matchAddr addr) → (cls ≤ 7 ∧ check ≤ 255 ∧ matchAddr ≤ 1) →
      exec (.integFlip h cls data check matchAddr addr) s = stages s h (.integFlip cls data check matchAddr addr) false 0 [] none s.start)
    -- INTEG_DIGEST_CONFIG (R459)
    ∧ (∀ (s : State) h mask, Taken s h (.integDigestConfig mask) → mask < 2 ^ 17 → exec (.integDigestConfig h mask) s = stages s h (.integDigestConfig
      mask) false 0 [] none s.start)
    -- INTEG_DIGEST_DUMP (R462)
    ∧ (∀ (s : State) h block offset, Taken s h (.integDigestDump block offset) → (block ≤ 16 ∧ offset + (blockImage block s.view).length ≤ pastureSize) →
      exec (.integDigestDump h block offset) s = stages s h (.integDigestDump block offset) false 0 [(blockImage block s.view).length] none s.start)
    -- INTEG_REMAP (R464)
    ∧ (∀ (s : State) h stack offset thr, Taken s h (.integRemap stack offset thr) → (stack ≤ 1 ∧ offset / 0x400000000 = stack ∧ thr ≤ 15 ∧ (rowMapped
      s.view stack (rowAt offset) = true ∨ (stackOf s.view stack).copying.length < (stackOf s.view stack).free)) → exec (.integRemap h stack offset thr)
      s = stages s h (.integRemap stack offset thr) false 0 [] none s.start)

/-- What each of 20 Kervon commands comes to where its conditions hold: trust. Each clause gives the whole next state of an accepted command; Taken holds the checks that every packet passes. -/
def Obligations.TrustCommandsComplete : Prop :=
    -- TRUST_QUERY (R503)
    (∀ (s : State) h clear, Taken s h (.trustQuery clear) → exec (.trustQuery h clear) s = readDone s h (.trustQuery clear) ([0, 4, 8, 0xC, 0x10, 0x14,
      0x18].map (foldReg s.start) ++ (List.range 64).map (fun k => foldReg s.start (0x100 + 4 * k)) ++ [(otpRules s.start).ownerId]) (if clear then
      { s.start with fold := { s.start.fold with guard := { s.start.fold.guard with sealHist := false } } } else s.start))
    -- TRUST_IDENTITY (R492)
    ∧ (∀ (s : State) h, Taken s h (.trustIdentity) → exec (.trustIdentity h) s = readDone s h (.trustIdentity) [Config.identityModulus, deviceSerial, b2n
      Config.gradeE] s.start)
    -- TRUST_ATTEST (R492)
    ∧ (∀ (s : State) h nonce, Taken s h (.trustAttest nonce) → exec (.trustAttest h nonce) s = readDone s h (.trustAttest nonce) (byteData (attestBytes
      (attestFields (nonce % 2 ^ 256) s.start) ++ beBytes (Config.identitySign (attestBytes (attestFields (nonce % 2 ^ 256) s.start))) 384)) s.start)
    -- TRUST_IMPORT_KEY (R482)
    ∧ (∀ (s : State) h, Taken s h (.trustImportKey) → exec (.trustImportKey h) s = readDone s h (.trustImportKey) [Config.importModulus] s.start)
    -- TRUST_BOOT_SEAL (R478)
    ∧ (∀ (s : State) h, Taken s h (.trustBootSeal) → exec (.trustBootSeal h) s = actDone s h (.trustBootSeal) []
      { s.start with fold := { s.start.fold with boot := { s.start.fold.boot with sealed := true } } })
    -- TRUST_KEYLIST_LOAD (R475)
    ∧ (∀ (s : State) h list, Taken s h (.trustKeylistLoad list) → (s.start.fold.debugUnlocked = false ∧ s.start.fold.keylist = none ∧
      s.start.fold.boot.otpInForce.isSome = true ∧ keylistHash list = (otpRules s.start).keylistHash ∧ keylistOk list = true) → exec (.trustKeylistLoad
      h list) s = actDone s h (.trustKeylistLoad list) [] { s.start with fold := { s.start.fold with keylist := some list } })
    -- TRUST_FW_VERIFY (R503)
    ∧ (∀ (s : State) h offset sigOk, Taken s h (.trustFwVerify offset (imageAt s.mem offset sigOk)) → exec (.trustFwVerify h offset sigOk) s = readDone s
      h (.trustFwVerify offset (imageAt s.mem offset sigOk)) [((verifyImage s.start (imageAt s.mem offset sigOk) (s.start.fold.guard.window !=
      .shut)).map (·.2)).getD 0] s.start)
    -- TRUST_SESSION_OPEN (R482)
    ∧ (∀ (s : State) h cipher transportKey k n, Taken s h (.trustSessionOpen cipher transportKey) → (s.start.fold.debugUnlocked = false ∧ transportKey =
      some k ∧ tfree s.start.fold.sessions 0 16 = some n) → exec (.trustSessionOpen h cipher transportKey) s = actDone s h (.trustSessionOpen cipher
      transportKey) [n] { s.start with fold := { s.start.fold with sessions := tset s.start.fold.sessions n k } })
    -- TRUST_SESSION_CLOSE (R482)
    ∧ (∀ (s : State) h session, Taken s h (.trustSessionClose session) → thas s.start.fold.sessions session = true → exec (.trustSessionClose h session)
      s = actDone s h (.trustSessionClose session) [] { s.start with fold := { s.start.fold with sessions := tdel s.start.fold.sessions session } })
    -- TRUST_BASE_IMPORT (R483)
    ∧ (∀ (s : State) h session wrapped secret n, Taken s h (.trustBaseImport session wrapped secret) → (thas s.start.fold.sessions session = true ∧
      s.start.fold.debugUnlocked = false ∧ unwraps s.start session wrapped secret = true ∧ 32 ≤ secret.length ∧ secret.length ≤ 64 ∧ tfree
      s.start.fold.bases 0 256 = some n) → exec (.trustBaseImport h session wrapped secret) s = actDone s h (.trustBaseImport session wrapped secret)
      [n] { s.start with fold := { s.start.fold with bases := tset s.start.fold.bases n secret } })
    -- TRUST_BASE_DESTROY (R503)
    ∧ (∀ (s : State) h base, Taken s h (.trustBaseDestroy base) → thas s.start.fold.bases base = true → exec (.trustBaseDestroy h base) s = actDone s h
      (.trustBaseDestroy base) [] { s.start with fold := { s.start.fold with bases := tdel s.start.fold.bases base } })
    -- SA_CREATE (R486)
    ∧ (∀ (s : State) h src n session wrapped plain, Taken s h (.saCreate src) → (s.start.fold.debugUnlocked = false ∧ src = .imported session wrapped
      plain ∧ unwraps s.start session wrapped plain = true ∧ thas s.start.fold.sessions session = true ∧ saRecordOk (parseSa plain).1 = true ∧ tfree
      s.start.fold.sas 0 24576 = some n) → exec (.saCreate h src) s = actDone s h (.saCreate src) [n]
      { s.start with fold := { s.start.fold with sas := tset s.start.fold.sas n { st := .ready, rcd := (parseSa plain).1, key := (parseSa plain).2.1, salt := (parseSa plain).2.2, pkts := 0, ctrlPkts := 0, bytes := 0, prot := [] } } })
    -- SA_CREATE (R486)
    ∧ (∀ (s : State) h src secret n base label rcd, Taken s h (.saCreate src) → (s.start.fold.debugUnlocked = false ∧ src = .derived base label rcd ∧
      tget s.start.fold.bases base = some secret ∧ 0x10 ≤ label.purpose ∧ label.version = 1 ∧ 16 ≤ label.outLen ∧ label.outLen ≤ 64 ∧ saRecordOk rcd =
      true ∧ tfree s.start.fold.sas 0 24576 = some n) → exec (.saCreate h src) s = actDone s h (.saCreate src) [n]
      { s.start with fold := { s.start.fold with sas := tset s.start.fold.sas n { st := .ready, rcd := rcd, key := beNat ((kdf secret (labelBytes label) label.outLen).take rcd.keyLen), salt := beNat (((kdf secret (labelBytes label) label.outLen).drop rcd.keyLen).take 12), pkts := 0, ctrlPkts := 0, bytes := 0, prot := [] } } })
    -- SA_DESTROY (R486)
    ∧ (∀ (s : State) h handle a, Taken s h (.saDestroy handle) → (saOf s.start handle = some a ∧ saBound a = false) → exec (.saDestroy h handle) s =
      actDone s h (.saDestroy handle) [] { s.start with fold := { s.start.fold with sas := tdel s.start.fold.sas handle } })
    -- SA_QUERY (R503)
    ∧ (∀ (s : State) h handle a, Taken s h (.saQuery handle) → saOf s.start handle = some a → exec (.saQuery h handle) s = readDone s h (.saQuery handle)
      [saStateCode a, (saLimits a.rcd).1, (saLimits a.rcd).2.1, (saLimits a.rcd).2.2, a.pkts, a.ctrlPkts, a.bytes] s.start)
    -- TRUST_ROLLBACK_COMMIT (R477)
    ∧ (∀ (s : State) h program img k old, Taken s h (.trustRollbackCommit program) → ((runningImages s.start).find? (fun i => i.programId == program) =
      some img ∧ rollbackFind s.start program = some (k, old) ∧ min img.rollback 255 ≤ old) → exec (.trustRollbackCommit h program) s = actDone s h
      (.trustRollbackCommit program) [old] s.start)
    -- TRUST_ROLLBACK_COMMIT (R477)
    ∧ (∀ (s : State) h program img k old, Taken s h (.trustRollbackCommit program) → ((runningImages s.start).find? (fun i => i.programId == program) =
      some img ∧ rollbackFind s.start program = some (k, old) ∧ old < min img.rollback 255) → exec (.trustRollbackCommit h program) s = actDone s h
      (.trustRollbackCommit program) [min img.rollback 255] (raiseLeaf
      { s.start with fold := { s.start.fold with otp := { s.start.fold.otp with rollback := tset s.start.fold.otp.rollback k (program, min img.rollback 255) } } }
      22 10))
    -- TRUST_ROLLBACK_COMMIT (R477)
    ∧ (∀ (s : State) h program img k, Taken s h (.trustRollbackCommit program) → ((runningImages s.start).find? (fun i => i.programId == program) = some
      img ∧ rollbackFind s.start program = none ∧ tfree s.start.fold.otp.rollback 2 30 = some k) → exec (.trustRollbackCommit h program) s = actDone s h
      (.trustRollbackCommit program) [min img.rollback 255] (raiseLeaf
      { s.start with fold := { s.start.fold with otp := { s.start.fold.otp with rollback := tset s.start.fold.otp.rollback k (program, min img.rollback 255) } } }
      22 10))
    -- TRUST_OTP_COMMIT (R495)
    ∧ (∀ (s : State) h fields zeroOk k, Taken s h (.trustOtpCommit fields zeroOk) → (fields.rootEpoch = (otpRules s.start).rootEpoch ∧ (fields.jumper =
      true → (otpRules s.start).jumper = true) ∧ (fields.debug = true → (otpRules s.start).debug = true) ∧ zeroOk = true ∧ s.start.fold.otp.job = none ∧
      otpFreeSlot s.start = some k) → exec (.trustOtpCommit h fields zeroOk) s = begins s h (.trustOtpCommit fields zeroOk) false .accepted (otpBegin
      s.start k fields (replyTo h (.trustOtpCommit fields zeroOk) s.nextEpoch)))
    -- TRUST_ROOT_ROTATE (R497)
    ∧ (∀ (s : State) h k, Taken s h (.trustRootRotate) → (s.start.fold.otp.job = none ∧ (otpRules s.start).rootEpoch < 15 ∧ otpFreeSlot s.start = some k)
      → exec (.trustRootRotate h) s = begins s h (.trustRootRotate) false .accepted (otpBegin s.start k
      { otpRules s.start with rootEpoch := (otpRules s.start).rootEpoch + 1 } (replyTo h (.trustRootRotate) s.nextEpoch)))
    -- TRUST_DEBUG_UNLOCK (R501)
    ∧ (∀ (s : State) h, Taken s h (.trustDebugUnlock) → (otpRules s.start).debug = true → exec (.trustDebugUnlock h) s = actDone s h (.trustDebugUnlock)
      [] (onFold (retireGem s.start) (fun f =>
      { f with sas := tmap f.sas (fun _ a => { a with st := .retired (saBound a), key := 0, salt := 0 }), sessions := [], bases := [], debugUnlocked := true })))
    -- TRUST_PRESENCE_CLOSE (R498)
    ∧ (∀ (s : State) h, Taken s h (.trustPresenceClose) → exec (.trustPresenceClose h) s = actDone s h (.trustPresenceClose) []
      { s.start with fold := { s.start.fold with guard := { s.start.fold.guard with window := .shut, endTick := 0 } } })
    -- TRUST_FACTORY_RESET (R501)
    ∧ (∀ (s : State) h, Taken s h .trustFactoryReset → exec (.trustFactoryReset h) s = s.commit (deviceReset (answer (accept s .trustFactoryReset false
      (onFold s.start (fun f => { f with sas := [], sessions := [], bases := [], keylist := none, pairsHeld := false, resetReq := true }))) (replyTo h
      .trustFactoryReset s.nextEpoch) .done [])))

/-- What each of 13 Kervon commands comes to where its conditions hold: cascade and power. Each clause gives the whole next state of an accepted command; Taken holds the checks that every packet passes. -/
def Obligations.CascadeAndPowerCommandsComplete : Prop :=
    -- CASC_CONFIG (R551)
    (∀ (s : State) h domain device ports base gen, Taken s h (.cascConfig domain device ports base gen) → (device ≤ 15 ∧ ports ≤ 3 ∧ thas
      s.view.fold.bases base = true ∧ (domain = s.view.casc.domain ∧ device = s.view.casc.device ∨ cascUp s.view 0 = false ∧ cascUp s.view 1 = false) ∧
      (getField ports 0 1 = 1 → domOn s.view 11 = true) ∧ (getField ports 1 1 = 1 → domOn s.view 12 = true)) → exec (.cascConfig h domain device ports
      base gen) s = stages s h (.cascConfig domain device ports base gen) false 0 [] none s.start)
    -- CASC_QUERY (R551)
    ∧ (∀ (s : State) h, Taken s h (.cascQuery) → exec (.cascQuery h) s = readDone s h (.cascQuery) ((([0, 0x100].flatMap (fun b => [0, 4, 8, 0xC, 0x10,
      0x14].map (b + ·)) ++ [0x1000, 0x1004, 0x1008, 0x100C, 0x1010, 0x1014] ++ (List.range 16).map (fun n => 0x1100 + 4 * n)).map (cascReg s.start)))
      s.start)
    -- CASC_CONF_BIND (R541)
    ∧ (∀ (s : State) h tag home, Taken s h (.cascConfBind tag home) → home ≤ 15 → exec (.cascConfBind h tag home) s = stages s h (.cascConfBind tag home)
      false 0 [] none s.start)
    -- CASC_TWIN_SET (R546)
    ∧ (∀ (s : State) h twin, Taken s h (.cascTwinSet twin) → ((twin ≤ 15 ∨ twin = 0xFF) ∧ twin ≠ s.view.casc.device) → exec (.cascTwinSet h twin) s =
      stages s h (.cascTwinSet twin) false 0 [] none s.start)
    -- CASC_TAKEOVER (R549)
    ∧ (∀ (s : State) h, Taken s h (.cascTakeover) → (s.view.casc.twin.isSome = true ∧ s.start.casc.partnerHeard = false) → exec (.cascTakeover h) s =
      stages s h (.cascTakeover) false 0 [] none s.start)
    -- CASC_SA_PAIR (R546)
    ∧ (∀ (s : State) h handle other, Taken s h (.cascSaPair handle other) → (thas s.view.fold.sas handle = true ∧ other < 24576) → exec (.cascSaPair h
      handle other) s = stages s h (.cascSaPair handle other) false 0 [] none s.start)
    -- CTRL_FW_SWAP (R574)
    ∧ (∀ (s : State) h slot shared i, Taken s h (.ctrlFwSwap slot shared) → (slot ≤ 1 ∧ slot ≠ s.view.fold.boot.ctrlSlot ∧ tget s.view.fold.boot.store (6
      + slot) = some i ∧ firmwareOk s.view 3 i false = none ∧ shared = true ∧ (∀ x ∈ s.view.flock.groups, x.2.update = none) ∧ s.view.pwr.phase =
      .steady ∧ s.view.pwr.seasonCtx = none ∧ s.view.aux.swapState ≠ 1) → exec (.ctrlFwSwap h slot shared) s = stages s h (.ctrlFwSwap slot shared) true
      0 [] none s.start)
    -- PWR_SEASON (R560)
    ∧ (∀ (s : State) h season, Taken s h (.pwrSeason season) → (season ≤ 1 ∧ pwrBusy s.view = false ∧ s.view.pwr.seasonCtx = none) → exec (.pwrSeason h
      season) s = stages s h (.pwrSeason season) false 0 [] none s.start)
    -- PWR_WINTER (R564)
    ∧ (∀ (s : State) h banks keep thaw linkWait, Taken s h (.pwrWinter banks keep thaw linkWait) → (winterBusy s.view = false ∧ getField banks 0 4 = 15 ∧
      banks < 2 ^ 32 ∧ keep ≤ 3 ∧ thaw ≤ 1 ∧ 100 ≤ linkWait ∧ linkWait ≤ 10000 ∧ canWake s.view = true ∧ banksNeeded s.view ≤ bitCount banks) → exec
      (.pwrWinter h banks keep thaw linkWait) s = stages s h (.pwrWinter banks keep thaw linkWait) true 0 [] none s.start)
    -- PWR_DOMAIN_SET (R557)
    ∧ (∀ (s : State) h domain on, Taken s h (.pwrDomainSet domain on) → (domain ≤ 39 ∧ hostDomain domain = true ∧ pwrBusy s.view = false ∧ on = 0 ∧
      domState s.view domain = .off) → exec (.pwrDomainSet h domain on) s = stages s h (.pwrDomainSet domain on) false 0 [] none s.start)
    -- PWR_DOMAIN_SET (R557)
    ∧ (∀ (s : State) h domain on, Taken s h (.pwrDomainSet domain on) → (domain ≤ 39 ∧ hostDomain domain = true ∧ pwrBusy s.view = false ∧ on = 0 ∧
      domState s.view domain = .on ∧ domBusy s.view domain = false ∧ (domain = 9 → ∀ k ∈ [4, 5, 6, 7], domOn s.view k = false)) → exec (.pwrDomainSet h
      domain on) s = stages s h (.pwrDomainSet domain on) false 0 [] none s.start)
    -- PWR_DOMAIN_SET (R557)
    ∧ (∀ (s : State) h domain on, Taken s h (.pwrDomainSet domain on) → (domain ≤ 39 ∧ hostDomain domain = true ∧ pwrBusy s.view = false ∧ on = 0 ∧
      domState s.view domain = .shuttingDown) → exec (.pwrDomainSet h domain on) s = stages s h (.pwrDomainSet domain on) false 0 [] none s.start)
    -- PWR_DOMAIN_SET (R557)
    ∧ (∀ (s : State) h domain on, Taken s h (.pwrDomainSet domain on) → (domain ≤ 39 ∧ hostDomain domain = true ∧ pwrBusy s.view = false ∧ on = 1 ∧
      domState s.start domain ≠ .shuttingDown) → exec (.pwrDomainSet h domain on) s = stages s h (.pwrDomainSet domain on) false 0 [] none s.start)
    -- PWR_DOMAIN_SET (R557)
    ∧ (∀ (s : State) h domain on, Taken s h (.pwrDomainSet domain on) → (domain ≤ 39 ∧ hostDomain domain = true ∧ pwrBusy s.view = false ∧ on = 1 ∧
      domState s.start domain = .shuttingDown) → exec (.pwrDomainSet h domain on) s = begins s h (.pwrDomainSet domain on) true .deferred (addWait
      (domainOn s.start domain) { dom := domain, wantOn := true, deferred := true, ctx := (replyTo h (.pwrDomainSet domain on) s.nextEpoch) }))
    -- PWR_ALARM_SET (R578)
    ∧ (∀ (s : State) h value enable, Taken s h (.pwrAlarmSet value enable) → (value < 2 ^ 48 ∧ enable ≤ 1) → exec (.pwrAlarmSet h value enable) s =
      stages s h (.pwrAlarmSet value enable) false 0 [] none s.start)
    -- PWR_AUTUMN_CONFIG (R562)
    ∧ (∀ (s : State) h minGroups high low flags, Taken s h (.pwrAutumnConfig minGroups high low flags) → (1 ≤ minGroups ∧ minGroups ≤ 16 ∧ low < high ∧
      high ≤ 100 ∧ flags ≤ 1) → exec (.pwrAutumnConfig h minGroups high low flags) s = stages s h (.pwrAutumnConfig minGroups high low flags) false 0 []
      none s.start)
    -- PWR_QUERY (R578)
    ∧ (∀ (s : State) h, Taken s h (.pwrQuery) → exec (.pwrQuery h) s = readDone s h (.pwrQuery) (([0x00, 0x04, 0x08, 0x0C, 0x10, 0x14, 0x18, 0x1C, 0x20,
      0x30, 0x40, 0x44, 0x48, 0x50, 0x54, 0x58, 0x60, 0x64, 0x68, 0x6C, 0x70, 0x74, 0x78, 0x7C, 0x80].map (pwrReg s.start)) ++ [banksNeeded s.start])
      s.start)

/-- What the staged changes of time, system, integrity, cascade, power, lane and access commands do at their bell. What a staged command does when its bell comes, beside what its acceptance did. -/
def Obligations.BellEffectsOfTimeAndPower : Prop :=
    -- TIME_RATE (R51)
    (∀ (d : Dev) (z : Staged) (pick : Nat) rate, z.change = .kervon (.timeRate rate) pick → applyChange z d = (onTime d (setRate rate), true))
    -- TIME_SET (R65)
    ∧ (∀ (d : Dev) (z : Staged) (pick : Nat) offset bound, z.change = .kervon (.timeSet offset bound) pick → applyChange z d = (applyOffset offset
      .command bound d, true))
    -- TIME_OFFSET_CONFIRM (R61)
    ∧ (∀ (d : Dev) (z : Staged) (pick : Nat) action v, z.change = .kervon (.timeOffsetConfirm action) pick → d.bell.err.todPend = some v ∧ action = 0 →
      applyChange z d = (applyOffset v .headEnd 0 (onErr d (fun e => { e with todPend := none })), true))
    -- TIME_OFFSET_CONFIRM (R61)
    ∧ (∀ (d : Dev) (z : Staged) (pick : Nat) action v, z.change = .kervon (.timeOffsetConfirm action) pick → d.bell.err.todPend = some v ∧ action = 1 →
      applyChange z d = (onErr d (fun e => { e with todPend := none }), true))
    -- TIME_CONFIG (R530)
    ∧ (∀ (d : Dev) (z : Staged) (pick : Nat) cfg, z.change = .kervon (.timeConfig cfg) pick → d.bell.succ.rank = cfg.succRank → (applyChange z
      d).1.bell.lock.autoRate = cfg.autoRate ∧ (applyChange z d).1.bell.err.holdDrift = cfg.holdDrift ∧ (applyChange z d).1.bell.err.todStepMax =
      cfg.todStepMax ∧ (applyChange z d).1.bell.sleep.drift = cfg.sleepDrift ∧ (applyChange z d).1.bell.succ.asym = [(0, cfg.cascAsym0), (1,
      cfg.cascAsym1)] ∧ (applyChange z d).1.bell.succ.bellwether = d.bell.succ.bellwether)
    -- PASTURE_ALLOT_SET (R27)
    ∧ (∀ (d : Dev) (z : Staged) (pick : Nat) allots, z.change = .kervon (.pastureAllotSet allots) pick → allots.length = 24 → (∀ k, k < 24 → (pastClass
      (applyChange z d).1 k).allot = allots.getD k 0))
    -- PASTURE_ALLOT_SET (R27)
    ∧ (∀ (d : Dev) (z : Staged) (pick : Nat) allots, z.change = .kervon (.pastureAllotSet allots) pick → allots.length = 24 ∧ (∃ k, k < 24 ∧ allotOf d k
      ≠ allots.getD k 0) ∧ (∀ k, (pastClass d k).waiting = 0 ∧ (pastClass d k).used = 0) → (applyChange z d).1.past.pool = 3000000 - sumN allots ∧ (∀ k,
      k < 24 → (pastClass (applyChange z d).1 k).own = allots.getD k 0))
    -- MGMT_CONFIG (R524)
    ∧ (∀ (d : Dev) (z : Staged) (pick : Nat) addr port idle, z.change = .kervon (.mgmtConfig addr port idle) pick → applyChange z d = (onSys d (fun y =>
      { y with mgmtAddr := addr, mgmtPort := port, mgmtIdle := idle }), true))
    -- HOST_PKT_CONFIG (R531)
    ∧ (∀ (d : Dev) (z : Staged) (pick : Nat) ring enable, z.change = .kervon (.hostPktConfig ring enable) pick → ring ≤ 3 ∧ enable = true → (ringOf
      (applyChange z d).1 ring).hostPkt = true ∧ (∀ r, r ≤ 3 → r ≠ ring → (ringOf (applyChange z d).1 r).hostPkt = false))
    -- INTEG_SCRUB_SET (R448)
    ∧ (∀ (d : Dev) (z : Staged) (pick : Nat) cls rate, z.change = .kervon (.integScrubSet cls rate) pick → applyChange z d = (onIntClass d cls (fun c =>
      { c with rate := some rate }), true))
    -- INTEG_FLIP (R452)
    ∧ (∀ (d : Dev) (z : Staged) (pick : Nat) cls data check matchAddr addr, z.change = .kervon (.integFlip cls data check matchAddr addr) pick →
      applyChange z d = (onIntClass d cls (fun c =>
      { c with flipData := data, flipCheck := check, arm := true, match_ := matchAddr == 1, flipDone := false, flipAddr := addr }), true))
    -- INTEG_DIGEST_CONFIG (R459)
    ∧ (∀ (d : Dev) (z : Staged) (pick : Nat) mask, z.change = .kervon (.integDigestConfig mask) pick → applyChange z d = (onInteg d (fun i =>
      { i with mask := mask }), true))
    -- INTEG_DIGEST_DUMP (R462)
    ∧ (∀ (d : Dev) (z : Staged) (pick : Nat) block offset, z.change = .kervon (.integDigestDump block offset) pick → applyChange z d = (pastWritten
      (postMem (chargeClass d 21 (lineCount offset (blockImage block d).length)) offset (blockImage block d)) offset (blockImage block d).length, true))
    -- INTEG_REMAP (R464)
    ∧ (∀ (d : Dev) (z : Staged) (pick : Nat) stack offset thr, z.change = .kervon (.integRemap stack offset thr) pick → rowMapped d stack (offset %
      0x400000000 / 1024) = false ∧ thr = 0 ∧ ((stackOf d stack).cands.any (fun c => c.1 == offset % 0x400000000 / 1024)) = false ∧ (stackOf d
      stack).copying.contains (offset % 0x400000000 / 1024) = false → applyChange z d = (onStack d stack (fun x =>
      { x with cands := x.cands ++ [(offset % 0x400000000 / 1024, d.bell.tick)] }), true))
    -- CASC_CONF_BIND (R541)
    ∧ (∀ (d : Dev) (z : Staged) (pick : Nat) tag home, z.change = .kervon (.cascConfBind tag home) pick → applyChange z d = (onMedia d (fun m =>
      { m with binds := tset m.binds tag home }), true))
    -- CASC_TWIN_SET (R546)
    ∧ (∀ (d : Dev) (z : Staged) (pick : Nat) twin, z.change = .kervon (.cascTwinSet twin) pick → twin = 0xFF → applyChange z d = (onCasc d (fun c =>
      { c with twin := none, twinSt := .none, partnerHeard := false, lost := false }), true))
    -- CASC_TAKEOVER (R549)
    ∧ (∀ (d : Dev) (z : Staged) (pick : Nat), z.change = .kervon .cascTakeover pick → d.casc.twinSt = .tookOver → applyChange z d = (d, true))
    -- CASC_TAKEOVER (R549)
    ∧ (∀ (d : Dev) (z : Staged) (pick : Nat), z.change = .kervon .cascTakeover pick → d.casc.twinSt ≠ .tookOver → applyChange z d = (takeOver d, true))
    -- CASC_SA_PAIR (R546)
    ∧ (∀ (d : Dev) (z : Staged) (pick : Nat) handle other, z.change = .kervon (.cascSaPair handle other) pick → applyChange z d = (onCasc d (fun c =>
      { c with saPairs := tset c.saPairs handle other }), true))
    -- CASC_CONFIG (R551)
    ∧ (∀ (d : Dev) (z : Staged) (pick : Nat) domain device ports base gen, z.change = .kervon (.cascConfig domain device ports base gen) pick → ports = 3
      ∧ (cascPort d 0).st = .down ∧ (cascPort d 1).st = .down → (applyChange z d).1.casc.domain = domain ∧ (applyChange z d).1.casc.device = device ∧
      (applyChange z d).1.casc.portEn = 3 ∧ (cascPort (applyChange z d).1 0).st = .aligning ∧ (cascPort (applyChange z d).1 1).st = .aligning ∧
      (applyChange z d).1.casc.topoDue = true)
    -- CASC_CONFIG (R551)
    ∧ (∀ (d : Dev) (z : Staged) (pick : Nat) domain device ports base gen, z.change = .kervon (.cascConfig domain device ports base gen) pick → ports = 0
      → (cascPort (applyChange z d).1 0).st = .down ∧ (cascPort (applyChange z d).1 1).st = .down)
    -- PWR_ALARM_SET (R578)
    ∧ (∀ (d : Dev) (z : Staged) (pick : Nat) value enable, z.change = .kervon (.pwrAlarmSet value enable) pick → applyChange z d = (onPwr d (fun p =>
      { p with alarm := BitVec.ofNat 48 value, alarmEn := enable == 1 }), true))
    -- PWR_AUTUMN_CONFIG (R562)
    ∧ (∀ (d : Dev) (z : Staged) (pick : Nat) minGroups high low flags, z.change = .kervon (.pwrAutumnConfig minGroups high low flags) pick → applyChange
      z d = (onPwr d (fun p => { p with minGroups := minGroups, high := high, low := low, gateCodecs := flags == 1 }), true))
    -- PWR_SEASON (R560)
    ∧ (∀ (d : Dev) (z : Staged) (pick : Nat) season, z.change = .kervon (.pwrSeason season) pick → season = 1 ∧ d.pwr.season = .autumn → applyChange z d
      = (d, true))
    -- PWR_SEASON (R560)
    ∧ (∀ (d : Dev) (z : Staged) (pick : Nat) season, z.change = .kervon (.pwrSeason season) pick → season = 1 ∧ d.pwr.season ≠ .autumn → applyChange z d
      = (enterAutumn d, true))
    -- PWR_SEASON (R560)
    ∧ (∀ (d : Dev) (z : Staged) (pick : Nat) season, z.change = .kervon (.pwrSeason season) pick → season = 0 ∧ d.pwr.season = .summer → applyChange z d
      = (d, true))
    -- PWR_DOMAIN_SET (R557)
    ∧ (∀ (d : Dev) (z : Staged) (pick : Nat) domain on_, z.change = .kervon (.pwrDomainSet domain on_) pick → on_ = 0 ∧ domState d domain = .off →
      applyChange z d = (d, true))
    -- PWR_DOMAIN_SET (R557)
    ∧ (∀ (d : Dev) (z : Staged) (pick : Nat) domain on_, z.change = .kervon (.pwrDomainSet domain on_) pick → on_ = 0 ∧ domain ≤ 39 ∧ domState d domain =
      .on → applyChange z d = (addWait (setDom d domain .shuttingDown) { dom := domain, wantOn := false, deferred := false, ctx := z.ctx }, false))
    -- PWR_DOMAIN_SET (R557)
    ∧ (∀ (d : Dev) (z : Staged) (pick : Nat) domain on_, z.change = .kervon (.pwrDomainSet domain on_) pick → on_ = 1 ∧ domain ≤ 39 ∧ domState d domain =
      .on ∧ dependsOn domain = none → domState (applyChange z d).1 domain = .on ∧ (applyChange z d).1.pwr.waits = d.pwr.waits)
    -- CTRL_FW_SWAP (R574)
    ∧ (∀ (d : Dev) (z : Staged) (pick : Nat) slot shared i, z.change = .kervon (.ctrlFwSwap slot shared) pick → tget d.fold.boot.store (6 + slot) = some
      i → applyChange z d = (onPwr (onAux d (fun a => { a with swapState := 1 })) (fun p =>
      { p with swap := some { slot := slot, img := i, startTick := d.bell.tick, ctx := z.ctx } }), false))
    -- PWR_WINTER (R564)
    ∧ (∀ (d : Dev) (z : Staged) (pick : Nat) banks keep thaw_ linkWait, z.change = .kervon (.pwrWinter banks keep thaw_ linkWait) pick → (applyChange z
      d).1.pwr.phase = .entering ∧ (applyChange z d).1.pwr.thawSeason = thaw_ ∧ (applyChange z d).1.pwr.retBanks = BitVec.ofNat 32 banks ∧ (applyChange
      z d).1.pwr.stackKeep = keep ∧ (applyChange z d).1.pwr.linkWait = linkWait ∧ (∀ k ∈ winterOrder, domState (applyChange z d).1 k ≠ .on))
    -- LANE_GROUP_CONFIG (R337)
    ∧ (∀ (d : Dev) (z : Staged) (pick : Nat) group mode flags, z.change = .kervon (.laneGroupConfig group mode flags) pick → applyChange z d = (onGroupL
      d group (fun x => { x with mode := mode, autoSpare := getField flags 0 1 == 1, test := getField flags 1 1 == 1 }), true))
    -- LANE_RECAL (R325)
    ∧ (∀ (d : Dev) (z : Staged) (pick : Nat) lane, z.change = .kervon (.laneRecal lane) pick → laneOn d lane = true → applyChange z d = (onLane d lane
      (fun l => { l with recal := some d.bell.tick }), true))
    -- LANE_RECAL (R325)
    ∧ (∀ (d : Dev) (z : Staged) (pick : Nat) lane, z.change = .kervon (.laneRecal lane) pick → laneOn d lane = false → applyChange z d = (d, true))
    -- LANE_SPARE (R334)
    ∧ (∀ (d : Dev) (z : Staged) (pick : Nat) group lane action, z.change = .kervon (.laneSpare group lane action) pick → group ≠ 0 → applyChange z d =
      (onGroupL d group (fun x =>
      { x with sparing := some { lane := lane, back := action == 1, asked := false, copies := 0, endTick := d.bell.tick + 2 } }), true))
    -- LANE_SPARE (R334)
    ∧ (∀ (d : Dev) (z : Staged) (pick : Nat) group lane action, z.change = .kervon (.laneSpare group lane action) pick → group = 0 ∧ action = 0 ∧ lane <
      4 → (applyChange z d).1.lane.spareSel = lane ∧ (applyChange z d).1.lane.spareEn = true ∧ (laneOf (applyChange z d).1 4).peak = (laneOf d
      lane).peak ∧ (laneOf (applyChange z d).1 4).dfe = (laneOf d lane).dfe)
    -- ACC_BOND_CONFIG (R293)
    ∧ (∀ (d : Dev) (z : Staged) (pick : Nat) mask request, z.change = .kervon (.accBondConfig mask request) pick → request = false ∧ mask = 15 →
      applyChange z d = (onBond d (fun b => { b with mask := 15, request := false }), true))
    -- ACC_CHANNEL_LEAVE (R293)
    ∧ (∀ (d : Dev) (z : Staged) (pick : Nat) slice, z.change = .kervon (.accChannelLeave slice) pick → applyChange z d = (departure d slice 6 (bellNs d),
      true))
    -- ACC_CONFIG (R233)
    ∧ (∀ (d : Dev) (z : Staged) (pick : Nat) cfg, z.change = .kervon (.accConfig cfg) pick → cfg.native = true → applyChange z d = (onAcc d (fun a =>
      { a with cfg := cfg }), true))
    -- ACC_CONFIG (R233)
    ∧ (∀ (d : Dev) (z : Staged) (pick : Nat) cfg, z.change = .kervon (.accConfig cfg) pick → cfg.native = false → applyChange z d = (onBell (onAcc d (fun
      a => { a with cfg := cfg })) (fun b => { b with lock := { b.lock with refSlice := 0 } }), true))
    -- ACC_ENABLE (R235)
    ∧ (∀ (d : Dev) (z : Staged) (pick : Nat) mask stopHeld n, z.change = .kervon (.accEnable mask stopHeld) pick → n < 4 ∧ mask = 2 ^ n ∧ (sliceOf d
      n).st = .disabled ∧ stopHeld = false ∧ (sliceOf d n).stopHeld = false → applyChange z d = (setAccSt d n .o11 (bellNs d), true))
    -- ACC_ENABLE (R235)
    ∧ (∀ (d : Dev) (z : Staged) (pick : Nat) mask stopHeld n, z.change = .kervon (.accEnable mask stopHeld) pick → n < 4 ∧ mask = 2 ^ n ∧ (sliceOf d
      n).st = .disabled ∧ stopHeld = true → applyChange z d = (setAccSt d n .o7 (bellNs d), true))
    -- ACC_KILL_RELEASE (R256)
    ∧ (∀ (d : Dev) (z : Staged) (pick : Nat) slice, z.change = .kervon (.accKillRelease slice) pick → (sliceOf d slice).st = .killed ∧ (sliceOf d
      slice).stopHeld = false → applyChange z d = (setAccSt (onSlice d slice (fun s => { s with wdKilled := false, wdCause := 0 })) slice .o11 (bellNs
      d), true))
    -- ACC_KILL_RELEASE (R256)
    ∧ (∀ (d : Dev) (z : Staged) (pick : Nat) slice, z.change = .kervon (.accKillRelease slice) pick → (sliceOf d slice).st ≠ .killed → applyChange z d =
      (d, true))

/-- What the staged changes of client-port, PARSE and TM commands do at their bell. What a staged command does when its bell comes, beside what its acceptance did. -/
def Obligations.BellEffectsOfPorts : Prop :=
    -- CLI_CONFIG (R344)
    (∀ (d : Dev) (z : Staged) (pick : Nat) mode, z.change = .kervon (.cliConfig mode) pick → applyChange z d = (onCli d (fun c =>
      { c with mode := mode }), true))
    -- CLI_PATH (R342)
    ∧ (∀ (d : Dev) (z : Staged) (pick : Nat) port att, z.change = .kervon (.cliPath port att) pick → (portOf d port).path = att → applyChange z d = (d,
      true))
    -- CLI_PATH (R342)
    ∧ (∀ (d : Dev) (z : Staged) (pick : Nat) port att, z.change = .kervon (.cliPath port att) pick → (portOf d port).path ≠ att → applyChange z d =
      (linkTo (onPort d port (fun x => { x with path := att })) port false, true))
    -- CLI_ADDR_SET (R351)
    ∧ (∀ (d : Dev) (z : Staged) (pick : Nat) port entry addr valid, z.change = .kervon (.cliAddrSet port entry addr valid) pick → applyChange z d =
      (onPort d port (fun x => { x with addrs := tset x.addrs entry (addr + 2 ^ 48 * b2n valid) }), true))
    -- CLI_MACSEC_SET (R363)
    ∧ (∀ (d : Dev) (z : Staged) (pick : Nat) port validate replay enable, z.change = .kervon (.cliMacsecSet port validate replay enable) pick →
      applyChange z d = (onPort d port (fun x => { x with validate := validate, replay := replay, macEn := enable }), true))
    -- CLI_MACSEC_SA (R362)
    ∧ (∀ (d : Dev) (z : Staged) (pick : Nat) port dir sci an handle, z.change = .kervon (.cliMacsecSa port dir sci an handle) pick → handle = 0xFFFF ∧
      dir = 1 → (∀ a ∈ (portOf (applyChange z d).1 port).macSas, ¬ (a.outbound = true ∧ a.sci = sci ∧ a.an = an)))
    -- CLI_MACSEC_SA (R362)
    ∧ (∀ (d : Dev) (z : Staged) (pick : Nat) port dir sci an handle, z.change = .kervon (.cliMacsecSa port dir sci an handle) pick → handle ≠ 0xFFFF ∧
      dir = 1 → (portOf (applyChange z d).1 port).txAn = an ∧ ({ outbound := true, sci := sci, an := an, handle := handle, nextPn := 1 } : MacSa) ∈
      (portOf (applyChange z d).1 port).macSas)
    -- CLI_PORT_CONFIG (R369)
    ∧ (∀ (d : Dev) (z : Staged) (pick : Nat) port f, z.change = .kervon (.cliPortConfig port f) pick → port < 4 ∧ f.enable = true ∧ d.pwr.season ≠
      .autumn → (portOf (applyChange z d).1 port).f = f)
    -- CLI_PORT_CONFIG (R369)
    ∧ (∀ (d : Dev) (z : Staged) (pick : Nat) port f, z.change = .kervon (.cliPortConfig port f) pick → port ≤ 4 ∧ f.enable = false ∧ d.pwr.season ≠
      .autumn → (portOf (applyChange z d).1 port).f = f ∧ (portOf (applyChange z d).1 port).link = false)
    -- PARSE_RULE_SET (R383)
    ∧ (∀ (d : Dev) (z : Staged) (pick : Nat) pipe index rule, z.change = .kervon (.parseRuleSet pipe index rule) pick → applyChange z d = (onParse d (fun
      x => { x with rules := tset x.rules (4096 * pipe + index) { rule := rule, hits := 0 } }), true))
    -- PARSE_RULE_CLEAR (R396)
    ∧ (∀ (d : Dev) (z : Staged) (pick : Nat) pipe first count, z.change = .kervon (.parseRuleClear pipe first count) pick → applyChange z d = (onParse d
      (fun x => { x with rules := x.rules.filter (fun e => e.1 < 4096 * pipe + first || e.1 ≥ 4096 * pipe + first + count) }), true))
    -- PARSE_PORT_SET (R396)
    ∧ (∀ (d : Dev) (z : Staged) (pick : Nat) port action ooo, z.change = .kervon (.parsePortSet port action ooo) pick → applyChange z d = (onParsePort d
      port (fun r => { r with action := action, ooo := ooo }), true))
    -- PARSE_HASH_PROFILE_SET (R386)
    ∧ (∀ (d : Dev) (z : Staged) (pick : Nat) profile fields seed, z.change = .kervon (.parseHashProfileSet profile fields seed) pick → profile ≤ 7 →
      applyChange z d = (onParse d (fun x => { x with hashSeed := tset x.hashSeed profile seed }), true))
    -- PARSE_HASH_PROFILE_SET (R386)
    ∧ (∀ (d : Dev) (z : Staged) (pick : Nat) profile fields seed, z.change = .kervon (.parseHashProfileSet profile fields seed) pick → 7 < profile ∧
      fields < 512 → applyChange z d = (onParse d (fun x =>
      { x with hashSeed := tset x.hashSeed profile seed, hashFields := tset x.hashFields profile fields }), true))
    -- PARSE_HASH_TABLE_SET (R388)
    ∧ (∀ (d : Dev) (z : Staged) (pick : Nat) profile first entries, z.change = .kervon (.parseHashTableSet profile first entries) pick → first +
      entries.length ≤ 512 ∧ profile ≤ 63 → (∀ i, i < entries.length → tget (applyChange z d).1.parse.indir (512 * profile + first + i) = entries[i]?))
    -- PARSE_FRAG_CONFIG (R393)
    ∧ (∀ (d : Dev) (z : Staged) (pick : Nat) age, z.change = .kervon (.parseFragConfig age) pick → applyChange z d = (onParse d (fun x =>
      { x with age := age }), true))
    -- TM_QUEUE_ALLOC (R403)
    ∧ (∀ (d : Dev) (z : Staged) (pick : Nat) f, z.change = .kervon (.tmQueueAlloc f) pick → applyChange z d = (onTm d (fun x =>
      { x with queues := tset x.queues pick { newQueue f.group f.slot .host Bucket.off with quantum := f.quantum, limitG := f.limitG, yPct := f.yPct, rPct := f.rPct, deep := f.deep } }),
      true))
    -- TM_QUEUE_SET (R421)
    ∧ (∀ (d : Dev) (z : Staged) (pick : Nat) queue f sojAlarm, z.change = .kervon (.tmQueueSet queue f sojAlarm) pick → applyChange z d = (onQueue d
      queue (fun x =>
      { x with group := f.group, slot := f.slot, quantum := f.quantum, limitG := f.limitG, yPct := f.yPct, rPct := f.rPct, deep := f.deep, sojAlarm := sojAlarm }),
      true))
    -- TM_QUEUE_FREE (R420)
    ∧ (∀ (d : Dev) (z : Staged) (pick : Nat) queue, z.change = .kervon (.tmQueueFree queue) pick → applyChange z d = (onQueue d queue (fun x => if
      x.freeAt = none then { x with freeAt := some (d.bell.tick + 8) } else x), true))
    -- TM_GROUP_SET (R421)
    ∧ (∀ (d : Dev) (z : Staged) (pick : Nat) group root band quantum create, z.change = .kervon (.tmGroupSet group root band quantum create) pick →
      create = true → applyChange z d = (onTm d (fun x => { x with groups := tset x.groups pick (newGroup root band quantum .host) }), true))
    -- TM_GROUP_SET (R421)
    ∧ (∀ (d : Dev) (z : Staged) (pick : Nat) group root band quantum create, z.change = .kervon (.tmGroupSet group root band quantum create) pick →
      create = false → applyChange z d = (onGroup d pick (fun x => { x with root := root, band := band, quantum := quantum }), true))
    -- TM_SHAPER_SET (R408)
    ∧ (∀ (d : Dev) (z : Staged) (pick : Nat) level number enable rate burst, z.change = .kervon (.tmShaperSet level number enable rate burst) pick →
      level = 0 → applyChange z d = (onQueue d number (fun x => { x with shaper := setShaper x.shaper enable rate burst (bellNs d) }), true))
    -- TM_SHAPER_SET (R408)
    ∧ (∀ (d : Dev) (z : Staged) (pick : Nat) level number enable rate burst, z.change = .kervon (.tmShaperSet level number enable rate burst) pick →
      level = 1 → applyChange z d = (onGroup d number (fun x => { x with shaper := setShaper x.shaper enable rate burst (bellNs d) }), true))
    -- TM_SHAPER_SET (R408)
    ∧ (∀ (d : Dev) (z : Staged) (pick : Nat) level number enable rate burst, z.change = .kervon (.tmShaperSet level number enable rate burst) pick →
      level = 2 → applyChange z d = (onRoot d number (fun x => { x with shaper := setShaper x.shaper enable rate burst (bellNs d) }), true))
    -- TM_ROOT_SET (R406)
    ∧ (∀ (d : Dev) (z : Staged) (pick : Nat) root adj, z.change = .kervon (.tmRootSet root adj) pick → applyChange z d = (onRoot d root (fun x =>
      { x with adj := adj }), true))
    -- TM_POLICER_SET (R411)
    ∧ (∀ (d : Dev) (z : Staged) (pick : Nat) policer enable rate burst, z.change = .kervon (.tmPolicerSet policer enable rate burst) pick → applyChange z
      d = (onTm d (fun x =>
      { x with policers := tupd x.policers policer policerReset (fun p => { p with bucket := setShaper p.bucket enable rate burst (bellNs d) }) }),
      true))
    -- TM_METER_SET (R412)
    ∧ (∀ (d : Dev) (z : Staged) (pick : Nat) meter f m, z.change = .kervon (.tmMeterSet meter f) pick → tget d.tm.meters meter = some m → tget
      (applyChange z d).1.tm.meters meter = some
      { m with mode := f.mode, yellowAct := f.yellowAct, redAct := f.redAct, c := setShaper m.c true f.cir f.cbs (bellNs d), p := setShaper m.p true f.pir f.pbs (bellNs d) })
    -- TM_METER_MAP_SET (R412)
    ∧ (∀ (d : Dev) (z : Staged) (pick : Nat) port cls meter, z.change = .kervon (.tmMeterMapSet port cls meter) pick → meter = 0xFFFF → applyChange z d =
      (onTm d (fun x => { x with meterMap := tdel x.meterMap (16 * port + cls) }), true))
    -- TM_METER_MAP_SET (R412)
    ∧ (∀ (d : Dev) (z : Staged) (pick : Nat) port cls meter, z.change = .kervon (.tmMeterMapSet port cls meter) pick → meter ≠ 0xFFFF → applyChange z d =
      (onTm d (fun x => { x with meterMap := tset x.meterMap (16 * port + cls) meter }), true))
    -- TM_BUF_CONFIG (R422)
    ∧ (∀ (d : Dev) (z : Staged) (pick : Nat) high deepMib deepBase, z.change = .kervon (.tmBufConfig high deepMib deepBase) pick → applyChange z d =
      (onTm d (fun x => { x with bufHigh := high, deepArea := deepMib }), true))

/-- What the staged changes of conference, leg, audio, video, engine and trunk commands do at their bell. What a staged command does when its bell comes, beside what its acceptance did. -/
def Obligations.BellEffectsOfMedia : Prop :=
    -- CONF_CREATE (R82)
    (∀ (d : Dev) (z : Staged) (pick : Nat) rcd, z.change = .kervon (.confCreate rcd) pick → applyChange z d = (onMedia d (fun m =>
      { m with confs := tset m.confs rcd.id (newConf rcd pick) }), true))
    -- CONF_MODIFY (R81)
    ∧ (∀ (d : Dev) (z : Staged) (pick : Nat) rcd mask c m, z.change = .kervon (.confModify rcd mask) pick → confOf d rcd.id = some c ∧ c.mix = some m ∧
      pick = m → (confOf (applyChange z d).1 rcd.id).map (·.rcd) = some (confMerge c.rcd rcd mask) ∧ (confOf (applyChange z d).1 rcd.id).map (·.mix) =
      some (some m))
    -- CONF_DESTROY (R82)
    ∧ (∀ (d : Dev) (z : Staged) (pick : Nat) conf mode, z.change = .kervon (.confDestroy conf mode) pick → confOf (applyChange z d).1 conf = none ∧ (∀ r
      ∈ (applyChange z d).1.aud.routes, r.2.rcd.conf ≠ conf))
    -- LEG_CREATE (R79)
    ∧ (∀ (d : Dev) (z : Staged) (pick : Nat) rcd, z.change = .kervon (.legCreate rcd) pick → (tget (applyChange z d).1.media.legs rcd.id).map (·.st) =
      some .active ∧ (tget (applyChange z d).1.media.legs rcd.id).map (·.home) = some pick ∧ (tget (applyChange z d).1.media.legs rcd.id).map (·.rcd) =
      some rcd ∧ (tget (applyChange z d).1.media.legs rcd.id).map (·.fbAt) = some d.bell.tick)
    -- LEG_MODIFY (R81)
    ∧ (∀ (d : Dev) (z : Staged) (pick : Nat) rcd mask l, z.change = .kervon (.legModify rcd mask) pick → legOf d rcd.id = some l ∧ rcd.id = l.rcd.id →
      (tget (applyChange z d).1.media.legs rcd.id).map (·.rcd) = some (legMerge l.rcd rcd mask))
    -- LEG_REKEY (R88)
    ∧ (∀ (d : Dev) (z : Staged) (pick : Nat) leg saIn saOut l, z.change = .kervon (.legRekey leg saIn saOut) pick → legOf d leg = some l ∧ saIn ≠ noSa ∧
      saIn ≠ l.rcd.saIn ∧ saOut ≠ noSa ∧ l.rcd.saIn ≠ noSa → (tget (applyChange z d).1.media.legs leg).map (fun x => (x.rcd.saIn, x.rcd.saOut,
      x.prevSa)) = some (saIn, saOut, some (l.rcd.saIn, d.bell.tick + 800)))
    -- LEG_MIGRATE (R107)
    ∧ (∀ (d : Dev) (z : Staged) (pick : Nat) leg target l, z.change = .kervon (.legMigrate leg target) pick → legOf d leg = some l ∧ pick ≠ l.home →
      applyChange z d = (setLegSt (onLeg d leg (fun l => { l with move := some (newMove d pick (some (z.ctx, z.data))) })) leg .migrating, false))
    -- LEG_MIGRATE (R107)
    ∧ (∀ (d : Dev) (z : Staged) (pick : Nat) leg target l, z.change = .kervon (.legMigrate leg target) pick → legOf d leg = some l ∧ pick = l.home →
      applyChange z d = (d, true))
    -- LEG_DESTROY (R83)
    ∧ (∀ (d : Dev) (z : Staged) (pick : Nat) leg, z.change = .kervon (.legDestroy leg) pick → applyChange z d = (drainLeg d leg, true))
    -- PLACE_SET (R92)
    ∧ (∀ (d : Dev) (z : Staged) (pick : Nat) profile first engines, z.change = .kervon (.placeSet profile first engines) pick → first + engines.length ≤
      512 ∧ profile ≤ 7 ∧ d.media.legs = [] → (∀ i, i < engines.length → tget (applyChange z d).1.parse.indir (512 * profile + first + i) =
      (engines[i]?).map (· + 2 ^ 15)))
    -- STATUS_TABLE_SET (R113)
    ∧ (∀ (d : Dev) (z : Staged) (pick : Nat) offset enable, z.change = .kervon (.statusTableSet offset enable) pick → enable = false → applyChange z d =
      (onMedia d (fun m => { m with statusBase := offset, statusEn := false }), true))
    -- STATUS_TABLE_SET (R113)
    ∧ (∀ (d : Dev) (z : Staged) (pick : Nat) offset enable n l, z.change = .kervon (.statusTableSet offset enable) pick → enable = true ∧ d.media.legs =
      [(n, l)] ∧ l.snap ≠ [] → applyChange z d = (statusStore (onMedia d (fun m => { m with statusBase := offset, statusEn := true })) l.home (offset +
      256 * n) (statusBytes (l.snap.zip ((statusVals (onMedia d (fun m => { m with statusBase := offset, statusEn := true })) n l 0).map (·.2)))), true))
    -- CONSOLE_SET (R133)
    ∧ (∀ (d : Dev) (z : Staged) (pick : Nat) route live listen, z.change = .kervon (.consoleSet route live listen) pick → ((routeOf d route).map
      (·.listen)).getD 0 = listen → applyChange z d = (onRoute d route (fun x => { x with consoleLive := live == 1, listen := listen }), true))
    -- CONSOLE_SET (R133)
    ∧ (∀ (d : Dev) (z : Staged) (pick : Nat) route live listen, z.change = .kervon (.consoleSet route live listen) pick → ((routeOf d route).map
      (·.listen)).getD 0 ≠ listen → applyChange z d = (onRoute (onAud d (fun a =>
      { a with routes := tmap a.routes (fun _ r => listenChange route (((routeOf d route).map (·.listen)).getD 0) r) })) route (fun x =>
      { x with consoleLive := live == 1, listen := listen }), true))
    -- ROUTE_SET (R138)
    ∧ (∀ (d : Dev) (z : Staged) (pick : Nat) rcd, z.change = .kervon (.routeSet rcd) pick → routeOf d rcd.id = none → routeOf (applyChange z d).1 rcd.id
      = some (newRoute rcd pick))
    -- ROUTE_SET (R138)
    ∧ (∀ (d : Dev) (z : Staged) (pick : Nat) rcd x, z.change = .kervon (.routeSet rcd) pick → routeOf d rcd.id = some x ∧ x.engine = pick → (routeOf
      (applyChange z d).1 rcd.id).map (fun y => (y.rcd, y.engine, y.clearing)) = some (rcd, pick, none))
    -- ROUTE_CLEAR (R153)
    ∧ (∀ (d : Dev) (z : Staged) (pick : Nat) route x, z.change = .kervon (.routeClear route) pick → routeOf d route = some x ∧ x.rcd.output = true ∧
      x.rcd.crossfade = false → routeOf (applyChange z d).1 route = none)
    -- ROUTE_CLEAR (R153)
    ∧ (∀ (d : Dev) (z : Staged) (pick : Nat) route x, z.change = .kervon (.routeClear route) pick → routeOf d route = some x ∧ x.rcd.output = true ∧
      x.rcd.crossfade = true → (routeOf (applyChange z d).1 route).map (·.clearing) = some (some 0))
    -- AUD_PARAM_WRITE (R140)
    ∧ (∀ (d : Dev) (z : Staged) (pick : Nat) unit block data, z.change = .kervon (.audParamWrite unit block data) pick → applyChange z d = (bankWrite d
      block data, true))
    -- AUD_COMMIT (R140)
    ∧ (∀ (d : Dev) (z : Staged) (pick : Nat) sets, z.change = .kervon (.audCommit sets) pick → applyChange z d = (bankSwap d 0, true))
    -- PORT_TDM_CONFIG (R149)
    ∧ (∀ (d : Dev) (z : Staged) (pick : Nat) rcd, z.change = .kervon (.portTdmConfig rcd) pick → applyChange z d = (onTdm d rcd.port (fun x =>
      { TdmPort.reset with cfg := rcd, slips := x.slips, alarms := x.alarms }), true))
    -- VID_CONFIG (R169)
    ∧ (∀ (d : Dev) (z : Staged) (pick : Nat) small mid large, z.change = .kervon (.vidConfig small mid large) pick → applyChange z d = (onVid d (fun v =>
      { v with rateS := small, rateM := mid, rateL := large }), true))
    -- SUBSCRIBE_SET (R164)
    ∧ (∀ (d : Dev) (z : Staged) (pick : Nat) leg entries, z.change = .kervon (.subscribeSet leg entries) pick → applyChange z d = (onVid d (fun v =>
      { v with subs := tset v.subs leg entries }), true))
    -- LAYOUT_CLEAR (R191)
    ∧ (∀ (d : Dev) (z : Staged) (pick : Nat) layout, z.change = .kervon (.layoutClear layout) pick → applyChange z d = (streamsSweep (onVid d (fun v =>
      { v with layouts := tdel v.layouts layout })), true))
    -- LAYOUT_SET (R175)
    ∧ (∀ (d : Dev) (z : Staged) (pick : Nat) rcd, z.change = .kervon (.layoutSet rcd) pick → d.vid.streams = [] → tget (applyChange z d).1.vid.layouts
      rcd.id = some rcd)
    -- CONTRIB_SET (R161)
    ∧ (∀ (d : Dev) (z : Staged) (pick : Nat) rcd, z.change = .kervon (.contribSet rcd) pick → applyChange z d = (withContrib d rcd pick, true))
    -- INTRA_REQUEST (R183)
    ∧ (∀ (d : Dev) (z : Staged) (pick : Nat) kind a b, z.change = .kervon (.intraRequest kind a b) pick → kind = 1 ∧ (contribMode d a = 1 ∨ contribMode d
      a = 3) → applyChange z d = (requestPli d a, true))
    -- ENGINE_LOAD (R226)
    ∧ (∀ (d : Dev) (z : Staged) (pick : Nat) offset engines img e, z.change = .kervon (.engineLoad offset engines img) pick → engines = [e] → applyChange
      z d = (onFlock (onEng (imageStored img (chargeClass d (e / 16) (lineCount offset img.size)) e) e (fun x =>
      { loadEngine img x with st := .loading, prog := some { img := img, offset := offset, running := false, restarted := false } })) (fun f =>
      { f with loads := f.loads ++ [{ engines := [e], since := d.bell.tick, ctx := z.ctx }] }), false))
    -- ENGINE_UNLOAD (R226)
    ∧ (∀ (d : Dev) (z : Staged) (pick : Nat) engines e, z.change = .kervon (.engineUnload engines) pick → engines = [e] ∧ (engOf d e).prog ≠ none → engOf
      (applyChange z d).1 e = reloadEngine (groupOf d (e / 16)).image { engOf d e with st := .media, prog := none })
    -- IMC_TRUNK_SET (R314)
    ∧ (∀ (d : Dev) (z : Staged) (pick : Nat) rcd, z.change = .kervon (.imcTrunkSet rcd) pick → tget d.imc.trunks rcd.trunk = none → (tget (applyChange z
      d).1.imc.trunks rcd.trunk) = some (newTrunk rcd pick none))
    -- IMC_TRUNK_CLEAR (R315)
    ∧ (∀ (d : Dev) (z : Staged) (pick : Nat) trunk, z.change = .kervon (.imcTrunkClear trunk) pick → d.tm.queues = [] ∧ d.parse.gem = [] → applyChange z
      d = (onImc (onAud (unbindTrunk (freeOwned d (fun o => o == .trunk trunk)) trunk) (fun a =>
      { a with capt := a.capt.filter (fun e => e.1 / 2 ^ 16 != epKey 2 trunk 0 / 2 ^ 16) })) (fun i => { i with trunks := tdel i.trunks trunk }), true))

/-- Where these events complete, and what they do: bells, snapshots, references, time of day, markers and succession. One clause or more for each event, under conditions on the state and the operands alone. -/
def Obligations.BellAndTimeEventsComplete : Prop :=
    -- BELL_TICK (R45)
    (∀ (s : State) x, domOn s.start 3 = true → exec (.bellTick x) s = nextDev s (fun _ => bellWork x (bellCount x s.start)) ∧ (bellCount x
      s.start).bell.tick = s.dev.bell.tick + 1 ∧ (bellCount x s.start).bell.ovr.any = false)
    -- BELL_SNAP (R52)
    ∧ (∀ (s : State) cycles, bar0Answers s.start = true ∧ domOn s.start 3 = true → exec (.bellSnap cycles) s = s.become (onTime (advanceC s.start cycles)
      (fun t =>
      { t with rawSnap := t.c, secSnap := BitVec.ofNat 64 ((timeT t).toNat / 65536000000000 % 2 ^ 64), nsSnap := (timeT t).toNat % 65536000000000 / 65536, fracSnap := (timeT t).toNat % 65536 })))
    -- TICK_LO_READ (R74)
    ∧ (∀ (s : State), bar0Answers s.start = true ∧ domOn s.start 3 = true → exec .tickLoRead s = s.become (emitRead (onBell s.start (fun b =>
      { b with tickHiLatch := BitVec.ofNat 32 (b.tick.toNat / 2 ^ 32) })) 0x100008 (s.start.bell.tick.toNat % 2 ^ 32)))
    -- TICK_LO_READ (R74)
    ∧ (∀ (s : State), bar0Answers s.start = true ∧ domOn s.start 3 = false → exec .tickLoRead s = s.become (emitRead (darkAccess 0x100008 false s.start)
      0x100008 0xFFFFFFFF))
    -- SLEEP_CNT_LO_READ (R75)
    ∧ (∀ (s : State) crystal, bar0Answers s.start = true ∧ domOn s.start 0 = true → exec (.sleepCntLoRead crystal) s = s.become (emitRead (onSleep
      (advanceCrystal s.start crystal) (fun x => { x with cntHiLatch := x.cnt.toNat / 2 ^ 32 })) 0x100300 ((s.start.bell.sleep.cnt + BitVec.ofNat 48
      crystal).toNat % 2 ^ 32)))
    -- TSQ_W3_READ (R59)
    ∧ (∀ (s : State) group, group < 4 ∧ bar0Answers s.start = true ∧ domOn s.start 3 = true → exec (.tsqW3Read group) s = s.become (emitRead (onBell
      s.start (fun b => { b with tsq := tset b.tsq group ((tgetD b.tsq group []).drop 1) })) (0x10010C + 0x20 * group) (((tgetD s.start.bell.tsq group
      []).head?.map (·.frac)).getD 0)))
    -- REFERENCE_EVENT (R43)
    ∧ (∀ (s : State) err freq, s.start.bell.lock.src ≠ 0 ∧ s.start.bell.lock.st = .free ∧ s.start.bell.lock.validRun + 1 < 8 → Ends (exec
      (.referenceEvent err freq) s) (fun t => t.dev.bell.lock.st = .free ∧ t.dev.bell.lock.validRun = s.start.bell.lock.validRun + 1 ∧
      t.dev.bell.lock.phaseErr = phaseMod (err - portAdjOf s.start (refPort s.start)) ∧ t.dev.bell.lock.slew = 0 ∧ t.dev.bell.lock.freqNow = freq))
    -- REFERENCE_EVENT (R43)
    ∧ (∀ (s : State) err freq, s.start.bell.lock.src ≠ 0 ∧ s.start.bell.lock.st = .free ∧ 8 ≤ s.start.bell.lock.validRun + 1 → Ends (exec
      (.referenceEvent err freq) s) (fun t => t.dev.bell.lock.st = .acquire ∧ t.dev.bell.lock.phaseErr = phaseMod (err - portAdjOf s.start (refPort
      s.start))))
    -- REFERENCE_EVENT (R43)
    ∧ (∀ (s : State) err freq, s.start.bell.lock.src ≠ 0 ∧ s.start.bell.lock.st = .acquire ∧ s.start.bell.lock.inRun = 63 ∧ (phaseMod (err - portAdjOf
      s.start (refPort s.start))).natAbs ≤ 50 * 65536 → Ends (exec (.referenceEvent err freq) s) (fun t => t.dev.bell.lock.st = .locked ∧
      t.dev.bell.lock.slew = max (-524288) (min 524288 (-(phaseMod (err - portAdjOf s.start (refPort s.start)))))))
    -- REFERENCE_EVENT (R43)
    ∧ (∀ (s : State) err freq, s.start.bell.lock.src ≠ 0 ∧ s.start.bell.lock.st = .locked ∧ 500 * 65536 < (phaseMod (err - portAdjOf s.start (refPort
      s.start))).natAbs → Ends (exec (.referenceEvent err freq) s) (fun t => t.dev.bell.lock.st = .holdover ∧ t.dev.freeCtr = s.start.freeCtr + 1))
    -- REFERENCE_MISSING (R43)
    ∧ (∀ (s : State), s.start.bell.lock.src ≠ 0 ∧ s.start.bell.lock.st = .locked ∧ 4 ≤ s.start.bell.lock.missRun + 1 → Ends (exec .referenceMissing s)
      (fun t => t.dev.bell.lock.st = .holdover ∧ t.dev.bell.lock.inRun = 0 ∧ t.dev.bell.lock.validRun = 0))
    -- REFERENCE_MISSING (R43)
    ∧ (∀ (s : State), s.start.bell.lock.src = 2 ∧ s.start.bell.succ.bellwether = false ∧ s.start.bell.lock.missRun + 1 < 4 → Ends (exec .referenceMissing
      s) (fun t => t.dev.bell.succ.missed = min 255 (s.start.bell.succ.missed + 1) ∧ t.dev.bell.lock.st = s.start.bell.lock.st ∧ (leafWord t.dev.sys.int
      2).getLsbD 6 = true))
    -- TOD_MESSAGE (R60)
    ∧ (∀ (s : State) slice send ri stamp, s.start.bell.lock.src = 1 ∧ s.start.bell.lock.todSrc = true → exec (.todMessage slice send ri stamp) s =
      s.become (headEndTime send ri (BitVec.ofNat 128 (adjusted s.start slice stamp) - s.start.bell.time.offset).toNat (sliceOf s.start slice).eqd
      (respTime s.start) (onErr s.start (fun e =>
      { e with todLast := some (slice, send, ri, (BitVec.ofNat 128 (adjusted s.start slice stamp) - s.start.bell.time.offset).toNat) }))))
    -- PPS_OUT_EDGE (R63)
    ∧ (∀ (s : State), s.start.bell.time.timeValid = true → exec .ppsOutEdge s = s.become (onErr s.start (fun e => { e with ppsOut := true })))
    -- PPS_OUT_EDGE (R63)
    ∧ (∀ (s : State), s.start.bell.time.timeValid = false → exec .ppsOutEdge s = s.become s.start)
    -- PPS_OUT_FALL (R63)
    ∧ (∀ (s : State), exec .ppsOutFall s = s.become (onErr s.start (fun e => { e with ppsOut := false })))
    -- SLEEP_CAL_MEASURE (R66)
    ∧ (∀ (s : State) cycles, s.start.bell.lock.st = .locked ∧ s.start.pwr.season ≠ .winter ∧ s.start.bell.sleep.calStart = none → exec (.sleepCalMeasure
      cycles) s = s.become (onSleep (advanceC s.start cycles) (fun x => { x with calStart := some (rateTime (advanceC s.start cycles).bell.time) })))
    -- SLEEP_CAL_MEASURE (R66)
    ∧ (∀ (s : State) cycles t0, s.start.bell.lock.st = .locked ∧ s.start.pwr.season ≠ .winter ∧ s.start.bell.sleep.calStart = some t0 → exec
      (.sleepCalMeasure cycles) s = s.become (onSleep (advanceC s.start cycles) (fun x =>
      { x with cal := (rdiv ((rateTime (advanceC s.start cycles).bell.time - t0).toNat : Int) 262144).toNat % 2 ^ 32, calValid := true, calStart := some (rateTime (advanceC s.start cycles).bell.time) })))
    -- BELL_MARKER_RX (R69)
    ∧ (∀ (s : State) hd m residence, CascHears s.start hd .bell (bellBytes m) ∧ cascUp s.start hd.port = true ∧ hd.dst = s.start.casc.device ∧ (∀ r, tget
      s.start.casc.routes m.device = some r → r.1 = hd.port) ∧ m.epoch > s.start.bell.succ.epoch ∧ m.device ≠ s.start.casc.device → exec (.bellMarkerRx
      hd m residence) s = s.become (onSucc (cascGot hd false s.start) (fun s =>
      { s with epoch := m.epoch, leader := m.device, heard := true, inPort := hd.port % 2, bellwether := false, missed := 0 })))
    -- BELL_MARKER_RX (R69)
    ∧ (∀ (s : State) hd m residence, CascHears s.start hd .bell (bellBytes m) ∧ cascUp s.start hd.port = true ∧ hd.dst = 0xFF ∧ hd.hops = 0 ∧ (∀ r, tget
      s.start.casc.routes m.device = some r → r.1 = hd.port) ∧ m.epoch > s.start.bell.succ.epoch ∧ m.device ≠ s.start.casc.device → exec (.bellMarkerRx
      hd m residence) s = s.become (onSucc (cascGot hd false s.start) (fun s =>
      { s with epoch := m.epoch, leader := m.device, heard := true, inPort := hd.port % 2, bellwether := false, missed := 0 })))
    -- BELL_MARKER_RX (R69)
    ∧ (∀ (s : State) hd m residence, CascHears s.start hd .bell (bellBytes m) ∧ cascUp s.start hd.port = true ∧ hd.dst = s.start.casc.device ∧ m.epoch <
      s.start.bell.succ.epoch → exec (.bellMarkerRx hd m residence) s = s.become (cascGot hd false s.start))
    -- SUCCESSION_CLAIM (R71)
    ∧ (∀ (s : State), s.start.bell.succ.bellwether = false ∧ 1 ≤ s.start.bell.succ.rank ∧ s.start.bell.succ.rank ≤ 14 ∧ s.start.bell.succ.rank ≤
      s.start.bell.succ.missed → Ends (exec .successionClaim s) (fun t => t.dev.bell.succ.bellwether = true ∧ t.dev.bell.succ.epoch =
      (s.start.bell.succ.epoch + 1) % 65536 ∧ t.dev.bell.succ.leader = s.start.casc.device ∧ t.dev.bell.succ.missed = 0))
    -- CASC_DELAY_MEASURE (R70)
    ∧ (∀ (s : State) port t1 t2 t3 t4, port ≤ 1 → Ends (exec (.cascDelayMeasure port t1 t2 t3 t4) s) (fun t => tget t.dev.bell.succ.delay port = some
      (BitVec.ofInt 32 (rdiv (t4 - t1 - (t3 - t2)) 2 + (tgetD s.start.bell.succ.asym port 0).toInt))))
    -- POOL_HANDOVER (R26)
    ∧ (∀ (s : State), s.start.past.handed = false ∧ allWaiting s.start = 0 → Ends (exec .poolHandover s) (fun t => t.dev.past.handed = true ∧
      t.dev.past.pool = s.start.past.pool + sumN ((List.range 24).map (fun k => (pastClass s.start k).own)) ∧ ∀ k < 24, (pastClass t.dev k).own = 0))

/-- Where these events complete, and what they do: doorbells, registers, interrupts and service-port sessions. One clause or more for each event, under conditions on the state and the operands alone. -/
def Obligations.HostAndSessionEventsComplete : Prop :=
    -- SQ_TAIL_DOORBELL (R522)
    (∀ (s : State) ring value packets pcieFails, ring ≤ 3 ∧ domOn s.start 38 = true ∧ value ≤ 255 ∧ pcieFails = false → exec (.sqTailDoorbell ring
      value packets pcieFails) s = s.become (onRing s.start ring (fun g =>
      { g with sqTail := value, slots := ((List.range packets.length).zip packets).foldl (fun t e => tset t (((ringOf s.start ring).sqTail + e.1) % 256) e.2) g.slots })))
    -- SQ_TAIL_DOORBELL (R522)
    ∧ (∀ (s : State) ring value packets pcieFails, ring ≤ 3 ∧ domOn s.start 38 = true ∧ 255 < value ∧ pcieFails = false → exec (.sqTailDoorbell ring
      value packets pcieFails) s = s.become (raiseLeaf (onRing s.start ring (fun g => { g with stopped := true, err := 1 })) 0 (4 + ring)))
    -- CQ_HEAD_DOORBELL (R522)
    ∧ (∀ (s : State) ring value, ring ≤ 3 ∧ domOn s.start 38 = true ∧ value ≤ 255 → exec (.cqHeadDoorbell ring value) s = s.become (cqDrain (onRing
      s.start ring (fun g => { g with cqHead := value })) ring 256))
    -- CQ_HEAD_DOORBELL (R522)
    ∧ (∀ (s : State) ring value, ring ≤ 3 ∧ domOn s.start 38 = true ∧ 255 < value → exec (.cqHeadDoorbell ring value) s = s.become (raiseLeaf (onRing
      s.start ring (fun g => { g with stopped := true, err := 1 })) 0 (4 + ring)))
    -- RING_ENABLE (R523)
    ∧ (∀ (s : State) ring en, ring ≤ 3 ∧ domOn s.start 38 = true ∧ en = true ∧ (ringOf s.start ring).en = false → exec (.ringEnable ring en) s = s.become
      (onRing s.start ring (fun g =>
      { g with en := true, stopped := false, sqTail := 0, sqHead := 0, cqTail := 0, cqHead := 0, slots := [], cq := [], waiting := [] })))
    -- RING_ENABLE (R523)
    ∧ (∀ (s : State) ring en, ring ≤ 3 ∧ domOn s.start 38 = true ∧ en = false → exec (.ringEnable ring en) s = s.become (onRing s.start ring (fun g =>
      { g with en := false })))
    -- MSIX_ENABLE (R534)
    ∧ (∀ (s : State) cfgEn masked, Ends (exec (.msixEnable cfgEn masked) s) (fun t => t.dev.sys.int.msixCfgEn = cfgEn ∧ t.dev.sys.int.msixMasked =
      masked))
    -- MSIX_ENABLE (R534)
    ∧ (∀ (s : State) cfgEn masked, s.start.sys.int.pin = false → exec (.msixEnable cfgEn masked) s = s.become (onInt s.start (fun i =>
      { i with msixCfgEn := cfgEn, msixMasked := masked })))
    -- LEAF_WRITE (R532)
    ∧ (∀ (s : State) word value, word < 64 ∧ domOn s.start 38 = true → exec (.leafWrite word value) s = s.become (intUpdate (onInt s.start (fun i =>
      { i with leaf := tset i.leaf word (leafWord i word &&& ~~~value) }))))
    -- REGISTER_READ (R7)
    ∧ (∀ (s : State) addr, bar0Answers s.start = true ∧ addr = 0x100008 ∧ domOn s.start 3 = true → exec (.registerRead addr) s = s.become (tickLoRead
      s.start))
    -- REGISTER_READ (R7)
    ∧ (∀ (s : State) addr, bar0Answers s.start = true ∧ addr < 0x10000000 ∧ addr % 4 = 0 ∧ addr / 0x100000 = 0 ∧ regHas 0 (addr % 0x100000) = true ∧
      domOn s.start (regDomain 0 (addr % 0x100000)) = true → exec (.registerRead addr) s = s.become (emitRead (regReadClear s.start 0 (addr % 0x100000))
      addr (hostValue s.start 0 (addr % 0x100000))))
    -- REGISTER_READ (R7)
    ∧ (∀ (s : State) addr, bar0Answers s.start = true ∧ addr < 0x10000000 ∧ addr % 4 ≠ 0 → exec (.registerRead addr) s = s.become (emitRead s.start addr
      0))
    -- REGISTER_WRITE (R7)
    ∧ (∀ (s : State) addr value, bar0Answers s.start = true ∧ addr % 4 = 0 ∧ addr / 0x100000 ≤ 16 ∧ regHas (addr / 0x100000) (addr % 0x100000) = true ∧
      darkPart s.start (addr / 0x100000) (addr % 0x100000) = false ∧ domOn s.start (regDomain (addr / 0x100000) (addr % 0x100000)) = true ∧ regManaged
      s.start (addr / 0x100000) (addr % 0x100000) = false → exec (.registerWrite addr value) s = s.become (regWrite s.start (addr / 0x100000) (addr %
      0x100000) value))
    -- REGISTER_WRITE (R7)
    ∧ (∀ (s : State) addr value, bar0Answers s.start = true ∧ addr % 4 = 0 ∧ addr / 0x100000 ≤ 16 ∧ regHas (addr / 0x100000) (addr % 0x100000) = true ∧
      darkPart s.start (addr / 0x100000) (addr % 0x100000) = false ∧ domOn s.start (regDomain (addr / 0x100000) (addr % 0x100000)) = true ∧ regManaged
      s.start (addr / 0x100000) (addr % 0x100000) = true → exec (.registerWrite addr value) s = s.become (raiseLeaf (onSys s.start (fun y =>
      { y with writeDropAddr := addr })) 0 8))
    -- SESSION_HELLO (R526)
    ∧ (∀ (s : State) addr port k, sessionsOn s.start = true ∧ (List.range 8).find? (fun k => (sessOf s.start k).st == .free) = some k → exec
      (.sessionHello addr port) s = s.become (datagram (onSess (onFree s.start (fun n => n + 1)) k (fun _ =>
      { Sess.reset with st := .challenged, addr := addr, port := port, nonce := Config.free s.start.freeCtr % 2 ^ 256 })) k 2 [((Config.free
      s.start.freeCtr % 2 ^ 256 : Nat) : Int)]))
    -- SESSION_HELLO (R526)
    ∧ (∀ (s : State) addr port, sessionsOn s.start = false → exec (.sessionHello addr port) s = s.become (onSys s.start (fun y =>
      { y with sessionDrop := satInc y.sessionDrop })))
    -- SESSION_PROOF (R526)
    ∧ (∀ (s : State) session role keyHash sigOk decryptOk, session < 8 ∧ sessionsOn s.start = true ∧ (sessOf s.start session).st = .challenged ∧ keyHash
      = (otpRules s.start).mgmtKeyHash ∧ sigOk = true ∧ decryptOk = true ∧ role ≤ 1 → exec (.sessionProof session role keyHash sigOk decryptOk) s =
      s.become (raiseLeaf (datagram (onSess s.start session (fun x => { x with st := .opened, role := role, txCtr := 1 })) session 4 []) 0 12))
    -- SESSION_PROOF (R526)
    ∧ (∀ (s : State) session role keyHash sigOk decryptOk, session < 8 ∧ sessionsOn s.start = true ∧ (sessOf s.start session).st = .challenged ∧ sigOk =
      false → exec (.sessionProof session role keyHash sigOk decryptOk) s = s.become (raiseLeaf (onSess s.start session (fun _ => Sess.reset)) 0 13))
    -- SESSION_COMMAND (R527)
    ∧ (∀ (s : State) session ctr tagOk packet, session < 8 ∧ sessionsOn s.start = true ∧ (sessOf s.start session).st = .opened ∧ tagOk = true ∧ (sessOf
      s.start session).rxCtr.toNat < ctr → exec (.sessionCommand session ctr tagOk packet) s = s.become (onSess s.start session (fun x =>
      { x with rxCtr := BitVec.ofNat 64 ctr, lastCmd := some packet, lastReply := none, queue := x.queue ++ [packet] })))
    -- SESSION_COMMAND (R527)
    ∧ (∀ (s : State) session ctr tagOk packet, session < 8 ∧ sessionsOn s.start = true ∧ (sessOf s.start session).st = .opened ∧ tagOk = true ∧ ctr <
      (sessOf s.start session).rxCtr.toNat → exec (.sessionCommand session ctr tagOk packet) s = s.become (onSys s.start (fun y =>
      { y with sessionDrop := satInc y.sessionDrop })))
    -- SESSION_CLOSE (R527)
    ∧ (∀ (s : State) session ctr tagOk, session < 8 ∧ sessionsOn s.start = true ∧ (sessOf s.start session).st = .opened ∧ tagOk = true ∧ (sessOf s.start
      session).rxCtr.toNat < ctr → Ends (exec (.sessionClose session ctr tagOk) s) (fun t => sessOf t.dev session = Sess.reset ∧ (leafWord t.dev.sys.int
      0).getLsbD 14 = true))
    -- SESSION_IDLE_TIMEOUT (R527)
    ∧ (∀ (s : State) session, (sessOf s.start session).st = .opened → Ends (exec (.sessionIdleTimeout session) s) (fun t => sessOf t.dev session =
      Sess.reset ∧ (leafWord t.dev.sys.int 0).getLsbD 14 = true))
    -- SESSION_PROOF_TIMEOUT (R526)
    ∧ (∀ (s : State) session, (sessOf s.start session).st = .challenged → exec (.sessionProofTimeout session) s = s.become (onSess s.start session (fun _
      => Sess.reset)))
    -- FW_STORE_WRITE_DONE (R512)
    ∧ (∀ (s : State) j, s.start.fold.boot.storeJob = some j ∧ firmwareOk s.start j.kind j.img false = none → exec .fwStoreWriteDone s = s.become
      (followUp (onBoot (onBoot s.start (fun b => { b with storeJob := none })) (fun b => { b with store := tset b.store (2 * j.kind + j.slot) j.img }))
      j.ctx .done []))
    -- FW_STORE_WRITE_DONE (R512)
    ∧ (∀ (s : State) j st r, s.start.fold.boot.storeJob = some j ∧ firmwareOk s.start j.kind j.img false = some (st, r) → exec .fwStoreWriteDone s =
      s.become (followUp (onBoot s.start (fun b => { b with storeJob := none })) j.ctx st (refusalData r noField)))
    -- STAGING_CUTOFF (R15)
    ∧ (∀ (s : State), domOn s.start 2 = true ∧ s.start.aux.swapState ≠ 1 → exec .stagingCutoff s = s.become (onSys (copiesDone s.start) (fun y =>
      { y with staged := y.staged.map (fun t => { t with armed := true }) })))

/-- Where these events complete, and what they do: presence, seal, random source, waits, autoseal and OTP. One clause or more for each event, under conditions on the state and the operands alone. -/
def Obligations.FoldEventsComplete : Prop :=
    -- PRESENCE_PRESS (R498)
    (∀ (s : State), s.start.fold.guard.lockout = false ∧ s.start.fold.guard.window = .shut → exec .presencePress s = s.become (raiseLeaf (onGuard
      s.start (fun g => { g with pressed := true, window := .button, endTick := s.start.bell.tick.toNat + 240000 })) 22 3))
    -- PRESENCE_PRESS (R498)
    ∧ (∀ (s : State), s.start.fold.guard.lockout = false ∧ s.start.fold.guard.window = .button → exec .presencePress s = s.become (onGuard s.start (fun g
      => { g with pressed := true, window := .button, endTick := s.start.bell.tick.toNat + 240000 })))
    -- PRESENCE_PRESS (R498)
    ∧ (∀ (s : State), s.start.fold.guard.lockout = true → exec .presencePress s = s.become s.start)
    -- PRESENCE_WINDOW_EXPIRY (R498)
    ∧ (∀ (s : State), s.start.fold.guard.window = .button ∧ (domOn s.start 3 = false ∨ s.start.fold.guard.endTick ≤ s.start.bell.tick.toNat) → exec
      .presenceWindowExpiry s = s.become (onGuard s.start (fun g => { g with window := .shut, endTick := 0 })))
    -- PRESENCE_STUCK (R498)
    ∧ (∀ (s : State), s.start.fold.guard.window = .button → Ends (exec .presenceStuck s) (fun t => t.dev.fold.guard.window = .shut ∧
      t.dev.fold.guard.lockout = true ∧ (leafWord t.dev.sys.int 22).getLsbD 4 = true))
    -- PRESENCE_RELEASE (R498)
    ∧ (∀ (s : State), exec .presenceRelease s = s.become (onGuard s.start (fun g => { g with pressed := false, lockout := false })))
    -- SEAL_BROKEN (R499)
    ∧ (∀ (s : State), exec .sealBroken s = s.become (raiseLeaf (onGuard s.start (fun g =>
      { g with sealIntact := false, sealHist := true, window := .shut, endTick := 0 })) 22 5))
    -- SEAL_RESTORED (R499)
    ∧ (∀ (s : State), exec .sealRestored s = s.become (raiseLeaf (onGuard s.start (fun g => { g with sealIntact := true })) 22 6))
    -- RNG_HEALTH_FAIL (R491)
    ∧ (∀ (s : State), exec .rngHealthFail s = s.become (raiseLeaf (onGuard s.start (fun g => { g with rngOk := false })) 22 2))
    -- COMMAND_WAIT_EXPIRY (R491)
    ∧ (∀ (s : State) h op, s.start.fold.guard.rngOk = false → exec (.commandWaitExpiry h op) s = s.become (answer s.start
      { tr := some h.tr, op := op, seq := h.seq, wanted := h.respWanted, epoch := s.start.sys.epochStaged } .busy [0, 0, 0xFFFF]))
    -- AUTOSEAL (R478)
    ∧ (∀ (s : State), s.start.fold.boot.stage = .ready ∧ s.start.fold.boot.sealed = false → exec .autoseal s = s.become (raiseLeaf (onBoot s.start (fun b
      => { b with sealed := true })) 22 1))
    -- OTP_PROGRAM_DONE (R495)
    ∧ (∀ (s : State) readBackOk j, s.start.fold.otp.job = some j ∧ readBackOk = true → exec (.otpProgramDone readBackOk) s = s.become (followUp
      (raiseLeaf (onOtp s.start (fun o => { o with job := none, failed := false, slots := tset o.slots j.slot { valid := true, fields := j.fields } }))
      22 7) j.ctx .done []))
    -- OTP_PROGRAM_DONE (R495)
    ∧ (∀ (s : State) readBackOk j, s.start.fold.otp.job = some j ∧ readBackOk = false → exec (.otpProgramDone readBackOk) s = s.become (raiseLeaf
      (followUp (raiseLeaf (onOtp s.start (fun o =>
      { o with job := none, failed := true, slots := tset o.slots j.slot { valid := false, fields := j.fields } })) 22 8) j.ctx .internal [0, 0,
      0xFFFF]) 0 11))

/-- Where these events complete, and what they do: PLOAM messages, OMCI, frames, timers and the watchdog of the access slices. One clause or more for each event, under conditions on the state and the operands alone. -/
def Obligations.AccessEventsComplete : Prop :=
    -- DYING_GASP_DISABLE (R258)
    (∀ (s : State) slice k, (sliceOf s.start slice).gasp = some k ∧ (sliceOf s.start slice).st ≠ .killed ∧ k.toNat + 16 ≤ s.start.bell.tick.toNat →
      exec (.dyingGaspDisable slice) s = s.become (gaspOver s.start slice))
    -- OMCI_MESSAGE (R250)
    ∧ (∀ (s : State) slice cls inst micOk op eff top attrs, slice < 4 ∧ (sliceOf s.start slice).st = .o5 ∧ domOn s.start (4 + slice) = true ∧ (sliceOf
      s.start slice).asleep = false ∧ micOk = true ∧ op = .create attrs ∧ meInstances cls = some top ∧ meReadOnly cls = false ∧ thas (sliceOf s.start
      slice).mib (meKey cls inst) = false ∧ meHeld (sliceOf s.start slice) cls < top → exec (.omciMessage slice cls inst micOk op eff) s = s.become
      (ctlQueue (omciEffect (onSlice s.start slice (fun x => { x with mib := tset x.mib (meKey cls inst) (meWrite [] attrs) })) slice eff) slice
      { kind := .omciReply, len := 48, vals := [cls, inst, 0] }))
    -- OMCI_MESSAGE (R250)
    ∧ (∀ (s : State) slice cls inst micOk op eff top mask, slice < 4 ∧ (sliceOf s.start slice).st = .o5 ∧ domOn s.start (4 + slice) = true ∧ (sliceOf
      s.start slice).asleep = false ∧ micOk = true ∧ op = .get mask ∧ meInstances cls = some top → exec (.omciMessage slice cls inst micOk op eff) s =
      s.become (ctlQueue s.start slice
      { kind := .omciReply, len := 48, vals := [cls, inst, 0] ++ ((tgetD (sliceOf s.start slice).mib (meKey cls inst) []).filter (fun a => mask.testBit (16 - a.1))).map (·.2) }))
    -- OMCI_MESSAGE (R250)
    ∧ (∀ (s : State) slice cls inst micOk op eff, slice < 4 ∧ (sliceOf s.start slice).st = .o5 ∧ domOn s.start (4 + slice) = true ∧ (sliceOf s.start
      slice).asleep = false ∧ micOk = false → exec (.omciMessage slice cls inst micOk op eff) s = s.become (accCount s.start slice 9 1))
    -- DOWNSTREAM_FRAME (R236)
    ∧ (∀ (s : State) slice f, slice < 4 ∧ (sliceOf s.start slice).st ≠ .disabled ∧ domOn s.start (4 + slice) = true ∧ s.start.acc.cfg.native = true ∧
      (nativeView (sliceOf s.start slice) f).found = true ∧ (nativeView (sliceOf s.start slice) f).countOk = true ∧ (sliceOf s.start slice).sync = true
      ∧ (sliceOf s.start slice).leaveFrame = none → Ends (exec (.downstreamFrame slice f) s) (fun t => (sliceOf t.dev slice).frame = (nativeView
      (sliceOf s.start slice) f).frameCount ∧ (sliceOf t.dev slice).skew = (nativeView (sliceOf s.start slice) f).skew ∧ (sliceOf t.dev slice).badRun =
      0 ∧ (sliceOf t.dev slice).sync = true ∧ (sliceOf t.dev slice).st = (sliceOf s.start slice).st))
    -- DOWNSTREAM_FRAME (R236)
    ∧ (∀ (s : State) slice f, slice < 4 ∧ (sliceOf s.start slice).st ≠ .disabled ∧ domOn s.start (4 + slice) = true ∧ s.start.acc.cfg.native = false ∧
      f.found = true ∧ f.countOk = true ∧ (sliceOf s.start slice).sync = true ∧ (sliceOf s.start slice).leaveFrame = none → Ends (exec (.downstreamFrame
      slice f) s) (fun t => (sliceOf t.dev slice).frame = f.frameCount ∧ (sliceOf t.dev slice).skew = f.skew ∧ (sliceOf t.dev slice).badRun = 0 ∧
      (sliceOf t.dev slice).sync = true ∧ (sliceOf t.dev slice).st = (sliceOf s.start slice).st))
    -- OPTICS_SD_LOSS (R236)
    ∧ (∀ (s : State) slice lost now, slice < 4 ∧ (sliceOf s.start slice).st ≠ .disabled ∧ domOn s.start (4 + slice) = true ∧ lost = false → exec
      (.opticsSdLoss slice lost now) s = s.become (onSlice s.start slice (fun x => { x with los := false })))
    -- OPTICS_SD_LOSS (R236)
    ∧ (∀ (s : State) slice lost now, slice < 4 ∧ (sliceOf s.start slice).st = .o5 ∧ domOn s.start (4 + slice) = true ∧ lost = true ∧ (sliceOf s.start
      slice).sync = true ∧ (sliceOf s.start slice).ch = .out → exec (.opticsSdLoss slice lost now) s = s.become (lods (onSlice s.start slice (fun x =>
      { x with los := true })) slice now))
    -- PLOAM_BURST_PROFILE (R251)
    ∧ (∀ (s : State) slice h index guard fieldsOk rateOk, Hears s.start slice h ∧ (sliceOf s.start slice).st = .o5 ∧ index ≤ 3 ∧ fieldsOk = true → exec
      (.ploamBurstProfile slice h index guard fieldsOk rateOk) s = s.become (heard slice h (ackIf h (.ackOk h.seq)) (onSlice (accCount s.start slice 0
      1) slice (fun x => { x with profiles := tset x.profiles index guard }))))
    -- PLOAM_BURST_PROFILE (R251)
    ∧ (∀ (s : State) slice h index guard fieldsOk rateOk, Hears s.start slice h ∧ (sliceOf s.start slice).st = .o12 ∧ index ≤ 3 ∧ fieldsOk = true ∧
      rateOk = true ∧ (sliceOf s.start slice).chanOk = true → exec (.ploamBurstProfile slice h index guard fieldsOk rateOk) s = s.become (heard slice h
      (ackIf h (.ackOk h.seq)) (setAccSt (onSlice (accCount s.start slice 0 1) slice (fun x => { x with profiles := tset x.profiles index guard }))
      slice .o23 h.now)))
    -- PLOAM_BURST_PROFILE (R251)
    ∧ (∀ (s : State) slice h index guard fieldsOk rateOk, Hears s.start slice h ∧ (sliceOf s.start slice).st = .o5 ∧ 3 < index → exec (.ploamBurstProfile
      slice h index guard fieldsOk rateOk) s = s.become (heard slice h (some (.ackParam h.seq)) (accCount (accCount s.start slice 0 1) slice 4 1)))
    -- PLOAM_ASSIGN_ONU_ID (R238)
    ∧ (∀ (s : State) slice h mine onu, Hears s.start slice h ∧ mine = true ∧ (sliceOf s.start slice).st = .o23 ∧ onu ≤ 1020 → exec (.ploamAssignOnuId
      slice h mine onu) s = s.become (heard slice h (ackIf h (.ackOk h.seq)) (setAccSt (onSlice (accCount s.start slice 0 1) slice (fun x =>
      { x with onu := onu })) slice .o4 h.now)))
    -- PLOAM_ASSIGN_ONU_ID (R238)
    ∧ (∀ (s : State) slice h mine onu, Hears s.start slice h ∧ mine = true ∧ (sliceOf s.start slice).st = .o5 → exec (.ploamAssignOnuId slice h mine onu)
      s = s.become (heard slice h none (accCount (accCount s.start slice 0 1) slice 4 1)))
    -- PLOAM_RANGING_TIME (R242)
    ∧ (∀ (s : State) slice h relative value, Hears s.start slice h ∧ (sliceOf s.start slice).st = .o4 ∧ relative = false ∧ 0 ≤ eqdUnits value ∧ eqdUnits
      value ≤ 24883200 → exec (.ploamRangingTime slice h relative value) s = s.become (heard slice h (ackIf h (.ackOk h.seq)) (todRecompute (setAccSt
      (onSlice (accCount s.start slice 0 1) slice (fun x => { x with eqd := (eqdUnits value).toNat, eqdWas := some (x.eqdWas.getD x.eqd) })) slice .o5
      h.now))))
    -- PLOAM_RANGING_TIME (R242)
    ∧ (∀ (s : State) slice h relative value, Hears s.start slice h ∧ (sliceOf s.start slice).st = .o5 ∧ relative = false ∧ 24883200 < eqdUnits value →
      exec (.ploamRangingTime slice h relative value) s = s.become (heard slice h (some (.ackParam h.seq)) (accLeaf (accCount (accCount s.start slice 0
      1) slice 5 1) slice 2)))
    -- PLOAM_DEACTIVATE_ONU_ID (R238)
    ∧ (∀ (s : State) slice h, Hears s.start slice h ∧ (sliceOf s.start slice).st = .o5 → exec (.ploamDeactivateOnuId slice h) s = s.become (heard slice h
      none (setAccSt (accCount s.start slice 0 1) slice .o23 h.now)))
    -- PLOAM_DISABLE_SERIAL_NUMBER (R238)
    ∧ (∀ (s : State) slice h named enable, Hears s.start slice h ∧ named = true ∧ (sliceOf s.start slice).st = .o5 ∧ enable = false → exec
      (.ploamDisableSerialNumber slice h named enable) s = s.become (heard slice h none (setAccSt (accCount s.start slice 0 1) slice .o7 h.now)))
    -- PLOAM_DISABLE_SERIAL_NUMBER (R238)
    ∧ (∀ (s : State) slice h named enable, Hears s.start slice h ∧ named = true ∧ (sliceOf s.start slice).st = .o7 ∧ enable = true → exec
      (.ploamDisableSerialNumber slice h named enable) s = s.become (heard slice h none (setAccSt (accCount s.start slice 0 1) slice .o11 h.now)))
    -- PLOAM_REQUEST_REGISTRATION (R231)
    ∧ (∀ (s : State) slice hd, Hears s.start slice hd ∧ ((sliceOf s.start slice).st = .o4 ∨ (sliceOf s.start slice).st = .o5 ∨ (sliceOf s.start slice).st
      = .o6) → exec (.ploamRequestRegistration slice hd) s = s.become (heard slice hd (some (.registration hd.seq)) (accCount s.start slice 0 1)))
    -- PLOAM_ASSIGN_ALLOC_ID (R283)
    ∧ (∀ (s : State) slice hd alloc assign a node, Hears s.start slice hd ∧ (sliceOf s.start slice).st = .o5 ∧ alloc < 16384 ∧ assign = true ∧ allocEntry
      (sliceOf s.start slice) alloc = none ∧ tfree (sliceOf s.start slice).allocs 0 64 = some a ∧ freeNode s.start = some node → exec
      (.ploamAssignAllocId slice hd alloc assign) s = s.become (heard slice hd (ackIf hd (.ackOk hd.seq)) (onSlice (takeNode (accCount s.start slice 0
      1) slice alloc node) slice (fun x => { x with allocs := tset x.allocs a { id := alloc, bonded := false, node := node } }))))
    -- PLOAM_ASSIGN_ALLOC_ID (R283)
    ∧ (∀ (s : State) slice h alloc assign, Hears s.start slice h ∧ (sliceOf s.start slice).st = .o5 ∧ 16384 ≤ alloc → exec (.ploamAssignAllocId slice h
      alloc assign) s = s.become (heard slice h (some (.ackParam h.seq)) (accCount s.start slice 0 1)))
    -- PLOAM_KEY_CONTROL (R245)
    ∧ (∀ (s : State) slice h generate index, Hears s.start slice h ∧ (sliceOf s.start slice).st = .o5 ∧ generate = true ∧ indexInUse (sliceOf s.start
      slice).keys (index % 2) = false → exec (.ploamKeyControl slice h generate index) s = s.become (heard slice h none (keyGenerate (accCount s.start
      slice 0 1) slice (index % 2))))
    -- PLOAM_KEY_CONTROL (R245)
    ∧ (∀ (s : State) slice h generate index key, Hears s.start slice h ∧ (sliceOf s.start slice).st = .o5 ∧ generate = false ∧ (sliceOf s.start
      slice).keys.pend = some (index % 2, key) → exec (.ploamKeyControl slice h generate index) s = s.become (heard slice h (ackIf h (.ackOk h.seq))
      (keyTakeEffect (accCount s.start slice 0 1) slice)))
    -- TKEY_EXPIRY (R248)
    ∧ (∀ (s : State) slice i key, (sliceOf s.start slice).keys.pend = some (i, key) ∧ 1 ≤ (sliceOf s.start slice).keys.tries ∧ (sliceOf s.start
      slice).keys.tries < 3 ∧ (sliceOf s.start slice).keys.stall = false ∧ msPassed s.start (sliceOf s.start slice).keys.sentAt s.start.acc.cfg.tkey =
      true → exec (.tkeyExpiry slice) s = s.become (ploamQueue (onSlice s.start slice (fun x =>
      { x with keys := { x.keys with tries := x.keys.tries + 1, sentAt := s.start.bell.tick } })) slice (.keyReport i)))
    -- TKEY_EXPIRY (R248)
    ∧ (∀ (s : State) slice i key, (sliceOf s.start slice).keys.pend = some (i, key) ∧ 3 ≤ (sliceOf s.start slice).keys.tries ∧ (sliceOf s.start
      slice).keys.stall = false ∧ msPassed s.start (sliceOf s.start slice).keys.sentAt s.start.acc.cfg.tkey = true ∧ (sliceOf s.start slice).ch ≠
      .active → exec (.tkeyExpiry slice) s = s.become (accLeaf (onSlice s.start slice (fun x => { x with keys := { x.keys with stall := true } })) slice
      7))
    -- PLOAM_SLEEP_ALLOW (R249)
    ∧ (∀ (s : State) slice h allow, Hears s.start slice h ∧ (sliceOf s.start slice).st = .o5 → exec (.ploamSleepAllow slice h allow) s = s.become (heard
      slice h (ackIf h (.ackOk h.seq)) (onSlice (accCount s.start slice 0 1) slice (fun x => { x with sleepAllowed := allow }))))
    -- PLOAM_UNKNOWN_TYPE (R251)
    ∧ (∀ (s : State) slice h, Hears s.start slice h → exec (.ploamUnknownType slice h) s = s.become (heard slice h (some (.ackUnknown h.seq)) (accCount
      (accCount s.start slice 0 1) slice 2 1)))
    -- SLEEP_AWARE_PERIOD (R249)
    ∧ (∀ (s : State) slice, (sliceOf s.start slice).sleepAllowed = false → exec (.sleepAwarePeriod slice) s = s.become (onSlice s.start slice (fun x =>
      { x with asleep := false })))
    -- TO1_EXPIRY (R240)
    ∧ (∀ (s : State) slice, (sliceOf s.start slice).st = .o4 ∧ msPassed s.start (sliceOf s.start slice).to1At s.start.acc.cfg.to1 = true → exec
      (.to1Expiry slice) s = s.become (setAccSt s.start slice .o23 (bellNs s.start)))
    -- TO1_EXPIRY (R240)
    ∧ (∀ (s : State) slice, (sliceOf s.start slice).st ≠ .o4 → exec (.to1Expiry slice) s = s.become s.start)
    -- TO2_EXPIRY (R240)
    ∧ (∀ (s : State) slice, (sliceOf s.start slice).st = .o6 ∧ msPassed s.start (sliceOf s.start slice).to2At s.start.acc.cfg.to2 = true → exec
      (.to2Expiry slice) s = s.become (setAccSt s.start slice .o11 (bellNs s.start)))
    -- FLAP_WINDOW_EXPIRY (R240)
    ∧ (∀ (s : State) slice, exec (.flapWindowExpiry slice) s = s.become (onSlice s.start slice (fun x =>
      { x with flaps := x.flaps.filter (fun f => decide (s.start.bell.tick.toNat - f.toNat < s.start.acc.cfg.flapWindow * 8000)) })))
    -- QUARANTINE_EXPIRY (R253)
    ∧ (∀ (s : State) slice, (sliceOf s.start slice).st = .quarantine ∧ msPassed s.start ((sliceOf s.start slice).quars.getLast?.getD 0) ((sliceOf s.start
      slice).quarFor * 1000) = true → exec (.quarantineExpiry slice) s = s.become (setAccSt s.start slice .o11 (bellNs s.start)))
    -- WATCHDOG_TRIP (R254)
    ∧ (∀ (s : State) slice cause now, slice < 4 ∧ (sliceOf s.start slice).st ≠ .killed → Ends (exec (.watchdogTrip slice cause now) s) (fun t => (sliceOf
      t.dev slice).st = .killed ∧ (sliceOf t.dev slice).txkill = true ∧ (sliceOf t.dev slice).wdKilled = true ∧ (sliceOf t.dev slice).wdCause = cause %
      4))

/-- Where these events complete, and what they do: the bond: its messages, its channels and its fragments. One clause or more for each event, under conditions on the state and the operands alone. -/
def Obligations.BondEventsComplete : Prop :=
    -- BOND_OFFER (R276)
    (∀ (s : State) slice h dsPort usPort start, BondTold s.start slice h ∧ eligible s.start slice = true → exec (.bondOffer slice h dsPort usPort
      start) s = s.become (bondTold slice 0x01 h 0 (raiseLeaf (chActivate (answered (onBond s.start (fun b =>
      { b with st := .bonded, id := h.bondId, dsPort := dsPort, usPort := usPort, e := start % 2 ^ 24, usNext := 0, held := [], sdu := none, sduSkip := false }))
      0x81 0xFF) slice) 6 24)))
    -- BOND_OFFER (R276)
    ∧ (∀ (s : State) slice h dsPort usPort start, BondTold s.start slice h ∧ eligible s.start slice = false → exec (.bondOffer slice h dsPort usPort
      start) s = s.become (bondTold slice 0x01 h 2 s.start))
    -- CHANNEL_ADD (R277)
    ∧ (∀ (s : State) slice h joinFrame, BondTold s.start slice h ∧ h.reservedOk = true ∧ h.channel = slice ∧ eligible s.start slice = true ∧ (sliceOf
      s.start slice).leaveFrame = none ∧ (sliceOf s.start slice).ch = .out ∧ skewOk s.start slice = true ∧ h.frame + 8 ≤ joinFrame ∧ joinFrame ≤ h.frame
      + 8000 ∧ (sliceOf s.start slice).allocs.length + (lackedIds s.start slice).length ≤ 64 → exec (.channelAdd slice h joinFrame) s = s.become
      (bondTold slice 0x02 h 0 (answered (onSlice ((lackedIds s.start slice).foldl (fun d e => bondedEntry d slice e) s.start) slice (fun x =>
      { x with ch := .joining, joinFrame := joinFrame, joinLatch := joinFrame })) 0x83 slice)))
    -- CHANNEL_ADD (R277)
    ∧ (∀ (s : State) slice h joinFrame, BondTold s.start slice h ∧ h.reservedOk = true ∧ h.channel = slice ∧ eligible s.start slice = true ∧ (sliceOf
      s.start slice).leaveFrame = none ∧ (sliceOf s.start slice).ch = .out ∧ skewOk s.start slice = true ∧ joinFrame < h.frame + 8 → exec (.channelAdd
      slice h joinFrame) s = s.become (bondTold slice 0x02 h 4 (answered s.start 0x83 slice)))
    -- CHANNEL_REMOVE (R279)
    ∧ (∀ (s : State) slice h leaveFrame, BondTold s.start slice h ∧ h.channel < 4 ∧ (sliceOf s.start h.channel).ch = .active ∧ leaveFrame = 0 → exec
      (.channelRemove slice h leaveFrame) s = s.become (bondTold slice 0x03 h 0 (departure (answered s.start 0x83 h.channel) h.channel 4 h.now)))
    -- CHANNEL_REMOVE (R279)
    ∧ (∀ (s : State) slice h leaveFrame, BondTold s.start slice h ∧ h.channel < 4 ∧ (sliceOf s.start h.channel).ch = .active ∧ leaveFrame ≠ 0 ∧ (sliceOf
      s.start h.channel).frame < leaveFrame → exec (.channelRemove slice h leaveFrame) s = s.become (bondTold slice 0x03 h 0 (onSlice (answered s.start
      0x83 h.channel) h.channel (fun x => { x with leaveFrame := some leaveFrame }))))
    -- BOND_ALLOC (R283)
    ∧ (∀ (s : State) slice h alloc assign node, BondTold s.start slice h ∧ assign = true ∧ alloc < 16384 ∧ thas s.start.acc.bond.ids alloc = false ∧ (∀ n
      ∈ bondMembers s.start, (allocEntry (sliceOf s.start n) alloc).isSome = false ∧ (sliceOf s.start n).allocs.length < 64) ∧ freeNode s.start = some
      node → exec (.bondAlloc slice h alloc assign) s = s.become (bondTold slice 0x04 h 0 ((bondMembers s.start).foldl (fun d n => bondedEntry d n
      (alloc, node)) (onBond (takeNode s.start 4 alloc node) (fun b => { b with ids := tset b.ids alloc node })))))
    -- BOND_ALLOC (R283)
    ∧ (∀ (s : State) slice h alloc assign, BondTold s.start slice h ∧ assign = false ∧ alloc < 16384 ∧ tget s.start.acc.bond.ids alloc = none → exec
      (.bondAlloc slice h alloc assign) s = s.become (bondTold slice 0x04 h 0 s.start))
    -- BOND_RELEASE (R276)
    ∧ (∀ (s : State) slice hd, BondTold s.start slice hd → exec (.bondRelease slice hd) s = s.become (bondTold slice 0x05 hd 0 (bondEnd s.start hd.now)))
    -- BOND_MSG_UNKNOWN (R282)
    ∧ (∀ (s : State) slice h type, slice < 4 ∧ s.start.acc.cfg.native = true ∧ (sliceOf s.start slice).st = .o5 ∧ domOn s.start (4 + slice) = true ∧
      h.onu = (sliceOf s.start slice).onu ∧ h.micOk = true → exec (.bondMsgUnknown slice h type) s = s.become (bondAck (bondCount s.start 9 1) slice
      (type % 256) h 6))
    -- CHANNEL_JOIN_FRAME (R276)
    ∧ (∀ (s : State) slice, slice < 4 ∧ (sliceOf s.start slice).ch = .joining ∧ (sliceOf s.start slice).joinFrame ≤ (sliceOf s.start slice).frame → exec
      (.channelJoinFrame slice) s = s.become (accLeaf (chActivate s.start slice) slice 10))
    -- CHANNEL_DEPARTURE (R280)
    ∧ (∀ (s : State) slice cause now, slice < 4 ∧ 1 ≤ cause ∧ cause ≤ 7 ∧ (sliceOf s.start slice).ch ≠ .out → exec (.channelDeparture slice cause now) s
      = s.become (departure s.start slice cause now))
    -- CHANNEL_DEPARTURE (R280)
    ∧ (∀ (s : State) slice cause now, slice < 4 ∧ 1 ≤ cause ∧ cause ≤ 7 ∧ (sliceOf s.start slice).ch = .out → exec (.channelDeparture slice cause now) s
      = s.become s.start)
    -- BOND_MSG_RETRY (R278)
    ∧ (∀ (s : State) type chan o, s.start.acc.bond.outs.find? (fun o => o.type == type && o.chan == chan) = some o ∧ o.nextAt.toNat ≤
      s.start.bell.tick.toNat ∧ o.sends < 5 ∧ type ≠ 0x81 → exec (.bondMsgRetry type chan) s = s.become (ctlQueue (onBond s.start (fun b =>
      { b with outs := b.outs.map (fun x => if x = o then { o with sends := o.sends + 1, nextAt := s.start.bell.tick + 160 } else x) })) o.slice
      { kind := .bondMsg, len := 48, vals := byteVals (bondBytes o.slice (sliceOf s.start o.slice).onu type o.seq s.start.acc.bond.id s.start.acc.bond.epoch chan [o.status, o.cause]) }))
    -- BOND_MSG_RETRY (R278)
    ∧ (∀ (s : State) type chan o, s.start.acc.bond.outs.find? (fun o => o.type == type && o.chan == chan) = some o ∧ o.nextAt.toNat ≤
      s.start.bell.tick.toNat ∧ 5 ≤ o.sends ∧ type ≠ 0x81 → exec (.bondMsgRetry type chan) s = s.become (onBond s.start (fun b =>
      { b with outs := b.outs.filter (fun o => !(o.type == type && o.chan == chan)) })))
    -- BOND_FRAGMENT_RX (R270)
    ∧ (∀ (s : State) slice f now, slice < 4 ∧ domOn s.start (4 + slice) = true ∧ s.start.acc.bond.st = .bonded ∧ chActive s.start slice = true ∧ f.verOk
      = true ∧ f.hcrcOk = true ∧ f.seq < 2 ^ 24 ∧ 1 ≤ seqAhead s.start f.seq ∧ seqAhead s.start f.seq ≤ 255 ∧ (∀ h ∈ s.start.acc.bond.held, h.seq ≠
      f.seq) → exec (.bondFragmentRx slice f now) s = s.become (onBond (accCount s.start slice 16 1) (fun b =>
      { b with held := b.held ++ [{ seq := f.seq, came := now, deadline := now + 40000, frag := f }] })))
    -- BOND_FRAGMENT_RX (R270)
    ∧ (∀ (s : State) slice f now, slice < 4 ∧ domOn s.start (4 + slice) = true ∧ s.start.acc.bond.st = .bonded ∧ (f.verOk = false ∨ f.hcrcOk = false) →
      exec (.bondFragmentRx slice f now) s = s.become (bondCount s.start 5 1))
    -- REORDER_DEADLINE (R271)
    ∧ (∀ (s : State) now, deadlineDue s.start now = false → exec (.reorderDeadline now) s = s.become s.start)
    -- REORDER_DEADLINE (R271)
    ∧ (∀ (s : State) now k g, deadlineDue s.start now = true ∧ nextHeld s.start = some (k, g) → exec (.reorderDeadline now) s = s.become (reorderDeadline
      (windowDrain (windowAdvance s.start k now 1) now 256) now 255))

/-- Where these events complete, and what they do: bandwidth maps, bursts and downstream frames of a port. One clause or more for each event, under conditions on the state and the operands alone. -/
def Obligations.BurstEventsComplete : Prop :=
    -- GEM_FRAME_RX (R243)
    (∀ (s : State) slice g, slice < 4 ∧ (sliceOf s.start slice).st = .o5 ∧ domOn s.start (4 + slice) = true ∧ (sliceOf s.start slice).asleep = false ∧
      s.start.acc.cfg.native = false ∧ s.start.pwr.season ≠ .winter ∧ g.port ≠ (sliceOf s.start slice).onu ∧ g.port ∈ (sliceOf s.start slice).gem ∧
      g.keyIdx = none → exec (.gemFrameRx slice g) s = s.become (reassemble s.start slice g))
    -- GEM_FRAME_RX (R243)
    ∧ (∀ (s : State) slice g, slice < 4 ∧ (sliceOf s.start slice).st = .o5 ∧ domOn s.start (4 + slice) = true ∧ (sliceOf s.start slice).asleep = false ∧
      s.start.acc.cfg.native = false ∧ g.port ≠ (sliceOf s.start slice).onu ∧ g.port ∉ (sliceOf s.start slice).gem → exec (.gemFrameRx slice g) s =
      s.become s.start)
    -- GEM_REASSEMBLY_TIMEOUT (R243)
    ∧ (∀ (s : State) slice port r, tget (sliceOf s.start slice).reasm port = some r ∧ r.frame + 2 ≤ (sliceOf s.start slice).frame → exec
      (.gemReassemblyTimeout slice port) s = s.become (accCount (onSlice s.start slice (fun x => { x with reasm := tdel x.reasm port })) slice 10 1))
    -- BWMAP_RX (R252)
    ∧ (∀ (s : State) slice lost grants, slice < 4 ∧ (sliceOf s.start slice).sync = true ∧ (sliceOf s.start slice).asleep = false ∧ domOn s.start (4 +
      slice) = true ∧ (sliceOf s.start slice).st ≠ .disabled ∧ lost = true → exec (.bwmapRx slice lost grants) s = s.become ((grants.filter (grantOwn
      (sliceOf s.start slice))).foldl (fun d g => grantDrop d slice g 5) (accCount s.start slice 7 1)))
    -- BWMAP_RX (R252)
    ∧ (∀ (s : State) slice lost grants, slice < 4 ∧ (sliceOf s.start slice).sync = true ∧ (sliceOf s.start slice).asleep = false ∧ domOn s.start (4 +
      slice) = true ∧ (sliceOf s.start slice).st ≠ .disabled ∧ lost = false → exec (.bwmapRx slice lost grants) s = s.become (onSlice (scheduleGrants
      s.start slice ((sliceOf s.start slice).eqdWas.getD (sliceOf s.start slice).eqd) [] [] ((grants.filter (grantOwn (sliceOf s.start slice))).foldl
      (fun l g => grantInsert g l) [])).2 slice (fun x =>
      { x with bursts := x.bursts ++ (scheduleGrants s.start slice ((sliceOf s.start slice).eqdWas.getD (sliceOf s.start slice).eqd) [] [] ((grants.filter (grantOwn (sliceOf s.start slice))).foldl (fun l g => grantInsert g l) [])).1 })))
    -- BURST_COMMIT (R286)
    ∧ (∀ (s : State) slice now b rest, slice < 4 ∧ domOn s.start (4 + slice) = true ∧ (sliceOf s.start slice).ch = .out ∧ (sliceOf s.start slice).bursts
      = b :: rest ∧ b.parts = none ∧ burstServed (sliceOf s.start slice) b = false → exec (.burstCommit slice now) s = s.become (onSlice s.start slice
      (fun x => { x with bursts := rest })))
    -- BURST_COMMIT (R286)
    ∧ (∀ (s : State) slice now b rest, slice < 4 ∧ domOn s.start (4 + slice) = true ∧ (sliceOf s.start slice).ch = .out ∧ (sliceOf s.start slice).bursts
      = b :: rest ∧ b.parts = none ∧ burstServed (sliceOf s.start slice) b = true → exec (.burstCommit slice now) s = s.become (onSlice (reportOcc
      (fillGrants s.start slice b.grants now).2 slice b.grants (fillGrants s.start slice b.grants now).1).2 slice (fun x =>
      { x with bursts := { b with parts := some (reportOcc (fillGrants s.start slice b.grants now).2 slice b.grants (fillGrants s.start slice b.grants now).1).1 } :: rest })))
    -- BURST_WINDOW (R285)
    ∧ (∀ (s : State) slice stamp b rest ps, slice < 4 ∧ domOn s.start (4 + slice) = true ∧ (sliceOf s.start slice).bursts = b :: rest ∧ b.parts = some ps
      ∧ burstServed (sliceOf s.start slice) b = true ∧ spareRuns s.start slice = false ∧ gaspSent (sliceOf (ps.foldl (fun d p => partSent d slice stamp
      p) (emit (onSlice s.start slice (fun x => { x with bursts := rest })) .burst slice (burstTimes s.start (sliceOf s.start slice) b ps ++ (ps.map
      (fun p => p.sizes.map (fun x => (x : Int)))).flatten))) slice) b = false → exec (.burstWindow slice stamp) s = s.become (ps.foldl (fun d p =>
      partSent d slice stamp p) (emit (onSlice s.start slice (fun x => { x with bursts := rest })) .burst slice (burstTimes s.start (sliceOf s.start
      slice) b ps ++ (ps.map (fun p => p.sizes.map (fun x => (x : Int)))).flatten))))
    -- BURST_WINDOW (R285)
    ∧ (∀ (s : State) slice stamp b rest, slice < 4 ∧ domOn s.start (4 + slice) = true ∧ (sliceOf s.start slice).bursts = b :: rest ∧ b.parts = none →
      exec (.burstWindow slice stamp) s = s.become (onSlice s.start slice (fun x => { x with bursts := rest })))

/-- Where these events complete, and what they do: frames, links, collisions, low-power idle, pause, counters and MKA of the client and service ports. One clause or more for each event, under conditions on the state and the operands alone. -/
def Obligations.ClientPortEventsComplete : Prop :=
    -- CLIENT_FRAME_RX (R347)
    (∀ (s : State) port f, portUp s.start port = true ∧ domOn s.start 14 = true ∧ f.macsec = .untagged ∧ f.pcsErr = false ∧ f.bytes.length + 4 ≤ 63 →
      exec (.clientFrameRx port f) s = s.become (bump s.start port (if f.fcsOk then 15 else 16) 1))
    -- CLIENT_FRAME_RX (R347)
    ∧ (∀ (s : State) port f, portUp s.start port = true ∧ domOn s.start 14 = true ∧ f.macsec = .untagged ∧ f.pcsErr = false ∧ 63 < f.bytes.length + 4 ∧
      (portOf s.start port).f.maxFrame < f.bytes.length + 4 ∧ beAt f.bytes 12 2 = 0x8808 → exec (.clientFrameRx port f) s = s.become (bump s.start port
      (if f.fcsOk then 17 else 18) 1))
    -- CLIENT_FRAME_RX (R347)
    ∧ (∀ (s : State) port f, portUp s.start port = true ∧ domOn s.start 14 = true ∧ f.macsec = .untagged ∧ f.pcsErr = false ∧ f.fcsOk = true ∧ 63 <
      f.bytes.length + 4 ∧ f.bytes.length + 4 ≤ (portOf s.start port).f.maxFrame ∧ beAt f.bytes 12 2 = 0x8808 → exec (.clientFrameRx port f) s =
      s.become (macControl (countGood s.start port 0 8 (f.bytes.length + 4) f.bytes) port f.bytes))
    -- CLIENT_FRAME_RX (R347)
    ∧ (∀ (s : State) port f, portUp s.start port = true ∧ domOn s.start 14 = true ∧ f.macsec = .untagged ∧ f.pcsErr = false ∧ f.fcsOk = true ∧ 63 <
      f.bytes.length + 4 ∧ f.bytes.length + 4 ≤ (portOf s.start port).f.maxFrame ∧ beAt f.bytes 12 2 ≠ 0x8808 ∧ beAt f.bytes 0 6 = 0x0180C200000E → exec
      (.clientFrameRx port f) s = s.become (lldpIn (countGood s.start port 0 8 (f.bytes.length + 4) f.bytes) port f.bytes))
    -- CLIENT_FRAME_RX (R347)
    ∧ (∀ (s : State) port f, portUp s.start port = true ∧ domOn s.start 14 = true ∧ f.macsec = .untagged ∧ f.pcsErr = false ∧ f.fcsOk = true ∧ 63 <
      f.bytes.length + 4 ∧ f.bytes.length + 4 ≤ (portOf s.start port).f.maxFrame ∧ beAt f.bytes 12 2 ≠ 0x8808 ∧ beAt f.bytes 0 6 ≠ 0x0180C200000E ∧
      addrAccepted (portOf (countGood s.start port 0 8 (f.bytes.length + 4) f.bytes) port) f.bytes = false → exec (.clientFrameRx port f) s = s.become
      (bump (countGood s.start port 0 8 (f.bytes.length + 4) f.bytes) port 21 1))
    -- CLIENT_FRAME_RX (R347)
    ∧ (∀ (s : State) port f, portUp s.start port = true ∧ domOn s.start 14 = true ∧ f.macsec = .untagged ∧ f.pcsErr = false ∧ f.fcsOk = true ∧ 63 <
      f.bytes.length + 4 ∧ f.bytes.length + 4 ≤ (portOf s.start port).f.maxFrame ∧ beAt f.bytes 12 2 ≠ 0x8808 ∧ beAt f.bytes 0 6 ≠ 0x0180C200000E ∧
      addrAccepted (portOf (countGood s.start port 0 8 (f.bytes.length + 4) f.bytes) port) f.bytes = true ∧ (portOf (countGood s.start port 0 8
      (f.bytes.length + 4) f.bytes) port).macEn = false → exec (.clientFrameRx port f) s = s.become (rxForward (countGood s.start port 0 8
      (f.bytes.length + 4) f.bytes) port f (f.bytes.length + 4) (f.bytes.length + 4) false false))
    -- SERVICE_COLLISION (R356)
    ∧ (∀ (s : State) late k, (portOf s.start 4).csma.frame = some k ∧ (portOf s.start 4).csma.waiting = false ∧ halfDuplex s.start 4 = true ∧ late = true
      → exec (.serviceCollision late) s = s.become (bump (onPort (emit s.start .jam 4 []) 4 (fun x => { x with csma := CsmaState.idle })) 4 54 1))
    -- SERVICE_COLLISION (R356)
    ∧ (∀ (s : State) late k, (portOf s.start 4).csma.frame = some k ∧ (portOf s.start 4).csma.waiting = false ∧ halfDuplex s.start 4 = true ∧ late =
      false ∧ 16 ≤ (portOf s.start 4).csma.collisions + 1 → exec (.serviceCollision late) s = s.become (bump (onPort (emit s.start .jam 4 []) 4 (fun x
      => { x with csma := CsmaState.idle })) 4 55 1))
    -- SERVICE_COLLISION (R356)
    ∧ (∀ (s : State) late k, (portOf s.start 4).csma.frame = some k ∧ (portOf s.start 4).csma.waiting = false ∧ halfDuplex s.start 4 = true ∧ late =
      false ∧ (portOf s.start 4).csma.collisions + 1 < 16 → Ends (exec (.serviceCollision late) s) (fun t => (portOf t.dev 4).csma.frame = some k ∧
      (portOf t.dev 4).csma.waiting = true ∧ (portOf t.dev 4).csma.collisions = (portOf s.start 4).csma.collisions + 1 ∧ (portOf t.dev 4).csma.backoff <
      2 ^ min ((portOf s.start 4).csma.collisions + 1) 10))
    -- BACKOFF_EXPIRY (R356)
    ∧ (∀ (s : State) op k, (portOf s.start 4).csma.frame = some k ∧ (portOf s.start 4).csma.waiting = true → exec (.backoffExpiry op) s = s.become
      (attempt (onPort s.start 4 (fun x => { x with csma := { x.csma with waiting := false } })) 4 k op))
    -- LLDP_SEND (R352)
    ∧ (∀ (s : State) port frame now q e, portUp s.start port = true ∧ deviceQueue (emit s.start .lldp port [((portOf s.start port).f.lpiRxTw : Int)])
      (512 + port) now = some (q, e) → exec (.lldpSend port frame now) s = s.become ((tmAdmit e q
      { len := max 64 (frame.length + 4), push := 0, tpid := false, twoStep := none, stamp := 0, admitted := now, place := .onDie, bytes := frame, clear := false }
      0).2))
    -- LINK_CHANGE (R345)
    ∧ (∀ (s : State) port up, port ≤ 4 ∧ up = true ∧ portProvided s.start port = true ∧ portLit s.start port = true ∧ (portOf s.start port).f.enable =
      true ∧ (portOf s.start port).link = false → exec (.linkChange port up) s = s.become (raiseLeaf (onPort s.start port (fun x =>
      { x with link := true })) 12 port))
    -- LINK_CHANGE (R345)
    ∧ (∀ (s : State) port up, port ≤ 4 ∧ up = false ∧ (portOf s.start port).link = true → exec (.linkChange port up) s = s.become (raiseLeaf (onPort
      s.start port (fun x => { x with link := false, lpiTx := false, paused := false })) 12 port))
    -- RGMII_INBAND_STATUS (R355)
    ∧ (∀ (s : State) up speed duplex, (portOf s.start 4).f.svcAuto = true ∧ portLit s.start 4 = true ∧ (portOf s.start 4).f.enable = true ∧ speed ≤ 2 →
      exec (.rgmiiInbandStatus up speed duplex) s = s.become (linkTo (onPort s.start 4 (fun x => { x with speed := speed, duplex := duplex })) 4 up))
    -- RGMII_INBAND_STATUS (R355)
    ∧ (∀ (s : State) up speed duplex, (portOf s.start 4).f.svcAuto = false → exec (.rgmiiInbandStatus up speed duplex) s = s.become s.start)
    -- LPI_ENTER (R358)
    ∧ (∀ (s : State) port received, portUp s.start port = true ∧ received = true → exec (.lpiEnter port received) s = s.become (bump s.start port 26 1))
    -- LPI_ENTER (R358)
    ∧ (∀ (s : State) port received, portUp s.start port = true ∧ received = false ∧ (portOf s.start port).f.lpiEn = true ∧ lpiSupported s.start port =
      true ∧ (portOf s.start port).lpiTx = false ∧ rootOccupancy s.start (512 + port) = 0 ∧ (portOf s.start port).csma.frame = none ∧ resolvedTw s.start
      port ≤ (portOf s.start port).f.lpiTwMax → exec (.lpiEnter port received) s = s.become (bump (onPort (onPort s.start port (fun x =>
      { x with twTx := resolvedTw s.start port % 1024, lpiRefused := false })) port (fun x => { x with lpiTx := true })) port 49 1))
    -- LPI_ENTER (R358)
    ∧ (∀ (s : State) port received, portUp s.start port = true ∧ received = false ∧ (portOf s.start port).f.lpiEn = true ∧ lpiSupported s.start port =
      true ∧ (portOf s.start port).lpiTx = false ∧ rootOccupancy s.start (512 + port) = 0 ∧ (portOf s.start port).csma.frame = none ∧ (portOf s.start
      port).f.lpiTwMax < resolvedTw s.start port → exec (.lpiEnter port received) s = s.become (onPort s.start port (fun x =>
      { x with twTx := resolvedTw s.start port % 1024, lpiRefused := true })))
    -- LPI_WAKE (R360)
    ∧ (∀ (s : State) port us op, (portOf s.start port).lpiTx = true → exec (.lpiWake port us op) s = s.become (portDequeue (bump (onPort s.start port
      (fun x => { x with lpiTx := false })) port 50 us) port op))
    -- PAUSE_QUANTA_EXPIRY (R352)
    ∧ (∀ (s : State) port, exec (.pauseQuantaExpiry port) s = s.become (onPort s.start port (fun x => { x with paused := false })))
    -- STAT_SNAP (R365)
    ∧ (∀ (s : State) port, port ≤ 4 ∧ domOn s.start 38 = true ∧ domOn s.start (if port < 4 then 10 else 13) = true ∧ portLit s.start port = true ∧
      bar0Answers s.start = true → exec (.statSnap port) s = s.become (onPort s.start port (fun x => { x with snap := x.cnt })))
    -- CNT_LO_READ (R365)
    ∧ (∀ (s : State) port i, port ≤ 4 ∧ i < 64 ∧ domOn s.start (if port < 4 then 10 else 13) = true ∧ bar0Answers s.start = true → exec (.cntLoRead port
      i) s = s.become (emitRead (onPort s.start port (fun x => { x with hiLatch := (tgetD (portOf s.start port).cnt i 0).toNat / 2 ^ 32 })) (0x500400 +
      0x10000 * port + 8 * i) ((tgetD (portOf s.start port).cnt i 0).toNat % 2 ^ 32)))
    -- MKA_FRAME (R490)
    ∧ (∀ (s : State) port newSak dir ssci, port < 4 ∧ newSak = false → exec (.mkaFrame port newSak dir ssci) s = s.become (emit s.start .mka port []))
    -- MKA_FRAME (R490)
    ∧ (∀ (s : State) port newSak dir ssci h, port < 4 ∧ newSak = true ∧ s.start.fold.guard.rngOk = true ∧ domOn s.start 1 = true ∧ tfree s.start.fold.sas
      0 24576 = some h → Ends (exec (.mkaFrame port newSak dir ssci) s) (fun t => ((tget t.dev.fold.sas h).map (fun a => (a.st, a.rcd.path, a.rcd.dir)))
      = some (.ready, 2, min dir 1)))

/-- Where these events complete, and what they do: fragments, queues and dequeues. One clause or more for each event, under conditions on the state and the operands alone. -/
def Obligations.QueueEventsComplete : Prop :=
    -- FRAG_AGE_EXPIRY (R393)
    (∀ (s : State), (∀ e ∈ s.start.parse.frags, (s.start.bell.tick - e.last).toNat ≤ s.start.parse.age) → exec .fragAgeExpiry s = s.become s.start)
    -- FRAG_AGE_EXPIRY (R393)
    ∧ (∀ (s : State), Ends (exec .fragAgeExpiry s) (fun t => t.dev.parse.frags = s.start.parse.frags.filter (fun e => decide ((s.start.bell.tick -
      e.last).toNat ≤ s.start.parse.age))))
    -- QUEUE_FREE_DRAIN_END (R420)
    ∧ (∀ (s : State) q x b, tget s.start.tm.queues q = some x ∧ x.freeAt = some b ∧ b.toNat ≤ s.start.bell.tick.toNat → exec (.queueFreeDrainEnd q) s =
      s.become (onQueue (qDrop s.start q x.pkts.length) q (fun y => { y with pkts := [] })))
    -- QUEUE_FREE_DRAIN_END (R420)
    ∧ (∀ (s : State) q x b, tget s.start.tm.queues q = some x ∧ x.freeAt = some b ∧ s.start.bell.tick.toNat < b.toNat → exec (.queueFreeDrainEnd q) s =
      s.become s.start)
    -- HWM_RESET (R418)
    ∧ (∀ (s : State) queue go all, domOn s.start 15 = true ∧ bar0Answers s.start = true ∧ go = true ∧ all = false → exec (.hwmReset queue go all) s =
      s.become (onQueue s.start queue hwmZero))
    -- HWM_RESET (R418)
    ∧ (∀ (s : State) queue go all, domOn s.start 15 = true ∧ bar0Answers s.start = true ∧ all = true → exec (.hwmReset queue go all) s = s.become (onTm
      s.start (fun z => { z with queues := tmap z.queues (fun _ x => hwmZero x) })))
    -- TM_DEQUEUE (R404)
    ∧ (∀ (s : State) root op cell find e, 512 ≤ root ∧ root ≤ 516 ∧ portMaySend s.start (root - 512) = true ∧ domOn s.start 15 = true ∧ eccRead s.start
      (headClass s.start root op.now cell) cell find = (.clean, e) → exec (.tmDequeue root op cell find) s = s.become (portDequeue e (root - 512) op))
    -- TM_DEQUEUE (R404)
    ∧ (∀ (s : State) root op cell find e, (root = 524 ∨ root = 525) ∧ cascUp s.start (root - 524) = true ∧ domOn s.start 39 = true ∧ domOn s.start 15 =
      true ∧ eccRead s.start (headClass s.start root op.now cell) cell find = (.clean, e) → exec (.tmDequeue root op cell find) s = s.become
      (cascDequeue e (root - 524) op.now op.stamp))
    -- TM_DEQUEUE (R404)
    ∧ (∀ (s : State) root op cell find e, 512 ≤ root ∧ root ≤ 516 ∧ portMaySend s.start (root - 512) = true ∧ domOn s.start 15 = true ∧ eccRead s.start
      (headClass s.start root op.now cell) cell find = (.uncorrectable, e) → exec (.tmDequeue root op cell find) s = s.become (dropUnread e root op.now))

/-- Where these events complete, and what they do: HELLO, TOPO, KEEPALIVE, lane copies, data and media of the cascade ports. One clause or more for each event, under conditions on the state and the operands alone. -/
def Obligations.CascadePortEventsComplete : Prop :=
    -- CASC_HELLO_RX (R537)
    (∀ (s : State) h domain dev rank, CascHears s.start h .control (ctlBytes (.hello domain dev rank)) ∧ (cascPort (cascGot h true s.start) h.port).st
      = .hello ∧ domain = s.start.casc.domain ∧ dev ≠ s.start.casc.device ∧ 3 ≤ (cascPort (cascGot h true s.start) h.port).hellos + 1 → exec
      (.cascHelloRx h domain dev rank) s = s.become (topoUpdate (raiseLeaf (onCascPort (onCascPort (cascGot h true s.start) h.port (fun x =>
      { x with peer := dev, hellos := x.hellos + 1 })) h.port (fun x => { x with st := .up })) 23 h.port)))
    -- CASC_HELLO_RX (R537)
    ∧ (∀ (s : State) h domain dev rank, CascHears s.start h .control (ctlBytes (.hello domain dev rank)) ∧ (cascPort (cascGot h true s.start) h.port).st
      = .hello ∧ domain = s.start.casc.domain ∧ dev ≠ s.start.casc.device ∧ (cascPort (cascGot h true s.start) h.port).hellos + 1 < 3 → exec
      (.cascHelloRx h domain dev rank) s = s.become (onCascPort (cascGot h true s.start) h.port (fun x =>
      { x with peer := dev, hellos := x.hellos + 1 })))
    -- CASC_HELLO_RX (R537)
    ∧ (∀ (s : State) h domain dev rank, CascHears s.start h .control (ctlBytes (.hello domain dev rank)) ∧ ((cascPort (cascGot h true s.start) h.port).st
      = .hello ∨ (cascPort (cascGot h true s.start) h.port).st = .up) ∧ domain ≠ s.start.casc.domain → exec (.cascHelloRx h domain dev rank) s =
      s.become (cascDown (cascGot h true s.start) h.port 1))
    -- CASC_HELLO_RX (R537)
    ∧ (∀ (s : State) h domain dev rank, CascHears s.start h .control (ctlBytes (.hello domain dev rank)) ∧ ((cascPort (cascGot h true s.start) h.port).st
      = .hello ∨ (cascPort (cascGot h true s.start) h.port).st = .up) ∧ domain = s.start.casc.domain ∧ dev = s.start.casc.device → exec (.cascHelloRx h
      domain dev rank) s = s.become (raiseLeaf (cascDown (cascGot h true s.start) h.port 2) 23 6))
    -- CASC_TOPO_RX (R540)
    ∧ (∀ (s : State) h hops, CascHears s.start h .control (ctlBytes (.topo hops)) → exec (.cascTopoRx h hops) s = s.become (topoUpdate (onCascPort
      (cascGot h true s.start) h.port (fun x => { x with dist := (List.range 16).map (fun n => (n, hops.getD n 15)) }))))
    -- CASC_KEEPALIVE_RX (R537)
    ∧ (∀ (s : State) h, CascHears s.start h .control (ctlBytes (.keepalive)) ∧ h.dst = s.start.casc.device → exec (.cascKeepaliveRx h) s = s.become
      (cascGot h true s.start))
    -- CASC_KEEPALIVE_RX (R537)
    ∧ (∀ (s : State) h, CascHears s.start h .control (ctlBytes (.keepalive)) ∧ h.dst ≠ s.start.casc.device ∧ h.src ≠ s.start.casc.device ∧ h.hops ≠ 0 ∧
      cascUp (cascGot h true s.start) (1 - h.port) = true → exec (.cascKeepaliveRx h) s = s.become (cascTx (cascGot h true s.start) .keepalive (1 -
      h.port) .control (h.hops - 1) h.src h.dst h.corr (ctlBytes .keepalive)))
    -- CASC_KEEPALIVE_RX (R537)
    ∧ (∀ (s : State) h, CascHears s.start h .control (ctlBytes (.keepalive)) ∧ h.dst ≠ s.start.casc.device ∧ h.src ≠ s.start.casc.device ∧ h.hops = 0 ∧
      h.dst ≠ 0xFF → exec (.cascKeepaliveRx h) s = s.become (onCascPort (cascGot h true s.start) h.port (fun x =>
      { x with hopsDrop := satInc x.hopsDrop })))
    -- CASC_KEEPALIVE_RX (R537)
    ∧ (∀ (s : State) h, h.port ≤ 1 ∧ domOn s.start 39 = true ∧ (cascPort s.start h.port).st ≠ .down ∧ crcHolds h .control (ctlBytes .keepalive) = false →
      exec (.cascKeepaliveRx h) s = s.become (onCascPort (onCascPort s.start h.port (fun x => { x with rx := satInc x.rx })) h.port (fun x =>
      { x with crcErr := satInc x.crcErr })))
    -- CASC_KEEPALIVE_RX (R537)
    ∧ (∀ (s : State) h, h.port ≤ 1 ∧ domOn s.start 39 = true ∧ (cascPort s.start h.port).st ≠ .down ∧ crcHolds h .control (ctlBytes .keepalive) = true ∧
      tagHolds s.start h .control (ctlBytes .keepalive) = false → Ends (exec (.cascKeepaliveRx h) s) (fun t => (cascPort t.dev h.port).authFail = satInc
      (cascPort s.start h.port).authFail ∧ (leafWord t.dev.sys.int 23).getLsbD 5 = true))
    -- CASC_LANE_COPY_RX (R333)
    ∧ (∀ (s : State) h port lane, CascHears s.start h .control (ctlBytes (.laneCopy port lane)) ∧ h.dst = s.start.casc.device ∧ lane ≤ 7 → exec
      (.cascLaneCopyRx h port lane) s = s.become (onLanes (cascGot h true s.start) (fun l =>
      { l with groups := tupd l.groups (2 + h.port) (LaneGroup.reset (2 + h.port)) (fun g => { g with copyOut := if g.copyOut = some lane then none else some lane }) })))
    -- CASC_KEEPALIVE_SEND (R537)
    ∧ (∀ (s : State), domOn s.start 39 = true ∧ ((cascPort s.start 0).st = .hello ∨ (cascPort s.start 0).st = .up) ∧ (cascPort s.start 1).st = .down →
      exec .cascKeepaliveSend s = s.become (cascNear s.start .keepalive 0 .keepalive))
    -- CASC_KEEPALIVE_SEND (R537)
    ∧ (∀ (s : State), domOn s.start 39 = true ∧ (cascPort s.start 0).st = .down ∧ (cascPort s.start 1).st = .up → exec .cascKeepaliveSend s = s.become
      (cascNear s.start .keepalive 1 .keepalive))
    -- CASC_HELLO_SEND (R537)
    ∧ (∀ (s : State), domOn s.start 39 = true ∧ ((cascPort s.start 0).st = .aligning ∨ (cascPort s.start 0).st = .hello) ∧ (cascPort s.start 1).st =
      .down → exec .cascHelloSend s = s.become (cascTx s.start .hello 0 .control 0 s.start.casc.device 0xFF 0 (ctlBytes (.hello s.start.casc.domain
      s.start.casc.device s.start.bell.succ.rank))))
    -- CASC_TOPO_SEND (R539)
    ∧ (∀ (s : State), domOn s.start 39 = true → exec .cascTopoSend s = s.become (sendTopo (sendTopo s.start 0) 1))
    -- CASC_PORT_TIMEOUT (R537)
    ∧ (∀ (s : State) port, port ≤ 1 ∧ (cascPort s.start port).st = .up → exec (.cascPortTimeout port) s = s.become (raiseLeaf (onCasc (onCascPort s.start
      port (fun x => { x with st := .down, reason := 4, downAt := s.start.bell.tick, hellos := 0, badTags := 0, dist := [] })) (fun c =>
      { c with topoDue := true })) 23 (2 + port)))
    -- CASC_PORT_RETRY (R537)
    ∧ (∀ (s : State) port, port ≤ 1 ∧ (cascPort s.start port).st = .down ∧ ((cascPort s.start port).reason = 3 ∨ (cascPort s.start port).reason = 4) ∧
      getField s.start.casc.portEn port 1 = 1 ∧ (cascPort s.start port).downAt + 1024 ≤ s.start.bell.tick → exec (.cascPortRetry port) s = s.become
      (onCascPort s.start port (fun x => { x with st := .aligning })))
    -- CASC_PORT_RETRY (R537)
    ∧ (∀ (s : State) port, port ≤ 1 ∧ (cascPort s.start port).st = .down ∧ ((cascPort s.start port).reason = 1 ∨ (cascPort s.start port).reason = 2) →
      exec (.cascPortRetry port) s = s.become s.start)
    -- CASC_DATA_RX (R540)
    ∧ (∀ (s : State) h bytes stamp now, CascHears s.start h .data bytes ∧ cascUp s.start h.port = true ∧ h.dst = s.start.casc.device ∧ domOn s.start 14 =
      true → exec (.cascDataRx h bytes stamp now) s = s.become (ingest (cascGot h false s.start) (12 + h.port) none bytes (adjusted (cascGot h false
      s.start) (9 + h.port % 2) stamp) now none))
    -- CASC_MEDIA_RX (R543)
    ∧ (∀ (s : State) h pay, CascHears s.start h .media (mediaBytes pay) ∧ cascUp s.start h.port = true ∧ h.dst = s.start.casc.device → exec (.cascMediaRx
      h pay) s = s.become (mediaRx pay (cascGot h false s.start)))
    -- CASC_MEDIA_RX (R543)
    ∧ (∀ (s : State) h pay tag tick ins, CascHears s.start h .media (mediaBytes pay) ∧ pay = .contribution tag tick ins ∧ tick ≠ captureTick s.start 2 ∧
      cascUp s.start h.port = true ∧ h.dst = s.start.casc.device → exec (.cascMediaRx h pay) s = s.become (raiseLeaf (onCasc (cascGot h false s.start)
      (fun c => { c with contribLate := satInc c.contribLate })) 23 7))

/-- Where these events complete, and what they do: the twin, its beats and takeover, and the digests. One clause or more for each event, under conditions on the state and the operands alone. -/
def Obligations.TwinAndDigestEventsComplete : Prop :=
    -- TWIN_BEAT_SEND (R539)
    (∀ (s : State) z p, domOn s.start 39 = true ∧ s.start.casc.twin = some z ∧ twinPaths s.start = [p] → exec .twinBeatSend s = s.become (cascTx
      s.start .twinBeat p .control (hopsVia s.start p z - 1) s.start.casc.device z 0 (ctlBytes (.twinBeat s.start.casc.device (twinStCode
      s.start.casc.twinSt)))))
    -- TWIN_BEAT_SEND (R539)
    ∧ (∀ (s : State), domOn s.start 39 = true ∧ s.start.casc.twin = none → exec .twinBeatSend s = s.become s.start)
    -- CASC_TWIN_BEAT_RX (R548)
    ∧ (∀ (s : State) h state, CascHears s.start h .control (ctlBytes (.twinBeat h.src state)) ∧ h.dst = s.start.casc.device ∧ s.start.casc.twin = some
      h.src ∧ state = 2 ∧ s.start.casc.twinSt ≠ .tookOver ∧ s.start.casc.twinSt ≠ .returned → exec (.cascTwinBeatRx h state) s = s.become (raiseLeaf
      (onCasc (toShadows (cascGot h true s.start)) (fun c => { c with twinSt := .returned })) 24 4))
    -- CASC_TWIN_BEAT_RX (R548)
    ∧ (∀ (s : State) h state, CascHears s.start h .control (ctlBytes (.twinBeat h.src state)) ∧ h.dst = s.start.casc.device ∧ state ≠ 2 → exec
      (.cascTwinBeatRx h state) s = s.become (cascGot h true s.start))
    -- CASC_TAKEOVER_RX (R550)
    ∧ (∀ (s : State) h taken home, CascHears s.start h .control (ctlBytes (.takeover taken home)) ∧ h.dst = s.start.casc.device ∧ taken ≠
      s.start.casc.device → exec (.cascTakeoverRx h taken home) s = s.become (onMedia (cascGot h true s.start) (fun m =>
      { m with binds := m.binds.map (fun b => if b.2 = taken then (b.1, home) else b) })))
    -- CASC_TAKEOVER_RX (R550)
    ∧ (∀ (s : State) h taken home, CascHears s.start h .control (ctlBytes (.takeover taken home)) ∧ h.dst = s.start.casc.device ∧ taken =
      s.start.casc.device ∧ s.start.casc.twinSt = .tookOver → exec (.cascTakeoverRx h taken home) s = s.become ((if home < s.start.casc.device then
      onCasc (cascGot h true s.start) (fun c => { c with yielding := true }) else cascGot h true s.start)))
    -- TWIN_PARTNER_LOST (R548)
    ∧ (∀ (s : State), s.start.casc.twin ≠ none ∧ s.start.casc.twinSt ≠ .tookOver → exec .twinPartnerLost s = s.become (onCasc s.start (fun c =>
      { c with partnerHeard := false, lost := decide (s.start.casc.reach = 2) })))
    -- TWIN_TAKEOVER (R548)
    ∧ (∀ (s : State), s.start.casc.lost = true ∧ s.start.casc.twinSt ≠ .tookOver → exec .twinTakeover s = s.become (takeOver s.start))
    -- TWIN_TAKEOVER (R548)
    ∧ (∀ (s : State), s.start.casc.lost = true ∧ s.start.casc.twin ≠ none ∧ s.start.casc.twinSt ≠ .tookOver → Ends (exec .twinTakeover s) (fun t =>
      t.dev.casc.twinSt = .tookOver ∧ t.dev.casc.announce = some (s.start.bell.tick + 1) ∧ (∀ l ∈ t.dev.media.legs, l.2.live = true) ∧ (leafWord
      t.dev.sys.int 24).getLsbD 0 = true))
    -- CASC_DIGEST_RX (R462)
    ∧ (∀ (s : State) h peerBusy mask digest epoch, CascHears s.start h .control (ctlBytes (.digest mask digest epoch)) ∧ h.dst = s.start.casc.device ∧
      h.src < 16 → exec (.cascDigestRx h peerBusy mask digest epoch) s = s.become (peerDigest h.src peerBusy mask digest epoch (cascGot h true s.start)))
    -- DIGEST_PUBLISH (R460)
    ∧ (∀ (s : State), s.start.integ.busy = true ∧ domOn s.start 2 = true ∧ s.start.integ.driftHeld = none → exec .digestPublish s = s.become (sendDigest
      (onInteg s.start (fun i =>
      { i with blocks := digestsNow s.start, dev := deviceDigest i.mask (digestsNow s.start), epoch := i.nextEpoch, valid := true, busy := false, driftHeld := none }))))
    -- DIGEST_DRIFT_CHECK (R461)
    ∧ (∀ (s : State) drifted, domOn s.start 2 = true ∧ s.start.integ.busy = true → exec (.digestDriftCheck drifted) s = s.become (onInteg s.start (fun i
      => { i with driftHeld := some drifted })))
    -- DIGEST_DRIFT_CHECK (R461)
    ∧ (∀ (s : State) drifted, domOn s.start 2 = true ∧ s.start.integ.busy = false ∧ (∀ e ∈ drifted, e.1 < 17 → tgetD s.start.integ.blocks e.1 0 = e.2) →
      exec (.digestDriftCheck drifted) s = s.become (sendDigest s.start))
    -- DIGEST_DRIFT_CHECK (R461)
    ∧ (∀ (s : State) drifted b v, domOn s.start 2 = true ∧ s.start.integ.busy = false ∧ drifted = [(b, v)] ∧ b < 17 ∧ tgetD s.start.integ.blocks b 0 ≠ v
      → Ends (exec (.digestDriftCheck drifted) s) (fun t => tget t.dev.integ.blocks b = some v ∧ t.dev.integ.valid = true ∧ t.dev.integ.cure = true ∧
      t.dev.integ.drift = s.start.integ.drift ||| 2 ^ b ∧ (leafWord t.dev.sys.int 21).getLsbD 20 = true))

/-- Where these events complete, and what they do: the cut-off, the bell's changes and the turns of the control cores. One clause or more for each event, under conditions on the state and the operands alone. -/
def Obligations.ControlCoreEventsComplete : Prop :=
    -- STAGING_CUTOFF (R15)
    (∀ (s : State), domOn s.start 2 = true ∧ s.start.aux.swapState ≠ 1 → exec .stagingCutoff s = s.become (onSys (copiesDone s.start) (fun y =>
      { y with staged := y.staged.map (fun z => { z with armed := true }) })))
    -- STAGED_CHANGES_TAKE_EFFECT (R14)
    ∧ (∀ (s : State) z c pick, domOn s.start 2 = true ∧ s.start.aux.swapState ≠ 1 ∧ s.start.sys.staged = [z] ∧ z.change = .kervon c pick ∧ z.armed =
      false → Ends (exec .stagedChangesTakeEffect s) (fun t => z ∈ t.dev.sys.staged))
    -- STAGED_CHANGES_TAKE_EFFECT (R14)
    ∧ (∀ (s : State), domOn s.start 2 = true ∧ s.start.aux.swapState ≠ 1 ∧ s.start.sys.staged = [] → exec .stagedChangesTakeEffect s = s.commit
      (beginDigests false (syncLanes (accBell (drainBell (beginDrains (finishLoads (postAtBell (s.start)))))))))
    -- STAGED_CHANGES_TAKE_EFFECT (R14)
    ∧ (∀ (s : State) z c pick e, domOn s.start 2 = true ∧ s.start.aux.swapState ≠ 1 ∧ s.start.sys.staged = [z] ∧ z.change = .kervon c pick ∧ waits
      { dev := onSys s.start (fun y => { y with staged := [] }), busy := [], changed := false, kept := [] } z = false ∧ destroys c = false ∧ settleNew c
      pick (postDone z (applyChange z (onSys s.start (fun y => { y with staged := [] }))).2 (applyChange z (onSys s.start (fun y =>
      { y with staged := [] }))).1) = e → exec .stagedChangesTakeEffect s = s.commit (beginDigests true (syncLanes (accBell (drainBell (beginDrains
      (finishLoads (postAtBell (e)))))))))
    -- COMMAND_DEQUEUE (R518)
    ∧ (∀ (s : State), (∀ r, r < 4 → ringReady (ringOf s.start r) = false) ∧ (∀ k, k < 8 → (sessOf s.start k).queue = []) → exec .commandDequeue s =
      s.commit (s.start))
    -- COMMAND_DEQUEUE (R518)
    ∧ (∀ (s : State) r p, r < 4 ∧ kServing s.start = true ∧ domOn s.start 38 = true ∧ ringReady (ringOf s.start r) = true ∧ tget (ringOf s.start r).slots
      (ringOf s.start r).sqHead = some p ∧ (∀ j, j < r → ringReady (ringOf s.start j) = false) ∧ (∀ j, r < j ∧ j < 4 → ringReady (ringOf (runQueued
      s.mem p (onRing s.start r (fun x => { x with sqHead := (x.sqHead + 1) % 256 }))) j) = false) ∧ (∀ k, k < 8 → (sessOf (runQueued s.mem p (onRing
      s.start r (fun x => { x with sqHead := (x.sqHead + 1) % 256 }))) k).queue = []) → exec .commandDequeue s = s.commit (runQueued s.mem p (onRing
      s.start r (fun x => { x with sqHead := (x.sqHead + 1) % 256 }))))
    -- COMMAND_DEQUEUE (R518)
    ∧ (∀ (s : State) k p rest, k < 8 ∧ kServing s.start = true ∧ (sessOf s.start k).st = .opened ∧ (sessOf s.start k).queue = p :: rest ∧ (∀ r, r < 4 →
      ringReady (ringOf s.start r) = false) ∧ (∀ j, j < k → (sessOf s.start j).queue = []) ∧ (∀ j, k < j ∧ j < 8 → (sessOf (runQueued s.mem p (onSess
      s.start k (fun x => { x with queue := rest }))) j).queue = []) → exec .commandDequeue s = s.commit (runQueued s.mem p (onSess s.start k (fun x =>
      { x with queue := rest }))))

/-- Where these events complete, and what they do: the engines' operations and timers. One clause or more for each event, under conditions on the state and the operands alone. -/
def Obligations.EngineOperationsComplete : Prop :=
    -- MUL (R203)
    (∀ (s : State) i acc a b sg wide, CanIssue s.start i (some (acc % 4)) (macSlot i.slot) false → exec (.mul i acc a b sg wide) s = s.commit (macDone
      s.start i acc ((List.range 16).map (fun j => if j < (if wide then 8 else 16) then BitVec.ofInt 80 (laneProd (regsOf s.start i) a b sg wide j) else
      laneAcc (rdAcc (regsOf s.start i) acc) j))))
    -- MAC (R203)
    ∧ (∀ (s : State) i acc a b sg wide, CanIssue s.start i (some (acc % 4)) (macSlot i.slot) false → exec (.mac i acc a b sg wide) s = s.commit (macDone
      s.start i acc ((List.range 16).map (fun j => if j < (if wide then 8 else 16) then laneAcc (rdAcc (regsOf s.start i) acc) j + BitVec.ofInt 80
      (laneProd (regsOf s.start i) a b sg wide j) else laneAcc (rdAcc (regsOf s.start i) acc) j))))
    -- MSU (R203)
    ∧ (∀ (s : State) i acc a b sg wide, CanIssue s.start i (some (acc % 4)) (macSlot i.slot) false → exec (.msu i acc a b sg wide) s = s.commit (macDone
      s.start i acc ((List.range 16).map (fun j => if j < (if wide then 8 else 16) then laneAcc (rdAcc (regsOf s.start i) acc) j - BitVec.ofInt 80
      (laneProd (regsOf s.start i) a b sg wide j) else laneAcc (rdAcc (regsOf s.start i) acc) j))))
    -- MAC_SUM (R203)
    ∧ (∀ (s : State) i acc a b sg wide, CanIssue s.start i (some (acc % 4)) (macSlot i.slot) false → exec (.macSum i acc a b sg wide) s = s.commit
      (macDone s.start i acc ((List.range 16).map (fun j => if j = 0 then laneAcc (rdAcc (regsOf s.start i) acc) 0 + BitVec.ofInt 80 ((List.range (if
      wide then 8 else 16)).map (laneProd (regsOf s.start i) a b sg wide)).sum else laneAcc (rdAcc (regsOf s.start i) acc) j))))
    -- CLR (R203)
    ∧ (∀ (s : State) i acc, CanIssue s.start i (some (acc % 4)) (macSlot i.slot) false → exec (.clr i acc) s = s.commit (macDone s.start i acc
      (List.replicate 16 0)))
    -- MV_V (R206)
    ∧ (∀ (s : State) i dst acc, CanIssue s.start i none (aluSlot i.slot) false ∧ (∀ j, j < 16 → clampW 16 (scaleLane (regsOf s.start i).mcr (acc % 4)
      (laneAcc (rdAccMv (regsOf s.start i) acc) j)) = scaleLane (regsOf s.start i).mcr (acc % 4) (laneAcc (rdAccMv (regsOf s.start i) acc) j)) → exec
      (.mvV i dst acc) s = s.commit (postResult (issued s.start i none) i.eng 2 (.v dst) (packLanes 16 ((List.range 16).map (fun j => twos 16 (clampW 16
      (scaleLane (regsOf s.start i).mcr (acc % 4) (laneAcc (rdAccMv (regsOf s.start i) acc) j)))))) []))
    -- MV_V (R206)
    ∧ (∀ (s : State) i dst acc, CanIssue s.start i none (aluSlot i.slot) false → exec (.mvV i dst acc) s = s.commit (moveLanes (issued s.start i none)
      i.eng acc 16 16 (List.range 16) (.v dst)))
    -- MV_W (R206)
    ∧ (∀ (s : State) i dst acc, CanIssue s.start i none (aluSlot i.slot) false → exec (.mvW i dst acc) s = s.commit (moveLanes (issued s.start i none)
      i.eng acc (mcrSatw (regsOf s.start i).mcr) 32 (List.range 8) (.w dst)))
    -- MV_S (R206)
    ∧ (∀ (s : State) i dst acc lane, CanIssue s.start i none (aluSlot i.slot) false → exec (.mvS i dst acc lane) s = s.commit (moveLanes (issued s.start
      i none) i.eng acc (mcrSatw (regsOf s.start i).mcr) 32 [lane % 16] (.s dst)))
    -- LOAD (R202)
    ∧ (∀ (s : State) i reg addr find e, CanIssue s.start i none (lsSlot i.slot) false ∧ boundsFault (regsOf s.start i) addr (elems reg).1 (elems reg).2
      (mayLoad (engOf s.start i.eng).core.shadowOn) = false ∧ localRead i.eng find (issued s.start i none) (((List.range (elems reg).1).map (fun j =>
      elemAddr (regsOf s.start i) addr (elems reg).2 j / 8)).eraseDups) = (false, e) → exec (.load i reg addr find) s = s.commit (postPointer
      (postResult e i.eng 4 (loadDst reg) (packLanes (8 * (elems reg).2) ((List.range (elems reg).1).map (fun j => leNat (memRead (engOf s.start
      i.eng).core.mem (elemAddr (regsOf s.start i) addr (elems reg).2 j) (elems reg).2)))) []) i.eng addr))
    -- STORE (R201)
    ∧ (∀ (s : State) i reg addr, CanIssue s.start i none (lsSlot i.slot) false ∧ boundsFault (regsOf s.start i) addr (elems reg).1 (elems reg).2
      (mayStore (engOf s.start i.eng).core.shadowOn) = false → exec (.store i reg addr) s = s.commit (postPointer (onCore (issued s.start i none) i.eng
      (fun c =>
      { c with stores := c.stores ++ [{ due := c.cycle + 2, bytes := (((List.range (elems reg).1).zip (storeLanes (regsOf s.start i) reg)).map (fun x => ((List.range (elems reg).2).zip (leBytes x.2 (elems reg).2)).map (fun y => (elemAddr (regsOf s.start i) addr (elems reg).2 x.1 + y.1, y.2)))).flatten }] }))
      i.eng addr))
    -- STORE (R201)
    ∧ (∀ (s : State) i reg addr, CanIssue s.start i none (lsSlot i.slot) false ∧ boundsFault (regsOf s.start i) addr (elems reg).1 (elems reg).2
      (mayStore (engOf s.start i.eng).core.shadowOn) = true → exec (.store i reg addr) s = s.commit (programFault (issued s.start i none) i.eng 3))
    -- SCALAR_OPERATION (R197)
    ∧ (∀ (s : State) i op dst a b v, CanIssue s.start i none (aluSlot i.slot) false ∧ scalarVal op (srcVal (regsOf s.start i) a) (srcVal (regsOf s.start
      i) b) = some v → exec (.scalarOperation i op dst a b) s = s.commit (postResult (issued s.start i none) i.eng (if op = .mulLow then 2 else 1)
      (scDst dst) v.toNat []))
    -- SCALAR_OPERATION (R197)
    ∧ (∀ (s : State) i op dst a b, CanIssue s.start i none (aluSlot i.slot) false ∧ scalarVal op (srcVal (regsOf s.start i) a) (srcVal (regsOf s.start i)
      b) = none → exec (.scalarOperation i op dst a b) s = s.commit (postResult (drawFree (issued s.start i none)).2 i.eng (if op = .mulLow then 2 else
      1) (scDst dst) (drawFree (issued s.start i none)).1 []))
    -- CONTROL_REGISTER_WRITE (R198)
    ∧ (∀ (s : State) i w k src, CanIssue s.start i none (aluSlot i.slot) false ∧ w = .cb k src → exec (.controlRegisterWrite i w) s = s.commit
      (postResult (issued s.start i none) i.eng 1 (.cb k) (rdS (regsOf s.start i) src).toNat []))
    -- CONTROL_REGISTER_WRITE (R198)
    ∧ (∀ (s : State) i w k src, CanIssue s.start i none (aluSlot i.slot) false ∧ w = .cl k src → exec (.controlRegisterWrite i w) s = s.commit
      (postResult (issued s.start i none) i.eng 1 (.cl k) (rdS (regsOf s.start i) src).toNat []))
    -- CONTROL_REGISTER_WRITE (R198)
    ∧ (∀ (s : State) i w, CanIssue s.start i none (aluSlot i.slot) false ∧ w = .clearSat → exec (.controlRegisterWrite i w) s = s.commit (postResult
      (issued s.start i none) i.eng 1 .satClear 0 []))
    -- WMCR (R205)
    ∧ (∀ (s : State) i src, CanIssue s.start i none (aluSlot i.slot) false → exec (.wmcr i src) s = s.commit (postResult (issued s.start i none) i.eng 1
      .mcr (rdS (regsOf s.start i) src).toNat []))
    -- BRANCH (R200)
    ∧ (∀ (s : State) i target, CanIssue s.start i none (aluSlot i.slot) true → exec (.branch i target) s = s.commit (startFlow (issued s.start i none)
      i.eng target false))
    -- CALL (R200)
    ∧ (∀ (s : State) i target, CanIssue s.start i none (aluSlot i.slot) true → exec (.call i target) s = s.commit (startFlow (issued s.start i none)
      i.eng target false))
    -- RETI (R210)
    ∧ (∀ (s : State) i, CanIssue s.start i none (aluSlot i.slot) true → exec (.reti i) s = s.commit (startFlow (issued s.start i none) i.eng (engOf
      s.start i.eng).core.ira true))
    -- EVENT_PULSE (R215)
    ∧ (∀ (s : State) line listeners e n, line < 4096 ∧ listeners = [(e, n)] ∧ e < 256 ∧ n < 32 → exec (.eventPulse line listeners) s = s.commit (emit
      (onCore s.start e (pulseCore line n)) .engineEvent line [(e : Int)]))
    -- SIG (R215)
    ∧ (∀ (s : State) i line listeners e n, CanIssue s.start i none (aluSlot i.slot) false ∧ line < 4096 ∧ listeners = [(e, n)] ∧ e < 256 ∧ n < 32 → exec
      (.sig i line listeners) s = s.commit (emit (onCore (issued s.start i none) e (pulseCore line n)) .engineEvent line [(e : Int)]))
    -- ENGINE_INTERRUPT (R210)
    ∧ (∀ (s : State) eng kind, engRuns s.start eng = true ∧ (engOf s.start eng).core.shadowOn = false ∧ (engOf s.start eng).core.br = none ∧
      wantsInterrupt (holdInterrupt kind (engOf s.start eng).core) = true → exec (.engineInterrupt eng kind) s = s.commit (engCycle (onCore s.start eng
      (holdInterrupt kind)) eng))
    -- ENGINE_INTERRUPT (R210)
    ∧ (∀ (s : State) eng kind, engRuns s.start eng = true ∧ ((engOf s.start eng).core.shadowOn = true ∨ (engOf s.start eng).core.br ≠ none ∨
      wantsInterrupt (holdInterrupt kind (engOf s.start eng).core) = false) → exec (.engineInterrupt eng kind) s = s.commit (onCore s.start eng
      (holdInterrupt kind)))
    -- SLOT_TIMER (R217)
    ∧ (∀ (s : State) eng finished ready background, engRuns s.start eng = true ∧ ((engOf s.start eng).core.shadowOn = true ∨ (engOf s.start eng).core.br
      ≠ none) → Ends (exec (.slotTimer eng finished ready background) s) (fun t => (engOf t.dev eng).kern.slot = ((engOf s.start eng).kern.slot + 1) % 8
      ∧ (engOf t.dev eng).core.held = (engOf s.start eng).core.held ++ [.slotTimer]))
    -- SLOT_TIMER (R217)
    ∧ (∀ (s : State) eng finished ready background x l, engRuns s.start eng = true ∧ (engOf s.start eng).kern.audioLeft.filter (fun z =>
      !finished.contains z) = x :: l ∧ (∀ n, (engOf s.start eng).kern.running ≠ .audio n) ∧ ((engOf s.start eng).core.shadowOn = true ∨ (engOf s.start
      eng).core.br ≠ none) → Ends (exec (.slotTimer eng finished ready background) s) (fun t => (engOf t.dev eng).kern.running = .audio x))

/-- Where these events complete, and what they do: Drove's chains and bursts. One clause or more for each event, under conditions on the state and the operands alone. -/
def Obligations.DroveEventsComplete : Prop :=
    -- DROVE_BURST (R435)
    (∀ (s : State) b c h x, domOn s.start 2 = true ∧ s.start.drove.chans = [(c, h)] ∧ h.st = .active ∧ h.desc = some x ∧ (x.reqEn = true →
      b.reqs.contains x.req = true) ∧ (usesPasture x = true → holdsCredit s.start (chanClass c x) = true) → exec (.droveBurst b) s = s.commit (moveBurst
      s.mem b (onDrove s.start (fun z => { z with last := tset z.last (chanPrio s.start c) c })) c x))
    -- DROVE_BURST (R435)
    ∧ (∀ (s : State) b c h x, domOn s.start 2 = true ∧ s.start.drove.chans = [(c, h)] ∧ h.st = .active ∧ h.desc = some x ∧ (x.reqEn = true →
      b.reqs.contains x.req = true) ∧ usesPasture x = true ∧ holdsCredit s.start (chanClass c x) = false → exec (.droveBurst b) s = s.commit (stallClass
      s.start (chanClass c x) 0))
    -- DROVE_BURST (R435)
    ∧ (∀ (s : State) b, domOn s.start 2 = true ∧ (∀ e ∈ s.start.drove.chans, (chanOf s.start e.1).st ≠ .active) → exec (.droveBurst b) s = s.commit
      (s.start))
    -- DROVE_START (R430)
    ∧ (∀ (s : State) chan, chan < 128 ∧ domOn s.start 2 = true ∧ (chanOf s.start chan).st = .idle → exec (.droveStart chan) s = s.become (onChan s.start
      chan (fun x => { x with st := .active, cur := x.descAddr, desc := none, left := 0, buf := none, descending := false, fetching := false })))
    -- DROVE_START (R430)
    ∧ (∀ (s : State) chan, chan < 128 ∧ domOn s.start 2 = true ∧ (chanOf s.start chan).st ≠ .idle → exec (.droveStart chan) s = s.become s.start)
    -- DROVE_RESUME (R439)
    ∧ (∀ (s : State) chan, chan < 128 ∧ domOn s.start 2 = true ∧ (chanOf s.start chan).st = .halted → exec (.droveResume chan) s = s.become (onChan
      s.start chan (fun x => { x with st := .active, fetching := false })))
    -- DROVE_SKIP (R439)
    ∧ (∀ (s : State) chan x, chan < 128 ∧ domOn s.start 2 = true ∧ (chanOf s.start chan).st = .halted ∧ (chanOf s.start chan).desc = some x ∧ x.last =
      false → exec (.droveSkip chan) s = s.become (onChan s.start chan (fun x =>
      { x with st := .active, cur := x.cur + 32, desc := none, left := 0, buf := none, descending := false, fetching := false })))
    -- DROVE_SKIP (R439)
    ∧ (∀ (s : State) chan x, chan < 128 ∧ domOn s.start 2 = true ∧ (chanOf s.start chan).st = .halted ∧ (chanOf s.start chan).desc = some x ∧ x.last =
      true ∧ (chanOf s.start chan).armed = false ∧ (chanOf s.start chan).pending = false → Ends (exec (.droveSkip chan) s) (fun t => (chanOf t.dev
      chan).st = .idle ∧ (chanOf t.dev chan).desc = none))
    -- DROVE_SKIP (R439)
    ∧ (∀ (s : State) chan x, chan < 128 ∧ domOn s.start 2 = true ∧ (chanOf s.start chan).st = .halted ∧ (chanOf s.start chan).desc = some x ∧ x.last =
      true ∧ (chanOf s.start chan).pending = true → Ends (exec (.droveSkip chan) s) (fun t => (chanOf t.dev chan).st = .active ∧ (chanOf t.dev chan).cur
      = (chanOf s.start chan).descAddr ∧ (chanOf t.dev chan).pending = false))
    -- DROVE_ABORT (R439)
    ∧ (∀ (s : State) chan, chan < 128 ∧ domOn s.start 2 = true ∧ ((chanOf s.start chan).st = .active ∨ (chanOf s.start chan).st = .waiting) → exec
      (.droveAbort chan) s = s.become (onChan s.start chan (fun h =>
      { h with st := .idle, desc := none, left := 0, buf := none, descending := false, pending := false, fetching := false })))
    -- DROVE_ABORT (R439)
    ∧ (∀ (s : State) chan, chan < 128 ∧ domOn s.start 2 = true ∧ (chanOf s.start chan).st = .halted ∧ (chanOf s.start chan).armed = true ∧ (chanOf
      s.start chan).pending = true → Ends (exec (.droveAbort chan) s) (fun t => (chanOf t.dev chan).st = .active ∧ (chanOf t.dev chan).cur = (chanOf
      s.start chan).descAddr ∧ (chanOf t.dev chan).pending = false))
    -- DROVE_TRIGGER (R431)
    ∧ (∀ (s : State) line c h, domOn s.start 2 = true ∧ s.start.drove.chans = [(c, h)] ∧ h.armed = true ∧ h.trigger = line ∧ (h.st = .idle ∨ h.st =
      .waiting) → exec (.droveTrigger line) s = s.become (onChan s.start c (fun x =>
      { x with st := .active, cur := x.descAddr, desc := none, left := 0, buf := none, descending := false, fetching := false })))
    -- DROVE_TRIGGER (R431)
    ∧ (∀ (s : State) line c h, domOn s.start 2 = true ∧ s.start.drove.chans = [(c, h)] ∧ h.armed = true ∧ h.trigger = line ∧ (h.st = .active ∨ h.st =
      .halted) → exec (.droveTrigger line) s = s.become (onChan s.start c (fun x => { x with pending := true })))
    -- DROVE_TRIGGER (R431)
    ∧ (∀ (s : State) line c h, domOn s.start 2 = true ∧ s.start.drove.chans = [(c, h)] ∧ (h.armed = false ∨ h.trigger ≠ line) → exec (.droveTrigger line)
      s = s.become s.start)

/-- Where these events complete, and what they do: Pasture requests, BAR2, row remapping and check-value units. One clause or more for each event, under conditions on the state and the operands alone. -/
def Obligations.IntegrityEventsComplete : Prop :=
    -- PASTURE_REQUEST (R26)
    (∀ (s : State) cls addr write find, domOn s.start 16 = true ∧ cls < 24 ∧ (pastClass s.start cls).waiting = 0 ∧ 0 < (pastClass s.start cls).own ∧
      addr < pastureSize ∧ write = false → exec (.pastureRequest cls addr write find) s = s.become ((eccRead (serveOwn s.start cls) (pastMemClass addr)
      addr find).2))
    -- PASTURE_REQUEST (R26)
    ∧ (∀ (s : State) cls addr write find, domOn s.start 16 = true ∧ cls < 24 ∧ (pastClass s.start cls).waiting = 0 ∧ (pastClass s.start cls).own = 0 ∧ 0
      < s.start.past.pool ∧ addr < pastureSize ∧ write = true → exec (.pastureRequest cls addr write find) s = s.become (eccWrite (servePool s.start
      cls) (pastMemClass addr) addr))
    -- PASTURE_REQUEST (R26)
    ∧ (∀ (s : State) cls addr write find, domOn s.start 16 = true ∧ cls < 24 ∧ (0 < (pastClass s.start cls).waiting ∨ ((pastClass s.start cls).own = 0 ∧
      s.start.past.pool = 0)) ∧ pastureSize ≤ addr → exec (.pastureRequest cls addr write find) s = s.become (stallClass s.start cls 1))
    -- PASTURE_REQUEST (R26)
    ∧ (∀ (s : State) cls addr write find, domOn s.start 16 = true ∧ cls < 24 ∧ (0 < (pastClass s.start cls).waiting ∨ ((pastClass s.start cls).own = 0 ∧
      s.start.past.pool = 0)) ∧ addr < pastureSize ∧ write = true → exec (.pastureRequest cls addr write find) s = s.become (eccWrite (stallClass
      s.start cls 1) (pastMemClass addr) addr))
    -- PASTURE_REQUEST (R26)
    ∧ (∀ (s : State) cls addr write find, domOn s.start 16 = true ∧ cls < 24 ∧ (0 < (pastClass s.start cls).waiting ∨ ((pastClass s.start cls).own = 0 ∧
      s.start.past.pool = 0)) ∧ addr < pastureSize ∧ write = false → exec (.pastureRequest cls addr write find) s = s.become ((eccRead (stallClass
      s.start cls 1) (pastMemClass addr) addr find).2))
    -- BAR2_ACCESS (R507)
    ∧ (∀ (s : State) offset write data bytes find, domOn s.start 38 = true ∧ domOn s.start 16 = true ∧ offset < 2 ^ 32 ∧ write = true → exec (.bar2Access
      offset write data bytes find) s = s.commit (pastWritten (postMem (chargeClass s.start 22 (lineCount (s.start.sys.bar2Win * 2 ^ 32 + offset)
      data.length)) (s.start.sys.bar2Win * 2 ^ 32 + offset) data) (s.start.sys.bar2Win * 2 ^ 32 + offset) data.length))
    -- BAR2_ACCESS (R507)
    ∧ (∀ (s : State) offset write data bytes find e, domOn s.start 38 = true ∧ domOn s.start 16 = true ∧ offset < 2 ^ 32 ∧ write = false ∧ eccRead
      (chargeClass s.start 22 (lineCount (s.start.sys.bar2Win * 2 ^ 32 + offset) bytes)) (pastMemClass (s.start.sys.bar2Win * 2 ^ 32 + offset))
      (s.start.sys.bar2Win * 2 ^ 32 + offset) find = (.clean, e) → exec (.bar2Access offset write data bytes find) s = s.commit (emit e .hostRead 2
      ((memRead s.mem (s.start.sys.bar2Win * 2 ^ 32 + offset) bytes).map (fun b => (b.toNat : Int)))))
    -- BAR2_ACCESS (R507)
    ∧ (∀ (s : State) offset write data bytes find e, domOn s.start 38 = true ∧ domOn s.start 16 = true ∧ offset < 2 ^ 32 ∧ write = false ∧ eccRead
      (chargeClass s.start 22 (lineCount (s.start.sys.bar2Win * 2 ^ 32 + offset) bytes)) (pastMemClass (s.start.sys.bar2Win * 2 ^ 32 + offset))
      (s.start.sys.bar2Win * 2 ^ 32 + offset) find = (.uncorrectable, e) → exec (.bar2Access offset write data bytes find) s = s.commit (emit e
      .hostRead 3 [((s.start.sys.bar2Win * 2 ^ 32 + offset : Nat) : Int)]))
    -- ROW_REMAP_START (R450)
    ∧ (∀ (s : State) row k, domOn s.start 16 = true ∧ (stackOf s.start 0).cands = [(row, k)] ∧ (stackOf s.start 1).cands = [] ∧ k ≠ s.start.bell.tick ∧
      (stackOf s.start 0).copying.length < (stackOf s.start 0).free ∧ holdsCredit s.start 23 = true → exec .rowRemapStart s = s.become (onStack
      (chargeClass (onStack s.start 0 (fun x => { x with cands := [] })) 23 32) 0 (fun x => { x with copying := x.copying ++ [row] })))
    -- ROW_REMAP_START (R450)
    ∧ (∀ (s : State) row k, domOn s.start 16 = true ∧ (stackOf s.start 0).cands = [(row, k)] ∧ (stackOf s.start 1).cands = [] ∧ k ≠ s.start.bell.tick ∧
      (stackOf s.start 0).free ≤ (stackOf s.start 0).copying.length → exec .rowRemapStart s = s.become (raiseLeaf (onStack s.start 0 (fun x =>
      { x with cands := [] })) 21 18))
    -- ROW_REMAP_COMPLETE (R450)
    ∧ (∀ (s : State) row, (stackOf s.start 0).copying = [row] ∧ (stackOf s.start 1).copying = [] → exec .rowRemapComplete s = s.become (endRow s.start 0
      row))
    -- ROW_REMAP_COMPLETE (R450)
    ∧ (∀ (s : State) row, (stackOf s.start 0).copying = [row] ∧ (stackOf s.start 1).copying = [] ∧ 0 < (stackOf s.start 0).free → Ends (exec
      .rowRemapComplete s) (fun t => (stackOf t.dev 0).copying = [] ∧ (stackOf t.dev 0).free = (stackOf s.start 0).free - 1 ∧ (row, 256 - (stackOf
      s.start 0).free) ∈ (stackOf t.dev 0).remap ∧ t.dev.integ.remapLast = row * 1024 ∧ (leafWord t.dev.sys.int 21).getLsbD 17 = true))
    -- CV_INIT (R454)
    ∧ (∀ (s : State) cv, cv < 64 ∧ domOn s.start 2 = true → exec (.cvInit cv) s = s.become (onCv s.start cv (fun x =>
      { x with value := (cvAlg x.alg).2.2.1 })))
    -- CV_INIT (R454)
    ∧ (∀ (s : State) cv, cv < 64 ∧ domOn s.start 2 = true ∧ (cvOf s.start cv).alg = 2 → exec (.cvInit cv) s = s.become (onCv s.start cv (fun x =>
      { x with value := 0xFFFFFFFF#64 })))
    -- CV_INIT (R454)
    ∧ (∀ (s : State) cv, cv < 64 ∧ domOn s.start 2 = true ∧ (cvOf s.start cv).alg = 3 → exec (.cvInit cv) s = s.become (onCv s.start cv (fun x =>
      { x with value := 0#64 })))
    -- CV_INIT (R454)
    ∧ (∀ (s : State) cv, cv < 64 ∧ domOn s.start 2 = true ∧ (cvOf s.start cv).alg = 0 → exec (.cvInit cv) s = s.become (onCv s.start cv (fun x =>
      { x with value := 0xFF#64 })))
    -- CV_INIT (R454)
    ∧ (∀ (s : State) cv, cv < 64 ∧ domOn s.start 2 = true ∧ (cvOf s.start cv).alg = 1 → exec (.cvInit cv) s = s.become (onCv s.start cv (fun x =>
      { x with value := 0xFFFF#64 })))
    -- CV_DATA8 (R454)
    ∧ (∀ (s : State) cv data, cv < 64 ∧ domOn s.start 2 = true → exec (.cvData8 cv data) s = s.become (onCv s.start cv (fun x =>
      { x with value := cvByte x.alg x.value (BitVec.ofNat 8 data) })))
    -- CV_DATA16 (R454)
    ∧ (∀ (s : State) cv data, cv < 64 ∧ domOn s.start 2 = true → exec (.cvData16 cv data) s = s.become (onCv s.start cv (fun x =>
      { x with value := cvByte x.alg (cvByte x.alg x.value (BitVec.ofNat 8 data)) (BitVec.ofNat 8 (data / 256)) })))
    -- CV_DATA32 (R454)
    ∧ (∀ (s : State) cv data, cv < 64 ∧ domOn s.start 2 = true → exec (.cvData32 cv data) s = s.become (onCv s.start cv (fun x =>
      { x with value := cvFeed x.alg x.value (leBytes data 4) })))
    -- CV_VALUE_WRITE (R455)
    ∧ (∀ (s : State) cv high value, cv < 64 ∧ domOn s.start 2 = true ∧ high = true → exec (.cvValueWrite cv high value) s = s.become (onCv s.start cv
      (fun x => { x with value := BitVec.ofNat 64 (x.value.toNat % 2 ^ 32 + value % 2 ^ 32 * 2 ^ 32) })))
    -- CV_VALUE_WRITE (R455)
    ∧ (∀ (s : State) cv high value, cv < 64 ∧ domOn s.start 2 = true ∧ high = false → exec (.cvValueWrite cv high value) s = s.become (onCv s.start cv
      (fun x => { x with value := BitVec.ofNat 64 (x.value.toNat / 2 ^ 32 * 2 ^ 32 + value % 2 ^ 32) })))
    -- CV_ALIVE_WRITE (R456)
    ∧ (∀ (s : State) cv value, cv < 64 ∧ domOn s.start 2 = true ∧ value < 256 ∧ (cvOf s.start cv).aliveInit = true → Ends (exec (.cvAliveWrite cv value)
      s) (fun t => (cvOf t.dev cv).result = 2 ∧ (cvOf t.dev cv).alive = value ∧ (cvOf t.dev cv).aliveInit = false))
    -- CV_ALIVE_WRITE (R456)
    ∧ (∀ (s : State) cv value, cv < 64 ∧ domOn s.start 2 = true ∧ value < 256 ∧ (cvOf s.start cv).aliveInit = false ∧ (cvOf s.start cv).alive < 256 ∧
      value = ((cvOf s.start cv).alive + 1) % 256 ∧ (cvOf s.start cv).run = 0 → Ends (exec (.cvAliveWrite cv value) s) (fun t => (cvOf t.dev cv).result
      = 1 ∧ (cvOf t.dev cv).alive = value))
    -- CV_ALIVE_WRITE (R456)
    ∧ (∀ (s : State) cv value, cv < 64 ∧ domOn s.start 2 = true ∧ value < 256 ∧ (cvOf s.start cv).aliveInit = false ∧ (cvOf s.start cv).alive = value →
      Ends (exec (.cvAliveWrite cv value) s) (fun t => (cvOf t.dev cv).result = 3 ∧ (cvOf t.dev cv).repeated = min 65535 ((cvOf s.start cv).repeated +
      1)))

/-- Where these events complete, and what they do: lanes, their sparing, recalibration and eye scans. One clause or more for each event, under conditions on the state and the operands alone. -/
def Obligations.LaneEventsComplete : Prop :=
    -- LANE_FAILURE (R332)
    (∀ (s : State) lane, lane < 32 ∧ laneOn s.start lane = true ∧ laneBad s.start lane = true ∧ hasSpare (groupOfLane lane) = false → exec
      (.laneFailure lane) s = s.become (laneOutOfService (onLane s.start lane (fun l => { l with recal := none })) lane))
    -- LANE_FAILURE (R332)
    ∧ (∀ (s : State) lane, lane < 32 ∧ laneOn s.start lane = true ∧ laneBad s.start lane = true ∧ (groupOfLane lane = 2 ∨ groupOfLane lane = 3) ∧ lane -
      firstLane (groupOfLane lane) < dataLanes (groupOfLane lane) ∧ (laneGroup s.start (groupOfLane lane)).autoSpare = true ∧ (laneGroup s.start
      (groupOfLane lane)).spareFor = none ∧ (laneGroup s.start (groupOfLane lane)).sparing = none → Ends (exec (.laneFailure lane) s) (fun t =>
      (laneGroup t.dev (groupOfLane lane)).sparing.map (·.lane) = some (lane - firstLane (groupOfLane lane)) ∧ (laneOf t.dev lane).recal = none))
    -- LANE_ADAPTED (R324)
    ∧ (∀ (s : State) lane peak gain dfe flt, lane ≤ 31 ∧ laneOn s.start lane = true ∧ (laneOf s.start lane).ctrl.getLsbD 8 = false ∧ (laneGroup s.start
      0).sparing = none ∧ (laneOf s.start lane).adapted = false → Ends (exec (.laneAdapted lane peak gain dfe flt) s) (fun t => (laneOf t.dev
      lane).signal = true ∧ (laneOf t.dev lane).cdr = true ∧ (laneOf t.dev lane).adapted = true ∧ (laneOf t.dev lane).peak = min 15 peak ∧ (laneOf t.dev
      lane).gain = min 63 gain ∧ (laneOf t.dev lane).dfe = dfe.map (· % 256)))
    -- LANE_ADAPTED (R324)
    ∧ (∀ (s : State) lane peak gain dfe flt, lane ≤ 31 ∧ laneOn s.start lane = true ∧ (laneOf s.start lane).ctrl.getLsbD 8 = false ∧ (laneGroup s.start
      0).sparing = none ∧ (laneOf s.start lane).adapted = true → Ends (exec (.laneAdapted lane peak gain dfe flt) s) (fun t => (laneOf t.dev lane).dfe =
      (List.range 16).map (fun k => tapStep ((laneOf s.start lane).dfe.getD k 0) (dfe.getD k ((laneOf s.start lane).dfe.getD k 0)))))
    -- LANE_ADAPTED (R324)
    ∧ (∀ (s : State) lane peak gain dfe flt, lane ≤ 31 ∧ laneOn s.start lane = true ∧ (laneOf s.start lane).ctrl.getLsbD 8 = true ∧ (laneGroup s.start
      0).sparing = none → Ends (exec (.laneAdapted lane peak gain dfe flt) s) (fun t => (laneOf t.dev lane).adapted = true ∧ (laneOf t.dev lane).peak =
      (laneOf s.start lane).peak ∧ (laneOf t.dev lane).dfe = (laneOf s.start lane).dfe))
    -- LANE_CDR_LOSS (R331)
    ∧ (∀ (s : State) lane, lane ≤ 31 ∧ laneOn s.start lane = true ∧ (laneOf s.start lane).signal = true → exec (.laneCdrLoss lane) s = s.become
      (laneFailed (raiseLeaf (onLane s.start lane (fun l => { l with cdr := false, adapted := false, cdrLoss := satInc l.cdrLoss })) 8 lane) lane))
    -- EYE_SCAN (R330)
    ∧ (∀ (s : State) lane height width, lane ≤ 31 ∧ laneOn s.start lane = true ∧ height < 1024 ∧ width < 1024 ∧ getField (eyeThOf s.start lane).toNat 0
      10 ≤ height ∧ getField (eyeThOf s.start lane).toNat 16 10 ≤ width ∧ (laneOf s.start lane).eyeLow = false → Ends (exec (.eyeScan lane height width)
      s) (fun t => (laneOf t.dev lane).height = height ∧ (laneOf t.dev lane).width = width ∧ (laneOf t.dev lane).badHeight = 0 ∧ (laneOf t.dev
      lane).eyeLow = false))
    -- EYE_SCAN (R330)
    ∧ (∀ (s : State) lane height width, lane ≤ 31 ∧ laneOn s.start lane = true ∧ height < getField (eyeThOf s.start lane).toNat 0 10 ∧ (laneOf s.start
      lane).badHeight = 15 ∧ (laneOf s.start lane).eyeLow = false → Ends (exec (.eyeScan lane height width) s) (fun t => (laneOf t.dev lane).eyeLow =
      true ∧ (leafWord t.dev.sys.int 9).getLsbD lane = true))
    -- LANE_RECAL_PERIODIC (R325)
    ∧ (∀ (s : State) n, n < 32 ∧ laneOn s.start n = true → Ends (exec .laneRecalPeriodic s) (fun t => (laneOf t.dev n).recal = some s.start.bell.tick))
    -- LANE_MARKER_RX (R328)
    ∧ (∀ (s : State) lane marker skew compareOk, lane ≤ 31 ∧ (groupOfLane lane = 2 ∨ groupOfLane lane = 3) ∧ laneOn s.start lane = true ∧ (laneGroup
      s.start (groupOfLane lane)).mode = 2 ∧ markerOk marker = true ∧ 1 ≤ (laneOf s.start lane).marks ∧ (laneGroup s.start (groupOfLane lane)).sparing =
      none → Ends (exec (.laneMarkerRx lane marker skew compareOk) s) (fun t => (laneOf t.dev lane).markLock = true ∧ (laneOf t.dev lane).count =
      markerCount marker ∧ (laneOf t.dev lane).missed = 0))
    -- LANE_MARKER_RX (R328)
    ∧ (∀ (s : State) lane marker skew compareOk, lane ≤ 31 ∧ (groupOfLane lane = 2 ∨ groupOfLane lane = 3) ∧ laneOn s.start lane = true ∧ (laneGroup
      s.start (groupOfLane lane)).mode = 2 ∧ markerOk marker = false ∧ (laneOf s.start lane).markLock = true ∧ (laneOf s.start lane).missed = 3 → Ends
      (exec (.laneMarkerRx lane marker skew compareOk) s) (fun t => (laneOf t.dev lane).markLock = false))
    -- LANE_SLIP (R329)
    ∧ (∀ (s : State) lane, lane < 32 ∧ bar0Answers s.start = true ∧ domOn s.start (laneDomain (groupOfLane lane)) = true ∧ (laneGroup s.start
      (groupOfLane lane)).mode = 1 → exec (.laneSlip lane) s = s.become (onLane s.start lane (fun l => { l with slips := (l.slips + 1) % 256 })))
    -- LANE_SLIP (R329)
    ∧ (∀ (s : State) lane, lane < 32 ∧ bar0Answers s.start = true ∧ domOn s.start (laneDomain (groupOfLane lane)) = true ∧ (laneGroup s.start
      (groupOfLane lane)).mode ≠ 1 → exec (.laneSlip lane) s = s.become s.start)

/-- Where these events complete, and what they do: engine failures, group updates and the container's streams. One clause or more for each event, under conditions on the state and the operands alone. -/
def Obligations.FlockAndTrunkEventsComplete : Prop :=
    -- ENGINE_FAILED (R109)
    (∀ (s : State) engine, engine < 256 ∧ ((engOf s.start engine).st = .out ∨ (engOf s.start engine).st = .gated) → exec (.engineFailed engine) s =
      s.commit (s.start))
    -- ENGINE_FAILED (R109)
    ∧ (∀ (s : State) engine, engine < 256 ∧ (engOf s.start engine).st ≠ .out ∧ (engOf s.start engine).st ≠ .gated ∧ s.start.flock.failHeld.contains
      engine = false ∧ s.start.aux.swapState ≠ 1 → exec (.engineFailed engine) s = s.commit (engineFail engine (noteOverrun s.start engine (homedLegs
      s.start engine))))
    -- ENGINE_FAILED (R109)
    ∧ (∀ (s : State) engine, engine < 256 ∧ (engOf s.start engine).st ≠ .out ∧ (engOf s.start engine).st ≠ .gated ∧ s.start.flock.failHeld.contains
      engine = false ∧ s.start.aux.swapState = 1 → exec (.engineFailed engine) s = s.commit (onFlock (noteOverrun s.start engine (homedLegs s.start
      engine)) (fun f => { f with failHeld := f.failHeld ++ [engine] })))
    -- ENGINE_FAILED (R109)
    ∧ (∀ (s : State) engine, engine < 256 ∧ (engOf s.start engine).st ≠ .out ∧ (engOf s.start engine).st ≠ .gated ∧ s.start.flock.failHeld.contains
      engine = true → exec (.engineFailed engine) s = s.commit (s.start))
    -- GROUP_UPDATE_LOAD (R227)
    ∧ (∀ (s : State) group img u, group < 16 ∧ (groupOf s.start group).update = some (img, u) ∧ (groupOf s.start group).st = .draining ∧ groupEmpty
      s.start group = true → Ends (exec (.groupUpdateLoad group) s) (fun t => (groupOf t.dev group).st = .loading ∧ (∀ k, k < 16 → engOf t.dev (16 *
      group + k) = (if (engOf s.start (16 * group + k)).st = .out then engOf s.start (16 * group + k) else loadEngine img (engOf s.start (16 * group +
      k))))))
    -- GROUP_UPDATE_LOAD (R227)
    ∧ (∀ (s : State) group, groupEmpty s.start group = false → exec (.groupUpdateLoad group) s = s.become s.start)
    -- GROUP_UPDATE_DONE (R227)
    ∧ (∀ (s : State) group img x, (groupOf s.start group).update = some (img, x) ∧ (groupOf s.start group).st = .loading → exec (.groupUpdateDone group)
      s = s.become (followUp (raiseLeaf (onFGroup s.start group (fun f => { f with st := .ready, image := some img, update := none })) 19 6) x .done []))
    -- IMC_STREAM_RX (R301)
    ∧ (∀ (s : State) trunk bytes k, tget s.start.imc.trunks trunk = some k ∧ k.rcd.inbound = true → exec (.imcStreamRx trunk bytes) s = s.become
      (putTrunk s.start trunk (imcRun { k with buf := k.buf ++ bytes } [] (k.buf.length + bytes.length + 4))))
    -- IMC_STREAM_RX (R301)
    ∧ (∀ (s : State) trunk bytes k, tget s.start.imc.trunks trunk = some k ∧ k.rcd.inbound = false → exec (.imcStreamRx trunk bytes) s = s.become s.start)
    -- IMC_DEG_INTERVAL (R309)
    ∧ (∀ (s : State) trunk k, tget s.start.imc.trunks trunk = some k ∧ k.ivBroken = false ∧ k.align = .sync ∧ k.rcd.degThr < k.bipErrs ∧ k.deg = false ∧
      k.rcd.degSet ≤ k.badRun + 1 → exec (.imcDegInterval trunk) s = s.become (putTrunk s.start trunk
      ({ k with badRun := k.badRun + 1, goodRun := 0, deg := true, bipErrs := 0, ivBroken := false }, [3])))
    -- IMC_DEG_INTERVAL (R309)
    ∧ (∀ (s : State) trunk k, tget s.start.imc.trunks trunk = some k ∧ k.ivBroken = false ∧ k.align = .sync ∧ k.bipErrs ≤ k.rcd.degThr → exec
      (.imcDegInterval trunk) s = s.become (putTrunk s.start trunk
      ({ k with goodRun := k.goodRun + 1, badRun := 0, deg := k.deg && decide (k.goodRun + 1 < k.rcd.degClr), bipErrs := 0, ivBroken := false }, [])))
    -- IMC_DEG_INTERVAL (R309)
    ∧ (∀ (s : State) trunk k, tget s.start.imc.trunks trunk = some k ∧ k.ivBroken = true → exec (.imcDegInterval trunk) s = s.become (putTrunk s.start
      trunk ({ k with badRun := 0, goodRun := 0, bipErrs := 0, ivBroken := k.align != .sync }, [])))

/-- Where these events complete, and what they do: leg packets, adaptation, feedback, drains and handovers. One clause or more for each event, under conditions on the state and the operands alone. -/
def Obligations.LegEventsComplete : Prop :=
    -- LEG_PACKET_RX (R85)
    (∀ (s : State) leg pkt rtcp layer l, legOf s.start leg = some l ∧ legRuns l = true ∧ (pkt.b0 ≤ 3 ∨ (20 ≤ pkt.b0 ∧ pkt.b0 ≤ 63)) ∧ l.rcd.ctrlDest =
      1 → exec (.legPacketRx leg pkt rtcp layer) s = s.become (hostDeliver (legCount (popOf s.start l) leg 17 1) l.rcd.egress leg [pkt.b0, pkt.b1,
      pkt.bytes]))
    -- LEG_PACKET_RX (R85)
    ∧ (∀ (s : State) leg pkt rtcp layer l, legOf s.start leg = some l ∧ legRuns l = true ∧ (pkt.b0 ≤ 3 ∨ (20 ≤ pkt.b0 ∧ pkt.b0 ≤ 63)) ∧ l.rcd.ctrlDest =
      0 → exec (.legPacketRx leg pkt rtcp layer) s = s.become (legCount (popOf s.start l) leg 17 1))
    -- LEG_PACKET_RX (R85)
    ∧ (∀ (s : State) leg pkt rtcp layer l e, legOf s.start leg = some l ∧ legRuns l = true ∧ 128 ≤ pkt.b0 ∧ pkt.b0 ≤ 191 ∧ 192 ≤ pkt.b1 ∧ pkt.b1 ≤ 223 ∧
      authPacket (popOf s.start l) leg l pkt (2 * pkt.ssrc + 1) true = (true, e) → exec (.legPacketRx leg pkt rtcp layer) s = s.become (rtcpRx e leg
      rtcp))
    -- LEG_PACKET_RX (R85)
    ∧ (∀ (s : State) leg pkt rtcp layer l e, legOf s.start leg = some l ∧ legRuns l = true ∧ 128 ≤ pkt.b0 ∧ pkt.b0 ≤ 191 ∧ (pkt.b1 < 192 ∨ 223 < pkt.b1)
      ∧ l.rcd.audioIn = true ∧ pkt.b1 % 128 = l.rcd.aPt ∧ ssrcOk l.rcd.aSsrcIn l.aLatch pkt.ssrc = true ∧ authPacket (popOf s.start l) leg l pkt (2 *
      pkt.ssrc) false = (true, e) → exec (.legPacketRx leg pkt rtcp layer) s = s.become (rtpAccept e leg l pkt false layer))
    -- LEG_PACKET_RX (R85)
    ∧ (∀ (s : State) leg pkt rtcp layer l, legOf s.start leg = some l ∧ legRuns l = true ∧ ((3 < pkt.b0 ∧ pkt.b0 < 20) ∨ (63 < pkt.b0 ∧ pkt.b0 < 128) ∨
      191 < pkt.b0) → exec (.legPacketRx leg pkt rtcp layer) s = s.become (legCount (popOf s.start l) leg 18 1))
    -- REKEY_GRACE_END (R88)
    ∧ (∀ (s : State) leg l h at_, tget s.start.media.legs leg = some l ∧ l.prevSa = some (h, at_) ∧ at_.toNat ≤ s.start.bell.tick.toNat → exec
      (.rekeyGraceEnd leg) s = s.become (legKeySweep (onLeg (saUnbind s.start h) leg (fun l => { l with prevSa := none })) leg))
    -- REKEY_GRACE_END (R88)
    ∧ (∀ (s : State) leg l h at_, tget s.start.media.legs leg = some l ∧ l.prevSa = some (h, at_) ∧ s.start.bell.tick.toNat < at_.toNat → exec
      (.rekeyGraceEnd leg) s = s.become s.start)
    -- ADAPTATION_RUN (R98)
    ∧ (∀ (s : State) leg l m e, legOf s.start leg = some l ∧ l.st = .active ∧ legRuns l = true ∧ s.start.bell.tick.toNat % 4 = leg % 4 ∧ measureRun
      s.start l = (m, e) → exec (.adaptationRun leg) s = s.commit (adaptWith leg m e))
    -- ADAPTATION_RUN (R98)
    ∧ (∀ (s : State) leg l, legOf s.start leg = some l ∧ l.st = .active ∧ legRuns l = true ∧ s.start.bell.tick.toNat % 4 = leg % 4 ∧ l.rcd.audioIn = true
      → Ends (exec (.adaptationRun leg) s) (fun t => (legOf t.dev leg).map (·.jbWant) = some (max l.rcd.jbMin (min l.rcd.jbMax (6 * ceilDiv (2 *
      (l.jit.avg16 / 16)) 6))) ∧ (legOf t.dev leg).map (·.ckIdx) = some l.outIdx))
    -- ADAPTATION_RUN (R98)
    ∧ (∀ (s : State) leg l, legOf s.start leg = some l ∧ l.st = .active ∧ s.start.bell.tick.toNat % 4 ≠ leg % 4 → exec (.adaptationRun leg) s = s.commit
      (s.start))
    -- FEEDBACK_STARVED (R98)
    ∧ (∀ (s : State) leg l, legOf s.start leg = some l ∧ l.st = .active ∧ l.rcd.fixed = false ∧ l.adapt.starved = false ∧ (l.rcd.audioOut = true ∨
      l.rcd.videoOut ≠ 0) ∧ l.adapt.lastReport.toNat + 16000 ≤ s.start.bell.tick.toNat ∧ l.adapt.holdUntil.toNat ≤ s.start.bell.tick.toNat → exec
      (.feedbackStarved leg) s = s.commit (writeStatus (legEvent (onLeg s.start leg (fun x =>
      { x with adapt := { x.adapt with starved := true, verdict := 4, est := max (1000 * l.rcd.bwMin) (l.adapt.est / 2) } })) 3 leg) leg))
    -- FEEDBACK_STARVED (R98)
    ∧ (∀ (s : State) leg l, legOf s.start leg = some l ∧ l.st = .active ∧ l.rcd.fixed = false ∧ l.adapt.starved = false ∧ (l.rcd.audioOut = true ∨
      l.rcd.videoOut ≠ 0) ∧ l.adapt.lastReport.toNat + 16000 ≤ s.start.bell.tick.toNat ∧ s.start.bell.tick.toNat < l.adapt.holdUntil.toNat ∧ max (1000 *
      l.rcd.bwMin) (l.adapt.est / 2) < l.adapt.est → exec (.feedbackStarved leg) s = s.commit (writeStatus (onLeg s.start leg (fun x =>
      { x with adapt := { x.adapt with verdict := 1 } })) leg))
    -- FEEDBACK_STARVED (R98)
    ∧ (∀ (s : State) leg l, legOf s.start leg = some l ∧ l.st = .active ∧ s.start.bell.tick.toNat < l.adapt.lastReport.toNat + 16000 → exec
      (.feedbackStarved leg) s = s.commit (s.start))
    -- FEEDBACK_REPORT_SEND (R103)
    ∧ (∀ (s : State) leg l, legOf s.start leg = some l ∧ legRuns l = true ∧ l.fbAt.toNat ≤ s.start.bell.tick.toNat ∧ (l.rcd.audioIn = true ∨
      l.rcd.contrib = true) → exec (.feedbackReportSend leg) s = s.become (sendRtcp (onLeg s.start leg (fun x =>
      { x with fbAt := s.start.bell.tick + BitVec.ofNat 64 (if l.rcd.fbInterval = 0 then 400 else l.rcd.fbInterval), rxLog := [], rxNext := l.rxLog.foldl (fun n r => tset n r.ssrc (max (tgetD n r.ssrc 0) (r.index + 1))) l.rxNext }))
      leg ([205, 11] ++ ((inboundSsrcs l).map (ccWords s.start l)).flatten ++ [((nowNs s.start * 65536 / 1000000000 % 2 ^ 32 : Nat) : Int)]) (ccSize
      ((inboundSsrcs l).map (ccWords s.start l)))))
    -- NACK_SEND (R105)
    ∧ (∀ (s : State) leg seq inTime l m, legOf s.start leg = some l ∧ l.missing.find? (fun m => m.seq == seq) = some m ∧ legRuns l = true ∧ m.due.toNat ≤
      s.start.bell.tick.toNat ∧ inTime = true ∧ m.sent < 3 → exec (.nackSend leg seq inTime) s = s.become (legCount (sendRtcp (onLeg s.start leg (fun l
      =>
      { l with missing := l.missing.map (fun x => if x = m then { m with sent := m.sent + 1, due := s.start.bell.tick + BitVec.ofNat 64 (8 * max l.adapt.m.rtt 20) } else x) }))
      leg [205, 1, (seq : Int)] 16) leg 7 1))
    -- NACK_SEND (R105)
    ∧ (∀ (s : State) leg seq inTime l m, legOf s.start leg = some l ∧ l.missing.find? (fun m => m.seq == seq) = some m ∧ legRuns l = true ∧ m.due.toNat ≤
      s.start.bell.tick.toNat ∧ (inTime = false ∨ 3 ≤ m.sent) → exec (.nackSend leg seq inTime) s = s.become (requestPli (onLeg s.start leg (fun l =>
      { l with missing := l.missing.erase m })) leg))
    -- LEG_DRAIN_END (R83)
    ∧ (∀ (s : State) leg l, legOf s.start leg = some l ∧ l.st = .draining ∧ l.drainAt.toNat ≤ s.start.bell.tick.toNat → exec (.legDrainEnd leg) s =
      s.commit (freeLeg s.start leg))
    -- LEG_DRAIN_END (R83)
    ∧ (∀ (s : State) leg l, legOf s.start leg = some l ∧ l.st = .draining ∧ s.start.bell.tick.toNat < l.drainAt.toNat → exec (.legDrainEnd leg) s =
      s.commit (s.start))
    -- MIGRATION_HANDOVER (R107)
    ∧ (∀ (s : State) kind number crcEqual m, moveOf s.start kind number = some m ∧ m.b0.toNat + 2 ≤ s.start.bell.tick.toNat ∧ m.failed = none ∧ (kind ≠ 0
      ∨ crcEqual = true) → exec (.migrationHandover kind number crcEqual) s = s.commit (moveReply (endMove s.start kind number (some m.target)) m .done))
    -- MIGRATION_HANDOVER (R107)
    ∧ (∀ (s : State) kind number crcEqual m, moveOf s.start kind number = some m ∧ m.b0.toNat + 2 ≤ s.start.bell.tick.toNat ∧ m.failed = none ∧ kind = 0
      ∧ crcEqual = false → exec (.migrationHandover kind number crcEqual) s = s.commit (moveReply (endMove (legEvent (legCount (onLeg s.start number
      (fun l => { l with flags := { l.flags with diverged := true } })) number 20 1) 4 number) kind number (some m.target)) m .done))
    -- MIGRATION_HANDOVER (R107)
    ∧ (∀ (s : State) kind number crcEqual m, moveOf s.start kind number = some m ∧ s.start.bell.tick.toNat < m.b0.toNat + 2 → exec (.migrationHandover
      kind number crcEqual) s = s.commit (s.start))

/-- Where these events complete, and what they do: headsets and TDM ports. One clause or more for each event, under conditions on the state and the operands alone. -/
def Obligations.AudioPortEventsComplete : Prop :=
    -- HS_DET_INSERT_EDGE (R143)
    (∀ (s : State) headset, exec (.hsDetInsertEdge headset) s = s.become (onHs s.start headset (fun h => { h with plugged := true, muted := false })))
    -- HS_INSERT_DEBOUNCED (R143)
    ∧ (∀ (s : State) headset, (hsOf s.start headset).plugged = true ∧ (hsOf s.start headset).present = false → exec (.hsInsertDebounced headset) s =
      s.become (raiseLeaf (onHs s.start headset (fun h => { h with present := true, muted := false })) 17 (4 * headset)))
    -- HS_INSERT_DEBOUNCED (R143)
    ∧ (∀ (s : State) headset, (hsOf s.start headset).plugged = false → exec (.hsInsertDebounced headset) s = s.become s.start)
    -- HS_CLASSIFY (R145)
    ∧ (∀ (s : State) headset ring2 sleeve, (hsOf s.start headset).present = true ∧ (hsOf s.start headset).plugged = true ∧ accessoryType (hsOf s.start
      headset) ring2 sleeve = 2 → exec (.hsClassify headset ring2 sleeve) s = s.become (raiseLeaf (onHs s.start headset (fun h =>
      { h with accType := 2, ring2 := min ring2 65535, sleeve := min sleeve 65535, micNext := true })) 17 (4 * headset + 2)))
    -- HS_CLASSIFY (R145)
    ∧ (∀ (s : State) headset ring2 sleeve, (hsOf s.start headset).present = true ∧ (hsOf s.start headset).plugged = true ∧ accessoryType (hsOf s.start
      headset) ring2 sleeve = 1 → exec (.hsClassify headset ring2 sleeve) s = s.become (raiseLeaf (onHs s.start headset (fun h =>
      { h with accType := 1, ring2 := min ring2 65535, sleeve := min sleeve 65535, micNext := false })) 17 (4 * headset + 2)))
    -- HS_BUTTON_ARM (R143)
    ∧ (∀ (s : State) headset, exec (.hsButtonArm headset) s = s.become (onHs s.start headset (fun h =>
      { h with armed := h.present && (h.accType == 2 || h.accType == 3), btnBand := 0, btnCount := 0 })))
    -- HS_DET_REMOVE_EDGE (R144)
    ∧ (∀ (s : State) headset, exec (.hsDetRemoveEdge headset) s = s.become (onHs s.start headset (fun h =>
      { h with plugged := false, muted := h.present, btnBand := 0, btnCount := 0 })))
    -- HS_REMOVE_EXPIRY (R144)
    ∧ (∀ (s : State) headset, (hsOf s.start headset).present = true ∧ (hsOf s.start headset).plugged = false ∧ (hsOf s.start headset).buttons = 0 → exec
      (.hsRemoveExpiry headset) s = s.become (raiseLeaf (onHs s.start headset (fun h =>
      { h with present := false, accType := 0, buttons := 0, armed := false, micNext := false, micFlow := false, muted := false, biasUa := 0 })) 17 (4 *
      headset + 1)))
    -- HS_REMOVE_EXPIRY (R144)
    ∧ (∀ (s : State) headset, (hsOf s.start headset).plugged = true → exec (.hsRemoveExpiry headset) s = s.become s.start)
    -- HS_BUTTON_SAMPLE (R146)
    ∧ (∀ (s : State) headset biasUa, (hsOf s.start headset).armed = false → exec (.hsButtonSample headset biasUa) s = s.become (onHs s.start headset (fun
      h => { h with biasUa := min biasUa 2047 })))
    -- HS_BUTTON_SAMPLE (R146)
    ∧ (∀ (s : State) headset biasUa, (hsOf s.start headset).armed = true ∧ (hsOf s.start headset).muted = false ∧ (hsOf s.start headset).present = true ∧
      (hsOf s.start headset).buttons = 0 ∧ btnBandOf (hsOf s.start headset) biasUa ≠ 0 ∧ btnBandOf (hsOf s.start headset) biasUa = (hsOf s.start
      headset).btnBand ∧ msField (hsOf s.start headset).debounce 16 ≤ (hsOf s.start headset).btnCount + 1 ∧ headset < 8 → Ends (exec (.hsButtonSample
      headset biasUa) s) (fun t => (hsOf t.dev headset).buttons = btnBandOf (hsOf s.start headset) biasUa ∧ (leafWord t.dev.sys.int 17).getLsbD (4 *
      headset + 3) = true))
    -- TDM_FRAME_RX (R150)
    ∧ (∀ (s : State) port words wellFormed, (tdmOf s.start port).cfg.enable = true ∧ wellFormed = false → exec (.tdmFrameRx port words wellFormed) s =
      s.become (onTdm s.start port (fun x => { x with good := 0, lock := false })))
    -- TDM_FRAME_RX (R150)
    ∧ (∀ (s : State) port words wellFormed, (tdmOf s.start port).cfg.enable = true ∧ wellFormed = true ∧ (tdmOf s.start port).alarm = false ∧ (tdmOf
      s.start port).cfg.mode % 2 = 1 → exec (.tdmFrameRx port words wellFormed) s = s.become (onTdm (onTdm s.start port (fun x =>
      { x with good := x.good + 1, lock := true && !x.alarm })) port (fun x =>
      { x with inBuf := bufPush x.inBuf x.cfg.slots (fun k => tdmIn x.cfg.width (words.getD k 0)) })))
    -- TDM_ALARM_TIMEOUT (R151)
    ∧ (∀ (s : State) port, (tdmOf s.start port).cfg.enable = true ∧ (tdmOf s.start port).cfg.mode % 2 = 0 ∧ (tdmOf s.start port).alarm = false → exec
      (.tdmAlarmTimeout port) s = s.become (raiseLeaf (onTdm s.start port (fun x =>
      { x with alarm := true, lock := false, good := 0, alarms := satInc x.alarms, inBuf := [], outBuf := [], phase := 0, fill := 0 })) 17 (8 + port)))
    -- TDM_ALARM_TIMEOUT (R151)
    ∧ (∀ (s : State) port, (tdmOf s.start port).alarm = true → exec (.tdmAlarmTimeout port) s = s.become s.start)
    -- HEADSET_BANK_SWAP (R140)
    ∧ (∀ (s : State) headset x rt, s.start.aud.hsCommit.find? (fun e => e.1 == headset) = some (headset, x, rt) → exec (.headsetBankSwap headset) s =
      s.become (answer (epochDone (bankWrite (bankSwap (onAud s.start (fun a => { a with hsCommit := a.hsCommit.erase (headset, x, rt) })) (headset +
      1)) (0x800 + headset) rt) x.epoch) x .done [(tgetD (bankWrite (bankSwap (onAud s.start (fun a =>
      { a with hsCommit := a.hsCommit.erase (headset, x, rt) })) (headset + 1)) (0x800 + headset) rt).aud.hs headset Headset.reset).bank]))

/-- Where these events complete, and what they do: pictures, codecs, talkers and layouts. One clause or more for each event, under conditions on the state and the operands alone. -/
def Obligations.VideoEventsComplete : Prop :=
    -- CONTRIB_PICTURE_RX (R22)
    (∀ (s : State) leg pic c l e, contribOf s.start leg = some c ∧ legOf s.start leg = some l ∧ legRuns l = true ∧ 2 ≤ c.rcd.mode ∧ l.rcd.vCodecIn ≠ 3
      ∧ onContrib (onLeg s.start leg (fun x => { x with picEnd := none })) leg (fun x =>
      { x with seen := c.seen.filter (fun z => decide (s.start.bell.tick.toNat < z.toNat + 8000)) ++ [s.start.bell.tick], poc := some pic.vvc.poc }) = e
      ∧ (decodedLayer c.rcd pic = none ∨ c.rcd.fps < (c.seen.filter (fun z => decide (s.start.bell.tick.toNat < z.toNat + 8000))).length + 1) ∧ passedAt
      e leg c.tier = false → exec (.contribPictureRx leg pic) s = s.become (decError e leg true))
    -- CONTRIB_PICTURE_RX (R22)
    ∧ (∀ (s : State) leg pic c l e, contribOf s.start leg = some c ∧ legOf s.start leg = some l ∧ legRuns l = true ∧ 2 ≤ c.rcd.mode ∧ l.rcd.vCodecIn ≠ 3
      ∧ onContrib (onLeg s.start leg (fun x => { x with picEnd := none })) leg (fun x =>
      { x with seen := c.seen.filter (fun z => decide (s.start.bell.tick.toNat < z.toNat + 8000)) ++ [s.start.bell.tick], poc := some pic.vvc.poc }) = e
      ∧ decodedLayer c.rcd pic ≠ none ∧ (c.seen.filter (fun z => decide (s.start.bell.tick.toNat < z.toNat + 8000))).length + 1 ≤ c.rcd.fps ∧ passedAt e
      leg c.tier = false ∧ decodes e leg = true → exec (.contribPictureRx leg pic) s = s.become (giveDecoder e leg l.rcd.vCodecIn ((l.picEnd.map
      (·.2)).getD 0) pic))
    -- CONTRIB_PICTURE_RX (R22)
    ∧ (∀ (s : State) leg pic c l e, contribOf s.start leg = some c ∧ legOf s.start leg = some l ∧ legRuns l = true ∧ 2 ≤ c.rcd.mode ∧ l.rcd.vCodecIn ≠ 3
      ∧ onContrib (onLeg s.start leg (fun x => { x with picEnd := none })) leg (fun x =>
      { x with seen := c.seen.filter (fun z => decide (s.start.bell.tick.toNat < z.toNat + 8000)) ++ [s.start.bell.tick], poc := some pic.vvc.poc }) = e
      ∧ decodedLayer c.rcd pic ≠ none ∧ (c.seen.filter (fun z => decide (s.start.bell.tick.toNat < z.toNat + 8000))).length + 1 ≤ c.rcd.fps ∧ passedAt e
      leg c.tier = true ∧ pic.lost = false ∧ decodes (picDone e leg c.tier pic.intra) leg = false → exec (.contribPictureRx leg pic) s = s.become
      (picDone e leg c.tier pic.intra))
    -- DECODE_DONE (R22)
    ∧ (∀ (s : State) leg ok c b ts rest e, contribOf s.start leg = some c ∧ c.decoding = (b, ts) :: rest ∧ ok = true ∧ onContrib (onContrib s.start leg
      (fun x => { x with decoding := rest })) leg (fun x => { x with shown := true }) = e → exec (.decodeDone leg ok) s = s.become (((if relays e leg
      then [0] else []) ++ (tiersUsed e leg).filter (fun z => !passedAt e leg z)).foldl (startEncode leg ts) e))
    -- DECODE_DONE (R22)
    ∧ (∀ (s : State) leg ok c b ts rest, contribOf s.start leg = some c ∧ c.decoding = (b, ts) :: rest ∧ ok = false → exec (.decodeDone leg ok) s =
      s.become (decodeFails (onContrib s.start leg (fun x => { x with decoding := rest })) leg))
    -- TIER_ENCODE_DONE (R168)
    ∧ (∀ (s : State) leg tier size relay c r rest e, contribOf s.start leg = some c ∧ 1 ≤ tier ∧ tier ≤ 3 ∧ (picOf s.start leg tier).runs = r :: rest ∧
      s.start.bell.tick.toNat ≤ r.start.toNat + codingTicks ∧ r.intra = true ∧ passedAt s.start leg tier = false ∧ onPic (onPic s.start leg tier (fun x
      => { x with runs := rest })) leg tier (fun x =>
      { x with log := (picOf s.start leg tier).log.filter (fun z => decide (s.start.bell.tick.toNat < z.1.toNat + 8000)) }) = e → exec (.tierEncodeDone
      leg tier size relay) s = s.become (picDone (emit e .tierPicture leg (tierVals e leg tier true size)) leg tier true))
    -- TIER_ENCODE_DONE (R168)
    ∧ (∀ (s : State) leg tier size relay c r rest, contribOf s.start leg = some c ∧ 1 ≤ tier ∧ tier ≤ 3 ∧ (picOf s.start leg tier).runs = r :: rest ∧
      r.start.toNat + codingTicks < s.start.bell.tick.toNat → Ends (exec (.tierEncodeDone leg tier size relay) s) (fun t => t.dev.vid.lateLeg = leg ∧
      t.dev.vid.lateTier = tier ∧ t.dev.vid.encLates = satInc s.start.vid.encLates ∧ (leafWord t.dev.sys.int 18).getLsbD 3 = true ∧ (picOf t.dev leg
      tier).runs = rest))
    -- SPLICE_PICTURE (R179)
    ∧ (∀ (s : State) layout variant self sizes avc z, tget s.start.vid.streams (streamKey layout variant self) = some z ∧ s.start.bell.tick.toNat <
      z.start.toNat + ceilDiv (z.k * 8000) (max 1 z.geometry.fps) → exec (.splicePicture layout variant self sizes avc) s = s.become s.start)
    -- SPLICE_PICTURE (R179)
    ∧ (∀ (s : State) layout variant self sizes avc z res e, tget s.start.vid.streams (streamKey layout variant self) = some z ∧ z.start.toNat + ceilDiv
      (z.k * 8000) (max 1 z.geometry.fps) ≤ s.start.bell.tick.toNat ∧ z.intraDue = [] ∧ z.coming = none ∧ (z.cells.zip z.geometry.cells).map (fun x =>
      (spliceCell s.start x.1 x.2.tier, x.2)) = res ∧ joinWaiting (streamKey layout variant self) z.variant false (onVid (emit s.start .picture
      (streamKey layout variant self) (pictureVals { z with poc := z.poc + 1 } false (s.start.bell.tick.toNat * 45 / 4 % 2 ^ 32) (((tget
      s.start.vid.layouts z.layout).map (·.border)).getD 0) res)) (fun v =>
      { v with streams := tset v.streams (streamKey layout variant self) { z with poc := z.poc + 1, cells := res.map (·.1.1), k := z.k + 1, intraDue := [], sets := some (composedSets z.geometry) } }))
      = e ∧ (∀ x ∈ e.vid.recv, x.2.cur ≠ some (streamKey layout variant self)) → exec (.splicePicture layout variant self sizes avc) s = s.become
      (streamsSweep e))
    -- TALKER_CELL_HOLD (R176)
    ∧ (∀ (s : State) layout variant self cell z c r lay n, tget s.start.vid.streams (streamKey layout variant self) = some z ∧ z.cells[cell]? = some c ∧
      z.geometry.cells[cell]? = some r ∧ tget s.start.vid.layouts z.layout = some lay ∧ c.cand = some n ∧ r.kind = 2 ∧ holdTicks lay ≤ c.held ∧ c.occ ≠
      some n ∧ c.next ≠ some (some n) → exec (.talkerCellHold layout variant self cell) s = s.become (onStream (requestIntra s.start n r.tier)
      (streamKey layout variant self) (fun z =>
      { z with cells := z.cells.set cell { c with next := some (some n), nextFrom := askedAt (requestIntra s.start n r.tier) n r.tier } })))
    -- LAYOUT_REFRESH (R183)
    ∧ (∀ (s : State) layout variant self z r, tget s.start.vid.streams (streamKey layout variant self) = some z ∧ tget s.start.vid.layouts z.layout =
      some r ∧ r.refresh ≠ 0 ∧ (z.refreshAt.getD z.start).toNat + 8000 * r.refresh ≤ s.start.bell.tick.toNat → exec (.layoutRefresh layout variant self)
      s = s.become (requestPoint (onStream s.start (streamKey layout variant self) (fun x =>
      { x with refreshAt := some (BitVec.ofNat 64 ((z.refreshAt.getD z.start).toNat + 8000 * r.refresh)) })) (streamKey layout variant self) false))

/-- Where these events complete, and what they do: domains, Winter, thaw, Autumn, supplies and the firmware swap. One clause or more for each event, under conditions on the state and the operands alone. -/
def Obligations.PowerEventsComplete : Prop :=
    -- DOMAIN_UP_DONE (R556)
    (∀ (s : State) domain, domain ≤ 39 ∧ domState s.start domain = .poweringUp → Ends (exec (.domainUpDone domain) s) (fun t => domState t.dev domain =
      .on ∧ t.dev.pwr.domLast = domain ∧ t.dev.pwr.domLastUp = true ∧ (leafWord t.dev.sys.int 25).getLsbD 3 = true))
    -- DOMAIN_UP_DONE (R556)
    ∧ (∀ (s : State) domain, domState s.start domain ≠ .poweringUp → exec (.domainUpDone domain) s = s.become s.start)
    -- DOMAIN_DOWN_DONE (R556)
    ∧ (∀ (s : State) domain, domain ≤ 39 ∧ domState s.start domain = .shuttingDown ∧ s.start.pwr.domPend.contains domain = false → Ends (exec
      (.domainDownDone domain) s) (fun t => domState t.dev domain = .off ∧ t.dev.pwr.domLast = domain ∧ t.dev.pwr.domLastUp = false ∧ (leafWord
      t.dev.sys.int 25).getLsbD 4 = true))
    -- DOMAIN_DOWN_DONE (R556)
    ∧ (∀ (s : State) domain, domain ≤ 39 ∧ domState s.start domain = .shuttingDown ∧ s.start.pwr.domPend.contains domain = true → Ends (exec
      (.domainDownDone domain) s) (fun t => domState t.dev domain = .poweringUp ∧ t.dev.pwr.domPend.contains domain = false))
    -- WINTER_READY (R566)
    ∧ (∀ (s : State) w, s.start.pwr.winter = some w ∧ w.step = 2 ∧ s.start.pwr.phase = .entering → Ends (exec .winterReady s) (fun t =>
      (t.dev.pwr.winter.map (·.step)) = some 3 ∧ (∀ k ∈ winterOrder, domState t.dev k = .off)))
    -- PME_TURN_OFF (R566)
    ∧ (∀ (s : State) w, s.start.pwr.winter = some w ∧ w.step = 3 ∧ s.start.pwr.phase = .entering → exec .pmeTurnOff s = s.become (avsStart [(1, 600), (0,
      650), (2, 600)] (emit (domDown (onPwr s.start (fun p => { p with winter := some { w with step := 4, pcieOff := true } })) 38) .pme 0 [])))
    -- LINK_WAIT_EXPIRY (R570)
    ∧ (∀ (s : State) w, s.start.pwr.winter = some w ∧ w.step = 3 ∧ s.start.pwr.phase = .entering ∧ w.ctx = none → exec .linkWaitExpiry s = s.become
      (onAux (raiseLeaf (onAux (onPwr s.start (fun p =>
      { p with phase := .aborting, last := { noWake with abort := 2 }, winter := some { w with ctx := none, step := 7 } })) (fun a =>
      { a with aborts := satInc a.aborts })) 25 1) (fun a => { a with avsTarget := [] })))
    -- WAKE_PIN (R569)
    ∧ (∀ (s : State) pin a b c, pin < 4 ∧ s.start.pwr.season = .winter ∧ s.start.pwr.phase = .steady ∧ s.start.pwr.wakeCtrl.getLsbD (4 * pin) = true ∧ a
      = !s.start.pwr.wakeCtrl.getLsbD (4 * pin + 1) ∧ b = s.start.pwr.wakeCtrl.getLsbD (4 * pin + 1) ∧ c = s.start.pwr.wakeCtrl.getLsbD (4 * pin + 1) →
      Ends (exec (.wakePin pin a b c) s) (fun t => t.dev.pwr.phase = .thawing ∧ t.dev.pwr.last.pins = 2 ^ pin))
    -- WAKE_PIN (R569)
    ∧ (∀ (s : State) pin a b c, pin < 4 ∧ s.start.pwr.season = .summer ∧ s.start.pwr.phase = .steady ∧ s.start.pwr.wakeCtrl.getLsbD (4 * pin) = true ∧ a
      = !s.start.pwr.wakeCtrl.getLsbD (4 * pin + 1) ∧ b = s.start.pwr.wakeCtrl.getLsbD (4 * pin + 1) ∧ c = s.start.pwr.wakeCtrl.getLsbD (4 * pin + 1) →
      Ends (exec (.wakePin pin a b c) s) (fun t => (leafWord t.dev.sys.int 26).getLsbD pin = true ∧ t.dev.pwr.phase = .steady))
    -- WAKE_HEAD_END (R569)
    ∧ (∀ (s : State), s.start.pwr.wakeCtrl.getLsbD 16 = true ∧ s.start.pwr.season = .winter ∧ s.start.pwr.phase = .steady → exec .wakeHeadEnd s =
      s.become (beginThaw { noWake with headEnd := true } s.start))
    -- WAKE_HEAD_END (R569)
    ∧ (∀ (s : State), s.start.pwr.wakeCtrl.getLsbD 16 = false → exec .wakeHeadEnd s = s.become s.start)
    -- WAKE_ALARM (R569)
    ∧ (∀ (s : State) count, s.start.pwr.alarmEn = true ∧ (count - s.start.pwr.alarm).toNat < 2 ^ 47 ∧ s.start.pwr.season = .winter ∧ s.start.pwr.phase =
      .steady → exec (.wakeAlarm count) s = s.become (beginThaw { noWake with alarm := true } (onBell s.start (fun b =>
      { b with sleep := { b.sleep with cnt := count } }))))
    -- WAKE_ALARM (R569)
    ∧ (∀ (s : State) count, s.start.pwr.alarmEn = false → exec (.wakeAlarm count) s = s.become (onBell s.start (fun b =>
      { b with sleep := { b.sleep with cnt := count } })))
    -- CORE_HEARTBEAT_LOSS (R567)
    ∧ (∀ (s : State), s.start.pwr.season = .winter ∧ s.start.pwr.phase = .steady → exec .coreHeartbeatLoss s = s.become (beginThaw
      { noWake with core := true } s.start))
    -- CORE_HEARTBEAT_LOSS (R567)
    ∧ (∀ (s : State), s.start.pwr.season ≠ .winter → exec .coreHeartbeatLoss s = s.become s.start)
    -- WINTER_COMMIT (R566)
    ∧ (∀ (s : State) count w, s.start.pwr.winter = some w ∧ w.step = 5 ∧ s.start.pwr.phase = .entering ∧ w.held = none ∧ domState s.start 1 = .on → Ends
      (exec (.winterCommit count) s) (fun t => t.dev.pwr.season = .winter ∧ t.dev.pwr.phase = .steady ∧ domState t.dev 1 = .off ∧ domState t.dev 2 =
      .off ∧ domState t.dev 3 = .off ∧ t.dev.bell.sleep.sEntry = count ∧ t.dev.bell.sleep.keptTick = s.start.bell.tick ∧ t.dev.bell.sleep.keptOffset =
      s.start.bell.time.offset ∧ (leafWord t.dev.sys.int 25).getLsbD 0 = true))
    -- WINTER_COMMIT (R566)
    ∧ (∀ (s : State) count w who, s.start.pwr.winter = some w ∧ w.step = 5 ∧ s.start.pwr.phase = .entering ∧ w.held = some who → Ends (exec
      (.winterCommit count) s) (fun t => t.dev.pwr.season = .winter ∧ t.dev.pwr.phase = .thawing ∧ t.dev.pwr.last = who))
    -- AVS_STATUS_POLL (R573)
    ∧ (∀ (s : State) ack vdone expired r mv rest, s.start.aux.avsTarget = (r, mv) :: rest ∧ ack = 0 ∧ vdone = true ∧ rest ≠ [] → exec (.avsStatusPoll ack
      vdone expired) s = s.commit (avsRequest (onAux s.start (fun a => { a with avsTarget := rest, avsTries := 0 }))))
    -- AVS_STATUS_POLL (R573)
    ∧ (∀ (s : State) ack vdone expired r mv rest, s.start.aux.avsTarget = (r, mv) :: rest ∧ ack = 0 ∧ vdone = false ∧ expired = false → exec
      (.avsStatusPoll ack vdone expired) s = s.commit (s.start))
    -- AVS_STATUS_POLL (R573)
    ∧ (∀ (s : State) ack vdone expired r mv rest, s.start.aux.avsTarget = (r, mv) :: rest ∧ (ack ≠ 0 ∨ (vdone = false ∧ expired = true)) ∧
      s.start.aux.avsTries < 2 → exec (.avsStatusPoll ack vdone expired) s = s.commit (avsRequest (onAux s.start (fun a =>
      { a with avsTries := a.avsTries + 1 }))))
    -- AVS_STATUS_POLL (R573)
    ∧ (∀ (s : State) ack vdone expired r mv rest, s.start.aux.avsTarget = (r, mv) :: rest ∧ ack ≠ 0 ∧ 2 ≤ s.start.aux.avsTries ∧ s.start.pwr.phase =
      .entering → exec (.avsStatusPoll ack vdone expired) s = s.commit (abortEntry 3 noWake (raiseLeaf (onAux s.start (fun a =>
      { a with avsRail := r, avsAck := ack % 4, avsFaults := satInc a.avsFaults, avsTarget := [], avsTries := 0 })) 25 5)))
    -- THAW (R571)
    ∧ (∀ (s : State) count w, s.start.pwr.winter = some w ∧ s.start.pwr.season = .winter ∧ s.start.pwr.phase = .thawing ∧ w.step = 6 ∧
      s.start.aux.avsTarget = [] → Ends (exec (.thaw count) s) (fun t => (t.dev.pwr.winter.map (·.step)) = some 8 ∧ domState t.dev 1 = .on ∧ domState
      t.dev 2 = .on ∧ domState t.dev 3 = .on ∧ t.dev.bell.sleep.cnt = count ∧ t.dev.bell.lock.st = .holdover ∧ t.dev.bell.time.offset =
      s.start.bell.sleep.keptOffset ∧ t.dev.pins.sysclkEn = true))
    -- THAW_DONE (R571)
    ∧ (∀ (s : State) w, s.start.pwr.winter = some w ∧ s.start.pwr.phase = .thawing ∧ w.step = 8 ∧ s.start.pwr.thawSeason = 0 → Ends (exec .thawDone s)
      (fun t => t.dev.pwr.season = .summer ∧ t.dev.pwr.phase = .steady ∧ t.dev.pwr.winter = none ∧ domState t.dev 38 = .on ∧ t.dev.sys.rings = [] ∧
      t.dev.aux.thaws = satInc s.start.aux.thaws ∧ t.dev.pins.pcieWake = true))
    -- SEASON_SUMMER_READY (R561)
    ∧ (∀ (s : State) x, s.start.pwr.seasonCtx = some x ∧ (∀ k ∈ (List.range 16).map (· + 17) ++ s.start.aux.codecGated, domState s.start k ≠ .poweringUp)
      → exec .seasonSummerReady s = s.become (onSys (raiseLeaf (onPwr (onAux s.start (fun a => { a with codecGated := [] })) (fun p =>
      { p with season := .summer, seasonCtx := none })) 25 0) (fun y => { y with atBell := y.atBell ++ [(x, [])] })))
    -- AUTUMN_EVALUATE (R562)
    ∧ (∀ (s : State), s.start.pwr.season ≠ .autumn → exec .autumnEvaluate s = s.become s.start)
    -- AUTUMN_EVALUATE (R562)
    ∧ (∀ (s : State) g, s.start.pwr.season = .autumn ∧ s.start.pwr.phase = .steady ∧ s.start.pwr.seasonCtx = none ∧ s.start.pwr.gateCodecs = false ∧
      s.start.pwr.minGroups < (ungated s.start).length ∧ s.start.aux.gating = none ∧ lowestGroup s.start ((ungated s.start).filter (mayGate s.start)) =
      some g → exec .autumnEvaluate s = s.become (onAux s.start (fun a => { a with gating := some g })))
    -- AUTUMN_GATE_GROUP (R562)
    ∧ (∀ (s : State) g, s.start.aux.gating = some g ∧ g < 16 ∧ groupClear s.start g = true ∧ (groupOf s.start g).st = .ready ∧ s.start.pwr.season =
      .autumn ∧ (∀ r ∈ s.start.aud.routes, r.2.engine / 16 = g → r.2.rcd.gateOk = true) ∧ domState s.start (17 + g) = .on → Ends (exec .autumnGateGroup
      s) (fun t => t.dev.aux.gating = none ∧ g ∈ t.dev.aux.gated ∧ domState t.dev (17 + g) = .shuttingDown ∧ (groupOf t.dev g).st = .gated ∧ (leafWord
      t.dev.sys.int 25).getLsbD 6 = true))
    -- AUTUMN_GATE_GROUP (R562)
    ∧ (∀ (s : State) g, s.start.aux.gating = some g ∧ groupClear s.start g = false → exec .autumnGateGroup s = s.become s.start)
    -- FW_SWAP_RESUME (R574)
    ∧ (∀ (s : State) j, s.start.pwr.swap = some j ∧ s.start.aux.swapState = 1 → exec .fwSwapResume s = s.commit (releasePloam (releaseFailures (followUp
      (raiseLeaf (onBoot (onPwr (onAux s.start (fun a => { a with swapState := 0 })) (fun p => { p with swap := none })) (fun b =>
      { b with ctrlSlot := j.slot, runCtrl := some j.img })) 25 8) j.ctx .done []))))
    -- FW_SWAP_TIMEOUT (R574)
    ∧ (∀ (s : State) j, s.start.pwr.swap = some j ∧ s.start.aux.swapState = 1 → exec .fwSwapTimeout s = s.commit (releasePloam (releaseFailures
      (raiseLeaf (followUp (raiseLeaf (onPwr (onAux s.start (fun a => { a with swapState := 2 })) (fun p => { p with swap := none })) 25 9) j.ctx
      .internal (refusalData 0 noField)) 0 11))))
    -- CONTROL_CORE_FENCE (R575)
    ∧ (∀ (s : State) core, core ≤ 7 ∧ s.start.aux.fenced.contains core = false → exec (.controlCoreFence core) s = s.become (onSys (onAux s.start (fun a
      => { a with fenced := a.fenced ++ [core] })) (fun y => { y with staged := y.staged.map (fun x => { x with armed := false }) })))

/-- Where these events complete, and what they do: resets, pins and boot. One clause or more for each event, under conditions on the state and the operands alone. -/
def Obligations.ResetEventsComplete : Prop :=
    -- POWER_ON_RESET (R587)
    (∀ (s : State), exec .powerOnReset s = .next
      { pending := s.pending, mem := [], dev := { Dev.reset with freeCtr := s.dev.freeCtr, fold := foldAtReset s.dev.fold true, pins := { PinState.reset with resetLevel := 1 } } })
    -- POR_N_ASSERT (R587)
    ∧ (∀ (s : State), Ends (exec .porNAssert s) (fun t => (∀ n, (sliceOf t.dev n).stopHeld = (sliceOf s.start n).stopHeld) ∧ t.dev.pwr = PwrState.reset ∧
      t.dev.sys = SysState.reset ∧ t.dev.bell.tick = 0 ∧ t.dev.bell.sleep.cnt = s.start.bell.sleep.cnt ∧ t.dev.pins.driven = false ∧
      t.dev.fold.boot.stage = .rom))
    -- SUPPLY_DIP (R585)
    ∧ (∀ (s : State), exec .supplyDip s = s.commit (deviceReset s.start))
    -- POR_N_ASSERT (R587)
    ∧ (∀ (s : State), exec .porNAssert s = s.commit (deviceReset s.start))
    -- THERMTRIP (R598)
    ∧ (∀ (s : State), exec .thermtrip s = s.commit (deviceReset (onPins s.start (fun p => { p with thermTrip := true }))))
    -- THERMTRIP (R598)
    ∧ (∀ (s : State), Ends (exec .thermtrip s) (fun t => t.dev.pins.thermTrip = true ∧ t.dev.pins.driven = false ∧ t.dev.pwr.winter = none))
    -- THERMTRIP_CLEAR (R598)
    ∧ (∀ (s : State), exec .thermtripClear s = s.become (onPins s.start (fun p => { p with thermTrip := false })))
    -- PERST_N (R587)
    ∧ (∀ (s : State), Ends (exec .perstN s) (fun t => t.dev.sys.rings = [] ∧ t.dev.sys.bar2Win = 0 ∧ t.dev.sys.int.msixEn = false ∧ t.dev.sys.sess =
      s.start.sys.sess ∧ t.dev.pwr = s.start.pwr))
    -- PCIE_LINK_L0 (R571)
    ∧ (∀ (s : State), exec .pcieLinkL0 s = s.become (onPins s.start (fun p => { p with pcieWake := false })))
    -- BOOT (R471)
    ∧ (∀ (s : State) strapped selfTestOk rows engines image, s.start.pins.thermTrip = true → exec (.boot strapped selfTestOk rows engines image) s =
      s.become s.start)
    -- BOOT (R471)
    ∧ (∀ (s : State) strapped selfTestOk rows engines image, s.start.fold.boot.stage = .rom ∧ s.start.fold.boot.selftest = false ∧ s.start.pins.thermTrip
      = false ∧ selfTestOk = false → Ends (exec (.boot strapped selfTestOk rows engines image) s) (fun t => t.dev.fold.boot.selftest = true ∧
      t.dev.fold.boot.stage = .rom ∧ t.dev.pins.driven = true))
    -- BOOT (R471)
    ∧ (∀ (s : State) strapped selfTestOk rows engines image, s.start.fold.boot.stage = .rom ∧ s.start.fold.boot.selftest = false ∧ s.start.pins.thermTrip
      = false ∧ selfTestOk = true ∧ s.start.fold.boot.store = [] → Ends (exec (.boot strapped selfTestOk rows engines image) s) (fun t =>
      t.dev.fold.boot.stage = .recovery ∧ t.dev.fold.boot.badKind = 2))
    -- BOOT (R471)
    ∧ (∀ (s : State) strapped selfTestOk rows engines image x y, s.start.fold.boot.stage = .rom ∧ s.start.fold.boot.selftest = false ∧
      s.start.pins.thermTrip = false ∧ selfTestOk = true ∧ bootPick (bootRules strapped s.start) 2 = some x ∧ bootPick (bootRules strapped s.start) 3 =
      some y → Ends (exec (.boot strapped selfTestOk rows engines image) s) (fun t => t.dev.fold.boot.stage = .ready ∧ t.dev.fold.boot.runFold = some
      x.2.1 ∧ t.dev.fold.boot.runCtrl = some y.2.1 ∧ t.dev.fold.boot.ctrlSlot = y.1 ∧ t.dev.pins.driven = true))

/-- What 75 events leave unchanged. The frames of the events; the frames of Kervon commands are in their completion statements, which give the whole next state. -/
def Obligations.FramesOfHostTimeAndAccess : Prop :=
    -- BELL_SNAP (R52)
    (∀ (s : State) cycles, Ends (exec (.bellSnap cycles) s) (Keeps [.out, .sys, .bell] s))
    -- TICK_LO_READ (R74)
    ∧ (∀ (s : State), Ends (exec .tickLoRead s) (Keeps [.out, .sys, .bell] s))
    -- SLEEP_CNT_LO_READ (R75)
    ∧ (∀ (s : State) crystal, Ends (exec (.sleepCntLoRead crystal) s) (Keeps [.out, .sys, .bell] s))
    -- TSQ_W3_READ (R59)
    ∧ (∀ (s : State) group, Ends (exec (.tsqW3Read group) s) (Keeps [.out, .sys, .bell] s))
    -- REFERENCE_EVENT (R43)
    ∧ (∀ (s : State) err freq, Ends (exec (.referenceEvent err freq) s) (Keeps [.freeCtr, .out, .sys, .bell] s))
    -- REFERENCE_MISSING (R43)
    ∧ (∀ (s : State), Ends (exec .referenceMissing s) (Keeps [.out, .sys, .bell] s))
    -- TOD_MESSAGE (R60)
    ∧ (∀ (s : State) slice send ri stamp, Ends (exec (.todMessage slice send ri stamp) s) (Keeps [.out, .sys, .staged, .bell] s))
    -- PPS_OUT_EDGE (R63)
    ∧ (∀ (s : State), Ends (exec .ppsOutEdge s) (Keeps [.bell] s))
    -- PPS_OUT_FALL (R63)
    ∧ (∀ (s : State), Ends (exec .ppsOutFall s) (Keeps [.bell] s))
    -- SLEEP_CAL_MEASURE (R66)
    ∧ (∀ (s : State) cycles, Ends (exec (.sleepCalMeasure cycles) s) (Keeps [.bell] s))
    -- BELL_MARKER_RX (R69)
    ∧ (∀ (s : State) h m residence, Ends (exec (.bellMarkerRx h m residence) s) (Keeps [.out, .sys, .bell, .casc] s))
    -- SUCCESSION_CLAIM (R71)
    ∧ (∀ (s : State), Ends (exec .successionClaim s) (Keeps [.out, .bell, .casc] s))
    -- CASC_DELAY_MEASURE (R70)
    ∧ (∀ (s : State) port t1 t2 t3 t4, Ends (exec (.cascDelayMeasure port t1 t2 t3 t4) s) (Keeps [.out, .bell] s))
    -- POOL_HANDOVER (R26)
    ∧ (∀ (s : State), Ends (exec .poolHandover s) (Keeps [.past] s))
    -- PRESENCE_PRESS (R498)
    ∧ (∀ (s : State), Ends (exec .presencePress s) (Keeps [.out, .sys, .fold] s))
    -- PRESENCE_WINDOW_EXPIRY (R498)
    ∧ (∀ (s : State), Ends (exec .presenceWindowExpiry s) (Keeps [.fold] s))
    -- PRESENCE_STUCK (R498)
    ∧ (∀ (s : State), Ends (exec .presenceStuck s) (Keeps [.out, .sys, .fold] s))
    -- PRESENCE_RELEASE (R498)
    ∧ (∀ (s : State), Ends (exec .presenceRelease s) (Keeps [.fold] s))
    -- SEAL_BROKEN (R499)
    ∧ (∀ (s : State), Ends (exec .sealBroken s) (Keeps [.out, .sys, .fold] s))
    -- SEAL_RESTORED (R499)
    ∧ (∀ (s : State), Ends (exec .sealRestored s) (Keeps [.out, .sys, .fold] s))
    -- RNG_HEALTH_FAIL (R491)
    ∧ (∀ (s : State), Ends (exec .rngHealthFail s) (Keeps [.out, .sys, .fold] s))
    -- COMMAND_WAIT_EXPIRY (R491)
    ∧ (∀ (s : State) h op, Ends (exec (.commandWaitExpiry h op) s) (Keeps [.out, .sys, .rings, .sess] s))
    -- AUTOSEAL (R478)
    ∧ (∀ (s : State), Ends (exec .autoseal s) (Keeps [.out, .sys, .fold] s))
    -- OTP_PROGRAM_DONE (R495)
    ∧ (∀ (s : State) readBackOk, Ends (exec (.otpProgramDone readBackOk) s) (Keeps [.out, .sys, .rings, .sess, .fold, .otp] s))
    -- DOWNSTREAM_FRAME (R236)
    ∧ (∀ (s : State) slice f, Ends (exec (.downstreamFrame slice f) s) (Keeps [.out, .sys, .bell, .tm, .acc] s))
    -- OPTICS_SD_LOSS (R236)
    ∧ (∀ (s : State) slice lost now, Ends (exec (.opticsSdLoss slice lost now) s) (Keeps [.out, .sys, .bell, .tm, .acc] s))
    -- PLOAM_BURST_PROFILE (R251)
    ∧ (∀ (s : State) slice h index guard fieldsOk rateOk, Ends (exec (.ploamBurstProfile slice h index guard fieldsOk rateOk) s) (Keeps [.out, .sys,
      .bell, .tm, .acc] s))
    -- PLOAM_ASSIGN_ONU_ID (R238)
    ∧ (∀ (s : State) slice h mine onu, Ends (exec (.ploamAssignOnuId slice h mine onu) s) (Keeps [.out, .sys, .bell, .tm, .acc] s))
    -- PLOAM_RANGING_TIME (R242)
    ∧ (∀ (s : State) slice h relative value, Ends (exec (.ploamRangingTime slice h relative value) s) (Keeps [.out, .sys, .staged, .bell, .tm, .acc] s))
    -- PLOAM_DEACTIVATE_ONU_ID (R238)
    ∧ (∀ (s : State) slice h, Ends (exec (.ploamDeactivateOnuId slice h) s) (Keeps [.out, .sys, .bell, .tm, .acc] s))
    -- PLOAM_DISABLE_SERIAL_NUMBER (R238)
    ∧ (∀ (s : State) slice h named enable, Ends (exec (.ploamDisableSerialNumber slice h named enable) s) (Keeps [.out, .sys, .bell, .tm, .acc] s))
    -- PLOAM_REQUEST_REGISTRATION (R231)
    ∧ (∀ (s : State) slice h, Ends (exec (.ploamRequestRegistration slice h) s) (Keeps [.out, .sys, .acc] s))
    -- PLOAM_ASSIGN_ALLOC_ID (R283)
    ∧ (∀ (s : State) slice h alloc assign, Ends (exec (.ploamAssignAllocId slice h alloc assign) s) (Keeps [.out, .sys, .tm, .acc] s))
    -- PLOAM_KEY_CONTROL (R245)
    ∧ (∀ (s : State) slice h generate index, Ends (exec (.ploamKeyControl slice h generate index) s) (Keeps [.freeCtr, .out, .sys, .acc] s))
    -- TKEY_EXPIRY (R248)
    ∧ (∀ (s : State) slice, Ends (exec (.tkeyExpiry slice) s) (Keeps [.out, .sys, .acc] s))
    -- PLOAM_SLEEP_ALLOW (R249)
    ∧ (∀ (s : State) slice h allow, Ends (exec (.ploamSleepAllow slice h allow) s) (Keeps [.out, .sys, .acc] s))
    -- PLOAM_UNKNOWN_TYPE (R251)
    ∧ (∀ (s : State) slice h, Ends (exec (.ploamUnknownType slice h) s) (Keeps [.out, .sys, .acc] s))
    -- SLEEP_AWARE_PERIOD (R249)
    ∧ (∀ (s : State) slice, Ends (exec (.sleepAwarePeriod slice) s) (Keeps [.acc] s))
    -- TO1_EXPIRY (R240)
    ∧ (∀ (s : State) slice, Ends (exec (.to1Expiry slice) s) (Keeps [.out, .sys, .bell, .tm, .acc] s))
    -- TO2_EXPIRY (R240)
    ∧ (∀ (s : State) slice, Ends (exec (.to2Expiry slice) s) (Keeps [.out, .sys, .bell, .tm, .acc] s))
    -- FLAP_WINDOW_EXPIRY (R240)
    ∧ (∀ (s : State) slice, Ends (exec (.flapWindowExpiry slice) s) (Keeps [.acc] s))
    -- QUARANTINE_EXPIRY (R253)
    ∧ (∀ (s : State) slice, Ends (exec (.quarantineExpiry slice) s) (Keeps [.out, .sys, .bell, .tm, .acc] s))
    -- WATCHDOG_TRIP (R254)
    ∧ (∀ (s : State) slice cause now, Ends (exec (.watchdogTrip slice cause now) s) (Keeps [.out, .sys, .bell, .tm, .acc] s))
    -- BWMAP_RX (R252)
    ∧ (∀ (s : State) slice lost grants, Ends (exec (.bwmapRx slice lost grants) s) (Keeps [.out, .sys, .acc] s))
    -- BURST_COMMIT (R286)
    ∧ (∀ (s : State) slice now, Ends (exec (.burstCommit slice now) s) (Keeps [.freeCtr, .out, .sys, .bell, .past, .tm, .acc] s))
    -- DYING_GASP_DISABLE (R258)
    ∧ (∀ (s : State) slice, Ends (exec (.dyingGaspDisable slice) s) (Keeps [.out, .sys, .bell, .tm, .acc] s))
    -- BURST_WINDOW (R285)
    ∧ (∀ (s : State) slice stamp, Ends (exec (.burstWindow slice stamp) s) (Keeps [.freeCtr, .out, .sys, .bell, .tm, .acc, .lane] s))
    -- BOND_OFFER (R276)
    ∧ (∀ (s : State) slice h dsPort usPort start, Ends (exec (.bondOffer slice h dsPort usPort start) s) (Keeps [.out, .sys, .bell, .acc] s))
    -- CHANNEL_ADD (R277)
    ∧ (∀ (s : State) slice h joinFrame, Ends (exec (.channelAdd slice h joinFrame) s) (Keeps [.out, .sys, .acc] s))
    -- CHANNEL_REMOVE (R279)
    ∧ (∀ (s : State) slice h leaveFrame, Ends (exec (.channelRemove slice h leaveFrame) s) (Keeps [.out, .sys, .bell, .acc] s))
    -- BOND_ALLOC (R283)
    ∧ (∀ (s : State) slice h alloc assign, Ends (exec (.bondAlloc slice h alloc assign) s) (Keeps [.out, .sys, .tm, .acc] s))
    -- BOND_RELEASE (R276)
    ∧ (∀ (s : State) slice h, Ends (exec (.bondRelease slice h) s) (Keeps [.out, .sys, .tm, .acc] s))
    -- BOND_MSG_UNKNOWN (R282)
    ∧ (∀ (s : State) slice h type, Ends (exec (.bondMsgUnknown slice h type) s) (Keeps [.out, .sys, .acc] s))
    -- CHANNEL_JOIN_FRAME (R276)
    ∧ (∀ (s : State) slice, Ends (exec (.channelJoinFrame slice) s) (Keeps [.out, .sys, .bell, .acc] s))
    -- CHANNEL_DEPARTURE (R280)
    ∧ (∀ (s : State) slice cause now, Ends (exec (.channelDeparture slice cause now) s) (Keeps [.out, .sys, .bell, .acc] s))
    -- BOND_MSG_RETRY (R278)
    ∧ (∀ (s : State) type chan, Ends (exec (.bondMsgRetry type chan) s) (Keeps [.out, .sys, .acc] s))
    -- BOND_FRAGMENT_RX (R270)
    ∧ (∀ (s : State) slice f now, Ends (exec (.bondFragmentRx slice f now) s) (Keeps [.freeCtr, .out, .sys, .past, .parse, .tm, .flock, .acc, .imc,
      .casc, .integ] s))
    -- REORDER_DEADLINE (R271)
    ∧ (∀ (s : State) now, Ends (exec (.reorderDeadline now) s) (Keeps [.freeCtr, .out, .sys, .past, .parse, .tm, .flock, .acc, .imc, .casc, .integ] s))
    -- GEM_FRAME_RX (R243)
    ∧ (∀ (s : State) slice g, Ends (exec (.gemFrameRx slice g) s) (Keeps [.freeCtr, .out, .sys, .bell, .past, .parse, .tm, .flock, .acc, .imc, .casc,
      .integ] s))
    -- GEM_REASSEMBLY_TIMEOUT (R243)
    ∧ (∀ (s : State) slice port, Ends (exec (.gemReassemblyTimeout slice port) s) (Keeps [.acc] s))
    -- OMCI_MESSAGE (R250)
    ∧ (∀ (s : State) slice cls inst micOk op eff, Ends (exec (.omciMessage slice cls inst micOk op eff) s) (Keeps [.acc, .imc] s))
    -- SQ_TAIL_DOORBELL (R522)
    ∧ (∀ (s : State) ring value packets pcieFails, Ends (exec (.sqTailDoorbell ring value packets pcieFails) s) (Keeps [.out, .sys, .rings] s))
    -- CQ_HEAD_DOORBELL (R522)
    ∧ (∀ (s : State) ring value, Ends (exec (.cqHeadDoorbell ring value) s) (Keeps [.out, .sys, .rings] s))
    -- RING_ENABLE (R523)
    ∧ (∀ (s : State) ring en, Ends (exec (.ringEnable ring en) s) (Keeps [.out, .sys, .rings] s))
    -- MSIX_ENABLE (R534)
    ∧ (∀ (s : State) cfgEn masked, Ends (exec (.msixEnable cfgEn masked) s) (Keeps [.out, .sys] s))
    -- LEAF_WRITE (R532)
    ∧ (∀ (s : State) word value, Ends (exec (.leafWrite word value) s) (Keeps [.out, .sys] s))
    -- SESSION_HELLO (R526)
    ∧ (∀ (s : State) addr port, Ends (exec (.sessionHello addr port) s) (Keeps [.freeCtr, .out, .sys, .sess] s))
    -- SESSION_PROOF (R526)
    ∧ (∀ (s : State) session role keyHash sigOk decryptOk, Ends (exec (.sessionProof session role keyHash sigOk decryptOk) s) (Keeps [.out, .sys, .sess]
      s))
    -- SESSION_COMMAND (R527)
    ∧ (∀ (s : State) session ctr tagOk packet, Ends (exec (.sessionCommand session ctr tagOk packet) s) (Keeps [.out, .sys, .sess] s))
    -- SESSION_CLOSE (R527)
    ∧ (∀ (s : State) session ctr tagOk, Ends (exec (.sessionClose session ctr tagOk) s) (Keeps [.out, .sys, .staged, .sess] s))
    -- SESSION_IDLE_TIMEOUT (R527)
    ∧ (∀ (s : State) session, Ends (exec (.sessionIdleTimeout session) s) (Keeps [.out, .sys, .staged, .sess] s))
    -- SESSION_PROOF_TIMEOUT (R526)
    ∧ (∀ (s : State) session, Ends (exec (.sessionProofTimeout session) s) (Keeps [.sys, .sess] s))
    -- FW_STORE_WRITE_DONE (R512)
    ∧ (∀ (s : State), Ends (exec .fwStoreWriteDone s) (Keeps [.out, .sys, .rings, .sess, .fold] s))
    -- BELL_TICK (R45)
    ∧ (∀ (s : State) x, Ends (exec (.bellTick x) s) (fun t => t.pending = s.pending ∧ Touches [.freeCtr, .out, .sys, .rings, .sess, .bell, .tick, .past,
      .fold, .parse, .tm, .flock, .media, .aud, .vid, .imc, .casc, .lane, .integ] s.start t.dev))
    -- STAGING_CUTOFF (R15)
    ∧ (∀ (s : State), Ends (exec .stagingCutoff s) (Keeps [.sys, .staged, .media, .aud, .imc] s))

/-- What 67 events leave unchanged. The frames of the events; the frames of Kervon commands are in their completion statements, which give the whole next state. -/
def Obligations.FramesOfPortsAndCascade : Prop :=
    -- FRAG_AGE_EXPIRY (R393)
    (∀ (s : State), Ends (exec .fragAgeExpiry s) (Keeps [.parse] s))
    -- QUEUE_FREE_DRAIN_END (R420)
    ∧ (∀ (s : State) q, Ends (exec (.queueFreeDrainEnd q) s) (Keeps [.out, .sys, .tm] s))
    -- HWM_RESET (R418)
    ∧ (∀ (s : State) queue go all, Ends (exec (.hwmReset queue go all) s) (Keeps [.out, .sys, .tm] s))
    -- DROVE_BURST (R435)
    ∧ (∀ (s : State) b, Ends (exec (.droveBurst b) s) (fun t => t.pending = s.pending ∧ Touches [.out, .sys, .past, .flock, .drove, .integ] s.start
      t.dev))
    -- DROVE_START (R430)
    ∧ (∀ (s : State) chan, Ends (exec (.droveStart chan) s) (Keeps [.drove] s))
    -- DROVE_RESUME (R439)
    ∧ (∀ (s : State) chan, Ends (exec (.droveResume chan) s) (Keeps [.drove] s))
    -- DROVE_SKIP (R439)
    ∧ (∀ (s : State) chan, Ends (exec (.droveSkip chan) s) (Keeps [.drove] s))
    -- DROVE_ABORT (R439)
    ∧ (∀ (s : State) chan, Ends (exec (.droveAbort chan) s) (Keeps [.drove] s))
    -- DROVE_TRIGGER (R431)
    ∧ (∀ (s : State) line, Ends (exec (.droveTrigger line) s) (Keeps [.drove] s))
    -- PASTURE_REQUEST (R26)
    ∧ (∀ (s : State) cls addr write find, Ends (exec (.pastureRequest cls addr write find) s) (Keeps [.out, .sys, .past, .integ] s))
    -- BAR2_ACCESS (R507)
    ∧ (∀ (s : State) offset write data bytes find, Ends (exec (.bar2Access offset write data bytes find) s) (fun t => t.pending = s.pending ∧ Touches
      [.out, .sys, .past, .integ] s.start t.dev))
    -- ROW_REMAP_START (R450)
    ∧ (∀ (s : State), Ends (exec .rowRemapStart s) (Keeps [.out, .sys, .past, .integ] s))
    -- ROW_REMAP_COMPLETE (R450)
    ∧ (∀ (s : State), Ends (exec .rowRemapComplete s) (Keeps [.out, .sys, .integ] s))
    -- CV_INIT (R454)
    ∧ (∀ (s : State) cv, Ends (exec (.cvInit cv) s) (Keeps [.integ] s))
    -- CV_DATA8 (R454)
    ∧ (∀ (s : State) cv data, Ends (exec (.cvData8 cv data) s) (Keeps [.integ] s))
    -- CV_DATA16 (R454)
    ∧ (∀ (s : State) cv data, Ends (exec (.cvData16 cv data) s) (Keeps [.integ] s))
    -- CV_DATA32 (R454)
    ∧ (∀ (s : State) cv data, Ends (exec (.cvData32 cv data) s) (Keeps [.integ] s))
    -- CV_VALUE_WRITE (R455)
    ∧ (∀ (s : State) cv high value, Ends (exec (.cvValueWrite cv high value) s) (Keeps [.integ] s))
    -- CV_ALIVE_WRITE (R456)
    ∧ (∀ (s : State) cv value, Ends (exec (.cvAliveWrite cv value) s) (Keeps [.integ] s))
    -- CLIENT_FRAME_RX (R347)
    ∧ (∀ (s : State) port f, Ends (exec (.clientFrameRx port f) s) (Keeps [.freeCtr, .out, .sys, .bell, .past, .fold, .parse, .tm, .cli, .flock, .casc,
      .integ] s))
    -- SERVICE_COLLISION (R356)
    ∧ (∀ (s : State) late, Ends (exec (.serviceCollision late) s) (Keeps [.freeCtr, .out, .sys, .cli] s))
    -- BACKOFF_EXPIRY (R356)
    ∧ (∀ (s : State) op, Ends (exec (.backoffExpiry op) s) (Keeps [.freeCtr, .out, .sys, .bell, .fold, .cli] s))
    -- LLDP_SEND (R352)
    ∧ (∀ (s : State) port frame now, Ends (exec (.lldpSend port frame now) s) (Keeps [.out, .sys, .past, .tm] s))
    -- LINK_CHANGE (R345)
    ∧ (∀ (s : State) port up, Ends (exec (.linkChange port up) s) (Keeps [.out, .sys, .cli] s))
    -- RGMII_INBAND_STATUS (R355)
    ∧ (∀ (s : State) up speed duplex, Ends (exec (.rgmiiInbandStatus up speed duplex) s) (Keeps [.out, .sys, .cli] s))
    -- LPI_ENTER (R358)
    ∧ (∀ (s : State) port received, Ends (exec (.lpiEnter port received) s) (Keeps [.out, .sys, .cli] s))
    -- LPI_WAKE (R360)
    ∧ (∀ (s : State) port us op, Ends (exec (.lpiWake port us op) s) (Keeps [.freeCtr, .out, .sys, .bell, .past, .fold, .tm, .cli] s))
    -- PAUSE_QUANTA_EXPIRY (R352)
    ∧ (∀ (s : State) port, Ends (exec (.pauseQuantaExpiry port) s) (Keeps [.cli] s))
    -- STAT_SNAP (R365)
    ∧ (∀ (s : State) port, Ends (exec (.statSnap port) s) (Keeps [.out, .sys, .cli] s))
    -- CNT_LO_READ (R365)
    ∧ (∀ (s : State) port i, Ends (exec (.cntLoRead port i) s) (Keeps [.out, .sys, .cli] s))
    -- MKA_FRAME (R490)
    ∧ (∀ (s : State) port newSak dir ssci, Ends (exec (.mkaFrame port newSak dir ssci) s) (Keeps [.freeCtr, .out, .fold] s))
    -- CASC_HELLO_RX (R537)
    ∧ (∀ (s : State) h domain dev rank, Ends (exec (.cascHelloRx h domain dev rank) s) (Keeps [.out, .sys, .casc] s))
    -- CASC_TOPO_RX (R540)
    ∧ (∀ (s : State) h hops, Ends (exec (.cascTopoRx h hops) s) (Keeps [.out, .sys, .casc] s))
    -- CASC_KEEPALIVE_RX (R537)
    ∧ (∀ (s : State) h, Ends (exec (.cascKeepaliveRx h) s) (Keeps [.out, .sys, .casc] s))
    -- CASC_LANE_COPY_RX (R333)
    ∧ (∀ (s : State) h port lane, Ends (exec (.cascLaneCopyRx h port lane) s) (Keeps [.out, .sys, .casc, .lane] s))
    -- CASC_KEEPALIVE_SEND (R537)
    ∧ (∀ (s : State), Ends (exec .cascKeepaliveSend s) (Keeps [.out, .casc] s))
    -- CASC_HELLO_SEND (R537)
    ∧ (∀ (s : State), Ends (exec .cascHelloSend s) (Keeps [.out, .casc] s))
    -- CASC_TOPO_SEND (R539)
    ∧ (∀ (s : State), Ends (exec .cascTopoSend s) (Keeps [.out, .casc] s))
    -- CASC_PORT_TIMEOUT (R537)
    ∧ (∀ (s : State) port, Ends (exec (.cascPortTimeout port) s) (Keeps [.out, .sys, .casc] s))
    -- CASC_PORT_RETRY (R537)
    ∧ (∀ (s : State) port, Ends (exec (.cascPortRetry port) s) (Keeps [.casc] s))
    -- CASC_DATA_RX (R540)
    ∧ (∀ (s : State) h bytes stamp now, Ends (exec (.cascDataRx h bytes stamp now) s) (Keeps [.freeCtr, .out, .sys, .past, .parse, .tm, .flock, .casc,
      .integ] s))
    -- CASC_MEDIA_RX (R543)
    ∧ (∀ (s : State) h pay, Ends (exec (.cascMediaRx h pay) s) (Keeps [.freeCtr, .out, .sys, .flock, .media, .casc, .integ] s))
    -- TWIN_BEAT_SEND (R539)
    ∧ (∀ (s : State), Ends (exec .twinBeatSend s) (Keeps [.out, .casc] s))
    -- CASC_TWIN_BEAT_RX (R548)
    ∧ (∀ (s : State) h state, Ends (exec (.cascTwinBeatRx h state) s) (Keeps [.out, .sys, .media, .aud, .casc] s))
    -- CASC_TAKEOVER_RX (R550)
    ∧ (∀ (s : State) h taken home, Ends (exec (.cascTakeoverRx h taken home) s) (Keeps [.out, .sys, .media, .aud, .casc] s))
    -- TWIN_PARTNER_LOST (R548)
    ∧ (∀ (s : State), Ends (exec .twinPartnerLost s) (Keeps [.casc] s))
    -- TWIN_TAKEOVER (R548)
    ∧ (∀ (s : State), Ends (exec .twinTakeover s) (Keeps [.out, .sys, .parse, .media, .aud, .casc] s))
    -- TM_DEQUEUE (R404)
    ∧ (∀ (s : State) root op cell find, Ends (exec (.tmDequeue root op cell find) s) (Keeps [.freeCtr, .out, .sys, .bell, .past, .fold, .tm, .cli, .casc,
      .integ] s))
    -- LANE_FAILURE (R332)
    ∧ (∀ (s : State) lane, Ends (exec (.laneFailure lane) s) (Keeps [.out, .sys, .cli, .casc, .lane] s))
    -- LANE_ADAPTED (R324)
    ∧ (∀ (s : State) lane peak gain dfe flt, Ends (exec (.laneAdapted lane peak gain dfe flt) s) (Keeps [.out, .sys, .lane] s))
    -- LANE_CDR_LOSS (R331)
    ∧ (∀ (s : State) lane, Ends (exec (.laneCdrLoss lane) s) (Keeps [.out, .sys, .cli, .casc, .lane] s))
    -- EYE_SCAN (R330)
    ∧ (∀ (s : State) lane height width, Ends (exec (.eyeScan lane height width) s) (Keeps [.out, .sys, .cli, .casc, .lane] s))
    -- LANE_RECAL_PERIODIC (R325)
    ∧ (∀ (s : State), Ends (exec .laneRecalPeriodic s) (Keeps [.lane] s))
    -- LANE_MARKER_RX (R328)
    ∧ (∀ (s : State) lane marker skew compareOk, Ends (exec (.laneMarkerRx lane marker skew compareOk) s) (Keeps [.out, .sys, .cli, .casc, .lane] s))
    -- LANE_SLIP (R329)
    ∧ (∀ (s : State) lane, Ends (exec (.laneSlip lane) s) (Keeps [.out, .sys, .lane] s))
    -- HS_DET_INSERT_EDGE (R143)
    ∧ (∀ (s : State) headset, Ends (exec (.hsDetInsertEdge headset) s) (Keeps [.aud] s))
    -- HS_INSERT_DEBOUNCED (R143)
    ∧ (∀ (s : State) headset, Ends (exec (.hsInsertDebounced headset) s) (Keeps [.out, .sys, .aud] s))
    -- HS_CLASSIFY (R145)
    ∧ (∀ (s : State) headset ring2 sleeve, Ends (exec (.hsClassify headset ring2 sleeve) s) (Keeps [.out, .sys, .aud] s))
    -- HS_BUTTON_ARM (R143)
    ∧ (∀ (s : State) headset, Ends (exec (.hsButtonArm headset) s) (Keeps [.aud] s))
    -- HS_DET_REMOVE_EDGE (R144)
    ∧ (∀ (s : State) headset, Ends (exec (.hsDetRemoveEdge headset) s) (Keeps [.aud] s))
    -- HS_REMOVE_EXPIRY (R144)
    ∧ (∀ (s : State) headset, Ends (exec (.hsRemoveExpiry headset) s) (Keeps [.out, .sys, .aud] s))
    -- HS_BUTTON_SAMPLE (R146)
    ∧ (∀ (s : State) headset biasUa, Ends (exec (.hsButtonSample headset biasUa) s) (Keeps [.out, .sys, .aud] s))
    -- TDM_FRAME_RX (R150)
    ∧ (∀ (s : State) port words wellFormed, Ends (exec (.tdmFrameRx port words wellFormed) s) (Keeps [.out, .sys, .aud] s))
    -- TDM_ALARM_TIMEOUT (R151)
    ∧ (∀ (s : State) port, Ends (exec (.tdmAlarmTimeout port) s) (Keeps [.out, .sys, .aud] s))
    -- DIGEST_PUBLISH (R460)
    ∧ (∀ (s : State), Ends (exec .digestPublish s) (Keeps [.out, .sys, .casc, .integ] s))
    -- DIGEST_DRIFT_CHECK (R461)
    ∧ (∀ (s : State) drifted, Ends (exec (.digestDriftCheck drifted) s) (Keeps [.out, .sys, .casc, .integ] s))
    -- CASC_DIGEST_RX (R462)
    ∧ (∀ (s : State) h peerBusy mask digest epoch, Ends (exec (.cascDigestRx h peerBusy mask digest epoch) s) (Keeps [.out, .sys, .casc, .integ] s))

/-- What 64 events leave unchanged. The frames of the events; the frames of Kervon commands are in their completion statements, which give the whole next state. -/
def Obligations.FramesOfMediaAndPower : Prop :=
    -- MUL (R203)
    (∀ (s : State) i acc a b sg wide, Ends (exec (.mul i acc a b sg wide) s) (fun t => t.pending = s.pending ∧ Touches [.freeCtr, .out, .sys, .past,
      .flock, .media, .integ] s.start t.dev))
    -- MAC (R203)
    ∧ (∀ (s : State) i acc a b sg wide, Ends (exec (.mac i acc a b sg wide) s) (fun t => t.pending = s.pending ∧ Touches [.freeCtr, .out, .sys, .past,
      .flock, .media, .integ] s.start t.dev))
    -- MSU (R203)
    ∧ (∀ (s : State) i acc a b sg wide, Ends (exec (.msu i acc a b sg wide) s) (fun t => t.pending = s.pending ∧ Touches [.freeCtr, .out, .sys, .past,
      .flock, .media, .integ] s.start t.dev))
    -- MAC_SUM (R203)
    ∧ (∀ (s : State) i acc a b sg wide, Ends (exec (.macSum i acc a b sg wide) s) (fun t => t.pending = s.pending ∧ Touches [.freeCtr, .out, .sys, .past,
      .flock, .media, .integ] s.start t.dev))
    -- CLR (R203)
    ∧ (∀ (s : State) i acc, Ends (exec (.clr i acc) s) (fun t => t.pending = s.pending ∧ Touches [.freeCtr, .out, .sys, .past, .flock, .media, .integ]
      s.start t.dev))
    -- MV_V (R206)
    ∧ (∀ (s : State) i dst acc, Ends (exec (.mvV i dst acc) s) (fun t => t.pending = s.pending ∧ Touches [.freeCtr, .out, .sys, .past, .flock, .media,
      .integ] s.start t.dev))
    -- MV_W (R206)
    ∧ (∀ (s : State) i dst acc, Ends (exec (.mvW i dst acc) s) (fun t => t.pending = s.pending ∧ Touches [.freeCtr, .out, .sys, .past, .flock, .media,
      .integ] s.start t.dev))
    -- MV_S (R206)
    ∧ (∀ (s : State) i dst acc lane, Ends (exec (.mvS i dst acc lane) s) (fun t => t.pending = s.pending ∧ Touches [.freeCtr, .out, .sys, .past, .flock,
      .media, .integ] s.start t.dev))
    -- LOAD (R202)
    ∧ (∀ (s : State) i reg addr find, Ends (exec (.load i reg addr find) s) (fun t => t.pending = s.pending ∧ Touches [.freeCtr, .out, .sys, .past,
      .flock, .media, .integ] s.start t.dev))
    -- STORE (R201)
    ∧ (∀ (s : State) i reg addr, Ends (exec (.store i reg addr) s) (fun t => t.pending = s.pending ∧ Touches [.freeCtr, .out, .sys, .past, .flock,
      .media, .integ] s.start t.dev))
    -- SCALAR_OPERATION (R197)
    ∧ (∀ (s : State) i op dst a b, Ends (exec (.scalarOperation i op dst a b) s) (fun t => t.pending = s.pending ∧ Touches [.freeCtr, .out, .sys, .past,
      .flock, .media, .integ] s.start t.dev))
    -- CONTROL_REGISTER_WRITE (R198)
    ∧ (∀ (s : State) i w, Ends (exec (.controlRegisterWrite i w) s) (fun t => t.pending = s.pending ∧ Touches [.freeCtr, .out, .sys, .past, .flock,
      .media, .integ] s.start t.dev))
    -- WMCR (R205)
    ∧ (∀ (s : State) i src, Ends (exec (.wmcr i src) s) (fun t => t.pending = s.pending ∧ Touches [.freeCtr, .out, .sys, .past, .flock, .media, .integ]
      s.start t.dev))
    -- BRANCH (R200)
    ∧ (∀ (s : State) i target, Ends (exec (.branch i target) s) (fun t => t.pending = s.pending ∧ Touches [.freeCtr, .out, .sys, .past, .flock, .media,
      .integ] s.start t.dev))
    -- CALL (R200)
    ∧ (∀ (s : State) i target, Ends (exec (.call i target) s) (fun t => t.pending = s.pending ∧ Touches [.freeCtr, .out, .sys, .past, .flock, .media,
      .integ] s.start t.dev))
    -- RETI (R210)
    ∧ (∀ (s : State) i, Ends (exec (.reti i) s) (fun t => t.pending = s.pending ∧ Touches [.freeCtr, .out, .sys, .past, .flock, .media, .integ] s.start
      t.dev))
    -- EVENT_PULSE (R215)
    ∧ (∀ (s : State) line listeners, Ends (exec (.eventPulse line listeners) s) (Keeps [.out, .flock] s))
    -- SIG (R215)
    ∧ (∀ (s : State) i line listeners, Ends (exec (.sig i line listeners) s) (fun t => t.pending = s.pending ∧ Touches [.freeCtr, .out, .sys, .past,
      .flock, .media, .integ] s.start t.dev))
    -- ENGINE_INTERRUPT (R210)
    ∧ (∀ (s : State) eng kind, Ends (exec (.engineInterrupt eng kind) s) (fun t => t.pending = s.pending ∧ Touches [.freeCtr, .out, .sys, .past, .flock,
      .media, .integ] s.start t.dev))
    -- SLOT_TIMER (R217)
    ∧ (∀ (s : State) eng finished ready background, Ends (exec (.slotTimer eng finished ready background) s) (fun t => t.pending = s.pending ∧ Touches
      [.freeCtr, .out, .sys, .past, .flock, .media, .integ] s.start t.dev))
    -- HEADSET_BANK_SWAP (R140)
    ∧ (∀ (s : State) headset, Ends (exec (.headsetBankSwap headset) s) (Keeps [.out, .sys, .rings, .sess, .aud] s))
    -- CONTRIB_PICTURE_RX (R22)
    ∧ (∀ (s : State) leg pic, Ends (exec (.contribPictureRx leg pic) s) (Keeps [.out, .sys, .past, .fold, .tm, .media, .vid] s))
    -- DECODE_DONE (R22)
    ∧ (∀ (s : State) leg ok, Ends (exec (.decodeDone leg ok) s) (Keeps [.out, .sys, .past, .fold, .tm, .media, .vid] s))
    -- TIER_ENCODE_DONE (R168)
    ∧ (∀ (s : State) leg tier size relay, Ends (exec (.tierEncodeDone leg tier size relay) s) (Keeps [.freeCtr, .out, .sys, .past, .fold, .tm, .media,
      .vid] s))
    -- SPLICE_PICTURE (R179)
    ∧ (∀ (s : State) layout variant self sizes avc, Ends (exec (.splicePicture layout variant self sizes avc) s) (Keeps [.freeCtr, .out, .sys, .past,
      .fold, .tm, .media, .vid] s))
    -- TALKER_CELL_HOLD (R176)
    ∧ (∀ (s : State) layout variant self cell, Ends (exec (.talkerCellHold layout variant self cell) s) (Keeps [.out, .sys, .past, .fold, .tm, .media,
      .vid] s))
    -- LAYOUT_REFRESH (R183)
    ∧ (∀ (s : State) layout variant self, Ends (exec (.layoutRefresh layout variant self) s) (Keeps [.out, .sys, .past, .fold, .tm, .media, .vid] s))
    -- LEG_PACKET_RX (R85)
    ∧ (∀ (s : State) leg pkt rtcp layer, Ends (exec (.legPacketRx leg pkt rtcp layer) s) (Keeps [.freeCtr, .out, .sys, .rings, .past, .fold, .tm, .flock,
      .media, .vid, .integ] s))
    -- REKEY_GRACE_END (R88)
    ∧ (∀ (s : State) leg, Ends (exec (.rekeyGraceEnd leg) s) (Keeps [.fold, .media] s))
    -- ADAPTATION_RUN (R98)
    ∧ (∀ (s : State) leg, Ends (exec (.adaptationRun leg) s) (fun t => t.pending = s.pending ∧ Touches [.freeCtr, .out, .sys, .past, .fold, .tm, .media,
      .vid] s.start t.dev))
    -- FEEDBACK_STARVED (R98)
    ∧ (∀ (s : State) leg, Ends (exec (.feedbackStarved leg) s) (fun t => t.pending = s.pending ∧ Touches [.out, .sys, .past, .media] s.start t.dev))
    -- FEEDBACK_REPORT_SEND (R103)
    ∧ (∀ (s : State) leg, Ends (exec (.feedbackReportSend leg) s) (Keeps [.out, .sys, .past, .fold, .tm, .media] s))
    -- NACK_SEND (R105)
    ∧ (∀ (s : State) leg seq inTime, Ends (exec (.nackSend leg seq inTime) s) (Keeps [.out, .sys, .past, .fold, .tm, .media] s))
    -- LEG_DRAIN_END (R83)
    ∧ (∀ (s : State) leg, Ends (exec (.legDrainEnd leg) s) (fun t => t.pending = s.pending ∧ Touches [.out, .sys, .past, .fold, .tm, .media] s.start
      t.dev))
    -- MIGRATION_HANDOVER (R107)
    ∧ (∀ (s : State) kind number crcEqual, Ends (exec (.migrationHandover kind number crcEqual) s) (fun t => t.pending = s.pending ∧ Touches [.out, .sys,
      .rings, .sess, .past, .parse, .media, .aud, .imc] s.start t.dev))
    -- ENGINE_FAILED (R109)
    ∧ (∀ (s : State) engine, Ends (exec (.engineFailed engine) s) (fun t => t.pending = s.pending ∧ Touches [.out, .sys, .rings, .sess, .bell, .tick,
      .past, .parse, .flock, .media, .aud, .vid, .imc] s.start t.dev))
    -- GROUP_UPDATE_LOAD (R227)
    ∧ (∀ (s : State) group, Ends (exec (.groupUpdateLoad group) s) (Keeps [.flock] s))
    -- GROUP_UPDATE_DONE (R227)
    ∧ (∀ (s : State) group, Ends (exec (.groupUpdateDone group) s) (Keeps [.out, .sys, .rings, .sess, .flock] s))
    -- IMC_STREAM_RX (R301)
    ∧ (∀ (s : State) trunk bytes, Ends (exec (.imcStreamRx trunk bytes) s) (Keeps [.out, .sys, .imc] s))
    -- IMC_DEG_INTERVAL (R309)
    ∧ (∀ (s : State) trunk, Ends (exec (.imcDegInterval trunk) s) (Keeps [.out, .sys, .imc] s))
    -- THERMTRIP_CLEAR (R598)
    ∧ (∀ (s : State), Ends (exec .thermtripClear s) (Keeps [.pins] s))
    -- PERST_N (R587)
    ∧ (∀ (s : State), Ends (exec .perstN s) (Keeps [.out, .sys, .rings] s))
    -- PCIE_LINK_L0 (R571)
    ∧ (∀ (s : State), Ends (exec .pcieLinkL0 s) (Keeps [.pins] s))
    -- BOOT (R471)
    ∧ (∀ (s : State) strapped selfTestOk rows engines image, Ends (exec (.boot strapped selfTestOk rows engines image) s) (Keeps [.out, .sys, .fold,
      .pins, .flock, .integ] s))
    -- DOMAIN_UP_DONE (R556)
    ∧ (∀ (s : State) domain, Ends (exec (.domainUpDone domain) s) (Keeps [.out, .sys, .rings, .sess, .pwr, .aux, .flock] s))
    -- DOMAIN_DOWN_DONE (R556)
    ∧ (∀ (s : State) domain, Ends (exec (.domainDownDone domain) s) (Keeps [.out, .sys, .rings, .sess, .pwr] s))
    -- WINTER_READY (R566)
    ∧ (∀ (s : State), Ends (exec .winterReady s) (Keeps [.out, .sys, .rings, .sess, .pwr, .tm, .acc] s))
    -- PME_TURN_OFF (R566)
    ∧ (∀ (s : State), Ends (exec .pmeTurnOff s) (Keeps [.out, .sys, .pwr, .aux] s))
    -- LINK_WAIT_EXPIRY (R570)
    ∧ (∀ (s : State), Ends (exec .linkWaitExpiry s) (Keeps [.out, .sys, .rings, .sess, .pwr, .aux] s))
    -- WAKE_PIN (R569)
    ∧ (∀ (s : State) pin a b c, Ends (exec (.wakePin pin a b c) s) (Keeps [.out, .sys, .rings, .sess, .pwr, .aux] s))
    -- WAKE_HEAD_END (R569)
    ∧ (∀ (s : State), Ends (exec .wakeHeadEnd s) (Keeps [.out, .sys, .rings, .sess, .pwr, .aux] s))
    -- WAKE_ALARM (R569)
    ∧ (∀ (s : State) count, Ends (exec (.wakeAlarm count) s) (Keeps [.out, .sys, .rings, .sess, .bell, .pwr, .aux] s))
    -- CORE_HEARTBEAT_LOSS (R567)
    ∧ (∀ (s : State), Ends (exec .coreHeartbeatLoss s) (Keeps [.out, .pwr, .aux] s))
    -- WINTER_COMMIT (R566)
    ∧ (∀ (s : State) count, Ends (exec (.winterCommit count) s) (Keeps [.out, .sys, .staged, .sess, .bell, .past, .pwr, .aux, .pins, .parse, .tm, .cli,
      .flock, .acc, .media, .aud, .vid, .casc, .lane, .drove, .integ] s))
    -- THAW (R571)
    ∧ (∀ (s : State) count, Ends (exec (.thaw count) s) (Keeps [.out, .sys, .bell, .tick, .fold, .pwr, .pins, .flock, .acc, .integ] s))
    -- THAW_DONE (R571)
    ∧ (∀ (s : State), Ends (exec .thawDone s) (Keeps [.out, .sys, .rings, .sess, .pwr, .aux, .pins, .cli, .flock, .lane] s))
    -- SEASON_SUMMER_READY (R561)
    ∧ (∀ (s : State), Ends (exec .seasonSummerReady s) (Keeps [.out, .sys, .pwr, .aux] s))
    -- AUTUMN_EVALUATE (R562)
    ∧ (∀ (s : State), Ends (exec .autumnEvaluate s) (Keeps [.pwr, .aux] s))
    -- AUTUMN_GATE_GROUP (R562)
    ∧ (∀ (s : State), Ends (exec .autumnGateGroup s) (Keeps [.out, .sys, .pwr, .aux, .flock] s))
    -- FW_SWAP_RESUME (R574)
    ∧ (∀ (s : State), Ends (exec .fwSwapResume s) (fun t => t.pending = s.pending ∧ Touches [.freeCtr, .out, .sys, .staged, .rings, .sess, .bell, .past,
      .fold, .pwr, .aux, .parse, .tm, .flock, .acc, .media, .aud, .vid, .imc] s.start t.dev))
    -- FW_SWAP_TIMEOUT (R574)
    ∧ (∀ (s : State), Ends (exec .fwSwapTimeout s) (fun t => t.pending = s.pending ∧ Touches [.freeCtr, .out, .sys, .staged, .rings, .sess, .bell, .past,
      .pwr, .aux, .parse, .tm, .flock, .acc, .media, .aud, .vid, .imc] s.start t.dev))
    -- CONTROL_CORE_FENCE (R575)
    ∧ (∀ (s : State) core, Ends (exec (.controlCoreFence core) s) (Keeps [.sys, .staged, .aux] s))
    -- REGISTER_READ (R7)
    ∧ (∀ (s : State) addr, Ends (exec (.registerRead addr) s) (Keeps [.out, .sys, .bell, .aux, .parse, .tm, .cli, .flock, .acc, .aud, .vid, .imc, .casc,
      .lane, .drove, .integ] s))
    -- REGISTER_WRITE (R7)
    ∧ (∀ (s : State) addr value, Ends (exec (.registerWrite addr value) s) (Keeps [.out, .sys, .rings, .bell, .pwr, .tm, .cli, .acc, .aud, .imc, .lane,
      .drove, .integ] s))
end

