-- ==== Sys2Proof/Laws/State.lean ====
section
/-! SUPPORT. What each update of the device changes, and that it leaves every other unit as it was. -/

namespace Sys2Proof.Machine

@[simp] theorem onAcc_other (d : Dev) (f : AccState → AccState) :
    (onAcc d f).freeCtr = d.freeCtr ∧ (onAcc d f).out = d.out ∧ (onAcc d f).memOut = d.memOut ∧ (onAcc d f).sys = d.sys ∧ (onAcc d f).bell = d.bell ∧ (onAcc d f).past = d.past ∧ (onAcc d f).fold = d.fold ∧ (onAcc d f).pwr = d.pwr ∧ (onAcc d f).aux = d.aux ∧ (onAcc d f).pins = d.pins ∧ (onAcc d f).parse = d.parse ∧ (onAcc d f).tm = d.tm ∧ (onAcc d f).cli = d.cli ∧ (onAcc d f).flock = d.flock ∧ (onAcc d f).media = d.media ∧ (onAcc d f).aud = d.aud ∧ (onAcc d f).vid = d.vid ∧ (onAcc d f).imc = d.imc ∧ (onAcc d f).casc = d.casc ∧ (onAcc d f).lane = d.lane ∧ (onAcc d f).drove = d.drove ∧ (onAcc d f).integ = d.integ := by
  and_intros <;> rfl

@[simp] theorem onAcc_acc (d : Dev) (f : AccState → AccState) : (onAcc d f).acc = f d.acc := rfl

@[simp] theorem onSlice_other (d : Dev) (n : Nat) (f : Slice → Slice) :
    (onSlice d n f).freeCtr = d.freeCtr ∧ (onSlice d n f).out = d.out ∧ (onSlice d n f).memOut = d.memOut ∧ (onSlice d n f).sys = d.sys ∧ (onSlice d n f).bell = d.bell ∧ (onSlice d n f).past = d.past ∧ (onSlice d n f).fold = d.fold ∧ (onSlice d n f).pwr = d.pwr ∧ (onSlice d n f).aux = d.aux ∧ (onSlice d n f).pins = d.pins ∧ (onSlice d n f).parse = d.parse ∧ (onSlice d n f).tm = d.tm ∧ (onSlice d n f).cli = d.cli ∧ (onSlice d n f).flock = d.flock ∧ (onSlice d n f).media = d.media ∧ (onSlice d n f).aud = d.aud ∧ (onSlice d n f).vid = d.vid ∧ (onSlice d n f).imc = d.imc ∧ (onSlice d n f).casc = d.casc ∧ (onSlice d n f).lane = d.lane ∧ (onSlice d n f).drove = d.drove ∧ (onSlice d n f).integ = d.integ := by
  and_intros <;> rfl

@[simp] theorem onSlice_acc (d : Dev) (n : Nat) (f : Slice → Slice) : (onSlice d n f).acc = (onAcc d (fun a => { a with slices := tupd a.slices n Slice.reset f })).acc := rfl

@[simp] theorem onBond_other (d : Dev) (f : BondState → BondState) :
    (onBond d f).freeCtr = d.freeCtr ∧ (onBond d f).out = d.out ∧ (onBond d f).memOut = d.memOut ∧ (onBond d f).sys = d.sys ∧ (onBond d f).bell = d.bell ∧ (onBond d f).past = d.past ∧ (onBond d f).fold = d.fold ∧ (onBond d f).pwr = d.pwr ∧ (onBond d f).aux = d.aux ∧ (onBond d f).pins = d.pins ∧ (onBond d f).parse = d.parse ∧ (onBond d f).tm = d.tm ∧ (onBond d f).cli = d.cli ∧ (onBond d f).flock = d.flock ∧ (onBond d f).media = d.media ∧ (onBond d f).aud = d.aud ∧ (onBond d f).vid = d.vid ∧ (onBond d f).imc = d.imc ∧ (onBond d f).casc = d.casc ∧ (onBond d f).lane = d.lane ∧ (onBond d f).drove = d.drove ∧ (onBond d f).integ = d.integ := by
  and_intros <;> rfl

@[simp] theorem onBond_acc (d : Dev) (f : BondState → BondState) : (onBond d f).acc = (onAcc d (fun a => { a with bond := f a.bond })).acc := rfl

@[simp] theorem onLock_other (d : Dev) (f : LockState → LockState) :
    (onLock d f).freeCtr = d.freeCtr ∧ (onLock d f).out = d.out ∧ (onLock d f).memOut = d.memOut ∧ (onLock d f).sys = d.sys ∧ (onLock d f).past = d.past ∧ (onLock d f).fold = d.fold ∧ (onLock d f).pwr = d.pwr ∧ (onLock d f).aux = d.aux ∧ (onLock d f).pins = d.pins ∧ (onLock d f).parse = d.parse ∧ (onLock d f).tm = d.tm ∧ (onLock d f).cli = d.cli ∧ (onLock d f).flock = d.flock ∧ (onLock d f).acc = d.acc ∧ (onLock d f).media = d.media ∧ (onLock d f).aud = d.aud ∧ (onLock d f).vid = d.vid ∧ (onLock d f).imc = d.imc ∧ (onLock d f).casc = d.casc ∧ (onLock d f).lane = d.lane ∧ (onLock d f).drove = d.drove ∧ (onLock d f).integ = d.integ := by
  and_intros <;> rfl

@[simp] theorem onLock_bell (d : Dev) (f : LockState → LockState) : (onLock d f).bell = (onBell d (fun b => { b with lock := f b.lock })).bell := rfl

@[simp] theorem onTime_other (d : Dev) (f : TimeState → TimeState) :
    (onTime d f).freeCtr = d.freeCtr ∧ (onTime d f).out = d.out ∧ (onTime d f).memOut = d.memOut ∧ (onTime d f).sys = d.sys ∧ (onTime d f).past = d.past ∧ (onTime d f).fold = d.fold ∧ (onTime d f).pwr = d.pwr ∧ (onTime d f).aux = d.aux ∧ (onTime d f).pins = d.pins ∧ (onTime d f).parse = d.parse ∧ (onTime d f).tm = d.tm ∧ (onTime d f).cli = d.cli ∧ (onTime d f).flock = d.flock ∧ (onTime d f).acc = d.acc ∧ (onTime d f).media = d.media ∧ (onTime d f).aud = d.aud ∧ (onTime d f).vid = d.vid ∧ (onTime d f).imc = d.imc ∧ (onTime d f).casc = d.casc ∧ (onTime d f).lane = d.lane ∧ (onTime d f).drove = d.drove ∧ (onTime d f).integ = d.integ := by
  and_intros <;> rfl

@[simp] theorem onTime_bell (d : Dev) (f : TimeState → TimeState) : (onTime d f).bell = (onBell d (fun b => { b with time := f b.time })).bell := rfl

@[simp] theorem onErr_other (d : Dev) (f : ErrState → ErrState) :
    (onErr d f).freeCtr = d.freeCtr ∧ (onErr d f).out = d.out ∧ (onErr d f).memOut = d.memOut ∧ (onErr d f).sys = d.sys ∧ (onErr d f).past = d.past ∧ (onErr d f).fold = d.fold ∧ (onErr d f).pwr = d.pwr ∧ (onErr d f).aux = d.aux ∧ (onErr d f).pins = d.pins ∧ (onErr d f).parse = d.parse ∧ (onErr d f).tm = d.tm ∧ (onErr d f).cli = d.cli ∧ (onErr d f).flock = d.flock ∧ (onErr d f).acc = d.acc ∧ (onErr d f).media = d.media ∧ (onErr d f).aud = d.aud ∧ (onErr d f).vid = d.vid ∧ (onErr d f).imc = d.imc ∧ (onErr d f).casc = d.casc ∧ (onErr d f).lane = d.lane ∧ (onErr d f).drove = d.drove ∧ (onErr d f).integ = d.integ := by
  and_intros <;> rfl

@[simp] theorem onErr_bell (d : Dev) (f : ErrState → ErrState) : (onErr d f).bell = (onBell d (fun b => { b with err := f b.err })).bell := rfl

@[simp] theorem onSleep_other (d : Dev) (f : SleepState → SleepState) :
    (onSleep d f).freeCtr = d.freeCtr ∧ (onSleep d f).out = d.out ∧ (onSleep d f).memOut = d.memOut ∧ (onSleep d f).sys = d.sys ∧ (onSleep d f).past = d.past ∧ (onSleep d f).fold = d.fold ∧ (onSleep d f).pwr = d.pwr ∧ (onSleep d f).aux = d.aux ∧ (onSleep d f).pins = d.pins ∧ (onSleep d f).parse = d.parse ∧ (onSleep d f).tm = d.tm ∧ (onSleep d f).cli = d.cli ∧ (onSleep d f).flock = d.flock ∧ (onSleep d f).acc = d.acc ∧ (onSleep d f).media = d.media ∧ (onSleep d f).aud = d.aud ∧ (onSleep d f).vid = d.vid ∧ (onSleep d f).imc = d.imc ∧ (onSleep d f).casc = d.casc ∧ (onSleep d f).lane = d.lane ∧ (onSleep d f).drove = d.drove ∧ (onSleep d f).integ = d.integ := by
  and_intros <;> rfl

@[simp] theorem onSleep_bell (d : Dev) (f : SleepState → SleepState) : (onSleep d f).bell = (onBell d (fun b => { b with sleep := f b.sleep })).bell := rfl

@[simp] theorem onSucc_other (d : Dev) (f : SuccState → SuccState) :
    (onSucc d f).freeCtr = d.freeCtr ∧ (onSucc d f).out = d.out ∧ (onSucc d f).memOut = d.memOut ∧ (onSucc d f).sys = d.sys ∧ (onSucc d f).past = d.past ∧ (onSucc d f).fold = d.fold ∧ (onSucc d f).pwr = d.pwr ∧ (onSucc d f).aux = d.aux ∧ (onSucc d f).pins = d.pins ∧ (onSucc d f).parse = d.parse ∧ (onSucc d f).tm = d.tm ∧ (onSucc d f).cli = d.cli ∧ (onSucc d f).flock = d.flock ∧ (onSucc d f).acc = d.acc ∧ (onSucc d f).media = d.media ∧ (onSucc d f).aud = d.aud ∧ (onSucc d f).vid = d.vid ∧ (onSucc d f).imc = d.imc ∧ (onSucc d f).casc = d.casc ∧ (onSucc d f).lane = d.lane ∧ (onSucc d f).drove = d.drove ∧ (onSucc d f).integ = d.integ := by
  and_intros <;> rfl

@[simp] theorem onSucc_bell (d : Dev) (f : SuccState → SuccState) : (onSucc d f).bell = (onBell d (fun b => { b with succ := f b.succ })).bell := rfl

@[simp] theorem onMedia_other (d : Dev) (f : MediaState → MediaState) :
    (onMedia d f).freeCtr = d.freeCtr ∧ (onMedia d f).out = d.out ∧ (onMedia d f).memOut = d.memOut ∧ (onMedia d f).sys = d.sys ∧ (onMedia d f).bell = d.bell ∧ (onMedia d f).past = d.past ∧ (onMedia d f).fold = d.fold ∧ (onMedia d f).pwr = d.pwr ∧ (onMedia d f).aux = d.aux ∧ (onMedia d f).pins = d.pins ∧ (onMedia d f).parse = d.parse ∧ (onMedia d f).tm = d.tm ∧ (onMedia d f).cli = d.cli ∧ (onMedia d f).flock = d.flock ∧ (onMedia d f).acc = d.acc ∧ (onMedia d f).aud = d.aud ∧ (onMedia d f).vid = d.vid ∧ (onMedia d f).imc = d.imc ∧ (onMedia d f).casc = d.casc ∧ (onMedia d f).lane = d.lane ∧ (onMedia d f).drove = d.drove ∧ (onMedia d f).integ = d.integ := by
  and_intros <;> rfl

@[simp] theorem onMedia_media (d : Dev) (f : MediaState → MediaState) : (onMedia d f).media = f d.media := rfl

@[simp] theorem onAud_other (d : Dev) (f : AudState → AudState) :
    (onAud d f).freeCtr = d.freeCtr ∧ (onAud d f).out = d.out ∧ (onAud d f).memOut = d.memOut ∧ (onAud d f).sys = d.sys ∧ (onAud d f).bell = d.bell ∧ (onAud d f).past = d.past ∧ (onAud d f).fold = d.fold ∧ (onAud d f).pwr = d.pwr ∧ (onAud d f).aux = d.aux ∧ (onAud d f).pins = d.pins ∧ (onAud d f).parse = d.parse ∧ (onAud d f).tm = d.tm ∧ (onAud d f).cli = d.cli ∧ (onAud d f).flock = d.flock ∧ (onAud d f).acc = d.acc ∧ (onAud d f).media = d.media ∧ (onAud d f).vid = d.vid ∧ (onAud d f).imc = d.imc ∧ (onAud d f).casc = d.casc ∧ (onAud d f).lane = d.lane ∧ (onAud d f).drove = d.drove ∧ (onAud d f).integ = d.integ := by
  and_intros <;> rfl

@[simp] theorem onAud_aud (d : Dev) (f : AudState → AudState) : (onAud d f).aud = f d.aud := rfl

@[simp] theorem onVid_other (d : Dev) (f : VidState → VidState) :
    (onVid d f).freeCtr = d.freeCtr ∧ (onVid d f).out = d.out ∧ (onVid d f).memOut = d.memOut ∧ (onVid d f).sys = d.sys ∧ (onVid d f).bell = d.bell ∧ (onVid d f).past = d.past ∧ (onVid d f).fold = d.fold ∧ (onVid d f).pwr = d.pwr ∧ (onVid d f).aux = d.aux ∧ (onVid d f).pins = d.pins ∧ (onVid d f).parse = d.parse ∧ (onVid d f).tm = d.tm ∧ (onVid d f).cli = d.cli ∧ (onVid d f).flock = d.flock ∧ (onVid d f).acc = d.acc ∧ (onVid d f).media = d.media ∧ (onVid d f).aud = d.aud ∧ (onVid d f).imc = d.imc ∧ (onVid d f).casc = d.casc ∧ (onVid d f).lane = d.lane ∧ (onVid d f).drove = d.drove ∧ (onVid d f).integ = d.integ := by
  and_intros <;> rfl

@[simp] theorem onVid_vid (d : Dev) (f : VidState → VidState) : (onVid d f).vid = f d.vid := rfl

@[simp] theorem onImc_other (d : Dev) (f : ImcState → ImcState) :
    (onImc d f).freeCtr = d.freeCtr ∧ (onImc d f).out = d.out ∧ (onImc d f).memOut = d.memOut ∧ (onImc d f).sys = d.sys ∧ (onImc d f).bell = d.bell ∧ (onImc d f).past = d.past ∧ (onImc d f).fold = d.fold ∧ (onImc d f).pwr = d.pwr ∧ (onImc d f).aux = d.aux ∧ (onImc d f).pins = d.pins ∧ (onImc d f).parse = d.parse ∧ (onImc d f).tm = d.tm ∧ (onImc d f).cli = d.cli ∧ (onImc d f).flock = d.flock ∧ (onImc d f).acc = d.acc ∧ (onImc d f).media = d.media ∧ (onImc d f).aud = d.aud ∧ (onImc d f).vid = d.vid ∧ (onImc d f).casc = d.casc ∧ (onImc d f).lane = d.lane ∧ (onImc d f).drove = d.drove ∧ (onImc d f).integ = d.integ := by
  and_intros <;> rfl

@[simp] theorem onImc_imc (d : Dev) (f : ImcState → ImcState) : (onImc d f).imc = f d.imc := rfl

@[simp] theorem onFlock_other (d : Dev) (f : FlockState → FlockState) :
    (onFlock d f).freeCtr = d.freeCtr ∧ (onFlock d f).out = d.out ∧ (onFlock d f).memOut = d.memOut ∧ (onFlock d f).sys = d.sys ∧ (onFlock d f).bell = d.bell ∧ (onFlock d f).past = d.past ∧ (onFlock d f).fold = d.fold ∧ (onFlock d f).pwr = d.pwr ∧ (onFlock d f).aux = d.aux ∧ (onFlock d f).pins = d.pins ∧ (onFlock d f).parse = d.parse ∧ (onFlock d f).tm = d.tm ∧ (onFlock d f).cli = d.cli ∧ (onFlock d f).acc = d.acc ∧ (onFlock d f).media = d.media ∧ (onFlock d f).aud = d.aud ∧ (onFlock d f).vid = d.vid ∧ (onFlock d f).imc = d.imc ∧ (onFlock d f).casc = d.casc ∧ (onFlock d f).lane = d.lane ∧ (onFlock d f).drove = d.drove ∧ (onFlock d f).integ = d.integ := by
  and_intros <;> rfl

@[simp] theorem onFlock_flock (d : Dev) (f : FlockState → FlockState) : (onFlock d f).flock = f d.flock := rfl

@[simp] theorem onEng_other (d : Dev) (n : Nat) (f : Eng → Eng) :
    (onEng d n f).freeCtr = d.freeCtr ∧ (onEng d n f).out = d.out ∧ (onEng d n f).memOut = d.memOut ∧ (onEng d n f).sys = d.sys ∧ (onEng d n f).bell = d.bell ∧ (onEng d n f).past = d.past ∧ (onEng d n f).fold = d.fold ∧ (onEng d n f).pwr = d.pwr ∧ (onEng d n f).aux = d.aux ∧ (onEng d n f).pins = d.pins ∧ (onEng d n f).parse = d.parse ∧ (onEng d n f).tm = d.tm ∧ (onEng d n f).cli = d.cli ∧ (onEng d n f).acc = d.acc ∧ (onEng d n f).media = d.media ∧ (onEng d n f).aud = d.aud ∧ (onEng d n f).vid = d.vid ∧ (onEng d n f).imc = d.imc ∧ (onEng d n f).casc = d.casc ∧ (onEng d n f).lane = d.lane ∧ (onEng d n f).drove = d.drove ∧ (onEng d n f).integ = d.integ := by
  and_intros <;> rfl

@[simp] theorem onEng_flock (d : Dev) (n : Nat) (f : Eng → Eng) : (onEng d n f).flock = (onFlock d (fun x => { x with engs := tupd x.engs n (Eng.reset n) f })).flock := rfl

@[simp] theorem onFGroup_other (d : Dev) (g : Nat) (f : FGroup → FGroup) :
    (onFGroup d g f).freeCtr = d.freeCtr ∧ (onFGroup d g f).out = d.out ∧ (onFGroup d g f).memOut = d.memOut ∧ (onFGroup d g f).sys = d.sys ∧ (onFGroup d g f).bell = d.bell ∧ (onFGroup d g f).past = d.past ∧ (onFGroup d g f).fold = d.fold ∧ (onFGroup d g f).pwr = d.pwr ∧ (onFGroup d g f).aux = d.aux ∧ (onFGroup d g f).pins = d.pins ∧ (onFGroup d g f).parse = d.parse ∧ (onFGroup d g f).tm = d.tm ∧ (onFGroup d g f).cli = d.cli ∧ (onFGroup d g f).acc = d.acc ∧ (onFGroup d g f).media = d.media ∧ (onFGroup d g f).aud = d.aud ∧ (onFGroup d g f).vid = d.vid ∧ (onFGroup d g f).imc = d.imc ∧ (onFGroup d g f).casc = d.casc ∧ (onFGroup d g f).lane = d.lane ∧ (onFGroup d g f).drove = d.drove ∧ (onFGroup d g f).integ = d.integ := by
  and_intros <;> rfl

@[simp] theorem onFGroup_flock (d : Dev) (g : Nat) (f : FGroup → FGroup) : (onFGroup d g f).flock = (onFlock d (fun x => { x with groups := tupd x.groups g FGroup.reset f })).flock := rfl

@[simp] theorem onLeg_other (d : Dev) (n : Nat) (f : Leg → Leg) :
    (onLeg d n f).freeCtr = d.freeCtr ∧ (onLeg d n f).out = d.out ∧ (onLeg d n f).memOut = d.memOut ∧ (onLeg d n f).sys = d.sys ∧ (onLeg d n f).bell = d.bell ∧ (onLeg d n f).past = d.past ∧ (onLeg d n f).fold = d.fold ∧ (onLeg d n f).pwr = d.pwr ∧ (onLeg d n f).aux = d.aux ∧ (onLeg d n f).pins = d.pins ∧ (onLeg d n f).parse = d.parse ∧ (onLeg d n f).tm = d.tm ∧ (onLeg d n f).cli = d.cli ∧ (onLeg d n f).flock = d.flock ∧ (onLeg d n f).acc = d.acc ∧ (onLeg d n f).aud = d.aud ∧ (onLeg d n f).vid = d.vid ∧ (onLeg d n f).imc = d.imc ∧ (onLeg d n f).casc = d.casc ∧ (onLeg d n f).lane = d.lane ∧ (onLeg d n f).drove = d.drove ∧ (onLeg d n f).integ = d.integ := by
  and_intros <;> rfl

@[simp] theorem onLeg_media (d : Dev) (n : Nat) (f : Leg → Leg) : (onLeg d n f).media = (onMedia d (fun m => { m with legs := tmod m.legs n f })).media := rfl

@[simp] theorem onConf_other (d : Dev) (n : Nat) (f : Conf → Conf) :
    (onConf d n f).freeCtr = d.freeCtr ∧ (onConf d n f).out = d.out ∧ (onConf d n f).memOut = d.memOut ∧ (onConf d n f).sys = d.sys ∧ (onConf d n f).bell = d.bell ∧ (onConf d n f).past = d.past ∧ (onConf d n f).fold = d.fold ∧ (onConf d n f).pwr = d.pwr ∧ (onConf d n f).aux = d.aux ∧ (onConf d n f).pins = d.pins ∧ (onConf d n f).parse = d.parse ∧ (onConf d n f).tm = d.tm ∧ (onConf d n f).cli = d.cli ∧ (onConf d n f).flock = d.flock ∧ (onConf d n f).acc = d.acc ∧ (onConf d n f).aud = d.aud ∧ (onConf d n f).vid = d.vid ∧ (onConf d n f).imc = d.imc ∧ (onConf d n f).casc = d.casc ∧ (onConf d n f).lane = d.lane ∧ (onConf d n f).drove = d.drove ∧ (onConf d n f).integ = d.integ := by
  and_intros <;> rfl

@[simp] theorem onConf_media (d : Dev) (n : Nat) (f : Conf → Conf) : (onConf d n f).media = (onMedia d (fun m => { m with confs := tmod m.confs n f })).media := rfl

@[simp] theorem onRoute_other (d : Dev) (n : Nat) (f : Route → Route) :
    (onRoute d n f).freeCtr = d.freeCtr ∧ (onRoute d n f).out = d.out ∧ (onRoute d n f).memOut = d.memOut ∧ (onRoute d n f).sys = d.sys ∧ (onRoute d n f).bell = d.bell ∧ (onRoute d n f).past = d.past ∧ (onRoute d n f).fold = d.fold ∧ (onRoute d n f).pwr = d.pwr ∧ (onRoute d n f).aux = d.aux ∧ (onRoute d n f).pins = d.pins ∧ (onRoute d n f).parse = d.parse ∧ (onRoute d n f).tm = d.tm ∧ (onRoute d n f).cli = d.cli ∧ (onRoute d n f).flock = d.flock ∧ (onRoute d n f).acc = d.acc ∧ (onRoute d n f).media = d.media ∧ (onRoute d n f).vid = d.vid ∧ (onRoute d n f).imc = d.imc ∧ (onRoute d n f).casc = d.casc ∧ (onRoute d n f).lane = d.lane ∧ (onRoute d n f).drove = d.drove ∧ (onRoute d n f).integ = d.integ := by
  and_intros <;> rfl

@[simp] theorem onRoute_aud (d : Dev) (n : Nat) (f : Route → Route) : (onRoute d n f).aud = (onAud d (fun a => { a with routes := tmod a.routes n f })).aud := rfl

@[simp] theorem onTrunk_other (d : Dev) (n : Nat) (f : Trunk → Trunk) :
    (onTrunk d n f).freeCtr = d.freeCtr ∧ (onTrunk d n f).out = d.out ∧ (onTrunk d n f).memOut = d.memOut ∧ (onTrunk d n f).sys = d.sys ∧ (onTrunk d n f).bell = d.bell ∧ (onTrunk d n f).past = d.past ∧ (onTrunk d n f).fold = d.fold ∧ (onTrunk d n f).pwr = d.pwr ∧ (onTrunk d n f).aux = d.aux ∧ (onTrunk d n f).pins = d.pins ∧ (onTrunk d n f).parse = d.parse ∧ (onTrunk d n f).tm = d.tm ∧ (onTrunk d n f).cli = d.cli ∧ (onTrunk d n f).flock = d.flock ∧ (onTrunk d n f).acc = d.acc ∧ (onTrunk d n f).media = d.media ∧ (onTrunk d n f).aud = d.aud ∧ (onTrunk d n f).vid = d.vid ∧ (onTrunk d n f).casc = d.casc ∧ (onTrunk d n f).lane = d.lane ∧ (onTrunk d n f).drove = d.drove ∧ (onTrunk d n f).integ = d.integ := by
  and_intros <;> rfl

@[simp] theorem onTrunk_imc (d : Dev) (n : Nat) (f : Trunk → Trunk) : (onTrunk d n f).imc = (onImc d (fun i => { i with trunks := tmod i.trunks n f })).imc := rfl

@[simp] theorem onChan_other (d : Dev) (c : Nat) (f : Chan → Chan) :
    (onChan d c f).freeCtr = d.freeCtr ∧ (onChan d c f).out = d.out ∧ (onChan d c f).memOut = d.memOut ∧ (onChan d c f).sys = d.sys ∧ (onChan d c f).bell = d.bell ∧ (onChan d c f).past = d.past ∧ (onChan d c f).fold = d.fold ∧ (onChan d c f).pwr = d.pwr ∧ (onChan d c f).aux = d.aux ∧ (onChan d c f).pins = d.pins ∧ (onChan d c f).parse = d.parse ∧ (onChan d c f).tm = d.tm ∧ (onChan d c f).cli = d.cli ∧ (onChan d c f).flock = d.flock ∧ (onChan d c f).acc = d.acc ∧ (onChan d c f).media = d.media ∧ (onChan d c f).aud = d.aud ∧ (onChan d c f).vid = d.vid ∧ (onChan d c f).imc = d.imc ∧ (onChan d c f).casc = d.casc ∧ (onChan d c f).lane = d.lane ∧ (onChan d c f).integ = d.integ := by
  and_intros <;> rfl

@[simp] theorem onChan_drove (d : Dev) (c : Nat) (f : Chan → Chan) : (onChan d c f).drove = (onDrove d (fun x => { x with chans := tupd x.chans c Chan.reset f })).drove := rfl

@[simp] theorem onInteg_other (d : Dev) (f : IntegState → IntegState) :
    (onInteg d f).freeCtr = d.freeCtr ∧ (onInteg d f).out = d.out ∧ (onInteg d f).memOut = d.memOut ∧ (onInteg d f).sys = d.sys ∧ (onInteg d f).bell = d.bell ∧ (onInteg d f).past = d.past ∧ (onInteg d f).fold = d.fold ∧ (onInteg d f).pwr = d.pwr ∧ (onInteg d f).aux = d.aux ∧ (onInteg d f).pins = d.pins ∧ (onInteg d f).parse = d.parse ∧ (onInteg d f).tm = d.tm ∧ (onInteg d f).cli = d.cli ∧ (onInteg d f).flock = d.flock ∧ (onInteg d f).acc = d.acc ∧ (onInteg d f).media = d.media ∧ (onInteg d f).aud = d.aud ∧ (onInteg d f).vid = d.vid ∧ (onInteg d f).imc = d.imc ∧ (onInteg d f).casc = d.casc ∧ (onInteg d f).lane = d.lane ∧ (onInteg d f).drove = d.drove := by
  and_intros <;> rfl

@[simp] theorem onInteg_integ (d : Dev) (f : IntegState → IntegState) : (onInteg d f).integ = f d.integ := rfl

@[simp] theorem onIntClass_other (d : Dev) (k : Nat) (f : IntClass → IntClass) :
    (onIntClass d k f).freeCtr = d.freeCtr ∧ (onIntClass d k f).out = d.out ∧ (onIntClass d k f).memOut = d.memOut ∧ (onIntClass d k f).sys = d.sys ∧ (onIntClass d k f).bell = d.bell ∧ (onIntClass d k f).past = d.past ∧ (onIntClass d k f).fold = d.fold ∧ (onIntClass d k f).pwr = d.pwr ∧ (onIntClass d k f).aux = d.aux ∧ (onIntClass d k f).pins = d.pins ∧ (onIntClass d k f).parse = d.parse ∧ (onIntClass d k f).tm = d.tm ∧ (onIntClass d k f).cli = d.cli ∧ (onIntClass d k f).flock = d.flock ∧ (onIntClass d k f).acc = d.acc ∧ (onIntClass d k f).media = d.media ∧ (onIntClass d k f).aud = d.aud ∧ (onIntClass d k f).vid = d.vid ∧ (onIntClass d k f).imc = d.imc ∧ (onIntClass d k f).casc = d.casc ∧ (onIntClass d k f).lane = d.lane ∧ (onIntClass d k f).drove = d.drove := by
  and_intros <;> rfl

@[simp] theorem onIntClass_integ (d : Dev) (k : Nat) (f : IntClass → IntClass) : (onIntClass d k f).integ = (onInteg d (fun i => { i with classes := tupd i.classes k IntClass.reset f })).integ := rfl

@[simp] theorem onStack_other (d : Dev) (s : Nat) (f : StackRows → StackRows) :
    (onStack d s f).freeCtr = d.freeCtr ∧ (onStack d s f).out = d.out ∧ (onStack d s f).memOut = d.memOut ∧ (onStack d s f).sys = d.sys ∧ (onStack d s f).bell = d.bell ∧ (onStack d s f).past = d.past ∧ (onStack d s f).fold = d.fold ∧ (onStack d s f).pwr = d.pwr ∧ (onStack d s f).aux = d.aux ∧ (onStack d s f).pins = d.pins ∧ (onStack d s f).parse = d.parse ∧ (onStack d s f).tm = d.tm ∧ (onStack d s f).cli = d.cli ∧ (onStack d s f).flock = d.flock ∧ (onStack d s f).acc = d.acc ∧ (onStack d s f).media = d.media ∧ (onStack d s f).aud = d.aud ∧ (onStack d s f).vid = d.vid ∧ (onStack d s f).imc = d.imc ∧ (onStack d s f).casc = d.casc ∧ (onStack d s f).lane = d.lane ∧ (onStack d s f).drove = d.drove := by
  and_intros <;> rfl

@[simp] theorem onStack_integ (d : Dev) (s : Nat) (f : StackRows → StackRows) : (onStack d s f).integ = (onInteg d (fun i => { i with rowMap := tupd i.rowMap s StackRows.reset f })).integ := rfl

@[simp] theorem onCore_other (d : Dev) (e : Nat) (f : EngCore → EngCore) :
    (onCore d e f).freeCtr = d.freeCtr ∧ (onCore d e f).out = d.out ∧ (onCore d e f).memOut = d.memOut ∧ (onCore d e f).sys = d.sys ∧ (onCore d e f).bell = d.bell ∧ (onCore d e f).past = d.past ∧ (onCore d e f).fold = d.fold ∧ (onCore d e f).pwr = d.pwr ∧ (onCore d e f).aux = d.aux ∧ (onCore d e f).pins = d.pins ∧ (onCore d e f).parse = d.parse ∧ (onCore d e f).tm = d.tm ∧ (onCore d e f).cli = d.cli ∧ (onCore d e f).acc = d.acc ∧ (onCore d e f).media = d.media ∧ (onCore d e f).aud = d.aud ∧ (onCore d e f).vid = d.vid ∧ (onCore d e f).imc = d.imc ∧ (onCore d e f).casc = d.casc ∧ (onCore d e f).lane = d.lane ∧ (onCore d e f).drove = d.drove ∧ (onCore d e f).integ = d.integ := by
  and_intros <;> rfl

@[simp] theorem onCore_flock (d : Dev) (e : Nat) (f : EngCore → EngCore) : (onCore d e f).flock = (onEng d e (fun x => { x with core := f x.core })).flock := rfl

@[simp] theorem onOtp_other (d : Dev) (f : OtpState → OtpState) :
    (onOtp d f).freeCtr = d.freeCtr ∧ (onOtp d f).out = d.out ∧ (onOtp d f).memOut = d.memOut ∧ (onOtp d f).sys = d.sys ∧ (onOtp d f).bell = d.bell ∧ (onOtp d f).past = d.past ∧ (onOtp d f).pwr = d.pwr ∧ (onOtp d f).aux = d.aux ∧ (onOtp d f).pins = d.pins ∧ (onOtp d f).parse = d.parse ∧ (onOtp d f).tm = d.tm ∧ (onOtp d f).cli = d.cli ∧ (onOtp d f).flock = d.flock ∧ (onOtp d f).acc = d.acc ∧ (onOtp d f).media = d.media ∧ (onOtp d f).aud = d.aud ∧ (onOtp d f).vid = d.vid ∧ (onOtp d f).imc = d.imc ∧ (onOtp d f).casc = d.casc ∧ (onOtp d f).lane = d.lane ∧ (onOtp d f).drove = d.drove ∧ (onOtp d f).integ = d.integ := by
  and_intros <;> rfl

@[simp] theorem onOtp_fold (d : Dev) (f : OtpState → OtpState) : (onOtp d f).fold = (onFold d (fun x => { x with otp := f x.otp })).fold := rfl

@[simp] theorem onBoot_other (d : Dev) (f : BootState → BootState) :
    (onBoot d f).freeCtr = d.freeCtr ∧ (onBoot d f).out = d.out ∧ (onBoot d f).memOut = d.memOut ∧ (onBoot d f).sys = d.sys ∧ (onBoot d f).bell = d.bell ∧ (onBoot d f).past = d.past ∧ (onBoot d f).pwr = d.pwr ∧ (onBoot d f).aux = d.aux ∧ (onBoot d f).pins = d.pins ∧ (onBoot d f).parse = d.parse ∧ (onBoot d f).tm = d.tm ∧ (onBoot d f).cli = d.cli ∧ (onBoot d f).flock = d.flock ∧ (onBoot d f).acc = d.acc ∧ (onBoot d f).media = d.media ∧ (onBoot d f).aud = d.aud ∧ (onBoot d f).vid = d.vid ∧ (onBoot d f).imc = d.imc ∧ (onBoot d f).casc = d.casc ∧ (onBoot d f).lane = d.lane ∧ (onBoot d f).drove = d.drove ∧ (onBoot d f).integ = d.integ := by
  and_intros <;> rfl

@[simp] theorem onBoot_fold (d : Dev) (f : BootState → BootState) : (onBoot d f).fold = (onFold d (fun x => { x with boot := f x.boot })).fold := rfl

@[simp] theorem onSa_other (d : Dev) (h : Nat) (f : Sa → Sa) :
    (onSa d h f).freeCtr = d.freeCtr ∧ (onSa d h f).out = d.out ∧ (onSa d h f).memOut = d.memOut ∧ (onSa d h f).sys = d.sys ∧ (onSa d h f).bell = d.bell ∧ (onSa d h f).past = d.past ∧ (onSa d h f).pwr = d.pwr ∧ (onSa d h f).aux = d.aux ∧ (onSa d h f).pins = d.pins ∧ (onSa d h f).parse = d.parse ∧ (onSa d h f).tm = d.tm ∧ (onSa d h f).cli = d.cli ∧ (onSa d h f).flock = d.flock ∧ (onSa d h f).acc = d.acc ∧ (onSa d h f).media = d.media ∧ (onSa d h f).aud = d.aud ∧ (onSa d h f).vid = d.vid ∧ (onSa d h f).imc = d.imc ∧ (onSa d h f).casc = d.casc ∧ (onSa d h f).lane = d.lane ∧ (onSa d h f).drove = d.drove ∧ (onSa d h f).integ = d.integ := by
  and_intros <;> rfl

@[simp] theorem onSa_fold (d : Dev) (h : Nat) (f : Sa → Sa) : (onSa d h f).fold = (onFold d (fun x => { x with sas := tmod x.sas h f })).fold := rfl

@[simp] theorem onPort_other (d : Dev) (p : Nat) (f : CliPort → CliPort) :
    (onPort d p f).freeCtr = d.freeCtr ∧ (onPort d p f).out = d.out ∧ (onPort d p f).memOut = d.memOut ∧ (onPort d p f).sys = d.sys ∧ (onPort d p f).bell = d.bell ∧ (onPort d p f).past = d.past ∧ (onPort d p f).fold = d.fold ∧ (onPort d p f).pwr = d.pwr ∧ (onPort d p f).aux = d.aux ∧ (onPort d p f).pins = d.pins ∧ (onPort d p f).parse = d.parse ∧ (onPort d p f).tm = d.tm ∧ (onPort d p f).flock = d.flock ∧ (onPort d p f).acc = d.acc ∧ (onPort d p f).media = d.media ∧ (onPort d p f).aud = d.aud ∧ (onPort d p f).vid = d.vid ∧ (onPort d p f).imc = d.imc ∧ (onPort d p f).casc = d.casc ∧ (onPort d p f).lane = d.lane ∧ (onPort d p f).drove = d.drove ∧ (onPort d p f).integ = d.integ := by
  and_intros <;> rfl

@[simp] theorem onPort_cli (d : Dev) (p : Nat) (f : CliPort → CliPort) : (onPort d p f).cli = { d.cli with ports := tupd d.cli.ports p CliPort.reset f } := rfl

@[simp] theorem onCv_other (d : Dev) (u : Nat) (f : CvUnit → CvUnit) :
    (onCv d u f).freeCtr = d.freeCtr ∧ (onCv d u f).out = d.out ∧ (onCv d u f).memOut = d.memOut ∧ (onCv d u f).sys = d.sys ∧ (onCv d u f).bell = d.bell ∧ (onCv d u f).past = d.past ∧ (onCv d u f).fold = d.fold ∧ (onCv d u f).pwr = d.pwr ∧ (onCv d u f).aux = d.aux ∧ (onCv d u f).pins = d.pins ∧ (onCv d u f).parse = d.parse ∧ (onCv d u f).tm = d.tm ∧ (onCv d u f).cli = d.cli ∧ (onCv d u f).flock = d.flock ∧ (onCv d u f).acc = d.acc ∧ (onCv d u f).media = d.media ∧ (onCv d u f).aud = d.aud ∧ (onCv d u f).vid = d.vid ∧ (onCv d u f).imc = d.imc ∧ (onCv d u f).casc = d.casc ∧ (onCv d u f).lane = d.lane ∧ (onCv d u f).drove = d.drove := by
  and_intros <;> rfl

@[simp] theorem onCv_integ (d : Dev) (u : Nat) (f : CvUnit → CvUnit) : (onCv d u f).integ = (onInteg d (fun i => { i with cv := tupd i.cv u CvUnit.reset f })).integ := rfl

@[simp] theorem onLane_other (d : Dev) (n : Nat) (f : Lane → Lane) :
    (onLane d n f).freeCtr = d.freeCtr ∧ (onLane d n f).out = d.out ∧ (onLane d n f).memOut = d.memOut ∧ (onLane d n f).sys = d.sys ∧ (onLane d n f).bell = d.bell ∧ (onLane d n f).past = d.past ∧ (onLane d n f).fold = d.fold ∧ (onLane d n f).pwr = d.pwr ∧ (onLane d n f).aux = d.aux ∧ (onLane d n f).pins = d.pins ∧ (onLane d n f).parse = d.parse ∧ (onLane d n f).tm = d.tm ∧ (onLane d n f).cli = d.cli ∧ (onLane d n f).flock = d.flock ∧ (onLane d n f).acc = d.acc ∧ (onLane d n f).media = d.media ∧ (onLane d n f).aud = d.aud ∧ (onLane d n f).vid = d.vid ∧ (onLane d n f).imc = d.imc ∧ (onLane d n f).casc = d.casc ∧ (onLane d n f).drove = d.drove ∧ (onLane d n f).integ = d.integ := by
  and_intros <;> rfl

@[simp] theorem onLane_lane (d : Dev) (n : Nat) (f : Lane → Lane) : (onLane d n f).lane = (onLanes d (fun x => { x with lanes := tupd x.lanes n Lane.reset f })).lane := rfl

@[simp] theorem onGroupL_other (d : Dev) (g : Nat) (f : LaneGroup → LaneGroup) :
    (onGroupL d g f).freeCtr = d.freeCtr ∧ (onGroupL d g f).out = d.out ∧ (onGroupL d g f).memOut = d.memOut ∧ (onGroupL d g f).sys = d.sys ∧ (onGroupL d g f).bell = d.bell ∧ (onGroupL d g f).past = d.past ∧ (onGroupL d g f).fold = d.fold ∧ (onGroupL d g f).pwr = d.pwr ∧ (onGroupL d g f).aux = d.aux ∧ (onGroupL d g f).pins = d.pins ∧ (onGroupL d g f).parse = d.parse ∧ (onGroupL d g f).tm = d.tm ∧ (onGroupL d g f).cli = d.cli ∧ (onGroupL d g f).flock = d.flock ∧ (onGroupL d g f).acc = d.acc ∧ (onGroupL d g f).media = d.media ∧ (onGroupL d g f).aud = d.aud ∧ (onGroupL d g f).vid = d.vid ∧ (onGroupL d g f).imc = d.imc ∧ (onGroupL d g f).casc = d.casc ∧ (onGroupL d g f).drove = d.drove ∧ (onGroupL d g f).integ = d.integ := by
  and_intros <;> rfl

@[simp] theorem onGroupL_lane (d : Dev) (g : Nat) (f : LaneGroup → LaneGroup) : (onGroupL d g f).lane = (onLanes d (fun x => { x with groups := tupd x.groups g (LaneGroup.reset g) f })).lane := rfl

@[simp] theorem onFree_other (d : Dev) (f : Nat → Nat) :
    (onFree d f).out = d.out ∧ (onFree d f).memOut = d.memOut ∧ (onFree d f).sys = d.sys ∧ (onFree d f).bell = d.bell ∧ (onFree d f).past = d.past ∧ (onFree d f).fold = d.fold ∧ (onFree d f).pwr = d.pwr ∧ (onFree d f).aux = d.aux ∧ (onFree d f).pins = d.pins ∧ (onFree d f).parse = d.parse ∧ (onFree d f).tm = d.tm ∧ (onFree d f).cli = d.cli ∧ (onFree d f).flock = d.flock ∧ (onFree d f).acc = d.acc ∧ (onFree d f).media = d.media ∧ (onFree d f).aud = d.aud ∧ (onFree d f).vid = d.vid ∧ (onFree d f).imc = d.imc ∧ (onFree d f).casc = d.casc ∧ (onFree d f).lane = d.lane ∧ (onFree d f).drove = d.drove ∧ (onFree d f).integ = d.integ := by
  and_intros <;> rfl

@[simp] theorem onFree_freeCtr (d : Dev) (f : Nat → Nat) : (onFree d f).freeCtr = f d.freeCtr := rfl

@[simp] theorem onSys_other (d : Dev) (f : SysState → SysState) :
    (onSys d f).freeCtr = d.freeCtr ∧ (onSys d f).out = d.out ∧ (onSys d f).memOut = d.memOut ∧ (onSys d f).bell = d.bell ∧ (onSys d f).past = d.past ∧ (onSys d f).fold = d.fold ∧ (onSys d f).pwr = d.pwr ∧ (onSys d f).aux = d.aux ∧ (onSys d f).pins = d.pins ∧ (onSys d f).parse = d.parse ∧ (onSys d f).tm = d.tm ∧ (onSys d f).cli = d.cli ∧ (onSys d f).flock = d.flock ∧ (onSys d f).acc = d.acc ∧ (onSys d f).media = d.media ∧ (onSys d f).aud = d.aud ∧ (onSys d f).vid = d.vid ∧ (onSys d f).imc = d.imc ∧ (onSys d f).casc = d.casc ∧ (onSys d f).lane = d.lane ∧ (onSys d f).drove = d.drove ∧ (onSys d f).integ = d.integ := by
  and_intros <;> rfl

@[simp] theorem onSys_sys (d : Dev) (f : SysState → SysState) : (onSys d f).sys = f d.sys := rfl

@[simp] theorem onInt_other (d : Dev) (f : IntState → IntState) :
    (onInt d f).freeCtr = d.freeCtr ∧ (onInt d f).out = d.out ∧ (onInt d f).memOut = d.memOut ∧ (onInt d f).bell = d.bell ∧ (onInt d f).past = d.past ∧ (onInt d f).fold = d.fold ∧ (onInt d f).pwr = d.pwr ∧ (onInt d f).aux = d.aux ∧ (onInt d f).pins = d.pins ∧ (onInt d f).parse = d.parse ∧ (onInt d f).tm = d.tm ∧ (onInt d f).cli = d.cli ∧ (onInt d f).flock = d.flock ∧ (onInt d f).acc = d.acc ∧ (onInt d f).media = d.media ∧ (onInt d f).aud = d.aud ∧ (onInt d f).vid = d.vid ∧ (onInt d f).imc = d.imc ∧ (onInt d f).casc = d.casc ∧ (onInt d f).lane = d.lane ∧ (onInt d f).drove = d.drove ∧ (onInt d f).integ = d.integ := by
  and_intros <;> rfl

@[simp] theorem onInt_sys (d : Dev) (f : IntState → IntState) : (onInt d f).sys = { d.sys with int := f d.sys.int } := rfl

@[simp] theorem onBell_other (d : Dev) (f : BellState → BellState) :
    (onBell d f).freeCtr = d.freeCtr ∧ (onBell d f).out = d.out ∧ (onBell d f).memOut = d.memOut ∧ (onBell d f).sys = d.sys ∧ (onBell d f).past = d.past ∧ (onBell d f).fold = d.fold ∧ (onBell d f).pwr = d.pwr ∧ (onBell d f).aux = d.aux ∧ (onBell d f).pins = d.pins ∧ (onBell d f).parse = d.parse ∧ (onBell d f).tm = d.tm ∧ (onBell d f).cli = d.cli ∧ (onBell d f).flock = d.flock ∧ (onBell d f).acc = d.acc ∧ (onBell d f).media = d.media ∧ (onBell d f).aud = d.aud ∧ (onBell d f).vid = d.vid ∧ (onBell d f).imc = d.imc ∧ (onBell d f).casc = d.casc ∧ (onBell d f).lane = d.lane ∧ (onBell d f).drove = d.drove ∧ (onBell d f).integ = d.integ := by
  and_intros <;> rfl

@[simp] theorem onBell_bell (d : Dev) (f : BellState → BellState) : (onBell d f).bell = f d.bell := rfl

@[simp] theorem onFold_other (d : Dev) (f : FoldState → FoldState) :
    (onFold d f).freeCtr = d.freeCtr ∧ (onFold d f).out = d.out ∧ (onFold d f).memOut = d.memOut ∧ (onFold d f).sys = d.sys ∧ (onFold d f).bell = d.bell ∧ (onFold d f).past = d.past ∧ (onFold d f).pwr = d.pwr ∧ (onFold d f).aux = d.aux ∧ (onFold d f).pins = d.pins ∧ (onFold d f).parse = d.parse ∧ (onFold d f).tm = d.tm ∧ (onFold d f).cli = d.cli ∧ (onFold d f).flock = d.flock ∧ (onFold d f).acc = d.acc ∧ (onFold d f).media = d.media ∧ (onFold d f).aud = d.aud ∧ (onFold d f).vid = d.vid ∧ (onFold d f).imc = d.imc ∧ (onFold d f).casc = d.casc ∧ (onFold d f).lane = d.lane ∧ (onFold d f).drove = d.drove ∧ (onFold d f).integ = d.integ := by
  and_intros <;> rfl

@[simp] theorem onFold_fold (d : Dev) (f : FoldState → FoldState) : (onFold d f).fold = f d.fold := rfl

@[simp] theorem onGuard_other (d : Dev) (f : GuardState → GuardState) :
    (onGuard d f).freeCtr = d.freeCtr ∧ (onGuard d f).out = d.out ∧ (onGuard d f).memOut = d.memOut ∧ (onGuard d f).sys = d.sys ∧ (onGuard d f).bell = d.bell ∧ (onGuard d f).past = d.past ∧ (onGuard d f).pwr = d.pwr ∧ (onGuard d f).aux = d.aux ∧ (onGuard d f).pins = d.pins ∧ (onGuard d f).parse = d.parse ∧ (onGuard d f).tm = d.tm ∧ (onGuard d f).cli = d.cli ∧ (onGuard d f).flock = d.flock ∧ (onGuard d f).acc = d.acc ∧ (onGuard d f).media = d.media ∧ (onGuard d f).aud = d.aud ∧ (onGuard d f).vid = d.vid ∧ (onGuard d f).imc = d.imc ∧ (onGuard d f).casc = d.casc ∧ (onGuard d f).lane = d.lane ∧ (onGuard d f).drove = d.drove ∧ (onGuard d f).integ = d.integ := by
  and_intros <;> rfl

@[simp] theorem onGuard_fold (d : Dev) (f : GuardState → GuardState) : (onGuard d f).fold = { d.fold with guard := f d.fold.guard } := rfl

@[simp] theorem onPwr_other (d : Dev) (f : PwrState → PwrState) :
    (onPwr d f).freeCtr = d.freeCtr ∧ (onPwr d f).out = d.out ∧ (onPwr d f).memOut = d.memOut ∧ (onPwr d f).sys = d.sys ∧ (onPwr d f).bell = d.bell ∧ (onPwr d f).past = d.past ∧ (onPwr d f).fold = d.fold ∧ (onPwr d f).aux = d.aux ∧ (onPwr d f).pins = d.pins ∧ (onPwr d f).parse = d.parse ∧ (onPwr d f).tm = d.tm ∧ (onPwr d f).cli = d.cli ∧ (onPwr d f).flock = d.flock ∧ (onPwr d f).acc = d.acc ∧ (onPwr d f).media = d.media ∧ (onPwr d f).aud = d.aud ∧ (onPwr d f).vid = d.vid ∧ (onPwr d f).imc = d.imc ∧ (onPwr d f).casc = d.casc ∧ (onPwr d f).lane = d.lane ∧ (onPwr d f).drove = d.drove ∧ (onPwr d f).integ = d.integ := by
  and_intros <;> rfl

@[simp] theorem onPwr_pwr (d : Dev) (f : PwrState → PwrState) : (onPwr d f).pwr = f d.pwr := rfl

@[simp] theorem onAux_other (d : Dev) (f : PwrAux → PwrAux) :
    (onAux d f).freeCtr = d.freeCtr ∧ (onAux d f).out = d.out ∧ (onAux d f).memOut = d.memOut ∧ (onAux d f).sys = d.sys ∧ (onAux d f).bell = d.bell ∧ (onAux d f).past = d.past ∧ (onAux d f).fold = d.fold ∧ (onAux d f).pwr = d.pwr ∧ (onAux d f).pins = d.pins ∧ (onAux d f).parse = d.parse ∧ (onAux d f).tm = d.tm ∧ (onAux d f).cli = d.cli ∧ (onAux d f).flock = d.flock ∧ (onAux d f).acc = d.acc ∧ (onAux d f).media = d.media ∧ (onAux d f).aud = d.aud ∧ (onAux d f).vid = d.vid ∧ (onAux d f).imc = d.imc ∧ (onAux d f).casc = d.casc ∧ (onAux d f).lane = d.lane ∧ (onAux d f).drove = d.drove ∧ (onAux d f).integ = d.integ := by
  and_intros <;> rfl

@[simp] theorem onAux_aux (d : Dev) (f : PwrAux → PwrAux) : (onAux d f).aux = f d.aux := rfl

@[simp] theorem onPins_other (d : Dev) (f : PinState → PinState) :
    (onPins d f).freeCtr = d.freeCtr ∧ (onPins d f).out = d.out ∧ (onPins d f).memOut = d.memOut ∧ (onPins d f).sys = d.sys ∧ (onPins d f).bell = d.bell ∧ (onPins d f).past = d.past ∧ (onPins d f).fold = d.fold ∧ (onPins d f).pwr = d.pwr ∧ (onPins d f).aux = d.aux ∧ (onPins d f).parse = d.parse ∧ (onPins d f).tm = d.tm ∧ (onPins d f).cli = d.cli ∧ (onPins d f).flock = d.flock ∧ (onPins d f).acc = d.acc ∧ (onPins d f).media = d.media ∧ (onPins d f).aud = d.aud ∧ (onPins d f).vid = d.vid ∧ (onPins d f).imc = d.imc ∧ (onPins d f).casc = d.casc ∧ (onPins d f).lane = d.lane ∧ (onPins d f).drove = d.drove ∧ (onPins d f).integ = d.integ := by
  and_intros <;> rfl

@[simp] theorem onPins_pins (d : Dev) (f : PinState → PinState) : (onPins d f).pins = f d.pins := rfl

@[simp] theorem onCli_other (d : Dev) (f : CliState → CliState) :
    (onCli d f).freeCtr = d.freeCtr ∧ (onCli d f).out = d.out ∧ (onCli d f).memOut = d.memOut ∧ (onCli d f).sys = d.sys ∧ (onCli d f).bell = d.bell ∧ (onCli d f).past = d.past ∧ (onCli d f).fold = d.fold ∧ (onCli d f).pwr = d.pwr ∧ (onCli d f).aux = d.aux ∧ (onCli d f).pins = d.pins ∧ (onCli d f).parse = d.parse ∧ (onCli d f).tm = d.tm ∧ (onCli d f).flock = d.flock ∧ (onCli d f).acc = d.acc ∧ (onCli d f).media = d.media ∧ (onCli d f).aud = d.aud ∧ (onCli d f).vid = d.vid ∧ (onCli d f).imc = d.imc ∧ (onCli d f).casc = d.casc ∧ (onCli d f).lane = d.lane ∧ (onCli d f).drove = d.drove ∧ (onCli d f).integ = d.integ := by
  and_intros <;> rfl

@[simp] theorem onCli_cli (d : Dev) (f : CliState → CliState) : (onCli d f).cli = f d.cli := rfl

@[simp] theorem onLanes_other (d : Dev) (f : LaneState → LaneState) :
    (onLanes d f).freeCtr = d.freeCtr ∧ (onLanes d f).out = d.out ∧ (onLanes d f).memOut = d.memOut ∧ (onLanes d f).sys = d.sys ∧ (onLanes d f).bell = d.bell ∧ (onLanes d f).past = d.past ∧ (onLanes d f).fold = d.fold ∧ (onLanes d f).pwr = d.pwr ∧ (onLanes d f).aux = d.aux ∧ (onLanes d f).pins = d.pins ∧ (onLanes d f).parse = d.parse ∧ (onLanes d f).tm = d.tm ∧ (onLanes d f).cli = d.cli ∧ (onLanes d f).flock = d.flock ∧ (onLanes d f).acc = d.acc ∧ (onLanes d f).media = d.media ∧ (onLanes d f).aud = d.aud ∧ (onLanes d f).vid = d.vid ∧ (onLanes d f).imc = d.imc ∧ (onLanes d f).casc = d.casc ∧ (onLanes d f).drove = d.drove ∧ (onLanes d f).integ = d.integ := by
  and_intros <;> rfl

@[simp] theorem onLanes_lane (d : Dev) (f : LaneState → LaneState) : (onLanes d f).lane = f d.lane := rfl

@[simp] theorem onDrove_other (d : Dev) (f : DroveState → DroveState) :
    (onDrove d f).freeCtr = d.freeCtr ∧ (onDrove d f).out = d.out ∧ (onDrove d f).memOut = d.memOut ∧ (onDrove d f).sys = d.sys ∧ (onDrove d f).bell = d.bell ∧ (onDrove d f).past = d.past ∧ (onDrove d f).fold = d.fold ∧ (onDrove d f).pwr = d.pwr ∧ (onDrove d f).aux = d.aux ∧ (onDrove d f).pins = d.pins ∧ (onDrove d f).parse = d.parse ∧ (onDrove d f).tm = d.tm ∧ (onDrove d f).cli = d.cli ∧ (onDrove d f).flock = d.flock ∧ (onDrove d f).acc = d.acc ∧ (onDrove d f).media = d.media ∧ (onDrove d f).aud = d.aud ∧ (onDrove d f).vid = d.vid ∧ (onDrove d f).imc = d.imc ∧ (onDrove d f).casc = d.casc ∧ (onDrove d f).lane = d.lane ∧ (onDrove d f).integ = d.integ := by
  and_intros <;> rfl

@[simp] theorem onDrove_drove (d : Dev) (f : DroveState → DroveState) : (onDrove d f).drove = f d.drove := rfl

@[simp] theorem onRing_other (d : Dev) (r : Nat) (f : Ring → Ring) :
    (onRing d r f).freeCtr = d.freeCtr ∧ (onRing d r f).out = d.out ∧ (onRing d r f).memOut = d.memOut ∧ (onRing d r f).bell = d.bell ∧ (onRing d r f).past = d.past ∧ (onRing d r f).fold = d.fold ∧ (onRing d r f).pwr = d.pwr ∧ (onRing d r f).aux = d.aux ∧ (onRing d r f).pins = d.pins ∧ (onRing d r f).parse = d.parse ∧ (onRing d r f).tm = d.tm ∧ (onRing d r f).cli = d.cli ∧ (onRing d r f).flock = d.flock ∧ (onRing d r f).acc = d.acc ∧ (onRing d r f).media = d.media ∧ (onRing d r f).aud = d.aud ∧ (onRing d r f).vid = d.vid ∧ (onRing d r f).imc = d.imc ∧ (onRing d r f).casc = d.casc ∧ (onRing d r f).lane = d.lane ∧ (onRing d r f).drove = d.drove ∧ (onRing d r f).integ = d.integ := by
  and_intros <;> rfl

@[simp] theorem onRing_sys (d : Dev) (r : Nat) (f : Ring → Ring) : (onRing d r f).sys = (onSys d (fun y => { y with rings := tupd y.rings r Ring.reset f })).sys := rfl

@[simp] theorem onSess_other (d : Dev) (k : Nat) (f : Sess → Sess) :
    (onSess d k f).freeCtr = d.freeCtr ∧ (onSess d k f).out = d.out ∧ (onSess d k f).memOut = d.memOut ∧ (onSess d k f).bell = d.bell ∧ (onSess d k f).past = d.past ∧ (onSess d k f).fold = d.fold ∧ (onSess d k f).pwr = d.pwr ∧ (onSess d k f).aux = d.aux ∧ (onSess d k f).pins = d.pins ∧ (onSess d k f).parse = d.parse ∧ (onSess d k f).tm = d.tm ∧ (onSess d k f).cli = d.cli ∧ (onSess d k f).flock = d.flock ∧ (onSess d k f).acc = d.acc ∧ (onSess d k f).media = d.media ∧ (onSess d k f).aud = d.aud ∧ (onSess d k f).vid = d.vid ∧ (onSess d k f).imc = d.imc ∧ (onSess d k f).casc = d.casc ∧ (onSess d k f).lane = d.lane ∧ (onSess d k f).drove = d.drove ∧ (onSess d k f).integ = d.integ := by
  and_intros <;> rfl

@[simp] theorem onSess_sys (d : Dev) (k : Nat) (f : Sess → Sess) : (onSess d k f).sys = (onSys d (fun y => { y with sess := tupd y.sess k Sess.reset f })).sys := rfl

@[simp] theorem emit_other (d : Dev) (k : OutKind) (chan : Nat) (vals : List Int) :
    (emit d k chan vals).freeCtr = d.freeCtr ∧ (emit d k chan vals).memOut = d.memOut ∧ (emit d k chan vals).sys = d.sys ∧ (emit d k chan vals).bell = d.bell ∧ (emit d k chan vals).past = d.past ∧ (emit d k chan vals).fold = d.fold ∧ (emit d k chan vals).pwr = d.pwr ∧ (emit d k chan vals).aux = d.aux ∧ (emit d k chan vals).pins = d.pins ∧ (emit d k chan vals).parse = d.parse ∧ (emit d k chan vals).tm = d.tm ∧ (emit d k chan vals).cli = d.cli ∧ (emit d k chan vals).flock = d.flock ∧ (emit d k chan vals).acc = d.acc ∧ (emit d k chan vals).media = d.media ∧ (emit d k chan vals).aud = d.aud ∧ (emit d k chan vals).vid = d.vid ∧ (emit d k chan vals).imc = d.imc ∧ (emit d k chan vals).casc = d.casc ∧ (emit d k chan vals).lane = d.lane ∧ (emit d k chan vals).drove = d.drove ∧ (emit d k chan vals).integ = d.integ := by
  and_intros <;> rfl

@[simp] theorem emit_out (d : Dev) (k : OutKind) (chan : Nat) (vals : List Int) : (emit d k chan vals).out = d.out ++ [{ kind := k, chan := chan, vals := vals }] := rfl

@[simp] theorem postMem_other (d : Dev) (a : Nat) (bs : List Byte) :
    (postMem d a bs).freeCtr = d.freeCtr ∧ (postMem d a bs).out = d.out ∧ (postMem d a bs).sys = d.sys ∧ (postMem d a bs).bell = d.bell ∧ (postMem d a bs).past = d.past ∧ (postMem d a bs).fold = d.fold ∧ (postMem d a bs).pwr = d.pwr ∧ (postMem d a bs).aux = d.aux ∧ (postMem d a bs).pins = d.pins ∧ (postMem d a bs).parse = d.parse ∧ (postMem d a bs).tm = d.tm ∧ (postMem d a bs).cli = d.cli ∧ (postMem d a bs).flock = d.flock ∧ (postMem d a bs).acc = d.acc ∧ (postMem d a bs).media = d.media ∧ (postMem d a bs).aud = d.aud ∧ (postMem d a bs).vid = d.vid ∧ (postMem d a bs).imc = d.imc ∧ (postMem d a bs).casc = d.casc ∧ (postMem d a bs).lane = d.lane ∧ (postMem d a bs).drove = d.drove ∧ (postMem d a bs).integ = d.integ := by
  and_intros <;> rfl

@[simp] theorem postMem_memOut (d : Dev) (a : Nat) (bs : List Byte) : (postMem d a bs).memOut = d.memOut ++ [(a, bs)] := rfl

@[simp] theorem onParse_other (d : Dev) (f : ParseState → ParseState) :
    (onParse d f).freeCtr = d.freeCtr ∧ (onParse d f).out = d.out ∧ (onParse d f).memOut = d.memOut ∧ (onParse d f).sys = d.sys ∧ (onParse d f).bell = d.bell ∧ (onParse d f).past = d.past ∧ (onParse d f).fold = d.fold ∧ (onParse d f).pwr = d.pwr ∧ (onParse d f).aux = d.aux ∧ (onParse d f).pins = d.pins ∧ (onParse d f).tm = d.tm ∧ (onParse d f).cli = d.cli ∧ (onParse d f).flock = d.flock ∧ (onParse d f).acc = d.acc ∧ (onParse d f).media = d.media ∧ (onParse d f).aud = d.aud ∧ (onParse d f).vid = d.vid ∧ (onParse d f).imc = d.imc ∧ (onParse d f).casc = d.casc ∧ (onParse d f).lane = d.lane ∧ (onParse d f).drove = d.drove ∧ (onParse d f).integ = d.integ := by
  and_intros <;> rfl

@[simp] theorem onParse_parse (d : Dev) (f : ParseState → ParseState) : (onParse d f).parse = f d.parse := rfl

@[simp] theorem onPipe_other (d : Dev) (j : Nat) (f : PipeRegs → PipeRegs) :
    (onPipe d j f).freeCtr = d.freeCtr ∧ (onPipe d j f).out = d.out ∧ (onPipe d j f).memOut = d.memOut ∧ (onPipe d j f).sys = d.sys ∧ (onPipe d j f).bell = d.bell ∧ (onPipe d j f).past = d.past ∧ (onPipe d j f).fold = d.fold ∧ (onPipe d j f).pwr = d.pwr ∧ (onPipe d j f).aux = d.aux ∧ (onPipe d j f).pins = d.pins ∧ (onPipe d j f).tm = d.tm ∧ (onPipe d j f).cli = d.cli ∧ (onPipe d j f).flock = d.flock ∧ (onPipe d j f).acc = d.acc ∧ (onPipe d j f).media = d.media ∧ (onPipe d j f).aud = d.aud ∧ (onPipe d j f).vid = d.vid ∧ (onPipe d j f).imc = d.imc ∧ (onPipe d j f).casc = d.casc ∧ (onPipe d j f).lane = d.lane ∧ (onPipe d j f).drove = d.drove ∧ (onPipe d j f).integ = d.integ := by
  and_intros <;> rfl

@[simp] theorem onPipe_parse (d : Dev) (j : Nat) (f : PipeRegs → PipeRegs) : (onPipe d j f).parse = (onParse d (fun s => { s with pipes := tupd s.pipes j PipeRegs.reset f })).parse := rfl

@[simp] theorem onParsePort_other (d : Dev) (q : Nat) (f : ParsePort → ParsePort) :
    (onParsePort d q f).freeCtr = d.freeCtr ∧ (onParsePort d q f).out = d.out ∧ (onParsePort d q f).memOut = d.memOut ∧ (onParsePort d q f).sys = d.sys ∧ (onParsePort d q f).bell = d.bell ∧ (onParsePort d q f).past = d.past ∧ (onParsePort d q f).fold = d.fold ∧ (onParsePort d q f).pwr = d.pwr ∧ (onParsePort d q f).aux = d.aux ∧ (onParsePort d q f).pins = d.pins ∧ (onParsePort d q f).tm = d.tm ∧ (onParsePort d q f).cli = d.cli ∧ (onParsePort d q f).flock = d.flock ∧ (onParsePort d q f).acc = d.acc ∧ (onParsePort d q f).media = d.media ∧ (onParsePort d q f).aud = d.aud ∧ (onParsePort d q f).vid = d.vid ∧ (onParsePort d q f).imc = d.imc ∧ (onParsePort d q f).casc = d.casc ∧ (onParsePort d q f).lane = d.lane ∧ (onParsePort d q f).drove = d.drove ∧ (onParsePort d q f).integ = d.integ := by
  and_intros <;> rfl

@[simp] theorem onParsePort_parse (d : Dev) (q : Nat) (f : ParsePort → ParsePort) : (onParsePort d q f).parse = (onParse d (fun s => { s with ports := tupd s.ports q ParsePort.reset f })).parse := rfl

@[simp] theorem onPast_other (d : Dev) (f : PastState → PastState) :
    (onPast d f).freeCtr = d.freeCtr ∧ (onPast d f).out = d.out ∧ (onPast d f).memOut = d.memOut ∧ (onPast d f).sys = d.sys ∧ (onPast d f).bell = d.bell ∧ (onPast d f).fold = d.fold ∧ (onPast d f).pwr = d.pwr ∧ (onPast d f).aux = d.aux ∧ (onPast d f).pins = d.pins ∧ (onPast d f).parse = d.parse ∧ (onPast d f).tm = d.tm ∧ (onPast d f).cli = d.cli ∧ (onPast d f).flock = d.flock ∧ (onPast d f).acc = d.acc ∧ (onPast d f).media = d.media ∧ (onPast d f).aud = d.aud ∧ (onPast d f).vid = d.vid ∧ (onPast d f).imc = d.imc ∧ (onPast d f).casc = d.casc ∧ (onPast d f).lane = d.lane ∧ (onPast d f).drove = d.drove ∧ (onPast d f).integ = d.integ := by
  and_intros <;> rfl

@[simp] theorem onPast_past (d : Dev) (f : PastState → PastState) : (onPast d f).past = f d.past := rfl

@[simp] theorem onClass_other (d : Dev) (k : Nat) (f : PastClass → PastClass) :
    (onClass d k f).freeCtr = d.freeCtr ∧ (onClass d k f).out = d.out ∧ (onClass d k f).memOut = d.memOut ∧ (onClass d k f).sys = d.sys ∧ (onClass d k f).bell = d.bell ∧ (onClass d k f).fold = d.fold ∧ (onClass d k f).pwr = d.pwr ∧ (onClass d k f).aux = d.aux ∧ (onClass d k f).pins = d.pins ∧ (onClass d k f).parse = d.parse ∧ (onClass d k f).tm = d.tm ∧ (onClass d k f).cli = d.cli ∧ (onClass d k f).flock = d.flock ∧ (onClass d k f).acc = d.acc ∧ (onClass d k f).media = d.media ∧ (onClass d k f).aud = d.aud ∧ (onClass d k f).vid = d.vid ∧ (onClass d k f).imc = d.imc ∧ (onClass d k f).casc = d.casc ∧ (onClass d k f).lane = d.lane ∧ (onClass d k f).drove = d.drove ∧ (onClass d k f).integ = d.integ := by
  and_intros <;> rfl

@[simp] theorem onClass_past (d : Dev) (k : Nat) (f : PastClass → PastClass) : (onClass d k f).past = (onPast d (fun p => { p with classes := tupd p.classes k (PastClass.reset k) f })).past := rfl

@[simp] theorem onHs_other (d : Dev) (n : Nat) (f : Headset → Headset) :
    (onHs d n f).freeCtr = d.freeCtr ∧ (onHs d n f).out = d.out ∧ (onHs d n f).memOut = d.memOut ∧ (onHs d n f).sys = d.sys ∧ (onHs d n f).bell = d.bell ∧ (onHs d n f).past = d.past ∧ (onHs d n f).fold = d.fold ∧ (onHs d n f).pwr = d.pwr ∧ (onHs d n f).aux = d.aux ∧ (onHs d n f).pins = d.pins ∧ (onHs d n f).parse = d.parse ∧ (onHs d n f).tm = d.tm ∧ (onHs d n f).cli = d.cli ∧ (onHs d n f).flock = d.flock ∧ (onHs d n f).acc = d.acc ∧ (onHs d n f).media = d.media ∧ (onHs d n f).vid = d.vid ∧ (onHs d n f).imc = d.imc ∧ (onHs d n f).casc = d.casc ∧ (onHs d n f).lane = d.lane ∧ (onHs d n f).drove = d.drove ∧ (onHs d n f).integ = d.integ := by
  and_intros <;> rfl

@[simp] theorem onHs_aud (d : Dev) (n : Nat) (f : Headset → Headset) : (onHs d n f).aud = (onAud d (fun a => { a with hs := tupd a.hs n Headset.reset f })).aud := rfl

@[simp] theorem onTdm_other (d : Dev) (p : Nat) (f : TdmPort → TdmPort) :
    (onTdm d p f).freeCtr = d.freeCtr ∧ (onTdm d p f).out = d.out ∧ (onTdm d p f).memOut = d.memOut ∧ (onTdm d p f).sys = d.sys ∧ (onTdm d p f).bell = d.bell ∧ (onTdm d p f).past = d.past ∧ (onTdm d p f).fold = d.fold ∧ (onTdm d p f).pwr = d.pwr ∧ (onTdm d p f).aux = d.aux ∧ (onTdm d p f).pins = d.pins ∧ (onTdm d p f).parse = d.parse ∧ (onTdm d p f).tm = d.tm ∧ (onTdm d p f).cli = d.cli ∧ (onTdm d p f).flock = d.flock ∧ (onTdm d p f).acc = d.acc ∧ (onTdm d p f).media = d.media ∧ (onTdm d p f).vid = d.vid ∧ (onTdm d p f).imc = d.imc ∧ (onTdm d p f).casc = d.casc ∧ (onTdm d p f).lane = d.lane ∧ (onTdm d p f).drove = d.drove ∧ (onTdm d p f).integ = d.integ := by
  and_intros <;> rfl

@[simp] theorem onTdm_aud (d : Dev) (p : Nat) (f : TdmPort → TdmPort) : (onTdm d p f).aud = (onAud d (fun a => { a with tdm := tupd a.tdm p TdmPort.reset f })).aud := rfl

@[simp] theorem onMeter_other (d : Dev) (m : Nat) (f : Meter → Meter) :
    (onMeter d m f).freeCtr = d.freeCtr ∧ (onMeter d m f).out = d.out ∧ (onMeter d m f).memOut = d.memOut ∧ (onMeter d m f).sys = d.sys ∧ (onMeter d m f).bell = d.bell ∧ (onMeter d m f).past = d.past ∧ (onMeter d m f).fold = d.fold ∧ (onMeter d m f).pwr = d.pwr ∧ (onMeter d m f).aux = d.aux ∧ (onMeter d m f).pins = d.pins ∧ (onMeter d m f).parse = d.parse ∧ (onMeter d m f).cli = d.cli ∧ (onMeter d m f).flock = d.flock ∧ (onMeter d m f).acc = d.acc ∧ (onMeter d m f).media = d.media ∧ (onMeter d m f).aud = d.aud ∧ (onMeter d m f).vid = d.vid ∧ (onMeter d m f).imc = d.imc ∧ (onMeter d m f).casc = d.casc ∧ (onMeter d m f).lane = d.lane ∧ (onMeter d m f).drove = d.drove ∧ (onMeter d m f).integ = d.integ := by
  and_intros <;> rfl

@[simp] theorem onMeter_tm (d : Dev) (m : Nat) (f : Meter → Meter) : (onMeter d m f).tm = (onTm d (fun t => { t with meters := tmod t.meters m f })).tm := rfl

@[simp] theorem onTm_other (d : Dev) (f : TmState → TmState) :
    (onTm d f).freeCtr = d.freeCtr ∧ (onTm d f).out = d.out ∧ (onTm d f).memOut = d.memOut ∧ (onTm d f).sys = d.sys ∧ (onTm d f).bell = d.bell ∧ (onTm d f).past = d.past ∧ (onTm d f).fold = d.fold ∧ (onTm d f).pwr = d.pwr ∧ (onTm d f).aux = d.aux ∧ (onTm d f).pins = d.pins ∧ (onTm d f).parse = d.parse ∧ (onTm d f).cli = d.cli ∧ (onTm d f).flock = d.flock ∧ (onTm d f).acc = d.acc ∧ (onTm d f).media = d.media ∧ (onTm d f).aud = d.aud ∧ (onTm d f).vid = d.vid ∧ (onTm d f).imc = d.imc ∧ (onTm d f).casc = d.casc ∧ (onTm d f).lane = d.lane ∧ (onTm d f).drove = d.drove ∧ (onTm d f).integ = d.integ := by
  and_intros <;> rfl

@[simp] theorem onTm_tm (d : Dev) (f : TmState → TmState) : (onTm d f).tm = f d.tm := rfl

@[simp] theorem onQueue_other (d : Dev) (q : Nat) (f : TmQueue → TmQueue) :
    (onQueue d q f).freeCtr = d.freeCtr ∧ (onQueue d q f).out = d.out ∧ (onQueue d q f).memOut = d.memOut ∧ (onQueue d q f).sys = d.sys ∧ (onQueue d q f).bell = d.bell ∧ (onQueue d q f).past = d.past ∧ (onQueue d q f).fold = d.fold ∧ (onQueue d q f).pwr = d.pwr ∧ (onQueue d q f).aux = d.aux ∧ (onQueue d q f).pins = d.pins ∧ (onQueue d q f).parse = d.parse ∧ (onQueue d q f).cli = d.cli ∧ (onQueue d q f).flock = d.flock ∧ (onQueue d q f).acc = d.acc ∧ (onQueue d q f).media = d.media ∧ (onQueue d q f).aud = d.aud ∧ (onQueue d q f).vid = d.vid ∧ (onQueue d q f).imc = d.imc ∧ (onQueue d q f).casc = d.casc ∧ (onQueue d q f).lane = d.lane ∧ (onQueue d q f).drove = d.drove ∧ (onQueue d q f).integ = d.integ := by
  and_intros <;> rfl

@[simp] theorem onQueue_tm (d : Dev) (q : Nat) (f : TmQueue → TmQueue) : (onQueue d q f).tm = (onTm d (fun t => { t with queues := tmod t.queues q f })).tm := rfl

@[simp] theorem onGroup_other (d : Dev) (g : Nat) (f : TmGroup → TmGroup) :
    (onGroup d g f).freeCtr = d.freeCtr ∧ (onGroup d g f).out = d.out ∧ (onGroup d g f).memOut = d.memOut ∧ (onGroup d g f).sys = d.sys ∧ (onGroup d g f).bell = d.bell ∧ (onGroup d g f).past = d.past ∧ (onGroup d g f).fold = d.fold ∧ (onGroup d g f).pwr = d.pwr ∧ (onGroup d g f).aux = d.aux ∧ (onGroup d g f).pins = d.pins ∧ (onGroup d g f).parse = d.parse ∧ (onGroup d g f).cli = d.cli ∧ (onGroup d g f).flock = d.flock ∧ (onGroup d g f).acc = d.acc ∧ (onGroup d g f).media = d.media ∧ (onGroup d g f).aud = d.aud ∧ (onGroup d g f).vid = d.vid ∧ (onGroup d g f).imc = d.imc ∧ (onGroup d g f).casc = d.casc ∧ (onGroup d g f).lane = d.lane ∧ (onGroup d g f).drove = d.drove ∧ (onGroup d g f).integ = d.integ := by
  and_intros <;> rfl

@[simp] theorem onGroup_tm (d : Dev) (g : Nat) (f : TmGroup → TmGroup) : (onGroup d g f).tm = (onTm d (fun t => { t with groups := tmod t.groups g f })).tm := rfl

@[simp] theorem onRoot_other (d : Dev) (n : Nat) (f : TmRoot → TmRoot) :
    (onRoot d n f).freeCtr = d.freeCtr ∧ (onRoot d n f).out = d.out ∧ (onRoot d n f).memOut = d.memOut ∧ (onRoot d n f).sys = d.sys ∧ (onRoot d n f).bell = d.bell ∧ (onRoot d n f).past = d.past ∧ (onRoot d n f).fold = d.fold ∧ (onRoot d n f).pwr = d.pwr ∧ (onRoot d n f).aux = d.aux ∧ (onRoot d n f).pins = d.pins ∧ (onRoot d n f).parse = d.parse ∧ (onRoot d n f).cli = d.cli ∧ (onRoot d n f).flock = d.flock ∧ (onRoot d n f).acc = d.acc ∧ (onRoot d n f).media = d.media ∧ (onRoot d n f).aud = d.aud ∧ (onRoot d n f).vid = d.vid ∧ (onRoot d n f).imc = d.imc ∧ (onRoot d n f).casc = d.casc ∧ (onRoot d n f).lane = d.lane ∧ (onRoot d n f).drove = d.drove ∧ (onRoot d n f).integ = d.integ := by
  and_intros <;> rfl

@[simp] theorem onRoot_tm (d : Dev) (n : Nat) (f : TmRoot → TmRoot) : (onRoot d n f).tm = (onTm d (fun t => { t with roots := tupd t.roots n (rootReset n) f })).tm := rfl

@[simp] theorem onPic_other (d : Dev) (n t : Nat) (f : TierPic → TierPic) :
    (onPic d n t f).freeCtr = d.freeCtr ∧ (onPic d n t f).out = d.out ∧ (onPic d n t f).memOut = d.memOut ∧ (onPic d n t f).sys = d.sys ∧ (onPic d n t f).bell = d.bell ∧ (onPic d n t f).past = d.past ∧ (onPic d n t f).fold = d.fold ∧ (onPic d n t f).pwr = d.pwr ∧ (onPic d n t f).aux = d.aux ∧ (onPic d n t f).pins = d.pins ∧ (onPic d n t f).parse = d.parse ∧ (onPic d n t f).tm = d.tm ∧ (onPic d n t f).cli = d.cli ∧ (onPic d n t f).flock = d.flock ∧ (onPic d n t f).acc = d.acc ∧ (onPic d n t f).media = d.media ∧ (onPic d n t f).aud = d.aud ∧ (onPic d n t f).imc = d.imc ∧ (onPic d n t f).casc = d.casc ∧ (onPic d n t f).lane = d.lane ∧ (onPic d n t f).drove = d.drove ∧ (onPic d n t f).integ = d.integ := by
  and_intros <;> rfl

@[simp] theorem onPic_vid (d : Dev) (n t : Nat) (f : TierPic → TierPic) : (onPic d n t f).vid = (onVid d (fun v => { v with pics := tset v.pics (4 * n + t) (f (picOf d n t)) })).vid := rfl

@[simp] theorem onContrib_other (d : Dev) (n : Nat) (f : Contrib → Contrib) :
    (onContrib d n f).freeCtr = d.freeCtr ∧ (onContrib d n f).out = d.out ∧ (onContrib d n f).memOut = d.memOut ∧ (onContrib d n f).sys = d.sys ∧ (onContrib d n f).bell = d.bell ∧ (onContrib d n f).past = d.past ∧ (onContrib d n f).fold = d.fold ∧ (onContrib d n f).pwr = d.pwr ∧ (onContrib d n f).aux = d.aux ∧ (onContrib d n f).pins = d.pins ∧ (onContrib d n f).parse = d.parse ∧ (onContrib d n f).tm = d.tm ∧ (onContrib d n f).cli = d.cli ∧ (onContrib d n f).flock = d.flock ∧ (onContrib d n f).acc = d.acc ∧ (onContrib d n f).media = d.media ∧ (onContrib d n f).aud = d.aud ∧ (onContrib d n f).imc = d.imc ∧ (onContrib d n f).casc = d.casc ∧ (onContrib d n f).lane = d.lane ∧ (onContrib d n f).drove = d.drove ∧ (onContrib d n f).integ = d.integ := by
  and_intros <;> rfl

@[simp] theorem onContrib_vid (d : Dev) (n : Nat) (f : Contrib → Contrib) : (onContrib d n f).vid = (onVid d (fun v => { v with contribs := tmod v.contribs n f })).vid := rfl

@[simp] theorem onStream_other (d : Dev) (k : Nat) (f : Stream → Stream) :
    (onStream d k f).freeCtr = d.freeCtr ∧ (onStream d k f).out = d.out ∧ (onStream d k f).memOut = d.memOut ∧ (onStream d k f).sys = d.sys ∧ (onStream d k f).bell = d.bell ∧ (onStream d k f).past = d.past ∧ (onStream d k f).fold = d.fold ∧ (onStream d k f).pwr = d.pwr ∧ (onStream d k f).aux = d.aux ∧ (onStream d k f).pins = d.pins ∧ (onStream d k f).parse = d.parse ∧ (onStream d k f).tm = d.tm ∧ (onStream d k f).cli = d.cli ∧ (onStream d k f).flock = d.flock ∧ (onStream d k f).acc = d.acc ∧ (onStream d k f).media = d.media ∧ (onStream d k f).aud = d.aud ∧ (onStream d k f).imc = d.imc ∧ (onStream d k f).casc = d.casc ∧ (onStream d k f).lane = d.lane ∧ (onStream d k f).drove = d.drove ∧ (onStream d k f).integ = d.integ := by
  and_intros <;> rfl

@[simp] theorem onStream_vid (d : Dev) (k : Nat) (f : Stream → Stream) : (onStream d k f).vid = (onVid d (fun v => { v with streams := tmod v.streams k f })).vid := rfl

@[simp] theorem onCasc_other (d : Dev) (f : CascState → CascState) :
    (onCasc d f).freeCtr = d.freeCtr ∧ (onCasc d f).out = d.out ∧ (onCasc d f).memOut = d.memOut ∧ (onCasc d f).sys = d.sys ∧ (onCasc d f).bell = d.bell ∧ (onCasc d f).past = d.past ∧ (onCasc d f).fold = d.fold ∧ (onCasc d f).pwr = d.pwr ∧ (onCasc d f).aux = d.aux ∧ (onCasc d f).pins = d.pins ∧ (onCasc d f).parse = d.parse ∧ (onCasc d f).tm = d.tm ∧ (onCasc d f).cli = d.cli ∧ (onCasc d f).flock = d.flock ∧ (onCasc d f).acc = d.acc ∧ (onCasc d f).media = d.media ∧ (onCasc d f).aud = d.aud ∧ (onCasc d f).vid = d.vid ∧ (onCasc d f).imc = d.imc ∧ (onCasc d f).lane = d.lane ∧ (onCasc d f).drove = d.drove ∧ (onCasc d f).integ = d.integ := by
  and_intros <;> rfl

@[simp] theorem onCasc_casc (d : Dev) (f : CascState → CascState) : (onCasc d f).casc = f d.casc := rfl

@[simp] theorem onCascPort_other (d : Dev) (p : Nat) (f : CascPort → CascPort) :
    (onCascPort d p f).freeCtr = d.freeCtr ∧ (onCascPort d p f).out = d.out ∧ (onCascPort d p f).memOut = d.memOut ∧ (onCascPort d p f).sys = d.sys ∧ (onCascPort d p f).bell = d.bell ∧ (onCascPort d p f).past = d.past ∧ (onCascPort d p f).fold = d.fold ∧ (onCascPort d p f).pwr = d.pwr ∧ (onCascPort d p f).aux = d.aux ∧ (onCascPort d p f).pins = d.pins ∧ (onCascPort d p f).parse = d.parse ∧ (onCascPort d p f).tm = d.tm ∧ (onCascPort d p f).cli = d.cli ∧ (onCascPort d p f).flock = d.flock ∧ (onCascPort d p f).acc = d.acc ∧ (onCascPort d p f).media = d.media ∧ (onCascPort d p f).aud = d.aud ∧ (onCascPort d p f).vid = d.vid ∧ (onCascPort d p f).imc = d.imc ∧ (onCascPort d p f).lane = d.lane ∧ (onCascPort d p f).drove = d.drove ∧ (onCascPort d p f).integ = d.integ := by
  and_intros <;> rfl

@[simp] theorem onCascPort_casc (d : Dev) (p : Nat) (f : CascPort → CascPort) : (onCascPort d p f).casc = (onCasc d (fun c => { c with ports := tupd c.ports p CascPort.reset f })).casc := rfl

end Sys2Proof.Machine
end

