-- ==== Sys2Proof/Laws/Table.lean ====
section
/-! SUPPORT. Reading a sparse table after writing it. -/

namespace Sys2Proof.Machine

/-- An entry written is read back, and every other entry reads as before. -/
theorem tget_tset {α : Type} (t : Tbl α) (k j : Nat) (a : α) : tget (tset t k a) j = if j = k then some a else tget t j := by
  induction t with
  | nil => by_cases h : k = j <;> simp [tset, tget, h, eq_comm]
  | cons e r ih =>
    obtain ⟨i, b⟩ := e
    by_cases hlt : k < i
    · by_cases h : k = j
      · subst h; simp [tset, tget, hlt]
      · simp [tset, tget, hlt, h, Ne.symm h]
    · by_cases hk : k = i
      · subst hk; by_cases h : k = j
        · subst h; simp [tset, tget]
        · simp [tset, tget, h, Ne.symm h]
      · by_cases hi : i = j
        · subst hi; simp [tset, tget, hlt, hk, Ne.symm hk]
        · simp [tset, tget, hlt, hk, hi, ih]

@[simp] theorem tget_tset_same {α : Type} (t : Tbl α) (k : Nat) (a : α) : tget (tset t k a) k = some a := by simp [tget_tset]

@[simp] theorem tgetD_tset_same {α : Type} (t : Tbl α) (k : Nat) (a d : α) : tgetD (tset t k a) k d = a := by simp [tgetD]

theorem tgetD_tset_other {α : Type} (t : Tbl α) (k j : Nat) (a d : α) (h : j ≠ k) : tgetD (tset t k a) j d = tgetD t j d := by
  simp [tgetD, tget_tset, h]

@[simp] theorem tgetD_tupd_same {α : Type} (t : Tbl α) (k : Nat) (d : α) (f : α → α) : tgetD (tupd t k d f) k d = f (tgetD t k d) := by simp [tupd]

@[simp] theorem tget_tupd_same {α : Type} (t : Tbl α) (k : Nat) (d : α) (f : α → α) : tget (tupd t k d f) k = some (f (tgetD t k d)) := by simp [tupd]

theorem tgetD_tupd_other {α : Type} (t : Tbl α) (k j : Nat) (d : α) (f : α → α) (h : j ≠ k) : tgetD (tupd t k d f) j d = tgetD t j d := by
  simp [tupd, tgetD_tset_other _ _ _ _ _ h]

theorem tget_tdel {α : Type} (t : Tbl α) (k j : Nat) : tget (tdel t k) j = if j = k then none else tget t j := by
  induction t with
  | nil => simp [tdel, tget]
  | cons e r ih =>
    obtain ⟨i, b⟩ := e
    by_cases hi : i = k
    · subst hi
      by_cases h : i = j
      · subst h; simpa [tdel] using ih
      · simpa [tdel, tget, h, Ne.symm h] using ih
    · by_cases h : i = j
      · subst h; simp [tdel, tget, hi]
      · have := ih; simp only [tdel] at this; simp [tdel, tget, hi, h, this]

@[simp] theorem thas_tset_same {α : Type} (t : Tbl α) (k : Nat) (a : α) : thas (tset t k a) k = true := by simp [thas]

@[simp] theorem thas_tdel_same {α : Type} (t : Tbl α) (k : Nat) : thas (tdel t k) k = false := by simp [thas, tget_tdel]

end Sys2Proof.Machine
end

