-- ==== Sys2Proof/Laws/Ops.lean ====
section
/-! SUPPORT. What the shared operations change: an interrupt, a reply and an epoch change the SYS block and what is sent, and no other unit. -/

namespace Sys2Proof.Machine

@[simp] theorem msixSend_other (d : Dev) :
    (msixSend d).freeCtr = d.freeCtr ∧ (msixSend d).memOut = d.memOut ∧ (msixSend d).bell = d.bell ∧ (msixSend d).past = d.past ∧ (msixSend d).fold = d.fold ∧ (msixSend d).pwr = d.pwr ∧ (msixSend d).aux = d.aux ∧ (msixSend d).pins = d.pins ∧ (msixSend d).parse = d.parse ∧ (msixSend d).tm = d.tm ∧ (msixSend d).cli = d.cli ∧ (msixSend d).flock = d.flock ∧ (msixSend d).acc = d.acc ∧ (msixSend d).media = d.media ∧ (msixSend d).aud = d.aud ∧ (msixSend d).vid = d.vid ∧ (msixSend d).imc = d.imc ∧ (msixSend d).casc = d.casc ∧ (msixSend d).lane = d.lane ∧ (msixSend d).drove = d.drove ∧ (msixSend d).integ = d.integ := by
  unfold msixSend; split <;> (try split) <;> simp

@[simp] theorem intUpdate_other (d : Dev) :
    (intUpdate d).freeCtr = d.freeCtr ∧ (intUpdate d).memOut = d.memOut ∧ (intUpdate d).bell = d.bell ∧ (intUpdate d).past = d.past ∧ (intUpdate d).fold = d.fold ∧ (intUpdate d).pwr = d.pwr ∧ (intUpdate d).aux = d.aux ∧ (intUpdate d).pins = d.pins ∧ (intUpdate d).parse = d.parse ∧ (intUpdate d).tm = d.tm ∧ (intUpdate d).cli = d.cli ∧ (intUpdate d).flock = d.flock ∧ (intUpdate d).acc = d.acc ∧ (intUpdate d).media = d.media ∧ (intUpdate d).aud = d.aud ∧ (intUpdate d).vid = d.vid ∧ (intUpdate d).imc = d.imc ∧ (intUpdate d).casc = d.casc ∧ (intUpdate d).lane = d.lane ∧ (intUpdate d).drove = d.drove ∧ (intUpdate d).integ = d.integ := by
  unfold intUpdate; simp only; split <;> (try split) <;> simp

@[simp] theorem raiseLeaf_other (d : Dev) (w bit : Nat) :
    (raiseLeaf d w bit).freeCtr = d.freeCtr ∧ (raiseLeaf d w bit).memOut = d.memOut ∧ (raiseLeaf d w bit).bell = d.bell ∧ (raiseLeaf d w bit).past = d.past ∧ (raiseLeaf d w bit).fold = d.fold ∧ (raiseLeaf d w bit).pwr = d.pwr ∧ (raiseLeaf d w bit).aux = d.aux ∧ (raiseLeaf d w bit).pins = d.pins ∧ (raiseLeaf d w bit).parse = d.parse ∧ (raiseLeaf d w bit).tm = d.tm ∧ (raiseLeaf d w bit).cli = d.cli ∧ (raiseLeaf d w bit).flock = d.flock ∧ (raiseLeaf d w bit).acc = d.acc ∧ (raiseLeaf d w bit).media = d.media ∧ (raiseLeaf d w bit).aud = d.aud ∧ (raiseLeaf d w bit).vid = d.vid ∧ (raiseLeaf d w bit).imc = d.imc ∧ (raiseLeaf d w bit).casc = d.casc ∧ (raiseLeaf d w bit).lane = d.lane ∧ (raiseLeaf d w bit).drove = d.drove ∧ (raiseLeaf d w bit).integ = d.integ := by
  simp [raiseLeaf]

@[simp] theorem raiseIf_other (c : Bool) (d : Dev) (w bit : Nat) :
    (raiseIf c d w bit).freeCtr = d.freeCtr ∧ (raiseIf c d w bit).memOut = d.memOut ∧ (raiseIf c d w bit).bell = d.bell ∧ (raiseIf c d w bit).past = d.past ∧ (raiseIf c d w bit).fold = d.fold ∧ (raiseIf c d w bit).pwr = d.pwr ∧ (raiseIf c d w bit).aux = d.aux ∧ (raiseIf c d w bit).pins = d.pins ∧ (raiseIf c d w bit).parse = d.parse ∧ (raiseIf c d w bit).tm = d.tm ∧ (raiseIf c d w bit).cli = d.cli ∧ (raiseIf c d w bit).flock = d.flock ∧ (raiseIf c d w bit).acc = d.acc ∧ (raiseIf c d w bit).media = d.media ∧ (raiseIf c d w bit).aud = d.aud ∧ (raiseIf c d w bit).vid = d.vid ∧ (raiseIf c d w bit).imc = d.imc ∧ (raiseIf c d w bit).casc = d.casc ∧ (raiseIf c d w bit).lane = d.lane ∧ (raiseIf c d w bit).drove = d.drove ∧ (raiseIf c d w bit).integ = d.integ := by
  unfold raiseIf; split <;> simp

@[simp] theorem clearLeaf_other (d : Dev) (w : Nat) (v : Word) :
    (clearLeaf d w v).freeCtr = d.freeCtr ∧ (clearLeaf d w v).memOut = d.memOut ∧ (clearLeaf d w v).bell = d.bell ∧ (clearLeaf d w v).past = d.past ∧ (clearLeaf d w v).fold = d.fold ∧ (clearLeaf d w v).pwr = d.pwr ∧ (clearLeaf d w v).aux = d.aux ∧ (clearLeaf d w v).pins = d.pins ∧ (clearLeaf d w v).parse = d.parse ∧ (clearLeaf d w v).tm = d.tm ∧ (clearLeaf d w v).cli = d.cli ∧ (clearLeaf d w v).flock = d.flock ∧ (clearLeaf d w v).acc = d.acc ∧ (clearLeaf d w v).media = d.media ∧ (clearLeaf d w v).aud = d.aud ∧ (clearLeaf d w v).vid = d.vid ∧ (clearLeaf d w v).imc = d.imc ∧ (clearLeaf d w v).casc = d.casc ∧ (clearLeaf d w v).lane = d.lane ∧ (clearLeaf d w v).drove = d.drove ∧ (clearLeaf d w v).integ = d.integ := by
  simp [clearLeaf]

@[simp] theorem darkAccess_other (addr : Nat) (write : Bool) (d : Dev) :
    (darkAccess addr write d).freeCtr = d.freeCtr ∧ (darkAccess addr write d).memOut = d.memOut ∧ (darkAccess addr write d).bell = d.bell ∧ (darkAccess addr write d).past = d.past ∧ (darkAccess addr write d).fold = d.fold ∧ (darkAccess addr write d).pwr = d.pwr ∧ (darkAccess addr write d).aux = d.aux ∧ (darkAccess addr write d).pins = d.pins ∧ (darkAccess addr write d).parse = d.parse ∧ (darkAccess addr write d).tm = d.tm ∧ (darkAccess addr write d).cli = d.cli ∧ (darkAccess addr write d).flock = d.flock ∧ (darkAccess addr write d).acc = d.acc ∧ (darkAccess addr write d).media = d.media ∧ (darkAccess addr write d).aud = d.aud ∧ (darkAccess addr write d).vid = d.vid ∧ (darkAccess addr write d).imc = d.imc ∧ (darkAccess addr write d).casc = d.casc ∧ (darkAccess addr write d).lane = d.lane ∧ (darkAccess addr write d).drove = d.drove ∧ (darkAccess addr write d).integ = d.integ := by
  simp [darkAccess]

@[simp] theorem emitRead_other (d : Dev) (addr val : Nat) :
    (emitRead d addr val).freeCtr = d.freeCtr ∧ (emitRead d addr val).memOut = d.memOut ∧ (emitRead d addr val).sys = d.sys ∧ (emitRead d addr val).bell = d.bell ∧ (emitRead d addr val).past = d.past ∧ (emitRead d addr val).fold = d.fold ∧ (emitRead d addr val).pwr = d.pwr ∧ (emitRead d addr val).aux = d.aux ∧ (emitRead d addr val).pins = d.pins ∧ (emitRead d addr val).parse = d.parse ∧ (emitRead d addr val).tm = d.tm ∧ (emitRead d addr val).cli = d.cli ∧ (emitRead d addr val).flock = d.flock ∧ (emitRead d addr val).acc = d.acc ∧ (emitRead d addr val).media = d.media ∧ (emitRead d addr val).aud = d.aud ∧ (emitRead d addr val).vid = d.vid ∧ (emitRead d addr val).imc = d.imc ∧ (emitRead d addr val).casc = d.casc ∧ (emitRead d addr val).lane = d.lane ∧ (emitRead d addr val).drove = d.drove ∧ (emitRead d addr val).integ = d.integ := by
  simp [emitRead]

@[simp] theorem cqWrite_other (d : Dev) (r : Nat) (p : Reply) :
    (cqWrite d r p).freeCtr = d.freeCtr ∧ (cqWrite d r p).memOut = d.memOut ∧ (cqWrite d r p).bell = d.bell ∧ (cqWrite d r p).past = d.past ∧ (cqWrite d r p).fold = d.fold ∧ (cqWrite d r p).pwr = d.pwr ∧ (cqWrite d r p).aux = d.aux ∧ (cqWrite d r p).pins = d.pins ∧ (cqWrite d r p).parse = d.parse ∧ (cqWrite d r p).tm = d.tm ∧ (cqWrite d r p).cli = d.cli ∧ (cqWrite d r p).flock = d.flock ∧ (cqWrite d r p).acc = d.acc ∧ (cqWrite d r p).media = d.media ∧ (cqWrite d r p).aud = d.aud ∧ (cqWrite d r p).vid = d.vid ∧ (cqWrite d r p).imc = d.imc ∧ (cqWrite d r p).casc = d.casc ∧ (cqWrite d r p).lane = d.lane ∧ (cqWrite d r p).drove = d.drove ∧ (cqWrite d r p).integ = d.integ := by
  simp [cqWrite]

@[simp] theorem cqPost_other (d : Dev) (r : Nat) (p : Reply) :
    (cqPost d r p).freeCtr = d.freeCtr ∧ (cqPost d r p).memOut = d.memOut ∧ (cqPost d r p).bell = d.bell ∧ (cqPost d r p).past = d.past ∧ (cqPost d r p).fold = d.fold ∧ (cqPost d r p).pwr = d.pwr ∧ (cqPost d r p).aux = d.aux ∧ (cqPost d r p).pins = d.pins ∧ (cqPost d r p).parse = d.parse ∧ (cqPost d r p).tm = d.tm ∧ (cqPost d r p).cli = d.cli ∧ (cqPost d r p).flock = d.flock ∧ (cqPost d r p).acc = d.acc ∧ (cqPost d r p).media = d.media ∧ (cqPost d r p).aud = d.aud ∧ (cqPost d r p).vid = d.vid ∧ (cqPost d r p).imc = d.imc ∧ (cqPost d r p).casc = d.casc ∧ (cqPost d r p).lane = d.lane ∧ (cqPost d r p).drove = d.drove ∧ (cqPost d r p).integ = d.integ := by
  unfold cqPost; split <;> (try split) <;> simp

@[simp] theorem cqDrain_other (d : Dev) (r n : Nat) :
    (cqDrain d r n).freeCtr = d.freeCtr ∧ (cqDrain d r n).memOut = d.memOut ∧ (cqDrain d r n).bell = d.bell ∧ (cqDrain d r n).past = d.past ∧ (cqDrain d r n).fold = d.fold ∧ (cqDrain d r n).pwr = d.pwr ∧ (cqDrain d r n).aux = d.aux ∧ (cqDrain d r n).pins = d.pins ∧ (cqDrain d r n).parse = d.parse ∧ (cqDrain d r n).tm = d.tm ∧ (cqDrain d r n).cli = d.cli ∧ (cqDrain d r n).flock = d.flock ∧ (cqDrain d r n).acc = d.acc ∧ (cqDrain d r n).media = d.media ∧ (cqDrain d r n).aud = d.aud ∧ (cqDrain d r n).vid = d.vid ∧ (cqDrain d r n).imc = d.imc ∧ (cqDrain d r n).casc = d.casc ∧ (cqDrain d r n).lane = d.lane ∧ (cqDrain d r n).drove = d.drove ∧ (cqDrain d r n).integ = d.integ := by
  induction n generalizing d with
  | zero => simp [cqDrain]
  | succ n ih =>
    unfold cqDrain
    split
    · simp
    · split
      · simp only [ih]; simp
      · simp

@[simp] theorem datagram_other (d : Dev) (k type : Nat) (body : List Int) :
    (datagram d k type body).freeCtr = d.freeCtr ∧ (datagram d k type body).memOut = d.memOut ∧ (datagram d k type body).sys = d.sys ∧ (datagram d k type body).bell = d.bell ∧ (datagram d k type body).past = d.past ∧ (datagram d k type body).fold = d.fold ∧ (datagram d k type body).pwr = d.pwr ∧ (datagram d k type body).aux = d.aux ∧ (datagram d k type body).pins = d.pins ∧ (datagram d k type body).parse = d.parse ∧ (datagram d k type body).tm = d.tm ∧ (datagram d k type body).cli = d.cli ∧ (datagram d k type body).flock = d.flock ∧ (datagram d k type body).acc = d.acc ∧ (datagram d k type body).media = d.media ∧ (datagram d k type body).aud = d.aud ∧ (datagram d k type body).vid = d.vid ∧ (datagram d k type body).imc = d.imc ∧ (datagram d k type body).casc = d.casc ∧ (datagram d k type body).lane = d.lane ∧ (datagram d k type body).drove = d.drove ∧ (datagram d k type body).integ = d.integ := by
  simp [datagram]

@[simp] theorem sendReply_other (d : Dev) (tr : Option Transport) (p : Reply) :
    (sendReply d tr p).freeCtr = d.freeCtr ∧ (sendReply d tr p).memOut = d.memOut ∧ (sendReply d tr p).bell = d.bell ∧ (sendReply d tr p).past = d.past ∧ (sendReply d tr p).fold = d.fold ∧ (sendReply d tr p).pwr = d.pwr ∧ (sendReply d tr p).aux = d.aux ∧ (sendReply d tr p).pins = d.pins ∧ (sendReply d tr p).parse = d.parse ∧ (sendReply d tr p).tm = d.tm ∧ (sendReply d tr p).cli = d.cli ∧ (sendReply d tr p).flock = d.flock ∧ (sendReply d tr p).acc = d.acc ∧ (sendReply d tr p).media = d.media ∧ (sendReply d tr p).aud = d.aud ∧ (sendReply d tr p).vid = d.vid ∧ (sendReply d tr p).imc = d.imc ∧ (sendReply d tr p).casc = d.casc ∧ (sendReply d tr p).lane = d.lane ∧ (sendReply d tr p).drove = d.drove ∧ (sendReply d tr p).integ = d.integ := by
  unfold sendReply; split <;> (try split) <;> simp

@[simp] theorem epochDone_other (d : Dev) (e : Word) :
    (epochDone d e).freeCtr = d.freeCtr ∧ (epochDone d e).out = d.out ∧ (epochDone d e).memOut = d.memOut ∧ (epochDone d e).bell = d.bell ∧ (epochDone d e).past = d.past ∧ (epochDone d e).fold = d.fold ∧ (epochDone d e).pwr = d.pwr ∧ (epochDone d e).aux = d.aux ∧ (epochDone d e).pins = d.pins ∧ (epochDone d e).parse = d.parse ∧ (epochDone d e).tm = d.tm ∧ (epochDone d e).cli = d.cli ∧ (epochDone d e).flock = d.flock ∧ (epochDone d e).acc = d.acc ∧ (epochDone d e).media = d.media ∧ (epochDone d e).aud = d.aud ∧ (epochDone d e).vid = d.vid ∧ (epochDone d e).imc = d.imc ∧ (epochDone d e).casc = d.casc ∧ (epochDone d e).lane = d.lane ∧ (epochDone d e).drove = d.drove ∧ (epochDone d e).integ = d.integ := by
  simp [epochDone]

@[simp] theorem answer_other (d : Dev) (c : ReplyCtx) (st : Status) (data : List Nat) :
    (answer d c st data).freeCtr = d.freeCtr ∧ (answer d c st data).memOut = d.memOut ∧ (answer d c st data).bell = d.bell ∧ (answer d c st data).past = d.past ∧ (answer d c st data).fold = d.fold ∧ (answer d c st data).pwr = d.pwr ∧ (answer d c st data).aux = d.aux ∧ (answer d c st data).pins = d.pins ∧ (answer d c st data).parse = d.parse ∧ (answer d c st data).tm = d.tm ∧ (answer d c st data).cli = d.cli ∧ (answer d c st data).flock = d.flock ∧ (answer d c st data).acc = d.acc ∧ (answer d c st data).media = d.media ∧ (answer d c st data).aud = d.aud ∧ (answer d c st data).vid = d.vid ∧ (answer d c st data).imc = d.imc ∧ (answer d c st data).casc = d.casc ∧ (answer d c st data).lane = d.lane ∧ (answer d c st data).drove = d.drove ∧ (answer d c st data).integ = d.integ := by
  unfold answer; split <;> simp

@[simp] theorem followUp_other (d : Dev) (c : ReplyCtx) (st : Status) (data : List Nat) :
    (followUp d c st data).freeCtr = d.freeCtr ∧ (followUp d c st data).memOut = d.memOut ∧ (followUp d c st data).bell = d.bell ∧ (followUp d c st data).past = d.past ∧ (followUp d c st data).fold = d.fold ∧ (followUp d c st data).pwr = d.pwr ∧ (followUp d c st data).aux = d.aux ∧ (followUp d c st data).pins = d.pins ∧ (followUp d c st data).parse = d.parse ∧ (followUp d c st data).tm = d.tm ∧ (followUp d c st data).cli = d.cli ∧ (followUp d c st data).flock = d.flock ∧ (followUp d c st data).acc = d.acc ∧ (followUp d c st data).media = d.media ∧ (followUp d c st data).aud = d.aud ∧ (followUp d c st data).vid = d.vid ∧ (followUp d c st data).imc = d.imc ∧ (followUp d c st data).casc = d.casc ∧ (followUp d c st data).lane = d.lane ∧ (followUp d c st data).drove = d.drove ∧ (followUp d c st data).integ = d.integ := by
  simp [followUp]

@[simp] theorem kAdvance_other (d : Dev) (h : CmdHdr) (c : KCmd) (keep : Bool) :
    ((kAdvance d h c keep).1).freeCtr = d.freeCtr ∧ ((kAdvance d h c keep).1).out = d.out ∧ ((kAdvance d h c keep).1).memOut = d.memOut ∧ ((kAdvance d h c keep).1).bell = d.bell ∧ ((kAdvance d h c keep).1).past = d.past ∧ ((kAdvance d h c keep).1).fold = d.fold ∧ ((kAdvance d h c keep).1).pwr = d.pwr ∧ ((kAdvance d h c keep).1).aux = d.aux ∧ ((kAdvance d h c keep).1).pins = d.pins ∧ ((kAdvance d h c keep).1).parse = d.parse ∧ ((kAdvance d h c keep).1).tm = d.tm ∧ ((kAdvance d h c keep).1).cli = d.cli ∧ ((kAdvance d h c keep).1).flock = d.flock ∧ ((kAdvance d h c keep).1).acc = d.acc ∧ ((kAdvance d h c keep).1).media = d.media ∧ ((kAdvance d h c keep).1).aud = d.aud ∧ ((kAdvance d h c keep).1).vid = d.vid ∧ ((kAdvance d h c keep).1).imc = d.imc ∧ ((kAdvance d h c keep).1).casc = d.casc ∧ ((kAdvance d h c keep).1).lane = d.lane ∧ ((kAdvance d h c keep).1).drove = d.drove ∧ ((kAdvance d h c keep).1).integ = d.integ := by
  simp [kAdvance]

@[simp] theorem closeButton_other (g : Bool) (d : Dev) :
    (closeButton g d).freeCtr = d.freeCtr ∧ (closeButton g d).out = d.out ∧ (closeButton g d).memOut = d.memOut ∧ (closeButton g d).sys = d.sys ∧ (closeButton g d).bell = d.bell ∧ (closeButton g d).past = d.past ∧ (closeButton g d).pwr = d.pwr ∧ (closeButton g d).aux = d.aux ∧ (closeButton g d).pins = d.pins ∧ (closeButton g d).parse = d.parse ∧ (closeButton g d).tm = d.tm ∧ (closeButton g d).cli = d.cli ∧ (closeButton g d).flock = d.flock ∧ (closeButton g d).acc = d.acc ∧ (closeButton g d).media = d.media ∧ (closeButton g d).aud = d.aud ∧ (closeButton g d).vid = d.vid ∧ (closeButton g d).imc = d.imc ∧ (closeButton g d).casc = d.casc ∧ (closeButton g d).lane = d.lane ∧ (closeButton g d).drove = d.drove ∧ (closeButton g d).integ = d.integ := by
  unfold closeButton; split <;> simp

@[simp] theorem kRefuse_other (d : Dev) (h : CmdHdr) (c : KCmd) (st : Status) (reason field : Nat) :
    (kRefuse d h c st reason field).freeCtr = d.freeCtr ∧ (kRefuse d h c st reason field).memOut = d.memOut ∧ (kRefuse d h c st reason field).bell = d.bell ∧ (kRefuse d h c st reason field).past = d.past ∧ (kRefuse d h c st reason field).pwr = d.pwr ∧ (kRefuse d h c st reason field).aux = d.aux ∧ (kRefuse d h c st reason field).pins = d.pins ∧ (kRefuse d h c st reason field).parse = d.parse ∧ (kRefuse d h c st reason field).tm = d.tm ∧ (kRefuse d h c st reason field).cli = d.cli ∧ (kRefuse d h c st reason field).flock = d.flock ∧ (kRefuse d h c st reason field).acc = d.acc ∧ (kRefuse d h c st reason field).media = d.media ∧ (kRefuse d h c st reason field).aud = d.aud ∧ (kRefuse d h c st reason field).vid = d.vid ∧ (kRefuse d h c st reason field).imc = d.imc ∧ (kRefuse d h c st reason field).casc = d.casc ∧ (kRefuse d h c st reason field).lane = d.lane ∧ (kRefuse d h c st reason field).drove = d.drove ∧ (kRefuse d h c st reason field).integ = d.integ := by
  unfold kRefuse; simp only; split <;> simp

@[simp] theorem drawFree_other (d : Dev) :
    ((drawFree d).2).out = d.out ∧ ((drawFree d).2).memOut = d.memOut ∧ ((drawFree d).2).sys = d.sys ∧ ((drawFree d).2).bell = d.bell ∧ ((drawFree d).2).past = d.past ∧ ((drawFree d).2).fold = d.fold ∧ ((drawFree d).2).pwr = d.pwr ∧ ((drawFree d).2).aux = d.aux ∧ ((drawFree d).2).pins = d.pins ∧ ((drawFree d).2).parse = d.parse ∧ ((drawFree d).2).tm = d.tm ∧ ((drawFree d).2).cli = d.cli ∧ ((drawFree d).2).flock = d.flock ∧ ((drawFree d).2).acc = d.acc ∧ ((drawFree d).2).media = d.media ∧ ((drawFree d).2).aud = d.aud ∧ ((drawFree d).2).vid = d.vid ∧ ((drawFree d).2).imc = d.imc ∧ ((drawFree d).2).casc = d.casc ∧ ((drawFree d).2).lane = d.lane ∧ ((drawFree d).2).drove = d.drove ∧ ((drawFree d).2).integ = d.integ := by
  simp [drawFree]

/-! ### The SYS block -/

@[simp] theorem msixSend_sys (d : Dev) :
    (msixSend d).sys.epochStaged = d.sys.epochStaged ∧ (msixSend d).sys.outstanding = d.sys.outstanding ∧ (msixSend d).sys.bar2Win = d.sys.bar2Win ∧ (msixSend d).sys.writeDropAddr = d.sys.writeDropAddr ∧ (msixSend d).sys.darkAddr = d.sys.darkAddr ∧ (msixSend d).sys.darkWrite = d.sys.darkWrite ∧ (msixSend d).sys.sessionDrop = d.sys.sessionDrop ∧ (msixSend d).sys.hostPktDrop = d.sys.hostPktDrop ∧ (msixSend d).sys.rings = d.sys.rings ∧ (msixSend d).sys.sess = d.sys.sess ∧ (msixSend d).sys.mgmtAddr = d.sys.mgmtAddr ∧ (msixSend d).sys.mgmtPort = d.sys.mgmtPort ∧ (msixSend d).sys.mgmtIdle = d.sys.mgmtIdle ∧ (msixSend d).sys.turn = d.sys.turn ∧ (msixSend d).sys.staged = d.sys.staged ∧ (msixSend d).sys.atBell = d.sys.atBell := by
  unfold msixSend; split <;> (try split) <;> simp

@[simp] theorem intUpdate_sys (d : Dev) :
    (intUpdate d).sys.epochStaged = d.sys.epochStaged ∧ (intUpdate d).sys.outstanding = d.sys.outstanding ∧ (intUpdate d).sys.bar2Win = d.sys.bar2Win ∧ (intUpdate d).sys.writeDropAddr = d.sys.writeDropAddr ∧ (intUpdate d).sys.darkAddr = d.sys.darkAddr ∧ (intUpdate d).sys.darkWrite = d.sys.darkWrite ∧ (intUpdate d).sys.sessionDrop = d.sys.sessionDrop ∧ (intUpdate d).sys.hostPktDrop = d.sys.hostPktDrop ∧ (intUpdate d).sys.rings = d.sys.rings ∧ (intUpdate d).sys.sess = d.sys.sess ∧ (intUpdate d).sys.mgmtAddr = d.sys.mgmtAddr ∧ (intUpdate d).sys.mgmtPort = d.sys.mgmtPort ∧ (intUpdate d).sys.mgmtIdle = d.sys.mgmtIdle ∧ (intUpdate d).sys.turn = d.sys.turn ∧ (intUpdate d).sys.staged = d.sys.staged ∧ (intUpdate d).sys.atBell = d.sys.atBell := by
  unfold intUpdate; simp only; split <;> (try split) <;> simp

@[simp] theorem raiseLeaf_sys (d : Dev) (w bit : Nat) :
    (raiseLeaf d w bit).sys.epochStaged = d.sys.epochStaged ∧ (raiseLeaf d w bit).sys.outstanding = d.sys.outstanding ∧ (raiseLeaf d w bit).sys.bar2Win = d.sys.bar2Win ∧ (raiseLeaf d w bit).sys.writeDropAddr = d.sys.writeDropAddr ∧ (raiseLeaf d w bit).sys.darkAddr = d.sys.darkAddr ∧ (raiseLeaf d w bit).sys.darkWrite = d.sys.darkWrite ∧ (raiseLeaf d w bit).sys.sessionDrop = d.sys.sessionDrop ∧ (raiseLeaf d w bit).sys.hostPktDrop = d.sys.hostPktDrop ∧ (raiseLeaf d w bit).sys.rings = d.sys.rings ∧ (raiseLeaf d w bit).sys.sess = d.sys.sess ∧ (raiseLeaf d w bit).sys.mgmtAddr = d.sys.mgmtAddr ∧ (raiseLeaf d w bit).sys.mgmtPort = d.sys.mgmtPort ∧ (raiseLeaf d w bit).sys.mgmtIdle = d.sys.mgmtIdle ∧ (raiseLeaf d w bit).sys.turn = d.sys.turn ∧ (raiseLeaf d w bit).sys.staged = d.sys.staged ∧ (raiseLeaf d w bit).sys.atBell = d.sys.atBell := by
  simp [raiseLeaf]

@[simp] theorem raiseIf_sys (c : Bool) (d : Dev) (w bit : Nat) :
    (raiseIf c d w bit).sys.epochStaged = d.sys.epochStaged ∧ (raiseIf c d w bit).sys.outstanding = d.sys.outstanding ∧ (raiseIf c d w bit).sys.bar2Win = d.sys.bar2Win ∧ (raiseIf c d w bit).sys.writeDropAddr = d.sys.writeDropAddr ∧ (raiseIf c d w bit).sys.darkAddr = d.sys.darkAddr ∧ (raiseIf c d w bit).sys.darkWrite = d.sys.darkWrite ∧ (raiseIf c d w bit).sys.sessionDrop = d.sys.sessionDrop ∧ (raiseIf c d w bit).sys.hostPktDrop = d.sys.hostPktDrop ∧ (raiseIf c d w bit).sys.rings = d.sys.rings ∧ (raiseIf c d w bit).sys.sess = d.sys.sess ∧ (raiseIf c d w bit).sys.mgmtAddr = d.sys.mgmtAddr ∧ (raiseIf c d w bit).sys.mgmtPort = d.sys.mgmtPort ∧ (raiseIf c d w bit).sys.mgmtIdle = d.sys.mgmtIdle ∧ (raiseIf c d w bit).sys.turn = d.sys.turn ∧ (raiseIf c d w bit).sys.staged = d.sys.staged ∧ (raiseIf c d w bit).sys.atBell = d.sys.atBell := by
  unfold raiseIf; split <;> simp

@[simp] theorem clearLeaf_sys (d : Dev) (w : Nat) (v : Word) :
    (clearLeaf d w v).sys.epochStaged = d.sys.epochStaged ∧ (clearLeaf d w v).sys.outstanding = d.sys.outstanding ∧ (clearLeaf d w v).sys.bar2Win = d.sys.bar2Win ∧ (clearLeaf d w v).sys.writeDropAddr = d.sys.writeDropAddr ∧ (clearLeaf d w v).sys.darkAddr = d.sys.darkAddr ∧ (clearLeaf d w v).sys.darkWrite = d.sys.darkWrite ∧ (clearLeaf d w v).sys.sessionDrop = d.sys.sessionDrop ∧ (clearLeaf d w v).sys.hostPktDrop = d.sys.hostPktDrop ∧ (clearLeaf d w v).sys.rings = d.sys.rings ∧ (clearLeaf d w v).sys.sess = d.sys.sess ∧ (clearLeaf d w v).sys.mgmtAddr = d.sys.mgmtAddr ∧ (clearLeaf d w v).sys.mgmtPort = d.sys.mgmtPort ∧ (clearLeaf d w v).sys.mgmtIdle = d.sys.mgmtIdle ∧ (clearLeaf d w v).sys.turn = d.sys.turn ∧ (clearLeaf d w v).sys.staged = d.sys.staged ∧ (clearLeaf d w v).sys.atBell = d.sys.atBell := by
  simp [clearLeaf]

@[simp] theorem cqWrite_sys (d : Dev) (r : Nat) (p : Reply) :
    (cqWrite d r p).sys.epochStaged = d.sys.epochStaged ∧ (cqWrite d r p).sys.outstanding = d.sys.outstanding ∧ (cqWrite d r p).sys.bar2Win = d.sys.bar2Win ∧ (cqWrite d r p).sys.writeDropAddr = d.sys.writeDropAddr ∧ (cqWrite d r p).sys.darkAddr = d.sys.darkAddr ∧ (cqWrite d r p).sys.darkWrite = d.sys.darkWrite ∧ (cqWrite d r p).sys.sessionDrop = d.sys.sessionDrop ∧ (cqWrite d r p).sys.hostPktDrop = d.sys.hostPktDrop ∧ (cqWrite d r p).sys.sess = d.sys.sess ∧ (cqWrite d r p).sys.mgmtAddr = d.sys.mgmtAddr ∧ (cqWrite d r p).sys.mgmtPort = d.sys.mgmtPort ∧ (cqWrite d r p).sys.mgmtIdle = d.sys.mgmtIdle ∧ (cqWrite d r p).sys.turn = d.sys.turn ∧ (cqWrite d r p).sys.staged = d.sys.staged ∧ (cqWrite d r p).sys.atBell = d.sys.atBell := by
  simp [cqWrite, onRing]

@[simp] theorem cqPost_sys (d : Dev) (r : Nat) (p : Reply) :
    (cqPost d r p).sys.epochStaged = d.sys.epochStaged ∧ (cqPost d r p).sys.outstanding = d.sys.outstanding ∧ (cqPost d r p).sys.bar2Win = d.sys.bar2Win ∧ (cqPost d r p).sys.writeDropAddr = d.sys.writeDropAddr ∧ (cqPost d r p).sys.darkAddr = d.sys.darkAddr ∧ (cqPost d r p).sys.darkWrite = d.sys.darkWrite ∧ (cqPost d r p).sys.sessionDrop = d.sys.sessionDrop ∧ (cqPost d r p).sys.hostPktDrop = d.sys.hostPktDrop ∧ (cqPost d r p).sys.sess = d.sys.sess ∧ (cqPost d r p).sys.mgmtAddr = d.sys.mgmtAddr ∧ (cqPost d r p).sys.mgmtPort = d.sys.mgmtPort ∧ (cqPost d r p).sys.mgmtIdle = d.sys.mgmtIdle ∧ (cqPost d r p).sys.turn = d.sys.turn ∧ (cqPost d r p).sys.staged = d.sys.staged ∧ (cqPost d r p).sys.atBell = d.sys.atBell := by
  unfold cqPost; split <;> (try split) <;> simp [onRing]

@[simp] theorem sendReply_sys (d : Dev) (tr : Option Transport) (p : Reply) :
    (sendReply d tr p).sys.epochStaged = d.sys.epochStaged ∧ (sendReply d tr p).sys.outstanding = d.sys.outstanding ∧ (sendReply d tr p).sys.bar2Win = d.sys.bar2Win ∧ (sendReply d tr p).sys.writeDropAddr = d.sys.writeDropAddr ∧ (sendReply d tr p).sys.darkAddr = d.sys.darkAddr ∧ (sendReply d tr p).sys.darkWrite = d.sys.darkWrite ∧ (sendReply d tr p).sys.sessionDrop = d.sys.sessionDrop ∧ (sendReply d tr p).sys.hostPktDrop = d.sys.hostPktDrop ∧ (sendReply d tr p).sys.mgmtAddr = d.sys.mgmtAddr ∧ (sendReply d tr p).sys.mgmtPort = d.sys.mgmtPort ∧ (sendReply d tr p).sys.mgmtIdle = d.sys.mgmtIdle ∧ (sendReply d tr p).sys.turn = d.sys.turn ∧ (sendReply d tr p).sys.staged = d.sys.staged ∧ (sendReply d tr p).sys.atBell = d.sys.atBell := by
  unfold sendReply; split <;> (try split) <;> simp [onSess]

@[simp] theorem answer_sys (d : Dev) (c : ReplyCtx) (st : Status) (data : List Nat) :
    (answer d c st data).sys.epochStaged = d.sys.epochStaged ∧ (answer d c st data).sys.outstanding = d.sys.outstanding ∧ (answer d c st data).sys.bar2Win = d.sys.bar2Win ∧ (answer d c st data).sys.writeDropAddr = d.sys.writeDropAddr ∧ (answer d c st data).sys.darkAddr = d.sys.darkAddr ∧ (answer d c st data).sys.darkWrite = d.sys.darkWrite ∧ (answer d c st data).sys.sessionDrop = d.sys.sessionDrop ∧ (answer d c st data).sys.hostPktDrop = d.sys.hostPktDrop ∧ (answer d c st data).sys.mgmtAddr = d.sys.mgmtAddr ∧ (answer d c st data).sys.mgmtPort = d.sys.mgmtPort ∧ (answer d c st data).sys.mgmtIdle = d.sys.mgmtIdle ∧ (answer d c st data).sys.turn = d.sys.turn ∧ (answer d c st data).sys.staged = d.sys.staged ∧ (answer d c st data).sys.atBell = d.sys.atBell := by
  unfold answer; split <;> simp

@[simp] theorem followUp_sys (d : Dev) (c : ReplyCtx) (st : Status) (data : List Nat) :
    (followUp d c st data).sys.epochStaged = d.sys.epochStaged ∧ (followUp d c st data).sys.bar2Win = d.sys.bar2Win ∧ (followUp d c st data).sys.writeDropAddr = d.sys.writeDropAddr ∧ (followUp d c st data).sys.darkAddr = d.sys.darkAddr ∧ (followUp d c st data).sys.darkWrite = d.sys.darkWrite ∧ (followUp d c st data).sys.sessionDrop = d.sys.sessionDrop ∧ (followUp d c st data).sys.hostPktDrop = d.sys.hostPktDrop ∧ (followUp d c st data).sys.mgmtAddr = d.sys.mgmtAddr ∧ (followUp d c st data).sys.mgmtPort = d.sys.mgmtPort ∧ (followUp d c st data).sys.mgmtIdle = d.sys.mgmtIdle ∧ (followUp d c st data).sys.turn = d.sys.turn ∧ (followUp d c st data).sys.staged = d.sys.staged ∧ (followUp d c st data).sys.atBell = d.sys.atBell := by
  simp [followUp, epochDone]

/-! ### The interrupt tree -/

@[simp] theorem intUpdate_leaf (d : Dev) : (intUpdate d).sys.int.leaf = d.sys.int.leaf := by
  unfold intUpdate msixSend; simp only; split_ifs <;> simp [onInt, emit]

@[simp] theorem intUpdate_leafMask (d : Dev) : (intUpdate d).sys.int.leafMask = d.sys.int.leafMask := by
  unfold intUpdate msixSend; simp only; split_ifs <;> simp [onInt, emit]

@[simp] theorem intUpdate_groupMask (d : Dev) : (intUpdate d).sys.int.groupMask = d.sys.int.groupMask := by
  unfold intUpdate msixSend; simp only; split_ifs <;> simp [onInt, emit]

@[simp] theorem intUpdate_topMask (d : Dev) : (intUpdate d).sys.int.topMask = d.sys.int.topMask := by
  unfold intUpdate msixSend; simp only; split_ifs <;> simp [onInt, emit]

/-- INT_N follows the tree. -/
theorem intUpdate_pin (d : Dev) : (intUpdate d).sys.int.pin = intCond d.sys.int := by
  unfold intUpdate msixSend; simp only; split_ifs <;> simp_all [onInt, emit]

/-- Raising a leaf sets its bit and leaves every other leaf word as it was. -/
theorem raiseLeaf_leaf (d : Dev) (w bit k : Nat) :
    leafWord (raiseLeaf d w bit).sys.int k = if k = w then leafWord d.sys.int w ||| (1#32 <<< bit) else leafWord d.sys.int k := by
  by_cases h : k = w
  · subst h; simp [raiseLeaf, leafWord]
  · simp [raiseLeaf, leafWord, h, tgetD_tset_other _ _ _ _ _ h]

/-! ### A step -/

/-- What a change of the device answers: the next state has the same queue, the device changed, and Pasture as the change posted. -/
theorem nextWith_eq (s : State) (f : Memory → Dev → Dev) :
    nextWith s f = .next { pending := s.pending, mem := memWrites s.mem (f s.mem { s.dev with out := [], memOut := [] }).memOut,
                           dev := { f s.mem { s.dev with out := [], memOut := [] } with memOut := [] } } := rfl

end Sys2Proof.Machine
end

