-- ==== Sys2Proof/Laws/Units.lean ====
section
/-! SUPPORT. Reading one of a kind (a ring, a slice, an engine, a port …) after changing one of that kind. -/

namespace Sys2Proof.Machine

@[simp] theorem ringOf_onRing (d : Dev) (k : Nat) (f : Ring → Ring) : ringOf (onRing d k f) k = f (ringOf d k) := by
  simp [ringOf]

theorem ringOf_onRing_other (d : Dev) (k j : Nat) (f : Ring → Ring) (h : j ≠ k) : ringOf (onRing d k f) j = ringOf d j := by
  simp [ringOf, tgetD, tupd, tget_tset, h]

@[simp] theorem sessOf_onSess (d : Dev) (k : Nat) (f : Sess → Sess) : sessOf (onSess d k f) k = f (sessOf d k) := by
  simp [sessOf]

theorem sessOf_onSess_other (d : Dev) (k j : Nat) (f : Sess → Sess) (h : j ≠ k) : sessOf (onSess d k f) j = sessOf d j := by
  simp [sessOf, tgetD, tupd, tget_tset, h]

@[simp] theorem pastClass_onClass (d : Dev) (k : Nat) (f : PastClass → PastClass) : pastClass (onClass d k f) k = f (pastClass d k) := by
  simp [pastClass]

theorem pastClass_onClass_other (d : Dev) (k j : Nat) (f : PastClass → PastClass) (h : j ≠ k) : pastClass (onClass d k f) j = pastClass d j := by
  simp [pastClass, tgetD, tupd, tget_tset, h]

@[simp] theorem engOf_onEng (d : Dev) (k : Nat) (f : Eng → Eng) : engOf (onEng d k f) k = f (engOf d k) := by
  simp [engOf]

theorem engOf_onEng_other (d : Dev) (k j : Nat) (f : Eng → Eng) (h : j ≠ k) : engOf (onEng d k f) j = engOf d j := by
  simp [engOf, tgetD, tupd, tget_tset, h]

@[simp] theorem groupOf_onFGroup (d : Dev) (k : Nat) (f : FGroup → FGroup) : groupOf (onFGroup d k f) k = f (groupOf d k) := by
  simp [groupOf]

theorem groupOf_onFGroup_other (d : Dev) (k j : Nat) (f : FGroup → FGroup) (h : j ≠ k) : groupOf (onFGroup d k f) j = groupOf d j := by
  simp [groupOf, tgetD, tupd, tget_tset, h]

@[simp] theorem sliceOf_onSlice (d : Dev) (k : Nat) (f : Slice → Slice) : sliceOf (onSlice d k f) k = f (sliceOf d k) := by
  simp [sliceOf]

theorem sliceOf_onSlice_other (d : Dev) (k j : Nat) (f : Slice → Slice) (h : j ≠ k) : sliceOf (onSlice d k f) j = sliceOf d j := by
  simp [sliceOf, tgetD, tupd, tget_tset, h]

@[simp] theorem chanOf_onChan (d : Dev) (k : Nat) (f : Chan → Chan) : chanOf (onChan d k f) k = f (chanOf d k) := by
  simp [chanOf]

theorem chanOf_onChan_other (d : Dev) (k j : Nat) (f : Chan → Chan) (h : j ≠ k) : chanOf (onChan d k f) j = chanOf d j := by
  simp [chanOf, tgetD, tupd, tget_tset, h]

@[simp] theorem stackOf_onStack (d : Dev) (k : Nat) (f : StackRows → StackRows) : stackOf (onStack d k f) k = f (stackOf d k) := by
  simp [stackOf]

theorem stackOf_onStack_other (d : Dev) (k j : Nat) (f : StackRows → StackRows) (h : j ≠ k) : stackOf (onStack d k f) j = stackOf d j := by
  simp [stackOf, tgetD, tupd, tget_tset, h]

@[simp] theorem intClass_onIntClass (d : Dev) (k : Nat) (f : IntClass → IntClass) : intClass (onIntClass d k f) k = f (intClass d k) := by
  simp [intClass]

theorem intClass_onIntClass_other (d : Dev) (k j : Nat) (f : IntClass → IntClass) (h : j ≠ k) : intClass (onIntClass d k f) j = intClass d j := by
  simp [intClass, tgetD, tupd, tget_tset, h]

@[simp] theorem cvOf_onCv (d : Dev) (k : Nat) (f : CvUnit → CvUnit) : cvOf (onCv d k f) k = f (cvOf d k) := by
  simp [cvOf]

theorem cvOf_onCv_other (d : Dev) (k j : Nat) (f : CvUnit → CvUnit) (h : j ≠ k) : cvOf (onCv d k f) j = cvOf d j := by
  simp [cvOf, tgetD, tupd, tget_tset, h]

@[simp] theorem portOf_onPort (d : Dev) (k : Nat) (f : CliPort → CliPort) : portOf (onPort d k f) k = f (portOf d k) := by
  simp [portOf]

theorem portOf_onPort_other (d : Dev) (k j : Nat) (f : CliPort → CliPort) (h : j ≠ k) : portOf (onPort d k f) j = portOf d j := by
  simp [portOf, tgetD, tupd, tget_tset, h]

@[simp] theorem laneOf_onLane (d : Dev) (k : Nat) (f : Lane → Lane) : laneOf (onLane d k f) k = f (laneOf d k) := by
  simp [laneOf]

theorem laneOf_onLane_other (d : Dev) (k j : Nat) (f : Lane → Lane) (h : j ≠ k) : laneOf (onLane d k f) j = laneOf d j := by
  simp [laneOf, tgetD, tupd, tget_tset, h]

@[simp] theorem laneGroup_onGroupL (d : Dev) (k : Nat) (f : LaneGroup → LaneGroup) : laneGroup (onGroupL d k f) k = f (laneGroup d k) := by
  simp [laneGroup]

theorem laneGroup_onGroupL_other (d : Dev) (k j : Nat) (f : LaneGroup → LaneGroup) (h : j ≠ k) : laneGroup (onGroupL d k f) j = laneGroup d j := by
  simp [laneGroup, tgetD, tupd, tget_tset, h]

@[simp] theorem hsOf_onHs (d : Dev) (k : Nat) (f : Headset → Headset) : hsOf (onHs d k f) k = f (hsOf d k) := by
  simp [hsOf]

theorem hsOf_onHs_other (d : Dev) (k j : Nat) (f : Headset → Headset) (h : j ≠ k) : hsOf (onHs d k f) j = hsOf d j := by
  simp [hsOf, tgetD, tupd, tget_tset, h]

@[simp] theorem tdmOf_onTdm (d : Dev) (k : Nat) (f : TdmPort → TdmPort) : tdmOf (onTdm d k f) k = f (tdmOf d k) := by
  simp [tdmOf]

theorem tdmOf_onTdm_other (d : Dev) (k j : Nat) (f : TdmPort → TdmPort) (h : j ≠ k) : tdmOf (onTdm d k f) j = tdmOf d j := by
  simp [tdmOf, tgetD, tupd, tget_tset, h]

@[simp] theorem rootOf_onRoot (d : Dev) (k : Nat) (f : TmRoot → TmRoot) : rootOf (onRoot d k f) k = f (rootOf d k) := by
  simp [rootOf]

theorem rootOf_onRoot_other (d : Dev) (k j : Nat) (f : TmRoot → TmRoot) (h : j ≠ k) : rootOf (onRoot d k f) j = rootOf d j := by
  simp [rootOf, tgetD, tupd, tget_tset, h]

@[simp] theorem cascPort_onCascPort (d : Dev) (k : Nat) (f : CascPort → CascPort) : cascPort (onCascPort d k f) k = f (cascPort d k) := by
  simp [cascPort]

theorem cascPort_onCascPort_other (d : Dev) (k j : Nat) (f : CascPort → CascPort) (h : j ≠ k) : cascPort (onCascPort d k f) j = cascPort d j := by
  simp [cascPort, tgetD, tupd, tget_tset, h]

@[simp] theorem sliceOf_accCount (d : Dev) (n i k : Nat) :
    sliceOf (accCount d n i k) n = { sliceOf d n with cnt := tset (sliceOf d n).cnt i (satAdd (tgetD (sliceOf d n).cnt i 0) k) } := by
  simp [accCount]

theorem sliceOf_accCount_other (d : Dev) (n j i k : Nat) (h : j ≠ n) : sliceOf (accCount d n i k) j = sliceOf d j := by
  simp only [accCount, sliceOf_onSlice_other _ _ _ _ h]

@[simp] theorem sliceOf_raiseLeaf (d : Dev) (w b n : Nat) : sliceOf (raiseLeaf d w b) n = sliceOf d n := by simp [sliceOf]

@[simp] theorem sliceOf_accLeaf (d : Dev) (m b n : Nat) : sliceOf (accLeaf d m b) n = sliceOf d n := by simp [accLeaf]

@[simp] theorem sliceOf_onBond (d : Dev) (f : BondState → BondState) (n : Nat) : sliceOf (onBond d f) n = sliceOf d n := by simp [sliceOf]

end Sys2Proof.Machine
end

