-- ==== Sys2Proof/Laws/Access.lean ====
section
/-! SUPPORT. What a PLOAM message that is heard, and a bond message that is the next of its epoch, come to. -/

namespace Sys2Proof.Machine

/-- A message that is heard is processed at once. -/
theorem hears_rx {d : Dev} {n : Nat} {h : PloamHdr} (H : Hears d n h) (m : PloamMsg) (act : Dev → Dev) : ploamRx n h m act d = act d := by
  simp [ploamRx, H.1]

theorem hears_ploam {d : Dev} {n : Nat} {h : PloamHdr} (H : Hears d n h) (act : PloamAct) :
    ploam d n h act = heard n h (act (accCount d n 0 1)).2 (act (accCount d n 0 1)).1 := by
  obtain ⟨-, h1, h2, h3, h4, h5, h6⟩ := H
  unfold ploam heard
  rcases h6 with h6 | ⟨h6, h7, h8⟩
  · simp [h1, h2, h3, h5, h6]
  · simp [h1, h2, h3, h5, h6, h7, h8]

theorem hears_unless {d : Dev} {n : Nat} {h : PloamHdr} (H : Hears d n h) (act : PloamAct) :
    unlessKilled n act (accCount d n 0 1) = act (accCount d n 0 1) := by
  simp [unlessKilled, H.2.2.2.2.1]

theorem told_bondMsg {d : Dev} {n : Nat} {h : BondHdr} (H : BondTold d n h) (type : Nat) (offer : Bool) (act : Dev → Nat × Dev) :
    bondMsg d n type h offer act = bondTold n type h (act d).1 (act d).2 := by
  obtain ⟨h1, h2, h3, h4, h5, h6, h7, h8⟩ := H
  unfold bondMsg bondTold
  simp [h2, h3, h4, h5, h6, h7, h8, Nat.not_le.mpr h1]

end Sys2Proof.Machine
end

