-- ==== Sys2Proof/Laws/Memory.lean ====
section
/-! SUPPORT. What a write to Pasture does: reading after it, and the canonical form it keeps. -/

namespace Sys2Proof.Machine

theorem memByte_erase_other (m : Memory) (a b : Nat) (h : b ≠ a) : memByte (memErase m a) b = memByte m b := by
  induction m with
  | nil => rfl
  | cons e r ih =>
    obtain ⟨k, v⟩ := e
    by_cases hk : k = a
    · have : k ≠ b := by omega
      simp [memErase, memByte, hk, Ne.symm h]
    · by_cases hb : k = b
      · simp [memErase, memByte, hb, h]
      · simp [memErase, memByte, hk, hb, ih]

theorem memByte_put_other (m : Memory) (a b : Nat) (v : Byte) (h : b ≠ a) : memByte (memPut m a v) b = memByte m b := by
  have h' : a ≠ b := Ne.symm h
  induction m with
  | nil => simp [memPut, memByte, h']
  | cons e r ih =>
    obtain ⟨k, w⟩ := e
    unfold memPut
    split
    · simp [memByte, h']
    · split
      · next hk => subst hk; simp [memByte, h']
      · simp [memByte, ih]

theorem memByte_put_same (m : Memory) (a : Nat) (v : Byte) : memByte (memPut m a v) a = v := by
  induction m with
  | nil => simp [memPut, memByte]
  | cons e r ih =>
    obtain ⟨k, w⟩ := e
    unfold memPut
    split
    · simp [memByte]
    · split
      · simp [memByte]
      · next h1 h2 =>
        have : k ≠ a := fun h => h2 h.symm
        simp [memByte, this, ih]

theorem memByte_of_all_gt (m : Memory) (a : Nat) (h : ∀ e ∈ m, a < e.1) : memByte m a = memBlank := by
  induction m with
  | nil => rfl
  | cons e r ih =>
    obtain ⟨k, w⟩ := e
    have hk : k ≠ a := by have := h (k, w) (by simp); simp at this; omega
    simp [memByte, hk, ih (fun e he => h e (by simp [he]))]

theorem memByte_erase_same (m : Memory) (a : Nat) (hm : m.Pairwise (fun x y => x.1 < y.1)) : memByte (memErase m a) a = memBlank := by
  induction m with
  | nil => rfl
  | cons e r ih =>
    obtain ⟨k, w⟩ := e
    rw [List.pairwise_cons] at hm
    by_cases hk : k = a
    · subst hk; simp [memErase]; exact memByte_of_all_gt r k (fun e he => hm.1 e he)
    · simp [memErase, memByte, hk, ih hm.2]

/-- A byte written is read back, and every other byte reads as before. -/
theorem memByte_set (m : Memory) (a b : Nat) (v : Byte) (hm : Memory.wf m) :
    memByte (memSet m a v) b = if b = a then v else memByte m b := by
  unfold memSet
  by_cases hb : b = a
  · subst hb
    by_cases hv : v = memBlank
    · simp [hv, memByte_erase_same m b hm.1]
    · simp [hv, memByte_put_same]
  · by_cases hv : v = memBlank
    · simp [hv, hb, memByte_erase_other m a b hb]
    · simp [hv, hb, memByte_put_other m a b v hb]

theorem mem_of_mem_erase (m : Memory) (a : Nat) (e : Host.Cell) (h : e ∈ memErase m a) : e ∈ m := by
  induction m with
  | nil => simp [memErase] at h
  | cons x r ih =>
    obtain ⟨k, w⟩ := x
    unfold memErase at h
    split at h
    · exact List.mem_cons_of_mem _ h
    · cases h with
      | head => simp
      | tail _ h => exact List.mem_cons_of_mem _ (ih h)

theorem memErase_wf (m : Memory) (a : Nat) (h : Memory.wf m) : Memory.wf (memErase m a) := by
  refine ⟨?_, fun e he => h.2 e (mem_of_mem_erase m a e he)⟩
  obtain ⟨hp, -⟩ := h
  induction m with
  | nil => simp [memErase]
  | cons x r ih =>
    obtain ⟨k, w⟩ := x
    rw [List.pairwise_cons] at hp
    unfold memErase
    split
    · exact hp.2
    · rw [List.pairwise_cons]
      exact ⟨fun e he => hp.1 e (mem_of_mem_erase r a e he), ih hp.2⟩

theorem mem_of_mem_put (m : Memory) (a : Nat) (v : Byte) (e : Host.Cell) (h : e ∈ memPut m a v) : e = (a, v) ∨ e ∈ m := by
  induction m with
  | nil => simp [memPut] at h; exact .inl h
  | cons x r ih =>
    obtain ⟨k, w⟩ := x
    unfold memPut at h
    split at h
    · cases h with
      | head => exact .inl rfl
      | tail _ h => exact .inr h
    · split at h
      · cases h with
        | head => exact .inl rfl
        | tail _ h => exact .inr (List.mem_cons_of_mem _ h)
      · cases h with
        | head => exact .inr (by simp)
        | tail _ h => exact (ih h).imp id (List.mem_cons_of_mem _)

theorem memPut_wf (m : Memory) (a : Nat) (v : Byte) (ha : a < pastureSize) (hv : v ≠ memBlank) (h : Memory.wf m) : Memory.wf (memPut m a v) := by
  refine ⟨?_, fun e he => ?_⟩
  · obtain ⟨hp, -⟩ := h
    induction m with
    | nil => simp [memPut]
    | cons x r ih =>
      obtain ⟨k, w⟩ := x
      have hp' := hp
      rw [List.pairwise_cons] at hp
      unfold memPut
      split
      · next hlt =>
        rw [List.pairwise_cons]
        refine ⟨fun e he => ?_, hp'⟩
        cases he with
        | head => exact hlt
        | tail _ he => have := hp.1 e he; simp only at this ⊢; omega
      · split
        · next heq => subst heq; rw [List.pairwise_cons]; exact ⟨hp.1, hp.2⟩
        · next h1 h2 =>
          rw [List.pairwise_cons]
          refine ⟨fun e he => ?_, ih hp.2⟩
          rcases mem_of_mem_put r a v e he with rfl | he
          · simp only; omega
          · exact hp.1 e he
  · rcases mem_of_mem_put m a v e he with rfl | he
    · exact ⟨ha, hv⟩
    · exact h.2 e he

/-- A byte written keeps the canonical form. -/
theorem memSet_wf (m : Memory) (a : Nat) (v : Byte) (ha : a < pastureSize) (h : Memory.wf m) : Memory.wf (memSet m a v) := by
  unfold memSet
  split
  · exact memErase_wf m a h
  · exact memPut_wf m a v ha ‹_› h

/-- Bytes written keep the canonical form. -/
theorem memWrite_wf (m : Memory) (a : Nat) (bs : List Byte) (h : Memory.wf m) : Memory.wf (memWrite m a bs) := by
  induction bs generalizing m a with
  | nil => exact h
  | cons v r ih =>
    unfold memWrite
    apply ih
    split
    · exact memSet_wf m a v ‹_› h
    · exact h

/-- Several writes keep the canonical form. -/
theorem memWrites_wf (m : Memory) (ws : List (Nat × List Byte)) (h : Memory.wf m) : Memory.wf (memWrites m ws) := by
  induction ws generalizing m with
  | nil => exact h
  | cons x r ih => exact ih _ (memWrite_wf m x.1 x.2 h)

/-- A byte outside what a write covers reads as before. -/
theorem memByte_write_other (m : Memory) (a b : Nat) (bs : List Byte) (hm : Memory.wf m) (h : b < a ∨ a + bs.length ≤ b) :
    memByte (memWrite m a bs) b = memByte m b := by
  induction bs generalizing m a with
  | nil => rfl
  | cons v r ih =>
    unfold memWrite
    simp only [List.length_cons] at h
    have hb : b ≠ a := by omega
    rw [ih]
    · split
      · rw [memByte_set m a b v hm]; simp [hb]
      · rfl
    · split
      · exact memSet_wf m a v ‹_› hm
      · exact hm
    · omega

/-- A byte inside what a write covers reads as written. -/
theorem memByte_write_in (m : Memory) (a i : Nat) (bs : List Byte) (hm : Memory.wf m) (h : i < bs.length) (ha : a + i < pastureSize) :
    memByte (memWrite m a bs) (a + i) = bs[i] := by
  induction bs generalizing m a i with
  | nil => simp at h
  | cons v r ih =>
    unfold memWrite
    cases i with
    | zero =>
      have hlt : a < pastureSize := by omega
      rw [memByte_write_other _ _ _ _ _ (by omega)]
      · simp only [hlt, if_true]
        have := memByte_set m a (a + 0) v hm
        simpa using this
      · simp only [hlt, if_true]; exact memSet_wf m a v hlt hm
    | succ j =>
      have e : a + (j + 1) = (a + 1) + j := by omega
      rw [e]
      rw [ih]
      · simp
      · split
        · exact memSet_wf m a v ‹_› hm
        · exact hm
      · simp at h; omega
      · omega

end Sys2Proof.Machine
end

