-- ==== Sys2Proof/Laws/Step.lean ====
section
/-! SUPPORT. What a step can do, said once. -/

namespace Sys2Proof.Machine

/-- Every command changes the device and then makes the writes to Pasture that it posted, or is the power-on reset; none touches the queue. -/
theorem exec_cases (i : Instr) (s : State) :
    (∃ d : Dev, exec i s = .next { pending := s.pending, mem := memWrites s.mem d.memOut, dev := { d with memOut := [] } })
      ∨ exec i s = .next { pending := s.pending, mem := [], dev := powerOnReset s.dev } := by
  cases i
  case powerOnReset => exact .inr rfl
  all_goals exact .inl ⟨_, rfl⟩

/-- A command that is a Kervon packet is dequeued as one; an image that it names is read in Pasture. -/
theorem exec_kervon (i : Instr) (s : State) (h : CmdHdr) (c : KCmd) (hk : kOf i = some (h, c)) :
    exec i s = kervonNext h (withImage s.mem c) (actOf (withImage s.mem c)) s := by
  cases i <;> first | (cases hk; rfl) | cases hk

/-- A command that is a Kervon packet is dequeued as the packet that the control cores find. -/
theorem exec_packet (i : Instr) (s : State) (h : CmdHdr) (c : KCmd) (hk : packetOf s i = some (h, c)) : exec i s = kervonNext h c (actOf c) s := by
  unfold packetOf at hk
  cases hp : kOf i with
  | none => rw [hp] at hk; cases hk
  | some p => rw [hp] at hk; cases hk; exact exec_kervon i s _ _ hp

/-- The next state of a change of the device, from the device as the command finds it. -/
theorem nextDev_start (s : State) (f : Dev → Dev) :
    nextDev s f = .next { pending := s.pending, mem := memWrites s.mem (f s.start).memOut, dev := { f s.start with memOut := [] } } := rfl

/-- A change of the device that posts nothing to Pasture leaves the rest of the state. -/
theorem nextDev_become (s : State) (f : Dev → Dev) (h : (f s.start).memOut = []) : nextDev s f = s.become (f s.start) := by
  rw [nextDev_start, h, State.become]
  congr 2
  rw [← h]

/-- A change of the device ends in what it makes of the device. -/
theorem ends_nextDev (s : State) (f : Dev → Dev) (P : State → Prop) :
    Ends (nextDev s f) P ↔ P { pending := s.pending, mem := memWrites s.mem (f s.start).memOut, dev := { f s.start with memOut := [] } } := by
  constructor
  · rintro ⟨t, h, hp⟩; rw [nextDev_start] at h; cases h; exact hp
  · exact fun hp => ⟨_, nextDev_start s f, hp⟩

/-- A next state that is named ends in what holds of it. -/
@[simp] theorem ends_become (s : State) (d : Dev) (P : State → Prop) : Ends (s.become d) P ↔ P { s with dev := d } := by
  constructor
  · rintro ⟨t, h, hp⟩; cases h; exact hp
  · exact fun hp => ⟨_, rfl, hp⟩

@[simp] theorem start_out (s : State) : s.start.out = [] := rfl
@[simp] theorem start_memOut (s : State) : s.start.memOut = [] := rfl

end Sys2Proof.Machine
end

