-- ==== Sys2Proof/Laws/Touch.lean ====
section
/-! SUPPORT. Which parts of the device an operation touches: how touches compose, and the base operations' own. -/

namespace Sys2Proof.Machine

/-- Whether one list of parts lies in another. -/
def subParts (a b : List Part) : Bool := a.all (fun p => b.contains p)

theorem subParts_trans {a b c : List Part} (h : subParts a b = true) (k : subParts b c = true) : subParts a c = true := by
  simp only [subParts, List.all_eq_true, List.contains_iff_mem] at *
  exact fun p hp => k p (h p hp)

theorem subParts_self (a : List Part) : subParts a a = true := by
  simp only [subParts, List.all_eq_true, List.contains_iff_mem]
  exact fun p hp => hp

theorem Touches.refl {ps : List Part} {d : Dev} : Touches ps d d := by
  constructor; intro p _; cases p <;> rfl

theorem Part.same_trans {p : Part} {a b c : Dev} (h : p.same a b) (k : p.same b c) : p.same a c := by
  cases p <;> exact Eq.trans k h

/-- Touches compose; the later one's parts must be among those allowed. -/
theorem Touches.andThen {ps qs : List Part} {a b c : Dev} (h : Touches ps a b) (k : Touches qs b c) (hs : subParts qs ps = true := by rfl) : Touches ps a c := by
  constructor
  intro p hp
  refine Part.same_trans (h.same p hp) (k.same p ?_)
  cases hq : qs.contains p
  · rfl
  · have := List.all_eq_true.mp hs p (List.contains_iff_mem.mp hq)
    rw [this] at hp; exact hp

theorem Touches.mono {ps qs : List Part} {a c : Dev} (k : Touches qs a c) (hs : subParts qs ps = true := by rfl) : Touches ps a c := Touches.andThen Touches.refl k hs

/-- What an operation that may give nothing touches when it gives something; `pr` picks the device out of what it gives. -/
structure OptTouch {α : Type} (pr : α → Dev) (ps : List Part) (d : Dev) (o : Option α) : Prop where
  of_some : ∀ {x}, o = some x → Touches ps d (pr x)

theorem OptTouch.none {α : Type} {pr : α → Dev} {ps : List Part} {d : Dev} : OptTouch pr ps d Option.none := ⟨fun h => by cases h⟩

theorem OptTouch.some {α : Type} {pr : α → Dev} {ps : List Part} {d : Dev} {x : α} (h : Touches ps d (pr x)) : OptTouch pr ps d (Option.some x) :=
  ⟨fun e => by cases e; exact h⟩

theorem OptTouch.andThen {α : Type} {pr : α → Dev} {ps qs : List Part} {a b : Dev} {o : Option α} (h : Touches ps a b) (k : OptTouch pr qs b o)
    (hs : subParts qs ps = true := by rfl) : OptTouch pr ps a o := ⟨fun e => h.andThen (k.of_some e) hs⟩

/-- A fold of changes touches what each of them touches. -/
theorem Touches.foldl {β : Type} {ps : List Part} {a e : Dev} {f : Dev → β → Dev} {l : List β} (h : Touches ps a e)
    (k : ∀ d b, Touches ps a d → Touches ps a (f d b)) : Touches ps a (l.foldl f e) := by
  induction l generalizing e with
  | nil => exact h
  | cons b r ih => exact ih (k e b h)

theorem setSys_touch {ps : List Part} {a e : Dev} {y : SysState} (h : Touches ps a e) (h1 : ps.contains .sys = true := by rfl)
    (h2 : ps.contains .epoch = true ∨ y.epochStaged = e.sys.epochStaged := by first | exact .inl rfl | exact .inr rfl | exact .inr (by (repeat' split) <;> rfl))
    (h3 : ps.contains .staged = true ∨ y.staged = e.sys.staged := by first | exact .inl rfl | exact .inr rfl | exact .inr (by (repeat' split) <;> rfl))
    (h4 : ps.contains .rings = true ∨ y.rings = e.sys.rings := by first | exact .inl rfl | exact .inr rfl | exact .inr (by (repeat' split) <;> rfl))
    (h5 : ps.contains .sess = true ∨ y.sess = e.sys.sess := by first | exact .inl rfl | exact .inr rfl | exact .inr (by (repeat' split) <;> rfl)) :
    Touches ps a { e with sys := y } := by
  constructor
  intro p hp
  have := h.same p hp
  cases p <;> first
    | exact this
    | (rw [h1] at hp; cases hp)
    | (rcases h2 with h2 | h2; · (rw [h2] at hp; cases hp)
       exact h2.trans this)
    | (rcases h3 with h2 | h2; · (rw [h2] at hp; cases hp)
       exact h2.trans this)
    | (rcases h4 with h2 | h2; · (rw [h2] at hp; cases hp)
       exact h2.trans this)
    | (rcases h5 with h2 | h2; · (rw [h2] at hp; cases hp)
       exact h2.trans this)

theorem setBell_touch {ps : List Part} {a e : Dev} {y : BellState} (h : Touches ps a e) (h1 : ps.contains .bell = true := by rfl)
    (h2 : ps.contains .tick = true ∨ y.tick = e.bell.tick := by first | exact .inl rfl | exact .inr rfl | exact .inr (by (repeat' split) <;> rfl)) :
    Touches ps a { e with bell := y } := by
  constructor
  intro p hp
  have := h.same p hp
  cases p <;> first
    | exact this
    | (rw [h1] at hp; cases hp)
    | (rcases h2 with h2 | h2; · (rw [h2] at hp; cases hp)
       exact h2.trans this)

theorem setFold_touch {ps : List Part} {a e : Dev} {y : FoldState} (h : Touches ps a e) (h1 : ps.contains .fold = true := by rfl)
    (h2 : ps.contains .otp = true ∨ y.otp = e.fold.otp := by first | exact .inl rfl | exact .inr rfl | exact .inr (by (repeat' split) <;> rfl))
    (h3 : ps.contains .resetReq = true ∨ y.resetReq = e.fold.resetReq := by first | exact .inl rfl | exact .inr rfl | exact .inr (by (repeat' split) <;> rfl)) :
    Touches ps a { e with fold := y } := by
  constructor
  intro p hp
  have := h.same p hp
  cases p <;> first
    | exact this
    | (rw [h1] at hp; cases hp)
    | (rcases h2 with h2 | h2; · (rw [h2] at hp; cases hp)
       exact h2.trans this)
    | (rcases h3 with h2 | h2; · (rw [h2] at hp; cases hp)
       exact h2.trans this)

theorem setFreeCtr_touch {ps : List Part} {a e : Dev} {y : Nat} (h : Touches ps a e) (h1 : ps.contains .freeCtr = true := by rfl) : Touches ps a { e with freeCtr := y } := by
  constructor
  intro p hp
  have := h.same p hp
  cases p <;> first
    | exact this
    | (rw [h1] at hp; cases hp)

theorem setOut_touch {ps : List Part} {a e : Dev} {y : List Out} (h : Touches ps a e) (h1 : ps.contains .out = true := by rfl) : Touches ps a { e with out := y } := by
  constructor
  intro p hp
  have := h.same p hp
  cases p <;> first
    | exact this
    | (rw [h1] at hp; cases hp)

theorem setMemOut_touch {ps : List Part} {a e : Dev} {y : List (Nat × List Byte)} (h : Touches ps a e) (h1 : ps.contains .memOut = true := by rfl) : Touches ps a { e with memOut := y } := by
  constructor
  intro p hp
  have := h.same p hp
  cases p <;> first
    | exact this
    | (rw [h1] at hp; cases hp)

theorem setPast_touch {ps : List Part} {a e : Dev} {y : PastState} (h : Touches ps a e) (h1 : ps.contains .past = true := by rfl) : Touches ps a { e with past := y } := by
  constructor
  intro p hp
  have := h.same p hp
  cases p <;> first
    | exact this
    | (rw [h1] at hp; cases hp)

theorem setPwr_touch {ps : List Part} {a e : Dev} {y : PwrState} (h : Touches ps a e) (h1 : ps.contains .pwr = true := by rfl) : Touches ps a { e with pwr := y } := by
  constructor
  intro p hp
  have := h.same p hp
  cases p <;> first
    | exact this
    | (rw [h1] at hp; cases hp)

theorem setAux_touch {ps : List Part} {a e : Dev} {y : PwrAux} (h : Touches ps a e) (h1 : ps.contains .aux = true := by rfl) : Touches ps a { e with aux := y } := by
  constructor
  intro p hp
  have := h.same p hp
  cases p <;> first
    | exact this
    | (rw [h1] at hp; cases hp)

theorem setPins_touch {ps : List Part} {a e : Dev} {y : PinState} (h : Touches ps a e) (h1 : ps.contains .pins = true := by rfl) : Touches ps a { e with pins := y } := by
  constructor
  intro p hp
  have := h.same p hp
  cases p <;> first
    | exact this
    | (rw [h1] at hp; cases hp)

theorem setParse_touch {ps : List Part} {a e : Dev} {y : ParseState} (h : Touches ps a e) (h1 : ps.contains .parse = true := by rfl) : Touches ps a { e with parse := y } := by
  constructor
  intro p hp
  have := h.same p hp
  cases p <;> first
    | exact this
    | (rw [h1] at hp; cases hp)

theorem setTm_touch {ps : List Part} {a e : Dev} {y : TmState} (h : Touches ps a e) (h1 : ps.contains .tm = true := by rfl) : Touches ps a { e with tm := y } := by
  constructor
  intro p hp
  have := h.same p hp
  cases p <;> first
    | exact this
    | (rw [h1] at hp; cases hp)

theorem setCli_touch {ps : List Part} {a e : Dev} {y : CliState} (h : Touches ps a e) (h1 : ps.contains .cli = true := by rfl) : Touches ps a { e with cli := y } := by
  constructor
  intro p hp
  have := h.same p hp
  cases p <;> first
    | exact this
    | (rw [h1] at hp; cases hp)

theorem setFlock_touch {ps : List Part} {a e : Dev} {y : FlockState} (h : Touches ps a e) (h1 : ps.contains .flock = true := by rfl) : Touches ps a { e with flock := y } := by
  constructor
  intro p hp
  have := h.same p hp
  cases p <;> first
    | exact this
    | (rw [h1] at hp; cases hp)

theorem setAcc_touch {ps : List Part} {a e : Dev} {y : AccState} (h : Touches ps a e) (h1 : ps.contains .acc = true := by rfl) : Touches ps a { e with acc := y } := by
  constructor
  intro p hp
  have := h.same p hp
  cases p <;> first
    | exact this
    | (rw [h1] at hp; cases hp)

theorem setMedia_touch {ps : List Part} {a e : Dev} {y : MediaState} (h : Touches ps a e) (h1 : ps.contains .media = true := by rfl) : Touches ps a { e with media := y } := by
  constructor
  intro p hp
  have := h.same p hp
  cases p <;> first
    | exact this
    | (rw [h1] at hp; cases hp)

theorem setAud_touch {ps : List Part} {a e : Dev} {y : AudState} (h : Touches ps a e) (h1 : ps.contains .aud = true := by rfl) : Touches ps a { e with aud := y } := by
  constructor
  intro p hp
  have := h.same p hp
  cases p <;> first
    | exact this
    | (rw [h1] at hp; cases hp)

theorem setVid_touch {ps : List Part} {a e : Dev} {y : VidState} (h : Touches ps a e) (h1 : ps.contains .vid = true := by rfl) : Touches ps a { e with vid := y } := by
  constructor
  intro p hp
  have := h.same p hp
  cases p <;> first
    | exact this
    | (rw [h1] at hp; cases hp)

theorem setImc_touch {ps : List Part} {a e : Dev} {y : ImcState} (h : Touches ps a e) (h1 : ps.contains .imc = true := by rfl) : Touches ps a { e with imc := y } := by
  constructor
  intro p hp
  have := h.same p hp
  cases p <;> first
    | exact this
    | (rw [h1] at hp; cases hp)

theorem setCasc_touch {ps : List Part} {a e : Dev} {y : CascState} (h : Touches ps a e) (h1 : ps.contains .casc = true := by rfl) : Touches ps a { e with casc := y } := by
  constructor
  intro p hp
  have := h.same p hp
  cases p <;> first
    | exact this
    | (rw [h1] at hp; cases hp)

theorem setLane_touch {ps : List Part} {a e : Dev} {y : LaneState} (h : Touches ps a e) (h1 : ps.contains .lane = true := by rfl) : Touches ps a { e with lane := y } := by
  constructor
  intro p hp
  have := h.same p hp
  cases p <;> first
    | exact this
    | (rw [h1] at hp; cases hp)

theorem setDrove_touch {ps : List Part} {a e : Dev} {y : DroveState} (h : Touches ps a e) (h1 : ps.contains .drove = true := by rfl) : Touches ps a { e with drove := y } := by
  constructor
  intro p hp
  have := h.same p hp
  cases p <;> first
    | exact this
    | (rw [h1] at hp; cases hp)

theorem setInteg_touch {ps : List Part} {a e : Dev} {y : IntegState} (h : Touches ps a e) (h1 : ps.contains .integ = true := by rfl) : Touches ps a { e with integ := y } := by
  constructor
  intro p hp
  have := h.same p hp
  cases p <;> first
    | exact this
    | (rw [h1] at hp; cases hp)

end Sys2Proof.Machine
end

