-- ==== Sys2Proof/Laws/TouchBase.lean ====
section
/-! SUPPORT. Which parts of the device the base operations touch. -/

namespace Sys2Proof.Machine

set_option linter.all false
set_option Elab.async false

theorem partOr_left {b : Bool} {q : Prop} (h : b = true) : b = true ∨ q := .inl h

theorem OptTouch.getD {qs : List Part} {b : Dev} {o : Option Dev} (h : OptTouch (α := Dev) (fun x => x) qs b o) : Touches qs b (o.getD b) := by
  cases ho : o with
  | none => exact .refl
  | some x => exact h.of_some ho

theorem onSys_step {ps : List Part} {a e : Dev} {f : SysState → SysState} (h : Touches ps a e) (h1 : ps.contains .sys = true)
    (h2 : ps.contains .epoch = true ∨ (f e.sys).epochStaged = e.sys.epochStaged) (h3 : ps.contains .staged = true ∨ (f e.sys).staged = e.sys.staged)
    (h4 : ps.contains .rings = true ∨ (f e.sys).rings = e.sys.rings) (h5 : ps.contains .sess = true ∨ (f e.sys).sess = e.sys.sess) :
    Touches ps a (onSys e f) := setSys_touch h h1 h2 h3 h4 h5

theorem onBell_step {ps : List Part} {a e : Dev} {f : BellState → BellState} (h : Touches ps a e) (h1 : ps.contains .bell = true)
    (h2 : ps.contains .tick = true ∨ (f e.bell).tick = e.bell.tick) : Touches ps a (onBell e f) := setBell_touch h h1 h2

theorem onFold_step {ps : List Part} {a e : Dev} {f : FoldState → FoldState} (h : Touches ps a e) (h1 : ps.contains .fold = true)
    (h2 : ps.contains .otp = true ∨ (f e.fold).otp = e.fold.otp) (h3 : ps.contains .resetReq = true ∨ (f e.fold).resetReq = e.fold.resetReq) :
    Touches ps a (onFold e f) := setFold_touch h h1 h2 h3

theorem onFree_touch (d : Dev) (f : Nat → Nat) : Touches [.freeCtr] d (onFree d f) := setFreeCtr_touch .refl

theorem emit_touch (d : Dev) (k : OutKind) (chan : Nat) (vals : List Int) : Touches [.out] d (emit d k chan vals) := setOut_touch .refl

theorem postMem_touch (d : Dev) (a : Nat) (bs : List Byte) : Touches [.memOut] d (postMem d a bs) := setMemOut_touch .refl

theorem onInt_touch (d : Dev) (f : IntState → IntState) : Touches [.sys] d (onInt d f) := setSys_touch .refl

theorem onGuard_touch (d : Dev) (f : GuardState → GuardState) : Touches [.fold] d (onGuard d f) := setFold_touch .refl

theorem onPwr_touch (d : Dev) (f : PwrState → PwrState) : Touches [.pwr] d (onPwr d f) := setPwr_touch .refl

theorem onAux_touch (d : Dev) (f : PwrAux → PwrAux) : Touches [.aux] d (onAux d f) := setAux_touch .refl

theorem onPins_touch (d : Dev) (f : PinState → PinState) : Touches [.pins] d (onPins d f) := setPins_touch .refl

theorem onCli_touch (d : Dev) (f : CliState → CliState) : Touches [.cli] d (onCli d f) := setCli_touch .refl

theorem onLanes_touch (d : Dev) (f : LaneState → LaneState) : Touches [.lane] d (onLanes d f) := setLane_touch .refl

theorem onDrove_touch (d : Dev) (f : DroveState → DroveState) : Touches [.drove] d (onDrove d f) := setDrove_touch .refl

theorem onRing_touch (d : Dev) (r : Nat) (f : Ring → Ring) : Touches [.sys, .rings] d (onRing d r f) := setSys_touch .refl

theorem onSess_touch (d : Dev) (k : Nat) (f : Sess → Sess) : Touches [.sys, .sess] d (onSess d k f) := setSys_touch .refl

theorem onParse_touch (d : Dev) (f : ParseState → ParseState) : Touches [.parse] d (onParse d f) := setParse_touch .refl

theorem onPipe_touch (d : Dev) (j : Nat) (f : PipeRegs → PipeRegs) : Touches [.parse] d (onPipe d j f) := setParse_touch .refl

theorem onParsePort_touch (d : Dev) (q : Nat) (f : ParsePort → ParsePort) : Touches [.parse] d (onParsePort d q f) := setParse_touch .refl

theorem onPast_touch (d : Dev) (f : PastState → PastState) : Touches [.past] d (onPast d f) := setPast_touch .refl

theorem onClass_touch (d : Dev) (k : Nat) (f : PastClass → PastClass) : Touches [.past] d (onClass d k f) := setPast_touch .refl

theorem onTm_touch (d : Dev) (f : TmState → TmState) : Touches [.tm] d (onTm d f) := setTm_touch .refl

theorem onQueue_touch (d : Dev) (q : Nat) (f : TmQueue → TmQueue) : Touches [.tm] d (onQueue d q f) := setTm_touch .refl

theorem onGroup_touch (d : Dev) (g : Nat) (f : TmGroup → TmGroup) : Touches [.tm] d (onGroup d g f) := setTm_touch .refl

theorem onRoot_touch (d : Dev) (n : Nat) (f : TmRoot → TmRoot) : Touches [.tm] d (onRoot d n f) := setTm_touch .refl

theorem onMedia_touch (d : Dev) (f : MediaState → MediaState) : Touches [.media] d (onMedia d f) := setMedia_touch .refl

theorem onAud_touch (d : Dev) (f : AudState → AudState) : Touches [.aud] d (onAud d f) := setAud_touch .refl

theorem onVid_touch (d : Dev) (f : VidState → VidState) : Touches [.vid] d (onVid d f) := setVid_touch .refl

theorem onImc_touch (d : Dev) (f : ImcState → ImcState) : Touches [.imc] d (onImc d f) := setImc_touch .refl

theorem onFlock_touch (d : Dev) (f : FlockState → FlockState) : Touches [.flock] d (onFlock d f) := setFlock_touch .refl

theorem onEng_touch (d : Dev) (n : Nat) (f : Eng → Eng) : Touches [.flock] d (onEng d n f) := setFlock_touch .refl

theorem onFGroup_touch (d : Dev) (g : Nat) (f : FGroup → FGroup) : Touches [.flock] d (onFGroup d g f) := setFlock_touch .refl

theorem onLeg_touch (d : Dev) (n : Nat) (f : Leg → Leg) : Touches [.media] d (onLeg d n f) := setMedia_touch .refl

theorem onConf_touch (d : Dev) (n : Nat) (f : Conf → Conf) : Touches [.media] d (onConf d n f) := setMedia_touch .refl

theorem onRoute_touch (d : Dev) (n : Nat) (f : Route → Route) : Touches [.aud] d (onRoute d n f) := setAud_touch .refl

theorem onTrunk_touch (d : Dev) (n : Nat) (f : Trunk → Trunk) : Touches [.imc] d (onTrunk d n f) := setImc_touch .refl

theorem onCasc_touch (d : Dev) (f : CascState → CascState) : Touches [.casc] d (onCasc d f) := setCasc_touch .refl

theorem onCascPort_touch (d : Dev) (p : Nat) (f : CascPort → CascPort) : Touches [.casc] d (onCascPort d p f) := setCasc_touch .refl

theorem onLock_touch (d : Dev) (f : LockState → LockState) : Touches [.bell] d (onLock d f) := setBell_touch .refl

theorem onTime_touch (d : Dev) (f : TimeState → TimeState) : Touches [.bell] d (onTime d f) := setBell_touch .refl

theorem onErr_touch (d : Dev) (f : ErrState → ErrState) : Touches [.bell] d (onErr d f) := setBell_touch .refl

theorem onSleep_touch (d : Dev) (f : SleepState → SleepState) : Touches [.bell] d (onSleep d f) := setBell_touch .refl

theorem onSucc_touch (d : Dev) (f : SuccState → SuccState) : Touches [.bell] d (onSucc d f) := setBell_touch .refl

theorem onInteg_touch (d : Dev) (f : IntegState → IntegState) : Touches [.integ] d (onInteg d f) := setInteg_touch .refl

theorem onIntClass_touch (d : Dev) (k : Nat) (f : IntClass → IntClass) : Touches [.integ] d (onIntClass d k f) := setInteg_touch .refl

theorem onStack_touch (d : Dev) (s : Nat) (f : StackRows → StackRows) : Touches [.integ] d (onStack d s f) := setInteg_touch .refl

theorem onOtp_touch (d : Dev) (f : OtpState → OtpState) : Touches [.fold, .otp] d (onOtp d f) := setFold_touch .refl

theorem onBoot_touch (d : Dev) (f : BootState → BootState) : Touches [.fold] d (onBoot d f) := setFold_touch .refl

theorem onSa_touch (d : Dev) (h : Nat) (f : Sa → Sa) : Touches [.fold] d (onSa d h f) := setFold_touch .refl

theorem onCore_touch (d : Dev) (e : Nat) (f : EngCore → EngCore) : Touches [.flock] d (onCore d e f) := setFlock_touch .refl

theorem onPic_touch (d : Dev) (n t : Nat) (f : TierPic → TierPic) : Touches [.vid] d (onPic d n t f) := setVid_touch .refl

theorem onContrib_touch (d : Dev) (n : Nat) (f : Contrib → Contrib) : Touches [.vid] d (onContrib d n f) := setVid_touch .refl

theorem onStream_touch (d : Dev) (k : Nat) (f : Stream → Stream) : Touches [.vid] d (onStream d k f) := setVid_touch .refl

theorem onChan_touch (d : Dev) (c : Nat) (f : Chan → Chan) : Touches [.drove] d (onChan d c f) := setDrove_touch .refl

theorem onCv_touch (d : Dev) (u : Nat) (f : CvUnit → CvUnit) : Touches [.integ] d (onCv d u f) := setInteg_touch .refl

theorem onPort_touch (d : Dev) (p : Nat) (f : CliPort → CliPort) : Touches [.cli] d (onPort d p f) := setCli_touch .refl

theorem onLane_touch (d : Dev) (n : Nat) (f : Lane → Lane) : Touches [.lane] d (onLane d n f) := setLane_touch .refl

theorem onGroupL_touch (d : Dev) (g : Nat) (f : LaneGroup → LaneGroup) : Touches [.lane] d (onGroupL d g f) := setLane_touch .refl

theorem onAcc_touch (d : Dev) (f : AccState → AccState) : Touches [.acc] d (onAcc d f) := setAcc_touch .refl

theorem onSlice_touch (d : Dev) (n : Nat) (f : Slice → Slice) : Touches [.acc] d (onSlice d n f) := setAcc_touch .refl

theorem onBond_touch (d : Dev) (f : BondState → BondState) : Touches [.acc] d (onBond d f) := setAcc_touch .refl

theorem onHs_touch (d : Dev) (n : Nat) (f : Headset → Headset) : Touches [.aud] d (onHs d n f) := setAud_touch .refl

theorem onTdm_touch (d : Dev) (p : Nat) (f : TdmPort → TdmPort) : Touches [.aud] d (onTdm d p f) := setAud_touch .refl

theorem onMeter_touch (d : Dev) (m : Nat) (f : Meter → Meter) : Touches [.tm] d (onMeter d m f) := setTm_touch .refl

end Sys2Proof.Machine
end

