-- ==== Sys2Proof/Laws/TouchOps.lean ====
section
/-! SUPPORT. Which parts of the device the operations of Machine/Ops.lean touch. -/

namespace Sys2Proof.Machine

set_option linter.all false
set_option Elab.async false

theorem drawFree_touch (d : Dev) : Touches [.freeCtr] d (drawFree d).2 := onFree_touch _ _

theorem drawFree_touch' (d : Dev) {x0 e_} (h_ : drawFree d = (x0, e_)) : Touches [.freeCtr] d e_ := by
  have := drawFree_touch d; rw [h_] at this; exact this

theorem msixSend_touch (d : Dev) :
    Touches [.out, .sys] d (msixSend d) := by
  unfold msixSend
  repeat' first
    | with_reducible assumption
    | with_reducible exact Touches.refl
    | exact Eq.refl true
    | with_reducible refine Touches.andThen ?_ (by with_reducible exact onInt_touch ..) ?_
    | with_reducible refine Touches.andThen ?_ (by with_reducible exact emit_touch ..) ?_
    | split
    | dsimp -zeta only
    | (split at ‹ite _ _ _ = (_, _)›)
    | (cases ‹(_, _) = (_, _)›)

theorem intUpdate_touch (d : Dev) :
    Touches [.out, .sys] d (intUpdate d) := by
  unfold intUpdate
  repeat' first
    | with_reducible assumption
    | with_reducible exact Touches.refl
    | ((try lift_lets -underBinder); intro d_; refine (have hd_ : Touches [.out, .sys] d d_ := ?_; ?_); (on_goal 1 => try dsimp only [d_]); (on_goal 2 => clear_value d_))
    | ((try lift_lets -underBinder); intro d_; try clear_value d_)
    | exact Eq.refl true
    | with_reducible refine Touches.andThen ?_ (by with_reducible exact onInt_touch ..) ?_
    | with_reducible refine Touches.andThen ?_ (by with_reducible exact msixSend_touch ..) ?_
    | split
    | dsimp -zeta only
    | (split at ‹ite _ _ _ = (_, _)›)
    | (cases ‹(_, _) = (_, _)›)

theorem raiseLeaf_touch (d : Dev) (w bit : Nat) :
    Touches [.out, .sys] d (raiseLeaf d w bit) := by
  unfold raiseLeaf
  repeat' first
    | with_reducible assumption
    | with_reducible exact Touches.refl
    | exact Eq.refl true
    | with_reducible refine Touches.andThen ?_ (by with_reducible exact onInt_touch ..) ?_
    | with_reducible refine Touches.andThen ?_ (by with_reducible exact intUpdate_touch ..) ?_
    | split
    | dsimp -zeta only
    | (split at ‹ite _ _ _ = (_, _)›)
    | (cases ‹(_, _) = (_, _)›)

theorem raiseIf_touch (c : Bool) (d : Dev) (w bit : Nat) :
    Touches [.out, .sys] d (raiseIf c d w bit) := by
  unfold raiseIf
  repeat' first
    | with_reducible assumption
    | with_reducible exact Touches.refl
    | exact Eq.refl true
    | with_reducible refine Touches.andThen ?_ (by with_reducible exact raiseLeaf_touch ..) ?_
    | split
    | dsimp -zeta only
    | (split at ‹ite _ _ _ = (_, _)›)
    | (cases ‹(_, _) = (_, _)›)

theorem clearLeaf_touch (d : Dev) (w : Nat) (v : Word) :
    Touches [.out, .sys] d (clearLeaf d w v) := by
  unfold clearLeaf
  repeat' first
    | with_reducible assumption
    | with_reducible exact Touches.refl
    | exact Eq.refl true
    | with_reducible refine Touches.andThen ?_ (by with_reducible exact onInt_touch ..) ?_
    | with_reducible refine Touches.andThen ?_ (by with_reducible exact intUpdate_touch ..) ?_
    | split
    | dsimp -zeta only
    | (split at ‹ite _ _ _ = (_, _)›)
    | (cases ‹(_, _) = (_, _)›)

theorem darkAccess_touch (addr : Nat) (write : Bool) (d : Dev) :
    Touches [.out, .sys] d (darkAccess addr write d) := by
  unfold darkAccess
  repeat' first
    | with_reducible assumption
    | with_reducible exact Touches.refl
    | exact Eq.refl true
    | with_reducible refine onSys_step ?_ ?_ ?_ ?_ ?_ ?_
    | with_reducible refine Touches.andThen ?_ (by with_reducible exact raiseLeaf_touch ..) ?_
    | exact partOr_left rfl
    | exact .inr rfl
    | exact .inr (by (repeat' split) <;> rfl)
    | split
    | dsimp -zeta only
    | (split at ‹ite _ _ _ = (_, _)›)
    | (cases ‹(_, _) = (_, _)›)

theorem emitRead_touch (d : Dev) (addr val : Nat) :
    Touches [.out] d (emitRead d addr val) := by
  unfold emitRead
  repeat' first
    | with_reducible assumption
    | with_reducible exact Touches.refl
    | exact Eq.refl true
    | with_reducible refine Touches.andThen ?_ (by with_reducible exact emit_touch ..) ?_
    | split
    | dsimp -zeta only
    | (split at ‹ite _ _ _ = (_, _)›)
    | (cases ‹(_, _) = (_, _)›)

theorem hostReads_touch {ps : List Part} (hs : subParts [.out, .sys] ps = true) {f : Dev → Dev} (hf : ∀ x, Touches ps x (f x)) (dom addr : Nat) (d : Dev) :
    Touches ps d (hostReads dom addr f d) := by
  unfold hostReads
  split
  · exact .refl
  · split
    · exact .andThen (.mono (darkAccess_touch _ _ _) hs) (emitRead_touch _ _ _) (subParts_trans rfl hs)
    · exact hf d

theorem hostWrites_touch {ps : List Part} (hs : subParts [.out, .sys] ps = true) {f : Dev → Dev} (hf : ∀ x, Touches ps x (f x)) (dom addr : Nat) (d : Dev) :
    Touches ps d (hostWrites dom addr f d) := by
  unfold hostWrites
  split
  · exact .refl
  · split
    · exact .mono (darkAccess_touch _ _ _) hs
    · exact hf d

theorem cqWrite_touch (d : Dev) (r : Nat) (p : Reply) :
    Touches [.out, .sys, .rings] d (cqWrite d r p) := by
  unfold cqWrite
  repeat' first
    | with_reducible assumption
    | with_reducible exact Touches.refl
    | ((try lift_lets -underBinder); intro d_; refine (have hd_ : Touches [.out, .sys, .rings] d d_ := ?_; ?_); (on_goal 1 => try dsimp only [d_]); (on_goal 2 => clear_value d_))
    | ((try lift_lets -underBinder); intro d_; try clear_value d_)
    | exact Eq.refl true
    | with_reducible refine Touches.andThen ?_ (by with_reducible exact onRing_touch ..) ?_
    | with_reducible refine Touches.andThen ?_ (by with_reducible exact raiseLeaf_touch ..) ?_
    | split
    | dsimp -zeta only
    | (split at ‹ite _ _ _ = (_, _)›)
    | (cases ‹(_, _) = (_, _)›)

theorem cqPost_touch (d : Dev) (r : Nat) (p : Reply) :
    Touches [.out, .sys, .rings] d (cqPost d r p) := by
  unfold cqPost
  repeat' first
    | with_reducible assumption
    | with_reducible exact Touches.refl
    | exact Eq.refl true
    | with_reducible refine Touches.andThen ?_ (by with_reducible exact onRing_touch ..) ?_
    | with_reducible refine Touches.andThen ?_ (by with_reducible exact cqWrite_touch ..) ?_
    | split
    | dsimp -zeta only
    | (split at ‹ite _ _ _ = (_, _)›)
    | (cases ‹(_, _) = (_, _)›)

theorem cqDrain_touch (d : Dev) (r n : Nat) : Touches [.out, .sys, .rings] d (cqDrain d r n) := by
  induction n generalizing d with
  | zero => exact .refl
  | succ n ih =>
    unfold cqDrain
    split
    · exact .refl
    · split
      · exact .andThen (.andThen (.andThen .refl (onRing_touch _ _ _)) (cqWrite_touch _ _ _)) (ih _)
      · exact .refl

theorem datagram_touch (d : Dev) (k type : Nat) (body : List Int) :
    Touches [.out] d (datagram d k type body) := by
  unfold datagram
  repeat' first
    | with_reducible assumption
    | with_reducible exact Touches.refl
    | ((try lift_lets -underBinder); intro d_; refine (have hd_ : Touches [.out] d d_ := ?_; ?_); (on_goal 1 => try dsimp only [d_]); (on_goal 2 => clear_value d_))
    | ((try lift_lets -underBinder); intro d_; try clear_value d_)
    | exact Eq.refl true
    | with_reducible refine Touches.andThen ?_ (by with_reducible exact emit_touch ..) ?_
    | split
    | dsimp -zeta only
    | (split at ‹ite _ _ _ = (_, _)›)
    | (cases ‹(_, _) = (_, _)›)

theorem sendReply_touch (d : Dev) (tr : Option Transport) (p : Reply) :
    Touches [.out, .sys, .rings, .sess] d (sendReply d tr p) := by
  unfold sendReply
  repeat' first
    | with_reducible assumption
    | with_reducible exact Touches.refl
    | ((try lift_lets -underBinder); intro d_; refine (have hd_ : Touches [.out, .sys, .rings, .sess] d d_ := ?_; ?_); (on_goal 1 => try dsimp only [d_]); (on_goal 2 => clear_value d_))
    | ((try lift_lets -underBinder); intro d_; try clear_value d_)
    | exact Eq.refl true
    | with_reducible refine Touches.andThen ?_ (by with_reducible exact onSess_touch ..) ?_
    | with_reducible refine Touches.andThen ?_ (by with_reducible exact cqPost_touch ..) ?_
    | with_reducible refine Touches.andThen ?_ (by with_reducible exact datagram_touch ..) ?_
    | split
    | dsimp -zeta only
    | (split at ‹ite _ _ _ = (_, _)›)
    | (cases ‹(_, _) = (_, _)›)

theorem epochDone_touch (d : Dev) (e : Word) :
    Touches [.sys] d (epochDone d e) := by
  unfold epochDone
  repeat' first
    | with_reducible assumption
    | with_reducible exact Touches.refl
    | exact Eq.refl true
    | with_reducible refine onSys_step ?_ ?_ ?_ ?_ ?_ ?_
    | exact partOr_left rfl
    | exact .inr rfl
    | exact .inr (by (repeat' split) <;> rfl)
    | split
    | dsimp -zeta only
    | (split at ‹ite _ _ _ = (_, _)›)
    | (cases ‹(_, _) = (_, _)›)

theorem answer_touch (d : Dev) (c : ReplyCtx) (st : Status) (data : List Nat) :
    Touches [.out, .sys, .rings, .sess] d (answer d c st data) := by
  unfold answer
  repeat' first
    | with_reducible assumption
    | with_reducible exact Touches.refl
    | exact Eq.refl true
    | with_reducible refine Touches.andThen ?_ (by with_reducible exact sendReply_touch ..) ?_
    | split
    | dsimp -zeta only
    | (split at ‹ite _ _ _ = (_, _)›)
    | (cases ‹(_, _) = (_, _)›)

theorem followUp_touch (d : Dev) (c : ReplyCtx) (st : Status) (data : List Nat) :
    Touches [.out, .sys, .rings, .sess] d (followUp d c st data) := by
  unfold followUp
  repeat' first
    | with_reducible assumption
    | with_reducible exact Touches.refl
    | exact Eq.refl true
    | with_reducible refine Touches.andThen ?_ (by with_reducible exact raiseLeaf_touch ..) ?_
    | with_reducible refine Touches.andThen ?_ (by with_reducible exact sendReply_touch ..) ?_
    | with_reducible refine Touches.andThen ?_ (by with_reducible exact epochDone_touch ..) ?_
    | split
    | dsimp -zeta only
    | (split at ‹ite _ _ _ = (_, _)›)
    | (cases ‹(_, _) = (_, _)›)

theorem kRefuse_touch (d : Dev) (h : CmdHdr) (c : KCmd) (st : Status) (reason field : Nat) :
    Touches [.out, .sys, .rings, .sess, .fold] d (kRefuse d h c st reason field) := by
  unfold kRefuse
  repeat' first
    | with_reducible assumption
    | with_reducible exact Touches.refl
    | ((try lift_lets -underBinder); intro d_; refine (have hd_ : Touches [.out, .sys, .rings, .sess, .fold] d d_ := ?_; ?_); (on_goal 1 => try dsimp only [d_]); (on_goal 2 => clear_value d_))
    | ((try lift_lets -underBinder); intro d_; try clear_value d_)
    | exact Eq.refl true
    | with_reducible refine Touches.andThen ?_ (by with_reducible exact onGuard_touch ..) ?_
    | with_reducible refine Touches.andThen ?_ (by with_reducible exact answer_touch ..) ?_
    | with_reducible refine Touches.andThen ?_ (by with_reducible exact raiseIf_touch ..) ?_
    | split
    | dsimp -zeta only
    | (split at ‹ite _ _ _ = (_, _)›)
    | (cases ‹(_, _) = (_, _)›)

theorem kAdvance_touch (d : Dev) (h : CmdHdr) (c : KCmd) (keep : Bool) :
    Touches [.sys, .epoch] d (kAdvance d h c keep).1 := by
  unfold kAdvance
  repeat' first
    | with_reducible assumption
    | with_reducible exact Touches.refl
    | ((try lift_lets -underBinder); intro d_; refine (have hd_ : Touches [.sys, .epoch] d d_ := ?_; ?_); (on_goal 1 => try dsimp only [d_]); (on_goal 2 => clear_value d_))
    | ((try lift_lets -underBinder); intro d_; try clear_value d_)
    | exact Eq.refl true
    | with_reducible refine onSys_step ?_ ?_ ?_ ?_ ?_ ?_
    | exact partOr_left rfl
    | exact .inr rfl
    | exact .inr (by (repeat' split) <;> rfl)
    | split
    | dsimp -zeta only
    | (split at ‹ite _ _ _ = (_, _)›)
    | (cases ‹(_, _) = (_, _)›)

theorem kAdvance_touch' (d : Dev) (h : CmdHdr) (c : KCmd) (keep : Bool) {e_ x1} (h_ : kAdvance d h c keep = (e_, x1)) : Touches [.sys, .epoch] d e_ := by
  have := kAdvance_touch d h c keep; rw [h_] at this; exact this

theorem closeButton_touch (gated : Bool) (d : Dev) :
    Touches [.fold] d (closeButton gated d) := by
  unfold closeButton
  repeat' first
    | with_reducible assumption
    | with_reducible exact Touches.refl
    | exact Eq.refl true
    | with_reducible refine Touches.andThen ?_ (by with_reducible exact onGuard_touch ..) ?_
    | split
    | dsimp -zeta only
    | (split at ‹ite _ _ _ = (_, _)›)
    | (cases ‹(_, _) = (_, _)›)

end Sys2Proof.Machine
end

