-- ==== Sys2Proof/Laws/TouchParse.lean ====
section
/-! SUPPORT. Which parts of the device the operations of Machine/Parse.lean touch. -/

namespace Sys2Proof.Machine

set_option linter.all false
set_option Elab.async false

theorem takeDefault_touch (d : Dev) (q : Nat) (k : PKey) :
    Touches [.parse] d (takeDefault d q k).2 := by
  unfold takeDefault
  repeat' first
    | with_reducible assumption
    | with_reducible exact Touches.refl
    | exact Eq.refl true
    | with_reducible refine Touches.andThen ?_ (by with_reducible exact onPipe_touch ..) ?_
    | split
    | dsimp -zeta only
    | (split at ‹ite _ _ _ = (_, _)›)
    | (cases ‹(_, _) = (_, _)›)

theorem takeDefault_touch' (d : Dev) (q : Nat) (k : PKey) {x0 e_} (h_ : takeDefault d q k = (x0, e_)) : Touches [.parse] d e_ := by
  have := takeDefault_touch d q k; rw [h_] at this; exact this

theorem noMatch_touch (d : Dev) (q : Nat) (k : PKey) :
    Touches [.parse] d (noMatch d q k).2 := by
  unfold noMatch
  repeat' first
    | with_reducible assumption
    | with_reducible exact Touches.refl
    | exact Eq.refl true
    | with_reducible refine Touches.andThen ?_ (by with_reducible exact onParsePort_touch ..) ?_
    | with_reducible refine Touches.andThen ?_ (by with_reducible exact takeDefault_touch ..) ?_
    | split
    | dsimp -zeta only
    | (split at ‹ite _ _ _ = (_, _)›)
    | (cases ‹(_, _) = (_, _)›)

theorem noMatch_touch' (d : Dev) (q : Nat) (k : PKey) {x0 e_} (h_ : noMatch d q k = (x0, e_)) : Touches [.parse] d e_ := by
  have := noMatch_touch d q k; rw [h_] at this; exact this

theorem parseFailure_touch (d : Dev) (q : Nat) (k : PKey) (f : PFail) :
    Touches [.out, .sys, .parse] d (parseFailure d q k f).2 := by
  unfold parseFailure
  repeat' first
    | with_reducible assumption
    | with_reducible exact Touches.refl
    | ((try lift_lets -underBinder); intro d_; refine (have hd_ : Touches [.out, .sys, .parse] d d_ := ?_; ?_); (on_goal 1 => try dsimp only [d_]); (on_goal 2 => clear_value d_))
    | ((try lift_lets -underBinder); intro d_; try clear_value d_)
    | exact Eq.refl true
    | with_reducible refine Touches.andThen ?_ (by with_reducible exact onParsePort_touch ..) ?_
    | with_reducible refine Touches.andThen ?_ (by with_reducible exact takeDefault_touch ..) ?_
    | with_reducible refine Touches.andThen ?_ (by with_reducible exact raiseLeaf_touch ..) ?_
    | split
    | dsimp -zeta only
    | (split at ‹ite _ _ _ = (_, _)›)
    | (cases ‹(_, _) = (_, _)›)

theorem parseFailure_touch' (d : Dev) (q : Nat) (k : PKey) (f : PFail) {x0 e_} (h_ : parseFailure d q k f = (x0, e_)) : Touches [.out, .sys, .parse] d e_ := by
  have := parseFailure_touch d q k f; rw [h_] at this; exact this

theorem byRules_touch (d : Dev) (q : Nat) (k : PKey) :
    Touches [.parse] d (byRules d q k).2 := by
  unfold byRules
  repeat' first
    | with_reducible assumption
    | with_reducible exact Touches.refl
    | ((try lift_lets -underBinder); intro d_; refine (have hd_ : Touches [.parse] d d_ := ?_; ?_); (on_goal 1 => try dsimp only [d_]); (on_goal 2 => clear_value d_))
    | ((try lift_lets -underBinder); intro d_; try clear_value d_)
    | exact Eq.refl true
    | with_reducible refine Touches.andThen ?_ (by with_reducible exact onParse_touch ..) ?_
    | with_reducible refine Touches.andThen ?_ (by with_reducible exact onPipe_touch ..) ?_
    | with_reducible refine Touches.andThen ?_ (by with_reducible exact noMatch_touch ..) ?_
    | split
    | dsimp -zeta only
    | (split at ‹ite _ _ _ = (_, _)›)
    | (cases ‹(_, _) = (_, _)›)

theorem byRules_touch' (d : Dev) (q : Nat) (k : PKey) {x0 e_} (h_ : byRules d q k = (x0, e_)) : Touches [.parse] d e_ := by
  have := byRules_touch d q k; rw [h_] at this; exact this

theorem byTables_touch (d : Dev) (q : Nat) (k : PKey) :
    Touches [.parse] d (byTables d q k).2 := by
  unfold byTables
  repeat' first
    | with_reducible assumption
    | with_reducible exact Touches.refl
    | ((try lift_lets -underBinder); intro d_; refine (have hd_ : Touches [.parse] d d_ := ?_; ?_); (on_goal 1 => try dsimp only [d_]); (on_goal 2 => clear_value d_))
    | ((try lift_lets -underBinder); intro d_; try clear_value d_)
    | exact Eq.refl true
    | with_reducible refine Touches.andThen ?_ (by with_reducible exact onPipe_touch ..) ?_
    | with_reducible refine Touches.andThen ?_ (by with_reducible exact byRules_touch ..) ?_
    | refine Touches.andThen ?_ (byRules_touch' (h_ := by assumption) ..) ?_
    | with_reducible refine Touches.andThen ?_ (by with_reducible exact noMatch_touch ..) ?_
    | refine Touches.andThen ?_ (noMatch_touch' (h_ := by assumption) ..) ?_
    | with_reducible refine Touches.andThen ?_ (by with_reducible exact onParse_touch ..) ?_
    | with_reducible refine Touches.andThen ?_ (by with_reducible exact onParsePort_touch ..) ?_
    | with_reducible refine Touches.andThen ?_ (by with_reducible exact takeDefault_touch ..) ?_
    | refine Touches.andThen ?_ (takeDefault_touch' (h_ := by assumption) ..) ?_
    | split
    | dsimp -zeta only
    | (split at ‹ite _ _ _ = (_, _)›)
    | (cases ‹(_, _) = (_, _)›)

theorem byTables_touch' (d : Dev) (q : Nat) (k : PKey) {x0 e_} (h_ : byTables d q k = (x0, e_)) : Touches [.parse] d e_ := by
  have := byTables_touch d q k; rw [h_] at this; exact this

theorem fragInstall_touch (d : Dev) (j : Nat) (fk : FragKey) (x : Decision) :
    Touches [.out, .sys, .parse] d (fragInstall d j fk x) := by
  unfold fragInstall
  repeat' first
    | with_reducible assumption
    | with_reducible exact Touches.refl
    | ((try lift_lets -underBinder); intro d_; refine (have hd_ : Touches [.out, .sys, .parse] d d_ := ?_; ?_); (on_goal 1 => try dsimp only [d_]); (on_goal 2 => clear_value d_))
    | ((try lift_lets -underBinder); intro d_; try clear_value d_)
    | exact Eq.refl true
    | with_reducible refine Touches.andThen ?_ (by with_reducible exact onParse_touch ..) ?_
    | with_reducible refine Touches.andThen ?_ (by with_reducible exact onPipe_touch ..) ?_
    | with_reducible refine Touches.andThen ?_ (by with_reducible exact raiseLeaf_touch ..) ?_
    | split
    | dsimp -zeta only
    | (split at ‹ite _ _ _ = (_, _)›)
    | (cases ‹(_, _) = (_, _)›)

theorem laterFragment_touch (d : Dev) (q : Nat) (k : PKey) (fk : FragKey) :
    Touches [.out, .sys, .parse] d (laterFragment d q k fk).2 := by
  unfold laterFragment
  repeat' first
    | with_reducible assumption
    | with_reducible exact Touches.refl
    | ((try lift_lets -underBinder); intro d_; refine (have hd_ : Touches [.out, .sys, .parse] d d_ := ?_; ?_); (on_goal 1 => try dsimp only [d_]); (on_goal 2 => clear_value d_))
    | ((try lift_lets -underBinder); intro d_; try clear_value d_)
    | exact Eq.refl true
    | with_reducible refine Touches.andThen ?_ (by with_reducible exact onParse_touch ..) ?_
    | with_reducible refine Touches.andThen ?_ (by with_reducible exact onParsePort_touch ..) ?_
    | with_reducible refine Touches.andThen ?_ (by with_reducible exact raiseLeaf_touch ..) ?_
    | with_reducible refine Touches.andThen ?_ (by with_reducible exact takeDefault_touch ..) ?_
    | with_reducible refine Touches.andThen ?_ (by with_reducible exact byRules_touch ..) ?_
    | split
    | dsimp -zeta only
    | (split at ‹ite _ _ _ = (_, _)›)
    | (cases ‹(_, _) = (_, _)›)

theorem laterFragment_touch' (d : Dev) (q : Nat) (k : PKey) (fk : FragKey) {x0 e_} (h_ : laterFragment d q k fk = (x0, e_)) : Touches [.out, .sys, .parse] d e_ := by
  have := laterFragment_touch d q k fk; rw [h_] at this; exact this

theorem classify_touch (d : Dev) (q : Nat) (gem : Option Nat) (bs : List Byte) :
    Touches [.out, .sys, .parse] d (classify d q gem bs).2.2 := by
  have h : Touches [.out, .sys, .parse] d (onPipe d (pipeOf q) (fun r => { r with pkts := satInc r.pkts })) := .mono (onPipe_touch _ _ _)
  unfold classify; dsimp only
  revert h
  generalize onPipe d (pipeOf q) (fun r => { r with pkts := satInc r.pkts }) = c
  generalize parseFrame (pipeRegs d (pipeOf q)).vxlanPort q gem bs = pf
  obtain ⟨p, f⟩ := pf
  intro h
  dsimp only
  split
  · exact .andThen h (laterFragment_touch c q p.key _)
  · exact .andThen h (parseFailure_touch c q p.key _)
  · have h2 := Touches.andThen (ps := [.out, .sys, .parse]) h (byTables_touch _ q p.key)
    split
    · exact h2
    · exact .andThen h2 (fragInstall_touch _ _ _ _)
  · exact .andThen h (byTables_touch c q p.key)

theorem classify_touch' (d : Dev) (q : Nat) (gem : Option Nat) (bs : List Byte) {x0 x1 e_} (h_ : classify d q gem bs = (x0, x1, e_)) :
    Touches [.out, .sys, .parse] d e_ := by
  have := classify_touch d q gem bs; rw [h_] at this; exact this

theorem applyParseRuleSet_touch (pipe index : Nat) (rule : RuleRec) (d : Dev) :
    Touches [.parse] d (applyParseRuleSet pipe index rule d) := by
  unfold applyParseRuleSet
  repeat' first
    | with_reducible assumption
    | with_reducible exact Touches.refl
    | exact Eq.refl true
    | with_reducible refine Touches.andThen ?_ (by with_reducible exact onParse_touch ..) ?_
    | split
    | dsimp -zeta only
    | (split at ‹ite _ _ _ = (_, _)›)
    | (cases ‹(_, _) = (_, _)›)

theorem applyParseRuleClear_touch (pipe first count : Nat) (d : Dev) :
    Touches [.parse] d (applyParseRuleClear pipe first count d) := by
  unfold applyParseRuleClear
  repeat' first
    | with_reducible assumption
    | with_reducible exact Touches.refl
    | exact Eq.refl true
    | with_reducible refine Touches.andThen ?_ (by with_reducible exact onParse_touch ..) ?_
    | split
    | dsimp -zeta only
    | (split at ‹ite _ _ _ = (_, _)›)
    | (cases ‹(_, _) = (_, _)›)

theorem applyParsePortSet_touch (port : Nat) (action : ActionRec) (ooo : Nat) (d : Dev) :
    Touches [.parse] d (applyParsePortSet port action ooo d) := by
  unfold applyParsePortSet
  repeat' first
    | with_reducible assumption
    | with_reducible exact Touches.refl
    | exact Eq.refl true
    | with_reducible refine Touches.andThen ?_ (by with_reducible exact onParsePort_touch ..) ?_
    | split
    | dsimp -zeta only
    | (split at ‹ite _ _ _ = (_, _)›)
    | (cases ‹(_, _) = (_, _)›)

theorem applyParseHashTableSet_touch (profile first : Nat) (entries : List Nat) (d : Dev) :
    Touches [.parse] d (applyParseHashTableSet profile first entries d) := by
  unfold applyParseHashTableSet
  repeat' first
    | with_reducible assumption
    | with_reducible exact Touches.refl
    | exact Eq.refl true
    | with_reducible refine Touches.andThen ?_ (by with_reducible exact onParse_touch ..) ?_
    | split
    | dsimp -zeta only
    | (split at ‹ite _ _ _ = (_, _)›)
    | (cases ‹(_, _) = (_, _)›)

theorem applyParseFragConfig_touch (age : Nat) (d : Dev) :
    Touches [.parse] d (applyParseFragConfig age d) := by
  unfold applyParseFragConfig
  repeat' first
    | with_reducible assumption
    | with_reducible exact Touches.refl
    | exact Eq.refl true
    | with_reducible refine Touches.andThen ?_ (by with_reducible exact onParse_touch ..) ?_
    | split
    | dsimp -zeta only
    | (split at ‹ite _ _ _ = (_, _)›)
    | (cases ‹(_, _) = (_, _)›)

theorem applyParseHashProfileSet_touch (profile fields : Nat) (seed : Word) (d : Dev) :
    Touches [.parse] d (applyParseHashProfileSet profile fields seed d) := by
  unfold applyParseHashProfileSet
  repeat' first
    | with_reducible assumption
    | with_reducible exact Touches.refl
    | exact Eq.refl true
    | with_reducible refine Touches.andThen ?_ (by with_reducible exact onParse_touch ..) ?_
    | split
    | dsimp -zeta only
    | (split at ‹ite _ _ _ = (_, _)›)
    | (cases ‹(_, _) = (_, _)›)

theorem fragAge_touch (d : Dev) :
    Touches [.parse] d (fragAge d) := by
  unfold fragAge
  repeat' first
    | with_reducible assumption
    | with_reducible exact Touches.refl
    | ((try lift_lets -underBinder); intro d_; refine (have hd_ : Touches [.parse] d d_ := ?_; ?_); (on_goal 1 => try dsimp only [d_]); (on_goal 2 => clear_value d_))
    | ((try lift_lets -underBinder); intro d_; try clear_value d_)
    | exact Eq.refl true
    | with_reducible refine Touches.andThen ?_ (by with_reducible exact onParse_touch ..) ?_
    | with_reducible refine Touches.andThen ?_ (by with_reducible exact onPipe_touch ..) ?_
    | split
    | dsimp -zeta only
    | (split at ‹ite _ _ _ = (_, _)›)
    | (cases ‹(_, _) = (_, _)›)

end Sys2Proof.Machine
end

