-- ==== Sys2Proof/Laws/TouchPasture.lean ====
section
/-! SUPPORT. Which parts of the device the operations of Machine/Pasture.lean touch. -/

namespace Sys2Proof.Machine

set_option linter.all false
set_option Elab.async false

theorem serveOwn_touch (d : Dev) (k : Nat) :
    Touches [.past] d (serveOwn d k) := by
  unfold serveOwn
  repeat' first
    | with_reducible assumption
    | with_reducible exact Touches.refl
    | exact Eq.refl true
    | with_reducible refine Touches.andThen ?_ (by with_reducible exact onClass_touch ..) ?_
    | split
    | dsimp -zeta only
    | (split at ‹ite _ _ _ = (_, _)›)
    | (cases ‹(_, _) = (_, _)›)

theorem servePool_touch (d : Dev) (k : Nat) :
    Touches [.past] d (servePool d k) := by
  unfold servePool
  repeat' first
    | with_reducible assumption
    | with_reducible exact Touches.refl
    | exact Eq.refl true
    | with_reducible refine Touches.andThen ?_ (by with_reducible exact onPast_touch ..) ?_
    | with_reducible refine Touches.andThen ?_ (by with_reducible exact onClass_touch ..) ?_
    | split
    | dsimp -zeta only
    | (split at ‹ite _ _ _ = (_, _)›)
    | (cases ‹(_, _) = (_, _)›)

theorem stallClass_touch (d : Dev) (k : Nat) (more : Nat) :
    Touches [.out, .sys, .past] d (stallClass d k more) := by
  unfold stallClass
  repeat' first
    | with_reducible assumption
    | with_reducible exact Touches.refl
    | exact Eq.refl true
    | with_reducible refine Touches.andThen ?_ (by with_reducible exact onClass_touch ..) ?_
    | with_reducible refine Touches.andThen ?_ (by with_reducible exact raiseLeaf_touch ..) ?_
    | split
    | dsimp -zeta only
    | (split at ‹ite _ _ _ = (_, _)›)
    | (cases ‹(_, _) = (_, _)›)

theorem pastureRequest_touch (k : Nat) (d : Dev) :
    Touches [.out, .sys, .past] d (pastureRequest k d) := by
  unfold pastureRequest
  repeat' first
    | with_reducible assumption
    | with_reducible exact Touches.refl
    | ((try lift_lets -underBinder); intro d_; refine (have hd_ : Touches [.out, .sys, .past] d d_ := ?_; ?_); (on_goal 1 => try dsimp only [d_]); (on_goal 2 => clear_value d_))
    | ((try lift_lets -underBinder); intro d_; try clear_value d_)
    | exact Eq.refl true
    | with_reducible refine Touches.andThen ?_ (by with_reducible exact stallClass_touch ..) ?_
    | with_reducible refine Touches.andThen ?_ (by with_reducible exact serveOwn_touch ..) ?_
    | with_reducible refine Touches.andThen ?_ (by with_reducible exact servePool_touch ..) ?_
    | split
    | dsimp -zeta only
    | (split at ‹ite _ _ _ = (_, _)›)
    | (cases ‹(_, _) = (_, _)›)

theorem chargeClass_touch (d : Dev) (k n : Nat) :
    Touches [.out, .sys, .past] d (chargeClass d k n) := by
  unfold chargeClass
  repeat' first
    | with_reducible assumption
    | with_reducible exact Touches.refl
    | with_reducible apply Touches.foldl
    | (intro _ _ _)
    | exact Eq.refl true
    | with_reducible refine Touches.andThen ?_ (by with_reducible exact pastureRequest_touch ..) ?_
    | split
    | dsimp -zeta only
    | (split at ‹ite _ _ _ = (_, _)›)
    | (cases ‹(_, _) = (_, _)›)

theorem drainPool_touch (d : Dev) (n : Nat) : Touches [.past] d (drainPool d n) := by
  induction n generalizing d with
  | zero => exact .refl
  | succ n ih =>
    unfold drainPool
    split
    · exact .refl
    · split
      · exact .refl
      · exact .andThen (.andThen (.andThen (.mono (servePool_touch _ _)) (onClass_touch _ _ _)) (onPast_touch _ _)) (ih _)

theorem serveWaitingOwn_touch (d : Dev) (k : Nat) :
    Touches [.past] d (serveWaitingOwn d k) := by
  unfold serveWaitingOwn
  repeat' first
    | with_reducible assumption
    | with_reducible exact Touches.refl
    | exact Eq.refl true
    | with_reducible refine Touches.andThen ?_ (by with_reducible exact onClass_touch ..) ?_
    | split
    | dsimp -zeta only
    | (split at ‹ite _ _ _ = (_, _)›)
    | (cases ‹(_, _) = (_, _)›)

theorem serveWaiting_touch (d : Dev) :
    Touches [.past] d (serveWaiting d) := by
  unfold serveWaiting
  repeat' first
    | with_reducible assumption
    | with_reducible exact Touches.refl
    | ((try lift_lets -underBinder); intro d_; refine (have hd_ : Touches [.past] d d_ := ?_; ?_); (on_goal 1 => try dsimp only [d_]); (on_goal 2 => clear_value d_))
    | ((try lift_lets -underBinder); intro d_; try clear_value d_)
    | with_reducible apply Touches.foldl
    | (intro _ _ _)
    | exact Eq.refl true
    | with_reducible refine Touches.andThen ?_ (by with_reducible exact serveWaitingOwn_touch ..) ?_
    | with_reducible refine Touches.andThen ?_ (by with_reducible exact drainPool_touch ..) ?_
    | split
    | dsimp -zeta only
    | (split at ‹ite _ _ _ = (_, _)›)
    | (cases ‹(_, _) = (_, _)›)

theorem grantCredits_touch (d : Dev) :
    Touches [.past] d (grantCredits d) := by
  unfold grantCredits
  repeat' first
    | with_reducible assumption
    | with_reducible exact Touches.refl
    | ((try lift_lets -underBinder); intro d_; refine (have hd_ : Touches [.past] d d_ := ?_; ?_); (on_goal 1 => try dsimp only [d_]); (on_goal 2 => clear_value d_))
    | ((try lift_lets -underBinder); intro d_; try clear_value d_)
    | exact Eq.refl true
    | with_reducible refine Touches.andThen ?_ (by with_reducible exact onPast_touch ..) ?_
    | with_reducible refine Touches.andThen ?_ (by with_reducible exact serveWaiting_touch ..) ?_
    | split
    | dsimp -zeta only
    | (split at ‹ite _ _ _ = (_, _)›)
    | (cases ‹(_, _) = (_, _)›)

end Sys2Proof.Machine
end

