-- ==== Sys2Proof/Laws/TouchTm.lean ====
section
/-! SUPPORT. Which parts of the device the operations of Machine/Tm.lean touch. -/

namespace Sys2Proof.Machine

set_option linter.all false
set_option Elab.async false

theorem qDrop_touch (d : Dev) (q n : Nat) :
    Touches [.out, .sys, .tm] d (qDrop d q n) := by
  unfold qDrop
  repeat' first
    | with_reducible assumption
    | with_reducible exact Touches.refl
    | ((try lift_lets -underBinder); intro d_; refine (have hd_ : Touches [.out, .sys, .tm] d d_ := ?_; ?_); (on_goal 1 => try dsimp only [d_]); (on_goal 2 => clear_value d_))
    | ((try lift_lets -underBinder); intro d_; try clear_value d_)
    | exact Eq.refl true
    | with_reducible refine Touches.andThen ?_ (by with_reducible exact onQueue_touch ..) ?_
    | with_reducible refine Touches.andThen ?_ (by with_reducible exact onTm_touch ..) ?_
    | with_reducible refine Touches.andThen ?_ (by with_reducible exact raiseLeaf_touch ..) ?_
    | split
    | dsimp -zeta only
    | (split at ‹ite _ _ _ = (_, _)›)
    | (cases ‹(_, _) = (_, _)›)

theorem deepCharge_touch (d : Dev) (len : Nat) :
    Touches [.out, .sys, .past] d (deepCharge d len) := by
  unfold deepCharge
  repeat' first
    | with_reducible assumption
    | with_reducible exact Touches.refl
    | ((try lift_lets -underBinder); intro d_; refine (have hd_ : Touches [.out, .sys, .past] d d_ := ?_; ?_); (on_goal 1 => try dsimp only [d_]); (on_goal 2 => clear_value d_))
    | ((try lift_lets -underBinder); intro d_; try clear_value d_)
    | exact Eq.refl true
    | with_reducible refine Touches.andThen ?_ (by with_reducible exact chargeClass_touch ..) ?_
    | split
    | dsimp -zeta only
    | (split at ‹ite _ _ _ = (_, _)›)
    | (cases ‹(_, _) = (_, _)›)

theorem tmAdmit_touch (d : Dev) (q : Nat) (p : TmPkt) (colour : Nat) :
    Touches [.out, .sys, .past, .tm] d (tmAdmit d q p colour).2 := by
  unfold tmAdmit
  repeat' first
    | with_reducible assumption
    | with_reducible exact Touches.refl
    | ((try lift_lets -underBinder); intro d_; refine (have hd_ : Touches [.out, .sys, .past, .tm] d d_ := ?_; ?_); (on_goal 1 => try dsimp only [d_]); (on_goal 2 => clear_value d_))
    | ((try lift_lets -underBinder); intro d_; try clear_value d_)
    | exact Eq.refl true
    | with_reducible refine Touches.andThen ?_ (by with_reducible exact onTm_touch ..) ?_
    | with_reducible refine Touches.andThen ?_ (by with_reducible exact onQueue_touch ..) ?_
    | with_reducible refine Touches.andThen ?_ (by with_reducible exact qDrop_touch ..) ?_
    | with_reducible refine Touches.andThen ?_ (by with_reducible exact deepCharge_touch ..) ?_
    | with_reducible refine Touches.andThen ?_ (by with_reducible exact raiseLeaf_touch ..) ?_
    | with_reducible refine Touches.andThen ?_ (by with_reducible exact raiseIf_touch ..) ?_
    | split
    | dsimp -zeta only
    | (split at ‹ite _ _ _ = (_, _)›)
    | (cases ‹(_, _) = (_, _)›)

theorem tmAdmit_touch' (d : Dev) (q : Nat) (p : TmPkt) (colour : Nat) {x0 e_} (h_ : tmAdmit d q p colour = (x0, e_)) : Touches [.out, .sys, .past, .tm] d e_ := by
  have := tmAdmit_touch d q p colour; rw [h_] at this; exact this

theorem police_touch (d : Dev) (f : Nat) (n : Int) (now : Nat) :
    Touches [.tm] d (police d f n now).2 := by
  unfold police
  repeat' first
    | with_reducible assumption
    | with_reducible exact Touches.refl
    | ((try lift_lets -underBinder); intro d_; refine (have hd_ : Touches [.tm] d d_ := ?_; ?_); (on_goal 1 => try dsimp only [d_]); (on_goal 2 => clear_value d_))
    | ((try lift_lets -underBinder); intro d_; try clear_value d_)
    | exact Eq.refl true
    | with_reducible refine Touches.andThen ?_ (by with_reducible exact onTm_touch ..) ?_
    | split
    | dsimp -zeta only
    | (split at ‹ite _ _ _ = (_, _)›)
    | (cases ‹(_, _) = (_, _)›)

theorem police_touch' (d : Dev) (f : Nat) (n : Int) (now : Nat) {x0 e_} (h_ : police d f n now = (x0, e_)) : Touches [.tm] d e_ := by
  have := police_touch d f n now; rw [h_] at this; exact this

theorem meterPacket_touch (d : Dev) (port cls colour : Nat) (n : Int) (now : Nat) :
    Touches [.tm] d (meterPacket d port cls colour n now).2.2 := by
  unfold meterPacket
  repeat' first
    | with_reducible assumption
    | with_reducible exact Touches.refl
    | ((try lift_lets -underBinder); intro d_; refine (have hd_ : Touches [.tm] d d_ := ?_; ?_); (on_goal 1 => try dsimp only [d_]); (on_goal 2 => clear_value d_))
    | ((try lift_lets -underBinder); intro d_; try clear_value d_)
    | exact Eq.refl true
    | with_reducible refine Touches.andThen ?_ (by with_reducible exact onTm_touch ..) ?_
    | split
    | dsimp -zeta only
    | (split at ‹ite _ _ _ = (_, _)›)
    | (cases ‹(_, _) = (_, _)›)

theorem meterPacket_touch' (d : Dev) (port cls colour : Nat) (n : Int) (now : Nat) {x0 x1 e_} (h_ : meterPacket d port cls colour n now = (x0, x1, e_)) : Touches [.tm] d e_ := by
  have := meterPacket_touch d port cls colour n now; rw [h_] at this; exact this

theorem tmOffer_touch (d : Dev) (q port cls colour policer : Nat) (p : TmPkt) :
    Touches [.out, .sys, .past, .tm] d (tmOffer d q port cls colour policer p).2 := by
  unfold tmOffer
  repeat' first
    | with_reducible assumption
    | with_reducible exact Touches.refl
    | ((try lift_lets -underBinder); intro d_; refine (have hd_ : Touches [.out, .sys, .past, .tm] d d_ := ?_; ?_); (on_goal 1 => try dsimp only [d_]); (on_goal 2 => clear_value d_))
    | ((try lift_lets -underBinder); intro d_; try clear_value d_)
    | exact Eq.refl true
    | refine Touches.andThen ?_ (police_touch' (h_ := by assumption) ..) ?_
    | refine Touches.andThen ?_ (meterPacket_touch' (h_ := by assumption) ..) ?_
    | with_reducible refine Touches.andThen ?_ (by with_reducible exact tmAdmit_touch ..) ?_
    | split
    | dsimp -zeta only
    | (split at ‹ite _ _ _ = (_, _)›)
    | (cases ‹(_, _) = (_, _)›)

theorem tmOffer_touch' (d : Dev) (q port cls colour policer : Nat) (p : TmPkt) {x0 e_} (h_ : tmOffer d q port cls colour policer p = (x0, e_)) : Touches [.out, .sys, .past, .tm] d e_ := by
  have := tmOffer_touch d q port cls colour policer p; rw [h_] at this; exact this

theorem chargePath_touch (d : Dev) (root g q : Nat) (n : Int) (now : Nat) :
    Touches [.tm] d (chargePath d root g q n now) := by
  unfold chargePath
  repeat' first
    | with_reducible assumption
    | with_reducible exact Touches.refl
    | ((try lift_lets -underBinder); intro d_; refine (have hd_ : Touches [.tm] d d_ := ?_; ?_); (on_goal 1 => try dsimp only [d_]); (on_goal 2 => clear_value d_))
    | ((try lift_lets -underBinder); intro d_; try clear_value d_)
    | exact Eq.refl true
    | with_reducible refine Touches.andThen ?_ (by with_reducible exact onQueue_touch ..) ?_
    | with_reducible refine Touches.andThen ?_ (by with_reducible exact onGroup_touch ..) ?_
    | with_reducible refine Touches.andThen ?_ (by with_reducible exact onRoot_touch ..) ?_
    | split
    | dsimp -zeta only
    | (split at ‹ite _ _ _ = (_, _)›)
    | (cases ‹(_, _) = (_, _)›)

theorem sojourn_touch (d : Dev) (q : Nat) (p : TmPkt) (now : Nat) :
    Touches [.out, .sys, .tm] d (sojourn d q p now) := by
  unfold sojourn
  repeat' first
    | with_reducible assumption
    | with_reducible exact Touches.refl
    | ((try lift_lets -underBinder); intro d_; refine (have hd_ : Touches [.out, .sys, .tm] d d_ := ?_; ?_); (on_goal 1 => try dsimp only [d_]); (on_goal 2 => clear_value d_))
    | ((try lift_lets -underBinder); intro d_; try clear_value d_)
    | exact Eq.refl true
    | with_reducible refine Touches.andThen ?_ (by with_reducible exact onQueue_touch ..) ?_
    | with_reducible refine Touches.andThen ?_ (by with_reducible exact onTm_touch ..) ?_
    | with_reducible refine Touches.andThen ?_ (by with_reducible exact raiseLeaf_touch ..) ?_
    | split
    | dsimp -zeta only
    | (split at ‹ite _ _ _ = (_, _)›)
    | (cases ‹(_, _) = (_, _)›)

theorem commitDrr_touch (d : Dev) (root band g q : Nat) (gd : Tbl Nat) (sd : Option (Tbl Nat)) :
    Touches [.tm] d (commitDrr d root band g q gd sd) := by
  unfold commitDrr
  repeat' first
    | with_reducible assumption
    | with_reducible exact Touches.refl
    | ((try lift_lets -underBinder); intro d_; refine (have hd_ : Touches [.tm] d d_ := ?_; ?_); (on_goal 1 => try dsimp only [d_]); (on_goal 2 => clear_value d_))
    | ((try lift_lets -underBinder); intro d_; try clear_value d_)
    | exact Eq.refl true
    | with_reducible refine Touches.andThen ?_ (by with_reducible exact onTm_touch ..) ?_
    | with_reducible refine Touches.andThen ?_ (by with_reducible exact onRoot_touch ..) ?_
    | with_reducible refine Touches.andThen ?_ (by with_reducible exact onGroup_touch ..) ?_
    | split
    | dsimp -zeta only
    | (split at ‹ite _ _ _ = (_, _)›)
    | (cases ‹(_, _) = (_, _)›)

theorem tmTake_opt (d : Dev) (root now : Nat) : OptTouch (α := Nat × TmPkt × Dev) (fun x => x.2.2) [.out, .sys, .past, .tm] d (tmTake d root now) := by
  unfold tmTake
  repeat' first
    | with_reducible assumption
    | with_reducible exact Touches.refl
    | exact OptTouch.none
    | with_reducible refine OptTouch.some ?_
    | ((try lift_lets -underBinder); intro d_; refine (have hd_ : Touches [.out, .sys, .past, .tm] d d_ := ?_; ?_); (on_goal 1 => try dsimp only [d_]); (on_goal 2 => clear_value d_))
    | ((try lift_lets -underBinder); intro d_; try clear_value d_)
    | exact Eq.refl true
    | with_reducible refine Touches.andThen ?_ (by with_reducible exact onQueue_touch ..) ?_
    | with_reducible refine Touches.andThen ?_ (by with_reducible exact commitDrr_touch ..) ?_
    | with_reducible refine Touches.andThen ?_ (by with_reducible exact chargePath_touch ..) ?_
    | with_reducible refine Touches.andThen ?_ (by with_reducible exact deepCharge_touch ..) ?_
    | with_reducible refine Touches.andThen ?_ (by with_reducible exact sojourn_touch ..) ?_
    | split
    | dsimp -zeta only
    | (split at ‹ite _ _ _ = (_, _)›)
    | (cases ‹(_, _) = (_, _)›)

theorem tmTake_touch (d : Dev) (root now : Nat) {x0 x1 e_} (h_ : tmTake d root now = some (x0, x1, e_)) : Touches [.out, .sys, .past, .tm] d e_ := (tmTake_opt d root now).of_some h_

theorem tmUnstage_touch (d : Dev) :
    Touches [.tm] d (tmUnstage d) := by
  unfold tmUnstage
  repeat' first
    | with_reducible assumption
    | with_reducible exact Touches.refl
    | exact Eq.refl true
    | with_reducible refine Touches.andThen ?_ (by with_reducible exact onTm_touch ..) ?_
    | split
    | dsimp -zeta only
    | (split at ‹ite _ _ _ = (_, _)›)
    | (cases ‹(_, _) = (_, _)›)

theorem ccQueue_opt (d : Dev) (root band : Nat) (k : GKind) (slots : List Nat) (owner : QOwner) (sh : Bucket) (lo n : Nat) :
    OptTouch (α := Nat × Dev) (fun x => x.2) [.tm] d (ccQueue d root band k slots owner sh lo n) := by
  unfold ccQueue
  split
  · exact .none
  · split
    · exact .some (by dsimp only; exact onTm_touch _ _)
    · split
      · exact .some (by dsimp only; exact onTm_touch _ _)
      · exact .none

theorem ccQueue_touch (d : Dev) (root band : Nat) (k : GKind) (slots : List Nat) (owner : QOwner) (sh : Bucket) (lo n : Nat) {x0 e_}
    (h_ : ccQueue d root band k slots owner sh lo n = some (x0, e_)) : Touches [.tm] d e_ := (ccQueue_opt d root band k slots owner sh lo n).of_some h_

theorem getD_touch {qs : List Part} {b : Dev} {o : Option (Nat × Dev)} (h : OptTouch (α := Nat × Dev) (fun x => x.2) qs b o) :
    Touches qs b ((o.map (·.2)).getD b) := by
  cases ho : o with
  | none => exact .refl
  | some x => exact h.of_some ho

theorem legAudioQueue_opt (d : Dev) (root leg : Nat) : OptTouch (α := Nat × Dev) (fun x => x.2) [.tm] d (legAudioQueue d root leg) := by
  unfold legAudioQueue; exact ccQueue_opt ..

theorem legAudioQueue_touch (d : Dev) (root leg : Nat) {x0 e_} (h_ : legAudioQueue d root leg = some (x0, e_)) : Touches [.tm] d e_ := (legAudioQueue_opt d root leg).of_some h_

theorem legVideoQueue_opt (d : Dev) (root leg : Nat) : OptTouch (α := Nat × Dev) (fun x => x.2) [.tm] d (legVideoQueue d root leg) := by
  unfold legVideoQueue; exact ccQueue_opt ..

theorem legVideoQueue_touch (d : Dev) (root leg : Nat) {x0 e_} (h_ : legVideoQueue d root leg = some (x0, e_)) : Touches [.tm] d e_ := (legVideoQueue_opt d root leg).of_some h_

theorem trunkQueue_opt (d : Dev) (root t : Nat) : OptTouch (α := Nat × Dev) (fun x => x.2) [.tm] d (trunkQueue d root t) := by
  unfold trunkQueue; exact ccQueue_opt ..

theorem trunkQueue_touch (d : Dev) (root t : Nat) {x0 e_} (h_ : trunkQueue d root t = some (x0, e_)) : Touches [.tm] d e_ := (trunkQueue_opt d root t).of_some h_

theorem cutQueue_opt (d : Dev) (port : Nat) : OptTouch (α := Nat × Dev) (fun x => x.2) [.tm] d (cutQueue d port) := by
  unfold cutQueue; exact ccQueue_opt ..

theorem cutQueue_touch (d : Dev) (port : Nat) {x0 e_} (h_ : cutQueue d port = some (x0, e_)) : Touches [.tm] d e_ := (cutQueue_opt d port).of_some h_

theorem deviceQueue_opt (d : Dev) (root now : Nat) : OptTouch (α := Nat × Dev) (fun x => x.2) [.tm] d (deviceQueue d root now) := by
  unfold deviceQueue
  repeat' first
    | with_reducible assumption
    | with_reducible exact Touches.refl
    | exact OptTouch.none
    | with_reducible refine OptTouch.some ?_
    | with_reducible refine OptTouch.andThen ?_ (ccQueue_opt ..) ?_
    | ((try lift_lets -underBinder); intro d_; refine (have hd_ : Touches [.tm] d d_ := ?_; ?_); (on_goal 1 => try dsimp only [d_]); (on_goal 2 => clear_value d_))
    | ((try lift_lets -underBinder); intro d_; try clear_value d_)
    | exact Eq.refl true
    | refine Touches.andThen ?_ (ccQueue_touch (h_ := by assumption) ..) ?_
    | with_reducible refine Touches.andThen ?_ (by with_reducible exact onTm_touch ..) ?_
    | split
    | dsimp -zeta only
    | (split at ‹ite _ _ _ = (_, _)›)
    | (cases ‹(_, _) = (_, _)›)

theorem deviceQueue_touch (d : Dev) (root now : Nat) {x0 e_} (h_ : deviceQueue d root now = some (x0, e_)) : Touches [.tm] d e_ := (deviceQueue_opt d root now).of_some h_

theorem freeOwned_touch (d : Dev) (own : QOwner → Bool) :
    Touches [.tm] d (freeOwned d own) := by
  unfold freeOwned
  repeat' first
    | with_reducible assumption
    | with_reducible exact Touches.refl
    | exact Eq.refl true
    | with_reducible refine Touches.andThen ?_ (by with_reducible exact onTm_touch ..) ?_
    | split
    | dsimp -zeta only
    | (split at ‹ite _ _ _ = (_, _)›)
    | (cases ‹(_, _) = (_, _)›)

theorem queueDrainEnd_touch (q : Nat) (d : Dev) :
    Touches [.out, .sys, .tm] d (queueDrainEnd q d) := by
  unfold queueDrainEnd
  repeat' first
    | with_reducible assumption
    | with_reducible exact Touches.refl
    | exact Eq.refl true
    | with_reducible refine Touches.andThen ?_ (by with_reducible exact onQueue_touch ..) ?_
    | with_reducible refine Touches.andThen ?_ (by with_reducible exact qDrop_touch ..) ?_
    | split
    | dsimp -zeta only
    | (split at ‹ite _ _ _ = (_, _)›)
    | (cases ‹(_, _) = (_, _)›)

theorem tmSweep_touch (d : Dev) :
    Touches [.tm] d (tmSweep d) := by
  unfold tmSweep
  repeat' first
    | with_reducible assumption
    | with_reducible exact Touches.refl
    | ((try lift_lets -underBinder); intro d_; refine (have hd_ : Touches [.tm] d d_ := ?_; ?_); (on_goal 1 => try dsimp only [d_]); (on_goal 2 => clear_value d_))
    | ((try lift_lets -underBinder); intro d_; try clear_value d_)
    | exact Eq.refl true
    | with_reducible refine Touches.andThen ?_ (by with_reducible exact onTm_touch ..) ?_
    | split
    | dsimp -zeta only
    | (split at ‹ite _ _ _ = (_, _)›)
    | (cases ‹(_, _) = (_, _)›)

theorem hwmReset_touch (queue : Nat) (go all : Bool) (d : Dev) :
    Touches [.tm] d (hwmReset queue go all d) := by
  unfold hwmReset
  repeat' first
    | with_reducible assumption
    | with_reducible exact Touches.refl
    | exact Eq.refl true
    | with_reducible refine Touches.andThen ?_ (by with_reducible exact onTm_touch ..) ?_
    | with_reducible refine Touches.andThen ?_ (by with_reducible exact onQueue_touch ..) ?_
    | split
    | dsimp -zeta only
    | (split at ‹ite _ _ _ = (_, _)›)
    | (cases ‹(_, _) = (_, _)›)

theorem applyTmQueueAlloc_touch (f : QueueFields) (pick : Nat) (d : Dev) :
    Touches [.tm] d (applyTmQueueAlloc f pick d) := by
  unfold applyTmQueueAlloc
  repeat' first
    | with_reducible assumption
    | with_reducible exact Touches.refl
    | ((try lift_lets -underBinder); intro d_; refine (have hd_ : Touches [.tm] d d_ := ?_; ?_); (on_goal 1 => try dsimp only [d_]); (on_goal 2 => clear_value d_))
    | ((try lift_lets -underBinder); intro d_; try clear_value d_)
    | exact Eq.refl true
    | with_reducible refine Touches.andThen ?_ (by with_reducible exact onTm_touch ..) ?_
    | split
    | dsimp -zeta only
    | (split at ‹ite _ _ _ = (_, _)›)
    | (cases ‹(_, _) = (_, _)›)

theorem applyTmQueueSet_touch (queue : Nat) (f : QueueFields) (sojAlarm : Nat) (d : Dev) :
    Touches [.tm] d (applyTmQueueSet queue f sojAlarm d) := by
  unfold applyTmQueueSet
  repeat' first
    | with_reducible assumption
    | with_reducible exact Touches.refl
    | exact Eq.refl true
    | with_reducible refine Touches.andThen ?_ (by with_reducible exact onQueue_touch ..) ?_
    | split
    | dsimp -zeta only
    | (split at ‹ite _ _ _ = (_, _)›)
    | (cases ‹(_, _) = (_, _)›)

theorem applyTmQueueFree_touch (queue : Nat) (d : Dev) :
    Touches [.tm] d (applyTmQueueFree queue d) := by
  unfold applyTmQueueFree
  repeat' first
    | with_reducible assumption
    | with_reducible exact Touches.refl
    | exact Eq.refl true
    | with_reducible refine Touches.andThen ?_ (by with_reducible exact onQueue_touch ..) ?_
    | split
    | dsimp -zeta only
    | (split at ‹ite _ _ _ = (_, _)›)
    | (cases ‹(_, _) = (_, _)›)

theorem applyTmGroupSet_touch (root band quantum : Nat) (create : Bool) (pick : Nat) (d : Dev) :
    Touches [.tm] d (applyTmGroupSet root band quantum create pick d) := by
  unfold applyTmGroupSet
  repeat' first
    | with_reducible assumption
    | with_reducible exact Touches.refl
    | exact Eq.refl true
    | with_reducible refine Touches.andThen ?_ (by with_reducible exact onTm_touch ..) ?_
    | with_reducible refine Touches.andThen ?_ (by with_reducible exact onGroup_touch ..) ?_
    | split
    | dsimp -zeta only
    | (split at ‹ite _ _ _ = (_, _)›)
    | (cases ‹(_, _) = (_, _)›)

theorem applyTmShaperSet_touch (level number : Nat) (enable : Bool) (rate burst : Nat) (d : Dev) :
    Touches [.tm] d (applyTmShaperSet level number enable rate burst d) := by
  unfold applyTmShaperSet
  repeat' first
    | with_reducible assumption
    | with_reducible exact Touches.refl
    | ((try lift_lets -underBinder); intro d_; refine (have hd_ : Touches [.tm] d d_ := ?_; ?_); (on_goal 1 => try dsimp only [d_]); (on_goal 2 => clear_value d_))
    | ((try lift_lets -underBinder); intro d_; try clear_value d_)
    | exact Eq.refl true
    | with_reducible refine Touches.andThen ?_ (by with_reducible exact onQueue_touch ..) ?_
    | with_reducible refine Touches.andThen ?_ (by with_reducible exact onGroup_touch ..) ?_
    | with_reducible refine Touches.andThen ?_ (by with_reducible exact onRoot_touch ..) ?_
    | split
    | dsimp -zeta only
    | (split at ‹ite _ _ _ = (_, _)›)
    | (cases ‹(_, _) = (_, _)›)

theorem applyTmRootSet_touch (root : Nat) (adj : Int) (d : Dev) :
    Touches [.tm] d (applyTmRootSet root adj d) := by
  unfold applyTmRootSet
  repeat' first
    | with_reducible assumption
    | with_reducible exact Touches.refl
    | exact Eq.refl true
    | with_reducible refine Touches.andThen ?_ (by with_reducible exact onRoot_touch ..) ?_
    | split
    | dsimp -zeta only
    | (split at ‹ite _ _ _ = (_, _)›)
    | (cases ‹(_, _) = (_, _)›)

theorem applyTmPolicerSet_touch (policer : Nat) (enable : Bool) (rate burst : Nat) (d : Dev) :
    Touches [.tm] d (applyTmPolicerSet policer enable rate burst d) := by
  unfold applyTmPolicerSet
  repeat' first
    | with_reducible assumption
    | with_reducible exact Touches.refl
    | exact Eq.refl true
    | with_reducible refine Touches.andThen ?_ (by with_reducible exact onTm_touch ..) ?_
    | split
    | dsimp -zeta only
    | (split at ‹ite _ _ _ = (_, _)›)
    | (cases ‹(_, _) = (_, _)›)

theorem applyTmMeterSet_touch (meter : Nat) (f : MeterFields) (d : Dev) :
    Touches [.tm] d (applyTmMeterSet meter f d) := by
  unfold applyTmMeterSet
  repeat' first
    | with_reducible assumption
    | with_reducible exact Touches.refl
    | ((try lift_lets -underBinder); intro d_; refine (have hd_ : Touches [.tm] d d_ := ?_; ?_); (on_goal 1 => try dsimp only [d_]); (on_goal 2 => clear_value d_))
    | ((try lift_lets -underBinder); intro d_; try clear_value d_)
    | exact Eq.refl true
    | with_reducible refine Touches.andThen ?_ (by with_reducible exact onTm_touch ..) ?_
    | split
    | dsimp -zeta only
    | (split at ‹ite _ _ _ = (_, _)›)
    | (cases ‹(_, _) = (_, _)›)

theorem applyTmMeterMapSet_touch (port cls meter : Nat) (d : Dev) :
    Touches [.tm] d (applyTmMeterMapSet port cls meter d) := by
  unfold applyTmMeterMapSet
  repeat' first
    | with_reducible assumption
    | with_reducible exact Touches.refl
    | exact Eq.refl true
    | with_reducible refine Touches.andThen ?_ (by with_reducible exact onTm_touch ..) ?_
    | split
    | dsimp -zeta only
    | (split at ‹ite _ _ _ = (_, _)›)
    | (cases ‹(_, _) = (_, _)›)

theorem applyTmBufConfig_touch (high deepMib : Nat) (d : Dev) :
    Touches [.tm] d (applyTmBufConfig high deepMib d) := by
  unfold applyTmBufConfig
  repeat' first
    | with_reducible assumption
    | with_reducible exact Touches.refl
    | exact Eq.refl true
    | with_reducible refine Touches.andThen ?_ (by with_reducible exact onTm_touch ..) ?_
    | split
    | dsimp -zeta only
    | (split at ‹ite _ _ _ = (_, _)›)
    | (cases ‹(_, _) = (_, _)›)

end Sys2Proof.Machine
end

