-- ==== Sys2Proof/Laws/TouchCharge.lean ====
section
/-! SUPPORT. Which parts of the device the operations of Machine/Charge.lean touch. -/

namespace Sys2Proof.Machine

set_option linter.all false
set_option Elab.async false

theorem domainOn_touch (d : Dev) (k : Nat) :
    Touches [.pwr] d (domainOn d k) := by
  unfold domainOn
  repeat' first
    | with_reducible assumption
    | with_reducible exact Touches.refl
    | exact Eq.refl true
    | with_reducible refine Touches.andThen ?_ (by with_reducible exact onPwr_touch ..) ?_
    | split
    | dsimp -zeta only
    | (split at ‹ite _ _ _ = (_, _)›)
    | (cases ‹(_, _) = (_, _)›)

theorem wakeGroup_touch (d : Dev) (g : Nat) :
    Touches [.out, .sys, .pwr, .aux, .flock] d (wakeGroup d g) := by
  unfold wakeGroup
  repeat' first
    | with_reducible assumption
    | with_reducible exact Touches.refl
    | ((try lift_lets -underBinder); intro d_; refine (have hd_ : Touches [.out, .sys, .pwr, .aux, .flock] d d_ := ?_; ?_); (on_goal 1 => try dsimp only [d_]); (on_goal 2 => clear_value d_))
    | ((try lift_lets -underBinder); intro d_; try clear_value d_)
    | with_reducible apply Touches.foldl
    | (intro _ _ _)
    | exact Eq.refl true
    | with_reducible refine Touches.andThen ?_ (by with_reducible exact onAux_touch ..) ?_
    | with_reducible refine Touches.andThen ?_ (by with_reducible exact onFGroup_touch ..) ?_
    | with_reducible refine Touches.andThen ?_ (by with_reducible exact onEng_touch ..) ?_
    | with_reducible refine Touches.andThen ?_ (by with_reducible exact raiseLeaf_touch ..) ?_
    | with_reducible refine Touches.andThen ?_ (by with_reducible exact domainOn_touch ..) ?_
    | split
    | dsimp -zeta only
    | (split at ‹ite _ _ _ = (_, _)›)
    | (cases ‹(_, _) = (_, _)›)

theorem wakeOpt_touch (d : Dev) (g : Option Nat) :
    Touches [.out, .sys, .pwr, .aux, .flock] d (wakeOpt d g) := by
  unfold wakeOpt
  repeat' first
    | with_reducible assumption
    | with_reducible exact Touches.refl
    | ((try lift_lets -underBinder); intro d_; refine (have hd_ : Touches [.out, .sys, .pwr, .aux, .flock] d d_ := ?_; ?_); (on_goal 1 => try dsimp only [d_]); (on_goal 2 => clear_value d_))
    | ((try lift_lets -underBinder); intro d_; try clear_value d_)
    | exact Eq.refl true
    | with_reducible refine Touches.andThen ?_ (by with_reducible exact onAux_touch ..) ?_
    | with_reducible refine Touches.andThen ?_ (by with_reducible exact wakeGroup_touch ..) ?_
    | split
    | dsimp -zeta only
    | (split at ‹ite _ _ _ = (_, _)›)
    | (cases ‹(_, _) = (_, _)›)

theorem copiesDone_touch (d : Dev) :
    Touches [.media, .aud, .imc] d (copiesDone d) := by
  unfold copiesDone
  repeat' first
    | with_reducible assumption
    | with_reducible exact Touches.refl
    | ((try lift_lets -underBinder); intro d_; refine (have hd_ : Touches [.media, .aud, .imc] d d_ := ?_; ?_); (on_goal 1 => try dsimp only [d_]); (on_goal 2 => clear_value d_))
    | ((try lift_lets -underBinder); intro d_; try clear_value d_)
    | exact Eq.refl true
    | with_reducible refine Touches.andThen ?_ (by with_reducible exact onImc_touch ..) ?_
    | with_reducible refine Touches.andThen ?_ (by with_reducible exact onAud_touch ..) ?_
    | with_reducible refine Touches.andThen ?_ (by with_reducible exact onMedia_touch ..) ?_
    | split
    | dsimp -zeta only
    | (split at ‹ite _ _ _ = (_, _)›)
    | (cases ‹(_, _) = (_, _)›)

theorem legEvent_touch (d : Dev) (kind n : Nat) :
    Touches [.out, .sys, .media] d (legEvent d kind n) := by
  unfold legEvent
  repeat' first
    | with_reducible assumption
    | with_reducible exact Touches.refl
    | exact Eq.refl true
    | with_reducible refine Touches.andThen ?_ (by with_reducible exact onMedia_touch ..) ?_
    | with_reducible refine Touches.andThen ?_ (by with_reducible exact raiseLeaf_touch ..) ?_
    | split
    | dsimp -zeta only
    | (split at ‹ite _ _ _ = (_, _)›)
    | (cases ‹(_, _) = (_, _)›)

end Sys2Proof.Machine
end

