-- ==== Sys2Proof/Laws/TouchMix.lean ====
section
/-! SUPPORT. Which parts of the device the operations of Machine/Mix.lean touch. -/

namespace Sys2Proof.Machine

set_option linter.all false
set_option Elab.async false

theorem deliverConf_touch (all : MixOuts) (n : Nat) (lostRoutes : List Nat) (d : Dev) :
    Touches [.media, .aud] d (deliverConf all n lostRoutes d) := by
  unfold deliverConf
  repeat' first
    | with_reducible assumption
    | with_reducible exact Touches.refl
    | ((try lift_lets -underBinder); intro d_; refine (have hd_ : Touches [.media, .aud] d d_ := ?_; ?_); (on_goal 1 => try dsimp only [d_]); (on_goal 2 => clear_value d_))
    | ((try lift_lets -underBinder); intro d_; try clear_value d_)
    | with_reducible apply Touches.foldl
    | (intro _ _ _)
    | exact Eq.refl true
    | with_reducible refine Touches.andThen ?_ (by with_reducible exact onAud_touch ..) ?_
    | with_reducible refine Touches.andThen ?_ (by with_reducible exact onMedia_touch ..) ?_
    | with_reducible refine Touches.andThen ?_ (by with_reducible exact onConf_touch ..) ?_
    | split
    | dsimp -zeta only
    | (split at ‹ite _ _ _ = (_, _)›)
    | (cases ‹(_, _) = (_, _)›)

theorem clipNote_touch (d : Dev) (n : Nat) (before : BitVec 64) :
    Touches [.out, .sys, .aud] d (clipNote d n before) := by
  unfold clipNote
  repeat' first
    | with_reducible assumption
    | with_reducible exact Touches.refl
    | exact Eq.refl true
    | with_reducible refine Touches.andThen ?_ (by with_reducible exact onAud_touch ..) ?_
    | with_reducible refine Touches.andThen ?_ (by with_reducible exact raiseLeaf_touch ..) ?_
    | split
    | dsimp -zeta only
    | (split at ‹ite _ _ _ = (_, _)›)
    | (cases ‹(_, _) = (_, _)›)

theorem mixOne_touch (lostMix : List Nat) (n : Nat) (c : Conf) (d : Dev) :
    Touches [.media] d (mixOne lostMix n c d).1 := by
  unfold mixOne
  repeat' first
    | with_reducible assumption
    | with_reducible exact Touches.refl
    | ((try lift_lets -underBinder); intro d_; refine (have hd_ : Touches [.media] d d_ := ?_; ?_); (on_goal 1 => try dsimp only [d_]); (on_goal 2 => clear_value d_))
    | ((try lift_lets -underBinder); intro d_; try clear_value d_)
    | exact Eq.refl true
    | with_reducible refine Touches.andThen ?_ (by with_reducible exact onConf_touch ..) ?_
    | split
    | dsimp -zeta only
    | (split at ‹ite _ _ _ = (_, _)›)
    | (cases ‹(_, _) = (_, _)›)

theorem mixOne_touch' (lostMix : List Nat) (n : Nat) (c : Conf) (d : Dev) {e_ x1} (h_ : mixOne lostMix n c d = (e_, x1)) : Touches [.media] d e_ := by
  have := mixOne_touch lostMix n c d; rw [h_] at this; exact this

theorem mixAll_touch (lostMix ns : List Nat) (a : Dev × MixOuts) : Touches [.media] a.1 (mixAll lostMix ns a).1 := by
  induction ns generalizing a with
  | nil => exact .refl
  | cons n rest ih =>
    unfold mixAll
    split
    · exact ih a
    · split
      · exact ih a
      · dsimp only
        exact .andThen (mixOne_touch lostMix n _ a.1) (ih (_, _))

theorem handOver_touch (all : MixOuts) (lostRoutes : List Nat) (d : Dev) (n : Nat) :
    Touches [.out, .sys, .media, .aud] d (handOver all lostRoutes d n) := by
  unfold handOver
  repeat' first
    | with_reducible assumption
    | with_reducible exact Touches.refl
    | ((try lift_lets -underBinder); intro d_; refine (have hd_ : Touches [.out, .sys, .media, .aud] d d_ := ?_; ?_); (on_goal 1 => try dsimp only [d_]); (on_goal 2 => clear_value d_))
    | ((try lift_lets -underBinder); intro d_; try clear_value d_)
    | exact Eq.refl true
    | with_reducible refine Touches.andThen ?_ (by with_reducible exact clipNote_touch ..) ?_
    | with_reducible refine Touches.andThen ?_ (by with_reducible exact deliverConf_touch ..) ?_
    | split
    | dsimp -zeta only
    | (split at ‹ite _ _ _ = (_, _)›)
    | (cases ‹(_, _) = (_, _)›)

theorem routesAdvance_touch (d : Dev) :
    Touches [.aud] d (routesAdvance d) := by
  unfold routesAdvance
  repeat' first
    | with_reducible assumption
    | with_reducible exact Touches.refl
    | ((try lift_lets -underBinder); intro d_; refine (have hd_ : Touches [.aud] d d_ := ?_; ?_); (on_goal 1 => try dsimp only [d_]); (on_goal 2 => clear_value d_))
    | ((try lift_lets -underBinder); intro d_; try clear_value d_)
    | exact Eq.refl true
    | with_reducible refine Touches.andThen ?_ (by with_reducible exact onAud_touch ..) ?_
    | split
    | dsimp -zeta only
    | (split at ‹ite _ _ _ = (_, _)›)
    | (cases ‹(_, _) = (_, _)›)

theorem audioTick_touch (lostIn lostMix lostRoutes : List Nat) (d : Dev) : Touches [.out, .sys, .media, .aud] d (audioTick lostIn lostMix lostRoutes d) := by
  unfold audioTick
  dsimp only
  have h : Touches [.out, .sys, .media, .aud] d (mixAll lostMix (d.media.confs.map (·.1)) (d, [])).1 := .mono (mixAll_touch lostMix _ (d, []))
  refine Touches.andThen (Touches.andThen (Touches.foldl h (fun e n k => ?_)) (onMedia_touch _ _)) (routesAdvance_touch _)
  exact .andThen k (handOver_touch _ lostRoutes e n)

end Sys2Proof.Machine
end

