-- ==== Sys2Proof/Laws/TouchWire.lean ====
section
/-! SUPPORT. Which parts of the device the operations of Machine/Wire.lean touch. -/

namespace Sys2Proof.Machine

set_option linter.all false
set_option Elab.async false

theorem cascTx_touch (d : Dev) (k : OutKind) (p : Nat) (t : CascType) (hops src dst : Nat) (corr : Int) (pay : List Byte) :
    Touches [.out, .casc] d (cascTx d k p t hops src dst corr pay) := by
  unfold cascTx
  repeat' first
    | with_reducible assumption
    | with_reducible exact Touches.refl
    | ((try lift_lets -underBinder); intro d_; refine (have hd_ : Touches [.out, .casc] d d_ := ?_; ?_); (on_goal 1 => try dsimp only [d_]); (on_goal 2 => clear_value d_))
    | ((try lift_lets -underBinder); intro d_; try clear_value d_)
    | exact Eq.refl true
    | with_reducible refine Touches.andThen ?_ (by with_reducible exact emit_touch ..) ?_
    | with_reducible refine Touches.andThen ?_ (by with_reducible exact onCascPort_touch ..) ?_
    | split
    | dsimp -zeta only
    | (split at ‹ite _ _ _ = (_, _)›)
    | (cases ‹(_, _) = (_, _)›)

theorem cascNear_touch (d : Dev) (k : OutKind) (p : Nat) (c : CascCtl) :
    Touches [.out, .casc] d (cascNear d k p c) := by
  unfold cascNear
  repeat' first
    | with_reducible assumption
    | with_reducible exact Touches.refl
    | ((try lift_lets -underBinder); intro d_; refine (have hd_ : Touches [.out, .casc] d d_ := ?_; ?_); (on_goal 1 => try dsimp only [d_]); (on_goal 2 => clear_value d_))
    | ((try lift_lets -underBinder); intro d_; try clear_value d_)
    | exact Eq.refl true
    | with_reducible refine Touches.andThen ?_ (by with_reducible exact cascTx_touch ..) ?_
    | split
    | dsimp -zeta only
    | (split at ‹ite _ _ _ = (_, _)›)
    | (cases ‹(_, _) = (_, _)›)

theorem broadcast_touch (d : Dev) (k : OutKind) (t : CascType) (pay : List Byte) :
    Touches [.out, .casc] d (broadcast d k t pay) := by
  unfold broadcast
  repeat' first
    | with_reducible assumption
    | with_reducible exact Touches.refl
    | ((try lift_lets -underBinder); intro d_; refine (have hd_ : Touches [.out, .casc] d d_ := ?_; ?_); (on_goal 1 => try dsimp only [d_]); (on_goal 2 => clear_value d_))
    | ((try lift_lets -underBinder); intro d_; try clear_value d_)
    | with_reducible apply Touches.foldl
    | (intro _ _ _)
    | exact Eq.refl true
    | with_reducible refine Touches.andThen ?_ (by with_reducible exact cascTx_touch ..) ?_
    | split
    | dsimp -zeta only
    | (split at ‹ite _ _ _ = (_, _)›)
    | (cases ‹(_, _) = (_, _)›)

theorem cascRouted_touch (d : Dev) (k : OutKind) (t : CascType) (dst : Nat) (pay : List Byte) :
    Touches [.out, .casc] d (cascRouted d k t dst pay) := by
  unfold cascRouted
  repeat' first
    | with_reducible assumption
    | with_reducible exact Touches.refl
    | ((try lift_lets -underBinder); intro d_; refine (have hd_ : Touches [.out, .casc] d d_ := ?_; ?_); (on_goal 1 => try dsimp only [d_]); (on_goal 2 => clear_value d_))
    | ((try lift_lets -underBinder); intro d_; try clear_value d_)
    | exact Eq.refl true
    | with_reducible refine Touches.andThen ?_ (by with_reducible exact cascTx_touch ..) ?_
    | split
    | dsimp -zeta only
    | (split at ‹ite _ _ _ = (_, _)›)
    | (cases ‹(_, _) = (_, _)›)

theorem cascDown_touch (d : Dev) (p reason : Nat) :
    Touches [.out, .sys, .casc] d (cascDown d p reason) := by
  unfold cascDown
  repeat' first
    | with_reducible assumption
    | with_reducible exact Touches.refl
    | ((try lift_lets -underBinder); intro d_; refine (have hd_ : Touches [.out, .sys, .casc] d d_ := ?_; ?_); (on_goal 1 => try dsimp only [d_]); (on_goal 2 => clear_value d_))
    | ((try lift_lets -underBinder); intro d_; try clear_value d_)
    | exact Eq.refl true
    | with_reducible refine Touches.andThen ?_ (by with_reducible exact onCasc_touch ..) ?_
    | with_reducible refine Touches.andThen ?_ (by with_reducible exact onCascPort_touch ..) ?_
    | with_reducible refine Touches.andThen ?_ (by with_reducible exact raiseIf_touch ..) ?_
    | split
    | dsimp -zeta only
    | (split at ‹ite _ _ _ = (_, _)›)
    | (cases ‹(_, _) = (_, _)›)

theorem cascForward_touch (h : CascHdr) (k : OutKind) (t : CascType) (corr : Int) (pay : List Byte) (d : Dev) :
    Touches [.out, .casc] d (cascForward h k t corr pay d) := by
  unfold cascForward
  repeat' first
    | with_reducible assumption
    | with_reducible exact Touches.refl
    | ((try lift_lets -underBinder); intro d_; refine (have hd_ : Touches [.out, .casc] d d_ := ?_; ?_); (on_goal 1 => try dsimp only [d_]); (on_goal 2 => clear_value d_))
    | ((try lift_lets -underBinder); intro d_; try clear_value d_)
    | exact Eq.refl true
    | with_reducible refine Touches.andThen ?_ (by with_reducible exact onCascPort_touch ..) ?_
    | with_reducible refine Touches.andThen ?_ (by with_reducible exact cascTx_touch ..) ?_
    | split
    | dsimp -zeta only
    | (split at ‹ite _ _ _ = (_, _)›)
    | (cases ‹(_, _) = (_, _)›)

theorem badTag_touch (h : CascHdr) (control : Bool) (d : Dev) :
    Touches [.out, .sys, .casc] d (badTag h control d) := by
  unfold badTag
  repeat' first
    | with_reducible assumption
    | with_reducible exact Touches.refl
    | ((try lift_lets -underBinder); intro d_; refine (have hd_ : Touches [.out, .sys, .casc] d d_ := ?_; ?_); (on_goal 1 => try dsimp only [d_]); (on_goal 2 => clear_value d_))
    | ((try lift_lets -underBinder); intro d_; try clear_value d_)
    | exact Eq.refl true
    | with_reducible refine Touches.andThen ?_ (by with_reducible exact onCascPort_touch ..) ?_
    | with_reducible refine Touches.andThen ?_ (by with_reducible exact raiseLeaf_touch ..) ?_
    | with_reducible refine Touches.andThen ?_ (by with_reducible exact cascDown_touch ..) ?_
    | split
    | dsimp -zeta only
    | (split at ‹ite _ _ _ = (_, _)›)
    | (cases ‹(_, _) = (_, _)›)

theorem cascRx_touch {ps : List Part} (hs : subParts [.out, .sys, .casc] ps = true) {f : Dev → Dev} (hf : ∀ x, Touches ps x (f x))
    (h : CascHdr) (t : CascType) (pay : List Byte) (near : Bool) (k : OutKind) (corr : Int) (d : Dev) : Touches ps d (cascRx h t pay near k corr f d) := by
  unfold cascRx
  split
  · exact .refl
  · have h1 : Touches ps d (onCascPort d h.port (fun x => { x with rx := satInc x.rx })) := .mono (onCascPort_touch _ _ _) (subParts_trans rfl hs)
    revert h1
    dsimp only
    generalize onCascPort d h.port (fun x => { x with rx := satInc x.rx }) = e
    intro h1
    split
    · exact .andThen h1 (onCascPort_touch _ _ _) (subParts_trans rfl hs)
    · split
      · exact .andThen h1 (badTag_touch _ _ _) (subParts_trans rfl hs)
      · have h2 : Touches ps d (if t = .control then onCascPort e h.port (fun x => { x with badTags := 0 }) else e) := by
          split
          · exact .andThen h1 (onCascPort_touch _ _ _) (subParts_trans rfl hs)
          · exact h1
        revert h2
        generalize (if t = .control then onCascPort e h.port (fun x => { x with badTags := 0 }) else e) = e2
        intro h2
        have h3 : Touches ps d (if some h.src = e2.casc.twin then onCasc e2 (fun c => { c with partnerHeard := true, lost := false }) else e2) := by
          split
          · exact .andThen h2 (onCasc_touch _ _) (subParts_trans rfl hs)
          · exact h2
        revert h3
        generalize (if some h.src = e2.casc.twin then onCasc e2 (fun c => { c with partnerHeard := true, lost := false }) else e2) = e3
        intro h3
        have h4 : Touches ps d (if near then e3 else cascForward h k t corr pay e3) := by
          split
          · exact h3
          · exact .andThen h3 (cascForward_touch h k t corr pay e3) (subParts_trans rfl hs)
        revert h4
        generalize (if near then e3 else cascForward h k t corr pay e3) = e4
        intro h4
        split
        · exact .andThen h4 (hf _) (subParts_self _)
        · exact h4

theorem cascCtlRx_touch {ps : List Part} (hs : subParts [.out, .sys, .casc] ps = true) {f : Dev → Dev} (hf : ∀ x, Touches ps x (f x))
    (h : CascHdr) (c : CascCtl) (near : Bool) (k : OutKind) (d : Dev) : Touches ps d (cascCtlRx h c near k f d) := cascRx_touch hs hf h .control (ctlBytes c) near k h.corr d

end Sys2Proof.Machine
end

