-- ==== Sys2Proof/Laws/TouchBell.lean ====
section
/-! SUPPORT. Which parts of the device the operations of Machine/Bell.lean touch. -/

namespace Sys2Proof.Machine

set_option linter.all false
set_option Elab.async false

theorem advanceC_touch (d : Dev) (cycles : Nat) :
    Touches [.bell] d (advanceC d cycles) := by
  unfold advanceC
  repeat' first
    | with_reducible assumption
    | with_reducible exact Touches.refl
    | exact Eq.refl true
    | with_reducible refine Touches.andThen ?_ (by with_reducible exact onTime_touch ..) ?_
    | split
    | dsimp -zeta only
    | (split at ‹ite _ _ _ = (_, _)›)
    | (cases ‹(_, _) = (_, _)›)

theorem bellSnap_touch (d : Dev) :
    Touches [.bell] d (bellSnap d) := by
  unfold bellSnap
  repeat' first
    | with_reducible assumption
    | with_reducible exact Touches.refl
    | ((try lift_lets -underBinder); intro d_; refine (have hd_ : Touches [.bell] d d_ := ?_; ?_); (on_goal 1 => try dsimp only [d_]); (on_goal 2 => clear_value d_))
    | ((try lift_lets -underBinder); intro d_; try clear_value d_)
    | exact Eq.refl true
    | with_reducible refine Touches.andThen ?_ (by with_reducible exact onTime_touch ..) ?_
    | split
    | dsimp -zeta only
    | (split at ‹ite _ _ _ = (_, _)›)
    | (cases ‹(_, _) = (_, _)›)

theorem tickLoRead_touch (d : Dev) :
    Touches [.out, .bell] d (tickLoRead d) := by
  unfold tickLoRead
  repeat' first
    | with_reducible assumption
    | with_reducible exact Touches.refl
    | exact Eq.refl true
    | with_reducible refine onBell_step ?_ ?_ ?_
    | with_reducible refine Touches.andThen ?_ (by with_reducible exact emitRead_touch ..) ?_
    | exact partOr_left rfl
    | exact .inr rfl
    | exact .inr (by (repeat' split) <;> rfl)
    | split
    | dsimp -zeta only
    | (split at ‹ite _ _ _ = (_, _)›)
    | (cases ‹(_, _) = (_, _)›)

theorem advanceCrystal_touch (d : Dev) (k : Nat) :
    Touches [.bell] d (advanceCrystal d k) := by
  unfold advanceCrystal
  repeat' first
    | with_reducible assumption
    | with_reducible exact Touches.refl
    | exact Eq.refl true
    | with_reducible refine Touches.andThen ?_ (by with_reducible exact onSleep_touch ..) ?_
    | split
    | dsimp -zeta only
    | (split at ‹ite _ _ _ = (_, _)›)
    | (cases ‹(_, _) = (_, _)›)

theorem sleepCntLoRead_touch (d : Dev) :
    Touches [.out, .bell] d (sleepCntLoRead d) := by
  unfold sleepCntLoRead
  repeat' first
    | with_reducible assumption
    | with_reducible exact Touches.refl
    | exact Eq.refl true
    | with_reducible refine Touches.andThen ?_ (by with_reducible exact onSleep_touch ..) ?_
    | with_reducible refine Touches.andThen ?_ (by with_reducible exact emitRead_touch ..) ?_
    | split
    | dsimp -zeta only
    | (split at ‹ite _ _ _ = (_, _)›)
    | (cases ‹(_, _) = (_, _)›)

theorem captureStamp_touch (d : Dev) (group port tag stamp : Nat) :
    Touches [.out, .sys, .bell] d (captureStamp d group port tag stamp) := by
  unfold captureStamp
  repeat' first
    | with_reducible assumption
    | with_reducible exact Touches.refl
    | ((try lift_lets -underBinder); intro d_; refine (have hd_ : Touches [.out, .sys, .bell] d d_ := ?_; ?_); (on_goal 1 => try dsimp only [d_]); (on_goal 2 => clear_value d_))
    | ((try lift_lets -underBinder); intro d_; try clear_value d_)
    | exact Eq.refl true
    | with_reducible refine onBell_step ?_ ?_ ?_
    | with_reducible refine Touches.andThen ?_ (by with_reducible exact emit_touch ..) ?_
    | with_reducible refine Touches.andThen ?_ (by with_reducible exact raiseLeaf_touch ..) ?_
    | exact partOr_left rfl
    | exact .inr rfl
    | exact .inr (by (repeat' split) <;> rfl)
    | split
    | dsimp -zeta only
    | (split at ‹ite _ _ _ = (_, _)›)
    | (cases ‹(_, _) = (_, _)›)

theorem tsqW3Read_touch (group : Nat) (d : Dev) :
    Touches [.out, .bell] d (tsqW3Read group d) := by
  unfold tsqW3Read
  repeat' first
    | with_reducible assumption
    | with_reducible exact Touches.refl
    | ((try lift_lets -underBinder); intro d_; refine (have hd_ : Touches [.out, .bell] d d_ := ?_; ?_); (on_goal 1 => try dsimp only [d_]); (on_goal 2 => clear_value d_))
    | ((try lift_lets -underBinder); intro d_; try clear_value d_)
    | exact Eq.refl true
    | with_reducible refine onBell_step ?_ ?_ ?_
    | with_reducible refine Touches.andThen ?_ (by with_reducible exact emitRead_touch ..) ?_
    | exact partOr_left rfl
    | exact .inr rfl
    | exact .inr (by (repeat' split) <;> rfl)
    | split
    | dsimp -zeta only
    | (split at ‹ite _ _ _ = (_, _)›)
    | (cases ‹(_, _) = (_, _)›)

theorem updateErr_touch (d : Dev) :
    Touches [.bell] d (updateErr d) := by
  unfold updateErr
  repeat' first
    | with_reducible assumption
    | with_reducible exact Touches.refl
    | ((try lift_lets -underBinder); intro d_; refine (have hd_ : Touches [.bell] d d_ := ?_; ?_); (on_goal 1 => try dsimp only [d_]); (on_goal 2 => clear_value d_))
    | ((try lift_lets -underBinder); intro d_; try clear_value d_)
    | exact Eq.refl true
    | with_reducible refine Touches.andThen ?_ (by with_reducible exact onErr_touch ..) ?_
    | split
    | dsimp -zeta only
    | (split at ‹ite _ _ _ = (_, _)›)
    | (cases ‹(_, _) = (_, _)›)

theorem setLock_touch (st : LockSt) (changed : Bool) (d : Dev) :
    Touches [.out, .sys, .bell] d (setLock st changed d) := by
  unfold setLock
  repeat' first
    | with_reducible assumption
    | with_reducible exact Touches.refl
    | ((try lift_lets -underBinder); intro d_; refine (have hd_ : Touches [.out, .sys, .bell] d d_ := ?_; ?_); (on_goal 1 => try dsimp only [d_]); (on_goal 2 => clear_value d_))
    | ((try lift_lets -underBinder); intro d_; try clear_value d_)
    | exact Eq.refl true
    | with_reducible refine Touches.andThen ?_ (by with_reducible exact onSleep_touch ..) ?_
    | with_reducible refine Touches.andThen ?_ (by with_reducible exact onErr_touch ..) ?_
    | with_reducible refine Touches.andThen ?_ (by with_reducible exact onLock_touch ..) ?_
    | with_reducible refine Touches.andThen ?_ (by with_reducible exact raiseLeaf_touch ..) ?_
    | with_reducible refine Touches.andThen ?_ (by with_reducible exact updateErr_touch ..) ?_
    | split
    | dsimp -zeta only
    | (split at ‹ite _ _ _ = (_, _)›)
    | (cases ‹(_, _) = (_, _)›)

theorem referenceEvent_touch (err freq : Int) (d : Dev) :
    Touches [.freeCtr, .out, .sys, .bell] d (referenceEvent err freq d) := by
  unfold referenceEvent
  dsimp only
  repeat' first
    | with_reducible assumption
    | with_reducible exact Touches.refl
    | ((try lift_lets -underBinder); intro d_; refine (have hd_ : Touches [.freeCtr, .out, .sys, .bell] d d_ := ?_; ?_); (on_goal 1 => try dsimp only [d_]); (on_goal 2 => clear_value d_))
    | ((try lift_lets -underBinder); intro d_; try clear_value d_)
    | exact Eq.refl true
    | with_reducible refine Touches.andThen ?_ (by with_reducible exact onLock_touch ..) ?_
    | with_reducible refine Touches.andThen ?_ (by with_reducible exact onSucc_touch ..) ?_
    | with_reducible refine Touches.andThen ?_ (by with_reducible exact drawFree_touch ..) ?_
    | refine Touches.andThen ?_ (drawFree_touch' (h_ := by assumption) ..) ?_
    | with_reducible refine Touches.andThen ?_ (by with_reducible exact setLock_touch ..) ?_
    | with_reducible refine Touches.andThen ?_ (by with_reducible exact onFree_touch ..) ?_
    | split
    | dsimp -zeta only
    | (split at ‹ite _ _ _ = (_, _)›)
    | (cases ‹(_, _) = (_, _)›)

theorem referenceMissing_touch (d : Dev) :
    Touches [.out, .sys, .bell] d (referenceMissing d) := by
  unfold referenceMissing
  repeat' first
    | with_reducible assumption
    | with_reducible exact Touches.refl
    | ((try lift_lets -underBinder); intro d_; refine (have hd_ : Touches [.out, .sys, .bell] d d_ := ?_; ?_); (on_goal 1 => try dsimp only [d_]); (on_goal 2 => clear_value d_))
    | ((try lift_lets -underBinder); intro d_; try clear_value d_)
    | exact Eq.refl true
    | with_reducible refine Touches.andThen ?_ (by with_reducible exact onLock_touch ..) ?_
    | with_reducible refine Touches.andThen ?_ (by with_reducible exact onSucc_touch ..) ?_
    | with_reducible refine Touches.andThen ?_ (by with_reducible exact raiseLeaf_touch ..) ?_
    | with_reducible refine Touches.andThen ?_ (by with_reducible exact setLock_touch ..) ?_
    | split
    | dsimp -zeta only
    | (split at ‹ite _ _ _ = (_, _)›)
    | (cases ‹(_, _) = (_, _)›)

theorem setSrc_touch (src : Nat) (d : Dev) :
    Touches [.out, .sys, .bell] d (setSrc src d) := by
  unfold setSrc
  repeat' first
    | with_reducible assumption
    | with_reducible exact Touches.refl
    | ((try lift_lets -underBinder); intro d_; refine (have hd_ : Touches [.out, .sys, .bell] d d_ := ?_; ?_); (on_goal 1 => try dsimp only [d_]); (on_goal 2 => clear_value d_))
    | ((try lift_lets -underBinder); intro d_; try clear_value d_)
    | exact Eq.refl true
    | with_reducible refine Touches.andThen ?_ (by with_reducible exact onLock_touch ..) ?_
    | with_reducible refine Touches.andThen ?_ (by with_reducible exact setLock_touch ..) ?_
    | split
    | dsimp -zeta only
    | (split at ‹ite _ _ _ = (_, _)›)
    | (cases ‹(_, _) = (_, _)›)

theorem setRefSlice_touch (slice : Nat) (skew : Int) (d : Dev) :
    Touches [.out, .sys, .bell] d (setRefSlice slice skew d) := by
  unfold setRefSlice
  repeat' first
    | with_reducible assumption
    | with_reducible exact Touches.refl
    | ((try lift_lets -underBinder); intro d_; refine (have hd_ : Touches [.out, .sys, .bell] d d_ := ?_; ?_); (on_goal 1 => try dsimp only [d_]); (on_goal 2 => clear_value d_))
    | ((try lift_lets -underBinder); intro d_; try clear_value d_)
    | exact Eq.refl true
    | with_reducible refine Touches.andThen ?_ (by with_reducible exact onLock_touch ..) ?_
    | with_reducible refine Touches.andThen ?_ (by with_reducible exact setLock_touch ..) ?_
    | split
    | dsimp -zeta only
    | (split at ‹ite _ _ _ = (_, _)›)
    | (cases ‹(_, _) = (_, _)›)

theorem applyOffset_touch (v : BitVec 128) (by_ : TimeSrc) (bound : Word) (d : Dev) :
    Touches [.bell] d (applyOffset v by_ bound d) := by
  unfold applyOffset
  repeat' first
    | with_reducible assumption
    | with_reducible exact Touches.refl
    | ((try lift_lets -underBinder); intro d_; refine (have hd_ : Touches [.bell] d d_ := ?_; ?_); (on_goal 1 => try dsimp only [d_]); (on_goal 2 => clear_value d_))
    | ((try lift_lets -underBinder); intro d_; try clear_value d_)
    | exact Eq.refl true
    | with_reducible refine Touches.andThen ?_ (by with_reducible exact onTime_touch ..) ?_
    | with_reducible refine Touches.andThen ?_ (by with_reducible exact onErr_touch ..) ?_
    | with_reducible refine Touches.andThen ?_ (by with_reducible exact updateErr_touch ..) ?_
    | split
    | dsimp -zeta only
    | (split at ‹ite _ _ _ = (_, _)›)
    | (cases ‹(_, _) = (_, _)›)

theorem stageOwn_touch (d : Dev) (c : Change) :
    Touches [.sys, .staged] d (stageOwn d c) := by
  unfold stageOwn
  repeat' first
    | with_reducible assumption
    | with_reducible exact Touches.refl
    | exact Eq.refl true
    | with_reducible refine onSys_step ?_ ?_ ?_ ?_ ?_ ?_
    | exact partOr_left rfl
    | exact .inr rfl
    | exact .inr (by (repeat' split) <;> rfl)
    | split
    | dsimp -zeta only
    | (split at ‹ite _ _ _ = (_, _)›)
    | (cases ‹(_, _) = (_, _)›)

theorem headEndTime_touch (send ri raw eqd resp : Nat) (d : Dev) :
    Touches [.out, .sys, .staged, .bell] d (headEndTime send ri raw eqd resp d) := by
  unfold headEndTime
  repeat' first
    | with_reducible assumption
    | with_reducible exact Touches.refl
    | ((try lift_lets -underBinder); intro d_; refine (have hd_ : Touches [.out, .sys, .staged, .bell] d d_ := ?_; ?_); (on_goal 1 => try dsimp only [d_]); (on_goal 2 => clear_value d_))
    | ((try lift_lets -underBinder); intro d_; try clear_value d_)
    | exact Eq.refl true
    | with_reducible refine Touches.andThen ?_ (by with_reducible exact onErr_touch ..) ?_
    | with_reducible refine Touches.andThen ?_ (by with_reducible exact raiseLeaf_touch ..) ?_
    | with_reducible refine Touches.andThen ?_ (by with_reducible exact stageOwn_touch ..) ?_
    | split
    | dsimp -zeta only
    | (split at ‹ite _ _ _ = (_, _)›)
    | (cases ‹(_, _) = (_, _)›)

theorem todMessage_touch (slice send ri stamp : Nat) (d : Dev) :
    Touches [.out, .sys, .staged, .bell] d (todMessage slice send ri stamp d) := by
  unfold todMessage
  repeat' first
    | with_reducible assumption
    | with_reducible exact Touches.refl
    | ((try lift_lets -underBinder); intro d_; refine (have hd_ : Touches [.out, .sys, .staged, .bell] d d_ := ?_; ?_); (on_goal 1 => try dsimp only [d_]); (on_goal 2 => clear_value d_))
    | ((try lift_lets -underBinder); intro d_; try clear_value d_)
    | exact Eq.refl true
    | with_reducible refine Touches.andThen ?_ (by with_reducible exact onErr_touch ..) ?_
    | with_reducible refine Touches.andThen ?_ (by with_reducible exact headEndTime_touch ..) ?_
    | split
    | dsimp -zeta only
    | (split at ‹ite _ _ _ = (_, _)›)
    | (cases ‹(_, _) = (_, _)›)

theorem todRecompute_touch (d : Dev) :
    Touches [.out, .sys, .staged, .bell] d (todRecompute d) := by
  unfold todRecompute
  repeat' first
    | with_reducible assumption
    | with_reducible exact Touches.refl
    | ((try lift_lets -underBinder); intro d_; refine (have hd_ : Touches [.out, .sys, .staged, .bell] d d_ := ?_; ?_); (on_goal 1 => try dsimp only [d_]); (on_goal 2 => clear_value d_))
    | ((try lift_lets -underBinder); intro d_; try clear_value d_)
    | exact Eq.refl true
    | with_reducible refine Touches.andThen ?_ (by with_reducible exact headEndTime_touch ..) ?_
    | split
    | dsimp -zeta only
    | (split at ‹ite _ _ _ = (_, _)›)
    | (cases ‹(_, _) = (_, _)›)

theorem sleepCal_touch (d : Dev) :
    Touches [.bell] d (sleepCal d) := by
  unfold sleepCal
  repeat' first
    | with_reducible assumption
    | with_reducible exact Touches.refl
    | ((try lift_lets -underBinder); intro d_; refine (have hd_ : Touches [.bell] d d_ := ?_; ?_); (on_goal 1 => try dsimp only [d_]); (on_goal 2 => clear_value d_))
    | ((try lift_lets -underBinder); intro d_; try clear_value d_)
    | exact Eq.refl true
    | with_reducible refine Touches.andThen ?_ (by with_reducible exact onSleep_touch ..) ?_
    | split
    | dsimp -zeta only
    | (split at ‹ite _ _ _ = (_, _)›)
    | (cases ‹(_, _) = (_, _)›)

theorem bellwetherMarker_touch (d : Dev) :
    Touches [.out, .casc] d (bellwetherMarker d) := by
  unfold bellwetherMarker
  repeat' first
    | with_reducible assumption
    | with_reducible exact Touches.refl
    | ((try lift_lets -underBinder); intro d_; refine (have hd_ : Touches [.out, .casc] d d_ := ?_; ?_); (on_goal 1 => try dsimp only [d_]); (on_goal 2 => clear_value d_))
    | ((try lift_lets -underBinder); intro d_; try clear_value d_)
    | exact Eq.refl true
    | with_reducible refine Touches.andThen ?_ (by with_reducible exact broadcast_touch ..) ?_
    | split
    | dsimp -zeta only
    | (split at ‹ite _ _ _ = (_, _)›)
    | (cases ‹(_, _) = (_, _)›)

theorem followMarker_touch (port : Nat) (m : Marker) (d : Dev) :
    Touches [.bell] d (followMarker port m d) := by
  unfold followMarker
  repeat' first
    | with_reducible assumption
    | with_reducible exact Touches.refl
    | ((try lift_lets -underBinder); intro d_; refine (have hd_ : Touches [.bell] d d_ := ?_; ?_); (on_goal 1 => try dsimp only [d_]); (on_goal 2 => clear_value d_))
    | ((try lift_lets -underBinder); intro d_; try clear_value d_)
    | exact Eq.refl true
    | with_reducible refine Touches.andThen ?_ (by with_reducible exact onSucc_touch ..) ?_
    | split
    | dsimp -zeta only
    | (split at ‹ite _ _ _ = (_, _)›)
    | (cases ‹(_, _) = (_, _)›)

theorem markerRx_touch (h : CascHdr) (m : Marker) (residence : Nat) (d : Dev) :
    Touches [.out, .sys, .bell, .casc] d (markerRx h m residence d) := by
  unfold markerRx
  repeat' first
    | with_reducible assumption
    | with_reducible exact Touches.refl
    | ((try lift_lets -underBinder); intro d_; refine (have hd_ : Touches [.out, .sys, .bell, .casc] d d_ := ?_; ?_); (on_goal 1 => try dsimp only [d_]); (on_goal 2 => clear_value d_))
    | ((try lift_lets -underBinder); intro d_; try clear_value d_)
    | exact Eq.refl true
    | with_reducible refine Touches.andThen ?_ (cascRx_touch (ps := [.out, .sys, .bell, .casc]) ?_ ?_ ..) ?_
    | (intro _)
    | with_reducible refine Touches.andThen ?_ (by with_reducible exact followMarker_touch ..) ?_
    | split
    | dsimp -zeta only
    | (split at ‹ite _ _ _ = (_, _)›)
    | (cases ‹(_, _) = (_, _)›)

theorem successionClaim_touch (d : Dev) :
    Touches [.out, .bell, .casc] d (successionClaim d) := by
  unfold successionClaim
  repeat' first
    | with_reducible assumption
    | with_reducible exact Touches.refl
    | ((try lift_lets -underBinder); intro d_; refine (have hd_ : Touches [.out, .bell, .casc] d d_ := ?_; ?_); (on_goal 1 => try dsimp only [d_]); (on_goal 2 => clear_value d_))
    | ((try lift_lets -underBinder); intro d_; try clear_value d_)
    | exact Eq.refl true
    | with_reducible refine Touches.andThen ?_ (by with_reducible exact onSucc_touch ..) ?_
    | with_reducible refine Touches.andThen ?_ (by with_reducible exact bellwetherMarker_touch ..) ?_
    | split
    | dsimp -zeta only
    | (split at ‹ite _ _ _ = (_, _)›)
    | (cases ‹(_, _) = (_, _)›)

theorem setAllots_touch (allots : List Nat) (d : Dev) :
    Touches [.past] d (setAllots allots d) := by
  unfold setAllots
  repeat' first
    | with_reducible assumption
    | with_reducible exact Touches.refl
    | ((try lift_lets -underBinder); intro d_; refine (have hd_ : Touches [.past] d d_ := ?_; ?_); (on_goal 1 => try dsimp only [d_]); (on_goal 2 => clear_value d_))
    | ((try lift_lets -underBinder); intro d_; try clear_value d_)
    | with_reducible apply Touches.foldl
    | (intro _ _ _)
    | exact Eq.refl true
    | with_reducible refine Touches.andThen ?_ (by with_reducible exact onClass_touch ..) ?_
    | split
    | dsimp -zeta only
    | (split at ‹ite _ _ _ = (_, _)›)
    | (cases ‹(_, _) = (_, _)›)

theorem pastureBell_touch (d : Dev) :
    Touches [.out, .sys, .past] d (pastureBell d) := by
  unfold pastureBell
  repeat' first
    | with_reducible assumption
    | with_reducible exact Touches.refl
    | ((try lift_lets -underBinder); intro d_; refine (have hd_ : Touches [.out, .sys, .past] d d_ := ?_; ?_); (on_goal 1 => try dsimp only [d_]); (on_goal 2 => clear_value d_))
    | ((try lift_lets -underBinder); intro d_; try clear_value d_)
    | with_reducible apply Touches.foldl
    | (intro _ _ _)
    | exact Eq.refl true
    | with_reducible refine Touches.andThen ?_ (by with_reducible exact onPast_touch ..) ?_
    | with_reducible refine Touches.andThen ?_ (by with_reducible exact grantCredits_touch ..) ?_
    | with_reducible refine Touches.andThen ?_ (by with_reducible exact setAllots_touch ..) ?_
    | with_reducible refine Touches.andThen ?_ (by with_reducible exact stallClass_touch ..) ?_
    | split
    | dsimp -zeta only
    | (split at ‹ite _ _ _ = (_, _)›)
    | (cases ‹(_, _) = (_, _)›)

theorem poolHandover_touch (d : Dev) :
    Touches [.past] d (poolHandover d) := by
  unfold poolHandover
  repeat' first
    | with_reducible assumption
    | with_reducible exact Touches.refl
    | ((try lift_lets -underBinder); intro d_; refine (have hd_ : Touches [.past] d d_ := ?_; ?_); (on_goal 1 => try dsimp only [d_]); (on_goal 2 => clear_value d_))
    | ((try lift_lets -underBinder); intro d_; try clear_value d_)
    | with_reducible apply Touches.foldl
    | (intro _ _ _)
    | exact Eq.refl true
    | with_reducible refine Touches.andThen ?_ (by with_reducible exact onClass_touch ..) ?_
    | with_reducible refine Touches.andThen ?_ (by with_reducible exact onPast_touch ..) ?_
    | with_reducible refine Touches.andThen ?_ (by with_reducible exact drainPool_touch ..) ?_
    | split
    | dsimp -zeta only
    | (split at ‹ite _ _ _ = (_, _)›)
    | (cases ‹(_, _) = (_, _)›)

theorem applyPastureAllotSet_touch (allots : List Nat) (d : Dev) :
    Touches [.past] d (applyPastureAllotSet allots d) := by
  unfold applyPastureAllotSet
  repeat' first
    | with_reducible assumption
    | with_reducible exact Touches.refl
    | ((try lift_lets -underBinder); intro d_; refine (have hd_ : Touches [.past] d d_ := ?_; ?_); (on_goal 1 => try dsimp only [d_]); (on_goal 2 => clear_value d_))
    | ((try lift_lets -underBinder); intro d_; try clear_value d_)
    | exact Eq.refl true
    | with_reducible refine Touches.andThen ?_ (by with_reducible exact onPast_touch ..) ?_
    | with_reducible refine Touches.andThen ?_ (by with_reducible exact setAllots_touch ..) ?_
    | with_reducible refine Touches.andThen ?_ (by with_reducible exact grantCredits_touch ..) ?_
    | split
    | dsimp -zeta only
    | (split at ‹ite _ _ _ = (_, _)›)
    | (cases ‹(_, _) = (_, _)›)

theorem applyTimeConfig_touch (cfg : TimeCfg) (d : Dev) :
    Touches [.out, .sys, .bell] d (applyTimeConfig cfg d) := by
  unfold applyTimeConfig
  repeat' first
    | with_reducible assumption
    | with_reducible exact Touches.refl
    | ((try lift_lets -underBinder); intro d_; refine (have hd_ : Touches [.out, .sys, .bell] d d_ := ?_; ?_); (on_goal 1 => try dsimp only [d_]); (on_goal 2 => clear_value d_))
    | ((try lift_lets -underBinder); intro d_; try clear_value d_)
    | exact Eq.refl true
    | with_reducible refine Touches.andThen ?_ (by with_reducible exact onLock_touch ..) ?_
    | with_reducible refine Touches.andThen ?_ (by with_reducible exact onErr_touch ..) ?_
    | with_reducible refine Touches.andThen ?_ (by with_reducible exact onSleep_touch ..) ?_
    | with_reducible refine Touches.andThen ?_ (by with_reducible exact onSucc_touch ..) ?_
    | with_reducible refine Touches.andThen ?_ (by with_reducible exact updateErr_touch ..) ?_
    | with_reducible refine Touches.andThen ?_ (by with_reducible exact setSrc_touch ..) ?_
    | split
    | dsimp -zeta only
    | (split at ‹ite _ _ _ = (_, _)›)
    | (cases ‹(_, _) = (_, _)›)

theorem applyTimeSet_touch (offset : BitVec 128) (bound : Word) (d : Dev) :
    Touches [.bell] d (applyTimeSet offset bound d) := by
  unfold applyTimeSet
  repeat' first
    | with_reducible assumption
    | with_reducible exact Touches.refl
    | exact Eq.refl true
    | with_reducible refine Touches.andThen ?_ (by with_reducible exact applyOffset_touch ..) ?_
    | split
    | dsimp -zeta only
    | (split at ‹ite _ _ _ = (_, _)›)
    | (cases ‹(_, _) = (_, _)›)

theorem applyTimeRate_touch (rate : BitVec 32) (d : Dev) :
    Touches [.bell] d (applyTimeRate rate d) := by
  unfold applyTimeRate
  repeat' first
    | with_reducible assumption
    | with_reducible exact Touches.refl
    | exact Eq.refl true
    | with_reducible refine Touches.andThen ?_ (by with_reducible exact onTime_touch ..) ?_
    | split
    | dsimp -zeta only
    | (split at ‹ite _ _ _ = (_, _)›)
    | (cases ‹(_, _) = (_, _)›)

theorem applyTimeOffsetConfirm_touch (action : Nat) (d : Dev) :
    Touches [.bell] d (applyTimeOffsetConfirm action d) := by
  unfold applyTimeOffsetConfirm
  repeat' first
    | with_reducible assumption
    | with_reducible exact Touches.refl
    | ((try lift_lets -underBinder); intro d_; refine (have hd_ : Touches [.bell] d d_ := ?_; ?_); (on_goal 1 => try dsimp only [d_]); (on_goal 2 => clear_value d_))
    | ((try lift_lets -underBinder); intro d_; try clear_value d_)
    | exact Eq.refl true
    | with_reducible refine Touches.andThen ?_ (by with_reducible exact onErr_touch ..) ?_
    | with_reducible refine Touches.andThen ?_ (by with_reducible exact applyOffset_touch ..) ?_
    | split
    | dsimp -zeta only
    | (split at ‹ite _ _ _ = (_, _)›)
    | (cases ‹(_, _) = (_, _)›)

end Sys2Proof.Machine
end

