-- ==== Sys2Proof/Laws/TouchEcc.lean ====
section
/-! SUPPORT. Which parts of the device the operations of Machine/Ecc.lean touch. -/

namespace Sys2Proof.Machine

set_option linter.all false
set_option Elab.async false

theorem rowCandidate_touch (d : Dev) (s row : Nat) :
    Touches [.integ] d (rowCandidate d s row) := by
  unfold rowCandidate
  repeat' first
    | with_reducible assumption
    | with_reducible exact Touches.refl
    | exact Eq.refl true
    | with_reducible refine Touches.andThen ?_ (by with_reducible exact onStack_touch ..) ?_
    | split
    | dsimp -zeta only
    | (split at ‹ite _ _ _ = (_, _)›)
    | (cases ‹(_, _) = (_, _)›)

theorem rowCe_touch (d : Dev) (s row : Nat) :
    Touches [.integ] d (rowCe d s row) := by
  unfold rowCe
  repeat' first
    | with_reducible assumption
    | with_reducible exact Touches.refl
    | ((try lift_lets -underBinder); intro d_; refine (have hd_ : Touches [.integ] d d_ := ?_; ?_); (on_goal 1 => try dsimp only [d_]); (on_goal 2 => clear_value d_))
    | ((try lift_lets -underBinder); intro d_; try clear_value d_)
    | exact Eq.refl true
    | with_reducible refine Touches.andThen ?_ (by with_reducible exact onStack_touch ..) ?_
    | with_reducible refine Touches.andThen ?_ (by with_reducible exact rowCandidate_touch ..) ?_
    | split
    | dsimp -zeta only
    | (split at ‹ite _ _ _ = (_, _)›)
    | (cases ‹(_, _) = (_, _)›)

theorem eccCe_touch (d : Dev) (k addr : Nat) :
    Touches [.out, .sys, .integ] d (eccCe d k addr) := by
  unfold eccCe
  repeat' first
    | with_reducible assumption
    | with_reducible exact Touches.refl
    | ((try lift_lets -underBinder); intro d_; refine (have hd_ : Touches [.out, .sys, .integ] d d_ := ?_; ?_); (on_goal 1 => try dsimp only [d_]); (on_goal 2 => clear_value d_))
    | ((try lift_lets -underBinder); intro d_; try clear_value d_)
    | exact Eq.refl true
    | with_reducible refine Touches.andThen ?_ (by with_reducible exact onIntClass_touch ..) ?_
    | with_reducible refine Touches.andThen ?_ (by with_reducible exact onInteg_touch ..) ?_
    | with_reducible refine Touches.andThen ?_ (by with_reducible exact raiseLeaf_touch ..) ?_
    | with_reducible refine Touches.andThen ?_ (by with_reducible exact rowCe_touch ..) ?_
    | split
    | dsimp -zeta only
    | (split at ‹ite _ _ _ = (_, _)›)
    | (cases ‹(_, _) = (_, _)›)

theorem eccUe_touch (d : Dev) (k addr : Nat) :
    Touches [.out, .sys, .integ] d (eccUe d k addr) := by
  unfold eccUe
  repeat' first
    | with_reducible assumption
    | with_reducible exact Touches.refl
    | ((try lift_lets -underBinder); intro d_; refine (have hd_ : Touches [.out, .sys, .integ] d d_ := ?_; ?_); (on_goal 1 => try dsimp only [d_]); (on_goal 2 => clear_value d_))
    | ((try lift_lets -underBinder); intro d_; try clear_value d_)
    | exact Eq.refl true
    | with_reducible refine Touches.andThen ?_ (by with_reducible exact onIntClass_touch ..) ?_
    | with_reducible refine Touches.andThen ?_ (by with_reducible exact onInteg_touch ..) ?_
    | with_reducible refine Touches.andThen ?_ (by with_reducible exact raiseLeaf_touch ..) ?_
    | with_reducible refine Touches.andThen ?_ (by with_reducible exact rowCandidate_touch ..) ?_
    | split
    | dsimp -zeta only
    | (split at ‹ite _ _ _ = (_, _)›)
    | (cases ‹(_, _) = (_, _)›)

theorem eccRead_touch (d : Dev) (k addr : Nat) (find : EccFind) : Touches [.out, .sys, .integ] d (eccRead d k addr find).2 := by
  unfold eccRead
  generalize eccFinds d k addr find = x
  cases x
  · exact .refl
  · exact .mono (eccCe_touch _ _ _)
  · exact .mono (eccUe_touch _ _ _)

theorem eccRead_touch' (d : Dev) (k addr : Nat) (find : EccFind) {x0 e_} (h_ : eccRead d k addr find = (x0, e_)) : Touches [.out, .sys, .integ] d e_ := by
  have := eccRead_touch d k addr find; rw [h_] at this; exact this

theorem eccStored_touch (d : Dev) (k a n : Nat) :
    Touches [.out, .sys, .integ] d (eccStored d k a n) := by
  unfold eccStored
  repeat' first
    | with_reducible assumption
    | with_reducible exact Touches.refl
    | ((try lift_lets -underBinder); intro d_; refine (have hd_ : Touches [.out, .sys, .integ] d d_ := ?_; ?_); (on_goal 1 => try dsimp only [d_]); (on_goal 2 => clear_value d_))
    | ((try lift_lets -underBinder); intro d_; try clear_value d_)
    | exact Eq.refl true
    | with_reducible refine Touches.andThen ?_ (by with_reducible exact onInteg_touch ..) ?_
    | with_reducible refine Touches.andThen ?_ (by with_reducible exact onIntClass_touch ..) ?_
    | with_reducible refine Touches.andThen ?_ (by with_reducible exact raiseLeaf_touch ..) ?_
    | split
    | dsimp -zeta only
    | (split at ‹ite _ _ _ = (_, _)›)
    | (cases ‹(_, _) = (_, _)›)

theorem eccWrite_touch (d : Dev) (k addr : Nat) :
    Touches [.out, .sys, .integ] d (eccWrite d k addr) := by
  unfold eccWrite
  repeat' first
    | with_reducible assumption
    | with_reducible exact Touches.refl
    | ((try lift_lets -underBinder); intro d_; refine (have hd_ : Touches [.out, .sys, .integ] d d_ := ?_; ?_); (on_goal 1 => try dsimp only [d_]); (on_goal 2 => clear_value d_))
    | ((try lift_lets -underBinder); intro d_; try clear_value d_)
    | exact Eq.refl true
    | with_reducible refine Touches.andThen ?_ (by with_reducible exact eccStored_touch ..) ?_
    | split
    | dsimp -zeta only
    | (split at ‹ite _ _ _ = (_, _)›)
    | (cases ‹(_, _) = (_, _)›)

theorem pastWritten_touch (d : Dev) (a n : Nat) :
    Touches [.out, .sys, .integ] d (pastWritten d a n) := by
  unfold pastWritten
  repeat' first
    | with_reducible assumption
    | with_reducible exact Touches.refl
    | ((try lift_lets -underBinder); intro d_; refine (have hd_ : Touches [.out, .sys, .integ] d d_ := ?_; ?_); (on_goal 1 => try dsimp only [d_]); (on_goal 2 => clear_value d_))
    | ((try lift_lets -underBinder); intro d_; try clear_value d_)
    | exact Eq.refl true
    | with_reducible refine Touches.andThen ?_ (by with_reducible exact eccStored_touch ..) ?_
    | split
    | dsimp -zeta only
    | (split at ‹ite _ _ _ = (_, _)›)
    | (cases ‹(_, _) = (_, _)›)

theorem pastRead_touch (d : Dev) (a n : Nat) : Touches [.out, .sys, .integ] d (pastRead d a n).2 := by
  unfold pastRead
  generalize touchedWords a n = l
  suffices h : ∀ r : Option Nat × Dev, Touches [.out, .sys, .integ] d r.2 → Touches [.out, .sys, .integ] d (l.foldl (fun r w => match r.1 with
    | some _ => r
    | none => match eccRead r.2 (pastMemClass w) w .clean with
      | (.uncorrectable, e) => (some w, e)
      | (_, e) => (none, e)) r).2 by exact h _ .refl
  induction l with
  | nil => exact fun r h => h
  | cons w t ih =>
    intro r h
    refine ih _ ?_
    dsimp only
    split
    · exact h
    · have k := eccRead_touch r.2 (pastMemClass w) w .clean
      rcases he : eccRead r.2 (pastMemClass w) w .clean with ⟨x, e⟩
      rw [he] at k
      cases x <;> exact .andThen h k

theorem pastRead_touch' (d : Dev) (a n : Nat) {x0 e_} (h_ : pastRead d a n = (x0, e_)) : Touches [.out, .sys, .integ] d e_ := by
  have := pastRead_touch d a n; rw [h_] at this; exact this

end Sys2Proof.Machine
end

