-- ==== Sys2Proof/Laws/TouchMailbox.lean ====
section
/-! SUPPORT. Which parts of the device the operations of Machine/Mailbox.lean touch. -/

namespace Sys2Proof.Machine

set_option linter.all false
set_option Elab.async false

theorem localStored_touch (d : Dev) (e a n : Nat) :
    Touches [.out, .sys, .integ] d (localStored d e a n) := by
  unfold localStored
  repeat' first
    | with_reducible assumption
    | with_reducible exact Touches.refl
    | ((try lift_lets -underBinder); intro d_; refine (have hd_ : Touches [.out, .sys, .integ] d d_ := ?_; ?_); (on_goal 1 => try dsimp only [d_]); (on_goal 2 => clear_value d_))
    | ((try lift_lets -underBinder); intro d_; try clear_value d_)
    | exact Eq.refl true
    | with_reducible refine Touches.andThen ?_ (by with_reducible exact eccStored_touch ..) ?_
    | split
    | dsimp -zeta only
    | (split at ‹ite _ _ _ = (_, _)›)
    | (cases ‹(_, _) = (_, _)›)

theorem mailboxPut_touch (d : Dev) (e tag handle stamp cls flags : Nat) (data : List Byte) :
    Touches [.out, .sys, .flock, .integ] d (mailboxPut d e tag handle stamp cls flags data) := by
  unfold mailboxPut
  repeat' first
    | with_reducible assumption
    | with_reducible exact Touches.refl
    | ((try lift_lets -underBinder); intro d_; refine (have hd_ : Touches [.out, .sys, .flock, .integ] d d_ := ?_; ?_); (on_goal 1 => try dsimp only [d_]); (on_goal 2 => clear_value d_))
    | ((try lift_lets -underBinder); intro d_; try clear_value d_)
    | exact Eq.refl true
    | split
    | with_reducible refine Touches.andThen ?_ (by with_reducible exact onEng_touch ..) ?_
    | with_reducible refine Touches.andThen ?_ (by with_reducible exact emit_touch ..) ?_
    | with_reducible refine Touches.andThen ?_ (by with_reducible exact raiseLeaf_touch ..) ?_
    | with_reducible refine Touches.andThen ?_ (by with_reducible exact localStored_touch ..) ?_
    | split
    | dsimp -zeta only
    | (split at ‹ite _ _ _ = (_, _)›)
    | (cases ‹(_, _) = (_, _)›)

theorem mailboxPop_touch (d : Dev) (e : Nat) :
    Touches [.out, .sys, .flock, .integ] d (mailboxPop d e) := by
  unfold mailboxPop
  repeat' first
    | with_reducible assumption
    | with_reducible exact Touches.refl
    | ((try lift_lets -underBinder); intro d_; refine (have hd_ : Touches [.out, .sys, .flock, .integ] d d_ := ?_; ?_); (on_goal 1 => try dsimp only [d_]); (on_goal 2 => clear_value d_))
    | ((try lift_lets -underBinder); intro d_; try clear_value d_)
    | exact Eq.refl true
    | with_reducible refine Touches.andThen ?_ (by with_reducible exact onEng_touch ..) ?_
    | with_reducible refine Touches.andThen ?_ (by with_reducible exact localStored_touch ..) ?_
    | split
    | dsimp -zeta only
    | (split at ‹ite _ _ _ = (_, _)›)
    | (cases ‹(_, _) = (_, _)›)

end Sys2Proof.Machine
end

