-- ==== Sys2Proof/Laws/TouchFold.lean ====
section
/-! SUPPORT. Which parts of the device the operations of Machine/Fold.lean touch. -/

namespace Sys2Proof.Machine

set_option linter.all false
set_option Elab.async false

theorem presencePress_touch (d : Dev) :
    Touches [.out, .sys, .fold] d (presencePress d) := by
  unfold presencePress
  repeat' first
    | with_reducible assumption
    | with_reducible exact Touches.refl
    | ((try lift_lets -underBinder); intro d_; refine (have hd_ : Touches [.out, .sys, .fold] d d_ := ?_; ?_); (on_goal 1 => try dsimp only [d_]); (on_goal 2 => clear_value d_))
    | ((try lift_lets -underBinder); intro d_; try clear_value d_)
    | exact Eq.refl true
    | with_reducible refine Touches.andThen ?_ (by with_reducible exact onGuard_touch ..) ?_
    | with_reducible refine Touches.andThen ?_ (by with_reducible exact raiseIf_touch ..) ?_
    | split
    | dsimp -zeta only
    | (split at ‹ite _ _ _ = (_, _)›)
    | (cases ‹(_, _) = (_, _)›)

theorem otpBegin_touch (d : Dev) (slot : Nat) (f : OtpFields) (x : ReplyCtx) :
    Touches [.fold, .otp] d (otpBegin d slot f x) := by
  unfold otpBegin
  repeat' first
    | with_reducible assumption
    | with_reducible exact Touches.refl
    | exact Eq.refl true
    | with_reducible refine Touches.andThen ?_ (by with_reducible exact onOtp_touch ..) ?_
    | split
    | dsimp -zeta only
    | (split at ‹ite _ _ _ = (_, _)›)
    | (cases ‹(_, _) = (_, _)›)

theorem importFail_touch (d : Dev) :
    Touches [.out, .sys, .fold] d (importFail d) := by
  unfold importFail
  repeat' first
    | with_reducible assumption
    | with_reducible exact Touches.refl
    | exact Eq.refl true
    | with_reducible refine onFold_step ?_ ?_ ?_ ?_
    | with_reducible refine Touches.andThen ?_ (by with_reducible exact raiseLeaf_touch ..) ?_
    | exact partOr_left rfl
    | exact .inr rfl
    | exact .inr (by (repeat' split) <;> rfl)
    | split
    | dsimp -zeta only
    | (split at ‹ite _ _ _ = (_, _)›)
    | (cases ‹(_, _) = (_, _)›)

theorem saBind_touch (d : Dev) (h : Nat) :
    Touches [.fold] d (saBind d h) := by
  unfold saBind
  repeat' first
    | with_reducible assumption
    | with_reducible exact Touches.refl
    | exact Eq.refl true
    | with_reducible refine Touches.andThen ?_ (by with_reducible exact onSa_touch ..) ?_
    | split
    | dsimp -zeta only
    | (split at ‹ite _ _ _ = (_, _)›)
    | (cases ‹(_, _) = (_, _)›)

theorem saUnbind_touch (d : Dev) (h : Nat) :
    Touches [.fold] d (saUnbind d h) := by
  unfold saUnbind
  repeat' first
    | with_reducible assumption
    | with_reducible exact Touches.refl
    | exact Eq.refl true
    | with_reducible refine Touches.andThen ?_ (by with_reducible exact onSa_touch ..) ?_
    | split
    | dsimp -zeta only
    | (split at ‹ite _ _ _ = (_, _)›)
    | (cases ‹(_, _) = (_, _)›)

theorem saUse_touch (d : Dev) (h : Nat) (ctrl : Bool) (bytes : Nat) :
    Touches [.fold] d (saUse d h ctrl bytes).2.2.2 := by
  unfold saUse
  repeat' first
    | with_reducible assumption
    | with_reducible exact Touches.refl
    | ((try lift_lets -underBinder); intro d_; refine (have hd_ : Touches [.fold] d d_ := ?_; ?_); (on_goal 1 => try dsimp only [d_]); (on_goal 2 => clear_value d_))
    | ((try lift_lets -underBinder); intro d_; try clear_value d_)
    | exact Eq.refl true
    | with_reducible refine Touches.andThen ?_ (by with_reducible exact onSa_touch ..) ?_
    | split
    | dsimp -zeta only
    | (split at ‹ite _ _ _ = (_, _)›)
    | (cases ‹(_, _) = (_, _)›)

theorem saUse_touch' (d : Dev) (h : Nat) (ctrl : Bool) (bytes : Nat) {x0 x1 x2 e_} (h_ : saUse d h ctrl bytes = (x0, x1, x2, e_)) : Touches [.fold] d e_ := by
  have := saUse_touch d h ctrl bytes; rw [h_] at this; exact this

theorem retireGem_touch (d : Dev) : Touches [.acc] d (retireGem d) := setAcc_touch .refl

end Sys2Proof.Machine
end

