-- ==== Sys2Proof/Laws/TouchRtp.lean ====
section
/-! SUPPORT. Which parts of the device the operations of Machine/Rtp.lean touch. -/

namespace Sys2Proof.Machine

set_option linter.all false
set_option Elab.async false

theorem legCount_touch (d : Dev) (leg i n : Nat) :
    Touches [.media] d (legCount d leg i n) := by
  unfold legCount
  repeat' first
    | with_reducible assumption
    | with_reducible exact Touches.refl
    | exact Eq.refl true
    | with_reducible refine Touches.andThen ?_ (by with_reducible exact onLeg_touch ..) ?_
    | split
    | dsimp -zeta only
    | (split at ‹ite _ _ _ = (_, _)›)
    | (cases ‹(_, _) = (_, _)›)

theorem statusStore_touch (d : Dev) (home a : Nat) (bs : List Byte) :
    Touches [.out, .memOut, .sys, .past] d (statusStore d home a bs) := by
  unfold statusStore
  repeat' first
    | with_reducible assumption
    | with_reducible exact Touches.refl
    | ((try lift_lets -underBinder); intro d_; refine (have hd_ : Touches [.out, .memOut, .sys, .past] d d_ := ?_; ?_); (on_goal 1 => try dsimp only [d_]); (on_goal 2 => clear_value d_))
    | ((try lift_lets -underBinder); intro d_; try clear_value d_)
    | exact Eq.refl true
    | with_reducible refine Touches.andThen ?_ (by with_reducible exact postMem_touch ..) ?_
    | with_reducible refine Touches.andThen ?_ (by with_reducible exact chargeClass_touch ..) ?_
    | split
    | dsimp -zeta only
    | (split at ‹ite _ _ _ = (_, _)›)
    | (cases ‹(_, _) = (_, _)›)

theorem writeStatus_touch (d : Dev) (n : Nat) :
    Touches [.out, .memOut, .sys, .past, .media] d (writeStatus d n) := by
  unfold writeStatus
  repeat' first
    | with_reducible assumption
    | with_reducible exact Touches.refl
    | ((try lift_lets -underBinder); intro d_; refine (have hd_ : Touches [.out, .memOut, .sys, .past, .media] d d_ := ?_; ?_); (on_goal 1 => try dsimp only [d_]); (on_goal 2 => clear_value d_))
    | ((try lift_lets -underBinder); intro d_; try clear_value d_)
    | exact Eq.refl true
    | with_reducible refine Touches.andThen ?_ (by with_reducible exact onLeg_touch ..) ?_
    | with_reducible refine Touches.andThen ?_ (by with_reducible exact statusStore_touch ..) ?_
    | split
    | dsimp -zeta only
    | (split at ‹ite _ _ _ = (_, _)›)
    | (cases ‹(_, _) = (_, _)›)

theorem setLegSt_touch (d : Dev) (n : Nat) (s : LegSt) :
    Touches [.out, .memOut, .sys, .past, .media] d (setLegSt d n s) := by
  unfold setLegSt
  repeat' first
    | with_reducible assumption
    | with_reducible exact Touches.refl
    | exact Eq.refl true
    | with_reducible refine Touches.andThen ?_ (by with_reducible exact onLeg_touch ..) ?_
    | with_reducible refine Touches.andThen ?_ (by with_reducible exact writeStatus_touch ..) ?_
    | split
    | dsimp -zeta only
    | (split at ‹ite _ _ _ = (_, _)›)
    | (cases ‹(_, _) = (_, _)›)

theorem legUse_touch (d : Dev) (n h : Nat) (inbound ctrl : Bool) (bytes : Nat) :
    Touches [.out, .sys, .fold, .media] d (legUse d n h inbound ctrl bytes).2 := by
  unfold legUse
  repeat' first
    | with_reducible assumption
    | with_reducible exact Touches.refl
    | ((try lift_lets -underBinder); intro d_; refine (have hd_ : Touches [.out, .sys, .fold, .media] d d_ := ?_; ?_); (on_goal 1 => try dsimp only [d_]); (on_goal 2 => clear_value d_))
    | ((try lift_lets -underBinder); intro d_; try clear_value d_)
    | exact Eq.refl true
    | with_reducible refine Touches.andThen ?_ (by with_reducible exact onLeg_touch ..) ?_
    | refine Touches.andThen ?_ (saUse_touch' (h_ := by assumption) ..) ?_
    | with_reducible refine Touches.andThen ?_ (by with_reducible exact legEvent_touch ..) ?_
    | split
    | dsimp -zeta only
    | (split at ‹ite _ _ _ = (_, _)›)
    | (cases ‹(_, _) = (_, _)›)

theorem legUse_touch' (d : Dev) (n h : Nat) (inbound ctrl : Bool) (bytes : Nat) {x0 e_} (h_ : legUse d n h inbound ctrl bytes = (x0, e_)) : Touches [.out, .sys, .fold, .media] d e_ := by
  have := legUse_touch d n h inbound ctrl bytes; rw [h_] at this; exact this

theorem legKeySweep_touch (d : Dev) (n : Nat) :
    Touches [.media] d (legKeySweep d n) := by
  unfold legKeySweep
  repeat' first
    | with_reducible assumption
    | with_reducible exact Touches.refl
    | ((try lift_lets -underBinder); intro d_; refine (have hd_ : Touches [.media] d d_ := ?_; ?_); (on_goal 1 => try dsimp only [d_]); (on_goal 2 => clear_value d_))
    | ((try lift_lets -underBinder); intro d_; try clear_value d_)
    | exact Eq.refl true
    | with_reducible refine Touches.andThen ?_ (by with_reducible exact onLeg_touch ..) ?_
    | split
    | dsimp -zeta only
    | (split at ‹ite _ _ _ = (_, _)›)
    | (cases ‹(_, _) = (_, _)›)

theorem legEnqueue_touch (d : Dev) (n : Nat) (l : Leg) (video : Bool) (len : Nat) :
    Touches [.out, .sys, .past, .tm] d (legEnqueue d n l video len) := by
  unfold legEnqueue
  repeat' first
    | with_reducible assumption
    | with_reducible exact Touches.refl
    | ((try lift_lets -underBinder); intro d_; refine (have hd_ : Touches [.out, .sys, .past, .tm] d d_ := ?_; ?_); (on_goal 1 => try dsimp only [d_]); (on_goal 2 => clear_value d_))
    | ((try lift_lets -underBinder); intro d_; try clear_value d_)
    | exact Eq.refl true
    | with_reducible refine Touches.andThen ?_ (by with_reducible exact tmAdmit_touch ..) ?_
    | split
    | dsimp -zeta only
    | (split at ‹ite _ _ _ = (_, _)›)
    | (cases ‹(_, _) = (_, _)›)

theorem legSend_touch (d : Dev) (k : OutKind) (vals : List Int) (n : Nat) (l : Leg) (video : Bool) (len : Nat) :
    Touches [.out, .sys, .past, .tm] d (legSend d k vals n l video len) := by
  unfold legSend
  repeat' first
    | with_reducible assumption
    | with_reducible exact Touches.refl
    | exact Eq.refl true
    | with_reducible refine Touches.andThen ?_ (by with_reducible exact emit_touch ..) ?_
    | with_reducible refine Touches.andThen ?_ (by with_reducible exact legEnqueue_touch ..) ?_
    | split
    | dsimp -zeta only
    | (split at ‹ite _ _ _ = (_, _)›)
    | (cases ‹(_, _) = (_, _)›)

theorem nextIdx_touch (d : Dev) (l : Leg) (ssrc : Nat) :
    Touches [.freeCtr] d (nextIdx d l ssrc).2 := by
  unfold nextIdx
  repeat' first
    | with_reducible assumption
    | with_reducible exact Touches.refl
    | ((try lift_lets -underBinder); intro d_; refine (have hd_ : Touches [.freeCtr] d d_ := ?_; ?_); (on_goal 1 => try dsimp only [d_]); (on_goal 2 => clear_value d_))
    | ((try lift_lets -underBinder); intro d_; try clear_value d_)
    | exact Eq.refl true
    | with_reducible refine Touches.andThen ?_ (by with_reducible exact drawFree_touch ..) ?_
    | split
    | dsimp -zeta only
    | (split at ‹ite _ _ _ = (_, _)›)
    | (cases ‹(_, _) = (_, _)›)

theorem nextIdx_touch' (d : Dev) (l : Leg) (ssrc : Nat) {x0 e_} (h_ : nextIdx d l ssrc = (x0, e_)) : Touches [.freeCtr] d e_ := by
  have := nextIdx_touch d l ssrc; rw [h_] at this; exact this

theorem txNote_touch (d : Dev) (n ssrc i bytes : Nat) (again : Bool) :
    Touches [.media] d (txNote d n ssrc i bytes again) := by
  unfold txNote
  repeat' first
    | with_reducible assumption
    | with_reducible exact Touches.refl
    | ((try lift_lets -underBinder); intro d_; refine (have hd_ : Touches [.media] d d_ := ?_; ?_); (on_goal 1 => try dsimp only [d_]); (on_goal 2 => clear_value d_))
    | ((try lift_lets -underBinder); intro d_; try clear_value d_)
    | exact Eq.refl true
    | with_reducible refine Touches.andThen ?_ (by with_reducible exact onLeg_touch ..) ?_
    | split
    | dsimp -zeta only
    | (split at ‹ite _ _ _ = (_, _)›)
    | (cases ‹(_, _) = (_, _)›)

theorem sendRtp_touch (d : Dev) (n : Nat) (video : Bool) (ssrc : Nat) (h : RtpHdr) :
    Touches [.freeCtr, .out, .sys, .past, .fold, .tm, .media] d (sendRtp d n video ssrc h) := by
  unfold sendRtp
  dsimp only
  repeat' first
    | with_reducible assumption
    | with_reducible exact Touches.refl
    | ((try lift_lets -underBinder); intro d_; refine (have hd_ : Touches [.freeCtr, .out, .sys, .past, .fold, .tm, .media] d d_ := ?_; ?_); (on_goal 1 => try dsimp only [d_]); (on_goal 2 => clear_value d_))
    | ((try lift_lets -underBinder); intro d_; try clear_value d_)
    | exact Eq.refl true
    | with_reducible refine Touches.andThen ?_ (by with_reducible exact onLeg_touch ..) ?_
    | with_reducible refine Touches.andThen ?_ (by with_reducible exact onSa_touch ..) ?_
    | with_reducible refine Touches.andThen ?_ (by with_reducible exact nextIdx_touch ..) ?_
    | refine Touches.andThen ?_ (nextIdx_touch' (h_ := by assumption) ..) ?_
    | with_reducible refine Touches.andThen ?_ (by with_reducible exact legUse_touch ..) ?_
    | refine Touches.andThen ?_ (legUse_touch' (h_ := by assumption) ..) ?_
    | with_reducible refine Touches.andThen ?_ (by with_reducible exact legCount_touch ..) ?_
    | with_reducible refine Touches.andThen ?_ (by with_reducible exact legSend_touch ..) ?_
    | with_reducible refine Touches.andThen ?_ (by with_reducible exact txNote_touch ..) ?_
    | with_reducible refine Touches.andThen ?_ (by with_reducible exact drawFree_touch ..) ?_
    | refine Touches.andThen ?_ (drawFree_touch' (h_ := by assumption) ..) ?_
    | with_reducible refine Touches.andThen ?_ (by with_reducible exact saUse_touch ..) ?_
    | refine Touches.andThen ?_ (saUse_touch' (h_ := by assumption) ..) ?_
    | with_reducible refine Touches.andThen ?_ (by with_reducible exact legEvent_touch ..) ?_
    | split
    | dsimp -zeta only
    | (split at ‹ite _ _ _ = (_, _)›)
    | (cases ‹(_, _) = (_, _)›)

theorem sendAudio_touch (d : Dev) (n size : Nat) :
    Touches [.freeCtr, .out, .sys, .past, .fold, .tm, .media] d (sendAudio d n size) := by
  unfold sendAudio
  repeat' first
    | with_reducible assumption
    | with_reducible exact Touches.refl
    | ((try lift_lets -underBinder); intro d_; refine (have hd_ : Touches [.freeCtr, .out, .sys, .past, .fold, .tm, .media] d d_ := ?_; ?_); (on_goal 1 => try dsimp only [d_]); (on_goal 2 => clear_value d_))
    | ((try lift_lets -underBinder); intro d_; try clear_value d_)
    | exact Eq.refl true
    | with_reducible refine Touches.andThen ?_ (by with_reducible exact onLeg_touch ..) ?_
    | with_reducible refine Touches.andThen ?_ (by with_reducible exact drawFree_touch ..) ?_
    | refine Touches.andThen ?_ (drawFree_touch' (h_ := by assumption) ..) ?_
    | with_reducible refine Touches.andThen ?_ (by with_reducible exact sendRtp_touch ..) ?_
    | with_reducible refine Touches.andThen ?_ (by with_reducible exact onFree_touch ..) ?_
    | split
    | dsimp -zeta only
    | (split at ‹ite _ _ _ = (_, _)›)
    | (cases ‹(_, _) = (_, _)›)

theorem sendRtcp_touch (d : Dev) (n : Nat) (vals : List Int) (size : Nat) :
    Touches [.out, .sys, .past, .fold, .tm, .media] d (sendRtcp d n vals size) := by
  unfold sendRtcp
  dsimp only
  repeat' first
    | with_reducible assumption
    | with_reducible exact Touches.refl
    | ((try lift_lets -underBinder); intro d_; refine (have hd_ : Touches [.out, .sys, .past, .fold, .tm, .media] d d_ := ?_; ?_); (on_goal 1 => try dsimp only [d_]); (on_goal 2 => clear_value d_))
    | ((try lift_lets -underBinder); intro d_; try clear_value d_)
    | exact Eq.refl true
    | with_reducible refine Touches.andThen ?_ (by with_reducible exact legUse_touch ..) ?_
    | with_reducible refine Touches.andThen ?_ (by with_reducible exact legSend_touch ..) ?_
    | split
    | dsimp -zeta only
    | (split at ‹ite _ _ _ = (_, _)›)
    | (cases ‹(_, _) = (_, _)›)

theorem requestPli_touch (d : Dev) (n : Nat) :
    Touches [.out, .sys, .past, .fold, .tm, .media] d (requestPli d n) := by
  unfold requestPli
  repeat' first
    | with_reducible assumption
    | with_reducible exact Touches.refl
    | ((try lift_lets -underBinder); intro d_; refine (have hd_ : Touches [.out, .sys, .past, .fold, .tm, .media] d d_ := ?_; ?_); (on_goal 1 => try dsimp only [d_]); (on_goal 2 => clear_value d_))
    | ((try lift_lets -underBinder); intro d_; try clear_value d_)
    | exact Eq.refl true
    | with_reducible refine Touches.andThen ?_ (by with_reducible exact onLeg_touch ..) ?_
    | with_reducible refine Touches.andThen ?_ (by with_reducible exact legCount_touch ..) ?_
    | with_reducible refine Touches.andThen ?_ (by with_reducible exact sendRtcp_touch ..) ?_
    | split
    | dsimp -zeta only
    | (split at ‹ite _ _ _ = (_, _)›)
    | (cases ‹(_, _) = (_, _)›)

theorem hostDeliver_touch (d : Dev) (port leg : Nat) (vals : List Nat) :
    Touches [.out, .sys, .rings] d (hostDeliver d port leg vals) := by
  unfold hostDeliver
  repeat' first
    | with_reducible assumption
    | with_reducible exact Touches.refl
    | exact Eq.refl true
    | with_reducible refine onSys_step ?_ ?_ ?_ ?_ ?_ ?_
    | with_reducible refine Touches.andThen ?_ (by with_reducible exact cqPost_touch ..) ?_
    | exact partOr_left rfl
    | exact .inr rfl
    | exact .inr (by (repeat' split) <;> rfl)
    | split
    | dsimp -zeta only
    | (split at ‹ite _ _ _ = (_, _)›)
    | (cases ‹(_, _) = (_, _)›)

end Sys2Proof.Machine
end

