-- ==== Sys2Proof/Laws/TouchEngine.lean ====
section
/-! SUPPORT. Which parts of the device the operations of Machine/Engine.lean touch. -/

namespace Sys2Proof.Machine

set_option linter.all false
set_option Elab.async false

theorem loseLegsOf_touch (d : Dev) (e : Nat) :
    Touches [.out, .memOut, .sys, .past, .media] d (loseLegsOf d e) := by
  unfold loseLegsOf
  repeat' first
    | with_reducible assumption
    | with_reducible exact Touches.refl
    | ((try lift_lets -underBinder); intro d_; refine (have hd_ : Touches [.out, .memOut, .sys, .past, .media] d d_ := ?_; ?_); (on_goal 1 => try dsimp only [d_]); (on_goal 2 => clear_value d_))
    | ((try lift_lets -underBinder); intro d_; try clear_value d_)
    | with_reducible apply Touches.foldl
    | (intro _ _ _)
    | exact Eq.refl true
    | with_reducible refine Touches.andThen ?_ (by with_reducible exact legEvent_touch ..) ?_
    | with_reducible refine Touches.andThen ?_ (by with_reducible exact setLegSt_touch ..) ?_
    | split
    | dsimp -zeta only
    | (split at ‹ite _ _ _ = (_, _)›)
    | (cases ‹(_, _) = (_, _)›)

theorem suspendTask_touch (d : Dev) (e t : Nat) :
    Touches [.out, .memOut, .sys, .past, .flock, .media] d (suspendTask d e t) := by
  unfold suspendTask
  repeat' first
    | with_reducible assumption
    | with_reducible exact Touches.refl
    | ((try lift_lets -underBinder); intro d_; refine (have hd_ : Touches [.out, .memOut, .sys, .past, .flock, .media] d d_ := ?_; ?_); (on_goal 1 => try dsimp only [d_]); (on_goal 2 => clear_value d_))
    | ((try lift_lets -underBinder); intro d_; try clear_value d_)
    | exact Eq.refl true
    | with_reducible refine Touches.andThen ?_ (by with_reducible exact onEng_touch ..) ?_
    | with_reducible refine Touches.andThen ?_ (by with_reducible exact raiseLeaf_touch ..) ?_
    | with_reducible refine Touches.andThen ?_ (by with_reducible exact loseLegsOf_touch ..) ?_
    | split
    | dsimp -zeta only
    | (split at ‹ite _ _ _ = (_, _)›)
    | (cases ‹(_, _) = (_, _)›)

theorem chargeFault_touch (d : Dev) (e : Nat) :
    Touches [.out, .memOut, .sys, .past, .flock, .media] d (chargeFault d e) := by
  unfold chargeFault
  repeat' first
    | with_reducible assumption
    | with_reducible exact Touches.refl
    | ((try lift_lets -underBinder); intro d_; refine (have hd_ : Touches [.out, .memOut, .sys, .past, .flock, .media] d d_ := ?_; ?_); (on_goal 1 => try dsimp only [d_]); (on_goal 2 => clear_value d_))
    | ((try lift_lets -underBinder); intro d_; try clear_value d_)
    | exact Eq.refl true
    | with_reducible refine Touches.andThen ?_ (by with_reducible exact onEng_touch ..) ?_
    | with_reducible refine Touches.andThen ?_ (by with_reducible exact suspendTask_touch ..) ?_
    | split
    | dsimp -zeta only
    | (split at ‹ite _ _ _ = (_, _)›)
    | (cases ‹(_, _) = (_, _)›)

theorem faultTask_touch (d : Dev) (r : Running) :
    Touches [.freeCtr] d (faultTask d r).2 := by
  unfold faultTask
  repeat' first
    | with_reducible assumption
    | with_reducible exact Touches.refl
    | ((try lift_lets -underBinder); intro d_; refine (have hd_ : Touches [.freeCtr] d d_ := ?_; ?_); (on_goal 1 => try dsimp only [d_]); (on_goal 2 => clear_value d_))
    | ((try lift_lets -underBinder); intro d_; try clear_value d_)
    | exact Eq.refl true
    | with_reducible refine Touches.andThen ?_ (by with_reducible exact drawFree_touch ..) ?_
    | refine Touches.andThen ?_ (drawFree_touch' (h_ := by assumption) ..) ?_
    | with_reducible refine Touches.andThen ?_ (by with_reducible exact onFree_touch ..) ?_
    | split
    | dsimp -zeta only
    | (split at ‹ite _ _ _ = (_, _)›)
    | (cases ‹(_, _) = (_, _)›)

theorem faultTask_touch' (d : Dev) (r : Running) {x0 e_} (h_ : faultTask d r = (x0, e_)) : Touches [.freeCtr] d e_ := by
  have := faultTask_touch d r; rw [h_] at this; exact this

theorem programFault_touch (d : Dev) (e kind : Nat) :
    Touches [.freeCtr, .out, .memOut, .sys, .past, .flock, .media] d (programFault d e kind) := by
  unfold programFault
  repeat' first
    | with_reducible assumption
    | with_reducible exact Touches.refl
    | ((try lift_lets -underBinder); intro d_; refine (have hd_ : Touches [.freeCtr, .out, .memOut, .sys, .past, .flock, .media] d d_ := ?_; ?_); (on_goal 1 => try dsimp only [d_]); (on_goal 2 => clear_value d_))
    | ((try lift_lets -underBinder); intro d_; try clear_value d_)
    | exact Eq.refl true
    | with_reducible refine Touches.andThen ?_ (by with_reducible exact onCore_touch ..) ?_
    | with_reducible refine Touches.andThen ?_ (by with_reducible exact onEng_touch ..) ?_
    | with_reducible refine Touches.andThen ?_ (by with_reducible exact faultTask_touch ..) ?_
    | refine Touches.andThen ?_ (faultTask_touch' (h_ := by assumption) ..) ?_
    | with_reducible refine Touches.andThen ?_ (by with_reducible exact chargeFault_touch ..) ?_
    | with_reducible refine Touches.andThen ?_ (by with_reducible exact raiseLeaf_touch ..) ?_
    | with_reducible refine Touches.andThen ?_ (by with_reducible exact drawFree_touch ..) ?_
    | refine Touches.andThen ?_ (drawFree_touch' (h_ := by assumption) ..) ?_
    | split
    | dsimp -zeta only
    | (split at ‹ite _ _ _ = (_, _)›)
    | (cases ‹(_, _) = (_, _)›)

theorem storeSeen_touch (d : Dev) (e : Nat) (bs : List (Nat × Byte)) :
    Touches [.out, .sys, .integ] d (storeSeen d e bs) := by
  unfold storeSeen
  repeat' first
    | with_reducible assumption
    | with_reducible exact Touches.refl
    | ((try lift_lets -underBinder); intro d_; refine (have hd_ : Touches [.out, .sys, .integ] d d_ := ?_; ?_); (on_goal 1 => try dsimp only [d_]); (on_goal 2 => clear_value d_))
    | ((try lift_lets -underBinder); intro d_; try clear_value d_)
    | with_reducible apply Touches.foldl
    | (intro _ _ _)
    | exact Eq.refl true
    | with_reducible refine Touches.andThen ?_ (by with_reducible exact localStored_touch ..) ?_
    | split
    | dsimp -zeta only
    | (split at ‹ite _ _ _ = (_, _)›)
    | (cases ‹(_, _) = (_, _)›)

theorem engCycle_touch (d : Dev) (e : Nat) :
    Touches [.freeCtr, .out, .memOut, .sys, .past, .flock, .media, .integ] d (engCycle d e) := by
  unfold engCycle
  repeat' first
    | with_reducible assumption
    | with_reducible exact Touches.refl
    | ((try lift_lets -underBinder); intro d_; refine (have hd_ : Touches [.freeCtr, .out, .memOut, .sys, .past, .flock, .media, .integ] d d_ := ?_; ?_); (on_goal 1 => try dsimp only [d_]); (on_goal 2 => clear_value d_))
    | ((try lift_lets -underBinder); intro d_; try clear_value d_)
    | with_reducible apply Touches.foldl
    | (intro _ _ _)
    | exact Eq.refl true
    | with_reducible refine Touches.andThen ?_ (by with_reducible exact onFree_touch ..) ?_
    | with_reducible refine Touches.andThen ?_ (by with_reducible exact onCore_touch ..) ?_
    | with_reducible refine Touches.andThen ?_ (by with_reducible exact storeSeen_touch ..) ?_
    | with_reducible refine Touches.andThen ?_ (by with_reducible exact programFault_touch ..) ?_
    | split
    | dsimp -zeta only
    | (split at ‹ite _ _ _ = (_, _)›)
    | (cases ‹(_, _) = (_, _)›)

theorem advanceEng_touch (d : Dev) (e n : Nat) : Touches [.freeCtr, .out, .memOut, .sys, .past, .flock, .media, .integ] d (advanceEng d e n) := by
  induction n generalizing d with
  | zero => exact .refl
  | succ n ih => exact .andThen (engCycle_touch d e) (ih _)

theorem startFlow_touch (d : Dev) (e : Nat) (target : Word) (reti : Bool) :
    Touches [.flock] d (startFlow d e target reti) := by
  unfold startFlow
  repeat' first
    | with_reducible assumption
    | with_reducible exact Touches.refl
    | ((try lift_lets -underBinder); intro d_; refine (have hd_ : Touches [.flock] d d_ := ?_; ?_); (on_goal 1 => try dsimp only [d_]); (on_goal 2 => clear_value d_))
    | ((try lift_lets -underBinder); intro d_; try clear_value d_)
    | exact Eq.refl true
    | with_reducible refine Touches.andThen ?_ (by with_reducible exact onCore_touch ..) ?_
    | split
    | dsimp -zeta only
    | (split at ‹ite _ _ _ = (_, _)›)
    | (cases ‹(_, _) = (_, _)›)

theorem skipFlow_touch (d : Dev) (e : Nat) :
    Touches [.flock] d (skipFlow d e) := by
  unfold skipFlow
  repeat' first
    | with_reducible assumption
    | with_reducible exact Touches.refl
    | ((try lift_lets -underBinder); intro d_; refine (have hd_ : Touches [.flock] d d_ := ?_; ?_); (on_goal 1 => try dsimp only [d_]); (on_goal 2 => clear_value d_))
    | ((try lift_lets -underBinder); intro d_; try clear_value d_)
    | exact Eq.refl true
    | with_reducible refine Touches.andThen ?_ (by with_reducible exact onCore_touch ..) ?_
    | split
    | dsimp -zeta only
    | (split at ‹ite _ _ _ = (_, _)›)
    | (cases ‹(_, _) = (_, _)›)

theorem issueOp_touch {ps : List Part} (hs : subParts [.freeCtr, .out, .memOut, .sys, .past, .flock, .media, .integ] ps = true) {f : Dev → Dev} (hf : ∀ x, Touches ps x (f x))
    (d : Dev) (i : Issue) (acc : Option Nat) (slotOk flow : Bool) : Touches ps d (issueOp d i acc slotOk flow f) := by
  unfold issueOp
  split
  · exact .refl
  · have h := Touches.mono (ps := ps) (advanceEng_touch d i.eng (if i.gap = 0 ∧ (engOf d i.eng).core.bundle.any (fun b => b.1 == i.slot) then 1 else i.gap)) hs
    revert h
    dsimp only
    generalize advanceEng d i.eng _ = e
    intro h
    split
    · exact h
    · have h2 := Touches.andThen h (onCore_touch e i.eng (fun c => { c with bundle := c.bundle ++ [(i.slot, acc)] })) (subParts_trans rfl hs)
      split
      · exact .andThen h2 (programFault_touch _ _ _) (subParts_trans rfl hs)
      · split
        · exact .andThen h2 (hf _) (subParts_self _)
        · split
          · exact .andThen h2 (skipFlow_touch _ _) (subParts_trans rfl hs)
          · exact h2

theorem postResult_touch (d : Dev) (e lat : Nat) (dst : EDst) (val : Nat) (lanes : List (BitVec 80)) :
    Touches [.flock] d (postResult d e lat dst val lanes) := by
  unfold postResult
  repeat' first
    | with_reducible assumption
    | with_reducible exact Touches.refl
    | exact Eq.refl true
    | with_reducible refine Touches.andThen ?_ (by with_reducible exact onCore_touch ..) ?_
    | split
    | dsimp -zeta only
    | (split at ‹ite _ _ _ = (_, _)›)
    | (cases ‹(_, _) = (_, _)›)

theorem macOp_touch (i : Issue) (op : MacOp) (acc a : Nat) (b : MacB) (sg : Sign) (wide : Bool) (d : Dev) :
    Touches [.freeCtr, .out, .memOut, .sys, .past, .flock, .media, .integ] d (macOp i op acc a b sg wide d) := by
  unfold macOp
  repeat' first
    | with_reducible assumption
    | with_reducible exact Touches.refl
    | ((try lift_lets -underBinder); intro d_; refine (have hd_ : Touches [.freeCtr, .out, .memOut, .sys, .past, .flock, .media, .integ] d d_ := ?_; ?_); (on_goal 1 => try dsimp only [d_]); (on_goal 2 => clear_value d_))
    | ((try lift_lets -underBinder); intro d_; try clear_value d_)
    | exact Eq.refl true
    | with_reducible refine Touches.andThen ?_ (by with_reducible exact onCore_touch ..) ?_
    | with_reducible refine Touches.andThen ?_ (issueOp_touch (ps := [.freeCtr, .out, .memOut, .sys, .past, .flock, .media, .integ]) ?_ ?_ ..) ?_
    | (intro _)
    | with_reducible refine Touches.andThen ?_ (by with_reducible exact postResult_touch ..) ?_
    | split
    | dsimp -zeta only
    | (split at ‹ite _ _ _ = (_, _)›)
    | (cases ‹(_, _) = (_, _)›)

theorem moveLanes_touch (d : Dev) (e acc w ew : Nat) (lanes : List Nat) (dst : EDst) :
    Touches [.flock] d (moveLanes d e acc w ew lanes dst) := by
  unfold moveLanes
  repeat' first
    | with_reducible assumption
    | with_reducible exact Touches.refl
    | ((try lift_lets -underBinder); intro d_; refine (have hd_ : Touches [.flock] d d_ := ?_; ?_); (on_goal 1 => try dsimp only [d_]); (on_goal 2 => clear_value d_))
    | ((try lift_lets -underBinder); intro d_; try clear_value d_)
    | exact Eq.refl true
    | with_reducible refine Touches.andThen ?_ (by with_reducible exact onCore_touch ..) ?_
    | with_reducible refine Touches.andThen ?_ (by with_reducible exact postResult_touch ..) ?_
    | split
    | dsimp -zeta only
    | (split at ‹ite _ _ _ = (_, _)›)
    | (cases ‹(_, _) = (_, _)›)

theorem postPointer_touch (d : Dev) (e : Nat) (a : Addr) :
    Touches [.flock] d (postPointer d e a) := by
  unfold postPointer
  repeat' first
    | with_reducible assumption
    | with_reducible exact Touches.refl
    | ((try lift_lets -underBinder); intro d_; refine (have hd_ : Touches [.flock] d d_ := ?_; ?_); (on_goal 1 => try dsimp only [d_]); (on_goal 2 => clear_value d_))
    | ((try lift_lets -underBinder); intro d_; try clear_value d_)
    | exact Eq.refl true
    | with_reducible refine Touches.andThen ?_ (by with_reducible exact postResult_touch ..) ?_
    | split
    | dsimp -zeta only
    | (split at ‹ite _ _ _ = (_, _)›)
    | (cases ‹(_, _) = (_, _)›)

theorem localRead_touch (e : Nat) (find : EccFind) (d : Dev) (words : List Nat) : Touches [.out, .sys, .flock, .integ] d (localRead e find d words).2 := by
  induction words generalizing d find with
  | nil => exact .refl
  | cons w rest ih =>
    have h := Touches.mono (ps := [.out, .sys, .flock, .integ]) (eccRead_touch d 0 ((engOf d e).phys * 2 ^ 32 + 8 * w) find)
    unfold localRead
    split
    · rename_i h_; rw [h_] at h; exact .andThen h (onEng_touch _ _ _)
    · rename_i h_; rw [h_] at h; exact .andThen h (ih _ _)

theorem localRead_touch' (e : Nat) (find : EccFind) (d : Dev) (words : List Nat) {x0 e_} (h_ : localRead e find d words = (x0, e_)) : Touches [.out, .sys, .flock, .integ] d e_ := by
  have := localRead_touch e find d words; rw [h_] at this; exact this

theorem loadOp_touch (i : Issue) (g : LsReg) (a : Addr) (find : EccFind) (d : Dev) :
    Touches [.freeCtr, .out, .memOut, .sys, .past, .flock, .media, .integ] d (loadOp i g a find d) := by
  unfold loadOp
  repeat' first
    | with_reducible assumption
    | with_reducible exact Touches.refl
    | ((try lift_lets -underBinder); intro d_; refine (have hd_ : Touches [.freeCtr, .out, .memOut, .sys, .past, .flock, .media, .integ] d d_ := ?_; ?_); (on_goal 1 => try dsimp only [d_]); (on_goal 2 => clear_value d_))
    | ((try lift_lets -underBinder); intro d_; try clear_value d_)
    | exact Eq.refl true
    | with_reducible refine Touches.andThen ?_ (by with_reducible exact programFault_touch ..) ?_
    | with_reducible refine Touches.andThen ?_ (by with_reducible exact localRead_touch ..) ?_
    | refine Touches.andThen ?_ (localRead_touch' (h_ := by assumption) ..) ?_
    | with_reducible refine Touches.andThen ?_ (by with_reducible exact drawFree_touch ..) ?_
    | refine Touches.andThen ?_ (drawFree_touch' (h_ := by assumption) ..) ?_
    | with_reducible refine Touches.andThen ?_ (by with_reducible exact postPointer_touch ..) ?_
    | with_reducible refine Touches.andThen ?_ (by with_reducible exact postResult_touch ..) ?_
    | with_reducible refine Touches.andThen ?_ (by with_reducible exact onEng_touch ..) ?_
    | with_reducible refine Touches.andThen ?_ (by with_reducible exact eccRead_touch ..) ?_
    | refine Touches.andThen ?_ (eccRead_touch' (h_ := by assumption) ..) ?_
    | with_reducible refine Touches.andThen ?_ (by with_reducible exact onFree_touch ..) ?_
    | split
    | dsimp -zeta only
    | (split at ‹ite _ _ _ = (_, _)›)
    | (cases ‹(_, _) = (_, _)›)

theorem storeOp_touch (i : Issue) (g : LsReg) (a : Addr) (d : Dev) :
    Touches [.freeCtr, .out, .memOut, .sys, .past, .flock, .media] d (storeOp i g a d) := by
  unfold storeOp
  repeat' first
    | with_reducible assumption
    | with_reducible exact Touches.refl
    | ((try lift_lets -underBinder); intro d_; refine (have hd_ : Touches [.freeCtr, .out, .memOut, .sys, .past, .flock, .media] d d_ := ?_; ?_); (on_goal 1 => try dsimp only [d_]); (on_goal 2 => clear_value d_))
    | ((try lift_lets -underBinder); intro d_; try clear_value d_)
    | exact Eq.refl true
    | with_reducible refine Touches.andThen ?_ (by with_reducible exact onCore_touch ..) ?_
    | with_reducible refine Touches.andThen ?_ (by with_reducible exact programFault_touch ..) ?_
    | with_reducible refine Touches.andThen ?_ (by with_reducible exact postPointer_touch ..) ?_
    | split
    | dsimp -zeta only
    | (split at ‹ite _ _ _ = (_, _)›)
    | (cases ‹(_, _) = (_, _)›)

theorem pulseLine_touch (line : Nat) (listeners : List (Nat × Nat)) (d : Dev) :
    Touches [.out, .flock] d (pulseLine line listeners d) := by
  unfold pulseLine
  repeat' first
    | with_reducible assumption
    | with_reducible exact Touches.refl
    | ((try lift_lets -underBinder); intro d_; refine (have hd_ : Touches [.out, .flock] d d_ := ?_; ?_); (on_goal 1 => try dsimp only [d_]); (on_goal 2 => clear_value d_))
    | ((try lift_lets -underBinder); intro d_; try clear_value d_)
    | with_reducible apply Touches.foldl
    | (intro _ _ _)
    | exact Eq.refl true
    | with_reducible refine Touches.andThen ?_ (by with_reducible exact emit_touch ..) ?_
    | with_reducible refine Touches.andThen ?_ (by with_reducible exact onCore_touch ..) ?_
    | split
    | dsimp -zeta only
    | (split at ‹ite _ _ _ = (_, _)›)
    | (cases ‹(_, _) = (_, _)›)

end Sys2Proof.Machine
end

