-- ==== Sys2Proof/Laws/TouchRoutes.lean ====
section
/-! SUPPORT. Which parts of the device the operations of Machine/Routes.lean touch. -/

namespace Sys2Proof.Machine

set_option linter.all false
set_option Elab.async false

theorem growReserve_touch (d : Dev) (c : Nat) :
    Touches [.media] d (growReserve d c) := by
  unfold growReserve
  repeat' first
    | with_reducible assumption
    | with_reducible exact Touches.refl
    | exact Eq.refl true
    | with_reducible refine Touches.andThen ?_ (by with_reducible exact onConf_touch ..) ?_
    | split
    | dsimp -zeta only
    | (split at ‹ite _ _ _ = (_, _)›)
    | (cases ‹(_, _) = (_, _)›)

theorem forgetInput_touch (d : Dev) (c n : Nat) :
    Touches [.media] d (forgetInput d c n) := by
  unfold forgetInput
  repeat' first
    | with_reducible assumption
    | with_reducible exact Touches.refl
    | ((try lift_lets -underBinder); intro d_; refine (have hd_ : Touches [.media] d d_ := ?_; ?_); (on_goal 1 => try dsimp only [d_]); (on_goal 2 => clear_value d_))
    | ((try lift_lets -underBinder); intro d_; try clear_value d_)
    | exact Eq.refl true
    | with_reducible refine Touches.andThen ?_ (by with_reducible exact onConf_touch ..) ?_
    | split
    | dsimp -zeta only
    | (split at ‹ite _ _ _ = (_, _)›)
    | (cases ‹(_, _) = (_, _)›)

theorem applyRouteSet_touch (rcd : RouteRec) (pick : Nat) (ctx : ReplyCtx × List Nat) (d : Dev) :
    Touches [.media, .aud] d (applyRouteSet rcd pick ctx d).1 := by
  unfold applyRouteSet
  repeat' first
    | with_reducible assumption
    | with_reducible exact Touches.refl
    | ((try lift_lets -underBinder); intro d_; refine (have hd_ : Touches [.media, .aud] d d_ := ?_; ?_); (on_goal 1 => try dsimp only [d_]); (on_goal 2 => clear_value d_))
    | ((try lift_lets -underBinder); intro d_; try clear_value d_)
    | exact Eq.refl true
    | with_reducible refine Touches.andThen ?_ (by with_reducible exact onAud_touch ..) ?_
    | with_reducible refine Touches.andThen ?_ (by with_reducible exact growReserve_touch ..) ?_
    | with_reducible refine Touches.andThen ?_ (by with_reducible exact forgetInput_touch ..) ?_
    | split
    | dsimp -zeta only
    | (split at ‹ite _ _ _ = (_, _)›)
    | (cases ‹(_, _) = (_, _)›)

theorem applyRouteSet_touch' (rcd : RouteRec) (pick : Nat) (ctx : ReplyCtx × List Nat) (d : Dev) {e_ x1} (h_ : applyRouteSet rcd pick ctx d = (e_, x1)) : Touches [.media, .aud] d e_ := by
  have := applyRouteSet_touch rcd pick ctx d; rw [h_] at this; exact this

theorem applyRouteClear_touch (route : Nat) (d : Dev) :
    Touches [.aud] d (applyRouteClear route d) := by
  unfold applyRouteClear
  repeat' first
    | with_reducible assumption
    | with_reducible exact Touches.refl
    | ((try lift_lets -underBinder); intro d_; refine (have hd_ : Touches [.aud] d d_ := ?_; ?_); (on_goal 1 => try dsimp only [d_]); (on_goal 2 => clear_value d_))
    | ((try lift_lets -underBinder); intro d_; try clear_value d_)
    | exact Eq.refl true
    | with_reducible refine Touches.andThen ?_ (by with_reducible exact onRoute_touch ..) ?_
    | with_reducible refine Touches.andThen ?_ (by with_reducible exact onAud_touch ..) ?_
    | split
    | dsimp -zeta only
    | (split at ‹ite _ _ _ = (_, _)›)
    | (cases ‹(_, _) = (_, _)›)

theorem applyConsoleSet_touch (route live listen : Nat) (d : Dev) :
    Touches [.aud] d (applyConsoleSet route live listen d) := by
  unfold applyConsoleSet
  repeat' first
    | with_reducible assumption
    | with_reducible exact Touches.refl
    | ((try lift_lets -underBinder); intro d_; refine (have hd_ : Touches [.aud] d d_ := ?_; ?_); (on_goal 1 => try dsimp only [d_]); (on_goal 2 => clear_value d_))
    | ((try lift_lets -underBinder); intro d_; try clear_value d_)
    | exact Eq.refl true
    | with_reducible refine Touches.andThen ?_ (by with_reducible exact onAud_touch ..) ?_
    | with_reducible refine Touches.andThen ?_ (by with_reducible exact onRoute_touch ..) ?_
    | split
    | dsimp -zeta only
    | (split at ‹ite _ _ _ = (_, _)›)
    | (cases ‹(_, _) = (_, _)›)

theorem bankWrite_touch (d : Dev) (block : Nat) (data : List (Nat × Int)) :
    Touches [.aud] d (bankWrite d block data) := by
  unfold bankWrite
  repeat' first
    | with_reducible assumption
    | with_reducible exact Touches.refl
    | ((try lift_lets -underBinder); intro d_; refine (have hd_ : Touches [.aud] d d_ := ?_; ?_); (on_goal 1 => try dsimp only [d_]); (on_goal 2 => clear_value d_))
    | ((try lift_lets -underBinder); intro d_; try clear_value d_)
    | exact Eq.refl true
    | with_reducible refine Touches.andThen ?_ (by with_reducible exact onAud_touch ..) ?_
    | split
    | dsimp -zeta only
    | (split at ‹ite _ _ _ = (_, _)›)
    | (cases ‹(_, _) = (_, _)›)

theorem applyAudParamWrite_touch (block : Nat) (data : List (Nat × Int)) (d : Dev) :
    Touches [.aud] d (applyAudParamWrite block data d) := by
  unfold applyAudParamWrite
  repeat' first
    | with_reducible assumption
    | with_reducible exact Touches.refl
    | exact Eq.refl true
    | with_reducible refine Touches.andThen ?_ (by with_reducible exact bankWrite_touch ..) ?_
    | split
    | dsimp -zeta only
    | (split at ‹ite _ _ _ = (_, _)›)
    | (cases ‹(_, _) = (_, _)›)

theorem bankSwap_touch (d : Dev) (set : Nat) :
    Touches [.aud] d (bankSwap d set) := by
  unfold bankSwap
  repeat' first
    | with_reducible assumption
    | with_reducible exact Touches.refl
    | ((try lift_lets -underBinder); intro d_; refine (have hd_ : Touches [.aud] d d_ := ?_; ?_); (on_goal 1 => try dsimp only [d_]); (on_goal 2 => clear_value d_))
    | ((try lift_lets -underBinder); intro d_; try clear_value d_)
    | exact Eq.refl true
    | with_reducible refine Touches.andThen ?_ (by with_reducible exact onAud_touch ..) ?_
    | split
    | dsimp -zeta only
    | (split at ‹ite _ _ _ = (_, _)›)
    | (cases ‹(_, _) = (_, _)›)

theorem applyAudCommit_touch (d : Dev) :
    Touches [.aud] d (applyAudCommit d) := by
  unfold applyAudCommit
  repeat' first
    | with_reducible assumption
    | with_reducible exact Touches.refl
    | exact Eq.refl true
    | with_reducible refine Touches.andThen ?_ (by with_reducible exact bankSwap_touch ..) ?_
    | split
    | dsimp -zeta only
    | (split at ‹ite _ _ _ = (_, _)›)
    | (cases ‹(_, _) = (_, _)›)

theorem headsetBankSwap_touch (n : Nat) (d : Dev) :
    Touches [.out, .sys, .rings, .sess, .aud] d (headsetBankSwap n d) := by
  unfold headsetBankSwap
  repeat' first
    | with_reducible assumption
    | with_reducible exact Touches.refl
    | ((try lift_lets -underBinder); intro d_; refine (have hd_ : Touches [.out, .sys, .rings, .sess, .aud] d d_ := ?_; ?_); (on_goal 1 => try dsimp only [d_]); (on_goal 2 => clear_value d_))
    | ((try lift_lets -underBinder); intro d_; try clear_value d_)
    | exact Eq.refl true
    | with_reducible refine Touches.andThen ?_ (by with_reducible exact onAud_touch ..) ?_
    | with_reducible refine Touches.andThen ?_ (by with_reducible exact bankSwap_touch ..) ?_
    | with_reducible refine Touches.andThen ?_ (by with_reducible exact bankWrite_touch ..) ?_
    | with_reducible refine Touches.andThen ?_ (by with_reducible exact answer_touch ..) ?_
    | with_reducible refine Touches.andThen ?_ (by with_reducible exact epochDone_touch ..) ?_
    | split
    | dsimp -zeta only
    | (split at ‹ite _ _ _ = (_, _)›)
    | (cases ‹(_, _) = (_, _)›)

end Sys2Proof.Machine
end

