-- ==== Sys2Proof/Laws/TouchVideo.lean ====
section
/-! SUPPORT. Which parts of the device the operations of Machine/Video.lean touch. -/

namespace Sys2Proof.Machine

set_option linter.all false
set_option Elab.async false

theorem ifFits_touch {ps : List Part} (hs : subParts [] ps = true) {f : Dev → Dev} (hf : ∀ x, Touches ps x (f x)) (d : Dev) : Touches ps d (ifFits f d) := by
  unfold ifFits
  split
  · exact hf d
  · exact .refl

theorem startEncode_touch (n ts : Nat) (d : Dev) (t : Nat) :
    Touches [.vid] d (startEncode n ts d t) := by
  unfold startEncode
  repeat' first
    | with_reducible assumption
    | with_reducible exact Touches.refl
    | ((try lift_lets -underBinder); intro d_; refine (have hd_ : Touches [.vid] d d_ := ?_; ?_); (on_goal 1 => try dsimp only [d_]); (on_goal 2 => clear_value d_))
    | ((try lift_lets -underBinder); intro d_; try clear_value d_)
    | exact Eq.refl true
    | with_reducible refine Touches.andThen ?_ (by with_reducible exact onPic_touch ..) ?_
    | split
    | dsimp -zeta only
    | (split at ‹ite _ _ _ = (_, _)›)
    | (cases ‹(_, _) = (_, _)›)

theorem requestIntra_touch (d : Dev) (n t : Nat) :
    Touches [.out, .sys, .past, .fold, .tm, .media, .vid] d (requestIntra d n t) := by
  unfold requestIntra
  repeat' first
    | with_reducible assumption
    | with_reducible exact Touches.refl
    | ((try lift_lets -underBinder); intro d_; refine (have hd_ : Touches [.out, .sys, .past, .fold, .tm, .media, .vid] d d_ := ?_; ?_); (on_goal 1 => try dsimp only [d_]); (on_goal 2 => clear_value d_))
    | ((try lift_lets -underBinder); intro d_; try clear_value d_)
    | exact Eq.refl true
    | with_reducible refine Touches.andThen ?_ (by with_reducible exact onPic_touch ..) ?_
    | with_reducible refine Touches.andThen ?_ (by with_reducible exact requestPli_touch ..) ?_
    | with_reducible refine Touches.andThen ?_ (by with_reducible exact startEncode_touch ..) ?_
    | split
    | dsimp -zeta only
    | (split at ‹ite _ _ _ = (_, _)›)
    | (cases ‹(_, _) = (_, _)›)

theorem picDone_touch (d : Dev) (n t : Nat) (intra : Bool) :
    Touches [.vid] d (picDone d n t intra) := by
  unfold picDone
  repeat' first
    | with_reducible assumption
    | with_reducible exact Touches.refl
    | ((try lift_lets -underBinder); intro d_; refine (have hd_ : Touches [.vid] d d_ := ?_; ?_); (on_goal 1 => try dsimp only [d_]); (on_goal 2 => clear_value d_))
    | ((try lift_lets -underBinder); intro d_; try clear_value d_)
    | exact Eq.refl true
    | with_reducible refine Touches.andThen ?_ (by with_reducible exact onPic_touch ..) ?_
    | split
    | dsimp -zeta only
    | (split at ‹ite _ _ _ = (_, _)›)
    | (cases ‹(_, _) = (_, _)›)

theorem askCells_touch (d : Dev) (cells : List (CellSt × CellRec)) :
    Touches [.out, .sys, .past, .fold, .tm, .media, .vid] d (askCells d cells) := by
  unfold askCells
  repeat' first
    | with_reducible assumption
    | with_reducible exact Touches.refl
    | ((try lift_lets -underBinder); intro d_; refine (have hd_ : Touches [.out, .sys, .past, .fold, .tm, .media, .vid] d d_ := ?_; ?_); (on_goal 1 => try dsimp only [d_]); (on_goal 2 => clear_value d_))
    | ((try lift_lets -underBinder); intro d_; try clear_value d_)
    | with_reducible apply Touches.foldl
    | (intro _ _ _)
    | exact Eq.refl true
    | with_reducible refine Touches.andThen ?_ (by with_reducible exact requestIntra_touch ..) ?_
    | split
    | dsimp -zeta only
    | (split at ‹ite _ _ _ = (_, _)›)
    | (cases ‹(_, _) = (_, _)›)

theorem requestPoint_touch (d : Dev) (k : Nat) (coalesce : Bool) :
    Touches [.out, .sys, .past, .fold, .tm, .media, .vid] d (requestPoint d k coalesce) := by
  unfold requestPoint
  repeat' first
    | with_reducible assumption
    | with_reducible exact Touches.refl
    | ((try lift_lets -underBinder); intro d_; refine (have hd_ : Touches [.out, .sys, .past, .fold, .tm, .media, .vid] d d_ := ?_; ?_); (on_goal 1 => try dsimp only [d_]); (on_goal 2 => clear_value d_))
    | ((try lift_lets -underBinder); intro d_; try clear_value d_)
    | exact Eq.refl true
    | with_reducible refine Touches.andThen ?_ (by with_reducible exact onStream_touch ..) ?_
    | with_reducible refine Touches.andThen ?_ (by with_reducible exact askCells_touch ..) ?_
    | split
    | dsimp -zeta only
    | (split at ‹ite _ _ _ = (_, _)›)
    | (cases ‹(_, _) = (_, _)›)

theorem streamsSweep_touch (d : Dev) :
    Touches [.vid] d (streamsSweep d) := by
  unfold streamsSweep
  repeat' first
    | with_reducible assumption
    | with_reducible exact Touches.refl
    | exact Eq.refl true
    | with_reducible refine Touches.andThen ?_ (by with_reducible exact onVid_touch ..) ?_
    | split
    | dsimp -zeta only
    | (split at ‹ite _ _ _ = (_, _)›)
    | (cases ‹(_, _) = (_, _)›)

theorem joinStream_touch (d : Dev) (n layout variant : Nat) :
    Touches [.out, .sys, .past, .fold, .tm, .media, .vid] d (joinStream d n layout variant) := by
  unfold joinStream
  repeat' first
    | with_reducible assumption
    | with_reducible exact Touches.refl
    | ((try lift_lets -underBinder); intro d_; refine (have hd_ : Touches [.out, .sys, .past, .fold, .tm, .media, .vid] d d_ := ?_; ?_); (on_goal 1 => try dsimp only [d_]); (on_goal 2 => clear_value d_))
    | ((try lift_lets -underBinder); intro d_; try clear_value d_)
    | exact Eq.refl true
    | with_reducible refine Touches.andThen ?_ (by with_reducible exact onVid_touch ..) ?_
    | with_reducible refine Touches.andThen ?_ (by with_reducible exact streamsSweep_touch ..) ?_
    | with_reducible refine Touches.andThen ?_ (by with_reducible exact requestPoint_touch ..) ?_
    | split
    | dsimp -zeta only
    | (split at ‹ite _ _ _ = (_, _)›)
    | (cases ‹(_, _) = (_, _)›)

theorem leaveStreams_touch (d : Dev) (n : Nat) :
    Touches [.vid] d (leaveStreams d n) := by
  unfold leaveStreams
  repeat' first
    | with_reducible assumption
    | with_reducible exact Touches.refl
    | exact Eq.refl true
    | with_reducible refine Touches.andThen ?_ (by with_reducible exact onVid_touch ..) ?_
    | with_reducible refine Touches.andThen ?_ (by with_reducible exact streamsSweep_touch ..) ?_
    | split
    | dsimp -zeta only
    | (split at ‹ite _ _ _ = (_, _)›)
    | (cases ‹(_, _) = (_, _)›)

theorem dropSource_touch (d : Dev) (n : Nat) :
    Touches [.vid] d (dropSource d n) := by
  unfold dropSource
  repeat' first
    | with_reducible assumption
    | with_reducible exact Touches.refl
    | ((try lift_lets -underBinder); intro d_; refine (have hd_ : Touches [.vid] d d_ := ?_; ?_); (on_goal 1 => try dsimp only [d_]); (on_goal 2 => clear_value d_))
    | ((try lift_lets -underBinder); intro d_; try clear_value d_)
    | exact Eq.refl true
    | with_reducible refine Touches.andThen ?_ (by with_reducible exact onVid_touch ..) ?_
    | split
    | dsimp -zeta only
    | (split at ‹ite _ _ _ = (_, _)›)
    | (cases ‹(_, _) = (_, _)›)

theorem freeze_touch (d : Dev) (n t : Nat) :
    Touches [.vid] d (freeze d n t) := by
  unfold freeze
  repeat' first
    | with_reducible assumption
    | with_reducible exact Touches.refl
    | ((try lift_lets -underBinder); intro d_; refine (have hd_ : Touches [.vid] d d_ := ?_; ?_); (on_goal 1 => try dsimp only [d_]); (on_goal 2 => clear_value d_))
    | ((try lift_lets -underBinder); intro d_; try clear_value d_)
    | exact Eq.refl true
    | with_reducible refine Touches.andThen ?_ (by with_reducible exact onPic_touch ..) ?_
    | split
    | dsimp -zeta only
    | (split at ‹ite _ _ _ = (_, _)›)
    | (cases ‹(_, _) = (_, _)›)

theorem freezeSource_touch (d : Dev) (n : Nat) :
    Touches [.vid] d (freezeSource d n) := by
  unfold freezeSource
  repeat' first
    | with_reducible assumption
    | with_reducible exact Touches.refl
    | ((try lift_lets -underBinder); intro d_; refine (have hd_ : Touches [.vid] d d_ := ?_; ?_); (on_goal 1 => try dsimp only [d_]); (on_goal 2 => clear_value d_))
    | ((try lift_lets -underBinder); intro d_; try clear_value d_)
    | with_reducible apply Touches.foldl
    | (intro _ _ _)
    | exact Eq.refl true
    | with_reducible refine Touches.andThen ?_ (by with_reducible exact onVid_touch ..) ?_
    | with_reducible refine Touches.andThen ?_ (by with_reducible exact onContrib_touch ..) ?_
    | with_reducible refine Touches.andThen ?_ (by with_reducible exact freeze_touch ..) ?_
    | split
    | dsimp -zeta only
    | (split at ‹ite _ _ _ = (_, _)›)
    | (cases ‹(_, _) = (_, _)›)

theorem thawSource_touch (d : Dev) (n : Nat) :
    Touches [.out, .sys, .past, .fold, .tm, .media, .vid] d (thawSource d n) := by
  unfold thawSource
  repeat' first
    | with_reducible assumption
    | with_reducible exact Touches.refl
    | ((try lift_lets -underBinder); intro d_; refine (have hd_ : Touches [.out, .sys, .past, .fold, .tm, .media, .vid] d d_ := ?_; ?_); (on_goal 1 => try dsimp only [d_]); (on_goal 2 => clear_value d_))
    | ((try lift_lets -underBinder); intro d_; try clear_value d_)
    | with_reducible apply Touches.foldl
    | (intro _ _ _)
    | exact Eq.refl true
    | with_reducible refine Touches.andThen ?_ (by with_reducible exact onPic_touch ..) ?_
    | with_reducible refine Touches.andThen ?_ (by with_reducible exact requestIntra_touch ..) ?_
    | split
    | dsimp -zeta only
    | (split at ‹ite _ _ _ = (_, _)›)
    | (cases ‹(_, _) = (_, _)›)

theorem decError_touch (d : Dev) (n : Nat) (oversize : Bool) :
    Touches [.out, .sys, .vid] d (decError d n oversize) := by
  unfold decError
  repeat' first
    | with_reducible assumption
    | with_reducible exact Touches.refl
    | exact Eq.refl true
    | with_reducible refine Touches.andThen ?_ (by with_reducible exact onVid_touch ..) ?_
    | with_reducible refine Touches.andThen ?_ (by with_reducible exact raiseLeaf_touch ..) ?_
    | split
    | dsimp -zeta only
    | (split at ‹ite _ _ _ = (_, _)›)
    | (cases ‹(_, _) = (_, _)›)

theorem decodeFails_touch (d : Dev) (n : Nat) :
    Touches [.out, .sys, .past, .fold, .tm, .media, .vid] d (decodeFails d n) := by
  unfold decodeFails
  repeat' first
    | with_reducible assumption
    | with_reducible exact Touches.refl
    | ((try lift_lets -underBinder); intro d_; refine (have hd_ : Touches [.out, .sys, .past, .fold, .tm, .media, .vid] d d_ := ?_; ?_); (on_goal 1 => try dsimp only [d_]); (on_goal 2 => clear_value d_))
    | ((try lift_lets -underBinder); intro d_; try clear_value d_)
    | exact Eq.refl true
    | with_reducible refine Touches.andThen ?_ (by with_reducible exact onContrib_touch ..) ?_
    | with_reducible refine Touches.andThen ?_ (by with_reducible exact requestPli_touch ..) ?_
    | with_reducible refine Touches.andThen ?_ (by with_reducible exact decError_touch ..) ?_
    | split
    | dsimp -zeta only
    | (split at ‹ite _ _ _ = (_, _)›)
    | (cases ‹(_, _) = (_, _)›)

theorem conformFail_touch (d : Dev) (n row : Nat) :
    Touches [.out, .sys, .past, .fold, .tm, .media, .vid] d (conformFail d n row) := by
  unfold conformFail
  repeat' first
    | with_reducible assumption
    | with_reducible exact Touches.refl
    | ((try lift_lets -underBinder); intro d_; refine (have hd_ : Touches [.out, .sys, .past, .fold, .tm, .media, .vid] d d_ := ?_; ?_); (on_goal 1 => try dsimp only [d_]); (on_goal 2 => clear_value d_))
    | ((try lift_lets -underBinder); intro d_; try clear_value d_)
    | exact Eq.refl true
    | with_reducible refine Touches.andThen ?_ (by with_reducible exact onContrib_touch ..) ?_
    | with_reducible refine Touches.andThen ?_ (by with_reducible exact onVid_touch ..) ?_
    | with_reducible refine Touches.andThen ?_ (by with_reducible exact raiseLeaf_touch ..) ?_
    | with_reducible refine Touches.andThen ?_ (by with_reducible exact requestIntra_touch ..) ?_
    | with_reducible refine Touches.andThen ?_ (by with_reducible exact freeze_touch ..) ?_
    | split
    | dsimp -zeta only
    | (split at ‹ite _ _ _ = (_, _)›)
    | (cases ‹(_, _) = (_, _)›)

theorem passLost_touch (d : Dev) (n t : Nat) :
    Touches [.out, .sys, .past, .fold, .tm, .media, .vid] d (passLost d n t) := by
  unfold passLost
  repeat' first
    | with_reducible assumption
    | with_reducible exact Touches.refl
    | ((try lift_lets -underBinder); intro d_; refine (have hd_ : Touches [.out, .sys, .past, .fold, .tm, .media, .vid] d d_ := ?_; ?_); (on_goal 1 => try dsimp only [d_]); (on_goal 2 => clear_value d_))
    | ((try lift_lets -underBinder); intro d_; try clear_value d_)
    | exact Eq.refl true
    | with_reducible refine Touches.andThen ?_ (by with_reducible exact onContrib_touch ..) ?_
    | with_reducible refine Touches.andThen ?_ (by with_reducible exact freeze_touch ..) ?_
    | with_reducible refine Touches.andThen ?_ (by with_reducible exact requestPli_touch ..) ?_
    | with_reducible refine Touches.andThen ?_ (by with_reducible exact requestIntra_touch ..) ?_
    | split
    | dsimp -zeta only
    | (split at ‹ite _ _ _ = (_, _)›)
    | (cases ‹(_, _) = (_, _)›)

theorem regainCells_touch (d : Dev) (n : Nat) :
    Touches [.vid] d (regainCells d n) := by
  unfold regainCells
  repeat' first
    | with_reducible assumption
    | with_reducible exact Touches.refl
    | ((try lift_lets -underBinder); intro d_; refine (have hd_ : Touches [.vid] d d_ := ?_; ?_); (on_goal 1 => try dsimp only [d_]); (on_goal 2 => clear_value d_))
    | ((try lift_lets -underBinder); intro d_; try clear_value d_)
    | exact Eq.refl true
    | with_reducible refine Touches.andThen ?_ (by with_reducible exact onVid_touch ..) ?_
    | split
    | dsimp -zeta only
    | (split at ‹ite _ _ _ = (_, _)›)
    | (cases ‹(_, _) = (_, _)›)

theorem conformCheck_touch (d : Dev) (n : Nat) (c : Contrib) (p : PicIn) (count : Nat) :
    Touches [.out, .sys, .past, .fold, .tm, .media, .vid] d (conformCheck d n c p count) := by
  unfold conformCheck
  repeat' first
    | with_reducible assumption
    | with_reducible exact Touches.refl
    | ((try lift_lets -underBinder); intro d_; refine (have hd_ : Touches [.out, .sys, .past, .fold, .tm, .media, .vid] d d_ := ?_; ?_); (on_goal 1 => try dsimp only [d_]); (on_goal 2 => clear_value d_))
    | ((try lift_lets -underBinder); intro d_; try clear_value d_)
    | exact Eq.refl true
    | with_reducible refine Touches.andThen ?_ (by with_reducible exact onContrib_touch ..) ?_
    | with_reducible refine Touches.andThen ?_ (by with_reducible exact conformFail_touch ..) ?_
    | with_reducible refine Touches.andThen ?_ (by with_reducible exact regainCells_touch ..) ?_
    | split
    | dsimp -zeta only
    | (split at ‹ite _ _ _ = (_, _)›)
    | (cases ‹(_, _) = (_, _)›)

theorem giveDecoder_touch (d : Dev) (n codec ts : Nat) (p : PicIn) :
    Touches [.out, .sys, .past, .fold, .tm, .media, .vid] d (giveDecoder d n codec ts p) := by
  unfold giveDecoder
  repeat' first
    | with_reducible assumption
    | with_reducible exact Touches.refl
    | ((try lift_lets -underBinder); intro d_; refine (have hd_ : Touches [.out, .sys, .past, .fold, .tm, .media, .vid] d d_ := ?_; ?_); (on_goal 1 => try dsimp only [d_]); (on_goal 2 => clear_value d_))
    | ((try lift_lets -underBinder); intro d_; try clear_value d_)
    | exact Eq.refl true
    | with_reducible refine Touches.andThen ?_ (by with_reducible exact onVid_touch ..) ?_
    | with_reducible refine Touches.andThen ?_ (by with_reducible exact onContrib_touch ..) ?_
    | with_reducible refine Touches.andThen ?_ (by with_reducible exact decodeFails_touch ..) ?_
    | split
    | dsimp -zeta only
    | (split at ‹ite _ _ _ = (_, _)›)
    | (cases ‹(_, _) = (_, _)›)

theorem contribPicture_touch (n : Nat) (p : PicIn) (d : Dev) :
    Touches [.out, .sys, .past, .fold, .tm, .media, .vid] d (contribPicture n p d) := by
  unfold contribPicture
  repeat' first
    | with_reducible assumption
    | with_reducible exact Touches.refl
    | ((try lift_lets -underBinder); intro d_; refine (have hd_ : Touches [.out, .sys, .past, .fold, .tm, .media, .vid] d d_ := ?_; ?_); (on_goal 1 => try dsimp only [d_]); (on_goal 2 => clear_value d_))
    | ((try lift_lets -underBinder); intro d_; try clear_value d_)
    | exact Eq.refl true
    | with_reducible refine Touches.andThen ?_ (by with_reducible exact onContrib_touch ..) ?_
    | with_reducible refine Touches.andThen ?_ (by with_reducible exact onLeg_touch ..) ?_
    | with_reducible refine Touches.andThen ?_ (by with_reducible exact conformCheck_touch ..) ?_
    | with_reducible refine Touches.andThen ?_ (by with_reducible exact decError_touch ..) ?_
    | with_reducible refine Touches.andThen ?_ (by with_reducible exact passLost_touch ..) ?_
    | with_reducible refine Touches.andThen ?_ (by with_reducible exact picDone_touch ..) ?_
    | with_reducible refine Touches.andThen ?_ (by with_reducible exact giveDecoder_touch ..) ?_
    | split
    | dsimp -zeta only
    | (split at ‹ite _ _ _ = (_, _)›)
    | (cases ‹(_, _) = (_, _)›)

theorem decodeDone_touch (n : Nat) (ok : Bool) (d : Dev) :
    Touches [.out, .sys, .past, .fold, .tm, .media, .vid] d (decodeDone n ok d) := by
  unfold decodeDone
  repeat' first
    | with_reducible assumption
    | with_reducible exact Touches.refl
    | ((try lift_lets -underBinder); intro d_; refine (have hd_ : Touches [.out, .sys, .past, .fold, .tm, .media, .vid] d d_ := ?_; ?_); (on_goal 1 => try dsimp only [d_]); (on_goal 2 => clear_value d_))
    | ((try lift_lets -underBinder); intro d_; try clear_value d_)
    | with_reducible apply Touches.foldl
    | (intro _ _ _)
    | exact Eq.refl true
    | with_reducible refine Touches.andThen ?_ (by with_reducible exact onContrib_touch ..) ?_
    | with_reducible refine Touches.andThen ?_ (by with_reducible exact decodeFails_touch ..) ?_
    | with_reducible refine Touches.andThen ?_ (by with_reducible exact startEncode_touch ..) ?_
    | split
    | dsimp -zeta only
    | (split at ‹ite _ _ _ = (_, _)›)
    | (cases ‹(_, _) = (_, _)›)

theorem forwardTo_touch (src : Nat) (h : RtpHdr) (y : LayerIn) (d : Dev) (r : Nat) :
    Touches [.freeCtr, .out, .sys, .past, .fold, .tm, .media] d (forwardTo src h y d r) := by
  unfold forwardTo
  repeat' first
    | with_reducible assumption
    | with_reducible exact Touches.refl
    | ((try lift_lets -underBinder); intro d_; refine (have hd_ : Touches [.freeCtr, .out, .sys, .past, .fold, .tm, .media] d d_ := ?_; ?_); (on_goal 1 => try dsimp only [d_]); (on_goal 2 => clear_value d_))
    | ((try lift_lets -underBinder); intro d_; try clear_value d_)
    | exact Eq.refl true
    | with_reducible refine Touches.andThen ?_ (by with_reducible exact onLeg_touch ..) ?_
    | with_reducible refine Touches.andThen ?_ (by with_reducible exact sendRtp_touch ..) ?_
    | split
    | dsimp -zeta only
    | (split at ‹ite _ _ _ = (_, _)›)
    | (cases ‹(_, _) = (_, _)›)

theorem layerNote_touch (d : Dev) (src codec size : Nat) (y : LayerIn) :
    Touches [.media] d (layerNote d src codec size y) := by
  unfold layerNote
  repeat' first
    | with_reducible assumption
    | with_reducible exact Touches.refl
    | ((try lift_lets -underBinder); intro d_; refine (have hd_ : Touches [.media] d d_ := ?_; ?_); (on_goal 1 => try dsimp only [d_]); (on_goal 2 => clear_value d_))
    | ((try lift_lets -underBinder); intro d_; try clear_value d_)
    | exact Eq.refl true
    | with_reducible refine Touches.andThen ?_ (by with_reducible exact onLeg_touch ..) ?_
    | split
    | dsimp -zeta only
    | (split at ‹ite _ _ _ = (_, _)›)
    | (cases ‹(_, _) = (_, _)›)

theorem forwardPacket_touch (d : Dev) (src codec : Nat) (h : RtpHdr) (y : LayerIn) :
    Touches [.freeCtr, .out, .sys, .past, .fold, .tm, .media] d (forwardPacket d src codec h y) := by
  unfold forwardPacket
  repeat' first
    | with_reducible assumption
    | with_reducible exact Touches.refl
    | ((try lift_lets -underBinder); intro d_; refine (have hd_ : Touches [.freeCtr, .out, .sys, .past, .fold, .tm, .media] d d_ := ?_; ?_); (on_goal 1 => try dsimp only [d_]); (on_goal 2 => clear_value d_))
    | ((try lift_lets -underBinder); intro d_; try clear_value d_)
    | with_reducible apply Touches.foldl
    | (intro _ _ _)
    | exact Eq.refl true
    | with_reducible refine Touches.andThen ?_ (by with_reducible exact layerNote_touch ..) ?_
    | with_reducible refine Touches.andThen ?_ (by with_reducible exact forwardTo_touch ..) ?_
    | split
    | dsimp -zeta only
    | (split at ‹ite _ _ _ = (_, _)›)
    | (cases ‹(_, _) = (_, _)›)

theorem relayPicture_touch (d : Dev) (n ts : Nat) (c : Contrib) (relay : List (LayerIn × Nat)) :
    Touches [.freeCtr, .out, .sys, .past, .fold, .tm, .media] d (relayPicture d n ts c relay) := by
  unfold relayPicture
  repeat' first
    | with_reducible assumption
    | with_reducible exact Touches.refl
    | ((try lift_lets -underBinder); intro d_; refine (have hd_ : Touches [.freeCtr, .out, .sys, .past, .fold, .tm, .media] d d_ := ?_; ?_); (on_goal 1 => try dsimp only [d_]); (on_goal 2 => clear_value d_))
    | ((try lift_lets -underBinder); intro d_; try clear_value d_)
    | with_reducible apply Touches.foldl
    | (intro _ _ _)
    | exact Eq.refl true
    | with_reducible refine Touches.andThen ?_ (by with_reducible exact forwardPacket_touch ..) ?_
    | split
    | dsimp -zeta only
    | (split at ‹ite _ _ _ = (_, _)›)
    | (cases ‹(_, _) = (_, _)›)

theorem tierEncodeDone_touch (n tier size : Nat) (relay : List (LayerIn × Nat)) (d : Dev) :
    Touches [.freeCtr, .out, .sys, .past, .fold, .tm, .media, .vid] d (tierEncodeDone n tier size relay d) := by
  unfold tierEncodeDone
  repeat' first
    | with_reducible assumption
    | with_reducible exact Touches.refl
    | ((try lift_lets -underBinder); intro d_; refine (have hd_ : Touches [.freeCtr, .out, .sys, .past, .fold, .tm, .media, .vid] d d_ := ?_; ?_); (on_goal 1 => try dsimp only [d_]); (on_goal 2 => clear_value d_))
    | ((try lift_lets -underBinder); intro d_; try clear_value d_)
    | exact Eq.refl true
    | with_reducible refine Touches.andThen ?_ (by with_reducible exact onPic_touch ..) ?_
    | with_reducible refine Touches.andThen ?_ (by with_reducible exact onVid_touch ..) ?_
    | with_reducible refine Touches.andThen ?_ (by with_reducible exact emit_touch ..) ?_
    | with_reducible refine Touches.andThen ?_ (by with_reducible exact raiseLeaf_touch ..) ?_
    | with_reducible refine Touches.andThen ?_ (by with_reducible exact relayPicture_touch ..) ?_
    | with_reducible refine Touches.andThen ?_ (by with_reducible exact picDone_touch ..) ?_
    | split
    | dsimp -zeta only
    | (split at ‹ite _ _ _ = (_, _)›)
    | (cases ‹(_, _) = (_, _)›)

theorem sendPicture_touch (d : Dev) (n ts : Nat) (l : Leg) (sizes : List Nat) :
    Touches [.freeCtr, .out, .sys, .past, .fold, .tm, .media] d (sendPicture d n ts l sizes) := by
  unfold sendPicture
  repeat' first
    | with_reducible assumption
    | with_reducible exact Touches.refl
    | ((try lift_lets -underBinder); intro d_; refine (have hd_ : Touches [.freeCtr, .out, .sys, .past, .fold, .tm, .media] d d_ := ?_; ?_); (on_goal 1 => try dsimp only [d_]); (on_goal 2 => clear_value d_))
    | ((try lift_lets -underBinder); intro d_; try clear_value d_)
    | with_reducible apply Touches.foldl
    | (intro _ _ _)
    | exact Eq.refl true
    | with_reducible refine Touches.andThen ?_ (by with_reducible exact sendRtp_touch ..) ?_
    | split
    | dsimp -zeta only
    | (split at ‹ite _ _ _ = (_, _)›)
    | (cases ‹(_, _) = (_, _)›)

theorem giveLeg_touch (s : Stream) (ts border repeats : Nat) (cells : List CellSt) (sizes : List Nat) (avc : Tbl (List Nat)) (d : Dev) (n : Nat) :
    Touches [.freeCtr, .out, .sys, .past, .fold, .tm, .media, .vid] d (giveLeg s ts border repeats cells sizes avc d n) := by
  unfold giveLeg
  repeat' first
    | with_reducible assumption
    | with_reducible exact Touches.refl
    | ((try lift_lets -underBinder); intro d_; refine (have hd_ : Touches [.freeCtr, .out, .sys, .past, .fold, .tm, .media, .vid] d d_ := ?_; ?_); (on_goal 1 => try dsimp only [d_]); (on_goal 2 => clear_value d_))
    | ((try lift_lets -underBinder); intro d_; try clear_value d_)
    | exact Eq.refl true
    | with_reducible refine Touches.andThen ?_ (by with_reducible exact onLeg_touch ..) ?_
    | with_reducible refine Touches.andThen ?_ (by with_reducible exact onVid_touch ..) ?_
    | with_reducible refine Touches.andThen ?_ (by with_reducible exact emit_touch ..) ?_
    | with_reducible refine Touches.andThen ?_ (by with_reducible exact legCount_touch ..) ?_
    | with_reducible refine Touches.andThen ?_ (by with_reducible exact sendPicture_touch ..) ?_
    | split
    | dsimp -zeta only
    | (split at ‹ite _ _ _ = (_, _)›)
    | (cases ‹(_, _) = (_, _)›)

theorem joinWaiting_touch (k variant : Nat) (point : Bool) (d : Dev) :
    Touches [.media, .vid] d (joinWaiting k variant point d) := by
  unfold joinWaiting
  repeat' first
    | with_reducible assumption
    | with_reducible exact Touches.refl
    | ((try lift_lets -underBinder); intro d_; refine (have hd_ : Touches [.media, .vid] d d_ := ?_; ?_); (on_goal 1 => try dsimp only [d_]); (on_goal 2 => clear_value d_))
    | ((try lift_lets -underBinder); intro d_; try clear_value d_)
    | with_reducible apply Touches.foldl
    | (intro _ _ _)
    | exact Eq.refl true
    | with_reducible refine Touches.andThen ?_ (by with_reducible exact onLeg_touch ..) ?_
    | with_reducible refine Touches.andThen ?_ (by with_reducible exact onVid_touch ..) ?_
    | split
    | dsimp -zeta only
    | (split at ‹ite _ _ _ = (_, _)›)
    | (cases ‹(_, _) = (_, _)›)

theorem splicePicture_touch (k : Nat) (sizes : List Nat) (avc : Tbl (List Nat)) (d : Dev) :
    Touches [.freeCtr, .out, .sys, .past, .fold, .tm, .media, .vid] d (splicePicture k sizes avc d) := by
  unfold splicePicture
  repeat' first
    | with_reducible assumption
    | with_reducible exact Touches.refl
    | ((try lift_lets -underBinder); intro d_; refine (have hd_ : Touches [.freeCtr, .out, .sys, .past, .fold, .tm, .media, .vid] d d_ := ?_; ?_); (on_goal 1 => try dsimp only [d_]); (on_goal 2 => clear_value d_))
    | ((try lift_lets -underBinder); intro d_; try clear_value d_)
    | with_reducible apply Touches.foldl
    | (intro _ _ _)
    | exact Eq.refl true
    | with_reducible refine Touches.andThen ?_ (by with_reducible exact emit_touch ..) ?_
    | with_reducible refine Touches.andThen ?_ (by with_reducible exact onVid_touch ..) ?_
    | with_reducible refine Touches.andThen ?_ (by with_reducible exact joinWaiting_touch ..) ?_
    | with_reducible refine Touches.andThen ?_ (by with_reducible exact streamsSweep_touch ..) ?_
    | with_reducible refine Touches.andThen ?_ (by with_reducible exact giveLeg_touch ..) ?_
    | split
    | dsimp -zeta only
    | (split at ‹ite _ _ _ = (_, _)›)
    | (cases ‹(_, _) = (_, _)›)

theorem talkerCell_touch (k cell : Nat) (d : Dev) :
    Touches [.out, .sys, .past, .fold, .tm, .media, .vid] d (talkerCell k cell d) := by
  unfold talkerCell
  repeat' first
    | with_reducible assumption
    | with_reducible exact Touches.refl
    | ((try lift_lets -underBinder); intro d_; refine (have hd_ : Touches [.out, .sys, .past, .fold, .tm, .media, .vid] d d_ := ?_; ?_); (on_goal 1 => try dsimp only [d_]); (on_goal 2 => clear_value d_))
    | ((try lift_lets -underBinder); intro d_; try clear_value d_)
    | exact Eq.refl true
    | with_reducible refine Touches.andThen ?_ (by with_reducible exact onStream_touch ..) ?_
    | with_reducible refine Touches.andThen ?_ (by with_reducible exact requestIntra_touch ..) ?_
    | split
    | dsimp -zeta only
    | (split at ‹ite _ _ _ = (_, _)›)
    | (cases ‹(_, _) = (_, _)›)

theorem layoutRefresh_touch (k : Nat) (d : Dev) :
    Touches [.out, .sys, .past, .fold, .tm, .media, .vid] d (layoutRefresh k d) := by
  unfold layoutRefresh
  repeat' first
    | with_reducible assumption
    | with_reducible exact Touches.refl
    | ((try lift_lets -underBinder); intro d_; refine (have hd_ : Touches [.out, .sys, .past, .fold, .tm, .media, .vid] d d_ := ?_; ?_); (on_goal 1 => try dsimp only [d_]); (on_goal 2 => clear_value d_))
    | ((try lift_lets -underBinder); intro d_; try clear_value d_)
    | exact Eq.refl true
    | with_reducible refine Touches.andThen ?_ (by with_reducible exact onStream_touch ..) ?_
    | with_reducible refine Touches.andThen ?_ (by with_reducible exact requestPoint_touch ..) ?_
    | split
    | dsimp -zeta only
    | (split at ‹ite _ _ _ = (_, _)›)
    | (cases ‹(_, _) = (_, _)›)

theorem fixedCells_touch (d : Dev) (k : Nat) :
    Touches [.out, .sys, .past, .fold, .tm, .media, .vid] d (fixedCells d k) := by
  unfold fixedCells
  repeat' first
    | with_reducible assumption
    | with_reducible exact Touches.refl
    | ((try lift_lets -underBinder); intro d_; refine (have hd_ : Touches [.out, .sys, .past, .fold, .tm, .media, .vid] d d_ := ?_; ?_); (on_goal 1 => try dsimp only [d_]); (on_goal 2 => clear_value d_))
    | ((try lift_lets -underBinder); intro d_; try clear_value d_)
    | with_reducible apply Touches.foldl
    | (intro _ _ _)
    | exact Eq.refl true
    | with_reducible refine Touches.andThen ?_ (by with_reducible exact onStream_touch ..) ?_
    | with_reducible refine Touches.andThen ?_ (by with_reducible exact requestIntra_touch ..) ?_
    | split
    | dsimp -zeta only
    | (split at ‹ite _ _ _ = (_, _)›)
    | (cases ‹(_, _) = (_, _)›)

theorem videoTick_touch (d : Dev) :
    Touches [.out, .sys, .past, .fold, .tm, .media, .vid] d (videoTick d) := by
  unfold videoTick
  repeat' first
    | with_reducible assumption
    | with_reducible exact Touches.refl
    | ((try lift_lets -underBinder); intro d_; refine (have hd_ : Touches [.out, .sys, .past, .fold, .tm, .media, .vid] d d_ := ?_; ?_); (on_goal 1 => try dsimp only [d_]); (on_goal 2 => clear_value d_))
    | ((try lift_lets -underBinder); intro d_; try clear_value d_)
    | with_reducible apply Touches.foldl
    | (intro _ _ _)
    | exact Eq.refl true
    | with_reducible refine Touches.andThen ?_ (by with_reducible exact onVid_touch ..) ?_
    | with_reducible refine Touches.andThen ?_ (by with_reducible exact fixedCells_touch ..) ?_
    | with_reducible refine Touches.andThen ?_ (ifFits_touch (ps := [.out, .sys, .past, .fold, .tm, .media, .vid]) ?_ ?_ ..) ?_
    | (intro _)
    | with_reducible refine Touches.andThen ?_ (by with_reducible exact joinStream_touch ..) ?_
    | split
    | dsimp -zeta only
    | (split at ‹ite _ _ _ = (_, _)›)
    | (cases ‹(_, _) = (_, _)›)

theorem withContrib_touch (d : Dev) (r : ContribRec) (cluster : Nat) :
    Touches [.vid] d (withContrib d r cluster) := by
  unfold withContrib
  repeat' first
    | with_reducible assumption
    | with_reducible exact Touches.refl
    | ((try lift_lets -underBinder); intro d_; refine (have hd_ : Touches [.vid] d d_ := ?_; ?_); (on_goal 1 => try dsimp only [d_]); (on_goal 2 => clear_value d_))
    | ((try lift_lets -underBinder); intro d_; try clear_value d_)
    | exact Eq.refl true
    | with_reducible refine Touches.andThen ?_ (by with_reducible exact onVid_touch ..) ?_
    | split
    | dsimp -zeta only
    | (split at ‹ite _ _ _ = (_, _)›)
    | (cases ‹(_, _) = (_, _)›)

theorem applyContribSet_touch (rcd : ContribRec) (pick : Nat) (d : Dev) :
    Touches [.vid] d (applyContribSet rcd pick d) := by
  unfold applyContribSet
  repeat' first
    | with_reducible assumption
    | with_reducible exact Touches.refl
    | exact Eq.refl true
    | with_reducible refine Touches.andThen ?_ (by with_reducible exact withContrib_touch ..) ?_
    | split
    | dsimp -zeta only
    | (split at ‹ite _ _ _ = (_, _)›)
    | (cases ‹(_, _) = (_, _)›)

theorem applySubscribeSet_touch (leg : Nat) (entries : List (Nat × Nat)) (d : Dev) :
    Touches [.vid] d (applySubscribeSet leg entries d) := by
  unfold applySubscribeSet
  repeat' first
    | with_reducible assumption
    | with_reducible exact Touches.refl
    | exact Eq.refl true
    | with_reducible refine Touches.andThen ?_ (by with_reducible exact onVid_touch ..) ?_
    | split
    | dsimp -zeta only
    | (split at ‹ite _ _ _ = (_, _)›)
    | (cases ‹(_, _) = (_, _)›)

theorem withLayout_touch (d : Dev) (r : LayoutRec) :
    Touches [.vid] d (withLayout d r) := by
  unfold withLayout
  repeat' first
    | with_reducible assumption
    | with_reducible exact Touches.refl
    | exact Eq.refl true
    | with_reducible refine Touches.andThen ?_ (by with_reducible exact onVid_touch ..) ?_
    | split
    | dsimp -zeta only
    | (split at ‹ite _ _ _ = (_, _)›)
    | (cases ‹(_, _) = (_, _)›)

theorem applyLayoutSet_touch (rcd : LayoutRec) (d : Dev) :
    Touches [.out, .sys, .past, .fold, .tm, .media, .vid] d (applyLayoutSet rcd d) := by
  unfold applyLayoutSet
  repeat' first
    | with_reducible assumption
    | with_reducible exact Touches.refl
    | ((try lift_lets -underBinder); intro d_; refine (have hd_ : Touches [.out, .sys, .past, .fold, .tm, .media, .vid] d d_ := ?_; ?_); (on_goal 1 => try dsimp only [d_]); (on_goal 2 => clear_value d_))
    | ((try lift_lets -underBinder); intro d_; try clear_value d_)
    | with_reducible apply Touches.foldl
    | (intro _ _ _)
    | exact Eq.refl true
    | with_reducible refine Touches.andThen ?_ (by with_reducible exact onStream_touch ..) ?_
    | with_reducible refine Touches.andThen ?_ (by with_reducible exact withLayout_touch ..) ?_
    | with_reducible refine Touches.andThen ?_ (by with_reducible exact requestPoint_touch ..) ?_
    | with_reducible refine Touches.andThen ?_ (by with_reducible exact joinStream_touch ..) ?_
    | split
    | dsimp -zeta only
    | (split at ‹ite _ _ _ = (_, _)›)
    | (cases ‹(_, _) = (_, _)›)

theorem applyLayoutClear_touch (layout : Nat) (d : Dev) :
    Touches [.vid] d (applyLayoutClear layout d) := by
  unfold applyLayoutClear
  repeat' first
    | with_reducible assumption
    | with_reducible exact Touches.refl
    | exact Eq.refl true
    | with_reducible refine Touches.andThen ?_ (by with_reducible exact onVid_touch ..) ?_
    | with_reducible refine Touches.andThen ?_ (by with_reducible exact streamsSweep_touch ..) ?_
    | split
    | dsimp -zeta only
    | (split at ‹ite _ _ _ = (_, _)›)
    | (cases ‹(_, _) = (_, _)›)

theorem applyVidConfig_touch (small mid large : Nat) (d : Dev) :
    Touches [.vid] d (applyVidConfig small mid large d) := by
  unfold applyVidConfig
  repeat' first
    | with_reducible assumption
    | with_reducible exact Touches.refl
    | exact Eq.refl true
    | with_reducible refine Touches.andThen ?_ (by with_reducible exact onVid_touch ..) ?_
    | split
    | dsimp -zeta only
    | (split at ‹ite _ _ _ = (_, _)›)
    | (cases ‹(_, _) = (_, _)›)

theorem applyIntraRequest_touch (kind a b : Nat) (d : Dev) :
    Touches [.out, .sys, .past, .fold, .tm, .media, .vid] d (applyIntraRequest kind a b d) := by
  unfold applyIntraRequest
  repeat' first
    | with_reducible assumption
    | with_reducible exact Touches.refl
    | ((try lift_lets -underBinder); intro d_; refine (have hd_ : Touches [.out, .sys, .past, .fold, .tm, .media, .vid] d d_ := ?_; ?_); (on_goal 1 => try dsimp only [d_]); (on_goal 2 => clear_value d_))
    | ((try lift_lets -underBinder); intro d_; try clear_value d_)
    | with_reducible apply Touches.foldl
    | (intro _ _ _)
    | exact Eq.refl true
    | with_reducible refine Touches.andThen ?_ (by with_reducible exact requestPoint_touch ..) ?_
    | with_reducible refine Touches.andThen ?_ (by with_reducible exact requestPli_touch ..) ?_
    | with_reducible refine Touches.andThen ?_ (by with_reducible exact requestIntra_touch ..) ?_
    | split
    | dsimp -zeta only
    | (split at ‹ite _ _ _ = (_, _)›)
    | (cases ‹(_, _) = (_, _)›)

end Sys2Proof.Machine
end

