-- ==== Sys2Proof/Laws/TouchLegMedia.lean ====
section
/-! SUPPORT. Which parts of the device the operations of Machine/LegMedia.lean touch. -/

namespace Sys2Proof.Machine

set_option linter.all false
set_option Elab.async false

theorem authPacket_touch (d : Dev) (n : Nat) (l : Leg) (p : RtpIn) (key : Nat) (ctrl : Bool) :
    Touches [.out, .sys, .fold, .media] d (authPacket d n l p key ctrl).2 := by
  unfold authPacket
  repeat' first
    | with_reducible assumption
    | with_reducible exact Touches.refl
    | ((try lift_lets -underBinder); intro d_; refine (have hd_ : Touches [.out, .sys, .fold, .media] d d_ := ?_; ?_); (on_goal 1 => try dsimp only [d_]); (on_goal 2 => clear_value d_))
    | ((try lift_lets -underBinder); intro d_; try clear_value d_)
    | exact Eq.refl true
    | with_reducible refine Touches.andThen ?_ (by with_reducible exact onLeg_touch ..) ?_
    | with_reducible refine Touches.andThen ?_ (by with_reducible exact legCount_touch ..) ?_
    | refine Touches.andThen ?_ (legUse_touch' (h_ := by assumption) ..) ?_
    | split
    | dsimp -zeta only
    | (split at ‹ite _ _ _ = (_, _)›)
    | (cases ‹(_, _) = (_, _)›)

theorem authPacket_touch' (d : Dev) (n : Nat) (l : Leg) (p : RtpIn) (key : Nat) (ctrl : Bool) {x0 e_} (h_ : authPacket d n l p key ctrl = (x0, e_)) : Touches [.out, .sys, .fold, .media] d e_ := by
  have := authPacket_touch d n l p key ctrl; rw [h_] at this; exact this

theorem receiverWantsIntra_touch (d : Dev) (n : Nat) (l : Leg) (ssrc : Nat) :
    Touches [.out, .sys, .past, .fold, .tm, .media, .vid] d (receiverWantsIntra d n l ssrc) := by
  unfold receiverWantsIntra
  repeat' first
    | with_reducible assumption
    | with_reducible exact Touches.refl
    | ((try lift_lets -underBinder); intro d_; refine (have hd_ : Touches [.out, .sys, .past, .fold, .tm, .media, .vid] d d_ := ?_; ?_); (on_goal 1 => try dsimp only [d_]); (on_goal 2 => clear_value d_))
    | ((try lift_lets -underBinder); intro d_; try clear_value d_)
    | exact Eq.refl true
    | with_reducible refine Touches.andThen ?_ (by with_reducible exact onVid_touch ..) ?_
    | with_reducible refine Touches.andThen ?_ (by with_reducible exact requestPli_touch ..) ?_
    | with_reducible refine Touches.andThen ?_ (by with_reducible exact requestPoint_touch ..) ?_
    | split
    | dsimp -zeta only
    | (split at ‹ite _ _ _ = (_, _)›)
    | (cases ‹(_, _) = (_, _)›)

theorem nackOne_touch (n ssrc : Nat) (d : Dev) (seq : Nat) :
    Touches [.out, .sys, .past, .tm, .media] d (nackOne n ssrc d seq) := by
  unfold nackOne
  repeat' first
    | with_reducible assumption
    | with_reducible exact Touches.refl
    | ((try lift_lets -underBinder); intro d_; refine (have hd_ : Touches [.out, .sys, .past, .tm, .media] d d_ := ?_; ?_); (on_goal 1 => try dsimp only [d_]); (on_goal 2 => clear_value d_))
    | ((try lift_lets -underBinder); intro d_; try clear_value d_)
    | exact Eq.refl true
    | with_reducible refine Touches.andThen ?_ (by with_reducible exact onLeg_touch ..) ?_
    | with_reducible refine Touches.andThen ?_ (by with_reducible exact legCount_touch ..) ?_
    | with_reducible refine Touches.andThen ?_ (by with_reducible exact legSend_touch ..) ?_
    | with_reducible refine Touches.andThen ?_ (by with_reducible exact txNote_touch ..) ?_
    | split
    | dsimp -zeta only
    | (split at ‹ite _ _ _ = (_, _)›)
    | (cases ‹(_, _) = (_, _)›)

theorem rtcpRx_touch (d : Dev) (n : Nat) (k : RtcpKind) :
    Touches [.out, .sys, .past, .fold, .tm, .media, .vid] d (rtcpRx d n k) := by
  unfold rtcpRx
  repeat' first
    | with_reducible assumption
    | with_reducible exact Touches.refl
    | ((try lift_lets -underBinder); intro d_; refine (have hd_ : Touches [.out, .sys, .past, .fold, .tm, .media, .vid] d d_ := ?_; ?_); (on_goal 1 => try dsimp only [d_]); (on_goal 2 => clear_value d_))
    | ((try lift_lets -underBinder); intro d_; try clear_value d_)
    | with_reducible apply Touches.foldl
    | (intro _ _ _)
    | exact Eq.refl true
    | with_reducible refine Touches.andThen ?_ (by with_reducible exact onLeg_touch ..) ?_
    | with_reducible refine Touches.andThen ?_ (by with_reducible exact nackOne_touch ..) ?_
    | with_reducible refine Touches.andThen ?_ (by with_reducible exact legCount_touch ..) ?_
    | with_reducible refine Touches.andThen ?_ (by with_reducible exact receiverWantsIntra_touch ..) ?_
    | split
    | dsimp -zeta only
    | (split at ‹ite _ _ _ = (_, _)›)
    | (cases ‹(_, _) = (_, _)›)

theorem jitterPut_touch (d : Dev) (n : Nat) (l : Leg) (p : RtpIn) :
    Touches [.media] d (jitterPut d n l p) := by
  unfold jitterPut
  repeat' first
    | with_reducible assumption
    | with_reducible exact Touches.refl
    | ((try lift_lets -underBinder); intro d_; refine (have hd_ : Touches [.media] d d_ := ?_; ?_); (on_goal 1 => try dsimp only [d_]); (on_goal 2 => clear_value d_))
    | ((try lift_lets -underBinder); intro d_; try clear_value d_)
    | exact Eq.refl true
    | with_reducible refine Touches.andThen ?_ (by with_reducible exact onLeg_touch ..) ?_
    | with_reducible refine Touches.andThen ?_ (by with_reducible exact legCount_touch ..) ?_
    | split
    | dsimp -zeta only
    | (split at ‹ite _ _ _ = (_, _)›)
    | (cases ‹(_, _) = (_, _)›)

theorem rtpAccept_touch (d : Dev) (n : Nat) (l : Leg) (p : RtpIn) (video : Bool) (y : LayerIn) :
    Touches [.freeCtr, .out, .sys, .past, .fold, .tm, .media, .vid] d (rtpAccept d n l p video y) := by
  unfold rtpAccept
  repeat' first
    | with_reducible assumption
    | with_reducible exact Touches.refl
    | ((try lift_lets -underBinder); intro d_; refine (have hd_ : Touches [.freeCtr, .out, .sys, .past, .fold, .tm, .media, .vid] d d_ := ?_; ?_); (on_goal 1 => try dsimp only [d_]); (on_goal 2 => clear_value d_))
    | ((try lift_lets -underBinder); intro d_; try clear_value d_)
    | exact Eq.refl true
    | with_reducible refine Touches.andThen ?_ (by with_reducible exact onLeg_touch ..) ?_
    | with_reducible refine Touches.andThen ?_ (by with_reducible exact onContrib_touch ..) ?_
    | with_reducible refine Touches.andThen ?_ (by with_reducible exact legCount_touch ..) ?_
    | with_reducible refine Touches.andThen ?_ (by with_reducible exact jitterPut_touch ..) ?_
    | with_reducible refine Touches.andThen ?_ (by with_reducible exact forwardPacket_touch ..) ?_
    | split
    | dsimp -zeta only
    | (split at ‹ite _ _ _ = (_, _)›)
    | (cases ‹(_, _) = (_, _)›)

theorem popOf_touch (d : Dev) (l : Leg) :
    Touches [.out, .sys, .flock, .integ] d (popOf d l) := by
  unfold popOf
  repeat' first
    | with_reducible assumption
    | with_reducible exact Touches.refl
    | ((try lift_lets -underBinder); intro d_; refine (have hd_ : Touches [.out, .sys, .flock, .integ] d d_ := ?_; ?_); (on_goal 1 => try dsimp only [d_]); (on_goal 2 => clear_value d_))
    | ((try lift_lets -underBinder); intro d_; try clear_value d_)
    | exact Eq.refl true
    | with_reducible refine Touches.andThen ?_ (by with_reducible exact mailboxPop_touch ..) ?_
    | split
    | dsimp -zeta only
    | (split at ‹ite _ _ _ = (_, _)›)
    | (cases ‹(_, _) = (_, _)›)

theorem legPacket_touch (n : Nat) (p : RtpIn) (rtcp : RtcpKind) (y : LayerIn) (d : Dev) :
    Touches [.freeCtr, .out, .sys, .rings, .past, .fold, .tm, .flock, .media, .vid, .integ] d (legPacket n p rtcp y d) := by
  unfold legPacket
  repeat' first
    | with_reducible assumption
    | with_reducible exact Touches.refl
    | ((try lift_lets -underBinder); intro d_; refine (have hd_ : Touches [.freeCtr, .out, .sys, .rings, .past, .fold, .tm, .flock, .media, .vid, .integ] d d_ := ?_; ?_); (on_goal 1 => try dsimp only [d_]); (on_goal 2 => clear_value d_))
    | ((try lift_lets -underBinder); intro d_; try clear_value d_)
    | exact Eq.refl true
    | with_reducible refine Touches.andThen ?_ (by with_reducible exact emit_touch ..) ?_
    | with_reducible refine Touches.andThen ?_ (by with_reducible exact popOf_touch ..) ?_
    | with_reducible refine Touches.andThen ?_ (by with_reducible exact legCount_touch ..) ?_
    | with_reducible refine Touches.andThen ?_ (by with_reducible exact hostDeliver_touch ..) ?_
    | with_reducible refine Touches.andThen ?_ (by with_reducible exact authPacket_touch ..) ?_
    | refine Touches.andThen ?_ (authPacket_touch' (h_ := by assumption) ..) ?_
    | with_reducible refine Touches.andThen ?_ (by with_reducible exact rtcpRx_touch ..) ?_
    | with_reducible refine Touches.andThen ?_ (by with_reducible exact rtpAccept_touch ..) ?_
    | with_reducible refine Touches.andThen ?_ (by with_reducible exact onLeg_touch ..) ?_
    | with_reducible refine Touches.andThen ?_ (by with_reducible exact legUse_touch ..) ?_
    | refine Touches.andThen ?_ (legUse_touch' (h_ := by assumption) ..) ?_
    | split
    | dsimp -zeta only
    | (split at ‹ite _ _ _ = (_, _)›)
    | (cases ‹(_, _) = (_, _)›)

theorem rekeyGraceEnd_touch (n : Nat) (d : Dev) :
    Touches [.fold, .media] d (rekeyGraceEnd n d) := by
  unfold rekeyGraceEnd
  repeat' first
    | with_reducible assumption
    | with_reducible exact Touches.refl
    | exact Eq.refl true
    | with_reducible refine Touches.andThen ?_ (by with_reducible exact onLeg_touch ..) ?_
    | with_reducible refine Touches.andThen ?_ (by with_reducible exact legKeySweep_touch ..) ?_
    | with_reducible refine Touches.andThen ?_ (by with_reducible exact saUnbind_touch ..) ?_
    | split
    | dsimp -zeta only
    | (split at ‹ite _ _ _ = (_, _)›)
    | (cases ‹(_, _) = (_, _)›)

theorem starve_touch (d : Dev) (n : Nat) (l : Leg) :
    Touches [.out, .sys, .media] d (starve d n l) := by
  unfold starve
  repeat' first
    | with_reducible assumption
    | with_reducible exact Touches.refl
    | ((try lift_lets -underBinder); intro d_; refine (have hd_ : Touches [.out, .sys, .media] d d_ := ?_; ?_); (on_goal 1 => try dsimp only [d_]); (on_goal 2 => clear_value d_))
    | ((try lift_lets -underBinder); intro d_; try clear_value d_)
    | exact Eq.refl true
    | with_reducible refine Touches.andThen ?_ (by with_reducible exact onLeg_touch ..) ?_
    | with_reducible refine Touches.andThen ?_ (by with_reducible exact legEvent_touch ..) ?_
    | split
    | dsimp -zeta only
    | (split at ‹ite _ _ _ = (_, _)›)
    | (cases ‹(_, _) = (_, _)›)

theorem toldCounts_touch (d : Dev) (t : List TxRec) : Touches [.freeCtr] d (toldCounts d t).2 := by
  unfold toldCounts
  split
  · exact .andThen (.mono (drawFree_touch d)) (drawFree_touch _)
  · exact .refl

theorem toldCounts_touch' (d : Dev) (t : List TxRec) {x0 e_} (h_ : toldCounts d t = (x0, e_)) : Touches [.freeCtr] d e_ := by
  have := toldCounts_touch d t; rw [h_] at this; exact this

theorem trendRun_touch (d : Dev) (l : List (Int × Int)) : Touches [.freeCtr] d (trendRun d l).2 := by
  unfold trendRun
  split
  · exact .refl
  · exact .mono (drawFree_touch d)

theorem trendRun_touch' (d : Dev) (l : List (Int × Int)) {x0 e_} (h_ : trendRun d l = (x0, e_)) : Touches [.freeCtr] d e_ := by
  have := trendRun_touch d l; rw [h_] at this; exact this

theorem measureRun_touch (d : Dev) (l : Leg) : Touches [.freeCtr] d (measureRun d l).2 := by
  unfold measureRun
  dsimp only
  split
  · exact .refl
  · exact .andThen (toldCounts_touch _ _) (trendRun_touch _ _)

theorem measureRun_touch' (d : Dev) (l : Leg) {x0 e_} (h_ : measureRun d l = (x0, e_)) : Touches [.freeCtr] d e_ := by
  have := measureRun_touch d l; rw [h_] at this; exact this

theorem switchPlis_touch (d : Dev) (a : Adapt) :
    Touches [.out, .sys, .past, .fold, .tm, .media] d (switchPlis d a) := by
  unfold switchPlis
  repeat' first
    | with_reducible assumption
    | with_reducible exact Touches.refl
    | with_reducible apply Touches.foldl
    | (intro _ _ _)
    | exact Eq.refl true
    | with_reducible refine Touches.andThen ?_ (by with_reducible exact requestPli_touch ..) ?_
    | split
    | dsimp -zeta only
    | (split at ‹ite _ _ _ = (_, _)›)
    | (cases ‹(_, _) = (_, _)›)

theorem followVariant_touch (d : Dev) (n : Nat) (l : Leg) :
    Touches [.out, .sys, .past, .fold, .tm, .media, .vid] d (followVariant d n l) := by
  unfold followVariant
  repeat' first
    | with_reducible assumption
    | with_reducible exact Touches.refl
    | ((try lift_lets -underBinder); intro d_; refine (have hd_ : Touches [.out, .sys, .past, .fold, .tm, .media, .vid] d d_ := ?_; ?_); (on_goal 1 => try dsimp only [d_]); (on_goal 2 => clear_value d_))
    | ((try lift_lets -underBinder); intro d_; try clear_value d_)
    | exact Eq.refl true
    | with_reducible refine Touches.andThen ?_ (by with_reducible exact joinStream_touch ..) ?_
    | split
    | dsimp -zeta only
    | (split at ‹ite _ _ _ = (_, _)›)
    | (cases ‹(_, _) = (_, _)›)

theorem adaptWith_touch (n : Nat) (m : Measures) (d : Dev) :
    Touches [.out, .memOut, .sys, .past, .fold, .tm, .media, .vid] d (adaptWith n m d) := by
  unfold adaptWith
  repeat' first
    | with_reducible assumption
    | with_reducible exact Touches.refl
    | ((try lift_lets -underBinder); intro d_; refine (have hd_ : Touches [.out, .memOut, .sys, .past, .fold, .tm, .media, .vid] d d_ := ?_; ?_); (on_goal 1 => try dsimp only [d_]); (on_goal 2 => clear_value d_))
    | ((try lift_lets -underBinder); intro d_; try clear_value d_)
    | exact Eq.refl true
    | with_reducible refine Touches.andThen ?_ (by with_reducible exact onLeg_touch ..) ?_
    | with_reducible refine Touches.andThen ?_ (by with_reducible exact starve_touch ..) ?_
    | with_reducible refine Touches.andThen ?_ (by with_reducible exact switchPlis_touch ..) ?_
    | with_reducible refine Touches.andThen ?_ (by with_reducible exact writeStatus_touch ..) ?_
    | with_reducible refine Touches.andThen ?_ (ifFits_touch (ps := [.out, .memOut, .sys, .past, .fold, .tm, .media, .vid]) ?_ ?_ ..) ?_
    | (intro _)
    | with_reducible refine Touches.andThen ?_ (by with_reducible exact followVariant_touch ..) ?_
    | split
    | dsimp -zeta only
    | (split at ‹ite _ _ _ = (_, _)›)
    | (cases ‹(_, _) = (_, _)›)

theorem adaptationRun_touch (n : Nat) (d : Dev) :
    Touches [.freeCtr, .out, .memOut, .sys, .past, .fold, .tm, .media, .vid] d (adaptationRun n d) := by
  unfold adaptationRun
  repeat' first
    | with_reducible assumption
    | with_reducible exact Touches.refl
    | ((try lift_lets -underBinder); intro d_; refine (have hd_ : Touches [.freeCtr, .out, .memOut, .sys, .past, .fold, .tm, .media, .vid] d d_ := ?_; ?_); (on_goal 1 => try dsimp only [d_]); (on_goal 2 => clear_value d_))
    | ((try lift_lets -underBinder); intro d_; try clear_value d_)
    | exact Eq.refl true
    | with_reducible refine Touches.andThen ?_ (by with_reducible exact measureRun_touch ..) ?_
    | refine Touches.andThen ?_ (measureRun_touch' (h_ := by assumption) ..) ?_
    | with_reducible refine Touches.andThen ?_ (by with_reducible exact adaptWith_touch ..) ?_
    | with_reducible refine Touches.andThen ?_ (by with_reducible exact toldCounts_touch ..) ?_
    | refine Touches.andThen ?_ (toldCounts_touch' (h_ := by assumption) ..) ?_
    | with_reducible refine Touches.andThen ?_ (by with_reducible exact trendRun_touch ..) ?_
    | refine Touches.andThen ?_ (trendRun_touch' (h_ := by assumption) ..) ?_
    | split
    | dsimp -zeta only
    | (split at ‹ite _ _ _ = (_, _)›)
    | (cases ‹(_, _) = (_, _)›)

theorem feedbackStarved_touch (n : Nat) (d : Dev) :
    Touches [.out, .memOut, .sys, .past, .media] d (feedbackStarved n d) := by
  unfold feedbackStarved
  repeat' first
    | with_reducible assumption
    | with_reducible exact Touches.refl
    | exact Eq.refl true
    | with_reducible refine Touches.andThen ?_ (by with_reducible exact writeStatus_touch ..) ?_
    | with_reducible refine Touches.andThen ?_ (by with_reducible exact starve_touch ..) ?_
    | split
    | dsimp -zeta only
    | (split at ‹ite _ _ _ = (_, _)›)
    | (cases ‹(_, _) = (_, _)›)

theorem feedbackReport_touch (n : Nat) (d : Dev) :
    Touches [.out, .sys, .past, .fold, .tm, .media] d (feedbackReport n d) := by
  unfold feedbackReport
  repeat' first
    | with_reducible assumption
    | with_reducible exact Touches.refl
    | ((try lift_lets -underBinder); intro d_; refine (have hd_ : Touches [.out, .sys, .past, .fold, .tm, .media] d d_ := ?_; ?_); (on_goal 1 => try dsimp only [d_]); (on_goal 2 => clear_value d_))
    | ((try lift_lets -underBinder); intro d_; try clear_value d_)
    | with_reducible apply Touches.foldl
    | (intro _ _ _)
    | exact Eq.refl true
    | with_reducible refine Touches.andThen ?_ (by with_reducible exact onLeg_touch ..) ?_
    | with_reducible refine Touches.andThen ?_ (by with_reducible exact sendRtcp_touch ..) ?_
    | split
    | dsimp -zeta only
    | (split at ‹ite _ _ _ = (_, _)›)
    | (cases ‹(_, _) = (_, _)›)

theorem nackSend_touch (n seq : Nat) (inTime : Bool) (d : Dev) :
    Touches [.out, .sys, .past, .fold, .tm, .media] d (nackSend n seq inTime d) := by
  unfold nackSend
  repeat' first
    | with_reducible assumption
    | with_reducible exact Touches.refl
    | ((try lift_lets -underBinder); intro d_; refine (have hd_ : Touches [.out, .sys, .past, .fold, .tm, .media] d d_ := ?_; ?_); (on_goal 1 => try dsimp only [d_]); (on_goal 2 => clear_value d_))
    | ((try lift_lets -underBinder); intro d_; try clear_value d_)
    | exact Eq.refl true
    | with_reducible refine Touches.andThen ?_ (by with_reducible exact onLeg_touch ..) ?_
    | with_reducible refine Touches.andThen ?_ (by with_reducible exact requestPli_touch ..) ?_
    | with_reducible refine Touches.andThen ?_ (by with_reducible exact legCount_touch ..) ?_
    | with_reducible refine Touches.andThen ?_ (by with_reducible exact sendRtcp_touch ..) ?_
    | split
    | dsimp -zeta only
    | (split at ‹ite _ _ _ = (_, _)›)
    | (cases ‹(_, _) = (_, _)›)

end Sys2Proof.Machine
end

