-- ==== Sys2Proof/Laws/TouchLegs.lean ====
section
/-! SUPPORT. Which parts of the device the operations of Machine/Legs.lean touch. -/

namespace Sys2Proof.Machine

set_option linter.all false
set_option Elab.async false

theorem legQueues_touch (d : Dev) (r : LegRec) {e_} (h_ : legQueues d r = some e_) : Touches [.tm] d e_ := by
  unfold legQueues at h_
  dsimp only at h_
  rw [Option.bind_eq_some_iff] at h_
  obtain ⟨m, h1, h2⟩ := h_
  have k1 : Touches [.tm] d m := by
    split at h1
    · rw [Option.map_eq_some_iff] at h1
      obtain ⟨⟨n, e⟩, h3, rfl⟩ := h1
      exact legAudioQueue_touch _ _ _ h3
    · cases h1; exact .refl
  refine .andThen k1 (?_ : Touches [.tm] m e_)
  split at h2
  · rw [Option.map_eq_some_iff] at h2
    obtain ⟨⟨n, e⟩, h3, rfl⟩ := h2
    exact legVideoQueue_touch _ _ _ h3
  · cases h2; exact .refl

theorem legQueues_getD (d : Dev) (r : LegRec) : Touches [.tm] d ((legQueues d r).getD d) := by
  cases h : legQueues d r with
  | none => exact .refl
  | some e => exact legQueues_touch d r h

theorem freeLegQueues_touch (d : Dev) :
    Touches [.tm] d (freeLegQueues d) := by
  unfold freeLegQueues
  repeat' first
    | with_reducible assumption
    | with_reducible exact Touches.refl
    | ((try lift_lets -underBinder); intro d_; refine (have hd_ : Touches [.tm] d d_ := ?_; ?_); (on_goal 1 => try dsimp only [d_]); (on_goal 2 => clear_value d_))
    | ((try lift_lets -underBinder); intro d_; try clear_value d_)
    | exact Eq.refl true
    | with_reducible refine Touches.andThen ?_ (by with_reducible exact freeOwned_touch ..) ?_
    | split
    | dsimp -zeta only
    | (split at ‹ite _ _ _ = (_, _)›)
    | (cases ‹(_, _) = (_, _)›)

theorem steerLeg_touch (d : Dev) (n : Nat) :
    Touches [.parse, .media] d (steerLeg d n) := by
  unfold steerLeg
  repeat' first
    | with_reducible assumption
    | with_reducible exact Touches.refl
    | ((try lift_lets -underBinder); intro d_; refine (have hd_ : Touches [.parse, .media] d d_ := ?_; ?_); (on_goal 1 => try dsimp only [d_]); (on_goal 2 => clear_value d_))
    | ((try lift_lets -underBinder); intro d_; try clear_value d_)
    | exact Eq.refl true
    | with_reducible refine Touches.andThen ?_ (by with_reducible exact onLeg_touch ..) ?_
    | with_reducible refine Touches.andThen ?_ (by with_reducible exact onParse_touch ..) ?_
    | split
    | dsimp -zeta only
    | (split at ‹ite _ _ _ = (_, _)›)
    | (cases ‹(_, _) = (_, _)›)

theorem bindIf_touch (d : Dev) (h : Nat) :
    Touches [.fold] d (bindIf d h) := by
  unfold bindIf
  repeat' first
    | with_reducible assumption
    | with_reducible exact Touches.refl
    | exact Eq.refl true
    | with_reducible refine Touches.andThen ?_ (by with_reducible exact saBind_touch ..) ?_
    | split
    | dsimp -zeta only
    | (split at ‹ite _ _ _ = (_, _)›)
    | (cases ‹(_, _) = (_, _)›)

theorem unbindIf_touch (d : Dev) (h : Nat) :
    Touches [.fold] d (unbindIf d h) := by
  unfold unbindIf
  repeat' first
    | with_reducible assumption
    | with_reducible exact Touches.refl
    | exact Eq.refl true
    | with_reducible refine Touches.andThen ?_ (by with_reducible exact saUnbind_touch ..) ?_
    | split
    | dsimp -zeta only
    | (split at ‹ite _ _ _ = (_, _)›)
    | (cases ‹(_, _) = (_, _)›)

theorem stagedLeg_touch (rcd : LegRec) (e : Nat) (d : Dev) :
    Touches [.out, .memOut, .sys, .past, .media] d (stagedLeg rcd e d) := by
  unfold stagedLeg
  repeat' first
    | with_reducible assumption
    | with_reducible exact Touches.refl
    | ((try lift_lets -underBinder); intro d_; refine (have hd_ : Touches [.out, .memOut, .sys, .past, .media] d d_ := ?_; ?_); (on_goal 1 => try dsimp only [d_]); (on_goal 2 => clear_value d_))
    | ((try lift_lets -underBinder); intro d_; try clear_value d_)
    | exact Eq.refl true
    | with_reducible refine Touches.andThen ?_ (by with_reducible exact onMedia_touch ..) ?_
    | with_reducible refine Touches.andThen ?_ (by with_reducible exact writeStatus_touch ..) ?_
    | split
    | dsimp -zeta only
    | (split at ‹ite _ _ _ = (_, _)›)
    | (cases ‹(_, _) = (_, _)›)

theorem applyLegCreate_touch (rcd : LegRec) (pick : Nat) (d : Dev) :
    Touches [.out, .memOut, .sys, .past, .fold, .parse, .tm, .media, .vid] d (applyLegCreate rcd pick d) := by
  unfold applyLegCreate
  repeat' first
    | with_reducible assumption
    | with_reducible exact Touches.refl
    | ((try lift_lets -underBinder); intro d_; refine (have hd_ : Touches [.out, .memOut, .sys, .past, .fold, .parse, .tm, .media, .vid] d d_ := ?_; ?_); (on_goal 1 => try dsimp only [d_]); (on_goal 2 => clear_value d_))
    | ((try lift_lets -underBinder); intro d_; try clear_value d_)
    | exact Eq.refl true
    | with_reducible refine Touches.andThen ?_ (by with_reducible exact onMedia_touch ..) ?_
    | with_reducible refine Touches.andThen ?_ (by with_reducible exact onConf_touch ..) ?_
    | with_reducible refine Touches.andThen ?_ (by with_reducible exact onLeg_touch ..) ?_
    | with_reducible refine Touches.andThen ?_ (by with_reducible exact bindIf_touch ..) ?_
    | with_reducible refine Touches.andThen ?_ (by with_reducible exact growReserve_touch ..) ?_
    | with_reducible refine Touches.andThen ?_ (by with_reducible exact steerLeg_touch ..) ?_
    | with_reducible refine Touches.andThen ?_ (by with_reducible exact writeStatus_touch ..) ?_
    | with_reducible refine Touches.andThen ?_ (by with_reducible exact followVariant_touch ..) ?_
    | with_reducible refine Touches.andThen ?_ (by with_reducible exact legQueues_getD ..) ?_
    | with_reducible refine Touches.andThen ?_ (by with_reducible exact OptTouch.getD (legQueues_opt ..)) ?_
    | split
    | dsimp -zeta only
    | (split at ‹ite _ _ _ = (_, _)›)
    | (cases ‹(_, _) = (_, _)›)

theorem detachLeg_touch (d : Dev) (n : Nat) :
    Touches [.parse, .aud, .vid] d (detachLeg d n) := by
  unfold detachLeg
  repeat' first
    | with_reducible assumption
    | with_reducible exact Touches.refl
    | ((try lift_lets -underBinder); intro d_; refine (have hd_ : Touches [.parse, .aud, .vid] d d_ := ?_; ?_); (on_goal 1 => try dsimp only [d_]); (on_goal 2 => clear_value d_))
    | ((try lift_lets -underBinder); intro d_; try clear_value d_)
    | exact Eq.refl true
    | with_reducible refine Touches.andThen ?_ (by with_reducible exact onParse_touch ..) ?_
    | with_reducible refine Touches.andThen ?_ (by with_reducible exact onAud_touch ..) ?_
    | with_reducible refine Touches.andThen ?_ (by with_reducible exact onVid_touch ..) ?_
    | with_reducible refine Touches.andThen ?_ (by with_reducible exact leaveStreams_touch ..) ?_
    | with_reducible refine Touches.andThen ?_ (by with_reducible exact dropSource_touch ..) ?_
    | split
    | dsimp -zeta only
    | (split at ‹ite _ _ _ = (_, _)›)
    | (cases ‹(_, _) = (_, _)›)

theorem freeLeg_touch (d : Dev) (n : Nat) :
    Touches [.out, .memOut, .sys, .past, .fold, .tm, .media] d (freeLeg d n) := by
  unfold freeLeg
  repeat' first
    | with_reducible assumption
    | with_reducible exact Touches.refl
    | ((try lift_lets -underBinder); intro d_; refine (have hd_ : Touches [.out, .memOut, .sys, .past, .fold, .tm, .media] d d_ := ?_; ?_); (on_goal 1 => try dsimp only [d_]); (on_goal 2 => clear_value d_))
    | ((try lift_lets -underBinder); intro d_; try clear_value d_)
    | with_reducible apply Touches.foldl
    | (intro _ _ _)
    | exact Eq.refl true
    | with_reducible refine Touches.andThen ?_ (by with_reducible exact onLeg_touch ..) ?_
    | with_reducible refine Touches.andThen ?_ (by with_reducible exact unbindIf_touch ..) ?_
    | with_reducible refine Touches.andThen ?_ (by with_reducible exact freeLegQueues_touch ..) ?_
    | with_reducible refine Touches.andThen ?_ (by with_reducible exact writeStatus_touch ..) ?_
    | split
    | dsimp -zeta only
    | (split at ‹ite _ _ _ = (_, _)›)
    | (cases ‹(_, _) = (_, _)›)

theorem drainLeg_touch (d : Dev) (n : Nat) :
    Touches [.out, .memOut, .sys, .past, .fold, .parse, .tm, .media, .aud, .vid] d (drainLeg d n) := by
  unfold drainLeg
  repeat' first
    | with_reducible assumption
    | with_reducible exact Touches.refl
    | exact Eq.refl true
    | with_reducible refine Touches.andThen ?_ (by with_reducible exact onLeg_touch ..) ?_
    | with_reducible refine Touches.andThen ?_ (by with_reducible exact freeLeg_touch ..) ?_
    | with_reducible refine Touches.andThen ?_ (by with_reducible exact detachLeg_touch ..) ?_
    | with_reducible refine Touches.andThen ?_ (by with_reducible exact setLegSt_touch ..) ?_
    | split
    | dsimp -zeta only
    | (split at ‹ite _ _ _ = (_, _)›)
    | (cases ‹(_, _) = (_, _)›)

theorem legDrainEnd_touch (n : Nat) (d : Dev) :
    Touches [.out, .memOut, .sys, .past, .fold, .tm, .media] d (legDrainEnd n d) := by
  unfold legDrainEnd
  repeat' first
    | with_reducible assumption
    | with_reducible exact Touches.refl
    | exact Eq.refl true
    | with_reducible refine Touches.andThen ?_ (by with_reducible exact freeLeg_touch ..) ?_
    | split
    | dsimp -zeta only
    | (split at ‹ite _ _ _ = (_, _)›)
    | (cases ‹(_, _) = (_, _)›)

theorem applyLegModify_touch (rcd : LegRec) (mask : Nat) (d : Dev) :
    Touches [.out, .sys, .past, .fold, .parse, .tm, .media, .vid] d (applyLegModify rcd mask d) := by
  unfold applyLegModify
  repeat' first
    | with_reducible assumption
    | with_reducible exact Touches.refl
    | ((try lift_lets -underBinder); intro d_; refine (have hd_ : Touches [.out, .sys, .past, .fold, .parse, .tm, .media, .vid] d d_ := ?_; ?_); (on_goal 1 => try dsimp only [d_]); (on_goal 2 => clear_value d_))
    | ((try lift_lets -underBinder); intro d_; try clear_value d_)
    | with_reducible apply Touches.foldl
    | (intro _ _ _)
    | exact Eq.refl true
    | with_reducible refine Touches.andThen ?_ (by with_reducible exact onMedia_touch ..) ?_
    | with_reducible refine Touches.andThen ?_ (by with_reducible exact onVid_touch ..) ?_
    | with_reducible refine Touches.andThen ?_ (by with_reducible exact onLeg_touch ..) ?_
    | with_reducible refine Touches.andThen ?_ (by with_reducible exact bindIf_touch ..) ?_
    | with_reducible refine Touches.andThen ?_ (by with_reducible exact unbindIf_touch ..) ?_
    | with_reducible refine Touches.andThen ?_ (by with_reducible exact freeLegQueues_touch ..) ?_
    | with_reducible refine Touches.andThen ?_ (by with_reducible exact dropSource_touch ..) ?_
    | with_reducible refine Touches.andThen ?_ (by with_reducible exact leaveStreams_touch ..) ?_
    | with_reducible refine Touches.andThen ?_ (by with_reducible exact legKeySweep_touch ..) ?_
    | with_reducible refine Touches.andThen ?_ (by with_reducible exact growReserve_touch ..) ?_
    | with_reducible refine Touches.andThen ?_ (by with_reducible exact steerLeg_touch ..) ?_
    | with_reducible refine Touches.andThen ?_ (by with_reducible exact followVariant_touch ..) ?_
    | with_reducible refine Touches.andThen ?_ (by with_reducible exact legQueues_getD ..) ?_
    | with_reducible refine Touches.andThen ?_ (by with_reducible exact OptTouch.getD (legQueues_opt ..)) ?_
    | split
    | dsimp -zeta only
    | (split at ‹ite _ _ _ = (_, _)›)
    | (cases ‹(_, _) = (_, _)›)

theorem applyLegDestroy_touch (leg : Nat) (d : Dev) :
    Touches [.out, .memOut, .sys, .past, .fold, .parse, .tm, .media, .aud, .vid] d (applyLegDestroy leg d) := by
  unfold applyLegDestroy
  repeat' first
    | with_reducible assumption
    | with_reducible exact Touches.refl
    | exact Eq.refl true
    | with_reducible refine Touches.andThen ?_ (by with_reducible exact drainLeg_touch ..) ?_
    | split
    | dsimp -zeta only
    | (split at ‹ite _ _ _ = (_, _)›)
    | (cases ‹(_, _) = (_, _)›)

theorem applyLegRekey_touch (leg saIn saOut : Nat) (d : Dev) :
    Touches [.fold, .media] d (applyLegRekey leg saIn saOut d) := by
  unfold applyLegRekey
  repeat' first
    | with_reducible assumption
    | with_reducible exact Touches.refl
    | ((try lift_lets -underBinder); intro d_; refine (have hd_ : Touches [.fold, .media] d d_ := ?_; ?_); (on_goal 1 => try dsimp only [d_]); (on_goal 2 => clear_value d_))
    | ((try lift_lets -underBinder); intro d_; try clear_value d_)
    | exact Eq.refl true
    | with_reducible refine Touches.andThen ?_ (by with_reducible exact onLeg_touch ..) ?_
    | with_reducible refine Touches.andThen ?_ (by with_reducible exact saUnbind_touch ..) ?_
    | with_reducible refine Touches.andThen ?_ (by with_reducible exact saBind_touch ..) ?_
    | with_reducible refine Touches.andThen ?_ (by with_reducible exact unbindIf_touch ..) ?_
    | with_reducible refine Touches.andThen ?_ (by with_reducible exact legKeySweep_touch ..) ?_
    | split
    | dsimp -zeta only
    | (split at ‹ite _ _ _ = (_, _)›)
    | (cases ‹(_, _) = (_, _)›)

theorem applyLegMigrate_touch (leg pick : Nat) (ctx : ReplyCtx × List Nat) (d : Dev) :
    Touches [.out, .memOut, .sys, .past, .media] d (applyLegMigrate leg pick ctx d).1 := by
  unfold applyLegMigrate
  repeat' first
    | with_reducible assumption
    | with_reducible exact Touches.refl
    | exact Eq.refl true
    | with_reducible refine Touches.andThen ?_ (by with_reducible exact onLeg_touch ..) ?_
    | with_reducible refine Touches.andThen ?_ (by with_reducible exact setLegSt_touch ..) ?_
    | split
    | dsimp -zeta only
    | (split at ‹ite _ _ _ = (_, _)›)
    | (cases ‹(_, _) = (_, _)›)

theorem applyLegMigrate_touch' (leg pick : Nat) (ctx : ReplyCtx × List Nat) (d : Dev) {e_ x1} (h_ : applyLegMigrate leg pick ctx d = (e_, x1)) : Touches [.out, .memOut, .sys, .past, .media] d e_ := by
  have := applyLegMigrate_touch leg pick ctx d; rw [h_] at this; exact this

theorem applyConfCreate_touch (rcd : ConfRec) (pick : Nat) (d : Dev) :
    Touches [.media] d (applyConfCreate rcd pick d) := by
  unfold applyConfCreate
  repeat' first
    | with_reducible assumption
    | with_reducible exact Touches.refl
    | exact Eq.refl true
    | with_reducible refine Touches.andThen ?_ (by with_reducible exact onMedia_touch ..) ?_
    | split
    | dsimp -zeta only
    | (split at ‹ite _ _ _ = (_, _)›)
    | (cases ‹(_, _) = (_, _)›)

theorem applyConfModify_touch (rcd : ConfRec) (mask pick : Nat) (ctx : ReplyCtx × List Nat) (d : Dev) :
    Touches [.media] d (applyConfModify rcd mask pick ctx d).1 := by
  unfold applyConfModify
  repeat' first
    | with_reducible assumption
    | with_reducible exact Touches.refl
    | ((try lift_lets -underBinder); intro d_; refine (have hd_ : Touches [.media] d d_ := ?_; ?_); (on_goal 1 => try dsimp only [d_]); (on_goal 2 => clear_value d_))
    | ((try lift_lets -underBinder); intro d_; try clear_value d_)
    | exact Eq.refl true
    | with_reducible refine Touches.andThen ?_ (by with_reducible exact onConf_touch ..) ?_
    | split
    | dsimp -zeta only
    | (split at ‹ite _ _ _ = (_, _)›)
    | (cases ‹(_, _) = (_, _)›)

theorem applyConfModify_touch' (rcd : ConfRec) (mask pick : Nat) (ctx : ReplyCtx × List Nat) (d : Dev) {e_ x1} (h_ : applyConfModify rcd mask pick ctx d = (e_, x1)) : Touches [.media] d e_ := by
  have := applyConfModify_touch rcd mask pick ctx d; rw [h_] at this; exact this

theorem applyConfDestroy_touch (conf : Nat) (d : Dev) :
    Touches [.out, .memOut, .sys, .past, .fold, .parse, .tm, .media, .aud, .vid] d (applyConfDestroy conf d) := by
  unfold applyConfDestroy
  repeat' first
    | with_reducible assumption
    | with_reducible exact Touches.refl
    | ((try lift_lets -underBinder); intro d_; refine (have hd_ : Touches [.out, .memOut, .sys, .past, .fold, .parse, .tm, .media, .aud, .vid] d d_ := ?_; ?_); (on_goal 1 => try dsimp only [d_]); (on_goal 2 => clear_value d_))
    | ((try lift_lets -underBinder); intro d_; try clear_value d_)
    | with_reducible apply Touches.foldl
    | (intro _ _ _)
    | exact Eq.refl true
    | with_reducible refine Touches.andThen ?_ (by with_reducible exact onAud_touch ..) ?_
    | with_reducible refine Touches.andThen ?_ (by with_reducible exact onMedia_touch ..) ?_
    | with_reducible refine Touches.andThen ?_ (by with_reducible exact drainLeg_touch ..) ?_
    | split
    | dsimp -zeta only
    | (split at ‹ite _ _ _ = (_, _)›)
    | (cases ‹(_, _) = (_, _)›)

theorem applyPlaceSet_touch (profile first : Nat) (engines : List Nat) (d : Dev) :
    Touches [.parse, .media] d (applyPlaceSet profile first engines d) := by
  unfold applyPlaceSet
  repeat' first
    | with_reducible assumption
    | with_reducible exact Touches.refl
    | ((try lift_lets -underBinder); intro d_; refine (have hd_ : Touches [.parse, .media] d d_ := ?_; ?_); (on_goal 1 => try dsimp only [d_]); (on_goal 2 => clear_value d_))
    | ((try lift_lets -underBinder); intro d_; try clear_value d_)
    | with_reducible apply Touches.foldl
    | (intro _ _ _)
    | exact Eq.refl true
    | with_reducible refine Touches.andThen ?_ (by with_reducible exact onParse_touch ..) ?_
    | with_reducible refine Touches.andThen ?_ (by with_reducible exact steerLeg_touch ..) ?_
    | split
    | dsimp -zeta only
    | (split at ‹ite _ _ _ = (_, _)›)
    | (cases ‹(_, _) = (_, _)›)

theorem applyStatusTableSet_touch (offset : Nat) (enable : Bool) (d : Dev) :
    Touches [.out, .memOut, .sys, .past, .media] d (applyStatusTableSet offset enable d) := by
  unfold applyStatusTableSet
  repeat' first
    | with_reducible assumption
    | with_reducible exact Touches.refl
    | ((try lift_lets -underBinder); intro d_; refine (have hd_ : Touches [.out, .memOut, .sys, .past, .media] d d_ := ?_; ?_); (on_goal 1 => try dsimp only [d_]); (on_goal 2 => clear_value d_))
    | ((try lift_lets -underBinder); intro d_; try clear_value d_)
    | with_reducible apply Touches.foldl
    | (intro _ _ _)
    | exact Eq.refl true
    | with_reducible refine Touches.andThen ?_ (by with_reducible exact onMedia_touch ..) ?_
    | with_reducible refine Touches.andThen ?_ (by with_reducible exact statusStore_touch ..) ?_
    | split
    | dsimp -zeta only
    | (split at ‹ite _ _ _ = (_, _)›)
    | (cases ‹(_, _) = (_, _)›)

theorem onMove_touch (d : Dev) (kind n : Nat) (f : Option Move → Option Move) :
    Touches [.media, .aud, .imc] d (onMove d kind n f) := by
  unfold onMove
  repeat' first
    | with_reducible assumption
    | with_reducible exact Touches.refl
    | ((try lift_lets -underBinder); intro d_; refine (have hd_ : Touches [.media, .aud, .imc] d d_ := ?_; ?_); (on_goal 1 => try dsimp only [d_]); (on_goal 2 => clear_value d_))
    | ((try lift_lets -underBinder); intro d_; try clear_value d_)
    | exact Eq.refl true
    | with_reducible refine Touches.andThen ?_ (by with_reducible exact onLeg_touch ..) ?_
    | with_reducible refine Touches.andThen ?_ (by with_reducible exact onConf_touch ..) ?_
    | with_reducible refine Touches.andThen ?_ (by with_reducible exact onRoute_touch ..) ?_
    | with_reducible refine Touches.andThen ?_ (by with_reducible exact onTrunk_touch ..) ?_
    | split
    | dsimp -zeta only
    | (split at ‹ite _ _ _ = (_, _)›)
    | (cases ‹(_, _) = (_, _)›)

theorem endMove_touch (d : Dev) (kind n : Nat) (dest : Option Nat) :
    Touches [.out, .memOut, .sys, .past, .parse, .media, .aud, .imc] d (endMove d kind n dest) := by
  unfold endMove
  repeat' first
    | with_reducible assumption
    | with_reducible exact Touches.refl
    | exact Eq.refl true
    | with_reducible refine Touches.andThen ?_ (by with_reducible exact onLeg_touch ..) ?_
    | with_reducible refine Touches.andThen ?_ (by with_reducible exact onConf_touch ..) ?_
    | with_reducible refine Touches.andThen ?_ (by with_reducible exact onRoute_touch ..) ?_
    | with_reducible refine Touches.andThen ?_ (by with_reducible exact onTrunk_touch ..) ?_
    | with_reducible refine Touches.andThen ?_ (by with_reducible exact setLegSt_touch ..) ?_
    | with_reducible refine Touches.andThen ?_ (by with_reducible exact steerLeg_touch ..) ?_
    | split
    | dsimp -zeta only
    | (split at ‹ite _ _ _ = (_, _)›)
    | (cases ‹(_, _) = (_, _)›)

theorem moveReply_touch (d : Dev) (m : Move) (st : Status) :
    Touches [.out, .sys, .rings, .sess] d (moveReply d m st) := by
  unfold moveReply
  repeat' first
    | with_reducible assumption
    | with_reducible exact Touches.refl
    | exact Eq.refl true
    | with_reducible refine Touches.andThen ?_ (by with_reducible exact answer_touch ..) ?_
    | with_reducible refine Touches.andThen ?_ (by with_reducible exact epochDone_touch ..) ?_
    | split
    | dsimp -zeta only
    | (split at ‹ite _ _ _ = (_, _)›)
    | (cases ‹(_, _) = (_, _)›)

theorem endFailed_touch (kind : Nat) (d : Dev) (n : Nat) :
    Touches [.out, .memOut, .sys, .rings, .sess, .past, .parse, .media, .aud, .imc] d (endFailed kind d n) := by
  unfold endFailed
  repeat' first
    | with_reducible assumption
    | with_reducible exact Touches.refl
    | ((try lift_lets -underBinder); intro d_; refine (have hd_ : Touches [.out, .memOut, .sys, .rings, .sess, .past, .parse, .media, .aud, .imc] d d_ := ?_; ?_); (on_goal 1 => try dsimp only [d_]); (on_goal 2 => clear_value d_))
    | ((try lift_lets -underBinder); intro d_; try clear_value d_)
    | exact Eq.refl true
    | with_reducible refine Touches.andThen ?_ (by with_reducible exact onLeg_touch ..) ?_
    | with_reducible refine Touches.andThen ?_ (by with_reducible exact endMove_touch ..) ?_
    | with_reducible refine Touches.andThen ?_ (by with_reducible exact legEvent_touch ..) ?_
    | with_reducible refine Touches.andThen ?_ (by with_reducible exact writeStatus_touch ..) ?_
    | with_reducible refine Touches.andThen ?_ (by with_reducible exact moveReply_touch ..) ?_
    | split
    | dsimp -zeta only
    | (split at ‹ite _ _ _ = (_, _)›)
    | (cases ‹(_, _) = (_, _)›)

theorem migrationHandover_touch (kind n : Nat) (crcEqual : Bool) (d : Dev) :
    Touches [.out, .memOut, .sys, .rings, .sess, .past, .parse, .media, .aud, .imc] d (migrationHandover kind n crcEqual d) := by
  unfold migrationHandover
  repeat' first
    | with_reducible assumption
    | with_reducible exact Touches.refl
    | ((try lift_lets -underBinder); intro d_; refine (have hd_ : Touches [.out, .memOut, .sys, .rings, .sess, .past, .parse, .media, .aud, .imc] d d_ := ?_; ?_); (on_goal 1 => try dsimp only [d_]); (on_goal 2 => clear_value d_))
    | ((try lift_lets -underBinder); intro d_; try clear_value d_)
    | exact Eq.refl true
    | with_reducible refine Touches.andThen ?_ (by with_reducible exact onLeg_touch ..) ?_
    | with_reducible refine Touches.andThen ?_ (by with_reducible exact legEvent_touch ..) ?_
    | with_reducible refine Touches.andThen ?_ (by with_reducible exact legCount_touch ..) ?_
    | with_reducible refine Touches.andThen ?_ (by with_reducible exact moveReply_touch ..) ?_
    | with_reducible refine Touches.andThen ?_ (by with_reducible exact endMove_touch ..) ?_
    | split
    | dsimp -zeta only
    | (split at ‹ite _ _ _ = (_, _)›)
    | (cases ‹(_, _) = (_, _)›)

end Sys2Proof.Machine
end

