-- ==== Sys2Proof/Laws/TouchFlock.lean ====
section
/-! SUPPORT. Which parts of the device the operations of Machine/Flock.lean touch. -/

namespace Sys2Proof.Machine

set_option linter.all false
set_option Elab.async false

theorem noteOverrun_touch (d : Dev) (e : Nat) (legs : List Nat) :
    Touches [.out, .sys, .bell, .tick, .flock, .media] d (noteOverrun d e legs) := by
  unfold noteOverrun
  repeat' first
    | with_reducible assumption
    | with_reducible exact Touches.refl
    | ((try lift_lets -underBinder); intro d_; refine (have hd_ : Touches [.out, .sys, .bell, .tick, .flock, .media] d d_ := ?_; ?_); (on_goal 1 => try dsimp only [d_]); (on_goal 2 => clear_value d_))
    | ((try lift_lets -underBinder); intro d_; try clear_value d_)
    | with_reducible apply Touches.foldl
    | (intro _ _ _)
    | exact Eq.refl true
    | with_reducible refine onBell_step ?_ ?_ ?_
    | with_reducible refine Touches.andThen ?_ (by with_reducible exact onEng_touch ..) ?_
    | with_reducible refine Touches.andThen ?_ (by with_reducible exact raiseLeaf_touch ..) ?_
    | with_reducible refine Touches.andThen ?_ (by with_reducible exact legCount_touch ..) ?_
    | exact partOr_left rfl
    | exact .inr rfl
    | exact .inr (by (repeat' split) <;> rfl)
    | split
    | dsimp -zeta only
    | (split at ‹ite _ _ _ = (_, _)›)
    | (cases ‹(_, _) = (_, _)›)

theorem loseLeg_touch (d : Dev) (n : Nat) :
    Touches [.out, .memOut, .sys, .past, .media] d (loseLeg d n) := by
  unfold loseLeg
  repeat' first
    | with_reducible assumption
    | with_reducible exact Touches.refl
    | exact Eq.refl true
    | with_reducible refine Touches.andThen ?_ (by with_reducible exact legEvent_touch ..) ?_
    | with_reducible refine Touches.andThen ?_ (by with_reducible exact setLegSt_touch ..) ?_
    | split
    | dsimp -zeta only
    | (split at ‹ite _ _ _ = (_, _)›)
    | (cases ‹(_, _) = (_, _)›)

theorem resumeOn_touch (d : Dev) (n e : Nat) :
    Touches [.out, .memOut, .sys, .past, .media, .aud, .vid] d (resumeOn d n e) := by
  unfold resumeOn
  repeat' first
    | with_reducible assumption
    | with_reducible exact Touches.refl
    | ((try lift_lets -underBinder); intro d_; refine (have hd_ : Touches [.out, .memOut, .sys, .past, .media, .aud, .vid] d d_ := ?_; ?_); (on_goal 1 => try dsimp only [d_]); (on_goal 2 => clear_value d_))
    | ((try lift_lets -underBinder); intro d_; try clear_value d_)
    | exact Eq.refl true
    | with_reducible refine Touches.andThen ?_ (by with_reducible exact onAud_touch ..) ?_
    | with_reducible refine Touches.andThen ?_ (by with_reducible exact onLeg_touch ..) ?_
    | with_reducible refine Touches.andThen ?_ (by with_reducible exact freezeSource_touch ..) ?_
    | with_reducible refine Touches.andThen ?_ (by with_reducible exact setLegSt_touch ..) ?_
    | split
    | dsimp -zeta only
    | (split at ‹ite _ _ _ = (_, _)›)
    | (cases ‹(_, _) = (_, _)›)

theorem restoreLeg_touch (d : Dev) (n : Nat) (failed : List Nat) (spare : Option Nat) :
    Touches [.out, .memOut, .sys, .past, .media, .aud, .vid] d (restoreLeg d n failed spare) := by
  unfold restoreLeg
  repeat' first
    | with_reducible assumption
    | with_reducible exact Touches.refl
    | ((try lift_lets -underBinder); intro d_; refine (have hd_ : Touches [.out, .memOut, .sys, .past, .media, .aud, .vid] d d_ := ?_; ?_); (on_goal 1 => try dsimp only [d_]); (on_goal 2 => clear_value d_))
    | ((try lift_lets -underBinder); intro d_; try clear_value d_)
    | exact Eq.refl true
    | with_reducible refine Touches.andThen ?_ (by with_reducible exact resumeOn_touch ..) ?_
    | with_reducible refine Touches.andThen ?_ (by with_reducible exact loseLeg_touch ..) ?_
    | split
    | dsimp -zeta only
    | (split at ‹ite _ _ _ = (_, _)›)
    | (cases ‹(_, _) = (_, _)›)

theorem failLeg_touch (e : Nat) (spare : Bool) (d : Dev) (n : Nat) :
    Touches [.out, .memOut, .sys, .rings, .sess, .past, .media, .aud, .vid, .imc] d (failLeg e spare d n) := by
  unfold failLeg
  repeat' first
    | with_reducible assumption
    | with_reducible exact Touches.refl
    | ((try lift_lets -underBinder); intro d_; refine (have hd_ : Touches [.out, .memOut, .sys, .rings, .sess, .past, .media, .aud, .vid, .imc] d d_ := ?_; ?_); (on_goal 1 => try dsimp only [d_]); (on_goal 2 => clear_value d_))
    | ((try lift_lets -underBinder); intro d_; try clear_value d_)
    | exact Eq.refl true
    | with_reducible refine Touches.andThen ?_ (by with_reducible exact onLeg_touch ..) ?_
    | with_reducible refine Touches.andThen ?_ (by with_reducible exact restoreLeg_touch ..) ?_
    | with_reducible refine Touches.andThen ?_ (by with_reducible exact moveReply_touch ..) ?_
    | with_reducible refine Touches.andThen ?_ (by with_reducible exact onMove_touch ..) ?_
    | with_reducible refine Touches.andThen ?_ (by with_reducible exact resumeOn_touch ..) ?_
    | split
    | dsimp -zeta only
    | (split at ‹ite _ _ _ = (_, _)›)
    | (cases ‹(_, _) = (_, _)›)

theorem setRestore_touch (d : Dev) (kind n : Nat) (t : Option (BitVec 64)) :
    Touches [.media, .aud, .imc] d (setRestore d kind n t) := by
  unfold setRestore
  repeat' first
    | with_reducible assumption
    | with_reducible exact Touches.refl
    | ((try lift_lets -underBinder); intro d_; refine (have hd_ : Touches [.media, .aud, .imc] d d_ := ?_; ?_); (on_goal 1 => try dsimp only [d_]); (on_goal 2 => clear_value d_))
    | ((try lift_lets -underBinder); intro d_; try clear_value d_)
    | exact Eq.refl true
    | with_reducible refine Touches.andThen ?_ (by with_reducible exact onConf_touch ..) ?_
    | with_reducible refine Touches.andThen ?_ (by with_reducible exact onRoute_touch ..) ?_
    | with_reducible refine Touches.andThen ?_ (by with_reducible exact onTrunk_touch ..) ?_
    | split
    | dsimp -zeta only
    | (split at ‹ite _ _ _ = (_, _)›)
    | (cases ‹(_, _) = (_, _)›)

theorem failOther_touch (e : Nat) (spare : Bool) (kind n : Nat) (home : Option Nat) (c : Nat × Nat) (start : Option Nat) (d : Dev) :
    Touches [.out, .memOut, .sys, .rings, .sess, .past, .parse, .media, .aud, .imc] d (failOther e spare kind n home c start d) := by
  unfold failOther
  dsimp only
  repeat' first
    | with_reducible assumption
    | with_reducible exact Touches.refl
    | ((try lift_lets -underBinder); intro d_; refine (have hd_ : Touches [.out, .memOut, .sys, .rings, .sess, .past, .parse, .media, .aud, .imc] d d_ := ?_; ?_); (on_goal 1 => try dsimp only [d_]); (on_goal 2 => clear_value d_))
    | ((try lift_lets -underBinder); intro d_; try clear_value d_)
    | exact Eq.refl true
    | with_reducible refine Touches.andThen ?_ (by with_reducible exact onConf_touch ..) ?_
    | with_reducible refine Touches.andThen ?_ (by with_reducible exact setRestore_touch ..) ?_
    | with_reducible refine Touches.andThen ?_ (by with_reducible exact endMove_touch ..) ?_
    | with_reducible refine Touches.andThen ?_ (by with_reducible exact legEvent_touch ..) ?_
    | with_reducible refine Touches.andThen ?_ (by with_reducible exact moveReply_touch ..) ?_
    | with_reducible refine Touches.andThen ?_ (by with_reducible exact onMove_touch ..) ?_
    | split
    | dsimp -zeta only
    | (split at ‹ite _ _ _ = (_, _)›)
    | (cases ‹(_, _) = (_, _)›)

theorem failMix_touch (e : Nat) (spare : Bool) (d : Dev) (n : Nat) :
    Touches [.out, .memOut, .sys, .rings, .sess, .past, .parse, .media, .aud, .imc] d (failMix e spare d n) := by
  unfold failMix
  repeat' first
    | with_reducible assumption
    | with_reducible exact Touches.refl
    | ((try lift_lets -underBinder); intro d_; refine (have hd_ : Touches [.out, .memOut, .sys, .rings, .sess, .past, .parse, .media, .aud, .imc] d d_ := ?_; ?_); (on_goal 1 => try dsimp only [d_]); (on_goal 2 => clear_value d_))
    | ((try lift_lets -underBinder); intro d_; try clear_value d_)
    | exact Eq.refl true
    | with_reducible refine Touches.andThen ?_ (by with_reducible exact failOther_touch ..) ?_
    | split
    | dsimp -zeta only
    | (split at ‹ite _ _ _ = (_, _)›)
    | (cases ‹(_, _) = (_, _)›)

theorem failRoute_touch (e : Nat) (spare : Bool) (d : Dev) (n : Nat) :
    Touches [.out, .memOut, .sys, .rings, .sess, .past, .parse, .media, .aud, .imc] d (failRoute e spare d n) := by
  unfold failRoute
  repeat' first
    | with_reducible assumption
    | with_reducible exact Touches.refl
    | ((try lift_lets -underBinder); intro d_; refine (have hd_ : Touches [.out, .memOut, .sys, .rings, .sess, .past, .parse, .media, .aud, .imc] d d_ := ?_; ?_); (on_goal 1 => try dsimp only [d_]); (on_goal 2 => clear_value d_))
    | ((try lift_lets -underBinder); intro d_; try clear_value d_)
    | exact Eq.refl true
    | with_reducible refine Touches.andThen ?_ (by with_reducible exact failOther_touch ..) ?_
    | split
    | dsimp -zeta only
    | (split at ‹ite _ _ _ = (_, _)›)
    | (cases ‹(_, _) = (_, _)›)

theorem failTrunk_touch (e : Nat) (spare : Bool) (d : Dev) (n : Nat) :
    Touches [.out, .memOut, .sys, .rings, .sess, .past, .parse, .media, .aud, .imc] d (failTrunk e spare d n) := by
  unfold failTrunk
  repeat' first
    | with_reducible assumption
    | with_reducible exact Touches.refl
    | ((try lift_lets -underBinder); intro d_; refine (have hd_ : Touches [.out, .memOut, .sys, .rings, .sess, .past, .parse, .media, .aud, .imc] d d_ := ?_; ?_); (on_goal 1 => try dsimp only [d_]); (on_goal 2 => clear_value d_))
    | ((try lift_lets -underBinder); intro d_; try clear_value d_)
    | exact Eq.refl true
    | with_reducible refine Touches.andThen ?_ (by with_reducible exact failOther_touch ..) ?_
    | split
    | dsimp -zeta only
    | (split at ‹ite _ _ _ = (_, _)›)
    | (cases ‹(_, _) = (_, _)›)

theorem recoverAll_touch (e : Nat) (spare : Bool) (d : Dev) :
    Touches [.out, .memOut, .sys, .rings, .sess, .past, .parse, .media, .aud, .vid, .imc] d (recoverAll e spare d) := by
  unfold recoverAll
  repeat' first
    | with_reducible assumption
    | with_reducible exact Touches.refl
    | ((try lift_lets -underBinder); intro d_; refine (have hd_ : Touches [.out, .memOut, .sys, .rings, .sess, .past, .parse, .media, .aud, .vid, .imc] d d_ := ?_; ?_); (on_goal 1 => try dsimp only [d_]); (on_goal 2 => clear_value d_))
    | ((try lift_lets -underBinder); intro d_; try clear_value d_)
    | with_reducible apply Touches.foldl
    | (intro _ _ _)
    | exact Eq.refl true
    | with_reducible refine Touches.andThen ?_ (by with_reducible exact failLeg_touch ..) ?_
    | with_reducible refine Touches.andThen ?_ (by with_reducible exact failMix_touch ..) ?_
    | with_reducible refine Touches.andThen ?_ (by with_reducible exact failRoute_touch ..) ?_
    | with_reducible refine Touches.andThen ?_ (by with_reducible exact failTrunk_touch ..) ?_
    | split
    | dsimp -zeta only
    | (split at ‹ite _ _ _ = (_, _)›)
    | (cases ‹(_, _) = (_, _)›)

theorem imageStored_touch (img : ImageDesc) (d : Dev) (e : Nat) :
    Touches [.out, .sys, .integ] d (imageStored img d e) := by
  unfold imageStored
  repeat' first
    | with_reducible assumption
    | with_reducible exact Touches.refl
    | ((try lift_lets -underBinder); intro d_; refine (have hd_ : Touches [.out, .sys, .integ] d d_ := ?_; ?_); (on_goal 1 => try dsimp only [d_]); (on_goal 2 => clear_value d_))
    | ((try lift_lets -underBinder); intro d_; try clear_value d_)
    | exact Eq.refl true
    | with_reducible refine Touches.andThen ?_ (by with_reducible exact localStored_touch ..) ?_
    | split
    | dsimp -zeta only
    | (split at ‹ite _ _ _ = (_, _)›)
    | (cases ‹(_, _) = (_, _)›)

theorem reloadGroup_touch (d : Dev) (g : Nat) :
    Touches [.flock] d (reloadGroup d g) := by
  unfold reloadGroup
  repeat' first
    | with_reducible assumption
    | with_reducible exact Touches.refl
    | ((try lift_lets -underBinder); intro d_; refine (have hd_ : Touches [.flock] d d_ := ?_; ?_); (on_goal 1 => try dsimp only [d_]); (on_goal 2 => clear_value d_))
    | ((try lift_lets -underBinder); intro d_; try clear_value d_)
    | with_reducible apply Touches.foldl
    | (intro _ _ _)
    | exact Eq.refl true
    | with_reducible refine Touches.andThen ?_ (by with_reducible exact onEng_touch ..) ?_
    | split
    | dsimp -zeta only
    | (split at ‹ite _ _ _ = (_, _)›)
    | (cases ‹(_, _) = (_, _)›)

theorem engineFail_touch (e : Nat) (d : Dev) :
    Touches [.out, .memOut, .sys, .rings, .sess, .past, .parse, .flock, .media, .aud, .vid, .imc] d (engineFail e d) := by
  unfold engineFail
  repeat' first
    | with_reducible assumption
    | with_reducible exact Touches.refl
    | ((try lift_lets -underBinder); intro d_; refine (have hd_ : Touches [.out, .memOut, .sys, .rings, .sess, .past, .parse, .flock, .media, .aud, .vid, .imc] d d_ := ?_; ?_); (on_goal 1 => try dsimp only [d_]); (on_goal 2 => clear_value d_))
    | ((try lift_lets -underBinder); intro d_; try clear_value d_)
    | exact Eq.refl true
    | with_reducible refine Touches.andThen ?_ (by with_reducible exact onFGroup_touch ..) ?_
    | with_reducible refine Touches.andThen ?_ (by with_reducible exact onEng_touch ..) ?_
    | with_reducible refine Touches.andThen ?_ (by with_reducible exact raiseLeaf_touch ..) ?_
    | with_reducible refine Touches.andThen ?_ (by with_reducible exact recoverAll_touch ..) ?_
    | split
    | dsimp -zeta only
    | (split at ‹ite _ _ _ = (_, _)›)
    | (cases ‹(_, _) = (_, _)›)

theorem engineFailed_touch (e : Nat) (d : Dev) :
    Touches [.out, .memOut, .sys, .rings, .sess, .bell, .tick, .past, .parse, .flock, .media, .aud, .vid, .imc] d (engineFailed e d) := by
  unfold engineFailed
  repeat' first
    | with_reducible assumption
    | with_reducible exact Touches.refl
    | ((try lift_lets -underBinder); intro d_; refine (have hd_ : Touches [.out, .memOut, .sys, .rings, .sess, .bell, .tick, .past, .parse, .flock, .media, .aud, .vid, .imc] d d_ := ?_; ?_); (on_goal 1 => try dsimp only [d_]); (on_goal 2 => clear_value d_))
    | ((try lift_lets -underBinder); intro d_; try clear_value d_)
    | exact Eq.refl true
    | with_reducible refine Touches.andThen ?_ (by with_reducible exact onFlock_touch ..) ?_
    | with_reducible refine Touches.andThen ?_ (by with_reducible exact noteOverrun_touch ..) ?_
    | with_reducible refine Touches.andThen ?_ (by with_reducible exact engineFail_touch ..) ?_
    | split
    | dsimp -zeta only
    | (split at ‹ite _ _ _ = (_, _)›)
    | (cases ‹(_, _) = (_, _)›)

theorem releaseFailures_touch (d : Dev) :
    Touches [.out, .memOut, .sys, .rings, .sess, .past, .parse, .flock, .media, .aud, .vid, .imc] d (releaseFailures d) := by
  unfold releaseFailures
  repeat' first
    | with_reducible assumption
    | with_reducible exact Touches.refl
    | ((try lift_lets -underBinder); intro d_; refine (have hd_ : Touches [.out, .memOut, .sys, .rings, .sess, .past, .parse, .flock, .media, .aud, .vid, .imc] d d_ := ?_; ?_); (on_goal 1 => try dsimp only [d_]); (on_goal 2 => clear_value d_))
    | ((try lift_lets -underBinder); intro d_; try clear_value d_)
    | with_reducible apply Touches.foldl
    | (intro _ _ _)
    | exact Eq.refl true
    | with_reducible refine Touches.andThen ?_ (by with_reducible exact onFlock_touch ..) ?_
    | with_reducible refine Touches.andThen ?_ (by with_reducible exact engineFail_touch ..) ?_
    | split
    | dsimp -zeta only
    | (split at ‹ite _ _ _ = (_, _)›)
    | (cases ‹(_, _) = (_, _)›)

theorem resumeLeg_touch (d : Dev) (n : Nat) :
    Touches [.out, .memOut, .sys, .rings, .sess, .past, .fold, .parse, .tm, .media, .vid] d (resumeLeg d n) := by
  unfold resumeLeg
  repeat' first
    | with_reducible assumption
    | with_reducible exact Touches.refl
    | ((try lift_lets -underBinder); intro d_; refine (have hd_ : Touches [.out, .memOut, .sys, .rings, .sess, .past, .fold, .parse, .tm, .media, .vid] d d_ := ?_; ?_); (on_goal 1 => try dsimp only [d_]); (on_goal 2 => clear_value d_))
    | ((try lift_lets -underBinder); intro d_; try clear_value d_)
    | exact Eq.refl true
    | with_reducible refine Touches.andThen ?_ (by with_reducible exact onLeg_touch ..) ?_
    | with_reducible refine Touches.andThen ?_ (by with_reducible exact legEvent_touch ..) ?_
    | with_reducible refine Touches.andThen ?_ (by with_reducible exact writeStatus_touch ..) ?_
    | with_reducible refine Touches.andThen ?_ (by with_reducible exact steerLeg_touch ..) ?_
    | with_reducible refine Touches.andThen ?_ (by with_reducible exact thawSource_touch ..) ?_
    | with_reducible refine Touches.andThen ?_ (by with_reducible exact requestPli_touch ..) ?_
    | with_reducible refine Touches.andThen ?_ (by with_reducible exact moveReply_touch ..) ?_
    | split
    | dsimp -zeta only
    | (split at ‹ite _ _ _ = (_, _)›)
    | (cases ‹(_, _) = (_, _)›)

theorem resumeOthers_touch (d : Dev) :
    Touches [.media, .aud, .imc] d (resumeOthers d) := by
  unfold resumeOthers
  repeat' first
    | with_reducible assumption
    | with_reducible exact Touches.refl
    | ((try lift_lets -underBinder); intro d_; refine (have hd_ : Touches [.media, .aud, .imc] d d_ := ?_; ?_); (on_goal 1 => try dsimp only [d_]); (on_goal 2 => clear_value d_))
    | ((try lift_lets -underBinder); intro d_; try clear_value d_)
    | exact Eq.refl true
    | with_reducible refine Touches.andThen ?_ (by with_reducible exact onImc_touch ..) ?_
    | with_reducible refine Touches.andThen ?_ (by with_reducible exact onAud_touch ..) ?_
    | with_reducible refine Touches.andThen ?_ (by with_reducible exact onMedia_touch ..) ?_
    | split
    | dsimp -zeta only
    | (split at ‹ite _ _ _ = (_, _)›)
    | (cases ‹(_, _) = (_, _)›)

theorem endFailedMoves_touch (d : Dev) :
    Touches [.out, .memOut, .sys, .rings, .sess, .past, .parse, .media, .aud, .imc] d (endFailedMoves d) := by
  unfold endFailedMoves
  repeat' first
    | with_reducible assumption
    | with_reducible exact Touches.refl
    | ((try lift_lets -underBinder); intro d_; refine (have hd_ : Touches [.out, .memOut, .sys, .rings, .sess, .past, .parse, .media, .aud, .imc] d d_ := ?_; ?_); (on_goal 1 => try dsimp only [d_]); (on_goal 2 => clear_value d_))
    | ((try lift_lets -underBinder); intro d_; try clear_value d_)
    | with_reducible apply Touches.foldl
    | (intro _ _ _)
    | exact Eq.refl true
    | with_reducible refine Touches.andThen ?_ (by with_reducible exact endFailed_touch ..) ?_
    | split
    | dsimp -zeta only
    | (split at ‹ite _ _ _ = (_, _)›)
    | (cases ‹(_, _) = (_, _)›)

theorem selfTestGroup_touch (failed : List Nat) (d : Dev) (g : Nat) :
    Touches [.flock] d (selfTestGroup failed d g) := by
  unfold selfTestGroup
  repeat' first
    | with_reducible assumption
    | with_reducible exact Touches.refl
    | ((try lift_lets -underBinder); intro d_; refine (have hd_ : Touches [.flock] d d_ := ?_; ?_); (on_goal 1 => try dsimp only [d_]); (on_goal 2 => clear_value d_))
    | ((try lift_lets -underBinder); intro d_; try clear_value d_)
    | with_reducible apply Touches.foldl
    | (intro _ _ _)
    | exact Eq.refl true
    | with_reducible refine Touches.andThen ?_ (by with_reducible exact onFGroup_touch ..) ?_
    | with_reducible refine Touches.andThen ?_ (by with_reducible exact onEng_touch ..) ?_
    | split
    | dsimp -zeta only
    | (split at ‹ite _ _ _ = (_, _)›)
    | (cases ‹(_, _) = (_, _)›)

theorem flockSelfTest_touch (failed : List Nat) (d : Dev) :
    Touches [.flock] d (flockSelfTest failed d) := by
  unfold flockSelfTest
  repeat' first
    | with_reducible assumption
    | with_reducible exact Touches.refl
    | with_reducible apply Touches.foldl
    | (intro _ _ _)
    | exact Eq.refl true
    | with_reducible refine Touches.andThen ?_ (by with_reducible exact selfTestGroup_touch ..) ?_
    | split
    | dsimp -zeta only
    | (split at ‹ite _ _ _ = (_, _)›)
    | (cases ‹(_, _) = (_, _)›)

theorem applyEngineLoad_touch (offset : Nat) (engines : List Nat) (img : ImageDesc) (ctx : ReplyCtx) (d : Dev) :
    Touches [.out, .sys, .past, .flock, .integ] d (applyEngineLoad offset engines img ctx d).1 := by
  unfold applyEngineLoad
  repeat' first
    | with_reducible assumption
    | with_reducible exact Touches.refl
    | ((try lift_lets -underBinder); intro d_; refine (have hd_ : Touches [.out, .sys, .past, .flock, .integ] d d_ := ?_; ?_); (on_goal 1 => try dsimp only [d_]); (on_goal 2 => clear_value d_))
    | ((try lift_lets -underBinder); intro d_; try clear_value d_)
    | with_reducible apply Touches.foldl
    | (intro _ _ _)
    | exact Eq.refl true
    | with_reducible refine Touches.andThen ?_ (by with_reducible exact onEng_touch ..) ?_
    | with_reducible refine Touches.andThen ?_ (by with_reducible exact onFlock_touch ..) ?_
    | with_reducible refine Touches.andThen ?_ (by with_reducible exact imageStored_touch ..) ?_
    | with_reducible refine Touches.andThen ?_ (by with_reducible exact chargeClass_touch ..) ?_
    | split
    | dsimp -zeta only
    | (split at ‹ite _ _ _ = (_, _)›)
    | (cases ‹(_, _) = (_, _)›)

theorem applyEngineLoad_touch' (offset : Nat) (engines : List Nat) (img : ImageDesc) (ctx : ReplyCtx) (d : Dev) {e_ x1} (h_ : applyEngineLoad offset engines img ctx d = (e_, x1)) : Touches [.out, .sys, .past, .flock, .integ] d e_ := by
  have := applyEngineLoad_touch offset engines img ctx d; rw [h_] at this; exact this

theorem finishLoads_touch (d : Dev) :
    Touches [.out, .sys, .rings, .sess, .flock] d (finishLoads d) := by
  unfold finishLoads
  repeat' first
    | with_reducible assumption
    | with_reducible exact Touches.refl
    | ((try lift_lets -underBinder); intro d_; refine (have hd_ : Touches [.out, .sys, .rings, .sess, .flock] d d_ := ?_; ?_); (on_goal 1 => try dsimp only [d_]); (on_goal 2 => clear_value d_))
    | ((try lift_lets -underBinder); intro d_; try clear_value d_)
    | with_reducible apply Touches.foldl
    | (intro _ _ _)
    | exact Eq.refl true
    | with_reducible refine Touches.andThen ?_ (by with_reducible exact onEng_touch ..) ?_
    | with_reducible refine Touches.andThen ?_ (by with_reducible exact onFlock_touch ..) ?_
    | with_reducible refine Touches.andThen ?_ (by with_reducible exact answer_touch ..) ?_
    | with_reducible refine Touches.andThen ?_ (by with_reducible exact epochDone_touch ..) ?_
    | split
    | dsimp -zeta only
    | (split at ‹ite _ _ _ = (_, _)›)
    | (cases ‹(_, _) = (_, _)›)

theorem applyEngineUnload_touch (engines : List Nat) (d : Dev) :
    Touches [.flock] d (applyEngineUnload engines d) := by
  unfold applyEngineUnload
  repeat' first
    | with_reducible assumption
    | with_reducible exact Touches.refl
    | ((try lift_lets -underBinder); intro d_; refine (have hd_ : Touches [.flock] d d_ := ?_; ?_); (on_goal 1 => try dsimp only [d_]); (on_goal 2 => clear_value d_))
    | ((try lift_lets -underBinder); intro d_; try clear_value d_)
    | with_reducible apply Touches.foldl
    | (intro _ _ _)
    | exact Eq.refl true
    | with_reducible refine Touches.andThen ?_ (by with_reducible exact onFlock_touch ..) ?_
    | with_reducible refine Touches.andThen ?_ (by with_reducible exact onEng_touch ..) ?_
    | split
    | dsimp -zeta only
    | (split at ‹ite _ _ _ = (_, _)›)
    | (cases ‹(_, _) = (_, _)›)

theorem beginDrains_touch (d : Dev) :
    Touches [.sys, .flock] d (beginDrains d) := by
  unfold beginDrains
  repeat' first
    | with_reducible assumption
    | with_reducible exact Touches.refl
    | with_reducible apply Touches.foldl
    | (intro _ _ _)
    | exact Eq.refl true
    | with_reducible refine Touches.andThen ?_ (by with_reducible exact onFGroup_touch ..) ?_
    | with_reducible refine Touches.andThen ?_ (by with_reducible exact epochDone_touch ..) ?_
    | split
    | dsimp -zeta only
    | (split at ‹ite _ _ _ = (_, _)›)
    | (cases ‹(_, _) = (_, _)›)

end Sys2Proof.Machine
end

