-- ==== Sys2Proof/Laws/TouchImc.lean ====
section
/-! SUPPORT. Which parts of the device the operations of Machine/Imc.lean touch. -/

namespace Sys2Proof.Machine

set_option linter.all false
set_option Elab.async false

theorem trkLeaf_touch (d : Dev) (t bit : Nat) :
    Touches [.out, .sys, .imc] d (trkLeaf d t bit) := by
  unfold trkLeaf
  repeat' first
    | with_reducible assumption
    | with_reducible exact Touches.refl
    | exact Eq.refl true
    | with_reducible refine Touches.andThen ?_ (by with_reducible exact onImc_touch ..) ?_
    | with_reducible refine Touches.andThen ?_ (by with_reducible exact raiseLeaf_touch ..) ?_
    | split
    | dsimp -zeta only
    | (split at ‹ite _ _ _ = (_, _)›)
    | (cases ‹(_, _) = (_, _)›)

theorem putTrunk_touch (d : Dev) (n : Nat) (q : TrkStep) :
    Touches [.out, .sys, .imc] d (putTrunk d n q) := by
  unfold putTrunk
  repeat' first
    | with_reducible assumption
    | with_reducible exact Touches.refl
    | with_reducible apply Touches.foldl
    | (intro _ _ _)
    | exact Eq.refl true
    | with_reducible refine Touches.andThen ?_ (by with_reducible exact onTrunk_touch ..) ?_
    | with_reducible refine Touches.andThen ?_ (by with_reducible exact trkLeaf_touch ..) ?_
    | split
    | dsimp -zeta only
    | (split at ‹ite _ _ _ = (_, _)›)
    | (cases ‹(_, _) = (_, _)›)

theorem imcStream_touch (n : Nat) (bytes : List Byte) (d : Dev) :
    Touches [.out, .sys, .imc] d (imcStream n bytes d) := by
  unfold imcStream
  repeat' first
    | with_reducible assumption
    | with_reducible exact Touches.refl
    | ((try lift_lets -underBinder); intro d_; refine (have hd_ : Touches [.out, .sys, .imc] d d_ := ?_; ?_); (on_goal 1 => try dsimp only [d_]); (on_goal 2 => clear_value d_))
    | ((try lift_lets -underBinder); intro d_; try clear_value d_)
    | exact Eq.refl true
    | with_reducible refine Touches.andThen ?_ (by with_reducible exact putTrunk_touch ..) ?_
    | split
    | dsimp -zeta only
    | (split at ‹ite _ _ _ = (_, _)›)
    | (cases ‹(_, _) = (_, _)›)

theorem trunkIn_touch (d : Dev) (n : Nat) (t : Trunk) :
    Touches [.freeCtr, .out, .sys, .aud, .imc] d (trunkIn d n t) := by
  unfold trunkIn
  repeat' first
    | with_reducible assumption
    | with_reducible exact Touches.refl
    | ((try lift_lets -underBinder); intro d_; refine (have hd_ : Touches [.freeCtr, .out, .sys, .aud, .imc] d d_ := ?_; ?_); (on_goal 1 => try dsimp only [d_]); (on_goal 2 => clear_value d_))
    | ((try lift_lets -underBinder); intro d_; try clear_value d_)
    | exact Eq.refl true
    | with_reducible refine Touches.andThen ?_ (by with_reducible exact onFree_touch ..) ?_
    | with_reducible refine Touches.andThen ?_ (by with_reducible exact onAud_touch ..) ?_
    | with_reducible refine Touches.andThen ?_ (by with_reducible exact putTrunk_touch ..) ?_
    | split
    | dsimp -zeta only
    | (split at ‹ite _ _ _ = (_, _)›)
    | (cases ‹(_, _) = (_, _)›)

theorem trunkOut_touch (d : Dev) (n : Nat) (t : Trunk) :
    Touches [.out, .sys, .past, .tm, .imc] d (trunkOut d n t) := by
  unfold trunkOut
  repeat' first
    | with_reducible assumption
    | with_reducible exact Touches.refl
    | ((try lift_lets -underBinder); intro d_; refine (have hd_ : Touches [.out, .sys, .past, .tm, .imc] d d_ := ?_; ?_); (on_goal 1 => try dsimp only [d_]); (on_goal 2 => clear_value d_))
    | ((try lift_lets -underBinder); intro d_; try clear_value d_)
    | exact Eq.refl true
    | with_reducible refine Touches.andThen ?_ (by with_reducible exact onTrunk_touch ..) ?_
    | with_reducible refine Touches.andThen ?_ (by with_reducible exact emit_touch ..) ?_
    | with_reducible refine Touches.andThen ?_ (by with_reducible exact tmAdmit_touch ..) ?_
    | split
    | dsimp -zeta only
    | (split at ‹ite _ _ _ = (_, _)›)
    | (cases ‹(_, _) = (_, _)›)

theorem imcBell_touch (d : Dev) :
    Touches [.freeCtr, .out, .sys, .past, .tm, .aud, .imc] d (imcBell d) := by
  unfold imcBell
  repeat' first
    | with_reducible assumption
    | with_reducible exact Touches.refl
    | ((try lift_lets -underBinder); intro d_; refine (have hd_ : Touches [.freeCtr, .out, .sys, .past, .tm, .aud, .imc] d d_ := ?_; ?_); (on_goal 1 => try dsimp only [d_]); (on_goal 2 => clear_value d_))
    | ((try lift_lets -underBinder); intro d_; try clear_value d_)
    | with_reducible apply Touches.foldl
    | (intro _ _ _)
    | exact Eq.refl true
    | with_reducible refine Touches.andThen ?_ (by with_reducible exact trunkOut_touch ..) ?_
    | with_reducible refine Touches.andThen ?_ (by with_reducible exact trunkIn_touch ..) ?_
    | split
    | dsimp -zeta only
    | (split at ‹ite _ _ _ = (_, _)›)
    | (cases ‹(_, _) = (_, _)›)

theorem unbindTrunk_touch (d : Dev) (n : Nat) :
    Touches [.parse] d (unbindTrunk d n) := by
  unfold unbindTrunk
  repeat' first
    | with_reducible assumption
    | with_reducible exact Touches.refl
    | exact Eq.refl true
    | with_reducible refine Touches.andThen ?_ (by with_reducible exact onParse_touch ..) ?_
    | split
    | dsimp -zeta only
    | (split at ‹ite _ _ _ = (_, _)›)
    | (cases ‹(_, _) = (_, _)›)

theorem applyImcTrunkSet_touch (rcd : TrunkRec) (pick : Nat) (d : Dev) :
    Touches [.parse, .tm, .imc] d (applyImcTrunkSet rcd pick d) := by
  unfold applyImcTrunkSet
  repeat' first
    | with_reducible assumption
    | with_reducible exact Touches.refl
    | ((try lift_lets -underBinder); intro d_; refine (have hd_ : Touches [.parse, .tm, .imc] d d_ := ?_; ?_); (on_goal 1 => try dsimp only [d_]); (on_goal 2 => clear_value d_))
    | ((try lift_lets -underBinder); intro d_; try clear_value d_)
    | exact Eq.refl true
    | with_reducible refine Touches.andThen ?_ (by with_reducible exact onParse_touch ..) ?_
    | with_reducible refine Touches.andThen ?_ (by with_reducible exact onImc_touch ..) ?_
    | with_reducible refine Touches.andThen ?_ (by with_reducible exact freeOwned_touch ..) ?_
    | with_reducible refine Touches.andThen ?_ (by with_reducible exact unbindTrunk_touch ..) ?_
    | with_reducible refine Touches.andThen ?_ (by with_reducible exact getD_touch (trunkQueue_opt ..)) ?_
    | split
    | dsimp -zeta only
    | (split at ‹ite _ _ _ = (_, _)›)
    | (cases ‹(_, _) = (_, _)›)

theorem applyImcTrunkClear_touch (trunk : Nat) (d : Dev) :
    Touches [.parse, .tm, .aud, .imc] d (applyImcTrunkClear trunk d) := by
  unfold applyImcTrunkClear
  repeat' first
    | with_reducible assumption
    | with_reducible exact Touches.refl
    | ((try lift_lets -underBinder); intro d_; refine (have hd_ : Touches [.parse, .tm, .aud, .imc] d d_ := ?_; ?_); (on_goal 1 => try dsimp only [d_]); (on_goal 2 => clear_value d_))
    | ((try lift_lets -underBinder); intro d_; try clear_value d_)
    | exact Eq.refl true
    | with_reducible refine Touches.andThen ?_ (by with_reducible exact onAud_touch ..) ?_
    | with_reducible refine Touches.andThen ?_ (by with_reducible exact onImc_touch ..) ?_
    | with_reducible refine Touches.andThen ?_ (by with_reducible exact unbindTrunk_touch ..) ?_
    | with_reducible refine Touches.andThen ?_ (by with_reducible exact freeOwned_touch ..) ?_
    | split
    | dsimp -zeta only
    | (split at ‹ite _ _ _ = (_, _)›)
    | (cases ‹(_, _) = (_, _)›)

end Sys2Proof.Machine
end

