-- ==== Sys2Proof/Laws/TouchDrove.lean ====
section
/-! SUPPORT. Which parts of the device the operations of Machine/Drove.lean touch. -/

namespace Sys2Proof.Machine

set_option linter.all false
set_option Elab.async false

theorem haltChan_touch (d : Dev) (c kind : Nat) (addr : BitVec 64) (dir fetching : Bool) :
    Touches [.out, .sys, .drove] d (haltChan d c kind addr dir fetching) := by
  unfold haltChan
  repeat' first
    | with_reducible assumption
    | with_reducible exact Touches.refl
    | exact Eq.refl true
    | with_reducible refine Touches.andThen ?_ (by with_reducible exact onChan_touch ..) ?_
    | with_reducible refine Touches.andThen ?_ (by with_reducible exact raiseLeaf_touch ..) ?_
    | split
    | dsimp -zeta only
    | (split at ‹ite _ _ _ = (_, _)›)
    | (cases ‹(_, _) = (_, _)›)

theorem startChan_touch (d : Dev) (c : Nat) :
    Touches [.drove] d (startChan d c) := by
  unfold startChan
  repeat' first
    | with_reducible assumption
    | with_reducible exact Touches.refl
    | exact Eq.refl true
    | with_reducible refine Touches.andThen ?_ (by with_reducible exact onChan_touch ..) ?_
    | split
    | dsimp -zeta only
    | (split at ‹ite _ _ _ = (_, _)›)
    | (cases ‹(_, _) = (_, _)›)

theorem endChain_touch (d : Dev) (c : Nat) :
    Touches [.drove] d (endChain d c) := by
  unfold endChain
  repeat' first
    | with_reducible assumption
    | with_reducible exact Touches.refl
    | ((try lift_lets -underBinder); intro d_; refine (have hd_ : Touches [.drove] d d_ := ?_; ?_); (on_goal 1 => try dsimp only [d_]); (on_goal 2 => clear_value d_))
    | ((try lift_lets -underBinder); intro d_; try clear_value d_)
    | exact Eq.refl true
    | with_reducible refine Touches.andThen ?_ (by with_reducible exact onChan_touch ..) ?_
    | with_reducible refine Touches.andThen ?_ (by with_reducible exact startChan_touch ..) ?_
    | split
    | dsimp -zeta only
    | (split at ‹ite _ _ _ = (_, _)›)
    | (cases ‹(_, _) = (_, _)›)

theorem nextDesc_touch (d : Dev) (c : Nat) :
    Touches [.drove] d (nextDesc d c) := by
  unfold nextDesc
  repeat' first
    | with_reducible assumption
    | with_reducible exact Touches.refl
    | exact Eq.refl true
    | with_reducible refine Touches.andThen ?_ (by with_reducible exact onChan_touch ..) ?_
    | split
    | dsimp -zeta only
    | (split at ‹ite _ _ _ = (_, _)›)
    | (cases ‹(_, _) = (_, _)›)

theorem takeDesc_touch (d : Dev) (c : Nat) (x : DescIn) :
    Touches [.out, .sys, .drove] d (takeDesc d c x) := by
  unfold takeDesc
  repeat' first
    | with_reducible assumption
    | with_reducible exact Touches.refl
    | ((try lift_lets -underBinder); intro d_; refine (have hd_ : Touches [.out, .sys, .drove] d d_ := ?_; ?_); (on_goal 1 => try dsimp only [d_]); (on_goal 2 => clear_value d_))
    | ((try lift_lets -underBinder); intro d_; try clear_value d_)
    | exact Eq.refl true
    | with_reducible refine Touches.andThen ?_ (by with_reducible exact onChan_touch ..) ?_
    | with_reducible refine Touches.andThen ?_ (by with_reducible exact haltChan_touch ..) ?_
    | split
    | dsimp -zeta only
    | (split at ‹ite _ _ _ = (_, _)›)
    | (cases ‹(_, _) = (_, _)›)

theorem fetchDesc_touch (m : Memory) (b : BurstIn) (d : Dev) (c : Nat) :
    Touches [.out, .sys, .past, .drove, .integ] d (fetchDesc m b d c) := by
  unfold fetchDesc
  repeat' first
    | with_reducible assumption
    | with_reducible exact Touches.refl
    | ((try lift_lets -underBinder); intro d_; refine (have hd_ : Touches [.out, .sys, .past, .drove, .integ] d d_ := ?_; ?_); (on_goal 1 => try dsimp only [d_]); (on_goal 2 => clear_value d_))
    | ((try lift_lets -underBinder); intro d_; try clear_value d_)
    | exact Eq.refl true
    | with_reducible refine Touches.andThen ?_ (by with_reducible exact haltChan_touch ..) ?_
    | with_reducible refine Touches.andThen ?_ (by with_reducible exact chargeClass_touch ..) ?_
    | with_reducible refine Touches.andThen ?_ (by with_reducible exact pastRead_touch ..) ?_
    | refine Touches.andThen ?_ (pastRead_touch' (h_ := by assumption) ..) ?_
    | with_reducible refine Touches.andThen ?_ (by with_reducible exact takeDesc_touch ..) ?_
    | with_reducible refine Touches.andThen ?_ (by with_reducible exact eccRead_touch ..) ?_
    | refine Touches.andThen ?_ (eccRead_touch' (h_ := by assumption) ..) ?_
    | split
    | dsimp -zeta only
    | (split at ‹ite _ _ _ = (_, _)›)
    | (cases ‹(_, _) = (_, _)›)

theorem writeSpace_touch (d : Dev) (sp addr : Nat) (bs : List Byte) :
    Touches [.out, .memOut, .sys, .flock, .drove, .integ] d (writeSpace d sp addr bs) := by
  unfold writeSpace
  repeat' first
    | with_reducible assumption
    | with_reducible exact Touches.refl
    | ((try lift_lets -underBinder); intro d_; refine (have hd_ : Touches [.out, .memOut, .sys, .flock, .drove, .integ] d d_ := ?_; ?_); (on_goal 1 => try dsimp only [d_]); (on_goal 2 => clear_value d_))
    | ((try lift_lets -underBinder); intro d_; try clear_value d_)
    | exact Eq.refl true
    | with_reducible refine Touches.andThen ?_ (by with_reducible exact postMem_touch ..) ?_
    | with_reducible refine Touches.andThen ?_ (by with_reducible exact onCore_touch ..) ?_
    | with_reducible refine Touches.andThen ?_ (by with_reducible exact emit_touch ..) ?_
    | with_reducible refine Touches.andThen ?_ (by with_reducible exact pastWritten_touch ..) ?_
    | with_reducible refine Touches.andThen ?_ (by with_reducible exact localStored_touch ..) ?_
    | refine Touches.andThen ?_ (droveWrite_touch (h_ := by assumption) ..) ?_
    | with_reducible refine Touches.andThen ?_ (by with_reducible exact onChan_touch ..) ?_
    | with_reducible refine Touches.andThen ?_ (by with_reducible exact droveStart_touch ..) ?_
    | with_reducible refine Touches.andThen ?_ (by with_reducible exact droveResume_touch ..) ?_
    | with_reducible refine Touches.andThen ?_ (by with_reducible exact droveSkip_touch ..) ?_
    | with_reducible refine Touches.andThen ?_ (by with_reducible exact droveAbort_touch ..) ?_
    | split
    | dsimp -zeta only
    | (split at ‹ite _ _ _ = (_, _)›)
    | (cases ‹(_, _) = (_, _)›)

theorem completeDesc_touch (b : BurstIn) (d : Dev) (c : Nat) (x : DescIn) :
    Touches [.out, .flock, .drove] d (completeDesc b d c x) := by
  unfold completeDesc
  repeat' first
    | with_reducible assumption
    | with_reducible exact Touches.refl
    | ((try lift_lets -underBinder); intro d_; refine (have hd_ : Touches [.out, .flock, .drove] d d_ := ?_; ?_); (on_goal 1 => try dsimp only [d_]); (on_goal 2 => clear_value d_))
    | ((try lift_lets -underBinder); intro d_; try clear_value d_)
    | exact Eq.refl true
    | with_reducible refine Touches.andThen ?_ (by with_reducible exact onChan_touch ..) ?_
    | with_reducible refine Touches.andThen ?_ (by with_reducible exact pulseLine_touch ..) ?_
    | with_reducible refine Touches.andThen ?_ (by with_reducible exact endChain_touch ..) ?_
    | with_reducible refine Touches.andThen ?_ (by with_reducible exact nextDesc_touch ..) ?_
    | split
    | dsimp -zeta only
    | (split at ‹ite _ _ _ = (_, _)›)
    | (cases ‹(_, _) = (_, _)›)

theorem writeBurst_touch (b : BurstIn) (d : Dev) (c : Nat) (x : DescIn) (dst n : Nat) (bs : List Byte) :
    Touches [.out, .memOut, .sys, .past, .flock, .drove, .integ] d (writeBurst b d c x dst n bs) := by
  unfold writeBurst
  repeat' first
    | with_reducible assumption
    | with_reducible exact Touches.refl
    | ((try lift_lets -underBinder); intro d_; refine (have hd_ : Touches [.out, .memOut, .sys, .past, .flock, .drove, .integ] d d_ := ?_; ?_); (on_goal 1 => try dsimp only [d_]); (on_goal 2 => clear_value d_))
    | ((try lift_lets -underBinder); intro d_; try clear_value d_)
    | exact Eq.refl true
    | with_reducible refine Touches.andThen ?_ (by with_reducible exact onChan_touch ..) ?_
    | with_reducible refine Touches.andThen ?_ (by with_reducible exact haltChan_touch ..) ?_
    | with_reducible refine Touches.andThen ?_ (by with_reducible exact chargeClass_touch ..) ?_
    | with_reducible refine Touches.andThen ?_ (by with_reducible exact writeSpace_touch ..) ?_
    | with_reducible refine Touches.andThen ?_ (by with_reducible exact completeDesc_touch ..) ?_
    | split
    | dsimp -zeta only
    | (split at ‹ite _ _ _ = (_, _)›)
    | (cases ‹(_, _) = (_, _)›)

theorem moveBurst_touch (m : Memory) (b : BurstIn) (d : Dev) (c : Nat) (x : DescIn) :
    Touches [.out, .memOut, .sys, .past, .flock, .drove, .integ] d (moveBurst m b d c x) := by
  unfold moveBurst
  repeat' first
    | with_reducible assumption
    | with_reducible exact Touches.refl
    | ((try lift_lets -underBinder); intro d_; refine (have hd_ : Touches [.out, .memOut, .sys, .past, .flock, .drove, .integ] d d_ := ?_; ?_); (on_goal 1 => try dsimp only [d_]); (on_goal 2 => clear_value d_))
    | ((try lift_lets -underBinder); intro d_; try clear_value d_)
    | exact Eq.refl true
    | with_reducible refine Touches.andThen ?_ (by with_reducible exact writeBurst_touch ..) ?_
    | with_reducible refine Touches.andThen ?_ (by with_reducible exact haltChan_touch ..) ?_
    | with_reducible refine Touches.andThen ?_ (by with_reducible exact chargeClass_touch ..) ?_
    | refine Touches.andThen ?_ (pastRead_touch' (h_ := by assumption) ..) ?_
    | split
    | dsimp -zeta only
    | (split at ‹ite _ _ _ = (_, _)›)
    | (cases ‹(_, _) = (_, _)›)

theorem droveBurst_touch (m : Memory) (b : BurstIn) (d : Dev) :
    Touches [.out, .memOut, .sys, .past, .flock, .drove, .integ] d (droveBurst m b d) := by
  unfold droveBurst
  repeat' first
    | with_reducible assumption
    | with_reducible exact Touches.refl
    | ((try lift_lets -underBinder); intro d_; refine (have hd_ : Touches [.out, .memOut, .sys, .past, .flock, .drove, .integ] d d_ := ?_; ?_); (on_goal 1 => try dsimp only [d_]); (on_goal 2 => clear_value d_))
    | ((try lift_lets -underBinder); intro d_; try clear_value d_)
    | with_reducible apply Touches.foldl
    | (intro _ _ _)
    | exact Eq.refl true
    | with_reducible refine Touches.andThen ?_ (by with_reducible exact onDrove_touch ..) ?_
    | with_reducible refine Touches.andThen ?_ (by with_reducible exact fetchDesc_touch ..) ?_
    | with_reducible refine Touches.andThen ?_ (by with_reducible exact stallClass_touch ..) ?_
    | with_reducible refine Touches.andThen ?_ (by with_reducible exact moveBurst_touch ..) ?_
    | split
    | dsimp -zeta only
    | (split at ‹ite _ _ _ = (_, _)›)
    | (cases ‹(_, _) = (_, _)›)

theorem droveStart_touch (c : Nat) (d : Dev) :
    Touches [.drove] d (droveStart c d) := by
  unfold droveStart
  repeat' first
    | with_reducible assumption
    | with_reducible exact Touches.refl
    | exact Eq.refl true
    | with_reducible refine Touches.andThen ?_ (by with_reducible exact startChan_touch ..) ?_
    | split
    | dsimp -zeta only
    | (split at ‹ite _ _ _ = (_, _)›)
    | (cases ‹(_, _) = (_, _)›)

theorem droveResume_touch (c : Nat) (d : Dev) :
    Touches [.drove] d (droveResume c d) := by
  unfold droveResume
  repeat' first
    | with_reducible assumption
    | with_reducible exact Touches.refl
    | exact Eq.refl true
    | with_reducible refine Touches.andThen ?_ (by with_reducible exact onChan_touch ..) ?_
    | split
    | dsimp -zeta only
    | (split at ‹ite _ _ _ = (_, _)›)
    | (cases ‹(_, _) = (_, _)›)

theorem droveSkip_touch (c : Nat) (d : Dev) :
    Touches [.drove] d (droveSkip c d) := by
  unfold droveSkip
  repeat' first
    | with_reducible assumption
    | with_reducible exact Touches.refl
    | exact Eq.refl true
    | with_reducible refine Touches.andThen ?_ (by with_reducible exact endChain_touch ..) ?_
    | with_reducible refine Touches.andThen ?_ (by with_reducible exact nextDesc_touch ..) ?_
    | split
    | dsimp -zeta only
    | (split at ‹ite _ _ _ = (_, _)›)
    | (cases ‹(_, _) = (_, _)›)

theorem droveAbort_touch (c : Nat) (d : Dev) :
    Touches [.drove] d (droveAbort c d) := by
  unfold droveAbort
  repeat' first
    | with_reducible assumption
    | with_reducible exact Touches.refl
    | ((try lift_lets -underBinder); intro d_; refine (have hd_ : Touches [.drove] d d_ := ?_; ?_); (on_goal 1 => try dsimp only [d_]); (on_goal 2 => clear_value d_))
    | ((try lift_lets -underBinder); intro d_; try clear_value d_)
    | exact Eq.refl true
    | with_reducible refine Touches.andThen ?_ (by with_reducible exact onChan_touch ..) ?_
    | with_reducible refine Touches.andThen ?_ (by with_reducible exact startChan_touch ..) ?_
    | split
    | dsimp -zeta only
    | (split at ‹ite _ _ _ = (_, _)›)
    | (cases ‹(_, _) = (_, _)›)

theorem triggerChan_touch (line : Nat) (d : Dev) (c : Nat) :
    Touches [.drove] d (triggerChan line d c) := by
  unfold triggerChan
  repeat' first
    | with_reducible assumption
    | with_reducible exact Touches.refl
    | ((try lift_lets -underBinder); intro d_; refine (have hd_ : Touches [.drove] d d_ := ?_; ?_); (on_goal 1 => try dsimp only [d_]); (on_goal 2 => clear_value d_))
    | ((try lift_lets -underBinder); intro d_; try clear_value d_)
    | exact Eq.refl true
    | with_reducible refine Touches.andThen ?_ (by with_reducible exact onChan_touch ..) ?_
    | with_reducible refine Touches.andThen ?_ (by with_reducible exact startChan_touch ..) ?_
    | split
    | dsimp -zeta only
    | (split at ‹ite _ _ _ = (_, _)›)
    | (cases ‹(_, _) = (_, _)›)

theorem droveReadClear_touch (d : Dev) (off : Nat) :
    Touches [.drove] d (droveReadClear d off) := by
  unfold droveReadClear
  repeat' first
    | with_reducible assumption
    | with_reducible exact Touches.refl
    | exact Eq.refl true
    | with_reducible refine Touches.andThen ?_ (by with_reducible exact onChan_touch ..) ?_
    | split
    | dsimp -zeta only
    | (split at ‹ite _ _ _ = (_, _)›)
    | (cases ‹(_, _) = (_, _)›)

theorem droveWrite_opt (d : Dev) (off v : Nat) : OptTouch (α := Dev) (fun x => x) [.drove] d (droveWrite d off v) := by
  unfold droveWrite
  repeat' first
    | with_reducible assumption
    | with_reducible exact Touches.refl
    | exact OptTouch.none
    | with_reducible refine OptTouch.some ?_
    | ((try lift_lets -underBinder); intro d_; refine (have hd_ : Touches [.drove] d d_ := ?_; ?_); (on_goal 1 => try dsimp only [d_]); (on_goal 2 => clear_value d_))
    | ((try lift_lets -underBinder); intro d_; try clear_value d_)
    | exact Eq.refl true
    | with_reducible refine Touches.andThen ?_ (by with_reducible exact onChan_touch ..) ?_
    | with_reducible refine Touches.andThen ?_ (by with_reducible exact droveStart_touch ..) ?_
    | with_reducible refine Touches.andThen ?_ (by with_reducible exact droveResume_touch ..) ?_
    | with_reducible refine Touches.andThen ?_ (by with_reducible exact droveSkip_touch ..) ?_
    | with_reducible refine Touches.andThen ?_ (by with_reducible exact droveAbort_touch ..) ?_
    | split
    | dsimp -zeta only
    | (split at ‹ite _ _ _ = (_, _)›)
    | (cases ‹(_, _) = (_, _)›)

theorem droveWrite_touch (d : Dev) (off v : Nat) {e_} (h_ : droveWrite d off v = some e_) : Touches [.drove] d e_ := (droveWrite_opt d off v).of_some h_

end Sys2Proof.Machine
end

