-- ==== Sys2Proof/Laws/TouchInteg.lean ====
section
/-! SUPPORT. Which parts of the device the operations of Machine/Integ.lean touch. -/

namespace Sys2Proof.Machine

set_option linter.all false
set_option Elab.async false

theorem passEnded_touch (d : Dev) (k n : Nat) :
    Touches [.integ] d (passEnded d k n) := by
  unfold passEnded
  repeat' first
    | with_reducible assumption
    | with_reducible exact Touches.refl
    | ((try lift_lets -underBinder); intro d_; refine (have hd_ : Touches [.integ] d d_ := ?_; ?_); (on_goal 1 => try dsimp only [d_]); (on_goal 2 => clear_value d_))
    | ((try lift_lets -underBinder); intro d_; try clear_value d_)
    | exact Eq.refl true
    | with_reducible refine Touches.andThen ?_ (by with_reducible exact onIntClass_touch ..) ?_
    | with_reducible refine Touches.andThen ?_ (by with_reducible exact onStack_touch ..) ?_
    | split
    | dsimp -zeta only
    | (split at ‹ite _ _ _ = (_, _)›)
    | (cases ‹(_, _) = (_, _)›)

theorem scrubClass_touch (short : Tbl Nat) (d : Dev) (k : Nat) :
    Touches [.out, .sys, .past, .integ] d (scrubClass short d k) := by
  unfold scrubClass
  repeat' first
    | with_reducible assumption
    | with_reducible exact Touches.refl
    | ((try lift_lets -underBinder); intro d_; refine (have hd_ : Touches [.out, .sys, .past, .integ] d d_ := ?_; ?_); (on_goal 1 => try dsimp only [d_]); (on_goal 2 => clear_value d_))
    | ((try lift_lets -underBinder); intro d_; try clear_value d_)
    | exact Eq.refl true
    | with_reducible refine Touches.andThen ?_ (by with_reducible exact onIntClass_touch ..) ?_
    | with_reducible refine Touches.andThen ?_ (by with_reducible exact chargeClass_touch ..) ?_
    | with_reducible refine Touches.andThen ?_ (by with_reducible exact raiseIf_touch ..) ?_
    | with_reducible refine Touches.andThen ?_ (by with_reducible exact passEnded_touch ..) ?_
    | split
    | dsimp -zeta only
    | (split at ‹ite _ _ _ = (_, _)›)
    | (cases ‹(_, _) = (_, _)›)

theorem scrubFound_touch (d : Dev) (x : Nat × Nat × EccFind) :
    Touches [.out, .sys, .past, .integ] d (scrubFound d x) := by
  unfold scrubFound
  repeat' first
    | with_reducible assumption
    | with_reducible exact Touches.refl
    | ((try lift_lets -underBinder); intro d_; refine (have hd_ : Touches [.out, .sys, .past, .integ] d d_ := ?_; ?_); (on_goal 1 => try dsimp only [d_]); (on_goal 2 => clear_value d_))
    | ((try lift_lets -underBinder); intro d_; try clear_value d_)
    | exact Eq.refl true
    | refine Touches.andThen ?_ (eccRead_touch' (h_ := by assumption) ..) ?_
    | with_reducible refine Touches.andThen ?_ (by with_reducible exact pastureRequest_touch ..) ?_
    | with_reducible refine Touches.andThen ?_ (by with_reducible exact eccWrite_touch ..) ?_
    | split
    | dsimp -zeta only
    | (split at ‹ite _ _ _ = (_, _)›)
    | (cases ‹(_, _) = (_, _)›)

theorem unitStores_touch (stores : List (Nat × Nat × Nat)) (d : Dev) :
    Touches [.out, .sys, .integ] d (unitStores stores d) := by
  unfold unitStores
  repeat' first
    | with_reducible assumption
    | with_reducible exact Touches.refl
    | ((try lift_lets -underBinder); intro d_; refine (have hd_ : Touches [.out, .sys, .integ] d d_ := ?_; ?_); (on_goal 1 => try dsimp only [d_]); (on_goal 2 => clear_value d_))
    | ((try lift_lets -underBinder); intro d_; try clear_value d_)
    | with_reducible apply Touches.foldl
    | (intro _ _ _)
    | exact Eq.refl true
    | with_reducible refine Touches.andThen ?_ (by with_reducible exact eccStored_touch ..) ?_
    | split
    | dsimp -zeta only
    | (split at ‹ite _ _ _ = (_, _)›)
    | (cases ‹(_, _) = (_, _)›)

theorem scrubBell_touch (short : Tbl Nat) (found : List (Nat × Nat × EccFind)) (d : Dev) :
    Touches [.out, .sys, .past, .integ] d (scrubBell short found d) := by
  unfold scrubBell
  repeat' first
    | with_reducible assumption
    | with_reducible exact Touches.refl
    | with_reducible apply Touches.foldl
    | (intro _ _ _)
    | exact Eq.refl true
    | with_reducible refine Touches.andThen ?_ (by with_reducible exact scrubFound_touch ..) ?_
    | with_reducible refine Touches.andThen ?_ (by with_reducible exact scrubClass_touch ..) ?_
    | split
    | dsimp -zeta only
    | (split at ‹ite _ _ _ = (_, _)›)
    | (cases ‹(_, _) = (_, _)›)

theorem beginRow_touch (d : Dev) (s : Nat) (c : Nat × BitVec 64) :
    Touches [.out, .sys, .past, .integ] d (beginRow d s c) := by
  unfold beginRow
  dsimp only
  repeat' first
    | with_reducible assumption
    | with_reducible exact Touches.refl
    | ((try lift_lets -underBinder); intro d_; refine (have hd_ : Touches [.out, .sys, .past, .integ] d d_ := ?_; ?_); (on_goal 1 => try dsimp only [d_]); (on_goal 2 => clear_value d_))
    | ((try lift_lets -underBinder); intro d_; try clear_value d_)
    | exact Eq.refl true
    | with_reducible refine Touches.andThen ?_ (by with_reducible exact onStack_touch ..) ?_
    | with_reducible refine Touches.andThen ?_ (by with_reducible exact raiseLeaf_touch ..) ?_
    | with_reducible refine Touches.andThen ?_ (by with_reducible exact stallClass_touch ..) ?_
    | with_reducible refine Touches.andThen ?_ (by with_reducible exact chargeClass_touch ..) ?_
    | split
    | dsimp -zeta only
    | (split at ‹ite _ _ _ = (_, _)›)
    | (cases ‹(_, _) = (_, _)›)

theorem endRow_touch (d : Dev) (s row : Nat) :
    Touches [.out, .sys, .integ] d (endRow d s row) := by
  unfold endRow
  repeat' first
    | with_reducible assumption
    | with_reducible exact Touches.refl
    | ((try lift_lets -underBinder); intro d_; refine (have hd_ : Touches [.out, .sys, .integ] d d_ := ?_; ?_); (on_goal 1 => try dsimp only [d_]); (on_goal 2 => clear_value d_))
    | ((try lift_lets -underBinder); intro d_; try clear_value d_)
    | exact Eq.refl true
    | with_reducible refine Touches.andThen ?_ (by with_reducible exact onStack_touch ..) ?_
    | with_reducible refine Touches.andThen ?_ (by with_reducible exact onInteg_touch ..) ?_
    | with_reducible refine Touches.andThen ?_ (by with_reducible exact raiseLeaf_touch ..) ?_
    | split
    | dsimp -zeta only
    | (split at ‹ite _ _ _ = (_, _)›)
    | (cases ‹(_, _) = (_, _)›)

theorem cvInit_touch (u : Nat) (d : Dev) :
    Touches [.integ] d (cvInit u d) := by
  unfold cvInit
  repeat' first
    | with_reducible assumption
    | with_reducible exact Touches.refl
    | exact Eq.refl true
    | with_reducible refine Touches.andThen ?_ (by with_reducible exact onCv_touch ..) ?_
    | split
    | dsimp -zeta only
    | (split at ‹ite _ _ _ = (_, _)›)
    | (cases ‹(_, _) = (_, _)›)

theorem cvData_touch (u n v : Nat) (d : Dev) :
    Touches [.integ] d (cvData u n v d) := by
  unfold cvData
  repeat' first
    | with_reducible assumption
    | with_reducible exact Touches.refl
    | exact Eq.refl true
    | with_reducible refine Touches.andThen ?_ (by with_reducible exact onCv_touch ..) ?_
    | split
    | dsimp -zeta only
    | (split at ‹ite _ _ _ = (_, _)›)
    | (cases ‹(_, _) = (_, _)›)

theorem cvValue_touch (u : Nat) (high : Bool) (v : Nat) (d : Dev) :
    Touches [.integ] d (cvValue u high v d) := by
  unfold cvValue
  repeat' first
    | with_reducible assumption
    | with_reducible exact Touches.refl
    | exact Eq.refl true
    | with_reducible refine Touches.andThen ?_ (by with_reducible exact onCv_touch ..) ?_
    | split
    | dsimp -zeta only
    | (split at ‹ite _ _ _ = (_, _)›)
    | (cases ‹(_, _) = (_, _)›)

theorem cvAlive_touch (u v : Nat) (d : Dev) :
    Touches [.integ] d (cvAlive u v d) := by
  unfold cvAlive
  repeat' first
    | with_reducible assumption
    | with_reducible exact Touches.refl
    | exact Eq.refl true
    | with_reducible refine Touches.andThen ?_ (by with_reducible exact onCv_touch ..) ?_
    | split
    | dsimp -zeta only
    | (split at ‹ite _ _ _ = (_, _)›)
    | (cases ‹(_, _) = (_, _)›)

end Sys2Proof.Machine
end

