-- ==== Sys2Proof/Laws/TouchPtp.lean ====
section
/-! SUPPORT. Which parts of the device the operations of Machine/Ptp.lean touch. -/

namespace Sys2Proof.Machine

set_option linter.all false
set_option Elab.async false

theorem stampFrame_touch (d : Dev) (tp group port : Nat) (bs : List Byte) (twoStep : Option Nat) (ingress stamp : Nat) (whole : Bool) :
    Touches [.freeCtr, .out, .sys, .bell] d (stampFrame d tp group port bs twoStep ingress stamp whole).2 := by
  unfold stampFrame
  repeat' first
    | with_reducible assumption
    | with_reducible exact Touches.refl
    | ((try lift_lets -underBinder); intro d_; refine (have hd_ : Touches [.freeCtr, .out, .sys, .bell] d d_ := ?_; ?_); (on_goal 1 => try dsimp only [d_]); (on_goal 2 => clear_value d_))
    | ((try lift_lets -underBinder); intro d_; try clear_value d_)
    | exact Eq.refl true
    | with_reducible refine Touches.andThen ?_ (by with_reducible exact captureStamp_touch ..) ?_
    | with_reducible refine Touches.andThen ?_ (by with_reducible exact drawFree_touch ..) ?_
    | refine Touches.andThen ?_ (drawFree_touch' (h_ := by assumption) ..) ?_
    | with_reducible refine Touches.andThen ?_ (by with_reducible exact onFree_touch ..) ?_
    | split
    | dsimp -zeta only
    | (split at ‹ite _ _ _ = (_, _)›)
    | (cases ‹(_, _) = (_, _)›)

theorem stampFrame_touch' (d : Dev) (tp group port : Nat) (bs : List Byte) (twoStep : Option Nat) (ingress stamp : Nat) (whole : Bool) {x0 e_} (h_ : stampFrame d tp group port bs twoStep ingress stamp whole = (x0, e_)) : Touches [.freeCtr, .out, .sys, .bell] d e_ := by
  have := stampFrame_touch d tp group port bs twoStep ingress stamp whole; rw [h_] at this; exact this

end Sys2Proof.Machine
end

