-- ==== Sys2Proof/Laws/TouchForward.lean ====
section
/-! SUPPORT. Which parts of the device the operations of Machine/Forward.lean touch. -/

namespace Sys2Proof.Machine

set_option linter.all false
set_option Elab.async false

theorem bump_touch (d : Dev) (p i n : Nat) :
    Touches [.out, .sys, .cli] d (bump d p i n) := by
  unfold bump
  repeat' first
    | with_reducible assumption
    | with_reducible exact Touches.refl
    | ((try lift_lets -underBinder); intro d_; refine (have hd_ : Touches [.out, .sys, .cli] d d_ := ?_; ?_); (on_goal 1 => try dsimp only [d_]); (on_goal 2 => clear_value d_))
    | ((try lift_lets -underBinder); intro d_; try clear_value d_)
    | exact Eq.refl true
    | with_reducible refine Touches.andThen ?_ (by with_reducible exact onPort_touch ..) ?_
    | with_reducible refine Touches.andThen ?_ (by with_reducible exact raiseLeaf_touch ..) ?_
    | split
    | dsimp -zeta only
    | (split at ‹ite _ _ _ = (_, _)›)
    | (cases ‹(_, _) = (_, _)›)

theorem countGood_touch (d : Dev) (p base bins len : Nat) (bs : List Byte) :
    Touches [.out, .sys, .cli] d (countGood d p base bins len bs) := by
  unfold countGood
  repeat' first
    | with_reducible assumption
    | with_reducible exact Touches.refl
    | ((try lift_lets -underBinder); intro d_; refine (have hd_ : Touches [.out, .sys, .cli] d d_ := ?_; ?_); (on_goal 1 => try dsimp only [d_]); (on_goal 2 => clear_value d_))
    | ((try lift_lets -underBinder); intro d_; try clear_value d_)
    | exact Eq.refl true
    | with_reducible refine Touches.andThen ?_ (by with_reducible exact bump_touch ..) ?_
    | split
    | dsimp -zeta only
    | (split at ‹ite _ _ _ = (_, _)›)
    | (cases ‹(_, _) = (_, _)›)

theorem macsecMarks_touch (d : Dev) (p : Nat) (warn spent : Bool) :
    Touches [.out, .sys, .cli] d (macsecMarks d p warn spent) := by
  unfold macsecMarks
  repeat' first
    | with_reducible assumption
    | with_reducible exact Touches.refl
    | ((try lift_lets -underBinder); intro d_; refine (have hd_ : Touches [.out, .sys, .cli] d d_ := ?_; ?_); (on_goal 1 => try dsimp only [d_]); (on_goal 2 => clear_value d_))
    | ((try lift_lets -underBinder); intro d_; try clear_value d_)
    | exact Eq.refl true
    | with_reducible refine Touches.andThen ?_ (by with_reducible exact onPort_touch ..) ?_
    | with_reducible refine Touches.andThen ?_ (by with_reducible exact raiseLeaf_touch ..) ?_
    | split
    | dsimp -zeta only
    | (split at ‹ite _ _ _ = (_, _)›)
    | (cases ‹(_, _) = (_, _)›)

theorem macsecOut_opt (d : Dev) (p : Nat) (k : TmPkt) : OptTouch (α := TmPkt × Dev) (fun x => x.2) [.out, .sys, .fold, .cli] d (macsecOut d p k) := by
  unfold macsecOut
  repeat' first
    | with_reducible assumption
    | with_reducible exact Touches.refl
    | exact OptTouch.none
    | with_reducible refine OptTouch.some ?_
    | ((try lift_lets -underBinder); intro d_; refine (have hd_ : Touches [.out, .sys, .fold, .cli] d d_ := ?_; ?_); (on_goal 1 => try dsimp only [d_]); (on_goal 2 => clear_value d_))
    | ((try lift_lets -underBinder); intro d_; try clear_value d_)
    | exact Eq.refl true
    | with_reducible refine Touches.andThen ?_ (by with_reducible exact onPort_touch ..) ?_
    | refine Touches.andThen ?_ (saUse_touch' (h_ := by assumption) ..) ?_
    | with_reducible refine Touches.andThen ?_ (by with_reducible exact macsecMarks_touch ..) ?_
    | split
    | dsimp -zeta only
    | (split at ‹ite _ _ _ = (_, _)›)
    | (cases ‹(_, _) = (_, _)›)

theorem macsecOut_touch (d : Dev) (p : Nat) (k : TmPkt) {x0 e_} (h_ : macsecOut d p k = some (x0, e_)) : Touches [.out, .sys, .fold, .cli] d e_ := (macsecOut_opt d p k).of_some h_

theorem stampOut_touch (d : Dev) (p : Nat) (k : TmPkt) (stamp : Nat) (secured : Bool) :
    Touches [.freeCtr, .out, .sys, .bell] d (stampOut d p k stamp secured).2 := by
  unfold stampOut
  repeat' first
    | with_reducible assumption
    | with_reducible exact Touches.refl
    | ((try lift_lets -underBinder); intro d_; refine (have hd_ : Touches [.freeCtr, .out, .sys, .bell] d d_ := ?_; ?_); (on_goal 1 => try dsimp only [d_]); (on_goal 2 => clear_value d_))
    | ((try lift_lets -underBinder); intro d_; try clear_value d_)
    | exact Eq.refl true
    | with_reducible refine Touches.andThen ?_ (by with_reducible exact stampFrame_touch ..) ?_
    | refine Touches.andThen ?_ (stampFrame_touch' (h_ := by assumption) ..) ?_
    | with_reducible refine Touches.andThen ?_ (by with_reducible exact captureStamp_touch ..) ?_
    | with_reducible refine Touches.andThen ?_ (by with_reducible exact drawFree_touch ..) ?_
    | refine Touches.andThen ?_ (drawFree_touch' (h_ := by assumption) ..) ?_
    | split
    | dsimp -zeta only
    | (split at ‹ite _ _ _ = (_, _)›)
    | (cases ‹(_, _) = (_, _)›)

theorem stampOut_touch' (d : Dev) (p : Nat) (k : TmPkt) (stamp : Nat) (secured : Bool) {x0 e_} (h_ : stampOut d p k stamp secured = (x0, e_)) : Touches [.freeCtr, .out, .sys, .bell] d e_ := by
  have := stampOut_touch d p k stamp secured; rw [h_] at this; exact this

theorem egress_touch (d : Dev) (p : Nat) (k : TmPkt) (stamp : Nat) (cut : Bool) (bad : Option Nat) :
    Touches [.freeCtr, .out, .sys, .bell, .fold, .cli] d (egress d p k stamp cut bad) := by
  unfold egress
  repeat' first
    | with_reducible assumption
    | with_reducible exact Touches.refl
    | ((try lift_lets -underBinder); intro d_; refine (have hd_ : Touches [.freeCtr, .out, .sys, .bell, .fold, .cli] d d_ := ?_; ?_); (on_goal 1 => try dsimp only [d_]); (on_goal 2 => clear_value d_))
    | ((try lift_lets -underBinder); intro d_; try clear_value d_)
    | exact Eq.refl true
    | with_reducible refine Touches.andThen ?_ (by with_reducible exact emit_touch ..) ?_
    | with_reducible refine Touches.andThen ?_ (by with_reducible exact bump_touch ..) ?_
    | refine Touches.andThen ?_ (macsecOut_touch (h_ := by assumption) ..) ?_
    | with_reducible refine Touches.andThen ?_ (by with_reducible exact stampOut_touch ..) ?_
    | refine Touches.andThen ?_ (stampOut_touch' (h_ := by assumption) ..) ?_
    | with_reducible refine Touches.andThen ?_ (by with_reducible exact countGood_touch ..) ?_
    | with_reducible refine Touches.andThen ?_ (by with_reducible exact onPort_touch ..) ?_
    | with_reducible refine Touches.andThen ?_ (by with_reducible exact saUse_touch ..) ?_
    | refine Touches.andThen ?_ (saUse_touch' (h_ := by assumption) ..) ?_
    | with_reducible refine Touches.andThen ?_ (by with_reducible exact macsecMarks_touch ..) ?_
    | with_reducible refine Touches.andThen ?_ (by with_reducible exact stampFrame_touch ..) ?_
    | refine Touches.andThen ?_ (stampFrame_touch' (h_ := by assumption) ..) ?_
    | split
    | dsimp -zeta only
    | (split at ‹ite _ _ _ = (_, _)›)
    | (cases ‹(_, _) = (_, _)›)

theorem toEngine_touch (d : Dev) (e q cls flags stamp : Nat) (leg : Option Nat) (bs : List Byte) :
    Touches [.freeCtr, .out, .sys, .flock, .casc, .integ] d (toEngine d e q cls flags stamp leg bs) := by
  unfold toEngine
  dsimp only
  repeat' first
    | with_reducible assumption
    | with_reducible exact Touches.refl
    | ((try lift_lets -underBinder); intro d_; refine (have hd_ : Touches [.freeCtr, .out, .sys, .flock, .casc, .integ] d d_ := ?_; ?_); (on_goal 1 => try dsimp only [d_]); (on_goal 2 => clear_value d_))
    | ((try lift_lets -underBinder); intro d_; try clear_value d_)
    | exact Eq.refl true
    | with_reducible refine Touches.andThen ?_ (by with_reducible exact drawFree_touch ..) ?_
    | refine Touches.andThen ?_ (drawFree_touch' (h_ := by assumption) ..) ?_
    | with_reducible refine Touches.andThen ?_ (by with_reducible exact mailboxPut_touch ..) ?_
    | with_reducible refine Touches.andThen ?_ (by with_reducible exact cascRouted_touch ..) ?_
    | with_reducible refine Touches.andThen ?_ (by with_reducible exact onFree_touch ..) ?_
    | split
    | dsimp -zeta only
    | (split at ‹ite _ _ _ = (_, _)›)
    | (cases ‹(_, _) = (_, _)›)

theorem forward_touch (d : Dev) (q : Nat) (x : Decision) (k : TmPkt) (auth : Bool) :
    Touches [.freeCtr, .out, .sys, .past, .tm, .flock, .casc, .integ] d (forward d q x k auth) := by
  unfold forward
  repeat' first
    | with_reducible assumption
    | with_reducible exact Touches.refl
    | ((try lift_lets -underBinder); intro d_; refine (have hd_ : Touches [.freeCtr, .out, .sys, .past, .tm, .flock, .casc, .integ] d d_ := ?_; ?_); (on_goal 1 => try dsimp only [d_]); (on_goal 2 => clear_value d_))
    | ((try lift_lets -underBinder); intro d_; try clear_value d_)
    | exact Eq.refl true
    | with_reducible refine Touches.andThen ?_ (by with_reducible exact toEngine_touch ..) ?_
    | with_reducible refine Touches.andThen ?_ (by with_reducible exact tmOffer_touch ..) ?_
    | split
    | dsimp -zeta only
    | (split at ‹ite _ _ _ = (_, _)›)
    | (cases ‹(_, _) = (_, _)›)

theorem ingest_touch (d : Dev) (q : Nat) (gem : Option Nat) (bs : List Byte) (stamp now : Nat) (twoStep : Option Nat) :
    Touches [.freeCtr, .out, .sys, .past, .parse, .tm, .flock, .casc, .integ] d (ingest d q gem bs stamp now twoStep) := by
  unfold ingest
  repeat' first
    | with_reducible assumption
    | with_reducible exact Touches.refl
    | ((try lift_lets -underBinder); intro d_; refine (have hd_ : Touches [.freeCtr, .out, .sys, .past, .parse, .tm, .flock, .casc, .integ] d d_ := ?_; ?_); (on_goal 1 => try dsimp only [d_]); (on_goal 2 => clear_value d_))
    | ((try lift_lets -underBinder); intro d_; try clear_value d_)
    | exact Eq.refl true
    | with_reducible refine Touches.andThen ?_ (by with_reducible exact classify_touch ..) ?_
    | refine Touches.andThen ?_ (classify_touch' (h_ := by assumption) ..) ?_
    | with_reducible refine Touches.andThen ?_ (by with_reducible exact forward_touch ..) ?_
    | with_reducible refine Touches.andThen ?_ (by with_reducible exact onPipe_touch ..) ?_
    | with_reducible refine Touches.andThen ?_ (by with_reducible exact laterFragment_touch ..) ?_
    | refine Touches.andThen ?_ (laterFragment_touch' (h_ := by assumption) ..) ?_
    | with_reducible refine Touches.andThen ?_ (by with_reducible exact parseFailure_touch ..) ?_
    | refine Touches.andThen ?_ (parseFailure_touch' (h_ := by assumption) ..) ?_
    | with_reducible refine Touches.andThen ?_ (by with_reducible exact byTables_touch ..) ?_
    | refine Touches.andThen ?_ (byTables_touch' (h_ := by assumption) ..) ?_
    | with_reducible refine Touches.andThen ?_ (by with_reducible exact fragInstall_touch ..) ?_
    | split
    | dsimp -zeta only
    | (split at ‹ite _ _ _ = (_, _)›)
    | (cases ‹(_, _) = (_, _)›)

end Sys2Proof.Machine
end

