-- ==== Sys2Proof/Laws/TouchCli.lean ====
section
/-! SUPPORT. Which parts of the device the operations of Machine/Cli.lean touch. -/

namespace Sys2Proof.Machine

set_option linter.all false
set_option Elab.async false

theorem macControl_touch (d : Dev) (p : Nat) (bs : List Byte) :
    Touches [.out, .sys, .cli] d (macControl d p bs) := by
  unfold macControl
  repeat' first
    | with_reducible assumption
    | with_reducible exact Touches.refl
    | exact Eq.refl true
    | with_reducible refine Touches.andThen ?_ (by with_reducible exact onPort_touch ..) ?_
    | with_reducible refine Touches.andThen ?_ (by with_reducible exact bump_touch ..) ?_
    | split
    | dsimp -zeta only
    | (split at ‹ite _ _ _ = (_, _)›)
    | (cases ‹(_, _) = (_, _)›)

theorem lldpIn_touch (d : Dev) (p : Nat) (bs : List Byte) :
    Touches [.cli] d (lldpIn d p bs) := by
  unfold lldpIn
  repeat' first
    | with_reducible assumption
    | with_reducible exact Touches.refl
    | exact Eq.refl true
    | with_reducible refine Touches.andThen ?_ (by with_reducible exact onPort_touch ..) ?_
    | split
    | dsimp -zeta only
    | (split at ‹ite _ _ _ = (_, _)›)
    | (cases ‹(_, _) = (_, _)›)

/-- The device that a check of MACsec leaves. -/
def excDev (r : Except Dev (Bool × Dev)) : Dev :=
  match r with
  | .error e => e
  | .ok x => x.2

theorem macsecIn_exc (d : Dev) (p : Nat) (f : FrameIn) : Touches [.out, .sys, .fold, .cli] d (excDev (macsecIn d p f)) := by
  unfold macsecIn
  dsimp only
  repeat' first
    | with_reducible exact .refl
    | split
    | exact .mono (bump_touch _ _ _ _)
    | dsimp only [excDev]
    | exact .andThen (.andThen (.mono (saUse_touch' _ _ _ _ (by assumption))) (onPort_touch _ _ _)) (macsecMarks_touch _ _ _ _)

theorem macsecIn_ok (d : Dev) (p : Nat) (f : FrameIn) {x e_} (h_ : macsecIn d p f = .ok (x, e_)) : Touches [.out, .sys, .fold, .cli] d e_ := by
  have := macsecIn_exc d p f; rw [h_] at this; exact this

theorem macsecIn_error (d : Dev) (p : Nat) (f : FrameIn) {e_} (h_ : macsecIn d p f = .error e_) : Touches [.out, .sys, .fold, .cli] d e_ := by
  have := macsecIn_exc d p f; rw [h_] at this; exact this

theorem rxForward_touch (d : Dev) (p : Nat) (f : FrameIn) (len wire : Nat) (bad auth : Bool) :
    Touches [.freeCtr, .out, .sys, .bell, .past, .fold, .parse, .tm, .cli, .flock, .casc, .integ] d (rxForward d p f len wire bad auth) := by
  unfold rxForward
  repeat' first
    | with_reducible assumption
    | with_reducible exact Touches.refl
    | ((try lift_lets -underBinder); intro d_; refine (have hd_ : Touches [.freeCtr, .out, .sys, .bell, .past, .fold, .parse, .tm, .cli, .flock, .casc, .integ] d d_ := ?_; ?_); (on_goal 1 => try dsimp only [d_]); (on_goal 2 => clear_value d_))
    | ((try lift_lets -underBinder); intro d_; try clear_value d_)
    | exact Eq.refl true
    | with_reducible refine Touches.andThen ?_ (by with_reducible exact classify_touch ..) ?_
    | refine Touches.andThen ?_ (classify_touch' (h_ := by assumption) ..) ?_
    | with_reducible refine Touches.andThen ?_ (by with_reducible exact egress_touch ..) ?_
    | with_reducible refine Touches.andThen ?_ (by with_reducible exact forward_touch ..) ?_
    | with_reducible refine Touches.andThen ?_ (by with_reducible exact onPipe_touch ..) ?_
    | with_reducible refine Touches.andThen ?_ (by with_reducible exact laterFragment_touch ..) ?_
    | refine Touches.andThen ?_ (laterFragment_touch' (h_ := by assumption) ..) ?_
    | with_reducible refine Touches.andThen ?_ (by with_reducible exact parseFailure_touch ..) ?_
    | refine Touches.andThen ?_ (parseFailure_touch' (h_ := by assumption) ..) ?_
    | with_reducible refine Touches.andThen ?_ (by with_reducible exact byTables_touch ..) ?_
    | refine Touches.andThen ?_ (byTables_touch' (h_ := by assumption) ..) ?_
    | with_reducible refine Touches.andThen ?_ (by with_reducible exact fragInstall_touch ..) ?_
    | split
    | dsimp -zeta only
    | (split at ‹ite _ _ _ = (_, _)›)
    | (cases ‹(_, _) = (_, _)›)

theorem clientFrame_touch (d : Dev) (p : Nat) (f : FrameIn) :
    Touches [.freeCtr, .out, .sys, .bell, .past, .fold, .parse, .tm, .cli, .flock, .casc, .integ] d (clientFrame d p f) := by
  unfold clientFrame
  repeat' first
    | with_reducible assumption
    | with_reducible exact Touches.refl
    | ((try lift_lets -underBinder); intro d_; refine (have hd_ : Touches [.freeCtr, .out, .sys, .bell, .past, .fold, .parse, .tm, .cli, .flock, .casc, .integ] d d_ := ?_; ?_); (on_goal 1 => try dsimp only [d_]); (on_goal 2 => clear_value d_))
    | ((try lift_lets -underBinder); intro d_; try clear_value d_)
    | exact Eq.refl true
    | with_reducible refine Touches.andThen ?_ (by with_reducible exact bump_touch ..) ?_
    | with_reducible refine Touches.andThen ?_ (by with_reducible exact countGood_touch ..) ?_
    | with_reducible refine Touches.andThen ?_ (by with_reducible exact macControl_touch ..) ?_
    | with_reducible refine Touches.andThen ?_ (by with_reducible exact lldpIn_touch ..) ?_
    | with_reducible refine Touches.andThen ?_ (by with_reducible exact rxForward_touch ..) ?_
    | refine Touches.andThen ?_ (macsecIn_error (h_ := by assumption) ..) ?_
    | refine Touches.andThen ?_ (macsecIn_ok (h_ := by assumption) ..) ?_
    | split
    | dsimp -zeta only
    | (split at ‹ite _ _ _ = (_, _)›)
    | (cases ‹(_, _) = (_, _)›)

theorem attempt_touch (d : Dev) (p : Nat) (k : TmPkt) (op : TxOp) :
    Touches [.freeCtr, .out, .sys, .bell, .fold, .cli] d (attempt d p k op) := by
  unfold attempt
  repeat' first
    | with_reducible assumption
    | with_reducible exact Touches.refl
    | ((try lift_lets -underBinder); intro d_; refine (have hd_ : Touches [.freeCtr, .out, .sys, .bell, .fold, .cli] d d_ := ?_; ?_); (on_goal 1 => try dsimp only [d_]); (on_goal 2 => clear_value d_))
    | ((try lift_lets -underBinder); intro d_; try clear_value d_)
    | exact Eq.refl true
    | with_reducible refine Touches.andThen ?_ (by with_reducible exact onPort_touch ..) ?_
    | with_reducible refine Touches.andThen ?_ (by with_reducible exact egress_touch ..) ?_
    | with_reducible refine Touches.andThen ?_ (by with_reducible exact bump_touch ..) ?_
    | split
    | dsimp -zeta only
    | (split at ‹ite _ _ _ = (_, _)›)
    | (cases ‹(_, _) = (_, _)›)

theorem portDequeue_touch (d : Dev) (p : Nat) (op : TxOp) :
    Touches [.freeCtr, .out, .sys, .bell, .past, .fold, .tm, .cli] d (portDequeue d p op) := by
  unfold portDequeue
  repeat' first
    | with_reducible assumption
    | with_reducible exact Touches.refl
    | exact Eq.refl true
    | refine Touches.andThen ?_ (tmTake_touch (h_ := by assumption) ..) ?_
    | with_reducible refine Touches.andThen ?_ (by with_reducible exact attempt_touch ..) ?_
    | split
    | dsimp -zeta only
    | (split at ‹ite _ _ _ = (_, _)›)
    | (cases ‹(_, _) = (_, _)›)

theorem serviceCollision_touch (d : Dev) (late : Bool) :
    Touches [.freeCtr, .out, .sys, .cli] d (serviceCollision d late) := by
  unfold serviceCollision
  repeat' first
    | with_reducible assumption
    | with_reducible exact Touches.refl
    | ((try lift_lets -underBinder); intro d_; refine (have hd_ : Touches [.freeCtr, .out, .sys, .cli] d d_ := ?_; ?_); (on_goal 1 => try dsimp only [d_]); (on_goal 2 => clear_value d_))
    | ((try lift_lets -underBinder); intro d_; try clear_value d_)
    | exact Eq.refl true
    | with_reducible refine Touches.andThen ?_ (by with_reducible exact emit_touch ..) ?_
    | with_reducible refine Touches.andThen ?_ (by with_reducible exact onPort_touch ..) ?_
    | with_reducible refine Touches.andThen ?_ (by with_reducible exact bump_touch ..) ?_
    | with_reducible refine Touches.andThen ?_ (by with_reducible exact drawFree_touch ..) ?_
    | split
    | dsimp -zeta only
    | (split at ‹ite _ _ _ = (_, _)›)
    | (cases ‹(_, _) = (_, _)›)

theorem linkTo_touch (d : Dev) (p : Nat) (up : Bool) :
    Touches [.out, .sys, .cli] d (linkTo d p up) := by
  unfold linkTo
  repeat' first
    | with_reducible assumption
    | with_reducible exact Touches.refl
    | exact Eq.refl true
    | with_reducible refine Touches.andThen ?_ (by with_reducible exact onPort_touch ..) ?_
    | with_reducible refine Touches.andThen ?_ (by with_reducible exact raiseLeaf_touch ..) ?_
    | split
    | dsimp -zeta only
    | (split at ‹ite _ _ _ = (_, _)›)
    | (cases ‹(_, _) = (_, _)›)

theorem lpiEnter_touch (d : Dev) (p : Nat) (received : Bool) :
    Touches [.out, .sys, .cli] d (lpiEnter d p received) := by
  unfold lpiEnter
  repeat' first
    | with_reducible assumption
    | with_reducible exact Touches.refl
    | ((try lift_lets -underBinder); intro d_; refine (have hd_ : Touches [.out, .sys, .cli] d d_ := ?_; ?_); (on_goal 1 => try dsimp only [d_]); (on_goal 2 => clear_value d_))
    | ((try lift_lets -underBinder); intro d_; try clear_value d_)
    | exact Eq.refl true
    | with_reducible refine Touches.andThen ?_ (by with_reducible exact onPort_touch ..) ?_
    | with_reducible refine Touches.andThen ?_ (by with_reducible exact bump_touch ..) ?_
    | split
    | dsimp -zeta only
    | (split at ‹ite _ _ _ = (_, _)›)
    | (cases ‹(_, _) = (_, _)›)

theorem statSnap_touch (d : Dev) (p : Nat) :
    Touches [.cli] d (statSnap d p) := by
  unfold statSnap
  repeat' first
    | with_reducible assumption
    | with_reducible exact Touches.refl
    | exact Eq.refl true
    | with_reducible refine Touches.andThen ?_ (by with_reducible exact onPort_touch ..) ?_
    | split
    | dsimp -zeta only
    | (split at ‹ite _ _ _ = (_, _)›)
    | (cases ‹(_, _) = (_, _)›)

theorem cntLoRead_touch (d : Dev) (p i : Nat) :
    Touches [.out, .cli] d (cntLoRead d p i) := by
  unfold cntLoRead
  repeat' first
    | with_reducible assumption
    | with_reducible exact Touches.refl
    | ((try lift_lets -underBinder); intro d_; refine (have hd_ : Touches [.out, .cli] d d_ := ?_; ?_); (on_goal 1 => try dsimp only [d_]); (on_goal 2 => clear_value d_))
    | ((try lift_lets -underBinder); intro d_; try clear_value d_)
    | exact Eq.refl true
    | with_reducible refine Touches.andThen ?_ (by with_reducible exact onPort_touch ..) ?_
    | with_reducible refine Touches.andThen ?_ (by with_reducible exact emitRead_touch ..) ?_
    | split
    | dsimp -zeta only
    | (split at ‹ite _ _ _ = (_, _)›)
    | (cases ‹(_, _) = (_, _)›)

theorem mkaFrame_touch (d : Dev) (p : Nat) (newSak : Bool) (dir ssci : Nat) :
    Touches [.freeCtr, .out, .fold] d (mkaFrame d p newSak dir ssci) := by
  unfold mkaFrame
  repeat' first
    | with_reducible assumption
    | with_reducible exact Touches.refl
    | ((try lift_lets -underBinder); intro d_; refine (have hd_ : Touches [.freeCtr, .out, .fold] d d_ := ?_; ?_); (on_goal 1 => try dsimp only [d_]); (on_goal 2 => clear_value d_))
    | ((try lift_lets -underBinder); intro d_; try clear_value d_)
    | exact Eq.refl true
    | split
    | with_reducible refine Touches.andThen ?_ (by with_reducible exact emit_touch ..) ?_
    | with_reducible refine onFold_step ?_ ?_ ?_ ?_
    | with_reducible refine Touches.andThen ?_ (by with_reducible exact drawFree_touch ..) ?_
    | refine Touches.andThen ?_ (drawFree_touch' (h_ := by assumption) ..) ?_
    | with_reducible refine Touches.andThen ?_ (by with_reducible exact onFree_touch ..) ?_
    | exact partOr_left rfl
    | exact .inr rfl
    | exact .inr (by (repeat' split) <;> rfl)
    | split
    | dsimp -zeta only
    | (split at ‹ite _ _ _ = (_, _)›)
    | (cases ‹(_, _) = (_, _)›)

theorem applyCliConfig_touch (mode : Nat) (d : Dev) :
    Touches [.cli] d (applyCliConfig mode d) := by
  unfold applyCliConfig
  repeat' first
    | with_reducible assumption
    | with_reducible exact Touches.refl
    | exact Eq.refl true
    | with_reducible refine Touches.andThen ?_ (by with_reducible exact onCli_touch ..) ?_
    | split
    | dsimp -zeta only
    | (split at ‹ite _ _ _ = (_, _)›)
    | (cases ‹(_, _) = (_, _)›)

theorem applyCliPath_touch (port att : Nat) (d : Dev) :
    Touches [.out, .sys, .cli] d (applyCliPath port att d) := by
  unfold applyCliPath
  repeat' first
    | with_reducible assumption
    | with_reducible exact Touches.refl
    | exact Eq.refl true
    | with_reducible refine Touches.andThen ?_ (by with_reducible exact onPort_touch ..) ?_
    | with_reducible refine Touches.andThen ?_ (by with_reducible exact linkTo_touch ..) ?_
    | split
    | dsimp -zeta only
    | (split at ‹ite _ _ _ = (_, _)›)
    | (cases ‹(_, _) = (_, _)›)

theorem applyCliPortConfig_touch (port : Nat) (f : PortFields) (d : Dev) :
    Touches [.out, .sys, .aux, .tm, .cli] d (applyCliPortConfig port f d) := by
  unfold applyCliPortConfig
  repeat' first
    | with_reducible assumption
    | with_reducible exact Touches.refl
    | ((try lift_lets -underBinder); intro d_; refine (have hd_ : Touches [.out, .sys, .aux, .tm, .cli] d d_ := ?_; ?_); (on_goal 1 => try dsimp only [d_]); (on_goal 2 => clear_value d_))
    | ((try lift_lets -underBinder); intro d_; try clear_value d_)
    | exact Eq.refl true
    | with_reducible refine Touches.andThen ?_ (by with_reducible exact onAux_touch ..) ?_
    | with_reducible refine Touches.andThen ?_ (by with_reducible exact onPort_touch ..) ?_
    | with_reducible refine Touches.andThen ?_ (by with_reducible exact linkTo_touch ..) ?_
    | with_reducible refine Touches.andThen ?_ (by with_reducible exact freeOwned_touch ..) ?_
    | with_reducible refine Touches.andThen ?_ (by with_reducible exact getD_touch (cutQueue_opt ..)) ?_
    | split
    | dsimp -zeta only
    | (split at ‹ite _ _ _ = (_, _)›)
    | (cases ‹(_, _) = (_, _)›)

theorem applyCliAddrSet_touch (port entry addr : Nat) (valid : Bool) (d : Dev) :
    Touches [.cli] d (applyCliAddrSet port entry addr valid d) := by
  unfold applyCliAddrSet
  repeat' first
    | with_reducible assumption
    | with_reducible exact Touches.refl
    | exact Eq.refl true
    | with_reducible refine Touches.andThen ?_ (by with_reducible exact onPort_touch ..) ?_
    | split
    | dsimp -zeta only
    | (split at ‹ite _ _ _ = (_, _)›)
    | (cases ‹(_, _) = (_, _)›)

theorem applyCliMacsecSet_touch (port validate replay : Nat) (enable : Bool) (d : Dev) :
    Touches [.cli] d (applyCliMacsecSet port validate replay enable d) := by
  unfold applyCliMacsecSet
  repeat' first
    | with_reducible assumption
    | with_reducible exact Touches.refl
    | exact Eq.refl true
    | with_reducible refine Touches.andThen ?_ (by with_reducible exact onPort_touch ..) ?_
    | split
    | dsimp -zeta only
    | (split at ‹ite _ _ _ = (_, _)›)
    | (cases ‹(_, _) = (_, _)›)

theorem applyCliMacsecSa_touch (port dir sci an handle : Nat) (d : Dev) :
    Touches [.fold, .cli] d (applyCliMacsecSa port dir sci an handle d) := by
  unfold applyCliMacsecSa
  repeat' first
    | with_reducible assumption
    | with_reducible exact Touches.refl
    | ((try lift_lets -underBinder); intro d_; refine (have hd_ : Touches [.fold, .cli] d d_ := ?_; ?_); (on_goal 1 => try dsimp only [d_]); (on_goal 2 => clear_value d_))
    | ((try lift_lets -underBinder); intro d_; try clear_value d_)
    | with_reducible apply Touches.foldl
    | (intro _ _ _)
    | exact Eq.refl true
    | with_reducible refine Touches.andThen ?_ (by with_reducible exact onPort_touch ..) ?_
    | with_reducible refine Touches.andThen ?_ (by with_reducible exact saUnbind_touch ..) ?_
    | with_reducible refine Touches.andThen ?_ (by with_reducible exact saBind_touch ..) ?_
    | split
    | dsimp -zeta only
    | (split at ‹ite _ _ _ = (_, _)›)
    | (cases ‹(_, _) = (_, _)›)

theorem cliWrite_opt (d : Dev) (off : Nat) (v : Word) : OptTouch (α := Dev) (fun x => x) [.cli] d (cliWrite d off v) := by
  unfold cliWrite
  repeat' first
    | with_reducible assumption
    | with_reducible exact Touches.refl
    | exact OptTouch.none
    | with_reducible refine OptTouch.some ?_
    | ((try lift_lets -underBinder); intro d_; refine (have hd_ : Touches [.cli] d d_ := ?_; ?_); (on_goal 1 => try dsimp only [d_]); (on_goal 2 => clear_value d_))
    | ((try lift_lets -underBinder); intro d_; try clear_value d_)
    | exact Eq.refl true
    | with_reducible refine Touches.andThen ?_ (by with_reducible exact onPort_touch ..) ?_
    | with_reducible refine Touches.andThen ?_ (by with_reducible exact statSnap_touch ..) ?_
    | split
    | dsimp -zeta only
    | (split at ‹ite _ _ _ = (_, _)›)
    | (cases ‹(_, _) = (_, _)›)

theorem cliWrite_touch (d : Dev) (off : Nat) (v : Word) {e_} (h_ : cliWrite d off v = some e_) : Touches [.cli] d e_ := (cliWrite_opt d off v).of_some h_

end Sys2Proof.Machine
end

