-- ==== Sys2Proof/Laws/TouchCasc.lean ====
section
/-! SUPPORT. Which parts of the device the operations of Machine/Casc.lean touch. -/

namespace Sys2Proof.Machine

set_option linter.all false
set_option Elab.async false

theorem sendTopo_touch (d : Dev) (p : Nat) :
    Touches [.out, .casc] d (sendTopo d p) := by
  unfold sendTopo
  repeat' first
    | with_reducible assumption
    | with_reducible exact Touches.refl
    | ((try lift_lets -underBinder); intro d_; refine (have hd_ : Touches [.out, .casc] d d_ := ?_; ?_); (on_goal 1 => try dsimp only [d_]); (on_goal 2 => clear_value d_))
    | ((try lift_lets -underBinder); intro d_; try clear_value d_)
    | exact Eq.refl true
    | with_reducible refine Touches.andThen ?_ (by with_reducible exact cascNear_touch ..) ?_
    | split
    | dsimp -zeta only
    | (split at ‹ite _ _ _ = (_, _)›)
    | (cases ‹(_, _) = (_, _)›)

theorem twinPathCheck_touch (d : Dev) :
    Touches [.out, .sys, .casc] d (twinPathCheck d) := by
  unfold twinPathCheck
  repeat' first
    | with_reducible assumption
    | with_reducible exact Touches.refl
    | ((try lift_lets -underBinder); intro d_; refine (have hd_ : Touches [.out, .sys, .casc] d d_ := ?_; ?_); (on_goal 1 => try dsimp only [d_]); (on_goal 2 => clear_value d_))
    | ((try lift_lets -underBinder); intro d_; try clear_value d_)
    | exact Eq.refl true
    | with_reducible refine Touches.andThen ?_ (by with_reducible exact onCasc_touch ..) ?_
    | with_reducible refine Touches.andThen ?_ (by with_reducible exact raiseLeaf_touch ..) ?_
    | split
    | dsimp -zeta only
    | (split at ‹ite _ _ _ = (_, _)›)
    | (cases ‹(_, _) = (_, _)›)

theorem topoUpdate_touch (d : Dev) :
    Touches [.out, .sys, .casc] d (topoUpdate d) := by
  unfold topoUpdate
  repeat' first
    | with_reducible assumption
    | with_reducible exact Touches.refl
    | ((try lift_lets -underBinder); intro d_; refine (have hd_ : Touches [.out, .sys, .casc] d d_ := ?_; ?_); (on_goal 1 => try dsimp only [d_]); (on_goal 2 => clear_value d_))
    | ((try lift_lets -underBinder); intro d_; try clear_value d_)
    | exact Eq.refl true
    | with_reducible refine Touches.andThen ?_ (by with_reducible exact onCasc_touch ..) ?_
    | with_reducible refine Touches.andThen ?_ (by with_reducible exact twinPathCheck_touch ..) ?_
    | with_reducible refine Touches.andThen ?_ (by with_reducible exact sendTopo_touch ..) ?_
    | with_reducible refine Touches.andThen ?_ (by with_reducible exact raiseLeaf_touch ..) ?_
    | split
    | dsimp -zeta only
    | (split at ‹ite _ _ _ = (_, _)›)
    | (cases ‹(_, _) = (_, _)›)

theorem cascAligned_touch (d : Dev) (p : Nat) :
    Touches [.casc] d (cascAligned d p) := by
  unfold cascAligned
  repeat' first
    | with_reducible assumption
    | with_reducible exact Touches.refl
    | exact Eq.refl true
    | with_reducible refine Touches.andThen ?_ (by with_reducible exact onCascPort_touch ..) ?_
    | split
    | dsimp -zeta only
    | (split at ‹ite _ _ _ = (_, _)›)
    | (cases ‹(_, _) = (_, _)›)

theorem helloRx_touch (p domain dev : Nat) (d : Dev) :
    Touches [.out, .sys, .casc] d (helloRx p domain dev d) := by
  unfold helloRx
  repeat' first
    | with_reducible assumption
    | with_reducible exact Touches.refl
    | ((try lift_lets -underBinder); intro d_; refine (have hd_ : Touches [.out, .sys, .casc] d d_ := ?_; ?_); (on_goal 1 => try dsimp only [d_]); (on_goal 2 => clear_value d_))
    | ((try lift_lets -underBinder); intro d_; try clear_value d_)
    | exact Eq.refl true
    | with_reducible refine Touches.andThen ?_ (by with_reducible exact onCascPort_touch ..) ?_
    | with_reducible refine Touches.andThen ?_ (by with_reducible exact cascDown_touch ..) ?_
    | with_reducible refine Touches.andThen ?_ (by with_reducible exact raiseLeaf_touch ..) ?_
    | with_reducible refine Touches.andThen ?_ (by with_reducible exact topoUpdate_touch ..) ?_
    | split
    | dsimp -zeta only
    | (split at ‹ite _ _ _ = (_, _)›)
    | (cases ‹(_, _) = (_, _)›)

theorem shadowDeliver_touch (n cls flags stamp : Nat) (bytes : List Byte) (d : Dev) :
    Touches [.freeCtr, .out, .sys, .flock, .integ] d (shadowDeliver n cls flags stamp bytes d) := by
  unfold shadowDeliver
  repeat' first
    | with_reducible assumption
    | with_reducible exact Touches.refl
    | ((try lift_lets -underBinder); intro d_; refine (have hd_ : Touches [.freeCtr, .out, .sys, .flock, .integ] d d_ := ?_; ?_); (on_goal 1 => try dsimp only [d_]); (on_goal 2 => clear_value d_))
    | ((try lift_lets -underBinder); intro d_; try clear_value d_)
    | exact Eq.refl true
    | with_reducible refine Touches.andThen ?_ (by with_reducible exact drawFree_touch ..) ?_
    | with_reducible refine Touches.andThen ?_ (by with_reducible exact mailboxPut_touch ..) ?_
    | split
    | dsimp -zeta only
    | (split at ‹ite _ _ _ = (_, _)›)
    | (cases ‹(_, _) = (_, _)›)

theorem shadowDiverged_touch (n : Nat) (d : Dev) :
    Touches [.out, .sys, .media, .casc] d (shadowDiverged n d) := by
  unfold shadowDiverged
  repeat' first
    | with_reducible assumption
    | with_reducible exact Touches.refl
    | ((try lift_lets -underBinder); intro d_; refine (have hd_ : Touches [.out, .sys, .media, .casc] d d_ := ?_; ?_); (on_goal 1 => try dsimp only [d_]); (on_goal 2 => clear_value d_))
    | ((try lift_lets -underBinder); intro d_; try clear_value d_)
    | exact Eq.refl true
    | with_reducible refine Touches.andThen ?_ (by with_reducible exact onLeg_touch ..) ?_
    | with_reducible refine Touches.andThen ?_ (by with_reducible exact onCasc_touch ..) ?_
    | with_reducible refine Touches.andThen ?_ (by with_reducible exact legCount_touch ..) ?_
    | with_reducible refine Touches.andThen ?_ (by with_reducible exact raiseLeaf_touch ..) ?_
    | split
    | dsimp -zeta only
    | (split at ‹ite _ _ _ = (_, _)›)
    | (cases ‹(_, _) = (_, _)›)

theorem mediaRx_touch (pay : MediaPay) (d : Dev) :
    Touches [.freeCtr, .out, .sys, .flock, .media, .casc, .integ] d (mediaRx pay d) := by
  unfold mediaRx
  repeat' first
    | with_reducible assumption
    | with_reducible exact Touches.refl
    | ((try lift_lets -underBinder); intro d_; refine (have hd_ : Touches [.freeCtr, .out, .sys, .flock, .media, .casc, .integ] d d_ := ?_; ?_); (on_goal 1 => try dsimp only [d_]); (on_goal 2 => clear_value d_))
    | ((try lift_lets -underBinder); intro d_; try clear_value d_)
    | exact Eq.refl true
    | with_reducible refine Touches.andThen ?_ (by with_reducible exact onCasc_touch ..) ?_
    | with_reducible refine Touches.andThen ?_ (by with_reducible exact raiseLeaf_touch ..) ?_
    | with_reducible refine Touches.andThen ?_ (by with_reducible exact shadowDeliver_touch ..) ?_
    | with_reducible refine Touches.andThen ?_ (by with_reducible exact shadowDiverged_touch ..) ?_
    | split
    | dsimp -zeta only
    | (split at ‹ite _ _ _ = (_, _)›)
    | (cases ‹(_, _) = (_, _)›)

theorem spanSend_touch (d : Dev) (n : Nat) (c : Conf) :
    Touches [.out, .casc] d (spanSend d n c) := by
  unfold spanSend
  repeat' first
    | with_reducible assumption
    | with_reducible exact Touches.refl
    | ((try lift_lets -underBinder); intro d_; refine (have hd_ : Touches [.out, .casc] d d_ := ?_; ?_); (on_goal 1 => try dsimp only [d_]); (on_goal 2 => clear_value d_))
    | ((try lift_lets -underBinder); intro d_; try clear_value d_)
    | with_reducible apply Touches.foldl
    | (intro _ _ _)
    | exact Eq.refl true
    | with_reducible refine Touches.andThen ?_ (by with_reducible exact cascRouted_touch ..) ?_
    | split
    | dsimp -zeta only
    | (split at ‹ite _ _ _ = (_, _)›)
    | (cases ‹(_, _) = (_, _)›)

theorem toShadows_touch (d : Dev) :
    Touches [.media, .aud] d (toShadows d) := by
  unfold toShadows
  repeat' first
    | with_reducible assumption
    | with_reducible exact Touches.refl
    | ((try lift_lets -underBinder); intro d_; refine (have hd_ : Touches [.media, .aud] d d_ := ?_; ?_); (on_goal 1 => try dsimp only [d_]); (on_goal 2 => clear_value d_))
    | ((try lift_lets -underBinder); intro d_; try clear_value d_)
    | exact Eq.refl true
    | with_reducible refine Touches.andThen ?_ (by with_reducible exact onMedia_touch ..) ?_
    | with_reducible refine Touches.andThen ?_ (by with_reducible exact onAud_touch ..) ?_
    | split
    | dsimp -zeta only
    | (split at ‹ite _ _ _ = (_, _)›)
    | (cases ‹(_, _) = (_, _)›)

theorem twinReturn_touch (d : Dev) :
    Touches [.out, .sys, .media, .aud, .casc] d (twinReturn d) := by
  unfold twinReturn
  repeat' first
    | with_reducible assumption
    | with_reducible exact Touches.refl
    | exact Eq.refl true
    | with_reducible refine Touches.andThen ?_ (by with_reducible exact onCasc_touch ..) ?_
    | with_reducible refine Touches.andThen ?_ (by with_reducible exact raiseLeaf_touch ..) ?_
    | with_reducible refine Touches.andThen ?_ (by with_reducible exact toShadows_touch ..) ?_
    | split
    | dsimp -zeta only
    | (split at ‹ite _ _ _ = (_, _)›)
    | (cases ‹(_, _) = (_, _)›)

theorem takeoverRx_touch (taken home : Nat) (d : Dev) :
    Touches [.out, .sys, .media, .aud, .casc] d (takeoverRx taken home d) := by
  unfold takeoverRx
  repeat' first
    | with_reducible assumption
    | with_reducible exact Touches.refl
    | ((try lift_lets -underBinder); intro d_; refine (have hd_ : Touches [.out, .sys, .media, .aud, .casc] d d_ := ?_; ?_); (on_goal 1 => try dsimp only [d_]); (on_goal 2 => clear_value d_))
    | ((try lift_lets -underBinder); intro d_; try clear_value d_)
    | exact Eq.refl true
    | with_reducible refine Touches.andThen ?_ (by with_reducible exact onCasc_touch ..) ?_
    | with_reducible refine Touches.andThen ?_ (by with_reducible exact onMedia_touch ..) ?_
    | with_reducible refine Touches.andThen ?_ (by with_reducible exact twinReturn_touch ..) ?_
    | split
    | dsimp -zeta only
    | (split at ‹ite _ _ _ = (_, _)›)
    | (cases ‹(_, _) = (_, _)›)

theorem takeOver_touch (d : Dev) :
    Touches [.out, .sys, .parse, .media, .aud, .casc] d (takeOver d) := by
  unfold takeOver
  repeat' first
    | with_reducible assumption
    | with_reducible exact Touches.refl
    | ((try lift_lets -underBinder); intro d_; refine (have hd_ : Touches [.out, .sys, .parse, .media, .aud, .casc] d d_ := ?_; ?_); (on_goal 1 => try dsimp only [d_]); (on_goal 2 => clear_value d_))
    | ((try lift_lets -underBinder); intro d_; try clear_value d_)
    | with_reducible apply Touches.foldl
    | (intro _ _ _)
    | exact Eq.refl true
    | with_reducible refine Touches.andThen ?_ (by with_reducible exact onMedia_touch ..) ?_
    | with_reducible refine Touches.andThen ?_ (by with_reducible exact onAud_touch ..) ?_
    | with_reducible refine Touches.andThen ?_ (by with_reducible exact onCasc_touch ..) ?_
    | with_reducible refine Touches.andThen ?_ (by with_reducible exact steerLeg_touch ..) ?_
    | with_reducible refine Touches.andThen ?_ (by with_reducible exact broadcast_touch ..) ?_
    | with_reducible refine Touches.andThen ?_ (by with_reducible exact raiseLeaf_touch ..) ?_
    | split
    | dsimp -zeta only
    | (split at ‹ite _ _ _ = (_, _)›)
    | (cases ‹(_, _) = (_, _)›)

theorem announceLegs_touch (d : Dev) :
    Touches [.out] d (announceLegs d) := by
  unfold announceLegs
  repeat' first
    | with_reducible assumption
    | with_reducible exact Touches.refl
    | ((try lift_lets -underBinder); intro d_; refine (have hd_ : Touches [.out] d d_ := ?_; ?_); (on_goal 1 => try dsimp only [d_]); (on_goal 2 => clear_value d_))
    | ((try lift_lets -underBinder); intro d_; try clear_value d_)
    | with_reducible apply Touches.foldl
    | (intro _ _ _)
    | exact Eq.refl true
    | with_reducible refine Touches.andThen ?_ (by with_reducible exact emit_touch ..) ?_
    | split
    | dsimp -zeta only
    | (split at ‹ite _ _ _ = (_, _)›)
    | (cases ‹(_, _) = (_, _)›)

theorem twinCrcs_touch (d : Dev) :
    Touches [.freeCtr, .out, .casc] d (twinCrcs d) := by
  unfold twinCrcs
  repeat' first
    | with_reducible assumption
    | with_reducible exact Touches.refl
    | ((try lift_lets -underBinder); intro d_; refine (have hd_ : Touches [.freeCtr, .out, .casc] d d_ := ?_; ?_); (on_goal 1 => try dsimp only [d_]); (on_goal 2 => clear_value d_))
    | ((try lift_lets -underBinder); intro d_; try clear_value d_)
    | with_reducible apply Touches.foldl
    | (intro _ _ _)
    | exact Eq.refl true
    | with_reducible refine Touches.andThen ?_ (by with_reducible exact drawFree_touch ..) ?_
    | refine Touches.andThen ?_ (drawFree_touch' (h_ := by assumption) ..) ?_
    | with_reducible refine Touches.andThen ?_ (by with_reducible exact cascRouted_touch ..) ?_
    | with_reducible refine Touches.andThen ?_ (by with_reducible exact onFree_touch ..) ?_
    | split
    | dsimp -zeta only
    | (split at ‹ite _ _ _ = (_, _)›)
    | (cases ‹(_, _) = (_, _)›)

theorem cascBell_touch (d : Dev) :
    Touches [.freeCtr, .out, .sys, .media, .aud, .casc] d (cascBell d) := by
  unfold cascBell
  repeat' first
    | with_reducible assumption
    | with_reducible exact Touches.refl
    | ((try lift_lets -underBinder); intro d_; refine (have hd_ : Touches [.freeCtr, .out, .sys, .media, .aud, .casc] d d_ := ?_; ?_); (on_goal 1 => try dsimp only [d_]); (on_goal 2 => clear_value d_))
    | ((try lift_lets -underBinder); intro d_; try clear_value d_)
    | with_reducible apply Touches.foldl
    | (intro _ _ _)
    | exact Eq.refl true
    | with_reducible refine Touches.andThen ?_ (by with_reducible exact onCasc_touch ..) ?_
    | with_reducible refine Touches.andThen ?_ (by with_reducible exact topoUpdate_touch ..) ?_
    | with_reducible refine Touches.andThen ?_ (by with_reducible exact toShadows_touch ..) ?_
    | with_reducible refine Touches.andThen ?_ (by with_reducible exact announceLegs_touch ..) ?_
    | with_reducible refine Touches.andThen ?_ (by with_reducible exact twinCrcs_touch ..) ?_
    | with_reducible refine Touches.andThen ?_ (by with_reducible exact spanSend_touch ..) ?_
    | split
    | dsimp -zeta only
    | (split at ‹ite _ _ _ = (_, _)›)
    | (cases ‹(_, _) = (_, _)›)

theorem cascUsed_touch (d : Dev) :
    Touches [.casc] d (cascUsed d) := by
  unfold cascUsed
  repeat' first
    | with_reducible assumption
    | with_reducible exact Touches.refl
    | ((try lift_lets -underBinder); intro d_; refine (have hd_ : Touches [.casc] d d_ := ?_; ?_); (on_goal 1 => try dsimp only [d_]); (on_goal 2 => clear_value d_))
    | ((try lift_lets -underBinder); intro d_; try clear_value d_)
    | exact Eq.refl true
    | with_reducible refine Touches.andThen ?_ (by with_reducible exact onCasc_touch ..) ?_
    | split
    | dsimp -zeta only
    | (split at ‹ite _ _ _ = (_, _)›)
    | (cases ‹(_, _) = (_, _)›)

theorem applyCascConfig_touch (domain device ports base gen : Nat) (d : Dev) :
    Touches [.casc] d (applyCascConfig domain device ports base gen d) := by
  unfold applyCascConfig
  repeat' first
    | with_reducible assumption
    | with_reducible exact Touches.refl
    | ((try lift_lets -underBinder); intro d_; refine (have hd_ : Touches [.casc] d d_ := ?_; ?_); (on_goal 1 => try dsimp only [d_]); (on_goal 2 => clear_value d_))
    | ((try lift_lets -underBinder); intro d_; try clear_value d_)
    | with_reducible apply Touches.foldl
    | (intro _ _ _)
    | exact Eq.refl true
    | with_reducible refine Touches.andThen ?_ (by with_reducible exact onCasc_touch ..) ?_
    | with_reducible refine Touches.andThen ?_ (by with_reducible exact onCascPort_touch ..) ?_
    | split
    | dsimp -zeta only
    | (split at ‹ite _ _ _ = (_, _)›)
    | (cases ‹(_, _) = (_, _)›)

theorem applyCascConfBind_touch (tag home : Nat) (d : Dev) :
    Touches [.media] d (applyCascConfBind tag home d) := by
  unfold applyCascConfBind
  repeat' first
    | with_reducible assumption
    | with_reducible exact Touches.refl
    | exact Eq.refl true
    | with_reducible refine Touches.andThen ?_ (by with_reducible exact onMedia_touch ..) ?_
    | split
    | dsimp -zeta only
    | (split at ‹ite _ _ _ = (_, _)›)
    | (cases ‹(_, _) = (_, _)›)

theorem applyCascTwinSet_touch (twin : Nat) (d : Dev) :
    Touches [.out, .sys, .casc] d (applyCascTwinSet twin d) := by
  unfold applyCascTwinSet
  repeat' first
    | with_reducible assumption
    | with_reducible exact Touches.refl
    | exact Eq.refl true
    | with_reducible refine Touches.andThen ?_ (by with_reducible exact onCasc_touch ..) ?_
    | with_reducible refine Touches.andThen ?_ (by with_reducible exact twinPathCheck_touch ..) ?_
    | split
    | dsimp -zeta only
    | (split at ‹ite _ _ _ = (_, _)›)
    | (cases ‹(_, _) = (_, _)›)

theorem applyCascTakeover_touch (d : Dev) :
    Touches [.out, .sys, .parse, .media, .aud, .casc] d (applyCascTakeover d) := by
  unfold applyCascTakeover
  repeat' first
    | with_reducible assumption
    | with_reducible exact Touches.refl
    | exact Eq.refl true
    | with_reducible refine Touches.andThen ?_ (by with_reducible exact takeOver_touch ..) ?_
    | split
    | dsimp -zeta only
    | (split at ‹ite _ _ _ = (_, _)›)
    | (cases ‹(_, _) = (_, _)›)

theorem applyCascSaPair_touch (handle other : Nat) (d : Dev) :
    Touches [.casc] d (applyCascSaPair handle other d) := by
  unfold applyCascSaPair
  repeat' first
    | with_reducible assumption
    | with_reducible exact Touches.refl
    | exact Eq.refl true
    | with_reducible refine Touches.andThen ?_ (by with_reducible exact onCasc_touch ..) ?_
    | split
    | dsimp -zeta only
    | (split at ‹ite _ _ _ = (_, _)›)
    | (cases ‹(_, _) = (_, _)›)

theorem cascReadClear_touch (d : Dev) (off : Nat) :
    Touches [.casc] d (cascReadClear d off) := by
  unfold cascReadClear
  repeat' first
    | with_reducible assumption
    | with_reducible exact Touches.refl
    | exact Eq.refl true
    | with_reducible refine Touches.andThen ?_ (by with_reducible exact onCascPort_touch ..) ?_
    | with_reducible refine Touches.andThen ?_ (by with_reducible exact onCasc_touch ..) ?_
    | split
    | dsimp -zeta only
    | (split at ‹ite _ _ _ = (_, _)›)
    | (cases ‹(_, _) = (_, _)›)

theorem cascDequeue_touch (d : Dev) (p now stamp : Nat) :
    Touches [.freeCtr, .out, .sys, .bell, .past, .tm, .casc] d (cascDequeue d p now stamp) := by
  unfold cascDequeue
  repeat' first
    | with_reducible assumption
    | with_reducible exact Touches.refl
    | ((try lift_lets -underBinder); intro d_; refine (have hd_ : Touches [.freeCtr, .out, .sys, .bell, .past, .tm, .casc] d d_ := ?_; ?_); (on_goal 1 => try dsimp only [d_]); (on_goal 2 => clear_value d_))
    | ((try lift_lets -underBinder); intro d_; try clear_value d_)
    | exact Eq.refl true
    | refine Touches.andThen ?_ (tmTake_touch (h_ := by assumption) ..) ?_
    | with_reducible refine Touches.andThen ?_ (by with_reducible exact stampFrame_touch ..) ?_
    | refine Touches.andThen ?_ (stampFrame_touch' (h_ := by assumption) ..) ?_
    | with_reducible refine Touches.andThen ?_ (by with_reducible exact cascTx_touch ..) ?_
    | with_reducible refine Touches.andThen ?_ (by with_reducible exact onQueue_touch ..) ?_
    | with_reducible refine Touches.andThen ?_ (by with_reducible exact commitDrr_touch ..) ?_
    | with_reducible refine Touches.andThen ?_ (by with_reducible exact chargePath_touch ..) ?_
    | with_reducible refine Touches.andThen ?_ (by with_reducible exact deepCharge_touch ..) ?_
    | with_reducible refine Touches.andThen ?_ (by with_reducible exact sojourn_touch ..) ?_
    | with_reducible refine Touches.andThen ?_ (by with_reducible exact captureStamp_touch ..) ?_
    | with_reducible refine Touches.andThen ?_ (by with_reducible exact drawFree_touch ..) ?_
    | refine Touches.andThen ?_ (drawFree_touch' (h_ := by assumption) ..) ?_
    | split
    | dsimp -zeta only
    | (split at ‹ite _ _ _ = (_, _)›)
    | (cases ‹(_, _) = (_, _)›)

theorem dropUnread_touch (d : Dev) (root now : Nat) : Touches [.out, .sys, .past, .tm] d (dropUnread d root now) := by
  unfold dropUnread
  split
  · exact .refl
  · rename_i h_
    have h := Touches.mono (ps := [.out, .sys, .past, .tm]) (tmTake_touch _ _ _ h_)
    split
    · exact .andThen h (qDrop_touch _ _ _)
    · exact h

end Sys2Proof.Machine
end

