-- ==== Sys2Proof/Laws/TouchLane.lean ====
section
/-! SUPPORT. Which parts of the device the operations of Machine/Lane.lean touch. -/

namespace Sys2Proof.Machine

set_option linter.all false
set_option Elab.async false

theorem laneOutOfService_touch (d : Dev) (n : Nat) :
    Touches [.out, .sys, .cli, .casc] d (laneOutOfService d n) := by
  unfold laneOutOfService
  repeat' first
    | with_reducible assumption
    | with_reducible exact Touches.refl
    | ((try lift_lets -underBinder); intro d_; refine (have hd_ : Touches [.out, .sys, .cli, .casc] d d_ := ?_; ?_); (on_goal 1 => try dsimp only [d_]); (on_goal 2 => clear_value d_))
    | ((try lift_lets -underBinder); intro d_; try clear_value d_)
    | with_reducible apply Touches.foldl
    | (intro _ _ _)
    | exact Eq.refl true
    | with_reducible refine Touches.andThen ?_ (by with_reducible exact linkTo_touch ..) ?_
    | with_reducible refine Touches.andThen ?_ (by with_reducible exact cascDown_touch ..) ?_
    | split
    | dsimp -zeta only
    | (split at ‹ite _ _ _ = (_, _)›)
    | (cases ‹(_, _) = (_, _)›)

theorem laneFailed_touch (d : Dev) (n : Nat) :
    Touches [.out, .sys, .cli, .casc, .lane] d (laneFailed d n) := by
  unfold laneFailed
  repeat' first
    | with_reducible assumption
    | with_reducible exact Touches.refl
    | ((try lift_lets -underBinder); intro d_; refine (have hd_ : Touches [.out, .sys, .cli, .casc, .lane] d d_ := ?_; ?_); (on_goal 1 => try dsimp only [d_]); (on_goal 2 => clear_value d_))
    | ((try lift_lets -underBinder); intro d_; try clear_value d_)
    | exact Eq.refl true
    | with_reducible refine Touches.andThen ?_ (by with_reducible exact onLane_touch ..) ?_
    | with_reducible refine Touches.andThen ?_ (by with_reducible exact onGroupL_touch ..) ?_
    | with_reducible refine Touches.andThen ?_ (by with_reducible exact laneOutOfService_touch ..) ?_
    | with_reducible refine Touches.andThen ?_ (by with_reducible exact raiseLeaf_touch ..) ?_
    | split
    | dsimp -zeta only
    | (split at ‹ite _ _ _ = (_, _)›)
    | (cases ‹(_, _) = (_, _)›)

theorem spareSwitch_touch (d : Dev) (g k : Nat) (back : Bool) :
    Touches [.out, .sys, .lane] d (spareSwitch d g k back) := by
  unfold spareSwitch
  repeat' first
    | with_reducible assumption
    | with_reducible exact Touches.refl
    | ((try lift_lets -underBinder); intro d_; refine (have hd_ : Touches [.out, .sys, .lane] d d_ := ?_; ?_); (on_goal 1 => try dsimp only [d_]); (on_goal 2 => clear_value d_))
    | ((try lift_lets -underBinder); intro d_; try clear_value d_)
    | exact Eq.refl true
    | with_reducible refine Touches.andThen ?_ (by with_reducible exact onGroupL_touch ..) ?_
    | with_reducible refine Touches.andThen ?_ (by with_reducible exact onLane_touch ..) ?_
    | with_reducible refine Touches.andThen ?_ (by with_reducible exact raiseLeaf_touch ..) ?_
    | split
    | dsimp -zeta only
    | (split at ‹ite _ _ _ = (_, _)›)
    | (cases ‹(_, _) = (_, _)›)

theorem checkerStep_touch (d : Dev) (n : Nat) :
    Touches [.lane] d (checkerStep d n) := by
  unfold checkerStep
  repeat' first
    | with_reducible assumption
    | with_reducible exact Touches.refl
    | ((try lift_lets -underBinder); intro d_; refine (have hd_ : Touches [.lane] d d_ := ?_; ?_); (on_goal 1 => try dsimp only [d_]); (on_goal 2 => clear_value d_))
    | ((try lift_lets -underBinder); intro d_; try clear_value d_)
    | exact Eq.refl true
    | with_reducible refine Touches.andThen ?_ (by with_reducible exact onLane_touch ..) ?_
    | split
    | dsimp -zeta only
    | (split at ‹ite _ _ _ = (_, _)›)
    | (cases ‹(_, _) = (_, _)›)

theorem laneBell_touch (d : Dev) :
    Touches [.out, .sys, .casc, .lane] d (laneBell d) := by
  unfold laneBell
  repeat' first
    | with_reducible assumption
    | with_reducible exact Touches.refl
    | ((try lift_lets -underBinder); intro d_; refine (have hd_ : Touches [.out, .sys, .casc, .lane] d d_ := ?_; ?_); (on_goal 1 => try dsimp only [d_]); (on_goal 2 => clear_value d_))
    | ((try lift_lets -underBinder); intro d_; try clear_value d_)
    | with_reducible apply Touches.foldl
    | (intro _ _ _)
    | exact Eq.refl true
    | with_reducible refine Touches.andThen ?_ (by with_reducible exact onGroupL_touch ..) ?_
    | with_reducible refine Touches.andThen ?_ (by with_reducible exact checkerStep_touch ..) ?_
    | with_reducible refine Touches.andThen ?_ (by with_reducible exact cascNear_touch ..) ?_
    | with_reducible refine Touches.andThen ?_ (by with_reducible exact spareSwitch_touch ..) ?_
    | split
    | dsimp -zeta only
    | (split at ‹ite _ _ _ = (_, _)›)
    | (cases ‹(_, _) = (_, _)›)

theorem recalLane_touch (d : Dev) (n : Nat) :
    Touches [.lane] d (recalLane d n) := by
  unfold recalLane
  repeat' first
    | with_reducible assumption
    | with_reducible exact Touches.refl
    | exact Eq.refl true
    | with_reducible refine Touches.andThen ?_ (by with_reducible exact onLane_touch ..) ?_
    | split
    | dsimp -zeta only
    | (split at ‹ite _ _ _ = (_, _)›)
    | (cases ‹(_, _) = (_, _)›)

theorem recalSweep_touch (d : Dev) :
    Touches [.lane] d (recalSweep d) := by
  unfold recalSweep
  repeat' first
    | with_reducible assumption
    | with_reducible exact Touches.refl
    | exact Eq.refl true
    | with_reducible refine Touches.andThen ?_ (by with_reducible exact onLanes_touch ..) ?_
    | split
    | dsimp -zeta only
    | (split at ‹ite _ _ _ = (_, _)›)
    | (cases ‹(_, _) = (_, _)›)

theorem sparingStep_touch (d : Dev) (g lane lf : Nat) (copy compareOk : Bool) :
    Touches [.out, .sys, .lane] d (sparingStep d g lane lf copy compareOk) := by
  unfold sparingStep
  repeat' first
    | with_reducible assumption
    | with_reducible exact Touches.refl
    | ((try lift_lets -underBinder); intro d_; refine (have hd_ : Touches [.out, .sys, .lane] d d_ := ?_; ?_); (on_goal 1 => try dsimp only [d_]); (on_goal 2 => clear_value d_))
    | ((try lift_lets -underBinder); intro d_; try clear_value d_)
    | exact Eq.refl true
    | with_reducible refine Touches.andThen ?_ (by with_reducible exact onGroupL_touch ..) ?_
    | with_reducible refine Touches.andThen ?_ (by with_reducible exact spareSwitch_touch ..) ?_
    | split
    | dsimp -zeta only
    | (split at ‹ite _ _ _ = (_, _)›)
    | (cases ‹(_, _) = (_, _)›)

theorem alignStep_touch (d : Dev) (g skew : Nat) :
    Touches [.out, .sys, .casc, .lane] d (alignStep d g skew) := by
  unfold alignStep
  repeat' first
    | with_reducible assumption
    | with_reducible exact Touches.refl
    | ((try lift_lets -underBinder); intro d_; refine (have hd_ : Touches [.out, .sys, .casc, .lane] d d_ := ?_; ?_); (on_goal 1 => try dsimp only [d_]); (on_goal 2 => clear_value d_))
    | ((try lift_lets -underBinder); intro d_; try clear_value d_)
    | exact Eq.refl true
    | with_reducible refine Touches.andThen ?_ (by with_reducible exact onGroupL_touch ..) ?_
    | with_reducible refine Touches.andThen ?_ (by with_reducible exact raiseLeaf_touch ..) ?_
    | with_reducible refine Touches.andThen ?_ (by with_reducible exact cascDown_touch ..) ?_
    | with_reducible refine Touches.andThen ?_ (by with_reducible exact cascAligned_touch ..) ?_
    | split
    | dsimp -zeta only
    | (split at ‹ite _ _ _ = (_, _)›)
    | (cases ‹(_, _) = (_, _)›)

theorem laneSlip_touch (n : Nat) (d : Dev) :
    Touches [.lane] d (laneSlip n d) := by
  unfold laneSlip
  repeat' first
    | with_reducible assumption
    | with_reducible exact Touches.refl
    | exact Eq.refl true
    | with_reducible refine Touches.andThen ?_ (by with_reducible exact onLane_touch ..) ?_
    | split
    | dsimp -zeta only
    | (split at ‹ite _ _ _ = (_, _)›)
    | (cases ‹(_, _) = (_, _)›)

theorem syncLanes_touch (d : Dev) :
    Touches [.lane] d (syncLanes d) := by
  unfold syncLanes
  repeat' first
    | with_reducible assumption
    | with_reducible exact Touches.refl
    | ((try lift_lets -underBinder); intro d_; refine (have hd_ : Touches [.lane] d d_ := ?_; ?_); (on_goal 1 => try dsimp only [d_]); (on_goal 2 => clear_value d_))
    | ((try lift_lets -underBinder); intro d_; try clear_value d_)
    | with_reducible apply Touches.foldl
    | (intro _ _ _)
    | exact Eq.refl true
    | with_reducible refine Touches.andThen ?_ (by with_reducible exact onLane_touch ..) ?_
    | split
    | dsimp -zeta only
    | (split at ‹ite _ _ _ = (_, _)›)
    | (cases ‹(_, _) = (_, _)›)

theorem applyLaneGroupConfig_touch (group mode flags : Nat) (d : Dev) :
    Touches [.lane] d (applyLaneGroupConfig group mode flags d) := by
  unfold applyLaneGroupConfig
  repeat' first
    | with_reducible assumption
    | with_reducible exact Touches.refl
    | exact Eq.refl true
    | with_reducible refine Touches.andThen ?_ (by with_reducible exact onGroupL_touch ..) ?_
    | split
    | dsimp -zeta only
    | (split at ‹ite _ _ _ = (_, _)›)
    | (cases ‹(_, _) = (_, _)›)

theorem applyLaneRecal_touch (lane : Nat) (d : Dev) :
    Touches [.lane] d (applyLaneRecal lane d) := by
  unfold applyLaneRecal
  repeat' first
    | with_reducible assumption
    | with_reducible exact Touches.refl
    | exact Eq.refl true
    | with_reducible refine Touches.andThen ?_ (by with_reducible exact recalLane_touch ..) ?_
    | split
    | dsimp -zeta only
    | (split at ‹ite _ _ _ = (_, _)›)
    | (cases ‹(_, _) = (_, _)›)

theorem applyLaneSpare_touch (group lane action : Nat) (d : Dev) :
    Touches [.lane] d (applyLaneSpare group lane action d) := by
  unfold applyLaneSpare
  repeat' first
    | with_reducible assumption
    | with_reducible exact Touches.refl
    | ((try lift_lets -underBinder); intro d_; refine (have hd_ : Touches [.lane] d d_ := ?_; ?_); (on_goal 1 => try dsimp only [d_]); (on_goal 2 => clear_value d_))
    | ((try lift_lets -underBinder); intro d_; try clear_value d_)
    | exact Eq.refl true
    | with_reducible refine Touches.andThen ?_ (by with_reducible exact onGroupL_touch ..) ?_
    | with_reducible refine Touches.andThen ?_ (by with_reducible exact onLanes_touch ..) ?_
    | with_reducible refine Touches.andThen ?_ (by with_reducible exact onLane_touch ..) ?_
    | split
    | dsimp -zeta only
    | (split at ‹ite _ _ _ = (_, _)›)
    | (cases ‹(_, _) = (_, _)›)

theorem laneReadClear_touch (d : Dev) (off : Nat) :
    Touches [.lane] d (laneReadClear d off) := by
  unfold laneReadClear
  repeat' first
    | with_reducible assumption
    | with_reducible exact Touches.refl
    | exact Eq.refl true
    | with_reducible refine Touches.andThen ?_ (by with_reducible exact onLane_touch ..) ?_
    | with_reducible refine Touches.andThen ?_ (by with_reducible exact onGroupL_touch ..) ?_
    | with_reducible refine Touches.andThen ?_ (by with_reducible exact onLanes_touch ..) ?_
    | split
    | dsimp -zeta only
    | (split at ‹ite _ _ _ = (_, _)›)
    | (cases ‹(_, _) = (_, _)›)

theorem laneWrite_opt (d : Dev) (off v : Nat) : OptTouch (α := Dev) (fun x => x) [.lane] d (laneWrite d off v) := by
  unfold laneWrite
  repeat' first
    | with_reducible assumption
    | with_reducible exact Touches.refl
    | exact OptTouch.none
    | with_reducible refine OptTouch.some ?_
    | ((try lift_lets -underBinder); intro d_; refine (have hd_ : Touches [.lane] d d_ := ?_; ?_); (on_goal 1 => try dsimp only [d_]); (on_goal 2 => clear_value d_))
    | ((try lift_lets -underBinder); intro d_; try clear_value d_)
    | exact Eq.refl true
    | with_reducible refine Touches.andThen ?_ (by with_reducible exact onLane_touch ..) ?_
    | with_reducible refine Touches.andThen ?_ (by with_reducible exact laneSlip_touch ..) ?_
    | split
    | dsimp -zeta only
    | (split at ‹ite _ _ _ = (_, _)›)
    | (cases ‹(_, _) = (_, _)›)

theorem laneWrite_touch (d : Dev) (off v : Nat) {e_} (h_ : laneWrite d off v = some e_) : Touches [.lane] d e_ := (laneWrite_opt d off v).of_some h_

end Sys2Proof.Machine
end

