-- ==== Sys2Proof/Laws/TouchAccBase.lean ====
section
/-! SUPPORT. Which parts of the device the operations of Machine/AccBase.lean touch. -/

namespace Sys2Proof.Machine

set_option linter.all false
set_option Elab.async false

theorem accCount_touch (d : Dev) (n i k : Nat) :
    Touches [.acc] d (accCount d n i k) := by
  unfold accCount
  repeat' first
    | with_reducible assumption
    | with_reducible exact Touches.refl
    | exact Eq.refl true
    | with_reducible refine Touches.andThen ?_ (by with_reducible exact onSlice_touch ..) ?_
    | split
    | dsimp -zeta only
    | (split at ‹ite _ _ _ = (_, _)›)
    | (cases ‹(_, _) = (_, _)›)

theorem bondCount_touch (d : Dev) (i k : Nat) :
    Touches [.acc] d (bondCount d i k) := by
  unfold bondCount
  repeat' first
    | with_reducible assumption
    | with_reducible exact Touches.refl
    | exact Eq.refl true
    | with_reducible refine Touches.andThen ?_ (by with_reducible exact onBond_touch ..) ?_
    | split
    | dsimp -zeta only
    | (split at ‹ite _ _ _ = (_, _)›)
    | (cases ‹(_, _) = (_, _)›)

theorem accLeaf_touch (d : Dev) (n bit : Nat) :
    Touches [.out, .sys] d (accLeaf d n bit) := by
  unfold accLeaf
  repeat' first
    | with_reducible assumption
    | with_reducible exact Touches.refl
    | exact Eq.refl true
    | with_reducible refine Touches.andThen ?_ (by with_reducible exact raiseLeaf_touch ..) ?_
    | split
    | dsimp -zeta only
    | (split at ‹ite _ _ _ = (_, _)›)
    | (cases ‹(_, _) = (_, _)›)

theorem rerootGroups_touch (d : Dev) (old new : Nat) :
    Touches [.tm] d (rerootGroups d old new) := by
  unfold rerootGroups
  repeat' first
    | with_reducible assumption
    | with_reducible exact Touches.refl
    | exact Eq.refl true
    | with_reducible refine Touches.andThen ?_ (by with_reducible exact onTm_touch ..) ?_
    | split
    | dsimp -zeta only
    | (split at ‹ite _ _ _ = (_, _)›)
    | (cases ‹(_, _) = (_, _)›)

theorem takeNode_touch (d : Dev) (slice alloc node : Nat) :
    Touches [.tm] d (takeNode d slice alloc node) := by
  unfold takeNode
  repeat' first
    | with_reducible assumption
    | with_reducible exact Touches.refl
    | exact Eq.refl true
    | with_reducible refine Touches.andThen ?_ (by with_reducible exact onTm_touch ..) ?_
    | with_reducible refine Touches.andThen ?_ (by with_reducible exact rerootGroups_touch ..) ?_
    | split
    | dsimp -zeta only
    | (split at ‹ite _ _ _ = (_, _)›)
    | (cases ‹(_, _) = (_, _)›)

theorem giveNode_touch (d : Dev) (slice alloc node : Nat) :
    Touches [.tm, .acc] d (giveNode d slice alloc node) := by
  unfold giveNode
  repeat' first
    | with_reducible assumption
    | with_reducible exact Touches.refl
    | exact Eq.refl true
    | with_reducible refine Touches.andThen ?_ (by with_reducible exact onAcc_touch ..) ?_
    | with_reducible refine Touches.andThen ?_ (by with_reducible exact onTm_touch ..) ?_
    | with_reducible refine Touches.andThen ?_ (by with_reducible exact rerootGroups_touch ..) ?_
    | split
    | dsimp -zeta only
    | (split at ‹ite _ _ _ = (_, _)›)
    | (cases ‹(_, _) = (_, _)›)

theorem dropAllocs_touch (d : Dev) (n : Nat) :
    Touches [.tm, .acc] d (dropAllocs d n) := by
  unfold dropAllocs
  repeat' first
    | with_reducible assumption
    | with_reducible exact Touches.refl
    | ((try lift_lets -underBinder); intro d_; refine (have hd_ : Touches [.tm, .acc] d d_ := ?_; ?_); (on_goal 1 => try dsimp only [d_]); (on_goal 2 => clear_value d_))
    | ((try lift_lets -underBinder); intro d_; try clear_value d_)
    | with_reducible apply Touches.foldl
    | (intro _ _ _)
    | exact Eq.refl true
    | with_reducible refine Touches.andThen ?_ (by with_reducible exact onSlice_touch ..) ?_
    | with_reducible refine Touches.andThen ?_ (by with_reducible exact giveNode_touch ..) ?_
    | split
    | dsimp -zeta only
    | (split at ‹ite _ _ _ = (_, _)›)
    | (cases ‹(_, _) = (_, _)›)

theorem ploamQueue_touch (d : Dev) (n : Nat) (m : PloamUp) :
    Touches [.acc] d (ploamQueue d n m) := by
  unfold ploamQueue
  repeat' first
    | with_reducible assumption
    | with_reducible exact Touches.refl
    | exact Eq.refl true
    | with_reducible refine Touches.andThen ?_ (by with_reducible exact onSlice_touch ..) ?_
    | with_reducible refine Touches.andThen ?_ (by with_reducible exact accCount_touch ..) ?_
    | split
    | dsimp -zeta only
    | (split at ‹ite _ _ _ = (_, _)›)
    | (cases ‹(_, _) = (_, _)›)

theorem gaspQueue_touch (d : Dev) (n : Nat) :
    Touches [.acc] d (gaspQueue d n) := by
  unfold gaspQueue
  repeat' first
    | with_reducible assumption
    | with_reducible exact Touches.refl
    | exact Eq.refl true
    | with_reducible refine Touches.andThen ?_ (by with_reducible exact onSlice_touch ..) ?_
    | with_reducible refine Touches.andThen ?_ (by with_reducible exact accCount_touch ..) ?_
    | split
    | dsimp -zeta only
    | (split at ‹ite _ _ _ = (_, _)›)
    | (cases ‹(_, _) = (_, _)›)

theorem ctlQueue_touch (d : Dev) (n : Nat) (m : CtlMsg) :
    Touches [.acc] d (ctlQueue d n m) := by
  unfold ctlQueue
  repeat' first
    | with_reducible assumption
    | with_reducible exact Touches.refl
    | exact Eq.refl true
    | with_reducible refine Touches.andThen ?_ (by with_reducible exact onSlice_touch ..) ?_
    | split
    | dsimp -zeta only
    | (split at ‹ite _ _ _ = (_, _)›)
    | (cases ‹(_, _) = (_, _)›)

theorem bondSend_touch (d : Dev) (n type chan : Nat) (content : List Nat) :
    Touches [.out, .sys, .acc] d (bondSend d n type chan content) := by
  unfold bondSend
  repeat' first
    | with_reducible assumption
    | with_reducible exact Touches.refl
    | ((try lift_lets -underBinder); intro d_; refine (have hd_ : Touches [.out, .sys, .acc] d d_ := ?_; ?_); (on_goal 1 => try dsimp only [d_]); (on_goal 2 => clear_value d_))
    | ((try lift_lets -underBinder); intro d_; try clear_value d_)
    | exact Eq.refl true
    | with_reducible refine Touches.andThen ?_ (by with_reducible exact onBond_touch ..) ?_
    | with_reducible refine Touches.andThen ?_ (by with_reducible exact ctlQueue_touch ..) ?_
    | with_reducible refine Touches.andThen ?_ (bondMsg_touch (ps := [.out, .sys, .acc]) ?_ ?_ ..) ?_
    | (intro _)
    | split
    | dsimp -zeta only
    | (split at ‹ite _ _ _ = (_, _)›)
    | (cases ‹(_, _) = (_, _)›)

theorem bondAsk_touch (d : Dev) (o : BondOut) (content : List Nat) :
    Touches [.out, .sys, .acc] d (bondAsk d o content) := by
  unfold bondAsk
  repeat' first
    | with_reducible assumption
    | with_reducible exact Touches.refl
    | ((try lift_lets -underBinder); intro d_; refine (have hd_ : Touches [.out, .sys, .acc] d d_ := ?_; ?_); (on_goal 1 => try dsimp only [d_]); (on_goal 2 => clear_value d_))
    | ((try lift_lets -underBinder); intro d_; try clear_value d_)
    | exact Eq.refl true
    | with_reducible refine Touches.andThen ?_ (by with_reducible exact onBond_touch ..) ?_
    | with_reducible refine Touches.andThen ?_ (by with_reducible exact bondSend_touch ..) ?_
    | split
    | dsimp -zeta only
    | (split at ‹ite _ _ _ = (_, _)›)
    | (cases ‹(_, _) = (_, _)›)

theorem chanStatus_touch (d : Dev) (slice chan status cause : Nat) :
    Touches [.out, .sys, .acc] d (chanStatus d slice chan status cause) := by
  unfold chanStatus
  repeat' first
    | with_reducible assumption
    | with_reducible exact Touches.refl
    | exact Eq.refl true
    | with_reducible refine Touches.andThen ?_ (by with_reducible exact bondAsk_touch ..) ?_
    | split
    | dsimp -zeta only
    | (split at ‹ite _ _ _ = (_, _)›)
    | (cases ‹(_, _) = (_, _)›)

theorem bondForm_touch (d : Dev) (n : Nat) :
    Touches [.out, .sys, .acc] d (bondForm d n) := by
  unfold bondForm
  repeat' first
    | with_reducible assumption
    | with_reducible exact Touches.refl
    | exact Eq.refl true
    | with_reducible refine Touches.andThen ?_ (by with_reducible exact onBond_touch ..) ?_
    | with_reducible refine Touches.andThen ?_ (by with_reducible exact bondAsk_touch ..) ?_
    | split
    | dsimp -zeta only
    | (split at ‹ite _ _ _ = (_, _)›)
    | (cases ‹(_, _) = (_, _)›)

theorem suppressBursts_touch (d : Dev) (n : Nat) :
    Touches [.out, .sys, .acc] d (suppressBursts d n) := by
  unfold suppressBursts
  repeat' first
    | with_reducible assumption
    | with_reducible exact Touches.refl
    | ((try lift_lets -underBinder); intro d_; refine (have hd_ : Touches [.out, .sys, .acc] d d_ := ?_; ?_); (on_goal 1 => try dsimp only [d_]); (on_goal 2 => clear_value d_))
    | ((try lift_lets -underBinder); intro d_; try clear_value d_)
    | exact Eq.refl true
    | with_reducible refine Touches.andThen ?_ (by with_reducible exact onSlice_touch ..) ?_
    | with_reducible refine Touches.andThen ?_ (by with_reducible exact bondCount_touch ..) ?_
    | split
    | dsimp -zeta only
    | (split at ‹ite _ _ _ = (_, _)›)
    | (cases ‹(_, _) = (_, _)›)

theorem shortenHolds_touch (d : Dev) (now : Nat) :
    Touches [.acc] d (shortenHolds d now) := by
  unfold shortenHolds
  repeat' first
    | with_reducible assumption
    | with_reducible exact Touches.refl
    | exact Eq.refl true
    | with_reducible refine Touches.andThen ?_ (by with_reducible exact onBond_touch ..) ?_
    | split
    | dsimp -zeta only
    | (split at ‹ite _ _ _ = (_, _)›)
    | (cases ‹(_, _) = (_, _)›)

theorem departure_touch (d : Dev) (n cause now : Nat) :
    Touches [.out, .sys, .bell, .acc] d (departure d n cause now) := by
  unfold departure
  repeat' first
    | with_reducible assumption
    | with_reducible exact Touches.refl
    | ((try lift_lets -underBinder); intro d_; refine (have hd_ : Touches [.out, .sys, .bell, .acc] d d_ := ?_; ?_); (on_goal 1 => try dsimp only [d_]); (on_goal 2 => clear_value d_))
    | ((try lift_lets -underBinder); intro d_; try clear_value d_)
    | exact Eq.refl true
    | with_reducible refine Touches.andThen ?_ (by with_reducible exact onSlice_touch ..) ?_
    | with_reducible refine Touches.andThen ?_ (by with_reducible exact accCount_touch ..) ?_
    | with_reducible refine Touches.andThen ?_ (by with_reducible exact shortenHolds_touch ..) ?_
    | with_reducible refine Touches.andThen ?_ (by with_reducible exact suppressBursts_touch ..) ?_
    | with_reducible refine Touches.andThen ?_ (by with_reducible exact setRefSlice_touch ..) ?_
    | with_reducible refine Touches.andThen ?_ (by with_reducible exact accLeaf_touch ..) ?_
    | with_reducible refine Touches.andThen ?_ (by with_reducible exact chanStatus_touch ..) ?_
    | split
    | dsimp -zeta only
    | (split at ‹ite _ _ _ = (_, _)›)
    | (cases ‹(_, _) = (_, _)›)

theorem dropBonded_touch (d : Dev) :
    Touches [.tm, .acc] d (dropBonded d) := by
  unfold dropBonded
  repeat' first
    | with_reducible assumption
    | with_reducible exact Touches.refl
    | ((try lift_lets -underBinder); intro d_; refine (have hd_ : Touches [.tm, .acc] d d_ := ?_; ?_); (on_goal 1 => try dsimp only [d_]); (on_goal 2 => clear_value d_))
    | ((try lift_lets -underBinder); intro d_; try clear_value d_)
    | with_reducible apply Touches.foldl
    | (intro _ _ _)
    | exact Eq.refl true
    | with_reducible refine Touches.andThen ?_ (by with_reducible exact onSlice_touch ..) ?_
    | with_reducible refine Touches.andThen ?_ (by with_reducible exact onBond_touch ..) ?_
    | with_reducible refine Touches.andThen ?_ (by with_reducible exact giveNode_touch ..) ?_
    | split
    | dsimp -zeta only
    | (split at ‹ite _ _ _ = (_, _)›)
    | (cases ‹(_, _) = (_, _)›)

theorem bondEnd_touch (d : Dev) (now : Nat) :
    Touches [.out, .sys, .tm, .acc] d (bondEnd d now) := by
  unfold bondEnd
  repeat' first
    | with_reducible assumption
    | with_reducible exact Touches.refl
    | ((try lift_lets -underBinder); intro d_; refine (have hd_ : Touches [.out, .sys, .tm, .acc] d d_ := ?_; ?_); (on_goal 1 => try dsimp only [d_]); (on_goal 2 => clear_value d_))
    | ((try lift_lets -underBinder); intro d_; try clear_value d_)
    | with_reducible apply Touches.foldl
    | (intro _ _ _)
    | exact Eq.refl true
    | with_reducible refine Touches.andThen ?_ (by with_reducible exact onSlice_touch ..) ?_
    | with_reducible refine Touches.andThen ?_ (by with_reducible exact onBond_touch ..) ?_
    | with_reducible refine Touches.andThen ?_ (by with_reducible exact suppressBursts_touch ..) ?_
    | with_reducible refine Touches.andThen ?_ (by with_reducible exact dropBonded_touch ..) ?_
    | with_reducible refine Touches.andThen ?_ (by with_reducible exact shortenHolds_touch ..) ?_
    | split
    | dsimp -zeta only
    | (split at ‹ite _ _ _ = (_, _)›)
    | (cases ‹(_, _) = (_, _)›)

theorem useKey_touch (d : Dev) (n slot bytes now : Nat) :
    Touches [.out, .sys, .bell, .acc] d (useKey d n slot bytes now).2 := by
  unfold useKey
  repeat' first
    | with_reducible assumption
    | with_reducible exact Touches.refl
    | ((try lift_lets -underBinder); intro d_; refine (have hd_ : Touches [.out, .sys, .bell, .acc] d d_ := ?_; ?_); (on_goal 1 => try dsimp only [d_]); (on_goal 2 => clear_value d_))
    | ((try lift_lets -underBinder); intro d_; try clear_value d_)
    | exact Eq.refl true
    | with_reducible refine Touches.andThen ?_ (by with_reducible exact onSlice_touch ..) ?_
    | with_reducible refine Touches.andThen ?_ (by with_reducible exact raiseIf_touch ..) ?_
    | with_reducible refine Touches.andThen ?_ (by with_reducible exact accLeaf_touch ..) ?_
    | with_reducible refine Touches.andThen ?_ (by with_reducible exact chanStatus_touch ..) ?_
    | with_reducible refine Touches.andThen ?_ (by with_reducible exact departure_touch ..) ?_
    | split
    | dsimp -zeta only
    | (split at ‹ite _ _ _ = (_, _)›)
    | (cases ‹(_, _) = (_, _)›)

theorem useKey_touch' (d : Dev) (n slot bytes now : Nat) {x0 e_} (h_ : useKey d n slot bytes now = (x0, e_)) : Touches [.out, .sys, .bell, .acc] d e_ := by
  have := useKey_touch d n slot bytes now; rw [h_] at this; exact this

theorem dropTraffic_touch (d : Dev) (n : Nat) :
    Touches [.tm, .acc] d (dropTraffic d n) := by
  unfold dropTraffic
  repeat' first
    | with_reducible assumption
    | with_reducible exact Touches.refl
    | exact Eq.refl true
    | with_reducible refine Touches.andThen ?_ (by with_reducible exact onSlice_touch ..) ?_
    | with_reducible refine Touches.andThen ?_ (by with_reducible exact dropAllocs_touch ..) ?_
    | split
    | dsimp -zeta only
    | (split at ‹ite _ _ _ = (_, _)›)
    | (cases ‹(_, _) = (_, _)›)

theorem countFlap_touch (d : Dev) (n : Nat) :
    Touches [.out, .sys, .acc] d (countFlap d n).2 := by
  unfold countFlap
  repeat' first
    | with_reducible assumption
    | with_reducible exact Touches.refl
    | ((try lift_lets -underBinder); intro d_; refine (have hd_ : Touches [.out, .sys, .acc] d d_ := ?_; ?_); (on_goal 1 => try dsimp only [d_]); (on_goal 2 => clear_value d_))
    | ((try lift_lets -underBinder); intro d_; try clear_value d_)
    | exact Eq.refl true
    | with_reducible refine Touches.andThen ?_ (by with_reducible exact onSlice_touch ..) ?_
    | with_reducible refine Touches.andThen ?_ (by with_reducible exact accCount_touch ..) ?_
    | with_reducible refine Touches.andThen ?_ (by with_reducible exact accLeaf_touch ..) ?_
    | split
    | dsimp -zeta only
    | (split at ‹ite _ _ _ = (_, _)›)
    | (cases ‹(_, _) = (_, _)›)

theorem countFlap_touch' (d : Dev) (n : Nat) {x0 e_} (h_ : countFlap d n = (x0, e_)) : Touches [.out, .sys, .acc] d e_ := by
  have := countFlap_touch d n; rw [h_] at this; exact this

theorem enterO5_touch (d : Dev) (n : Nat) :
    Touches [.out, .sys, .acc] d (enterO5 d n) := by
  unfold enterO5
  repeat' first
    | with_reducible assumption
    | with_reducible exact Touches.refl
    | exact Eq.refl true
    | split
    | with_reducible refine Touches.andThen ?_ (by with_reducible exact bondForm_touch ..) ?_
    | with_reducible refine Touches.andThen ?_ (by with_reducible exact chanStatus_touch ..) ?_
    | split
    | dsimp -zeta only
    | (split at ‹ite _ _ _ = (_, _)›)
    | (cases ‹(_, _) = (_, _)›)

theorem setAccSt_touch (d : Dev) (n : Nat) (want : AccSt) (now : Nat) :
    Touches [.out, .sys, .bell, .tm, .acc] d (setAccSt d n want now) := by
  unfold setAccSt
  dsimp only
  repeat' first
    | with_reducible assumption
    | with_reducible exact Touches.refl
    | ((try lift_lets -underBinder); intro d_; refine (have hd_ : Touches [.out, .sys, .bell, .tm, .acc] d d_ := ?_; ?_); (on_goal 1 => try dsimp only [d_]); (on_goal 2 => clear_value d_))
    | ((try lift_lets -underBinder); intro d_; try clear_value d_)
    | exact Eq.refl true
    | with_reducible refine Touches.andThen ?_ (by with_reducible exact onSlice_touch ..) ?_
    | with_reducible refine Touches.andThen ?_ (by with_reducible exact countFlap_touch ..) ?_
    | refine Touches.andThen ?_ (countFlap_touch' (h_ := by assumption) ..) ?_
    | with_reducible refine Touches.andThen ?_ (by with_reducible exact departure_touch ..) ?_
    | with_reducible refine Touches.andThen ?_ (by with_reducible exact dropTraffic_touch ..) ?_
    | with_reducible refine Touches.andThen ?_ (by with_reducible exact accLeaf_touch ..) ?_
    | with_reducible refine Touches.andThen ?_ (by with_reducible exact enterO5_touch ..) ?_
    | with_reducible refine Touches.andThen ?_ (by with_reducible exact accCount_touch ..) ?_
    | split
    | dsimp -zeta only
    | (split at ‹ite _ _ _ = (_, _)›)
    | (cases ‹(_, _) = (_, _)›)

theorem endIfAllDisabled_touch (d : Dev) :
    Touches [.out, .sys, .tm, .acc] d (endIfAllDisabled d) := by
  unfold endIfAllDisabled
  repeat' first
    | with_reducible assumption
    | with_reducible exact Touches.refl
    | exact Eq.refl true
    | split
    | with_reducible refine Touches.andThen ?_ (by with_reducible exact bondEnd_touch ..) ?_
    | split
    | dsimp -zeta only
    | (split at ‹ite _ _ _ = (_, _)›)
    | (cases ‹(_, _) = (_, _)›)

end Sys2Proof.Machine
end

