-- ==== Sys2Proof/Laws/TouchPloam.lean ====
section
/-! SUPPORT. Which parts of the device the operations of Machine/Ploam.lean touch. -/

namespace Sys2Proof.Machine

set_option linter.all false
set_option Elab.async false

theorem lods_touch (d : Dev) (n now : Nat) :
    Touches [.out, .sys, .bell, .tm, .acc] d (lods d n now) := by
  unfold lods
  repeat' first
    | with_reducible assumption
    | with_reducible exact Touches.refl
    | ((try lift_lets -underBinder); intro d_; refine (have hd_ : Touches [.out, .sys, .bell, .tm, .acc] d d_ := ?_; ?_); (on_goal 1 => try dsimp only [d_]); (on_goal 2 => clear_value d_))
    | ((try lift_lets -underBinder); intro d_; try clear_value d_)
    | exact Eq.refl true
    | with_reducible refine Touches.andThen ?_ (by with_reducible exact onSlice_touch ..) ?_
    | with_reducible refine Touches.andThen ?_ (by with_reducible exact accLeaf_touch ..) ?_
    | with_reducible refine Touches.andThen ?_ (by with_reducible exact accCount_touch ..) ?_
    | with_reducible refine Touches.andThen ?_ (by with_reducible exact setAccSt_touch ..) ?_
    | split
    | dsimp -zeta only
    | (split at ‹ite _ _ _ = (_, _)›)
    | (cases ‹(_, _) = (_, _)›)

theorem syncUp_touch (d : Dev) (n now : Nat) :
    Touches [.out, .sys, .bell, .tm, .acc] d (syncUp d n now) := by
  unfold syncUp
  repeat' first
    | with_reducible assumption
    | with_reducible exact Touches.refl
    | ((try lift_lets -underBinder); intro d_; refine (have hd_ : Touches [.out, .sys, .bell, .tm, .acc] d d_ := ?_; ?_); (on_goal 1 => try dsimp only [d_]); (on_goal 2 => clear_value d_))
    | ((try lift_lets -underBinder); intro d_; try clear_value d_)
    | exact Eq.refl true
    | with_reducible refine Touches.andThen ?_ (by with_reducible exact onSlice_touch ..) ?_
    | with_reducible refine Touches.andThen ?_ (by with_reducible exact setAccSt_touch ..) ?_
    | split
    | dsimp -zeta only
    | (split at ‹ite _ _ _ = (_, _)›)
    | (cases ‹(_, _) = (_, _)›)

theorem downstreamFrame_touch (d : Dev) (n : Nat) (f : DsFrame) :
    Touches [.out, .sys, .bell, .tm, .acc] d (downstreamFrame d n f) := by
  unfold downstreamFrame
  repeat' first
    | with_reducible assumption
    | with_reducible exact Touches.refl
    | ((try lift_lets -underBinder); intro d_; refine (have hd_ : Touches [.out, .sys, .bell, .tm, .acc] d d_ := ?_; ?_); (on_goal 1 => try dsimp only [d_]); (on_goal 2 => clear_value d_))
    | ((try lift_lets -underBinder); intro d_; try clear_value d_)
    | exact Eq.refl true
    | with_reducible refine Touches.andThen ?_ (by with_reducible exact onSlice_touch ..) ?_
    | with_reducible refine Touches.andThen ?_ (by with_reducible exact accCount_touch ..) ?_
    | with_reducible refine Touches.andThen ?_ (by with_reducible exact departure_touch ..) ?_
    | with_reducible refine Touches.andThen ?_ (by with_reducible exact referenceMissing_touch ..) ?_
    | with_reducible refine Touches.andThen ?_ (by with_reducible exact syncUp_touch ..) ?_
    | with_reducible refine Touches.andThen ?_ (by with_reducible exact lods_touch ..) ?_
    | split
    | dsimp -zeta only
    | (split at ‹ite _ _ _ = (_, _)›)
    | (cases ‹(_, _) = (_, _)›)

theorem ploamAnswer_touch (d : Dev) (n : Nat) (m : Option PloamUp) :
    Touches [.acc] d (ploamAnswer d n m) := by
  unfold ploamAnswer
  repeat' first
    | with_reducible assumption
    | with_reducible exact Touches.refl
    | exact Eq.refl true
    | with_reducible refine Touches.andThen ?_ (by with_reducible exact ploamQueue_touch ..) ?_
    | split
    | dsimp -zeta only
    | (split at ‹ite _ _ _ = (_, _)›)
    | (cases ‹(_, _) = (_, _)›)

theorem ploam_touch {ps : List Part} (hs : subParts [.out, .sys, .acc] ps = true) {act : Dev → Dev × Option PloamUp} (hf : ∀ x, Touches ps x (act x).1)
    (d : Dev) (n : Nat) (h : PloamHdr) : Touches ps d (ploam d n h act) := by
  have hc : ∀ i, Touches ps d (accCount d n i 1) := fun i => .mono (accCount_touch _ _ _ _) (subParts_trans rfl hs)
  unfold ploam
  dsimp only
  split
  · exact .refl
  · split
    · exact .refl
    · split
      · exact .andThen (hc 1) (accLeaf_touch _ _ _) (subParts_trans rfl hs)
      · split
        · exact .andThen (hc 0) (ploamAnswer_touch _ _ _) (subParts_trans rfl hs)
        · have h1 := Touches.andThen (.andThen (hc 0) (hf _) (subParts_self _)) (ploamAnswer_touch (act (accCount d n 0 1)).1 n (act (accCount d n 0 1)).2) (subParts_trans rfl hs)
          split
          · exact .andThen h1 (onSlice_touch _ _ _) (subParts_trans rfl hs)
          · exact h1

theorem ploamRx_touch {ps : List Part} (hs : subParts [.acc] ps = true) {act : Dev → Dev} (hf : ∀ x, Touches ps x (act x))
    (n : Nat) (h : PloamHdr) (m : PloamMsg) (d : Dev) : Touches ps d (ploamRx n h m act d) := by
  unfold ploamRx
  split
  · exact hf d
  · split
    · exact .refl
    · exact .mono (onSlice_touch _ _ _) (subParts_trans rfl hs)

theorem unlessKilled_touch {ps : List Part} {n : Nat} {act : PloamAct} (hf : ∀ x, Touches ps x (act x).1) (x : Dev) : Touches ps x (unlessKilled n act x).1 := by
  unfold unlessKilled
  split
  · exact .refl
  · exact hf x

theorem ploamBurstProfile_touch (slice : Nat) (h : PloamHdr) (index guard : Nat) (fieldsOk rateOk : Bool) (d : Dev) : Touches [.out, .sys, .bell, .tm, .acc] d (ploamBurstProfile slice h index guard fieldsOk rateOk d) := by
  unfold ploamBurstProfile
  refine ploam_touch (ps := [.out, .sys, .bell, .tm, .acc]) rfl (fun x => ?_) d slice h
  refine unlessKilled_touch (fun y => ?_) x
  try dsimp only
  repeat' first
    | with_reducible exact Touches.refl
    | split
    | with_reducible refine Touches.andThen ?_ (onSlice_touch ..) rfl
    | with_reducible refine Touches.andThen ?_ (accCount_touch ..) rfl
    | with_reducible refine Touches.andThen ?_ (setAccSt_touch ..) rfl

theorem ploamAssignOnuId_touch (slice : Nat) (h : PloamHdr) (mine : Bool) (onu : Nat) (d : Dev) : Touches [.out, .sys, .bell, .tm, .acc] d (ploamAssignOnuId slice h mine onu d) := by
  unfold ploamAssignOnuId
  refine ploam_touch (ps := [.out, .sys, .bell, .tm, .acc]) rfl (fun x => ?_) d slice h
  refine unlessKilled_touch (fun y => ?_) x
  try dsimp only
  repeat' first
    | with_reducible exact Touches.refl
    | split
    | with_reducible refine Touches.andThen ?_ (onSlice_touch ..) rfl
    | with_reducible refine Touches.andThen ?_ (accCount_touch ..) rfl
    | with_reducible refine Touches.andThen ?_ (setAccSt_touch ..) rfl

theorem ploamRangingTime_touch (slice : Nat) (h : PloamHdr) (relative : Bool) (value : Int) (d : Dev) : Touches [.out, .sys, .staged, .bell, .tm, .acc] d (ploamRangingTime slice h relative value d) := by
  unfold ploamRangingTime
  refine ploam_touch (ps := [.out, .sys, .staged, .bell, .tm, .acc]) rfl (fun x => ?_) d slice h
  refine unlessKilled_touch (fun y => ?_) x
  try dsimp only
  repeat' first
    | with_reducible exact Touches.refl
    | split
    | with_reducible refine Touches.andThen ?_ (onSlice_touch ..) rfl
    | with_reducible refine Touches.andThen ?_ (accCount_touch ..) rfl
    | with_reducible refine Touches.andThen ?_ (accLeaf_touch ..) rfl
    | with_reducible refine Touches.andThen ?_ (setAccSt_touch ..) rfl
    | with_reducible refine Touches.andThen ?_ (todRecompute_touch ..) rfl

theorem ploamDeactivateOnuId_touch (slice : Nat) (h : PloamHdr) (d : Dev) : Touches [.out, .sys, .bell, .tm, .acc] d (ploamDeactivateOnuId slice h d) := by
  unfold ploamDeactivateOnuId
  refine ploam_touch (ps := [.out, .sys, .bell, .tm, .acc]) rfl (fun x => ?_) d slice h
  refine unlessKilled_touch (fun y => ?_) x
  try dsimp only
  repeat' first
    | with_reducible exact Touches.refl
    | split
    | with_reducible refine Touches.andThen ?_ (setAccSt_touch ..) rfl

theorem ploamDisableSerialNumber_touch (slice : Nat) (h : PloamHdr) (named enable : Bool) (d : Dev) : Touches [.out, .sys, .bell, .tm, .acc] d (ploamDisableSerialNumber slice h named enable d) := by
  unfold ploamDisableSerialNumber
  refine ploam_touch (ps := [.out, .sys, .bell, .tm, .acc]) rfl (fun x => ?_) d slice h
  try dsimp only
  repeat' first
    | with_reducible exact Touches.refl
    | split
    | with_reducible refine Touches.andThen ?_ (onSlice_touch ..) rfl
    | with_reducible refine Touches.andThen ?_ (setAccSt_touch ..) rfl

theorem ploamRequestRegistration_touch (slice : Nat) (h : PloamHdr) (d : Dev) : Touches [.out, .sys, .acc] d (ploamRequestRegistration slice h d) := by
  unfold ploamRequestRegistration
  refine ploam_touch (ps := [.out, .sys, .acc]) rfl (fun x => ?_) d slice h
  refine unlessKilled_touch (fun y => ?_) x
  try dsimp only
  repeat' first
    | with_reducible exact Touches.refl
    | split

theorem allocAssign_opt (d : Dev) (n alloc : Nat) : OptTouch (α := Dev) (fun x => x) [.tm, .acc] d (allocAssign d n alloc) := by
  unfold allocAssign
  repeat' first
    | with_reducible assumption
    | with_reducible exact Touches.refl
    | exact OptTouch.none
    | with_reducible refine OptTouch.some ?_
    | exact Eq.refl true
    | with_reducible refine Touches.andThen ?_ (by with_reducible exact onSlice_touch ..) ?_
    | with_reducible refine Touches.andThen ?_ (by with_reducible exact takeNode_touch ..) ?_
    | split
    | dsimp -zeta only
    | (split at ‹ite _ _ _ = (_, _)›)
    | (cases ‹(_, _) = (_, _)›)

theorem allocAssign_touch (d : Dev) (n alloc : Nat) {e_} (h_ : allocAssign d n alloc = some e_) : Touches [.tm, .acc] d e_ := (allocAssign_opt d n alloc).of_some h_

theorem allocDeassign_touch (d : Dev) (n alloc : Nat) :
    Touches [.tm, .acc] d (allocDeassign d n alloc) := by
  unfold allocDeassign
  repeat' first
    | with_reducible assumption
    | with_reducible exact Touches.refl
    | exact Eq.refl true
    | with_reducible refine Touches.andThen ?_ (by with_reducible exact onSlice_touch ..) ?_
    | with_reducible refine Touches.andThen ?_ (by with_reducible exact giveNode_touch ..) ?_
    | split
    | dsimp -zeta only
    | (split at ‹ite _ _ _ = (_, _)›)
    | (cases ‹(_, _) = (_, _)›)

theorem ploamAssignAllocId_touch (slice : Nat) (h : PloamHdr) (alloc : Nat) (assign : Bool) (d : Dev) : Touches [.out, .sys, .tm, .acc] d (ploamAssignAllocId slice h alloc assign d) := by
  unfold ploamAssignAllocId
  refine ploam_touch (ps := [.out, .sys, .tm, .acc]) rfl (fun x => ?_) d slice h
  refine unlessKilled_touch (fun y => ?_) x
  try dsimp only
  repeat' first
    | with_reducible exact Touches.refl
    | split
    | with_reducible refine Touches.andThen ?_ (allocDeassign_touch ..) rfl
    | with_reducible refine Touches.andThen ?_ (allocAssign_touch (h_ := by assumption) ..) rfl

theorem keyGenerate_touch (d : Dev) (n i : Nat) :
    Touches [.freeCtr, .acc] d (keyGenerate d n i) := by
  unfold keyGenerate
  dsimp only
  repeat' first
    | with_reducible assumption
    | with_reducible exact Touches.refl
    | ((try lift_lets -underBinder); intro d_; refine (have hd_ : Touches [.freeCtr, .acc] d d_ := ?_; ?_); (on_goal 1 => try dsimp only [d_]); (on_goal 2 => clear_value d_))
    | ((try lift_lets -underBinder); intro d_; try clear_value d_)
    | exact Eq.refl true
    | with_reducible refine Touches.andThen ?_ (by with_reducible exact onSlice_touch ..) ?_
    | with_reducible refine Touches.andThen ?_ (by with_reducible exact drawFree_touch ..) ?_
    | with_reducible refine Touches.andThen ?_ (by with_reducible exact ploamQueue_touch ..) ?_
    | split
    | dsimp -zeta only
    | (split at ‹ite _ _ _ = (_, _)›)
    | (cases ‹(_, _) = (_, _)›)

theorem keyTakeEffect_touch (d : Dev) (n : Nat) :
    Touches [.acc] d (keyTakeEffect d n) := by
  unfold keyTakeEffect
  repeat' first
    | with_reducible assumption
    | with_reducible exact Touches.refl
    | ((try lift_lets -underBinder); intro d_; refine (have hd_ : Touches [.acc] d d_ := ?_; ?_); (on_goal 1 => try dsimp only [d_]); (on_goal 2 => clear_value d_))
    | ((try lift_lets -underBinder); intro d_; try clear_value d_)
    | exact Eq.refl true
    | with_reducible refine Touches.andThen ?_ (by with_reducible exact onSlice_touch ..) ?_
    | split
    | dsimp -zeta only
    | (split at ‹ite _ _ _ = (_, _)›)
    | (cases ‹(_, _) = (_, _)›)

theorem ploamKeyControl_touch (slice : Nat) (h : PloamHdr) (generate : Bool) (index : Nat) (d : Dev) : Touches [.freeCtr, .out, .sys, .acc] d (ploamKeyControl slice h generate index d) := by
  unfold ploamKeyControl
  refine ploam_touch (ps := [.freeCtr, .out, .sys, .acc]) rfl (fun x => ?_) d slice h
  refine unlessKilled_touch (fun y => ?_) x
  try dsimp only
  repeat' first
    | with_reducible exact Touches.refl
    | split
    | with_reducible refine Touches.andThen ?_ (onSlice_touch ..) rfl
    | with_reducible refine Touches.andThen ?_ (accCount_touch ..) rfl
    | with_reducible refine Touches.andThen ?_ (keyGenerate_touch ..) rfl
    | with_reducible refine Touches.andThen ?_ (keyTakeEffect_touch ..) rfl

theorem tkeyExpiry_touch (d : Dev) (n : Nat) :
    Touches [.out, .sys, .acc] d (tkeyExpiry d n) := by
  unfold tkeyExpiry
  repeat' first
    | with_reducible assumption
    | with_reducible exact Touches.refl
    | ((try lift_lets -underBinder); intro d_; refine (have hd_ : Touches [.out, .sys, .acc] d d_ := ?_; ?_); (on_goal 1 => try dsimp only [d_]); (on_goal 2 => clear_value d_))
    | ((try lift_lets -underBinder); intro d_; try clear_value d_)
    | exact Eq.refl true
    | with_reducible refine Touches.andThen ?_ (by with_reducible exact onSlice_touch ..) ?_
    | with_reducible refine Touches.andThen ?_ (by with_reducible exact ploamQueue_touch ..) ?_
    | with_reducible refine Touches.andThen ?_ (by with_reducible exact accLeaf_touch ..) ?_
    | with_reducible refine Touches.andThen ?_ (by with_reducible exact chanStatus_touch ..) ?_
    | split
    | dsimp -zeta only
    | (split at ‹ite _ _ _ = (_, _)›)
    | (cases ‹(_, _) = (_, _)›)

theorem ploamSleepAllow_touch (slice : Nat) (h : PloamHdr) (allow : Bool) (d : Dev) : Touches [.out, .sys, .acc] d (ploamSleepAllow slice h allow d) := by
  unfold ploamSleepAllow
  refine ploam_touch (ps := [.out, .sys, .acc]) rfl (fun x => ?_) d slice h
  refine unlessKilled_touch (fun y => ?_) x
  try dsimp only
  repeat' first
    | with_reducible exact Touches.refl
    | split
    | with_reducible refine Touches.andThen ?_ (onSlice_touch ..) rfl

theorem ploamUnknownType_touch (slice : Nat) (h : PloamHdr) (d : Dev) : Touches [.out, .sys, .acc] d (ploamUnknownType slice h d) := by
  unfold ploamUnknownType
  refine ploam_touch (ps := [.out, .sys, .acc]) rfl (fun x => ?_) d slice h
  try dsimp only
  repeat' first
    | with_reducible exact Touches.refl
    | split
    | with_reducible refine Touches.andThen ?_ (accCount_touch ..) rfl

theorem ploamRun_touch (slice : Nat) (d : Dev) (x : PloamHdr × PloamMsg) :
    Touches [.freeCtr, .out, .sys, .staged, .bell, .tm, .acc] d (ploamRun slice d x) := by
  unfold ploamRun
  repeat' first
    | with_reducible assumption
    | with_reducible exact Touches.refl
    | ((try lift_lets -underBinder); intro d_; refine (have hd_ : Touches [.freeCtr, .out, .sys, .staged, .bell, .tm, .acc] d d_ := ?_; ?_); (on_goal 1 => try dsimp only [d_]); (on_goal 2 => clear_value d_))
    | ((try lift_lets -underBinder); intro d_; try clear_value d_)
    | exact Eq.refl true
    | with_reducible refine Touches.andThen ?_ (by with_reducible exact ploamBurstProfile_touch ..) ?_
    | with_reducible refine Touches.andThen ?_ (by with_reducible exact ploamAssignOnuId_touch ..) ?_
    | with_reducible refine Touches.andThen ?_ (by with_reducible exact ploamRangingTime_touch ..) ?_
    | with_reducible refine Touches.andThen ?_ (by with_reducible exact ploamDeactivateOnuId_touch ..) ?_
    | with_reducible refine Touches.andThen ?_ (by with_reducible exact ploamDisableSerialNumber_touch ..) ?_
    | with_reducible refine Touches.andThen ?_ (by with_reducible exact ploamRequestRegistration_touch ..) ?_
    | with_reducible refine Touches.andThen ?_ (by with_reducible exact ploamAssignAllocId_touch ..) ?_
    | with_reducible refine Touches.andThen ?_ (by with_reducible exact ploamKeyControl_touch ..) ?_
    | with_reducible refine Touches.andThen ?_ (by with_reducible exact ploamSleepAllow_touch ..) ?_
    | with_reducible refine Touches.andThen ?_ (by with_reducible exact ploamUnknownType_touch ..) ?_
    | split
    | dsimp -zeta only
    | (split at ‹ite _ _ _ = (_, _)›)
    | (cases ‹(_, _) = (_, _)›)

theorem releasePloam_touch (d : Dev) :
    Touches [.freeCtr, .out, .sys, .staged, .bell, .tm, .acc] d (releasePloam d) := by
  unfold releasePloam
  repeat' first
    | with_reducible assumption
    | with_reducible exact Touches.refl
    | ((try lift_lets -underBinder); intro d_; refine (have hd_ : Touches [.freeCtr, .out, .sys, .staged, .bell, .tm, .acc] d d_ := ?_; ?_); (on_goal 1 => try dsimp only [d_]); (on_goal 2 => clear_value d_))
    | ((try lift_lets -underBinder); intro d_; try clear_value d_)
    | with_reducible apply Touches.foldl
    | (intro _ _ _)
    | exact Eq.refl true
    | with_reducible refine Touches.andThen ?_ (by with_reducible exact onSlice_touch ..) ?_
    | with_reducible refine Touches.andThen ?_ (by with_reducible exact ploamRun_touch ..) ?_
    | split
    | dsimp -zeta only
    | (split at ‹ite _ _ _ = (_, _)›)
    | (cases ‹(_, _) = (_, _)›)

theorem watchdogTrip_touch (d : Dev) (n cause now : Nat) :
    Touches [.out, .sys, .bell, .tm, .acc] d (watchdogTrip d n cause now) := by
  unfold watchdogTrip
  repeat' first
    | with_reducible assumption
    | with_reducible exact Touches.refl
    | ((try lift_lets -underBinder); intro d_; refine (have hd_ : Touches [.out, .sys, .bell, .tm, .acc] d d_ := ?_; ?_); (on_goal 1 => try dsimp only [d_]); (on_goal 2 => clear_value d_))
    | ((try lift_lets -underBinder); intro d_; try clear_value d_)
    | exact Eq.refl true
    | with_reducible refine Touches.andThen ?_ (by with_reducible exact onSlice_touch ..) ?_
    | with_reducible refine Touches.andThen ?_ (by with_reducible exact accLeaf_touch ..) ?_
    | with_reducible refine Touches.andThen ?_ (by with_reducible exact setAccSt_touch ..) ?_
    | split
    | dsimp -zeta only
    | (split at ‹ite _ _ _ = (_, _)›)
    | (cases ‹(_, _) = (_, _)›)

end Sys2Proof.Machine
end

