-- ==== Sys2Proof/Laws/TouchBurst.lean ====
section
/-! SUPPORT. Which parts of the device the operations of Machine/Burst.lean touch. -/

namespace Sys2Proof.Machine

set_option linter.all false
set_option Elab.async false

theorem grantDrop_touch (d : Dev) (n : Nat) (g : Grant) (reason : Nat) :
    Touches [.out, .sys, .acc] d (grantDrop d n g reason) := by
  unfold grantDrop
  repeat' first
    | with_reducible assumption
    | with_reducible exact Touches.refl
    | exact Eq.refl true
    | with_reducible refine Touches.andThen ?_ (by with_reducible exact onSlice_touch ..) ?_
    | with_reducible refine Touches.andThen ?_ (by with_reducible exact accLeaf_touch ..) ?_
    | with_reducible refine Touches.andThen ?_ (by with_reducible exact accCount_touch ..) ?_
    | split
    | dsimp -zeta only
    | (split at ‹ite _ _ _ = (_, _)›)
    | (cases ‹(_, _) = (_, _)›)

theorem scheduleGrants_touch (d : Dev) (n eqd : Nat) (earlier : List Grant) (bursts : List Burst) (gs : List Grant) :
    Touches [.out, .sys, .acc] d (scheduleGrants d n eqd earlier bursts gs).2 := by
  induction gs generalizing d earlier bursts with
  | nil => exact .refl
  | cons g rest ih =>
    unfold scheduleGrants
    dsimp only
    split
    · exact .andThen (grantDrop_touch _ _ _ _) (ih _ _ _)
    · exact ih _ _ _

theorem scheduleGrants_touch' (d : Dev) (n eqd : Nat) (earlier : List Grant) (bursts : List Burst) (gs : List Grant) {x0 e_}
    (h_ : scheduleGrants d n eqd earlier bursts gs = (x0, e_)) : Touches [.out, .sys, .acc] d e_ := by
  have := scheduleGrants_touch d n eqd earlier bursts gs; rw [h_] at this; exact this

theorem bwmapRx_touch (d : Dev) (n : Nat) (lost : Bool) (grants : List Grant) :
    Touches [.out, .sys, .acc] d (bwmapRx d n lost grants) := by
  unfold bwmapRx
  repeat' first
    | with_reducible assumption
    | with_reducible exact Touches.refl
    | ((try lift_lets -underBinder); intro d_; refine (have hd_ : Touches [.out, .sys, .acc] d d_ := ?_; ?_); (on_goal 1 => try dsimp only [d_]); (on_goal 2 => clear_value d_))
    | ((try lift_lets -underBinder); intro d_; try clear_value d_)
    | with_reducible apply Touches.foldl
    | (intro _ _ _)
    | exact Eq.refl true
    | with_reducible refine Touches.andThen ?_ (by with_reducible exact onSlice_touch ..) ?_
    | with_reducible refine Touches.andThen ?_ (by with_reducible exact grantDrop_touch ..) ?_
    | with_reducible refine Touches.andThen ?_ (by with_reducible exact accCount_touch ..) ?_
    | with_reducible refine Touches.andThen ?_ (by with_reducible exact scheduleGrants_touch ..) ?_
    | split
    | dsimp -zeta only
    | (split at ‹ite _ _ _ = (_, _)›)
    | (cases ‹(_, _) = (_, _)›)

theorem tmTakePart_opt (d : Dev) (root now room : Nat) : OptTouch (α := TmPkt × Nat × Dev) (fun x => x.2.2) [.out, .sys, .past, .tm] d (tmTakePart d root now room) := by
  unfold tmTakePart
  split
  · exact .none
  · split
    · exact .none
    · split
      · constructor
        intro x h
        rw [Option.map_eq_some_iff] at h
        obtain ⟨⟨q, p, e⟩, h3, rfl⟩ := h
        exact .mono (tmTake_touch _ _ _ h3)
      · exact .some (.andThen (.andThen (.mono (onQueue_touch _ _ _)) (commitDrr_touch _ _ _ _ _ _ _)) (chargePath_touch _ _ _ _ _ _))

theorem tmTakePart_touch (d : Dev) (root now room : Nat) {x0 x1 e_} (h_ : tmTakePart d root now room = some (x0, x1, e_)) : Touches [.out, .sys, .past, .tm] d e_ :=
  (tmTakePart_opt d root now room).of_some h_

theorem upKeyUse_touch (d : Dev) (n bytes now : Nat) :
    Touches [.out, .sys, .bell, .acc] d (upKeyUse d n bytes now) := by
  unfold upKeyUse
  repeat' first
    | with_reducible assumption
    | with_reducible exact Touches.refl
    | exact Eq.refl true
    | split
    | with_reducible refine Touches.andThen ?_ (by with_reducible exact useKey_touch ..) ?_
    | split
    | dsimp -zeta only
    | (split at ‹ite _ _ _ = (_, _)›)
    | (cases ‹(_, _) = (_, _)›)

theorem fillUnbonded_touch (d : Dev) (n node now room : Nat) (fuel : Nat) :
    Touches [.out, .sys, .bell, .past, .tm, .acc] d (fillUnbonded d n node now room fuel).2.2 := by
  induction fuel generalizing d room with
  | zero => exact .refl
  | succ fuel ih =>
    unfold fillUnbonded
    split
    · exact .refl
    · split
      · exact .refl
      · rename_i p k e he
        exact .andThen (.andThen (.mono (tmTakePart_touch _ _ _ _ he)) (upKeyUse_touch _ _ _ _)) (ih _ _)

theorem fillUnbonded_touch' (d : Dev) (n node now room : Nat) (fuel : Nat) {x0 x1 e_} (h_ : fillUnbonded d n node now room fuel = (x0, x1, e_)) :
    Touches [.out, .sys, .bell, .past, .tm, .acc] d e_ := by
  have := fillUnbonded_touch d n node now room fuel; rw [h_] at this; exact this

theorem fillBonded_touch (d : Dev) (n node now room : Nat) (fuel : Nat) :
    Touches [.out, .sys, .bell, .past, .tm, .acc] d (fillBonded d n node now room fuel).2.2.2 := by
  induction fuel generalizing d room with
  | zero => exact .refl
  | succ fuel ih =>
    unfold fillBonded
    split
    · exact .refl
    · dsimp only
      split
      · exact .refl
      · rename_i len ps e he
        refine .andThen (.andThen (.andThen (.andThen (?_ : Touches _ d e) (onBond_touch _ _)) (onAcc_touch _ _)) (upKeyUse_touch _ _ _ _)) (ih _ _)
        split at he
        · cases he; exact .refl
        · rw [Option.map_eq_some_iff] at he
          obtain ⟨⟨q, p, f⟩, h1, h2⟩ := he
          cases h2
          exact .mono (tmTake_touch _ _ _ h1)

theorem fillBonded_touch' (d : Dev) (n node now room : Nat) (fuel : Nat) {x0 x1 x2 e_} (h_ : fillBonded d n node now room fuel = (x0, x1, x2, e_)) :
    Touches [.out, .sys, .bell, .past, .tm, .acc] d e_ := by
  have := fillBonded_touch d n node now room fuel; rw [h_] at this; exact this

theorem grantPloam_touch (d : Dev) (n : Nat) (g : Grant) : Touches [.freeCtr, .acc] d (grantPloam d n g).2 := by
  unfold grantPloam
  split
  · split
    · exact .mono (drawFree_touch _)
    · exact .refl
  · split
    · exact .refl
    · split
      · exact .mono (onSlice_touch _ _ _)
      · exact .refl

theorem grantPloam_touch' (d : Dev) (n : Nat) (g : Grant) {x0 e_} (h_ : grantPloam d n g = (x0, e_)) : Touches [.freeCtr, .acc] d e_ := by
  have := grantPloam_touch d n g; rw [h_] at this; exact this

theorem ctlUse_touch {ps : List Part} (hs : subParts [.out, .sys, .bell, .acc] ps = true) (n now : Nat) (l : List CtlMsg) {d e : Dev} (h : Touches ps d e) :
    Touches ps d (l.foldl (fun d m => upKeyUse d n m.len now) e) := by
  induction l generalizing e with
  | nil => exact h
  | cons m r ih => exact ih (.andThen h (upKeyUse_touch _ _ _ _) (subParts_trans rfl hs))

theorem fillGrant_touch (d : Dev) (n : Nat) (g : Grant) (now : Nat) :
    Touches [.freeCtr, .out, .sys, .bell, .past, .tm, .acc] d (fillGrant d n g now).2 := by
  have h1 : Touches [.freeCtr, .out, .sys, .bell, .past, .tm, .acc] d (grantPloam d n g).2 := .mono (grantPloam_touch _ _ _)
  unfold fillGrant
  dsimp only
  generalize (grantPloam d n g).2 = e at h1 ⊢
  generalize (if g.kind = 0 ∧ g.alloc = (sliceOf e n).onu ∧ upKeyOk e n = true then fillCtl (sliceOf e n).ctl g.cap else ([], (sliceOf e n).ctl, g.cap)) = c
  have h2 := ctlUse_touch (ps := [.freeCtr, .out, .sys, .bell, .past, .tm, .acc]) rfl n now c.1 (Touches.andThen h1 (onSlice_touch e n (fun s => { s with ctl := c.2.1 })))
  revert h2
  generalize c.1.foldl (fun d m => upKeyUse d n m.len now) (onSlice e n (fun s => { s with ctl := c.2.1 })) = f
  intro h2
  split
  · exact h2
  · split
    · exact h2
    · split
      · exact .andThen h2 (fillBonded_touch _ _ _ _ _ _)
      · exact .andThen h2 (fillUnbonded_touch _ _ _ _ _ _)

theorem fillGrant_touch' (d : Dev) (n : Nat) (g : Grant) (now : Nat) {x0 e_} (h_ : fillGrant d n g now = (x0, e_)) :
    Touches [.freeCtr, .out, .sys, .bell, .past, .tm, .acc] d e_ := by
  have := fillGrant_touch d n g now; rw [h_] at this; exact this

theorem fillGrants_touch (d : Dev) (n : Nat) (gs : List Grant) (now : Nat) :
    Touches [.freeCtr, .out, .sys, .bell, .past, .tm, .acc] d (fillGrants d n gs now).2 := by
  induction gs generalizing d with
  | nil => exact .refl
  | cons g rest ih => unfold fillGrants; exact .andThen (fillGrant_touch _ _ _ _) (ih _)

theorem fillGrants_touch' (d : Dev) (n : Nat) (gs : List Grant) (now : Nat) {x0 e_} (h_ : fillGrants d n gs now = (x0, e_)) :
    Touches [.freeCtr, .out, .sys, .bell, .past, .tm, .acc] d e_ := by
  have := fillGrants_touch d n gs now; rw [h_] at this; exact this

theorem reportOcc_touch (d : Dev) (n : Nat) (gs : List Grant) (ps : List BurstPart) : Touches [.acc] d (reportOcc d n gs ps).2 := by
  induction gs generalizing d ps with
  | nil => exact .refl
  | cons g gr ih =>
    cases ps with
    | nil => exact .refl
    | cons p pr =>
      unfold reportOcc
      dsimp only
      refine .andThen ?_ (ih _ _)
      split
      · exact .refl
      · split
        · exact .refl
        · exact .mono (onSlice_touch _ _ _)

theorem reportOcc_touch' (d : Dev) (n : Nat) (gs : List Grant) (ps : List BurstPart) {x0 e_} (h_ : reportOcc d n gs ps = (x0, e_)) : Touches [.acc] d e_ := by
  have := reportOcc_touch d n gs ps; rw [h_] at this; exact this

theorem commitFirst_touch (d : Dev) (n now : Nat) (l : List Burst) :
    Touches [.freeCtr, .out, .sys, .bell, .past, .tm, .acc] d (commitFirst d n now l).2 := by
  induction l with
  | nil => exact .refl
  | cons b r ih =>
    unfold commitFirst
    split
    · exact ih
    · split
      · exact .refl
      · exact .andThen (fillGrants_touch _ _ _ _) (reportOcc_touch _ _ _ _)

theorem commitFirst_touch' (d : Dev) (n now : Nat) (l : List Burst) {x0 e_} (h_ : commitFirst d n now l = (x0, e_)) :
    Touches [.freeCtr, .out, .sys, .bell, .past, .tm, .acc] d e_ := by
  have := commitFirst_touch d n now l; rw [h_] at this; exact this

theorem burstCommit_touch (d : Dev) (n now : Nat) :
    Touches [.freeCtr, .out, .sys, .bell, .past, .tm, .acc] d (burstCommit d n now) := by
  unfold burstCommit
  repeat' first
    | with_reducible assumption
    | with_reducible exact Touches.refl
    | ((try lift_lets -underBinder); intro d_; refine (have hd_ : Touches [.freeCtr, .out, .sys, .bell, .past, .tm, .acc] d d_ := ?_; ?_); (on_goal 1 => try dsimp only [d_]); (on_goal 2 => clear_value d_))
    | ((try lift_lets -underBinder); intro d_; try clear_value d_)
    | exact Eq.refl true
    | with_reducible refine Touches.andThen ?_ (by with_reducible exact onSlice_touch ..) ?_
    | refine Touches.andThen ?_ (commitFirst_touch' (h_ := by assumption) ..) ?_
    | with_reducible refine Touches.andThen ?_ (by with_reducible exact suppressBursts_touch ..) ?_
    | split
    | dsimp -zeta only
    | (split at ‹ite _ _ _ = (_, _)›)
    | (cases ‹(_, _) = (_, _)›)

theorem ploamSent_touch (d : Dev) (n : Nat) (m : PloamUp) :
    Touches [.out, .acc] d (ploamSent d n m) := by
  unfold ploamSent
  repeat' first
    | with_reducible assumption
    | with_reducible exact Touches.refl
    | ((try lift_lets -underBinder); intro d_; refine (have hd_ : Touches [.out, .acc] d d_ := ?_; ?_); (on_goal 1 => try dsimp only [d_]); (on_goal 2 => clear_value d_))
    | ((try lift_lets -underBinder); intro d_; try clear_value d_)
    | exact Eq.refl true
    | with_reducible refine Touches.andThen ?_ (by with_reducible exact emit_touch ..) ?_
    | with_reducible refine Touches.andThen ?_ (by with_reducible exact onSlice_touch ..) ?_
    | split
    | dsimp -zeta only
    | (split at ‹ite _ _ _ = (_, _)›)
    | (cases ‹(_, _) = (_, _)›)

theorem timedSent_touch (d : Dev) (n stamp : Nat) (k : TmPkt) :
    Touches [.freeCtr, .out, .sys, .bell] d (timedSent d n stamp k) := by
  unfold timedSent
  repeat' first
    | with_reducible assumption
    | with_reducible exact Touches.refl
    | ((try lift_lets -underBinder); intro d_; refine (have hd_ : Touches [.freeCtr, .out, .sys, .bell] d d_ := ?_; ?_); (on_goal 1 => try dsimp only [d_]); (on_goal 2 => clear_value d_))
    | ((try lift_lets -underBinder); intro d_; try clear_value d_)
    | exact Eq.refl true
    | with_reducible refine Touches.andThen ?_ (by with_reducible exact emit_touch ..) ?_
    | with_reducible refine Touches.andThen ?_ (by with_reducible exact stampFrame_touch ..) ?_
    | refine Touches.andThen ?_ (stampFrame_touch' (h_ := by assumption) ..) ?_
    | with_reducible refine Touches.andThen ?_ (by with_reducible exact captureStamp_touch ..) ?_
    | with_reducible refine Touches.andThen ?_ (by with_reducible exact drawFree_touch ..) ?_
    | refine Touches.andThen ?_ (drawFree_touch' (h_ := by assumption) ..) ?_
    | split
    | dsimp -zeta only
    | (split at ‹ite _ _ _ = (_, _)›)
    | (cases ‹(_, _) = (_, _)›)

theorem partSent_touch (d : Dev) (n stamp : Nat) (p : BurstPart) :
    Touches [.freeCtr, .out, .sys, .bell, .acc] d (partSent d n stamp p) := by
  unfold partSent
  repeat' first
    | with_reducible assumption
    | with_reducible exact Touches.refl
    | ((try lift_lets -underBinder); intro d_; refine (have hd_ : Touches [.freeCtr, .out, .sys, .bell, .acc] d d_ := ?_; ?_); (on_goal 1 => try dsimp only [d_]); (on_goal 2 => clear_value d_))
    | ((try lift_lets -underBinder); intro d_; try clear_value d_)
    | with_reducible apply Touches.foldl
    | (intro _ _ _)
    | exact Eq.refl true
    | with_reducible refine Touches.andThen ?_ (by with_reducible exact emit_touch ..) ?_
    | with_reducible refine Touches.andThen ?_ (by with_reducible exact timedSent_touch ..) ?_
    | with_reducible refine Touches.andThen ?_ (by with_reducible exact ploamSent_touch ..) ?_
    | with_reducible refine Touches.andThen ?_ (by with_reducible exact accCount_touch ..) ?_
    | split
    | dsimp -zeta only
    | (split at ‹ite _ _ _ = (_, _)›)
    | (cases ‹(_, _) = (_, _)›)

theorem gaspOver_touch (d : Dev) (n : Nat) :
    Touches [.out, .sys, .bell, .tm, .acc] d (gaspOver d n) := by
  unfold gaspOver
  repeat' first
    | with_reducible assumption
    | with_reducible exact Touches.refl
    | ((try lift_lets -underBinder); intro d_; refine (have hd_ : Touches [.out, .sys, .bell, .tm, .acc] d d_ := ?_; ?_); (on_goal 1 => try dsimp only [d_]); (on_goal 2 => clear_value d_))
    | ((try lift_lets -underBinder); intro d_; try clear_value d_)
    | exact Eq.refl true
    | with_reducible refine Touches.andThen ?_ (by with_reducible exact onSlice_touch ..) ?_
    | with_reducible refine Touches.andThen ?_ (by with_reducible exact endIfAllDisabled_touch ..) ?_
    | with_reducible refine Touches.andThen ?_ (by with_reducible exact setAccSt_touch ..) ?_
    | split
    | dsimp -zeta only
    | (split at ‹ite _ _ _ = (_, _)›)
    | (cases ‹(_, _) = (_, _)›)

theorem burstWindow_touch (d : Dev) (n stamp : Nat) :
    Touches [.freeCtr, .out, .sys, .bell, .tm, .acc, .lane] d (burstWindow d n stamp) := by
  unfold burstWindow
  repeat' first
    | with_reducible assumption
    | with_reducible exact Touches.refl
    | ((try lift_lets -underBinder); intro d_; refine (have hd_ : Touches [.freeCtr, .out, .sys, .bell, .tm, .acc, .lane] d d_ := ?_; ?_); (on_goal 1 => try dsimp only [d_]); (on_goal 2 => clear_value d_))
    | ((try lift_lets -underBinder); intro d_; try clear_value d_)
    | with_reducible apply Touches.foldl
    | (intro _ _ _)
    | exact Eq.refl true
    | with_reducible refine Touches.andThen ?_ (by with_reducible exact onSlice_touch ..) ?_
    | with_reducible refine Touches.andThen ?_ (by with_reducible exact onLanes_touch ..) ?_
    | with_reducible refine Touches.andThen ?_ (by with_reducible exact emit_touch ..) ?_
    | with_reducible refine Touches.andThen ?_ (by with_reducible exact partSent_touch ..) ?_
    | with_reducible refine Touches.andThen ?_ (by with_reducible exact gaspOver_touch ..) ?_
    | split
    | dsimp -zeta only
    | (split at ‹ite _ _ _ = (_, _)›)
    | (cases ‹(_, _) = (_, _)›)

end Sys2Proof.Machine
end

