-- ==== Sys2Proof/Laws/TouchBond.lean ====
section
/-! SUPPORT. Which parts of the device the operations of Machine/Bond.lean touch. -/

namespace Sys2Proof.Machine

set_option linter.all false
set_option Elab.async false

theorem bondAck_touch (d : Dev) (n type : Nat) (h : BondHdr) (code : Nat) :
    Touches [.out, .sys, .acc] d (bondAck d n type h code) := by
  unfold bondAck
  repeat' first
    | with_reducible assumption
    | with_reducible exact Touches.refl
    | ((try lift_lets -underBinder); intro d_; refine (have hd_ : Touches [.out, .sys, .acc] d d_ := ?_; ?_); (on_goal 1 => try dsimp only [d_]); (on_goal 2 => clear_value d_))
    | ((try lift_lets -underBinder); intro d_; try clear_value d_)
    | exact Eq.refl true
    | with_reducible refine Touches.andThen ?_ (by with_reducible exact onBond_touch ..) ?_
    | with_reducible refine Touches.andThen ?_ (by with_reducible exact bondSend_touch ..) ?_
    | with_reducible refine Touches.andThen ?_ (by with_reducible exact raiseLeaf_touch ..) ?_
    | split
    | dsimp -zeta only
    | (split at ‹ite _ _ _ = (_, _)›)
    | (cases ‹(_, _) = (_, _)›)

theorem bondAckKeep_touch (d : Dev) (n type : Nat) (h : BondHdr) (code : Nat) :
    Touches [.out, .sys, .acc] d (bondAckKeep d n type h code) := by
  unfold bondAckKeep
  repeat' first
    | with_reducible assumption
    | with_reducible exact Touches.refl
    | ((try lift_lets -underBinder); intro d_; refine (have hd_ : Touches [.out, .sys, .acc] d d_ := ?_; ?_); (on_goal 1 => try dsimp only [d_]); (on_goal 2 => clear_value d_))
    | ((try lift_lets -underBinder); intro d_; try clear_value d_)
    | exact Eq.refl true
    | with_reducible refine Touches.andThen ?_ (by with_reducible exact onBond_touch ..) ?_
    | with_reducible refine Touches.andThen ?_ (by with_reducible exact bondAck_touch ..) ?_
    | split
    | dsimp -zeta only
    | (split at ‹ite _ _ _ = (_, _)›)
    | (cases ‹(_, _) = (_, _)›)

theorem bondMsg_touch {ps : List Part} (hs : subParts [.out, .sys, .acc] ps = true) {act : Dev → Nat × Dev} (hf : ∀ x, Touches ps x (act x).2)
    (d : Dev) (n type : Nat) (h : BondHdr) (offer : Bool) : Touches ps d (bondMsg d n type h offer act) := by
  have ht : ∀ x, Touches ps x (bondAckKeep (onBond (act x).2 (fun b => { b with epoch := h.epoch % 256 })) n type h (act x).1) := fun x =>
    .andThen (.andThen (hf x) (onBond_touch _ _) (subParts_trans rfl hs)) (bondAckKeep_touch _ _ _ _ _) (subParts_trans rfl hs)
  have hc : ∀ i, Touches ps d (bondCount d i 1) := fun i => .mono (bondCount_touch _ _ _) (subParts_trans rfl hs)
  unfold bondMsg
  dsimp only
  split
  · exact .refl
  · split
    · exact .refl
    · split
      · exact hc 7
      · split
        · exact ht d
        · split
          · split
            · exact .andThen (hc 8) (bondAck_touch _ _ _ _ _) (subParts_trans rfl hs)
            · exact .mono (bondAck_touch _ _ _ _ _) (subParts_trans rfl hs)
          · split
            · exact ht d
            · split
              · exact .mono (bondSend_touch _ _ _ _ _) (subParts_trans rfl hs)
              · exact .andThen (hc 8) (bondAck_touch _ _ _ _ _) (subParts_trans rfl hs)

theorem answered_touch (d : Dev) (type chan : Nat) :
    Touches [.acc] d (answered d type chan) := by
  unfold answered
  repeat' first
    | with_reducible assumption
    | with_reducible exact Touches.refl
    | exact Eq.refl true
    | with_reducible refine Touches.andThen ?_ (by with_reducible exact onBond_touch ..) ?_
    | split
    | dsimp -zeta only
    | (split at ‹ite _ _ _ = (_, _)›)
    | (cases ‹(_, _) = (_, _)›)

theorem chActivate_touch (d : Dev) (n : Nat) :
    Touches [.out, .sys, .bell, .acc] d (chActivate d n) := by
  unfold chActivate
  repeat' first
    | with_reducible assumption
    | with_reducible exact Touches.refl
    | ((try lift_lets -underBinder); intro d_; refine (have hd_ : Touches [.out, .sys, .bell, .acc] d d_ := ?_; ?_); (on_goal 1 => try dsimp only [d_]); (on_goal 2 => clear_value d_))
    | ((try lift_lets -underBinder); intro d_; try clear_value d_)
    | exact Eq.refl true
    | with_reducible refine Touches.andThen ?_ (by with_reducible exact onSlice_touch ..) ?_
    | with_reducible refine Touches.andThen ?_ (by with_reducible exact setRefSlice_touch ..) ?_
    | split
    | dsimp -zeta only
    | (split at ‹ite _ _ _ = (_, _)›)
    | (cases ‹(_, _) = (_, _)›)

theorem bondOffer_touch (n : Nat) (h : BondHdr) (dsPort usPort start : Nat) (d : Dev) :
    Touches [.out, .sys, .bell, .acc] d (bondOffer n h dsPort usPort start d).2 := by
  unfold bondOffer
  repeat' first
    | with_reducible assumption
    | with_reducible exact Touches.refl
    | ((try lift_lets -underBinder); intro d_; refine (have hd_ : Touches [.out, .sys, .bell, .acc] d d_ := ?_; ?_); (on_goal 1 => try dsimp only [d_]); (on_goal 2 => clear_value d_))
    | ((try lift_lets -underBinder); intro d_; try clear_value d_)
    | exact Eq.refl true
    | with_reducible refine Touches.andThen ?_ (by with_reducible exact onBond_touch ..) ?_
    | with_reducible refine Touches.andThen ?_ (by with_reducible exact raiseLeaf_touch ..) ?_
    | with_reducible refine Touches.andThen ?_ (by with_reducible exact chActivate_touch ..) ?_
    | with_reducible refine Touches.andThen ?_ (by with_reducible exact answered_touch ..) ?_
    | split
    | dsimp -zeta only
    | (split at ‹ite _ _ _ = (_, _)›)
    | (cases ‹(_, _) = (_, _)›)

theorem bondOffer_touch' (n : Nat) (h : BondHdr) (dsPort usPort start : Nat) (d : Dev) {x0 e_} (h_ : bondOffer n h dsPort usPort start d = (x0, e_)) : Touches [.out, .sys, .bell, .acc] d e_ := by
  have := bondOffer_touch n h dsPort usPort start d; rw [h_] at this; exact this

theorem bondedEntry_touch (d : Dev) (n : Nat) (e : Nat × Nat) :
    Touches [.acc] d (bondedEntry d n e) := by
  unfold bondedEntry
  repeat' first
    | with_reducible assumption
    | with_reducible exact Touches.refl
    | exact Eq.refl true
    | with_reducible refine Touches.andThen ?_ (by with_reducible exact onSlice_touch ..) ?_
    | split
    | dsimp -zeta only
    | (split at ‹ite _ _ _ = (_, _)›)
    | (cases ‹(_, _) = (_, _)›)

theorem channelAdd_touch (n : Nat) (h : BondHdr) (joinFrame : Nat) (d : Dev) :
    Touches [.acc] d (channelAdd n h joinFrame d).2 := by
  unfold channelAdd
  repeat' first
    | with_reducible assumption
    | with_reducible exact Touches.refl
    | ((try lift_lets -underBinder); intro d_; refine (have hd_ : Touches [.acc] d d_ := ?_; ?_); (on_goal 1 => try dsimp only [d_]); (on_goal 2 => clear_value d_))
    | ((try lift_lets -underBinder); intro d_; try clear_value d_)
    | with_reducible apply Touches.foldl
    | (intro _ _ _)
    | exact Eq.refl true
    | with_reducible refine Touches.andThen ?_ (by with_reducible exact onSlice_touch ..) ?_
    | with_reducible refine Touches.andThen ?_ (by with_reducible exact bondedEntry_touch ..) ?_
    | split
    | dsimp -zeta only
    | (split at ‹ite _ _ _ = (_, _)›)
    | (cases ‹(_, _) = (_, _)›)

theorem channelAdd_touch' (n : Nat) (h : BondHdr) (joinFrame : Nat) (d : Dev) {x0 e_} (h_ : channelAdd n h joinFrame d = (x0, e_)) : Touches [.acc] d e_ := by
  have := channelAdd_touch n h joinFrame d; rw [h_] at this; exact this

theorem channelAddMsg_touch (n : Nat) (h : BondHdr) (joinFrame : Nat) (d : Dev) :
    Touches [.acc] d (channelAddMsg n h joinFrame d).2 := by
  unfold channelAddMsg
  repeat' first
    | with_reducible assumption
    | with_reducible exact Touches.refl
    | ((try lift_lets -underBinder); intro d_; refine (have hd_ : Touches [.acc] d d_ := ?_; ?_); (on_goal 1 => try dsimp only [d_]); (on_goal 2 => clear_value d_))
    | ((try lift_lets -underBinder); intro d_; try clear_value d_)
    | exact Eq.refl true
    | with_reducible refine Touches.andThen ?_ (by with_reducible exact channelAdd_touch ..) ?_
    | refine Touches.andThen ?_ (channelAdd_touch' (h_ := by assumption) ..) ?_
    | with_reducible refine Touches.andThen ?_ (by with_reducible exact answered_touch ..) ?_
    | with_reducible refine Touches.andThen ?_ (by with_reducible exact onSlice_touch ..) ?_
    | with_reducible refine Touches.andThen ?_ (by with_reducible exact bondedEntry_touch ..) ?_
    | split
    | dsimp -zeta only
    | (split at ‹ite _ _ _ = (_, _)›)
    | (cases ‹(_, _) = (_, _)›)

theorem channelAddMsg_touch' (n : Nat) (h : BondHdr) (joinFrame : Nat) (d : Dev) {x0 e_} (h_ : channelAddMsg n h joinFrame d = (x0, e_)) : Touches [.acc] d e_ := by
  have := channelAddMsg_touch n h joinFrame d; rw [h_] at this; exact this

theorem channelRemove_touch (h : BondHdr) (leaveFrame : Nat) (d : Dev) :
    Touches [.out, .sys, .bell, .acc] d (channelRemove h leaveFrame d).2 := by
  unfold channelRemove
  repeat' first
    | with_reducible assumption
    | with_reducible exact Touches.refl
    | ((try lift_lets -underBinder); intro d_; refine (have hd_ : Touches [.out, .sys, .bell, .acc] d d_ := ?_; ?_); (on_goal 1 => try dsimp only [d_]); (on_goal 2 => clear_value d_))
    | ((try lift_lets -underBinder); intro d_; try clear_value d_)
    | exact Eq.refl true
    | with_reducible refine Touches.andThen ?_ (by with_reducible exact onSlice_touch ..) ?_
    | with_reducible refine Touches.andThen ?_ (by with_reducible exact answered_touch ..) ?_
    | with_reducible refine Touches.andThen ?_ (by with_reducible exact departure_touch ..) ?_
    | split
    | dsimp -zeta only
    | (split at ‹ite _ _ _ = (_, _)›)
    | (cases ‹(_, _) = (_, _)›)

theorem channelRemove_touch' (h : BondHdr) (leaveFrame : Nat) (d : Dev) {x0 e_} (h_ : channelRemove h leaveFrame d = (x0, e_)) : Touches [.out, .sys, .bell, .acc] d e_ := by
  have := channelRemove_touch h leaveFrame d; rw [h_] at this; exact this

theorem bondAlloc_touch (alloc : Nat) (assign : Bool) (d : Dev) :
    Touches [.tm, .acc] d (bondAlloc alloc assign d).2 := by
  unfold bondAlloc
  repeat' first
    | with_reducible assumption
    | with_reducible exact Touches.refl
    | ((try lift_lets -underBinder); intro d_; refine (have hd_ : Touches [.tm, .acc] d d_ := ?_; ?_); (on_goal 1 => try dsimp only [d_]); (on_goal 2 => clear_value d_))
    | ((try lift_lets -underBinder); intro d_; try clear_value d_)
    | with_reducible apply Touches.foldl
    | (intro _ _ _)
    | exact Eq.refl true
    | split
    | with_reducible refine Touches.andThen ?_ (by with_reducible exact onSlice_touch ..) ?_
    | with_reducible refine Touches.andThen ?_ (by with_reducible exact onBond_touch ..) ?_
    | with_reducible refine Touches.andThen ?_ (by with_reducible exact giveNode_touch ..) ?_
    | with_reducible refine Touches.andThen ?_ (by with_reducible exact bondCount_touch ..) ?_
    | with_reducible refine Touches.andThen ?_ (by with_reducible exact takeNode_touch ..) ?_
    | with_reducible refine Touches.andThen ?_ (by with_reducible exact bondedEntry_touch ..) ?_
    | split
    | dsimp -zeta only
    | (split at ‹ite _ _ _ = (_, _)›)
    | (cases ‹(_, _) = (_, _)›)

theorem bondAlloc_touch' (alloc : Nat) (assign : Bool) (d : Dev) {x0 e_} (h_ : bondAlloc alloc assign d = (x0, e_)) : Touches [.tm, .acc] d e_ := by
  have := bondAlloc_touch alloc assign d; rw [h_] at this; exact this

theorem bondReleaseMsg_touch (now : Nat) (d : Dev) :
    Touches [.out, .sys, .tm, .acc] d (bondReleaseMsg now d).2 := by
  unfold bondReleaseMsg
  repeat' first
    | with_reducible assumption
    | with_reducible exact Touches.refl
    | ((try lift_lets -underBinder); intro d_; refine (have hd_ : Touches [.out, .sys, .tm, .acc] d d_ := ?_; ?_); (on_goal 1 => try dsimp only [d_]); (on_goal 2 => clear_value d_))
    | ((try lift_lets -underBinder); intro d_; try clear_value d_)
    | exact Eq.refl true
    | with_reducible refine Touches.andThen ?_ (by with_reducible exact bondEnd_touch ..) ?_
    | split
    | dsimp -zeta only
    | (split at ‹ite _ _ _ = (_, _)›)
    | (cases ‹(_, _) = (_, _)›)

theorem bondReleaseMsg_touch' (now : Nat) (d : Dev) {x0 e_} (h_ : bondReleaseMsg now d = (x0, e_)) : Touches [.out, .sys, .tm, .acc] d e_ := by
  have := bondReleaseMsg_touch now d; rw [h_] at this; exact this

theorem bondUnknown_touch (d : Dev) (slice : Nat) (h : BondHdr) (type : Nat) :
    Touches [.out, .sys, .acc] d (bondUnknown d slice h type) := by
  unfold bondUnknown
  repeat' first
    | with_reducible assumption
    | with_reducible exact Touches.refl
    | ((try lift_lets -underBinder); intro d_; refine (have hd_ : Touches [.out, .sys, .acc] d d_ := ?_; ?_); (on_goal 1 => try dsimp only [d_]); (on_goal 2 => clear_value d_))
    | ((try lift_lets -underBinder); intro d_; try clear_value d_)
    | exact Eq.refl true
    | with_reducible refine Touches.andThen ?_ (by with_reducible exact bondCount_touch ..) ?_
    | with_reducible refine Touches.andThen ?_ (by with_reducible exact bondAck_touch ..) ?_
    | split
    | dsimp -zeta only
    | (split at ‹ite _ _ _ = (_, _)›)
    | (cases ‹(_, _) = (_, _)›)

theorem bondRetry_touch (d : Dev) (type chan : Nat) :
    Touches [.out, .sys, .acc] d (bondRetry d type chan) := by
  unfold bondRetry
  repeat' first
    | with_reducible assumption
    | with_reducible exact Touches.refl
    | ((try lift_lets -underBinder); intro d_; refine (have hd_ : Touches [.out, .sys, .acc] d d_ := ?_; ?_); (on_goal 1 => try dsimp only [d_]); (on_goal 2 => clear_value d_))
    | ((try lift_lets -underBinder); intro d_; try clear_value d_)
    | exact Eq.refl true
    | split
    | with_reducible refine Touches.andThen ?_ (by with_reducible exact onBond_touch ..) ?_
    | with_reducible refine Touches.andThen ?_ (by with_reducible exact ctlQueue_touch ..) ?_
    | with_reducible refine Touches.andThen ?_ (bondMsg_touch (ps := [.out, .sys, .acc]) ?_ ?_ ..) ?_
    | (intro _)
    | with_reducible refine Touches.andThen ?_ (by with_reducible exact answered_touch ..) ?_
    | with_reducible refine Touches.andThen ?_ (by with_reducible exact bondForm_touch ..) ?_
    | split
    | dsimp -zeta only
    | (split at ‹ite _ _ _ = (_, _)›)
    | (cases ‹(_, _) = (_, _)›)

theorem gemDeliver_touch (d : Dev) (space q port : Nat) (bytes : List Byte) (now : Nat) :
    Touches [.freeCtr, .out, .sys, .past, .parse, .tm, .flock, .imc, .casc, .integ] d (gemDeliver d space q port bytes now) := by
  unfold gemDeliver
  repeat' first
    | with_reducible assumption
    | with_reducible exact Touches.refl
    | ((try lift_lets -underBinder); intro d_; refine (have hd_ : Touches [.freeCtr, .out, .sys, .past, .parse, .tm, .flock, .imc, .casc, .integ] d d_ := ?_; ?_); (on_goal 1 => try dsimp only [d_]); (on_goal 2 => clear_value d_))
    | ((try lift_lets -underBinder); intro d_; try clear_value d_)
    | exact Eq.refl true
    | with_reducible refine Touches.andThen ?_ (by with_reducible exact onPipe_touch ..) ?_
    | with_reducible refine Touches.andThen ?_ (by with_reducible exact imcStream_touch ..) ?_
    | with_reducible refine Touches.andThen ?_ (by with_reducible exact ingest_touch ..) ?_
    | split
    | dsimp -zeta only
    | (split at ‹ite _ _ _ = (_, _)›)
    | (cases ‹(_, _) = (_, _)›)

theorem sduLost_touch (d : Dev) :
    Touches [.acc] d (sduLost d) := by
  unfold sduLost
  repeat' first
    | with_reducible assumption
    | with_reducible exact Touches.refl
    | exact Eq.refl true
    | with_reducible refine Touches.andThen ?_ (by with_reducible exact onBond_touch ..) ?_
    | with_reducible refine Touches.andThen ?_ (by with_reducible exact bondCount_touch ..) ?_
    | split
    | dsimp -zeta only
    | (split at ‹ite _ _ _ = (_, _)›)
    | (cases ‹(_, _) = (_, _)›)

theorem fragDeliver_touch (d : Dev) (f : FragIn) (now : Nat) :
    Touches [.freeCtr, .out, .sys, .past, .parse, .tm, .flock, .acc, .imc, .casc, .integ] d (fragDeliver d f now) := by
  unfold fragDeliver
  repeat' first
    | with_reducible assumption
    | with_reducible exact Touches.refl
    | ((try lift_lets -underBinder); intro d_; refine (have hd_ : Touches [.freeCtr, .out, .sys, .past, .parse, .tm, .flock, .acc, .imc, .casc, .integ] d d_ := ?_; ?_); (on_goal 1 => try dsimp only [d_]); (on_goal 2 => clear_value d_))
    | ((try lift_lets -underBinder); intro d_; try clear_value d_)
    | exact Eq.refl true
    | with_reducible refine Touches.andThen ?_ (by with_reducible exact onBond_touch ..) ?_
    | with_reducible refine Touches.andThen ?_ (by with_reducible exact sduLost_touch ..) ?_
    | with_reducible refine Touches.andThen ?_ (by with_reducible exact bondCount_touch ..) ?_
    | with_reducible refine Touches.andThen ?_ (by with_reducible exact gemDeliver_touch ..) ?_
    | split
    | dsimp -zeta only
    | (split at ‹ite _ _ _ = (_, _)›)
    | (cases ‹(_, _) = (_, _)›)

theorem fragsLost_touch (d : Dev) (k : Nat) :
    Touches [.out, .sys, .acc] d (fragsLost d k) := by
  unfold fragsLost
  repeat' first
    | with_reducible assumption
    | with_reducible exact Touches.refl
    | exact Eq.refl true
    | with_reducible refine Touches.andThen ?_ (by with_reducible exact raiseLeaf_touch ..) ?_
    | with_reducible refine Touches.andThen ?_ (by with_reducible exact sduLost_touch ..) ?_
    | with_reducible refine Touches.andThen ?_ (by with_reducible exact bondCount_touch ..) ?_
    | split
    | dsimp -zeta only
    | (split at ‹ite _ _ _ = (_, _)›)
    | (cases ‹(_, _) = (_, _)›)

theorem windowAdvance_touch (d : Dev) (span now : Nat) (fuel : Nat) : Touches [.freeCtr, .out, .sys, .past, .parse, .tm, .flock, .acc, .imc, .casc, .integ] d (windowAdvance d span now fuel) := by
  induction fuel generalizing d span with
  | zero => exact .refl
  | succ fuel ih =>
    unfold windowAdvance
    have h1 : Touches [.freeCtr, .out, .sys, .past, .parse, .tm, .flock, .acc, .imc, .casc, .integ] d (fragsLost (onBond d (fun b => { b with e := (b.e + span) % 2 ^ 24 })) span) :=
      .andThen (.mono (onBond_touch _ _)) (fragsLost_touch _ _)
    split
    · split
      · exact .andThen (.andThen (.andThen (.mono (fragsLost_touch _ _)) (onBond_touch _ _)) (fragDeliver_touch _ _ _)) (ih _ _)
      · exact h1
    · exact h1

theorem windowDrain_touch (d : Dev) (now : Nat) (fuel : Nat) : Touches [.freeCtr, .out, .sys, .past, .parse, .tm, .flock, .acc, .imc, .casc, .integ] d (windowDrain d now fuel) := by
  induction fuel generalizing d with
  | zero => exact .refl
  | succ fuel ih =>
    unfold windowDrain
    split
    · exact .andThen (.andThen (.mono (onBond_touch _ _)) (fragDeliver_touch _ _ _)) (ih _)
    · exact .refl

theorem windowHold_touch (d : Dev) (f : FragIn) (now : Nat) :
    Touches [.acc] d (windowHold d f now) := by
  unfold windowHold
  repeat' first
    | with_reducible assumption
    | with_reducible exact Touches.refl
    | exact Eq.refl true
    | with_reducible refine Touches.andThen ?_ (by with_reducible exact onBond_touch ..) ?_
    | split
    | dsimp -zeta only
    | (split at ‹ite _ _ _ = (_, _)›)
    | (cases ‹(_, _) = (_, _)›)

theorem fragmentRx_touch (d : Dev) (n : Nat) (f : FragIn) (now : Nat) :
    Touches [.freeCtr, .out, .sys, .past, .parse, .tm, .flock, .acc, .imc, .casc, .integ] d (fragmentRx d n f now) := by
  unfold fragmentRx
  repeat' first
    | with_reducible assumption
    | with_reducible exact Touches.refl
    | ((try lift_lets -underBinder); intro d_; refine (have hd_ : Touches [.freeCtr, .out, .sys, .past, .parse, .tm, .flock, .acc, .imc, .casc, .integ] d d_ := ?_; ?_); (on_goal 1 => try dsimp only [d_]); (on_goal 2 => clear_value d_))
    | ((try lift_lets -underBinder); intro d_; try clear_value d_)
    | exact Eq.refl true
    | with_reducible refine Touches.andThen ?_ (by with_reducible exact onBond_touch ..) ?_
    | with_reducible refine Touches.andThen ?_ (by with_reducible exact bondCount_touch ..) ?_
    | with_reducible refine Touches.andThen ?_ (by with_reducible exact accCount_touch ..) ?_
    | with_reducible refine Touches.andThen ?_ (by with_reducible exact windowDrain_touch ..) ?_
    | with_reducible refine Touches.andThen ?_ (by with_reducible exact fragDeliver_touch ..) ?_
    | with_reducible refine Touches.andThen ?_ (by with_reducible exact windowHold_touch ..) ?_
    | with_reducible refine Touches.andThen ?_ (by with_reducible exact windowAdvance_touch ..) ?_
    | split
    | dsimp -zeta only
    | (split at ‹ite _ _ _ = (_, _)›)
    | (cases ‹(_, _) = (_, _)›)

theorem reorderDeadline_touch (d : Dev) (now : Nat) (fuel : Nat) : Touches [.freeCtr, .out, .sys, .past, .parse, .tm, .flock, .acc, .imc, .casc, .integ] d (reorderDeadline d now fuel) := by
  induction fuel generalizing d with
  | zero => exact .refl
  | succ fuel ih =>
    unfold reorderDeadline
    split
    · exact .refl
    · split
      · exact .refl
      · exact .andThen (.andThen (windowAdvance_touch _ _ _ _) (windowDrain_touch _ _ _)) (ih _)

theorem bondRead_touch (d : Dev) (n : Nat) (bs : List Byte) (now : Nat) : Touches [.out, .sys, .bell, .tm, .acc] d (bondRead d n bs now) := by
  unfold bondRead
  dsimp only
  split
  · exact .refl
  · split
    · exact bondMsg_touch (ps := [.out, .sys, .bell, .tm, .acc]) rfl (fun x => .mono (bondOffer_touch ..)) _ _ _ _ _
    · exact bondMsg_touch (ps := [.out, .sys, .bell, .tm, .acc]) rfl (fun x => .mono (channelAddMsg_touch ..)) _ _ _ _ _
    · exact bondMsg_touch (ps := [.out, .sys, .bell, .tm, .acc]) rfl (fun x => .mono (channelRemove_touch ..)) _ _ _ _ _
    · exact bondMsg_touch (ps := [.out, .sys, .bell, .tm, .acc]) rfl (fun x => .mono (bondAlloc_touch ..)) _ _ _ _ _
    · exact bondMsg_touch (ps := [.out, .sys, .bell, .tm, .acc]) rfl (fun x => .mono (bondReleaseMsg_touch ..)) _ _ _ _ _
    · exact .mono (bondUnknown_touch ..)

theorem gemDecrypt_touch (d : Dev) (n : Nat) (g : GemIn) :
    Touches [.out, .sys, .bell, .acc] d (gemDecrypt d n g).2 := by
  unfold gemDecrypt
  repeat' first
    | with_reducible assumption
    | with_reducible exact Touches.refl
    | ((try lift_lets -underBinder); intro d_; refine (have hd_ : Touches [.out, .sys, .bell, .acc] d d_ := ?_; ?_); (on_goal 1 => try dsimp only [d_]); (on_goal 2 => clear_value d_))
    | ((try lift_lets -underBinder); intro d_; try clear_value d_)
    | exact Eq.refl true
    | split
    | with_reducible refine Touches.andThen ?_ (by with_reducible exact onSlice_touch ..) ?_
    | with_reducible refine Touches.andThen ?_ (by with_reducible exact keyTakeEffect_touch ..) ?_
    | refine Touches.andThen ?_ (useKey_touch' (h_ := by assumption) ..) ?_
    | with_reducible refine Touches.andThen ?_ (by with_reducible exact accCount_touch ..) ?_
    | split
    | dsimp -zeta only
    | (split at ‹ite _ _ _ = (_, _)›)
    | (cases ‹(_, _) = (_, _)›)

theorem gemDecrypt_touch' (d : Dev) (n : Nat) (g : GemIn) {x0 e_} (h_ : gemDecrypt d n g = (x0, e_)) : Touches [.out, .sys, .bell, .acc] d e_ := by
  have := gemDecrypt_touch d n g; rw [h_] at this; exact this

theorem reassemble_touch (d : Dev) (n : Nat) (g : GemIn) :
    Touches [.freeCtr, .out, .sys, .past, .parse, .tm, .flock, .acc, .imc, .casc, .integ] d (reassemble d n g) := by
  unfold reassemble
  dsimp only
  repeat' first
    | with_reducible assumption
    | with_reducible exact Touches.refl
    | ((try lift_lets -underBinder); intro d_; refine (have hd_ : Touches [.freeCtr, .out, .sys, .past, .parse, .tm, .flock, .acc, .imc, .casc, .integ] d d_ := ?_; ?_); (on_goal 1 => try dsimp only [d_]); (on_goal 2 => clear_value d_))
    | ((try lift_lets -underBinder); intro d_; try clear_value d_)
    | exact Eq.refl true
    | with_reducible refine Touches.andThen ?_ (by with_reducible exact onSlice_touch ..) ?_
    | with_reducible refine Touches.andThen ?_ (by with_reducible exact accCount_touch ..) ?_
    | with_reducible refine Touches.andThen ?_ (by with_reducible exact gemDeliver_touch ..) ?_
    | split
    | dsimp -zeta only
    | (split at ‹ite _ _ _ = (_, _)›)
    | (cases ‹(_, _) = (_, _)›)

theorem gemFrame_touch (d : Dev) (n : Nat) (g : GemIn) :
    Touches [.freeCtr, .out, .sys, .bell, .past, .parse, .tm, .flock, .acc, .imc, .casc, .integ] d (gemFrame d n g) := by
  unfold gemFrame
  repeat' first
    | with_reducible assumption
    | with_reducible exact Touches.refl
    | ((try lift_lets -underBinder); intro d_; refine (have hd_ : Touches [.freeCtr, .out, .sys, .bell, .past, .parse, .tm, .flock, .acc, .imc, .casc, .integ] d d_ := ?_; ?_); (on_goal 1 => try dsimp only [d_]); (on_goal 2 => clear_value d_))
    | ((try lift_lets -underBinder); intro d_; try clear_value d_)
    | exact Eq.refl true
    | with_reducible refine Touches.andThen ?_ (by with_reducible exact onPipe_touch ..) ?_
    | with_reducible refine Touches.andThen ?_ (by with_reducible exact gemDecrypt_touch ..) ?_
    | refine Touches.andThen ?_ (gemDecrypt_touch' (h_ := by assumption) ..) ?_
    | with_reducible refine Touches.andThen ?_ (by with_reducible exact bondRead_touch ..) ?_
    | with_reducible refine Touches.andThen ?_ (by with_reducible exact fragmentRx_touch ..) ?_
    | with_reducible refine Touches.andThen ?_ (by with_reducible exact reassemble_touch ..) ?_
    | with_reducible refine Touches.andThen ?_ (by with_reducible exact onSlice_touch ..) ?_
    | with_reducible refine Touches.andThen ?_ (by with_reducible exact keyTakeEffect_touch ..) ?_
    | with_reducible refine Touches.andThen ?_ (by with_reducible exact useKey_touch ..) ?_
    | refine Touches.andThen ?_ (useKey_touch' (h_ := by assumption) ..) ?_
    | with_reducible refine Touches.andThen ?_ (by with_reducible exact accCount_touch ..) ?_
    | split
    | dsimp -zeta only
    | (split at ‹ite _ _ _ = (_, _)›)
    | (cases ‹(_, _) = (_, _)›)

theorem trunksHunt_touch (d : Dev) (n port : Nat) :
    Touches [.imc] d (trunksHunt d n port) := by
  unfold trunksHunt
  repeat' first
    | with_reducible assumption
    | with_reducible exact Touches.refl
    | ((try lift_lets -underBinder); intro d_; refine (have hd_ : Touches [.imc] d d_ := ?_; ?_); (on_goal 1 => try dsimp only [d_]); (on_goal 2 => clear_value d_))
    | ((try lift_lets -underBinder); intro d_; try clear_value d_)
    | exact Eq.refl true
    | with_reducible refine Touches.andThen ?_ (by with_reducible exact onImc_touch ..) ?_
    | split
    | dsimp -zeta only
    | (split at ‹ite _ _ _ = (_, _)›)
    | (cases ‹(_, _) = (_, _)›)

theorem omciEffect_touch (d : Dev) (n : Nat) (e : OmciEffect) :
    Touches [.acc, .imc] d (omciEffect d n e) := by
  unfold omciEffect
  repeat' first
    | with_reducible assumption
    | with_reducible exact Touches.refl
    | ((try lift_lets -underBinder); intro d_; refine (have hd_ : Touches [.acc, .imc] d d_ := ?_; ?_); (on_goal 1 => try dsimp only [d_]); (on_goal 2 => clear_value d_))
    | ((try lift_lets -underBinder); intro d_; try clear_value d_)
    | exact Eq.refl true
    | with_reducible refine Touches.andThen ?_ (by with_reducible exact onSlice_touch ..) ?_
    | with_reducible refine Touches.andThen ?_ (by with_reducible exact trunksHunt_touch ..) ?_
    | split
    | dsimp -zeta only
    | (split at ‹ite _ _ _ = (_, _)›)
    | (cases ‹(_, _) = (_, _)›)

theorem omciMessage_touch (d : Dev) (n cls inst : Nat) (micOk : Bool) (op : OmciOp) (eff : OmciEffect) :
    Touches [.acc, .imc] d (omciMessage d n cls inst micOk op eff) := by
  unfold omciMessage
  dsimp only
  repeat' first
    | with_reducible assumption
    | with_reducible exact Touches.refl
    | ((try lift_lets -underBinder); intro d_; refine (have hd_ : Touches [.acc, .imc] d d_ := ?_; ?_); (on_goal 1 => try dsimp only [d_]); (on_goal 2 => clear_value d_))
    | ((try lift_lets -underBinder); intro d_; try clear_value d_)
    | exact Eq.refl true
    | with_reducible refine Touches.andThen ?_ (by with_reducible exact onSlice_touch ..) ?_
    | with_reducible refine Touches.andThen ?_ (by with_reducible exact ctlQueue_touch ..) ?_
    | with_reducible refine Touches.andThen ?_ (by with_reducible exact accCount_touch ..) ?_
    | with_reducible refine Touches.andThen ?_ (by with_reducible exact omciEffect_touch ..) ?_
    | split
    | dsimp -zeta only
    | (split at ‹ite _ _ _ = (_, _)›)
    | (cases ‹(_, _) = (_, _)›)

end Sys2Proof.Machine
end

