-- ==== Sys2Proof/Laws/TouchAcc.lean ====
section
/-! SUPPORT. Which parts of the device the operations of Machine/Acc.lean touch. -/

namespace Sys2Proof.Machine

set_option linter.all false
set_option Elab.async false

theorem applyAccConfig_touch (cfg : AccCfg) (d : Dev) :
    Touches [.bell, .acc] d (applyAccConfig cfg d) := by
  unfold applyAccConfig
  repeat' first
    | with_reducible assumption
    | with_reducible exact Touches.refl
    | ((try lift_lets -underBinder); intro d_; refine (have hd_ : Touches [.bell, .acc] d d_ := ?_; ?_); (on_goal 1 => try dsimp only [d_]); (on_goal 2 => clear_value d_))
    | ((try lift_lets -underBinder); intro d_; try clear_value d_)
    | exact Eq.refl true
    | with_reducible refine Touches.andThen ?_ (by with_reducible exact onAcc_touch ..) ?_
    | with_reducible refine onBell_step ?_ ?_ ?_
    | exact partOr_left rfl
    | exact .inr rfl
    | exact .inr (by (repeat' split) <;> rfl)
    | split
    | dsimp -zeta only
    | (split at ‹ite _ _ _ = (_, _)›)
    | (cases ‹(_, _) = (_, _)›)

theorem applyAccEnable_touch (mask : Nat) (stopHeld : Bool) (d : Dev) :
    Touches [.out, .sys, .bell, .tm, .acc] d (applyAccEnable mask stopHeld d) := by
  unfold applyAccEnable
  repeat' first
    | with_reducible assumption
    | with_reducible exact Touches.refl
    | with_reducible apply Touches.foldl
    | (intro _ _ _)
    | exact Eq.refl true
    | with_reducible refine Touches.andThen ?_ (by with_reducible exact setAccSt_touch ..) ?_
    | split
    | dsimp -zeta only
    | (split at ‹ite _ _ _ = (_, _)›)
    | (cases ‹(_, _) = (_, _)›)

theorem accBell_touch (d : Dev) :
    Touches [.out, .sys, .rings, .sess, .acc] d (accBell d) := by
  unfold accBell
  repeat' first
    | with_reducible assumption
    | with_reducible exact Touches.refl
    | ((try lift_lets -underBinder); intro d_; refine (have hd_ : Touches [.out, .sys, .rings, .sess, .acc] d d_ := ?_; ?_); (on_goal 1 => try dsimp only [d_]); (on_goal 2 => clear_value d_))
    | ((try lift_lets -underBinder); intro d_; try clear_value d_)
    | with_reducible apply Touches.foldl
    | (intro _ _ _)
    | exact Eq.refl true
    | with_reducible refine Touches.andThen ?_ (by with_reducible exact onAcc_touch ..) ?_
    | with_reducible refine Touches.andThen ?_ (by with_reducible exact answer_touch ..) ?_
    | with_reducible refine Touches.andThen ?_ (by with_reducible exact epochDone_touch ..) ?_
    | split
    | dsimp -zeta only
    | (split at ‹ite _ _ _ = (_, _)›)
    | (cases ‹(_, _) = (_, _)›)

theorem applyAccKillRelease_touch (slice : Nat) (d : Dev) :
    Touches [.out, .sys, .bell, .tm, .acc] d (applyAccKillRelease slice d) := by
  unfold applyAccKillRelease
  repeat' first
    | with_reducible assumption
    | with_reducible exact Touches.refl
    | ((try lift_lets -underBinder); intro d_; refine (have hd_ : Touches [.out, .sys, .bell, .tm, .acc] d d_ := ?_; ?_); (on_goal 1 => try dsimp only [d_]); (on_goal 2 => clear_value d_))
    | ((try lift_lets -underBinder); intro d_; try clear_value d_)
    | exact Eq.refl true
    | with_reducible refine Touches.andThen ?_ (by with_reducible exact onSlice_touch ..) ?_
    | with_reducible refine Touches.andThen ?_ (by with_reducible exact setAccSt_touch ..) ?_
    | split
    | dsimp -zeta only
    | (split at ‹ite _ _ _ = (_, _)›)
    | (cases ‹(_, _) = (_, _)›)

theorem applyAccBondConfig_touch (mask : Nat) (request : Bool) (d : Dev) :
    Touches [.out, .sys, .bell, .acc] d (applyAccBondConfig mask request d) := by
  unfold applyAccBondConfig
  repeat' first
    | with_reducible assumption
    | with_reducible exact Touches.refl
    | ((try lift_lets -underBinder); intro d_; refine (have hd_ : Touches [.out, .sys, .bell, .acc] d d_ := ?_; ?_); (on_goal 1 => try dsimp only [d_]); (on_goal 2 => clear_value d_))
    | ((try lift_lets -underBinder); intro d_; try clear_value d_)
    | with_reducible apply Touches.foldl
    | (intro _ _ _)
    | exact Eq.refl true
    | split
    | with_reducible refine Touches.andThen ?_ (by with_reducible exact onBond_touch ..) ?_
    | with_reducible refine Touches.andThen ?_ (by with_reducible exact departure_touch ..) ?_
    | with_reducible refine Touches.andThen ?_ (by with_reducible exact bondForm_touch ..) ?_
    | split
    | dsimp -zeta only
    | (split at ‹ite _ _ _ = (_, _)›)
    | (cases ‹(_, _) = (_, _)›)

theorem applyAccChannelLeave_touch (slice : Nat) (d : Dev) :
    Touches [.out, .sys, .bell, .acc] d (applyAccChannelLeave slice d) := by
  unfold applyAccChannelLeave
  repeat' first
    | with_reducible assumption
    | with_reducible exact Touches.refl
    | exact Eq.refl true
    | with_reducible refine Touches.andThen ?_ (by with_reducible exact departure_touch ..) ?_
    | split
    | dsimp -zeta only
    | (split at ‹ite _ _ _ = (_, _)›)
    | (cases ‹(_, _) = (_, _)›)

theorem accReadClear_touch (d : Dev) (off : Nat) :
    Touches [.acc] d (accReadClear d off) := by
  unfold accReadClear
  repeat' first
    | with_reducible assumption
    | with_reducible exact Touches.refl
    | ((try lift_lets -underBinder); intro d_; refine (have hd_ : Touches [.acc] d d_ := ?_; ?_); (on_goal 1 => try dsimp only [d_]); (on_goal 2 => clear_value d_))
    | ((try lift_lets -underBinder); intro d_; try clear_value d_)
    | exact Eq.refl true
    | with_reducible refine Touches.andThen ?_ (by with_reducible exact onBond_touch ..) ?_
    | with_reducible refine Touches.andThen ?_ (by with_reducible exact onSlice_touch ..) ?_
    | split
    | dsimp -zeta only
    | (split at ‹ite _ _ _ = (_, _)›)
    | (cases ‹(_, _) = (_, _)›)

theorem accWrite_opt (d : Dev) (off : Nat) (v : Word) : OptTouch (α := Dev) (fun x => x) [.acc] d (accWrite d off v) := by
  unfold accWrite
  repeat' first
    | with_reducible assumption
    | with_reducible exact Touches.refl
    | exact OptTouch.none
    | with_reducible refine OptTouch.some ?_
    | ((try lift_lets -underBinder); intro d_; refine (have hd_ : Touches [.acc] d d_ := ?_; ?_); (on_goal 1 => try dsimp only [d_]); (on_goal 2 => clear_value d_))
    | ((try lift_lets -underBinder); intro d_; try clear_value d_)
    | exact Eq.refl true
    | with_reducible refine Touches.andThen ?_ (by with_reducible exact onSlice_touch ..) ?_
    | split
    | dsimp -zeta only
    | (split at ‹ite _ _ _ = (_, _)›)
    | (cases ‹(_, _) = (_, _)›)

theorem accWrite_touch (d : Dev) (off : Nat) (v : Word) {e_} (h_ : accWrite d off v = some e_) : Touches [.acc] d e_ := (accWrite_opt d off v).of_some h_

end Sys2Proof.Machine
end

