-- ==== Sys2Proof/Laws/TouchSys.lean ====
section
/-! SUPPORT. Which parts of the device the operations of Machine/Sys.lean touch. -/

namespace Sys2Proof.Machine

set_option linter.all false
set_option Elab.async false

theorem ringStop_touch (d : Dev) (r cause : Nat) :
    Touches [.out, .sys, .rings] d (ringStop d r cause) := by
  unfold ringStop
  repeat' first
    | with_reducible assumption
    | with_reducible exact Touches.refl
    | exact Eq.refl true
    | with_reducible refine Touches.andThen ?_ (by with_reducible exact onRing_touch ..) ?_
    | with_reducible refine Touches.andThen ?_ (by with_reducible exact raiseLeaf_touch ..) ?_
    | split
    | dsimp -zeta only
    | (split at ‹ite _ _ _ = (_, _)›)
    | (cases ‹(_, _) = (_, _)›)

theorem sqTail_touch (d : Dev) (r value : Nat) (packets : List KPacket) :
    Touches [.out, .sys, .rings] d (sqTail d r value packets) := by
  unfold sqTail
  repeat' first
    | with_reducible assumption
    | with_reducible exact Touches.refl
    | ((try lift_lets -underBinder); intro d_; refine (have hd_ : Touches [.out, .sys, .rings] d d_ := ?_; ?_); (on_goal 1 => try dsimp only [d_]); (on_goal 2 => clear_value d_))
    | ((try lift_lets -underBinder); intro d_; try clear_value d_)
    | exact Eq.refl true
    | with_reducible refine Touches.andThen ?_ (by with_reducible exact onRing_touch ..) ?_
    | with_reducible refine Touches.andThen ?_ (by with_reducible exact ringStop_touch ..) ?_
    | split
    | dsimp -zeta only
    | (split at ‹ite _ _ _ = (_, _)›)
    | (cases ‹(_, _) = (_, _)›)

theorem cqHead_touch (d : Dev) (r value : Nat) :
    Touches [.out, .sys, .rings] d (cqHead d r value) := by
  unfold cqHead
  repeat' first
    | with_reducible assumption
    | with_reducible exact Touches.refl
    | exact Eq.refl true
    | with_reducible refine Touches.andThen ?_ (by with_reducible exact onRing_touch ..) ?_
    | with_reducible refine Touches.andThen ?_ (by with_reducible exact ringStop_touch ..) ?_
    | with_reducible refine Touches.andThen ?_ (by with_reducible exact cqDrain_touch ..) ?_
    | split
    | dsimp -zeta only
    | (split at ‹ite _ _ _ = (_, _)›)
    | (cases ‹(_, _) = (_, _)›)

theorem ringEn_touch (d : Dev) (r : Nat) (en : Bool) :
    Touches [.out, .sys, .rings] d (ringEn d r en) := by
  unfold ringEn
  repeat' first
    | with_reducible assumption
    | with_reducible exact Touches.refl
    | exact Eq.refl true
    | with_reducible refine Touches.andThen ?_ (by with_reducible exact onRing_touch ..) ?_
    | split
    | dsimp -zeta only
    | (split at ‹ite _ _ _ = (_, _)›)
    | (cases ‹(_, _) = (_, _)›)

theorem msixConfig_touch (d : Dev) (cfgEn masked : Bool) :
    Touches [.out, .sys] d (msixConfig d cfgEn masked) := by
  unfold msixConfig
  repeat' first
    | with_reducible assumption
    | with_reducible exact Touches.refl
    | ((try lift_lets -underBinder); intro d_; refine (have hd_ : Touches [.out, .sys] d d_ := ?_; ?_); (on_goal 1 => try dsimp only [d_]); (on_goal 2 => clear_value d_))
    | ((try lift_lets -underBinder); intro d_; try clear_value d_)
    | exact Eq.refl true
    | with_reducible refine Touches.andThen ?_ (by with_reducible exact onInt_touch ..) ?_
    | with_reducible refine Touches.andThen ?_ (by with_reducible exact msixSend_touch ..) ?_
    | split
    | dsimp -zeta only
    | (split at ‹ite _ _ _ = (_, _)›)
    | (cases ‹(_, _) = (_, _)›)

theorem intCtrl_touch (d : Dev) (en : Bool) :
    Touches [.out, .sys] d (intCtrl d en) := by
  unfold intCtrl
  repeat' first
    | with_reducible assumption
    | with_reducible exact Touches.refl
    | ((try lift_lets -underBinder); intro d_; refine (have hd_ : Touches [.out, .sys] d d_ := ?_; ?_); (on_goal 1 => try dsimp only [d_]); (on_goal 2 => clear_value d_))
    | ((try lift_lets -underBinder); intro d_; try clear_value d_)
    | exact Eq.refl true
    | with_reducible refine Touches.andThen ?_ (by with_reducible exact onInt_touch ..) ?_
    | with_reducible refine Touches.andThen ?_ (by with_reducible exact msixSend_touch ..) ?_
    | split
    | dsimp -zeta only
    | (split at ‹ite _ _ _ = (_, _)›)
    | (cases ‹(_, _) = (_, _)›)

theorem sessionDrop_touch (d : Dev) :
    Touches [.sys] d (sessionDrop d) := by
  unfold sessionDrop
  repeat' first
    | with_reducible assumption
    | with_reducible exact Touches.refl
    | exact Eq.refl true
    | with_reducible refine onSys_step ?_ ?_ ?_ ?_ ?_ ?_
    | exact partOr_left rfl
    | exact .inr rfl
    | exact .inr (by (repeat' split) <;> rfl)
    | split
    | dsimp -zeta only
    | (split at ‹ite _ _ _ = (_, _)›)
    | (cases ‹(_, _) = (_, _)›)

theorem sessionHello_touch (d : Dev) (addr port : Nat) :
    Touches [.freeCtr, .out, .sys, .sess] d (sessionHello d addr port) := by
  unfold sessionHello
  repeat' first
    | with_reducible assumption
    | with_reducible exact Touches.refl
    | ((try lift_lets -underBinder); intro d_; refine (have hd_ : Touches [.freeCtr, .out, .sys, .sess] d d_ := ?_; ?_); (on_goal 1 => try dsimp only [d_]); (on_goal 2 => clear_value d_))
    | ((try lift_lets -underBinder); intro d_; try clear_value d_)
    | exact Eq.refl true
    | with_reducible refine Touches.andThen ?_ (by with_reducible exact onSess_touch ..) ?_
    | with_reducible refine Touches.andThen ?_ (by with_reducible exact sessionDrop_touch ..) ?_
    | with_reducible refine Touches.andThen ?_ (by with_reducible exact drawFree_touch ..) ?_
    | refine Touches.andThen ?_ (drawFree_touch' (h_ := by assumption) ..) ?_
    | with_reducible refine Touches.andThen ?_ (by with_reducible exact datagram_touch ..) ?_
    | with_reducible refine Touches.andThen ?_ (by with_reducible exact onFree_touch ..) ?_
    | split
    | dsimp -zeta only
    | (split at ‹ite _ _ _ = (_, _)›)
    | (cases ‹(_, _) = (_, _)›)

theorem sessionProof_touch (d : Dev) (k role keyHash : Nat) (sigOk decryptOk : Bool) :
    Touches [.out, .sys, .sess] d (sessionProof d k role keyHash sigOk decryptOk) := by
  unfold sessionProof
  repeat' first
    | with_reducible assumption
    | with_reducible exact Touches.refl
    | ((try lift_lets -underBinder); intro d_; refine (have hd_ : Touches [.out, .sys, .sess] d d_ := ?_; ?_); (on_goal 1 => try dsimp only [d_]); (on_goal 2 => clear_value d_))
    | ((try lift_lets -underBinder); intro d_; try clear_value d_)
    | exact Eq.refl true
    | with_reducible refine Touches.andThen ?_ (by with_reducible exact onSess_touch ..) ?_
    | with_reducible refine Touches.andThen ?_ (by with_reducible exact sessionDrop_touch ..) ?_
    | with_reducible refine Touches.andThen ?_ (by with_reducible exact raiseLeaf_touch ..) ?_
    | with_reducible refine Touches.andThen ?_ (by with_reducible exact datagram_touch ..) ?_
    | split
    | dsimp -zeta only
    | (split at ‹ite _ _ _ = (_, _)›)
    | (cases ‹(_, _) = (_, _)›)

theorem sessionClose_touch (d : Dev) (k : Nat) :
    Touches [.out, .sys, .staged, .sess] d (sessionClose d k) := by
  unfold sessionClose
  repeat' first
    | with_reducible assumption
    | with_reducible exact Touches.refl
    | ((try lift_lets -underBinder); intro d_; refine (have hd_ : Touches [.out, .sys, .staged, .sess] d d_ := ?_; ?_); (on_goal 1 => try dsimp only [d_]); (on_goal 2 => clear_value d_))
    | ((try lift_lets -underBinder); intro d_; try clear_value d_)
    | exact Eq.refl true
    | with_reducible refine Touches.andThen ?_ (by with_reducible exact onSess_touch ..) ?_
    | with_reducible refine onSys_step ?_ ?_ ?_ ?_ ?_ ?_
    | with_reducible refine Touches.andThen ?_ (by with_reducible exact raiseLeaf_touch ..) ?_
    | exact partOr_left rfl
    | exact .inr rfl
    | exact .inr (by (repeat' split) <;> rfl)
    | split
    | dsimp -zeta only
    | (split at ‹ite _ _ _ = (_, _)›)
    | (cases ‹(_, _) = (_, _)›)

theorem sessionCommand_touch (d : Dev) (k ctr : Nat) (tagOk : Bool) (p : KPacket) :
    Touches [.out, .sys, .sess] d (sessionCommand d k ctr tagOk p) := by
  unfold sessionCommand
  repeat' first
    | with_reducible assumption
    | with_reducible exact Touches.refl
    | ((try lift_lets -underBinder); intro d_; refine (have hd_ : Touches [.out, .sys, .sess] d d_ := ?_; ?_); (on_goal 1 => try dsimp only [d_]); (on_goal 2 => clear_value d_))
    | ((try lift_lets -underBinder); intro d_; try clear_value d_)
    | exact Eq.refl true
    | with_reducible refine Touches.andThen ?_ (by with_reducible exact onSess_touch ..) ?_
    | with_reducible refine Touches.andThen ?_ (by with_reducible exact sessionDrop_touch ..) ?_
    | with_reducible refine Touches.andThen ?_ (by with_reducible exact datagram_touch ..) ?_
    | split
    | dsimp -zeta only
    | (split at ‹ite _ _ _ = (_, _)›)
    | (cases ‹(_, _) = (_, _)›)

theorem applyMgmtConfig_touch (addr port idle : Nat) (d : Dev) :
    Touches [.sys] d (applyMgmtConfig addr port idle d) := by
  unfold applyMgmtConfig
  repeat' first
    | with_reducible assumption
    | with_reducible exact Touches.refl
    | exact Eq.refl true
    | with_reducible refine onSys_step ?_ ?_ ?_ ?_ ?_ ?_
    | exact partOr_left rfl
    | exact .inr rfl
    | exact .inr (by (repeat' split) <;> rfl)
    | split
    | dsimp -zeta only
    | (split at ‹ite _ _ _ = (_, _)›)
    | (cases ‹(_, _) = (_, _)›)

theorem fwStoreDone_touch (d : Dev) :
    Touches [.out, .sys, .rings, .sess, .fold] d (fwStoreDone d) := by
  unfold fwStoreDone
  repeat' first
    | with_reducible assumption
    | with_reducible exact Touches.refl
    | ((try lift_lets -underBinder); intro d_; refine (have hd_ : Touches [.out, .sys, .rings, .sess, .fold] d d_ := ?_; ?_); (on_goal 1 => try dsimp only [d_]); (on_goal 2 => clear_value d_))
    | ((try lift_lets -underBinder); intro d_; try clear_value d_)
    | exact Eq.refl true
    | with_reducible refine Touches.andThen ?_ (by with_reducible exact onBoot_touch ..) ?_
    | with_reducible refine Touches.andThen ?_ (by with_reducible exact followUp_touch ..) ?_
    | split
    | dsimp -zeta only
    | (split at ‹ite _ _ _ = (_, _)›)
    | (cases ‹(_, _) = (_, _)›)

theorem applyHostPktConfig_touch (ring : Nat) (enable : Bool) (d : Dev) :
    Touches [.sys, .rings] d (applyHostPktConfig ring enable d) := by
  unfold applyHostPktConfig
  repeat' first
    | with_reducible assumption
    | with_reducible exact Touches.refl
    | ((try lift_lets -underBinder); intro d_; refine (have hd_ : Touches [.sys, .rings] d d_ := ?_; ?_); (on_goal 1 => try dsimp only [d_]); (on_goal 2 => clear_value d_))
    | ((try lift_lets -underBinder); intro d_; try clear_value d_)
    | exact Eq.refl true
    | with_reducible refine onSys_step ?_ ?_ ?_ ?_ ?_ ?_
    | with_reducible refine Touches.andThen ?_ (by with_reducible exact onRing_touch ..) ?_
    | exact partOr_left rfl
    | exact .inr rfl
    | exact .inr (by (repeat' split) <;> rfl)
    | split
    | dsimp -zeta only
    | (split at ‹ite _ _ _ = (_, _)›)
    | (cases ‹(_, _) = (_, _)›)

theorem sysReadClear_touch (d : Dev) (off : Nat) :
    Touches [.sys] d (sysReadClear d off) := by
  unfold sysReadClear
  repeat' first
    | with_reducible assumption
    | with_reducible exact Touches.refl
    | exact Eq.refl true
    | with_reducible refine onSys_step ?_ ?_ ?_ ?_ ?_ ?_
    | exact partOr_left rfl
    | exact .inr rfl
    | exact .inr (by (repeat' split) <;> rfl)
    | split
    | dsimp -zeta only
    | (split at ‹ite _ _ _ = (_, _)›)
    | (cases ‹(_, _) = (_, _)›)

theorem ringWrite_touch (d : Dev) (r off : Nat) (v : Word) :
    Touches [.out, .sys, .rings] d (ringWrite d r off v) := by
  unfold ringWrite
  dsimp only
  repeat' first
    | with_reducible assumption
    | with_reducible exact Touches.refl
    | ((try lift_lets -underBinder); intro d_; refine (have hd_ : Touches [.out, .sys, .rings] d d_ := ?_; ?_); (on_goal 1 => try dsimp only [d_]); (on_goal 2 => clear_value d_))
    | ((try lift_lets -underBinder); intro d_; try clear_value d_)
    | exact Eq.refl true
    | with_reducible refine Touches.andThen ?_ (by with_reducible exact onRing_touch ..) ?_
    | with_reducible refine Touches.andThen ?_ (by with_reducible exact ringEn_touch ..) ?_
    | with_reducible refine Touches.andThen ?_ (by with_reducible exact sqTail_touch ..) ?_
    | with_reducible refine Touches.andThen ?_ (by with_reducible exact cqHead_touch ..) ?_
    | split
    | dsimp -zeta only
    | (split at ‹ite _ _ _ = (_, _)›)
    | (cases ‹(_, _) = (_, _)›)

theorem sysWrite_opt (d : Dev) (off : Nat) (v : Word) : OptTouch (α := Dev) (fun x => x) [.out, .sys, .rings] d (sysWrite d off v) := by
  unfold sysWrite
  repeat' first
    | with_reducible assumption
    | with_reducible exact Touches.refl
    | exact OptTouch.none
    | with_reducible refine OptTouch.some ?_
    | exact Eq.refl true
    | with_reducible refine onSys_step ?_ ?_ ?_ ?_ ?_ ?_
    | with_reducible refine Touches.andThen ?_ (by with_reducible exact onInt_touch ..) ?_
    | with_reducible refine Touches.andThen ?_ (by with_reducible exact intUpdate_touch ..) ?_
    | with_reducible refine Touches.andThen ?_ (by with_reducible exact intCtrl_touch ..) ?_
    | with_reducible refine Touches.andThen ?_ (by with_reducible exact clearLeaf_touch ..) ?_
    | with_reducible refine Touches.andThen ?_ (by with_reducible exact ringWrite_touch ..) ?_
    | exact partOr_left rfl
    | exact .inr rfl
    | exact .inr (by (repeat' split) <;> rfl)
    | split
    | dsimp -zeta only
    | (split at ‹ite _ _ _ = (_, _)›)
    | (cases ‹(_, _) = (_, _)›)

theorem sysWrite_touch (d : Dev) (off : Nat) (v : Word) {e_} (h_ : sysWrite d off v = some e_) : Touches [.out, .sys, .rings] d e_ := (sysWrite_opt d off v).of_some h_

end Sys2Proof.Machine
end

