-- ==== Sys2Proof/Laws/TouchReset.lean ====
section
/-! SUPPORT. Which parts of the device the operations of Machine/Reset.lean touch. -/

namespace Sys2Proof.Machine

set_option linter.all false
set_option Elab.async false

theorem deviceReset_touch (d : Dev) : Touches [.freeCtr, .out, .memOut, .sys, .epoch, .staged, .rings, .sess, .bell, .tick, .past, .fold, .otp, .resetReq, .pwr, .aux, .pins, .parse, .tm, .cli, .flock, .acc, .media, .aud, .vid, .imc, .casc, .lane, .drove, .integ] d (deviceReset d) := ⟨fun p hp => by cases p <;> simp at hp⟩

theorem powerOnReset_touch (d : Dev) : Touches [.freeCtr, .out, .memOut, .sys, .epoch, .staged, .rings, .sess, .bell, .tick, .past, .fold, .otp, .resetReq, .pwr, .aux, .pins, .parse, .tm, .cli, .flock, .acc, .media, .aud, .vid, .imc, .casc, .lane, .drove, .integ] d (powerOnReset d) := ⟨fun p hp => by cases p <;> simp at hp⟩

theorem pcieReset_touch (d : Dev) :
    Touches [.out, .sys, .rings] d (pcieReset d) := by
  unfold pcieReset
  repeat' first
    | with_reducible assumption
    | with_reducible exact Touches.refl
    | exact Eq.refl true
    | with_reducible refine Touches.andThen ?_ (by with_reducible exact onInt_touch ..) ?_
    | with_reducible refine onSys_step ?_ ?_ ?_ ?_ ?_ ?_
    | with_reducible refine Touches.andThen ?_ (by with_reducible exact intUpdate_touch ..) ?_
    | exact partOr_left rfl
    | exact .inr rfl
    | exact .inr (by (repeat' split) <;> rfl)
    | split
    | dsimp -zeta only
    | (split at ‹ite _ _ _ = (_, _)›)
    | (cases ‹(_, _) = (_, _)›)

theorem bootRules_touch (strapped : Bool) (d : Dev) :
    Touches [.out, .sys, .fold] d (bootRules strapped d) := by
  unfold bootRules
  repeat' first
    | with_reducible assumption
    | with_reducible exact Touches.refl
    | ((try lift_lets -underBinder); intro d_; refine (have hd_ : Touches [.out, .sys, .fold] d d_ := ?_; ?_); (on_goal 1 => try dsimp only [d_]); (on_goal 2 => clear_value d_))
    | ((try lift_lets -underBinder); intro d_; try clear_value d_)
    | exact Eq.refl true
    | with_reducible refine Touches.andThen ?_ (by with_reducible exact onBoot_touch ..) ?_
    | with_reducible refine Touches.andThen ?_ (by with_reducible exact onGuard_touch ..) ?_
    | with_reducible refine Touches.andThen ?_ (by with_reducible exact raiseLeaf_touch ..) ?_
    | split
    | dsimp -zeta only
    | (split at ‹ite _ _ _ = (_, _)›)
    | (cases ‹(_, _) = (_, _)›)

theorem bootCtrl_touch (d : Dev) :
    Touches [.out, .sys, .fold] d (bootCtrl d).1 := by
  unfold bootCtrl
  repeat' first
    | with_reducible assumption
    | with_reducible exact Touches.refl
    | exact Eq.refl true
    | with_reducible refine Touches.andThen ?_ (by with_reducible exact onBoot_touch ..) ?_
    | with_reducible refine Touches.andThen ?_ (by with_reducible exact raiseIf_touch ..) ?_
    | split
    | dsimp -zeta only
    | (split at ‹ite _ _ _ = (_, _)›)
    | (cases ‹(_, _) = (_, _)›)

theorem bootCtrl_touch' (d : Dev) {e_ x1} (h_ : bootCtrl d = (e_, x1)) : Touches [.out, .sys, .fold] d e_ := by
  have := bootCtrl_touch d; rw [h_] at this; exact this

theorem bootEngines_touch (image : ImageDesc) (d : Dev) :
    Touches [.fold, .flock] d (bootEngines image d) := by
  unfold bootEngines
  repeat' first
    | with_reducible assumption
    | with_reducible exact Touches.refl
    | ((try lift_lets -underBinder); intro d_; refine (have hd_ : Touches [.fold, .flock] d d_ := ?_; ?_); (on_goal 1 => try dsimp only [d_]); (on_goal 2 => clear_value d_))
    | ((try lift_lets -underBinder); intro d_; try clear_value d_)
    | with_reducible apply Touches.foldl
    | (intro _ _ _)
    | exact Eq.refl true
    | with_reducible refine Touches.andThen ?_ (by with_reducible exact onFGroup_touch ..) ?_
    | with_reducible refine Touches.andThen ?_ (by with_reducible exact onEng_touch ..) ?_
    | with_reducible refine Touches.andThen ?_ (by with_reducible exact onBoot_touch ..) ?_
    | split
    | dsimp -zeta only
    | (split at ‹ite _ _ _ = (_, _)›)
    | (cases ‹(_, _) = (_, _)›)

theorem boot_touch (strapped selfTestOk : Bool) (rows : List (Nat × Nat)) (engines : List Nat) (image : ImageDesc) (d : Dev) :
    Touches [.out, .sys, .fold, .pins, .flock, .integ] d (boot strapped selfTestOk rows engines image d) := by
  unfold boot
  repeat' first
    | with_reducible assumption
    | with_reducible exact Touches.refl
    | ((try lift_lets -underBinder); intro d_; refine (have hd_ : Touches [.out, .sys, .fold, .pins, .flock, .integ] d d_ := ?_; ?_); (on_goal 1 => try dsimp only [d_]); (on_goal 2 => clear_value d_))
    | ((try lift_lets -underBinder); intro d_; try clear_value d_)
    | exact Eq.refl true
    | with_reducible refine Touches.andThen ?_ (by with_reducible exact onPins_touch ..) ?_
    | with_reducible refine Touches.andThen ?_ (by with_reducible exact onInteg_touch ..) ?_
    | with_reducible refine Touches.andThen ?_ (by with_reducible exact onBoot_touch ..) ?_
    | with_reducible refine onFold_step ?_ ?_ ?_ ?_
    | with_reducible refine Touches.andThen ?_ (by with_reducible exact flockSelfTest_touch ..) ?_
    | with_reducible refine Touches.andThen ?_ (by with_reducible exact bootRules_touch ..) ?_
    | with_reducible refine Touches.andThen ?_ (by with_reducible exact raiseIf_touch ..) ?_
    | with_reducible refine Touches.andThen ?_ (by with_reducible exact bootCtrl_touch ..) ?_
    | refine Touches.andThen ?_ (bootCtrl_touch' (h_ := by assumption) ..) ?_
    | with_reducible refine Touches.andThen ?_ (by with_reducible exact bootEngines_touch ..) ?_
    | exact partOr_left rfl
    | exact .inr rfl
    | exact .inr (by (repeat' split) <;> rfl)
    | split
    | dsimp -zeta only
    | (split at ‹ite _ _ _ = (_, _)›)
    | (cases ‹(_, _) = (_, _)›)

end Sys2Proof.Machine
end

