-- ==== Sys2Proof/Laws/TouchPwr.lean ====
section
/-! SUPPORT. Which parts of the device the operations of Machine/Pwr.lean touch. -/

namespace Sys2Proof.Machine

set_option linter.all false
set_option Elab.async false

theorem setDom_touch (d : Dev) (k : Nat) (s : DomSt) :
    Touches [.pwr] d (setDom d k s) := by
  unfold setDom
  repeat' first
    | with_reducible assumption
    | with_reducible exact Touches.refl
    | exact Eq.refl true
    | with_reducible refine Touches.andThen ?_ (by with_reducible exact onPwr_touch ..) ?_
    | split
    | dsimp -zeta only
    | (split at ‹ite _ _ _ = (_, _)›)
    | (cases ‹(_, _) = (_, _)›)

theorem domainOff_touch (d : Dev) (k : Nat) :
    Touches [.pwr] d (domainOff d k) := by
  unfold domainOff
  repeat' first
    | with_reducible assumption
    | with_reducible exact Touches.refl
    | exact Eq.refl true
    | with_reducible refine Touches.andThen ?_ (by with_reducible exact setDom_touch ..) ?_
    | split
    | dsimp -zeta only
    | (split at ‹ite _ _ _ = (_, _)›)
    | (cases ‹(_, _) = (_, _)›)

theorem serveWaits_touch (d : Dev) :
    Touches [.out, .sys, .rings, .sess, .pwr] d (serveWaits d) := by
  unfold serveWaits
  repeat' first
    | with_reducible assumption
    | with_reducible exact Touches.refl
    | ((try lift_lets -underBinder); intro d_; refine (have hd_ : Touches [.out, .sys, .rings, .sess, .pwr] d d_ := ?_; ?_); (on_goal 1 => try dsimp only [d_]); (on_goal 2 => clear_value d_))
    | ((try lift_lets -underBinder); intro d_; try clear_value d_)
    | with_reducible apply Touches.foldl
    | (intro _ _ _)
    | exact Eq.refl true
    | with_reducible refine Touches.andThen ?_ (by with_reducible exact onPwr_touch ..) ?_
    | with_reducible refine onSys_step ?_ ?_ ?_ ?_ ?_ ?_
    | with_reducible refine Touches.andThen ?_ (by with_reducible exact followUp_touch ..) ?_
    | exact partOr_left rfl
    | exact .inr rfl
    | exact .inr (by (repeat' split) <;> rfl)
    | split
    | dsimp -zeta only
    | (split at ‹ite _ _ _ = (_, _)›)
    | (cases ‹(_, _) = (_, _)›)

theorem domUp_touch (d : Dev) (k : Nat) :
    Touches [.out, .sys, .pwr] d (domUp d k) := by
  unfold domUp
  repeat' first
    | with_reducible assumption
    | with_reducible exact Touches.refl
    | ((try lift_lets -underBinder); intro d_; refine (have hd_ : Touches [.out, .sys, .pwr] d d_ := ?_; ?_); (on_goal 1 => try dsimp only [d_]); (on_goal 2 => clear_value d_))
    | ((try lift_lets -underBinder); intro d_; try clear_value d_)
    | exact Eq.refl true
    | with_reducible refine Touches.andThen ?_ (by with_reducible exact onPwr_touch ..) ?_
    | with_reducible refine Touches.andThen ?_ (by with_reducible exact raiseLeaf_touch ..) ?_
    | with_reducible refine Touches.andThen ?_ (by with_reducible exact setDom_touch ..) ?_
    | split
    | dsimp -zeta only
    | (split at ‹ite _ _ _ = (_, _)›)
    | (cases ‹(_, _) = (_, _)›)

theorem domDown_touch (d : Dev) (k : Nat) :
    Touches [.out, .sys, .pwr] d (domDown d k) := by
  unfold domDown
  repeat' first
    | with_reducible assumption
    | with_reducible exact Touches.refl
    | ((try lift_lets -underBinder); intro d_; refine (have hd_ : Touches [.out, .sys, .pwr] d d_ := ?_; ?_); (on_goal 1 => try dsimp only [d_]); (on_goal 2 => clear_value d_))
    | ((try lift_lets -underBinder); intro d_; try clear_value d_)
    | exact Eq.refl true
    | with_reducible refine Touches.andThen ?_ (by with_reducible exact onPwr_touch ..) ?_
    | with_reducible refine Touches.andThen ?_ (by with_reducible exact raiseLeaf_touch ..) ?_
    | with_reducible refine Touches.andThen ?_ (by with_reducible exact setDom_touch ..) ?_
    | split
    | dsimp -zeta only
    | (split at ‹ite _ _ _ = (_, _)›)
    | (cases ‹(_, _) = (_, _)›)

theorem domainUpDone_touch (k : Nat) (d : Dev) :
    Touches [.out, .sys, .rings, .sess, .pwr, .aux, .flock] d (domainUpDone k d) := by
  unfold domainUpDone
  repeat' first
    | with_reducible assumption
    | with_reducible exact Touches.refl
    | ((try lift_lets -underBinder); intro d_; refine (have hd_ : Touches [.out, .sys, .rings, .sess, .pwr, .aux, .flock] d d_ := ?_; ?_); (on_goal 1 => try dsimp only [d_]); (on_goal 2 => clear_value d_))
    | ((try lift_lets -underBinder); intro d_; try clear_value d_)
    | exact Eq.refl true
    | with_reducible refine Touches.andThen ?_ (by with_reducible exact onAux_touch ..) ?_
    | with_reducible refine Touches.andThen ?_ (by with_reducible exact domUp_touch ..) ?_
    | with_reducible refine Touches.andThen ?_ (by with_reducible exact serveWaits_touch ..) ?_
    | with_reducible refine Touches.andThen ?_ (by with_reducible exact reloadGroup_touch ..) ?_
    | split
    | dsimp -zeta only
    | (split at ‹ite _ _ _ = (_, _)›)
    | (cases ‹(_, _) = (_, _)›)

theorem domainDownDone_touch (k : Nat) (d : Dev) :
    Touches [.out, .sys, .rings, .sess, .pwr] d (domainDownDone k d) := by
  unfold domainDownDone
  repeat' first
    | with_reducible assumption
    | with_reducible exact Touches.refl
    | ((try lift_lets -underBinder); intro d_; refine (have hd_ : Touches [.out, .sys, .rings, .sess, .pwr] d d_ := ?_; ?_); (on_goal 1 => try dsimp only [d_]); (on_goal 2 => clear_value d_))
    | ((try lift_lets -underBinder); intro d_; try clear_value d_)
    | exact Eq.refl true
    | with_reducible refine Touches.andThen ?_ (by with_reducible exact onPwr_touch ..) ?_
    | with_reducible refine Touches.andThen ?_ (by with_reducible exact serveWaits_touch ..) ?_
    | with_reducible refine Touches.andThen ?_ (by with_reducible exact domDown_touch ..) ?_
    | with_reducible refine Touches.andThen ?_ (by with_reducible exact setDom_touch ..) ?_
    | split
    | dsimp -zeta only
    | (split at ‹ite _ _ _ = (_, _)›)
    | (cases ‹(_, _) = (_, _)›)

theorem addWait_touch (d : Dev) (w : DomWait) :
    Touches [.pwr] d (addWait d w) := by
  unfold addWait
  repeat' first
    | with_reducible assumption
    | with_reducible exact Touches.refl
    | exact Eq.refl true
    | with_reducible refine Touches.andThen ?_ (by with_reducible exact onPwr_touch ..) ?_
    | split
    | dsimp -zeta only
    | (split at ‹ite _ _ _ = (_, _)›)
    | (cases ‹(_, _) = (_, _)›)

theorem applyPwrDomainSet_touch (domain on : Nat) (ctx : ReplyCtx) (d : Dev) :
    Touches [.pwr] d (applyPwrDomainSet domain on ctx d).1 := by
  unfold applyPwrDomainSet
  repeat' first
    | with_reducible assumption
    | with_reducible exact Touches.refl
    | ((try lift_lets -underBinder); intro d_; refine (have hd_ : Touches [.pwr] d d_ := ?_; ?_); (on_goal 1 => try dsimp only [d_]); (on_goal 2 => clear_value d_))
    | ((try lift_lets -underBinder); intro d_; try clear_value d_)
    | exact Eq.refl true
    | with_reducible refine Touches.andThen ?_ (by with_reducible exact domainOff_touch ..) ?_
    | with_reducible refine Touches.andThen ?_ (by with_reducible exact addWait_touch ..) ?_
    | with_reducible refine Touches.andThen ?_ (by with_reducible exact domainOn_touch ..) ?_
    | split
    | dsimp -zeta only
    | (split at ‹ite _ _ _ = (_, _)›)
    | (cases ‹(_, _) = (_, _)›)

theorem applyPwrDomainSet_touch' (domain on : Nat) (ctx : ReplyCtx) (d : Dev) {e_ x1} (h_ : applyPwrDomainSet domain on ctx d = (e_, x1)) : Touches [.pwr] d e_ := by
  have := applyPwrDomainSet_touch domain on ctx d; rw [h_] at this; exact this

theorem avsRequest_touch (d : Dev) :
    Touches [.out, .aux] d (avsRequest d) := by
  unfold avsRequest
  repeat' first
    | with_reducible assumption
    | with_reducible exact Touches.refl
    | exact Eq.refl true
    | with_reducible refine Touches.andThen ?_ (by with_reducible exact emit_touch ..) ?_
    | with_reducible refine Touches.andThen ?_ (by with_reducible exact onAux_touch ..) ?_
    | split
    | dsimp -zeta only
    | (split at ‹ite _ _ _ = (_, _)›)
    | (cases ‹(_, _) = (_, _)›)

theorem avsStart_touch (l : List (Nat × Nat)) (d : Dev) :
    Touches [.out, .aux] d (avsStart l d) := by
  unfold avsStart
  repeat' first
    | with_reducible assumption
    | with_reducible exact Touches.refl
    | exact Eq.refl true
    | with_reducible refine Touches.andThen ?_ (by with_reducible exact onAux_touch ..) ?_
    | with_reducible refine Touches.andThen ?_ (by with_reducible exact avsRequest_touch ..) ?_
    | split
    | dsimp -zeta only
    | (split at ‹ite _ _ _ = (_, _)›)
    | (cases ‹(_, _) = (_, _)›)

theorem railsUp_touch (d : Dev) :
    Touches [.out, .aux] d (railsUp d) := by
  unfold railsUp
  repeat' first
    | with_reducible assumption
    | with_reducible exact Touches.refl
    | exact Eq.refl true
    | with_reducible refine Touches.andThen ?_ (by with_reducible exact avsStart_touch ..) ?_
    | split
    | dsimp -zeta only
    | (split at ‹ite _ _ _ = (_, _)›)
    | (cases ‹(_, _) = (_, _)›)

theorem applyPwrWinter_touch (banks keep thaw linkWait : Nat) (ctx : ReplyCtx) (d : Dev) :
    Touches [.out, .sys, .bell, .tick, .fold, .pwr, .pins, .flock, .acc, .integ] d (applyPwrWinter banks keep thaw linkWait ctx d).1 := by
  unfold applyPwrWinter
  repeat' first
    | with_reducible assumption
    | with_reducible exact Touches.refl
    | ((try lift_lets -underBinder); intro d_; refine (have hd_ : Touches [.out, .sys, .bell, .tick, .fold, .pwr, .pins, .flock, .acc, .integ] d d_ := ?_; ?_); (on_goal 1 => try dsimp only [d_]); (on_goal 2 => clear_value d_))
    | ((try lift_lets -underBinder); intro d_; try clear_value d_)
    | with_reducible apply Touches.foldl
    | (intro _ _ _)
    | exact Eq.refl true
    | with_reducible refine Touches.andThen ?_ (by with_reducible exact onPwr_touch ..) ?_
    | with_reducible refine Touches.andThen ?_ (by with_reducible exact domainOff_touch ..) ?_
    | split
    | dsimp -zeta only
    | (split at ‹ite _ _ _ = (_, _)›)
    | (cases ‹(_, _) = (_, _)›)

theorem applyPwrWinter_touch' (banks keep thaw linkWait : Nat) (ctx : ReplyCtx) (d : Dev) {e_ x1} (h_ : applyPwrWinter banks keep thaw linkWait ctx d = (e_, x1)) : Touches [.out, .sys, .bell, .tick, .fold, .pwr, .pins, .flock, .acc, .integ] d e_ := by
  have := applyPwrWinter_touch banks keep thaw linkWait ctx d; rw [h_] at this; exact this

theorem flushQueues_touch (d : Dev) :
    Touches [.tm] d (flushQueues d) := by
  unfold flushQueues
  repeat' first
    | with_reducible assumption
    | with_reducible exact Touches.refl
    | ((try lift_lets -underBinder); intro d_; refine (have hd_ : Touches [.tm] d d_ := ?_; ?_); (on_goal 1 => try dsimp only [d_]); (on_goal 2 => clear_value d_))
    | ((try lift_lets -underBinder); intro d_; try clear_value d_)
    | exact Eq.refl true
    | with_reducible refine Touches.andThen ?_ (by with_reducible exact onTm_touch ..) ?_
    | split
    | dsimp -zeta only
    | (split at ‹ite _ _ _ = (_, _)›)
    | (cases ‹(_, _) = (_, _)›)

theorem winterReady_touch (d : Dev) :
    Touches [.out, .sys, .rings, .sess, .pwr, .tm, .acc] d (winterReady d) := by
  unfold winterReady
  repeat' first
    | with_reducible assumption
    | with_reducible exact Touches.refl
    | ((try lift_lets -underBinder); intro d_; refine (have hd_ : Touches [.out, .sys, .rings, .sess, .pwr, .tm, .acc] d d_ := ?_; ?_); (on_goal 1 => try dsimp only [d_]); (on_goal 2 => clear_value d_))
    | ((try lift_lets -underBinder); intro d_; try clear_value d_)
    | with_reducible apply Touches.foldl
    | (intro _ _ _)
    | exact Eq.refl true
    | with_reducible refine Touches.andThen ?_ (by with_reducible exact onSlice_touch ..) ?_
    | with_reducible refine Touches.andThen ?_ (by with_reducible exact onPwr_touch ..) ?_
    | with_reducible refine Touches.andThen ?_ (by with_reducible exact flushQueues_touch ..) ?_
    | with_reducible refine Touches.andThen ?_ (by with_reducible exact domDown_touch ..) ?_
    | with_reducible refine Touches.andThen ?_ (by with_reducible exact followUp_touch ..) ?_
    | split
    | dsimp -zeta only
    | (split at ‹ite _ _ _ = (_, _)›)
    | (cases ‹(_, _) = (_, _)›)

theorem pmeTurnOff_touch (d : Dev) :
    Touches [.out, .sys, .pwr, .aux] d (pmeTurnOff d) := by
  unfold pmeTurnOff
  repeat' first
    | with_reducible assumption
    | with_reducible exact Touches.refl
    | ((try lift_lets -underBinder); intro d_; refine (have hd_ : Touches [.out, .sys, .pwr, .aux] d d_ := ?_; ?_); (on_goal 1 => try dsimp only [d_]); (on_goal 2 => clear_value d_))
    | ((try lift_lets -underBinder); intro d_; try clear_value d_)
    | exact Eq.refl true
    | with_reducible refine Touches.andThen ?_ (by with_reducible exact emit_touch ..) ?_
    | with_reducible refine Touches.andThen ?_ (by with_reducible exact onPwr_touch ..) ?_
    | with_reducible refine Touches.andThen ?_ (by with_reducible exact domDown_touch ..) ?_
    | with_reducible refine Touches.andThen ?_ (by with_reducible exact avsStart_touch ..) ?_
    | split
    | dsimp -zeta only
    | (split at ‹ite _ _ _ = (_, _)›)
    | (cases ‹(_, _) = (_, _)›)

theorem abortEntry_touch (cause : Nat) (who : LastWake) (d : Dev) :
    Touches [.out, .sys, .rings, .sess, .pwr, .aux] d (abortEntry cause who d) := by
  unfold abortEntry
  repeat' first
    | with_reducible assumption
    | with_reducible exact Touches.refl
    | ((try lift_lets -underBinder); intro d_; refine (have hd_ : Touches [.out, .sys, .rings, .sess, .pwr, .aux] d d_ := ?_; ?_); (on_goal 1 => try dsimp only [d_]); (on_goal 2 => clear_value d_))
    | ((try lift_lets -underBinder); intro d_; try clear_value d_)
    | exact Eq.refl true
    | with_reducible refine Touches.andThen ?_ (by with_reducible exact onPwr_touch ..) ?_
    | with_reducible refine Touches.andThen ?_ (by with_reducible exact onAux_touch ..) ?_
    | with_reducible refine Touches.andThen ?_ (by with_reducible exact followUp_touch ..) ?_
    | with_reducible refine Touches.andThen ?_ (by with_reducible exact raiseLeaf_touch ..) ?_
    | with_reducible refine Touches.andThen ?_ (by with_reducible exact railsUp_touch ..) ?_
    | split
    | dsimp -zeta only
    | (split at ‹ite _ _ _ = (_, _)›)
    | (cases ‹(_, _) = (_, _)›)

theorem beginThaw_touch (who : LastWake) (d : Dev) :
    Touches [.out, .pwr, .aux] d (beginThaw who d) := by
  unfold beginThaw
  repeat' first
    | with_reducible assumption
    | with_reducible exact Touches.refl
    | exact Eq.refl true
    | with_reducible refine Touches.andThen ?_ (by with_reducible exact onPwr_touch ..) ?_
    | with_reducible refine Touches.andThen ?_ (by with_reducible exact railsUp_touch ..) ?_
    | split
    | dsimp -zeta only
    | (split at ‹ite _ _ _ = (_, _)›)
    | (cases ‹(_, _) = (_, _)›)

theorem wakeActs_touch (who : LastWake) (edge : Bool) (d : Dev) :
    Touches [.out, .sys, .rings, .sess, .pwr, .aux] d (wakeActs who edge d) := by
  unfold wakeActs
  repeat' first
    | with_reducible assumption
    | with_reducible exact Touches.refl
    | exact Eq.refl true
    | with_reducible refine Touches.andThen ?_ (by with_reducible exact onPwr_touch ..) ?_
    | with_reducible refine Touches.andThen ?_ (by with_reducible exact beginThaw_touch ..) ?_
    | with_reducible refine Touches.andThen ?_ (by with_reducible exact abortEntry_touch ..) ?_
    | split
    | dsimp -zeta only
    | (split at ‹ite _ _ _ = (_, _)›)
    | (cases ‹(_, _) = (_, _)›)

theorem wakePin_touch (pin : Nat) (a b c : Bool) (d : Dev) :
    Touches [.out, .sys, .rings, .sess, .pwr, .aux] d (wakePin pin a b c d) := by
  unfold wakePin
  repeat' first
    | with_reducible assumption
    | with_reducible exact Touches.refl
    | ((try lift_lets -underBinder); intro d_; refine (have hd_ : Touches [.out, .sys, .rings, .sess, .pwr, .aux] d d_ := ?_; ?_); (on_goal 1 => try dsimp only [d_]); (on_goal 2 => clear_value d_))
    | ((try lift_lets -underBinder); intro d_; try clear_value d_)
    | exact Eq.refl true
    | with_reducible refine Touches.andThen ?_ (by with_reducible exact onPwr_touch ..) ?_
    | with_reducible refine Touches.andThen ?_ (by with_reducible exact emit_touch ..) ?_
    | with_reducible refine Touches.andThen ?_ (by with_reducible exact raiseLeaf_touch ..) ?_
    | with_reducible refine Touches.andThen ?_ (by with_reducible exact wakeActs_touch ..) ?_
    | split
    | dsimp -zeta only
    | (split at ‹ite _ _ _ = (_, _)›)
    | (cases ‹(_, _) = (_, _)›)

theorem packetLoss_touch (d : Dev) :
    Touches [.parse, .tm, .cli] d (packetLoss d) := by
  unfold packetLoss
  repeat' first
    | with_reducible assumption
    | with_reducible exact Touches.refl
    | ((try lift_lets -underBinder); intro d_; refine (have hd_ : Touches [.parse, .tm, .cli] d d_ := ?_; ?_); (on_goal 1 => try dsimp only [d_]); (on_goal 2 => clear_value d_))
    | ((try lift_lets -underBinder); intro d_; try clear_value d_)
    | exact Eq.refl true
    | with_reducible refine Touches.andThen ?_ (by with_reducible exact onTm_touch ..) ?_
    | with_reducible refine Touches.andThen ?_ (by with_reducible exact onParse_touch ..) ?_
    | with_reducible refine Touches.andThen ?_ (by with_reducible exact onCli_touch ..) ?_
    | with_reducible refine Touches.andThen ?_ (by with_reducible exact flushQueues_touch ..) ?_
    | split
    | dsimp -zeta only
    | (split at ‹ite _ _ _ = (_, _)›)
    | (cases ‹(_, _) = (_, _)›)

theorem mediaLoss_touch (d : Dev) :
    Touches [.media, .aud, .vid, .casc, .lane] d (mediaLoss d) := by
  unfold mediaLoss
  repeat' first
    | with_reducible assumption
    | with_reducible exact Touches.refl
    | ((try lift_lets -underBinder); intro d_; refine (have hd_ : Touches [.media, .aud, .vid, .casc, .lane] d d_ := ?_; ?_); (on_goal 1 => try dsimp only [d_]); (on_goal 2 => clear_value d_))
    | ((try lift_lets -underBinder); intro d_; try clear_value d_)
    | exact Eq.refl true
    | with_reducible refine Touches.andThen ?_ (by with_reducible exact onMedia_touch ..) ?_
    | with_reducible refine Touches.andThen ?_ (by with_reducible exact onAud_touch ..) ?_
    | with_reducible refine Touches.andThen ?_ (by with_reducible exact onVid_touch ..) ?_
    | with_reducible refine Touches.andThen ?_ (by with_reducible exact onCasc_touch ..) ?_
    | with_reducible refine Touches.andThen ?_ (by with_reducible exact onLanes_touch ..) ?_
    | split
    | dsimp -zeta only
    | (split at ‹ite _ _ _ = (_, _)›)
    | (cases ‹(_, _) = (_, _)›)

theorem winterLoss_touch (d : Dev) :
    Touches [.sys, .staged, .sess, .bell, .past, .parse, .tm, .cli, .flock, .media, .aud, .vid, .casc, .lane, .drove, .integ] d (winterLoss d) := by
  unfold winterLoss
  repeat' first
    | with_reducible assumption
    | with_reducible exact Touches.refl
    | ((try lift_lets -underBinder); intro d_; refine (have hd_ : Touches [.sys, .staged, .sess, .bell, .past, .parse, .tm, .cli, .flock, .media, .aud, .vid, .casc, .lane, .drove, .integ] d d_ := ?_; ?_); (on_goal 1 => try dsimp only [d_]); (on_goal 2 => clear_value d_))
    | ((try lift_lets -underBinder); intro d_; try clear_value d_)
    | exact Eq.refl true
    | with_reducible refine Touches.andThen ?_ (by with_reducible exact onInteg_touch ..) ?_
    | with_reducible refine Touches.andThen ?_ (by with_reducible exact onDrove_touch ..) ?_
    | with_reducible refine Touches.andThen ?_ (by with_reducible exact onFlock_touch ..) ?_
    | with_reducible refine onBell_step ?_ ?_ ?_
    | with_reducible refine onSys_step ?_ ?_ ?_ ?_ ?_ ?_
    | with_reducible refine Touches.andThen ?_ (by with_reducible exact onPast_touch ..) ?_
    | with_reducible refine Touches.andThen ?_ (by with_reducible exact mediaLoss_touch ..) ?_
    | with_reducible refine Touches.andThen ?_ (by with_reducible exact packetLoss_touch ..) ?_
    | with_reducible refine Touches.andThen ?_ (by with_reducible exact sessionDrop_touch ..) ?_
    | exact partOr_left rfl
    | exact .inr rfl
    | exact .inr (by (repeat' split) <;> rfl)
    | split
    | dsimp -zeta only
    | (split at ‹ite _ _ _ = (_, _)›)
    | (cases ‹(_, _) = (_, _)›)

theorem winterCommit_touch (count : BitVec 48) (d : Dev) :
    Touches [.out, .sys, .staged, .sess, .bell, .past, .pwr, .aux, .pins, .parse, .tm, .cli, .flock, .acc, .media, .aud, .vid, .casc, .lane, .drove, .integ] d (winterCommit count d) := by
  unfold winterCommit
  repeat' first
    | with_reducible assumption
    | with_reducible exact Touches.refl
    | ((try lift_lets -underBinder); intro d_; refine (have hd_ : Touches [.out, .sys, .staged, .sess, .bell, .past, .pwr, .aux, .pins, .parse, .tm, .cli, .flock, .acc, .media, .aud, .vid, .casc, .lane, .drove, .integ] d d_ := ?_; ?_); (on_goal 1 => try dsimp only [d_]); (on_goal 2 => clear_value d_))
    | ((try lift_lets -underBinder); intro d_; try clear_value d_)
    | with_reducible apply Touches.foldl
    | (intro _ _ _)
    | exact Eq.refl true
    | with_reducible refine onBell_step ?_ ?_ ?_
    | with_reducible refine Touches.andThen ?_ (by with_reducible exact onPins_touch ..) ?_
    | with_reducible refine Touches.andThen ?_ (by with_reducible exact onSlice_touch ..) ?_
    | with_reducible refine Touches.andThen ?_ (by with_reducible exact onAux_touch ..) ?_
    | with_reducible refine Touches.andThen ?_ (by with_reducible exact onPwr_touch ..) ?_
    | with_reducible refine Touches.andThen ?_ (by with_reducible exact domDown_touch ..) ?_
    | with_reducible refine Touches.andThen ?_ (by with_reducible exact winterLoss_touch ..) ?_
    | with_reducible refine Touches.andThen ?_ (by with_reducible exact raiseLeaf_touch ..) ?_
    | with_reducible refine Touches.andThen ?_ (by with_reducible exact beginThaw_touch ..) ?_
    | exact partOr_left rfl
    | exact .inr rfl
    | exact .inr (by (repeat' split) <;> rfl)
    | split
    | dsimp -zeta only
    | (split at ‹ite _ _ _ = (_, _)›)
    | (cases ‹(_, _) = (_, _)›)

theorem avsPoll_touch (ack : Nat) (vdone expired : Bool) (d : Dev) :
    Touches [.freeCtr, .out, .memOut, .sys, .epoch, .staged, .rings, .sess, .bell, .tick, .past, .fold, .otp, .resetReq, .pwr, .aux, .pins, .parse, .tm, .cli, .flock, .acc, .media, .aud, .vid, .imc, .casc, .lane, .drove, .integ] d (avsPoll ack vdone expired d) := by
  unfold avsPoll
  repeat' first
    | with_reducible assumption
    | with_reducible exact Touches.refl
    | ((try lift_lets -underBinder); intro d_; refine (have hd_ : Touches [.freeCtr, .out, .memOut, .sys, .epoch, .staged, .rings, .sess, .bell, .tick, .past, .fold, .otp, .resetReq, .pwr, .aux, .pins, .parse, .tm, .cli, .flock, .acc, .media, .aud, .vid, .imc, .casc, .lane, .drove, .integ] d d_ := ?_; ?_); (on_goal 1 => try dsimp only [d_]); (on_goal 2 => clear_value d_))
    | ((try lift_lets -underBinder); intro d_; try clear_value d_)
    | exact Eq.refl true
    | with_reducible refine Touches.andThen ?_ (by with_reducible exact onAux_touch ..) ?_
    | with_reducible refine Touches.andThen ?_ (by with_reducible exact onPwr_touch ..) ?_
    | with_reducible refine Touches.andThen ?_ (by with_reducible exact avsRequest_touch ..) ?_
    | with_reducible refine Touches.andThen ?_ (by with_reducible exact raiseLeaf_touch ..) ?_
    | with_reducible refine Touches.andThen ?_ (by with_reducible exact abortEntry_touch ..) ?_
    | with_reducible refine Touches.andThen ?_ (by with_reducible exact deviceReset_touch ..) ?_
    | split
    | dsimp -zeta only
    | (split at ‹ite _ _ _ = (_, _)›)
    | (cases ‹(_, _) = (_, _)›)

theorem thawTime_touch (count : BitVec 48) (d : Dev) :
    Touches [.bell, .tick] d (thawTime count d) := by
  unfold thawTime
  repeat' first
    | with_reducible assumption
    | with_reducible exact Touches.refl
    | ((try lift_lets -underBinder); intro d_; refine (have hd_ : Touches [.bell, .tick] d d_ := ?_; ?_); (on_goal 1 => try dsimp only [d_]); (on_goal 2 => clear_value d_))
    | ((try lift_lets -underBinder); intro d_; try clear_value d_)
    | exact Eq.refl true
    | with_reducible refine onBell_step ?_ ?_ ?_
    | with_reducible refine Touches.andThen ?_ (by with_reducible exact onLock_touch ..) ?_
    | exact partOr_left rfl
    | exact .inr rfl
    | exact .inr (by (repeat' split) <;> rfl)
    | split
    | dsimp -zeta only
    | (split at ‹ite _ _ _ = (_, _)›)
    | (cases ‹(_, _) = (_, _)›)

theorem thawCtrl_touch (d : Dev) :
    Touches [.out, .sys, .fold] d (thawCtrl d) := by
  unfold thawCtrl
  repeat' first
    | with_reducible assumption
    | with_reducible exact Touches.refl
    | ((try lift_lets -underBinder); intro d_; refine (have hd_ : Touches [.out, .sys, .fold] d d_ := ?_; ?_); (on_goal 1 => try dsimp only [d_]); (on_goal 2 => clear_value d_))
    | ((try lift_lets -underBinder); intro d_; try clear_value d_)
    | exact Eq.refl true
    | with_reducible refine Touches.andThen ?_ (by with_reducible exact onBoot_touch ..) ?_
    | with_reducible refine Touches.andThen ?_ (by with_reducible exact bootCtrl_touch ..) ?_
    | refine Touches.andThen ?_ (bootCtrl_touch' (h_ := by assumption) ..) ?_
    | with_reducible refine Touches.andThen ?_ (by with_reducible exact raiseIf_touch ..) ?_
    | split
    | dsimp -zeta only
    | (split at ‹ite _ _ _ = (_, _)›)
    | (cases ‹(_, _) = (_, _)›)

theorem thaw_touch (count : BitVec 48) (d : Dev) :
    Touches [.out, .sys, .bell, .tick, .fold, .pwr, .pins, .flock, .acc, .integ] d (thaw count d) := by
  unfold thaw
  repeat' first
    | with_reducible assumption
    | with_reducible exact Touches.refl
    | ((try lift_lets -underBinder); intro d_; refine (have hd_ : Touches [.out, .sys, .bell, .tick, .fold, .pwr, .pins, .flock, .acc, .integ] d d_ := ?_; ?_); (on_goal 1 => try dsimp only [d_]); (on_goal 2 => clear_value d_))
    | ((try lift_lets -underBinder); intro d_; try clear_value d_)
    | with_reducible apply Touches.foldl
    | (intro _ _ _)
    | exact Eq.refl true
    | with_reducible refine Touches.andThen ?_ (by with_reducible exact onPins_touch ..) ?_
    | with_reducible refine Touches.andThen ?_ (by with_reducible exact onSlice_touch ..) ?_
    | with_reducible refine Touches.andThen ?_ (by with_reducible exact onInteg_touch ..) ?_
    | with_reducible refine Touches.andThen ?_ (by with_reducible exact onPwr_touch ..) ?_
    | with_reducible refine Touches.andThen ?_ (by with_reducible exact thawCtrl_touch ..) ?_
    | with_reducible refine Touches.andThen ?_ (by with_reducible exact thawTime_touch ..) ?_
    | with_reducible refine Touches.andThen ?_ (by with_reducible exact domUp_touch ..) ?_
    | with_reducible refine Touches.andThen ?_ (by with_reducible exact reloadGroup_touch ..) ?_
    | split
    | dsimp -zeta only
    | (split at ‹ite _ _ _ = (_, _)›)
    | (cases ‹(_, _) = (_, _)›)

theorem autumnLpi_touch (d : Dev) :
    Touches [.aux, .cli] d (autumnLpi d) := by
  unfold autumnLpi
  repeat' first
    | with_reducible assumption
    | with_reducible exact Touches.refl
    | ((try lift_lets -underBinder); intro d_; refine (have hd_ : Touches [.aux, .cli] d d_ := ?_; ?_); (on_goal 1 => try dsimp only [d_]); (on_goal 2 => clear_value d_))
    | ((try lift_lets -underBinder); intro d_; try clear_value d_)
    | with_reducible apply Touches.foldl
    | (intro _ _ _)
    | exact Eq.refl true
    | with_reducible refine Touches.andThen ?_ (by with_reducible exact onPort_touch ..) ?_
    | with_reducible refine Touches.andThen ?_ (by with_reducible exact onAux_touch ..) ?_
    | split
    | dsimp -zeta only
    | (split at ‹ite _ _ _ = (_, _)›)
    | (cases ‹(_, _) = (_, _)›)

theorem enterAutumn_touch (d : Dev) :
    Touches [.out, .sys, .pwr, .aux, .cli] d (enterAutumn d) := by
  unfold enterAutumn
  repeat' first
    | with_reducible assumption
    | with_reducible exact Touches.refl
    | exact Eq.refl true
    | with_reducible refine Touches.andThen ?_ (by with_reducible exact onAux_touch ..) ?_
    | with_reducible refine Touches.andThen ?_ (by with_reducible exact onPwr_touch ..) ?_
    | with_reducible refine Touches.andThen ?_ (by with_reducible exact raiseLeaf_touch ..) ?_
    | with_reducible refine Touches.andThen ?_ (by with_reducible exact autumnLpi_touch ..) ?_
    | split
    | dsimp -zeta only
    | (split at ‹ite _ _ _ = (_, _)›)
    | (cases ‹(_, _) = (_, _)›)

theorem pcieReturn_touch (d : Dev) :
    Touches [.out, .sys, .rings, .pwr, .pins] d (pcieReturn d) := by
  unfold pcieReturn
  repeat' first
    | with_reducible assumption
    | with_reducible exact Touches.refl
    | ((try lift_lets -underBinder); intro d_; refine (have hd_ : Touches [.out, .sys, .rings, .pwr, .pins] d d_ := ?_; ?_); (on_goal 1 => try dsimp only [d_]); (on_goal 2 => clear_value d_))
    | ((try lift_lets -underBinder); intro d_; try clear_value d_)
    | exact Eq.refl true
    | with_reducible refine onSys_step ?_ ?_ ?_ ?_ ?_ ?_
    | with_reducible refine Touches.andThen ?_ (by with_reducible exact onInt_touch ..) ?_
    | with_reducible refine Touches.andThen ?_ (by with_reducible exact onPins_touch ..) ?_
    | with_reducible refine Touches.andThen ?_ (by with_reducible exact domUp_touch ..) ?_
    | with_reducible refine Touches.andThen ?_ (by with_reducible exact intUpdate_touch ..) ?_
    | exact partOr_left rfl
    | exact .inr rfl
    | exact .inr (by (repeat' split) <;> rfl)
    | split
    | dsimp -zeta only
    | (split at ‹ite _ _ _ = (_, _)›)
    | (cases ‹(_, _) = (_, _)›)

theorem thawDone_touch (d : Dev) :
    Touches [.out, .sys, .rings, .sess, .pwr, .aux, .pins, .cli, .flock, .lane] d (thawDone d) := by
  unfold thawDone
  repeat' first
    | with_reducible assumption
    | with_reducible exact Touches.refl
    | ((try lift_lets -underBinder); intro d_; refine (have hd_ : Touches [.out, .sys, .rings, .sess, .pwr, .aux, .pins, .cli, .flock, .lane] d d_ := ?_; ?_); (on_goal 1 => try dsimp only [d_]); (on_goal 2 => clear_value d_))
    | ((try lift_lets -underBinder); intro d_; try clear_value d_)
    | with_reducible apply Touches.foldl
    | (intro _ _ _)
    | exact Eq.refl true
    | with_reducible refine Touches.andThen ?_ (by with_reducible exact onPwr_touch ..) ?_
    | with_reducible refine Touches.andThen ?_ (by with_reducible exact onAux_touch ..) ?_
    | with_reducible refine Touches.andThen ?_ (by with_reducible exact pcieReturn_touch ..) ?_
    | with_reducible refine Touches.andThen ?_ (by with_reducible exact recalLane_touch ..) ?_
    | with_reducible refine Touches.andThen ?_ (by with_reducible exact raiseLeaf_touch ..) ?_
    | with_reducible refine Touches.andThen ?_ (by with_reducible exact enterAutumn_touch ..) ?_
    | with_reducible refine Touches.andThen ?_ (by with_reducible exact domUp_touch ..) ?_
    | with_reducible refine Touches.andThen ?_ (by with_reducible exact reloadGroup_touch ..) ?_
    | with_reducible refine Touches.andThen ?_ (by with_reducible exact serveWaits_touch ..) ?_
    | split
    | dsimp -zeta only
    | (split at ‹ite _ _ _ = (_, _)›)
    | (cases ‹(_, _) = (_, _)›)

theorem ungateAll_touch (d : Dev) :
    Touches [.out, .sys, .pwr, .aux, .flock] d (ungateAll d) := by
  unfold ungateAll
  repeat' first
    | with_reducible assumption
    | with_reducible exact Touches.refl
    | ((try lift_lets -underBinder); intro d_; refine (have hd_ : Touches [.out, .sys, .pwr, .aux, .flock] d d_ := ?_; ?_); (on_goal 1 => try dsimp only [d_]); (on_goal 2 => clear_value d_))
    | ((try lift_lets -underBinder); intro d_; try clear_value d_)
    | with_reducible apply Touches.foldl
    | (intro _ _ _)
    | exact Eq.refl true
    | with_reducible refine Touches.andThen ?_ (by with_reducible exact onAux_touch ..) ?_
    | with_reducible refine Touches.andThen ?_ (by with_reducible exact wakeGroup_touch ..) ?_
    | with_reducible refine Touches.andThen ?_ (by with_reducible exact domainOn_touch ..) ?_
    | split
    | dsimp -zeta only
    | (split at ‹ite _ _ _ = (_, _)›)
    | (cases ‹(_, _) = (_, _)›)

theorem applyPwrSeason_touch (season : Nat) (ctx : ReplyCtx) (d : Dev) :
    Touches [.out, .sys, .pwr, .aux, .cli, .flock] d (applyPwrSeason season ctx d).1 := by
  unfold applyPwrSeason
  repeat' first
    | with_reducible assumption
    | with_reducible exact Touches.refl
    | ((try lift_lets -underBinder); intro d_; refine (have hd_ : Touches [.out, .sys, .pwr, .aux, .cli, .flock] d d_ := ?_; ?_); (on_goal 1 => try dsimp only [d_]); (on_goal 2 => clear_value d_))
    | ((try lift_lets -underBinder); intro d_; try clear_value d_)
    | with_reducible apply Touches.foldl
    | (intro _ _ _)
    | exact Eq.refl true
    | with_reducible refine Touches.andThen ?_ (by with_reducible exact onPort_touch ..) ?_
    | with_reducible refine Touches.andThen ?_ (by with_reducible exact onPwr_touch ..) ?_
    | with_reducible refine Touches.andThen ?_ (by with_reducible exact onAux_touch ..) ?_
    | with_reducible refine Touches.andThen ?_ (by with_reducible exact enterAutumn_touch ..) ?_
    | with_reducible refine Touches.andThen ?_ (by with_reducible exact ungateAll_touch ..) ?_
    | split
    | dsimp -zeta only
    | (split at ‹ite _ _ _ = (_, _)›)
    | (cases ‹(_, _) = (_, _)›)

theorem applyPwrSeason_touch' (season : Nat) (ctx : ReplyCtx) (d : Dev) {e_ x1} (h_ : applyPwrSeason season ctx d = (e_, x1)) : Touches [.out, .sys, .pwr, .aux, .cli, .flock] d e_ := by
  have := applyPwrSeason_touch season ctx d; rw [h_] at this; exact this

theorem summerReady_touch (d : Dev) :
    Touches [.out, .sys, .pwr, .aux] d (summerReady d) := by
  unfold summerReady
  repeat' first
    | with_reducible assumption
    | with_reducible exact Touches.refl
    | ((try lift_lets -underBinder); intro d_; refine (have hd_ : Touches [.out, .sys, .pwr, .aux] d d_ := ?_; ?_); (on_goal 1 => try dsimp only [d_]); (on_goal 2 => clear_value d_))
    | ((try lift_lets -underBinder); intro d_; try clear_value d_)
    | exact Eq.refl true
    | with_reducible refine Touches.andThen ?_ (by with_reducible exact onPwr_touch ..) ?_
    | with_reducible refine Touches.andThen ?_ (by with_reducible exact onAux_touch ..) ?_
    | with_reducible refine onSys_step ?_ ?_ ?_ ?_ ?_ ?_
    | with_reducible refine Touches.andThen ?_ (by with_reducible exact raiseLeaf_touch ..) ?_
    | exact partOr_left rfl
    | exact .inr rfl
    | exact .inr (by (repeat' split) <;> rfl)
    | split
    | dsimp -zeta only
    | (split at ‹ite _ _ _ = (_, _)›)
    | (cases ‹(_, _) = (_, _)›)

theorem drainMoves_touch (d : Dev) (g : Nat) (routes : Bool) :
    Touches [.out, .memOut, .sys, .past, .media, .aud] d (drainMoves d g routes) := by
  unfold drainMoves
  repeat' first
    | with_reducible assumption
    | with_reducible exact Touches.refl
    | ((try lift_lets -underBinder); intro d_; refine (have hd_ : Touches [.out, .memOut, .sys, .past, .media, .aud] d d_ := ?_; ?_); (on_goal 1 => try dsimp only [d_]); (on_goal 2 => clear_value d_))
    | ((try lift_lets -underBinder); intro d_; try clear_value d_)
    | with_reducible apply Touches.foldl
    | (intro _ _ _)
    | exact Eq.refl true
    | with_reducible refine Touches.andThen ?_ (by with_reducible exact onLeg_touch ..) ?_
    | with_reducible refine Touches.andThen ?_ (by with_reducible exact onConf_touch ..) ?_
    | with_reducible refine Touches.andThen ?_ (by with_reducible exact onRoute_touch ..) ?_
    | with_reducible refine Touches.andThen ?_ (by with_reducible exact setLegSt_touch ..) ?_
    | split
    | dsimp -zeta only
    | (split at ‹ite _ _ _ = (_, _)›)
    | (cases ‹(_, _) = (_, _)›)

theorem drainBell_touch (d : Dev) :
    Touches [.out, .memOut, .sys, .past, .media, .aud] d (drainBell d) := by
  unfold drainBell
  repeat' first
    | with_reducible assumption
    | with_reducible exact Touches.refl
    | ((try lift_lets -underBinder); intro d_; refine (have hd_ : Touches [.out, .memOut, .sys, .past, .media, .aud] d d_ := ?_; ?_); (on_goal 1 => try dsimp only [d_]); (on_goal 2 => clear_value d_))
    | ((try lift_lets -underBinder); intro d_; try clear_value d_)
    | with_reducible apply Touches.foldl
    | (intro _ _ _)
    | exact Eq.refl true
    | with_reducible refine Touches.andThen ?_ (by with_reducible exact drainMoves_touch ..) ?_
    | split
    | dsimp -zeta only
    | (split at ‹ite _ _ _ = (_, _)›)
    | (cases ‹(_, _) = (_, _)›)

theorem autumnEvaluate_touch (d : Dev) :
    Touches [.pwr, .aux] d (autumnEvaluate d) := by
  unfold autumnEvaluate
  repeat' first
    | with_reducible assumption
    | with_reducible exact Touches.refl
    | ((try lift_lets -underBinder); intro d_; refine (have hd_ : Touches [.pwr, .aux] d d_ := ?_; ?_); (on_goal 1 => try dsimp only [d_]); (on_goal 2 => clear_value d_))
    | ((try lift_lets -underBinder); intro d_; try clear_value d_)
    | with_reducible apply Touches.foldl
    | (intro _ _ _)
    | exact Eq.refl true
    | with_reducible refine Touches.andThen ?_ (by with_reducible exact onAux_touch ..) ?_
    | with_reducible refine Touches.andThen ?_ (by with_reducible exact domainOff_touch ..) ?_
    | split
    | dsimp -zeta only
    | (split at ‹ite _ _ _ = (_, _)›)
    | (cases ‹(_, _) = (_, _)›)

theorem autumnGate_touch (d : Dev) :
    Touches [.out, .sys, .pwr, .aux, .flock] d (autumnGate d) := by
  unfold autumnGate
  repeat' first
    | with_reducible assumption
    | with_reducible exact Touches.refl
    | ((try lift_lets -underBinder); intro d_; refine (have hd_ : Touches [.out, .sys, .pwr, .aux, .flock] d d_ := ?_; ?_); (on_goal 1 => try dsimp only [d_]); (on_goal 2 => clear_value d_))
    | ((try lift_lets -underBinder); intro d_; try clear_value d_)
    | with_reducible apply Touches.foldl
    | (intro _ _ _)
    | exact Eq.refl true
    | with_reducible refine Touches.andThen ?_ (by with_reducible exact onAux_touch ..) ?_
    | with_reducible refine Touches.andThen ?_ (by with_reducible exact onFGroup_touch ..) ?_
    | with_reducible refine Touches.andThen ?_ (by with_reducible exact onEng_touch ..) ?_
    | with_reducible refine Touches.andThen ?_ (by with_reducible exact domainOff_touch ..) ?_
    | with_reducible refine Touches.andThen ?_ (by with_reducible exact raiseLeaf_touch ..) ?_
    | split
    | dsimp -zeta only
    | (split at ‹ite _ _ _ = (_, _)›)
    | (cases ‹(_, _) = (_, _)›)

theorem applyPwrAlarmSet_touch (value enable : Nat) (d : Dev) :
    Touches [.pwr] d (applyPwrAlarmSet value enable d) := by
  unfold applyPwrAlarmSet
  repeat' first
    | with_reducible assumption
    | with_reducible exact Touches.refl
    | exact Eq.refl true
    | with_reducible refine Touches.andThen ?_ (by with_reducible exact onPwr_touch ..) ?_
    | split
    | dsimp -zeta only
    | (split at ‹ite _ _ _ = (_, _)›)
    | (cases ‹(_, _) = (_, _)›)

theorem applyPwrAutumnConfig_touch (minGroups high low flags : Nat) (d : Dev) :
    Touches [.pwr] d (applyPwrAutumnConfig minGroups high low flags d) := by
  unfold applyPwrAutumnConfig
  repeat' first
    | with_reducible assumption
    | with_reducible exact Touches.refl
    | exact Eq.refl true
    | with_reducible refine Touches.andThen ?_ (by with_reducible exact onPwr_touch ..) ?_
    | split
    | dsimp -zeta only
    | (split at ‹ite _ _ _ = (_, _)›)
    | (cases ‹(_, _) = (_, _)›)

theorem applyCtrlFwSwap_touch (slot : Nat) (ctx : ReplyCtx) (d : Dev) :
    Touches [.pwr, .aux] d (applyCtrlFwSwap slot ctx d).1 := by
  unfold applyCtrlFwSwap
  repeat' first
    | with_reducible assumption
    | with_reducible exact Touches.refl
    | exact Eq.refl true
    | with_reducible refine Touches.andThen ?_ (by with_reducible exact onPwr_touch ..) ?_
    | with_reducible refine Touches.andThen ?_ (by with_reducible exact onAux_touch ..) ?_
    | split
    | dsimp -zeta only
    | (split at ‹ite _ _ _ = (_, _)›)
    | (cases ‹(_, _) = (_, _)›)

theorem applyCtrlFwSwap_touch' (slot : Nat) (ctx : ReplyCtx) (d : Dev) {e_ x1} (h_ : applyCtrlFwSwap slot ctx d = (e_, x1)) : Touches [.pwr, .aux] d e_ := by
  have := applyCtrlFwSwap_touch slot ctx d; rw [h_] at this; exact this

theorem fwSwapResume_touch (d : Dev) :
    Touches [.freeCtr, .out, .memOut, .sys, .staged, .rings, .sess, .bell, .past, .fold, .pwr, .aux, .parse, .tm, .flock, .acc, .media, .aud, .vid, .imc] d (fwSwapResume d) := by
  unfold fwSwapResume
  repeat' first
    | with_reducible assumption
    | with_reducible exact Touches.refl
    | ((try lift_lets -underBinder); intro d_; refine (have hd_ : Touches [.freeCtr, .out, .memOut, .sys, .staged, .rings, .sess, .bell, .past, .fold, .pwr, .aux, .parse, .tm, .flock, .acc, .media, .aud, .vid, .imc] d d_ := ?_; ?_); (on_goal 1 => try dsimp only [d_]); (on_goal 2 => clear_value d_))
    | ((try lift_lets -underBinder); intro d_; try clear_value d_)
    | exact Eq.refl true
    | with_reducible refine Touches.andThen ?_ (by with_reducible exact onPwr_touch ..) ?_
    | with_reducible refine Touches.andThen ?_ (by with_reducible exact onAux_touch ..) ?_
    | with_reducible refine Touches.andThen ?_ (by with_reducible exact onBoot_touch ..) ?_
    | with_reducible refine Touches.andThen ?_ (by with_reducible exact releasePloam_touch ..) ?_
    | with_reducible refine Touches.andThen ?_ (by with_reducible exact releaseFailures_touch ..) ?_
    | with_reducible refine Touches.andThen ?_ (by with_reducible exact followUp_touch ..) ?_
    | with_reducible refine Touches.andThen ?_ (by with_reducible exact raiseLeaf_touch ..) ?_
    | split
    | dsimp -zeta only
    | (split at ‹ite _ _ _ = (_, _)›)
    | (cases ‹(_, _) = (_, _)›)

theorem fwSwapTimeout_touch (d : Dev) :
    Touches [.freeCtr, .out, .memOut, .sys, .staged, .rings, .sess, .bell, .past, .pwr, .aux, .parse, .tm, .flock, .acc, .media, .aud, .vid, .imc] d (fwSwapTimeout d) := by
  unfold fwSwapTimeout
  repeat' first
    | with_reducible assumption
    | with_reducible exact Touches.refl
    | ((try lift_lets -underBinder); intro d_; refine (have hd_ : Touches [.freeCtr, .out, .memOut, .sys, .staged, .rings, .sess, .bell, .past, .pwr, .aux, .parse, .tm, .flock, .acc, .media, .aud, .vid, .imc] d d_ := ?_; ?_); (on_goal 1 => try dsimp only [d_]); (on_goal 2 => clear_value d_))
    | ((try lift_lets -underBinder); intro d_; try clear_value d_)
    | exact Eq.refl true
    | with_reducible refine Touches.andThen ?_ (by with_reducible exact onPwr_touch ..) ?_
    | with_reducible refine Touches.andThen ?_ (by with_reducible exact onAux_touch ..) ?_
    | with_reducible refine Touches.andThen ?_ (by with_reducible exact releasePloam_touch ..) ?_
    | with_reducible refine Touches.andThen ?_ (by with_reducible exact releaseFailures_touch ..) ?_
    | with_reducible refine Touches.andThen ?_ (by with_reducible exact raiseLeaf_touch ..) ?_
    | with_reducible refine Touches.andThen ?_ (by with_reducible exact followUp_touch ..) ?_
    | split
    | dsimp -zeta only
    | (split at ‹ite _ _ _ = (_, _)›)
    | (cases ‹(_, _) = (_, _)›)

theorem pwrReadClear_touch (d : Dev) (off : Nat) :
    Touches [.aux] d (pwrReadClear d off) := by
  unfold pwrReadClear
  repeat' first
    | with_reducible assumption
    | with_reducible exact Touches.refl
    | exact Eq.refl true
    | with_reducible refine Touches.andThen ?_ (by with_reducible exact onAux_touch ..) ?_
    | split
    | dsimp -zeta only
    | (split at ‹ite _ _ _ = (_, _)›)
    | (cases ‹(_, _) = (_, _)›)

theorem pwrWrite_opt (d : Dev) (off : Nat) (v : Word) : OptTouch (α := Dev) (fun x => x) [.pwr] d (pwrWrite d off v) := by
  unfold pwrWrite
  repeat' first
    | with_reducible assumption
    | with_reducible exact Touches.refl
    | exact OptTouch.none
    | with_reducible refine OptTouch.some ?_
    | exact Eq.refl true
    | with_reducible refine Touches.andThen ?_ (by with_reducible exact onPwr_touch ..) ?_
    | split
    | dsimp -zeta only
    | (split at ‹ite _ _ _ = (_, _)›)
    | (cases ‹(_, _) = (_, _)›)

theorem pwrWrite_touch (d : Dev) (off : Nat) (v : Word) {e_} (h_ : pwrWrite d off v = some e_) : Touches [.pwr] d e_ := (pwrWrite_opt d off v).of_some h_

end Sys2Proof.Machine
end

