-- ==== Sys2Proof/Laws/TouchBellTick.lean ====
section
/-! SUPPORT. Which parts of the device the operations of Machine/BellTick.lean touch. -/

namespace Sys2Proof.Machine

set_option linter.all false
set_option Elab.async false

theorem bellCount_touch (x : TickIn) (d : Dev) :
    Touches [.bell, .tick] d (bellCount x d) := by
  unfold bellCount
  repeat' first
    | with_reducible assumption
    | with_reducible exact Touches.refl
    | ((try lift_lets -underBinder); intro d_; refine (have hd_ : Touches [.bell, .tick] d d_ := ?_; ?_); (on_goal 1 => try dsimp only [d_]); (on_goal 2 => clear_value d_))
    | ((try lift_lets -underBinder); intro d_; try clear_value d_)
    | exact Eq.refl true
    | with_reducible refine onBell_step ?_ ?_ ?_
    | with_reducible refine Touches.andThen ?_ (by with_reducible exact onErr_touch ..) ?_
    | with_reducible refine Touches.andThen ?_ (by with_reducible exact advanceCrystal_touch ..) ?_
    | with_reducible refine Touches.andThen ?_ (by with_reducible exact advanceC_touch ..) ?_
    | with_reducible refine Touches.andThen ?_ (by with_reducible exact updateErr_touch ..) ?_
    | exact partOr_left rfl
    | exact .inr rfl
    | exact .inr (by (repeat' split) <;> rfl)
    | split
    | dsimp -zeta only
    | (split at ‹ite _ _ _ = (_, _)›)
    | (cases ‹(_, _) = (_, _)›)

theorem noteOnce_touch (d : Dev) (e : Nat) :
    Touches [.out, .sys, .bell, .tick, .flock, .media] d (noteOnce d e) := by
  unfold noteOnce
  repeat' first
    | with_reducible assumption
    | with_reducible exact Touches.refl
    | ((try lift_lets -underBinder); intro d_; refine (have hd_ : Touches [.out, .sys, .bell, .tick, .flock, .media] d d_ := ?_; ?_); (on_goal 1 => try dsimp only [d_]); (on_goal 2 => clear_value d_))
    | ((try lift_lets -underBinder); intro d_; try clear_value d_)
    | exact Eq.refl true
    | with_reducible refine Touches.andThen ?_ (by with_reducible exact noteOverrun_touch ..) ?_
    | split
    | dsimp -zeta only
    | (split at ‹ite _ _ _ = (_, _)›)
    | (cases ‹(_, _) = (_, _)›)

theorem engineTick_touch (d : Dev) (x : EngTick) :
    Touches [.out, .sys, .bell, .tick, .flock, .media] d (engineTick d x) := by
  unfold engineTick
  repeat' first
    | with_reducible assumption
    | with_reducible exact Touches.refl
    | ((try lift_lets -underBinder); intro d_; refine (have hd_ : Touches [.out, .sys, .bell, .tick, .flock, .media] d d_ := ?_; ?_); (on_goal 1 => try dsimp only [d_]); (on_goal 2 => clear_value d_))
    | ((try lift_lets -underBinder); intro d_; try clear_value d_)
    | exact Eq.refl true
    | with_reducible refine Touches.andThen ?_ (by with_reducible exact onEng_touch ..) ?_
    | with_reducible refine Touches.andThen ?_ (by with_reducible exact noteOverrun_touch ..) ?_
    | split
    | dsimp -zeta only
    | (split at ‹ite _ _ _ = (_, _)›)
    | (cases ‹(_, _) = (_, _)›)

theorem heartbeats_touch (d : Dev) :
    Touches [.flock] d (heartbeats d) := by
  unfold heartbeats
  repeat' first
    | with_reducible assumption
    | with_reducible exact Touches.refl
    | with_reducible apply Touches.foldl
    | (intro _ _ _)
    | exact Eq.refl true
    | with_reducible refine Touches.andThen ?_ (by with_reducible exact onEng_touch ..) ?_
    | split
    | dsimp -zeta only
    | (split at ‹ite _ _ _ = (_, _)›)
    | (cases ‹(_, _) = (_, _)›)

theorem takeDepth_touch (d : Dev) (n : Nat) (l : Leg) :
    Touches [.media] d (takeDepth d n l) := by
  unfold takeDepth
  repeat' first
    | with_reducible assumption
    | with_reducible exact Touches.refl
    | ((try lift_lets -underBinder); intro d_; refine (have hd_ : Touches [.media] d d_ := ?_; ?_); (on_goal 1 => try dsimp only [d_]); (on_goal 2 => clear_value d_))
    | ((try lift_lets -underBinder); intro d_; try clear_value d_)
    | exact Eq.refl true
    | with_reducible refine Touches.andThen ?_ (by with_reducible exact onLeg_touch ..) ?_
    | split
    | dsimp -zeta only
    | (split at ‹ite _ _ _ = (_, _)›)
    | (cases ‹(_, _) = (_, _)›)

theorem legBlock_touch (x : TickIn) (late : List Nat) (d : Dev) (n : Nat) : Touches [.media, .aud] d (legBlock x late d n) := by
  unfold legBlock
  dsimp only
  split
  · exact .refl
  · split
    · exact .refl
    · split
      · exact .mono (onAud_touch _ _)
      · split
        · exact .mono (onAud_touch _ _)
        · refine .andThen ?_ (takeDepth_touch _ _ _)
          split
          · exact .andThen (.mono (onAud_touch _ _)) (legCount_touch _ _ _ _)
          · exact .mono (onAud_touch _ _)

theorem legBlocks_touch (x : TickIn) (late : List Nat) (d : Dev) :
    Touches [.media, .aud] d (legBlocks x late d) := by
  unfold legBlocks
  repeat' first
    | with_reducible assumption
    | with_reducible exact Touches.refl
    | ((try lift_lets -underBinder); intro d_; refine (have hd_ : Touches [.media, .aud] d d_ := ?_; ?_); (on_goal 1 => try dsimp only [d_]); (on_goal 2 => clear_value d_))
    | ((try lift_lets -underBinder); intro d_; try clear_value d_)
    | with_reducible apply Touches.foldl
    | (intro _ _ _)
    | exact Eq.refl true
    | with_reducible refine Touches.andThen ?_ (by with_reducible exact legBlock_touch ..) ?_
    | split
    | dsimp -zeta only
    | (split at ‹ite _ _ _ = (_, _)›)
    | (cases ‹(_, _) = (_, _)›)

theorem mediaBell_touch (x : TickIn) (silent late : List Nat) (d : Dev) :
    Touches [.freeCtr, .out, .sys, .past, .fold, .tm, .flock, .media, .aud, .vid, .imc, .integ] d (mediaBell x silent late d) := by
  unfold mediaBell
  repeat' first
    | with_reducible assumption
    | with_reducible exact Touches.refl
    | ((try lift_lets -underBinder); intro d_; refine (have hd_ : Touches [.freeCtr, .out, .sys, .past, .fold, .tm, .flock, .media, .aud, .vid, .imc, .integ] d d_ := ?_; ?_); (on_goal 1 => try dsimp only [d_]); (on_goal 2 => clear_value d_))
    | ((try lift_lets -underBinder); intro d_; try clear_value d_)
    | with_reducible apply Touches.foldl
    | (intro _ _ _)
    | exact Eq.refl true
    | with_reducible refine Touches.andThen ?_ (by with_reducible exact legBlocks_touch ..) ?_
    | with_reducible refine Touches.andThen ?_ (by with_reducible exact streamsTick_touch ..) ?_
    | with_reducible refine Touches.andThen ?_ (by with_reducible exact imcBell_touch ..) ?_
    | with_reducible refine Touches.andThen ?_ (by with_reducible exact portsTick_touch ..) ?_
    | with_reducible refine Touches.andThen ?_ (by with_reducible exact videoTick_touch ..) ?_
    | with_reducible refine Touches.andThen ?_ (by with_reducible exact sendAudio_touch ..) ?_
    | split
    | dsimp -zeta only
    | (split at ‹ite _ _ _ = (_, _)›)
    | (cases ‹(_, _) = (_, _)›)

theorem legsBell_touch (d : Dev) :
    Touches [.out, .memOut, .sys, .rings, .sess, .past, .fold, .parse, .tm, .media, .aud, .vid, .imc] d (legsBell d) := by
  unfold legsBell
  repeat' first
    | with_reducible assumption
    | with_reducible exact Touches.refl
    | ((try lift_lets -underBinder); intro d_; refine (have hd_ : Touches [.out, .memOut, .sys, .rings, .sess, .past, .fold, .parse, .tm, .media, .aud, .vid, .imc] d d_ := ?_; ?_); (on_goal 1 => try dsimp only [d_]); (on_goal 2 => clear_value d_))
    | ((try lift_lets -underBinder); intro d_; try clear_value d_)
    | with_reducible apply Touches.foldl
    | (intro _ _ _)
    | exact Eq.refl true
    | with_reducible refine Touches.andThen ?_ (by with_reducible exact endFailedMoves_touch ..) ?_
    | with_reducible refine Touches.andThen ?_ (by with_reducible exact resumeOthers_touch ..) ?_
    | with_reducible refine Touches.andThen ?_ (by with_reducible exact resumeLeg_touch ..) ?_
    | with_reducible refine Touches.andThen ?_ (by with_reducible exact legKeySweep_touch ..) ?_
    | split
    | dsimp -zeta only
    | (split at ‹ite _ _ _ = (_, _)›)
    | (cases ‹(_, _) = (_, _)›)

theorem bellWork_touch (x : TickIn) (d : Dev) :
    Touches [.freeCtr, .out, .memOut, .sys, .rings, .sess, .bell, .tick, .past, .fold, .parse, .tm, .flock, .media, .aud, .vid, .imc, .casc, .lane, .integ] d (bellWork x d) := by
  unfold bellWork
  repeat' first
    | with_reducible assumption
    | with_reducible exact Touches.refl
    | ((try lift_lets -underBinder); intro d_; refine (have hd_ : Touches [.freeCtr, .out, .memOut, .sys, .rings, .sess, .bell, .tick, .past, .fold, .parse, .tm, .flock, .media, .aud, .vid, .imc, .casc, .lane, .integ] d d_ := ?_; ?_); (on_goal 1 => try dsimp only [d_]); (on_goal 2 => clear_value d_))
    | ((try lift_lets -underBinder); intro d_; try clear_value d_)
    | with_reducible apply Touches.foldl
    | (intro _ _ _)
    | exact Eq.refl true
    | with_reducible refine Touches.andThen ?_ (by with_reducible exact bellwetherMarker_touch ..) ?_
    | with_reducible refine Touches.andThen ?_ (by with_reducible exact pastureBell_touch ..) ?_
    | with_reducible refine Touches.andThen ?_ (by with_reducible exact engineTick_touch ..) ?_
    | with_reducible refine Touches.andThen ?_ (by with_reducible exact heartbeats_touch ..) ?_
    | with_reducible refine Touches.andThen ?_ (by with_reducible exact noteOnce_touch ..) ?_
    | with_reducible refine Touches.andThen ?_ (by with_reducible exact cascUsed_touch ..) ?_
    | with_reducible refine Touches.andThen ?_ (by with_reducible exact cascBell_touch ..) ?_
    | with_reducible refine Touches.andThen ?_ (by with_reducible exact audioTick_touch ..) ?_
    | with_reducible refine Touches.andThen ?_ (by with_reducible exact laneBell_touch ..) ?_
    | with_reducible refine Touches.andThen ?_ (by with_reducible exact recalSweep_touch ..) ?_
    | with_reducible refine Touches.andThen ?_ (by with_reducible exact mediaBell_touch ..) ?_
    | with_reducible refine Touches.andThen ?_ (by with_reducible exact legsBell_touch ..) ?_
    | with_reducible refine Touches.andThen ?_ (by with_reducible exact scrubBell_touch ..) ?_
    | with_reducible refine Touches.andThen ?_ (by with_reducible exact unitStores_touch ..) ?_
    | with_reducible refine Touches.andThen ?_ (by with_reducible exact tmUnstage_touch ..) ?_
    | with_reducible refine Touches.andThen ?_ (by with_reducible exact tmSweep_touch ..) ?_
    | with_reducible refine Touches.andThen ?_ (by with_reducible exact engineFailed_touch ..) ?_
    | split
    | dsimp -zeta only
    | (split at ‹ite _ _ _ = (_, _)›)
    | (cases ‹(_, _) = (_, _)›)

theorem bellTick_touch (x : TickIn) (d : Dev) :
    Touches [.freeCtr, .out, .memOut, .sys, .rings, .sess, .bell, .tick, .past, .fold, .parse, .tm, .flock, .media, .aud, .vid, .imc, .casc, .lane, .integ] d (bellTick x d) := by
  unfold bellTick
  repeat' first
    | with_reducible assumption
    | with_reducible exact Touches.refl
    | exact Eq.refl true
    | with_reducible refine Touches.andThen ?_ (by with_reducible exact bellWork_touch ..) ?_
    | with_reducible refine Touches.andThen ?_ (by with_reducible exact bellCount_touch ..) ?_
    | split
    | dsimp -zeta only
    | (split at ‹ite _ _ _ = (_, _)›)
    | (cases ‹(_, _) = (_, _)›)

end Sys2Proof.Machine
end

