-- ==== Sys2Proof/Laws/TouchRegs.lean ====
section
/-! SUPPORT. Which parts of the device the operations of Machine/Regs.lean touch. -/

namespace Sys2Proof.Machine

set_option linter.all false
set_option Elab.async false

theorem bellWrite_touch (d : Dev) (off v : Nat) :
    Touches [.bell] d (bellWrite d off v) := by
  unfold bellWrite
  repeat' first
    | with_reducible assumption
    | with_reducible exact Touches.refl
    | ((try lift_lets -underBinder); intro d_; refine (have hd_ : Touches [.bell] d d_ := ?_; ?_); (on_goal 1 => try dsimp only [d_]); (on_goal 2 => clear_value d_))
    | ((try lift_lets -underBinder); intro d_; try clear_value d_)
    | exact Eq.refl true
    | with_reducible refine onBell_step ?_ ?_ ?_
    | with_reducible refine Touches.andThen ?_ (by with_reducible exact bellSnap_touch ..) ?_
    | exact partOr_left rfl
    | exact .inr rfl
    | exact .inr (by (repeat' split) <;> rfl)
    | split
    | dsimp -zeta only
    | (split at ‹ite _ _ _ = (_, _)›)
    | (cases ‹(_, _) = (_, _)›)

theorem parseReadClear_touch (d : Dev) (off : Nat) :
    Touches [.parse] d (parseReadClear d off) := by
  unfold parseReadClear
  repeat' first
    | with_reducible assumption
    | with_reducible exact Touches.refl
    | exact Eq.refl true
    | with_reducible refine Touches.andThen ?_ (by with_reducible exact onPipe_touch ..) ?_
    | with_reducible refine Touches.andThen ?_ (by with_reducible exact onParsePort_touch ..) ?_
    | split
    | dsimp -zeta only
    | (split at ‹ite _ _ _ = (_, _)›)
    | (cases ‹(_, _) = (_, _)›)

theorem tmReadClear_touch (d : Dev) (off : Nat) :
    Touches [.tm] d (tmReadClear d off) := by
  unfold tmReadClear
  repeat' first
    | with_reducible assumption
    | with_reducible exact Touches.refl
    | exact Eq.refl true
    | with_reducible refine Touches.andThen ?_ (by with_reducible exact onTm_touch ..) ?_
    | with_reducible refine Touches.andThen ?_ (by with_reducible exact onMeter_touch ..) ?_
    | split
    | dsimp -zeta only
    | (split at ‹ite _ _ _ = (_, _)›)
    | (cases ‹(_, _) = (_, _)›)

theorem tmWrite_touch (d : Dev) (off v : Nat) :
    Touches [.tm] d (tmWrite d off v) := by
  unfold tmWrite
  repeat' first
    | with_reducible assumption
    | with_reducible exact Touches.refl
    | exact Eq.refl true
    | with_reducible refine Touches.andThen ?_ (by with_reducible exact onTm_touch ..) ?_
    | with_reducible refine Touches.andThen ?_ (by with_reducible exact hwmReset_touch ..) ?_
    | split
    | dsimp -zeta only
    | (split at ‹ite _ _ _ = (_, _)›)
    | (cases ‹(_, _) = (_, _)›)

theorem imcReadClear_touch (d : Dev) (off : Nat) :
    Touches [.imc] d (imcReadClear d off) := by
  unfold imcReadClear
  repeat' first
    | with_reducible assumption
    | with_reducible exact Touches.refl
    | exact Eq.refl true
    | with_reducible refine Touches.andThen ?_ (by with_reducible exact onImc_touch ..) ?_
    | split
    | dsimp -zeta only
    | (split at ‹ite _ _ _ = (_, _)›)
    | (cases ‹(_, _) = (_, _)›)

theorem imcWrite_touch (d : Dev) (off v : Nat) :
    Touches [.imc] d (imcWrite d off v) := by
  unfold imcWrite
  repeat' first
    | with_reducible assumption
    | with_reducible exact Touches.refl
    | exact Eq.refl true
    | with_reducible refine Touches.andThen ?_ (by with_reducible exact onImc_touch ..) ?_
    | split
    | dsimp -zeta only
    | (split at ‹ite _ _ _ = (_, _)›)
    | (cases ‹(_, _) = (_, _)›)

theorem vidReadClear_touch (d : Dev) (off : Nat) :
    Touches [.vid] d (vidReadClear d off) := by
  unfold vidReadClear
  repeat' first
    | with_reducible assumption
    | with_reducible exact Touches.refl
    | exact Eq.refl true
    | with_reducible refine Touches.andThen ?_ (by with_reducible exact onVid_touch ..) ?_
    | split
    | dsimp -zeta only
    | (split at ‹ite _ _ _ = (_, _)›)
    | (cases ‹(_, _) = (_, _)›)

theorem audReadClear_touch (d : Dev) (off : Nat) :
    Touches [.aud] d (audReadClear d off) := by
  unfold audReadClear
  repeat' first
    | with_reducible assumption
    | with_reducible exact Touches.refl
    | exact Eq.refl true
    | with_reducible refine Touches.andThen ?_ (by with_reducible exact onTdm_touch ..) ?_
    | with_reducible refine Touches.andThen ?_ (by with_reducible exact onAud_touch ..) ?_
    | split
    | dsimp -zeta only
    | (split at ‹ite _ _ _ = (_, _)›)
    | (cases ‹(_, _) = (_, _)›)

theorem audWrite_touch (d : Dev) (off v : Nat) :
    Touches [.aud] d (audWrite d off v) := by
  unfold audWrite
  repeat' first
    | with_reducible assumption
    | with_reducible exact Touches.refl
    | exact Eq.refl true
    | with_reducible refine Touches.andThen ?_ (by with_reducible exact onHs_touch ..) ?_
    | split
    | dsimp -zeta only
    | (split at ‹ite _ _ _ = (_, _)›)
    | (cases ‹(_, _) = (_, _)›)

theorem integReadClear_touch (d : Dev) (off : Nat) :
    Touches [.integ] d (integReadClear d off) := by
  unfold integReadClear
  repeat' first
    | with_reducible assumption
    | with_reducible exact Touches.refl
    | exact Eq.refl true
    | with_reducible refine Touches.andThen ?_ (by with_reducible exact onIntClass_touch ..) ?_
    | with_reducible refine Touches.andThen ?_ (by with_reducible exact onCv_touch ..) ?_
    | split
    | dsimp -zeta only
    | (split at ‹ite _ _ _ = (_, _)›)
    | (cases ‹(_, _) = (_, _)›)

theorem integWrite_touch (d : Dev) (off v : Nat) :
    Touches [.integ] d (integWrite d off v) := by
  unfold integWrite
  repeat' first
    | with_reducible assumption
    | with_reducible exact Touches.refl
    | ((try lift_lets -underBinder); intro d_; refine (have hd_ : Touches [.integ] d d_ := ?_; ?_); (on_goal 1 => try dsimp only [d_]); (on_goal 2 => clear_value d_))
    | ((try lift_lets -underBinder); intro d_; try clear_value d_)
    | exact Eq.refl true
    | split
    | with_reducible refine Touches.andThen ?_ (by with_reducible exact onInteg_touch ..) ?_
    | with_reducible refine Touches.andThen ?_ (by with_reducible exact onCv_touch ..) ?_
    | with_reducible refine Touches.andThen ?_ (by with_reducible exact cvInit_touch ..) ?_
    | with_reducible refine Touches.andThen ?_ (by with_reducible exact cvData_touch ..) ?_
    | with_reducible refine Touches.andThen ?_ (by with_reducible exact cvValue_touch ..) ?_
    | with_reducible refine Touches.andThen ?_ (by with_reducible exact cvAlive_touch ..) ?_
    | split
    | dsimp -zeta only
    | (split at ‹ite _ _ _ = (_, _)›)
    | (cases ‹(_, _) = (_, _)›)

theorem flockReadClear_touch (d : Dev) (off : Nat) :
    Touches [.flock] d (flockReadClear d off) := by
  unfold flockReadClear
  repeat' first
    | with_reducible assumption
    | with_reducible exact Touches.refl
    | exact Eq.refl true
    | with_reducible refine Touches.andThen ?_ (by with_reducible exact onEng_touch ..) ?_
    | split
    | dsimp -zeta only
    | (split at ‹ite _ _ _ = (_, _)›)
    | (cases ‹(_, _) = (_, _)›)

theorem regReadClear_touch (d : Dev) (blk off : Nat) :
    Touches [.sys, .bell, .aux, .parse, .tm, .flock, .acc, .aud, .vid, .imc, .casc, .lane, .drove, .integ] d (regReadClear d blk off) := by
  unfold regReadClear
  repeat' first
    | with_reducible assumption
    | with_reducible exact Touches.refl
    | exact Eq.refl true
    | with_reducible refine onBell_step ?_ ?_ ?_
    | with_reducible refine Touches.andThen ?_ (by with_reducible exact sysReadClear_touch ..) ?_
    | with_reducible refine Touches.andThen ?_ (by with_reducible exact accReadClear_touch ..) ?_
    | with_reducible refine Touches.andThen ?_ (by with_reducible exact imcReadClear_touch ..) ?_
    | with_reducible refine Touches.andThen ?_ (by with_reducible exact laneReadClear_touch ..) ?_
    | with_reducible refine Touches.andThen ?_ (by with_reducible exact parseReadClear_touch ..) ?_
    | with_reducible refine Touches.andThen ?_ (by with_reducible exact tmReadClear_touch ..) ?_
    | with_reducible refine Touches.andThen ?_ (by with_reducible exact audReadClear_touch ..) ?_
    | with_reducible refine Touches.andThen ?_ (by with_reducible exact vidReadClear_touch ..) ?_
    | with_reducible refine Touches.andThen ?_ (by with_reducible exact flockReadClear_touch ..) ?_
    | with_reducible refine Touches.andThen ?_ (by with_reducible exact droveReadClear_touch ..) ?_
    | with_reducible refine Touches.andThen ?_ (by with_reducible exact integReadClear_touch ..) ?_
    | with_reducible refine Touches.andThen ?_ (by with_reducible exact cascReadClear_touch ..) ?_
    | with_reducible refine Touches.andThen ?_ (by with_reducible exact pwrReadClear_touch ..) ?_
    | exact partOr_left rfl
    | exact .inr rfl
    | exact .inr (by (repeat' split) <;> rfl)
    | split
    | dsimp -zeta only
    | (split at ‹ite _ _ _ = (_, _)›)
    | (cases ‹(_, _) = (_, _)›)

theorem regWrite_touch (d : Dev) (blk off : Nat) (v : Word) :
    Touches [.out, .sys, .rings, .bell, .pwr, .tm, .cli, .acc, .aud, .imc, .lane, .drove, .integ] d (regWrite d blk off v) := by
  unfold regWrite
  repeat' first
    | with_reducible assumption
    | with_reducible exact Touches.refl
    | exact Eq.refl true
    | with_reducible refine Touches.andThen ?_ (by with_reducible exact bellWrite_touch ..) ?_
    | with_reducible refine Touches.andThen ?_ (by with_reducible exact imcWrite_touch ..) ?_
    | with_reducible refine Touches.andThen ?_ (by with_reducible exact tmWrite_touch ..) ?_
    | with_reducible refine Touches.andThen ?_ (by with_reducible exact audWrite_touch ..) ?_
    | with_reducible refine Touches.andThen ?_ (by with_reducible exact integWrite_touch ..) ?_
    | with_reducible refine Touches.andThen ?_ (by with_reducible exact OptTouch.getD (sysWrite_opt ..)) ?_
    | with_reducible refine Touches.andThen ?_ (by with_reducible exact OptTouch.getD (accWrite_opt ..)) ?_
    | with_reducible refine Touches.andThen ?_ (by with_reducible exact OptTouch.getD (laneWrite_opt ..)) ?_
    | with_reducible refine Touches.andThen ?_ (by with_reducible exact OptTouch.getD (cliWrite_opt ..)) ?_
    | with_reducible refine Touches.andThen ?_ (by with_reducible exact OptTouch.getD (droveWrite_opt ..)) ?_
    | with_reducible refine Touches.andThen ?_ (by with_reducible exact OptTouch.getD (pwrWrite_opt ..)) ?_
    | split
    | dsimp -zeta only
    | (split at ‹ite _ _ _ = (_, _)›)
    | (cases ‹(_, _) = (_, _)›)

end Sys2Proof.Machine
end

