-- ==== Sys2Proof/Laws/TouchActs.lean ====
section
/-! SUPPORT. Which parts of the device the operations of Machine/Acts.lean touch. -/

namespace Sys2Proof.Machine

set_option linter.all false
set_option Elab.async false

theorem applyOf_touch (c : KCmd) (pick : Nat) (ctx : ReplyCtx) (data : List Nat) (d : Dev) :
    Touches [.out, .memOut, .sys, .rings, .bell, .tick, .past, .fold, .pwr, .aux, .pins, .parse, .tm, .cli, .flock, .acc, .media, .aud, .vid, .imc, .casc, .lane, .integ] d (applyOf c pick ctx data d).1 := by
  unfold applyOf
  repeat' first
    | with_reducible assumption
    | with_reducible exact Touches.refl
    | ((try lift_lets -underBinder); intro d_; refine (have hd_ : Touches [.out, .memOut, .sys, .rings, .bell, .tick, .past, .fold, .pwr, .aux, .pins, .parse, .tm, .cli, .flock, .acc, .media, .aud, .vid, .imc, .casc, .lane, .integ] d d_ := ?_; ?_); (on_goal 1 => try dsimp only [d_]); (on_goal 2 => clear_value d_))
    | ((try lift_lets -underBinder); intro d_; try clear_value d_)
    | exact Eq.refl true
    | with_reducible refine Touches.andThen ?_ (by with_reducible exact applyPastureAllotSet_touch ..) ?_
    | with_reducible refine Touches.andThen ?_ (by with_reducible exact applyTimeConfig_touch ..) ?_
    | with_reducible refine Touches.andThen ?_ (by with_reducible exact applyTimeSet_touch ..) ?_
    | with_reducible refine Touches.andThen ?_ (by with_reducible exact applyTimeRate_touch ..) ?_
    | with_reducible refine Touches.andThen ?_ (by with_reducible exact applyTimeOffsetConfirm_touch ..) ?_
    | with_reducible refine Touches.andThen ?_ (by with_reducible exact applyMgmtConfig_touch ..) ?_
    | with_reducible refine Touches.andThen ?_ (by with_reducible exact applyHostPktConfig_touch ..) ?_
    | with_reducible refine Touches.andThen ?_ (by with_reducible exact applyConfCreate_touch ..) ?_
    | with_reducible refine Touches.andThen ?_ (by with_reducible exact applyConfModify_touch ..) ?_
    | refine Touches.andThen ?_ (applyConfModify_touch' (h_ := by assumption) ..) ?_
    | with_reducible refine Touches.andThen ?_ (by with_reducible exact applyConfDestroy_touch ..) ?_
    | with_reducible refine Touches.andThen ?_ (by with_reducible exact applyLegCreate_touch ..) ?_
    | with_reducible refine Touches.andThen ?_ (by with_reducible exact applyLegModify_touch ..) ?_
    | with_reducible refine Touches.andThen ?_ (by with_reducible exact applyLegDestroy_touch ..) ?_
    | with_reducible refine Touches.andThen ?_ (by with_reducible exact applyLegRekey_touch ..) ?_
    | with_reducible refine Touches.andThen ?_ (by with_reducible exact applyLegMigrate_touch ..) ?_
    | refine Touches.andThen ?_ (applyLegMigrate_touch' (h_ := by assumption) ..) ?_
    | with_reducible refine Touches.andThen ?_ (by with_reducible exact applyPlaceSet_touch ..) ?_
    | with_reducible refine Touches.andThen ?_ (by with_reducible exact applyStatusTableSet_touch ..) ?_
    | with_reducible refine Touches.andThen ?_ (by with_reducible exact applyRouteSet_touch ..) ?_
    | refine Touches.andThen ?_ (applyRouteSet_touch' (h_ := by assumption) ..) ?_
    | with_reducible refine Touches.andThen ?_ (by with_reducible exact applyRouteClear_touch ..) ?_
    | with_reducible refine Touches.andThen ?_ (by with_reducible exact applyConsoleSet_touch ..) ?_
    | with_reducible refine Touches.andThen ?_ (by with_reducible exact applyAudParamWrite_touch ..) ?_
    | with_reducible refine Touches.andThen ?_ (by with_reducible exact applyAudCommit_touch ..) ?_
    | with_reducible refine Touches.andThen ?_ (by with_reducible exact applyPortTdmConfig_touch ..) ?_
    | with_reducible refine Touches.andThen ?_ (by with_reducible exact applyContribSet_touch ..) ?_
    | with_reducible refine Touches.andThen ?_ (by with_reducible exact applySubscribeSet_touch ..) ?_
    | with_reducible refine Touches.andThen ?_ (by with_reducible exact applyLayoutSet_touch ..) ?_
    | with_reducible refine Touches.andThen ?_ (by with_reducible exact applyLayoutClear_touch ..) ?_
    | with_reducible refine Touches.andThen ?_ (by with_reducible exact applyVidConfig_touch ..) ?_
    | with_reducible refine Touches.andThen ?_ (by with_reducible exact applyIntraRequest_touch ..) ?_
    | with_reducible refine Touches.andThen ?_ (by with_reducible exact applyEngineLoad_touch ..) ?_
    | refine Touches.andThen ?_ (applyEngineLoad_touch' (h_ := by assumption) ..) ?_
    | with_reducible refine Touches.andThen ?_ (by with_reducible exact applyEngineUnload_touch ..) ?_
    | with_reducible refine Touches.andThen ?_ (by with_reducible exact applyAccConfig_touch ..) ?_
    | with_reducible refine Touches.andThen ?_ (by with_reducible exact applyAccEnable_touch ..) ?_
    | with_reducible refine Touches.andThen ?_ (by with_reducible exact applyAccKillRelease_touch ..) ?_
    | with_reducible refine Touches.andThen ?_ (by with_reducible exact applyAccBondConfig_touch ..) ?_
    | with_reducible refine Touches.andThen ?_ (by with_reducible exact applyAccChannelLeave_touch ..) ?_
    | with_reducible refine Touches.andThen ?_ (by with_reducible exact applyImcTrunkSet_touch ..) ?_
    | with_reducible refine Touches.andThen ?_ (by with_reducible exact applyImcTrunkClear_touch ..) ?_
    | with_reducible refine Touches.andThen ?_ (by with_reducible exact applyLaneGroupConfig_touch ..) ?_
    | with_reducible refine Touches.andThen ?_ (by with_reducible exact applyLaneRecal_touch ..) ?_
    | with_reducible refine Touches.andThen ?_ (by with_reducible exact applyLaneSpare_touch ..) ?_
    | with_reducible refine Touches.andThen ?_ (by with_reducible exact applyCliConfig_touch ..) ?_
    | with_reducible refine Touches.andThen ?_ (by with_reducible exact applyCliPath_touch ..) ?_
    | with_reducible refine Touches.andThen ?_ (by with_reducible exact applyCliPortConfig_touch ..) ?_
    | with_reducible refine Touches.andThen ?_ (by with_reducible exact applyCliAddrSet_touch ..) ?_
    | with_reducible refine Touches.andThen ?_ (by with_reducible exact applyCliMacsecSet_touch ..) ?_
    | with_reducible refine Touches.andThen ?_ (by with_reducible exact applyCliMacsecSa_touch ..) ?_
    | with_reducible refine Touches.andThen ?_ (by with_reducible exact applyParseRuleSet_touch ..) ?_
    | with_reducible refine Touches.andThen ?_ (by with_reducible exact applyParseRuleClear_touch ..) ?_
    | with_reducible refine Touches.andThen ?_ (by with_reducible exact applyParsePortSet_touch ..) ?_
    | with_reducible refine Touches.andThen ?_ (by with_reducible exact applyParseHashProfileSet_touch ..) ?_
    | with_reducible refine Touches.andThen ?_ (by with_reducible exact applyParseHashTableSet_touch ..) ?_
    | with_reducible refine Touches.andThen ?_ (by with_reducible exact applyParseFragConfig_touch ..) ?_
    | with_reducible refine Touches.andThen ?_ (by with_reducible exact applyTmQueueAlloc_touch ..) ?_
    | with_reducible refine Touches.andThen ?_ (by with_reducible exact applyTmQueueSet_touch ..) ?_
    | with_reducible refine Touches.andThen ?_ (by with_reducible exact applyTmQueueFree_touch ..) ?_
    | with_reducible refine Touches.andThen ?_ (by with_reducible exact applyTmGroupSet_touch ..) ?_
    | with_reducible refine Touches.andThen ?_ (by with_reducible exact applyTmShaperSet_touch ..) ?_
    | with_reducible refine Touches.andThen ?_ (by with_reducible exact applyTmRootSet_touch ..) ?_
    | with_reducible refine Touches.andThen ?_ (by with_reducible exact applyTmPolicerSet_touch ..) ?_
    | with_reducible refine Touches.andThen ?_ (by with_reducible exact applyTmMeterSet_touch ..) ?_
    | with_reducible refine Touches.andThen ?_ (by with_reducible exact applyTmMeterMapSet_touch ..) ?_
    | with_reducible refine Touches.andThen ?_ (by with_reducible exact applyTmBufConfig_touch ..) ?_
    | with_reducible refine Touches.andThen ?_ (by with_reducible exact applyIntegScrubSet_touch ..) ?_
    | with_reducible refine Touches.andThen ?_ (by with_reducible exact applyIntegFlip_touch ..) ?_
    | with_reducible refine Touches.andThen ?_ (by with_reducible exact applyIntegDigestConfig_touch ..) ?_
    | with_reducible refine Touches.andThen ?_ (by with_reducible exact applyIntegDigestDump_touch ..) ?_
    | with_reducible refine Touches.andThen ?_ (by with_reducible exact applyIntegRemap_touch ..) ?_
    | with_reducible refine Touches.andThen ?_ (by with_reducible exact applyCascConfig_touch ..) ?_
    | with_reducible refine Touches.andThen ?_ (by with_reducible exact applyCascConfBind_touch ..) ?_
    | with_reducible refine Touches.andThen ?_ (by with_reducible exact applyCascTwinSet_touch ..) ?_
    | with_reducible refine Touches.andThen ?_ (by with_reducible exact applyCascTakeover_touch ..) ?_
    | with_reducible refine Touches.andThen ?_ (by with_reducible exact applyCascSaPair_touch ..) ?_
    | with_reducible refine Touches.andThen ?_ (by with_reducible exact applyCtrlFwSwap_touch ..) ?_
    | refine Touches.andThen ?_ (applyCtrlFwSwap_touch' (h_ := by assumption) ..) ?_
    | with_reducible refine Touches.andThen ?_ (by with_reducible exact applyPwrSeason_touch ..) ?_
    | refine Touches.andThen ?_ (applyPwrSeason_touch' (h_ := by assumption) ..) ?_
    | with_reducible refine Touches.andThen ?_ (by with_reducible exact thaw_touch ..) ?_
    | with_reducible refine Touches.andThen ?_ (by with_reducible exact applyPwrWinter_touch ..) ?_
    | refine Touches.andThen ?_ (applyPwrWinter_touch' (h_ := by assumption) ..) ?_
    | with_reducible refine Touches.andThen ?_ (by with_reducible exact applyPwrDomainSet_touch ..) ?_
    | refine Touches.andThen ?_ (applyPwrDomainSet_touch' (h_ := by assumption) ..) ?_
    | with_reducible refine Touches.andThen ?_ (by with_reducible exact applyPwrAlarmSet_touch ..) ?_
    | with_reducible refine Touches.andThen ?_ (by with_reducible exact applyPwrAutumnConfig_touch ..) ?_
    | with_reducible refine Touches.andThen ?_ (by with_reducible exact onConf_touch ..) ?_
    | with_reducible refine Touches.andThen ?_ (by with_reducible exact onLeg_touch ..) ?_
    | with_reducible refine Touches.andThen ?_ (by with_reducible exact setLegSt_touch ..) ?_
    | with_reducible refine Touches.andThen ?_ (by with_reducible exact onAud_touch ..) ?_
    | with_reducible refine Touches.andThen ?_ (by with_reducible exact growReserve_touch ..) ?_
    | with_reducible refine Touches.andThen ?_ (by with_reducible exact forgetInput_touch ..) ?_
    | with_reducible refine Touches.andThen ?_ (by with_reducible exact onEng_touch ..) ?_
    | with_reducible refine Touches.andThen ?_ (by with_reducible exact onFlock_touch ..) ?_
    | with_reducible refine Touches.andThen ?_ (by with_reducible exact imageStored_touch ..) ?_
    | with_reducible refine Touches.andThen ?_ (by with_reducible exact chargeClass_touch ..) ?_
    | with_reducible refine Touches.andThen ?_ (by with_reducible exact onPwr_touch ..) ?_
    | with_reducible refine Touches.andThen ?_ (by with_reducible exact onAux_touch ..) ?_
    | with_reducible refine Touches.andThen ?_ (by with_reducible exact onPort_touch ..) ?_
    | with_reducible refine Touches.andThen ?_ (by with_reducible exact enterAutumn_touch ..) ?_
    | with_reducible refine Touches.andThen ?_ (by with_reducible exact ungateAll_touch ..) ?_
    | with_reducible refine Touches.andThen ?_ (by with_reducible exact domainOff_touch ..) ?_
    | with_reducible refine Touches.andThen ?_ (by with_reducible exact addWait_touch ..) ?_
    | with_reducible refine Touches.andThen ?_ (by with_reducible exact domainOn_touch ..) ?_
    | split
    | dsimp -zeta only
    | (split at ‹ite _ _ _ = (_, _)›)
    | (cases ‹(_, _) = (_, _)›)

theorem applyOf_touch' (c : KCmd) (pick : Nat) (ctx : ReplyCtx) (data : List Nat) (d : Dev) {e_ x1} (h_ : applyOf c pick ctx data d = (e_, x1)) : Touches [.out, .memOut, .sys, .rings, .bell, .tick, .past, .fold, .pwr, .aux, .pins, .parse, .tm, .cli, .flock, .acc, .media, .aud, .vid, .imc, .casc, .lane, .integ] d e_ := by
  have := applyOf_touch c pick ctx data d; rw [h_] at this; exact this

end Sys2Proof.Machine
end

