-- ==== Sys2Proof/Laws/TouchControl.lean ====
section
/-! SUPPORT. Which parts of the device the operations of Machine/Control.lean touch. -/

namespace Sys2Proof.Machine

set_option linter.all false
set_option Elab.async false

theorem settleNew_touch (c : KCmd) (pick : Nat) (d : Dev) :
    Touches [.out, .memOut, .sys, .rings, .sess, .past, .parse, .media, .aud, .vid, .imc] d (settleNew c pick d) := by
  unfold settleNew
  repeat' first
    | with_reducible assumption
    | with_reducible exact Touches.refl
    | ((try lift_lets -underBinder); intro d_; refine (have hd_ : Touches [.out, .memOut, .sys, .rings, .sess, .past, .parse, .media, .aud, .vid, .imc] d d_ := ?_; ?_); (on_goal 1 => try dsimp only [d_]); (on_goal 2 => clear_value d_))
    | ((try lift_lets -underBinder); intro d_; try clear_value d_)
    | exact Eq.refl true
    | with_reducible refine Touches.andThen ?_ (by with_reducible exact failLeg_touch ..) ?_
    | with_reducible refine Touches.andThen ?_ (by with_reducible exact failMix_touch ..) ?_
    | with_reducible refine Touches.andThen ?_ (by with_reducible exact failRoute_touch ..) ?_
    | with_reducible refine Touches.andThen ?_ (by with_reducible exact failTrunk_touch ..) ?_
    | split
    | dsimp -zeta only
    | (split at ‹ite _ _ _ = (_, _)›)
    | (cases ‹(_, _) = (_, _)›)

theorem postDone_touch (t : Staged) (due : Bool) (d : Dev) :
    Touches [.out, .sys, .rings, .sess] d (postDone t due d) := by
  unfold postDone
  repeat' first
    | with_reducible assumption
    | with_reducible exact Touches.refl
    | exact Eq.refl true
    | with_reducible refine Touches.andThen ?_ (by with_reducible exact epochDone_touch ..) ?_
    | with_reducible refine Touches.andThen ?_ (by with_reducible exact answer_touch ..) ?_
    | split
    | dsimp -zeta only
    | (split at ‹ite _ _ _ = (_, _)›)
    | (cases ‹(_, _) = (_, _)›)

theorem postAtBell_touch (d : Dev) :
    Touches [.out, .sys, .rings, .sess] d (postAtBell d) := by
  unfold postAtBell
  repeat' first
    | with_reducible assumption
    | with_reducible exact Touches.refl
    | ((try lift_lets -underBinder); intro d_; refine (have hd_ : Touches [.out, .sys, .rings, .sess] d d_ := ?_; ?_); (on_goal 1 => try dsimp only [d_]); (on_goal 2 => clear_value d_))
    | ((try lift_lets -underBinder); intro d_; try clear_value d_)
    | with_reducible apply Touches.foldl
    | (intro _ _ _)
    | exact Eq.refl true
    | with_reducible refine onSys_step ?_ ?_ ?_ ?_ ?_ ?_
    | with_reducible refine Touches.andThen ?_ (by with_reducible exact answer_touch ..) ?_
    | with_reducible refine Touches.andThen ?_ (by with_reducible exact epochDone_touch ..) ?_
    | exact partOr_left rfl
    | exact .inr rfl
    | exact .inr (by (repeat' split) <;> rfl)
    | split
    | dsimp -zeta only
    | (split at ‹ite _ _ _ = (_, _)›)
    | (cases ‹(_, _) = (_, _)›)

end Sys2Proof.Machine
end

