-- ==== Sys2Proof/Laws/TouchBar0.lean ====
section
/-! SUPPORT. Which parts of the device the operations of Machine/Bar0.lean touch. -/

namespace Sys2Proof.Machine

set_option linter.all false
set_option Elab.async false

theorem bar0Read_touch (addr : Nat) (d : Dev) :
    Touches [.out, .sys, .bell, .aux, .parse, .tm, .cli, .flock, .acc, .aud, .vid, .imc, .casc, .lane, .drove, .integ] d (bar0Read addr d) := by
  unfold bar0Read
  repeat' first
    | with_reducible assumption
    | with_reducible exact Touches.refl
    | ((try lift_lets -underBinder); intro d_; refine (have hd_ : Touches [.out, .sys, .bell, .aux, .parse, .tm, .cli, .flock, .acc, .aud, .vid, .imc, .casc, .lane, .drove, .integ] d d_ := ?_; ?_); (on_goal 1 => try dsimp only [d_]); (on_goal 2 => clear_value d_))
    | ((try lift_lets -underBinder); intro d_; try clear_value d_)
    | exact Eq.refl true
    | with_reducible refine Touches.andThen ?_ (by with_reducible exact emitRead_touch ..) ?_
    | with_reducible refine Touches.andThen ?_ (hostReads_touch (ps := [.out, .sys, .bell, .aux, .parse, .tm, .cli, .flock, .acc, .aud, .vid, .imc, .casc, .lane, .drove, .integ]) ?_ ?_ ..) ?_
    | (intro _)
    | with_reducible refine Touches.andThen ?_ (by with_reducible exact tickLoRead_touch ..) ?_
    | with_reducible refine Touches.andThen ?_ (by with_reducible exact sleepCntLoRead_touch ..) ?_
    | with_reducible refine Touches.andThen ?_ (by with_reducible exact tsqW3Read_touch ..) ?_
    | with_reducible refine Touches.andThen ?_ (by with_reducible exact cntLoRead_touch ..) ?_
    | with_reducible refine Touches.andThen ?_ (by with_reducible exact regReadClear_touch ..) ?_
    | split
    | dsimp -zeta only
    | (split at ‹ite _ _ _ = (_, _)›)
    | (cases ‹(_, _) = (_, _)›)

theorem writeDropped_touch (addr : Nat) (d : Dev) :
    Touches [.out, .sys] d (writeDropped addr d) := by
  unfold writeDropped
  repeat' first
    | with_reducible assumption
    | with_reducible exact Touches.refl
    | exact Eq.refl true
    | with_reducible refine onSys_step ?_ ?_ ?_ ?_ ?_ ?_
    | with_reducible refine Touches.andThen ?_ (by with_reducible exact raiseLeaf_touch ..) ?_
    | exact partOr_left rfl
    | exact .inr rfl
    | exact .inr (by (repeat' split) <;> rfl)
    | split
    | dsimp -zeta only
    | (split at ‹ite _ _ _ = (_, _)›)
    | (cases ‹(_, _) = (_, _)›)

theorem bar0Write_touch (addr : Nat) (v : Word) (d : Dev) :
    Touches [.out, .sys, .rings, .bell, .pwr, .tm, .cli, .acc, .aud, .imc, .lane, .drove, .integ] d (bar0Write addr v d) := by
  unfold bar0Write
  repeat' first
    | with_reducible assumption
    | with_reducible exact Touches.refl
    | ((try lift_lets -underBinder); intro d_; refine (have hd_ : Touches [.out, .sys, .rings, .bell, .pwr, .tm, .cli, .acc, .aud, .imc, .lane, .drove, .integ] d d_ := ?_; ?_); (on_goal 1 => try dsimp only [d_]); (on_goal 2 => clear_value d_))
    | ((try lift_lets -underBinder); intro d_; try clear_value d_)
    | exact Eq.refl true
    | with_reducible refine Touches.andThen ?_ (hostWrites_touch (ps := [.out, .sys, .rings, .bell, .pwr, .tm, .cli, .acc, .aud, .imc, .lane, .drove, .integ]) ?_ ?_ ..) ?_
    | (intro _)
    | with_reducible refine Touches.andThen ?_ (by with_reducible exact writeDropped_touch ..) ?_
    | with_reducible refine Touches.andThen ?_ (by with_reducible exact regWrite_touch ..) ?_
    | split
    | dsimp -zeta only
    | (split at ‹ite _ _ _ = (_, _)›)
    | (cases ‹(_, _) = (_, _)›)

end Sys2Proof.Machine
end

