-- ==== Sys2Proof/Laws/Events.lean ====
section
/-! SUPPORT. For each command that is not a Kervon packet: the parts of the device it may change, and the device it leaves. -/

namespace Sys2Proof.Machine
set_option linter.all false
set_option Elab.async false

/-- Every command is one change of the device, with the writes to Pasture that it posts. -/
theorem nextDev_commit (s : State) (f : Dev → Dev) : nextDev s f = s.commit (f s.start) := rfl

theorem nextWith_commit (s : State) (f : Memory → Dev → Dev) : nextWith s f = s.commit (f s.mem s.start) := rfl

theorem keeps_nextDev {ps : List Part} {s : State} {f : Dev → Dev} (h : Touches ps s.start (f s.start)) (hm : ps.contains .memOut = false) :
    Ends (nextDev s f) (Keeps ps s) := by
  have hm0 : (f s.start).memOut = [] := h.same .memOut hm
  refine ⟨_, rfl, rfl, ?_, ?_⟩
  · show memWrites s.mem (f s.start).memOut = s.mem
    rw [hm0]; rfl
  · constructor
    intro p hp
    by_cases hq : p = .memOut
    · subst hq; show _ = _; show ([] : List (Nat × List Byte)) = _; rfl
    · have := h.same p hp
      cases p <;> first | exact this | exact absurd rfl hq

theorem t_fragAgeExpiry (d : Dev)  : Touches [.parse] d ((fragAge) d) := by
  beta_reduce
  repeat' first
    | with_reducible assumption
    | with_reducible exact Touches.refl
    | ((try lift_lets -underBinder); intro d_; refine (have hd_ : Touches [.parse] d d_ := ?_; ?_); (on_goal 1 => try dsimp only [d_]); (on_goal 2 => clear_value d_))
    | ((try lift_lets -underBinder); intro d_; try clear_value d_)
    | exact Eq.refl true
    | with_reducible refine Touches.andThen ?_ (by with_reducible exact fragAge_touch ..) ?_
    | split
    | dsimp -zeta only
    | (split at ‹ite _ _ _ = (_, _)›)
    | (cases ‹(_, _) = (_, _)›)

theorem b_fragAgeExpiry (s : State)  : exec .fragAgeExpiry s = s.become ((fragAge) s.start) := by
  have hm_ : ((fragAge) s.start).memOut = [] := (t_fragAgeExpiry s.start ).same .memOut rfl
  simp only [exec, execFragAgeExpiry]
  exact nextDev_become s (fragAge) hm_

theorem f_fragAgeExpiry : ∀ (s : State), Ends (exec .fragAgeExpiry s) (Keeps [.parse] s) := by
  intro s 
  simp only [exec, execFragAgeExpiry]
  exact keeps_nextDev (f := (fragAge)) (t_fragAgeExpiry s.start ) rfl

theorem t_queueFreeDrainEnd (d : Dev) (q : Nat) : Touches [.out, .sys, .tm] d ((queueDrainEnd q) d) := by
  beta_reduce
  repeat' first
    | with_reducible assumption
    | with_reducible exact Touches.refl
    | ((try lift_lets -underBinder); intro d_; refine (have hd_ : Touches [.out, .sys, .tm] d d_ := ?_; ?_); (on_goal 1 => try dsimp only [d_]); (on_goal 2 => clear_value d_))
    | ((try lift_lets -underBinder); intro d_; try clear_value d_)
    | exact Eq.refl true
    | with_reducible refine Touches.andThen ?_ (by with_reducible exact queueDrainEnd_touch ..) ?_
    | split
    | dsimp -zeta only
    | (split at ‹ite _ _ _ = (_, _)›)
    | (cases ‹(_, _) = (_, _)›)

theorem b_queueFreeDrainEnd (s : State) (q : Nat) : exec (.queueFreeDrainEnd q) s = s.become ((queueDrainEnd q) s.start) := by
  have hm_ : ((queueDrainEnd q) s.start).memOut = [] := (t_queueFreeDrainEnd s.start q).same .memOut rfl
  simp only [exec, execQueueFreeDrainEnd]
  exact nextDev_become s (queueDrainEnd q) hm_

theorem f_queueFreeDrainEnd : ∀ (s : State) (q : Nat), Ends (exec (.queueFreeDrainEnd q) s) (Keeps [.out, .sys, .tm] s) := by
  intro s q
  simp only [exec, execQueueFreeDrainEnd]
  exact keeps_nextDev (f := (queueDrainEnd q)) (t_queueFreeDrainEnd s.start q) rfl

theorem t_hwmReset (d : Dev) (queue : Nat) (go all : Bool) : Touches [.out, .sys, .tm] d ((hostWrites 15 0x700020 (hwmReset queue go all)) d) := by
  beta_reduce
  repeat' first
    | with_reducible assumption
    | with_reducible exact Touches.refl
    | ((try lift_lets -underBinder); intro d_; refine (have hd_ : Touches [.out, .sys, .tm] d d_ := ?_; ?_); (on_goal 1 => try dsimp only [d_]); (on_goal 2 => clear_value d_))
    | ((try lift_lets -underBinder); intro d_; try clear_value d_)
    | exact Eq.refl true
    | with_reducible refine Touches.andThen ?_ (hostWrites_touch (ps := [.out, .sys, .tm]) ?_ ?_ ..) ?_
    | (intro _)
    | with_reducible refine Touches.andThen ?_ (by with_reducible exact hwmReset_touch ..) ?_
    | split
    | dsimp -zeta only
    | (split at ‹ite _ _ _ = (_, _)›)
    | (cases ‹(_, _) = (_, _)›)

theorem b_hwmReset (s : State) (queue : Nat) (go all : Bool) : exec (.hwmReset queue go all) s = s.become ((hostWrites 15 0x700020 (hwmReset queue go all)) s.start) := by
  have hm_ : ((hostWrites 15 0x700020 (hwmReset queue go all)) s.start).memOut = [] := (t_hwmReset s.start queue go all).same .memOut rfl
  simp only [exec, execHwmReset]
  exact nextDev_become s (hostWrites 15 0x700020 (hwmReset queue go all)) hm_

theorem f_hwmReset : ∀ (s : State) (queue : Nat) (go all : Bool), Ends (exec (.hwmReset queue go all) s) (Keeps [.out, .sys, .tm] s) := by
  intro s queue go all
  simp only [exec, execHwmReset]
  exact keeps_nextDev (f := (hostWrites 15 0x700020 (hwmReset queue go all))) (t_hwmReset s.start queue go all) rfl

theorem t_bellSnap (d : Dev) (cycles : Nat) : Touches [.out, .sys, .bell] d ((fun (d : Dev) => hostWrites 3 0x100010 bellSnap (advanceC d cycles)) d) := by
  beta_reduce
  repeat' first
    | with_reducible assumption
    | with_reducible exact Touches.refl
    | ((try lift_lets -underBinder); intro d_; refine (have hd_ : Touches [.out, .sys, .bell] d d_ := ?_; ?_); (on_goal 1 => try dsimp only [d_]); (on_goal 2 => clear_value d_))
    | ((try lift_lets -underBinder); intro d_; try clear_value d_)
    | exact Eq.refl true
    | with_reducible refine Touches.andThen ?_ (hostWrites_touch (ps := [.out, .sys, .bell]) ?_ ?_ ..) ?_
    | (intro _)
    | with_reducible refine Touches.andThen ?_ (by with_reducible exact bellSnap_touch ..) ?_
    | with_reducible refine Touches.andThen ?_ (by with_reducible exact advanceC_touch ..) ?_
    | split
    | dsimp -zeta only
    | (split at ‹ite _ _ _ = (_, _)›)
    | (cases ‹(_, _) = (_, _)›)

theorem b_bellSnap (s : State) (cycles : Nat) : exec (.bellSnap cycles) s = s.become ((fun (d : Dev) => hostWrites 3 0x100010 bellSnap (advanceC d cycles)) s.start) := by
  have hm_ : ((fun (d : Dev) => hostWrites 3 0x100010 bellSnap (advanceC d cycles)) s.start).memOut = [] := (t_bellSnap s.start cycles).same .memOut rfl
  simp only [exec, execBellSnap]
  exact nextDev_become s (fun (d : Dev) => hostWrites 3 0x100010 bellSnap (advanceC d cycles)) hm_

theorem f_bellSnap : ∀ (s : State) (cycles : Nat), Ends (exec (.bellSnap cycles) s) (Keeps [.out, .sys, .bell] s) := by
  intro s cycles
  simp only [exec, execBellSnap]
  exact keeps_nextDev (f := (fun (d : Dev) => hostWrites 3 0x100010 bellSnap (advanceC d cycles))) (t_bellSnap s.start cycles) rfl

theorem t_tickLoRead (d : Dev)  : Touches [.out, .sys, .bell] d ((hostReads 3 0x100008 tickLoRead) d) := by
  beta_reduce
  repeat' first
    | with_reducible assumption
    | with_reducible exact Touches.refl
    | ((try lift_lets -underBinder); intro d_; refine (have hd_ : Touches [.out, .sys, .bell] d d_ := ?_; ?_); (on_goal 1 => try dsimp only [d_]); (on_goal 2 => clear_value d_))
    | ((try lift_lets -underBinder); intro d_; try clear_value d_)
    | exact Eq.refl true
    | with_reducible refine Touches.andThen ?_ (hostReads_touch (ps := [.out, .sys, .bell]) ?_ ?_ ..) ?_
    | (intro _)
    | with_reducible refine Touches.andThen ?_ (by with_reducible exact tickLoRead_touch ..) ?_
    | split
    | dsimp -zeta only
    | (split at ‹ite _ _ _ = (_, _)›)
    | (cases ‹(_, _) = (_, _)›)

theorem b_tickLoRead (s : State)  : exec .tickLoRead s = s.become ((hostReads 3 0x100008 tickLoRead) s.start) := by
  have hm_ : ((hostReads 3 0x100008 tickLoRead) s.start).memOut = [] := (t_tickLoRead s.start ).same .memOut rfl
  simp only [exec, execTickLoRead]
  exact nextDev_become s (hostReads 3 0x100008 tickLoRead) hm_

theorem f_tickLoRead : ∀ (s : State), Ends (exec .tickLoRead s) (Keeps [.out, .sys, .bell] s) := by
  intro s 
  simp only [exec, execTickLoRead]
  exact keeps_nextDev (f := (hostReads 3 0x100008 tickLoRead)) (t_tickLoRead s.start ) rfl

theorem t_sleepCntLoRead (d : Dev) (crystal : Nat) : Touches [.out, .sys, .bell] d ((fun (d : Dev) => hostReads 0 0x100300 sleepCntLoRead (advanceCrystal d crystal)) d) := by
  beta_reduce
  repeat' first
    | with_reducible assumption
    | with_reducible exact Touches.refl
    | ((try lift_lets -underBinder); intro d_; refine (have hd_ : Touches [.out, .sys, .bell] d d_ := ?_; ?_); (on_goal 1 => try dsimp only [d_]); (on_goal 2 => clear_value d_))
    | ((try lift_lets -underBinder); intro d_; try clear_value d_)
    | exact Eq.refl true
    | with_reducible refine Touches.andThen ?_ (hostReads_touch (ps := [.out, .sys, .bell]) ?_ ?_ ..) ?_
    | (intro _)
    | with_reducible refine Touches.andThen ?_ (by with_reducible exact sleepCntLoRead_touch ..) ?_
    | with_reducible refine Touches.andThen ?_ (by with_reducible exact advanceCrystal_touch ..) ?_
    | split
    | dsimp -zeta only
    | (split at ‹ite _ _ _ = (_, _)›)
    | (cases ‹(_, _) = (_, _)›)

theorem b_sleepCntLoRead (s : State) (crystal : Nat) : exec (.sleepCntLoRead crystal) s = s.become ((fun (d : Dev) => hostReads 0 0x100300 sleepCntLoRead (advanceCrystal d crystal)) s.start) := by
  have hm_ : ((fun (d : Dev) => hostReads 0 0x100300 sleepCntLoRead (advanceCrystal d crystal)) s.start).memOut = [] := (t_sleepCntLoRead s.start crystal).same .memOut rfl
  simp only [exec, execSleepCntLoRead]
  exact nextDev_become s (fun (d : Dev) => hostReads 0 0x100300 sleepCntLoRead (advanceCrystal d crystal)) hm_

theorem f_sleepCntLoRead : ∀ (s : State) (crystal : Nat), Ends (exec (.sleepCntLoRead crystal) s) (Keeps [.out, .sys, .bell] s) := by
  intro s crystal
  simp only [exec, execSleepCntLoRead]
  exact keeps_nextDev (f := (fun (d : Dev) => hostReads 0 0x100300 sleepCntLoRead (advanceCrystal d crystal))) (t_sleepCntLoRead s.start crystal) rfl

theorem t_tsqW3Read (d : Dev) (group : Nat) : Touches [.out, .sys, .bell] d ((fun (d : Dev) => if group < 4 then hostReads 3 (0x10010C + 0x20 * group) (tsqW3Read group) d else d) d) := by
  beta_reduce
  repeat' first
    | with_reducible assumption
    | with_reducible exact Touches.refl
    | ((try lift_lets -underBinder); intro d_; refine (have hd_ : Touches [.out, .sys, .bell] d d_ := ?_; ?_); (on_goal 1 => try dsimp only [d_]); (on_goal 2 => clear_value d_))
    | ((try lift_lets -underBinder); intro d_; try clear_value d_)
    | exact Eq.refl true
    | with_reducible refine Touches.andThen ?_ (hostReads_touch (ps := [.out, .sys, .bell]) ?_ ?_ ..) ?_
    | (intro _)
    | with_reducible refine Touches.andThen ?_ (by with_reducible exact tsqW3Read_touch ..) ?_
    | split
    | dsimp -zeta only
    | (split at ‹ite _ _ _ = (_, _)›)
    | (cases ‹(_, _) = (_, _)›)

theorem b_tsqW3Read (s : State) (group : Nat) : exec (.tsqW3Read group) s = s.become ((fun (d : Dev) => if group < 4 then hostReads 3 (0x10010C + 0x20 * group) (tsqW3Read group) d else d) s.start) := by
  have hm_ : ((fun (d : Dev) => if group < 4 then hostReads 3 (0x10010C + 0x20 * group) (tsqW3Read group) d else d) s.start).memOut = [] := (t_tsqW3Read s.start group).same .memOut rfl
  simp only [exec, execTsqW3Read]
  exact nextDev_become s (fun (d : Dev) => if group < 4 then hostReads 3 (0x10010C + 0x20 * group) (tsqW3Read group) d else d) hm_

theorem f_tsqW3Read : ∀ (s : State) (group : Nat), Ends (exec (.tsqW3Read group) s) (Keeps [.out, .sys, .bell] s) := by
  intro s group
  simp only [exec, execTsqW3Read]
  exact keeps_nextDev (f := (fun (d : Dev) => if group < 4 then hostReads 3 (0x10010C + 0x20 * group) (tsqW3Read group) d else d)) (t_tsqW3Read s.start group) rfl

theorem t_referenceEvent (d : Dev) (err freq : Int) : Touches [.freeCtr, .out, .sys, .bell] d ((referenceEvent err freq) d) := by
  beta_reduce
  repeat' first
    | with_reducible assumption
    | with_reducible exact Touches.refl
    | ((try lift_lets -underBinder); intro d_; refine (have hd_ : Touches [.freeCtr, .out, .sys, .bell] d d_ := ?_; ?_); (on_goal 1 => try dsimp only [d_]); (on_goal 2 => clear_value d_))
    | ((try lift_lets -underBinder); intro d_; try clear_value d_)
    | exact Eq.refl true
    | with_reducible refine Touches.andThen ?_ (by with_reducible exact referenceEvent_touch ..) ?_
    | split
    | dsimp -zeta only
    | (split at ‹ite _ _ _ = (_, _)›)
    | (cases ‹(_, _) = (_, _)›)

theorem b_referenceEvent (s : State) (err freq : Int) : exec (.referenceEvent err freq) s = s.become ((referenceEvent err freq) s.start) := by
  have hm_ : ((referenceEvent err freq) s.start).memOut = [] := (t_referenceEvent s.start err freq).same .memOut rfl
  simp only [exec, execReferenceEvent]
  exact nextDev_become s (referenceEvent err freq) hm_

theorem f_referenceEvent : ∀ (s : State) (err freq : Int), Ends (exec (.referenceEvent err freq) s) (Keeps [.freeCtr, .out, .sys, .bell] s) := by
  intro s err freq
  simp only [exec, execReferenceEvent]
  exact keeps_nextDev (f := (referenceEvent err freq)) (t_referenceEvent s.start err freq) rfl

theorem t_referenceMissing (d : Dev)  : Touches [.out, .sys, .bell] d ((referenceMissing) d) := by
  beta_reduce
  repeat' first
    | with_reducible assumption
    | with_reducible exact Touches.refl
    | ((try lift_lets -underBinder); intro d_; refine (have hd_ : Touches [.out, .sys, .bell] d d_ := ?_; ?_); (on_goal 1 => try dsimp only [d_]); (on_goal 2 => clear_value d_))
    | ((try lift_lets -underBinder); intro d_; try clear_value d_)
    | exact Eq.refl true
    | with_reducible refine Touches.andThen ?_ (by with_reducible exact referenceMissing_touch ..) ?_
    | split
    | dsimp -zeta only
    | (split at ‹ite _ _ _ = (_, _)›)
    | (cases ‹(_, _) = (_, _)›)

theorem b_referenceMissing (s : State)  : exec .referenceMissing s = s.become ((referenceMissing) s.start) := by
  have hm_ : ((referenceMissing) s.start).memOut = [] := (t_referenceMissing s.start ).same .memOut rfl
  simp only [exec, execReferenceMissing]
  exact nextDev_become s (referenceMissing) hm_

theorem f_referenceMissing : ∀ (s : State), Ends (exec .referenceMissing s) (Keeps [.out, .sys, .bell] s) := by
  intro s 
  simp only [exec, execReferenceMissing]
  exact keeps_nextDev (f := (referenceMissing)) (t_referenceMissing s.start ) rfl

theorem t_todMessage (d : Dev) (slice send ri stamp : Nat) : Touches [.out, .sys, .staged, .bell] d ((todMessage slice send ri stamp) d) := by
  beta_reduce
  repeat' first
    | with_reducible assumption
    | with_reducible exact Touches.refl
    | ((try lift_lets -underBinder); intro d_; refine (have hd_ : Touches [.out, .sys, .staged, .bell] d d_ := ?_; ?_); (on_goal 1 => try dsimp only [d_]); (on_goal 2 => clear_value d_))
    | ((try lift_lets -underBinder); intro d_; try clear_value d_)
    | exact Eq.refl true
    | with_reducible refine Touches.andThen ?_ (by with_reducible exact todMessage_touch ..) ?_
    | split
    | dsimp -zeta only
    | (split at ‹ite _ _ _ = (_, _)›)
    | (cases ‹(_, _) = (_, _)›)

theorem b_todMessage (s : State) (slice send ri stamp : Nat) : exec (.todMessage slice send ri stamp) s = s.become ((todMessage slice send ri stamp) s.start) := by
  have hm_ : ((todMessage slice send ri stamp) s.start).memOut = [] := (t_todMessage s.start slice send ri stamp).same .memOut rfl
  simp only [exec, execTodMessage]
  exact nextDev_become s (todMessage slice send ri stamp) hm_

theorem f_todMessage : ∀ (s : State) (slice send ri stamp : Nat), Ends (exec (.todMessage slice send ri stamp) s) (Keeps [.out, .sys, .staged, .bell] s) := by
  intro s slice send ri stamp
  simp only [exec, execTodMessage]
  exact keeps_nextDev (f := (todMessage slice send ri stamp)) (t_todMessage s.start slice send ri stamp) rfl

theorem t_ppsOutEdge (d : Dev)  : Touches [.bell] d ((fun (d : Dev) => if d.bell.time.timeValid then onErr d (fun e => { e with ppsOut := true }) else d) d) := by
  beta_reduce
  repeat' first
    | with_reducible assumption
    | with_reducible exact Touches.refl
    | ((try lift_lets -underBinder); intro d_; refine (have hd_ : Touches [.bell] d d_ := ?_; ?_); (on_goal 1 => try dsimp only [d_]); (on_goal 2 => clear_value d_))
    | ((try lift_lets -underBinder); intro d_; try clear_value d_)
    | exact Eq.refl true
    | with_reducible refine Touches.andThen ?_ (by with_reducible exact onErr_touch ..) ?_
    | split
    | dsimp -zeta only
    | (split at ‹ite _ _ _ = (_, _)›)
    | (cases ‹(_, _) = (_, _)›)

theorem b_ppsOutEdge (s : State)  : exec .ppsOutEdge s = s.become ((fun (d : Dev) => if d.bell.time.timeValid then onErr d (fun e => { e with ppsOut := true }) else d) s.start) := by
  have hm_ : ((fun (d : Dev) => if d.bell.time.timeValid then onErr d (fun e => { e with ppsOut := true }) else d) s.start).memOut = [] := (t_ppsOutEdge s.start ).same .memOut rfl
  simp only [exec, execPpsOutEdge]
  exact nextDev_become s (fun (d : Dev) => if d.bell.time.timeValid then onErr d (fun e => { e with ppsOut := true }) else d) hm_

theorem f_ppsOutEdge : ∀ (s : State), Ends (exec .ppsOutEdge s) (Keeps [.bell] s) := by
  intro s 
  simp only [exec, execPpsOutEdge]
  exact keeps_nextDev (f := (fun (d : Dev) => if d.bell.time.timeValid then onErr d (fun e => { e with ppsOut := true }) else d)) (t_ppsOutEdge s.start ) rfl

theorem t_ppsOutFall (d : Dev)  : Touches [.bell] d ((fun (d : Dev) => onErr d (fun e => { e with ppsOut := false })) d) := by
  beta_reduce
  repeat' first
    | with_reducible assumption
    | with_reducible exact Touches.refl
    | ((try lift_lets -underBinder); intro d_; refine (have hd_ : Touches [.bell] d d_ := ?_; ?_); (on_goal 1 => try dsimp only [d_]); (on_goal 2 => clear_value d_))
    | ((try lift_lets -underBinder); intro d_; try clear_value d_)
    | exact Eq.refl true
    | with_reducible refine Touches.andThen ?_ (by with_reducible exact onErr_touch ..) ?_
    | split
    | dsimp -zeta only
    | (split at ‹ite _ _ _ = (_, _)›)
    | (cases ‹(_, _) = (_, _)›)

theorem b_ppsOutFall (s : State)  : exec .ppsOutFall s = s.become ((fun (d : Dev) => onErr d (fun e => { e with ppsOut := false })) s.start) := by
  have hm_ : ((fun (d : Dev) => onErr d (fun e => { e with ppsOut := false })) s.start).memOut = [] := (t_ppsOutFall s.start ).same .memOut rfl
  simp only [exec, execPpsOutFall]
  exact nextDev_become s (fun (d : Dev) => onErr d (fun e => { e with ppsOut := false })) hm_

theorem f_ppsOutFall : ∀ (s : State), Ends (exec .ppsOutFall s) (Keeps [.bell] s) := by
  intro s 
  simp only [exec, execPpsOutFall]
  exact keeps_nextDev (f := (fun (d : Dev) => onErr d (fun e => { e with ppsOut := false }))) (t_ppsOutFall s.start ) rfl

theorem t_sleepCalMeasure (d : Dev) (cycles : Nat) : Touches [.bell] d ((fun (d : Dev) => sleepCal (advanceC d cycles)) d) := by
  beta_reduce
  repeat' first
    | with_reducible assumption
    | with_reducible exact Touches.refl
    | ((try lift_lets -underBinder); intro d_; refine (have hd_ : Touches [.bell] d d_ := ?_; ?_); (on_goal 1 => try dsimp only [d_]); (on_goal 2 => clear_value d_))
    | ((try lift_lets -underBinder); intro d_; try clear_value d_)
    | exact Eq.refl true
    | with_reducible refine Touches.andThen ?_ (by with_reducible exact sleepCal_touch ..) ?_
    | with_reducible refine Touches.andThen ?_ (by with_reducible exact advanceC_touch ..) ?_
    | split
    | dsimp -zeta only
    | (split at ‹ite _ _ _ = (_, _)›)
    | (cases ‹(_, _) = (_, _)›)

theorem b_sleepCalMeasure (s : State) (cycles : Nat) : exec (.sleepCalMeasure cycles) s = s.become ((fun (d : Dev) => sleepCal (advanceC d cycles)) s.start) := by
  have hm_ : ((fun (d : Dev) => sleepCal (advanceC d cycles)) s.start).memOut = [] := (t_sleepCalMeasure s.start cycles).same .memOut rfl
  simp only [exec, execSleepCalMeasure]
  exact nextDev_become s (fun (d : Dev) => sleepCal (advanceC d cycles)) hm_

theorem f_sleepCalMeasure : ∀ (s : State) (cycles : Nat), Ends (exec (.sleepCalMeasure cycles) s) (Keeps [.bell] s) := by
  intro s cycles
  simp only [exec, execSleepCalMeasure]
  exact keeps_nextDev (f := (fun (d : Dev) => sleepCal (advanceC d cycles))) (t_sleepCalMeasure s.start cycles) rfl

theorem t_bellMarkerRx (d : Dev) (h : CascHdr) (m : Marker) (residence : Nat) : Touches [.out, .sys, .bell, .casc] d ((markerRx h m residence) d) := by
  beta_reduce
  repeat' first
    | with_reducible assumption
    | with_reducible exact Touches.refl
    | ((try lift_lets -underBinder); intro d_; refine (have hd_ : Touches [.out, .sys, .bell, .casc] d d_ := ?_; ?_); (on_goal 1 => try dsimp only [d_]); (on_goal 2 => clear_value d_))
    | ((try lift_lets -underBinder); intro d_; try clear_value d_)
    | exact Eq.refl true
    | with_reducible refine Touches.andThen ?_ (by with_reducible exact markerRx_touch ..) ?_
    | split
    | dsimp -zeta only
    | (split at ‹ite _ _ _ = (_, _)›)
    | (cases ‹(_, _) = (_, _)›)

theorem b_bellMarkerRx (s : State) (h : CascHdr) (m : Marker) (residence : Nat) : exec (.bellMarkerRx h m residence) s = s.become ((markerRx h m residence) s.start) := by
  have hm_ : ((markerRx h m residence) s.start).memOut = [] := (t_bellMarkerRx s.start h m residence).same .memOut rfl
  simp only [exec, execBellMarkerRx]
  exact nextDev_become s (markerRx h m residence) hm_

theorem f_bellMarkerRx : ∀ (s : State) (h : CascHdr) (m : Marker) (residence : Nat), Ends (exec (.bellMarkerRx h m residence) s) (Keeps [.out, .sys, .bell, .casc] s) := by
  intro s h m residence
  simp only [exec, execBellMarkerRx]
  exact keeps_nextDev (f := (markerRx h m residence)) (t_bellMarkerRx s.start h m residence) rfl

theorem t_successionClaim (d : Dev)  : Touches [.out, .bell, .casc] d ((successionClaim) d) := by
  beta_reduce
  repeat' first
    | with_reducible assumption
    | with_reducible exact Touches.refl
    | ((try lift_lets -underBinder); intro d_; refine (have hd_ : Touches [.out, .bell, .casc] d d_ := ?_; ?_); (on_goal 1 => try dsimp only [d_]); (on_goal 2 => clear_value d_))
    | ((try lift_lets -underBinder); intro d_; try clear_value d_)
    | exact Eq.refl true
    | with_reducible refine Touches.andThen ?_ (by with_reducible exact successionClaim_touch ..) ?_
    | split
    | dsimp -zeta only
    | (split at ‹ite _ _ _ = (_, _)›)
    | (cases ‹(_, _) = (_, _)›)

theorem b_successionClaim (s : State)  : exec .successionClaim s = s.become ((successionClaim) s.start) := by
  have hm_ : ((successionClaim) s.start).memOut = [] := (t_successionClaim s.start ).same .memOut rfl
  simp only [exec, execSuccessionClaim]
  exact nextDev_become s (successionClaim) hm_

theorem f_successionClaim : ∀ (s : State), Ends (exec .successionClaim s) (Keeps [.out, .bell, .casc] s) := by
  intro s 
  simp only [exec, execSuccessionClaim]
  exact keeps_nextDev (f := (successionClaim)) (t_successionClaim s.start ) rfl

theorem t_cascDelayMeasure (d : Dev) (port : Nat) (t1 t2 t3 t4 : Int) : Touches [.out, .bell] d ((fun (d : Dev) =>
    if port > 1 then d
    else
      let a := portAdjOf d (9 + port)
      let v := rdiv (t4 + a - (t1 + a) - (t3 - t2)) 2 + (tgetD d.bell.succ.asym port 0).toInt
      emit (onSucc d (fun s => { s with delay := tset s.delay port (BitVec.ofInt 32 v) })) .delayExchange port [v]) d) := by
  beta_reduce
  repeat' first
    | with_reducible assumption
    | with_reducible exact Touches.refl
    | ((try lift_lets -underBinder); intro d_; refine (have hd_ : Touches [.out, .bell] d d_ := ?_; ?_); (on_goal 1 => try dsimp only [d_]); (on_goal 2 => clear_value d_))
    | ((try lift_lets -underBinder); intro d_; try clear_value d_)
    | exact Eq.refl true
    | with_reducible refine Touches.andThen ?_ (by with_reducible exact emit_touch ..) ?_
    | with_reducible refine Touches.andThen ?_ (by with_reducible exact onSucc_touch ..) ?_
    | split
    | dsimp -zeta only
    | (split at ‹ite _ _ _ = (_, _)›)
    | (cases ‹(_, _) = (_, _)›)

theorem b_cascDelayMeasure (s : State) (port : Nat) (t1 t2 t3 t4 : Int) : exec (.cascDelayMeasure port t1 t2 t3 t4) s = s.become ((fun (d : Dev) =>
    if port > 1 then d
    else
      let a := portAdjOf d (9 + port)
      let v := rdiv (t4 + a - (t1 + a) - (t3 - t2)) 2 + (tgetD d.bell.succ.asym port 0).toInt
      emit (onSucc d (fun s => { s with delay := tset s.delay port (BitVec.ofInt 32 v) })) .delayExchange port [v]) s.start) := by
  have hm_ : ((fun (d : Dev) =>
    if port > 1 then d
    else
      let a := portAdjOf d (9 + port)
      let v := rdiv (t4 + a - (t1 + a) - (t3 - t2)) 2 + (tgetD d.bell.succ.asym port 0).toInt
      emit (onSucc d (fun s => { s with delay := tset s.delay port (BitVec.ofInt 32 v) })) .delayExchange port [v]) s.start).memOut = [] := (t_cascDelayMeasure s.start port t1 t2 t3 t4).same .memOut rfl
  simp only [exec, execCascDelayMeasure]
  exact nextDev_become s (fun (d : Dev) =>
    if port > 1 then d
    else
      let a := portAdjOf d (9 + port)
      let v := rdiv (t4 + a - (t1 + a) - (t3 - t2)) 2 + (tgetD d.bell.succ.asym port 0).toInt
      emit (onSucc d (fun s => { s with delay := tset s.delay port (BitVec.ofInt 32 v) })) .delayExchange port [v]) hm_

theorem f_cascDelayMeasure : ∀ (s : State) (port : Nat) (t1 t2 t3 t4 : Int), Ends (exec (.cascDelayMeasure port t1 t2 t3 t4) s) (Keeps [.out, .bell] s) := by
  intro s port t1 t2 t3 t4
  simp only [exec, execCascDelayMeasure]
  exact keeps_nextDev (f := (fun (d : Dev) =>
    if port > 1 then d
    else
      let a := portAdjOf d (9 + port)
      let v := rdiv (t4 + a - (t1 + a) - (t3 - t2)) 2 + (tgetD d.bell.succ.asym port 0).toInt
      emit (onSucc d (fun s => { s with delay := tset s.delay port (BitVec.ofInt 32 v) })) .delayExchange port [v])) (t_cascDelayMeasure s.start port t1 t2 t3 t4) rfl

theorem t_poolHandover (d : Dev)  : Touches [.past] d ((fun (d : Dev) => if d.past.handed then d else poolHandover d) d) := by
  beta_reduce
  repeat' first
    | with_reducible assumption
    | with_reducible exact Touches.refl
    | ((try lift_lets -underBinder); intro d_; refine (have hd_ : Touches [.past] d d_ := ?_; ?_); (on_goal 1 => try dsimp only [d_]); (on_goal 2 => clear_value d_))
    | ((try lift_lets -underBinder); intro d_; try clear_value d_)
    | exact Eq.refl true
    | with_reducible refine Touches.andThen ?_ (by with_reducible exact poolHandover_touch ..) ?_
    | split
    | dsimp -zeta only
    | (split at ‹ite _ _ _ = (_, _)›)
    | (cases ‹(_, _) = (_, _)›)

theorem b_poolHandover (s : State)  : exec .poolHandover s = s.become ((fun (d : Dev) => if d.past.handed then d else poolHandover d) s.start) := by
  have hm_ : ((fun (d : Dev) => if d.past.handed then d else poolHandover d) s.start).memOut = [] := (t_poolHandover s.start ).same .memOut rfl
  simp only [exec, execPoolHandover]
  exact nextDev_become s (fun (d : Dev) => if d.past.handed then d else poolHandover d) hm_

theorem f_poolHandover : ∀ (s : State), Ends (exec .poolHandover s) (Keeps [.past] s) := by
  intro s 
  simp only [exec, execPoolHandover]
  exact keeps_nextDev (f := (fun (d : Dev) => if d.past.handed then d else poolHandover d)) (t_poolHandover s.start ) rfl

theorem t_presencePress (d : Dev)  : Touches [.out, .sys, .fold] d ((presencePress) d) := by
  beta_reduce
  repeat' first
    | with_reducible assumption
    | with_reducible exact Touches.refl
    | ((try lift_lets -underBinder); intro d_; refine (have hd_ : Touches [.out, .sys, .fold] d d_ := ?_; ?_); (on_goal 1 => try dsimp only [d_]); (on_goal 2 => clear_value d_))
    | ((try lift_lets -underBinder); intro d_; try clear_value d_)
    | exact Eq.refl true
    | with_reducible refine Touches.andThen ?_ (by with_reducible exact presencePress_touch ..) ?_
    | split
    | dsimp -zeta only
    | (split at ‹ite _ _ _ = (_, _)›)
    | (cases ‹(_, _) = (_, _)›)

theorem b_presencePress (s : State)  : exec .presencePress s = s.become ((presencePress) s.start) := by
  have hm_ : ((presencePress) s.start).memOut = [] := (t_presencePress s.start ).same .memOut rfl
  simp only [exec, execPresencePress]
  exact nextDev_become s (presencePress) hm_

theorem f_presencePress : ∀ (s : State), Ends (exec .presencePress s) (Keeps [.out, .sys, .fold] s) := by
  intro s 
  simp only [exec, execPresencePress]
  exact keeps_nextDev (f := (presencePress)) (t_presencePress s.start ) rfl

theorem t_presenceWindowExpiry (d : Dev)  : Touches [.fold] d ((fun (d : Dev) => if domOn d 3 ∧ d.bell.tick.toNat < d.fold.guard.endTick then d else onGuard d closeButtonWindow) d) := by
  beta_reduce
  repeat' first
    | with_reducible assumption
    | with_reducible exact Touches.refl
    | ((try lift_lets -underBinder); intro d_; refine (have hd_ : Touches [.fold] d d_ := ?_; ?_); (on_goal 1 => try dsimp only [d_]); (on_goal 2 => clear_value d_))
    | ((try lift_lets -underBinder); intro d_; try clear_value d_)
    | exact Eq.refl true
    | with_reducible refine Touches.andThen ?_ (by with_reducible exact onGuard_touch ..) ?_
    | split
    | dsimp -zeta only
    | (split at ‹ite _ _ _ = (_, _)›)
    | (cases ‹(_, _) = (_, _)›)

theorem b_presenceWindowExpiry (s : State)  : exec .presenceWindowExpiry s = s.become ((fun (d : Dev) => if domOn d 3 ∧ d.bell.tick.toNat < d.fold.guard.endTick then d else onGuard d closeButtonWindow) s.start) := by
  have hm_ : ((fun (d : Dev) => if domOn d 3 ∧ d.bell.tick.toNat < d.fold.guard.endTick then d else onGuard d closeButtonWindow) s.start).memOut = [] := (t_presenceWindowExpiry s.start ).same .memOut rfl
  simp only [exec, execPresenceWindowExpiry]
  exact nextDev_become s (fun (d : Dev) => if domOn d 3 ∧ d.bell.tick.toNat < d.fold.guard.endTick then d else onGuard d closeButtonWindow) hm_

theorem f_presenceWindowExpiry : ∀ (s : State), Ends (exec .presenceWindowExpiry s) (Keeps [.fold] s) := by
  intro s 
  simp only [exec, execPresenceWindowExpiry]
  exact keeps_nextDev (f := (fun (d : Dev) => if domOn d 3 ∧ d.bell.tick.toNat < d.fold.guard.endTick then d else onGuard d closeButtonWindow)) (t_presenceWindowExpiry s.start ) rfl

theorem t_presenceStuck (d : Dev)  : Touches [.out, .sys, .fold] d ((fun (d : Dev) => raiseLeaf (onGuard d (fun g => { closeButtonWindow g with lockout := true })) 22 4) d) := by
  beta_reduce
  repeat' first
    | with_reducible assumption
    | with_reducible exact Touches.refl
    | ((try lift_lets -underBinder); intro d_; refine (have hd_ : Touches [.out, .sys, .fold] d d_ := ?_; ?_); (on_goal 1 => try dsimp only [d_]); (on_goal 2 => clear_value d_))
    | ((try lift_lets -underBinder); intro d_; try clear_value d_)
    | exact Eq.refl true
    | with_reducible refine Touches.andThen ?_ (by with_reducible exact onGuard_touch ..) ?_
    | with_reducible refine Touches.andThen ?_ (by with_reducible exact raiseLeaf_touch ..) ?_
    | split
    | dsimp -zeta only
    | (split at ‹ite _ _ _ = (_, _)›)
    | (cases ‹(_, _) = (_, _)›)

theorem b_presenceStuck (s : State)  : exec .presenceStuck s = s.become ((fun (d : Dev) => raiseLeaf (onGuard d (fun g => { closeButtonWindow g with lockout := true })) 22 4) s.start) := by
  have hm_ : ((fun (d : Dev) => raiseLeaf (onGuard d (fun g => { closeButtonWindow g with lockout := true })) 22 4) s.start).memOut = [] := (t_presenceStuck s.start ).same .memOut rfl
  simp only [exec, execPresenceStuck]
  exact nextDev_become s (fun (d : Dev) => raiseLeaf (onGuard d (fun g => { closeButtonWindow g with lockout := true })) 22 4) hm_

theorem f_presenceStuck : ∀ (s : State), Ends (exec .presenceStuck s) (Keeps [.out, .sys, .fold] s) := by
  intro s 
  simp only [exec, execPresenceStuck]
  exact keeps_nextDev (f := (fun (d : Dev) => raiseLeaf (onGuard d (fun g => { closeButtonWindow g with lockout := true })) 22 4)) (t_presenceStuck s.start ) rfl

theorem t_presenceRelease (d : Dev)  : Touches [.fold] d ((fun (d : Dev) => onGuard d (fun g => { g with pressed := false, lockout := false })) d) := by
  beta_reduce
  repeat' first
    | with_reducible assumption
    | with_reducible exact Touches.refl
    | ((try lift_lets -underBinder); intro d_; refine (have hd_ : Touches [.fold] d d_ := ?_; ?_); (on_goal 1 => try dsimp only [d_]); (on_goal 2 => clear_value d_))
    | ((try lift_lets -underBinder); intro d_; try clear_value d_)
    | exact Eq.refl true
    | with_reducible refine Touches.andThen ?_ (by with_reducible exact onGuard_touch ..) ?_
    | split
    | dsimp -zeta only
    | (split at ‹ite _ _ _ = (_, _)›)
    | (cases ‹(_, _) = (_, _)›)

theorem b_presenceRelease (s : State)  : exec .presenceRelease s = s.become ((fun (d : Dev) => onGuard d (fun g => { g with pressed := false, lockout := false })) s.start) := by
  have hm_ : ((fun (d : Dev) => onGuard d (fun g => { g with pressed := false, lockout := false })) s.start).memOut = [] := (t_presenceRelease s.start ).same .memOut rfl
  simp only [exec, execPresenceRelease]
  exact nextDev_become s (fun (d : Dev) => onGuard d (fun g => { g with pressed := false, lockout := false })) hm_

theorem f_presenceRelease : ∀ (s : State), Ends (exec .presenceRelease s) (Keeps [.fold] s) := by
  intro s 
  simp only [exec, execPresenceRelease]
  exact keeps_nextDev (f := (fun (d : Dev) => onGuard d (fun g => { g with pressed := false, lockout := false }))) (t_presenceRelease s.start ) rfl

theorem t_sealBroken (d : Dev)  : Touches [.out, .sys, .fold] d ((fun (d : Dev) => raiseLeaf (onGuard d (fun g =>
    { g with sealIntact := false, sealHist := true, window := .shut, endTick := 0 })) 22 5) d) := by
  beta_reduce
  repeat' first
    | with_reducible assumption
    | with_reducible exact Touches.refl
    | ((try lift_lets -underBinder); intro d_; refine (have hd_ : Touches [.out, .sys, .fold] d d_ := ?_; ?_); (on_goal 1 => try dsimp only [d_]); (on_goal 2 => clear_value d_))
    | ((try lift_lets -underBinder); intro d_; try clear_value d_)
    | exact Eq.refl true
    | with_reducible refine Touches.andThen ?_ (by with_reducible exact onGuard_touch ..) ?_
    | with_reducible refine Touches.andThen ?_ (by with_reducible exact raiseLeaf_touch ..) ?_
    | split
    | dsimp -zeta only
    | (split at ‹ite _ _ _ = (_, _)›)
    | (cases ‹(_, _) = (_, _)›)

theorem b_sealBroken (s : State)  : exec .sealBroken s = s.become ((fun (d : Dev) => raiseLeaf (onGuard d (fun g =>
    { g with sealIntact := false, sealHist := true, window := .shut, endTick := 0 })) 22 5) s.start) := by
  have hm_ : ((fun (d : Dev) => raiseLeaf (onGuard d (fun g =>
    { g with sealIntact := false, sealHist := true, window := .shut, endTick := 0 })) 22 5) s.start).memOut = [] := (t_sealBroken s.start ).same .memOut rfl
  simp only [exec, execSealBroken]
  exact nextDev_become s (fun (d : Dev) => raiseLeaf (onGuard d (fun g =>
    { g with sealIntact := false, sealHist := true, window := .shut, endTick := 0 })) 22 5) hm_

theorem f_sealBroken : ∀ (s : State), Ends (exec .sealBroken s) (Keeps [.out, .sys, .fold] s) := by
  intro s 
  simp only [exec, execSealBroken]
  exact keeps_nextDev (f := (fun (d : Dev) => raiseLeaf (onGuard d (fun g =>
    { g with sealIntact := false, sealHist := true, window := .shut, endTick := 0 })) 22 5)) (t_sealBroken s.start ) rfl

theorem t_sealRestored (d : Dev)  : Touches [.out, .sys, .fold] d ((fun (d : Dev) => raiseLeaf (onGuard d (fun g => { g with sealIntact := true })) 22 6) d) := by
  beta_reduce
  repeat' first
    | with_reducible assumption
    | with_reducible exact Touches.refl
    | ((try lift_lets -underBinder); intro d_; refine (have hd_ : Touches [.out, .sys, .fold] d d_ := ?_; ?_); (on_goal 1 => try dsimp only [d_]); (on_goal 2 => clear_value d_))
    | ((try lift_lets -underBinder); intro d_; try clear_value d_)
    | exact Eq.refl true
    | with_reducible refine Touches.andThen ?_ (by with_reducible exact onGuard_touch ..) ?_
    | with_reducible refine Touches.andThen ?_ (by with_reducible exact raiseLeaf_touch ..) ?_
    | split
    | dsimp -zeta only
    | (split at ‹ite _ _ _ = (_, _)›)
    | (cases ‹(_, _) = (_, _)›)

theorem b_sealRestored (s : State)  : exec .sealRestored s = s.become ((fun (d : Dev) => raiseLeaf (onGuard d (fun g => { g with sealIntact := true })) 22 6) s.start) := by
  have hm_ : ((fun (d : Dev) => raiseLeaf (onGuard d (fun g => { g with sealIntact := true })) 22 6) s.start).memOut = [] := (t_sealRestored s.start ).same .memOut rfl
  simp only [exec, execSealRestored]
  exact nextDev_become s (fun (d : Dev) => raiseLeaf (onGuard d (fun g => { g with sealIntact := true })) 22 6) hm_

theorem f_sealRestored : ∀ (s : State), Ends (exec .sealRestored s) (Keeps [.out, .sys, .fold] s) := by
  intro s 
  simp only [exec, execSealRestored]
  exact keeps_nextDev (f := (fun (d : Dev) => raiseLeaf (onGuard d (fun g => { g with sealIntact := true })) 22 6)) (t_sealRestored s.start ) rfl

theorem t_rngHealthFail (d : Dev)  : Touches [.out, .sys, .fold] d ((fun (d : Dev) => raiseLeaf (onGuard d (fun g => { g with rngOk := false })) 22 2) d) := by
  beta_reduce
  repeat' first
    | with_reducible assumption
    | with_reducible exact Touches.refl
    | ((try lift_lets -underBinder); intro d_; refine (have hd_ : Touches [.out, .sys, .fold] d d_ := ?_; ?_); (on_goal 1 => try dsimp only [d_]); (on_goal 2 => clear_value d_))
    | ((try lift_lets -underBinder); intro d_; try clear_value d_)
    | exact Eq.refl true
    | with_reducible refine Touches.andThen ?_ (by with_reducible exact onGuard_touch ..) ?_
    | with_reducible refine Touches.andThen ?_ (by with_reducible exact raiseLeaf_touch ..) ?_
    | split
    | dsimp -zeta only
    | (split at ‹ite _ _ _ = (_, _)›)
    | (cases ‹(_, _) = (_, _)›)

theorem b_rngHealthFail (s : State)  : exec .rngHealthFail s = s.become ((fun (d : Dev) => raiseLeaf (onGuard d (fun g => { g with rngOk := false })) 22 2) s.start) := by
  have hm_ : ((fun (d : Dev) => raiseLeaf (onGuard d (fun g => { g with rngOk := false })) 22 2) s.start).memOut = [] := (t_rngHealthFail s.start ).same .memOut rfl
  simp only [exec, execRngHealthFail]
  exact nextDev_become s (fun (d : Dev) => raiseLeaf (onGuard d (fun g => { g with rngOk := false })) 22 2) hm_

theorem f_rngHealthFail : ∀ (s : State), Ends (exec .rngHealthFail s) (Keeps [.out, .sys, .fold] s) := by
  intro s 
  simp only [exec, execRngHealthFail]
  exact keeps_nextDev (f := (fun (d : Dev) => raiseLeaf (onGuard d (fun g => { g with rngOk := false })) 22 2)) (t_rngHealthFail s.start ) rfl

theorem t_commandWaitExpiry (d : Dev) (h : CmdHdr) (op : Nat) : Touches [.out, .sys, .rings, .sess] d ((fun (d : Dev) =>
    if d.fold.guard.rngOk then d
    else answer d { tr := some h.tr, op := op, seq := h.seq, wanted := h.respWanted, epoch := d.sys.epochStaged } .busy
      (refusalData 0 noField)) d) := by
  beta_reduce
  repeat' first
    | with_reducible assumption
    | with_reducible exact Touches.refl
    | ((try lift_lets -underBinder); intro d_; refine (have hd_ : Touches [.out, .sys, .rings, .sess] d d_ := ?_; ?_); (on_goal 1 => try dsimp only [d_]); (on_goal 2 => clear_value d_))
    | ((try lift_lets -underBinder); intro d_; try clear_value d_)
    | exact Eq.refl true
    | with_reducible refine Touches.andThen ?_ (by with_reducible exact answer_touch ..) ?_
    | split
    | dsimp -zeta only
    | (split at ‹ite _ _ _ = (_, _)›)
    | (cases ‹(_, _) = (_, _)›)

theorem b_commandWaitExpiry (s : State) (h : CmdHdr) (op : Nat) : exec (.commandWaitExpiry h op) s = s.become ((fun (d : Dev) =>
    if d.fold.guard.rngOk then d
    else answer d { tr := some h.tr, op := op, seq := h.seq, wanted := h.respWanted, epoch := d.sys.epochStaged } .busy
      (refusalData 0 noField)) s.start) := by
  have hm_ : ((fun (d : Dev) =>
    if d.fold.guard.rngOk then d
    else answer d { tr := some h.tr, op := op, seq := h.seq, wanted := h.respWanted, epoch := d.sys.epochStaged } .busy
      (refusalData 0 noField)) s.start).memOut = [] := (t_commandWaitExpiry s.start h op).same .memOut rfl
  simp only [exec, execCommandWaitExpiry]
  exact nextDev_become s (fun (d : Dev) =>
    if d.fold.guard.rngOk then d
    else answer d { tr := some h.tr, op := op, seq := h.seq, wanted := h.respWanted, epoch := d.sys.epochStaged } .busy
      (refusalData 0 noField)) hm_

theorem f_commandWaitExpiry : ∀ (s : State) (h : CmdHdr) (op : Nat), Ends (exec (.commandWaitExpiry h op) s) (Keeps [.out, .sys, .rings, .sess] s) := by
  intro s h op
  simp only [exec, execCommandWaitExpiry]
  exact keeps_nextDev (f := (fun (d : Dev) =>
    if d.fold.guard.rngOk then d
    else answer d { tr := some h.tr, op := op, seq := h.seq, wanted := h.respWanted, epoch := d.sys.epochStaged } .busy
      (refusalData 0 noField))) (t_commandWaitExpiry s.start h op) rfl

theorem t_autoseal (d : Dev)  : Touches [.out, .sys, .fold] d ((fun (d : Dev) =>
    if d.fold.boot.stage = .ready ∧ ¬ d.fold.boot.sealed then raiseLeaf (onBoot d (fun b => { b with sealed := true })) 22 1
    else d) d) := by
  beta_reduce
  repeat' first
    | with_reducible assumption
    | with_reducible exact Touches.refl
    | ((try lift_lets -underBinder); intro d_; refine (have hd_ : Touches [.out, .sys, .fold] d d_ := ?_; ?_); (on_goal 1 => try dsimp only [d_]); (on_goal 2 => clear_value d_))
    | ((try lift_lets -underBinder); intro d_; try clear_value d_)
    | exact Eq.refl true
    | with_reducible refine Touches.andThen ?_ (by with_reducible exact onBoot_touch ..) ?_
    | with_reducible refine Touches.andThen ?_ (by with_reducible exact raiseLeaf_touch ..) ?_
    | split
    | dsimp -zeta only
    | (split at ‹ite _ _ _ = (_, _)›)
    | (cases ‹(_, _) = (_, _)›)

theorem b_autoseal (s : State)  : exec .autoseal s = s.become ((fun (d : Dev) =>
    if d.fold.boot.stage = .ready ∧ ¬ d.fold.boot.sealed then raiseLeaf (onBoot d (fun b => { b with sealed := true })) 22 1
    else d) s.start) := by
  have hm_ : ((fun (d : Dev) =>
    if d.fold.boot.stage = .ready ∧ ¬ d.fold.boot.sealed then raiseLeaf (onBoot d (fun b => { b with sealed := true })) 22 1
    else d) s.start).memOut = [] := (t_autoseal s.start ).same .memOut rfl
  simp only [exec, execAutoseal]
  exact nextDev_become s (fun (d : Dev) =>
    if d.fold.boot.stage = .ready ∧ ¬ d.fold.boot.sealed then raiseLeaf (onBoot d (fun b => { b with sealed := true })) 22 1
    else d) hm_

theorem f_autoseal : ∀ (s : State), Ends (exec .autoseal s) (Keeps [.out, .sys, .fold] s) := by
  intro s 
  simp only [exec, execAutoseal]
  exact keeps_nextDev (f := (fun (d : Dev) =>
    if d.fold.boot.stage = .ready ∧ ¬ d.fold.boot.sealed then raiseLeaf (onBoot d (fun b => { b with sealed := true })) 22 1
    else d)) (t_autoseal s.start ) rfl

theorem t_otpProgramDone (d : Dev) (readBackOk : Bool) : Touches [.out, .sys, .rings, .sess, .fold, .otp] d ((fun (d : Dev) =>
    match d.fold.otp.job with
    | none => d
    | some j =>
      let d := onOtp d (fun o => { o with job := none, failed := !readBackOk,
                                          slots := tset o.slots j.slot { valid := readBackOk, fields := j.fields } })
      if readBackOk then followUp (raiseLeaf d 22 7) j.ctx .done []
      else raiseLeaf (followUp (raiseLeaf d 22 8) j.ctx .internal (refusalData 0 noField)) 0 11) d) := by
  beta_reduce
  repeat' first
    | with_reducible assumption
    | with_reducible exact Touches.refl
    | ((try lift_lets -underBinder); intro d_; refine (have hd_ : Touches [.out, .sys, .rings, .sess, .fold, .otp] d d_ := ?_; ?_); (on_goal 1 => try dsimp only [d_]); (on_goal 2 => clear_value d_))
    | ((try lift_lets -underBinder); intro d_; try clear_value d_)
    | exact Eq.refl true
    | with_reducible refine Touches.andThen ?_ (by with_reducible exact onOtp_touch ..) ?_
    | with_reducible refine Touches.andThen ?_ (by with_reducible exact followUp_touch ..) ?_
    | with_reducible refine Touches.andThen ?_ (by with_reducible exact raiseLeaf_touch ..) ?_
    | split
    | dsimp -zeta only
    | (split at ‹ite _ _ _ = (_, _)›)
    | (cases ‹(_, _) = (_, _)›)

theorem b_otpProgramDone (s : State) (readBackOk : Bool) : exec (.otpProgramDone readBackOk) s = s.become ((fun (d : Dev) =>
    match d.fold.otp.job with
    | none => d
    | some j =>
      let d := onOtp d (fun o => { o with job := none, failed := !readBackOk,
                                          slots := tset o.slots j.slot { valid := readBackOk, fields := j.fields } })
      if readBackOk then followUp (raiseLeaf d 22 7) j.ctx .done []
      else raiseLeaf (followUp (raiseLeaf d 22 8) j.ctx .internal (refusalData 0 noField)) 0 11) s.start) := by
  have hm_ : ((fun (d : Dev) =>
    match d.fold.otp.job with
    | none => d
    | some j =>
      let d := onOtp d (fun o => { o with job := none, failed := !readBackOk,
                                          slots := tset o.slots j.slot { valid := readBackOk, fields := j.fields } })
      if readBackOk then followUp (raiseLeaf d 22 7) j.ctx .done []
      else raiseLeaf (followUp (raiseLeaf d 22 8) j.ctx .internal (refusalData 0 noField)) 0 11) s.start).memOut = [] := (t_otpProgramDone s.start readBackOk).same .memOut rfl
  simp only [exec, execOtpProgramDone]
  exact nextDev_become s (fun (d : Dev) =>
    match d.fold.otp.job with
    | none => d
    | some j =>
      let d := onOtp d (fun o => { o with job := none, failed := !readBackOk,
                                          slots := tset o.slots j.slot { valid := readBackOk, fields := j.fields } })
      if readBackOk then followUp (raiseLeaf d 22 7) j.ctx .done []
      else raiseLeaf (followUp (raiseLeaf d 22 8) j.ctx .internal (refusalData 0 noField)) 0 11) hm_

theorem f_otpProgramDone : ∀ (s : State) (readBackOk : Bool), Ends (exec (.otpProgramDone readBackOk) s) (Keeps [.out, .sys, .rings, .sess, .fold, .otp] s) := by
  intro s readBackOk
  simp only [exec, execOtpProgramDone]
  exact keeps_nextDev (f := (fun (d : Dev) =>
    match d.fold.otp.job with
    | none => d
    | some j =>
      let d := onOtp d (fun o => { o with job := none, failed := !readBackOk,
                                          slots := tset o.slots j.slot { valid := readBackOk, fields := j.fields } })
      if readBackOk then followUp (raiseLeaf d 22 7) j.ctx .done []
      else raiseLeaf (followUp (raiseLeaf d 22 8) j.ctx .internal (refusalData 0 noField)) 0 11)) (t_otpProgramDone s.start readBackOk) rfl

theorem t_mul (d : Dev) (i : Issue) (acc a : Nat) (b : MacB) (sg : Sign) (wide : Bool) : Touches [.freeCtr, .out, .memOut, .sys, .past, .flock, .media, .integ] d ((macOp i .mul acc a b sg wide) d) := by
  beta_reduce
  repeat' first
    | with_reducible assumption
    | with_reducible exact Touches.refl
    | ((try lift_lets -underBinder); intro d_; refine (have hd_ : Touches [.freeCtr, .out, .memOut, .sys, .past, .flock, .media, .integ] d d_ := ?_; ?_); (on_goal 1 => try dsimp only [d_]); (on_goal 2 => clear_value d_))
    | ((try lift_lets -underBinder); intro d_; try clear_value d_)
    | exact Eq.refl true
    | with_reducible refine Touches.andThen ?_ (by with_reducible exact macOp_touch ..) ?_
    | split
    | dsimp -zeta only
    | (split at ‹ite _ _ _ = (_, _)›)
    | (cases ‹(_, _) = (_, _)›)

theorem t_mac (d : Dev) (i : Issue) (acc a : Nat) (b : MacB) (sg : Sign) (wide : Bool) : Touches [.freeCtr, .out, .memOut, .sys, .past, .flock, .media, .integ] d ((macOp i .mac acc a b sg wide) d) := by
  beta_reduce
  repeat' first
    | with_reducible assumption
    | with_reducible exact Touches.refl
    | ((try lift_lets -underBinder); intro d_; refine (have hd_ : Touches [.freeCtr, .out, .memOut, .sys, .past, .flock, .media, .integ] d d_ := ?_; ?_); (on_goal 1 => try dsimp only [d_]); (on_goal 2 => clear_value d_))
    | ((try lift_lets -underBinder); intro d_; try clear_value d_)
    | exact Eq.refl true
    | with_reducible refine Touches.andThen ?_ (by with_reducible exact macOp_touch ..) ?_
    | split
    | dsimp -zeta only
    | (split at ‹ite _ _ _ = (_, _)›)
    | (cases ‹(_, _) = (_, _)›)

theorem t_msu (d : Dev) (i : Issue) (acc a : Nat) (b : MacB) (sg : Sign) (wide : Bool) : Touches [.freeCtr, .out, .memOut, .sys, .past, .flock, .media, .integ] d ((macOp i .msu acc a b sg wide) d) := by
  beta_reduce
  repeat' first
    | with_reducible assumption
    | with_reducible exact Touches.refl
    | ((try lift_lets -underBinder); intro d_; refine (have hd_ : Touches [.freeCtr, .out, .memOut, .sys, .past, .flock, .media, .integ] d d_ := ?_; ?_); (on_goal 1 => try dsimp only [d_]); (on_goal 2 => clear_value d_))
    | ((try lift_lets -underBinder); intro d_; try clear_value d_)
    | exact Eq.refl true
    | with_reducible refine Touches.andThen ?_ (by with_reducible exact macOp_touch ..) ?_
    | split
    | dsimp -zeta only
    | (split at ‹ite _ _ _ = (_, _)›)
    | (cases ‹(_, _) = (_, _)›)

theorem t_macSum (d : Dev) (i : Issue) (acc a : Nat) (b : MacB) (sg : Sign) (wide : Bool) : Touches [.freeCtr, .out, .memOut, .sys, .past, .flock, .media, .integ] d ((macOp i .sum acc a b sg wide) d) := by
  beta_reduce
  repeat' first
    | with_reducible assumption
    | with_reducible exact Touches.refl
    | ((try lift_lets -underBinder); intro d_; refine (have hd_ : Touches [.freeCtr, .out, .memOut, .sys, .past, .flock, .media, .integ] d d_ := ?_; ?_); (on_goal 1 => try dsimp only [d_]); (on_goal 2 => clear_value d_))
    | ((try lift_lets -underBinder); intro d_; try clear_value d_)
    | exact Eq.refl true
    | with_reducible refine Touches.andThen ?_ (by with_reducible exact macOp_touch ..) ?_
    | split
    | dsimp -zeta only
    | (split at ‹ite _ _ _ = (_, _)›)
    | (cases ‹(_, _) = (_, _)›)

theorem t_clr (d : Dev) (i : Issue) (acc : Nat) : Touches [.freeCtr, .out, .memOut, .sys, .past, .flock, .media, .integ] d ((macOp i .clr acc 0 (.v 0) .ss false) d) := by
  beta_reduce
  repeat' first
    | with_reducible assumption
    | with_reducible exact Touches.refl
    | ((try lift_lets -underBinder); intro d_; refine (have hd_ : Touches [.freeCtr, .out, .memOut, .sys, .past, .flock, .media, .integ] d d_ := ?_; ?_); (on_goal 1 => try dsimp only [d_]); (on_goal 2 => clear_value d_))
    | ((try lift_lets -underBinder); intro d_; try clear_value d_)
    | exact Eq.refl true
    | with_reducible refine Touches.andThen ?_ (by with_reducible exact macOp_touch ..) ?_
    | split
    | dsimp -zeta only
    | (split at ‹ite _ _ _ = (_, _)›)
    | (cases ‹(_, _) = (_, _)›)

theorem t_mvV (d : Dev) (i : Issue) (dst acc : Nat) : Touches [.freeCtr, .out, .memOut, .sys, .past, .flock, .media, .integ] d ((fun (d : Dev) => issueOp d i none (aluSlot i.slot) false (fun d => moveLanes d i.eng acc 16 16 (List.range 16) (.v dst))) d) := by
  beta_reduce
  repeat' first
    | with_reducible assumption
    | with_reducible exact Touches.refl
    | ((try lift_lets -underBinder); intro d_; refine (have hd_ : Touches [.freeCtr, .out, .memOut, .sys, .past, .flock, .media, .integ] d d_ := ?_; ?_); (on_goal 1 => try dsimp only [d_]); (on_goal 2 => clear_value d_))
    | ((try lift_lets -underBinder); intro d_; try clear_value d_)
    | exact Eq.refl true
    | with_reducible refine Touches.andThen ?_ (issueOp_touch (ps := [.freeCtr, .out, .memOut, .sys, .past, .flock, .media, .integ]) ?_ ?_ ..) ?_
    | (intro _)
    | with_reducible refine Touches.andThen ?_ (by with_reducible exact moveLanes_touch ..) ?_
    | split
    | dsimp -zeta only
    | (split at ‹ite _ _ _ = (_, _)›)
    | (cases ‹(_, _) = (_, _)›)

theorem t_mvW (d : Dev) (i : Issue) (dst acc : Nat) : Touches [.freeCtr, .out, .memOut, .sys, .past, .flock, .media, .integ] d ((fun (d : Dev) => issueOp d i none (aluSlot i.slot) false (fun d =>
    moveLanes d i.eng acc (mcrSatw (actSet (engOf d i.eng).core).mcr) 32 (List.range 8) (.w dst))) d) := by
  beta_reduce
  repeat' first
    | with_reducible assumption
    | with_reducible exact Touches.refl
    | ((try lift_lets -underBinder); intro d_; refine (have hd_ : Touches [.freeCtr, .out, .memOut, .sys, .past, .flock, .media, .integ] d d_ := ?_; ?_); (on_goal 1 => try dsimp only [d_]); (on_goal 2 => clear_value d_))
    | ((try lift_lets -underBinder); intro d_; try clear_value d_)
    | exact Eq.refl true
    | with_reducible refine Touches.andThen ?_ (issueOp_touch (ps := [.freeCtr, .out, .memOut, .sys, .past, .flock, .media, .integ]) ?_ ?_ ..) ?_
    | (intro _)
    | with_reducible refine Touches.andThen ?_ (by with_reducible exact moveLanes_touch ..) ?_
    | split
    | dsimp -zeta only
    | (split at ‹ite _ _ _ = (_, _)›)
    | (cases ‹(_, _) = (_, _)›)

theorem t_mvS (d : Dev) (i : Issue) (dst acc lane : Nat) : Touches [.freeCtr, .out, .memOut, .sys, .past, .flock, .media, .integ] d ((fun (d : Dev) => issueOp d i none (aluSlot i.slot) false (fun d =>
    moveLanes d i.eng acc (mcrSatw (actSet (engOf d i.eng).core).mcr) 32 [lane % 16] (.s dst))) d) := by
  beta_reduce
  repeat' first
    | with_reducible assumption
    | with_reducible exact Touches.refl
    | ((try lift_lets -underBinder); intro d_; refine (have hd_ : Touches [.freeCtr, .out, .memOut, .sys, .past, .flock, .media, .integ] d d_ := ?_; ?_); (on_goal 1 => try dsimp only [d_]); (on_goal 2 => clear_value d_))
    | ((try lift_lets -underBinder); intro d_; try clear_value d_)
    | exact Eq.refl true
    | with_reducible refine Touches.andThen ?_ (issueOp_touch (ps := [.freeCtr, .out, .memOut, .sys, .past, .flock, .media, .integ]) ?_ ?_ ..) ?_
    | (intro _)
    | with_reducible refine Touches.andThen ?_ (by with_reducible exact moveLanes_touch ..) ?_
    | split
    | dsimp -zeta only
    | (split at ‹ite _ _ _ = (_, _)›)
    | (cases ‹(_, _) = (_, _)›)

theorem t_load (d : Dev) (i : Issue) (reg : LsReg) (addr : Addr) (find : EccFind) : Touches [.freeCtr, .out, .memOut, .sys, .past, .flock, .media, .integ] d ((fun (d : Dev) => issueOp d i none (lsSlot i.slot) false (loadOp i reg addr find)) d) := by
  beta_reduce
  repeat' first
    | with_reducible assumption
    | with_reducible exact Touches.refl
    | ((try lift_lets -underBinder); intro d_; refine (have hd_ : Touches [.freeCtr, .out, .memOut, .sys, .past, .flock, .media, .integ] d d_ := ?_; ?_); (on_goal 1 => try dsimp only [d_]); (on_goal 2 => clear_value d_))
    | ((try lift_lets -underBinder); intro d_; try clear_value d_)
    | exact Eq.refl true
    | with_reducible refine Touches.andThen ?_ (issueOp_touch (ps := [.freeCtr, .out, .memOut, .sys, .past, .flock, .media, .integ]) ?_ ?_ ..) ?_
    | (intro _)
    | with_reducible refine Touches.andThen ?_ (by with_reducible exact loadOp_touch ..) ?_
    | split
    | dsimp -zeta only
    | (split at ‹ite _ _ _ = (_, _)›)
    | (cases ‹(_, _) = (_, _)›)

theorem t_store (d : Dev) (i : Issue) (reg : LsReg) (addr : Addr) : Touches [.freeCtr, .out, .memOut, .sys, .past, .flock, .media, .integ] d ((fun (d : Dev) => issueOp d i none (lsSlot i.slot) false (storeOp i reg addr)) d) := by
  beta_reduce
  repeat' first
    | with_reducible assumption
    | with_reducible exact Touches.refl
    | ((try lift_lets -underBinder); intro d_; refine (have hd_ : Touches [.freeCtr, .out, .memOut, .sys, .past, .flock, .media, .integ] d d_ := ?_; ?_); (on_goal 1 => try dsimp only [d_]); (on_goal 2 => clear_value d_))
    | ((try lift_lets -underBinder); intro d_; try clear_value d_)
    | exact Eq.refl true
    | with_reducible refine Touches.andThen ?_ (issueOp_touch (ps := [.freeCtr, .out, .memOut, .sys, .past, .flock, .media, .integ]) ?_ ?_ ..) ?_
    | (intro _)
    | with_reducible refine Touches.andThen ?_ (by with_reducible exact storeOp_touch ..) ?_
    | split
    | dsimp -zeta only
    | (split at ‹ite _ _ _ = (_, _)›)
    | (cases ‹(_, _) = (_, _)›)

theorem t_scalarOperation (d : Dev) (i : Issue) (op : ScOp) (dst : ScDst) (a b : ScSrc) : Touches [.freeCtr, .out, .memOut, .sys, .past, .flock, .media, .integ] d ((fun (d : Dev) => issueOp d i none (aluSlot i.slot) false (fun d =>
    let r := actSet (engOf d i.eng).core
    let lat : Nat := if op = .mulLow then 2 else 1
    match scalarVal op (srcVal r a) (srcVal r b) with
    | some v => postResult d i.eng lat (scDst dst) v.toNat []
    | none =>
      let q := drawFree d
      postResult q.2 i.eng lat (scDst dst) q.1 [])) d) := by
  beta_reduce
  refine issueOp_touch rfl (fun x => ?_) _ _ _ _ _
  dsimp only
  split
  · exact .mono (postResult_touch _ _ _ _ _ _)
  · exact .andThen (.mono (drawFree_touch _)) (postResult_touch _ _ _ _ _ _)

theorem t_controlRegisterWrite (d : Dev) (i : Issue) (w : CtlWrite) : Touches [.freeCtr, .out, .memOut, .sys, .past, .flock, .media, .integ] d ((fun (d : Dev) => issueOp d i none (aluSlot i.slot) false (fun d =>
    let r := actSet (engOf d i.eng).core
    match w with
    | .cb k src => postResult d i.eng 1 (.cb k) (rdS r src).toNat []
    | .cl k src => postResult d i.eng 1 (.cl k) (rdS r src).toNat []
    | .clearSat => postResult d i.eng 1 .satClear 0 [])) d) := by
  beta_reduce
  repeat' first
    | with_reducible assumption
    | with_reducible exact Touches.refl
    | ((try lift_lets -underBinder); intro d_; refine (have hd_ : Touches [.freeCtr, .out, .memOut, .sys, .past, .flock, .media, .integ] d d_ := ?_; ?_); (on_goal 1 => try dsimp only [d_]); (on_goal 2 => clear_value d_))
    | ((try lift_lets -underBinder); intro d_; try clear_value d_)
    | exact Eq.refl true
    | with_reducible refine Touches.andThen ?_ (issueOp_touch (ps := [.freeCtr, .out, .memOut, .sys, .past, .flock, .media, .integ]) ?_ ?_ ..) ?_
    | (intro _)
    | with_reducible refine Touches.andThen ?_ (by with_reducible exact postResult_touch ..) ?_
    | split
    | dsimp -zeta only
    | (split at ‹ite _ _ _ = (_, _)›)
    | (cases ‹(_, _) = (_, _)›)

theorem t_wmcr (d : Dev) (i : Issue) (src : Nat) : Touches [.freeCtr, .out, .memOut, .sys, .past, .flock, .media, .integ] d ((fun (d : Dev) => issueOp d i none (aluSlot i.slot) false (fun d =>
    postResult d i.eng 1 .mcr (rdS (actSet (engOf d i.eng).core) src).toNat [])) d) := by
  beta_reduce
  repeat' first
    | with_reducible assumption
    | with_reducible exact Touches.refl
    | ((try lift_lets -underBinder); intro d_; refine (have hd_ : Touches [.freeCtr, .out, .memOut, .sys, .past, .flock, .media, .integ] d d_ := ?_; ?_); (on_goal 1 => try dsimp only [d_]); (on_goal 2 => clear_value d_))
    | ((try lift_lets -underBinder); intro d_; try clear_value d_)
    | exact Eq.refl true
    | with_reducible refine Touches.andThen ?_ (issueOp_touch (ps := [.freeCtr, .out, .memOut, .sys, .past, .flock, .media, .integ]) ?_ ?_ ..) ?_
    | (intro _)
    | with_reducible refine Touches.andThen ?_ (by with_reducible exact postResult_touch ..) ?_
    | split
    | dsimp -zeta only
    | (split at ‹ite _ _ _ = (_, _)›)
    | (cases ‹(_, _) = (_, _)›)

theorem t_branch (d : Dev) (i : Issue) (target : Word) : Touches [.freeCtr, .out, .memOut, .sys, .past, .flock, .media, .integ] d ((fun (d : Dev) => issueOp d i none (aluSlot i.slot) true (fun d => startFlow d i.eng target false)) d) := by
  beta_reduce
  repeat' first
    | with_reducible assumption
    | with_reducible exact Touches.refl
    | ((try lift_lets -underBinder); intro d_; refine (have hd_ : Touches [.freeCtr, .out, .memOut, .sys, .past, .flock, .media, .integ] d d_ := ?_; ?_); (on_goal 1 => try dsimp only [d_]); (on_goal 2 => clear_value d_))
    | ((try lift_lets -underBinder); intro d_; try clear_value d_)
    | exact Eq.refl true
    | with_reducible refine Touches.andThen ?_ (issueOp_touch (ps := [.freeCtr, .out, .memOut, .sys, .past, .flock, .media, .integ]) ?_ ?_ ..) ?_
    | (intro _)
    | with_reducible refine Touches.andThen ?_ (by with_reducible exact startFlow_touch ..) ?_
    | split
    | dsimp -zeta only
    | (split at ‹ite _ _ _ = (_, _)›)
    | (cases ‹(_, _) = (_, _)›)

theorem t_call (d : Dev) (i : Issue) (target : Word) : Touches [.freeCtr, .out, .memOut, .sys, .past, .flock, .media, .integ] d ((fun (d : Dev) => issueOp d i none (aluSlot i.slot) true (fun d => startFlow d i.eng target false)) d) := by
  beta_reduce
  repeat' first
    | with_reducible assumption
    | with_reducible exact Touches.refl
    | ((try lift_lets -underBinder); intro d_; refine (have hd_ : Touches [.freeCtr, .out, .memOut, .sys, .past, .flock, .media, .integ] d d_ := ?_; ?_); (on_goal 1 => try dsimp only [d_]); (on_goal 2 => clear_value d_))
    | ((try lift_lets -underBinder); intro d_; try clear_value d_)
    | exact Eq.refl true
    | with_reducible refine Touches.andThen ?_ (issueOp_touch (ps := [.freeCtr, .out, .memOut, .sys, .past, .flock, .media, .integ]) ?_ ?_ ..) ?_
    | (intro _)
    | with_reducible refine Touches.andThen ?_ (by with_reducible exact startFlow_touch ..) ?_
    | split
    | dsimp -zeta only
    | (split at ‹ite _ _ _ = (_, _)›)
    | (cases ‹(_, _) = (_, _)›)

theorem t_reti (d : Dev) (i : Issue) : Touches [.freeCtr, .out, .memOut, .sys, .past, .flock, .media, .integ] d ((fun (d : Dev) => issueOp d i none (aluSlot i.slot) true (fun d => startFlow d i.eng (engOf d i.eng).core.ira true)) d) := by
  beta_reduce
  repeat' first
    | with_reducible assumption
    | with_reducible exact Touches.refl
    | ((try lift_lets -underBinder); intro d_; refine (have hd_ : Touches [.freeCtr, .out, .memOut, .sys, .past, .flock, .media, .integ] d d_ := ?_; ?_); (on_goal 1 => try dsimp only [d_]); (on_goal 2 => clear_value d_))
    | ((try lift_lets -underBinder); intro d_; try clear_value d_)
    | exact Eq.refl true
    | with_reducible refine Touches.andThen ?_ (issueOp_touch (ps := [.freeCtr, .out, .memOut, .sys, .past, .flock, .media, .integ]) ?_ ?_ ..) ?_
    | (intro _)
    | with_reducible refine Touches.andThen ?_ (by with_reducible exact startFlow_touch ..) ?_
    | split
    | dsimp -zeta only
    | (split at ‹ite _ _ _ = (_, _)›)
    | (cases ‹(_, _) = (_, _)›)

theorem t_eventPulse (d : Dev) (line : Nat) (listeners : List (Nat × Nat)) : Touches [.out, .flock] d ((pulseLine line listeners) d) := by
  beta_reduce
  repeat' first
    | with_reducible assumption
    | with_reducible exact Touches.refl
    | ((try lift_lets -underBinder); intro d_; refine (have hd_ : Touches [.out, .flock] d d_ := ?_; ?_); (on_goal 1 => try dsimp only [d_]); (on_goal 2 => clear_value d_))
    | ((try lift_lets -underBinder); intro d_; try clear_value d_)
    | exact Eq.refl true
    | with_reducible refine Touches.andThen ?_ (by with_reducible exact pulseLine_touch ..) ?_
    | split
    | dsimp -zeta only
    | (split at ‹ite _ _ _ = (_, _)›)
    | (cases ‹(_, _) = (_, _)›)

theorem b_eventPulse (s : State) (line : Nat) (listeners : List (Nat × Nat)) : exec (.eventPulse line listeners) s = s.become ((pulseLine line listeners) s.start) := by
  have hm_ : ((pulseLine line listeners) s.start).memOut = [] := (t_eventPulse s.start line listeners).same .memOut rfl
  simp only [exec, execEventPulse]
  exact nextDev_become s (pulseLine line listeners) hm_

theorem f_eventPulse : ∀ (s : State) (line : Nat) (listeners : List (Nat × Nat)), Ends (exec (.eventPulse line listeners) s) (Keeps [.out, .flock] s) := by
  intro s line listeners
  simp only [exec, execEventPulse]
  exact keeps_nextDev (f := (pulseLine line listeners)) (t_eventPulse s.start line listeners) rfl

theorem t_sig (d : Dev) (i : Issue) (line : Nat) (listeners : List (Nat × Nat)) : Touches [.freeCtr, .out, .memOut, .sys, .past, .flock, .media, .integ] d ((fun (d : Dev) => issueOp d i none (aluSlot i.slot) false (pulseLine line listeners)) d) := by
  beta_reduce
  repeat' first
    | with_reducible assumption
    | with_reducible exact Touches.refl
    | ((try lift_lets -underBinder); intro d_; refine (have hd_ : Touches [.freeCtr, .out, .memOut, .sys, .past, .flock, .media, .integ] d d_ := ?_; ?_); (on_goal 1 => try dsimp only [d_]); (on_goal 2 => clear_value d_))
    | ((try lift_lets -underBinder); intro d_; try clear_value d_)
    | exact Eq.refl true
    | with_reducible refine Touches.andThen ?_ (issueOp_touch (ps := [.freeCtr, .out, .memOut, .sys, .past, .flock, .media, .integ]) ?_ ?_ ..) ?_
    | (intro _)
    | with_reducible refine Touches.andThen ?_ (by with_reducible exact pulseLine_touch ..) ?_
    | split
    | dsimp -zeta only
    | (split at ‹ite _ _ _ = (_, _)›)
    | (cases ‹(_, _) = (_, _)›)

theorem t_engineInterrupt (d : Dev) (eng : Nat) (kind : EngInt) : Touches [.freeCtr, .out, .memOut, .sys, .past, .flock, .media, .integ] d ((fun (d : Dev) =>
    if ¬ engRuns d eng then d
    else
      let d := onCore d eng (holdInterrupt kind)
      let c := (engOf d eng).core
      if c.shadowOn ∨ c.br.isSome ∨ ¬ wantsInterrupt c then d else engCycle d eng) d) := by
  beta_reduce
  repeat' first
    | with_reducible assumption
    | with_reducible exact Touches.refl
    | ((try lift_lets -underBinder); intro d_; refine (have hd_ : Touches [.freeCtr, .out, .memOut, .sys, .past, .flock, .media, .integ] d d_ := ?_; ?_); (on_goal 1 => try dsimp only [d_]); (on_goal 2 => clear_value d_))
    | ((try lift_lets -underBinder); intro d_; try clear_value d_)
    | exact Eq.refl true
    | with_reducible refine Touches.andThen ?_ (by with_reducible exact onCore_touch ..) ?_
    | with_reducible refine Touches.andThen ?_ (by with_reducible exact engCycle_touch ..) ?_
    | split
    | dsimp -zeta only
    | (split at ‹ite _ _ _ = (_, _)›)
    | (cases ‹(_, _) = (_, _)›)

theorem t_slotTimer (d : Dev) (eng : Nat) (finished : List Nat) (ready : List (Nat × Nat × Nat)) (background : Option Nat) : Touches [.freeCtr, .out, .memOut, .sys, .past, .flock, .media, .integ] d ((fun (d : Dev) =>
    if ¬ engRuns d eng then d
    else
      let d := onEng d eng (fun x => slotBoundary (tableOf d eng) d.bell.tick finished ready background
        { x with core := { x.core with held := x.core.held ++ [.slotTimer] } })
      let c := (engOf d eng).core
      if c.shadowOn ∨ c.br.isSome then d else engCycle d eng) d) := by
  beta_reduce
  repeat' first
    | with_reducible assumption
    | with_reducible exact Touches.refl
    | ((try lift_lets -underBinder); intro d_; refine (have hd_ : Touches [.freeCtr, .out, .memOut, .sys, .past, .flock, .media, .integ] d d_ := ?_; ?_); (on_goal 1 => try dsimp only [d_]); (on_goal 2 => clear_value d_))
    | ((try lift_lets -underBinder); intro d_; try clear_value d_)
    | exact Eq.refl true
    | with_reducible refine Touches.andThen ?_ (by with_reducible exact onEng_touch ..) ?_
    | with_reducible refine Touches.andThen ?_ (by with_reducible exact engCycle_touch ..) ?_
    | split
    | dsimp -zeta only
    | (split at ‹ite _ _ _ = (_, _)›)
    | (cases ‹(_, _) = (_, _)›)

theorem t_headsetBankSwap (d : Dev) (headset : Nat) : Touches [.out, .sys, .rings, .sess, .aud] d ((headsetBankSwap headset) d) := by
  beta_reduce
  repeat' first
    | with_reducible assumption
    | with_reducible exact Touches.refl
    | ((try lift_lets -underBinder); intro d_; refine (have hd_ : Touches [.out, .sys, .rings, .sess, .aud] d d_ := ?_; ?_); (on_goal 1 => try dsimp only [d_]); (on_goal 2 => clear_value d_))
    | ((try lift_lets -underBinder); intro d_; try clear_value d_)
    | exact Eq.refl true
    | with_reducible refine Touches.andThen ?_ (by with_reducible exact headsetBankSwap_touch ..) ?_
    | split
    | dsimp -zeta only
    | (split at ‹ite _ _ _ = (_, _)›)
    | (cases ‹(_, _) = (_, _)›)

theorem b_headsetBankSwap (s : State) (headset : Nat) : exec (.headsetBankSwap headset) s = s.become ((headsetBankSwap headset) s.start) := by
  have hm_ : ((headsetBankSwap headset) s.start).memOut = [] := (t_headsetBankSwap s.start headset).same .memOut rfl
  simp only [exec, execHeadsetBankSwap]
  exact nextDev_become s (headsetBankSwap headset) hm_

theorem f_headsetBankSwap : ∀ (s : State) (headset : Nat), Ends (exec (.headsetBankSwap headset) s) (Keeps [.out, .sys, .rings, .sess, .aud] s) := by
  intro s headset
  simp only [exec, execHeadsetBankSwap]
  exact keeps_nextDev (f := (headsetBankSwap headset)) (t_headsetBankSwap s.start headset) rfl

theorem t_contribPictureRx (d : Dev) (leg : Nat) (pic : PicIn) : Touches [.out, .sys, .past, .fold, .tm, .media, .vid] d ((contribPicture leg pic) d) := by
  beta_reduce
  repeat' first
    | with_reducible assumption
    | with_reducible exact Touches.refl
    | ((try lift_lets -underBinder); intro d_; refine (have hd_ : Touches [.out, .sys, .past, .fold, .tm, .media, .vid] d d_ := ?_; ?_); (on_goal 1 => try dsimp only [d_]); (on_goal 2 => clear_value d_))
    | ((try lift_lets -underBinder); intro d_; try clear_value d_)
    | exact Eq.refl true
    | with_reducible refine Touches.andThen ?_ (by with_reducible exact contribPicture_touch ..) ?_
    | split
    | dsimp -zeta only
    | (split at ‹ite _ _ _ = (_, _)›)
    | (cases ‹(_, _) = (_, _)›)

theorem b_contribPictureRx (s : State) (leg : Nat) (pic : PicIn) : exec (.contribPictureRx leg pic) s = s.become ((contribPicture leg pic) s.start) := by
  have hm_ : ((contribPicture leg pic) s.start).memOut = [] := (t_contribPictureRx s.start leg pic).same .memOut rfl
  simp only [exec, execContribPictureRx]
  exact nextDev_become s (contribPicture leg pic) hm_

theorem f_contribPictureRx : ∀ (s : State) (leg : Nat) (pic : PicIn), Ends (exec (.contribPictureRx leg pic) s) (Keeps [.out, .sys, .past, .fold, .tm, .media, .vid] s) := by
  intro s leg pic
  simp only [exec, execContribPictureRx]
  exact keeps_nextDev (f := (contribPicture leg pic)) (t_contribPictureRx s.start leg pic) rfl

theorem t_decodeDone (d : Dev) (leg : Nat) (ok : Bool) : Touches [.out, .sys, .past, .fold, .tm, .media, .vid] d ((decodeDone leg ok) d) := by
  beta_reduce
  repeat' first
    | with_reducible assumption
    | with_reducible exact Touches.refl
    | ((try lift_lets -underBinder); intro d_; refine (have hd_ : Touches [.out, .sys, .past, .fold, .tm, .media, .vid] d d_ := ?_; ?_); (on_goal 1 => try dsimp only [d_]); (on_goal 2 => clear_value d_))
    | ((try lift_lets -underBinder); intro d_; try clear_value d_)
    | exact Eq.refl true
    | with_reducible refine Touches.andThen ?_ (by with_reducible exact decodeDone_touch ..) ?_
    | split
    | dsimp -zeta only
    | (split at ‹ite _ _ _ = (_, _)›)
    | (cases ‹(_, _) = (_, _)›)

theorem b_decodeDone (s : State) (leg : Nat) (ok : Bool) : exec (.decodeDone leg ok) s = s.become ((decodeDone leg ok) s.start) := by
  have hm_ : ((decodeDone leg ok) s.start).memOut = [] := (t_decodeDone s.start leg ok).same .memOut rfl
  simp only [exec, execDecodeDone]
  exact nextDev_become s (decodeDone leg ok) hm_

theorem f_decodeDone : ∀ (s : State) (leg : Nat) (ok : Bool), Ends (exec (.decodeDone leg ok) s) (Keeps [.out, .sys, .past, .fold, .tm, .media, .vid] s) := by
  intro s leg ok
  simp only [exec, execDecodeDone]
  exact keeps_nextDev (f := (decodeDone leg ok)) (t_decodeDone s.start leg ok) rfl

theorem t_tierEncodeDone (d : Dev) (leg tier size : Nat) (relay : List (LayerIn × Nat)) : Touches [.freeCtr, .out, .sys, .past, .fold, .tm, .media, .vid] d ((tierEncodeDone leg tier size relay) d) := by
  beta_reduce
  repeat' first
    | with_reducible assumption
    | with_reducible exact Touches.refl
    | ((try lift_lets -underBinder); intro d_; refine (have hd_ : Touches [.freeCtr, .out, .sys, .past, .fold, .tm, .media, .vid] d d_ := ?_; ?_); (on_goal 1 => try dsimp only [d_]); (on_goal 2 => clear_value d_))
    | ((try lift_lets -underBinder); intro d_; try clear_value d_)
    | exact Eq.refl true
    | with_reducible refine Touches.andThen ?_ (by with_reducible exact tierEncodeDone_touch ..) ?_
    | split
    | dsimp -zeta only
    | (split at ‹ite _ _ _ = (_, _)›)
    | (cases ‹(_, _) = (_, _)›)

theorem b_tierEncodeDone (s : State) (leg tier size : Nat) (relay : List (LayerIn × Nat)) : exec (.tierEncodeDone leg tier size relay) s = s.become ((tierEncodeDone leg tier size relay) s.start) := by
  have hm_ : ((tierEncodeDone leg tier size relay) s.start).memOut = [] := (t_tierEncodeDone s.start leg tier size relay).same .memOut rfl
  simp only [exec, execTierEncodeDone]
  exact nextDev_become s (tierEncodeDone leg tier size relay) hm_

theorem f_tierEncodeDone : ∀ (s : State) (leg tier size : Nat) (relay : List (LayerIn × Nat)), Ends (exec (.tierEncodeDone leg tier size relay) s) (Keeps [.freeCtr, .out, .sys, .past, .fold, .tm, .media, .vid] s) := by
  intro s leg tier size relay
  simp only [exec, execTierEncodeDone]
  exact keeps_nextDev (f := (tierEncodeDone leg tier size relay)) (t_tierEncodeDone s.start leg tier size relay) rfl

theorem t_splicePicture (d : Dev) (layout variant : Nat) (self : Option Nat) (sizes : List Nat) (avc : Tbl (List Nat)) : Touches [.freeCtr, .out, .sys, .past, .fold, .tm, .media, .vid] d ((splicePicture (streamKey layout variant self) sizes avc) d) := by
  beta_reduce
  repeat' first
    | with_reducible assumption
    | with_reducible exact Touches.refl
    | ((try lift_lets -underBinder); intro d_; refine (have hd_ : Touches [.freeCtr, .out, .sys, .past, .fold, .tm, .media, .vid] d d_ := ?_; ?_); (on_goal 1 => try dsimp only [d_]); (on_goal 2 => clear_value d_))
    | ((try lift_lets -underBinder); intro d_; try clear_value d_)
    | exact Eq.refl true
    | with_reducible refine Touches.andThen ?_ (by with_reducible exact splicePicture_touch ..) ?_
    | split
    | dsimp -zeta only
    | (split at ‹ite _ _ _ = (_, _)›)
    | (cases ‹(_, _) = (_, _)›)

theorem b_splicePicture (s : State) (layout variant : Nat) (self : Option Nat) (sizes : List Nat) (avc : Tbl (List Nat)) : exec (.splicePicture layout variant self sizes avc) s = s.become ((splicePicture (streamKey layout variant self) sizes avc) s.start) := by
  have hm_ : ((splicePicture (streamKey layout variant self) sizes avc) s.start).memOut = [] := (t_splicePicture s.start layout variant self sizes avc).same .memOut rfl
  simp only [exec, execSplicePicture]
  exact nextDev_become s (splicePicture (streamKey layout variant self) sizes avc) hm_

theorem f_splicePicture : ∀ (s : State) (layout variant : Nat) (self : Option Nat) (sizes : List Nat) (avc : Tbl (List Nat)), Ends (exec (.splicePicture layout variant self sizes avc) s) (Keeps [.freeCtr, .out, .sys, .past, .fold, .tm, .media, .vid] s) := by
  intro s layout variant self sizes avc
  simp only [exec, execSplicePicture]
  exact keeps_nextDev (f := (splicePicture (streamKey layout variant self) sizes avc)) (t_splicePicture s.start layout variant self sizes avc) rfl

theorem t_talkerCellHold (d : Dev) (layout variant : Nat) (self : Option Nat) (cell : Nat) : Touches [.out, .sys, .past, .fold, .tm, .media, .vid] d ((talkerCell (streamKey layout variant self) cell) d) := by
  beta_reduce
  repeat' first
    | with_reducible assumption
    | with_reducible exact Touches.refl
    | ((try lift_lets -underBinder); intro d_; refine (have hd_ : Touches [.out, .sys, .past, .fold, .tm, .media, .vid] d d_ := ?_; ?_); (on_goal 1 => try dsimp only [d_]); (on_goal 2 => clear_value d_))
    | ((try lift_lets -underBinder); intro d_; try clear_value d_)
    | exact Eq.refl true
    | with_reducible refine Touches.andThen ?_ (by with_reducible exact talkerCell_touch ..) ?_
    | split
    | dsimp -zeta only
    | (split at ‹ite _ _ _ = (_, _)›)
    | (cases ‹(_, _) = (_, _)›)

theorem b_talkerCellHold (s : State) (layout variant : Nat) (self : Option Nat) (cell : Nat) : exec (.talkerCellHold layout variant self cell) s = s.become ((talkerCell (streamKey layout variant self) cell) s.start) := by
  have hm_ : ((talkerCell (streamKey layout variant self) cell) s.start).memOut = [] := (t_talkerCellHold s.start layout variant self cell).same .memOut rfl
  simp only [exec, execTalkerCellHold]
  exact nextDev_become s (talkerCell (streamKey layout variant self) cell) hm_

theorem f_talkerCellHold : ∀ (s : State) (layout variant : Nat) (self : Option Nat) (cell : Nat), Ends (exec (.talkerCellHold layout variant self cell) s) (Keeps [.out, .sys, .past, .fold, .tm, .media, .vid] s) := by
  intro s layout variant self cell
  simp only [exec, execTalkerCellHold]
  exact keeps_nextDev (f := (talkerCell (streamKey layout variant self) cell)) (t_talkerCellHold s.start layout variant self cell) rfl

theorem t_layoutRefresh (d : Dev) (layout variant : Nat) (self : Option Nat) : Touches [.out, .sys, .past, .fold, .tm, .media, .vid] d ((layoutRefresh (streamKey layout variant self)) d) := by
  beta_reduce
  repeat' first
    | with_reducible assumption
    | with_reducible exact Touches.refl
    | ((try lift_lets -underBinder); intro d_; refine (have hd_ : Touches [.out, .sys, .past, .fold, .tm, .media, .vid] d d_ := ?_; ?_); (on_goal 1 => try dsimp only [d_]); (on_goal 2 => clear_value d_))
    | ((try lift_lets -underBinder); intro d_; try clear_value d_)
    | exact Eq.refl true
    | with_reducible refine Touches.andThen ?_ (by with_reducible exact layoutRefresh_touch ..) ?_
    | split
    | dsimp -zeta only
    | (split at ‹ite _ _ _ = (_, _)›)
    | (cases ‹(_, _) = (_, _)›)

theorem b_layoutRefresh (s : State) (layout variant : Nat) (self : Option Nat) : exec (.layoutRefresh layout variant self) s = s.become ((layoutRefresh (streamKey layout variant self)) s.start) := by
  have hm_ : ((layoutRefresh (streamKey layout variant self)) s.start).memOut = [] := (t_layoutRefresh s.start layout variant self).same .memOut rfl
  simp only [exec, execLayoutRefresh]
  exact nextDev_become s (layoutRefresh (streamKey layout variant self)) hm_

theorem f_layoutRefresh : ∀ (s : State) (layout variant : Nat) (self : Option Nat), Ends (exec (.layoutRefresh layout variant self) s) (Keeps [.out, .sys, .past, .fold, .tm, .media, .vid] s) := by
  intro s layout variant self
  simp only [exec, execLayoutRefresh]
  exact keeps_nextDev (f := (layoutRefresh (streamKey layout variant self))) (t_layoutRefresh s.start layout variant self) rfl

theorem t_legPacketRx (d : Dev) (leg : Nat) (pkt : RtpIn) (rtcp : RtcpKind) (layer : LayerIn) : Touches [.freeCtr, .out, .sys, .rings, .past, .fold, .tm, .flock, .media, .vid, .integ] d ((legPacket leg pkt rtcp layer) d) := by
  beta_reduce
  repeat' first
    | with_reducible assumption
    | with_reducible exact Touches.refl
    | ((try lift_lets -underBinder); intro d_; refine (have hd_ : Touches [.freeCtr, .out, .sys, .rings, .past, .fold, .tm, .flock, .media, .vid, .integ] d d_ := ?_; ?_); (on_goal 1 => try dsimp only [d_]); (on_goal 2 => clear_value d_))
    | ((try lift_lets -underBinder); intro d_; try clear_value d_)
    | exact Eq.refl true
    | with_reducible refine Touches.andThen ?_ (by with_reducible exact legPacket_touch ..) ?_
    | split
    | dsimp -zeta only
    | (split at ‹ite _ _ _ = (_, _)›)
    | (cases ‹(_, _) = (_, _)›)

theorem b_legPacketRx (s : State) (leg : Nat) (pkt : RtpIn) (rtcp : RtcpKind) (layer : LayerIn) : exec (.legPacketRx leg pkt rtcp layer) s = s.become ((legPacket leg pkt rtcp layer) s.start) := by
  have hm_ : ((legPacket leg pkt rtcp layer) s.start).memOut = [] := (t_legPacketRx s.start leg pkt rtcp layer).same .memOut rfl
  simp only [exec, execLegPacketRx]
  exact nextDev_become s (legPacket leg pkt rtcp layer) hm_

theorem f_legPacketRx : ∀ (s : State) (leg : Nat) (pkt : RtpIn) (rtcp : RtcpKind) (layer : LayerIn), Ends (exec (.legPacketRx leg pkt rtcp layer) s) (Keeps [.freeCtr, .out, .sys, .rings, .past, .fold, .tm, .flock, .media, .vid, .integ] s) := by
  intro s leg pkt rtcp layer
  simp only [exec, execLegPacketRx]
  exact keeps_nextDev (f := (legPacket leg pkt rtcp layer)) (t_legPacketRx s.start leg pkt rtcp layer) rfl

theorem t_rekeyGraceEnd (d : Dev) (leg : Nat) : Touches [.fold, .media] d ((rekeyGraceEnd leg) d) := by
  beta_reduce
  repeat' first
    | with_reducible assumption
    | with_reducible exact Touches.refl
    | ((try lift_lets -underBinder); intro d_; refine (have hd_ : Touches [.fold, .media] d d_ := ?_; ?_); (on_goal 1 => try dsimp only [d_]); (on_goal 2 => clear_value d_))
    | ((try lift_lets -underBinder); intro d_; try clear_value d_)
    | exact Eq.refl true
    | with_reducible refine Touches.andThen ?_ (by with_reducible exact rekeyGraceEnd_touch ..) ?_
    | split
    | dsimp -zeta only
    | (split at ‹ite _ _ _ = (_, _)›)
    | (cases ‹(_, _) = (_, _)›)

theorem b_rekeyGraceEnd (s : State) (leg : Nat) : exec (.rekeyGraceEnd leg) s = s.become ((rekeyGraceEnd leg) s.start) := by
  have hm_ : ((rekeyGraceEnd leg) s.start).memOut = [] := (t_rekeyGraceEnd s.start leg).same .memOut rfl
  simp only [exec, execRekeyGraceEnd]
  exact nextDev_become s (rekeyGraceEnd leg) hm_

theorem f_rekeyGraceEnd : ∀ (s : State) (leg : Nat), Ends (exec (.rekeyGraceEnd leg) s) (Keeps [.fold, .media] s) := by
  intro s leg
  simp only [exec, execRekeyGraceEnd]
  exact keeps_nextDev (f := (rekeyGraceEnd leg)) (t_rekeyGraceEnd s.start leg) rfl

theorem t_adaptationRun (d : Dev) (leg : Nat) : Touches [.freeCtr, .out, .memOut, .sys, .past, .fold, .tm, .media, .vid] d ((adaptationRun leg) d) := by
  beta_reduce
  repeat' first
    | with_reducible assumption
    | with_reducible exact Touches.refl
    | ((try lift_lets -underBinder); intro d_; refine (have hd_ : Touches [.freeCtr, .out, .memOut, .sys, .past, .fold, .tm, .media, .vid] d d_ := ?_; ?_); (on_goal 1 => try dsimp only [d_]); (on_goal 2 => clear_value d_))
    | ((try lift_lets -underBinder); intro d_; try clear_value d_)
    | exact Eq.refl true
    | with_reducible refine Touches.andThen ?_ (by with_reducible exact adaptationRun_touch ..) ?_
    | split
    | dsimp -zeta only
    | (split at ‹ite _ _ _ = (_, _)›)
    | (cases ‹(_, _) = (_, _)›)

theorem t_feedbackStarved (d : Dev) (leg : Nat) : Touches [.out, .memOut, .sys, .past, .media] d ((feedbackStarved leg) d) := by
  beta_reduce
  repeat' first
    | with_reducible assumption
    | with_reducible exact Touches.refl
    | ((try lift_lets -underBinder); intro d_; refine (have hd_ : Touches [.out, .memOut, .sys, .past, .media] d d_ := ?_; ?_); (on_goal 1 => try dsimp only [d_]); (on_goal 2 => clear_value d_))
    | ((try lift_lets -underBinder); intro d_; try clear_value d_)
    | exact Eq.refl true
    | with_reducible refine Touches.andThen ?_ (by with_reducible exact feedbackStarved_touch ..) ?_
    | split
    | dsimp -zeta only
    | (split at ‹ite _ _ _ = (_, _)›)
    | (cases ‹(_, _) = (_, _)›)

theorem t_feedbackReportSend (d : Dev) (leg : Nat) : Touches [.out, .sys, .past, .fold, .tm, .media] d ((feedbackReport leg) d) := by
  beta_reduce
  repeat' first
    | with_reducible assumption
    | with_reducible exact Touches.refl
    | ((try lift_lets -underBinder); intro d_; refine (have hd_ : Touches [.out, .sys, .past, .fold, .tm, .media] d d_ := ?_; ?_); (on_goal 1 => try dsimp only [d_]); (on_goal 2 => clear_value d_))
    | ((try lift_lets -underBinder); intro d_; try clear_value d_)
    | exact Eq.refl true
    | with_reducible refine Touches.andThen ?_ (by with_reducible exact feedbackReport_touch ..) ?_
    | split
    | dsimp -zeta only
    | (split at ‹ite _ _ _ = (_, _)›)
    | (cases ‹(_, _) = (_, _)›)

theorem b_feedbackReportSend (s : State) (leg : Nat) : exec (.feedbackReportSend leg) s = s.become ((feedbackReport leg) s.start) := by
  have hm_ : ((feedbackReport leg) s.start).memOut = [] := (t_feedbackReportSend s.start leg).same .memOut rfl
  simp only [exec, execFeedbackReportSend]
  exact nextDev_become s (feedbackReport leg) hm_

theorem f_feedbackReportSend : ∀ (s : State) (leg : Nat), Ends (exec (.feedbackReportSend leg) s) (Keeps [.out, .sys, .past, .fold, .tm, .media] s) := by
  intro s leg
  simp only [exec, execFeedbackReportSend]
  exact keeps_nextDev (f := (feedbackReport leg)) (t_feedbackReportSend s.start leg) rfl

theorem t_nackSend (d : Dev) (leg seq : Nat) (inTime : Bool) : Touches [.out, .sys, .past, .fold, .tm, .media] d ((nackSend leg seq inTime) d) := by
  beta_reduce
  repeat' first
    | with_reducible assumption
    | with_reducible exact Touches.refl
    | ((try lift_lets -underBinder); intro d_; refine (have hd_ : Touches [.out, .sys, .past, .fold, .tm, .media] d d_ := ?_; ?_); (on_goal 1 => try dsimp only [d_]); (on_goal 2 => clear_value d_))
    | ((try lift_lets -underBinder); intro d_; try clear_value d_)
    | exact Eq.refl true
    | with_reducible refine Touches.andThen ?_ (by with_reducible exact nackSend_touch ..) ?_
    | split
    | dsimp -zeta only
    | (split at ‹ite _ _ _ = (_, _)›)
    | (cases ‹(_, _) = (_, _)›)

theorem b_nackSend (s : State) (leg seq : Nat) (inTime : Bool) : exec (.nackSend leg seq inTime) s = s.become ((nackSend leg seq inTime) s.start) := by
  have hm_ : ((nackSend leg seq inTime) s.start).memOut = [] := (t_nackSend s.start leg seq inTime).same .memOut rfl
  simp only [exec, execNackSend]
  exact nextDev_become s (nackSend leg seq inTime) hm_

theorem f_nackSend : ∀ (s : State) (leg seq : Nat) (inTime : Bool), Ends (exec (.nackSend leg seq inTime) s) (Keeps [.out, .sys, .past, .fold, .tm, .media] s) := by
  intro s leg seq inTime
  simp only [exec, execNackSend]
  exact keeps_nextDev (f := (nackSend leg seq inTime)) (t_nackSend s.start leg seq inTime) rfl

theorem t_legDrainEnd (d : Dev) (leg : Nat) : Touches [.out, .memOut, .sys, .past, .fold, .tm, .media] d ((legDrainEnd leg) d) := by
  beta_reduce
  repeat' first
    | with_reducible assumption
    | with_reducible exact Touches.refl
    | ((try lift_lets -underBinder); intro d_; refine (have hd_ : Touches [.out, .memOut, .sys, .past, .fold, .tm, .media] d d_ := ?_; ?_); (on_goal 1 => try dsimp only [d_]); (on_goal 2 => clear_value d_))
    | ((try lift_lets -underBinder); intro d_; try clear_value d_)
    | exact Eq.refl true
    | with_reducible refine Touches.andThen ?_ (by with_reducible exact legDrainEnd_touch ..) ?_
    | split
    | dsimp -zeta only
    | (split at ‹ite _ _ _ = (_, _)›)
    | (cases ‹(_, _) = (_, _)›)

theorem t_migrationHandover (d : Dev) (kind number : Nat) (crcEqual : Bool) : Touches [.out, .memOut, .sys, .rings, .sess, .past, .parse, .media, .aud, .imc] d ((migrationHandover kind number crcEqual) d) := by
  beta_reduce
  repeat' first
    | with_reducible assumption
    | with_reducible exact Touches.refl
    | ((try lift_lets -underBinder); intro d_; refine (have hd_ : Touches [.out, .memOut, .sys, .rings, .sess, .past, .parse, .media, .aud, .imc] d d_ := ?_; ?_); (on_goal 1 => try dsimp only [d_]); (on_goal 2 => clear_value d_))
    | ((try lift_lets -underBinder); intro d_; try clear_value d_)
    | exact Eq.refl true
    | with_reducible refine Touches.andThen ?_ (by with_reducible exact migrationHandover_touch ..) ?_
    | split
    | dsimp -zeta only
    | (split at ‹ite _ _ _ = (_, _)›)
    | (cases ‹(_, _) = (_, _)›)

theorem t_engineFailed (d : Dev) (engine : Nat) : Touches [.out, .memOut, .sys, .rings, .sess, .bell, .tick, .past, .parse, .flock, .media, .aud, .vid, .imc] d ((engineFailed engine) d) := by
  beta_reduce
  repeat' first
    | with_reducible assumption
    | with_reducible exact Touches.refl
    | ((try lift_lets -underBinder); intro d_; refine (have hd_ : Touches [.out, .memOut, .sys, .rings, .sess, .bell, .tick, .past, .parse, .flock, .media, .aud, .vid, .imc] d d_ := ?_; ?_); (on_goal 1 => try dsimp only [d_]); (on_goal 2 => clear_value d_))
    | ((try lift_lets -underBinder); intro d_; try clear_value d_)
    | exact Eq.refl true
    | with_reducible refine Touches.andThen ?_ (by with_reducible exact engineFailed_touch ..) ?_
    | split
    | dsimp -zeta only
    | (split at ‹ite _ _ _ = (_, _)›)
    | (cases ‹(_, _) = (_, _)›)

theorem t_groupUpdateLoad (d : Dev) (group : Nat) : Touches [.flock] d (((fun (d : Dev) =>
    match (groupOf d group).update with
    | none => d
    | some (img, _) =>
      if (groupOf d group).st ≠ .draining ∨ ¬ groupEmpty d group then d
      else (List.range 16).foldl (fun d k => onEng d (16 * group + k) (fun x => if x.st = .out then x else loadEngine img x)) (onFGroup d group (fun f => { f with st := .loading }))) : Dev → Dev) d) := by
  beta_reduce
  repeat' first
    | with_reducible assumption
    | with_reducible exact Touches.refl
    | ((try lift_lets -underBinder); intro d_; refine (have hd_ : Touches [.flock] d d_ := ?_; ?_); (on_goal 1 => try dsimp only [d_]); (on_goal 2 => clear_value d_))
    | ((try lift_lets -underBinder); intro d_; try clear_value d_)
    | with_reducible apply Touches.foldl
    | (intro _ _ _)
    | exact Eq.refl true
    | with_reducible refine Touches.andThen ?_ (by with_reducible exact onEng_touch ..) ?_
    | with_reducible refine Touches.andThen ?_ (by with_reducible exact onFGroup_touch ..) ?_
    | split
    | dsimp -zeta only
    | (split at ‹ite _ _ _ = (_, _)›)
    | (cases ‹(_, _) = (_, _)›)

theorem b_groupUpdateLoad (s : State) (group : Nat) : exec (.groupUpdateLoad group) s = s.become (((fun (d : Dev) =>
    match (groupOf d group).update with
    | none => d
    | some (img, _) =>
      if (groupOf d group).st ≠ .draining ∨ ¬ groupEmpty d group then d
      else (List.range 16).foldl (fun d k => onEng d (16 * group + k) (fun x => if x.st = .out then x else loadEngine img x)) (onFGroup d group (fun f => { f with st := .loading }))) : Dev → Dev) s.start) := by
  have hm_ : (((fun (d : Dev) =>
    match (groupOf d group).update with
    | none => d
    | some (img, _) =>
      if (groupOf d group).st ≠ .draining ∨ ¬ groupEmpty d group then d
      else (List.range 16).foldl (fun d k => onEng d (16 * group + k) (fun x => if x.st = .out then x else loadEngine img x)) (onFGroup d group (fun f => { f with st := .loading }))) : Dev → Dev) s.start).memOut = [] := (t_groupUpdateLoad s.start group).same .memOut rfl
  simp only [exec, execGroupUpdateLoad]
  exact nextDev_become s ((fun (d : Dev) =>
    match (groupOf d group).update with
    | none => d
    | some (img, _) =>
      if (groupOf d group).st ≠ .draining ∨ ¬ groupEmpty d group then d
      else (List.range 16).foldl (fun d k => onEng d (16 * group + k) (fun x => if x.st = .out then x else loadEngine img x)) (onFGroup d group (fun f => { f with st := .loading }))) : Dev → Dev) hm_

theorem f_groupUpdateLoad : ∀ (s : State) (group : Nat), Ends (exec (.groupUpdateLoad group) s) (Keeps [.flock] s) := by
  intro s group
  simp only [exec, execGroupUpdateLoad]
  exact keeps_nextDev (f := ((fun (d : Dev) =>
    match (groupOf d group).update with
    | none => d
    | some (img, _) =>
      if (groupOf d group).st ≠ .draining ∨ ¬ groupEmpty d group then d
      else (List.range 16).foldl (fun d k => onEng d (16 * group + k) (fun x => if x.st = .out then x else loadEngine img x)) (onFGroup d group (fun f => { f with st := .loading }))) : Dev → Dev)) (t_groupUpdateLoad s.start group) rfl

theorem t_groupUpdateDone (d : Dev) (group : Nat) : Touches [.out, .sys, .rings, .sess, .flock] d (((fun (d : Dev) =>
    match (groupOf d group).update with
    | none => d
    | some (img, x) =>
      if (groupOf d group).st ≠ .loading then d
      else followUp (raiseLeaf (onFGroup d group (fun f => { f with st := .ready, image := some img, update := none })) 19 6) x .done []) : Dev → Dev) d) := by
  beta_reduce
  repeat' first
    | with_reducible assumption
    | with_reducible exact Touches.refl
    | ((try lift_lets -underBinder); intro d_; refine (have hd_ : Touches [.out, .sys, .rings, .sess, .flock] d d_ := ?_; ?_); (on_goal 1 => try dsimp only [d_]); (on_goal 2 => clear_value d_))
    | ((try lift_lets -underBinder); intro d_; try clear_value d_)
    | exact Eq.refl true
    | with_reducible refine Touches.andThen ?_ (by with_reducible exact onFGroup_touch ..) ?_
    | with_reducible refine Touches.andThen ?_ (by with_reducible exact followUp_touch ..) ?_
    | with_reducible refine Touches.andThen ?_ (by with_reducible exact raiseLeaf_touch ..) ?_
    | split
    | dsimp -zeta only
    | (split at ‹ite _ _ _ = (_, _)›)
    | (cases ‹(_, _) = (_, _)›)

theorem b_groupUpdateDone (s : State) (group : Nat) : exec (.groupUpdateDone group) s = s.become (((fun (d : Dev) =>
    match (groupOf d group).update with
    | none => d
    | some (img, x) =>
      if (groupOf d group).st ≠ .loading then d
      else followUp (raiseLeaf (onFGroup d group (fun f => { f with st := .ready, image := some img, update := none })) 19 6) x .done []) : Dev → Dev) s.start) := by
  have hm_ : (((fun (d : Dev) =>
    match (groupOf d group).update with
    | none => d
    | some (img, x) =>
      if (groupOf d group).st ≠ .loading then d
      else followUp (raiseLeaf (onFGroup d group (fun f => { f with st := .ready, image := some img, update := none })) 19 6) x .done []) : Dev → Dev) s.start).memOut = [] := (t_groupUpdateDone s.start group).same .memOut rfl
  simp only [exec, execGroupUpdateDone]
  exact nextDev_become s ((fun (d : Dev) =>
    match (groupOf d group).update with
    | none => d
    | some (img, x) =>
      if (groupOf d group).st ≠ .loading then d
      else followUp (raiseLeaf (onFGroup d group (fun f => { f with st := .ready, image := some img, update := none })) 19 6) x .done []) : Dev → Dev) hm_

theorem f_groupUpdateDone : ∀ (s : State) (group : Nat), Ends (exec (.groupUpdateDone group) s) (Keeps [.out, .sys, .rings, .sess, .flock] s) := by
  intro s group
  simp only [exec, execGroupUpdateDone]
  exact keeps_nextDev (f := ((fun (d : Dev) =>
    match (groupOf d group).update with
    | none => d
    | some (img, x) =>
      if (groupOf d group).st ≠ .loading then d
      else followUp (raiseLeaf (onFGroup d group (fun f => { f with st := .ready, image := some img, update := none })) 19 6) x .done []) : Dev → Dev)) (t_groupUpdateDone s.start group) rfl

theorem t_imcStreamRx (d : Dev) (trunk : Nat) (bytes : List Byte) : Touches [.out, .sys, .imc] d ((imcStream trunk bytes) d) := by
  beta_reduce
  repeat' first
    | with_reducible assumption
    | with_reducible exact Touches.refl
    | ((try lift_lets -underBinder); intro d_; refine (have hd_ : Touches [.out, .sys, .imc] d d_ := ?_; ?_); (on_goal 1 => try dsimp only [d_]); (on_goal 2 => clear_value d_))
    | ((try lift_lets -underBinder); intro d_; try clear_value d_)
    | exact Eq.refl true
    | with_reducible refine Touches.andThen ?_ (by with_reducible exact imcStream_touch ..) ?_
    | split
    | dsimp -zeta only
    | (split at ‹ite _ _ _ = (_, _)›)
    | (cases ‹(_, _) = (_, _)›)

theorem b_imcStreamRx (s : State) (trunk : Nat) (bytes : List Byte) : exec (.imcStreamRx trunk bytes) s = s.become ((imcStream trunk bytes) s.start) := by
  have hm_ : ((imcStream trunk bytes) s.start).memOut = [] := (t_imcStreamRx s.start trunk bytes).same .memOut rfl
  simp only [exec, execImcStreamRx]
  exact nextDev_become s (imcStream trunk bytes) hm_

theorem f_imcStreamRx : ∀ (s : State) (trunk : Nat) (bytes : List Byte), Ends (exec (.imcStreamRx trunk bytes) s) (Keeps [.out, .sys, .imc] s) := by
  intro s trunk bytes
  simp only [exec, execImcStreamRx]
  exact keeps_nextDev (f := (imcStream trunk bytes)) (t_imcStreamRx s.start trunk bytes) rfl

theorem t_imcDegInterval (d : Dev) (trunk : Nat) : Touches [.out, .sys, .imc] d ((fun (d : Dev) => match tget d.imc.trunks trunk with
    | none => d
    | some t => putTrunk d trunk (degInterval t)) d) := by
  beta_reduce
  repeat' first
    | with_reducible assumption
    | with_reducible exact Touches.refl
    | ((try lift_lets -underBinder); intro d_; refine (have hd_ : Touches [.out, .sys, .imc] d d_ := ?_; ?_); (on_goal 1 => try dsimp only [d_]); (on_goal 2 => clear_value d_))
    | ((try lift_lets -underBinder); intro d_; try clear_value d_)
    | exact Eq.refl true
    | with_reducible refine Touches.andThen ?_ (by with_reducible exact putTrunk_touch ..) ?_
    | split
    | dsimp -zeta only
    | (split at ‹ite _ _ _ = (_, _)›)
    | (cases ‹(_, _) = (_, _)›)

theorem b_imcDegInterval (s : State) (trunk : Nat) : exec (.imcDegInterval trunk) s = s.become ((fun (d : Dev) => match tget d.imc.trunks trunk with
    | none => d
    | some t => putTrunk d trunk (degInterval t)) s.start) := by
  have hm_ : ((fun (d : Dev) => match tget d.imc.trunks trunk with
    | none => d
    | some t => putTrunk d trunk (degInterval t)) s.start).memOut = [] := (t_imcDegInterval s.start trunk).same .memOut rfl
  simp only [exec, execImcDegInterval]
  exact nextDev_become s (fun (d : Dev) => match tget d.imc.trunks trunk with
    | none => d
    | some t => putTrunk d trunk (degInterval t)) hm_

theorem f_imcDegInterval : ∀ (s : State) (trunk : Nat), Ends (exec (.imcDegInterval trunk) s) (Keeps [.out, .sys, .imc] s) := by
  intro s trunk
  simp only [exec, execImcDegInterval]
  exact keeps_nextDev (f := (fun (d : Dev) => match tget d.imc.trunks trunk with
    | none => d
    | some t => putTrunk d trunk (degInterval t))) (t_imcDegInterval s.start trunk) rfl

theorem t_droveStart (d : Dev) (chan : Nat) : Touches [.drove] d ((fun (d : Dev) => if chan < 128 ∧ domOn d 2 then droveStart chan d else d) d) := by
  beta_reduce
  repeat' first
    | with_reducible assumption
    | with_reducible exact Touches.refl
    | ((try lift_lets -underBinder); intro d_; refine (have hd_ : Touches [.drove] d d_ := ?_; ?_); (on_goal 1 => try dsimp only [d_]); (on_goal 2 => clear_value d_))
    | ((try lift_lets -underBinder); intro d_; try clear_value d_)
    | exact Eq.refl true
    | with_reducible refine Touches.andThen ?_ (by with_reducible exact droveStart_touch ..) ?_
    | split
    | dsimp -zeta only
    | (split at ‹ite _ _ _ = (_, _)›)
    | (cases ‹(_, _) = (_, _)›)

theorem b_droveStart (s : State) (chan : Nat) : exec (.droveStart chan) s = s.become ((fun (d : Dev) => if chan < 128 ∧ domOn d 2 then droveStart chan d else d) s.start) := by
  have hm_ : ((fun (d : Dev) => if chan < 128 ∧ domOn d 2 then droveStart chan d else d) s.start).memOut = [] := (t_droveStart s.start chan).same .memOut rfl
  simp only [exec, execDroveStart]
  exact nextDev_become s (fun (d : Dev) => if chan < 128 ∧ domOn d 2 then droveStart chan d else d) hm_

theorem f_droveStart : ∀ (s : State) (chan : Nat), Ends (exec (.droveStart chan) s) (Keeps [.drove] s) := by
  intro s chan
  simp only [exec, execDroveStart]
  exact keeps_nextDev (f := (fun (d : Dev) => if chan < 128 ∧ domOn d 2 then droveStart chan d else d)) (t_droveStart s.start chan) rfl

theorem t_droveResume (d : Dev) (chan : Nat) : Touches [.drove] d ((fun (d : Dev) => if chan < 128 ∧ domOn d 2 then droveResume chan d else d) d) := by
  beta_reduce
  repeat' first
    | with_reducible assumption
    | with_reducible exact Touches.refl
    | ((try lift_lets -underBinder); intro d_; refine (have hd_ : Touches [.drove] d d_ := ?_; ?_); (on_goal 1 => try dsimp only [d_]); (on_goal 2 => clear_value d_))
    | ((try lift_lets -underBinder); intro d_; try clear_value d_)
    | exact Eq.refl true
    | with_reducible refine Touches.andThen ?_ (by with_reducible exact droveResume_touch ..) ?_
    | split
    | dsimp -zeta only
    | (split at ‹ite _ _ _ = (_, _)›)
    | (cases ‹(_, _) = (_, _)›)

theorem b_droveResume (s : State) (chan : Nat) : exec (.droveResume chan) s = s.become ((fun (d : Dev) => if chan < 128 ∧ domOn d 2 then droveResume chan d else d) s.start) := by
  have hm_ : ((fun (d : Dev) => if chan < 128 ∧ domOn d 2 then droveResume chan d else d) s.start).memOut = [] := (t_droveResume s.start chan).same .memOut rfl
  simp only [exec, execDroveResume]
  exact nextDev_become s (fun (d : Dev) => if chan < 128 ∧ domOn d 2 then droveResume chan d else d) hm_

theorem f_droveResume : ∀ (s : State) (chan : Nat), Ends (exec (.droveResume chan) s) (Keeps [.drove] s) := by
  intro s chan
  simp only [exec, execDroveResume]
  exact keeps_nextDev (f := (fun (d : Dev) => if chan < 128 ∧ domOn d 2 then droveResume chan d else d)) (t_droveResume s.start chan) rfl

theorem t_droveSkip (d : Dev) (chan : Nat) : Touches [.drove] d ((fun (d : Dev) => if chan < 128 ∧ domOn d 2 then droveSkip chan d else d) d) := by
  beta_reduce
  repeat' first
    | with_reducible assumption
    | with_reducible exact Touches.refl
    | ((try lift_lets -underBinder); intro d_; refine (have hd_ : Touches [.drove] d d_ := ?_; ?_); (on_goal 1 => try dsimp only [d_]); (on_goal 2 => clear_value d_))
    | ((try lift_lets -underBinder); intro d_; try clear_value d_)
    | exact Eq.refl true
    | with_reducible refine Touches.andThen ?_ (by with_reducible exact droveSkip_touch ..) ?_
    | split
    | dsimp -zeta only
    | (split at ‹ite _ _ _ = (_, _)›)
    | (cases ‹(_, _) = (_, _)›)

theorem b_droveSkip (s : State) (chan : Nat) : exec (.droveSkip chan) s = s.become ((fun (d : Dev) => if chan < 128 ∧ domOn d 2 then droveSkip chan d else d) s.start) := by
  have hm_ : ((fun (d : Dev) => if chan < 128 ∧ domOn d 2 then droveSkip chan d else d) s.start).memOut = [] := (t_droveSkip s.start chan).same .memOut rfl
  simp only [exec, execDroveSkip]
  exact nextDev_become s (fun (d : Dev) => if chan < 128 ∧ domOn d 2 then droveSkip chan d else d) hm_

theorem f_droveSkip : ∀ (s : State) (chan : Nat), Ends (exec (.droveSkip chan) s) (Keeps [.drove] s) := by
  intro s chan
  simp only [exec, execDroveSkip]
  exact keeps_nextDev (f := (fun (d : Dev) => if chan < 128 ∧ domOn d 2 then droveSkip chan d else d)) (t_droveSkip s.start chan) rfl

theorem t_droveAbort (d : Dev) (chan : Nat) : Touches [.drove] d ((fun (d : Dev) => if chan < 128 ∧ domOn d 2 then droveAbort chan d else d) d) := by
  beta_reduce
  repeat' first
    | with_reducible assumption
    | with_reducible exact Touches.refl
    | ((try lift_lets -underBinder); intro d_; refine (have hd_ : Touches [.drove] d d_ := ?_; ?_); (on_goal 1 => try dsimp only [d_]); (on_goal 2 => clear_value d_))
    | ((try lift_lets -underBinder); intro d_; try clear_value d_)
    | exact Eq.refl true
    | with_reducible refine Touches.andThen ?_ (by with_reducible exact droveAbort_touch ..) ?_
    | split
    | dsimp -zeta only
    | (split at ‹ite _ _ _ = (_, _)›)
    | (cases ‹(_, _) = (_, _)›)

theorem b_droveAbort (s : State) (chan : Nat) : exec (.droveAbort chan) s = s.become ((fun (d : Dev) => if chan < 128 ∧ domOn d 2 then droveAbort chan d else d) s.start) := by
  have hm_ : ((fun (d : Dev) => if chan < 128 ∧ domOn d 2 then droveAbort chan d else d) s.start).memOut = [] := (t_droveAbort s.start chan).same .memOut rfl
  simp only [exec, execDroveAbort]
  exact nextDev_become s (fun (d : Dev) => if chan < 128 ∧ domOn d 2 then droveAbort chan d else d) hm_

theorem f_droveAbort : ∀ (s : State) (chan : Nat), Ends (exec (.droveAbort chan) s) (Keeps [.drove] s) := by
  intro s chan
  simp only [exec, execDroveAbort]
  exact keeps_nextDev (f := (fun (d : Dev) => if chan < 128 ∧ domOn d 2 then droveAbort chan d else d)) (t_droveAbort s.start chan) rfl

theorem t_droveTrigger (d : Dev) (line : Nat) : Touches [.drove] d ((fun (d : Dev) => if domOn d 2 then (d.drove.chans.map (·.1)).foldl (triggerChan line) d else d) d) := by
  beta_reduce
  repeat' first
    | with_reducible assumption
    | with_reducible exact Touches.refl
    | ((try lift_lets -underBinder); intro d_; refine (have hd_ : Touches [.drove] d d_ := ?_; ?_); (on_goal 1 => try dsimp only [d_]); (on_goal 2 => clear_value d_))
    | ((try lift_lets -underBinder); intro d_; try clear_value d_)
    | with_reducible apply Touches.foldl
    | (intro _ _ _)
    | exact Eq.refl true
    | with_reducible refine Touches.andThen ?_ (by with_reducible exact triggerChan_touch ..) ?_
    | split
    | dsimp -zeta only
    | (split at ‹ite _ _ _ = (_, _)›)
    | (cases ‹(_, _) = (_, _)›)

theorem b_droveTrigger (s : State) (line : Nat) : exec (.droveTrigger line) s = s.become ((fun (d : Dev) => if domOn d 2 then (d.drove.chans.map (·.1)).foldl (triggerChan line) d else d) s.start) := by
  have hm_ : ((fun (d : Dev) => if domOn d 2 then (d.drove.chans.map (·.1)).foldl (triggerChan line) d else d) s.start).memOut = [] := (t_droveTrigger s.start line).same .memOut rfl
  simp only [exec, execDroveTrigger]
  exact nextDev_become s (fun (d : Dev) => if domOn d 2 then (d.drove.chans.map (·.1)).foldl (triggerChan line) d else d) hm_

theorem f_droveTrigger : ∀ (s : State) (line : Nat), Ends (exec (.droveTrigger line) s) (Keeps [.drove] s) := by
  intro s line
  simp only [exec, execDroveTrigger]
  exact keeps_nextDev (f := (fun (d : Dev) => if domOn d 2 then (d.drove.chans.map (·.1)).foldl (triggerChan line) d else d)) (t_droveTrigger s.start line) rfl

theorem t_pastureRequest (d : Dev) (cls addr : Nat) (write : Bool) (find : EccFind) : Touches [.out, .sys, .past, .integ] d ((fun (d : Dev) =>
    if ¬ domOn d 16 then d
    else
      let d := pastureRequest cls d
      if addr ≥ pastureSize then d else if write then eccWrite d (pastMemClass addr) addr else (eccRead d (pastMemClass addr) addr find).2) d) := by
  beta_reduce
  repeat' first
    | with_reducible assumption
    | with_reducible exact Touches.refl
    | ((try lift_lets -underBinder); intro d_; refine (have hd_ : Touches [.out, .sys, .past, .integ] d d_ := ?_; ?_); (on_goal 1 => try dsimp only [d_]); (on_goal 2 => clear_value d_))
    | ((try lift_lets -underBinder); intro d_; try clear_value d_)
    | exact Eq.refl true
    | with_reducible refine Touches.andThen ?_ (by with_reducible exact pastureRequest_touch ..) ?_
    | with_reducible refine Touches.andThen ?_ (by with_reducible exact eccWrite_touch ..) ?_
    | with_reducible refine Touches.andThen ?_ (by with_reducible exact eccRead_touch ..) ?_
    | refine Touches.andThen ?_ (eccRead_touch' (h_ := by assumption) ..) ?_
    | with_reducible refine Touches.andThen ?_ (by with_reducible exact eccCe_touch ..) ?_
    | with_reducible refine Touches.andThen ?_ (by with_reducible exact eccUe_touch ..) ?_
    | split
    | dsimp -zeta only
    | (split at ‹ite _ _ _ = (_, _)›)
    | (cases ‹(_, _) = (_, _)›)

theorem b_pastureRequest (s : State) (cls addr : Nat) (write : Bool) (find : EccFind) : exec (.pastureRequest cls addr write find) s = s.become ((fun (d : Dev) =>
    if ¬ domOn d 16 then d
    else
      let d := pastureRequest cls d
      if addr ≥ pastureSize then d else if write then eccWrite d (pastMemClass addr) addr else (eccRead d (pastMemClass addr) addr find).2) s.start) := by
  have hm_ : ((fun (d : Dev) =>
    if ¬ domOn d 16 then d
    else
      let d := pastureRequest cls d
      if addr ≥ pastureSize then d else if write then eccWrite d (pastMemClass addr) addr else (eccRead d (pastMemClass addr) addr find).2) s.start).memOut = [] := (t_pastureRequest s.start cls addr write find).same .memOut rfl
  simp only [exec, execPastureRequest]
  exact nextDev_become s (fun (d : Dev) =>
    if ¬ domOn d 16 then d
    else
      let d := pastureRequest cls d
      if addr ≥ pastureSize then d else if write then eccWrite d (pastMemClass addr) addr else (eccRead d (pastMemClass addr) addr find).2) hm_

theorem f_pastureRequest : ∀ (s : State) (cls addr : Nat) (write : Bool) (find : EccFind), Ends (exec (.pastureRequest cls addr write find) s) (Keeps [.out, .sys, .past, .integ] s) := by
  intro s cls addr write find
  simp only [exec, execPastureRequest]
  exact keeps_nextDev (f := (fun (d : Dev) =>
    if ¬ domOn d 16 then d
    else
      let d := pastureRequest cls d
      if addr ≥ pastureSize then d else if write then eccWrite d (pastMemClass addr) addr else (eccRead d (pastMemClass addr) addr find).2)) (t_pastureRequest s.start cls addr write find) rfl

theorem t_rowRemapStart (d : Dev)  : Touches [.out, .sys, .past, .integ] d ((fun (d : Dev) => if domOn d 16 then [0, 1].foldl (fun d k => (stackOf d k).cands.foldl (fun d c => beginRow d k c) d) d else d) d) := by
  beta_reduce
  repeat' first
    | with_reducible assumption
    | with_reducible exact Touches.refl
    | ((try lift_lets -underBinder); intro d_; refine (have hd_ : Touches [.out, .sys, .past, .integ] d d_ := ?_; ?_); (on_goal 1 => try dsimp only [d_]); (on_goal 2 => clear_value d_))
    | ((try lift_lets -underBinder); intro d_; try clear_value d_)
    | with_reducible apply Touches.foldl
    | (intro _ _ _)
    | exact Eq.refl true
    | with_reducible refine Touches.andThen ?_ (by with_reducible exact beginRow_touch ..) ?_
    | split
    | dsimp -zeta only
    | (split at ‹ite _ _ _ = (_, _)›)
    | (cases ‹(_, _) = (_, _)›)

theorem b_rowRemapStart (s : State)  : exec .rowRemapStart s = s.become ((fun (d : Dev) => if domOn d 16 then [0, 1].foldl (fun d k => (stackOf d k).cands.foldl (fun d c => beginRow d k c) d) d else d) s.start) := by
  have hm_ : ((fun (d : Dev) => if domOn d 16 then [0, 1].foldl (fun d k => (stackOf d k).cands.foldl (fun d c => beginRow d k c) d) d else d) s.start).memOut = [] := (t_rowRemapStart s.start ).same .memOut rfl
  simp only [exec, execRowRemapStart]
  exact nextDev_become s (fun (d : Dev) => if domOn d 16 then [0, 1].foldl (fun d k => (stackOf d k).cands.foldl (fun d c => beginRow d k c) d) d else d) hm_

theorem f_rowRemapStart : ∀ (s : State), Ends (exec .rowRemapStart s) (Keeps [.out, .sys, .past, .integ] s) := by
  intro s 
  simp only [exec, execRowRemapStart]
  exact keeps_nextDev (f := (fun (d : Dev) => if domOn d 16 then [0, 1].foldl (fun d k => (stackOf d k).cands.foldl (fun d c => beginRow d k c) d) d else d)) (t_rowRemapStart s.start ) rfl

theorem t_rowRemapComplete (d : Dev)  : Touches [.out, .sys, .integ] d ((fun (d : Dev) => [0, 1].foldl (fun d k => (stackOf d k).copying.foldl (fun d r => endRow d k r) d) d) d) := by
  beta_reduce
  repeat' first
    | with_reducible assumption
    | with_reducible exact Touches.refl
    | ((try lift_lets -underBinder); intro d_; refine (have hd_ : Touches [.out, .sys, .integ] d d_ := ?_; ?_); (on_goal 1 => try dsimp only [d_]); (on_goal 2 => clear_value d_))
    | ((try lift_lets -underBinder); intro d_; try clear_value d_)
    | with_reducible apply Touches.foldl
    | (intro _ _ _)
    | exact Eq.refl true
    | with_reducible refine Touches.andThen ?_ (by with_reducible exact endRow_touch ..) ?_
    | split
    | dsimp -zeta only
    | (split at ‹ite _ _ _ = (_, _)›)
    | (cases ‹(_, _) = (_, _)›)

theorem b_rowRemapComplete (s : State)  : exec .rowRemapComplete s = s.become ((fun (d : Dev) => [0, 1].foldl (fun d k => (stackOf d k).copying.foldl (fun d r => endRow d k r) d) d) s.start) := by
  have hm_ : ((fun (d : Dev) => [0, 1].foldl (fun d k => (stackOf d k).copying.foldl (fun d r => endRow d k r) d) d) s.start).memOut = [] := (t_rowRemapComplete s.start ).same .memOut rfl
  simp only [exec, execRowRemapComplete]
  exact nextDev_become s (fun (d : Dev) => [0, 1].foldl (fun d k => (stackOf d k).copying.foldl (fun d r => endRow d k r) d) d) hm_

theorem f_rowRemapComplete : ∀ (s : State), Ends (exec .rowRemapComplete s) (Keeps [.out, .sys, .integ] s) := by
  intro s 
  simp only [exec, execRowRemapComplete]
  exact keeps_nextDev (f := (fun (d : Dev) => [0, 1].foldl (fun d k => (stackOf d k).copying.foldl (fun d r => endRow d k r) d) d)) (t_rowRemapComplete s.start ) rfl

theorem t_cvInit (d : Dev) (cv : Nat) : Touches [.integ] d ((fun (d : Dev) => if cv < 64 ∧ domOn d 2 then cvInit cv d else d) d) := by
  beta_reduce
  repeat' first
    | with_reducible assumption
    | with_reducible exact Touches.refl
    | ((try lift_lets -underBinder); intro d_; refine (have hd_ : Touches [.integ] d d_ := ?_; ?_); (on_goal 1 => try dsimp only [d_]); (on_goal 2 => clear_value d_))
    | ((try lift_lets -underBinder); intro d_; try clear_value d_)
    | exact Eq.refl true
    | with_reducible refine Touches.andThen ?_ (by with_reducible exact cvInit_touch ..) ?_
    | split
    | dsimp -zeta only
    | (split at ‹ite _ _ _ = (_, _)›)
    | (cases ‹(_, _) = (_, _)›)

theorem b_cvInit (s : State) (cv : Nat) : exec (.cvInit cv) s = s.become ((fun (d : Dev) => if cv < 64 ∧ domOn d 2 then cvInit cv d else d) s.start) := by
  have hm_ : ((fun (d : Dev) => if cv < 64 ∧ domOn d 2 then cvInit cv d else d) s.start).memOut = [] := (t_cvInit s.start cv).same .memOut rfl
  simp only [exec, execCvInit, cvAct]
  exact nextDev_become s (fun (d : Dev) => if cv < 64 ∧ domOn d 2 then cvInit cv d else d) hm_

theorem f_cvInit : ∀ (s : State) (cv : Nat), Ends (exec (.cvInit cv) s) (Keeps [.integ] s) := by
  intro s cv
  simp only [exec, execCvInit, cvAct]
  exact keeps_nextDev (f := (fun (d : Dev) => if cv < 64 ∧ domOn d 2 then cvInit cv d else d)) (t_cvInit s.start cv) rfl

theorem t_cvData8 (d : Dev) (cv data : Nat) : Touches [.integ] d ((fun (d : Dev) => if cv < 64 ∧ domOn d 2 then cvData cv 1 data d else d) d) := by
  beta_reduce
  repeat' first
    | with_reducible assumption
    | with_reducible exact Touches.refl
    | ((try lift_lets -underBinder); intro d_; refine (have hd_ : Touches [.integ] d d_ := ?_; ?_); (on_goal 1 => try dsimp only [d_]); (on_goal 2 => clear_value d_))
    | ((try lift_lets -underBinder); intro d_; try clear_value d_)
    | exact Eq.refl true
    | with_reducible refine Touches.andThen ?_ (by with_reducible exact cvData_touch ..) ?_
    | split
    | dsimp -zeta only
    | (split at ‹ite _ _ _ = (_, _)›)
    | (cases ‹(_, _) = (_, _)›)

theorem b_cvData8 (s : State) (cv data : Nat) : exec (.cvData8 cv data) s = s.become ((fun (d : Dev) => if cv < 64 ∧ domOn d 2 then cvData cv 1 data d else d) s.start) := by
  have hm_ : ((fun (d : Dev) => if cv < 64 ∧ domOn d 2 then cvData cv 1 data d else d) s.start).memOut = [] := (t_cvData8 s.start cv data).same .memOut rfl
  simp only [exec, execCvData8, cvAct]
  exact nextDev_become s (fun (d : Dev) => if cv < 64 ∧ domOn d 2 then cvData cv 1 data d else d) hm_

theorem f_cvData8 : ∀ (s : State) (cv data : Nat), Ends (exec (.cvData8 cv data) s) (Keeps [.integ] s) := by
  intro s cv data
  simp only [exec, execCvData8, cvAct]
  exact keeps_nextDev (f := (fun (d : Dev) => if cv < 64 ∧ domOn d 2 then cvData cv 1 data d else d)) (t_cvData8 s.start cv data) rfl

theorem t_cvData16 (d : Dev) (cv data : Nat) : Touches [.integ] d ((fun (d : Dev) => if cv < 64 ∧ domOn d 2 then cvData cv 2 data d else d) d) := by
  beta_reduce
  repeat' first
    | with_reducible assumption
    | with_reducible exact Touches.refl
    | ((try lift_lets -underBinder); intro d_; refine (have hd_ : Touches [.integ] d d_ := ?_; ?_); (on_goal 1 => try dsimp only [d_]); (on_goal 2 => clear_value d_))
    | ((try lift_lets -underBinder); intro d_; try clear_value d_)
    | exact Eq.refl true
    | with_reducible refine Touches.andThen ?_ (by with_reducible exact cvData_touch ..) ?_
    | split
    | dsimp -zeta only
    | (split at ‹ite _ _ _ = (_, _)›)
    | (cases ‹(_, _) = (_, _)›)

theorem b_cvData16 (s : State) (cv data : Nat) : exec (.cvData16 cv data) s = s.become ((fun (d : Dev) => if cv < 64 ∧ domOn d 2 then cvData cv 2 data d else d) s.start) := by
  have hm_ : ((fun (d : Dev) => if cv < 64 ∧ domOn d 2 then cvData cv 2 data d else d) s.start).memOut = [] := (t_cvData16 s.start cv data).same .memOut rfl
  simp only [exec, execCvData16, cvAct]
  exact nextDev_become s (fun (d : Dev) => if cv < 64 ∧ domOn d 2 then cvData cv 2 data d else d) hm_

theorem f_cvData16 : ∀ (s : State) (cv data : Nat), Ends (exec (.cvData16 cv data) s) (Keeps [.integ] s) := by
  intro s cv data
  simp only [exec, execCvData16, cvAct]
  exact keeps_nextDev (f := (fun (d : Dev) => if cv < 64 ∧ domOn d 2 then cvData cv 2 data d else d)) (t_cvData16 s.start cv data) rfl

theorem t_cvData32 (d : Dev) (cv data : Nat) : Touches [.integ] d ((fun (d : Dev) => if cv < 64 ∧ domOn d 2 then cvData cv 4 data d else d) d) := by
  beta_reduce
  repeat' first
    | with_reducible assumption
    | with_reducible exact Touches.refl
    | ((try lift_lets -underBinder); intro d_; refine (have hd_ : Touches [.integ] d d_ := ?_; ?_); (on_goal 1 => try dsimp only [d_]); (on_goal 2 => clear_value d_))
    | ((try lift_lets -underBinder); intro d_; try clear_value d_)
    | exact Eq.refl true
    | with_reducible refine Touches.andThen ?_ (by with_reducible exact cvData_touch ..) ?_
    | split
    | dsimp -zeta only
    | (split at ‹ite _ _ _ = (_, _)›)
    | (cases ‹(_, _) = (_, _)›)

theorem b_cvData32 (s : State) (cv data : Nat) : exec (.cvData32 cv data) s = s.become ((fun (d : Dev) => if cv < 64 ∧ domOn d 2 then cvData cv 4 data d else d) s.start) := by
  have hm_ : ((fun (d : Dev) => if cv < 64 ∧ domOn d 2 then cvData cv 4 data d else d) s.start).memOut = [] := (t_cvData32 s.start cv data).same .memOut rfl
  simp only [exec, execCvData32, cvAct]
  exact nextDev_become s (fun (d : Dev) => if cv < 64 ∧ domOn d 2 then cvData cv 4 data d else d) hm_

theorem f_cvData32 : ∀ (s : State) (cv data : Nat), Ends (exec (.cvData32 cv data) s) (Keeps [.integ] s) := by
  intro s cv data
  simp only [exec, execCvData32, cvAct]
  exact keeps_nextDev (f := (fun (d : Dev) => if cv < 64 ∧ domOn d 2 then cvData cv 4 data d else d)) (t_cvData32 s.start cv data) rfl

theorem t_cvValueWrite (d : Dev) (cv : Nat) (high : Bool) (value : Nat) : Touches [.integ] d ((fun (d : Dev) => if cv < 64 ∧ domOn d 2 then cvValue cv high value d else d) d) := by
  beta_reduce
  repeat' first
    | with_reducible assumption
    | with_reducible exact Touches.refl
    | ((try lift_lets -underBinder); intro d_; refine (have hd_ : Touches [.integ] d d_ := ?_; ?_); (on_goal 1 => try dsimp only [d_]); (on_goal 2 => clear_value d_))
    | ((try lift_lets -underBinder); intro d_; try clear_value d_)
    | exact Eq.refl true
    | with_reducible refine Touches.andThen ?_ (by with_reducible exact cvValue_touch ..) ?_
    | split
    | dsimp -zeta only
    | (split at ‹ite _ _ _ = (_, _)›)
    | (cases ‹(_, _) = (_, _)›)

theorem b_cvValueWrite (s : State) (cv : Nat) (high : Bool) (value : Nat) : exec (.cvValueWrite cv high value) s = s.become ((fun (d : Dev) => if cv < 64 ∧ domOn d 2 then cvValue cv high value d else d) s.start) := by
  have hm_ : ((fun (d : Dev) => if cv < 64 ∧ domOn d 2 then cvValue cv high value d else d) s.start).memOut = [] := (t_cvValueWrite s.start cv high value).same .memOut rfl
  simp only [exec, execCvValueWrite, cvAct]
  exact nextDev_become s (fun (d : Dev) => if cv < 64 ∧ domOn d 2 then cvValue cv high value d else d) hm_

theorem f_cvValueWrite : ∀ (s : State) (cv : Nat) (high : Bool) (value : Nat), Ends (exec (.cvValueWrite cv high value) s) (Keeps [.integ] s) := by
  intro s cv high value
  simp only [exec, execCvValueWrite, cvAct]
  exact keeps_nextDev (f := (fun (d : Dev) => if cv < 64 ∧ domOn d 2 then cvValue cv high value d else d)) (t_cvValueWrite s.start cv high value) rfl

theorem t_cvAliveWrite (d : Dev) (cv value : Nat) : Touches [.integ] d ((fun (d : Dev) => if cv < 64 ∧ domOn d 2 then cvAlive cv value d else d) d) := by
  beta_reduce
  repeat' first
    | with_reducible assumption
    | with_reducible exact Touches.refl
    | ((try lift_lets -underBinder); intro d_; refine (have hd_ : Touches [.integ] d d_ := ?_; ?_); (on_goal 1 => try dsimp only [d_]); (on_goal 2 => clear_value d_))
    | ((try lift_lets -underBinder); intro d_; try clear_value d_)
    | exact Eq.refl true
    | with_reducible refine Touches.andThen ?_ (by with_reducible exact cvAlive_touch ..) ?_
    | split
    | dsimp -zeta only
    | (split at ‹ite _ _ _ = (_, _)›)
    | (cases ‹(_, _) = (_, _)›)

theorem b_cvAliveWrite (s : State) (cv value : Nat) : exec (.cvAliveWrite cv value) s = s.become ((fun (d : Dev) => if cv < 64 ∧ domOn d 2 then cvAlive cv value d else d) s.start) := by
  have hm_ : ((fun (d : Dev) => if cv < 64 ∧ domOn d 2 then cvAlive cv value d else d) s.start).memOut = [] := (t_cvAliveWrite s.start cv value).same .memOut rfl
  simp only [exec, execCvAliveWrite, cvAct]
  exact nextDev_become s (fun (d : Dev) => if cv < 64 ∧ domOn d 2 then cvAlive cv value d else d) hm_

theorem f_cvAliveWrite : ∀ (s : State) (cv value : Nat), Ends (exec (.cvAliveWrite cv value) s) (Keeps [.integ] s) := by
  intro s cv value
  simp only [exec, execCvAliveWrite, cvAct]
  exact keeps_nextDev (f := (fun (d : Dev) => if cv < 64 ∧ domOn d 2 then cvAlive cv value d else d)) (t_cvAliveWrite s.start cv value) rfl

theorem t_clientFrameRx (d : Dev) (port : Nat) (f : FrameIn) : Touches [.freeCtr, .out, .sys, .bell, .past, .fold, .parse, .tm, .cli, .flock, .casc, .integ] d ((fun (d : Dev) => clientFrame d port f) d) := by
  beta_reduce
  repeat' first
    | with_reducible assumption
    | with_reducible exact Touches.refl
    | ((try lift_lets -underBinder); intro d_; refine (have hd_ : Touches [.freeCtr, .out, .sys, .bell, .past, .fold, .parse, .tm, .cli, .flock, .casc, .integ] d d_ := ?_; ?_); (on_goal 1 => try dsimp only [d_]); (on_goal 2 => clear_value d_))
    | ((try lift_lets -underBinder); intro d_; try clear_value d_)
    | exact Eq.refl true
    | with_reducible refine Touches.andThen ?_ (by with_reducible exact clientFrame_touch ..) ?_
    | split
    | dsimp -zeta only
    | (split at ‹ite _ _ _ = (_, _)›)
    | (cases ‹(_, _) = (_, _)›)

theorem b_clientFrameRx (s : State) (port : Nat) (f : FrameIn) : exec (.clientFrameRx port f) s = s.become ((fun (d : Dev) => clientFrame d port f) s.start) := by
  have hm_ : ((fun (d : Dev) => clientFrame d port f) s.start).memOut = [] := (t_clientFrameRx s.start port f).same .memOut rfl
  simp only [exec, execClientFrameRx]
  exact nextDev_become s (fun (d : Dev) => clientFrame d port f) hm_

theorem f_clientFrameRx : ∀ (s : State) (port : Nat) (f : FrameIn), Ends (exec (.clientFrameRx port f) s) (Keeps [.freeCtr, .out, .sys, .bell, .past, .fold, .parse, .tm, .cli, .flock, .casc, .integ] s) := by
  intro s port f
  simp only [exec, execClientFrameRx]
  exact keeps_nextDev (f := (fun (d : Dev) => clientFrame d port f)) (t_clientFrameRx s.start port f) rfl

theorem t_serviceCollision (d : Dev) (late : Bool) : Touches [.freeCtr, .out, .sys, .cli] d ((fun (d : Dev) => serviceCollision d late) d) := by
  beta_reduce
  repeat' first
    | with_reducible assumption
    | with_reducible exact Touches.refl
    | ((try lift_lets -underBinder); intro d_; refine (have hd_ : Touches [.freeCtr, .out, .sys, .cli] d d_ := ?_; ?_); (on_goal 1 => try dsimp only [d_]); (on_goal 2 => clear_value d_))
    | ((try lift_lets -underBinder); intro d_; try clear_value d_)
    | exact Eq.refl true
    | with_reducible refine Touches.andThen ?_ (by with_reducible exact serviceCollision_touch ..) ?_
    | split
    | dsimp -zeta only
    | (split at ‹ite _ _ _ = (_, _)›)
    | (cases ‹(_, _) = (_, _)›)

theorem b_serviceCollision (s : State) (late : Bool) : exec (.serviceCollision late) s = s.become ((fun (d : Dev) => serviceCollision d late) s.start) := by
  have hm_ : ((fun (d : Dev) => serviceCollision d late) s.start).memOut = [] := (t_serviceCollision s.start late).same .memOut rfl
  simp only [exec, execServiceCollision]
  exact nextDev_become s (fun (d : Dev) => serviceCollision d late) hm_

theorem f_serviceCollision : ∀ (s : State) (late : Bool), Ends (exec (.serviceCollision late) s) (Keeps [.freeCtr, .out, .sys, .cli] s) := by
  intro s late
  simp only [exec, execServiceCollision]
  exact keeps_nextDev (f := (fun (d : Dev) => serviceCollision d late)) (t_serviceCollision s.start late) rfl

theorem t_backoffExpiry (d : Dev) (op : TxOp) : Touches [.freeCtr, .out, .sys, .bell, .fold, .cli] d ((fun (d : Dev) =>
    let c := (portOf d 4).csma
    match c.frame with
    | none => d
    | some k =>
      if ¬ c.waiting then d
      else attempt (onPort d 4 (fun x => { x with csma := { x.csma with waiting := false } })) 4 k op) d) := by
  beta_reduce
  repeat' first
    | with_reducible assumption
    | with_reducible exact Touches.refl
    | ((try lift_lets -underBinder); intro d_; refine (have hd_ : Touches [.freeCtr, .out, .sys, .bell, .fold, .cli] d d_ := ?_; ?_); (on_goal 1 => try dsimp only [d_]); (on_goal 2 => clear_value d_))
    | ((try lift_lets -underBinder); intro d_; try clear_value d_)
    | exact Eq.refl true
    | with_reducible refine Touches.andThen ?_ (by with_reducible exact onPort_touch ..) ?_
    | with_reducible refine Touches.andThen ?_ (by with_reducible exact attempt_touch ..) ?_
    | split
    | dsimp -zeta only
    | (split at ‹ite _ _ _ = (_, _)›)
    | (cases ‹(_, _) = (_, _)›)

theorem b_backoffExpiry (s : State) (op : TxOp) : exec (.backoffExpiry op) s = s.become ((fun (d : Dev) =>
    let c := (portOf d 4).csma
    match c.frame with
    | none => d
    | some k =>
      if ¬ c.waiting then d
      else attempt (onPort d 4 (fun x => { x with csma := { x.csma with waiting := false } })) 4 k op) s.start) := by
  have hm_ : ((fun (d : Dev) =>
    let c := (portOf d 4).csma
    match c.frame with
    | none => d
    | some k =>
      if ¬ c.waiting then d
      else attempt (onPort d 4 (fun x => { x with csma := { x.csma with waiting := false } })) 4 k op) s.start).memOut = [] := (t_backoffExpiry s.start op).same .memOut rfl
  simp only [exec, execBackoffExpiry]
  exact nextDev_become s (fun (d : Dev) =>
    let c := (portOf d 4).csma
    match c.frame with
    | none => d
    | some k =>
      if ¬ c.waiting then d
      else attempt (onPort d 4 (fun x => { x with csma := { x.csma with waiting := false } })) 4 k op) hm_

theorem f_backoffExpiry : ∀ (s : State) (op : TxOp), Ends (exec (.backoffExpiry op) s) (Keeps [.freeCtr, .out, .sys, .bell, .fold, .cli] s) := by
  intro s op
  simp only [exec, execBackoffExpiry]
  exact keeps_nextDev (f := (fun (d : Dev) =>
    let c := (portOf d 4).csma
    match c.frame with
    | none => d
    | some k =>
      if ¬ c.waiting then d
      else attempt (onPort d 4 (fun x => { x with csma := { x.csma with waiting := false } })) 4 k op)) (t_backoffExpiry s.start op) rfl

theorem t_lldpSend (d : Dev) (port : Nat) (frame : List Byte) (now : Nat) : Touches [.out, .sys, .past, .tm] d ((fun (d : Dev) =>
    if ¬ portUp d port then d
    else
      let d := emit d .lldp port [((portOf d port).f.lpiRxTw : Int)]
      match deviceQueue d (512 + port) now with
      | none => d
      | some (q, d) =>
        (tmAdmit d q { len := max 64 (frame.length + 4), push := 0, tpid := false, twoStep := none, stamp := 0, admitted := now,
                       place := .onDie, bytes := frame, clear := false } 0).2) d) := by
  beta_reduce
  repeat' first
    | with_reducible assumption
    | with_reducible exact Touches.refl
    | ((try lift_lets -underBinder); intro d_; refine (have hd_ : Touches [.out, .sys, .past, .tm] d d_ := ?_; ?_); (on_goal 1 => try dsimp only [d_]); (on_goal 2 => clear_value d_))
    | ((try lift_lets -underBinder); intro d_; try clear_value d_)
    | exact Eq.refl true
    | with_reducible refine Touches.andThen ?_ (by with_reducible exact emit_touch ..) ?_
    | refine Touches.andThen ?_ (deviceQueue_touch (h_ := by assumption) ..) ?_
    | with_reducible refine Touches.andThen ?_ (by with_reducible exact tmAdmit_touch ..) ?_
    | refine Touches.andThen ?_ (tmAdmit_touch' (h_ := by assumption) ..) ?_
    | refine Touches.andThen ?_ (ccQueue_touch (h_ := by assumption) ..) ?_
    | with_reducible refine Touches.andThen ?_ (by with_reducible exact onTm_touch ..) ?_
    | with_reducible refine Touches.andThen ?_ (by with_reducible exact onQueue_touch ..) ?_
    | with_reducible refine Touches.andThen ?_ (by with_reducible exact qDrop_touch ..) ?_
    | with_reducible refine Touches.andThen ?_ (by with_reducible exact deepCharge_touch ..) ?_
    | with_reducible refine Touches.andThen ?_ (by with_reducible exact raiseLeaf_touch ..) ?_
    | with_reducible refine Touches.andThen ?_ (by with_reducible exact raiseIf_touch ..) ?_
    | split
    | dsimp -zeta only
    | (split at ‹ite _ _ _ = (_, _)›)
    | (cases ‹(_, _) = (_, _)›)

theorem b_lldpSend (s : State) (port : Nat) (frame : List Byte) (now : Nat) : exec (.lldpSend port frame now) s = s.become ((fun (d : Dev) =>
    if ¬ portUp d port then d
    else
      let d := emit d .lldp port [((portOf d port).f.lpiRxTw : Int)]
      match deviceQueue d (512 + port) now with
      | none => d
      | some (q, d) =>
        (tmAdmit d q { len := max 64 (frame.length + 4), push := 0, tpid := false, twoStep := none, stamp := 0, admitted := now,
                       place := .onDie, bytes := frame, clear := false } 0).2) s.start) := by
  have hm_ : ((fun (d : Dev) =>
    if ¬ portUp d port then d
    else
      let d := emit d .lldp port [((portOf d port).f.lpiRxTw : Int)]
      match deviceQueue d (512 + port) now with
      | none => d
      | some (q, d) =>
        (tmAdmit d q { len := max 64 (frame.length + 4), push := 0, tpid := false, twoStep := none, stamp := 0, admitted := now,
                       place := .onDie, bytes := frame, clear := false } 0).2) s.start).memOut = [] := (t_lldpSend s.start port frame now).same .memOut rfl
  simp only [exec, execLldpSend]
  exact nextDev_become s (fun (d : Dev) =>
    if ¬ portUp d port then d
    else
      let d := emit d .lldp port [((portOf d port).f.lpiRxTw : Int)]
      match deviceQueue d (512 + port) now with
      | none => d
      | some (q, d) =>
        (tmAdmit d q { len := max 64 (frame.length + 4), push := 0, tpid := false, twoStep := none, stamp := 0, admitted := now,
                       place := .onDie, bytes := frame, clear := false } 0).2) hm_

theorem f_lldpSend : ∀ (s : State) (port : Nat) (frame : List Byte) (now : Nat), Ends (exec (.lldpSend port frame now) s) (Keeps [.out, .sys, .past, .tm] s) := by
  intro s port frame now
  simp only [exec, execLldpSend]
  exact keeps_nextDev (f := (fun (d : Dev) =>
    if ¬ portUp d port then d
    else
      let d := emit d .lldp port [((portOf d port).f.lpiRxTw : Int)]
      match deviceQueue d (512 + port) now with
      | none => d
      | some (q, d) =>
        (tmAdmit d q { len := max 64 (frame.length + 4), push := 0, tpid := false, twoStep := none, stamp := 0, admitted := now,
                       place := .onDie, bytes := frame, clear := false } 0).2)) (t_lldpSend s.start port frame now) rfl

theorem t_linkChange (d : Dev) (port : Nat) (up : Bool) : Touches [.out, .sys, .cli] d ((fun (d : Dev) =>
    if port > 4 ∨ (up ∧ ¬ (portProvided d port ∧ portLit d port ∧ (portOf d port).f.enable)) then d else linkTo d port up) d) := by
  beta_reduce
  repeat' first
    | with_reducible assumption
    | with_reducible exact Touches.refl
    | ((try lift_lets -underBinder); intro d_; refine (have hd_ : Touches [.out, .sys, .cli] d d_ := ?_; ?_); (on_goal 1 => try dsimp only [d_]); (on_goal 2 => clear_value d_))
    | ((try lift_lets -underBinder); intro d_; try clear_value d_)
    | exact Eq.refl true
    | with_reducible refine Touches.andThen ?_ (by with_reducible exact linkTo_touch ..) ?_
    | split
    | dsimp -zeta only
    | (split at ‹ite _ _ _ = (_, _)›)
    | (cases ‹(_, _) = (_, _)›)

theorem b_linkChange (s : State) (port : Nat) (up : Bool) : exec (.linkChange port up) s = s.become ((fun (d : Dev) =>
    if port > 4 ∨ (up ∧ ¬ (portProvided d port ∧ portLit d port ∧ (portOf d port).f.enable)) then d else linkTo d port up) s.start) := by
  have hm_ : ((fun (d : Dev) =>
    if port > 4 ∨ (up ∧ ¬ (portProvided d port ∧ portLit d port ∧ (portOf d port).f.enable)) then d else linkTo d port up) s.start).memOut = [] := (t_linkChange s.start port up).same .memOut rfl
  simp only [exec, execLinkChange]
  exact nextDev_become s (fun (d : Dev) =>
    if port > 4 ∨ (up ∧ ¬ (portProvided d port ∧ portLit d port ∧ (portOf d port).f.enable)) then d else linkTo d port up) hm_

theorem f_linkChange : ∀ (s : State) (port : Nat) (up : Bool), Ends (exec (.linkChange port up) s) (Keeps [.out, .sys, .cli] s) := by
  intro s port up
  simp only [exec, execLinkChange]
  exact keeps_nextDev (f := (fun (d : Dev) =>
    if port > 4 ∨ (up ∧ ¬ (portProvided d port ∧ portLit d port ∧ (portOf d port).f.enable)) then d else linkTo d port up)) (t_linkChange s.start port up) rfl

theorem t_rgmiiInbandStatus (d : Dev) (up : Bool) (speed : Nat) (duplex : Bool) : Touches [.out, .sys, .cli] d ((fun (d : Dev) =>
    if ¬ (portOf d 4).f.svcAuto ∨ ¬ (portLit d 4 ∧ (portOf d 4).f.enable) then d
    else linkTo (onPort d 4 (fun x => { x with speed := min speed 2, duplex := duplex })) 4 up) d) := by
  beta_reduce
  repeat' first
    | with_reducible assumption
    | with_reducible exact Touches.refl
    | ((try lift_lets -underBinder); intro d_; refine (have hd_ : Touches [.out, .sys, .cli] d d_ := ?_; ?_); (on_goal 1 => try dsimp only [d_]); (on_goal 2 => clear_value d_))
    | ((try lift_lets -underBinder); intro d_; try clear_value d_)
    | exact Eq.refl true
    | with_reducible refine Touches.andThen ?_ (by with_reducible exact onPort_touch ..) ?_
    | with_reducible refine Touches.andThen ?_ (by with_reducible exact linkTo_touch ..) ?_
    | split
    | dsimp -zeta only
    | (split at ‹ite _ _ _ = (_, _)›)
    | (cases ‹(_, _) = (_, _)›)

theorem b_rgmiiInbandStatus (s : State) (up : Bool) (speed : Nat) (duplex : Bool) : exec (.rgmiiInbandStatus up speed duplex) s = s.become ((fun (d : Dev) =>
    if ¬ (portOf d 4).f.svcAuto ∨ ¬ (portLit d 4 ∧ (portOf d 4).f.enable) then d
    else linkTo (onPort d 4 (fun x => { x with speed := min speed 2, duplex := duplex })) 4 up) s.start) := by
  have hm_ : ((fun (d : Dev) =>
    if ¬ (portOf d 4).f.svcAuto ∨ ¬ (portLit d 4 ∧ (portOf d 4).f.enable) then d
    else linkTo (onPort d 4 (fun x => { x with speed := min speed 2, duplex := duplex })) 4 up) s.start).memOut = [] := (t_rgmiiInbandStatus s.start up speed duplex).same .memOut rfl
  simp only [exec, execRgmiiInbandStatus]
  exact nextDev_become s (fun (d : Dev) =>
    if ¬ (portOf d 4).f.svcAuto ∨ ¬ (portLit d 4 ∧ (portOf d 4).f.enable) then d
    else linkTo (onPort d 4 (fun x => { x with speed := min speed 2, duplex := duplex })) 4 up) hm_

theorem f_rgmiiInbandStatus : ∀ (s : State) (up : Bool) (speed : Nat) (duplex : Bool), Ends (exec (.rgmiiInbandStatus up speed duplex) s) (Keeps [.out, .sys, .cli] s) := by
  intro s up speed duplex
  simp only [exec, execRgmiiInbandStatus]
  exact keeps_nextDev (f := (fun (d : Dev) =>
    if ¬ (portOf d 4).f.svcAuto ∨ ¬ (portLit d 4 ∧ (portOf d 4).f.enable) then d
    else linkTo (onPort d 4 (fun x => { x with speed := min speed 2, duplex := duplex })) 4 up)) (t_rgmiiInbandStatus s.start up speed duplex) rfl

theorem t_lpiEnter (d : Dev) (port : Nat) (received : Bool) : Touches [.out, .sys, .cli] d ((fun (d : Dev) => lpiEnter d port received) d) := by
  beta_reduce
  repeat' first
    | with_reducible assumption
    | with_reducible exact Touches.refl
    | ((try lift_lets -underBinder); intro d_; refine (have hd_ : Touches [.out, .sys, .cli] d d_ := ?_; ?_); (on_goal 1 => try dsimp only [d_]); (on_goal 2 => clear_value d_))
    | ((try lift_lets -underBinder); intro d_; try clear_value d_)
    | exact Eq.refl true
    | with_reducible refine Touches.andThen ?_ (by with_reducible exact lpiEnter_touch ..) ?_
    | split
    | dsimp -zeta only
    | (split at ‹ite _ _ _ = (_, _)›)
    | (cases ‹(_, _) = (_, _)›)

theorem b_lpiEnter (s : State) (port : Nat) (received : Bool) : exec (.lpiEnter port received) s = s.become ((fun (d : Dev) => lpiEnter d port received) s.start) := by
  have hm_ : ((fun (d : Dev) => lpiEnter d port received) s.start).memOut = [] := (t_lpiEnter s.start port received).same .memOut rfl
  simp only [exec, execLpiEnter]
  exact nextDev_become s (fun (d : Dev) => lpiEnter d port received) hm_

theorem f_lpiEnter : ∀ (s : State) (port : Nat) (received : Bool), Ends (exec (.lpiEnter port received) s) (Keeps [.out, .sys, .cli] s) := by
  intro s port received
  simp only [exec, execLpiEnter]
  exact keeps_nextDev (f := (fun (d : Dev) => lpiEnter d port received)) (t_lpiEnter s.start port received) rfl

theorem t_lpiWake (d : Dev) (port us : Nat) (op : TxOp) : Touches [.freeCtr, .out, .sys, .bell, .past, .fold, .tm, .cli] d ((fun (d : Dev) =>
    if ¬ (portOf d port).lpiTx then d
    else portDequeue (bump (onPort d port (fun x => { x with lpiTx := false })) port 50 us) port op) d) := by
  beta_reduce
  repeat' first
    | with_reducible assumption
    | with_reducible exact Touches.refl
    | ((try lift_lets -underBinder); intro d_; refine (have hd_ : Touches [.freeCtr, .out, .sys, .bell, .past, .fold, .tm, .cli] d d_ := ?_; ?_); (on_goal 1 => try dsimp only [d_]); (on_goal 2 => clear_value d_))
    | ((try lift_lets -underBinder); intro d_; try clear_value d_)
    | exact Eq.refl true
    | with_reducible refine Touches.andThen ?_ (by with_reducible exact onPort_touch ..) ?_
    | with_reducible refine Touches.andThen ?_ (by with_reducible exact portDequeue_touch ..) ?_
    | with_reducible refine Touches.andThen ?_ (by with_reducible exact bump_touch ..) ?_
    | split
    | dsimp -zeta only
    | (split at ‹ite _ _ _ = (_, _)›)
    | (cases ‹(_, _) = (_, _)›)

theorem b_lpiWake (s : State) (port us : Nat) (op : TxOp) : exec (.lpiWake port us op) s = s.become ((fun (d : Dev) =>
    if ¬ (portOf d port).lpiTx then d
    else portDequeue (bump (onPort d port (fun x => { x with lpiTx := false })) port 50 us) port op) s.start) := by
  have hm_ : ((fun (d : Dev) =>
    if ¬ (portOf d port).lpiTx then d
    else portDequeue (bump (onPort d port (fun x => { x with lpiTx := false })) port 50 us) port op) s.start).memOut = [] := (t_lpiWake s.start port us op).same .memOut rfl
  simp only [exec, execLpiWake]
  exact nextDev_become s (fun (d : Dev) =>
    if ¬ (portOf d port).lpiTx then d
    else portDequeue (bump (onPort d port (fun x => { x with lpiTx := false })) port 50 us) port op) hm_

theorem f_lpiWake : ∀ (s : State) (port us : Nat) (op : TxOp), Ends (exec (.lpiWake port us op) s) (Keeps [.freeCtr, .out, .sys, .bell, .past, .fold, .tm, .cli] s) := by
  intro s port us op
  simp only [exec, execLpiWake]
  exact keeps_nextDev (f := (fun (d : Dev) =>
    if ¬ (portOf d port).lpiTx then d
    else portDequeue (bump (onPort d port (fun x => { x with lpiTx := false })) port 50 us) port op)) (t_lpiWake s.start port us op) rfl

theorem t_pauseQuantaExpiry (d : Dev) (port : Nat) : Touches [.cli] d ((fun (d : Dev) => onPort d port (fun x => { x with paused := false })) d) := by
  beta_reduce
  repeat' first
    | with_reducible assumption
    | with_reducible exact Touches.refl
    | ((try lift_lets -underBinder); intro d_; refine (have hd_ : Touches [.cli] d d_ := ?_; ?_); (on_goal 1 => try dsimp only [d_]); (on_goal 2 => clear_value d_))
    | ((try lift_lets -underBinder); intro d_; try clear_value d_)
    | exact Eq.refl true
    | with_reducible refine Touches.andThen ?_ (by with_reducible exact onPort_touch ..) ?_
    | split
    | dsimp -zeta only
    | (split at ‹ite _ _ _ = (_, _)›)
    | (cases ‹(_, _) = (_, _)›)

theorem b_pauseQuantaExpiry (s : State) (port : Nat) : exec (.pauseQuantaExpiry port) s = s.become ((fun (d : Dev) => onPort d port (fun x => { x with paused := false })) s.start) := by
  have hm_ : ((fun (d : Dev) => onPort d port (fun x => { x with paused := false })) s.start).memOut = [] := (t_pauseQuantaExpiry s.start port).same .memOut rfl
  simp only [exec, execPauseQuantaExpiry]
  exact nextDev_become s (fun (d : Dev) => onPort d port (fun x => { x with paused := false })) hm_

theorem f_pauseQuantaExpiry : ∀ (s : State) (port : Nat), Ends (exec (.pauseQuantaExpiry port) s) (Keeps [.cli] s) := by
  intro s port
  simp only [exec, execPauseQuantaExpiry]
  exact keeps_nextDev (f := (fun (d : Dev) => onPort d port (fun x => { x with paused := false }))) (t_pauseQuantaExpiry s.start port) rfl

theorem t_statSnap (d : Dev) (port : Nat) : Touches [.out, .sys, .cli] d ((fun (d : Dev) => if port ≤ 4 then hostWrites (if port < 4 then 10 else 13) (0x500300 + 0x10000 * port) (fun d => statSnap d port) d else d) d) := by
  beta_reduce
  repeat' first
    | with_reducible assumption
    | with_reducible exact Touches.refl
    | ((try lift_lets -underBinder); intro d_; refine (have hd_ : Touches [.out, .sys, .cli] d d_ := ?_; ?_); (on_goal 1 => try dsimp only [d_]); (on_goal 2 => clear_value d_))
    | ((try lift_lets -underBinder); intro d_; try clear_value d_)
    | exact Eq.refl true
    | with_reducible refine Touches.andThen ?_ (hostWrites_touch (ps := [.out, .sys, .cli]) ?_ ?_ ..) ?_
    | (intro _)
    | with_reducible refine Touches.andThen ?_ (by with_reducible exact statSnap_touch ..) ?_
    | split
    | dsimp -zeta only
    | (split at ‹ite _ _ _ = (_, _)›)
    | (cases ‹(_, _) = (_, _)›)

theorem b_statSnap (s : State) (port : Nat) : exec (.statSnap port) s = s.become ((fun (d : Dev) => if port ≤ 4 then hostWrites (if port < 4 then 10 else 13) (0x500300 + 0x10000 * port) (fun d => statSnap d port) d else d) s.start) := by
  have hm_ : ((fun (d : Dev) => if port ≤ 4 then hostWrites (if port < 4 then 10 else 13) (0x500300 + 0x10000 * port) (fun d => statSnap d port) d else d) s.start).memOut = [] := (t_statSnap s.start port).same .memOut rfl
  simp only [exec, execStatSnap]
  exact nextDev_become s (fun (d : Dev) => if port ≤ 4 then hostWrites (if port < 4 then 10 else 13) (0x500300 + 0x10000 * port) (fun d => statSnap d port) d else d) hm_

theorem f_statSnap : ∀ (s : State) (port : Nat), Ends (exec (.statSnap port) s) (Keeps [.out, .sys, .cli] s) := by
  intro s port
  simp only [exec, execStatSnap]
  exact keeps_nextDev (f := (fun (d : Dev) => if port ≤ 4 then hostWrites (if port < 4 then 10 else 13) (0x500300 + 0x10000 * port) (fun d => statSnap d port) d else d)) (t_statSnap s.start port) rfl

theorem t_cntLoRead (d : Dev) (port i : Nat) : Touches [.out, .sys, .cli] d ((fun (d : Dev) =>
    if port ≤ 4 ∧ i < 64 then hostReads (if port < 4 then 10 else 13) (0x500400 + 0x10000 * port + 8 * i) (fun d => cntLoRead d port i) d else d) d) := by
  beta_reduce
  repeat' first
    | with_reducible assumption
    | with_reducible exact Touches.refl
    | ((try lift_lets -underBinder); intro d_; refine (have hd_ : Touches [.out, .sys, .cli] d d_ := ?_; ?_); (on_goal 1 => try dsimp only [d_]); (on_goal 2 => clear_value d_))
    | ((try lift_lets -underBinder); intro d_; try clear_value d_)
    | exact Eq.refl true
    | with_reducible refine Touches.andThen ?_ (hostReads_touch (ps := [.out, .sys, .cli]) ?_ ?_ ..) ?_
    | (intro _)
    | with_reducible refine Touches.andThen ?_ (by with_reducible exact cntLoRead_touch ..) ?_
    | split
    | dsimp -zeta only
    | (split at ‹ite _ _ _ = (_, _)›)
    | (cases ‹(_, _) = (_, _)›)

theorem b_cntLoRead (s : State) (port i : Nat) : exec (.cntLoRead port i) s = s.become ((fun (d : Dev) =>
    if port ≤ 4 ∧ i < 64 then hostReads (if port < 4 then 10 else 13) (0x500400 + 0x10000 * port + 8 * i) (fun d => cntLoRead d port i) d else d) s.start) := by
  have hm_ : ((fun (d : Dev) =>
    if port ≤ 4 ∧ i < 64 then hostReads (if port < 4 then 10 else 13) (0x500400 + 0x10000 * port + 8 * i) (fun d => cntLoRead d port i) d else d) s.start).memOut = [] := (t_cntLoRead s.start port i).same .memOut rfl
  simp only [exec, execCntLoRead]
  exact nextDev_become s (fun (d : Dev) =>
    if port ≤ 4 ∧ i < 64 then hostReads (if port < 4 then 10 else 13) (0x500400 + 0x10000 * port + 8 * i) (fun d => cntLoRead d port i) d else d) hm_

theorem f_cntLoRead : ∀ (s : State) (port i : Nat), Ends (exec (.cntLoRead port i) s) (Keeps [.out, .sys, .cli] s) := by
  intro s port i
  simp only [exec, execCntLoRead]
  exact keeps_nextDev (f := (fun (d : Dev) =>
    if port ≤ 4 ∧ i < 64 then hostReads (if port < 4 then 10 else 13) (0x500400 + 0x10000 * port + 8 * i) (fun d => cntLoRead d port i) d else d)) (t_cntLoRead s.start port i) rfl

theorem t_mkaFrame (d : Dev) (port : Nat) (newSak : Bool) (dir ssci : Nat) : Touches [.freeCtr, .out, .fold] d ((fun (d : Dev) => if port < 4 then mkaFrame d port newSak dir ssci else d) d) := by
  beta_reduce
  repeat' first
    | with_reducible assumption
    | with_reducible exact Touches.refl
    | ((try lift_lets -underBinder); intro d_; refine (have hd_ : Touches [.freeCtr, .out, .fold] d d_ := ?_; ?_); (on_goal 1 => try dsimp only [d_]); (on_goal 2 => clear_value d_))
    | ((try lift_lets -underBinder); intro d_; try clear_value d_)
    | exact Eq.refl true
    | with_reducible refine Touches.andThen ?_ (by with_reducible exact mkaFrame_touch ..) ?_
    | split
    | dsimp -zeta only
    | (split at ‹ite _ _ _ = (_, _)›)
    | (cases ‹(_, _) = (_, _)›)

theorem b_mkaFrame (s : State) (port : Nat) (newSak : Bool) (dir ssci : Nat) : exec (.mkaFrame port newSak dir ssci) s = s.become ((fun (d : Dev) => if port < 4 then mkaFrame d port newSak dir ssci else d) s.start) := by
  have hm_ : ((fun (d : Dev) => if port < 4 then mkaFrame d port newSak dir ssci else d) s.start).memOut = [] := (t_mkaFrame s.start port newSak dir ssci).same .memOut rfl
  simp only [exec, execMkaFrame]
  exact nextDev_become s (fun (d : Dev) => if port < 4 then mkaFrame d port newSak dir ssci else d) hm_

theorem f_mkaFrame : ∀ (s : State) (port : Nat) (newSak : Bool) (dir ssci : Nat), Ends (exec (.mkaFrame port newSak dir ssci) s) (Keeps [.freeCtr, .out, .fold] s) := by
  intro s port newSak dir ssci
  simp only [exec, execMkaFrame]
  exact keeps_nextDev (f := (fun (d : Dev) => if port < 4 then mkaFrame d port newSak dir ssci else d)) (t_mkaFrame s.start port newSak dir ssci) rfl

theorem t_cascHelloRx (d : Dev) (h : CascHdr) (domain dev rank : Nat) : Touches [.out, .sys, .casc] d ((fun (d : Dev) => cascCtlRx h (.hello domain dev rank) true .hello (helloRx h.port domain dev) d) d) := by
  beta_reduce
  repeat' first
    | with_reducible assumption
    | with_reducible exact Touches.refl
    | ((try lift_lets -underBinder); intro d_; refine (have hd_ : Touches [.out, .sys, .casc] d d_ := ?_; ?_); (on_goal 1 => try dsimp only [d_]); (on_goal 2 => clear_value d_))
    | ((try lift_lets -underBinder); intro d_; try clear_value d_)
    | exact Eq.refl true
    | with_reducible refine Touches.andThen ?_ (cascCtlRx_touch (ps := [.out, .sys, .casc]) ?_ ?_ ..) ?_
    | (intro _)
    | with_reducible refine Touches.andThen ?_ (by with_reducible exact helloRx_touch ..) ?_
    | split
    | dsimp -zeta only
    | (split at ‹ite _ _ _ = (_, _)›)
    | (cases ‹(_, _) = (_, _)›)

theorem b_cascHelloRx (s : State) (h : CascHdr) (domain dev rank : Nat) : exec (.cascHelloRx h domain dev rank) s = s.become ((fun (d : Dev) => cascCtlRx h (.hello domain dev rank) true .hello (helloRx h.port domain dev) d) s.start) := by
  have hm_ : ((fun (d : Dev) => cascCtlRx h (.hello domain dev rank) true .hello (helloRx h.port domain dev) d) s.start).memOut = [] := (t_cascHelloRx s.start h domain dev rank).same .memOut rfl
  simp only [exec, execCascHelloRx]
  exact nextDev_become s (fun (d : Dev) => cascCtlRx h (.hello domain dev rank) true .hello (helloRx h.port domain dev) d) hm_

theorem f_cascHelloRx : ∀ (s : State) (h : CascHdr) (domain dev rank : Nat), Ends (exec (.cascHelloRx h domain dev rank) s) (Keeps [.out, .sys, .casc] s) := by
  intro s h domain dev rank
  simp only [exec, execCascHelloRx]
  exact keeps_nextDev (f := (fun (d : Dev) => cascCtlRx h (.hello domain dev rank) true .hello (helloRx h.port domain dev) d)) (t_cascHelloRx s.start h domain dev rank) rfl

theorem t_cascTopoRx (d : Dev) (h : CascHdr) (hops : List Nat) : Touches [.out, .sys, .casc] d ((cascCtlRx h (.topo hops) true .topo (fun d => topoUpdate (onCascPort d h.port (fun x => { x with dist := (List.range 16).map (fun n => (n, hops.getD n 15)) })))) d) := by
  beta_reduce
  repeat' first
    | with_reducible assumption
    | with_reducible exact Touches.refl
    | ((try lift_lets -underBinder); intro d_; refine (have hd_ : Touches [.out, .sys, .casc] d d_ := ?_; ?_); (on_goal 1 => try dsimp only [d_]); (on_goal 2 => clear_value d_))
    | ((try lift_lets -underBinder); intro d_; try clear_value d_)
    | exact Eq.refl true
    | with_reducible refine Touches.andThen ?_ (by with_reducible exact onCascPort_touch ..) ?_
    | with_reducible refine Touches.andThen ?_ (cascCtlRx_touch (ps := [.out, .sys, .casc]) ?_ ?_ ..) ?_
    | (intro _)
    | with_reducible refine Touches.andThen ?_ (by with_reducible exact topoUpdate_touch ..) ?_
    | split
    | dsimp -zeta only
    | (split at ‹ite _ _ _ = (_, _)›)
    | (cases ‹(_, _) = (_, _)›)

theorem b_cascTopoRx (s : State) (h : CascHdr) (hops : List Nat) : exec (.cascTopoRx h hops) s = s.become ((cascCtlRx h (.topo hops) true .topo (fun d => topoUpdate (onCascPort d h.port (fun x => { x with dist := (List.range 16).map (fun n => (n, hops.getD n 15)) })))) s.start) := by
  have hm_ : ((cascCtlRx h (.topo hops) true .topo (fun d => topoUpdate (onCascPort d h.port (fun x => { x with dist := (List.range 16).map (fun n => (n, hops.getD n 15)) })))) s.start).memOut = [] := (t_cascTopoRx s.start h hops).same .memOut rfl
  simp only [exec, execCascTopoRx]
  exact nextDev_become s (cascCtlRx h (.topo hops) true .topo (fun d => topoUpdate (onCascPort d h.port (fun x => { x with dist := (List.range 16).map (fun n => (n, hops.getD n 15)) })))) hm_

theorem f_cascTopoRx : ∀ (s : State) (h : CascHdr) (hops : List Nat), Ends (exec (.cascTopoRx h hops) s) (Keeps [.out, .sys, .casc] s) := by
  intro s h hops
  simp only [exec, execCascTopoRx]
  exact keeps_nextDev (f := (cascCtlRx h (.topo hops) true .topo (fun d => topoUpdate (onCascPort d h.port (fun x => { x with dist := (List.range 16).map (fun n => (n, hops.getD n 15)) }))))) (t_cascTopoRx s.start h hops) rfl

theorem t_cascKeepaliveRx (d : Dev) (h : CascHdr) : Touches [.out, .sys, .casc] d ((cascCtlRx h .keepalive false .keepalive id) d) := by
  refine cascCtlRx_touch ?_ (fun x => .refl) _ _ _ _ _; rfl

theorem b_cascKeepaliveRx (s : State) (h : CascHdr) : exec (.cascKeepaliveRx h) s = s.become ((cascCtlRx h .keepalive false .keepalive id) s.start) := by
  have hm_ : ((cascCtlRx h .keepalive false .keepalive id) s.start).memOut = [] := (t_cascKeepaliveRx s.start h).same .memOut rfl
  simp only [exec, execCascKeepaliveRx]
  exact nextDev_become s (cascCtlRx h .keepalive false .keepalive id) hm_

theorem f_cascKeepaliveRx : ∀ (s : State) (h : CascHdr), Ends (exec (.cascKeepaliveRx h) s) (Keeps [.out, .sys, .casc] s) := by
  intro s h
  simp only [exec, execCascKeepaliveRx]
  exact keeps_nextDev (f := (cascCtlRx h .keepalive false .keepalive id)) (t_cascKeepaliveRx s.start h) rfl

theorem t_cascLaneCopyRx (d : Dev) (h : CascHdr) (port lane : Nat) : Touches [.out, .sys, .casc, .lane] d ((cascCtlRx h (.laneCopy port lane) false .laneCopy (fun d =>
    if lane > 7 then d
    else onLanes d (fun l => { l with groups := tupd l.groups (2 + h.port) (LaneGroup.reset (2 + h.port)) (fun g =>
      { g with copyOut := if g.copyOut = some lane then none else some lane }) }))) d) := by
  beta_reduce
  repeat' first
    | with_reducible assumption
    | with_reducible exact Touches.refl
    | ((try lift_lets -underBinder); intro d_; refine (have hd_ : Touches [.out, .sys, .casc, .lane] d d_ := ?_; ?_); (on_goal 1 => try dsimp only [d_]); (on_goal 2 => clear_value d_))
    | ((try lift_lets -underBinder); intro d_; try clear_value d_)
    | exact Eq.refl true
    | with_reducible refine Touches.andThen ?_ (by with_reducible exact onLanes_touch ..) ?_
    | with_reducible refine Touches.andThen ?_ (cascCtlRx_touch (ps := [.out, .sys, .casc, .lane]) ?_ ?_ ..) ?_
    | (intro _)
    | split
    | dsimp -zeta only
    | (split at ‹ite _ _ _ = (_, _)›)
    | (cases ‹(_, _) = (_, _)›)

theorem b_cascLaneCopyRx (s : State) (h : CascHdr) (port lane : Nat) : exec (.cascLaneCopyRx h port lane) s = s.become ((cascCtlRx h (.laneCopy port lane) false .laneCopy (fun d =>
    if lane > 7 then d
    else onLanes d (fun l => { l with groups := tupd l.groups (2 + h.port) (LaneGroup.reset (2 + h.port)) (fun g =>
      { g with copyOut := if g.copyOut = some lane then none else some lane }) }))) s.start) := by
  have hm_ : ((cascCtlRx h (.laneCopy port lane) false .laneCopy (fun d =>
    if lane > 7 then d
    else onLanes d (fun l => { l with groups := tupd l.groups (2 + h.port) (LaneGroup.reset (2 + h.port)) (fun g =>
      { g with copyOut := if g.copyOut = some lane then none else some lane }) }))) s.start).memOut = [] := (t_cascLaneCopyRx s.start h port lane).same .memOut rfl
  simp only [exec, execCascLaneCopyRx]
  exact nextDev_become s (cascCtlRx h (.laneCopy port lane) false .laneCopy (fun d =>
    if lane > 7 then d
    else onLanes d (fun l => { l with groups := tupd l.groups (2 + h.port) (LaneGroup.reset (2 + h.port)) (fun g =>
      { g with copyOut := if g.copyOut = some lane then none else some lane }) }))) hm_

theorem f_cascLaneCopyRx : ∀ (s : State) (h : CascHdr) (port lane : Nat), Ends (exec (.cascLaneCopyRx h port lane) s) (Keeps [.out, .sys, .casc, .lane] s) := by
  intro s h port lane
  simp only [exec, execCascLaneCopyRx]
  exact keeps_nextDev (f := (cascCtlRx h (.laneCopy port lane) false .laneCopy (fun d =>
    if lane > 7 then d
    else onLanes d (fun l => { l with groups := tupd l.groups (2 + h.port) (LaneGroup.reset (2 + h.port)) (fun g =>
      { g with copyOut := if g.copyOut = some lane then none else some lane }) })))) (t_cascLaneCopyRx s.start h port lane) rfl

theorem t_cascKeepaliveSend (d : Dev)  : Touches [.out, .casc] d ((fun (d : Dev) =>
    if ¬ domOn d 39 then d
    else [0, 1].foldl (fun d p =>
      if (cascPort d p).st = .hello ∨ (cascPort d p).st = .up then cascNear d .keepalive p .keepalive else d) d) d) := by
  beta_reduce
  repeat' first
    | with_reducible assumption
    | with_reducible exact Touches.refl
    | ((try lift_lets -underBinder); intro d_; refine (have hd_ : Touches [.out, .casc] d d_ := ?_; ?_); (on_goal 1 => try dsimp only [d_]); (on_goal 2 => clear_value d_))
    | ((try lift_lets -underBinder); intro d_; try clear_value d_)
    | with_reducible apply Touches.foldl
    | (intro _ _ _)
    | exact Eq.refl true
    | with_reducible refine Touches.andThen ?_ (by with_reducible exact cascNear_touch ..) ?_
    | split
    | dsimp -zeta only
    | (split at ‹ite _ _ _ = (_, _)›)
    | (cases ‹(_, _) = (_, _)›)

theorem b_cascKeepaliveSend (s : State)  : exec .cascKeepaliveSend s = s.become ((fun (d : Dev) =>
    if ¬ domOn d 39 then d
    else [0, 1].foldl (fun d p =>
      if (cascPort d p).st = .hello ∨ (cascPort d p).st = .up then cascNear d .keepalive p .keepalive else d) d) s.start) := by
  have hm_ : ((fun (d : Dev) =>
    if ¬ domOn d 39 then d
    else [0, 1].foldl (fun d p =>
      if (cascPort d p).st = .hello ∨ (cascPort d p).st = .up then cascNear d .keepalive p .keepalive else d) d) s.start).memOut = [] := (t_cascKeepaliveSend s.start ).same .memOut rfl
  simp only [exec, execCascKeepaliveSend]
  exact nextDev_become s (fun (d : Dev) =>
    if ¬ domOn d 39 then d
    else [0, 1].foldl (fun d p =>
      if (cascPort d p).st = .hello ∨ (cascPort d p).st = .up then cascNear d .keepalive p .keepalive else d) d) hm_

theorem f_cascKeepaliveSend : ∀ (s : State), Ends (exec .cascKeepaliveSend s) (Keeps [.out, .casc] s) := by
  intro s 
  simp only [exec, execCascKeepaliveSend]
  exact keeps_nextDev (f := (fun (d : Dev) =>
    if ¬ domOn d 39 then d
    else [0, 1].foldl (fun d p =>
      if (cascPort d p).st = .hello ∨ (cascPort d p).st = .up then cascNear d .keepalive p .keepalive else d) d)) (t_cascKeepaliveSend s.start ) rfl

theorem t_cascHelloSend (d : Dev)  : Touches [.out, .casc] d ((fun (d : Dev) =>
    if ¬ domOn d 39 then d
    else [0, 1].foldl (fun d p =>
      if (cascPort d p).st = .aligning ∨ (cascPort d p).st = .hello then
        cascTx d .hello p .control 0 d.casc.device 0xFF 0 (ctlBytes (.hello d.casc.domain d.casc.device d.bell.succ.rank)) else d) d) d) := by
  beta_reduce
  repeat' first
    | with_reducible assumption
    | with_reducible exact Touches.refl
    | ((try lift_lets -underBinder); intro d_; refine (have hd_ : Touches [.out, .casc] d d_ := ?_; ?_); (on_goal 1 => try dsimp only [d_]); (on_goal 2 => clear_value d_))
    | ((try lift_lets -underBinder); intro d_; try clear_value d_)
    | with_reducible apply Touches.foldl
    | (intro _ _ _)
    | exact Eq.refl true
    | with_reducible refine Touches.andThen ?_ (by with_reducible exact cascTx_touch ..) ?_
    | split
    | dsimp -zeta only
    | (split at ‹ite _ _ _ = (_, _)›)
    | (cases ‹(_, _) = (_, _)›)

theorem b_cascHelloSend (s : State)  : exec .cascHelloSend s = s.become ((fun (d : Dev) =>
    if ¬ domOn d 39 then d
    else [0, 1].foldl (fun d p =>
      if (cascPort d p).st = .aligning ∨ (cascPort d p).st = .hello then
        cascTx d .hello p .control 0 d.casc.device 0xFF 0 (ctlBytes (.hello d.casc.domain d.casc.device d.bell.succ.rank)) else d) d) s.start) := by
  have hm_ : ((fun (d : Dev) =>
    if ¬ domOn d 39 then d
    else [0, 1].foldl (fun d p =>
      if (cascPort d p).st = .aligning ∨ (cascPort d p).st = .hello then
        cascTx d .hello p .control 0 d.casc.device 0xFF 0 (ctlBytes (.hello d.casc.domain d.casc.device d.bell.succ.rank)) else d) d) s.start).memOut = [] := (t_cascHelloSend s.start ).same .memOut rfl
  simp only [exec, execCascHelloSend]
  exact nextDev_become s (fun (d : Dev) =>
    if ¬ domOn d 39 then d
    else [0, 1].foldl (fun d p =>
      if (cascPort d p).st = .aligning ∨ (cascPort d p).st = .hello then
        cascTx d .hello p .control 0 d.casc.device 0xFF 0 (ctlBytes (.hello d.casc.domain d.casc.device d.bell.succ.rank)) else d) d) hm_

theorem f_cascHelloSend : ∀ (s : State), Ends (exec .cascHelloSend s) (Keeps [.out, .casc] s) := by
  intro s 
  simp only [exec, execCascHelloSend]
  exact keeps_nextDev (f := (fun (d : Dev) =>
    if ¬ domOn d 39 then d
    else [0, 1].foldl (fun d p =>
      if (cascPort d p).st = .aligning ∨ (cascPort d p).st = .hello then
        cascTx d .hello p .control 0 d.casc.device 0xFF 0 (ctlBytes (.hello d.casc.domain d.casc.device d.bell.succ.rank)) else d) d)) (t_cascHelloSend s.start ) rfl

theorem t_cascTopoSend (d : Dev)  : Touches [.out, .casc] d ((fun (d : Dev) => if domOn d 39 then sendTopo (sendTopo d 0) 1 else d) d) := by
  beta_reduce
  repeat' first
    | with_reducible assumption
    | with_reducible exact Touches.refl
    | ((try lift_lets -underBinder); intro d_; refine (have hd_ : Touches [.out, .casc] d d_ := ?_; ?_); (on_goal 1 => try dsimp only [d_]); (on_goal 2 => clear_value d_))
    | ((try lift_lets -underBinder); intro d_; try clear_value d_)
    | exact Eq.refl true
    | with_reducible refine Touches.andThen ?_ (by with_reducible exact sendTopo_touch ..) ?_
    | split
    | dsimp -zeta only
    | (split at ‹ite _ _ _ = (_, _)›)
    | (cases ‹(_, _) = (_, _)›)

theorem b_cascTopoSend (s : State)  : exec .cascTopoSend s = s.become ((fun (d : Dev) => if domOn d 39 then sendTopo (sendTopo d 0) 1 else d) s.start) := by
  have hm_ : ((fun (d : Dev) => if domOn d 39 then sendTopo (sendTopo d 0) 1 else d) s.start).memOut = [] := (t_cascTopoSend s.start ).same .memOut rfl
  simp only [exec, execCascTopoSend]
  exact nextDev_become s (fun (d : Dev) => if domOn d 39 then sendTopo (sendTopo d 0) 1 else d) hm_

theorem f_cascTopoSend : ∀ (s : State), Ends (exec .cascTopoSend s) (Keeps [.out, .casc] s) := by
  intro s 
  simp only [exec, execCascTopoSend]
  exact keeps_nextDev (f := (fun (d : Dev) => if domOn d 39 then sendTopo (sendTopo d 0) 1 else d)) (t_cascTopoSend s.start ) rfl

theorem t_cascPortTimeout (d : Dev) (port : Nat) : Touches [.out, .sys, .casc] d ((fun (d : Dev) => if port ≤ 1 ∧ cascUp d port then cascDown d port 4 else d) d) := by
  beta_reduce
  repeat' first
    | with_reducible assumption
    | with_reducible exact Touches.refl
    | ((try lift_lets -underBinder); intro d_; refine (have hd_ : Touches [.out, .sys, .casc] d d_ := ?_; ?_); (on_goal 1 => try dsimp only [d_]); (on_goal 2 => clear_value d_))
    | ((try lift_lets -underBinder); intro d_; try clear_value d_)
    | exact Eq.refl true
    | with_reducible refine Touches.andThen ?_ (by with_reducible exact cascDown_touch ..) ?_
    | split
    | dsimp -zeta only
    | (split at ‹ite _ _ _ = (_, _)›)
    | (cases ‹(_, _) = (_, _)›)

theorem b_cascPortTimeout (s : State) (port : Nat) : exec (.cascPortTimeout port) s = s.become ((fun (d : Dev) => if port ≤ 1 ∧ cascUp d port then cascDown d port 4 else d) s.start) := by
  have hm_ : ((fun (d : Dev) => if port ≤ 1 ∧ cascUp d port then cascDown d port 4 else d) s.start).memOut = [] := (t_cascPortTimeout s.start port).same .memOut rfl
  simp only [exec, execCascPortTimeout]
  exact nextDev_become s (fun (d : Dev) => if port ≤ 1 ∧ cascUp d port then cascDown d port 4 else d) hm_

theorem f_cascPortTimeout : ∀ (s : State) (port : Nat), Ends (exec (.cascPortTimeout port) s) (Keeps [.out, .sys, .casc] s) := by
  intro s port
  simp only [exec, execCascPortTimeout]
  exact keeps_nextDev (f := (fun (d : Dev) => if port ≤ 1 ∧ cascUp d port then cascDown d port 4 else d)) (t_cascPortTimeout s.start port) rfl

theorem t_cascPortRetry (d : Dev) (port : Nat) : Touches [.casc] d ((fun (d : Dev) =>
    let x := cascPort d port
    if port ≤ 1 ∧ x.st = .down ∧ (x.reason = 3 ∨ x.reason = 4) ∧ getField d.casc.portEn port 1 = 1 ∧ x.downAt + 1024 ≤ d.bell.tick then
      onCascPort d port (fun x => { x with st := .aligning })
    else d) d) := by
  beta_reduce
  repeat' first
    | with_reducible assumption
    | with_reducible exact Touches.refl
    | ((try lift_lets -underBinder); intro d_; refine (have hd_ : Touches [.casc] d d_ := ?_; ?_); (on_goal 1 => try dsimp only [d_]); (on_goal 2 => clear_value d_))
    | ((try lift_lets -underBinder); intro d_; try clear_value d_)
    | exact Eq.refl true
    | with_reducible refine Touches.andThen ?_ (by with_reducible exact onCascPort_touch ..) ?_
    | split
    | dsimp -zeta only
    | (split at ‹ite _ _ _ = (_, _)›)
    | (cases ‹(_, _) = (_, _)›)

theorem b_cascPortRetry (s : State) (port : Nat) : exec (.cascPortRetry port) s = s.become ((fun (d : Dev) =>
    let x := cascPort d port
    if port ≤ 1 ∧ x.st = .down ∧ (x.reason = 3 ∨ x.reason = 4) ∧ getField d.casc.portEn port 1 = 1 ∧ x.downAt + 1024 ≤ d.bell.tick then
      onCascPort d port (fun x => { x with st := .aligning })
    else d) s.start) := by
  have hm_ : ((fun (d : Dev) =>
    let x := cascPort d port
    if port ≤ 1 ∧ x.st = .down ∧ (x.reason = 3 ∨ x.reason = 4) ∧ getField d.casc.portEn port 1 = 1 ∧ x.downAt + 1024 ≤ d.bell.tick then
      onCascPort d port (fun x => { x with st := .aligning })
    else d) s.start).memOut = [] := (t_cascPortRetry s.start port).same .memOut rfl
  simp only [exec, execCascPortRetry]
  exact nextDev_become s (fun (d : Dev) =>
    let x := cascPort d port
    if port ≤ 1 ∧ x.st = .down ∧ (x.reason = 3 ∨ x.reason = 4) ∧ getField d.casc.portEn port 1 = 1 ∧ x.downAt + 1024 ≤ d.bell.tick then
      onCascPort d port (fun x => { x with st := .aligning })
    else d) hm_

theorem f_cascPortRetry : ∀ (s : State) (port : Nat), Ends (exec (.cascPortRetry port) s) (Keeps [.casc] s) := by
  intro s port
  simp only [exec, execCascPortRetry]
  exact keeps_nextDev (f := (fun (d : Dev) =>
    let x := cascPort d port
    if port ≤ 1 ∧ x.st = .down ∧ (x.reason = 3 ∨ x.reason = 4) ∧ getField d.casc.portEn port 1 = 1 ∧ x.downAt + 1024 ≤ d.bell.tick then
      onCascPort d port (fun x => { x with st := .aligning })
    else d)) (t_cascPortRetry s.start port) rfl

theorem t_cascDataRx (d : Dev) (h : CascHdr) (bytes : List Byte) (stamp now : Nat) : Touches [.freeCtr, .out, .sys, .past, .parse, .tm, .flock, .casc, .integ] d ((fun (d : Dev) =>
    if ¬ cascUp d h.port then d
    else cascRx h .data bytes false .cascData h.corr
      (fun d => if domOn d 14 then ingest d (12 + h.port) none bytes (adjusted d (9 + h.port % 2) stamp) now none else d) d) d) := by
  beta_reduce
  repeat' first
    | with_reducible assumption
    | with_reducible exact Touches.refl
    | ((try lift_lets -underBinder); intro d_; refine (have hd_ : Touches [.freeCtr, .out, .sys, .past, .parse, .tm, .flock, .casc, .integ] d d_ := ?_; ?_); (on_goal 1 => try dsimp only [d_]); (on_goal 2 => clear_value d_))
    | ((try lift_lets -underBinder); intro d_; try clear_value d_)
    | exact Eq.refl true
    | with_reducible refine Touches.andThen ?_ (cascRx_touch (ps := [.freeCtr, .out, .sys, .past, .parse, .tm, .flock, .casc, .integ]) ?_ ?_ ..) ?_
    | (intro _)
    | with_reducible refine Touches.andThen ?_ (by with_reducible exact ingest_touch ..) ?_
    | split
    | dsimp -zeta only
    | (split at ‹ite _ _ _ = (_, _)›)
    | (cases ‹(_, _) = (_, _)›)

theorem b_cascDataRx (s : State) (h : CascHdr) (bytes : List Byte) (stamp now : Nat) : exec (.cascDataRx h bytes stamp now) s = s.become ((fun (d : Dev) =>
    if ¬ cascUp d h.port then d
    else cascRx h .data bytes false .cascData h.corr
      (fun d => if domOn d 14 then ingest d (12 + h.port) none bytes (adjusted d (9 + h.port % 2) stamp) now none else d) d) s.start) := by
  have hm_ : ((fun (d : Dev) =>
    if ¬ cascUp d h.port then d
    else cascRx h .data bytes false .cascData h.corr
      (fun d => if domOn d 14 then ingest d (12 + h.port) none bytes (adjusted d (9 + h.port % 2) stamp) now none else d) d) s.start).memOut = [] := (t_cascDataRx s.start h bytes stamp now).same .memOut rfl
  simp only [exec, execCascDataRx]
  exact nextDev_become s (fun (d : Dev) =>
    if ¬ cascUp d h.port then d
    else cascRx h .data bytes false .cascData h.corr
      (fun d => if domOn d 14 then ingest d (12 + h.port) none bytes (adjusted d (9 + h.port % 2) stamp) now none else d) d) hm_

theorem f_cascDataRx : ∀ (s : State) (h : CascHdr) (bytes : List Byte) (stamp now : Nat), Ends (exec (.cascDataRx h bytes stamp now) s) (Keeps [.freeCtr, .out, .sys, .past, .parse, .tm, .flock, .casc, .integ] s) := by
  intro s h bytes stamp now
  simp only [exec, execCascDataRx]
  exact keeps_nextDev (f := (fun (d : Dev) =>
    if ¬ cascUp d h.port then d
    else cascRx h .data bytes false .cascData h.corr
      (fun d => if domOn d 14 then ingest d (12 + h.port) none bytes (adjusted d (9 + h.port % 2) stamp) now none else d) d)) (t_cascDataRx s.start h bytes stamp now) rfl

theorem t_cascMediaRx (d : Dev) (h : CascHdr) (pay : MediaPay) : Touches [.freeCtr, .out, .sys, .flock, .media, .casc, .integ] d ((fun (d : Dev) => if cascUp d h.port then cascRx h .media (mediaBytes pay) false .cascMedia h.corr (mediaRx pay) d else d) d) := by
  beta_reduce
  repeat' first
    | with_reducible assumption
    | with_reducible exact Touches.refl
    | ((try lift_lets -underBinder); intro d_; refine (have hd_ : Touches [.freeCtr, .out, .sys, .flock, .media, .casc, .integ] d d_ := ?_; ?_); (on_goal 1 => try dsimp only [d_]); (on_goal 2 => clear_value d_))
    | ((try lift_lets -underBinder); intro d_; try clear_value d_)
    | exact Eq.refl true
    | with_reducible refine Touches.andThen ?_ (cascRx_touch (ps := [.freeCtr, .out, .sys, .flock, .media, .casc, .integ]) ?_ ?_ ..) ?_
    | (intro _)
    | with_reducible refine Touches.andThen ?_ (by with_reducible exact mediaRx_touch ..) ?_
    | split
    | dsimp -zeta only
    | (split at ‹ite _ _ _ = (_, _)›)
    | (cases ‹(_, _) = (_, _)›)

theorem b_cascMediaRx (s : State) (h : CascHdr) (pay : MediaPay) : exec (.cascMediaRx h pay) s = s.become ((fun (d : Dev) => if cascUp d h.port then cascRx h .media (mediaBytes pay) false .cascMedia h.corr (mediaRx pay) d else d) s.start) := by
  have hm_ : ((fun (d : Dev) => if cascUp d h.port then cascRx h .media (mediaBytes pay) false .cascMedia h.corr (mediaRx pay) d else d) s.start).memOut = [] := (t_cascMediaRx s.start h pay).same .memOut rfl
  simp only [exec, execCascMediaRx]
  exact nextDev_become s (fun (d : Dev) => if cascUp d h.port then cascRx h .media (mediaBytes pay) false .cascMedia h.corr (mediaRx pay) d else d) hm_

theorem f_cascMediaRx : ∀ (s : State) (h : CascHdr) (pay : MediaPay), Ends (exec (.cascMediaRx h pay) s) (Keeps [.freeCtr, .out, .sys, .flock, .media, .casc, .integ] s) := by
  intro s h pay
  simp only [exec, execCascMediaRx]
  exact keeps_nextDev (f := (fun (d : Dev) => if cascUp d h.port then cascRx h .media (mediaBytes pay) false .cascMedia h.corr (mediaRx pay) d else d)) (t_cascMediaRx s.start h pay) rfl

theorem t_twinBeatSend (d : Dev)  : Touches [.out, .casc] d ((fun (d : Dev) =>
    if ¬ domOn d 39 then d
    else (twinPaths d).foldl (fun d p => match d.casc.twin with
      | none => d
      | some t => cascTx d .twinBeat p .control (hopsVia d p t - 1) d.casc.device t 0
          (ctlBytes (.twinBeat d.casc.device (twinStCode d.casc.twinSt)))) d) d) := by
  beta_reduce
  repeat' first
    | with_reducible assumption
    | with_reducible exact Touches.refl
    | ((try lift_lets -underBinder); intro d_; refine (have hd_ : Touches [.out, .casc] d d_ := ?_; ?_); (on_goal 1 => try dsimp only [d_]); (on_goal 2 => clear_value d_))
    | ((try lift_lets -underBinder); intro d_; try clear_value d_)
    | with_reducible apply Touches.foldl
    | (intro _ _ _)
    | exact Eq.refl true
    | with_reducible refine Touches.andThen ?_ (by with_reducible exact cascTx_touch ..) ?_
    | split
    | dsimp -zeta only
    | (split at ‹ite _ _ _ = (_, _)›)
    | (cases ‹(_, _) = (_, _)›)

theorem b_twinBeatSend (s : State)  : exec .twinBeatSend s = s.become ((fun (d : Dev) =>
    if ¬ domOn d 39 then d
    else (twinPaths d).foldl (fun d p => match d.casc.twin with
      | none => d
      | some t => cascTx d .twinBeat p .control (hopsVia d p t - 1) d.casc.device t 0
          (ctlBytes (.twinBeat d.casc.device (twinStCode d.casc.twinSt)))) d) s.start) := by
  have hm_ : ((fun (d : Dev) =>
    if ¬ domOn d 39 then d
    else (twinPaths d).foldl (fun d p => match d.casc.twin with
      | none => d
      | some t => cascTx d .twinBeat p .control (hopsVia d p t - 1) d.casc.device t 0
          (ctlBytes (.twinBeat d.casc.device (twinStCode d.casc.twinSt)))) d) s.start).memOut = [] := (t_twinBeatSend s.start ).same .memOut rfl
  simp only [exec, execTwinBeatSend]
  exact nextDev_become s (fun (d : Dev) =>
    if ¬ domOn d 39 then d
    else (twinPaths d).foldl (fun d p => match d.casc.twin with
      | none => d
      | some t => cascTx d .twinBeat p .control (hopsVia d p t - 1) d.casc.device t 0
          (ctlBytes (.twinBeat d.casc.device (twinStCode d.casc.twinSt)))) d) hm_

theorem f_twinBeatSend : ∀ (s : State), Ends (exec .twinBeatSend s) (Keeps [.out, .casc] s) := by
  intro s 
  simp only [exec, execTwinBeatSend]
  exact keeps_nextDev (f := (fun (d : Dev) =>
    if ¬ domOn d 39 then d
    else (twinPaths d).foldl (fun d p => match d.casc.twin with
      | none => d
      | some t => cascTx d .twinBeat p .control (hopsVia d p t - 1) d.casc.device t 0
          (ctlBytes (.twinBeat d.casc.device (twinStCode d.casc.twinSt)))) d)) (t_twinBeatSend s.start ) rfl

theorem t_cascTwinBeatRx (d : Dev) (h : CascHdr) (state : Nat) : Touches [.out, .sys, .media, .aud, .casc] d ((cascCtlRx h (.twinBeat h.src state) false .twinBeat (fun d =>
    if some h.src = d.casc.twin ∧ state = 2 then twinReturn d else d)) d) := by
  beta_reduce
  repeat' first
    | with_reducible assumption
    | with_reducible exact Touches.refl
    | ((try lift_lets -underBinder); intro d_; refine (have hd_ : Touches [.out, .sys, .media, .aud, .casc] d d_ := ?_; ?_); (on_goal 1 => try dsimp only [d_]); (on_goal 2 => clear_value d_))
    | ((try lift_lets -underBinder); intro d_; try clear_value d_)
    | exact Eq.refl true
    | with_reducible refine Touches.andThen ?_ (cascCtlRx_touch (ps := [.out, .sys, .media, .aud, .casc]) ?_ ?_ ..) ?_
    | (intro _)
    | with_reducible refine Touches.andThen ?_ (by with_reducible exact twinReturn_touch ..) ?_
    | split
    | dsimp -zeta only
    | (split at ‹ite _ _ _ = (_, _)›)
    | (cases ‹(_, _) = (_, _)›)

theorem b_cascTwinBeatRx (s : State) (h : CascHdr) (state : Nat) : exec (.cascTwinBeatRx h state) s = s.become ((cascCtlRx h (.twinBeat h.src state) false .twinBeat (fun d =>
    if some h.src = d.casc.twin ∧ state = 2 then twinReturn d else d)) s.start) := by
  have hm_ : ((cascCtlRx h (.twinBeat h.src state) false .twinBeat (fun d =>
    if some h.src = d.casc.twin ∧ state = 2 then twinReturn d else d)) s.start).memOut = [] := (t_cascTwinBeatRx s.start h state).same .memOut rfl
  simp only [exec, execCascTwinBeatRx]
  exact nextDev_become s (cascCtlRx h (.twinBeat h.src state) false .twinBeat (fun d =>
    if some h.src = d.casc.twin ∧ state = 2 then twinReturn d else d)) hm_

theorem f_cascTwinBeatRx : ∀ (s : State) (h : CascHdr) (state : Nat), Ends (exec (.cascTwinBeatRx h state) s) (Keeps [.out, .sys, .media, .aud, .casc] s) := by
  intro s h state
  simp only [exec, execCascTwinBeatRx]
  exact keeps_nextDev (f := (cascCtlRx h (.twinBeat h.src state) false .twinBeat (fun d =>
    if some h.src = d.casc.twin ∧ state = 2 then twinReturn d else d))) (t_cascTwinBeatRx s.start h state) rfl

theorem t_cascTakeoverRx (d : Dev) (h : CascHdr) (taken home : Nat) : Touches [.out, .sys, .media, .aud, .casc] d ((cascCtlRx h (.takeover taken home) false .takeover (takeoverRx taken home)) d) := by
  beta_reduce
  repeat' first
    | with_reducible assumption
    | with_reducible exact Touches.refl
    | ((try lift_lets -underBinder); intro d_; refine (have hd_ : Touches [.out, .sys, .media, .aud, .casc] d d_ := ?_; ?_); (on_goal 1 => try dsimp only [d_]); (on_goal 2 => clear_value d_))
    | ((try lift_lets -underBinder); intro d_; try clear_value d_)
    | exact Eq.refl true
    | with_reducible refine Touches.andThen ?_ (cascCtlRx_touch (ps := [.out, .sys, .media, .aud, .casc]) ?_ ?_ ..) ?_
    | (intro _)
    | with_reducible refine Touches.andThen ?_ (by with_reducible exact takeoverRx_touch ..) ?_
    | split
    | dsimp -zeta only
    | (split at ‹ite _ _ _ = (_, _)›)
    | (cases ‹(_, _) = (_, _)›)

theorem b_cascTakeoverRx (s : State) (h : CascHdr) (taken home : Nat) : exec (.cascTakeoverRx h taken home) s = s.become ((cascCtlRx h (.takeover taken home) false .takeover (takeoverRx taken home)) s.start) := by
  have hm_ : ((cascCtlRx h (.takeover taken home) false .takeover (takeoverRx taken home)) s.start).memOut = [] := (t_cascTakeoverRx s.start h taken home).same .memOut rfl
  simp only [exec, execCascTakeoverRx]
  exact nextDev_become s (cascCtlRx h (.takeover taken home) false .takeover (takeoverRx taken home)) hm_

theorem f_cascTakeoverRx : ∀ (s : State) (h : CascHdr) (taken home : Nat), Ends (exec (.cascTakeoverRx h taken home) s) (Keeps [.out, .sys, .media, .aud, .casc] s) := by
  intro s h taken home
  simp only [exec, execCascTakeoverRx]
  exact keeps_nextDev (f := (cascCtlRx h (.takeover taken home) false .takeover (takeoverRx taken home))) (t_cascTakeoverRx s.start h taken home) rfl

theorem t_twinPartnerLost (d : Dev)  : Touches [.casc] d ((fun (d : Dev) =>
    if d.casc.twin.isNone ∨ d.casc.twinSt = .tookOver then d
    else onCasc d (fun c => { c with partnerHeard := false, lost := decide (d.casc.reach = 2) })) d) := by
  beta_reduce
  repeat' first
    | with_reducible assumption
    | with_reducible exact Touches.refl
    | ((try lift_lets -underBinder); intro d_; refine (have hd_ : Touches [.casc] d d_ := ?_; ?_); (on_goal 1 => try dsimp only [d_]); (on_goal 2 => clear_value d_))
    | ((try lift_lets -underBinder); intro d_; try clear_value d_)
    | exact Eq.refl true
    | with_reducible refine Touches.andThen ?_ (by with_reducible exact onCasc_touch ..) ?_
    | split
    | dsimp -zeta only
    | (split at ‹ite _ _ _ = (_, _)›)
    | (cases ‹(_, _) = (_, _)›)

theorem b_twinPartnerLost (s : State)  : exec .twinPartnerLost s = s.become ((fun (d : Dev) =>
    if d.casc.twin.isNone ∨ d.casc.twinSt = .tookOver then d
    else onCasc d (fun c => { c with partnerHeard := false, lost := decide (d.casc.reach = 2) })) s.start) := by
  have hm_ : ((fun (d : Dev) =>
    if d.casc.twin.isNone ∨ d.casc.twinSt = .tookOver then d
    else onCasc d (fun c => { c with partnerHeard := false, lost := decide (d.casc.reach = 2) })) s.start).memOut = [] := (t_twinPartnerLost s.start ).same .memOut rfl
  simp only [exec, execTwinPartnerLost]
  exact nextDev_become s (fun (d : Dev) =>
    if d.casc.twin.isNone ∨ d.casc.twinSt = .tookOver then d
    else onCasc d (fun c => { c with partnerHeard := false, lost := decide (d.casc.reach = 2) })) hm_

theorem f_twinPartnerLost : ∀ (s : State), Ends (exec .twinPartnerLost s) (Keeps [.casc] s) := by
  intro s 
  simp only [exec, execTwinPartnerLost]
  exact keeps_nextDev (f := (fun (d : Dev) =>
    if d.casc.twin.isNone ∨ d.casc.twinSt = .tookOver then d
    else onCasc d (fun c => { c with partnerHeard := false, lost := decide (d.casc.reach = 2) }))) (t_twinPartnerLost s.start ) rfl

theorem t_twinTakeover (d : Dev)  : Touches [.out, .sys, .parse, .media, .aud, .casc] d ((fun (d : Dev) => if d.casc.lost ∧ d.casc.twinSt ≠ .tookOver then takeOver d else d) d) := by
  beta_reduce
  repeat' first
    | with_reducible assumption
    | with_reducible exact Touches.refl
    | ((try lift_lets -underBinder); intro d_; refine (have hd_ : Touches [.out, .sys, .parse, .media, .aud, .casc] d d_ := ?_; ?_); (on_goal 1 => try dsimp only [d_]); (on_goal 2 => clear_value d_))
    | ((try lift_lets -underBinder); intro d_; try clear_value d_)
    | exact Eq.refl true
    | with_reducible refine Touches.andThen ?_ (by with_reducible exact takeOver_touch ..) ?_
    | split
    | dsimp -zeta only
    | (split at ‹ite _ _ _ = (_, _)›)
    | (cases ‹(_, _) = (_, _)›)

theorem b_twinTakeover (s : State)  : exec .twinTakeover s = s.become ((fun (d : Dev) => if d.casc.lost ∧ d.casc.twinSt ≠ .tookOver then takeOver d else d) s.start) := by
  have hm_ : ((fun (d : Dev) => if d.casc.lost ∧ d.casc.twinSt ≠ .tookOver then takeOver d else d) s.start).memOut = [] := (t_twinTakeover s.start ).same .memOut rfl
  simp only [exec, execTwinTakeover]
  exact nextDev_become s (fun (d : Dev) => if d.casc.lost ∧ d.casc.twinSt ≠ .tookOver then takeOver d else d) hm_

theorem f_twinTakeover : ∀ (s : State), Ends (exec .twinTakeover s) (Keeps [.out, .sys, .parse, .media, .aud, .casc] s) := by
  intro s 
  simp only [exec, execTwinTakeover]
  exact keeps_nextDev (f := (fun (d : Dev) => if d.casc.lost ∧ d.casc.twinSt ≠ .tookOver then takeOver d else d)) (t_twinTakeover s.start ) rfl

theorem t_tmDequeue (d : Dev) (root : Nat) (op : TxOp) (cell : Nat) (find : EccFind) : Touches [.freeCtr, .out, .sys, .bell, .past, .fold, .tm, .cli, .casc, .integ] d ((fun (d : Dev) =>
    if 512 ≤ root ∧ root ≤ 516 ∨ root = 524 ∨ root = 525 then
      let may := if root ≤ 516 then portMaySend d (root - 512) && domOn d 15 else cascUp d (root - 524) && domOn d 39 && domOn d 15
      if ¬ may then d
      else
        match eccRead d (headClass d root op.now cell) cell find with
        | (.uncorrectable, e) => dropUnread e root op.now
        | (_, e) => if root ≤ 516 then portDequeue e (root - 512) op else cascDequeue e (root - 524) op.now op.stamp
    else d) d) := by
  beta_reduce
  have k := eccRead_touch d (headClass d root op.now cell) cell find
  split
  · generalize (if root ≤ 516 then portMaySend d (root - 512) && domOn d 15 else cascUp d (root - 524) && domOn d 39 && domOn d 15) = may
    dsimp only
    split
    · exact .refl
    · generalize eccRead d (headClass d root op.now cell) cell find = r at k ⊢
      rcases r with ⟨x, e⟩
      cases x
      case uncorrectable => exact .andThen (.mono k) (dropUnread_touch _ _ _)
      all_goals (dsimp only; split; exact .andThen (.mono k) (portDequeue_touch _ _ _); exact .andThen (.mono k) (cascDequeue_touch _ _ _ _))
  · exact .refl

theorem b_tmDequeue (s : State) (root : Nat) (op : TxOp) (cell : Nat) (find : EccFind) : exec (.tmDequeue root op cell find) s = s.become ((fun (d : Dev) =>
    if 512 ≤ root ∧ root ≤ 516 ∨ root = 524 ∨ root = 525 then
      let may := if root ≤ 516 then portMaySend d (root - 512) && domOn d 15 else cascUp d (root - 524) && domOn d 39 && domOn d 15
      if ¬ may then d
      else
        match eccRead d (headClass d root op.now cell) cell find with
        | (.uncorrectable, e) => dropUnread e root op.now
        | (_, e) => if root ≤ 516 then portDequeue e (root - 512) op else cascDequeue e (root - 524) op.now op.stamp
    else d) s.start) := by
  have hm_ : ((fun (d : Dev) =>
    if 512 ≤ root ∧ root ≤ 516 ∨ root = 524 ∨ root = 525 then
      let may := if root ≤ 516 then portMaySend d (root - 512) && domOn d 15 else cascUp d (root - 524) && domOn d 39 && domOn d 15
      if ¬ may then d
      else
        match eccRead d (headClass d root op.now cell) cell find with
        | (.uncorrectable, e) => dropUnread e root op.now
        | (_, e) => if root ≤ 516 then portDequeue e (root - 512) op else cascDequeue e (root - 524) op.now op.stamp
    else d) s.start).memOut = [] := (t_tmDequeue s.start root op cell find).same .memOut rfl
  simp only [exec, execTmDequeue]
  exact nextDev_become s (fun (d : Dev) =>
    if 512 ≤ root ∧ root ≤ 516 ∨ root = 524 ∨ root = 525 then
      let may := if root ≤ 516 then portMaySend d (root - 512) && domOn d 15 else cascUp d (root - 524) && domOn d 39 && domOn d 15
      if ¬ may then d
      else
        match eccRead d (headClass d root op.now cell) cell find with
        | (.uncorrectable, e) => dropUnread e root op.now
        | (_, e) => if root ≤ 516 then portDequeue e (root - 512) op else cascDequeue e (root - 524) op.now op.stamp
    else d) hm_

theorem f_tmDequeue : ∀ (s : State) (root : Nat) (op : TxOp) (cell : Nat) (find : EccFind), Ends (exec (.tmDequeue root op cell find) s) (Keeps [.freeCtr, .out, .sys, .bell, .past, .fold, .tm, .cli, .casc, .integ] s) := by
  intro s root op cell find
  simp only [exec, execTmDequeue]
  exact keeps_nextDev (f := (fun (d : Dev) =>
    if 512 ≤ root ∧ root ≤ 516 ∨ root = 524 ∨ root = 525 then
      let may := if root ≤ 516 then portMaySend d (root - 512) && domOn d 15 else cascUp d (root - 524) && domOn d 39 && domOn d 15
      if ¬ may then d
      else
        match eccRead d (headClass d root op.now cell) cell find with
        | (.uncorrectable, e) => dropUnread e root op.now
        | (_, e) => if root ≤ 516 then portDequeue e (root - 512) op else cascDequeue e (root - 524) op.now op.stamp
    else d)) (t_tmDequeue s.start root op cell find) rfl

theorem t_laneFailure (d : Dev) (lane : Nat) : Touches [.out, .sys, .cli, .casc, .lane] d ((fun (d : Dev) => if lane < 32 ∧ laneOn d lane ∧ laneBad d lane then laneFailed d lane else d) d) := by
  beta_reduce
  repeat' first
    | with_reducible assumption
    | with_reducible exact Touches.refl
    | ((try lift_lets -underBinder); intro d_; refine (have hd_ : Touches [.out, .sys, .cli, .casc, .lane] d d_ := ?_; ?_); (on_goal 1 => try dsimp only [d_]); (on_goal 2 => clear_value d_))
    | ((try lift_lets -underBinder); intro d_; try clear_value d_)
    | exact Eq.refl true
    | with_reducible refine Touches.andThen ?_ (by with_reducible exact laneFailed_touch ..) ?_
    | split
    | dsimp -zeta only
    | (split at ‹ite _ _ _ = (_, _)›)
    | (cases ‹(_, _) = (_, _)›)

theorem b_laneFailure (s : State) (lane : Nat) : exec (.laneFailure lane) s = s.become ((fun (d : Dev) => if lane < 32 ∧ laneOn d lane ∧ laneBad d lane then laneFailed d lane else d) s.start) := by
  have hm_ : ((fun (d : Dev) => if lane < 32 ∧ laneOn d lane ∧ laneBad d lane then laneFailed d lane else d) s.start).memOut = [] := (t_laneFailure s.start lane).same .memOut rfl
  simp only [exec, execLaneFailure]
  exact nextDev_become s (fun (d : Dev) => if lane < 32 ∧ laneOn d lane ∧ laneBad d lane then laneFailed d lane else d) hm_

theorem f_laneFailure : ∀ (s : State) (lane : Nat), Ends (exec (.laneFailure lane) s) (Keeps [.out, .sys, .cli, .casc, .lane] s) := by
  intro s lane
  simp only [exec, execLaneFailure]
  exact keeps_nextDev (f := (fun (d : Dev) => if lane < 32 ∧ laneOn d lane ∧ laneBad d lane then laneFailed d lane else d)) (t_laneFailure s.start lane) rfl

theorem t_laneAdapted (d : Dev) (lane peak gain : Nat) (dfe : List Nat) (flt : List (Nat × Nat)) : Touches [.out, .sys, .lane] d ((fun (d : Dev) =>
    if lane > 31 ∨ ¬ laneOn d lane then d
    else
      let d := onLane d lane (fun l =>
        let l := if l.ctrl.getLsbD 8 then l else { adaptTaps l dfe flt with peak := min 15 peak, gain := min 63 gain }
        { l with signal := true, cdr := true, adapted := true })
      match (laneGroup d 0).sparing with
      | some p => if lane = (if p.back then p.lane else 4) then spareSwitch d 0 p.lane p.back else d
      | none => d) d) := by
  beta_reduce
  repeat' first
    | with_reducible assumption
    | with_reducible exact Touches.refl
    | ((try lift_lets -underBinder); intro d_; refine (have hd_ : Touches [.out, .sys, .lane] d d_ := ?_; ?_); (on_goal 1 => try dsimp only [d_]); (on_goal 2 => clear_value d_))
    | ((try lift_lets -underBinder); intro d_; try clear_value d_)
    | exact Eq.refl true
    | with_reducible refine Touches.andThen ?_ (by with_reducible exact onLane_touch ..) ?_
    | with_reducible refine Touches.andThen ?_ (by with_reducible exact spareSwitch_touch ..) ?_
    | split
    | dsimp -zeta only
    | (split at ‹ite _ _ _ = (_, _)›)
    | (cases ‹(_, _) = (_, _)›)

theorem b_laneAdapted (s : State) (lane peak gain : Nat) (dfe : List Nat) (flt : List (Nat × Nat)) : exec (.laneAdapted lane peak gain dfe flt) s = s.become ((fun (d : Dev) =>
    if lane > 31 ∨ ¬ laneOn d lane then d
    else
      let d := onLane d lane (fun l =>
        let l := if l.ctrl.getLsbD 8 then l else { adaptTaps l dfe flt with peak := min 15 peak, gain := min 63 gain }
        { l with signal := true, cdr := true, adapted := true })
      match (laneGroup d 0).sparing with
      | some p => if lane = (if p.back then p.lane else 4) then spareSwitch d 0 p.lane p.back else d
      | none => d) s.start) := by
  have hm_ : ((fun (d : Dev) =>
    if lane > 31 ∨ ¬ laneOn d lane then d
    else
      let d := onLane d lane (fun l =>
        let l := if l.ctrl.getLsbD 8 then l else { adaptTaps l dfe flt with peak := min 15 peak, gain := min 63 gain }
        { l with signal := true, cdr := true, adapted := true })
      match (laneGroup d 0).sparing with
      | some p => if lane = (if p.back then p.lane else 4) then spareSwitch d 0 p.lane p.back else d
      | none => d) s.start).memOut = [] := (t_laneAdapted s.start lane peak gain dfe flt).same .memOut rfl
  simp only [exec, execLaneAdapted]
  exact nextDev_become s (fun (d : Dev) =>
    if lane > 31 ∨ ¬ laneOn d lane then d
    else
      let d := onLane d lane (fun l =>
        let l := if l.ctrl.getLsbD 8 then l else { adaptTaps l dfe flt with peak := min 15 peak, gain := min 63 gain }
        { l with signal := true, cdr := true, adapted := true })
      match (laneGroup d 0).sparing with
      | some p => if lane = (if p.back then p.lane else 4) then spareSwitch d 0 p.lane p.back else d
      | none => d) hm_

theorem f_laneAdapted : ∀ (s : State) (lane peak gain : Nat) (dfe : List Nat) (flt : List (Nat × Nat)), Ends (exec (.laneAdapted lane peak gain dfe flt) s) (Keeps [.out, .sys, .lane] s) := by
  intro s lane peak gain dfe flt
  simp only [exec, execLaneAdapted]
  exact keeps_nextDev (f := (fun (d : Dev) =>
    if lane > 31 ∨ ¬ laneOn d lane then d
    else
      let d := onLane d lane (fun l =>
        let l := if l.ctrl.getLsbD 8 then l else { adaptTaps l dfe flt with peak := min 15 peak, gain := min 63 gain }
        { l with signal := true, cdr := true, adapted := true })
      match (laneGroup d 0).sparing with
      | some p => if lane = (if p.back then p.lane else 4) then spareSwitch d 0 p.lane p.back else d
      | none => d)) (t_laneAdapted s.start lane peak gain dfe flt) rfl

theorem t_laneCdrLoss (d : Dev) (lane : Nat) : Touches [.out, .sys, .cli, .casc, .lane] d ((fun (d : Dev) =>
    if lane > 31 ∨ ¬ laneOn d lane ∨ ¬ (laneOf d lane).signal then d
    else
      let d := onLane d lane (fun l => { l with cdr := false, adapted := false, cdrLoss := satInc l.cdrLoss })
      laneFailed (raiseLeaf d 8 lane) lane) d) := by
  beta_reduce
  repeat' first
    | with_reducible assumption
    | with_reducible exact Touches.refl
    | ((try lift_lets -underBinder); intro d_; refine (have hd_ : Touches [.out, .sys, .cli, .casc, .lane] d d_ := ?_; ?_); (on_goal 1 => try dsimp only [d_]); (on_goal 2 => clear_value d_))
    | ((try lift_lets -underBinder); intro d_; try clear_value d_)
    | exact Eq.refl true
    | with_reducible refine Touches.andThen ?_ (by with_reducible exact onLane_touch ..) ?_
    | with_reducible refine Touches.andThen ?_ (by with_reducible exact laneFailed_touch ..) ?_
    | with_reducible refine Touches.andThen ?_ (by with_reducible exact raiseLeaf_touch ..) ?_
    | split
    | dsimp -zeta only
    | (split at ‹ite _ _ _ = (_, _)›)
    | (cases ‹(_, _) = (_, _)›)

theorem b_laneCdrLoss (s : State) (lane : Nat) : exec (.laneCdrLoss lane) s = s.become ((fun (d : Dev) =>
    if lane > 31 ∨ ¬ laneOn d lane ∨ ¬ (laneOf d lane).signal then d
    else
      let d := onLane d lane (fun l => { l with cdr := false, adapted := false, cdrLoss := satInc l.cdrLoss })
      laneFailed (raiseLeaf d 8 lane) lane) s.start) := by
  have hm_ : ((fun (d : Dev) =>
    if lane > 31 ∨ ¬ laneOn d lane ∨ ¬ (laneOf d lane).signal then d
    else
      let d := onLane d lane (fun l => { l with cdr := false, adapted := false, cdrLoss := satInc l.cdrLoss })
      laneFailed (raiseLeaf d 8 lane) lane) s.start).memOut = [] := (t_laneCdrLoss s.start lane).same .memOut rfl
  simp only [exec, execLaneCdrLoss]
  exact nextDev_become s (fun (d : Dev) =>
    if lane > 31 ∨ ¬ laneOn d lane ∨ ¬ (laneOf d lane).signal then d
    else
      let d := onLane d lane (fun l => { l with cdr := false, adapted := false, cdrLoss := satInc l.cdrLoss })
      laneFailed (raiseLeaf d 8 lane) lane) hm_

theorem f_laneCdrLoss : ∀ (s : State) (lane : Nat), Ends (exec (.laneCdrLoss lane) s) (Keeps [.out, .sys, .cli, .casc, .lane] s) := by
  intro s lane
  simp only [exec, execLaneCdrLoss]
  exact keeps_nextDev (f := (fun (d : Dev) =>
    if lane > 31 ∨ ¬ laneOn d lane ∨ ¬ (laneOf d lane).signal then d
    else
      let d := onLane d lane (fun l => { l with cdr := false, adapted := false, cdrLoss := satInc l.cdrLoss })
      laneFailed (raiseLeaf d 8 lane) lane)) (t_laneCdrLoss s.start lane) rfl

theorem t_eyeScan (d : Dev) (lane height width : Nat) : Touches [.out, .sys, .cli, .casc, .lane] d ((fun (d : Dev) =>
    if lane > 31 ∨ ¬ laneOn d lane then d
    else
      let th := (eyeThOf d lane).toNat
      let hBad := decide (height % 1024 < getField th 0 10)
      let wBad := decide (width % 1024 < getField th 16 10)
      let l := laneOf d lane
      let bh := if hBad then l.badHeight + 1 else 0
      let bw := if wBad then l.badWidth + 1 else 0
      let good := if hBad ∨ wBad then 0 else l.goodRun + 1
      let now := decide (bh ≥ 16 ∨ bw ≥ 16) || (l.eyeLow && decide (good < 16))
      let d := onLane d lane (fun l => { l with
        height := height % 1024, width := width % 1024, badHeight := min 16 bh, badWidth := min 16 bw, goodRun := min 16 good, eyeLow := now })
      if now ∧ ¬ l.eyeLow then laneFailed (raiseLeaf d 9 lane) lane else d) d) := by
  beta_reduce
  repeat' first
    | with_reducible assumption
    | with_reducible exact Touches.refl
    | ((try lift_lets -underBinder); intro d_; refine (have hd_ : Touches [.out, .sys, .cli, .casc, .lane] d d_ := ?_; ?_); (on_goal 1 => try dsimp only [d_]); (on_goal 2 => clear_value d_))
    | ((try lift_lets -underBinder); intro d_; try clear_value d_)
    | exact Eq.refl true
    | with_reducible refine Touches.andThen ?_ (by with_reducible exact onLane_touch ..) ?_
    | with_reducible refine Touches.andThen ?_ (by with_reducible exact laneFailed_touch ..) ?_
    | with_reducible refine Touches.andThen ?_ (by with_reducible exact raiseLeaf_touch ..) ?_
    | split
    | dsimp -zeta only
    | (split at ‹ite _ _ _ = (_, _)›)
    | (cases ‹(_, _) = (_, _)›)

theorem b_eyeScan (s : State) (lane height width : Nat) : exec (.eyeScan lane height width) s = s.become ((fun (d : Dev) =>
    if lane > 31 ∨ ¬ laneOn d lane then d
    else
      let th := (eyeThOf d lane).toNat
      let hBad := decide (height % 1024 < getField th 0 10)
      let wBad := decide (width % 1024 < getField th 16 10)
      let l := laneOf d lane
      let bh := if hBad then l.badHeight + 1 else 0
      let bw := if wBad then l.badWidth + 1 else 0
      let good := if hBad ∨ wBad then 0 else l.goodRun + 1
      let now := decide (bh ≥ 16 ∨ bw ≥ 16) || (l.eyeLow && decide (good < 16))
      let d := onLane d lane (fun l => { l with
        height := height % 1024, width := width % 1024, badHeight := min 16 bh, badWidth := min 16 bw, goodRun := min 16 good, eyeLow := now })
      if now ∧ ¬ l.eyeLow then laneFailed (raiseLeaf d 9 lane) lane else d) s.start) := by
  have hm_ : ((fun (d : Dev) =>
    if lane > 31 ∨ ¬ laneOn d lane then d
    else
      let th := (eyeThOf d lane).toNat
      let hBad := decide (height % 1024 < getField th 0 10)
      let wBad := decide (width % 1024 < getField th 16 10)
      let l := laneOf d lane
      let bh := if hBad then l.badHeight + 1 else 0
      let bw := if wBad then l.badWidth + 1 else 0
      let good := if hBad ∨ wBad then 0 else l.goodRun + 1
      let now := decide (bh ≥ 16 ∨ bw ≥ 16) || (l.eyeLow && decide (good < 16))
      let d := onLane d lane (fun l => { l with
        height := height % 1024, width := width % 1024, badHeight := min 16 bh, badWidth := min 16 bw, goodRun := min 16 good, eyeLow := now })
      if now ∧ ¬ l.eyeLow then laneFailed (raiseLeaf d 9 lane) lane else d) s.start).memOut = [] := (t_eyeScan s.start lane height width).same .memOut rfl
  simp only [exec, execEyeScan]
  exact nextDev_become s (fun (d : Dev) =>
    if lane > 31 ∨ ¬ laneOn d lane then d
    else
      let th := (eyeThOf d lane).toNat
      let hBad := decide (height % 1024 < getField th 0 10)
      let wBad := decide (width % 1024 < getField th 16 10)
      let l := laneOf d lane
      let bh := if hBad then l.badHeight + 1 else 0
      let bw := if wBad then l.badWidth + 1 else 0
      let good := if hBad ∨ wBad then 0 else l.goodRun + 1
      let now := decide (bh ≥ 16 ∨ bw ≥ 16) || (l.eyeLow && decide (good < 16))
      let d := onLane d lane (fun l => { l with
        height := height % 1024, width := width % 1024, badHeight := min 16 bh, badWidth := min 16 bw, goodRun := min 16 good, eyeLow := now })
      if now ∧ ¬ l.eyeLow then laneFailed (raiseLeaf d 9 lane) lane else d) hm_

theorem f_eyeScan : ∀ (s : State) (lane height width : Nat), Ends (exec (.eyeScan lane height width) s) (Keeps [.out, .sys, .cli, .casc, .lane] s) := by
  intro s lane height width
  simp only [exec, execEyeScan]
  exact keeps_nextDev (f := (fun (d : Dev) =>
    if lane > 31 ∨ ¬ laneOn d lane then d
    else
      let th := (eyeThOf d lane).toNat
      let hBad := decide (height % 1024 < getField th 0 10)
      let wBad := decide (width % 1024 < getField th 16 10)
      let l := laneOf d lane
      let bh := if hBad then l.badHeight + 1 else 0
      let bw := if wBad then l.badWidth + 1 else 0
      let good := if hBad ∨ wBad then 0 else l.goodRun + 1
      let now := decide (bh ≥ 16 ∨ bw ≥ 16) || (l.eyeLow && decide (good < 16))
      let d := onLane d lane (fun l => { l with
        height := height % 1024, width := width % 1024, badHeight := min 16 bh, badWidth := min 16 bw, goodRun := min 16 good, eyeLow := now })
      if now ∧ ¬ l.eyeLow then laneFailed (raiseLeaf d 9 lane) lane else d)) (t_eyeScan s.start lane height width) rfl

theorem t_laneRecalPeriodic (d : Dev)  : Touches [.lane] d ((fun (d : Dev) => (List.range 32).foldl (fun d n => if laneOn d n then recalLane d n else d) d) d) := by
  beta_reduce
  repeat' first
    | with_reducible assumption
    | with_reducible exact Touches.refl
    | ((try lift_lets -underBinder); intro d_; refine (have hd_ : Touches [.lane] d d_ := ?_; ?_); (on_goal 1 => try dsimp only [d_]); (on_goal 2 => clear_value d_))
    | ((try lift_lets -underBinder); intro d_; try clear_value d_)
    | with_reducible apply Touches.foldl
    | (intro _ _ _)
    | exact Eq.refl true
    | with_reducible refine Touches.andThen ?_ (by with_reducible exact recalLane_touch ..) ?_
    | split
    | dsimp -zeta only
    | (split at ‹ite _ _ _ = (_, _)›)
    | (cases ‹(_, _) = (_, _)›)

theorem b_laneRecalPeriodic (s : State)  : exec .laneRecalPeriodic s = s.become ((fun (d : Dev) => (List.range 32).foldl (fun d n => if laneOn d n then recalLane d n else d) d) s.start) := by
  have hm_ : ((fun (d : Dev) => (List.range 32).foldl (fun d n => if laneOn d n then recalLane d n else d) d) s.start).memOut = [] := (t_laneRecalPeriodic s.start ).same .memOut rfl
  simp only [exec, execLaneRecalPeriodic]
  exact nextDev_become s (fun (d : Dev) => (List.range 32).foldl (fun d n => if laneOn d n then recalLane d n else d) d) hm_

theorem f_laneRecalPeriodic : ∀ (s : State), Ends (exec .laneRecalPeriodic s) (Keeps [.lane] s) := by
  intro s 
  simp only [exec, execLaneRecalPeriodic]
  exact keeps_nextDev (f := (fun (d : Dev) => (List.range 32).foldl (fun d n => if laneOn d n then recalLane d n else d) d)) (t_laneRecalPeriodic s.start ) rfl

theorem t_laneMarkerRx (d : Dev) (lane : Nat) (marker : List Byte) (skew : Nat) (compareOk : Bool) : Touches [.out, .sys, .cli, .casc, .lane] d ((fun (d : Dev) =>
    let g := groupOfLane lane
    if lane > 31 ∨ (g ≠ 2 ∧ g ≠ 3) ∨ ¬ laneOn d lane ∨ (laneGroup d g).mode ≠ 2 then d
    else
      let was := (laneOf d lane).markLock
      let d := onLane d lane (fun l => markStep l (markerOk marker) (markerCount marker))
      let d := if markerOk marker then sparingStep d g lane (markerLane marker) (markerCopy marker) compareOk else d
      let d := alignStep d g skew
      if was ∧ ¬ (laneOf d lane).markLock ∧ laneBad d lane then laneFailed d lane else d) d) := by
  beta_reduce
  repeat' first
    | with_reducible assumption
    | with_reducible exact Touches.refl
    | ((try lift_lets -underBinder); intro d_; refine (have hd_ : Touches [.out, .sys, .cli, .casc, .lane] d d_ := ?_; ?_); (on_goal 1 => try dsimp only [d_]); (on_goal 2 => clear_value d_))
    | ((try lift_lets -underBinder); intro d_; try clear_value d_)
    | exact Eq.refl true
    | with_reducible refine Touches.andThen ?_ (by with_reducible exact onLane_touch ..) ?_
    | with_reducible refine Touches.andThen ?_ (by with_reducible exact sparingStep_touch ..) ?_
    | with_reducible refine Touches.andThen ?_ (by with_reducible exact alignStep_touch ..) ?_
    | with_reducible refine Touches.andThen ?_ (by with_reducible exact laneFailed_touch ..) ?_
    | split
    | dsimp -zeta only
    | (split at ‹ite _ _ _ = (_, _)›)
    | (cases ‹(_, _) = (_, _)›)

theorem b_laneMarkerRx (s : State) (lane : Nat) (marker : List Byte) (skew : Nat) (compareOk : Bool) : exec (.laneMarkerRx lane marker skew compareOk) s = s.become ((fun (d : Dev) =>
    let g := groupOfLane lane
    if lane > 31 ∨ (g ≠ 2 ∧ g ≠ 3) ∨ ¬ laneOn d lane ∨ (laneGroup d g).mode ≠ 2 then d
    else
      let was := (laneOf d lane).markLock
      let d := onLane d lane (fun l => markStep l (markerOk marker) (markerCount marker))
      let d := if markerOk marker then sparingStep d g lane (markerLane marker) (markerCopy marker) compareOk else d
      let d := alignStep d g skew
      if was ∧ ¬ (laneOf d lane).markLock ∧ laneBad d lane then laneFailed d lane else d) s.start) := by
  have hm_ : ((fun (d : Dev) =>
    let g := groupOfLane lane
    if lane > 31 ∨ (g ≠ 2 ∧ g ≠ 3) ∨ ¬ laneOn d lane ∨ (laneGroup d g).mode ≠ 2 then d
    else
      let was := (laneOf d lane).markLock
      let d := onLane d lane (fun l => markStep l (markerOk marker) (markerCount marker))
      let d := if markerOk marker then sparingStep d g lane (markerLane marker) (markerCopy marker) compareOk else d
      let d := alignStep d g skew
      if was ∧ ¬ (laneOf d lane).markLock ∧ laneBad d lane then laneFailed d lane else d) s.start).memOut = [] := (t_laneMarkerRx s.start lane marker skew compareOk).same .memOut rfl
  simp only [exec, execLaneMarkerRx]
  exact nextDev_become s (fun (d : Dev) =>
    let g := groupOfLane lane
    if lane > 31 ∨ (g ≠ 2 ∧ g ≠ 3) ∨ ¬ laneOn d lane ∨ (laneGroup d g).mode ≠ 2 then d
    else
      let was := (laneOf d lane).markLock
      let d := onLane d lane (fun l => markStep l (markerOk marker) (markerCount marker))
      let d := if markerOk marker then sparingStep d g lane (markerLane marker) (markerCopy marker) compareOk else d
      let d := alignStep d g skew
      if was ∧ ¬ (laneOf d lane).markLock ∧ laneBad d lane then laneFailed d lane else d) hm_

theorem f_laneMarkerRx : ∀ (s : State) (lane : Nat) (marker : List Byte) (skew : Nat) (compareOk : Bool), Ends (exec (.laneMarkerRx lane marker skew compareOk) s) (Keeps [.out, .sys, .cli, .casc, .lane] s) := by
  intro s lane marker skew compareOk
  simp only [exec, execLaneMarkerRx]
  exact keeps_nextDev (f := (fun (d : Dev) =>
    let g := groupOfLane lane
    if lane > 31 ∨ (g ≠ 2 ∧ g ≠ 3) ∨ ¬ laneOn d lane ∨ (laneGroup d g).mode ≠ 2 then d
    else
      let was := (laneOf d lane).markLock
      let d := onLane d lane (fun l => markStep l (markerOk marker) (markerCount marker))
      let d := if markerOk marker then sparingStep d g lane (markerLane marker) (markerCopy marker) compareOk else d
      let d := alignStep d g skew
      if was ∧ ¬ (laneOf d lane).markLock ∧ laneBad d lane then laneFailed d lane else d)) (t_laneMarkerRx s.start lane marker skew compareOk) rfl

theorem t_laneSlip (d : Dev) (lane : Nat) : Touches [.out, .sys, .lane] d ((fun (d : Dev) => if lane < 32 then hostWrites (laneDomain (groupOfLane lane)) (0x400014 + 0x1000 * lane) (laneSlip lane) d else d) d) := by
  beta_reduce
  repeat' first
    | with_reducible assumption
    | with_reducible exact Touches.refl
    | ((try lift_lets -underBinder); intro d_; refine (have hd_ : Touches [.out, .sys, .lane] d d_ := ?_; ?_); (on_goal 1 => try dsimp only [d_]); (on_goal 2 => clear_value d_))
    | ((try lift_lets -underBinder); intro d_; try clear_value d_)
    | exact Eq.refl true
    | with_reducible refine Touches.andThen ?_ (hostWrites_touch (ps := [.out, .sys, .lane]) ?_ ?_ ..) ?_
    | (intro _)
    | with_reducible refine Touches.andThen ?_ (by with_reducible exact laneSlip_touch ..) ?_
    | split
    | dsimp -zeta only
    | (split at ‹ite _ _ _ = (_, _)›)
    | (cases ‹(_, _) = (_, _)›)

theorem b_laneSlip (s : State) (lane : Nat) : exec (.laneSlip lane) s = s.become ((fun (d : Dev) => if lane < 32 then hostWrites (laneDomain (groupOfLane lane)) (0x400014 + 0x1000 * lane) (laneSlip lane) d else d) s.start) := by
  have hm_ : ((fun (d : Dev) => if lane < 32 then hostWrites (laneDomain (groupOfLane lane)) (0x400014 + 0x1000 * lane) (laneSlip lane) d else d) s.start).memOut = [] := (t_laneSlip s.start lane).same .memOut rfl
  simp only [exec, execLaneSlip]
  exact nextDev_become s (fun (d : Dev) => if lane < 32 then hostWrites (laneDomain (groupOfLane lane)) (0x400014 + 0x1000 * lane) (laneSlip lane) d else d) hm_

theorem f_laneSlip : ∀ (s : State) (lane : Nat), Ends (exec (.laneSlip lane) s) (Keeps [.out, .sys, .lane] s) := by
  intro s lane
  simp only [exec, execLaneSlip]
  exact keeps_nextDev (f := (fun (d : Dev) => if lane < 32 then hostWrites (laneDomain (groupOfLane lane)) (0x400014 + 0x1000 * lane) (laneSlip lane) d else d)) (t_laneSlip s.start lane) rfl

theorem t_downstreamFrame (d : Dev) (slice : Nat) (f : DsFrame) : Touches [.out, .sys, .bell, .tm, .acc] d ((fun (d : Dev) => if slice < 4 then downstreamFrame d slice f else d) d) := by
  beta_reduce
  repeat' first
    | with_reducible assumption
    | with_reducible exact Touches.refl
    | ((try lift_lets -underBinder); intro d_; refine (have hd_ : Touches [.out, .sys, .bell, .tm, .acc] d d_ := ?_; ?_); (on_goal 1 => try dsimp only [d_]); (on_goal 2 => clear_value d_))
    | ((try lift_lets -underBinder); intro d_; try clear_value d_)
    | exact Eq.refl true
    | with_reducible refine Touches.andThen ?_ (by with_reducible exact downstreamFrame_touch ..) ?_
    | split
    | dsimp -zeta only
    | (split at ‹ite _ _ _ = (_, _)›)
    | (cases ‹(_, _) = (_, _)›)

theorem b_downstreamFrame (s : State) (slice : Nat) (f : DsFrame) : exec (.downstreamFrame slice f) s = s.become ((fun (d : Dev) => if slice < 4 then downstreamFrame d slice f else d) s.start) := by
  have hm_ : ((fun (d : Dev) => if slice < 4 then downstreamFrame d slice f else d) s.start).memOut = [] := (t_downstreamFrame s.start slice f).same .memOut rfl
  simp only [exec, execDownstreamFrame]
  exact nextDev_become s (fun (d : Dev) => if slice < 4 then downstreamFrame d slice f else d) hm_

theorem f_downstreamFrame : ∀ (s : State) (slice : Nat) (f : DsFrame), Ends (exec (.downstreamFrame slice f) s) (Keeps [.out, .sys, .bell, .tm, .acc] s) := by
  intro s slice f
  simp only [exec, execDownstreamFrame]
  exact keeps_nextDev (f := (fun (d : Dev) => if slice < 4 then downstreamFrame d slice f else d)) (t_downstreamFrame s.start slice f) rfl

theorem t_opticsSdLoss (d : Dev) (slice : Nat) (lost : Bool) (now : Nat) : Touches [.out, .sys, .bell, .tm, .acc] d ((fun (d : Dev) =>
    if slice ≥ 4 ∨ (sliceOf d slice).st = .disabled ∨ ¬ domOn d (4 + slice) then d
    else
      let d := onSlice d slice (fun x => { x with los := lost })
      if ¬ lost then d
      else
        let d := departure d slice 1 now
        if (sliceOf d slice).sync then lods d slice now else d) d) := by
  beta_reduce
  repeat' first
    | with_reducible assumption
    | with_reducible exact Touches.refl
    | ((try lift_lets -underBinder); intro d_; refine (have hd_ : Touches [.out, .sys, .bell, .tm, .acc] d d_ := ?_; ?_); (on_goal 1 => try dsimp only [d_]); (on_goal 2 => clear_value d_))
    | ((try lift_lets -underBinder); intro d_; try clear_value d_)
    | exact Eq.refl true
    | with_reducible refine Touches.andThen ?_ (by with_reducible exact onSlice_touch ..) ?_
    | with_reducible refine Touches.andThen ?_ (by with_reducible exact departure_touch ..) ?_
    | with_reducible refine Touches.andThen ?_ (by with_reducible exact lods_touch ..) ?_
    | split
    | dsimp -zeta only
    | (split at ‹ite _ _ _ = (_, _)›)
    | (cases ‹(_, _) = (_, _)›)

theorem b_opticsSdLoss (s : State) (slice : Nat) (lost : Bool) (now : Nat) : exec (.opticsSdLoss slice lost now) s = s.become ((fun (d : Dev) =>
    if slice ≥ 4 ∨ (sliceOf d slice).st = .disabled ∨ ¬ domOn d (4 + slice) then d
    else
      let d := onSlice d slice (fun x => { x with los := lost })
      if ¬ lost then d
      else
        let d := departure d slice 1 now
        if (sliceOf d slice).sync then lods d slice now else d) s.start) := by
  have hm_ : ((fun (d : Dev) =>
    if slice ≥ 4 ∨ (sliceOf d slice).st = .disabled ∨ ¬ domOn d (4 + slice) then d
    else
      let d := onSlice d slice (fun x => { x with los := lost })
      if ¬ lost then d
      else
        let d := departure d slice 1 now
        if (sliceOf d slice).sync then lods d slice now else d) s.start).memOut = [] := (t_opticsSdLoss s.start slice lost now).same .memOut rfl
  simp only [exec, execOpticsSdLoss]
  exact nextDev_become s (fun (d : Dev) =>
    if slice ≥ 4 ∨ (sliceOf d slice).st = .disabled ∨ ¬ domOn d (4 + slice) then d
    else
      let d := onSlice d slice (fun x => { x with los := lost })
      if ¬ lost then d
      else
        let d := departure d slice 1 now
        if (sliceOf d slice).sync then lods d slice now else d) hm_

theorem f_opticsSdLoss : ∀ (s : State) (slice : Nat) (lost : Bool) (now : Nat), Ends (exec (.opticsSdLoss slice lost now) s) (Keeps [.out, .sys, .bell, .tm, .acc] s) := by
  intro s slice lost now
  simp only [exec, execOpticsSdLoss]
  exact keeps_nextDev (f := (fun (d : Dev) =>
    if slice ≥ 4 ∨ (sliceOf d slice).st = .disabled ∨ ¬ domOn d (4 + slice) then d
    else
      let d := onSlice d slice (fun x => { x with los := lost })
      if ¬ lost then d
      else
        let d := departure d slice 1 now
        if (sliceOf d slice).sync then lods d slice now else d)) (t_opticsSdLoss s.start slice lost now) rfl

theorem t_ploamBurstProfile (d : Dev) (slice : Nat) (h : PloamHdr) (index guard : Nat) (fieldsOk rateOk : Bool) : Touches [.out, .sys, .bell, .tm, .acc] d ((ploamRx slice h (.burstProfile index guard fieldsOk rateOk) (ploamBurstProfile slice h index guard fieldsOk rateOk)) d) := by
  beta_reduce
  repeat' first
    | with_reducible assumption
    | with_reducible exact Touches.refl
    | ((try lift_lets -underBinder); intro d_; refine (have hd_ : Touches [.out, .sys, .bell, .tm, .acc] d d_ := ?_; ?_); (on_goal 1 => try dsimp only [d_]); (on_goal 2 => clear_value d_))
    | ((try lift_lets -underBinder); intro d_; try clear_value d_)
    | exact Eq.refl true
    | with_reducible refine Touches.andThen ?_ (ploamRx_touch (ps := [.out, .sys, .bell, .tm, .acc]) ?_ ?_ ..) ?_
    | (intro _)
    | with_reducible refine Touches.andThen ?_ (by with_reducible exact ploamBurstProfile_touch ..) ?_
    | split
    | dsimp -zeta only
    | (split at ‹ite _ _ _ = (_, _)›)
    | (cases ‹(_, _) = (_, _)›)

theorem b_ploamBurstProfile (s : State) (slice : Nat) (h : PloamHdr) (index guard : Nat) (fieldsOk rateOk : Bool) : exec (.ploamBurstProfile slice h index guard fieldsOk rateOk) s = s.become ((ploamRx slice h (.burstProfile index guard fieldsOk rateOk) (ploamBurstProfile slice h index guard fieldsOk rateOk)) s.start) := by
  have hm_ : ((ploamRx slice h (.burstProfile index guard fieldsOk rateOk) (ploamBurstProfile slice h index guard fieldsOk rateOk)) s.start).memOut = [] := (t_ploamBurstProfile s.start slice h index guard fieldsOk rateOk).same .memOut rfl
  simp only [exec, execPloamBurstProfile]
  exact nextDev_become s (ploamRx slice h (.burstProfile index guard fieldsOk rateOk) (ploamBurstProfile slice h index guard fieldsOk rateOk)) hm_

theorem f_ploamBurstProfile : ∀ (s : State) (slice : Nat) (h : PloamHdr) (index guard : Nat) (fieldsOk rateOk : Bool), Ends (exec (.ploamBurstProfile slice h index guard fieldsOk rateOk) s) (Keeps [.out, .sys, .bell, .tm, .acc] s) := by
  intro s slice h index guard fieldsOk rateOk
  simp only [exec, execPloamBurstProfile]
  exact keeps_nextDev (f := (ploamRx slice h (.burstProfile index guard fieldsOk rateOk) (ploamBurstProfile slice h index guard fieldsOk rateOk))) (t_ploamBurstProfile s.start slice h index guard fieldsOk rateOk) rfl

theorem t_ploamAssignOnuId (d : Dev) (slice : Nat) (h : PloamHdr) (mine : Bool) (onu : Nat) : Touches [.out, .sys, .bell, .tm, .acc] d ((ploamRx slice h (.assignOnuId mine onu) (ploamAssignOnuId slice h mine onu)) d) := by
  beta_reduce
  repeat' first
    | with_reducible assumption
    | with_reducible exact Touches.refl
    | ((try lift_lets -underBinder); intro d_; refine (have hd_ : Touches [.out, .sys, .bell, .tm, .acc] d d_ := ?_; ?_); (on_goal 1 => try dsimp only [d_]); (on_goal 2 => clear_value d_))
    | ((try lift_lets -underBinder); intro d_; try clear_value d_)
    | exact Eq.refl true
    | with_reducible refine Touches.andThen ?_ (ploamRx_touch (ps := [.out, .sys, .bell, .tm, .acc]) ?_ ?_ ..) ?_
    | (intro _)
    | with_reducible refine Touches.andThen ?_ (by with_reducible exact ploamAssignOnuId_touch ..) ?_
    | split
    | dsimp -zeta only
    | (split at ‹ite _ _ _ = (_, _)›)
    | (cases ‹(_, _) = (_, _)›)

theorem b_ploamAssignOnuId (s : State) (slice : Nat) (h : PloamHdr) (mine : Bool) (onu : Nat) : exec (.ploamAssignOnuId slice h mine onu) s = s.become ((ploamRx slice h (.assignOnuId mine onu) (ploamAssignOnuId slice h mine onu)) s.start) := by
  have hm_ : ((ploamRx slice h (.assignOnuId mine onu) (ploamAssignOnuId slice h mine onu)) s.start).memOut = [] := (t_ploamAssignOnuId s.start slice h mine onu).same .memOut rfl
  simp only [exec, execPloamAssignOnuId]
  exact nextDev_become s (ploamRx slice h (.assignOnuId mine onu) (ploamAssignOnuId slice h mine onu)) hm_

theorem f_ploamAssignOnuId : ∀ (s : State) (slice : Nat) (h : PloamHdr) (mine : Bool) (onu : Nat), Ends (exec (.ploamAssignOnuId slice h mine onu) s) (Keeps [.out, .sys, .bell, .tm, .acc] s) := by
  intro s slice h mine onu
  simp only [exec, execPloamAssignOnuId]
  exact keeps_nextDev (f := (ploamRx slice h (.assignOnuId mine onu) (ploamAssignOnuId slice h mine onu))) (t_ploamAssignOnuId s.start slice h mine onu) rfl

theorem t_ploamRangingTime (d : Dev) (slice : Nat) (h : PloamHdr) (relative : Bool) (value : Int) : Touches [.out, .sys, .staged, .bell, .tm, .acc] d ((ploamRx slice h (.rangingTime relative value) (ploamRangingTime slice h relative value)) d) := by
  beta_reduce
  repeat' first
    | with_reducible assumption
    | with_reducible exact Touches.refl
    | ((try lift_lets -underBinder); intro d_; refine (have hd_ : Touches [.out, .sys, .staged, .bell, .tm, .acc] d d_ := ?_; ?_); (on_goal 1 => try dsimp only [d_]); (on_goal 2 => clear_value d_))
    | ((try lift_lets -underBinder); intro d_; try clear_value d_)
    | exact Eq.refl true
    | with_reducible refine Touches.andThen ?_ (ploamRx_touch (ps := [.out, .sys, .staged, .bell, .tm, .acc]) ?_ ?_ ..) ?_
    | (intro _)
    | with_reducible refine Touches.andThen ?_ (by with_reducible exact ploamRangingTime_touch ..) ?_
    | split
    | dsimp -zeta only
    | (split at ‹ite _ _ _ = (_, _)›)
    | (cases ‹(_, _) = (_, _)›)

theorem b_ploamRangingTime (s : State) (slice : Nat) (h : PloamHdr) (relative : Bool) (value : Int) : exec (.ploamRangingTime slice h relative value) s = s.become ((ploamRx slice h (.rangingTime relative value) (ploamRangingTime slice h relative value)) s.start) := by
  have hm_ : ((ploamRx slice h (.rangingTime relative value) (ploamRangingTime slice h relative value)) s.start).memOut = [] := (t_ploamRangingTime s.start slice h relative value).same .memOut rfl
  simp only [exec, execPloamRangingTime]
  exact nextDev_become s (ploamRx slice h (.rangingTime relative value) (ploamRangingTime slice h relative value)) hm_

theorem f_ploamRangingTime : ∀ (s : State) (slice : Nat) (h : PloamHdr) (relative : Bool) (value : Int), Ends (exec (.ploamRangingTime slice h relative value) s) (Keeps [.out, .sys, .staged, .bell, .tm, .acc] s) := by
  intro s slice h relative value
  simp only [exec, execPloamRangingTime]
  exact keeps_nextDev (f := (ploamRx slice h (.rangingTime relative value) (ploamRangingTime slice h relative value))) (t_ploamRangingTime s.start slice h relative value) rfl

theorem t_ploamDeactivateOnuId (d : Dev) (slice : Nat) (h : PloamHdr) : Touches [.out, .sys, .bell, .tm, .acc] d ((ploamRx slice h .deactivate (ploamDeactivateOnuId slice h)) d) := by
  beta_reduce
  repeat' first
    | with_reducible assumption
    | with_reducible exact Touches.refl
    | ((try lift_lets -underBinder); intro d_; refine (have hd_ : Touches [.out, .sys, .bell, .tm, .acc] d d_ := ?_; ?_); (on_goal 1 => try dsimp only [d_]); (on_goal 2 => clear_value d_))
    | ((try lift_lets -underBinder); intro d_; try clear_value d_)
    | exact Eq.refl true
    | with_reducible refine Touches.andThen ?_ (ploamRx_touch (ps := [.out, .sys, .bell, .tm, .acc]) ?_ ?_ ..) ?_
    | (intro _)
    | with_reducible refine Touches.andThen ?_ (by with_reducible exact ploamDeactivateOnuId_touch ..) ?_
    | split
    | dsimp -zeta only
    | (split at ‹ite _ _ _ = (_, _)›)
    | (cases ‹(_, _) = (_, _)›)

theorem b_ploamDeactivateOnuId (s : State) (slice : Nat) (h : PloamHdr) : exec (.ploamDeactivateOnuId slice h) s = s.become ((ploamRx slice h .deactivate (ploamDeactivateOnuId slice h)) s.start) := by
  have hm_ : ((ploamRx slice h .deactivate (ploamDeactivateOnuId slice h)) s.start).memOut = [] := (t_ploamDeactivateOnuId s.start slice h).same .memOut rfl
  simp only [exec, execPloamDeactivateOnuId]
  exact nextDev_become s (ploamRx slice h .deactivate (ploamDeactivateOnuId slice h)) hm_

theorem f_ploamDeactivateOnuId : ∀ (s : State) (slice : Nat) (h : PloamHdr), Ends (exec (.ploamDeactivateOnuId slice h) s) (Keeps [.out, .sys, .bell, .tm, .acc] s) := by
  intro s slice h
  simp only [exec, execPloamDeactivateOnuId]
  exact keeps_nextDev (f := (ploamRx slice h .deactivate (ploamDeactivateOnuId slice h))) (t_ploamDeactivateOnuId s.start slice h) rfl

theorem t_ploamDisableSerialNumber (d : Dev) (slice : Nat) (h : PloamHdr) (named enable : Bool) : Touches [.out, .sys, .bell, .tm, .acc] d ((ploamRx slice h (.disableSerial named enable) (ploamDisableSerialNumber slice h named enable)) d) := by
  beta_reduce
  repeat' first
    | with_reducible assumption
    | with_reducible exact Touches.refl
    | ((try lift_lets -underBinder); intro d_; refine (have hd_ : Touches [.out, .sys, .bell, .tm, .acc] d d_ := ?_; ?_); (on_goal 1 => try dsimp only [d_]); (on_goal 2 => clear_value d_))
    | ((try lift_lets -underBinder); intro d_; try clear_value d_)
    | exact Eq.refl true
    | with_reducible refine Touches.andThen ?_ (ploamRx_touch (ps := [.out, .sys, .bell, .tm, .acc]) ?_ ?_ ..) ?_
    | (intro _)
    | with_reducible refine Touches.andThen ?_ (by with_reducible exact ploamDisableSerialNumber_touch ..) ?_
    | split
    | dsimp -zeta only
    | (split at ‹ite _ _ _ = (_, _)›)
    | (cases ‹(_, _) = (_, _)›)

theorem b_ploamDisableSerialNumber (s : State) (slice : Nat) (h : PloamHdr) (named enable : Bool) : exec (.ploamDisableSerialNumber slice h named enable) s = s.become ((ploamRx slice h (.disableSerial named enable) (ploamDisableSerialNumber slice h named enable)) s.start) := by
  have hm_ : ((ploamRx slice h (.disableSerial named enable) (ploamDisableSerialNumber slice h named enable)) s.start).memOut = [] := (t_ploamDisableSerialNumber s.start slice h named enable).same .memOut rfl
  simp only [exec, execPloamDisableSerialNumber]
  exact nextDev_become s (ploamRx slice h (.disableSerial named enable) (ploamDisableSerialNumber slice h named enable)) hm_

theorem f_ploamDisableSerialNumber : ∀ (s : State) (slice : Nat) (h : PloamHdr) (named enable : Bool), Ends (exec (.ploamDisableSerialNumber slice h named enable) s) (Keeps [.out, .sys, .bell, .tm, .acc] s) := by
  intro s slice h named enable
  simp only [exec, execPloamDisableSerialNumber]
  exact keeps_nextDev (f := (ploamRx slice h (.disableSerial named enable) (ploamDisableSerialNumber slice h named enable))) (t_ploamDisableSerialNumber s.start slice h named enable) rfl

theorem t_ploamRequestRegistration (d : Dev) (slice : Nat) (h : PloamHdr) : Touches [.out, .sys, .acc] d ((ploamRx slice h .requestRegistration (ploamRequestRegistration slice h)) d) := by
  beta_reduce
  repeat' first
    | with_reducible assumption
    | with_reducible exact Touches.refl
    | ((try lift_lets -underBinder); intro d_; refine (have hd_ : Touches [.out, .sys, .acc] d d_ := ?_; ?_); (on_goal 1 => try dsimp only [d_]); (on_goal 2 => clear_value d_))
    | ((try lift_lets -underBinder); intro d_; try clear_value d_)
    | exact Eq.refl true
    | with_reducible refine Touches.andThen ?_ (ploamRx_touch (ps := [.out, .sys, .acc]) ?_ ?_ ..) ?_
    | (intro _)
    | with_reducible refine Touches.andThen ?_ (by with_reducible exact ploamRequestRegistration_touch ..) ?_
    | split
    | dsimp -zeta only
    | (split at ‹ite _ _ _ = (_, _)›)
    | (cases ‹(_, _) = (_, _)›)

theorem b_ploamRequestRegistration (s : State) (slice : Nat) (h : PloamHdr) : exec (.ploamRequestRegistration slice h) s = s.become ((ploamRx slice h .requestRegistration (ploamRequestRegistration slice h)) s.start) := by
  have hm_ : ((ploamRx slice h .requestRegistration (ploamRequestRegistration slice h)) s.start).memOut = [] := (t_ploamRequestRegistration s.start slice h).same .memOut rfl
  simp only [exec, execPloamRequestRegistration]
  exact nextDev_become s (ploamRx slice h .requestRegistration (ploamRequestRegistration slice h)) hm_

theorem f_ploamRequestRegistration : ∀ (s : State) (slice : Nat) (h : PloamHdr), Ends (exec (.ploamRequestRegistration slice h) s) (Keeps [.out, .sys, .acc] s) := by
  intro s slice h
  simp only [exec, execPloamRequestRegistration]
  exact keeps_nextDev (f := (ploamRx slice h .requestRegistration (ploamRequestRegistration slice h))) (t_ploamRequestRegistration s.start slice h) rfl

theorem t_ploamAssignAllocId (d : Dev) (slice : Nat) (h : PloamHdr) (alloc : Nat) (assign : Bool) : Touches [.out, .sys, .tm, .acc] d ((ploamRx slice h (.assignAllocId alloc assign) (ploamAssignAllocId slice h alloc assign)) d) := by
  beta_reduce
  repeat' first
    | with_reducible assumption
    | with_reducible exact Touches.refl
    | ((try lift_lets -underBinder); intro d_; refine (have hd_ : Touches [.out, .sys, .tm, .acc] d d_ := ?_; ?_); (on_goal 1 => try dsimp only [d_]); (on_goal 2 => clear_value d_))
    | ((try lift_lets -underBinder); intro d_; try clear_value d_)
    | exact Eq.refl true
    | with_reducible refine Touches.andThen ?_ (ploamRx_touch (ps := [.out, .sys, .tm, .acc]) ?_ ?_ ..) ?_
    | (intro _)
    | with_reducible refine Touches.andThen ?_ (by with_reducible exact ploamAssignAllocId_touch ..) ?_
    | split
    | dsimp -zeta only
    | (split at ‹ite _ _ _ = (_, _)›)
    | (cases ‹(_, _) = (_, _)›)

theorem b_ploamAssignAllocId (s : State) (slice : Nat) (h : PloamHdr) (alloc : Nat) (assign : Bool) : exec (.ploamAssignAllocId slice h alloc assign) s = s.become ((ploamRx slice h (.assignAllocId alloc assign) (ploamAssignAllocId slice h alloc assign)) s.start) := by
  have hm_ : ((ploamRx slice h (.assignAllocId alloc assign) (ploamAssignAllocId slice h alloc assign)) s.start).memOut = [] := (t_ploamAssignAllocId s.start slice h alloc assign).same .memOut rfl
  simp only [exec, execPloamAssignAllocId]
  exact nextDev_become s (ploamRx slice h (.assignAllocId alloc assign) (ploamAssignAllocId slice h alloc assign)) hm_

theorem f_ploamAssignAllocId : ∀ (s : State) (slice : Nat) (h : PloamHdr) (alloc : Nat) (assign : Bool), Ends (exec (.ploamAssignAllocId slice h alloc assign) s) (Keeps [.out, .sys, .tm, .acc] s) := by
  intro s slice h alloc assign
  simp only [exec, execPloamAssignAllocId]
  exact keeps_nextDev (f := (ploamRx slice h (.assignAllocId alloc assign) (ploamAssignAllocId slice h alloc assign))) (t_ploamAssignAllocId s.start slice h alloc assign) rfl

theorem t_ploamKeyControl (d : Dev) (slice : Nat) (h : PloamHdr) (generate : Bool) (index : Nat) : Touches [.freeCtr, .out, .sys, .acc] d ((ploamRx slice h (.keyControl generate index) (ploamKeyControl slice h generate index)) d) := by
  beta_reduce
  repeat' first
    | with_reducible assumption
    | with_reducible exact Touches.refl
    | ((try lift_lets -underBinder); intro d_; refine (have hd_ : Touches [.freeCtr, .out, .sys, .acc] d d_ := ?_; ?_); (on_goal 1 => try dsimp only [d_]); (on_goal 2 => clear_value d_))
    | ((try lift_lets -underBinder); intro d_; try clear_value d_)
    | exact Eq.refl true
    | with_reducible refine Touches.andThen ?_ (ploamRx_touch (ps := [.freeCtr, .out, .sys, .acc]) ?_ ?_ ..) ?_
    | (intro _)
    | with_reducible refine Touches.andThen ?_ (by with_reducible exact ploamKeyControl_touch ..) ?_
    | split
    | dsimp -zeta only
    | (split at ‹ite _ _ _ = (_, _)›)
    | (cases ‹(_, _) = (_, _)›)

theorem b_ploamKeyControl (s : State) (slice : Nat) (h : PloamHdr) (generate : Bool) (index : Nat) : exec (.ploamKeyControl slice h generate index) s = s.become ((ploamRx slice h (.keyControl generate index) (ploamKeyControl slice h generate index)) s.start) := by
  have hm_ : ((ploamRx slice h (.keyControl generate index) (ploamKeyControl slice h generate index)) s.start).memOut = [] := (t_ploamKeyControl s.start slice h generate index).same .memOut rfl
  simp only [exec, execPloamKeyControl]
  exact nextDev_become s (ploamRx slice h (.keyControl generate index) (ploamKeyControl slice h generate index)) hm_

theorem f_ploamKeyControl : ∀ (s : State) (slice : Nat) (h : PloamHdr) (generate : Bool) (index : Nat), Ends (exec (.ploamKeyControl slice h generate index) s) (Keeps [.freeCtr, .out, .sys, .acc] s) := by
  intro s slice h generate index
  simp only [exec, execPloamKeyControl]
  exact keeps_nextDev (f := (ploamRx slice h (.keyControl generate index) (ploamKeyControl slice h generate index))) (t_ploamKeyControl s.start slice h generate index) rfl

theorem t_tkeyExpiry (d : Dev) (slice : Nat) : Touches [.out, .sys, .acc] d ((fun (d : Dev) => tkeyExpiry d slice) d) := by
  beta_reduce
  repeat' first
    | with_reducible assumption
    | with_reducible exact Touches.refl
    | ((try lift_lets -underBinder); intro d_; refine (have hd_ : Touches [.out, .sys, .acc] d d_ := ?_; ?_); (on_goal 1 => try dsimp only [d_]); (on_goal 2 => clear_value d_))
    | ((try lift_lets -underBinder); intro d_; try clear_value d_)
    | exact Eq.refl true
    | with_reducible refine Touches.andThen ?_ (by with_reducible exact tkeyExpiry_touch ..) ?_
    | split
    | dsimp -zeta only
    | (split at ‹ite _ _ _ = (_, _)›)
    | (cases ‹(_, _) = (_, _)›)

theorem b_tkeyExpiry (s : State) (slice : Nat) : exec (.tkeyExpiry slice) s = s.become ((fun (d : Dev) => tkeyExpiry d slice) s.start) := by
  have hm_ : ((fun (d : Dev) => tkeyExpiry d slice) s.start).memOut = [] := (t_tkeyExpiry s.start slice).same .memOut rfl
  simp only [exec, execTkeyExpiry]
  exact nextDev_become s (fun (d : Dev) => tkeyExpiry d slice) hm_

theorem f_tkeyExpiry : ∀ (s : State) (slice : Nat), Ends (exec (.tkeyExpiry slice) s) (Keeps [.out, .sys, .acc] s) := by
  intro s slice
  simp only [exec, execTkeyExpiry]
  exact keeps_nextDev (f := (fun (d : Dev) => tkeyExpiry d slice)) (t_tkeyExpiry s.start slice) rfl

theorem t_ploamSleepAllow (d : Dev) (slice : Nat) (h : PloamHdr) (allow : Bool) : Touches [.out, .sys, .acc] d ((ploamRx slice h (.sleepAllow allow) (ploamSleepAllow slice h allow)) d) := by
  beta_reduce
  repeat' first
    | with_reducible assumption
    | with_reducible exact Touches.refl
    | ((try lift_lets -underBinder); intro d_; refine (have hd_ : Touches [.out, .sys, .acc] d d_ := ?_; ?_); (on_goal 1 => try dsimp only [d_]); (on_goal 2 => clear_value d_))
    | ((try lift_lets -underBinder); intro d_; try clear_value d_)
    | exact Eq.refl true
    | with_reducible refine Touches.andThen ?_ (ploamRx_touch (ps := [.out, .sys, .acc]) ?_ ?_ ..) ?_
    | (intro _)
    | with_reducible refine Touches.andThen ?_ (by with_reducible exact ploamSleepAllow_touch ..) ?_
    | split
    | dsimp -zeta only
    | (split at ‹ite _ _ _ = (_, _)›)
    | (cases ‹(_, _) = (_, _)›)

theorem b_ploamSleepAllow (s : State) (slice : Nat) (h : PloamHdr) (allow : Bool) : exec (.ploamSleepAllow slice h allow) s = s.become ((ploamRx slice h (.sleepAllow allow) (ploamSleepAllow slice h allow)) s.start) := by
  have hm_ : ((ploamRx slice h (.sleepAllow allow) (ploamSleepAllow slice h allow)) s.start).memOut = [] := (t_ploamSleepAllow s.start slice h allow).same .memOut rfl
  simp only [exec, execPloamSleepAllow]
  exact nextDev_become s (ploamRx slice h (.sleepAllow allow) (ploamSleepAllow slice h allow)) hm_

theorem f_ploamSleepAllow : ∀ (s : State) (slice : Nat) (h : PloamHdr) (allow : Bool), Ends (exec (.ploamSleepAllow slice h allow) s) (Keeps [.out, .sys, .acc] s) := by
  intro s slice h allow
  simp only [exec, execPloamSleepAllow]
  exact keeps_nextDev (f := (ploamRx slice h (.sleepAllow allow) (ploamSleepAllow slice h allow))) (t_ploamSleepAllow s.start slice h allow) rfl

theorem t_ploamUnknownType (d : Dev) (slice : Nat) (h : PloamHdr) : Touches [.out, .sys, .acc] d ((ploamRx slice h .unknownType (ploamUnknownType slice h)) d) := by
  beta_reduce
  repeat' first
    | with_reducible assumption
    | with_reducible exact Touches.refl
    | ((try lift_lets -underBinder); intro d_; refine (have hd_ : Touches [.out, .sys, .acc] d d_ := ?_; ?_); (on_goal 1 => try dsimp only [d_]); (on_goal 2 => clear_value d_))
    | ((try lift_lets -underBinder); intro d_; try clear_value d_)
    | exact Eq.refl true
    | with_reducible refine Touches.andThen ?_ (ploamRx_touch (ps := [.out, .sys, .acc]) ?_ ?_ ..) ?_
    | (intro _)
    | with_reducible refine Touches.andThen ?_ (by with_reducible exact ploamUnknownType_touch ..) ?_
    | split
    | dsimp -zeta only
    | (split at ‹ite _ _ _ = (_, _)›)
    | (cases ‹(_, _) = (_, _)›)

theorem b_ploamUnknownType (s : State) (slice : Nat) (h : PloamHdr) : exec (.ploamUnknownType slice h) s = s.become ((ploamRx slice h .unknownType (ploamUnknownType slice h)) s.start) := by
  have hm_ : ((ploamRx slice h .unknownType (ploamUnknownType slice h)) s.start).memOut = [] := (t_ploamUnknownType s.start slice h).same .memOut rfl
  simp only [exec, execPloamUnknownType]
  exact nextDev_become s (ploamRx slice h .unknownType (ploamUnknownType slice h)) hm_

theorem f_ploamUnknownType : ∀ (s : State) (slice : Nat) (h : PloamHdr), Ends (exec (.ploamUnknownType slice h) s) (Keeps [.out, .sys, .acc] s) := by
  intro s slice h
  simp only [exec, execPloamUnknownType]
  exact keeps_nextDev (f := (ploamRx slice h .unknownType (ploamUnknownType slice h))) (t_ploamUnknownType s.start slice h) rfl

theorem t_sleepAwarePeriod (d : Dev) (slice : Nat) : Touches [.acc] d ((fun (d : Dev) => if (sliceOf d slice).sleepAllowed then d else onSlice d slice (fun x => { x with asleep := false })) d) := by
  beta_reduce
  repeat' first
    | with_reducible assumption
    | with_reducible exact Touches.refl
    | ((try lift_lets -underBinder); intro d_; refine (have hd_ : Touches [.acc] d d_ := ?_; ?_); (on_goal 1 => try dsimp only [d_]); (on_goal 2 => clear_value d_))
    | ((try lift_lets -underBinder); intro d_; try clear_value d_)
    | exact Eq.refl true
    | with_reducible refine Touches.andThen ?_ (by with_reducible exact onSlice_touch ..) ?_
    | split
    | dsimp -zeta only
    | (split at ‹ite _ _ _ = (_, _)›)
    | (cases ‹(_, _) = (_, _)›)

theorem b_sleepAwarePeriod (s : State) (slice : Nat) : exec (.sleepAwarePeriod slice) s = s.become ((fun (d : Dev) => if (sliceOf d slice).sleepAllowed then d else onSlice d slice (fun x => { x with asleep := false })) s.start) := by
  have hm_ : ((fun (d : Dev) => if (sliceOf d slice).sleepAllowed then d else onSlice d slice (fun x => { x with asleep := false })) s.start).memOut = [] := (t_sleepAwarePeriod s.start slice).same .memOut rfl
  simp only [exec, execSleepAwarePeriod]
  exact nextDev_become s (fun (d : Dev) => if (sliceOf d slice).sleepAllowed then d else onSlice d slice (fun x => { x with asleep := false })) hm_

theorem f_sleepAwarePeriod : ∀ (s : State) (slice : Nat), Ends (exec (.sleepAwarePeriod slice) s) (Keeps [.acc] s) := by
  intro s slice
  simp only [exec, execSleepAwarePeriod]
  exact keeps_nextDev (f := (fun (d : Dev) => if (sliceOf d slice).sleepAllowed then d else onSlice d slice (fun x => { x with asleep := false }))) (t_sleepAwarePeriod s.start slice) rfl

theorem t_to1Expiry (d : Dev) (slice : Nat) : Touches [.out, .sys, .bell, .tm, .acc] d ((fun (d : Dev) =>
    if (sliceOf d slice).st = .o4 ∧ msPassed d (sliceOf d slice).to1At d.acc.cfg.to1 then setAccSt d slice .o23 (bellNs d) else d) d) := by
  beta_reduce
  repeat' first
    | with_reducible assumption
    | with_reducible exact Touches.refl
    | ((try lift_lets -underBinder); intro d_; refine (have hd_ : Touches [.out, .sys, .bell, .tm, .acc] d d_ := ?_; ?_); (on_goal 1 => try dsimp only [d_]); (on_goal 2 => clear_value d_))
    | ((try lift_lets -underBinder); intro d_; try clear_value d_)
    | exact Eq.refl true
    | with_reducible refine Touches.andThen ?_ (by with_reducible exact setAccSt_touch ..) ?_
    | split
    | dsimp -zeta only
    | (split at ‹ite _ _ _ = (_, _)›)
    | (cases ‹(_, _) = (_, _)›)

theorem b_to1Expiry (s : State) (slice : Nat) : exec (.to1Expiry slice) s = s.become ((fun (d : Dev) =>
    if (sliceOf d slice).st = .o4 ∧ msPassed d (sliceOf d slice).to1At d.acc.cfg.to1 then setAccSt d slice .o23 (bellNs d) else d) s.start) := by
  have hm_ : ((fun (d : Dev) =>
    if (sliceOf d slice).st = .o4 ∧ msPassed d (sliceOf d slice).to1At d.acc.cfg.to1 then setAccSt d slice .o23 (bellNs d) else d) s.start).memOut = [] := (t_to1Expiry s.start slice).same .memOut rfl
  simp only [exec, execTo1Expiry]
  exact nextDev_become s (fun (d : Dev) =>
    if (sliceOf d slice).st = .o4 ∧ msPassed d (sliceOf d slice).to1At d.acc.cfg.to1 then setAccSt d slice .o23 (bellNs d) else d) hm_

theorem f_to1Expiry : ∀ (s : State) (slice : Nat), Ends (exec (.to1Expiry slice) s) (Keeps [.out, .sys, .bell, .tm, .acc] s) := by
  intro s slice
  simp only [exec, execTo1Expiry]
  exact keeps_nextDev (f := (fun (d : Dev) =>
    if (sliceOf d slice).st = .o4 ∧ msPassed d (sliceOf d slice).to1At d.acc.cfg.to1 then setAccSt d slice .o23 (bellNs d) else d)) (t_to1Expiry s.start slice) rfl

theorem t_to2Expiry (d : Dev) (slice : Nat) : Touches [.out, .sys, .bell, .tm, .acc] d ((fun (d : Dev) =>
    if (sliceOf d slice).st = .o6 ∧ msPassed d (sliceOf d slice).to2At d.acc.cfg.to2 then setAccSt d slice .o11 (bellNs d) else d) d) := by
  beta_reduce
  repeat' first
    | with_reducible assumption
    | with_reducible exact Touches.refl
    | ((try lift_lets -underBinder); intro d_; refine (have hd_ : Touches [.out, .sys, .bell, .tm, .acc] d d_ := ?_; ?_); (on_goal 1 => try dsimp only [d_]); (on_goal 2 => clear_value d_))
    | ((try lift_lets -underBinder); intro d_; try clear_value d_)
    | exact Eq.refl true
    | with_reducible refine Touches.andThen ?_ (by with_reducible exact setAccSt_touch ..) ?_
    | split
    | dsimp -zeta only
    | (split at ‹ite _ _ _ = (_, _)›)
    | (cases ‹(_, _) = (_, _)›)

theorem b_to2Expiry (s : State) (slice : Nat) : exec (.to2Expiry slice) s = s.become ((fun (d : Dev) =>
    if (sliceOf d slice).st = .o6 ∧ msPassed d (sliceOf d slice).to2At d.acc.cfg.to2 then setAccSt d slice .o11 (bellNs d) else d) s.start) := by
  have hm_ : ((fun (d : Dev) =>
    if (sliceOf d slice).st = .o6 ∧ msPassed d (sliceOf d slice).to2At d.acc.cfg.to2 then setAccSt d slice .o11 (bellNs d) else d) s.start).memOut = [] := (t_to2Expiry s.start slice).same .memOut rfl
  simp only [exec, execTo2Expiry]
  exact nextDev_become s (fun (d : Dev) =>
    if (sliceOf d slice).st = .o6 ∧ msPassed d (sliceOf d slice).to2At d.acc.cfg.to2 then setAccSt d slice .o11 (bellNs d) else d) hm_

theorem f_to2Expiry : ∀ (s : State) (slice : Nat), Ends (exec (.to2Expiry slice) s) (Keeps [.out, .sys, .bell, .tm, .acc] s) := by
  intro s slice
  simp only [exec, execTo2Expiry]
  exact keeps_nextDev (f := (fun (d : Dev) =>
    if (sliceOf d slice).st = .o6 ∧ msPassed d (sliceOf d slice).to2At d.acc.cfg.to2 then setAccSt d slice .o11 (bellNs d) else d)) (t_to2Expiry s.start slice) rfl

theorem t_flapWindowExpiry (d : Dev) (slice : Nat) : Touches [.acc] d ((fun (d : Dev) => onSlice d slice (fun x =>
    { x with flaps := x.flaps.filter (fun f => decide (d.bell.tick.toNat - f.toNat < d.acc.cfg.flapWindow * ticksPerS)) })) d) := by
  beta_reduce
  repeat' first
    | with_reducible assumption
    | with_reducible exact Touches.refl
    | ((try lift_lets -underBinder); intro d_; refine (have hd_ : Touches [.acc] d d_ := ?_; ?_); (on_goal 1 => try dsimp only [d_]); (on_goal 2 => clear_value d_))
    | ((try lift_lets -underBinder); intro d_; try clear_value d_)
    | exact Eq.refl true
    | with_reducible refine Touches.andThen ?_ (by with_reducible exact onSlice_touch ..) ?_
    | split
    | dsimp -zeta only
    | (split at ‹ite _ _ _ = (_, _)›)
    | (cases ‹(_, _) = (_, _)›)

theorem b_flapWindowExpiry (s : State) (slice : Nat) : exec (.flapWindowExpiry slice) s = s.become ((fun (d : Dev) => onSlice d slice (fun x =>
    { x with flaps := x.flaps.filter (fun f => decide (d.bell.tick.toNat - f.toNat < d.acc.cfg.flapWindow * ticksPerS)) })) s.start) := by
  have hm_ : ((fun (d : Dev) => onSlice d slice (fun x =>
    { x with flaps := x.flaps.filter (fun f => decide (d.bell.tick.toNat - f.toNat < d.acc.cfg.flapWindow * ticksPerS)) })) s.start).memOut = [] := (t_flapWindowExpiry s.start slice).same .memOut rfl
  simp only [exec, execFlapWindowExpiry]
  exact nextDev_become s (fun (d : Dev) => onSlice d slice (fun x =>
    { x with flaps := x.flaps.filter (fun f => decide (d.bell.tick.toNat - f.toNat < d.acc.cfg.flapWindow * ticksPerS)) })) hm_

theorem f_flapWindowExpiry : ∀ (s : State) (slice : Nat), Ends (exec (.flapWindowExpiry slice) s) (Keeps [.acc] s) := by
  intro s slice
  simp only [exec, execFlapWindowExpiry]
  exact keeps_nextDev (f := (fun (d : Dev) => onSlice d slice (fun x =>
    { x with flaps := x.flaps.filter (fun f => decide (d.bell.tick.toNat - f.toNat < d.acc.cfg.flapWindow * ticksPerS)) }))) (t_flapWindowExpiry s.start slice) rfl

theorem t_quarantineExpiry (d : Dev) (slice : Nat) : Touches [.out, .sys, .bell, .tm, .acc] d ((fun (d : Dev) =>
    let x := sliceOf d slice
    if x.st = .quarantine ∧ msPassed d (x.quars.getLast?.getD 0) (x.quarFor * 1000) then setAccSt d slice .o11 (bellNs d) else d) d) := by
  beta_reduce
  repeat' first
    | with_reducible assumption
    | with_reducible exact Touches.refl
    | ((try lift_lets -underBinder); intro d_; refine (have hd_ : Touches [.out, .sys, .bell, .tm, .acc] d d_ := ?_; ?_); (on_goal 1 => try dsimp only [d_]); (on_goal 2 => clear_value d_))
    | ((try lift_lets -underBinder); intro d_; try clear_value d_)
    | exact Eq.refl true
    | with_reducible refine Touches.andThen ?_ (by with_reducible exact setAccSt_touch ..) ?_
    | split
    | dsimp -zeta only
    | (split at ‹ite _ _ _ = (_, _)›)
    | (cases ‹(_, _) = (_, _)›)

theorem b_quarantineExpiry (s : State) (slice : Nat) : exec (.quarantineExpiry slice) s = s.become ((fun (d : Dev) =>
    let x := sliceOf d slice
    if x.st = .quarantine ∧ msPassed d (x.quars.getLast?.getD 0) (x.quarFor * 1000) then setAccSt d slice .o11 (bellNs d) else d) s.start) := by
  have hm_ : ((fun (d : Dev) =>
    let x := sliceOf d slice
    if x.st = .quarantine ∧ msPassed d (x.quars.getLast?.getD 0) (x.quarFor * 1000) then setAccSt d slice .o11 (bellNs d) else d) s.start).memOut = [] := (t_quarantineExpiry s.start slice).same .memOut rfl
  simp only [exec, execQuarantineExpiry]
  exact nextDev_become s (fun (d : Dev) =>
    let x := sliceOf d slice
    if x.st = .quarantine ∧ msPassed d (x.quars.getLast?.getD 0) (x.quarFor * 1000) then setAccSt d slice .o11 (bellNs d) else d) hm_

theorem f_quarantineExpiry : ∀ (s : State) (slice : Nat), Ends (exec (.quarantineExpiry slice) s) (Keeps [.out, .sys, .bell, .tm, .acc] s) := by
  intro s slice
  simp only [exec, execQuarantineExpiry]
  exact keeps_nextDev (f := (fun (d : Dev) =>
    let x := sliceOf d slice
    if x.st = .quarantine ∧ msPassed d (x.quars.getLast?.getD 0) (x.quarFor * 1000) then setAccSt d slice .o11 (bellNs d) else d)) (t_quarantineExpiry s.start slice) rfl

theorem t_watchdogTrip (d : Dev) (slice cause now : Nat) : Touches [.out, .sys, .bell, .tm, .acc] d ((fun (d : Dev) => if slice < 4 then watchdogTrip d slice cause now else d) d) := by
  beta_reduce
  repeat' first
    | with_reducible assumption
    | with_reducible exact Touches.refl
    | ((try lift_lets -underBinder); intro d_; refine (have hd_ : Touches [.out, .sys, .bell, .tm, .acc] d d_ := ?_; ?_); (on_goal 1 => try dsimp only [d_]); (on_goal 2 => clear_value d_))
    | ((try lift_lets -underBinder); intro d_; try clear_value d_)
    | exact Eq.refl true
    | with_reducible refine Touches.andThen ?_ (by with_reducible exact watchdogTrip_touch ..) ?_
    | split
    | dsimp -zeta only
    | (split at ‹ite _ _ _ = (_, _)›)
    | (cases ‹(_, _) = (_, _)›)

theorem b_watchdogTrip (s : State) (slice cause now : Nat) : exec (.watchdogTrip slice cause now) s = s.become ((fun (d : Dev) => if slice < 4 then watchdogTrip d slice cause now else d) s.start) := by
  have hm_ : ((fun (d : Dev) => if slice < 4 then watchdogTrip d slice cause now else d) s.start).memOut = [] := (t_watchdogTrip s.start slice cause now).same .memOut rfl
  simp only [exec, execWatchdogTrip]
  exact nextDev_become s (fun (d : Dev) => if slice < 4 then watchdogTrip d slice cause now else d) hm_

theorem f_watchdogTrip : ∀ (s : State) (slice cause now : Nat), Ends (exec (.watchdogTrip slice cause now) s) (Keeps [.out, .sys, .bell, .tm, .acc] s) := by
  intro s slice cause now
  simp only [exec, execWatchdogTrip]
  exact keeps_nextDev (f := (fun (d : Dev) => if slice < 4 then watchdogTrip d slice cause now else d)) (t_watchdogTrip s.start slice cause now) rfl

theorem t_bwmapRx (d : Dev) (slice : Nat) (lost : Bool) (grants : List Grant) : Touches [.out, .sys, .acc] d ((fun (d : Dev) => if slice < 4 then bwmapRx d slice lost grants else d) d) := by
  beta_reduce
  repeat' first
    | with_reducible assumption
    | with_reducible exact Touches.refl
    | ((try lift_lets -underBinder); intro d_; refine (have hd_ : Touches [.out, .sys, .acc] d d_ := ?_; ?_); (on_goal 1 => try dsimp only [d_]); (on_goal 2 => clear_value d_))
    | ((try lift_lets -underBinder); intro d_; try clear_value d_)
    | exact Eq.refl true
    | with_reducible refine Touches.andThen ?_ (by with_reducible exact bwmapRx_touch ..) ?_
    | split
    | dsimp -zeta only
    | (split at ‹ite _ _ _ = (_, _)›)
    | (cases ‹(_, _) = (_, _)›)

theorem b_bwmapRx (s : State) (slice : Nat) (lost : Bool) (grants : List Grant) : exec (.bwmapRx slice lost grants) s = s.become ((fun (d : Dev) => if slice < 4 then bwmapRx d slice lost grants else d) s.start) := by
  have hm_ : ((fun (d : Dev) => if slice < 4 then bwmapRx d slice lost grants else d) s.start).memOut = [] := (t_bwmapRx s.start slice lost grants).same .memOut rfl
  simp only [exec, execBwmapRx]
  exact nextDev_become s (fun (d : Dev) => if slice < 4 then bwmapRx d slice lost grants else d) hm_

theorem f_bwmapRx : ∀ (s : State) (slice : Nat) (lost : Bool) (grants : List Grant), Ends (exec (.bwmapRx slice lost grants) s) (Keeps [.out, .sys, .acc] s) := by
  intro s slice lost grants
  simp only [exec, execBwmapRx]
  exact keeps_nextDev (f := (fun (d : Dev) => if slice < 4 then bwmapRx d slice lost grants else d)) (t_bwmapRx s.start slice lost grants) rfl

theorem t_burstCommit (d : Dev) (slice now : Nat) : Touches [.freeCtr, .out, .sys, .bell, .past, .tm, .acc] d ((fun (d : Dev) => if slice < 4 ∧ domOn d (4 + slice) then burstCommit d slice now else d) d) := by
  beta_reduce
  repeat' first
    | with_reducible assumption
    | with_reducible exact Touches.refl
    | ((try lift_lets -underBinder); intro d_; refine (have hd_ : Touches [.freeCtr, .out, .sys, .bell, .past, .tm, .acc] d d_ := ?_; ?_); (on_goal 1 => try dsimp only [d_]); (on_goal 2 => clear_value d_))
    | ((try lift_lets -underBinder); intro d_; try clear_value d_)
    | exact Eq.refl true
    | with_reducible refine Touches.andThen ?_ (by with_reducible exact burstCommit_touch ..) ?_
    | split
    | dsimp -zeta only
    | (split at ‹ite _ _ _ = (_, _)›)
    | (cases ‹(_, _) = (_, _)›)

theorem b_burstCommit (s : State) (slice now : Nat) : exec (.burstCommit slice now) s = s.become ((fun (d : Dev) => if slice < 4 ∧ domOn d (4 + slice) then burstCommit d slice now else d) s.start) := by
  have hm_ : ((fun (d : Dev) => if slice < 4 ∧ domOn d (4 + slice) then burstCommit d slice now else d) s.start).memOut = [] := (t_burstCommit s.start slice now).same .memOut rfl
  simp only [exec, execBurstCommit]
  exact nextDev_become s (fun (d : Dev) => if slice < 4 ∧ domOn d (4 + slice) then burstCommit d slice now else d) hm_

theorem f_burstCommit : ∀ (s : State) (slice now : Nat), Ends (exec (.burstCommit slice now) s) (Keeps [.freeCtr, .out, .sys, .bell, .past, .tm, .acc] s) := by
  intro s slice now
  simp only [exec, execBurstCommit]
  exact keeps_nextDev (f := (fun (d : Dev) => if slice < 4 ∧ domOn d (4 + slice) then burstCommit d slice now else d)) (t_burstCommit s.start slice now) rfl

theorem event_dyingGaspDisable_touch (d : Dev) (slice : Nat) : Touches [.out, .sys, .bell, .tm, .acc] d (((fun (d : Dev) =>
    match (sliceOf d slice).gasp with
    | none => d
    | some t => if (sliceOf d slice).st ≠ .killed ∧ d.bell.tick.toNat ≥ t.toNat + 16 then gaspOver d slice else d) : Dev → Dev) d) := by
  beta_reduce
  repeat' first
    | with_reducible assumption
    | with_reducible exact Touches.refl
    | ((try lift_lets -underBinder); intro d_; refine (have hd_ : Touches [.out, .sys, .bell, .tm, .acc] d d_ := ?_; ?_); (on_goal 1 => try dsimp only [d_]); (on_goal 2 => clear_value d_))
    | ((try lift_lets -underBinder); intro d_; try clear_value d_)
    | exact Eq.refl true
    | with_reducible refine Touches.andThen ?_ (by with_reducible exact gaspOver_touch ..) ?_
    | split
    | dsimp -zeta only
    | (split at ‹ite _ _ _ = (_, _)›)
    | (cases ‹(_, _) = (_, _)›)

theorem exec_dyingGaspDisable (s : State) (slice : Nat) : exec (.dyingGaspDisable slice) s = s.become (((fun (d : Dev) =>
    match (sliceOf d slice).gasp with
    | none => d
    | some t => if (sliceOf d slice).st ≠ .killed ∧ d.bell.tick.toNat ≥ t.toNat + 16 then gaspOver d slice else d) : Dev → Dev) s.start) := by
  have hm_ : (((fun (d : Dev) =>
    match (sliceOf d slice).gasp with
    | none => d
    | some t => if (sliceOf d slice).st ≠ .killed ∧ d.bell.tick.toNat ≥ t.toNat + 16 then gaspOver d slice else d) : Dev → Dev) s.start).memOut = [] := (event_dyingGaspDisable_touch s.start slice).same .memOut rfl
  simp only [exec, execDyingGaspDisable]
  exact nextDev_become s ((fun (d : Dev) =>
    match (sliceOf d slice).gasp with
    | none => d
    | some t => if (sliceOf d slice).st ≠ .killed ∧ d.bell.tick.toNat ≥ t.toNat + 16 then gaspOver d slice else d) : Dev → Dev) hm_

theorem event_burstWindow_touch (d : Dev) (slice stamp : Nat) : Touches [.freeCtr, .out, .sys, .bell, .tm, .acc, .lane] d ((fun (d : Dev) => if slice < 4 ∧ domOn d (4 + slice) then burstWindow d slice stamp else d) d) := by
  beta_reduce
  repeat' first
    | with_reducible assumption
    | with_reducible exact Touches.refl
    | ((try lift_lets -underBinder); intro d_; refine (have hd_ : Touches [.freeCtr, .out, .sys, .bell, .tm, .acc, .lane] d d_ := ?_; ?_); (on_goal 1 => try dsimp only [d_]); (on_goal 2 => clear_value d_))
    | ((try lift_lets -underBinder); intro d_; try clear_value d_)
    | exact Eq.refl true
    | with_reducible refine Touches.andThen ?_ (by with_reducible exact burstWindow_touch ..) ?_
    | split
    | dsimp -zeta only
    | (split at ‹ite _ _ _ = (_, _)›)
    | (cases ‹(_, _) = (_, _)›)

theorem exec_burstWindow (s : State) (slice stamp : Nat) : exec (.burstWindow slice stamp) s = s.become ((fun (d : Dev) => if slice < 4 ∧ domOn d (4 + slice) then burstWindow d slice stamp else d) s.start) := by
  have hm_ : ((fun (d : Dev) => if slice < 4 ∧ domOn d (4 + slice) then burstWindow d slice stamp else d) s.start).memOut = [] := (event_burstWindow_touch s.start slice stamp).same .memOut rfl
  simp only [exec, execBurstWindow]
  exact nextDev_become s (fun (d : Dev) => if slice < 4 ∧ domOn d (4 + slice) then burstWindow d slice stamp else d) hm_

theorem event_bondOffer_touch (d : Dev) (slice : Nat) (h : BondHdr) (dsPort usPort start : Nat) : Touches [.out, .sys, .bell, .acc] d ((fun (d : Dev) => bondMsg d slice 0x01 h true (bondOffer slice h dsPort usPort start)) d) := by
  beta_reduce
  repeat' first
    | with_reducible assumption
    | with_reducible exact Touches.refl
    | ((try lift_lets -underBinder); intro d_; refine (have hd_ : Touches [.out, .sys, .bell, .acc] d d_ := ?_; ?_); (on_goal 1 => try dsimp only [d_]); (on_goal 2 => clear_value d_))
    | ((try lift_lets -underBinder); intro d_; try clear_value d_)
    | exact Eq.refl true
    | with_reducible refine Touches.andThen ?_ (bondMsg_touch (ps := [.out, .sys, .bell, .acc]) ?_ ?_ ..) ?_
    | (intro _)
    | with_reducible refine Touches.andThen ?_ (by with_reducible exact bondOffer_touch ..) ?_
    | refine Touches.andThen ?_ (bondOffer_touch' (h_ := by assumption) ..) ?_
    | with_reducible refine Touches.andThen ?_ (by with_reducible exact onBond_touch ..) ?_
    | with_reducible refine Touches.andThen ?_ (by with_reducible exact raiseLeaf_touch ..) ?_
    | with_reducible refine Touches.andThen ?_ (by with_reducible exact chActivate_touch ..) ?_
    | with_reducible refine Touches.andThen ?_ (by with_reducible exact answered_touch ..) ?_
    | split
    | dsimp -zeta only
    | (split at ‹ite _ _ _ = (_, _)›)
    | (cases ‹(_, _) = (_, _)›)

theorem exec_bondOffer (s : State) (slice : Nat) (h : BondHdr) (dsPort usPort start : Nat) : exec (.bondOffer slice h dsPort usPort start) s = s.become ((fun (d : Dev) => bondMsg d slice 0x01 h true (bondOffer slice h dsPort usPort start)) s.start) := by
  have hm_ : ((fun (d : Dev) => bondMsg d slice 0x01 h true (bondOffer slice h dsPort usPort start)) s.start).memOut = [] := (event_bondOffer_touch s.start slice h dsPort usPort start).same .memOut rfl
  simp only [exec, execBondOffer]
  exact nextDev_become s (fun (d : Dev) => bondMsg d slice 0x01 h true (bondOffer slice h dsPort usPort start)) hm_

theorem event_channelAdd_touch (d : Dev) (slice : Nat) (h : BondHdr) (joinFrame : Nat) : Touches [.out, .sys, .acc] d ((fun (d : Dev) => bondMsg d slice 0x02 h false (channelAddMsg slice h joinFrame)) d) := by
  beta_reduce
  repeat' first
    | with_reducible assumption
    | with_reducible exact Touches.refl
    | ((try lift_lets -underBinder); intro d_; refine (have hd_ : Touches [.out, .sys, .acc] d d_ := ?_; ?_); (on_goal 1 => try dsimp only [d_]); (on_goal 2 => clear_value d_))
    | ((try lift_lets -underBinder); intro d_; try clear_value d_)
    | exact Eq.refl true
    | with_reducible refine Touches.andThen ?_ (bondMsg_touch (ps := [.out, .sys, .acc]) ?_ ?_ ..) ?_
    | (intro _)
    | with_reducible refine Touches.andThen ?_ (by with_reducible exact channelAddMsg_touch ..) ?_
    | refine Touches.andThen ?_ (channelAddMsg_touch' (h_ := by assumption) ..) ?_
    | with_reducible refine Touches.andThen ?_ (by with_reducible exact channelAdd_touch ..) ?_
    | refine Touches.andThen ?_ (channelAdd_touch' (h_ := by assumption) ..) ?_
    | with_reducible refine Touches.andThen ?_ (by with_reducible exact answered_touch ..) ?_
    | split
    | dsimp -zeta only
    | (split at ‹ite _ _ _ = (_, _)›)
    | (cases ‹(_, _) = (_, _)›)

theorem exec_channelAdd (s : State) (slice : Nat) (h : BondHdr) (joinFrame : Nat) : exec (.channelAdd slice h joinFrame) s = s.become ((fun (d : Dev) => bondMsg d slice 0x02 h false (channelAddMsg slice h joinFrame)) s.start) := by
  have hm_ : ((fun (d : Dev) => bondMsg d slice 0x02 h false (channelAddMsg slice h joinFrame)) s.start).memOut = [] := (event_channelAdd_touch s.start slice h joinFrame).same .memOut rfl
  simp only [exec, execChannelAdd]
  exact nextDev_become s (fun (d : Dev) => bondMsg d slice 0x02 h false (channelAddMsg slice h joinFrame)) hm_

theorem event_channelRemove_touch (d : Dev) (slice : Nat) (h : BondHdr) (leaveFrame : Nat) : Touches [.out, .sys, .bell, .acc] d ((fun (d : Dev) => bondMsg d slice 0x03 h false (channelRemove h leaveFrame)) d) := by
  beta_reduce
  repeat' first
    | with_reducible assumption
    | with_reducible exact Touches.refl
    | ((try lift_lets -underBinder); intro d_; refine (have hd_ : Touches [.out, .sys, .bell, .acc] d d_ := ?_; ?_); (on_goal 1 => try dsimp only [d_]); (on_goal 2 => clear_value d_))
    | ((try lift_lets -underBinder); intro d_; try clear_value d_)
    | exact Eq.refl true
    | with_reducible refine Touches.andThen ?_ (bondMsg_touch (ps := [.out, .sys, .bell, .acc]) ?_ ?_ ..) ?_
    | (intro _)
    | with_reducible refine Touches.andThen ?_ (by with_reducible exact channelRemove_touch ..) ?_
    | refine Touches.andThen ?_ (channelRemove_touch' (h_ := by assumption) ..) ?_
    | with_reducible refine Touches.andThen ?_ (by with_reducible exact onSlice_touch ..) ?_
    | with_reducible refine Touches.andThen ?_ (by with_reducible exact answered_touch ..) ?_
    | with_reducible refine Touches.andThen ?_ (by with_reducible exact departure_touch ..) ?_
    | split
    | dsimp -zeta only
    | (split at ‹ite _ _ _ = (_, _)›)
    | (cases ‹(_, _) = (_, _)›)

theorem exec_channelRemove (s : State) (slice : Nat) (h : BondHdr) (leaveFrame : Nat) : exec (.channelRemove slice h leaveFrame) s = s.become ((fun (d : Dev) => bondMsg d slice 0x03 h false (channelRemove h leaveFrame)) s.start) := by
  have hm_ : ((fun (d : Dev) => bondMsg d slice 0x03 h false (channelRemove h leaveFrame)) s.start).memOut = [] := (event_channelRemove_touch s.start slice h leaveFrame).same .memOut rfl
  simp only [exec, execChannelRemove]
  exact nextDev_become s (fun (d : Dev) => bondMsg d slice 0x03 h false (channelRemove h leaveFrame)) hm_

theorem event_bondAlloc_touch (d : Dev) (slice : Nat) (h : BondHdr) (alloc : Nat) (assign : Bool) : Touches [.out, .sys, .tm, .acc] d ((fun (d : Dev) => bondMsg d slice 0x04 h false (bondAlloc (alloc % 16384) assign)) d) := by
  beta_reduce
  repeat' first
    | with_reducible assumption
    | with_reducible exact Touches.refl
    | ((try lift_lets -underBinder); intro d_; refine (have hd_ : Touches [.out, .sys, .tm, .acc] d d_ := ?_; ?_); (on_goal 1 => try dsimp only [d_]); (on_goal 2 => clear_value d_))
    | ((try lift_lets -underBinder); intro d_; try clear_value d_)
    | exact Eq.refl true
    | with_reducible refine Touches.andThen ?_ (bondMsg_touch (ps := [.out, .sys, .tm, .acc]) ?_ ?_ ..) ?_
    | (intro _)
    | with_reducible refine Touches.andThen ?_ (by with_reducible exact bondAlloc_touch ..) ?_
    | refine Touches.andThen ?_ (bondAlloc_touch' (h_ := by assumption) ..) ?_
    | with_reducible refine Touches.andThen ?_ (by with_reducible exact onSlice_touch ..) ?_
    | with_reducible refine Touches.andThen ?_ (by with_reducible exact onBond_touch ..) ?_
    | with_reducible refine Touches.andThen ?_ (by with_reducible exact giveNode_touch ..) ?_
    | with_reducible refine Touches.andThen ?_ (by with_reducible exact bondCount_touch ..) ?_
    | with_reducible refine Touches.andThen ?_ (by with_reducible exact takeNode_touch ..) ?_
    | with_reducible refine Touches.andThen ?_ (by with_reducible exact bondedEntry_touch ..) ?_
    | split
    | dsimp -zeta only
    | (split at ‹ite _ _ _ = (_, _)›)
    | (cases ‹(_, _) = (_, _)›)

theorem exec_bondAlloc (s : State) (slice : Nat) (h : BondHdr) (alloc : Nat) (assign : Bool) : exec (.bondAlloc slice h alloc assign) s = s.become ((fun (d : Dev) => bondMsg d slice 0x04 h false (bondAlloc (alloc % 16384) assign)) s.start) := by
  have hm_ : ((fun (d : Dev) => bondMsg d slice 0x04 h false (bondAlloc (alloc % 16384) assign)) s.start).memOut = [] := (event_bondAlloc_touch s.start slice h alloc assign).same .memOut rfl
  simp only [exec, execBondAlloc]
  exact nextDev_become s (fun (d : Dev) => bondMsg d slice 0x04 h false (bondAlloc (alloc % 16384) assign)) hm_

theorem event_bondRelease_touch (d : Dev) (slice : Nat) (h : BondHdr) : Touches [.out, .sys, .tm, .acc] d ((fun (d : Dev) => bondMsg d slice 0x05 h false (bondReleaseMsg h.now)) d) := by
  exact bondMsg_touch rfl (fun x => .mono (bondReleaseMsg_touch ..)) _ _ _ _ _

theorem exec_bondRelease (s : State) (slice : Nat) (h : BondHdr) : exec (.bondRelease slice h) s = s.become ((fun (d : Dev) => bondMsg d slice 0x05 h false (bondReleaseMsg h.now)) s.start) := by
  have hm_ : ((fun (d : Dev) => bondMsg d slice 0x05 h false (bondReleaseMsg h.now)) s.start).memOut = [] := (event_bondRelease_touch s.start slice h).same .memOut rfl
  simp only [exec, execBondRelease]
  exact nextDev_become s (fun (d : Dev) => bondMsg d slice 0x05 h false (bondReleaseMsg h.now)) hm_

theorem event_bondMsgUnknown_touch (d : Dev) (slice : Nat) (h : BondHdr) (type : Nat) : Touches [.out, .sys, .acc] d ((fun (d : Dev) => bondUnknown d slice h type) d) := by
  beta_reduce
  repeat' first
    | with_reducible assumption
    | with_reducible exact Touches.refl
    | ((try lift_lets -underBinder); intro d_; refine (have hd_ : Touches [.out, .sys, .acc] d d_ := ?_; ?_); (on_goal 1 => try dsimp only [d_]); (on_goal 2 => clear_value d_))
    | ((try lift_lets -underBinder); intro d_; try clear_value d_)
    | exact Eq.refl true
    | with_reducible refine Touches.andThen ?_ (by with_reducible exact bondUnknown_touch ..) ?_
    | split
    | dsimp -zeta only
    | (split at ‹ite _ _ _ = (_, _)›)
    | (cases ‹(_, _) = (_, _)›)

theorem exec_bondMsgUnknown (s : State) (slice : Nat) (h : BondHdr) (type : Nat) : exec (.bondMsgUnknown slice h type) s = s.become ((fun (d : Dev) => bondUnknown d slice h type) s.start) := by
  have hm_ : ((fun (d : Dev) => bondUnknown d slice h type) s.start).memOut = [] := (event_bondMsgUnknown_touch s.start slice h type).same .memOut rfl
  simp only [exec, execBondMsgUnknown]
  exact nextDev_become s (fun (d : Dev) => bondUnknown d slice h type) hm_

theorem event_channelJoinFrame_touch (d : Dev) (slice : Nat) : Touches [.out, .sys, .bell, .acc] d ((fun (d : Dev) =>
    let x := sliceOf d slice
    if slice < 4 ∧ x.ch = .joining ∧ x.frame ≥ x.joinFrame then accLeaf (chActivate d slice) slice 10 else d) d) := by
  beta_reduce
  repeat' first
    | with_reducible assumption
    | with_reducible exact Touches.refl
    | ((try lift_lets -underBinder); intro d_; refine (have hd_ : Touches [.out, .sys, .bell, .acc] d d_ := ?_; ?_); (on_goal 1 => try dsimp only [d_]); (on_goal 2 => clear_value d_))
    | ((try lift_lets -underBinder); intro d_; try clear_value d_)
    | exact Eq.refl true
    | with_reducible refine Touches.andThen ?_ (by with_reducible exact accLeaf_touch ..) ?_
    | with_reducible refine Touches.andThen ?_ (by with_reducible exact chActivate_touch ..) ?_
    | split
    | dsimp -zeta only
    | (split at ‹ite _ _ _ = (_, _)›)
    | (cases ‹(_, _) = (_, _)›)

theorem exec_channelJoinFrame (s : State) (slice : Nat) : exec (.channelJoinFrame slice) s = s.become ((fun (d : Dev) =>
    let x := sliceOf d slice
    if slice < 4 ∧ x.ch = .joining ∧ x.frame ≥ x.joinFrame then accLeaf (chActivate d slice) slice 10 else d) s.start) := by
  have hm_ : ((fun (d : Dev) =>
    let x := sliceOf d slice
    if slice < 4 ∧ x.ch = .joining ∧ x.frame ≥ x.joinFrame then accLeaf (chActivate d slice) slice 10 else d) s.start).memOut = [] := (event_channelJoinFrame_touch s.start slice).same .memOut rfl
  simp only [exec, execChannelJoinFrame]
  exact nextDev_become s (fun (d : Dev) =>
    let x := sliceOf d slice
    if slice < 4 ∧ x.ch = .joining ∧ x.frame ≥ x.joinFrame then accLeaf (chActivate d slice) slice 10 else d) hm_

theorem event_channelDeparture_touch (d : Dev) (slice cause now : Nat) : Touches [.out, .sys, .bell, .acc] d ((fun (d : Dev) => if slice < 4 ∧ 1 ≤ cause ∧ cause ≤ 7 then departure d slice cause now else d) d) := by
  beta_reduce
  repeat' first
    | with_reducible assumption
    | with_reducible exact Touches.refl
    | ((try lift_lets -underBinder); intro d_; refine (have hd_ : Touches [.out, .sys, .bell, .acc] d d_ := ?_; ?_); (on_goal 1 => try dsimp only [d_]); (on_goal 2 => clear_value d_))
    | ((try lift_lets -underBinder); intro d_; try clear_value d_)
    | exact Eq.refl true
    | with_reducible refine Touches.andThen ?_ (by with_reducible exact departure_touch ..) ?_
    | split
    | dsimp -zeta only
    | (split at ‹ite _ _ _ = (_, _)›)
    | (cases ‹(_, _) = (_, _)›)

theorem exec_channelDeparture (s : State) (slice cause now : Nat) : exec (.channelDeparture slice cause now) s = s.become ((fun (d : Dev) => if slice < 4 ∧ 1 ≤ cause ∧ cause ≤ 7 then departure d slice cause now else d) s.start) := by
  have hm_ : ((fun (d : Dev) => if slice < 4 ∧ 1 ≤ cause ∧ cause ≤ 7 then departure d slice cause now else d) s.start).memOut = [] := (event_channelDeparture_touch s.start slice cause now).same .memOut rfl
  simp only [exec, execChannelDeparture]
  exact nextDev_become s (fun (d : Dev) => if slice < 4 ∧ 1 ≤ cause ∧ cause ≤ 7 then departure d slice cause now else d) hm_

theorem event_bondMsgRetry_touch (d : Dev) (type chan : Nat) : Touches [.out, .sys, .acc] d ((fun (d : Dev) => bondRetry d type chan) d) := by
  beta_reduce
  repeat' first
    | with_reducible assumption
    | with_reducible exact Touches.refl
    | ((try lift_lets -underBinder); intro d_; refine (have hd_ : Touches [.out, .sys, .acc] d d_ := ?_; ?_); (on_goal 1 => try dsimp only [d_]); (on_goal 2 => clear_value d_))
    | ((try lift_lets -underBinder); intro d_; try clear_value d_)
    | exact Eq.refl true
    | with_reducible refine Touches.andThen ?_ (by with_reducible exact bondRetry_touch ..) ?_
    | split
    | dsimp -zeta only
    | (split at ‹ite _ _ _ = (_, _)›)
    | (cases ‹(_, _) = (_, _)›)

theorem exec_bondMsgRetry (s : State) (type chan : Nat) : exec (.bondMsgRetry type chan) s = s.become ((fun (d : Dev) => bondRetry d type chan) s.start) := by
  have hm_ : ((fun (d : Dev) => bondRetry d type chan) s.start).memOut = [] := (event_bondMsgRetry_touch s.start type chan).same .memOut rfl
  simp only [exec, execBondMsgRetry]
  exact nextDev_become s (fun (d : Dev) => bondRetry d type chan) hm_

theorem event_bondFragmentRx_touch (d : Dev) (slice : Nat) (f : FragIn) (now : Nat) : Touches [.freeCtr, .out, .sys, .past, .parse, .tm, .flock, .acc, .imc, .casc, .integ] d ((fun (d : Dev) => if slice < 4 ∧ domOn d (4 + slice) ∧ d.acc.bond.st = .bonded then fragmentRx d slice f now else d) d) := by
  beta_reduce
  repeat' first
    | with_reducible assumption
    | with_reducible exact Touches.refl
    | ((try lift_lets -underBinder); intro d_; refine (have hd_ : Touches [.freeCtr, .out, .sys, .past, .parse, .tm, .flock, .acc, .imc, .casc, .integ] d d_ := ?_; ?_); (on_goal 1 => try dsimp only [d_]); (on_goal 2 => clear_value d_))
    | ((try lift_lets -underBinder); intro d_; try clear_value d_)
    | exact Eq.refl true
    | with_reducible refine Touches.andThen ?_ (by with_reducible exact fragmentRx_touch ..) ?_
    | split
    | dsimp -zeta only
    | (split at ‹ite _ _ _ = (_, _)›)
    | (cases ‹(_, _) = (_, _)›)

theorem exec_bondFragmentRx (s : State) (slice : Nat) (f : FragIn) (now : Nat) : exec (.bondFragmentRx slice f now) s = s.become ((fun (d : Dev) => if slice < 4 ∧ domOn d (4 + slice) ∧ d.acc.bond.st = .bonded then fragmentRx d slice f now else d) s.start) := by
  have hm_ : ((fun (d : Dev) => if slice < 4 ∧ domOn d (4 + slice) ∧ d.acc.bond.st = .bonded then fragmentRx d slice f now else d) s.start).memOut = [] := (event_bondFragmentRx_touch s.start slice f now).same .memOut rfl
  simp only [exec, execBondFragmentRx]
  exact nextDev_become s (fun (d : Dev) => if slice < 4 ∧ domOn d (4 + slice) ∧ d.acc.bond.st = .bonded then fragmentRx d slice f now else d) hm_

theorem event_reorderDeadline_touch (d : Dev) (now : Nat) : Touches [.freeCtr, .out, .sys, .past, .parse, .tm, .flock, .acc, .imc, .casc, .integ] d ((fun (d : Dev) => reorderDeadline d now 256) d) := by
  beta_reduce
  repeat' first
    | with_reducible assumption
    | with_reducible exact Touches.refl
    | ((try lift_lets -underBinder); intro d_; refine (have hd_ : Touches [.freeCtr, .out, .sys, .past, .parse, .tm, .flock, .acc, .imc, .casc, .integ] d d_ := ?_; ?_); (on_goal 1 => try dsimp only [d_]); (on_goal 2 => clear_value d_))
    | ((try lift_lets -underBinder); intro d_; try clear_value d_)
    | exact Eq.refl true
    | with_reducible refine Touches.andThen ?_ (by with_reducible exact reorderDeadline_touch ..) ?_
    | split
    | dsimp -zeta only
    | (split at ‹ite _ _ _ = (_, _)›)
    | (cases ‹(_, _) = (_, _)›)

theorem exec_reorderDeadline (s : State) (now : Nat) : exec (.reorderDeadline now) s = s.become ((fun (d : Dev) => reorderDeadline d now 256) s.start) := by
  have hm_ : ((fun (d : Dev) => reorderDeadline d now 256) s.start).memOut = [] := (event_reorderDeadline_touch s.start now).same .memOut rfl
  simp only [exec, execReorderDeadline]
  exact nextDev_become s (fun (d : Dev) => reorderDeadline d now 256) hm_

theorem event_gemFrameRx_touch (d : Dev) (slice : Nat) (g : GemIn) : Touches [.freeCtr, .out, .sys, .bell, .past, .parse, .tm, .flock, .acc, .imc, .casc, .integ] d ((fun (d : Dev) => if slice < 4 then gemFrame d slice g else d) d) := by
  beta_reduce
  repeat' first
    | with_reducible assumption
    | with_reducible exact Touches.refl
    | ((try lift_lets -underBinder); intro d_; refine (have hd_ : Touches [.freeCtr, .out, .sys, .bell, .past, .parse, .tm, .flock, .acc, .imc, .casc, .integ] d d_ := ?_; ?_); (on_goal 1 => try dsimp only [d_]); (on_goal 2 => clear_value d_))
    | ((try lift_lets -underBinder); intro d_; try clear_value d_)
    | exact Eq.refl true
    | with_reducible refine Touches.andThen ?_ (by with_reducible exact gemFrame_touch ..) ?_
    | split
    | dsimp -zeta only
    | (split at ‹ite _ _ _ = (_, _)›)
    | (cases ‹(_, _) = (_, _)›)

theorem exec_gemFrameRx (s : State) (slice : Nat) (g : GemIn) : exec (.gemFrameRx slice g) s = s.become ((fun (d : Dev) => if slice < 4 then gemFrame d slice g else d) s.start) := by
  have hm_ : ((fun (d : Dev) => if slice < 4 then gemFrame d slice g else d) s.start).memOut = [] := (event_gemFrameRx_touch s.start slice g).same .memOut rfl
  simp only [exec, execGemFrameRx]
  exact nextDev_become s (fun (d : Dev) => if slice < 4 then gemFrame d slice g else d) hm_

theorem event_gemReassemblyTimeout_touch (d : Dev) (slice port : Nat) : Touches [.acc] d ((fun (d : Dev) =>
    match tget (sliceOf d slice).reasm port with
    | none => d
    | some r =>
      if (sliceOf d slice).frame < r.frame + 2 then d
      else accCount (onSlice d slice (fun x => { x with reasm := tdel x.reasm port })) slice 10 1) d) := by
  beta_reduce
  repeat' first
    | with_reducible assumption
    | with_reducible exact Touches.refl
    | ((try lift_lets -underBinder); intro d_; refine (have hd_ : Touches [.acc] d d_ := ?_; ?_); (on_goal 1 => try dsimp only [d_]); (on_goal 2 => clear_value d_))
    | ((try lift_lets -underBinder); intro d_; try clear_value d_)
    | exact Eq.refl true
    | with_reducible refine Touches.andThen ?_ (by with_reducible exact onSlice_touch ..) ?_
    | with_reducible refine Touches.andThen ?_ (by with_reducible exact accCount_touch ..) ?_
    | split
    | dsimp -zeta only
    | (split at ‹ite _ _ _ = (_, _)›)
    | (cases ‹(_, _) = (_, _)›)

theorem exec_gemReassemblyTimeout (s : State) (slice port : Nat) : exec (.gemReassemblyTimeout slice port) s = s.become ((fun (d : Dev) =>
    match tget (sliceOf d slice).reasm port with
    | none => d
    | some r =>
      if (sliceOf d slice).frame < r.frame + 2 then d
      else accCount (onSlice d slice (fun x => { x with reasm := tdel x.reasm port })) slice 10 1) s.start) := by
  have hm_ : ((fun (d : Dev) =>
    match tget (sliceOf d slice).reasm port with
    | none => d
    | some r =>
      if (sliceOf d slice).frame < r.frame + 2 then d
      else accCount (onSlice d slice (fun x => { x with reasm := tdel x.reasm port })) slice 10 1) s.start).memOut = [] := (event_gemReassemblyTimeout_touch s.start slice port).same .memOut rfl
  simp only [exec, execGemReassemblyTimeout]
  exact nextDev_become s (fun (d : Dev) =>
    match tget (sliceOf d slice).reasm port with
    | none => d
    | some r =>
      if (sliceOf d slice).frame < r.frame + 2 then d
      else accCount (onSlice d slice (fun x => { x with reasm := tdel x.reasm port })) slice 10 1) hm_

theorem event_omciMessage_touch (d : Dev) (slice cls inst : Nat) (micOk : Bool) (op : OmciOp) (eff : OmciEffect) : Touches [.acc, .imc] d ((fun (d : Dev) => if slice < 4 then omciMessage d slice cls inst micOk op eff else d) d) := by
  beta_reduce
  repeat' first
    | with_reducible assumption
    | with_reducible exact Touches.refl
    | ((try lift_lets -underBinder); intro d_; refine (have hd_ : Touches [.acc, .imc] d d_ := ?_; ?_); (on_goal 1 => try dsimp only [d_]); (on_goal 2 => clear_value d_))
    | ((try lift_lets -underBinder); intro d_; try clear_value d_)
    | exact Eq.refl true
    | with_reducible refine Touches.andThen ?_ (by with_reducible exact omciMessage_touch ..) ?_
    | split
    | dsimp -zeta only
    | (split at ‹ite _ _ _ = (_, _)›)
    | (cases ‹(_, _) = (_, _)›)

theorem exec_omciMessage (s : State) (slice cls inst : Nat) (micOk : Bool) (op : OmciOp) (eff : OmciEffect) : exec (.omciMessage slice cls inst micOk op eff) s = s.become ((fun (d : Dev) => if slice < 4 then omciMessage d slice cls inst micOk op eff else d) s.start) := by
  have hm_ : ((fun (d : Dev) => if slice < 4 then omciMessage d slice cls inst micOk op eff else d) s.start).memOut = [] := (event_omciMessage_touch s.start slice cls inst micOk op eff).same .memOut rfl
  simp only [exec, execOmciMessage]
  exact nextDev_become s (fun (d : Dev) => if slice < 4 then omciMessage d slice cls inst micOk op eff else d) hm_

theorem event_sqTailDoorbell_touch (d : Dev) (ring value : Nat) (packets : List KPacket) (pcieFails : Bool) : Touches [.out, .sys, .rings] d ((fun (d : Dev) =>
    if ring > 3 ∨ ¬ domOn d 38 then d
    else
      let d := sqTail d ring value packets
      if pcieFails ∧ ringRuns (ringOf d ring) then ringStop d ring 2 else d) d) := by
  beta_reduce
  repeat' first
    | with_reducible assumption
    | with_reducible exact Touches.refl
    | ((try lift_lets -underBinder); intro d_; refine (have hd_ : Touches [.out, .sys, .rings] d d_ := ?_; ?_); (on_goal 1 => try dsimp only [d_]); (on_goal 2 => clear_value d_))
    | ((try lift_lets -underBinder); intro d_; try clear_value d_)
    | exact Eq.refl true
    | with_reducible refine Touches.andThen ?_ (by with_reducible exact sqTail_touch ..) ?_
    | with_reducible refine Touches.andThen ?_ (by with_reducible exact ringStop_touch ..) ?_
    | split
    | dsimp -zeta only
    | (split at ‹ite _ _ _ = (_, _)›)
    | (cases ‹(_, _) = (_, _)›)

theorem exec_sqTailDoorbell (s : State) (ring value : Nat) (packets : List KPacket) (pcieFails : Bool) : exec (.sqTailDoorbell ring value packets pcieFails) s = s.become ((fun (d : Dev) =>
    if ring > 3 ∨ ¬ domOn d 38 then d
    else
      let d := sqTail d ring value packets
      if pcieFails ∧ ringRuns (ringOf d ring) then ringStop d ring 2 else d) s.start) := by
  have hm_ : ((fun (d : Dev) =>
    if ring > 3 ∨ ¬ domOn d 38 then d
    else
      let d := sqTail d ring value packets
      if pcieFails ∧ ringRuns (ringOf d ring) then ringStop d ring 2 else d) s.start).memOut = [] := (event_sqTailDoorbell_touch s.start ring value packets pcieFails).same .memOut rfl
  simp only [exec, execSqTailDoorbell]
  exact nextDev_become s (fun (d : Dev) =>
    if ring > 3 ∨ ¬ domOn d 38 then d
    else
      let d := sqTail d ring value packets
      if pcieFails ∧ ringRuns (ringOf d ring) then ringStop d ring 2 else d) hm_

theorem event_cqHeadDoorbell_touch (d : Dev) (ring value : Nat) : Touches [.out, .sys, .rings] d ((fun (d : Dev) => if ring > 3 ∨ ¬ domOn d 38 then d else cqHead d ring value) d) := by
  beta_reduce
  repeat' first
    | with_reducible assumption
    | with_reducible exact Touches.refl
    | ((try lift_lets -underBinder); intro d_; refine (have hd_ : Touches [.out, .sys, .rings] d d_ := ?_; ?_); (on_goal 1 => try dsimp only [d_]); (on_goal 2 => clear_value d_))
    | ((try lift_lets -underBinder); intro d_; try clear_value d_)
    | exact Eq.refl true
    | with_reducible refine Touches.andThen ?_ (by with_reducible exact cqHead_touch ..) ?_
    | split
    | dsimp -zeta only
    | (split at ‹ite _ _ _ = (_, _)›)
    | (cases ‹(_, _) = (_, _)›)

theorem exec_cqHeadDoorbell (s : State) (ring value : Nat) : exec (.cqHeadDoorbell ring value) s = s.become ((fun (d : Dev) => if ring > 3 ∨ ¬ domOn d 38 then d else cqHead d ring value) s.start) := by
  have hm_ : ((fun (d : Dev) => if ring > 3 ∨ ¬ domOn d 38 then d else cqHead d ring value) s.start).memOut = [] := (event_cqHeadDoorbell_touch s.start ring value).same .memOut rfl
  simp only [exec, execCqHeadDoorbell]
  exact nextDev_become s (fun (d : Dev) => if ring > 3 ∨ ¬ domOn d 38 then d else cqHead d ring value) hm_

theorem event_ringEnable_touch (d : Dev) (ring : Nat) (en : Bool) : Touches [.out, .sys, .rings] d ((fun (d : Dev) => if ring > 3 ∨ ¬ domOn d 38 then d else ringEn d ring en) d) := by
  beta_reduce
  repeat' first
    | with_reducible assumption
    | with_reducible exact Touches.refl
    | ((try lift_lets -underBinder); intro d_; refine (have hd_ : Touches [.out, .sys, .rings] d d_ := ?_; ?_); (on_goal 1 => try dsimp only [d_]); (on_goal 2 => clear_value d_))
    | ((try lift_lets -underBinder); intro d_; try clear_value d_)
    | exact Eq.refl true
    | with_reducible refine Touches.andThen ?_ (by with_reducible exact ringEn_touch ..) ?_
    | split
    | dsimp -zeta only
    | (split at ‹ite _ _ _ = (_, _)›)
    | (cases ‹(_, _) = (_, _)›)

theorem exec_ringEnable (s : State) (ring : Nat) (en : Bool) : exec (.ringEnable ring en) s = s.become ((fun (d : Dev) => if ring > 3 ∨ ¬ domOn d 38 then d else ringEn d ring en) s.start) := by
  have hm_ : ((fun (d : Dev) => if ring > 3 ∨ ¬ domOn d 38 then d else ringEn d ring en) s.start).memOut = [] := (event_ringEnable_touch s.start ring en).same .memOut rfl
  simp only [exec, execRingEnable]
  exact nextDev_become s (fun (d : Dev) => if ring > 3 ∨ ¬ domOn d 38 then d else ringEn d ring en) hm_

theorem event_msixEnable_touch (d : Dev) (cfgEn masked : Bool) : Touches [.out, .sys] d ((fun (d : Dev) => msixConfig d cfgEn masked) d) := by
  beta_reduce
  repeat' first
    | with_reducible assumption
    | with_reducible exact Touches.refl
    | ((try lift_lets -underBinder); intro d_; refine (have hd_ : Touches [.out, .sys] d d_ := ?_; ?_); (on_goal 1 => try dsimp only [d_]); (on_goal 2 => clear_value d_))
    | ((try lift_lets -underBinder); intro d_; try clear_value d_)
    | exact Eq.refl true
    | with_reducible refine Touches.andThen ?_ (by with_reducible exact msixConfig_touch ..) ?_
    | split
    | dsimp -zeta only
    | (split at ‹ite _ _ _ = (_, _)›)
    | (cases ‹(_, _) = (_, _)›)

theorem exec_msixEnable (s : State) (cfgEn masked : Bool) : exec (.msixEnable cfgEn masked) s = s.become ((fun (d : Dev) => msixConfig d cfgEn masked) s.start) := by
  have hm_ : ((fun (d : Dev) => msixConfig d cfgEn masked) s.start).memOut = [] := (event_msixEnable_touch s.start cfgEn masked).same .memOut rfl
  simp only [exec, execMsixEnable]
  exact nextDev_become s (fun (d : Dev) => msixConfig d cfgEn masked) hm_

theorem event_leafWrite_touch (d : Dev) (word : Nat) (value : Word) : Touches [.out, .sys] d ((fun (d : Dev) => if word < 64 ∧ domOn d 38 then clearLeaf d word value else d) d) := by
  beta_reduce
  repeat' first
    | with_reducible assumption
    | with_reducible exact Touches.refl
    | ((try lift_lets -underBinder); intro d_; refine (have hd_ : Touches [.out, .sys] d d_ := ?_; ?_); (on_goal 1 => try dsimp only [d_]); (on_goal 2 => clear_value d_))
    | ((try lift_lets -underBinder); intro d_; try clear_value d_)
    | exact Eq.refl true
    | with_reducible refine Touches.andThen ?_ (by with_reducible exact clearLeaf_touch ..) ?_
    | split
    | dsimp -zeta only
    | (split at ‹ite _ _ _ = (_, _)›)
    | (cases ‹(_, _) = (_, _)›)

theorem exec_leafWrite (s : State) (word : Nat) (value : Word) : exec (.leafWrite word value) s = s.become ((fun (d : Dev) => if word < 64 ∧ domOn d 38 then clearLeaf d word value else d) s.start) := by
  have hm_ : ((fun (d : Dev) => if word < 64 ∧ domOn d 38 then clearLeaf d word value else d) s.start).memOut = [] := (event_leafWrite_touch s.start word value).same .memOut rfl
  simp only [exec, execLeafWrite]
  exact nextDev_become s (fun (d : Dev) => if word < 64 ∧ domOn d 38 then clearLeaf d word value else d) hm_

theorem event_sessionHello_touch (d : Dev) (addr port : Nat) : Touches [.freeCtr, .out, .sys, .sess] d ((fun (d : Dev) => sessionHello d addr port) d) := by
  beta_reduce
  repeat' first
    | with_reducible assumption
    | with_reducible exact Touches.refl
    | ((try lift_lets -underBinder); intro d_; refine (have hd_ : Touches [.freeCtr, .out, .sys, .sess] d d_ := ?_; ?_); (on_goal 1 => try dsimp only [d_]); (on_goal 2 => clear_value d_))
    | ((try lift_lets -underBinder); intro d_; try clear_value d_)
    | exact Eq.refl true
    | with_reducible refine Touches.andThen ?_ (by with_reducible exact sessionHello_touch ..) ?_
    | split
    | dsimp -zeta only
    | (split at ‹ite _ _ _ = (_, _)›)
    | (cases ‹(_, _) = (_, _)›)

theorem exec_sessionHello (s : State) (addr port : Nat) : exec (.sessionHello addr port) s = s.become ((fun (d : Dev) => sessionHello d addr port) s.start) := by
  have hm_ : ((fun (d : Dev) => sessionHello d addr port) s.start).memOut = [] := (event_sessionHello_touch s.start addr port).same .memOut rfl
  simp only [exec, execSessionHello]
  exact nextDev_become s (fun (d : Dev) => sessionHello d addr port) hm_

theorem event_sessionProof_touch (d : Dev) (session role keyHash : Nat) (sigOk decryptOk : Bool) : Touches [.out, .sys, .sess] d ((fun (d : Dev) => if session < 8 then sessionProof d session role keyHash sigOk decryptOk else sessionDrop d) d) := by
  beta_reduce
  repeat' first
    | with_reducible assumption
    | with_reducible exact Touches.refl
    | ((try lift_lets -underBinder); intro d_; refine (have hd_ : Touches [.out, .sys, .sess] d d_ := ?_; ?_); (on_goal 1 => try dsimp only [d_]); (on_goal 2 => clear_value d_))
    | ((try lift_lets -underBinder); intro d_; try clear_value d_)
    | exact Eq.refl true
    | with_reducible refine Touches.andThen ?_ (by with_reducible exact sessionProof_touch ..) ?_
    | with_reducible refine Touches.andThen ?_ (by with_reducible exact sessionDrop_touch ..) ?_
    | split
    | dsimp -zeta only
    | (split at ‹ite _ _ _ = (_, _)›)
    | (cases ‹(_, _) = (_, _)›)

theorem exec_sessionProof (s : State) (session role keyHash : Nat) (sigOk decryptOk : Bool) : exec (.sessionProof session role keyHash sigOk decryptOk) s = s.become ((fun (d : Dev) => if session < 8 then sessionProof d session role keyHash sigOk decryptOk else sessionDrop d) s.start) := by
  have hm_ : ((fun (d : Dev) => if session < 8 then sessionProof d session role keyHash sigOk decryptOk else sessionDrop d) s.start).memOut = [] := (event_sessionProof_touch s.start session role keyHash sigOk decryptOk).same .memOut rfl
  simp only [exec, execSessionProof]
  exact nextDev_become s (fun (d : Dev) => if session < 8 then sessionProof d session role keyHash sigOk decryptOk else sessionDrop d) hm_

theorem event_sessionCommand_touch (d : Dev) (session ctr : Nat) (tagOk : Bool) (packet : KPacket) : Touches [.out, .sys, .sess] d ((fun (d : Dev) => if session < 8 then sessionCommand d session ctr tagOk packet else sessionDrop d) d) := by
  beta_reduce
  repeat' first
    | with_reducible assumption
    | with_reducible exact Touches.refl
    | ((try lift_lets -underBinder); intro d_; refine (have hd_ : Touches [.out, .sys, .sess] d d_ := ?_; ?_); (on_goal 1 => try dsimp only [d_]); (on_goal 2 => clear_value d_))
    | ((try lift_lets -underBinder); intro d_; try clear_value d_)
    | exact Eq.refl true
    | with_reducible refine Touches.andThen ?_ (by with_reducible exact sessionCommand_touch ..) ?_
    | with_reducible refine Touches.andThen ?_ (by with_reducible exact sessionDrop_touch ..) ?_
    | split
    | dsimp -zeta only
    | (split at ‹ite _ _ _ = (_, _)›)
    | (cases ‹(_, _) = (_, _)›)

theorem exec_sessionCommand (s : State) (session ctr : Nat) (tagOk : Bool) (packet : KPacket) : exec (.sessionCommand session ctr tagOk packet) s = s.become ((fun (d : Dev) => if session < 8 then sessionCommand d session ctr tagOk packet else sessionDrop d) s.start) := by
  have hm_ : ((fun (d : Dev) => if session < 8 then sessionCommand d session ctr tagOk packet else sessionDrop d) s.start).memOut = [] := (event_sessionCommand_touch s.start session ctr tagOk packet).same .memOut rfl
  simp only [exec, execSessionCommand]
  exact nextDev_become s (fun (d : Dev) => if session < 8 then sessionCommand d session ctr tagOk packet else sessionDrop d) hm_

theorem event_sessionClose_touch (d : Dev) (session ctr : Nat) (tagOk : Bool) : Touches [.out, .sys, .staged, .sess] d ((fun (d : Dev) =>
    if session ≥ 8 ∨ ¬ sessionsOn d ∨ (sessOf d session).st ≠ .opened ∨ ¬ tagOk ∨ ctr ≤ (sessOf d session).rxCtr.toNat then sessionDrop d
    else sessionClose d session) d) := by
  beta_reduce
  repeat' first
    | with_reducible assumption
    | with_reducible exact Touches.refl
    | ((try lift_lets -underBinder); intro d_; refine (have hd_ : Touches [.out, .sys, .staged, .sess] d d_ := ?_; ?_); (on_goal 1 => try dsimp only [d_]); (on_goal 2 => clear_value d_))
    | ((try lift_lets -underBinder); intro d_; try clear_value d_)
    | exact Eq.refl true
    | with_reducible refine Touches.andThen ?_ (by with_reducible exact sessionDrop_touch ..) ?_
    | with_reducible refine Touches.andThen ?_ (by with_reducible exact sessionClose_touch ..) ?_
    | split
    | dsimp -zeta only
    | (split at ‹ite _ _ _ = (_, _)›)
    | (cases ‹(_, _) = (_, _)›)

theorem exec_sessionClose (s : State) (session ctr : Nat) (tagOk : Bool) : exec (.sessionClose session ctr tagOk) s = s.become ((fun (d : Dev) =>
    if session ≥ 8 ∨ ¬ sessionsOn d ∨ (sessOf d session).st ≠ .opened ∨ ¬ tagOk ∨ ctr ≤ (sessOf d session).rxCtr.toNat then sessionDrop d
    else sessionClose d session) s.start) := by
  have hm_ : ((fun (d : Dev) =>
    if session ≥ 8 ∨ ¬ sessionsOn d ∨ (sessOf d session).st ≠ .opened ∨ ¬ tagOk ∨ ctr ≤ (sessOf d session).rxCtr.toNat then sessionDrop d
    else sessionClose d session) s.start).memOut = [] := (event_sessionClose_touch s.start session ctr tagOk).same .memOut rfl
  simp only [exec, execSessionClose]
  exact nextDev_become s (fun (d : Dev) =>
    if session ≥ 8 ∨ ¬ sessionsOn d ∨ (sessOf d session).st ≠ .opened ∨ ¬ tagOk ∨ ctr ≤ (sessOf d session).rxCtr.toNat then sessionDrop d
    else sessionClose d session) hm_

theorem event_sessionIdleTimeout_touch (d : Dev) (session : Nat) : Touches [.out, .sys, .staged, .sess] d ((fun (d : Dev) => if (sessOf d session).st = .opened then sessionClose d session else d) d) := by
  beta_reduce
  repeat' first
    | with_reducible assumption
    | with_reducible exact Touches.refl
    | ((try lift_lets -underBinder); intro d_; refine (have hd_ : Touches [.out, .sys, .staged, .sess] d d_ := ?_; ?_); (on_goal 1 => try dsimp only [d_]); (on_goal 2 => clear_value d_))
    | ((try lift_lets -underBinder); intro d_; try clear_value d_)
    | exact Eq.refl true
    | with_reducible refine Touches.andThen ?_ (by with_reducible exact sessionClose_touch ..) ?_
    | split
    | dsimp -zeta only
    | (split at ‹ite _ _ _ = (_, _)›)
    | (cases ‹(_, _) = (_, _)›)

theorem exec_sessionIdleTimeout (s : State) (session : Nat) : exec (.sessionIdleTimeout session) s = s.become ((fun (d : Dev) => if (sessOf d session).st = .opened then sessionClose d session else d) s.start) := by
  have hm_ : ((fun (d : Dev) => if (sessOf d session).st = .opened then sessionClose d session else d) s.start).memOut = [] := (event_sessionIdleTimeout_touch s.start session).same .memOut rfl
  simp only [exec, execSessionIdleTimeout]
  exact nextDev_become s (fun (d : Dev) => if (sessOf d session).st = .opened then sessionClose d session else d) hm_

theorem event_sessionProofTimeout_touch (d : Dev) (session : Nat) : Touches [.sys, .sess] d ((fun (d : Dev) => if (sessOf d session).st = .challenged then onSess d session (fun _ => Sess.reset) else d) d) := by
  beta_reduce
  repeat' first
    | with_reducible assumption
    | with_reducible exact Touches.refl
    | ((try lift_lets -underBinder); intro d_; refine (have hd_ : Touches [.sys, .sess] d d_ := ?_; ?_); (on_goal 1 => try dsimp only [d_]); (on_goal 2 => clear_value d_))
    | ((try lift_lets -underBinder); intro d_; try clear_value d_)
    | exact Eq.refl true
    | with_reducible refine Touches.andThen ?_ (by with_reducible exact onSess_touch ..) ?_
    | split
    | dsimp -zeta only
    | (split at ‹ite _ _ _ = (_, _)›)
    | (cases ‹(_, _) = (_, _)›)

theorem exec_sessionProofTimeout (s : State) (session : Nat) : exec (.sessionProofTimeout session) s = s.become ((fun (d : Dev) => if (sessOf d session).st = .challenged then onSess d session (fun _ => Sess.reset) else d) s.start) := by
  have hm_ : ((fun (d : Dev) => if (sessOf d session).st = .challenged then onSess d session (fun _ => Sess.reset) else d) s.start).memOut = [] := (event_sessionProofTimeout_touch s.start session).same .memOut rfl
  simp only [exec, execSessionProofTimeout]
  exact nextDev_become s (fun (d : Dev) => if (sessOf d session).st = .challenged then onSess d session (fun _ => Sess.reset) else d) hm_

theorem event_fwStoreWriteDone_touch (d : Dev)  : Touches [.out, .sys, .rings, .sess, .fold] d ((fwStoreDone) d) := by
  beta_reduce
  repeat' first
    | with_reducible assumption
    | with_reducible exact Touches.refl
    | ((try lift_lets -underBinder); intro d_; refine (have hd_ : Touches [.out, .sys, .rings, .sess, .fold] d d_ := ?_; ?_); (on_goal 1 => try dsimp only [d_]); (on_goal 2 => clear_value d_))
    | ((try lift_lets -underBinder); intro d_; try clear_value d_)
    | exact Eq.refl true
    | with_reducible refine Touches.andThen ?_ (by with_reducible exact fwStoreDone_touch ..) ?_
    | split
    | dsimp -zeta only
    | (split at ‹ite _ _ _ = (_, _)›)
    | (cases ‹(_, _) = (_, _)›)

theorem exec_fwStoreWriteDone (s : State)  : exec .fwStoreWriteDone s = s.become ((fwStoreDone) s.start) := by
  have hm_ : ((fwStoreDone) s.start).memOut = [] := (event_fwStoreWriteDone_touch s.start ).same .memOut rfl
  simp only [exec, execFwStoreWriteDone]
  exact nextDev_become s (fwStoreDone) hm_

theorem event_porNAssert_touch (d : Dev)  : Touches [.freeCtr, .out, .memOut, .sys, .epoch, .staged, .rings, .sess, .bell, .tick, .past, .fold, .otp, .resetReq, .pwr, .aux, .pins, .parse, .tm, .cli, .flock, .acc, .media, .aud, .vid, .imc, .casc, .lane, .drove, .integ] d ((deviceReset) d) := by
  beta_reduce
  repeat' first
    | with_reducible assumption
    | with_reducible exact Touches.refl
    | ((try lift_lets -underBinder); intro d_; refine (have hd_ : Touches [.freeCtr, .out, .memOut, .sys, .epoch, .staged, .rings, .sess, .bell, .tick, .past, .fold, .otp, .resetReq, .pwr, .aux, .pins, .parse, .tm, .cli, .flock, .acc, .media, .aud, .vid, .imc, .casc, .lane, .drove, .integ] d d_ := ?_; ?_); (on_goal 1 => try dsimp only [d_]); (on_goal 2 => clear_value d_))
    | ((try lift_lets -underBinder); intro d_; try clear_value d_)
    | exact Eq.refl true
    | with_reducible refine Touches.andThen ?_ (by with_reducible exact deviceReset_touch ..) ?_
    | split
    | dsimp -zeta only
    | (split at ‹ite _ _ _ = (_, _)›)
    | (cases ‹(_, _) = (_, _)›)

theorem event_supplyDip_touch (d : Dev)  : Touches [.freeCtr, .out, .memOut, .sys, .epoch, .staged, .rings, .sess, .bell, .tick, .past, .fold, .otp, .resetReq, .pwr, .aux, .pins, .parse, .tm, .cli, .flock, .acc, .media, .aud, .vid, .imc, .casc, .lane, .drove, .integ] d ((deviceReset) d) := by
  beta_reduce
  repeat' first
    | with_reducible assumption
    | with_reducible exact Touches.refl
    | ((try lift_lets -underBinder); intro d_; refine (have hd_ : Touches [.freeCtr, .out, .memOut, .sys, .epoch, .staged, .rings, .sess, .bell, .tick, .past, .fold, .otp, .resetReq, .pwr, .aux, .pins, .parse, .tm, .cli, .flock, .acc, .media, .aud, .vid, .imc, .casc, .lane, .drove, .integ] d d_ := ?_; ?_); (on_goal 1 => try dsimp only [d_]); (on_goal 2 => clear_value d_))
    | ((try lift_lets -underBinder); intro d_; try clear_value d_)
    | exact Eq.refl true
    | with_reducible refine Touches.andThen ?_ (by with_reducible exact deviceReset_touch ..) ?_
    | split
    | dsimp -zeta only
    | (split at ‹ite _ _ _ = (_, _)›)
    | (cases ‹(_, _) = (_, _)›)

theorem event_thermtrip_touch (d : Dev)  : Touches [.freeCtr, .out, .memOut, .sys, .epoch, .staged, .rings, .sess, .bell, .tick, .past, .fold, .otp, .resetReq, .pwr, .aux, .pins, .parse, .tm, .cli, .flock, .acc, .media, .aud, .vid, .imc, .casc, .lane, .drove, .integ] d ((fun (d : Dev) => deviceReset (onPins d (fun p => { p with thermTrip := true }))) d) := by
  beta_reduce
  repeat' first
    | with_reducible assumption
    | with_reducible exact Touches.refl
    | ((try lift_lets -underBinder); intro d_; refine (have hd_ : Touches [.freeCtr, .out, .memOut, .sys, .epoch, .staged, .rings, .sess, .bell, .tick, .past, .fold, .otp, .resetReq, .pwr, .aux, .pins, .parse, .tm, .cli, .flock, .acc, .media, .aud, .vid, .imc, .casc, .lane, .drove, .integ] d d_ := ?_; ?_); (on_goal 1 => try dsimp only [d_]); (on_goal 2 => clear_value d_))
    | ((try lift_lets -underBinder); intro d_; try clear_value d_)
    | exact Eq.refl true
    | with_reducible refine Touches.andThen ?_ (by with_reducible exact onPins_touch ..) ?_
    | with_reducible refine Touches.andThen ?_ (by with_reducible exact deviceReset_touch ..) ?_
    | split
    | dsimp -zeta only
    | (split at ‹ite _ _ _ = (_, _)›)
    | (cases ‹(_, _) = (_, _)›)

theorem event_thermtripClear_touch (d : Dev)  : Touches [.pins] d ((fun (d : Dev) => onPins d (fun p => { p with thermTrip := false })) d) := by
  beta_reduce
  repeat' first
    | with_reducible assumption
    | with_reducible exact Touches.refl
    | ((try lift_lets -underBinder); intro d_; refine (have hd_ : Touches [.pins] d d_ := ?_; ?_); (on_goal 1 => try dsimp only [d_]); (on_goal 2 => clear_value d_))
    | ((try lift_lets -underBinder); intro d_; try clear_value d_)
    | exact Eq.refl true
    | with_reducible refine Touches.andThen ?_ (by with_reducible exact onPins_touch ..) ?_
    | split
    | dsimp -zeta only
    | (split at ‹ite _ _ _ = (_, _)›)
    | (cases ‹(_, _) = (_, _)›)

theorem exec_thermtripClear (s : State)  : exec .thermtripClear s = s.become ((fun (d : Dev) => onPins d (fun p => { p with thermTrip := false })) s.start) := by
  have hm_ : ((fun (d : Dev) => onPins d (fun p => { p with thermTrip := false })) s.start).memOut = [] := (event_thermtripClear_touch s.start ).same .memOut rfl
  simp only [exec, execThermtripClear]
  exact nextDev_become s (fun (d : Dev) => onPins d (fun p => { p with thermTrip := false })) hm_

theorem event_perstN_touch (d : Dev)  : Touches [.out, .sys, .rings] d ((pcieReset) d) := by
  beta_reduce
  repeat' first
    | with_reducible assumption
    | with_reducible exact Touches.refl
    | ((try lift_lets -underBinder); intro d_; refine (have hd_ : Touches [.out, .sys, .rings] d d_ := ?_; ?_); (on_goal 1 => try dsimp only [d_]); (on_goal 2 => clear_value d_))
    | ((try lift_lets -underBinder); intro d_; try clear_value d_)
    | exact Eq.refl true
    | with_reducible refine Touches.andThen ?_ (by with_reducible exact pcieReset_touch ..) ?_
    | split
    | dsimp -zeta only
    | (split at ‹ite _ _ _ = (_, _)›)
    | (cases ‹(_, _) = (_, _)›)

theorem exec_perstN (s : State)  : exec .perstN s = s.become ((pcieReset) s.start) := by
  have hm_ : ((pcieReset) s.start).memOut = [] := (event_perstN_touch s.start ).same .memOut rfl
  simp only [exec, execPerstN]
  exact nextDev_become s (pcieReset) hm_

theorem event_pcieLinkL0_touch (d : Dev)  : Touches [.pins] d ((fun (d : Dev) => onPins d (fun p => { p with pcieWake := false })) d) := by
  beta_reduce
  repeat' first
    | with_reducible assumption
    | with_reducible exact Touches.refl
    | ((try lift_lets -underBinder); intro d_; refine (have hd_ : Touches [.pins] d d_ := ?_; ?_); (on_goal 1 => try dsimp only [d_]); (on_goal 2 => clear_value d_))
    | ((try lift_lets -underBinder); intro d_; try clear_value d_)
    | exact Eq.refl true
    | with_reducible refine Touches.andThen ?_ (by with_reducible exact onPins_touch ..) ?_
    | split
    | dsimp -zeta only
    | (split at ‹ite _ _ _ = (_, _)›)
    | (cases ‹(_, _) = (_, _)›)

theorem exec_pcieLinkL0 (s : State)  : exec .pcieLinkL0 s = s.become ((fun (d : Dev) => onPins d (fun p => { p with pcieWake := false })) s.start) := by
  have hm_ : ((fun (d : Dev) => onPins d (fun p => { p with pcieWake := false })) s.start).memOut = [] := (event_pcieLinkL0_touch s.start ).same .memOut rfl
  simp only [exec, execPcieLinkL0]
  exact nextDev_become s (fun (d : Dev) => onPins d (fun p => { p with pcieWake := false })) hm_

theorem event_boot_touch (d : Dev) (strapped selfTestOk : Bool) (rows : List (Nat × Nat)) (engines : List Nat) (image : ImageDesc) : Touches [.out, .sys, .fold, .pins, .flock, .integ] d ((boot strapped selfTestOk rows engines image) d) := by
  beta_reduce
  repeat' first
    | with_reducible assumption
    | with_reducible exact Touches.refl
    | ((try lift_lets -underBinder); intro d_; refine (have hd_ : Touches [.out, .sys, .fold, .pins, .flock, .integ] d d_ := ?_; ?_); (on_goal 1 => try dsimp only [d_]); (on_goal 2 => clear_value d_))
    | ((try lift_lets -underBinder); intro d_; try clear_value d_)
    | exact Eq.refl true
    | with_reducible refine Touches.andThen ?_ (by with_reducible exact boot_touch ..) ?_
    | split
    | dsimp -zeta only
    | (split at ‹ite _ _ _ = (_, _)›)
    | (cases ‹(_, _) = (_, _)›)

theorem exec_boot (s : State) (strapped selfTestOk : Bool) (rows : List (Nat × Nat)) (engines : List Nat) (image : ImageDesc) : exec (.boot strapped selfTestOk rows engines image) s = s.become ((boot strapped selfTestOk rows engines image) s.start) := by
  have hm_ : ((boot strapped selfTestOk rows engines image) s.start).memOut = [] := (event_boot_touch s.start strapped selfTestOk rows engines image).same .memOut rfl
  simp only [exec, execBoot]
  exact nextDev_become s (boot strapped selfTestOk rows engines image) hm_

theorem event_domainUpDone_touch (d : Dev) (domain : Nat) : Touches [.out, .sys, .rings, .sess, .pwr, .aux, .flock] d ((domainUpDone domain) d) := by
  beta_reduce
  repeat' first
    | with_reducible assumption
    | with_reducible exact Touches.refl
    | ((try lift_lets -underBinder); intro d_; refine (have hd_ : Touches [.out, .sys, .rings, .sess, .pwr, .aux, .flock] d d_ := ?_; ?_); (on_goal 1 => try dsimp only [d_]); (on_goal 2 => clear_value d_))
    | ((try lift_lets -underBinder); intro d_; try clear_value d_)
    | exact Eq.refl true
    | with_reducible refine Touches.andThen ?_ (by with_reducible exact domainUpDone_touch ..) ?_
    | split
    | dsimp -zeta only
    | (split at ‹ite _ _ _ = (_, _)›)
    | (cases ‹(_, _) = (_, _)›)

theorem exec_domainUpDone (s : State) (domain : Nat) : exec (.domainUpDone domain) s = s.become ((domainUpDone domain) s.start) := by
  have hm_ : ((domainUpDone domain) s.start).memOut = [] := (event_domainUpDone_touch s.start domain).same .memOut rfl
  simp only [exec, execDomainUpDone]
  exact nextDev_become s (domainUpDone domain) hm_

theorem event_domainDownDone_touch (d : Dev) (domain : Nat) : Touches [.out, .sys, .rings, .sess, .pwr] d ((domainDownDone domain) d) := by
  beta_reduce
  repeat' first
    | with_reducible assumption
    | with_reducible exact Touches.refl
    | ((try lift_lets -underBinder); intro d_; refine (have hd_ : Touches [.out, .sys, .rings, .sess, .pwr] d d_ := ?_; ?_); (on_goal 1 => try dsimp only [d_]); (on_goal 2 => clear_value d_))
    | ((try lift_lets -underBinder); intro d_; try clear_value d_)
    | exact Eq.refl true
    | with_reducible refine Touches.andThen ?_ (by with_reducible exact domainDownDone_touch ..) ?_
    | split
    | dsimp -zeta only
    | (split at ‹ite _ _ _ = (_, _)›)
    | (cases ‹(_, _) = (_, _)›)

theorem exec_domainDownDone (s : State) (domain : Nat) : exec (.domainDownDone domain) s = s.become ((domainDownDone domain) s.start) := by
  have hm_ : ((domainDownDone domain) s.start).memOut = [] := (event_domainDownDone_touch s.start domain).same .memOut rfl
  simp only [exec, execDomainDownDone]
  exact nextDev_become s (domainDownDone domain) hm_

theorem event_winterReady_touch (d : Dev)  : Touches [.out, .sys, .rings, .sess, .pwr, .tm, .acc] d ((winterReady) d) := by
  beta_reduce
  repeat' first
    | with_reducible assumption
    | with_reducible exact Touches.refl
    | ((try lift_lets -underBinder); intro d_; refine (have hd_ : Touches [.out, .sys, .rings, .sess, .pwr, .tm, .acc] d d_ := ?_; ?_); (on_goal 1 => try dsimp only [d_]); (on_goal 2 => clear_value d_))
    | ((try lift_lets -underBinder); intro d_; try clear_value d_)
    | exact Eq.refl true
    | with_reducible refine Touches.andThen ?_ (by with_reducible exact winterReady_touch ..) ?_
    | split
    | dsimp -zeta only
    | (split at ‹ite _ _ _ = (_, _)›)
    | (cases ‹(_, _) = (_, _)›)

theorem exec_winterReady (s : State)  : exec .winterReady s = s.become ((winterReady) s.start) := by
  have hm_ : ((winterReady) s.start).memOut = [] := (event_winterReady_touch s.start ).same .memOut rfl
  simp only [exec, execWinterReady]
  exact nextDev_become s (winterReady) hm_

theorem event_pmeTurnOff_touch (d : Dev)  : Touches [.out, .sys, .pwr, .aux] d ((pmeTurnOff) d) := by
  beta_reduce
  repeat' first
    | with_reducible assumption
    | with_reducible exact Touches.refl
    | ((try lift_lets -underBinder); intro d_; refine (have hd_ : Touches [.out, .sys, .pwr, .aux] d d_ := ?_; ?_); (on_goal 1 => try dsimp only [d_]); (on_goal 2 => clear_value d_))
    | ((try lift_lets -underBinder); intro d_; try clear_value d_)
    | exact Eq.refl true
    | with_reducible refine Touches.andThen ?_ (by with_reducible exact pmeTurnOff_touch ..) ?_
    | split
    | dsimp -zeta only
    | (split at ‹ite _ _ _ = (_, _)›)
    | (cases ‹(_, _) = (_, _)›)

theorem exec_pmeTurnOff (s : State)  : exec .pmeTurnOff s = s.become ((pmeTurnOff) s.start) := by
  have hm_ : ((pmeTurnOff) s.start).memOut = [] := (event_pmeTurnOff_touch s.start ).same .memOut rfl
  simp only [exec, execPmeTurnOff]
  exact nextDev_become s (pmeTurnOff) hm_

theorem event_linkWaitExpiry_touch (d : Dev)  : Touches [.out, .sys, .rings, .sess, .pwr, .aux] d (((fun (d : Dev) => match d.pwr.winter with
    | some w => if w.step = 3 ∧ d.pwr.phase = .entering then abortEntry 2 noWake d else d
    | none => d) : Dev → Dev) d) := by
  beta_reduce
  repeat' first
    | with_reducible assumption
    | with_reducible exact Touches.refl
    | ((try lift_lets -underBinder); intro d_; refine (have hd_ : Touches [.out, .sys, .rings, .sess, .pwr, .aux] d d_ := ?_; ?_); (on_goal 1 => try dsimp only [d_]); (on_goal 2 => clear_value d_))
    | ((try lift_lets -underBinder); intro d_; try clear_value d_)
    | exact Eq.refl true
    | with_reducible refine Touches.andThen ?_ (by with_reducible exact abortEntry_touch ..) ?_
    | split
    | dsimp -zeta only
    | (split at ‹ite _ _ _ = (_, _)›)
    | (cases ‹(_, _) = (_, _)›)

theorem exec_linkWaitExpiry (s : State)  : exec .linkWaitExpiry s = s.become (((fun (d : Dev) => match d.pwr.winter with
    | some w => if w.step = 3 ∧ d.pwr.phase = .entering then abortEntry 2 noWake d else d
    | none => d) : Dev → Dev) s.start) := by
  have hm_ : (((fun (d : Dev) => match d.pwr.winter with
    | some w => if w.step = 3 ∧ d.pwr.phase = .entering then abortEntry 2 noWake d else d
    | none => d) : Dev → Dev) s.start).memOut = [] := (event_linkWaitExpiry_touch s.start ).same .memOut rfl
  simp only [exec, execLinkWaitExpiry]
  exact nextDev_become s ((fun (d : Dev) => match d.pwr.winter with
    | some w => if w.step = 3 ∧ d.pwr.phase = .entering then abortEntry 2 noWake d else d
    | none => d) : Dev → Dev) hm_

theorem event_wakePin_touch (d : Dev) (pin : Nat) (a b c : Bool) : Touches [.out, .sys, .rings, .sess, .pwr, .aux] d ((fun (d : Dev) => if pin < 4 then wakePin pin a b c d else d) d) := by
  beta_reduce
  repeat' first
    | with_reducible assumption
    | with_reducible exact Touches.refl
    | ((try lift_lets -underBinder); intro d_; refine (have hd_ : Touches [.out, .sys, .rings, .sess, .pwr, .aux] d d_ := ?_; ?_); (on_goal 1 => try dsimp only [d_]); (on_goal 2 => clear_value d_))
    | ((try lift_lets -underBinder); intro d_; try clear_value d_)
    | exact Eq.refl true
    | with_reducible refine Touches.andThen ?_ (by with_reducible exact wakePin_touch ..) ?_
    | split
    | dsimp -zeta only
    | (split at ‹ite _ _ _ = (_, _)›)
    | (cases ‹(_, _) = (_, _)›)

theorem exec_wakePin (s : State) (pin : Nat) (a b c : Bool) : exec (.wakePin pin a b c) s = s.become ((fun (d : Dev) => if pin < 4 then wakePin pin a b c d else d) s.start) := by
  have hm_ : ((fun (d : Dev) => if pin < 4 then wakePin pin a b c d else d) s.start).memOut = [] := (event_wakePin_touch s.start pin a b c).same .memOut rfl
  simp only [exec, execWakePin]
  exact nextDev_become s (fun (d : Dev) => if pin < 4 then wakePin pin a b c d else d) hm_

theorem event_wakeHeadEnd_touch (d : Dev)  : Touches [.out, .sys, .rings, .sess, .pwr, .aux] d ((fun (d : Dev) => if d.pwr.wakeCtrl.getLsbD 16 then wakeActs { noWake with headEnd := true } false d else d) d) := by
  beta_reduce
  repeat' first
    | with_reducible assumption
    | with_reducible exact Touches.refl
    | ((try lift_lets -underBinder); intro d_; refine (have hd_ : Touches [.out, .sys, .rings, .sess, .pwr, .aux] d d_ := ?_; ?_); (on_goal 1 => try dsimp only [d_]); (on_goal 2 => clear_value d_))
    | ((try lift_lets -underBinder); intro d_; try clear_value d_)
    | exact Eq.refl true
    | with_reducible refine Touches.andThen ?_ (by with_reducible exact wakeActs_touch ..) ?_
    | split
    | dsimp -zeta only
    | (split at ‹ite _ _ _ = (_, _)›)
    | (cases ‹(_, _) = (_, _)›)

theorem exec_wakeHeadEnd (s : State)  : exec .wakeHeadEnd s = s.become ((fun (d : Dev) => if d.pwr.wakeCtrl.getLsbD 16 then wakeActs { noWake with headEnd := true } false d else d) s.start) := by
  have hm_ : ((fun (d : Dev) => if d.pwr.wakeCtrl.getLsbD 16 then wakeActs { noWake with headEnd := true } false d else d) s.start).memOut = [] := (event_wakeHeadEnd_touch s.start ).same .memOut rfl
  simp only [exec, execWakeHeadEnd]
  exact nextDev_become s (fun (d : Dev) => if d.pwr.wakeCtrl.getLsbD 16 then wakeActs { noWake with headEnd := true } false d else d) hm_

theorem event_wakeAlarm_touch (d : Dev) (count : BitVec 48) : Touches [.out, .sys, .rings, .sess, .bell, .pwr, .aux] d ((fun (d : Dev) =>
    let d := onBell d (fun b => { b with sleep := { b.sleep with cnt := count } })
    if d.pwr.alarmEn ∧ (count - d.pwr.alarm).toNat < 2 ^ 47 then wakeActs { noWake with alarm := true } false d else d) d) := by
  beta_reduce
  repeat' first
    | with_reducible assumption
    | with_reducible exact Touches.refl
    | ((try lift_lets -underBinder); intro d_; refine (have hd_ : Touches [.out, .sys, .rings, .sess, .bell, .pwr, .aux] d d_ := ?_; ?_); (on_goal 1 => try dsimp only [d_]); (on_goal 2 => clear_value d_))
    | ((try lift_lets -underBinder); intro d_; try clear_value d_)
    | exact Eq.refl true
    | with_reducible refine onBell_step ?_ ?_ ?_
    | with_reducible refine Touches.andThen ?_ (by with_reducible exact wakeActs_touch ..) ?_
    | exact partOr_left rfl
    | exact .inr rfl
    | exact .inr (by (repeat' split) <;> rfl)
    | split
    | dsimp -zeta only
    | (split at ‹ite _ _ _ = (_, _)›)
    | (cases ‹(_, _) = (_, _)›)

theorem exec_wakeAlarm (s : State) (count : BitVec 48) : exec (.wakeAlarm count) s = s.become ((fun (d : Dev) =>
    let d := onBell d (fun b => { b with sleep := { b.sleep with cnt := count } })
    if d.pwr.alarmEn ∧ (count - d.pwr.alarm).toNat < 2 ^ 47 then wakeActs { noWake with alarm := true } false d else d) s.start) := by
  have hm_ : ((fun (d : Dev) =>
    let d := onBell d (fun b => { b with sleep := { b.sleep with cnt := count } })
    if d.pwr.alarmEn ∧ (count - d.pwr.alarm).toNat < 2 ^ 47 then wakeActs { noWake with alarm := true } false d else d) s.start).memOut = [] := (event_wakeAlarm_touch s.start count).same .memOut rfl
  simp only [exec, execWakeAlarm]
  exact nextDev_become s (fun (d : Dev) =>
    let d := onBell d (fun b => { b with sleep := { b.sleep with cnt := count } })
    if d.pwr.alarmEn ∧ (count - d.pwr.alarm).toNat < 2 ^ 47 then wakeActs { noWake with alarm := true } false d else d) hm_

theorem event_coreHeartbeatLoss_touch (d : Dev)  : Touches [.out, .pwr, .aux] d ((fun (d : Dev) => if d.pwr.season = .winter ∧ d.pwr.phase = .steady then beginThaw { noWake with core := true } d else d) d) := by
  beta_reduce
  repeat' first
    | with_reducible assumption
    | with_reducible exact Touches.refl
    | ((try lift_lets -underBinder); intro d_; refine (have hd_ : Touches [.out, .pwr, .aux] d d_ := ?_; ?_); (on_goal 1 => try dsimp only [d_]); (on_goal 2 => clear_value d_))
    | ((try lift_lets -underBinder); intro d_; try clear_value d_)
    | exact Eq.refl true
    | with_reducible refine Touches.andThen ?_ (by with_reducible exact beginThaw_touch ..) ?_
    | split
    | dsimp -zeta only
    | (split at ‹ite _ _ _ = (_, _)›)
    | (cases ‹(_, _) = (_, _)›)

theorem exec_coreHeartbeatLoss (s : State)  : exec .coreHeartbeatLoss s = s.become ((fun (d : Dev) => if d.pwr.season = .winter ∧ d.pwr.phase = .steady then beginThaw { noWake with core := true } d else d) s.start) := by
  have hm_ : ((fun (d : Dev) => if d.pwr.season = .winter ∧ d.pwr.phase = .steady then beginThaw { noWake with core := true } d else d) s.start).memOut = [] := (event_coreHeartbeatLoss_touch s.start ).same .memOut rfl
  simp only [exec, execCoreHeartbeatLoss]
  exact nextDev_become s (fun (d : Dev) => if d.pwr.season = .winter ∧ d.pwr.phase = .steady then beginThaw { noWake with core := true } d else d) hm_

theorem event_winterCommit_touch (d : Dev) (count : BitVec 48) : Touches [.out, .sys, .staged, .sess, .bell, .past, .pwr, .aux, .pins, .parse, .tm, .cli, .flock, .acc, .media, .aud, .vid, .casc, .lane, .drove, .integ] d ((winterCommit count) d) := by
  beta_reduce
  repeat' first
    | with_reducible assumption
    | with_reducible exact Touches.refl
    | ((try lift_lets -underBinder); intro d_; refine (have hd_ : Touches [.out, .sys, .staged, .sess, .bell, .past, .pwr, .aux, .pins, .parse, .tm, .cli, .flock, .acc, .media, .aud, .vid, .casc, .lane, .drove, .integ] d d_ := ?_; ?_); (on_goal 1 => try dsimp only [d_]); (on_goal 2 => clear_value d_))
    | ((try lift_lets -underBinder); intro d_; try clear_value d_)
    | exact Eq.refl true
    | with_reducible refine Touches.andThen ?_ (by with_reducible exact winterCommit_touch ..) ?_
    | split
    | dsimp -zeta only
    | (split at ‹ite _ _ _ = (_, _)›)
    | (cases ‹(_, _) = (_, _)›)

theorem exec_winterCommit (s : State) (count : BitVec 48) : exec (.winterCommit count) s = s.become ((winterCommit count) s.start) := by
  have hm_ : ((winterCommit count) s.start).memOut = [] := (event_winterCommit_touch s.start count).same .memOut rfl
  simp only [exec, execWinterCommit]
  exact nextDev_become s (winterCommit count) hm_

theorem event_avsStatusPoll_touch (d : Dev) (ack : Nat) (vdone expired : Bool) : Touches [.freeCtr, .out, .memOut, .sys, .epoch, .staged, .rings, .sess, .bell, .tick, .past, .fold, .otp, .resetReq, .pwr, .aux, .pins, .parse, .tm, .cli, .flock, .acc, .media, .aud, .vid, .imc, .casc, .lane, .drove, .integ] d ((avsPoll ack vdone expired) d) := by
  beta_reduce
  repeat' first
    | with_reducible assumption
    | with_reducible exact Touches.refl
    | ((try lift_lets -underBinder); intro d_; refine (have hd_ : Touches [.freeCtr, .out, .memOut, .sys, .epoch, .staged, .rings, .sess, .bell, .tick, .past, .fold, .otp, .resetReq, .pwr, .aux, .pins, .parse, .tm, .cli, .flock, .acc, .media, .aud, .vid, .imc, .casc, .lane, .drove, .integ] d d_ := ?_; ?_); (on_goal 1 => try dsimp only [d_]); (on_goal 2 => clear_value d_))
    | ((try lift_lets -underBinder); intro d_; try clear_value d_)
    | exact Eq.refl true
    | with_reducible refine Touches.andThen ?_ (by with_reducible exact avsPoll_touch ..) ?_
    | split
    | dsimp -zeta only
    | (split at ‹ite _ _ _ = (_, _)›)
    | (cases ‹(_, _) = (_, _)›)

theorem event_thaw_touch (d : Dev) (count : BitVec 48) : Touches [.out, .sys, .bell, .tick, .fold, .pwr, .pins, .flock, .acc, .integ] d ((thaw count) d) := by
  beta_reduce
  repeat' first
    | with_reducible assumption
    | with_reducible exact Touches.refl
    | ((try lift_lets -underBinder); intro d_; refine (have hd_ : Touches [.out, .sys, .bell, .tick, .fold, .pwr, .pins, .flock, .acc, .integ] d d_ := ?_; ?_); (on_goal 1 => try dsimp only [d_]); (on_goal 2 => clear_value d_))
    | ((try lift_lets -underBinder); intro d_; try clear_value d_)
    | exact Eq.refl true
    | with_reducible refine Touches.andThen ?_ (by with_reducible exact thaw_touch ..) ?_
    | split
    | dsimp -zeta only
    | (split at ‹ite _ _ _ = (_, _)›)
    | (cases ‹(_, _) = (_, _)›)

theorem exec_thaw (s : State) (count : BitVec 48) : exec (.thaw count) s = s.become ((thaw count) s.start) := by
  have hm_ : ((thaw count) s.start).memOut = [] := (event_thaw_touch s.start count).same .memOut rfl
  simp only [exec, execThaw]
  exact nextDev_become s (thaw count) hm_

theorem event_thawDone_touch (d : Dev)  : Touches [.out, .sys, .rings, .sess, .pwr, .aux, .pins, .cli, .flock, .lane] d ((thawDone) d) := by
  beta_reduce
  repeat' first
    | with_reducible assumption
    | with_reducible exact Touches.refl
    | ((try lift_lets -underBinder); intro d_; refine (have hd_ : Touches [.out, .sys, .rings, .sess, .pwr, .aux, .pins, .cli, .flock, .lane] d d_ := ?_; ?_); (on_goal 1 => try dsimp only [d_]); (on_goal 2 => clear_value d_))
    | ((try lift_lets -underBinder); intro d_; try clear_value d_)
    | exact Eq.refl true
    | with_reducible refine Touches.andThen ?_ (by with_reducible exact thawDone_touch ..) ?_
    | split
    | dsimp -zeta only
    | (split at ‹ite _ _ _ = (_, _)›)
    | (cases ‹(_, _) = (_, _)›)

theorem exec_thawDone (s : State)  : exec .thawDone s = s.become ((thawDone) s.start) := by
  have hm_ : ((thawDone) s.start).memOut = [] := (event_thawDone_touch s.start ).same .memOut rfl
  simp only [exec, execThawDone]
  exact nextDev_become s (thawDone) hm_

theorem event_seasonSummerReady_touch (d : Dev)  : Touches [.out, .sys, .pwr, .aux] d ((summerReady) d) := by
  beta_reduce
  repeat' first
    | with_reducible assumption
    | with_reducible exact Touches.refl
    | ((try lift_lets -underBinder); intro d_; refine (have hd_ : Touches [.out, .sys, .pwr, .aux] d d_ := ?_; ?_); (on_goal 1 => try dsimp only [d_]); (on_goal 2 => clear_value d_))
    | ((try lift_lets -underBinder); intro d_; try clear_value d_)
    | exact Eq.refl true
    | with_reducible refine Touches.andThen ?_ (by with_reducible exact summerReady_touch ..) ?_
    | split
    | dsimp -zeta only
    | (split at ‹ite _ _ _ = (_, _)›)
    | (cases ‹(_, _) = (_, _)›)

theorem exec_seasonSummerReady (s : State)  : exec .seasonSummerReady s = s.become ((summerReady) s.start) := by
  have hm_ : ((summerReady) s.start).memOut = [] := (event_seasonSummerReady_touch s.start ).same .memOut rfl
  simp only [exec, execSeasonSummerReady]
  exact nextDev_become s (summerReady) hm_

theorem event_autumnEvaluate_touch (d : Dev)  : Touches [.pwr, .aux] d ((autumnEvaluate) d) := by
  beta_reduce
  repeat' first
    | with_reducible assumption
    | with_reducible exact Touches.refl
    | ((try lift_lets -underBinder); intro d_; refine (have hd_ : Touches [.pwr, .aux] d d_ := ?_; ?_); (on_goal 1 => try dsimp only [d_]); (on_goal 2 => clear_value d_))
    | ((try lift_lets -underBinder); intro d_; try clear_value d_)
    | exact Eq.refl true
    | with_reducible refine Touches.andThen ?_ (by with_reducible exact autumnEvaluate_touch ..) ?_
    | split
    | dsimp -zeta only
    | (split at ‹ite _ _ _ = (_, _)›)
    | (cases ‹(_, _) = (_, _)›)

theorem exec_autumnEvaluate (s : State)  : exec .autumnEvaluate s = s.become ((autumnEvaluate) s.start) := by
  have hm_ : ((autumnEvaluate) s.start).memOut = [] := (event_autumnEvaluate_touch s.start ).same .memOut rfl
  simp only [exec, execAutumnEvaluate]
  exact nextDev_become s (autumnEvaluate) hm_

theorem event_autumnGateGroup_touch (d : Dev)  : Touches [.out, .sys, .pwr, .aux, .flock] d ((autumnGate) d) := by
  beta_reduce
  repeat' first
    | with_reducible assumption
    | with_reducible exact Touches.refl
    | ((try lift_lets -underBinder); intro d_; refine (have hd_ : Touches [.out, .sys, .pwr, .aux, .flock] d d_ := ?_; ?_); (on_goal 1 => try dsimp only [d_]); (on_goal 2 => clear_value d_))
    | ((try lift_lets -underBinder); intro d_; try clear_value d_)
    | exact Eq.refl true
    | with_reducible refine Touches.andThen ?_ (by with_reducible exact autumnGate_touch ..) ?_
    | split
    | dsimp -zeta only
    | (split at ‹ite _ _ _ = (_, _)›)
    | (cases ‹(_, _) = (_, _)›)

theorem exec_autumnGateGroup (s : State)  : exec .autumnGateGroup s = s.become ((autumnGate) s.start) := by
  have hm_ : ((autumnGate) s.start).memOut = [] := (event_autumnGateGroup_touch s.start ).same .memOut rfl
  simp only [exec, execAutumnGateGroup]
  exact nextDev_become s (autumnGate) hm_

theorem event_fwSwapResume_touch (d : Dev)  : Touches [.freeCtr, .out, .memOut, .sys, .staged, .rings, .sess, .bell, .past, .fold, .pwr, .aux, .parse, .tm, .flock, .acc, .media, .aud, .vid, .imc] d ((fwSwapResume) d) := by
  beta_reduce
  repeat' first
    | with_reducible assumption
    | with_reducible exact Touches.refl
    | ((try lift_lets -underBinder); intro d_; refine (have hd_ : Touches [.freeCtr, .out, .memOut, .sys, .staged, .rings, .sess, .bell, .past, .fold, .pwr, .aux, .parse, .tm, .flock, .acc, .media, .aud, .vid, .imc] d d_ := ?_; ?_); (on_goal 1 => try dsimp only [d_]); (on_goal 2 => clear_value d_))
    | ((try lift_lets -underBinder); intro d_; try clear_value d_)
    | exact Eq.refl true
    | with_reducible refine Touches.andThen ?_ (by with_reducible exact fwSwapResume_touch ..) ?_
    | split
    | dsimp -zeta only
    | (split at ‹ite _ _ _ = (_, _)›)
    | (cases ‹(_, _) = (_, _)›)

theorem event_fwSwapTimeout_touch (d : Dev)  : Touches [.freeCtr, .out, .memOut, .sys, .staged, .rings, .sess, .bell, .past, .pwr, .aux, .parse, .tm, .flock, .acc, .media, .aud, .vid, .imc] d ((fwSwapTimeout) d) := by
  beta_reduce
  repeat' first
    | with_reducible assumption
    | with_reducible exact Touches.refl
    | ((try lift_lets -underBinder); intro d_; refine (have hd_ : Touches [.freeCtr, .out, .memOut, .sys, .staged, .rings, .sess, .bell, .past, .pwr, .aux, .parse, .tm, .flock, .acc, .media, .aud, .vid, .imc] d d_ := ?_; ?_); (on_goal 1 => try dsimp only [d_]); (on_goal 2 => clear_value d_))
    | ((try lift_lets -underBinder); intro d_; try clear_value d_)
    | exact Eq.refl true
    | with_reducible refine Touches.andThen ?_ (by with_reducible exact fwSwapTimeout_touch ..) ?_
    | split
    | dsimp -zeta only
    | (split at ‹ite _ _ _ = (_, _)›)
    | (cases ‹(_, _) = (_, _)›)

theorem event_controlCoreFence_touch (d : Dev) (core : Nat) : Touches [.sys, .staged, .aux] d ((fun (d : Dev) =>
    if core > 7 ∨ d.aux.fenced.contains core then d
    else onSys (onAux d (fun a => { a with fenced := a.fenced ++ [core] })) (fun y => { y with staged := y.staged.map (fun x => { x with armed := false }) })) d) := by
  beta_reduce
  repeat' first
    | with_reducible assumption
    | with_reducible exact Touches.refl
    | ((try lift_lets -underBinder); intro d_; refine (have hd_ : Touches [.sys, .staged, .aux] d d_ := ?_; ?_); (on_goal 1 => try dsimp only [d_]); (on_goal 2 => clear_value d_))
    | ((try lift_lets -underBinder); intro d_; try clear_value d_)
    | exact Eq.refl true
    | with_reducible refine onSys_step ?_ ?_ ?_ ?_ ?_ ?_
    | with_reducible refine Touches.andThen ?_ (by with_reducible exact onAux_touch ..) ?_
    | exact partOr_left rfl
    | exact .inr rfl
    | exact .inr (by (repeat' split) <;> rfl)
    | split
    | dsimp -zeta only
    | (split at ‹ite _ _ _ = (_, _)›)
    | (cases ‹(_, _) = (_, _)›)

theorem exec_controlCoreFence (s : State) (core : Nat) : exec (.controlCoreFence core) s = s.become ((fun (d : Dev) =>
    if core > 7 ∨ d.aux.fenced.contains core then d
    else onSys (onAux d (fun a => { a with fenced := a.fenced ++ [core] })) (fun y => { y with staged := y.staged.map (fun x => { x with armed := false }) })) s.start) := by
  have hm_ : ((fun (d : Dev) =>
    if core > 7 ∨ d.aux.fenced.contains core then d
    else onSys (onAux d (fun a => { a with fenced := a.fenced ++ [core] })) (fun y => { y with staged := y.staged.map (fun x => { x with armed := false }) })) s.start).memOut = [] := (event_controlCoreFence_touch s.start core).same .memOut rfl
  simp only [exec, execControlCoreFence]
  exact nextDev_become s (fun (d : Dev) =>
    if core > 7 ∨ d.aux.fenced.contains core then d
    else onSys (onAux d (fun a => { a with fenced := a.fenced ++ [core] })) (fun y => { y with staged := y.staged.map (fun x => { x with armed := false }) })) hm_

theorem event_hsDetInsertEdge_touch (d : Dev) (headset : Nat) : Touches [.aud] d ((fun (d : Dev) => onHs d headset (fun h => { h with plugged := true, muted := false })) d) := by
  beta_reduce
  repeat' first
    | with_reducible assumption
    | with_reducible exact Touches.refl
    | ((try lift_lets -underBinder); intro d_; refine (have hd_ : Touches [.aud] d d_ := ?_; ?_); (on_goal 1 => try dsimp only [d_]); (on_goal 2 => clear_value d_))
    | ((try lift_lets -underBinder); intro d_; try clear_value d_)
    | exact Eq.refl true
    | with_reducible refine Touches.andThen ?_ (by with_reducible exact onHs_touch ..) ?_
    | split
    | dsimp -zeta only
    | (split at ‹ite _ _ _ = (_, _)›)
    | (cases ‹(_, _) = (_, _)›)

theorem exec_hsDetInsertEdge (s : State) (headset : Nat) : exec (.hsDetInsertEdge headset) s = s.become ((fun (d : Dev) => onHs d headset (fun h => { h with plugged := true, muted := false })) s.start) := by
  have hm_ : ((fun (d : Dev) => onHs d headset (fun h => { h with plugged := true, muted := false })) s.start).memOut = [] := (event_hsDetInsertEdge_touch s.start headset).same .memOut rfl
  simp only [exec, execHsDetInsertEdge]
  exact nextDev_become s (fun (d : Dev) => onHs d headset (fun h => { h with plugged := true, muted := false })) hm_

theorem event_hsInsertDebounced_touch (d : Dev) (headset : Nat) : Touches [.out, .sys, .aud] d ((hsInserted headset) d) := by
  beta_reduce
  repeat' first
    | with_reducible assumption
    | with_reducible exact Touches.refl
    | ((try lift_lets -underBinder); intro d_; refine (have hd_ : Touches [.out, .sys, .aud] d d_ := ?_; ?_); (on_goal 1 => try dsimp only [d_]); (on_goal 2 => clear_value d_))
    | ((try lift_lets -underBinder); intro d_; try clear_value d_)
    | exact Eq.refl true
    | with_reducible refine Touches.andThen ?_ (by with_reducible exact hsInserted_touch ..) ?_
    | split
    | dsimp -zeta only
    | (split at ‹ite _ _ _ = (_, _)›)
    | (cases ‹(_, _) = (_, _)›)

theorem exec_hsInsertDebounced (s : State) (headset : Nat) : exec (.hsInsertDebounced headset) s = s.become ((hsInserted headset) s.start) := by
  have hm_ : ((hsInserted headset) s.start).memOut = [] := (event_hsInsertDebounced_touch s.start headset).same .memOut rfl
  simp only [exec, execHsInsertDebounced]
  exact nextDev_become s (hsInserted headset) hm_

theorem event_hsClassify_touch (d : Dev) (headset ring2 sleeve : Nat) : Touches [.out, .sys, .aud] d ((hsClassify headset ring2 sleeve) d) := by
  beta_reduce
  repeat' first
    | with_reducible assumption
    | with_reducible exact Touches.refl
    | ((try lift_lets -underBinder); intro d_; refine (have hd_ : Touches [.out, .sys, .aud] d d_ := ?_; ?_); (on_goal 1 => try dsimp only [d_]); (on_goal 2 => clear_value d_))
    | ((try lift_lets -underBinder); intro d_; try clear_value d_)
    | exact Eq.refl true
    | with_reducible refine Touches.andThen ?_ (by with_reducible exact hsClassify_touch ..) ?_
    | split
    | dsimp -zeta only
    | (split at ‹ite _ _ _ = (_, _)›)
    | (cases ‹(_, _) = (_, _)›)

theorem exec_hsClassify (s : State) (headset ring2 sleeve : Nat) : exec (.hsClassify headset ring2 sleeve) s = s.become ((hsClassify headset ring2 sleeve) s.start) := by
  have hm_ : ((hsClassify headset ring2 sleeve) s.start).memOut = [] := (event_hsClassify_touch s.start headset ring2 sleeve).same .memOut rfl
  simp only [exec, execHsClassify]
  exact nextDev_become s (hsClassify headset ring2 sleeve) hm_

theorem event_hsButtonArm_touch (d : Dev) (headset : Nat) : Touches [.aud] d ((fun (d : Dev) => onHs d headset (fun h => { h with armed := h.present && (h.accType == 2 || h.accType == 3), btnBand := 0, btnCount := 0 })) d) := by
  beta_reduce
  repeat' first
    | with_reducible assumption
    | with_reducible exact Touches.refl
    | ((try lift_lets -underBinder); intro d_; refine (have hd_ : Touches [.aud] d d_ := ?_; ?_); (on_goal 1 => try dsimp only [d_]); (on_goal 2 => clear_value d_))
    | ((try lift_lets -underBinder); intro d_; try clear_value d_)
    | exact Eq.refl true
    | with_reducible refine Touches.andThen ?_ (by with_reducible exact onHs_touch ..) ?_
    | split
    | dsimp -zeta only
    | (split at ‹ite _ _ _ = (_, _)›)
    | (cases ‹(_, _) = (_, _)›)

theorem exec_hsButtonArm (s : State) (headset : Nat) : exec (.hsButtonArm headset) s = s.become ((fun (d : Dev) => onHs d headset (fun h => { h with armed := h.present && (h.accType == 2 || h.accType == 3), btnBand := 0, btnCount := 0 })) s.start) := by
  have hm_ : ((fun (d : Dev) => onHs d headset (fun h => { h with armed := h.present && (h.accType == 2 || h.accType == 3), btnBand := 0, btnCount := 0 })) s.start).memOut = [] := (event_hsButtonArm_touch s.start headset).same .memOut rfl
  simp only [exec, execHsButtonArm]
  exact nextDev_become s (fun (d : Dev) => onHs d headset (fun h => { h with armed := h.present && (h.accType == 2 || h.accType == 3), btnBand := 0, btnCount := 0 })) hm_

theorem event_hsDetRemoveEdge_touch (d : Dev) (headset : Nat) : Touches [.aud] d ((fun (d : Dev) => onHs d headset (fun h => { h with plugged := false, muted := h.present, btnBand := 0, btnCount := 0 })) d) := by
  beta_reduce
  repeat' first
    | with_reducible assumption
    | with_reducible exact Touches.refl
    | ((try lift_lets -underBinder); intro d_; refine (have hd_ : Touches [.aud] d d_ := ?_; ?_); (on_goal 1 => try dsimp only [d_]); (on_goal 2 => clear_value d_))
    | ((try lift_lets -underBinder); intro d_; try clear_value d_)
    | exact Eq.refl true
    | with_reducible refine Touches.andThen ?_ (by with_reducible exact onHs_touch ..) ?_
    | split
    | dsimp -zeta only
    | (split at ‹ite _ _ _ = (_, _)›)
    | (cases ‹(_, _) = (_, _)›)

theorem exec_hsDetRemoveEdge (s : State) (headset : Nat) : exec (.hsDetRemoveEdge headset) s = s.become ((fun (d : Dev) => onHs d headset (fun h => { h with plugged := false, muted := h.present, btnBand := 0, btnCount := 0 })) s.start) := by
  have hm_ : ((fun (d : Dev) => onHs d headset (fun h => { h with plugged := false, muted := h.present, btnBand := 0, btnCount := 0 })) s.start).memOut = [] := (event_hsDetRemoveEdge_touch s.start headset).same .memOut rfl
  simp only [exec, execHsDetRemoveEdge]
  exact nextDev_become s (fun (d : Dev) => onHs d headset (fun h => { h with plugged := false, muted := h.present, btnBand := 0, btnCount := 0 })) hm_

theorem event_hsRemoveExpiry_touch (d : Dev) (headset : Nat) : Touches [.out, .sys, .aud] d ((hsRemoved headset) d) := by
  beta_reduce
  repeat' first
    | with_reducible assumption
    | with_reducible exact Touches.refl
    | ((try lift_lets -underBinder); intro d_; refine (have hd_ : Touches [.out, .sys, .aud] d d_ := ?_; ?_); (on_goal 1 => try dsimp only [d_]); (on_goal 2 => clear_value d_))
    | ((try lift_lets -underBinder); intro d_; try clear_value d_)
    | exact Eq.refl true
    | with_reducible refine Touches.andThen ?_ (by with_reducible exact hsRemoved_touch ..) ?_
    | split
    | dsimp -zeta only
    | (split at ‹ite _ _ _ = (_, _)›)
    | (cases ‹(_, _) = (_, _)›)

theorem exec_hsRemoveExpiry (s : State) (headset : Nat) : exec (.hsRemoveExpiry headset) s = s.become ((hsRemoved headset) s.start) := by
  have hm_ : ((hsRemoved headset) s.start).memOut = [] := (event_hsRemoveExpiry_touch s.start headset).same .memOut rfl
  simp only [exec, execHsRemoveExpiry]
  exact nextDev_become s (hsRemoved headset) hm_

theorem event_hsButtonSample_touch (d : Dev) (headset biasUa : Nat) : Touches [.out, .sys, .aud] d ((hsButton headset biasUa) d) := by
  beta_reduce
  repeat' first
    | with_reducible assumption
    | with_reducible exact Touches.refl
    | ((try lift_lets -underBinder); intro d_; refine (have hd_ : Touches [.out, .sys, .aud] d d_ := ?_; ?_); (on_goal 1 => try dsimp only [d_]); (on_goal 2 => clear_value d_))
    | ((try lift_lets -underBinder); intro d_; try clear_value d_)
    | exact Eq.refl true
    | with_reducible refine Touches.andThen ?_ (by with_reducible exact hsButton_touch ..) ?_
    | split
    | dsimp -zeta only
    | (split at ‹ite _ _ _ = (_, _)›)
    | (cases ‹(_, _) = (_, _)›)

theorem exec_hsButtonSample (s : State) (headset biasUa : Nat) : exec (.hsButtonSample headset biasUa) s = s.become ((hsButton headset biasUa) s.start) := by
  have hm_ : ((hsButton headset biasUa) s.start).memOut = [] := (event_hsButtonSample_touch s.start headset biasUa).same .memOut rfl
  simp only [exec, execHsButtonSample]
  exact nextDev_become s (hsButton headset biasUa) hm_

theorem event_tdmFrameRx_touch (d : Dev) (port : Nat) (words : List Int) (wellFormed : Bool) : Touches [.out, .sys, .aud] d ((tdmFrame port words wellFormed) d) := by
  beta_reduce
  repeat' first
    | with_reducible assumption
    | with_reducible exact Touches.refl
    | ((try lift_lets -underBinder); intro d_; refine (have hd_ : Touches [.out, .sys, .aud] d d_ := ?_; ?_); (on_goal 1 => try dsimp only [d_]); (on_goal 2 => clear_value d_))
    | ((try lift_lets -underBinder); intro d_; try clear_value d_)
    | exact Eq.refl true
    | with_reducible refine Touches.andThen ?_ (by with_reducible exact tdmFrame_touch ..) ?_
    | split
    | dsimp -zeta only
    | (split at ‹ite _ _ _ = (_, _)›)
    | (cases ‹(_, _) = (_, _)›)

theorem exec_tdmFrameRx (s : State) (port : Nat) (words : List Int) (wellFormed : Bool) : exec (.tdmFrameRx port words wellFormed) s = s.become ((tdmFrame port words wellFormed) s.start) := by
  have hm_ : ((tdmFrame port words wellFormed) s.start).memOut = [] := (event_tdmFrameRx_touch s.start port words wellFormed).same .memOut rfl
  simp only [exec, execTdmFrameRx]
  exact nextDev_become s (tdmFrame port words wellFormed) hm_

theorem event_tdmAlarmTimeout_touch (d : Dev) (port : Nat) : Touches [.out, .sys, .aud] d ((tdmAlarm port) d) := by
  beta_reduce
  repeat' first
    | with_reducible assumption
    | with_reducible exact Touches.refl
    | ((try lift_lets -underBinder); intro d_; refine (have hd_ : Touches [.out, .sys, .aud] d d_ := ?_; ?_); (on_goal 1 => try dsimp only [d_]); (on_goal 2 => clear_value d_))
    | ((try lift_lets -underBinder); intro d_; try clear_value d_)
    | exact Eq.refl true
    | with_reducible refine Touches.andThen ?_ (by with_reducible exact tdmAlarm_touch ..) ?_
    | split
    | dsimp -zeta only
    | (split at ‹ite _ _ _ = (_, _)›)
    | (cases ‹(_, _) = (_, _)›)

theorem exec_tdmAlarmTimeout (s : State) (port : Nat) : exec (.tdmAlarmTimeout port) s = s.become ((tdmAlarm port) s.start) := by
  have hm_ : ((tdmAlarm port) s.start).memOut = [] := (event_tdmAlarmTimeout_touch s.start port).same .memOut rfl
  simp only [exec, execTdmAlarmTimeout]
  exact nextDev_become s (tdmAlarm port) hm_

theorem event_bellTick_touch (d : Dev) (x : TickIn) : Touches [.freeCtr, .out, .memOut, .sys, .rings, .sess, .bell, .tick, .past, .fold, .parse, .tm, .flock, .media, .aud, .vid, .imc, .casc, .lane, .integ] d ((bellTick x) d) := by
  beta_reduce
  repeat' first
    | with_reducible assumption
    | with_reducible exact Touches.refl
    | ((try lift_lets -underBinder); intro d_; refine (have hd_ : Touches [.freeCtr, .out, .memOut, .sys, .rings, .sess, .bell, .tick, .past, .fold, .parse, .tm, .flock, .media, .aud, .vid, .imc, .casc, .lane, .integ] d d_ := ?_; ?_); (on_goal 1 => try dsimp only [d_]); (on_goal 2 => clear_value d_))
    | ((try lift_lets -underBinder); intro d_; try clear_value d_)
    | exact Eq.refl true
    | with_reducible refine Touches.andThen ?_ (by with_reducible exact bellTick_touch ..) ?_
    | split
    | dsimp -zeta only
    | (split at ‹ite _ _ _ = (_, _)›)
    | (cases ‹(_, _) = (_, _)›)

theorem event_digestPublish_touch (d : Dev)  : Touches [.out, .sys, .casc, .integ] d ((fun (d : Dev) => if d.integ.busy ∧ domOn d 2 then publishDigests d else d) d) := by
  beta_reduce
  repeat' first
    | with_reducible assumption
    | with_reducible exact Touches.refl
    | ((try lift_lets -underBinder); intro d_; refine (have hd_ : Touches [.out, .sys, .casc, .integ] d d_ := ?_; ?_); (on_goal 1 => try dsimp only [d_]); (on_goal 2 => clear_value d_))
    | ((try lift_lets -underBinder); intro d_; try clear_value d_)
    | exact Eq.refl true
    | with_reducible refine Touches.andThen ?_ (by with_reducible exact publishDigests_touch ..) ?_
    | split
    | dsimp -zeta only
    | (split at ‹ite _ _ _ = (_, _)›)
    | (cases ‹(_, _) = (_, _)›)

theorem exec_digestPublish (s : State)  : exec .digestPublish s = s.become ((fun (d : Dev) => if d.integ.busy ∧ domOn d 2 then publishDigests d else d) s.start) := by
  have hm_ : ((fun (d : Dev) => if d.integ.busy ∧ domOn d 2 then publishDigests d else d) s.start).memOut = [] := (event_digestPublish_touch s.start ).same .memOut rfl
  simp only [exec, execDigestPublish]
  exact nextDev_become s (fun (d : Dev) => if d.integ.busy ∧ domOn d 2 then publishDigests d else d) hm_

theorem event_digestDriftCheck_touch (d : Dev) (drifted : Tbl (BitVec 64)) : Touches [.out, .sys, .casc, .integ] d ((fun (d : Dev) =>
    if ¬ domOn d 2 then d
    else if d.integ.busy then onInteg d (fun i => { i with driftHeld := some drifted })
    else driftCheck drifted d) d) := by
  beta_reduce
  repeat' first
    | with_reducible assumption
    | with_reducible exact Touches.refl
    | ((try lift_lets -underBinder); intro d_; refine (have hd_ : Touches [.out, .sys, .casc, .integ] d d_ := ?_; ?_); (on_goal 1 => try dsimp only [d_]); (on_goal 2 => clear_value d_))
    | ((try lift_lets -underBinder); intro d_; try clear_value d_)
    | exact Eq.refl true
    | with_reducible refine Touches.andThen ?_ (by with_reducible exact onInteg_touch ..) ?_
    | with_reducible refine Touches.andThen ?_ (by with_reducible exact driftCheck_touch ..) ?_
    | split
    | dsimp -zeta only
    | (split at ‹ite _ _ _ = (_, _)›)
    | (cases ‹(_, _) = (_, _)›)

theorem exec_digestDriftCheck (s : State) (drifted : Tbl (BitVec 64)) : exec (.digestDriftCheck drifted) s = s.become ((fun (d : Dev) =>
    if ¬ domOn d 2 then d
    else if d.integ.busy then onInteg d (fun i => { i with driftHeld := some drifted })
    else driftCheck drifted d) s.start) := by
  have hm_ : ((fun (d : Dev) =>
    if ¬ domOn d 2 then d
    else if d.integ.busy then onInteg d (fun i => { i with driftHeld := some drifted })
    else driftCheck drifted d) s.start).memOut = [] := (event_digestDriftCheck_touch s.start drifted).same .memOut rfl
  simp only [exec, execDigestDriftCheck]
  exact nextDev_become s (fun (d : Dev) =>
    if ¬ domOn d 2 then d
    else if d.integ.busy then onInteg d (fun i => { i with driftHeld := some drifted })
    else driftCheck drifted d) hm_

theorem event_cascDigestRx_touch (d : Dev) (h : CascHdr) (peerBusy : Bool) (mask : Nat) (digest : BitVec 64) (epoch : Word) : Touches [.out, .sys, .casc, .integ] d ((cascCtlRx h (.digest mask digest epoch) false .digestFrame
    (fun d => if h.src < 16 then peerDigest h.src peerBusy mask digest epoch d else d)) d) := by
  beta_reduce
  repeat' first
    | with_reducible assumption
    | with_reducible exact Touches.refl
    | ((try lift_lets -underBinder); intro d_; refine (have hd_ : Touches [.out, .sys, .casc, .integ] d d_ := ?_; ?_); (on_goal 1 => try dsimp only [d_]); (on_goal 2 => clear_value d_))
    | ((try lift_lets -underBinder); intro d_; try clear_value d_)
    | exact Eq.refl true
    | with_reducible refine Touches.andThen ?_ (cascCtlRx_touch (ps := [.out, .sys, .casc, .integ]) ?_ ?_ ..) ?_
    | (intro _)
    | with_reducible refine Touches.andThen ?_ (by with_reducible exact peerDigest_touch ..) ?_
    | split
    | dsimp -zeta only
    | (split at ‹ite _ _ _ = (_, _)›)
    | (cases ‹(_, _) = (_, _)›)

theorem exec_cascDigestRx (s : State) (h : CascHdr) (peerBusy : Bool) (mask : Nat) (digest : BitVec 64) (epoch : Word) : exec (.cascDigestRx h peerBusy mask digest epoch) s = s.become ((cascCtlRx h (.digest mask digest epoch) false .digestFrame
    (fun d => if h.src < 16 then peerDigest h.src peerBusy mask digest epoch d else d)) s.start) := by
  have hm_ : ((cascCtlRx h (.digest mask digest epoch) false .digestFrame
    (fun d => if h.src < 16 then peerDigest h.src peerBusy mask digest epoch d else d)) s.start).memOut = [] := (event_cascDigestRx_touch s.start h peerBusy mask digest epoch).same .memOut rfl
  simp only [exec, execCascDigestRx]
  exact nextDev_become s (cascCtlRx h (.digest mask digest epoch) false .digestFrame
    (fun d => if h.src < 16 then peerDigest h.src peerBusy mask digest epoch d else d)) hm_

theorem event_stagingCutoff_touch (d : Dev)  : Touches [.sys, .staged, .media, .aud, .imc] d ((fun (d : Dev) =>
    let d := copiesDone d
    if ¬ domOn d 2 ∨ d.aux.swapState = 1 then d
    else onSys d (fun y => { y with staged := y.staged.map (fun t => { t with armed := true }) })) d) := by
  beta_reduce
  repeat' first
    | with_reducible assumption
    | with_reducible exact Touches.refl
    | ((try lift_lets -underBinder); intro d_; refine (have hd_ : Touches [.sys, .staged, .media, .aud, .imc] d d_ := ?_; ?_); (on_goal 1 => try dsimp only [d_]); (on_goal 2 => clear_value d_))
    | ((try lift_lets -underBinder); intro d_; try clear_value d_)
    | exact Eq.refl true
    | with_reducible refine onSys_step ?_ ?_ ?_ ?_ ?_ ?_
    | with_reducible refine Touches.andThen ?_ (by with_reducible exact copiesDone_touch ..) ?_
    | exact partOr_left rfl
    | exact .inr rfl
    | exact .inr (by (repeat' split) <;> rfl)
    | split
    | dsimp -zeta only
    | (split at ‹ite _ _ _ = (_, _)›)
    | (cases ‹(_, _) = (_, _)›)

theorem exec_stagingCutoff (s : State)  : exec .stagingCutoff s = s.become ((fun (d : Dev) =>
    let d := copiesDone d
    if ¬ domOn d 2 ∨ d.aux.swapState = 1 then d
    else onSys d (fun y => { y with staged := y.staged.map (fun t => { t with armed := true }) })) s.start) := by
  have hm_ : ((fun (d : Dev) =>
    let d := copiesDone d
    if ¬ domOn d 2 ∨ d.aux.swapState = 1 then d
    else onSys d (fun y => { y with staged := y.staged.map (fun t => { t with armed := true }) })) s.start).memOut = [] := (event_stagingCutoff_touch s.start ).same .memOut rfl
  simp only [exec, execStagingCutoff]
  exact nextDev_become s (fun (d : Dev) =>
    let d := copiesDone d
    if ¬ domOn d 2 ∨ d.aux.swapState = 1 then d
    else onSys d (fun y => { y with staged := y.staged.map (fun t => { t with armed := true }) })) hm_

theorem event_registerRead_touch (d : Dev) (addr : Nat) : Touches [.out, .sys, .bell, .aux, .parse, .tm, .cli, .flock, .acc, .aud, .vid, .imc, .casc, .lane, .drove, .integ] d ((bar0Read addr) d) := by
  beta_reduce
  repeat' first
    | with_reducible assumption
    | with_reducible exact Touches.refl
    | ((try lift_lets -underBinder); intro d_; refine (have hd_ : Touches [.out, .sys, .bell, .aux, .parse, .tm, .cli, .flock, .acc, .aud, .vid, .imc, .casc, .lane, .drove, .integ] d d_ := ?_; ?_); (on_goal 1 => try dsimp only [d_]); (on_goal 2 => clear_value d_))
    | ((try lift_lets -underBinder); intro d_; try clear_value d_)
    | exact Eq.refl true
    | with_reducible refine Touches.andThen ?_ (by with_reducible exact bar0Read_touch ..) ?_
    | split
    | dsimp -zeta only
    | (split at ‹ite _ _ _ = (_, _)›)
    | (cases ‹(_, _) = (_, _)›)

theorem exec_registerRead (s : State) (addr : Nat) : exec (.registerRead addr) s = s.become ((bar0Read addr) s.start) := by
  have hm_ : ((bar0Read addr) s.start).memOut = [] := (event_registerRead_touch s.start addr).same .memOut rfl
  simp only [exec, execRegisterRead]
  exact nextDev_become s (bar0Read addr) hm_

theorem event_registerWrite_touch (d : Dev) (addr : Nat) (value : Word) : Touches [.out, .sys, .rings, .bell, .pwr, .tm, .cli, .acc, .aud, .imc, .lane, .drove, .integ] d ((bar0Write addr value) d) := by
  beta_reduce
  repeat' first
    | with_reducible assumption
    | with_reducible exact Touches.refl
    | ((try lift_lets -underBinder); intro d_; refine (have hd_ : Touches [.out, .sys, .rings, .bell, .pwr, .tm, .cli, .acc, .aud, .imc, .lane, .drove, .integ] d d_ := ?_; ?_); (on_goal 1 => try dsimp only [d_]); (on_goal 2 => clear_value d_))
    | ((try lift_lets -underBinder); intro d_; try clear_value d_)
    | exact Eq.refl true
    | with_reducible refine Touches.andThen ?_ (by with_reducible exact bar0Write_touch ..) ?_
    | split
    | dsimp -zeta only
    | (split at ‹ite _ _ _ = (_, _)›)
    | (cases ‹(_, _) = (_, _)›)

theorem exec_registerWrite (s : State) (addr : Nat) (value : Word) : exec (.registerWrite addr value) s = s.become ((bar0Write addr value) s.start) := by
  have hm_ : ((bar0Write addr value) s.start).memOut = [] := (event_registerWrite_touch s.start addr value).same .memOut rfl
  simp only [exec, execRegisterWrite]
  exact nextDev_become s (bar0Write addr value) hm_


end Sys2Proof.Machine
end

