-- ==== Sys2Proof/Laws/Frame.lean ====
section
/-! SUPPORT. What operations of several families leave as it was. -/

namespace Sys2Proof.Machine

/-- A fold of changes keeps what each of them keeps. -/
theorem foldl_keeps {α β γ : Type} (g : α → γ) (f : α → β → α) (l : List β) (d : α) (h : ∀ d b, g (f d b) = g d) : g (l.foldl f d) = g d := by
  induction l generalizing d with
  | nil => rfl
  | cons b r ih => rw [List.foldl_cons, ih, h]

/-- Waking a group touches the engines, the power controller, its counters, the SYS block's interrupts and what is sent. -/
theorem wakeGroup_keeps (d : Dev) (g : Nat) :
    (wakeGroup d g).memOut = d.memOut ∧ (wakeGroup d g).fold = d.fold ∧ (wakeGroup d g).sys.epochStaged = d.sys.epochStaged := by
  refine ⟨?_, ?_, ?_⟩ <;> unfold wakeGroup <;> simp only [raiseLeaf_other, raiseLeaf_sys]
  · have h : ∀ d k, (domainOn d k).memOut = d.memOut := by intro d k; unfold domainOn; split <;> simp
    rw [h, foldl_keeps Dev.memOut _ _ _ (by intro d b; simp)]; simp
  · have h : ∀ d k, (domainOn d k).fold = d.fold := by intro d k; unfold domainOn; split <;> simp
    rw [h, foldl_keeps Dev.fold _ _ _ (by intro d b; simp)]; simp
  · have h : ∀ d k, (domainOn d k).sys = d.sys := by intro d k; unfold domainOn; split <;> simp
    rw [h, foldl_keeps Dev.sys _ _ _ (by intro d b; simp)]; simp

@[simp] theorem wakeOpt_keeps (d : Dev) (g : Option Nat) :
    (wakeOpt d g).memOut = d.memOut ∧ (wakeOpt d g).fold = d.fold ∧ (wakeOpt d g).sys.epochStaged = d.sys.epochStaged := by
  cases g with
  | none => simp [wakeOpt]
  | some g =>
    unfold wakeOpt
    dsimp only
    split
    · exact ⟨rfl, rfl, rfl⟩
    · exact wakeGroup_keeps d g

@[simp] theorem sessionClose_keeps (d : Dev) (k : Nat) :
    (sessionClose d k).memOut = d.memOut ∧ (sessionClose d k).fold = d.fold ∧ (sessionClose d k).sys.epochStaged = d.sys.epochStaged := by
  unfold sessionClose; split <;> simp [onSess]

end Sys2Proof.Machine
end

