-- ==== Sys2Proof/Laws/Issue.lean ====
section
/-! SUPPORT. What an operation that issues at once, and a cascade frame that is taken, come to. -/

namespace Sys2Proof.Machine

theorem engOf_onCore_core (d : Dev) (e : Nat) (f : EngCore → EngCore) : (engOf (onCore d e f) e).core = f (engOf d e).core := by
  simp [onCore, onEng, engOf, tgetD, tupd, tget_tset_same]

theorem core_issued (d : Dev) (i : Issue) (acc : Option Nat) :
    (engOf (issued d i acc) i.eng).core = { (engOf d i.eng).core with bundle := (engOf d i.eng).core.bundle ++ [(i.slot, acc)] } :=
  engOf_onCore_core d i.eng _

theorem actSet_issued (d : Dev) (i : Issue) (acc : Option Nat) : actSet (engOf (issued d i acc) i.eng).core = regsOf d i := by
  rw [core_issued]; rfl

theorem shadowOn_issued (d : Dev) (i : Issue) (acc : Option Nat) :
    (engOf (issued d i acc) i.eng).core.shadowOn = (engOf d i.eng).core.shadowOn := by
  rw [core_issued]

theorem issueOp_of_canIssue {d : Dev} {i : Issue} {acc : Option Nat} {slotOk flow : Bool} (H : CanIssue d i acc slotOk flow) (f : Dev → Dev) :
    issueOp d i acc slotOk flow f = f (issued d i acc) := by
  obtain ⟨h1, h2, h3, h4, h5, h6⟩ := H
  have hh : (engOf d i.eng).core.halted = false := by
    simp [engRuns] at h1; exact h1.2
  have hu : ((engOf d i.eng).core.bundle.any fun b => b.1 == i.slot) = false := by
    simp only [List.any_eq_false, beq_iff_eq]; intro b hb; exact (h4 b hb).1
  have ha : (acc.isSome && (engOf d i.eng).core.bundle.any fun b => b.2 == acc) = false := by
    cases acc with
    | none => rfl
    | some a =>
      simp only [Option.isSome_some, Bool.true_and, List.any_eq_false, beq_iff_eq]; intro b hb; exact (h4 b hb).2 (by simp)
  have hb : (flow && (engOf d i.eng).core.br.isSome) = false := by
    cases flow with
    | false => rfl
    | true => simp [h5 rfl]
  simp [issueOp, issued, h1, h2, h3, hu, ha, hb, h6, hh, advanceEng]

/-- A frame that is taken is counted, forwarded unless it is the neighbour's own, and acted on where it is addressed to this device. -/
theorem cascRx_of_hears {d : Dev} {h : CascHdr} {t : CascType} {pay : List Byte} (H : CascHears d h t pay) (near : Bool) (k : OutKind) (corr : Int)
    (f : Dev → Dev) :
    cascRx h t pay near k corr f d =
      (let e := if near then cascGot h (t == .control) d else cascForward h k t corr pay (cascGot h (t == .control) d)
       if near ∨ h.dst = e.casc.device ∨ h.dst = 0xFF then f e else e) := by
  obtain ⟨h1, h2, h3, h4, h5⟩ := H
  have h1' : ¬ h.port > 1 := by omega
  have h5' : tagHolds (onCascPort d h.port (fun x => { x with rx := satInc x.rx })) h t pay = true := h5
  simp only [cascRx, cascGot, h1', h2, h3, h4, h5']
  cases t <;> simp [onCascPort, onCasc]

end Sys2Proof.Machine
end

