-- ==== Sys2Proof/Laws/Kervon.lean ====
section
/-! SUPPORT. What a Kervon packet that passes the checks of R514 comes to, by the result of its own conditions. -/

namespace Sys2Proof.Machine

theorem taken_checks {s : State} {h : CmdHdr} {c : KCmd} (t : Taken s h c) (hd : isDefined c = true) :
    kChecks s.start h c (kGated s.start c) (kDomains c) = none := by
  obtain ⟨-, ⟨h1, h2, h3, h4, h5⟩, ⟨h6, h7⟩, h8, h9⟩ := t
  have ho : ownerOk h = true := by unfold ownerOk; split <;> simp_all
  have hm : kIsRead c = false → mayChange s.start h = true := by
    intro hr; unfold mayChange; split
    · rfl
    · next k hk => simp [h6 hr k hk]
  have hs : s.start.sys.epochStaged = s.dev.sys.epochStaged := rfl
  unfold kChecks
  rw [if_neg (by simp [h1]), if_neg (by simp [h2]), if_neg (by simp [hd, h4]), if_neg (by simp [h3])]
  rw [if_neg (by
    simp only [ho, not_true, false_or, not_and, Bool.not_eq_true, Bool.not_eq_false]
    intro hr; exact hm hr)]
  rw [if_neg (by
    rintro ⟨hg, hs⟩; exact hs (h7 hg).1)]
  rw [if_neg (by
    rintro ⟨hg, hs | hs⟩
    · exact (h7 hg).2.1 hs
    · exact hs (h7 hg).2.2)]
  rw [if_neg (by
    rintro ⟨he, hn⟩; rw [hs] at hn; exact hn (h8 he))]
  rw [if_neg (by
    simp only [List.any_eq_true, not_exists, not_and, Bool.not_eq_true']
    intro k hk; simp [h9 k hk])]

theorem taken_serving {s : State} {h : CmdHdr} {c : KCmd} (t : Taken s h c) : kServing s.start = true := by
  obtain ⟨⟨h1, h2, -, h4, -⟩, -⟩ := t
  unfold kServing
  rcases h1 with h1 | h1 <;> simp [h1, h2, h4]

/-- A packet that passes every check acts. -/
theorem kRun_taken {s : State} {h : CmdHdr} {c : KCmd} (t : Taken s h c) (hd : isDefined c = true) (act : Dev → Dev → ActResult) :
    kRun s.view h c (kGated s.start c) (kDomains c) act s.start = kFinish h c (kGated s.start c) s.start (act s.view s.start) := by
  have hc := taken_checks t hd
  have hs := taken_serving t
  obtain ⟨⟨h1, -, h3, -, -⟩, -⟩ := t
  have hr : s.start.fold.boot.stage ≠ .recovery := by rcases h1 with h1 | h1 <;> simp [h1]
  have ha : admissionClosed s.start = false := by simp [admissionClosed, h3]
  unfold kRun
  simp [hs, hc, hr, ha]

/-- The next state of a packet whose result leaves the device as `e`, with no reset asked for and nothing posted to Pasture. -/
theorem kervon_taken {s : State} {h : CmdHdr} {c : KCmd} (t : Taken s h c) (hd : isDefined c = true) (act : Dev → Dev → ActResult)
    (hr : (kFinish h c (kGated s.start c) s.start (act s.view s.start)).fold.resetReq = false)
    (hm : (kFinish h c (kGated s.start c) s.start (act s.view s.start)).memOut = []) :
    kervonNext h c act s = s.become (kFinish h c (kGated s.start c) s.start (act s.view s.start)) := by
  have hk := kRun_taken t hd act
  have hv : projected { s.dev with out := [], memOut := [] } = s.view := rfl
  have hst : ({ s.dev with out := [], memOut := [] } : Dev) = s.start := rfl
  unfold kervonNext nextDev nextWith runPacket
  rw [hst]
  simp only [show projected s.start = s.view from rfl, hk, resetAfter, hr, if_false, hm, memWrites, State.become, Bool.false_eq_true]
  congr 2
  rw [← hm]

/-- The next state of a packet whose result leaves the device as `e`, with no reset asked for: the writes to Pasture that it posted are made. -/
theorem kervon_taken_commit {s : State} {h : CmdHdr} {c : KCmd} (t : Taken s h c) (hd : isDefined c = true) (act : Dev → Dev → ActResult)
    (hr : (kFinish h c (kGated s.start c) s.start (act s.view s.start)).fold.resetReq = false) :
    kervonNext h c act s = s.commit (kFinish h c (kGated s.start c) s.start (act s.view s.start)) := by
  have hk := kRun_taken t hd act
  have hst : ({ s.dev with out := [], memOut := [] } : Dev) = s.start := rfl
  unfold kervonNext nextDev nextWith runPacket
  rw [hst]
  simp only [show projected s.start = s.view from rfl, hk, resetAfter, hr, if_false, State.commit, Bool.false_eq_true]

/-- What a device must be for an accepted packet to leave it so: no reset asked for, nothing posted to Pasture, the epoch as it was. -/
abbrev Plain (s : State) (e : Dev) : Prop := e.fold.resetReq = false ∧ e.memOut = [] ∧ e.sys.epochStaged = s.dev.sys.epochStaged

theorem plain_start {s : State} {h : CmdHdr} {c : KCmd} (t : Taken s h c) : Plain s s.start := ⟨t.1.2.2.2.2, rfl, rfl⟩

@[simp] theorem closeButton_resetReq (g : Bool) (d : Dev) : (closeButton g d).fold.resetReq = d.fold.resetReq := by
  unfold closeButton; split <;> simp

@[simp] theorem closeButton_epoch (g : Bool) (d : Dev) : (closeButton g d).sys = d.sys := by
  unfold closeButton; split <;> simp

theorem kervon_read {s : State} {h : CmdHdr} {c : KCmd} {act : Dev → Dev → ActResult} {data : List Nat} {e : Dev} (t : Taken s h c)
    (hd : isDefined c = true) (ha : act s.view s.start = .read data e) (hp : Plain s e) : kervonNext h c act s = readDone s h c data e := by
  rw [kervon_taken t hd act]
  · rw [ha]; rfl
  · simp [ha, kFinish, hp.1]
  · simp [ha, kFinish, hp.2.1]

theorem kervon_now {s : State} {h : CmdHdr} {c : KCmd} {act : Dev → Dev → ActResult} {data : List Nat} {e : Dev} (t : Taken s h c)
    (hd : isDefined c = true) (ha : act s.view s.start = .now data e) (hp : Plain s e) : kervonNext h c act s = actDone s h c data e := by
  rw [kervon_taken t hd act]
  · simp [ha, kFinish, actDone, accept, kAdvance, replyTo, hdrCtx, hp.2.2, State.nextEpoch]
  · simp [ha, kFinish, hp.1]
  · simp [ha, kFinish, hp.2.1]

theorem kervon_stage {s : State} {h : CmdHdr} {c : KCmd} {act : Dev → Dev → ActResult} {acc : Bool} {pick : Nat} {data : List Nat} {wait : Option Nat}
    {e : Dev} (t : Taken s h c) (hd : isDefined c = true) (ha : act s.view s.start = .stage acc pick data wait e) (hp : Plain s e) :
    kervonNext h c act s = stages s h c acc pick data wait e := by
  rw [kervon_taken t hd act]
  · cases acc <;> simp [ha, kFinish, stages, stagedEntry, accept, kAdvance, replyTo, hdrCtx, hp.2.2, State.nextEpoch]
  · cases acc <;> simp [ha, kFinish, hp.1]
  · cases acc <;> simp [ha, kFinish, hp.2.1]

theorem kervon_stage_writing {s : State} {h : CmdHdr} {c : KCmd} {act : Dev → Dev → ActResult} {acc : Bool} {pick : Nat} {data : List Nat}
    {wait : Option Nat} {e : Dev} (t : Taken s h c) (hd : isDefined c = true) (ha : act s.view s.start = .stage acc pick data wait e)
    (hp : e.fold.resetReq = false ∧ e.sys.epochStaged = s.dev.sys.epochStaged) :
    kervonNext h c act s = stagesWriting s h c acc pick data wait e := by
  rw [kervon_taken_commit t hd act]
  · cases acc <;> simp [ha, kFinish, stagesWriting, stagedEntry, accept, kAdvance, replyTo, hdrCtx, hp.2, State.nextEpoch]
  · cases acc <;> simp [ha, kFinish, hp.1]

theorem finish_accepted {s : State} (h : CmdHdr) (c : KCmd) (g b : Bool) (f : ReplyCtx → Dev) :
    kFinish h c g s.start (.accepted b f)
      = answer (kAdvance (closeButton g (f (replyTo h c s.nextEpoch))) h c b).1 (replyTo h c s.nextEpoch) .accepted [] := rfl

theorem finish_deferred {s : State} (h : CmdHdr) (c : KCmd) (g : Bool) (f : ReplyCtx → Dev) :
    kFinish h c g s.start (.deferred f)
      = answer (kAdvance (closeButton g (f (replyTo h c s.nextEpoch))) h c true).1 (replyTo h c s.nextEpoch) .deferred [] := rfl

theorem finish_later {s : State} (h : CmdHdr) (c : KCmd) (g : Bool) (f : ReplyCtx → Dev) :
    kFinish h c g s.start (.later f) = (kAdvance (closeButton g (f (replyTo h c s.nextEpoch))) h c true).1 := rfl

theorem kervon_accepted {s : State} {h : CmdHdr} {c : KCmd} {act : Dev → Dev → ActResult} {b : Bool} {f : ReplyCtx → Dev} (t : Taken s h c)
    (hd : isDefined c = true) (ha : act s.view s.start = .accepted b f) (hp : Plain s (f (replyTo h c s.nextEpoch))) :
    kervonNext h c act s = begins s h c b .accepted (f (replyTo h c s.nextEpoch)) := by
  rw [kervon_taken t hd act]
  · rw [ha, finish_accepted]
    generalize f (replyTo h c s.nextEpoch) = e at *
    simp [begins, accept, kAdvance, hp.2.2, State.nextEpoch]
  · simp [ha, finish_accepted, hp.1]
  · simp [ha, finish_accepted, hp.2.1]

theorem kervon_deferred {s : State} {h : CmdHdr} {c : KCmd} {act : Dev → Dev → ActResult} {f : ReplyCtx → Dev} (t : Taken s h c)
    (hd : isDefined c = true) (ha : act s.view s.start = .deferred f) (hp : Plain s (f (replyTo h c s.nextEpoch))) :
    kervonNext h c act s = begins s h c true .deferred (f (replyTo h c s.nextEpoch)) := by
  rw [kervon_taken t hd act]
  · rw [ha, finish_deferred]
    generalize f (replyTo h c s.nextEpoch) = e at *
    simp [begins, accept, kAdvance, hp.2.2, State.nextEpoch]
  · simp [ha, finish_deferred, hp.1]
  · simp [ha, finish_deferred, hp.2.1]

theorem kervon_later {s : State} {h : CmdHdr} {c : KCmd} {act : Dev → Dev → ActResult} {f : ReplyCtx → Dev} (t : Taken s h c)
    (hd : isDefined c = true) (ha : act s.view s.start = .later f) (hp : Plain s (f (replyTo h c s.nextEpoch))) :
    kervonNext h c act s = awaits s h c (f (replyTo h c s.nextEpoch)) := by
  rw [kervon_taken t hd act]
  · rw [ha, finish_later]
    generalize f (replyTo h c s.nextEpoch) = e at *
    simp [awaits, accept, kAdvance, hp.2.2, State.nextEpoch]
  · simp [ha, finish_later, hp.1]
  · simp [ha, finish_later, hp.2.1]

end Sys2Proof.Machine
end

