-- ==== Sys2Proof/Tests/Slice0.lean ====
section
/-! SUPPORT. The checks of this model: what the well-formedness check refuses, worked examples of the spec, and for every statement that has hypotheses
a state and operands that meet them, clause by clause. -/

namespace Sys2Proof.Machine

set_option linter.all false
set_option Elab.async false
set_option maxRecDepth 20000

/-- A header with the CHECK of its packet. -/
def sealOnly (h : CmdHdr) (c : KCmd) : CmdHdr := { h with check := checkOf (packetHead h c) (packetParams h c) }

/-- The same with the LENGTH of its packet as well. -/
def sealHdr (h : CmdHdr) (c : KCmd) : CmdHdr := sealOnly { h with length := (cmdBytes c).length } c

/-- A header on ring 0, its reply wanted and presence expected. -/
def hdr0 : CmdHdr := { tr := .ring 0, seq := 1, length := 0, flags := 5, owner := 0x01, expEpoch := 0, check := 0, extra := [] }

/-- A header on ring 0 that passes every check of its form for a command. -/
def hdrOf (c : KCmd) : CmdHdr := sealHdr hdr0 c

/-- A device that has booted, with the seal whole and a button window open. -/
def world : Dev :=
  { Dev.reset with fold := { FoldState.reset with boot := { FoldState.reset.boot with stage := .ready }, guard := { FoldState.reset.guard with window := .button, sealIntact := true } } }

/-- A state with nothing waiting. -/
def stm (d : Dev) (m : Memory) : State := { pending := [], mem := m, dev := d }

/-- A state with nothing waiting and nothing in Pasture. -/
abbrev st (d : Dev) : State := stm d []

/-- What a device must hold for every packet of ring 0 to be taken. -/
def servingB (d : Dev) : Bool :=
  decide (d.fold.boot.stage = .ready ∧ d.pwr.season ≠ .winter ∧ d.pwr.phase ≠ .entering ∧ d.aux.swapState ≠ 1 ∧ d.fold.resetReq = false
    ∧ d.fold.guard.sealIntact = true ∧ d.fold.guard.window ≠ .shut)

def iss0 : Issue := { eng := 0, gap := 0, slot := 0, pred := none }
def ploam0 : PloamHdr := { onu := 0x3FF, seq := 1, micOk := true, now := 0 }

/-- A frame's header at port 0 with the TAG and the CRC that device `d` expects of it. -/
def cascOf (d : Dev) (t : CascType) (src dst hops : Nat) (pay : List Byte) : CascHdr :=
  let tag := cascTag d (cascHead t hops src dst 0 pay)
  { port := 0, hops := hops, src := src, dst := dst, corr := 0, tag := tag, crc := (crc32c (cascBody t hops src dst 0 pay tag)).toNat }

theorem cascOf_hears {d : Dev} {t : CascType} {src dst hops : Nat} {pay : List Byte} (h1 : domOn d 39 = true) (h2 : (cascPort d 0).st ≠ .down) :
    CascHears d (cascOf d t src dst hops pay) t pay :=
  ⟨Nat.zero_le 1, h1, h2, beq_self_eq_true _, (congrArg (_ || ·) (beq_self_eq_true _)).trans (Bool.or_true _)⟩

def bond0 : BondHdr := { micOk := true, reservedOk := true, onu := 0, msgSeq := 1, bondId := 0, epoch := 1, channel := 0, frame := 0, now := 0 }
def img0 : ImageDesc :=
  { kind := 2, programId := 1, version := 1, rollback := 0, signerSlot := 0, size := 1024, formOk := true, hashOk := true, sigOk := true, cycles := 100,
    credits := 10, digest := 0, table := [{ entry := 0, cls := 0, trigger := 0, line := 0, cycles := 100, deadline := 1 }] }
def tx0 : TxOp := { now := 0, stamp := 0, deferred := false, carrierLost := false, collided := false }
def queue0 : QueueFields := { group := 0, slot := 0, quantum := 64, limitG := 1, yPct := 50, rPct := 50, deep := false }
def leg0 : LegRec :=
  { id := 0, conf := 0, audioIn := true, audioOut := true, ipv6 := false, srtp := false, nackReq := false, ecn := false, fixed := false, audioFec := false,
    videoOut := 0, contrib := false, hashProfile := 1, ctrlDest := 0, localAddr := 1, remoteAddr := 2, localPort := 5004, remotePort := 5006, egress := 0,
    dscp := 0, tci := 0, aSsrcIn := 1, aSsrcOut := 2, vSsrcIn := 0, vSsrcOut := 0, aCodec := 1, aPt := 96, vCodecIn := 0, vPtIn := 0, vCodecOut := 0,
    vPtOut := 0, extDd := 0, lang := 0, saIn := 0xFFFF, saOut := 0xFFFF, jbMin := 24, jbMax := 48, bwMin := 64, bwMax := 128, bwStart := 96,
    arMin := 16, arMax := 64, maxW := 0, maxH := 0, maxFps := 0, layout := 0, fbInterval := 0, allocId := 0, contribMax := 0, reservedOk := true }
def conf0 : ConfRec :=
  { id := 0, mixEngine := 0xFFFF, topK := 4, langCount := 1, spans := false, leaveFade := false, video := false, encSettings := 1, inputReserve := 4, tag := 0,
    reservedOk := true }
def trunk0 : TrunkRec :=
  { trunk := 0, inbound := true, outbound := true, channels := 8, degInsert := false, bonded := false, engine := 0xFFFF, slice := 0, target := 12, portIn := 16,
    portOut := 17, allocId := 1, degThr := 1, degSet := 1, degClr := 1, reservedOk := true }
def time0 : TimeCfg :=
  { todSrc := false, autoRate := true, src := 0, phaseOfs := 0, holdDrift := 1000, todStepMax := 1000, todErr := 100, ppsWidth := 100, rclkSquelch := false,
    rclkSel := 0, sleepDrift := 5000, cascAsym0 := 0, cascAsym1 := 0, succRank := 15 }
def tick0 : TickIn :=
  { refCycles := 19531, crystalCycles := 4, lostIn := [], lostMix := [], lostRoutes := [], engines := [], mics := [], decoded := [], packets := [],
    scrubShort := [], scrubFound := [], stores := [] }
def tdm0 : TdmRec := { port := 0, slots := 16, width := 16, mode := 0, enable := true, fsHz := 48000, reservedOk := true }
def sa0 : SaRecord := { path := 1, cipher := 1, dir := 0, keyLen := 16, pktLimit := 0, byteLimit := 0, ssci := 0, zeroOk := true }
def act0 : ActionRec := { dest := 0, cls := 0, colour := 0, target := 64, policer := 0xFFFF, pushTci := 0, pushTpid := false, reservedOk := true }
def rule0 : RuleRec := { value := 0, mask := 0, action := act0 }
def rtp0 : RtpIn := { b0 := 0x80, b1 := 96, ssrc := 1, index := 0, bytes := 100, authNew := true, authOld := true, ts := 0, marker := true, stamp := 0, ecn := 0, body := [] }
def route0 : RouteRec :=
  { id := 0, output := false, crossfade := false, gateOk := false, conf := 0, role := 0, channel := 0, endType := 0, endUnit := 0, endIndex := 0,
    minus := 0xFFFF, gain := 0, monitor := 0, engine := 0, rateHz := 48000, reservedOk := true }
def port0 : PortFields :=
  { enable := true, pauseRx := true, svcAuto := true, svcSpeed := 2, svcDuplex := true, maxFrame := 1522, promisc := false, passAllMcast := false, pvid := 1,
    pcpDefault := 0, ingPush := false, ingTpid := false, egrStrip := false, lpiEn := false, lpiIdle := 1, lpiRxTw := 17, lpiTwMax := 20 }
def otp0 : OtpFields := { rootEpoch := 0, jumper := false, debug := false, mgmt := false, keylistHash := 0, mgmtKeyHash := 0, ownerId := 0 }
def meter0 : MeterFields := { mode := 0, yellowAct := 0, redAct := 0, cir := 1000, cbs := 4096, pir := 2000, pbs := 8192 }
def meas0 : Measures := { told := 10, lost := 0, ce := 0, trendN := 0, trendD := 1, sendRate := 64000, rtt := 100, jitter := 3, fresh := true }
def mark0 : Marker := { tick := 5, device := 1, state := 2, timeErr := 10, epoch := 1 }
def layer0 : LayerIn := { spatial := 0, temporal := 0, opens := true, spatialSwitch := false, temporalSwitch := false, dims := [] }
def cell0 : CellRec := { x := 0, y := 0, w := 1, h := 1, kind := 0, tier := 0, source := 0 }
def layout0 : LayoutRec :=
  { id := 0, conf := 0, excludeSelf := false, hasS := true, hasM := false, hasL := false, border := 0, videoHold := 0, refresh := 0,
    variants := [{ w := 1, h := 1, fps := 30, cells := [cell0] }], reservedOk := true }
def keys0 : KeyList := { keys := [(0, 7)] }
def gem0 : GemIn := { port := 16, keyIdx := none, multicast := false, first := true, last := true, data := [], frame := 0, now := 0 }
def frame0 : FrameIn :=
  { bytes := List.replicate 64 0, fcsOk := true, pcsErr := false, partialByte := false, macsec := .untagged, stamp := 0, outStamp := 0, now := 0, egressBusy := false }
def frag0 : FragIn := { verOk := true, hcrcOk := true, sof := true, eof := true, seq := 0, port := 16, data := [] }
def ds0 : DsFrame := { found := true, countOk := true, frameCount := 1, chan := 0, skew := 0, fecCorr := 0, fecUncorr := 0, stamp := 0, now := 0, levels := [] }
def contrib0 : ContribRec := { leg := 0, mode := 0, relayer := false, width := 640, height := 480, fps := 30, reservedOk := true }
def burst0 : BurstIn := { reqs := [], fetchBytes := [], fetchFail := [], data := [], readFail := none, writeFail := none, listeners := [] }
def acc0 : AccCfg := { native := (true), rate := 2, regId := 0, to1 := 10000, to2 := 100, tkey := 5000, flapWindow := 60, qbase := 10 }

/-- A staged entry, its change still to be named. -/
def stg : Staged :=
  { change := .headEndOffset 0, ctx := { tr := some (.ring 0), op := 0x0100, seq := 1, wanted := true, epoch := 1 }, data := [], accepted := false,
    armed := true, waitDomain := none }

theorem hdrOf_flags (c : KCmd) : (hdrOf c).reservedFlag = false ∧ (hdrOf c).epochCheck = false ∧ (hdrOf c).presenceExpected = true :=
  (by decide : (((5#8) >>> 3 != 0#8) = false ∧ (5#8).getLsbD 1 = false ∧ (5#8).getLsbD 2 = true))

theorem header0 (c : KCmd) (h : (cmdBytes c).length ≤ 4080 := by decide +kernel) : HeaderOk (hdrOf c) c :=
  ⟨beq_self_eq_true _, decide_eq_false (Nat.not_lt.mpr h), beq_self_eq_true _, (hdrOf_flags c).1, rfl⟩

theorem taken_st {d : Dev} {m : Memory} (hs : servingB d = true) (c : KCmd) (hd : (kDomains c).all (fun k => domOn (stm d m).start k) = true)
    (hl : (cmdBytes c).length ≤ 4080 := by decide +kernel) : Taken (stm d m) (hdrOf c) c := by
  have h := of_decide_eq_true hs
  refine ⟨⟨.inr h.1, h.2.1, h.2.2.1, h.2.2.2.1, h.2.2.2.2.1⟩, header0 c hl,
    ⟨fun _ k hk => (nomatch hk), fun _ => ⟨h.2.2.2.2.2.1, h.2.2.2.2.2.2, (hdrOf_flags c).2.2⟩⟩, fun he => absurd he (by rw [(hdrOf_flags c).2.1]; decide), ?_⟩
  exact List.all_eq_true.mp hd

theorem allowed_st {d : Dev} (h1 : d.fold.guard.sealIntact = true) (h2 : d.fold.guard.window ≠ .shut) (c : KCmd) :
    Allowed (st d).start (hdrOf c) c :=
  ⟨fun _ k hk => (nomatch hk), fun _ => ⟨h1, h2, (hdrOf_flags c).2.2⟩⟩

/-- An association ready for SRTP in one direction. -/
def saIn0 : Sa := { st := .ready, rcd := sa0, key := 1, salt := 2, pkts := 0, ctrlPkts := 0, bytes := 0, prot := [] }

/-- A leg in service on engine 0. -/
def legOn0 : Leg := { newLeg leg0 0 with st := .active }

/-- A booted device with one of each kind of object in service: a conference, a leg, routes, a layout, a trunk, a queue and a group of the host's, a
session with the Fold, a base and two associations. -/
def full : Dev :=
  onFold
    { world with
      media := { world.media with confs := [(0, newConf conf0 0)], legs := [(0, legOn0)] }
      aud := { world.aud with routes := [(0, newRoute route0 0), (1, newRoute { route0 with id := 1, output := true, endIndex := 0 } 0)] }
      vid := { world.vid with layouts := [(0, layout0)] }
      imc := { world.imc with trunks := [(0, newTrunk trunk0 0 none)] }
      tm := { world.tm with queues := [(64, newQueue 64 0 .host Bucket.off)], groups := [(64, newGroup 512 0 1600 .host)] } }
    (fun f => { f with
      sessions := [(0, 7)], bases := [(0, List.replicate 32 1)], sas := [(0, saIn0), (1, { saIn0 with rcd := { sa0 with dir := 1 } })] })

/-- A booted device whose slice 0 is in a state, hears its PLOAM channel and is changed further by `f`. -/
def slice0 (s : AccSt) (f : Slice → Slice) : Dev := onSlice world 0 (fun x => f { x with st := s, onu := 5, sync := true })

/-- The same in native mode with an eligible bond. -/
def bond1 (f : Slice → Slice) : Dev := onBond (onAcc (slice0 .o5 f) (fun a => { a with cfg := acc0 })) (fun b => { b with mask := 15 })

def bondHdr1 : BondHdr := { bond0 with onu := 5, epoch := 1 }

/-- A device whose service port and management sessions serve. -/
def sessions1 (f : Sess → Sess) : Dev :=
  onSess (onPort (onBoot world (fun b => { b with otpInForce := some { otp0 with mgmt := true } })) 4 (fun p => { p with f := port0, link := true })) 0 f

def grant0 : Grant := { alloc := 1, profile := 0, start := 0, stop := 100, cap := 0, ploam := false, report := false, kind := 0 }
def burst1 : Burst := { eqd := 0, frameAt := 0, grants := [grant0], parts := none }
def held1 : HeldFrag := { seq := 2, came := 0, deadline := 0, frag := frag0 }
def out1 (n : Nat) : BondOut := { type := 1, chan := 0, slice := 0, status := 0, cause := 0, seq := 1, sends := n, nextAt := 0 }

/-- `d` with every power domain on. -/
def domW (d : Dev) : Dev := { d with pwr := { d.pwr with doms := (List.range 40).map (fun k => (k, DomSt.on)) } }

/-- A booted device with a client port enabled and its link up, changed further by `f`. -/
def portW (n : Nat) (f : CliPort → CliPort) : Dev := onPort (domW world) n (fun p => f { p with f := port0, link := true })

def csma0 : CsmaState :=
  { frame := some { len := 64, push := 0, tpid := false, twoStep := none, stamp := 0, admitted := 0, place := .onDie, bytes := [], clear := false }, collisions := 0, backoff := 0,
    waiting := false, deferred := false }

/-- The service port at 1 Gb/s with low-power idle enabled. -/
def portLpi (tw : Nat) : Dev := portW 4 (fun p => { p with f := { port0 with lpiEn := true, lpiTwMax := tw }, speed := 2, duplex := true, partnerTw := some 5 })

/-- A queue whose freed contents leave before the bell `b`, at the tick `n`. -/
def drainW (n b : Nat) : Dev :=
  onBell (onTm (domW world) (fun t => { t with queues := [(64, { newQueue 64 0 .host Bucket.off with freeAt := some (BitVec.ofNat 64 b) })] }))
    (fun x => { x with tick := BitVec.ofNat 64 n })

/-- Both cascade ports in one state, the first changed further by `f`. -/
def cascW (s : PortSt) (f : CascPort → CascPort) : Dev :=
  onCascPort (onCascPort (domW world) 0 (fun p => f { p with st := s })) 1 (fun p => { p with st := s })

/-- The same with a twin, device 1, shadowing. -/
def twinW (r : Tbl (Nat × Nat)) : Dev := onCasc (cascW .up id) (fun c => { c with twin := some 1, twinSt := .shadowing, routes := r })

/-- A booted device whose engine 0 has pointer 0 at `p` and is changed further by `f`. -/
def engW (p : Nat) (f : Eng → Eng) : Dev :=
  onEng (domW world) 0 (fun e => f { e with core := { e.core with main := { e.core.main with p := [(0, BitVec.ofNat 32 p)] }, shadow := { e.core.shadow with p := [(0, BitVec.ofNat 32 p)] } } })

def desc0 : DescIn :=
  { src := 0, dst := 0, length := 64, srcSpace := 1, dstSpace := 1, burst := 64, req := 0, reqEn := false, event := false, last := false, fixSrc := false,
    fixDst := false, link := false, cls := 3, reservedOk := true }

/-- A booted device with Drove channel 0 listed, changed by `f`. -/
def drvW (f : Chan → Chan) : Dev := onDrove (domW world) (fun z => { z with chans := [(0, f Chan.reset)] })

theorem mid_of {P : Nat → Prop} {r n : Nat} (h : ∀ j, j < n → r < j → P j) : ∀ j, r < j ∧ j < n → P j := fun j hj => h j hj.2 hj.1

/-- A booted device one of whose lanes receives, changed further by `f`. -/
def laneW (n : Nat) (f : Lane → Lane) : Dev := onLane (domW world) n (fun l => f { l with ctrl := 2#32 })

def onTdmPort (d : Dev) (n : Nat) (f : TdmPort → TdmPort) : Dev := onAud d (fun a => { a with tdm := [(n, f { cfg := tdm0, lock := true, alarm := false, good := 0, phase := 0, fill := 0, inBuf := [], outBuf := [], slips := 0, alarms := 0 })] })

/-- `full` with a contribution of mode `m` from leg 0. -/
def vidW (m : Nat) (f : Contrib → Contrib) : Dev :=
  onVid full (fun v => { v with contribs := [(0, f { rcd := { contrib0 with mode := m, width := 640, height := 384 }, cluster := 0, conform := false, tier := 0, poc := none, seen := [], decoding := [], stalled := false, shown := false, layered := false })] })

/-- `full` with one composed stream of layout 0, at the tick `n`. -/
def strW (f : Stream → Stream) (n : Nat) : Dev :=
  onBell
    (onVid full (fun v => { v with
      layouts := [(0, { layout0 with refresh := 1 })]
      streams := [(0, f { layout := 0, variant := 0, self := none, start := 0, k := 1, cells := [], coming := none, intraDue := [], intraAsked := none, refreshAt := none, sets := none, poc := 0, geometry := { w := 1, h := 1, fps := 30, cells := [cell0] } })] }))
    (fun b => { b with tick := BitVec.ofNat 64 n })

def wake0 : LastWake := { pins := 1, headEnd := false, alarm := false, core := false, abort := 0 }

/-- A device in a Winter job at one of its steps. -/
def winW (ph : Phase) (step : Nat) (f : WinterJob → WinterJob) : Dev :=
  onPwr world (fun p => { p with phase := ph, winter := some (f { step := step, fromSeason := .summer, ctx := none, onBefore := [], pcieOff := false, held := none }) })

theorem tag_long {d : Dev} {h : CascHdr} {t : CascType} {pay : List Byte} (ht : tagged t = true) (hl : 16 < h.tag.length) : tagHolds d h t pay = false := by
  unfold tagHolds
  rw [ht]
  have : h.tag ≠ cascTag d (cascHead t h.hops h.src h.dst h.corr pay) := fun e => by
    have := congrArg List.length e
    simp [cascTag] at this
    omega
  simp [this]

/-- A KEEPALIVE frame's header with a TAG too long to be one, its CRC right. -/
def casc17 : CascHdr :=
  { port := 0, hops := 0, src := 1, dst := 0, corr := 0, tag := List.replicate 17 0#8,
    crc := (crc32c (cascBody .control 0 1 0 0 (ctlBytes .keepalive) (List.replicate 17 0#8))).toNat }

/-- The body of the image that `imgMem` holds: one audio task at the code's first bundle, and that bundle. -/
def imgBody : List Byte := [0, 0x20, 0, 0, 0, 0, 0, 0, 100, 0, 0, 0, 1, 0, 0, 0] ++ List.replicate 16 0

/-- Pasture with an engine image of a kind and a signer's slot at its start. -/
def imgMem (kind slot : Byte) : Memory :=
  [(0, 0x31), (1, 0x46), (2, 0x4C), (3, 0x4B), (4, 1), (6, slot), (7, kind), (12, 1), (20, 16), (28, 100), (36, 1)]
    ++ (List.range 32).map (fun i => (40 + i, BitVec.ofNat 8 (Config.sha256 imgBody % 2 ^ 256 / 256 ^ (31 - i))))
    ++ [(129, 0x20), (136, 100), (140, 1)]

theorem leNat_leBytes (v n : Nat) : leNat (leBytes v n) = v % 256 ^ n := by
  have h : ∀ (n k v : Nat), leNat ((List.range' k n).map (fun i => BitVec.ofNat 8 (v / 256 ^ i))) = v / 256 ^ k % 256 ^ n := by
    intro n
    induction n with
    | zero => intro k v; simp [leNat, Nat.mod_one]
    | succ n ih =>
      intro k v
      have := ih (k + 1) v
      simp only [leNat] at this
      simp only [List.range'_succ, List.map_cons, leNat, List.foldr_cons, this, BitVec.toNat_ofNat]
      rw [Nat.pow_succ 256 k, ← Nat.div_div_eq_div_mul, Nat.pow_succ 256 n, Nat.mul_comm (256 ^ n) 256, Nat.mod_mul]
  have := h n 0 v
  simpa [leBytes, List.range_eq_range'] using this

/-- The bytes of an engine image that its digest covers. -/
def imgBodyLen (rd : ImageRd) : Nat :=
  16 * imgField rd 36 1
    + (if decide (imgField rd 20 4 ≤ 120 * 1024 ∧ imgField rd 20 4 % 16 = 0 ∧ imgField rd 24 4 ≤ 240 * 1024 ∧ imgField rd 28 4 ≤ 180000 ∧ 1 ≤ imgField rd 36 1
          ∧ imgField rd 36 1 ≤ 32 ∧ imgField rd 37 1 ≤ 512 ∧ imgField rd 38 2 ≤ 32) = true
      then imgField rd 20 4 + imgField rd 24 4 else 0)

theorem engineImage_hashOk (rd : ImageRd) (b : Bool) :
    (engineImage rd b).hashOk = decide (Config.sha256 (rd 128 (imgBodyLen rd)) % 2 ^ 256 = imgDigest rd 40) := rfl

theorem imgMem_hash {k s : Byte} {b : Bool} (hl : imgBodyLen (fun off n => memRead (imgMem k s) (0 + off) n) = 32) :
    (engineImage (fun off n => memRead (imgMem k s) (0 + off) n) b).hashOk = true := by
  have hd : imgDigest (fun off n => memRead (imgMem k s) (0 + off) n) 40 = leNat (leBytes (Config.sha256 imgBody % 2 ^ 256) 32) := rfl
  have hb : memRead (imgMem k s) (0 + 128) 32 = imgBody := rfl
  rw [engineImage_hashOk, hl, hd, hb, leNat_leBytes]
  exact decide_eq_true (Nat.mod_eq_of_lt (Nat.mod_lt _ (by decide))).symm

theorem imageAt_engine {m : Memory} {b : Bool} (h : imgField (fun off n => memRead m (0 + off) n) 0 4 ≠ 0x4B465731) :
    imageAt m 0 b = engineImage (fun off n => memRead m (0 + off) n) b := if_neg h

theorem imgMem_ok {d : Dev} {k s : Byte} (hl : imgBodyLen (fun off n => memRead (imgMem k s) (0 + off) n) = 32)
    (hm : imgField (fun off n => memRead (imgMem k s) (0 + off) n) 0 4 ≠ 0x4B465731)
    (h : (imageAt (imgMem k s) 0 true).formOk = true ∧ signedOk d (imageAt (imgMem k s) 0 true) = true
      ∧ ¬ ((imageAt (imgMem k s) 0 true).kind = 1 ∧ (imageAt (imgMem k s) 0 true).signerSlot = 0
        ∨ (imageAt (imgMem k s) 0 true).kind ≠ 1 ∧ (imageAt (imgMem k s) 0 true).signerSlot ≠ 0)) :
    verifyImage d (imageAt (imgMem k s) 0 true) true = none := by
  have hh : (imageAt (imgMem k s) 0 true).hashOk = true := by
    rw [show imageAt (imgMem k s) 0 true = engineImage (fun off n => memRead (imgMem k s) (0 + off) n) true from imageAt_engine hm]
    exact imgMem_hash hl
  simp only [verifyImage, h.1, hh, h.2.1, h.2.2]
  simp

/-- The 80 bytes of an association for SRTP, outbound, with a key of 16 bytes (R483). -/
def saPlain : List Byte := [1, 1, 0, 16] ++ List.replicate 76 0

/-- A contribution picture without layers, its other properties within R158. -/
def pic0 : PicIn :=
  { layers := [], profile := .vvcMain10, level := 40, depth := 8, progressive := true, c420 := true, intra := true, lost := false,
    vvc := { aggregated := false, donl := false, layerId := 0, temporalId := 0, window := none, depth8 := 0, ctu5 := 0, tile := (1, 1), rectSlices := true,
             slices := 1, acrossTiles := false, subpics := 0, nal := 1, leading := false, bSlices := false, refs := [], poc := 0, inPh := 0, tools := 0,
             aps := false, others := [] } }

theorem serving_st {d : Dev}
    (h : decide (d.fold.boot.stage = .ready ∧ d.pwr.season ≠ .winter ∧ d.pwr.phase ≠ .entering ∧ d.aux.swapState ≠ 1 ∧ d.fold.resetReq = false) = true) :
    Serving (st d).start := by
  have h := of_decide_eq_true h
  exact ⟨.inr h.1, h.2.1, h.2.2.1, h.2.2.2.1, h.2.2.2.2⟩

/-- A sealed header of a right form passes the checks of its form. -/
theorem headerB {h : CmdHdr} {c : KCmd} (hl : (sealHdr h c).lengthOver = false)
    (ho : (sealHdr h c).reservedFlag = false ∧ (match h.tr with
      | .ring _ => h.owner = 0x01#8
      | .session k => h.owner = BitVec.ofNat 8 (0x10 + k))) : HeaderOk (sealHdr h c) c :=
  ⟨beq_self_eq_true _, hl, beq_self_eq_true _, ho.1, ho.2⟩

/-! ### What the well-formedness check refuses -/

theorem test_wf_refuses_slice_4 :
    (∀ a b c, (Instr.todMessage 4 a b c).wf = false)
    ∧ (∀ a, (Instr.downstreamFrame 4 a).wf = false)
    ∧ (∀ a b, (Instr.opticsSdLoss 4 a b).wf = false)
    ∧ (∀ a b c d e, (Instr.ploamBurstProfile 4 a b c d e).wf = false)
    ∧ (∀ a b c, (Instr.ploamAssignOnuId 4 a b c).wf = false)
    ∧ (∀ a b c, (Instr.ploamRangingTime 4 a b c).wf = false)
    ∧ (∀ a, (Instr.ploamDeactivateOnuId 4 a).wf = false)
    ∧ (∀ a b c, (Instr.ploamDisableSerialNumber 4 a b c).wf = false)
    ∧ (∀ a, (Instr.ploamRequestRegistration 4 a).wf = false)
    ∧ (∀ a b c, (Instr.ploamAssignAllocId 4 a b c).wf = false)
    ∧ (∀ a b c, (Instr.ploamKeyControl 4 a b c).wf = false)
    ∧ (∀ a b, (Instr.ploamSleepAllow 4 a b).wf = false)
    ∧ (∀ a, (Instr.ploamUnknownType 4 a).wf = false)
    ∧ (∀ a b, (Instr.bwmapRx 4 a b).wf = false)
    ∧ (∀ a, (Instr.burstCommit 4 a).wf = false)
    ∧ (∀ a, (Instr.burstWindow 4 a).wf = false)
    ∧ (∀ a b, (Instr.watchdogTrip 4 a b).wf = false)
    ∧ (Instr.to1Expiry 4).wf = false
    ∧ (Instr.to2Expiry 4).wf = false
    ∧ (Instr.tkeyExpiry 4).wf = false
    ∧ (Instr.flapWindowExpiry 4).wf = false
    ∧ (Instr.quarantineExpiry 4).wf = false
    ∧ (∀ a, (Instr.gemFrameRx 4 a).wf = false)
    ∧ (∀ a, (Instr.gemReassemblyTimeout 4 a).wf = false)
    ∧ (∀ a b c d e, (Instr.omciMessage 4 a b c d e).wf = false)
    ∧ (Instr.dyingGaspDisable 4).wf = false
    ∧ (Instr.sleepAwarePeriod 4).wf = false
    ∧ (∀ a b, (Instr.bondFragmentRx 4 a b).wf = false)
    ∧ (∀ a b c d, (Instr.bondOffer 4 a b c d).wf = false)
    ∧ (∀ a b, (Instr.channelAdd 4 a b).wf = false)
    ∧ (∀ a b, (Instr.channelRemove 4 a b).wf = false)
    ∧ (∀ a b c, (Instr.bondAlloc 4 a b c).wf = false)
    ∧ (∀ a, (Instr.bondRelease 4 a).wf = false)
    ∧ (∀ a b, (Instr.bondMsgUnknown 4 a b).wf = false)
    ∧ (Instr.channelJoinFrame 4).wf = false
    ∧ (∀ a b, (Instr.channelDeparture 4 a b).wf = false) :=
  ⟨(fun _ _ _ => rfl), (fun _ => rfl), (fun _ _ => rfl), (fun _ _ _ _ _ => rfl), (fun _ _ _ => rfl), (fun _ _ _ => rfl), (fun _ => rfl), (fun _ _ _
    => rfl), (fun _ => rfl), (fun _ _ _ => rfl), (fun _ _ _ => rfl), (fun _ _ => rfl), (fun _ => rfl), (fun _ _ => rfl), (fun _ => rfl), (fun _ =>
    rfl), (fun _ _ => rfl), rfl, rfl, rfl, rfl, rfl, (fun _ => rfl), (fun _ => rfl), (fun _ _ _ _ _ => rfl), rfl, rfl, (fun _ _ => rfl), (fun _ _ _ _
    => rfl), (fun _ _ => rfl), (fun _ _ => rfl), (fun _ _ _ => rfl), (fun _ => rfl), (fun _ _ => rfl), rfl, (fun _ _ => rfl)⟩

theorem test_wf_refuses_leg_8192 :
    (Instr.legDrainEnd 8192).wf = false
    ∧ (∀ a b c, (Instr.legPacketRx 8192 a b c).wf = false)
    ∧ (Instr.rekeyGraceEnd 8192).wf = false
    ∧ (Instr.adaptationRun 8192).wf = false
    ∧ (Instr.feedbackStarved 8192).wf = false
    ∧ (Instr.feedbackReportSend 8192).wf = false
    ∧ (∀ a b, (Instr.nackSend 8192 a b).wf = false)
    ∧ (∀ a, (Instr.contribPictureRx 8192 a).wf = false)
    ∧ (∀ a, (Instr.decodeDone 8192 a).wf = false) :=
  ⟨rfl, (fun _ _ _ => rfl), rfl, rfl, rfl, rfl, (fun _ _ => rfl), (fun _ => rfl), (fun _ => rfl)⟩

theorem test_wf_refuses_engine_256 :
    (Instr.engineFailed 256).wf = false :=
  rfl

theorem test_wf_refuses_headset_2 :
    (Instr.headsetBankSwap 2).wf = false
    ∧ (Instr.hsDetInsertEdge 2).wf = false
    ∧ (Instr.hsInsertDebounced 2).wf = false
    ∧ (∀ a b, (Instr.hsClassify 2 a b).wf = false)
    ∧ (Instr.hsButtonArm 2).wf = false
    ∧ (Instr.hsDetRemoveEdge 2).wf = false
    ∧ (Instr.hsRemoveExpiry 2).wf = false
    ∧ (∀ a, (Instr.hsButtonSample 2 a).wf = false) :=
  ⟨rfl, rfl, rfl, (fun _ _ => rfl), rfl, rfl, rfl, (fun _ => rfl)⟩

theorem test_wf_refuses_lane_32 :
    (∀ a b c, (Instr.mvS a b c 32).wf = false)
    ∧ (∀ a b c d, (Instr.laneAdapted 32 a b c d).wf = false)
    ∧ (Instr.laneCdrLoss 32).wf = false
    ∧ (∀ a b, (Instr.eyeScan 32 a b).wf = false)
    ∧ (∀ a b c, (Instr.laneMarkerRx 32 a b c).wf = false)
    ∧ (Instr.laneFailure 32).wf = false
    ∧ (Instr.laneSlip 32).wf = false
    ∧ (∀ a b, (Instr.cascLaneCopyRx a b 32).wf = false) :=
  ⟨(fun _ _ _ => rfl), (fun _ _ _ _ => rfl), rfl, (fun _ _ => rfl), (fun _ _ _ => rfl), rfl, rfl, (fun _ _ => rfl)⟩

theorem test_wf_refuses_chan_128 :
    (∀ a, (Instr.bondMsgRetry a 128).wf = false)
    ∧ (Instr.droveStart 128).wf = false
    ∧ (Instr.droveResume 128).wf = false
    ∧ (Instr.droveSkip 128).wf = false
    ∧ (Instr.droveAbort 128).wf = false :=
  ⟨(fun _ => rfl), rfl, rfl, rfl, rfl⟩

theorem test_wf_refuses_trunk_64 :
    (∀ a, (Instr.imcStreamRx 64 a).wf = false)
    ∧ (Instr.imcDegInterval 64).wf = false :=
  ⟨(fun _ => rfl), rfl⟩

theorem test_wf_refuses_cv_64 :
    (Instr.cvInit 64).wf = false
    ∧ (∀ a, (Instr.cvData8 64 a).wf = false)
    ∧ (∀ a, (Instr.cvData16 64 a).wf = false)
    ∧ (∀ a, (Instr.cvData32 64 a).wf = false)
    ∧ (∀ a b, (Instr.cvValueWrite 64 a b).wf = false)
    ∧ (∀ a, (Instr.cvAliveWrite 64 a).wf = false) :=
  ⟨rfl, (fun _ => rfl), (fun _ => rfl), (fun _ => rfl), (fun _ _ => rfl), (fun _ => rfl)⟩

theorem test_wf_refuses_ring_4 :
    (∀ a b c, (Instr.sqTailDoorbell 4 a b c).wf = false)
    ∧ (∀ a, (Instr.cqHeadDoorbell 4 a).wf = false)
    ∧ (∀ a, (Instr.ringEnable 4 a).wf = false) :=
  ⟨(fun _ _ _ => rfl), (fun _ => rfl), (fun _ => rfl)⟩

theorem test_wf_refuses_session_8 :
    (∀ a b c d, (Instr.sessionProof 8 a b c d).wf = false)
    ∧ (∀ a b c, (Instr.sessionCommand 8 a b c).wf = false)
    ∧ (∀ a b, (Instr.sessionClose 8 a b).wf = false)
    ∧ (Instr.sessionIdleTimeout 8).wf = false
    ∧ (Instr.sessionProofTimeout 8).wf = false :=
  ⟨(fun _ _ _ _ => rfl), (fun _ _ _ => rfl), (fun _ _ => rfl), rfl, rfl⟩

theorem test_wf_refuses_core_16 :
    (Instr.controlCoreFence 16).wf = false :=
  rfl

theorem test_wf_refuses_transport :
    (Instr.pwrQuery { hdr0 with tr := .ring 4 }).wf = false ∧ (Instr.pwrQuery { hdr0 with tr := .session 8 }).wf = false
    ∧ (Instr.pwrQuery { hdr0 with tr := .ring 3 }).wf = true ∧ (Instr.pwrQuery { hdr0 with tr := .session 7 }).wf = true := by decide

theorem test_wf_refuses_address :
    (Instr.registerRead 0x10000000).wf = false ∧ (Instr.registerRead 2).wf = false ∧ (Instr.registerWrite 0x10000000 0).wf = false
    ∧ (Instr.registerWrite 2 0).wf = false ∧ (Instr.registerRead 0xFFFFFFC).wf = true := by decide

theorem test_wf_refuses_bar2 :
    (Instr.bar2Access 0xFFFFFFFF true [] 2 .clean).wf = false ∧ (Instr.bar2Access 0 true [] 0 .clean).wf = false
    ∧ (Instr.bar2Access 0xFFFFFFFE true [] 2 .clean).wf = true := by decide

theorem test_wf_refuses_packet :
    (Instr.sqTailDoorbell 0 1 [{ hdr := { hdr0 with tr := .ring 4 }, cmd := .pwrQuery }] false).wf = false
    ∧ (Instr.sessionCommand 0 0 true { hdr := { hdr0 with tr := .session 8 }, cmd := .pwrQuery }).wf = false := by decide

/-- The table gives no row bits. -/
theorem test_no_word_is_a_command : decodeTableWord 32 0 = none := by decide

/-! ### Worked examples of the spec -/

/-- R94, charging one conference: an audio-only Opus leg, and one that contributes video at 2,500 kb/s and receives 3,000 kb/s. -/
theorem test_leg_charge :
    legCharge { leg0 with aCodec := 4 } = (4200, 22)
    ∧ legCharge { leg0 with aCodec := 4, contrib := true, contribMax := 2500, videoOut := 1, bwMax := 3000 } = (5550, 74) := by decide

/-- R94, the same example: the mix engine's charge with INPUT_RESERVE 32, and each input above it. -/
theorem test_conf_charge :
    confCharge { conf0 with langCount := 2 } 32 = (11240, 88) ∧ confCharge { conf0 with langCount := 2 } 34 = (11480, 92) := by decide

/-- R125, a four-talker mix: the gain of four talkers on the floor, and of three in a mix-minus. -/
theorem test_mix_gain :
    (1440000 * gainTableReset.getD 4 0 + 8192) / 16384 = 721670 ∧ (240000 * gainTableReset.getD 3 0 + 8192) / 16384 = 138823 := by decide

/-- R206, the input gain stage: lanes 0 to 2, with SCALE0 14, RND set and SATW 24 bits. -/
theorem test_gain_stage :
    [1200000, 8000000, -300000].map (fun (x : Int) => clampW (mcrSatw 0x0300000E#32) (scaleLane 0x0300000E#32 0 (BitVec.ofInt 80 (x * 20000)))) = [1464844, 8388607, -366211] := by
  decide +kernel

/-- R67 and R68, one hour of Winter: 28,799,539 bells passed over, and a TIME_ERR of 18,060,759 ns. -/
theorem test_winter_hour :
    let t := thawTime 117964800
      (onBell world fun b => { b with sleep := { b.sleep with cal := 1999968001, keptErr := 12, keptCalValid := true, drift := 5000, keptTick := 0, sEntry := 0 } })
    t.bell.tick = 28799539 ∧ t.bell.err.timeErr = 18060759 := by decide +kernel

/-- R432 and R437, shifting a block in Pasture: the copy runs descending, in the bursts 0x1800, 0x800 and 0x0. -/
theorem test_block_shift :
    let x := { desc0 with src := 0x100000800, dst := 0x100001800, length := 0x2800, srcSpace := 0, dstSpace := 0, burst := 6 }
    runsDown x = true ∧ burstAt x 0x27FF = (0x1800, 0x2800) ∧ burstAt x 0x17FF = (0x800, 0x1800) ∧ burstAt x 0x7FF = (0, 0x800) := by decide

/-- R396: CRC-32C over the string 123456789. -/
theorem test_crc32c : crc32c [0x31, 0x32, 0x33, 0x34, 0x35, 0x36, 0x37, 0x38, 0x39] = 0xE3069283 := by decide +kernel

/-- R456, an intercom's alive counter: with ALIVE_MAX 2 and A at 250 the value 251 is OK, and then 251 again REPEATED. -/
theorem test_alive_ok :
    let d := cvAlive 0 251 (onCv world 0 fun x => { x with aliveInit := false, alive := 250, aliveMax := 2 })
    (cvOf d 0).result = 1 ∧ (cvOf d 0).alive = 251 ∧ (cvOf (cvAlive 0 251 d) 0).result = 3 := by decide +kernel

/-- R456, the same example: with A at 254, 9 and then 10 are STALE, and 11 starts afresh. -/
theorem test_alive_run :
    let d := cvAlive 0 10 (cvAlive 0 9 (onCv world 0 fun x => { x with aliveInit := false, alive := 254, aliveMax := 2 }))
    (cvOf d 0).result = 5 ∧ (cvOf d 0).run = 2 ∧ (cvOf (cvAlive 0 11 d) 0).result = 2 ∧ (cvOf (cvAlive 0 11 d) 0).alive = 11 := by decide +kernel

/-! ### The hypotheses of the statements can be met -/

theorem witness_StepIdles :
    ∃ s : State, s.pending = [] :=
  ⟨State.reset, rfl⟩

theorem witness_StepKeepsTidy :
    ∃ s : State, s.Tidy ∧ s.pending ≠ [] :=
  ⟨{ st world with pending := [.tickLoRead], mem := [(5, 1)] }, by unfold State.Tidy; decide +kernel⟩

theorem witness_PastureKept :
    ∃ (i : Instr) (s t : State), writesPasture i = false ∧ exec i s = .next t :=
  ⟨.tickLoRead, st world, _, rfl, rfl⟩

theorem witness_PastureStores :
    ∃ (s : State) (offset : Nat) (data : List Byte), s.Tidy ∧ domOn s.dev 38 = true ∧ domOn s.dev 16 = true ∧ offset < 2 ^ 32 ∧ (∃ i, i <
      data.length ∧ s.dev.sys.bar2Win * 2 ^ 32 + offset + i < pastureSize) ∧ ∃ i, i < data.length ∧ ¬ s.dev.sys.bar2Win * 2 ^ 32 + offset + i <
      pastureSize :=
  ⟨st (onSys (domW world) fun y => { y with bar2Win := 7 }), 2 ^ 32 - 1, [1, 2], by unfold State.Tidy; decide +kernel, by decide +kernel, by
    decide +kernel, by decide, ⟨0, by decide +kernel⟩, ⟨1, by decide +kernel⟩⟩

theorem witness_PastureReadsBack :
    ∃ (s : State) (offset : Nat) (data : List Byte) (bytes : Nat) (find : EccFind), s.Tidy ∧ domOn s.dev 38 = true ∧ domOn s.dev 16 = true ∧ offset
      < 2 ^ 32 ∧ s.dev.sys.bar2Win * 2 ^ 32 + offset + data.length ≤ pastureSize ∧ Ends (exec (.bar2Access offset true data bytes find) s) (fun t => ∃
      f, (eccRead t.start (pastMemClass (s.dev.sys.bar2Win * 2 ^ 32 + offset)) (s.dev.sys.bar2Win * 2 ^ 32 + offset) f).1 ≠ .uncorrectable) :=
  ⟨st (onSys (domW world) fun y => { y with bar2Win := 7 }), 2 ^ 32 - 2, [1, 2], 0, .clean, by unfold State.Tidy; decide +kernel, by decide +kernel,
    by decide +kernel, by decide, by decide +kernel, by unfold Ends; exact ⟨_, rfl, .clean, by decide +kernel⟩⟩

theorem witness_StaleEpochRefused :
    (∃ i h c, ∃ s : State, packetOf s i = some (h, c) ∧ Serving s.start ∧ HeaderOk h c ∧ Allowed s.start h c ∧ h.epochCheck = true ∧ h.expEpoch ≠
      s.dev.sys.epochStaged)
    ∧ (∃ i h c, ∃ s : State, packetOf s i = some (h, c) ∧ h.epochCheck = false ∧ h.expEpoch ≠ s.dev.sys.epochStaged)
    ∧ (∃ i h c, ∃ s : State, packetOf s i = some (h, c) ∧ h.epochCheck = true ∧ h.expEpoch = s.dev.sys.epochStaged) :=
  ⟨⟨.pwrQuery (sealHdr { hdr0 with flags := 7, expEpoch := 1 } .pwrQuery), _, _, st world, rfl, serving_st (by decide +kernel), headerB
      (by decide +kernel) ⟨by decide, rfl⟩, ⟨fun _ k hk => (nomatch hk), fun h => (nomatch h)⟩, rfl, by decide +kernel⟩,
    ⟨.pwrQuery { hdr0 with expEpoch := 1 }, _, _, st world, rfl, rfl, by decide +kernel⟩,
    ⟨.pwrQuery { hdr0 with flags := 7 }, _, _, st world, rfl, rfl, by decide +kernel⟩⟩

theorem witness_WrongOwnerRefused :
    (∃ i h c, ∃ s : State, ∃ r, packetOf s i = some (h, c) ∧ Serving s.start ∧ checkHolds h c = true ∧ h.lengthOver = false ∧ h.reservedFlag = false
      ∧ lengthFits h c = true ∧ h.tr = .ring r ∧ h.owner ≠ 0x01#8)
    ∧ (∃ i h c, ∃ s : State, ∃ k, packetOf s i = some (h, c) ∧ Serving s.start ∧ checkHolds h c = true ∧ h.lengthOver = false ∧ h.reservedFlag = false
      ∧ lengthFits h c = true ∧ h.tr = .session k ∧ h.owner ≠ BitVec.ofNat 8 (0x10 + k)) :=
  ⟨⟨.pwrQuery (sealHdr { hdr0 with owner := 0x10 } .pwrQuery), _, _, st world, 0, rfl, serving_st (by decide +kernel), beq_self_eq_true _, by
      decide +kernel, by decide, beq_self_eq_true _, rfl, by decide⟩,
    ⟨.pwrQuery (sealHdr { hdr0 with tr := .session 7, owner := 0x16 } .pwrQuery), _, _, st world, 7, rfl, serving_st (by decide +kernel),
      beq_self_eq_true _, by decide +kernel, by decide, beq_self_eq_true _, rfl, by decide⟩⟩

theorem witness_AliveCounterRows :
    (∃ (s : State) (u v : Nat), u < 64 ∧ domOn s.start 2 = true ∧ v < 256 ∧ (cvOf s.start u).alive < 256 ∧ (∃ w, w ≠ u) ∧ (cvOf s.start u).aliveInit
      = true)
    ∧ (∃ (s : State) (u v : Nat), u < 64 ∧ domOn s.start 2 = true ∧ v < 256 ∧ (cvOf s.start u).alive < 256 ∧ (cvOf s.start u).aliveInit = false ∧ ((v :
      Int) - (cvOf s.start u).alive) % 256 = 0)
    ∧ (∃ (s : State) (u v : Nat), u < 64 ∧ domOn s.start 2 = true ∧ v < 256 ∧ (cvOf s.start u).alive < 256 ∧ (cvOf s.start u).aliveInit = false ∧ ((v :
      Int) - (cvOf s.start u).alive) % 256 = 1)
    ∧ (∃ (s : State) (u v : Nat), u < 64 ∧ domOn s.start 2 = true ∧ v < 256 ∧ (cvOf s.start u).alive < 256 ∧ (cvOf s.start u).aliveInit = false ∧ 2 ≤
      ((v : Int) - (cvOf s.start u).alive) % 256 ∧ ((v : Int) - (cvOf s.start u).alive) % 256 ≤ max 1 (cvOf s.start u).aliveMax)
    ∧ (∃ (s : State) (u v : Nat), u < 64 ∧ domOn s.start 2 = true ∧ v < 256 ∧ (cvOf s.start u).alive < 256 ∧ (cvOf s.start u).aliveInit = false ∧ (max
      1 (cvOf s.start u).aliveMax : Int) < ((v : Int) - (cvOf s.start u).alive) % 256 ∧ ((cvOf s.start u).run < 2 ∨ v ≤ (cvOf s.start u).lastStale))
    ∧ (∃ (s : State) (u v1 v2 v3 : Nat), u < 64 ∧ domOn s.start 2 = true ∧ (cvOf s.start u).alive < 256 ∧ (cvOf s.start u).aliveInit = false ∧ (cvOf
      s.start u).run = 0 ∧ v1 < v2 ∧ v2 < v3 ∧ v3 < 256 ∧ ∀ v ∈ [v1, v2, v3], (max 1 (cvOf s.start u).aliveMax : Int) < ((v : Int) - (cvOf s.start
      u).alive) % 256) :=
  ⟨⟨st (onCv (domW world) 63 fun x => { x with alive := 255 }), 63, 255, by decide +kernel, by decide +kernel, by decide +kernel, by
      decide +kernel, ⟨0, by decide⟩, by decide +kernel⟩,
    ⟨st (onCv (domW world) 63 fun x => { x with aliveInit := false, alive := 255 }), 63, 255, by decide +kernel⟩,
    ⟨st (onCv (domW world) 63 fun x => { x with aliveInit := false, alive := 255 }), 63, 0, by decide +kernel⟩,
    ⟨st (onCv (domW world) 63 fun x => { x with aliveInit := false, alive := 255, aliveMax := 2 }), 63, 1, by decide +kernel⟩,
    ⟨st (onCv (domW world) 63 fun x => { x with aliveInit := false, alive := 255, aliveMax := 2 }), 63, 2, by decide +kernel⟩,
    ⟨st (onCv (domW world) 63 fun x => { x with aliveInit := false, alive := 0 }), 63, 2, 3, 255, by decide +kernel⟩⟩

theorem witness_CaptureQueueReads :
    (∃ (s : State) (g : Nat) (e : _) (rest : List _), g < 4 ∧ bar0Answers s.start = true ∧ domOn s.start 3 = true ∧ tgetD s.start.bell.tsq g [] = e
      :: rest)
    ∧ (∃ (s : State) (g a : Nat), g < 4 ∧ bar0Answers s.start = true ∧ domOn s.start 3 = true ∧ tgetD s.start.bell.tsq g [] = [] ∧ a ∈ [0, 4, 8, 0xC]) :=
  ⟨⟨st (onBell world fun b => { b with tsq := [(3, [{ tag := 7, port := 2, sec := 5, ns := 9, frac := 11 }])] }), 3,
      { tag := 7, port := 2, sec := 5, ns := 9, frac := 11 }, [], by decide +kernel⟩,
    ⟨st world, 3, 0xC, by decide +kernel⟩⟩

theorem witness_TickReads :
    (∃ (s : State) (i : Instr), bar0Answers s.start = true ∧ domOn s.start 3 = true ∧ i = .registerRead 0x100008)
    ∧ (∃ (s : State) (i : Instr), bar0Answers s.start = true ∧ domOn s.start 3 = true ∧ i = .tickLoRead) :=
  ⟨⟨st (onBell world fun b => { b with tick := 0x1FFFFFFFF }), .registerRead 0x100008, by decide +kernel, by decide +kernel, rfl⟩,
    ⟨st world, .tickLoRead, by decide +kernel, by decide +kernel, rfl⟩⟩

theorem witness_SnapshotLatches :
    (∃ s : State, bar0Answers s.start = true ∧ domOn s.start 3 = true)
    ∧ (∃ (s : State) (off : Nat), off ∈ [0x14, 0x18, 0x1C, 0x20, 0x24, 0x28, 0x2C] ∧ bar0Answers s.start = true ∧ domOn s.start 3 = true) :=
  ⟨⟨st world, by decide +kernel⟩,
    ⟨st world, 0x2C, by decide +kernel⟩⟩

theorem witness_RateKeepsTime :
    (∃ (z : Staged) (pick : Nat) (rate : BitVec 32), z.change = .kervon (.timeRate rate) pick)
    ∧ (∃ (z : Staged) (pick : Nat) (offset : BitVec 128) (bound : _), z.change = .kervon (.timeSet offset bound) pick) :=
  ⟨⟨{ stg with change := .kervon (.timeRate 3) 0 }, 0, 3, rfl⟩,
    ⟨{ stg with change := .kervon (.timeSet 3 0) 0 }, 0, 3, 0, rfl⟩⟩

theorem witness_EpochAdvancesByOne :
    ∃ i h c, ∃ s : State, packetOf s i = some (h, c) ∧ s.dev.fold.resetReq = false :=
  ⟨.pwrQuery hdr0, _, _, st world, rfl, rfl⟩

theorem witness_NotServed :
    (∃ i h c, ∃ s : State, packetOf s i = some (h, c) ∧ s.dev.fold.resetReq = false ∧ s.dev.fold.boot.stage = .rom)
    ∧ (∃ i h c, ∃ s : State, packetOf s i = some (h, c) ∧ s.dev.fold.resetReq = false ∧ s.dev.fold.boot.stage = .foldFw)
    ∧ (∃ i h c, ∃ s : State, packetOf s i = some (h, c) ∧ s.dev.fold.resetReq = false ∧ s.dev.pwr.season = .winter)
    ∧ (∃ i h c, ∃ s : State, packetOf s i = some (h, c) ∧ s.dev.fold.resetReq = false ∧ s.dev.aux.swapState = 1)
    ∧ (∃ i h c, ∃ s : State, packetOf s i = some (h, c) ∧ s.dev.fold.resetReq = false ∧ s.dev.fold.boot.stage = .recovery ∧ h.tr ≠ .ring 0) :=
  ⟨⟨.pwrQuery hdr0, _, _, st Dev.reset, rfl, rfl, rfl⟩,
    ⟨.pwrQuery hdr0, _, _, st (onBoot world fun b => { b with stage := .foldFw }), rfl, rfl, rfl⟩,
    ⟨.pwrQuery hdr0, _, _, st (onPwr world fun p => { p with season := .winter }), rfl, rfl, rfl⟩,
    ⟨.pwrQuery hdr0, _, _, st { world with aux := { world.aux with swapState := 1 } }, rfl, rfl, rfl⟩,
    ⟨.pwrQuery { hdr0 with tr := .ring 1 }, _, _, st (onBoot world fun b => { b with stage := .recovery }), rfl, rfl, rfl, by decide⟩⟩

theorem witness_ChecksInOrder :
    (∃ i h c, ∃ s : State, packetOf s i = some (h, c) ∧ Serving s.start ∧ checkHolds h c = false)
    ∧ (∃ i h c, ∃ s : State, packetOf s i = some (h, c) ∧ Serving s.start ∧ checkHolds h c = true ∧ h.lengthOver = true)
    ∧ (∃ i h c, ∃ s : State, packetOf s i = some (h, c) ∧ Serving s.start ∧ checkHolds h c = true ∧ h.lengthOver = false ∧ h.reservedFlag = true)
    ∧ (∃ i h c, ∃ s : State, packetOf s i = some (h, c) ∧ Serving s.start ∧ checkHolds h c = true ∧ h.lengthOver = false ∧ h.reservedFlag = false ∧
      lengthFits h c = false)
    ∧ (∃ i h c, ∃ s : State, ∃ k, packetOf s i = some (h, c) ∧ Serving s.start ∧ HeaderOk h c ∧ kIsRead c = false ∧ h.tr = .session k ∧ (sessOf s.start
      k).role ≠ 1)
    ∧ (∃ i h c, ∃ s : State, packetOf s i = some (h, c) ∧ Serving s.start ∧ HeaderOk h c ∧ (∀ k, h.tr = .session k → (sessOf s.start k).role = 1) ∧
      kGated s.start c = true ∧ s.dev.fold.guard.sealIntact = false)
    ∧ (∃ i h c, ∃ s : State, packetOf s i = some (h, c) ∧ Serving s.start ∧ HeaderOk h c ∧ (∀ k, h.tr = .session k → (sessOf s.start k).role = 1) ∧
      kGated s.start c = true ∧ s.dev.fold.guard.sealIntact = true ∧ s.dev.fold.guard.window = .shut ∧ h.presenceExpected = true)
    ∧ (∃ i h c, ∃ s : State, packetOf s i = some (h, c) ∧ Serving s.start ∧ HeaderOk h c ∧ (∀ k, h.tr = .session k → (sessOf s.start k).role = 1) ∧
      kGated s.start c = true ∧ s.dev.fold.guard.sealIntact = true ∧ s.dev.fold.guard.window ≠ .shut ∧ h.presenceExpected = false)
    ∧ (∃ i h c, ∃ s : State, packetOf s i = some (h, c) ∧ Serving s.start ∧ HeaderOk h c ∧ Allowed s.start h c ∧ (h.epochCheck = true → h.expEpoch =
      s.dev.sys.epochStaged) ∧ ∃ k ∈ kDomains c, domOn s.start k = false)
    ∧ (∃ i h c, ∃ s : State, packetOf s i = some (h, c) ∧ s.dev.fold.boot.stage = .ready ∧ s.dev.pwr.season ≠ .winter ∧ s.dev.pwr.phase = .entering ∧
      s.dev.aux.swapState ≠ 1 ∧ s.dev.fold.resetReq = false ∧ HeaderOk h c ∧ Allowed s.start h c ∧ (h.epochCheck = true → h.expEpoch =
      s.dev.sys.epochStaged) ∧ (∀ k ∈ kDomains c, domOn s.start k = true) ∧ kIsRead c = false) :=
  ⟨⟨.pwrQuery { hdr0 with check := 1 }, _, _, st world, rfl, serving_st (by decide +kernel), by decide +kernel⟩,
    ⟨.pwrQuery (sealOnly { hdr0 with length := 4081 } .pwrQuery), _, _, st world, rfl, serving_st (by decide +kernel), beq_self_eq_true _, by
      decide +kernel⟩,
    ⟨.pwrQuery (sealOnly { hdr0 with flags := 0x85 } .pwrQuery), _, _, st world, rfl, serving_st (by decide +kernel), beq_self_eq_true _, by
      decide +kernel, by decide +kernel⟩,
    ⟨.pwrQuery (sealOnly { hdr0 with length := 3, extra := [0, 0, 0] } .pwrQuery), _, _, st world, rfl, serving_st (by decide +kernel),
      beq_self_eq_true _, by decide +kernel, by decide +kernel, by decide +kernel⟩,
    ⟨.timeRate (sealHdr { hdr0 with tr := .session 3, owner := 0x13 } (.timeRate 0)) 0, _, _, st world, 3, rfl, serving_st (by decide +kernel),
      headerB (by decide +kernel) ⟨by decide, rfl⟩, rfl, rfl, by decide +kernel⟩,
    ⟨.trustFactoryReset (hdrOf .trustFactoryReset), _, _, st (onGuard world fun g => { g with sealIntact := false }), rfl, serving_st
      (by decide +kernel), headerB (by decide +kernel) ⟨by decide, rfl⟩, fun k hk => (nomatch hk), by decide +kernel, rfl⟩,
    ⟨.trustFactoryReset (hdrOf .trustFactoryReset), _, _, st (onGuard world fun g => { g with window := .shut }), rfl, serving_st
      (by decide +kernel), headerB (by decide +kernel) ⟨by decide, rfl⟩, fun k hk => (nomatch hk), by decide +kernel, rfl, rfl, rfl⟩,
    ⟨.trustFactoryReset (sealHdr { hdr0 with flags := 1 } .trustFactoryReset), _, _, st world, rfl, serving_st (by decide +kernel), headerB
      (by decide +kernel) ⟨by decide, rfl⟩, fun k hk => (nomatch hk), by decide +kernel, rfl, by decide +kernel, rfl⟩,
    ⟨.timeRate (hdrOf (.timeRate 0)) 0, _, _, st (onPwr world fun p => { p with doms := [(3, .off)] }), rfl, serving_st (by decide +kernel), headerB
      (by decide +kernel) ⟨by decide, rfl⟩, ⟨fun _ k hk => (nomatch hk), fun h => (nomatch h)⟩, fun h => (nomatch h), by decide +kernel⟩,
    ⟨.timeRate (hdrOf (.timeRate 0)) 0, _, _, st (onPwr world fun p => { p with phase := .entering }), rfl, rfl, by decide +kernel, rfl, by
      decide +kernel, rfl, headerB (by decide +kernel) ⟨by decide, rfl⟩, ⟨fun _ k hk => (nomatch hk), fun h => (nomatch h)⟩, fun h => (nomatch h), by
      decide +kernel, rfl⟩⟩

theorem witness_SystemTimeAndPastureCommandsComplete :
    (∃ (s : State) (h : CmdHdr), Taken s h (.sysQuery))
    ∧ (∃ (s : State) (h : CmdHdr) (addr : Nat) (port : Nat) (idle : Nat), Taken s h (.mgmtConfig addr port idle) ∧ (addr < 2 ^ 128 ∧ port < 65536 ∧ 10
      ≤ idle ∧ idle ≤ 3600))
    ∧ (∃ (s : State) (h : CmdHdr), Taken s h (.mgmtSessionQuery))
    ∧ (∃ (s : State) (h : CmdHdr) (session : Nat), Taken s h (.mgmtSessionClose session) ∧ (session < 8 ∧ (sessOf s.start session).st = .opened))
    ∧ (∃ (s : State) (h : CmdHdr) (session : Nat), Taken s h (.mgmtSessionClose session) ∧ (session < 8 ∧ (sessOf s.start session).st ≠ .opened))
    ∧ (∃ (s : State) (h : CmdHdr) (kind : Nat) (slot : Nat) (offset : Nat) (sigOk : Bool), Taken s h (.fwStoreWrite kind slot offset (imageAt s.mem
      offset sigOk)) ∧ ((kind = 2 ∨ kind = 3) ∧ slot ≤ 1 ∧ offset < 2 ^ 35 ∧ runningSlot s.start kind ≠ slot ∧ s.start.fold.boot.storeJob = none))
    ∧ (∃ (s : State) (h : CmdHdr) (twoStep : Bool) (tag : Nat) (frame : List Byte) (stamp : Nat) (now : Nat), Taken s h (.hostPktTx twoStep tag frame
      stamp now) ∧ tag < 65536)
    ∧ (∃ (s : State) (h : CmdHdr) (ring : Nat) (enable : Bool), Taken s h (.hostPktConfig ring enable) ∧ ring ≤ 3)
    ∧ (∃ (s : State) (h : CmdHdr) (allots : List Nat), Taken s h (.pastureAllotSet allots) ∧ (allots.length = 24 ∧ (∀ a ∈ allots, a ≤ 3000000) ∧ sumN
      allots ≤ 3000000))
    ∧ (∃ (s : State) (h : CmdHdr), Taken s h (.pastureQuery))
    ∧ (∃ (s : State) (h : CmdHdr) (cfg : TimeCfg), Taken s h (.timeConfig cfg) ∧ timeCfgOk cfg = true)
    ∧ (∃ (s : State) (h : CmdHdr) (offset : BitVec 128) (bound : Word), Taken s h (.timeSet offset bound))
    ∧ (∃ (s : State) (h : CmdHdr) (rate : BitVec 32), Taken s h (.timeRate rate) ∧ (¬ (s.start.bell.lock.autoRate = true ∧ s.start.bell.lock.st =
      .locked)))
    ∧ (∃ (s : State) (h : CmdHdr) (action : Nat), Taken s h (.timeOffsetConfirm action) ∧ (action ≤ 1 ∧ s.view.bell.err.todPend.isSome = true))
    ∧ (∃ (s : State) (h : CmdHdr) (action : Nat), Taken s h (.timeOffsetConfirm action) ∧ (action ≤ 1 ∧ s.view.bell.err.todPend = none))
    ∧ (∃ (s : State) (h : CmdHdr) (kind : Nat) (hostAddr : Nat) (length : Nat) (img : ImageDesc), s.dev.fold.boot.stage = .recovery ∧ h.tr = .ring 0 ∧
      s.dev.pwr.season ≠ .winter ∧ s.dev.pwr.phase ≠ .entering ∧ s.dev.aux.swapState ≠ 1 ∧ s.dev.fold.resetReq = false ∧ HeaderOk h (.fwRecover kind
      hostAddr length img) ∧ Allowed s.start h (.fwRecover kind hostAddr length img) ∧ (h.epochCheck = true → h.expEpoch = s.dev.sys.epochStaged) ∧ (∀
      k ∈ kDomains (.fwRecover kind hostAddr length img), domOn s.start k = true) ∧ (kind = 2 ∨ kind = 3) ∧ firmwareOk s.start kind img
      (s.start.fold.guard.window == .jumper) = none) :=
  ⟨⟨st world, hdrOf (.sysQuery), taken_st (by decide +kernel) _ (by decide +kernel)⟩,
    ⟨st world, hdrOf (.mgmtConfig 0 0 10), 0, 0, 10, taken_st (by decide +kernel) _ (by decide +kernel), by decide +kernel⟩,
    ⟨st world, hdrOf (.mgmtSessionQuery), taken_st (by decide +kernel) _ (by decide +kernel)⟩,
    ⟨st (onSess world 0 fun x => { x with st := .opened, role := 1 }), hdrOf (.mgmtSessionClose 0), 0, taken_st (by decide +kernel) _
      (by decide +kernel), by decide +kernel⟩,
    ⟨st world, hdrOf (.mgmtSessionClose 0), 0, taken_st (by decide +kernel) _ (by decide +kernel), by decide +kernel⟩,
    ⟨st world, hdrOf (.fwStoreWrite 2 1 0 (imageAt (st world).mem 0 false)), 2, 1, 0, false, taken_st (by decide +kernel) _ (by decide +kernel), by
      decide +kernel⟩,
    ⟨st world, hdrOf (.hostPktTx false 0 ([]) 0 0), false, 0, [], 0, 0, taken_st (by decide +kernel) _ (by decide +kernel), by decide +kernel⟩,
    ⟨st world, hdrOf (.hostPktConfig 0 false), 0, false, taken_st (by decide +kernel) _ (by decide +kernel), by decide +kernel⟩,
    ⟨st world, hdrOf (.pastureAllotSet (List.replicate 24 100000)), List.replicate 24 100000, taken_st (by decide +kernel) _ (by decide +kernel), by
      decide +kernel⟩,
    ⟨st world, hdrOf (.pastureQuery), taken_st (by decide +kernel) _ (by decide +kernel)⟩,
    ⟨st world, hdrOf (.timeConfig time0), time0, taken_st (by decide +kernel) _ (by decide +kernel), by decide +kernel⟩,
    ⟨st world, hdrOf (.timeSet 0 0), 0, 0, taken_st (by decide +kernel) _ (by decide +kernel)⟩,
    ⟨st world, hdrOf (.timeRate 0), 0, taken_st (by decide +kernel) _ (by decide +kernel), by decide +kernel⟩,
    ⟨st (onErr world fun e => { e with todPend := some 5 }), hdrOf (.timeOffsetConfirm 0), 0, taken_st (by decide +kernel) _ (by decide +kernel), by
      decide +kernel⟩,
    ⟨st world, hdrOf (.timeOffsetConfirm 0), 0, taken_st (by decide +kernel) _ (by decide +kernel), by decide +kernel⟩,
    ⟨st (onBoot world fun b => { b with stage := .recovery }), hdrOf (.fwRecover 2 0 0 img0), 2, 0, 0, img0, by decide +kernel, by decide +kernel,
      by decide +kernel, by decide +kernel, by decide +kernel, by decide +kernel, header0 _, allowed_st rfl (by decide) _, by decide +kernel, by
      decide +kernel, by decide +kernel, by decide +kernel⟩⟩

theorem witness_ConferenceAndFlockCommandsComplete :
    (∃ (s : State) (h : CmdHdr) (rcd : ConfRec) (e : _) (w : _), Taken s h (.confCreate rcd) ∧ (confRecOk rcd = true ∧ confOf s.view rcd.id = none ∧
      placeMix s.view rcd (confCharge rcd (confReserve rcd)).1 (confCharge rcd (confReserve rcd)).2 = .ok (e, w)))
    ∧ (∃ (s : State) (h : CmdHdr) (rcd : ConfRec) (mask : Nat) (x : _), Taken s h (.confModify rcd mask) ∧ (confOf s.view rcd.id = some x ∧ maskOk mask
      [2, 4, 5, 6, 7, 8, 12] = true ∧ confRecOk (confMerge x.rcd rcd mask) = true ∧ inputsInUse s.view rcd.id ≤ (reserveAfter x (confMerge x.rcd rcd
      mask) mask) ∧ (confCharge (confMerge x.rcd rcd mask) (reserveAfter x (confMerge x.rcd rcd mask) mask)).1 ≤ 180000 ∧ x.mix = none ∧ mask.testBit
      2 = false))
    ∧ (∃ (s : State) (h : CmdHdr) (rcd : ConfRec) (mask : Nat) (x : _) (e : _) (w : _), Taken s h (.confModify rcd mask) ∧ (confOf s.view rcd.id = some
      x ∧ maskOk mask [2, 4, 5, 6, 7, 8, 12] = true ∧ confRecOk (confMerge x.rcd rcd mask) = true ∧ inputsInUse s.view rcd.id ≤ (reserveAfter x
      (confMerge x.rcd rcd mask) mask) ∧ (confCharge (confMerge x.rcd rcd mask) (reserveAfter x (confMerge x.rcd rcd mask) mask)).1 ≤ 180000 ∧ x.mix =
      none ∧ mask.testBit 2 = true ∧ placeMix s.view (confMerge x.rcd rcd mask) (confCharge (confMerge x.rcd rcd mask) (reserveAfter x (confMerge
      x.rcd rcd mask) mask)).1 (confCharge (confMerge x.rcd rcd mask) (reserveAfter x (confMerge x.rcd rcd mask) mask)).2 = .ok (e, w)))
    ∧ (∃ (s : State) (h : CmdHdr) (rcd : ConfRec) (mask : Nat) (x : _) (m : _), Taken s h (.confModify rcd mask) ∧ (confOf s.view rcd.id = some x ∧
      maskOk mask [2, 4, 5, 6, 7, 8, 12] = true ∧ confRecOk (confMerge x.rcd rcd mask) = true ∧ inputsInUse s.view rcd.id ≤ (reserveAfter x (confMerge
      x.rcd rcd mask) mask) ∧ (confCharge (confMerge x.rcd rcd mask) (reserveAfter x (confMerge x.rcd rcd mask) mask)).1 ≤ 180000 ∧ x.mix = some m ∧
      (mask.testBit 2 = true → (confMerge x.rcd rcd mask).mixEngine = 0xFFFF ∨ (confMerge x.rcd rcd mask).mixEngine = m) ∧ (∀ k ∈ enginesOf m x.move,
      mayGrow s.view k (chargeGrowth (confCharge x.rcd x.reserve) (confCharge (confMerge x.rcd rcd mask) (reserveAfter x (confMerge x.rcd rcd mask)
      mask))) = true)))
    ∧ (∃ (s : State) (h : CmdHdr) (rcd : ConfRec) (mask : Nat) (x : _) (m : _) (w : _), Taken s h (.confModify rcd mask) ∧ (confOf s.view rcd.id = some
      x ∧ maskOk mask [2, 4, 5, 6, 7, 8, 12] = true ∧ confRecOk (confMerge x.rcd rcd mask) = true ∧ inputsInUse s.view rcd.id ≤ (reserveAfter x
      (confMerge x.rcd rcd mask) mask) ∧ (confCharge (confMerge x.rcd rcd mask) (reserveAfter x (confMerge x.rcd rcd mask) mask)).1 ≤ 180000 ∧ x.mix =
      some m ∧ mask.testBit 2 = true ∧ (confMerge x.rcd rcd mask).mixEngine ≠ 0xFFFF ∧ (confMerge x.rcd rcd mask).mixEngine ≠ m ∧ (∀ k ∈ enginesOf m
      x.move, mayGrow s.view k (chargeGrowth (confCharge x.rcd x.reserve) (confCharge (confMerge x.rcd rcd mask) (reserveAfter x (confMerge x.rcd rcd
      mask) mask))) = true) ∧ admitNamed s.view (confMerge x.rcd rcd mask).mixEngine (confCharge (confMerge x.rcd rcd mask) (reserveAfter x (confMerge
      x.rcd rcd mask) mask)).1 (confCharge (confMerge x.rcd rcd mask) (reserveAfter x (confMerge x.rcd rcd mask) mask)).2 = .ok w))
    ∧ (∃ (s : State) (h : CmdHdr) (conf : Nat) (withLegs : Bool), Taken s h (.confDestroy conf withLegs) ∧ ((confOf s.view conf).isSome = true ∧
      (withLegs = true ∨ confLegs s.view conf = [])))
    ∧ (∃ (s : State) (h : CmdHdr) (conf : Nat) (x : _), Taken s h (.confQuery conf) ∧ confOf s.start conf = some x)
    ∧ (∃ (s : State) (h : CmdHdr) (profile : Nat) (first : Nat) (engines : List Nat), Taken s h (.placeSet profile first engines) ∧ (placeRangeOk
      profile first engines.length = true ∧ (∀ e ∈ engines, e < 256)))
    ∧ (∃ (s : State) (h : CmdHdr) (profile : Nat) (first : Nat) (count : Nat), Taken s h (.placeQuery profile first count) ∧ placeRangeOk profile first
      count = true)
    ∧ (∃ (s : State) (h : CmdHdr) (offset : Nat) (enable : Bool), Taken s h (.statusTableSet offset enable) ∧ (offset % 0x200000 = 0 ∧ offset +
      0x200000 ≤ pastureSize))
    ∧ (∃ (s : State) (h : CmdHdr) (offset : Nat) (engines : List Nat) (sigOk : Bool), Taken s h (.engineLoad offset engines (imageAt s.mem offset
      sigOk)) ∧ (engines ≠ [] ∧ (∀ e ∈ engines, e < 256) ∧ engines.Nodup ∧ verifyImage s.view (imageAt s.mem offset sigOk) true = none ∧ (imageAt
      s.mem offset sigOk).kind = 1 ∧ (∀ e ∈ engines, domOn s.view (17 + e / 16) = true) ∧ (∀ e ∈ engines, engHolds s.view e = false) ∧ (∀ e ∈ engines,
      engPlaced s.view e = true) ∧ mediaFits s.view engines = true ∧ (∀ e ∈ engines, (imageAt s.mem offset sigOk).credits * (engines.filter (fun x =>
      x / 16 == e / 16)).length + groupCredits s.view (e / 16) ≤ allotOf s.view (e / 16))))
    ∧ (∃ (s : State) (h : CmdHdr) (engines : List Nat), Taken s h (.engineUnload engines) ∧ (∀ e ∈ engines, e < 256))
    ∧ (∃ (s : State) (h : CmdHdr) (group : Nat) (offset : Nat) (sigOk : Bool), Taken s h (.groupUpdate group offset (imageAt s.mem offset sigOk)) ∧
      (group ≤ 15 ∧ verifyImage s.view (imageAt s.mem offset sigOk) true = none ∧ (imageAt s.mem offset sigOk).kind = 0 ∧ domOn s.view (17 + group) =
      true ∧ (groupOf s.view group).st = .ready ∧ (groupOf s.view group).update = none ∧ (∀ k ∈ List.range 16, (engOf s.view (16 * group + k)).prog =
      none) ∧ fitAll s.view group [] (drainCharges s.view group) = true))
    ∧ (∃ (s : State) (h : CmdHdr) (engine : Nat), Taken s h (.flockQuery engine) ∧ engine ≤ 255) :=
  ⟨⟨st world, hdrOf (.confCreate conf0), conf0, ((placeMix (st world).view conf0 (confCharge conf0 (confReserve conf0)).1 (confCharge conf0
      (confReserve conf0)).2).toOption.get (by decide +kernel)).1, ((placeMix (st world).view conf0 (confCharge conf0 (confReserve conf0)).1
      (confCharge conf0 (confReserve conf0)).2).toOption.get (by decide +kernel)).2, taken_st (by decide +kernel) _ (by decide +kernel), by
      decide +kernel⟩,
    ⟨st (onConf full 0 fun c => { c with mix := none }), hdrOf (.confModify ({ conf0 with inputReserve := 5 }) 4096),
      { conf0 with inputReserve := 5 }, 4096, (confOf (st (onConf full 0 fun c => { c with mix := none })).view
      ({ conf0 with inputReserve := 5 }).id).get (by decide +kernel), taken_st (by decide +kernel) _ (by decide +kernel), by decide +kernel⟩,
    ⟨st (onConf full 0 fun c => { c with mix := none }), hdrOf (.confModify conf0 4), conf0, 4, (confOf (st (onConf full 0 fun c =>
      { c with mix := none })).view conf0.id).get (by decide +kernel), ((placeMix (st (onConf full 0 fun c => { c with mix := none })).view (confMerge
      (((confOf (st (onConf full 0 fun c => { c with mix := none })).view conf0.id).get (by decide +kernel))).rcd conf0 4) (confCharge (confMerge
      (((confOf (st (onConf full 0 fun c => { c with mix := none })).view conf0.id).get (by decide +kernel))).rcd conf0 4) (reserveAfter (((confOf (st
      (onConf full 0 fun c => { c with mix := none })).view conf0.id).get (by decide +kernel))) (confMerge (((confOf (st (onConf full 0 fun c =>
      { c with mix := none })).view conf0.id).get (by decide +kernel))).rcd conf0 4) 4)).1 (confCharge (confMerge (((confOf (st (onConf full 0 fun c
      => { c with mix := none })).view conf0.id).get (by decide +kernel))).rcd conf0 4) (reserveAfter (((confOf (st (onConf full 0 fun c =>
      { c with mix := none })).view conf0.id).get (by decide +kernel))) (confMerge (((confOf (st (onConf full 0 fun c => { c with mix := none })).view
      conf0.id).get (by decide +kernel))).rcd conf0 4) 4)).2).toOption.get (by decide +kernel)).1, ((placeMix (st (onConf full 0 fun c =>
      { c with mix := none })).view (confMerge (((confOf (st (onConf full 0 fun c => { c with mix := none })).view conf0.id).get
      (by decide +kernel))).rcd conf0 4) (confCharge (confMerge (((confOf (st (onConf full 0 fun c => { c with mix := none })).view conf0.id).get
      (by decide +kernel))).rcd conf0 4) (reserveAfter (((confOf (st (onConf full 0 fun c => { c with mix := none })).view conf0.id).get
      (by decide +kernel))) (confMerge (((confOf (st (onConf full 0 fun c => { c with mix := none })).view conf0.id).get (by decide +kernel))).rcd
      conf0 4) 4)).1 (confCharge (confMerge (((confOf (st (onConf full 0 fun c => { c with mix := none })).view conf0.id).get
      (by decide +kernel))).rcd conf0 4) (reserveAfter (((confOf (st (onConf full 0 fun c => { c with mix := none })).view conf0.id).get
      (by decide +kernel))) (confMerge (((confOf (st (onConf full 0 fun c => { c with mix := none })).view conf0.id).get (by decide +kernel))).rcd
      conf0 4) 4)).2).toOption.get (by decide +kernel)).2, taken_st (by decide +kernel) _ (by decide +kernel), by decide +kernel⟩,
    ⟨st full, hdrOf (.confModify ({ conf0 with inputReserve := 5 }) 4096), { conf0 with inputReserve := 5 }, 4096, (confOf (st full).view
      ({ conf0 with inputReserve := 5 }).id).get (by decide +kernel), ((((confOf (st full).view ({ conf0 with inputReserve := 5 }).id).get
      (by decide +kernel))).mix).get (by decide +kernel), taken_st (by decide +kernel) _ (by decide +kernel), by decide +kernel⟩,
    ⟨st full, hdrOf (.confModify ({ conf0 with mixEngine := 1 }) 4), { conf0 with mixEngine := 1 }, 4, (confOf (st full).view
      ({ conf0 with mixEngine := 1 }).id).get (by decide +kernel), ((((confOf (st full).view ({ conf0 with mixEngine := 1 }).id).get
      (by decide +kernel))).mix).get (by decide +kernel), (admitNamed (st full).view (confMerge (((confOf (st full).view
      ({ conf0 with mixEngine := 1 }).id).get (by decide +kernel))).rcd ({ conf0 with mixEngine := 1 }) 4).mixEngine (confCharge (confMerge (((confOf
      (st full).view ({ conf0 with mixEngine := 1 }).id).get (by decide +kernel))).rcd ({ conf0 with mixEngine := 1 }) 4) (reserveAfter (((confOf (st
      full).view ({ conf0 with mixEngine := 1 }).id).get (by decide +kernel))) (confMerge (((confOf (st full).view
      ({ conf0 with mixEngine := 1 }).id).get (by decide +kernel))).rcd ({ conf0 with mixEngine := 1 }) 4) 4)).1 (confCharge (confMerge (((confOf (st
      full).view ({ conf0 with mixEngine := 1 }).id).get (by decide +kernel))).rcd ({ conf0 with mixEngine := 1 }) 4) (reserveAfter (((confOf (st
      full).view ({ conf0 with mixEngine := 1 }).id).get (by decide +kernel))) (confMerge (((confOf (st full).view
      ({ conf0 with mixEngine := 1 }).id).get (by decide +kernel))).rcd ({ conf0 with mixEngine := 1 }) 4) 4)).2).toOption.get (by decide +kernel),
      taken_st (by decide +kernel) _ (by decide +kernel), by decide +kernel⟩,
    ⟨st full, hdrOf (.confDestroy 0 true), 0, true, taken_st (by decide +kernel) _ (by decide +kernel), by decide +kernel⟩,
    ⟨st full, hdrOf (.confQuery 0), 0, (confOf (st full).start 0).get (by decide +kernel), taken_st (by decide +kernel) _ (by decide +kernel), by
      decide +kernel⟩,
    ⟨st world, hdrOf (.placeSet 0 0 ([3])), 0, 0, [3], taken_st (by decide +kernel) _ (by decide +kernel), by decide +kernel⟩,
    ⟨st world, hdrOf (.placeQuery 0 0 1), 0, 0, 1, taken_st (by decide +kernel) _ (by decide +kernel), by decide +kernel⟩,
    ⟨st world, hdrOf (.statusTableSet 0 false), 0, false, taken_st (by decide +kernel) _ (by decide +kernel), by decide +kernel⟩,
    ⟨stm (onFold world fun f => { f with keylist := some { keys := [(1, 7)] } }) (imgMem 1 1), hdrOf (.engineLoad 0 ([255]) (imageAt (stm (onFold
      world fun f => { f with keylist := some { keys := [(1, 7)] } }) (imgMem 1 1)).mem 0 true)), 0, [255], true, taken_st (by decide +kernel) _
      (by decide +kernel), ⟨by decide +kernel, by decide +kernel, by decide +kernel, imgMem_ok (by decide +kernel) (by decide +kernel)
      (by decide +kernel), by decide +kernel, by decide +kernel, by decide +kernel, by decide +kernel, by decide +kernel, by decide +kernel⟩⟩,
    ⟨st world, hdrOf (.engineUnload ([])), [], taken_st (by decide +kernel) _ (by decide +kernel), by decide +kernel⟩,
    ⟨stm world (imgMem 0 0), hdrOf (.groupUpdate 0 0 (imageAt (stm world (imgMem 0 0)).mem 0 true)), 0, 0, true, taken_st (by decide +kernel) _
      (by decide +kernel), ⟨by decide +kernel, imgMem_ok (by decide +kernel) (by decide +kernel) (by decide +kernel), by decide +kernel, by
      decide +kernel, by decide +kernel, by decide +kernel, by decide +kernel, by decide +kernel⟩⟩,
    ⟨st world, hdrOf (.flockQuery 0), 0, taken_st (by decide +kernel) _ (by decide +kernel), by decide +kernel⟩⟩

theorem witness_LegCommandsComplete :
    (∃ (s : State) (h : CmdHdr) (rcd : LegRec) (x : _) (e : _) (w : _), Taken s h (.legCreate rcd) ∧ (legOf s.view rcd.id = none ∧ legOk s.view rcd
      none = true ∧ audioLegs s.view + b2n (isAudioLeg rcd) ≤ 8192 ∧ videoLegs s.view + b2n (isVideoLeg rcd) ≤ 4096 ∧ (wantsSlot rcd = true →
      slotsHeld s.view < 64) ∧ place s.view (hashedEngine s.view rcd) (legCharge rcd).1 (legCharge rcd).2 [] = some (e, w) ∧ confOf s.view rcd.conf =
      some x ∧ codecsDark s.view (applyLegCreate rcd e s.view) = false ∧ mixTakes s.view x rcd.conf rcd.audioIn [e] (legCharge rcd) = true ∧
      (legQueues s.view rcd).isSome = true ∧ videoAdmits s.view (applyLegCreate rcd e s.view) = true))
    ∧ (∃ (s : State) (h : CmdHdr) (rcd : LegRec) (mask : Nat) (x : _) (l : _), Taken s h (.legModify rcd mask) ∧ (legForCommand s.view rcd.id false =
      .ok l ∧ maskOk mask legMaskBits = true ∧ (mask.testBit 4 = true → rcd.ipv6 = l.rcd.ipv6) ∧ legOk s.view (legMerge l.rcd rcd mask) (some l) =
      true ∧ confOf s.view (legMerge l.rcd rcd mask).conf = some x ∧ codecsDark s.view (applyLegModify rcd mask s.view) = false ∧ (∀ k ∈ enginesOf
      l.home l.move, mayGrow s.view k (chargeGrowth (legCharge l.rcd) (legCharge (legMerge l.rcd rcd mask))) = true) ∧ mixTakes s.view x (legMerge
      l.rcd rcd mask).conf ((legMerge l.rcd rcd mask).audioIn && (!l.rcd.audioIn || (legMerge l.rcd rcd mask).conf != l.rcd.conf)) (enginesOf l.home
      l.move) (chargeGrowth (legCharge l.rcd) (legCharge (legMerge l.rcd rcd mask))) = true ∧ ¬ (wantsSlot (legMerge l.rcd rcd mask) = true ∧ l.slot =
      false ∧ 64 ≤ slotsHeld s.view) ∧ audioLegs (applyLegModify rcd mask s.view) ≤ 8192 ∧ videoLegs (applyLegModify rcd mask s.view) ≤ 4096 ∧
      (legQueues s.view (legMerge l.rcd rcd mask)).isSome = true ∧ videoAdmits s.view (applyLegModify rcd mask s.view) = true))
    ∧ (∃ (s : State) (h : CmdHdr) (leg : Nat) (l : _), Taken s h (.legDestroy leg) ∧ legForCommand s.view leg true = .ok l)
    ∧ (∃ (s : State) (h : CmdHdr) (leg : Nat) (saIn : Nat) (saOut : Nat) (l : _), Taken s h (.legRekey leg saIn saOut) ∧ (legForCommand s.view leg
      false = .ok l ∧ handleOk s.view (some l) saIn true = true ∧ handleOk s.view (some l) saOut false = true))
    ∧ (∃ (s : State) (h : CmdHdr) (leg : Nat) (target : Nat) (e : _) (w : _) (l : _), Taken s h (.legMigrate leg target) ∧ (legForCommand s.view leg
      false = .ok l ∧ target = 0xFFFF ∧ place s.view (some l.home) (legCharge l.rcd).1 (legCharge l.rcd).2 [l.home] = some (e, w)))
    ∧ (∃ (s : State) (h : CmdHdr) (leg : Nat) (target : Nat) (l : _), Taken s h (.legMigrate leg target) ∧ (legForCommand s.view leg false = .ok l ∧
      target = l.home ∧ target ≤ 255))
    ∧ (∃ (s : State) (h : CmdHdr) (leg : Nat) (target : Nat) (l : _) (w : _), Taken s h (.legMigrate leg target) ∧ (legForCommand s.view leg false =
      .ok l ∧ target ≤ 255 ∧ target ≠ l.home ∧ admitNamed s.view target (legCharge l.rcd).1 (legCharge l.rcd).2 = .ok w))
    ∧ (∃ (s : State) (h : CmdHdr) (leg : Nat), Taken s h (.legQuery leg) ∧ (leg ≤ 8191 ∧ tget s.start.media.legs leg = none))
    ∧ (∃ (s : State) (h : CmdHdr) (leg : Nat) (l : _), Taken s h (.legQuery leg) ∧ (leg ≤ 8191 ∧ tget s.start.media.legs leg = some l ∧ l.snap ≠ []))
    ∧ (∃ (s : State) (h : CmdHdr) (leg : Nat) (l : _), Taken s h (.legQuery leg) ∧ (leg ≤ 8191 ∧ tget s.start.media.legs leg = some l ∧ l.snap = [])) :=
  ⟨⟨st (onMedia full fun m => { m with legs := [] }), hdrOf (.legCreate leg0), leg0, (confOf (st (onMedia full fun m =>
      { m with legs := [] })).view leg0.conf).get (by decide +kernel), ((place (st (onMedia full fun m => { m with legs := [] })).view (hashedEngine
      (st (onMedia full fun m => { m with legs := [] })).view leg0) (legCharge leg0).1 (legCharge leg0).2 []).get (by decide +kernel)).1, ((place (st
      (onMedia full fun m => { m with legs := [] })).view (hashedEngine (st (onMedia full fun m => { m with legs := [] })).view leg0) (legCharge
      leg0).1 (legCharge leg0).2 []).get (by decide +kernel)).2, taken_st (by decide +kernel) _ (by decide +kernel), by decide +kernel⟩,
    ⟨st full, hdrOf (.legModify leg0 0), leg0, 0, newConf conf0 0, legOn0, taken_st (by decide +kernel) _ (by decide +kernel), by decide +kernel⟩,
    ⟨st full, hdrOf (.legDestroy 0), 0, (legForCommand (st full).view 0 true).toOption.get (by decide +kernel), taken_st (by decide +kernel) _
      (by decide +kernel), by decide +kernel⟩,
    ⟨st full, hdrOf (.legRekey 0 0 1), 0, 0, 1, (legForCommand (st full).view 0 false).toOption.get (by decide +kernel), taken_st
      (by decide +kernel) _ (by decide +kernel), by decide +kernel⟩,
    ⟨st full, hdrOf (.legMigrate 0 0xFFFF), 0, 0xFFFF, ((place (st full).view (some legOn0.home) (legCharge legOn0.rcd).1 (legCharge legOn0.rcd).2
      [legOn0.home]).get (by decide +kernel)).1, ((place (st full).view (some legOn0.home) (legCharge legOn0.rcd).1 (legCharge legOn0.rcd).2
      [legOn0.home]).get (by decide +kernel)).2, legOn0, taken_st (by decide +kernel) _ (by decide +kernel), by decide +kernel⟩,
    ⟨st full, hdrOf (.legMigrate 0 0), 0, 0, (legForCommand (st full).view 0 false).toOption.get (by decide +kernel), taken_st (by decide +kernel) _
      (by decide +kernel), by decide +kernel⟩,
    ⟨st full, hdrOf (.legMigrate 0 5), 0, 5, legOn0, (admitNamed (st full).view 5 (legCharge legOn0.rcd).1 (legCharge legOn0.rcd).2).toOption.get
      (by decide +kernel), taken_st (by decide +kernel) _ (by decide +kernel), by decide +kernel⟩,
    ⟨st world, hdrOf (.legQuery 0), 0, taken_st (by decide +kernel) _ (by decide +kernel), by decide +kernel⟩,
    ⟨st (onLeg full 0 fun l => { l with snap := [1] }), hdrOf (.legQuery 0), 0, (tget (st (onLeg full 0 fun l =>
      { l with snap := [1] })).start.media.legs 0).get (by decide +kernel), taken_st (by decide +kernel) _ (by decide +kernel), by decide +kernel⟩,
    ⟨st full, hdrOf (.legQuery 0), 0, (tget (st full).start.media.legs 0).get (by decide +kernel), taken_st (by decide +kernel) _
      (by decide +kernel), by decide +kernel⟩⟩

theorem witness_AudioCommandsComplete :
    (∃ (s : State) (h : CmdHdr) (rcd : RouteRec) (x : _) (e : _) (w : _), Taken s h (.routeSet rcd) ∧ (routeFieldsOk rcd = true ∧ (rcd.output = true
      ∨ rcd.rateHz = 48000) ∧ endpointBusy s.view rcd = false ∧ confTakes s.view rcd.conf = some x ∧ channelBad s.view x rcd = false ∧ relaySelf
      s.view rcd = false ∧ minusOk s.view rcd = true ∧ (if rcd.engine = 0xFFFF then x.mix else some rcd.engine) = some e ∧ routeAdmit s.view x rcd e =
      .ok w))
    ∧ (∃ (s : State) (h : CmdHdr) (route : Nat) (x : _), Taken s h (.routeClear route) ∧ (routeOf s.view route = some x ∧ x.clearing = none))
    ∧ (∃ (s : State) (h : CmdHdr) (route : Nat) (x : _), Taken s h (.routeQuery route) ∧ routeOf s.start route = some x)
    ∧ (∃ (s : State) (h : CmdHdr) (route : Nat) (live : Nat) (listen : Nat) (x : _), Taken s h (.consoleSet route live listen) ∧ (routeOf s.view route
      = some x ∧ x.rcd.output = false ∧ x.rcd.role = 2 ∧ x.clearing = none ∧ live ≤ 1 ∧ listen ≤ ((confOf s.view x.rcd.conf).map
      (·.rcd.langCount)).getD 0 ∧ listen ≠ x.rcd.channel))
    ∧ (∃ (s : State) (h : CmdHdr) (set : Nat) (block : Nat) (data : List (Nat × Int)), Taken s h (.audParamWrite set block data) ∧ (setOfBlock block =
      some 0 ∧ set = 0 ∧ (∀ e ∈ data, paramOk block e.1 e.2 (((data.find? (fun e => e.1 == 0)).map (·.2)).getD (paramIn s.view block 0 false)) =
      true)))
    ∧ (∃ (s : State) (h : CmdHdr) (set : Nat) (block : Nat) (data : List (Nat × Int)), Taken s h (.audParamWrite set block data) ∧ (setOfBlock block =
      some set ∧ set ≠ 0 ∧ (∀ e ∈ data, paramOk block e.1 e.2 (((data.find? (fun e => e.1 == 0)).map (·.2)).getD (paramIn s.view block 0 false)) =
      true) ∧ s.start.aud.hsCommit.filter (fun e => e.1 == set - 1) = []))
    ∧ (∃ (s : State) (h : CmdHdr) (set : Nat) (block : Nat) (data : List (Nat × Int)) (q : _), Taken s h (.audParamWrite set block data) ∧ (setOfBlock
      block = some set ∧ set ≠ 0 ∧ (∀ e ∈ data, paramOk block e.1 e.2 (((data.find? (fun e => e.1 == 0)).map (·.2)).getD (paramIn s.view block 0
      false)) = true) ∧ (s.start.aud.hsCommit.filter (fun e => e.1 == set - 1)).getLast? = some q))
    ∧ (∃ (s : State) (h : CmdHdr) (set : Nat) (bank : Nat) (block : Nat) (first : Nat) (count : Nat), Taken s h (.audParamRead set bank block first
      count) ∧ (setOfBlock block = some set ∧ bank ≤ 1 ∧ first + count ≤ 4096))
    ∧ (∃ (s : State) (h : CmdHdr) (sets : List Nat), Taken s h (.audCommit sets) ∧ sets = [0])
    ∧ (∃ (s : State) (h : CmdHdr) (sets : List Nat) (n : _), Taken s h (.audCommit sets) ∧ (sets = [n] ∧ 1 ≤ n ∧ n ≤ 2))
    ∧ (∃ (s : State) (h : CmdHdr) (rcd : TdmRec), Taken s h (.portTdmConfig rcd) ∧ (tdmRecOk rcd = true ∧ (∀ e ∈ s.view.aud.routes, ¬ (e.2.rcd.endType
      = 1 ∧ e.2.rcd.endUnit = rcd.port))))
    ∧ (∃ (s : State) (h : CmdHdr) (kind : Nat) (number : Nat), Taken s h (.portQuery kind number) ∧ (kind = 0 ∧ number < 2))
    ∧ (∃ (s : State) (h : CmdHdr) (kind : Nat) (number : Nat), Taken s h (.portQuery kind number) ∧ (kind = 1 ∧ number < 8))
    ∧ (∃ (s : State) (h : CmdHdr) (conf : Nat) (x : _), Taken s h (.confAudioQuery conf) ∧ confOf s.start conf = some x) :=
  ⟨⟨st (onAud full fun a => { a with routes := [] }), hdrOf (.routeSet route0), route0, (confTakes (st (onAud full fun a =>
      { a with routes := [] })).view route0.conf).get (by decide +kernel), ((if route0.engine = 0xFFFF then (((confTakes (st (onAud full fun a =>
      { a with routes := [] })).view route0.conf).get (by decide +kernel))).mix else some route0.engine)).get (by decide +kernel), (routeAdmit (st
      (onAud full fun a => { a with routes := [] })).view (((confTakes (st (onAud full fun a => { a with routes := [] })).view route0.conf).get
      (by decide +kernel))) route0 ((((if route0.engine = 0xFFFF then (((confTakes (st (onAud full fun a => { a with routes := [] })).view
      route0.conf).get (by decide +kernel))).mix else some route0.engine)).get (by decide +kernel)))).toOption.get (by decide +kernel), taken_st
      (by decide +kernel) _ (by decide +kernel), by decide +kernel⟩,
    ⟨st full, hdrOf (.routeClear 0), 0, (routeOf (st full).view 0).get (by decide +kernel), taken_st (by decide +kernel) _ (by decide +kernel), by
      decide +kernel⟩,
    ⟨st full, hdrOf (.routeQuery 0), 0, (routeOf (st full).start 0).get (by decide +kernel), taken_st (by decide +kernel) _ (by decide +kernel), by
      decide +kernel⟩,
    ⟨st (onRoute full 0 fun r => { r with rcd := { route0 with role := 2, channel := 1 } }), hdrOf (.consoleSet 0 0 0), 0, 0, 0, (routeOf (st
      (onRoute full 0 fun r => { r with rcd := { route0 with role := 2, channel := 1 } })).view 0).get (by decide +kernel), taken_st
      (by decide +kernel) _ (by decide +kernel), by decide +kernel⟩,
    ⟨st world, hdrOf (.audParamWrite 0 0 ([])), 0, 0, [], taken_st (by decide +kernel) _ (by decide +kernel), by decide +kernel⟩,
    ⟨st world, hdrOf (.audParamWrite 1 0x800 ([])), 1, 0x800, [], taken_st (by decide +kernel) _ (by decide +kernel), by decide +kernel⟩,
    ⟨st (onAud world fun a => { a with hsCommit := [(0, stg.ctx, [])] }), hdrOf (.audParamWrite 1 0x800 ([])), 1, 0x800, [], (((st (onAud world fun
      a => { a with hsCommit := [(0, stg.ctx, [])] })).start.aud.hsCommit.filter (fun e => e.1 == 1 - 1)).getLast?).get (by decide +kernel), taken_st
      (by decide +kernel) _ (by decide +kernel), by decide +kernel⟩,
    ⟨st world, hdrOf (.audParamRead 0 0 0 0 0), 0, 0, 0, 0, 0, taken_st (by decide +kernel) _ (by decide +kernel), by decide +kernel⟩,
    ⟨st world, hdrOf (.audCommit ([0])), [0], taken_st (by decide +kernel) _ (by decide +kernel), by decide +kernel⟩,
    ⟨st world, hdrOf (.audCommit ([1])), [1], 1, taken_st (by decide +kernel) _ (by decide +kernel), by decide +kernel⟩,
    ⟨st world, hdrOf (.portTdmConfig tdm0), tdm0, taken_st (by decide +kernel) _ (by decide +kernel), by decide +kernel⟩,
    ⟨st world, hdrOf (.portQuery 0 0), 0, 0, taken_st (by decide +kernel) _ (by decide +kernel), by decide +kernel⟩,
    ⟨st world, hdrOf (.portQuery 1 0), 1, 0, taken_st (by decide +kernel) _ (by decide +kernel), by decide +kernel⟩,
    ⟨st full, hdrOf (.confAudioQuery 0), 0, (confOf (st full).start 0).get (by decide +kernel), taken_st (by decide +kernel) _ (by decide +kernel),
      by decide +kernel⟩⟩

theorem witness_VideoCommandsComplete :
    (∃ (s : State) (h : CmdHdr) (rcd : ContribRec) (l : _), Taken s h (.contribSet rcd) ∧ (legOf s.view rcd.leg = some l ∧ l.st ≠ .draining ∧ l.st ≠
      .lost ∧ contribOk l rcd = true ∧ contribOf s.view rcd.leg = none ∧ codecsDark s.view (withContrib s.view rcd (if decLoad s.view 1 < decLoad
      s.view 0 then 1 else 0)) = false ∧ videoAdmits s.view (withContrib s.view rcd (if decLoad s.view 1 < decLoad s.view 0 then 1 else 0)) = true))
    ∧ (∃ (s : State) (h : CmdHdr) (rcd : ContribRec) (l : _) (x : _), Taken s h (.contribSet rcd) ∧ (legOf s.view rcd.leg = some l ∧ l.st ≠ .draining ∧
      l.st ≠ .lost ∧ contribOk l rcd = true ∧ contribOf s.view rcd.leg = some x ∧ x.rcd.mode = 2 ∧ codecsDark s.view (withContrib s.view rcd
      x.cluster) = false ∧ videoAdmits s.view (withContrib s.view rcd x.cluster) = true))
    ∧ (∃ (s : State) (h : CmdHdr) (rcd : ContribRec) (l : _) (x : _), Taken s h (.contribSet rcd) ∧ (legOf s.view rcd.leg = some l ∧ l.st ≠ .draining ∧
      l.st ≠ .lost ∧ contribOk l rcd = true ∧ contribOf s.view rcd.leg = some x ∧ x.rcd.mode ≠ 2 ∧ codecsDark s.view (withContrib s.view rcd (if
      decLoad s.view 1 < decLoad s.view 0 then 1 else 0)) = false ∧ videoAdmits s.view (withContrib s.view rcd (if decLoad s.view 1 < decLoad s.view 0
      then 1 else 0)) = true))
    ∧ (∃ (s : State) (h : CmdHdr) (leg : Nat) (entries : List (Nat × Nat)) (l : _), Taken s h (.subscribeSet leg entries) ∧ (legOf s.view leg = some l
      ∧ l.rcd.videoOut = 1 ∧ entries.length ≤ 32 ∧ (dedup (entries.map (·.1))).length = entries.length ∧ (∀ e ∈ entries, 1 ≤ e.2 ∧ e.2 ≤ 255 ∧
      subscribeOk s.view leg l e.1 = true)))
    ∧ (∃ (s : State) (h : CmdHdr) (rcd : LayoutRec), Taken s h (.layoutSet rcd) ∧ (layoutOk s.view rcd = true ∧ codecsDark s.view (withLayout s.view
      rcd) = false ∧ videoAdmits s.view (withLayout s.view rcd) = true))
    ∧ (∃ (s : State) (h : CmdHdr) (layout : Nat), Taken s h (.layoutClear layout) ∧ (thas s.view.vid.layouts layout = true ∧ (∀ l ∈ s.view.media.legs,
      ¬ (l.2.st ≠ .free ∧ l.2.rcd.videoOut = 2 ∧ l.2.rcd.layout = layout)) ∧ (∀ r ∈ s.view.vid.recv, ∀ key, some key = r.2.cur ∨ some key = r.2.next →
      ∀ strm, some strm = tget s.view.vid.streams key → strm.layout ≠ layout)))
    ∧ (∃ (s : State) (h : CmdHdr) (layout : Nat) (r : _), Taken s h (.layoutQuery layout) ∧ tget s.start.vid.layouts layout = some r)
    ∧ (∃ (s : State) (h : CmdHdr) (small : Nat) (mid : Nat) (large : Nat), Taken s h (.vidConfig small mid large) ∧ (50 ≤ small ∧ small ≤ 20000 ∧ 50 ≤
      mid ∧ mid ≤ 20000 ∧ 50 ≤ large ∧ large ≤ 20000 ∧ videoAdmits s.view (applyVidConfig small mid large s.view) = true))
    ∧ (∃ (s : State) (h : CmdHdr) (kind : Nat) (a : Nat) (b : Nat) (r : _), Taken s h (.intraRequest kind a b) ∧ (kind = 0 ∧ tget s.view.vid.layouts a
      = some r ∧ (variantOf r b).isSome = true))
    ∧ (∃ (s : State) (h : CmdHdr) (kind : Nat) (a : Nat) (b : Nat), Taken s h (.intraRequest kind a b) ∧ (kind = 1 ∧ contribMode s.view a ≠ 0))
    ∧ (∃ (s : State) (h : CmdHdr) (item : Nat), Taken s h (.vidQuery item) ∧ item = 0)
    ∧ (∃ (s : State) (h : CmdHdr) (item : Nat), Taken s h (.vidQuery item) ∧ item = 1) :=
  ⟨⟨st (onLeg full 0 fun l => { l with rcd := { leg0 with contrib := true, vCodecIn := 3 } }), hdrOf (.contribSet contrib0), contrib0, (legOf (st
      (onLeg full 0 fun l => { l with rcd := { leg0 with contrib := true, vCodecIn := 3 } })).view contrib0.leg).get (by decide +kernel), taken_st
      (by decide +kernel) _ (by decide +kernel), by decide +kernel⟩,
    ⟨st (withContrib (onLeg full 0 fun l => { l with rcd := { leg0 with contrib := true, vCodecIn := 3 } }) { contrib0 with mode := 2 } 0), hdrOf
      (.contribSet ({ contrib0 with mode := 2 })), { contrib0 with mode := 2 }, (legOf (st (withContrib (onLeg full 0 fun l =>
      { l with rcd := { leg0 with contrib := true, vCodecIn := 3 } }) { contrib0 with mode := 2 } 0)).view ({ contrib0 with mode := 2 }).leg).get
      (by decide +kernel), (contribOf (st (withContrib (onLeg full 0 fun l => { l with rcd := { leg0 with contrib := true, vCodecIn := 3 } })
      { contrib0 with mode := 2 } 0)).view ({ contrib0 with mode := 2 }).leg).get (by decide +kernel), taken_st (by decide +kernel) _
      (by decide +kernel), by decide +kernel⟩,
    ⟨st (withContrib (onLeg full 0 fun l => { l with rcd := { leg0 with contrib := true, vCodecIn := 3 } }) { contrib0 with mode := 1 } 0), hdrOf
      (.contribSet ({ contrib0 with mode := 1 })), { contrib0 with mode := 1 }, (legOf (st (withContrib (onLeg full 0 fun l =>
      { l with rcd := { leg0 with contrib := true, vCodecIn := 3 } }) { contrib0 with mode := 1 } 0)).view ({ contrib0 with mode := 1 }).leg).get
      (by decide +kernel), (contribOf (st (withContrib (onLeg full 0 fun l => { l with rcd := { leg0 with contrib := true, vCodecIn := 3 } })
      { contrib0 with mode := 1 } 0)).view ({ contrib0 with mode := 1 }).leg).get (by decide +kernel), taken_st (by decide +kernel) _
      (by decide +kernel), by decide +kernel⟩,
    ⟨st (onLeg full 0 fun l => { l with rcd := { leg0 with videoOut := 1 } }), hdrOf (.subscribeSet 0 ([])), 0, [], (legOf (st (onLeg full 0 fun l
      => { l with rcd := { leg0 with videoOut := 1 } })).view 0).get (by decide +kernel), taken_st (by decide +kernel) _ (by decide +kernel), by
      decide +kernel⟩,
    ⟨st full, hdrOf (.layoutSet layout0), layout0, taken_st (by decide +kernel) _ (by decide +kernel), by decide +kernel⟩,
    ⟨st (onMedia full fun m => { m with legs := [] }), hdrOf (.layoutClear 0), 0, taken_st (by decide +kernel) _ (by decide +kernel), ⟨by
      decide +kernel, by decide +kernel, fun r hr => (List.not_mem_nil hr).elim⟩⟩,
    ⟨st full, hdrOf (.layoutQuery 0), 0, (tget (st full).start.vid.layouts 0).get (by decide +kernel), taken_st (by decide +kernel) _
      (by decide +kernel), by decide +kernel⟩,
    ⟨st world, hdrOf (.vidConfig 50 50 50), 50, 50, 50, taken_st (by decide +kernel) _ (by decide +kernel), by decide +kernel⟩,
    ⟨st full, hdrOf (.intraRequest 0 0 1), 0, 0, 1, (tget (st full).view.vid.layouts 0).get (by decide +kernel), taken_st (by decide +kernel) _
      (by decide +kernel), by decide +kernel⟩,
    ⟨st (withContrib (onLeg full 0 fun l => { l with rcd := { leg0 with contrib := true, vCodecIn := 3 } }) { contrib0 with mode := 2 } 0), hdrOf
      (.intraRequest 1 0 0), 1, 0, 0, taken_st (by decide +kernel) _ (by decide +kernel), by decide +kernel⟩,
    ⟨st world, hdrOf (.vidQuery 0), 0, taken_st (by decide +kernel) _ (by decide +kernel), by decide +kernel⟩,
    ⟨st world, hdrOf (.vidQuery 1), 1, taken_st (by decide +kernel) _ (by decide +kernel), by decide +kernel⟩⟩

theorem witness_AccessCommandsComplete :
    (∃ (s : State) (h : CmdHdr) (cfg : AccCfg), Taken s h (.accConfig cfg) ∧ (accCfgOk cfg = true ∧ (∀ n ∈ List.range 4, (sliceOf s.view n).st =
      .disabled)))
    ∧ (∃ (s : State) (h : CmdHdr) (mask : Nat) (stopHeld : Bool), Taken s h (.accEnable mask stopHeld) ∧ (mask < 16 ∧ (s.view.acc.cfg.native = true ∨
      mask ≤ 1) ∧ (∀ n ∈ maskSlices mask, (sliceOf s.view n).st ≠ .killed)))
    ∧ (∃ (s : State) (h : CmdHdr) (mask : Nat) (gasp : Bool) (n : _), Taken s h (.accDisable mask gasp) ∧ (mask = 2 ^ n ∧ n < 4 ∧ (sliceOf s.start
      n).st = .o5 ∧ gasp = true))
    ∧ (∃ (s : State) (h : CmdHdr) (mask : Nat) (gasp : Bool) (n : _), Taken s h (.accDisable mask gasp) ∧ (mask = 2 ^ n ∧ n < 4 ∧ gasp = false ∧
      (sliceOf s.start n).st ≠ .killed))
    ∧ (∃ (s : State) (h : CmdHdr) (slice : Nat), Taken s h (.accQuery slice) ∧ slice < 4)
    ∧ (∃ (s : State) (h : CmdHdr) (slice : Nat), Taken s h (.accKillRelease slice) ∧ slice < 4)
    ∧ (∃ (s : State) (h : CmdHdr) (mask : Nat) (request : Bool), Taken s h (.accBondConfig mask request) ∧ (s.view.acc.cfg.native = true ∧ mask < 16))
    ∧ (∃ (s : State) (h : CmdHdr) (slice : Nat), Taken s h (.accChannelLeave slice) ∧ slice < 4)
    ∧ (∃ (s : State) (h : CmdHdr), Taken s h (.accBondQuery))
    ∧ (∃ (s : State) (h : CmdHdr) (slice : Nat) (cls : Nat) (inst : Nat) (mask : Nat) (m : _), Taken s h (.diagOmciRead slice cls inst mask) ∧ (slice <
      4 ∧ (meInstances cls).isSome = true ∧ tget (sliceOf s.start slice).mib (meKey cls inst) = some m))
    ∧ (∃ (s : State) (h : CmdHdr) (slice : Nat) (cls : Nat), Taken s h (.diagOmciList slice cls) ∧ (slice < 4 ∧ (meInstances cls).isSome = true)) :=
  ⟨⟨st world, hdrOf (.accConfig acc0), acc0, taken_st (by decide +kernel) _ (by decide +kernel), by decide +kernel⟩,
    ⟨st world, hdrOf (.accEnable 0 false), 0, false, taken_st (by decide +kernel) _ (by decide +kernel), by decide +kernel⟩,
    ⟨st (onSlice world 0 fun x => { x with st := .o5 }), hdrOf (.accDisable 1 true), 1, true, 0, taken_st (by decide +kernel) _ (by decide +kernel),
      by decide +kernel⟩,
    ⟨st world, hdrOf (.accDisable (2 ^ 0) false), 2 ^ 0, false, 0, taken_st (by decide +kernel) _ (by decide +kernel), by decide +kernel⟩,
    ⟨st world, hdrOf (.accQuery 0), 0, taken_st (by decide +kernel) _ (by decide +kernel), by decide +kernel⟩,
    ⟨st world, hdrOf (.accKillRelease 0), 0, taken_st (by decide +kernel) _ (by decide +kernel), by decide +kernel⟩,
    ⟨st (onAcc world fun a => { a with cfg := acc0 }), hdrOf (.accBondConfig 0 false), 0, false, taken_st (by decide +kernel) _ (by decide +kernel),
      by decide +kernel⟩,
    ⟨st world, hdrOf (.accChannelLeave 0), 0, taken_st (by decide +kernel) _ (by decide +kernel), by decide +kernel⟩,
    ⟨st world, hdrOf (.accBondQuery), taken_st (by decide +kernel) _ (by decide +kernel)⟩,
    ⟨st (onSlice world 0 fun x => { x with mib := [(meKey 256 0, [])] }), hdrOf (.diagOmciRead 0 256 0 0), 0, 256, 0, 0, (tget (sliceOf (st (onSlice
      world 0 fun x => { x with mib := [(meKey 256 0, [])] })).start 0).mib (meKey 256 0)).get (by decide +kernel), taken_st (by decide +kernel) _
      (by decide +kernel), by decide +kernel⟩,
    ⟨st world, hdrOf (.diagOmciList 0 256), 0, 256, taken_st (by decide +kernel) _ (by decide +kernel), by decide +kernel⟩⟩

theorem witness_TrunkAndLaneCommandsComplete :
    (∃ (s : State) (h : CmdHdr) (rcd : TrunkRec) (e : _) (w : _), Taken s h (.imcTrunkSet rcd) ∧ (trunkFieldsOk rcd = true ∧ (rcd.bonded = true →
      s.view.acc.cfg.native = true) ∧ (∀ e ∈ s.view.imc.trunks, e.1 ≠ rcd.trunk → ∀ p ∈ trunkPorts e.2.rcd, p ∉ trunkPorts rcd) ∧ tget
      s.view.imc.trunks rcd.trunk = none ∧ placeTrunk s.view rcd none = .ok (e, w) ∧ (rcd.outbound = true → (trunkQueue s.view (trunkRoot s.view rcd)
      rcd.trunk).isSome = true)))
    ∧ (∃ (s : State) (h : CmdHdr) (trunk : Nat), Taken s h (.imcTrunkClear trunk) ∧ ((tget s.view.imc.trunks trunk).isSome = true ∧ trunkRouted s.view
      trunk = false))
    ∧ (∃ (s : State) (h : CmdHdr) (trunk : Nat) (t : _), Taken s h (.imcTrunkQuery trunk) ∧ tget s.start.imc.trunks trunk = some t)
    ∧ (∃ (s : State) (h : CmdHdr) (group : Nat) (mode : Nat) (flags : Nat), Taken s h (.laneGroupConfig group mode flags) ∧ (group ≤ 4 ∧ mode ≤ 2 ∧
      flags ≤ 3 ∧ (mode = 0 → group = 0) ∧ (mode = 2 → group ≠ 0) ∧ (getField flags 1 1 = 1 → groupBusy s.view group = false ∧ (laneGroup s.view
      group).sparing = none)))
    ∧ (∃ (s : State) (h : CmdHdr) (lane : Nat), Taken s h (.laneRecal lane) ∧ lane ≤ 31)
    ∧ (∃ (s : State) (h : CmdHdr) (group : Nat) (lane : Nat) (action : Nat), Taken s h (.laneSpare group lane action) ∧ (group ≤ 4 ∧ hasSpare group =
      true ∧ lane < dataLanes group ∧ action = 0 ∧ (laneGroup s.view group).spareFor = none ∧ (laneGroup s.view group).sparing = none ∧ (group = 0 →
      (tgetD s.view.acc.slices lane Slice.reset).ch ≠ .active)))
    ∧ (∃ (s : State) (h : CmdHdr) (group : Nat) (lane : Nat) (action : Nat), Taken s h (.laneSpare group lane action) ∧ (group ≤ 4 ∧ hasSpare group =
      true ∧ lane < dataLanes group ∧ action = 1 ∧ (laneGroup s.view group).spareFor = some lane ∧ (group = 0 → (tgetD s.view.acc.slices lane
      Slice.reset).ch ≠ .active)))
    ∧ (∃ (s : State) (h : CmdHdr) (lane : Nat), Taken s h (.laneQuery lane) ∧ lane ≤ 31) :=
  ⟨⟨st world, hdrOf (.imcTrunkSet trunk0), trunk0, ((placeTrunk (st world).view trunk0 none).toOption.get (by decide +kernel)).1, ((placeTrunk (st
      world).view trunk0 none).toOption.get (by decide +kernel)).2, taken_st (by decide +kernel) _ (by decide +kernel), by decide +kernel⟩,
    ⟨st full, hdrOf (.imcTrunkClear 0), 0, taken_st (by decide +kernel) _ (by decide +kernel), by decide +kernel⟩,
    ⟨st full, hdrOf (.imcTrunkQuery 0), 0, (tget (st full).start.imc.trunks 0).get (by decide +kernel), taken_st (by decide +kernel) _
      (by decide +kernel), by decide +kernel⟩,
    ⟨st world, hdrOf (.laneGroupConfig 0 0 0), 0, 0, 0, taken_st (by decide +kernel) _ (by decide +kernel), by decide +kernel⟩,
    ⟨st world, hdrOf (.laneRecal 0), 0, taken_st (by decide +kernel) _ (by decide +kernel), by decide +kernel⟩,
    ⟨st world, hdrOf (.laneSpare 0 0 0), 0, 0, 0, taken_st (by decide +kernel) _ (by decide +kernel), by decide +kernel⟩,
    ⟨st (onGroupL world 2 fun g => { g with spareFor := some 0 }), hdrOf (.laneSpare 2 0 1), 2, 0, 1, taken_st (by decide +kernel) _
      (by decide +kernel), by decide +kernel⟩,
    ⟨st world, hdrOf (.laneQuery 0), 0, taken_st (by decide +kernel) _ (by decide +kernel), by decide +kernel⟩⟩

theorem witness_ClientPortCommandsComplete :
    (∃ (s : State) (h : CmdHdr) (mode : Nat), Taken s h (.cliConfig mode) ∧ (mode < 3 ∧ (mode = s.view.cli.mode ∨ clientNamed s.view = false)))
    ∧ (∃ (s : State) (h : CmdHdr) (port : Nat) (att : Nat), Taken s h (.cliPath port att) ∧ (port ≤ 3 ∧ portProvided s.view port = true ∧ att ≤ 1))
    ∧ (∃ (s : State) (h : CmdHdr) (port : Nat) (f : PortFields), Taken s h (.cliPortConfig port f) ∧ (port ≤ 4 ∧ portFieldsOk s.view port f = true ∧
      (f.enable = true → portProvided s.view port = true ∧ (port < 4 → domOn s.view 10 = true ∧ ((ownedQueue s.view (.cut port)).isSome = true ∨
      (cutQueue s.view port).isSome = true)))))
    ∧ (∃ (s : State) (h : CmdHdr) (port : Nat) (entry : Nat) (addr : Nat) (valid : Bool), Taken s h (.cliAddrSet port entry addr valid) ∧ (port ≤ 4 ∧
      entry ≤ 15 ∧ addr < 2 ^ 48))
    ∧ (∃ (s : State) (h : CmdHdr) (port : Nat) (validate : Nat) (replay : Nat) (enable : Bool), Taken s h (.cliMacsecSet port validate replay enable) ∧
      (port ≤ 3 ∧ validate ≤ 3 ∧ replay ≤ 2 ^ 30))
    ∧ (∃ (s : State) (h : CmdHdr) (port : Nat) (dir : Nat) (sci : Nat) (an : Nat) (handle : Nat), Taken s h (.cliMacsecSa port dir sci an handle) ∧
      (port ≤ 3 ∧ dir ≤ 1 ∧ an ≤ 3 ∧ handle = 0xFFFF ∧ (portOf s.view port).macSas.any (fun a => a.outbound == decide (dir = 1) && a.sci == sci &&
      a.an == an) = true))
    ∧ (∃ (s : State) (h : CmdHdr) (port : Nat) (dir : Nat) (sci : Nat) (an : Nat) (handle : Nat) (a : _), Taken s h (.cliMacsecSa port dir sci an
      handle) ∧ (port ≤ 3 ∧ dir ≤ 1 ∧ an ≤ 3 ∧ handle ≠ 0xFFFF ∧ saOf s.view handle = some a ∧ a.rcd.path = 2 ∧ a.rcd.dir = dir ∧ saBound a = false ∧
      saRetired a = false ∧ macRoom (portOf s.view port) (decide (dir = 1)) sci an = true))
    ∧ (∃ (s : State) (h : CmdHdr) (port : Nat), Taken s h (.cliPortQuery port) ∧ port ≤ 4) :=
  ⟨⟨st world, hdrOf (.cliConfig 0), 0, taken_st (by decide +kernel) _ (by decide +kernel), by decide +kernel⟩,
    ⟨st world, hdrOf (.cliPath 0 0), 0, 0, taken_st (by decide +kernel) _ (by decide +kernel), by decide +kernel⟩,
    ⟨st world, hdrOf (.cliPortConfig 0 ({ port0 with enable := false })), 0, { port0 with enable := false }, taken_st (by decide +kernel) _
      (by decide +kernel), by decide +kernel⟩,
    ⟨st world, hdrOf (.cliAddrSet 0 0 0 false), 0, 0, 0, false, taken_st (by decide +kernel) _ (by decide +kernel), by decide +kernel⟩,
    ⟨st world, hdrOf (.cliMacsecSet 0 0 0 false), 0, 0, 0, false, taken_st (by decide +kernel) _ (by decide +kernel), by decide +kernel⟩,
    ⟨st (onPort world 0 fun p => { p with macSas := [{ outbound := false, sci := 0, an := 0, handle := 0, nextPn := 1 }] }), hdrOf (.cliMacsecSa 0 0
      0 0 0xFFFF), 0, 0, 0, 0, 0xFFFF, taken_st (by decide +kernel) _ (by decide +kernel), by decide +kernel⟩,
    ⟨st (onSa full 0 fun a => { a with rcd := { sa0 with path := 2, cipher := 3, keyLen := 32 } }), hdrOf (.cliMacsecSa 0 0 0 0 0), 0, 0, 0, 0, 0,
      (saOf (st (onSa full 0 fun a => { a with rcd := { sa0 with path := 2, cipher := 3, keyLen := 32 } })).view 0).get (by decide +kernel), taken_st
      (by decide +kernel) _ (by decide +kernel), by decide +kernel⟩,
    ⟨st world, hdrOf (.cliPortQuery 0), 0, taken_st (by decide +kernel) _ (by decide +kernel), by decide +kernel⟩⟩

theorem witness_ParseCommandsComplete :
    (∃ (s : State) (h : CmdHdr) (pipe : Nat) (index : Nat) (rule : RuleRec), Taken s h (.parseRuleSet pipe index rule) ∧ (pipe ≤ 1 ∧ index ≤ 4095 ∧
      actionOk rule.action = true))
    ∧ (∃ (s : State) (h : CmdHdr) (pipe : Nat) (first : Nat) (count : Nat), Taken s h (.parseRuleClear pipe first count) ∧ (pipe ≤ 1 ∧ first + count ≤
      4096 ∧ 1 ≤ count))
    ∧ (∃ (s : State) (h : CmdHdr) (pipe : Nat) (index : Nat) (clear : Bool), Taken s h (.parseRuleQuery pipe index clear) ∧ (pipe ≤ 1 ∧ index ≤ 4095 ∧
      tget s.start.parse.rules (4096 * pipe + index) = none))
    ∧ (∃ (s : State) (h : CmdHdr) (pipe : Nat) (index : Nat) (clear : Bool) (e : _), Taken s h (.parseRuleQuery pipe index clear) ∧ (pipe ≤ 1 ∧ index ≤
      4095 ∧ tget s.start.parse.rules (4096 * pipe + index) = some e))
    ∧ (∃ (s : State) (h : CmdHdr) (port : Nat) (action : ActionRec) (ooo : Nat), Taken s h (.parsePortSet port action ooo) ∧ (parsePortExists port =
      true ∧ actionOk action = true ∧ ooo ≤ 3))
    ∧ (∃ (s : State) (h : CmdHdr) (profile : Nat) (fields : Nat) (seed : Word), Taken s h (.parseHashProfileSet profile fields seed) ∧ (profile ≤ 63 ∧
      fields < 2 ^ 12 ∧ (profile ≤ 7 → ∀ e ∈ s.view.media.legs, e.2.st = .free ∨ e.2.rcd.hashProfile ≠ profile)))
    ∧ (∃ (s : State) (h : CmdHdr) (profile : Nat) (first : Nat) (entries : List Nat), Taken s h (.parseHashTableSet profile first entries) ∧ (8 ≤
      profile ∧ profile ≤ 63 ∧ first + entries.length ≤ 512 ∧ entries ≠ [] ∧ (∀ e ∈ entries, e / 2 ^ 14 % 4 ≠ 3 ∧ e < 65536)))
    ∧ (∃ (s : State) (h : CmdHdr) (age : Nat), Taken s h (.parseFragConfig age) ∧ (8 ≤ age ∧ age ≤ 8000))
    ∧ (∃ (s : State) (h : CmdHdr) (item : Nat) (leg : Nat), Taken s h (.parseQuery item leg) ∧ item = 0)
    ∧ (∃ (s : State) (h : CmdHdr) (item : Nat) (leg : Nat), Taken s h (.parseQuery item leg) ∧ item = 1)
    ∧ (∃ (s : State) (h : CmdHdr) (item : Nat) (leg : Nat) (e : _), Taken s h (.parseQuery item leg) ∧ (item = 2 ∧ tget s.start.parse.exact leg = some
      e))
    ∧ (∃ (s : State) (h : CmdHdr) (item : Nat) (leg : Nat), Taken s h (.parseQuery item leg) ∧ (item = 2 ∧ tget s.start.parse.exact leg = none)) :=
  ⟨⟨st world, hdrOf (.parseRuleSet 0 0 rule0), 0, 0, rule0, taken_st (by decide +kernel) _ (by decide +kernel), by decide +kernel⟩,
    ⟨st world, hdrOf (.parseRuleClear 0 0 1), 0, 0, 1, taken_st (by decide +kernel) _ (by decide +kernel), by decide +kernel⟩,
    ⟨st world, hdrOf (.parseRuleQuery 0 0 false), 0, 0, false, taken_st (by decide +kernel) _ (by decide +kernel), by decide +kernel⟩,
    ⟨st (onParse world fun p => { p with rules := [(0, { rule := rule0, hits := 0 })] }), hdrOf (.parseRuleQuery 0 0 false), 0, 0, false, (tget (st
      (onParse world fun p => { p with rules := [(0, { rule := rule0, hits := 0 })] })).start.parse.rules (4096 * 0 + 0)).get (by decide +kernel),
      taken_st (by decide +kernel) _ (by decide +kernel), by decide +kernel⟩,
    ⟨st world, hdrOf (.parsePortSet 0 act0 0), 0, act0, 0, taken_st (by decide +kernel) _ (by decide +kernel), by decide +kernel⟩,
    ⟨st world, hdrOf (.parseHashProfileSet 0 0 0), 0, 0, 0, taken_st (by decide +kernel) _ (by decide +kernel), by decide +kernel⟩,
    ⟨st world, hdrOf (.parseHashTableSet 8 0 ([3])), 8, 0, [3], taken_st (by decide +kernel) _ (by decide +kernel), by decide +kernel⟩,
    ⟨st world, hdrOf (.parseFragConfig 8), 8, taken_st (by decide +kernel) _ (by decide +kernel), by decide +kernel⟩,
    ⟨st world, hdrOf (.parseQuery 0 0), 0, 0, taken_st (by decide +kernel) _ (by decide +kernel), by decide +kernel⟩,
    ⟨st world, hdrOf (.parseQuery 1 0), 1, 0, taken_st (by decide +kernel) _ (by decide +kernel), by decide +kernel⟩,
    ⟨st (steerLeg full 0), hdrOf (.parseQuery 2 0), 2, 0, (tget (st (steerLeg full 0)).start.parse.exact 0).get (by decide +kernel), taken_st
      (by decide +kernel) _ (by decide +kernel), by decide +kernel⟩,
    ⟨st world, hdrOf (.parseQuery 2 0), 2, 0, taken_st (by decide +kernel) _ (by decide +kernel), by decide +kernel⟩⟩

theorem witness_QueueCommandsComplete :
    (∃ (s : State) (h : CmdHdr) (f : QueueFields) (q : _), Taken s h (.tmQueueAlloc f) ∧ (queueFieldsOk f = true ∧ slotOk s.view f.group f.slot none
      = true ∧ freeQueue s.view = some q))
    ∧ (∃ (s : State) (h : CmdHdr) (queue : Nat) (f : QueueFields) (sojAlarm : Nat) (x : _), Taken s h (.tmQueueSet queue f sojAlarm) ∧ (64 ≤ queue ∧
      sojAlarm < 2 ^ 32 ∧ tget s.view.tm.queues queue = some x ∧ sameQueue x f = true))
    ∧ (∃ (s : State) (h : CmdHdr) (queue : Nat) (f : QueueFields) (sojAlarm : Nat) (x : _), Taken s h (.tmQueueSet queue f sojAlarm) ∧ (64 ≤ queue ∧
      sojAlarm < 2 ^ 32 ∧ tget s.view.tm.queues queue = some x ∧ x.owner = .host ∧ queueFieldsOk f = true ∧ slotOk s.view f.group f.slot (some queue)
      = true))
    ∧ (∃ (s : State) (h : CmdHdr) (queue : Nat) (x : _), Taken s h (.tmQueueFree queue) ∧ (64 ≤ queue ∧ tget s.view.tm.queues queue = some x ∧ x.owner
      = .host))
    ∧ (∃ (s : State) (h : CmdHdr) (group : Nat) (root : Nat) (band : Nat) (quantum : Nat) (create : Bool) (n : _), Taken s h (.tmGroupSet group root
      band quantum create) ∧ (rootExists s.view root = true ∧ band ≤ 3 ∧ 64 ≤ quantum ∧ quantum ≤ 262143 ∧ create = true ∧ freeGroup s.view = some n))
    ∧ (∃ (s : State) (h : CmdHdr) (group : Nat) (root : Nat) (band : Nat) (quantum : Nat) (create : Bool) (x : _), Taken s h (.tmGroupSet group root
      band quantum create) ∧ (rootExists s.view root = true ∧ band ≤ 3 ∧ 64 ≤ quantum ∧ quantum ≤ 262143 ∧ create = false ∧ tget s.view.tm.groups
      group = some x ∧ x.kind = .host))
    ∧ (∃ (s : State) (h : CmdHdr) (level : Nat) (number : Nat) (enable : Bool) (rate : Nat) (burst : Nat), Taken s h (.tmShaperSet level number enable
      rate burst) ∧ (level = 0 ∧ 64 ≤ number ∧ thas s.view.tm.queues number = true ∧ (enable = true → rateOk rate burst = true)))
    ∧ (∃ (s : State) (h : CmdHdr) (level : Nat) (number : Nat) (enable : Bool) (rate : Nat) (burst : Nat), Taken s h (.tmShaperSet level number enable
      rate burst) ∧ (level = 1 ∧ thas s.view.tm.groups number = true ∧ (enable = true → rateOk rate burst = true)))
    ∧ (∃ (s : State) (h : CmdHdr) (level : Nat) (number : Nat) (enable : Bool) (rate : Nat) (burst : Nat), Taken s h (.tmShaperSet level number enable
      rate burst) ∧ (level = 2 ∧ rootExists s.view number = true ∧ (enable = true → rateOk rate burst = true)))
    ∧ (∃ (s : State) (h : CmdHdr) (root : Nat) (adj : Int), Taken s h (.tmRootSet root adj) ∧ (rootExists s.view root = true ∧ -32 ≤ adj ∧ adj ≤ 63))
    ∧ (∃ (s : State) (h : CmdHdr) (policer : Nat) (enable : Bool) (rate : Nat) (burst : Nat), Taken s h (.tmPolicerSet policer enable rate burst) ∧
      (policer < 16384 ∧ (enable = true → rateOk rate burst = true)))
    ∧ (∃ (s : State) (h : CmdHdr) (meter : Nat) (f : MeterFields), Taken s h (.tmMeterSet meter f) ∧ (meter < 1024 ∧ f.mode ≤ 3 ∧ f.yellowAct ≤ 1 ∧
      f.redAct ≤ 1 ∧ rateOk f.cir f.cbs = true ∧ rateOk f.pir f.pbs = true))
    ∧ (∃ (s : State) (h : CmdHdr) (port : Nat) (cls : Nat) (meter : Nat), Taken s h (.tmMeterMapSet port cls meter) ∧ (port ≤ 14 ∧ port ≠ 6 ∧ port ≠ 7
      ∧ cls ≤ 15 ∧ (meter < 1024 ∨ meter = 0xFFFF)))
    ∧ (∃ (s : State) (h : CmdHdr) (high : Nat) (deepMib : Nat) (short : Bool), Taken s h (.tmBufConfig high deepMib short) ∧ (high ≤ 262143 ∧ deepMib ≤
      8192 ∧ short = false ∧ placeBytes s.view .deep ≤ deepMib * 1048576))
    ∧ (∃ (s : State) (h : CmdHdr) (item : Nat) (number : Nat), Taken s h (.tmQuery item number) ∧ (item = 0 ∧ number < 8192))
    ∧ (∃ (s : State) (h : CmdHdr) (item : Nat) (number : Nat), Taken s h (.tmQuery item number) ∧ (item = 1 ∧ number < 512))
    ∧ (∃ (s : State) (h : CmdHdr) (item : Nat) (number : Nat), Taken s h (.tmQuery item number) ∧ (item = 2 ∧ rootExists s.start number = true))
    ∧ (∃ (s : State) (h : CmdHdr) (item : Nat) (number : Nat), Taken s h (.tmQuery item number) ∧ (item = 3 ∧ number < 16384))
    ∧ (∃ (s : State) (h : CmdHdr) (item : Nat) (number : Nat), Taken s h (.tmQuery item number) ∧ (item = 4 ∧ number < 1024)) :=
  ⟨⟨st full, hdrOf (.tmQueueAlloc ({ queue0 with group := 64, slot := 1 })), { queue0 with group := 64, slot := 1 }, (freeQueue (st full).view).get
      (by decide +kernel), taken_st (by decide +kernel) _ (by decide +kernel), by decide +kernel⟩,
    ⟨st full, hdrOf (.tmQueueSet 64 ({ group := 64, slot := 0, quantum := 1600, limitG := 4096, yPct := 50, rPct := 25, deep := false }) 0), 64,
      { group := 64, slot := 0, quantum := 1600, limitG := 4096, yPct := 50, rPct := 25, deep := false }, 0, (tget (st full).view.tm.queues 64).get
      (by decide +kernel), taken_st (by decide +kernel) _ (by decide +kernel), by decide +kernel⟩,
    ⟨st full, hdrOf (.tmQueueSet 64 ({ queue0 with group := 64, slot := 1 }) 0), 64, { queue0 with group := 64, slot := 1 }, 0, (tget (st
      full).view.tm.queues 64).get (by decide +kernel), taken_st (by decide +kernel) _ (by decide +kernel), by decide +kernel⟩,
    ⟨st full, hdrOf (.tmQueueFree 64), 64, (tget (st full).view.tm.queues 64).get (by decide +kernel), taken_st (by decide +kernel) _
      (by decide +kernel), by decide +kernel⟩,
    ⟨st world, hdrOf (.tmGroupSet 0 512 0 64 true), 0, 512, 0, 64, true, (freeGroup (st world).view).get (by decide +kernel), taken_st
      (by decide +kernel) _ (by decide +kernel), by decide +kernel⟩,
    ⟨st full, hdrOf (.tmGroupSet 64 512 0 64 false), 64, 512, 0, 64, false, (tget (st full).view.tm.groups 64).get (by decide +kernel), taken_st
      (by decide +kernel) _ (by decide +kernel), by decide +kernel⟩,
    ⟨st full, hdrOf (.tmShaperSet 0 64 false 0 0), 0, 64, false, 0, 0, taken_st (by decide +kernel) _ (by decide +kernel), by decide +kernel⟩,
    ⟨st full, hdrOf (.tmShaperSet 1 64 false 0 0), 1, 64, false, 0, 0, taken_st (by decide +kernel) _ (by decide +kernel), by decide +kernel⟩,
    ⟨st world, hdrOf (.tmShaperSet 2 512 false 0 0), 2, 512, false, 0, 0, taken_st (by decide +kernel) _ (by decide +kernel), by decide +kernel⟩,
    ⟨st world, hdrOf (.tmRootSet 512 0), 512, 0, taken_st (by decide +kernel) _ (by decide +kernel), by decide +kernel⟩,
    ⟨st world, hdrOf (.tmPolicerSet 0 false 0 0), 0, false, 0, 0, taken_st (by decide +kernel) _ (by decide +kernel), by decide +kernel⟩,
    ⟨st world, hdrOf (.tmMeterSet 0 meter0), 0, meter0, taken_st (by decide +kernel) _ (by decide +kernel), by decide +kernel⟩,
    ⟨st world, hdrOf (.tmMeterMapSet 0 0 0), 0, 0, 0, taken_st (by decide +kernel) _ (by decide +kernel), by decide +kernel⟩,
    ⟨st world, hdrOf (.tmBufConfig 0 0 false), 0, 0, false, taken_st (by decide +kernel) _ (by decide +kernel), by decide +kernel⟩,
    ⟨st world, hdrOf (.tmQuery 0 0), 0, 0, taken_st (by decide +kernel) _ (by decide +kernel), by decide +kernel⟩,
    ⟨st world, hdrOf (.tmQuery 1 0), 1, 0, taken_st (by decide +kernel) _ (by decide +kernel), by decide +kernel⟩,
    ⟨st world, hdrOf (.tmQuery 2 512), 2, 512, taken_st (by decide +kernel) _ (by decide +kernel), by decide +kernel⟩,
    ⟨st world, hdrOf (.tmQuery 3 0), 3, 0, taken_st (by decide +kernel) _ (by decide +kernel), by decide +kernel⟩,
    ⟨st world, hdrOf (.tmQuery 4 0), 4, 0, taken_st (by decide +kernel) _ (by decide +kernel), by decide +kernel⟩⟩

theorem witness_IntegrityCommandsComplete :
    (∃ (s : State) (h : CmdHdr) (item : Nat), Taken s h (.integQuery item) ∧ item = 0)
    ∧ (∃ (s : State) (h : CmdHdr) (item : Nat), Taken s h (.integQuery item) ∧ item = 1)
    ∧ (∃ (s : State) (h : CmdHdr) (item : Nat), Taken s h (.integQuery item) ∧ item = 2)
    ∧ (∃ (s : State) (h : CmdHdr) (cls : Nat) (rate : Nat), Taken s h (.integScrubSet cls rate) ∧ (cls < 6 ∧ rate ≤ 4095))
    ∧ (∃ (s : State) (h : CmdHdr) (cls : Nat) (rate : Nat), Taken s h (.integScrubSet cls rate) ∧ (6 ≤ cls ∧ cls ≤ 7 ∧ rate ≤ 50000 ∧ rate + scrubRate
      s.view (13 - cls) + 1024 ≤ allotOf s.view 23))
    ∧ (∃ (s : State) (h : CmdHdr) (cls : Nat) (data : BitVec 64) (check : Nat) (matchAddr : Nat) (addr : BitVec 64), Taken s h (.integFlip cls data
      check matchAddr addr) ∧ (cls ≤ 7 ∧ check ≤ 255 ∧ matchAddr ≤ 1))
    ∧ (∃ (s : State) (h : CmdHdr) (mask : Nat), Taken s h (.integDigestConfig mask) ∧ mask < 2 ^ 17)
    ∧ (∃ (s : State) (h : CmdHdr) (block : Nat) (offset : Nat), Taken s h (.integDigestDump block offset) ∧ (block ≤ 16 ∧ offset + (blockImage block
      s.view).length ≤ pastureSize))
    ∧ (∃ (s : State) (h : CmdHdr) (stack : Nat) (offset : Nat) (thr : Nat), Taken s h (.integRemap stack offset thr) ∧ (stack ≤ 1 ∧ offset /
      0x400000000 = stack ∧ thr ≤ 15 ∧ (rowMapped s.view stack (rowAt offset) = true ∨ (stackOf s.view stack).copying.length < (stackOf s.view
      stack).free))) :=
  ⟨⟨st world, hdrOf (.integQuery 0), 0, taken_st (by decide +kernel) _ (by decide +kernel), by decide +kernel⟩,
    ⟨st world, hdrOf (.integQuery 1), 1, taken_st (by decide +kernel) _ (by decide +kernel), by decide +kernel⟩,
    ⟨st world, hdrOf (.integQuery 2), 2, taken_st (by decide +kernel) _ (by decide +kernel), by decide +kernel⟩,
    ⟨st world, hdrOf (.integScrubSet 0 0), 0, 0, taken_st (by decide +kernel) _ (by decide +kernel), by decide +kernel⟩,
    ⟨st world, hdrOf (.integScrubSet 6 0), 6, 0, taken_st (by decide +kernel) _ (by decide +kernel), by decide +kernel⟩,
    ⟨st world, hdrOf (.integFlip 0 0 0 0 0), 0, 0, 0, 0, 0, taken_st (by decide +kernel) _ (by decide +kernel), by decide +kernel⟩,
    ⟨st world, hdrOf (.integDigestConfig 0), 0, taken_st (by decide +kernel) _ (by decide +kernel), by decide +kernel⟩,
    ⟨st world, hdrOf (.integDigestDump 0 0), 0, 0, taken_st (by decide +kernel) _ (by decide +kernel), by decide +kernel⟩,
    ⟨st world, hdrOf (.integRemap 0 0 0), 0, 0, 0, taken_st (by decide +kernel) _ (by decide +kernel), by decide +kernel⟩⟩

theorem witness_TrustCommandsComplete :
    (∃ (s : State) (h : CmdHdr) (clear : Bool), Taken s h (.trustQuery clear))
    ∧ (∃ (s : State) (h : CmdHdr), Taken s h (.trustIdentity))
    ∧ (∃ (s : State) (h : CmdHdr) (nonce : Nat), Taken s h (.trustAttest nonce))
    ∧ (∃ (s : State) (h : CmdHdr), Taken s h (.trustImportKey))
    ∧ (∃ (s : State) (h : CmdHdr), Taken s h (.trustBootSeal))
    ∧ (∃ (s : State) (h : CmdHdr) (list : KeyList), Taken s h (.trustKeylistLoad list) ∧ (s.start.fold.debugUnlocked = false ∧ s.start.fold.keylist =
      none ∧ s.start.fold.boot.otpInForce.isSome = true ∧ keylistHash list = (otpRules s.start).keylistHash ∧ keylistOk list = true))
    ∧ (∃ (s : State) (h : CmdHdr) (offset : Nat) (sigOk : Bool), Taken s h (.trustFwVerify offset (imageAt s.mem offset sigOk)))
    ∧ (∃ (s : State) (h : CmdHdr) (cipher : List Byte) (transportKey : Option Nat) (k : _) (n : _), Taken s h (.trustSessionOpen cipher transportKey) ∧
      (s.start.fold.debugUnlocked = false ∧ transportKey = some k ∧ tfree s.start.fold.sessions 0 16 = some n))
    ∧ (∃ (s : State) (h : CmdHdr) (session : Nat), Taken s h (.trustSessionClose session) ∧ thas s.start.fold.sessions session = true)
    ∧ (∃ (s : State) (h : CmdHdr) (session : Nat) (wrapped : List Byte) (secret : List Byte) (n : _), Taken s h (.trustBaseImport session wrapped
      secret) ∧ (thas s.start.fold.sessions session = true ∧ s.start.fold.debugUnlocked = false ∧ unwraps s.start session wrapped secret = true ∧ 32 ≤
      secret.length ∧ secret.length ≤ 64 ∧ tfree s.start.fold.bases 0 256 = some n))
    ∧ (∃ (s : State) (h : CmdHdr) (base : Nat), Taken s h (.trustBaseDestroy base) ∧ thas s.start.fold.bases base = true)
    ∧ (∃ (s : State) (h : CmdHdr) (src : SaSource) (n : _) (session : _) (wrapped : _) (plain : _), Taken s h (.saCreate src) ∧
      (s.start.fold.debugUnlocked = false ∧ src = .imported session wrapped plain ∧ unwraps s.start session wrapped plain = true ∧ thas
      s.start.fold.sessions session = true ∧ saRecordOk (parseSa plain).1 = true ∧ tfree s.start.fold.sas 0 24576 = some n))
    ∧ (∃ (s : State) (h : CmdHdr) (src : SaSource) (secret : _) (n : _) (base : _) (label : _) (rcd : _), Taken s h (.saCreate src) ∧
      (s.start.fold.debugUnlocked = false ∧ src = .derived base label rcd ∧ tget s.start.fold.bases base = some secret ∧ 0x10 ≤ label.purpose ∧
      label.version = 1 ∧ 16 ≤ label.outLen ∧ label.outLen ≤ 64 ∧ saRecordOk rcd = true ∧ tfree s.start.fold.sas 0 24576 = some n))
    ∧ (∃ (s : State) (h : CmdHdr) (handle : Nat) (a : _), Taken s h (.saDestroy handle) ∧ (saOf s.start handle = some a ∧ saBound a = false))
    ∧ (∃ (s : State) (h : CmdHdr) (handle : Nat) (a : _), Taken s h (.saQuery handle) ∧ saOf s.start handle = some a)
    ∧ (∃ (s : State) (h : CmdHdr) (program : Nat) (img : _) (k : _) (old : _), Taken s h (.trustRollbackCommit program) ∧ ((runningImages
      s.start).find? (fun i => i.programId == program) = some img ∧ rollbackFind s.start program = some (k, old) ∧ min img.rollback 255 ≤ old))
    ∧ (∃ (s : State) (h : CmdHdr) (program : Nat) (img : _) (k : _) (old : _), Taken s h (.trustRollbackCommit program) ∧ ((runningImages
      s.start).find? (fun i => i.programId == program) = some img ∧ rollbackFind s.start program = some (k, old) ∧ old < min img.rollback 255))
    ∧ (∃ (s : State) (h : CmdHdr) (program : Nat) (img : _) (k : _), Taken s h (.trustRollbackCommit program) ∧ ((runningImages s.start).find? (fun i
      => i.programId == program) = some img ∧ rollbackFind s.start program = none ∧ tfree s.start.fold.otp.rollback 2 30 = some k))
    ∧ (∃ (s : State) (h : CmdHdr) (fields : OtpFields) (zeroOk : Bool) (k : _), Taken s h (.trustOtpCommit fields zeroOk) ∧ (fields.rootEpoch =
      (otpRules s.start).rootEpoch ∧ (fields.jumper = true → (otpRules s.start).jumper = true) ∧ (fields.debug = true → (otpRules s.start).debug =
      true) ∧ zeroOk = true ∧ s.start.fold.otp.job = none ∧ otpFreeSlot s.start = some k))
    ∧ (∃ (s : State) (h : CmdHdr) (k : _), Taken s h (.trustRootRotate) ∧ (s.start.fold.otp.job = none ∧ (otpRules s.start).rootEpoch < 15 ∧
      otpFreeSlot s.start = some k))
    ∧ (∃ (s : State) (h : CmdHdr), Taken s h (.trustDebugUnlock) ∧ (otpRules s.start).debug = true)
    ∧ (∃ (s : State) (h : CmdHdr), Taken s h (.trustPresenceClose))
    ∧ (∃ (s : State) (h : CmdHdr), Taken s h .trustFactoryReset) :=
  ⟨⟨st world, hdrOf (.trustQuery false), false, taken_st (by decide +kernel) _ (by decide +kernel)⟩,
    ⟨st world, hdrOf (.trustIdentity), taken_st (by decide +kernel) _ (by decide +kernel)⟩,
    ⟨st world, hdrOf (.trustAttest 0), 0, taken_st (by decide +kernel) _ (by decide +kernel)⟩,
    ⟨st world, hdrOf (.trustImportKey), taken_st (by decide +kernel) _ (by decide +kernel)⟩,
    ⟨st world, hdrOf (.trustBootSeal), taken_st (by decide +kernel) _ (by decide +kernel)⟩,
    ⟨st (onBoot world fun b => { b with otpInForce := some { otp0 with keylistHash := keylistHash { keys := [(1, 7)] } } }), hdrOf
      (.trustKeylistLoad ({ keys := [(1, 7)] })), { keys := [(1, 7)] }, taken_st (by decide +kernel) _ (by decide +kernel), ⟨by decide +kernel, by
      decide +kernel, by decide +kernel, rfl, by decide +kernel⟩⟩,
    ⟨st world, hdrOf (.trustFwVerify 0 (imageAt (st world).mem 0 false)), 0, false, taken_st (by decide +kernel) _ (by decide +kernel)⟩,
    ⟨st world, hdrOf (.trustSessionOpen ([]) (some 5)), [], some 5, ((some 5)).get (by decide +kernel), (tfree (st world).start.fold.sessions 0
      16).get (by decide +kernel), taken_st (by decide +kernel) _ (by decide +kernel), by decide +kernel⟩,
    ⟨st full, hdrOf (.trustSessionClose 0), 0, taken_st (by decide +kernel) _ (by decide +kernel), by decide +kernel⟩,
    ⟨st full, hdrOf (.trustBaseImport 0 (wrapBytes 7 (List.replicate 32 1)) (List.replicate 32 1)), 0, wrapBytes 7 (List.replicate 32 1),
      List.replicate 32 1, (tfree (st full).start.fold.bases 0 256).get (by decide +kernel), taken_st (by decide +kernel) _ (by decide +kernel), ⟨by
      decide +kernel, by decide +kernel, beq_self_eq_true _, by decide +kernel, by decide +kernel, by decide +kernel⟩⟩,
    ⟨st full, hdrOf (.trustBaseDestroy 0), 0, taken_st (by decide +kernel) _ (by decide +kernel), by decide +kernel⟩,
    ⟨st full, hdrOf (.saCreate (.imported 0 (wrapBytes 7 saPlain) saPlain)), .imported 0 (wrapBytes 7 saPlain) saPlain, (tfree (st
      full).start.fold.sas 0 24576).get (by decide +kernel), 0, wrapBytes 7 saPlain, saPlain, taken_st (by decide +kernel) _ (by decide +kernel), ⟨by
      decide +kernel, rfl, beq_self_eq_true _, by decide +kernel, by decide +kernel, by decide +kernel⟩⟩,
    ⟨st full, hdrOf (.saCreate (.derived 0 { purpose := 0x10, version := 1, outLen := 16, generation := 0, object := 0, caller := 0 } sa0)),
      .derived 0 { purpose := 0x10, version := 1, outLen := 16, generation := 0, object := 0, caller := 0 } sa0, (tget (st full).start.fold.bases
      0).get (by decide +kernel), (tfree (st full).start.fold.sas 0 24576).get (by decide +kernel), 0,
      { purpose := 0x10, version := 1, outLen := 16, generation := 0, object := 0, caller := 0 }, sa0, taken_st (by decide +kernel) _
      (by decide +kernel), by decide +kernel⟩,
    ⟨st full, hdrOf (.saDestroy 0), 0, (saOf (st full).start 0).get (by decide +kernel), taken_st (by decide +kernel) _ (by decide +kernel), by
      decide +kernel⟩,
    ⟨st full, hdrOf (.saQuery 0), 0, (saOf (st full).start 0).get (by decide +kernel), taken_st (by decide +kernel) _ (by decide +kernel), by
      decide +kernel⟩,
    ⟨st (onOtp (onBoot world fun b => { b with runFold := some img0 }) fun o => { o with rollback := [(2, (1, 3))] }), hdrOf (.trustRollbackCommit
      1), 1, ((runningImages (st (onOtp (onBoot world fun b => { b with runFold := some img0 }) fun o =>
      { o with rollback := [(2, (1, 3))] })).start).find? (fun i => i.programId == 1)).get (by decide +kernel), ((rollbackFind (st (onOtp (onBoot
      world fun b => { b with runFold := some img0 }) fun o => { o with rollback := [(2, (1, 3))] })).start 1).get (by decide +kernel)).1,
      ((rollbackFind (st (onOtp (onBoot world fun b => { b with runFold := some img0 }) fun o => { o with rollback := [(2, (1, 3))] })).start 1).get
      (by decide +kernel)).2, taken_st (by decide +kernel) _ (by decide +kernel), by decide +kernel⟩,
    ⟨st (onOtp (onBoot world fun b => { b with runFold := some { img0 with rollback := 9 } }) fun o => { o with rollback := [(2, (1, 3))] }), hdrOf
      (.trustRollbackCommit 1), 1, ((runningImages (st (onOtp (onBoot world fun b => { b with runFold := some { img0 with rollback := 9 } }) fun o =>
      { o with rollback := [(2, (1, 3))] })).start).find? (fun i => i.programId == 1)).get (by decide +kernel), ((rollbackFind (st (onOtp (onBoot
      world fun b => { b with runFold := some { img0 with rollback := 9 } }) fun o => { o with rollback := [(2, (1, 3))] })).start 1).get
      (by decide +kernel)).1, ((rollbackFind (st (onOtp (onBoot world fun b => { b with runFold := some { img0 with rollback := 9 } }) fun o =>
      { o with rollback := [(2, (1, 3))] })).start 1).get (by decide +kernel)).2, taken_st (by decide +kernel) _ (by decide +kernel), by
      decide +kernel⟩,
    ⟨st (onBoot world fun b => { b with runFold := some { img0 with rollback := 9 } }), hdrOf (.trustRollbackCommit 1), 1, ((runningImages (st
      (onBoot world fun b => { b with runFold := some { img0 with rollback := 9 } })).start).find? (fun i => i.programId == 1)).get
      (by decide +kernel), (tfree (st (onBoot world fun b => { b with runFold := some { img0 with rollback := 9 } })).start.fold.otp.rollback 2
      30).get (by decide +kernel), taken_st (by decide +kernel) _ (by decide +kernel), by decide +kernel⟩,
    ⟨st world, hdrOf (.trustOtpCommit otp0 true), otp0, true, (otpFreeSlot (st world).start).get (by decide +kernel), taken_st (by decide +kernel) _
      (by decide +kernel), by decide +kernel⟩,
    ⟨st world, hdrOf (.trustRootRotate), (otpFreeSlot (st world).start).get (by decide +kernel), taken_st (by decide +kernel) _ (by decide +kernel),
      by decide +kernel⟩,
    ⟨st world, hdrOf (.trustDebugUnlock), taken_st (by decide +kernel) _ (by decide +kernel), by decide +kernel⟩,
    ⟨st world, hdrOf (.trustPresenceClose), taken_st (by decide +kernel) _ (by decide +kernel)⟩,
    ⟨st world, hdrOf (.trustFactoryReset), taken_st (by decide +kernel) _ (by decide +kernel)⟩⟩

theorem witness_CascadeAndPowerCommandsComplete :
    (∃ (s : State) (h : CmdHdr) (domain : Nat) (device : Nat) (ports : Nat) (base : Nat) (gen : Nat), Taken s h (.cascConfig domain device ports base
      gen) ∧ (device ≤ 15 ∧ ports ≤ 3 ∧ thas s.view.fold.bases base = true ∧ (domain = s.view.casc.domain ∧ device = s.view.casc.device ∨ cascUp
      s.view 0 = false ∧ cascUp s.view 1 = false) ∧ (getField ports 0 1 = 1 → domOn s.view 11 = true) ∧ (getField ports 1 1 = 1 → domOn s.view 12 =
      true)))
    ∧ (∃ (s : State) (h : CmdHdr), Taken s h (.cascQuery))
    ∧ (∃ (s : State) (h : CmdHdr) (tag : Nat) (home : Nat), Taken s h (.cascConfBind tag home) ∧ home ≤ 15)
    ∧ (∃ (s : State) (h : CmdHdr) (twin : Nat), Taken s h (.cascTwinSet twin) ∧ ((twin ≤ 15 ∨ twin = 0xFF) ∧ twin ≠ s.view.casc.device))
    ∧ (∃ (s : State) (h : CmdHdr), Taken s h (.cascTakeover) ∧ (s.view.casc.twin.isSome = true ∧ s.start.casc.partnerHeard = false))
    ∧ (∃ (s : State) (h : CmdHdr) (handle : Nat) (other : Nat), Taken s h (.cascSaPair handle other) ∧ (thas s.view.fold.sas handle = true ∧ other <
      24576))
    ∧ (∃ (s : State) (h : CmdHdr) (slot : Nat) (shared : Bool) (i : _), Taken s h (.ctrlFwSwap slot shared) ∧ (slot ≤ 1 ∧ slot ≠
      s.view.fold.boot.ctrlSlot ∧ tget s.view.fold.boot.store (6 + slot) = some i ∧ firmwareOk s.view 3 i false = none ∧ shared = true ∧ (∀ x ∈
      s.view.flock.groups, x.2.update = none) ∧ s.view.pwr.phase = .steady ∧ s.view.pwr.seasonCtx = none ∧ s.view.aux.swapState ≠ 1))
    ∧ (∃ (s : State) (h : CmdHdr) (season : Nat), Taken s h (.pwrSeason season) ∧ (season ≤ 1 ∧ pwrBusy s.view = false ∧ s.view.pwr.seasonCtx = none))
    ∧ (∃ (s : State) (h : CmdHdr) (banks : Nat) (keep : Nat) (thaw : Nat) (linkWait : Nat), Taken s h (.pwrWinter banks keep thaw linkWait) ∧
      (winterBusy s.view = false ∧ getField banks 0 4 = 15 ∧ banks < 2 ^ 32 ∧ keep ≤ 3 ∧ thaw ≤ 1 ∧ 100 ≤ linkWait ∧ linkWait ≤ 10000 ∧ canWake s.view
      = true ∧ banksNeeded s.view ≤ bitCount banks))
    ∧ (∃ (s : State) (h : CmdHdr) (domain : Nat) (on : Nat), Taken s h (.pwrDomainSet domain on) ∧ (domain ≤ 39 ∧ hostDomain domain = true ∧ pwrBusy
      s.view = false ∧ on = 0 ∧ domState s.view domain = .off))
    ∧ (∃ (s : State) (h : CmdHdr) (domain : Nat) (on : Nat), Taken s h (.pwrDomainSet domain on) ∧ (domain ≤ 39 ∧ hostDomain domain = true ∧ pwrBusy
      s.view = false ∧ on = 0 ∧ domState s.view domain = .on ∧ domBusy s.view domain = false ∧ (domain = 9 → ∀ k ∈ [4, 5, 6, 7], domOn s.view k =
      false)))
    ∧ (∃ (s : State) (h : CmdHdr) (domain : Nat) (on : Nat), Taken s h (.pwrDomainSet domain on) ∧ (domain ≤ 39 ∧ hostDomain domain = true ∧ pwrBusy
      s.view = false ∧ on = 0 ∧ domState s.view domain = .shuttingDown))
    ∧ (∃ (s : State) (h : CmdHdr) (domain : Nat) (on : Nat), Taken s h (.pwrDomainSet domain on) ∧ (domain ≤ 39 ∧ hostDomain domain = true ∧ pwrBusy
      s.view = false ∧ on = 1 ∧ domState s.start domain ≠ .shuttingDown))
    ∧ (∃ (s : State) (h : CmdHdr) (domain : Nat) (on : Nat), Taken s h (.pwrDomainSet domain on) ∧ (domain ≤ 39 ∧ hostDomain domain = true ∧ pwrBusy
      s.view = false ∧ on = 1 ∧ domState s.start domain = .shuttingDown))
    ∧ (∃ (s : State) (h : CmdHdr) (value : Nat) (enable : Nat), Taken s h (.pwrAlarmSet value enable) ∧ (value < 2 ^ 48 ∧ enable ≤ 1))
    ∧ (∃ (s : State) (h : CmdHdr) (minGroups : Nat) (high : Nat) (low : Nat) (flags : Nat), Taken s h (.pwrAutumnConfig minGroups high low flags) ∧ (1
      ≤ minGroups ∧ minGroups ≤ 16 ∧ low < high ∧ high ≤ 100 ∧ flags ≤ 1))
    ∧ (∃ (s : State) (h : CmdHdr), Taken s h (.pwrQuery)) :=
  ⟨⟨st full, hdrOf (.cascConfig 0 0 3 0 0), 0, 0, 3, 0, 0, taken_st (by decide +kernel) _ (by decide +kernel), by decide +kernel⟩,
    ⟨st world, hdrOf (.cascQuery), taken_st (by decide +kernel) _ (by decide +kernel)⟩,
    ⟨st world, hdrOf (.cascConfBind 0 0), 0, 0, taken_st (by decide +kernel) _ (by decide +kernel), by decide +kernel⟩,
    ⟨st world, hdrOf (.cascTwinSet 5), 5, taken_st (by decide +kernel) _ (by decide +kernel), by decide +kernel⟩,
    ⟨st (onCasc world fun c => { c with twin := some 1 }), hdrOf (.cascTakeover), taken_st (by decide +kernel) _ (by decide +kernel), by
      decide +kernel⟩,
    ⟨st full, hdrOf (.cascSaPair 0 0), 0, 0, taken_st (by decide +kernel) _ (by decide +kernel), by decide +kernel⟩,
    ⟨st (onBoot world fun b => { b with store := [(7, { img0 with kind := 3 })] }), hdrOf (.ctrlFwSwap 1 true), 1, true, (tget (st (onBoot world fun
      b => { b with store := [(7, { img0 with kind := 3 })] })).view.fold.boot.store (6 + 1)).get (by decide +kernel), taken_st (by decide +kernel) _
      (by decide +kernel), by decide +kernel⟩,
    ⟨st world, hdrOf (.pwrSeason 0), 0, taken_st (by decide +kernel) _ (by decide +kernel), by decide +kernel⟩,
    ⟨st (onPwr world fun p => { p with alarm := 1000, alarmEn := true }), hdrOf (.pwrWinter 0xFFFFFFFF 0 0 100), 0xFFFFFFFF, 0, 0, 100, taken_st
      (by decide +kernel) _ (by decide +kernel), ⟨by decide +kernel, by decide, by decide, by decide, by decide, by decide, by decide, by
      decide +kernel, (by show 4 + _ % 29 ≤ 32; omega)⟩⟩,
    ⟨st (setDom world 9 .off), hdrOf (.pwrDomainSet 9 0), 9, 0, taken_st (by decide +kernel) _ (by decide +kernel), by decide +kernel⟩,
    ⟨st (setDom (setDom (setDom (setDom world 4 .off) 5 .off) 6 .off) 7 .off), hdrOf (.pwrDomainSet 9 0), 9, 0, taken_st (by decide +kernel) _
      (by decide +kernel), by decide +kernel⟩,
    ⟨st (setDom world 9 .shuttingDown), hdrOf (.pwrDomainSet 9 0), 9, 0, taken_st (by decide +kernel) _ (by decide +kernel), by decide +kernel⟩,
    ⟨st world, hdrOf (.pwrDomainSet 9 1), 9, 1, taken_st (by decide +kernel) _ (by decide +kernel), by decide +kernel⟩,
    ⟨st (setDom world 9 .shuttingDown), hdrOf (.pwrDomainSet 9 1), 9, 1, taken_st (by decide +kernel) _ (by decide +kernel), by decide +kernel⟩,
    ⟨st world, hdrOf (.pwrAlarmSet 0 0), 0, 0, taken_st (by decide +kernel) _ (by decide +kernel), by decide +kernel⟩,
    ⟨st world, hdrOf (.pwrAutumnConfig 1 20 10 0), 1, 20, 10, 0, taken_st (by decide +kernel) _ (by decide +kernel), by decide +kernel⟩,
    ⟨st world, hdrOf (.pwrQuery), taken_st (by decide +kernel) _ (by decide +kernel)⟩⟩

theorem witness_BellEffectsOfTimeAndPower :
    (∃ (d : Dev) (z : Staged) (pick : Nat) (action : Nat) (v : _), z.change = .kervon (.timeOffsetConfirm action) pick ∧ (d.bell.err.todPend = some v
      ∧ action = 0))
    ∧ (∃ (d : Dev) (z : Staged) (pick : Nat) (action : Nat) (v : _), z.change = .kervon (.timeOffsetConfirm action) pick ∧ (d.bell.err.todPend = some v
      ∧ action = 1))
    ∧ (∃ (d : Dev) (z : Staged) (pick : Nat) (cfg : TimeCfg), z.change = .kervon (.timeConfig cfg) pick ∧ d.bell.succ.rank = cfg.succRank)
    ∧ (∃ (z : Staged) (pick : Nat) (allots : List Nat), z.change = .kervon (.pastureAllotSet allots) pick ∧ allots.length = 24)
    ∧ (∃ (d : Dev) (z : Staged) (pick : Nat) (allots : List Nat), z.change = .kervon (.pastureAllotSet allots) pick ∧ (allots.length = 24 ∧ (∃ k, k <
      24 ∧ allotOf d k ≠ allots.getD k 0) ∧ (∀ k, (pastClass d k).waiting = 0 ∧ (pastClass d k).used = 0)))
    ∧ (∃ (z : Staged) (pick : Nat) (ring : Nat) (enable : Bool), z.change = .kervon (.hostPktConfig ring enable) pick ∧ (ring ≤ 3 ∧ enable = true))
    ∧ (∃ (d : Dev) (z : Staged) (pick : Nat) (stack : Nat) (offset : Nat) (thr : Nat), z.change = .kervon (.integRemap stack offset thr) pick ∧
      (rowMapped d stack (offset % 0x400000000 / 1024) = false ∧ thr = 0 ∧ ((stackOf d stack).cands.any (fun c => c.1 == offset % 0x400000000 / 1024))
      = false ∧ (stackOf d stack).copying.contains (offset % 0x400000000 / 1024) = false))
    ∧ (∃ (z : Staged) (pick : Nat) (twin : Nat), z.change = .kervon (.cascTwinSet twin) pick ∧ twin = 0xFF)
    ∧ (∃ (d : Dev) (z : Staged) (pick : Nat), z.change = .kervon .cascTakeover pick ∧ d.casc.twinSt = .tookOver)
    ∧ (∃ (d : Dev) (z : Staged) (pick : Nat), z.change = .kervon .cascTakeover pick ∧ d.casc.twinSt ≠ .tookOver)
    ∧ (∃ (d : Dev) (z : Staged) (pick : Nat) (domain : Nat) (device : Nat) (ports : Nat) (base : Nat) (gen : Nat), z.change = .kervon (.cascConfig
      domain device ports base gen) pick ∧ (ports = 3 ∧ (cascPort d 0).st = .down ∧ (cascPort d 1).st = .down))
    ∧ (∃ (z : Staged) (pick : Nat) (domain : Nat) (device : Nat) (ports : Nat) (base : Nat) (gen : Nat), z.change = .kervon (.cascConfig domain device
      ports base gen) pick ∧ ports = 0)
    ∧ (∃ (d : Dev) (z : Staged) (pick : Nat) (season : Nat), z.change = .kervon (.pwrSeason season) pick ∧ (season = 1 ∧ d.pwr.season = .autumn))
    ∧ (∃ (d : Dev) (z : Staged) (pick : Nat) (season : Nat), z.change = .kervon (.pwrSeason season) pick ∧ (season = 1 ∧ d.pwr.season ≠ .autumn))
    ∧ (∃ (d : Dev) (z : Staged) (pick : Nat) (season : Nat), z.change = .kervon (.pwrSeason season) pick ∧ (season = 0 ∧ d.pwr.season = .summer))
    ∧ (∃ (d : Dev) (z : Staged) (pick : Nat) (domain : Nat) (on_ : Nat), z.change = .kervon (.pwrDomainSet domain on_) pick ∧ (on_ = 0 ∧ domState d
      domain = .off))
    ∧ (∃ (d : Dev) (z : Staged) (pick : Nat) (domain : Nat) (on_ : Nat), z.change = .kervon (.pwrDomainSet domain on_) pick ∧ (on_ = 0 ∧ domain ≤ 39 ∧
      domState d domain = .on))
    ∧ (∃ (d : Dev) (z : Staged) (pick : Nat) (domain : Nat) (on_ : Nat), z.change = .kervon (.pwrDomainSet domain on_) pick ∧ (on_ = 1 ∧ domain ≤ 39 ∧
      domState d domain = .on ∧ dependsOn domain = none))
    ∧ (∃ (d : Dev) (z : Staged) (pick : Nat) (slot : Nat) (shared : Bool) (i : _), z.change = .kervon (.ctrlFwSwap slot shared) pick ∧ tget
      d.fold.boot.store (6 + slot) = some i)
    ∧ (∃ (d : Dev) (z : Staged) (pick : Nat) (lane : Nat), z.change = .kervon (.laneRecal lane) pick ∧ laneOn d lane = true)
    ∧ (∃ (d : Dev) (z : Staged) (pick : Nat) (lane : Nat), z.change = .kervon (.laneRecal lane) pick ∧ laneOn d lane = false)
    ∧ (∃ (z : Staged) (pick : Nat) (group : Nat) (lane : Nat) (action : Nat), z.change = .kervon (.laneSpare group lane action) pick ∧ group ≠ 0)
    ∧ (∃ (z : Staged) (pick : Nat) (group : Nat) (lane : Nat) (action : Nat), z.change = .kervon (.laneSpare group lane action) pick ∧ (group = 0 ∧
      action = 0 ∧ lane < 4))
    ∧ (∃ (z : Staged) (pick : Nat) (mask : Nat) (request : Bool), z.change = .kervon (.accBondConfig mask request) pick ∧ (request = false ∧ mask = 15))
    ∧ (∃ (z : Staged) (pick : Nat) (cfg : AccCfg), z.change = .kervon (.accConfig cfg) pick ∧ cfg.native = true)
    ∧ (∃ (z : Staged) (pick : Nat) (cfg : AccCfg), z.change = .kervon (.accConfig cfg) pick ∧ cfg.native = false)
    ∧ (∃ (d : Dev) (z : Staged) (pick : Nat) (mask : Nat) (stopHeld : Bool) (n : _), z.change = .kervon (.accEnable mask stopHeld) pick ∧ (n < 4 ∧ mask
      = 2 ^ n ∧ (sliceOf d n).st = .disabled ∧ stopHeld = false ∧ (sliceOf d n).stopHeld = false))
    ∧ (∃ (d : Dev) (z : Staged) (pick : Nat) (mask : Nat) (stopHeld : Bool) (n : _), z.change = .kervon (.accEnable mask stopHeld) pick ∧ (n < 4 ∧ mask
      = 2 ^ n ∧ (sliceOf d n).st = .disabled ∧ stopHeld = true))
    ∧ (∃ (d : Dev) (z : Staged) (pick : Nat) (slice : Nat), z.change = .kervon (.accKillRelease slice) pick ∧ ((sliceOf d slice).st = .killed ∧
      (sliceOf d slice).stopHeld = false))
    ∧ (∃ (d : Dev) (z : Staged) (pick : Nat) (slice : Nat), z.change = .kervon (.accKillRelease slice) pick ∧ (sliceOf d slice).st ≠ .killed) :=
  ⟨⟨onErr world fun e => { e with todPend := some 5 }, { stg with change := .kervon (.timeOffsetConfirm 0) 0 }, 0, 0, ((onErr world fun e =>
      { e with todPend := some 5 }).bell.err.todPend).get (by decide +kernel), rfl, by decide +kernel⟩,
    ⟨onErr world fun e => { e with todPend := some 5 }, { stg with change := .kervon (.timeOffsetConfirm 1) 0 }, 0, 1, ((onErr world fun e =>
      { e with todPend := some 5 }).bell.err.todPend).get (by decide +kernel), rfl, by decide +kernel⟩,
    ⟨world, { stg with change := .kervon (.timeConfig time0) 0 }, 0, time0, rfl, by decide +kernel⟩,
    ⟨{ stg with change := .kervon (.pastureAllotSet (List.replicate 24 100000)) 0 }, 0, List.replicate 24 100000, rfl, by decide +kernel⟩,
    ⟨world, { stg with change := .kervon (.pastureAllotSet (List.replicate 24 1)) 0 }, 0, List.replicate 24 1, rfl, ⟨by decide +kernel, ⟨0, by
      decide +kernel, by decide +kernel⟩, fun k => ⟨rfl, rfl⟩⟩⟩,
    ⟨{ stg with change := .kervon (.hostPktConfig 0 true) 0 }, 0, 0, true, rfl, by decide +kernel⟩,
    ⟨world, { stg with change := .kervon (.integRemap 0 0 0) 0 }, 0, 0, 0, 0, rfl, by decide +kernel⟩,
    ⟨{ stg with change := .kervon (.cascTwinSet 0xFF) 0 }, 0, 0xFF, rfl, by decide +kernel⟩,
    ⟨onCasc world fun c => { c with twinSt := .tookOver }, { stg with change := .kervon .cascTakeover 0 }, 0, rfl, by decide +kernel⟩,
    ⟨world, { stg with change := .kervon .cascTakeover 0 }, 0, rfl, by decide +kernel⟩,
    ⟨world, { stg with change := .kervon (.cascConfig 0 0 3 0 0) 0 }, 0, 0, 0, 3, 0, 0, rfl, by decide +kernel⟩,
    ⟨{ stg with change := .kervon (.cascConfig 0 0 0 0 0) 0 }, 0, 0, 0, 0, 0, 0, rfl, by decide +kernel⟩,
    ⟨onPwr world fun p => { p with season := .autumn }, { stg with change := .kervon (.pwrSeason 1) 0 }, 0, 1, rfl, by decide +kernel⟩,
    ⟨world, { stg with change := .kervon (.pwrSeason 1) 0 }, 0, 1, rfl, by decide +kernel⟩,
    ⟨world, { stg with change := .kervon (.pwrSeason 0) 0 }, 0, 0, rfl, by decide +kernel⟩,
    ⟨setDom world 9 .off, { stg with change := .kervon (.pwrDomainSet 9 0) 0 }, 0, 9, 0, rfl, by decide +kernel⟩,
    ⟨world, { stg with change := .kervon (.pwrDomainSet 0 0) 0 }, 0, 0, 0, rfl, by decide +kernel⟩,
    ⟨world, { stg with change := .kervon (.pwrDomainSet 0 1) 0 }, 0, 0, 1, rfl, by decide +kernel⟩,
    ⟨onBoot world fun b => { b with store := [(6, img0)] }, { stg with change := .kervon (.ctrlFwSwap 0 false) 0 }, 0, 0, false, (tget (onBoot world
      fun b => { b with store := [(6, img0)] }).fold.boot.store (6 + 0)).get (by decide +kernel), rfl, by decide +kernel⟩,
    ⟨onLane world 0 fun l => { l with ctrl := 7 }, { stg with change := .kervon (.laneRecal 0) 0 }, 0, 0, rfl, by decide +kernel⟩,
    ⟨world, { stg with change := .kervon (.laneRecal 0) 0 }, 0, 0, rfl, by decide +kernel⟩,
    ⟨{ stg with change := .kervon (.laneSpare 1 0 0) 0 }, 0, 1, 0, 0, rfl, by decide +kernel⟩,
    ⟨{ stg with change := .kervon (.laneSpare 0 0 0) 0 }, 0, 0, 0, 0, rfl, by decide +kernel⟩,
    ⟨{ stg with change := .kervon (.accBondConfig 15 false) 0 }, 0, 15, false, rfl, by decide +kernel⟩,
    ⟨{ stg with change := .kervon (.accConfig acc0) 0 }, 0, acc0, rfl, by decide +kernel⟩,
    ⟨{ stg with change := .kervon (.accConfig ({ acc0 with native := false })) 0 }, 0, { acc0 with native := false }, rfl, by decide +kernel⟩,
    ⟨world, { stg with change := .kervon (.accEnable (2 ^ 0) false) 0 }, 0, 2 ^ 0, false, 0, rfl, by decide +kernel⟩,
    ⟨world, { stg with change := .kervon (.accEnable (2 ^ 0) true) 0 }, 0, 2 ^ 0, true, 0, rfl, by decide +kernel⟩,
    ⟨onSlice world 0 fun x => { x with st := .killed }, { stg with change := .kervon (.accKillRelease 0) 0 }, 0, 0, rfl, by decide +kernel⟩,
    ⟨world, { stg with change := .kervon (.accKillRelease 0) 0 }, 0, 0, rfl, by decide +kernel⟩⟩

theorem witness_BellEffectsOfPorts :
    (∃ (d : Dev) (z : Staged) (pick : Nat) (port : Nat) (att : Nat), z.change = .kervon (.cliPath port att) pick ∧ (portOf d port).path = att)
    ∧ (∃ (d : Dev) (z : Staged) (pick : Nat) (port : Nat) (att : Nat), z.change = .kervon (.cliPath port att) pick ∧ (portOf d port).path ≠ att)
    ∧ (∃ (z : Staged) (pick : Nat) (port : Nat) (dir : Nat) (sci : Nat) (an : Nat) (handle : Nat), z.change = .kervon (.cliMacsecSa port dir sci an
      handle) pick ∧ (handle = 0xFFFF ∧ dir = 1))
    ∧ (∃ (z : Staged) (pick : Nat) (port : Nat) (dir : Nat) (sci : Nat) (an : Nat) (handle : Nat), z.change = .kervon (.cliMacsecSa port dir sci an
      handle) pick ∧ (handle ≠ 0xFFFF ∧ dir = 1))
    ∧ (∃ (d : Dev) (z : Staged) (pick : Nat) (port : Nat) (f : PortFields), z.change = .kervon (.cliPortConfig port f) pick ∧ (port < 4 ∧ f.enable =
      true ∧ d.pwr.season ≠ .autumn))
    ∧ (∃ (d : Dev) (z : Staged) (pick : Nat) (port : Nat) (f : PortFields), z.change = .kervon (.cliPortConfig port f) pick ∧ (port ≤ 4 ∧ f.enable =
      false ∧ d.pwr.season ≠ .autumn))
    ∧ (∃ (z : Staged) (pick : Nat) (profile : Nat) (fields : Nat) (seed : Word), z.change = .kervon (.parseHashProfileSet profile fields seed) pick ∧
      profile ≤ 7)
    ∧ (∃ (z : Staged) (pick : Nat) (profile : Nat) (fields : Nat) (seed : Word), z.change = .kervon (.parseHashProfileSet profile fields seed) pick ∧
      (7 < profile ∧ fields < 512))
    ∧ (∃ (z : Staged) (pick : Nat) (profile : Nat) (first : Nat) (entries : List Nat), z.change = .kervon (.parseHashTableSet profile first entries)
      pick ∧ (first + entries.length ≤ 512 ∧ profile ≤ 63))
    ∧ (∃ (z : Staged) (pick : Nat) (group : Nat) (root : Nat) (band : Nat) (quantum : Nat) (create : Bool), z.change = .kervon (.tmGroupSet group root
      band quantum create) pick ∧ create = true)
    ∧ (∃ (z : Staged) (pick : Nat) (group : Nat) (root : Nat) (band : Nat) (quantum : Nat) (create : Bool), z.change = .kervon (.tmGroupSet group root
      band quantum create) pick ∧ create = false)
    ∧ (∃ (z : Staged) (pick : Nat) (level : Nat) (number : Nat) (enable : Bool) (rate : Nat) (burst : Nat), z.change = .kervon (.tmShaperSet level
      number enable rate burst) pick ∧ level = 0)
    ∧ (∃ (z : Staged) (pick : Nat) (level : Nat) (number : Nat) (enable : Bool) (rate : Nat) (burst : Nat), z.change = .kervon (.tmShaperSet level
      number enable rate burst) pick ∧ level = 1)
    ∧ (∃ (z : Staged) (pick : Nat) (level : Nat) (number : Nat) (enable : Bool) (rate : Nat) (burst : Nat), z.change = .kervon (.tmShaperSet level
      number enable rate burst) pick ∧ level = 2)
    ∧ (∃ (d : Dev) (z : Staged) (pick : Nat) (meter : Nat) (f : MeterFields) (m : _), z.change = .kervon (.tmMeterSet meter f) pick ∧ tget d.tm.meters
      meter = some m)
    ∧ (∃ (z : Staged) (pick : Nat) (port : Nat) (cls : Nat) (meter : Nat), z.change = .kervon (.tmMeterMapSet port cls meter) pick ∧ meter = 0xFFFF)
    ∧ (∃ (z : Staged) (pick : Nat) (port : Nat) (cls : Nat) (meter : Nat), z.change = .kervon (.tmMeterMapSet port cls meter) pick ∧ meter ≠ 0xFFFF) :=
  ⟨⟨world, { stg with change := .kervon (.cliPath 0 0) 0 }, 0, 0, 0, rfl, by decide +kernel⟩,
    ⟨world, { stg with change := .kervon (.cliPath 0 1) 0 }, 0, 0, 1, rfl, by decide +kernel⟩,
    ⟨{ stg with change := .kervon (.cliMacsecSa 0 1 0 0 0xFFFF) 0 }, 0, 0, 1, 0, 0, 0xFFFF, rfl, by decide +kernel⟩,
    ⟨{ stg with change := .kervon (.cliMacsecSa 0 1 0 0 0) 0 }, 0, 0, 1, 0, 0, 0, rfl, by decide +kernel⟩,
    ⟨world, { stg with change := .kervon (.cliPortConfig 0 port0) 0 }, 0, 0, port0, rfl, by decide +kernel⟩,
    ⟨world, { stg with change := .kervon (.cliPortConfig 0 ({ port0 with enable := false })) 0 }, 0, 0, { port0 with enable := false }, rfl, by
      decide +kernel⟩,
    ⟨{ stg with change := .kervon (.parseHashProfileSet 0 0 0) 0 }, 0, 0, 0, 0, rfl, by decide +kernel⟩,
    ⟨{ stg with change := .kervon (.parseHashProfileSet 8 0 0) 0 }, 0, 8, 0, 0, rfl, by decide +kernel⟩,
    ⟨{ stg with change := .kervon (.parseHashTableSet 0 0 ([])) 0 }, 0, 0, 0, [], rfl, by decide +kernel⟩,
    ⟨{ stg with change := .kervon (.tmGroupSet 0 0 0 0 true) 0 }, 0, 0, 0, 0, 0, true, rfl, by decide +kernel⟩,
    ⟨{ stg with change := .kervon (.tmGroupSet 0 0 0 0 false) 0 }, 0, 0, 0, 0, 0, false, rfl, by decide +kernel⟩,
    ⟨{ stg with change := .kervon (.tmShaperSet 0 0 false 0 0) 0 }, 0, 0, 0, false, 0, 0, rfl, by decide +kernel⟩,
    ⟨{ stg with change := .kervon (.tmShaperSet 1 0 false 0 0) 0 }, 0, 1, 0, false, 0, 0, rfl, by decide +kernel⟩,
    ⟨{ stg with change := .kervon (.tmShaperSet 2 0 false 0 0) 0 }, 0, 2, 0, false, 0, 0, rfl, by decide +kernel⟩,
    ⟨onTm world fun t =>
      { t with meters := [(0, { mode := 0, yellowAct := 0, redAct := 0, c := Bucket.off, p := Bucket.off, green := 0, yellow := 0, red := 0, drop := 0 })] },
      { stg with change := .kervon (.tmMeterSet 0 meter0) 0 }, 0, 0, meter0, (tget (onTm world fun t =>
      { t with meters := [(0, { mode := 0, yellowAct := 0, redAct := 0, c := Bucket.off, p := Bucket.off, green := 0, yellow := 0, red := 0, drop := 0 })] }).tm.meters
      0).get (by decide +kernel), rfl, by decide +kernel⟩,
    ⟨{ stg with change := .kervon (.tmMeterMapSet 0 0 0xFFFF) 0 }, 0, 0, 0, 0xFFFF, rfl, by decide +kernel⟩,
    ⟨{ stg with change := .kervon (.tmMeterMapSet 0 0 0) 0 }, 0, 0, 0, 0, rfl, by decide +kernel⟩⟩

theorem witness_BellEffectsOfMedia :
    (∃ (d : Dev) (z : Staged) (pick : Nat) (rcd : ConfRec) (mask : Nat) (c : _) (m : _), z.change = .kervon (.confModify rcd mask) pick ∧ (confOf d
      rcd.id = some c ∧ c.mix = some m ∧ pick = m))
    ∧ (∃ (d : Dev) (z : Staged) (pick : Nat) (rcd : LegRec) (mask : Nat) (l : _), z.change = .kervon (.legModify rcd mask) pick ∧ (legOf d rcd.id =
      some l ∧ rcd.id = l.rcd.id))
    ∧ (∃ (d : Dev) (z : Staged) (pick : Nat) (leg : Nat) (saIn : Nat) (saOut : Nat) (l : _), z.change = .kervon (.legRekey leg saIn saOut) pick ∧
      (legOf d leg = some l ∧ saIn ≠ noSa ∧ saIn ≠ l.rcd.saIn ∧ saOut ≠ noSa ∧ l.rcd.saIn ≠ noSa))
    ∧ (∃ (d : Dev) (z : Staged) (pick : Nat) (leg : Nat) (target : Nat) (l : _), z.change = .kervon (.legMigrate leg target) pick ∧ (legOf d leg = some
      l ∧ pick ≠ l.home))
    ∧ (∃ (d : Dev) (z : Staged) (pick : Nat) (leg : Nat) (target : Nat) (l : _), z.change = .kervon (.legMigrate leg target) pick ∧ (legOf d leg = some
      l ∧ pick = l.home))
    ∧ (∃ (d : Dev) (z : Staged) (pick : Nat) (profile : Nat) (first : Nat) (engines : List Nat), z.change = .kervon (.placeSet profile first engines)
      pick ∧ (first + engines.length ≤ 512 ∧ profile ≤ 7 ∧ d.media.legs = []))
    ∧ (∃ (z : Staged) (pick : Nat) (offset : Nat) (enable : Bool), z.change = .kervon (.statusTableSet offset enable) pick ∧ enable = false)
    ∧ (∃ (d : Dev) (z : Staged) (pick : Nat) (offset : Nat) (enable : Bool) (n : _) (l : _), z.change = .kervon (.statusTableSet offset enable) pick ∧
      (enable = true ∧ d.media.legs = [(n, l)] ∧ l.snap ≠ []))
    ∧ (∃ (d : Dev) (z : Staged) (pick : Nat) (route : Nat) (live : Nat) (listen : Nat), z.change = .kervon (.consoleSet route live listen) pick ∧
      ((routeOf d route).map (·.listen)).getD 0 = listen)
    ∧ (∃ (d : Dev) (z : Staged) (pick : Nat) (route : Nat) (live : Nat) (listen : Nat), z.change = .kervon (.consoleSet route live listen) pick ∧
      ((routeOf d route).map (·.listen)).getD 0 ≠ listen)
    ∧ (∃ (d : Dev) (z : Staged) (pick : Nat) (rcd : RouteRec), z.change = .kervon (.routeSet rcd) pick ∧ routeOf d rcd.id = none)
    ∧ (∃ (d : Dev) (z : Staged) (pick : Nat) (rcd : RouteRec) (x : _), z.change = .kervon (.routeSet rcd) pick ∧ (routeOf d rcd.id = some x ∧ x.engine
      = pick))
    ∧ (∃ (d : Dev) (z : Staged) (pick : Nat) (route : Nat) (x : _), z.change = .kervon (.routeClear route) pick ∧ (routeOf d route = some x ∧
      x.rcd.output = true ∧ x.rcd.crossfade = false))
    ∧ (∃ (d : Dev) (z : Staged) (pick : Nat) (route : Nat) (x : _), z.change = .kervon (.routeClear route) pick ∧ (routeOf d route = some x ∧
      x.rcd.output = true ∧ x.rcd.crossfade = true))
    ∧ (∃ (d : Dev) (z : Staged) (pick : Nat) (rcd : LayoutRec), z.change = .kervon (.layoutSet rcd) pick ∧ d.vid.streams = [])
    ∧ (∃ (d : Dev) (z : Staged) (pick : Nat) (kind : Nat) (a : Nat) (b : Nat), z.change = .kervon (.intraRequest kind a b) pick ∧ (kind = 1 ∧
      (contribMode d a = 1 ∨ contribMode d a = 3)))
    ∧ (∃ (z : Staged) (pick : Nat) (offset : Nat) (engines : List Nat) (img : ImageDesc) (e : _), z.change = .kervon (.engineLoad offset engines img)
      pick ∧ engines = [e])
    ∧ (∃ (d : Dev) (z : Staged) (pick : Nat) (engines : List Nat) (e : _), z.change = .kervon (.engineUnload engines) pick ∧ (engines = [e] ∧ (engOf d
      e).prog ≠ none))
    ∧ (∃ (d : Dev) (z : Staged) (pick : Nat) (rcd : TrunkRec), z.change = .kervon (.imcTrunkSet rcd) pick ∧ tget d.imc.trunks rcd.trunk = none)
    ∧ (∃ (d : Dev) (z : Staged) (pick : Nat) (trunk : Nat), z.change = .kervon (.imcTrunkClear trunk) pick ∧ (d.tm.queues = [] ∧ d.parse.gem = [])) :=
  ⟨⟨full, { stg with change := .kervon (.confModify conf0 0) 0 }, 0, conf0, 0, (confOf full conf0.id).get (by decide +kernel), ((((confOf full
      conf0.id).get (by decide +kernel))).mix).get (by decide +kernel), rfl, by decide +kernel⟩,
    ⟨full, { stg with change := .kervon (.legModify leg0 0) 0 }, 0, leg0, 0, (legOf full leg0.id).get (by decide +kernel), rfl, by decide +kernel⟩,
    ⟨onLeg full 0 fun l => { l with rcd := { leg0 with saIn := 3, saOut := 4 } }, { stg with change := .kervon (.legRekey 0 0 0) 0 }, 0, 0, 0, 0,
      (legOf (onLeg full 0 fun l => { l with rcd := { leg0 with saIn := 3, saOut := 4 } }) 0).get (by decide +kernel), rfl, by decide +kernel⟩,
    ⟨full, { stg with change := .kervon (.legMigrate 0 0) 3 }, 3, 0, 0, (legOf full 0).get (by decide +kernel), rfl, by decide +kernel⟩,
    ⟨full, { stg with change := .kervon (.legMigrate 0 0) 0 }, 0, 0, 0, (legOf full 0).get (by decide +kernel), rfl, by decide +kernel⟩,
    ⟨world, { stg with change := .kervon (.placeSet 0 0 ([])) 0 }, 0, 0, 0, [], rfl, by decide +kernel⟩,
    ⟨{ stg with change := .kervon (.statusTableSet 0 false) 0 }, 0, 0, false, rfl, by decide +kernel⟩,
    ⟨onLeg full 0 fun l => { l with snap := [1] }, { stg with change := .kervon (.statusTableSet 0 true) 0 }, 0, 0, true, 0,
      { legOn0 with snap := [1] }, rfl, by decide +kernel⟩,
    ⟨world, { stg with change := .kervon (.consoleSet 0 0 0) 0 }, 0, 0, 0, 0, rfl, by decide +kernel⟩,
    ⟨full, { stg with change := .kervon (.consoleSet 0 0 1) 0 }, 0, 0, 0, 1, rfl, by decide +kernel⟩,
    ⟨world, { stg with change := .kervon (.routeSet route0) 0 }, 0, route0, rfl, by decide +kernel⟩,
    ⟨full, { stg with change := .kervon (.routeSet route0) 0 }, 0, route0, (routeOf full route0.id).get (by decide +kernel), rfl, by decide +kernel⟩,
    ⟨full, { stg with change := .kervon (.routeClear 1) 0 }, 0, 1, (routeOf full 1).get (by decide +kernel), rfl, by decide +kernel⟩,
    ⟨onRoute full 1 fun r => { r with rcd := { r.rcd with crossfade := true } }, { stg with change := .kervon (.routeClear 1) 0 }, 0, 1, (routeOf
      (onRoute full 1 fun r => { r with rcd := { r.rcd with crossfade := true } }) 1).get (by decide +kernel), rfl, by decide +kernel⟩,
    ⟨world, { stg with change := .kervon (.layoutSet layout0) 0 }, 0, layout0, rfl, by decide +kernel⟩,
    ⟨withContrib full { contrib0 with mode := 1 } 0, { stg with change := .kervon (.intraRequest 1 0 0) 0 }, 0, 1, 0, 0, rfl, by decide +kernel⟩,
    ⟨{ stg with change := .kervon (.engineLoad 0 ([255]) img0) 0 }, 0, 0, [255], img0, 255, rfl, by decide +kernel⟩,
    ⟨onEng world 3 fun x => { x with prog := some { img := img0, offset := 0, running := true, restarted := false } },
      { stg with change := .kervon (.engineUnload ([3])) 0 }, 0, [3], 3, rfl, by decide +kernel⟩,
    ⟨world, { stg with change := .kervon (.imcTrunkSet trunk0) 0 }, 0, trunk0, rfl, by decide +kernel⟩,
    ⟨world, { stg with change := .kervon (.imcTrunkClear 0) 0 }, 0, 0, rfl, by decide +kernel⟩⟩

theorem witness_BellAndTimeEventsComplete :
    (∃ (s : State), domOn s.start 3 = true)
    ∧ (∃ (s : State), (bar0Answers s.start = true ∧ domOn s.start 3 = true))
    ∧ (∃ (s : State), (bar0Answers s.start = true ∧ domOn s.start 3 = true))
    ∧ (∃ (s : State), (bar0Answers s.start = true ∧ domOn s.start 3 = false))
    ∧ (∃ (s : State), (bar0Answers s.start = true ∧ domOn s.start 0 = true))
    ∧ (∃ (s : State) (group : Nat), (group < 4 ∧ bar0Answers s.start = true ∧ domOn s.start 3 = true))
    ∧ (∃ (s : State), (s.start.bell.lock.src ≠ 0 ∧ s.start.bell.lock.st = .free ∧ s.start.bell.lock.validRun + 1 < 8))
    ∧ (∃ (s : State), (s.start.bell.lock.src ≠ 0 ∧ s.start.bell.lock.st = .free ∧ 8 ≤ s.start.bell.lock.validRun + 1))
    ∧ (∃ (s : State) (err : Int), (s.start.bell.lock.src ≠ 0 ∧ s.start.bell.lock.st = .acquire ∧ s.start.bell.lock.inRun = 63 ∧ (phaseMod (err -
      portAdjOf s.start (refPort s.start))).natAbs ≤ 50 * 65536))
    ∧ (∃ (s : State) (err : Int), (s.start.bell.lock.src ≠ 0 ∧ s.start.bell.lock.st = .locked ∧ 500 * 65536 < (phaseMod (err - portAdjOf s.start
      (refPort s.start))).natAbs))
    ∧ (∃ (s : State), (s.start.bell.lock.src ≠ 0 ∧ s.start.bell.lock.st = .locked ∧ 4 ≤ s.start.bell.lock.missRun + 1))
    ∧ (∃ (s : State), (s.start.bell.lock.src = 2 ∧ s.start.bell.succ.bellwether = false ∧ s.start.bell.lock.missRun + 1 < 4))
    ∧ (∃ (s : State), (s.start.bell.lock.src = 1 ∧ s.start.bell.lock.todSrc = true))
    ∧ (∃ (s : State), s.start.bell.time.timeValid = true)
    ∧ (∃ (s : State), s.start.bell.time.timeValid = false)
    ∧ (∃ (s : State), (s.start.bell.lock.st = .locked ∧ s.start.pwr.season ≠ .winter ∧ s.start.bell.sleep.calStart = none))
    ∧ (∃ (s : State) (t0 : _), (s.start.bell.lock.st = .locked ∧ s.start.pwr.season ≠ .winter ∧ s.start.bell.sleep.calStart = some t0))
    ∧ (∃ (s : State) (hd : CascHdr) (m : Marker), (CascHears s.start hd .bell (bellBytes m) ∧ cascUp s.start hd.port = true ∧ hd.dst =
      s.start.casc.device ∧ (∀ r, tget s.start.casc.routes m.device = some r → r.1 = hd.port) ∧ m.epoch > s.start.bell.succ.epoch ∧ m.device ≠
      s.start.casc.device))
    ∧ (∃ (s : State) (hd : CascHdr) (m : Marker), (CascHears s.start hd .bell (bellBytes m) ∧ cascUp s.start hd.port = true ∧ hd.dst = 0xFF ∧ hd.hops =
      0 ∧ (∀ r, tget s.start.casc.routes m.device = some r → r.1 = hd.port) ∧ m.epoch > s.start.bell.succ.epoch ∧ m.device ≠ s.start.casc.device))
    ∧ (∃ (s : State) (hd : CascHdr) (m : Marker), (CascHears s.start hd .bell (bellBytes m) ∧ cascUp s.start hd.port = true ∧ hd.dst =
      s.start.casc.device ∧ m.epoch < s.start.bell.succ.epoch))
    ∧ (∃ (s : State), (s.start.bell.succ.bellwether = false ∧ 1 ≤ s.start.bell.succ.rank ∧ s.start.bell.succ.rank ≤ 14 ∧ s.start.bell.succ.rank ≤
      s.start.bell.succ.missed))
    ∧ (∃ (port : Nat), port ≤ 1)
    ∧ (∃ (s : State), (s.start.past.handed = false ∧ allWaiting s.start = 0)) :=
  ⟨⟨st world, by decide +kernel⟩,
    ⟨st world, by decide +kernel⟩,
    ⟨st world, by decide +kernel⟩,
    ⟨st (setDom world 3 .off), by decide +kernel⟩,
    ⟨st world, by decide +kernel⟩,
    ⟨st world, 0, by decide +kernel⟩,
    ⟨st (onLock world fun l => { l with src := 1 }), by decide +kernel⟩,
    ⟨st (onLock world fun l => { l with src := 1, validRun := 7 }), by decide +kernel⟩,
    ⟨st (onLock world fun l => { l with src := 1, st := .acquire, inRun := 63 }), 50 * 65536, by decide +kernel⟩,
    ⟨st (onLock world fun l => { l with src := 1, st := .locked }), 500 * 65536 + 1, by decide +kernel⟩,
    ⟨st (onLock world fun l => { l with src := 1, st := .locked, missRun := 3 }), by decide +kernel⟩,
    ⟨st (onLock world fun l => { l with src := 2, missRun := 2 }), by decide +kernel⟩,
    ⟨st (onLock world fun l => { l with src := 1, todSrc := true }), by decide +kernel⟩,
    ⟨st (onTime world fun t => { t with timeValid := true }), by decide +kernel⟩,
    ⟨st world, by decide +kernel⟩,
    ⟨st (onSleep (onLock world fun l => { l with st := .locked }) fun x => { x with calStart := none }), by decide +kernel⟩,
    ⟨st (onSleep (onLock world fun l => { l with st := .locked }) fun x => { x with calStart := some 0 }), ((st (onSleep (onLock world fun l =>
      { l with st := .locked }) fun x => { x with calStart := some 0 })).start.bell.sleep.calStart).get (by decide +kernel), by decide +kernel⟩,
    ⟨st (cascW .up id), cascOf (st (cascW .up id)).start .bell 1 0 0 (bellBytes mark0), mark0, ⟨cascOf_hears (by decide +kernel)
      (by decide +kernel), by decide +kernel⟩⟩,
    ⟨st (cascW .up id), cascOf (st (cascW .up id)).start .bell 1 255 0 (bellBytes mark0), mark0, ⟨cascOf_hears (by decide +kernel)
      (by decide +kernel), by decide +kernel⟩⟩,
    ⟨st (onSucc (cascW .up id) fun x => { x with epoch := 2 }), cascOf (st (onSucc (cascW .up id) fun x => { x with epoch := 2 })).start .bell 1 0 0
      (bellBytes mark0), mark0, ⟨cascOf_hears (by decide +kernel) (by decide +kernel), by decide +kernel⟩⟩,
    ⟨st (onSucc world fun x => { x with rank := 14, missed := 14 }), by decide +kernel⟩,
    ⟨0, by decide +kernel⟩,
    ⟨st world, by decide +kernel⟩⟩

theorem witness_HostAndSessionEventsComplete :
    (∃ (s : State) (ring : Nat) (value : Nat) (pcieFails : Bool), (ring ≤ 3 ∧ domOn s.start 38 = true ∧ value ≤ 255 ∧ pcieFails = false))
    ∧ (∃ (s : State) (ring : Nat) (value : Nat) (pcieFails : Bool), (ring ≤ 3 ∧ domOn s.start 38 = true ∧ 255 < value ∧ pcieFails = false))
    ∧ (∃ (s : State) (ring : Nat) (value : Nat), (ring ≤ 3 ∧ domOn s.start 38 = true ∧ value ≤ 255))
    ∧ (∃ (s : State) (ring : Nat) (value : Nat), (ring ≤ 3 ∧ domOn s.start 38 = true ∧ 255 < value))
    ∧ (∃ (s : State) (ring : Nat) (en : Bool), (ring ≤ 3 ∧ domOn s.start 38 = true ∧ en = true ∧ (ringOf s.start ring).en = false))
    ∧ (∃ (s : State) (ring : Nat) (en : Bool), (ring ≤ 3 ∧ domOn s.start 38 = true ∧ en = false))
    ∧ (∃ (s : State), s.start.sys.int.pin = false)
    ∧ (∃ (s : State) (word : Nat), (word < 64 ∧ domOn s.start 38 = true))
    ∧ (∃ (s : State) (addr : Nat), (bar0Answers s.start = true ∧ addr = 0x100008 ∧ domOn s.start 3 = true))
    ∧ (∃ (s : State) (addr : Nat), (bar0Answers s.start = true ∧ addr < 0x10000000 ∧ addr % 4 = 0 ∧ addr / 0x100000 = 0 ∧ regHas 0 (addr % 0x100000) =
      true ∧ domOn s.start (regDomain 0 (addr % 0x100000)) = true))
    ∧ (∃ (s : State) (addr : Nat), (bar0Answers s.start = true ∧ addr < 0x10000000 ∧ addr % 4 ≠ 0))
    ∧ (∃ (s : State) (addr : Nat), (bar0Answers s.start = true ∧ addr % 4 = 0 ∧ addr / 0x100000 ≤ 16 ∧ regHas (addr / 0x100000) (addr % 0x100000) =
      true ∧ darkPart s.start (addr / 0x100000) (addr % 0x100000) = false ∧ domOn s.start (regDomain (addr / 0x100000) (addr % 0x100000)) = true ∧
      regManaged s.start (addr / 0x100000) (addr % 0x100000) = false))
    ∧ (∃ (s : State) (addr : Nat), (bar0Answers s.start = true ∧ addr % 4 = 0 ∧ addr / 0x100000 ≤ 16 ∧ regHas (addr / 0x100000) (addr % 0x100000) =
      true ∧ darkPart s.start (addr / 0x100000) (addr % 0x100000) = false ∧ domOn s.start (regDomain (addr / 0x100000) (addr % 0x100000)) = true ∧
      regManaged s.start (addr / 0x100000) (addr % 0x100000) = true))
    ∧ (∃ (s : State) (k : _), (sessionsOn s.start = true ∧ (List.range 8).find? (fun k => (sessOf s.start k).st == .free) = some k))
    ∧ (∃ (s : State), sessionsOn s.start = false)
    ∧ (∃ (s : State) (session : Nat) (role : Nat) (keyHash : Nat) (sigOk : Bool) (decryptOk : Bool), (session < 8 ∧ sessionsOn s.start = true ∧ (sessOf
      s.start session).st = .challenged ∧ keyHash = (otpRules s.start).mgmtKeyHash ∧ sigOk = true ∧ decryptOk = true ∧ role ≤ 1))
    ∧ (∃ (s : State) (session : Nat) (sigOk : Bool), (session < 8 ∧ sessionsOn s.start = true ∧ (sessOf s.start session).st = .challenged ∧ sigOk =
      false))
    ∧ (∃ (s : State) (session : Nat) (ctr : Nat) (tagOk : Bool), (session < 8 ∧ sessionsOn s.start = true ∧ (sessOf s.start session).st = .opened ∧
      tagOk = true ∧ (sessOf s.start session).rxCtr.toNat < ctr))
    ∧ (∃ (s : State) (session : Nat) (ctr : Nat) (tagOk : Bool), (session < 8 ∧ sessionsOn s.start = true ∧ (sessOf s.start session).st = .opened ∧
      tagOk = true ∧ ctr < (sessOf s.start session).rxCtr.toNat))
    ∧ (∃ (s : State) (session : Nat) (ctr : Nat) (tagOk : Bool), (session < 8 ∧ sessionsOn s.start = true ∧ (sessOf s.start session).st = .opened ∧
      tagOk = true ∧ (sessOf s.start session).rxCtr.toNat < ctr))
    ∧ (∃ (s : State) (session : Nat), (sessOf s.start session).st = .opened)
    ∧ (∃ (s : State) (session : Nat), (sessOf s.start session).st = .challenged)
    ∧ (∃ (s : State) (j : _), (s.start.fold.boot.storeJob = some j ∧ firmwareOk s.start j.kind j.img false = none))
    ∧ (∃ (s : State) (j : _) (st : _) (r : _), (s.start.fold.boot.storeJob = some j ∧ firmwareOk s.start j.kind j.img false = some (st, r)))
    ∧ (∃ (s : State), (domOn s.start 2 = true ∧ s.start.aux.swapState ≠ 1)) :=
  ⟨⟨st world, 0, 0, false, by decide +kernel⟩,
    ⟨st world, 0, 256, false, by decide +kernel⟩,
    ⟨st world, 0, 0, by decide +kernel⟩,
    ⟨st world, 0, 256, by decide +kernel⟩,
    ⟨st world, 0, true, by decide +kernel⟩,
    ⟨st world, 0, false, by decide +kernel⟩,
    ⟨st world, by decide +kernel⟩,
    ⟨st world, 0, by decide +kernel⟩,
    ⟨st world, 0x100008, by decide +kernel⟩,
    ⟨st world, 0, by decide +kernel⟩,
    ⟨st world, 3, by decide +kernel⟩,
    ⟨st world, 0, by decide +kernel⟩,
    ⟨st world, 0x100008, by decide +kernel⟩,
    ⟨st (sessions1 id), ((List.range 8).find? (fun k => (sessOf (st (sessions1 id)).start k).st == .free)).get (by decide +kernel), by
      decide +kernel⟩,
    ⟨st world, by decide +kernel⟩,
    ⟨st (sessions1 fun x => { x with st := .challenged }), 0, 1, 0, true, true, by decide +kernel⟩,
    ⟨st (sessions1 fun x => { x with st := .challenged }), 0, false, by decide +kernel⟩,
    ⟨st (sessions1 fun x => { x with st := .opened }), 0, 1, true, by decide +kernel⟩,
    ⟨st (sessions1 fun x => { x with st := .opened, rxCtr := 9 }), 0, 1, true, by decide +kernel⟩,
    ⟨st (sessions1 fun x => { x with st := .opened }), 0, 1, true, by decide +kernel⟩,
    ⟨st (sessions1 fun x => { x with st := .opened }), 0, by decide +kernel⟩,
    ⟨st (sessions1 fun x => { x with st := .challenged }), 0, by decide +kernel⟩,
    ⟨st (onBoot world fun b => { b with storeJob := some { kind := 2, slot := 1, img := img0, ctx := stg.ctx } }), ((st (onBoot world fun b =>
      { b with storeJob := some { kind := 2, slot := 1, img := img0, ctx := stg.ctx } })).start.fold.boot.storeJob).get (by decide +kernel), by
      decide +kernel⟩,
    ⟨st (onBoot world fun b => { b with storeJob := some { kind := 3, slot := 1, img := img0, ctx := stg.ctx } }), ((st (onBoot world fun b =>
      { b with storeJob := some { kind := 3, slot := 1, img := img0, ctx := stg.ctx } })).start.fold.boot.storeJob).get (by decide +kernel),
      .badParam, 1, by decide +kernel⟩,
    ⟨st world, by decide +kernel⟩⟩

theorem witness_FoldEventsComplete :
    (∃ (s : State), (s.start.fold.guard.lockout = false ∧ s.start.fold.guard.window = .shut))
    ∧ (∃ (s : State), (s.start.fold.guard.lockout = false ∧ s.start.fold.guard.window = .button))
    ∧ (∃ (s : State), s.start.fold.guard.lockout = true)
    ∧ (∃ (s : State), (s.start.fold.guard.window = .button ∧ (domOn s.start 3 = false ∨ s.start.fold.guard.endTick ≤ s.start.bell.tick.toNat)))
    ∧ (∃ (s : State), s.start.fold.guard.window = .button)
    ∧ (∃ (s : State), s.start.fold.guard.rngOk = false)
    ∧ (∃ (s : State), (s.start.fold.boot.stage = .ready ∧ s.start.fold.boot.sealed = false))
    ∧ (∃ (s : State) (readBackOk : Bool) (j : _), (s.start.fold.otp.job = some j ∧ readBackOk = true))
    ∧ (∃ (s : State) (readBackOk : Bool) (j : _), (s.start.fold.otp.job = some j ∧ readBackOk = false)) :=
  ⟨⟨st (onGuard world fun g => { g with window := .shut }), by decide +kernel⟩,
    ⟨st world, by decide +kernel⟩,
    ⟨st (onGuard world fun g => { g with lockout := true }), by decide +kernel⟩,
    ⟨st world, by decide +kernel⟩,
    ⟨st world, by decide +kernel⟩,
    ⟨st world, by decide +kernel⟩,
    ⟨st world, by decide +kernel⟩,
    ⟨st (otpBegin world 0 otp0 stg.ctx), true, ((st (otpBegin world 0 otp0 stg.ctx)).start.fold.otp.job).get (by decide +kernel), by decide +kernel⟩,
    ⟨st (otpBegin world 0 otp0 stg.ctx), false, ((st (otpBegin world 0 otp0 stg.ctx)).start.fold.otp.job).get (by decide +kernel), by
      decide +kernel⟩⟩

theorem witness_AccessEventsComplete :
    (∃ (s : State) (slice : Nat) (k : _), ((sliceOf s.start slice).gasp = some k ∧ (sliceOf s.start slice).st ≠ .killed ∧ k.toNat + 16 ≤
      s.start.bell.tick.toNat))
    ∧ (∃ (s : State) (slice : Nat) (cls : Nat) (inst : Nat) (micOk : Bool) (op : OmciOp) (top : _) (attrs : _), (slice < 4 ∧ (sliceOf s.start slice).st
      = .o5 ∧ domOn s.start (4 + slice) = true ∧ (sliceOf s.start slice).asleep = false ∧ micOk = true ∧ op = .create attrs ∧ meInstances cls = some
      top ∧ meReadOnly cls = false ∧ thas (sliceOf s.start slice).mib (meKey cls inst) = false ∧ meHeld (sliceOf s.start slice) cls < top))
    ∧ (∃ (s : State) (slice : Nat) (cls : Nat) (micOk : Bool) (op : OmciOp) (top : _) (mask : _), (slice < 4 ∧ (sliceOf s.start slice).st = .o5 ∧ domOn
      s.start (4 + slice) = true ∧ (sliceOf s.start slice).asleep = false ∧ micOk = true ∧ op = .get mask ∧ meInstances cls = some top))
    ∧ (∃ (s : State) (slice : Nat) (micOk : Bool), (slice < 4 ∧ (sliceOf s.start slice).st = .o5 ∧ domOn s.start (4 + slice) = true ∧ (sliceOf s.start
      slice).asleep = false ∧ micOk = false))
    ∧ (∃ (s : State) (slice : Nat) (f : DsFrame), (slice < 4 ∧ (sliceOf s.start slice).st ≠ .disabled ∧ domOn s.start (4 + slice) = true ∧
      s.start.acc.cfg.native = true ∧ (nativeView (sliceOf s.start slice) f).found = true ∧ (nativeView (sliceOf s.start slice) f).countOk = true ∧
      (sliceOf s.start slice).sync = true ∧ (sliceOf s.start slice).leaveFrame = none))
    ∧ (∃ (s : State) (slice : Nat) (f : DsFrame), (slice < 4 ∧ (sliceOf s.start slice).st ≠ .disabled ∧ domOn s.start (4 + slice) = true ∧
      s.start.acc.cfg.native = false ∧ f.found = true ∧ f.countOk = true ∧ (sliceOf s.start slice).sync = true ∧ (sliceOf s.start slice).leaveFrame =
      none))
    ∧ (∃ (s : State) (slice : Nat) (lost : Bool), (slice < 4 ∧ (sliceOf s.start slice).st ≠ .disabled ∧ domOn s.start (4 + slice) = true ∧ lost =
      false))
    ∧ (∃ (s : State) (slice : Nat) (lost : Bool), (slice < 4 ∧ (sliceOf s.start slice).st = .o5 ∧ domOn s.start (4 + slice) = true ∧ lost = true ∧
      (sliceOf s.start slice).sync = true ∧ (sliceOf s.start slice).ch = .out))
    ∧ (∃ (s : State) (slice : Nat) (h : PloamHdr) (index : Nat) (fieldsOk : Bool), (Hears s.start slice h ∧ (sliceOf s.start slice).st = .o5 ∧ index ≤
      3 ∧ fieldsOk = true))
    ∧ (∃ (s : State) (slice : Nat) (h : PloamHdr) (index : Nat) (fieldsOk : Bool) (rateOk : Bool), (Hears s.start slice h ∧ (sliceOf s.start slice).st
      = .o12 ∧ index ≤ 3 ∧ fieldsOk = true ∧ rateOk = true ∧ (sliceOf s.start slice).chanOk = true))
    ∧ (∃ (s : State) (slice : Nat) (h : PloamHdr) (index : Nat), (Hears s.start slice h ∧ (sliceOf s.start slice).st = .o5 ∧ 3 < index))
    ∧ (∃ (s : State) (slice : Nat) (h : PloamHdr) (mine : Bool) (onu : Nat), (Hears s.start slice h ∧ mine = true ∧ (sliceOf s.start slice).st = .o23 ∧
      onu ≤ 1020))
    ∧ (∃ (s : State) (slice : Nat) (h : PloamHdr) (mine : Bool), (Hears s.start slice h ∧ mine = true ∧ (sliceOf s.start slice).st = .o5))
    ∧ (∃ (s : State) (slice : Nat) (h : PloamHdr) (relative : Bool) (value : Int), (Hears s.start slice h ∧ (sliceOf s.start slice).st = .o4 ∧ relative
      = false ∧ 0 ≤ eqdUnits value ∧ eqdUnits value ≤ 24883200))
    ∧ (∃ (s : State) (slice : Nat) (h : PloamHdr) (relative : Bool) (value : Int), (Hears s.start slice h ∧ (sliceOf s.start slice).st = .o5 ∧ relative
      = false ∧ 24883200 < eqdUnits value))
    ∧ (∃ (s : State) (slice : Nat) (h : PloamHdr), (Hears s.start slice h ∧ (sliceOf s.start slice).st = .o5))
    ∧ (∃ (s : State) (slice : Nat) (h : PloamHdr) (named : Bool) (enable : Bool), (Hears s.start slice h ∧ named = true ∧ (sliceOf s.start slice).st =
      .o5 ∧ enable = false))
    ∧ (∃ (s : State) (slice : Nat) (h : PloamHdr) (named : Bool) (enable : Bool), (Hears s.start slice h ∧ named = true ∧ (sliceOf s.start slice).st =
      .o7 ∧ enable = true))
    ∧ (∃ (s : State) (slice : Nat) (hd : PloamHdr), (Hears s.start slice hd ∧ ((sliceOf s.start slice).st = .o4 ∨ (sliceOf s.start slice).st = .o5 ∨
      (sliceOf s.start slice).st = .o6)))
    ∧ (∃ (s : State) (slice : Nat) (hd : PloamHdr) (alloc : Nat) (assign : Bool) (a : _) (node : _), (Hears s.start slice hd ∧ (sliceOf s.start
      slice).st = .o5 ∧ alloc < 16384 ∧ assign = true ∧ allocEntry (sliceOf s.start slice) alloc = none ∧ tfree (sliceOf s.start slice).allocs 0 64 =
      some a ∧ freeNode s.start = some node))
    ∧ (∃ (s : State) (slice : Nat) (h : PloamHdr) (alloc : Nat), (Hears s.start slice h ∧ (sliceOf s.start slice).st = .o5 ∧ 16384 ≤ alloc))
    ∧ (∃ (s : State) (slice : Nat) (h : PloamHdr) (generate : Bool) (index : Nat), (Hears s.start slice h ∧ (sliceOf s.start slice).st = .o5 ∧ generate
      = true ∧ indexInUse (sliceOf s.start slice).keys (index % 2) = false))
    ∧ (∃ (s : State) (slice : Nat) (h : PloamHdr) (generate : Bool) (index : Nat) (key : _), (Hears s.start slice h ∧ (sliceOf s.start slice).st = .o5
      ∧ generate = false ∧ (sliceOf s.start slice).keys.pend = some (index % 2, key)))
    ∧ (∃ (s : State) (slice : Nat) (i : _) (key : _), ((sliceOf s.start slice).keys.pend = some (i, key) ∧ 1 ≤ (sliceOf s.start slice).keys.tries ∧
      (sliceOf s.start slice).keys.tries < 3 ∧ (sliceOf s.start slice).keys.stall = false ∧ msPassed s.start (sliceOf s.start slice).keys.sentAt
      s.start.acc.cfg.tkey = true))
    ∧ (∃ (s : State) (slice : Nat) (i : _) (key : _), ((sliceOf s.start slice).keys.pend = some (i, key) ∧ 3 ≤ (sliceOf s.start slice).keys.tries ∧
      (sliceOf s.start slice).keys.stall = false ∧ msPassed s.start (sliceOf s.start slice).keys.sentAt s.start.acc.cfg.tkey = true ∧ (sliceOf s.start
      slice).ch ≠ .active))
    ∧ (∃ (s : State) (slice : Nat) (h : PloamHdr), (Hears s.start slice h ∧ (sliceOf s.start slice).st = .o5))
    ∧ (∃ (s : State) (slice : Nat) (h : PloamHdr), Hears s.start slice h)
    ∧ (∃ (s : State) (slice : Nat), (sliceOf s.start slice).sleepAllowed = false)
    ∧ (∃ (s : State) (slice : Nat), ((sliceOf s.start slice).st = .o4 ∧ msPassed s.start (sliceOf s.start slice).to1At s.start.acc.cfg.to1 = true))
    ∧ (∃ (s : State) (slice : Nat), (sliceOf s.start slice).st ≠ .o4)
    ∧ (∃ (s : State) (slice : Nat), ((sliceOf s.start slice).st = .o6 ∧ msPassed s.start (sliceOf s.start slice).to2At s.start.acc.cfg.to2 = true))
    ∧ (∃ (s : State) (slice : Nat), ((sliceOf s.start slice).st = .quarantine ∧ msPassed s.start ((sliceOf s.start slice).quars.getLast?.getD 0)
      ((sliceOf s.start slice).quarFor * 1000) = true))
    ∧ (∃ (s : State) (slice : Nat), (slice < 4 ∧ (sliceOf s.start slice).st ≠ .killed)) :=
  ⟨⟨st (onBell (slice0 .o5 fun x => { x with gasp := some 0 }) fun b => { b with tick := 16 }), 0, ((sliceOf (st (onBell (slice0 .o5 fun x =>
      { x with gasp := some 0 }) fun b => { b with tick := 16 })).start 0).gasp).get (by decide +kernel), by decide +kernel⟩,
    ⟨st (slice0 .o5 id), 0, 268, 0, true, .create [], 4096, [], by decide +kernel⟩,
    ⟨st (slice0 .o5 id), 0, 256, true, .get 0, (meInstances 256).get (by decide +kernel), 0, by decide +kernel⟩,
    ⟨st (slice0 .o5 id), 0, false, by decide +kernel⟩,
    ⟨st (onAcc (slice0 .o5 id) (fun a => { a with cfg := acc0 })), 0, { ds0 with levels := pamLevels ((psbBytes 1 0 0 0 0 0).flatMap byteBits) }, by
      decide +kernel⟩,
    ⟨st (slice0 .o5 id), 0, ds0, by decide +kernel⟩,
    ⟨st (slice0 .o5 id), 0, false, by decide +kernel⟩,
    ⟨st (slice0 .o5 id), 0, true, by decide +kernel⟩,
    ⟨st (slice0 .o5 id), 0, ploam0, 0, true, by unfold Hears; decide +kernel⟩,
    ⟨st (slice0 .o12 id), 0, ploam0, 0, true, true, by unfold Hears; decide +kernel⟩,
    ⟨st (slice0 .o5 id), 0, ploam0, 4, by unfold Hears; decide +kernel⟩,
    ⟨st (slice0 .o23 id), 0, ploam0, true, 0, by unfold Hears; decide +kernel⟩,
    ⟨st (slice0 .o5 id), 0, ploam0, true, by unfold Hears; decide +kernel⟩,
    ⟨st (slice0 .o4 id), 0, ploam0, false, 0, by unfold Hears; decide +kernel⟩,
    ⟨st (slice0 .o5 id), 0, ploam0, false, 10 ^ 12, by unfold Hears; decide +kernel⟩,
    ⟨st (slice0 .o5 id), 0, ploam0, by unfold Hears; decide +kernel⟩,
    ⟨st (slice0 .o5 id), 0, ploam0, true, false, by unfold Hears; decide +kernel⟩,
    ⟨st (slice0 .o7 id), 0, ploam0, true, true, by unfold Hears; decide +kernel⟩,
    ⟨st (slice0 .o6 id), 0, ploam0, by unfold Hears; decide +kernel⟩,
    ⟨st (slice0 .o5 id), 0, ploam0, 0, true, (tfree (sliceOf (st (slice0 .o5 id)).start 0).allocs 0 64).get (by decide +kernel), (freeNode (st
      (slice0 .o5 id)).start).get (by decide +kernel), by unfold Hears; decide +kernel⟩,
    ⟨st (slice0 .o5 id), 0, ploam0, 16384, by unfold Hears; decide +kernel⟩,
    ⟨st (slice0 .o5 id), 0, ploam0, true, 0, by unfold Hears; decide +kernel⟩,
    ⟨st (slice0 .o5 fun x => { x with keys := { x.keys with pend := some (0, 7) } }), 0, ploam0, false, 0, 7, by unfold Hears; decide +kernel⟩,
    ⟨st (onBell (slice0 .o5 fun x => { x with keys := { x.keys with pend := some (0, 7), tries := 1 } }) fun b => { b with tick := 0x1000000 }), 0,
      (((sliceOf (st (onBell (slice0 .o5 fun x => { x with keys := { x.keys with pend := some (0, 7), tries := 1 } }) fun b =>
      { b with tick := 0x1000000 })).start 0).keys.pend).get (by decide +kernel)).1, (((sliceOf (st (onBell (slice0 .o5 fun x =>
      { x with keys := { x.keys with pend := some (0, 7), tries := 1 } }) fun b => { b with tick := 0x1000000 })).start 0).keys.pend).get
      (by decide +kernel)).2, by decide +kernel⟩,
    ⟨st (onBell (slice0 .o5 fun x => { x with keys := { x.keys with pend := some (0, 7), tries := 3 } }) fun b => { b with tick := 0x1000000 }), 0,
      (((sliceOf (st (onBell (slice0 .o5 fun x => { x with keys := { x.keys with pend := some (0, 7), tries := 3 } }) fun b =>
      { b with tick := 0x1000000 })).start 0).keys.pend).get (by decide +kernel)).1, (((sliceOf (st (onBell (slice0 .o5 fun x =>
      { x with keys := { x.keys with pend := some (0, 7), tries := 3 } }) fun b => { b with tick := 0x1000000 })).start 0).keys.pend).get
      (by decide +kernel)).2, by decide +kernel⟩,
    ⟨st (slice0 .o5 id), 0, ploam0, by unfold Hears; decide +kernel⟩,
    ⟨st (slice0 .o5 id), 0, ploam0, by unfold Hears; decide +kernel⟩,
    ⟨st world, 0, by decide +kernel⟩,
    ⟨st (onBell (slice0 .o4 id) fun b => { b with tick := 0x1000000 }), 0, by decide +kernel⟩,
    ⟨st world, 0, by decide +kernel⟩,
    ⟨st (onBell (slice0 .o6 id) fun b => { b with tick := 0x1000000 }), 0, by decide +kernel⟩,
    ⟨st (onBell (slice0 .quarantine id) fun b => { b with tick := 0x1000000 }), 0, by decide +kernel⟩,
    ⟨st world, 0, by decide +kernel⟩⟩

theorem witness_BondEventsComplete :
    (∃ (s : State) (slice : Nat) (h : BondHdr), (BondTold s.start slice h ∧ eligible s.start slice = true))
    ∧ (∃ (s : State) (slice : Nat) (h : BondHdr), (BondTold s.start slice h ∧ eligible s.start slice = false))
    ∧ (∃ (s : State) (slice : Nat) (h : BondHdr) (joinFrame : Nat), (BondTold s.start slice h ∧ h.reservedOk = true ∧ h.channel = slice ∧ eligible
      s.start slice = true ∧ (sliceOf s.start slice).leaveFrame = none ∧ (sliceOf s.start slice).ch = .out ∧ skewOk s.start slice = true ∧ h.frame + 8
      ≤ joinFrame ∧ joinFrame ≤ h.frame + 8000 ∧ (sliceOf s.start slice).allocs.length + (lackedIds s.start slice).length ≤ 64))
    ∧ (∃ (s : State) (slice : Nat) (h : BondHdr) (joinFrame : Nat), (BondTold s.start slice h ∧ h.reservedOk = true ∧ h.channel = slice ∧ eligible
      s.start slice = true ∧ (sliceOf s.start slice).leaveFrame = none ∧ (sliceOf s.start slice).ch = .out ∧ skewOk s.start slice = true ∧ joinFrame <
      h.frame + 8))
    ∧ (∃ (s : State) (slice : Nat) (h : BondHdr) (leaveFrame : Nat), (BondTold s.start slice h ∧ h.channel < 4 ∧ (sliceOf s.start h.channel).ch =
      .active ∧ leaveFrame = 0))
    ∧ (∃ (s : State) (slice : Nat) (h : BondHdr) (leaveFrame : Nat), (BondTold s.start slice h ∧ h.channel < 4 ∧ (sliceOf s.start h.channel).ch =
      .active ∧ leaveFrame ≠ 0 ∧ (sliceOf s.start h.channel).frame < leaveFrame))
    ∧ (∃ (s : State) (slice : Nat) (h : BondHdr) (alloc : Nat) (assign : Bool) (node : _), (BondTold s.start slice h ∧ assign = true ∧ alloc < 16384 ∧
      thas s.start.acc.bond.ids alloc = false ∧ (∀ n ∈ bondMembers s.start, (allocEntry (sliceOf s.start n) alloc).isSome = false ∧ (sliceOf s.start
      n).allocs.length < 64) ∧ freeNode s.start = some node))
    ∧ (∃ (s : State) (slice : Nat) (h : BondHdr) (alloc : Nat) (assign : Bool), (BondTold s.start slice h ∧ assign = false ∧ alloc < 16384 ∧ tget
      s.start.acc.bond.ids alloc = none))
    ∧ (∃ (s : State) (slice : Nat) (hd : BondHdr), BondTold s.start slice hd)
    ∧ (∃ (s : State) (slice : Nat) (h : BondHdr), (slice < 4 ∧ s.start.acc.cfg.native = true ∧ (sliceOf s.start slice).st = .o5 ∧ domOn s.start (4 +
      slice) = true ∧ h.onu = (sliceOf s.start slice).onu ∧ h.micOk = true))
    ∧ (∃ (s : State) (slice : Nat), (slice < 4 ∧ (sliceOf s.start slice).ch = .joining ∧ (sliceOf s.start slice).joinFrame ≤ (sliceOf s.start
      slice).frame))
    ∧ (∃ (s : State) (slice : Nat) (cause : Nat), (slice < 4 ∧ 1 ≤ cause ∧ cause ≤ 7 ∧ (sliceOf s.start slice).ch ≠ .out))
    ∧ (∃ (s : State) (slice : Nat) (cause : Nat), (slice < 4 ∧ 1 ≤ cause ∧ cause ≤ 7 ∧ (sliceOf s.start slice).ch = .out))
    ∧ (∃ (s : State) (type : Nat) (chan : Nat) (o : _), (s.start.acc.bond.outs.find? (fun o => o.type == type && o.chan == chan) = some o ∧
      o.nextAt.toNat ≤ s.start.bell.tick.toNat ∧ o.sends < 5 ∧ type ≠ 0x81))
    ∧ (∃ (s : State) (type : Nat) (chan : Nat) (o : _), (s.start.acc.bond.outs.find? (fun o => o.type == type && o.chan == chan) = some o ∧
      o.nextAt.toNat ≤ s.start.bell.tick.toNat ∧ 5 ≤ o.sends ∧ type ≠ 0x81))
    ∧ (∃ (s : State) (slice : Nat) (f : FragIn), (slice < 4 ∧ domOn s.start (4 + slice) = true ∧ s.start.acc.bond.st = .bonded ∧ chActive s.start slice
      = true ∧ f.verOk = true ∧ f.hcrcOk = true ∧ f.seq < 2 ^ 24 ∧ 1 ≤ seqAhead s.start f.seq ∧ seqAhead s.start f.seq ≤ 255 ∧ (∀ h ∈
      s.start.acc.bond.held, h.seq ≠ f.seq)))
    ∧ (∃ (s : State) (slice : Nat) (f : FragIn), (slice < 4 ∧ domOn s.start (4 + slice) = true ∧ s.start.acc.bond.st = .bonded ∧ (f.verOk = false ∨
      f.hcrcOk = false)))
    ∧ (∃ (s : State) (now : Nat), deadlineDue s.start now = false)
    ∧ (∃ (s : State) (now : Nat) (k : _) (g : _), (deadlineDue s.start now = true ∧ nextHeld s.start = some (k, g))) :=
  ⟨⟨st (bond1 id), 0, bondHdr1, by unfold BondTold; decide +kernel⟩,
    ⟨st (onBond (bond1 id) fun b => { b with mask := 0 }), 0, bondHdr1, by unfold BondTold; decide +kernel⟩,
    ⟨st (bond1 id), 0, bondHdr1, 8, by unfold BondTold; decide +kernel⟩,
    ⟨st (bond1 id), 0, bondHdr1, 0, by unfold BondTold; decide +kernel⟩,
    ⟨st (bond1 fun x => { x with ch := .active }), 0, bondHdr1, 0, by unfold BondTold; decide +kernel⟩,
    ⟨st (bond1 fun x => { x with ch := .active }), 0, bondHdr1, 1, by unfold BondTold; decide +kernel⟩,
    ⟨st (bond1 id), 0, bondHdr1, 0, true, (freeNode (st (bond1 id)).start).get (by decide +kernel), by unfold BondTold; decide +kernel⟩,
    ⟨st (bond1 id), 0, bondHdr1, 0, false, by unfold BondTold; decide +kernel⟩,
    ⟨st (bond1 id), 0, bondHdr1, by unfold BondTold; decide +kernel⟩,
    ⟨st (bond1 id), 0, bondHdr1, by decide +kernel⟩,
    ⟨st (bond1 fun x => { x with ch := .joining }), 0, by decide +kernel⟩,
    ⟨st (bond1 fun x => { x with ch := .active }), 0, 1, by decide +kernel⟩,
    ⟨st world, 0, 1, by decide +kernel⟩,
    ⟨st (onBond (bond1 id) fun b => { b with outs := [out1 4] }), 1, 0, ((st (onBond (bond1 id) fun b =>
      { b with outs := [out1 4] })).start.acc.bond.outs.find? (fun o => o.type == 1 && o.chan == 0)).get (by decide +kernel), by decide +kernel⟩,
    ⟨st (onBond (bond1 id) fun b => { b with outs := [out1 5] }), 1, 0, ((st (onBond (bond1 id) fun b =>
      { b with outs := [out1 5] })).start.acc.bond.outs.find? (fun o => o.type == 1 && o.chan == 0)).get (by decide +kernel), by decide +kernel⟩,
    ⟨st (onBond (bond1 fun x => { x with ch := .active }) fun b => { b with st := .bonded }), 0, { frag0 with seq := 255 }, by decide +kernel⟩,
    ⟨st (onBond (bond1 fun x => { x with ch := .active }) fun b => { b with st := .bonded }), 0, { frag0 with verOk := false }, by decide +kernel⟩,
    ⟨st world, 0, by decide +kernel⟩,
    ⟨st (onBond (bond1 id) fun b => { b with held := [held1] }), 0, ((nextHeld (st (onBond (bond1 id) fun b =>
      { b with held := [held1] })).start).get (by decide +kernel)).1, ((nextHeld (st (onBond (bond1 id) fun b =>
      { b with held := [held1] })).start).get (by decide +kernel)).2, by decide +kernel⟩⟩

theorem witness_BurstEventsComplete :
    (∃ (s : State) (slice : Nat) (g : GemIn), (slice < 4 ∧ (sliceOf s.start slice).st = .o5 ∧ domOn s.start (4 + slice) = true ∧ (sliceOf s.start
      slice).asleep = false ∧ s.start.acc.cfg.native = false ∧ s.start.pwr.season ≠ .winter ∧ g.port ≠ (sliceOf s.start slice).onu ∧ g.port ∈ (sliceOf
      s.start slice).gem ∧ g.keyIdx = none))
    ∧ (∃ (s : State) (slice : Nat) (g : GemIn), (slice < 4 ∧ (sliceOf s.start slice).st = .o5 ∧ domOn s.start (4 + slice) = true ∧ (sliceOf s.start
      slice).asleep = false ∧ s.start.acc.cfg.native = false ∧ g.port ≠ (sliceOf s.start slice).onu ∧ g.port ∉ (sliceOf s.start slice).gem))
    ∧ (∃ (s : State) (slice : Nat) (port : Nat) (r : _), (tget (sliceOf s.start slice).reasm port = some r ∧ r.frame + 2 ≤ (sliceOf s.start
      slice).frame))
    ∧ (∃ (s : State) (slice : Nat) (lost : Bool), (slice < 4 ∧ (sliceOf s.start slice).sync = true ∧ (sliceOf s.start slice).asleep = false ∧ domOn
      s.start (4 + slice) = true ∧ (sliceOf s.start slice).st ≠ .disabled ∧ lost = true))
    ∧ (∃ (s : State) (slice : Nat) (lost : Bool), (slice < 4 ∧ (sliceOf s.start slice).sync = true ∧ (sliceOf s.start slice).asleep = false ∧ domOn
      s.start (4 + slice) = true ∧ (sliceOf s.start slice).st ≠ .disabled ∧ lost = false))
    ∧ (∃ (s : State) (slice : Nat) (b : _) (rest : _), (slice < 4 ∧ domOn s.start (4 + slice) = true ∧ (sliceOf s.start slice).ch = .out ∧ (sliceOf
      s.start slice).bursts = b :: rest ∧ b.parts = none ∧ burstServed (sliceOf s.start slice) b = false))
    ∧ (∃ (s : State) (slice : Nat) (b : _) (rest : _), (slice < 4 ∧ domOn s.start (4 + slice) = true ∧ (sliceOf s.start slice).ch = .out ∧ (sliceOf
      s.start slice).bursts = b :: rest ∧ b.parts = none ∧ burstServed (sliceOf s.start slice) b = true))
    ∧ (∃ (s : State) (slice : Nat) (stamp : Nat) (b : _) (rest : _) (ps : _), (slice < 4 ∧ domOn s.start (4 + slice) = true ∧ (sliceOf s.start
      slice).bursts = b :: rest ∧ b.parts = some ps ∧ burstServed (sliceOf s.start slice) b = true ∧ spareRuns s.start slice = false ∧ gaspSent
      (sliceOf (ps.foldl (fun d p => partSent d slice stamp p) (emit (onSlice s.start slice (fun x => { x with bursts := rest })) .burst slice
      (burstTimes s.start (sliceOf s.start slice) b ps ++ (ps.map (fun p => p.sizes.map (fun x => (x : Int)))).flatten))) slice) b = false))
    ∧ (∃ (s : State) (slice : Nat) (b : _) (rest : _), (slice < 4 ∧ domOn s.start (4 + slice) = true ∧ (sliceOf s.start slice).bursts = b :: rest ∧
      b.parts = none)) :=
  ⟨⟨st (slice0 .o5 fun x => { x with gem := [16] }), 0, gem0, by decide +kernel⟩,
    ⟨st (slice0 .o5 id), 0, gem0, by decide +kernel⟩,
    ⟨st (slice0 .o5 fun x => { x with reasm := [(16, { data := [], frame := 0 })], frame := 2 }), 0, 16, (tget (sliceOf (st (slice0 .o5 fun x =>
      { x with reasm := [(16, { data := [], frame := 0 })], frame := 2 })).start 0).reasm 16).get (by decide +kernel), by decide +kernel⟩,
    ⟨st (slice0 .o5 id), 0, true, by decide +kernel⟩,
    ⟨st (slice0 .o5 id), 0, false, by decide +kernel⟩,
    ⟨st (slice0 .o7 fun x => { x with bursts := [burst1] }), 0, burst1, [], by decide +kernel⟩,
    ⟨st (slice0 .o5 fun x => { x with bursts := [burst1] }), 0, burst1, [], by decide +kernel⟩,
    ⟨st (slice0 .o5 fun x => { x with bursts := [{ burst1 with parts := some [] }] }), 0, 0, { burst1 with parts := some [] }, [], [], by
      decide +kernel⟩,
    ⟨st (slice0 .o5 fun x => { x with bursts := [burst1] }), 0, burst1, [], by decide +kernel⟩⟩

theorem witness_ClientPortEventsComplete :
    (∃ (s : State) (port : Nat) (f : FrameIn), (portUp s.start port = true ∧ domOn s.start 14 = true ∧ f.macsec = .untagged ∧ f.pcsErr = false ∧
      f.bytes.length + 4 ≤ 63))
    ∧ (∃ (s : State) (port : Nat) (f : FrameIn), (portUp s.start port = true ∧ domOn s.start 14 = true ∧ f.macsec = .untagged ∧ f.pcsErr = false ∧ 63 <
      f.bytes.length + 4 ∧ (portOf s.start port).f.maxFrame < f.bytes.length + 4 ∧ beAt f.bytes 12 2 = 0x8808))
    ∧ (∃ (s : State) (port : Nat) (f : FrameIn), (portUp s.start port = true ∧ domOn s.start 14 = true ∧ f.macsec = .untagged ∧ f.pcsErr = false ∧
      f.fcsOk = true ∧ 63 < f.bytes.length + 4 ∧ f.bytes.length + 4 ≤ (portOf s.start port).f.maxFrame ∧ beAt f.bytes 12 2 = 0x8808))
    ∧ (∃ (s : State) (port : Nat) (f : FrameIn), (portUp s.start port = true ∧ domOn s.start 14 = true ∧ f.macsec = .untagged ∧ f.pcsErr = false ∧
      f.fcsOk = true ∧ 63 < f.bytes.length + 4 ∧ f.bytes.length + 4 ≤ (portOf s.start port).f.maxFrame ∧ beAt f.bytes 12 2 ≠ 0x8808 ∧ beAt f.bytes 0 6
      = 0x0180C200000E))
    ∧ (∃ (s : State) (port : Nat) (f : FrameIn), (portUp s.start port = true ∧ domOn s.start 14 = true ∧ f.macsec = .untagged ∧ f.pcsErr = false ∧
      f.fcsOk = true ∧ 63 < f.bytes.length + 4 ∧ f.bytes.length + 4 ≤ (portOf s.start port).f.maxFrame ∧ beAt f.bytes 12 2 ≠ 0x8808 ∧ beAt f.bytes 0 6
      ≠ 0x0180C200000E ∧ addrAccepted (portOf (countGood s.start port 0 8 (f.bytes.length + 4) f.bytes) port) f.bytes = false))
    ∧ (∃ (s : State) (port : Nat) (f : FrameIn), (portUp s.start port = true ∧ domOn s.start 14 = true ∧ f.macsec = .untagged ∧ f.pcsErr = false ∧
      f.fcsOk = true ∧ 63 < f.bytes.length + 4 ∧ f.bytes.length + 4 ≤ (portOf s.start port).f.maxFrame ∧ beAt f.bytes 12 2 ≠ 0x8808 ∧ beAt f.bytes 0 6
      ≠ 0x0180C200000E ∧ addrAccepted (portOf (countGood s.start port 0 8 (f.bytes.length + 4) f.bytes) port) f.bytes = true ∧ (portOf (countGood
      s.start port 0 8 (f.bytes.length + 4) f.bytes) port).macEn = false))
    ∧ (∃ (s : State) (late : Bool) (k : _), ((portOf s.start 4).csma.frame = some k ∧ (portOf s.start 4).csma.waiting = false ∧ halfDuplex s.start 4 =
      true ∧ late = true))
    ∧ (∃ (s : State) (late : Bool) (k : _), ((portOf s.start 4).csma.frame = some k ∧ (portOf s.start 4).csma.waiting = false ∧ halfDuplex s.start 4 =
      true ∧ late = false ∧ 16 ≤ (portOf s.start 4).csma.collisions + 1))
    ∧ (∃ (s : State) (late : Bool) (k : _), ((portOf s.start 4).csma.frame = some k ∧ (portOf s.start 4).csma.waiting = false ∧ halfDuplex s.start 4 =
      true ∧ late = false ∧ (portOf s.start 4).csma.collisions + 1 < 16))
    ∧ (∃ (s : State) (k : _), ((portOf s.start 4).csma.frame = some k ∧ (portOf s.start 4).csma.waiting = true))
    ∧ (∃ (s : State) (port : Nat) (now : Nat) (q : _) (e : _), (portUp s.start port = true ∧ deviceQueue (emit s.start .lldp port [((portOf s.start
      port).f.lpiRxTw : Int)]) (512 + port) now = some (q, e)))
    ∧ (∃ (s : State) (port : Nat) (up : Bool), (port ≤ 4 ∧ up = true ∧ portProvided s.start port = true ∧ portLit s.start port = true ∧ (portOf s.start
      port).f.enable = true ∧ (portOf s.start port).link = false))
    ∧ (∃ (s : State) (port : Nat) (up : Bool), (port ≤ 4 ∧ up = false ∧ (portOf s.start port).link = true))
    ∧ (∃ (s : State) (speed : Nat), ((portOf s.start 4).f.svcAuto = true ∧ portLit s.start 4 = true ∧ (portOf s.start 4).f.enable = true ∧ speed ≤ 2))
    ∧ (∃ (s : State), (portOf s.start 4).f.svcAuto = false)
    ∧ (∃ (s : State) (port : Nat) (received : Bool), (portUp s.start port = true ∧ received = true))
    ∧ (∃ (s : State) (port : Nat) (received : Bool), (portUp s.start port = true ∧ received = false ∧ (portOf s.start port).f.lpiEn = true ∧
      lpiSupported s.start port = true ∧ (portOf s.start port).lpiTx = false ∧ rootOccupancy s.start (512 + port) = 0 ∧ (portOf s.start
      port).csma.frame = none ∧ resolvedTw s.start port ≤ (portOf s.start port).f.lpiTwMax))
    ∧ (∃ (s : State) (port : Nat) (received : Bool), (portUp s.start port = true ∧ received = false ∧ (portOf s.start port).f.lpiEn = true ∧
      lpiSupported s.start port = true ∧ (portOf s.start port).lpiTx = false ∧ rootOccupancy s.start (512 + port) = 0 ∧ (portOf s.start
      port).csma.frame = none ∧ (portOf s.start port).f.lpiTwMax < resolvedTw s.start port))
    ∧ (∃ (s : State) (port : Nat), (portOf s.start port).lpiTx = true)
    ∧ (∃ (s : State) (port : Nat), (port ≤ 4 ∧ domOn s.start 38 = true ∧ domOn s.start (if port < 4 then 10 else 13) = true ∧ portLit s.start port =
      true ∧ bar0Answers s.start = true))
    ∧ (∃ (s : State) (port : Nat) (i : Nat), (port ≤ 4 ∧ i < 64 ∧ domOn s.start (if port < 4 then 10 else 13) = true ∧ bar0Answers s.start = true))
    ∧ (∃ (port : Nat) (newSak : Bool), (port < 4 ∧ newSak = false))
    ∧ (∃ (s : State) (port : Nat) (newSak : Bool) (h : _), (port < 4 ∧ newSak = true ∧ s.start.fold.guard.rngOk = true ∧ domOn s.start 1 = true ∧ tfree
      s.start.fold.sas 0 24576 = some h)) :=
  ⟨⟨st (portW 0 id), 0, { frame0 with bytes := List.replicate 40 0 }, by decide +kernel⟩,
    ⟨st (portW 0 id), 0, { frame0 with bytes := List.replicate 12 0 ++ [0x88, 0x08] ++ List.replicate 1600 0 }, by decide +kernel⟩,
    ⟨st (portW 0 id), 0, { frame0 with bytes := List.replicate 12 0 ++ [0x88, 0x08] ++ List.replicate 50 0 }, by decide +kernel⟩,
    ⟨st (portW 0 id), 0, { frame0 with bytes := [1, 0x80, 0xC2, 0, 0, 0x0E] ++ List.replicate 60 0 }, by decide +kernel⟩,
    ⟨st (portW 0 id), 0, frame0, by decide +kernel⟩,
    ⟨st (portW 0 fun p => { p with f := { port0 with promisc := true } }), 0, frame0, by decide +kernel⟩,
    ⟨st (portW 4 fun p => { p with duplex := false, csma := csma0 }), true, ((portOf (st (portW 4 fun p =>
      { p with duplex := false, csma := csma0 })).start 4).csma.frame).get (by decide +kernel), by decide +kernel⟩,
    ⟨st (portW 4 fun p => { p with duplex := false, csma := { csma0 with collisions := 15 } }), false, ((portOf (st (portW 4 fun p =>
      { p with duplex := false, csma := { csma0 with collisions := 15 } })).start 4).csma.frame).get (by decide +kernel), by decide +kernel⟩,
    ⟨st (portW 4 fun p => { p with duplex := false, csma := csma0 }), false, ((portOf (st (portW 4 fun p =>
      { p with duplex := false, csma := csma0 })).start 4).csma.frame).get (by decide +kernel), by decide +kernel⟩,
    ⟨st (portW 4 fun p => { p with csma := { csma0 with waiting := true } }), ((portOf (st (portW 4 fun p =>
      { p with csma := { csma0 with waiting := true } })).start 4).csma.frame).get (by decide +kernel), by decide +kernel⟩,
    ⟨st (portW 0 id), 0, 0, ((deviceQueue (emit (st (portW 0 id)).start .lldp 0 [((portOf (st (portW 0 id)).start 0).f.lpiRxTw : Int)]) (512 + 0)
      0).get (by decide +kernel)).1, ((deviceQueue (emit (st (portW 0 id)).start .lldp 0 [((portOf (st (portW 0 id)).start 0).f.lpiRxTw : Int)]) (512
      + 0) 0).get (by decide +kernel)).2, by decide +kernel⟩,
    ⟨st (portW 0 fun p => { p with link := false }), 0, true, by decide +kernel⟩,
    ⟨st (portW 0 id), 0, false, by decide +kernel⟩,
    ⟨st (portW 4 id), 0, by decide +kernel⟩,
    ⟨st (portW 4 fun p => { p with f := { port0 with svcAuto := false } }), by decide +kernel⟩,
    ⟨st (portW 0 id), 0, true, by decide +kernel⟩,
    ⟨st (portLpi (Config.defaultTw 4 2 + 5)), 4, false, ⟨by decide +kernel, rfl, rfl, by decide +kernel, by decide +kernel, by decide +kernel, by
      decide +kernel, Nat.max_le.mpr ⟨Nat.le_add_right _ _, Nat.le_add_left _ _⟩⟩⟩,
    ⟨st (portLpi 0), 4, false, ⟨by decide +kernel, rfl, rfl, by decide +kernel, by decide +kernel, by decide +kernel, by decide +kernel,
      Nat.lt_of_lt_of_le (by decide) (Nat.le_max_right _ _)⟩⟩,
    ⟨st (portW 0 fun p => { p with lpiTx := true }), 0, by decide +kernel⟩,
    ⟨st world, 0, by decide +kernel⟩,
    ⟨st world, 0, 0, by decide +kernel⟩,
    ⟨0, false, by decide +kernel⟩,
    ⟨st (onGuard (domW world) fun g => { g with rngOk := true }), 0, true, (tfree (st (onGuard (domW world) fun g =>
      { g with rngOk := true })).start.fold.sas 0 24576).get (by decide +kernel), by decide +kernel⟩⟩

theorem witness_QueueEventsComplete :
    (∃ (s : State), (∀ e ∈ s.start.parse.frags, (s.start.bell.tick - e.last).toNat ≤ s.start.parse.age))
    ∧ (∃ (s : State) (q : Nat) (x : _) (b : _), (tget s.start.tm.queues q = some x ∧ x.freeAt = some b ∧ b.toNat ≤ s.start.bell.tick.toNat))
    ∧ (∃ (s : State) (q : Nat) (x : _) (b : _), (tget s.start.tm.queues q = some x ∧ x.freeAt = some b ∧ s.start.bell.tick.toNat < b.toNat))
    ∧ (∃ (s : State) (go : Bool) (all : Bool), (domOn s.start 15 = true ∧ bar0Answers s.start = true ∧ go = true ∧ all = false))
    ∧ (∃ (s : State) (all : Bool), (domOn s.start 15 = true ∧ bar0Answers s.start = true ∧ all = true))
    ∧ (∃ (s : State) (root : Nat) (op : TxOp) (cell : Nat) (find : EccFind) (e : _), (512 ≤ root ∧ root ≤ 516 ∧ portMaySend s.start (root - 512) = true
      ∧ domOn s.start 15 = true ∧ eccRead s.start (headClass s.start root op.now cell) cell find = (.clean, e)))
    ∧ (∃ (s : State) (root : Nat) (op : TxOp) (cell : Nat) (find : EccFind) (e : _), (root = 524 ∨ root = 525) ∧ cascUp s.start (root - 524) = true ∧
      domOn s.start 39 = true ∧ domOn s.start 15 = true ∧ eccRead s.start (headClass s.start root op.now cell) cell find = (.clean, e))
    ∧ (∃ (s : State) (root : Nat) (op : TxOp) (cell : Nat) (find : EccFind) (e : _), (512 ≤ root ∧ root ≤ 516 ∧ portMaySend s.start (root - 512) = true
      ∧ domOn s.start 15 = true ∧ eccRead s.start (headClass s.start root op.now cell) cell find = (.uncorrectable, e))) :=
  ⟨⟨st world, by decide +kernel⟩,
    ⟨st (drainW 3 3), 64, (tget (st (drainW 3 3)).start.tm.queues 64).get (by decide +kernel), ((((tget (st (drainW 3 3)).start.tm.queues 64).get
      (by decide +kernel))).freeAt).get (by decide +kernel), by decide +kernel⟩,
    ⟨st (drainW 2 3), 64, (tget (st (drainW 2 3)).start.tm.queues 64).get (by decide +kernel), ((((tget (st (drainW 2 3)).start.tm.queues 64).get
      (by decide +kernel))).freeAt).get (by decide +kernel), by decide +kernel⟩,
    ⟨st world, true, false, by decide +kernel⟩,
    ⟨st world, true, by decide +kernel⟩,
    ⟨st (portW 0 id), 512, tx0, 0, .clean, (((eccRead (st (portW 0 id)).start (headClass (st (portW 0 id)).start 512 tx0.now 0) 0 (.clean)))).2, by
      decide +kernel⟩,
    ⟨st (cascW .up id), 524, tx0, 0, .clean, (eccRead (st (cascW .up id)).start (headClass (st (cascW .up id)).start 524 tx0.now 0) 0 .clean).2, by
      decide +kernel⟩,
    ⟨st (portW 0 id), 512, tx0, 0, .uncorrectable, (((eccRead (st (portW 0 id)).start (headClass (st (portW 0 id)).start 512 tx0.now 0) 0
      (.uncorrectable)))).2, by decide +kernel⟩⟩

theorem witness_CascadePortEventsComplete :
    (∃ (s : State) (h : CascHdr) (domain : Nat) (dev : Nat) (rank : Nat), (CascHears s.start h .control (ctlBytes (.hello domain dev rank)) ∧
      (cascPort (cascGot h true s.start) h.port).st = .hello ∧ domain = s.start.casc.domain ∧ dev ≠ s.start.casc.device ∧ 3 ≤ (cascPort (cascGot h
      true s.start) h.port).hellos + 1))
    ∧ (∃ (s : State) (h : CascHdr) (domain : Nat) (dev : Nat) (rank : Nat), (CascHears s.start h .control (ctlBytes (.hello domain dev rank)) ∧
      (cascPort (cascGot h true s.start) h.port).st = .hello ∧ domain = s.start.casc.domain ∧ dev ≠ s.start.casc.device ∧ (cascPort (cascGot h true
      s.start) h.port).hellos + 1 < 3))
    ∧ (∃ (s : State) (h : CascHdr) (domain : Nat) (dev : Nat) (rank : Nat), (CascHears s.start h .control (ctlBytes (.hello domain dev rank)) ∧
      ((cascPort (cascGot h true s.start) h.port).st = .hello ∨ (cascPort (cascGot h true s.start) h.port).st = .up) ∧ domain ≠ s.start.casc.domain))
    ∧ (∃ (s : State) (h : CascHdr) (domain : Nat) (dev : Nat) (rank : Nat), (CascHears s.start h .control (ctlBytes (.hello domain dev rank)) ∧
      ((cascPort (cascGot h true s.start) h.port).st = .hello ∨ (cascPort (cascGot h true s.start) h.port).st = .up) ∧ domain = s.start.casc.domain ∧
      dev = s.start.casc.device))
    ∧ (∃ (s : State) (h : CascHdr) (hops : List Nat), CascHears s.start h .control (ctlBytes (.topo hops)))
    ∧ (∃ (s : State) (h : CascHdr), (CascHears s.start h .control (ctlBytes (.keepalive)) ∧ h.dst = s.start.casc.device))
    ∧ (∃ (s : State) (h : CascHdr), (CascHears s.start h .control (ctlBytes (.keepalive)) ∧ h.dst ≠ s.start.casc.device ∧ h.src ≠ s.start.casc.device ∧
      h.hops ≠ 0 ∧ cascUp (cascGot h true s.start) (1 - h.port) = true))
    ∧ (∃ (s : State) (h : CascHdr), (CascHears s.start h .control (ctlBytes (.keepalive)) ∧ h.dst ≠ s.start.casc.device ∧ h.src ≠ s.start.casc.device ∧
      h.hops = 0 ∧ h.dst ≠ 0xFF))
    ∧ (∃ (s : State) (h : CascHdr), (h.port ≤ 1 ∧ domOn s.start 39 = true ∧ (cascPort s.start h.port).st ≠ .down ∧ crcHolds h .control (ctlBytes
      .keepalive) = false))
    ∧ (∃ (s : State) (h : CascHdr), (h.port ≤ 1 ∧ domOn s.start 39 = true ∧ (cascPort s.start h.port).st ≠ .down ∧ crcHolds h .control (ctlBytes
      .keepalive) = true ∧ tagHolds s.start h .control (ctlBytes .keepalive) = false))
    ∧ (∃ (s : State) (h : CascHdr) (port : Nat) (lane : Nat), (CascHears s.start h .control (ctlBytes (.laneCopy port lane)) ∧ h.dst =
      s.start.casc.device ∧ lane ≤ 7))
    ∧ (∃ (s : State), (domOn s.start 39 = true ∧ ((cascPort s.start 0).st = .hello ∨ (cascPort s.start 0).st = .up) ∧ (cascPort s.start 1).st = .down))
    ∧ (∃ (s : State), (domOn s.start 39 = true ∧ (cascPort s.start 0).st = .down ∧ (cascPort s.start 1).st = .up))
    ∧ (∃ (s : State), (domOn s.start 39 = true ∧ ((cascPort s.start 0).st = .aligning ∨ (cascPort s.start 0).st = .hello) ∧ (cascPort s.start 1).st =
      .down))
    ∧ (∃ (s : State), domOn s.start 39 = true)
    ∧ (∃ (s : State) (port : Nat), (port ≤ 1 ∧ (cascPort s.start port).st = .up))
    ∧ (∃ (s : State) (port : Nat), (port ≤ 1 ∧ (cascPort s.start port).st = .down ∧ ((cascPort s.start port).reason = 3 ∨ (cascPort s.start
      port).reason = 4) ∧ getField s.start.casc.portEn port 1 = 1 ∧ (cascPort s.start port).downAt + 1024 ≤ s.start.bell.tick))
    ∧ (∃ (s : State) (port : Nat), (port ≤ 1 ∧ (cascPort s.start port).st = .down ∧ ((cascPort s.start port).reason = 1 ∨ (cascPort s.start
      port).reason = 2)))
    ∧ (∃ (s : State) (h : CascHdr) (bytes : List Byte), (CascHears s.start h .data bytes ∧ cascUp s.start h.port = true ∧ h.dst = s.start.casc.device ∧
      domOn s.start 14 = true))
    ∧ (∃ (s : State) (h : CascHdr) (pay : MediaPay), (CascHears s.start h .media (mediaBytes pay) ∧ cascUp s.start h.port = true ∧ h.dst =
      s.start.casc.device))
    ∧ (∃ (s : State) (h : CascHdr) (pay : MediaPay) (tag : _) (tick : _) (ins : _), (CascHears s.start h .media (mediaBytes pay) ∧ pay = .contribution
      tag tick ins ∧ tick ≠ captureTick s.start 2 ∧ cascUp s.start h.port = true ∧ h.dst = s.start.casc.device)) :=
  ⟨⟨st (cascW .hello fun p => { p with hellos := 2 }), cascOf (st (cascW .hello fun p => { p with hellos := 2 })).start .control 1 0 0 (ctlBytes
      (.hello 0 1 0)), 0, 1, 0, ⟨cascOf_hears (by decide +kernel) (by decide +kernel), by decide +kernel⟩⟩,
    ⟨st (cascW .hello id), cascOf (st (cascW .hello id)).start .control 1 0 0 (ctlBytes (.hello 0 1 0)), 0, 1, 0, ⟨cascOf_hears (by decide +kernel)
      (by decide +kernel), by decide +kernel⟩⟩,
    ⟨st (cascW .hello id), cascOf (st (cascW .hello id)).start .control 1 0 0 (ctlBytes (.hello 9 0 0)), 9, 0, 0, ⟨cascOf_hears (by decide +kernel)
      (by decide +kernel), by decide +kernel⟩⟩,
    ⟨st (cascW .up id), cascOf (st (cascW .up id)).start .control 1 0 0 (ctlBytes (.hello 0 0 0)), 0, 0, 0, ⟨cascOf_hears (by decide +kernel)
      (by decide +kernel), by decide +kernel⟩⟩,
    ⟨st (cascW .up id), cascOf (st (cascW .up id)).start .control 1 0 0 (ctlBytes (.topo ([]))), [], cascOf_hears (by decide +kernel)
      (by decide +kernel)⟩,
    ⟨st (cascW .up id), cascOf (st (cascW .up id)).start .control 1 0 0 (ctlBytes (.keepalive)), ⟨cascOf_hears (by decide +kernel)
      (by decide +kernel), by decide +kernel⟩⟩,
    ⟨st (cascW .up id), cascOf (st (cascW .up id)).start .control 1 2 3 (ctlBytes (.keepalive)), ⟨cascOf_hears (by decide +kernel)
      (by decide +kernel), by decide +kernel⟩⟩,
    ⟨st (cascW .up id), cascOf (st (cascW .up id)).start .control 1 2 0 (ctlBytes (.keepalive)), ⟨cascOf_hears (by decide +kernel)
      (by decide +kernel), by decide +kernel⟩⟩,
    ⟨st (cascW .up id), { casc17 with crc := 0 }, by decide +kernel⟩,
    ⟨st (cascW .up id), casc17, ⟨by decide, by decide +kernel, by decide +kernel, beq_self_eq_true _, tag_long rfl (by decide)⟩⟩,
    ⟨st (cascW .up id), cascOf (st (cascW .up id)).start .control 1 0 0 (ctlBytes (.laneCopy 0 0)), 0, 0, ⟨cascOf_hears (by decide +kernel)
      (by decide +kernel), by decide +kernel⟩⟩,
    ⟨st (onCascPort (cascW .up id) 1 fun p => { p with st := .down }), by decide +kernel⟩,
    ⟨st (onCascPort (cascW .up id) 0 fun p => { p with st := .down }), by decide +kernel⟩,
    ⟨st (onCascPort (cascW .hello id) 1 fun p => { p with st := .down }), by decide +kernel⟩,
    ⟨st world, by decide +kernel⟩,
    ⟨st (cascW .up id), 0, by decide +kernel⟩,
    ⟨st (onBell (onCasc (cascW .down fun p => { p with reason := 3 }) fun c => { c with portEn := 3 }) fun b => { b with tick := 1024 }), 0, by
      decide +kernel⟩,
    ⟨st (cascW .down fun p => { p with reason := 1 }), 0, by decide +kernel⟩,
    ⟨st (cascW .up id), cascOf (st (cascW .up id)).start .data 1 0 0 ([]), [], ⟨cascOf_hears (by decide +kernel) (by decide +kernel), by
      decide +kernel⟩⟩,
    ⟨st (cascW .up id), cascOf (st (cascW .up id)).start .media 1 0 0 (mediaBytes (.shadowCrc 0 0 0 0)), .shadowCrc 0 0 0 0, ⟨cascOf_hears
      (by decide +kernel) (by decide +kernel), by decide +kernel⟩⟩,
    ⟨st (cascW .up id), cascOf (st (cascW .up id)).start .media 1 0 0 (mediaBytes (.contribution 0 1 [])), .contribution 0 1 [], 0, 1, [],
      ⟨cascOf_hears (by decide +kernel) (by decide +kernel), by decide +kernel⟩⟩⟩

theorem witness_TwinAndDigestEventsComplete :
    (∃ (s : State) (z : _) (p : _), (domOn s.start 39 = true ∧ s.start.casc.twin = some z ∧ twinPaths s.start = [p]))
    ∧ (∃ (s : State), (domOn s.start 39 = true ∧ s.start.casc.twin = none))
    ∧ (∃ (s : State) (h : CascHdr) (state : Nat), (CascHears s.start h .control (ctlBytes (.twinBeat h.src state)) ∧ h.dst = s.start.casc.device ∧
      s.start.casc.twin = some h.src ∧ state = 2 ∧ s.start.casc.twinSt ≠ .tookOver ∧ s.start.casc.twinSt ≠ .returned))
    ∧ (∃ (s : State) (h : CascHdr) (state : Nat), (CascHears s.start h .control (ctlBytes (.twinBeat h.src state)) ∧ h.dst = s.start.casc.device ∧
      state ≠ 2))
    ∧ (∃ (s : State) (h : CascHdr) (taken : Nat) (home : Nat), (CascHears s.start h .control (ctlBytes (.takeover taken home)) ∧ h.dst =
      s.start.casc.device ∧ taken ≠ s.start.casc.device))
    ∧ (∃ (s : State) (h : CascHdr) (taken : Nat) (home : Nat), (CascHears s.start h .control (ctlBytes (.takeover taken home)) ∧ h.dst =
      s.start.casc.device ∧ taken = s.start.casc.device ∧ s.start.casc.twinSt = .tookOver))
    ∧ (∃ (s : State), (s.start.casc.twin ≠ none ∧ s.start.casc.twinSt ≠ .tookOver))
    ∧ (∃ (s : State), (s.start.casc.lost = true ∧ s.start.casc.twinSt ≠ .tookOver))
    ∧ (∃ (s : State), (s.start.casc.lost = true ∧ s.start.casc.twin ≠ none ∧ s.start.casc.twinSt ≠ .tookOver))
    ∧ (∃ (s : State) (h : CascHdr) (mask : Nat) (digest : BitVec 64) (epoch : Word), (CascHears s.start h .control (ctlBytes (.digest mask digest
      epoch)) ∧ h.dst = s.start.casc.device ∧ h.src < 16))
    ∧ (∃ (s : State), (s.start.integ.busy = true ∧ domOn s.start 2 = true ∧ s.start.integ.driftHeld = none))
    ∧ (∃ (s : State), (domOn s.start 2 = true ∧ s.start.integ.busy = true))
    ∧ (∃ (s : State) (drifted : Tbl (BitVec 64)), (domOn s.start 2 = true ∧ s.start.integ.busy = false ∧ (∀ e ∈ drifted, e.1 < 17 → tgetD
      s.start.integ.blocks e.1 0 = e.2)))
    ∧ (∃ (s : State) (drifted : Tbl (BitVec 64)) (b : _) (v : _), (domOn s.start 2 = true ∧ s.start.integ.busy = false ∧ drifted = [(b, v)] ∧ b < 17 ∧
      tgetD s.start.integ.blocks b 0 ≠ v)) :=
  ⟨⟨st (onCascPort (twinW []) 0 fun p => { p with peer := 1 }), ((st (onCascPort (twinW []) 0 fun p => { p with peer := 1 })).start.casc.twin).get
      (by decide +kernel), 0, by decide +kernel⟩,
    ⟨st world, by decide +kernel⟩,
    ⟨st (twinW []), cascOf (st (twinW [])).start .control 1 0 0 (ctlBytes (.twinBeat 1 2)), 2, ⟨cascOf_hears (by decide +kernel)
      (by decide +kernel), by decide +kernel⟩⟩,
    ⟨st (twinW []), cascOf (st (twinW [])).start .control 1 0 0 (ctlBytes (.twinBeat 1 0)), 0, ⟨cascOf_hears (by decide +kernel)
      (by decide +kernel), by decide +kernel⟩⟩,
    ⟨st (twinW []), cascOf (st (twinW [])).start .control 1 0 0 (ctlBytes (.takeover 1 0)), 1, 0, ⟨cascOf_hears (by decide +kernel)
      (by decide +kernel), by decide +kernel⟩⟩,
    ⟨st (onCasc (twinW []) fun c => { c with twinSt := .tookOver }), cascOf (st (onCasc (twinW []) fun c => { c with twinSt := .tookOver })).start
      .control 1 0 0 (ctlBytes (.takeover 0 0)), 0, 0, ⟨cascOf_hears (by decide +kernel) (by decide +kernel), by decide +kernel⟩⟩,
    ⟨st (twinW []), by decide +kernel⟩,
    ⟨st (onCasc (cascW .up id) fun c => { c with lost := true }), by decide +kernel⟩,
    ⟨st (onCasc (twinW []) fun c => { c with lost := true }), by decide +kernel⟩,
    ⟨st (cascW .up id), cascOf (st (cascW .up id)).start .control 1 0 0 (ctlBytes (.digest 0 0 0)), 0, 0, 0, ⟨cascOf_hears (by decide +kernel)
      (by decide +kernel), by decide +kernel⟩⟩,
    ⟨st (onInteg (domW world) fun g => { g with busy := true }), by decide +kernel⟩,
    ⟨st (onInteg (domW world) fun g => { g with busy := true }), by decide +kernel⟩,
    ⟨st world, [], by decide +kernel⟩,
    ⟨st (domW world), [(3, 9)], 3, 9, by decide +kernel⟩⟩

theorem witness_ControlCoreEventsComplete :
    (∃ (s : State), (domOn s.start 2 = true ∧ s.start.aux.swapState ≠ 1))
    ∧ (∃ (s : State) (z : _) (c : _) (pick : _), (domOn s.start 2 = true ∧ s.start.aux.swapState ≠ 1 ∧ s.start.sys.staged = [z] ∧ z.change = .kervon c
      pick ∧ z.armed = false))
    ∧ (∃ (s : State), (domOn s.start 2 = true ∧ s.start.aux.swapState ≠ 1 ∧ s.start.sys.staged = []))
    ∧ (∃ (s : State) (z : _) (c : _) (pick : _) (e : _), (domOn s.start 2 = true ∧ s.start.aux.swapState ≠ 1 ∧ s.start.sys.staged = [z] ∧ z.change =
      .kervon c pick ∧ waits { dev := onSys s.start (fun y => { y with staged := [] }), busy := [], changed := false, kept := [] } z = false ∧
      destroys c = false ∧ settleNew c pick (postDone z (applyChange z (onSys s.start (fun y => { y with staged := [] }))).2 (applyChange z (onSys
      s.start (fun y => { y with staged := [] }))).1) = e))
    ∧ (∃ (s : State), (∀ r, r < 4 → ringReady (ringOf s.start r) = false) ∧ (∀ k, k < 8 → (sessOf s.start k).queue = []))
    ∧ (∃ (s : State) (r : _) (p : _), (r < 4 ∧ kServing s.start = true ∧ domOn s.start 38 = true ∧ ringReady (ringOf s.start r) = true ∧ tget (ringOf
      s.start r).slots (ringOf s.start r).sqHead = some p ∧ (∀ j, j < r → ringReady (ringOf s.start j) = false) ∧ (∀ j, r < j ∧ j < 4 → ringReady
      (ringOf (runQueued s.mem p (onRing s.start r (fun x => { x with sqHead := (x.sqHead + 1) % 256 }))) j) = false) ∧ (∀ k, k < 8 → (sessOf
      (runQueued s.mem p (onRing s.start r (fun x => { x with sqHead := (x.sqHead + 1) % 256 }))) k).queue = [])))
    ∧ (∃ (s : State) (k : _) (p : _) (rest : _), (k < 8 ∧ kServing s.start = true ∧ (sessOf s.start k).st = .opened ∧ (sessOf s.start k).queue = p ::
      rest ∧ (∀ r, r < 4 → ringReady (ringOf s.start r) = false) ∧ (∀ j, j < k → (sessOf s.start j).queue = []) ∧ (∀ j, k < j ∧ j < 8 → (sessOf
      (runQueued s.mem p (onSess s.start k (fun x => { x with queue := rest }))) j).queue = []))) :=
  ⟨⟨st world, by decide +kernel⟩,
    ⟨st (onSys (domW world) fun y => { y with staged := [{ { stg with change := .kervon (.timeRate 3) 0 } with armed := false }] }),
      { { stg with change := .kervon (.timeRate 3) 0 } with armed := false }, .timeRate 3, 0, by decide +kernel⟩,
    ⟨st world, by decide +kernel⟩,
    ⟨st (onSys (domW world) fun y => { y with staged := [{ stg with change := .kervon (.timeRate 3) 0 }] }),
      { stg with change := .kervon (.timeRate 3) 0 }, .timeRate 3, 0, settleNew (.timeRate 3) 0 (postDone
      { stg with change := .kervon (.timeRate 3) 0 } (applyChange { stg with change := .kervon (.timeRate 3) 0 } (onSys (st (onSys (domW world) fun y
      => { y with staged := [{ stg with change := .kervon (.timeRate 3) 0 }] })).start (fun y => { y with staged := [] }))).2 (applyChange
      { stg with change := .kervon (.timeRate 3) 0 } (onSys (st (onSys (domW world) fun y =>
      { y with staged := [{ stg with change := .kervon (.timeRate 3) 0 }] })).start (fun y => { y with staged := [] }))).1), by decide +kernel⟩,
    ⟨st world, by decide +kernel⟩,
    ⟨st (onRing (domW world) 1 fun x =>
      { x with en := true, sqTail := 1, slots := [(0, { hdr := { hdr0 with tr := .ring 1 }, cmd := .pwrQuery })] }), 1,
      { hdr := { hdr0 with tr := .ring 1 }, cmd := .pwrQuery }, ⟨by decide +kernel, by decide +kernel, by decide +kernel, by decide +kernel, by
      decide +kernel, by decide +kernel, mid_of (by decide +kernel), by decide +kernel⟩⟩,
    ⟨st (onSess (domW world) 2 fun x => { x with st := .opened, queue := [{ hdr := { hdr0 with tr := .session 2 }, cmd := .pwrQuery }] }), 2,
      { hdr := { hdr0 with tr := .session 2 }, cmd := .pwrQuery }, [], ⟨by decide +kernel, by decide +kernel, by decide +kernel, by decide +kernel, by
      decide +kernel, by decide +kernel, mid_of (by decide +kernel)⟩⟩⟩

theorem witness_EngineOperationsComplete :
    (∃ (s : State) (i : Issue) (acc : Nat), CanIssue s.start i (some (acc % 4)) (macSlot i.slot) false)
    ∧ (∃ (s : State) (i : Issue) (acc : Nat), CanIssue s.start i (some (acc % 4)) (macSlot i.slot) false)
    ∧ (∃ (s : State) (i : Issue) (acc : Nat), CanIssue s.start i (some (acc % 4)) (macSlot i.slot) false)
    ∧ (∃ (s : State) (i : Issue) (acc : Nat), CanIssue s.start i (some (acc % 4)) (macSlot i.slot) false)
    ∧ (∃ (s : State) (i : Issue) (acc : Nat), CanIssue s.start i (some (acc % 4)) (macSlot i.slot) false)
    ∧ (∃ (s : State) (i : Issue) (acc : Nat), (CanIssue s.start i none (aluSlot i.slot) false ∧ (∀ j, j < 16 → clampW 16 (scaleLane (regsOf s.start
      i).mcr (acc % 4) (laneAcc (rdAccMv (regsOf s.start i) acc) j)) = scaleLane (regsOf s.start i).mcr (acc % 4) (laneAcc (rdAccMv (regsOf s.start i)
      acc) j))))
    ∧ (∃ (s : State) (i : Issue), CanIssue s.start i none (aluSlot i.slot) false)
    ∧ (∃ (s : State) (i : Issue), CanIssue s.start i none (aluSlot i.slot) false)
    ∧ (∃ (s : State) (i : Issue), CanIssue s.start i none (aluSlot i.slot) false)
    ∧ (∃ (s : State) (i : Issue) (reg : LsReg) (addr : Addr) (find : EccFind) (e : _), (CanIssue s.start i none (lsSlot i.slot) false ∧ boundsFault
      (regsOf s.start i) addr (elems reg).1 (elems reg).2 (mayLoad (engOf s.start i.eng).core.shadowOn) = false ∧ localRead i.eng find (issued s.start
      i none) (((List.range (elems reg).1).map (fun j => elemAddr (regsOf s.start i) addr (elems reg).2 j / 8)).eraseDups) = (false, e)))
    ∧ (∃ (s : State) (i : Issue) (reg : LsReg) (addr : Addr), (CanIssue s.start i none (lsSlot i.slot) false ∧ boundsFault (regsOf s.start i) addr
      (elems reg).1 (elems reg).2 (mayStore (engOf s.start i.eng).core.shadowOn) = false))
    ∧ (∃ (s : State) (i : Issue) (reg : LsReg) (addr : Addr), (CanIssue s.start i none (lsSlot i.slot) false ∧ boundsFault (regsOf s.start i) addr
      (elems reg).1 (elems reg).2 (mayStore (engOf s.start i.eng).core.shadowOn) = true))
    ∧ (∃ (s : State) (i : Issue) (op : ScOp) (a : ScSrc) (b : ScSrc) (v : _), (CanIssue s.start i none (aluSlot i.slot) false ∧ scalarVal op (srcVal
      (regsOf s.start i) a) (srcVal (regsOf s.start i) b) = some v))
    ∧ (∃ (s : State) (i : Issue) (op : ScOp) (a : ScSrc) (b : ScSrc), (CanIssue s.start i none (aluSlot i.slot) false ∧ scalarVal op (srcVal (regsOf
      s.start i) a) (srcVal (regsOf s.start i) b) = none))
    ∧ (∃ (s : State) (i : Issue) (w : CtlWrite) (k : _) (src : _), (CanIssue s.start i none (aluSlot i.slot) false ∧ w = .cb k src))
    ∧ (∃ (s : State) (i : Issue) (w : CtlWrite) (k : _) (src : _), (CanIssue s.start i none (aluSlot i.slot) false ∧ w = .cl k src))
    ∧ (∃ (s : State) (i : Issue) (w : CtlWrite), (CanIssue s.start i none (aluSlot i.slot) false ∧ w = .clearSat))
    ∧ (∃ (s : State) (i : Issue), CanIssue s.start i none (aluSlot i.slot) false)
    ∧ (∃ (s : State) (i : Issue), CanIssue s.start i none (aluSlot i.slot) true)
    ∧ (∃ (s : State) (i : Issue), CanIssue s.start i none (aluSlot i.slot) true)
    ∧ (∃ (s : State) (i : Issue), CanIssue s.start i none (aluSlot i.slot) true)
    ∧ (∃ (line : Nat) (listeners : List (Nat × Nat)) (e : _) (n : _), (line < 4096 ∧ listeners = [(e, n)] ∧ e < 256 ∧ n < 32))
    ∧ (∃ (s : State) (i : Issue) (line : Nat) (listeners : List (Nat × Nat)) (e : _) (n : _), (CanIssue s.start i none (aluSlot i.slot) false ∧ line <
      4096 ∧ listeners = [(e, n)] ∧ e < 256 ∧ n < 32))
    ∧ (∃ (s : State) (eng : Nat) (kind : EngInt), (engRuns s.start eng = true ∧ (engOf s.start eng).core.shadowOn = false ∧ (engOf s.start eng).core.br
      = none ∧ wantsInterrupt (holdInterrupt kind (engOf s.start eng).core) = true))
    ∧ (∃ (s : State) (eng : Nat) (kind : EngInt), (engRuns s.start eng = true ∧ ((engOf s.start eng).core.shadowOn = true ∨ (engOf s.start eng).core.br
      ≠ none ∨ wantsInterrupt (holdInterrupt kind (engOf s.start eng).core) = false)))
    ∧ (∃ (s : State) (eng : Nat), (engRuns s.start eng = true ∧ ((engOf s.start eng).core.shadowOn = true ∨ (engOf s.start eng).core.br ≠ none)))
    ∧ (∃ (s : State) (eng : Nat) (finished : List Nat) (x : _) (l : _), (engRuns s.start eng = true ∧ (engOf s.start eng).kern.audioLeft.filter (fun z
      => !finished.contains z) = x :: l ∧ (∀ n, (engOf s.start eng).kern.running ≠ .audio n) ∧ ((engOf s.start eng).core.shadowOn = true ∨ (engOf
      s.start eng).core.br ≠ none))) :=
  ⟨⟨st world, iss0, 0, by unfold CanIssue; decide +kernel⟩,
    ⟨st world, iss0, 0, by unfold CanIssue; decide +kernel⟩,
    ⟨st world, iss0, 0, by unfold CanIssue; decide +kernel⟩,
    ⟨st world, iss0, 0, by unfold CanIssue; decide +kernel⟩,
    ⟨st world, iss0, 0, by unfold CanIssue; decide +kernel⟩,
    ⟨st world, { iss0 with slot := 3 }, 0, by unfold CanIssue; decide +kernel⟩,
    ⟨st world, { iss0 with slot := 3 }, by unfold CanIssue; decide +kernel⟩,
    ⟨st world, { iss0 with slot := 3 }, by unfold CanIssue; decide +kernel⟩,
    ⟨st world, { iss0 with slot := 3 }, by unfold CanIssue; decide +kernel⟩,
    ⟨st (engW 0x20000 id), { iss0 with slot := 2 }, .s 0, .plain 0, .clean, (((localRead ({ iss0 with slot := 2 }).eng (.clean) (issued (st (engW
      0x20000 id)).start ({ iss0 with slot := 2 }) none) (((List.range (elems (.s 0)).1).map (fun j => elemAddr (regsOf (st (engW 0x20000 id)).start
      ({ iss0 with slot := 2 })) (.plain 0) (elems (.s 0)).2 j / 8)).eraseDups)))).2, by unfold CanIssue; decide +kernel⟩,
    ⟨st (engW 0x20000 id), { iss0 with slot := 2 }, .s 0, .plain 0, by unfold CanIssue; decide +kernel⟩,
    ⟨st world, { iss0 with slot := 2 }, .s 0, .plain 0, by unfold CanIssue; decide +kernel⟩,
    ⟨st world, { iss0 with slot := 3 }, .add, .s 0, .s 0, 0, by unfold CanIssue; decide +kernel⟩,
    ⟨st world, { iss0 with slot := 3 }, .shl, .s 0, .imm 32, by unfold CanIssue; decide +kernel⟩,
    ⟨st world, { iss0 with slot := 3 }, .cb 0 0, 0, 0, by unfold CanIssue; decide +kernel⟩,
    ⟨st world, { iss0 with slot := 3 }, .cl 0 0, 0, 0, by unfold CanIssue; decide +kernel⟩,
    ⟨st world, { iss0 with slot := 3 }, .clearSat, by unfold CanIssue; decide +kernel⟩,
    ⟨st world, { iss0 with slot := 3 }, by unfold CanIssue; decide +kernel⟩,
    ⟨st world, { iss0 with slot := 3 }, by unfold CanIssue; decide +kernel⟩,
    ⟨st world, { iss0 with slot := 3 }, by unfold CanIssue; decide +kernel⟩,
    ⟨st world, { iss0 with slot := 3 }, by unfold CanIssue; decide +kernel⟩,
    ⟨0, [(0, 0)], 0, 0, by decide +kernel⟩,
    ⟨st world, { iss0 with slot := 3 }, 0, [(0, 0)], 0, 0, by unfold CanIssue; decide +kernel⟩,
    ⟨st world, 0, .bell, by decide +kernel⟩,
    ⟨st (engW 0 fun e => { e with core := { e.core with shadowOn := true } }), 0, .bell, by decide +kernel⟩,
    ⟨st (engW 0 fun e => { e with core := { e.core with shadowOn := true } }), 0, by decide +kernel⟩,
    ⟨st (engW 0 fun e => { e with core := { e.core with shadowOn := true }, kern := { e.kern with audioLeft := [7] } }), 0, [], 7, [], ⟨by
      decide +kernel, by decide +kernel, fun _ h => (nomatch h), by decide +kernel⟩⟩⟩

theorem witness_DroveEventsComplete :
    (∃ (s : State) (b : BurstIn) (c : _) (h : _) (x : _), (domOn s.start 2 = true ∧ s.start.drove.chans = [(c, h)] ∧ h.st = .active ∧ h.desc = some x
      ∧ (x.reqEn = true → b.reqs.contains x.req = true) ∧ (usesPasture x = true → holdsCredit s.start (chanClass c x) = true)))
    ∧ (∃ (s : State) (b : BurstIn) (c : _) (h : _) (x : _), (domOn s.start 2 = true ∧ s.start.drove.chans = [(c, h)] ∧ h.st = .active ∧ h.desc = some x
      ∧ (x.reqEn = true → b.reqs.contains x.req = true) ∧ usesPasture x = true ∧ holdsCredit s.start (chanClass c x) = false))
    ∧ (∃ (s : State), (domOn s.start 2 = true ∧ (∀ e ∈ s.start.drove.chans, (chanOf s.start e.1).st ≠ .active)))
    ∧ (∃ (s : State) (chan : Nat), (chan < 128 ∧ domOn s.start 2 = true ∧ (chanOf s.start chan).st = .idle))
    ∧ (∃ (s : State) (chan : Nat), (chan < 128 ∧ domOn s.start 2 = true ∧ (chanOf s.start chan).st ≠ .idle))
    ∧ (∃ (s : State) (chan : Nat), (chan < 128 ∧ domOn s.start 2 = true ∧ (chanOf s.start chan).st = .halted))
    ∧ (∃ (s : State) (chan : Nat) (x : _), (chan < 128 ∧ domOn s.start 2 = true ∧ (chanOf s.start chan).st = .halted ∧ (chanOf s.start chan).desc =
      some x ∧ x.last = false))
    ∧ (∃ (s : State) (chan : Nat) (x : _), (chan < 128 ∧ domOn s.start 2 = true ∧ (chanOf s.start chan).st = .halted ∧ (chanOf s.start chan).desc =
      some x ∧ x.last = true ∧ (chanOf s.start chan).armed = false ∧ (chanOf s.start chan).pending = false))
    ∧ (∃ (s : State) (chan : Nat) (x : _), (chan < 128 ∧ domOn s.start 2 = true ∧ (chanOf s.start chan).st = .halted ∧ (chanOf s.start chan).desc =
      some x ∧ x.last = true ∧ (chanOf s.start chan).pending = true))
    ∧ (∃ (s : State) (chan : Nat), (chan < 128 ∧ domOn s.start 2 = true ∧ ((chanOf s.start chan).st = .active ∨ (chanOf s.start chan).st = .waiting)))
    ∧ (∃ (s : State) (chan : Nat), (chan < 128 ∧ domOn s.start 2 = true ∧ (chanOf s.start chan).st = .halted ∧ (chanOf s.start chan).armed = true ∧
      (chanOf s.start chan).pending = true))
    ∧ (∃ (s : State) (line : Nat) (c : _) (h : _), (domOn s.start 2 = true ∧ s.start.drove.chans = [(c, h)] ∧ h.armed = true ∧ h.trigger = line ∧ (h.st
      = .idle ∨ h.st = .waiting)))
    ∧ (∃ (s : State) (line : Nat) (c : _) (h : _), (domOn s.start 2 = true ∧ s.start.drove.chans = [(c, h)] ∧ h.armed = true ∧ h.trigger = line ∧ (h.st
      = .active ∨ h.st = .halted)))
    ∧ (∃ (s : State) (line : Nat) (c : _) (h : _), (domOn s.start 2 = true ∧ s.start.drove.chans = [(c, h)] ∧ (h.armed = false ∨ h.trigger ≠ line))) :=
  ⟨⟨st (drvW (fun x => { x with st := .active, desc := some desc0 })), burst0, 0, (fun x => { x with st := .active, desc := some desc0 })
      Chan.reset, desc0, by decide +kernel⟩,
    ⟨st (onPast (drvW (fun x => { x with st := .active, desc := some { desc0 with srcSpace := 0 } })) fun p =>
      { p with pool := 0, classes := [(3, { PastClass.reset 3 with own := 0 })] }), burst0, 0, (fun x =>
      { x with st := .active, desc := some { desc0 with srcSpace := 0 } }) Chan.reset, { desc0 with srcSpace := 0 }, by decide +kernel⟩,
    ⟨st world, by decide +kernel⟩,
    ⟨st world, 0, by decide +kernel⟩,
    ⟨st (drvW (fun x => { x with st := .active })), 0, by decide +kernel⟩,
    ⟨st (drvW (fun x => { x with st := .halted })), 0, by decide +kernel⟩,
    ⟨st (drvW (fun x => { x with st := .halted, desc := some desc0 })), 0, ((chanOf (st (drvW (fun x =>
      { x with st := .halted, desc := some desc0 }))).start 0).desc).get (by decide +kernel), by decide +kernel⟩,
    ⟨st (drvW (fun x => { x with st := .halted, desc := some { desc0 with last := true } })), 0, ((chanOf (st (drvW (fun x =>
      { x with st := .halted, desc := some { desc0 with last := true } }))).start 0).desc).get (by decide +kernel), by decide +kernel⟩,
    ⟨st (drvW (fun x => { x with st := .halted, desc := some { desc0 with last := true }, pending := true })), 0, ((chanOf (st (drvW (fun x =>
      { x with st := .halted, desc := some { desc0 with last := true }, pending := true }))).start 0).desc).get (by decide +kernel), by
      decide +kernel⟩,
    ⟨st (drvW (fun x => { x with st := .active })), 0, by decide +kernel⟩,
    ⟨st (drvW (fun x => { x with st := .halted, armed := true, pending := true })), 0, by decide +kernel⟩,
    ⟨st (drvW (fun x => { x with armed := true, trigger := 3 })), 3, 0, (fun x => { x with armed := true, trigger := 3 }) Chan.reset, by
      decide +kernel⟩,
    ⟨st (drvW (fun x => { x with armed := true, trigger := 3, st := .active })), 3, 0, (fun x =>
      { x with armed := true, trigger := 3, st := .active }) Chan.reset, by decide +kernel⟩,
    ⟨st (drvW id), 3, 0, id Chan.reset, by decide +kernel⟩⟩

theorem witness_IntegrityEventsComplete :
    (∃ (s : State) (cls : Nat) (addr : Nat) (write : Bool), (domOn s.start 16 = true ∧ cls < 24 ∧ (pastClass s.start cls).waiting = 0 ∧ 0 <
      (pastClass s.start cls).own ∧ addr < pastureSize ∧ write = false))
    ∧ (∃ (s : State) (cls : Nat) (addr : Nat) (write : Bool), (domOn s.start 16 = true ∧ cls < 24 ∧ (pastClass s.start cls).waiting = 0 ∧ (pastClass
      s.start cls).own = 0 ∧ 0 < s.start.past.pool ∧ addr < pastureSize ∧ write = true))
    ∧ (∃ (s : State) (cls : Nat) (addr : Nat), (domOn s.start 16 = true ∧ cls < 24 ∧ (0 < (pastClass s.start cls).waiting ∨ ((pastClass s.start
      cls).own = 0 ∧ s.start.past.pool = 0)) ∧ pastureSize ≤ addr))
    ∧ (∃ (s : State) (cls : Nat) (addr : Nat) (write : Bool), (domOn s.start 16 = true ∧ cls < 24 ∧ (0 < (pastClass s.start cls).waiting ∨ ((pastClass
      s.start cls).own = 0 ∧ s.start.past.pool = 0)) ∧ addr < pastureSize ∧ write = true))
    ∧ (∃ (s : State) (cls : Nat) (addr : Nat) (write : Bool), (domOn s.start 16 = true ∧ cls < 24 ∧ (0 < (pastClass s.start cls).waiting ∨ ((pastClass
      s.start cls).own = 0 ∧ s.start.past.pool = 0)) ∧ addr < pastureSize ∧ write = false))
    ∧ (∃ (s : State) (offset : Nat) (write : Bool), (domOn s.start 38 = true ∧ domOn s.start 16 = true ∧ offset < 2 ^ 32 ∧ write = true))
    ∧ (∃ (s : State) (offset : Nat) (write : Bool) (bytes : Nat) (find : EccFind) (e : _), (domOn s.start 38 = true ∧ domOn s.start 16 = true ∧ offset
      < 2 ^ 32 ∧ write = false ∧ eccRead (chargeClass s.start 22 (lineCount (s.start.sys.bar2Win * 2 ^ 32 + offset) bytes)) (pastMemClass
      (s.start.sys.bar2Win * 2 ^ 32 + offset)) (s.start.sys.bar2Win * 2 ^ 32 + offset) find = (.clean, e)))
    ∧ (∃ (s : State) (offset : Nat) (write : Bool) (bytes : Nat) (find : EccFind) (e : _), (domOn s.start 38 = true ∧ domOn s.start 16 = true ∧ offset
      < 2 ^ 32 ∧ write = false ∧ eccRead (chargeClass s.start 22 (lineCount (s.start.sys.bar2Win * 2 ^ 32 + offset) bytes)) (pastMemClass
      (s.start.sys.bar2Win * 2 ^ 32 + offset)) (s.start.sys.bar2Win * 2 ^ 32 + offset) find = (.uncorrectable, e)))
    ∧ (∃ (s : State) (row : _) (k : _), (domOn s.start 16 = true ∧ (stackOf s.start 0).cands = [(row, k)] ∧ (stackOf s.start 1).cands = [] ∧ k ≠
      s.start.bell.tick ∧ (stackOf s.start 0).copying.length < (stackOf s.start 0).free ∧ holdsCredit s.start 23 = true))
    ∧ (∃ (s : State) (row : _) (k : _), (domOn s.start 16 = true ∧ (stackOf s.start 0).cands = [(row, k)] ∧ (stackOf s.start 1).cands = [] ∧ k ≠
      s.start.bell.tick ∧ (stackOf s.start 0).free ≤ (stackOf s.start 0).copying.length))
    ∧ (∃ (s : State) (row : _), ((stackOf s.start 0).copying = [row] ∧ (stackOf s.start 1).copying = []))
    ∧ (∃ (s : State) (row : _), ((stackOf s.start 0).copying = [row] ∧ (stackOf s.start 1).copying = [] ∧ 0 < (stackOf s.start 0).free))
    ∧ (∃ (s : State) (cv : Nat), (cv < 64 ∧ domOn s.start 2 = true))
    ∧ (∃ (s : State) (cv : Nat), (cv < 64 ∧ domOn s.start 2 = true ∧ (cvOf s.start cv).alg = 2))
    ∧ (∃ (s : State) (cv : Nat), (cv < 64 ∧ domOn s.start 2 = true ∧ (cvOf s.start cv).alg = 3))
    ∧ (∃ (s : State) (cv : Nat), (cv < 64 ∧ domOn s.start 2 = true ∧ (cvOf s.start cv).alg = 0))
    ∧ (∃ (s : State) (cv : Nat), (cv < 64 ∧ domOn s.start 2 = true ∧ (cvOf s.start cv).alg = 1))
    ∧ (∃ (s : State) (cv : Nat), (cv < 64 ∧ domOn s.start 2 = true))
    ∧ (∃ (s : State) (cv : Nat), (cv < 64 ∧ domOn s.start 2 = true))
    ∧ (∃ (s : State) (cv : Nat), (cv < 64 ∧ domOn s.start 2 = true))
    ∧ (∃ (s : State) (cv : Nat) (high : Bool), (cv < 64 ∧ domOn s.start 2 = true ∧ high = true))
    ∧ (∃ (s : State) (cv : Nat) (high : Bool), (cv < 64 ∧ domOn s.start 2 = true ∧ high = false))
    ∧ (∃ (s : State) (cv : Nat) (value : Nat), (cv < 64 ∧ domOn s.start 2 = true ∧ value < 256 ∧ (cvOf s.start cv).aliveInit = true))
    ∧ (∃ (s : State) (cv : Nat) (value : Nat), (cv < 64 ∧ domOn s.start 2 = true ∧ value < 256 ∧ (cvOf s.start cv).aliveInit = false ∧ (cvOf s.start
      cv).alive < 256 ∧ value = ((cvOf s.start cv).alive + 1) % 256 ∧ (cvOf s.start cv).run = 0))
    ∧ (∃ (s : State) (cv : Nat) (value : Nat), (cv < 64 ∧ domOn s.start 2 = true ∧ value < 256 ∧ (cvOf s.start cv).aliveInit = false ∧ (cvOf s.start
      cv).alive = value)) :=
  ⟨⟨st world, 0, 0, false, by decide +kernel⟩,
    ⟨st (onPast (domW world) fun p => { p with pool := 5, classes := [(3, { PastClass.reset 3 with own := 0 })] }), 3, 0, true, by decide +kernel⟩,
    ⟨st (onPast (domW world) fun p => { p with pool := 0, classes := [(3, { PastClass.reset 3 with own := 0 })] }), 3, 0x800000000, by
      decide +kernel⟩,
    ⟨st (onPast (domW world) fun p => { p with pool := 0, classes := [(3, { PastClass.reset 3 with own := 0 })] }), 3, 0, true, by decide +kernel⟩,
    ⟨st (onPast (domW world) fun p => { p with pool := 0, classes := [(3, { PastClass.reset 3 with own := 0 })] }), 3, 0, false, by decide +kernel⟩,
    ⟨st world, 0, true, by decide +kernel⟩,
    ⟨st world, 0, false, 0, .clean, (((eccRead (chargeClass (st world).start 22 (lineCount ((st world).start.sys.bar2Win * 2 ^ 32 + 0) 0))
      (pastMemClass ((st world).start.sys.bar2Win * 2 ^ 32 + 0)) ((st world).start.sys.bar2Win * 2 ^ 32 + 0) (.clean)))).2, by decide +kernel⟩,
    ⟨st (domW world), 0, false, 0, .uncorrectable, (((eccRead (chargeClass (st (domW world)).start 22 (lineCount ((st (domW
      world)).start.sys.bar2Win * 2 ^ 32 + 0) 0)) (pastMemClass ((st (domW world)).start.sys.bar2Win * 2 ^ 32 + 0)) ((st (domW
      world)).start.sys.bar2Win * 2 ^ 32 + 0) (.uncorrectable)))).2, by decide +kernel⟩,
    ⟨st (onStack (domW world) 0 fun x => { x with cands := [(9, 5)] }), 9, 5, by decide +kernel⟩,
    ⟨st (onStack (domW world) 0 fun x => { x with cands := [(9, 5)], free := 0 }), 9, 5, by decide +kernel⟩,
    ⟨st (onStack (domW world) 0 fun x => { x with copying := [9] }), 9, by decide +kernel⟩,
    ⟨st (onStack (domW world) 0 fun x => { x with copying := [9] }), 9, by decide +kernel⟩,
    ⟨st world, 0, by decide +kernel⟩,
    ⟨st (onCv (domW world) 0 fun x => { x with alg := 2 }), 0, by decide +kernel⟩,
    ⟨st (onCv (domW world) 0 fun x => { x with alg := 3 }), 0, by decide +kernel⟩,
    ⟨st world, 0, by decide +kernel⟩,
    ⟨st (onCv (domW world) 0 fun x => { x with alg := 1 }), 0, by decide +kernel⟩,
    ⟨st world, 0, by decide +kernel⟩,
    ⟨st world, 0, by decide +kernel⟩,
    ⟨st world, 0, by decide +kernel⟩,
    ⟨st world, 0, true, by decide +kernel⟩,
    ⟨st world, 0, false, by decide +kernel⟩,
    ⟨st world, 0, 0, by decide +kernel⟩,
    ⟨st (onCv (domW world) 0 fun x => { x with aliveInit := false, alive := 255 }), 0, 0, by decide +kernel⟩,
    ⟨st (onCv (domW world) 0 fun x => { x with aliveInit := false, alive := 7 }), 0, 7, by decide +kernel⟩⟩

theorem witness_LaneEventsComplete :
    (∃ (s : State) (lane : Nat), (lane < 32 ∧ laneOn s.start lane = true ∧ laneBad s.start lane = true ∧ hasSpare (groupOfLane lane) = false))
    ∧ (∃ (s : State) (lane : Nat), (lane < 32 ∧ laneOn s.start lane = true ∧ laneBad s.start lane = true ∧ (groupOfLane lane = 2 ∨ groupOfLane lane =
      3) ∧ lane - firstLane (groupOfLane lane) < dataLanes (groupOfLane lane) ∧ (laneGroup s.start (groupOfLane lane)).autoSpare = true ∧ (laneGroup
      s.start (groupOfLane lane)).spareFor = none ∧ (laneGroup s.start (groupOfLane lane)).sparing = none))
    ∧ (∃ (s : State) (lane : Nat), (lane ≤ 31 ∧ laneOn s.start lane = true ∧ (laneOf s.start lane).ctrl.getLsbD 8 = false ∧ (laneGroup s.start
      0).sparing = none ∧ (laneOf s.start lane).adapted = false))
    ∧ (∃ (s : State) (lane : Nat), (lane ≤ 31 ∧ laneOn s.start lane = true ∧ (laneOf s.start lane).ctrl.getLsbD 8 = false ∧ (laneGroup s.start
      0).sparing = none ∧ (laneOf s.start lane).adapted = true))
    ∧ (∃ (s : State) (lane : Nat), (lane ≤ 31 ∧ laneOn s.start lane = true ∧ (laneOf s.start lane).ctrl.getLsbD 8 = true ∧ (laneGroup s.start
      0).sparing = none))
    ∧ (∃ (s : State) (lane : Nat), (lane ≤ 31 ∧ laneOn s.start lane = true ∧ (laneOf s.start lane).signal = true))
    ∧ (∃ (s : State) (lane : Nat) (height : Nat) (width : Nat), (lane ≤ 31 ∧ laneOn s.start lane = true ∧ height < 1024 ∧ width < 1024 ∧ getField
      (eyeThOf s.start lane).toNat 0 10 ≤ height ∧ getField (eyeThOf s.start lane).toNat 16 10 ≤ width ∧ (laneOf s.start lane).eyeLow = false))
    ∧ (∃ (s : State) (lane : Nat) (height : Nat), (lane ≤ 31 ∧ laneOn s.start lane = true ∧ height < getField (eyeThOf s.start lane).toNat 0 10 ∧
      (laneOf s.start lane).badHeight = 15 ∧ (laneOf s.start lane).eyeLow = false))
    ∧ (∃ (s : State) (n : _), (n < 32 ∧ laneOn s.start n = true))
    ∧ (∃ (s : State) (lane : Nat) (marker : List Byte), (lane ≤ 31 ∧ (groupOfLane lane = 2 ∨ groupOfLane lane = 3) ∧ laneOn s.start lane = true ∧
      (laneGroup s.start (groupOfLane lane)).mode = 2 ∧ markerOk marker = true ∧ 1 ≤ (laneOf s.start lane).marks ∧ (laneGroup s.start (groupOfLane
      lane)).sparing = none))
    ∧ (∃ (s : State) (lane : Nat) (marker : List Byte), (lane ≤ 31 ∧ (groupOfLane lane = 2 ∨ groupOfLane lane = 3) ∧ laneOn s.start lane = true ∧
      (laneGroup s.start (groupOfLane lane)).mode = 2 ∧ markerOk marker = false ∧ (laneOf s.start lane).markLock = true ∧ (laneOf s.start lane).missed
      = 3))
    ∧ (∃ (s : State) (lane : Nat), (lane < 32 ∧ bar0Answers s.start = true ∧ domOn s.start (laneDomain (groupOfLane lane)) = true ∧ (laneGroup s.start
      (groupOfLane lane)).mode = 1))
    ∧ (∃ (s : State) (lane : Nat), (lane < 32 ∧ bar0Answers s.start = true ∧ domOn s.start (laneDomain (groupOfLane lane)) = true ∧ (laneGroup s.start
      (groupOfLane lane)).mode ≠ 1)) :=
  ⟨⟨st (laneW 5 fun l => { l with eyeLow := true }), 5, by decide +kernel⟩,
    ⟨st (laneW 13 fun l => { l with eyeLow := true }), 13, by decide +kernel⟩,
    ⟨st (laneW 0 id), 0, by decide +kernel⟩,
    ⟨st (laneW 0 fun l => { l with adapted := true }), 0, by decide +kernel⟩,
    ⟨st (laneW 0 fun l => { l with ctrl := 258#32 }), 0, by decide +kernel⟩,
    ⟨st (laneW 0 fun l => { l with signal := true }), 0, by decide +kernel⟩,
    ⟨st (laneW 0 id), 0, 600, 600, by decide +kernel⟩,
    ⟨st (laneW 0 fun l => { l with badHeight := 15 }), 0, 0, by decide +kernel⟩,
    ⟨st (laneW 0 id), 0, by decide +kernel⟩,
    ⟨st (laneW 13 fun l => { l with marks := 1 }), 13, [0xE8, 0x17, 0x4D, 0xB2, 13, 0, 7] ++ [crc8 [0xE8, 0x17, 0x4D, 0xB2, 13, 0, 7]], by
      decide +kernel⟩,
    ⟨st (laneW 13 fun l => { l with markLock := true, missed := 3 }), 13, [], by decide +kernel⟩,
    ⟨st (laneW 31 id), 31, by decide +kernel⟩,
    ⟨st world, 0, by decide +kernel⟩⟩

theorem witness_FlockAndTrunkEventsComplete :
    (∃ (s : State) (engine : Nat), (engine < 256 ∧ ((engOf s.start engine).st = .out ∨ (engOf s.start engine).st = .gated)))
    ∧ (∃ (s : State) (engine : Nat), (engine < 256 ∧ (engOf s.start engine).st ≠ .out ∧ (engOf s.start engine).st ≠ .gated ∧
      s.start.flock.failHeld.contains engine = false ∧ s.start.aux.swapState ≠ 1))
    ∧ (∃ (s : State) (engine : Nat), (engine < 256 ∧ (engOf s.start engine).st ≠ .out ∧ (engOf s.start engine).st ≠ .gated ∧
      s.start.flock.failHeld.contains engine = false ∧ s.start.aux.swapState = 1))
    ∧ (∃ (s : State) (engine : Nat), (engine < 256 ∧ (engOf s.start engine).st ≠ .out ∧ (engOf s.start engine).st ≠ .gated ∧
      s.start.flock.failHeld.contains engine = true))
    ∧ (∃ (s : State) (group : Nat) (img : _) (u : _), (group < 16 ∧ (groupOf s.start group).update = some (img, u) ∧ (groupOf s.start group).st =
      .draining ∧ groupEmpty s.start group = true))
    ∧ (∃ (s : State) (group : Nat), groupEmpty s.start group = false)
    ∧ (∃ (s : State) (group : Nat) (img : _) (x : _), ((groupOf s.start group).update = some (img, x) ∧ (groupOf s.start group).st = .loading))
    ∧ (∃ (s : State) (trunk : Nat) (k : _), (tget s.start.imc.trunks trunk = some k ∧ k.rcd.inbound = true))
    ∧ (∃ (s : State) (trunk : Nat) (k : _), (tget s.start.imc.trunks trunk = some k ∧ k.rcd.inbound = false))
    ∧ (∃ (s : State) (trunk : Nat) (k : _), (tget s.start.imc.trunks trunk = some k ∧ k.ivBroken = false ∧ k.align = .sync ∧ k.rcd.degThr < k.bipErrs ∧
      k.deg = false ∧ k.rcd.degSet ≤ k.badRun + 1))
    ∧ (∃ (s : State) (trunk : Nat) (k : _), (tget s.start.imc.trunks trunk = some k ∧ k.ivBroken = false ∧ k.align = .sync ∧ k.bipErrs ≤ k.rcd.degThr))
    ∧ (∃ (s : State) (trunk : Nat) (k : _), (tget s.start.imc.trunks trunk = some k ∧ k.ivBroken = true)) :=
  ⟨⟨st (engW 0 fun e => { e with st := .out }), 0, by decide +kernel⟩,
    ⟨st world, 0, by decide +kernel⟩,
    ⟨st { engW 0 id with aux := { (engW 0 id).aux with swapState := 1 } }, 0, by decide +kernel⟩,
    ⟨st (onFlock (domW world) fun f => { f with failHeld := [0] }), 0, by decide +kernel⟩,
    ⟨st (onFlock (domW world) fun f => { f with groups := [(0, { FGroup.reset with st := .draining, update := some (img0, stg.ctx) })] }), 0,
      (((groupOf (st (onFlock (domW world) fun f =>
      { f with groups := [(0, { FGroup.reset with st := .draining, update := some (img0, stg.ctx) })] })).start 0).update).get (by decide +kernel)).1,
      (((groupOf (st (onFlock (domW world) fun f =>
      { f with groups := [(0, { FGroup.reset with st := .draining, update := some (img0, stg.ctx) })] })).start 0).update).get (by decide +kernel)).2,
      by decide +kernel⟩,
    ⟨st full, 0, by decide +kernel⟩,
    ⟨st (onFlock (domW world) fun f => { f with groups := [(0, { FGroup.reset with st := .loading, update := some (img0, stg.ctx) })] }), 0, img0,
      stg.ctx, by decide +kernel⟩,
    ⟨st full, 0, (tget (st full).start.imc.trunks 0).get (by decide +kernel), by decide +kernel⟩,
    ⟨st (onTrunk full 0 fun k => { k with rcd := { trunk0 with inbound := false } }), 0, (tget (st (onTrunk full 0 fun k =>
      { k with rcd := { trunk0 with inbound := false } })).start.imc.trunks 0).get (by decide +kernel), by decide +kernel⟩,
    ⟨st (onTrunk full 0 fun k => { k with align := .sync, ivBroken := false, bipErrs := 5 }), 0, (tget (st (onTrunk full 0 fun k =>
      { k with align := .sync, ivBroken := false, bipErrs := 5 })).start.imc.trunks 0).get (by decide +kernel), by decide +kernel⟩,
    ⟨st (onTrunk full 0 fun k => { k with align := .sync, ivBroken := false }), 0, (tget (st (onTrunk full 0 fun k =>
      { k with align := .sync, ivBroken := false })).start.imc.trunks 0).get (by decide +kernel), by decide +kernel⟩,
    ⟨st full, 0, (tget (st full).start.imc.trunks 0).get (by decide +kernel), by decide +kernel⟩⟩

theorem witness_LegEventsComplete :
    (∃ (s : State) (leg : Nat) (pkt : RtpIn) (l : _), (legOf s.start leg = some l ∧ legRuns l = true ∧ (pkt.b0 ≤ 3 ∨ (20 ≤ pkt.b0 ∧ pkt.b0 ≤ 63)) ∧
      l.rcd.ctrlDest = 1))
    ∧ (∃ (s : State) (leg : Nat) (pkt : RtpIn) (l : _), (legOf s.start leg = some l ∧ legRuns l = true ∧ (pkt.b0 ≤ 3 ∨ (20 ≤ pkt.b0 ∧ pkt.b0 ≤ 63)) ∧
      l.rcd.ctrlDest = 0))
    ∧ (∃ (s : State) (leg : Nat) (pkt : RtpIn) (l : _) (e : _), (legOf s.start leg = some l ∧ legRuns l = true ∧ 128 ≤ pkt.b0 ∧ pkt.b0 ≤ 191 ∧ 192 ≤
      pkt.b1 ∧ pkt.b1 ≤ 223 ∧ authPacket (popOf s.start l) leg l pkt (2 * pkt.ssrc + 1) true = (true, e)))
    ∧ (∃ (s : State) (leg : Nat) (pkt : RtpIn) (l : _) (e : _), (legOf s.start leg = some l ∧ legRuns l = true ∧ 128 ≤ pkt.b0 ∧ pkt.b0 ≤ 191 ∧ (pkt.b1
      < 192 ∨ 223 < pkt.b1) ∧ l.rcd.audioIn = true ∧ pkt.b1 % 128 = l.rcd.aPt ∧ ssrcOk l.rcd.aSsrcIn l.aLatch pkt.ssrc = true ∧ authPacket (popOf
      s.start l) leg l pkt (2 * pkt.ssrc) false = (true, e)))
    ∧ (∃ (s : State) (leg : Nat) (pkt : RtpIn) (l : _), (legOf s.start leg = some l ∧ legRuns l = true ∧ ((3 < pkt.b0 ∧ pkt.b0 < 20) ∨ (63 < pkt.b0 ∧
      pkt.b0 < 128) ∨ 191 < pkt.b0)))
    ∧ (∃ (s : State) (leg : Nat) (l : _) (h : _) (at_ : _), (tget s.start.media.legs leg = some l ∧ l.prevSa = some (h, at_) ∧ at_.toNat ≤
      s.start.bell.tick.toNat))
    ∧ (∃ (s : State) (leg : Nat) (l : _) (h : _) (at_ : _), (tget s.start.media.legs leg = some l ∧ l.prevSa = some (h, at_) ∧ s.start.bell.tick.toNat
      < at_.toNat))
    ∧ (∃ (s : State) (leg : Nat) (l : _) (m : _) (e : _), (legOf s.start leg = some l ∧ l.st = .active ∧ legRuns l = true ∧ s.start.bell.tick.toNat % 4
      = leg % 4 ∧ measureRun s.start l = (m, e)))
    ∧ (∃ (s : State) (leg : Nat) (l : _), (legOf s.start leg = some l ∧ l.st = .active ∧ legRuns l = true ∧ s.start.bell.tick.toNat % 4 = leg % 4 ∧
      l.rcd.audioIn = true))
    ∧ (∃ (s : State) (leg : Nat) (l : _), (legOf s.start leg = some l ∧ l.st = .active ∧ s.start.bell.tick.toNat % 4 ≠ leg % 4))
    ∧ (∃ (s : State) (leg : Nat) (l : _), (legOf s.start leg = some l ∧ l.st = .active ∧ l.rcd.fixed = false ∧ l.adapt.starved = false ∧
      (l.rcd.audioOut = true ∨ l.rcd.videoOut ≠ 0) ∧ l.adapt.lastReport.toNat + 16000 ≤ s.start.bell.tick.toNat ∧ l.adapt.holdUntil.toNat ≤
      s.start.bell.tick.toNat))
    ∧ (∃ (s : State) (leg : Nat) (l : _), (legOf s.start leg = some l ∧ l.st = .active ∧ l.rcd.fixed = false ∧ l.adapt.starved = false ∧
      (l.rcd.audioOut = true ∨ l.rcd.videoOut ≠ 0) ∧ l.adapt.lastReport.toNat + 16000 ≤ s.start.bell.tick.toNat ∧ s.start.bell.tick.toNat <
      l.adapt.holdUntil.toNat ∧ max (1000 * l.rcd.bwMin) (l.adapt.est / 2) < l.adapt.est))
    ∧ (∃ (s : State) (leg : Nat) (l : _), (legOf s.start leg = some l ∧ l.st = .active ∧ s.start.bell.tick.toNat < l.adapt.lastReport.toNat + 16000))
    ∧ (∃ (s : State) (leg : Nat) (l : _), (legOf s.start leg = some l ∧ legRuns l = true ∧ l.fbAt.toNat ≤ s.start.bell.tick.toNat ∧ (l.rcd.audioIn =
      true ∨ l.rcd.contrib = true)))
    ∧ (∃ (s : State) (leg : Nat) (seq : Nat) (inTime : Bool) (l : _) (m : _), (legOf s.start leg = some l ∧ l.missing.find? (fun m => m.seq == seq) =
      some m ∧ legRuns l = true ∧ m.due.toNat ≤ s.start.bell.tick.toNat ∧ inTime = true ∧ m.sent < 3))
    ∧ (∃ (s : State) (leg : Nat) (seq : Nat) (inTime : Bool) (l : _) (m : _), (legOf s.start leg = some l ∧ l.missing.find? (fun m => m.seq == seq) =
      some m ∧ legRuns l = true ∧ m.due.toNat ≤ s.start.bell.tick.toNat ∧ (inTime = false ∨ 3 ≤ m.sent)))
    ∧ (∃ (s : State) (leg : Nat) (l : _), (legOf s.start leg = some l ∧ l.st = .draining ∧ l.drainAt.toNat ≤ s.start.bell.tick.toNat))
    ∧ (∃ (s : State) (leg : Nat) (l : _), (legOf s.start leg = some l ∧ l.st = .draining ∧ s.start.bell.tick.toNat < l.drainAt.toNat))
    ∧ (∃ (s : State) (kind : Nat) (number : Nat) (crcEqual : Bool) (m : _), (moveOf s.start kind number = some m ∧ m.b0.toNat + 2 ≤
      s.start.bell.tick.toNat ∧ m.failed = none ∧ (kind ≠ 0 ∨ crcEqual = true)))
    ∧ (∃ (s : State) (kind : Nat) (number : Nat) (crcEqual : Bool) (m : _), (moveOf s.start kind number = some m ∧ m.b0.toNat + 2 ≤
      s.start.bell.tick.toNat ∧ m.failed = none ∧ kind = 0 ∧ crcEqual = false))
    ∧ (∃ (s : State) (kind : Nat) (number : Nat) (m : _), (moveOf s.start kind number = some m ∧ s.start.bell.tick.toNat < m.b0.toNat + 2)) :=
  ⟨⟨st (onLeg full 0 fun l => { l with rcd := { leg0 with ctrlDest := 1 } }), 0, { rtp0 with b0 := 20 }, (legOf (st (onLeg full 0 fun l =>
      { l with rcd := { leg0 with ctrlDest := 1 } })).start 0).get (by decide +kernel), by decide +kernel⟩,
    ⟨st full, 0, { rtp0 with b0 := 0 }, (legOf (st full).start 0).get (by decide +kernel), by decide +kernel⟩,
    ⟨st full, 0, { rtp0 with b1 := 200 }, (legOf (st full).start 0).get (by decide +kernel), (((authPacket (popOf (st full).start (((legOf (st
      full).start 0).get (by decide +kernel)))) 0 (((legOf (st full).start 0).get (by decide +kernel))) ({ rtp0 with b1 := 200 }) (2 *
      ({ rtp0 with b1 := 200 }).ssrc + 1) true))).2, by decide +kernel⟩,
    ⟨st full, 0, rtp0, (legOf (st full).start 0).get (by decide +kernel), (((authPacket (popOf (st full).start (((legOf (st full).start 0).get
      (by decide +kernel)))) 0 (((legOf (st full).start 0).get (by decide +kernel))) rtp0 (2 * rtp0.ssrc) false))).2, by decide +kernel⟩,
    ⟨st full, 0, { rtp0 with b0 := 64 }, (legOf (st full).start 0).get (by decide +kernel), by decide +kernel⟩,
    ⟨st (onLeg full 0 fun l => { l with prevSa := some (1, 0) }), 0, (tget (st (onLeg full 0 fun l =>
      { l with prevSa := some (1, 0) })).start.media.legs 0).get (by decide +kernel), (((((tget (st (onLeg full 0 fun l =>
      { l with prevSa := some (1, 0) })).start.media.legs 0).get (by decide +kernel))).prevSa).get (by decide +kernel)).1, (((((tget (st (onLeg full 0
      fun l => { l with prevSa := some (1, 0) })).start.media.legs 0).get (by decide +kernel))).prevSa).get (by decide +kernel)).2, by decide +kernel⟩,
    ⟨st (onLeg full 0 fun l => { l with prevSa := some (1, 9) }), 0, (tget (st (onLeg full 0 fun l =>
      { l with prevSa := some (1, 9) })).start.media.legs 0).get (by decide +kernel), (((((tget (st (onLeg full 0 fun l =>
      { l with prevSa := some (1, 9) })).start.media.legs 0).get (by decide +kernel))).prevSa).get (by decide +kernel)).1, (((((tget (st (onLeg full 0
      fun l => { l with prevSa := some (1, 9) })).start.media.legs 0).get (by decide +kernel))).prevSa).get (by decide +kernel)).2, by decide +kernel⟩,
    ⟨st full, 0, (legOf (st full).start 0).get (by decide +kernel), (((measureRun (st full).start (((legOf (st full).start 0).get
      (by decide +kernel)))))).1, (((measureRun (st full).start (((legOf (st full).start 0).get (by decide +kernel)))))).2, by decide +kernel⟩,
    ⟨st full, 0, (legOf (st full).start 0).get (by decide +kernel), by decide +kernel⟩,
    ⟨st (onBell full fun b => { b with tick := 1 }), 0, (legOf (st (onBell full fun b => { b with tick := 1 })).start 0).get (by decide +kernel), by
      decide +kernel⟩,
    ⟨st (onBell (onLeg full 0 fun l => { l with rcd := { leg0 with fixed := false } }) fun b => { b with tick := 16000 }), 0, (legOf (st (onBell
      (onLeg full 0 fun l => { l with rcd := { leg0 with fixed := false } }) fun b => { b with tick := 16000 })).start 0).get (by decide +kernel), by
      decide +kernel⟩,
    ⟨st (onBell (onLeg full 0 fun l =>
      { l with rcd := { leg0 with fixed := false }, adapt := { l.adapt with starved := false, holdUntil := 16001, lastReport := 0 } }) fun b =>
      { b with tick := 16000 }), 0, (legOf (st (onBell (onLeg full 0 fun l =>
      { l with rcd := { leg0 with fixed := false }, adapt := { l.adapt with starved := false, holdUntil := 16001, lastReport := 0 } }) fun b =>
      { b with tick := 16000 })).start 0).get (by decide +kernel), by decide +kernel⟩,
    ⟨st full, 0, (legOf (st full).start 0).get (by decide +kernel), by decide +kernel⟩,
    ⟨st full, 0, (legOf (st full).start 0).get (by decide +kernel), by decide +kernel⟩,
    ⟨st (onLeg full 0 fun l => { l with missing := [{ seq := 4, due := 0, sent := 2 }] }), 0, 4, true, (legOf (st (onLeg full 0 fun l =>
      { l with missing := [{ seq := 4, due := 0, sent := 2 }] })).start 0).get (by decide +kernel), ((((legOf (st (onLeg full 0 fun l =>
      { l with missing := [{ seq := 4, due := 0, sent := 2 }] })).start 0).get (by decide +kernel))).missing.find? (fun m => m.seq == 4)).get
      (by decide +kernel), by decide +kernel⟩,
    ⟨st (onLeg full 0 fun l => { l with missing := [{ seq := 4, due := 0, sent := 3 }] }), 0, 4, false, (legOf (st (onLeg full 0 fun l =>
      { l with missing := [{ seq := 4, due := 0, sent := 3 }] })).start 0).get (by decide +kernel), ((((legOf (st (onLeg full 0 fun l =>
      { l with missing := [{ seq := 4, due := 0, sent := 3 }] })).start 0).get (by decide +kernel))).missing.find? (fun m => m.seq == 4)).get
      (by decide +kernel), by decide +kernel⟩,
    ⟨st (onLeg full 0 fun l => { l with st := .draining }), 0, (legOf (st (onLeg full 0 fun l => { l with st := .draining })).start 0).get
      (by decide +kernel), by decide +kernel⟩,
    ⟨st (onLeg full 0 fun l => { l with st := .draining, drainAt := 1 }), 0, (legOf (st (onLeg full 0 fun l =>
      { l with st := .draining, drainAt := 1 })).start 0).get (by decide +kernel), by decide +kernel⟩,
    ⟨st (onBell (onLeg full 0 fun l =>
      { l with st := .migrating, move := some { target := 1, b0 := 3, copyDone := true, failed := none, ctx := none } }) fun b =>
      { b with tick := 5 }), 0, 0, true, (moveOf (st (onBell (onLeg full 0 fun l =>
      { l with st := .migrating, move := some { target := 1, b0 := 3, copyDone := true, failed := none, ctx := none } }) fun b =>
      { b with tick := 5 })).start 0 0).get (by decide +kernel), by decide +kernel⟩,
    ⟨st (onBell (onLeg full 0 fun l =>
      { l with st := .migrating, move := some { target := 1, b0 := 3, copyDone := true, failed := none, ctx := none } }) fun b =>
      { b with tick := 5 }), 0, 0, false, (moveOf (st (onBell (onLeg full 0 fun l =>
      { l with st := .migrating, move := some { target := 1, b0 := 3, copyDone := true, failed := none, ctx := none } }) fun b =>
      { b with tick := 5 })).start 0 0).get (by decide +kernel), by decide +kernel⟩,
    ⟨st (onBell (onLeg full 0 fun l =>
      { l with st := .migrating, move := some { target := 1, b0 := 3, copyDone := true, failed := none, ctx := none } }) fun b =>
      { b with tick := 4 }), 0, 0, (moveOf (st (onBell (onLeg full 0 fun l =>
      { l with st := .migrating, move := some { target := 1, b0 := 3, copyDone := true, failed := none, ctx := none } }) fun b =>
      { b with tick := 4 })).start 0 0).get (by decide +kernel), by decide +kernel⟩⟩

theorem witness_AudioPortEventsComplete :
    (∃ (s : State) (headset : Nat), ((hsOf s.start headset).plugged = true ∧ (hsOf s.start headset).present = false))
    ∧ (∃ (s : State) (headset : Nat), (hsOf s.start headset).plugged = false)
    ∧ (∃ (s : State) (headset : Nat) (ring2 : Nat) (sleeve : Nat), ((hsOf s.start headset).present = true ∧ (hsOf s.start headset).plugged = true ∧
      accessoryType (hsOf s.start headset) ring2 sleeve = 2))
    ∧ (∃ (s : State) (headset : Nat) (ring2 : Nat) (sleeve : Nat), ((hsOf s.start headset).present = true ∧ (hsOf s.start headset).plugged = true ∧
      accessoryType (hsOf s.start headset) ring2 sleeve = 1))
    ∧ (∃ (s : State) (headset : Nat), ((hsOf s.start headset).present = true ∧ (hsOf s.start headset).plugged = false ∧ (hsOf s.start headset).buttons
      = 0))
    ∧ (∃ (s : State) (headset : Nat), (hsOf s.start headset).plugged = true)
    ∧ (∃ (s : State) (headset : Nat), (hsOf s.start headset).armed = false)
    ∧ (∃ (s : State) (headset : Nat) (biasUa : Nat), ((hsOf s.start headset).armed = true ∧ (hsOf s.start headset).muted = false ∧ (hsOf s.start
      headset).present = true ∧ (hsOf s.start headset).buttons = 0 ∧ btnBandOf (hsOf s.start headset) biasUa ≠ 0 ∧ btnBandOf (hsOf s.start headset)
      biasUa = (hsOf s.start headset).btnBand ∧ msField (hsOf s.start headset).debounce 16 ≤ (hsOf s.start headset).btnCount + 1 ∧ headset < 8))
    ∧ (∃ (s : State) (port : Nat) (wellFormed : Bool), ((tdmOf s.start port).cfg.enable = true ∧ wellFormed = false))
    ∧ (∃ (s : State) (port : Nat) (wellFormed : Bool), ((tdmOf s.start port).cfg.enable = true ∧ wellFormed = true ∧ (tdmOf s.start port).alarm = false
      ∧ (tdmOf s.start port).cfg.mode % 2 = 1))
    ∧ (∃ (s : State) (port : Nat), ((tdmOf s.start port).cfg.enable = true ∧ (tdmOf s.start port).cfg.mode % 2 = 0 ∧ (tdmOf s.start port).alarm =
      false))
    ∧ (∃ (s : State) (port : Nat), (tdmOf s.start port).alarm = true)
    ∧ (∃ (s : State) (headset : Nat) (x : _) (rt : _), s.start.aud.hsCommit.find? (fun e => e.1 == headset) = some (headset, x, rt)) :=
  ⟨⟨st (onHs world 0 fun h => { h with plugged := true }), 0, by decide +kernel⟩,
    ⟨st world, 0, by decide +kernel⟩,
    ⟨st (onHs world 0 fun h => { h with plugged := true, present := true, forceType := 2 }), 0, 0, 0, by decide +kernel⟩,
    ⟨st (onHs world 0 fun h => { h with plugged := true, present := true, forceType := 1 }), 0, 0, 0, by decide +kernel⟩,
    ⟨st (onHs world 0 fun h => { h with present := true }), 0, by decide +kernel⟩,
    ⟨st (onHs world 0 fun h => { h with plugged := true }), 0, by decide +kernel⟩,
    ⟨st world, 0, by decide +kernel⟩,
    ⟨st (onHs world 0 fun h => { h with armed := true, present := true, btnTh0 := 0, btnBand := 1, btnCount := 300 }), 0, 0, by decide +kernel⟩,
    ⟨st (onTdmPort world 0 fun h => { h with cfg := tdm0 }), 0, false, by decide +kernel⟩,
    ⟨st (onTdmPort world 0 fun h => { h with cfg := { tdm0 with mode := 1 } }), 0, true, by decide +kernel⟩,
    ⟨st (onTdmPort world 0 fun h => { h with cfg := tdm0 }), 0, by decide +kernel⟩,
    ⟨st (onTdmPort world 0 fun h => { h with alarm := true }), 0, by decide +kernel⟩,
    ⟨st (onAud world fun a => { a with hsCommit := [(0, stg.ctx, [])] }), 0, stg.ctx, [], by decide +kernel⟩⟩

theorem witness_VideoEventsComplete :
    (∃ (s : State) (leg : Nat) (pic : PicIn) (c : _) (l : _) (e : _), (contribOf s.start leg = some c ∧ legOf s.start leg = some l ∧ legRuns l = true
      ∧ 2 ≤ c.rcd.mode ∧ l.rcd.vCodecIn ≠ 3 ∧ onContrib (onLeg s.start leg (fun x => { x with picEnd := none })) leg (fun x =>
      { x with seen := c.seen.filter (fun z => decide (s.start.bell.tick.toNat < z.toNat + 8000)) ++ [s.start.bell.tick], poc := some pic.vvc.poc }) =
      e ∧ (decodedLayer c.rcd pic = none ∨ c.rcd.fps < (c.seen.filter (fun z => decide (s.start.bell.tick.toNat < z.toNat + 8000))).length + 1) ∧
      passedAt e leg c.tier = false))
    ∧ (∃ (s : State) (leg : Nat) (pic : PicIn) (c : _) (l : _) (e : _), (contribOf s.start leg = some c ∧ legOf s.start leg = some l ∧ legRuns l = true
      ∧ 2 ≤ c.rcd.mode ∧ l.rcd.vCodecIn ≠ 3 ∧ onContrib (onLeg s.start leg (fun x => { x with picEnd := none })) leg (fun x =>
      { x with seen := c.seen.filter (fun z => decide (s.start.bell.tick.toNat < z.toNat + 8000)) ++ [s.start.bell.tick], poc := some pic.vvc.poc }) =
      e ∧ decodedLayer c.rcd pic ≠ none ∧ (c.seen.filter (fun z => decide (s.start.bell.tick.toNat < z.toNat + 8000))).length + 1 ≤ c.rcd.fps ∧
      passedAt e leg c.tier = false ∧ decodes e leg = true))
    ∧ (∃ (s : State) (leg : Nat) (pic : PicIn) (c : _) (l : _) (e : _), (contribOf s.start leg = some c ∧ legOf s.start leg = some l ∧ legRuns l = true
      ∧ 2 ≤ c.rcd.mode ∧ l.rcd.vCodecIn ≠ 3 ∧ onContrib (onLeg s.start leg (fun x => { x with picEnd := none })) leg (fun x =>
      { x with seen := c.seen.filter (fun z => decide (s.start.bell.tick.toNat < z.toNat + 8000)) ++ [s.start.bell.tick], poc := some pic.vvc.poc }) =
      e ∧ decodedLayer c.rcd pic ≠ none ∧ (c.seen.filter (fun z => decide (s.start.bell.tick.toNat < z.toNat + 8000))).length + 1 ≤ c.rcd.fps ∧
      passedAt e leg c.tier = true ∧ pic.lost = false ∧ decodes (picDone e leg c.tier pic.intra) leg = false))
    ∧ (∃ (s : State) (leg : Nat) (ok : Bool) (c : _) (b : _) (ts : _) (rest : _) (e : _), (contribOf s.start leg = some c ∧ c.decoding = (b, ts) ::
      rest ∧ ok = true ∧ onContrib (onContrib s.start leg (fun x => { x with decoding := rest })) leg (fun x => { x with shown := true }) = e))
    ∧ (∃ (s : State) (leg : Nat) (ok : Bool) (c : _) (b : _) (ts : _) (rest : _), (contribOf s.start leg = some c ∧ c.decoding = (b, ts) :: rest ∧ ok =
      false))
    ∧ (∃ (s : State) (leg : Nat) (tier : Nat) (c : _) (r : _) (rest : _) (e : _), (contribOf s.start leg = some c ∧ 1 ≤ tier ∧ tier ≤ 3 ∧ (picOf
      s.start leg tier).runs = r :: rest ∧ s.start.bell.tick.toNat ≤ r.start.toNat + codingTicks ∧ r.intra = true ∧ passedAt s.start leg tier = false
      ∧ onPic (onPic s.start leg tier (fun x => { x with runs := rest })) leg tier (fun x =>
      { x with log := (picOf s.start leg tier).log.filter (fun z => decide (s.start.bell.tick.toNat < z.1.toNat + 8000)) }) = e))
    ∧ (∃ (s : State) (leg : Nat) (tier : Nat) (c : _) (r : _) (rest : _), (contribOf s.start leg = some c ∧ 1 ≤ tier ∧ tier ≤ 3 ∧ (picOf s.start leg
      tier).runs = r :: rest ∧ r.start.toNat + codingTicks < s.start.bell.tick.toNat))
    ∧ (∃ (s : State) (layout : Nat) (variant : Nat) (self : Option Nat) (z : _), (tget s.start.vid.streams (streamKey layout variant self) = some z ∧
      s.start.bell.tick.toNat < z.start.toNat + ceilDiv (z.k * 8000) (max 1 z.geometry.fps)))
    ∧ (∃ (s : State) (layout : Nat) (variant : Nat) (self : Option Nat) (z : _) (res : _) (e : _), (tget s.start.vid.streams (streamKey layout variant
      self) = some z ∧ z.start.toNat + ceilDiv (z.k * 8000) (max 1 z.geometry.fps) ≤ s.start.bell.tick.toNat ∧ z.intraDue = [] ∧ z.coming = none ∧
      (z.cells.zip z.geometry.cells).map (fun x => (spliceCell s.start x.1 x.2.tier, x.2)) = res ∧ joinWaiting (streamKey layout variant self)
      z.variant false (onVid (emit s.start .picture (streamKey layout variant self) (pictureVals { z with poc := z.poc + 1 } false
      (s.start.bell.tick.toNat * 45 / 4 % 2 ^ 32) (((tget s.start.vid.layouts z.layout).map (·.border)).getD 0) res)) (fun v =>
      { v with streams := tset v.streams (streamKey layout variant self) { z with poc := z.poc + 1, cells := res.map (·.1.1), k := z.k + 1, intraDue := [], sets := some (composedSets z.geometry) } }))
      = e ∧ (∀ x ∈ e.vid.recv, x.2.cur ≠ some (streamKey layout variant self))))
    ∧ (∃ (s : State) (layout : Nat) (variant : Nat) (self : Option Nat) (cell : Nat) (z : _) (c : _) (r : _) (lay : _) (n : _), (tget
      s.start.vid.streams (streamKey layout variant self) = some z ∧ z.cells[cell]? = some c ∧ z.geometry.cells[cell]? = some r ∧ tget
      s.start.vid.layouts z.layout = some lay ∧ c.cand = some n ∧ r.kind = 2 ∧ holdTicks lay ≤ c.held ∧ c.occ ≠ some n ∧ c.next ≠ some (some n)))
    ∧ (∃ (s : State) (layout : Nat) (variant : Nat) (self : Option Nat) (z : _) (r : _), (tget s.start.vid.streams (streamKey layout variant self) =
      some z ∧ tget s.start.vid.layouts z.layout = some r ∧ r.refresh ≠ 0 ∧ (z.refreshAt.getD z.start).toNat + 8000 * r.refresh ≤
      s.start.bell.tick.toNat)) :=
  ⟨⟨st (vidW 2 id), 0, pic0, (contribOf (st (vidW 2 id)).start 0).get (by decide +kernel), (legOf (st (vidW 2 id)).start 0).get
      (by decide +kernel), ((onContrib (onLeg (st (vidW 2 id)).start 0 (fun x => { x with picEnd := none })) 0 (fun x =>
      { x with seen := (((contribOf (st (vidW 2 id)).start 0).get (by decide +kernel))).seen.filter (fun z => decide ((st (vidW 2 id)).start.bell.tick.toNat < z.toNat + 8000)) ++ [(st (vidW 2 id)).start.bell.tick], poc := some pic0.vvc.poc }))),
      by decide +kernel⟩,
    ⟨st (vidW 2 id), 0, { pic0 with layers := [(320, 192)] }, (contribOf (st (vidW 2 id)).start 0).get (by decide +kernel), (legOf (st (vidW 2
      id)).start 0).get (by decide +kernel), ((onContrib (onLeg (st (vidW 2 id)).start 0 (fun x => { x with picEnd := none })) 0 (fun x =>
      { x with seen := (((contribOf (st (vidW 2 id)).start 0).get (by decide +kernel))).seen.filter (fun z => decide ((st (vidW 2 id)).start.bell.tick.toNat < z.toNat + 8000)) ++ [(st (vidW 2 id)).start.bell.tick], poc := some ({ pic0 with layers := [(320, 192)] }).vvc.poc }))),
      by decide +kernel⟩,
    ⟨st (vidW 3 fun c => { c with conform := true }), 0, { pic0 with layers := [(320, 192)] }, (contribOf (st (vidW 3 fun c =>
      { c with conform := true })).start 0).get (by decide +kernel), (legOf (st (vidW 3 fun c => { c with conform := true })).start 0).get
      (by decide +kernel), ((onContrib (onLeg (st (vidW 3 fun c => { c with conform := true })).start 0 (fun x => { x with picEnd := none })) 0 (fun x
      =>
      { x with seen := (((contribOf (st (vidW 3 fun c => { c with conform := true })).start 0).get (by decide +kernel))).seen.filter (fun z => decide ((st (vidW 3 fun c => { c with conform := true })).start.bell.tick.toNat < z.toNat + 8000)) ++ [(st (vidW 3 fun c => { c with conform := true })).start.bell.tick], poc := some ({ pic0 with layers := [(320, 192)] }).vvc.poc }))),
      by decide +kernel⟩,
    ⟨st (vidW 2 fun c => { c with decoding := [(0, 0)] }), 0, true, (contribOf (st (vidW 2 fun c => { c with decoding := [(0, 0)] })).start 0).get
      (by decide +kernel), 0, 0, [], ((onContrib (onContrib (st (vidW 2 fun c => { c with decoding := [(0, 0)] })).start 0 (fun x =>
      { x with decoding := ([]) })) 0 (fun x => { x with shown := true }))), by decide +kernel⟩,
    ⟨st (vidW 2 fun c => { c with decoding := [(0, 0)] }), 0, false, (contribOf (st (vidW 2 fun c => { c with decoding := [(0, 0)] })).start 0).get
      (by decide +kernel), 0, 0, [], by decide +kernel⟩,
    ⟨st (onVid (vidW 2 id) fun v => { v with pics := [(1, { noPic with runs := [{ start := 0, intra := true, ts := 0 }] })] }), 0, 1, (contribOf (st
      (onVid (vidW 2 id) fun v => { v with pics := [(1, { noPic with runs := [{ start := 0, intra := true, ts := 0 }] })] })).start 0).get
      (by decide +kernel), { start := 0, intra := true, ts := 0 }, [], ((onPic (onPic (st (onVid (vidW 2 id) fun v =>
      { v with pics := [(1, { noPic with runs := [{ start := 0, intra := true, ts := 0 }] })] })).start 0 1 (fun x => { x with runs := ([]) })) 0 1
      (fun x =>
      { x with log := (picOf (st (onVid (vidW 2 id) fun v => { v with pics := [(1, { noPic with runs := [{ start := 0, intra := true, ts := 0 }] })] })).start 0 1).log.filter (fun z => decide ((st (onVid (vidW 2 id) fun v => { v with pics := [(1, { noPic with runs := [{ start := 0, intra := true, ts := 0 }] })] })).start.bell.tick.toNat < z.1.toNat + 8000)) }))),
      by decide +kernel⟩,
    ⟨st (onBell (onVid (vidW 2 id) fun v => { v with pics := [(1, { noPic with runs := [{ start := 0, intra := true, ts := 0 }] })] }) fun b =>
      { b with tick := 9000 }), 0, 1, (contribOf (st (onBell (onVid (vidW 2 id) fun v =>
      { v with pics := [(1, { noPic with runs := [{ start := 0, intra := true, ts := 0 }] })] }) fun b => { b with tick := 9000 })).start 0).get
      (by decide +kernel), { start := 0, intra := true, ts := 0 }, [], by decide +kernel⟩,
    ⟨st (strW id 0), 0, 0, none, (tget (st (strW id 0)).start.vid.streams (streamKey 0 0 none)).get (by decide +kernel), by decide +kernel⟩,
    ⟨st (strW id 9000), 0, 0, none, (tget (st (strW id 9000)).start.vid.streams (streamKey 0 0 none)).get (by decide +kernel), _, _, ⟨by
      decide +kernel, by decide +kernel, by decide +kernel, by decide +kernel, rfl, rfl, by decide +kernel⟩⟩,
    ⟨st (strW (fun z =>
      { z with cells := [{ occ := none, shown := 0, filled := false, next := none, nextFrom := 0, pointFrom := 0, cand := some 4, held := 5000 }], geometry := { w := 1, h := 1, fps := 30, cells := [{ cell0 with kind := 2 }] } })
      0), 0, 0, none, 0, (tget (st (strW (fun z =>
      { z with cells := [{ occ := none, shown := 0, filled := false, next := none, nextFrom := 0, pointFrom := 0, cand := some 4, held := 5000 }], geometry := { w := 1, h := 1, fps := 30, cells := [{ cell0 with kind := 2 }] } })
      0)).start.vid.streams (streamKey 0 0 none)).get (by decide +kernel),
      { occ := none, shown := 0, filled := false, next := none, nextFrom := 0, pointFrom := 0, cand := some 4, held := 5000 },
      { cell0 with kind := 2 }, (tget (st (strW (fun z =>
      { z with cells := [{ occ := none, shown := 0, filled := false, next := none, nextFrom := 0, pointFrom := 0, cand := some 4, held := 5000 }], geometry := { w := 1, h := 1, fps := 30, cells := [{ cell0 with kind := 2 }] } })
      0)).start.vid.layouts (((tget (st (strW (fun z =>
      { z with cells := [{ occ := none, shown := 0, filled := false, next := none, nextFrom := 0, pointFrom := 0, cand := some 4, held := 5000 }], geometry := { w := 1, h := 1, fps := 30, cells := [{ cell0 with kind := 2 }] } })
      0)).start.vid.streams (streamKey 0 0 none)).get (by decide +kernel))).layout).get (by decide +kernel), 4, by decide +kernel⟩,
    ⟨st (strW id 9000), 0, 0, none, (tget (st (strW id 9000)).start.vid.streams (streamKey 0 0 none)).get (by decide +kernel), (tget (st (strW id
      9000)).start.vid.layouts (((tget (st (strW id 9000)).start.vid.streams (streamKey 0 0 none)).get (by decide +kernel))).layout).get
      (by decide +kernel), by decide +kernel⟩⟩

theorem witness_PowerEventsComplete :
    (∃ (s : State) (domain : Nat), (domain ≤ 39 ∧ domState s.start domain = .poweringUp))
    ∧ (∃ (s : State) (domain : Nat), domState s.start domain ≠ .poweringUp)
    ∧ (∃ (s : State) (domain : Nat), (domain ≤ 39 ∧ domState s.start domain = .shuttingDown ∧ s.start.pwr.domPend.contains domain = false))
    ∧ (∃ (s : State) (domain : Nat), (domain ≤ 39 ∧ domState s.start domain = .shuttingDown ∧ s.start.pwr.domPend.contains domain = true))
    ∧ (∃ (s : State) (w : _), (s.start.pwr.winter = some w ∧ w.step = 2 ∧ s.start.pwr.phase = .entering))
    ∧ (∃ (s : State) (w : _), (s.start.pwr.winter = some w ∧ w.step = 3 ∧ s.start.pwr.phase = .entering))
    ∧ (∃ (s : State) (w : _), (s.start.pwr.winter = some w ∧ w.step = 3 ∧ s.start.pwr.phase = .entering ∧ w.ctx = none))
    ∧ (∃ (s : State) (pin : Nat) (a : Bool) (b : Bool) (c : Bool), (pin < 4 ∧ s.start.pwr.season = .winter ∧ s.start.pwr.phase = .steady ∧
      s.start.pwr.wakeCtrl.getLsbD (4 * pin) = true ∧ a = !s.start.pwr.wakeCtrl.getLsbD (4 * pin + 1) ∧ b = s.start.pwr.wakeCtrl.getLsbD (4 * pin + 1)
      ∧ c = s.start.pwr.wakeCtrl.getLsbD (4 * pin + 1)))
    ∧ (∃ (s : State) (pin : Nat) (a : Bool) (b : Bool) (c : Bool), (pin < 4 ∧ s.start.pwr.season = .summer ∧ s.start.pwr.phase = .steady ∧
      s.start.pwr.wakeCtrl.getLsbD (4 * pin) = true ∧ a = !s.start.pwr.wakeCtrl.getLsbD (4 * pin + 1) ∧ b = s.start.pwr.wakeCtrl.getLsbD (4 * pin + 1)
      ∧ c = s.start.pwr.wakeCtrl.getLsbD (4 * pin + 1)))
    ∧ (∃ (s : State), (s.start.pwr.wakeCtrl.getLsbD 16 = true ∧ s.start.pwr.season = .winter ∧ s.start.pwr.phase = .steady))
    ∧ (∃ (s : State), s.start.pwr.wakeCtrl.getLsbD 16 = false)
    ∧ (∃ (s : State) (count : BitVec 48), (s.start.pwr.alarmEn = true ∧ (count - s.start.pwr.alarm).toNat < 2 ^ 47 ∧ s.start.pwr.season = .winter ∧
      s.start.pwr.phase = .steady))
    ∧ (∃ (s : State), s.start.pwr.alarmEn = false)
    ∧ (∃ (s : State), (s.start.pwr.season = .winter ∧ s.start.pwr.phase = .steady))
    ∧ (∃ (s : State), s.start.pwr.season ≠ .winter)
    ∧ (∃ (s : State) (w : _), (s.start.pwr.winter = some w ∧ w.step = 5 ∧ s.start.pwr.phase = .entering ∧ w.held = none ∧ domState s.start 1 = .on))
    ∧ (∃ (s : State) (w : _) (who : _), (s.start.pwr.winter = some w ∧ w.step = 5 ∧ s.start.pwr.phase = .entering ∧ w.held = some who))
    ∧ (∃ (s : State) (ack : Nat) (vdone : Bool) (r : _) (mv : _) (rest : _), (s.start.aux.avsTarget = (r, mv) :: rest ∧ ack = 0 ∧ vdone = true ∧ rest ≠
      []))
    ∧ (∃ (s : State) (ack : Nat) (vdone : Bool) (expired : Bool) (r : _) (mv : _) (rest : _), (s.start.aux.avsTarget = (r, mv) :: rest ∧ ack = 0 ∧
      vdone = false ∧ expired = false))
    ∧ (∃ (s : State) (ack : Nat) (vdone : Bool) (expired : Bool) (r : _) (mv : _) (rest : _), (s.start.aux.avsTarget = (r, mv) :: rest ∧ (ack ≠ 0 ∨
      (vdone = false ∧ expired = true)) ∧ s.start.aux.avsTries < 2))
    ∧ (∃ (s : State) (ack : Nat) (r : _) (mv : _) (rest : _), (s.start.aux.avsTarget = (r, mv) :: rest ∧ ack ≠ 0 ∧ 2 ≤ s.start.aux.avsTries ∧
      s.start.pwr.phase = .entering))
    ∧ (∃ (s : State) (w : _), (s.start.pwr.winter = some w ∧ s.start.pwr.season = .winter ∧ s.start.pwr.phase = .thawing ∧ w.step = 6 ∧
      s.start.aux.avsTarget = []))
    ∧ (∃ (s : State) (w : _), (s.start.pwr.winter = some w ∧ s.start.pwr.phase = .thawing ∧ w.step = 8 ∧ s.start.pwr.thawSeason = 0))
    ∧ (∃ (s : State) (x : _), (s.start.pwr.seasonCtx = some x ∧ (∀ k ∈ (List.range 16).map (· + 17) ++ s.start.aux.codecGated, domState s.start k ≠
      .poweringUp)))
    ∧ (∃ (s : State), s.start.pwr.season ≠ .autumn)
    ∧ (∃ (s : State) (g : _), (s.start.pwr.season = .autumn ∧ s.start.pwr.phase = .steady ∧ s.start.pwr.seasonCtx = none ∧ s.start.pwr.gateCodecs =
      false ∧ s.start.pwr.minGroups < (ungated s.start).length ∧ s.start.aux.gating = none ∧ lowestGroup s.start ((ungated s.start).filter (mayGate
      s.start)) = some g))
    ∧ (∃ (s : State) (g : _), (s.start.aux.gating = some g ∧ g < 16 ∧ groupClear s.start g = true ∧ (groupOf s.start g).st = .ready ∧
      s.start.pwr.season = .autumn ∧ (∀ r ∈ s.start.aud.routes, r.2.engine / 16 = g → r.2.rcd.gateOk = true) ∧ domState s.start (17 + g) = .on))
    ∧ (∃ (s : State) (g : _), (s.start.aux.gating = some g ∧ groupClear s.start g = false))
    ∧ (∃ (s : State) (j : _), (s.start.pwr.swap = some j ∧ s.start.aux.swapState = 1))
    ∧ (∃ (s : State) (j : _), (s.start.pwr.swap = some j ∧ s.start.aux.swapState = 1))
    ∧ (∃ (s : State) (core : Nat), (core ≤ 7 ∧ s.start.aux.fenced.contains core = false)) :=
  ⟨⟨st (onPwr world fun p => { p with doms := [(0, .poweringUp)] }), 0, by decide +kernel⟩,
    ⟨st world, 0, by decide +kernel⟩,
    ⟨st (onPwr world fun p => { p with doms := [(0, .shuttingDown)] }), 0, by decide +kernel⟩,
    ⟨st (onPwr world fun p => { p with doms := [(0, .shuttingDown)], domPend := [0] }), 0, by decide +kernel⟩,
    ⟨st (winW .entering 2 id), ((st (winW .entering 2 id)).start.pwr.winter).get (by decide +kernel), by decide +kernel⟩,
    ⟨st (winW .entering 3 id), ((st (winW .entering 3 id)).start.pwr.winter).get (by decide +kernel), by decide +kernel⟩,
    ⟨st (winW .entering 3 id), ((st (winW .entering 3 id)).start.pwr.winter).get (by decide +kernel), by decide +kernel⟩,
    ⟨st (onPwr world fun p => { p with season := .winter, wakeCtrl := 1 }), 0, true, false, false, by decide +kernel⟩,
    ⟨st (onPwr world fun p => { p with season := .summer, wakeCtrl := 1 }), 0, true, false, false, by decide +kernel⟩,
    ⟨st (onPwr world fun p => { p with season := .winter }), by decide +kernel⟩,
    ⟨st (onPwr world fun p => { p with wakeCtrl := 0 }), by decide +kernel⟩,
    ⟨st (onPwr world fun p => { p with season := .winter, alarmEn := true, alarm := 5 }), 5, by decide +kernel⟩,
    ⟨st world, by decide +kernel⟩,
    ⟨st (onPwr world fun p => { p with season := .winter }), by decide +kernel⟩,
    ⟨st world, by decide +kernel⟩,
    ⟨st (winW .entering 5 id), ((st (winW .entering 5 id)).start.pwr.winter).get (by decide +kernel), by decide +kernel⟩,
    ⟨st (winW .entering 5 (fun w => { w with held := some wake0 })), ((st (winW .entering 5 (fun w =>
      { w with held := some wake0 }))).start.pwr.winter).get (by decide +kernel), wake0, by decide +kernel⟩,
    ⟨st { world with aux := { world.aux with avsTarget := [(1, 900), (2, 800)] } }, 0, true, 1, 900, [(2, 800)], by decide +kernel⟩,
    ⟨st { world with aux := { world.aux with avsTarget := [(1, 900)] } }, 0, false, false, 1, 900, [], by decide +kernel⟩,
    ⟨st { world with aux := { world.aux with avsTarget := [(1, 900)] } }, 1, false, false, 1, 900, [], by decide +kernel⟩,
    ⟨st { winW .entering 5 id with aux := { world.aux with avsTarget := [(1, 900)], avsTries := 2 } }, 1, 1, 900, [], by decide +kernel⟩,
    ⟨st (onPwr (winW .thawing 6 id) fun p => { p with season := .winter }), ((st (onPwr (winW .thawing 6 id) fun p =>
      { p with season := .winter })).start.pwr.winter).get (by decide +kernel), by decide +kernel⟩,
    ⟨st (winW .thawing 8 id), ((st (winW .thawing 8 id)).start.pwr.winter).get (by decide +kernel), by decide +kernel⟩,
    ⟨st (onPwr world fun p => { p with seasonCtx := some stg.ctx }), ((st (onPwr world fun p =>
      { p with seasonCtx := some stg.ctx })).start.pwr.seasonCtx).get (by decide +kernel), by decide +kernel⟩,
    ⟨st world, by decide +kernel⟩,
    ⟨st (onPwr world fun p => { p with season := .autumn, gateCodecs := false, minGroups := 2 }), (lowestGroup (st (onPwr world fun p =>
      { p with season := .autumn, gateCodecs := false, minGroups := 2 })).start ((ungated (st (onPwr world fun p =>
      { p with season := .autumn, gateCodecs := false, minGroups := 2 })).start).filter (mayGate (st (onPwr world fun p =>
      { p with season := .autumn, gateCodecs := false, minGroups := 2 })).start))).get (by decide +kernel), by decide +kernel⟩,
    ⟨st { onPwr world (fun p => { p with season := .autumn }) with aux := { world.aux with gating := some 3 } }, ((st
      { onPwr world (fun p => { p with season := .autumn }) with aux := { world.aux with gating := some 3 } }).start.aux.gating).get
      (by decide +kernel), by decide +kernel⟩,
    ⟨st { full with aux := { world.aux with gating := some 0 } }, 0, by decide +kernel⟩,
    ⟨st
      { onPwr world (fun p => { p with swap := some { slot := 0, img := img0, startTick := 0, ctx := stg.ctx } }) with aux := { world.aux with swapState := 1 } },
      { slot := 0, img := img0, startTick := 0, ctx := stg.ctx }, by decide +kernel⟩,
    ⟨st
      { onPwr world (fun p => { p with swap := some { slot := 0, img := img0, startTick := 0, ctx := stg.ctx } }) with aux := { world.aux with swapState := 1 } },
      { slot := 0, img := img0, startTick := 0, ctx := stg.ctx }, by decide +kernel⟩,
    ⟨st world, 0, by decide +kernel⟩⟩

theorem witness_ResetEventsComplete :
    (∃ (s : State), s.start.pins.thermTrip = true)
    ∧ (∃ (s : State) (selfTestOk : Bool), (s.start.fold.boot.stage = .rom ∧ s.start.fold.boot.selftest = false ∧ s.start.pins.thermTrip = false ∧
      selfTestOk = false))
    ∧ (∃ (s : State) (selfTestOk : Bool), (s.start.fold.boot.stage = .rom ∧ s.start.fold.boot.selftest = false ∧ s.start.pins.thermTrip = false ∧
      selfTestOk = true ∧ s.start.fold.boot.store = []))
    ∧ (∃ (s : State) (strapped : Bool) (selfTestOk : Bool) (x : _) (y : _), (s.start.fold.boot.stage = .rom ∧ s.start.fold.boot.selftest = false ∧
      s.start.pins.thermTrip = false ∧ selfTestOk = true ∧ bootPick (bootRules strapped s.start) 2 = some x ∧ bootPick (bootRules strapped s.start) 3
      = some y)) :=
  ⟨⟨st (onPins Dev.reset fun p => { p with thermTrip := true }), by decide +kernel⟩,
    ⟨st Dev.reset, false, by decide +kernel⟩,
    ⟨st Dev.reset, true, by decide +kernel⟩,
    ⟨st (onBoot Dev.reset fun b => { b with store := [(4, img0), (6, { img0 with kind := 3 })] }), false, true, (bootPick (bootRules false (st
      (onBoot Dev.reset fun b => { b with store := [(4, img0), (6, { img0 with kind := 3 })] })).start) 2).get (by decide +kernel), (bootPick
      (bootRules false (st (onBoot Dev.reset fun b => { b with store := [(4, img0), (6, { img0 with kind := 3 })] })).start) 3).get
      (by decide +kernel), by decide +kernel⟩⟩

end Sys2Proof.Machine
end

section
/-! PROOFS. Every step completes and keeps the tidy state (O4). -/

namespace Sys2Proof.Machine

theorem powerOnReset_memOut (d : Dev) : (powerOnReset d).memOut = [] := rfl

/-- Every command completes, and from a canonical Pasture leaves a tidy state: the writes that it posted are made before it ends. -/
theorem exec_tidy (i : Instr) (s : State) (hm : Memory.wf s.mem) : ∃ t, exec i s = .next t ∧ t.Tidy := by
  rcases exec_cases i s with ⟨d, hd⟩ | hreset
  · exact ⟨_, hd, memWrites_wf s.mem d.memOut hm, rfl⟩
  · exact ⟨_, hreset, ⟨List.Pairwise.nil, by simp⟩, powerOnReset_memOut s.dev⟩

/-- Settles O4: a step idles in a state that is tidy already, or runs the command at the front of the queue. -/
theorem stepKeepsTidy : Obligations.StepKeepsTidy := by
  unfold Obligations.StepKeepsTidy
  rintro s ⟨hmem, hout⟩
  unfold safeStep step
  split
  · exact ⟨s, rfl, hmem, hout⟩
  · next c rest _ => exact exec_tidy c { s with pending := rest } hmem

end Sys2Proof.Machine
end

section
/-! PROOFS. Every command but those that store to Pasture leaves every byte of it (O6): the events, and the Kervon packets. -/

namespace Sys2Proof.Machine

/-! ### Packets: what a command's own conditions may leave on its way to Pasture -/

/-- Every device that a result may leave has the same writes to Pasture on their way as `d` has. -/
inductive ActResult.PostsNothing (d : Dev) : ActResult → Prop
  | refuse (st : Status) (reason field : Nat) : PostsNothing d (.refuse st reason field)
  | refuseWith (st : Status) (reason field : Nat) {e : Dev} (h : e.memOut = d.memOut) : PostsNothing d (.refuseWith st reason field e)
  | read (data : List Nat) {e : Dev} (h : e.memOut = d.memOut) : PostsNothing d (.read data e)
  | now (data : List Nat) {e : Dev} (h : e.memOut = d.memOut) : PostsNothing d (.now data e)
  | stage (acc : Bool) (pick : Nat) (data : List Nat) (wait : Option Nat) {e : Dev} (h : e.memOut = d.memOut) :
      PostsNothing d (.stage acc pick data wait e)
  | accepted (atBell : Bool) {f : ReplyCtx → Dev} (h : ∀ x, (f x).memOut = d.memOut) : PostsNothing d (.accepted atBell f)
  | deferred {f : ReplyCtx → Dev} (h : ∀ x, (f x).memOut = d.memOut) : PostsNothing d (.deferred f)
  | later {f : ReplyCtx → Dev} (h : ∀ x, (f x).memOut = d.memOut) : PostsNothing d (.later f)

@[simp] theorem otpBegin_memOut (d : Dev) (slot : Nat) (f : OtpFields) (x : ReplyCtx) : (otpBegin d slot f x).memOut = d.memOut :=
  (otpBegin_touch d slot f x).same .memOut rfl

@[simp] theorem importFail_memOut (d : Dev) : (importFail d).memOut = d.memOut := (importFail_touch d).same .memOut rfl

@[simp] theorem retireGem_memOut (d : Dev) : (retireGem d).memOut = d.memOut := (retireGem_touch d).same .memOut rfl

@[simp] theorem bankWrite_memOut (d : Dev) (block : Nat) (data : List (Nat × Int)) : (bankWrite d block data).memOut = d.memOut :=
  (bankWrite_touch d block data).same .memOut rfl

@[simp] theorem gaspQueue_memOut (d : Dev) (n : Nat) : (gaspQueue d n).memOut = d.memOut := (gaspQueue_touch d n).same .memOut rfl

@[simp] theorem setAccSt_memOut (d : Dev) (n : Nat) (want : AccSt) (now : Nat) : (setAccSt d n want now).memOut = d.memOut :=
  (setAccSt_touch d n want now).same .memOut rfl

@[simp] theorem endIfAllDisabled_memOut (d : Dev) : (endIfAllDisabled d).memOut = d.memOut := (endIfAllDisabled_touch d).same .memOut rfl

@[simp] theorem ingest_memOut (d : Dev) (q : Nat) (gem : Option Nat) (bs : List Byte) (stamp now : Nat) (twoStep : Option Nat) :
    (ingest d q gem bs stamp now twoStep).memOut = d.memOut := (ingest_touch d q gem bs stamp now twoStep).same .memOut rfl

@[simp] theorem addWait_memOut (d : Dev) (w : DomWait) : (addWait d w).memOut = d.memOut := (addWait_touch d w).same .memOut rfl

@[simp] theorem domainOn_memOut (d : Dev) (k : Nat) : (domainOn d k).memOut = d.memOut := (domainOn_touch d k).same .memOut rfl

@[simp] theorem deviceReset_memOut (d : Dev) : (deviceReset d).memOut = d.memOut := rfl

/-- The slices that ACC_DISABLE names go down one by one, or say their gasp first (R258). -/
theorem actAccDisable_postsNothing (mask : Nat) (gasp : Bool) (v d : Dev) : (actAccDisable mask gasp v d).PostsNothing d := by
  unfold actAccDisable
  split
  · exact .refuse ..
  · refine .later fun ctx => ?_
    simp only [onAcc_other, endIfAllDisabled_memOut]
    refine foldl_keeps Dev.memOut _ _ _ fun d n => ?_
    split_ifs <;> simp

/-- Of the packets, LEG_CREATE alone may post a write to Pasture: the status record of the leg that it holds staged. The other commands leave the device as it is,
or change a unit that posts nothing. -/
theorem actOf_postsNothing (c : KCmd) (hc : ∀ rcd, c ≠ .legCreate rcd) (v d : Dev) : (actOf c v d).PostsNothing d := by
  cases c
  case legCreate rcd => exact absurd rfl (hc rcd)
  case accDisable mask gasp => exact actAccDisable_postsNothing mask gasp v d
  case parseRuleQuery | trustOtpCommit | trustRootRotate | trustSessionOpen | trustSessionClose | trustBaseImport | trustBaseDestroy |
      trustKeylistLoad | saCreate | saDestroy | trustRollbackCommit | trustBootSeal | trustPresenceClose | trustDebugUnlock |
      trustFactoryReset | trustQuery | routeSet | audParamWrite | audCommit | legMigrate | confCreate | confModify | groupUpdate |
      imcTrunkSet | mgmtSessionClose | fwStoreWrite | fwRecover | hostPktTx | pwrDomainSet =>
    simp only [actOf,
      actMgmtSessionClose, actFwStoreWrite, actFwRecover, actHostPktTx, actConfCreate, actConfModify, actLegMigrate, actRouteSet,
      actAudParamWrite, actAudCommit, actGroupUpdate, actImcTrunkSet, actParseRuleQuery, actTrustQuery, actTrustBootSeal,
      actTrustKeylistLoad, actTrustSessionOpen, actTrustSessionClose, actTrustBaseImport, actTrustBaseDestroy, actSaCreate, actSaDestroy,
      actTrustRollbackCommit, actTrustOtpCommit, actTrustRootRotate, actTrustDebugUnlock, actTrustFactoryReset, actTrustPresenceClose,
      actPwrDomainSet]
    repeat' first
      | with_reducible constructor
      | split
    all_goals simp
  all_goals
    simp only [actOf,
      actSysQuery, actPastureAllotSet, actPastureQuery, actTimeConfig, actTimeSet, actTimeRate, actTimeOffsetConfirm, actMgmtConfig,
      actMgmtSessionQuery, actHostPktConfig, actDiagOmciRead, actDiagOmciList, actConfDestroy, actConfQuery, actLegModify, actLegDestroy,
      actLegRekey, actLegQuery, actPlaceSet, actPlaceQuery, actStatusTableSet, actRouteClear, actRouteQuery, actConsoleSet,
      actAudParamRead, actPortTdmConfig, actPortQuery, actConfAudioQuery, actContribSet, actSubscribeSet, actLayoutSet, actLayoutClear,
      actLayoutQuery, actVidConfig, actIntraRequest, actVidQuery, actEngineLoad, actEngineUnload, actFlockQuery, actAccConfig,
      actAccEnable, actAccQuery, actAccKillRelease, actAccBondConfig, actAccChannelLeave, actAccBondQuery, actImcTrunkClear,
      actImcTrunkQuery, actLaneQuery, actLaneGroupConfig, actLaneRecal, actLaneSpare, actCliConfig, actCliPath, actCliPortConfig,
      actCliAddrSet, actCliMacsecSet, actCliMacsecSa, actCliPortQuery, actParseRuleSet, actParseRuleClear, actParsePortSet,
      actParseHashProfileSet, actParseHashTableSet, actParseFragConfig, actParseQuery, actTmQueueAlloc, actTmQueueSet, actTmQueueFree,
      actTmGroupSet, actTmShaperSet, actTmRootSet, actTmPolicerSet, actTmMeterSet, actTmMeterMapSet, actTmBufConfig, actTmQuery,
      actIntegQuery, actIntegScrubSet, actIntegFlip, actIntegDigestConfig, actIntegDigestDump, actIntegRemap, actTrustIdentity,
      actTrustAttest, actTrustImportKey, actTrustFwVerify, actSaQuery, actCascConfig, actCascQuery, actCascConfBind, actCascTwinSet,
      actCascTakeover, actCascSaPair, actCtrlFwSwap, actPwrSeason, actPwrWinter, actPwrAlarmSet, actPwrAutumnConfig, actPwrQuery]
    repeat' first
      | with_reducible constructor
      | split

/-- What follows from a command's own conditions posts what they posted: replies, epochs and staging lie in the SYS block. -/
theorem kFinish_memOut (h : CmdHdr) (c : KCmd) (gated : Bool) {d : Dev} {r : ActResult} (hr : r.PostsNothing d) :
    (kFinish h c gated d r).memOut = d.memOut := by
  cases hr with
  | refuse | refuseWith _ _ _ h | read _ h | now _ h => simp [kFinish, *]
  | stage acc _ _ _ h => cases acc <;> simp [kFinish, h]
  | accepted _ h | deferred h | later h => simp [kFinish, h]

/-- A packet that is dropped or refused posts nothing, and one that passes its checks what its own conditions posted. -/
theorem kRun_memOut (v : Dev) (h : CmdHdr) (c : KCmd) (gated : Bool) (doms : List Nat) (act : Dev → Dev → ActResult) (d : Dev)
    (ha : (act v d).PostsNothing d) : (kRun v h c gated doms act d).memOut = d.memOut := by
  unfold kRun
  split
  · rfl
  split
  · rfl
  split
  · simp
  split
  · simp
  split
  · simp
  · exact kFinish_memOut h c gated ha

/-- The reset that a reply may bring on keeps what is on its way to Pasture (R501, R531). -/
theorem resetAfter_memOut (d : Dev) : (resetAfter d).memOut = d.memOut := by
  unfold resetAfter; split <;> rfl

/-- An image is read for a command of the same name. -/
theorem withImage_ne_legCreate (m : Memory) {c : KCmd} (hc : ∀ rcd, c ≠ .legCreate rcd) (rcd : LegRec) : withImage m c ≠ .legCreate rcd := by
  unfold withImage
  split
  case h_5 => exact hc rcd
  all_goals exact fun h => KCmd.noConfusion h

/-- A packet other than LEG_CREATE changes the device alone. -/
theorem kervonNext_becomes (h : CmdHdr) {c : KCmd} (hc : ∀ rcd, c ≠ .legCreate rcd) (s : State) : ∃ d, kervonNext h c (actOf c) s = s.become d :=
  ⟨_, nextDev_become s _ <| by
    unfold runPacket
    rw [resetAfter_memOut, kRun_memOut _ _ _ _ _ _ _ (actOf_postsNothing c hc _ _), start_memOut]⟩

/-- A command that is the packet LEG_CREATE is among those that may store. -/
theorem writesPasture_of_legCreate {i : Instr} {h : CmdHdr} {rcd : LegRec} (hk : kOf i = some (h, .legCreate rcd)) : writesPasture i = true := by
  cases i <;> first | rfl | cases hk

/-! ### Events and accesses -/

theorem exec_porNAssert (s : State) : exec .porNAssert s = s.become (deviceReset s.start) := nextDev_become s deviceReset rfl

theorem exec_supplyDip (s : State) : exec .supplyDip s = s.become (deviceReset s.start) := nextDev_become s deviceReset rfl

theorem exec_thermtrip (s : State) : exec .thermtrip s = s.become (deviceReset (onPins s.start fun p => { p with thermTrip := true })) :=
  nextDev_become s (fun d => deviceReset (onPins d fun p => { p with thermTrip := true })) rfl

/-- Of the events and accesses, those that `writesPasture` does not name change the device alone. -/
theorem event_becomes (i : Instr) (s : State) (hk : kOf i = none) (hw : writesPasture i = false) : ∃ d, exec i s = s.become d := by
  cases i
  case stagingCutoff => exact ⟨_, exec_stagingCutoff ..⟩
  case poolHandover => exact ⟨_, b_poolHandover ..⟩
  case pastureRequest => exact ⟨_, b_pastureRequest ..⟩
  case referenceEvent => exact ⟨_, b_referenceEvent ..⟩
  case referenceMissing => exact ⟨_, b_referenceMissing ..⟩
  case bellSnap => exact ⟨_, b_bellSnap ..⟩
  case tickLoRead => exact ⟨_, b_tickLoRead ..⟩
  case sleepCntLoRead => exact ⟨_, b_sleepCntLoRead ..⟩
  case tsqW3Read => exact ⟨_, b_tsqW3Read ..⟩
  case todMessage => exact ⟨_, b_todMessage ..⟩
  case ppsOutEdge => exact ⟨_, b_ppsOutEdge ..⟩
  case sleepCalMeasure => exact ⟨_, b_sleepCalMeasure ..⟩
  case bellMarkerRx => exact ⟨_, b_bellMarkerRx ..⟩
  case successionClaim => exact ⟨_, b_successionClaim ..⟩
  case cascDelayMeasure => exact ⟨_, b_cascDelayMeasure ..⟩
  case fwStoreWriteDone => exact ⟨_, exec_fwStoreWriteDone ..⟩
  case legPacketRx => exact ⟨_, b_legPacketRx ..⟩
  case rekeyGraceEnd => exact ⟨_, b_rekeyGraceEnd ..⟩
  case feedbackReportSend => exact ⟨_, b_feedbackReportSend ..⟩
  case nackSend => exact ⟨_, b_nackSend ..⟩
  case headsetBankSwap => exact ⟨_, b_headsetBankSwap ..⟩
  case hsDetInsertEdge => exact ⟨_, exec_hsDetInsertEdge ..⟩
  case hsInsertDebounced => exact ⟨_, exec_hsInsertDebounced ..⟩
  case hsClassify => exact ⟨_, exec_hsClassify ..⟩
  case hsButtonArm => exact ⟨_, exec_hsButtonArm ..⟩
  case hsDetRemoveEdge => exact ⟨_, exec_hsDetRemoveEdge ..⟩
  case hsRemoveExpiry => exact ⟨_, exec_hsRemoveExpiry ..⟩
  case hsButtonSample => exact ⟨_, exec_hsButtonSample ..⟩
  case tdmFrameRx => exact ⟨_, exec_tdmFrameRx ..⟩
  case tdmAlarmTimeout => exact ⟨_, exec_tdmAlarmTimeout ..⟩
  case contribPictureRx => exact ⟨_, b_contribPictureRx ..⟩
  case decodeDone => exact ⟨_, b_decodeDone ..⟩
  case tierEncodeDone => exact ⟨_, b_tierEncodeDone ..⟩
  case splicePicture => exact ⟨_, b_splicePicture ..⟩
  case talkerCellHold => exact ⟨_, b_talkerCellHold ..⟩
  case layoutRefresh => exact ⟨_, b_layoutRefresh ..⟩
  case eventPulse => exact ⟨_, b_eventPulse ..⟩
  case groupUpdateLoad => exact ⟨_, b_groupUpdateLoad ..⟩
  case groupUpdateDone => exact ⟨_, b_groupUpdateDone ..⟩
  case downstreamFrame => exact ⟨_, b_downstreamFrame ..⟩
  case opticsSdLoss => exact ⟨_, b_opticsSdLoss ..⟩
  case ploamBurstProfile => exact ⟨_, b_ploamBurstProfile ..⟩
  case ploamAssignOnuId => exact ⟨_, b_ploamAssignOnuId ..⟩
  case ploamRangingTime => exact ⟨_, b_ploamRangingTime ..⟩
  case ploamDeactivateOnuId => exact ⟨_, b_ploamDeactivateOnuId ..⟩
  case ploamDisableSerialNumber => exact ⟨_, b_ploamDisableSerialNumber ..⟩
  case ploamRequestRegistration => exact ⟨_, b_ploamRequestRegistration ..⟩
  case ploamAssignAllocId => exact ⟨_, b_ploamAssignAllocId ..⟩
  case ploamKeyControl => exact ⟨_, b_ploamKeyControl ..⟩
  case ploamSleepAllow => exact ⟨_, b_ploamSleepAllow ..⟩
  case ploamUnknownType => exact ⟨_, b_ploamUnknownType ..⟩
  case bwmapRx => exact ⟨_, b_bwmapRx ..⟩
  case burstCommit => exact ⟨_, b_burstCommit ..⟩
  case burstWindow => exact ⟨_, exec_burstWindow ..⟩
  case watchdogTrip => exact ⟨_, b_watchdogTrip ..⟩
  case to1Expiry => exact ⟨_, b_to1Expiry ..⟩
  case to2Expiry => exact ⟨_, b_to2Expiry ..⟩
  case tkeyExpiry => exact ⟨_, b_tkeyExpiry ..⟩
  case flapWindowExpiry => exact ⟨_, b_flapWindowExpiry ..⟩
  case quarantineExpiry => exact ⟨_, b_quarantineExpiry ..⟩
  case gemFrameRx => exact ⟨_, exec_gemFrameRx ..⟩
  case gemReassemblyTimeout => exact ⟨_, exec_gemReassemblyTimeout ..⟩
  case omciMessage => exact ⟨_, exec_omciMessage ..⟩
  case dyingGaspDisable => exact ⟨_, exec_dyingGaspDisable ..⟩
  case sleepAwarePeriod => exact ⟨_, b_sleepAwarePeriod ..⟩
  case bondFragmentRx => exact ⟨_, exec_bondFragmentRx ..⟩
  case reorderDeadline => exact ⟨_, exec_reorderDeadline ..⟩
  case bondOffer => exact ⟨_, exec_bondOffer ..⟩
  case channelAdd => exact ⟨_, exec_channelAdd ..⟩
  case channelRemove => exact ⟨_, exec_channelRemove ..⟩
  case bondAlloc => exact ⟨_, exec_bondAlloc ..⟩
  case bondRelease => exact ⟨_, exec_bondRelease ..⟩
  case bondMsgUnknown => exact ⟨_, exec_bondMsgUnknown ..⟩
  case channelJoinFrame => exact ⟨_, exec_channelJoinFrame ..⟩
  case channelDeparture => exact ⟨_, exec_channelDeparture ..⟩
  case bondMsgRetry => exact ⟨_, exec_bondMsgRetry ..⟩
  case imcStreamRx => exact ⟨_, b_imcStreamRx ..⟩
  case imcDegInterval => exact ⟨_, b_imcDegInterval ..⟩
  case laneAdapted => exact ⟨_, b_laneAdapted ..⟩
  case laneCdrLoss => exact ⟨_, b_laneCdrLoss ..⟩
  case eyeScan => exact ⟨_, b_eyeScan ..⟩
  case laneMarkerRx => exact ⟨_, b_laneMarkerRx ..⟩
  case laneRecalPeriodic => exact ⟨_, b_laneRecalPeriodic ..⟩
  case laneFailure => exact ⟨_, b_laneFailure ..⟩
  case laneSlip => exact ⟨_, b_laneSlip ..⟩
  case clientFrameRx => exact ⟨_, b_clientFrameRx ..⟩
  case tmDequeue => exact ⟨_, b_tmDequeue ..⟩
  case linkChange => exact ⟨_, b_linkChange ..⟩
  case lldpSend => exact ⟨_, b_lldpSend ..⟩
  case lpiEnter => exact ⟨_, b_lpiEnter ..⟩
  case lpiWake => exact ⟨_, b_lpiWake ..⟩
  case serviceCollision => exact ⟨_, b_serviceCollision ..⟩
  case backoffExpiry => exact ⟨_, b_backoffExpiry ..⟩
  case rgmiiInbandStatus => exact ⟨_, b_rgmiiInbandStatus ..⟩
  case statSnap => exact ⟨_, b_statSnap ..⟩
  case cntLoRead => exact ⟨_, b_cntLoRead ..⟩
  case mkaFrame => exact ⟨_, b_mkaFrame ..⟩
  case fragAgeExpiry => exact ⟨_, b_fragAgeExpiry ..⟩
  case queueFreeDrainEnd => exact ⟨_, b_queueFreeDrainEnd ..⟩
  case hwmReset => exact ⟨_, b_hwmReset ..⟩
  case droveStart => exact ⟨_, b_droveStart ..⟩
  case droveResume => exact ⟨_, b_droveResume ..⟩
  case droveSkip => exact ⟨_, b_droveSkip ..⟩
  case droveAbort => exact ⟨_, b_droveAbort ..⟩
  case droveTrigger => exact ⟨_, b_droveTrigger ..⟩
  case rowRemapStart => exact ⟨_, b_rowRemapStart ..⟩
  case rowRemapComplete => exact ⟨_, b_rowRemapComplete ..⟩
  case cvInit => exact ⟨_, b_cvInit ..⟩
  case cvData8 => exact ⟨_, b_cvData8 ..⟩
  case cvData16 => exact ⟨_, b_cvData16 ..⟩
  case cvData32 => exact ⟨_, b_cvData32 ..⟩
  case cvValueWrite => exact ⟨_, b_cvValueWrite ..⟩
  case cvAliveWrite => exact ⟨_, b_cvAliveWrite ..⟩
  case digestPublish => exact ⟨_, exec_digestPublish ..⟩
  case digestDriftCheck => exact ⟨_, exec_digestDriftCheck ..⟩
  case boot => exact ⟨_, exec_boot ..⟩
  case autoseal => exact ⟨_, b_autoseal ..⟩
  case presencePress => exact ⟨_, b_presencePress ..⟩
  case presenceWindowExpiry => exact ⟨_, b_presenceWindowExpiry ..⟩
  case presenceStuck => exact ⟨_, b_presenceStuck ..⟩
  case sealBroken => exact ⟨_, b_sealBroken ..⟩
  case sealRestored => exact ⟨_, b_sealRestored ..⟩
  case otpProgramDone => exact ⟨_, b_otpProgramDone ..⟩
  case rngHealthFail => exact ⟨_, b_rngHealthFail ..⟩
  case sqTailDoorbell => exact ⟨_, exec_sqTailDoorbell ..⟩
  case cqHeadDoorbell => exact ⟨_, exec_cqHeadDoorbell ..⟩
  case ringEnable => exact ⟨_, exec_ringEnable ..⟩
  case leafWrite => exact ⟨_, exec_leafWrite ..⟩
  case msixEnable => exact ⟨_, exec_msixEnable ..⟩
  case registerWrite => exact ⟨_, exec_registerWrite ..⟩
  case sessionHello => exact ⟨_, exec_sessionHello ..⟩
  case sessionProof => exact ⟨_, exec_sessionProof ..⟩
  case sessionCommand => exact ⟨_, exec_sessionCommand ..⟩
  case sessionClose => exact ⟨_, exec_sessionClose ..⟩
  case sessionIdleTimeout => exact ⟨_, exec_sessionIdleTimeout ..⟩
  case sessionProofTimeout => exact ⟨_, exec_sessionProofTimeout ..⟩
  case cascKeepaliveSend => exact ⟨_, b_cascKeepaliveSend ..⟩
  case cascHelloSend => exact ⟨_, b_cascHelloSend ..⟩
  case cascTopoSend => exact ⟨_, b_cascTopoSend ..⟩
  case twinBeatSend => exact ⟨_, b_twinBeatSend ..⟩
  case cascHelloRx => exact ⟨_, b_cascHelloRx ..⟩
  case cascTopoRx => exact ⟨_, b_cascTopoRx ..⟩
  case cascKeepaliveRx => exact ⟨_, b_cascKeepaliveRx ..⟩
  case cascLaneCopyRx => exact ⟨_, b_cascLaneCopyRx ..⟩
  case cascDigestRx => exact ⟨_, exec_cascDigestRx ..⟩
  case cascTakeoverRx => exact ⟨_, b_cascTakeoverRx ..⟩
  case cascTwinBeatRx => exact ⟨_, b_cascTwinBeatRx ..⟩
  case cascDataRx => exact ⟨_, b_cascDataRx ..⟩
  case cascMediaRx => exact ⟨_, b_cascMediaRx ..⟩
  case cascPortTimeout => exact ⟨_, b_cascPortTimeout ..⟩
  case cascPortRetry => exact ⟨_, b_cascPortRetry ..⟩
  case twinPartnerLost => exact ⟨_, b_twinPartnerLost ..⟩
  case twinTakeover => exact ⟨_, b_twinTakeover ..⟩
  case domainUpDone => exact ⟨_, exec_domainUpDone ..⟩
  case domainDownDone => exact ⟨_, exec_domainDownDone ..⟩
  case autumnEvaluate => exact ⟨_, exec_autumnEvaluate ..⟩
  case autumnGateGroup => exact ⟨_, exec_autumnGateGroup ..⟩
  case seasonSummerReady => exact ⟨_, exec_seasonSummerReady ..⟩
  case winterReady => exact ⟨_, exec_winterReady ..⟩
  case pmeTurnOff => exact ⟨_, exec_pmeTurnOff ..⟩
  case linkWaitExpiry => exact ⟨_, exec_linkWaitExpiry ..⟩
  case winterCommit => exact ⟨_, exec_winterCommit ..⟩
  case wakePin => exact ⟨_, exec_wakePin ..⟩
  case wakeHeadEnd => exact ⟨_, exec_wakeHeadEnd ..⟩
  case wakeAlarm => exact ⟨_, exec_wakeAlarm ..⟩
  case coreHeartbeatLoss => exact ⟨_, exec_coreHeartbeatLoss ..⟩
  case thaw => exact ⟨_, exec_thaw ..⟩
  case thawDone => exact ⟨_, exec_thawDone ..⟩
  case controlCoreFence => exact ⟨_, exec_controlCoreFence ..⟩
  case porNAssert => exact ⟨_, exec_porNAssert ..⟩
  case supplyDip => exact ⟨_, exec_supplyDip ..⟩
  case perstN => exact ⟨_, exec_perstN ..⟩
  case thermtrip => exact ⟨_, exec_thermtrip ..⟩
  case thermtripClear => exact ⟨_, exec_thermtripClear ..⟩
  case registerRead => exact ⟨_, exec_registerRead ..⟩
  case presenceRelease => exact ⟨_, b_presenceRelease ..⟩
  case commandWaitExpiry => exact ⟨_, b_commandWaitExpiry ..⟩
  case ppsOutFall => exact ⟨_, b_ppsOutFall ..⟩
  case pauseQuantaExpiry => exact ⟨_, b_pauseQuantaExpiry ..⟩
  case pcieLinkL0 => exact ⟨_, exec_pcieLinkL0 ..⟩
  all_goals cases hk <;> cases hw

/-! ### The frame -/

/-- A command that `writesPasture` does not name changes the device alone. -/
theorem exec_becomes (i : Instr) (s : State) (hw : writesPasture i = false) : ∃ d, exec i s = s.become d := by
  cases hk : kOf i with
  | none => exact event_becomes i s hk hw
  | some p =>
    obtain ⟨h, c⟩ := p
    have hc : ∀ rcd, c ≠ .legCreate rcd := by
      rintro rcd rfl
      rw [writesPasture_of_legCreate hk] at hw
      cases hw
    rw [exec_kervon i s h c hk]
    exact kervonNext_becomes h (withImage_ne_legCreate s.mem hc) s

/-- Settles O6: the commands that `writesPasture` does not name post nothing to Pasture. -/
theorem pastureKept : Obligations.PastureKept := by
  unfold Obligations.PastureKept
  intro i s t hw ht
  obtain ⟨d, hd⟩ := exec_becomes i s hw
  rw [hd, State.become] at ht
  cases ht
  exact ⟨rfl, fun _ => rfl⟩

end Sys2Proof.Machine
end

section
/-! PROOFS. What doorbells, accesses to BAR0, interrupts and service-port sessions do where they complete (O38). -/

namespace Sys2Proof.Machine

/-! ### Rings (R522, R523) -/

theorem sqTail_of_le {value : Nat} (h : value ≤ 255) (d : Dev) (ring : Nat) (packets : List KPacket) :
    sqTail d ring value packets = onRing d ring (fun g =>
      { g with sqTail := value, slots := ((List.range packets.length).zip packets).foldl (fun t e => tset t (((ringOf d ring).sqTail + e.1) % 256) e.2) g.slots }) :=
  if_neg (Nat.not_lt.mpr h)

theorem sqTail_of_gt {value : Nat} (h : 255 < value) (d : Dev) (ring : Nat) (packets : List KPacket) : sqTail d ring value packets = ringStop d ring 1 :=
  if_pos h

theorem cqHead_of_le {value : Nat} (h : value ≤ 255) (d : Dev) (ring : Nat) :
    cqHead d ring value = cqDrain (onRing d ring (fun g => { g with cqHead := value })) ring 256 := if_neg (Nat.not_lt.mpr h)

theorem cqHead_of_gt {value : Nat} (h : 255 < value) (d : Dev) (ring : Nat) : cqHead d ring value = ringStop d ring 1 := if_pos h

/-- A doorbell whose ring's memory can be read, on a ring that exists, with PCIE on. -/
theorem exec_sqTailDoorbell_served {s : State} {ring : Nat} (hr : ring ≤ 3) (hon : domOn s.start 38 = true) (value : Nat) (packets : List KPacket) :
    exec (.sqTailDoorbell ring value packets false) s = s.become (sqTail s.start ring value packets) := by
  simp [exec_sqTailDoorbell, Nat.not_lt.mpr hr, hon]

theorem exec_cqHeadDoorbell_served {s : State} {ring : Nat} (hr : ring ≤ 3) (hon : domOn s.start 38 = true) (value : Nat) :
    exec (.cqHeadDoorbell ring value) s = s.become (cqHead s.start ring value) := by
  simp [exec_cqHeadDoorbell, Nat.not_lt.mpr hr, hon]

theorem exec_ringEnable_served {s : State} {ring : Nat} (hr : ring ≤ 3) (hon : domOn s.start 38 = true) (en : Bool) :
    exec (.ringEnable ring en) s = s.become (ringEn s.start ring en) := by
  simp [exec_ringEnable, Nat.not_lt.mpr hr, hon]

/-! ### MSI-X (R534) -/

/-- Sending or deferring a message leaves MSI-X in configuration space, and the mask of its entry, as they are. -/
theorem msixSend_config (d : Dev) :
    (msixSend d).sys.int.msixCfgEn = d.sys.int.msixCfgEn ∧ (msixSend d).sys.int.msixMasked = d.sys.int.msixMasked := by
  unfold msixSend; split_ifs <;> exact ⟨rfl, rfl⟩

theorem msixConfig_config (d : Dev) (cfgEn masked : Bool) :
    (msixConfig d cfgEn masked).sys.int.msixCfgEn = cfgEn ∧ (msixConfig d cfgEn masked).sys.int.msixMasked = masked := by
  unfold msixConfig
  dsimp only
  split
  · exact msixSend_config _
  · exact ⟨rfl, rfl⟩

/-- While INT_N is high no message is due. -/
theorem msixConfig_of_pin_high {d : Dev} (h : d.sys.int.pin = false) (cfgEn masked : Bool) :
    msixConfig d cfgEn masked = onInt d (fun i => { i with msixCfgEn := cfgEn, msixMasked := masked }) := by
  simp [msixConfig, onInt, h]

/-! ### BAR0 (R7, R38) -/

/-- TICK_LO is read in domain 3, and latches TICK_HI. -/
theorem bar0Read_tickLo {d : Dev} (hb : bar0Answers d = true) (hon : domOn d 3 = true) : bar0Read 0x100008 d = tickLoRead d := by
  simp [bar0Read, hostReads, hb, hon, regHas, bellHas, regDomain]

/-- A register of block 0 is read through its value, and what a read clears is cleared. -/
theorem bar0Read_block0 {d : Dev} {addr : Nat} (hb : bar0Answers d = true) (hlt : addr < 0x10000000) (hal : addr % 4 = 0) (hblk : addr / 0x100000 = 0)
    (hhas : regHas 0 (addr % 0x100000) = true) (hon : domOn d (regDomain 0 (addr % 0x100000)) = true) :
    bar0Read addr d = emitRead (regReadClear d 0 (addr % 0x100000)) addr (hostValue d 0 (addr % 0x100000)) := by
  have htick : addr ≠ 0x100008 := by omega
  have hsleep : addr ≠ 0x100300 := by omega
  simp [bar0Read, hostReads, hb, Nat.not_le.mpr hlt, hal, hblk, hhas, hon, htick, hsleep]

theorem bar0Read_unaligned {d : Dev} {addr : Nat} (hb : bar0Answers d = true) (hlt : addr < 0x10000000) (hal : addr % 4 ≠ 0) :
    bar0Read addr d = emitRead d addr 0 := by
  simp [bar0Read, hb, Nat.not_le.mpr hlt, hal]

/-- A write of a register that exists and is not dark: dropped where the control cores manage the register, made elsewhere. -/
theorem bar0Write_live {d : Dev} {addr : Nat} (hb : bar0Answers d = true) (hal : addr % 4 = 0) (hblk : addr / 0x100000 ≤ 16)
    (hhas : regHas (addr / 0x100000) (addr % 0x100000) = true) (hdark : darkPart d (addr / 0x100000) (addr % 0x100000) = false)
    (hon : domOn d (regDomain (addr / 0x100000) (addr % 0x100000)) = true) (v : Word) :
    bar0Write addr v d = if regManaged d (addr / 0x100000) (addr % 0x100000) then writeDropped addr d
      else regWrite d (addr / 0x100000) (addr % 0x100000) v := by
  simp [bar0Write, hostWrites, hb, hal, Nat.not_lt.mpr hblk, hhas, hdark, hon]

/-! ### Sessions (R526, R527) -/

theorem sessionHello_free {d : Dev} {k : Nat} (hon : sessionsOn d = true) (hk : (List.range 8).find? (fun k => (sessOf d k).st == .free) = some k)
    (addr port : Nat) :
    sessionHello d addr port = datagram (onSess (onFree d (fun n => n + 1)) k (fun _ =>
      { Sess.reset with st := .challenged, addr := addr, port := port, nonce := Config.free d.freeCtr % 2 ^ 256 })) k 2
      [((Config.free d.freeCtr % 2 ^ 256 : Nat) : Int)] := by
  simp [sessionHello, hon, hk, drawFree]

theorem sessionHello_off {d : Dev} (hoff : sessionsOn d = false) (addr port : Nat) : sessionHello d addr port = sessionDrop d := by
  simp [sessionHello, hoff]

theorem sessionProof_good {d : Dev} {k role : Nat} (hon : sessionsOn d = true) (hst : (sessOf d k).st = .challenged) (hrole : role ≤ 1) :
    sessionProof d k role (otpRules d).mgmtKeyHash true true
      = raiseLeaf (datagram (onSess d k (fun x => { x with st := .opened, role := role, txCtr := 1 })) k 4 []) 0 12 := by
  simp [sessionProof, hon, hst, hrole]

/-- A signature that does not hold ends the challenge. -/
theorem sessionProof_bad {d : Dev} {k : Nat} (hon : sessionsOn d = true) (hst : (sessOf d k).st = .challenged) (role keyHash : Nat) (decryptOk : Bool) :
    sessionProof d k role keyHash false decryptOk = raiseLeaf (onSess d k (fun _ => Sess.reset)) 0 13 := by
  simp [sessionProof, hon, hst]

theorem sessionCommand_newer {d : Dev} {k ctr : Nat} (hon : sessionsOn d = true) (hst : (sessOf d k).st = .opened) (hctr : (sessOf d k).rxCtr.toNat < ctr)
    (p : KPacket) :
    sessionCommand d k ctr true p
      = onSess d k (fun x => { x with rxCtr := BitVec.ofNat 64 ctr, lastCmd := some p, lastReply := none, queue := x.queue ++ [p] }) := by
  simp [sessionCommand, hon, hst, hctr]

theorem sessionCommand_older {d : Dev} {k ctr : Nat} (hon : sessionsOn d = true) (hst : (sessOf d k).st = .opened) (hctr : ctr < (sessOf d k).rxCtr.toNat)
    (p : KPacket) : sessionCommand d k ctr true p = sessionDrop d := by
  simp [sessionCommand, hon, hst, Nat.lt_asymm hctr, Nat.ne_of_lt hctr]

theorem raiseLeaf_sets (d : Dev) (w : Nat) {bit : Nat} (hb : bit < 32) : (leafWord (raiseLeaf d w bit).sys.int w).getLsbD bit = true := by
  simp [raiseLeaf_leaf, hb]

/-- An open session that closes is as at reset, and SESSION_CLOSED is raised (R527). -/
theorem sessionClose_opened {d : Dev} {k : Nat} (hst : (sessOf d k).st = .opened) :
    sessOf (sessionClose d k) k = Sess.reset ∧ (leafWord (sessionClose d k).sys.int 0).getLsbD 14 = true := by
  unfold sessionClose
  rw [if_neg (not_not_intro hst)]
  constructor
  · simp [sessOf]
  · exact raiseLeaf_sets _ 0 (by decide)

/-! ### Firmware and the staging cutoff (R512, R15) -/

/-- What an image's check sees of the device is not the job that waits for it. -/
theorem firmwareOk_storeJob (d : Dev) (kind : Nat) (img : ImageDesc) (lifted : Bool) :
    firmwareOk (onBoot d (fun b => { b with storeJob := none })) kind img lifted = firmwareOk d kind img lifted := rfl

theorem fwStoreDone_good {d : Dev} {j : StoreJob} (hj : d.fold.boot.storeJob = some j) (hok : firmwareOk d j.kind j.img false = none) :
    fwStoreDone d = followUp (onBoot (onBoot d (fun b => { b with storeJob := none }))
      (fun b => { b with store := tset b.store (2 * j.kind + j.slot) j.img })) j.ctx .done [] := by
  simp only [fwStoreDone, hj, firmwareOk_storeJob, hok]

theorem fwStoreDone_bad {d : Dev} {j : StoreJob} {st : Status} {r : Nat} (hj : d.fold.boot.storeJob = some j)
    (hbad : firmwareOk d j.kind j.img false = some (st, r)) :
    fwStoreDone d = followUp (onBoot d (fun b => { b with storeJob := none })) j.ctx st (refusalData r noField) := by
  simp only [fwStoreDone, hj, firmwareOk_storeJob, hbad]

/-- The copies that end with a tick leave the power domains and the firmware swap as they are. -/
theorem copiesDone_gates (d : Dev) : domOn (copiesDone d) 2 = domOn d 2 ∧ (copiesDone d).aux.swapState = d.aux.swapState := ⟨rfl, rfl⟩

/-- Settles O38, event by event: `exec` becomes the event's own operation, and the conditions say which case of it acts. -/
theorem hostAndSessionEventsComplete : Obligations.HostAndSessionEventsComplete := by
  unfold Obligations.HostAndSessionEventsComplete
  refine ⟨?sqTail, ?sqTailOver, ?cqHead, ?cqHeadOver, ?ringOn, ?ringOff, ?msix, ?msixQuiet, ?leafWrite, ?readTick, ?readSys, ?readUnaligned,
    ?write, ?writeManaged, ?hello, ?helloOff, ?proof, ?proofBad, ?command, ?commandOld, ?close, ?idle, ?proofTimeout, ?storeGood, ?storeBad, ?cutoff⟩
  case sqTail =>
    rintro s ring value packets pcieFails ⟨hr, hon, hv, rfl⟩
    rw [exec_sqTailDoorbell_served hr hon, sqTail_of_le hv]
  case sqTailOver =>
    rintro s ring value packets pcieFails ⟨hr, hon, hv, rfl⟩
    rw [exec_sqTailDoorbell_served hr hon, sqTail_of_gt hv, ringStop]
  case cqHead =>
    rintro s ring value ⟨hr, hon, hv⟩
    rw [exec_cqHeadDoorbell_served hr hon, cqHead_of_le hv]
  case cqHeadOver =>
    rintro s ring value ⟨hr, hon, hv⟩
    rw [exec_cqHeadDoorbell_served hr hon, cqHead_of_gt hv, ringStop]
  case ringOn =>
    rintro s ring en ⟨hr, hon, rfl, hen⟩
    rw [exec_ringEnable_served hr hon]
    simp [ringEn, hen]
  case ringOff =>
    rintro s ring en ⟨hr, hon, rfl⟩
    rw [exec_ringEnable_served hr hon]
    simp [ringEn]
  case msix =>
    intro s cfgEn masked
    rw [exec_msixEnable, ends_become]
    exact msixConfig_config s.start cfgEn masked
  case msixQuiet =>
    intro s cfgEn masked hpin
    simp only [exec_msixEnable, msixConfig_of_pin_high hpin]
  case leafWrite =>
    rintro s word value ⟨hw, hon⟩
    simp only [exec_leafWrite, hw, hon, and_self, if_true, clearLeaf]
  case readTick =>
    rintro s addr ⟨hb, rfl, hon⟩
    rw [exec_registerRead, bar0Read_tickLo hb hon]
  case readSys =>
    rintro s addr ⟨hb, hlt, hal, hblk, hhas, hon⟩
    rw [exec_registerRead, bar0Read_block0 hb hlt hal hblk hhas hon]
  case readUnaligned =>
    rintro s addr ⟨hb, hlt, hal⟩
    rw [exec_registerRead, bar0Read_unaligned hb hlt hal]
  case write =>
    rintro s addr value ⟨hb, hal, hblk, hhas, hdark, hon, hman⟩
    rw [exec_registerWrite, bar0Write_live hb hal hblk hhas hdark hon, hman, if_neg Bool.false_ne_true]
  case writeManaged =>
    rintro s addr value ⟨hb, hal, hblk, hhas, hdark, hon, hman⟩
    rw [exec_registerWrite, bar0Write_live hb hal hblk hhas hdark hon, if_pos hman, writeDropped]
  case hello =>
    rintro s addr port k ⟨hon, hk⟩
    simp only [exec_sessionHello, sessionHello_free hon hk]
  case helloOff =>
    intro s addr port hoff
    simp only [exec_sessionHello, sessionHello_off hoff, sessionDrop]
  case proof =>
    rintro s session role keyHash sigOk decryptOk ⟨hk, hon, hst, rfl, rfl, rfl, hrole⟩
    simp only [exec_sessionProof, hk, if_true, sessionProof_good hon hst hrole]
  case proofBad =>
    rintro s session role keyHash sigOk decryptOk ⟨hk, hon, hst, rfl⟩
    simp only [exec_sessionProof, hk, if_true, sessionProof_bad hon hst]
  case command =>
    rintro s session ctr tagOk packet ⟨hk, hon, hst, rfl, hctr⟩
    simp only [exec_sessionCommand, hk, if_true, sessionCommand_newer hon hst hctr]
  case commandOld =>
    rintro s session ctr tagOk packet ⟨hk, hon, hst, rfl, hctr⟩
    simp only [exec_sessionCommand, hk, if_true, sessionCommand_older hon hst hctr, sessionDrop]
  case close =>
    rintro s session ctr tagOk ⟨hk, hon, hst, rfl, hctr⟩
    rw [exec_sessionClose, ends_become]
    simpa [Nat.not_le.mpr hk, hon, hst, Nat.not_le.mpr hctr] using sessionClose_opened hst
  case idle =>
    intro s session hst
    rw [exec_sessionIdleTimeout, ends_become]
    simpa only [hst, if_true] using sessionClose_opened hst
  case proofTimeout =>
    intro s session hst
    simp only [exec_sessionProofTimeout, hst, if_true]
  case storeGood =>
    rintro s j ⟨hj, hok⟩
    rw [exec_fwStoreWriteDone, fwStoreDone_good hj hok]
  case storeBad =>
    rintro s j st r ⟨hj, hbad⟩
    rw [exec_fwStoreWriteDone, fwStoreDone_bad hj hbad]
  case cutoff =>
    rintro s ⟨hon, hswap⟩
    rw [exec_stagingCutoff]
    simp [copiesDone_gates, hon, hswap]

end Sys2Proof.Machine
end

section
/-! PROOFS. What each Kervon command of system time and Pasture comes to where its conditions hold (O21). -/

namespace Sys2Proof.Machine

/-- An operation that leaves the epoch, the reset request and the writes to Pasture alone leaves a device that a packet may be accepted with. -/
theorem Touches.plain {ps : List Part} {s : State} {h : CmdHdr} {c : KCmd} {e : Dev} (t : Taken s h c) (k : Touches ps s.start e)
    (hr : ps.contains .resetReq = false := by rfl) (hm : ps.contains .memOut = false := by rfl) (he : ps.contains .epoch = false := by rfl) : Plain s e :=
  ⟨(k.same .resetReq hr).trans (plain_start t).1, k.same .memOut hm, k.same .epoch he⟩

/-- A session that is told that it ends, and ends (R527). -/
theorem plain_sessionClosed {s : State} {h : CmdHdr} {c : KCmd} (t : Taken s h c) (k type : Nat) (f : Sess → Sess) :
    Plain s (sessionClose (datagram (onSess s.start k f) k type []) k) := by
  obtain ⟨hreset, hmem, hepoch⟩ := plain_start t
  refine ⟨?_, ?_, ?_⟩ <;> simp [onSess, hreset, hepoch]

/-- The same state with boot past RECOVERY: the checks of R514 do not look at the boot stage. -/
def State.booted (s : State) : State := { s with dev := onBoot s.dev (fun b => { b with stage := .ready }) }

/-- In RECOVERY ring 0 is served, and FW_RECOVER that passes the checks of R514 is acted on (R531). -/
theorem kRun_fwRecover {s : State} {h : CmdHdr} {kind hostAddr length : Nat} {img : ImageDesc} (hst : s.dev.fold.boot.stage = .recovery)
    (htr : h.tr = .ring 0) (hboot : Taken s.booted h (.fwRecover kind hostAddr length img)) (act : Dev → Dev → ActResult) :
    kRun s.view h (.fwRecover kind hostAddr length img) false [] act s.start
      = kFinish h (.fwRecover kind hostAddr length img) false s.start (act s.view s.start) := by
  have hchecks : kChecks s.start h (.fwRecover kind hostAddr length img) false [] = none := taken_checks (s := s.booted) hboot rfl
  have hserve : kServing s.start = true := by
    obtain ⟨⟨-, hwinter, -, hswap, -⟩, -⟩ := hboot
    have hw : s.start.pwr.season ≠ .winter := hwinter
    have hs : s.start.aux.swapState ≠ 1 := hswap
    simp [kServing, show s.start.fold.boot.stage = .recovery from hst, hw, hs]
  have hopen : admissionClosed s.start = false := by
    obtain ⟨⟨-, -, hentering, -, -⟩, -⟩ := hboot
    have he : s.start.pwr.phase ≠ .entering := hentering
    simp [admissionClosed, he]
  simp [kRun, hserve, htr, hchecks, hopen, kOpcode]

/-- A device that asks for its reset resets once its reply is out (R501, R531). -/
theorem resetAfter_answer {d : Dev} (hr : d.fold.resetReq = true) (x : ReplyCtx) (st : Status) (data : List Nat) :
    resetAfter (answer d x st data) = deviceReset (answer d x st data) := by
  simp [resetAfter, hr]

/-- Settles O21: each command's own conditions give one result, and a packet that passes the checks comes to what that result says. -/
theorem systemTimeAndPastureCommandsComplete : Obligations.SystemTimeAndPastureCommandsComplete := by
  unfold Obligations.SystemTimeAndPastureCommandsComplete
  refine ⟨?sysQuery, ?mgmtConfig, ?sessionQuery, ?sessionClose, ?sessionNotOpen, ?storeWrite, ?hostPktTx, ?hostPktConfig, ?allotSet, ?pastureQuery,
    ?timeConfig, ?timeSet, ?timeRate, ?offsetConfirm, ?offsetNone, ?recover⟩
  case sysQuery => exact fun s h t => kervon_read t rfl rfl (plain_start t)
  case mgmtConfig =>
    rintro s h addr port idle t ⟨haddr, hport, hlow, hhigh⟩
    have hok : ¬ (addr ≥ 2 ^ 128 ∨ port ≥ 65536 ∨ idle < 10 ∨ idle > 3600) := by omega
    exact kervon_stage t rfl (if_neg hok) (plain_start t)
  case sessionQuery => exact fun s h t => kervon_read t rfl rfl (plain_start t)
  case sessionClose =>
    rintro s h session t ⟨hk, hopen⟩
    refine kervon_now t rfl ?_ (plain_sessionClosed t _ _ _)
    simp [actMgmtSessionClose, Nat.not_le.mpr hk, hopen]
  case sessionNotOpen =>
    rintro s h session t ⟨hk, hshut⟩
    refine kervon_now t rfl ?_ (plain_start t)
    simp [actMgmtSessionClose, Nat.not_le.mpr hk, hshut]
  case storeWrite =>
    rintro s h kind slot offset sigOk t ⟨hkind, hslot, hoff, hrun, hjob⟩
    have hok : ¬ ((kind ≠ 2 ∧ kind ≠ 3) ∨ slot > 1 ∨ offset ≥ 2 ^ 35) := by omega
    have hidle : ¬ (runningSlot s.start kind = slot ∨ s.start.fold.boot.storeJob.isSome) := by simp [hrun, hjob]
    have hact : actFwStoreWrite kind slot offset (imageAt s.mem offset sigOk) s.view s.start = .accepted false (fun x => onBoot s.start (fun b =>
        { b with storeJob := some { kind := kind, slot := slot, img := imageAt s.mem offset sigOk, ctx := x } })) := (if_neg hok).trans (if_neg hidle)
    exact kervon_accepted t rfl hact ⟨(plain_start t).1, rfl, rfl⟩
  case hostPktTx =>
    intro s h twoStep tag frame stamp now t htag
    exact kervon_now t rfl (if_neg (Nat.not_le.mpr htag)) ((ingest_touch ..).plain t)
  case hostPktConfig =>
    intro s h ring enable t hring
    exact kervon_stage t rfl (if_neg (Nat.not_lt.mpr hring)) (plain_start t)
  case allotSet =>
    rintro s h allots t ⟨hlen, heach, hsum⟩
    have hany : allots.any (fun a => decide (a > 3000000)) = false := by simpa using heach
    refine kervon_stage t rfl ?_ (plain_start t)
    simp [actPastureAllotSet, hlen, hany, Nat.not_lt.mpr hsum]
  case pastureQuery => exact fun s h t => kervon_read t rfl rfl (plain_start t)
  case timeConfig => exact fun s h cfg t hok => kervon_stage t rfl (if_pos hok) (plain_start t)
  case timeSet => exact fun s h offset bound t => kervon_stage t rfl rfl (plain_start t)
  case timeRate => exact fun s h rate t hfree => kervon_stage t rfl (if_neg hfree) (plain_start t)
  case offsetConfirm =>
    rintro s h action t ⟨haction, hpend⟩
    have hsome : ¬ s.view.bell.err.todPend.isNone := by simp [Option.isSome_iff_ne_none.mp hpend]
    exact kervon_stage t rfl ((if_neg (Nat.not_lt.mpr haction)).trans (if_neg hsome)) (plain_start t)
  case offsetNone =>
    rintro s h action t ⟨haction, hpend⟩
    have hnone : s.view.bell.err.todPend.isNone := by simp [hpend]
    exact kervon_now t rfl ((if_neg (Nat.not_lt.mpr haction)).trans (if_pos hnone)) (plain_start t)
  case recover =>
    intro s h kind hostAddr length img hst htr hwinter hentering hswap hreset hhdr hallowed hepoch hdoms hkind hgood
    have hboot : Taken s.booted h (.fwRecover kind hostAddr length img) := ⟨⟨.inr rfl, hwinter, hentering, hswap, hreset⟩, hhdr, hallowed, hepoch, hdoms⟩
    have hact : actFwRecover kind hostAddr length img s.view s.start
        = .now [] (onFold (onBoot s.start (fun b => { b with store := tset b.store (2 * kind + runningSlot s.start kind) img }))
            (fun f => { f with resetReq := true })) := by
      have hk : ¬ (kind ≠ 2 ∧ kind ≠ 3) := by omega
      simp only [actFwRecover, show s.start.fold.boot.stage = .recovery from hst, hk, hgood, ne_eq, not_true_eq_false, if_false]
    show s.commit (resetAfter (kRun s.view h _ false [] (actFwRecover kind hostAddr length img) s.start)) = _
    rw [kRun_fwRecover hst htr hboot, hact]
    exact congrArg s.commit (resetAfter_answer rfl _ _ _)

end Sys2Proof.Machine
end

section
/-! PROOFS. What the staged changes of time, system, integrity, cascade, power, lane and access commands do at their bell (O34). -/

namespace Sys2Proof.Machine

/-- A staged command's change is its command's own. -/
theorem applyChange_of_kervon {z : Staged} {c : KCmd} {pick : Nat} (hz : z.change = .kervon c pick) (d : Dev) :
    applyChange z d = applyOf c pick z.ctx z.data d := by
  simp only [applyChange, hz]

/-! ### The credits of Pasture (R26, R27) -/

/-- A map over a table that fixes an entry's default maps what is read there. -/
theorem tgetD_tmap {α : Type} (t : Tbl α) (f : Nat → α → α) (k : Nat) (a : α) (ha : f k a = a) : tgetD (tmap t f) k a = f k (tgetD t k a) := by
  induction t with
  | nil => exact ha.symm
  | cons e r ih =>
    obtain ⟨j, b⟩ := e
    by_cases hj : j = k
    · subst hj; simp [tmap, tgetD, tget]
    · simpa [tmap, tgetD, tget, hj] using ih

theorem allotOf_eq (d : Dev) (k : Nat) : allotOf d k = (pastClass d k).allot := rfl

/-- A change of a class that keeps its allotment keeps every allotment. -/
theorem allotOf_onClass (d : Dev) (j k : Nat) (f : PastClass → PastClass) (hf : ∀ c, (f c).allot = c.allot) : allotOf (onClass d j f) k = allotOf d k := by
  by_cases hk : k = j
  · subst hk
    exact (congrArg PastClass.allot (pastClass_onClass d k f)).trans (hf _)
  · exact congrArg PastClass.allot (pastClass_onClass_other d j k f hk)

theorem allotOf_servePool (d : Dev) (j k : Nat) : allotOf (servePool d j) k = allotOf d k :=
  allotOf_onClass d j k (fun c => { c with used := c.used + 1, pool := true }) (fun _ => rfl)

theorem allotOf_drainPool (n : Nat) (d : Dev) (k : Nat) : allotOf (drainPool d n) k = allotOf d k := by
  induction n generalizing d with
  | zero => rfl
  | succ n ih =>
    unfold drainPool
    split
    · rfl
    · split
      · rfl
      · next j _ =>
        rw [ih]
        exact (allotOf_onClass (servePool d j) j k (fun c => { c with waiting := c.waiting - 1 }) (fun _ => rfl)).trans (allotOf_servePool d j k)

theorem allotOf_serveWaiting (d : Dev) (k : Nat) : allotOf (serveWaiting d) k = allotOf d k := by
  unfold serveWaiting
  rw [allotOf_drainPool]
  exact foldl_keeps (fun d => allotOf d k) serveWaitingOwn _ d (fun d j => allotOf_onClass d j k _ (fun _ => rfl))

/-- The credits of a tick before anything is served: each class's own, and the remainder in the pool. -/
def creditsGiven (d : Dev) : Dev :=
  onPast d (fun p => { p with pool := 3000000 - allotSum d, classes := tmap p.classes (fun _ c => { c with own := c.allot }) })

theorem pastClass_creditsGiven (d : Dev) (k : Nat) : pastClass (creditsGiven d) k = { pastClass d k with own := (pastClass d k).allot } :=
  tgetD_tmap d.past.classes (fun _ c => { c with own := c.allot }) k (PastClass.reset k) rfl

theorem grantCredits_eq (d : Dev) : grantCredits d = serveWaiting (creditsGiven d) := rfl

theorem allotOf_grantCredits (d : Dev) (k : Nat) : allotOf (grantCredits d) k = allotOf d k := by
  rw [grantCredits_eq, allotOf_serveWaiting]
  rw [allotOf_eq, pastClass_creditsGiven, allotOf_eq]

/-- A class with nothing waiting is left as it is. -/
theorem pastClass_serveWaitingOwn {d : Dev} {j : Nat} (hj : (pastClass d j).waiting = 0) (k : Nat) : pastClass (serveWaitingOwn d j) k = pastClass d k := by
  by_cases hk : k = j
  · subst hk
    rw [serveWaitingOwn, pastClass_onClass]
    generalize pastClass d k = c at hj ⊢
    cases c
    simp_all
  · exact pastClass_onClass_other d j k _ hk

theorem pastClass_foldl_serveWaitingOwn (l : List Nat) {d : Dev} (h : ∀ k, (pastClass d k).waiting = 0) (k : Nat) :
    pastClass (l.foldl serveWaitingOwn d) k = pastClass d k := by
  induction l generalizing d with
  | nil => rfl
  | cons j r ih =>
    have hj := pastClass_serveWaitingOwn (h j)
    rw [List.foldl_cons, ih (fun i => by rw [hj i]; exact h i), hj k]

/-- Where nothing waits, nothing is served. -/
theorem serveWaiting_of_idle {d : Dev} (h : ∀ k, (pastClass d k).waiting = 0) :
    (∀ k, pastClass (serveWaiting d) k = pastClass d k) ∧ (serveWaiting d).past.pool = d.past.pool := by
  have hown := pastClass_foldl_serveWaitingOwn (List.range 24) h
  have hnone : allWaiting ((List.range 24).foldl serveWaitingOwn d) = 0 := by
    simp only [allWaiting, hown, h]
    rfl
  simp only [serveWaiting, hnone, Nat.min_zero, drainPool]
  exact ⟨hown, foldl_keeps (fun d => d.past.pool) serveWaitingOwn _ d (fun _ _ => rfl)⟩

/-- Allotments put in force from class `n` on. -/
theorem pastClass_setAllots_from (l : List Nat) (n : Nat) (d : Dev) (k : Nat) :
    pastClass ((l.zipIdx n).foldl (fun d a => onClass d a.2 (fun c => { c with allot := a.1 })) d) k
      = { pastClass d k with allot := if n ≤ k ∧ k < n + l.length then l.getD (k - n) 0 else (pastClass d k).allot } := by
  induction l generalizing n d with
  | nil =>
    have hout : ¬ (n ≤ k ∧ k < n + 0) := by omega
    simp only [List.zipIdx_nil, List.foldl_nil, List.length_nil, hout, if_false]
  | cons a r ih =>
    rw [List.zipIdx_cons, List.foldl_cons, ih]
    by_cases hk : k = n
    · subst hk
      simp
    · simp only [pastClass_onClass_other d n k _ hk, List.length_cons]
      by_cases hin : n + 1 ≤ k ∧ k < n + 1 + r.length
      · obtain ⟨m, rfl⟩ : ∃ m, k = n + 1 + m := ⟨k - (n + 1), by omega⟩
        have hin' : n ≤ n + 1 + m ∧ n + 1 + m < n + (r.length + 1) := by omega
        rw [if_pos hin, if_pos hin', show n + 1 + m - n = m + 1 by omega, Nat.add_sub_cancel_left, List.getD_cons_succ]
      · have hin' : ¬ (n ≤ k ∧ k < n + (r.length + 1)) := by omega
        rw [if_neg hin, if_neg hin']

theorem pastClass_setAllots {allots : List Nat} {k : Nat} (hk : k < allots.length) (d : Dev) :
    pastClass (setAllots allots d) k = { pastClass d k with allot := allots.getD k 0 } := by
  simpa [setAllots, hk] using pastClass_setAllots_from allots 0 d k

/-- What the new tick has served taken back, to be served anew. -/
def servedBack (d : Dev) : Dev :=
  onPast d (fun p => { p with classes := tmap p.classes (fun _ c => { c with waiting := c.waiting + c.used, used := 0, pool := false }) })

theorem pastClass_servedBack (d : Dev) (k : Nat) :
    pastClass (servedBack d) k = { pastClass d k with waiting := (pastClass d k).waiting + (pastClass d k).used, used := 0, pool := false } :=
  tgetD_tmap d.past.classes (fun _ c => { c with waiting := c.waiting + c.used, used := 0, pool := false }) k (PastClass.reset k) rfl

/-- The classes that still wait stall the tick. -/
def stallsMarked (d : Dev) : Dev := onPast d (fun p => { p with classes := tmap p.classes (fun _ c => { c with stall := decide (c.waiting > 0) }) })

theorem pastClass_stallsMarked (d : Dev) (k : Nat) :
    pastClass (stallsMarked d) k = { pastClass d k with stall := decide ((pastClass d k).waiting > 0) } :=
  tgetD_tmap d.past.classes (fun _ c => { c with stall := decide (c.waiting > 0) }) k (PastClass.reset k) rfl

/-- Allotments that the bell has granted already change nothing; others are granted anew (R27, R39). -/
theorem applyPastureAllotSet_granted {allots : List Nat} {d : Dev} (h : ∀ k < 24, allotOf d k = allots.getD k 0) : applyPastureAllotSet allots d = d :=
  if_pos (by simpa using h)

theorem applyPastureAllotSet_new {allots : List Nat} {d : Dev} {k : Nat} (hk : k < 24) (hne : allotOf d k ≠ allots.getD k 0) :
    applyPastureAllotSet allots d = stallsMarked (grantCredits (servedBack (setAllots allots d))) :=
  if_neg (by simpa using ⟨k, hk, by simpa using hne⟩)

theorem allotOf_applyPastureAllotSet {allots : List Nat} (hlen : allots.length = 24) (d : Dev) {k : Nat} (hk : k < 24) :
    allotOf (applyPastureAllotSet allots d) k = allots.getD k 0 := by
  by_cases hall : ∀ k < 24, allotOf d k = allots.getD k 0
  · rw [applyPastureAllotSet_granted hall, hall k hk]
  · push Not at hall
    obtain ⟨j, hj, hne⟩ := hall
    rw [applyPastureAllotSet_new hj hne, allotOf_eq, pastClass_stallsMarked, ← allotOf_eq, allotOf_grantCredits, allotOf_eq, pastClass_servedBack,
      pastClass_setAllots (hlen ▸ hk)]

/-- In a tick that has served nothing and in which nothing waits, new allotments give every class its own and the pool the rest. -/
theorem applyPastureAllotSet_idle {allots : List Nat} {d : Dev} (hlen : allots.length = 24) {j : Nat} (hj : j < 24) (hne : allotOf d j ≠ allots.getD j 0)
    (hidle : ∀ k, (pastClass d k).waiting = 0 ∧ (pastClass d k).used = 0) :
    (applyPastureAllotSet allots d).past.pool = 3000000 - sumN allots
      ∧ ∀ k, k < 24 → (pastClass (applyPastureAllotSet allots d) k).own = allots.getD k 0 := by
  have hback : ∀ k, (pastClass (servedBack (setAllots allots d)) k).waiting = 0 := by
    intro k
    rw [pastClass_servedBack, setAllots, pastClass_setAllots_from]
    simp [hidle k]
  have hset : ∀ k < 24, allotOf (servedBack (setAllots allots d)) k = allots.getD k 0 := by
    intro k hk
    rw [allotOf_eq, pastClass_servedBack, pastClass_setAllots (hlen ▸ hk)]
  have hsum : allotSum (servedBack (setAllots allots d)) = sumN allots := by
    unfold allotSum
    congr 1
    refine List.ext_getElem (by simp [hlen]) (fun k hk _ => ?_)
    have hk' : k < 24 := by simpa using hk
    simp [hset k hk', hlen, hk']
  obtain ⟨hclass, hpool⟩ := serveWaiting_of_idle (d := creditsGiven (servedBack (setAllots allots d))) (fun k => by rw [pastClass_creditsGiven]; exact hback k)
  rw [applyPastureAllotSet_new hj hne, grantCredits_eq]
  refine ⟨?_, fun k hk => ?_⟩
  · exact hpool.trans (congrArg (3000000 - ·) hsum)
  · rw [pastClass_stallsMarked, hclass, pastClass_creditsGiven]
    exact hset k hk

/-! ### Time (R51, R61, R65, R530) -/

/-- What TIME_CONFIG sets that the lock machine leaves as it is. -/
def timeSettings (d : Dev) : Bool × Nat × Nat × Nat × SuccState :=
  (d.bell.lock.autoRate, d.bell.err.holdDrift, d.bell.err.todStepMax, d.bell.sleep.drift, d.bell.succ)

theorem timeSettings_raiseLeaf (d : Dev) (w bit : Nat) : timeSettings (raiseLeaf d w bit) = timeSettings d := by simp [timeSettings]

theorem timeSettings_setLock (st : LockSt) (changed : Bool) (d : Dev) : timeSettings (setLock st changed d) = timeSettings d := by
  unfold setLock
  split
  · rfl
  · rw [timeSettings_raiseLeaf]
    split <;> rfl

theorem timeSettings_setSrc (src : Nat) (d : Dev) : timeSettings (setSrc src d) = timeSettings d := by
  simp only [setSrc]
  split_ifs
  · rfl
  · exact timeSettings_setLock _ _ _
  · rfl
  · rfl
  · exact timeSettings_setLock _ _ _

theorem applyTimeOffsetConfirm_pending {d : Dev} {v : BitVec 128} (hv : d.bell.err.todPend = some v) (action : Nat) :
    applyTimeOffsetConfirm action d = if action = 0 then applyOffset v .headEnd 0 (onErr d (fun e => { e with todPend := none }))
      else onErr d (fun e => { e with todPend := none }) := by
  simp only [applyTimeOffsetConfirm, hv]

/-- With its rank as it was, a device that takes TIME_CONFIG leads or follows as before (R71, R530). -/
theorem timeSettings_applyTimeConfig {cfg : TimeCfg} {d : Dev} (hrank : d.bell.succ.rank = cfg.succRank) :
    timeSettings (applyTimeConfig cfg d) = (cfg.autoRate, cfg.holdDrift, cfg.todStepMax, cfg.sleepDrift,
      { d.bell.succ with asym := [(0, cfg.cascAsym0), (1, cfg.cascAsym1)], rank := cfg.succRank, heard := d.bell.succ.heard || d.bell.succ.bellwether }) := by
  have hupdate : ∀ e : Dev, timeSettings (updateErr e) = timeSettings e := fun e => rfl
  rw [applyTimeConfig, hupdate, timeSettings_setSrc]
  simp [timeSettings, onSucc, onSleep, onErr, onLock, onBell, hrank]

/-! ### The host's packet path (R531) -/

theorem ringOf_hostPkt_applyHostPktConfig (ring : Nat) (d : Dev) {r : Nat} (hr : r ≠ ring) : (ringOf (applyHostPktConfig ring true d) r).hostPkt = false := by
  have hmap := tgetD_tmap d.sys.rings (fun k g => if k = ring then g else { g with hostPkt := false }) r Ring.reset (by rw [if_neg hr]; rfl)
  rw [applyHostPktConfig, ringOf_onRing_other _ _ _ _ hr]
  show (tgetD (tmap d.sys.rings (fun k g => if k = ring then g else { g with hostPkt := false })) r Ring.reset).hostPkt = false
  rw [hmap, if_neg hr]

/-! ### Power domains (R557, R564) -/

theorem domState_setDom (d : Dev) (k j : Nat) (st : DomSt) : domState (setDom d k st) j = if j = k then st else domState d j := by
  by_cases hj : j = k
  · subst hj; simp [domState, setDom, onPwr]
  · simp [domState, setDom, onPwr, hj, tgetD_tset_other]

theorem domState_domainOff (d : Dev) (k j : Nat) : domState (domainOff d k) j = if j = k ∧ domState d k = .on then .shuttingDown else domState d j := by
  unfold domainOff
  split
  · next hon => simp [domState_setDom, hon]
  · next hoff => simp [hoff]

/-- Domains shut down one after another: none of them is ON. -/
theorem domState_foldl_domainOff (l : List Nat) (d : Dev) (j : Nat) (hj : j ∈ l ∨ domState d j ≠ .on) : domState (l.foldl domainOff d) j ≠ .on := by
  induction l generalizing d with
  | nil => simpa using hj
  | cons k r ih =>
    refine ih (domainOff d k) ?_
    rw [domState_domainOff]
    by_cases hk : j = k
    · subst hk
      right
      split <;> simp_all
    · simpa [hk] using hj

/-- What PWR_WINTER asks for that shutting the domains down leaves as it is. -/
def winterPlan (d : Dev) : Phase × Nat × BitVec 32 × Nat × Nat := (d.pwr.phase, d.pwr.thawSeason, d.pwr.retBanks, d.pwr.stackKeep, d.pwr.linkWait)

theorem winterPlan_domainOff (d : Dev) (k : Nat) : winterPlan (domainOff d k) = winterPlan d := by
  unfold domainOff; split <;> rfl

theorem winterPlan_applyPwrWinter (banks keep thaw linkWait : Nat) (ctx : ReplyCtx) (d : Dev) :
    winterPlan (applyPwrWinter banks keep thaw linkWait ctx d).1 = (.entering, thaw, BitVec.ofNat 32 banks, keep, linkWait) := by
  simp only [applyPwrWinter]
  rw [foldl_keeps winterPlan domainOff _ _ winterPlan_domainOff]
  rfl

theorem domState_applyPwrWinter (banks keep thaw linkWait : Nat) (ctx : ReplyCtx) (d : Dev) {k : Nat} (hk : k ∈ winterOrder) :
    domState (applyPwrWinter banks keep thaw linkWait ctx d).1 k ≠ .on := by
  simp only [applyPwrWinter]
  exact domState_foldl_domainOff _ _ _ (.inl hk)

/-! ### Cascade, lanes and access (R551, R334, R293, R235, R256) -/

/-- What CASC_CONFIG makes of port `p`. -/
def cascPortSet (ports : Nat) (d : Dev) (p : Nat) : Dev :=
  if getField ports p 1 = 1 then
    (if (cascPort d p).st = .down then onCascPort d p (fun x => { x with st := .aligning, reason := 0 }) else d)
  else onCascPort d p (fun x => { x with st := .down, reason := 0, hellos := 0, badTags := 0, dist := [] })

theorem applyCascConfig_eq (domain device ports base gen : Nat) (d : Dev) :
    applyCascConfig domain device ports base gen d = cascPortSet ports (cascPortSet ports (onCasc d (fun c =>
      { c with domain := domain, device := device, portEn := ports, base := base, gen := gen, topoDue := true })) 0) 1 := rfl

/-- A port that is asked for and DOWN begins to align. -/
theorem cascPortSet_align {ports p : Nat} {d : Dev} (hp : getField ports p 1 = 1) (hd : (cascPort d p).st = .down) :
    cascPortSet ports d p = onCascPort d p (fun x => { x with st := .aligning, reason := 0 }) := (if_pos hp).trans (if_pos hd)

theorem cascPortSet_down {ports p : Nat} (hp : getField ports p 1 ≠ 1) (d : Dev) :
    cascPortSet ports d p = onCascPort d p (fun x => { x with st := .down, reason := 0, hellos := 0, badTags := 0, dist := [] }) := if_neg hp

theorem cascPortSet_both {d : Dev} (h0 : (cascPort d 0).st = .down) (h1 : (cascPort d 1).st = .down) :
    cascPortSet 3 (cascPortSet 3 d 0) 1
      = onCascPort (onCascPort d 0 (fun x => { x with st := .aligning, reason := 0 })) 1 (fun x => { x with st := .aligning, reason := 0 }) := by
  rw [cascPortSet_align (p := 0) (by decide) h0, cascPortSet_align (p := 1) (by decide)]
  rw [cascPort_onCascPort_other _ _ _ _ one_ne_zero, h1]

theorem maskSlices_single {n : Nat} (hn : n < 4) : maskSlices (2 ^ n) = [n] := by
  interval_cases n <;> rfl

/-- A bond of all four slices loses none of them. -/
theorem applyAccBondConfig_all (d : Dev) : applyAccBondConfig 15 false d = onBond d (fun b => { b with mask := 15, request := false }) := by
  have hfold : ∀ e : Dev, (List.range 4).foldl (fun d n => if Nat.testBit 15 n then d else departure d n 6 (bellNs d)) e = e := fun e => rfl
  simp only [applyAccBondConfig, hfold, Bool.false_eq_true, false_and, if_false]
  split <;> rfl

/-- Settles O34: a staged command's change is its command's own, and each command's own change is followed case by case. -/
theorem bellEffectsOfTimeAndPower : Obligations.BellEffectsOfTimeAndPower := by
  unfold Obligations.BellEffectsOfTimeAndPower
  refine ⟨?timeRate, ?timeSet, ?confirmApply, ?confirmDrop, ?timeConfig, ?allot, ?allotIdle, ?mgmt, ?hostPkt, ?scrub, ?flip, ?digest, ?dump, ?remap, ?bind,
    ?twinNone, ?takenOver, ?takeOver, ?saPair, ?cascUp, ?cascDown, ?alarm, ?autumnConfig, ?autumnAgain, ?autumn, ?summerAgain, ?domainOffAgain, ?domainOff,
    ?domainOnAgain, ?swap, ?winter, ?laneGroup, ?recal, ?recalOff, ?spare, ?spareAcc, ?bond, ?leave, ?accNative, ?accStandard, ?enable, ?enableStop,
    ?release, ?releaseNone⟩
  case timeRate => exact fun d z pick rate hz => applyChange_of_kervon hz d
  case timeSet => exact fun d z pick offset bound hz => applyChange_of_kervon hz d
  case confirmApply =>
    rintro d z pick action v hz ⟨hv, rfl⟩
    rw [applyChange_of_kervon hz, applyOf, applyTimeOffsetConfirm_pending hv, if_pos rfl]
  case confirmDrop =>
    rintro d z pick action v hz ⟨hv, rfl⟩
    rw [applyChange_of_kervon hz, applyOf, applyTimeOffsetConfirm_pending hv, if_neg Nat.one_ne_zero]
  case timeConfig =>
    intro d z pick cfg hz hrank
    have h := timeSettings_applyTimeConfig hrank
    simp only [timeSettings, Prod.mk.injEq] at h
    obtain ⟨hauto, hdrift, hstep, hsleep, hsucc⟩ := h
    rw [applyChange_of_kervon hz, applyOf]
    exact ⟨hauto, hdrift, hstep, hsleep, by rw [hsucc], by rw [hsucc]⟩
  case allot =>
    intro d z pick allots hz hlen k hk
    rw [applyChange_of_kervon hz, applyOf, ← allotOf_eq, allotOf_applyPastureAllotSet hlen d hk]
  case allotIdle =>
    rintro d z pick allots hz ⟨hlen, ⟨j, hj, hne⟩, hidle⟩
    rw [applyChange_of_kervon hz, applyOf]
    exact applyPastureAllotSet_idle hlen hj hne hidle
  case mgmt => exact fun d z pick addr port idle hz => applyChange_of_kervon hz d
  case hostPkt =>
    rintro d z pick ring enable hz ⟨-, rfl⟩
    rw [applyChange_of_kervon hz, applyOf]
    exact ⟨by simp [applyHostPktConfig], fun r _ hr => ringOf_hostPkt_applyHostPktConfig ring d hr⟩
  case scrub => exact fun d z pick cls rate hz => applyChange_of_kervon hz d
  case flip => exact fun d z pick cls data check matchAddr addr hz => applyChange_of_kervon hz d
  case digest => exact fun d z pick mask hz => applyChange_of_kervon hz d
  case dump => exact fun d z pick block offset hz => applyChange_of_kervon hz d
  case remap =>
    rintro d z pick stack offset thr hz ⟨hmapped, rfl, hcand, hcopy⟩
    rw [applyChange_of_kervon hz, applyOf]
    have hnone : ¬ ((stackOf d stack).cands.any (fun c => c.1 == rowAt offset) = true ∨ (stackOf d stack).copying.contains (rowAt offset) = true) := by
      simpa only [rowAt, hcand, hcopy, Bool.false_eq_true, or_self] using not_false
    rw [applyIntegRemap, if_neg (by rw [rowAt, hmapped]; exact Bool.false_ne_true)]
    exact congrArg (·, true) (if_neg hnone)
  case bind => exact fun d z pick tag home hz => applyChange_of_kervon hz d
  case twinNone =>
    rintro d z pick twin hz rfl
    rw [applyChange_of_kervon hz, applyOf, applyCascTwinSet, if_pos rfl]
  case takenOver =>
    intro d z pick hz hst
    rw [applyChange_of_kervon hz, applyOf, applyCascTakeover, if_pos hst]
  case takeOver =>
    intro d z pick hz hst
    rw [applyChange_of_kervon hz, applyOf, applyCascTakeover, if_neg hst]
  case saPair => exact fun d z pick handle other hz => applyChange_of_kervon hz d
  case cascUp =>
    rintro d z pick domain device ports base gen hz ⟨rfl, h0, h1⟩
    rw [applyChange_of_kervon hz, applyOf, applyCascConfig_eq, cascPortSet_both]
    · refine ⟨rfl, rfl, rfl, ?_, ?_, rfl⟩
      · rw [cascPort_onCascPort_other _ _ _ _ zero_ne_one, cascPort_onCascPort]
      · rw [cascPort_onCascPort]
    · exact h0
    · exact h1
  case cascDown =>
    rintro d z pick domain device ports base gen hz rfl
    rw [applyChange_of_kervon hz, applyOf, applyCascConfig_eq, cascPortSet_down (by decide), cascPortSet_down (by decide)]
    refine ⟨?_, ?_⟩
    · rw [cascPort_onCascPort_other _ _ _ _ zero_ne_one, cascPort_onCascPort]
    · rw [cascPort_onCascPort]
  case alarm => exact fun d z pick value enable hz => applyChange_of_kervon hz d
  case autumnConfig => exact fun d z pick minGroups high low flags hz => applyChange_of_kervon hz d
  case autumnAgain =>
    rintro d z pick season hz ⟨rfl, hst⟩
    rw [applyChange_of_kervon hz, applyOf, applyPwrSeason, if_pos rfl, if_pos hst]
  case autumn =>
    rintro d z pick season hz ⟨rfl, hst⟩
    rw [applyChange_of_kervon hz, applyOf, applyPwrSeason, if_pos rfl, if_neg hst]
  case summerAgain =>
    rintro d z pick season hz ⟨rfl, hst⟩
    rw [applyChange_of_kervon hz, applyOf, applyPwrSeason, if_neg Nat.zero_ne_one, if_pos hst]
  case domainOffAgain =>
    rintro d z pick domain on_ hz ⟨rfl, hoff⟩
    rw [applyChange_of_kervon hz, applyOf]
    simp [applyPwrDomainSet, domainOff, hoff]
  case domainOff =>
    rintro d z pick domain on_ hz ⟨rfl, -, hon⟩
    rw [applyChange_of_kervon hz, applyOf]
    simp [applyPwrDomainSet, domainOff, hon, domState_setDom]
  case domainOnAgain =>
    rintro d z pick domain on_ hz ⟨rfl, -, hon, hdep⟩
    rw [applyChange_of_kervon hz, applyOf]
    simp [applyPwrDomainSet, domainOn, hon, hdep]
  case swap =>
    intro d z pick slot shared i hz hi
    rw [applyChange_of_kervon hz, applyOf, applyCtrlFwSwap]
    simp only [hi]
  case winter =>
    intro d z pick banks keep thaw linkWait hz
    rw [applyChange_of_kervon hz, applyOf]
    have h := winterPlan_applyPwrWinter banks keep thaw linkWait z.ctx d
    simp only [winterPlan, Prod.mk.injEq] at h
    obtain ⟨hphase, hthaw, hbanks, hkeep, hwait⟩ := h
    exact ⟨hphase, hthaw, hbanks, hkeep, hwait, fun k hk => domState_applyPwrWinter banks keep thaw linkWait z.ctx d hk⟩
  case laneGroup => exact fun d z pick group mode flags hz => applyChange_of_kervon hz d
  case recal =>
    intro d z pick lane hz hon
    rw [applyChange_of_kervon hz, applyOf, applyLaneRecal, if_pos hon, recalLane]
  case recalOff =>
    intro d z pick lane hz hoff
    rw [applyChange_of_kervon hz, applyOf, applyLaneRecal, hoff, if_neg Bool.false_ne_true]
  case spare =>
    intro d z pick group lane action hz hgroup
    rw [applyChange_of_kervon hz, applyOf, applyLaneSpare]
    simp only [hgroup, ne_eq, not_false_eq_true, if_true]
  case spareAcc =>
    rintro d z pick group lane action hz ⟨rfl, rfl, -⟩
    rw [applyChange_of_kervon hz, applyOf]
    simp [applyLaneSpare, laneOf, onLane, onLanes, onGroupL]
  case bond =>
    rintro d z pick mask request hz ⟨rfl, rfl⟩
    rw [applyChange_of_kervon hz, applyOf, applyAccBondConfig_all]
  case leave => exact fun d z pick slice hz => applyChange_of_kervon hz d
  case accNative =>
    intro d z pick cfg hz hnative
    rw [applyChange_of_kervon hz, applyOf, applyAccConfig]
    simp only [hnative, if_true]
  case accStandard =>
    intro d z pick cfg hz hstandard
    rw [applyChange_of_kervon hz, applyOf, applyAccConfig]
    simp only [hstandard, Bool.false_eq_true, if_false]
  case enable =>
    rintro d z pick mask stopHeld n hz ⟨hn, rfl, hst, rfl, hheld⟩
    rw [applyChange_of_kervon hz, applyOf, applyAccEnable, maskSlices_single hn]
    simp [hst, hheld]
  case enableStop =>
    rintro d z pick mask stopHeld n hz ⟨hn, rfl, hst, rfl⟩
    rw [applyChange_of_kervon hz, applyOf, applyAccEnable, maskSlices_single hn]
    simp [hst]
  case release =>
    rintro d z pick slice hz ⟨hst, hheld⟩
    rw [applyChange_of_kervon hz, applyOf]
    simp only [applyAccKillRelease, hst, ne_eq, not_true_eq_false, if_false, sliceOf_onSlice, hheld, Bool.false_eq_true]
    rfl
  case releaseNone =>
    intro d z pick slice hz hst
    rw [applyChange_of_kervon hz, applyOf, applyAccKillRelease, if_pos hst]

end Sys2Proof.Machine
end

section
/-! PROOFS. The reset allotments of Pasture's classes (O15). -/

namespace Sys2Proof.Machine

/-- At reset no class has an entry of its own, and each reads R25's table. -/
theorem pastClass_reset (k : Nat) : pastClass Dev.reset k = PastClass.reset k := rfl

/-- Settles O15, by R25's table. -/
theorem resetAllotments : Obligations.ResetAllotments := by
  unfold Obligations.ResetAllotments
  simp only [pastClass_reset]
  decide

end Sys2Proof.Machine
end

section
/-! PROOFS. Where bells, snapshots, references, time of day, markers and succession complete, and what they do (O37). -/

namespace Sys2Proof.Machine

/-! ### The bell and the latched reads (R45, R52, R59, R74, R75) -/

/-- A change of the device is what it makes of the device that the command finds. -/
theorem nextDev_congr {s : State} {f g : Dev → Dev} (h : f s.start = g s.start) : nextDev s f = nextDev s g := by
  rw [nextDev_start, nextDev_start, h]

theorem bellTick_on {d : Dev} (hon : domOn d 3 = true) (x : TickIn) : bellTick x d = bellWork x (bellCount x d) := by
  simp [bellTick, hon]

/-- A change of the time leaves the rest of BELL. -/
theorem onTime_keeps (d : Dev) (f : TimeState → TimeState) :
    (onTime d f).bell.tick = d.bell.tick ∧ (onTime d f).bell.ovr = d.bell.ovr ∧ (onTime d f).bell.lock = d.bell.lock
      ∧ (onTime d f).bell.sleep = d.bell.sleep := ⟨rfl, rfl, rfl, rfl⟩

/-- A change of the error bound leaves the rest of BELL. -/
theorem onErr_keeps (d : Dev) (f : ErrState → ErrState) :
    (onErr d f).bell.tick = d.bell.tick ∧ (onErr d f).bell.ovr = d.bell.ovr ∧ (onErr d f).bell.lock = d.bell.lock := ⟨rfl, rfl, rfl⟩

/-- The counter runs on, and the lock machine and the crystal's counter do not. -/
theorem advanceC_keeps (d : Dev) (cycles : Nat) :
    (advanceC d cycles).bell.tick = d.bell.tick ∧ (advanceC d cycles).bell.ovr = d.bell.ovr ∧ (advanceC d cycles).bell.lock = d.bell.lock
      ∧ (advanceC d cycles).bell.sleep = d.bell.sleep := by
  unfold advanceC
  split
  · exact ⟨rfl, rfl, rfl, rfl⟩
  · exact onTime_keeps d _

theorem advanceC_pwr (d : Dev) (cycles : Nat) : (advanceC d cycles).pwr = d.pwr := (advanceC_touch d cycles).same .pwr rfl

theorem domOn_advanceC (d : Dev) (cycles k : Nat) : domOn (advanceC d cycles) k = domOn d k := by
  unfold domOn domState
  rw [advanceC_pwr]

theorem bar0Answers_advanceC (d : Dev) (cycles : Nat) : bar0Answers (advanceC d cycles) = bar0Answers d := by
  have hfold : (advanceC d cycles).fold = d.fold := (advanceC_touch d cycles).same .fold rfl
  simp only [bar0Answers, domOn_advanceC, hfold]

theorem bellCount_bell (x : TickIn) (d : Dev) : (bellCount x d).bell.tick = d.bell.tick + 1 ∧ (bellCount x d).bell.ovr.any = false := by
  obtain ⟨htick, -⟩ := advanceC_keeps d x.refCycles
  unfold bellCount
  generalize advanceC d x.refCycles = e at htick
  rw [← htick]
  simp only [updateErr, onErr_keeps]
  split <;> simp only [onBell_bell, onErr_keeps, advanceCrystal, onSleep_bell, and_self]

theorem hostWrites_served {d : Dev} {dom : Nat} (hb : bar0Answers d = true) (hon : domOn d dom = true) (addr : Nat) (f : Dev → Dev) :
    hostWrites dom addr f d = f d := by
  simp [hostWrites, hb, hon]

theorem hostReads_served {d : Dev} {dom : Nat} (hb : bar0Answers d = true) (hon : domOn d dom = true) (addr : Nat) (f : Dev → Dev) :
    hostReads dom addr f d = f d := by
  simp [hostReads, hb, hon]

theorem hostReads_dark {d : Dev} {dom : Nat} (hb : bar0Answers d = true) (hoff : domOn d dom = false) (addr : Nat) (f : Dev → Dev) :
    hostReads dom addr f d = emitRead (darkAccess addr false d) addr 0xFFFFFFFF := by
  simp [hostReads, hb, hoff]

/-! ### The lock machine (R43) -/

/-- What a change of the lock's state leaves: the state is the new one, the measured phase and slew stay, and the runs start anew. -/
theorem setLock_lock {d : Dev} {st : LockSt} (hne : d.bell.lock.st ≠ st) (changed : Bool) :
    (setLock st changed d).bell.lock.st = st ∧ (setLock st changed d).bell.lock.phaseErr = d.bell.lock.phaseErr
      ∧ (setLock st changed d).bell.lock.slew = d.bell.lock.slew ∧ (setLock st changed d).bell.lock.inRun = 0
      ∧ (st = .holdover → (setLock st changed d).bell.lock.validRun = 0) ∧ (setLock st changed d).freeCtr = d.freeCtr := by
  rw [setLock, if_neg hne]
  simp only [raiseLeaf_other]
  split <;> refine ⟨rfl, rfl, rfl, rfl, fun h => by subst h; rfl, rfl⟩

/-- The phase error that a reference event measures (R43, R54). -/
def eventPhase (err : Int) (d : Dev) : Int := phaseMod (err - portAdjOf d (refPort d))

/-- A valid event in FREE, before the eighth in a row. -/
theorem referenceEvent_free {d : Dev} (hsrc : d.bell.lock.src ≠ 0) (hst : d.bell.lock.st = .free) (hrun : d.bell.lock.validRun + 1 < 8) (err freq : Int) :
    (referenceEvent err freq d).bell.lock
      = { d.bell.lock with validRun := d.bell.lock.validRun + 1, missRun := 0, phaseErr := eventPhase err d, slew := 0, freqNow := freq, inRun := 0 } := by
  simp [referenceEvent, hsrc, hst, Nat.not_le.mpr hrun, eventPhase]

/-- The eighth valid event in a row begins ACQUIRE. -/
theorem referenceEvent_acquire {d : Dev} (hsrc : d.bell.lock.src ≠ 0) (hst : d.bell.lock.st = .free) (hrun : 8 ≤ d.bell.lock.validRun + 1) (err freq : Int) :
    (referenceEvent err freq d).bell.lock.st = .acquire ∧ (referenceEvent err freq d).bell.lock.phaseErr = eventPhase err d := by
  simp [referenceEvent, hsrc, hst, hrun, setLock_lock, eventPhase]

/-- The 64th event in a row within 50 ns locks. -/
theorem referenceEvent_lock {d : Dev} (hsrc : d.bell.lock.src ≠ 0) (hst : d.bell.lock.st = .acquire) (hrun : d.bell.lock.inRun = 63) {err : Int}
    (hin : (eventPhase err d).natAbs ≤ 50 * 65536) (freq : Int) :
    (referenceEvent err freq d).bell.lock.st = .locked ∧ (referenceEvent err freq d).bell.lock.slew = clampI (-slewMax) slewMax (-eventPhase err d) := by
  have hin' : |eventPhase err d| ≤ inLock := by rw [Int.abs_eq_natAbs, inLock]; omega
  rw [eventPhase] at hin'
  simp [referenceEvent, hsrc, hst, hrun, setLock_lock, eventPhase, hin']

/-- An event more than 500 ns off ends LOCKED. -/
theorem referenceEvent_holdover {d : Dev} (hsrc : d.bell.lock.src ≠ 0) (hst : d.bell.lock.st = .locked) {err : Int}
    (hout : 500 * 65536 < (eventPhase err d).natAbs) (freq : Int) :
    (referenceEvent err freq d).bell.lock.st = .holdover ∧ (referenceEvent err freq d).freeCtr = d.freeCtr + 1 := by
  have hout' : outLock < |eventPhase err d| := by rw [Int.abs_eq_natAbs, outLock]; omega
  rw [eventPhase] at hout'
  simp [referenceEvent, hsrc, hst, setLock_lock, hout', drawFree]

theorem clampI_slew (v : Int) : clampI (-slewMax) slewMax v = max (-524288) (min 524288 v) := by
  unfold clampI slewMax; split_ifs <;> omega

theorem referenceMissing_holdover {d : Dev} (hsrc : d.bell.lock.src ≠ 0) (hst : d.bell.lock.st = .locked) (hrun : 4 ≤ d.bell.lock.missRun + 1) :
    (referenceMissing d).bell.lock.st = .holdover ∧ (referenceMissing d).bell.lock.inRun = 0 ∧ (referenceMissing d).bell.lock.validRun = 0 := by
  by_cases hmarker : d.bell.lock.src = 2 ∧ d.bell.succ.bellwether = false
  · simp [referenceMissing, hmarker, hst, hrun, setLock_lock]
  · simp [referenceMissing, hsrc, hmarker, hst, hrun, setLock_lock]

theorem referenceMissing_follower {d : Dev} (hsrc : d.bell.lock.src = 2) (hfollow : d.bell.succ.bellwether = false) (hrun : d.bell.lock.missRun + 1 < 4) :
    (referenceMissing d).bell.succ.missed = min 255 (d.bell.succ.missed + 1) ∧ (referenceMissing d).bell.lock.st = d.bell.lock.st
      ∧ (leafWord (referenceMissing d).sys.int 2).getLsbD 6 = true := by
  simp [referenceMissing, hsrc, hfollow, Nat.not_le.mpr hrun, raiseLeaf_sets, -BitVec.getLsbD_eq_getElem]

/-- A whole interval of the crystal is measured in LOCKED alone (R66). -/
theorem sleepCal_locked {d : Dev} (hst : d.bell.lock.st = .locked) (hseason : d.pwr.season ≠ .winter) :
    sleepCal d = match d.bell.sleep.calStart with
      | none => onSleep d (fun x => { x with calStart := some (rateTime d.bell.time) })
      | some t0 => onSleep d (fun x => { x with
          cal := (rdiv ((rateTime d.bell.time - t0).toNat : Int) 262144).toNat % 2 ^ 32, calValid := true, calStart := some (rateTime d.bell.time) }) := by
  unfold sleepCal
  exact if_pos ⟨hst, hseason⟩

/-! ### Markers and the credits of the pool (R26, R69, R71) -/

/-- A device that is no bellwether and missed as many markers as its rank leads from here on. -/
theorem successionClaim_acts {d : Dev} (hfollow : d.bell.succ.bellwether = false) (hlow : 1 ≤ d.bell.succ.rank) (hhigh : d.bell.succ.rank ≤ 14)
    (hmiss : d.bell.succ.rank ≤ d.bell.succ.missed) :
    (successionClaim d).bell.succ = { d.bell.succ with bellwether := true, epoch := (d.bell.succ.epoch + 1) % 65536, leader := d.casc.device, heard := true, missed := 0 } := by
  have hact : ¬ (d.bell.succ.bellwether = true ∨ d.bell.succ.rank = 0 ∨ d.bell.succ.rank > 14 ∨ d.bell.succ.missed < d.bell.succ.rank) := by
    simp only [hfollow, Bool.false_eq_true, false_or]; omega
  rw [successionClaim, if_neg hact]
  exact congrArg BellState.succ ((bellwetherMarker_touch _).same .bell rfl)

/-- What a frame that was taken leaves of the cascade, and of BELL. -/
theorem cascGot_keeps (h : CascHdr) (control : Bool) (d : Dev) :
    (cascGot h control d).bell = d.bell ∧ (cascGot h control d).casc.device = d.casc.device ∧ (cascGot h control d).casc.routes = d.casc.routes := by
  unfold cascGot
  cases control <;> dsimp only <;> split_ifs <;> exact ⟨rfl, rfl, rfl⟩

/-- A frame addressed to this device, or broadcast with no hops left, goes no further. -/
theorem cascForward_ends {h : CascHdr} {d : Dev} (hend : h.dst = d.casc.device ∨ (h.dst = 0xFF ∧ h.hops = 0)) (k : OutKind) (t : CascType) (corr : Int)
    (pay : List Byte) : cascForward h k t corr pay d = d := by
  unfold cascForward
  rcases hend with hdst | ⟨hdst, hhops⟩
  · rw [if_pos (.inl hdst)]
  · rw [if_pos hhops, if_pos hdst, ite_self]

/-- A BELL frame that this device takes, and that goes no further, is followed. -/
theorem markerRx_taken {d : Dev} {h : CascHdr} {m : Marker} (H : CascHears d h .bell (bellBytes m)) (hup : cascUp d h.port = true)
    (hend : h.dst = d.casc.device ∨ (h.dst = 0xFF ∧ h.hops = 0)) (residence : Nat) :
    markerRx h m residence d = followMarker h.port m (cascGot h false d) := by
  obtain ⟨-, hdev, -⟩ := cascGot_keeps h false d
  have hmine : h.dst = (cascGot h false d).casc.device ∨ h.dst = 0xFF := by
    rw [hdev]; exact hend.imp_right And.left
  have hstop := cascForward_ends (h := h) (d := cascGot h false d) (by rw [hdev]; exact hend)
  simp only [markerRx, hup, not_true_eq_false, if_false, cascRx_of_hears H, Bool.false_eq_true, false_or, show (CascType.bell == CascType.control) = false from rfl,
    hstop, hmine, if_true]

/-- A marker of a higher epoch, heard towards its sender, is followed (R69). -/
theorem followMarker_newer {d : Dev} {port : Nat} {m : Marker} (hroute : ∀ r, tget d.casc.routes m.device = some r → r.1 = port)
    (hepoch : m.epoch > d.bell.succ.epoch) (hother : m.device ≠ d.casc.device) :
    followMarker port m d = onSucc d (fun s =>
      { s with epoch := m.epoch, leader := m.device, heard := true, inPort := port % 2, bellwether := false, missed := 0 }) := by
  have hother' : (m.device == d.casc.device) = false := beq_false_of_ne hother
  unfold followMarker
  cases hr : tget d.casc.routes m.device with
  | none => simp [hepoch, hother']
  | some r => simp [hepoch, hother', hroute r hr]

/-- The same of a frame that was taken: taking it moves no route and no epoch. -/
theorem followMarker_got {d : Dev} {h : CascHdr} {control : Bool} {port : Nat} {m : Marker}
    (hroute : ∀ r, tget d.casc.routes m.device = some r → r.1 = port) (hepoch : m.epoch > d.bell.succ.epoch) (hother : m.device ≠ d.casc.device) :
    followMarker port m (cascGot h control d) = onSucc (cascGot h control d) (fun s =>
      { s with epoch := m.epoch, leader := m.device, heard := true, inPort := port % 2, bellwether := false, missed := 0 }) := by
  obtain ⟨hbell, hdev, hroutes⟩ := cascGot_keeps h control d
  exact followMarker_newer (by rwa [hroutes]) (by rwa [hbell]) (by rwa [hdev])

theorem followMarker_older {d : Dev} {m : Marker} (hepoch : m.epoch < d.bell.succ.epoch) (port : Nat) : followMarker port m d = d := by
  have hne : (m.epoch == d.bell.succ.epoch) = false := beq_false_of_ne (Nat.ne_of_lt hepoch)
  simp [followMarker, Nat.lt_asymm hepoch, hne]

theorem pastClass_foldl_spent (l : List Nat) (d : Dev) (k : Nat) :
    pastClass (l.foldl (fun d k => onClass d k (fun c => { c with own := 0 })) d) k
      = if k ∈ l then { pastClass d k with own := 0 } else pastClass d k := by
  induction l generalizing d with
  | nil => simp
  | cons j r ih =>
    rw [List.foldl_cons, ih]
    by_cases hk : k = j
    · subst hk; simp
    · simp [pastClass_onClass_other d j k _ hk, hk]

/-- The pool with what own credits are left, before what waits draws on it. -/
def creditsHanded (d : Dev) : Dev :=
  onPast ((List.range 24).foldl (fun d k => onClass d k (fun c => { c with own := 0 })) d)
    (fun p => { p with pool := p.pool + sumN ((List.range 24).map (fun k => (pastClass d k).own)), handed := true })

theorem pastClass_pooled (d : Dev) (n k : Nat) : pastClass (onPast d (fun p => { p with pool := p.pool + n, handed := true })) k = pastClass d k := rfl

theorem pastClass_creditsHanded (d : Dev) (k : Nat) :
    pastClass (creditsHanded d) k = if k ∈ List.range 24 then { pastClass d k with own := 0 } else pastClass d k := by
  rw [creditsHanded, pastClass_pooled, pastClass_foldl_spent]

theorem creditsHanded_pool (d : Dev) :
    (creditsHanded d).past.handed = true ∧ (creditsHanded d).past.pool = d.past.pool + sumN ((List.range 24).map (fun k => (pastClass d k).own)) := by
  have hspent := foldl_keeps (fun d => d.past.pool) (fun d k => onClass d k (fun c => { c with own := 0 })) (List.range 24) d (fun _ _ => rfl)
  rw [creditsHanded, ← hspent]
  exact ⟨rfl, rfl⟩

/-- With nothing waiting, the pool takes what own credits are left and keeps it (R26). -/
theorem poolHandover_idle {d : Dev} (hidle : allWaiting d = 0) : poolHandover d = creditsHanded d := by
  have hwait : ∀ k, (pastClass (creditsHanded d) k).waiting = (pastClass d k).waiting := by
    intro k
    rw [pastClass_creditsHanded]
    split <;> rfl
  have hnone : allWaiting (creditsHanded d) = 0 := by simpa only [allWaiting, hwait] using hidle
  show drainPool (creditsHanded d) (min (creditsHanded d).past.pool (allWaiting (creditsHanded d))) = _
  rw [hnone, Nat.min_zero, drainPool]

/-- Settles O37, event by event: `exec` becomes the event's own operation, and the conditions say which case of it acts. -/
theorem bellAndTimeEventsComplete : Obligations.BellAndTimeEventsComplete := by
  unfold Obligations.BellAndTimeEventsComplete
  refine ⟨?tick, ?snap, ?tickLo, ?tickLoDark, ?sleepLo, ?tsq, ?refFree, ?refAcquire, ?refLock, ?refHoldover, ?missHoldover, ?missFollower, ?tod, ?ppsEdge,
    ?ppsInvalid, ?ppsFall, ?calFirst, ?calNext, ?markerMine, ?markerAll, ?markerOld, ?claim, ?delay, ?pool⟩
  case tick =>
    intro s x hon
    exact ⟨nextDev_congr (bellTick_on hon x), bellCount_bell x s.start⟩
  case snap =>
    rintro s cycles ⟨hb, hon⟩
    rw [b_bellSnap]
    simp only [hostWrites_served ((bar0Answers_advanceC _ _).trans hb) ((domOn_advanceC _ _ _).trans hon)]
    rfl
  case tickLo =>
    rintro s ⟨hb, hon⟩
    rw [b_tickLoRead, hostReads_served hb hon, tickLoRead]
  case tickLoDark =>
    rintro s ⟨hb, hoff⟩
    rw [b_tickLoRead, hostReads_dark hb hoff]
  case sleepLo =>
    rintro s crystal ⟨hb, hon⟩
    simp only [b_sleepCntLoRead]
    rw [hostReads_served (d := advanceCrystal s.start crystal) hb hon]
    rfl
  case tsq =>
    rintro s group ⟨hg, hb, hon⟩
    simp only [b_tsqW3Read, hg, if_true, hostReads_served hb hon]
    rfl
  case refFree =>
    rintro s err freq ⟨hsrc, hst, hrun⟩
    rw [b_referenceEvent, ends_become, referenceEvent_free hsrc hst hrun]
    exact ⟨hst, rfl, rfl, rfl, rfl⟩
  case refAcquire =>
    rintro s err freq ⟨hsrc, hst, hrun⟩
    rw [b_referenceEvent, ends_become]
    exact referenceEvent_acquire hsrc hst hrun err freq
  case refLock =>
    rintro s err freq ⟨hsrc, hst, hrun, hin⟩
    rw [b_referenceEvent, ends_become, ← clampI_slew]
    exact referenceEvent_lock hsrc hst hrun hin freq
  case refHoldover =>
    rintro s err freq ⟨hsrc, hst, hout⟩
    rw [b_referenceEvent, ends_become]
    exact referenceEvent_holdover hsrc hst hout freq
  case missHoldover =>
    rintro s ⟨hsrc, hst, hrun⟩
    rw [b_referenceMissing, ends_become]
    exact referenceMissing_holdover hsrc hst hrun
  case missFollower =>
    rintro s ⟨hsrc, hfollow, hrun⟩
    rw [b_referenceMissing, ends_become]
    exact referenceMissing_follower hsrc hfollow hrun
  case tod =>
    rintro s slice send ri stamp ⟨hsrc, htod⟩
    simp only [b_todMessage, todMessage, hsrc, htod, ne_eq, not_true_eq_false, or_self, if_false]
    rfl
  case ppsEdge =>
    intro s hvalid
    simp only [b_ppsOutEdge, hvalid, if_true]
  case ppsInvalid =>
    intro s hvalid
    simp only [b_ppsOutEdge, hvalid, Bool.false_eq_true, if_false]
  case ppsFall => exact fun s => b_ppsOutFall s
  case calFirst =>
    rintro s cycles ⟨hst, hseason, hcal⟩
    obtain ⟨-, -, hlock, hsleep⟩ := advanceC_keeps s.start cycles
    simp only [b_sleepCalMeasure]
    rw [sleepCal_locked (by rw [hlock, hst]) (by rw [advanceC_pwr]; exact hseason), hsleep, hcal]
  case calNext =>
    rintro s cycles t0 ⟨hst, hseason, hcal⟩
    obtain ⟨-, -, hlock, hsleep⟩ := advanceC_keeps s.start cycles
    simp only [b_sleepCalMeasure]
    rw [sleepCal_locked (by rw [hlock, hst]) (by rw [advanceC_pwr]; exact hseason), hsleep, hcal]
  case markerMine =>
    rintro s hd m residence ⟨H, hup, hdst, hroute, hepoch, hother⟩
    rw [b_bellMarkerRx, markerRx_taken H hup (.inl hdst), followMarker_got hroute hepoch hother]
  case markerAll =>
    rintro s hd m residence ⟨H, hup, hdst, hhops, hroute, hepoch, hother⟩
    rw [b_bellMarkerRx, markerRx_taken H hup (.inr ⟨hdst, hhops⟩), followMarker_got hroute hepoch hother]
  case markerOld =>
    rintro s hd m residence ⟨H, hup, hdst, hepoch⟩
    obtain ⟨hbell, -⟩ := cascGot_keeps hd false s.start
    rw [b_bellMarkerRx, markerRx_taken H hup (.inl hdst), followMarker_older (by rw [hbell]; exact hepoch)]
  case claim =>
    rintro s ⟨hfollow, hlow, hhigh, hmiss⟩
    rw [b_successionClaim, ends_become, successionClaim_acts hfollow hlow hhigh hmiss]
    exact ⟨rfl, rfl, rfl, rfl⟩
  case delay =>
    intro s port t1 t2 t3 t4 hport
    simp only [b_cascDelayMeasure, ends_become, Nat.not_lt.mpr hport, if_false]
    have hround : t4 + portAdjOf s.start (9 + port) - (t1 + portAdjOf s.start (9 + port)) - (t3 - t2) = t4 - t1 - (t3 - t2) := by ring
    rw [hround]
    exact tget_tset_same ..
  case pool =>
    rintro s ⟨hhanded, hidle⟩
    simp only [b_poolHandover, ends_become, hhanded, Bool.false_eq_true, if_false, poolHandover_idle hidle]
    obtain ⟨hh, hpool⟩ := creditsHanded_pool s.start
    refine ⟨hh, hpool, fun k hk => ?_⟩
    have hclass := pastClass_creditsHanded s.start k
    rw [if_pos (List.mem_range.mpr hk)] at hclass
    exact congrArg PastClass.own hclass

end Sys2Proof.Machine
end

section
/-! PROOFS. What the cut-off, the bell's changes and the turns of the control cores come to (O47). -/

namespace Sys2Proof.Machine

/-! ### The bell (R14 to R17) -/

/-- What the control cores do at a bell once the staged changes have been taken. -/
def afterChanges (changed : Bool) (d : Dev) : Dev :=
  beginDigests changed (syncLanes (accBell (drainBell (beginDrains (finishLoads (postAtBell d))))))

/-- The work of a bell before the first staged change. -/
def bellStart (d : Dev) : BellWork := { dev := onSys d (fun y => { y with staged := [] }), busy := [], changed := false, kept := [] }

/-- What still waits after a bell's changes, ahead of what they staged themselves. -/
def changesLeft (w : BellWork) : Dev := onSys w.dev (fun y => { y with staged := w.kept ++ y.staged })

theorem takeEffect_served {d : Dev} (hon : domOn d 2 = true) (hswap : d.aux.swapState ≠ 1) :
    takeEffect d = afterChanges (d.sys.staged.foldl takeOne (bellStart d)).changed (changesLeft (d.sys.staged.foldl takeOne (bellStart d))) :=
  if_neg (by simp [hon, hswap])

/-- None of it stages anything. -/
theorem afterChanges_staged (changed : Bool) (d : Dev) : (afterChanges changed d).sys.staged = d.sys.staged :=
  ((beginDigests_touch ..).same .staged rfl).trans <| ((syncLanes_touch _).same .staged rfl).trans <| ((accBell_touch _).same .staged rfl).trans <|
    ((drainBell_touch _).same .staged rfl).trans <| ((beginDrains_touch _).same .staged rfl).trans <| ((finishLoads_touch _).same .staged rfl).trans <|
      (postAtBell_touch d).same .staged rfl

theorem changesLeft_bellStart {d : Dev} (h : d.sys.staged = []) : changesLeft (bellStart d) = d := by
  show onSys d (fun y => { y with staged := [] }) = d
  simp only [onSys, ← h]

/-- A change that was staged after the cut-off waits (R15). -/
theorem takeOne_unarmed {w : BellWork} {z : Staged} {c : KCmd} {pick : Nat} (hz : z.change = .kervon c pick) (harm : z.armed = false) :
    takeOne w z = { w with busy := w.busy ++ (objOf c).toList, kept := w.kept ++ [z] } := by
  simp [takeOne, waits, hz, harm, keepWaiting]

/-- A change that destroys nothing and does not wait is made, and its DONE posted. -/
theorem takeOne_taken {w : BellWork} {z : Staged} {c : KCmd} {pick : Nat} (hz : z.change = .kervon c pick) (hgo : waits w z = false)
    (hd : destroys c = false) :
    takeOne w z = { w with dev := settleNew c pick (postDone z (applyChange z w.dev).2 (applyChange z w.dev).1), changed := true } := by
  simp [takeOne, hgo, hz, endWaits, hd]

/-! ### Turns (R518, R522) -/

/-- Where each of `n` turns leaves the device as it is, so do all. -/
theorem foldl_range_idle {α : Type} {f : α → Nat → α} {n : Nat} {a : α} (h : ∀ j < n, f a j = a) : (List.range n).foldl f a = a := by
  induction n with
  | zero => rfl
  | succ n ih => rw [List.range_succ, List.foldl_append, ih (fun j hj => h j (by omega)), List.foldl_cons, List.foldl_nil, h n (by omega)]

/-- Where turn `r` alone does something, all turns come to what it does. -/
theorem foldl_range_single {α : Type} {f : α → Nat → α} {n r : Nat} {a b : α} (hr : r < n) (hbefore : ∀ j < r, f a j = a) (hturn : f a r = b)
    (hafter : ∀ j, r < j → j < n → f b j = b) : (List.range n).foldl f a = b := by
  induction n with
  | zero => omega
  | succ n ih =>
    rw [List.range_succ, List.foldl_append, List.foldl_cons, List.foldl_nil]
    rcases Nat.lt_succ_iff_lt_or_eq.mp hr with hlt | rfl
    · rw [ih hlt (fun j hj hn => hafter j hj (by omega)), hafter n hlt (by omega)]
    · rw [foldl_range_idle hbefore, hturn]

theorem ringTurn_idle {d : Dev} {r : Nat} (h : ringReady (ringOf d r) = false) (m : Memory) : ringTurn m d r = d := by
  simp [ringTurn, h]

theorem sessionTurn_idle {d : Dev} {k : Nat} (h : (sessOf d k).queue = []) (m : Memory) : sessionTurn m d k = d := by
  simp [sessionTurn, h]

theorem ringTurn_ready {d : Dev} {r : Nat} {p : KPacket} (hserve : kServing d = true) (hon : domOn d 38 = true) (hready : ringReady (ringOf d r) = true)
    (hp : tget (ringOf d r).slots (ringOf d r).sqHead = some p) (m : Memory) :
    ringTurn m d r = runQueued m p (onRing d r (fun x => { x with sqHead := (x.sqHead + 1) % 256 })) := by
  simp [ringTurn, hserve, hon, hready, hp]

theorem sessionTurn_queued {d : Dev} {k : Nat} {p : KPacket} {rest : List KPacket} (hserve : kServing d = true) (hst : (sessOf d k).st = .opened)
    (hq : (sessOf d k).queue = p :: rest) (m : Memory) : sessionTurn m d k = runQueued m p (onSess d k (fun x => { x with queue := rest })) := by
  simp [sessionTurn, hserve, hst, hq]

/-- The rings have their turns before the sessions. -/
theorem exec_commandDequeue (s : State) :
    exec .commandDequeue s = s.commit ((List.range 8).foldl (sessionTurn s.mem) ((List.range 4).foldl (ringTurn s.mem) s.start)) := rfl

/-- Settles O47: the list of staged changes is empty or has one entry, and one ring or session at most has a turn that does something. -/
theorem controlCoreEventsComplete : Obligations.ControlCoreEventsComplete := by
  unfold Obligations.ControlCoreEventsComplete
  refine ⟨?cutoff, ?unarmed, ?nothing, ?taken, ?idle, ?ring, ?session⟩
  case cutoff =>
    rintro s ⟨hon, hswap⟩
    rw [exec_stagingCutoff]
    simp [copiesDone_gates, hon, hswap]
  case unarmed =>
    rintro s z c pick ⟨hon, hswap, hstaged, hz, harm⟩
    show Ends (nextDev s takeEffect) _
    rw [ends_nextDev, takeEffect_served hon hswap]
    show z ∈ (afterChanges _ _).sys.staged
    rw [afterChanges_staged, hstaged, List.foldl_cons, List.foldl_nil, takeOne_unarmed hz harm]
    exact List.mem_append_left _ (List.mem_singleton_self z)
  case nothing =>
    rintro s ⟨hon, hswap, hstaged⟩
    show s.commit (takeEffect s.start) = _
    rw [takeEffect_served hon hswap, hstaged, List.foldl_nil, changesLeft_bellStart hstaged]
    rfl
  case taken =>
    rintro s z c pick e ⟨hon, hswap, hstaged, hz, hgo, hd, rfl⟩
    show s.commit (takeEffect s.start) = _
    rw [takeEffect_served hon hswap, hstaged, List.foldl_cons, List.foldl_nil, takeOne_taken (w := bellStart s.start) hz hgo hd]
    rfl
  case idle =>
    rintro s ⟨hrings, hsess⟩
    rw [exec_commandDequeue, foldl_range_idle (fun j hj => ringTurn_idle (hrings j hj) _), foldl_range_idle (fun k hk => sessionTurn_idle (hsess k hk) _)]
  case ring =>
    rintro s r p ⟨hr, hserve, hon, hready, hp, hbefore, hafter, hsess⟩
    rw [exec_commandDequeue, foldl_range_single hr (fun j hj => ringTurn_idle (hbefore j hj) _) (ringTurn_ready hserve hon hready hp _)
      (fun j hj hn => ringTurn_idle (hafter j ⟨hj, hn⟩) _), foldl_range_idle (fun k hk => sessionTurn_idle (hsess k hk) _)]
  case session =>
    rintro s k p rest ⟨hk, hserve, hst, hq, hrings, hbefore, hafter⟩
    rw [exec_commandDequeue, foldl_range_idle (fun j hj => ringTurn_idle (hrings j hj) _), foldl_range_single hk
      (fun j hj => sessionTurn_idle (hbefore j hj) _) (sessionTurn_queued hserve hst hq _) (fun j hj hn => sessionTurn_idle (hafter j ⟨hj, hn⟩) _)]

end Sys2Proof.Machine
end

section
/-! PROOFS. What Pasture requests, BAR2, row remapping and check-value units come to (O50). -/

namespace Sys2Proof.Machine

/-! ### Pasture requests and BAR2 (R26, R507) -/

theorem pastureRequest_own {d : Dev} {k : Nat} (hk : k < 24) (hwait : (pastClass d k).waiting = 0) (hown : 0 < (pastClass d k).own) :
    pastureRequest k d = serveOwn d k := by
  simp [pastureRequest, Nat.not_le.mpr hk, hwait, hown]

theorem pastureRequest_pool {d : Dev} {k : Nat} (hk : k < 24) (hwait : (pastClass d k).waiting = 0) (hown : (pastClass d k).own = 0) (hpool : 0 < d.past.pool) :
    pastureRequest k d = servePool d k := by
  simp [pastureRequest, Nat.not_le.mpr hk, hwait, hown, hpool]

/-- A class with something waiting, or with no credit of its own and none in the pool, stalls. -/
theorem pastureRequest_stall {d : Dev} {k : Nat} (hk : k < 24)
    (hnone : 0 < (pastClass d k).waiting ∨ ((pastClass d k).own = 0 ∧ d.past.pool = 0)) : pastureRequest k d = stallClass d k 1 := by
  rcases hnone with hwait | ⟨hown, hpool⟩
  · simp [pastureRequest, Nat.not_le.mpr hk, hwait]
  · simp [pastureRequest, Nat.not_le.mpr hk, hown, hpool]

/-- A transfer is served or waits, and is checked by INTEG where Pasture has its address. -/
theorem exec_pastureRequest_on {s : State} (hon : domOn s.start 16 = true) (cls addr : Nat) (write : Bool) (find : EccFind) :
    exec (.pastureRequest cls addr write find) s = s.become
      (if addr ≥ pastureSize then pastureRequest cls s.start
       else if write then eccWrite (pastureRequest cls s.start) (pastMemClass addr) addr
       else (eccRead (pastureRequest cls s.start) (pastMemClass addr) addr find).2) := by
  simp only [b_pastureRequest, hon, not_true_eq_false, if_false]

theorem exec_bar2Access (offset : Nat) (write : Bool) (data : List Byte) (bytes : Nat) (find : EccFind) (s : State) :
    exec (.bar2Access offset write data bytes find) s = execBar2Access offset write data bytes find s := rfl

/-- Where PCI Express and the Pasture controller are on, BAR2 reaches the whole of its window. -/
theorem bar2_taken {s : State} {offset : Nat} (hpcie : domOn s.start 38 = true) (hpast : domOn s.start 16 = true) (hoff : offset < 2 ^ 32) :
    ¬ (¬ domOn s.start 38 ∨ ¬ domOn s.start 16 ∨ offset ≥ 2 ^ 32) := by
  rintro (h | h | h)
  · exact h hpcie
  · exact h hpast
  · exact Nat.not_le.mpr hoff h

/-! ### Rows (R450) -/

/-- Two changes of a stack that agree on what it holds are one. -/
theorem onStack_congr {d : Dev} {k : Nat} {f g : StackRows → StackRows} (h : f (stackOf d k) = g (stackOf d k)) : onStack d k f = onStack d k g := by
  unfold stackOf at h
  simp only [onStack, onInteg, tupd, h]

theorem stackOf_raiseLeaf (d : Dev) (w bit k : Nat) : stackOf (raiseLeaf d w bit) k = stackOf d k := by simp [stackOf]

theorem stackOf_chargeClass (d : Dev) (c n k : Nat) : stackOf (chargeClass d c n) k = stackOf d k := by
  unfold stackOf
  rw [(chargeClass_touch d c n).same .integ rfl]

/-- The one candidate of a stack dropped. -/
theorem onStack_drop {d : Dev} {k row : Nat} {tick : BitVec 64} (hc : (stackOf d k).cands = [(row, tick)]) :
    onStack d k (fun x => { x with cands := x.cands.filter (fun y => y.1 != row) }) = onStack d k (fun x => { x with cands := [] }) :=
  onStack_congr (by simp [hc])

theorem beginRow_copies {d : Dev} {k row : Nat} {tick : BitVec 64} (hc : (stackOf d k).cands = [(row, tick)]) (ht : tick ≠ d.bell.tick)
    (hfree : (stackOf d k).copying.length < (stackOf d k).free) (hcredit : holdsCredit d 23 = true) :
    beginRow d k (row, tick) = onStack (chargeClass (onStack d k (fun x => { x with cands := [] })) 23 32) k
      (fun x => { x with copying := x.copying ++ [row] }) := by
  simp only [beginRow, onStack_drop hc, ht, Nat.not_le.mpr hfree, hcredit, not_true_eq_false, if_false]

theorem beginRow_full {d : Dev} {k row : Nat} {tick : BitVec 64} (hc : (stackOf d k).cands = [(row, tick)]) (ht : tick ≠ d.bell.tick)
    (hfree : (stackOf d k).free ≤ (stackOf d k).copying.length) :
    beginRow d k (row, tick) = raiseLeaf (onStack d k (fun x => { x with cands := [] })) 21 18 := by
  simp only [beginRow, onStack_drop hc, ht, hfree, if_true, if_false]

/-- Row remapping with one candidate, in stack 0. -/
theorem exec_rowRemapStart_single {s : State} {row : Nat} {tick : BitVec 64} (hon : domOn s.start 16 = true) (h0 : (stackOf s.start 0).cands = [(row, tick)])
    (h1 : (stackOf (beginRow s.start 0 (row, tick)) 1).cands = []) : exec .rowRemapStart s = s.become (beginRow s.start 0 (row, tick)) := by
  simp only [b_rowRemapStart, hon, if_true, List.foldl_cons, List.foldl_nil, h0, h1]

theorem onInteg_rowMap_of_keeps {d : Dev} {f : IntegState → IntegState} (h : ∀ i, (f i).rowMap = i.rowMap) : (onInteg d f).integ.rowMap = d.integ.rowMap := h _

/-- A stack's rows are what INTEG's row maps say. -/
theorem stackOf_of_rowMap {d e : Dev} (h : e.integ.rowMap = d.integ.rowMap) (k : Nat) : stackOf e k = stackOf d k := by simp only [stackOf, h]

theorem stackOf_endRow_other {k j : Nat} (h : j ≠ k) (d : Dev) (row : Nat) : stackOf (endRow d k row) j = stackOf d j := by
  simp only [endRow, stackOf_raiseLeaf]
  refine (stackOf_of_rowMap (onInteg_rowMap_of_keeps ?_) j).trans (stackOf_onStack_other d k j _ h)
  exact fun _ => rfl

theorem stackOf_endRow (d : Dev) (k row : Nat) :
    stackOf (endRow d k row) k = { stackOf d k with
      copying := (stackOf d k).copying.erase row, free := (stackOf d k).free - 1,
      remap := (stackOf d k).remap.filter (fun r => r.1 != row) ++ [(row, 256 - (stackOf d k).free)],
      counts := (stackOf d k).counts.filter (fun r => r.row != row) } := by
  simp only [endRow, stackOf_raiseLeaf]
  refine (stackOf_of_rowMap (onInteg_rowMap_of_keeps ?_) k).trans (stackOf_onStack d k _)
  exact fun _ => rfl

/-- The row last remapped in stack 0, by its address. -/
theorem endRow_remapLast (d : Dev) (row : Nat) : (endRow d 0 row).integ.remapLast = row * 1024 := by simp [endRow, onInteg]

/-- Row copies that end, with one copy under way, in stack 0. -/
theorem exec_rowRemapComplete_single {s : State} {row : Nat} (h0 : (stackOf s.start 0).copying = [row]) (h1 : (stackOf s.start 1).copying = []) :
    exec .rowRemapComplete s = s.become (endRow s.start 0 row) := by
  simp only [b_rowRemapComplete, List.foldl_cons, List.foldl_nil, h0, stackOf_endRow_other one_ne_zero, h1]

/-! ### Check-value units (R454 to R456) -/

theorem exec_cvInit_on {s : State} {cv : Nat} (hcv : cv < 64) (hon : domOn s.start 2 = true) : exec (.cvInit cv) s = s.become (cvInit cv s.start) := by
  simp only [b_cvInit, hcv, hon, and_self, if_true]

theorem onCv_congr {d : Dev} {u : Nat} {f g : CvUnit → CvUnit} (h : f (cvOf d u) = g (cvOf d u)) : onCv d u f = onCv d u g := by
  unfold cvOf at h
  simp only [onCv, onInteg, tupd, h]

/-- CV_INIT sets the start value of the unit's algorithm. -/
theorem exec_cvInit_alg {s : State} {cv alg : Nat} (hcv : cv < 64) (hon : domOn s.start 2 = true) (halg : (cvOf s.start cv).alg = alg) :
    exec (.cvInit cv) s = s.become (onCv s.start cv (fun x => { x with value := (cvAlg alg).2.2.1 })) := by
  rw [exec_cvInit_on hcv hon, cvInit, onCv_congr (g := fun x => { x with value := (cvAlg alg).2.2.1 }) (by simp only [halg])]

theorem exec_cvAliveWrite_on {s : State} {cv value : Nat} (hcv : cv < 64) (hon : domOn s.start 2 = true) (hv : value < 256) :
    exec (.cvAliveWrite cv value) s = s.become (onCv s.start cv (fun x => aliveStep x value)) := by
  simp only [b_cvAliveWrite, hcv, hon, and_self, if_true, cvAlive, Nat.mod_eq_of_lt hv]

theorem aliveStep_first {x : CvUnit} (hinit : x.aliveInit = true) (v : Nat) : aliveStep x v = { x with result := 2, alive := v, aliveInit := false, run := 0 } := by
  simp [aliveStep, hinit]

/-- The next value of the counter, with no stale run before it. -/
theorem aliveStep_next {x : CvUnit} (hinit : x.aliveInit = false) (halive : x.alive < 256) (hrun : x.run = 0) :
    aliveStep x ((x.alive + 1) % 256) = { x with result := 1, alive := (x.alive + 1) % 256, run := 0 } := by
  have hk : ((x.alive + 1) % 256 + 256 - x.alive) % 256 = 1 := by omega
  simp [aliveStep, hinit, hk, hrun]

theorem aliveStep_same {x : CvUnit} (hinit : x.aliveInit = false) : aliveStep x x.alive = { x with result := 3, repeated := min 65535 (x.repeated + 1), run := 0 } := by
  have hk : (x.alive + 256 - x.alive) % 256 = 0 := by omega
  simp [aliveStep, hinit]

/-- Settles O50, event by event. -/
theorem integrityEventsComplete : Obligations.IntegrityEventsComplete := by
  unfold Obligations.IntegrityEventsComplete
  refine ⟨?own, ?pool, ?stallNowhere, ?stallWrite, ?stallRead, ?barWrite, ?barRead, ?barBad, ?rowStart, ?rowFull, ?rowDone, ?rowState, ?init, ?init2, ?init3,
    ?init0, ?init1, ?data8, ?data16, ?data32, ?valueHigh, ?valueLow, ?aliveFirst, ?aliveNext, ?aliveSame⟩
  case own =>
    rintro s cls addr write find ⟨hon, hk, hwait, hown, haddr, rfl⟩
    rw [exec_pastureRequest_on hon, pastureRequest_own hk hwait hown, if_neg (Nat.not_le.mpr haddr), if_neg Bool.false_ne_true]
  case pool =>
    rintro s cls addr write find ⟨hon, hk, hwait, hown, hpool, haddr, rfl⟩
    rw [exec_pastureRequest_on hon, pastureRequest_pool hk hwait hown hpool, if_neg (Nat.not_le.mpr haddr), if_pos rfl]
  case stallNowhere =>
    rintro s cls addr write find ⟨hon, hk, hnone, haddr⟩
    rw [exec_pastureRequest_on hon, pastureRequest_stall hk hnone, if_pos haddr]
  case stallWrite =>
    rintro s cls addr write find ⟨hon, hk, hnone, haddr, rfl⟩
    rw [exec_pastureRequest_on hon, pastureRequest_stall hk hnone, if_neg (Nat.not_le.mpr haddr), if_pos rfl]
  case stallRead =>
    rintro s cls addr write find ⟨hon, hk, hnone, haddr, rfl⟩
    rw [exec_pastureRequest_on hon, pastureRequest_stall hk hnone, if_neg (Nat.not_le.mpr haddr), if_neg Bool.false_ne_true]
  case barWrite =>
    rintro s offset write data bytes find ⟨hpcie, hpast, hoff, rfl⟩
    rw [exec_bar2Access, execBar2Access, nextWith_commit, if_neg (bar2_taken hpcie hpast hoff)]
    simp only [if_true]
  case barRead =>
    rintro s offset write data bytes find e ⟨hpcie, hpast, hoff, rfl, hread⟩
    rw [exec_bar2Access, execBar2Access, nextWith_commit, if_neg (bar2_taken hpcie hpast hoff)]
    simp only [Bool.false_eq_true, if_false, hread]
  case barBad =>
    rintro s offset write data bytes find e ⟨hpcie, hpast, hoff, rfl, hread⟩
    rw [exec_bar2Access, execBar2Access, nextWith_commit, if_neg (bar2_taken hpcie hpast hoff)]
    simp only [Bool.false_eq_true, if_false, hread]
  case rowStart =>
    rintro s row k ⟨hon, h0, h1, ht, hfree, hcredit⟩
    have hbegin := beginRow_copies h0 ht hfree hcredit
    rw [exec_rowRemapStart_single hon h0, hbegin]
    rw [hbegin, stackOf_onStack_other _ _ _ _ one_ne_zero, stackOf_chargeClass, stackOf_onStack_other _ _ _ _ one_ne_zero, h1]
  case rowFull =>
    rintro s row k ⟨hon, h0, h1, ht, hfree⟩
    have hbegin := beginRow_full h0 ht hfree
    rw [exec_rowRemapStart_single hon h0, hbegin]
    rw [hbegin, stackOf_raiseLeaf, stackOf_onStack_other _ _ _ _ one_ne_zero, h1]
  case rowDone => exact fun s row h => exec_rowRemapComplete_single h.1 h.2
  case rowState =>
    rintro s row ⟨h0, h1, -⟩
    rw [exec_rowRemapComplete_single h0 h1, ends_become]
    simp only [stackOf_endRow, h0]
    refine ⟨by simp, trivial, by simp, endRow_remapLast _ row, raiseLeaf_sets _ 21 (by decide)⟩
  case init => exact fun s cv h => exec_cvInit_on h.1 h.2
  case init2 => exact fun s cv ⟨hcv, hon, halg⟩ => exec_cvInit_alg hcv hon halg
  case init3 => exact fun s cv ⟨hcv, hon, halg⟩ => exec_cvInit_alg hcv hon halg
  case init0 => exact fun s cv ⟨hcv, hon, halg⟩ => exec_cvInit_alg hcv hon halg
  case init1 => exact fun s cv ⟨hcv, hon, halg⟩ => exec_cvInit_alg hcv hon halg
  case data8 =>
    rintro s cv data ⟨hcv, hon⟩
    simp [b_cvData8, hcv, hon, cvData, cvFeed, leBytes]
  case data16 =>
    rintro s cv data ⟨hcv, hon⟩
    simp [b_cvData16, hcv, hon, cvData, cvFeed, leBytes, List.range_succ]
  case data32 =>
    rintro s cv data ⟨hcv, hon⟩
    simp only [b_cvData32, hcv, hon, and_self, if_true, cvData]
  case valueHigh =>
    rintro s cv high value ⟨hcv, hon, rfl⟩
    simp only [b_cvValueWrite, hcv, hon, and_self, if_true, cvValue]
  case valueLow =>
    rintro s cv high value ⟨hcv, hon, rfl⟩
    simp only [b_cvValueWrite, hcv, hon, and_self, if_true, cvValue, Bool.false_eq_true, if_false]
  case aliveFirst =>
    rintro s cv value ⟨hcv, hon, hv, hinit⟩
    rw [exec_cvAliveWrite_on hcv hon hv, ends_become]
    simp only [cvOf_onCv, aliveStep_first hinit, and_self]
  case aliveNext =>
    rintro s cv value ⟨hcv, hon, hv, hinit, halive, rfl, hrun⟩
    rw [exec_cvAliveWrite_on hcv hon hv, ends_become]
    simp only [cvOf_onCv, aliveStep_next hinit halive hrun, and_self]
  case aliveSame =>
    rintro s cv value ⟨hcv, hon, hv, hinit, rfl⟩
    rw [exec_cvAliveWrite_on hcv hon hv, ends_become]
    simp only [cvOf_onCv, aliveStep_same hinit, and_self]

end Sys2Proof.Machine
end

section
/-! PROOFS. What pictures, codecs, talkers and layouts come to (O55). -/

namespace Sys2Proof.Machine

/-! ### Contributions and subpictures read back -/

/-- A listed entry changed is what the change makes of it. -/
theorem tget_tmod_same {α : Type} (t : Tbl α) (k : Nat) (f : α → α) : tget (tmod t k f) k = (tget t k).map f := by
  induction t with
  | nil => rfl
  | cons x xs ih =>
    obtain ⟨j, a⟩ := x
    by_cases h : j = k
    · simp [tmod, tget, h]
    · simpa [tmod, tget, h] using ih

theorem contribOf_onContrib (d : Dev) (n : Nat) (f : Contrib → Contrib) : contribOf (onContrib d n f) n = (contribOf d n).map f := tget_tmod_same ..

/-- A leg's change is none of its contribution. -/
theorem contribOf_onLeg (d : Dev) (m : Nat) (f : Leg → Leg) (n : Nat) : contribOf (onLeg d m f) n = contribOf d n := rfl

theorem picOf_onPic (d : Dev) (n t : Nat) (f : TierPic → TierPic) : picOf (onPic d n t f) n t = f (picOf d n t) := tgetD_tset_same ..

theorem passedAt_onPic (d : Dev) (m u : Nat) (f : TierPic → TierPic) (n t : Nat) : passedAt (onPic d m u f) n t = passedAt d n t := rfl

/-! ### Pictures received (R22, R163, R171) -/

/-- The pictures of the last second, the one that arrives with them (R163). -/
def seenNow (d : Dev) (c : Contrib) : List (BitVec 64) :=
  c.seen.filter (fun z => decide (d.bell.tick.toNat < z.toNat + 8000)) ++ [d.bell.tick]

/-- The device with a picture of a contribution noted, before it is judged. -/
def pictureNoted (d : Dev) (n : Nat) (c : Contrib) (p : PicIn) : Dev :=
  onContrib (onLeg d n (fun x => { x with picEnd := none })) n (fun x => { x with seen := seenNow d c, poc := some p.vvc.poc })

theorem seenNow_length (d : Dev) (c : Contrib) :
    (seenNow d c).length = (c.seen.filter (fun z => decide (d.bell.tick.toNat < z.toNat + 8000))).length + 1 := by simp [seenNow]

section
variable {d e : Dev} {n : Nat} {p : PicIn} {c : Contrib} {l : Leg}

/-- What CONTRIB_PICTURE_RX makes of a picture that is not VVC: nothing is held against R171, so its tier stands. -/
theorem contribPicture_notVvc (hc : contribOf d n = some c) (hl : legOf d n = some l) (hrun : legRuns l = true) (hmode : 2 ≤ c.rcd.mode)
    (hcodec : l.rcd.vCodecIn ≠ 3) (he : pictureNoted d n c p = e) :
    contribPicture n p d =
      (let passed := passedAt e n c.tier
       if (decodedLayer c.rcd p).isNone || decide ((seenNow d c).length > c.rcd.fps) then
         (if passed then passLost (decError e n true) n c.tier else decError e n true)
       else
         let f := if passed then (if p.lost then passLost e n c.tier else picDone e n c.tier p.intra) else e
         if decodes f n then giveDecoder f n l.rcd.vCodecIn ((l.picEnd.map (·.2)).getD 0) p else f) := by
  subst he
  have hgo : ¬ (¬ legRuns l ∨ c.rcd.mode < 2) := by simp [hrun, Nat.not_lt.mpr hmode, -not_lt]
  have htier : ((contribOf (pictureNoted d n c p) n).map (·.tier)).getD 0 = c.tier := by
    rw [pictureNoted, contribOf_onContrib, contribOf_onLeg, hc]
    rfl
  simp only [contribPicture, hc, hl, if_neg hgo, if_neg hcodec]
  simp only [pictureNoted, seenNow] at htier ⊢
  simp only [htier]
  rfl

/-- A picture within the declared size and rate is not oversize. -/
theorem not_oversize (hsize : decodedLayer c.rcd p ≠ none) (hrate : (seenNow d c).length ≤ c.rcd.fps) :
    ¬ ((decodedLayer c.rcd p).isNone || decide ((seenNow d c).length > c.rcd.fps)) = true := by
  simp [hsize, hrate]

end

/-! ### Encodes and composed pictures (R168, R179) -/

/-- What an intra encode in time leaves of its tier: a subpicture, its size as it is. -/
theorem tierEncodeDone_intra {d : Dev} {n tier size : Nat} {relay : List (LayerIn × Nat)} {c : Contrib} {r : EncRun} {rest : List EncRun}
    (hc : contribOf d n = some c) (hlow : 1 ≤ tier) (hhigh : tier ≤ 3) (hruns : (picOf d n tier).runs = r :: rest)
    (htime : d.bell.tick.toNat ≤ r.start.toNat + codingTicks) (hintra : r.intra = true) (hpass : passedAt d n tier = false) :
    tierEncodeDone n tier size relay d =
      (let e := onPic (onPic d n tier (fun x => { x with runs := rest })) n tier (fun x =>
        { x with log := (picOf d n tier).log.filter (fun z => decide (d.bell.tick.toNat < z.1.toNat + 8000)) })
       picDone (emit e .tierPicture n (tierVals e n tier true size)) n tier true) := by
  have htier : tier ≠ 0 := Nat.ne_of_gt hlow
  simp only [tierEncodeDone, hc, if_pos hhigh, hruns, Nat.not_lt.mpr htime, decide_false, Bool.false_eq_true, if_false, if_neg htier, passedAt_onPic,
    hpass, hintra, if_true, picOf_onPic]
  rfl

/-- The device with an encode ended past its deadline, before what it made is taken (R168). -/
def lateNoted (d : Dev) (n tier : Nat) (rest : List EncRun) : Dev :=
  raiseLeaf (onVid (onPic d n tier (fun x => { x with runs := rest })) (fun v =>
    { v with lateLeg := n, lateTier := tier, encLates := satInc v.encLates })) 18 3

/-- What an encode leaves that is past its deadline: its lateness noted, then what it made, unless its tier is passed through by now. -/
theorem tierEncodeDone_late {d : Dev} {n tier size : Nat} {relay : List (LayerIn × Nat)} {c : Contrib} {r : EncRun} {rest : List EncRun}
    (hc : contribOf d n = some c) (hlow : 1 ≤ tier) (hhigh : tier ≤ 3) (hruns : (picOf d n tier).runs = r :: rest)
    (htime : r.start.toNat + codingTicks < d.bell.tick.toNat) :
    tierEncodeDone n tier size relay d = lateNoted d n tier rest ∨
      ∃ log z, tierEncodeDone n tier size relay d =
        picDone (emit (onPic (lateNoted d n tier rest) n tier (fun p => { p with log := log })) .tierPicture n
          (tierVals (onPic (lateNoted d n tier rest) n tier (fun p => { p with log := log })) n tier r.intra z)) n tier r.intra := by
  have htier : tier ≠ 0 := Nat.ne_of_gt hlow
  simp only [tierEncodeDone, hc, if_pos hhigh, hruns, gt_iff_lt, htime, decide_true, if_true, if_neg htier]
  by_cases hpass : passedAt (lateNoted d n tier rest) n tier = true
  · exact .inl (if_pos hpass)
  · exact .inr ⟨_, _, if_neg hpass⟩

/-- What R168 has in the registers of a late encode. -/
def LateShown (d e : Dev) (n tier : Nat) (rest : List EncRun) : Prop :=
  e.vid.lateLeg = n ∧ e.vid.lateTier = tier ∧ e.vid.encLates = satInc d.vid.encLates ∧ (leafWord e.sys.int 18).getLsbD 3 = true ∧ (picOf e n tier).runs = rest

theorem lateNoted_shown (d : Dev) (n tier : Nat) (rest : List EncRun) : LateShown d (lateNoted d n tier rest) n tier rest := by
  have hvid : (lateNoted d n tier rest).vid = (onVid (onPic d n tier (fun x => { x with runs := rest })) (fun v =>
    { v with lateLeg := n, lateTier := tier, encLates := satInc v.encLates })).vid := (raiseLeaf_touch ..).same .vid rfl
  refine ⟨by rw [hvid]; rfl, by rw [hvid]; rfl, by rw [hvid]; rfl, raiseLeaf_sets _ 18 (by decide), ?_⟩
  have hpic : picOf (lateNoted d n tier rest) n tier = picOf (onPic d n tier (fun x => { x with runs := rest })) n tier := by simp only [picOf, hvid]; rfl
  rw [hpic, picOf_onPic]

/-- Later work on the tier's subpictures that keeps its runs leaves the lateness as it stands. -/
theorem LateShown.onPic {d e : Dev} {n tier : Nat} {rest : List EncRun} (h : LateShown d e n tier rest) (f : TierPic → TierPic) (hf : ∀ p, (f p).runs = p.runs) :
    LateShown d (onPic e n tier f) n tier rest := by
  obtain ⟨hleg, htier, hcount, hleaf, hruns⟩ := h
  exact ⟨hleg, htier, hcount, hleaf, by rw [picOf_onPic, hf, hruns]⟩

theorem LateShown.emit {d e : Dev} {n tier : Nat} {rest : List EncRun} (h : LateShown d e n tier rest) (k : OutKind) (chan : Nat) (vals : List Int) :
    LateShown d (emit e k chan vals) n tier rest := h

theorem LateShown.picDone {d e : Dev} {n tier : Nat} {rest : List EncRun} (h : LateShown d e n tier rest) (intra : Bool) :
    LateShown d (picDone e n tier intra) n tier rest := h.onPic _ fun _ => rfl

/-- A picture between intra points with no replaced layout waiting, as it goes to the legs that already receive the stream. -/
theorem splicePicture_plain {d : Dev} {k : Nat} {sizes : List Nat} {avc : Tbl (List Nat)} {z : Stream} {res : List ((CellSt × Nat) × CellRec)} {e : Dev}
    (hz : tget d.vid.streams k = some z) (htime : z.start.toNat + ceilDiv (z.k * 8000) (max 1 z.geometry.fps) ≤ d.bell.tick.toNat)
    (hdue : z.intraDue = []) (hcoming : z.coming = none) (hres : (z.cells.zip z.geometry.cells).map (fun x => (spliceCell d x.1 x.2.tier, x.2)) = res)
    (he : joinWaiting k z.variant false (onVid (emit d .picture k (pictureVals { z with poc := z.poc + 1 } false (d.bell.tick.toNat * 45 / 4 % 2 ^ 32)
      (((tget d.vid.layouts z.layout).map (·.border)).getD 0) res)) (fun v =>
      { v with streams := tset v.streams k { z with poc := z.poc + 1, cells := res.map (·.1.1), k := z.k + 1, intraDue := [], sets := some (composedSets z.geometry) } })) = e)
    (hnobody : ∀ x ∈ e.vid.recv, x.2.cur ≠ some k) : splicePicture k sizes avc d = streamsSweep e := by
  have hlegs : (e.vid.recv.filter (fun x => x.2.cur == some k)).map (·.1) = [] := by
    rw [List.filter_eq_nil_iff.mpr (fun x hx => by simpa using hnobody x hx), List.map_nil]
  simp only [hcoming, hdue] at he
  simp only [splicePicture, hz, if_neg (Nat.not_lt.mpr htime), hdue, hcoming, List.any_nil, List.filter_nil, Bool.false_eq_true, if_false, hres, he, hlegs,
    List.foldl_nil]

/-- Settles O55, event by event. -/
theorem videoEventsComplete : Obligations.VideoEventsComplete := by
  unfold Obligations.VideoEventsComplete
  refine ⟨?oversize, ?decoded, ?passed, ?decode, ?decodeFails, ?encode, ?late, ?notDue, ?splice, ?talker, ?refresh⟩
  case oversize =>
    rintro s n p c l e ⟨hc, hl, hrun, hmode, hcodec, he, hbig, hpass⟩
    have hover : ((decodedLayer c.rcd p).isNone || decide ((seenNow s.start c).length > c.rcd.fps)) = true := by
      rw [seenNow_length]
      simpa using hbig
    rw [b_contribPictureRx, contribPicture_notVvc hc hl hrun hmode hcodec he]
    simp only [hover, hpass, if_true, Bool.false_eq_true, if_false]
  case decoded =>
    rintro s n p c l e ⟨hc, hl, hrun, hmode, hcodec, he, hsize, hrate, hpass, hdec⟩
    rw [← seenNow_length] at hrate
    rw [b_contribPictureRx, contribPicture_notVvc hc hl hrun hmode hcodec he]
    simp only [if_neg (not_oversize hsize hrate), hpass, hdec, if_true, Bool.false_eq_true, if_false]
  case passed =>
    rintro s n p c l e ⟨hc, hl, hrun, hmode, hcodec, he, hsize, hrate, hpass, hlost, hdec⟩
    rw [← seenNow_length] at hrate
    rw [b_contribPictureRx, contribPicture_notVvc hc hl hrun hmode hcodec he]
    simp only [if_neg (not_oversize hsize hrate), hpass, hlost, hdec, if_true, Bool.false_eq_true, if_false]
  case decode =>
    rintro s n ok c b ts rest e ⟨hc, hdec, rfl, rfl⟩
    simp only [b_decodeDone, decodeDone, hc, hdec, not_true_eq_false, if_false]
  case decodeFails =>
    rintro s n ok c b ts rest ⟨hc, hdec, rfl⟩
    simp only [b_decodeDone, decodeDone, hc, hdec, Bool.false_eq_true, not_false_eq_true, if_true]
  case encode =>
    rintro s n tier size relay c r rest e ⟨hc, hlow, hhigh, hruns, htime, hintra, hpass, rfl⟩
    rw [b_tierEncodeDone, tierEncodeDone_intra hc hlow hhigh hruns htime hintra hpass]
  case late =>
    rintro s n tier size relay c r rest ⟨hc, hlow, hhigh, hruns, htime⟩
    rw [b_tierEncodeDone, ends_become]
    change LateShown s.start (tierEncodeDone n tier size relay s.start) n tier rest
    rcases tierEncodeDone_late (size := size) (relay := relay) hc hlow hhigh hruns htime with h | ⟨log, z, h⟩
    · rw [h]
      exact lateNoted_shown s.start n tier rest
    · rw [h]
      have hlog := (lateNoted_shown s.start n tier rest).onPic (fun p => { p with log := log }) fun _ => rfl
      exact (hlog.emit .tierPicture n _).picDone r.intra
  case notDue =>
    rintro s layout variant self sizes avc z ⟨hz, htime⟩
    simp only [b_splicePicture, splicePicture, hz, if_pos htime]
  case splice =>
    rintro s layout variant self sizes avc z res e ⟨hz, htime, hdue, hcoming, hres, he, hnobody⟩
    rw [b_splicePicture, splicePicture_plain hz htime hdue hcoming hres he hnobody]
  case talker =>
    rintro s layout variant self cell z c r lay n ⟨hz, hcell, hrec, hlay, hcand, hkind, hheld, hocc, hnext⟩
    have hgo : ¬ (r.kind ≠ 2 ∨ c.held < holdTicks lay ∨ c.occ = some n ∨ c.next = some (some n)) := by
      rintro (h | h | h | h)
      · exact h hkind
      · exact Nat.not_le.mpr h hheld
      · exact hocc h
      · exact hnext h
    simp only [b_talkerCellHold, talkerCell, hz, hcell, hrec, hlay, hcand, if_neg hgo]
  case refresh =>
    rintro s layout variant self z r ⟨hz, hlay, hon, hdue⟩
    have hgo : ¬ (r.refresh = 0 ∨ s.start.bell.tick.toNat < (z.refreshAt.getD z.start).toNat + 8000 * r.refresh) := by
      rintro (h | h)
      · exact hon h
      · exact Nat.not_le.mpr h hdue
    simp only [b_layoutRefresh, layoutRefresh, hz, hlay, if_neg hgo]

end Sys2Proof.Machine
end

section
/-! PROOFS. What the registers of BELL read, the snapshot of the time, and what a change of RATE or OFFSET does to it (O9, O13, O14, O16, O17). -/

namespace Sys2Proof.Machine

/-! ### Reads and writes of BELL's registers (R7, R38) -/

/-- No register of BELL lies past the first 1,044 bytes of its block. -/
theorem bellHas_lt {off : Nat} (h : bellHas off = true) : off < 0x414 := by
  simp only [bellHas, Bool.or_eq_true, Bool.and_eq_true, decide_eq_true_eq, beq_iff_eq] at h
  omega

/-- A read of a register of BELL's own power domain: TICK_LO latches, W3 takes an entry, and the others return their value. -/
theorem bar0Read_bell {d : Dev} {addr off : Nat} (hb : bar0Answers d = true) (hon : domOn d 3 = true) (haddr : addr = 0x100000 + off)
    (hhas : bellHas off = true) (hal : off % 4 = 0) (haon : off < 0x300 ∨ 0x400 ≤ off) :
    bar0Read addr d = if off = 8 then tickLoRead d
      else if 0x100 ≤ off ∧ off < 0x180 ∧ off % 0x20 = 0xC then tsqW3Read ((off - 0x100) / 0x20) d
      else emitRead (regReadClear d 1 off) addr (regValue d 1 off) := by
  have hlt := bellHas_lt hhas
  have hblk : addr / 0x100000 = 1 := by omega
  have hoff : addr % 0x100000 = off := by omega
  have hdom : regDomain 1 off = 3 := if_neg (by omega)
  have hin : addr < 0x10000000 := by omega
  have haddr4 : addr % 4 = 0 := by omega
  have htick : addr = 0x100008 ↔ off = 8 := by omega
  have hsleep : addr ≠ 0x100300 := by omega
  simp [bar0Read, hblk, hoff, hb, hin, haddr4, show regHas 1 off = true from hhas, hdom, hostReads_served hb hon, htick, hsleep, hostValue]

/-- The BELL registers whose read neither latches nor removes nor clears anything, and that follow BELL's own power domain. -/
def bellReadsPlain (off : Nat) : Bool :=
  bellHas off && off % 4 == 0 && off != 8 && (off < 0x300 || 0x400 ≤ off) && !(0x100 ≤ off && off < 0x180 && (off % 0x20 == 0xC || off % 0x20 == 0x14))

/-- A plain read returns the register's value and changes nothing. -/
theorem bar0Read_bellPlain {d : Dev} {addr off : Nat} (hb : bar0Answers d = true) (hon : domOn d 3 = true) (haddr : addr = 0x100000 + off)
    (hplain : bellReadsPlain off = true) : bar0Read addr d = emitRead d addr (regValue d 1 off) := by
  simp only [bellReadsPlain, Bool.and_eq_true, beq_iff_eq, bne_iff_ne, Bool.or_eq_true, decide_eq_true_eq, Bool.not_eq_true', Bool.and_eq_false_iff,
    Bool.or_eq_false_iff, beq_eq_false_iff_ne, decide_eq_false_iff_not] at hplain
  obtain ⟨⟨⟨⟨hhas, hal⟩, hlo⟩, haon⟩, hqueue⟩ := hplain
  have hclear : regReadClear d 1 off = d := if_neg (by omega)
  rw [bar0Read_bell hb hon haddr hhas hal haon, if_neg hlo, if_neg (by omega), hclear]

/-- What such a read comes to: the value is returned, and BELL is left as it is. -/
theorem exec_registerRead_bellPlain {s : State} {addr off : Nat} (hb : bar0Answers s.start = true) (hon : domOn s.start 3 = true)
    (haddr : addr = 0x100000 + off) (hplain : bellReadsPlain off = true) :
    Ends (exec (.registerRead addr) s) (fun t => t.dev.bell = s.start.bell
      ∧ t.dev.out = [{ kind := .hostRead, chan := addr, vals := [(regValue s.start 1 off : Int)] }]) := by
  rw [exec_registerRead, bar0Read_bellPlain hb hon haddr hplain, ends_become]
  exact ⟨rfl, rfl⟩

/-- The write of a register that the control cores manage leaves BELL as it is, whether or not it is served. -/
theorem bar0Write_managed_bell {d : Dev} {addr : Nat} (hman : regManaged d (addr / 0x100000) (addr % 0x100000) = true) (v : Word) :
    (bar0Write addr v d).bell = d.bell := by
  unfold bar0Write
  dsimp only
  split
  · rfl
  unfold hostWrites
  split
  · rfl
  split
  · simp
  · simp [hman, writeDropped]

/-! ### The capture queues (R59) -/

/-- The words of queue `g` lie in its own 32 bytes of the map. -/
theorem bellReg_tsq (d : Dev) {g k : Nat} (hg : g < 4) (hk : k < 0x20) : bellReg d (0x100 + 0x20 * g + k) = tsqReg d g k := by
  have hq : (0x100 + 0x20 * g + k - 0x100) / 0x20 = g := by omega
  have hr : (0x100 + 0x20 * g + k - 0x100) % 0x20 = k := by omega
  unfold bellReg
  rw [if_neg (by omega), if_neg (by omega), if_neg (by omega), if_pos (by omega), hq, hr]

/-- Every word but W3 is read plainly, and so is the level. -/
theorem bellReadsPlain_tsq : ∀ g < 4, ∀ k ∈ [0x0, 0x4, 0x8, 0x10], bellReadsPlain (0x100 + 0x20 * g + k) = true := by decide

theorem exec_registerRead_tsq {s : State} {addr g k : Nat} (hb : bar0Answers s.start = true) (hon : domOn s.start 3 = true) (hg : g < 4)
    (hk : k ∈ [0x0, 0x4, 0x8, 0x10]) (haddr : addr = 0x100000 + (0x100 + 0x20 * g + k)) :
    Ends (exec (.registerRead addr) s) (fun t => t.dev.bell = s.start.bell
      ∧ t.dev.out = [{ kind := .hostRead, chan := addr, vals := [(tsqReg s.start g k : Int)] }]) := by
  have hlt : k < 0x20 := by simp only [List.mem_cons, List.not_mem_nil, or_false] at hk; omega
  have hread := exec_registerRead_bellPlain hb hon haddr (bellReadsPlain_tsq g hg k hk)
  rwa [show regValue s.start 1 _ = _ from bellReg_tsq s.start hg hlt] at hread

/-- W3's register is read in domain 3 and takes the entry from its queue. -/
theorem bar0Read_tsqW3 {d : Dev} {g : Nat} (hb : bar0Answers d = true) (hon : domOn d 3 = true) (hg : g < 4) :
    bar0Read (0x10010C + 0x20 * g) d = tsqW3Read g d := by
  have hhas : ∀ g < 4, bellHas (0x10C + 0x20 * g) = true := by decide
  have hqueue : (0x10C + 0x20 * g - 0x100) / 0x20 = g := by omega
  rw [bar0Read_bell hb hon (off := 0x10C + 0x20 * g) (by omega) (hhas g hg) (by omega) (by omega), if_neg (by omega), if_pos (by omega), hqueue]

/-- Both rows of the table that read W3 come to the same. -/
theorem exec_tsqW3 {s : State} {g : Nat} (hb : bar0Answers s.start = true) (hon : domOn s.start 3 = true) (hg : g < 4) {i : Instr}
    (hi : i = .tsqW3Read g ∨ i = .registerRead (0x10010C + 0x20 * g)) : exec i s = s.become (tsqW3Read g s.start) := by
  rcases hi with rfl | rfl
  · simp only [b_tsqW3Read, hg, if_true, hostReads_served hb hon]
  · rw [exec_registerRead, bar0Read_tsqW3 hb hon hg]

/-- The queue that W3 is read of loses its first entry, and the others keep theirs. -/
theorem tsqW3Read_tsq (d : Dev) (g k : Nat) :
    tgetD (tsqW3Read g d).bell.tsq k [] = if k = g then (tgetD d.bell.tsq g []).drop 1 else tgetD d.bell.tsq k [] := by
  by_cases hk : k = g
  · subst hk; simp [tsqW3Read]
  · simp [tsqW3Read, tgetD_tset_other _ _ _ _ _ hk, hk]

/-- W3 returns the fraction of the first entry, or zero. -/
theorem tsqW3Read_out (d : Dev) (g : Nat) : (tsqW3Read g d).out
    = d.out ++ [{ kind := .hostRead, chan := 0x10010C + 0x20 * g, vals := [((((tgetD d.bell.tsq g []).head?.map (·.frac)).getD 0 : Nat) : Int)] }] := rfl

theorem tsqReg_empty {d : Dev} {g : Nat} (hq : tgetD d.bell.tsq g [] = []) : ∀ k ∈ [0x0, 0x4, 0x8, 0x10], tsqReg d g k = 0 := by
  simp [tsqReg, hq]

/-- Settles O13: W0 to W2 and the level are read plainly, and W3 takes the entry. -/
theorem captureQueueReads : Obligations.CaptureQueueReads := by
  unfold Obligations.CaptureQueueReads
  refine ⟨?level, ?words, ?empty⟩
  case level =>
    intro s g hg hb hon
    exact exec_registerRead_tsq hb hon hg (k := 0x10) (by decide) (by omega)
  case words =>
    intro s g e rest hg hb hon hq
    have hw0 : tsqReg s.start g 0x0 = 2 ^ 31 + 2 ^ 16 * e.port + e.tag := by simp only [tsqReg, hq, fieldAt]; ring
    have hw1 : tsqReg s.start g 0x4 = e.sec.toNat % 2 ^ 32 := by simp only [tsqReg, hq]
    have hw2 : tsqReg s.start g 0x8 = e.ns := by simp only [tsqReg, hq]
    rw [← hw0, ← hw1, ← hw2]
    refine ⟨exec_registerRead_tsq hb hon hg (by decide) (by omega), exec_registerRead_tsq hb hon hg (by decide) (by omega),
      exec_registerRead_tsq hb hon hg (by decide) (by omega), fun i hi => ?_⟩
    rw [exec_tsqW3 hb hon hg hi, ends_become]
    refine ⟨?_, fun k hk => ?_, ?_⟩
    · rw [tsqW3Read_tsq, if_pos rfl, hq, List.drop_one, List.tail_cons]
    · rw [tsqW3Read_tsq, if_neg hk]
    · exact (tsqW3Read_out s.start g).trans (by rw [hq]; rfl)
  case empty =>
    intro s g a hg hb hon hq ha
    by_cases hw3 : a = 0xC
    · subst hw3
      rw [show 0x100100 + 0x20 * g + 0xC = 0x10010C + 0x20 * g by omega, exec_tsqW3 hb hon hg (.inr rfl), ends_become]
      refine ⟨fun k => ?_, ?_⟩
      · rw [tsqW3Read_tsq]
        split
        · next hk => rw [hk, hq, List.drop_nil]
        · rfl
      · exact (tsqW3Read_out s.start g).trans (by rw [hq]; rfl)
    · have hk : a ∈ [0x0, 0x4, 0x8, 0x10] := by
        simp only [List.mem_cons, List.not_mem_nil, or_false] at ha ⊢; omega
      obtain ⟨t, ht, hbell, hout⟩ := exec_registerRead_tsq (addr := 0x100100 + 0x20 * g + a) hb hon hg hk (by omega)
      rw [tsqReg_empty hq a hk] at hout
      exact ⟨t, ht, fun k => by rw [hbell], hout⟩

/-! ### The tick number (R74) -/

/-- Both rows of the table that read TICK_LO come to the same. -/
theorem exec_tickLo {s : State} (hb : bar0Answers s.start = true) (hon : domOn s.start 3 = true) {i : Instr}
    (hi : i = .tickLoRead ∨ i = .registerRead 0x100008) : exec i s = s.become (tickLoRead s.start) := by
  rcases hi with rfl | rfl
  · rw [b_tickLoRead, hostReads_served hb hon]
  · rw [exec_registerRead, bar0Read_tickLo hb hon]

/-- TICK_HI reads what the last read of TICK_LO latched: the high word of the tick number. -/
theorem regValue_tickHi_tickLoRead (d : Dev) : regValue (tickLoRead d) 1 0xC = d.bell.tick.toNat / 2 ^ 32 := by
  have hlt : d.bell.tick.toNat / 2 ^ 32 < 2 ^ 32 := by have := d.bell.tick.isLt; omega
  exact (BitVec.toNat_ofNat _ _).trans (Nat.mod_eq_of_lt hlt)

/-- Settles O14: a read of TICK_LO latches the high word, and TICK_HI is read plainly; both are the control cores' to manage. -/
theorem tickReads : Obligations.TickReads := by
  unfold Obligations.TickReads
  refine ⟨fun s hb hon i hi => ?reads, fun s v => ⟨?writeLo, ?writeHi⟩, rfl, rfl⟩
  case reads =>
    rw [exec_tickLo hb hon hi, ends_become]
    refine ⟨rfl, rfl, ?_⟩
    rw [← regValue_tickHi_tickLoRead]
    exact exec_registerRead_bellPlain (s := { s with dev := tickLoRead s.start }) hb hon rfl rfl
  case writeLo =>
    rw [exec_registerWrite, ends_become]
    exact bar0Write_managed_bell rfl v
  case writeHi =>
    rw [exec_registerWrite, ends_become]
    exact bar0Write_managed_bell rfl v

/-! ### Snapshots (R48, R50, R52) -/

/-- The three words of a 96-bit number. -/
theorem wordAt_join3 (v : BitVec 96) : wordAt v.toNat 0 + 2 ^ 32 * wordAt v.toNat 1 + 2 ^ 64 * wordAt v.toNat 2 = v.toNat := by
  have hlt := v.isLt
  simp only [wordAt]
  omega

/-- A snapshot latches the counter and the parts of its corrected time, and changes neither. -/
theorem bellSnap_time (d : Dev) :
    (bellSnap d).bell.time = { d.bell.time with
      rawSnap := d.bell.time.c, secSnap := BitVec.ofNat 64 (timeParts (timeT d.bell.time).toNat).1,
      nsSnap := (timeParts (timeT d.bell.time).toNat).2.1, fracSnap := (timeParts (timeT d.bell.time).toNat).2.2 } := rfl

theorem timeT_bellSnap (d : Dev) : timeT (bellSnap d).bell.time = timeT d.bell.time := rfl

theorem exec_bellSnap_served {s : State} (hb : bar0Answers s.start = true) (hon : domOn s.start 3 = true) (cycles : Nat) :
    exec (.bellSnap cycles) s = s.become (bellSnap (advanceC s.start cycles)) := by
  rw [b_bellSnap]
  simp only [hostWrites_served ((bar0Answers_advanceC _ _).trans hb) ((domOn_advanceC _ _ _).trans hon)]

/-- RAW_0 to RAW_2 together. -/
theorem regValue_raw (d : Dev) :
    regValue d 1 0x14 + 2 ^ 32 * regValue d 1 0x18 + 2 ^ 64 * regValue d 1 0x1C = d.bell.time.rawSnap.toNat := wordAt_join3 _

/-- TIME_SEC_LO and TIME_SEC_HI together. -/
theorem regValue_sec (d : Dev) : regValue d 1 0x20 + 2 ^ 32 * regValue d 1 0x24 = d.bell.time.secSnap.toNat := Nat.mod_add_div _ _

theorem regValue_ns (d : Dev) : regValue d 1 0x28 = d.bell.time.nsSnap := rfl

theorem regValue_frac (d : Dev) : regValue d 1 0x2C = d.bell.time.fracSnap := rfl

/-- The registers that a snapshot latches are read plainly. -/
theorem bellReadsPlain_snap : ∀ off ∈ [0x14, 0x18, 0x1C, 0x20, 0x24, 0x28, 0x2C], bellReadsPlain off = true := by decide

/-- Settles O16: the registers read the parts that the snapshot took of one counter, and reading them changes nothing. -/
theorem snapshotLatches : Obligations.SnapshotLatches := by
  unfold Obligations.SnapshotLatches
  refine ⟨fun s cycles hb hon => ?latch, fun s off hoff hb hon => exec_registerRead_bellPlain hb hon rfl (bellReadsPlain_snap off hoff)⟩
  rw [exec_bellSnap_served hb hon, ends_become]
  dsimp only
  rw [regValue_raw, regValue_sec, regValue_ns, regValue_frac, timeT_bellSnap, bellSnap_time]
  exact ⟨rfl, rfl, (BitVec.toNat_ofNat _ _).trans (Nat.mod_mod _ _), rfl, rfl⟩

/-! ### Changes of RATE and OFFSET (R48, R49) -/

/-- While the counter stands at its anchor, the rate has no share in T. -/
theorem ratePart_setRate (r : BitVec 32) (t : TimeState) : ratePart (setRate r t) = 0 := by
  simp [ratePart, setRate]

/-- What acc takes over is what the rate's share loses. -/
theorem timeT_setRate (r : BitVec 32) (t : TimeState) : timeT (setRate r t) = timeT t := by
  rw [timeT, ratePart_setRate, timeT, setRate]
  ring

theorem applyOffset_time (v : BitVec 128) (by_ : TimeSrc) (bound : Word) (d : Dev) :
    (applyOffset v by_ bound d).bell.time = { d.bell.time with offset := v, timeValid := true } := rfl

/-- T takes the step of OFFSET, whatever marks the time valid. -/
theorem timeT_offset (t : TimeState) (v : BitVec 128) (valid : Bool) : timeT { t with offset := v, timeValid := valid } = timeT t + (v - t.offset) := by
  simp only [timeT, ratePart]
  ring

/-- Settles O17: what a change of RATE moves into acc is what the rate's share loses, and OFFSET is a term of T. -/
theorem rateKeepsTime : Obligations.RateKeepsTime := by
  unfold Obligations.RateKeepsTime
  refine ⟨fun d z pick rate hz => ?rate, fun d z pick offset bound hz => ?offset⟩
  case rate =>
    rw [applyChange_of_kervon hz]
    exact ⟨rfl, rfl, rfl, rfl, timeT_setRate rate d.bell.time⟩
  case offset =>
    rw [applyChange_of_kervon hz]
    refine ⟨?_, rfl, rfl, rfl, rfl⟩
    exact timeT_offset d.bell.time offset true

/-! ### Reset (R44, R47, R66, R72, R73, R75, R519, R524, R535, R560) -/

/-- No leaf is set and every mask is all ones (R535). -/
theorem intMasks_reset (k : Nat) :
    leafWord Dev.reset.sys.int k = 0 ∧ leafMaskWord Dev.reset.sys.int k = 0xFFFFFFFF ∧ groupMaskOf Dev.reset.sys.int k = 0xFF := ⟨rfl, rfl, rfl⟩

/-- Every power domain is on (R560). -/
theorem domState_reset (k : Nat) : domState Dev.reset k = .on := rfl

/-- No session is open (R527). -/
theorem sessOf_reset_st (k : Nat) : (sessOf Dev.reset k).st = .free := rfl

/-- No ring is enabled (R524). -/
theorem ringOf_reset_en (r : Nat) : (ringOf Dev.reset r).en = false := rfl

/-- The registers of BELL that the host reads (R65, R66, R72, R73, R75). -/
theorem regValue_bell_reset :
    regValue Dev.reset 1 0x44 = 0xFFFFFFFF ∧ regValue Dev.reset 1 0x48 = 1000 ∧ regValue Dev.reset 1 0x80 = 1000 ∧ regValue Dev.reset 1 0x88 = 100
      ∧ regValue Dev.reset 1 0x90 = 100 * 2 ^ 7 ∧ regValue Dev.reset 1 0x308 = 2000000000 ∧ regValue Dev.reset 1 0x00 = 0x10
      ∧ regValue Dev.reset 1 0x04 = 0 := ⟨rfl, rfl, rfl, rfl, rfl, rfl, rfl, rfl⟩

/-- Settles O9: a file of like registers lists no entry at reset, so that each reads the file's own reset value. -/
theorem resetValues : Obligations.ResetValues := by
  unfold Obligations.ResetValues
  obtain ⟨herr, hdrift, hstep, htod, hpps, hcal, hctrl, hstatus⟩ := regValue_bell_reset
  exact ⟨rfl, rfl, rfl, rfl, rfl, herr, hdrift, hstep, htod, hpps, hcal, rfl, rfl, hctrl, hstatus, intMasks_reset, rfl, domState_reset, rfl, rfl, rfl,
    sessOf_reset_st, ringOf_reset_en⟩

end Sys2Proof.Machine
end

section
/-! PROOFS. What each Kervon command of conferences and the Flock comes to where its conditions hold (O22). -/

namespace Sys2Proof.Machine

/-- A device in which a group that a command needs was switched on is one that the command may be accepted with. -/
theorem plain_wakeOpt {s : State} {h : CmdHdr} {c : KCmd} (t : Taken s h c) (w : Option Nat) : Plain s (wakeOpt s.start w) := (wakeOpt_touch ..).plain t

/-- No engine of a list lies beyond the last one. -/
theorem any_ge_256 {engines : List Nat} (h : ∀ e ∈ engines, e < 256) : engines.any (fun e => decide (e ≥ 256)) = false := by
  simpa using h

/-! ### Conferences (R76, R80 to R82, R96) -/

section
variable {rcd : ConfRec} {mask : Nat} {v d : Dev} {x : Conf}

/-- The charge of a conference as CONF_MODIFY leaves it. -/
def chargeAfter (x : Conf) (rcd : ConfRec) (mask : Nat) : Nat × Nat := confCharge (confMerge x.rcd rcd mask) (reserveAfter x (confMerge x.rcd rcd mask) mask)

/-- Whether the engines of a mix may carry the growth of its charge. -/
def mixGrows (v : Dev) (x : Conf) (rcd : ConfRec) (mask m : Nat) : Bool :=
  (enginesOf m x.move).all (fun k => mayGrow v k (chargeGrowth (confCharge x.rcd x.reserve) (chargeAfter x rcd mask)))

/-- What CONF_MODIFY comes to once its record stands and its charge fits an engine: by whether the conference has a mix (R81, R96, R604). -/
theorem actConfModify_fits (hx : confOf v rcd.id = some x) (hmask : maskOk mask [2, 4, 5, 6, 7, 8, 12] = true)
    (hrec : confRecOk (confMerge x.rcd rcd mask) = true) (huse : inputsInUse v rcd.id ≤ reserveAfter x (confMerge x.rcd rcd mask) mask)
    (hfull : (chargeAfter x rcd mask).1 ≤ 180000) :
    actConfModify rcd mask v d =
      match x.mix with
      | none =>
        if ¬ mask.testBit 2 then .stage false 0x10000 [] none d
        else match placeMix v (confMerge x.rcd rcd mask) (chargeAfter x rcd mask).1 (chargeAfter x rcd mask).2 with
          | .error st => .refuse st 0 (faultOf st 2)
          | .ok (e, w) => .stage false e [] (waitOf w) (wakeOpt d w)
      | some m =>
        if mask.testBit 2 ∧ (confMerge x.rcd rcd mask).mixEngine ≠ 0xFFFF ∧ (confMerge x.rcd rcd mask).mixEngine ≠ m then
          match admitNamed v (confMerge x.rcd rcd mask).mixEngine (chargeAfter x rcd mask).1 (chargeAfter x rcd mask).2 with
          | .error st => .refuse st 0 (faultOf st 2)
          | .ok w => if mixGrows v x rcd mask m then .stage false (confMerge x.rcd rcd mask).mixEngine [] (waitOf w) (wakeOpt d w)
              else .refuse .noResource 0 noField
        else if mixGrows v x rcd mask m then .stage false m [] none d
        else .refuse .noResource 0 noField := by
  have hgood : ¬ (¬ maskOk mask [2, 4, 5, 6, 7, 8, 12] = true ∨ ¬ confRecOk (confMerge x.rcd rcd mask) = true
      ∨ reserveAfter x (confMerge x.rcd rcd mask) mask < inputsInUse v rcd.id) := by simp [hmask, hrec, Nat.not_lt.mpr huse, -not_lt]
  have hfits : ¬ (confCharge (confMerge x.rcd rcd mask) (reserveAfter x (confMerge x.rcd rcd mask) mask)).1 > 180000 := Nat.not_lt.mpr hfull
  simp only [actConfModify, hx]
  rw [if_neg hgood, if_neg hfits]
  rfl

theorem mixGrows_of_all {m : Nat} (h : ∀ k ∈ enginesOf m x.move, mayGrow v k (chargeGrowth (confCharge x.rcd x.reserve) (chargeAfter x rcd mask)) = true) :
    mixGrows v x rcd mask m = true := List.all_eq_true.mpr h

end

/-! ### Engines and groups (R223 to R227) -/

/-- What ENGINE_LOAD comes to where every condition of R224 and R226 holds. -/
theorem actEngineLoad_good {offset : Nat} {engines : List Nat} {img : ImageDesc} {v d : Dev} (hsome : engines ≠ []) (hlt : ∀ e ∈ engines, e < 256)
    (hnodup : engines.Nodup) (himg : verifyImage v img true = none) (hkind : img.kind = 1) (hon : ∀ e ∈ engines, domOn v (17 + e / 16) = true)
    (hfree : ∀ e ∈ engines, engHolds v e = false) (hplaced : ∀ e ∈ engines, engPlaced v e = true) (hmedia : mediaFits v engines = true)
    (hcred : ∀ e ∈ engines, img.credits * (engines.filter (fun x => x / 16 == e / 16)).length + groupCredits v (e / 16) ≤ allotOf v (e / 16)) :
    actEngineLoad offset engines img v d = .stage false 0 [] none d := by
  have hdark : engines.any (fun e => !domOn v (17 + e / 16)) = false := by simpa using hon
  have hheld : engines.any (engHolds v) = false := by simpa using hfree
  have haway : engines.any (fun e => !engPlaced v e) = false := by simpa using hplaced
  have hover : engines.any (fun e =>
      decide (img.credits * (engines.filter (fun x => x / 16 == e / 16)).length + groupCredits v (e / 16) > allotOf v (e / 16))) = false := by
    simpa using hcred
  simp [actEngineLoad, hsome, any_ge_256 hlt, hnodup, himg, hkind, hdark, hheld, haway, hmedia, hover]

/-- What GROUP_UPDATE comes to where every condition of R224 and R227 holds: the image waits for the group to be empty. -/
theorem actGroupUpdate_good {group offset : Nat} {img : ImageDesc} {v d : Dev} (hgroup : group ≤ 15) (himg : verifyImage v img true = none)
    (hkind : img.kind = 0) (hon : domOn v (17 + group) = true) (hready : (groupOf v group).st = .ready) (hnone : (groupOf v group).update = none)
    (hprog : ∀ k ∈ List.range 16, (engOf v (16 * group + k)).prog = none) (hfit : fitAll v group [] (drainCharges v group) = true) :
    actGroupUpdate group offset img v d = .accepted true (fun x => onFGroup d group (fun f => { f with update := some (img, x) })) := by
  have hfree : (List.range 16).any (fun k => (engOf v (16 * group + k)).prog.isSome) = false :=
    List.any_eq_false.mpr (fun k hk => by simp [hprog k hk])
  simp only [actGroupUpdate, if_neg (Nat.not_lt.mpr hgroup), himg, hkind, hon, hready, hnone, hfree, hfit, ne_eq, not_true_eq_false, if_false,
    Option.isSome_none, Bool.false_eq_true, or_self]

/-- Settles O22: each command's own conditions give one result, and a packet that passes the checks comes to what that result says. -/
theorem conferenceAndFlockCommandsComplete : Obligations.ConferenceAndFlockCommandsComplete := by
  unfold Obligations.ConferenceAndFlockCommandsComplete
  refine ⟨?confCreate, ?noMixStays, ?mixGiven, ?mixStays, ?mixMoves, ?confDestroy, ?confQuery, ?placeSet, ?placeQuery, ?statusTable, ?engineLoad,
    ?engineUnload, ?groupUpdate, ?flockQuery⟩
  case confCreate =>
    rintro s h rcd e w t ⟨hrec, hnone, hplace⟩
    refine kervon_stage t rfl ?_ (plain_wakeOpt t w)
    simp [actConfCreate, hrec, hnone, hplace]
  case noMixStays =>
    rintro s h rcd mask x t ⟨hx, hmask, hrec, huse, hfull, hmix, hbit⟩
    refine kervon_stage t rfl ((actConfModify_fits hx hmask hrec huse hfull).trans ?_) (plain_start t)
    simp [hmix, hbit]
  case mixGiven =>
    rintro s h rcd mask x e w t ⟨hx, hmask, hrec, huse, hfull, hmix, hbit, hplace⟩
    refine kervon_stage t rfl ((actConfModify_fits hx hmask hrec huse hfull).trans ?_) (plain_wakeOpt t w)
    simp [hmix, hbit, chargeAfter, hplace]
  case mixStays =>
    rintro s h rcd mask x m t ⟨hx, hmask, hrec, huse, hfull, hmix, hstay, hgrow⟩
    refine kervon_stage t rfl ((actConfModify_fits hx hmask hrec huse hfull).trans ?_) (plain_start t)
    have hsame : ¬ (mask.testBit 2 ∧ (confMerge x.rcd rcd mask).mixEngine ≠ 0xFFFF ∧ (confMerge x.rcd rcd mask).mixEngine ≠ m) :=
      fun ⟨hbit, hauto, hother⟩ => (hstay hbit).elim hauto hother
    simp only [hmix, if_neg hsame, mixGrows_of_all hgrow, if_true]
  case mixMoves =>
    rintro s h rcd mask x m w t ⟨hx, hmask, hrec, huse, hfull, hmix, hbit, hauto, hother, hgrow, hadmit⟩
    refine kervon_stage t rfl ((actConfModify_fits hx hmask hrec huse hfull).trans ?_) (plain_wakeOpt t w)
    have hadmit' : admitNamed s.view (confMerge x.rcd rcd mask).mixEngine (chargeAfter x rcd mask).1 (chargeAfter x rcd mask).2 = .ok w := hadmit
    simp only [hmix, if_pos (And.intro hbit (And.intro hauto hother)), hadmit', mixGrows_of_all hgrow, if_true]
  case confDestroy =>
    rintro s h conf withLegs t ⟨hconf, hlegs⟩
    refine kervon_stage t rfl ?_ (plain_start t)
    have hthere : ¬ (confOf s.view conf).isNone := by simp [Option.isSome_iff_ne_none.mp hconf]
    have hempty : ¬ (¬ withLegs ∧ confLegs s.view conf ≠ []) := fun ⟨hnot, hsome⟩ => hlegs.elim hnot hsome
    exact (if_neg hthere).trans (if_neg hempty)
  case confQuery =>
    intro s h conf x t hx
    refine kervon_read t rfl ?_ (plain_start t)
    simp only [actConfQuery, hx]
  case placeSet =>
    rintro s h profile first engines t ⟨hrange, heng⟩
    have hall : engines.all (· < 256) = true := by simpa using heng
    exact kervon_stage t rfl (if_pos ⟨hrange, hall⟩) (plain_start t)
  case placeQuery => exact fun s h profile first count t hrange => kervon_read t rfl (if_pos hrange) (plain_start t)
  case statusTable => exact fun s h offset enable t hok => kervon_stage t rfl (if_pos hok) (plain_start t)
  case engineLoad =>
    rintro s h offset engines sigOk t ⟨hsome, hlt, hnodup, himg, hkind, hon, hfree, hplaced, hmedia, hcred⟩
    exact kervon_stage t rfl (actEngineLoad_good hsome hlt hnodup himg hkind hon hfree hplaced hmedia hcred) (plain_start t)
  case engineUnload =>
    intro s h engines t hlt
    refine kervon_stage t rfl ?_ (plain_start t)
    simp [actEngineUnload, any_ge_256 hlt]
  case groupUpdate =>
    rintro s h group offset sigOk t ⟨hgroup, himg, hkind, hon, hready, hnone, hprog, hfit⟩
    exact kervon_accepted t rfl (actGroupUpdate_good hgroup himg hkind hon hready hnone hprog hfit) ⟨(plain_start t).1, rfl, rfl⟩
  case flockQuery => exact fun s h engine t hengine => kervon_read t rfl (if_neg (Nat.not_lt.mpr hengine)) (plain_start t)

end Sys2Proof.Machine
end

section
/-! PROOFS. What each Kervon command of legs comes to where its conditions hold (O23). -/

namespace Sys2Proof.Machine

section
variable {s : State} {h : CmdHdr} {rcd : LegRec} {mask : Nat} {v d : Dev} {x : Conf} {l : Leg}

/-- A leg's acceptance writes its record of the state STAGED, and leaves the epoch and the reset request alone (R83, R113). -/
theorem stagedLeg_wakeOpt_keeps {c : KCmd} (t : Taken s h c) (e : Nat) (w : Option Nat) :
    (stagedLeg rcd e (wakeOpt s.start w)).fold.resetReq = false ∧ (stagedLeg rcd e (wakeOpt s.start w)).sys.epochStaged = s.dev.sys.epochStaged := by
  obtain ⟨hreset, -, hepoch⟩ := plain_wakeOpt t w
  have k := stagedLeg_touch rcd e (wakeOpt s.start w)
  exact ⟨(k.same .resetReq rfl).trans hreset, (k.same .epoch rfl).trans hepoch⟩

/-- What LEG_CREATE comes to where its record stands, a number below every ceiling is left, and an engine, its queues and the mix have room. -/
theorem actLegCreate_good {e : Nat} {w : Option Nat} (hfree : legOf v rcd.id = none) (hrec : legOk v rcd none = true)
    (haudio : audioLegs v + b2n (isAudioLeg rcd) ≤ 8192) (hvideo : videoLegs v + b2n (isVideoLeg rcd) ≤ 4096)
    (hslot : wantsSlot rcd = true → slotsHeld v < 64) (hplace : place v (hashedEngine v rcd) (legCharge rcd).1 (legCharge rcd).2 [] = some (e, w))
    (hconf : confOf v rcd.conf = some x) (hlit : codecsDark v (applyLegCreate rcd e v) = false)
    (hmix : mixTakes v x rcd.conf rcd.audioIn [e] (legCharge rcd) = true) (hqueues : (legQueues v rcd).isSome = true)
    (hadmit : videoAdmits v (applyLegCreate rcd e v) = true) :
    actLegCreate rcd v d = .stage false e [e] (waitOf w) (stagedLeg rcd e (wakeOpt d w)) := by
  have hroom : ¬ (audioLegs v + b2n (isAudioLeg rcd) > 8192 ∨ videoLegs v + b2n (isVideoLeg rcd) > 4096 ∨ (wantsSlot rcd ∧ slotsHeld v ≥ 64)) := by
    rintro (h | h | ⟨h, hheld⟩)
    · exact Nat.not_le.mpr h haudio
    · exact Nat.not_le.mpr h hvideo
    · exact Nat.not_le.mpr (hslot h) hheld
  simp only [actLegCreate, hfree, hrec, if_neg hroom, hplace, hconf, hlit, Option.isSome_none, Bool.false_eq_true, not_true_eq_false, if_false]
  exact if_neg (by simp [hmix, hadmit, Option.isSome_iff_ne_none.mp hqueues])

/-- What LEG_MODIFY comes to where the merged record stands and everything that it makes grow has room. -/
theorem actLegModify_good (hl : legForCommand v rcd.id false = .ok l) (hmask : maskOk mask legMaskBits = true)
    (hip : mask.testBit 4 = true → rcd.ipv6 = l.rcd.ipv6) (hrec : legOk v (legMerge l.rcd rcd mask) (some l) = true)
    (hconf : confOf v (legMerge l.rcd rcd mask).conf = some x) (hlit : codecsDark v (applyLegModify rcd mask v) = false)
    (hgrow : ∀ k ∈ enginesOf l.home l.move, mayGrow v k (chargeGrowth (legCharge l.rcd) (legCharge (legMerge l.rcd rcd mask))) = true)
    (hmix : mixTakes v x (legMerge l.rcd rcd mask).conf
      ((legMerge l.rcd rcd mask).audioIn && (!l.rcd.audioIn || (legMerge l.rcd rcd mask).conf != l.rcd.conf)) (enginesOf l.home l.move)
      (chargeGrowth (legCharge l.rcd) (legCharge (legMerge l.rcd rcd mask))) = true)
    (hslot : ¬ (wantsSlot (legMerge l.rcd rcd mask) = true ∧ l.slot = false ∧ 64 ≤ slotsHeld v))
    (haudio : audioLegs (applyLegModify rcd mask v) ≤ 8192) (hvideo : videoLegs (applyLegModify rcd mask v) ≤ 4096)
    (hqueues : (legQueues v (legMerge l.rcd rcd mask)).isSome = true) (hadmit : videoAdmits v (applyLegModify rcd mask v) = true) :
    actLegModify rcd mask v d = .stage false 0 [] none d := by
  have hgood : ¬ (¬ maskOk mask legMaskBits = true ∨ (mask.testBit 4 = true ∧ rcd.ipv6 ≠ l.rcd.ipv6) ∨ ¬ legOk v (legMerge l.rcd rcd mask) (some l) = true) := by
    rintro (h | ⟨hbit, h⟩ | h)
    · exact h hmask
    · exact h (hip hbit)
    · exact h hrec
  have hall : (enginesOf l.home l.move).all (fun k => mayGrow v k (chargeGrowth (legCharge l.rcd) (legCharge (legMerge l.rcd rcd mask)))) = true :=
    List.all_eq_true.mpr hgrow
  have hheld : ¬ (wantsSlot (legMerge l.rcd rcd mask) = true ∧ ¬ l.slot = true ∧ slotsHeld v ≥ 64) := by simpa using hslot
  simp only [actLegModify, hl, if_neg hgood, hconf, hlit, Bool.false_eq_true, if_false]
  refine if_neg ?_
  rintro (h | h | h | h | h | h | h)
  · exact h hall
  · exact h hmix
  · exact hheld h
  · exact Nat.not_le.mpr h haudio
  · exact Nat.not_le.mpr h hvideo
  · simp [Option.isSome_iff_ne_none.mp hqueues] at h
  · exact h hadmit

end

/-- Settles O23: each command's own conditions give one result, and a packet that passes the checks comes to what that result says. -/
theorem legCommandsComplete : Obligations.LegCommandsComplete := by
  unfold Obligations.LegCommandsComplete
  refine ⟨?create, ?modify, ?destroy, ?rekey, ?migrate, ?migrateHome, ?migrateNamed, ?queryNever, ?query, ?queryUnwritten⟩
  case create =>
    rintro s h rcd x e w t ⟨hfree, hrec, haudio, hvideo, hslot, hplace, hconf, hlit, hmix, hqueues, hadmit⟩
    exact kervon_stage_writing t rfl (actLegCreate_good hfree hrec haudio hvideo hslot hplace hconf hlit hmix hqueues hadmit) (stagedLeg_wakeOpt_keeps t e w)
  case modify =>
    rintro s h rcd mask x l t ⟨hl, hmask, hip, hrec, hconf, hlit, hgrow, hmix, hslot, haudio, hvideo, hqueues, hadmit⟩
    exact kervon_stage t rfl (actLegModify_good hl hmask hip hrec hconf hlit hgrow hmix hslot haudio hvideo hqueues hadmit) (plain_start t)
  case destroy =>
    intro s h leg l t hl
    refine kervon_stage t rfl ?_ (plain_start t)
    simp only [actLegDestroy, hl]
  case rekey =>
    rintro s h leg saIn saOut l t ⟨hl, hin, hout⟩
    refine kervon_stage t rfl ?_ (plain_start t)
    simp only [actLegRekey, hl, hin, hout, and_self, if_true]
  case migrate =>
    rintro s h leg target e w l t ⟨hl, rfl, hplace⟩
    refine kervon_stage t rfl ?_ (plain_wakeOpt t w)
    simp only [actLegMigrate, hl, hplace, if_true]
  case migrateHome =>
    rintro s h leg target l t ⟨hl, rfl, hlt⟩
    refine kervon_stage t rfl ?_ (plain_start t)
    have hnamed : l.home ≠ 0xFFFF := by omega
    simp only [actLegMigrate, hl, if_neg hnamed, if_neg (Nat.not_lt.mpr hlt), if_true]
  case migrateNamed =>
    rintro s h leg target l w t ⟨hl, hlt, haway, hadmit⟩
    refine kervon_stage t rfl ?_ (plain_wakeOpt t w)
    have hnamed : target ≠ 0xFFFF := by omega
    simp only [actLegMigrate, hl, if_neg hnamed, if_neg (Nat.not_lt.mpr hlt), if_neg haway, hadmit]
  case queryNever =>
    rintro s h leg t ⟨hleg, hnone⟩
    refine kervon_read t rfl ?_ (plain_start t)
    simp only [actLegQuery, if_neg (Nat.not_lt.mpr hleg), hnone]
  case query =>
    rintro s h leg l t ⟨hleg, hl, hsnap⟩
    refine kervon_read t rfl ?_ (plain_start t)
    simp only [actLegQuery, if_neg (Nat.not_lt.mpr hleg), hl, if_neg hsnap]
  case queryUnwritten =>
    rintro s h leg l t ⟨hleg, hl, hsnap⟩
    refine kervon_read t rfl ?_ (plain_start t)
    simp only [actLegQuery, if_neg (Nat.not_lt.mpr hleg), hl, if_pos hsnap]

end Sys2Proof.Machine
end

section
/-! PROOFS. What requests for intra points, streams, steering and status records leave of a leg. -/

namespace Sys2Proof.Machine

/-- What the leg commands are about in a leg: neither its steering, its settings, its counters, its warnings nor its status record changes these. -/
structure LegCore where
  st : LegSt
  rcd : LegRec
  home : Nat
  prevSa : Option (Nat × BitVec 64)
  fbAt : BitVec 64

def Leg.core (l : Leg) : LegCore :=
  { st := l.st, rcd := l.rcd, home := l.home, prevSa := l.prevSa, fbAt := l.fbAt }

/-- Those fields of the leg of a LEG_ID. -/
def legCore (d : Dev) (k : Nat) : Option LegCore := (tget d.media.legs k).map Leg.core

theorem legCore_some {d : Dev} {k : Nat} {l : Leg} (hl : tget d.media.legs k = some l) : legCore d k = some l.core := by rw [legCore, hl]; rfl

/-- A field is read in the core where it is one of the core's. -/
theorem legField_of_core {α : Type} {d : Dev} {k : Nat} {x : LegCore} (h : legCore d k = some x) (f : LegCore → α) :
    (tget d.media.legs k).map (fun l => f l.core) = some (f x) := by
  have hmap := congrArg (Option.map f) h
  rwa [legCore, Option.map_map] at hmap

theorem tget_of_legOf {d : Dev} {n : Nat} {l : Leg} (h : legOf d n = some l) : tget d.media.legs n = some l := (Option.filter_eq_some_iff.mp h).1

/-- An entry is changed by a change of its own number alone. -/
theorem tget_tmod {α : Type} (t : Tbl α) (k j : Nat) (f : α → α) : tget (tmod t k f) j = if j = k then (tget t j).map f else tget t j := by
  by_cases hj : j = k
  · rw [if_pos hj, hj, tget_tmod_same]
  · rw [if_neg hj]
    induction t with
    | nil => rfl
    | cons x xs ih =>
      obtain ⟨i, a⟩ := x
      by_cases hi : i = j
      · have hik : i ≠ k := hi ▸ hj
        simp [tmod, tget, hi, hj]
      · by_cases hik : i = k <;> simpa [tmod, tget, hi, hik, Ne.symm hj] using ih

theorem Touches.bell_eq {ps : List Part} {d e : Dev} (t : Touches ps d e) (h : ps.contains .bell = false := by rfl) : e.bell = d.bell := t.same .bell h

theorem legCore_of_media {d e : Dev} (h : e.media = d.media) (k : Nat) : legCore e k = legCore d k := by rw [legCore, h]; rfl

theorem Touches.legCore {ps : List Part} {d e : Dev} (t : Touches ps d e) (k : Nat) (h : ps.contains .media = false := by rfl) :
    legCore e k = legCore d k := legCore_of_media (t.same .media h) k

/-- Of two devices that keep the cores, either does. -/
theorem legCore_ite {p : Prop} [Decidable p] {a b d : Dev} {k : Nat} (ha : legCore a k = legCore d k) (hb : legCore b k = legCore d k) :
    legCore (if p then a else b) k = legCore d k := by
  split
  · exact ha
  · exact hb

/-- A change of a leg that keeps its core keeps every core. -/
theorem legCore_onLeg (d : Dev) (n k : Nat) {f : Leg → Leg} (hf : ∀ l, (f l).core = l.core) : legCore (onLeg d n f) k = legCore d k := by
  simp only [legCore, onLeg, onMedia, tget_tmod]
  split
  · rw [Option.map_map]
    exact congrArg (Option.map · _) (funext hf)
  · rfl

theorem legCore_adapt (d : Dev) (n : Nat) (f : Leg → Adapt) (k : Nat) : legCore (onLeg d n (fun l => { l with adapt := f l })) k = legCore d k :=
  legCore_onLeg _ _ _ fun _ => rfl

/-- A change of a leg changes its core as it does whatever the rest of the leg is. -/
theorem legCore_onLeg_same (d : Dev) (n : Nat) {f : Leg → Leg} {g : LegCore → LegCore} (hf : ∀ l, (f l).core = g l.core) :
    legCore (onLeg d n f) n = (legCore d n).map g := by
  simp only [legCore, onLeg, onMedia, tget_tmod_same, Option.map_map]
  exact congrArg (Option.map · _) (funext hf)

theorem legCore_set (d : Dev) (n : Nat) (l : Leg) : legCore (onMedia d (fun m => { m with legs := tset m.legs n l })) n = some l.core :=
  legCore_some (tget_tset_same ..)

@[simp] theorem legCore_onConf (d : Dev) (n : Nat) (f : Conf → Conf) (k : Nat) : legCore (onConf d n f) k = legCore d k := rfl

@[simp] theorem legCore_onVid (d : Dev) (f : VidState → VidState) (k : Nat) : legCore (onVid d f) k = legCore d k := rfl

@[simp] theorem legCore_onStream (d : Dev) (n : Nat) (f : Stream → Stream) (k : Nat) : legCore (onStream d n f) k = legCore d k := rfl

@[simp] theorem legCore_growReserve (d : Dev) (c k : Nat) : legCore (growReserve d c) k = legCore d k := rfl

@[simp] theorem legCore_streamsSweep (d : Dev) (k : Nat) : legCore (streamsSweep d) k = legCore d k := rfl

@[simp] theorem legCore_leaveStreams (d : Dev) (n k : Nat) : legCore (leaveStreams d n) k = legCore d k := rfl

@[simp] theorem legCore_dropSource (d : Dev) (n k : Nat) : legCore (dropSource d n) k = legCore d k := rfl

@[simp] theorem legCore_freeLegQueues (d : Dev) (k : Nat) : legCore (freeLegQueues d) k = legCore d k := rfl

@[simp] theorem legCore_saBind (d : Dev) (h k : Nat) : legCore (saBind d h) k = legCore d k := rfl

@[simp] theorem legCore_bindIf (d : Dev) (h k : Nat) : legCore (bindIf d h) k = legCore d k := (bindIf_touch ..).legCore k

@[simp] theorem legCore_unbindIf (d : Dev) (h k : Nat) : legCore (unbindIf d h) k = legCore d k := (unbindIf_touch ..).legCore k

@[simp] theorem legCore_legQueues (d : Dev) (r : LegRec) (k : Nat) : legCore ((legQueues d r).getD d) k = legCore d k := (legQueues_getD ..).legCore k

/-! ### Counters, warnings and status records (R88, R112, R113) -/

@[simp] theorem legCore_legCount (d : Dev) (n i c k : Nat) : legCore (legCount d n i c) k = legCore d k := legCore_onLeg _ _ _ fun _ => rfl

@[simp] theorem legCore_legEvent (d : Dev) (kind n k : Nat) : legCore (legEvent d kind n) k = legCore d k :=
  (raiseLeaf_touch _ 16 (kind - 1)).legCore k

@[simp] theorem legCore_legUse (d : Dev) (n h : Nat) (inbound ctrl : Bool) (bytes k : Nat) : legCore (legUse d n h inbound ctrl bytes).2 k = legCore d k := by
  have hsa : legCore (saUse d h ctrl bytes).2.2.2 k = legCore d k := (saUse_touch ..).legCore k
  have hwarn : ∀ e, legCore (onLeg e n (fun l =>
      { l with flags := if inbound then { l.flags with keyWarnIn := true } else { l.flags with keyWarnOut := true } })) k = legCore e k :=
    fun e => legCore_onLeg e n k fun _ => rfl
  have hdead : ∀ e, legCore (onLeg e n (fun l => { l with flags := { l.flags with keyRetired := true } })) k = legCore e k :=
    fun e => legCore_onLeg e n k fun _ => rfl
  simp only [legUse]
  split <;> split <;> simp only [legCore_legEvent, hwarn, hdead, hsa]

@[simp] theorem legCore_statusStore (d : Dev) (home a : Nat) (bs : List Byte) (k : Nat) : legCore (statusStore d home a bs) k = legCore d k :=
  (statusStore_touch ..).legCore k

@[simp] theorem legCore_writeStatus (d : Dev) (n k : Nat) : legCore (writeStatus d n) k = legCore d k := by
  unfold writeStatus
  split
  · rfl
  · next l _ =>
    have hrec : ∀ v : List (Nat × Nat), legCore (onLeg d n (fun l =>
        { l with statusSeq := (l.statusSeq + 2) % 2 ^ 32, snap := v.map (·.1), flags := { l.flags with concealed := false } })) k = legCore d k :=
      fun v => legCore_onLeg d n k fun _ => rfl
    dsimp only
    split
    · rw [legCore_statusStore, legCore_statusStore, hrec]
    · rw [hrec]

@[simp] theorem legCore_steerLeg (d : Dev) (n k : Nat) : legCore (steerLeg d n) k = legCore d k := by
  unfold steerLeg
  split
  · rfl
  · exact legCore_onLeg _ _ _ fun _ => rfl

@[simp] theorem legCore_legKeySweep (d : Dev) (n k : Nat) : legCore (legKeySweep d n) k = legCore d k :=
  legCore_onLeg _ _ _ fun l => by dsimp only; split <;> (split <;> rfl)

/-! ### Requests for intra points, and streams (R106, R170, R183, R184) -/

@[simp] theorem legCore_legSend (d : Dev) (kind : OutKind) (vals : List Int) (n : Nat) (l : Leg) (video : Bool) (len k : Nat) :
    legCore (legSend d kind vals n l video len) k = legCore d k := (legSend_touch ..).legCore k

@[simp] theorem legCore_sendRtcp (d : Dev) (n : Nat) (vals : List Int) (size k : Nat) : legCore (sendRtcp d n vals size) k = legCore d k := by
  unfold sendRtcp
  split
  · rfl
  · next l _ =>
    have huse : legCore (if l.rcd.srtp then legUse d n l.rcd.saOut false true size else (true, d)).2 k = legCore d k := by
      split
      · exact legCore_legUse ..
      · rfl
    dsimp only
    refine legCore_ite rfl (legCore_ite huse ?_)
    rw [legCore_legSend, huse]

@[simp] theorem legCore_requestPli (d : Dev) (n k : Nat) : legCore (requestPli d n) k = legCore d k := by
  unfold requestPli
  split
  · rfl
  · dsimp only
    refine legCore_ite rfl ?_
    rw [legCore_legCount, legCore_sendRtcp]
    exact legCore_onLeg _ _ _ fun _ => rfl

@[simp] theorem legCore_requestIntra (d : Dev) (n t k : Nat) : legCore (requestIntra d n t) k = legCore d k := by
  unfold requestIntra
  split
  · exact legCore_requestPli ..
  · dsimp only
    refine legCore_ite rfl ?_
    split
    · rfl
    · exact legCore_ite rfl rfl

@[simp] theorem legCore_askCells (d : Dev) (cells : List (CellSt × CellRec)) (k : Nat) : legCore (askCells d cells) k = legCore d k :=
  foldl_keeps (fun d => legCore d k) _ cells d fun d p => by
    split
    · rfl
    · exact legCore_requestIntra ..

@[simp] theorem legCore_requestPoint (d : Dev) (n : Nat) (coalesce : Bool) (k : Nat) : legCore (requestPoint d n coalesce) k = legCore d k := by
  unfold requestPoint
  split
  · rfl
  · dsimp only
    refine legCore_ite rfl ?_
    split <;> simp only [legCore_onStream, legCore_askCells]

@[simp] theorem legCore_joinStream (d : Dev) (n layout variant k : Nat) : legCore (joinStream d n layout variant) k = legCore d k := by
  unfold joinStream
  split
  · rfl
  · split
    · rfl
    · dsimp only
      refine legCore_ite rfl ?_
      rw [legCore_streamsSweep]
      refine (legCore_ite rfl (legCore_requestPoint ..)).trans ?_
      rw [legCore_onVid]
      exact legCore_ite rfl rfl

@[simp] theorem legCore_followVariant (d : Dev) (n : Nat) (l : Leg) (k : Nat) : legCore (followVariant d n l) k = legCore d k := by
  unfold followVariant
  refine legCore_ite rfl ?_
  dsimp only
  split
  · exact legCore_ite rfl (legCore_joinStream ..)
  · exact legCore_joinStream ..

end Sys2Proof.Machine
end

section
/-! PROOFS. What the staged changes of conference, leg, audio, video, engine and trunk commands do at their bell (O36). -/

namespace Sys2Proof.Machine

/-- Entries written one after the other are read back each at its own number. -/
theorem tget_foldl_tset_zipIdx {α β : Type} (f : α → β) (base : Nat) (xs : List α) (k : Nat) (t : Tbl β) (i : Nat) :
    tget ((xs.zipIdx k).foldl (fun t e => tset t (base + e.2) (f e.1)) t) (base + i) =
      if k ≤ i ∧ i < k + xs.length then (xs[i - k]?).map f else tget t (base + i) := by
  induction xs generalizing k t with
  | nil => exact (if_neg fun ⟨hle, hlt⟩ => absurd hlt (Nat.not_lt.mpr hle)).symm
  | cons x xs ih =>
    rw [List.zipIdx_cons, List.foldl_cons, ih, tget_tset]
    by_cases hik : i = k
    · subst hik
      simp
    · have hne : base + i ≠ base + k := by omega
      by_cases hle : k ≤ i
      · obtain ⟨j, rfl⟩ : ∃ j, i = k + 1 + j := ⟨i - k - 1, by omega⟩
        have hj : k + 1 + j - k = j + 1 := by omega
        simp only [if_neg hne, hj, List.getElem?_cons_succ, List.length_cons, Nat.add_sub_cancel_left]
        congr 1
        simp only [eq_iff_iff]
        omega
      · rw [if_neg (by omega), if_neg hne, if_neg (by simp only [List.length_cons]; omega)]

/-! ### The leg commands (R79, R81, R88) -/

section
variable {d : Dev} {rcd : LegRec} {l : Leg}

/-- A leg made stands under its number as its record says, its feedback counted from this bell (R79, R98). -/
theorem legCore_applyLegCreate (rcd : LegRec) (pick : Nat) (d : Dev) :
    legCore (applyLegCreate rcd pick d) rcd.id = some { (newLeg rcd pick).core with st := .active, fbAt := d.bell.tick } := by
  have hbell : ∀ e : Dev, (steerLeg ((legQueues (bindIf (bindIf e rcd.saIn) rcd.saOut) rcd).getD (bindIf (bindIf e rcd.saIn) rcd.saOut)) rcd.id).bell = e.bell :=
    fun e => (steerLeg_touch ..).bell_eq.trans <| (legQueues_getD ..).bell_eq.trans <| (bindIf_touch ..).bell_eq.trans (bindIf_touch ..).bell_eq
  unfold applyLegCreate
  dsimp only
  rw [legCore_writeStatus, legCore_followVariant, legCore_onLeg_same (g := fun x => { x with fbAt := _ }) _ _ (fun l => rfl),
    legCore_onConf, legCore_growReserve, legCore_steerLeg, legCore_legQueues, legCore_bindIf, legCore_bindIf, legCore_set]
  exact congrArg (fun b => some { (newLeg rcd pick).core with st := .active, fbAt := b.tick }) (hbell _)

/-- A changed leg has the record changed as the mask says (R81). -/
theorem legCore_applyLegModify {mask : Nat} (hl : legOf d rcd.id = some l) :
    (legCore (applyLegModify rcd mask d) rcd.id).map (·.rcd) = some (legMerge l.rcd rcd mask) := by
  have hkeep : ∀ (p : Prop) [Decidable p] (a b : Dev), legCore a rcd.id = legCore b rcd.id → legCore (if p then b else a) rcd.id = legCore b rcd.id :=
    fun p _ a b h => legCore_ite rfl h
  simp only [applyLegModify, hl]
  rw [legCore_followVariant, legCore_adapt, legCore_legKeySweep, legCore_growReserve, legCore_steerLeg,
    hkeep _ _ _ (legCore_leaveStreams ..), hkeep _ _ _ (legCore_onVid ..), hkeep _ _ _ (legCore_dropSource ..), legCore_freeLegQueues, legCore_legQueues,
    legCore_set]
  rfl

/-- A leg that takes new security associations keeps the inbound one before for 800 bells more (R88). -/
theorem legCore_applyLegRekey {leg saIn saOut : Nat} (hl : legOf d leg = some l) (hin : saIn ≠ noSa) (hnew : saIn ≠ l.rcd.saIn) (hout : saOut ≠ noSa)
    (hold : l.rcd.saIn ≠ noSa) : legCore (applyLegRekey leg saIn saOut d) leg =
      some { l.core with rcd := { l.rcd with saIn := saIn, saOut := saOut }, prevSa := some (l.rcd.saIn, d.bell.tick + 800) } := by
  have hcore : ∀ e : Dev, legCore e leg = legCore d leg → e.bell = d.bell → legCore (onLeg (saBind e saIn) leg (fun x => { x with
      rcd := { x.rcd with saIn := saIn }, prevSa := if l.rcd.saIn = noSa then none else some (l.rcd.saIn, e.bell.tick + 800),
      flags := { x.flags with keyWarnIn := false } })) leg =
      some { l.core with rcd := { l.rcd with saIn := saIn }, prevSa := some (l.rcd.saIn, d.bell.tick + 800) } := by
    intro e he hbell
    simp only [if_neg hold, hbell]
    rw [legCore_onLeg_same (g := fun x => { x with rcd := { x.rcd with saIn := saIn }, prevSa := _ }) _ _ (fun _ => rfl), legCore_saBind, he,
      legCore_some (tget_of_legOf hl)]
    rfl
  simp only [applyLegRekey, hl]
  rw [legCore_legKeySweep, if_neg (not_or.mpr ⟨hin, hnew⟩)]
  have hbound := hcore (match l.prevSa with | none => d | some p => saUnbind d p.1) (by split <;> rfl) (by split <;> rfl)
  by_cases hsame : saOut = l.rcd.saOut
  · rw [if_pos (.inr hsame), hsame]
    exact hbound
  · rw [if_neg (not_or.mpr ⟨hout, hsame⟩),
      legCore_onLeg_same (g := fun x => { x with rcd := { x.rcd with saOut := saOut } }) _ _ (fun _ => rfl), legCore_saBind, legCore_unbindIf]
    exact congrArg _ hbound

end

/-! ### Conferences and routes (R81, R138) -/

theorem routeOf_set (d : Dev) (n : Nat) (r : Route) : routeOf (onAud d (fun a => { a with routes := tset a.routes n r })) n = some r := tget_tset_same ..

theorem routeOf_growReserve (d : Dev) (c n : Nat) : routeOf (growReserve d c) n = routeOf d n := rfl

theorem routeOf_onRoute (d : Dev) (n : Nat) (f : Route → Route) : routeOf (onRoute d n f) n = (routeOf d n).map f := tget_tmod_same ..

theorem confOf_onConf (d : Dev) (n : Nat) (f : Conf → Conf) : confOf (onConf d n f) n = (confOf d n).map f := tget_tmod_same ..

/-- A route set while none stands is new (R138). -/
theorem routeOf_applyRouteSet_new {rcd : RouteRec} {pick : Nat} {ctx : ReplyCtx × List Nat} {d : Dev} (h : routeOf d rcd.id = none) :
    routeOf (applyRouteSet rcd pick ctx d).1 rcd.id = some (newRoute rcd pick) := by
  simp only [applyRouteSet, h]
  rw [routeOf_growReserve, routeOf_set]

/-- A standing route set again on its engine has the new record and clears no more (R138). -/
theorem routeOf_applyRouteSet_same {rcd : RouteRec} {pick : Nat} {ctx : ReplyCtx × List Nat} {d : Dev} {x : Route} (h : routeOf d rcd.id = some x)
    (hpick : x.engine = pick) : (routeOf (applyRouteSet rcd pick ctx d).1 rcd.id).map (fun y => (y.rcd, y.engine, y.clearing)) = some (rcd, pick, none) := by
  simp only [applyRouteSet, h]
  rw [routeOf_growReserve, routeOf_set]
  simp [hpick]

/-- Settles O36: each clause is the command's effect at its bell, read on the state that the clause names. -/
theorem bellEffectsOfMedia : Obligations.BellEffectsOfMedia := by
  unfold Obligations.BellEffectsOfMedia
  refine ⟨?confCreate, ?confModify, ?confDestroy, ?legCreate, ?legModify, ?legRekey, ?legMigrateMoves, ?legMigrateStays, ?legDestroy, ?placeSet,
    ?statusOff, ?statusOn, ?consoleSame, ?consoleOther, ?routeNew, ?routeSame, ?routeGone, ?routeFades, ?audParamWrite, ?audCommit, ?portTdm, ?vidConfig,
    ?subscribeSet, ?layoutClear, ?layoutSet, ?contribSet, ?intraRequest, ?engineLoad, ?engineUnload, ?trunkSet, ?trunkClear⟩
  case confCreate => exact fun d z pick rcd hz => applyChange_of_kervon hz d
  case confModify =>
    rintro d z pick rcd mask c m hz ⟨hc, hmix, rfl⟩
    have hstays : confMoves c rcd mask pick = false := by simp [confMoves, hmix]
    rw [applyChange_of_kervon hz]
    simp [applyOf, applyConfModify, hc, confOf_onConf, hmix, hstays]
  case confDestroy =>
    intro d z pick conf mode hz
    rw [applyChange_of_kervon hz]
    refine ⟨(tget_tdel ..).trans (if_pos rfl), fun r hr => ?_⟩
    simpa using (List.mem_filter.mp hr).2
  case legCreate =>
    intro d z pick rcd hz
    rw [applyChange_of_kervon hz]
    have hcore := legCore_applyLegCreate rcd pick d
    exact ⟨legField_of_core hcore (·.st), legField_of_core hcore (·.home), legField_of_core hcore (·.rcd), legField_of_core hcore (·.fbAt)⟩
  case legModify =>
    rintro d z pick rcd mask l hz ⟨hl, _⟩
    rw [applyChange_of_kervon hz, ← legCore_applyLegModify (mask := mask) hl, legCore, Option.map_map]
    rfl
  case legRekey =>
    rintro d z pick leg saIn saOut l hz ⟨hl, hin, hnew, hout, hold⟩
    rw [applyChange_of_kervon hz]
    exact legField_of_core (legCore_applyLegRekey hl hin hnew hout hold) (fun x => (x.rcd.saIn, x.rcd.saOut, x.prevSa))
  case legMigrateMoves =>
    rintro d z pick leg target l hz ⟨hl, hpick⟩
    simp only [applyChange_of_kervon hz, applyOf, applyLegMigrate, hl, if_neg hpick]
  case legMigrateStays =>
    rintro d z pick leg target l hz ⟨hl, hpick⟩
    simp only [applyChange_of_kervon hz, applyOf, applyLegMigrate, hl, if_pos hpick]
  case legDestroy => exact fun d z pick leg hz => applyChange_of_kervon hz d
  case placeSet =>
    rintro d z pick profile first engines hz ⟨_, _, hlegs⟩ i hi
    simp only [applyChange_of_kervon hz, applyOf, applyPlaceSet, onParse, hlegs, List.filter_nil, List.map_nil, List.foldl_nil]
    rw [tget_foldl_tset_zipIdx (· + 2 ^ 15), if_pos ⟨Nat.zero_le i, (Nat.zero_add engines.length).symm ▸ hi⟩]
    rfl
  case statusOff =>
    rintro d z pick offset enable hz rfl
    exact applyChange_of_kervon hz d
  case statusOn =>
    rintro d z pick offset enable n l hz ⟨rfl, hlegs, hsnap⟩
    simp only [applyChange_of_kervon hz, applyOf, applyStatusTableSet, onMedia, hlegs, List.foldl_cons, List.foldl_nil, if_neg hsnap]
    rfl
  case consoleSame =>
    rintro d z pick route live listen hz hsame
    rw [applyChange_of_kervon hz]
    exact congrArg (fun e => (onRoute e route (fun x => { x with consoleLive := live == 1, listen := listen }), true)) (if_pos hsame.symm)
  case consoleOther =>
    rintro d z pick route live listen hz hother
    rw [applyChange_of_kervon hz]
    exact congrArg (fun e => (onRoute e route (fun x => { x with consoleLive := live == 1, listen := listen }), true)) (if_neg (Ne.symm hother))
  case routeNew =>
    intro d z pick rcd hz hnone
    rw [applyChange_of_kervon hz]
    exact routeOf_applyRouteSet_new hnone
  case routeSame =>
    rintro d z pick rcd x hz ⟨hx, hpick⟩
    rw [applyChange_of_kervon hz]
    exact routeOf_applyRouteSet_same hx hpick
  case routeGone =>
    rintro d z pick route x hz ⟨hx, hout, hfade⟩
    simp only [applyChange_of_kervon hz, applyOf, applyRouteClear, hx, hout, hfade, if_true]
    exact (tget_tdel ..).trans (if_pos rfl)
  case routeFades =>
    rintro d z pick route x hz ⟨hx, hout, hfade⟩
    simp only [applyChange_of_kervon hz, applyOf, applyRouteClear, hx, hout, hfade, if_true, routeOf_onRoute, Option.map_some]
  case audParamWrite => exact fun d z pick unit block data hz => applyChange_of_kervon hz d
  case audCommit => exact fun d z pick sets hz => applyChange_of_kervon hz d
  case portTdm => exact fun d z pick rcd hz => applyChange_of_kervon hz d
  case vidConfig => exact fun d z pick small mid large hz => applyChange_of_kervon hz d
  case subscribeSet => exact fun d z pick leg entries hz => applyChange_of_kervon hz d
  case layoutClear => exact fun d z pick layout hz => applyChange_of_kervon hz d
  case layoutSet =>
    intro d z pick rcd hz hnone
    simp only [applyChange_of_kervon hz, applyOf, applyLayoutSet, withLayout, onVid, hnone, List.filter_nil, List.map_nil, List.foldl_nil, tget_tset_same]
  case contribSet => exact fun d z pick rcd hz => applyChange_of_kervon hz d
  case intraRequest =>
    rintro d z pick kind a b hz ⟨rfl, hmode⟩
    simp only [applyChange_of_kervon hz, applyOf, applyIntraRequest, if_pos hmode, Nat.one_ne_zero, if_false]
  case engineLoad =>
    rintro d z pick offset engines img e hz rfl
    have hbell : (imageStored img (chargeClass d (e / 16) (lineCount offset img.size)) e).bell = d.bell :=
      (imageStored_touch ..).bell_eq.trans (chargeClass_touch ..).bell_eq
    rw [applyChange_of_kervon hz, ← hbell]
    rfl
  case engineUnload =>
    rintro d z pick engines e hz ⟨rfl, hprog⟩
    rw [applyChange_of_kervon hz]
    refine (engOf_onEng ..).trans ?_
    exact if_neg (show ¬ (engOf d e).prog.isNone from by simpa using hprog)
  case trunkSet =>
    intro d z pick rcd hz hnone
    rw [applyChange_of_kervon hz, ← hnone]
    exact tget_tset_same ..
  case trunkClear =>
    rintro d z pick trunk hz ⟨_, _⟩
    exact applyChange_of_kervon hz d

end Sys2Proof.Machine
end

section
/-! PROOFS. Where the events of the Flock and of trunks complete, and what they do (O52). -/

namespace Sys2Proof.Machine

/-- An engine's failure comes to what is done for the engine, with the writes to Pasture made. -/
theorem exec_engineFailed (s : State) (engine : Nat) : exec (.engineFailed engine) s = s.commit (engineFailed engine s.start) := rfl

/-- A failure of an engine that works and waits for none is counted, and acted on at once or held while the firmware is exchanged (R109). -/
theorem engineFailed_works {engine : Nat} {d : Dev} (hlt : engine < 256) (hout : (engOf d engine).st ≠ .out) (hgated : (engOf d engine).st ≠ .gated)
    (hheld : d.flock.failHeld.contains engine = false) :
    engineFailed engine d =
      if d.aux.swapState = 1 then onFlock (noteOverrun d engine (homedLegs d engine)) (fun f => { f with failHeld := f.failHeld ++ [engine] })
      else engineFail engine (noteOverrun d engine (homedLegs d engine)) := by
  have hworks : ¬ (engine ≥ 256 ∨ (engOf d engine).st = .out ∨ (engOf d engine).st = .gated) := by simp [Nat.not_le.mpr hlt, hout, hgated]
  have hkept : (noteOverrun d engine (homedLegs d engine)).aux = d.aux := (noteOverrun_touch ..).same .aux rfl
  simp only [engineFailed, if_neg hworks, hheld, Bool.false_eq_true, if_false, hkept]

/-- One change made of several engines of a group, each under its own number, is made once of each. -/
theorem engOf_foldl_onEng (f : Eng → Eng) (base : Nat) (ks : List Nat) (d : Dev) (k : Nat) (hks : ks.Nodup) :
    engOf (ks.foldl (fun d k => onEng d (base + k) f) d) (base + k) = if k ∈ ks then f (engOf d (base + k)) else engOf d (base + k) := by
  induction ks generalizing d with
  | nil => rfl
  | cons j js ih =>
    obtain ⟨hj, hjs⟩ := List.nodup_cons.mp hks
    rw [List.foldl_cons, ih _ hjs]
    by_cases hk : k = j
    · subst hk
      simp [hj]
    · simp [hk, engOf_onEng_other d (base + j) (base + k) f (by omega)]

/-- Changes of engines leave the groups. -/
theorem groupOf_foldl_onEng (f : Eng → Eng) (base : Nat) (ks : List Nat) (d : Dev) (g : Nat) :
    groupOf (ks.foldl (fun d k => onEng d (base + k) f) d) g = groupOf d g := foldl_keeps (fun d => groupOf d g) _ ks d fun _ _ => rfl

/-- Settles O52: each event's branch that the clause's conditions name gives the next state. -/
theorem flockAndTrunkEventsComplete : Obligations.FlockAndTrunkEventsComplete := by
  unfold Obligations.FlockAndTrunkEventsComplete
  refine ⟨?failedDead, ?failedActs, ?failedWaits, ?failedHeld, ?loads, ?notEmpty, ?loaded, ?streamIn, ?streamOut, ?degraded, ?clean, ?broken⟩
  case failedDead => exact fun s engine ⟨_, hst⟩ => congrArg s.commit (if_pos (.inr hst))
  case failedActs =>
    rintro s engine ⟨hlt, hout, hgated, hheld, hswap⟩
    rw [exec_engineFailed, engineFailed_works hlt hout hgated hheld, if_neg hswap]
  case failedWaits =>
    rintro s engine ⟨hlt, hout, hgated, hheld, hswap⟩
    rw [exec_engineFailed, engineFailed_works hlt hout hgated hheld, if_pos hswap]
  case failedHeld =>
    rintro s engine ⟨_, _, _, hheld⟩
    rw [exec_engineFailed, engineFailed]
    simp only [hheld, if_true, ite_self]
  case loads =>
    rintro s group img u ⟨_, hup, hst, hempty⟩
    rw [b_groupUpdateLoad, ends_become]
    simp only [hup, hst, hempty, ne_eq, not_true_eq_false, or_self, if_false]
    refine ⟨?_, fun k hk => ?_⟩
    · rw [groupOf_foldl_onEng, groupOf_onFGroup]
    · rw [engOf_foldl_onEng _ _ _ _ _ List.nodup_range, if_pos (List.mem_range.mpr hk)]
      rfl
  case notEmpty =>
    intro s group hempty
    rw [b_groupUpdateLoad]
    dsimp only
    split
    · rfl
    · simp only [hempty, Bool.false_eq_true, not_false_eq_true, or_true, if_true]
  case loaded =>
    rintro s group img x ⟨hup, hst⟩
    rw [b_groupUpdateDone]
    simp only [hup, hst, ne_eq, not_true_eq_false, if_false]
  case streamIn =>
    rintro s trunk bytes k ⟨hk, hin⟩
    rw [b_imcStreamRx]
    simp only [imcStream, hk, hin, not_true_eq_false, if_false, List.length_append]
  case streamOut =>
    rintro s trunk bytes k ⟨hk, hin⟩
    rw [b_imcStreamRx]
    simp only [imcStream, hk, hin, Bool.false_eq_true, not_false_eq_true, if_true]
  case degraded =>
    rintro s trunk k ⟨hk, hwhole, hsync, hbips, hdeg, hrun⟩
    rw [b_imcDegInterval]
    simp [hk, degInterval, hwhole, hsync, hbips, hdeg, hrun]
  case clean =>
    rintro s trunk k ⟨hk, hwhole, hsync, hbips⟩
    rw [b_imcDegInterval]
    simp [hk, degInterval, hwhole, hsync, Nat.not_lt.mpr hbips]
  case broken =>
    rintro s trunk k ⟨hk, hbroken⟩
    rw [b_imcDegInterval]
    simp [hk, degInterval, hbroken]

end Sys2Proof.Machine
end

section
/-! PROOFS. Where the events of legs complete, and what they do (O53). -/

namespace Sys2Proof.Machine

/-- The record of a leg that takes and sends audio alone, not encrypted. -/
def plainLegRec : LegRec :=
  { id := 0, conf := 0, audioIn := true, audioOut := true, ipv6 := false, srtp := false, nackReq := true, ecn := false, fixed := true, audioFec := false,
    videoOut := 0, contrib := false, hashProfile := 0, ctrlDest := 0, localAddr := 0, remoteAddr := 0, localPort := 0, remotePort := 0, egress := 0,
    dscp := 0, tci := 0, aSsrcIn := 1, aSsrcOut := 2, vSsrcIn := 0, vSsrcOut := 0, aCodec := 0, aPt := 96, vCodecIn := 0, vPtIn := 0, vCodecOut := 0,
    vPtOut := 0, extDd := 0, lang := 0, saIn := noSa, saOut := noSa, jbMin := 24, jbMax := 48, bwMin := 64, bwMax := 128, bwStart := 96,
    arMin := 16, arMax := 64, maxW := 0, maxH := 0, maxFps := 0, layout := 0, fbInterval := 0, allocId := 0, contribMax := 0, reservedOk := true }

/-- An active leg that misses its packet 4, with a round trip of `rtt`. -/
def missingLeg (rtt : Nat) : Leg :=
  let l := newLeg plainLegRec 0
  { l with st := .active, live := false, missing := [{ seq := 4, due := 0, sent := 0 }], adapt := { l.adapt with m := { l.adapt.m with rtt := rtt } } }

/-- When the missing packets of every leg listed are asked for again. -/
def missingDues (o : Host.Outcome State Fault Refusal) : List (BitVec 64) :=
  match o with
  | .next s => (s.dev.media.legs.map (fun e => e.2.missing.map (·.due))).flatten
  | _ => []

/-- Refutes O53: its clause on a NACK sent again takes the round trip of each entry that the table lists under the leg's number, where the model takes
that of the leg found there for all of them. A table that lists leg 0 twice, with round trips of 0 and 100 ms, tells them apart: in the model both
entries ask again after 160 ticks, in the clause the second one after 800. -/
theorem not_legEventsComplete : ¬ Obligations.LegEventsComplete := by
  unfold Obligations.LegEventsComplete
  rintro ⟨-, -, -, -, -, -, -, -, -, -, -, -, -, -, hnack, -⟩
  have hclause := hnack { State.reset with dev := onMedia Dev.reset (fun m => { m with legs := [(0, missingLeg 0), (0, missingLeg 100)] }) } 0 4 true
    (missingLeg 0) { seq := 4, due := 0, sent := 0 } ⟨rfl, rfl, rfl, by decide, rfl, by decide⟩
  exact absurd (congrArg missingDues hclause) (by decide)

end Sys2Proof.Machine
end

section
/-! PROOFS. What each Kervon command of audio comes to where its conditions hold (O24). -/

namespace Sys2Proof.Machine

section
variable {v d : Dev}

/-- What ROUTE_SET comes to where its record stands, its endpoint is free, its conference takes it and an engine has room for it (R131, R137, R138). -/
theorem actRouteSet_good {rcd : RouteRec} {x : Conf} {e : Nat} {w : Option Nat} (hfields : routeFieldsOk rcd = true)
    (hrate : rcd.output = true ∨ rcd.rateHz = 48000) (hfree : endpointBusy v rcd = false) (hconf : confTakes v rcd.conf = some x)
    (hchan : channelBad v x rcd = false) (hself : relaySelf v rcd = false) (hminus : minusOk v rcd = true)
    (heng : (if rcd.engine = 0xFFFF then x.mix else some rcd.engine) = some e) (hadmit : routeAdmit v x rcd e = .ok w) :
    actRouteSet rcd v d = .stage false e [e] (waitOf w) (wakeOpt d w) := by
  have hrun : ¬ (¬ rcd.output ∧ rcd.rateHz ≠ 48000) := fun ⟨hin, hother⟩ => hrate.elim hin hother
  simp only [actRouteSet, if_neg hrun, hfields, hfree, hconf, hchan, hself, hminus, heng, hadmit, Bool.false_eq_true, not_true_eq_false, if_false]

/-- What CONSOLE_SET comes to where its route is a console's, not being cleared, and asks for a channel that it does not feed (R133). -/
theorem actConsoleSet_good {route live listen : Nat} {x : Route} (hx : routeOf v route = some x) (hin : x.rcd.output = false) (hrole : x.rcd.role = 2)
    (hstay : x.clearing = none) (hlive : live ≤ 1) (hlisten : listen ≤ ((confOf v x.rcd.conf).map (·.rcd.langCount)).getD 0)
    (hother : listen ≠ x.rcd.channel) : actConsoleSet route live listen v d = .stage false 0 [] none d := by
  have hgood : ¬ (x.rcd.output ∨ x.rcd.role ≠ 2 ∨ x.clearing.isSome ∨ live > 1
      ∨ listen > ((confOf v x.rcd.conf).map (·.rcd.langCount)).getD 0) := by
    simp [hin, hrole, hstay, Nat.not_lt.mpr hlive, Nat.not_lt.mpr hlisten, -not_lt]
  simp only [actConsoleSet, hx, if_neg hgood, if_neg hother]

/-! ### Parameter sets (R139 to R141) -/

/-- ON of a block as a write of `data` leaves it. -/
def onAfter (v : Dev) (block : Nat) (data : List (Nat × Int)) : Int := ((data.find? (fun e => e.1 == 0)).map (·.2)).getD (paramIn v block 0 false)

/-- AUD_PARAM_WRITE refuses no write of values in their ranges to a block of its set. -/
theorem paramWrite_stands {set block : Nat} {data : List (Nat × Int)} (hset : setOfBlock block = some set)
    (hdata : ∀ e ∈ data, paramOk block e.1 e.2 (onAfter v block data) = true) :
    ¬ (setOfBlock block ≠ some set ∨ data.any (fun e => !paramOk block e.1 e.2 (onAfter v block data))) := by
  simpa [hset] using hdata

/-- AUD_COMMIT of a headset's set waits for the headset's next sample. -/
theorem actAudCommit_headset {n : Nat} (hlow : 1 ≤ n) (hhigh : n ≤ 2) :
    actAudCommit [n] v d = .later (fun x => onAud d (fun a => { a with hsCommit := a.hsCommit ++ [(n - 1, x, [])] })) := by
  obtain ⟨k, rfl⟩ := Nat.exists_eq_add_of_le' hlow
  exact if_neg (Nat.not_lt.mpr hhigh)

/-- PORT_TDM_CONFIG of a port that no route uses is staged (R116, R149). -/
theorem actPortTdmConfig_unused {rcd : TdmRec} (hrec : tdmRecOk rcd = true)
    (hunused : ∀ e ∈ v.aud.routes, ¬ (e.2.rcd.endType = 1 ∧ e.2.rcd.endUnit = rcd.port)) : actPortTdmConfig rcd v d = .stage false 0 [] none d := by
  have hany : v.aud.routes.any (fun e => e.2.rcd.endType == 1 && e.2.rcd.endUnit == rcd.port) = false :=
    List.any_eq_false.mpr (fun e he => by simpa using hunused e he)
  simp only [actPortTdmConfig, hrec, hany, Bool.false_eq_true, not_true_eq_false, if_false]

end

/-- Settles O24: each command's own conditions give one result, and a packet that passes the checks comes to what that result says. -/
theorem audioCommandsComplete : Obligations.AudioCommandsComplete := by
  unfold Obligations.AudioCommandsComplete
  refine ⟨?routeSet, ?routeClear, ?routeQuery, ?consoleSet, ?write0, ?writeNow, ?writeBehind, ?paramRead, ?commit0, ?commitHeadset, ?tdmConfig,
    ?queryHeadset, ?queryTdm, ?confQuery⟩
  case routeSet =>
    rintro s h rcd x e w t ⟨hfields, hrate, hfree, hconf, hchan, hself, hminus, heng, hadmit⟩
    exact kervon_stage t rfl (actRouteSet_good hfields hrate hfree hconf hchan hself hminus heng hadmit) (plain_wakeOpt t w)
  case routeClear =>
    rintro s h route x t ⟨hx, hstay⟩
    refine kervon_stage t rfl ?_ (plain_start t)
    simp only [actRouteClear, hx, hstay, Option.isSome_none, Bool.false_eq_true, if_false]
  case routeQuery =>
    intro s h route x t hx
    refine kervon_read t rfl ?_ (plain_start t)
    simp only [actRouteQuery, hx]
  case consoleSet =>
    rintro s h route live listen x t ⟨hx, hin, hrole, hstay, hlive, hlisten, hother⟩
    exact kervon_stage t rfl (actConsoleSet_good hx hin hrole hstay hlive hlisten hother) (plain_start t)
  case write0 =>
    rintro s h set block data t ⟨hset, rfl, hdata⟩
    exact kervon_stage t rfl ((if_neg (paramWrite_stands hset hdata)).trans (if_pos rfl)) (plain_start t)
  case writeNow =>
    rintro s h set block data t ⟨hset, hhs, hdata, hnone⟩
    refine kervon_now t rfl ((if_neg (paramWrite_stands hset hdata)).trans ((if_neg hhs).trans ?_)) ((bankWrite_touch ..).plain t)
    simp only [hnone, List.getLast?_nil]
  case writeBehind =>
    rintro s h set block data q t ⟨hset, hhs, hdata, hlast⟩
    refine kervon_now t rfl ((if_neg (paramWrite_stands hset hdata)).trans ((if_neg hhs).trans ?_)) ((onAud_touch ..).plain t)
    simp only [hlast]
  case paramRead =>
    rintro s h set bank block first count t ⟨hset, hbank, hcount⟩
    have hgood : ¬ (setOfBlock block ≠ some set ∨ bank > 1 ∨ first + count > 4096) := by
      simp [hset, Nat.not_lt.mpr hbank, Nat.not_lt.mpr hcount, -not_lt]
    exact kervon_read t rfl (if_neg hgood) (plain_start t)
  case commit0 =>
    rintro s h sets t rfl
    exact kervon_stage t rfl rfl (plain_start t)
  case commitHeadset =>
    rintro s h sets n t ⟨rfl, hlow, hhigh⟩
    exact kervon_later t rfl (actAudCommit_headset hlow hhigh) ((onAud_touch ..).plain t)
  case tdmConfig =>
    rintro s h rcd t ⟨hrec, hunused⟩
    exact kervon_stage t rfl (actPortTdmConfig_unused hrec hunused) (plain_start t)
  case queryHeadset => exact fun s h kind number t hheadset => kervon_read t rfl (if_pos hheadset) (plain_start t)
  case queryTdm =>
    intro s h kind number t hport
    have hother : ¬ (kind = 0 ∧ number < 2) := by omega
    exact kervon_read t rfl ((if_neg hother).trans (if_pos hport)) (plain_start t)
  case confQuery =>
    intro s h conf x t hx
    refine kervon_read t rfl ?_ (plain_start t)
    simp only [actConfAudioQuery, hx]

end Sys2Proof.Machine
end

section
/-! PROOFS. Where the events of headsets and TDM ports complete, and what they do (O54). -/

namespace Sys2Proof.Machine

section
variable {d : Dev}

/-! ### Headsets (R140, R143 to R146) -/

theorem hsOf_raiseLeaf (d : Dev) (w bit n : Nat) : hsOf (raiseLeaf d w bit) n = hsOf d n := by simp [hsOf]

theorem hsInserted_new {n : Nat} (hin : (hsOf d n).plugged = true) (hnew : (hsOf d n).present = false) :
    hsInserted n d = raiseLeaf (onHs d n (fun h => { h with present := true, muted := false })) 17 (4 * n) := by
  simp [hsInserted, hin, hnew]

theorem hsInserted_out {n : Nat} (hout : (hsOf d n).plugged = false) : hsInserted n d = d := by simp [hsInserted, hout]

/-- An accessory that is still in is classified: the microphone flows next where the type has one (R143, R145). -/
theorem hsClassify_in {n ring2 sleeve type : Nat} (hp : (hsOf d n).present = true) (hin : (hsOf d n).plugged = true)
    (htype : accessoryType (hsOf d n) ring2 sleeve = type) :
    hsClassify n ring2 sleeve d
      = raiseLeaf (onHs d n (fun h => { h with accType := type, ring2 := min ring2 65535, sleeve := min sleeve 65535,
                                               micNext := type == 2 || type == 3 })) 17 (4 * n + 2) := by
  simp [hsClassify, hp, hin, htype]

/-- A headset with no button held that is out as the window ends is removed, with no button event (R144). -/
theorem hsRemoved_quiet {n : Nat} (hp : (hsOf d n).present = true) (hout : (hsOf d n).plugged = false) (hbtn : (hsOf d n).buttons = 0) :
    hsRemoved n d = raiseLeaf (onHs d n (fun h =>
      { h with present := false, accType := 0, buttons := 0, armed := false, micNext := false, micFlow := false, muted := false, biasUa := 0 }))
        17 (4 * n + 1) := by
  simp [hsRemoved, hp, hout, hbtn, raiseIf]

theorem hsRemoved_in {n : Nat} (hin : (hsOf d n).plugged = true) : hsRemoved n d = d := by simp [hsRemoved, hin]

theorem hsButton_unarmed {n : Nat} (harm : (hsOf d n).armed = false) (ua : Nat) :
    hsButton n ua d = onHs d n (fun h => { h with biasUa := min ua 2047 }) := by
  simp [hsButton, harm]

/-- A band that stays for the debounce time with no button held is a press: BUTTONS takes it and the button leaf is raised (R146). -/
theorem hsButton_press {n ua : Nat} (harm : (hsOf d n).armed = true) (hmute : (hsOf d n).muted = false) (hp : (hsOf d n).present = true)
    (hbtn : (hsOf d n).buttons = 0) (hband : btnBandOf (hsOf d n) ua ≠ 0) (hsame : btnBandOf (hsOf d n) ua = (hsOf d n).btnBand)
    (hlong : msField (hsOf d n).debounce 16 ≤ (hsOf d n).btnCount + 1) :
    ∃ e, hsButton n ua d = raiseLeaf (onHs e n (fun h => { h with buttons := btnBandOf (hsOf d n) ua })) 17 (4 * n + 3) := by
  have hactive : ¬ (¬ (hsOf d n).armed ∨ (hsOf d n).muted ∨ ¬ (hsOf d n).present) := by simp [harm, hmute, hp]
  have hrelease : ¬ ((hsOf d n).buttons ≠ 0 ∧ btnBandOf (hsOf d n) ua ≠ (hsOf d n).buttons
      ∧ (hsOf d n).btnCount + 1 ≥ msField (hsOf d n).debounce 24) := fun h => h.1 hbtn
  simp only [hsButton, if_neg hactive, if_pos hsame, if_neg hrelease]
  refine ⟨_, if_pos ⟨hband, ?_, hlong⟩⟩
  simp [hbtn]

theorem headsetBankSwap_due {n : Nat} {e : Nat × ReplyCtx × List (Nat × Int)} (h : d.aud.hsCommit.find? (fun e => e.1 == n) = some e) :
    headsetBankSwap n d
      = answer (epochDone (bankWrite (bankSwap (onAud d (fun a => { a with hsCommit := a.hsCommit.erase e })) (n + 1)) (0x800 + n) e.2.2) e.2.1.epoch)
          e.2.1 .done [(hsOf (bankWrite (bankSwap (onAud d (fun a => { a with hsCommit := a.hsCommit.erase e })) (n + 1)) (0x800 + n) e.2.2) n).bank] := by
  simp only [headsetBankSwap, h, hsOf]

/-! ### TDM ports (R150, R151) -/

variable {p : Nat}

/-- A frame that is not well formed loses the lock, and its words are not taken (R151). -/
theorem tdmFrame_bad (hon : (tdmOf d p).cfg.enable = true) (words : List Int) :
    tdmFrame p words false d = onTdm d p (fun x => { x with good := 0, lock := false }) := by
  simp [tdmFrame, hon]

/-- A frame at a port that drives its clock itself goes into the block being formed (R149, R150). -/
theorem tdmFrame_master (hon : (tdmOf d p).cfg.enable = true) (hok : (tdmOf d p).alarm = false) (hmode : (tdmOf d p).cfg.mode % 2 = 1)
    (words : List Int) :
    tdmFrame p words true d = onTdm (onTdm d p (fun x => { x with good := x.good + 1, lock := true && !x.alarm })) p (fun x =>
      { x with inBuf := bufPush x.inBuf x.cfg.slots (fun k => tdmIn x.cfg.width (words.getD k 0)) }) := by
  simp [tdmFrame, hon, hok, hmode]

/-- A slave port that hears no frame sync takes its alarm, and its buffers empty (R151). -/
theorem tdmAlarm_raised (hon : (tdmOf d p).cfg.enable = true) (hmode : (tdmOf d p).cfg.mode % 2 = 0) (hok : (tdmOf d p).alarm = false) :
    tdmAlarm p d = raiseLeaf (onTdm d p (fun x =>
      { x with alarm := true, lock := false, good := 0, alarms := satInc x.alarms, inBuf := [], outBuf := [], phase := 0, fill := 0 })) 17 (8 + p) := by
  simp [tdmAlarm, hon, hmode, hok]

theorem tdmAlarm_again (h : (tdmOf d p).alarm = true) : tdmAlarm p d = d := by simp [tdmAlarm, h]

end

/-- Settles O54, event by event. -/
theorem audioPortEventsComplete : Obligations.AudioPortEventsComplete := by
  unfold Obligations.AudioPortEventsComplete
  refine ⟨?insertEdge, ?inserted, ?insertedOut, ?fourPole, ?threePole, ?arm, ?removeEdge, ?removed, ?removedIn, ?unarmed, ?press, ?frameBad, ?frameMaster,
    ?alarm, ?alarmAgain, ?bankSwap⟩
  case insertEdge => exact exec_hsDetInsertEdge
  case inserted =>
    rintro s n ⟨hin, hnew⟩
    rw [exec_hsInsertDebounced, hsInserted_new hin hnew]
  case insertedOut =>
    intro s n hout
    rw [exec_hsInsertDebounced, hsInserted_out hout]
  case fourPole =>
    rintro s n ring2 sleeve ⟨hp, hin, htype⟩
    rw [exec_hsClassify, hsClassify_in hp hin htype]
    rfl
  case threePole =>
    rintro s n ring2 sleeve ⟨hp, hin, htype⟩
    rw [exec_hsClassify, hsClassify_in hp hin htype]
    rfl
  case arm => exact exec_hsButtonArm
  case removeEdge => exact exec_hsDetRemoveEdge
  case removed =>
    rintro s n ⟨hp, hout, hbtn⟩
    rw [exec_hsRemoveExpiry, hsRemoved_quiet hp hout hbtn]
  case removedIn =>
    intro s n hin
    rw [exec_hsRemoveExpiry, hsRemoved_in hin]
  case unarmed =>
    intro s n ua harm
    rw [exec_hsButtonSample, hsButton_unarmed harm]
  case press =>
    rintro s n ua ⟨harm, hmute, hp, hbtn, hband, hsame, hlong, hn⟩
    obtain ⟨e, he⟩ := hsButton_press harm hmute hp hbtn hband hsame hlong
    rw [exec_hsButtonSample, ends_become, he]
    refine ⟨?_, raiseLeaf_sets _ 17 (by omega)⟩
    rw [hsOf_raiseLeaf, hsOf_onHs]
  case frameBad =>
    rintro s p words wellFormed ⟨hon, rfl⟩
    rw [exec_tdmFrameRx, tdmFrame_bad hon]
  case frameMaster =>
    rintro s p words wellFormed ⟨hon, rfl, hok, hmode⟩
    rw [exec_tdmFrameRx, tdmFrame_master hon hok hmode]
  case alarm =>
    rintro s p ⟨hon, hmode, hok⟩
    rw [exec_tdmAlarmTimeout, tdmAlarm_raised hon hmode hok]
  case alarmAgain =>
    intro s p halarm
    rw [exec_tdmAlarmTimeout, tdmAlarm_again halarm]
  case bankSwap =>
    intro s n x rt hfirst
    rw [b_headsetBankSwap, headsetBankSwap_due hfirst]
    rfl

end Sys2Proof.Machine
end

section
/-! PROOFS. What each Kervon command of video comes to where its conditions hold (O25). -/

namespace Sys2Proof.Machine

section
variable {v d : Dev}

/-! ### Contributions and subscriptions (R161 to R164) -/

/-- The cluster with the lighter load, cluster 0 where they are equal (R160). -/
def lighterCluster (v : Dev) : Nat := if decLoad v 1 < decLoad v 0 then 1 else 0

/-- The cluster that CONTRIB_SET takes: a contribution that is decoded stays on its own (R160). -/
def clusterFor (v : Dev) (old : Option Contrib) : Nat :=
  match old with
  | some c => if c.rcd.mode = 2 then c.cluster else lighterCluster v
  | none => lighterCluster v

/-- What CONTRIB_SET comes to where its leg stays, its record stands, and its cluster is on and has room (R161, R189). -/
theorem actContribSet_good {rcd : ContribRec} {l : Leg} {k : Nat} (hl : legOf v rcd.leg = some l) (hdrain : l.st ≠ .draining) (hlost : l.st ≠ .lost)
    (hrec : contribOk l rcd = true) (hk : clusterFor v (contribOf v rcd.leg) = k) (hlit : codecsDark v (withContrib v rcd k) = false)
    (hadmit : videoAdmits v (withContrib v rcd k) = true) : actContribSet rcd v d = .stage false k [k] none d := by
  subst hk
  have hstays : ¬ (l.st = .draining ∨ l.st = .lost) := not_or.mpr ⟨hdrain, hlost⟩
  simp only [actContribSet, hl, if_neg hstays, hrec, not_true_eq_false, if_false]
  refine (if_neg ?_).trans (if_pos hadmit)
  exact Bool.eq_false_iff.mp hlit

/-- What SUBSCRIBE_SET comes to where its leg forwards video and each of its sources, named once, may stand with its weight (R164). -/
theorem actSubscribeSet_good {leg : Nat} {entries : List (Nat × Nat)} {l : Leg} (hl : legOf v leg = some l) (hout : l.rcd.videoOut = 1)
    (hlen : entries.length ≤ 32) (honce : (dedup (entries.map (·.1))).length = entries.length)
    (hentries : ∀ e ∈ entries, 1 ≤ e.2 ∧ e.2 ≤ 255 ∧ subscribeOk v leg l e.1 = true) : actSubscribeSet leg entries v d = .stage false 0 [] none d := by
  have hbad : entries.any (fun e => e.2 == 0 || decide (e.2 > 255) || !subscribeOk v leg l e.1) = false := by
    refine List.any_eq_false.mpr (fun e he => ?_)
    obtain ⟨hlow, hhigh, hok⟩ := hentries e he
    simp [Nat.one_le_iff_ne_zero.mp hlow, hhigh, hok]
  simp only [actSubscribeSet, hl]
  exact if_neg (by simp [hout, hlen, honce, hbad, -List.any_eq_true])

/-! ### Layouts (R173 to R175, R191) -/

/-- What LAYOUT_SET comes to where its record stands and what it adds is on and has room (R175, R189). -/
theorem actLayoutSet_good {rcd : LayoutRec} (hrec : layoutOk v rcd = true) (hlit : codecsDark v (withLayout v rcd) = false)
    (hadmit : videoAdmits v (withLayout v rcd) = true) : actLayoutSet rcd v d = .stage false 0 (rcd.variants.map (declaredRate v)) none d := by
  simp only [actLayoutSet, hrec, hlit, hadmit, not_true_eq_false, Bool.false_eq_true, if_false]

/-- No leg names a layout for its composed video. -/
theorem noLeg_names_layout {layout : Nat} (hlegs : ∀ l ∈ v.media.legs, ¬ (l.2.st ≠ .free ∧ l.2.rcd.videoOut = 2 ∧ l.2.rcd.layout = layout)) :
    v.media.legs.any (fun l => l.2.st != .free && l.2.rcd.videoOut == 2 && l.2.rcd.layout == layout) = false :=
  List.any_eq_false.mpr (fun l hl => by simpa [and_assoc] using hlegs l hl)

/-- Whether a receiver's stream, where it has one, is of a layout. -/
def receives (v : Dev) (layout : Nat) (key : Option Nat) : Bool := ((key.bind (tget v.vid.streams)).map (fun s => s.layout == layout)).getD false

theorem receives_eq_false {layout : Nat} {slot : Option Nat} (hother : ∀ key, some key = slot → ∀ strm, some strm = tget v.vid.streams key → strm.layout ≠ layout) :
    receives v layout slot = false := by
  cases slot with
  | none => rfl
  | some key =>
    cases hstrm : tget v.vid.streams key with
    | none => simp [receives, hstrm]
    | some strm => simpa [receives, hstrm] using hother key rfl strm hstrm.symm

/-- No receiver has a stream of a layout, as its present one or as the one that it moves to. -/
theorem noReceiver_of_layout {layout : Nat} (hrecv : ∀ r ∈ v.vid.recv, ∀ key, some key = r.2.cur ∨ some key = r.2.next →
      ∀ strm, some strm = tget v.vid.streams key → strm.layout ≠ layout) :
    v.vid.recv.any (fun r => [r.2.cur, r.2.next].any (receives v layout)) = false := by
  refine List.any_eq_false.mpr (fun r hr => ?_)
  have hcur : receives v layout r.2.cur = false := receives_eq_false (fun key hkey => hrecv r hr key (.inl hkey))
  have hnext : receives v layout r.2.next = false := receives_eq_false (fun key hkey => hrecv r hr key (.inr hkey))
  simp [hcur, hnext]

/-- What LAYOUT_CLEAR comes to where its layout is there and no leg names or still receives it (R191). -/
theorem actLayoutClear_unused {layout : Nat} (hthere : thas v.vid.layouts layout = true)
    (hlegs : ∀ l ∈ v.media.legs, ¬ (l.2.st ≠ .free ∧ l.2.rcd.videoOut = 2 ∧ l.2.rcd.layout = layout))
    (hrecv : ∀ r ∈ v.vid.recv, ∀ key, some key = r.2.cur ∨ some key = r.2.next →
      ∀ strm, some strm = tget v.vid.streams key → strm.layout ≠ layout) :
    actLayoutClear layout v d = .stage false 0 [] none d := by
  have hidle := not_or.mpr ⟨Bool.eq_false_iff.mp (noLeg_names_layout hlegs), Bool.eq_false_iff.mp (noReceiver_of_layout hrecv)⟩
  exact (if_neg (not_not.mpr hthere)).trans (if_neg hidle)

/-! ### Rates and intra points (R169, R183) -/

/-- What VID_CONFIG comes to where its rates are in range and have room (R169, R189). -/
theorem actVidConfig_good {small mid large : Nat} (hsmall : 50 ≤ small ∧ small ≤ 20000) (hmid : 50 ≤ mid ∧ mid ≤ 20000)
    (hlarge : 50 ≤ large ∧ large ≤ 20000) (hadmit : videoAdmits v (applyVidConfig small mid large v) = true) :
    actVidConfig small mid large v d = .stage false 0 [] none d := by
  simp only [actVidConfig, hsmall, hmid, hlarge, hadmit, and_self, decide_true, Bool.and_self, not_true_eq_false, if_false]

/-- What INTRA_REQUEST comes to for the streams of a variant that the layout has (R191). -/
theorem actIntraRequest_variant {a b : Nat} {r : LayoutRec} (hr : tget v.vid.layouts a = some r) (hvar : (variantOf r b).isSome = true) :
    actIntraRequest 0 a b v d = .stage false 0 [] none d := by
  simp only [actIntraRequest, hr, Option.bind_some, hvar, if_true]

/-- What INTRA_REQUEST comes to for a source that contributes (R191). -/
theorem actIntraRequest_source {a b : Nat} (hmode : contribMode v a ≠ 0) : actIntraRequest 1 a b v d = .stage false 0 [] none d := by
  simp [actIntraRequest, hmode]

end

/-- Settles O25: each command's own conditions give one result, and a packet that passes the checks comes to what that result says. -/
theorem videoCommandsComplete : Obligations.VideoCommandsComplete := by
  unfold Obligations.VideoCommandsComplete
  refine ⟨?contribNew, ?contribDecoded, ?contribOther, ?subscribe, ?layoutSet, ?layoutClear, ?layoutQuery, ?vidConfig, ?intraVariant, ?intraSource,
    ?queryLoads, ?queryTiers⟩
  case contribNew =>
    rintro s h rcd l t ⟨hl, hdrain, hlost, hrec, hnone, hlit, hadmit⟩
    have hk : clusterFor s.view (contribOf s.view rcd.leg) = lighterCluster s.view := by rw [hnone, clusterFor]
    exact kervon_stage t rfl (actContribSet_good hl hdrain hlost hrec hk hlit hadmit) (plain_start t)
  case contribDecoded =>
    rintro s h rcd l x t ⟨hl, hdrain, hlost, hrec, hx, hmode, hlit, hadmit⟩
    have hk : clusterFor s.view (contribOf s.view rcd.leg) = x.cluster := by simp only [hx, clusterFor, if_pos hmode]
    exact kervon_stage t rfl (actContribSet_good hl hdrain hlost hrec hk hlit hadmit) (plain_start t)
  case contribOther =>
    rintro s h rcd l x t ⟨hl, hdrain, hlost, hrec, hx, hmode, hlit, hadmit⟩
    have hk : clusterFor s.view (contribOf s.view rcd.leg) = lighterCluster s.view := by simp only [hx, clusterFor, if_neg hmode]
    exact kervon_stage t rfl (actContribSet_good hl hdrain hlost hrec hk hlit hadmit) (plain_start t)
  case subscribe =>
    rintro s h leg entries l t ⟨hl, hout, hlen, honce, hentries⟩
    exact kervon_stage t rfl (actSubscribeSet_good hl hout hlen honce hentries) (plain_start t)
  case layoutSet =>
    rintro s h rcd t ⟨hrec, hlit, hadmit⟩
    exact kervon_stage t rfl (actLayoutSet_good hrec hlit hadmit) (plain_start t)
  case layoutClear =>
    rintro s h layout t ⟨hthere, hlegs, hrecv⟩
    exact kervon_stage t rfl (actLayoutClear_unused hthere hlegs hrecv) (plain_start t)
  case layoutQuery =>
    intro s h layout r t hr
    refine kervon_read t rfl ?_ (plain_start t)
    simp only [actLayoutQuery, hr]
  case vidConfig =>
    rintro s h small mid large t ⟨hs0, hs1, hm0, hm1, hl0, hl1, hadmit⟩
    exact kervon_stage t rfl (actVidConfig_good ⟨hs0, hs1⟩ ⟨hm0, hm1⟩ ⟨hl0, hl1⟩ hadmit) (plain_start t)
  case intraVariant =>
    rintro s h kind a b r t ⟨rfl, hr, hvar⟩
    exact kervon_stage t rfl (actIntraRequest_variant hr hvar) (plain_start t)
  case intraSource =>
    rintro s h kind a b t ⟨rfl, hmode⟩
    exact kervon_stage t rfl (actIntraRequest_source hmode) (plain_start t)
  case queryLoads =>
    rintro s h item t rfl
    exact kervon_read t rfl rfl (plain_start t)
  case queryTiers =>
    rintro s h item t rfl
    exact kervon_read t rfl rfl (plain_start t)

end Sys2Proof.Machine
end

section
/-! PROOFS. Where the engines' operations and timers complete, and what they do (O48). -/

namespace Sys2Proof.Machine

/-! ### An operation that issues (R196 to R200) -/

section
variable {d : Dev} {i : Issue} {acc : Nat}

/-- A command that issues an operation comes to what the operation makes of the engine with it in its bundle. -/
theorem nextDev_issueOp {s : State} {named : Option Nat} {slotOk flow : Bool} {f : Dev → Dev} {e : Dev} (H : CanIssue s.start i named slotOk flow)
    (hf : f (issued s.start i named) = e) : nextDev s (fun d => issueOp d i named slotOk flow f) = s.commit e := by
  rw [nextDev_commit, issueOp_of_canIssue H, hf]

/-! ### MAC operations (R203) -/

/-- A MAC operation that issues leaves in its accumulator what the operation makes of the lanes. -/
theorem macOp_of_canIssue (H : CanIssue d i (some (acc % 4)) (macSlot i.slot) false) (op : MacOp) (a : Nat) (b : MacB) (sg : Sign) (wide : Bool) :
    macOp i op acc a b sg wide d =
      macDone d i acc (macLanes op (rdAcc (regsOf d i) acc) (if wide then 8 else 16) (laneProd (regsOf d i) a b sg wide)) := by
  unfold macOp
  rw [issueOp_of_canIssue H]
  simp only [actSet_issued]
  rfl

/-- The sum goes to lane 0, and the other lanes stay (R203). -/
theorem macLanes_sum (old : List (BitVec 80)) (lanes : Nat) (prod : Nat → Int) :
    macLanes .sum old lanes prod =
      (List.range 16).map (fun j => if j = 0 then laneAcc old 0 + BitVec.ofInt 80 ((List.range lanes).map prod).sum else laneAcc old j) := by
  refine List.map_congr_left fun j _ => ?_
  rw [List.sum_eq_foldl, List.foldl_map]
  by_cases hj : j = 0
  · subst hj
    rfl
  · simp only [if_neg hj]

theorem macLanes_clr (old : List (BitVec 80)) (lanes : Nat) (prod : Nat → Int) : macLanes .clr old lanes prod = List.replicate 16 0 :=
  List.map_const' ..

/-! ### Moves from the accumulators (R206) -/

/-- A move whose lanes all fit its width sets no SAT. -/
theorem moveLanes_of_fits {w : Nat} {lanes : List Nat} {r : RegSet} (hr : actSet (engOf d i.eng).core = r)
    (hfits : ∀ j ∈ lanes, clampW w (scaleLane r.mcr (acc % 4) (laneAcc (rdAccMv r acc) j)) = scaleLane r.mcr (acc % 4) (laneAcc (rdAccMv r acc) j))
    (ew : Nat) (dst : EDst) :
    moveLanes d i.eng acc w ew lanes dst = postResult d i.eng 2 dst
      (packLanes ew (lanes.map (fun j => twos ew (clampW w (scaleLane r.mcr (acc % 4) (laneAcc (rdAccMv r acc) j)))))) [] := by
  subst hr
  have hnone : (lanes.map (fun j => scaleLane (actSet (engOf d i.eng).core).mcr (acc % 4) (laneAcc (rdAccMv (actSet (engOf d i.eng).core) acc) j))).any
      (fun t => clampW w t != t) = false := by
    refine List.any_eq_false.mpr fun t ht => ?_
    obtain ⟨j, hj, rfl⟩ := List.mem_map.mp ht
    simpa using hfits j hj
  unfold moveLanes
  simp only [hnone, Bool.false_eq_true, if_false, List.map_map, Function.comp_def]

/-! ### Loads and stores (R201, R202, R208) -/

/-- A load within its bounds whose words are read without error posts the bytes that it finds. -/
theorem loadOp_issued {reg : LsReg} {addr : Addr} {find : EccFind} {e : Dev}
    (hbounds : boundsFault (regsOf d i) addr (elems reg).1 (elems reg).2 (mayLoad (engOf d i.eng).core.shadowOn) = false)
    (hread : localRead i.eng find (issued d i none) (((List.range (elems reg).1).map (fun j => elemAddr (regsOf d i) addr (elems reg).2 j / 8)).eraseDups) =
      (false, e)) :
    loadOp i reg addr find (issued d i none) = postPointer (postResult e i.eng 4 (loadDst reg) (packLanes (8 * (elems reg).2)
      ((List.range (elems reg).1).map (fun j => leNat (memRead (engOf d i.eng).core.mem (elemAddr (regsOf d i) addr (elems reg).2 j) (elems reg).2)))) [])
      i.eng addr := by
  have hmem : (engOf (issued d i none) i.eng).core.mem = (engOf d i.eng).core.mem := by rw [core_issued]
  simp only [loadOp, actSet_issued, shadowOn_issued, hmem, hbounds, hread, Bool.false_eq_true, if_false]

/-- A store comes to MEM_BOUNDS where it leaves its bounds, and otherwise waits its two cycles. -/
theorem storeOp_issued (reg : LsReg) (addr : Addr) :
    storeOp i reg addr (issued d i none) =
      if boundsFault (regsOf d i) addr (elems reg).1 (elems reg).2 (mayStore (engOf d i.eng).core.shadowOn) then programFault (issued d i none) i.eng 3
      else postPointer (onCore (issued d i none) i.eng (fun c => { c with stores := c.stores ++ [{
        due := c.cycle + 2, bytes := (((List.range (elems reg).1).zip (storeLanes (regsOf d i) reg)).map (fun x =>
          ((List.range (elems reg).2).zip (leBytes x.2 (elems reg).2)).map (fun y => (elemAddr (regsOf d i) addr (elems reg).2 x.1 + y.1, y.2)))).flatten }] }))
        i.eng addr := by
  simp only [storeOp, actSet_issued, shadowOn_issued]

end

/-! ### Events and interrupts (R210, R215) -/

/-- A pulse on a line with one listener is seen by that engine. -/
theorem pulseLine_single {line e n : Nat} (hline : line < 4096) (he : e < 256) (hn : n < 32) (d : Dev) :
    pulseLine line [(e, n)] d = emit (onCore d e (pulseCore line n)) .engineEvent line [(e : Int)] := if_pos ⟨he, hn, hline⟩

@[simp] theorem holdInterrupt_shadowOn (kind : EngInt) (c : EngCore) : (holdInterrupt kind c).shadowOn = c.shadowOn := by cases kind <;> rfl

@[simp] theorem holdInterrupt_br (kind : EngInt) (c : EngCore) : (holdInterrupt kind c).br = c.br := by cases kind <;> rfl

/-- An interrupt that asks for an engine that runs is held; where no shadow set, no delay slot and no lack of a cause stops it, a cycle takes it. -/
theorem exec_engineInterrupt_runs {s : State} {eng : Nat} (hrun : engRuns s.start eng = true) (kind : EngInt) :
    exec (.engineInterrupt eng kind) s = s.commit (
      if (engOf s.start eng).core.shadowOn ∨ (engOf s.start eng).core.br.isSome ∨ ¬ wantsInterrupt (holdInterrupt kind (engOf s.start eng).core)
      then onCore s.start eng (holdInterrupt kind) else engCycle (onCore s.start eng (holdInterrupt kind)) eng) := by
  rw [exec, execEngineInterrupt, nextDev_commit, if_neg (not_not.mpr hrun)]
  dsimp only
  rw [engOf_onCore_core, holdInterrupt_shadowOn, holdInterrupt_br]

/-! ### The kernel at a slot boundary (R217) -/

/-- Of a core, what the kernel's schedule leaves: the interrupts held, which set is active, and the delay slots under way. -/
def EngCore.flow (c : EngCore) : List EngInt × Bool × Option PendBr := (c.held, c.shadowOn, c.br)

theorem enterTask_flow (tbl : List TaskRec) (c : EngCore) (t : Nat) (x : Option Ctx) : (enterTask tbl c t x).flow = c.flow := by
  have hgoes (c : EngCore) (a : Word) : (goesTo c a).flow = c.flow := by
    unfold goesTo
    split <;> rfl
  unfold enterTask
  split
  · exact hgoes ..
  · exact hgoes ..
  · rfl

theorem preempt_core (x : Eng) : (preempt x).core = x.core := by
  unfold preempt
  dsimp only
  split <;> rfl

theorem preempt_slot (x : Eng) : (preempt x).kern.slot = x.kern.slot := by
  unfold preempt
  dsimp only
  split <;> rfl

theorem preempt_audioLeft (x : Eng) : (preempt x).kern.audioLeft = x.kern.audioLeft := by
  unfold preempt
  dsimp only
  split <;> rfl

theorem dispatch_flow (tbl : List TaskRec) (x : Eng) : (dispatch tbl x).core.flow = x.core.flow := by
  unfold dispatch
  split
  · exact enterTask_flow ..
  · exact enterTask_flow ..
  · exact enterTask_flow ..
  · rfl

theorem dispatch_slot (tbl : List TaskRec) (x : Eng) : (dispatch tbl x).kern.slot = x.kern.slot := by
  unfold dispatch
  split <;> rfl

theorem dispatch_running_audio {x : Eng} {t : Nat} {rest : List Nat} (hleft : x.kern.audioLeft = t :: rest) (tbl : List TaskRec) :
    (dispatch tbl x).kern.running = .audio t := by
  unfold dispatch
  rw [hleft]

theorem schedule_flow (tbl : List TaskRec) (x : Eng) : (schedule tbl x).core.flow = x.core.flow := by
  unfold schedule
  split
  · rfl
  · rw [dispatch_flow, preempt_core]

theorem schedule_slot (tbl : List TaskRec) (x : Eng) : (schedule tbl x).kern.slot = x.kern.slot := by
  unfold schedule
  split
  · rfl
  · rw [dispatch_slot, preempt_slot]

/-- Nothing but an AUDIO task goes on while an AUDIO task is ready. -/
theorem keepsRunning_of_audioLeft {k : EngKern} {t : Nat} {rest : List Nat} (hleft : k.audioLeft = t :: rest) (hrun : ∀ n, k.running ≠ .audio n) :
    keepsRunning k = false := by
  unfold keepsRunning
  cases h : k.running with
  | audio n => exact absurd h (hrun n)
  | video n => simp only [hleft, List.isEmpty_cons, Bool.false_and]
  | background n => simp only [hleft, List.isEmpty_cons, Bool.false_and]
  | idle => rfl

/-- The first AUDIO task that is ready runs, where none ran. -/
theorem schedule_running_audio {x : Eng} {t : Nat} {rest : List Nat} (hleft : x.kern.audioLeft = t :: rest) (hrun : ∀ n, x.kern.running ≠ .audio n)
    (tbl : List TaskRec) : (schedule tbl x).kern.running = .audio t := by
  unfold schedule
  rw [keepsRunning_of_audioLeft hleft hrun]
  exact dispatch_running_audio ((preempt_audioLeft x).trans hleft) tbl

section
variable (tbl : List TaskRec) (tick : BitVec 64) (finished : List Nat) (ready : List (Nat × Nat × Nat)) (background : Option Nat) (x : Eng)

theorem slotBoundary_flow : (slotBoundary tbl tick finished ready background x).core.flow = x.core.flow := schedule_flow ..

theorem slotBoundary_slot : (slotBoundary tbl tick finished ready background x).kern.slot = (x.kern.slot + 1) % 8 := schedule_slot ..

theorem slotBoundary_running_audio {t : Nat} {rest : List Nat} (hleft : x.kern.audioLeft.filter (fun z => !finished.contains z) = t :: rest)
    (hrun : ∀ n, x.kern.running ≠ .audio n) : (slotBoundary tbl tick finished ready background x).kern.running = .audio t := by
  refine schedule_running_audio (rest := rest) ?_ ?_ tbl
  · exact hleft
  · exact hrun

end

/-- An engine with the slot timer's interrupt held. -/
def holdSlotTimer (x : Eng) : Eng := { x with core := { x.core with held := x.core.held ++ [.slotTimer] } }

/-- The device after the slot timer of an engine, its kernel's schedule made and no cycle begun. -/
def atSlotBoundary (d : Dev) (eng : Nat) (finished : List Nat) (ready : List (Nat × Nat × Nat)) (background : Option Nat) : Dev :=
  onEng d eng (fun x => slotBoundary (tableOf d eng) d.bell.tick finished ready background (holdSlotTimer x))

/-- While the shadow set is active or delay slots run, the slot timer's interrupt stays held (R210). -/
theorem exec_slotTimer_held {s : State} {eng : Nat} (hrun : engRuns s.start eng = true)
    (hheld : (engOf s.start eng).core.shadowOn = true ∨ (engOf s.start eng).core.br ≠ none) (finished : List Nat) (ready : List (Nat × Nat × Nat))
    (background : Option Nat) :
    exec (.slotTimer eng finished ready background) s = s.commit (atSlotBoundary s.start eng finished ready background) := by
  have hflow : (engOf (atSlotBoundary s.start eng finished ready background) eng).core.flow = (holdSlotTimer (engOf s.start eng)).core.flow := by
    rw [atSlotBoundary, engOf_onEng, slotBoundary_flow]
  obtain ⟨-, hshadow, hbr⟩ : _ ∧ _ ∧ _ := by simpa only [EngCore.flow, Prod.mk.injEq] using hflow
  rw [exec, execSlotTimer, nextDev_commit, if_neg (not_not.mpr hrun)]
  refine congrArg s.commit (if_pos ?_)
  refine hheld.imp hshadow.trans fun hne => ?_
  exact Option.isSome_iff_ne_none.mpr (hbr.trans_ne hne)

/-- Settles O48: an operation that issues comes to its own effect on the engine with it in its bundle, and an interrupt to what its engine's set and delay
slots allow. -/
theorem engineOperationsComplete : Obligations.EngineOperationsComplete := by
  unfold Obligations.EngineOperationsComplete
  refine ⟨?mul, ?mac, ?msu, ?macSum, ?clr, ?mvVFits, ?mvV, ?mvW, ?mvS, ?load, ?store, ?storeFault, ?scalar, ?scalarFree, ?writeCb, ?writeCl, ?clearSat,
    ?wmcr, ?branch, ?call, ?reti, ?pulse, ?sig, ?taken, ?held, ?slotTimer, ?slotTimerAudio⟩
  case mul => exact fun s i acc a b sg wide H => congrArg s.commit (macOp_of_canIssue H .mul a b sg wide)
  case mac => exact fun s i acc a b sg wide H => congrArg s.commit (macOp_of_canIssue H .mac a b sg wide)
  case msu => exact fun s i acc a b sg wide H => congrArg s.commit (macOp_of_canIssue H .msu a b sg wide)
  case macSum =>
    intro s i acc a b sg wide H
    rw [← macLanes_sum]
    exact congrArg s.commit (macOp_of_canIssue H .sum a b sg wide)
  case clr =>
    intro s i acc H
    refine congrArg s.commit ((macOp_of_canIssue H .clr 0 (.v 0) .ss false).trans ?_)
    rw [macLanes_clr]
  case mvVFits =>
    rintro s i dst acc ⟨H, hfits⟩
    exact nextDev_issueOp H (moveLanes_of_fits (actSet_issued ..) (fun j hj => hfits j (List.mem_range.mp hj)) 16 (.v dst))
  case mvV => exact fun s i dst acc H => nextDev_issueOp H rfl
  case mvW =>
    intro s i dst acc H
    rw [← actSet_issued]
    exact nextDev_issueOp H rfl
  case mvS =>
    intro s i dst acc lane H
    rw [← actSet_issued]
    exact nextDev_issueOp H rfl
  case load =>
    rintro s i reg addr find e ⟨H, hbounds, hread⟩
    exact nextDev_issueOp H (loadOp_issued hbounds hread)
  case store =>
    rintro s i reg addr ⟨H, hbounds⟩
    exact nextDev_issueOp H ((storeOp_issued reg addr).trans (if_neg (Bool.eq_false_iff.mp hbounds)))
  case storeFault =>
    rintro s i reg addr ⟨H, hbounds⟩
    exact nextDev_issueOp H ((storeOp_issued reg addr).trans (if_pos hbounds))
  case scalar =>
    rintro s i op dst a b v ⟨H, hval⟩
    exact nextDev_issueOp H (by simp only [actSet_issued, hval])
  case scalarFree =>
    rintro s i op dst a b ⟨H, hval⟩
    exact nextDev_issueOp H (by simp only [actSet_issued, hval])
  case writeCb =>
    rintro s i w k src ⟨H, rfl⟩
    rw [← actSet_issued]
    exact nextDev_issueOp H rfl
  case writeCl =>
    rintro s i w k src ⟨H, rfl⟩
    rw [← actSet_issued]
    exact nextDev_issueOp H rfl
  case clearSat =>
    rintro s i w ⟨H, rfl⟩
    exact nextDev_issueOp H rfl
  case wmcr =>
    intro s i src H
    rw [← actSet_issued]
    exact nextDev_issueOp H rfl
  case branch => exact fun s i target H => nextDev_issueOp H rfl
  case call => exact fun s i target H => nextDev_issueOp H rfl
  case reti =>
    intro s i H
    have hira : (engOf (issued s.start i none) i.eng).core.ira = (engOf s.start i.eng).core.ira := by rw [core_issued]
    rw [← hira]
    exact nextDev_issueOp H rfl
  case pulse =>
    rintro s line listeners e n ⟨hline, rfl, he, hn⟩
    exact congrArg s.commit (pulseLine_single hline he hn s.start)
  case sig =>
    rintro s i line listeners e n ⟨H, hline, rfl, he, hn⟩
    exact nextDev_issueOp H (pulseLine_single hline he hn _)
  case taken =>
    rintro s eng kind ⟨hrun, hshadow, hbr, hwants⟩
    rw [exec_engineInterrupt_runs hrun, if_neg (by simp [hshadow, hbr, hwants])]
  case held =>
    rintro s eng kind ⟨hrun, hheld⟩
    rw [exec_engineInterrupt_runs hrun, if_pos (by simpa [Option.isSome_iff_ne_none] using hheld)]
  case slotTimer =>
    rintro s eng finished ready background ⟨hrun, hheld⟩
    refine ⟨_, exec_slotTimer_held hrun hheld finished ready background, ?_⟩
    have heng : engOf (atSlotBoundary s.start eng finished ready background) eng = _ := engOf_onEng ..
    refine ⟨(congrArg (·.kern.slot) heng).trans (slotBoundary_slot ..), ?_⟩
    exact (congrArg (·.core.held) heng).trans (congrArg Prod.fst (slotBoundary_flow ..))
  case slotTimerAudio =>
    rintro s eng finished ready background x l ⟨hrun, hleft, hnone, hheld⟩
    refine ⟨_, exec_slotTimer_held hrun hheld finished ready background, ?_⟩
    have heng : engOf (atSlotBoundary s.start eng finished ready background) eng = _ := engOf_onEng ..
    exact (congrArg (·.kern.running) heng).trans (slotBoundary_running_audio _ _ _ _ _ (holdSlotTimer (engOf s.start eng)) hleft hnone)

end Sys2Proof.Machine
end

section
/-! PROOFS. What each Kervon command of access comes to where its conditions hold (O26). -/

namespace Sys2Proof.Machine

section
variable {v d : Dev}

/-! ### Configuration and start (R233, R235, R293) -/

/-- What ACC_CONFIG comes to where its fields lie in their ranges and every slice is disabled (R233). -/
theorem actAccConfig_good {cfg : AccCfg} (hcfg : accCfgOk cfg = true) (hoff : ∀ n ∈ List.range 4, (sliceOf v n).st = .disabled) :
    actAccConfig cfg v d = .stage false 0 [] none d := by
  have hidle : (List.range 4).any (fun n => (sliceOf v n).st != .disabled) = false :=
    List.any_eq_false.mpr (fun n hn => by simp [hoff n hn])
  exact (if_neg (not_not.mpr hcfg)).trans (if_neg (Bool.eq_false_iff.mp hidle))

/-- What ACC_ENABLE comes to where its mask names slices that the mode has, none of them KILLED (R235). -/
theorem actAccEnable_good {mask : Nat} (stopHeld : Bool) (hmask : mask < 16) (hmode : v.acc.cfg.native = true ∨ mask ≤ 1)
    (hkilled : ∀ n ∈ maskSlices mask, (sliceOf v n).st ≠ .killed) : actAccEnable mask stopHeld v d = .stage false 0 [] none d := by
  have hnone : (maskSlices mask).any (fun n => (sliceOf v n).st == .killed) = false :=
    List.any_eq_false.mpr (fun n hn => by simp [hkilled n hn])
  have hbad : ¬ (mask ≥ 16 ∨ (¬ v.acc.cfg.native ∧ mask > 1)) := by
    rintro (hlarge | ⟨hstandard, hmany⟩)
    · omega
    · exact hmode.elim hstandard (Nat.not_le.mpr hmany)
  exact (if_neg hbad).trans (if_neg (Bool.eq_false_iff.mp hnone))

/-- What ACC_BOND_CONFIG comes to in native mode (R293). -/
theorem actAccBondConfig_native {mask : Nat} (request : Bool) (hnative : v.acc.cfg.native = true) (hmask : mask < 16) :
    actAccBondConfig mask request v d = .stage false 0 [] none d :=
  if_neg (by simp [hnative, hmask])

/-! ### ACC_DISABLE (R258) -/

/-- What ACC_DISABLE does to a slice that it names: one in O5 says its gasp first where GASP asks for it, and a KILLED one stays. -/
def accDown (gasp : Bool) (d : Dev) (n : Nat) : Dev :=
  if (sliceOf d n).st = .killed then d
  else if gasp ∧ (sliceOf d n).st = .o5 then onSlice (gaspQueue d n) n (fun s => { s with gasp := some d.bell.tick })
  else setAccSt d n .disabled (bellNs d)

/-- An ACC_DISABLE that waits for its slices. -/
def disableWaits (mask : Nat) (ctx : ReplyCtx) (d : Dev) : Dev := onAcc d (fun a => { a with jobs := a.jobs ++ [{ mask := mask, ctx := ctx }] })

/-- What an ACC_DISABLE of one slice comes to. -/
theorem actAccDisable_single {n : Nat} (hn : n < 4) (gasp : Bool) :
    actAccDisable (2 ^ n) gasp v d = .later (fun ctx => disableWaits (2 ^ n) ctx (endIfAllDisabled (accDown gasp d n))) := by
  have hmask : ¬ 2 ^ n ≥ 16 := Nat.not_le.mpr (Nat.pow_lt_pow_right (by decide : 1 < 2) hn)
  refine (if_neg hmask).trans ?_
  simp only [maskSlices_single hn, List.foldl_cons, List.foldl_nil]
  rfl

theorem sliceOf_gaspQueue_st (d : Dev) (n : Nat) : (sliceOf (gaspQueue d n) n).st = (sliceOf d n).st := by
  unfold gaspQueue
  split <;> simp

theorem accDown_gasp {n : Nat} (hst : (sliceOf d n).st = .o5) :
    accDown true d n = onSlice (gaspQueue d n) n (fun s => { s with gasp := some d.bell.tick }) := by
  simp [accDown, hst]

theorem accDown_atOnce {n : Nat} (hst : (sliceOf d n).st ≠ .killed) : accDown false d n = setAccSt d n .disabled (bellNs d) := by
  simp [accDown, hst]

/-- A slice that is not disabled keeps the bond from ending (R276). -/
theorem endIfAllDisabled_of_on {n : Nat} (hn : n < 4) (hst : (sliceOf d n).st ≠ .disabled) : endIfAllDisabled d = d := by
  refine if_neg (fun hall => hst ?_)
  simpa using List.all_eq_true.mp hall.1 n (List.mem_range.mpr hn)

theorem accDown_touch (gasp : Bool) (d : Dev) (n : Nat) : Touches [.out, .sys, .bell, .tm, .acc] d (accDown gasp d n) := by
  unfold accDown
  split_ifs
  · exact .refl
  · exact (gaspQueue_touch d n).mono.andThen (onSlice_touch ..)
  · exact setAccSt_touch ..

/-- The work of an ACC_DISABLE of one slice lies in ACC and what follows a change of its state. -/
theorem disableWaits_touch (mask : Nat) (ctx : ReplyCtx) (gasp : Bool) (d : Dev) (n : Nat) :
    Touches [.out, .sys, .bell, .tm, .acc] d (disableWaits mask ctx (endIfAllDisabled (accDown gasp d n))) :=
  ((accDown_touch gasp d n).andThen (endIfAllDisabled_touch _)).andThen (onAcc_touch ..)

/-! ### Queries (R258, R530) -/

theorem actAccQuery_slice {slice : Nat} (hslice : slice < 4) :
    actAccQuery slice v d = .read ([accStCode (sliceOf d slice).st, (sliceOf d slice).onu, (sliceOf d slice).eqd, keyStateReg (sliceOf d slice).keys,
      b2n (sliceOf d slice).wdKilled + 2 * (sliceOf d slice).wdCause] ++ (List.range 15).map (fun i => (tgetD (sliceOf d slice).cnt i 0).toNat)) d :=
  if_neg (Nat.not_le.mpr hslice)

/-- A slice that exists and a class that is known pass the checks of the diagnostics of managed entities (R530). -/
theorem diagOmci_guard {slice cls : Nat} (hslice : slice < 4) (hcls : (meInstances cls).isSome = true) : ¬ (slice ≥ 4 ∨ (meInstances cls).isNone) := by
  simp [hslice, Option.isSome_iff_ne_none.mp hcls]

/-- What DIAG_OMCI_READ comes to for a managed entity that the slice holds (R530). -/
theorem actDiagOmciRead_held {slice cls inst : Nat} {m : Tbl Nat} (mask : Nat) (hslice : slice < 4) (hcls : (meInstances cls).isSome = true)
    (hm : tget (sliceOf d slice).mib (meKey cls inst) = some m) :
    actDiagOmciRead slice cls inst mask v d = .read ((m.filter (fun a => mask.testBit (16 - a.1))).map (·.2)) d := by
  simp only [actDiagOmciRead, if_neg (diagOmci_guard hslice hcls), hm]

end

/-- Settles O26: each command's own conditions give one result, and a packet that passes the checks comes to what that result says. -/
theorem accessCommandsComplete : Obligations.AccessCommandsComplete := by
  unfold Obligations.AccessCommandsComplete
  refine ⟨?config, ?enable, ?disableGasp, ?disable, ?query, ?killRelease, ?bondConfig, ?leave, ?bondQuery, ?omciRead, ?omciList⟩
  case config =>
    rintro s h cfg t ⟨hcfg, hoff⟩
    exact kervon_stage t rfl (actAccConfig_good hcfg hoff) (plain_start t)
  case enable =>
    rintro s h mask stopHeld t ⟨hmask, hmode, hkilled⟩
    exact kervon_stage t rfl (actAccEnable_good stopHeld hmask hmode hkilled) (plain_start t)
  case disableGasp =>
    rintro s h mask gasp n t ⟨rfl, hn, hst, rfl⟩
    have hstays : (sliceOf (accDown true s.start n) n).st ≠ .disabled := by
      rw [accDown_gasp hst, sliceOf_onSlice]
      simp [sliceOf_gaspQueue_st, hst]
    refine (kervon_later t rfl (actAccDisable_single hn true) ((disableWaits_touch ..).plain t)).trans ?_
    rw [endIfAllDisabled_of_on hn hstays, accDown_gasp hst, disableWaits]
  case disable =>
    rintro s h mask gasp n t ⟨rfl, hn, rfl, hst⟩
    refine (kervon_later t rfl (actAccDisable_single hn false) ((disableWaits_touch ..).plain t)).trans ?_
    rw [accDown_atOnce hst, disableWaits]
  case query => exact fun s h slice t hslice => kervon_read t rfl (actAccQuery_slice hslice) (plain_start t)
  case killRelease => exact fun s h slice t hslice => kervon_stage t rfl (if_neg (Nat.not_le.mpr hslice)) (plain_start t)
  case bondConfig =>
    rintro s h mask request t ⟨hnative, hmask⟩
    exact kervon_stage t rfl (actAccBondConfig_native request hnative hmask) (plain_start t)
  case leave => exact fun s h slice t hslice => kervon_stage t rfl (if_neg (Nat.not_le.mpr hslice)) (plain_start t)
  case bondQuery => exact fun s h t => kervon_read t rfl rfl (plain_start t)
  case omciRead =>
    rintro s h slice cls inst mask m t ⟨hslice, hcls, hm⟩
    exact kervon_read t rfl (actDiagOmciRead_held mask hslice hcls hm) (plain_start t)
  case omciList =>
    rintro s h slice cls t ⟨hslice, hcls⟩
    exact kervon_read t rfl (if_neg (diagOmci_guard hslice hcls)) (plain_start t)

end Sys2Proof.Machine
end

section
/-! PROOFS. What bandwidth maps, bursts and downstream GEM frames of a port come to (O42). -/

namespace Sys2Proof.Machine

section
variable {d : Dev} {n : Nat}

/-! ### Downstream GEM frames (R243) -/

/-- In standard mode a frame of a port of the slice other than its OMCC that names no key is reassembled (R243, R246). -/
theorem gemFrame_ownPort {g : GemIn} (hst : (sliceOf d n).st = .o5) (hon : domOn d (4 + n) = true) (hawake : (sliceOf d n).asleep = false)
    (hmode : d.acc.cfg.native = false) (hseason : d.pwr.season ≠ .winter) (homcc : g.port ≠ (sliceOf d n).onu) (hport : g.port ∈ (sliceOf d n).gem)
    (hclear : g.keyIdx = none) : gemFrame d n g = reassemble d n g := by
  simp [gemFrame, gemDecrypt, hst, hon, hawake, hmode, hseason, homcc, hport, hclear]

/-- In standard mode a frame of a port that the slice lacks changes nothing (R243). -/
theorem gemFrame_otherPort {g : GemIn} (hmode : d.acc.cfg.native = false) (homcc : g.port ≠ (sliceOf d n).onu) (hport : g.port ∉ (sliceOf d n).gem) :
    gemFrame d n g = d := by
  simp [gemFrame, hmode, homcc, hport]

/-! ### Bandwidth maps (R252) -/

/-- A slice that is in service, synchronised and awake takes its bandwidth map. -/
theorem bwmapRx_guard (hsync : (sliceOf d n).sync = true) (hawake : (sliceOf d n).asleep = false) (hon : domOn d (4 + n) = true)
    (hst : (sliceOf d n).st ≠ .disabled) :
    ¬ (¬ (sliceOf d n).sync ∨ (sliceOf d n).asleep ∨ ¬ domOn d (4 + n) ∨ (sliceOf d n).st = .disabled) := by
  simp [hsync, hawake, hon, hst]

/-! ### The commit point and the window (R285, R286) -/

/-- A burst first in its list, not committed and in a state that serves it no more, is not built. -/
theorem commitFirst_unserved {b : Burst} {rest : List Burst} (now : Nat) (hnew : b.parts = none) (hno : burstServed (sliceOf d n) b = false) :
    commitFirst d n now (b :: rest) = (rest, d) := by
  simp [commitFirst, hnew, hno]

/-- A burst first in its list, not committed and served by its slice's state, has its content fixed. -/
theorem commitFirst_served {b : Burst} {rest : List Burst} (now : Nat) (hnew : b.parts = none) (hserved : burstServed (sliceOf d n) b = true) :
    commitFirst d n now (b :: rest)
      = ({ b with parts := some (reportOcc (fillGrants d n b.grants now).2 n b.grants (fillGrants d n b.grants now).1).1 } :: rest,
          (reportOcc (fillGrants d n b.grants now).2 n b.grants (fillGrants d n b.grants now).1).2) := by
  simp [commitFirst, hnew, hserved]

/-- A slice that is no member of the bond has nothing to suppress at its commit point. -/
theorem burstCommit_out (hch : (sliceOf d n).ch = .out) (now : Nat) :
    burstCommit d n now
      = onSlice (commitFirst d n now (sliceOf d n).bursts).2 n (fun x => { x with bursts := (commitFirst d n now (sliceOf d n).bursts).1 }) := by
  simp [burstCommit, hch]

/-- What a burst carries as it goes out does not rest on the bursts that wait behind it. -/
theorem burstTimes_onSlice (d : Dev) (n : Nat) (f : Slice → Slice) (s : Slice) (b : Burst) (ps : List BurstPart) :
    burstTimes (onSlice d n f) s b ps = burstTimes d s b ps := rfl

theorem spareRuns_onSlice (d : Dev) (n : Nat) (f : Slice → Slice) : spareRuns (onSlice d n f) n = spareRuns d n := rfl

/-- The device as a burst has gone out: its times and sizes, and then its allocations in their order. -/
def burstOut (d : Dev) (n stamp : Nat) (b : Burst) (rest : List Burst) (ps : List BurstPart) : Dev :=
  ps.foldl (fun d p => partSent d n stamp p) (emit (onSlice d n (fun x => { x with bursts := rest })) .burst n
    (burstTimes d (sliceOf d n) b ps ++ (ps.map (fun p => p.sizes.map (fun x => (x : Int)))).flatten))

/-- A committed burst that the slice's state serves goes out, and where it takes no last gasp with it nothing more follows (R258, R285). -/
theorem burstWindow_sent {b : Burst} {rest : List Burst} {ps : List BurstPart} {stamp : Nat} (hb : (sliceOf d n).bursts = b :: rest)
    (hps : b.parts = some ps) (hserved : burstServed (sliceOf d n) b = true) (hspare : spareRuns d n = false)
    (hgasp : gaspSent (sliceOf (burstOut d n stamp b rest ps) n) b = false) : burstWindow d n stamp = burstOut d n stamp b rest ps := by
  unfold burstOut at hgasp
  simp only [burstWindow, hb, hps, hserved, spareRuns_onSlice, hspare, burstTimes_onSlice, not_true_eq_false, Bool.false_eq_true, if_false, hgasp,
    burstOut]

/-- A burst that was not committed in time is not sent (R285). -/
theorem burstWindow_uncommitted {b : Burst} {rest : List Burst} (stamp : Nat) (hb : (sliceOf d n).bursts = b :: rest) (hnew : b.parts = none) :
    burstWindow d n stamp = onSlice d n (fun x => { x with bursts := rest }) := by
  simp [burstWindow, hb, hnew]

end

/-- Settles O42, event by event: `exec` becomes the event's own operation, and the conditions say which case of it acts. -/
theorem burstEventsComplete : Obligations.BurstEventsComplete := by
  unfold Obligations.BurstEventsComplete
  refine ⟨?ownPort, ?otherPort, ?timeout, ?mapLost, ?mapTaken, ?unserved, ?commit, ?sent, ?uncommitted⟩
  case ownPort =>
    rintro s slice g ⟨hn, hst, hon, hawake, hmode, hseason, homcc, hport, hclear⟩
    simp only [exec_gemFrameRx, if_pos hn, gemFrame_ownPort hst hon hawake hmode hseason homcc hport hclear]
  case otherPort =>
    rintro s slice g ⟨hn, -, -, -, hmode, homcc, hport⟩
    simp only [exec_gemFrameRx, if_pos hn, gemFrame_otherPort hmode homcc hport]
  case timeout =>
    rintro s slice port r ⟨hr, hlate⟩
    simp only [exec_gemReassemblyTimeout, hr, if_neg (Nat.not_lt.mpr hlate)]
  case mapLost =>
    rintro s slice lost grants ⟨hn, hsync, hawake, hon, hst, rfl⟩
    simp only [b_bwmapRx, if_pos hn, bwmapRx, if_neg (bwmapRx_guard hsync hawake hon hst), if_true]
  case mapTaken =>
    rintro s slice lost grants ⟨hn, hsync, hawake, hon, hst, rfl⟩
    simp only [b_bwmapRx, if_pos hn, bwmapRx, if_neg (bwmapRx_guard hsync hawake hon hst), Bool.false_eq_true, if_false]
  case unserved =>
    rintro s slice now b rest ⟨hn, hon, hch, hb, hnew, hno⟩
    simp only [b_burstCommit, if_pos (And.intro hn hon), burstCommit_out hch, hb, commitFirst_unserved now hnew hno]
  case commit =>
    rintro s slice now b rest ⟨hn, hon, hch, hb, hnew, hserved⟩
    simp only [b_burstCommit, if_pos (And.intro hn hon), burstCommit_out hch, hb, commitFirst_served now hnew hserved]
  case sent =>
    rintro s slice stamp b rest ps ⟨hn, hon, hb, hps, hserved, hspare, hgasp⟩
    rw [exec_burstWindow]
    exact congrArg s.become ((if_pos ⟨hn, hon⟩).trans (burstWindow_sent hb hps hserved hspare hgasp))
  case uncommitted =>
    rintro s slice stamp b rest ⟨hn, hon, hb, hnew⟩
    simp only [exec_burstWindow, if_pos (And.intro hn hon), burstWindow_uncommitted stamp hb hnew]

end Sys2Proof.Machine
end

section
/-! PROOFS. What PLOAM messages, OMCI, frames, timers and the watchdog of the access slices come to (O40). -/

namespace Sys2Proof.Machine

section
variable {d : Dev} {n : Nat}

/-! ### PLOAM messages (R237, R239) -/

section
variable {h : PloamHdr}

/-- A message that is heard leaves what its own act makes of the device that has counted it, with the act's answer. -/
theorem hears_answers {act : Dev → Dev} {body : PloamAct} {e : Dev} {r : Option PloamUp} (H : Hears d n h) (m : PloamMsg)
    (hact : act d = ploam d n h body) (hbody : body (accCount d n 0 1) = (e, r)) : ploamRx n h m act d = heard n h r e := by
  rw [hears_rx H, hact, hears_ploam H, hbody]

/-- The same of a message that a slice in KILLED does not act on. -/
theorem hears_acts {act : Dev → Dev} {body : PloamAct} {e : Dev} {r : Option PloamUp} (H : Hears d n h) (m : PloamMsg)
    (hact : act d = ploam d n h (unlessKilled n body)) (hbody : body (accCount d n 0 1) = (e, r)) : ploamRx n h m act d = heard n h r e :=
  hears_answers H m hact ((hears_unless H body).trans hbody)

end

/-! ### Downstream frames (R236, R266) -/

/-- A downstream frame as its slice takes it: in native mode from the levels received (R262). -/
def frameSeen (d : Dev) (n : Nat) (f : DsFrame) : DsFrame := if d.acc.cfg.native then nativeView (sliceOf d n) f else f

/-- A frame in its place keeps a synchronised slice's state and synchronisation, and gives it its count and skew. -/
theorem downstreamFrame_good {f v : DsFrame} (hv : frameSeen d n f = v) (hst : (sliceOf d n).st ≠ .disabled) (hon : domOn d (4 + n) = true)
    (hfound : v.found = true) (hcount : v.countOk = true) (hsync : (sliceOf d n).sync = true) (hleave : (sliceOf d n).leaveFrame = none) :
    (sliceOf (downstreamFrame d n f) n).frame = v.frameCount ∧ (sliceOf (downstreamFrame d n f) n).skew = v.skew
      ∧ (sliceOf (downstreamFrame d n f) n).badRun = 0 ∧ (sliceOf (downstreamFrame d n f) n).sync = true
      ∧ (sliceOf (downstreamFrame d n f) n).st = (sliceOf d n).st := by
  subst hv
  cases hmode : d.acc.cfg.native with
  | false =>
    simp only [frameSeen, hmode, Bool.false_eq_true, if_false] at hfound hcount ⊢
    simp [downstreamFrame, hst, hon, hmode, hfound, hcount, hsync, hleave]
  | true =>
    simp only [frameSeen, hmode, if_true] at hfound hcount ⊢
    by_cases hchan : (nativeView (sliceOf d n) f).chan = n
    · simp [downstreamFrame, hst, hon, hmode, hfound, hcount, hsync, hleave, hchan]
    · simp [downstreamFrame, hst, hon, hmode, hfound, hcount, hsync, hleave, hchan]

/-! ### Loss of signal (R236) -/

theorem departure_out (hch : (sliceOf d n).ch = .out) (cause now : Nat) : departure d n cause now = d := if_pos hch

/-! ### Alloc-IDs and keys (R248, R283) -/

/-- An Alloc-ID that is new takes the lowest free entry of its slice's map and the lowest free node. -/
theorem allocAssign_new {alloc a node : Nat} (hnew : allocEntry (sliceOf d n) alloc = none) (ha : tfree (sliceOf d n).allocs 0 64 = some a)
    (hnode : freeNode d = some node) :
    allocAssign d n alloc
      = some (onSlice (takeNode d n alloc node) n (fun x => { x with allocs := tset x.allocs a { id := alloc, bonded := false, node := node } })) := by
  simp only [allocAssign, hnew, ha, hnode]

/-- TKEY has run out on an exchange whose report has gone out, and which has not stalled. -/
theorem tkeyExpiry_guard (hsent : 1 ≤ (sliceOf d n).keys.tries) (hstall : (sliceOf d n).keys.stall = false)
    (hms : msPassed d (sliceOf d n).keys.sentAt d.acc.cfg.tkey = true) :
    ¬ ((sliceOf d n).keys.tries = 0 ∨ (sliceOf d n).keys.stall ∨ ¬ msPassed d (sliceOf d n).keys.sentAt d.acc.cfg.tkey) := by
  simp [Nat.one_le_iff_ne_zero.mp hsent, hstall, hms]

/-! ### The watchdog (R254, R255) -/

/-- What the watchdog latches in each slice: whether it killed it, and the cause. -/
def wdLatch (d : Dev) (n : Nat) : Bool × Nat := ((sliceOf d n).wdKilled, (sliceOf d n).wdCause)

theorem wdLatch_onSlice (d : Dev) (k : Nat) {f : Slice → Slice} (hf : ∀ s, (f s).wdKilled = s.wdKilled ∧ (f s).wdCause = s.wdCause) :
    wdLatch (onSlice d k f) = wdLatch d := by
  funext n
  by_cases hk : n = k
  · subst hk
    simp [wdLatch, hf]
  · simp [wdLatch, sliceOf_onSlice_other d k n f hk]

/-- What leaves ACC alone leaves the latches. -/
theorem Touches.wdLatch {ps : List Part} {d e : Dev} (t : Touches ps d e) (h : ps.contains .acc = false := by rfl) :
    wdLatch e = wdLatch d := by
  have hacc : e.acc = d.acc := t.same .acc h
  funext n
  simp only [Machine.wdLatch, sliceOf, hacc]

@[simp] theorem wdLatch_onBond (d : Dev) (f : BondState → BondState) : wdLatch (onBond d f) = wdLatch d := by
  funext n
  simp [wdLatch]

@[simp] theorem wdLatch_accLeaf (d : Dev) (m bit : Nat) : wdLatch (accLeaf d m bit) = wdLatch d := by
  funext n
  simp [wdLatch]

@[simp] theorem wdLatch_accCount (d : Dev) (k i c : Nat) : wdLatch (accCount d k i c) = wdLatch d := wdLatch_onSlice _ _ fun _ => ⟨rfl, rfl⟩

@[simp] theorem wdLatch_ctlQueue (d : Dev) (k : Nat) (m : CtlMsg) : wdLatch (ctlQueue d k m) = wdLatch d := wdLatch_onSlice _ _ fun _ => ⟨rfl, rfl⟩

@[simp] theorem wdLatch_setRefSlice (slice : Nat) (skew : Int) (d : Dev) : wdLatch (setRefSlice slice skew d) = wdLatch d :=
  (setRefSlice_touch slice skew d).wdLatch

@[simp] theorem wdLatch_suppressBursts (d : Dev) (k : Nat) : wdLatch (suppressBursts d k) = wdLatch d := by
  simp [suppressBursts, bondCount, wdLatch_onSlice]

@[simp] theorem wdLatch_shortenHolds (d : Dev) (now : Nat) : wdLatch (shortenHolds d now) = wdLatch d := wdLatch_onBond ..

@[simp] theorem wdLatch_chanStatus (d : Dev) (slice chan status cause : Nat) : wdLatch (chanStatus d slice chan status cause) = wdLatch d := by
  simp [chanStatus, bondAsk, bondSend]

/-- A member that leaves the bond keeps every slice's latch. -/
theorem wdLatch_departure (d : Dev) (k cause now : Nat) : wdLatch (departure d k cause now) = wdLatch d := by
  unfold departure
  split
  · rfl
  extract_lets wasRef out counted held passed raised
  have hout : wdLatch out = wdLatch d := wdLatch_onSlice _ _ fun _ => ⟨rfl, rfl⟩
  have hheld : wdLatch held = wdLatch d := by simp [held, counted, hout]
  have hpassed : wdLatch passed = wdLatch d := by
    unfold passed
    split <;> simp [hheld]
  have hraised : wdLatch raised = wdLatch d := by simp [raised, hpassed]
  split
  · split <;> simp [hraised]
  · exact hraised

theorem wdLatch_giveNode (d : Dev) (slice alloc node : Nat) : wdLatch (giveNode d slice alloc node) = wdLatch d := rfl

theorem wdLatch_dropTraffic (d : Dev) (k : Nat) : wdLatch (dropTraffic d k) = wdLatch d := by
  have hnodes : ∀ es : List (Nat × AllocEnt), wdLatch (es.foldl (fun d e => giveNode d k e.2.id e.2.node) d) = wdLatch d :=
    fun es => foldl_keeps wdLatch _ es d fun d e => wdLatch_giveNode d k e.2.id e.2.node
  simp [dropTraffic, dropAllocs, wdLatch_onSlice, hnodes]

/-- A slice that goes to KILLED is there, with its transmitter off, and keeps its latch (R238, R239). -/
theorem setAccSt_killed (hst : (sliceOf d n).st ≠ .killed) (now : Nat) :
    (sliceOf (setAccSt d n .killed now) n).st = .killed ∧ (sliceOf (setAccSt d n .killed now) n).txkill = true
      ∧ wdLatch (setAccSt d n .killed now) = wdLatch d := by
  have hleft : wdLatch (if (sliceOf d n).st = .o5 then departure d n 7 now else d) = wdLatch d := by
    split
    · exact wdLatch_departure ..
    · rfl
  simp [setAccSt, hst, keepsTraffic, killsTx, wdLatch_onSlice, wdLatch_dropTraffic, hleft]

/-- A slice that the watchdog trips is KILLED, with its transmitter off and the cause latched (R255). -/
theorem watchdogTrip_kills (hst : (sliceOf d n).st ≠ .killed) (cause now : Nat) :
    (sliceOf (watchdogTrip d n cause now) n).st = .killed ∧ (sliceOf (watchdogTrip d n cause now) n).txkill = true
      ∧ (sliceOf (watchdogTrip d n cause now) n).wdKilled = true ∧ (sliceOf (watchdogTrip d n cause now) n).wdCause = cause % 4 := by
  unfold watchdogTrip
  extract_lets latched
  obtain ⟨hkilled, htx, hlatch⟩ := setAccSt_killed (d := latched) (n := n) (by simpa [latched] using hst) now
  have hwd : wdLatch (setAccSt latched n .killed now) n = (true, cause % 4) := by
    rw [hlatch]
    simp [wdLatch, latched]
  simpa [hkilled, htx, wdLatch] using hwd

end

/-- Settles O40, event by event: `exec` becomes the event's own operation, and the conditions say which case of it acts. -/
theorem accessEventsComplete : Obligations.AccessEventsComplete := by
  unfold Obligations.AccessEventsComplete
  refine ⟨?gaspOver, ?omciCreate, ?omciGet, ?omciBad, ?frameNative, ?frameStandard, ?signal, ?signalLost, ?profile, ?profileFirst, ?profileBad, ?onuId,
    ?onuIdAgain, ?ranging, ?rangingFar, ?deactivate, ?disableSerial, ?enableSerial, ?registration, ?allocId, ?allocIdBad, ?keyNew, ?keyUsed, ?keyAgain,
    ?keyStall, ?sleepAllow, ?unknown, ?awake, ?to1, ?to1Other, ?to2, ?flap, ?quarantine, ?watchdog⟩
  case gaspOver =>
    rintro s slice k ⟨hk, hst, hdue⟩
    simp only [exec_dyingGaspDisable, hk, if_pos (And.intro hst hdue)]
  case omciCreate =>
    rintro s slice cls inst micOk op eff top attrs ⟨hn, hst, hon, hawake, rfl, rfl, htop, hmay, hnew, hroom⟩
    simp [exec_omciMessage, hn, omciMessage, hst, hon, hawake, htop, hmay, hnew, Nat.not_le.mpr hroom]
  case omciGet =>
    rintro s slice cls inst micOk op eff top mask ⟨hn, hst, hon, hawake, rfl, rfl, htop⟩
    simp [exec_omciMessage, hn, omciMessage, hst, hon, hawake, htop]
  case omciBad =>
    rintro s slice cls inst micOk op eff ⟨hn, hst, hon, hawake, rfl⟩
    simp [exec_omciMessage, hn, omciMessage, hst, hon, hawake]
  case frameNative =>
    rintro s slice f ⟨hn, hst, hon, hnative, hfound, hcount, hsync, hleave⟩
    rw [b_downstreamFrame, ends_become]
    simpa only [if_pos hn] using downstreamFrame_good (if_pos hnative) hst hon hfound hcount hsync hleave
  case frameStandard =>
    rintro s slice f ⟨hn, hst, hon, hmode, hfound, hcount, hsync, hleave⟩
    rw [b_downstreamFrame, ends_become]
    simpa only [if_pos hn] using downstreamFrame_good (if_neg (Bool.eq_false_iff.mp hmode)) hst hon hfound hcount hsync hleave
  case signal =>
    rintro s slice lost now ⟨hn, hst, hon, rfl⟩
    simp [b_opticsSdLoss, Nat.not_le.mpr hn, hst, hon]
  case signalLost =>
    rintro s slice lost now ⟨hn, hst, hon, rfl, hsync, hch⟩
    simp [b_opticsSdLoss, Nat.not_le.mpr hn, hst, hon, hsync, departure_out, hch]
  case profile =>
    rintro s slice h index guard fieldsOk rateOk ⟨H, hst, hindex, rfl⟩
    rw [b_ploamBurstProfile]
    exact congrArg s.become (hears_acts H _ rfl (by simp [hst, keepsProfiles, Nat.not_lt.mpr hindex]))
  case profileFirst =>
    rintro s slice h index guard fieldsOk rateOk ⟨H, hst, hindex, rfl, rfl, hchan⟩
    rw [b_ploamBurstProfile]
    exact congrArg s.become (hears_acts H _ rfl (by simp [hst, keepsProfiles, Nat.not_lt.mpr hindex, hchan]))
  case profileBad =>
    rintro s slice h index guard fieldsOk rateOk ⟨H, hst, hindex⟩
    rw [b_ploamBurstProfile]
    exact congrArg s.become (hears_acts H _ rfl (by simp [hst, keepsProfiles, hindex]))
  case onuId =>
    rintro s slice h mine onu ⟨H, rfl, hst, honu⟩
    rw [b_ploamAssignOnuId]
    exact congrArg s.become (hears_acts H _ rfl (by simp [hst, Nat.not_lt.mpr honu]))
  case onuIdAgain =>
    rintro s slice h mine onu ⟨H, rfl, hst⟩
    rw [b_ploamAssignOnuId]
    exact congrArg s.become (hears_acts H _ rfl (by simp [hst]))
  case ranging =>
    rintro s slice h relative value ⟨H, hst, rfl, hlow, hhigh⟩
    rw [b_ploamRangingTime]
    exact congrArg s.become (hears_acts H _ rfl (by simp [hst, Int.not_lt.mpr hlow, Int.not_lt.mpr hhigh]))
  case rangingFar =>
    rintro s slice h relative value ⟨H, hst, rfl, hfar⟩
    rw [b_ploamRangingTime]
    exact congrArg s.become (hears_acts H _ rfl (by simp [hst, hfar]))
  case deactivate =>
    rintro s slice h ⟨H, hst⟩
    rw [b_ploamDeactivateOnuId]
    exact congrArg s.become (hears_acts H _ rfl (by simp [hst]))
  case disableSerial =>
    rintro s slice h named enable ⟨H, rfl, hst, rfl⟩
    rw [b_ploamDisableSerialNumber]
    exact congrArg s.become (hears_answers H _ rfl (by simp [hst]))
  case enableSerial =>
    rintro s slice h named enable ⟨H, rfl, hst, rfl⟩
    rw [b_ploamDisableSerialNumber]
    exact congrArg s.become (hears_answers H _ rfl (by simp [hst]))
  case registration =>
    rintro s slice h ⟨H, hst⟩
    rw [b_ploamRequestRegistration]
    refine congrArg s.become (hears_acts H _ rfl ?_)
    rcases hst with hst | hst | hst <;> simp [hst, keepsId]
  case allocId =>
    rintro s slice h alloc assign a node ⟨H, hst, halloc, rfl, hnew, ha, hnode⟩
    rw [b_ploamAssignAllocId]
    have hmap : (sliceOf (accCount s.start slice 0 1) slice).allocs = (sliceOf s.start slice).allocs := by simp
    have hassign := allocAssign_new (d := accCount s.start slice 0 1) (n := slice) (by rwa [allocEntry, hmap]) (by rwa [hmap]) hnode
    exact congrArg s.become (hears_acts H _ rfl (by simp [hst, Nat.not_le.mpr halloc, hassign]))
  case allocIdBad =>
    rintro s slice h alloc assign ⟨H, hst, halloc⟩
    rw [b_ploamAssignAllocId]
    exact congrArg s.become (hears_acts H _ rfl (by simp [hst, halloc]))
  case keyNew =>
    rintro s slice h generate index ⟨H, hst, rfl, hfree⟩
    rw [b_ploamKeyControl]
    exact congrArg s.become (hears_acts H _ rfl (by simp [hst, hfree]))
  case keyUsed =>
    rintro s slice h generate index key ⟨H, hst, rfl, hpend⟩
    rw [b_ploamKeyControl]
    exact congrArg s.become (hears_acts H _ rfl (by simp [hst, hpend]))
  case keyAgain =>
    rintro s slice i key ⟨hpend, hsent, htries, hstall, hms⟩
    simp only [b_tkeyExpiry, tkeyExpiry, hpend, if_neg (tkeyExpiry_guard hsent hstall hms), if_pos htries]
  case keyStall =>
    rintro s slice i key ⟨hpend, htries, hstall, hms, hch⟩
    have hdue := tkeyExpiry_guard (Nat.le_trans (by decide) htries) hstall hms
    simp only [b_tkeyExpiry, tkeyExpiry, hpend, if_neg hdue, if_neg (Nat.not_lt.mpr htries)]
    simp [chActive, hch]
  case sleepAllow =>
    rintro s slice h allow ⟨H, hst⟩
    rw [b_ploamSleepAllow]
    exact congrArg s.become (hears_acts H _ rfl (by simp [hst]))
  case unknown =>
    intro s slice h H
    rw [b_ploamUnknownType]
    exact congrArg s.become (hears_answers H _ rfl rfl)
  case awake =>
    intro s slice hnot
    simp [b_sleepAwarePeriod, hnot]
  case to1 =>
    intro s slice hdue
    simp only [b_to1Expiry, if_pos hdue]
  case to1Other =>
    intro s slice hst
    simp [b_to1Expiry, hst]
  case to2 =>
    intro s slice hdue
    simp only [b_to2Expiry, if_pos hdue]
  case flap => exact fun s slice => b_flapWindowExpiry s slice
  case quarantine =>
    intro s slice hdue
    simp only [b_quarantineExpiry, if_pos hdue]
  case watchdog =>
    rintro s slice cause now ⟨hn, hst⟩
    rw [b_watchdogTrip, ends_become]
    simpa only [if_pos hn] using watchdogTrip_kills hst cause now

end Sys2Proof.Machine
end

section
/-! PROOFS. What the bond's messages, channels and fragments come to (O41). -/

namespace Sys2Proof.Machine

section
variable {d : Dev} {n : Nat} {h : BondHdr}

/-! ### Bond messages (R273 to R278, R282 to R284) -/

/-- A bond message that is the next of its epoch leaves what its own action answers and makes of the device. -/
theorem told_acts (H : BondTold d n h) (type : Nat) (offer : Bool) {act : Dev → Nat × Dev} {code : Nat} {e : Dev} (hact : act d = (code, e)) :
    bondMsg d n type h offer act = bondTold n type h code e := by
  rw [told_bondMsg H, hact]

@[simp] theorem sliceOf_answered (d : Dev) (type chan n : Nat) : sliceOf (answered d type chan) n = sliceOf d n := sliceOf_onBond ..

/-- BOND_OFFER on an eligible slice binds the ONU (R276). -/
theorem bondOffer_eligible (hmask : eligible d n = true) (dsPort usPort start : Nat) :
    bondOffer n h dsPort usPort start d
      = (0, raiseLeaf (chActivate (answered (onBond d (fun b =>
          { b with st := .bonded, id := h.bondId, dsPort := dsPort, usPort := usPort, e := start % 2 ^ 24, usNext := 0, held := [], sdu := none, sduSkip := false }))
          0x81 0xFF) n) 6 24) :=
  if_neg (not_not_intro hmask)

/-- BOND_OFFER on a slice that is not eligible is answered STATE (log 41). -/
theorem bondOffer_notEligible (hmask : eligible d n = false) (dsPort usPort start : Nat) : bondOffer n h dsPort usPort start d = (2, d) :=
  if_pos (Bool.eq_false_iff.mp hmask)

section
variable (hres : h.reservedOk = true) (hn : n < 4) (hchan : h.channel = n) (hst : (sliceOf d n).st = .o5) (hmask : eligible d n = true)
  (hleave : (sliceOf d n).leaveFrame = none) (hch : (sliceOf d n).ch = .out) (hskew : skewOk d n = true)
include hres hn hchan hst hmask hleave hch hskew

/-- A CHANNEL_ADD on the channel that it names, which is eligible, OUT and within the skew: its JOIN_FRAME and the room of the map decide (R277). -/
theorem channelAdd_ownChannel (joinFrame : Nat) :
    channelAdd n h joinFrame d
      = if joinFrame < h.frame + 8 ∨ joinFrame > h.frame + 8000 then (4, d)
        else if (sliceOf d n).allocs.length + (lackedIds d n).length > 64 then (5, d)
        else (0, onSlice ((lackedIds d n).foldl (fun d e => bondedEntry d n e) d) n (fun s =>
          { s with ch := .joining, joinFrame := joinFrame, joinLatch := joinFrame })) := by
  simp [channelAdd, hres, hchan, Nat.not_le.mpr hn, hst, hmask, hleave, hch, hskew]

/-- A channel whose JOIN_FRAME is in reach, and whose slice has room for every bonded Alloc-ID that it lacks, joins (R276, R277). -/
theorem channelAddMsg_joins {joinFrame : Nat} (hlow : h.frame + 8 ≤ joinFrame) (hhigh : joinFrame ≤ h.frame + 8000)
    (hroom : (sliceOf d n).allocs.length + (lackedIds d n).length ≤ 64) :
    channelAddMsg n h joinFrame d
      = (0, answered (onSlice ((lackedIds d n).foldl (fun d e => bondedEntry d n e) d) n (fun s =>
          { s with ch := .joining, joinFrame := joinFrame, joinLatch := joinFrame })) 0x83 n) := by
  have hreach : ¬ (joinFrame < h.frame + 8 ∨ joinFrame > h.frame + 8000) := by omega
  simp only [channelAddMsg, channelAdd_ownChannel hres hn hchan hst hmask hleave hch hskew, if_neg hreach, if_neg (Nat.not_lt.mpr hroom), hchan]

/-- A CHANNEL_ADD whose JOIN_FRAME comes less than 8 frames after it is answered with code 4 (R277). -/
theorem channelAddMsg_early {joinFrame : Nat} (hearly : joinFrame < h.frame + 8) : channelAddMsg n h joinFrame d = (4, answered d 0x83 n) := by
  simp only [channelAddMsg, channelAdd_ownChannel hres hn hchan hst hmask hleave hch hskew, if_pos (Or.inl hearly), hchan]

end

/-- CHANNEL_REMOVE of an ACTIVE channel: it leaves at once, or at a LEAVE_FRAME that is still to come (R279). -/
theorem channelRemove_active (hchan : h.channel < 4) (hch : (sliceOf d h.channel).ch = .active) (leaveFrame : Nat) :
    channelRemove h leaveFrame d
      = if leaveFrame = 0 ∨ leaveFrame ≤ (sliceOf d h.channel).frame then (0, departure (answered d 0x83 h.channel) h.channel 4 h.now)
        else (0, onSlice (answered d 0x83 h.channel) h.channel (fun s => { s with leaveFrame := some leaveFrame })) := by
  simp [channelRemove, Nat.not_le.mpr hchan, hch]

/-- BOND_ALLOC assigns an Alloc-ID that is new to the bond and to its members, with an entry in the map of each of them (R283). -/
theorem bondAlloc_assigned {alloc node : Nat} (hnew : thas d.acc.bond.ids alloc = false)
    (hmem : ∀ m ∈ bondMembers d, (allocEntry (sliceOf d m) alloc).isSome = false ∧ (sliceOf d m).allocs.length < 64) (hnode : freeNode d = some node) :
    bondAlloc alloc true d
      = (0, (bondMembers d).foldl (fun d m => bondedEntry d m (alloc, node))
          (onBond (takeNode d 4 alloc node) (fun b => { b with ids := tset b.ids alloc node }))) := by
  have hfree : ¬ (bondMembers d).any (fun m => (allocEntry (sliceOf d m) alloc).isSome) = true := by
    simpa using fun m hm => by simpa using (hmem m hm).1
  have hroom : ¬ (bondMembers d).any (fun m => decide ((sliceOf d m).allocs.length ≥ 64)) = true := by
    simpa using fun m hm => (hmem m hm).2
  simp only [bondAlloc, not_true_eq_false, if_false, hnew, Bool.false_eq_true, if_neg hfree, if_neg hroom, hnode]

/-- BOND_ALLOC that deassigns an Alloc-ID that the bond does not hold changes nothing (R283). -/
theorem bondAlloc_notHeld {alloc : Nat} (hnone : tget d.acc.bond.ids alloc = none) : bondAlloc alloc false d = (0, d) := by
  simp [bondAlloc, hnone]

/-- A message of unknown type to a slice in O5 is counted and answered with code 6 (R282). -/
theorem bondUnknown_answered (hn : n < 4) (hnative : d.acc.cfg.native = true) (hst : (sliceOf d n).st = .o5) (hon : domOn d (4 + n) = true)
    (honu : h.onu = (sliceOf d n).onu) (hmic : h.micOk = true) (type : Nat) :
    bondUnknown d n h type = bondAck (bondCount d 9 1) n (type % 256) h 6 := by
  simp [bondUnknown, Nat.not_le.mpr hn, hnative, hst, hon, honu, hmic]

/-- A CHANNEL_STATUS whose repeat is due is sent again up to its fifth send, and then given up (R278). -/
theorem bondRetry_due {type chan : Nat} {o : BondOut} (ho : d.acc.bond.outs.find? (fun o => o.type == type && o.chan == chan) = some o)
    (hdue : o.nextAt.toNat ≤ d.bell.tick.toNat) (htype : type ≠ 0x81) :
    bondRetry d type chan
      = if o.sends < 5 then
          ctlQueue (onBond d (fun b =>
              { b with outs := b.outs.map (fun x => if x = o then { o with sends := o.sends + 1, nextAt := d.bell.tick + 160 } else x) })) o.slice
            { kind := .bondMsg, len := 48, vals := byteVals (bondBytes o.slice (sliceOf d o.slice).onu type o.seq d.acc.bond.id d.acc.bond.epoch chan [o.status, o.cause]) }
        else answered d type chan := by
  simp only [bondRetry, ho, if_neg (Nat.not_lt.mpr hdue), if_neg htype, if_pos htype, sliceOf_onBond]
  rfl

/-! ### The reorder window (R269 to R271) -/

theorem seqAhead_accCount (d : Dev) (n i k seq : Nat) : seqAhead (accCount d n i k) seq = seqAhead d seq := rfl

theorem bond_accCount (d : Dev) (n i k : Nat) : (accCount d n i k).acc.bond = d.acc.bond := rfl

/-- A bonded fragment with a good header on an ACTIVE channel, 1 to 255 ahead of the next one due and not held yet, is held (R270). -/
theorem fragmentRx_held {f : FragIn} (hch : chActive d n = true) (hver : f.verOk = true) (hcrc : f.hcrcOk = true) (hseq : f.seq < 2 ^ 24)
    (hlow : 1 ≤ seqAhead d f.seq) (hhigh : seqAhead d f.seq ≤ 255) (hnew : ∀ g ∈ d.acc.bond.held, g.seq ≠ f.seq) (now : Nat) :
    fragmentRx d n f now = windowHold (accCount d n 16 1) f now := by
  have hdup : ¬ d.acc.bond.held.any (fun g => g.seq == f.seq) = true := by simpa using hnew
  have hgood : ¬ (¬ chActive d n ∨ ¬ f.verOk ∨ ¬ f.hcrcOk) := by simp [hch, hver, hcrc]
  simp only [fragmentRx, if_neg hgood, Nat.mod_eq_of_lt hseq, seqAhead_accCount, bond_accCount, if_neg (Nat.ne_of_gt hlow), if_pos hhigh, if_neg hdup]

/-- A bonded fragment whose header is bad is counted and dropped (R269). -/
theorem fragmentRx_bad {f : FragIn} (hbad : f.verOk = false ∨ f.hcrcOk = false) (now : Nat) : fragmentRx d n f now = bondCount d 5 1 :=
  if_pos (.inr (by simpa using hbad))

/-- No deadline passed: the window stays as it is (R271). -/
theorem reorderDeadline_early {now : Nat} (hnone : deadlineDue d now = false) (fuel : Nat) : reorderDeadline d now (fuel + 1) = d :=
  if_pos (Bool.eq_false_iff.mp hnone)

/-- A deadline passed: the window advances to the nearest held fragment, delivers what is in order, and looks at the deadlines again (R271). -/
theorem reorderDeadline_due {now k : Nat} {g : HeldFrag} (hdue : deadlineDue d now = true) (hnext : nextHeld d = some (k, g)) (fuel : Nat) :
    reorderDeadline d now (fuel + 1) = reorderDeadline (windowDrain (windowAdvance d k now 1) now 256) now fuel := by
  simp only [reorderDeadline, hdue, not_true_eq_false, if_false, hnext]

end

/-- Settles O41, event by event: a message that is the next of its epoch comes to its own action, and the conditions say which case of it, or of the
event's own operation, acts. -/
theorem bondEventsComplete : Obligations.BondEventsComplete := by
  unfold Obligations.BondEventsComplete
  refine ⟨?offer, ?offerState, ?add, ?addEarly, ?removeNow, ?removeLater, ?assign, ?deassign, ?release, ?unknown, ?join, ?leave, ?leaveOut, ?retry, ?retryOver,
    ?fragHeld, ?fragBad, ?early, ?due⟩
  case offer =>
    rintro s slice h dsPort usPort start ⟨H, hmask⟩
    rw [exec_bondOffer]
    exact congrArg s.become (told_acts H _ _ (bondOffer_eligible hmask ..))
  case offerState =>
    rintro s slice h dsPort usPort start ⟨H, hmask⟩
    rw [exec_bondOffer]
    exact congrArg s.become (told_acts H _ _ (bondOffer_notEligible hmask ..))
  case add =>
    rintro s slice h joinFrame ⟨H, hres, hchan, hmask, hleave, hch, hskew, hlow, hhigh, hroom⟩
    have ⟨hn, _, hst, _⟩ := H
    rw [exec_channelAdd]
    exact congrArg s.become (told_acts H _ _ (channelAddMsg_joins hres hn hchan hst hmask hleave hch hskew hlow hhigh hroom))
  case addEarly =>
    rintro s slice h joinFrame ⟨H, hres, hchan, hmask, hleave, hch, hskew, hearly⟩
    have ⟨hn, _, hst, _⟩ := H
    rw [exec_channelAdd]
    exact congrArg s.become (told_acts H _ _ (channelAddMsg_early hres hn hchan hst hmask hleave hch hskew hearly))
  case removeNow =>
    rintro s slice h leaveFrame ⟨H, hchan, hch, hzero⟩
    rw [exec_channelRemove]
    exact congrArg s.become (told_acts H _ _ ((channelRemove_active hchan hch leaveFrame).trans (if_pos (.inl hzero))))
  case removeLater =>
    rintro s slice h leaveFrame ⟨H, hchan, hch, hzero, hahead⟩
    have hlater : ¬ (leaveFrame = 0 ∨ leaveFrame ≤ (sliceOf s.start h.channel).frame) := by omega
    rw [exec_channelRemove]
    exact congrArg s.become (told_acts H _ _ ((channelRemove_active hchan hch leaveFrame).trans (if_neg hlater)))
  case assign =>
    rintro s slice h alloc assign node ⟨H, rfl, halloc, hnew, hmem, hnode⟩
    rw [exec_bondAlloc, Nat.mod_eq_of_lt halloc]
    exact congrArg s.become (told_acts H _ _ (bondAlloc_assigned hnew hmem hnode))
  case deassign =>
    rintro s slice h alloc assign ⟨H, rfl, halloc, hnone⟩
    rw [exec_bondAlloc, Nat.mod_eq_of_lt halloc]
    exact congrArg s.become (told_acts H _ _ (bondAlloc_notHeld hnone))
  case release =>
    intro s slice h H
    rw [exec_bondRelease]
    exact congrArg s.become (told_acts H _ _ rfl)
  case unknown =>
    rintro s slice h type ⟨hn, hnative, hst, hon, honu, hmic⟩
    rw [exec_bondMsgUnknown]
    exact congrArg s.become (bondUnknown_answered hn hnative hst hon honu hmic type)
  case join =>
    intro s slice hframe
    rw [exec_channelJoinFrame]
    exact congrArg s.become (if_pos hframe)
  case leave =>
    rintro s slice cause now ⟨hn, hlow, hhigh, -⟩
    rw [exec_channelDeparture]
    exact congrArg s.become (if_pos ⟨hn, hlow, hhigh⟩)
  case leaveOut =>
    rintro s slice cause now ⟨hn, hlow, hhigh, hch⟩
    rw [exec_channelDeparture]
    exact congrArg s.become ((if_pos ⟨hn, hlow, hhigh⟩).trans (departure_out hch ..))
  case retry =>
    rintro s type chan o ⟨ho, hdue, hsends, htype⟩
    rw [exec_bondMsgRetry]
    exact congrArg s.become ((bondRetry_due ho hdue htype).trans (if_pos hsends))
  case retryOver =>
    rintro s type chan o ⟨ho, hdue, hsends, htype⟩
    rw [exec_bondMsgRetry]
    exact congrArg s.become ((bondRetry_due ho hdue htype).trans (if_neg (Nat.not_lt.mpr hsends)))
  case fragHeld =>
    rintro s slice f now ⟨hn, hon, hst, hch, hver, hcrc, hseq, hlow, hhigh, hnew⟩
    rw [exec_bondFragmentRx]
    exact congrArg s.become ((if_pos ⟨hn, hon, hst⟩).trans (fragmentRx_held hch hver hcrc hseq hlow hhigh hnew now))
  case fragBad =>
    rintro s slice f now ⟨hn, hon, hst, hbad⟩
    rw [exec_bondFragmentRx]
    exact congrArg s.become ((if_pos ⟨hn, hon, hst⟩).trans (fragmentRx_bad hbad now))
  case early =>
    intro s now hnone
    rw [exec_reorderDeadline]
    exact congrArg s.become (reorderDeadline_early hnone 255)
  case due =>
    rintro s now k g ⟨hdue, hnext⟩
    rw [exec_reorderDeadline]
    exact congrArg s.become (reorderDeadline_due hdue hnext 255)

end Sys2Proof.Machine
end

section
/-! PROOFS. What each Kervon command of the trunks and the lanes comes to where its conditions hold (O27). -/

namespace Sys2Proof.Machine

section
variable {v d : Dev}

/-! ### Trunks (R314, R315) -/

/-- No other trunk uses a port of this one (R314). -/
theorem trunkPorts_unshared {rcd : TrunkRec} (hports : ∀ e ∈ v.imc.trunks, e.1 ≠ rcd.trunk → ∀ p ∈ trunkPorts e.2.rcd, p ∉ trunkPorts rcd) :
    v.imc.trunks.any (fun e => e.1 != rcd.trunk && (trunkPorts e.2.rcd).any (fun p => (trunkPorts rcd).contains p)) = false := by
  refine List.any_eq_false.mpr (fun e he => ?_)
  simpa using hports e he

/-- What IMC_TRUNK_SET comes to for a trunk not configured yet, where its record stands, its ports are its own, and an engine takes it
and a queue where it sends (R314). -/
theorem actImcTrunkSet_new {rcd : TrunkRec} {e : Nat} {w : Option Nat} (hfields : trunkFieldsOk rcd = true)
    (hbonded : rcd.bonded = true → v.acc.cfg.native = true)
    (hports : ∀ e ∈ v.imc.trunks, e.1 ≠ rcd.trunk → ∀ p ∈ trunkPorts e.2.rcd, p ∉ trunkPorts rcd)
    (hnew : tget v.imc.trunks rcd.trunk = none) (hplace : placeTrunk v rcd none = .ok (e, w))
    (hqueue : rcd.outbound = true → (trunkQueue v (trunkRoot v rcd) rcd.trunk).isSome = true) :
    actImcTrunkSet rcd v d = .stage false e [e] (waitOf w) (wakeOpt d w) := by
  have hmode : ¬ (rcd.bonded = true ∧ ¬ v.acc.cfg.native = true) := fun ⟨hbond, hstandard⟩ => hstandard (hbonded hbond)
  have hroom : ¬ (rcd.outbound = true ∧ (trunkQueue v (trunkRoot v rcd) rcd.trunk).isNone = true) :=
    fun ⟨hout, hnone⟩ => by simpa [Option.isNone_iff_eq_none.mp hnone] using hqueue hout
  simp only [actImcTrunkSet, hfields, trunkPorts_unshared hports, hnew, hplace, not_true_eq_false, Bool.false_eq_true, hmode, hroom,
    Option.map_none, Option.getD_none, true_and, false_and, or_self, if_false]

/-- What IMC_TRUNK_CLEAR comes to for a trunk that is configured and that no route uses (R315). -/
theorem actImcTrunkClear_unrouted {trunk : Nat} (hthere : (tget v.imc.trunks trunk).isSome = true) (hidle : trunkRouted v trunk = false) :
    actImcTrunkClear trunk v d = .stage false 0 [] none d :=
  (if_neg (by simpa [Option.isSome_iff_ne_none] using hthere)).trans (if_neg (Bool.eq_false_iff.mp hidle))

/-! ### Lanes (R325, R334, R337) -/

/-- What LANE_GROUP_CONFIG comes to where its group has the mode, and TEST, where it is set, meets no unit in service and
no replacement in progress (R326, R336, R337). -/
theorem actLaneGroupConfig_good {group mode flags : Nat} (hgroup : group ≤ 4) (hmode : mode ≤ 2) (hflags : flags ≤ 3) (haccess : mode = 0 → group = 0)
    (hother : mode = 2 → group ≠ 0)
    (hrest : getField flags 1 1 = 1 → groupBusy v group = false ∧ (laneGroup v group).sparing = none) :
    actLaneGroupConfig group mode flags v d = .stage false 0 [] none d := by
  have hfields : ¬ (group > 4 ∨ mode > 2 ∨ flags > 3 ∨ (mode = 0 ∧ group ≠ 0) ∨ (mode = 2 ∧ group = 0)) := by omega
  have hquiet : ¬ (getField flags 1 1 = 1 ∧ (groupBusy v group ∨ (laneGroup v group).sparing.isSome)) := by
    rintro ⟨hflag, hbusy⟩
    obtain ⟨hidle, hnone⟩ := hrest hflag
    simp [hidle, hnone] at hbusy
  exact (if_neg hfields).trans (if_neg hquiet)

/-- What LANE_SPARE comes to for a data lane of a group with a spare: to take the spare for it, which must be free, or to give it back,
which must carry it; the lane is counted in its group (R334, R337, log 45). -/
theorem actLaneSpare_good {group lane action : Nat} (hgroup : group ≤ 4) (hspare : hasSpare group = true) (hlane : lane < dataLanes group)
    (haction : action = 0 ∧ (laneGroup v group).spareFor = none ∧ (laneGroup v group).sparing = none
      ∨ action = 1 ∧ (laneGroup v group).spareFor = some lane)
    (hslice : group = 0 → (tgetD v.acc.slices lane Slice.reset).ch ≠ .active) :
    actLaneSpare group lane action v d = .stage false 0 [] none d := by
  have hrange : action ≤ 1 := by omega
  have hfields : ¬ (group > 4 ∨ ¬ hasSpare group = true ∨ lane ≥ dataLanes group ∨ action > 1) := by
    simp [hspare, Nat.not_lt.mpr hgroup, Nat.not_le.mpr hlane, Nat.not_lt.mpr hrange, -not_lt, -not_le]
  have htake : ¬ (action = 0 ∧ ((laneGroup v group).spareFor.isSome ∨ (laneGroup v group).sparing.isSome)) := by
    rintro ⟨hzero, hheld⟩
    obtain ⟨-, hfree, hnone⟩ | ⟨hone, -⟩ := haction
    · simp [hfree, hnone] at hheld
    · omega
  have hgive : ¬ (action = 1 ∧ (laneGroup v group).spareFor ≠ some lane) := by
    rintro ⟨hone, hwrong⟩
    obtain ⟨hzero, -⟩ | ⟨-, hfor⟩ := haction
    · omega
    · exact hwrong hfor
  have hidle : ¬ (group = 0 ∧ (tgetD v.acc.slices lane Slice.reset).ch = .active) := fun ⟨hzero, hactive⟩ => hslice hzero hactive
  exact (if_neg hfields).trans ((if_neg htake).trans ((if_neg hgive).trans (if_neg hidle)))

end

/-- Settles O27: each command's own conditions give one result, and a packet that passes the checks comes to what that result says. -/
theorem trunkAndLaneCommandsComplete : Obligations.TrunkAndLaneCommandsComplete := by
  unfold Obligations.TrunkAndLaneCommandsComplete
  refine ⟨?trunkSet, ?trunkClear, ?trunkQuery, ?groupConfig, ?recal, ?spareTake, ?spareGive, ?laneQuery⟩
  case trunkSet =>
    rintro s h rcd e w t ⟨hfields, hbonded, hports, hnew, hplace, hqueue⟩
    exact kervon_stage t rfl (actImcTrunkSet_new hfields hbonded hports hnew hplace hqueue) (plain_wakeOpt t w)
  case trunkClear =>
    rintro s h trunk t ⟨hthere, hidle⟩
    exact kervon_stage t rfl (actImcTrunkClear_unrouted hthere hidle) (plain_start t)
  case trunkQuery =>
    intro s h trunk x t hx
    refine kervon_read t rfl ?_ (plain_start t)
    simp only [actImcTrunkQuery, hx]
  case groupConfig =>
    rintro s h group mode flags t ⟨hgroup, hmode, hflags, haccess, hother, hrest⟩
    exact kervon_stage t rfl (actLaneGroupConfig_good hgroup hmode hflags haccess hother hrest) (plain_start t)
  case recal => exact fun s h lane t hlane => kervon_stage t rfl (if_neg (Nat.not_lt.mpr hlane)) (plain_start t)
  case spareTake =>
    rintro s h group lane action t ⟨hgroup, hspare, hlane, hzero, hfree, hnone, hslice⟩
    exact kervon_stage t rfl (actLaneSpare_good hgroup hspare hlane (.inl ⟨hzero, hfree, hnone⟩) hslice) (plain_start t)
  case spareGive =>
    rintro s h group lane action t ⟨hgroup, hspare, hlane, hone, hfor, hslice⟩
    exact kervon_stage t rfl (actLaneSpare_good hgroup hspare hlane (.inr ⟨hone, hfor⟩) hslice) (plain_start t)
  case laneQuery => exact fun s h lane t hlane => kervon_read t rfl (if_neg (Nat.not_lt.mpr hlane)) (plain_start t)

end Sys2Proof.Machine
end

section
/-! PROOFS. What HELLO, TOPO, KEEPALIVE, lane copies, data and media of the cascade ports come to (O45). -/

namespace Sys2Proof.Machine

section
variable {d : Dev} {h : CascHdr} {t : CascType} {pay : List Byte}

/-! ### A frame that is taken, and one whose check fails (R537, R538, R540) -/

theorem domOn_cascGot (h : CascHdr) (control : Bool) (d : Dev) (k : Nat) : domOn (cascGot h control d) k = domOn d k := by
  unfold cascGot
  cases control <;> dsimp only <;> split_ifs <;> rfl

theorem cascGot_domain (h : CascHdr) (control : Bool) (d : Dev) : (cascGot h control d).casc.domain = d.casc.domain := by
  unfold cascGot
  cases control <;> dsimp only <;> split_ifs <;> rfl

/-- A CONTROL frame to the neighbour that is taken is acted on, whatever its DST. -/
theorem cascCtlRx_near {c : CascCtl} (H : CascHears d h .control (ctlBytes c)) (k : OutKind) (f : Dev → Dev) :
    cascCtlRx h c true k f d = f (cascGot h true d) := by
  rw [cascCtlRx, cascRx_of_hears H]
  exact if_pos (.inl rfl)

/-- A frame to this device that is taken is acted on and goes no further. -/
theorem cascRx_mine (H : CascHears d h t pay) (hdst : h.dst = d.casc.device) (k : OutKind) (corr : Int) (f : Dev → Dev) :
    cascRx h t pay false k corr f d = f (cascGot h (t == .control) d) := by
  obtain ⟨-, hdev, -⟩ := cascGot_keeps h (t == .control) d
  have hmine : h.dst = (cascGot h (t == .control) d).casc.device := hdst.trans hdev.symm
  rw [cascRx_of_hears H]
  simp only [Bool.false_eq_true, if_false, cascForward_ends (.inl hmine)]
  exact if_pos (.inr (.inl hmine))

/-- A KEEPALIVE that is taken is forwarded where it has to go on, and nothing else comes of it. -/
theorem cascCtlRx_keepalive (H : CascHears d h .control (ctlBytes .keepalive)) :
    cascCtlRx h .keepalive false .keepalive id d = cascForward h .keepalive .control h.corr (ctlBytes .keepalive) (cascGot h true d) := by
  rw [cascCtlRx, cascRx_of_hears H]
  exact ite_self _

/-- A frame of others with hops left goes on by the other port, where that is UP. -/
theorem cascForward_onward (hdst : h.dst ≠ d.casc.device) (hsrc : h.src ≠ d.casc.device) (hhops : h.hops ≠ 0) (hup : cascUp d (1 - h.port) = true)
    (k : OutKind) (t : CascType) (corr : Int) (pay : List Byte) :
    cascForward h k t corr pay d = cascTx d k (1 - h.port) t (h.hops - 1) h.src h.dst corr pay :=
  (if_neg (not_or_intro hdst hsrc)).trans ((if_neg hhops).trans (if_pos hup))

/-- A frame to one other device with no hops left is dropped and counted. -/
theorem cascForward_spent (hdst : h.dst ≠ d.casc.device) (hsrc : h.src ≠ d.casc.device) (hhops : h.hops = 0) (hone : h.dst ≠ 0xFF)
    (k : OutKind) (t : CascType) (corr : Int) (pay : List Byte) :
    cascForward h k t corr pay d = onCascPort d h.port (fun x => { x with hopsDrop := satInc x.hopsDrop }) :=
  (if_neg (not_or_intro hdst hsrc)).trans ((if_pos hhops).trans (if_neg hone))

/-- A frame comes in on a port that CASC keeps: it is there, and not DOWN. -/
theorem cascRx_guard (hport : h.port ≤ 1) (hon : domOn d 39 = true) (hst : (cascPort d h.port).st ≠ .down) :
    ¬ (h.port > 1 ∨ ¬ domOn d 39 ∨ (cascPort d h.port).st = .down) := by
  simp [hon, hst, Nat.not_lt.mpr hport, -not_lt]

theorem cascRx_badCrc (hport : h.port ≤ 1) (hon : domOn d 39 = true) (hst : (cascPort d h.port).st ≠ .down) (hcrc : crcHolds h t pay = false)
    (near : Bool) (k : OutKind) (corr : Int) (f : Dev → Dev) :
    cascRx h t pay near k corr f d
      = onCascPort (onCascPort d h.port (fun x => { x with rx := satInc x.rx })) h.port (fun x => { x with crcErr := satInc x.crcErr }) :=
  (if_neg (cascRx_guard hport hon hst)).trans (if_pos (Bool.eq_false_iff.mp hcrc))

/-- The check of a TAG reads nothing that counting the frame changes. -/
theorem tagHolds_onCascPort (d : Dev) (p : Nat) (f : CascPort → CascPort) (h : CascHdr) (t : CascType) (pay : List Byte) :
    tagHolds (onCascPort d p f) h t pay = tagHolds d h t pay := rfl

theorem cascRx_badTag (hport : h.port ≤ 1) (hon : domOn d 39 = true) (hst : (cascPort d h.port).st ≠ .down) (hcrc : crcHolds h t pay = true)
    (htag : tagHolds d h t pay = false) (near : Bool) (k : OutKind) (corr : Int) (f : Dev → Dev) :
    cascRx h t pay near k corr f d = badTag h (t == .control) (onCascPort d h.port (fun x => { x with rx := satInc x.rx })) := by
  have hpass : ¬ ¬ crcHolds h t pay = true := not_not_intro hcrc
  have hfail : ¬ tagHolds (onCascPort d h.port (fun x => { x with rx := satInc x.rx })) h t pay = true := by
    rw [tagHolds_onCascPort, htag]; exact Bool.false_ne_true
  exact (if_neg (cascRx_guard hport hon hst)).trans ((if_neg hpass).trans (if_pos hfail))

/-! ### What a fall of a port and a bad TAG leave -/

theorem cascPort_raiseLeaf (d : Dev) (w bit p : Nat) : cascPort (raiseLeaf d w bit) p = cascPort d p := by
  simp [cascPort]

theorem cascPort_raiseIf (c : Bool) (d : Dev) (w bit p : Nat) : cascPort (raiseIf c d w bit) p = cascPort d p := by
  simp [cascPort]

theorem leafWord_onCascPort (d : Dev) (p : Nat) (f : CascPort → CascPort) (w : Nat) :
    leafWord (onCascPort d p f).sys.int w = leafWord d.sys.int w := rfl

/-- A leaf that is set stays set as others are raised. -/
theorem leafBit_raiseLeaf {w bit : Nat} (hset : (leafWord d.sys.int w).getLsbD bit = true) (v b : Nat) :
    (leafWord (raiseLeaf d v b).sys.int w).getLsbD bit = true := by
  rw [raiseLeaf_leaf]
  split
  · next heq => subst heq; rw [BitVec.getLsbD_or, hset, Bool.true_or]
  · exact hset

theorem leafBit_raiseIf {w bit : Nat} (hset : (leafWord d.sys.int w).getLsbD bit = true) (c : Bool) (v b : Nat) :
    (leafWord (raiseIf c d v b).sys.int w).getLsbD bit = true := by
  unfold raiseIf
  split
  · exact leafBit_raiseLeaf hset v b
  · exact hset

/-- The device as a port has fallen with `reason`, before it is told of (R537). -/
def portFallen (d : Dev) (p reason : Nat) : Dev :=
  onCasc (onCascPort d p (fun x => { x with st := .down, reason := reason, downAt := d.bell.tick, hellos := 0, badTags := 0, dist := [] }))
    (fun c => { c with topoDue := true })

theorem cascDown_eq (d : Dev) (p reason : Nat) :
    cascDown d p reason = raiseIf (cascUp d p && (reason == 3 || reason == 4)) (portFallen d p reason) 23 (2 + p) := rfl

theorem cascPort_topoDue (d : Dev) (due : Bool) (p : Nat) : cascPort (onCasc d (fun c => { c with topoDue := due })) p = cascPort d p := rfl

theorem cascPort_portFallen (d : Dev) (p reason : Nat) :
    cascPort (portFallen d p reason) p
      = { cascPort d p with st := .down, reason := reason, downAt := d.bell.tick, hellos := 0, badTags := 0, dist := [] } := by
  rw [portFallen, cascPort_topoDue, cascPort_onCascPort]

theorem cascDown_authFail (d : Dev) (p reason : Nat) : (cascPort (cascDown d p reason) p).authFail = (cascPort d p).authFail := by
  rw [cascDown_eq, cascPort_raiseIf, cascPort_portFallen]

theorem leafBit_cascDown {w bit : Nat} (hset : (leafWord d.sys.int w).getLsbD bit = true) (p reason : Nat) :
    (leafWord (cascDown d p reason).sys.int w).getLsbD bit = true := by
  rw [cascDown_eq]
  exact leafBit_raiseIf (d := portFallen d p reason) hset ..

/-- A CONTROL frame whose TAG fails is counted and told of, and may take the port DOWN as the last of a run (R537). -/
theorem badTag_control (h : CascHdr) (d : Dev) :
    (cascPort (badTag h true d) h.port).authFail = satInc (cascPort d h.port).authFail
      ∧ (leafWord (badTag h true d).sys.int 23).getLsbD 5 = true := by
  unfold badTag
  extract_lets told counted
  have hcount : (cascPort counted h.port).authFail = satInc (cascPort d h.port).authFail := by
    simp [counted, told, cascPort_raiseLeaf]
  have hleaf : (leafWord counted.sys.int 23).getLsbD 5 = true := by
    rw [leafWord_onCascPort]
    exact raiseLeaf_sets _ 23 (by decide)
  rw [if_neg (by decide)]
  split
  · exact ⟨(cascDown_authFail ..).trans hcount, leafBit_cascDown hleaf ..⟩
  · exact ⟨hcount, hleaf⟩

/-- A port that was UP goes DOWN for want of a lane or of frames: its leaf is raised (R537). -/
theorem cascDown_upFell {p : Nat} (hup : cascUp d p = true) : cascDown d p 4 = raiseLeaf (portFallen d p 4) 23 (2 + p) := by
  rw [cascDown_eq, hup]
  rfl

/-! ### HELLO (R537) -/

theorem helloRx_heard {p domain dev : Nat} (hdom : domain = d.casc.domain) (hother : dev ≠ d.casc.device) (hst : (cascPort d p).st = .hello) :
    helloRx p domain dev d
      = if 3 ≤ (cascPort d p).hellos + 1 then
          topoUpdate (raiseLeaf (onCascPort (onCascPort d p (fun x => { x with peer := dev, hellos := x.hellos + 1 })) p (fun x => { x with st := .up })) 23 p)
        else onCascPort d p (fun x => { x with peer := dev, hellos := x.hellos + 1 }) := by
  simp [helloRx, hst, hdom, hother]

/-- A port that hears HELLOs is in HELLO or UP. -/
theorem helloRx_guard {p : Nat} (hst : (cascPort d p).st = .hello ∨ (cascPort d p).st = .up) :
    ¬ ((cascPort d p).st ≠ .hello ∧ (cascPort d p).st ≠ .up) := by
  rwa [← not_or, not_not]

theorem helloRx_otherDomain {p domain : Nat} (hst : (cascPort d p).st = .hello ∨ (cascPort d p).st = .up) (hdom : domain ≠ d.casc.domain) (dev : Nat) :
    helloRx p domain dev d = cascDown d p 1 := (if_neg (helloRx_guard hst)).trans (if_pos hdom)

theorem helloRx_sameDevice {p domain dev : Nat} (hst : (cascPort d p).st = .hello ∨ (cascPort d p).st = .up) (hdom : domain = d.casc.domain)
    (hdev : dev = d.casc.device) : helloRx p domain dev d = raiseLeaf (cascDown d p 2) 23 6 :=
  (if_neg (helloRx_guard hst)).trans ((if_neg (not_not_intro hdom)).trans (if_pos hdev))

theorem exec_cascHelloRx_taken {s : State} {domain dev rank : Nat} (H : CascHears s.start h .control (ctlBytes (.hello domain dev rank))) :
    exec (.cascHelloRx h domain dev rank) s = s.become (helloRx h.port domain dev (cascGot h true s.start)) :=
  (b_cascHelloRx ..).trans (congrArg s.become (cascCtlRx_near H ..))

/-! ### Sending on both ports (R537, R539) -/

/-- A frame sent on a port moves no port's state. -/
theorem cascTx_st (d : Dev) (k : OutKind) (p : Nat) (t : CascType) (hops src dst : Nat) (corr : Int) (pay : List Byte) (q : Nat) :
    (cascPort (cascTx d k p t hops src dst corr pay) q).st = (cascPort d q).st := by
  show (cascPort (onCascPort d p (fun x => { x with tx := satInc x.tx })) q).st = (cascPort d q).st
  by_cases hq : q = p
  · rw [hq, cascPort_onCascPort]
  · rw [cascPort_onCascPort_other _ _ _ _ hq]

/-- What is sent on each port in turn, of which port 0 alone is in a state to send. -/
theorem ports_first {P : PortSt → Prop} [DecidablePred P] {send : Dev → Nat → Dev} (hsend : ∀ d p q, (cascPort (send d p) q).st = (cascPort d q).st)
    (h0 : P (cascPort d 0).st) (h1 : ¬ P (cascPort d 1).st) :
    [0, 1].foldl (fun d p => if P (cascPort d p).st then send d p else d) d = send d 0 := by
  simp [h0, hsend, h1]

/-- The same where port 1 alone is. -/
theorem ports_second {P : PortSt → Prop} [DecidablePred P] {send : Dev → Nat → Dev} (h0 : ¬ P (cascPort d 0).st) (h1 : P (cascPort d 1).st) :
    [0, 1].foldl (fun d p => if P (cascPort d p).st then send d p else d) d = send d 1 := by
  simp [h0, h1]

/-! ### MEDIA (R542, R543) -/

/-- A contribution that comes in another tick than its own is counted as late, and not used. -/
theorem mediaRx_late {tick : Nat} (hlate : tick ≠ captureTick d 2) (tag : Nat) (ins : List ContribIn) :
    mediaRx (.contribution tag tick ins) d = raiseLeaf (onCasc d (fun c => { c with contribLate := satInc c.contribLate })) 23 7 := if_pos hlate

end

/-- Settles O45, event by event: a frame that is taken leaves `cascGot`, and the conditions say what is done with it there. -/
theorem cascadePortEventsComplete : Obligations.CascadePortEventsComplete := by
  unfold Obligations.CascadePortEventsComplete
  refine ⟨?helloUp, ?hello, ?helloDomain, ?helloDevice, ?topo, ?keepalive, ?keepaliveOn, ?keepaliveSpent, ?badCrc, ?badTag, ?laneCopy, ?sendFirst,
    ?sendSecond, ?sendHello, ?sendTopo, ?timeout, ?retry, ?retryHeld, ?data, ?media, ?mediaLate⟩
  case helloUp =>
    rintro s h domain dev rank ⟨H, hst, hdom, hother, hthird⟩
    obtain ⟨-, hdev, -⟩ := cascGot_keeps h true s.start
    rw [exec_cascHelloRx_taken H, helloRx_heard (hdom.trans (cascGot_domain ..).symm) (by rwa [hdev]) hst, if_pos hthird]
  case hello =>
    rintro s h domain dev rank ⟨H, hst, hdom, hother, hfew⟩
    obtain ⟨-, hdev, -⟩ := cascGot_keeps h true s.start
    rw [exec_cascHelloRx_taken H, helloRx_heard (hdom.trans (cascGot_domain ..).symm) (by rwa [hdev]) hst, if_neg (Nat.not_le.mpr hfew)]
  case helloDomain =>
    rintro s h domain dev rank ⟨H, hst, hdom⟩
    rw [exec_cascHelloRx_taken H, helloRx_otherDomain hst (by rwa [cascGot_domain])]
  case helloDevice =>
    rintro s h domain dev rank ⟨H, hst, hdom, hdev⟩
    obtain ⟨-, hkept, -⟩ := cascGot_keeps h true s.start
    rw [exec_cascHelloRx_taken H, helloRx_sameDevice hst (hdom.trans (cascGot_domain ..).symm) (hdev.trans hkept.symm)]
  case topo =>
    intro s h hops H
    rw [b_cascTopoRx, cascCtlRx_near H]
  case keepalive =>
    rintro s h ⟨H, hdst⟩
    rw [b_cascKeepaliveRx, cascCtlRx, cascRx_mine H hdst]
    rfl
  case keepaliveOn =>
    rintro s h ⟨H, hdst, hsrc, hhops, hup⟩
    obtain ⟨-, hdev, -⟩ := cascGot_keeps h true s.start
    rw [b_cascKeepaliveRx, cascCtlRx_keepalive H, cascForward_onward (by rwa [hdev]) (by rwa [hdev]) hhops hup]
  case keepaliveSpent =>
    rintro s h ⟨H, hdst, hsrc, hhops, hone⟩
    obtain ⟨-, hdev, -⟩ := cascGot_keeps h true s.start
    rw [b_cascKeepaliveRx, cascCtlRx_keepalive H, cascForward_spent (by rwa [hdev]) (by rwa [hdev]) hhops hone]
  case badCrc =>
    rintro s h ⟨hport, hon, hst, hcrc⟩
    rw [b_cascKeepaliveRx, cascCtlRx, cascRx_badCrc hport hon hst hcrc]
  case badTag =>
    rintro s h ⟨hport, hon, hst, hcrc, htag⟩
    rw [b_cascKeepaliveRx, ends_become, cascCtlRx, cascRx_badTag hport hon hst hcrc htag]
    obtain ⟨hcount, hleaf⟩ := badTag_control h (onCascPort s.start h.port (fun x => { x with rx := satInc x.rx }))
    exact ⟨hcount.trans (by rw [cascPort_onCascPort]), hleaf⟩
  case laneCopy =>
    rintro s h port lane ⟨H, hdst, hlane⟩
    rw [b_cascLaneCopyRx, cascCtlRx, cascRx_mine H hdst]
    exact congrArg s.become (if_neg (Nat.not_lt.mpr hlane))
  case sendFirst =>
    rintro s ⟨hon, hst, hdown⟩
    rw [b_cascKeepaliveSend]
    refine congrArg s.become ((if_neg (not_not_intro hon)).trans ?_)
    exact ports_first (P := fun st => st = .hello ∨ st = .up) (fun d p q => cascTx_st ..) hst (by simp [hdown])
  case sendSecond =>
    rintro s ⟨hon, hdown, hup⟩
    rw [b_cascKeepaliveSend]
    refine congrArg s.become ((if_neg (not_not_intro hon)).trans ?_)
    exact ports_second (P := fun st => st = .hello ∨ st = .up) (by simp [hdown]) (.inr hup)
  case sendHello =>
    rintro s ⟨hon, hst, hdown⟩
    rw [b_cascHelloSend]
    refine congrArg s.become ((if_neg (not_not_intro hon)).trans ?_)
    exact ports_first (P := fun st => st = .aligning ∨ st = .hello) (fun d p q => cascTx_st ..) hst (by simp [hdown])
  case sendTopo =>
    intro s hon
    rw [b_cascTopoSend]
    exact congrArg s.become (if_pos hon)
  case timeout =>
    rintro s port ⟨hport, hst⟩
    have hup : cascUp s.start port = true := beq_iff_eq.mpr hst
    simp only [b_cascPortTimeout, if_pos (And.intro hport hup), cascDown_upFell hup]
    rfl
  case retry =>
    intro s port hdue
    rw [b_cascPortRetry]
    exact congrArg s.become (if_pos hdue)
  case retryHeld =>
    rintro s port ⟨-, -, hreason⟩
    rw [b_cascPortRetry]
    refine congrArg s.become (if_neg ?_)
    rintro ⟨-, -, hother, -⟩
    omega
  case data =>
    rintro s h bytes stamp now ⟨H, hup, hdst, hon⟩
    have hparse : domOn (cascGot h false s.start) 14 = true := (domOn_cascGot ..).trans hon
    rw [b_cascDataRx]
    refine congrArg s.become ((if_neg (not_not_intro hup)).trans ?_)
    exact (cascRx_mine H hdst ..).trans (if_pos hparse)
  case media =>
    rintro s h pay ⟨H, hup, hdst⟩
    simp only [b_cascMediaRx, if_pos hup, cascRx_mine H hdst]
    rfl
  case mediaLate =>
    rintro s h pay tag tick ins ⟨H, rfl, hlate, hup, hdst⟩
    obtain ⟨hbell, -, -⟩ := cascGot_keeps h false s.start
    simp only [b_cascMediaRx, if_pos hup, cascRx_mine H hdst]
    exact congrArg s.become (mediaRx_late (d := cascGot h false s.start) (by rwa [captureTick, hbell]) tag ins)

end Sys2Proof.Machine
end

section
/-! PROOFS. What failures, adaptation, eye scans, recalibration, markers and slips of the lanes come to (O51). -/

namespace Sys2Proof.Machine

section
variable {d : Dev} {n : Nat}

/-! ### Lanes, groups and leaves that an operation leaves as they are -/

/-- What does not touch LANE leaves every lane. -/
theorem Touches.laneOf {ps : List Part} {d e : Dev} (t : Touches ps d e) (k : Nat) (h : ps.contains .lane = false := by rfl) :
    laneOf e k = laneOf d k := congrArg (fun x : LaneState => tgetD x.lanes k Lane.reset) (t.same .lane h)

@[simp] theorem laneOf_raiseLeaf (d : Dev) (w bit k : Nat) : laneOf (raiseLeaf d w bit) k = laneOf d k := by simp [laneOf]

@[simp] theorem laneOf_onGroupL (d : Dev) (g : Nat) (f : LaneGroup → LaneGroup) (k : Nat) : laneOf (onGroupL d g f) k = laneOf d k := rfl

@[simp] theorem laneOf_laneOutOfService (d : Dev) (n k : Nat) : laneOf (laneOutOfService d n) k = laneOf d k := (laneOutOfService_touch d n).laneOf k

@[simp] theorem laneOf_cascDown (d : Dev) (p reason k : Nat) : laneOf (cascDown d p reason) k = laneOf d k := (cascDown_touch d p reason).laneOf k

@[simp] theorem laneOf_cascAligned (d : Dev) (p k : Nat) : laneOf (cascAligned d p) k = laneOf d k := (cascAligned_touch d p).laneOf k

@[simp] theorem laneGroup_onLane (d : Dev) (k : Nat) (f : Lane → Lane) (g : Nat) : laneGroup (onLane d k f) g = laneGroup d g := rfl

theorem leafWord_raiseLeaf_other {w v : Nat} (hne : w ≠ v) (d : Dev) (bit : Nat) :
    leafWord (raiseLeaf d v bit).sys.int w = leafWord d.sys.int w := by
  rw [raiseLeaf_leaf, if_neg hne]

theorem leafWord_cascDown {w : Nat} (hne : w ≠ 23) (d : Dev) (p reason : Nat) : leafWord (cascDown d p reason).sys.int w = leafWord d.sys.int w := by
  rw [cascDown_eq, raiseIf]
  split
  · exact leafWord_raiseLeaf_other hne (portFallen d p reason) _
  · rfl

theorem leafWord_linkTo {w : Nat} (hne : w ≠ 12) (d : Dev) (p : Nat) (up : Bool) : leafWord (linkTo d p up).sys.int w = leafWord d.sys.int w := by
  unfold linkTo
  split
  · rfl
  · exact leafWord_raiseLeaf_other hne ..

/-- A lane that takes its port out of service raises leaves of the client and of the cascade ports alone. -/
theorem leafWord_laneOutOfService {w : Nat} (hcli : w ≠ 12) (hcasc : w ≠ 23) (d : Dev) (n : Nat) :
    leafWord (laneOutOfService d n).sys.int w = leafWord d.sys.int w := by
  unfold laneOutOfService
  split
  · refine foldl_keeps (fun d : Dev => leafWord d.sys.int w) _ _ _ fun e p => ?_
    extract_lets o onPath mine
    split
    · exact leafWord_linkTo hcli ..
    · rfl
  · split
    · exact leafWord_cascDown hcasc ..
    · rfl
  · split
    · exact leafWord_cascDown hcasc ..
    · rfl
  · rfl

/-! ### A lane that fails (R331 to R333) -/

/-- A lane whose recalibration stops. -/
def recalStopped (d : Dev) (n : Nat) : Dev := onLane d n (fun l => { l with recal := none })

/-- What a failed lane's recalibration stopped may be followed by: nothing, its port out of service, with NO_SPARE told of or not, or a replacement. -/
theorem laneFailed_cases (d : Dev) (n : Nat) :
    laneFailed d n = recalStopped d n ∨ laneFailed d n = laneOutOfService (recalStopped d n) n
      ∨ laneFailed d n = laneOutOfService (raiseLeaf (recalStopped d n) 10 (16 + groupOfLane n)) n
      ∨ ∃ f, laneFailed d n = onGroupL (recalStopped d n) (groupOfLane n) f := by
  simp only [laneFailed, recalStopped]
  split_ifs <;> simp

theorem laneOf_laneFailed (d : Dev) (n k : Nat) : laneOf (laneFailed d n) k = laneOf (recalStopped d n) k := by
  obtain h | h | h | ⟨f, h⟩ := laneFailed_cases d n <;> simp [h]

theorem leafWord_laneFailed {w : Nat} (hlane : w ≠ 10) (hcli : w ≠ 12) (hcasc : w ≠ 23) (d : Dev) (n : Nat) :
    leafWord (laneFailed d n).sys.int w = leafWord d.sys.int w := by
  obtain h | h | h | ⟨f, h⟩ := laneFailed_cases d n <;> rw [h]
  · rfl
  · exact leafWord_laneOutOfService hcli hcasc ..
  · rw [leafWord_laneOutOfService hcli hcasc, leafWord_raiseLeaf_other hlane]
    rfl
  · rfl

theorem laneFailed_noSpare (hspare : hasSpare (groupOfLane n) = false) (d : Dev) : laneFailed d n = laneOutOfService (recalStopped d n) n :=
  if_pos (Bool.eq_false_iff.mp hspare)

/-- A data lane of a cascade port is to be replaced at the next bell where AUTO_SPARE is 1 and the spare is free. -/
theorem laneFailed_spared (hcasc : groupOfLane n = 2 ∨ groupOfLane n = 3) (hdata : n - firstLane (groupOfLane n) < dataLanes (groupOfLane n))
    (hauto : (laneGroup d (groupOfLane n)).autoSpare = true) (hfree : (laneGroup d (groupOfLane n)).spareFor = none)
    (hidle : (laneGroup d (groupOfLane n)).sparing = none) :
    laneFailed d n = onGroupL (recalStopped d n) (groupOfLane n) (fun x =>
      { x with sparing := some { lane := n - firstLane (groupOfLane n), back := false, asked := false, copies := 0, endTick := 0 } }) := by
  have hspare : hasSpare (groupOfLane n) = true := by rcases hcasc with h | h <;> rw [h] <;> rfl
  have hgroup : groupOfLane n ≠ 0 := by omega
  simp [laneFailed, hspare, hgroup, hauto, hfree, hidle, Nat.ne_of_lt hdata, recalStopped]

/-- An event of a lane that is there and in service acts. -/
theorem laneOn_guard (hn : n ≤ 31) (hon : laneOn d n = true) : ¬ (n > 31 ∨ ¬ laneOn d n) := by
  simp [hon, Nat.not_lt.mpr hn, -not_lt]

/-! ### Adaptation (R324) -/

/-- A lane as it adapts: its values follow those wanted unless ADAPT_FREEZE is 1, and it has signal, clock and adaptation. -/
def laneAdapts (peak gain : Nat) (dfe : List Nat) (flt : List (Nat × Nat)) (l : Lane) : Lane :=
  let l := if l.ctrl.getLsbD 8 then l else { adaptTaps l dfe flt with peak := min 15 peak, gain := min 63 gain }
  { l with signal := true, cdr := true, adapted := true }

/-- An adaptation that ends no replacement of an access lane changes its lane alone. -/
theorem exec_laneAdapted_alone {s : State} {lane : Nat} (hlane : lane ≤ 31) (hon : laneOn s.start lane = true)
    (hidle : (laneGroup s.start 0).sparing = none) (peak gain : Nat) (dfe : List Nat) (flt : List (Nat × Nat)) :
    exec (.laneAdapted lane peak gain dfe flt) s = s.become (onLane s.start lane (laneAdapts peak gain dfe flt)) := by
  rw [b_laneAdapted]
  refine congrArg s.become ((if_neg (laneOn_guard hlane hon)).trans ?_)
  simp only [laneGroup_onLane, hidle]
  rfl

theorem laneAdapts_frozen {l : Lane} (hfrozen : l.ctrl.getLsbD 8 = true) (peak gain : Nat) (dfe : List Nat) (flt : List (Nat × Nat)) :
    laneAdapts peak gain dfe flt l = { l with signal := true, cdr := true, adapted := true } := by
  simp only [laneAdapts, hfrozen, if_true]

theorem laneAdapts_first {l : Lane} (hfree : l.ctrl.getLsbD 8 = false) (hnew : l.adapted = false) (peak gain : Nat) (dfe : List Nat)
    (flt : List (Nat × Nat)) :
    laneAdapts peak gain dfe flt l
      = { l with dfe := dfe.map (· % 256), flt := flt.map (fun f => (f.1 % 256, max 17 (min 80 f.2))), peak := min 15 peak, gain := min 63 gain,
                 signal := true, cdr := true, adapted := true } := by
  simp [laneAdapts, adaptTaps, hfree, hnew, -BitVec.getLsbD_eq_getElem]

theorem laneAdapts_further {l : Lane} (hfree : l.ctrl.getLsbD 8 = false) (hin : l.adapted = true) (peak gain : Nat) (dfe : List Nat)
    (flt : List (Nat × Nat)) :
    (laneAdapts peak gain dfe flt l).dfe = (List.range 16).map (fun k => tapStep (l.dfe.getD k 0) (dfe.getD k (l.dfe.getD k 0))) := by
  simp [laneAdapts, adaptTaps, hfree, hin, -BitVec.getLsbD_eq_getElem]

/-! ### Eye scans (R330) -/

/-- A lane as a scan leaves it: the eye measured, the runs of scans too small in height or width and of good ones, and EYE_LOW after 16. -/
def eyeScanned (d : Dev) (n height width : Nat) : Lane :=
  let l := laneOf d n
  let hBad := decide (height % 1024 < getField (eyeThOf d n).toNat 0 10)
  let wBad := decide (width % 1024 < getField (eyeThOf d n).toNat 16 10)
  let bh := if hBad then l.badHeight + 1 else 0
  let bw := if wBad then l.badWidth + 1 else 0
  let good := if hBad ∨ wBad then 0 else l.goodRun + 1
  { l with
    height := height % 1024, width := width % 1024, badHeight := min 16 bh, badWidth := min 16 bw, goodRun := min 16 good,
    eyeLow := decide (bh ≥ 16 ∨ bw ≥ 16) || (l.eyeLow && decide (good < 16)) }

/-- A scan of a lane in service: the lane fails as it gains EYE_LOW. -/
theorem exec_eyeScan_on {s : State} {lane : Nat} (hlane : lane ≤ 31) (hon : laneOn s.start lane = true) (height width : Nat) :
    exec (.eyeScan lane height width) s = s.become (
      if (eyeScanned s.start lane height width).eyeLow ∧ ¬ (laneOf s.start lane).eyeLow then
        laneFailed (raiseLeaf (onLane s.start lane (fun _ => eyeScanned s.start lane height width)) 9 lane) lane
      else onLane s.start lane (fun _ => eyeScanned s.start lane height width)) := by
  rw [b_eyeScan]
  exact congrArg s.become (if_neg (laneOn_guard hlane hon))

theorem eyeScanned_good {height width : Nat} (hh : height < 1024) (hw : width < 1024) (hhigh : getField (eyeThOf d n).toNat 0 10 ≤ height)
    (hwide : getField (eyeThOf d n).toNat 16 10 ≤ width) (hopen : (laneOf d n).eyeLow = false) :
    (eyeScanned d n height width).height = height ∧ (eyeScanned d n height width).width = width ∧ (eyeScanned d n height width).badHeight = 0
      ∧ (eyeScanned d n height width).eyeLow = false := by
  simp [eyeScanned, Nat.mod_eq_of_lt hh, Nat.mod_eq_of_lt hw, Nat.not_lt.mpr hhigh, Nat.not_lt.mpr hwide, hopen, -not_lt]

/-- The sixteenth scan in a row that is too small in height gives EYE_LOW. -/
theorem eyeScanned_low {height : Nat} (hlow : height < getField (eyeThOf d n).toNat 0 10) (hrun : (laneOf d n).badHeight = 15) (width : Nat) :
    (eyeScanned d n height width).eyeLow = true := by
  have hbad : height % 1024 < getField (eyeThOf d n).toNat 0 10 := Nat.lt_of_le_of_lt (Nat.mod_le ..) hlow
  simp [eyeScanned, hbad, hrun]

/-! ### Recalibration (R325) -/

theorem laneOn_recalLane (d : Dev) (m k : Nat) : laneOn (recalLane d m) k = laneOn d k := by
  have hctrl : (laneOf (recalLane d m) k).ctrl = (laneOf d k).ctrl := by
    unfold recalLane
    by_cases hk : k = m
    · rw [hk, laneOf_onLane]
    · rw [laneOf_onLane_other _ _ _ _ hk]
  rw [laneOn, hctrl]
  rfl

/-- Every lane in service of a list has its recalibration begun, and a lane whose recalibration has begun keeps it so. -/
theorem recal_foldl {l : List Nat} {t : BitVec 64} (ht : d.bell.tick = t) (hon : laneOn d n = true) (hn : n ∈ l ∨ (laneOf d n).recal = some t) :
    (laneOf (l.foldl (fun d k => if laneOn d k then recalLane d k else d) d) n).recal = some t := by
  induction l generalizing d with
  | nil => exact hn.resolve_left List.not_mem_nil
  | cons k r ih =>
    rw [List.foldl_cons]
    by_cases hk : k = n
    · subst hk
      rw [if_pos hon]
      exact ih ht ((laneOn_recalLane ..).trans hon) (.inr (by rw [recalLane, laneOf_onLane, ht]))
    · have hrest : n ∈ r ∨ (laneOf d n).recal = some t := hn.imp_left fun h => (List.mem_cons.mp h).resolve_left (Ne.symm hk)
      split
      · refine ih ht ((laneOn_recalLane ..).trans hon) (hrest.imp_right fun h => ?_)
        rwa [recalLane, laneOf_onLane_other _ _ _ _ (Ne.symm hk)]
      · exact ih ht hon hrest

/-! ### Markers (R327, R328) -/

/-- The alignment of a cascade port leaves every lane as it is. -/
theorem laneOf_alignStep (d : Dev) (g skew k : Nat) : laneOf (alignStep d g skew) k = laneOf d k := by
  unfold alignStep
  dsimp only
  split_ifs <;> simp

theorem sparingStep_idle {g : Nat} (hidle : (laneGroup d g).sparing = none) (lane lf : Nat) (copy compareOk : Bool) :
    sparingStep d g lane lf copy compareOk = d := by
  simp [sparingStep, hidle]

/-- A marker position of a lane that takes markers. -/
theorem laneMarkerRx_guard {lane : Nat} (hlane : lane ≤ 31) (hcasc : groupOfLane lane = 2 ∨ groupOfLane lane = 3) (hon : laneOn d lane = true)
    (hmode : (laneGroup d (groupOfLane lane)).mode = 2) :
    ¬ (lane > 31 ∨ (groupOfLane lane ≠ 2 ∧ groupOfLane lane ≠ 3) ∨ ¬ laneOn d lane ∨ (laneGroup d (groupOfLane lane)).mode ≠ 2) := by
  have hgroup : ¬ (groupOfLane lane ≠ 2 ∧ groupOfLane lane ≠ 3) := by omega
  simp only [hgroup, hon, hmode, Nat.not_lt.mpr hlane, ne_eq, not_true_eq_false, or_self, not_false_eq_true]

/-- A lane's lock with one expected position of a marker judged. -/
def markTaken (d : Dev) (n : Nat) (marker : List Byte) : Dev := onLane d n (fun l => markStep l (markerOk marker) (markerCount marker))

/-- A cascade port as a marker position of one of its lanes has been judged, and its alignment with it. -/
def markerJudged (d : Dev) (n : Nat) (marker : List Byte) (skew : Nat) : Dev := alignStep (markTaken d n marker) (groupOfLane n) skew

theorem laneOf_markerJudged (d : Dev) (n : Nat) (marker : List Byte) (skew : Nat) :
    laneOf (markerJudged d n marker skew) n = markStep (laneOf d n) (markerOk marker) (markerCount marker) := by
  rw [markerJudged, laneOf_alignStep, markTaken, laneOf_onLane]

/-- A marker position that moves no replacement: it is judged, and a lane that loses its lock by it may have failed (R328, R331). -/
theorem exec_laneMarkerRx_judged {s : State} {lane : Nat} (hlane : lane ≤ 31) (hcasc : groupOfLane lane = 2 ∨ groupOfLane lane = 3)
    (hon : laneOn s.start lane = true) (hmode : (laneGroup s.start (groupOfLane lane)).mode = 2) {marker : List Byte}
    (hidle : markerOk marker = true → (laneGroup s.start (groupOfLane lane)).sparing = none) (skew : Nat) (compareOk : Bool) :
    exec (.laneMarkerRx lane marker skew compareOk) s = s.become (
      if (laneOf s.start lane).markLock ∧ ¬ (laneOf (markerJudged s.start lane marker skew) lane).markLock
          ∧ laneBad (markerJudged s.start lane marker skew) lane then
        laneFailed (markerJudged s.start lane marker skew) lane
      else markerJudged s.start lane marker skew) := by
  have hstep : (if markerOk marker then
        sparingStep (markTaken s.start lane marker) (groupOfLane lane) lane (markerLane marker) (markerCopy marker) compareOk
      else markTaken s.start lane marker) = markTaken s.start lane marker := by
    split
    · next hok => exact sparingStep_idle (d := markTaken s.start lane marker) (hidle hok) ..
    · rfl
  rw [markerJudged, ← hstep, b_laneMarkerRx]
  exact congrArg s.become (if_neg (laneMarkerRx_guard hlane hcasc hon hmode))

theorem markerCount_lt (marker : List Byte) : markerCount marker < 256 := (marker.getD 6 0).isLt

theorem markStep_second {l : Lane} (hmarks : 1 ≤ l.marks) {count : Nat} (hcount : count < 256) :
    (markStep l true count).markLock = true ∧ (markStep l true count).count = count ∧ (markStep l true count).missed = 0 := by
  simp [markStep, hmarks, Nat.mod_eq_of_lt hcount]

theorem markStep_fourthMissed {l : Lane} (hlock : l.markLock = true) (hmissed : l.missed = 3) (count : Nat) :
    (markStep l false count).markLock = false := by
  simp [markStep, hlock, hmissed]

end

/-- Settles O51, event by event: `exec` becomes what the event does to its lane, and the lane is read back. -/
theorem laneEventsComplete : Obligations.LaneEventsComplete := by
  unfold Obligations.LaneEventsComplete
  refine ⟨?failure, ?spared, ?adapted, ?adaptedOn, ?frozen, ?cdrLoss, ?eyeGood, ?eyeLow, ?recal, ?marker, ?markerLost, ?slip, ?slipOff⟩
  case failure =>
    rintro s lane ⟨hlane, hon, hbad, hspare⟩
    rw [b_laneFailure]
    exact congrArg s.become ((if_pos ⟨hlane, hon, hbad⟩).trans (laneFailed_noSpare hspare s.start))
  case spared =>
    rintro s lane ⟨hlane, hon, hbad, hcasc, hdata, hauto, hfree, hidle⟩
    simp only [b_laneFailure, ends_become, if_pos (And.intro hlane (And.intro hon hbad)), laneFailed_spared hcasc hdata hauto hfree hidle]
    exact ⟨by rw [laneGroup_onGroupL]; rfl, by rw [laneOf_onGroupL, recalStopped, laneOf_onLane]⟩
  case adapted =>
    rintro s lane peak gain dfe flt ⟨hlane, hon, hfree, hidle, hnew⟩
    rw [exec_laneAdapted_alone hlane hon hidle, ends_become, laneOf_onLane, laneAdapts_first hfree hnew]
    exact ⟨rfl, rfl, rfl, rfl, rfl, rfl⟩
  case adaptedOn =>
    rintro s lane peak gain dfe flt ⟨hlane, hon, hfree, hidle, hin⟩
    rw [exec_laneAdapted_alone hlane hon hidle, ends_become, laneOf_onLane, laneAdapts_further hfree hin]
  case frozen =>
    rintro s lane peak gain dfe flt ⟨hlane, hon, hfrozen, hidle⟩
    rw [exec_laneAdapted_alone hlane hon hidle, ends_become, laneOf_onLane, laneAdapts_frozen hfrozen]
    exact ⟨rfl, rfl, rfl⟩
  case cdrLoss =>
    rintro s lane ⟨hlane, hon, hsignal⟩
    have hact : ¬ (lane > 31 ∨ ¬ laneOn s.start lane ∨ ¬ (laneOf s.start lane).signal) := by
      simp [hon, hsignal, Nat.not_lt.mpr hlane, -not_lt]
    rw [b_laneCdrLoss]
    exact congrArg s.become (if_neg hact)
  case eyeGood =>
    rintro s lane height width ⟨hlane, hon, hh, hw, hhigh, hwide, hopen⟩
    obtain ⟨hheight, hwidth, hrun, hlow⟩ := eyeScanned_good hh hw hhigh hwide hopen
    rw [exec_eyeScan_on hlane hon, ends_become, if_neg (by simp [hlow]), laneOf_onLane]
    exact ⟨hheight, hwidth, hrun, hlow⟩
  case eyeLow =>
    rintro s lane height width ⟨hlane, hon, hsmall, hrun, hopen⟩
    have hlow := eyeScanned_low hsmall hrun width
    rw [exec_eyeScan_on hlane hon, ends_become, if_pos ⟨hlow, by simp [hopen]⟩, laneOf_laneFailed, leafWord_laneFailed (by decide) (by decide) (by decide)]
    refine ⟨?_, raiseLeaf_sets _ 9 (Nat.lt_succ_of_le hlane)⟩
    rw [recalStopped, laneOf_onLane, laneOf_raiseLeaf, laneOf_onLane]
    exact hlow
  case recal =>
    rintro s n ⟨hn, hon⟩
    rw [b_laneRecalPeriodic, ends_become]
    dsimp only
    exact recal_foldl (l := List.range 32) rfl hon (.inl (List.mem_range.mpr hn))
  case marker =>
    rintro s lane marker skew compareOk ⟨hlane, hcasc, hon, hmode, hok, hmarks, hidle⟩
    obtain ⟨hlock, hcount, hmissed⟩ := markStep_second hmarks (markerCount_lt marker)
    rw [exec_laneMarkerRx_judged hlane hcasc hon hmode (fun _ => hidle), ends_become, laneOf_markerJudged, hok,
      if_neg (fun ⟨_, hlost, _⟩ => hlost hlock), laneOf_markerJudged, hok]
    exact ⟨hlock, hcount, hmissed⟩
  case markerLost =>
    rintro s lane marker skew compareOk ⟨hlane, hcasc, hon, hmode, hbad, hlock, hmissed⟩
    have hlost : (laneOf (markerJudged s.start lane marker skew) lane).markLock = false := by
      rw [laneOf_markerJudged, hbad, markStep_fourthMissed hlock hmissed]
    have hmoves : markerOk marker = true → (laneGroup s.start (groupOfLane lane)).sparing = none := fun hok => by simp [hok] at hbad
    rw [exec_laneMarkerRx_judged hlane hcasc hon hmode hmoves, ends_become]
    split
    · rw [laneOf_laneFailed, recalStopped, laneOf_onLane]
      exact hlost
    · exact hlost
  case slip =>
    rintro s lane ⟨hlane, hbar, hon, hmode⟩
    simp only [b_laneSlip, if_pos hlane, hostWrites_served hbar hon, laneSlip, if_pos hmode]
  case slipOff =>
    rintro s lane ⟨hlane, hbar, hon, hmode⟩
    simp only [b_laneSlip, if_pos hlane, hostWrites_served hbar hon, laneSlip, if_neg hmode]

end Sys2Proof.Machine
end

section
/-! PROOFS. The step and the rules that speak of every packet: the order of the checks of R514, what serves no packet, and the epoch (O1 to O3, O5, O10, O11, O19, O20). -/

namespace Sys2Proof.Machine

-- One proof after another: elaborated side by side, the whole text would take more memory than its check allows.
set_option Elab.async false

/-- Settles O1: the front of the queue is what a step takes. -/
theorem stepRunsFront : Obligations.StepRunsFront := by
  unfold Obligations.StepRunsFront
  intro c rest s
  rfl

/-- Settles O2. -/
theorem stepIdles : Obligations.StepIdles := by
  unfold Obligations.StepIdles
  intro s hidle
  simp only [step, hidle]

/-- Settles O3: Pasture's list is empty at reset, and so is the queue. -/
theorem resetTidy : Obligations.ResetTidy := by
  unfold Obligations.ResetTidy
  exact ⟨⟨⟨List.Pairwise.nil, by simp [State.reset]⟩, rfl⟩, rfl⟩

/-- Settles O5: a command changes the device and Pasture, or is the power-on reset, and neither touches the queue. -/
theorem everyCommandCompletes : Obligations.EveryCommandCompletes := by
  unfold Obligations.EveryCommandCompletes
  intro i s
  rcases exec_cases i s with ⟨d, hd⟩ | hreset
  · exact ⟨_, hd, rfl⟩
  · exact ⟨_, hreset, rfl⟩

/-! ### Packets that are dequeued (R514, R529) -/

/-- Reading an image changes no command's opcode into an undefined one. -/
theorem isDefined_withImage (m : Memory) (c : KCmd) : isDefined (withImage m c) = isDefined c := by
  unfold withImage
  split <;> rfl

/-- Every row of the table that is a packet has a defined opcode. -/
theorem isDefined_of_kOf {i : Instr} {h : CmdHdr} {c : KCmd} (hk : kOf i = some (h, c)) : isDefined c = true := by
  cases i <;> first | cases hk; rfl | cases hk

theorem isDefined_of_packetOf {s : State} {i : Instr} {h : CmdHdr} {c : KCmd} (hp : packetOf s i = some (h, c)) : isDefined c = true := by
  obtain ⟨⟨h', c'⟩, hk, hc⟩ := Option.map_eq_some_iff.mp hp
  cases hc
  exact (isDefined_withImage s.mem c').trans (isDefined_of_kOf hk)

/-- The reason byte of a refusal by the checks: 4 where ENGINE_LOAD or GROUP_UPDATE lacks presence, 0 otherwise (R224, R510). -/
def refusalReason (c : KCmd) (st : Status) : Nat := if st = .needsPresence ∧ (kOpcode c = 0x0150 ∨ kOpcode c = 0x0152) then 4 else 0

theorem kRefuse_resetReq (d : Dev) (h : CmdHdr) (c : KCmd) (st : Status) (reason field : Nat) :
    (kRefuse d h c st reason field).fold.resetReq = d.fold.resetReq := by
  unfold kRefuse; dsimp only; split <;> simp

theorem kRefuse_memOut (d : Dev) (h : CmdHdr) (c : KCmd) (st : Status) (reason field : Nat) :
    (kRefuse d h c st reason field).memOut = d.memOut := by
  unfold kRefuse; dsimp only; split <;> simp

/-- A packet that leaves the device as `e`, with no reset asked for and nothing posted to Pasture. -/
theorem exec_packet_becomes {s : State} {i : Instr} {h : CmdHdr} {c : KCmd} {e : Dev} (hp : packetOf s i = some (h, c))
    (hrun : kRun s.view h c (kGated s.start c) (kDomains c) (actOf c) s.start = e) (hreset : e.fold.resetReq = false) (hmem : e.memOut = []) :
    exec i s = s.become e := by
  have hpacket : runPacket h c (actOf c) s.start = e := by
    show resetAfter (kRun s.view h c _ _ (actOf c) s.start) = e
    rw [hrun, resetAfter, hreset]
    rfl
  rw [exec_packet i s h c hp, kervonNext, nextDev_become _ _ (hpacket ▸ hmem), hpacket]

theorem kServing_of_serving {d : Dev} (hserve : Serving d) : kServing d = true := by
  obtain ⟨hstage, hwinter, -, hswap, -⟩ := hserve
  rcases hstage with hstage | hstage <;> simp [kServing, hstage, hwinter, hswap]

theorem not_recovery_of_serving {d : Dev} (hserve : Serving d) : d.fold.boot.stage ≠ .recovery := by
  rcases hserve.1 with hstage | hstage <;> simp [hstage]

/-- A packet that one of the checks refuses changes nothing but what the refusal does. -/
theorem exec_refused {s : State} {i : Instr} {h : CmdHdr} {c : KCmd} {st : Status} (hp : packetOf s i = some (h, c)) (hserve : Serving s.start)
    (hc : kChecks s.start h c (kGated s.start c) (kDomains c) = some st) :
    exec i s = s.become (kRefuse s.start h c st (refusalReason c st) noField) := by
  refine exec_packet_becomes hp ?_ ((kRefuse_resetReq ..).trans hserve.2.2.2.2) (kRefuse_memOut ..)
  simp [kRun, kServing_of_serving hserve, not_recovery_of_serving hserve, hc, refusalReason]

/-- A refusal that counts nothing is a reply alone. -/
theorem kRefuse_answers {s : State} {st : Status} (hst : st ≠ .sealed ∧ st ≠ .needsPresence ∧ st ≠ .internal) (h : CmdHdr) (c : KCmd) (reason field : Nat) :
    kRefuse s.start h c st reason field = answer s.start (replyTo h c s.dev.sys.epochStaged) st (refusalData reason field) := by
  obtain ⟨hsealed, hpresence, hinternal⟩ := hst
  simp only [kRefuse, hsealed, hpresence, hinternal, or_self, if_false, decide_false, raiseIf, Bool.false_eq_true]
  rfl

/-- A check that asks for no presence refuses with a reply alone, whose reason is 0. -/
theorem exec_refused_answer {s : State} {i : Instr} {h : CmdHdr} {c : KCmd} {st : Status} (hp : packetOf s i = some (h, c)) (hserve : Serving s.start)
    (hc : kChecks s.start h c (kGated s.start c) (kDomains c) = some st) (hst : st ≠ .sealed ∧ st ≠ .needsPresence ∧ st ≠ .internal) :
    exec i s = s.become (answer s.start (replyTo h c s.dev.sys.epochStaged) st (refusalData 0 noField)) := by
  have hreason : refusalReason c st = 0 := if_neg (fun hboth => hst.2.1 hboth.1)
  rw [exec_refused hp hserve hc, kRefuse_answers hst, hreason]

/-! ### The checks in their order (R513, R514, R516, R517, R520) -/

section
variable {d : Dev} {h : CmdHdr} {c : KCmd} {gated : Bool} {doms : List Nat}

/-- The checks that follow those of the header: the sender, presence, the epoch and the domains. -/
def lateChecks (d : Dev) (h : CmdHdr) (c : KCmd) (gated : Bool) (doms : List Nat) : Option Status :=
  if ¬ kIsRead c ∧ ¬ mayChange d h then some .notOwner
  else if gated ∧ ¬ d.fold.guard.sealIntact then some .sealed
  else if gated ∧ (d.fold.guard.window = .shut ∨ ¬ h.presenceExpected) then some .needsPresence
  else if h.epochCheck ∧ h.expEpoch ≠ d.sys.epochStaged then some .staleEpoch
  else if doms.any (fun k => !domOn d k) then some .dark
  else none

theorem ownerOk_of_headerOk (hh : HeaderOk h c) : ownerOk h = true := by
  obtain ⟨-, -, -, -, howner⟩ := hh
  unfold ownerOk
  split <;> simp_all

theorem kChecks_of_headerOk (hd : isDefined c = true) (hh : HeaderOk h c) : kChecks d h c gated doms = lateChecks d h c gated doms := by
  have howner := ownerOk_of_headerOk hh
  obtain ⟨hcheck, hover, hfits, hflag, -⟩ := hh
  simp only [kChecks, lateChecks, hcheck, hover, hd, hflag, hfits, howner, not_true_eq_false, false_or, or_self, if_false, Bool.false_eq_true]

/-- Of a header whose form is right, the owner is checked next. -/
theorem kChecks_of_wrongOwner (hd : isDefined c = true) (hcheck : checkHolds h c = true) (hover : h.lengthOver = false) (hflag : h.reservedFlag = false)
    (hfits : lengthFits h c = true) (howner : ownerOk h = false) : kChecks d h c gated doms = some .notOwner := by
  simp [kChecks, hcheck, hover, hd, hflag, hfits, howner]

/-- The sender may change what it asks for. -/
theorem mayChange_of_roles (hrole : ∀ k, h.tr = .session k → (sessOf d k).role = 1) : mayChange d h = true := by
  unfold mayChange
  split
  · rfl
  · next k hk => exact decide_eq_true (hrole k hk)

/-- A sender that may give the command meets neither of the refusals for it. -/
theorem lateChecks_of_allowed (ha : Allowed d h c) :
    lateChecks d h c (kGated d c) doms
      = if h.epochCheck ∧ h.expEpoch ≠ d.sys.epochStaged then some .staleEpoch else if doms.any (fun k => !domOn d k) then some .dark else none := by
  obtain ⟨hrole, hgate⟩ := ha
  have hsender : ¬ (¬ kIsRead c ∧ ¬ mayChange d h) := by
    rintro ⟨hread, hmay⟩
    exact hmay (mayChange_of_roles (hrole (Bool.eq_false_iff.mpr hread)))
  have hseal : ¬ (kGated d c = true ∧ ¬ d.fold.guard.sealIntact = true) := fun ⟨hg, hbroken⟩ => hbroken (hgate hg).1
  have hwindow : ¬ (kGated d c = true ∧ (d.fold.guard.window = .shut ∨ ¬ h.presenceExpected = true)) :=
    fun ⟨hg, hshut⟩ => hshut.elim (hgate hg).2.1 (absurd (hgate hg).2.2)
  rw [lateChecks, if_neg hsender, if_neg hseal, if_neg hwindow]

end

/-- Settles O10. -/
theorem staleEpochRefused : Obligations.StaleEpochRefused := by
  unfold Obligations.StaleEpochRefused
  refine ⟨?refused, ?reached⟩
  case refused =>
    intro i h c s hp hserve hh ha hcheck hother
    refine exec_refused_answer hp hserve ?_ (by decide)
    rw [kChecks_of_headerOk (isDefined_of_packetOf hp) hh, lateChecks_of_allowed ha]
    exact if_pos ⟨hcheck, hother⟩
  case reached =>
    intro i h c s hp hpass
    have hnot : ¬ (h.epochCheck = true ∧ h.expEpoch ≠ s.start.sys.epochStaged) := fun ⟨hcheck, hother⟩ =>
      hpass.elim (fun hclear => by simp [hclear] at hcheck) hother
    unfold kChecks
    rw [if_neg hnot]
    repeat' split
    all_goals simp

/-- Settles O11. -/
theorem wrongOwnerRefused : Obligations.WrongOwnerRefused := by
  unfold Obligations.WrongOwnerRefused
  refine ⟨?ring, ?session⟩
  case ring =>
    intro i h c s r hp hserve hcheck hover hflag hfits htr howner
    exact exec_refused_answer hp hserve
      (kChecks_of_wrongOwner (isDefined_of_packetOf hp) hcheck hover hflag hfits (by simp [ownerOk, htr, howner])) (by decide)
  case session =>
    intro i h c s k hp hserve hcheck hover hflag hfits htr howner
    exact exec_refused_answer hp hserve
      (kChecks_of_wrongOwner (isDefined_of_packetOf hp) hcheck hover hflag hfits (by simp [ownerOk, htr, howner])) (by decide)

/-- Settles O19: the turn of the packet is passed over, or its transport is not ring 0 in RECOVERY. -/
theorem notServed : Obligations.NotServed := by
  unfold Obligations.NotServed
  intro i h c s hp hreset hidle
  refine exec_packet_becomes hp ?_ hreset rfl
  unfold kRun
  split
  · rfl
  next hserve =>
    have hserve : kServing s.start = true := not_not.mp hserve
    rw [if_pos]
    rcases hidle with hstage | hstage | hwinter | hswap | hrecovery
    · simp [kServing, State.start, hstage] at hserve
    · simp [kServing, State.start, hstage] at hserve
    · simp [kServing, State.start, hwinter] at hserve
    · simp [kServing, State.start, hswap] at hserve
    · exact hrecovery

/-- Settles O20: each check in turn is the first that fails. -/
theorem checksInOrder : Obligations.ChecksInOrder := by
  unfold Obligations.ChecksInOrder
  refine ⟨?check, ?tooLong, ?flag, ?length, ?role, ?sealed, ?presence, ?dark, ?winter⟩
  case check =>
    intro i h c s hp hserve hcheck
    exact exec_refused_answer hp hserve (by simp [kChecks, hcheck]) (by decide)
  case tooLong =>
    intro i h c s hp hserve hcheck hover
    exact exec_refused_answer hp hserve (by simp [kChecks, hcheck, hover]) (by decide)
  case flag =>
    intro i h c s hp hserve hcheck hover hflag
    exact exec_refused_answer hp hserve (by simp [kChecks, hcheck, hover, hflag]) (by decide)
  case length =>
    intro i h c s hp hserve hcheck hover hflag hfits
    exact exec_refused_answer hp hserve (by simp [kChecks, hcheck, hover, isDefined_of_packetOf hp, hflag, hfits]) (by decide)
  case role =>
    intro i h c s k hp hserve hh hchanges htr hrole
    refine exec_refused_answer hp hserve ?_ (by decide)
    rw [kChecks_of_headerOk (isDefined_of_packetOf hp) hh]
    simp [lateChecks, hchanges, mayChange, htr, hrole]
  case sealed =>
    intro i h c s hp hserve hh hrole hgated hbroken
    have hbroken : s.start.fold.guard.sealIntact = false := hbroken
    rw [exec_refused (st := .sealed) hp hserve]
    · simp [kRefuse, raiseIf, refusalReason]; rfl
    · rw [kChecks_of_headerOk (isDefined_of_packetOf hp) hh]
      simp [lateChecks, mayChange_of_roles hrole, hgated, hbroken]
  case presence =>
    intro i h c s hp hserve hh hrole hgated hseal hwindow
    have hseal : s.start.fold.guard.sealIntact = true := hseal
    have hwindow : s.start.fold.guard.window = .shut ∨ h.presenceExpected = false := hwindow
    rw [exec_refused (st := .needsPresence) hp hserve]
    · simp [kRefuse, raiseIf, refusalReason]; rfl
    · rw [kChecks_of_headerOk (isDefined_of_packetOf hp) hh]
      simp [lateChecks, mayChange_of_roles hrole, hgated, hseal, hwindow]
  case dark =>
    rintro i h c s hp hserve hh ha hepoch ⟨k, hk, hoff⟩
    refine exec_refused_answer hp hserve ?_ (by decide)
    rw [kChecks_of_headerOk (isDefined_of_packetOf hp) hh, lateChecks_of_allowed ha, if_neg (fun ⟨hcheck, hother⟩ => hother (hepoch hcheck)), if_pos]
    exact List.any_eq_true.mpr ⟨k, hk, by simp [hoff]⟩
  case winter =>
    intro i h c s hp hstage hseason hphase hswap hreset hh ha hepoch hdoms hchanges
    have hchecks : kChecks s.start h c (kGated s.start c) (kDomains c) = none := by
      rw [kChecks_of_headerOk (isDefined_of_packetOf hp) hh, lateChecks_of_allowed ha, if_neg (fun ⟨hcheck, hother⟩ => hother (hepoch hcheck)), if_neg]
      simpa using hdoms
    have hstage : s.start.fold.boot.stage = .ctrl ∨ s.start.fold.boot.stage = .ready := hstage
    have hserve : kServing s.start = true := by
      have hseason : s.start.pwr.season ≠ .winter := hseason
      have hswap : s.start.aux.swapState ≠ 1 := hswap
      rcases hstage with hstage | hstage <;> simp [kServing, hstage, hseason, hswap]
    have hrecovery : s.start.fold.boot.stage ≠ .recovery := by rcases hstage with hstage | hstage <;> simp [hstage]
    have hclosed : admissionClosed s.start = true := beq_iff_eq.mpr hphase
    rw [← kRefuse_answers (st := .busy) (by decide)]
    refine exec_packet_becomes hp ?_ ((kRefuse_resetReq ..).trans hreset) (kRefuse_memOut ..)
    simp [kRun, hserve, hrecovery, hchecks, hclosed, hchanges]

end Sys2Proof.Machine
end

section
/-! PROOFS. EPOCH_STAGED advances by one for a command that changes something, and for nothing else (O18). -/

namespace Sys2Proof.Machine

-- One proof after another: elaborated side by side, the whole text would take more memory than its check allows.
set_option Elab.async false

/-! ### What a command's own conditions leave of the epoch (R501, R519, R531) -/

/-- The epoch stands, and no reset is asked for but by FW_RECOVER and TRUST_FACTORY_RESET. -/
def EpochKept (c : KCmd) (d e : Dev) : Prop :=
  e.sys.epochStaged = d.sys.epochStaged ∧ (e.fold.resetReq = d.fold.resetReq ∨ kOpcode c = 0x131 ∨ kOpcode c = 0x643)

theorem EpochKept.refl (c : KCmd) (d : Dev) : EpochKept c d d := ⟨rfl, .inl rfl⟩

theorem EpochKept.of_touches {ps : List Part} {c : KCmd} {d e : Dev} (h : Touches ps d e) (hepoch : ps.contains .epoch = false := by rfl)
    (hreset : ps.contains .resetReq = false := by rfl) : EpochKept c d e :=
  ⟨h.same .epoch hepoch, .inl (h.same .resetReq hreset)⟩

/-- A change of the Fold's records alone. -/
theorem EpochKept.of_onFold {c : KCmd} {d : Dev} {f : FoldState → FoldState} (h : (f d.fold).resetReq = d.fold.resetReq) : EpochKept c d (onFold d f) :=
  ⟨rfl, .inl h⟩

/-- Every device that a result may leave keeps the epoch; a refusal and a read keep what is staged as well, and a command whose result is neither is no read. -/
inductive ActResult.Advances (c : KCmd) (d : Dev) : ActResult → Prop
  | refuse (st : Status) (reason field : Nat) : Advances c d (.refuse st reason field)
  | refuseWith (st : Status) (reason field : Nat) {e : Dev} (h : EpochKept c d e) (hs : e.sys.staged = d.sys.staged) :
      Advances c d (.refuseWith st reason field e)
  | read (data : List Nat) {e : Dev} (h : EpochKept c d e) (hs : e.sys.staged = d.sys.staged) : Advances c d (.read data e)
  | now (data : List Nat) {e : Dev} (hc : kIsRead c = false) (h : EpochKept c d e) : Advances c d (.now data e)
  | stage (acc : Bool) (pick : Nat) (data : List Nat) (wait : Option Nat) {e : Dev} (hc : kIsRead c = false) (h : EpochKept c d e) :
      Advances c d (.stage acc pick data wait e)
  | accepted (atBell : Bool) {f : ReplyCtx → Dev} (hc : kIsRead c = false) (h : ∀ x, EpochKept c d (f x)) : Advances c d (.accepted atBell f)
  | deferred {f : ReplyCtx → Dev} (hc : kIsRead c = false) (h : ∀ x, EpochKept c d (f x)) : Advances c d (.deferred f)
  | later {f : ReplyCtx → Dev} (hc : kIsRead c = false) (h : ∀ x, EpochKept c d (f x)) : Advances c d (.later f)

/-- MGMT_SESSION_CLOSE closes the session that it names. -/
theorem sessionClosed_epochKept (c : KCmd) (d : Dev) (k j : Nat) (f : Sess → Sess) (type : Nat) (body : List Int) :
    EpochKept c d (sessionClose (datagram (onSess d k f) k type body) j) := by
  obtain ⟨-, hfold, hepoch⟩ := sessionClose_keeps (datagram (onSess d k f) k type body) j
  have hsent := datagram_touch (onSess d k f) k type body
  exact ⟨hepoch.trans (hsent.same .epoch rfl), .inl ((congrArg FoldState.resetReq hfold).trans (hsent.same .resetReq rfl))⟩

/-- ACC_DISABLE takes slices down, or has them say their gasp first (R258). -/
theorem actAccDisable_advances (mask : Nat) (gasp : Bool) (v d : Dev) : (actAccDisable mask gasp v d).Advances (.accDisable mask gasp) d := by
  unfold actAccDisable
  split
  · exact .refuse ..
  · refine .later rfl fun ctx => .of_touches (ps := [.out, .sys, .bell, .tm, .acc]) ?_
    refine ((Touches.foldl .refl fun e n he => ?_).andThen (endIfAllDisabled_touch _)).andThen (onAcc_touch ..)
    split_ifs
    · exact he
    · exact (he.andThen (gaspQueue_touch e n)).andThen (onSlice_touch ..)
    · exact he.andThen (setAccSt_touch e n .disabled _)

/-- HOST_PKT_TX hands its frame to PARSE (R373). -/
theorem actHostPktTx_advances (twoStep : Bool) (tag : Nat) (frame : List Byte) (stamp now : Nat) (v d : Dev) :
    (actHostPktTx twoStep tag frame stamp now v d).Advances (.hostPktTx twoStep tag frame stamp now) d := by
  unfold actHostPktTx
  split
  · exact .refuse ..
  · exact .now _ rfl (.of_touches (ingest_touch ..))

/-- A refusal that leaves another device than it found, with the epoch, what is staged and the request for a reset as they were. -/
theorem ActResult.Advances.refuseWith_of_touches {ps : List Part} {c : KCmd} {d e : Dev} (st : Status) (reason field : Nat) (h : Touches ps d e)
    (hepoch : ps.contains .epoch = false := by rfl) (hstaged : ps.contains .staged = false := by rfl)
    (hreset : ps.contains .resetReq = false := by rfl) : Advances c d (.refuseWith st reason field e) :=
  .refuseWith _ _ _ (.of_touches h hepoch hreset) (h.same .staged hstaged)

/-- The commands whose results may leave another device than they found. -/
def changesAtOnce (c : KCmd) : Bool :=
  match c with
  | .accDisable .. | .hostPktTx .. | .mgmtSessionClose .. | .fwStoreWrite .. | .fwRecover .. | .confCreate .. | .confModify .. | .legCreate .. | .legMigrate ..
  | .imcTrunkSet .. | .routeSet .. | .audParamWrite .. | .audCommit .. | .groupUpdate .. | .parseRuleQuery .. | .pwrDomainSet .. | .trustOtpCommit ..
  | .trustRootRotate | .trustSessionOpen .. | .trustSessionClose .. | .trustBaseImport .. | .trustBaseDestroy .. | .trustKeylistLoad .. | .saCreate ..
  | .saDestroy .. | .trustRollbackCommit .. | .trustBootSeal | .trustPresenceClose | .trustDebugUnlock | .trustFactoryReset | .trustQuery .. => true
  | _ => false

/-- What such a command changes is a unit of its own: it wakes a group, begins a job, files a key, or asks for the reset that its reply brings on. -/
theorem actOf_advances_changing (c : KCmd) (hc : changesAtOnce c = true) (v d : Dev) : (actOf c v d).Advances c d := by
  cases c
  case accDisable mask gasp => exact actAccDisable_advances mask gasp v d
  case hostPktTx twoStep tag frame stamp now => exact actHostPktTx_advances twoStep tag frame stamp now v d
  case mgmtSessionClose session =>
    simp only [actOf, actMgmtSessionClose]
    split_ifs
    · exact .refuse ..
    · exact .now _ rfl (sessionClosed_epochKept ..)
    · exact .now _ rfl (.refl ..)
  case fwRecover =>
    simp only [actOf, actFwRecover]
    repeat' split
    all_goals first | exact .refuse .. | exact .now _ rfl ⟨rfl, .inr (.inl rfl)⟩
  case trustFactoryReset => exact .now _ rfl ⟨rfl, .inr (.inr rfl)⟩
  case legCreate rcd =>
    simp only [actOf, actLegCreate]
    repeat' split
    all_goals first | exact .refuse .. | exact .stage _ _ _ _ rfl (.of_touches (ps := [.out, .memOut, .sys, .past, .media, .pwr, .aux, .flock])
        ((wakeOpt_touch ..).mono.andThen (stagedLeg_touch ..)))
  case pwrDomainSet =>
    simp only [actOf, actPwrDomainSet]
    repeat' split
    all_goals first
      | exact .refuse ..
      | exact .stage _ _ _ _ rfl (.refl ..)
      | exact .deferred rfl (fun _ => .of_touches ((domainOn_touch ..).andThen (addWait_touch ..)))
  case confCreate | confModify | legMigrate | imcTrunkSet =>
    simp only [actOf, actConfCreate, actConfModify, actLegMigrate, actImcTrunkSet]
    repeat' split
    all_goals first
      | exact .refuse ..
      | exact .stage _ _ _ _ rfl (.refl ..)
      | exact .stage _ _ _ _ rfl (.of_touches (wakeOpt_touch ..))
  case routeSet =>
    simp only [actOf, actRouteSet]
    repeat' split
    all_goals first
      | exact .refuse ..
      | exact .refuseWith_of_touches _ _ _ (onAud_touch ..)
      | exact .stage _ _ _ _ rfl (.of_touches (wakeOpt_touch ..))
  case trustOtpCommit | trustRootRotate =>
    simp only [actOf, actTrustOtpCommit, actTrustRootRotate]
    repeat' split
    all_goals first | exact .refuse .. | exact .accepted _ rfl (fun _ => .of_touches (otpBegin_touch ..))
  case trustSessionOpen | trustBaseImport | saCreate =>
    simp only [actOf, actTrustSessionOpen, actTrustBaseImport, actSaCreate]
    repeat' split
    all_goals first
      | exact .refuse ..
      | exact .refuseWith_of_touches _ _ _ (importFail_touch d)
      | exact .now _ rfl (.of_onFold rfl)
  case trustSessionClose | trustBaseDestroy | saDestroy =>
    simp only [actOf, actTrustSessionClose, actTrustBaseDestroy, actSaDestroy]
    repeat' split
    all_goals first
      | exact .refuse ..
      | exact .now _ rfl (.of_onFold rfl)
  case trustKeylistLoad =>
    simp only [actOf, actTrustKeylistLoad]
    repeat' split
    all_goals first
      | exact .refuse ..
      | exact .refuseWith_of_touches _ _ _ (raiseLeaf_touch d 22 9)
      | exact .now _ rfl (.of_onFold rfl)
  case trustRollbackCommit =>
    simp only [actOf, actTrustRollbackCommit]
    repeat' split
    all_goals first
      | exact .refuse ..
      | exact .now _ rfl (.refl ..)
      | exact .now _ rfl (.of_touches (ps := [.out, .sys, .fold, .otp]) ((onOtp_touch ..).mono.andThen (raiseLeaf_touch _ 22 10)))
  case trustQuery | parseRuleQuery =>
    simp only [actOf, actTrustQuery, actParseRuleQuery]
    repeat' split
    all_goals first
      | exact .refuse ..
      | exact .read _ ⟨rfl, .inl rfl⟩ rfl
  case trustBootSeal => exact .now _ rfl (.of_touches (onBoot_touch ..))
  case trustPresenceClose => exact .now _ rfl (.of_touches (onGuard_touch ..))
  case trustDebugUnlock =>
    simp only [actOf, actTrustDebugUnlock]
    split
    · exact .refuse ..
    · exact .now _ rfl ⟨rfl, .inl rfl⟩
  case fwStoreWrite =>
    simp only [actOf, actFwStoreWrite]
    repeat' split
    all_goals first
      | exact .refuse ..
      | exact .accepted _ rfl (fun _ => .of_touches (onBoot_touch ..))
  case audParamWrite | audCommit | groupUpdate =>
    simp only [actOf, actAudParamWrite, actAudCommit, actGroupUpdate]
    repeat' split
    all_goals first
      | exact .refuse ..
      | exact .stage _ _ _ _ rfl (.refl ..)
      | exact .now _ rfl (.of_touches (bankWrite_touch ..))
      | exact .now _ rfl (.of_touches (onAud_touch ..))
      | exact .later rfl (fun _ => .of_touches (onAud_touch ..))
      | exact .accepted _ rfl (fun _ => .of_touches (onFGroup_touch ..))
  all_goals cases hc
/-- The other commands read, or stage their change, or begin nothing before their bell. -/
theorem actOf_advances_still (c : KCmd) (hc : changesAtOnce c = false) (v d : Dev) : (actOf c v d).Advances c d := by
  cases c
  all_goals cases hc
  all_goals
    simp only [actOf,
      actSysQuery, actPastureAllotSet, actPastureQuery, actTimeConfig, actTimeSet, actTimeRate, actTimeOffsetConfirm, actMgmtConfig,
      actMgmtSessionQuery, actHostPktConfig, actDiagOmciRead, actDiagOmciList, actConfDestroy, actConfQuery, actLegModify, actLegDestroy,
      actLegRekey, actLegQuery, actPlaceSet, actPlaceQuery, actStatusTableSet, actRouteClear, actRouteQuery, actConsoleSet,
      actAudParamRead, actPortTdmConfig, actPortQuery, actConfAudioQuery, actContribSet, actSubscribeSet, actLayoutSet, actLayoutClear,
      actLayoutQuery, actVidConfig, actIntraRequest, actVidQuery, actEngineLoad, actEngineUnload, actFlockQuery, actAccConfig,
      actAccEnable, actAccQuery, actAccKillRelease, actAccBondConfig, actAccChannelLeave, actAccBondQuery, actImcTrunkClear,
      actImcTrunkQuery, actLaneQuery, actLaneGroupConfig, actLaneRecal, actLaneSpare, actCliConfig, actCliPath, actCliPortConfig,
      actCliAddrSet, actCliMacsecSet, actCliMacsecSa, actCliPortQuery, actParseRuleSet, actParseRuleClear, actParsePortSet,
      actParseHashProfileSet, actParseHashTableSet, actParseFragConfig, actParseQuery, actTmQueueAlloc, actTmQueueSet, actTmQueueFree,
      actTmGroupSet, actTmShaperSet, actTmRootSet, actTmPolicerSet, actTmMeterSet, actTmMeterMapSet, actTmBufConfig, actTmQuery,
      actIntegQuery, actIntegScrubSet, actIntegFlip, actIntegDigestConfig, actIntegDigestDump, actIntegRemap, actTrustIdentity,
      actTrustAttest, actTrustImportKey, actTrustFwVerify, actSaQuery, actCascConfig, actCascQuery, actCascConfBind, actCascTwinSet,
      actCascTakeover, actCascSaPair, actCtrlFwSwap, actPwrSeason, actPwrWinter, actPwrAlarmSet, actPwrAutumnConfig, actPwrQuery]
    repeat' first
      | with_reducible exact EpochKept.refl _ _
      | with_reducible constructor
      | split
  all_goals rfl

theorem actOf_advances (c : KCmd) (v d : Dev) : (actOf c v d).Advances c d := by
  cases hc : changesAtOnce c
  · exact actOf_advances_still c hc v d
  · exact actOf_advances_changing c hc v d

/-! ### What the packet leaves -/

/-- The epoch advanced by a command that is no read, and no reset asked for but by FW_RECOVER and TRUST_FACTORY_RESET. -/
def EpochTaken (c : KCmd) (d e : Dev) : Prop :=
  kIsRead c = false ∧ e.sys.epochStaged = d.sys.epochStaged + 1 ∧ (e.fold.resetReq = d.fold.resetReq ∨ kOpcode c = 0x131 ∨ kOpcode c = 0x643)

/-- What a packet may leave of the epoch and of what is staged, before a reset that it asks for. -/
def EpochLaw (c : KCmd) (d e : Dev) : Prop := EpochKept c d e ∧ e.sys.staged = d.sys.staged ∨ EpochTaken c d e

theorem EpochLaw.refl (c : KCmd) (d : Dev) : EpochLaw c d d := .inl ⟨.refl c d, rfl⟩

theorem EpochKept.andThen {ps : List Part} {c : KCmd} {d e g : Dev} (h : EpochKept c d e) (k : Touches ps e g)
    (hepoch : ps.contains .epoch = false := by rfl) (hreset : ps.contains .resetReq = false := by rfl) : EpochKept c d g :=
  ⟨(k.same .epoch hepoch).trans h.1, h.2.imp_left (k.same .resetReq hreset).trans⟩

theorem EpochTaken.andThen {ps : List Part} {c : KCmd} {d e g : Dev} (h : EpochTaken c d e) (k : Touches ps e g)
    (hepoch : ps.contains .epoch = false := by rfl) (hreset : ps.contains .resetReq = false := by rfl) : EpochTaken c d g :=
  ⟨h.1, (k.same .epoch hepoch).trans h.2.1, h.2.2.imp_left (k.same .resetReq hreset).trans⟩

/-- An accepted changing command takes the next epoch (R519). -/
theorem kAdvance_taken {c : KCmd} {d e : Dev} (hc : kIsRead c = false) (hk : EpochKept c d e) (gated : Bool) (h : CmdHdr) (keep : Bool) :
    EpochTaken c d (kAdvance (closeButton gated e) h c keep).1 := by
  obtain ⟨hepoch, hreset⟩ := hk
  refine ⟨hc, ?_, hreset.imp_left ((closeButton_resetReq gated e).trans)⟩
  show (closeButton gated e).sys.epochStaged + 1 = _
  rw [closeButton_epoch, hepoch]

/-- Staging a change leaves the epoch as it is. -/
theorem stageEntry_touch (d : Dev) (t : Staged) : Touches [.sys, .staged] d (onSys d (fun y => { y with staged := y.staged ++ [t] })) := setSys_touch .refl

theorem kFinish_epochLaw {c : KCmd} {d : Dev} {r : ActResult} (hr : r.Advances c d) (h : CmdHdr) (gated : Bool) : EpochLaw c d (kFinish h c gated d r) := by
  cases hr with
  | refuse st reason field => exact .inl ⟨.of_touches (kRefuse_touch ..), (kRefuse_touch d h c st reason field).same .staged rfl⟩
  | refuseWith st reason field hk hs =>
    exact .inl ⟨hk.andThen (kRefuse_touch ..), ((kRefuse_touch _ h c st reason field).same .staged rfl).trans hs⟩
  | read data hk hs => exact .inl ⟨hk.andThen (answer_touch ..), ((answer_touch _ (hdrCtx d h c) .done data).same .staged rfl).trans hs⟩
  | now data hc hk => exact .inr ((kAdvance_taken hc hk gated h false).andThen (answer_touch ..))
  | stage acc pick data wait hc hk =>
    have hstaged := fun t => (kAdvance_taken hc hk gated h true).andThen (stageEntry_touch _ t)
    cases acc
    · exact .inr (hstaged _)
    · exact .inr ((hstaged _).andThen (answer_touch ..))
  | accepted atBell hc hk => exact .inr ((kAdvance_taken hc (hk _) gated h atBell).andThen (answer_touch ..))
  | deferred hc hk => exact .inr ((kAdvance_taken hc (hk _) gated h true).andThen (answer_touch ..))
  | later hc hk => exact .inr (kAdvance_taken hc (hk _) gated h true)

/-- A packet that is passed over or refused leaves the epoch, and one that passes its checks what its result leaves. -/
theorem kRun_epochLaw {c : KCmd} {v d : Dev} {act : Dev → Dev → ActResult} (ha : (act v d).Advances c d) (h : CmdHdr) (gated : Bool) (doms : List Nat) :
    EpochLaw c d (kRun v h c gated doms act d) := by
  have hrefused : ∀ st reason field, EpochLaw c d (kRefuse d h c st reason field) := fun st reason field => kFinish_epochLaw (.refuse st reason field) h gated
  unfold kRun
  split
  · exact .refl c d
  split
  · exact .refl c d
  split
  · exact hrefused ..
  split
  · exact hrefused ..
  split
  · exact hrefused ..
  · exact kFinish_epochLaw ha h gated

/-- The reset that FW_RECOVER and TRUST_FACTORY_RESET bring on begins the epochs again. -/
theorem resetAfter_epoch {c : KCmd} {d e : Dev} (hidle : d.fold.resetReq = false) (hlaw : EpochLaw c d e) :
    ((resetAfter e).sys.epochStaged = d.sys.epochStaged ∧ (resetAfter e).sys.staged = d.sys.staged)
      ∨ (kIsRead c = false ∧ (resetAfter e).sys.epochStaged = d.sys.epochStaged + 1)
      ∨ ((kOpcode c = 0x131 ∨ kOpcode c = 0x643) ∧ (resetAfter e).sys.epochStaged = 0) := by
  have hasks : e.fold.resetReq = d.fold.resetReq ∨ kOpcode c = 0x131 ∨ kOpcode c = 0x643 := hlaw.elim (fun h => h.1.2) (fun h => h.2.2)
  unfold resetAfter
  split
  next hreset =>
    refine .inr (.inr ⟨hasks.resolve_left fun hsame => ?_, rfl⟩)
    rw [hsame, hidle] at hreset
    cases hreset
  · rcases hlaw with ⟨⟨hepoch, -⟩, hstaged⟩ | ⟨hc, hepoch, -⟩
    · exact .inl ⟨hepoch, hstaged⟩
    · exact .inr (.inl ⟨hc, hepoch⟩)

/-- Settles O18. -/
theorem epochAdvancesByOne : Obligations.EpochAdvancesByOne := by
  unfold Obligations.EpochAdvancesByOne
  intro i h c s hp hidle
  rw [exec_packet i s h c hp, kervonNext, ends_nextDev]
  exact resetAfter_epoch (d := s.start) hidle (kRun_epochLaw (actOf_advances c s.view s.start) h _ _)

end Sys2Proof.Machine
end

section
/-! PROOFS. What a host's write, a leg's status record and a power-on reset change in Pasture, and a read through BAR2 that returns what was written (O7, O8). -/

namespace Sys2Proof.Machine

-- One proof after another: elaborated side by side, the whole text would take more memory than its check allows.
set_option Elab.async false

/-! ### The base of the status table stands (R113) -/

section
variable {d e : Dev}

theorem statusBase_of_touches {ps : List Part} (h : Touches ps d e) (hmedia : ps.contains .media = false := by rfl) :
    e.media.statusBase = d.media.statusBase :=
  congrArg MediaState.statusBase (h.same .media hmedia)

/-- Of two devices that keep the base, either does. -/
theorem statusBase_ite {p : Prop} [Decidable p] {a b : Dev} (ha : a.media.statusBase = d.media.statusBase) (hb : b.media.statusBase = d.media.statusBase) :
    (if p then a else b).media.statusBase = d.media.statusBase := by
  split
  · exact ha
  · exact hb

end

theorem statusBase_legEvent (d : Dev) (kind n : Nat) : (legEvent d kind n).media.statusBase = d.media.statusBase :=
  (statusBase_of_touches (raiseLeaf_touch _ 16 (kind - 1))).trans rfl

theorem statusBase_legUse (d : Dev) (n h : Nat) (inbound ctrl : Bool) (bytes : Nat) :
    (legUse d n h inbound ctrl bytes).2.media.statusBase = d.media.statusBase := by
  obtain ⟨ok, warn, dead, e, huse⟩ : ∃ ok warn dead e, saUse d h ctrl bytes = (ok, warn, dead, e) := ⟨_, _, _, _, rfl⟩
  have hsa : e.media.statusBase = d.media.statusBase := statusBase_of_touches (saUse_touch' d h ctrl bytes huse)
  have hleg : ∀ e (f : Leg → Leg) (k : Nat), (legEvent (onLeg e n f) k n).media.statusBase = e.media.statusBase := fun _ _ _ => statusBase_legEvent ..
  simp only [legUse, huse]
  exact statusBase_ite ((hleg ..).trans (statusBase_ite ((hleg ..).trans hsa) hsa)) (statusBase_ite ((hleg ..).trans hsa) hsa)

theorem statusBase_sendRtcp (d : Dev) (n : Nat) (vals : List Int) (size : Nat) : (sendRtcp d n vals size).media.statusBase = d.media.statusBase := by
  unfold sendRtcp
  cases tget d.media.legs n with
  | none => rfl
  | some l =>
    have huse : (if l.rcd.srtp then legUse d n l.rcd.saOut false true size else (true, d)).2.media.statusBase = d.media.statusBase := by
      by_cases hsrtp : l.rcd.srtp = true
      · rw [if_pos hsrtp]
        exact statusBase_legUse ..
      · rw [if_neg hsrtp]
    exact statusBase_ite rfl (statusBase_ite huse ((statusBase_of_touches (legSend_touch ..)).trans huse))

theorem statusBase_requestPli (d : Dev) (n : Nat) : (requestPli d n).media.statusBase = d.media.statusBase := by
  unfold requestPli
  cases legOf d n with
  | none => rfl
  | some l => exact statusBase_ite rfl ((statusBase_sendRtcp (onLeg d n _) ..).trans rfl)

theorem statusBase_requestIntra (d : Dev) (n t : Nat) : (requestIntra d n t).media.statusBase = d.media.statusBase := by
  unfold requestIntra
  refine statusBase_ite (statusBase_requestPli ..) (statusBase_ite rfl ?_)
  dsimp only
  cases contribOf (onPic d n t _) n with
  | none => rfl
  | some c => exact statusBase_ite rfl rfl

theorem statusBase_askCells (d : Dev) (cells : List (CellSt × CellRec)) : (askCells d cells).media.statusBase = d.media.statusBase :=
  foldl_keeps (fun d => d.media.statusBase) _ cells d fun d p => by
    cases p.1.occ with
    | none => rfl
    | some n => exact statusBase_requestIntra ..

theorem statusBase_requestPoint (d : Dev) (k : Nat) (coalesce : Bool) : (requestPoint d k coalesce).media.statusBase = d.media.statusBase := by
  unfold requestPoint
  cases tget d.vid.streams k with
  | none => rfl
  | some s =>
    refine statusBase_ite rfl ?_
    cases s.coming with
    | none => exact (statusBase_askCells (onStream d k _) _).trans rfl
    | some c => exact (statusBase_askCells (onStream d k _) _).trans rfl

theorem statusBase_joinStream (d : Dev) (n layout variant : Nat) : (joinStream d n layout variant).media.statusBase = d.media.statusBase := by
  unfold joinStream
  cases tget d.vid.layouts layout with
  | none => rfl
  | some r =>
    dsimp only
    cases streamFor d r variant n with
    | none => rfl
    | some x =>
      have hnew : ∀ (p : Prop) [Decidable p] (f g : VidState → VidState), (onVid (if p then onVid d f else d) g).media.statusBase = d.media.statusBase :=
        fun p _ f g => statusBase_ite (p := p) (a := onVid d f) (b := d) rfl rfl
      exact statusBase_ite rfl (statusBase_ite (hnew ..) ((statusBase_requestPoint ..).trans (hnew ..)))

theorem statusBase_followVariant (d : Dev) (n : Nat) (l : Leg) : (followVariant d n l).media.statusBase = d.media.statusBase := by
  unfold followVariant
  refine statusBase_ite rfl ?_
  cases (tget d.vid.recv n).bind (fun r => (r.next.or r.cur).bind (fun k => tget d.vid.streams k)) with
  | none => exact statusBase_joinStream ..
  | some s => exact statusBase_ite rfl (statusBase_joinStream ..)

theorem statusBase_switchPlis (d : Dev) (a : Adapt) : (switchPlis d a).media.statusBase = d.media.statusBase :=
  foldl_keeps (fun d => d.media.statusBase) _ _ d fun _ _ => statusBase_requestPli ..

theorem statusBase_ifFits {f : Dev → Dev} (d : Dev) (hf : (f d).media.statusBase = d.media.statusBase) : (ifFits f d).media.statusBase = d.media.statusBase :=
  statusBase_ite hf rfl

theorem statusBase_starve (d : Dev) (n : Nat) (l : Leg) : (starve d n l).media.statusBase = d.media.statusBase := by
  unfold starve
  exact statusBase_ite rfl ((statusBase_legEvent ..).trans rfl)

/-! ### What a status record posts (R112, R113) -/

theorem statusBytes_length (v : List (Nat × Nat)) : (statusBytes v).length = (v.map (·.2)).sum := by
  simp [statusBytes, leBytes, List.length_flatten, Function.comp_def]

/-- A status record is 256 bytes long. -/
theorem statusVals_bytes (d : Dev) (n : Nat) (l : Leg) (seq : Nat) : (statusBytes (statusVals d n l seq)).length = 256 := by
  rw [statusBytes_length]
  simp only [statusVals, List.map_append, List.sum_append, List.map_map, Function.comp_def, List.map_const', List.sum_replicate, List.length_range]
  have hwidth : ∀ (p : Nat → Nat × Nat), (∀ i, (p i).2 = 1) → ((List.range 8).map fun i => (p i).2).sum = 8 := by
    intro p hp
    simp [hp]
  rw [hwidth]
  · simp
  · intro i
    split
    · rfl
    · split <;> rfl

/-- The status table begins at `base`, and every write posted to Pasture lies in the record of leg `n` there. -/
def PostsInRecord (base n : Nat) (d : Dev) : Prop :=
  d.media.statusBase = base ∧ ∀ w ∈ d.memOut, base + 256 * n ≤ w.1 ∧ w.1 + w.2.length ≤ base + 256 * n + 256

section
variable {base n : Nat} {d e : Dev}

theorem PostsInRecord.keep {ps : List Part} (h : PostsInRecord base n d) (ht : Touches ps d e) (hb : e.media.statusBase = d.media.statusBase)
    (hps : ps.contains .memOut = false := by rfl) : PostsInRecord base n e :=
  ⟨hb.trans h.1, by rw [show e.memOut = d.memOut from ht.same .memOut hps]; exact h.2⟩

theorem PostsInRecord.onLeg (h : PostsInRecord base n d) (k : Nat) (f : Leg → Leg) : PostsInRecord base n (onLeg d k f) :=
  h.keep (onLeg_touch ..) rfl

/-- Bytes stored at the record's base, no more than the record holds. -/
theorem PostsInRecord.statusStore (h : PostsInRecord base n d) (home : Nat) {bs : List Byte} (hlen : bs.length ≤ 256) :
    PostsInRecord base n (statusStore d home (base + 256 * n) bs) := by
  have hc : Touches [.out, .sys, .past] d (chargeClass d (home / 16) (lineCount (base + 256 * n) bs.length)) := chargeClass_touch ..
  obtain ⟨hbase, hposts⟩ := h.keep hc (statusBase_of_touches hc)
  refine ⟨hbase, fun w hw => ?_⟩
  rcases List.mem_append.mp hw with hold | hnew
  · exact hposts w hold
  · obtain rfl := List.mem_singleton.mp hnew
    exact ⟨Nat.le_refl _, by simpa using hlen⟩

/-- A status record written posts nothing outside itself (R113). -/
theorem PostsInRecord.writeStatus (h : PostsInRecord base n d) : PostsInRecord base n (writeStatus d n) := by
  unfold Machine.writeStatus
  split
  · exact h
  · next l _ =>
    dsimp only
    split
    · rw [show (Machine.onLeg d n _).media.statusBase = base from h.1]
      exact ((h.onLeg n _).statusStore _ (by simp [leBytes])).statusStore _ (statusVals_bytes ..).le
    · exact h.onLeg n _

theorem PostsInRecord.starve (h : PostsInRecord base n d) (l : Leg) : PostsInRecord base n (starve d n l) :=
  h.keep (starve_touch ..) (statusBase_starve ..)

/-- An adaptation run posts the leg's own record alone (R102, R113). -/
theorem PostsInRecord.adaptWith (h : PostsInRecord base n d) (m : Measures) : PostsInRecord base n (adaptWith n m d) := by
  unfold Machine.adaptWith
  split
  · exact h
  · next l _ =>
    extract_lets d₀ d₁ l₁ depth d₂ l₂ d₃
    have hestimated : PostsInRecord base n d₁ := by
      dsimp only [d₁]
      split
      · split
        · exact h.onLeg ..
        · exact (h.onLeg ..).starve _
      · exact h.onLeg ..
    refine PostsInRecord.writeStatus ?_
    refine PostsInRecord.keep ?_ (ifFits_touch rfl (fun x => followVariant_touch ..) _) (statusBase_ifFits _ (statusBase_followVariant ..))
    exact (hestimated.onLeg ..).keep (switchPlis_touch ..) (statusBase_switchPlis ..)

theorem PostsInRecord.adaptationRun (h : PostsInRecord base n d) : PostsInRecord base n (adaptationRun n d) := by
  unfold Machine.adaptationRun
  split
  · exact h
  · next l _ =>
    split
    · exact h
    · exact (h.keep (measureRun_touch d l) (statusBase_of_touches (measureRun_touch d l))).adaptWith _

theorem PostsInRecord.feedbackStarved (h : PostsInRecord base n d) : PostsInRecord base n (feedbackStarved n d) := by
  unfold Machine.feedbackStarved
  split
  · exact h
  · split
    · exact h
    · exact (h.starve _).writeStatus

/-- A leg freed posts its own record alone: its associations and its queues are no part of Pasture (R83). -/
theorem PostsInRecord.freeLeg (h : PostsInRecord base n d) : PostsInRecord base n (freeLeg d n) := by
  unfold Machine.freeLeg
  split
  · exact h
  · next l _ =>
    have hunbound : Touches [.fold] d ((legHandles l true ++ legHandles l false).foldl unbindIf d) := Touches.foldl .refl fun _ _ h => h.andThen (unbindIf_touch ..) rfl
    have hfreed := ((h.keep hunbound (statusBase_of_touches hunbound)).onLeg n
      (fun l => { l with slot := false, prevSa := none, move := none, st := .free })).writeStatus
    exact hfreed.keep (freeLegQueues_touch _) (statusBase_of_touches (freeLegQueues_touch _))

theorem PostsInRecord.legDrainEnd (h : PostsInRecord base n d) : PostsInRecord base n (legDrainEnd n d) := by
  unfold Machine.legDrainEnd
  split
  · exact h
  · split
    · exact h
    · exact h.freeLeg

end

/-! ### What the writes posted leave of Pasture (R4) -/

/-- A byte that no write covers reads as before. -/
theorem memByte_writes_other (m : Memory) (ws : List (Nat × List Byte)) (a : Nat) (hm : Memory.wf m)
    (h : ∀ w ∈ ws, a < w.1 ∨ w.1 + w.2.length ≤ a) : memByte (memWrites m ws) a = memByte m a := by
  induction ws generalizing m with
  | nil => rfl
  | cons w r ih =>
    rw [memWrites, ih _ (memWrite_wf m w.1 w.2 hm) (fun x hx => h x (List.mem_cons_of_mem _ hx))]
    exact memByte_write_other m w.1 a w.2 hm (h w List.mem_cons_self)

/-- An event that posts the leg's own record alone changes no byte outside it. -/
theorem record_only {i : Instr} {s : State} {leg : Nat} {f : Dev → Dev} (hexec : exec i s = s.commit (f s.start)) (hs : s.Tidy)
    (hf : PostsInRecord s.dev.media.statusBase leg s.start → PostsInRecord s.dev.media.statusBase leg (f s.start)) :
    Ends (exec i s) (fun t =>
      ∀ a, a < s.dev.media.statusBase + 256 * leg ∨ s.dev.media.statusBase + 256 * leg + 256 ≤ a → memByte t.mem a = memByte s.mem a) := by
  obtain ⟨_, hposts⟩ := hf ⟨rfl, by simp [State.start]⟩
  refine ⟨_, hexec, fun a ha => memByte_writes_other s.mem _ a hs.1 fun w hw => ?_⟩
  have hin := hposts w hw
  omega

/-! ### A transfer of the host through BAR2 (R507) -/

theorem bar2Win_raiseLeaf (d : Dev) (w bit : Nat) : (raiseLeaf d w bit).sys.bar2Win = d.sys.bar2Win := (raiseLeaf_sys d w bit).2.2.1

theorem bar2Win_stallClass (d : Dev) (k more : Nat) : (stallClass d k more).sys.bar2Win = d.sys.bar2Win := bar2Win_raiseLeaf ..

theorem bar2Win_pastureRequest (k : Nat) (d : Dev) : (pastureRequest k d).sys.bar2Win = d.sys.bar2Win := by
  unfold pastureRequest
  dsimp only
  split
  · rfl
  · split
    · exact bar2Win_stallClass ..
    · split
      · rfl
      · split
        · rfl
        · exact bar2Win_stallClass ..

theorem bar2Win_chargeClass (d : Dev) (k n : Nat) : (chargeClass d k n).sys.bar2Win = d.sys.bar2Win :=
  foldl_keeps (fun d => d.sys.bar2Win) _ _ d fun _ _ => bar2Win_pastureRequest ..

theorem bar2Win_postMem (d : Dev) (a : Nat) (bs : List Byte) : (postMem d a bs).sys.bar2Win = d.sys.bar2Win := rfl

theorem bar2Win_eccStored (d : Dev) (k a n : Nat) : (eccStored d k a n).sys.bar2Win = d.sys.bar2Win := by
  unfold eccStored
  split
  · rfl
  · extract_lets whole d₀ c w d₁ d₂
    split
    · have hflip : d₂.sys.bar2Win = d.sys.bar2Win := by
        dsimp only [d₂]
        split <;> rfl
      exact (bar2Win_raiseLeaf ..).trans hflip
    · rfl

theorem bar2Win_pastWritten (d : Dev) (a n : Nat) : (pastWritten d a n).sys.bar2Win = d.sys.bar2Win :=
  (bar2Win_eccStored ..).trans (bar2Win_eccStored ..)

/-- Bytes read where bytes were written are those written. -/
theorem memRead_write (m : Memory) (a : Nat) (bs : List Byte) (hm : Memory.wf m) (h : a + bs.length ≤ pastureSize) :
    memRead (memWrite m a bs) a bs.length = bs := by
  refine List.ext_getElem (by simp [memRead]) fun i _ hi => ?_
  simpa [memRead] using memByte_write_in m a i bs hm hi (by omega)

section
variable (s : State) (offset : Nat) (data : List Byte) (bytes : Nat) (find : EccFind)

/-- A read through BAR2 changes no more than the credits it takes, the error it finds and what it gives. -/
theorem bar2Access_read_commits : ∃ e, exec (.bar2Access offset false data bytes find) s = s.commit e ∧ Touches [.out, .sys, .past, .integ] s.start e := by
  refine ⟨_, by rw [exec_bar2Access, execBar2Access, nextWith_commit], ?_⟩
  split
  · exact .refl
  · simp only [Bool.false_eq_true, if_false]
    generalize s.start.sys.bar2Win * 2 ^ 32 + offset = a
    have hread : Touches [.out, .sys, .past, .integ] s.start (eccRead (chargeClass s.start 22 (lineCount a bytes)) (pastMemClass a) a find).2 :=
      Touches.andThen ((chargeClass_touch ..).mono) (eccRead_touch ..) rfl
    split <;> next heq => rw [heq] at hread; exact hread.andThen (emit_touch ..) rfl

/-- A read through BAR2 that is served and meets no uncorrectable error gives the host the bytes it names. -/
theorem bar2Access_read_gives (hpcie : domOn s.start 38 = true) (hpast : domOn s.start 16 = true) (hoff : offset < 2 ^ 32) {a : Nat}
    (ha : a = s.start.sys.bar2Win * 2 ^ 32 + offset)
    (hclean : (eccRead (chargeClass s.start 22 (lineCount a bytes)) (pastMemClass a) a find).1 ≠ .uncorrectable) :
    Ends (exec (.bar2Access offset false data bytes find) s) (fun u =>
      ({ kind := .hostRead, chan := 2, vals := (memRead s.mem a bytes).map (fun b => (b.toNat : Int)) } : Out) ∈ u.dev.out) := by
  refine ⟨_, by rw [exec_bar2Access, execBar2Access, nextWith_commit, if_neg (bar2_taken hpcie hpast hoff)]; rfl, ?_⟩
  rw [← ha]
  simp only [Bool.false_eq_true, if_false]
  exact List.mem_append_right _ List.mem_cons_self

/-- A write through BAR2 posts its bytes where BAR2_WIN and the access name them, and changes the credits and what INTEG holds of them. -/
theorem bar2Access_write_commits (hpcie : domOn s.start 38 = true) (hpast : domOn s.start 16 = true) (hoff : offset < 2 ^ 32) :
    ∃ e, exec (.bar2Access offset true data bytes find) s = s.commit e ∧ Touches [.out, .memOut, .sys, .past, .integ] s.start e
      ∧ e.memOut = [(s.start.sys.bar2Win * 2 ^ 32 + offset, data)] ∧ e.sys.bar2Win = s.start.sys.bar2Win := by
  refine ⟨_, by rw [exec_bar2Access, execBar2Access, nextWith_commit, if_neg (bar2_taken hpcie hpast hoff)], ?_, ?_, ?_⟩
  all_goals
    simp only [if_true]
    generalize s.start.sys.bar2Win * 2 ^ 32 + offset = a
    have hcharged : Touches [.out, .sys, .past] s.start (chargeClass s.start 22 (lineCount a data.length)) := chargeClass_touch ..
  · exact (Touches.andThen hcharged.mono (postMem_touch ..) rfl).andThen (pastWritten_touch ..) rfl
  · have hempty : (chargeClass s.start 22 (lineCount a data.length)).memOut = [] := hcharged.same .memOut rfl
    have hpast : (pastWritten (postMem (chargeClass s.start 22 (lineCount a data.length)) a data) a data.length).memOut
      = (postMem (chargeClass s.start 22 (lineCount a data.length)) a data).memOut := (pastWritten_touch ..).same .memOut rfl
    rw [hpast, postMem, hempty]
    rfl
  · rw [bar2Win_pastWritten, bar2Win_postMem, bar2Win_chargeClass]

/-- Whatever it finds, a transfer through BAR2 touches the credits, the bytes it writes, what INTEG holds of them and what it gives. -/
theorem bar2Access_commits (write : Bool) :
    ∃ e, exec (.bar2Access offset write data bytes find) s = s.commit e ∧ Touches [.out, .memOut, .sys, .past, .integ] s.start e := by
  cases write with
  | false =>
    obtain ⟨e, hexec, htouch⟩ := bar2Access_read_commits s offset data bytes find
    exact ⟨e, hexec, htouch.mono⟩
  | true =>
    by_cases hrefused : ¬ domOn s.start 38 ∨ ¬ domOn s.start 16 ∨ offset ≥ 2 ^ 32
    · exact ⟨_, by rw [exec_bar2Access, execBar2Access, nextWith_commit, if_pos hrefused], .refl⟩
    · simp only [not_or, not_not, ge_iff_le, Nat.not_le] at hrefused
      obtain ⟨hpcie, hpast, hoff⟩ := hrefused
      obtain ⟨e, hexec, htouch, -, -⟩ := bar2Access_write_commits s offset data bytes find hpcie hpast hoff
      exact ⟨e, hexec, htouch⟩

end

/-- Settles O7: a store goes where its address says, and a leg's record into its 256 bytes. -/
theorem pastureStores : Obligations.PastureStores := by
  unfold Obligations.PastureStores
  refine ⟨?hostWrite, ?hostRead, fun s leg hs => record_only rfl hs .adaptationRun, fun s leg hs => record_only rfl hs .feedbackStarved,
    fun s leg hs => record_only rfl hs .legDrainEnd, fun s => ⟨_, rfl, rfl⟩⟩
  case hostWrite =>
    intro s offset data bytes find hs hpcie hpast hoff
    obtain ⟨e, hexec, -, hposts, -⟩ := bar2Access_write_commits s offset data bytes find hpcie hpast hoff
    refine ⟨_, hexec, ?_, ?_⟩
    · intro i hi hin
      rw [hposts, memWrites, memWrites, List.getD_eq_getElem _ _ hi]
      exact memByte_write_in _ _ _ _ hs.1 hi hin
    · intro a ha
      rw [hposts]
      exact memByte_write_other _ _ _ _ hs.1 ha
  case hostRead =>
    intro s offset data bytes find hs
    obtain ⟨e, hexec, htouch⟩ := bar2Access_read_commits s offset data bytes find
    refine ⟨_, hexec, fun a => ?_⟩
    rw [show e.memOut = [] from htouch.same .memOut rfl]
    rfl

/-- A write through BAR2 that is served keeps the domains and BAR2_WIN, and makes its bytes in Pasture. -/
theorem bar2Access_write_next (s : State) (offset : Nat) (data : List Byte) (bytes : Nat) (find : EccFind) (hpcie : domOn s.start 38 = true)
    (hpast : domOn s.start 16 = true) (hoff : offset < 2 ^ 32) :
    ∃ t, exec (.bar2Access offset true data bytes find) s = .next t ∧ t.start.pwr = s.start.pwr ∧ t.start.sys.bar2Win = s.start.sys.bar2Win
      ∧ t.mem = memWrite s.mem (s.start.sys.bar2Win * 2 ^ 32 + offset) data := by
  obtain ⟨e, hexec, htouch, hposts, hwin⟩ := bar2Access_write_commits s offset data bytes find hpcie hpast hoff
  exact ⟨_, hexec, htouch.same .pwr rfl, hwin, by rw [hposts]; rfl⟩

/-- Settles O8: the read finds the same window served, and its bytes are those the write posted. -/
theorem pastureReadsBack : Obligations.PastureReadsBack := by
  unfold Obligations.PastureReadsBack
  intro s offset data bytes find hs hpcie hpast hoff hin
  obtain ⟨t, hexec, hpwr, hwin, hmem⟩ := bar2Access_write_next s offset data bytes find hpcie hpast hoff
  refine ⟨t, hexec, fun f hclean => ?_⟩
  have hdom : ∀ k, domOn t.start k = domOn s.start k := fun k => by unfold domOn domState; rw [hpwr]
  have hbytes : memRead t.mem (s.dev.sys.bar2Win * 2 ^ 32 + offset) data.length = data := by
    rw [hmem]
    exact memRead_write _ _ _ hs.1 hin
  have hread := bar2Access_read_gives t offset [] data.length f ((hdom 38).trans hpcie) ((hdom 16).trans hpast) hoff (by rw [hwin]; rfl) hclean
  rwa [hbytes] at hread

end Sys2Proof.Machine
end

section
/-! PROOFS. What events leave unchanged (O58, O59, O60). -/

namespace Sys2Proof.Machine

-- One proof after another: elaborated side by side, the whole text would take more memory than its check allows.
set_option Elab.async false

/-- What a change of the device touches, the writes to Pasture that it posts among it, it still touches once they are made. -/
theorem touches_committed {ps qs : List Part} {d e : Dev} (h : Touches qs d e) (hs : subParts qs (.memOut :: ps) = true) (hd : d.memOut = []) :
    Touches ps d { e with memOut := [] } := by
  constructor
  intro p hp
  by_cases hmem : p = .memOut
  · subst hmem
    exact hd.symm
  · have hq : (Part.memOut :: ps).contains p = false := by
      simp only [List.contains_cons, hp, Bool.or_false, beq_eq_false_iff_ne]
      exact hmem
    have hsame : p.same d e := ((Touches.refl (ps := Part.memOut :: ps)).andThen h hs).same p hq
    cases p with
    | memOut => exact absurd rfl hmem
    | _ => exact hsame

/-- An event that posts nothing to Pasture keeps what it does not touch. -/
theorem keeps_of_becomes {ps : List Part} {s : State} {i : Instr} {e : Dev} (hexec : exec i s = s.become e) (h : Touches ps s.start e) :
    Ends (exec i s) (Keeps ps s) :=
  ⟨_, hexec, rfl, rfl, h⟩

/-- An event that may write to Pasture leaves the queue, and every part that it does not touch. -/
theorem touches_of_commits {ps qs : List Part} {s : State} {i : Instr} {e : Dev} (h : Touches qs s.start e) (hs : subParts qs (.memOut :: ps) = true)
    (hexec : exec i s = s.commit e) : Ends (exec i s) (fun t => t.pending = s.pending ∧ Touches ps s.start t.dev) :=
  ⟨_, hexec, rfl, touches_committed h hs rfl⟩

theorem execDroveBurst_touch (m : Memory) (b : BurstIn) (d : Dev) :
    Touches [.out, .memOut, .sys, .past, .flock, .drove, .integ] d (if domOn d 2 then droveBurst m b d else d) := by
  split
  · exact droveBurst_touch m b d
  · exact .refl

theorem event_bar2Access_touch (s : State) (offset : Nat) (write : Bool) (data : List Byte) (bytes : Nat) (find : EccFind) :
    Ends (exec (.bar2Access offset write data bytes find) s)
      (fun t => t.pending = s.pending ∧ Touches [.out, .sys, .past, .integ] s.start t.dev) := by
  obtain ⟨e, hexec, htouch⟩ := bar2Access_commits s offset data bytes find write
  exact touches_of_commits htouch rfl hexec

/-- Settles O58: each event touches the parts listed for it. -/
theorem framesOfHostTimeAndAccess : Obligations.FramesOfHostTimeAndAccess := by
  unfold Obligations.FramesOfHostTimeAndAccess
  exact ⟨
    f_bellSnap, f_tickLoRead, f_sleepCntLoRead, f_tsqW3Read, f_referenceEvent, f_referenceMissing, f_todMessage, f_ppsOutEdge, f_ppsOutFall,
    f_sleepCalMeasure, f_bellMarkerRx, f_successionClaim, f_cascDelayMeasure, f_poolHandover, f_presencePress, f_presenceWindowExpiry,
    f_presenceStuck, f_presenceRelease, f_sealBroken, f_sealRestored, f_rngHealthFail, f_commandWaitExpiry, f_autoseal, f_otpProgramDone,
    f_downstreamFrame, f_opticsSdLoss, f_ploamBurstProfile, f_ploamAssignOnuId, f_ploamRangingTime, f_ploamDeactivateOnuId,
    f_ploamDisableSerialNumber, f_ploamRequestRegistration, f_ploamAssignAllocId, f_ploamKeyControl, f_tkeyExpiry, f_ploamSleepAllow,
    f_ploamUnknownType, f_sleepAwarePeriod, f_to1Expiry, f_to2Expiry, f_flapWindowExpiry, f_quarantineExpiry, f_watchdogTrip, f_bwmapRx,
    f_burstCommit, fun s _ => keeps_of_becomes (exec_dyingGaspDisable ..) (event_dyingGaspDisable_touch ..),
    fun s _ _ => keeps_of_becomes (exec_burstWindow ..) (event_burstWindow_touch ..),
    fun s _ _ _ _ _ => keeps_of_becomes (exec_bondOffer ..) (event_bondOffer_touch ..),
    fun s _ _ _ => keeps_of_becomes (exec_channelAdd ..) (event_channelAdd_touch ..),
    fun s _ _ _ => keeps_of_becomes (exec_channelRemove ..) (event_channelRemove_touch ..),
    fun s _ _ _ _ => keeps_of_becomes (exec_bondAlloc ..) (event_bondAlloc_touch ..),
    fun s _ _ => keeps_of_becomes (exec_bondRelease ..) (event_bondRelease_touch ..),
    fun s _ _ _ => keeps_of_becomes (exec_bondMsgUnknown ..) (event_bondMsgUnknown_touch ..),
    fun s _ => keeps_of_becomes (exec_channelJoinFrame ..) (event_channelJoinFrame_touch ..),
    fun s _ _ _ => keeps_of_becomes (exec_channelDeparture ..) (event_channelDeparture_touch ..),
    fun s _ _ => keeps_of_becomes (exec_bondMsgRetry ..) (event_bondMsgRetry_touch ..),
    fun s _ _ _ => keeps_of_becomes (exec_bondFragmentRx ..) (event_bondFragmentRx_touch ..),
    fun s _ => keeps_of_becomes (exec_reorderDeadline ..) (event_reorderDeadline_touch ..),
    fun s _ _ => keeps_of_becomes (exec_gemFrameRx ..) (event_gemFrameRx_touch ..),
    fun s _ _ => keeps_of_becomes (exec_gemReassemblyTimeout ..) (event_gemReassemblyTimeout_touch ..),
    fun s _ _ _ _ _ _ => keeps_of_becomes (exec_omciMessage ..) (event_omciMessage_touch ..),
    fun s _ _ _ _ => keeps_of_becomes (exec_sqTailDoorbell ..) (event_sqTailDoorbell_touch ..),
    fun s _ _ => keeps_of_becomes (exec_cqHeadDoorbell ..) (event_cqHeadDoorbell_touch ..),
    fun s _ _ => keeps_of_becomes (exec_ringEnable ..) (event_ringEnable_touch ..),
    fun s _ _ => keeps_of_becomes (exec_msixEnable ..) (event_msixEnable_touch ..),
    fun s _ _ => keeps_of_becomes (exec_leafWrite ..) (event_leafWrite_touch ..),
    fun s _ _ => keeps_of_becomes (exec_sessionHello ..) (event_sessionHello_touch ..),
    fun s _ _ _ _ _ => keeps_of_becomes (exec_sessionProof ..) (event_sessionProof_touch ..),
    fun s _ _ _ _ => keeps_of_becomes (exec_sessionCommand ..) (event_sessionCommand_touch ..),
    fun s _ _ _ => keeps_of_becomes (exec_sessionClose ..) (event_sessionClose_touch ..),
    fun s _ => keeps_of_becomes (exec_sessionIdleTimeout ..) (event_sessionIdleTimeout_touch ..),
    fun s _ => keeps_of_becomes (exec_sessionProofTimeout ..) (event_sessionProofTimeout_touch ..),
    fun s => keeps_of_becomes (exec_fwStoreWriteDone ..) (event_fwStoreWriteDone_touch ..),
    fun s _ => touches_of_commits (event_bellTick_touch ..) rfl rfl,
    fun s => keeps_of_becomes (exec_stagingCutoff ..) (event_stagingCutoff_touch ..)⟩

/-- Settles O59: each event touches the parts listed for it. -/
theorem framesOfPortsAndCascade : Obligations.FramesOfPortsAndCascade := by
  unfold Obligations.FramesOfPortsAndCascade
  exact ⟨
    f_fragAgeExpiry, f_queueFreeDrainEnd, f_hwmReset, fun s b => touches_of_commits (execDroveBurst_touch s.mem b s.start) rfl rfl, f_droveStart, f_droveResume, f_droveSkip, f_droveAbort, f_droveTrigger,
    f_pastureRequest, event_bar2Access_touch, f_rowRemapStart, f_rowRemapComplete, f_cvInit, f_cvData8, f_cvData16, f_cvData32, f_cvValueWrite, f_cvAliveWrite,
    f_clientFrameRx, f_serviceCollision, f_backoffExpiry, f_lldpSend, f_linkChange, f_rgmiiInbandStatus, f_lpiEnter, f_lpiWake, f_pauseQuantaExpiry,
    f_statSnap, f_cntLoRead, f_mkaFrame, f_cascHelloRx, f_cascTopoRx, f_cascKeepaliveRx, f_cascLaneCopyRx, f_cascKeepaliveSend, f_cascHelloSend,
    f_cascTopoSend, f_cascPortTimeout, f_cascPortRetry, f_cascDataRx, f_cascMediaRx, f_twinBeatSend, f_cascTwinBeatRx, f_cascTakeoverRx,
    f_twinPartnerLost, f_twinTakeover, f_tmDequeue, f_laneFailure, f_laneAdapted, f_laneCdrLoss, f_eyeScan, f_laneRecalPeriodic, f_laneMarkerRx,
    f_laneSlip, fun s _ => keeps_of_becomes (exec_hsDetInsertEdge ..) (event_hsDetInsertEdge_touch ..),
    fun s _ => keeps_of_becomes (exec_hsInsertDebounced ..) (event_hsInsertDebounced_touch ..),
    fun s _ _ _ => keeps_of_becomes (exec_hsClassify ..) (event_hsClassify_touch ..),
    fun s _ => keeps_of_becomes (exec_hsButtonArm ..) (event_hsButtonArm_touch ..),
    fun s _ => keeps_of_becomes (exec_hsDetRemoveEdge ..) (event_hsDetRemoveEdge_touch ..),
    fun s _ => keeps_of_becomes (exec_hsRemoveExpiry ..) (event_hsRemoveExpiry_touch ..),
    fun s _ _ => keeps_of_becomes (exec_hsButtonSample ..) (event_hsButtonSample_touch ..),
    fun s _ _ _ => keeps_of_becomes (exec_tdmFrameRx ..) (event_tdmFrameRx_touch ..),
    fun s _ => keeps_of_becomes (exec_tdmAlarmTimeout ..) (event_tdmAlarmTimeout_touch ..),
    fun s => keeps_of_becomes (exec_digestPublish ..) (event_digestPublish_touch ..),
    fun s _ => keeps_of_becomes (exec_digestDriftCheck ..) (event_digestDriftCheck_touch ..),
    fun s _ _ _ _ _ => keeps_of_becomes (exec_cascDigestRx ..) (event_cascDigestRx_touch ..)⟩

/-- Settles O60: each event touches the parts listed for it. -/
theorem framesOfMediaAndPower : Obligations.FramesOfMediaAndPower := by
  unfold Obligations.FramesOfMediaAndPower
  exact ⟨
    fun s _ _ _ _ _ _ => touches_of_commits (t_mul ..) rfl rfl, fun s _ _ _ _ _ _ => touches_of_commits (t_mac ..) rfl rfl,
    fun s _ _ _ _ _ _ => touches_of_commits (t_msu ..) rfl rfl, fun s _ _ _ _ _ _ => touches_of_commits (t_macSum ..) rfl rfl,
    fun s _ _ => touches_of_commits (t_clr ..) rfl rfl, fun s _ _ _ => touches_of_commits (t_mvV ..) rfl rfl,
    fun s _ _ _ => touches_of_commits (t_mvW ..) rfl rfl, fun s _ _ _ _ => touches_of_commits (t_mvS ..) rfl rfl,
    fun s _ _ _ _ => touches_of_commits (t_load ..) rfl rfl, fun s _ _ _ => touches_of_commits (t_store ..) rfl rfl,
    fun s _ _ _ _ _ => touches_of_commits (t_scalarOperation ..) rfl rfl, fun s _ _ => touches_of_commits (t_controlRegisterWrite ..) rfl rfl,
    fun s _ _ => touches_of_commits (t_wmcr ..) rfl rfl, fun s _ _ => touches_of_commits (t_branch ..) rfl rfl,
    fun s _ _ => touches_of_commits (t_call ..) rfl rfl, fun s _ => touches_of_commits (t_reti ..) rfl rfl, f_eventPulse,
    fun s _ _ _ => touches_of_commits (t_sig ..) rfl rfl, fun s _ _ => touches_of_commits (t_engineInterrupt ..) rfl rfl,
    fun s _ _ _ _ => touches_of_commits (t_slotTimer ..) rfl rfl, f_headsetBankSwap, f_contribPictureRx, f_decodeDone, f_tierEncodeDone,
    f_splicePicture, f_talkerCellHold, f_layoutRefresh, f_legPacketRx, f_rekeyGraceEnd, fun s _ => touches_of_commits (t_adaptationRun ..) rfl rfl,
    fun s _ => touches_of_commits (t_feedbackStarved ..) rfl rfl, f_feedbackReportSend, f_nackSend,
    fun s _ => touches_of_commits (t_legDrainEnd ..) rfl rfl, fun s _ _ _ => touches_of_commits (t_migrationHandover ..) rfl rfl,
    fun s _ => touches_of_commits (t_engineFailed ..) rfl rfl, f_groupUpdateLoad, f_groupUpdateDone, f_imcStreamRx, f_imcDegInterval,
    fun s => keeps_of_becomes (exec_thermtripClear ..) (event_thermtripClear_touch ..),
    fun s => keeps_of_becomes (exec_perstN ..) (event_perstN_touch ..), fun s => keeps_of_becomes (exec_pcieLinkL0 ..) (event_pcieLinkL0_touch ..),
    fun s _ _ _ _ _ => keeps_of_becomes (exec_boot ..) (event_boot_touch ..),
    fun s _ => keeps_of_becomes (exec_domainUpDone ..) (event_domainUpDone_touch ..),
    fun s _ => keeps_of_becomes (exec_domainDownDone ..) (event_domainDownDone_touch ..),
    fun s => keeps_of_becomes (exec_winterReady ..) (event_winterReady_touch ..),
    fun s => keeps_of_becomes (exec_pmeTurnOff ..) (event_pmeTurnOff_touch ..),
    fun s => keeps_of_becomes (exec_linkWaitExpiry ..) (event_linkWaitExpiry_touch ..),
    fun s _ _ _ _ => keeps_of_becomes (exec_wakePin ..) (event_wakePin_touch ..),
    fun s => keeps_of_becomes (exec_wakeHeadEnd ..) (event_wakeHeadEnd_touch ..),
    fun s _ => keeps_of_becomes (exec_wakeAlarm ..) (event_wakeAlarm_touch ..),
    fun s => keeps_of_becomes (exec_coreHeartbeatLoss ..) (event_coreHeartbeatLoss_touch ..),
    fun s _ => keeps_of_becomes (exec_winterCommit ..) (event_winterCommit_touch ..),
    fun s _ => keeps_of_becomes (exec_thaw ..) (event_thaw_touch ..), fun s => keeps_of_becomes (exec_thawDone ..) (event_thawDone_touch ..),
    fun s => keeps_of_becomes (exec_seasonSummerReady ..) (event_seasonSummerReady_touch ..),
    fun s => keeps_of_becomes (exec_autumnEvaluate ..) (event_autumnEvaluate_touch ..),
    fun s => keeps_of_becomes (exec_autumnGateGroup ..) (event_autumnGateGroup_touch ..),
    fun s => touches_of_commits (event_fwSwapResume_touch ..) rfl rfl, fun s => touches_of_commits (event_fwSwapTimeout_touch ..) rfl rfl,
    fun s _ => keeps_of_becomes (exec_controlCoreFence ..) (event_controlCoreFence_touch ..),
    fun s _ => keeps_of_becomes (exec_registerRead ..) (event_registerRead_touch ..),
    fun s _ _ => keeps_of_becomes (exec_registerWrite ..) (event_registerWrite_touch ..)⟩

end Sys2Proof.Machine
end

section
/-! PROOFS. The rows of a received alive counter (O12, R456). -/

namespace Sys2Proof.Machine

-- One proof after another: elaborated side by side, the whole text would take more memory than its check allows.
set_option Elab.async false

/-- How far a received value lies beyond the last accepted one, in the integers and as the check counts it. -/
theorem aliveDistance {a : Nat} (ha : a < 256) (v : Nat) : ((v : Int) - a) % 256 = ((v + 256 - a) % 256 : Nat) := by
  omega

section
variable {x : CvUnit} {v : Nat}

theorem aliveStep_repeated (hinit : x.aliveInit = false) (hk : (v + 256 - x.alive) % 256 = 0) :
    aliveStep x v = { x with result := 3, repeated := min 65535 (x.repeated + 1), run := 0 } := by
  simp [aliveStep, hinit, hk]

theorem aliveStep_ok (hinit : x.aliveInit = false) (hk : (v + 256 - x.alive) % 256 = 1) :
    aliveStep x v = { x with result := 1, alive := v, run := 0 } := by
  have htop : ¬ max 1 x.aliveMax < 1 := Nat.not_lt.mpr (Nat.le_max_left 1 x.aliveMax)
  simp only [aliveStep, hinit, hk, Bool.false_eq_true, gt_iff_lt, htop, false_and, if_false, one_ne_zero, if_true]

theorem aliveStep_skipped (hinit : x.aliveInit = false) (hk : 2 ≤ (v + 256 - x.alive) % 256) (htop : (v + 256 - x.alive) % 256 ≤ max 1 x.aliveMax) :
    aliveStep x v = { x with result := 4, alive := v, run := 0 } := by
  have h0 : (v + 256 - x.alive) % 256 ≠ 0 := by omega
  have h1 : (v + 256 - x.alive) % 256 ≠ 1 := by omega
  simp only [aliveStep, hinit, Bool.false_eq_true, gt_iff_lt, Nat.not_lt.mpr htop, false_and, if_false, h0, h1, htop, if_true]

/-- Beyond ALIVE_MAX, while it ends no rising run of three. -/
theorem aliveStep_stale (hinit : x.aliveInit = false) (hk : max 1 x.aliveMax < (v + 256 - x.alive) % 256) (hrun : x.run < 2 ∨ v ≤ x.lastStale) :
    aliveStep x v = { x with result := 5, stale := min 65535 (x.stale + 1), lastStale := v, run := if x.run > 0 ∧ v > x.lastStale then x.run + 1 else 1 } := by
  have h0 : (v + 256 - x.alive) % 256 ≠ 0 := by omega
  have h1 : (v + 256 - x.alive) % 256 ≠ 1 := by omega
  have hthird : ¬ ((v + 256 - x.alive) % 256 > max 1 x.aliveMax ∧ x.run ≥ 2 ∧ v > x.lastStale) := by omega
  simp only [aliveStep, hinit, Bool.false_eq_true, if_false, hthird, h0, h1, Nat.not_le.mpr hk]

/-- The third of three rising stale values. -/
theorem aliveStep_third (hinit : x.aliveInit = false) (hk : max 1 x.aliveMax < (v + 256 - x.alive) % 256) (hrun : 2 ≤ x.run) (hv : x.lastStale < v) :
    aliveStep x v = { x with result := 2, alive := v, run := 0 } := by
  have hthird : (v + 256 - x.alive) % 256 > max 1 x.aliveMax ∧ x.run ≥ 2 ∧ v > x.lastStale := ⟨hk, hrun, hv⟩
  simp only [aliveStep, hinit, Bool.false_eq_true, if_false, hthird, and_self, if_true]

/-- Of three rising values beyond ALIVE_MAX, with no run before them, two are stale and the third is taken. -/
theorem aliveStep_risingRun {v1 v2 v3 : Nat} (hinit : x.aliveInit = false) (hrun : x.run = 0) (h12 : v1 < v2) (h23 : v2 < v3)
    (hfar : ∀ v ∈ [v1, v2, v3], max 1 x.aliveMax < (v + 256 - x.alive) % 256) :
    (aliveStep x v1).result = 5 ∧ (aliveStep (aliveStep x v1) v2).result = 5
      ∧ (aliveStep (aliveStep (aliveStep x v1) v2) v3).result = 2 ∧ (aliveStep (aliveStep (aliveStep x v1) v2) v3).alive = v3 := by
  obtain ⟨h1, h2, h3⟩ : _ ∧ _ ∧ _ := by simpa using hfar
  rw [aliveStep_stale (x := x) hinit (by simpa using h1) (.inl (by omega)), if_neg (by omega),
    aliveStep_stale (v := v2) (by exact hinit) (by simpa using h2) (.inl (by simp)), if_pos (by simp [h12]),
    aliveStep_third (v := v3) (by exact hinit) (by simpa using h3) (by simp) h23]
  exact ⟨rfl, rfl, rfl, rfl⟩

end

/-- A write of CV_ALIVE, as a step: the unit is checked, and nothing else of the device changes. -/
theorem exec_cvAliveWrite_next {s : State} {u v : Nat} (hu : u < 64) (hon : domOn s.start 2 = true) (hv : v < 256) :
    ∃ t, exec (.cvAliveWrite u v) s = .next t ∧ Keeps [.integ] s t ∧ cvOf t.dev u = aliveStep (cvOf s.start u) v
      ∧ ∀ w, w ≠ u → cvOf t.dev w = cvOf s.start w := by
  refine ⟨_, exec_cvAliveWrite_on hu hon hv, ⟨rfl, rfl, onCv_touch ..⟩, ?_, ?_⟩
  · exact cvOf_onCv ..
  · exact fun w hw => cvOf_onCv_other _ u w _ hw

/-- CTRL is as it was where INTEG alone was touched. -/
theorem domOn_of_keeps_integ {s t : State} {k : Nat} (h : Keeps [.integ] s t) (hon : domOn s.start k = true) : domOn t.start k = true := by
  obtain ⟨-, -, htouch⟩ := h
  have hpwr : t.start.pwr = s.start.pwr := htouch.same .pwr rfl
  rw [← hon, domOn, domOn, domState, domState, hpwr]

/-- Settles O12: the rows one by one, and three writes for the rising run. -/
theorem aliveCounterRows : Obligations.AliveCounterRows := by
  unfold Obligations.AliveCounterRows
  refine ⟨?rows, ?risingRun⟩
  case rows =>
    intro s u v hu hon hv halive
    obtain ⟨t, hexec, ⟨hpending, hmem, htouch⟩, hunit, hothers⟩ := exec_cvAliveWrite_next hu hon hv
    rw [aliveDistance halive]
    refine ⟨t, hexec, hpending, hmem, htouch, hothers, fun hinit => ?_, fun hinit hk => ?_, fun hinit hk => ?_, fun hinit hk htop => ?_, fun hinit hk hrun => ?_⟩
    · simp [hunit, aliveStep_first hinit]
    · simp [hunit, aliveStep_repeated hinit (Int.ofNat.inj hk)]
    · simp [hunit, aliveStep_ok hinit (Int.ofNat.inj hk)]
    · simp [hunit, aliveStep_skipped hinit (Int.ofNat_le.mp hk) (Int.ofNat_le.mp htop)]
    · simp [hunit, aliveStep_stale hinit (by exact_mod_cast hk) hrun (v := v)]
  case risingRun =>
    intro s u v1 v2 v3 hu hon halive hinit hrun h12 h23 hv3 hfar
    have hdist : ∀ v ∈ [v1, v2, v3], max 1 (cvOf s.start u).aliveMax < (v + 256 - (cvOf s.start u).alive) % 256 := by
      intro v hv
      have := hfar v hv
      rw [aliveDistance halive] at this
      omega
    obtain ⟨hfirst, hsecond, hthird⟩ := aliveStep_risingRun hinit hrun h12 h23 hdist
    obtain ⟨t1, hexec1, hkeeps1, hunit1, -⟩ := exec_cvAliveWrite_next (v := v1) hu hon (by omega)
    have hon1 := domOn_of_keeps_integ hkeeps1 hon
    obtain ⟨t2, hexec2, hkeeps2, hunit2, -⟩ := exec_cvAliveWrite_next (v := v2) hu hon1 (by omega)
    obtain ⟨t3, hexec3, -, hunit3, -⟩ := exec_cvAliveWrite_next (v := v3) hu (domOn_of_keeps_integ hkeeps2 hon1) hv3
    rw [← hunit1] at hfirst hsecond hthird
    have hunit2 : cvOf t2.dev u = aliveStep (cvOf t1.dev u) v2 := hunit2
    rw [← hunit2] at hsecond hthird
    have hunit3 : cvOf t3.dev u = aliveStep (cvOf t2.dev u) v3 := hunit3
    rw [← hunit3] at hthird
    exact ⟨t1, hexec1, hfirst, t2, hexec2, hsecond, t3, hexec3, hthird⟩

end Sys2Proof.Machine
end

section
/-! PROOFS. What each Kervon command of the client ports and of PARSE comes to where its conditions hold (O28, O29). -/

namespace Sys2Proof.Machine

-- One proof after another: elaborated side by side, the whole text would take more memory than its check allows.
set_option Elab.async false

section
variable {v d : Dev}

/-! ### Client ports (R342 to R369) -/

theorem actCliConfig_good {mode : Nat} (hmode : mode < 3) (hfree : mode = v.cli.mode ∨ clientNamed v = false) :
    actCliConfig mode v d = .stage false 0 [] none d := by
  have hbusy : ¬ (mode ≠ v.cli.mode ∧ clientNamed v = true) := by
    rintro ⟨hchange, hnamed⟩
    rcases hfree with hsame | hunnamed
    · exact hchange hsame
    · rw [hunnamed] at hnamed
      exact Bool.false_ne_true hnamed
  exact (if_neg (Nat.not_le.mpr hmode)).trans (if_neg hbusy)

theorem actCliPath_good {port att : Nat} (hport : port ≤ 3) (hprovided : portProvided v port = true) (hatt : att ≤ 1) :
    actCliPath port att v d = .stage false 0 [] none d := by
  have hfields : ¬ (port > 3 ∨ ¬ portProvided v port = true ∨ att > 1) := by
    simp only [hprovided, not_true_eq_false, false_or]
    omega
  exact if_neg hfields

/-- What CLI_PORT_CONFIG comes to where its fields stand and, for a client port that it enables, TM serves it and has a queue for it, held already
or free to be taken (R369). -/
theorem actCliPortConfig_good {port : Nat} {f : PortFields} (hport : port ≤ 4) (hfields : portFieldsOk v port f = true)
    (henable : f.enable = true → portProvided v port = true
      ∧ (port < 4 → domOn v 10 = true ∧ ((ownedQueue v (.cut port)).isSome = true ∨ (cutQueue v port).isSome = true))) :
    actCliPortConfig port f v d = .stage false 0 [] none d := by
  have hnamed : ¬ (port > 4 ∨ (f.enable = true ∧ ¬ portProvided v port = true)) := by
    rintro (hbeyond | ⟨hen, hnone⟩)
    · exact Nat.not_le.mpr hbeyond hport
    · exact hnone (henable hen).1
  have hlit : ¬ (f.enable = true ∧ port < 4 ∧ ¬ domOn v 10 = true) := fun ⟨hen, hclient, hdark⟩ => hdark ((henable hen).2 hclient).1
  have hroom : ¬ (f.enable = true ∧ port < 4 ∧ (ownedQueue v (.cut port)).isNone = true ∧ (cutQueue v port).isNone = true) := by
    rintro ⟨hen, hclient, hunheld, hnone⟩
    rcases ((henable hen).2 hclient).2 with hheld | hfree
    · simp [Option.isNone_iff_eq_none.mp hunheld] at hheld
    · simp [Option.isNone_iff_eq_none.mp hnone] at hfree
  exact (if_neg hnamed).trans ((if_neg (not_not.mpr hfields)).trans ((if_neg hlit).trans (if_neg hroom)))

/-- What CLI_MACSEC_SA comes to where it takes away an association that the port has (R362). -/
theorem actCliMacsecSa_remove {port dir sci an : Nat} (hport : port ≤ 3) (hdir : dir ≤ 1) (han : an ≤ 3)
    (hthere : (portOf v port).macSas.any (fun a => a.outbound == decide (dir = 1) && a.sci == sci && a.an == an) = true) :
    actCliMacsecSa port dir sci an 0xFFFF v d = .stage false 0 [] none d := by
  have hfields : ¬ (port > 3 ∨ dir > 1 ∨ an > 3) := by omega
  exact (if_neg hfields).trans ((if_pos rfl).trans (if_pos hthere))

/-- What CLI_MACSEC_SA comes to where it names an association of MACsec, of its direction, free to be bound, and the port has room for it (R362). -/
theorem actCliMacsecSa_add {port dir sci an handle : Nat} {a : Sa} (hport : port ≤ 3) (hdir : dir ≤ 1) (han : an ≤ 3) (hhandle : handle ≠ 0xFFFF)
    (hsa : saOf v handle = some a) (hpath : a.rcd.path = 2) (hsame : a.rcd.dir = dir) (hfree : saBound a = false) (hlive : saRetired a = false)
    (hroom : macRoom (portOf v port) (decide (dir = 1)) sci an = true) : actCliMacsecSa port dir sci an handle v d = .stage false 0 [] none d := by
  have hfields : ¬ (port > 3 ∨ dir > 1 ∨ an > 3) := by omega
  have husable : ¬ (a.rcd.path ≠ 2 ∨ a.rcd.dir ≠ dir ∨ saBound a = true ∨ saRetired a = true) := by
    simp [hpath, hsame, hfree, hlive]
  refine (if_neg hfields).trans ((if_neg hhandle).trans ?_)
  simp only [hsa]
  exact (if_neg husable).trans (if_neg (not_not.mpr hroom))

/-! ### PARSE (R383 to R396) -/

theorem actParseRuleSet_good {pipe index : Nat} {rule : RuleRec} (hpipe : pipe ≤ 1) (hindex : index ≤ 4095) (haction : actionOk rule.action = true) :
    actParseRuleSet pipe index rule v d = .stage false 0 [] none d := by
  have hfields : ¬ (pipe > 1 ∨ index > 4095 ∨ ¬ actionOk rule.action = true) := by
    simp only [haction, not_true_eq_false, or_false]
    omega
  exact if_neg hfields

/-- A rule queried is answered with its record and its hits, and its hits are cleared where that is asked (R396). -/
theorem actParseRuleQuery_held {pipe index : Nat} {clear : Bool} {e : RuleEnt} (hpipe : pipe ≤ 1) (hindex : index ≤ 4095)
    (hrule : tget d.parse.rules (4096 * pipe + index) = some e) :
    actParseRuleQuery pipe index clear v d = .read (byteData (ruleBytes e.rule ++ leBytes e.hits.toNat 5))
      (if clear then onParse d (fun p => { p with rules := tmod p.rules (4096 * pipe + index) (fun r => { r with hits := 0 }) }) else d) := by
  have hfields : ¬ (pipe > 1 ∨ index > 4095) := by omega
  refine (if_neg hfields).trans ?_
  simp only [hrule]

theorem actParseRuleQuery_empty {pipe index : Nat} {clear : Bool} (hpipe : pipe ≤ 1) (hindex : index ≤ 4095)
    (hrule : tget d.parse.rules (4096 * pipe + index) = none) : actParseRuleQuery pipe index clear v d = .read [] d := by
  have hfields : ¬ (pipe > 1 ∨ index > 4095) := by omega
  refine (if_neg hfields).trans ?_
  simp only [hrule]

theorem actParsePortSet_good {port ooo : Nat} {action : ActionRec} (hport : parsePortExists port = true) (haction : actionOk action = true)
    (hooo : ooo ≤ 3) : actParsePortSet port action ooo v d = .stage false 0 [] none d := by
  have hfields : ¬ (¬ parsePortExists port = true ∨ ¬ actionOk action = true ∨ ooo > 3) := by
    simp only [hport, haction, not_true_eq_false, false_or]
    omega
  exact if_neg hfields

/-- A profile of the legs is set only while no leg uses it (R386). -/
theorem actParseHashProfileSet_good {profile fields : Nat} {seed : Word} (hprofile : profile ≤ 63) (hfields : fields < 2 ^ 12)
    (hunused : profile ≤ 7 → ∀ e ∈ v.media.legs, e.2.st = .free ∨ e.2.rcd.hashProfile ≠ profile) :
    actParseHashProfileSet profile fields seed v d = .stage false 0 [] none d := by
  have hrange : ¬ (profile > 63 ∨ fields ≥ 2 ^ 12) := by omega
  have hbusy : ¬ (profile ≤ 7 ∧ v.media.legs.any (fun e => e.2.st != .free && e.2.rcd.hashProfile == profile) = true) := by
    rintro ⟨hlegs, hany⟩
    obtain ⟨e, he, huses⟩ := List.any_eq_true.mp hany
    simp only [Bool.and_eq_true, bne_iff_ne, beq_iff_eq] at huses
    exact (hunused hlegs e he).elim huses.1 (fun hother => hother huses.2)
  exact (if_neg hrange).trans (if_neg hbusy)

theorem actParseHashTableSet_good {profile first : Nat} {entries : List Nat} (hlow : 8 ≤ profile) (hhigh : profile ≤ 63)
    (hroom : first + entries.length ≤ 512) (hsome : entries ≠ []) (hgood : ∀ e ∈ entries, e / 2 ^ 14 % 4 ≠ 3 ∧ e < 65536) :
    actParseHashTableSet profile first entries v d = .stage false 0 [] none d := by
  have hentries : entries.any (fun e => e / 2 ^ 14 % 4 == 3 || decide (e ≥ 65536)) = false := by
    refine List.any_eq_false.mpr fun e he => ?_
    obtain ⟨hdest, hword⟩ := hgood e he
    rw [Bool.or_eq_true, not_or, beq_iff_eq, decide_eq_true_iff]
    exact ⟨hdest, Nat.not_le.mpr hword⟩
  have hfields : ¬ (profile < 8 ∨ profile > 63 ∨ first + entries.length > 512 ∨ entries = []
      ∨ entries.any (fun e => e / 2 ^ 14 % 4 == 3 || decide (e ≥ 65536)) = true) := by
    simp only [hentries, hsome, Bool.false_eq_true, or_false]
    omega
  exact if_neg hfields

end

/-- Settles O28: each command's own conditions give one result, and a packet that passes the checks comes to what that result says. -/
theorem clientPortCommandsComplete : Obligations.ClientPortCommandsComplete := by
  unfold Obligations.ClientPortCommandsComplete
  refine ⟨?config, ?path, ?portConfig, ?addrSet, ?macsecSet, ?saRemove, ?saAdd, ?portQuery⟩
  case config => exact fun s h mode t ⟨hmode, hfree⟩ => kervon_stage t rfl (actCliConfig_good hmode hfree) (plain_start t)
  case path => exact fun s h port att t ⟨hport, hprovided, hatt⟩ => kervon_stage t rfl (actCliPath_good hport hprovided hatt) (plain_start t)
  case portConfig =>
    exact fun s h port f t ⟨hport, hfields, henable⟩ => kervon_stage t rfl (actCliPortConfig_good hport hfields henable) (plain_start t)
  case addrSet => exact fun s h port entry addr valid t hfields => kervon_stage t rfl (if_neg (by omega)) (plain_start t)
  case macsecSet => exact fun s h port validate replay enable t hfields => kervon_stage t rfl (if_neg (by omega)) (plain_start t)
  case saRemove =>
    rintro s h port dir sci an handle t ⟨hport, hdir, han, rfl, hthere⟩
    exact kervon_stage t rfl (actCliMacsecSa_remove hport hdir han hthere) (plain_start t)
  case saAdd =>
    rintro s h port dir sci an handle a t ⟨hport, hdir, han, hhandle, hsa, hpath, hsame, hfree, hlive, hroom⟩
    exact kervon_stage t rfl (actCliMacsecSa_add hport hdir han hhandle hsa hpath hsame hfree hlive hroom) (plain_start t)
  case portQuery => exact fun s h port t hport => kervon_read t rfl (if_neg (Nat.not_lt.mpr hport)) (plain_start t)

/-- Settles O29, command by command. -/
theorem parseCommandsComplete : Obligations.ParseCommandsComplete := by
  unfold Obligations.ParseCommandsComplete
  refine ⟨?ruleSet, ?ruleClear, ?ruleEmpty, ?ruleHeld, ?portSet, ?profileSet, ?tableSet, ?fragConfig, ?counters, ?ports, ?exactHeld, ?exactEmpty⟩
  case ruleSet =>
    exact fun s h pipe index rule t ⟨hpipe, hindex, haction⟩ => kervon_stage t rfl (actParseRuleSet_good hpipe hindex haction) (plain_start t)
  case ruleClear => exact fun s h pipe first count t hfields => kervon_stage t rfl (if_neg (by omega)) (plain_start t)
  case ruleEmpty =>
    exact fun s h pipe index clear t ⟨hpipe, hindex, hrule⟩ => kervon_read t rfl (actParseRuleQuery_empty hpipe hindex hrule) (plain_start t)
  case ruleHeld =>
    rintro s h pipe index clear e t ⟨hpipe, hindex, hrule⟩
    refine kervon_read t rfl (actParseRuleQuery_held hpipe hindex hrule) ?_
    cases clear
    · exact plain_start t
    · exact plain_start t
  case portSet =>
    exact fun s h port action ooo t ⟨hport, haction, hooo⟩ => kervon_stage t rfl (actParsePortSet_good hport haction hooo) (plain_start t)
  case profileSet =>
    exact fun s h profile fields seed t ⟨hprofile, hfields, hunused⟩ => kervon_stage t rfl (actParseHashProfileSet_good hprofile hfields hunused) (plain_start t)
  case tableSet =>
    exact fun s h profile first entries t ⟨hlow, hhigh, hroom, hsome, hgood⟩ =>
      kervon_stage t rfl (actParseHashTableSet_good hlow hhigh hroom hsome hgood) (plain_start t)
  case fragConfig => exact fun s h age t hage => kervon_stage t rfl (if_neg (by omega)) (plain_start t)
  case counters =>
    rintro s h item leg t rfl
    exact kervon_read t rfl (by simp only [actParseQuery, List.flatMap_def, List.map_cons, List.map_nil, List.flatten_cons, List.flatten_nil, List.append_nil]) (plain_start t)
  case ports =>
    rintro s h item leg t rfl
    exact kervon_read t rfl rfl (plain_start t)
  case exactHeld =>
    rintro s h item leg e t ⟨rfl, hheld⟩
    exact kervon_read t rfl (by simp only [actParseQuery, hheld]) (plain_start t)
  case exactEmpty =>
    rintro s h item leg t ⟨rfl, hnone⟩
    exact kervon_read t rfl (by simp only [actParseQuery, hnone]) (plain_start t)

end Sys2Proof.Machine
end

section
/-! PROOFS. What each Kervon command of TM comes to where its conditions hold (O30). -/

namespace Sys2Proof.Machine

-- One proof after another: elaborated side by side, the whole text would take more memory than its check allows.
set_option Elab.async false

section
variable {v d : Dev}

/-! ### Queues and groups (R403, R420, R421) -/

theorem actTmQueueAlloc_good {f : QueueFields} {q : Nat} (hfields : queueFieldsOk f = true) (hslot : slotOk v f.group f.slot none = true)
    (hfree : freeQueue v = some q) : actTmQueueAlloc f v d = .stage false q [q] none d := by
  simp only [actTmQueueAlloc, hfields, hslot, hfree, not_true_eq_false, or_self, if_false]

/-- What TM_QUEUE_SET comes to where the queue is there, and either the fields are its own or the queue is the host's and may have them (R421). -/
theorem actTmQueueSet_good {queue sojAlarm : Nat} {f : QueueFields} {x : TmQueue} (hhost : 64 ≤ queue) (halarm : sojAlarm < 2 ^ 32)
    (hthere : tget v.tm.queues queue = some x)
    (hset : sameQueue x f = true ∨ x.owner = .host ∧ queueFieldsOk f = true ∧ slotOk v f.group f.slot (some queue) = true) :
    actTmQueueSet queue f sojAlarm v d = .stage false 0 [] none d := by
  have hrange : ¬ (queue < 64 ∨ sojAlarm ≥ 2 ^ 32) := by omega
  refine (if_neg hrange).trans ?_
  simp only [hthere]
  by_cases hsame : sameQueue x f = true
  · exact if_pos hsame
  · obtain ⟨howner, hfields, hslot⟩ := hset.resolve_left hsame
    exact (if_neg hsame).trans ((if_neg (not_not.mpr howner)).trans (if_neg (by simp [hfields, hslot])))

theorem actTmQueueFree_good {queue : Nat} {x : TmQueue} (hhost : 64 ≤ queue) (hthere : tget v.tm.queues queue = some x) (howner : x.owner = .host) :
    actTmQueueFree queue v d = .stage false 0 [] none d := by
  refine (if_neg (Nat.not_lt.mpr hhost)).trans ?_
  simp only [hthere]
  exact if_neg (not_not.mpr howner)

section
variable {group root band quantum : Nat} (hroot : rootExists v root = true) (hband : band ≤ 3) (hlow : 64 ≤ quantum) (hhigh : quantum ≤ 262143)
include hroot hband hlow hhigh

theorem groupFields_good : ¬ (¬ rootExists v root = true ∨ band > 3 ∨ quantum < 64 ∨ quantum > 262143) := by
  simp only [hroot, not_true_eq_false, false_or]
  omega

theorem actTmGroupSet_create {n : Nat} (hfree : freeGroup v = some n) : actTmGroupSet group root band quantum true v d = .stage false n [n] none d := by
  refine (if_neg (groupFields_good hroot hband hlow hhigh)).trans ?_
  simp only [hfree, if_true]

theorem actTmGroupSet_change {x : TmGroup} (hthere : tget v.tm.groups group = some x) (hkind : x.kind = .host) :
    actTmGroupSet group root band quantum false v d = .stage false group [group] none d := by
  refine (if_neg (groupFields_good hroot hband hlow hhigh)).trans ?_
  simp only [hthere, hkind, Bool.false_eq_true, if_false, ne_eq, not_true_eq_false]

end

/-! ### Shapers, policers and meters (R406 to R412) -/

/-- What TM_SHAPER_SET comes to where it names a queue of the host's, a group or a root that is there, and its rate stands if it enables it (R408). -/
theorem actTmShaperSet_good {level number rate burst : Nat} {enable : Bool}
    (hthere : level = 0 ∧ 64 ≤ number ∧ thas v.tm.queues number = true ∨ level = 1 ∧ thas v.tm.groups number = true ∨ level = 2 ∧ rootExists v number = true)
    (hrate : enable = true → rateOk rate burst = true) : actTmShaperSet level number enable rate burst v d = .stage false 0 [] none d := by
  have hslow : ¬ (¬ True ∨ (enable = true ∧ ¬ rateOk rate burst = true)) := by
    rintro (hfalse | ⟨hen, hbad⟩)
    · exact hfalse trivial
    · exact hbad (hrate hen)
  rcases hthere with ⟨rfl, hlow, hqueue⟩ | ⟨rfl, hgroup⟩ | ⟨rfl, hroot⟩
  · simp only [actTmShaperSet, hlow, hqueue, decide_true, Bool.and_self]
    exact if_neg hslow
  · simp only [actTmShaperSet, hgroup]
    exact if_neg hslow
  · simp only [actTmShaperSet, hroot]
    exact if_neg hslow

theorem actTmRootSet_good {root : Nat} {adj : Int} (hroot : rootExists v root = true) (hlow : -32 ≤ adj) (hhigh : adj ≤ 63) :
    actTmRootSet root adj v d = .stage false 0 [] none d := by
  refine if_neg ?_
  simp only [hroot, not_true_eq_false, false_or]
  omega

theorem actTmPolicerSet_good {policer rate burst : Nat} {enable : Bool} (hpolicer : policer < 16384) (hrate : enable = true → rateOk rate burst = true) :
    actTmPolicerSet policer enable rate burst v d = .stage false 0 [] none d := by
  refine if_neg ?_
  rintro (hbeyond | ⟨hen, hbad⟩)
  · exact Nat.not_le.mpr hpolicer hbeyond
  · exact hbad (hrate hen)

theorem actTmMeterSet_good {meter : Nat} {f : MeterFields} (hmeter : meter < 1024) (hmode : f.mode ≤ 3) (hyellow : f.yellowAct ≤ 1) (hred : f.redAct ≤ 1)
    (hcommitted : rateOk f.cir f.cbs = true) (hpeak : rateOk f.pir f.pbs = true) : actTmMeterSet meter f v d = .stage false 0 [] none d := by
  refine if_neg ?_
  simp only [hcommitted, hpeak, not_true_eq_false, or_false]
  omega

/-- The Deep share is changed only to one that holds what is in it (R422). -/
theorem actTmBufConfig_good {high deepMib : Nat} (hhigh : high ≤ 262143) (hdeep : deepMib ≤ 8192) (hroom : placeBytes v .deep ≤ deepMib * 1048576) :
    actTmBufConfig high deepMib false v d = .stage false 0 [] none d := by
  have hrange : ¬ (high > 262143 ∨ deepMib > 8192) := by omega
  exact (if_neg hrange).trans ((if_neg Bool.false_ne_true).trans (if_neg (Nat.not_lt.mpr hroom)))

end

/-- Settles O30, command by command. -/
theorem queueCommandsComplete : Obligations.QueueCommandsComplete := by
  unfold Obligations.QueueCommandsComplete
  refine ⟨?alloc, ?setSame, ?setHost, ?free, ?groupCreate, ?groupChange, ?shapeQueue, ?shapeGroup, ?shapeRoot, ?root, ?policer, ?meter, ?meterMap, ?buffer,
    ?queryQueue, ?queryGroup, ?queryRoot, ?queryPolicer, ?queryMeter⟩
  case alloc => exact fun s h f q t ⟨hfields, hslot, hfree⟩ => kervon_stage t rfl (actTmQueueAlloc_good hfields hslot hfree) (plain_start t)
  case setSame =>
    exact fun s h queue f sojAlarm x t ⟨hhost, halarm, hthere, hsame⟩ => kervon_stage t rfl (actTmQueueSet_good hhost halarm hthere (.inl hsame)) (plain_start t)
  case setHost =>
    exact fun s h queue f sojAlarm x t ⟨hhost, halarm, hthere, hset⟩ => kervon_stage t rfl (actTmQueueSet_good hhost halarm hthere (.inr hset)) (plain_start t)
  case free => exact fun s h queue x t ⟨hhost, hthere, howner⟩ => kervon_stage t rfl (actTmQueueFree_good hhost hthere howner) (plain_start t)
  case groupCreate =>
    rintro s h group root band quantum create n t ⟨hroot, hband, hlow, hhigh, rfl, hfree⟩
    exact kervon_stage t rfl (actTmGroupSet_create hroot hband hlow hhigh hfree) (plain_start t)
  case groupChange =>
    rintro s h group root band quantum create x t ⟨hroot, hband, hlow, hhigh, rfl, hthere, hkind⟩
    exact kervon_stage t rfl (actTmGroupSet_change hroot hband hlow hhigh hthere hkind) (plain_start t)
  case shapeQueue =>
    exact fun s h level number enable rate burst t ⟨hlevel, hlow, hqueue, hrate⟩ =>
      kervon_stage t rfl (actTmShaperSet_good (.inl ⟨hlevel, hlow, hqueue⟩) hrate) (plain_start t)
  case shapeGroup =>
    exact fun s h level number enable rate burst t ⟨hlevel, hgroup, hrate⟩ =>
      kervon_stage t rfl (actTmShaperSet_good (.inr (.inl ⟨hlevel, hgroup⟩)) hrate) (plain_start t)
  case shapeRoot =>
    exact fun s h level number enable rate burst t ⟨hlevel, hroot, hrate⟩ =>
      kervon_stage t rfl (actTmShaperSet_good (.inr (.inr ⟨hlevel, hroot⟩)) hrate) (plain_start t)
  case root => exact fun s h root adj t ⟨hroot, hlow, hhigh⟩ => kervon_stage t rfl (actTmRootSet_good hroot hlow hhigh) (plain_start t)
  case policer => exact fun s h policer enable rate burst t ⟨hpolicer, hrate⟩ => kervon_stage t rfl (actTmPolicerSet_good hpolicer hrate) (plain_start t)
  case meter =>
    exact fun s h meter f t ⟨hmeter, hmode, hyellow, hred, hcommitted, hpeak⟩ =>
      kervon_stage t rfl (actTmMeterSet_good hmeter hmode hyellow hred hcommitted hpeak) (plain_start t)
  case meterMap => exact fun s h port cls meter t hfields => kervon_stage t rfl (if_neg (by omega)) (plain_start t)
  case buffer =>
    rintro s h high deepMib short t ⟨hhigh, hdeep, rfl, hroom⟩
    exact kervon_stage t rfl (actTmBufConfig_good hhigh hdeep hroom) (plain_start t)
  case queryQueue =>
    rintro s h item number t ⟨rfl, hnumber⟩
    exact kervon_read t rfl (if_neg (Nat.not_le.mpr hnumber)) (plain_start t)
  case queryGroup =>
    rintro s h item number t ⟨rfl, hnumber⟩
    exact kervon_read t rfl (if_neg (Nat.not_le.mpr hnumber)) (plain_start t)
  case queryRoot =>
    rintro s h item number t ⟨rfl, hroot⟩
    exact kervon_read t rfl (if_neg (not_not.mpr hroot)) (plain_start t)
  case queryPolicer =>
    rintro s h item number t ⟨rfl, hnumber⟩
    exact kervon_read t rfl (if_neg (Nat.not_le.mpr hnumber)) (plain_start t)
  case queryMeter =>
    rintro s h item number t ⟨rfl, hnumber⟩
    exact kervon_read t rfl (if_neg (Nat.not_le.mpr hnumber)) (plain_start t)

end Sys2Proof.Machine
end

section
/-! PROOFS. What each Kervon command of INTEG and of FOLD comes to where its conditions hold (O31, O32). -/

namespace Sys2Proof.Machine

-- One proof after another: elaborated side by side, the whole text would take more memory than its check allows.
set_option Elab.async false

section
variable {v d : Dev}

/-! ### INTEG (R448 to R464) -/

/-- The rate of a class inside the device (R448). -/
theorem actIntegScrubSet_inside {cls rate : Nat} (hcls : cls < 6) (hrate : rate ≤ 4095) : actIntegScrubSet cls rate v d = .stage false 0 [] none d := by
  have hfew : ¬ rate > (if cls < 6 then 4095 else 50000) := by
    rw [if_pos hcls]
    exact Nat.not_lt.mpr hrate
  have hclass : ¬ cls > 7 := by omega
  have hcredits : ¬ (cls ≥ 6 ∧ rate + scrubRate v (13 - cls) + 1024 > allotOf v 23) := fun ⟨hstack, _⟩ => Nat.not_le.mpr hcls hstack
  exact (if_neg hclass).trans ((if_neg hfew).trans (if_neg hcredits))

/-- The rate of a stack, within what class 23 holds beyond the other stack's rate (R448). -/
theorem actIntegScrubSet_stack {cls rate : Nat} (hlow : 6 ≤ cls) (hhigh : cls ≤ 7) (hrate : rate ≤ 50000)
    (hcredits : rate + scrubRate v (13 - cls) + 1024 ≤ allotOf v 23) : actIntegScrubSet cls rate v d = .stage false 0 [] none d := by
  have hfew : ¬ rate > (if cls < 6 then 4095 else 50000) := by
    rw [if_neg (Nat.not_lt.mpr hlow)]
    exact Nat.not_lt.mpr hrate
  have hroom : ¬ (cls ≥ 6 ∧ rate + scrubRate v (13 - cls) + 1024 > allotOf v 23) := fun ⟨_, hover⟩ => Nat.not_lt.mpr hcredits hover
  exact (if_neg (Nat.not_lt.mpr hhigh)).trans ((if_neg hfew).trans (if_neg hroom))

theorem actIntegFlip_good {cls check matchAddr : Nat} {data addr : BitVec 64} (hcls : cls ≤ 7) (hcheck : check ≤ 255) (hmatch : matchAddr ≤ 1) :
    actIntegFlip cls data check matchAddr addr v d = .stage false 0 [] none d :=
  (if_neg (Nat.not_lt.mpr hcls)).trans ((if_neg (Nat.not_lt.mpr hcheck)).trans (if_neg (Nat.not_lt.mpr hmatch)))

theorem actIntegDigestDump_good {block offset : Nat} (hblock : block ≤ 16) (hroom : offset + (blockImage block v).length ≤ pastureSize) :
    actIntegDigestDump block offset v d = .stage false 0 [(blockImage block v).length] none d :=
  (if_neg (Nat.not_lt.mpr hblock)).trans (if_neg (Nat.not_lt.mpr hroom))

/-- A row of the stack named, mapped already or with a spare row that no copy has taken (R464). -/
theorem actIntegRemap_good {stack offset thr : Nat} (hstack : stack ≤ 1) (hoffset : offset / 0x400000000 = stack) (hthr : thr ≤ 15)
    (hroom : rowMapped v stack (rowAt offset) = true ∨ (stackOf v stack).copying.length < (stackOf v stack).free) :
    actIntegRemap stack offset thr v d = .stage false 0 [] none d := by
  have hfull : ¬ (¬ rowMapped v stack (rowAt offset) = true ∧ (stackOf v stack).free ≤ (stackOf v stack).copying.length) := by
    rintro ⟨hunmapped, hnone⟩
    rcases hroom with hmapped | hfree
    · exact hunmapped hmapped
    · exact Nat.not_le.mpr hfree hnone
  exact (if_neg (Nat.not_lt.mpr hstack)).trans ((if_neg (not_not.mpr hoffset)).trans ((if_neg (Nat.not_lt.mpr hthr)).trans (if_neg hfull)))

/-! ### FOLD (R475 to R501) -/

theorem actTrustKeylistLoad_good {list : KeyList} (hlocked : d.fold.debugUnlocked = false) (hnone : d.fold.keylist = none)
    (hotp : d.fold.boot.otpInForce.isSome = true) (hhash : keylistHash list = (otpRules d).keylistHash) (hlist : keylistOk list = true) :
    actTrustKeylistLoad list v d = .now [] (onFold d (fun f => { f with keylist := some list })) := by
  have hinForce : d.fold.boot.otpInForce.isNone = false := by simpa [Option.isSome_iff_ne_none] using hotp
  simp only [actTrustKeylistLoad, hlocked, hnone, hinForce, hhash, hlist, Option.isSome_none, Bool.false_eq_true, ne_eq, not_true_eq_false, or_self, if_false]

theorem actTrustSessionOpen_good {k n : Nat} (hlocked : d.fold.debugUnlocked = false) (hfree : tfree d.fold.sessions 0 16 = some n) :
    actTrustSessionOpen (some k) v d = .now [n] (onFold d (fun f => { f with sessions := tset f.sessions n k })) := by
  simp only [actTrustSessionOpen, hlocked, hfree, Bool.false_eq_true, if_false]

theorem actTrustBaseImport_good {session n : Nat} {wrapped secret : List Byte} (hsession : thas d.fold.sessions session = true)
    (hlocked : d.fold.debugUnlocked = false) (hunwraps : unwraps d session wrapped secret = true) (hlow : 32 ≤ secret.length) (hhigh : secret.length ≤ 64)
    (hfree : tfree d.fold.bases 0 256 = some n) :
    actTrustBaseImport session wrapped secret v d = .now [n] (onFold d (fun f => { f with bases := tset f.bases n secret })) := by
  simp only [actTrustBaseImport, hsession, hlocked, hunwraps, hfree, Bool.false_eq_true, not_true_eq_false, Nat.not_lt.mpr hlow, gt_iff_lt,
    Nat.not_lt.mpr hhigh, or_self, if_false]

/-- A new association stored under its handle (R486). -/
def saStored (d : Dev) (n : Nat) (rcd : SaRecord) (key salt : Nat) : Dev :=
  onFold d (fun f => { f with sas := tset f.sas n { st := .ready, rcd, key, salt, pkts := 0, ctrlPkts := 0, bytes := 0, prot := [] } })

theorem actSaCreate_imported {session n : Nat} {wrapped plain : List Byte} (hlocked : d.fold.debugUnlocked = false)
    (hunwraps : unwraps d session wrapped plain = true) (hsession : thas d.fold.sessions session = true) (hrecord : saRecordOk (parseSa plain).1 = true)
    (hfree : tfree d.fold.sas 0 24576 = some n) :
    actSaCreate (.imported session wrapped plain) v d = .now [n] (saStored d n (parseSa plain).1 (parseSa plain).2.1 (parseSa plain).2.2) := by
  simp only [actSaCreate, saStored, hlocked, hunwraps, hsession, hrecord, hfree, Bool.false_eq_true, not_true_eq_false, or_self, if_false]

theorem actSaCreate_derived {base n : Nat} {secret : List Byte} {label : CtxLabel} {rcd : SaRecord} (hlocked : d.fold.debugUnlocked = false)
    (hbase : tget d.fold.bases base = some secret) (hpurpose : 0x10 ≤ label.purpose) (hversion : label.version = 1) (hshort : 16 ≤ label.outLen)
    (hlong : label.outLen ≤ 64) (hrecord : saRecordOk rcd = true) (hfree : tfree d.fold.sas 0 24576 = some n) :
    actSaCreate (.derived base label rcd) v d
      = .now [n] (saStored d n rcd (beNat ((kdf secret (labelBytes label) label.outLen).take rcd.keyLen))
        (beNat (((kdf secret (labelBytes label) label.outLen).drop rcd.keyLen).take 12))) := by
  simp only [actSaCreate, saStored, hlocked, hbase, hversion, hrecord, hfree, Nat.not_lt.mpr hpurpose, Nat.not_lt.mpr hshort, gt_iff_lt, Nat.not_lt.mpr hlong,
    Bool.false_eq_true, ne_eq, not_true_eq_false, or_self, if_false]

theorem actSaDestroy_good {handle : Nat} {a : Sa} (hthere : saOf d handle = some a) (hfree : saBound a = false) :
    actSaDestroy handle v d = .now [] (onFold d (fun f => { f with sas := tdel f.sas handle })) := by
  simp only [actSaDestroy, hthere, hfree, Bool.false_eq_true, if_false]

/-- The rollback counter of a program set in OTP (R477). -/
def rollbackSet (d : Dev) (program value k : Nat) : Dev :=
  raiseLeaf (onOtp d (fun o => { o with rollback := tset o.rollback k (program, value) })) 22 10

section
variable {program k old : Nat} {img : ImageDesc} (himg : (runningImages d).find? (fun i => i.programId == program) = some img)
include himg

theorem actTrustRollbackCommit_stands (hheld : rollbackFind d program = some (k, old)) (hstands : min img.rollback 255 ≤ old) :
    actTrustRollbackCommit program v d = .now [old] d := by
  simp only [actTrustRollbackCommit, himg, hheld, hstands, if_true]

theorem actTrustRollbackCommit_rises (hheld : rollbackFind d program = some (k, old)) (hrises : old < min img.rollback 255) :
    actTrustRollbackCommit program v d = .now [min img.rollback 255] (rollbackSet d program (min img.rollback 255) k) := by
  simp only [actTrustRollbackCommit, himg, hheld, Nat.not_le.mpr hrises, if_false, rollbackSet]

theorem actTrustRollbackCommit_first (hnone : rollbackFind d program = none) (hfree : tfree d.fold.otp.rollback 2 30 = some k) :
    actTrustRollbackCommit program v d = .now [min img.rollback 255] (rollbackSet d program (min img.rollback 255) k) := by
  simp only [actTrustRollbackCommit, himg, hnone, hfree, rollbackSet]

end

/-- A generation that keeps the root and gives no right that the one in force withholds (R495). -/
theorem actTrustOtpCommit_good {fields : OtpFields} {k : Nat} (hroot : fields.rootEpoch = (otpRules d).rootEpoch)
    (hjumper : fields.jumper = true → (otpRules d).jumper = true) (hdebug : fields.debug = true → (otpRules d).debug = true)
    (hidle : d.fold.otp.job = none) (hslot : otpFreeSlot d = some k) :
    actTrustOtpCommit fields true v d = .accepted false (otpBegin d k fields) := by
  have hfields : ¬ (fields.rootEpoch ≠ (otpRules d).rootEpoch ∨ (fields.jumper = true ∧ ¬ (otpRules d).jumper = true)
      ∨ (fields.debug = true ∧ ¬ (otpRules d).debug = true) ∨ ¬ true = true) := by
    rintro (hother | ⟨hset, hclear⟩ | ⟨hset, hclear⟩ | hfalse)
    · exact hother hroot
    · exact hclear (hjumper hset)
    · exact hclear (hdebug hset)
    · exact hfalse rfl
  refine (if_neg hfields).trans ?_
  simp only [hidle, hslot, Option.isSome_none, Bool.false_eq_true, if_false]

theorem actTrustRootRotate_good {k : Nat} (hidle : d.fold.otp.job = none) (hroot : (otpRules d).rootEpoch < 15) (hslot : otpFreeSlot d = some k) :
    actTrustRootRotate v d = .accepted false (otpBegin d k { otpRules d with rootEpoch := (otpRules d).rootEpoch + 1 }) := by
  simp only [actTrustRootRotate, hidle, hslot, Option.isSome_none, Bool.false_eq_true, if_false, ge_iff_le, Nat.not_le.mpr hroot]

end

theorem rollbackSet_touch (d : Dev) (program value k : Nat) : Touches [.out, .sys, .fold, .otp] d (rollbackSet d program value k) :=
  (onOtp_touch ..).mono.andThen (raiseLeaf_touch ..) rfl

/-- A command done at once: the epoch advanced, and DONE answered. -/
theorem finish_now {s : State} (h : CmdHdr) (c : KCmd) (data : List Nat) {e : Dev} (he : e.sys.epochStaged = s.dev.sys.epochStaged) :
    kFinish h c (kGated s.start c) s.start (.now data e) = answer (accept s c false e) (replyTo h c s.nextEpoch) .done data := by
  simp [kFinish, accept, kAdvance, replyTo, hdrCtx, he, State.nextEpoch]

/-- What a factory reset forgets before the device resets (R501). -/
def secretsForgotten (d : Dev) : Dev :=
  onFold d (fun f => { f with sas := [], sessions := [], bases := [], keylist := none, pairsHeld := false, resetReq := true })

/-- Settles O31, command by command. -/
theorem integrityCommandsComplete : Obligations.IntegrityCommandsComplete := by
  unfold Obligations.IntegrityCommandsComplete
  refine ⟨?counters, ?rows, ?digests, ?scrubInside, ?scrubStack, ?flip, ?config, ?dump, ?remap⟩
  case counters =>
    rintro s h item t rfl
    exact kervon_read t rfl rfl (plain_start t)
  case rows =>
    rintro s h item t rfl
    exact kervon_read t rfl rfl (plain_start t)
  case digests =>
    rintro s h item t rfl
    exact kervon_read t rfl rfl (plain_start t)
  case scrubInside => exact fun s h cls rate t ⟨hcls, hrate⟩ => kervon_stage t rfl (actIntegScrubSet_inside hcls hrate) (plain_start t)
  case scrubStack =>
    exact fun s h cls rate t ⟨hlow, hhigh, hrate, hcredits⟩ => kervon_stage t rfl (actIntegScrubSet_stack hlow hhigh hrate hcredits) (plain_start t)
  case flip =>
    exact fun s h cls data check matchAddr addr t ⟨hcls, hcheck, hmatch⟩ => kervon_stage t rfl (actIntegFlip_good hcls hcheck hmatch) (plain_start t)
  case config => exact fun s h mask t hmask => kervon_stage t rfl (if_neg (Nat.not_le.mpr hmask)) (plain_start t)
  case dump => exact fun s h block offset t ⟨hblock, hroom⟩ => kervon_stage t rfl (actIntegDigestDump_good hblock hroom) (plain_start t)
  case remap =>
    exact fun s h stack offset thr t ⟨hstack, hoffset, hthr, hroom⟩ => kervon_stage t rfl (actIntegRemap_good hstack hoffset hthr hroom) (plain_start t)

/-- Settles O32, command by command. -/
theorem trustCommandsComplete : Obligations.TrustCommandsComplete := by
  unfold Obligations.TrustCommandsComplete
  refine ⟨?query, ?identity, ?attest, ?importKey, ?bootSeal, ?keylist, ?fwVerify, ?sessionOpen, ?sessionClose, ?baseImport, ?baseDestroy, ?saImported,
    ?saDerived, ?saDestroy, ?saQuery, ?rollbackStands, ?rollbackRises, ?rollbackFirst, ?otpCommit, ?rootRotate, ?debugUnlock, ?presenceClose, ?factoryReset⟩
  case query =>
    intro s h clear t
    refine kervon_read t rfl rfl ?_
    cases clear
    · exact plain_start t
    · exact plain_start t
  case identity => exact fun s h t => kervon_read t rfl rfl (plain_start t)
  case attest => exact fun s h nonce t => kervon_read t rfl rfl (plain_start t)
  case importKey => exact fun s h t => kervon_read t rfl rfl (plain_start t)
  case bootSeal => exact fun s h t => kervon_now t rfl rfl (plain_start t)
  case keylist =>
    exact fun s h list t ⟨hlocked, hnone, hotp, hhash, hlist⟩ => kervon_now t rfl (actTrustKeylistLoad_good hlocked hnone hotp hhash hlist) (plain_start t)
  case fwVerify => exact fun s h offset sigOk t => kervon_read t rfl rfl (plain_start t)
  case sessionOpen =>
    rintro s h cipher transportKey k n t ⟨hlocked, rfl, hfree⟩
    exact kervon_now t rfl (actTrustSessionOpen_good hlocked hfree) (plain_start t)
  case sessionClose => exact fun s h session t hthere => kervon_now t rfl (if_neg (not_not.mpr hthere)) (plain_start t)
  case baseImport =>
    exact fun s h session wrapped secret n t ⟨hsession, hlocked, hunwraps, hlow, hhigh, hfree⟩ =>
      kervon_now t rfl (actTrustBaseImport_good hsession hlocked hunwraps hlow hhigh hfree) (plain_start t)
  case baseDestroy => exact fun s h base t hthere => kervon_now t rfl (if_neg (not_not.mpr hthere)) (plain_start t)
  case saImported =>
    rintro s h src n session wrapped plain t ⟨hlocked, rfl, hunwraps, hsession, hrecord, hfree⟩
    exact kervon_now t rfl (actSaCreate_imported hlocked hunwraps hsession hrecord hfree) (plain_start t)
  case saDerived =>
    rintro s h src secret n base label rcd t ⟨hlocked, rfl, hbase, hpurpose, hversion, hshort, hlong, hrecord, hfree⟩
    exact kervon_now t rfl (actSaCreate_derived hlocked hbase hpurpose hversion hshort hlong hrecord hfree) (plain_start t)
  case saDestroy => exact fun s h handle a t ⟨hthere, hfree⟩ => kervon_now t rfl (actSaDestroy_good hthere hfree) (plain_start t)
  case saQuery =>
    exact fun s h handle a t hthere => kervon_read t rfl (by simp only [actSaQuery, hthere]) (plain_start t)
  case rollbackStands =>
    exact fun s h program img k old t ⟨himg, hheld, hstands⟩ => kervon_now t rfl (actTrustRollbackCommit_stands himg hheld hstands) (plain_start t)
  case rollbackRises =>
    exact fun s h program img k old t ⟨himg, hheld, hrises⟩ =>
      kervon_now t rfl (actTrustRollbackCommit_rises himg hheld hrises) ((rollbackSet_touch ..).plain t)
  case rollbackFirst =>
    exact fun s h program img k t ⟨himg, hnone, hfree⟩ =>
      kervon_now t rfl (actTrustRollbackCommit_first himg hnone hfree) ((rollbackSet_touch ..).plain t)
  case otpCommit =>
    rintro s h fields zeroOk k t ⟨hroot, hjumper, hdebug, rfl, hidle, hslot⟩
    exact kervon_accepted t rfl (actTrustOtpCommit_good hroot hjumper hdebug hidle hslot) ((otpBegin_touch ..).plain t)
  case rootRotate =>
    exact fun s h k t ⟨hidle, hroot, hslot⟩ => kervon_accepted t rfl (actTrustRootRotate_good hidle hroot hslot) ((otpBegin_touch ..).plain t)
  case debugUnlock => exact fun s h t hdebug => kervon_now t rfl (if_neg (not_not.mpr hdebug)) (plain_start t)
  case presenceClose => exact fun s h t => kervon_now t rfl rfl (plain_start t)
  case factoryReset =>
    intro s h t
    show s.commit (resetAfter (kRun s.view h .trustFactoryReset (kGated s.start .trustFactoryReset) _ actTrustFactoryReset s.start)) = _
    rw [kRun_taken t rfl, show actTrustFactoryReset s.view s.start = .now [] (secretsForgotten s.start) from rfl, finish_now (e := secretsForgotten s.start) h _ _ rfl]
    refine congrArg s.commit (resetAfter_answer ?_ _ _ _)
    exact closeButton_resetReq ..

end Sys2Proof.Machine
end

section
/-! PROOFS. What each Kervon command of the cascade and of power comes to where its conditions hold (O33). -/

namespace Sys2Proof.Machine

-- One proof after another: elaborated side by side, the whole text would take more memory than its check allows.
set_option Elab.async false

section
variable {v d : Dev}

/-! ### The cascade (R541 to R551, R574) -/

/-- What CASC_CONFIG comes to where it names a base that is held, keeps its place while a port is up, and turns on ports whose PHYs are on (R551). -/
theorem actCascConfig_good {domain device ports base gen : Nat} (hdevice : device ≤ 15) (hports : ports ≤ 3) (hbase : thas v.fold.bases base = true)
    (hplace : domain = v.casc.domain ∧ device = v.casc.device ∨ cascUp v 0 = false ∧ cascUp v 1 = false)
    (hphy0 : getField ports 0 1 = 1 → domOn v 11 = true) (hphy1 : getField ports 1 1 = 1 → domOn v 12 = true) :
    actCascConfig domain device ports base gen v d = .stage false 0 [] none d := by
  have hfields : ¬ (device > 15 ∨ ports > 3 ∨ ¬ thas v.fold.bases base = true) := by
    simp only [hbase, not_true_eq_false, or_false]
    omega
  have hmoves : ¬ ((domain ≠ v.casc.domain ∨ device ≠ v.casc.device) ∧ (cascUp v 0 = true ∨ cascUp v 1 = true)) := by
    rintro ⟨hother, hup⟩
    obtain ⟨hdomain, hnumber⟩ | ⟨hdown0, hdown1⟩ := hplace
    · exact hother.elim (· hdomain) (· hnumber)
    · simp [hdown0, hdown1] at hup
  have hdark : [0, 1].any (fun p => getField ports p 1 == 1 && !domOn v (11 + p)) = false := by
    refine List.any_eq_false.mpr fun p hp => ?_
    simp only [Bool.and_eq_true, beq_iff_eq, Bool.not_eq_true', not_and, Bool.not_eq_false]
    rcases List.mem_pair.mp hp with rfl | rfl
    · exact hphy0
    · exact hphy1
  exact (if_neg hfields).trans ((if_neg hmoves).trans (if_neg (Bool.eq_false_iff.mp hdark)))

theorem actCascTakeover_good (htwin : v.casc.twin.isSome = true) (hsilent : d.casc.partnerHeard = false) : actCascTakeover v d = .stage false 0 [] none d := by
  have hnamed : v.casc.twin.isNone = false := by simpa [Option.isSome_iff_ne_none] using htwin
  simp only [actCascTakeover, hnamed, hsilent, Bool.false_eq_true, if_false]

theorem actCascSaPair_good {handle other : Nat} (hhandle : thas v.fold.sas handle = true) (hother : other < 24576) :
    actCascSaPair handle other v d = .stage false 0 [] none d := by
  refine if_neg ?_
  simp only [hhandle, not_true_eq_false, false_or]
  exact Nat.not_le.mpr hother

/-- What CTRL_FW_SWAP comes to for good firmware in the slot that does not run, while no update, no season change and no swap is under way (R574). -/
theorem actCtrlFwSwap_good {slot : Nat} {i : ImageDesc} (hslot : slot ≤ 1) (hidle : slot ≠ v.fold.boot.ctrlSlot)
    (hheld : tget v.fold.boot.store (6 + slot) = some i) (hgood : firmwareOk v 3 i false = none) (hupdates : ∀ x ∈ v.flock.groups, x.2.update = none)
    (hphase : v.pwr.phase = .steady) (hseason : v.pwr.seasonCtx = none) (hswap : v.aux.swapState ≠ 1) :
    actCtrlFwSwap slot true v d = .stage true 0 [] none d := by
  have hslots : ¬ (slot > 1 ∨ slot = v.fold.boot.ctrlSlot) := by omega
  have hupdating : v.flock.groups.any (fun g => g.2.update.isSome) = false := by
    refine List.any_eq_false.mpr fun x hx => ?_
    simp [hupdates x hx]
  simp only [actCtrlFwSwap, hslots, if_false, hheld, hgood, hupdating, hphase, hseason, hswap, Option.isSome_none, Bool.false_eq_true, ne_eq,
    not_true_eq_false, or_self]

/-! ### Power (R557 to R578) -/

theorem actPwrSeason_good {season : Nat} (hseason : season ≤ 1) (hquiet : pwrBusy v = false) (hnone : v.pwr.seasonCtx = none) :
    actPwrSeason season v d = .stage false 0 [] none d := by
  have hbusy : ¬ (pwrBusy v = true ∨ v.pwr.seasonCtx.isSome = true) := by simp [hquiet, hnone]
  exact (if_neg (Nat.not_lt.mpr hseason)).trans (if_neg hbusy)

/-- What PWR_WINTER comes to where nothing holds the device awake, something can wake it, and the banks kept hold what must be kept (R564, R565). -/
theorem actPwrWinter_good {banks keep thaw linkWait : Nat} (hquiet : winterBusy v = false) (hlow : getField banks 0 4 = 15) (hbanks : banks < 2 ^ 32)
    (hkeep : keep ≤ 3) (hthaw : thaw ≤ 1) (hshort : 100 ≤ linkWait) (hlong : linkWait ≤ 10000) (hwake : canWake v = true)
    (hneeded : banksNeeded v ≤ bitCount banks) : actPwrWinter banks keep thaw linkWait v d = .stage true 0 [] none d := by
  have hfields : ¬ (getField banks 0 4 ≠ 15 ∨ banks ≥ 2 ^ 32 ∨ keep > 3 ∨ thaw > 1 ∨ linkWait < 100 ∨ linkWait > 10000 ∨ ¬ canWake v = true) := by
    simp only [hlow, hwake, ne_eq, not_true_eq_false, false_or, or_false]
    omega
  exact (if_neg (Bool.eq_false_iff.mp hquiet)).trans ((if_neg hfields).trans (if_neg (Nat.not_lt.mpr hneeded)))

section
variable {domain : Nat} (hdomain : domain ≤ 39) (hhost : hostDomain domain = true) (hquiet : pwrBusy v = false)
include hdomain hhost hquiet

omit hquiet in
theorem domainFields_good {on : Nat} (hon : on ≤ 1) : ¬ (domain > 39 ∨ on > 1 ∨ ¬ hostDomain domain = true) := by
  simp only [hhost, not_true_eq_false, or_false]
  omega

/-- A domain that is off already, or on its way there, may be named to be off (R557). -/
theorem actPwrDomainSet_off_settled (hstate : domState v domain = .off ∨ domState v domain = .shuttingDown) :
    actPwrDomainSet domain 0 v d = .stage false 0 [] none d := by
  have hfields := domainFields_good hdomain hhost (Nat.zero_le 1)
  rcases hstate with hoff | hdown
  · simp only [actPwrDomainSet, hfields, hquiet, hoff, Bool.false_eq_true, if_false, if_true]
  · simp only [actPwrDomainSet, hfields, hquiet, hdown, Bool.false_eq_true, if_false, if_true]

/-- A domain that nothing uses may be turned off, and PON-MAC's only after the slices' (R557). -/
theorem actPwrDomainSet_off_idle (hon : domState v domain = .on) (hidle : domBusy v domain = false)
    (hslices : domain = 9 → ∀ k ∈ [4, 5, 6, 7], domOn v k = false) : actPwrDomainSet domain 0 v d = .stage false 0 [] none d := by
  have hfields := domainFields_good hdomain hhost (Nat.zero_le 1)
  have hbusy : ¬ (domBusy v domain = true ∨ (domain = 9 ∧ [4, 5, 6, 7].any (domOn v) = true)) := by
    rintro (hused | ⟨hmac, hany⟩)
    · exact Bool.eq_false_iff.mp hidle hused
    · obtain ⟨k, hk, hup⟩ := List.any_eq_true.mp hany
      exact Bool.eq_false_iff.mp (hslices hmac k hk) hup
  simp only [actPwrDomainSet, hfields, hquiet, hon, hbusy, Bool.false_eq_true, if_false, if_true]

theorem actPwrDomainSet_on_staged (hsettled : domState d domain ≠ .shuttingDown) : actPwrDomainSet domain 1 v d = .stage false 0 [] none d := by
  have hfields := domainFields_good hdomain hhost (Nat.le_refl 1)
  simp only [actPwrDomainSet, hfields, hquiet, Bool.false_eq_true, if_false, one_ne_zero]

/-- A domain on its way off comes on again once it is off, and its DONE waits (R557). -/
theorem actPwrDomainSet_on_deferred (hdown : domState d domain = .shuttingDown) : actPwrDomainSet domain 1 v d
    = .deferred (fun x => addWait (domainOn d domain) { dom := domain, wantOn := true, deferred := true, ctx := x }) := by
  have hfields := domainFields_good hdomain hhost (Nat.le_refl 1)
  simp only [actPwrDomainSet, hfields, hquiet, hdown, Bool.false_eq_true, if_false, one_ne_zero]

end

end

/-- Settles O33, command by command. -/
theorem cascadeAndPowerCommandsComplete : Obligations.CascadeAndPowerCommandsComplete := by
  unfold Obligations.CascadeAndPowerCommandsComplete
  refine ⟨?config, ?query, ?bind, ?twin, ?takeover, ?pair, ?swap, ?season, ?winter, ?offAlready, ?offIdle, ?offWaits, ?onStaged, ?onDeferred, ?alarm,
    ?autumn, ?power⟩
  case config =>
    exact fun s h domain device ports base gen t ⟨hdevice, hports, hbase, hplace, hphy0, hphy1⟩ =>
      kervon_stage t rfl (actCascConfig_good hdevice hports hbase hplace hphy0 hphy1) (plain_start t)
  case query => exact fun s h t => kervon_read t rfl rfl (plain_start t)
  case bind => exact fun s h tag home t hhome => kervon_stage t rfl (if_neg (Nat.not_lt.mpr hhome)) (plain_start t)
  case twin => exact fun s h twin t hfields => kervon_stage t rfl (if_neg (by omega)) (plain_start t)
  case takeover => exact fun s h t ⟨htwin, hsilent⟩ => kervon_stage t rfl (actCascTakeover_good htwin hsilent) (plain_start t)
  case pair => exact fun s h handle other t ⟨hhandle, hother⟩ => kervon_stage t rfl (actCascSaPair_good hhandle hother) (plain_start t)
  case swap =>
    rintro s h slot shared i t ⟨hslot, hidle, hheld, hgood, rfl, hupdates, hphase, hseason, hswap⟩
    exact kervon_stage t rfl (actCtrlFwSwap_good hslot hidle hheld hgood hupdates hphase hseason hswap) (plain_start t)
  case season => exact fun s h season t ⟨hseason, hquiet, hnone⟩ => kervon_stage t rfl (actPwrSeason_good hseason hquiet hnone) (plain_start t)
  case winter =>
    exact fun s h banks keep thaw linkWait t ⟨hquiet, hlow, hbanks, hkeep, hthaw, hshort, hlong, hwake, hneeded⟩ =>
      kervon_stage t rfl (actPwrWinter_good hquiet hlow hbanks hkeep hthaw hshort hlong hwake hneeded) (plain_start t)
  case offAlready =>
    rintro s h domain on t ⟨hdomain, hhost, hquiet, rfl, hoff⟩
    exact kervon_stage t rfl (actPwrDomainSet_off_settled hdomain hhost hquiet (.inl hoff)) (plain_start t)
  case offIdle =>
    rintro s h domain on t ⟨hdomain, hhost, hquiet, rfl, hon, hidle, hslices⟩
    exact kervon_stage t rfl (actPwrDomainSet_off_idle hdomain hhost hquiet hon hidle hslices) (plain_start t)
  case offWaits =>
    rintro s h domain on t ⟨hdomain, hhost, hquiet, rfl, hdown⟩
    exact kervon_stage t rfl (actPwrDomainSet_off_settled hdomain hhost hquiet (.inr hdown)) (plain_start t)
  case onStaged =>
    rintro s h domain on t ⟨hdomain, hhost, hquiet, rfl, hsettled⟩
    exact kervon_stage t rfl (actPwrDomainSet_on_staged hdomain hhost hquiet hsettled) (plain_start t)
  case onDeferred =>
    rintro s h domain on t ⟨hdomain, hhost, hquiet, rfl, hdown⟩
    exact kervon_deferred t rfl (actPwrDomainSet_on_deferred hdomain hhost hquiet hdown)
      (Touches.plain t ((domainOn_touch ..).andThen (addWait_touch ..) rfl))
  case alarm => exact fun s h value enable t hfields => kervon_stage t rfl (if_neg (by omega)) (plain_start t)
  case autumn => exact fun s h minGroups high low flags t hfields => kervon_stage t rfl (if_neg (by omega)) (plain_start t)
  case power => exact fun s h t => kervon_read t rfl rfl (plain_start t)

end Sys2Proof.Machine
end

section
/-! PROOFS. What the staged changes of client-port, PARSE and TM commands do at their bell (O35). -/

namespace Sys2Proof.Machine

-- One proof after another: elaborated side by side, the whole text would take more memory than its check allows.
set_option Elab.async false

/-! ### Client ports (R362, R369) -/

/-- A port is as it was where the client ports were left alone. -/
theorem portOf_of_touches {ps : List Part} {d e : Dev} (h : Touches ps d e) (p : Nat) (hcli : ps.contains .cli = false := by rfl) : portOf e p = portOf d p := by
  rw [portOf, portOf, show e.cli = d.cli from h.same .cli hcli]

/-- A link brought up or down: the port has it so, and its fields stand. -/
theorem linkTo_port (d : Dev) (p : Nat) (up : Bool) : (portOf (linkTo d p up) p).link = up ∧ (portOf (linkTo d p up) p).f = (portOf d p).f := by
  unfold linkTo
  split
  · next h => exact ⟨h, rfl⟩
  · rw [portOf_of_touches (raiseLeaf_touch ..), portOf_onPort]
    exact ⟨rfl, rfl⟩

theorem portOf_queueTaken (d : Dev) (port p : Nat) : portOf (((cutQueue d port).map (·.2)).getD d) p = portOf d p :=
  portOf_of_touches (getD_touch (cutQueue_opt d port)) p

section
variable {d : Dev} {port : Nat} {f : PortFields} (hseason : d.pwr.season ≠ .autumn)
include hseason

/-- Outside Autumn a port takes the fields given it (R369). -/
theorem portFields_applyCliPortConfig : (portOf (applyCliPortConfig port f d) port).f = f := by
  unfold applyCliPortConfig
  extract_lets autumn d₁ d₂ d₃
  have hset : (portOf d₂ port).f = f := by
    simp [d₂, autumn, hseason]
  have hfields : (portOf d₃ port).f = f := by
    dsimp only [d₃]
    split
    · next hservice =>
      obtain ⟨rfl, -⟩ := hservice
      rw [portOf_onPort]
      exact hset
    · exact hset
  split
  · split
    · rw [portOf_queueTaken]
      exact hfields
    · exact hfields
  · rw [(linkTo_port ..).2, portOf_of_touches (freeOwned_touch ..)]
    exact hfields

end

/-- A port disabled has its link down (R369). -/
theorem link_applyCliPortConfig_disabled {port : Nat} {f : PortFields} (hoff : f.enable = false) (d : Dev) :
    (portOf (applyCliPortConfig port f d) port).link = false := by
  simp only [applyCliPortConfig, hoff, Bool.false_eq_true, if_false]
  exact (linkTo_port ..).1

section
variable (d : Dev) (port sci an : Nat)

/-- An association taken from a port is no more among its associations (R362). -/
theorem macSas_applyCliMacsecSa_remove :
    ∀ a ∈ (portOf (applyCliMacsecSa port 1 sci an 0xFFFF d) port).macSas, ¬ (a.outbound = true ∧ a.sci = sci ∧ a.an = an) := by
  simp only [applyCliMacsecSa, if_true, portOf_onPort]
  intro a ha
  simpa [imp_iff_not_or, or_assoc] using (List.mem_filter.mp ha).2

/-- An outbound association given to a port is among its associations, and its number is sent with (R362). -/
theorem macSas_applyCliMacsecSa_add {handle : Nat} (hhandle : handle ≠ 0xFFFF) :
    (portOf (applyCliMacsecSa port 1 sci an handle d) port).txAn = an
      ∧ ({ outbound := true, sci := sci, an := an, handle := handle, nextPn := 1 } : MacSa) ∈ (portOf (applyCliMacsecSa port 1 sci an handle d) port).macSas := by
  have hbind : ∀ e : Dev, portOf (saBind e handle) port = portOf e port := fun e => rfl
  simp only [applyCliMacsecSa, hhandle, if_false, portOf_onPort, hbind]
  exact ⟨rfl, List.mem_append_right _ List.mem_cons_self⟩

end

/-- Settles O35: a staged command's change is its command's own, and each command's own change is followed case by case. -/
theorem bellEffectsOfPorts : Obligations.BellEffectsOfPorts := by
  unfold Obligations.BellEffectsOfPorts
  refine ⟨fun d z pick mode hz => applyChange_of_kervon hz d, ?pathSame, ?path, fun d z pick port entry addr valid hz => applyChange_of_kervon hz d,
    fun d z pick port validate replay enable hz => applyChange_of_kervon hz d, ?saRemove, ?saAdd, ?portOn, ?portOff,
    fun d z pick pipe index rule hz => applyChange_of_kervon hz d, fun d z pick pipe first count hz => applyChange_of_kervon hz d,
    fun d z pick port action ooo hz => applyChange_of_kervon hz d, ?profileLegs, ?profileOther, ?table, fun d z pick age hz => applyChange_of_kervon hz d,
    fun d z pick f hz => applyChange_of_kervon hz d, fun d z pick queue f sojAlarm hz => applyChange_of_kervon hz d,
    fun d z pick queue hz => applyChange_of_kervon hz d, ?groupNew, ?groupSet, ?shapeQueue, ?shapeGroup, ?shapeRoot,
    fun d z pick root adj hz => applyChange_of_kervon hz d, fun d z pick policer enable rate burst hz => applyChange_of_kervon hz d, ?meter, ?mapClear, ?mapSet,
    fun d z pick high deepMib deepBase hz => applyChange_of_kervon hz d⟩
  case pathSame =>
    intro d z pick port att hz hsame
    rw [applyChange_of_kervon hz, applyOf, applyCliPath, if_pos hsame]
  case path =>
    intro d z pick port att hz hother
    rw [applyChange_of_kervon hz, applyOf, applyCliPath, if_neg hother]
  case saRemove =>
    rintro d z pick port dir sci an handle hz ⟨rfl, rfl⟩
    rw [applyChange_of_kervon hz, applyOf]
    exact macSas_applyCliMacsecSa_remove d port sci an
  case saAdd =>
    rintro d z pick port dir sci an handle hz ⟨hhandle, rfl⟩
    rw [applyChange_of_kervon hz, applyOf]
    exact macSas_applyCliMacsecSa_add d port sci an hhandle
  case portOn =>
    rintro d z pick port f hz ⟨-, -, hseason⟩
    rw [applyChange_of_kervon hz, applyOf]
    exact portFields_applyCliPortConfig hseason
  case portOff =>
    rintro d z pick port f hz ⟨-, hoff, hseason⟩
    rw [applyChange_of_kervon hz, applyOf]
    exact ⟨portFields_applyCliPortConfig hseason, link_applyCliPortConfig_disabled hoff d⟩
  case profileLegs =>
    intro d z pick profile fields seed hz hlegs
    rw [applyChange_of_kervon hz, applyOf, applyParseHashProfileSet]
    simp only [hlegs, if_true]
  case profileOther =>
    rintro d z pick profile fields seed hz ⟨hother, hfields⟩
    rw [applyChange_of_kervon hz, applyOf, applyParseHashProfileSet]
    simp only [Nat.not_le.mpr hother, if_false, Nat.mod_eq_of_lt hfields]
  case table =>
    rintro d z pick profile first entries hz - i hi
    rw [applyChange_of_kervon hz, applyOf]
    have htable := tget_foldl_tset_zipIdx (fun e : Nat => e) (512 * profile + first) entries 0 d.parse.indir i
    rw [if_pos (by omega)] at htable
    rw [Nat.sub_zero, Option.map_id'] at htable
    exact htable
  case groupNew =>
    rintro d z pick group root band quantum create hz rfl
    rw [applyChange_of_kervon hz, applyOf, applyTmGroupSet, if_pos rfl]
  case groupSet =>
    rintro d z pick group root band quantum create hz rfl
    rw [applyChange_of_kervon hz, applyOf, applyTmGroupSet, if_neg Bool.false_ne_true]
  case shapeQueue =>
    rintro d z pick level number enable rate burst hz rfl
    exact applyChange_of_kervon hz d
  case shapeGroup =>
    rintro d z pick level number enable rate burst hz rfl
    exact applyChange_of_kervon hz d
  case shapeRoot =>
    rintro d z pick level number enable rate burst hz rfl
    exact applyChange_of_kervon hz d
  case meter =>
    intro d z pick meter f m hz hm
    rw [applyChange_of_kervon hz, applyOf]
    simp only [applyTmMeterSet, hm]
    exact tget_tset_same ..
  case mapClear =>
    intro d z pick port cls meter hz hnone
    rw [applyChange_of_kervon hz, applyOf, applyTmMeterMapSet]
    simp only [hnone, if_true]
  case mapSet =>
    intro d z pick port cls meter hz hsome
    rw [applyChange_of_kervon hz, applyOf, applyTmMeterMapSet]
    simp only [hsome, if_false]

end Sys2Proof.Machine
end

section
/-! PROOFS. What the events of presence, the seal, the random source, the waits, autoseal and OTP come to (O39). -/

namespace Sys2Proof.Machine

-- One proof after another: elaborated side by side, the whole text would take more memory than its check allows.
set_option Elab.async false

/-! ### Presence (R498) -/

section
variable {d : Dev}

theorem presencePress_opens (hunlocked : d.fold.guard.lockout = false) (hshut : d.fold.guard.window = .shut) :
    presencePress d = raiseLeaf (onGuard d (fun g => { g with pressed := true, window := .button, endTick := d.bell.tick.toNat + 240000 })) 22 3 := by
  simp [presencePress, raiseIf, onGuard, hunlocked, hshut]

/-- A press in an open window only makes its end later. -/
theorem presencePress_extends (hunlocked : d.fold.guard.lockout = false) (hopen : d.fold.guard.window = .button) :
    presencePress d = onGuard d (fun g => { g with pressed := true, window := .button, endTick := d.bell.tick.toNat + 240000 }) := by
  simp [presencePress, raiseIf, onGuard, hunlocked, hopen]

theorem closeButtonWindow_button {g : GuardState} (hopen : g.window = .button) : closeButtonWindow g = { g with window := .shut, endTick := 0 } :=
  if_pos hopen

end

/-! ### OTP (R495) -/

section
variable {s : State} {j : OtpJob} (hjob : s.start.fold.otp.job = some j)
include hjob

theorem exec_otpProgramDone_good : exec (.otpProgramDone true) s = s.become (followUp (raiseLeaf (onOtp s.start (fun o =>
    { o with job := none, failed := false, slots := tset o.slots j.slot { valid := true, fields := j.fields } })) 22 7) j.ctx .done []) := by
  rw [b_otpProgramDone]
  simp only [hjob, Bool.not_true, if_true]

theorem exec_otpProgramDone_failed : exec (.otpProgramDone false) s = s.become (raiseLeaf (followUp (raiseLeaf (onOtp s.start (fun o =>
    { o with job := none, failed := true, slots := tset o.slots j.slot { valid := false, fields := j.fields } })) 22 8) j.ctx .internal [0, 0, 0xFFFF]) 0 11) := by
  rw [b_otpProgramDone]
  simp only [hjob, Bool.not_false, Bool.false_eq_true, if_false]
  rfl

end

/-- Settles O39, event by event. -/
theorem foldEventsComplete : Obligations.FoldEventsComplete := by
  unfold Obligations.FoldEventsComplete
  refine ⟨?opens, ?pressedAgain, ?lockedOut, ?expires, ?stuck, b_presenceRelease, b_sealBroken, b_sealRestored, b_rngHealthFail, ?waitEnds, ?autoseal, ?otpGood,
    ?otpFailed⟩
  case opens =>
    rintro s ⟨hunlocked, hshut⟩
    rw [b_presencePress, presencePress_opens hunlocked hshut]
  case pressedAgain =>
    rintro s ⟨hunlocked, hopen⟩
    rw [b_presencePress, presencePress_extends hunlocked hopen]
  case lockedOut =>
    intro s hlocked
    rw [b_presencePress, presencePress, if_pos hlocked]
  case expires =>
    rintro s ⟨hopen, hend⟩
    have hdue : ¬ (domOn s.start 3 = true ∧ s.start.bell.tick.toNat < s.start.fold.guard.endTick) := by
      rintro ⟨hon, hlater⟩
      rcases hend with hoff | hpast
      · exact Bool.eq_false_iff.mp hoff hon
      · exact Nat.not_lt.mpr hpast hlater
    have hshut : onGuard s.start closeButtonWindow = onGuard s.start (fun g => { g with window := .shut, endTick := 0 }) := by
      rw [onGuard, closeButtonWindow_button hopen]
      rfl
    exact (b_presenceWindowExpiry s).trans (congrArg s.become ((if_neg hdue).trans hshut))
  case stuck =>
    intro s hopen
    rw [b_presenceStuck, ends_become]
    have hguard : (raiseLeaf (onGuard s.start fun g => { closeButtonWindow g with lockout := true }) 22 4).fold.guard
        = { closeButtonWindow s.start.fold.guard with lockout := true } := congrArg FoldState.guard ((raiseLeaf_touch ..).same .fold rfl)
    refine ⟨?_, ?_, raiseLeaf_sets _ _ (by decide)⟩
    · show (raiseLeaf _ 22 4).fold.guard.window = _
      rw [hguard, closeButtonWindow_button hopen]
    · show (raiseLeaf _ 22 4).fold.guard.lockout = _
      rw [hguard]
  case waitEnds =>
    intro s h op hbad
    exact (b_commandWaitExpiry s h op).trans (congrArg s.become (if_neg (Bool.eq_false_iff.mp hbad)))
  case autoseal =>
    rintro s ⟨hready, hunsealed⟩
    exact (b_autoseal s).trans (congrArg s.become (if_pos ⟨hready, Bool.eq_false_iff.mp hunsealed⟩))
  case otpGood =>
    rintro s readBackOk j ⟨hjob, rfl⟩
    exact exec_otpProgramDone_good hjob
  case otpFailed =>
    rintro s readBackOk j ⟨hjob, rfl⟩
    exact exec_otpProgramDone_failed hjob

end Sys2Proof.Machine
end

section
/-! PROOFS. What the events of the client and service ports come to (O43). -/

namespace Sys2Proof.Machine

-- One proof after another: elaborated side by side, the whole text would take more memory than its check allows.
set_option Elab.async false

/-- Two changes of a port that agree on the port as it is change the device alike. -/
theorem onPort_congr {d : Dev} {p : Nat} {f g : CliPort → CliPort} (h : f (portOf d p) = g (portOf d p)) : onPort d p f = onPort d p g := by
  unfold portOf at h
  simp only [onPort, tupd, h]

/-! ### Frames (R345 to R349) -/

section
variable {d : Dev} {p : Nat} {f : FrameIn} (hup : portUp d p = true) (hparse : domOn d 14 = true) (hplain : f.macsec = .untagged) (hpcs : f.pcsErr = false)
include hup hparse hplain hpcs

/-- A runt is counted and goes no further (R347). -/
theorem clientFrame_runt (hshort : f.bytes.length + 4 ≤ 63) : clientFrame d p f = bump d p (if f.fcsOk then 15 else 16) 1 := by
  simp [clientFrame, hup, hparse, hplain, hpcs, hshort]

/-- An oversize MAC control frame is counted and goes no further (R347). -/
theorem clientFrame_oversizeControl (hlen : 63 < f.bytes.length + 4) (hover : (portOf d p).f.maxFrame < f.bytes.length + 4)
    (htype : beAt f.bytes 12 2 = 0x8808) : clientFrame d p f = bump d p (if f.fcsOk then 17 else 18) 1 := by
  simp [clientFrame, hup, hparse, hplain, hpcs, Nat.not_le.mpr hlen, hover, htype]

/-! A whole frame of a length the port takes is counted as good, and goes where its type and its destination say. -/

section
variable (hfcs : f.fcsOk = true) (hlen : 63 < f.bytes.length + 4) (hfits : f.bytes.length + 4 ≤ (portOf d p).f.maxFrame)
include hfcs hlen hfits

theorem clientFrame_control (htype : beAt f.bytes 12 2 = 0x8808) :
    clientFrame d p f = macControl (countGood d p 0 8 (f.bytes.length + 4) f.bytes) p f.bytes := by
  simp [clientFrame, hup, hparse, hplain, hpcs, hfcs, Nat.not_le.mpr hlen, Nat.not_lt.mpr hfits, htype]

variable (htype : beAt f.bytes 12 2 ≠ 0x8808)
include htype

theorem clientFrame_lldp (hdest : beAt f.bytes 0 6 = 0x0180C200000E) :
    clientFrame d p f = lldpIn (countGood d p 0 8 (f.bytes.length + 4) f.bytes) p f.bytes := by
  simp [clientFrame, hup, hparse, hplain, hpcs, hfcs, Nat.not_le.mpr hlen, Nat.not_lt.mpr hfits, htype, hdest]

variable (hdest : beAt f.bytes 0 6 ≠ 0x0180C200000E)
include hdest

theorem clientFrame_unwanted (haddr : addrAccepted (portOf (countGood d p 0 8 (f.bytes.length + 4) f.bytes) p) f.bytes = false) :
    clientFrame d p f = bump (countGood d p 0 8 (f.bytes.length + 4) f.bytes) p 21 1 := by
  simp [clientFrame, hup, hparse, hplain, hpcs, hfcs, Nat.not_le.mpr hlen, Nat.not_lt.mpr hfits, htype, hdest, haddr]

theorem clientFrame_forwarded (haddr : addrAccepted (portOf (countGood d p 0 8 (f.bytes.length + 4) f.bytes) p) f.bytes = true)
    (hoff : (portOf (countGood d p 0 8 (f.bytes.length + 4) f.bytes) p).macEn = false) :
    clientFrame d p f
      = rxForward (countGood d p 0 8 (f.bytes.length + 4) f.bytes) p f (f.bytes.length + 4) (f.bytes.length + 4) false false := by
  simp [clientFrame, hup, hparse, hplain, hpcs, hfcs, Nat.not_le.mpr hlen, Nat.not_lt.mpr hfits, hfits, htype, hdest, haddr, macsecIn, hoff]

end

end

/-! ### Collisions on the service port (R356) -/

section
variable {d : Dev} {k : TmPkt} (hframe : (portOf d 4).csma.frame = some k)
include hframe

section
variable (hsending : (portOf d 4).csma.waiting = false) (hhalf : halfDuplex d 4 = true)
include hsending hhalf

theorem serviceCollision_late :
    serviceCollision d true = bump (onPort (emit d .jam 4 []) 4 (fun x => { x with csma := CsmaState.idle })) 4 54 1 := by
  simp [serviceCollision, hframe, hsending, hhalf]

theorem serviceCollision_excess (hmany : 16 ≤ (portOf d 4).csma.collisions + 1) :
    serviceCollision d false = bump (onPort (emit d .jam 4 []) 4 (fun x => { x with csma := CsmaState.idle })) 4 55 1 := by
  simp [serviceCollision, hframe, hsending, hhalf, hmany]

/-- A collision that is neither late nor the sixteenth has the frame wait for a back-off drawn anew. -/
theorem csma_serviceCollision_retry (hfew : (portOf d 4).csma.collisions + 1 < 16) :
    (portOf (serviceCollision d false) 4).csma = { (portOf d 4).csma with
      collisions := (portOf d 4).csma.collisions + 1, waiting := true,
      backoff := Config.free d.freeCtr % 2 ^ min ((portOf d 4).csma.collisions + 1) 10 } := by
  have hport : portOf (drawFree (emit d .jam 4 [])).2 4 = portOf d 4 := rfl
  simp only [serviceCollision, hframe, hsending, hhalf, ge_iff_le, Nat.not_le.mpr hfew, Bool.false_eq_true, not_true_eq_false, or_self, if_false,
    portOf_onPort, hport]
  rfl

end

theorem exec_backoffExpiry_over {s : State} (hs : s.start = d) (hwaiting : (portOf d 4).csma.waiting = true) (op : TxOp) :
    exec (.backoffExpiry op) s = s.become (attempt (onPort d 4 (fun x => { x with csma := { x.csma with waiting := false } })) 4 k op) := by
  rw [b_backoffExpiry]
  subst hs
  simp only [hframe, hwaiting, not_true_eq_false, if_false]

end

/-! ### Low-power idle (R358) -/

section
variable {d : Dev} {p : Nat} (hup : portUp d p = true) (hen : (portOf d p).f.lpiEn = true) (hsupported : lpiSupported d p = true)
  (hawake : (portOf d p).lpiTx = false) (hempty : rootOccupancy d (512 + p) = 0) (hidle : (portOf d p).csma.frame = none)
include hup hen hsupported hawake hempty hidle

/-- A port that may go idle within its TW_MAX does so. -/
theorem lpiEnter_sent (htw : resolvedTw d p ≤ (portOf d p).f.lpiTwMax) :
    lpiEnter d p false = bump (onPort (onPort d p (fun x => { x with twTx := resolvedTw d p % 1024, lpiRefused := false })) p
      (fun x => { x with lpiTx := true })) p 49 1 := by
  simp only [lpiEnter, hup, hen, hsupported, hawake, hempty, hidle, not_true_eq_false, Bool.false_eq_true, ne_eq, Option.isSome_none, or_self, if_false,
    portOf_onPort, gt_iff_lt, Nat.not_lt.mpr htw, decide_false]
  rw [onPort_congr (f := fun x => { x with twTx := resolvedTw d p % 1024, lpiRefused := decide (x.f.lpiTwMax < resolvedTw d p) })
    (g := fun x => { x with twTx := resolvedTw d p % 1024, lpiRefused := false }) (by simp [Nat.not_lt.mpr htw])]

/-- A link partner that wants longer than TW_MAX to wake is not sent low-power idle. -/
theorem lpiEnter_refused (htw : (portOf d p).f.lpiTwMax < resolvedTw d p) :
    lpiEnter d p false = onPort d p (fun x => { x with twTx := resolvedTw d p % 1024, lpiRefused := true }) := by
  simp only [lpiEnter, hup, hen, hsupported, hawake, hempty, hidle, not_true_eq_false, Bool.false_eq_true, ne_eq, Option.isSome_none, or_self, if_false,
    portOf_onPort, gt_iff_lt, htw, decide_true, if_true]
  exact onPort_congr (by simp [htw])

end

/-! ### Links (R345) -/

theorem linkTo_up {d : Dev} {p : Nat} (hdown : (portOf d p).link = false) :
    linkTo d p true = raiseLeaf (onPort d p (fun x => { x with link := true })) 12 p := by
  simp [linkTo, hdown]

theorem linkTo_down {d : Dev} {p : Nat} (hup : (portOf d p).link = true) :
    linkTo d p false = raiseLeaf (onPort d p (fun x => { x with link := false, lpiTx := false, paused := false })) 12 p := by
  simp [linkTo, hup]

/-! ### MKA (R490) -/

/-- A new SAK is drawn where the random source is good, into an association of MACsec of the direction named. -/
theorem mkaFrame_newSak {d : Dev} {h : Nat} (hrng : d.fold.guard.rngOk = true) (hfold : domOn d 1 = true) (hfree : tfree d.fold.sas 0 24576 = some h)
    (p dir ssci : Nat) :
    (tget (mkaFrame d p true dir ssci).fold.sas h).map (fun a => (a.st, a.rcd.path, a.rcd.dir)) = some (.ready, 2, min dir 1) := by
  have hon : domOn (emit d .mka p []) 1 = true := hfold
  have hfree' : tfree (emit d .mka p []).fold.sas 0 24576 = some h := hfree
  have hrng' : (emit d .mka p []).fold.guard.rngOk = true := hrng
  simp only [mkaFrame, hrng', hon, hfree', not_true_eq_false, or_self, if_false, onFold, tget_tset, if_true, Option.map_some]

/-- Settles O43, event by event. -/
theorem clientPortEventsComplete : Obligations.ClientPortEventsComplete := by
  unfold Obligations.ClientPortEventsComplete
  refine ⟨?runt, ?oversize, ?control, ?lldp, ?unwanted, ?forwarded, ?late, ?excess, ?retry, ?backoff, ?lldpSend, ?linkUp, ?linkDown, ?inband, ?inbandOff,
    ?lpiReceived, ?lpiSent, ?lpiRefused, ?wake, b_pauseQuantaExpiry, ?snap, ?counter, ?mka, ?sak⟩
  case runt =>
    rintro s port f ⟨hup, hparse, hplain, hpcs, hshort⟩
    exact (b_clientFrameRx ..).trans (congrArg s.become (clientFrame_runt hup hparse hplain hpcs hshort))
  case oversize =>
    rintro s port f ⟨hup, hparse, hplain, hpcs, hlen, hover, htype⟩
    exact (b_clientFrameRx ..).trans (congrArg s.become (clientFrame_oversizeControl hup hparse hplain hpcs hlen hover htype))
  case control =>
    rintro s port f ⟨hup, hparse, hplain, hpcs, hfcs, hlen, hfits, htype⟩
    exact (b_clientFrameRx ..).trans (congrArg s.become (clientFrame_control hup hparse hplain hpcs hfcs hlen hfits htype))
  case lldp =>
    rintro s port f ⟨hup, hparse, hplain, hpcs, hfcs, hlen, hfits, htype, hdest⟩
    exact (b_clientFrameRx ..).trans (congrArg s.become (clientFrame_lldp hup hparse hplain hpcs hfcs hlen hfits htype hdest))
  case unwanted =>
    rintro s port f ⟨hup, hparse, hplain, hpcs, hfcs, hlen, hfits, htype, hdest, haddr⟩
    exact (b_clientFrameRx ..).trans (congrArg s.become (clientFrame_unwanted hup hparse hplain hpcs hfcs hlen hfits htype hdest haddr))
  case forwarded =>
    rintro s port f ⟨hup, hparse, hplain, hpcs, hfcs, hlen, hfits, htype, hdest, haddr, hoff⟩
    exact (b_clientFrameRx ..).trans (congrArg s.become (clientFrame_forwarded hup hparse hplain hpcs hfcs hlen hfits htype hdest haddr hoff))
  case late =>
    rintro s late k ⟨hframe, hsending, hhalf, rfl⟩
    exact (b_serviceCollision ..).trans (congrArg s.become (serviceCollision_late hframe hsending hhalf))
  case excess =>
    rintro s late k ⟨hframe, hsending, hhalf, rfl, hmany⟩
    exact (b_serviceCollision ..).trans (congrArg s.become (serviceCollision_excess hframe hsending hhalf hmany))
  case retry =>
    rintro s late k ⟨hframe, hsending, hhalf, rfl, hfew⟩
    rw [b_serviceCollision, ends_become]
    dsimp only
    rw [csma_serviceCollision_retry hframe hsending hhalf hfew]
    exact ⟨hframe, rfl, rfl, Nat.mod_lt _ (Nat.two_pow_pos _)⟩
  case backoff => exact fun s op k ⟨hframe, hwaiting⟩ => exec_backoffExpiry_over hframe rfl hwaiting op
  case lldpSend =>
    rintro s port frame now q e ⟨hup, hqueue⟩
    rw [b_lldpSend]
    simp only [hup, not_true_eq_false, if_false, hqueue]
  case linkUp =>
    rintro s port up ⟨hport, rfl, hprovided, hlit, hen, hdown⟩
    have htaken : ¬ (port > 4 ∨ (true = true ∧ ¬ (portProvided s.start port = true ∧ portLit s.start port = true ∧ (portOf s.start port).f.enable = true))) := by
      simp [hprovided, hlit, hen, Nat.not_lt.mpr hport, -not_lt]
    exact (b_linkChange s port true).trans (congrArg s.become ((if_neg htaken).trans (linkTo_up hdown)))
  case linkDown =>
    rintro s port up ⟨hport, rfl, hlink⟩
    have htaken : ¬ (port > 4 ∨ (false = true ∧ ¬ (portProvided s.start port = true ∧ portLit s.start port = true ∧ (portOf s.start port).f.enable = true))) := by
      simp [Nat.not_lt.mpr hport, -not_lt]
    exact (b_linkChange s port false).trans (congrArg s.become ((if_neg htaken).trans (linkTo_down hlink)))
  case inband =>
    rintro s up speed duplex ⟨hauto, hlit, hen, hspeed⟩
    rw [b_rgmiiInbandStatus]
    simp only [hauto, hlit, hen, not_true_eq_false, and_self, or_self, if_false, Nat.min_eq_left hspeed]
  case inbandOff =>
    intro s up speed duplex hfixed
    exact (b_rgmiiInbandStatus s up speed duplex).trans (congrArg s.become (if_pos (.inl (Bool.eq_false_iff.mp hfixed))))
  case lpiReceived =>
    rintro s port received ⟨hup, rfl⟩
    exact (b_lpiEnter ..).trans (congrArg s.become ((if_neg (not_not.mpr hup)).trans (if_pos rfl)))
  case lpiSent =>
    rintro s port received ⟨hup, rfl, hen, hsupported, hawake, hempty, hidle, htw⟩
    exact (b_lpiEnter ..).trans (congrArg s.become (lpiEnter_sent hup hen hsupported hawake hempty hidle htw))
  case lpiRefused =>
    rintro s port received ⟨hup, rfl, hen, hsupported, hawake, hempty, hidle, htw⟩
    exact (b_lpiEnter ..).trans (congrArg s.become (lpiEnter_refused hup hen hsupported hawake hempty hidle htw))
  case wake =>
    intro s port us op hasleep
    exact (b_lpiWake s port us op).trans (congrArg s.become (if_neg (not_not.mpr hasleep)))
  case snap =>
    rintro s port ⟨hport, -, hon, hlit, hb⟩
    rw [b_statSnap]
    simp only [hport, if_true, hostWrites_served hb hon, statSnap, hlit, and_self]
  case counter =>
    rintro s port i ⟨hport, hi, hon, hb⟩
    rw [b_cntLoRead]
    simp only [hport, hi, and_self, if_true, hostReads_served hb hon, cntLoRead]
  case mka =>
    rintro s port newSak dir ssci ⟨hport, rfl⟩
    rw [b_mkaFrame]
    simp only [hport, if_true, mkaFrame, Bool.false_eq_true, not_false_eq_true, true_or]
  case sak =>
    rintro s port newSak dir ssci h ⟨hport, rfl, hrng, hfold, hfree⟩
    rw [b_mkaFrame, ends_become]
    simp only [hport, if_true]
    exact mkaFrame_newSak hrng hfold hfree port dir ssci

end Sys2Proof.Machine
end

section
/-! PROOFS. What the events of fragments, queues and dequeues come to (O44). -/

namespace Sys2Proof.Machine

-- One proof after another: elaborated side by side, the whole text would take more memory than its check allows.
set_option Elab.async false

/-! ### Fragments (R393) -/

/-- Where no fragment is older than AGE, none is counted and none is dropped. -/
theorem fragAge_young {d : Dev} (hyoung : ∀ e ∈ d.parse.frags, (d.bell.tick - e.last).toNat ≤ d.parse.age) : fragAge d = d := by
  have hold : ∀ e ∈ d.parse.frags, decide ((d.bell.tick - e.last).toNat > d.parse.age) = false :=
    fun e he => decide_eq_false (Nat.not_lt.mpr (hyoung e he))
  have hgone : ∀ j, d.parse.frags.filter (fun e => e.pipe == j && decide ((d.bell.tick - e.last).toNat > d.parse.age)) = [] := by
    refine fun j => List.filter_eq_nil_iff.mpr fun e he => ?_
    simp only [hold e he, Bool.and_false, Bool.false_eq_true, not_false_eq_true]
  have hkept : d.parse.frags.filter (fun e => !decide ((d.bell.tick - e.last).toNat > d.parse.age)) = d.parse.frags := by
    refine List.filter_eq_self.mpr fun e he => ?_
    simp only [hold e he, Bool.not_false]
  simp only [fragAge, hgone, List.length_nil, if_true, onParse, hkept]

theorem frags_onPipe (d : Dev) (j : Nat) (f : PipeRegs → PipeRegs) : (onPipe d j f).parse.frags = d.parse.frags := rfl

theorem frags_fragAge (d : Dev) :
    (fragAge d).parse.frags = d.parse.frags.filter (fun e => decide ((d.bell.tick - e.last).toNat ≤ d.parse.age)) := by
  have hyoung : ∀ e : FragEnt, (!decide ((d.bell.tick - e.last).toNat > d.parse.age)) = decide ((d.bell.tick - e.last).toNat ≤ d.parse.age) :=
    fun e => by rw [← decide_not, decide_eq_decide, gt_iff_lt, Nat.not_lt]
  simp only [fragAge, ← hyoung]
  split <;> split <;> rfl

/-! ### Dequeues (R404, R418, R420) -/

section
variable {d : Dev} {q : Nat} {x : TmQueue} {b : BitVec 64} (hqueue : tget d.tm.queues q = some x) (hfree : x.freeAt = some b)
include hqueue hfree

theorem queueDrainEnd_due (hdue : b.toNat ≤ d.bell.tick.toNat) :
    queueDrainEnd q d = onQueue (qDrop d q x.pkts.length) q (fun y => { y with pkts := [] }) := by
  simp only [queueDrainEnd, hqueue, hfree, Nat.not_lt.mpr hdue, if_false]

theorem queueDrainEnd_early (hearly : d.bell.tick.toNat < b.toNat) : queueDrainEnd q d = d := by
  simp only [queueDrainEnd, hqueue, hfree, hearly, if_true]

end

section
variable {s : State} {root cell : Nat} {op : TxOp} {find : EccFind} {e : Dev}

/-- A client port that may send, and whose cell reads clean, sends. -/
theorem exec_tmDequeue_port (hlow : 512 ≤ root) (hhigh : root ≤ 516) (hmay : portMaySend s.start (root - 512) = true) (htm : domOn s.start 15 = true)
    (hread : eccRead s.start (headClass s.start root op.now cell) cell find = (.clean, e)) :
    exec (.tmDequeue root op cell find) s = s.become (portDequeue e (root - 512) op) := by
  rw [b_tmDequeue]
  simp only [hlow, hhigh, hmay, htm, hread, and_self, true_or, if_true, Bool.and_self, not_true_eq_false, if_false]

/-- Where the cell is past correcting, the frame is dropped unread. -/
theorem exec_tmDequeue_port_unread (hlow : 512 ≤ root) (hhigh : root ≤ 516) (hmay : portMaySend s.start (root - 512) = true) (htm : domOn s.start 15 = true)
    (hread : eccRead s.start (headClass s.start root op.now cell) cell find = (.uncorrectable, e)) :
    exec (.tmDequeue root op cell find) s = s.become (dropUnread e root op.now) := by
  rw [b_tmDequeue]
  simp only [hlow, hhigh, hmay, htm, hread, and_self, true_or, if_true, Bool.and_self, not_true_eq_false, if_false]

/-- A cascade port that is up, and whose cell reads clean, sends. -/
theorem exec_tmDequeue_cascade (hroot : root = 524 ∨ root = 525) (hup : cascUp s.start (root - 524) = true) (hcasc : domOn s.start 39 = true)
    (htm : domOn s.start 15 = true) (hread : eccRead s.start (headClass s.start root op.now cell) cell find = (.clean, e)) :
    exec (.tmDequeue root op cell find) s = s.become (cascDequeue e (root - 524) op.now op.stamp) := by
  have hbeyond : ¬ root ≤ 516 := by omega
  rw [b_tmDequeue]
  simp only [hroot, hbeyond, hup, hcasc, htm, hread, or_true, if_true, Bool.and_self, not_true_eq_false, if_false]

end

/-- Settles O44, event by event. -/
theorem queueEventsComplete : Obligations.QueueEventsComplete := by
  unfold Obligations.QueueEventsComplete
  refine ⟨?young, ?aged, ?drained, ?draining, ?markOne, ?markAll, ?port, ?cascade, ?unread⟩
  case young =>
    intro s hyoung
    rw [b_fragAgeExpiry, fragAge_young hyoung]
  case aged =>
    intro s
    rw [b_fragAgeExpiry, ends_become]
    exact frags_fragAge s.start
  case drained =>
    rintro s q x b ⟨hqueue, hfree, hdue⟩
    rw [b_queueFreeDrainEnd, queueDrainEnd_due hqueue hfree hdue]
  case draining =>
    rintro s q x b ⟨hqueue, hfree, hearly⟩
    rw [b_queueFreeDrainEnd, queueDrainEnd_early hqueue hfree hearly]
  case markOne =>
    rintro s queue go all ⟨hon, hb, rfl, rfl⟩
    rw [b_hwmReset, hostWrites_served hb hon, hwmReset, if_neg Bool.false_ne_true, if_pos rfl]
  case markAll =>
    rintro s queue go all ⟨hon, hb, rfl⟩
    rw [b_hwmReset, hostWrites_served hb hon, hwmReset, if_pos rfl]
  case port => exact fun s root op cell find e ⟨hlow, hhigh, hmay, htm, hread⟩ => exec_tmDequeue_port hlow hhigh hmay htm hread
  case cascade => exact fun s root op cell find e ⟨hroot, hup, hcasc, htm, hread⟩ => exec_tmDequeue_cascade hroot hup hcasc htm hread
  case unread => exact fun s root op cell find e ⟨hlow, hhigh, hmay, htm, hread⟩ => exec_tmDequeue_port_unread hlow hhigh hmay htm hread

end Sys2Proof.Machine
end

section
/-! PROOFS. What the events of the twin, its beats and takeover, and the digests come to (O46). -/

namespace Sys2Proof.Machine

-- One proof after another: elaborated side by side, the whole text would take more memory than its check allows.
set_option Elab.async false

section
variable {d : Dev}

/-! ### The twin (R539, R548, R550) -/

/-- A CONTROL frame to this device that is taken is acted on and goes no further. -/
theorem cascCtlRx_mine {h : CascHdr} {c : CascCtl} (H : CascHears d h .control (ctlBytes c)) (hdst : h.dst = d.casc.device) (k : OutKind) (f : Dev → Dev) :
    cascCtlRx h c false k f d = f (cascGot h true d) :=
  cascRx_mine H hdst k h.corr f

theorem cascGot_twin (h : CascHdr) (control : Bool) (d : Dev) :
    (cascGot h control d).casc.twin = d.casc.twin ∧ (cascGot h control d).casc.twinSt = d.casc.twinSt := by
  unfold cascGot
  cases control <;> dsimp only <;> split_ifs <;> exact ⟨rfl, rfl⟩

theorem twinReturn_shadows (htook : d.casc.twinSt ≠ .tookOver) (hreturned : d.casc.twinSt ≠ .returned) :
    twinReturn d = raiseLeaf (onCasc (toShadows d) (fun c => { c with twinSt := .returned })) 24 4 :=
  if_neg (not_or_intro htook hreturned)

theorem takeoverRx_other {taken : Nat} (hother : taken ≠ d.casc.device) (home : Nat) :
    takeoverRx taken home d = onMedia d (fun m => { m with binds := m.binds.map (fun b => if b.2 = taken then (b.1, home) else b) }) :=
  (if_neg fun ⟨hsame, _⟩ => hother hsame).trans (if_neg hother)

/-- Of two devices that have taken each other over, the one whose partner has the lower number yields. -/
theorem takeoverRx_both (htook : d.casc.twinSt = .tookOver) (home : Nat) :
    takeoverRx d.casc.device home d = if home < d.casc.device then onCasc d (fun c => { c with yielding := true }) else d :=
  if_pos ⟨rfl, htook⟩

/-! ### What a takeover leaves (R548) -/

/-- Every leg is live. -/
def AllLive (d : Dev) : Prop := ∀ l ∈ d.media.legs, l.2.live = true

theorem AllLive.steerLeg (h : AllLive d) (n : Nat) : AllLive (steerLeg d n) := by
  unfold Machine.steerLeg
  split
  · exact h
  · intro x hx
    obtain ⟨y, hy, rfl⟩ := List.mem_map.mp hx
    have hlive := h y hy
    split <;> exact hlive

theorem AllLive.steerLegs (h : AllLive d) (ns : List Nat) : AllLive (ns.foldl Machine.steerLeg d) := by
  induction ns generalizing d with
  | nil => exact h
  | cons n ns ih => exact ih (h.steerLeg n)

theorem allLive_of_legs {e : Dev} (h : e.media.legs = tmap d.media.legs (fun _ l => { l with live := true })) : AllLive e := by
  intro x hx
  rw [h] at hx
  obtain ⟨y, -, rfl⟩ := List.mem_map.mp hx
  rfl

/-- A takeover is in force, is announced at the next tick, has every leg live, and raises its leaf. -/
theorem takeOver_effects {t : Nat} (htwin : d.casc.twin = some t) :
    (takeOver d).casc.twinSt = .tookOver ∧ (takeOver d).casc.announce = some (d.bell.tick + 1) ∧ AllLive (takeOver d)
      ∧ (leafWord (takeOver d).sys.int 24).getLsbD 0 = true := by
  unfold takeOver
  rw [htwin]
  dsimp -zeta only
  extract_lets ns d₁ d₂ d₃ d₄ d₅ d₆
  have hsteer : Touches [.parse, .media] d₂ d₃ := Touches.foldl .refl fun _ n h => h.andThen (steerLeg_touch _ n) rfl
  have hcast : Touches [.out, .casc] d₃ d₄ := broadcast_touch ..
  have hleaves : Touches [.out, .sys] d₆ (raiseLeaf (raiseLeaf d₆ 24 0) 24 1) := (raiseLeaf_touch ..).andThen (raiseLeaf_touch ..) rfl
  have hcasc : (raiseLeaf (raiseLeaf d₆ 24 0) 24 1).casc = d₆.casc := hleaves.same .casc rfl
  have hlive : AllLive d₃ := AllLive.steerLegs (d := d₂) (allLive_of_legs (d := d) rfl) ns
  clear_value d₄ d₃
  have hbell : d₅.bell = d.bell := (hcast.same .bell rfl).trans (hsteer.same .bell rfl)
  refine ⟨by rw [hcasc]; rfl, ?_, ?_, leafBit_raiseLeaf (raiseLeaf_sets d₆ 24 (by decide)) 24 1⟩
  · rw [hcasc, ← hbell]
    rfl
  · have hlegs : (raiseLeaf (raiseLeaf d₆ 24 0) 24 1).media.legs = d₃.media.legs := calc
      _ = d₆.media.legs := congrArg MediaState.legs (hleaves.same .media rfl)
      _ = d₄.media.legs := rfl
      _ = d₃.media.legs := congrArg MediaState.legs (hcast.same .media rfl)
    exact fun l hl => hlive l (hlegs ▸ hl)

/-! ### Digests (R460, R461) -/

theorem publishDigests_unheld (hnone : d.integ.driftHeld = none) :
    publishDigests d = sendDigest (onInteg d (fun i =>
      { i with blocks := digestsNow d, dev := deviceDigest i.mask (digestsNow d), epoch := i.nextEpoch, valid := true, busy := false, driftHeld := none })) := by
  simp only [publishDigests, hnone]

/-- Blocks that are as published have drifted nowhere, and the digest is sent again. -/
theorem driftCheck_none {drifted : Tbl (BitVec 64)} (hsame : ∀ e ∈ drifted, e.1 < 17 → tgetD d.integ.blocks e.1 0 = e.2) :
    driftCheck drifted d = sendDigest d := by
  have hbad : drifted.filter (fun e => decide (e.1 < 17 ∧ tgetD d.integ.blocks e.1 0 ≠ e.2)) = [] := by
    refine List.filter_eq_nil_iff.mpr fun e he => ?_
    rw [decide_eq_true_iff]
    exact fun ⟨hblock, hother⟩ => hother (hsame e he hblock)
  simp only [driftCheck, hbad, if_true]

/-- One block that has drifted is taken as it is, its bit is set, the cure is asked for, and the leaf is raised. -/
theorem driftCheck_one {b : Nat} {v : BitVec 64} (hb : b < 17) (hother : tgetD d.integ.blocks b 0 ≠ v) :
    tget (driftCheck [(b, v)] d).integ.blocks b = some v ∧ (driftCheck [(b, v)] d).integ.valid = true ∧ (driftCheck [(b, v)] d).integ.cure = true
      ∧ (driftCheck [(b, v)] d).integ.drift = d.integ.drift ||| 2 ^ b ∧ (leafWord (driftCheck [(b, v)] d).sys.int 21).getLsbD 20 = true := by
  have hbad : [(b, v)].filter (fun e => decide (e.1 < 17 ∧ tgetD d.integ.blocks e.1 0 ≠ e.2)) = [(b, v)] := by
    simp [hb]
    exact hother
  simp only [driftCheck, hbad, List.cons_ne_nil, if_false, List.foldl_cons, List.foldl_nil]
  generalize hcured : onInteg d _ = e
  have hsent : Touches [.out, .casc] (raiseLeaf e 21 20) (sendDigest (raiseLeaf e 21 20)) := sendDigest_touch _
  have hinteg : (sendDigest (raiseLeaf e 21 20)).integ = e.integ := (hsent.same .integ rfl).trans ((raiseLeaf_touch e 21 20).same .integ rfl)
  have hsys : (sendDigest (raiseLeaf e 21 20)).sys = (raiseLeaf e 21 20).sys := hsent.same .sys rfl
  rw [hinteg, hsys, ← hcured]
  exact ⟨tget_tset_same .., rfl, rfl, rfl, raiseLeaf_sets _ 21 (by decide)⟩

end

/-- Settles O46, event by event. -/
theorem twinAndDigestEventsComplete : Obligations.TwinAndDigestEventsComplete := by
  unfold Obligations.TwinAndDigestEventsComplete
  refine ⟨?beat, ?beatNone, ?returns, ?beatHeard, ?takenOther, ?takenBoth, ?partnerLost, ?takes, ?takesEffect, ?digestRx, ?publish, ?driftHeld, ?noDrift, ?drift⟩
  case beat =>
    rintro s z p ⟨hon, htwin, hpath⟩
    rw [b_twinBeatSend]
    simp only [hon, not_true_eq_false, if_false, hpath, List.foldl_cons, List.foldl_nil, htwin]
  case beatNone =>
    rintro s ⟨hon, hnone⟩
    rw [b_twinBeatSend]
    simp only [hon, not_true_eq_false, if_false]
    exact congrArg s.become (List.foldl_fixed' (fun p => by simp only [hnone]) _)
  case returns =>
    rintro s h state ⟨H, hdst, htwin, rfl, htook, hreturned⟩
    obtain ⟨hsame, hst⟩ := cascGot_twin h true s.start
    rw [b_cascTwinBeatRx, cascCtlRx_mine H hdst, if_pos ⟨htwin.symm.trans hsame.symm, rfl⟩]
    rw [twinReturn_shadows (by rwa [hst]) (by rwa [hst])]
  case beatHeard =>
    rintro s h state ⟨H, hdst, hstate⟩
    rw [b_cascTwinBeatRx, cascCtlRx_mine H hdst, if_neg fun ⟨_, hreturn⟩ => hstate hreturn]
  case takenOther =>
    rintro s h taken home ⟨H, hdst, hother⟩
    obtain ⟨-, hdev, -⟩ := cascGot_keeps h true s.start
    rw [b_cascTakeoverRx, cascCtlRx_mine H hdst, takeoverRx_other (by rwa [hdev])]
  case takenBoth =>
    rintro s h taken home ⟨H, hdst, rfl, htook⟩
    obtain ⟨-, hdev, -⟩ := cascGot_keeps h true s.start
    rw [b_cascTakeoverRx, cascCtlRx_mine H hdst, ← hdev, takeoverRx_both ((cascGot_twin h true s.start).2.trans htook)]
  case partnerLost =>
    rintro s ⟨htwin, htook⟩
    have hnamed : ¬ (s.start.casc.twin.isNone = true ∨ s.start.casc.twinSt = .tookOver) := by
      simp [htwin, htook]
    exact (b_twinPartnerLost s).trans (congrArg s.become (if_neg hnamed))
  case takes =>
    rintro s ⟨hlost, htook⟩
    exact (b_twinTakeover s).trans (congrArg s.become (if_pos ⟨hlost, htook⟩))
  case takesEffect =>
    rintro s ⟨hlost, htwin, htook⟩
    obtain ⟨z, hz⟩ := Option.ne_none_iff_exists'.mp htwin
    have hexec : exec .twinTakeover s = s.become (takeOver s.start) := (b_twinTakeover s).trans (congrArg s.become (if_pos ⟨hlost, htook⟩))
    exact ⟨_, hexec, takeOver_effects hz⟩
  case digestRx =>
    rintro s h peerBusy mask digest epoch ⟨H, hdst, hsrc⟩
    rw [exec_cascDigestRx, cascCtlRx_mine H hdst, if_pos hsrc]
  case publish =>
    rintro s ⟨hbusy, hon, hnone⟩
    exact (exec_digestPublish s).trans (congrArg s.become ((if_pos ⟨hbusy, hon⟩).trans (publishDigests_unheld hnone)))
  case driftHeld =>
    rintro s drifted ⟨hon, hbusy⟩
    exact (exec_digestDriftCheck s drifted).trans (congrArg s.become ((if_neg (not_not.mpr hon)).trans (if_pos hbusy)))
  case noDrift =>
    rintro s drifted ⟨hon, hidle, hsame⟩
    exact (exec_digestDriftCheck s drifted).trans
      (congrArg s.become ((if_neg (not_not.mpr hon)).trans ((if_neg (Bool.eq_false_iff.mp hidle)).trans (driftCheck_none hsame))))
  case drift =>
    rintro s drifted b v ⟨hon, hidle, rfl, hb, hother⟩
    have hexec : exec (.digestDriftCheck [(b, v)]) s = s.become (driftCheck [(b, v)] s.start) :=
      (exec_digestDriftCheck s _).trans (congrArg s.become ((if_neg (not_not.mpr hon)).trans (if_neg (Bool.eq_false_iff.mp hidle))))
    exact ⟨_, hexec, driftCheck_one hb hother⟩

end Sys2Proof.Machine
end

section
/-! PROOFS. What Drove's bursts, starts, resumes, skips, aborts and triggers come to (O49). -/

namespace Sys2Proof.Machine

-- One proof after another: elaborated side by side, the whole text would take more memory than its check allows.
set_option Elab.async false

section
variable {d : Dev} {c : Nat} {h : Chan}

/-! ### The one channel of a device that has one -/

theorem chanOf_single (hchans : d.drove.chans = [(c, h)]) : chanOf d c = h := by
  simp [chanOf, hchans, tgetD, tget]

theorem nextChan_single (d : Dev) (c : Nat) : nextChan d [c] = some c := by
  have hmax : maxN [chanPrio d c] = chanPrio d c := by simp [maxN]
  by_cases hlast : c > tgetD d.drove.last (chanPrio d c) 127
  · simp [nextChan, hmax, hlast]
  · simp [nextChan, hmax, hlast]

theorem nextChan_nil (d : Dev) : nextChan d [] = none := rfl

theorem wantsBurst_of_desc {b : BurstIn} {x : DescIn} (hactive : (chanOf d c).st = .active) (hdesc : (chanOf d c).desc = some x)
    (hreq : x.reqEn = true → b.reqs.contains x.req = true) : wantsBurst d b c = true := by
  simp only [wantsBurst, hactive, hdesc, beq_self_eq_true, Bool.true_and, Bool.or_eq_true, Bool.not_eq_true']
  exact (Bool.eq_false_or_eq_true x.reqEn).symm.imp_right hreq

theorem wantsBurst_of_inactive {b : BurstIn} (hactive : (chanOf d c).st ≠ .active) : wantsBurst d b c = false := by
  simp [wantsBurst, hactive]

theorem hasCredit_of_desc {x : DescIn} (hdesc : (chanOf d c).desc = some x) : hasCredit d c = (!usesPasture x || holdsCredit d (chanClass c x)) := by
  simp only [hasCredit, hdesc]

/-- A class that stalls, with no more requests waiting, holds a credit where it did. -/
theorem holdsCredit_stallClass (d : Dev) (k : Nat) : holdsCredit (stallClass d k 0) k = holdsCredit d k := by
  have hpast : (stallClass d k 0).past = (onClass d k (fun c => { c with waiting := c.waiting + 0, stall := true })).past := (raiseLeaf_touch ..).same .past rfl
  simp [holdsCredit, pastClass, hpast, onClass, onPast]

/-! ### Bursts (R435) -/

section
variable {b : BurstIn} {x : DescIn} (m : Memory) (hchans : d.drove.chans = [(c, h)]) (hactive : h.st = .active) (hdesc : h.desc = some x)
  (hreq : x.reqEn = true → b.reqs.contains x.req = true)
include hchans hactive hdesc hreq

/-- The one channel, with its descriptor fetched and a credit where it needs one, has the burst. -/
theorem droveBurst_single (hcredit : usesPasture x = true → holdsCredit d (chanClass c x) = true) :
    droveBurst m b d = moveBurst m b (onDrove d (fun z => { z with last := tset z.last (chanPrio d c) c })) c x := by
  have hchan := chanOf_single hchans
  have hwants : wantsBurst d b c = true := wantsBurst_of_desc (by rw [hchan, hactive]) (by rw [hchan, hdesc]) hreq
  have hhas : hasCredit d c = true := by
    rw [hasCredit_of_desc (by rw [hchan, hdesc])]
    cases huses : usesPasture x with
    | false => rfl
    | true => exact hcredit huses
  have hkept : chanOf (onDrove d (fun z => { z with last := tset z.last (chanPrio d c) c })) c = h := hchan
  simp [droveBurst, hchans, hchan, hdesc, hwants, hhas, nextChan_single, hkept]

/-- Without a credit that it needs, the one channel's class stalls and nothing is moved. -/
theorem droveBurst_stalled (huses : usesPasture x = true) (hnone : holdsCredit d (chanClass c x) = false) : droveBurst m b d = stallClass d (chanClass c x) 0 := by
  have hchan := chanOf_single hchans
  have hwants : wantsBurst d b c = true := wantsBurst_of_desc (by rw [hchan, hactive]) (by rw [hchan, hdesc]) hreq
  have hhas : hasCredit d c = false := by
    rw [hasCredit_of_desc (by rw [hchan, hdesc]), huses, hnone]
    rfl
  have hstalled : hasCredit (stallClass d (chanClass c x) 0) c = false := by
    have hdrove : (stallClass d (chanClass c x) 0).drove = d.drove := (raiseLeaf_touch ..).same .drove rfl
    rw [hasCredit_of_desc (by rw [chanOf, hdrove, ← chanOf, hchan, hdesc]), holdsCredit_stallClass, huses, hnone]
    rfl
  simp [droveBurst, hchans, hchan, hdesc, hwants, hhas, hstalled, nextChan_nil]

end

/-- With no channel active, nothing is fetched and nothing is moved. -/
theorem droveBurst_idle (m : Memory) (b : BurstIn) (hidle : ∀ e ∈ d.drove.chans, (chanOf d e.1).st ≠ .active) : droveBurst m b d = d := by
  have hnone : ∀ p : Nat → Bool, (∀ k, (chanOf d k).st ≠ .active → p k = false) → (d.drove.chans.map (·.1)).filter p = [] := by
    intro p hp
    refine List.filter_eq_nil_iff.mpr fun k hk => ?_
    obtain ⟨e, he, rfl⟩ := List.mem_map.mp hk
    simp [hp _ (hidle e he)]
  have hfetch := hnone (fun k => (chanOf d k).st == .active && (chanOf d k).desc.isNone) fun k hk => by simp [hk]
  have hwant := hnone (wantsBurst d b) fun k hk => wantsBurst_of_inactive hk
  simp [droveBurst, hfetch, hwant, nextChan_nil]

/-! ### The end of a chain (R431, R439) -/

theorem endChain_ends (hunarmed : (chanOf d c).armed = false) (hpending : (chanOf d c).pending = false) :
    (chanOf (endChain d c) c).st = .idle ∧ (chanOf (endChain d c) c).desc = none := by
  simp [endChain, hunarmed, hpending]

theorem endChain_again (hpending : (chanOf d c).pending = true) :
    (chanOf (endChain d c) c).st = .active ∧ (chanOf (endChain d c) c).cur = (chanOf d c).descAddr ∧ (chanOf (endChain d c) c).pending = false := by
  simp [endChain, startChan, hpending]

/-- A skip of a chain's last descriptor ends the chain. -/
theorem exec_droveSkip_last {s : State} {x : DescIn} (hc : c < 128) (hon : domOn s.start 2 = true) (hhalted : (chanOf s.start c).st = .halted)
    (hdesc : (chanOf s.start c).desc = some x) (hlast : x.last = true) : exec (.droveSkip c) s = s.become (endChain s.start c) := by
  refine (b_droveSkip s c).trans (congrArg s.become ((if_pos ⟨hc, hon⟩).trans ((if_neg (not_not.mpr hhalted)).trans ?_)))
  simp only [hdesc, hlast, if_true]

/-! ### Triggers (R431) -/

section
variable {line : Nat}

theorem triggerChan_fires (harmed : (chanOf d c).armed = true) (hline : (chanOf d c).trigger = line)
    (hready : (chanOf d c).st = .idle ∨ (chanOf d c).st = .waiting) : triggerChan line d c = startChan d c :=
  (if_neg fun hno => hno.elim (· harmed) (· hline)).trans (if_pos hready)

/-- A trigger that finds the chain running or halted is held until it ends. -/
theorem triggerChan_pends (harmed : (chanOf d c).armed = true) (hline : (chanOf d c).trigger = line)
    (hbusy : (chanOf d c).st = .active ∨ (chanOf d c).st = .halted) : triggerChan line d c = onChan d c (fun h => { h with pending := true }) := by
  have hready : ¬ ((chanOf d c).st = .idle ∨ (chanOf d c).st = .waiting) := by
    rcases hbusy with hst | hst <;> simp [hst]
  exact (if_neg fun hno => hno.elim (· harmed) (· hline)).trans (if_neg hready)

theorem triggerChan_other (hother : (chanOf d c).armed = false ∨ (chanOf d c).trigger ≠ line) : triggerChan line d c = d :=
  if_pos (hother.imp_left Bool.eq_false_iff.mp)

/-- With one channel, a trigger is that channel's. -/
theorem exec_droveTrigger_single {s : State} (hon : domOn s.start 2 = true) (hchans : s.start.drove.chans = [(c, h)]) :
    exec (.droveTrigger line) s = s.become (triggerChan line s.start c) := by
  refine (b_droveTrigger s line).trans (congrArg s.become ((if_pos hon).trans ?_))
  rw [hchans]
  rfl

end

end

/-- Settles O49, event by event. -/
theorem droveEventsComplete : Obligations.DroveEventsComplete := by
  unfold Obligations.DroveEventsComplete
  refine ⟨?burst, ?stalled, ?idle, ?starts, ?started, ?resume, ?skip, ?skipLast, ?skipPending, ?abort, ?abortPending, ?fires, ?pends, ?other⟩
  case burst =>
    rintro s b c h x ⟨hon, hchans, hactive, hdesc, hreq, hcredit⟩
    exact congrArg s.commit ((if_pos hon).trans (droveBurst_single s.mem hchans hactive hdesc hreq hcredit))
  case stalled =>
    rintro s b c h x ⟨hon, hchans, hactive, hdesc, hreq, huses, hnone⟩
    exact congrArg s.commit ((if_pos hon).trans (droveBurst_stalled s.mem hchans hactive hdesc hreq huses hnone))
  case idle =>
    rintro s b ⟨hon, hidle⟩
    exact congrArg s.commit ((if_pos hon).trans (droveBurst_idle s.mem b hidle))
  case starts =>
    rintro s chan ⟨hc, hon, hidle⟩
    exact (b_droveStart s chan).trans (congrArg s.become ((if_pos ⟨hc, hon⟩).trans (if_pos hidle)))
  case started =>
    rintro s chan ⟨hc, hon, hbusy⟩
    exact (b_droveStart s chan).trans (congrArg s.become ((if_pos ⟨hc, hon⟩).trans (if_neg hbusy)))
  case resume =>
    rintro s chan ⟨hc, hon, hhalted⟩
    exact (b_droveResume s chan).trans (congrArg s.become ((if_pos ⟨hc, hon⟩).trans (if_pos hhalted)))
  case skip =>
    rintro s chan x ⟨hc, hon, hhalted, hdesc, hlast⟩
    refine (b_droveSkip s chan).trans (congrArg s.become ((if_pos ⟨hc, hon⟩).trans ((if_neg (not_not.mpr hhalted)).trans ?_)))
    simp only [hdesc, hlast, Bool.false_eq_true, if_false, nextDesc]
  case skipLast =>
    rintro s chan x ⟨hc, hon, hhalted, hdesc, hlast, hunarmed, hpending⟩
    exact ⟨_, exec_droveSkip_last hc hon hhalted hdesc hlast, endChain_ends hunarmed hpending⟩
  case skipPending =>
    rintro s chan x ⟨hc, hon, hhalted, hdesc, hlast, hpending⟩
    exact ⟨_, exec_droveSkip_last hc hon hhalted hdesc hlast, endChain_again hpending⟩
  case abort =>
    rintro s chan ⟨hc, hon, hrunning⟩
    have hkept : ¬ ((chanOf s.start chan).st = .halted ∧ (chanOf s.start chan).pending = true) := by
      rcases hrunning with hst | hst <;> simp [hst]
    have hbusy : (chanOf s.start chan).st ≠ .idle := by
      rcases hrunning with hst | hst <;> simp [hst]
    exact (b_droveAbort s chan).trans (congrArg s.become ((if_pos ⟨hc, hon⟩).trans ((if_neg hbusy).trans (if_neg hkept))))
  case abortPending =>
    rintro s chan ⟨hc, hon, hhalted, -, hpending⟩
    have hbusy : (chanOf s.start chan).st ≠ .idle := by simp [hhalted]
    refine ⟨_, (b_droveAbort s chan).trans (congrArg s.become ((if_pos ⟨hc, hon⟩).trans ((if_neg hbusy).trans (if_pos ⟨hhalted, hpending⟩)))), ?_⟩
    simp [startChan]
  case fires =>
    rintro s line c h ⟨hon, hchans, harmed, hline, hready⟩
    rw [← chanOf_single hchans] at harmed hline hready
    rw [exec_droveTrigger_single hon hchans, triggerChan_fires harmed hline hready, startChan]
  case pends =>
    rintro s line c h ⟨hon, hchans, harmed, hline, hbusy⟩
    rw [← chanOf_single hchans] at harmed hline hbusy
    rw [exec_droveTrigger_single hon hchans, triggerChan_pends harmed hline hbusy]
  case other =>
    rintro s line c h ⟨hon, hchans, hother⟩
    rw [← chanOf_single hchans] at hother
    rw [exec_droveTrigger_single hon hchans, triggerChan_other hother]

end Sys2Proof.Machine
end

section
/-! PROOFS. What the resets, the pins and the boot come to (O57). -/

namespace Sys2Proof.Machine

-- One proof after another: elaborated side by side, the whole text would take more memory than its check allows.
set_option Elab.async false

section
variable {d e : Dev}

/-! ### Resets (R587) -/

theorem stopHeld_deviceReset (d : Dev) (n : Nat) : (sliceOf (deviceReset d) n).stopHeld = (sliceOf d n).stopHeld :=
  congrArg Slice.stopHeld (a₂ := sliceAtReset (sliceOf d n)) (tgetD_tmap d.acc.slices (fun _ s => sliceAtReset s) n Slice.reset rfl)

/-- A reset of PCIe ends the rings, BAR2's window and MSI-X; sessions stay. -/
theorem pcieReset_effects (d : Dev) : (pcieReset d).sys.rings = [] ∧ (pcieReset d).sys.bar2Win = 0 ∧ (pcieReset d).sys.int.msixEn = false
    ∧ (pcieReset d).sys.sess = d.sys.sess := by
  have hmsix : ∀ e : Dev, (intUpdate e).sys.int.msixEn = e.sys.int.msixEn := by
    intro e
    unfold intUpdate msixSend
    simp only
    split_ifs <;> simp [onInt, emit]
  simp [pcieReset, hmsix, onInt, onSys]

/-! ### What a boot picks (R471, R475) -/

/-- What firmware a boot picks is read from the Fold alone. -/
theorem bootPick_of_fold (hstore : e.fold.boot.store = d.fold.boot.store) (hkeys : e.fold.keylist = d.fold.keylist) (hotp : e.fold.otp = d.fold.otp)
    (hguard : e.fold.guard = d.fold.guard) (kind : Nat) : bootPick e kind = bootPick d kind := by
  have horder : bootOrder e kind = bootOrder d kind := by simp only [bootOrder, hstore]
  have hok : ∀ i lifted, firmwareOk e kind i lifted = firmwareOk d kind i lifted := by
    intro i lifted
    simp only [firmwareOk, verifyImage, signedOk, belowCounter, rollbackOf, rollbackFind, hkeys, hotp]
    rfl
  simp only [bootPick, horder, hok, hguard]

/-- The Fold once a boot has read the OTP's ruling and the jumper (R495, R498). -/
def ruledFold (strapped : Bool) (f : FoldState) : FoldState :=
  let ruling := otpRuling f.otp
  let guard := { f.guard with jumperStrapped := strapped, rngOk := true }
  { f with
    boot := { f.boot with otpInForce := ruling.map (·.2), otpGen := (ruling.map (·.1)).getD 0 }
    guard := if strapped = true ∧ ((ruling.map (·.2)).getD OtpFields.none).jumper = true then { guard with window := .jumper, endTick := 0 } else guard }

theorem bootRules_fold (strapped : Bool) (d : Dev) : (bootRules strapped d).fold = ruledFold strapped d.fold := by
  unfold bootRules ruledFold
  extract_lets r d₁ d₂ guard
  have hrules : otpRules d₂ = (r.map (·.2)).getD OtpFields.none := rfl
  rw [hrules]
  by_cases hjumper : strapped = true ∧ ((r.map (·.2)).getD OtpFields.none).jumper = true
  · rw [if_pos hjumper, if_pos hjumper]
    exact (raiseLeaf_touch ..).same .fold rfl
  · rw [if_neg hjumper, if_neg hjumper]
    rfl

theorem bootPick_empty (hempty : d.fold.boot.store = []) (kind : Nat) : bootPick d kind = none := by
  simp [bootPick, bootOrder, hempty, tget]

/-! ### A boot's course (R471) -/

/-- A device whose pins are driven, whose spare rows are counted after a power-on, and whose engines have tested themselves. -/
def bootTested (rows : List (Nat × Nat)) (engines : List Nat) (d : Dev) : Dev :=
  let driven := onPins d (fun p => { p with driven := true, sysclkEn := true, resetLevel := 0 })
  flockSelfTest engines (if d.pins.resetLevel = 1 then onInteg driven (fun x => { x with rowMap := [0, 1].map (fun k =>
      let bad := ((rows.filter (fun r => r.1 == k)).map (·.2)).eraseDups.take 256
      (k, { StackRows.reset with remap := (List.range bad.length).map (fun i => (bad.getD i 0, i)), free := 256 - bad.length })) }) else driven)

/-- A device that runs firmware `x` in its Fold, which then holds its key pairs. -/
def foldLoaded (x : Nat × ImageDesc × Bool) (d : Dev) : Dev :=
  let running := raiseIf x.2.2 (onBoot d (fun b => { b with stage := .foldFw, foldSlot := x.1, runFold := some x.2.1 })) 22 0
  onFold running (fun f => { f with pairsHeld := true, pairsEpoch := (otpRules running).rootEpoch })

/-- A device that runs firmware `y` in its control cores. -/
def ctrlLoaded (y : Nat × ImageDesc × Bool) (d : Dev) : Dev :=
  raiseIf y.2.2 (onBoot d (fun b => { b with stage := .ctrl, ctrlSlot := y.1, runCtrl := some y.2.1 })) 22 0

section
variable (rows : List (Nat × Nat)) (engines : List Nat) (image : ImageDesc) (strapped : Bool)

theorem bootTested_keeps (d : Dev) : (bootTested rows engines d).fold = d.fold ∧ (bootTested rows engines d).pins.driven = true := by
  have htest := flockSelfTest_touch engines
  unfold bootTested
  extract_lets driven
  have hdriven : ∀ x : Dev, x.fold = d.fold → x.pins.driven = true → (flockSelfTest engines x).fold = d.fold ∧ (flockSelfTest engines x).pins.driven = true :=
    fun x hfold hpins => ⟨((htest x).same .fold rfl).trans hfold, (congrArg PinState.driven ((htest x).same .pins rfl)).trans hpins⟩
  by_cases hlit : d.pins.resetLevel = 1
  · rw [if_pos hlit]
    exact hdriven _ rfl rfl
  · rw [if_neg hlit]
    exact hdriven _ rfl rfl

section
variable (hgate : ¬ (d.fold.boot.stage ≠ .rom ∨ d.fold.boot.selftest = true ∨ d.pins.thermTrip = true))
include hgate

theorem boot_failed : boot strapped false rows engines image d = onBoot (bootTested rows engines d) (fun b => { b with selftest := true }) :=
  (if_neg hgate).trans (if_pos Bool.false_ne_true)

theorem boot_noFold (hnone : bootPick (bootRules strapped (bootTested rows engines d)) 2 = none) :
    boot strapped true rows engines image d = onBoot (bootRules strapped (bootTested rows engines d)) (fun b => { b with stage := .recovery, badKind := 2 }) := by
  unfold bootTested at hnone ⊢
  simp only [boot, if_neg hgate, not_true_eq_false, if_false, hnone]

/-- With firmware for the Fold and for the control cores, a boot comes to the engines. -/
theorem boot_ready {x y : Nat × ImageDesc × Bool} (hfold : bootPick (bootRules strapped (bootTested rows engines d)) 2 = some x)
    (hctrl : bootPick (foldLoaded x (bootRules strapped (bootTested rows engines d))) 3 = some y) :
    boot strapped true rows engines image d = bootEngines image (ctrlLoaded y (foldLoaded x (bootRules strapped (bootTested rows engines d)))) := by
  unfold foldLoaded bootTested at *
  simp only [boot, if_neg hgate, not_true_eq_false, if_false, hfold, bootCtrl, hctrl, ctrlLoaded]

end

/-- A boot's last step loads the engines; of the Fold it changes the stage alone. -/
theorem bootEngines_boot (d : Dev) : (bootEngines image d).fold.boot = { d.fold.boot with stage := .ready } ∧ (bootEngines image d).pins = d.pins := by
  refine ⟨?_, (bootEngines_touch image d).same .pins rfl⟩
  have hgroups : ∀ l : List Nat, (l.foldl (fun d g => onFGroup d g (fun x => { x with image := some image })) d).fold = d.fold :=
    fun l => foldl_keeps Dev.fold _ l d fun _ _ => rfl
  have hengines : ∀ (l : List Nat) (e : Dev), (l.foldl (fun d e => onEng d e (fun x => if x.st = .out then x else loadEngine image x)) e).fold = e.fold :=
    fun l e => foldl_keeps Dev.fold _ l e fun _ _ => rfl
  unfold bootEngines
  simp only [onBoot, onFold]
  split_ifs
  · rw [hengines, hgroups]
  · rfl

theorem ctrlLoaded_fold (y : Nat × ImageDesc × Bool) (d : Dev) :
    (ctrlLoaded y d).fold = { d.fold with boot := { d.fold.boot with stage := .ctrl, ctrlSlot := y.1, runCtrl := some y.2.1 } } ∧ (ctrlLoaded y d).pins = d.pins :=
  ⟨(raiseIf_touch ..).same .fold rfl, (raiseIf_touch ..).same .pins rfl⟩

theorem foldLoaded_fold (x : Nat × ImageDesc × Bool) (d : Dev) : ∃ epoch,
    (foldLoaded x d).fold = { d.fold with boot := { d.fold.boot with stage := .foldFw, foldSlot := x.1, runFold := some x.2.1 }, pairsHeld := true, pairsEpoch := epoch }
      ∧ (foldLoaded x d).pins = d.pins := by
  unfold foldLoaded
  extract_lets running
  have hfold : running.fold = { d.fold with boot := { d.fold.boot with stage := .foldFw, foldSlot := x.1, runFold := some x.2.1 } } := (raiseIf_touch ..).same .fold rfl
  refine ⟨(otpRules running).rootEpoch, ?_, (raiseIf_touch ..).same .pins rfl⟩
  rw [onFold, hfold]

/-- The firmware that a boot runs is what the rules it reads pick, and its pins are driven. -/
theorem boot_ready_effects {x y : Nat × ImageDesc × Bool} (hgate : ¬ (d.fold.boot.stage ≠ .rom ∨ d.fold.boot.selftest = true ∨ d.pins.thermTrip = true))
    (hfold : bootPick (bootRules strapped d) 2 = some x) (hctrl : bootPick (bootRules strapped d) 3 = some y) :
    (boot strapped true rows engines image d).fold.boot.stage = .ready ∧ (boot strapped true rows engines image d).fold.boot.runFold = some x.2.1
      ∧ (boot strapped true rows engines image d).fold.boot.runCtrl = some y.2.1 ∧ (boot strapped true rows engines image d).fold.boot.ctrlSlot = y.1
      ∧ (boot strapped true rows engines image d).pins.driven = true := by
  obtain ⟨htested, hdriven⟩ := bootTested_keeps rows engines d
  have hrules : (bootRules strapped (bootTested rows engines d)).fold = (bootRules strapped d).fold := by rw [bootRules_fold, bootRules_fold, htested]
  have hpins : (bootRules strapped (bootTested rows engines d)).pins.driven = true := (congrArg PinState.driven ((bootRules_touch strapped _).same .pins rfl)).trans hdriven
  obtain ⟨epoch, hloaded, hloadedPins⟩ := foldLoaded_fold x (bootRules strapped (bootTested rows engines d))
  have hpick : bootPick (bootRules strapped (bootTested rows engines d)) 2 = some x := by
    rw [bootPick_of_fold (d := bootRules strapped d) (by rw [hrules]) (by rw [hrules]) (by rw [hrules]) (by rw [hrules])]
    exact hfold
  have hpickCtrl : bootPick (foldLoaded x (bootRules strapped (bootTested rows engines d))) 3 = some y := by
    rw [bootPick_of_fold (d := bootRules strapped d) (by rw [hloaded, hrules]) (by rw [hloaded, hrules]) (by rw [hloaded, hrules]) (by rw [hloaded, hrules])]
    exact hctrl
  rw [boot_ready rows engines image strapped hgate hpick hpickCtrl]
  generalize foldLoaded x (bootRules strapped (bootTested rows engines d)) = e at *
  obtain ⟨hboot, hbootPins⟩ := bootEngines_boot image (ctrlLoaded y e)
  obtain ⟨hctrlFold, hctrlPins⟩ := ctrlLoaded_fold y e
  rw [hboot, hctrlFold, hloaded]
  exact ⟨rfl, rfl, rfl, rfl, by rw [hbootPins, hctrlPins, hloadedPins, hpins]⟩

end

end

/-- Settles O57, event by event. -/
theorem resetEventsComplete : Obligations.ResetEventsComplete := by
  unfold Obligations.ResetEventsComplete
  refine ⟨fun _ => rfl, ?por, fun _ => rfl, fun _ => rfl, fun _ => rfl, fun _ => ⟨_, rfl, rfl, rfl, rfl⟩, exec_thermtripClear, ?perst, exec_pcieLinkL0, ?tripped,
    ?testFailed, ?noFirmware, ?ready⟩
  case por =>
    intro s
    exact ⟨_, rfl, stopHeld_deviceReset s.start, rfl, rfl, rfl, rfl, rfl, rfl⟩
  case perst =>
    intro s
    obtain ⟨hrings, hwin, hmsix, hsess⟩ := pcieReset_effects s.start
    exact ⟨_, exec_perstN s, hrings, hwin, hmsix, hsess, (pcieReset_touch s.start).same .pwr rfl⟩
  case tripped =>
    intro s strapped selfTestOk rows engines image htrip
    exact (exec_boot ..).trans (congrArg s.become (if_pos (.inr (.inr htrip))))
  all_goals
    intro s strapped selfTestOk rows engines image
  case testFailed =>
    rintro ⟨hrom, hfirst, htrip, rfl⟩
    have hgate : ¬ (s.start.fold.boot.stage ≠ .rom ∨ s.start.fold.boot.selftest = true ∨ s.start.pins.thermTrip = true) := by simp [hrom, hfirst, htrip]
    obtain ⟨htested, hdriven⟩ := bootTested_keeps rows engines s.start
    refine ⟨_, (exec_boot ..).trans (congrArg s.become (boot_failed rows engines image strapped hgate)), rfl, ?_, hdriven⟩
    exact (congrArg (fun f : FoldState => f.boot.stage) htested).trans hrom
  case noFirmware =>
    rintro ⟨hrom, hfirst, htrip, rfl, hempty⟩
    have hgate : ¬ (s.start.fold.boot.stage ≠ .rom ∨ s.start.fold.boot.selftest = true ∨ s.start.pins.thermTrip = true) := by simp [hrom, hfirst, htrip]
    have hnone : bootPick (bootRules strapped (bootTested rows engines s.start)) 2 = none := by
      refine bootPick_empty ?_ 2
      rw [bootRules_fold, (bootTested_keeps rows engines s.start).1]
      exact hempty
    exact ⟨_, (exec_boot ..).trans (congrArg s.become (boot_noFold rows engines image strapped hgate hnone)), rfl, rfl⟩
  case ready =>
    rintro x y ⟨hrom, hfirst, htrip, rfl, hfold, hctrl⟩
    have hgate : ¬ (s.start.fold.boot.stage ≠ .rom ∨ s.start.fold.boot.selftest = true ∨ s.start.pins.thermTrip = true) := by simp [hrom, hfirst, htrip]
    exact ⟨_, exec_boot .., boot_ready_effects rows engines image strapped hgate hfold hctrl⟩

end Sys2Proof.Machine
end

section
/-! PROOFS. What the events of the power domains, of Winter and its wakes, of the thaw, of Autumn, of the supplies and of the firmware swap come to (O56). -/

namespace Sys2Proof.Machine

-- One proof after another: elaborated side by side, the whole text would take more memory than its check allows.
set_option Elab.async false

section
variable {d e : Dev}

/-! ### Power domains (R556) -/

theorem domState_of_pwr (h : e.pwr.doms = d.pwr.doms) (k : Nat) : domState e k = domState d k := congrArg (fun t => tgetD t k DomSt.on) h

theorem pwr_raiseLeaf (d : Dev) (w b : Nat) : (raiseLeaf d w b).pwr = d.pwr := (raiseLeaf_touch d w b).same .pwr rfl

theorem domState_domUp (d : Dev) (k j : Nat) : domState (domUp d k) j = if j = k then .on else domState d j := by
  unfold domUp
  by_cases hon : domState d k = .on
  · rw [if_pos hon]
    by_cases hj : j = k
    · rw [if_pos hj, hj, hon]
    · rw [if_neg hj]
  · rw [if_neg hon, ← domState_setDom]
    exact domState_of_pwr (congrArg PwrState.doms (pwr_raiseLeaf ..)) j

theorem domState_domDown (d : Dev) (k j : Nat) : domState (domDown d k) j = if j = k then .off else domState d j := by
  unfold domDown
  by_cases hoff : domState d k = .off
  · rw [if_pos hoff]
    by_cases hj : j = k
    · rw [if_pos hj, hj, hoff]
    · rw [if_neg hj]
  · rw [if_neg hoff, ← domState_setDom]
    exact domState_of_pwr (congrArg PwrState.doms (pwr_raiseLeaf ..)) j

/-- Domains switched on one after another: each of them is ON, and so is each that was. -/
theorem domState_foldl_domUp (l : List Nat) (d : Dev) {j : Nat} (hj : j ∈ l ∨ domState d j = .on) : domState (l.foldl domUp d) j = .on := by
  induction l generalizing d with
  | nil => simpa using hj
  | cons k r ih =>
    refine ih (domUp d k) ?_
    rw [domState_domUp]
    by_cases hk : j = k
    · exact .inr (if_pos hk)
    · simpa [hk] using hj

theorem domState_foldl_domDown (l : List Nat) (d : Dev) {j : Nat} (hj : j ∈ l ∨ domState d j = .off) : domState (l.foldl domDown d) j = .off := by
  induction l generalizing d with
  | nil => simpa using hj
  | cons k r ih =>
    refine ih (domDown d k) ?_
    rw [domState_domDown]
    by_cases hk : j = k
    · exact .inr (if_pos hk)
    · simpa [hk] using hj

theorem domUp_told {k : Nat} (h : domState d k ≠ .on) :
    (domUp d k).pwr.domLast = k ∧ (domUp d k).pwr.domLastUp = true ∧ (leafWord (domUp d k).sys.int 25).getLsbD 3 = true := by
  rw [domUp, if_neg h]
  exact ⟨congrArg PwrState.domLast (pwr_raiseLeaf ..), congrArg PwrState.domLastUp (pwr_raiseLeaf ..), raiseLeaf_sets _ 25 (by decide)⟩

theorem domDown_told {k : Nat} (h : domState d k ≠ .off) :
    (domDown d k).pwr.domLast = k ∧ (domDown d k).pwr.domLastUp = false ∧ (leafWord (domDown d k).sys.int 25).getLsbD 4 = true := by
  rw [domDown, if_neg h]
  exact ⟨congrArg PwrState.domLast (pwr_raiseLeaf ..), congrArg PwrState.domLastUp (pwr_raiseLeaf ..), raiseLeaf_sets _ 25 (by decide)⟩

theorem domDown_domPend (d : Dev) (k : Nat) : (domDown d k).pwr.domPend = d.pwr.domPend := by
  unfold domDown
  split_ifs
  · rfl
  · exact (congrArg PwrState.domPend (pwr_raiseLeaf ..)).trans rfl

/-! ### The commands that wait for a domain (R557) -/

theorem leafBit_sendReply {w bit : Nat} (hset : (leafWord d.sys.int w).getLsbD bit = true) (tr : Option Transport) (p : Reply) :
    (leafWord (sendReply d tr p).sys.int w).getLsbD bit = true := by
  have hpost : ∀ r, (leafWord (cqPost d r p).sys.int w).getLsbD bit = true := by
    intro r
    unfold cqPost
    by_cases hworks : cqWorks (ringOf d r) = true
    · rw [if_neg (not_not.mpr hworks)]
      by_cases hfree : cqFree (ringOf d r) = true ∧ (ringOf d r).waiting = []
      · rw [if_pos hfree]
        exact leafBit_raiseLeaf (d := onRing d r _) hset 0 r
      · rw [if_neg hfree]
        exact hset
    · rw [if_pos hworks]
      exact hset
  cases tr with
  | none => exact hset
  | some t =>
    cases t with
    | ring r => exact hpost r
    | session k =>
      simp only [sendReply]
      split_ifs
      · exact hset
      · exact hset

theorem leafBit_followUp {w bit : Nat} (hset : (leafWord d.sys.int w).getLsbD bit = true) (c : ReplyCtx) (st : Status) (data : List Nat) :
    (leafWord (followUp d c st data).sys.int w).getLsbD bit = true :=
  leafBit_raiseLeaf (leafBit_sendReply (d := epochDone d c.epoch) hset ..) 0 10

theorem serveWaits_pwr (d : Dev) : (serveWaits d).pwr = { d.pwr with waits := d.pwr.waits.filter (fun w => !waitMet d w) } := by
  refine (foldl_keeps Dev.pwr _ _ _ fun x w => ?_).trans rfl
  split_ifs
  · exact (followUp_touch ..).same .pwr rfl
  · rfl

theorem leafBit_serveWaits {w bit : Nat} (hset : (leafWord d.sys.int w).getLsbD bit = true) : (leafWord (serveWaits d).sys.int w).getLsbD bit = true := by
  refine List.foldlRecOn (motive := fun x : Dev => (leafWord x.sys.int w).getLsbD bit = true) _ _ hset fun x hx j _ => ?_
  split_ifs
  · exact leafBit_followUp hx ..
  · exact hx

/-- A domain that has powered up is ON, and is told of. -/
theorem domainUpDone_effects {k : Nat} (h : domState d k = .poweringUp) :
    domState (domainUpDone k d) k = .on ∧ (domainUpDone k d).pwr.domLast = k ∧ (domainUpDone k d).pwr.domLastUp = true
      ∧ (leafWord (domainUpDone k d).sys.int 25).getLsbD 3 = true := by
  obtain ⟨hlast, hup, hleaf⟩ := domUp_told (d := d) (k := k) (by simp [h])
  unfold domainUpDone
  rw [if_neg (not_not.mpr h)]
  extract_lets d₁
  have hreload : ∀ p : Prop, ∀ [Decidable p], (if p then reloadGroup d₁ (k - 17) else d₁).pwr = (domUp d k).pwr
      ∧ (if p then reloadGroup d₁ (k - 17) else d₁).sys = (domUp d k).sys := by
    intro p _
    by_cases hp : p
    · rw [if_pos hp]
      exact ⟨(reloadGroup_touch d₁ _).same .pwr rfl, (reloadGroup_touch d₁ _).same .sys rfl⟩
    · rw [if_neg hp]
      exact ⟨rfl, rfl⟩
  obtain ⟨hpwr, hsys⟩ := hreload (17 ≤ k ∧ k ≤ 32)
  refine ⟨?_, by rw [serveWaits_pwr, hpwr, hlast], by rw [serveWaits_pwr, hpwr, hup], leafBit_serveWaits (by rw [hsys, hleaf])⟩
  rw [domState_of_pwr (d := domUp d k) (by rw [serveWaits_pwr, hpwr]), domState_domUp, if_pos rfl]

section
variable {k : Nat} (h : domState d k = .shuttingDown)
include h

/-- A domain that has shut down, and is not asked to be up again, is OFF and told of. -/
theorem domainDownDone_effects (hpend : d.pwr.domPend.contains k = false) :
    domState (domainDownDone k d) k = .off ∧ (domainDownDone k d).pwr.domLast = k ∧ (domainDownDone k d).pwr.domLastUp = false
      ∧ (leafWord (domainDownDone k d).sys.int 25).getLsbD 4 = true := by
  obtain ⟨hlast, hdown, hleaf⟩ := domDown_told (d := d) (k := k) (by simp [h])
  have hdone : domainDownDone k d = serveWaits (domDown d k) := by
    refine (if_neg (not_not.mpr h)).trans (if_neg ?_)
    rw [serveWaits_pwr, domDown_domPend, hpend]
    exact Bool.false_ne_true
  rw [hdone]
  refine ⟨?_, by rw [serveWaits_pwr, hlast], by rw [serveWaits_pwr, hdown], leafBit_serveWaits hleaf⟩
  rw [domState_of_pwr (d := domDown d k) (by rw [serveWaits_pwr]), domState_domDown, if_pos rfl]

/-- A domain that has shut down and is asked to be up powers up again at once. -/
theorem domainDownDone_again (hpend : d.pwr.domPend.contains k = true) :
    domState (domainDownDone k d) k = .poweringUp ∧ (domainDownDone k d).pwr.domPend.contains k = false := by
  have hdone : domainDownDone k d = setDom (onPwr (serveWaits (domDown d k)) (fun p => { p with domPend := p.domPend.filter (· != k) })) k .poweringUp := by
    refine (if_neg (not_not.mpr h)).trans (if_pos ?_)
    rw [serveWaits_pwr, domDown_domPend, hpend]
  rw [hdone]
  refine ⟨(domState_setDom ..).trans (if_pos rfl), ?_⟩
  simp [setDom, onPwr]

end

/-! ### Winter and its wakes (R566, R567, R569) -/

theorem winterReady_effects {w : WinterJob} (hjob : d.pwr.winter = some w) (hstep : w.step = 2) (hentering : d.pwr.phase = .entering) :
    (winterReady d).pwr.winter.map (·.step) = some 3 ∧ ∀ k ∈ winterOrder, domState (winterReady d) k = .off := by
  unfold winterReady
  rw [hjob]
  dsimp -zeta only
  rw [if_neg (not_or_intro (not_not.mpr hstep) (not_not.mpr hentering))]
  extract_lets d₁ d₂ d₃
  have hflushed : d₁.pwr = (winterOrder.foldl domDown d).pwr := (flushQueues_touch _).same .pwr rfl
  clear_value d₁
  have hasleep : d₂.pwr = d₁.pwr := by
    dsimp only [d₂]
    split_ifs <;> rfl
  have htold : d₃.pwr = d₂.pwr := by
    dsimp only [d₃]
    cases w.ctx with
    | none => rfl
    | some x => exact (followUp_touch ..).same .pwr rfl
  refine ⟨rfl, fun k hk => ?_⟩
  exact (domState_of_pwr (congrArg PwrState.doms (htold.trans (hasleep.trans hflushed))) k).trans (domState_foldl_domDown winterOrder d (.inl hk))

theorem abortEntry_early {w : WinterJob} (hjob : d.pwr.winter = some w) (hstep : w.step = 3) (hctx : w.ctx = none) (cause : Nat) (who : LastWake) :
    abortEntry cause who d = onAux (raiseLeaf (onAux (onPwr d (fun p =>
      { p with phase := .aborting, last := { who with abort := cause }, winter := some { w with ctx := none, step := 7 } }))
      (fun a => { a with aborts := satInc a.aborts })) 25 1) (fun a => { a with avsTarget := [] }) := by
  unfold abortEntry
  rw [hjob]
  dsimp only
  rw [hctx, hstep]
  rfl

theorem beginThaw_pwr (who : LastWake) (d : Dev) :
    (beginThaw who d).pwr = { d.pwr with phase := .thawing, last := who, winter := d.pwr.winter.map (fun w => { w with step := 6, held := none }) } :=
  (railsUp_touch _).same .pwr rfl

theorem wakeActs_winter (hwinter : d.pwr.season = .winter) (hsteady : d.pwr.phase = .steady) (who : LastWake) (edge : Bool) :
    wakeActs who edge d = beginThaw who d :=
  (if_pos hwinter).trans (if_pos hsteady)

/-- Outside Winter and its entry, a wake does nothing. -/
theorem wakeActs_steady (hseason : d.pwr.season ≠ .winter) (hphase : d.pwr.phase ≠ .entering) (who : LastWake) (edge : Bool) : wakeActs who edge d = d :=
  (if_neg hseason).trans (if_pos hphase)

/-- A wake by one pin. -/
def pinWake (pin : Nat) : LastWake := { noWake with pins := 2 ^ pin }

/-- A pin whose WAKE_PINS bit is now as it reads. -/
def pinActive (pin : Nat) (d : Dev) : Dev := onPwr d (fun p => { p with wakePins := (p.wakePins - p.wakePins / 2 ^ pin % 2 * 2 ^ pin) + 1 * 2 ^ pin })

section
variable {pin : Nat} (hen : d.pwr.wakeCtrl.getLsbD (4 * pin) = true) {p : Bool} (hpol : p = d.pwr.wakeCtrl.getLsbD (4 * pin + 1))
include hen hpol

/-- A pin that turns active and stays so is an event, whatever else it is told by. -/
theorem wakePin_turns : ∃ edge, wakePin pin (!p) p p d = wakeActs (pinWake pin) edge
    (if d.pwr.season = .winter then pinActive pin d else emit (raiseLeaf (pinActive pin d) 26 pin) .wakePin pin []) := by
  refine ⟨!(d.pwr.wakeCtrl.getLsbD (4 * pin + 2)), ?_⟩
  unfold wakePin
  extract_lets pol level act d₁ event
  have hact : act p = true := by simp [act, pol, hpol]
  have hevent : event = true := by simp [event, act, pol, hpol]
  have hpin : d₁ = pinActive pin d := by
    dsimp only [d₁]
    rw [hact]
    rfl
  have henabled : d₁.pwr.wakeCtrl.getLsbD (4 * pin) = true := hen
  rw [if_neg (not_or_intro (not_not.mpr henabled) (not_not.mpr hevent)), ← hpin]
  rfl

theorem wakePin_winter (hwinter : d.pwr.season = .winter) (hsteady : d.pwr.phase = .steady) :
    (wakePin pin (!p) p p d).pwr.phase = .thawing ∧ (wakePin pin (!p) p p d).pwr.last.pins = 2 ^ pin := by
  obtain ⟨edge, hwake⟩ := wakePin_turns hen hpol
  rw [hwake, if_pos hwinter, wakeActs_winter (d := pinActive pin d) hwinter hsteady, beginThaw_pwr]
  exact ⟨rfl, rfl⟩

theorem wakePin_steady (hpin : pin < 4) (hseason : d.pwr.season ≠ .winter) (hsteady : d.pwr.phase = .steady) :
    (leafWord (wakePin pin (!p) p p d).sys.int 26).getLsbD pin = true ∧ (wakePin pin (!p) p p d).pwr.phase = .steady := by
  obtain ⟨edge, hwake⟩ := wakePin_turns hen hpol
  have hpwr : (emit (raiseLeaf (pinActive pin d) 26 pin) .wakePin pin []).pwr = (pinActive pin d).pwr := pwr_raiseLeaf ..
  have hphase : (emit (raiseLeaf (pinActive pin d) 26 pin) .wakePin pin []).pwr.phase = .steady := (congrArg PwrState.phase hpwr).trans hsteady
  rw [hwake, if_neg hseason, wakeActs_steady (by rw [hpwr]; exact hseason) (by rw [hphase]; decide)]
  exact ⟨raiseLeaf_sets _ 26 (by omega), hphase⟩

end

theorem bell_domDown (d : Dev) (k : Nat) : (domDown d k).bell = d.bell := (domDown_touch d k).same .bell rfl

theorem sleep_winterLoss (d : Dev) : (winterLoss d).bell.sleep = d.bell.sleep := rfl

/-- The commit keeps the time and the count at entry, darkens the domains and is told of; a wake held meanwhile begins the thaw at once. -/
theorem winterCommit_commits {w : WinterJob} (hjob : d.pwr.winter = some w) (hstep : w.step = 5) (hentering : d.pwr.phase = .entering) (count : BitVec 48) :
    ∃ e, (w.held = none → winterCommit count d = e) ∧ (∀ who, w.held = some who → winterCommit count d = beginThaw who e)
      ∧ e.pwr.season = .winter ∧ e.pwr.phase = .steady ∧ (∀ k ∈ [3, 1, 2, 5, 6, 7], domState e k = .off)
      ∧ e.bell.sleep.sEntry = count ∧ e.bell.sleep.keptTick = d.bell.tick ∧ e.bell.sleep.keptOffset = d.bell.time.offset
      ∧ (leafWord e.sys.int 25).getLsbD 0 = true := by
  unfold winterCommit
  rw [hjob]
  dsimp -zeta only
  rw [if_neg (not_or_intro (not_not.mpr hstep) (not_not.mpr hentering))]
  extract_lets t d₁ d₂ d₃ d₄ d₅
  have hslept : d₁.bell.sleep.sEntry = count ∧ d₁.bell.sleep.keptTick = d.bell.tick ∧ d₁.bell.sleep.keptOffset = d.bell.time.offset := ⟨rfl, rfl, rfl⟩
  have hdown : ∀ l : List Nat, (l.foldl domDown (winterLoss d₁)).bell = (winterLoss d₁).bell := fun l => foldl_keeps Dev.bell _ l _ bell_domDown
  have hloss : d₂.bell = (winterLoss d₁).bell := hdown [3, 1, 2, 5, 6, 7]
  have hbell₂ : d₂.bell.sleep = d₁.bell.sleep := by rw [hloss, sleep_winterLoss]
  have hoff : ∀ k ∈ [3, 1, 2, 5, 6, 7], domState d₂ k = .off := fun k hk => domState_foldl_domDown _ _ (.inl hk)
  clear_value d₂ d₁
  have hsleep : d₃.bell.sleep = d₁.bell.sleep := by
    dsimp only [d₃]
    split_ifs
    · exact (congrArg BellState.sleep ((bell_domDown ..).trans (bell_domDown ..))).trans hbell₂
    · exact hbell₂
  have hdoms : ∀ k ∈ [3, 1, 2, 5, 6, 7], domState d₃ k = .off := by
    intro k hk
    dsimp only [d₃]
    split_ifs
    · show domState (domDown (domDown d₂ 4) 9) k = .off
      rw [domState_domDown, domState_domDown, hoff k hk]
      split_ifs <;> rfl
    · exact hoff k hk
  clear_value d₃
  have hpwr : d₅.pwr = { d₃.pwr with season := .winter, phase := .steady } := pwr_raiseLeaf ..
  have hbell : d₅.bell.sleep = d₁.bell.sleep := (congrArg BellState.sleep ((raiseLeaf_touch ..).same .bell rfl)).trans hsleep
  have hset : (leafWord d₅.sys.int 25).getLsbD 0 = true := raiseLeaf_sets _ 25 (by decide)
  clear_value d₅
  refine ⟨d₅, fun hnone => by rw [hnone], fun who hheld => by rw [hheld], by rw [hpwr], by rw [hpwr],
    fun k hk => (domState_of_pwr (by rw [hpwr]) k).trans (hdoms k hk), ?_⟩
  rw [hbell]
  exact ⟨hslept.1, hslept.2.1, hslept.2.2, hset⟩

/-! ### The thaw (R571) -/

/-- Domains switched on, one after another, are no part of BELL or of the pins. -/
theorem foldl_domUp_keeps (l : List Nat) (d : Dev) : (l.foldl domUp d).bell = d.bell ∧ (l.foldl domUp d).pins = d.pins := by
  have htouch : Touches [.out, .sys, .pwr] d (l.foldl domUp d) := Touches.foldl .refl fun _ _ h => h.andThen (domUp_touch ..) rfl
  exact ⟨htouch.same .bell rfl, htouch.same .pins rfl⟩

theorem thawTime_recovers (count : BitVec 48) (d : Dev) :
    (thawTime count d).bell.sleep.cnt = count ∧ (thawTime count d).bell.lock.st = .holdover ∧ (thawTime count d).bell.time.offset = d.bell.sleep.keptOffset :=
  ⟨rfl, rfl, rfl⟩

/-- A thaw's first steps: the domains named switched on, the time recovered, the control cores' firmware back. -/
theorem thawCtrl_effects (l : List Nat) (d : Dev) (count : BitVec 48) :
    (∀ k ∈ l, domState (thawCtrl (thawTime count (l.foldl domUp d))) k = .on) ∧ (thawCtrl (thawTime count (l.foldl domUp d))).bell.sleep.cnt = count
      ∧ (thawCtrl (thawTime count (l.foldl domUp d))).bell.lock.st = .holdover
      ∧ (thawCtrl (thawTime count (l.foldl domUp d))).bell.time.offset = d.bell.sleep.keptOffset
      ∧ (thawCtrl (thawTime count (l.foldl domUp d))).pins.sysclkEn = d.pins.sysclkEn := by
  obtain ⟨hbell, hpins⟩ := foldl_domUp_keeps l d
  have hon : ∀ k ∈ l, domState (l.foldl domUp d) k = .on := fun k hk => domState_foldl_domUp l d (.inl hk)
  generalize l.foldl domUp d = lit at *
  have hctrl : Touches [.out, .sys, .fold] (thawTime count lit) (thawCtrl (thawTime count lit)) := thawCtrl_touch _
  obtain ⟨hcnt, hlock, hoffset⟩ := thawTime_recovers count lit
  refine ⟨fun k hk => (domState_of_pwr (congrArg PwrState.doms (hctrl.same .pwr rfl)) k).trans (hon k hk), ?_⟩
  rw [show (thawCtrl (thawTime count lit)).bell = (thawTime count lit).bell from hctrl.same .bell rfl,
    show (thawCtrl (thawTime count lit)).pins = lit.pins from hctrl.same .pins rfl, ← hbell, hpins]
  exact ⟨hcnt, hlock, hoffset, rfl⟩

/-- Once the rails are up, the time is recovered and the domains of the clock, the control cores and BELL are on, with those that were. -/
theorem thaw_effects {w : WinterJob} (hjob : d.pwr.winter = some w) (hseason : d.pwr.season = .winter) (hthawing : d.pwr.phase = .thawing) (hstep : w.step = 6)
    (hrails : d.aux.avsTarget = []) (count : BitVec 48) :
    (thaw count d).pwr.winter.map (·.step) = some 8 ∧ (∀ k ∈ [1, 2, 3], domState (thaw count d) k = .on) ∧ (thaw count d).bell.sleep.cnt = count
      ∧ (thaw count d).bell.lock.st = .holdover ∧ (thaw count d).bell.time.offset = d.bell.sleep.keptOffset ∧ (thaw count d).pins.sysclkEn = true := by
  unfold thaw
  rw [hjob]
  dsimp -zeta only
  rw [if_neg (by simp [hseason, hthawing, hstep, hrails])]
  extract_lets d₁ d₂ d₃ d₄ d₅ d₆
  have hd₂ : thawCtrl (thawTime count ([1, 2, 3].foldl domUp d₁)) = d₂ := rfl
  have hbooted := thawCtrl_effects [1, 2, 3] d₁ count
  rw [hd₂] at hbooted
  clear_value d₂
  obtain ⟨hlit, hcnt, hlock, hoffset, hclock⟩ := hbooted
  have hreload : Touches [.flock] d₃ d₄ := Touches.foldl .refl fun _ _ h => h.andThen (reloadGroup_touch ..) rfl
  have hawake : Touches [.acc] d₄ d₅ := onSlice_touch ..
  have hslices : ∀ l : List Nat, Touches [.acc] d₅ (l.foldl (fun d n => onSlice d n sliceAtReset) d₅) := fun l =>
    Touches.foldl .refl fun _ _ h => h.andThen (onSlice_touch ..) rfl
  have hlate : Touches [.flock, .acc] d₃ d₆ := (Touches.andThen hreload.mono hawake rfl).andThen (hslices [1, 2, 3]) rfl
  obtain ⟨hbell, hpins⟩ := foldl_domUp_keeps (w.onBefore.filter (· != 38)) d₂
  have hbell₆ : d₆.bell = d₂.bell := (hlate.same .bell rfl).trans hbell
  have hpins₆ : d₆.pins = d₂.pins := (hlate.same .pins rfl).trans hpins
  have hpwr₆ : d₆.pwr = d₃.pwr := hlate.same .pwr rfl
  have hon₃ : ∀ k ∈ [1, 2, 3], domState d₃ k = .on := fun k hk => domState_foldl_domUp _ _ (.inr (hlit k hk))
  clear_value d₆ d₅ d₄ d₃
  refine ⟨rfl, fun k hk => (domState_of_pwr (congrArg PwrState.doms hpwr₆) k).trans (hon₃ k hk), ?_⟩
  show d₆.bell.sleep.cnt = count ∧ d₆.bell.lock.st = .holdover ∧ d₆.bell.time.offset = d.bell.sleep.keptOffset ∧ d₆.pins.sysclkEn = true
  rw [hbell₆, hpins₆]
  exact ⟨hcnt, hlock, hoffset, hclock⟩

/-- A domain switched on changes the domains alone of what POWER holds. -/
theorem domUp_pwr (d : Dev) (k : Nat) : ∃ doms last up, (domUp d k).pwr = { d.pwr with doms := doms, domLast := last, domLastUp := up } := by
  unfold domUp
  split_ifs
  · exact ⟨_, _, _, rfl⟩
  · exact ⟨_, _, _, pwr_raiseLeaf ..⟩

/-- PCIe returns on, its rings as at reset, and wakes the host. -/
theorem pcieReturn_effects (d : Dev) : domState (pcieReturn d) 38 = .on ∧ (∃ doms last up, (pcieReturn d).pwr = { d.pwr with doms := doms, domLast := last, domLastUp := up })
    ∧ (pcieReturn d).sys.rings = [] ∧ (pcieReturn d).pins.pcieWake = true := by
  unfold pcieReturn
  extract_lets lit fresh updated
  obtain ⟨doms, last, up, hlit⟩ := domUp_pwr (onSys d (fun y => { y with rings := [], bar2Win := 0 })) 38
  have hrings : lit.sys.rings = [] := (domUp_touch ..).same .rings rfl
  have hon : domState lit 38 = .on := (domState_domUp ..).trans (if_pos rfl)
  have hupdated : updated.pwr = lit.pwr := (intUpdate_touch _).same .pwr rfl
  have hkept : updated.sys.rings = lit.sys.rings := (intUpdate_touch _).same .rings rfl
  exact ⟨(domState_of_pwr (congrArg PwrState.doms hupdated) 38).trans hon, ⟨doms, last, up, hupdated.trans hlit⟩, hkept.trans hrings, rfl⟩

/-- With the thaw's work done the device is in Summer, its PCIe anew. -/
theorem thawDone_effects {w : WinterJob} (hjob : d.pwr.winter = some w) (hthawing : d.pwr.phase = .thawing) (hstep : w.step = 8) (hsummer : d.pwr.thawSeason = 0) :
    (thawDone d).pwr.season = .summer ∧ (thawDone d).pwr.phase = .steady ∧ (thawDone d).pwr.winter = none ∧ domState (thawDone d) 38 = .on
      ∧ (thawDone d).sys.rings = [] ∧ (thawDone d).aux.thaws = satInc d.aux.thaws ∧ (thawDone d).pins.pcieWake = true := by
  unfold thawDone
  rw [hjob]
  dsimp -zeta only
  rw [if_pos ⟨hthawing, hstep⟩]
  extract_lets d₁ d₂ d₃ d₄
  have haux : d₁.aux = d.aux := (pcieReturn_touch _).same .aux rfl
  obtain ⟨hon, ⟨doms, last, up, hpwr⟩, hrings, hwake⟩ := pcieReturn_effects (onPwr d (fun p => { p with winter := none, phase := .steady, season := .summer }))
  have hlanes : ∀ l : List Nat, Touches [.lane] d₂ (l.foldl (fun d n => if laneOn d n = true then recalLane d n else d) d₂) := fun l =>
    Touches.foldl .refl fun d n h => by
      split_ifs
      · exact h.andThen (recalLane_touch d n) rfl
      · exact h
  have hleaves : Touches [.out, .sys] d₃ d₄ := (raiseLeaf_touch ..).andThen (raiseLeaf_touch ..) rfl
  have hlate : Touches [.lane, .out, .sys] d₂ d₄ := Touches.andThen (hlanes (List.range 32)).mono hleaves rfl
  have hpwr₄ : d₄.pwr = d₁.pwr := hlate.same .pwr rfl
  have hstay : ¬ d₄.pwr.thawSeason = 1 := by
    rw [hpwr₄, show d₁.pwr.thawSeason = d.pwr.thawSeason from (congrArg PwrState.thawSeason hpwr).trans rfl, hsummer]
    decide
  rw [if_neg hstay]
  refine ⟨by rw [hpwr₄]; exact congrArg PwrState.season hpwr, by rw [hpwr₄]; exact congrArg PwrState.phase hpwr, by rw [hpwr₄]; exact congrArg PwrState.winter hpwr,
    (domState_of_pwr (congrArg PwrState.doms hpwr₄) 38).trans hon, (hlate.same .rings rfl).trans hrings, ?_, (congrArg PinState.pcieWake (hlate.same .pins rfl)).trans hwake⟩
  rw [show d₄.aux = d₂.aux from hlate.same .aux rfl, ← haux]
  rfl

/-! ### The supplies (R573) -/

section
variable {ack r mv : Nat} {vdone expired : Bool} {rest : List (Nat × Nat)} (htarget : d.aux.avsTarget = (r, mv) :: rest)
include htarget

theorem avsPoll_done (hrest : rest ≠ []) (expired : Bool) :
    avsPoll 0 true expired d = avsRequest (onAux d (fun a => { a with avsTarget := rest, avsTries := 0 })) := by
  rw [avsPoll, htarget]
  exact (if_pos ⟨rfl, rfl⟩).trans (if_neg fun hlast => hrest hlast.1)

theorem avsPoll_waits : avsPoll 0 false false d = d := by
  rw [avsPoll, htarget]
  exact (if_neg fun hdone => Bool.false_ne_true hdone.2).trans (if_pos ⟨rfl, Bool.false_ne_true⟩)

/-- A request that is not acknowledged, or that has waited too long, is made again, twice at most. -/
theorem avsPoll_again (hfailed : ack ≠ 0 ∨ (vdone = false ∧ expired = true)) (htries : d.aux.avsTries < 2) :
    avsPoll ack vdone expired d = avsRequest (onAux d (fun a => { a with avsTries := a.avsTries + 1 })) := by
  have hdone : ¬ (ack = 0 ∧ vdone = true) := by
    rcases hfailed with hack | ⟨hv, -⟩
    · exact fun h => hack h.1
    · simp [hv]
  have hwaits : ¬ (ack = 0 ∧ ¬ expired = true) := by
    rcases hfailed with hack | ⟨-, he⟩
    · exact fun h => hack h.1
    · simp [he]
  rw [avsPoll, htarget]
  exact (if_neg hdone).trans ((if_neg hwaits).trans (if_pos htries))

/-- The third refusal of a rail in a row, at the entry to Winter, is a fault and aborts the entry. -/
theorem avsPoll_faults (hack : ack ≠ 0) (htries : 2 ≤ d.aux.avsTries) (hentering : d.pwr.phase = .entering) :
    avsPoll ack vdone expired d = abortEntry 3 noWake (raiseLeaf (onAux d (fun a =>
      { a with avsRail := r, avsAck := ack % 4, avsFaults := satInc a.avsFaults, avsTarget := [], avsTries := 0 })) 25 5) := by
  unfold avsPoll
  rw [htarget]
  dsimp -zeta only
  rw [if_neg fun h => hack h.1, if_neg fun h => hack h.1, if_neg (Nat.not_lt.mpr htries)]
  extract_lets faulted
  have hphase : faulted.pwr.phase = .entering := (congrArg PwrState.phase (pwr_raiseLeaf ..)).trans hentering
  rw [hphase]

end

/-! ### The seasons (R561, R562) -/

/-- Summer begins once nothing powers up for it any more. -/
theorem summerReady_ready {x : ReplyCtx} (hctx : d.pwr.seasonCtx = some x)
    (hlit : ∀ k ∈ (List.range 16).map (· + 17) ++ d.aux.codecGated, domState d k ≠ .poweringUp) :
    summerReady d = onSys (raiseLeaf (onPwr (onAux d (fun a => { a with codecGated := [] })) (fun p => { p with season := .summer, seasonCtx := none })) 25 0)
      (fun y => { y with atBell := y.atBell ++ [(x, [])] }) := by
  have hnone : ((List.range 16).map (· + 17) ++ d.aux.codecGated).any (fun k => domState d k == DomSt.poweringUp) = false :=
    List.any_eq_false.mpr fun k hk => by simpa using hlit k hk
  rw [summerReady, hctx]
  exact if_neg (Bool.eq_false_iff.mp hnone)

/-- In Autumn, with more groups lit than it keeps, the one with the least charge that may go dark is to be gated. -/
theorem autumnEvaluate_gates {g : Nat} (hautumn : d.pwr.season = .autumn) (hsteady : d.pwr.phase = .steady) (hnone : d.pwr.seasonCtx = none)
    (hcodecs : d.pwr.gateCodecs = false) (hmany : d.pwr.minGroups < (ungated d).length) (hfree : d.aux.gating = none)
    (hlowest : lowestGroup d ((ungated d).filter (mayGate d)) = some g) : autumnEvaluate d = onAux d (fun a => { a with gating := some g }) := by
  have hacts : ¬ (d.pwr.season ≠ .autumn ∨ d.pwr.phase ≠ .steady ∨ d.pwr.seasonCtx.isSome = true) := by simp [hautumn, hsteady, hnone]
  have hroom : ¬ ((ungated d).length ≤ d.pwr.minGroups ∨ d.aux.gating.isSome = true) := by simp [hmany, hfree]
  have hkept : ¬ (d.pwr.gateCodecs = true ∧ d.vid.layouts = []) := by simp [hcodecs]
  unfold autumnEvaluate
  rw [if_neg hacts, if_neg hkept]
  dsimp only
  rw [if_neg hroom, hlowest]

/-- A group with no charge that may be gated begins to power down, its engines with it. -/
theorem autumnGate_effects {g : Nat} (hgating : d.aux.gating = some g) (hclear : groupClear d g = true) (hready : (groupOf d g).st = .ready)
    (hautumn : d.pwr.season = .autumn) (hroutes : ∀ r ∈ d.aud.routes, r.2.engine / 16 = g → r.2.rcd.gateOk = true) (hon : domState d (17 + g) = .on) :
    (autumnGate d).aux.gating = none ∧ g ∈ (autumnGate d).aux.gated ∧ domState (autumnGate d) (17 + g) = .shuttingDown
      ∧ (groupOf (autumnGate d) g).st = .gated ∧ (leafWord (autumnGate d).sys.int 25).getLsbD 6 = true := by
  have hnone : d.aud.routes.any (fun r => r.2.engine / 16 == g && !r.2.rcd.gateOk) = false := by
    refine List.any_eq_false.mpr fun r hr => ?_
    by_cases heng : r.2.engine / 16 = g
    · simp [heng, hroutes r hr heng]
    · simp [heng]
  unfold autumnGate
  rw [hgating]
  dsimp -zeta only
  rw [if_neg (not_not.mpr hclear), if_neg (by simp [hready, hautumn, hnone])]
  extract_lets d₁ d₂ d₃
  have hengines : ∀ l : List Nat, Touches [.flock] d₂ (l.foldl (fun d k => onEng d (16 * g + k) (fun e => if e.st = .media then { e with st := .gated } else e)) d₂) := fun l =>
    Touches.foldl .refl fun _ _ h => h.andThen (onEng_touch ..) rfl
  have hlate : Touches [.flock] d₁ d₃ := (onFGroup_touch ..).andThen (hengines (List.range 16)) rfl
  have haux : (raiseLeaf d₃ 25 6).aux = d₁.aux := ((raiseLeaf_touch ..).same .aux rfl).trans (hlate.same .aux rfl)
  have hpwr : (raiseLeaf d₃ 25 6).pwr = d₁.pwr := (pwr_raiseLeaf ..).trans (hlate.same .pwr rfl)
  have hflock : groupOf (raiseLeaf d₃ 25 6) g = groupOf d₃ g := congrArg (fun f : FlockState => tgetD f.groups g FGroup.reset) ((raiseLeaf_touch ..).same .flock rfl)
  have hgated : (groupOf d₃ g).st = .gated := by
    rw [show groupOf d₃ g = groupOf d₂ g from groupOf_foldl_onEng _ _ _ _ _, groupOf_onFGroup]
  have hdown : domState d₁ (17 + g) = .shuttingDown := (domState_domainOff ..).trans (if_pos ⟨rfl, hon⟩)
  refine ⟨by rw [haux]; rfl, by rw [haux]; simp [d₁, onAux], ?_, by rw [hflock, hgated], raiseLeaf_sets _ 25 (by decide)⟩
  exact (domState_of_pwr (congrArg PwrState.doms hpwr) _).trans hdown

end

/-- Settles O56, event by event. -/
theorem powerEventsComplete : Obligations.PowerEventsComplete := by
  unfold Obligations.PowerEventsComplete
  refine ⟨?up, ?upOther, ?down, ?downAgain, ?winterReady, ?pme, ?linkWait, ?pinWinter, ?pinSummer, ?headEnd, ?headEndOff, ?alarm, ?alarmOff, ?core, ?coreOther,
    ?commit, ?commitHeld, ?avsNext, ?avsWait, ?avsAgain, ?avsFault, ?thaw, ?thawDone, ?summer, ?notAutumn, ?evaluate, ?gate, ?gateWaits, ?resume, ?timeout, ?fence⟩
  case up =>
    rintro s domain ⟨-, hup⟩
    exact ⟨_, exec_domainUpDone .., domainUpDone_effects hup⟩
  case upOther =>
    intro s domain hother
    exact (exec_domainUpDone ..).trans (congrArg s.become (if_pos hother))
  case down =>
    rintro s domain ⟨-, hdown, hpend⟩
    exact ⟨_, exec_domainDownDone .., domainDownDone_effects hdown hpend⟩
  case downAgain =>
    rintro s domain ⟨-, hdown, hpend⟩
    exact ⟨_, exec_domainDownDone .., domainDownDone_again hdown hpend⟩
  case winterReady =>
    rintro s w ⟨hjob, hstep, hentering⟩
    exact ⟨_, exec_winterReady s, winterReady_effects hjob hstep hentering⟩
  case pme =>
    rintro s w ⟨hjob, hstep, hentering⟩
    rw [exec_pmeTurnOff, pmeTurnOff, hjob]
    exact congrArg s.become (if_neg (not_or_intro (not_not.mpr hstep) (not_not.mpr hentering)))
  case linkWait =>
    rintro s w ⟨hjob, hstep, hentering, hctx⟩
    rw [exec_linkWaitExpiry]
    simp only [hjob]
    rw [if_pos ⟨hstep, hentering⟩, abortEntry_early hjob hstep hctx]
  case pinWinter =>
    rintro s pin a b c ⟨hpin, hwinter, hsteady, hen, rfl, rfl, rfl⟩
    exact ⟨_, (exec_wakePin ..).trans (congrArg s.become (if_pos hpin)), wakePin_winter hen rfl hwinter hsteady⟩
  case pinSummer =>
    rintro s pin a b c ⟨hpin, hsummer, hsteady, hen, rfl, rfl, rfl⟩
    exact ⟨_, (exec_wakePin ..).trans (congrArg s.become (if_pos hpin)), wakePin_steady hen rfl hpin (by simp [hsummer]) hsteady⟩
  case headEnd =>
    rintro s ⟨hen, hwinter, hsteady⟩
    exact (exec_wakeHeadEnd s).trans (congrArg s.become ((if_pos hen).trans (wakeActs_winter hwinter hsteady ..)))
  case headEndOff =>
    intro s hoff
    exact (exec_wakeHeadEnd s).trans (congrArg s.become (if_neg (Bool.eq_false_iff.mp hoff)))
  case alarm =>
    rintro s count ⟨hen, hdue, hwinter, hsteady⟩
    exact (exec_wakeAlarm s count).trans (congrArg s.become ((if_pos ⟨hen, hdue⟩).trans (wakeActs_winter (d := onBell s.start _) hwinter hsteady ..)))
  case alarmOff =>
    intro s count hoff
    exact (exec_wakeAlarm s count).trans (congrArg s.become (if_neg fun hdue => Bool.eq_false_iff.mp hoff hdue.1))
  case core =>
    rintro s hwinter
    exact (exec_coreHeartbeatLoss s).trans (congrArg s.become (if_pos hwinter))
  case coreOther =>
    intro s hother
    exact (exec_coreHeartbeatLoss s).trans (congrArg s.become (if_neg fun hwinter => hother hwinter.1))
  case commit =>
    rintro s count w ⟨hjob, hstep, hentering, hnone, -⟩
    obtain ⟨e, hdone, -, hseason, hphase, hoff, hentry, htick, hoffset, hset⟩ := winterCommit_commits hjob hstep hentering count
    refine ⟨_, (exec_winterCommit s count).trans (congrArg s.become (hdone hnone)), ?_⟩
    exact ⟨hseason, hphase, hoff 1 (by simp), hoff 2 (by simp), hoff 3 (by simp), hentry, htick, hoffset, hset⟩
  case commitHeld =>
    rintro s count w who ⟨hjob, hstep, hentering, hheld⟩
    obtain ⟨e, -, hwakes, hseason, -⟩ := winterCommit_commits hjob hstep hentering count
    refine ⟨_, (exec_winterCommit s count).trans (congrArg s.become (hwakes who hheld)), ?_⟩
    have hpwr := beginThaw_pwr who e
    exact ⟨(congrArg PwrState.season hpwr).trans hseason, congrArg PwrState.phase hpwr, congrArg PwrState.last hpwr⟩
  case avsNext =>
    rintro s ack vdone expired r mv rest ⟨htarget, rfl, rfl, hrest⟩
    exact congrArg s.commit (avsPoll_done htarget hrest expired)
  case avsWait =>
    rintro s ack vdone expired r mv rest ⟨htarget, rfl, rfl, rfl⟩
    exact congrArg s.commit (avsPoll_waits htarget)
  case avsAgain =>
    rintro s ack vdone expired r mv rest ⟨htarget, hfailed, htries⟩
    exact congrArg s.commit (avsPoll_again htarget hfailed htries)
  case avsFault =>
    rintro s ack vdone expired r mv rest ⟨htarget, hfailed, htries, hentering⟩
    exact congrArg s.commit (avsPoll_faults htarget hfailed htries hentering)
  case thaw =>
    rintro s count w ⟨hjob, hseason, hthawing, hstep, hrails⟩
    obtain ⟨hwinter, hon, hcnt, hlock, hoffset, hclock⟩ := thaw_effects hjob hseason hthawing hstep hrails count
    exact ⟨_, exec_thaw s count, hwinter, hon 1 (by simp), hon 2 (by simp), hon 3 (by simp), hcnt, hlock, hoffset, hclock⟩
  case thawDone =>
    rintro s w ⟨hjob, hthawing, hstep, hsummer⟩
    exact ⟨_, exec_thawDone s, thawDone_effects hjob hthawing hstep hsummer⟩
  case summer =>
    rintro s x ⟨hctx, hlit⟩
    exact (exec_seasonSummerReady s).trans (congrArg s.become (summerReady_ready hctx hlit))
  case notAutumn =>
    intro s hother
    exact (exec_autumnEvaluate s).trans (congrArg s.become (if_pos (.inl hother)))
  case evaluate =>
    rintro s g ⟨hautumn, hsteady, hnone, hcodecs, hmany, hfree, hlowest⟩
    exact (exec_autumnEvaluate s).trans (congrArg s.become (autumnEvaluate_gates hautumn hsteady hnone hcodecs hmany hfree hlowest))
  case gate =>
    rintro s g ⟨hgating, -, hclear, hready, hautumn, hroutes, hon⟩
    exact ⟨_, exec_autumnGateGroup s, autumnGate_effects hgating hclear hready hautumn hroutes hon⟩
  case gateWaits =>
    rintro s g ⟨hgating, hbusy⟩
    rw [exec_autumnGateGroup, autumnGate, hgating]
    exact congrArg s.become (if_pos (Bool.eq_false_iff.mp hbusy))
  case resume =>
    rintro s j ⟨hjob, hswapping⟩
    refine congrArg s.commit (a₁ := fwSwapResume s.start) ?_
    unfold fwSwapResume
    rw [hjob]
    exact if_neg (not_not.mpr hswapping)
  case timeout =>
    rintro s j ⟨hjob, hswapping⟩
    refine congrArg s.commit (a₁ := fwSwapTimeout s.start) ?_
    unfold fwSwapTimeout
    rw [hjob]
    exact if_neg (not_not.mpr hswapping)
  case fence =>
    rintro s core ⟨hcore, hfree⟩
    refine (exec_controlCoreFence s core).trans (congrArg s.become (if_neg ?_))
    rintro (hover | hfenced)
    · omega
    · exact Bool.eq_false_iff.mp hfree hfenced

end Sys2Proof.Machine
end
